-- ==== Sys2Proof/Word.lean ====
section
/-! DEFINITION. Word.lean: the 32-bit register word and the byte. -/
namespace Sys2Proof

/-- A register word (R12: registers are accessed as whole 32-bit words). -/
abbrev Word := BitVec 32

/-- A byte of SRAM or of a codeword. -/
abbrev Byte := BitVec 8

end Sys2Proof
end

