-- ==== Sys2Proof/Syntax.lean ====
section
/-! DEFINITION. Syntax.lean: the commands and events of the KQ768, one constructor of `Instr` per row of
spec/opcode_table.json, with the operands the environment decides: what the pins, the other nodes, the host and the
analogue world give the node at that step. -/
namespace Sys2Proof

/-- The masters of R528, and the debug port of R529. -/
inductive Master where
  | mp | ha | ra | ce | mtr | saf | dpx | dma | dbg
  deriving DecidableEq, Repr

/-- The monitored rails other than VCORE (SYS_RST_CAUSE.RAIL_ID, R91). -/
inductive Rail where
  | vsram | vlane | vlaneh | vio18 | vio33 | vana
  deriving DecidableEq, Repr

/-- The two switches of a leg (R25). -/
inductive Sw where
  | low | high
  deriving DecidableEq, Repr

/-- The two rings. -/
inductive Ring where
  | x | y
  deriving DecidableEq, Repr

/-- The ring and the direction of travel a codeword arrived by (R151). -/
structure Via where
  ring : Ring
  east : Bool
  deriving DecidableEq, Repr

/-- What the array has developed in an ECC word by the time of this read (R485): a bit error is the environment's. -/
inductive Ecc where
  | clean | single | uncorr
  deriving DecidableEq, Repr

/-- The gate-drive supplies of R330. -/
inductive Supply where
  | vdrv | vneg
  deriving DecidableEq, Repr

/-- The shadows of a lattice channel (R297). -/
inductive ShadowReg where
  | per | duty | dfrac | ph | pfrac | cmp0
  deriving DecidableEq, Repr

/-- The configuration registers of a time-pulse output (R207). -/
inductive TpoReg where
  | start | per | width
  deriving DecidableEq, Repr

/-- The levels of the FLTI pair (R454, R476). -/
inductive FltiLevel where
  | ok | fault | broken
  deriving DecidableEq, Repr

/-- A raise as a detector's error pair gives it (R454, R462). -/
structure RaiseIn where
  code : BitVec 16
  cls : Nat
  scope : Word
  kind : Nat
  inst : Nat
  /-- The cause has ended, or its chapter states no end for it (R472). -/
  ended : Bool
  deriving DecidableEq, Repr

/-- One entry of the station table (R31). -/
structure StationEntry where
  pos : BitVec 8
  role : Nat
  stack : Nat := 3
  cell : Nat := 63
  bypass : Bool := false
  /-- Served cells of a SECONDARY: stack, cell, position of the CELL node. -/
  shares : List (Nat × Nat × BitVec 8) := []
  deriving DecidableEq, Repr

/-- What a flash declares in SFDP (R92, R93): its capacity in bytes, and for each FLASH_MODE it has the greatest clock in
MHz. -/
structure Sfdp where
  size : Nat
  modes : List (Nat × Nat)
  deriving DecidableEq, Repr

/-- The configuration flash as the boot loader finds it (R92): its SFDP answer, and its bytes by rising address where they are
not erased. -/
structure FlashChip where
  sfdp : Option Sfdp := none
  mem : List (Nat × Byte) := []
  deriving DecidableEq, Repr

/-- What the bytes of STATION and CALIB say to this node; the spec gives no layout of them (log entry 8). -/
structure StationRead where
  /-- The array has developed an uncorrectable error in the fetch buffer (ERR 10). -/
  bufferBad : Bool := false
  /-- Single-HEAD operation (SYS_ROLE.SINGLE). -/
  single : Bool := false
  table : List StationEntry := []
  /-- Configured minimum of admitted cells of each stack, and ST_WAIT in ms (R107). -/
  minCells : List Nat := []
  stWait : Nat := 1500
  /-- What the loader writes: register or coefficient-RAM address and value (R102). -/
  cfg : List (Nat × Word) := []
  /-- The host keys in use: index, role 1 READER or 2 OPERATOR, and public key x then y (R522). -/
  hostKeys : List (Nat × Nat × BitVec 512) := []
  /-- Where the node's entry of CALIB lies in its section: offset and length. -/
  calEntry : Nat × Nat := (0, 0)
  deriving DecidableEq, Repr

/-- What the node keeps of a verified image (R94 to R98). -/
structure ImageRead where
  ownerDig : BitVec 256 := 0
  rotate : Bool := false
  nextDig : BitVec 256 := 0
  epoch : Nat := 1
  minEpoch : Nat := 1
  floor : Bool := false
  seq : Word := 0
  /-- First 8 bytes of the SM3 digest of STATION, byte 0 most significant (R98). -/
  cfgDig : BitVec 64 := 0
  /-- The PRED entries in use, as configuration digests (R95). -/
  pred : List (BitVec 64) := []
  /-- Bytes 0 to 7 of the SM3 digest of the node's CALIB entry (R384). -/
  calDig : BitVec 64 := 0
  single : Bool := false
  table : List StationEntry := []
  minCells : List Nat := []
  stWait : Nat := 1500
  /-- Wiring words of ports A to D and G (R141). -/
  wiring : List (BitVec 5) := []
  /-- Equalisation rows, port p and band b at index 5p + b, EQ_LO then EQ_HI (R141). -/
  eq : List (Word × Word) := []
  /-- The DIR digests of FIRMWARE, STATION, BOARD and CALIB, 32 bytes each (R545). -/
  digests : List Byte := []
  hostKeys : List (Nat × Nat × BitVec 512) := []
  deriving DecidableEq, Repr

/-- An admission step (R109): at the primary HEAD the request of a node, at the node the primary's answer. -/
inductive AdmissionIn where
  /-- The node at `pos` asks: its epochs, its configuration digest, whether its image lists the HEAD's digest in PRED,
  whether the measured offset came within 1 µs within 16 cycles, and what tells this device from any other one (log entry
  48). -/
  | request (pos : BitVec 8) (epoch minEpoch : Nat) (cfgDig : BitVec 64)
      (listsUs timeOk : Bool) (device : BitVec 64)
  /-- The primary at `head` grants admission: STIME, the LTIME of a boundary and the SCN of the cycle that it ends, the
  tier, and whether the station is in station Par-bake (R109, R185, R398). -/
  | granted (head : BitVec 8) (scn : Word) (stime : BitVec 48) (nextBoundary : Nat) (tier : BitVec 8) (stnPb : Bool)
  /-- The primary at `head` refuses (`held` false) or holds the node, with the REASON of R109. -/
  | denied (head : BitVec 8) (held : Bool) (reason : Nat)
  deriving DecidableEq, Repr

/-- A datagram at the supervisory port (R514): the link-layer and IP addresses it comes from, its 16 header bytes, the body
as sent, and its MAC, empty where it has none. -/
structure Datagram where
  src : List Byte
  head : List Byte
  body : List Byte
  mac : List Byte
  deriving DecidableEq, Repr

/-- The commands and events of the node, in the order of spec/opcode_table.json. -/
inductive Instr where
  /-- POWER_ON_RESET (R71): VCORE falls below 0.74 V and everything in the VCORE domain, including an FC5 lockout, is cleared. -/
  | powerOnReset
  /-- RAIL_RESET (R71): A monitored rail other than VCORE falls below its threshold and the node resets, keeping the lockout latch and SYS_RST_CAUSE. -/
  | railReset (rail : Rail)
  /-- PGIN_RESET (R71): PGIN goes low for longer than the glitch filter and the node resets as for a rail reset. -/
  | pginReset
  /-- PIN_RESET (R71): RST_N goes low for longer than the glitch filter and the node resets as for a rail reset. -/
  | pinReset
  /-- RST_CTRL_WRITE (R72): A write to SYS_RST_CTRL with KEY 0xA5C3 by the management processor schedules a software reset; any other write is ignored or counted. -/
  | rstCtrlWrite (m : Master) (v : Word)
  /-- SOFT_RESET (R72): 1 µs after an accepted SYS_RST_CTRL write, the software reset begins. -/
  | softReset
  /-- RELEASE_OF_RESET (R68): At the later of 100 µs of power good and root PLL lock, reset is released and SRAM_INIT starts. -/
  | releaseOfReset (straps : BitVec 8) (dbgsel : Bool)
  /-- VAULT_SWITCH_OVER (R73): VIO33 crosses the switch-over level and the vault domain changes between VIO33 and VBAT without losing a count. -/
  | vaultSwitchOver (toBat : Bool)
  /-- VAULT_SECOND (R74): After 32 768 crystal periods the 48-bit seconds counter increments. -/
  | vaultSecond
  /-- XTAL_FAIL (R91): The vault crystal stops for more than 1 s and SYS_VAULT_STAT.XTAL_FAIL is set. -/
  | xtalFail
  /-- TAMPER_PULSE (R76): At each 4 Hz tick TAMP0 drives a 30 µs pulse and the monitor checks its return on TAMP1. -/
  | tamperPulse (returned : Bool)
  /-- SYS_VSEC_LO_READ (R75): A read of SYS_VSEC_LO returns bits [31:0] and latches bits [47:32] into SYS_VSEC_HI. -/
  | sysVsecLoRead (m : Master)
  /-- LOCK_DECLARED (R77): After the band search the root PLL phase error stays within ±20 ps for 4 µs and the root enters LOCKED. -/
  | lockDeclared
  /-- LOSS_OF_REFIN (R78): REFIN is lost in LOCKED or REACQUIRE and the root enters HOLDOVER with frozen frequency, raising FC1. -/
  | lossOfRefin
  /-- REFIN_RETURN (R78): REFIN returns within ±100 ppm of the held frequency and the root enters REACQUIRE. -/
  | refinReturn (mppm : Int)
  /-- REACQUIRE_COMPLETE (R80): In REACQUIRE the frequency error falls below 0.05 ppm and the root enters LOCKED. -/
  | reacquireComplete
  /-- LOSS_OF_LOCK (R81): The root PLL loses lock, the timebase is lost, legs go to safe state, FC3 is raised and a new band search starts. -/
  | lossOfLock
  /-- HOLD_MAX_EXPIRY (R79): HOLD_MAX expires in HOLDOVER: in service FC3 is raised; out of service the root enters SEARCH under R582. -/
  | holdMaxExpiry
  /-- REFERENCE_WAIT_END (R89): A HEAD's reference wait ends without a reference: it drives REFSEL high, relocks and becomes the reference source. -/
  | referenceWaitEnd
  /-- TIMEBASE_LOSS (R314): The clock monitor misses 4 consecutive base-timebase edges and every leg enters HALTED with TBLOSS set. -/
  | timebaseLoss
  /-- SRAM_INIT_DONE (R484): The SRAM zeroing pass ends and the node selects a slot and starts FETCH. -/
  | sramInitDone (chip : Option FlashChip)
  /-- FETCH_DONE (R102): The image has been read and hashed and the node enters VERIFY. -/
  | fetchDone
  /-- FETCH_TIMEOUT (R104): The fetch has not completed within t_FTMO and the slot fails with ERR 11. -/
  | fetchTimeout
  /-- VERIFY_DONE (R104): Verification completes: on failure the other slot is retried or LOADFAIL entered; on success the node binds. -/
  | verifyDone (img : StationRead)
  /-- BOOT_LOCK (R11): The loader finishes writing registers and the management processor sets the boot lock; the lanes then start. -/
  | bootLock
  /-- IMG_PROV_WRITE (R100): A debug-port write of IMG_PROV with the key and FUSE checks OWNER_SIG and fuses the first owner key into K0. -/
  | imgProvWrite (m : Master) (v : Word)
  /-- TRIAL_TIMEOUT (R114): A trial not passed within 30 s of release of reset marks the slot BAD and resets the node through SOFT. -/
  | trialTimeout
  /-- IMG_ERASE (R115): Update command ERASE starts erasing the inactive slot. -/
  | imgErase (m : Master)
  /-- IMG_PROGRAM (R115): Update command PROGRAM starts programming IMG_UPD_LEN bytes from SRAM into the inactive slot. -/
  | imgProgram (m : Master)
  /-- IMG_VERIFY (R115): Update command VERIFY starts reading the inactive slot back and applying every check of VERIFY. -/
  | imgVerify (m : Master)
  /-- IMG_ARM (R115): Update command ARM marks the inactive slot PENDING, or is refused unless the last completed VERIFY passed. -/
  | imgArm (m : Master)
  /-- IMG_ABORT (R115): Update command ABORT stops the command in progress. -/
  | imgAbort (m : Master)
  /-- IMG_UPD_DONE (R115): An ERASE, PROGRAM or VERIFY completes and IMG_UPD_STAT reports DONE, VERIFIED and ERR. -/
  | imgUpdDone (flashErr bufferBad : Bool)
  /-- ADMISSION_REQUEST (R109): The primary HEAD applies the position, epoch, configuration and time checks to a member's admission request. -/
  | admissionRequest (req : AdmissionIn)
  /-- ADMISSION_TIME_RETRY (R109): 64 cycles after a time-check hold, the primary retries the admission of the node. -/
  | admissionTimeRetry (pos : BitVec 8) (timeOk : Bool)
  /-- FULL_SERVICE_NAMED (R107): The primary HEAD names the full-service boundary S 64 cycles ahead in its DN codewords. -/
  | fullServiceNamed (locked unlocked : List (BitVec 8))
  /-- ST_WAIT_EXPIRY (R107): ST_WAIT expires in station Par-bake, so the HEAD may name S with every stack at its minimum of admitted cells. -/
  | stWaitExpiry
  /-- SPLICE_NAMED (R118): The primary names the splice boundary S 64 cycles ahead to the node and its neighbours. -/
  | spliceNamed (pos : BitVec 8) (locked : Bool)
  /-- CYCLE_BOUNDARY (R185): LTIME reaches the next boundary: the cycle length is added, SCN increments and staged work of the boundary takes effect. -/
  | cycleBoundary (spliceBad : Bool)
  /-- LANE_PLL_LOCK (R135): A lane PLL locks and its lanes leave PLLWAIT for CDR. -/
  | lanePllLock (pll : Fin 2)
  /-- LANE_PLL_LOSS (R135): A lane PLL loses lock and its lanes return to PLLWAIT, raising FC1. -/
  | lanePllLoss (pll : Fin 2)
  /-- CDR_LOCK (R135): The CDR locks on a signal above the LOS threshold and the lane enters FRAME. -/
  | cdrLock (p : Fin 5) (l : Fin 2)
  /-- FRAME_LOCK (R130): 8 consecutive codewords decode at one offset and the lane enters UP or, on training codewords, TRAIN. -/
  | frameLock (p : Fin 5) (l : Fin 2)
  /-- LOSS_OF_FRAME (R130): 4 consecutive uncorrectable codewords take a lane in UP back to FRAME. -/
  | lossOfFrame (p : Fin 5) (l : Fin 2)
  /-- LOSS_OF_SIGNAL (R135): Loss of signal or CDR unlock takes the lane back to CDR. -/
  | lossOfSignal (p : Fin 5) (l : Fin 2)
  /-- LANE_RETRY (R136): A lane in CDR or FRAME not UP within 2 ms counts a retry and returns to CDR, entering TRAIN after RETRY_MAX with AUTO_TRAIN. -/
  | laneRetry (p : Fin 5) (l : Fin 2)
  /-- TRAINING_DONE (R139): After 16 codewords with DONE in both directions the port applies its corrections and returns to FRAME. -/
  | trainingDone (p : Fin 5)
  /-- TRAINING_FAIL (R139): Training fails on a wrong port, equal lane indexes, no frame within 4 ms or no far-end DONE within 5 ms. -/
  | trainingFail (p : Fin 5) (err : Fin 5)
  /-- TRAIN_WAIT_END (R136): 100 ms after a failed training the port clears RETRIES and starts blind again. -/
  | trainWaitEnd (p : Fin 5)
  /-- ELASTIC_BUFFER_LIMIT (R134): The elastic buffer fill reaches its limit, re-centres and the lane re-enters FRAME. -/
  | elasticBufferLimit (p : Fin 5) (l : Fin 2)
  /-- EYE_MONITOR_UPDATE (R145): Every 100 ms the eye monitor updates height, width and SER_DEC. -/
  | eyeMonitorUpdate (p : Fin 5) (l : Fin 2) (height width : BitVec 8) (ser : Fin 13)
  /-- CHILL_WRITE (R146): A write of CHILL puts a port or lane G into CHILL, refuses it, or starts it back through PLLWAIT. -/
  | chillWrite (p : Fin 5) (on : Bool)
  /-- TRAIN_WRITE (R135): A write of TRAIN starts training of the port. -/
  | trainWrite (p : Fin 5)
  /-- LNK_CNT_CLR (R150): CNT_CLR clears the six counters of a lane window. -/
  | lnkCntClr (p : Fin 5)
  /-- CODEWORD_RECEIVED (R156): The forward path reads bytes 0–7 of an arriving codeword and forwards, removes or replaces it. -/
  | codewordReceived (p : Fin 5) (l : Fin 2) (rx : List Int)
  /-- FOLD (R154): A port down for the ring brings its node into the matching fold state within t_FOLD. -/
  | fold (p : Fin 4)
  /-- UNFOLD_NAMED (R154): The primary names an unfold boundary U 8 cycles ahead to both nodes at a break. -/
  | unfoldNamed (ring : Ring)
  /-- NBR_RECEIVED (R152): A neighbour's NBR codeword is consumed for the ring map and time measurement. -/
  | nbrReceived (t2 : BitVec 48)
  /-- UP_WAVE (R162): At t_S each member inserts its UP codeword and each HEAD its HB. -/
  | upWave (diverted : List (Fin 4 × List Byte))
  /-- UP_RECEIVED (R165): A HEAD decodes an UP copy and takes items by the earliest-valid rule. -/
  | upReceived
  /-- UPLINK_DEADLINE (R167): At T_UP items without a valid copy are declared missing and the HEAD's T_UP work proceeds. -/
  | uplinkDeadline
  /-- DOWN_WAVE (R163): At T_DN the primary launches one DN codeword per admitted member. -/
  | downWave (diverted : List (Fin 4 × List Byte))
  /-- DN_RECEIVED (R164): A member receives its DN codeword, stages its commands and writes its ACK into the position. -/
  | dnReceived
  /-- ACK_RECEIVED (R164): A HEAD takes a member's ACK status word and status items. -/
  | ackReceived
  /-- BULK_INSERT (R173): A node inserts a pending BULK codeword into an IDLE position. -/
  | bulkInsert (p : Fin 4) (l : Fin 2) (bad : Bool)
  /-- BULK_RECEIVED (R176): The receiver accepts a BULK codeword in SEQ order, discarding others, and returns ACK_SEQ and credits. -/
  | bulkReceived
  /-- BULK_RESEND (R176): 4 cycles without ACK_SEQ advancing make the sender resend from the first unacknowledged codeword. -/
  | bulkResend (dst : BitVec 8) (stream : BitVec 8)
  /-- CREDIT_ONLY_SEND (R175): A receiver with credits and nothing to send within a cycle sends a CREDIT_ONLY codeword. -/
  | creditOnlySend (dst : BitVec 8) (stream : BitVec 8)
  /-- RRA_GO (R177): GO in RNG_RRA_CTRL sends a remote register access request on stream 2. -/
  | rraGo (m : Master) (v : Word)
  /-- RRA_TIMEOUT (R178): No response within 16 cycles ends the request with ERR 1. -/
  | rraTimeout (host : Bool)
  /-- RNG_CNT_CLR (R182): RNG_CMD.CNT_CLR clears all ring counters. -/
  | rngCntClr
  /-- LINK_MEASUREMENT (R196): A link offset measurement completes on a port and the servo updates under R191. -/
  | linkMeasurement (p : Fin 4)
  /-- SOURCE_LOSS (R194): NOUP_MAX cycles without a measurement move the servo to HOLD. -/
  | sourceLoss
  /-- HOLD_LIMIT (R194): A node in FULL held in HOLD for more than 1 s raises FC3 and leaves FULL. -/
  | holdLimit
  /-- XCHK (R200): Chains disagree beyond XCHK for 16 cycles, XCHK is set and FC1 is raised. -/
  | xchk
  /-- STIME_WRAP (R188): STIME wraps, WRAP is set, WRAP_OVR and FC0 if already set, and the primary reports the wrap. -/
  | stimeWrap
  /-- STIME_NS_READ (R187): A read of TIM_STIME_NS latches the fraction and WRAP into TIM_STIME_FRAC. -/
  | stimeNsRead (m : Master)
  /-- TIM_OFFSET_WRITE (R202): A host offset write is one servo update on the root, or is ignored with OFS_IGN elsewhere. -/
  | timOffsetWrite (m : Master) (v : Word)
  /-- HOST_TIMEOUT (R203): No accepted TIM_OFFSET for HOST_TO seconds sets HOST_TO and raises FC0. -/
  | hostTimeout
  /-- TPO_EDGE (R207): A time-pulse output reaches its scheduled STIME and drives its active level. -/
  | tpoEdge (n : Fin 4)
  /-- TPO_PULSE_END (R207): WIDTH ns after a leading edge the time-pulse output returns inactive. -/
  | tpoPulseEnd (n : Fin 4)
  /-- TPO_ENABLE (R208): EN written 1 schedules the pulse, or sets MISSED when START has passed. -/
  | tpoEnable (n : Fin 4) (v : Word)
  /-- TPO_CONFIG_WRITE (R209): A write to START, PER or WIDTH takes effect at pulse end or sets CFG_ERR when out of range. -/
  | tpoConfigWrite (n : Fin 4) (reg : TpoReg) (v : Word)
  /-- TPI_EDGE (R210): A selected TPI edge captures STIME, or sets OVR while a capture is held. -/
  | tpiEdge (rising : Bool) (before after : Nat)
  /-- TPI_FRAC_READ (R210): A read of TIM_TPI_FRAC returns the capture and clears RDY and OVR. -/
  | tpiFracRead (m : Master)
  /-- RG_TRIGGER (R233): A rate group is triggered, latches its inputs and starts evaluating its slots. -/
  | rgTrigger (g : Fin 8) (upset : Option (Fin 24576))
  /-- GROUP_COMMIT (R238): The last slot finishes and the group writes its outputs together, sealing ring items. -/
  | groupCommit (g : Fin 8)
  /-- DEADLINE_MISS (R238): The group reaches DL without committing and is abandoned with its state held. -/
  | deadlineMiss (g : Fin 8)
  /-- SWAP_GO (R226): GO in CE_SWAP_CTRL arms a bank swap for CE_SWAP_SCN, or is refused. -/
  | swapGo (next : Bool)
  /-- SWAP_CANCEL (R227): CANCEL clears a pending bank swap. -/
  | swapCancel
  /-- COEFF_RAM_WRITE (R242): A write to a slot record takes effect, is ignored with ACT_WR, or is refused as an enable. -/
  | coeffRamWrite (m : Master) (slot : Fin 768) (word : Fin 64) (v : Word) (ecc : Ecc)
  /-- PEEK_REQUEST (R244): REQ in CE_PEEK_CTRL requests a consistent copy of a slot's state. -/
  | peekRequest (slot : BitVec 10)
  /-- DEBUG_HALT (R240): A debug halt stops the engine, and every leg enters HALTED. -/
  | debugHalt
  /-- CE_CNT_CLR (R243): CE_CMD.CNT_CLR clears group counters, run times and hand-over counts. -/
  | ceCntClr
  /-- BALANCER_COMMIT (R286): The balancer run completes and its command items are sealed. -/
  | balancerCommit (locked : Bool)
  /-- BYPASS_REQUEST (R280): BAL_REQ GO with OP 1 requests a cell bypass at a named boundary, or is refused. -/
  | bypassRequest (next : Bool) (pos : BitVec 8)
  /-- REJOIN_REQUEST (R280): BAL_REQ GO with OP 2 requests a cell rejoin and moves the cell to JOINING, or is refused. -/
  | rejoinRequest (next : Bool) (pos : BitVec 8)
  /-- CARRIER_START (R290): Event E0: shadows transfer and an ARMED leg enters RUN. -/
  | carrierStart (ch : Fin 8)
  /-- CARRIER_MIDPOINT (R293): Event E1 fires and the duty reloads when RLD_MID is set. -/
  | carrierMidpoint (ch : Fin 8)
  /-- COMPARE_EVENT (R294): Event E2 or E3 changes leg command H and starts a dead interval. -/
  | compareEvent (ch : Fin 8) (e3 : Bool)
  /-- DEAD_INTERVAL_END (R303): The dead time elapses and the pending switch turns on. -/
  | deadIntervalEnd (leg : Fin 6)
  /-- PWM_SHADOW_WRITE (R298): A write to a PWM shadow takes effect at the next reload, or the following one with DEFER. -/
  | pwmShadowWrite (ch : Fin 8) (reg : ShadowReg) (v : Word)
  /-- PWM_CTRL_WRITE (R305): A write to PWM_LCHn_CTRL changes the run request, hold or bypass permission of a leg. -/
  | pwmCtrlWrite (ch : Fin 8) (v : Word)
  /-- TRIP_INPUT_ACTIVE (R308): A trip input holds its active level for FILT and trips its groups unless blanked. -/
  | tripInputActive (k : Fin 8)
  /-- TRIP_INPUT_INACTIVE (R308): A trip input holds the other level for FILT and becomes inactive. -/
  | tripInputInactive (k : Fin 8)
  /-- BLANKING_END (R309): A blanking window ends and a still-active input trips its groups. -/
  | blankingEnd (ch : Fin 8)
  /-- GROUP_CLEAR (R311): PWM_GRP_CLR clears named groups or refuses with FC0. -/
  | groupClear (groups : BitVec 8)
  /-- REARM (R313): PWM_CMD.REARM takes legs out of HALTED and clears TBLOSS, or is refused. -/
  | rearm (m : Master)
  /-- PWM_CNT_CLR (R317): PWM_CMD.CNT_CLR clears the lattice counters. -/
  | pwmCntClr
  /-- SHORT_CIRCUIT (R332): A sense voltage above the threshold after blanking is detected and soft turn-off begins. -/
  | shortCircuit (leg : Fin 6) (sw : Sw)
  /-- SOFT_TURN_OFF_END (R332): The gate reaches the off level and the channel enters WAIT or ESCAL. -/
  | softTurnOffEnd (leg : Fin 6) (sw : Sw)
  /-- WAIT_EXPIRY (R335): The WAIT timer expires and the channel returns to NORMAL or counts a new L1 fault. -/
  | waitExpiry (leg : Fin 6) (sw : Sw)
  /-- BOOTSTRAP_UNDERVOLTAGE (R329): VB − VS below BS_UV for t_UV gives a bootstrap undervoltage fault. -/
  | bootstrapUndervoltage (leg : Fin 6)
  /-- BOOTSTRAP_CHARGED (R328): VB − VS reaches BS_UV + 0.5 V and the high side leaves CHARGE. -/
  | bootstrapCharged (leg : Fin 6)
  /-- CHARGE_TIMEOUT (R328): Bootstrap not charged within 10 ms sets BS_TMO and raises an L1 fault. -/
  | chargeTimeout (leg : Fin 6)
  /-- VDRV_UNDERVOLTAGE (R330): VDRV below VDRV_UV for t_UV is an L1 fault of every low side. -/
  | vdrvUndervoltage
  /-- VNEG_UNDERVOLTAGE (R330): VNEG above VNEG_UV for t_UV is an L1 fault of every low side. -/
  | vnegUndervoltage
  /-- SUPPLY_UV_END (R330): VDRV or VNEG returns past its end level and the undervoltage cause ends. -/
  | supplyUvEnd (sup : Supply)
  /-- INTERLOCK (R337): Both switches commanded on: the later turn-on is ignored and the L2 latch set. -/
  | interlock (leg : Fin 6) (first : Option Sw)
  /-- DEADTIME_VIOLATION (R338): A turn-on too soon after the other gate fell is suppressed and the L2 latch set. -/
  | deadtimeViolation (leg : Fin 6) (sw : Sw)
  /-- SHOOT (R339): Both channels detect a short circuit and the leg records SHOOT. -/
  | shoot (leg : Fin 6)
  /-- SELF_TEST (R344): Every INJ_PER the channel tests its sense path in an off interval. -/
  | selfTest (leg : Fin 6) (sw : Sw) (trip : Option (BitVec 16)) (mv : BitVec 16)
  /-- INJ_NOW (R344): GD_CMD.INJ_NOW requests an immediate sense-path self-test. -/
  | injNow
  /-- GD_DERATING_PUBLISH (R345): Every 10 µs the gate drive publishes its voltage margins. -/
  | gdDeratingPublish (vdrv vneg : BitVec 16) (vbs : List (BitVec 16))
  /-- GD_CNT_CLR (R348): GD_CMD.CNT_CLR clears every GD_LEGn_CNT. -/
  | gdCntClr
  /-- ADC_TRIGGER (R354): A trigger slot is triggered, latches its channel and schedules a hold. -/
  | adcTrigger (m : Fin 16)
  /-- HOLD_INSTANT (R356): Acquisition ends and the input is sampled for conversion. -/
  | holdInstant (m : Fin 16)
  /-- CONVERSION_END (R358): A conversion ends and the result is scaled, sealed and written. -/
  | conversionEnd (a : Fin 2) (raw : Int)
  /-- LP_WRITE (R353): A write of LPa switches converter mode after the conversion, or is refused. -/
  | lpWrite (v : BitVec 2)
  /-- LOW_POWER_SWITCH_END (R353): The mode switch interval t_LPSW ends and the converter resumes. -/
  | lowPowerSwitchEnd (a : Fin 2)
  /-- CH_WRITE (R355): A write of ADC_TRGm_CH takes effect at the next trigger or is ignored with CH_ERR. -/
  | chWrite (m : Fin 16) (v : BitVec 5)
  /-- HOUSEKEEPING_START (R363): A requested housekeeping conversion starts in the window with no slot pending. -/
  | housekeepingStart (a : Fin 2) (ch : Fin 19)
  /-- REFERENCE_CHECK (R363): Every REFCHK_PER channels 16 and 17 are converted and compared. -/
  | referenceCheck (a : Fin 2)
  /-- RES_RAW_READ (R359): A read of ADC_RESm_RAW latches the other three result words. -/
  | resRawRead (m : Master) (slot : Fin 16)
  /-- ADC_CNT_CLR (R366): ADC_CMD.CNT_CLR clears every ADC counter. -/
  | adcCntClr
  /-- METER_SAMPLE (R372): A decimated metering sample is produced with its interval dt_k. -/
  | meterSample (codes : List Int) (crossing : Bool)
  /-- NOREF_CYCLE_END (R374): In NOREF a line cycle of 1/NOM s of station time ends. -/
  | norefCycleEnd
  /-- ACCUMULATOR_UPDATE (R379): Within t_UPD every accumulator of the cycle is updated in one fabric cycle. -/
  | accumulatorUpdate (upset : Option (Fin 64 × BitVec 64))
  /-- PULSE_EMIT (R387): A PLS output emits an owed pulse when spacing allows. -/
  | pulseEmit (n : Fin 4)
  /-- PLS_CONFIG_WRITE (R387): A write of SRC, WGT or EXP clears residue and count at the next update. -/
  | plsConfigWrite (m : Master) (n : Fin 4) (wgt : Bool) (v : Word)
  /-- SNAPSHOT_TAKE (R383): MTR_SNAP.TAKE copies all accumulators and stamps into the snapshot bank. -/
  | snapshotTake (m : Master)
  /-- SNAPSHOT_SIGN (R384): MTR_SNAP.SIGN takes a snapshot and assembles the record for signing, or is refused. -/
  | snapshotSign (m : Master)
  /-- SIGNATURE_COMPLETE (R384): The signer completes the signature and SIG_DONE is set. -/
  | signatureComplete
  /-- SIGNER_FAILURE (R393): A signature not complete within t_SIGN raises FC1. -/
  | signerFailure
  /-- AUTO_SNAPSHOT (R385): The seconds counter reaches a multiple of PERIOD and a signed snapshot is taken. -/
  | autoSnapshot
  /-- ACC_LO_READ (R382): A read of MTR_ACCk_LO latches MTR_ACCk_HI. -/
  | accLoRead (m : Master) (k : Fin 64) (upset : BitVec 64)
  /-- LISTEN_WINDOW_END (R399): A HEAD's listen window ends without a PRIMARY heard. -/
  | listenWindowEnd
  /-- HB_RECEIVED (R398): A valid HB decodes and the node may take a later tier or a HEAD may demote. -/
  | hbReceived
  /-- GLAZE_SEND (R408): After its last commits the primary sends the Glaze of the cycle on lane G. -/
  | glazeSend
  /-- GLAZE_CODEWORD_RECEIVED (R410): The standby receives a Glaze chunk into its second copy. -/
  | glazeCodewordReceived
  /-- HEALTH_REPORT (R415): Every 100 ms a node builds its 32-word health report and sends or relays it. -/
  | healthReport
  /-- ENGINE_SELF_CHECK (R415): The engine evaluates its ROM test slots and compares results. -/
  | engineSelfCheck (ok : Bool)
  /-- HEALTH0_READ (R415): A read of DPX_HEALTH0 latches words 1 to 31. -/
  | health0Read (m : Master)
  /-- SWAP_REQUEST (R420): DPX_CMD.SWAP requests a planned swap at W, or is refused. -/
  | swapRequest (m : Master)
  /-- DPX_SWAP_CANCEL (R420): DPX_CMD.CANCEL cancels a pending swap with ERR 5. -/
  | dpxSwapCancel (m : Master)
  /-- DPX_CNT_CLR (R426): DPX_CMD.CNT_CLR clears DPX counters and DPX_MM_OFS. -/
  | dpxCntClr
  /-- FAILOVER_LEDGER_READ (R423): Within 64 cycles of P the new primary reads member ledgers and reports. -/
  | failoverLedgerRead (got : List (BitVec 8 × List (List Word)))
  /-- NO_ELIGIBLE_STANDBY (R422): 1 s without an eligible standby raises FC1. -/
  | noEligibleStandby
  /-- TEST_GAP_START (R427): A test source switches off for TP_GAP. -/
  | testGapStart (src : Fin 2)
  /-- TEST_GAP_END (R430): At gap end the last sample must read low, else a TEST fault. -/
  | testGapEnd (src : Fin 2)
  /-- TEST_SOURCE_LIMIT (R427): A test source at its current limit switches off and raises FC1. -/
  | testSourceLimit (src : Fin 2)
  /-- SAFE_INPUT_SAMPLE (R429): Every 10 µs the channels are sampled; demand and discrepancy run. -/
  | safeInputSample (a b : BitVec 8)
  /-- VAUX_UNDERVOLTAGE (R435): VAUX24 below 19.2 V for t_VUV sets VAUX_UV and switches safe outputs off. -/
  | vauxUndervoltage
  /-- VAUX_RECOVER (R435): VAUX24 rises above 20.0 V and VAUX_UV clears. -/
  | vauxRecover
  /-- SAFETY_DECISION (R436): At T_SAFE each ACTIVE HEAD decides SF0–SF15 and launches SAFE. -/
  | safetyDecision (diverted : List (Fin 4 × List Byte))
  /-- SAFE_RECEIVED (R442): A SAFE copy opens or closes that HEAD's window. -/
  | safeReceived
  /-- DISCREPANCY_WINDOW_CLOSE (R442): The window reaches DW and that HEAD's result is formed. -/
  | discrepancyWindowClose (head : Fin 2)
  /-- STO_LOSS (R443): No HEAD contributing for STO cycles sets STO_LOSS and raises FC3. -/
  | stoLoss
  /-- LOCAL_EVALUATION (R444): Every t_LEV the local logic evaluates inputs and acts. -/
  | localEvaluation (agree : Bool)
  /-- DARK_TEST (R447): A safe output channel is switched off up to 300 µs. -/
  | darkTest (ch : Fin 2) (off : Bool)
  /-- SO_READBACK (R447): 200 µs after a command the channel level is read back. -/
  | soReadback (so : Fin 2) (ch : Fin 2) (below5 aboveV : Bool)
  /-- EDM_CHECK (R448): EDM_T after SOx switching the EDM input is checked. -/
  | edmCheck (so : Fin 2)
  /-- SAF_CNT_CLR (R453): SAF_CMD.CNT_CLR clears the SAF counters. -/
  | safCntClr
  /-- FAULT_RAISE (R454): An error pair changes to fault and the collector records and reacts. -/
  | faultRaise (r : RaiseIn) (back : Bool)
  /-- BROKEN_PAIR (R455): Equal levels for 2 fabric cycles are taken as a raise with BROKEN. -/
  | brokenPair (r : RaiseIn) (back : Bool)
  /-- RECORD_CLOSE (R460): MERGE_US after opening with reactions done, the record closes, logging and reporting. -/
  | recordClose
  /-- RECORD_CLEAR (R472): FLT_CLR with STN 0 clears an ACTIVE ENDED record, or is refused. -/
  | recordClear (m : Master) (n : BitVec 16)
  /-- STATION_CLEAR (R474): FLT_CLR with STN 1 names C for a station clear, or is refused. -/
  | stationClear (m : Master)
  /-- FLTI_CHANGE (R476): An FLTI level held for FILT raises 0x0201 or 0x0202 or ends the cause. -/
  | fltiChange (level : FltiLevel)
  /-- RECORD_READ (R463): A read of FLT_RECr_W0 latches words 1 to 7. -/
  | recordRead (m : Master) (r : Fin 64)
  /-- LEDGER_READ (R479): A read of FLT_LEDe_W0 latches W1 to W15. -/
  | ledgerRead (m : Master) (e : Fin 64)
  /-- BATCH_STAGE (R477): A batch on stream 1 is staged in a ledger entry or aborted or dropped. -/
  | batchStage (id c : Word) (count : Nat) (items : List (Word × Word))
  /-- BATCH_ITEM_APPLY (R478): The ring agent applies the next batch item. -/
  | batchItemApply
  /-- BATCH_CANCEL (R480): A relayed cancel moves a STAGING or STAGED entry to ABORTED. -/
  | batchCancel (id : Word)
  /-- SRAM_ACCESS (R12): A master accesses SRAM: alignment, ECC decode and writes. -/
  | sramAccess (m : Master) (write : Bool) (addr : Word) (size : Fin 9) (v : BitVec 64) (ecc : Ecc)
  /-- ECC_WRITE_BACK (R487): A corrected word is written back when the bank is free. -/
  | eccWriteBack (addr : Word)
  /-- BUCKET_LEAK (R491): Every LEAK ms each region's bucket level falls by 1. -/
  | bucketLeak (r : Fin 8)
  /-- SCRUB_GO (R492): MEM_SCRUB_CTRL.GO starts a scrub pass or is refused. -/
  | scrubGo (m : Master)
  /-- SCRUB_ABORT (R492): ABORT stops a running scrub pass. -/
  | scrubAbort (m : Master)
  /-- SCRUB_WORD (R492): The scrub reads its next ECC word and writes summary at the end. -/
  | scrubWord (ecc : Ecc)
  /-- REPAIR (R493): MEM_REPAIR GO writes zero to the ECC word, or is refused. -/
  | repair (m : Master) (v : Word)
  /-- MEM_CNT_CLR (R496): MEM_CMD.CNT_CLR clears every count, level and OVFS. -/
  | memCntClr
  /-- SENSOR_READING (R500): A sensor reading falls due and updates state, band and headroom. -/
  | sensorReading (sensor : Fin 14) (t : Int) (bad : Bool)
  /-- LOG_WRITE (R506): A pending event log record is written. -/
  | logWrite
  /-- LOG_SEL_WRITE (R508): A write of THM_LOG_SEL requests a record copy. -/
  | logSelWrite (v : BitVec 8)
  /-- LOG_READ_DONE (R508): The record is copied into THM_LOG_W0–W7 and RDY set. -/
  | logReadDone
  /-- LINK_DOWN (R547): The supervisory link goes down while a session is open and FC1 is raised. -/
  | linkDown
  /-- LINK_UP (R547): The supervisory link returns and row 1 cause ends. -/
  | linkUp
  /-- READ_REQUEST (R533): A host READ is checked, queued and served locally or by remote access. -/
  | readRequest (d : Datagram)
  /-- WRITE_REQUEST (R533): A host WRITE is checked, queued and served locally or by remote access. -/
  | writeRequest (d : Datagram)
  /-- REQUEST_DEQUEUE (R520): The HEAD executes its next queued request after the previous ends. -/
  | requestDequeue
  /-- BATCH_STAGE_COMMON (R536): A BATCH OP 1 stages common items at every target. -/
  | batchStageCommon (d : Datagram)
  /-- BATCH_STAGE_EACH (R536): A BATCH OP 2 stages per-position blocks. -/
  | batchStageEach (d : Datagram)
  /-- BATCH_CANCEL_REQUEST (R536): A BATCH OP 3 is relayed as a cancel. -/
  | batchCancelRequest (d : Datagram)
  /-- BATCH_RESPONSE_TIMEOUT (R536): 16 cycles after staging the primary answers with counts. -/
  | batchResponseTimeout
  /-- REPORT_ACK (R541): A host REPORT with RESP 1 acknowledges a report. -/
  | reportAck (d : Datagram)
  /-- REPORT_TRANSMIT (R540): With a token available a queued report is sent. -/
  | reportTransmit (n : Fin 4)
  /-- REPORT_REPEAT (R541): An unacknowledged P0/P1 report repeats after 100 ms. -/
  | reportRepeat (n : Fin 4) (rseq : Word)
  /-- TIME_NOW (R543): TIME OP 0 returns STIME, SCN and TIM_STAT. -/
  | timeNow (d : Datagram)
  /-- TIME_TX (R543): TIME OP 2 transmits a PTP frame and returns its stamp. -/
  | timeTx (d : Datagram)
  /-- PTP_FRAME_RECEIVED (R542): A PTP frame is stamped and forwarded as TIME OP 1. -/
  | ptpFrameReceived (frame : List Byte)
  /-- MBX_SEND (R560): MBX OP 0 writes the words and GO as master 1. -/
  | mbxSend (d : Datagram)
  /-- MBX_RECV (R560): MBX OP 1 waits for FULL, reads and TAKEs. -/
  | mbxRecv (d : Datagram)
  /-- MBX_RECV_EXPIRY (R560): WAIT expires or FULL arrives for a waiting RECV. -/
  | mbxRecvExpiry (n : Fin 4) (expired : Bool)
  /-- MBX_STAT (R560): MBX OP 2 returns MBX_CHn_STAT. -/
  | mbxStat (d : Datagram)
  /-- SESS_PHASE1 (R523): A session phase 1 is refused or answered with phase 2. -/
  | sessPhase1 (d : Datagram)
  /-- SESS_PHASE3 (R523): Phase 3 confirmation opens the session or is denied. -/
  | sessPhase3 (d : Datagram)
  /-- SESS_CLOSE (R523): Phase 5 closes the session. -/
  | sessClose (d : Datagram)
  /-- HALF_OPEN_TIMEOUT (R523): A half-open session is freed 2 s after phase 2. -/
  | halfOpenTimeout (n : Fin 4)
  /-- IDLE_TIMEOUT (R527): IDLE seconds without a valid message close a session. -/
  | idleTimeout (n : Fin 4)
  /-- ATTEST_IDENTITY (R545): ATTEST OP 0 returns the identity certificate. -/
  | attestIdentity (d : Datagram)
  /-- ATTEST_RECORD (R545): ATTEST OP 1 signs and returns the attestation record. -/
  | attestRecord (d : Datagram)
  /-- ATTEST_TIMEOUT (R546): A remote attestation not answered in time gets NO_RESPONSE. -/
  | attestTimeout
  /-- SUP_CNT_CLR (R549): SUP_CMD.CNT_CLR clears the SUP counters. -/
  | supCntClr
  /-- CLOSE_ALL (R549): SUP_CMD.CLOSE_ALL closes every session. -/
  | closeAll (m : Master)
  /-- MBX_DATA_WRITE (R554): A sender writes a data word, stored in EMPTY or bus error in FULL. -/
  | mbxDataWrite (m : Master) (n k : Fin 16) (v : Word)
  /-- MBX_GO (R554): GO with LEN 1–16 makes the channel FULL and notifies the receiver. -/
  | mbxGo (m : Master) (n : Fin 16) (len : BitVec 5)
  /-- MBX_TAKE (R554): TAKE makes the channel EMPTY and notifies the sender. -/
  | mbxTake (m : Master) (n : Fin 16)
  /-- DELIVER_RECEIVED (R558): A DELIVER is accepted into the channel or NACKed. -/
  | deliverReceived (src : BitVec 8) (data : List Byte)
  /-- TAKE_NOTICE_RECEIVED (R558): A TAKE notice empties the sending channel. -/
  | takeNoticeReceived (src : BitVec 8) (data : List Byte)
  /-- NACK_RECEIVED (R558): A NACK empties the sending channel with NACK set. -/
  | nackReceived (src : BitVec 8) (data : List Byte)
  /-- MBX_TIMEOUT (R559): A channel FULL for TMO cycles becomes EMPTY with TMO set. -/
  | mbxTimeout (n : Fin 16)
  /-- MBX_CNT_CLR (R563): MBX_CMD.CNT_CLR clears PERRS and MBX_CNT_STRAY. -/
  | mbxCntClr
  /-- REGISTER_WRITE (R11): A write to a register with no row of its own is applied under access, RL and violation rules. -/
  | registerWrite (m : Master) (addr : Word) (size : Fin 9) (v : Word) (ecc : Ecc)
  /-- POWER_GOOD (R67): Every monitored rail reaches its threshold with PGIN and RST_N high, the node enters power good, and the reset sequencer starts counting towards release of reset. -/
  | powerGood
  /-- REFIN_VALID (R78): REFIN becomes valid while the root is OFF in power good or in SEARCH, and the root starts its band search. -/
  | refinValid
  /-- VAULT_STATE_LOST (R74): Both VBAT and VIO33 are absent, so the vault state, the seconds counter and the pending log records are lost. -/
  | vaultStateLost
  /-- BOTH_LANE_PLLS_OUT_OF_LOCK (R147): In FULL, both lane PLLs have been out of lock at once for more than 1 ms, and FC3 scoped L4 is raised. -/
  | bothLanePllsOutOfLock
  /-- PLS_PULSE_END (R387): WIDTH ms after a PLS pulse began, the output returns to its inactive level. -/
  | plsPulseEnd (n : Fin 4)
  /-- DATAGRAM_DROPPED (R515): A frame or datagram that breaks the checks of R512 or R515 arrives and is silently dropped, counted in SUP_CNT_BAD, and row 2 is raised at the first drop in a second. -/
  | datagramDropped
  /-- ARP_OR_NEIGHBOUR_SOLICITATION (R513): An ARP request or IPv6 neighbour solicitation arrives at the supervisory port and the port answers it. -/
  | arpOrNeighbourSolicitation (v6 : Bool) (target : BitVec 128)
  /-- ICMP_ECHO (R513): An ICMP or ICMPv6 echo request arrives, and with ECHO = 1 the port answers it, at most 10 per second. -/
  | icmpEcho (v6 : Bool) (target : BitVec 128)
  /-- REGISTER_READ (R531): A master or the debug port reads a register window or the coefficient RAM, with bus errors for wrong sizes, violation counting outside its rights, and FC2 on an uncorrectable coefficient word. -/
  | registerRead (m : Master) (addr : Word) (size : Fin 9) (ecc : Ecc)
  /-- DEBUG_HALT_END (R313): The debug port ends a debug halt, the node is no longer halted, PWM_STAT.HALT clears, and REARM can then be accepted. -/
  | debugHaltEnd
  deriving DecidableEq, Repr

end Sys2Proof
end

