-- ==== Sys2Proof/Decode.lean ====
section
/-! DEFINITION. Decode.lean: the command a word spells by the bits of the table. No row of the table has bits (a command of
this block is an event of its surroundings), so no word spells one.
Marked choices: log entry 8 (DESIGN CHOICE). -/
namespace Sys2Proof

/-- The command spelt by `nbits` bits `w`. -/
def decodeTableWord (_nbits _w : Nat) : Option Instr := none

end Sys2Proof
end

