-- ==== Sys2Proof/Config.lean ====
section
/-! DEFINITION. Config.lean: what an implementation of the KQ768 fixes and the spec leaves open: free values, which no
proof can evaluate. Each is applied to the counter `State.free`, which a use advances (log entry 2).
Marked choices: log entry 2 (DESIGN CHOICE). -/
namespace Sys2Proof.Config

/-- The VCO band a PLL's binary search selects: any of 0 to 63, not characteristic (R77, R133). -/
opaque freeBand : Nat → BitVec 6

/-- How far a HEAD's own oscillator lies from the station frequency, in thousandths of a ppm (R90). -/
opaque freePpm : Nat → BitVec 16

/-- The precoded symbol value a lane sent before a codeword that the model lists: that of a codeword it does not list
(R126). -/
opaque freeSymbol : Nat → BitVec 2

/-- Which lane offers the first IDLE position to a node that holds no map entry: lane 1 or not (R162). -/
opaque freeLane : Nat → Bool

/-- The elastic-buffer fill of a lane at the moment it is read (R134). -/
opaque freeFill : Nat → BitVec 8

/-- Which of the two neighbouring sixteenths of a degree an NTC reading is recorded as (R498). -/
opaque freeRound : Nat → Bool

/-- How many bytes an erasure or a programming of the flash had done when it was stopped (R115). -/
opaque freeCount : Nat → Nat

/-- A temperature in 1/16 °C where R498 gives no value. -/
opaque freeTemp : Nat → BitVec 16

/-- A metering sample after a fractional delay other than 0, as a binary64 word (R371: the filter is not given). -/
opaque freeDelay : Nat → BitVec 64

/-- A sample of a voltage shifted by −90 degrees, as a binary64 word (R376: the filter is not given). -/
opaque freeShift : Nat → BitVec 64

/-- A part of a complex fundamental amplitude of a line cycle, as a binary64 word (R376: the transform is not given). -/
opaque freeFund : Nat → BitVec 64

/-- SEQ of a message that R526 gives no SEQ: a SESS phase 5 the HEAD sends (R523). -/
opaque freeSeq : Nat → BitVec 32

/-- A new session identifier is taken from here on upwards (R523: the spec does not say which). -/
opaque freeSid : Nat → BitVec 16

/-- A draw of the module's random number generator: the ephemeral scalar of a session (R524), the nonce of a signature
(R97). -/
opaque freeScalar : Nat → BitVec 256

/-- The module's identity key, made at the factory and not readable (R386). -/
opaque idKey : BitVec 256

/-- Xaniham's signature in the identity certificate, 64 bytes as a number, byte 0 least significant (R524). -/
opaque idSig : BitVec 512

/-- The module's MAC address from its fuses, byte 0 most significant (R513). -/
opaque mac : BitVec 48

/-- The 64-bit module identity, fused at the factory (R386). -/
opaque devId : BitVec 64

end Sys2Proof.Config
end

