-- ==== Sys2Proof/Machine/Bits.lean ====
section
/-! DEFINITION. Machine/Bits.lean: bit fields of register words, signed and saturating helpers, and the sparse bank
that holds registers and SRAM bytes in one canonical form. -/
namespace Sys2Proof.Machine

/-- A field of a register: the register's address, the field's lowest bit and its width in bits. -/
structure Fld where
  addr : Nat
  lo : Nat
  len : Nat
  deriving DecidableEq, Repr

/-- The largest value the field holds. -/
def Fld.max (f : Fld) : Nat := 2 ^ f.len - 1

/-- The field's value in the word `w`. -/
def Fld.get (f : Fld) (w : Word) : Nat := (w.toNat >>> f.lo) % 2 ^ f.len

/-- The field's bits in a word. -/
def Fld.mask (f : Fld) : Word := BitVec.ofNat 32 ((2 ^ f.len - 1) <<< f.lo)

/-- `w` with the field set to `v` (the low bits of `v` that fit). -/
def Fld.put (f : Fld) (w : Word) (v : Nat) : Word :=
  (w &&& ~~~ f.mask) ||| BitVec.ofNat 32 ((v % 2 ^ f.len) <<< f.lo)

/-- Bits [lo+len-1:lo] of a natural number. -/
def bits (v lo len : Nat) : Nat := (v >>> lo) % 2 ^ len

/-- Bit `i` of a natural number. -/
def bit (v i : Nat) : Bool := v.testBit i

/-- 1 for true and 0 for false. -/
def b2n (b : Bool) : Nat := if b then 1 else 0

/-- The two's complement value of the low `n` bits of `v`. -/
def sgn (n v : Nat) : Int :=
  let m := v % 2 ^ n
  if m < 2 ^ (n - 1) then (m : Int) else (m : Int) - (2 ^ n : Nat)

/-- The low `n` bits of an integer in two's complement. -/
def unsgn (n : Nat) (i : Int) : Nat := (i % ((2 ^ n : Nat) : Int)).toNat

/-- An integer kept within a lower and an upper bound. -/
def clampI (lo hi i : Int) : Int := if i < lo then lo else if hi < i then hi else i

/-- The sum of two natural numbers, held at `m`. -/
def satAdd (m a b : Nat) : Nat := if m < a + b then m else a + b

/-- Set or clear bit `i` of a natural number. -/
def setBit (v i : Nat) (b : Bool) : Nat :=
  if b then v ||| 1 <<< i else v - (v &&& 1 <<< i)

/-- Modular order of station cycle numbers (R37): `a` is later than `b`. -/
def scnLater (a b : Word) : Bool :=
  let d := (a - b).toNat
  Nat.ble 1 d && Nat.blt d (2 ^ 31)

/-- `a` is `b` or later in the order of R37. -/
def scnAtOrAfter (a b : Word) : Bool := a == b || scnLater a b

/-- Sparse storage: the value listed for key `a`, or what an unlisted key reads as. -/
def Sparse.get {α : Type} (dflt : Nat → α) : List (Nat × α) → Nat → α
  | [], a => dflt a
  | (k, v) :: t, a => if a = k then v else Sparse.get dflt t a

/-- The list without key `a`. -/
def Sparse.erase {α : Type} : List (Nat × α) → Nat → List (Nat × α)
  | [], _ => []
  | (k, v) :: t, a => if a = k then Sparse.erase t a else (k, v) :: Sparse.erase t a

/-- Insert key `a` in rising order of keys. -/
def Sparse.insert {α : Type} : List (Nat × α) → Nat → α → List (Nat × α)
  | [], a, v => [(a, v)]
  | (k, w) :: t, a, v => if a < k then (a, v) :: (k, w) :: t else (k, w) :: Sparse.insert t a v

/-- Write `v` at key `a`: a value an unlisted key reads as is not listed. -/
def Sparse.set {α : Type} [DecidableEq α] (dflt : Nat → α) (l : List (Nat × α)) (a : Nat) (v : α) :
    List (Nat × α) :=
  if v = dflt a then Sparse.erase l a else Sparse.insert (Sparse.erase l a) a v

/-- Canonical form: keys strictly rising, and no entry equal to what an unlisted key reads as. -/
def Sparse.wf {α : Type} [DecidableEq α] (dflt : Nat → α) : List (Nat × α) → Bool
  | [] => true
  | (k, v) :: t => t.all (fun e => Nat.blt k e.1) && decide (v ≠ dflt k) && Sparse.wf dflt t

/-- Apply `f` to every index below `n`, in rising order. -/
def forUpTo {σ : Type} (n : Nat) (f : Nat → σ → σ) (s : σ) : σ :=
  (List.range n).foldl (fun s i => f i s) s

/-- The bit mask of the indexes below `n` that satisfy `p`. -/
def maskOf (n : Nat) (p : Nat → Bool) : Nat :=
  (List.range n).foldl (fun m i => if p i then m ||| 1 <<< i else m) 0

end Sys2Proof.Machine
end

