-- ==== Sys2Proof/Machine/Crc.lean ====
section
/-! DEFINITION. Machine/Crc.lean: the three checks of the ring: CRC-8 of the codeword header and CRC-32C of the
codeword (R155), and the CRC-16 seal of an item (R158). Also byte order of words (R12). -/
namespace Sys2Proof.Machine

/-- One bit of a left-shifting CRC of width n (at least 8). -/
def crcStep (n poly c : Nat) : Nat :=
  if c.testBit (n - 1) then ((c <<< 1) ^^^ poly) % 2 ^ n else (c <<< 1) % 2 ^ n

def iter {α : Type} : Nat → (α → α) → α → α
  | 0, _, a => a
  | k + 1, f, a => iter k f (f a)

/-- One byte of a left-shifting CRC of width n. -/
def crcByte (n poly : Nat) (c : Nat) (b : Byte) : Nat :=
  iter 8 (crcStep n poly) (c ^^^ (b.toNat <<< (n - 8)))

/-- CRC-8, polynomial 0x07, initial value 0x00 (R155). -/
def crc8 (l : List Byte) : Nat := l.foldl (crcByte 8 0x07) 0

/-- CRC-16, polynomial 0x1021, initial value 0xFFFF, no reflection, no final XOR (R158). -/
def crc16 (l : List Byte) : Nat := l.foldl (crcByte 16 0x1021) 0xFFFF

/-- One bit of the reflected CRC-32C. -/
def crc32cStep (c : Nat) : Nat := if c % 2 = 1 then (c >>> 1) ^^^ 0x82F63B78 else c >>> 1

/-- CRC-32C, reflected, initial value and final XOR 0xFFFF_FFFF (R155). -/
def crc32c (l : List Byte) : Nat :=
  (l.foldl (fun c (b : Byte) => iter 8 crc32cStep (c ^^^ b.toNat)) 0xFFFFFFFF) ^^^ 0xFFFFFFFF

/-- The n bytes of v, least significant first (R12). -/
def leBytes : Nat → Nat → List Byte
  | 0, _ => []
  | n + 1, v => BitVec.ofNat 8 (v % 256) :: leBytes n (v / 256)

/-- The value of bytes, least significant first. -/
def ofLe : List Byte → Nat
  | [] => 0
  | b :: t => b.toNat + 256 * ofLe t

/-- The bytes from offset `i`, `n` of them, as a little-endian value; bytes past the end read as 0. -/
def leAt (l : List Byte) (i n : Nat) : Nat := ofLe ((l.drop i).take n)

/-- One byte of a list, 0 past the end. -/
def byteAt (l : List Byte) (i : Nat) : Nat := (l.getD i 0).toNat

/-- A list of bytes padded with zeros, or cut, to length n. -/
def padTo (n : Nat) (l : List Byte) : List Byte := (l ++ List.replicate (n - l.length) 0).take n

/-- The seal of an item (R158): value, origin, item index, SCN[7:0]. -/
def sealOf (value : Word) (origin item scn : Nat) : Nat :=
  crc16 (leBytes 4 value.toNat ++ [BitVec.ofNat 8 origin] ++ leBytes 2 item ++ [BitVec.ofNat 8 scn])

end Sys2Proof.Machine
end

