-- ==== Sys2Proof/Machine/Fec.lean ====
section
/-! DEFINITION. Machine/Fec.lean: the line code of a lane (R125 to R131): Gray code, precoding, the Reed-Solomon code
RS(160,152) over GF(2^10), and scrambling. A codeword on a lane is a list of 160 symbols of ten bits.
Marked choices: log entry 68 (DEDUCED). -/
namespace Sys2Proof.Machine

/-- A symbol of the Reed-Solomon code (R128). -/
abbrev Sym := BitVec 10

/-! ### GF(2^10) with x^10 + x^3 + 1 (R128) -/

/-- x times an element. -/
def gfDouble (a : Nat) : Nat := if a < 512 then 2 * a else (2 * a) ^^^ 0x409

/-- The product of two elements, by the bits of the second from bit 9 down. -/
def gfMul (a b : Nat) : Nat :=
  [9, 8, 7, 6, 5, 4, 3, 2, 1, 0].foldl (fun r i => gfDouble r ^^^ (if b.testBit i then a else 0)) 0

/-- α^n for the primitive element α = x. -/
def gfExp : Nat → Nat
  | 0 => 1
  | n + 1 => gfDouble (gfExp n)

/-- The inverse a^1022 of an element other than 0. -/
def gfInv (a : Nat) : Nat :=
  ((List.range 9).foldl (fun (p : Nat × Nat) _ => let q := gfMul p.1 p.1; (q, gfMul p.2 q)) (a, 1)).2

/-- The value at x of a polynomial whose coefficients stand highest first. -/
def gfEval (l : List Nat) (x : Nat) : Nat := l.foldl (fun r c => gfMul r x ^^^ c) 0

/-! ### The code (R128) -/

/-- Multiply a polynomial, highest coefficient first, by x − r. -/
def gfTimesRoot (l : List Nat) (r : Nat) : List Nat :=
  (List.range (l.length + 1)).map fun i =>
    l.getD i 0 ^^^ (if i = 0 then 0 else gfMul (l.getD (i - 1) 0) r)

/-- g(x) without its leading 1: (x − α^0)(x − α^1)…(x − α^7). -/
def rsGenerator : List Nat := ((List.range 8).foldl (fun l i => gfTimesRoot l (gfExp i)) [1]).drop 1

/-- The eight parity symbols of a message: the remainder of m(x)·x^8 divided by g(x). -/
def rsParity (m : List Nat) : List Nat :=
  m.foldl (fun r c =>
    let f := r.headD 0 ^^^ c
    (r.drop 1 ++ [0]).zipWith (fun a g => a ^^^ gfMul f g) rsGenerator) (List.replicate 8 0)

/-- The syndromes S_0 to S_7 of 160 received symbols. -/
def rsSyndromes (w : List Nat) : List Nat := (List.range 8).map fun i => gfEval w (gfExp i)

/-- What Berlekamp–Massey carries: the locator and its last change, lowest coefficient first, the length, the last
discrepancy, and the steps since it. -/
structure Locator where
  c : List Nat := [1]
  b : List Nat := [1]
  len : Nat := 0
  d : Nat := 1
  m : Nat := 1
  deriving DecidableEq, Repr

/-- a + k·x^m·b, lowest coefficient first. -/
def gfAddScaled (a b : List Nat) (k m : Nat) : List Nat :=
  (List.range (Nat.max a.length (b.length + m))).map fun i =>
    a.getD i 0 ^^^ (if i < m then 0 else gfMul k (b.getD (i - m) 0))

def rsStep (syn : List Nat) (t : Locator) (n : Nat) : Locator :=
  let d := (List.range t.len).foldl (fun r i => r ^^^ gfMul (t.c.getD (i + 1) 0) (syn.getD (n - 1 - i) 0)) (syn.getD n 0)
  if d = 0 then { t with m := t.m + 1 }
  else
    let c := gfAddScaled t.c t.b (gfMul d (gfInv t.d)) t.m
    if 2 * t.len ≤ n then { c := c, b := t.c, len := n + 1 - t.len, d := d, m := 1 }
    else { t with c := c, m := t.m + 1 }

/-- The error locator of the syndromes. -/
def rsLocator (syn : List Nat) : Locator := (List.range 8).foldl (rsStep syn) {}

/-- The error of the symbol whose locator has the inverse y: 0 where it stands as sent. -/
def rsErrorAt (syn : List Nat) (c : List Nat) (y : Nat) : Nat :=
  if gfEval c.reverse y = 0 then
    let omega := (List.range 8).map fun k =>
      (List.range (k + 1)).foldl (fun r j => r ^^^ gfMul (c.getD j 0) (syn.getD (k - j) 0)) 0
    let slope := (List.range c.length).map fun k => if k % 2 = 0 then c.getD (k + 1) 0 else 0
    gfMul (gfInv y) (gfMul (gfEval omega.reverse y) (gfInv (gfEval slope.reverse y)))
  else 0

/-- The symbols without their errors, from a symbol whose locator has the inverse y on. -/
def rsFix (syn : List Nat) (c : List Nat) : Nat → List Nat → List Nat
  | _, [] => []
  | y, s :: t => (s ^^^ rsErrorAt syn c y) :: rsFix syn c (gfDouble y) t

/-- How a codeword leaves the decoder: as received, with so many symbols corrected, or not correctable (R128, R131). -/
def rsDecode (w : List Nat) : List Nat × Option Nat :=
  let syn := rsSyndromes w
  if syn.all (· == 0) then (w, some 0)
  else
    let t := rsLocator syn
    -- symbol 0 is the coefficient of x^159, and α^−159 = α^864
    let fixed := rsFix syn t.c (gfExp 864) w
    let n := ((w.zip fixed).filter fun e => e.1 != e.2).length
    if Nat.ble t.len 4 && n == t.len && (rsSyndromes fixed).all (· == 0) then (fixed, some n) else (w, none)

/-! ### Payload bytes and symbols (R128) -/

/-- Ten bits a symbol, byte 0 first, bit 7 of each byte first: five bytes make four symbols. -/
def symbolsOf (cw : List Byte) : List Nat :=
  (List.range 152).map fun i =>
    let o := 10 * i / 8
    let n := (cw.getD o 0).toNat * 65536 + (cw.getD (o + 1) 0).toNat * 256 + (cw.getD (o + 2) 0).toNat
    n >>> (14 - 10 * i % 8) % 1024

/-- The payload bytes of the first 152 symbols. -/
def payloadOf (w : List Nat) : List Byte :=
  (List.range 190).map fun i =>
    let o := 8 * i / 10
    let n := w.getD o 0 * 1024 + w.getD (o + 1) 0
    BitVec.ofNat 8 (n >>> (12 - 8 * i % 10))

/-! ### Scrambling (R129) -/

/-- The seed of a port and lane. -/
def lineSeed (p l : Nat) : Nat := 0x2B5A0000 + 2 * p + l

/-- The next output bit of x^31 + x^28 + 1 and the state after it (log entry 68). -/
def prbsStep (x : Nat) : Bool × Nat :=
  let o := x.testBit 30
  (o, (2 * x + (if o != x.testBit 27 then 1 else 0)) % 2 ^ 31)

/-- The next ten output bits as a symbol, first bit most significant. -/
def prbsSym (x : Nat) : Nat × Nat :=
  (List.range 10).foldl (fun (p : Nat × Nat) _ => let q := prbsStep p.2; (2 * p.1 + (if q.1 then 1 else 0), q.2)) (0, x)

/-- The mask of the 152 payload symbols of a seed. -/
def prbsMask : Nat → Nat → List Nat
  | 0, _ => []
  | n + 1, x => let q := prbsSym x; q.1 :: prbsMask n q.2

/-- Scramble the payload of a codeword, or undo it: the parity stays as it is. -/
def scramble (seed : Nat) (w : List Nat) : List Nat :=
  (w.take 152).zipWith (· ^^^ ·) (prbsMask 152 seed) ++ w.drop 152

/-! ### Codewords on a lane -/

/-- The symbols a lane sends for 190 payload bytes: encoded, then scrambled with the seed of its port and lane (R128,
R129). -/
def lineOf (p l : Nat) (cw : List Byte) : List Sym :=
  let m := symbolsOf cw
  (scramble (lineSeed p l) (m ++ rsParity m)).map (BitVec.ofNat 10)

/-- The common seed of training codewords (R138). -/
def trainingSeed : Nat := 0x2B5A00FF

/-- The symbols of a training codeword: the common seed, and the payload of R138. -/
def trainingOf (p l pos flags : Nat) : List Sym :=
  let head := [0x4B, 0x51, 0x54, 0x52, p, l, pos, flags]
  let m := symbolsOf ((head ++ (List.range 182).map (· + 8)).map (BitVec.ofNat 8))
  (scramble trainingSeed (m ++ rsParity m)).map (BitVec.ofNat 10)

/-- The port that a port faces (R121): A and B, C and D; lane G faces lane G. -/
def facingPort (p : Nat) : Nat := if p < 4 then p + 1 - 2 * (p % 2) else p

/-- Received symbols of a port and lane, descrambled with the seed of the sending port (R129; log entry 68). -/
def lineRaw (p l : Nat) (rx : List Nat) : List Nat := scramble (lineSeed (facingPort p) l) rx

/-- The decoder on received symbols: what is not 160 symbols is no codeword (R128, R130). -/
def decodeLine (w : List Nat) : List Nat × Option Nat := if w.length = 160 then rsDecode w else (w, none)

/-- Received symbols of a training codeword: its payload where it decodes and bears the mark "KQTR" (R138). -/
def trainingIn (rx : List Nat) : Option (List Byte) :=
  match decodeLine (scramble trainingSeed rx) with
  | (w, some _) =>
    let p := payloadOf w
    if p.take 4 == [0x4B#8, 0x51#8, 0x54#8, 0x52#8] then some p else none
  | (_, none) => none

/-- Descrambled symbols passed on by another port keep their parity and their errors (R131). -/
def lineForward (p l : Nat) (w : List Nat) : List Sym := (scramble (lineSeed p l) w).map (BitVec.ofNat 10)

/-! ### Levels (R125 to R127) -/

/-- The Gray symbol value of a pair of bits (R125). -/
def grayOf (pair : Nat) : Nat := pair ^^^ (pair >>> 1)

/-- The level of a PAM4 symbol value (R125). -/
def levelOf (v : Nat) : Int := 2 * (v : Int) - 3

/-- Precoding from the symbol sent before (R126). -/
def precode : Nat → List Nat → List Nat
  | _, [] => []
  | last, g :: t => let p := (g + 4 - last % 4) % 4; p :: precode p t

/-- The receiver's recovery (R126). -/
def unprecode : Nat → List Nat → List Nat
  | _, [] => []
  | last, p :: t => (p + last) % 4 :: unprecode p t

/-- The PAM4 Gray symbol values of a symbol of the code, most significant pair first (R125, R128). -/
def graySymbols (s : Sym) : List Nat := [8, 6, 4, 2, 0].map fun i => grayOf (s.toNat >>> i % 4)

/-- The bits of a symbol of the code, most significant first. -/
def symBits (s : Sym) : List Nat := [9, 8, 7, 6, 5, 4, 3, 2, 1, 0].map fun i => b2n (s.toNat.testBit i)

/-- The levels of a codeword on a lane: in PAM4 Gray symbols, precoded or not from the symbol sent before; in PAM2 bit 0 at
−3 and bit 1 at +3, never precoded (R125 to R127). -/
def levelsOf (pam4 pre : Bool) (last : Nat) (w : List Sym) : List Int :=
  if pam4 then
    (let g := w.flatMap graySymbols
     (if pre then precode last g else g).map levelOf)
  else (w.flatMap symBits).map fun (b : Nat) => 6 * (b : Int) - 3

/-- The symbol value of a received level. -/
def valueOf (x : Int) : Nat := ((x + 3) / 2).toNat % 4

/-- Five pairs of bits make a symbol of the code. -/
def packPairs : List Nat → List Nat
  | a :: b :: c :: d :: e :: t => ((((a * 4 + b) * 4 + c) * 4 + d) * 4 + e) :: packPairs t
  | _ => []

/-- Two bits make a pair. -/
def packBits : List Nat → List Nat
  | a :: b :: t => (2 * a + b) :: packBits t
  | _ => []

/-- The symbols of the code that received levels carry, and the last symbol value received (R125 to R127). -/
def symbolsOfLevels (pam4 pre : Bool) (last : Nat) (lv : List Int) : List Nat × Nat :=
  if pam4 then
    (let v := lv.map valueOf
     (packPairs ((if pre then unprecode last v else v).map grayOf), v.getLastD last))
  else (packPairs (packBits (lv.map fun x => b2n (decide (0 < x)))), last)

/-- A training codeword in either polarity of its levels, which always come in PAM2 (R138, R139): whether inverted, and its
payload. -/
def trainingSeen (lv : List Int) : Option (Bool × List Byte) :=
  let at_ := fun (v : List Int) => trainingIn (symbolsOfLevels false false 0 v).1
  match at_ lv with
  | some c => some (false, c)
  | none => (at_ (lv.map (0 - ·))).map fun c => (true, c)

end Sys2Proof.Machine
end

