-- ==== Sys2Proof/Machine/Num.lean ====
section
/-! DEFINITION. Machine/Num.lean: exact fractions, and binary floating point over them. Every operation forms its exact
result and rounds once to nearest, ties to even; the engine's operations also flush subnormal inputs and results to
zero (R213). -/
namespace Sys2Proof.Machine

/-- An exact fraction in lowest terms, with a positive denominator. -/
structure Frac where
  num : Int
  den : Nat
  deriving DecidableEq, Repr

/-- The fraction num/den in lowest terms (0 for a zero denominator). -/
def Frac.mk' (num : Int) (den : Nat) : Frac :=
  if den = 0 then ⟨0, 1⟩
  else
    let g := Nat.gcd num.natAbs den
    ⟨num / (g : Int), den / g⟩

def Frac.zero : Frac := ⟨0, 1⟩
def Frac.one : Frac := ⟨1, 1⟩
def Frac.ofInt (i : Int) : Frac := ⟨i, 1⟩
def Frac.ofNat (n : Nat) : Frac := ⟨(n : Int), 1⟩
def Frac.neg (a : Frac) : Frac := ⟨-a.num, a.den⟩
def Frac.abs (a : Frac) : Frac := ⟨(a.num.natAbs : Int), a.den⟩
def Frac.add (a b : Frac) : Frac := Frac.mk' (a.num * (b.den : Int) + b.num * (a.den : Int)) (a.den * b.den)
def Frac.sub (a b : Frac) : Frac := a.add b.neg
def Frac.mul (a b : Frac) : Frac := Frac.mk' (a.num * b.num) (a.den * b.den)
/-- a / b, and 0 for a zero divisor. -/
def Frac.div (a b : Frac) : Frac :=
  if b.num = 0 then Frac.zero
  else if b.num < 0 then Frac.mk' (-(a.num * (b.den : Int))) (a.den * b.num.natAbs)
  else Frac.mk' (a.num * (b.den : Int)) (a.den * b.num.natAbs)
def Frac.ble (a b : Frac) : Bool := decide (a.num * (b.den : Int) ≤ b.num * (a.den : Int))
def Frac.blt (a b : Frac) : Bool := decide (a.num * (b.den : Int) < b.num * (a.den : Int))
def Frac.floor (a : Frac) : Int := a.num / (a.den : Int)
/-- The nearest integer, a tie going to the even one. -/
def Frac.round (a : Frac) : Int :=
  let q := a.floor
  let r2 := 2 * (a.num - q * (a.den : Int))
  if r2 < (a.den : Int) then q
  else if (a.den : Int) < r2 then q + 1
  else if q % 2 = 0 then q else q + 1
/-- a · 2^k. -/
def Frac.shl (a : Frac) (k : Nat) : Frac := Frac.mk' (a.num * (2 ^ k : Nat)) a.den
/-- a / 2^k. -/
def Frac.shr (a : Frac) (k : Nat) : Frac := Frac.mk' a.num (a.den * 2 ^ k)
/-- A fraction kept within bounds. -/
def Frac.clamp (lo hi a : Frac) : Frac := if a.blt lo then lo else if hi.blt a then hi else a

/-- A binary format: exponent bits, fraction bits, and whether subnormals flush to zero. -/
structure Fmt where
  eb : Nat
  mb : Nat
  ftz : Bool
  deriving DecidableEq, Repr

/-- Binary32 with flush to zero, the engine's format (R213). -/
def f32 : Fmt := ⟨8, 23, true⟩

/-- Binary32 with subnormals. -/
def f32s : Fmt := ⟨8, 23, false⟩

/-- Binary64, the metering sums' format. -/
def f64 : Fmt := ⟨11, 52, false⟩

/-- What a float word stands for: ±m·2^e, an infinity, or a NaN. -/
inductive FVal where
  | nan
  | inf (neg : Bool)
  | fin (neg : Bool) (m : Nat) (e : Int)
  deriving DecidableEq, Repr

def Fmt.bias (f : Fmt) : Nat := 2 ^ (f.eb - 1) - 1

def Fmt.unpack (f : Fmt) (w : Nat) : FVal :=
  let neg := w.testBit (f.eb + f.mb)
  let e := bits w f.mb f.eb
  let m := bits w 0 f.mb
  if e = 2 ^ f.eb - 1 then (if m = 0 then .inf neg else .nan)
  else if e = 0 then (if f.ftz then .fin neg 0 0 else .fin neg m (1 - (f.bias + f.mb : Nat) : Int))
  else .fin neg (m + 2 ^ f.mb) ((e : Int) - (f.bias + f.mb : Nat))

def Fmt.signBit (f : Fmt) (neg : Bool) : Nat := if neg then 2 ^ (f.eb + f.mb) else 0
def Fmt.infW (f : Fmt) (neg : Bool) : Nat := f.signBit neg + (2 ^ f.eb - 1) * 2 ^ f.mb
/-- The quiet NaN 0x7FC0_0000 and its like in other formats. -/
def Fmt.nanW (f : Fmt) : Nat := (2 ^ f.eb - 1) * 2 ^ f.mb + 2 ^ (f.mb - 1)

/-- Quotient n/d rounded to nearest, ties to even. -/
def divRne (n d : Nat) : Nat :=
  let q := n / d
  let r2 := 2 * (n % d)
  if r2 < d then q else if d < r2 then q + 1 else if q % 2 = 0 then q else q + 1

/-- ±n/d rounded to the format. -/
def Fmt.roundQ (f : Fmt) (neg : Bool) (n d : Nat) : Nat :=
  if n = 0 ∨ d = 0 then f.signBit neg
  else
    -- x is the exponent of the leading bit of n/d
    let x0 : Int := (Nat.log2 n : Int) - (Nat.log2 d : Int)
    let x : Int :=
      if x0 ≥ 0 then (if n < d * 2 ^ x0.toNat then x0 - 1 else x0)
      else (if n * 2 ^ (-x0).toNat < d then x0 - 1 else x0)
    let emin : Int := 1 - (f.bias : Int)
    let xq : Int := if x < emin ∧ f.ftz = false then emin else x
    -- q·2^(xq - mb) approximates n/d
    let sh : Int := (f.mb : Int) - xq
    let q := if sh ≥ 0 then divRne (n * 2 ^ sh.toNat) d else divRne n (d * 2 ^ (-sh).toNat)
    let (q, xq) := if q = 2 ^ (f.mb + 1) then (2 ^ f.mb, xq + 1) else (q, xq)
    if q < 2 ^ f.mb then f.signBit neg + q
    else if xq < emin then f.signBit neg
    else if xq > (f.bias : Int) then f.infW neg
    else f.signBit neg + (xq + (f.bias : Int)).toNat * 2 ^ f.mb + (q - 2 ^ f.mb)

/-- An exact fraction rounded to the format; an exact zero is +0. -/
def Fmt.ofFrac (f : Fmt) (a : Frac) : Nat := f.roundQ (decide (a.num < 0)) a.num.natAbs a.den

/-- m·2^e as a fraction with the given sign. -/
def finFrac (neg : Bool) (m : Nat) (e : Int) : Frac :=
  let i : Int := if neg then -(m : Int) else (m : Int)
  if e ≥ 0 then Frac.ofInt (i * (2 ^ e.toNat : Nat)) else Frac.mk' i (2 ^ (-e).toNat)

/-- The exact value of a float word; none for NaN and infinities. -/
def Fmt.frac? (f : Fmt) (w : Nat) : Option Frac :=
  match f.unpack w with
  | .fin neg m e => some (finFrac neg m e)
  | _ => none

/-- The exact value of a float word, 0 for NaN and infinities. -/
def Fmt.frac (f : Fmt) (w : Nat) : Frac := (f.frac? w).getD Frac.zero

def Fmt.isNan (f : Fmt) (w : Nat) : Bool := match f.unpack w with | .nan => true | _ => false
def Fmt.isFin (f : Fmt) (w : Nat) : Bool := match f.unpack w with | .fin _ _ _ => true | _ => false

/-- The fused a·b + c with one rounding. -/
def Fmt.fma (f : Fmt) (a b c : Nat) : Nat :=
  match f.unpack a, f.unpack b, f.unpack c with
  | .nan, _, _ => f.nanW
  | _, .nan, _ => f.nanW
  | _, _, .nan => f.nanW
  | .inf s, .inf t, c => (match c with | .inf u => if (s != t) == u then f.infW u else f.nanW | _ => f.infW (s != t))
  | .inf s, .fin t m _, c =>
    if m = 0 then f.nanW
    else (match c with | .inf u => if (s != t) == u then f.infW u else f.nanW | _ => f.infW (s != t))
  | .fin s m _, .inf t, c =>
    if m = 0 then f.nanW
    else (match c with | .inf u => if (s != t) == u then f.infW u else f.nanW | _ => f.infW (s != t))
  | .fin _ _ _, .fin _ _ _, .inf u => f.infW u
  | .fin s m e, .fin t n g, .fin u k h =>
    let p := finFrac (s != t) (m * n) (e + g)
    let sum := p.add (finFrac u k h)
    if sum.num = 0 then
      -- an exact zero: the common sign of two zeros of one sign, else +0
      (if m * n = 0 ∧ k = 0 ∧ (s != t) = u then f.signBit u else 0)
    else f.ofFrac sum

def Fmt.neg (f : Fmt) (a : Nat) : Nat :=
  if a.testBit (f.eb + f.mb) then a - 2 ^ (f.eb + f.mb) else a + 2 ^ (f.eb + f.mb)

/-- 1.0 -/
def Fmt.one (f : Fmt) : Nat := f.bias * 2 ^ f.mb

def Fmt.add (f : Fmt) (a b : Nat) : Nat := f.fma a f.one b
def Fmt.sub (f : Fmt) (a b : Nat) : Nat := f.add a (f.neg b)

def Fmt.mul (f : Fmt) (a b : Nat) : Nat :=
  match f.unpack a, f.unpack b with
  | .fin s m e, .fin t n g =>
    if m * n = 0 then f.signBit (s != t)
    else (let p := finFrac (s != t) (m * n) (e + g); f.roundQ (s != t) p.num.natAbs p.den)
  | _, _ => f.fma a b 0

def Fmt.div (f : Fmt) (a b : Nat) : Nat :=
  match f.unpack a, f.unpack b with
  | .nan, _ => f.nanW
  | _, .nan => f.nanW
  | .inf _, .inf _ => f.nanW
  | .inf s, .fin t _ _ => f.infW (s != t)
  | .fin s _ _, .inf t => f.signBit (s != t)
  | .fin s m e, .fin t n g =>
    if n = 0 then (if m = 0 then f.nanW else f.infW (s != t))
    else
      let a := finFrac false m e
      let b := finFrac false n g
      let q := a.div b
      f.roundQ (s != t) q.num.natAbs q.den

/-- Square root of a non-negative word, rounded to nearest; NaN below zero. -/
def Fmt.sqrt (f : Fmt) (a : Nat) : Nat :=
  match f.unpack a with
  | .nan => f.nanW
  | .inf s => if s then f.nanW else f.infW false
  | .fin s m e =>
    if m = 0 then f.signBit s
    else if s then f.nanW
    else
      let k := 2 * (f.mb + 4)
      let (m, e) := if e % 2 = 0 then (m, e) else (2 * m, e - 1)
      let r := Nat.sqrt (m * 2 ^ k)
      let r4 := 4 * r + (if r * r = m * 2 ^ k then 0 else 1)
      let x := finFrac false r4 (e / 2 - (f.mb + 4 : Nat) - 2)
      f.roundQ false x.num.natAbs x.den

/-- a < b, false when either is NaN. -/
def Fmt.blt (f : Fmt) (a b : Nat) : Bool :=
  match f.unpack a, f.unpack b with
  | .nan, _ => false
  | _, .nan => false
  | .inf s, .inf t => s && !t
  | .inf s, .fin _ _ _ => s
  | .fin _ _ _, .inf t => !t
  | .fin s m e, .fin t n g => (finFrac s m e).blt (finFrac t n g)

/-- a = b as numbers. -/
def Fmt.feq (f : Fmt) (a b : Nat) : Bool := !f.isNan a && !f.isNan b && !f.blt a b && !f.blt b a
def Fmt.ble (f : Fmt) (a b : Nat) : Bool := f.blt a b || f.feq a b

def Fmt.abs (f : Fmt) (a : Nat) : Nat := a % 2 ^ (f.eb + f.mb)

end Sys2Proof.Machine
end

