-- ==== Sys2Proof/Machine/RegMap.lean ====
section
/-! DEFINITION. Machine/RegMap.lean: the address of every register of the index (R569) and the place of every
field of the register tables of the chapters (R9, R41, R91, R120, R150, R182, R212, R242, R243, R265, R288, R317,
R348, R366, R394, R426, R453, R482, R496, R511, R549, R563). `R.X` is the address of register X, with its index
letters as arguments in the order of the manual's offset formula; `F.X_Y` is field Y of register X. -/
namespace Sys2Proof.Machine

namespace R
def SYS_ID : Nat := 0x40000000
def SYS_ADDR : Nat := 0x40000004
def SYS_ROLE : Nat := 0x40000008
def SYS_LOC : Nat := 0x4000000C
def SYS_SHAREn_CELL (n : Nat) : Nat := 0x40000010 + 0x4 * n
def TIM_SC_LEN : Nat := 0x40050040
def TIM_SCN : Nat := 0x40050044
def SYS_RST_CAUSE : Nat := 0x40000020
def SYS_RST_CTRL : Nat := 0x40000024
def SYS_VSEC_LO : Nat := 0x40000100
def SYS_VSEC_HI : Nat := 0x40000104
def SYS_VAULT_STAT : Nat := 0x40000108
def CLK_CTRL : Nat := 0x40010000
def CLK_STAT : Nat := 0x40010004
def CLK_SPREAD : Nat := 0x40010008
def CLK_RAMP_DLY : Nat := 0x4001000C
def CLK_SLEW : Nat := 0x40010010
def CLK_HOLD : Nat := 0x40010014
def CLK_CKOn_CFG (n : Nat) : Nat := 0x40010020 + 0x4 * n
def IMG_STAT : Nat := 0x40020000
def IMG_SLOT : Nat := 0x40020004
def IMG_EPOCH : Nat := 0x40020008
def IMG_FLOOR : Nat := 0x4002000C
def IMG_CFG_DIG_LO : Nat := 0x40020010
def IMG_CFG_DIG_HI : Nat := 0x40020014
def IMG_ADM_STAT : Nat := 0x40020018
def IMG_BOOT_MS : Nat := 0x4002001C
def IMG_SEQ : Nat := 0x40020020
def IMG_OWNER_STAT : Nat := 0x40020024
def IMG_PROV : Nat := 0x40020028
def IMG_UPD_CTRL : Nat := 0x40020030
def IMG_UPD_SRC : Nat := 0x40020034
def IMG_UPD_LEN : Nat := 0x40020038
def IMG_UPD_STAT : Nat := 0x4002003C
def IMG_OWNER_DIG (i : Nat) : Nat := 0x40020040 + 0x4 * i
def LNK_CTRL : Nat := 0x40030000
def LNK_STAT : Nat := 0x40030004
def LNK_PORTx_CTRL (p : Nat) : Nat := 0x40030100 + 0x100 * p
def LNK_PORTx_STAT (p : Nat) : Nat := 0x40030104 + 0x100 * p
def LNK_PORTx_EQ_LO (p : Nat) : Nat := 0x40030108 + 0x100 * p
def LNK_PORTx_EQ_HI (p : Nat) : Nat := 0x4003010C + 0x100 * p
def LNK_PORTx_FIX (p : Nat) : Nat := 0x40030110 + 0x100 * p
def LNK_PORTx_EYEn (p : Nat) (e : Nat) : Nat := 0x40030114 + 0x100 * p + 0x4 * e
def LNK_PORTx_EBUF (p : Nat) : Nat := 0x4003011C + 0x100 * p
def LNK_PORTx_LANEn_CSYM (p : Nat) (e : Nat) : Nat := 0x40030120 + 0x100 * p + 0x10 * e
def LNK_PORTx_LANEn_CCW (p : Nat) (e : Nat) : Nat := 0x40030124 + 0x100 * p + 0x10 * e
def LNK_PORTx_LANEn_UCW (p : Nat) (e : Nat) : Nat := 0x40030128 + 0x100 * p + 0x10 * e
def RNG_CTRL : Nat := 0x40040000
def RNG_STAT : Nat := 0x40040004
def RNG_MAP_X : Nat := 0x40040008
def RNG_MAP_Y : Nat := 0x4004000C
def RNG_TIM_UP : Nat := 0x40040010
def RNG_TIM_SAFE : Nat := 0x40040014
def RNG_TIM_DN : Nat := 0x40040018
def RNG_UNFOLD_SCN : Nat := 0x4004001C
def RNG_CMD : Nat := 0x40040020
def RNG_TIM_UP_PB : Nat := 0x40040024
def RNG_TIM_SAFE_PB : Nat := 0x40040028
def RNG_TIM_DN_PB : Nat := 0x4004002C
def RNG_CNT_MISS : Nat := 0x40040040
def RNG_CNT_LATE : Nat := 0x40040044
def RNG_CNT_SEAL : Nat := 0x40040048
def RNG_CNT_DIFF : Nat := 0x4004004C
def RNG_CNT_AGED : Nat := 0x40040050
def RNG_CNT_DIVERT : Nat := 0x40040054
def RNG_CNT_DROP : Nat := 0x40040058
def RNG_CNT_FOLD : Nat := 0x4004005C
def RNG_LAST_MISS : Nat := 0x40040060
def RNG_LAST_MISS_SCN : Nat := 0x40040064
def RNG_RRA_CTRL : Nat := 0x40040100
def RNG_RRA_ADDR : Nat := 0x40040104
def RNG_RRA_STAT : Nat := 0x40040108
def RNG_RRA_BUF (i : Nat) : Nat := 0x40040140 + 0x4 * i
def TIM_CTRL : Nat := 0x40050000
def TIM_STAT : Nat := 0x40050004
def TIM_STIME_NS : Nat := 0x40050008
def TIM_STIME_FRAC : Nat := 0x4005000C
def TIM_SERVO : Nat := 0x40050010
def TIM_OFFSET : Nat := 0x40050014
def TIM_FADJ : Nat := 0x40050018
def TIM_ERR : Nat := 0x4005001C
def TIM_STEP_THR : Nat := 0x40050020
def TIM_UPSTREAM : Nat := 0x40050024
def TIM_PORTp_ASYM (i : Nat) : Nat := 0x40050050 + 0x4 * i
def TIM_PORTp_DLY (i : Nat) : Nat := 0x40050060 + 0x4 * i
def TIM_TPOn_CTRL (n : Nat) : Nat := 0x40050080 + 0x10 * n
def TIM_TPOn_START (n : Nat) : Nat := 0x40050084 + 0x10 * n
def TIM_TPOn_PER (n : Nat) : Nat := 0x40050088 + 0x10 * n
def TIM_TPOn_WIDTH (n : Nat) : Nat := 0x4005008C + 0x10 * n
def TIM_TPI_CTRL : Nat := 0x400500C0
def TIM_TPI_NS : Nat := 0x400500C4
def TIM_TPI_FRAC : Nat := 0x400500C8
def CE_SLOTn_BKA_B0 (n : Nat) : Nat := 0x41000000 + 0x100 * n
def CE_SLOTn_BKA_B1 (n : Nat) : Nat := 0x41000004 + 0x100 * n
def CE_SLOTn_BKA_B2 (n : Nat) : Nat := 0x41000008 + 0x100 * n
def CE_SLOTn_BKA_B3 (n : Nat) : Nat := 0x4100000C + 0x100 * n
def CE_SLOTn_BKA_A1 (n : Nat) : Nat := 0x41000010 + 0x100 * n
def CE_SLOTn_BKA_A2 (n : Nat) : Nat := 0x41000014 + 0x100 * n
def CE_SLOTn_BKA_A3 (n : Nat) : Nat := 0x41000018 + 0x100 * n
def CE_SLOTn_BKA_LO (n : Nat) : Nat := 0x4100001C + 0x100 * n
def CE_SLOTn_BKA_HI (n : Nat) : Nat := 0x41000020 + 0x100 * n
def CE_SLOTn_BKA_TDECAY (n : Nat) : Nat := 0x41000024 + 0x100 * n
def CE_SLOTn_BKA_EXT (n : Nat) (e : Nat) : Nat := 0x41000028 + 0x100 * n + 0x4 * e
def CE_SLOTn_BKB_B0 (n : Nat) : Nat := 0x41000040 + 0x100 * n
def CE_SLOTn_BKB_B1 (n : Nat) : Nat := 0x41000044 + 0x100 * n
def CE_SLOTn_BKB_B2 (n : Nat) : Nat := 0x41000048 + 0x100 * n
def CE_SLOTn_BKB_B3 (n : Nat) : Nat := 0x4100004C + 0x100 * n
def CE_SLOTn_BKB_A1 (n : Nat) : Nat := 0x41000050 + 0x100 * n
def CE_SLOTn_BKB_A2 (n : Nat) : Nat := 0x41000054 + 0x100 * n
def CE_SLOTn_BKB_A3 (n : Nat) : Nat := 0x41000058 + 0x100 * n
def CE_SLOTn_BKB_LO (n : Nat) : Nat := 0x4100005C + 0x100 * n
def CE_SLOTn_BKB_HI (n : Nat) : Nat := 0x41000060 + 0x100 * n
def CE_SLOTn_BKB_TDECAY (n : Nat) : Nat := 0x41000064 + 0x100 * n
def CE_SLOTn_BKB_EXT (n : Nat) (e : Nat) : Nat := 0x41000068 + 0x100 * n + 0x4 * e
def CE_SLOTn_E (n : Nat) (e : Nat) : Nat := 0x41000080 + 0x100 * n + 0x4 * e
def CE_SLOTn_W (n : Nat) (e : Nat) : Nat := 0x4100008C + 0x100 * n + 0x4 * e
def CE_SLOTn_XT (n : Nat) : Nat := 0x41000098 + 0x100 * n
def CE_SLOTn_U (n : Nat) : Nat := 0x4100009C + 0x100 * n
def CE_SLOTn_P (n : Nat) : Nat := 0x410000A0 + 0x100 * n
def CE_SLOTn_E0 (n : Nat) : Nat := 0x410000A4 + 0x100 * n
def CE_SLOTn_FF (n : Nat) : Nat := 0x410000A8 + 0x100 * n
def CE_SLOTn_STAT (n : Nat) : Nat := 0x410000AC + 0x100 * n
def CE_SLOTn_EVALS (n : Nat) : Nat := 0x410000B0 + 0x100 * n
def CE_SLOTn_CFG (n : Nat) : Nat := 0x410000C0 + 0x100 * n
def CE_SLOTn_IN_REF (n : Nat) : Nat := 0x410000C4 + 0x100 * n
def CE_SLOTn_IN_FB (n : Nat) : Nat := 0x410000C8 + 0x100 * n
def CE_SLOTn_IN_FF (n : Nat) : Nat := 0x410000CC + 0x100 * n
def CE_SLOTn_OUT (n : Nat) : Nat := 0x410000D0 + 0x100 * n
def CE_SLOTn_CONST (n : Nat) : Nat := 0x410000D4 + 0x100 * n
def CE_SLOTn_PLM (n : Nat) (e : Nat) : Nat := 0x410000E0 + 0x100 * n + 0x4 * e
def CE_STAT : Nat := 0x40060000
def CE_CMD : Nat := 0x40060004
def CE_SWAP_CTRL : Nat := 0x40060010
def CE_SWAP_SCN : Nat := 0x40060014
def CE_SWAP_STAT : Nat := 0x40060018
def CE_SWAP_LAST : Nat := 0x4006001C
def CE_RGn_CFG (n : Nat) : Nat := 0x40060040 + 0x20 * n
def CE_RGn_OFS (n : Nat) : Nat := 0x40060044 + 0x20 * n
def CE_RGn_DL (n : Nat) : Nat := 0x40060048 + 0x20 * n
def CE_RGn_STAT (n : Nat) : Nat := 0x4006004C + 0x20 * n
def CE_RGn_RUN (n : Nat) : Nat := 0x40060050 + 0x20 * n
def CE_LATE (i : Nat) : Nat := 0x40060200 + 0x4 * i
def CE_PEEK_CTRL : Nat := 0x40060300
def CE_PEEK (i : Nat) : Nat := 0x40060340 + 0x4 * i
def CE_CONm_CFG (m : Nat) : Nat := 0x40060400 + 0x10 * m
def CE_CONm_OUT (m : Nat) : Nat := 0x40060404 + 0x10 * m
def CE_CONm_Y (m : Nat) : Nat := 0x40060408 + 0x10 * m
def CE_CONm_STAT (m : Nat) : Nat := 0x4006040C + 0x10 * m
def CE_PMW (i : Nat) : Nat := 0x40060800 + 0x4 * i
def CE_PMF (i : Nat) : Nat := 0x40060880 + 0x4 * i
def BAL_CTRL : Nat := 0x40070000
def BAL_STAT : Nat := 0x40070004
def BAL_REQ : Nat := 0x40070008
def BAL_REQ_SCN : Nat := 0x4007000C
def BAL_REQ_STAT : Nat := 0x40070010
def BAL_RUN : Nat := 0x40070014
def BAL_STKs_CFG (s : Nat) : Nat := 0x40070100 + 0x40 * s
def BAL_STKs_SRC (s : Nat) : Nat := 0x40070104 + 0x40 * s
def BAL_STKs_KP (s : Nat) : Nat := 0x40070108 + 0x40 * s
def BAL_STKs_KR (s : Nat) : Nat := 0x4007010C + 0x40 * s
def BAL_STKs_KD (s : Nat) : Nat := 0x40070110 + 0x40 * s
def BAL_STKs_TRIM_MAX (s : Nat) : Nat := 0x40070114 + 0x40 * s
def BAL_STKs_DAB_MAX (s : Nat) : Nat := 0x40070118 + 0x40 * s
def BAL_STKs_PDB (s : Nat) : Nat := 0x4007011C + 0x40 * s
def BAL_STKs_PHI0 (s : Nat) : Nat := 0x40070120 + 0x40 * s
def BAL_STKs_SLEW (s : Nat) : Nat := 0x40070124 + 0x40 * s
def BAL_STKs_STAT (s : Nat) : Nat := 0x40070128 + 0x40 * s
def BAL_STKs_MEAN (s : Nat) : Nat := 0x4007012C + 0x40 * s
def BAL_STKs_VDC_ITEM (s : Nat) : Nat := 0x40070130 + 0x40 * s
def BAL_STKs_CELLi_CFG (s : Nat) (i : Nat) : Nat := 0x40071000 + 0x800 * s + 0x20 * i
def BAL_STKs_CELLi_CAP (s : Nat) (i : Nat) : Nat := 0x40071004 + 0x800 * s + 0x20 * i
def BAL_STKs_CELLi_STAT (s : Nat) (i : Nat) : Nat := 0x40071008 + 0x800 * s + 0x20 * i
def BAL_STKs_CELLi_PH (s : Nat) (i : Nat) : Nat := 0x4007100C + 0x800 * s + 0x20 * i
def BAL_STKs_CELLi_DAB (s : Nat) (i : Nat) : Nat := 0x40071010 + 0x800 * s + 0x20 * i
def BAL_STKs_CELLi_TRIM (s : Nat) (i : Nat) : Nat := 0x40071014 + 0x800 * s + 0x20 * i
def BAL_STKs_CELLi_ENERGY (s : Nat) (i : Nat) : Nat := 0x40071018 + 0x800 * s + 0x20 * i
def BAL_STKs_CELLi_MOD (s : Nat) (i : Nat) : Nat := 0x4007101C + 0x800 * s + 0x20 * i
def BAL_MBR_CTRL : Nat := 0x40070800
def BAL_MBR_STAT : Nat := 0x40070804
def BAL_MBR_PH (i : Nat) : Nat := 0x40070808 + 0x4 * i
def PWM_STAT : Nat := 0x40080000
def PWM_CMD : Nat := 0x40080004
def PWM_GRP_CLR : Nat := 0x40080008
def PWM_GRP_STAT : Nat := 0x4008000C
def PWM_TRP_LVL : Nat := 0x40080010
def PWM_TRP_LATCH : Nat := 0x40080014
def PWM_TRP_BLANKED : Nat := 0x40080018
def PWM_CLR_LOG : Nat := 0x4008001C
def PWM_GRPg_LEGS (g : Nat) : Nat := 0x40080040 + 0x4 * g
def PWM_TRPk_CFG (k : Nat) : Nat := 0x40080060 + 0x4 * k
def PWM_DTSk_TBb (k : Nat) (b : Nat) : Nat := 0x40080100 + 0x20 * k + 0x4 * b
def PWM_LCHn_CFG (n : Nat) : Nat := 0x40080400 + 0x40 * n
def PWM_LCHn_CTRL (n : Nat) : Nat := 0x40080404 + 0x40 * n
def PWM_LCHn_PER (n : Nat) : Nat := 0x40080408 + 0x40 * n
def PWM_LCHn_DUTY (n : Nat) : Nat := 0x4008040C + 0x40 * n
def PWM_LCHn_DFRAC (n : Nat) : Nat := 0x40080410 + 0x40 * n
def PWM_LCHn_PH (n : Nat) : Nat := 0x40080414 + 0x40 * n
def PWM_LCHn_PFRAC (n : Nat) : Nat := 0x40080418 + 0x40 * n
def PWM_LCHn_CMP0 (n : Nat) : Nat := 0x4008041C + 0x40 * n
def PWM_LCHn_MINP (n : Nat) : Nat := 0x40080420 + 0x40 * n
def PWM_LCHn_STAT (n : Nat) : Nat := 0x40080424 + 0x40 * n
def PWM_LCHn_PER_ACT (n : Nat) : Nat := 0x40080428 + 0x40 * n
def PWM_LCHn_DUTY_ACT (n : Nat) : Nat := 0x4008042C + 0x40 * n
def PWM_LCHn_PH_ACT (n : Nat) : Nat := 0x40080430 + 0x40 * n
def PWM_LCHn_CNT (n : Nat) : Nat := 0x40080434 + 0x40 * n
def PWM_LCHn_LEN (n : Nat) : Nat := 0x40080438 + 0x40 * n
def GD_CTRL : Nat := 0x40090000
def GD_SUPPLY : Nat := 0x40090004
def GD_STAT : Nat := 0x40090008
def GD_CMD : Nat := 0x4009000C
def GD_VDRV : Nat := 0x40090010
def GD_LEGn_CFG (n : Nat) : Nat := 0x40090100 + 0x20 * n
def GD_LEGn_SC_LS (n : Nat) : Nat := 0x40090104 + 0x20 * n
def GD_LEGn_SC_HS (n : Nat) : Nat := 0x40090108 + 0x20 * n
def GD_LEGn_STR (n : Nat) : Nat := 0x4009010C + 0x20 * n
def GD_LEGn_STAT (n : Nat) : Nat := 0x40090110 + 0x20 * n
def GD_LEGn_CNT (n : Nat) : Nat := 0x40090114 + 0x20 * n
def GD_LEGn_VBS (n : Nat) : Nat := 0x40090118 + 0x20 * n
def ADC_CFG : Nat := 0x400A0000
def ADC_CTRL : Nat := 0x400A0004
def ADC_STAT : Nat := 0x400A0008
def ADC_CMD : Nat := 0x400A000C
def ADC_ACQ : Nat := 0x400A0010
def ADC_HK : Nat := 0x400A0014
def ADC_CNT_LATE : Nat := 0x400A0020
def ADC_CNT_DROP : Nat := 0x400A0024
def ADC_CNT_UPLATE : Nat := 0x400A0028
def ADC_CNT_SEAL : Nat := 0x400A002C
def ADC_TRGm_CFG (m : Nat) : Nat := 0x400A0100 + 0x20 * m
def ADC_TRGm_CH (m : Nat) : Nat := 0x400A0104 + 0x20 * m
def ADC_TRGm_DLY (m : Nat) : Nat := 0x400A0108 + 0x20 * m
def ADC_TRGm_ITEM (m : Nat) : Nat := 0x400A010C + 0x20 * m
def ADC_TRGm_CNT (m : Nat) : Nat := 0x400A0110 + 0x20 * m
def ADC_RESm_RAW (m : Nat) : Nat := 0x400A0300 + 0x10 * m
def ADC_RESm_VAL (m : Nat) : Nat := 0x400A0304 + 0x10 * m
def ADC_RESm_STIME (m : Nat) : Nat := 0x400A0308 + 0x10 * m
def ADC_RESm_SEAL (m : Nat) : Nat := 0x400A030C + 0x10 * m
def ADC_CHc_GAIN (c : Nat) : Nat := 0x400A0500 + 0x8 * c
def ADC_CHc_OFS (c : Nat) : Nat := 0x400A0504 + 0x8 * c
def MTR_CFG : Nat := 0x400B0000
def MTR_STAT : Nat := 0x400B0004
def MTR_FREQ : Nat := 0x400B0008
def MTR_CYC : Nat := 0x400B000C
def MTR_SNAP : Nat := 0x400B0010
def MTR_SNAP_STAT : Nat := 0x400B0014
def MTR_AUTO : Nat := 0x400B0018
def MTR_SERIES : Nat := 0x400B001C
def MTR_CAL_DIG_LO : Nat := 0x400B0020
def MTR_CAL_DIG_HI : Nat := 0x400B0024
def MTR_CHn_CFG (n : Nat) : Nat := 0x400B0100 + 0x20 * n
def MTR_CHn_GAIN (n : Nat) : Nat := 0x400B0104 + 0x20 * n
def MTR_CHn_OFS (n : Nat) : Nat := 0x400B0108 + 0x20 * n
def MTR_CHn_PHASE (n : Nat) : Nat := 0x400B010C + 0x20 * n
def MTR_CHn_RMS (n : Nat) : Nat := 0x400B0110 + 0x20 * n
def MTR_PLSn_CFG (n : Nat) : Nat := 0x400B0200 + 0x8 * n
def MTR_PLSn_WGT (n : Nat) : Nat := 0x400B0204 + 0x8 * n
def MTR_DFCn_CFG (n : Nat) : Nat := 0x400B0240 + 0x8 * n
def MTR_DFCn_CONST (n : Nat) : Nat := 0x400B0244 + 0x8 * n
def MTR_ACCk_LO (k : Nat) : Nat := 0x400B0400 + 0x8 * k
def MTR_ACCk_HI (k : Nat) : Nat := 0x400B0404 + 0x8 * k
def MTR_SNP_SEQ : Nat := 0x400B0700
def MTR_SNP_STIME_NS : Nat := 0x400B0704
def MTR_SNP_STIME_FRAC : Nat := 0x400B0708
def MTR_SNP_SCN : Nat := 0x400B070C
def MTR_SNP_VSEC_LO : Nat := 0x400B0710
def MTR_SNP_VSEC_HI : Nat := 0x400B0714
def MTR_SNP_CYC : Nat := 0x400B0718
def MTR_SNPk_LO (k : Nat) : Nat := 0x400B0800 + 0x8 * k
def MTR_SNPk_HI (k : Nat) : Nat := 0x400B0804 + 0x8 * k
def MTR_SIGREC (i : Nat) : Nat := 0x400B0C00 + 0x4 * i
def DPX_CFG : Nat := 0x400C0000
def DPX_STAT : Nat := 0x400C0004
def DPX_JURY : Nat := 0x400C0008
def DPX_CMD : Nat := 0x400C000C
def DPX_SWAP_SCN : Nat := 0x400C0010
def DPX_SWAP_STAT : Nat := 0x400C0014
def DPX_FO_SCN : Nat := 0x400C0018
def DPX_FO_STAT : Nat := 0x400C001C
def DPX_CNT_CMP : Nat := 0x400C0020
def DPX_CNT_SKIP : Nat := 0x400C0024
def DPX_CNT_GMISS : Nat := 0x400C0028
def DPX_CNT_MM : Nat := 0x400C002C
def DPX_MM_OFS : Nat := 0x400C0030
def DPX_MM_SCN : Nat := 0x400C0034
def DPX_MBR_STAT : Nat := 0x400C0040
def DPX_MBR_CNT : Nat := 0x400C0044
def DPX_HEALTH (i : Nat) : Nat := 0x400C0080 + 0x4 * i
def SAF_CTRL : Nat := 0x400D0000
def SAF_STAT : Nat := 0x400D0004
def SAF_TP_CFG : Nat := 0x400D0008
def SAF_CMD : Nat := 0x400D000C
def SAF_IN_STAT : Nat := 0x400D0010
def SAF_DEMAND : Nat := 0x400D0014
def SAF_ACT_INH : Nat := 0x400D0018
def SAF_ACT_SO0 : Nat := 0x400D001C
def SAF_ACT_SO1 : Nat := 0x400D0020
def SAF_SO_CFG : Nat := 0x400D0024
def SAF_CNT_DISC : Nat := 0x400D0028
def SAF_CNT_SINGLE : Nat := 0x400D002C
def SAF_CNT_TEST : Nat := 0x400D0030
def SAF_SIn_CFG (n : Nat) : Nat := 0x400D0040 + 0x4 * n
def SAF_SFk_CFG (k : Nat) : Nat := 0x400D0080 + 0x4 * k
def SAF_POSp_MAPn (p : Nat) (n : Nat) : Nat := 0x400D1000 + 0x20 * p + 0x4 * n
def FLT_CFG : Nat := 0x400E0000
def FLT_STAT : Nat := 0x400E0004
def FLT_CLR : Nat := 0x400E0008
def FLT_CLR_STAT : Nat := 0x400E000C
def FLT_FLTI : Nat := 0x400E0010
def FLT_LOCK : Nat := 0x400E0014
def FLT_NEXT : Nat := 0x400E0018
def FLT_LOST : Nat := 0x400E001C
def FLT_ACT_LO : Nat := 0x400E0020
def FLT_ACT_HI : Nat := 0x400E0024
def FLT_STN : Nat := 0x400E0028
def FLT_RECr_Ww (r : Nat) (w : Nat) : Nat := 0x400E0100 + 0x20 * r + 0x4 * w
def FLT_LEDe_Ww (e : Nat) (w : Nat) : Nat := 0x400E0900 + 0x40 * e + 0x4 * w
def MEM_STAT : Nat := 0x400F0000
def MEM_BKT_OVF : Nat := 0x400F0004
def MEM_LAST_CE : Nat := 0x400F0008
def MEM_LAST_UE : Nat := 0x400F000C
def MEM_CMD : Nat := 0x400F0010
def MEM_BKTr_CFG (r : Nat) : Nat := 0x400F0040 + 0x8 * r
def MEM_BKTr_STAT (r : Nat) : Nat := 0x400F0044 + 0x8 * r
def MEM_CEr_CNT (r : Nat) : Nat := 0x400F0080 + 0x4 * r
def MEM_SCRUB_CTRL : Nat := 0x400F0100
def MEM_SCRUB_START : Nat := 0x400F0104
def MEM_SCRUB_END : Nat := 0x400F0108
def MEM_SCRUB_STAT : Nat := 0x400F010C
def MEM_SCRUB_CE : Nat := 0x400F0110
def MEM_SCRUB_UE : Nat := 0x400F0114
def MEM_SCRUB_FIRST_UE : Nat := 0x400F0118
def MEM_REPAIR : Nat := 0x400F0120
def MEM_REPAIR_STAT : Nat := 0x400F0124
def THM_STAT : Nat := 0x40100000
def THM_NTC_RPU : Nat := 0x40100004
def THM_LOG_STAT : Nat := 0x40100008
def THM_LOG_SEL : Nat := 0x4010000C
def THM_LOG_W (i : Nat) : Nat := 0x40100020 + 0x4 * i
def THM_Sn_CFG (s : Nat) : Nat := 0x40100100 + 0x20 * s
def THM_Sn_THR (s : Nat) : Nat := 0x40100104 + 0x20 * s
def THM_Sn_STAT (s : Nat) : Nat := 0x40100108 + 0x20 * s
def THM_Sn_R25 (s : Nat) : Nat := 0x4010010C + 0x20 * s
def THM_Sn_B (s : Nat) : Nat := 0x40100110 + 0x20 * s
def SUP_CTRL : Nat := 0x40110000
def SUP_STAT : Nat := 0x40110004
def SUP_CMD : Nat := 0x40110008
def SUP_MAC_LO : Nat := 0x4011000C
def SUP_MAC_HI : Nat := 0x40110010
def SUP_IP4 : Nat := 0x40110014
def SUP_IP4_CFG : Nat := 0x40110018
def SUP_IP6m (i : Nat) : Nat := 0x40110020 + 0x4 * i
def SUP_IP6_CFG : Nat := 0x40110030
def SUP_UDP : Nat := 0x40110034
def SUP_VLAN : Nat := 0x40110038
def SUP_SESS_CFG : Nat := 0x40110040
def SUP_REP_CFG : Nat := 0x40110044
def SUP_REP_STAT : Nat := 0x40110048
def SUP_RSEQ : Nat := 0x4011004C
def SUP_CSEQ : Nat := 0x40110050
def SUP_CNT_RX : Nat := 0x40110060
def SUP_CNT_TX : Nat := 0x40110064
def SUP_CNT_BAD : Nat := 0x40110068
def SUP_CNT_REPLAY : Nat := 0x4011006C
def SUP_REP_DROP : Nat := 0x40110070
def SUP_REP_LOST : Nat := 0x40110074
def SUP_CNT_PTPDROP : Nat := 0x40110078
def SUP_SESSn_STAT (n : Nat) : Nat := 0x40110080 + 0x4 * n
def SYS_VIOL_CNT : Nat := 0x40000030
def SYS_VIOL_LAST : Nat := 0x40000034
def MBX_CFG : Nat := 0x40120000
def MBX_IRQ_MP : Nat := 0x40120004
def MBX_IRQ_EN : Nat := 0x40120008
def MBX_CMD : Nat := 0x4012000C
def MBX_CNT_STRAY : Nat := 0x40120010
def MBX_CHn_Di (n : Nat) (i : Nat) : Nat := 0x40120100 + 0x80 * n + 0x4 * i
def MBX_CHn_CTRL (n : Nat) : Nat := 0x40120140 + 0x80 * n
def MBX_CHn_STAT (n : Nat) : Nat := 0x40120144 + 0x80 * n
def MBX_CHn_BIND (n : Nat) : Nat := 0x40120148 + 0x80 * n
end R

namespace F
def SYS_ID_PART : Fld := ⟨R.SYS_ID, 16, 16⟩
def SYS_ID_MAJOR : Fld := ⟨R.SYS_ID, 12, 4⟩
def SYS_ID_MINOR : Fld := ⟨R.SYS_ID, 8, 4⟩
def SYS_ADDR_POS : Fld := ⟨R.SYS_ADDR, 0, 8⟩
def SYS_ROLE_BIND : Fld := ⟨R.SYS_ROLE, 24, 3⟩
def SYS_ROLE_BYP_LEG : Fld := ⟨R.SYS_ROLE, 12, 3⟩
def SYS_ROLE_SHARES : Fld := ⟨R.SYS_ROLE, 8, 2⟩
def SYS_ROLE_SINGLE : Fld := ⟨R.SYS_ROLE, 3, 1⟩
def SYS_ROLE_ROLE : Fld := ⟨R.SYS_ROLE, 0, 3⟩
def SYS_SHAREn_CELL_POS (n : Nat) : Fld := ⟨R.SYS_SHAREn_CELL n, 8, 8⟩
def SYS_SHAREn_CELL_CELL (n : Nat) : Fld := ⟨R.SYS_SHAREn_CELL n, 2, 6⟩
def SYS_SHAREn_CELL_STACK (n : Nat) : Fld := ⟨R.SYS_SHAREn_CELL n, 0, 2⟩
def TIM_SC_LEN_SC_LEN : Fld := ⟨R.TIM_SC_LEN, 0, 24⟩
def TIM_SCN_SCN : Fld := ⟨R.TIM_SCN, 0, 32⟩
def SYS_RST_CAUSE_RAIL_ID : Fld := ⟨R.SYS_RST_CAUSE, 8, 4⟩
def SYS_RST_CAUSE_SOFT : Fld := ⟨R.SYS_RST_CAUSE, 4, 1⟩
def SYS_RST_CAUSE_PIN : Fld := ⟨R.SYS_RST_CAUSE, 3, 1⟩
def SYS_RST_CAUSE_PGIN : Fld := ⟨R.SYS_RST_CAUSE, 2, 1⟩
def SYS_RST_CAUSE_RAIL : Fld := ⟨R.SYS_RST_CAUSE, 1, 1⟩
def SYS_RST_CAUSE_POR : Fld := ⟨R.SYS_RST_CAUSE, 0, 1⟩
def SYS_RST_CTRL_KEY : Fld := ⟨R.SYS_RST_CTRL, 16, 16⟩
def SYS_VSEC_HI_HI : Fld := ⟨R.SYS_VSEC_HI, 0, 16⟩
def SYS_VAULT_STAT_ONBAT : Fld := ⟨R.SYS_VAULT_STAT, 3, 1⟩
def SYS_VAULT_STAT_XTAL_FAIL : Fld := ⟨R.SYS_VAULT_STAT, 2, 1⟩
def SYS_VAULT_STAT_TAMPER : Fld := ⟨R.SYS_VAULT_STAT, 1, 1⟩
def SYS_VAULT_STAT_LOST : Fld := ⟨R.SYS_VAULT_STAT, 0, 1⟩
def CLK_CTRL_REFSEL_EN : Fld := ⟨R.CLK_CTRL, 2, 1⟩
def CLK_CTRL_SLEW_EN : Fld := ⟨R.CLK_CTRL, 1, 1⟩
def CLK_CTRL_SPREAD_EN : Fld := ⟨R.CLK_CTRL, 0, 1⟩
def CLK_STAT_SOURCE : Fld := ⟨R.CLK_STAT, 11, 1⟩
def CLK_STAT_RAMP_ALN : Fld := ⟨R.CLK_STAT, 10, 1⟩
def CLK_STAT_SLEW_LIM : Fld := ⟨R.CLK_STAT, 9, 1⟩
def CLK_STAT_CKO_ERR : Fld := ⟨R.CLK_STAT, 8, 1⟩
def CLK_STAT_BAND : Fld := ⟨R.CLK_STAT, 2, 6⟩
def CLK_STAT_STATE : Fld := ⟨R.CLK_STAT, 0, 2⟩
def CLK_SPREAD_PERIOD : Fld := ⟨R.CLK_SPREAD, 16, 16⟩
def CLK_SPREAD_DEPTH : Fld := ⟨R.CLK_SPREAD, 0, 6⟩
def CLK_RAMP_DLY_DLY : Fld := ⟨R.CLK_RAMP_DLY, 0, 16⟩
def CLK_SLEW_OFFSET : Fld := ⟨R.CLK_SLEW, 8, 24⟩
def CLK_SLEW_SLOPE : Fld := ⟨R.CLK_SLEW, 0, 8⟩
def CLK_HOLD_HOLD_MAX : Fld := ⟨R.CLK_HOLD, 0, 10⟩
def CLK_CKOn_CFG_EN (n : Nat) : Fld := ⟨R.CLK_CKOn_CFG n, 31, 1⟩
def CLK_CKOn_CFG_AUTO (n : Nat) : Fld := ⟨R.CLK_CKOn_CFG n, 30, 1⟩
def CLK_CKOn_CFG_FMT (n : Nat) : Fld := ⟨R.CLK_CKOn_CFG n, 16, 2⟩
def CLK_CKOn_CFG_DIV (n : Nat) : Fld := ⟨R.CLK_CKOn_CFG n, 0, 16⟩
def IMG_STAT_ERR : Fld := ⟨R.IMG_STAT, 24, 4⟩
def IMG_STAT_ERR_SECT : Fld := ⟨R.IMG_STAT, 16, 4⟩
def IMG_STAT_STN_PB : Fld := ⟨R.IMG_STAT, 8, 1⟩
def IMG_STAT_SLOT : Fld := ⟨R.IMG_STAT, 4, 1⟩
def IMG_STAT_STAGE : Fld := ⟨R.IMG_STAT, 0, 4⟩
def IMG_SLOT_S1_RES : Fld := ⟨R.IMG_SLOT, 20, 4⟩
def IMG_SLOT_S0_RES : Fld := ⟨R.IMG_SLOT, 16, 4⟩
def IMG_SLOT_S1_STATE : Fld := ⟨R.IMG_SLOT, 8, 3⟩
def IMG_SLOT_S0_STATE : Fld := ⟨R.IMG_SLOT, 0, 3⟩
def IMG_EPOCH_MIN_EPOCH : Fld := ⟨R.IMG_EPOCH, 16, 16⟩
def IMG_EPOCH_EPOCH : Fld := ⟨R.IMG_EPOCH, 0, 16⟩
def IMG_FLOOR_FLOOR : Fld := ⟨R.IMG_FLOOR, 0, 16⟩
def IMG_ADM_STAT_HEAD_POS : Fld := ⟨R.IMG_ADM_STAT, 24, 8⟩
def IMG_ADM_STAT_TRIES : Fld := ⟨R.IMG_ADM_STAT, 16, 8⟩
def IMG_ADM_STAT_REASON : Fld := ⟨R.IMG_ADM_STAT, 8, 4⟩
def IMG_ADM_STAT_ADM : Fld := ⟨R.IMG_ADM_STAT, 0, 2⟩
def IMG_BOOT_MS_FULL_MS : Fld := ⟨R.IMG_BOOT_MS, 16, 16⟩
def IMG_BOOT_MS_PB_MS : Fld := ⟨R.IMG_BOOT_MS, 0, 16⟩
def IMG_OWNER_STAT_PROV_ERR : Fld := ⟨R.IMG_OWNER_STAT, 10, 1⟩
def IMG_OWNER_STAT_ACTIVE : Fld := ⟨R.IMG_OWNER_STAT, 8, 2⟩
def IMG_OWNER_STAT_K2 : Fld := ⟨R.IMG_OWNER_STAT, 4, 2⟩
def IMG_OWNER_STAT_K1 : Fld := ⟨R.IMG_OWNER_STAT, 2, 2⟩
def IMG_OWNER_STAT_K0 : Fld := ⟨R.IMG_OWNER_STAT, 0, 2⟩
def IMG_PROV_KEY : Fld := ⟨R.IMG_PROV, 16, 16⟩
def IMG_PROV_FUSE : Fld := ⟨R.IMG_PROV, 0, 1⟩
def IMG_UPD_CTRL_CMD : Fld := ⟨R.IMG_UPD_CTRL, 0, 3⟩
def IMG_UPD_STAT_ERR : Fld := ⟨R.IMG_UPD_STAT, 28, 4⟩
def IMG_UPD_STAT_VERIFIED : Fld := ⟨R.IMG_UPD_STAT, 8, 1⟩
def IMG_UPD_STAT_DONE : Fld := ⟨R.IMG_UPD_STAT, 1, 1⟩
def IMG_UPD_STAT_BUSY : Fld := ⟨R.IMG_UPD_STAT, 0, 1⟩
def LNK_CTRL_EYE_MIN : Fld := ⟨R.LNK_CTRL, 16, 8⟩
def LNK_CTRL_RETRY_MAX : Fld := ⟨R.LNK_CTRL, 4, 4⟩
def LNK_CTRL_PRE_G : Fld := ⟨R.LNK_CTRL, 3, 1⟩
def LNK_CTRL_PRE_Y : Fld := ⟨R.LNK_CTRL, 2, 1⟩
def LNK_CTRL_PRE_X : Fld := ⟨R.LNK_CTRL, 1, 1⟩
def LNK_CTRL_AUTO_TRAIN : Fld := ⟨R.LNK_CTRL, 0, 1⟩
def LNK_STAT_TB : Fld := ⟨R.LNK_STAT, 24, 3⟩
def LNK_STAT_LPLL1_BAND : Fld := ⟨R.LNK_STAT, 16, 6⟩
def LNK_STAT_LPLL0_BAND : Fld := ⟨R.LNK_STAT, 8, 6⟩
def LNK_STAT_LPLL1_OFF : Fld := ⟨R.LNK_STAT, 3, 1⟩
def LNK_STAT_LPLL0_OFF : Fld := ⟨R.LNK_STAT, 2, 1⟩
def LNK_STAT_LPLL1_LOCK : Fld := ⟨R.LNK_STAT, 1, 1⟩
def LNK_STAT_LPLL0_LOCK : Fld := ⟨R.LNK_STAT, 0, 1⟩
def LNK_PORTx_CTRL_CNT_CLR (p : Nat) : Fld := ⟨R.LNK_PORTx_CTRL p, 2, 1⟩
def LNK_PORTx_CTRL_TRAIN (p : Nat) : Fld := ⟨R.LNK_PORTx_CTRL p, 1, 1⟩
def LNK_PORTx_CTRL_CHILL (p : Nat) : Fld := ⟨R.LNK_PORTx_CTRL p, 0, 1⟩
def LNK_PORTx_STAT_TRN_ERR (p : Nat) : Fld := ⟨R.LNK_PORTx_STAT p, 16, 3⟩
def LNK_PORTx_STAT_RETRIES (p : Nat) : Fld := ⟨R.LNK_PORTx_STAT p, 12, 4⟩
def LNK_PORTx_STAT_TRAINED (p : Nat) : Fld := ⟨R.LNK_PORTx_STAT p, 11, 1⟩
def LNK_PORTx_STAT_CHILL_REF (p : Nat) : Fld := ⟨R.LNK_PORTx_STAT p, 10, 1⟩
def LNK_PORTx_STAT_MODE (p : Nat) : Fld := ⟨R.LNK_PORTx_STAT p, 9, 1⟩
def LNK_PORTx_STAT_UP (p : Nat) : Fld := ⟨R.LNK_PORTx_STAT p, 8, 1⟩
def LNK_PORTx_STAT_L1_STATE (p : Nat) : Fld := ⟨R.LNK_PORTx_STAT p, 4, 3⟩
def LNK_PORTx_STAT_L0_STATE (p : Nat) : Fld := ⟨R.LNK_PORTx_STAT p, 0, 3⟩
def LNK_PORTx_EQ_LO_TX_POST (p : Nat) : Fld := ⟨R.LNK_PORTx_EQ_LO p, 12, 5⟩
def LNK_PORTx_EQ_LO_TX_PRE (p : Nat) : Fld := ⟨R.LNK_PORTx_EQ_LO p, 8, 4⟩
def LNK_PORTx_EQ_LO_TX_AMP (p : Nat) : Fld := ⟨R.LNK_PORTx_EQ_LO p, 0, 6⟩
def LNK_PORTx_EQ_HI_DFE2 (p : Nat) : Fld := ⟨R.LNK_PORTx_EQ_HI p, 16, 5⟩
def LNK_PORTx_EQ_HI_DFE1 (p : Nat) : Fld := ⟨R.LNK_PORTx_EQ_HI p, 8, 6⟩
def LNK_PORTx_EQ_HI_CTLE (p : Nat) : Fld := ⟨R.LNK_PORTx_EQ_HI p, 0, 5⟩
def LNK_PORTx_FIX_SRC (p : Nat) : Fld := ⟨R.LNK_PORTx_FIX p, 8, 1⟩
def LNK_PORTx_FIX_TX_INV1 (p : Nat) : Fld := ⟨R.LNK_PORTx_FIX p, 4, 1⟩
def LNK_PORTx_FIX_TX_INV0 (p : Nat) : Fld := ⟨R.LNK_PORTx_FIX p, 3, 1⟩
def LNK_PORTx_FIX_SWAP (p : Nat) : Fld := ⟨R.LNK_PORTx_FIX p, 2, 1⟩
def LNK_PORTx_FIX_RX_INV1 (p : Nat) : Fld := ⟨R.LNK_PORTx_FIX p, 1, 1⟩
def LNK_PORTx_FIX_RX_INV0 (p : Nat) : Fld := ⟨R.LNK_PORTx_FIX p, 0, 1⟩
def LNK_PORTx_EYEn_VALID (p : Nat) (e : Nat) : Fld := ⟨R.LNK_PORTx_EYEn p e, 31, 1⟩
def LNK_PORTx_EYEn_SER_DEC (p : Nat) (e : Nat) : Fld := ⟨R.LNK_PORTx_EYEn p e, 16, 4⟩
def LNK_PORTx_EYEn_WIDTH (p : Nat) (e : Nat) : Fld := ⟨R.LNK_PORTx_EYEn p e, 8, 8⟩
def LNK_PORTx_EYEn_HEIGHT (p : Nat) (e : Nat) : Fld := ⟨R.LNK_PORTx_EYEn p e, 0, 8⟩
def LNK_PORTx_EBUF_FILL1 (p : Nat) : Fld := ⟨R.LNK_PORTx_EBUF p, 8, 8⟩
def LNK_PORTx_EBUF_FILL0 (p : Nat) : Fld := ⟨R.LNK_PORTx_EBUF p, 0, 8⟩
def RNG_CTRL_BULK_WIN : Fld := ⟨R.RNG_CTRL, 8, 8⟩
def RNG_CTRL_BULK_RING : Fld := ⟨R.RNG_CTRL, 0, 1⟩
def RNG_STAT_UNF_PEND : Fld := ⟨R.RNG_STAT, 8, 1⟩
def RNG_STAT_Y_STATE : Fld := ⟨R.RNG_STAT, 4, 3⟩
def RNG_STAT_X_STATE : Fld := ⟨R.RNG_STAT, 0, 3⟩
def RNG_MAP_X_HOPS_W : Fld := ⟨R.RNG_MAP_X, 24, 8⟩
def RNG_MAP_X_HOPS_E : Fld := ⟨R.RNG_MAP_X, 16, 8⟩
def RNG_MAP_X_SIZE : Fld := ⟨R.RNG_MAP_X, 8, 8⟩
def RNG_MAP_X_IDX : Fld := ⟨R.RNG_MAP_X, 0, 8⟩
def RNG_MAP_Y_HOPS_W : Fld := ⟨R.RNG_MAP_Y, 24, 8⟩
def RNG_MAP_Y_HOPS_E : Fld := ⟨R.RNG_MAP_Y, 16, 8⟩
def RNG_MAP_Y_SIZE : Fld := ⟨R.RNG_MAP_Y, 8, 8⟩
def RNG_MAP_Y_IDX : Fld := ⟨R.RNG_MAP_Y, 0, 8⟩
def RNG_TIM_UP_T : Fld := ⟨R.RNG_TIM_UP, 0, 24⟩
def RNG_TIM_SAFE_T : Fld := ⟨R.RNG_TIM_SAFE, 0, 24⟩
def RNG_TIM_DN_T : Fld := ⟨R.RNG_TIM_DN, 0, 24⟩
def RNG_CMD_CNT_CLR : Fld := ⟨R.RNG_CMD, 0, 1⟩
def RNG_TIM_UP_PB_T : Fld := ⟨R.RNG_TIM_UP_PB, 0, 24⟩
def RNG_TIM_SAFE_PB_T : Fld := ⟨R.RNG_TIM_SAFE_PB, 0, 24⟩
def RNG_TIM_DN_PB_T : Fld := ⟨R.RNG_TIM_DN_PB, 0, 24⟩
def RNG_LAST_MISS_ITEM : Fld := ⟨R.RNG_LAST_MISS, 16, 16⟩
def RNG_LAST_MISS_ORIGIN : Fld := ⟨R.RNG_LAST_MISS, 0, 8⟩
def RNG_RRA_CTRL_GO : Fld := ⟨R.RNG_RRA_CTRL, 31, 1⟩
def RNG_RRA_CTRL_OP : Fld := ⟨R.RNG_RRA_CTRL, 28, 1⟩
def RNG_RRA_CTRL_COUNT : Fld := ⟨R.RNG_RRA_CTRL, 16, 5⟩
def RNG_RRA_CTRL_NODE : Fld := ⟨R.RNG_RRA_CTRL, 0, 8⟩
def RNG_RRA_STAT_DONE_CNT : Fld := ⟨R.RNG_RRA_STAT, 8, 5⟩
def RNG_RRA_STAT_ERR : Fld := ⟨R.RNG_RRA_STAT, 4, 4⟩
def RNG_RRA_STAT_STATE : Fld := ⟨R.RNG_RRA_STAT, 0, 2⟩
def TIM_CTRL_XCHK : Fld := ⟨R.TIM_CTRL, 16, 8⟩
def TIM_CTRL_NOUP_MAX : Fld := ⟨R.TIM_CTRL, 8, 4⟩
def TIM_CTRL_HOST_TO : Fld := ⟨R.TIM_CTRL, 0, 8⟩
def TIM_STAT_WRAP_OVR : Fld := ⟨R.TIM_STAT, 31, 1⟩
def TIM_STAT_WRAP : Fld := ⟨R.TIM_STAT, 30, 1⟩
def TIM_STAT_OFS_IGN : Fld := ⟨R.TIM_STAT, 9, 1⟩
def TIM_STAT_HOST_TO : Fld := ⟨R.TIM_STAT, 8, 1⟩
def TIM_STAT_SRC_HOST : Fld := ⟨R.TIM_STAT, 7, 1⟩
def TIM_STAT_YLIM : Fld := ⟨R.TIM_STAT, 6, 1⟩
def TIM_STAT_XCHK : Fld := ⟨R.TIM_STAT, 5, 1⟩
def TIM_STAT_STATE : Fld := ⟨R.TIM_STAT, 0, 2⟩
def TIM_STIME_FRAC_WRAP : Fld := ⟨R.TIM_STIME_FRAC, 31, 1⟩
def TIM_STIME_FRAC_FRAC : Fld := ⟨R.TIM_STIME_FRAC, 0, 16⟩
def TIM_SERVO_HKI_SH : Fld := ⟨R.TIM_SERVO, 24, 5⟩
def TIM_SERVO_HKP_SH : Fld := ⟨R.TIM_SERVO, 16, 5⟩
def TIM_SERVO_KI_SH : Fld := ⟨R.TIM_SERVO, 8, 5⟩
def TIM_SERVO_KP_SH : Fld := ⟨R.TIM_SERVO, 0, 5⟩
def TIM_UPSTREAM_ROOT : Fld := ⟨R.TIM_UPSTREAM, 24, 8⟩
def TIM_UPSTREAM_HOPS : Fld := ⟨R.TIM_UPSTREAM, 16, 8⟩
def TIM_UPSTREAM_PEER : Fld := ⟨R.TIM_UPSTREAM, 8, 8⟩
def TIM_UPSTREAM_PORT : Fld := ⟨R.TIM_UPSTREAM, 0, 3⟩
def TIM_TPOn_CTRL_CFG_ERR (n : Nat) : Fld := ⟨R.TIM_TPOn_CTRL n, 9, 1⟩
def TIM_TPOn_CTRL_MISSED (n : Nat) : Fld := ⟨R.TIM_TPOn_CTRL n, 8, 1⟩
def TIM_TPOn_CTRL_POL (n : Nat) : Fld := ⟨R.TIM_TPOn_CTRL n, 2, 1⟩
def TIM_TPOn_CTRL_PERIODIC (n : Nat) : Fld := ⟨R.TIM_TPOn_CTRL n, 1, 1⟩
def TIM_TPOn_CTRL_EN (n : Nat) : Fld := ⟨R.TIM_TPOn_CTRL n, 0, 1⟩
def TIM_TPI_CTRL_EN : Fld := ⟨R.TIM_TPI_CTRL, 0, 1⟩
def TIM_TPI_CTRL_EDGE : Fld := ⟨R.TIM_TPI_CTRL, 1, 1⟩
def TIM_TPI_FRAC_RDY : Fld := ⟨R.TIM_TPI_FRAC, 31, 1⟩
def TIM_TPI_FRAC_OVR : Fld := ⟨R.TIM_TPI_FRAC, 30, 1⟩
def TIM_TPI_FRAC_FRAC : Fld := ⟨R.TIM_TPI_FRAC, 0, 16⟩
def CE_SLOTn_STAT_MISS_CNT (n : Nat) : Fld := ⟨R.CE_SLOTn_STAT n, 8, 4⟩
def CE_SLOTn_STAT_ECC (n : Nat) : Fld := ⟨R.CE_SLOTn_STAT n, 7, 1⟩
def CE_SLOTn_STAT_BANK_ERR (n : Nat) : Fld := ⟨R.CE_SLOTn_STAT n, 6, 1⟩
def CE_SLOTn_STAT_STALE (n : Nat) : Fld := ⟨R.CE_SLOTn_STAT n, 5, 1⟩
def CE_SLOTn_STAT_MISS (n : Nat) : Fld := ⟨R.CE_SLOTn_STAT n, 4, 1⟩
def CE_SLOTn_STAT_NAN (n : Nat) : Fld := ⟨R.CE_SLOTn_STAT n, 3, 1⟩
def CE_SLOTn_STAT_LATE (n : Nat) : Fld := ⟨R.CE_SLOTn_STAT n, 2, 1⟩
def CE_SLOTn_STAT_CLAMP_LO (n : Nat) : Fld := ⟨R.CE_SLOTn_STAT n, 1, 1⟩
def CE_SLOTn_STAT_CLAMP_HI (n : Nat) : Fld := ⟨R.CE_SLOTn_STAT n, 0, 1⟩
def CE_SLOTn_CFG_EN (n : Nat) : Fld := ⟨R.CE_SLOTn_CFG n, 31, 1⟩
def CE_SLOTn_CFG_FORM (n : Nat) : Fld := ⟨R.CE_SLOTn_CFG n, 30, 1⟩
def CE_SLOTn_CFG_RULE (n : Nat) : Fld := ⟨R.CE_SLOTn_CFG n, 28, 2⟩
def CE_SLOTn_CFG_ACT (n : Nat) : Fld := ⟨R.CE_SLOTn_CFG n, 27, 1⟩
def CE_SLOTn_CFG_ARM (n : Nat) : Fld := ⟨R.CE_SLOTn_CFG n, 26, 1⟩
def CE_SLOTn_CFG_RG (n : Nat) : Fld := ⟨R.CE_SLOTn_CFG n, 23, 3⟩
def CE_SLOTn_CFG_IN_HOLD (n : Nat) : Fld := ⟨R.CE_SLOTn_CFG n, 16, 4⟩
def CE_SLOTn_PLM0_EN (n : Nat) : Fld := ⟨R.CE_SLOTn_PLM n 0, 31, 1⟩
def CE_SLOTn_PLM0_ORDER (n : Nat) : Fld := ⟨R.CE_SLOTn_PLM n 0, 30, 1⟩
def CE_SLOTn_PLM0_FCLS (n : Nat) : Fld := ⟨R.CE_SLOTn_PLM n 0, 28, 2⟩
def CE_SLOTn_PLM0_SCOPE (n : Nat) : Fld := ⟨R.CE_SLOTn_PLM n 0, 25, 3⟩
def CE_SLOTn_PLM0_LEG (n : Nat) : Fld := ⟨R.CE_SLOTn_PLM n 0, 22, 3⟩
def CE_SLOTn_PLM0_SW (n : Nat) : Fld := ⟨R.CE_SLOTn_PLM n 0, 21, 1⟩
def CE_SLOTn_PLM0_STATE (n : Nat) : Fld := ⟨R.CE_SLOTn_PLM n 0, 19, 2⟩
def CE_SLOTn_PLM0_PERSIST (n : Nat) : Fld := ⟨R.CE_SLOTn_PLM n 0, 12, 4⟩
def CE_SLOTn_PLM0_CNTW (n : Nat) : Fld := ⟨R.CE_SLOTn_PLM n 0, 4, 4⟩
def CE_SLOTn_PLM0_CNTF (n : Nat) : Fld := ⟨R.CE_SLOTn_PLM n 0, 0, 4⟩
def CE_STAT_ECC : Fld := ⟨R.CE_STAT, 3, 1⟩
def CE_STAT_BANK_ERR : Fld := ⟨R.CE_STAT, 2, 1⟩
def CE_STAT_BIND_ERR : Fld := ⟨R.CE_STAT, 1, 1⟩
def CE_STAT_ACT_WR : Fld := ⟨R.CE_STAT, 0, 1⟩
def CE_CMD_CNT_CLR : Fld := ⟨R.CE_CMD, 0, 1⟩
def CE_SWAP_CTRL_GO : Fld := ⟨R.CE_SWAP_CTRL, 31, 1⟩
def CE_SWAP_CTRL_CANCEL : Fld := ⟨R.CE_SWAP_CTRL, 30, 1⟩
def CE_SWAP_CTRL_NEXT : Fld := ⟨R.CE_SWAP_CTRL, 29, 1⟩
def CE_SWAP_CTRL_STATE : Fld := ⟨R.CE_SWAP_CTRL, 0, 2⟩
def CE_SWAP_STAT_ERR : Fld := ⟨R.CE_SWAP_STAT, 28, 4⟩
def CE_SWAP_STAT_REFUSED : Fld := ⟨R.CE_SWAP_STAT, 16, 10⟩
def CE_SWAP_STAT_SWAPPED : Fld := ⟨R.CE_SWAP_STAT, 0, 10⟩
def CE_RGn_CFG_EN (n : Nat) : Fld := ⟨R.CE_RGn_CFG n, 31, 1⟩
def CE_RGn_CFG_PB (n : Nat) : Fld := ⟨R.CE_RGn_CFG n, 30, 1⟩
def CE_RGn_CFG_TYPE (n : Nat) : Fld := ⟨R.CE_RGn_CFG n, 28, 2⟩
def CE_RGn_CFG_MISS_MAX (n : Nat) : Fld := ⟨R.CE_RGn_CFG n, 24, 4⟩
def CE_RGn_CFG_DIV_SH (n : Nat) : Fld := ⟨R.CE_RGn_CFG n, 16, 3⟩
def CE_RGn_CFG_PHASE (n : Nat) : Fld := ⟨R.CE_RGn_CFG n, 8, 8⟩
def CE_RGn_CFG_EVMASK (n : Nat) : Fld := ⟨R.CE_RGn_CFG n, 4, 4⟩
def CE_RGn_CFG_LCH (n : Nat) : Fld := ⟨R.CE_RGn_CFG n, 0, 3⟩
def CE_RGn_OFS_OFS (n : Nat) : Fld := ⟨R.CE_RGn_OFS n, 0, 24⟩
def CE_RGn_DL_DL (n : Nat) : Fld := ⟨R.CE_RGn_DL n, 0, 24⟩
def CE_RGn_STAT_OVR (n : Nat) : Fld := ⟨R.CE_RGn_STAT n, 24, 8⟩
def CE_RGn_STAT_CONSEC (n : Nat) : Fld := ⟨R.CE_RGn_STAT n, 20, 4⟩
def CE_RGn_STAT_MISSES (n : Nat) : Fld := ⟨R.CE_RGn_STAT n, 0, 16⟩
def CE_RGn_RUN_MAX (n : Nat) : Fld := ⟨R.CE_RGn_RUN n, 16, 16⟩
def CE_RGn_RUN_LAST (n : Nat) : Fld := ⟨R.CE_RGn_RUN n, 0, 16⟩
def CE_PEEK_CTRL_REQ : Fld := ⟨R.CE_PEEK_CTRL, 31, 1⟩
def CE_PEEK_CTRL_DONE : Fld := ⟨R.CE_PEEK_CTRL, 30, 1⟩
def CE_PEEK_CTRL_SLOT : Fld := ⟨R.CE_PEEK_CTRL, 0, 10⟩
def CE_CONm_CFG_EN (m : Nat) : Fld := ⟨R.CE_CONm_CFG m, 31, 1⟩
def CE_CONm_STAT_HANDOVERS (m : Nat) : Fld := ⟨R.CE_CONm_STAT m, 16, 16⟩
def CE_CONm_STAT_WIN (m : Nat) : Fld := ⟨R.CE_CONm_STAT m, 6, 10⟩
def CE_CONm_STAT_MEMBERS (m : Nat) : Fld := ⟨R.CE_CONm_STAT m, 2, 4⟩
def CE_CONm_STAT_EMPTY (m : Nat) : Fld := ⟨R.CE_CONm_STAT m, 0, 1⟩
def BAL_CTRL_EN : Fld := ⟨R.BAL_CTRL, 31, 1⟩
def BAL_CTRL_RG : Fld := ⟨R.BAL_CTRL, 24, 3⟩
def BAL_CTRL_LOST_CYC : Fld := ⟨R.BAL_CTRL, 8, 8⟩
def BAL_CTRL_MISS_HOLD : Fld := ⟨R.BAL_CTRL, 0, 4⟩
def BAL_STAT_CONSEC : Fld := ⟨R.BAL_STAT, 4, 4⟩
def BAL_STAT_LATE : Fld := ⟨R.BAL_STAT, 1, 1⟩
def BAL_STAT_BUSY : Fld := ⟨R.BAL_STAT, 0, 1⟩
def BAL_REQ_GO : Fld := ⟨R.BAL_REQ, 31, 1⟩
def BAL_REQ_NEXT : Fld := ⟨R.BAL_REQ, 30, 1⟩
def BAL_REQ_OP : Fld := ⟨R.BAL_REQ, 28, 2⟩
def BAL_REQ_POS : Fld := ⟨R.BAL_REQ, 0, 8⟩
def BAL_REQ_STAT_ERR : Fld := ⟨R.BAL_REQ_STAT, 4, 4⟩
def BAL_REQ_STAT_STATE : Fld := ⟨R.BAL_REQ_STAT, 0, 2⟩
def BAL_RUN_MAX : Fld := ⟨R.BAL_RUN, 16, 16⟩
def BAL_RUN_LAST : Fld := ⟨R.BAL_RUN, 0, 16⟩
def BAL_STKs_CFG_EN (s : Nat) : Fld := ⟨R.BAL_STKs_CFG s, 31, 1⟩
def BAL_STKs_CFG_N_MIN (s : Nat) : Fld := ⟨R.BAL_STKs_CFG s, 16, 6⟩
def BAL_STKs_CFG_N_REF (s : Nat) : Fld := ⟨R.BAL_STKs_CFG s, 8, 6⟩
def BAL_STKs_SRC_DSLOT (s : Nat) : Fld := ⟨R.BAL_STKs_SRC s, 20, 10⟩
def BAL_STKs_SRC_PSLOT (s : Nat) : Fld := ⟨R.BAL_STKs_SRC s, 10, 10⟩
def BAL_STKs_SRC_MSLOT (s : Nat) : Fld := ⟨R.BAL_STKs_SRC s, 0, 10⟩
def BAL_STKs_SLEW_DAB_SLEW (s : Nat) : Fld := ⟨R.BAL_STKs_SLEW s, 16, 16⟩
def BAL_STKs_SLEW_PH_SLEW (s : Nat) : Fld := ⟨R.BAL_STKs_SLEW s, 0, 16⟩
def BAL_STKs_STAT_RESPACE (s : Nat) : Fld := ⟨R.BAL_STKs_STAT s, 31, 1⟩
def BAL_STKs_STAT_TRIM_SAT (s : Nat) : Fld := ⟨R.BAL_STKs_STAT s, 30, 1⟩
def BAL_STKs_STAT_SIGMA (s : Nat) : Fld := ⟨R.BAL_STKs_STAT s, 29, 1⟩
def BAL_STKs_STAT_LOWE (s : Nat) : Fld := ⟨R.BAL_STKs_STAT s, 28, 1⟩
def BAL_STKs_STAT_N_RK (s : Nat) : Fld := ⟨R.BAL_STKs_STAT s, 16, 6⟩
def BAL_STKs_STAT_N_ACT (s : Nat) : Fld := ⟨R.BAL_STKs_STAT s, 8, 6⟩
def BAL_STKs_STAT_N_BYP (s : Nat) : Fld := ⟨R.BAL_STKs_STAT s, 0, 6⟩
def BAL_STKs_VDC_ITEM_ITEM (s : Nat) : Fld := ⟨R.BAL_STKs_VDC_ITEM s, 0, 16⟩
def BAL_STKs_CELLi_CFG_DPH0 (s : Nat) (i : Nat) : Fld := ⟨R.BAL_STKs_CELLi_CFG s i, 18, 14⟩
def BAL_STKs_CELLi_CFG_SHARE (s : Nat) (i : Nat) : Fld := ⟨R.BAL_STKs_CELLi_CFG s i, 16, 2⟩
def BAL_STKs_CELLi_CFG_SEC_POS (s : Nat) (i : Nat) : Fld := ⟨R.BAL_STKs_CELLi_CFG s i, 8, 8⟩
def BAL_STKs_CELLi_CFG_POS (s : Nat) (i : Nat) : Fld := ⟨R.BAL_STKs_CELLi_CFG s i, 0, 8⟩
def BAL_STKs_CELLi_STAT_STATE (s : Nat) (i : Nat) : Fld := ⟨R.BAL_STKs_CELLi_STAT s i, 28, 4⟩
def BAL_STKs_CELLi_STAT_REASON (s : Nat) (i : Nat) : Fld := ⟨R.BAL_STKs_CELLi_STAT s i, 24, 4⟩
def BAL_STKs_CELLi_STAT_RANK (s : Nat) (i : Nat) : Fld := ⟨R.BAL_STKs_CELLi_STAT s i, 16, 8⟩
def BAL_STKs_CELLi_STAT_MISS (s : Nat) (i : Nat) : Fld := ⟨R.BAL_STKs_CELLi_STAT s i, 0, 8⟩
def BAL_MBR_CTRL_EN : Fld := ⟨R.BAL_MBR_CTRL, 0, 1⟩
def PWM_STAT_TB : Fld := ⟨R.PWM_STAT, 8, 3⟩
def PWM_STAT_REARM_REF : Fld := ⟨R.PWM_STAT, 2, 1⟩
def PWM_STAT_TBLOSS : Fld := ⟨R.PWM_STAT, 1, 1⟩
def PWM_STAT_HALT : Fld := ⟨R.PWM_STAT, 0, 1⟩
def PWM_CMD_REARM : Fld := ⟨R.PWM_CMD, 0, 1⟩
def PWM_CMD_CNT_CLR : Fld := ⟨R.PWM_CMD, 1, 1⟩
def PWM_GRP_CLR_GROUPS : Fld := ⟨R.PWM_GRP_CLR, 0, 8⟩
def PWM_GRP_STAT_INACT : Fld := ⟨R.PWM_GRP_STAT, 8, 8⟩
def PWM_GRP_STAT_TRIPPED : Fld := ⟨R.PWM_GRP_STAT, 0, 8⟩
def PWM_TRP_LVL_LVL : Fld := ⟨R.PWM_TRP_LVL, 0, 8⟩
def PWM_TRP_LATCH_LATCH : Fld := ⟨R.PWM_TRP_LATCH, 0, 8⟩
def PWM_CLR_LOG_REFUSALS : Fld := ⟨R.PWM_CLR_LOG, 16, 16⟩
def PWM_CLR_LOG_INPUTS : Fld := ⟨R.PWM_CLR_LOG, 8, 8⟩
def PWM_CLR_LOG_GROUPS : Fld := ⟨R.PWM_CLR_LOG, 0, 8⟩
def PWM_GRPg_LEGS_EN (g : Nat) : Fld := ⟨R.PWM_GRPg_LEGS g, 31, 1⟩
def PWM_GRPg_LEGS_LEGS (g : Nat) : Fld := ⟨R.PWM_GRPg_LEGS g, 0, 6⟩
def PWM_TRPk_CFG_EN (k : Nat) : Fld := ⟨R.PWM_TRPk_CFG k, 31, 1⟩
def PWM_TRPk_CFG_POL (k : Nat) : Fld := ⟨R.PWM_TRPk_CFG k, 30, 1⟩
def PWM_TRPk_CFG_GROUPS (k : Nat) : Fld := ⟨R.PWM_TRPk_CFG k, 16, 8⟩
def PWM_TRPk_CFG_FILT (k : Nat) : Fld := ⟨R.PWM_TRPk_CFG k, 8, 8⟩
def PWM_TRPk_CFG_BLK_LCH (k : Nat) : Fld := ⟨R.PWM_TRPk_CFG k, 4, 3⟩
def PWM_TRPk_CFG_BLK_EN (k : Nat) : Fld := ⟨R.PWM_TRPk_CFG k, 3, 1⟩
def PWM_DTSk_TBb_DT_LH (k : Nat) (b : Nat) : Fld := ⟨R.PWM_DTSk_TBb k b, 16, 16⟩
def PWM_DTSk_TBb_DT_HL (k : Nat) (b : Nat) : Fld := ⟨R.PWM_DTSk_TBb k b, 0, 16⟩
def PWM_LCHn_CFG_EN (n : Nat) : Fld := ⟨R.PWM_LCHn_CFG n, 31, 1⟩
def PWM_LCHn_CFG_OUTM (n : Nat) : Fld := ⟨R.PWM_LCHn_CFG n, 29, 2⟩
def PWM_LCHn_CFG_ALIGN (n : Nat) : Fld := ⟨R.PWM_LCHn_CFG n, 27, 2⟩
def PWM_LCHn_CFG_RLD_MID (n : Nat) : Fld := ⟨R.PWM_LCHn_CFG n, 26, 1⟩
def PWM_LCHn_CFG_DSRC (n : Nat) : Fld := ⟨R.PWM_LCHn_CFG n, 25, 1⟩
def PWM_LCHn_CFG_PSRC (n : Nat) : Fld := ⟨R.PWM_LCHn_CFG n, 24, 1⟩
def PWM_LCHn_CFG_PB (n : Nat) : Fld := ⟨R.PWM_LCHn_CFG n, 23, 1⟩
def PWM_LCHn_CFG_BAL (n : Nat) : Fld := ⟨R.PWM_LCHn_CFG n, 22, 1⟩
def PWM_LCHn_CFG_DTS (n : Nat) : Fld := ⟨R.PWM_LCHn_CFG n, 19, 3⟩
def PWM_LCHn_CFG_SYNC_SH (n : Nat) : Fld := ⟨R.PWM_LCHn_CFG n, 15, 4⟩
def PWM_LCHn_CTRL_BYP_OPEN (n : Nat) : Fld := ⟨R.PWM_LCHn_CTRL n, 2, 1⟩
def PWM_LCHn_CTRL_HOLD (n : Nat) : Fld := ⟨R.PWM_LCHn_CTRL n, 1, 1⟩
def PWM_LCHn_CTRL_RUN (n : Nat) : Fld := ⟨R.PWM_LCHn_CTRL n, 0, 1⟩
def PWM_LCHn_MINP_MINP (n : Nat) : Fld := ⟨R.PWM_LCHn_MINP n, 0, 16⟩
def PWM_LCHn_STAT_LEG_STATE (n : Nat) : Fld := ⟨R.PWM_LCHn_STAT n, 29, 3⟩
def PWM_LCHn_STAT_RESYNC (n : Nat) : Fld := ⟨R.PWM_LCHn_STAT n, 28, 1⟩
def PWM_LCHn_STAT_NONSYNC (n : Nat) : Fld := ⟨R.PWM_LCHn_STAT n, 27, 1⟩
def PWM_LCHn_STAT_DEFER (n : Nat) : Fld := ⟨R.PWM_LCHn_STAT n, 26, 1⟩
def PWM_LCHn_STAT_MINP (n : Nat) : Fld := ⟨R.PWM_LCHn_STAT n, 25, 1⟩
def PWM_LCHn_STAT_PER_ERR (n : Nat) : Fld := ⟨R.PWM_LCHn_STAT n, 24, 1⟩
def PWM_LCHn_STAT_TRIP_DT (n : Nat) : Fld := ⟨R.PWM_LCHn_STAT n, 23, 1⟩
def PWM_LCHn_STAT_ALWAYS (n : Nat) : Fld := ⟨R.PWM_LCHn_STAT n, 22, 1⟩
def PWM_LCHn_STAT_ZERO (n : Nat) : Fld := ⟨R.PWM_LCHn_STAT n, 21, 1⟩
def PWM_LCHn_STAT_FRAC_ERR (n : Nat) : Fld := ⟨R.PWM_LCHn_STAT n, 20, 1⟩
def PWM_LCHn_STAT_RESYNCS (n : Nat) : Fld := ⟨R.PWM_LCHn_STAT n, 0, 16⟩
def GD_CTRL_WIN : Fld := ⟨R.GD_CTRL, 16, 8⟩
def GD_CTRL_INJ_EN : Fld := ⟨R.GD_CTRL, 8, 1⟩
def GD_CTRL_INJ_PER : Fld := ⟨R.GD_CTRL, 0, 8⟩
def GD_SUPPLY_BS_UV : Fld := ⟨R.GD_SUPPLY, 16, 8⟩
def GD_SUPPLY_VDRV_UV : Fld := ⟨R.GD_SUPPLY, 8, 8⟩
def GD_SUPPLY_VNEG_UV : Fld := ⟨R.GD_SUPPLY, 0, 8⟩
def GD_STAT_VNEG_UV : Fld := ⟨R.GD_STAT, 17, 1⟩
def GD_STAT_VDRV_UV : Fld := ⟨R.GD_STAT, 16, 1⟩
def GD_STAT_L2 : Fld := ⟨R.GD_STAT, 8, 6⟩
def GD_STAT_HOLD : Fld := ⟨R.GD_STAT, 0, 6⟩
def GD_CMD_CNT_CLR : Fld := ⟨R.GD_CMD, 0, 1⟩
def GD_CMD_INJ_NOW : Fld := ⟨R.GD_CMD, 1, 1⟩
def GD_VDRV_VNEG : Fld := ⟨R.GD_VDRV, 16, 16⟩
def GD_VDRV_VDRV : Fld := ⟨R.GD_VDRV, 0, 16⟩
def GD_LEGn_CFG_EN (n : Nat) : Fld := ⟨R.GD_LEGn_CFG n, 31, 1⟩
def GD_LEGn_CFG_L1_TRIES (n : Nat) : Fld := ⟨R.GD_LEGn_CFG n, 28, 3⟩
def GD_LEGn_CFG_L2_TRIES (n : Nat) : Fld := ⟨R.GD_LEGn_CFG n, 25, 3⟩
def GD_LEGn_CFG_WAIT (n : Nat) : Fld := ⟨R.GD_LEGn_CFG n, 16, 9⟩
def GD_LEGn_CFG_DT_CHK (n : Nat) : Fld := ⟨R.GD_LEGn_CFG n, 8, 8⟩
def GD_LEGn_CFG_MCLMP (n : Nat) : Fld := ⟨R.GD_LEGn_CFG n, 7, 1⟩
def GD_LEGn_SC_LS_SC_EN (n : Nat) : Fld := ⟨R.GD_LEGn_SC_LS n, 31, 1⟩
def GD_LEGn_SC_LS_SOFT (n : Nat) : Fld := ⟨R.GD_LEGn_SC_LS n, 27, 4⟩
def GD_LEGn_SC_LS_BLANK (n : Nat) : Fld := ⟨R.GD_LEGn_SC_LS n, 21, 6⟩
def GD_LEGn_SC_LS_THR (n : Nat) : Fld := ⟨R.GD_LEGn_SC_LS n, 0, 9⟩
def GD_LEGn_SC_HS_SC_EN (n : Nat) : Fld := ⟨R.GD_LEGn_SC_HS n, 31, 1⟩
def GD_LEGn_SC_HS_SOFT (n : Nat) : Fld := ⟨R.GD_LEGn_SC_HS n, 27, 4⟩
def GD_LEGn_SC_HS_BLANK (n : Nat) : Fld := ⟨R.GD_LEGn_SC_HS n, 21, 6⟩
def GD_LEGn_SC_HS_THR (n : Nat) : Fld := ⟨R.GD_LEGn_SC_HS n, 0, 9⟩
def GD_LEGn_STR_STEPS (n : Nat) : Fld := ⟨R.GD_LEGn_STR n, 0, 20⟩
def GD_LEGn_STAT_LS_STATE (n : Nat) : Fld := ⟨R.GD_LEGn_STAT n, 29, 3⟩
def GD_LEGn_STAT_HS_STATE (n : Nat) : Fld := ⟨R.GD_LEGn_STAT n, 26, 3⟩
def GD_LEGn_STAT_L2_LATCH (n : Nat) : Fld := ⟨R.GD_LEGn_STAT n, 25, 1⟩
def GD_LEGn_STAT_L2_CAUSE (n : Nat) : Fld := ⟨R.GD_LEGn_STAT n, 22, 3⟩
def GD_LEGn_STAT_SC_LS (n : Nat) : Fld := ⟨R.GD_LEGn_STAT n, 15, 1⟩
def GD_LEGn_STAT_SC_HS (n : Nat) : Fld := ⟨R.GD_LEGn_STAT n, 14, 1⟩
def GD_LEGn_STAT_UV_BS (n : Nat) : Fld := ⟨R.GD_LEGn_STAT n, 13, 1⟩
def GD_LEGn_STAT_UV_VDRV (n : Nat) : Fld := ⟨R.GD_LEGn_STAT n, 12, 1⟩
def GD_LEGn_STAT_UV_VNEG (n : Nat) : Fld := ⟨R.GD_LEGn_STAT n, 11, 1⟩
def GD_LEGn_STAT_INTLK (n : Nat) : Fld := ⟨R.GD_LEGn_STAT n, 10, 1⟩
def GD_LEGn_STAT_DTV (n : Nat) : Fld := ⟨R.GD_LEGn_STAT n, 9, 1⟩
def GD_LEGn_STAT_SHOOT (n : Nat) : Fld := ⟨R.GD_LEGn_STAT n, 8, 1⟩
def GD_LEGn_STAT_ESC (n : Nat) : Fld := ⟨R.GD_LEGn_STAT n, 7, 1⟩
def GD_LEGn_STAT_INJ_FAIL (n : Nat) : Fld := ⟨R.GD_LEGn_STAT n, 6, 1⟩
def GD_LEGn_STAT_BS_TMO (n : Nat) : Fld := ⟨R.GD_LEGn_STAT n, 5, 1⟩
def GD_LEGn_CNT_L1_LS (n : Nat) : Fld := ⟨R.GD_LEGn_CNT n, 24, 8⟩
def GD_LEGn_CNT_L1_HS (n : Nat) : Fld := ⟨R.GD_LEGn_CNT n, 16, 8⟩
def GD_LEGn_CNT_L2 (n : Nat) : Fld := ⟨R.GD_LEGn_CNT n, 8, 8⟩
def GD_LEGn_CNT_ESC (n : Nat) : Fld := ⟨R.GD_LEGn_CNT n, 0, 8⟩
def GD_LEGn_VBS_VALID (n : Nat) : Fld := ⟨R.GD_LEGn_VBS n, 31, 1⟩
def GD_LEGn_VBS_MV (n : Nat) : Fld := ⟨R.GD_LEGn_VBS n, 0, 16⟩
def ADC_CFG_EN1 : Fld := ⟨R.ADC_CFG, 31, 1⟩
def ADC_CFG_EN0 : Fld := ⟨R.ADC_CFG, 30, 1⟩
def ADC_CFG_RECOV1 : Fld := ⟨R.ADC_CFG, 17, 1⟩
def ADC_CFG_RECOV0 : Fld := ⟨R.ADC_CFG, 16, 1⟩
def ADC_CFG_REFCHK_PER : Fld := ⟨R.ADC_CFG, 8, 8⟩
def ADC_CFG_REF_TOL : Fld := ⟨R.ADC_CFG, 0, 8⟩
def ADC_CTRL_LP1 : Fld := ⟨R.ADC_CTRL, 1, 1⟩
def ADC_CTRL_LP0 : Fld := ⟨R.ADC_CTRL, 0, 1⟩
def ADC_STAT_TB : Fld := ⟨R.ADC_STAT, 24, 3⟩
def ADC_STAT_LP1_ACT : Fld := ⟨R.ADC_STAT, 17, 1⟩
def ADC_STAT_LP0_ACT : Fld := ⟨R.ADC_STAT, 16, 1⟩
def ADC_STAT_LP_REF : Fld := ⟨R.ADC_STAT, 9, 1⟩
def ADC_STAT_CH_ERR : Fld := ⟨R.ADC_STAT, 8, 1⟩
def ADC_STAT_REFERR1 : Fld := ⟨R.ADC_STAT, 5, 1⟩
def ADC_STAT_REFERR0 : Fld := ⟨R.ADC_STAT, 4, 1⟩
def ADC_STAT_BUSY1 : Fld := ⟨R.ADC_STAT, 1, 1⟩
def ADC_STAT_BUSY0 : Fld := ⟨R.ADC_STAT, 0, 1⟩
def ADC_CMD_CNT_CLR : Fld := ⟨R.ADC_CMD, 0, 1⟩
def ADC_ACQ_ADD : Fld := ⟨R.ADC_ACQ, 0, 20⟩
def ADC_HK_ADC : Fld := ⟨R.ADC_HK, 24, 1⟩
def ADC_HK_OFS : Fld := ⟨R.ADC_HK, 0, 24⟩
def ADC_TRGm_CFG_EN (m : Nat) : Fld := ⟨R.ADC_TRGm_CFG m, 31, 1⟩
def ADC_TRGm_CFG_UP_EN (m : Nat) : Fld := ⟨R.ADC_TRGm_CFG m, 30, 1⟩
def ADC_TRGm_CFG_OVR_INF (m : Nat) : Fld := ⟨R.ADC_TRGm_CFG m, 29, 1⟩
def ADC_TRGm_CFG_TYPE (m : Nat) : Fld := ⟨R.ADC_TRGm_CFG m, 27, 2⟩
def ADC_TRGm_CFG_DIV_SH (m : Nat) : Fld := ⟨R.ADC_TRGm_CFG m, 24, 3⟩
def ADC_TRGm_CFG_PHASE (m : Nat) : Fld := ⟨R.ADC_TRGm_CFG m, 17, 7⟩
def ADC_TRGm_CFG_EVMASK (m : Nat) : Fld := ⟨R.ADC_TRGm_CFG m, 12, 4⟩
def ADC_TRGm_CFG_LCH (m : Nat) : Fld := ⟨R.ADC_TRGm_CFG m, 8, 3⟩
def ADC_TRGm_CH_CH (m : Nat) : Fld := ⟨R.ADC_TRGm_CH m, 0, 5⟩
def ADC_TRGm_DLY_DLY (m : Nat) : Fld := ⟨R.ADC_TRGm_DLY m, 0, 24⟩
def ADC_TRGm_ITEM_ITEM (m : Nat) : Fld := ⟨R.ADC_TRGm_ITEM m, 0, 16⟩
def ADC_TRGm_CNT_OVR (m : Nat) : Fld := ⟨R.ADC_TRGm_CNT m, 16, 16⟩
def ADC_TRGm_CNT_CONV (m : Nat) : Fld := ⟨R.ADC_TRGm_CNT m, 0, 16⟩
def ADC_RESm_RAW_SCN (m : Nat) : Fld := ⟨R.ADC_RESm_RAW m, 24, 8⟩
def ADC_RESm_RAW_VALID (m : Nat) : Fld := ⟨R.ADC_RESm_RAW m, 23, 1⟩
def ADC_RESm_RAW_LP (m : Nat) : Fld := ⟨R.ADC_RESm_RAW m, 22, 1⟩
def ADC_RESm_RAW_LATE (m : Nat) : Fld := ⟨R.ADC_RESm_RAW m, 21, 1⟩
def ADC_RESm_RAW_SHADOW (m : Nat) : Fld := ⟨R.ADC_RESm_RAW m, 20, 1⟩
def ADC_RESm_RAW_OVR_LO (m : Nat) : Fld := ⟨R.ADC_RESm_RAW m, 19, 1⟩
def ADC_RESm_RAW_OVR (m : Nat) : Fld := ⟨R.ADC_RESm_RAW m, 18, 1⟩
def ADC_RESm_RAW_CODE (m : Nat) : Fld := ⟨R.ADC_RESm_RAW m, 0, 16⟩
def ADC_RESm_SEAL_SEAL (m : Nat) : Fld := ⟨R.ADC_RESm_SEAL m, 16, 16⟩
def ADC_RESm_SEAL_FRAC (m : Nat) : Fld := ⟨R.ADC_RESm_SEAL m, 0, 16⟩
def MTR_CFG_EN : Fld := ⟨R.MTR_CFG, 31, 1⟩
def MTR_CFG_MODE : Fld := ⟨R.MTR_CFG, 30, 1⟩
def MTR_CFG_WIRING : Fld := ⟨R.MTR_CFG, 29, 1⟩
def MTR_CFG_NOM : Fld := ⟨R.MTR_CFG, 28, 1⟩
def MTR_CFG_INV : Fld := ⟨R.MTR_CFG, 27, 1⟩
def MTR_CFG_REF : Fld := ⟨R.MTR_CFG, 24, 3⟩
def MTR_CFG_VMIN : Fld := ⟨R.MTR_CFG, 16, 8⟩
def MTR_STAT_OVLD : Fld := ⟨R.MTR_STAT, 16, 8⟩
def MTR_STAT_ACC_ERR : Fld := ⟨R.MTR_STAT, 8, 1⟩
def MTR_STAT_REF_PH : Fld := ⟨R.MTR_STAT, 4, 2⟩
def MTR_STAT_LOCKED : Fld := ⟨R.MTR_STAT, 0, 1⟩
def MTR_SNAP_TAKE : Fld := ⟨R.MTR_SNAP, 0, 1⟩
def MTR_SNAP_SIGN : Fld := ⟨R.MTR_SNAP, 1, 1⟩
def MTR_SNAP_STAT_AUTO_DEF : Fld := ⟨R.MTR_SNAP_STAT, 3, 1⟩
def MTR_SNAP_STAT_SIGN_REF : Fld := ⟨R.MTR_SNAP_STAT, 2, 1⟩
def MTR_SNAP_STAT_SIG_DONE : Fld := ⟨R.MTR_SNAP_STAT, 1, 1⟩
def MTR_SNAP_STAT_SIG_BUSY : Fld := ⟨R.MTR_SNAP_STAT, 0, 1⟩
def MTR_AUTO_PERIOD : Fld := ⟨R.MTR_AUTO, 0, 16⟩
def MTR_CHn_CFG_EN (n : Nat) : Fld := ⟨R.MTR_CHn_CFG n, 31, 1⟩
def MTR_CHn_CFG_FUNC (n : Nat) : Fld := ⟨R.MTR_CHn_CFG n, 0, 4⟩
def MTR_PLSn_CFG_EN (n : Nat) : Fld := ⟨R.MTR_PLSn_CFG n, 31, 1⟩
def MTR_PLSn_CFG_POL (n : Nat) : Fld := ⟨R.MTR_PLSn_CFG n, 30, 1⟩
def MTR_PLSn_CFG_SRC (n : Nat) : Fld := ⟨R.MTR_PLSn_CFG n, 24, 6⟩
def MTR_PLSn_CFG_WIDTH (n : Nat) : Fld := ⟨R.MTR_PLSn_CFG n, 16, 8⟩
def MTR_PLSn_CFG_OVF (n : Nat) : Fld := ⟨R.MTR_PLSn_CFG n, 15, 1⟩
def MTR_PLSn_CFG_EXP (n : Nat) : Fld := ⟨R.MTR_PLSn_CFG n, 0, 4⟩
def MTR_DFCn_CFG_EN (n : Nat) : Fld := ⟨R.MTR_DFCn_CFG n, 31, 1⟩
def MTR_DFCn_CFG_POL (n : Nat) : Fld := ⟨R.MTR_DFCn_CFG n, 30, 1⟩
def MTR_DFCn_CFG_PH (n : Nat) : Fld := ⟨R.MTR_DFCn_CFG n, 28, 2⟩
def MTR_DFCn_CFG_QTY (n : Nat) : Fld := ⟨R.MTR_DFCn_CFG n, 26, 2⟩
def MTR_DFCn_CFG_OVF (n : Nat) : Fld := ⟨R.MTR_DFCn_CFG n, 25, 1⟩
def MTR_DFCn_CFG_WIDTH (n : Nat) : Fld := ⟨R.MTR_DFCn_CFG n, 0, 8⟩
def DPX_CFG_EN : Fld := ⟨R.DPX_CFG, 31, 1⟩
def DPX_CFG_JURY_CNT : Fld := ⟨R.DPX_CFG, 24, 4⟩
def DPX_CFG_RIDE : Fld := ⟨R.DPX_CFG, 16, 4⟩
def DPX_CFG_PROOF_CNT : Fld := ⟨R.DPX_CFG, 8, 8⟩
def DPX_CFG_NS32 : Fld := ⟨R.DPX_CFG, 0, 5⟩
def DPX_STAT_TIER : Fld := ⟨R.DPX_STAT, 24, 8⟩
def DPX_STAT_PRIM : Fld := ⟨R.DPX_STAT, 16, 8⟩
def DPX_STAT_ELIG : Fld := ⟨R.DPX_STAT, 15, 1⟩
def DPX_STAT_PROVEN : Fld := ⟨R.DPX_STAT, 14, 1⟩
def DPX_STAT_GLZ_OK : Fld := ⟨R.DPX_STAT, 13, 1⟩
def DPX_STAT_SWAP_PEND : Fld := ⟨R.DPX_STAT, 12, 1⟩
def DPX_STAT_RUN : Fld := ⟨R.DPX_STAT, 8, 4⟩
def DPX_STAT_STATE : Fld := ⟨R.DPX_STAT, 0, 3⟩
def DPX_JURY_J : Fld := ⟨R.DPX_JURY, 24, 8⟩
def DPX_JURY_S : Fld := ⟨R.DPX_JURY, 16, 8⟩
def DPX_JURY_H : Fld := ⟨R.DPX_JURY, 8, 8⟩
def DPX_CMD_SWAP : Fld := ⟨R.DPX_CMD, 0, 1⟩
def DPX_CMD_CANCEL : Fld := ⟨R.DPX_CMD, 1, 1⟩
def DPX_CMD_CNT_CLR : Fld := ⟨R.DPX_CMD, 2, 1⟩
def DPX_SWAP_STAT_ERR : Fld := ⟨R.DPX_SWAP_STAT, 4, 4⟩
def DPX_SWAP_STAT_STATE : Fld := ⟨R.DPX_SWAP_STAT, 0, 2⟩
def DPX_FO_STAT_TIER : Fld := ⟨R.DPX_FO_STAT, 24, 8⟩
def DPX_FO_STAT_PREV : Fld := ⟨R.DPX_FO_STAT, 16, 8⟩
def DPX_FO_STAT_CAUSE : Fld := ⟨R.DPX_FO_STAT, 0, 4⟩
def DPX_MBR_STAT_TIER : Fld := ⟨R.DPX_MBR_STAT, 24, 8⟩
def DPX_MBR_STAT_OBEY : Fld := ⟨R.DPX_MBR_STAT, 16, 8⟩
def DPX_MBR_STAT_HOLD : Fld := ⟨R.DPX_MBR_STAT, 8, 4⟩
def DPX_MBR_STAT_HELD : Fld := ⟨R.DPX_MBR_STAT, 0, 1⟩
def DPX_MBR_CNT_STALE_DN : Fld := ⟨R.DPX_MBR_CNT, 16, 16⟩
def DPX_MBR_CNT_HELD : Fld := ⟨R.DPX_MBR_CNT, 0, 16⟩
def SAF_CTRL_EN : Fld := ⟨R.SAF_CTRL, 31, 1⟩
def SAF_CTRL_STO : Fld := ⟨R.SAF_CTRL, 24, 4⟩
def SAF_CTRL_DW : Fld := ⟨R.SAF_CTRL, 0, 24⟩
def SAF_STAT_HSTATE : Fld := ⟨R.SAF_STAT, 8, 2⟩
def SAF_STAT_VAUX_UV : Fld := ⟨R.SAF_STAT, 7, 1⟩
def SAF_STAT_STO_LOSS : Fld := ⟨R.SAF_STAT, 6, 1⟩
def SAF_STAT_INIT : Fld := ⟨R.SAF_STAT, 5, 1⟩
def SAF_STAT_SO1_ON : Fld := ⟨R.SAF_STAT, 4, 1⟩
def SAF_STAT_SO0_ON : Fld := ⟨R.SAF_STAT, 3, 1⟩
def SAF_STAT_SOFLT : Fld := ⟨R.SAF_STAT, 2, 1⟩
def SAF_STAT_LOCAL_DEM : Fld := ⟨R.SAF_STAT, 1, 1⟩
def SAF_STAT_INH : Fld := ⟨R.SAF_STAT, 0, 1⟩
def SAF_TP_CFG_EN : Fld := ⟨R.SAF_TP_CFG, 31, 1⟩
def SAF_TP_CFG_TP_PER : Fld := ⟨R.SAF_TP_CFG, 16, 10⟩
def SAF_TP_CFG_TP_GAP : Fld := ⟨R.SAF_TP_CFG, 0, 5⟩
def SAF_CMD_CNT_CLR : Fld := ⟨R.SAF_CMD, 0, 1⟩
def SAF_IN_STAT_FAULT : Fld := ⟨R.SAF_IN_STAT, 24, 8⟩
def SAF_IN_STAT_DEM : Fld := ⟨R.SAF_IN_STAT, 16, 8⟩
def SAF_IN_STAT_B : Fld := ⟨R.SAF_IN_STAT, 8, 8⟩
def SAF_IN_STAT_A : Fld := ⟨R.SAF_IN_STAT, 0, 8⟩
def SAF_DEMAND_H1 : Fld := ⟨R.SAF_DEMAND, 16, 16⟩
def SAF_DEMAND_H0 : Fld := ⟨R.SAF_DEMAND, 0, 16⟩
def SAF_ACT_INH_SF : Fld := ⟨R.SAF_ACT_INH, 0, 16⟩
def SAF_ACT_SO0_SF : Fld := ⟨R.SAF_ACT_SO0, 0, 16⟩
def SAF_ACT_SO1_SF : Fld := ⟨R.SAF_ACT_SO1, 0, 16⟩
def SAF_SO_CFG_SO0_EN : Fld := ⟨R.SAF_SO_CFG, 31, 1⟩
def SAF_SO_CFG_SO1_EN : Fld := ⟨R.SAF_SO_CFG, 30, 1⟩
def SAF_SO_CFG_EDM_T : Fld := ⟨R.SAF_SO_CFG, 16, 8⟩
def SAF_SO_CFG_EDM1_EN : Fld := ⟨R.SAF_SO_CFG, 15, 1⟩
def SAF_SO_CFG_EDM1_IN : Fld := ⟨R.SAF_SO_CFG, 12, 3⟩
def SAF_SO_CFG_EDM0_EN : Fld := ⟨R.SAF_SO_CFG, 11, 1⟩
def SAF_SO_CFG_EDM0_IN : Fld := ⟨R.SAF_SO_CFG, 8, 3⟩
def SAF_SIn_CFG_EN (n : Nat) : Fld := ⟨R.SAF_SIn_CFG n, 31, 1⟩
def SAF_SIn_CFG_TYPE (n : Nat) : Fld := ⟨R.SAF_SIn_CFG n, 29, 2⟩
def SAF_SIn_CFG_TP_CHK (n : Nat) : Fld := ⟨R.SAF_SIn_CFG n, 28, 1⟩
def SAF_SIn_CFG_LINH (n : Nat) : Fld := ⟨R.SAF_SIn_CFG n, 27, 1⟩
def SAF_SIn_CFG_LSO0 (n : Nat) : Fld := ⟨R.SAF_SIn_CFG n, 26, 1⟩
def SAF_SIn_CFG_LSO1 (n : Nat) : Fld := ⟨R.SAF_SIn_CFG n, 25, 1⟩
def SAF_SIn_CFG_DISC (n : Nat) : Fld := ⟨R.SAF_SIn_CFG n, 16, 8⟩
def SAF_SIn_CFG_FILT (n : Nat) : Fld := ⟨R.SAF_SIn_CFG n, 0, 8⟩
def SAF_SFk_CFG_EN (k : Nat) : Fld := ⟨R.SAF_SFk_CFG k, 31, 1⟩
def SAF_SFk_CFG_LATCH (k : Nat) : Fld := ⟨R.SAF_SFk_CFG k, 30, 1⟩
def SAF_SFk_CFG_RST_POS (k : Nat) : Fld := ⟨R.SAF_SFk_CFG k, 8, 8⟩
def SAF_SFk_CFG_RST_IN (k : Nat) : Fld := ⟨R.SAF_SFk_CFG k, 0, 3⟩
def SAF_POSp_MAPn_LOSS (p : Nat) (n : Nat) : Fld := ⟨R.SAF_POSp_MAPn p n, 16, 1⟩
def SAF_POSp_MAPn_SF (p : Nat) (n : Nat) : Fld := ⟨R.SAF_POSp_MAPn p n, 0, 16⟩
def FLT_CFG_FLTO_CLS : Fld := ⟨R.FLT_CFG, 24, 3⟩
def FLT_CFG_IRQ_CLS : Fld := ⟨R.FLT_CFG, 16, 3⟩
def FLT_CFG_REP_CLS : Fld := ⟨R.FLT_CFG, 8, 3⟩
def FLT_CFG_MERGE_US : Fld := ⟨R.FLT_CFG, 0, 8⟩
def FLT_STAT_LOCKOUT : Fld := ⟨R.FLT_STAT, 31, 1⟩
def FLT_STAT_TRIP : Fld := ⟨R.FLT_STAT, 30, 1⟩
def FLT_STAT_NODE_SAFE : Fld := ⟨R.FLT_STAT, 29, 1⟩
def FLT_STAT_TRIP_REQ : Fld := ⟨R.FLT_STAT, 28, 1⟩
def FLT_STAT_LOST_HOLD : Fld := ⟨R.FLT_STAT, 27, 1⟩
def FLT_STAT_MAXCLS : Fld := ⟨R.FLT_STAT, 24, 3⟩
def FLT_STAT_SHARE_SAFE : Fld := ⟨R.FLT_STAT, 16, 3⟩
def FLT_STAT_FLTI : Fld := ⟨R.FLT_STAT, 14, 2⟩
def FLT_STAT_FLTO : Fld := ⟨R.FLT_STAT, 13, 1⟩
def FLT_STAT_CLR_REF : Fld := ⟨R.FLT_STAT, 12, 1⟩
def FLT_STAT_ACTIVE : Fld := ⟨R.FLT_STAT, 0, 8⟩
def FLT_CLR_STN : Fld := ⟨R.FLT_CLR, 31, 1⟩
def FLT_CLR_REC : Fld := ⟨R.FLT_CLR, 0, 16⟩
def FLT_CLR_STAT_ERR : Fld := ⟨R.FLT_CLR_STAT, 28, 4⟩
def FLT_CLR_STAT_STATE : Fld := ⟨R.FLT_CLR_STAT, 0, 2⟩
def FLT_FLTI_EN : Fld := ⟨R.FLT_FLTI, 31, 1⟩
def FLT_FLTI_CLS : Fld := ⟨R.FLT_FLTI, 28, 3⟩
def FLT_FLTI_FILT : Fld := ⟨R.FLT_FLTI, 8, 8⟩
def FLT_LOCK_LOCK_N : Fld := ⟨R.FLT_LOCK, 24, 4⟩
def FLT_LOCK_LOCK_WIN : Fld := ⟨R.FLT_LOCK, 0, 16⟩
def FLT_NEXT_NEXT : Fld := ⟨R.FLT_NEXT, 0, 16⟩
def FLT_STN_TRIP : Fld := ⟨R.FLT_STN, 0, 1⟩
def FLT_STN_CLEAR : Fld := ⟨R.FLT_STN, 1, 1⟩
def FLT_STN_C : Fld := ⟨R.FLT_STN, 16, 16⟩
def MEM_STAT_INIT_DONE : Fld := ⟨R.MEM_STAT, 0, 1⟩
def MEM_BKT_OVF_OVF : Fld := ⟨R.MEM_BKT_OVF, 0, 8⟩
def MEM_CMD_CNT_CLR : Fld := ⟨R.MEM_CMD, 0, 1⟩
def MEM_BKTr_CFG_LEAK (r : Nat) : Fld := ⟨R.MEM_BKTr_CFG r, 8, 16⟩
def MEM_BKTr_CFG_CAP (r : Nat) : Fld := ⟨R.MEM_BKTr_CFG r, 0, 8⟩
def MEM_BKTr_STAT_OVFS (r : Nat) : Fld := ⟨R.MEM_BKTr_STAT r, 16, 8⟩
def MEM_BKTr_STAT_LEVEL (r : Nat) : Fld := ⟨R.MEM_BKTr_STAT r, 0, 8⟩
def MEM_SCRUB_CTRL_GO : Fld := ⟨R.MEM_SCRUB_CTRL, 31, 1⟩
def MEM_SCRUB_CTRL_ABORT : Fld := ⟨R.MEM_SCRUB_CTRL, 30, 1⟩
def MEM_SCRUB_CTRL_RATE : Fld := ⟨R.MEM_SCRUB_CTRL, 0, 8⟩
def MEM_SCRUB_STAT_ERR : Fld := ⟨R.MEM_SCRUB_STAT, 4, 4⟩
def MEM_SCRUB_STAT_STATE : Fld := ⟨R.MEM_SCRUB_STAT, 0, 2⟩
def MEM_REPAIR_ADDR : Fld := ⟨R.MEM_REPAIR, 3, 29⟩
def MEM_REPAIR_GO : Fld := ⟨R.MEM_REPAIR, 0, 1⟩
def MEM_REPAIR_STAT_ERR : Fld := ⟨R.MEM_REPAIR_STAT, 4, 4⟩
def MEM_REPAIR_STAT_STATE : Fld := ⟨R.MEM_REPAIR_STAT, 0, 2⟩
def THM_STAT_FAIL : Fld := ⟨R.THM_STAT, 16, 14⟩
def THM_STAT_HOT : Fld := ⟨R.THM_STAT, 0, 14⟩
def THM_LOG_STAT_DROPS : Fld := ⟨R.THM_LOG_STAT, 24, 8⟩
def THM_LOG_STAT_PEND : Fld := ⟨R.THM_LOG_STAT, 16, 8⟩
def THM_LOG_STAT_NEXT : Fld := ⟨R.THM_LOG_STAT, 8, 8⟩
def THM_LOG_STAT_RDY : Fld := ⟨R.THM_LOG_STAT, 1, 1⟩
def THM_LOG_STAT_BUSY : Fld := ⟨R.THM_LOG_STAT, 0, 1⟩
def THM_LOG_SEL_SEL : Fld := ⟨R.THM_LOG_SEL, 0, 8⟩
def THM_Sn_CFG_EN (s : Nat) : Fld := ⟨R.THM_Sn_CFG s, 31, 1⟩
def THM_Sn_CFG_CH (s : Nat) : Fld := ⟨R.THM_Sn_CFG s, 0, 4⟩
def THM_Sn_THR_SHUT (s : Nat) : Fld := ⟨R.THM_Sn_THR s, 24, 8⟩
def THM_Sn_THR_THR (s : Nat) : Fld := ⟨R.THM_Sn_THR s, 16, 8⟩
def THM_Sn_THR_WARN (s : Nat) : Fld := ⟨R.THM_Sn_THR s, 8, 8⟩
def THM_Sn_THR_HYST (s : Nat) : Fld := ⟨R.THM_Sn_THR s, 0, 8⟩
def THM_Sn_STAT_BAND (s : Nat) : Fld := ⟨R.THM_Sn_STAT s, 29, 3⟩
def THM_Sn_STAT_STATE (s : Nat) : Fld := ⟨R.THM_Sn_STAT s, 27, 2⟩
def THM_Sn_STAT_FAIL (s : Nat) : Fld := ⟨R.THM_Sn_STAT s, 26, 1⟩
def THM_Sn_STAT_VALID (s : Nat) : Fld := ⟨R.THM_Sn_STAT s, 25, 1⟩
def THM_Sn_STAT_T (s : Nat) : Fld := ⟨R.THM_Sn_STAT s, 0, 16⟩
def SUP_CTRL_EN : Fld := ⟨R.SUP_CTRL, 31, 1⟩
def SUP_CTRL_SPEED : Fld := ⟨R.SUP_CTRL, 30, 1⟩
def SUP_CTRL_AN : Fld := ⟨R.SUP_CTRL, 29, 1⟩
def SUP_CTRL_ECHO : Fld := ⟨R.SUP_CTRL, 28, 1⟩
def SUP_STAT_LINK : Fld := ⟨R.SUP_STAT, 31, 1⟩
def SUP_STAT_SPEED : Fld := ⟨R.SUP_STAT, 30, 1⟩
def SUP_STAT_PRIMARY : Fld := ⟨R.SUP_STAT, 29, 1⟩
def SUP_STAT_SESS : Fld := ⟨R.SUP_STAT, 8, 3⟩
def SUP_CMD_CNT_CLR : Fld := ⟨R.SUP_CMD, 0, 1⟩
def SUP_CMD_CLOSE_ALL : Fld := ⟨R.SUP_CMD, 1, 1⟩
def SUP_IP4_CFG_EN : Fld := ⟨R.SUP_IP4_CFG, 31, 1⟩
def SUP_IP4_CFG_LEN : Fld := ⟨R.SUP_IP4_CFG, 0, 6⟩
def SUP_IP6_CFG_EN : Fld := ⟨R.SUP_IP6_CFG, 31, 1⟩
def SUP_IP6_CFG_LEN : Fld := ⟨R.SUP_IP6_CFG, 0, 8⟩
def SUP_UDP_PORT : Fld := ⟨R.SUP_UDP, 0, 16⟩
def SUP_VLAN_EN : Fld := ⟨R.SUP_VLAN, 31, 1⟩
def SUP_VLAN_PCP : Fld := ⟨R.SUP_VLAN, 12, 3⟩
def SUP_VLAN_VID : Fld := ⟨R.SUP_VLAN, 0, 12⟩
def SUP_SESS_CFG_ENC_REQ : Fld := ⟨R.SUP_SESS_CFG, 31, 1⟩
def SUP_SESS_CFG_IDLE : Fld := ⟨R.SUP_SESS_CFG, 8, 8⟩
def SUP_SESS_CFG_MAX : Fld := ⟨R.SUP_SESS_CFG, 0, 3⟩
def SUP_REP_CFG_RATE : Fld := ⟨R.SUP_REP_CFG, 20, 12⟩
def SUP_REP_CFG_BURST : Fld := ⟨R.SUP_REP_CFG, 8, 12⟩
def SUP_REP_CFG_HLTH_DIV : Fld := ⟨R.SUP_REP_CFG, 0, 8⟩
def SUP_REP_STAT_DEPTH : Fld := ⟨R.SUP_REP_STAT, 0, 9⟩
def SUP_REP_DROP_P2 : Fld := ⟨R.SUP_REP_DROP, 16, 8⟩
def SUP_REP_DROP_P1 : Fld := ⟨R.SUP_REP_DROP, 8, 8⟩
def SUP_REP_DROP_P0 : Fld := ⟨R.SUP_REP_DROP, 0, 8⟩
def SUP_SESSn_STAT_OPEN (n : Nat) : Fld := ⟨R.SUP_SESSn_STAT n, 31, 1⟩
def SUP_SESSn_STAT_ENC (n : Nat) : Fld := ⟨R.SUP_SESSn_STAT n, 30, 1⟩
def SUP_SESSn_STAT_HALF (n : Nat) : Fld := ⟨R.SUP_SESSn_STAT n, 29, 1⟩
def SUP_SESSn_STAT_ROLE (n : Nat) : Fld := ⟨R.SUP_SESSn_STAT n, 27, 2⟩
def SUP_SESSn_STAT_KEY (n : Nat) : Fld := ⟨R.SUP_SESSn_STAT n, 24, 3⟩
def SUP_SESSn_STAT_SID (n : Nat) : Fld := ⟨R.SUP_SESSn_STAT n, 0, 16⟩
def SYS_VIOL_LAST_W : Fld := ⟨R.SYS_VIOL_LAST, 31, 1⟩
def SYS_VIOL_LAST_MASTER : Fld := ⟨R.SYS_VIOL_LAST, 28, 3⟩
def SYS_VIOL_LAST_SPACE : Fld := ⟨R.SYS_VIOL_LAST, 26, 2⟩
def SYS_VIOL_LAST_DBG : Fld := ⟨R.SYS_VIOL_LAST, 25, 1⟩
def SYS_VIOL_LAST_OFS : Fld := ⟨R.SYS_VIOL_LAST, 0, 24⟩
def MBX_CFG_TMO : Fld := ⟨R.MBX_CFG, 0, 16⟩
def MBX_IRQ_MP_EMPTY : Fld := ⟨R.MBX_IRQ_MP, 16, 16⟩
def MBX_IRQ_MP_FULL : Fld := ⟨R.MBX_IRQ_MP, 0, 16⟩
def MBX_CMD_CNT_CLR : Fld := ⟨R.MBX_CMD, 0, 1⟩
def MBX_CHn_CTRL_GO (n : Nat) : Fld := ⟨R.MBX_CHn_CTRL n, 31, 1⟩
def MBX_CHn_CTRL_TAKE (n : Nat) : Fld := ⟨R.MBX_CHn_CTRL n, 30, 1⟩
def MBX_CHn_CTRL_LEN (n : Nat) : Fld := ⟨R.MBX_CHn_CTRL n, 0, 5⟩
def MBX_CHn_STAT_PERRS (n : Nat) : Fld := ⟨R.MBX_CHn_STAT n, 24, 8⟩
def MBX_CHn_STAT_NACK (n : Nat) : Fld := ⟨R.MBX_CHn_STAT n, 18, 1⟩
def MBX_CHn_STAT_TMO (n : Nat) : Fld := ⟨R.MBX_CHn_STAT n, 17, 1⟩
def MBX_CHn_STAT_PERR (n : Nat) : Fld := ⟨R.MBX_CHn_STAT n, 16, 1⟩
def MBX_CHn_STAT_LEN (n : Nat) : Fld := ⟨R.MBX_CHn_STAT n, 8, 5⟩
def MBX_CHn_STAT_STATE (n : Nat) : Fld := ⟨R.MBX_CHn_STAT n, 0, 1⟩
def MBX_CHn_BIND_EN (n : Nat) : Fld := ⟨R.MBX_CHn_BIND n, 31, 1⟩
def MBX_CHn_BIND_SND (n : Nat) : Fld := ⟨R.MBX_CHn_BIND n, 24, 3⟩
def MBX_CHn_BIND_RCV (n : Nat) : Fld := ⟨R.MBX_CHn_BIND n, 20, 3⟩
def MBX_CHn_BIND_PCH (n : Nat) : Fld := ⟨R.MBX_CHn_BIND n, 16, 4⟩
def MBX_CHn_BIND_PEER (n : Nat) : Fld := ⟨R.MBX_CHn_BIND n, 8, 8⟩
def FLT_RECr_W1_LOGGED (r : Nat) : Fld := ⟨R.FLT_RECr_Ww r 1, 14, 1⟩
def FLT_RECr_W1_SENT (r : Nat) : Fld := ⟨R.FLT_RECr_Ww r 1, 13, 1⟩
def FLT_RECr_W1_BROKEN (r : Nat) : Fld := ⟨R.FLT_RECr_Ww r 1, 12, 1⟩
def FLT_RECr_W1_CLEARED (r : Nat) : Fld := ⟨R.FLT_RECr_Ww r 1, 11, 1⟩
def FLT_RECr_W1_ENDED (r : Nat) : Fld := ⟨R.FLT_RECr_Ww r 1, 10, 1⟩
def FLT_RECr_W1_ACTIVE (r : Nat) : Fld := ⟨R.FLT_RECr_Ww r 1, 9, 1⟩
def FLT_RECr_W1_OPEN (r : Nat) : Fld := ⟨R.FLT_RECr_Ww r 1, 8, 1⟩
def FLT_RECr_W1_CLASS (r : Nat) : Fld := ⟨R.FLT_RECr_Ww r 1, 0, 3⟩
def FLT_RECr_W0_NUM (r : Nat) : Fld := ⟨R.FLT_RECr_Ww r 0, 16, 16⟩
def FLT_RECr_W0_CODE (r : Nat) : Fld := ⟨R.FLT_RECr_Ww r 0, 0, 16⟩
def FLT_RECr_W6_LAST (r : Nat) : Fld := ⟨R.FLT_RECr_Ww r 6, 16, 16⟩
def FLT_RECr_W6_COUNT (r : Nat) : Fld := ⟨R.FLT_RECr_Ww r 6, 0, 16⟩
def FLT_LEDe_W2_STATE (e : Nat) : Fld := ⟨R.FLT_LEDe_Ww e 2, 0, 3⟩
def FLT_LEDe_W2_CAUSE (e : Nat) : Fld := ⟨R.FLT_LEDe_Ww e 2, 4, 4⟩
def FLT_LEDe_W2_DIST (e : Nat) : Fld := ⟨R.FLT_LEDe_Ww e 2, 8, 1⟩
def FLT_LEDe_W2_COUNT (e : Nat) : Fld := ⟨R.FLT_LEDe_Ww e 2, 16, 9⟩
def FLT_LEDe_W11_RECVD (e : Nat) : Fld := ⟨R.FLT_LEDe_Ww e 11, 0, 9⟩
def FLT_LEDe_W13_FIRST (e : Nat) : Fld := ⟨R.FLT_LEDe_Ww e 13, 0, 9⟩
def FLT_LEDe_W13_WHY (e : Nat) : Fld := ⟨R.FLT_LEDe_Ww e 13, 12, 4⟩
end F

end Sys2Proof.Machine
end

