-- ==== Sys2Proof/Machine/RegTable.lean ====
section
/-! DEFINITION. Machine/RegTable.lean: one row per family of registers of the index (R569): its addresses, its reset
value (R568 and the register tables), and which of its bits the access codes of R10 make RL, RW and W1C. W1S and WO
bits do nothing by themselves; the operation of their register acts on them (Machine/Access.lean). A reset value the
tables give as `fuses`, `straps` or `vault` stands as 0 here (log entry 3). -/
namespace Sys2Proof.Machine

/-- One family of registers: addresses base + s1·i + s2·j for i < n1, j < n2. -/
structure RegRow where
  base : Nat
  s1 : Nat
  n1 : Nat
  s2 : Nat
  n2 : Nat
  rst : Nat
  rl : Nat
  rw : Nat
  w1c : Nat
  deriving DecidableEq, Repr

/-- Does the row hold a register at address `a`? -/
def RegRow.hit (r : RegRow) (a : Nat) : Bool :=
  Nat.ble r.base a &&
    (let d := a - r.base
     Nat.blt (d / r.s1) r.n1 && (d % r.s1) % r.s2 == 0 && Nat.blt ((d % r.s1) / r.s2) r.n2)

def rowsSYS_0 : List RegRow := [
  ⟨0x40000000, 0x100000000, 1, 0x4, 1, 0x7682000, 0x0, 0x0, 0x0⟩,
  ⟨0x40000004, 0x100000000, 1, 0x4, 1, 0x0, 0x0, 0x0, 0x0⟩,
  ⟨0x40000008, 0x100000000, 1, 0x4, 1, 0x5007000, 0x0, 0x0, 0x0⟩,
  ⟨0x4000000C, 0x100000000, 1, 0x4, 1, 0x9FFFFFF0, 0x0, 0x0, 0x0⟩,
  ⟨0x40000010, 0x100000000, 1, 0x4, 3, 0xFFFF, 0x0, 0x0, 0x0⟩,
  ⟨0x40000020, 0x100000000, 1, 0x4, 1, 0x1, 0x0, 0x0, 0x1F⟩,
  ⟨0x40000024, 0x100000000, 1, 0x4, 1, 0x0, 0x0, 0x0, 0x0⟩,
  ⟨0x40000030, 0x100000000, 1, 0x4, 1, 0x0, 0x0, 0x0, 0x0⟩,
  ⟨0x40000034, 0x100000000, 1, 0x4, 1, 0x0, 0x0, 0x0, 0x0⟩,
  ⟨0x40000100, 0x100000000, 1, 0x4, 1, 0x0, 0x0, 0x0, 0x0⟩,
  ⟨0x40000104, 0x100000000, 1, 0x4, 1, 0x0, 0x0, 0x0, 0x0⟩,
  ⟨0x40000108, 0x100000000, 1, 0x4, 1, 0x0, 0x0, 0x0, 0x7⟩]
/-- The registers of the SYS window. -/
def rowsSYS : List RegRow :=
  rowsSYS_0

def rowsCLK_0 : List RegRow := [
  ⟨0x40010000, 0x100000000, 1, 0x4, 1, 0x0, 0x7, 0x0, 0x0⟩,
  ⟨0x40010004, 0x100000000, 1, 0x4, 1, 0x0, 0x0, 0x0, 0x0⟩,
  ⟨0x40010008, 0x100000000, 1, 0x4, 1, 0xC1C40000, 0xFFFF003F, 0x0, 0x0⟩,
  ⟨0x4001000C, 0x100000000, 1, 0x4, 1, 0x0, 0xFFFF, 0x0, 0x0⟩,
  ⟨0x40010010, 0x100000000, 1, 0x4, 1, 0xA, 0xFF, 0x0, 0x0⟩,
  ⟨0x40010014, 0x100000000, 1, 0x4, 1, 0x64, 0x3FF, 0x0, 0x0⟩,
  ⟨0x40010020, 0x100000000, 1, 0x4, 4, 0x0, 0xC003FFFF, 0x0, 0x0⟩]
/-- The registers of the CLK window. -/
def rowsCLK : List RegRow :=
  rowsCLK_0

def rowsIMG_0 : List RegRow := [
  ⟨0x40020000, 0x100000000, 1, 0x4, 1, 0xF0000, 0x0, 0x0, 0x0⟩,
  ⟨0x40020004, 0x100000000, 1, 0x4, 1, 0x707, 0x0, 0x0, 0x0⟩,
  ⟨0x40020008, 0x100000000, 1, 0x4, 1, 0x0, 0x0, 0x0, 0x0⟩,
  ⟨0x4002000C, 0x100000000, 1, 0x4, 1, 0x0, 0x0, 0x0, 0x0⟩,
  ⟨0x40020010, 0x100000000, 1, 0x4, 1, 0x0, 0x0, 0x0, 0x0⟩,
  ⟨0x40020014, 0x100000000, 1, 0x4, 1, 0x0, 0x0, 0x0, 0x0⟩,
  ⟨0x40020018, 0x100000000, 1, 0x4, 1, 0xFF000000, 0x0, 0x0, 0x0⟩,
  ⟨0x4002001C, 0x100000000, 1, 0x4, 1, 0xFFFFFFFF, 0x0, 0x0, 0x0⟩,
  ⟨0x40020020, 0x100000000, 1, 0x4, 1, 0x0, 0x0, 0x0, 0x0⟩,
  ⟨0x40020024, 0x100000000, 1, 0x4, 1, 0x300, 0x0, 0x0, 0x0⟩,
  ⟨0x40020028, 0x100000000, 1, 0x4, 1, 0x0, 0x0, 0x0, 0x0⟩,
  ⟨0x40020030, 0x100000000, 1, 0x4, 1, 0x0, 0x0, 0x0, 0x0⟩]
def rowsIMG_1 : List RegRow := [
  ⟨0x40020034, 0x100000000, 1, 0x4, 1, 0x20000000, 0x0, 0xFFFFFFFF, 0x0⟩,
  ⟨0x40020038, 0x100000000, 1, 0x4, 1, 0x0, 0x0, 0xFFFFFFFF, 0x0⟩,
  ⟨0x4002003C, 0x100000000, 1, 0x4, 1, 0x0, 0x0, 0x0, 0x0⟩,
  ⟨0x40020040, 0x100000000, 1, 0x4, 8, 0x0, 0x0, 0x0, 0x0⟩]
/-- The registers of the IMG window. -/
def rowsIMG : List RegRow :=
  rowsIMG_0 ++ rowsIMG_1

def rowsLNK_0 : List RegRow := [
  ⟨0x40030000, 0x100000000, 1, 0x4, 1, 0x1E0031, 0xFF00FF, 0x0, 0x0⟩,
  ⟨0x40030004, 0x100000000, 1, 0x4, 1, 0x0, 0x0, 0x0, 0x0⟩,
  ⟨0x40030100, 0x100000000, 1, 0x100, 5, 0x0, 0x0, 0x1, 0x0⟩,
  ⟨0x40030104, 0x100000000, 1, 0x100, 5, 0x0, 0x0, 0x0, 0x0⟩,
  ⟨0x40030108, 0x100000000, 1, 0x100, 5, 0x5228, 0x0, 0x0, 0x0⟩,
  ⟨0x4003010C, 0x100000000, 1, 0x100, 5, 0x1008, 0x0, 0x0, 0x0⟩,
  ⟨0x40030110, 0x100000000, 1, 0x100, 5, 0x0, 0x0, 0x0, 0x0⟩,
  ⟨0x40030114, 0x100000000, 1, 0x100, 5, 0x0, 0x0, 0x0, 0x0⟩,
  ⟨0x40030118, 0x100000000, 1, 0x100, 4, 0x0, 0x0, 0x0, 0x0⟩,
  ⟨0x4003011C, 0x100000000, 1, 0x100, 5, 0x0, 0x0, 0x0, 0x0⟩,
  ⟨0x40030120, 0x100000000, 1, 0x100, 5, 0x0, 0x0, 0x0, 0x0⟩,
  ⟨0x40030124, 0x100000000, 1, 0x100, 5, 0x0, 0x0, 0x0, 0x0⟩]
def rowsLNK_1 : List RegRow := [
  ⟨0x40030128, 0x100000000, 1, 0x100, 5, 0x0, 0x0, 0x0, 0x0⟩,
  ⟨0x40030130, 0x100000000, 1, 0x100, 4, 0x0, 0x0, 0x0, 0x0⟩,
  ⟨0x40030134, 0x100000000, 1, 0x100, 4, 0x0, 0x0, 0x0, 0x0⟩,
  ⟨0x40030138, 0x100000000, 1, 0x100, 4, 0x0, 0x0, 0x0, 0x0⟩]
/-- The registers of the LNK window. -/
def rowsLNK : List RegRow :=
  rowsLNK_0 ++ rowsLNK_1

def rowsRNG_0 : List RegRow := [
  ⟨0x40040000, 0x100000000, 1, 0x4, 1, 0x1000, 0xFF01, 0x0, 0x0⟩,
  ⟨0x40040004, 0x100000000, 1, 0x4, 1, 0x0, 0x0, 0x0, 0x0⟩,
  ⟨0x40040008, 0x100000000, 1, 0x4, 1, 0xFFFFFFFF, 0x0, 0x0, 0x0⟩,
  ⟨0x4004000C, 0x100000000, 1, 0x4, 1, 0xFFFFFFFF, 0x0, 0x0, 0x0⟩,
  ⟨0x40040010, 0x100000000, 1, 0x4, 1, 0x20A76, 0xFFFFFF, 0x0, 0x0⟩,
  ⟨0x40040014, 0x100000000, 1, 0x4, 1, 0x222E0, 0xFFFFFF, 0x0, 0x0⟩,
  ⟨0x40040018, 0x100000000, 1, 0x4, 1, 0x2CDC6, 0xFFFFFF, 0x0, 0x0⟩,
  ⟨0x4004001C, 0x100000000, 1, 0x4, 1, 0x0, 0x0, 0x0, 0x0⟩,
  ⟨0x40040020, 0x100000000, 1, 0x4, 1, 0x0, 0x0, 0x0, 0x0⟩,
  ⟨0x40040024, 0x100000000, 1, 0x4, 1, 0x5265C, 0xFFFFFF, 0x0, 0x0⟩,
  ⟨0x40040028, 0x100000000, 1, 0x4, 1, 0x53EC6, 0xFFFFFF, 0x0, 0x0⟩,
  ⟨0x4004002C, 0x100000000, 1, 0x4, 1, 0x5E9AC, 0xFFFFFF, 0x0, 0x0⟩]
def rowsRNG_1 : List RegRow := [
  ⟨0x40040040, 0x100000000, 1, 0x4, 1, 0x0, 0x0, 0x0, 0x0⟩,
  ⟨0x40040044, 0x100000000, 1, 0x4, 1, 0x0, 0x0, 0x0, 0x0⟩,
  ⟨0x40040048, 0x100000000, 1, 0x4, 1, 0x0, 0x0, 0x0, 0x0⟩,
  ⟨0x4004004C, 0x100000000, 1, 0x4, 1, 0x0, 0x0, 0x0, 0x0⟩,
  ⟨0x40040050, 0x100000000, 1, 0x4, 1, 0x0, 0x0, 0x0, 0x0⟩,
  ⟨0x40040054, 0x100000000, 1, 0x4, 1, 0x0, 0x0, 0x0, 0x0⟩,
  ⟨0x40040058, 0x100000000, 1, 0x4, 1, 0x0, 0x0, 0x0, 0x0⟩,
  ⟨0x4004005C, 0x100000000, 1, 0x4, 1, 0x0, 0x0, 0x0, 0x0⟩,
  ⟨0x40040060, 0x100000000, 1, 0x4, 1, 0x0, 0x0, 0x0, 0x0⟩,
  ⟨0x40040064, 0x100000000, 1, 0x4, 1, 0x0, 0x0, 0x0, 0x0⟩,
  ⟨0x40040100, 0x100000000, 1, 0x4, 1, 0x0, 0x0, 0x101F00FF, 0x0⟩,
  ⟨0x40040104, 0x100000000, 1, 0x4, 1, 0x0, 0x0, 0xFFFFFFFF, 0x0⟩]
def rowsRNG_2 : List RegRow := [
  ⟨0x40040108, 0x100000000, 1, 0x4, 1, 0x0, 0x0, 0x0, 0x0⟩,
  ⟨0x40040140, 0x100000000, 1, 0x4, 16, 0x0, 0x0, 0xFFFFFFFF, 0x0⟩]
/-- The registers of the RNG window. -/
def rowsRNG : List RegRow :=
  rowsRNG_0 ++ rowsRNG_1 ++ rowsRNG_2

def rowsTIM_0 : List RegRow := [
  ⟨0x40050000, 0x100000000, 1, 0x4, 1, 0xA0810, 0xFF0FFF, 0x0, 0x0⟩,
  ⟨0x40050004, 0x100000000, 1, 0x4, 1, 0x0, 0x0, 0x0, 0xC0000200⟩,
  ⟨0x40050008, 0x100000000, 1, 0x4, 1, 0x0, 0x0, 0x0, 0x0⟩,
  ⟨0x4005000C, 0x100000000, 1, 0x4, 1, 0x0, 0x0, 0x0, 0x0⟩,
  ⟨0x40050010, 0x100000000, 1, 0x4, 1, 0x6020E08, 0x1F1F1F1F, 0x0, 0x0⟩,
  ⟨0x40050014, 0x100000000, 1, 0x4, 1, 0x0, 0x0, 0x0, 0x0⟩,
  ⟨0x40050018, 0x100000000, 1, 0x4, 1, 0x0, 0x0, 0x0, 0x0⟩,
  ⟨0x4005001C, 0x100000000, 1, 0x4, 1, 0x0, 0x0, 0x0, 0x0⟩,
  ⟨0x40050020, 0x100000000, 1, 0x4, 1, 0x64, 0xFFFFFFFF, 0x0, 0x0⟩,
  ⟨0x40050024, 0x100000000, 1, 0x4, 1, 0xFFFFFF07, 0x0, 0x0, 0x0⟩,
  ⟨0x40050040, 0x100000000, 1, 0x4, 1, 0x4C4B4, 0xFFFFFF, 0x0, 0x0⟩,
  ⟨0x40050044, 0x100000000, 1, 0x4, 1, 0x0, 0x0, 0x0, 0x0⟩]
def rowsTIM_1 : List RegRow := [
  ⟨0x40050050, 0x100000000, 1, 0x4, 4, 0x0, 0xFFFFFFFF, 0x0, 0x0⟩,
  ⟨0x40050060, 0x100000000, 1, 0x4, 4, 0x0, 0x0, 0x0, 0x0⟩,
  ⟨0x40050080, 0x100000000, 1, 0x10, 4, 0x0, 0x0, 0x7, 0x100⟩,
  ⟨0x40050084, 0x100000000, 1, 0x10, 4, 0x0, 0x0, 0xFFFFFFFF, 0x0⟩,
  ⟨0x40050088, 0x100000000, 1, 0x10, 4, 0x0, 0x0, 0xFFFFFFFF, 0x0⟩,
  ⟨0x4005008C, 0x100000000, 1, 0x10, 4, 0x0, 0x0, 0xFFFFFFFF, 0x0⟩,
  ⟨0x400500C0, 0x100000000, 1, 0x4, 1, 0x0, 0x0, 0x3, 0x0⟩,
  ⟨0x400500C4, 0x100000000, 1, 0x4, 1, 0x0, 0x0, 0x0, 0x0⟩,
  ⟨0x400500C8, 0x100000000, 1, 0x4, 1, 0x0, 0x0, 0x0, 0x0⟩]
/-- The registers of the TIM window. -/
def rowsTIM : List RegRow :=
  rowsTIM_0 ++ rowsTIM_1

def rowsCE_0 : List RegRow := [
  ⟨0x40060000, 0x100000000, 1, 0x4, 1, 0x0, 0x0, 0x0, 0xF⟩,
  ⟨0x40060004, 0x100000000, 1, 0x4, 1, 0x0, 0x0, 0x0, 0x0⟩,
  ⟨0x40060010, 0x100000000, 1, 0x4, 1, 0x0, 0x0, 0x20000000, 0x0⟩,
  ⟨0x40060014, 0x100000000, 1, 0x4, 1, 0x0, 0x0, 0xFFFFFFFF, 0x0⟩,
  ⟨0x40060018, 0x100000000, 1, 0x4, 1, 0x0, 0x0, 0x0, 0x0⟩,
  ⟨0x4006001C, 0x100000000, 1, 0x4, 1, 0x0, 0x0, 0x0, 0x0⟩,
  ⟨0x40060040, 0x100000000, 1, 0x20, 8, 0x4000000, 0xFF07FFF7, 0x0, 0x0⟩,
  ⟨0x40060044, 0x100000000, 1, 0x20, 8, 0x0, 0xFFFFFF, 0x0, 0x0⟩,
  ⟨0x40060048, 0x100000000, 1, 0x20, 8, 0x0, 0xFFFFFF, 0x0, 0x0⟩,
  ⟨0x4006004C, 0x100000000, 1, 0x20, 8, 0x0, 0x0, 0x0, 0x0⟩,
  ⟨0x40060050, 0x100000000, 1, 0x20, 8, 0x0, 0x0, 0x0, 0x0⟩,
  ⟨0x40060200, 0x100000000, 1, 0x4, 24, 0x0, 0x0, 0x0, 0xFFFFFFFF⟩]
def rowsCE_1 : List RegRow := [
  ⟨0x40060300, 0x100000000, 1, 0x4, 1, 0x0, 0x0, 0x3FF, 0x0⟩,
  ⟨0x40060340, 0x100000000, 1, 0x4, 16, 0x0, 0x0, 0x0, 0x0⟩,
  ⟨0x40060400, 0x100000000, 1, 0x10, 64, 0x0, 0x80000000, 0x0, 0x0⟩,
  ⟨0x40060404, 0x100000000, 1, 0x10, 64, 0x0, 0xFFFFFFFF, 0x0, 0x0⟩,
  ⟨0x40060408, 0x100000000, 1, 0x10, 64, 0x0, 0x0, 0x0, 0x0⟩,
  ⟨0x4006040C, 0x100000000, 1, 0x10, 64, 0xFFC0, 0x0, 0x0, 0x1⟩,
  ⟨0x40060800, 0x100000000, 1, 0x4, 24, 0x0, 0x0, 0x0, 0xFFFFFFFF⟩,
  ⟨0x40060880, 0x100000000, 1, 0x4, 24, 0x0, 0x0, 0x0, 0xFFFFFFFF⟩]
/-- The registers of the CE window. -/
def rowsCE : List RegRow :=
  rowsCE_0 ++ rowsCE_1

def rowsBAL_0 : List RegRow := [
  ⟨0x40070000, 0x100000000, 1, 0x4, 1, 0x402, 0x8700FF0F, 0x0, 0x0⟩,
  ⟨0x40070004, 0x100000000, 1, 0x4, 1, 0x0, 0x0, 0x0, 0x2⟩,
  ⟨0x40070008, 0x100000000, 1, 0x4, 1, 0x0, 0x0, 0x700000FF, 0x0⟩,
  ⟨0x4007000C, 0x100000000, 1, 0x4, 1, 0x0, 0x0, 0xFFFFFFFF, 0x0⟩,
  ⟨0x40070010, 0x100000000, 1, 0x4, 1, 0x0, 0x0, 0x0, 0x0⟩,
  ⟨0x40070014, 0x100000000, 1, 0x4, 1, 0x0, 0x0, 0x0, 0x0⟩,
  ⟨0x40070100, 0x100000000, 1, 0x40, 3, 0x0, 0x803F3F00, 0x0, 0x0⟩,
  ⟨0x40070104, 0x100000000, 1, 0x40, 3, 0x0, 0x3FFFFFFF, 0x0, 0x0⟩,
  ⟨0x40070108, 0x100000000, 1, 0x40, 3, 0x0, 0xFFFFFFFF, 0x0, 0x0⟩,
  ⟨0x4007010C, 0x100000000, 1, 0x40, 3, 0x0, 0xFFFFFFFF, 0x0, 0x0⟩,
  ⟨0x40070110, 0x100000000, 1, 0x40, 3, 0x0, 0xFFFFFFFF, 0x0, 0x0⟩,
  ⟨0x40070114, 0x100000000, 1, 0x40, 3, 0x0, 0xFFFFFFFF, 0x0, 0x0⟩]
def rowsBAL_1 : List RegRow := [
  ⟨0x40070118, 0x100000000, 1, 0x40, 3, 0x0, 0xFFFFFFFF, 0x0, 0x0⟩,
  ⟨0x4007011C, 0x100000000, 1, 0x40, 3, 0x0, 0xFFFFFFFF, 0x0, 0x0⟩,
  ⟨0x40070120, 0x100000000, 1, 0x40, 3, 0x0, 0xFFFFFFFF, 0x0, 0x0⟩,
  ⟨0x40070124, 0x100000000, 1, 0x40, 3, 0x100040, 0xFFFFFFFF, 0x0, 0x0⟩,
  ⟨0x40070128, 0x100000000, 1, 0x40, 3, 0x0, 0x0, 0x0, 0x0⟩,
  ⟨0x4007012C, 0x100000000, 1, 0x40, 3, 0x0, 0x0, 0x0, 0x0⟩,
  ⟨0x40070130, 0x100000000, 1, 0x40, 3, 0x0, 0xFFFF, 0x0, 0x0⟩,
  ⟨0x40070800, 0x100000000, 1, 0x4, 1, 0x0, 0x1, 0x0, 0x0⟩,
  ⟨0x40070804, 0x100000000, 1, 0x4, 1, 0x0, 0x0, 0x0, 0x0⟩,
  ⟨0x40070808, 0x100000000, 1, 0x4, 3, 0x0, 0x0, 0x0, 0x0⟩,
  ⟨0x40071000, 0x800, 3, 0x20, 60, 0x0, 0xFFFFFFFF, 0x0, 0x0⟩,
  ⟨0x40071004, 0x800, 3, 0x20, 60, 0x0, 0xFFFFFFFF, 0x0, 0x0⟩]
def rowsBAL_2 : List RegRow := [
  ⟨0x40071008, 0x800, 3, 0x20, 60, 0xFF0000, 0x0, 0x0, 0x0⟩,
  ⟨0x4007100C, 0x800, 3, 0x20, 60, 0x0, 0x0, 0x0, 0x0⟩,
  ⟨0x40071010, 0x800, 3, 0x20, 60, 0x0, 0x0, 0x0, 0x0⟩,
  ⟨0x40071014, 0x800, 3, 0x20, 60, 0x0, 0x0, 0x0, 0x0⟩,
  ⟨0x40071018, 0x800, 3, 0x20, 60, 0x0, 0x0, 0x0, 0x0⟩,
  ⟨0x4007101C, 0x800, 3, 0x20, 60, 0x0, 0x0, 0x0, 0x0⟩]
/-- The registers of the BAL window. -/
def rowsBAL : List RegRow :=
  rowsBAL_0 ++ rowsBAL_1 ++ rowsBAL_2

def rowsPWM_0 : List RegRow := [
  ⟨0x40080000, 0x100000000, 1, 0x4, 1, 0x0, 0x0, 0x0, 0x0⟩,
  ⟨0x40080004, 0x100000000, 1, 0x4, 1, 0x0, 0x0, 0x0, 0x0⟩,
  ⟨0x40080008, 0x100000000, 1, 0x4, 1, 0x0, 0x0, 0x0, 0x0⟩,
  ⟨0x4008000C, 0x100000000, 1, 0x4, 1, 0x0, 0x0, 0x0, 0x0⟩,
  ⟨0x40080010, 0x100000000, 1, 0x4, 1, 0x0, 0x0, 0x0, 0x0⟩,
  ⟨0x40080014, 0x100000000, 1, 0x4, 1, 0x0, 0x0, 0x0, 0xFF⟩,
  ⟨0x40080018, 0x100000000, 1, 0x4, 1, 0x0, 0x0, 0x0, 0x0⟩,
  ⟨0x4008001C, 0x100000000, 1, 0x4, 1, 0x0, 0x0, 0x0, 0x0⟩,
  ⟨0x40080040, 0x100000000, 1, 0x4, 8, 0x0, 0x8000003F, 0x0, 0x0⟩,
  ⟨0x40080060, 0x100000000, 1, 0x4, 8, 0x0, 0xC0FFFF78, 0x0, 0x0⟩,
  ⟨0x40080100, 0x20, 8, 0x4, 5, 0x190019, 0xFFFFFFFF, 0x0, 0x0⟩,
  ⟨0x40080400, 0x100000000, 1, 0x40, 8, 0x0, 0xFFFF8000, 0x0, 0x0⟩]
def rowsPWM_1 : List RegRow := [
  ⟨0x40080404, 0x100000000, 1, 0x40, 8, 0x0, 0x0, 0x7, 0x0⟩,
  ⟨0x40080408, 0x100000000, 1, 0x40, 8, 0x98968, 0x0, 0xFFFFFFFF, 0x0⟩,
  ⟨0x4008040C, 0x100000000, 1, 0x40, 8, 0x0, 0x0, 0xFFFFFFFF, 0x0⟩,
  ⟨0x40080410, 0x100000000, 1, 0x40, 8, 0x0, 0x0, 0xFFFFFFFF, 0x0⟩,
  ⟨0x40080414, 0x100000000, 1, 0x40, 8, 0x0, 0x0, 0xFFFFFFFF, 0x0⟩,
  ⟨0x40080418, 0x100000000, 1, 0x40, 8, 0x0, 0x0, 0xFFFFFFFF, 0x0⟩,
  ⟨0x4008041C, 0x100000000, 1, 0x40, 8, 0x0, 0x0, 0xFFFFFFFF, 0x0⟩,
  ⟨0x40080420, 0x100000000, 1, 0x40, 8, 0x0, 0xFFFF, 0x0, 0x0⟩,
  ⟨0x40080424, 0x100000000, 1, 0x40, 8, 0x0, 0x0, 0x0, 0x17900000⟩,
  ⟨0x40080428, 0x100000000, 1, 0x40, 8, 0x0, 0x0, 0x0, 0x0⟩,
  ⟨0x4008042C, 0x100000000, 1, 0x40, 8, 0x0, 0x0, 0x0, 0x0⟩,
  ⟨0x40080430, 0x100000000, 1, 0x40, 8, 0x0, 0x0, 0x0, 0x0⟩]
def rowsPWM_2 : List RegRow := [
  ⟨0x40080434, 0x100000000, 1, 0x40, 8, 0x0, 0x0, 0x0, 0x0⟩,
  ⟨0x40080438, 0x100000000, 1, 0x40, 8, 0x0, 0x0, 0x0, 0x0⟩]
/-- The registers of the PWM window. -/
def rowsPWM : List RegRow :=
  rowsPWM_0 ++ rowsPWM_1 ++ rowsPWM_2

def rowsGD_0 : List RegRow := [
  ⟨0x40090000, 0x100000000, 1, 0x4, 1, 0x14000A, 0xFF01FF, 0x0, 0x0⟩,
  ⟨0x40090004, 0x100000000, 1, 0x4, 1, 0x140A0A, 0xFFFFFF, 0x0, 0x0⟩,
  ⟨0x40090008, 0x100000000, 1, 0x4, 1, 0x0, 0x0, 0x0, 0x0⟩,
  ⟨0x4009000C, 0x100000000, 1, 0x4, 1, 0x0, 0x0, 0x0, 0x0⟩,
  ⟨0x40090010, 0x100000000, 1, 0x4, 1, 0x0, 0x0, 0x0, 0x0⟩,
  ⟨0x40090100, 0x100000000, 1, 0x20, 6, 0x360A0080, 0xFFFFFF80, 0x0, 0x0⟩,
  ⟨0x40090104, 0x100000000, 1, 0x20, 6, 0x21E000FA, 0xFFE001FF, 0x0, 0x0⟩,
  ⟨0x40090108, 0x100000000, 1, 0x20, 6, 0x21E000FA, 0xFFE001FF, 0x0, 0x0⟩,
  ⟨0x4009010C, 0x100000000, 1, 0x20, 6, 0xFFFFF, 0xFFFFF, 0x0, 0x0⟩,
  ⟨0x40090110, 0x100000000, 1, 0x20, 6, 0x0, 0x0, 0x0, 0xFFE0⟩,
  ⟨0x40090114, 0x100000000, 1, 0x20, 6, 0x0, 0x0, 0x0, 0x0⟩,
  ⟨0x40090118, 0x100000000, 1, 0x20, 6, 0x0, 0x0, 0x0, 0x0⟩]
/-- The registers of the GD window. -/
def rowsGD : List RegRow :=
  rowsGD_0

def rowsADC_0 : List RegRow := [
  ⟨0x400A0000, 0x100000000, 1, 0x4, 1, 0x0, 0xC003FFFF, 0x0, 0x0⟩,
  ⟨0x400A0004, 0x100000000, 1, 0x4, 1, 0x0, 0x0, 0x3, 0x0⟩,
  ⟨0x400A0008, 0x100000000, 1, 0x4, 1, 0x0, 0x0, 0x0, 0x300⟩,
  ⟨0x400A000C, 0x100000000, 1, 0x4, 1, 0x0, 0x0, 0x0, 0x0⟩,
  ⟨0x400A0010, 0x100000000, 1, 0x4, 1, 0x42100, 0xFFFFF, 0x0, 0x0⟩,
  ⟨0x400A0014, 0x100000000, 1, 0x4, 1, 0x0, 0x1FFFFFF, 0x0, 0x0⟩,
  ⟨0x400A0020, 0x100000000, 1, 0x4, 1, 0x0, 0x0, 0x0, 0x0⟩,
  ⟨0x400A0024, 0x100000000, 1, 0x4, 1, 0x0, 0x0, 0x0, 0x0⟩,
  ⟨0x400A0028, 0x100000000, 1, 0x4, 1, 0x0, 0x0, 0x0, 0x0⟩,
  ⟨0x400A002C, 0x100000000, 1, 0x4, 1, 0x0, 0x0, 0x0, 0x0⟩,
  ⟨0x400A0100, 0x100000000, 1, 0x20, 16, 0x0, 0xFFFEF700, 0x0, 0x0⟩,
  ⟨0x400A0104, 0x100000000, 1, 0x20, 16, 0x0, 0x0, 0x1F, 0x0⟩]
def rowsADC_1 : List RegRow := [
  ⟨0x400A0108, 0x100000000, 1, 0x20, 16, 0x0, 0xFFFFFF, 0x0, 0x0⟩,
  ⟨0x400A010C, 0x100000000, 1, 0x20, 16, 0x0, 0xFFFF, 0x0, 0x0⟩,
  ⟨0x400A0110, 0x100000000, 1, 0x20, 16, 0x0, 0x0, 0x0, 0x0⟩,
  ⟨0x400A0300, 0x100000000, 1, 0x10, 16, 0x0, 0x0, 0x0, 0x0⟩,
  ⟨0x400A0304, 0x100000000, 1, 0x10, 16, 0x7FC00000, 0x0, 0x0, 0x0⟩,
  ⟨0x400A0308, 0x100000000, 1, 0x10, 16, 0x0, 0x0, 0x0, 0x0⟩,
  ⟨0x400A030C, 0x100000000, 1, 0x10, 16, 0x0, 0x0, 0x0, 0x0⟩,
  ⟨0x400A0500, 0x100000000, 1, 0x8, 16, 0x0, 0xFFFFFFFF, 0x0, 0x0⟩,
  ⟨0x400A0504, 0x100000000, 1, 0x8, 16, 0x0, 0xFFFFFFFF, 0x0, 0x0⟩]
/-- The registers of the ADC window. -/
def rowsADC : List RegRow :=
  rowsADC_0 ++ rowsADC_1

def rowsMTR_0 : List RegRow := [
  ⟨0x400B0000, 0x100000000, 1, 0x4, 1, 0x0, 0xFFFF0000, 0x0, 0x0⟩,
  ⟨0x400B0004, 0x100000000, 1, 0x4, 1, 0x0, 0x0, 0x0, 0xFF0000⟩,
  ⟨0x400B0008, 0x100000000, 1, 0x4, 1, 0x0, 0x0, 0x0, 0x0⟩,
  ⟨0x400B000C, 0x100000000, 1, 0x4, 1, 0x0, 0x0, 0x0, 0x0⟩,
  ⟨0x400B0010, 0x100000000, 1, 0x4, 1, 0x0, 0x0, 0x0, 0x0⟩,
  ⟨0x400B0014, 0x100000000, 1, 0x4, 1, 0x0, 0x0, 0x0, 0xC⟩,
  ⟨0x400B0018, 0x100000000, 1, 0x4, 1, 0x0, 0x0, 0xFFFF, 0x0⟩,
  ⟨0x400B001C, 0x100000000, 1, 0x4, 1, 0x0, 0x0, 0x0, 0x0⟩,
  ⟨0x400B0020, 0x100000000, 1, 0x4, 1, 0x0, 0x0, 0x0, 0x0⟩,
  ⟨0x400B0024, 0x100000000, 1, 0x4, 1, 0x0, 0x0, 0x0, 0x0⟩,
  ⟨0x400B0100, 0x100000000, 1, 0x20, 8, 0x0, 0x8000000F, 0x0, 0x0⟩,
  ⟨0x400B0104, 0x100000000, 1, 0x20, 8, 0x0, 0xFFFFFFFF, 0x0, 0x0⟩]
def rowsMTR_1 : List RegRow := [
  ⟨0x400B0108, 0x100000000, 1, 0x20, 8, 0x0, 0xFFFFFFFF, 0x0, 0x0⟩,
  ⟨0x400B010C, 0x100000000, 1, 0x20, 8, 0x0, 0xFFFFFFFF, 0x0, 0x0⟩,
  ⟨0x400B0110, 0x100000000, 1, 0x20, 8, 0x0, 0x0, 0x0, 0x0⟩,
  ⟨0x400B0200, 0x100000000, 1, 0x8, 4, 0x0, 0x0, 0xFFFF000F, 0x8000⟩,
  ⟨0x400B0204, 0x100000000, 1, 0x8, 4, 0x0, 0x0, 0xFFFFFFFF, 0x0⟩,
  ⟨0x400B0240, 0x100000000, 1, 0x8, 2, 0x0, 0xFC0000FF, 0x0, 0x0⟩,
  ⟨0x400B0244, 0x100000000, 1, 0x8, 2, 0x0, 0xFFFFFFFF, 0x0, 0x0⟩,
  ⟨0x400B0400, 0x100000000, 1, 0x8, 64, 0x0, 0x0, 0x0, 0x0⟩,
  ⟨0x400B0404, 0x100000000, 1, 0x8, 64, 0x0, 0x0, 0x0, 0x0⟩,
  ⟨0x400B0700, 0x100000000, 1, 0x4, 1, 0x0, 0x0, 0x0, 0x0⟩,
  ⟨0x400B0704, 0x100000000, 1, 0x4, 1, 0x0, 0x0, 0x0, 0x0⟩,
  ⟨0x400B0708, 0x100000000, 1, 0x4, 1, 0x0, 0x0, 0x0, 0x0⟩]
def rowsMTR_2 : List RegRow := [
  ⟨0x400B070C, 0x100000000, 1, 0x4, 1, 0x0, 0x0, 0x0, 0x0⟩,
  ⟨0x400B0710, 0x100000000, 1, 0x4, 1, 0x0, 0x0, 0x0, 0x0⟩,
  ⟨0x400B0714, 0x100000000, 1, 0x4, 1, 0x0, 0x0, 0x0, 0x0⟩,
  ⟨0x400B0718, 0x100000000, 1, 0x4, 1, 0x0, 0x0, 0x0, 0x0⟩,
  ⟨0x400B0800, 0x100000000, 1, 0x8, 64, 0x0, 0x0, 0x0, 0x0⟩,
  ⟨0x400B0804, 0x100000000, 1, 0x8, 64, 0x0, 0x0, 0x0, 0x0⟩,
  ⟨0x400B0C00, 0x100000000, 1, 0x4, 160, 0x0, 0x0, 0x0, 0x0⟩]
/-- The registers of the MTR window. -/
def rowsMTR : List RegRow :=
  rowsMTR_0 ++ rowsMTR_1 ++ rowsMTR_2

def rowsDPX_0 : List RegRow := [
  ⟨0x400C0000, 0x100000000, 1, 0x4, 1, 0x2046418, 0x8F0FFF1F, 0x0, 0x0⟩,
  ⟨0x400C0004, 0x100000000, 1, 0x4, 1, 0xFF0000, 0x0, 0x0, 0x0⟩,
  ⟨0x400C0008, 0x100000000, 1, 0x4, 1, 0x0, 0x0, 0x0, 0x0⟩,
  ⟨0x400C000C, 0x100000000, 1, 0x4, 1, 0x0, 0x0, 0x0, 0x0⟩,
  ⟨0x400C0010, 0x100000000, 1, 0x4, 1, 0x0, 0x0, 0xFFFFFFFF, 0x0⟩,
  ⟨0x400C0014, 0x100000000, 1, 0x4, 1, 0x0, 0x0, 0x0, 0x0⟩,
  ⟨0x400C0018, 0x100000000, 1, 0x4, 1, 0x0, 0x0, 0x0, 0x0⟩,
  ⟨0x400C001C, 0x100000000, 1, 0x4, 1, 0x0, 0x0, 0x0, 0x0⟩,
  ⟨0x400C0020, 0x100000000, 1, 0x4, 1, 0x0, 0x0, 0x0, 0x0⟩,
  ⟨0x400C0024, 0x100000000, 1, 0x4, 1, 0x0, 0x0, 0x0, 0x0⟩,
  ⟨0x400C0028, 0x100000000, 1, 0x4, 1, 0x0, 0x0, 0x0, 0x0⟩,
  ⟨0x400C002C, 0x100000000, 1, 0x4, 1, 0x0, 0x0, 0x0, 0x0⟩]
def rowsDPX_1 : List RegRow := [
  ⟨0x400C0030, 0x100000000, 1, 0x4, 1, 0xFFFFFFFF, 0x0, 0x0, 0x0⟩,
  ⟨0x400C0034, 0x100000000, 1, 0x4, 1, 0x0, 0x0, 0x0, 0x0⟩,
  ⟨0x400C0040, 0x100000000, 1, 0x4, 1, 0xFF0000, 0x0, 0x0, 0x0⟩,
  ⟨0x400C0044, 0x100000000, 1, 0x4, 1, 0x0, 0x0, 0x0, 0x0⟩,
  ⟨0x400C0080, 0x100000000, 1, 0x4, 32, 0x0, 0x0, 0x0, 0x0⟩]
/-- The registers of the DPX window. -/
def rowsDPX : List RegRow :=
  rowsDPX_0 ++ rowsDPX_1

def rowsSAF_0 : List RegRow := [
  ⟨0x400D0000, 0x100000000, 1, 0x4, 1, 0x304C4B4, 0x8FFFFFFF, 0x0, 0x0⟩,
  ⟨0x400D0004, 0x100000000, 1, 0x4, 1, 0x21, 0x0, 0x0, 0x0⟩,
  ⟨0x400D0008, 0x100000000, 1, 0x4, 1, 0x640002, 0x83FF001F, 0x0, 0x0⟩,
  ⟨0x400D000C, 0x100000000, 1, 0x4, 1, 0x0, 0x0, 0x0, 0x0⟩,
  ⟨0x400D0010, 0x100000000, 1, 0x4, 1, 0x0, 0x0, 0x0, 0x0⟩,
  ⟨0x400D0014, 0x100000000, 1, 0x4, 1, 0x0, 0x0, 0x0, 0x0⟩,
  ⟨0x400D0018, 0x100000000, 1, 0x4, 1, 0x0, 0xFFFF, 0x0, 0x0⟩,
  ⟨0x400D001C, 0x100000000, 1, 0x4, 1, 0x0, 0xFFFF, 0x0, 0x0⟩,
  ⟨0x400D0020, 0x100000000, 1, 0x4, 1, 0x0, 0xFFFF, 0x0, 0x0⟩,
  ⟨0x400D0024, 0x100000000, 1, 0x4, 1, 0x50000, 0xC0FFFF00, 0x0, 0x0⟩,
  ⟨0x400D0028, 0x100000000, 1, 0x4, 1, 0x0, 0x0, 0x0, 0x0⟩,
  ⟨0x400D002C, 0x100000000, 1, 0x4, 1, 0x0, 0x0, 0x0, 0x0⟩]
def rowsSAF_1 : List RegRow := [
  ⟨0x400D0030, 0x100000000, 1, 0x4, 1, 0x0, 0x0, 0x0, 0x0⟩,
  ⟨0x400D0040, 0x100000000, 1, 0x4, 8, 0xA000A, 0xFEFF00FF, 0x0, 0x0⟩,
  ⟨0x400D0080, 0x100000000, 1, 0x4, 16, 0x0, 0xC000FF07, 0x0, 0x0⟩,
  ⟨0x400D1000, 0x20, 255, 0x4, 8, 0x10000, 0x1FFFF, 0x0, 0x0⟩]
/-- The registers of the SAF window. -/
def rowsSAF : List RegRow :=
  rowsSAF_0 ++ rowsSAF_1

def rowsFLT_0 : List RegRow := [
  ⟨0x400E0000, 0x100000000, 1, 0x4, 1, 0x3010014, 0x70707FF, 0x0, 0x0⟩,
  ⟨0x400E0004, 0x100000000, 1, 0x4, 1, 0xC000, 0x0, 0x0, 0x1000⟩,
  ⟨0x400E0008, 0x100000000, 1, 0x4, 1, 0x0, 0x0, 0x0, 0x0⟩,
  ⟨0x400E000C, 0x100000000, 1, 0x4, 1, 0x0, 0x0, 0x0, 0x0⟩,
  ⟨0x400E0010, 0x100000000, 1, 0x4, 1, 0xA00, 0xF000FF00, 0x0, 0x0⟩,
  ⟨0x400E0014, 0x100000000, 1, 0x4, 1, 0x3000258, 0xF00FFFF, 0x0, 0x0⟩,
  ⟨0x400E0018, 0x100000000, 1, 0x4, 1, 0x0, 0x0, 0x0, 0x0⟩,
  ⟨0x400E001C, 0x100000000, 1, 0x4, 1, 0x0, 0x0, 0x0, 0x0⟩,
  ⟨0x400E0020, 0x100000000, 1, 0x4, 1, 0x0, 0x0, 0x0, 0x0⟩,
  ⟨0x400E0024, 0x100000000, 1, 0x4, 1, 0x0, 0x0, 0x0, 0x0⟩,
  ⟨0x400E0028, 0x100000000, 1, 0x4, 1, 0x0, 0x0, 0x0, 0x0⟩,
  ⟨0x400E0100, 0x20, 64, 0x4, 8, 0x0, 0x0, 0x0, 0x0⟩]
def rowsFLT_1 : List RegRow := [
  ⟨0x400E0900, 0x40, 64, 0x4, 16, 0x0, 0x0, 0x0, 0x0⟩]
/-- The registers of the FLT window. -/
def rowsFLT : List RegRow :=
  rowsFLT_0 ++ rowsFLT_1

def rowsMEM_0 : List RegRow := [
  ⟨0x400F0000, 0x100000000, 1, 0x4, 1, 0x0, 0x0, 0x0, 0x0⟩,
  ⟨0x400F0004, 0x100000000, 1, 0x4, 1, 0x0, 0x0, 0x0, 0xFF⟩,
  ⟨0x400F0008, 0x100000000, 1, 0x4, 1, 0x0, 0x0, 0x0, 0x0⟩,
  ⟨0x400F000C, 0x100000000, 1, 0x4, 1, 0xFFFFFFFF, 0x0, 0x0, 0x0⟩,
  ⟨0x400F0010, 0x100000000, 1, 0x4, 1, 0x0, 0x0, 0x0, 0x0⟩,
  ⟨0x400F0040, 0x100000000, 1, 0x8, 8, 0x3E810, 0xFFFFFF, 0x0, 0x0⟩,
  ⟨0x400F0044, 0x100000000, 1, 0x8, 8, 0x0, 0x0, 0x0, 0x0⟩,
  ⟨0x400F0080, 0x100000000, 1, 0x4, 8, 0x0, 0x0, 0x0, 0x0⟩,
  ⟨0x400F0100, 0x100000000, 1, 0x4, 1, 0x4, 0x0, 0xFF, 0x0⟩,
  ⟨0x400F0104, 0x100000000, 1, 0x4, 1, 0x20000000, 0x0, 0xFFFFFFFF, 0x0⟩,
  ⟨0x400F0108, 0x100000000, 1, 0x4, 1, 0x20FFFFF8, 0x0, 0xFFFFFFFF, 0x0⟩,
  ⟨0x400F010C, 0x100000000, 1, 0x4, 1, 0x0, 0x0, 0x0, 0x0⟩]
def rowsMEM_1 : List RegRow := [
  ⟨0x400F0110, 0x100000000, 1, 0x4, 1, 0x0, 0x0, 0x0, 0x0⟩,
  ⟨0x400F0114, 0x100000000, 1, 0x4, 1, 0x0, 0x0, 0x0, 0x0⟩,
  ⟨0x400F0118, 0x100000000, 1, 0x4, 1, 0xFFFFFFFF, 0x0, 0x0, 0x0⟩,
  ⟨0x400F0120, 0x100000000, 1, 0x4, 1, 0x0, 0x0, 0xFFFFFFF8, 0x0⟩,
  ⟨0x400F0124, 0x100000000, 1, 0x4, 1, 0x0, 0x0, 0x0, 0x0⟩]
/-- The registers of the MEM window. -/
def rowsMEM : List RegRow :=
  rowsMEM_0 ++ rowsMEM_1

def rowsTHM_0 : List RegRow := [
  ⟨0x40100000, 0x100000000, 1, 0x4, 1, 0x0, 0x0, 0x0, 0x0⟩,
  ⟨0x40100004, 0x100000000, 1, 0x4, 1, 0x0, 0xFFFFFFFF, 0x0, 0x0⟩,
  ⟨0x40100008, 0x100000000, 1, 0x4, 1, 0x0, 0x0, 0x0, 0x0⟩,
  ⟨0x4010000C, 0x100000000, 1, 0x4, 1, 0x0, 0x0, 0xFF, 0x0⟩,
  ⟨0x40100020, 0x100000000, 1, 0x4, 8, 0x0, 0x0, 0x0, 0x0⟩,
  ⟨0x40100100, 0x100000000, 1, 0x20, 4, 0x80000000, 0x0, 0x0, 0x0⟩,
  ⟨0x40100180, 0x100000000, 1, 0x20, 2, 0x80000000, 0x80000000, 0x0, 0x0⟩,
  ⟨0x40100104, 0x100000000, 1, 0x20, 4, 0xC7B6AE05, 0xFFFFFFFF, 0x0, 0x0⟩,
  ⟨0x40100108, 0x100000000, 1, 0x20, 14, 0x20000000, 0x0, 0x0, 0x0⟩,
  ⟨0x4010010C, 0x100000000, 1, 0x20, 14, 0x0, 0xFFFFFFFF, 0x0, 0x0⟩,
  ⟨0x40100110, 0x100000000, 1, 0x20, 14, 0x0, 0xFFFFFFFF, 0x0, 0x0⟩,
  ⟨0x40100184, 0x100000000, 1, 0x20, 2, 0xB8ACA405, 0xFFFFFFFF, 0x0, 0x0⟩,
  ⟨0x401001C0, 0x100000000, 1, 0x20, 8, 0x0, 0x8000000F, 0x0, 0x0⟩]
def rowsTHM_1 : List RegRow := [
  ⟨0x401001C4, 0x100000000, 1, 0x20, 8, 0x0, 0xFFFFFFFF, 0x0, 0x0⟩]
/-- The registers of the THM window. -/
def rowsTHM : List RegRow :=
  rowsTHM_0 ++ rowsTHM_1

def rowsSUP_0 : List RegRow := [
  ⟨0x40110000, 0x100000000, 1, 0x4, 1, 0x30000000, 0xF0000000, 0x0, 0x0⟩,
  ⟨0x40110004, 0x100000000, 1, 0x4, 1, 0x0, 0x0, 0x0, 0x0⟩,
  ⟨0x40110008, 0x100000000, 1, 0x4, 1, 0x0, 0x0, 0x0, 0x0⟩,
  ⟨0x4011000C, 0x100000000, 1, 0x4, 1, 0x0, 0x0, 0x0, 0x0⟩,
  ⟨0x40110010, 0x100000000, 1, 0x4, 1, 0x0, 0x0, 0x0, 0x0⟩,
  ⟨0x40110014, 0x100000000, 1, 0x4, 1, 0x0, 0xFFFFFFFF, 0x0, 0x0⟩,
  ⟨0x40110018, 0x100000000, 1, 0x4, 1, 0x0, 0x8000003F, 0x0, 0x0⟩,
  ⟨0x40110020, 0x100000000, 1, 0x4, 4, 0x0, 0xFFFFFFFF, 0x0, 0x0⟩,
  ⟨0x40110030, 0x100000000, 1, 0x4, 1, 0x0, 0x800000FF, 0x0, 0x0⟩,
  ⟨0x40110034, 0x100000000, 1, 0x4, 1, 0xBA6C, 0xFFFF, 0x0, 0x0⟩,
  ⟨0x40110038, 0x100000000, 1, 0x4, 1, 0x0, 0x80007FFF, 0x0, 0x0⟩,
  ⟨0x40110040, 0x100000000, 1, 0x4, 1, 0x3C04, 0x8000FF07, 0x0, 0x0⟩]
def rowsSUP_1 : List RegRow := [
  ⟨0x40110044, 0x100000000, 1, 0x4, 1, 0x3E81000A, 0xFFFFFFFF, 0x0, 0x0⟩,
  ⟨0x40110048, 0x100000000, 1, 0x4, 1, 0x0, 0x0, 0x0, 0x0⟩,
  ⟨0x4011004C, 0x100000000, 1, 0x4, 1, 0x0, 0x0, 0x0, 0x0⟩,
  ⟨0x40110050, 0x100000000, 1, 0x4, 1, 0x0, 0x0, 0x0, 0x0⟩,
  ⟨0x40110060, 0x100000000, 1, 0x4, 1, 0x0, 0x0, 0x0, 0x0⟩,
  ⟨0x40110064, 0x100000000, 1, 0x4, 1, 0x0, 0x0, 0x0, 0x0⟩,
  ⟨0x40110068, 0x100000000, 1, 0x4, 1, 0x0, 0x0, 0x0, 0x0⟩,
  ⟨0x4011006C, 0x100000000, 1, 0x4, 1, 0x0, 0x0, 0x0, 0x0⟩,
  ⟨0x40110070, 0x100000000, 1, 0x4, 1, 0x0, 0x0, 0x0, 0x0⟩,
  ⟨0x40110074, 0x100000000, 1, 0x4, 1, 0x0, 0x0, 0x0, 0x0⟩,
  ⟨0x40110078, 0x100000000, 1, 0x4, 1, 0x0, 0x0, 0x0, 0x0⟩,
  ⟨0x40110080, 0x100000000, 1, 0x4, 4, 0x0, 0x0, 0x0, 0x0⟩]
/-- The registers of the SUP window. -/
def rowsSUP : List RegRow :=
  rowsSUP_0 ++ rowsSUP_1

def rowsMBX_0 : List RegRow := [
  ⟨0x40120000, 0x100000000, 1, 0x4, 1, 0xFA0, 0xFFFF, 0x0, 0x0⟩,
  ⟨0x40120004, 0x100000000, 1, 0x4, 1, 0x0, 0x0, 0x0, 0xFFFFFFFF⟩,
  ⟨0x40120008, 0x100000000, 1, 0x4, 1, 0x0, 0x0, 0xFFFFFFFF, 0x0⟩,
  ⟨0x4012000C, 0x100000000, 1, 0x4, 1, 0x0, 0x0, 0x0, 0x0⟩,
  ⟨0x40120010, 0x100000000, 1, 0x4, 1, 0x0, 0x0, 0x0, 0x0⟩,
  ⟨0x40120100, 0x80, 16, 0x4, 16, 0x0, 0x0, 0xFFFFFFFF, 0x0⟩,
  ⟨0x40120140, 0x100000000, 1, 0x80, 16, 0x0, 0x0, 0x0, 0x0⟩,
  ⟨0x40120144, 0x100000000, 1, 0x80, 16, 0x0, 0x0, 0x0, 0x70000⟩,
  ⟨0x40120148, 0x100000000, 1, 0x80, 16, 0xFF00, 0x877FFF00, 0x0, 0x0⟩]
/-- The registers of the MBX window. -/
def rowsMBX : List RegRow :=
  rowsMBX_0

def rowsSLOT_0 : List RegRow := [
  ⟨0x41000000, 0x100000000, 1, 0x100, 768, 0x0, 0x0, 0xFFFFFFFF, 0x0⟩,
  ⟨0x41000004, 0x100000000, 1, 0x100, 768, 0x0, 0x0, 0xFFFFFFFF, 0x0⟩,
  ⟨0x41000008, 0x100000000, 1, 0x100, 768, 0x0, 0x0, 0xFFFFFFFF, 0x0⟩,
  ⟨0x4100000C, 0x100000000, 1, 0x100, 768, 0x0, 0x0, 0xFFFFFFFF, 0x0⟩,
  ⟨0x41000010, 0x100000000, 1, 0x100, 768, 0x0, 0x0, 0xFFFFFFFF, 0x0⟩,
  ⟨0x41000014, 0x100000000, 1, 0x100, 768, 0x0, 0x0, 0xFFFFFFFF, 0x0⟩,
  ⟨0x41000018, 0x100000000, 1, 0x100, 768, 0x0, 0x0, 0xFFFFFFFF, 0x0⟩,
  ⟨0x4100001C, 0x100000000, 1, 0x100, 768, 0x0, 0x0, 0xFFFFFFFF, 0x0⟩,
  ⟨0x41000020, 0x100000000, 1, 0x100, 768, 0x0, 0x0, 0xFFFFFFFF, 0x0⟩,
  ⟨0x41000024, 0x100000000, 1, 0x100, 768, 0x0, 0x0, 0xFFFFFFFF, 0x0⟩,
  ⟨0x41000028, 0x100, 768, 0x4, 6, 0x0, 0x0, 0xFFFFFFFF, 0x0⟩,
  ⟨0x41000040, 0x100000000, 1, 0x100, 768, 0x0, 0x0, 0xFFFFFFFF, 0x0⟩]
def rowsSLOT_1 : List RegRow := [
  ⟨0x41000044, 0x100000000, 1, 0x100, 768, 0x0, 0x0, 0xFFFFFFFF, 0x0⟩,
  ⟨0x41000048, 0x100000000, 1, 0x100, 768, 0x0, 0x0, 0xFFFFFFFF, 0x0⟩,
  ⟨0x4100004C, 0x100000000, 1, 0x100, 768, 0x0, 0x0, 0xFFFFFFFF, 0x0⟩,
  ⟨0x41000050, 0x100000000, 1, 0x100, 768, 0x0, 0x0, 0xFFFFFFFF, 0x0⟩,
  ⟨0x41000054, 0x100000000, 1, 0x100, 768, 0x0, 0x0, 0xFFFFFFFF, 0x0⟩,
  ⟨0x41000058, 0x100000000, 1, 0x100, 768, 0x0, 0x0, 0xFFFFFFFF, 0x0⟩,
  ⟨0x4100005C, 0x100000000, 1, 0x100, 768, 0x0, 0x0, 0xFFFFFFFF, 0x0⟩,
  ⟨0x41000060, 0x100000000, 1, 0x100, 768, 0x0, 0x0, 0xFFFFFFFF, 0x0⟩,
  ⟨0x41000064, 0x100000000, 1, 0x100, 768, 0x0, 0x0, 0xFFFFFFFF, 0x0⟩,
  ⟨0x41000068, 0x100, 768, 0x4, 6, 0x0, 0x0, 0xFFFFFFFF, 0x0⟩,
  ⟨0x41000080, 0x100, 768, 0x4, 3, 0x0, 0x0, 0xFFFFFFFF, 0x0⟩,
  ⟨0x4100008C, 0x100, 768, 0x4, 3, 0x0, 0x0, 0xFFFFFFFF, 0x0⟩]
def rowsSLOT_2 : List RegRow := [
  ⟨0x41000098, 0x100000000, 1, 0x100, 768, 0x0, 0x0, 0xFFFFFFFF, 0x0⟩,
  ⟨0x4100009C, 0x100000000, 1, 0x100, 768, 0x0, 0x0, 0xFFFFFFFF, 0x0⟩,
  ⟨0x410000A0, 0x100000000, 1, 0x100, 768, 0x0, 0x0, 0x0, 0x0⟩,
  ⟨0x410000A4, 0x100000000, 1, 0x100, 768, 0x0, 0x0, 0x0, 0x0⟩,
  ⟨0x410000A8, 0x100000000, 1, 0x100, 768, 0x0, 0x0, 0x0, 0x0⟩,
  ⟨0x410000AC, 0x100000000, 1, 0x100, 768, 0x0, 0x0, 0x0, 0xDC⟩,
  ⟨0x410000B0, 0x100000000, 1, 0x100, 768, 0x0, 0x0, 0x0, 0x0⟩,
  ⟨0x410000C0, 0x100000000, 1, 0x100, 768, 0x0, 0x0, 0xF38F0000, 0x0⟩,
  ⟨0x410000C4, 0x100000000, 1, 0x100, 768, 0x0, 0x0, 0xFFFFFFFF, 0x0⟩,
  ⟨0x410000C8, 0x100000000, 1, 0x100, 768, 0x0, 0x0, 0xFFFFFFFF, 0x0⟩,
  ⟨0x410000CC, 0x100000000, 1, 0x100, 768, 0x0, 0x0, 0xFFFFFFFF, 0x0⟩,
  ⟨0x410000D0, 0x100000000, 1, 0x100, 768, 0x0, 0x0, 0xFFFFFFFF, 0x0⟩]
def rowsSLOT_3 : List RegRow := [
  ⟨0x410000D4, 0x100000000, 1, 0x100, 768, 0x0, 0x0, 0xFFFFFFFF, 0x0⟩,
  ⟨0x410000E0, 0x100, 768, 0x4, 8, 0x0, 0x0, 0xFFFFFFFF, 0x0⟩]
/-- The registers of the coefficient RAM window. -/
def rowsSLOT : List RegRow :=
  rowsSLOT_0 ++ rowsSLOT_1 ++ rowsSLOT_2 ++ rowsSLOT_3

/-- The rows of the window that holds address `a` (R565); none outside the windows. -/
def rowsAt (a : Nat) : List RegRow :=
  if Nat.ble 0x41000000 a then rowsSLOT
  else match (a - 0x40000000) / 0x10000 with
  | 0 => rowsSYS
  | 1 => rowsCLK
  | 2 => rowsIMG
  | 3 => rowsLNK
  | 4 => rowsRNG
  | 5 => rowsTIM
  | 6 => rowsCE
  | 7 => rowsBAL
  | 8 => rowsPWM
  | 9 => rowsGD
  | 10 => rowsADC
  | 11 => rowsMTR
  | 12 => rowsDPX
  | 13 => rowsSAF
  | 14 => rowsFLT
  | 15 => rowsMEM
  | 16 => rowsTHM
  | 17 => rowsSUP
  | 18 => rowsMBX
  | _ => []

/-- The row of address `a`, when a register lies there. -/
def rowOf (a : Nat) : Option RegRow := (rowsAt a).find? (·.hit a)

/-- The reset value of the word at address `a` (0 where no register lies, R14; every slot record is zero, R241). -/
def resetWord (a : Nat) : Word :=
  if Nat.ble 0x41000000 a then 0
  else match rowOf a with
  | some r => BitVec.ofNat 32 r.rst
  | none => 0

end Sys2Proof.Machine
end

