-- ==== Sys2Proof/Machine/State.lean ====
section
/-! DEFINITION. Machine/State.lean: everything the spec gives a node, as plain data. `regs` holds every register of the
index and the coefficient RAM by address (R564, R569); the structures beside it hold what the spec gives the node and
no register shows. `out` is the list of what the node has sent or driven, oldest first.
Marked choices: log entries 1, 2, 3, 5, 7, 9, 55, 60, 70, 71, 72, 73 (DESIGN CHOICE); log entries 31, 32 (DEDUCED). -/
namespace Sys2Proof.Machine

/-- A sparse bank of records by number; a number that is not listed holds the bank's reset record. -/
abbrev Bank (α : Type) := List (Nat × α)

/-- No command stops the machine with a fault: every error of the spec is state. -/
inductive Fault where
  /-- Raised by nobody; the outcome type asks for a reason. Safe. -/
  | unreachable
  deriving DecidableEq, Repr

/-- Why a command is refused by the model. -/
inductive Refusal where
  /-- The command has no meaning in the model yet. Safe: nothing can be proved of it. -/
  | notModelled (mnemonic : String)
  deriving DecidableEq, Repr

/-- States of the root PLL (R78). -/
inductive Root where
  | off | search | locked | holdover | reacquire
  deriving DecidableEq, Repr

/-- States of an image slot's state word (R113). -/
inductive SlotState where
  | empty | pending | trial | good | bad
  deriving DecidableEq, Repr

/-- Commands of the image update that take time (R115): PROGRAM with its source and length. -/
inductive UpdCmd where
  | erase
  | program (src len : Nat)
  | verify
  deriving DecidableEq, Repr

/-- States of an owner-key fuse slot (R99). -/
inductive KeyState where
  | blank | active | revoked
  deriving DecidableEq, Repr

/-- What the node sends or drives, as the environment sees it. -/
inductive Out where
  /-- A codeword on a lane of port A to D (0 to 3) or on lane G (4), as the levels of the line (R125 to R129): 800 in PAM4,
  1600 in PAM2. Of equal training codewords in a row the first one (R138). -/
  | codeword (port lane : Nat) (levels : List Int)
  /-- The IDLE codewords of both lanes of a ring port carry the fold mark from now on, or no longer (R583). -/
  | idleMark (port : Nat) (on : Bool)
  /-- Interrupt of the management processor by a fault record (R465). -/
  | irqFault (rec code : Nat)
  /-- Interrupt of the management processor by a mailbox channel (R556). -/
  | irqMbx (ch : Nat) (full : Bool)
  /-- A message to the host (R513, R514): the addresses it goes to; SID, TYPE, RESP, STATUS, SEQ, NODE, body before
  encryption; and the datagram as sent. -/
  | host (addr : List Byte) (sid typ : Nat) (resp : Bool) (status seq node : Nat) (body wire : List Byte)
  /-- An answer of the supervisory port outside the sessions: ARP, neighbour or echo (R513). -/
  | net (kind : Nat)
  /-- A PTP frame on the supervisory port (R542). -/
  | ptp (frame : List Byte)
  /-- A pulse of a metering output: 0 to 3 PLS, 4 to 7 DFC (R387, R388). -/
  | pulse (output : Nat)
  /-- The primary's answer to the admission request of a position (R109, R185). -/
  | admission (pos : Nat) (answer : AdmissionIn)
  /-- The conditions of R179 that do not hold, as the HEAD reports them to the host (R180): breaks, and positions with a lane
  whose SER_DEC is below 8. -/
  | guarantee (breaks : Nat) (serLow : List Nat)
  /-- The positions that stand in the way of full service, as the HEAD reports them (R107). -/
  | missing (positions : List Nat)
  /-- A mailbox notice to a local receiver or sender master: master, channel, kind 0 FULL, 1 EMPTY. -/
  | notice (master ch kind : Nat)
  /-- The result of an access: whether it met a bus error, and the value read. -/
  | bus (err : Bool) (value : BitVec 64)
  deriving DecidableEq, Repr

/-- Reset, power and boot state that no register shows. -/
structure SysSt where
  inReset : Bool := true
  powerGood : Bool := false
  /-- An accepted SYS_RST_CTRL write whose reset has not begun (R72). -/
  softPend : Bool := false
  /-- The boot lock (R11). -/
  bootLock : Bool := false
  /-- DBGSEL as sampled at release of reset (R50, R529). -/
  dbgsel : Bool := false
  /-- Base ticks since release of reset. -/
  up : Nat := 0
  /-- The response of the last bus access: bus error, value. -/
  resp : Option (Bool × BitVec 64) := none
  deriving DecidableEq, Repr

/-- One pending or written event log record: its eight words (R507). -/
abbrev LogRec := List Word

/-- The vault domain and the event log (R74, R506). -/
structure VaultSt where
  sec : BitVec 48 := 0
  /-- Successive tamper pulses that did not return. -/
  missed : Nat := 0
  /-- The vault state was lost and no power-on has reported it yet (R74). -/
  lost : Bool := false
  /-- Event kind and stamp of records waiting in the vault: kind, seconds, words 3 to 6. -/
  logPend : List (Nat × BitVec 48 × List Word) := []
  logNum : Word := 1
  /-- The register series (R368). -/
  series : Nat := 0
  /-- Index of the next record. -/
  logIdx : Nat := 0
  logMem : Bank LogRec := []
  deriving DecidableEq, Repr

/-- The clock root beyond the CLK registers. -/
structure ClkSt where
  root : Root := .off
  refin : Bool := false
  /-- Base tick at which the reference wait of R89 began, while it runs. -/
  refWait : Option Nat := none
  /-- Base tick from which HOLD_MAX runs, while it runs (R79). -/
  holdAt : Option Nat := none
  /-- REFSEL driven high: the HEAD's own oscillator (R88). -/
  refselHigh : Bool := true
  /-- CKO0 enabled by the reference-source role (R90). -/
  cko0Auto : Bool := false
  /-- Phase of the spread triangle in base ticks (R83). -/
  ramp : Nat := 0
  /-- That phase at the boundary that began the cycle (R402). -/
  rampB : Nat := 0
  /-- RAMP and SCN of the last valid heartbeat of the reference source (R85, R402). -/
  srcRamp : Option (Nat × Word) := none
  /-- In REACQUIRE: what the VCO is still off REFIN, in ppm, and whether the phase step has been absorbed (R80). -/
  fErr : Frac := Frac.zero
  absorbed : Bool := false
  /-- CKO outputs whose divider was last written outside its range (R87): mask. -/
  ckoBad : Nat := 0
  /-- Slew term w(t) as a fraction, and the target the servo gives it (R86). -/
  w : Frac := Frac.zero
  wTarget : Frac := Frac.zero
  deriving DecidableEq, Repr

/-- Owner-key fuse digests (R99); their states are in IMG_OWNER_STAT. -/
structure FuseSt where
  dig : Bank (BitVec 256) := []
  /-- The slot most recently REVOKED (R101). -/
  lastRevoked : Option Nat := none
  deriving DecidableEq, Repr

/-- Image, bring-up and admission state that no register shows. -/
structure ImgSt where
  /-- The attempt in progress is the retry from the other slot (R104). -/
  retried : Bool := false
  /-- Other slot to retry, when GOOD. -/
  fallback : Bool := false
  /-- VENDOR_SIG of the booted image passed (R104). -/
  vendorOk : Bool := false
  /-- Base tick at which FETCH began (R104). -/
  fetchAt : Nat := 0
  /-- The booted image, empty until VERIFY passes. -/
  image : ImageRead := {}
  upd : Option UpdCmd := none
  /-- SN named for full service, at the primary and at members (R107). -/
  fullS : Option Word := none
  /-- Base tick at which the node entered PB_WAIT, and whether ST_WAIT has expired since (R107, R399). -/
  pbAt : Nat := 0
  stWait : Bool := false
  /-- Positions whose lanes had not locked when S was named (R279). -/
  unlocked : List (BitVec 8) := []
  /-- Splice in progress: boundary S and position (R118). -/
  splice : Option (Word × BitVec 8) := none
  /-- The spur's ports of this node have switched to PAM4 for the splice in progress. -/
  spliceSw : Bool := false
  deriving DecidableEq, Repr

/-- One lane beyond LNK_PORTx_STAT. -/
structure LaneSt where
  /-- Codewords with the fold mark in a row, and without it (R583). -/
  markRun : Nat := 0
  cleanRun : Nat := 0
  /-- The last precoded symbol value received since the lane entered FRAME (R126). -/
  rxLast : Nat := 0
  /-- Codewords in a row that decode with the lane's seed, that do not, and that are training codewords (R130). -/
  good : Nat := 0
  bad : Nat := 0
  trn : Nat := 0
  /-- Training (R138, R139): the polarity they come in, and port index, lane index and flags of the last one; codewords with
  DONE in both directions. -/
  inv : Bool := false
  far : Option (Nat × Nat × Nat) := none
  doneRun : Nat := 0
  /-- Base tick from which the 2 ms of R136 count, and at which the elastic buffer was centred (R134). -/
  since : Nat := 0
  centred : Nat := 0
  /-- Last update had SER_DEC below 8, height below EYE_MIN (R147). -/
  lowSer : Bool := false
  lowEye : Bool := false
  deriving DecidableEq, Repr

/-- One port beyond its registers. -/
structure PortSt where
  /-- Base tick at which a training failed, while the port waits 100 ms before the next blind start (R136). -/
  trainWait : Option Nat := none
  /-- Base tick at which the port entered TRAIN; RX_LOCKED and DONE of the training codewords it sends (R138, R139). -/
  trainAt : Nat := 0
  rxLocked : Bool := false
  done : Bool := false
  /-- The port receives the fold mark (R583). -/
  marked : Bool := false
  /-- A commanded mode switch is under way: no fold and no lane fault for it (R137). -/
  switching : Bool := false
  /-- The port has been UP since reset (R153). -/
  everUp : Bool := false
  /-- Wiring word of the board table in use (R141). -/
  wiring : BitVec 5 := 0
  deriving DecidableEq, Repr

structure LnkSt where
  lane : Bank LaneSt := []
  port : Bank PortSt := []
  /-- Base tick from which both lane PLLs have been out of lock (R147). -/
  outAt : Nat := 0
  deriving DecidableEq, Repr

/-- An uplink item as taken at a HEAD, or a command or status item (R157). -/
structure Item where
  origin : Nat
  idx : Nat
  scn : Nat
  value : Word
  deriving DecidableEq, Repr

/-- A codeword that the decode path has handed over (R131): the port and the lane of its stream, its payload as received and as
corrected, UNCORR, and the fabric cycle. -/
structure Arrival where
  port : Nat
  lane : Nat
  raw : List Byte
  cw : List Byte
  uncorr : Bool
  fab : Nat
  deriving DecidableEq, Repr

/-- A BULK codeword of a flow that its peer has not acknowledged: FIRST, LAST, DATA, and the fault record whose SENT
follows its acknowledgement (R465). -/
structure TxCw where
  first : Bool
  last : Bool
  data : List Byte
  note : Option Nat := none
  deriving DecidableEq, Repr

/-- A bulk flow to and from a peer on a stream (R172 to R176). -/
structure Flow where
  peer : Nat
  stream : Nat
  /-- SEQ of the first codeword of the queue. -/
  txAck : Nat := 0
  txQueue : List TxCw := []
  /-- How many of the queue have been sent since the last resend, and how many have spent a credit. -/
  txSent : Nat := 0
  txPaid : Nat := 0
  credits : Nat
  /-- Next SEQ expected, credits freed and not yet returned, an ACK_SEQ or credit is owed. -/
  rxNext : Nat := 0
  rxCredits : Nat := 0
  owed : Bool := false
  /-- Data of the message being received. -/
  rxData : List Byte := []
  deriving DecidableEq, Repr

/-- A remote access request in progress at the requester (R177). -/
structure RraPend where
  node : Nat
  write : Bool
  count : Nat
  addr : Nat
  /-- SCN at which the request was sent (R178). -/
  scn : Word := 0
  deriving DecidableEq, Repr

structure RngSt where
  /-- Ring word received for ring X and ring Y: LANE_E, LANE_W, SEND_E, SEND_W (R162). -/
  wordX : Option Nat := none
  wordY : Option Nat := none
  /-- Codewords for the node's own consumers that no command has taken yet, in the order of R165. -/
  rx : List Arrival := []
  /-- Neighbour position by port, from its NBR codewords; 0xFF none. -/
  nbr : Bank Nat := []
  /-- At the primary: the neighbour report of each node (log entry 60), by position. -/
  nbrs : Bank Word := []
  /-- Uplink items taken in this cycle, and jury words with their senders (R165, R404). -/
  upItems : List Item := []
  jury : List (Nat × Nat) := []
  /-- Command items staged for a boundary: SCN[7:0] of the item with it (R39). -/
  staged : List Item := []
  /-- Commands in force. -/
  inForce : List Item := []
  /-- SCN of the boundary the taken DN serves; a valid DN arrived on time. -/
  dnServed : Bool := false
  dnLate : Bool := false
  /-- Status word prepared at the boundary for the next ACK (R164). -/
  ackWord : Nat := 0
  /-- Own uplink items sealed for this cycle: index, SCN, value. -/
  upOut : List Item := []
  /-- The UP codeword of the cycle has been assembled (R360). -/
  upSent : Bool := false
  /-- Command items formed by the loops and balancer of a HEAD for the next boundary. -/
  dnOut : List Item := []
  flows : List Flow := []
  /-- Transit buffer by port: diverted codewords waiting for an IDLE position (R174). -/
  transit : Bank (List (List Byte)) := []
  /-- The request of the RNG_RRA registers, and the one of the supervisory port. -/
  rra : Option RraPend := none
  rraHost : Option RraPend := none
  /-- Uplink items missing at the last deadline: origin and index. -/
  missing : List (Nat × Nat) := []
  /-- Status items of the last ACK of each origin (R164). -/
  status : List Item := []
  /-- The neighbour reports as they arrive; `nbrs` keeps a broken link broken until its unfold (R154). -/
  raw : Bank Word := []
  /-- Named unfold boundary of ring X and of ring Y (R154). -/
  unfoldX : Option Word := none
  unfoldY : Option Word := none
  /-- At the primary: nodes whose last health report showed a lane with SER_DEC below 8 (R180, R415). -/
  serLow : List Nat := []
  /-- At the primary: what R181 and R180 have raised and still holds: bit 0 X folded, 1 Y folded, 2 X split, 3 Y split,
  4 guarantee; positions isolated; positions whose TRIP_REQ the last deadline saw. -/
  audit : Nat := 0
  isolated : List Nat := []
  tripReq : List Nat := []
  /-- Origins of which a copy that differs from the one taken shows TRIP_REQ in this cycle (R469). -/
  tripSeen : List Nat := []
  deriving DecidableEq, Repr

/-- Time measurement of one port (R195, R196). -/
structure LinkTime where
  /-- T_TX and T_RX of the last NBR received, its arrival, and T_TX of the last NBR sent, as 48-bit STIME. -/
  t1 : Option (BitVec 48) := none
  t2 : BitVec 48 := 0
  t4 : Option (BitVec 48) := none
  t3 : Option (BitVec 48) := none
  /-- T_TX of the NBR sent before that one, and the one the peer last reported with its T_RX. -/
  t3p : Option (BitVec 48) := none
  t3m : Option (BitVec 48) := none
  locked : Bool := false
  root : Nat := 0xFF
  hops : Nat := 0xFF
  peer : Nat := 0xFF
  chain : Frac := Frac.zero
  /-- Last measured θ, ns. -/
  theta : Option Frac := none
  /-- The last 64 mean delays, newest first. -/
  delays : List Frac := []
  /-- An NBR of this cycle offered HOPS lower by at least 4; consecutive cycles in which one did (R198). -/
  low : Bool := false
  lowRun : Nat := 0
  deriving DecidableEq, Repr

/-- One time-pulse output (R207); times in ns of STIME with its wraps counted in. -/
structure TpoSt where
  active : Bool := false
  /-- START as it lay when the train was planned, and the next leading edge, when one is scheduled. -/
  origin : Nat := 0
  next : Option Nat := none
  /-- Elapsed station time (`TimSt.acc`) at which the pulse in progress ends. -/
  endAt : Nat := 0
  /-- Writes waiting for the end of the pulse in progress (R209). -/
  waiting : List (TpoReg × Word) := []
  deriving DecidableEq, Repr

structure TimSt where
  /-- STIME in units of 2^-40 ns, below 2^72; bits [71:24] are the 48 bits of R183. -/
  stime : Nat := 0
  /-- Wraps of STIME, counted from 1. -/
  wraps : Nat := 65536
  /-- LTIME of the next boundary (R185). -/
  nextB : Nat := 312500
  /-- LTIME of the last boundary. -/
  lastB : Nat := 0
  yP : Frac := Frac.zero
  yI : Frac := Frac.zero
  chain : Frac := Frac.zero
  port : Bank LinkTime := []
  /-- The last |θ|, newest first; runs of R193; updates with the clamp held (R211). -/
  thetas : List Frac := []
  okRun : Nat := 0
  badRun : Nat := 0
  ylimRun : Nat := 0
  /-- The source was lost after LOCKED (HOLD). -/
  lost : Bool := false
  /-- Base tick of the last accepted TIM_OFFSET write, none since SRC_HOST was set; base tick at which that was (R202, R203). -/
  lastOfs : Option Nat := none
  srcAt : Nat := 0
  /-- Consecutive cycles without a new measurement from the upstream; base tick at which HOLD was entered (R194). -/
  noUp : Nat := 0
  holdAt : Nat := 0
  /-- Consecutive cycles of disagreement of R200. -/
  xRun : Nat := 0
  tpo : Bank TpoSt := []
  /-- Station time elapsed since release of reset in units of 2^-40 ns, steps of R192 not counted. -/
  acc : Nat := 0
  deriving DecidableEq, Repr

/-- A lattice channel beyond its registers. -/
structure ChanSt where
  /-- Tick of station time (its wraps counted in) at which the period in progress began, E0. -/
  e0 : Nat := 0
  /-- Leg command H. -/
  h : Bool := false
  /-- CMP0 in force for FREE (R294). -/
  cmp0Act : Nat := 0
  /-- Compares of the period in progress and the substituted duty (R294, R295). -/
  cmp0 : Nat := 0
  cmp1 : Nat := 0
  duty : Nat := 0
  /-- The length from which E1 and the compares of the period were formed at its E0; a resynchronisation leaves it (R292). -/
  len0 : Nat := 0
  /-- The length L of the period in progress; PWM_LCHn_LEN shows its low 32 bits. -/
  len : Nat := 0
  /-- Events that have fired in the period in progress or lie behind its position: bits 1 to 3 for E1 to E3 (R293). -/
  fired : Nat := 0
  /-- Tick of the channel's most recent sync boundary (R291). -/
  syncB : Nat := 0
  /-- Fabric cycle in which HOLD was last cleared: no reload of that cycle transfers (R298). -/
  unheld : Option Nat := none
  /-- Fabric cycle of the last reload of period and phase (E0), and of the duty (E0 or E1). -/
  lastE0 : Option Nat := none
  lastDuty : Option Nat := none
  /-- Shadows written in a fabric cycle: address, value before the write, fabric cycle (R298). -/
  fresh : List (Nat × Word × Nat) := []
  /-- A change of cycle length is unserved at this channel: its next resynchronisation raises nothing (R291, R292). -/
  quiet : Bool := false
  /-- The position at which a halt stopped the carrier (R312). -/
  stopped : Option Nat := none
  /-- Dead times in force: DT_LH, DT_HL, taken at E0 (R302). -/
  dtLH : Nat := 25
  dtHL : Nat := 25
  deriving DecidableEq, Repr

/-- A leg's switch commands from the lattice. -/
structure LegSt where
  hi : Bool := false
  lo : Bool := false
  /-- Switch whose turn-on waits for the dead time (R303). -/
  pend : Option Sw := none
  /-- Tick at which the dead interval ends. -/
  due : Nat := 0
  deriving DecidableEq, Repr

structure PwmSt where
  /-- Gate clamp of R65: the lattice does not drive the outputs. -/
  held : Bool := true
  /-- HALTED until REARM (R312, R314). -/
  halted : Bool := false
  ch : Bank ChanSt := []
  leg : Bank LegSt := []
  /-- Fabric cycle of the last trip of each group (R311). -/
  tripAt : Bank Nat := []
  /-- Activities of inputs that began while blanked and have not ended: mask. -/
  blanked : Nat := 0
  deriving DecidableEq, Repr

/-- A gate-drive channel, numbered 2·leg + (0 low, 1 high). -/
structure GateSt where
  /-- Base ticks at which L1 faults were counted, newest first (R336). -/
  l1 : List Nat := []
  /-- The channel passes only the next turn-on edge (R335, R445); on a bypass leg it stays on until its next edge. -/
  needEdge : Bool := false
  /-- The running soft turn-off ends in ESCAL (R336). -/
  escalate : Bool := false
  /-- The running soft turn-off ends in ESCAL by an L2 escalation (R341). -/
  l2esc : Bool := false
  /-- The soft turn-off belongs to SHOOT: the channel returns to NORMAL under the L2 latch (R339). -/
  shoot : Bool := false
  /-- Causes that persist: bootstrap undervoltage or charge time-out, VDRV, VNEG. -/
  uvBs : Bool := false
  uvVdrv : Bool := false
  uvVneg : Bool := false
  /-- The gate is driven on. -/
  on : Bool := false
  /-- The Miller clamp holds the gate at its off level (R321). -/
  clamp : Bool := false
  /-- Base tick at which the channel entered its state of R334, or its WAIT timer started anew. -/
  since : Nat := 0
  /-- The lattice's command, and the base tick at which it last changed (R332, R344). -/
  cmd : Bool := false
  cmdAt : Nat := 0
  /-- A self-test is requested, and the base tick at which the next one falls due (R344). -/
  inj : Bool := false
  injAt : Nat := 0
  deriving DecidableEq, Repr

structure GateLeg where
  l2 : List Nat := []
  /-- Base tick at which the L2 latch was set. -/
  l2At : Nat := 0
  /-- Drive steps in force: band (R320). -/
  band : Nat := 1
  /-- The trickle pump runs (R327). -/
  pump : Bool := false
  /-- Base tick from which the charge time-out runs, none before the leg's first RUN after IDLE (R328, R343). -/
  runAt : Option Nat := none
  deriving DecidableEq, Repr

structure GdSt where
  ch : Bank GateSt := []
  leg : Bank GateLeg := []
  /-- Self-tests passed and failed in the health period: bit 2n low, 2n + 1 high (R415). -/
  passed : Nat := 0
  failed : Nat := 0
  /-- Base tick at which the next derating values fall due (R345). -/
  pubAt : Nat := 0
  deriving DecidableEq, Repr

/-- A member as the primary HEAD's table shows it (R409). -/
structure Member where
  /-- 0 not requested, 1 pending, 2 admitted, 3 HELD, 4 REFUSED. -/
  adm : Nat := 0
  stage : Nat := 0
  tier : Nat := 0
  ack : Nat := 0
  /-- REASON of a hold. -/
  reason : Nat := 0
  deriving DecidableEq, Repr

/-- What the primary keeps of a node's admission request (R109): the device, its digest, whether it lists the HEAD's, and
the SCN at which the node was HELD. -/
structure Ask where
  device : BitVec 64 := 0
  dig : BitVec 64 := 0
  lists : Bool := false
  heldAt : Word := 0
  deriving DecidableEq, Repr

/-- Duplex state beyond the DPX registers (R395 to R423). -/
structure DpxSt where
  /-- The node holds a tier (R397). -/
  hasTier : Bool := false
  /-- Listen window still open (R399). -/
  listening : Bool := false
  /-- A PRIMARY was heard in the listen window; another HEAD in service was heard at this HEAD's position (R112). -/
  heard : Bool := false
  twin : Bool := false
  mtab : Bank Member := []
  /-- Admission requests as the primary keeps them, by position. -/
  asks : Bank Ask := []
  /-- Jury bits of this cycle and of the previous one: PX, PY, OX, OY (R403). -/
  juryNow : Nat := 0
  juryPrev : Nat := 0
  /-- FLAGS of the other HEAD's last valid HB, and its SCN of reception. -/
  otherFlags : Nat := 0
  otherRole : Nat := 0xFF
  otherAt : Option Word := none
  /-- Base tick at which the primary last had an eligible standby, and whether its absence has been raised (R422). -/
  eligAt : Nat := 0
  noElig : Bool := false
  /-- SCN of the last Glaze sent (R408). -/
  glzSent : Option Word := none
  /-- Tick at which the next health report falls due (R415). -/
  healthAt : Nat := 0
  /-- The standby answers SWAP_ACK for the named W (R421). -/
  swapAck : Option Word := none
  /-- A promotion at T_UP awaits its claim HB, and its boundary P (R417). -/
  claimHb : Bool := false
  promote : Bool := false
  /-- IN_CRC of the inputs latched at the last T_UP (R413), and whether T_UP of this cycle has passed. -/
  inCrc : Nat := 0
  tup : Bool := false
  /-- A planned swap gave the HEAD its role at the last boundary: the new standby holds the Glaze of the cycle before
  itself, the new primary makes it current (R421). -/
  swapped : Bool := false
  /-- CSEQ of the last Glaze made current before the promotion (R538). -/
  foCseq : Word := 0
  /-- The Glaze being received: chunks by index, its SCN, and how many have come (R410, R412). -/
  glazeRx : Bank (List Byte) := []
  glazeScn : Word := 0
  glazeChunks : Nat := 0
  /-- A Glaze complete, waiting for T_UP: its bytes, and whether its comparison waits for commits of this HEAD (R413). -/
  glazeDone : Option (List Byte) := none
  proofDue : Bool := false
  /-- Health period: compared, skipped, missed, mismatched cycles, first mismatch offset and SCN. -/
  perCmp : Nat := 0
  perSkip : Nat := 0
  perMiss : Nat := 0
  perMm : Nat := 0
  perOfs : Word := 0xFFFFFFFF
  perScn : Word := 0
  cleanReports : Nat := 0
  reportNo : Word := 0
  /-- Words 1 to 31 of the health report latched by the last read of DPX_HEALTH0 (R415). -/
  latHealth : Option (List Word) := none
  /-- Engine self-checks in the period: runs, failures (R415). -/
  selfRuns : Nat := 0
  selfFails : Nat := 0
  deriving DecidableEq, Repr

/-- The element a fault names, as its fault table scopes it. -/
inductive Scope where
  | switch (leg : Nat) (sw : Sw)
  | leg (leg : Nat)
  | bridge (bridge : Nat)
  /-- The L4 element that holds the leg: the node, or the share of a SECONDARY. -/
  | cellOfLeg (leg : Nat)
  /-- The node as a whole: L4, or the node-wide L6 code of a SECONDARY (R27). -/
  | node
  /-- L4 of another position, as a HEAD names it. -/
  | position (pos : Nat)
  /-- A stack, the whole station, or an explicit code. -/
  | stack (stack : Nat)
  | station
  | code (c : Word)
  deriving DecidableEq, Repr

/-- A raise at this node: its code, class, element and instance, and whether its cause has already ended (R472). -/
structure Raise where
  code : Nat
  cls : Nat
  scope : Scope
  kind : Nat := 0
  inst : Nat := 0
  ended : Bool := true
  broken : Bool := false
  /-- Tells apart causes of one code and instance. -/
  tag : Nat := 0
  deriving DecidableEq, Repr

/-- A cause merged into a record (R460, R472). -/
structure Cause where
  /-- Record number; none when the raise was not recorded. -/
  recNo : Option Nat
  code : Nat
  kind : Nat
  inst : Nat
  cls : Nat
  /-- FC2 acted on by its own block (R467). -/
  own : Bool
  ended : Bool
  released : Bool
  /-- Tells apart causes of one code and instance. -/
  tag : Nat := 0
  deriving DecidableEq, Repr

/-- A reaction the collector holds (R466 to R470). -/
structure Hold where
  /-- Record that holds it; none is an unrecorded hold (R463). -/
  recNo : Option Nat
  cls : Nat
  /-- Legs FORCED. -/
  legs : BitVec 6
  /-- Node-safe of the whole node; shares in node-safe. -/
  node : Bool
  shares : BitVec 3
  deriving DecidableEq, Repr

/-- The batch being applied by the ring agent (R478). -/
structure Applying where
  entry : Nat
  next : Nat
  deriving DecidableEq, Repr

structure FltSt where
  /-- The lockout latch: kept by every reset but POR (R568). -/
  lockout : Bool := false
  openRec : Option Nat := none
  /-- Base tick at which the open record opened; records whose merging time is over and that wait for their close (R460). -/
  openAt : Nat := 0
  closing : List Nat := []
  /-- Error pairs of the detectors that FAULT_RAISE and BROKEN_PAIR speak of which do not read (1,0): code, instance, broken,
  base tick of the change (R454, R455). -/
  pairs : List (Nat × Nat × Bool × Nat) := []
  causes : List Cause := []
  holds : List Hold := []
  /-- Base ticks at which FC3 records opened, newest first (R470). -/
  fc3 : List Nat := []
  /-- Base tick of the last merge into a record: fabric cycle (R472). -/
  mergeAt : Option (Nat × Nat) := none
  /-- Words latched by a read of W0: record and words 1 to 7; entry and words 1 to 15. -/
  latRec : Option (Nat × List Word) := none
  latLed : Option (Nat × List Word) := none
  /-- Consecutive T_UP without TRIP_REQ, held at 8 (R474). -/
  quiet : Nat := 0
  /-- Boundary C of a station clear in progress. -/
  clearAt : Option Word := none
  /-- Items of the staged batches by ledger entry: address, value (R477). -/
  items : Bank (List (Word × Word)) := []
  applying : List Applying := []
  /-- Base tick at which the ring agent applies its next item (R478). -/
  applyAt : Nat := 0
  /-- At the primary: outcomes that targets have sent: batch, position, ledger words W2, W3 to W10 and W13 (log entry 62). -/
  outcomes : List (Word × Nat × List Word) := []
  deriving DecidableEq, Repr

/-- An input of a slot as latched at its group's trigger (R220). -/
inductive Latch where
  | value (w : Word)
  | missing
  /-- The output of a lower-numbered slot in the same evaluation. -/
  | same (slot : Nat)
  deriving DecidableEq, Repr

/-- A slot taking part in an evaluation, with what its trigger fixed (R220, R229). -/
structure SlotLatch where
  slot : Nat
  ref : Latch
  fb : Latch
  ff : Latch
  /-- Bank in force: 0 A, 1 B. -/
  bank : Nat
  /-- The evaluation is the swap evaluation. -/
  swap : Bool
  out : Word
  deriving DecidableEq, Repr

/-- A loop slot beyond its record (R221, R229). -/
structure EngSlot where
  /-- Last valid values of ref, fb and ff. -/
  lastRef : Word := 0
  lastFb : Word := 0
  lastFf : Word := 0
  /-- Consecutive missing evaluations. -/
  miss : Nat := 0
  /-- The next evaluation is the swap evaluation. -/
  swapped : Bool := false
  deriving DecidableEq, Repr

/-- A rate group: its evaluation in progress with its slots and contests, the tick of its trigger, and the ticks at which its
next triggers fall due, oldest first (R233). -/
structure EngGroup where
  run : Option (List SlotLatch) := none
  contests : List Nat := []
  trig : Nat := 0
  due : List Nat := []
  /-- An uncorrectable word of a slot record was read: the evaluation cannot commit (R241). -/
  doomed : Bool := false
  deriving DecidableEq, Repr

structure EngSt where
  slot : Bank EngSlot := []
  grp : Bank EngGroup := []
  /-- Local results by index (R218, R258): binary32, none while missing. -/
  res : Bank (Option Word) := []
  /-- Fabric cycle and slots of the last executed swap (R225). -/
  swapAt : Option (Nat × List Nat) := none
  /-- Slot whose copy PEEK waits for (R244). -/
  peek : Option Nat := none
  deriving DecidableEq, Repr

/-- A triggered conversion that has not been held (R354 to R356): the tick of its trigger and its programmed hold instant. -/
structure AdcPend where
  chan : Nat
  scn : Nat
  trig : Nat
  hold : Nat
  deriving DecidableEq, Repr

/-- A conversion past its hold instant; `slot` none is a housekeeping conversion. -/
structure AdcConv where
  slot : Option Nat
  chan : Nat
  scn : Nat
  stime : Nat
  late : Bool
  lp : Bool
  shadow : Bool
  /-- Tick at which the conversion ends (R352, R353). -/
  done : Nat
  deriving DecidableEq, Repr

/-- The last housekeeping result of a channel (R363). -/
structure HkRes where
  code : Nat
  ovr : Bool
  shadow : Bool
  /-- Tick at which the conversion ended. -/
  done : Nat
  deriving DecidableEq, Repr

structure AdcSt where
  pend : Bank (Option AdcPend) := []
  /-- Ticks at which a slot's next triggers fall due, oldest first, each with the SCN of its cycle (R354, R358). -/
  due : Bank (List (Nat × Nat)) := []
  /-- Tick at which a converter became free or becomes free after its mode switch, and its last over-range end (R356, R362). -/
  freeAt : Bank Nat := []
  ovrEnd : Bank Nat := []
  /-- Base tick at which a converter's next reference check falls due (R363). -/
  refAt : Bank Nat := []
  /-- Conversion in progress by converter. -/
  conv : Bank (Option AdcConv) := []
  /-- Converters in the mode-switch interval, and converters whose last conversion was over-range: masks. -/
  switching : Nat := 0
  ovrLast : Nat := 0
  /-- Slots whose last conversion was over-range: mask. -/
  ovrRun : Nat := 0
  /-- Channel writes of a fabric cycle: slot, channel before, fabric cycle (R355). -/
  chFresh : List (Nat × Nat × Nat) := []
  /-- VAL, STIME and SEAL latched by a read of RAW (R359). -/
  latch : Bank (Word × Word × Word) := []
  /-- Housekeeping results: 32·converter + channel. -/
  hk : Bank (Option HkRes) := []
  deriving DecidableEq, Repr

/-- A temperature sensor (R499, R501). -/
structure ThmSensor where
  fails : Nat := 0
  /-- The last reading was at or above SHUT. -/
  shut1 : Bool := false
  /-- Tick at which the next reading falls due (R500). -/
  due : Nat := 0
  deriving DecidableEq, Repr

structure MemSt where
  /-- ECC words with an error, by address: true is poisoned, false a single-bit error not yet written back. -/
  err : List (Nat × Bool) := []
  /-- Next address of the running scrub, with its counts so far: CE, UE, first UE; its last address, the base tick of its
  next read, and an ABORT that waits for the next word (R492). -/
  scrub : Option (Nat × Nat × Nat × Option Nat) := none
  scrubLast : Nat := 0
  scrubAt : Nat := 0
  scrubStop : Bool := false
  /-- By region, the count of LEAK periods of station time at its last leak (R491). -/
  leaks : Bank (Option Nat) := []
  deriving DecidableEq, Repr

structure ThmSt where
  sens : Bank ThmSensor := []
  /-- A record is being written; a read waits: index. -/
  busy : Bool := false
  sel : Option Nat := none
  deriving DecidableEq, Repr

/-- A cell of the balancer beyond its registers: last valid voltage; cycles in which neither of its items came (R270). -/
structure BalCell where
  v : Option Word := none
  lost : Nat := 0
  deriving DecidableEq, Repr

/-- A stack of the balancer: last valid m_s and shift, runs in a row with TRIM_SAT, and whether N_act below N_MIN has been
raised (R282). -/
structure BalStk where
  m : Word := 0
  d : Word := 0
  satRun : Nat := 0
  low : Bool := false
  deriving DecidableEq, Repr

/-- A pending bypass or rejoin request (R280): operation, position, boundary, and whether a run has taken its cell to
JOINING. -/
structure BalReq where
  op : Nat
  pos : Nat
  bound : Word
  joined : Bool
  deriving DecidableEq, Repr

structure BalSt where
  cell : Bank BalCell := []
  stk : Bank BalStk := []
  /-- Cycles without item 0xFE01 of a SECONDARY, by position. -/
  sec : Bank Nat := []
  req : Option BalReq := none
  /-- The balancer runs: from the full-service boundary that set the cells up, or at a standby from its splice (R269, R286). -/
  started : Bool := false
  /-- The next run is the first after the full-service boundary: every switching cell enters in it (R276). -/
  first : Bool := false
  /-- A run has committed in this cycle. -/
  done : Bool := false
  /-- Items of the last run (R287). -/
  items : List (Nat × Word) := []
  /-- Base tick of the trigger of the run in progress. -/
  trig : Nat := 0
  /-- At a member: the balancer commands the bypass closed; legs it lets run (R285, R305, R307). -/
  byp : Bool := true
  legs : Nat := 0
  deriving DecidableEq, Repr

/-- A safe input (R430 to R433); times in samples of 10 µs. -/
structure SafIn where
  lo : Nat := 0
  hi : Nat := 0
  disc : Nat := 0
  dem : Bool := false
  fault : Bool := false
  /-- Step of the clearing of R433: 0 none, 1 waiting for both low, 2 both high, 3 TP_PER; samples in the step. -/
  stage : Nat := 0
  run : Nat := 0
  lastA : Bool := false
  lastB : Bool := false
  deriving DecidableEq, Repr

/-- A member's safety word as a HEAD holds it (R438): last word, consecutive cycles without a copy, and the single-ring
runs of its two items. -/
structure SafWord where
  word : Option Word := none
  lost : Nat := 0
  single : Bool := false
  single1 : Bool := false
  deriving DecidableEq, Repr

/-- A HEAD's SAFE words 0xFF80 to 0xFF82; none where the seal failed. -/
structure SafeCopy where
  w0 : Word
  w1 : Option Word
  w2 : Option Word
  deriving DecidableEq, Repr

/-- What a node keeps of one HEAD's SAFE data (R442, R443). -/
structure SafHead where
  res : Option SafeCopy := none
  /-- Consecutive cycles without a valid copy; a valid copy in this cycle. -/
  miss : Nat := 0
  got : Bool := false
  single : Bool := false
  /-- Open window: ring of its first copy, and the copy; the tick and the cycle of its opening. -/
  win : Option (Ring × SafeCopy) := none
  winAt : Nat := 0
  winScn : Word := 0
  /-- The window of this cycle has closed. -/
  shut : Bool := false
  deriving DecidableEq, Repr

structure SafSt where
  inp : Bank SafIn := []
  /-- Test sources in their gap; base tick at which the last gap began, and at which the next one falls due; base tick at
  which the mask of the last gap ends (R427, R429); sources off at their limit. -/
  gapA : Bool := false
  gapB : Bool := false
  atA : Nat := 0
  atB : Nat := 0
  dueA : Nat := 0
  dueB : Nat := 0
  maskA : Nat := 0
  maskB : Nat := 0
  limit : Nat := 0
  /-- Base ticks at which the next sample (R429) and the next local evaluation (R444) fall due. -/
  smpAt : Nat := 0
  evalAt : Nat := 0
  /-- Base ticks at which the EDM inputs of SO0 and SO1 are checked (R448). -/
  edm0 : Option Nat := none
  edm1 : Option Nat := none
  /-- The decision of this cycle has been taken (R436). -/
  decided : Bool := false
  /-- What the local demand names (R444). -/
  locInh : Bool := false
  /-- The two channels of the local logic disagreed at the last evaluation (R444). -/
  disagree : Bool := false
  loc0 : Bool := false
  loc1 : Bool := false
  /-- Channels of the safe outputs commanded on, bit 2x + channel, and channels in a dark test. -/
  so : Nat := 0
  dark : Nat := 0
  /-- Member safety items taken in this cycle: position, ring, item index, value. -/
  up : List (Nat × Ring × Nat × Word) := []
  words : Bank SafWord := []
  latched : Nat := 0
  /-- Base tick at which the reset input of SFk was pressed. -/
  press : Bank (Option Nat) := []
  head : Bank SafHead := []
  /-- LISTEN: SAFE data heard, consecutive cycles with a result (R439). -/
  heard : Bool := false
  run8 : Nat := 0
  diffRun : Nat := 0
  /-- Station demand in force; a result has been formed since binding. -/
  dem : Nat := 0
  seen : Bool := false
  /-- Safety words formed at the boundary (R440). -/
  upWords : Option (Word × Word) := none
  deriving DecidableEq, Repr

/-- A report in a session's queue, or sent and not acknowledged (R537, R540, R541). -/
structure QRep where
  rseq : Word
  kind : Nat
  prio : Nat
  body : List Byte
  /-- Transmissions so far, and the base tick of the last. -/
  sends : Nat := 0
  sentAt : Nat := 0
  deriving DecidableEq, Repr

/-- An accepted request of the host (R520). -/
structure Req where
  sess : Nat
  typ : Nat
  seq : Word
  node : Nat
  atom : Bool := false
  body : List Byte
  deriving DecidableEq, Repr

/-- One access of a request that the ring agent makes at another node: a read, or a write of these words (R535). -/
inductive HostStep where
  | rd (addr count : Nat)
  | wr (addr : Nat) (ws : List Word)
  deriving DecidableEq, Repr

/-- The request in execution (R520): what is left to do at another node, the words done and read, and for a batch the
targets that have acknowledged. -/
structure Active where
  req : Req
  steps : List HostStep := []
  done : Nat := 0
  data : List Word := []
  acks : List Nat := []
  /-- SCN and base tick of its start, or of its last remote access (R535, R536, R546). -/
  scn : Word := 0
  at_ : Nat := 0
  deriving DecidableEq, Repr

/-- A session beyond SUP_SESSn_STAT (R523 to R541). -/
structure Sess where
  sub : Word := 0
  /-- Addresses of its last valid message (R513). -/
  addr : List Byte := []
  /-- Its four keys, and the confirmation S_A that phase 3 must bring (R524). -/
  keys : List Byte := []
  sa : List Byte := []
  /-- ENC was asked for and comes into use after phase 3 (R525). -/
  enc : Bool := false
  lastSeq : Word := 0
  /-- Base tick of the last valid message. -/
  seen : Nat := 0
  queue : List QRep := []
  wait : List QRep := []
  /-- Tokens in units of 1/1 562 500 000 at base tick bucketAt (R540). -/
  bucket : Nat := 0
  bucketAt : Nat := 0
  /-- A run of dropped reports is under way. -/
  dropRun : Bool := false
  /-- Next SEQ of TIME OP 1 (R526). -/
  timeSeq : Word := 1
  /-- The waiting RECV, and the base tick at which it began to wait (R560). -/
  recv : Option Req := none
  recvAt : Nat := 0
  /-- SCN of the last look at a channel of another node (R560). -/
  polled : Option Word := none
  deriving DecidableEq, Repr

structure SupSt where
  sess : Bank Sess := []
  queue : List Req := []
  active : Option Active := none
  /-- Base tick of the last drop that raised row 2 of R547. -/
  badAt : Option Nat := none
  /-- Reports dropped at P0, P1 and P2 since the last DROPPED report (R538). -/
  drop0 : Nat := 0
  drop1 : Nat := 0
  drop2 : Nat := 0
  /-- Base ticks of the PTP frames forwarded and echoes answered in the last second. -/
  ptpAt : List Nat := []
  ptpRun : Bool := false
  echoAt : List Nat := []
  /-- BATCH reports due: batch id and SCN (R538). -/
  batchDue : List (Word × Word) := []
  /-- Record of the link fault whose cause lasts until the link returns (R547). -/
  linkFault : Bool := false
  deriving DecidableEq, Repr

/-- Mailbox state beyond the MBX registers: SCN of the GO of a channel whose transfer is under way, the channels that
have raised row 1 of R561 since their last accepted GO, and the channels whose state changed in a fabric cycle with the
state at its start (R554): channel, fabric cycle, FULL. -/
structure MbxSt where
  goAt : Bank (Option Word) := []
  raised : Nat := 0
  was : List (Nat × Nat × Bool) := []
  deriving DecidableEq, Repr

/-- Sums of one metered element over the line cycle in progress, binary64 words (R376): v·i·dt, h·i·dt, v²·dt, i²·dt. -/
structure MtrElem where
  p : Nat := 0
  q : Nat := 0
  vv : Nat := 0
  ii : Nat := 0
  deriving DecidableEq, Repr

/-- P, Q and S of one element and kind over a line cycle, in W·s, binary64 words (R376). -/
structure MtrPqs where
  p : Nat
  q : Nat
  s : Nat
  deriving DecidableEq, Repr

/-- An accumulator (R379, R381): its count, the second copy of it, and the residue below one unit. -/
structure MtrAcc where
  acc : Nat := 0
  copy : Nat := 0
  res : Frac := Frac.zero
  deriving DecidableEq, Repr

/-- A pulse output PLSn (R387). -/
structure PlsSt where
  src : Nat := 0
  weight : Nat := 0
  res : Frac := Frac.zero
  pending : Nat := 0
  active : Bool := false
  /-- SRC, WGT or EXP has been written and takes effect at the next update. -/
  fresh : Bool := true
  /-- Base tick of the last leading edge, and from which the next pulse may begin. -/
  edgeAt : Nat := 0
  freeAt : Nat := 0
  deriving DecidableEq, Repr

/-- A test-frequency output DFCn (R388): energy not yet owed in W·s, pulses owed, sample intervals left of the running
pulse and its gap. -/
structure DfcSt where
  res : Frac := Frac.zero
  owed : Nat := 0
  busy : Nat := 0
  deriving DecidableEq, Repr

/-- A job of the signer (R384, R385, R546): a record, or an attestation with its nonce for a session of this node (peer
none) or for a request relayed by a HEAD. -/
inductive SignJob where
  | record (auto : Bool)
  | attest (peer : Option Nat) (sess seq : Nat) (nonce : List Byte)
  deriving DecidableEq, Repr

/-- Metering beyond the MTR registers (R367 to R393). -/
structure MtrSt where
  /-- The unit has started (R367). -/
  on : Bool := false
  /-- `TimSt.acc` at the last sample (R372), and the intervals of the line cycle in progress, in units of 2^-40 ns. -/
  lastAcc : Nat := 0
  tc : Nat := 0
  /-- Samples of the line cycle in progress. -/
  count : Nat := 0
  /-- Quarter base tick at which the next sample falls due (R370). -/
  next : Nat := 0
  /-- `TimSt.acc` at the start of the line cycle in progress, and at the last zero crossing (R373, R374). -/
  cycAt : Nat := 0
  crossAt : Option Nat := none
  /-- Second of the last automatic snapshot (R385). -/
  autoSec : Option Nat := none
  elem : Bank MtrElem := []
  /-- x²·dt by channel, binary64. -/
  sq : Bank Nat := []
  /-- Channels at full scale in their last sample: mask. -/
  ovRun : Nat := 0
  /-- Line cycles that have ended and wait for their update, oldest first: fundamental A, B, C, sum, total A, B, C, sum. -/
  cycles : List (List MtrPqs) := []
  acc : Bank MtrAcc := []
  /-- NOREF, and OVLD, since the previous signed snapshot; LOST at the start of the series (R386). -/
  noref : Bool := false
  ovld : Bool := false
  lostStart : Bool := false
  pls : Bank PlsSt := []
  dfc : Bank DfcSt := []
  /-- The signer's jobs, the running one first. -/
  jobs : List SignJob := []
  /-- Base tick at which the running job started (R384). -/
  jobAt : Nat := 0
  deriving DecidableEq, Repr



/-- The vendor key the boot ROM is taken to hold: the base point of the curve (DESIGN CHOICE, log entry 55). -/
def vendorKeyReset : BitVec 512 :=
  0x32C4AE2C1F1981195F9904466A39C9948FE30BBFF2660BE1715A4589334C74C7BC3736A2F4F6779C59BDCEE36B692153D0A9877CC62A474002DF32E52139F0A0

/-- The node. -/
structure State where
  /-- Register windows and coefficient RAM by address; an unlisted word reads `resetWord`. -/
  regs : List (Nat × Word) := []
  /-- SRAM bytes by address; an unlisted byte reads 0 (R484). -/
  mem : List Host.Cell := []
  sys : SysSt := {}
  vault : VaultSt := {}
  clk : ClkSt := {}
  /-- The configuration flash (R92). -/
  flash : FlashChip := {}
  /-- The vendor public key in boot ROM, x then y (R97); its value is log entry 55's. -/
  vendorKey : BitVec 512 := vendorKeyReset
  fuse : FuseSt := {}
  img : ImgSt := {}
  lnk : LnkSt := {}
  rng : RngSt := {}
  tim : TimSt := {}
  pwm : PwmSt := {}
  gd : GdSt := {}
  dpx : DpxSt := {}
  flt : FltSt := {}
  eng : EngSt := {}
  adc : AdcSt := {}
  memx : MemSt := {}
  thm : ThmSt := {}
  bal : BalSt := {}
  saf : SafSt := {}
  sup : SupSt := {}
  mbx : MbxSt := {}
  mtr : MtrSt := {}
  /-- Raises of the present fabric cycle that wait for the order of R460; none between commands. -/
  raises : List Raise := []
  /-- What the node has sent and driven, oldest first. -/
  out : List Out := []
  /-- Index of the next free value (log entry 2). -/
  free : Nat := 0
  /-- Commands waiting, first in first out. -/
  pending : List Instr := []
  deriving DecidableEq, Repr

/-- The node right after a power-on reset, still in reset: every register at its reset value, SRAM zero, nothing
pending. -/
def State.reset : State := {}

/-- What an unlisted SRAM byte reads as (R484). -/
def memDefault (_ : Nat) : Byte := 0

/-- The SRAM list is in canonical form. -/
def Memory.wf (m : List Host.Cell) : Bool := Sparse.wf memDefault m

/-- The register bank is in canonical form. -/
def Regs.wf (r : List (Nat × Word)) : Bool := Sparse.wf resetWord r

end Sys2Proof.Machine
end

