-- ==== Sys2Proof/Machine/Ops.lean ====
section
/-! DEFINITION. Machine/Ops.lean: the named operations every family shares: registers and fields, SRAM bytes, the
hidden banks, roles and stages, location codes (R25 to R27), the fault collector (R454 to R475) and the leg states it
moves (R304 to R307).
Marked choices: log entries 2, 4, 7, 9, 13, 24, 53 (DESIGN CHOICE); log entries 12, 14, 21, 32, 33, 38, 40, 67 (DEDUCED). -/
namespace Sys2Proof.Machine

/-! ### Registers, fields, memory and banks -/

/-- The word at a register or coefficient-RAM address. -/
def State.rd (s : State) (a : Nat) : Word := Sparse.get resetWord s.regs a

/-- Write the word at a register or coefficient-RAM address. -/
def State.wr (s : State) (a : Nat) (v : Word) : State := { s with regs := Sparse.set resetWord s.regs a v }

/-- The value of a field. -/
def State.get (s : State) (f : Fld) : Nat := f.get (s.rd f.addr)

/-- Set a field. -/
def State.put (s : State) (f : Fld) (v : Nat) : State := s.wr f.addr (f.put (s.rd f.addr) v)

/-- A one-bit field as a truth value. -/
def State.flag (s : State) (f : Fld) : Bool := s.get f != 0

def State.setFlag (s : State) (f : Fld) (b : Bool) : State := s.put f (b2n b)

/-- Add to a counter that saturates at its field's largest value. -/
def State.bump (s : State) (f : Fld) (n : Nat := 1) : State := s.put f (satAdd f.max (s.get f) n)

/-- Add to a counter that wraps. -/
def State.bumpWrap (s : State) (f : Fld) (n : Nat := 1) : State := s.put f (s.get f + n)

/-- Saturating 32-bit counter register. -/
def State.bumpReg (s : State) (a : Nat) (n : Nat := 1) : State :=
  s.wr a (BitVec.ofNat 32 (satAdd 0xFFFFFFFF (s.rd a).toNat n))

/-- A 32-bit register as a number. -/
def State.num (s : State) (a : Nat) : Nat := (s.rd a).toNat

/-- Write a 32-bit register from a number. -/
def State.wrN (s : State) (a v : Nat) : State := s.wr a (BitVec.ofNat 32 v)

/-- One byte of SRAM. -/
def State.byte (s : State) (a : Nat) : Byte := Sparse.get memDefault s.mem a

/-- Write one byte of SRAM. -/
def State.setByte (s : State) (a : Nat) (v : Byte) : State := { s with mem := Sparse.set memDefault s.mem a v }

/-- n bytes of SRAM, least significant first (R12). -/
def State.loadLe (s : State) (a : Nat) : Nat → Nat
  | 0 => 0
  | n + 1 => (s.byte a).toNat + 256 * State.loadLe s (a + 1) n

/-- Store n bytes of SRAM, least significant first. -/
def State.storeLe (s : State) (a : Nat) : Nat → Nat → State
  | 0, _ => s
  | n + 1, v => (s.setByte a (BitVec.ofNat 8 (v % 256))).storeLe (a + 1) n (v / 256)

/-- A record of a bank, its reset record where it is not listed. -/
def Bank.at {α : Type} (d : α) (b : Bank α) (i : Nat) : α := Sparse.get (fun _ => d) b i

/-- A bank with one record replaced. -/
def Bank.upd {α : Type} [DecidableEq α] (d : α) (b : Bank α) (i : Nat) (v : α) : Bank α :=
  Sparse.set (fun _ => d) b i v

def State.chan (s : State) (n : Nat) : ChanSt := Bank.at {} s.pwm.ch n
def State.setChan (s : State) (n : Nat) (c : ChanSt) : State :=
  { s with pwm := { s.pwm with ch := Bank.upd {} s.pwm.ch n c } }
def State.leg (s : State) (n : Nat) : LegSt := Bank.at {} s.pwm.leg n
def State.setLeg (s : State) (n : Nat) (l : LegSt) : State :=
  { s with pwm := { s.pwm with leg := Bank.upd {} s.pwm.leg n l } }
def State.gate (s : State) (c : Nat) : GateSt := Bank.at {} s.gd.ch c
def State.setGate (s : State) (c : Nat) (g : GateSt) : State :=
  { s with gd := { s.gd with ch := Bank.upd {} s.gd.ch c g } }
def State.gateLeg (s : State) (n : Nat) : GateLeg := Bank.at {} s.gd.leg n
def State.setGateLeg (s : State) (n : Nat) (g : GateLeg) : State :=
  { s with gd := { s.gd with leg := Bank.upd {} s.gd.leg n g } }
def State.port (s : State) (p : Nat) : PortSt := Bank.at {} s.lnk.port p
def State.setPort (s : State) (p : Nat) (v : PortSt) : State :=
  { s with lnk := { s.lnk with port := Bank.upd {} s.lnk.port p v } }
def State.lane (s : State) (p l : Nat) : LaneSt := Bank.at {} s.lnk.lane (2 * p + l)
def State.setLane (s : State) (p l : Nat) (v : LaneSt) : State :=
  { s with lnk := { s.lnk with lane := Bank.upd {} s.lnk.lane (2 * p + l) v } }
def State.link (s : State) (p : Nat) : LinkTime := Bank.at {} s.tim.port p
def State.setLink (s : State) (p : Nat) (v : LinkTime) : State :=
  { s with tim := { s.tim with port := Bank.upd {} s.tim.port p v } }
def State.tpo (s : State) (n : Nat) : TpoSt := Bank.at {} s.tim.tpo n
def State.setTpo (s : State) (n : Nat) (v : TpoSt) : State :=
  { s with tim := { s.tim with tpo := Bank.upd {} s.tim.tpo n v } }
def State.member (s : State) (p : Nat) : Member := Bank.at {} s.dpx.mtab p
def State.setMember (s : State) (p : Nat) (v : Member) : State :=
  { s with dpx := { s.dpx with mtab := Bank.upd {} s.dpx.mtab p v } }

def State.engSlot (s : State) (n : Nat) : EngSlot := Bank.at {} s.eng.slot n
def State.setEngSlot (s : State) (n : Nat) (v : EngSlot) : State :=
  { s with eng := { s.eng with slot := Bank.upd {} s.eng.slot n v } }
/-- The scope of a fault of lattice channel n (R24): the share's element on a SECONDARY, the node's for LCH6 and LCH7. -/
def chanScope (n : Nat) : Scope := if n < 6 then .cellOfLeg n else .node

def State.engGroup (s : State) (g : Nat) : EngGroup := Bank.at {} s.eng.grp g
def State.setEngGroup (s : State) (g : Nat) (v : EngGroup) : State :=
  { s with eng := { s.eng with grp := Bank.upd {} s.eng.grp g v } }
def State.adcDue (s : State) (m : Nat) : List (Nat × Nat) := Bank.at [] s.adc.due m
def State.setAdcDue (s : State) (m : Nat) (l : List (Nat × Nat)) : State := { s with adc := { s.adc with due := Bank.upd [] s.adc.due m l } }
/-- A local result (R218), none while missing. -/
def State.result (s : State) (i : Nat) : Option Word := Bank.at none s.eng.res i
def State.setResult (s : State) (i : Nat) (v : Option Word) : State :=
  { s with eng := { s.eng with res := Bank.upd none s.eng.res i v } }

/-- The admission request of a position as the primary keeps it. -/
def State.ask (s : State) (p : Nat) : Ask := Bank.at {} s.dpx.asks p
def State.setAsk (s : State) (p : Nat) (v : Ask) : State :=
  { s with dpx := { s.dpx with asks := Bank.upd {} s.dpx.asks p v } }

/-- Append to what the node has sent or driven. -/
def State.emit (s : State) (o : Out) : State := { s with out := s.out ++ [o] }

/-- Take the next free value's index. -/
def State.useFree (s : State) : State := { s with free := s.free + 1 }

/-- Take the indexes of n free values. -/
def State.useMany (s : State) (n : Nat) : State := { s with free := s.free + n }

/-- An operation of the running node: nothing happens while it is in reset (R71). -/
def State.live (s : State) (f : State → State) : State := if s.sys.inReset then s else f s

/-- An operation that happens only under its condition; otherwise the event is ignored (log entry 4). -/
def State.when (s : State) (c : Bool) (f : State → State) : State := if c then f s else s

/-! ### Time -/

/-- Fabric cycles since release of reset: one is four base ticks (R82). -/
def State.fab (s : State) : Nat := s.sys.up / 4

/-- STIME as the 48 bits of R183. -/
def State.stime48 (s : State) : Nat := (s.tim.stime >>> 24) % 2 ^ 48

/-- STIME[47:16], nanoseconds. -/
def State.stimeNs (s : State) : Nat := s.stime48 >>> 16

/-- LTIME of R184: STIME counted in lattice ticks. -/
def State.ltime (s : State) : Nat := (s.stime48 * 25) >>> 17

/-- The wrap of LTIME (R184). -/
def ltimeWrap : Nat := 53687091200

/-- Lattice ticks of station time with the wraps counted in. -/
def State.lnow (s : State) : Nat := s.tim.wraps * ltimeWrap + s.ltime

/-- The tick nearest to now at which LTIME reads k. -/
def State.labs (s : State) (k : Nat) : Nat :=
  let d := (k + ltimeWrap - s.ltime % ltimeWrap) % ltimeWrap
  if 2 * d < ltimeWrap then s.lnow + d else s.lnow + d - ltimeWrap

def State.scn (s : State) : Word := s.rd R.TIM_SCN

/-- Base ticks in `ms` milliseconds (R82: 1.5625 GHz). -/
def msTicks (ms : Nat) : Nat := ms * 1562500

/-! ### Roles and stages -/

inductive Role where
  | unbound | head | cell | secondary | output
  deriving DecidableEq, Repr

/-- The bound role (SYS_ROLE.ROLE, R41). -/
def State.role (s : State) : Role :=
  match s.get F.SYS_ROLE_ROLE with
  | 1 => .head
  | 2 => .cell
  | 3 => .secondary
  | 4 => .output
  | _ => .unbound

def State.isHead (s : State) : Bool := s.role == .head
def State.isMember (s : State) : Bool := s.role == .cell || s.role == .secondary || s.role == .output

/-- The node's position (SYS_ADDR). -/
def State.pos (s : State) : Nat := s.get F.SYS_ADDR_POS

namespace Stage
def sramInit : Nat := 1
def fetch : Nat := 2
def verify : Nat := 3
def bind : Nat := 4
def lanes : Nat := 5
def pbWait : Nat := 6
def pbAdm : Nat := 7
def full : Nat := 8
def loadFail : Nat := 9
def unbound : Nat := 10
def held : Nat := 11
def refused : Nat := 12
def lockout : Nat := 13
end Stage

/-- IMG_STAT.STAGE (R102). -/
def State.stage (s : State) : Nat := s.get F.IMG_STAT_STAGE

/-- In service: STAGE PB_ADM or FULL (R79). -/
def State.inService (s : State) : Bool := s.stage == Stage.pbAdm || s.stage == Stage.full

/-- In Par-bake or FULL (R106): STAGE PB_WAIT, PB_ADM, FULL, HELD or REFUSED. -/
def State.running (s : State) : Bool :=
  Nat.ble Stage.pbWait s.stage && Nat.ble s.stage Stage.full || s.stage == Stage.held || s.stage == Stage.refused

/-- The node runs Par-bake: any running stage but FULL. -/
def State.parBake (s : State) : Bool := s.stage != Stage.full

/-! HEAD states of R395. -/
namespace Dpx
def solo : Nat := 0
def start : Nat := 1
def primary : Nat := 2
def sync : Nat := 3
def standby : Nat := 4
def out : Nat := 5
end Dpx

def State.dpxState (s : State) : Nat := s.get F.DPX_STAT_STATE

/-- The HEAD acts as the primary HEAD: PRIMARY, or SOLO from its claim (R395, R400). -/
def State.isPrimary (s : State) : Bool :=
  s.isHead && (s.dpxState == Dpx.primary || s.dpxState == Dpx.solo && s.dpx.hasTier && !s.dpx.listening)

/-- Duplex operation: a HEAD of a duplex station with DPX_CFG.EN (R395, R426). -/
def State.duplex (s : State) : Bool := s.isHead && !s.flag F.SYS_ROLE_SINGLE && s.flag F.DPX_CFG_EN

def State.isStandby (s : State) : Bool := s.isHead && s.dpxState == Dpx.standby

/-- Position of the obeyed HEAD (R397): on a HEAD its own view of the primary. -/
def State.obeyed (s : State) : Nat := if s.isHead then s.get F.DPX_STAT_PRIM else s.get F.DPX_MBR_STAT_OBEY

/-- The node's tier (R397). -/
def State.tier (s : State) : Nat := if s.isHead then s.get F.DPX_STAT_TIER else s.get F.DPX_MBR_STAT_TIER

/-- Later tier of R397. -/
def tierLater (a b : Nat) : Bool :=
  let d := (a + 256 - b % 256) % 256
  Nat.ble 1 d && Nat.ble d 127

/-! ### Location codes (R25 to R27) -/

/-- A location code from its fields. -/
def locCode (level stage stack cell pos bridge leg sw : Nat) : Word :=
  BitVec.ofNat 32 (level <<< 29 ||| stage <<< 27 ||| stack <<< 25 ||| cell <<< 19 ||| pos <<< 11 |||
    bridge <<< 9 ||| leg <<< 6 ||| sw <<< 4)

def locLevel (c : Word) : Nat := bits c.toNat 29 3
def locStage (c : Word) : Nat := bits c.toNat 27 2
def locStack (c : Word) : Nat := bits c.toNat 25 2
def locCell (c : Word) : Nat := bits c.toNat 19 6
def locPos (c : Word) : Nat := bits c.toNat 11 8
def locBridge (c : Word) : Nat := bits c.toNat 9 2
def locLeg (c : Word) : Nat := bits c.toNat 6 3
def locSwitch (c : Word) : Nat := bits c.toNat 4 2

/-- The stage a role belongs to (R25). -/
def Role.stageNo : Role → Nat
  | .cell => 0
  | .secondary => 1
  | .output => 2
  | _ => 3

/-- Stack and cell an element of this node names: its own on a CELL, the served cell of the share on a SECONDARY
(R26). -/
def State.cellOf (s : State) (share : Nat) : Nat × Nat :=
  match s.role with
  | .cell => (locStack (s.rd R.SYS_LOC), locCell (s.rd R.SYS_LOC))
  | .secondary =>
    (s.get (F.SYS_SHAREn_CELL_STACK share), s.get (F.SYS_SHAREn_CELL_CELL share))
  | _ => (3, 63)

/-- 0 low side, 1 high side (R25). -/
def swNum : Sw → Nat
  | .low => 0
  | .high => 1

/-- The location code of the node's own L4 element, or its node-wide code (R26, R27). -/
def State.nodeCode (s : State) : Word :=
  match s.role with
  | .secondary => locCode 6 1 3 63 s.pos 3 7 3
  | r => let (st, c) := s.cellOf 0
         locCode 4 r.stageNo st c s.pos 3 7 3

/-- The L4 code of an admitted position as the station table gives it. -/
def State.positionCode (s : State) (pos : Nat) : Word :=
  match s.img.image.table.find? (fun e => e.pos.toNat == pos) with
  | some e =>
    if e.role = 2 then locCode 4 0 e.stack e.cell pos 3 7 3
    else if e.role = 3 then locCode 6 1 3 63 pos 3 7 3
    else if e.role = 4 then locCode 4 2 3 63 pos 3 7 3
    else locCode 4 3 3 63 pos 3 7 3
  | none => locCode 4 3 3 63 pos 3 7 3

/-- The location code of a scope at this node. -/
def State.loc (s : State) (sc : Scope) : Word :=
  let st := s.role.stageNo
  match sc with
  | .switch n sw => let (k, c) := s.cellOf (n / 2); locCode 1 st k c s.pos (n / 2) n (swNum sw)
  | .leg n => let (k, c) := s.cellOf (n / 2); locCode 2 st k c s.pos (n / 2) n 3
  | .bridge b => let (k, c) := s.cellOf b; locCode 3 st k c s.pos b 7 3
  | .cellOfLeg n =>
    if s.role == .secondary then (let (k, c) := s.cellOf (n / 2); locCode 4 1 k c s.pos (n / 2) 7 3)
    else s.nodeCode
  | .node => s.nodeCode
  | .position p => s.positionCode p
  | .stack k => locCode 5 0 k 63 0xFF 3 7 3
  | .station => locCode 7 3 3 63 0xFF 3 7 3
  | .code c => c

/-- The elements that hold a location, from itself up to the station (R16, R17, R27). -/
def locChain (c : Word) : List Word :=
  let lv := locLevel c; let st := locStage c; let k := locStack c; let ce := locCell c
  let p := locPos c; let b := locBridge c
  let l3 := locCode 3 st k ce p b 7 3
  let l4 := if st = 1 then locCode 4 1 k ce p b 7 3 else locCode 4 st k ce p 3 7 3
  let l5 := locCode 5 0 k 63 0xFF 3 7 3
  let l6n := locCode 6 1 3 63 p 3 7 3
  let l6 := locCode 6 st 3 63 0xFF 3 7 3
  let l7 := locCode 7 3 3 63 0xFF 3 7 3
  let up4 := if st = 0 then [l5, l6, l7] else if st = 1 then [l6n, l6, l7] else if st = 2 then [l6, l7] else [l7]
  let rest :=
    match lv with
    | 1 => [locCode 2 st k ce p b (locLeg c) 3, l3, l4] ++ up4
    | 2 => [l3, l4] ++ up4
    | 3 => l4 :: up4
    | 4 => up4
    | 5 => [l6, l7]
    | 6 => if p = 0xFF then [l7] else [l6, l7]
    | _ => []
  c :: rest

/-- The smallest element that holds both (R461). -/
def locJoin (a b : Word) : Word :=
  match (locChain a).find? (fun c => (locChain b).contains c) with
  | some c => c
  | none => locCode 7 3 3 63 0xFF 3 7 3

/-! ### Leg states (R304 to R307) -/

namespace LegState
def held : Nat := 0
def safe : Nat := 1
def armed : Nat := 2
def run : Nat := 3
def tripped : Nat := 4
def halted : Nat := 5
def forced : Nat := 6
end LegState

def State.legState (s : State) (n : Nat) : Nat := s.get (F.PWM_LCHn_STAT_LEG_STATE n)

/-- Leg n is the designated bypass driver (R22). -/
def State.bypassLeg (s : State) (n : Nat) : Bool := n == 4 && s.role == .cell && s.get F.SYS_ROLE_BYP_LEG == 4

/-- A collector reaction forces leg n (R466 to R469). -/
def State.forced (s : State) (n : Nat) : Bool :=
  s.flt.holds.any (fun h => h.legs.getLsbD n) || s.isMember && s.flag F.FLT_STAT_TRIP

/-- A tripped, enabled group holds leg n (R304, R308). -/
def State.tripped (s : State) (n : Nat) : Bool :=
  (List.range 8).any fun g =>
    bit (s.get F.PWM_GRP_STAT_TRIPPED) g && s.flag (F.PWM_GRPg_LEGS_EN g) && bit (s.get (F.PWM_GRPg_LEGS_LEGS g)) n

/-- The balancer command in force lets leg n run (R285, R305). -/
def State.balRun (s : State) (n : Nat) : Bool := bit s.bal.legs n

/-- The bypass is commanded open by the balancer (R307). -/
def State.balOpen (s : State) : Bool := !s.bal.byp

/-- Leg n belongs to the node's power hardware: on a SECONDARY only the legs of the shares it serves do (R23). -/
def State.legUsed (s : State) (n : Nat) : Bool := s.role != .secondary || Nat.blt (n / 2) (s.get F.SYS_ROLE_SHARES)

/-- Leg n may run outside FULL (R106): on a CELL a leg of a group flagged PB, but not the primary bridge; on no other role,
and not on a node that admission has refused (R34). -/
def State.pbRun (s : State) (n : Nat) : Bool :=
  s.role == .cell && s.flag (F.PWM_LCHn_CFG_PB n) && n != 2 && n != 3 && s.stage != Stage.refused

/-- The run request of leg n (R305); a HEAD's legs stay OFF (R18). -/
def State.runReq (s : State) (n : Nat) : Bool :=
  s.flag (F.PWM_LCHn_CTRL_RUN n) && s.get (F.PWM_LCHn_CFG_OUTM n) != 0 && s.isMember && s.legUsed n &&
    (s.stage == Stage.full || s.pbRun n) && (!s.flag (F.PWM_LCHn_CFG_BAL n) || s.balRun n)

/-- The state leg n takes, the topmost condition of R304 that holds; a leg comes to RUN only by an E0. -/
def State.legNext (s : State) (n : Nat) : Nat :=
  if s.pwm.held then LegState.held
  else if s.pwm.halted then LegState.halted
  else if s.forced n then LegState.forced
  else if s.tripped n then LegState.tripped
  else if s.runReq n then (if s.legState n = LegState.run then LegState.run else LegState.armed)
  else LegState.safe

/-- A designated bypass leg may be open (R307). -/
def State.bypassOpen (s : State) : Bool :=
  let st := s.legState 4
  (st == LegState.safe || st == LegState.armed || st == LegState.run) &&
    s.flag (F.PWM_LCHn_CTRL_BYP_OPEN 4) && (!s.flag (F.PWM_LCHn_CFG_BAL 4) || s.balOpen)

/-- The gate clamp of R65 or the OFF of a HEAD (R18) leaves leg n undriven. -/
def State.clamped (s : State) : Bool := s.pwm.held || s.isHead

/-- The gate of channel 2n + sw is driven on (R322, R324, R343, R445): what the lattice, the channel and the pulse inhibit
allow. `inh` is the safety unit's pulse inhibit. -/
def State.gateOn (s : State) (n : Nat) (sw : Sw) : Bool :=
  let l := s.leg n
  let cmd := match sw with | .low => l.lo | .high => l.hi
  let st := match sw with
    | .low => s.get (F.GD_LEGn_STAT_LS_STATE n)
    | .high => s.get (F.GD_LEGn_STAT_HS_STATE n)
  let inh := s.flag F.SAF_STAT_INH
  let g := s.gate (2 * n + (swNum sw))
  s.flag (F.GD_LEGn_CFG_EN n) && s.legUsed n && !s.clamped && st == 1 &&
    (if s.bypassLeg n then inh || cmd || g.needEdge
     else cmd && !inh && !s.flag (F.GD_LEGn_STAT_L2_LATCH n) && !g.needEdge)

/-- A channel after a change: its gate, the time of its command's last edge, and its Miller clamp, which engages once the
gate is off outside IDLE and SOFTOFF and releases at the next turn-on (R321; the fall of the gate takes no time here, log
entry 21). -/
def GateSt.follow (g : GateSt) (now st : Nat) (cmd on mclmp : Bool) : GateSt :=
  { g with
    on := on
    clamp := mclmp && !on && st != 0 && st != 2
    cmd := cmd
    cmdAt := if g.cmd == cmd then g.cmdAt else now }

/-- Recompute the gates of leg n. -/
def State.gateRefresh (s : State) (n : Nat) : State :=
  let m := s.flag (F.GD_LEGn_CFG_MCLMP n)
  let l := s.leg n
  let gl := (s.gate (2 * n)).follow s.sys.up (s.get (F.GD_LEGn_STAT_LS_STATE n)) l.lo (s.gateOn n .low) m
  let gh := (s.gate (2 * n + 1)).follow s.sys.up (s.get (F.GD_LEGn_STAT_HS_STATE n)) l.hi (s.gateOn n .high) m
  let s1 := s.setGate (2 * n) gl
  s1.setGate (2 * n + 1) gh

/-- Put leg n into the state R304 gives it; a leg that is not in RUN drives its safe state, with no turn-on pending
(R305), and a bypass leg is driven only OFF or BYPASS-CLOSED (R306, R307). -/
def State.legRefresh1 (s : State) (n : Nat) : State :=
  let nx := s.legNext n
  let s1 := s.put (F.PWM_LCHn_STAT_LEG_STATE n) nx
  let s2 :=
    if s1.bypassLeg n then
      (let c := !s1.pwm.held && !s1.bypassOpen
       let e := (s1.leg n).hi != c
       let s2 := s1.setLeg n { hi := c, lo := c, pend := none }
       if e then
         (let s3 := s2.setGate (2 * n) { s2.gate (2 * n) with needEdge := false }
          s3.setGate (2 * n + 1) { s3.gate (2 * n + 1) with needEdge := false })
       else s2)
    else if nx = LegState.run then s1
    else s1.setLeg n { hi := false, lo := false, pend := none }
  s2.gateRefresh n

/-- All six legs. -/
def State.legRefresh (s : State) : State := forUpTo 6 (fun n s => s.legRefresh1 n) s

/-- PWM_LCHn_CNT: the carrier position c (R290); a halt holds it where the carrier stopped (R312). -/
def State.carrierPos (s : State) (n : Nat) : Nat :=
  match (s.chan n).stopped with
  | some c => c
  | none =>
    if s.num (R.PWM_LCHn_PER_ACT n) = 0 then 0
    else (((s.lnow : Int) - ((s.chan n).e0 : Int)) % (Nat.max 1 (s.chan n).len : Nat)).toNat

/-- Every leg is to enter HALTED, and the carriers stop where they are (R312, R314). -/
def State.haltCarriers (s : State) : State :=
  let s1 := forUpTo 8 (fun n s => s.setChan n { s.chan n with stopped := some (s.carrierPos n) }) s
  { s1 with pwm := { s1.pwm with halted := true } }

/-- The carriers go on from where they stopped (R313, log entry 67). -/
def State.startCarriers (s : State) : State :=
  let go := fun (n : Nat) (s : State) =>
    match (s.chan n).stopped with
    | some c => s.setChan n { s.chan n with e0 := s.lnow - c, stopped := none }
    | none => s
  let s1 := forUpTo 8 go s
  { s1 with pwm := { s1.pwm with halted := false } }

/-- The timebase is lost: every leg enters HALTED and TBLOSS is set (R314, R582). -/
def State.loseTimebase (s : State) : State :=
  let s1 := s.haltCarriers
  let s2 := s1.setFlag F.PWM_STAT_TBLOSS true
  s2.legRefresh

/-- The states CLK_STAT.STATE shows; OFF reads as SEARCH (R78, R91). -/
def rootCode : Root → Nat
  | .locked => 1
  | .holdover => 2
  | .reacquire => 3
  | _ => 0

/-- The root PLL enters a state (R78). -/
def State.setRoot (s : State) (r : Root) : State :=
  ({ s with clk := { s.clk with root := r } }).put F.CLK_STAT_STATE (rootCode r)

/-- The root leaves HOLDOVER for SEARCH without a loss of lock (R582). -/
def State.rootSearch (s : State) : State :=
  ({ s with clk := { s.clk with holdAt := none, refWait := none } }).setRoot .search |>.loseTimebase

/-- A node out of service whose HOLD_MAX has expired leaves HOLDOVER for SEARCH (R78, R582). The expiry is a level here: a
node whose HOLD_MAX expired in service takes this step when it leaves service (log entry 53, DESIGN CHOICE). -/
def State.holdOut (s : State) : State :=
  if s.clk.root == .holdover && s.clk.holdAt.isNone && s.clk.refWait.isNone then s.rootSearch else s

/-- The divider of an output lies in the range of its format (R87). -/
def ckoDivOk (fmt div : Nat) : Bool := Nat.ble (if fmt = 3 then 40 else 8) div

/-- CLK_CKOn_CFG has been written (R87): a divider outside the range of its format disables the output, and CKO_ERR reads 1
while the last written divider of some output lies outside. -/
def State.ckoWritten (s : State) (n : Nat) : State :=
  let bad := !ckoDivOk (s.get (F.CLK_CKOn_CFG_FMT n)) (s.get (F.CLK_CKOn_CFG_DIV n))
  let m := setBit s.clk.ckoBad n bad
  let s1 := { s with clk := { s.clk with ckoBad := m } }
  (s1.when bad (·.setFlag (F.CLK_CKOn_CFG_EN n) false)).setFlag F.CLK_STAT_CKO_ERR (m != 0)

/-! States of the servo (R193). -/
namespace Servo
def init : Nat := 0
def acquire : Nat := 1
def locked : Nat := 2
def hold : Nat := 3
end Servo

/-! ### Upstream (R193, R198 to R200) -/

def State.servo (s : State) : Nat := s.get F.TIM_STAT_STATE
def State.srcHost (s : State) : Bool := s.flag F.TIM_STAT_SRC_HOST

/-- Time-locked (R193). -/
def State.timeLocked (s : State) : Bool := s.servo == Servo.locked

/-- A neighbour qualifies as an upstream (R198). -/
def State.qualifies (s : State) (p : Nat) : Bool :=
  let l := s.link p
  Nat.blt p 4 && s.flag (F.LNK_PORTx_STAT_UP p) && l.t1.isSome && l.locked && l.root == s.obeyed && Nat.blt l.hops 0xFF

def State.upPort (s : State) : Nat := s.get F.TIM_UPSTREAM_PORT

/-- Of the qualifying ports the one with the lowest HOPS, the first of equals in the order A to D (R198). -/
def State.bestUp (s : State) : Option Nat :=
  ((List.range 4).filter s.qualifies).foldl (fun b p =>
    match b with
    | some q => if Nat.blt (s.link p).hops (s.link q).hops then some p else b
    | none => some p) none

/-- TIM_ERR from the chain (R200). -/
def State.setChain (s : State) (c : Frac) : State :=
  ({ s with tim := { s.tim with chain := c } }).wrN R.TIM_ERR
    (unsgn 32 (clampI (-2147483648) 2147483647 (c.shl 8).round))

/-- The node's upstream becomes port p. -/
def State.takeUp (s : State) (p : Nat) : State :=
  let s1 := s.put F.TIM_UPSTREAM_PORT p
  let s2 := s1.put F.TIM_UPSTREAM_PEER (s1.link p).peer
  let s3 := s2.put F.TIM_UPSTREAM_ROOT (s2.link p).root
  let s4 := s3.put F.TIM_UPSTREAM_HOPS ((s3.link p).hops + 1)
  forUpTo 4 (fun q s => s.setLink q { s.link q with lowRun := 0 }) s4

/-- The choice of R198 and R199. -/
def State.selectUp (s : State) : State :=
  if s.srcHost then s
  else
    let p := s.upPort
    if s.qualifies p then
      match (List.range 4).find? fun q => q != p && s.qualifies q && Nat.ble 64 (s.link q).lowRun with
      | some q => s.takeUp q
      | none => s.put F.TIM_UPSTREAM_HOPS ((s.link p).hops + 1) |>.put F.TIM_UPSTREAM_ROOT (s.link p).root
    else match s.bestUp with
      | some q => s.takeUp q
      | none => s.wr R.TIM_UPSTREAM 0xFFFFFF07

/-! ### The fault collector -/

def recIdx (num : Nat) : Nat := num % 64

def State.recActive (s : State) (r : Nat) : Bool := s.flag (F.FLT_RECr_W1_ACTIVE r)

/-- FC2 raises already acted on by their own block: the gate drive and a group trip (R467). -/
def ownBlock (code cls : Nat) : Bool := cls == 2 && (code / 256 == 0x0A || code == 0x0901)

/-- The six-leg mask of an element of this node (R467, R468). -/
def State.legsOf (s : State) (c : Word) : BitVec 6 :=
  match locLevel c with
  | 1 => 1 <<< locLeg c
  | 2 => 1 <<< locLeg c
  | 3 => 3 <<< (2 * locBridge c)
  | 4 => if s.role == .secondary then 3 <<< (2 * locBridge c) else 0x3F
  | _ => 0x3F

/-- Shares of a SECONDARY an FC3 reaction acts on (R466, R468). -/
def sharesOf (c : Word) : BitVec 3 := if locLevel c ≤ 4 then 1 <<< locBridge c else 7

/-- The reaction of a raise (R466 to R470). -/
def State.reaction (s : State) (recNo : Option Nat) (cls code : Nat) (c : Word) : Option Hold :=
  if cls ≤ 1 then none
  else if cls = 2 then
    if ownBlock code cls || s.isHead then none
    else some ⟨recNo, cls, s.legsOf c, false, 0⟩
  else if s.isHead then some ⟨recNo, cls, 0, cls != 4, 0⟩
  else if s.role == .secondary then
    (let sh := if cls = 3 then sharesOf c else 7
     let l := if cls = 3 && Nat.ble (locLevel c) 4 then s.legsOf (locCode 4 1 (locStack c) (locCell c) (locPos c) (locBridge c) 7 3)
              else 0x3F
     some ⟨recNo, cls, l, sh == 7, sh⟩)
  else some ⟨recNo, cls, 0x3F, true, 0⟩

/-- The first free record number from FLT_NEXT on; none when all 64 records are ACTIVE (R463). -/
def State.nextRec (s : State) : Option Nat :=
  let n := s.get F.FLT_NEXT_NEXT
  (List.range 64).findSome? fun k =>
    let m := (n + k) % 65536
    if s.recActive (recIdx m) then none else some m

/-- Recompute a record's ENDED, ACTIVE and CLEARED from its causes (R472). -/
def State.recRefresh (s : State) (num : Nat) : State :=
  let r := recIdx num
  let cs := s.flt.causes.filter (fun c => c.recNo == some num)
  let ended := cs.all (·.ended)
  let cls := s.get (F.FLT_RECr_W1_CLASS r)
  let s1 := s.setFlag (F.FLT_RECr_W1_ENDED r) ended
  if cls ≤ 1 then s1.setFlag (F.FLT_RECr_W1_ACTIVE r) (!ended)
  else if cls = 2 && cs.all (fun c => c.own || c.cls ≤ 1) then
    (let rel := cs.all (fun c => c.released || !c.own)
     let s2 := s1.setFlag (F.FLT_RECr_W1_CLEARED r) rel
     s2.setFlag (F.FLT_RECr_W1_ACTIVE r) (!rel))
  else s1

/-- Recompute FLT_STAT, FLT_ACT_LO and HI and FLTO from the records and holds (R463, R466 to R471, R475, R482). A primary
that holds an FC4 record or hold sends TRIP from then on (R469). -/
def State.fltStat (s : State) : State :=
  let act := (List.range 64).filter s.recActive
  let classes := act.map (fun r => s.get (F.FLT_RECr_W1_CLASS r))
  let lost := s.flt.holds.filter (fun h => h.recNo == none)
  let maxc := classes.foldl Nat.max 0
  let maxh := lost.foldl (fun m h => Nat.max m h.cls) 0
  let shares := s.flt.holds.foldl (fun m h => m ||| h.shares.toNat) 0
  let s1 := s.wrN R.FLT_ACT_LO (maskOf 32 s.recActive)
  let s2 := s1.wrN R.FLT_ACT_HI (maskOf 32 (fun r => s.recActive (r + 32)))
  let s3 := s2.put F.FLT_STAT_ACTIVE act.length
  let s4 := s3.put F.FLT_STAT_MAXCLS maxc
  let s5 := s4.setFlag F.FLT_STAT_NODE_SAFE
    (s.flt.holds.any (·.node) || s.role == .secondary && shares == 7)
  let s6 := s5.put F.FLT_STAT_SHARE_SAFE shares
  let s7 := s6.setFlag F.FLT_STAT_TRIP_REQ (classes.contains 4 || lost.any (fun h => h.cls == 4))
  let s8 := s7.setFlag F.FLT_STAT_LOST_HOLD (!lost.isEmpty)
  let s9 := s8.setFlag F.FLT_STAT_LOCKOUT s.flt.lockout
  let top := Nat.max maxc maxh
  let bad := s.sys.inReset || s.stage == Stage.unbound || s.stage == Stage.loadFail || s.flt.lockout ||
    s.flag F.FLT_STAT_TRIP || (!act.isEmpty || !lost.isEmpty) && Nat.ble (s.get F.FLT_CFG_FLTO_CLS) top
  let s10 := s9.setFlag F.FLT_STAT_FLTO bad
  s10.when (s10.isPrimary && s10.flag F.FLT_STAT_TRIP_REQ) (·.setFlag F.FLT_STN_TRIP true)

/-- Everything that follows from the records and holds: FLT_STAT, FLTO, the legs. -/
def State.fltRefresh (s : State) : State := s.fltStat.legRefresh

/-- A cause has ended: every cause with this code, instance and tag (R472). -/
def State.endCause (s : State) (code inst : Nat) (tag : Nat := 0) : State :=
  let hit := fun (c : Cause) => c.code == code && c.inst == inst && c.tag == tag && !c.ended
  let hitRec := s.flt.causes.filterMap fun c => if hit c then c.recNo else none
  let cs := s.flt.causes.map fun c => if hit c then { c with ended := true } else c
  let s1 := { s with flt := { s.flt with causes := cs } }
  let s2 := hitRec.foldl (fun s n => s.recRefresh n) s1
  s2.fltRefresh

/-- A HEAD that enters OUT acts as a demoted primary (R90, R204, R468): it gives up the reference and the host. -/
def State.giveUpRoot (s : State) : State :=
  let auto := s.flag (F.CLK_CKOn_CFG_AUTO 0)
  let s1 := s.setFlag F.TIM_STAT_SRC_HOST false
  let s2 := if s1.flag F.TIM_STAT_HOST_TO then (s1.setFlag F.TIM_STAT_HOST_TO false).endCause 0x0507 0 else s1
  { s2 with
    tim := { s2.tim with lastOfs := none }
    clk := if auto then { s2.clk with cko0Auto := false, refselHigh := false, w := Frac.zero, wTarget := Frac.zero }
           else s2.clk } |> fun s3 =>
  (if auto then (s3.setFlag F.CLK_STAT_SOURCE false).put F.CLK_SLEW_OFFSET 0 else s3).selectUp

/-- A swap of this primary is pending (R420). -/
def State.swapNamed (s : State) : Bool := s.isPrimary && s.get F.DPX_SWAP_STAT_STATE == 1

/-- The pending swap ends refused or cancelled (R420). -/
def State.swapEnd (s : State) (err : Nat) : State :=
  ((s.put F.DPX_SWAP_STAT_STATE 3).put F.DPX_SWAP_STAT_ERR err).setFlag F.DPX_STAT_SWAP_PEND false

/-- A HEAD in node-safe enters OUT (R468); a primary's pending swap is cancelled (R420). -/
def State.headOut (s : State) : State :=
  if s.isHead && s.dpxState != Dpx.out then
    (let s1 := s.put F.DPX_STAT_STATE Dpx.out
     let s2 := (s1.setFlag F.DPX_STAT_PROVEN false).setFlag F.DPX_STAT_ELIG false
     let s3 := if s.swapNamed then s2.swapEnd 5 else s2
     if s.isPrimary then s3.giveUpRoot else s3)
  else s

/-- Write the eight words of a new record (R462). -/
def State.openRecord (s : State) (num : Nat) (r : Raise) (c : Word) : State :=
  let i := recIdx num
  let w1 := r.cls + 256 + (if r.cls ≤ 1 && r.ended then 0 else 512) + (if r.ended then 1024 else 0) +
    (if r.broken then 4096 else 0)
  let s1 := s.wrN (R.FLT_RECr_Ww i 0) (num <<< 16 ||| r.code)
  let s2 := s1.wrN (R.FLT_RECr_Ww i 1) w1
  let s3 := s2.wr (R.FLT_RECr_Ww i 2) c
  let s4 := s3.wrN (R.FLT_RECr_Ww i 3) (1 <<< (r.code / 256))
  let s5 := s4.wrN (R.FLT_RECr_Ww i 4) s.stimeNs
  let s6 := s5.wr (R.FLT_RECr_Ww i 5) s.scn
  let s7 := s6.wrN (R.FLT_RECr_Ww i 6) 0
  let s8 := s7.wrN (R.FLT_RECr_Ww i 7) (if r.kind = 0 then 0 else r.kind <<< 28 ||| r.inst % 2 ^ 28)
  let s9 := s8.put F.FLT_NEXT_NEXT (num + 1)
  let s10 := { s9 with flt := { s9.flt with
    openRec := some num
    openAt := s9.sys.up
    causes := s9.flt.causes.filter (fun c => match c.recNo with | some n => recIdx n != i | none => true) } }
  s10.when (Nat.ble (s.get F.FLT_CFG_IRQ_CLS) r.cls) (·.emit (.irqFault num r.code))

/-- Merge a raise into the open record (R461). -/
def State.mergeRecord (s : State) (num : Nat) (r : Raise) (c : Word) : State :=
  let i := recIdx num
  let s1 := s.put (F.FLT_RECr_W1_CLASS i) (Nat.max (s.get (F.FLT_RECr_W1_CLASS i)) r.cls)
  let s2 := s1.wr (R.FLT_RECr_Ww i 2) (locJoin (s.rd (R.FLT_RECr_Ww i 2)) c)
  let s3 := s2.wr (R.FLT_RECr_Ww i 3) (s.rd (R.FLT_RECr_Ww i 3) ||| BitVec.ofNat 32 (1 <<< (r.code / 256)))
  let s4 := s3.bump (F.FLT_RECr_W6_COUNT i)
  let s5 := s4.put (F.FLT_RECr_W6_LAST i) r.code
  let s6 := if r.broken then s5.setFlag (F.FLT_RECr_W1_BROKEN i) true else s5
  let s7 := if Nat.ble 2 r.cls then
      (s6.setFlag (F.FLT_RECr_W1_ACTIVE i) true).setFlag (F.FLT_RECr_W1_CLEARED i) false else s6
  { s7 with flt := { s7.flt with mergeAt := some (num, s.fab) } }

/-- The record a raise goes to: the open one, else the next free one; none when every record is ACTIVE (R460, R463). -/
def State.raiseTarget (s : State) : Option Nat :=
  match s.flt.openRec with
  | some n => some n
  | none => s.nextRec

/-- Merge the raise into the open record, open the record `recd` for it, or count it as lost (R460 to R463). -/
def State.raiseRecord (s : State) (recd : Option Nat) (r : Raise) (c : Word) : State :=
  match s.flt.openRec, recd with
  | some n, _ => s.mergeRecord n r c
  | none, some n => s.openRecord n r c
  | none, none => s.bumpReg R.FLT_LOST

def State.addCause (s : State) (c : Cause) : State := { s with flt := { s.flt with causes := s.flt.causes ++ [c] } }

def State.addHold (s : State) (h : Hold) : State := { s with flt := { s.flt with holds := s.flt.holds ++ [h] } }

/-- FC5: the lockout latch is set and the node enters LOCKOUT, out of service (R78, R470). -/
def State.lockOut (s : State) : State :=
  (({ s with flt := { s.flt with lockout := true } }).put F.IMG_STAT_STAGE Stage.lockout).holdOut

/-- Take a raise: record or merge it, and take its reaction (R460 to R463, R466). -/
def State.raise1 (s : State) (r : Raise) : State :=
  let c := s.loc r.scope
  let recd := s.raiseTarget
  let s1 := s.raiseRecord recd r c
  let s2 :=
    if recd.isSome || Nat.ble 2 r.cls then
      s1.addCause ⟨recd, r.code, r.kind, r.inst, r.cls, ownBlock r.code r.cls, r.ended, false, r.tag⟩
    else s1
  let s3 := match s2.reaction recd r.cls r.code c with | some h => s2.addHold h | none => s2
  let s4 := match recd with | some n => s3.recRefresh n | none => s3
  let s5 := if r.cls = 3 || r.cls = 5 then s4.headOut else s4
  let s6 := if r.cls = 5 then s5.lockOut else s5
  s6.fltRefresh

/-- Does the open record count as a new FC3 record after a raise (R470)? It opened with FC3, or a merge took it there. -/
def State.newFc3 (before after : State) : Bool :=
  match after.flt.openRec with
  | some n =>
    after.get (F.FLT_RECr_W1_CLASS (recIdx n)) == 3 &&
      (before.flt.openRec == none || before.get (F.FLT_RECr_W1_CLASS (recIdx n)) != 3)
  | none => false

/-- A raise, and the FC0 of the swap that it has cancelled (R420). -/
def State.raise2 (s : State) (r : Raise) : State :=
  let s1 := s.raise1 r
  if s.swapNamed && s1.get F.DPX_SWAP_STAT_STATE == 3 then s1.raise1 { code := 0x0D09, cls := 0, scope := .station }
  else s1

/-- MERGE_US in base ticks (R460, R482). -/
def State.mergeTicks (s : State) : Nat := (s.get F.FLT_CFG_MERGE_US * 3125 + 1) / 2

/-- The merging time of the open record is over (R460): it takes no further raise, and waits for its close. -/
def State.mergeEnd (s : State) : State :=
  match s.flt.openRec with
  | none => s
  | some num =>
    if Nat.blt s.sys.up (s.flt.openAt + s.mergeTicks) then s
    else ({ s with flt := { s.flt with openRec := none, closing := s.flt.closing ++ [num] } }).setFlag
      (F.FLT_RECr_W1_OPEN (recIdx num)) false

/-- A raise with the count of FC3 records and its lockout, row 3 of R458 (R470). -/
def State.raise (s0 : State) (r : Raise) : State :=
  let s := s0.mergeEnd
  let s1 := s.raise2 r
  if State.newFc3 s s1 then
    (let win := msTicks (1000 * s.get F.FLT_LOCK_LOCK_WIN)
     let times := s.sys.up :: s1.flt.fc3.filter (fun t => Nat.ble s.sys.up (t + win))
     let s2 := { s1 with flt := { s1.flt with fc3 := times } }
     let n := s.get F.FLT_LOCK_LOCK_N
     if n != 0 && Nat.ble n times.length then s2.raise1 { code := 0x0203, cls := 5, scope := .node } else s2)
  else s1

/-- The order in which the collector takes the raises of one fabric cycle (R460). -/
def Raise.before (a b : Raise) : Bool :=
  Nat.blt b.cls a.cls || a.cls == b.cls &&
    (Nat.blt a.code b.code || a.code == b.code && Nat.blt a.inst b.inst)

def Raise.insert (r : Raise) : List Raise → List Raise
  | [] => [r]
  | x :: t => if r.before x then r :: x :: t else x :: Raise.insert r t

/-- A raise of a command that may bring several in one fabric cycle. -/
def State.raiseLater (s : State) (r : Raise) : State := { s with raises := r.insert s.raises }

/-- The collector takes the raises of the fabric cycle, in their order (R460). -/
def State.raiseDue (s : State) : State :=
  s.raises.foldl (fun s r => s.raise r) { s with raises := [] }

/-- The record that holds the latest cause with this code and instance, when it is ACTIVE. -/
def State.causeActive (s : State) (code inst : Nat) : Bool :=
  s.flt.causes.any fun c => c.code == code && c.inst == inst &&
    (match c.recNo with
     | some n => s.recActive (recIdx n) && s.get (F.FLT_RECr_W0_NUM (recIdx n)) == n
     | none => true)

/-- An access violation (R531): counted, and its address and master kept. -/
def masterId : Master → Nat
  | .mp => 0 | .ha => 1 | .ra => 2 | .ce => 3 | .mtr => 4 | .saf => 5 | .dpx => 6 | .dma => 7 | .dbg => 0

def addrSpace (a : Nat) : Nat := if Nat.blt a 0x40000000 then 0 else if Nat.blt a 0x41000000 then 1 else 2
def addrOfs (a : Nat) : Nat := a % 0x1000000

/-- Count an access violation of master m at address a (R531). -/
def State.violation (s : State) (m : Master) (write : Bool) (a : Nat) : State :=
  let s1 := s.bumpReg R.SYS_VIOL_CNT
  let s2 := s1.setFlag F.SYS_VIOL_LAST_W write
  let s3 := s2.put F.SYS_VIOL_LAST_MASTER (masterId m)
  let s4 := s3.put F.SYS_VIOL_LAST_SPACE (addrSpace a)
  let s5 := s4.setFlag F.SYS_VIOL_LAST_DBG (m == .dbg)
  s5.put F.SYS_VIOL_LAST_OFS (addrOfs a)

/-- An item this node originates, sealed at its commit: a command of a HEAD carries SCN n + 1, any other item SCN n
(R158, R223). -/
def State.outItem (s : State) (idx : Nat) (v : Word) : State :=
  let cmd := s.isHead
  let n := (s.scn.toNat + (b2n cmd)) % 256
  let it : Item := ⟨s.pos, idx, n, v⟩
  if cmd then { s with rng := { s.rng with dnOut := s.rng.dnOut.filter (fun e => e.idx != idx) ++ [it] } }
  else { s with rng := { s.rng with upOut := s.rng.upOut.filter (fun e => e.idx != idx) ++ [it] } }

/-- The cycle in progress is cycle S of R108, which carries no control and no safety region. -/
def State.inCycleS (s : State) : Bool := s.img.fullS == some s.scn

/-- UP of a port: every lane of it in UP (R122); lane G has one lane. -/
def State.portRefresh (s : State) (p : Nat) : State :=
  let l0 := s.get (F.LNK_PORTx_STAT_L0_STATE p) == 6
  let l1 := s.get (F.LNK_PORTx_STAT_L1_STATE p) == 6
  s.setFlag (F.LNK_PORTx_STAT_UP p) (l0 && (p == 4 || l1))

/-- The IDLE codewords of ring port p carry the fold mark: it transmits and is not UP (R583). -/
def State.sendsMark (s : State) (p : Nat) : Bool :=
  Nat.blt p 4 && !s.flag (F.LNK_PORTx_STAT_UP p) &&
    (Nat.ble 3 (s.get (F.LNK_PORTx_STAT_L0_STATE p)) || Nat.ble 3 (s.get (F.LNK_PORTx_STAT_L1_STATE p)))

/-- Precoding is set for the path of a port (R126). -/
def State.precodes (s : State) (p : Nat) : Bool :=
  s.flag (if p < 2 then F.LNK_CTRL_PRE_X else if p < 4 then F.LNK_CTRL_PRE_Y else F.LNK_CTRL_PRE_G)

/-- A lane sends the symbols of a codeword as levels in the mode of its port (R125 to R127), inverted at source where the
wiring says so (R150). With precoding, the symbol value sent before is that of a codeword the model does not list, and
free (log entry 24). -/
def State.sendSyms (s : State) (p l : Nat) (w : List Sym) : State :=
  let pam4 := s.flag (F.LNK_PORTx_STAT_MODE p)
  let pre := pam4 && s.precodes p
  let inv := s.flag (if l = 0 then F.LNK_PORTx_FIX_TX_INV0 p else F.LNK_PORTx_FIX_TX_INV1 p)
  let lv := levelsOf pam4 pre (Config.freeSymbol s.free).toNat w
  (s.when pre State.useFree).emit (.codeword p l (if inv then lv.map (0 - ·) else lv))

def State.laneState (s : State) (p l : Nat) : Nat :=
  if l = 0 then s.get (F.LNK_PORTx_STAT_L0_STATE p) else s.get (F.LNK_PORTx_STAT_L1_STATE p)

def State.setLaneState (s : State) (p l v : Nat) : State :=
  let s1 := if l = 0 then s.put (F.LNK_PORTx_STAT_L0_STATE p) v
            else if p = 4 then s else s.put (F.LNK_PORTx_STAT_L1_STATE p) v
  let s2 := s1.portRefresh p
  s2.when (s2.sendsMark p != s.sendsMark p) (·.emit (.idleMark p (s2.sendsMark p)))

/-- A lane enters a state: its runs and the precoder's last symbols start afresh (R126, R130), and the time of R136 unless
it comes from CDR to FRAME; what the eye monitor last found stays. -/
def State.laneEnter (s : State) (p l st : Nat) : State :=
  let k := s.lane p l
  let since := if st = 4 && s.laneState p l = 3 then k.since else s.sys.up
  (s.setLaneState p l st).setLane p l { lowSer := k.lowSer, lowEye := k.lowEye, since := since, centred := s.sys.up }

/-- A commanded mode switch of a port (R137): the lanes in UP or FRAME re-enter FRAME in the new mode. -/
def State.modeSwitch (s : State) (p : Nat) (pam4 : Bool) : State :=
  if s.flag (F.LNK_PORTx_STAT_MODE p) == pam4 then s
  else
    let s1 := s.setFlag (F.LNK_PORTx_STAT_MODE p) pam4
    let frame := fun (l : Nat) (s : State) => if s.laneState p l = 6 then s.laneEnter p l 4 else s
    let s2 := frame 1 (frame 0 s1)
    s2.setPort p { s2.port p with switching := true }

/-- Set the boot stage and what follows from it: FLTO and the legs (R102, R305, R475); out of service a root whose HOLD_MAX
has expired leaves HOLDOVER (R78). -/
def State.toStage (s : State) (n : Nat) : State :=
  let s1 := (s.put F.IMG_STAT_STAGE n).fltRefresh
  s1.when (!s1.inService) (·.holdOut)

/-- Milliseconds since release of reset as IMG_BOOT_MS holds them (R120). -/
def State.bootMs (s : State) : Nat :=
  let ms := s.sys.up / 1562500
  if Nat.blt 65534 ms then 0xFFFF else ms

/-- LANES ends: the node enters PB_WAIT; a member requests admission, and a HEAD opens its listen window (R102,
R399). -/
def State.enterPbWait (s : State) : State :=
  let s1 := if s.get F.IMG_BOOT_MS_PB_MS == 0xFFFF then s.put F.IMG_BOOT_MS_PB_MS s.bootMs else s
  let s2 := if s1.isHead then { s1 with dpx := { s1.dpx with listening := true } } else s1.put F.IMG_ADM_STAT_ADM 1
  ({ s2 with img := { s2.img with pbAt := s2.sys.up } }).toStage Stage.pbWait

/-- The node enters FULL (R111). -/
def State.enterFull (s : State) : State :=
  let s1 := if s.get F.IMG_BOOT_MS_FULL_MS == 0xFFFF then s.put F.IMG_BOOT_MS_FULL_MS s.bootMs else s
  s1.toStage Stage.full

/-- The node leaves PB_ADM or FULL for PB_WAIT, where a member requests admission again; unless it is an in-place
return (R473) its ports go back to PAM2 (R137). -/
def State.leaveService (s : State) (inPlace : Bool) : State :=
  if s.inService then
    let s1 := s.put F.IMG_ADM_STAT_ADM (b2n (!s.isHead))
    let s2 := if inPlace then s1 else forUpTo 5 (fun p s => s.modeSwitch p false) s1
    let s3 := { s2 with bal := { s2.bal with byp := true, legs := 0 } }
    s3.toStage Stage.pbWait
  else s


/-! ### Masters -/

/-- Master m runs: none before SRAM_INIT has ended (R484); an UNBOUND or LOADFAIL node answers only on its debug port, and its
firmware runs when VENDOR_SIG passed (R33, R104). -/
def State.mastersRun (s : State) (m : Master) : Bool :=
  Nat.blt Stage.sramInit s.stage &&
    (!(s.stage == Stage.unbound || s.stage == Stage.loadFail) || m == .dbg || m == .mp && s.img.vendorOk)

/-- A command of master m: nothing while it does not run. -/
def State.byMaster (s : State) (m : Master) (f : State → State) : State := s.live fun s => s.when (s.mastersRun m) f

end Sys2Proof.Machine
end

