-- ==== Sys2Proof/Machine/Flags.lean ====
section
/-! DEFINITION. Machine/Flags.lean: the flags a lattice period computes: the duty after minimum-pulse substitution
(R295), the compares (R294), the leg command, the grid checks of R291 and R292, and the phase step of R300. -/
namespace Sys2Proof.Machine

/-- The duty the compares are formed from (R295): short pulses and short gaps are substituted. -/
def dutyInForce (d l minp : Nat) : Nat :=
  if 0 < d ∧ d < minp then 0
  else if l < d + minp ∧ d < l then l
  else d

/-- CMP0 of R294: LEAD, CENTRE, FREE. -/
def cmp0Of (align d l free : Nat) : Nat :=
  match align with
  | 0 => 0
  | 1 => (l - d) / 2
  | _ => free

/-- The leg command H at position c (R294). -/
def hAt (d l cmp0 c : Nat) : Bool := if l ≤ d then true else Nat.ble cmp0 c && Nat.blt c (cmp0 + d)

/-- The change of phase at E0, reduced into [−PER/2, PER/2) (R300). -/
def phaseStep (old new per : Nat) : Int :=
  let d := ((new : Int) - (old : Int)) % (per : Int)
  if 2 * d < (per : Int) then d else d - (per : Int)

/-- Does a period meet the rule of R291? -/
def periodSync (per syncSh scLen : Nat) : Bool := per != 0 && (2 ^ syncSh * scLen) % per == 0

/-- The end of the period in progress, counted from a sync boundary, that R292 leaves: `r` when it is on the grid,
else the nearest grid point at least half a period after the boundary, the later of two equally near. -/
def resyncEnd (r per ph : Nat) : Nat :=
  let base := ph % per
  if r % per = base then r
  else
    let g0 := if per ≤ 2 * base then base else base + per
    if r ≤ g0 then g0
    else
      let lower := g0 + (r - g0) / per * per
      if r - lower < lower + per - r then lower else lower + per

end Sys2Proof.Machine
end

