-- ==== Sys2Proof/Machine/Operands.lean ====
section
/-! DEFINITION. Machine/Operands.lean: codewords as the ring carries them (R155, R157): header, items and seals, the
checks of a valid copy (R165), and the sending of a codeword on the rings.
Marked choices: log entries 1, 46 (DESIGN CHOICE); log entries 36, 68 (DEDUCED). -/
namespace Sys2Proof.Machine

namespace Ty
def idle : Nat := 0
def up : Nat := 1
def dn : Nat := 2
def ack : Nat := 3
def hb : Nat := 4
def safe : Nat := 5
def bulk : Nat := 6
def nbr : Nat := 7
end Ty

/-- A codeword's header (R155). -/
structure Hdr where
  typ : Nat
  src : Nat
  dst : Nat
  tag : Nat
  route : Nat
  mark : Nat := 0
  count : Nat := 0
  deriving DecidableEq, Repr

/-- The 190 bytes of a codeword with this header and body (R155). -/
def codeword (h : Hdr) (body : List Byte) : List Byte :=
  let h7 := [h.typ, h.src, h.dst, h.tag, h.route, h.mark, h.count].map fun n => (BitVec.ofNat 8 n : Byte)
  let head := h7 ++ [BitVec.ofNat 8 (crc8 h7)] ++ padTo 178 body
  head ++ leBytes 4 (crc32c head)

/-- The header of a codeword as received. -/
def hdrOf (cw : List Byte) : Hdr :=
  { typ := byteAt cw 0 % 16, src := byteAt cw 1, dst := byteAt cw 2, tag := byteAt cw 3, route := byteAt cw 4
    mark := byteAt cw 5, count := byteAt cw 6 }

/-- The length of a codeword payload (R128). -/
def cwLen : Nat := 190

/-- HCHK passes (R155). -/
def hchkOk (cw : List Byte) : Bool := byteAt cw 7 == crc8 (cw.take 7)

/-- The codeword's CRC-32C passes (R155). -/
def crcOk (cw : List Byte) : Bool := leAt cw 186 4 == crc32c (cw.take 186)

/-- The codeword part of R165: decoded, both checks pass, and of the expected type. -/
def cwValid (typ : Nat) (cw : List Byte) (uncorr : Bool) : Bool :=
  !uncorr && cw.length == cwLen && hchkOk cw && crcOk cw && byteAt cw 0 == typ

/-- An item in a body: index, value and seal (R157). -/
structure RawItem where
  idx : Nat
  value : Word
  crc : Nat
  deriving DecidableEq, Repr

/-- Word of the type in bytes 10 and 11 (R157). -/
def typeWord (cw : List Byte) : Nat := leAt cw 10 2

/-- The items of an UP, DN, ACK or SAFE codeword: at most 28 (R157). -/
def itemsOf (cw : List Byte) : List RawItem :=
  let base := leAt cw 8 2
  (List.range (Nat.min 28 (byteAt cw 6))).map fun i =>
    { idx := (base + i) % 65536, value := BitVec.ofNat 32 (leAt cw (12 + 6 * i) 4), crc := leAt cw (16 + 6 * i) 2 }

/-- The seal of an item passes for this origin and SCN (R159). -/
def sealOk (it : RawItem) (origin scn : Nat) : Bool := it.crc == sealOf it.value origin it.idx scn

/-- A body with a base index, a word of the type and items sealed for an origin and SCN; a none is a gap, whose value and
seal are 0. -/
def itemBody (base word origin : Nat) (items : List (Option (Word × Nat))) : List Byte :=
  leBytes 2 base ++ leBytes 2 word ++
    ((List.range items.length).zip items).foldl (fun l p => l ++ (match p.2 with
      | some (v, scn) => leBytes 4 v.toNat ++ leBytes 2 (sealOf v origin ((base + p.1) % 65536) scn)
      | none => leBytes 6 0)) []

/-! ### Sending on the rings -/

/-- The port by which a codeword leaves (R151): ring X ports A and B, ring Y ports C and D; east B and D. -/
def outPort (y east : Bool) : Nat := 2 * b2n y + b2n east

/-- The port by which a codeword of that direction arrives. -/
def inPort (y east : Bool) : Nat := 2 * b2n y + b2n (!east)

/-- A port is down for the ring (R154, R583). -/
def State.portDown (s : State) (p : Nat) : Bool := !s.flag (F.LNK_PORTx_STAT_UP p) || (s.port p).marked

/-- The state of ring X or Y at this node (R153). -/
def State.ringState (s : State) (y : Bool) : Nat := s.get (if y then F.RNG_STAT_Y_STATE else F.RNG_STAT_X_STATE)

def State.setRingState (s : State) (y : Bool) (v : Nat) : State :=
  s.put (if y then F.RNG_STAT_Y_STATE else F.RNG_STAT_X_STATE) v

/-! Ring states of R153. -/
namespace RingSt
def down : Nat := 0
def thru : Nat := 1
def foldW : Nat := 2
def foldE : Nat := 3
def isolated : Nat := 4
def spur : Nat := 5
end RingSt

/-- The port carries ring traffic outwards: it is not down for the ring and the node is not folded at it (R153, R154). -/
def State.ringOpen (s : State) (p : Nat) : Bool :=
  let st := s.ringState (Nat.ble 2 p)
  !s.portDown p && (st == RingSt.thru || st == (if p % 2 = 0 then RingSt.foldE else RingSt.foldW))

/-- ROUTE of a codeword sent on a ring and direction (R155). -/
def routeOf (y east : Bool) : Nat := b2n y + 2 * b2n (!east)

/-- Send 190 payload bytes on a port and lane (R128, R129). -/
def State.sendLine (s : State) (p l : Nat) (cw : List Byte) : State := s.sendSyms p l (lineOf p l cw)

/-- Send a codeword on one ring in one direction (R583); a fold node sends nothing but its HB towards the port it is
folded at (R117, R162). -/
def State.sendDir (s : State) (y east : Bool) (lane typ dst tag count : Nat) (body : List Byte) : State :=
  let p := outPort y east
  if s.portDown p || typ != Ty.hb && !s.ringOpen p then s
  else s.sendLine p lane
    (codeword { typ := typ, src := s.pos, dst := dst, tag := tag % 256, route := routeOf y east, count := count } body)

/-- Send on both rings in both directions. -/
def State.sendAll (s : State) (lane typ dst tag count : Nat) (body : List Byte) : State :=
  let a := s.sendDir false true lane typ dst tag count body
  let b := a.sendDir false false lane typ dst tag count body
  let c := b.sendDir true true lane typ dst tag count body
  c.sendDir true false lane typ dst tag count body

/-- A seal failed on a copy: the item is absent from it, counted and raised (R159, R181). -/
def State.sealFail (s : State) (origin idx : Nat) : State :=
  (s.bumpReg R.RNG_CNT_SEAL).raiseLater
    { code := 0x0405, cls := 0, scope := .node, kind := 7, inst := origin * 65536 + idx }

/-- A BULK codeword leaves its position for a control or safety insertion (R174): into the transit buffer of its port,
or dropped when the buffer is full. -/
def State.divert (s : State) (p : Nat) (cw : List Byte) : State :=
  let q := Bank.at [] s.rng.transit p
  if Nat.ble 1024 q.length then
    (s.bumpReg R.RNG_CNT_DROP).raise { code := 0x0407, cls := 0, scope := .node }
  else
    let s1 := { s with rng := { s.rng with transit := Bank.upd [] s.rng.transit p (q ++ [cw]) } }
    s1.bumpReg R.RNG_CNT_DIVERT

/-! ### Codewords that have arrived -/

/-- The ring, direction of travel and order of R165 of a codeword that has come by a port: ring X before ring Y, east before
west. -/
def Arrival.y (a : Arrival) : Bool := Nat.ble 2 a.port
def Arrival.east (a : Arrival) : Bool := a.port % 2 == 0
def Arrival.ring (a : Arrival) : Ring := if a.y then .y else .x
def Arrival.via (a : Arrival) : Via := ⟨a.ring, a.east⟩
def Arrival.before (a b : Arrival) : Bool := Nat.blt a.fab b.fab || a.fab == b.fab && Nat.blt a.port b.port

def Arrival.insert (a : Arrival) : List Arrival → List Arrival
  | [] => [a]
  | x :: t => if a.before x then a :: x :: t else x :: Arrival.insert a t

/-- The decode path hands a codeword to the node's own consumers (R131); the receive buffer holds 1 024 BULK codewords
(R175). -/
def State.hand (s : State) (a : Arrival) : State :=
  let full := (hdrOf a.cw).typ == Ty.bulk &&
    Nat.ble 1024 ((s.rng.rx.filter fun x => (hdrOf x.cw).typ == Ty.bulk).length)
  s.when (!full) fun s => { s with rng := { s.rng with rx := a.insert s.rng.rx } }

/-- A consumer of this node takes codewords of a type (R155): a HEAD those for the HEADs, the node those for itself, every
node the rest. -/
def State.consumes (s : State) (h : Hdr) : Bool :=
  if h.typ = Ty.up || h.typ = Ty.ack then s.isHead
  else if h.typ = Ty.dn || h.typ = Ty.bulk then h.dst == s.pos
  else h.typ == Ty.hb || h.typ == Ty.safe || h.typ == Ty.nbr

/-- Hand the earliest waiting codeword of a type to its consumer (R165); with none waiting nothing happens. -/
def State.takeRx (s : State) (p : Arrival → Bool) (f : Arrival → State → State) : State :=
  match s.rng.rx.find? p with
  | some a => f a { s with rng := { s.rng with rx := s.rng.rx.erase a } }
  | none => s

/-- Every waiting codeword that meets `p`, in order. -/
def State.takeAllRx (s : State) (p : Arrival → Bool) (f : Arrival → State → State) : State :=
  (s.rng.rx.filter p).foldl (fun s a => f a s) { s with rng := { s.rng with rx := s.rng.rx.filter fun a => !p a } }

/-- A waiting ring codeword of a type. -/
def Arrival.is (typ : Nat) (a : Arrival) : Bool := a.port != 4 && (hdrOf a.cw).typ == typ

/-- The other HEAD's position (R29). -/
def State.otherHead (s : State) : Nat := 1 - s.pos

end Sys2Proof.Machine
end

