-- ==== Sys2Proof/Machine/Bulk.lean ====
section
/-! DEFINITION. Machine/Bulk.lean: the ring map (R152, R162) and the bulk flows (R172 to R176): routes, credits, resend,
the transit buffer and the relay to the primary.
Marked choices: log entries 46, 60, 61 (DESIGN CHOICE). -/
namespace Sys2Proof.Machine

/-! ### The ring map. The reports reach the primary as uplink item 0xFE02 and the map entries come back as items 0xFE11
and 0xFE12, and the boundaries that the primary names as items 0xFE13 to 0xFE16, in the layouts of log entry 60 (DESIGN CHOICE:
the spec names no layout). -/

namespace Idx
/-- Derating of a member (R259). -/
def derate : Nat := 0xFE00
/-- State of a member's collector (R471). -/
def status : Nat := 0xFE01
/-- Neighbour report: [7:0] X west, [15:8] X east, [23:16] Y west, [31:24] Y east; 0xFF for a port down for the ring. -/
def nbrs : Nat := 0xFE02
/-- Station word (R469). -/
def station : Nat := 0xFE10
/-- Map entries of rings X and Y, in the layout of RNG_MAP_X. -/
def mapX : Nat := 0xFE11
def mapY : Nat := 0xFE12
/-- Boundaries that the primary names (R107, R118, R154): full service S; unfold U of rings X and Y; splice S in [23:0] and its
position in [31:24]. -/
def fullS : Nat := 0xFE13
def unfoldX : Nat := 0xFE14
def unfoldY : Nat := 0xFE15
def splice : Nat := 0xFE16
end Idx

/-- The neighbour this node sees by a port, 0xFF when the port is down for the ring or unheard. -/
def State.nbrOf (s : State) (p : Nat) : Nat := if s.portDown p then 0xFF else Bank.at 0xFF s.rng.nbr p

/-- The neighbour report of this node (R152). -/
def State.nbrReport (s : State) : Word :=
  BitVec.ofNat 32 (s.nbrOf 0 ||| s.nbrOf 1 <<< 8 ||| s.nbrOf 2 <<< 16 ||| s.nbrOf 3 <<< 24)

/-- The neighbour by a port that the node is not folded at (R154). -/
def State.nbrOpen (s : State) (p : Nat) : Nat := if s.ringOpen p then s.nbrOf p else 0xFF

/-- The report of this node or of a member: as it arrives (`raw`), or with a broken link kept broken until its unfold. -/
def State.reportIn (s : State) (raw : Bool) (q : Nat) : Word :=
  if q = s.pos then
    (if raw then s.nbrReport
     else BitVec.ofNat 32 (s.nbrOpen 0 ||| s.nbrOpen 1 <<< 8 ||| s.nbrOpen 2 <<< 16 ||| s.nbrOpen 3 <<< 24))
  else Bank.at 0xFFFFFFFF (if raw then s.rng.raw else s.rng.nbrs) q

/-- Positions of the station table. -/
def State.tablePos (s : State) : List Nat := s.img.image.table.map (·.pos.toNat)

/-- The neighbour of the other HEAD on a ring and side: the position that reports it on the opposite side. A HEAD sends
no UP, and its HB has no room for a report (R152, R402; log entry 60). -/
def State.headSide (s : State) (raw y east : Bool) : Nat :=
  ((s.tablePos.filter (· != s.otherHead)).find? fun p =>
    bits (s.reportIn raw p).toNat (16 * b2n y + 8 * b2n (!east)) 8 == s.otherHead).getD 0xFF

/-- The report the HEAD maps the ring by; the other HEAD's follows from those of its neighbours. -/
def State.reportOf (s : State) (raw : Bool) (q : Nat) : Word :=
  if s.isHead && q == s.otherHead then
    BitVec.ofNat 32 (s.headSide raw false false ||| s.headSide raw false true <<< 8 |||
      s.headSide raw true false <<< 16 ||| s.headSide raw true true <<< 24)
  else s.reportIn raw q

/-- The neighbour of a position on a ring and side, where both ends of the link report it. -/
def State.hopFrom (s : State) (raw y east : Bool) (q : Nat) : Option Nat :=
  let n := bits (s.reportOf raw q).toNat (16 * b2n y + 8 * b2n east) 8
  let back := bits (s.reportOf raw n).toNat (16 * b2n y + 8 * b2n (!east)) 8
  if n != 0xFF && back == q then some n else none

/-- The positions reached from this HEAD in a direction, nearest first, and whether the walk came back to it. -/
def State.walk (s : State) (raw y east : Bool) : Nat → Nat → List Nat → List Nat × Bool
  | 0, _, l => (l, false)
  | n + 1, q, l =>
    match s.hopFrom raw y east q with
    | none => (l, false)
    | some r => if r = s.pos then (l, true) else if l.contains r then (l, false)
                else State.walk s raw y east n r (l ++ [r])

/-- Place of a position on a ring as the primary maps it (R152, R182). -/
structure Place where
  idx : Nat
  size : Nat
  /-- Hops to the primary eastbound and westbound; none needs a turn. -/
  hopsE : Option Nat
  hopsW : Option Nat
  deriving DecidableEq, Repr

def State.place (s : State) (y : Bool) (q : Nat) : Option Place :=
  let pr := s.walk false y true 255 s.pos []
  let e := pr.1
  let closed := pr.2
  if closed then
    (let n := e.length + 1
     (e.idxOf? q).map fun i => ⟨i + 1, n, some (n - (i + 1)), some (i + 1)⟩)
  else
    (let (w, _) := s.walk false y false 255 s.pos []
     let n := e.length + w.length + 1
     match e.idxOf? q, w.idxOf? q with
     | some i, _ => some ⟨i + 1, n, none, some (i + 1)⟩
     | none, some j => some ⟨n - (j + 1), n, some (j + 1), none⟩
     | none, none => none)

/-- The map entry the primary sends to a position (R182). -/
def State.mapEntry (s : State) (y : Bool) (q : Nat) : Word :=
  match s.place y q with
  | none => 0xFFFFFFFF
  | some p => BitVec.ofNat 32 (p.idx ||| p.size <<< 8 ||| p.hopsE.getD 0xFF <<< 16 ||| p.hopsW.getD 0xFF <<< 24)

/-- The ring word of a position: LANE_E, LANE_W, SEND_E, SEND_W (R162). -/
def State.ringWord (s : State) (y : Bool) (q : Nat) : Nat :=
  match s.place y q with
  | none => 0
  | some p => p.hopsE.getD 0 % 2 ||| (p.hopsW.getD 0 % 2) <<< 1 ||| b2n p.hopsE.isSome <<< 2 ||| b2n p.hopsW.isSome <<< 3

/-! ### Flows -/

/-- The window of RNG_CTRL.BULK_WIN; 0 acts as 1 (R175, R182). -/
def State.bulkWin (s : State) : Nat := Nat.max 1 (s.get F.RNG_CTRL_BULK_WIN)

def State.flow (s : State) (peer stream : Nat) : Flow :=
  (s.rng.flows.find? (fun f => f.peer == peer && f.stream == stream)).getD
    { peer := peer, stream := stream, credits := s.bulkWin }

def State.setFlow (s : State) (f : Flow) : State :=
  let l := s.rng.flows.filter (fun g => !(g.peer == f.peer && g.stream == f.stream)) ++ [f]
  { s with rng := { s.rng with flows := l } }

/-- Data cut into codewords of at most n bytes. -/
def cutBytes (n : Nat) : Nat → List Byte → List (List Byte)
  | 0, _ => []
  | k + 1, l => if l.length ≤ n then [l] else l.take n :: cutBytes n k (l.drop n)

/-- A message of a flow as its codewords: FIRST on the first, LAST on the last; `note` rides on the last (R172). -/
def asCodewords (note : Option Nat) : Bool → List (List Byte) → List TxCw
  | _, [] => []
  | first, [d] => [⟨first, true, d, note⟩]
  | first, d :: e :: t => ⟨first, false, d, none⟩ :: asCodewords note false (e :: t)

/-- Queue codewords to a peer on a stream. -/
def State.bulkQueue (s : State) (peer stream : Nat) (l : List TxCw) : State :=
  let f := s.flow peer stream
  s.setFlow { f with txQueue := f.txQueue ++ l }

/-- Queue one message to a peer on a stream, 168 bytes a codeword. -/
def State.bulkSend (s : State) (peer stream : Nat) (data : List Byte) (note : Option Nat := none) : State :=
  s.bulkQueue peer stream (asCodewords note true (cutBytes 168 (data.length + 1) data))

/-! Kinds of message on the supervisory relay, stream 5: a report of R538 by its KIND, and requests and answers of R534
and R546 (DESIGN CHOICE: log entry 61). -/
namespace Relay
def fault : Nat := 1
def health : Nat := 2
def energy : Nat := 3
def capture : Nat := 4
def atomRead : Nat := 16
def atomAnswer : Nat := 17
def attest : Nat := 18
def attestAnswer : Nat := 19
def cancel : Nat := 20
end Relay

/-- A message on the supervisory relay: kind, three zero bytes, payload. -/
def State.relayTo (s : State) (peer kind : Nat) (payload : List Byte) (note : Option Nat := none) : State :=
  s.bulkSend peer 5 (leBytes 4 kind ++ payload) note

/-- Relay to the primary HEAD, where the node knows one (R465, R385, R415). -/
def State.relay (s : State) (kind : Nat) (payload : List Byte) (note : Option Nat := none) : State :=
  let p := s.obeyed
  if p = 0xFF || p = s.pos then s else s.relayTo p kind payload note

/-- The words of a list as bytes. -/
def wordBytes (l : List Word) : List Byte := l.foldl (fun b w => b ++ leBytes 4 w.toNat) []

/-- The words bytes spell, n of them. -/
def bytesWords (b : List Byte) (ofs : Nat) (n : Nat) : List Word :=
  (List.range n).map fun i => BitVec.ofNat 32 (leAt b (ofs + 4 * i) 4)

/-! ### Routes and codewords -/

/-- Hops from this node to another eastbound and westbound on a ring, as far as the map says. -/
def State.hopsTo (s : State) (y : Bool) (dst : Nat) : Option (Option Nat × Option Nat) :=
  if s.isPrimary then
    match s.place y dst with
    | some p => some (p.hopsW, p.hopsE)
    | none => if (s.member dst).adm == 2 then some (none, none) else none
  else
    let m := (s.rd (if y then R.RNG_MAP_Y else R.RNG_MAP_X)).toNat
    let other := (s.rd (if y then R.RNG_MAP_X else R.RNG_MAP_Y)).toNat
    if dst != s.obeyed then none
    else if bits m 0 8 != 0xFF then
      (let h := fun (v : Nat) => if v = 0xFF then none else some v
       some (h (bits m 16 8), h (bits m 24 8)))
    else if bits other 0 8 != 0xFF then some (none, none)
    else none

/-- The direction in which bulk to a position leaves on a ring (R173): the one with fewer hops, east when equal or not
known; none without a path. -/
def State.bulkDir (s : State) (y : Bool) (dst : Nat) : Option Bool :=
  let e := outPort y true
  let w := outPort y false
  if s.portDown e && s.portDown w then none
  else if s.portDown e then some false
  else if s.portDown w then some true
  else match s.hopsTo y dst with
    | some (some a, some b) => some (Nat.ble a b)
    | some (some _, none) => some true
    | some (none, some _) => some false
    | some (none, none) => none
    | none => some true

/-- Ring and direction of bulk to a position (R173). -/
def State.bulkRoute (s : State) (dst : Nat) : Option (Bool × Bool) :=
  let y := s.flag F.RNG_CTRL_BULK_RING
  match s.bulkDir y dst with
  | some d => some (y, d)
  | none => (s.bulkDir (!y) dst).map fun d => (!y, d)

/-- Body of a BULK codeword (R172). -/
def bulkBody (f : Flow) (flags seq : Nat) (data : List Byte) : List Byte :=
  leBytes 1 f.stream ++ leBytes 1 flags ++ leBytes 2 seq ++ leBytes 2 f.rxNext ++ leBytes 1 (Nat.min 255 f.rxCredits) ++
    leBytes 1 0 ++ padTo 168 data

/-- The flow has a codeword to send, and the credit for it (R175). -/
def Flow.ready (f : Flow) : Bool :=
  Nat.blt f.txSent f.txQueue.length && (Nat.blt f.txSent f.txPaid || Nat.blt 0 f.credits)

/-- The flow after its next codeword has left. -/
def Flow.sent (f : Flow) : Flow :=
  let pay := Nat.ble f.txPaid f.txSent
  { f with
    txSent := f.txSent + 1
    txPaid := if pay then f.txSent + 1 else f.txPaid
    credits := if pay then f.credits - 1 else f.credits
    rxCredits := f.rxCredits - Nat.min 255 f.rxCredits
    owed := false }

/-- Send a BULK codeword by a port and lane. -/
def State.bulkOut (s : State) (p lane : Nat) (f : Flow) (flags seq : Nat) (data : List Byte) : State :=
  s.sendLine p lane (codeword
    { typ := Ty.bulk, src := s.pos, dst := f.peer, tag := s.scn.toNat % 256,
      route := routeOf (Nat.ble 2 p) (p % 2 == 1), count := data.length } (bulkBody f flags seq data))

/-- An IDLE position on a port and lane (R173): a diverted codeword first, then local bulk whose route leaves by the
port. A buffered codeword that reads uncorrectable is dropped (R486); a local one is sent again by its flow (R176). -/
def State.bulkInsert (s : State) (p l : Nat) (bad : Bool) : State :=
  if s.portDown p then s
  else
    let drop := fun (s : State) =>
      (s.bumpReg R.RNG_CNT_DROP).raise { code := 0x0F04, cls := 1, scope := .node }
    match Bank.at [] s.rng.transit p with
    | cw :: t =>
      let s1 := { s with rng := { s.rng with transit := Bank.upd [] s.rng.transit p t } }
      if bad then drop s1 else s1.sendLine p l cw
    | [] =>
      let mine := fun (f : Flow) => f.ready && s.running &&
        s.bulkRoute f.peer == some (Nat.ble 2 p, p % 2 == 1)
      match s.rng.flows.find? mine with
      | none => s
      | some f =>
        match f.txQueue[f.txSent]? with
        | none => s
        | some c =>
          let s1 := s.setFlow f.sent
          if bad then drop s1
          else s1.bulkOut p l f (b2n c.first + 2 * b2n c.last) ((f.txAck + f.txSent) % 65536) c.data

/-- Four cycles without progress: the flow sends again from its first unacknowledged codeword (R176). -/
def State.bulkResend (s : State) (dst stream : Nat) : State :=
  let f := s.flow dst stream
  s.when (Nat.blt 0 f.txSent) (·.setFlow { f with txSent := 0 })

/-- A receiver with credits or an ACK_SEQ to return and nothing to send sends CREDIT_ONLY on lane 0 (R175, R176). -/
def State.creditOnly (s : State) (dst stream : Nat) : State :=
  let f := s.flow dst stream
  match s.bulkRoute dst with
  | some (y, e) =>
    s.when (s.running && (f.owed || Nat.blt 0 f.rxCredits) && !f.ready) fun s =>
      (s.setFlow { f with rxCredits := f.rxCredits - Nat.min 255 f.rxCredits, owed := false }).bulkOut
        (outPort y e) 0 f 4 ((f.txAck + f.txSent) % 65536) []
  | none => s

/-- The records whose relay the peer has acknowledged show SENT (R465). -/
def State.markSent (s : State) (l : List TxCw) : State :=
  l.foldl (fun s c => match c.note with
    | some n => s.when (s.get (F.FLT_RECr_W0_NUM (recIdx n)) == n) (·.setFlag (F.FLT_RECr_W1_SENT (recIdx n)) true)
    | none => s) s

/-- What a BULK codeword that the flow accepts brings: whether it is the last of its message, its own data, and the data
of the message so far. -/
structure BulkIn where
  last : Bool
  data : List Byte
  all : List Byte
  deriving DecidableEq, Repr

/-- Take the flow part of a received BULK codeword (R175, R176): the acknowledgement, the credits, and the data when its
SEQ is the next expected. -/
def State.bulkTake (s : State) (src : Nat) (cw : List Byte) : State × Option BulkIn :=
  let stream := byteAt cw 8
  let flags := byteAt cw 9
  let f := s.flow src stream
  let d := (leAt cw 12 2 + 65536 - f.txAck) % 65536
  let k := if Nat.ble d f.txPaid then d else 0
  let f1 := { f with
    txAck := (f.txAck + k) % 65536, txQueue := f.txQueue.drop k, txSent := f.txSent - k, txPaid := f.txPaid - k
    credits := f.credits + byteAt cw 14 }
  let s1 := s.markSent (f.txQueue.take k)
  if bit flags 2 then (s1.setFlow f1, none)
  else if leAt cw 10 2 != f1.rxNext then (s1.setFlow { f1 with owed := true }, none)
  else
    let data := (cw.drop 16).take (Nat.min 168 (byteAt cw 6))
    let all := if bit flags 0 then data else f1.rxData ++ data
    let f2 := { f1 with
      rxNext := (f1.rxNext + 1) % 65536, rxCredits := f1.rxCredits + 1, owed := true
      rxData := if bit flags 1 then [] else all }
    (s1.setFlow f2, some ⟨bit flags 1, data, all⟩)

/-! ### Meanings -/

def execBulkInsert (p : Fin 4) (l : Fin 2) (bad : Bool) (s : State) : Host.Outcome State Fault Refusal :=
  .next (s.live fun s => s.bulkInsert p.val l.val bad)

def execBulkResend (dst stream : BitVec 8) (s : State) : Host.Outcome State Fault Refusal :=
  .next (s.live fun s => s.bulkResend dst.toNat stream.toNat)

def execCreditOnlySend (dst stream : BitVec 8) (s : State) : Host.Outcome State Fault Refusal :=
  .next (s.live fun s => s.creditOnly dst.toNat stream.toNat)

end Sys2Proof.Machine
end

