-- ==== Sys2Proof/Machine/Sm.lean ====
section
/-! DEFINITION. Machine/Sm.lean: the digest SM3 (GB/T 32905) and the verification of an SM2 signature over SM3
(GB/T 32918), which R97 names. The constants are those of the two standards; words are natural numbers below 2^32, and byte
strings are lists of bytes, most significant byte first.
Marked choices: log entry 47 (PRESUMED). -/
namespace Sys2Proof.Machine

/-! ### SM3 -/

def w32 (n : Nat) : Nat := n % 4294967296

def rol32 (x k : Nat) : Nat := w32 (x <<< (k % 32)) ||| x >>> (32 - k % 32)

def not32 (x : Nat) : Nat := 4294967295 - x

def sm3P0 (x : Nat) : Nat := x ^^^ rol32 x 9 ^^^ rol32 x 17
def sm3P1 (x : Nat) : Nat := x ^^^ rol32 x 15 ^^^ rol32 x 23

/-- The eight chaining words. -/
structure Sm3V where
  a : Nat
  b : Nat
  c : Nat
  d : Nat
  e : Nat
  f : Nat
  g : Nat
  h : Nat
  deriving DecidableEq, Repr

def sm3Iv : Sm3V :=
  ⟨0x7380166F, 0x4914B2B9, 0x172442D7, 0xDA8A0600, 0xA96F30BC, 0x163138AA, 0xE38DEE4D, 0xB0FB0E4E⟩

/-- Round j with message words W_j and W_(j+4). -/
def sm3Round (j : Nat) (v : Sm3V) (w w4 : Nat) : Sm3V :=
  let t := if j < 16 then 0x79CC4519 else 0x7A879D8A
  let ff := fun (x y z : Nat) => if j < 16 then x ^^^ y ^^^ z else (x &&& y) ||| (x &&& z) ||| (y &&& z)
  let gg := fun (x y z : Nat) => if j < 16 then x ^^^ y ^^^ z else (x &&& y) ||| (not32 x &&& z)
  let a12 := rol32 v.a 12
  let ss1 := rol32 (w32 (a12 + v.e + rol32 t j)) 7
  let tt1 := w32 (ff v.a v.b v.c + v.d + (ss1 ^^^ a12) + (w ^^^ w4))
  let tt2 := w32 (gg v.e v.f v.g + v.h + ss1 + w)
  ⟨tt1, v.a, rol32 v.b 9, v.c, sm3P0 tt2, v.e, rol32 v.f 19, v.g⟩

/-- The rounds from j on over the window of the last sixteen message words; the window moves on by the expansion. -/
def sm3Rounds : Nat → Nat → Sm3V → List Nat → Sm3V
  | 0, _, v, _ => v
  | n + 1, j, v, ws =>
    match ws with
    | w0 :: w1 :: w2 :: w3 :: w4 :: w5 :: w6 :: w7 :: w8 :: w9 :: w10 :: w11 :: w12 :: w13 :: w14 :: w15 :: _ =>
      let nx := sm3P1 (w0 ^^^ w7 ^^^ rol32 w13 15) ^^^ rol32 w3 7 ^^^ w10
      sm3Rounds n (j + 1) (sm3Round j v w0 w4)
        [w1, w2, w3, w4, w5, w6, w7, w8, w9, w10, w11, w12, w13, w14, w15, nx]
    | _ => v

/-- One block of sixteen words. -/
def sm3Block (v : Sm3V) (ws : List Nat) : Sm3V :=
  let r := sm3Rounds 64 0 v ws
  ⟨r.a ^^^ v.a, r.b ^^^ v.b, r.c ^^^ v.c, r.d ^^^ v.d, r.e ^^^ v.e, r.f ^^^ v.f, r.g ^^^ v.g, r.h ^^^ v.h⟩

/-- A byte string as a number, the first byte most significant. -/
def beNat (bs : List Byte) : Nat := bs.foldl (fun n b => n * 256 + b.toNat) 0

/-- The n bytes of a number, the most significant first. -/
def beBytes (n v : Nat) : List Byte := (List.range n).map fun i => BitVec.ofNat 8 (v >>> (8 * (n - 1 - i)))

/-- The message with its padding, in words. -/
def sm3Words : List Byte → List Nat
  | a :: b :: c :: d :: t => (((a.toNat * 256 + b.toNat) * 256 + c.toNat) * 256 + d.toNat) :: sm3Words t
  | _ => []

def sm3Blocks : Nat → Sm3V → List Nat → Sm3V
  | 0, v, _ => v
  | n + 1, v, ws => sm3Blocks n (sm3Block v (ws.take 16)) (ws.drop 16)

/-- The SM3 digest of a byte string, as a number of 256 bits with byte 0 most significant. -/
def sm3 (m : List Byte) : Nat :=
  let zeros := (119 - m.length % 64) % 64
  let p := m ++ [0x80#8] ++ List.replicate zeros 0#8 ++ beBytes 8 (8 * m.length)
  let v := sm3Blocks (p.length / 64) sm3Iv (sm3Words p)
  [v.a, v.b, v.c, v.d, v.e, v.f, v.g, v.h].foldl (fun n w => n * 4294967296 + w) 0

/-! ### SM2 -/

namespace Sm2
def p : Nat := 0xFFFFFFFEFFFFFFFFFFFFFFFFFFFFFFFFFFFFFFFF00000000FFFFFFFFFFFFFFFF
def a : Nat := 0xFFFFFFFEFFFFFFFFFFFFFFFFFFFFFFFFFFFFFFFF00000000FFFFFFFFFFFFFFFC
def b : Nat := 0x28E9FA9E9D9F5E344D5A9E4BCF6509A7F39789F515AB8F92DDBCBD414D940E93
def n : Nat := 0xFFFFFFFEFFFFFFFFFFFFFFFFFFFFFFFF7203DF6B21C6052B53BBF40939D54123
def gx : Nat := 0x32C4AE2C1F1981195F9904466A39C9948FE30BBFF2660BE1715A4589334C74C7
def gy : Nat := 0xBC3736A2F4F6779C59BDCEE36B692153D0A9877CC62A474002DF32E52139F0A0
end Sm2

/-- A point of the curve in Jacobian coordinates; z = 0 is the point at infinity. -/
structure Jac where
  x : Nat
  y : Nat
  z : Nat
  deriving DecidableEq, Repr

def subP (x y : Nat) : Nat := (x + Sm2.p - y) % Sm2.p

def Jac.dbl (q : Jac) : Jac :=
  if q.z = 0 then q
  else
    let yy := q.y * q.y % Sm2.p
    let s := 4 * (q.x * yy % Sm2.p) % Sm2.p
    let zz := q.z * q.z % Sm2.p
    let m := 3 * ((q.x + Sm2.p - zz) * (q.x + zz) % Sm2.p) % Sm2.p
    let x := subP (m * m % Sm2.p) (2 * s % Sm2.p)
    ⟨x, subP (m * subP s x % Sm2.p) (8 * (yy * yy % Sm2.p) % Sm2.p), 2 * (q.y * q.z % Sm2.p) % Sm2.p⟩

/-- The sum with the affine point (x, y). -/
def Jac.add (q : Jac) (x y : Nat) : Jac :=
  if q.z = 0 then ⟨x, y, 1⟩
  else
    let zz := q.z * q.z % Sm2.p
    let u := x * zz % Sm2.p
    let s := y * (zz * q.z % Sm2.p) % Sm2.p
    let h := subP u q.x
    let r := subP s q.y
    if h = 0 then (if r = 0 then q.dbl else ⟨1, 1, 0⟩)
    else
      let hh := h * h % Sm2.p
      let hhh := hh * h % Sm2.p
      let v := q.x * hh % Sm2.p
      let x3 := subP (subP (r * r % Sm2.p) hhh) (2 * v % Sm2.p)
      ⟨x3, subP (r * subP v x3 % Sm2.p) (q.y * hhh % Sm2.p), q.z * h % Sm2.p⟩

/-- [s]G + [t](x, y), bit by bit from the highest of k bits. -/
def sm2Mul (s t x y : Nat) : Nat → Jac → Jac
  | 0, q => q
  | k + 1, q =>
    let d := q.dbl
    let d1 := if s.testBit k then d.add Sm2.gx Sm2.gy else d
    sm2Mul s t x y k (if t.testBit k then d1.add x y else d1)

/-- Modular power, square and multiply over k bits. -/
def powMod (m b e : Nat) : Nat → Nat → Nat
  | 0, r => r
  | k + 1, r => powMod m b e k (let q := r * r % m; if e.testBit k then q * b % m else q)

/-- The affine x of a point, by Fermat's inverse of z². -/
def Jac.affX (q : Jac) : Nat :=
  let i := powMod Sm2.p (q.z * q.z % Sm2.p) (Sm2.p - 2) 256 1
  q.x * i % Sm2.p

/-- A public key on the curve. -/
def sm2KeyOk (x y : Nat) : Bool :=
  Nat.blt x Sm2.p && Nat.blt y Sm2.p && y * y % Sm2.p == ((x * x % Sm2.p) * x + Sm2.a * x + Sm2.b) % Sm2.p

/-- The signature (r, s) over message `m` verifies under the public key (x, y) and the distinguishing identifier `id`. -/
def sm2Verify (id m : List Byte) (x y r s : Nat) : Bool :=
  let z := sm3 (beBytes 2 (8 * id.length) ++ id ++
    ([Sm2.a, Sm2.b, Sm2.gx, Sm2.gy, x, y].flatMap fun v => beBytes 32 v))
  let e := sm3 (beBytes 32 z ++ m)
  let t := (r + s) % Sm2.n
  sm2KeyOk x y && Nat.blt 0 r && Nat.blt r Sm2.n && Nat.blt 0 s && Nat.blt s Sm2.n && t != 0 &&
    (let q := sm2Mul s t x y 256 ⟨1, 1, 0⟩
     q.z != 0 && (e + q.affX) % Sm2.n == r)

end Sys2Proof.Machine
end

