-- ==== Sys2Proof/Machine/Crypto.lean ====
section
/-! DEFINITION. Machine/Crypto.lean: what the supervisory port and the signer do with SM2, SM3 and SM4 (R97, R386, R524, R525,
R545): signatures with the module's identity key, the SM2 key exchange of GB/T 32918.3, HMAC-SM3, and SM4 (GB/T 32907) in
counter mode.
Marked choices: log entry 47 (PRESUMED); log entry 55 (DESIGN CHOICE). -/
namespace Sys2Proof.Machine

/-! ### Points -/

/-- The affine point, 0 and 0 for the point at infinity. -/
def Jac.affine (q : Jac) : Nat × Nat :=
  let i := powMod Sm2.p q.z (Sm2.p - 2) 256 1
  let ii := i * i % Sm2.p
  (q.x * ii % Sm2.p, q.y * (ii * i % Sm2.p) % Sm2.p)

/-- [u](x1, y1) + [v](x2, y2), bit by bit from the highest of k bits. -/
def jacMul (u x1 y1 v x2 y2 : Nat) : Nat → Jac → Jac
  | 0, q => q
  | k + 1, q =>
    let d := q.dbl
    let d1 := if u.testBit k then d.add x1 y1 else d
    jacMul u x1 y1 v x2 y2 k (if v.testBit k then d1.add x2 y2 else d1)

/-- [k]G. -/
def sm2Base (k : Nat) : Nat × Nat := (sm2Mul k 0 0 0 256 ⟨1, 1, 0⟩).affine

/-- Z of a party: its identifier, the curve and its public key. -/
def sm2Z (id : List Byte) (x y : Nat) : Nat :=
  sm3 (beBytes 2 (8 * id.length) ++ id ++ ([Sm2.a, Sm2.b, Sm2.gx, Sm2.gy, x, y].flatMap fun v => beBytes 32 v))

/-! ### The identity key -/

/-- The module's identity key lies in 1 to n − 2. -/
def idPriv : Nat := Config.idKey.toNat % (Sm2.n - 2) + 1

def idPub : Nat × Nat := sm2Base idPriv

/-- The SM2 signature r then s of message `m` under private key d and identifier `id`, with the nonce k. -/
def sm2Sign (d : Nat) (id m : List Byte) (k : Nat) : List Byte :=
  let pub := sm2Base d
  let e := sm3 (beBytes 32 (sm2Z id pub.1 pub.2) ++ m)
  let r := (e + (sm2Base k).1) % Sm2.n
  let s := powMod Sm2.n (d + 1) (Sm2.n - 2) 256 1 * ((k + Sm2.n * Sm2.n - r * d) % Sm2.n) % Sm2.n
  beBytes 32 r ++ beBytes 32 s

/-- A draw of the random number generator as a scalar, 1 to n − 1. -/
def scalarOf (v : BitVec 256) : Nat := v.toNat % (Sm2.n - 1) + 1

/-! ### The key exchange -/

/-- The key derivation function: n blocks of SM3 over z and a counter from 1. -/
def sm3Kdf (z : List Byte) (n : Nat) : List Byte :=
  (List.range n).flatMap fun i => beBytes 32 (sm3 (z ++ beBytes 4 (i + 1)))

/-- 2^127 and the low 127 bits of x. -/
def xBar (x : Nat) : Nat := 2 ^ 127 + x % 2 ^ 127

/-- What the responder derives. -/
structure Agreed where
  /-- 64 bytes: MAC key to the HEAD, MAC key to the host, SM4 key to the HEAD, SM4 key to the host (R524). -/
  keys : List Byte
  sb : List Byte
  sa : List Byte
  deriving DecidableEq, Repr

/-- The responder's side of the exchange (R524): the host's static key (xa, ya), its ephemeral key (x1, y1), and this
module's ephemeral scalar r; none where the shared point is the one at infinity. -/
def sm2Respond (idA idB : List Byte) (xa ya x1 y1 r : Nat) : Option Agreed :=
  let pub := idPub
  let rb := sm2Base r
  let t := (idPriv + xBar rb.1 * r) % Sm2.n
  let q := jacMul t xa ya (t * xBar x1 % Sm2.n) x1 y1 256 ⟨1, 1, 0⟩
  if q.z = 0 then none
  else
    let v := q.affine
    let zz := beBytes 32 (sm2Z idA xa ya) ++ beBytes 32 (sm2Z idB pub.1 pub.2)
    let inner := beBytes 32 (sm3 (beBytes 32 v.1 ++ zz ++ ([x1, y1, rb.1, rb.2].flatMap fun c => beBytes 32 c)))
    let confirm := fun (k : Nat) => beBytes 32 (sm3 (beBytes 1 k ++ beBytes 32 v.2 ++ inner))
    some { keys := sm3Kdf (beBytes 32 v.1 ++ beBytes 32 v.2 ++ zz) 2, sb := confirm 2, sa := confirm 3 }

/-! ### HMAC-SM3 -/

/-- HMAC of RFC 2104 with SM3 and a key of at most 64 bytes. -/
def hmacSm3 (key m : List Byte) : List Byte :=
  let k := key ++ List.replicate (64 - key.length) 0#8
  let pad := fun (v : Byte) => k.map fun b => b ^^^ v
  beBytes 32 (sm3 (pad 0x5C#8 ++ beBytes 32 (sm3 (pad 0x36#8 ++ m))))

/-! ### SM4 -/

/-- The S-box, sixteen entries in each number, the first most significant. -/
def sm4Box : List Nat := [
  0xD690E9FECCE13DB716B614C228FB2C05, 0x2B679A762ABE04C3AA44132649860699,
  0x9C4250F491EF987A33540B43EDCFAC62, 0xE4B31CA9C908E89580DF94FA758F3FA6,
  0x4707A7FCF37317BA83593C19E6854FA8, 0x686B81B27164DA8BF8EB0F4B70569D35,
  0x1E240E5E6358D1A225227C3B01217887, 0xD40046579FD327524C3602E7A0C4C89E,
  0xEABF8AD240C738B5A3F7F2CEF96115A1, 0xE0AE5DA49B341A55AD933230F58CB1E3,
  0x1DF6E22E8266CA60C02923AB0D534E6F, 0xD5DB3745DEFD8E2F03FF6A726D6C5B51,
  0x8D1BAF92BBDDBC7F11D95C411F105AD8, 0x0AC13188A5CD7BBD2D74D012B8E5B4B0,
  0x8969974A0C96777E65B9F109C56EC684, 0x18F07DEC3ADC4D2079EE5F3ED7CB3948]

def sm4Sub (b : Nat) : Nat := ((sm4Box.getD (b / 16) 0) >>> (8 * (15 - b % 16))) % 256

/-- The S-box on the four bytes of a word. -/
def sm4Tau (w : Nat) : Nat :=
  [24, 16, 8, 0].foldl (fun n k => n * 256 + sm4Sub ((w >>> k) % 256)) 0

def sm4L (w : Nat) : Nat := w ^^^ rol32 w 2 ^^^ rol32 w 10 ^^^ rol32 w 18 ^^^ rol32 w 24
def sm4Lk (w : Nat) : Nat := w ^^^ rol32 w 13 ^^^ rol32 w 23

/-- Constant i of the key schedule: bytes 7(4i + j) mod 256. -/
def sm4Ck (i : Nat) : Nat := (List.range 4).foldl (fun n j => n * 256 + 7 * (4 * i + j) % 256) 0

/-- Round keys from i on, from the last four words. -/
def sm4Keys : Nat → Nat → Nat → Nat → Nat → Nat → List Nat
  | 0, _, _, _, _, _ => []
  | n + 1, i, a, b, c, d =>
    let k := a ^^^ sm4Lk (sm4Tau (b ^^^ c ^^^ d ^^^ sm4Ck i))
    k :: sm4Keys n (i + 1) b c d k

def sm4Rounds : List Nat → Nat → Nat → Nat → Nat → List Nat
  | [], a, b, c, d => [d, c, b, a]
  | k :: t, a, b, c, d => sm4Rounds t b c d (a ^^^ sm4L (sm4Tau (b ^^^ c ^^^ d ^^^ k)))

/-- The words of a block. -/
def beWord (bs : List Byte) (i : Nat) : Nat := beNat ((bs.drop (4 * i)).take 4)

/-- SM4 of one block of 16 bytes. -/
def sm4 (key blk : List Byte) : List Byte :=
  let ks := sm4Keys 32 0 (beWord key 0 ^^^ 0xA3B1BAC6) (beWord key 1 ^^^ 0x56AA3350) (beWord key 2 ^^^ 0x677D9197)
    (beWord key 3 ^^^ 0xB27022DC)
  (sm4Rounds ks (beWord blk 0) (beWord blk 1) (beWord blk 2) (beWord blk 3)).flatMap fun w => beBytes 4 w

/-- Counter mode over n blocks: `ctr i` is counter block i. -/
def sm4Ctr (key : List Byte) (ctr : Nat → List Byte) : Nat → Nat → List Byte → List Byte
  | 0, _, _ => []
  | n + 1, i, m =>
    List.zipWith (· ^^^ ·) (m.take 16) (sm4 key (ctr i)) ++ sm4Ctr key ctr n (i + 1) (m.drop 16)

end Sys2Proof.Machine
end

