-- ==== Sys2Proof/Machine/Reports.lean ====
section
/-! DEFINITION. Machine/Reports.lean: the reports a primary HEAD forms (R537, R538) and the queues of the sessions that
carry them (R540, R541).
Marked choices: log entry 33 (DEDUCED); log entry 35 (DESIGN CHOICE); log entry 47 (PRESUMED). -/
namespace Sys2Proof.Machine

namespace Rep
def fault : Nat := 1
def health : Nat := 2
def energy : Nat := 3
def capture : Nat := 4
def wrap : Nat := 5
def failover : Nat := 6
def batch : Nat := 7
def dropped : Nat := 8
end Rep

def State.sess (s : State) (n : Nat) : Sess := Bank.at {} s.sup.sess n
def State.setSess (s : State) (n : Nat) (v : Sess) : State :=
  { s with sup := { s.sup with sess := Bank.upd {} s.sup.sess n v } }

def State.sessOpen (s : State) (n : Nat) : Bool := s.flag (F.SUP_SESSn_STAT_OPEN n)
def State.sessHalf (s : State) (n : Nat) : Bool := s.flag (F.SUP_SESSn_STAT_HALF n)

/-- The supervisory port runs: a HEAD with EN = 1 that is not UNBOUND, in LOADFAIL or in lockout (R33, R519). -/
def State.supRuns (s : State) : Bool :=
  s.isHead && s.flag F.SUP_CTRL_EN && s.stage != Stage.unbound && s.stage != Stage.loadFail &&
    s.stage != Stage.lockout

/-- SUP_REP_STAT, SUP_STAT.SESS and PRIMARY follow the sessions and the role (R519, R549). -/
def State.supStat (s : State) : State :=
  let n := (List.range 4).foldl (fun m i => m + b2n (s.sessOpen i)) 0
  let d := (List.range 4).foldl (fun m i => Nat.max m (s.sess i).queue.length) 0
  ((s.put F.SUP_STAT_SESS n).put F.SUP_REP_STAT_DEPTH d).setFlag F.SUP_STAT_PRIMARY (s.supRuns && s.isPrimary)

/-- Count a dropped report, and raise row 4 at the first drop of a run (R540). -/
def State.repDrop (s : State) (n prio : Nat) : State :=
  let s1 := match prio with
    | 0 => { s.bump F.SUP_REP_DROP_P0 with sup := { s.sup with drop0 := s.sup.drop0 + 1 } }
    | 1 => { s.bump F.SUP_REP_DROP_P1 with sup := { s.sup with drop1 := s.sup.drop1 + 1 } }
    | _ => { s.bump F.SUP_REP_DROP_P2 with sup := { s.sup with drop2 := s.sup.drop2 + 1 } }
  if (s1.sess n).dropRun then s1
  else (s1.setSess n { s1.sess n with dropRun := true }).raise { code := 0x1104, cls := 0, scope := .node }

/-- The newest queued report of the lowest priority present, when that is lower than `prio`. -/
def victim (prio : Nat) (q : List QRep) : Option QRep :=
  let low := q.foldl (fun m r => Nat.max m r.prio) 0
  if Nat.blt prio low then (q.filter (fun r => r.prio == low)).getLast? else none

/-- A report joins a session's queue of 256 (R540). -/
def State.enqueue (s : State) (n : Nat) (r : QRep) : State :=
  let ss := s.sess n
  if Nat.blt ss.queue.length 256 then
    s.setSess n { ss with queue := ss.queue ++ [r], dropRun := false }
  else
    match victim r.prio ss.queue with
    | some v => (s.setSess n { ss with queue := ss.queue.filter (fun e => e != v) ++ [r] }).repDrop n v.prio
    | none => s.repDrop n r.prio

/-- The 16-byte head of a REPORT (R537). -/
def State.repHead (s : State) (kind prio origin : Nat) : List Byte :=
  leBytes 1 kind ++ leBytes 1 prio ++ leBytes 1 origin ++ leBytes 1 0 ++ leBytes 6 s.stime48 ++ leBytes 2 0 ++
    leBytes 4 s.scn.toNat

/-- The primary forms a report: it takes the next RSEQ, and every session that has subscribed to its kind queues it
(R519, R523, R537, R540). -/
def State.report (s : State) (kind prio origin : Nat) (payload : List Byte) : State :=
  if s.isPrimary && s.supRuns then
    let rseq := s.rd R.SUP_RSEQ + 1
    let r : QRep := ⟨rseq, kind, prio, s.repHead kind prio origin ++ payload, 0, 0⟩
    let s1 := s.wr R.SUP_RSEQ rseq
    (forUpTo 4 (fun n s => s.when (s.sessOpen n && (s.sess n).sub.getLsbD kind) (·.enqueue n r)) s1).supStat
  else s

/-! ### Records that the collector reports (R465, R472) -/

/-- The eight words of record index i as bytes. -/
def State.recBytes (s : State) (i : Nat) : List Byte :=
  wordBytes ((List.range 8).map fun w => s.rd (R.FLT_RECr_Ww i w))

/-- Report record number `num` (R465, R538): the primary forms a FAULT report, every other node relays the record. -/
def State.reportRecord (s : State) (num : Nat) : State :=
  let i := recIdx num
  let c := s.get (F.FLT_RECr_W1_CLASS i)
  if s.isPrimary then
    s.when (Nat.ble (s.get F.FLT_CFG_REP_CLS) c) (·.report Rep.fault (if Nat.ble 4 c then 0 else 1) s.pos (s.recBytes i))
  else
    s.when (Nat.ble (s.get F.FLT_CFG_REP_CLS) c || s.isStandby && c == 4)
      (·.relay Relay.fault (s.recBytes i) (some num))

/-- A block has released the switch or leg its own FC2 raises held (R472): a record that this clears is reported again,
unless it is still open (R465). -/
def State.releaseOwn (s : State) (p : Cause → Bool) : State :=
  let hitRec := s.flt.causes.filterMap fun c => if c.own && p c && !c.released then c.recNo else none
  let cs := s.flt.causes.map fun c =>
    if c.own && p c then { c with released := true, ended := true } else c
  let s1 := { s with flt := { s.flt with causes := cs } }
  let s2 := (hitRec.foldl (fun s n => s.recRefresh n) s1).fltRefresh
  (List.range 64).foldl (fun s i =>
    if s2.flag (F.FLT_RECr_W1_CLEARED i) && !s1.flag (F.FLT_RECr_W1_CLEARED i) && !s2.flag (F.FLT_RECr_W1_OPEN i) then
      s.reportRecord (s2.get (F.FLT_RECr_W0_NUM i))
    else s) s2

/-! ### Sending -/

/-- One second and one token in the units of `Sess.bucket`. -/
def tokenUnit : Nat := 1562500000

/-- Refill a session's bucket to now (R540). -/
def State.refill (s : State) (n : Nat) : State :=
  let ss := s.sess n
  let full := s.get F.SUP_REP_CFG_BURST * tokenUnit
  let b := Nat.min full (ss.bucket + s.get F.SUP_REP_CFG_RATE * (s.sys.up - ss.bucketAt))
  s.setSess n { ss with bucket := b, bucketAt := s.sys.up }

def State.hasToken (s : State) (n : Nat) : Bool := Nat.ble tokenUnit (s.sess n).bucket

/-- The session that a SID names. -/
def State.sidSess (s : State) (sid : Nat) : Option Nat :=
  if sid = 0 then none
  else (List.range 4).find? fun n =>
    s.get (F.SUP_SESSn_STAT_SID n) == sid && (s.sessOpen n || s.sessHalf n)

/-- Key k of a session: 0 MAC to the HEAD, 1 MAC to the host, 2 SM4 to the HEAD, 3 SM4 to the host (R524). -/
def Sess.key (ss : Sess) (k : Nat) : List Byte := (ss.keys.drop (16 * k)).take 16

/-- Counter block i of a message (R525). -/
def ctrBlock (sid typ flags seq i : Nat) : List Byte :=
  leBytes 2 sid ++ leBytes 1 typ ++ leBytes 1 flags ++ leBytes 4 seq ++ leBytes 4 0 ++ leBytes 4 i

/-- A body under SM4 in counter mode (R525). -/
def sm4Body (key : List Byte) (sid typ flags seq : Nat) (body : List Byte) : List Byte :=
  sm4Ctr key (ctrBlock sid typ flags seq) ((body.length + 15) / 16) 0 body

/-- The MAC of a message (R525): the first 16 bytes of HMAC-SM3 over header and body as sent. -/
def macOf (key head body : List Byte) : List Byte := (hmacSm3 key (head ++ body)).take 16

/-- The header of a message (R514). -/
def dgHead (typ flags status seq node len sid : Nat) : List Byte :=
  let h := leBytes 1 1 ++ leBytes 1 typ ++ leBytes 1 flags ++ leBytes 1 status ++ leBytes 4 seq ++ leBytes 1 node ++
    leBytes 1 0 ++ leBytes 2 len ++ leBytes 2 sid
  h ++ leBytes 2 (crc16 h)

/-- The datagram of a message to the host (R514, R525): encrypted and with a MAC where its session is, phase 2 and a message
with SID 0 without. -/
def State.wireOf (s : State) (sid typ : Nat) (resp : Bool) (status seq node : Nat) (body : List Byte) : List Byte :=
  match s.sidSess sid with
  | none => dgHead typ (b2n resp) status seq node body.length sid ++ body
  | some n =>
    let ss := s.sess n
    let enc := s.flag (F.SUP_SESSn_STAT_ENC n)
    let flags := b2n resp + 2 * b2n enc
    let b := if enc then sm4Body (ss.key 3) sid typ flags seq body else body
    let head := dgHead typ flags status seq node body.length sid
    if typ = 7 ∧ byteAt body 0 = 2 then head ++ b else head ++ b ++ macOf (ss.key 1) head b

/-- A message to the host, at the addresses of its session's last valid message, else at those given (R513). -/
def State.hostMsg (s : State) (sid typ : Nat) (resp : Bool) (status seq node : Nat) (body : List Byte)
    (dst : List Byte := []) : Out :=
  .host (match s.sidSess sid with | some n => (s.sess n).addr | none => dst) sid typ resp status seq node body
    (s.wireOf sid typ resp status seq node body)

/-- Send a message to the host and count it (R549). -/
def State.toHost (s : State) (sid typ : Nat) (resp : Bool) (status seq node : Nat) (body : List Byte)
    (dst : List Byte := []) : State :=
  (s.wr R.SUP_CNT_TX (s.rd R.SUP_CNT_TX + 1)).emit (s.hostMsg sid typ resp status seq node body dst)

/-- Earlier in the service order of R540: by priority, then by RSEQ. -/
def repBefore (a b : QRep) : Bool := Nat.blt a.prio b.prio || a.prio == b.prio && scnLater b.rseq a.rseq

def repNext (q : List QRep) : Option QRep :=
  q.foldl (fun m r => match m with | none => some r | some b => if repBefore r b then some r else m) none

/-- Send one report of a session with a token (R540): P0 and P1 then wait for their acknowledgement (R541), and a record
of this node shows SENT (R465). -/
def State.sendReport (s : State) (n : Nat) (r : QRep) : State :=
  let ss := s.sess n
  let r1 := { r with sends := r.sends + 1, sentAt := s.sys.up }
  let s1 := s.setSess n { ss with
    bucket := ss.bucket - tokenUnit
    queue := ss.queue.filter (fun e => e.rseq != r.rseq)
    wait := ss.wait.filter (fun e => e.rseq != r.rseq) ++ (if Nat.ble r.prio 1 then [r1] else []) }
  let s2 := (s1.toHost (s1.get (F.SUP_SESSn_STAT_SID n)) 4 false 0 r.rseq.toNat (byteAt r.body 2) r.body).supStat
  let num := leAt r.body 18 2
  s2.when (r.kind == Rep.fault && byteAt r.body 2 == s.pos && s2.get (F.FLT_RECr_W0_NUM (recIdx num)) == num)
    (·.setFlag (F.FLT_RECr_W1_SENT (recIdx num)) true)

end Sys2Proof.Machine
end

