-- ==== Sys2Proof/Machine/Time.lean ====
section
/-! DEFINITION. Machine/Time.lean: how time passes at a node (R82 to R86, R183 to R190): base ticks, the spread and slew
terms, the increment of STIME and its wrap. An event of the table that falls due at a time the node keeps takes the node's
clocks on to that time.
Marked choices: log entry 1 (DESIGN CHOICE); log entries 29, 38 (DEDUCED). -/
namespace Sys2Proof.Machine

/-- 625 periods of the 10 MHz modulator clock, in quarter base ticks (R370). -/
def samplePer : Nat := 390625

/-- STIME units of 2^-40 ns. -/
def stimeUnit : Nat := 2 ^ 40
def stimeWrap : Nat := 2 ^ 72

/-- 0.64 ns in units of 2^-40 ns (R189). -/
def incNom : Nat := 703687441777

/-- The clamp of R190. -/
def yMax : Frac := ⟨1, 5000⟩

/-- The terms that act in the increment: y_I of a slewing source acts through the root (R86, R189). -/
def State.slews (s : State) : Bool := s.flag F.CLK_STAT_SOURCE && s.flag F.CLK_CTRL_SLEW_EN

def State.ySum (s : State) : Frac := Frac.clamp yMax.neg yMax (s.tim.yP.add s.tim.yI)

def State.yInc (s : State) : Frac := if s.slews then Frac.clamp yMax.neg yMax s.tim.yP else s.ySum

/-- The delayed spread term s'(t) as a non-positive fraction (R83 to R85). -/
def State.spread (s : State) : Frac :=
  let per := s.get F.CLK_SPREAD_PERIOD
  if !s.flag F.CLK_CTRL_SPREAD_EN || per = 0 then Frac.zero
  else
    let dly := if s.flag F.CLK_STAT_SOURCE then 0 else s.get F.CLK_RAMP_DLY_DLY % per
    let x := (s.clk.ramp + per - dly) % per
    let up := if 2 * x ≤ per then x else per - x
    Frac.mk' (-((s.get F.CLK_SPREAD_DEPTH * 2 * up : Nat) : Int)) (10000 * per)

/-- The increment of one base tick in units of 2^-40 ns (R189). -/
def State.inc (s : State) : Nat :=
  let k := (Frac.one.add s.yInc).div (Frac.one.sub s.spread)
  (k.mul (Frac.ofNat incNom)).round.toNat

/-- STIME wraps (R188). -/
def State.wrapped (s : State) : State :=
  let s1 :=
    if s.flag F.TIM_STAT_WRAP then
      (s.setFlag F.TIM_STAT_WRAP_OVR true).raise { code := 0x0508, cls := 0, scope := .node }
    else s
  let s2 := s1.setFlag F.TIM_STAT_WRAP true
  s2.report 5 1 s2.pos []

/-- Station time runs on by `d` units, through every wrap on its way. -/
def State.runTime (s : State) (d : Nat) : State :=
  let t := s.tim.stime + d
  let n := t / stimeWrap
  forUpTo n (fun _ s => s.wrapped)
    { s with tim := { s.tim with stime := t % stimeWrap, acc := s.tim.acc + d, wraps := s.tim.wraps + n } }

/-- The slew target follows y_I on a slewing source (R86, R189). -/
def State.slewTarget (s : State) : State :=
  if s.slews then
    let lim : Frac := ⟨1, 10000⟩
    let t := Frac.clamp lim.neg lim s.tim.yI
    ({ s with clk := { s.clk with wTarget := t } }).setFlag F.CLK_STAT_SLEW_LIM (t != s.tim.yI)
  else s

/-- The step of w(t) and of the pull of REACQUIRE in one base tick, SLOPE in 0.01 ppm/s (R80, R86). -/
def State.slewStep (s : State) : Frac := Frac.mk' (s.get F.CLK_SLEW_SLOPE * 64 : Nat) 10000000000000000000

/-- `x` moved towards `target` by at most `d`. -/
def Frac.towards (x target d : Frac) : Frac :=
  let e := target.sub x
  if e.abs.ble d then target else if e.num < 0 then x.sub d else x.add d

/-- w(t) moves towards its target for n base ticks (R86). -/
def State.slewRun (s : State) (n : Nat) : State :=
  if s.clk.w == s.clk.wTarget then s
  else
    let w := Frac.towards s.clk.w s.clk.wTarget (s.slewStep.mul (Frac.ofNat n))
    ({ s with clk := { s.clk with w := w } }).put F.CLK_SLEW_OFFSET (unsgn 24 (w.mul (Frac.ofNat (1000000 * 65536))).round)

/-- A root in REACQUIRE absorbs the phase step and pulls towards REFIN for n base ticks (R80). -/
def State.pullRun (s : State) (n : Nat) : State :=
  if s.clk.root == .reacquire && n != 0 then
    { s with clk := { s.clk with
      absorbed := true
      fErr := Frac.towards s.clk.fErr Frac.zero ((s.slewStep.mul (Frac.ofNat n)).mul (Frac.ofNat 1000000)) } }
  else s

/-- n base ticks of the running node pass (R82, R83, R189), each with the increment of the first of them. -/
def State.runTicks (s : State) (n : Nat) : State :=
  let per := s.get F.CLK_SPREAD_PERIOD
  let s1 := { s with sys := { s.sys with up := s.sys.up + n }
                     clk := { s.clk with ramp := if per = 0 then 0 else (s.clk.ramp + n) % per } }
  ((s1.slewRun n).pullRun n).runTime (n * s1.inc)

/-- One base tick. -/
def State.tick (s : State) : State := s.runTicks 1

/-- An event due at base tick t since release of reset has come: the clocks run on to it. -/
def State.runUp (s : State) (t : Nat) : State := s.runTicks (t - s.sys.up)

/-- An event due `ns` nanoseconds after base tick t has come. -/
def State.runAfter (s : State) (t ns : Nat) : State := s.runUp (t + (ns * 25 + 15) / 16)

/-- The first STIME at which LTIME reads k, in units of 2^-40 ns (R184). -/
def stimeOfTick (k : Nat) : Nat := ((k * 131072 + 24) / 25) * 2 ^ 24

/-- STIME with its wraps counted in, in units of 2^-40 ns and in ns. -/
def State.stimeExt (s : State) : Nat := s.tim.wraps * stimeWrap + s.tim.stime
def State.nsExt (s : State) : Nat := s.stimeExt / stimeUnit

/-- An event has come `d` units of station time ahead. -/
def State.runAhead (s : State) (d : Nat) : State := s.runTicks ((d + s.inc - 1) / Nat.max 1 s.inc)

/-- An event at the STIME `t` has come: the clocks run on to the first base tick at or after it; an event of the past half
wrap has passed already. -/
def State.runToStime (s : State) (t : Nat) : State :=
  let d := (t + stimeWrap - s.tim.stime % stimeWrap) % stimeWrap
  if stimeWrap ≤ 2 * d then s else s.runAhead d

/-- An event at the tick t of station time has come: the clocks run on to the first base tick at or after it. -/
def State.runToTick (s : State) (t : Nat) : State :=
  if Nat.ble t s.lnow then s
  else s.runAhead ((t / ltimeWrap * stimeWrap + stimeOfTick (t % ltimeWrap)) - s.stimeExt)

/-- An event at LTIME k has come. -/
def State.runTo (s : State) (k : Nat) : State := s.runToStime (stimeOfTick k % stimeWrap)

/-- An event of the cycle in progress has come, k lattice ticks after its boundary (R161). -/
def State.runIn (s : State) (k : Nat) : State := s.runTo ((s.tim.lastB + k) % ltimeWrap)

/-- An offset of the ring's timing registers: the Par-bake one in station Par-bake (R161, R171). -/
def State.ringOfs (s : State) (pb normal : Fld) : Nat := if s.flag F.IMG_STAT_STN_PB then s.get pb else s.get normal

end Sys2Proof.Machine
end

