-- ==== Sys2Proof/Machine/Lattice.lean ====
section
/-! DEFINITION. Machine/Lattice.lean: the PWM lattice (R290 to R317): carriers, shadows and reloads, compares and dead
time, leg commands, trips and groups, halt and loss of timebase.
Marked choices: log entries 11, 21, 22 (DEDUCED). -/
namespace Sys2Proof.Machine

/-- A switch of leg n turns on or off by lattice command; a turn-on edge releases a channel that waits for one (R335). -/
def State.setSwitch (s : State) (n : Nat) (sw : Sw) (on : Bool) : State :=
  let l := s.leg n
  let was := match sw with | .low => l.lo | .high => l.hi
  let s1 := match sw with
    | .low => s.setLeg n { l with lo := on }
    | .high => s.setLeg n { l with hi := on }
  if on && !was then
    let g := s1.gate (2 * n + swNum sw)
    s1.setGate (2 * n + swNum sw) { g with needEdge := false }
  else s1

/-- 100 ns in base ticks, rounded up (R340). -/
def l2Hold : Nat := 157

/-- The cause of an L2 latch has ended: at most one command on, and after a SHOOT neither channel in SOFTOFF, so that both
sense inputs are below their thresholds (R337 to R339). -/
def State.l2Ended (s : State) (n : Nat) : Bool :=
  let l := s.leg n
  !(l.hi && l.lo) && (s.get (F.GD_LEGn_STAT_L2_CAUSE n) != 3 ||
    s.get (F.GD_LEGn_STAT_LS_STATE n) != 2 && s.get (F.GD_LEGn_STAT_HS_STATE n) != 2)

/-- An edge of leg command H clears an L2 latch that was set at least 100 ns ago and whose cause has ended (R340). -/
def State.l2Edge (s : State) (n : Nat) : State :=
  if s.flag (F.GD_LEGn_STAT_L2_LATCH n) && Nat.ble ((s.gateLeg n).l2At + l2Hold) s.sys.up && s.l2Ended n then
    let s1 := s.setFlag (F.GD_LEGn_STAT_L2_LATCH n) false
    let s2 := s1.put (F.GD_LEGn_STAT_L2_CAUSE n) 0
    let s3 := s2.put F.GD_STAT_L2 (setBit (s2.get F.GD_STAT_L2) n false)
    s3.releaseOwn (fun c => c.code == 0x0A05 && c.inst == n)
  else s

/-- The dead time towards the switch that level `h` of H demands (R302, R303). -/
def ChanSt.deadTime (c : ChanSt) (h : Bool) : Nat := if h then c.dtLH else c.dtHL

/-- Leg command H of channel n becomes `h` at tick t (R294, R296, R303): in RUN the switch that is on turns off and the other
one waits for the dead time on a COMPLEMENTARY leg. -/
def State.setH (s : State) (n : Nat) (h : Bool) (t : Nat) : State :=
  let c := s.chan n
  let edge := c.h != h
  let s1 := s.setChan n { c with h := h }
  if !edge || Nat.ble 6 n then s1
  else
    let s2 := s1.l2Edge n
    if s2.legState n = LegState.run && !s2.bypassLeg n then
      let s3 :=
        match s2.get (F.PWM_LCHn_CFG_OUTM n) with
        | 1 =>
          let a := (s2.setSwitch n .low false).setSwitch n .high false
          a.setLeg n { a.leg n with pend := some (if h then .high else .low), due := t + c.deadTime h }
        | 2 => s2.setSwitch n .high h
        | 3 => s2.setSwitch n .low h
        | _ => s2
      s3.gateRefresh n
    else s2

/-- An ARMED leg enters RUN at an E0, both switches off; its first turn-on waits for the dead time on a COMPLEMENTARY
leg (R304, R305). -/
def State.enterRun (s : State) (n : Nat) (h : Bool) (t : Nat) : State :=
  let gl := s.gateLeg n
  let s1 := (s.put (F.PWM_LCHn_STAT_LEG_STATE n) LegState.run).setGateLeg n
    { gl with runAt := if gl.runAt.isNone then some s.sys.up else gl.runAt }
  if s1.bypassLeg n then s1.legRefresh1 n
  else
    let s2 :=
      match s1.get (F.PWM_LCHn_CFG_OUTM n) with
      | 1 => s1.setLeg n { hi := false, lo := false, pend := some (if h then .high else .low),
                           due := t + (s1.chan n).deadTime h }
      | 2 => s1.setSwitch n .high h
      | 3 => s1.setSwitch n .low h
      | _ => s1
    s2.gateRefresh n

/-- The value of a shadow that a reload in this fabric cycle transfers: a write of the same fabric cycle waits for the
next one (R298). -/
def State.shadow (s : State) (n a : Nat) : Word :=
  match (s.chan n).fresh.find? (fun e => e.1 == a && e.2.2 == s.fab) with
  | some e => e.2.1
  | none => s.rd a

/-- Some shadow of the channel among `as` was written in this fabric cycle. -/
def State.freshAny (s : State) (n : Nat) (as : List Nat) : Bool :=
  (s.chan n).fresh.any (fun e => e.2.2 == s.fab && as.contains e.1)

def perMin : Nat := 25000

/-- No shadow transfers in this fabric cycle: HOLD is set, or was cleared in this very cycle (R298). -/
def State.shadowsHeld (s : State) (n : Nat) : Bool :=
  s.flag (F.PWM_LCHn_CTRL_HOLD n) || (s.chan n).unheld == some s.fab

/-- Duty conversion at a transfer (R297): the duty, and whether the fraction was not converted. -/
def State.dutyShadow (s : State) (n per : Nat) : Nat × Bool :=
  if s.flag (F.PWM_LCHn_CFG_DSRC n) then
    let w := (s.shadow n (R.PWM_LCHn_DFRAC n)).toNat
    match f32s.unpack w with
    | .nan => (s.num (R.PWM_LCHn_DUTY_ACT n), true)
    | .inf neg => (if neg then 0 else per, false)
    | .fin neg m e =>
      let u := finFrac neg m e
      if u.num ≤ 0 then (0, false)
      else if Frac.one.ble u then (per, false)
      else ((u.mul (Frac.ofNat per)).round.toNat, false)
  else ((s.shadow n (R.PWM_LCHn_DUTY n)).toNat, false)

/-- Phase conversion at a transfer (R297). -/
def State.phaseShadow (s : State) (n per : Nat) : Nat × Bool :=
  if s.flag (F.PWM_LCHn_CFG_PSRC n) then
    let w := (s.shadow n (R.PWM_LCHn_PFRAC n)).toNat
    match f32s.unpack w with
    | .fin neg m e =>
      let u := finFrac neg m e
      let fr := u.sub (Frac.ofInt u.floor)
      ((fr.mul (Frac.ofNat per)).floor.toNat, false)
    | _ => (s.num (R.PWM_LCHn_PH_ACT n), true)
  else ((s.shadow n (R.PWM_LCHn_PH n)).toNat % per, false)

/-- Form the compares of the period from the duty in force (R294, R295). -/
def State.formCompares (s : State) (n d l free : Nat) : State :=
  let d' := dutyInForce d l (s.get (F.PWM_LCHn_MINP_MINP n))
  let c0 := cmp0Of (s.get (F.PWM_LCHn_CFG_ALIGN n)) d' l free
  let s1 := if d' != d then s.setFlag (F.PWM_LCHn_STAT_MINP n) true else s
  let s2 := s1.setFlag (F.PWM_LCHn_STAT_ZERO n) (d' == 0)
  let s3 := s2.setFlag (F.PWM_LCHn_STAT_ALWAYS n) (Nat.ble l d')
  s3.setChan n { s3.chan n with cmp0 := c0, cmp1 := c0 + d', duty := d', cmp0Act := free }

/-- FRAC_ERR and its FC1 (R297). -/
def State.fracErr (s : State) (n : Nat) (bad : Bool) : State :=
  if bad then (s.setFlag (F.PWM_LCHn_STAT_FRAC_ERR n) true).raise { code := 0x0906, cls := 1, scope := chanScope n, kind := 5, inst := n }
  else s

/-! ### Events offered to rate groups and trigger slots -/

/-- The offset of a TYPE 1 group: in station Par-bake one set to T_UP is taken at T_UP_PB (R171, R233). -/
def State.groupOfs (s : State) (g : Nat) : Nat :=
  let o := s.get (F.CE_RGn_OFS_OFS g)
  if s.flag F.IMG_STAT_STN_PB && o == s.get F.RNG_TIM_UP_T then s.get F.RNG_TIM_UP_PB_T else o

/-- Event Ek of channel n, at tick t, is offered to the rate groups and the trigger slots that select it (R233, R293, R354). -/
def State.offerEvent (s : State) (n k t : Nat) : State :=
  let s1 := forUpTo 8 (fun g s =>
    let hit := s.flag (F.CE_RGn_CFG_EN g) && s.get (F.CE_RGn_CFG_TYPE g) == 2 && s.get (F.CE_RGn_CFG_LCH g) == n &&
      bit (s.get (F.CE_RGn_CFG_EVMASK g)) k
    s.when hit fun s => s.setEngGroup g { s.engGroup g with due := (s.engGroup g).due ++ [t + s.get (F.CE_RGn_OFS_OFS g)] }) s
  forUpTo 16 (fun m s =>
    let hit := s.flag (F.ADC_TRGm_CFG_EN m) && s.get (F.ADC_TRGm_CFG_TYPE m) == 2 && s.get (F.ADC_TRGm_CFG_LCH m) == n &&
      bit (s.get (F.ADC_TRGm_CFG_EVMASK m)) k
    s.when hit fun s => s.setAdcDue m (s.adcDue m ++ [(t, s.scn.toNat % 256)])) s1

/-- The boundary at tick t is offered to the rate groups and the trigger slots of TYPE 1 that its SCN selects (R233, R354). -/
def State.offerBoundary (s : State) (t : Nat) : State :=
  let s1 := forUpTo 8 (fun g s =>
    let hit := s.flag (F.CE_RGn_CFG_EN g) && s.get (F.CE_RGn_CFG_TYPE g) == 1 &&
      s.scn.toNat % 2 ^ s.get (F.CE_RGn_CFG_DIV_SH g) == s.get (F.CE_RGn_CFG_PHASE g)
    s.when hit fun s => s.setEngGroup g { s.engGroup g with due := (s.engGroup g).due ++ [t + s.groupOfs g] }) s
  forUpTo 16 (fun m s =>
    let hit := s.flag (F.ADC_TRGm_CFG_EN m) && s.get (F.ADC_TRGm_CFG_TYPE m) == 1 &&
      s.scn.toNat % 2 ^ s.get (F.ADC_TRGm_CFG_DIV_SH m) == s.get (F.ADC_TRGm_CFG_PHASE m)
    s.when hit fun s => s.setAdcDue m (s.adcDue m ++ [(t, s.scn.toNat % 256)])) s1

/-- The band of the gate-drive flank die sensor (R302, R505). -/
def State.flankBand (s : State) : Nat := s.get (F.THM_Sn_STAT_BAND 2)

/-- The first grid point of period `per` and phase `ph` at or after now (R291, R301). -/
def State.firstGrid (s : State) (n per ph : Nat) : Nat :=
  let b := (s.chan n).syncB + ph
  if Nat.ble s.lnow b then b else b + (s.lnow - b + per - 1) / per * per

/-- The tick of the channel's next E0 (R290, R301): the end of the period in progress, or for a stopped channel with a period
in range the first grid point; none for a stopped channel whose PER shadow is out of range. -/
def State.nextE0 (s : State) (n : Nat) : Option Nat :=
  if s.num (R.PWM_LCHn_PER_ACT n) != 0 then some ((s.chan n).e0 + (s.chan n).len)
  else
    let per := (s.shadow n (R.PWM_LCHn_PER n)).toNat
    if Nat.ble perMin per then some (s.firstGrid n per (s.phaseShadow n per).1) else none

/-- Event E0 of channel n at tick t (R290, R297, R298, R300, R301, R302): the shadows transfer, the period and its compares
are formed, an ARMED leg enters RUN, and the event is offered. -/
def State.carrierStart (s : State) (n t : Nat) : State :=
  let hold := s.shadowsHeld n
  let oldPer := s.num (R.PWM_LCHn_PER_ACT n)
  let shadowPer := (s.shadow n (R.PWM_LCHn_PER n)).toNat
  let perOk := Nat.ble perMin shadowPer
  let per := if hold then oldPer else if perOk then shadowPer else oldPer
  let s1 :=
    if !hold && !perOk then
      (s.setFlag (F.PWM_LCHn_STAT_PER_ERR n) true).raise { code := 0x0904, cls := 1, scope := chanScope n, kind := 5, inst := n }
    else s
  if per = 0 then s1
  else
    let oldPh := s1.num (R.PWM_LCHn_PH_ACT n)
    let pr := if hold then (oldPh, false) else s1.phaseShadow n per
    let ph := pr.1
    let phBad := pr.2
    let pr := if hold then (s1.num (R.PWM_LCHn_DUTY_ACT n), false) else s1.dutyShadow n per
    let d := pr.1
    let dBad := pr.2
    let free := if hold then (s1.chan n).cmp0Act else (s1.shadow n (R.PWM_LCHn_CMP0 n)).toNat
    let l := if oldPer = 0 || hold then per else ((per : Int) + phaseStep oldPh ph per).toNat
    let defer := !hold && s1.freshAny n
      [R.PWM_LCHn_PER n, R.PWM_LCHn_PH n, R.PWM_LCHn_PFRAC n, R.PWM_LCHn_DUTY n, R.PWM_LCHn_DFRAC n, R.PWM_LCHn_CMP0 n]
    let s2 := (s1.fracErr n phBad).fracErr n dBad
    let s3 := s2.wrN (R.PWM_LCHn_PER_ACT n) per
    let s4 := s3.wrN (R.PWM_LCHn_PH_ACT n) ph
    let s5 := s4.wrN (R.PWM_LCHn_DUTY_ACT n) d
    let s6 := s5.wrN (R.PWM_LCHn_LEN n) l
    let s7 := s6.setFlag (F.PWM_LCHn_STAT_NONSYNC n)
      (!periodSync per (s6.get (F.PWM_LCHn_CFG_SYNC_SH n)) (s6.get F.TIM_SC_LEN_SC_LEN))
    let s8 := s7.formCompares n d l free
    let s9 := if defer then s8.setFlag (F.PWM_LCHn_STAT_DEFER n) true else s8
    let tb := s9.flankBand
    let dts := s9.get (F.PWM_LCHn_CFG_DTS n)
    let dtLH := s9.get (F.PWM_DTSk_TBb_DT_LH dts tb)
    let dtHL := s9.get (F.PWM_DTSk_TBb_DT_HL dts tb)
    let c9 := s9.chan n
    let f := s9.fab
    let s10 := s9.setChan n { c9 with
      e0 := t, len := l, len0 := l, fired := 0, dtLH := dtLH, dtHL := dtHL
      lastE0 := if hold then c9.lastE0 else some f, lastDuty := if hold then c9.lastDuty else some f }
    let s11 := if n < 6 then s10.setGateLeg n { s10.gateLeg n with band := tb } else s10
    let c := s11.chan n
    let h := hAt c.duty l c.cmp0 0
    let s12 :=
      if n < 6 && s11.legState n = LegState.armed then ((s11.setChan n { c with h := h }).l2Edge n).enterRun n h t
      else s11.setH n h t
    s12.offerEvent n 0 t

/-- A channel fires its events: enabled and not HALTED (R293, R312). -/
def State.chanRuns (s : State) (n : Nat) : Bool := s.flag (F.PWM_LCHn_CFG_EN n) && !s.pwm.halted && !s.pwm.held

/-- E0 falls due: the clocks run on to its tick (R290). -/
def State.carrierE0 (s : State) (n : Nat) : State :=
  match s.nextE0 n with
  | none => s.carrierStart n s.lnow
  | some t => (s.runToTick t).carrierStart n t

/-- Event Ek, with k from 1 to 3 at position p, is still to come in the period in progress: a period cut short before it has
none (R292, R293). -/
def State.eventAhead (s : State) (n k p : Nat) : Bool :=
  s.num (R.PWM_LCHn_PER_ACT n) != 0 && !bit (s.chan n).fired k && Nat.blt p (s.chan n).len

/-- Mark the events that lie before position p, with E1 to E3 at the positions given. -/
def firedBefore (p e1 e2 e3 : Nat) : Nat := maskOf 4 fun k =>
  match k with
  | 1 => Nat.blt e1 p
  | 2 => Nat.blt e2 p
  | 3 => Nat.blt e3 p
  | _ => false

/-- The reload of duty and CMP0 at E1 (R293, R298); events behind E1 are past, those at or ahead of it are to come. -/
def State.midReload (s : State) (n t : Nat) : State :=
  let per := s.num (R.PWM_LCHn_PER_ACT n)
  let l := (s.chan n).len0
  let pr := s.dutyShadow n per
  let d := pr.1
  let bad := pr.2
  let free := (s.shadow n (R.PWM_LCHn_CMP0 n)).toNat
  let defer := s.freshAny n [R.PWM_LCHn_DUTY n, R.PWM_LCHn_DFRAC n, R.PWM_LCHn_CMP0 n]
  let s1 := s.fracErr n bad
  let s2 := s1.wrN (R.PWM_LCHn_DUTY_ACT n) d
  let s3 := s2.formCompares n d l free
  let s4 := if defer then s3.setFlag (F.PWM_LCHn_STAT_DEFER n) true else s3
  let f := s4.fab
  let c := s4.chan n
  let s5 := s4.setChan n { c with lastDuty := some f, fired := 2 ||| firedBefore (l / 2) l c.cmp0 c.cmp1 }
  s5.setH n (hAt c.duty l c.cmp0 (l / 2)) t

/-- Event E1 (R293, R298): the duty and CMP0 reload when RLD_MID is set. -/
def State.carrierMidpoint (s : State) (n : Nat) : State :=
  let c := s.chan n
  if !s.eventAhead n 1 (c.len0 / 2) then s
  else
    let t := c.e0 + c.len0 / 2
    let s1 := s.runToTick t
    let s2 := s1.setChan n { s1.chan n with fired := setBit c.fired 1 true }
    let s3 := s2.when (s2.flag (F.PWM_LCHn_CFG_RLD_MID n) && !s2.shadowsHeld n) (·.midReload n t)
    s3.offerEvent n 1 t

/-- Event E2 (R293, R294); one that comes after E3 of its period leaves H. -/
def State.compareE2 (s : State) (n : Nat) : State :=
  let c := s.chan n
  if !s.eventAhead n 2 c.cmp0 then s
  else
    let t := c.e0 + c.cmp0
    let s1 := s.runToTick t
    let s2 := s1.setChan n { s1.chan n with fired := setBit c.fired 2 true }
    (s2.when (!bit c.fired 3) (·.setH n (c.duty != 0) t)).offerEvent n 2 t

/-- Event E3 (R293, R294): only when CMP1 < L. -/
def State.compareE3 (s : State) (n : Nat) : State :=
  let c := s.chan n
  if !s.eventAhead n 3 c.cmp1 || Nat.ble c.len0 c.duty then s
  else
    let t := c.e0 + c.cmp1
    let s1 := s.runToTick t
    let s2 := s1.setChan n { s1.chan n with fired := setBit c.fired 3 true }
    (s2.setH n false t).offerEvent n 3 t

/-- STIME has been stepped from tick `old` (R290): every carrier moves by the same number of ticks and its outputs are taken at
the new position; a dead interval keeps its length. -/
def State.carriersMoved (s : State) (old : Nat) : State :=
  let now := s.lnow
  let move := fun (n : Nat) (s : State) =>
    let s := s.when (n < 6) fun s => s.setLeg n { s.leg n with due := (s.leg n).due + now - old }
    if !s.chanRuns n || s.num (R.PWM_LCHn_PER_ACT n) = 0 then s
    else
      let p := s.carrierPos n
      let c := s.chan n
      let s1 := s.setChan n { c with e0 := now - p, fired := firedBefore p (c.len0 / 2) c.cmp0 c.cmp1 }
      s1.setH n (hAt c.duty c.len0 c.cmp0 p) now
  forUpTo 8 move s

/-- The dead time has elapsed: the pending switch turns on (R303). -/
def State.deadEnd (s : State) (n : Nat) : State :=
  match (s.leg n).pend with
  | some sw =>
    if s.legState n = LegState.run then
      let s := s.runToTick (s.leg n).due
      let s1 := s.setLeg n { s.leg n with pend := none }
      let s2 := s1.setSwitch n sw true
      s2.gateRefresh n
    else s
  | none => s

def shadowAddr (n : Nat) : ShadowReg → Nat
  | .per => R.PWM_LCHn_PER n
  | .duty => R.PWM_LCHn_DUTY n
  | .dfrac => R.PWM_LCHn_DFRAC n
  | .ph => R.PWM_LCHn_PH n
  | .pfrac => R.PWM_LCHn_PFRAC n
  | .cmp0 => R.PWM_LCHn_CMP0 n

/-- A write of a shadow (R298): one that lands in the fabric cycle of its reload waits for the next and sets DEFER. -/
def State.shadowWrite (s : State) (n : Nat) (reg : ShadowReg) (v : Word) : State :=
  let a := shadowAddr n reg
  let c := s.chan n
  let t := s.fab
  let kept := c.fresh.filter (fun e => e.2.2 == t)
  let fresh := if kept.any (fun e => e.1 == a) then kept else kept ++ [(a, s.rd a, t)]
  let late := match reg with
    | .per => c.lastE0 == some t
    | .ph => c.lastE0 == some t
    | .pfrac => c.lastE0 == some t
    | _ => c.lastDuty == some t
  let s1 := s.setChan n { c with fresh := fresh }
  let s2 := s1.wr a v
  if late then s2.setFlag (F.PWM_LCHn_STAT_DEFER n) true else s2

/-- A write of PWM_LCHn_CTRL (R298, R305, R307). -/
def State.pwmCtrlWrite (s : State) (n : Nat) (v : Word) : State :=
  let freed := s.flag (F.PWM_LCHn_CTRL_HOLD n) && !v.getLsbD 1
  let s0 := if freed then s.setChan n { s.chan n with unheld := some s.fab } else s
  let s1 := s0.wr (R.PWM_LCHn_CTRL n) (v &&& 7)
  if n < 6 then s1.legRefresh1 n else s1

/-- The groups input k maps to, without the disabled ones (R308). -/
def State.groupsOf (s : State) (k : Nat) : Nat :=
  maskOf 8 fun g => bit (s.get (F.PWM_TRPk_CFG_GROUPS k)) g && s.flag (F.PWM_GRPg_LEGS_EN g)

/-- Groups that a mapped input, blanked or not, holds active (R308, R311). -/
def State.groupsActive (s : State) : Nat :=
  let lvl := s.get F.PWM_TRP_LVL_LVL
  maskOf 8 fun g => (List.range 8).any fun k =>
    bit lvl k && s.flag (F.PWM_TRPk_CFG_EN k) && bit (s.groupsOf k) g

def State.groupStat (s : State) : State := s.put F.PWM_GRP_STAT_INACT s.groupsActive

/-- The smallest element that holds every leg of a group (R310). -/
def groupScope (legs : Nat) : Scope :=
  match (List.range 6).filter (fun n => bit legs n) with
  | [] => .node
  | [n] => .leg n
  | n :: t => if t.all (fun m => m / 2 == n / 2) then .bridge (n / 2) else .cellOfLeg n

/-- On a SECONDARY, legs of several shares lie in no one share: the node as a whole. -/
def State.groupScope' (s : State) (legs : Nat) : Scope :=
  match groupScope legs with
  | .cellOfLeg n => if s.role == .secondary then .node else .cellOfLeg n
  | sc => sc

/-- Group g trips (R310). -/
def State.tripGroup (s : State) (g : Nat) : State :=
  let legs := s.get (F.PWM_GRPg_LEGS_LEGS g)
  let s1 := forUpTo 6 (fun n s =>
    if bit legs n && (s.leg n).pend.isSome && s.legState n == LegState.run then
      s.setFlag (F.PWM_LCHn_STAT_TRIP_DT n) true else s) s
  let s2 := s1.put F.PWM_GRP_STAT_TRIPPED (setBit (s1.get F.PWM_GRP_STAT_TRIPPED) g true)
  let t := s2.fab
  let s3 := { s2 with pwm := { s2.pwm with tripAt := Bank.upd 0 s2.pwm.tripAt g (t + 1) } }
  let s4 := s3.legRefresh
  s4.raise { code := 0x0901, cls := 2, scope := s4.groupScope' legs, inst := g, ended := false }

/-- Input k trips its groups that are not tripped yet, and is latched when it trips one (R310). -/
def State.tripBy (s : State) (k : Nat) : State :=
  let gs := s.groupsOf k
  let fresh := maskOf 8 fun g => bit gs g && !bit (s.get F.PWM_GRP_STAT_TRIPPED) g
  if fresh = 0 then s
  else
    let s1 := s.put F.PWM_TRP_LATCH_LATCH (setBit (s.get F.PWM_TRP_LATCH_LATCH) k true)
    forUpTo 8 (fun g s => if bit fresh g then s.tripGroup g else s) s1

/-- Input k is blanked now (R309): H of its blanking channel is 1. -/
def State.isBlanked (s : State) (k : Nat) : Bool :=
  s.flag (F.PWM_TRPk_CFG_BLK_EN k) && (s.chan (s.get (F.PWM_TRPk_CFG_BLK_LCH k))).h

def State.tripActive (s : State) (k : Nat) : State :=
  if !s.flag (F.PWM_TRPk_CFG_EN k) || bit (s.get F.PWM_TRP_LVL_LVL) k then s
  else
    let s1 := (s.put F.PWM_TRP_LVL_LVL (setBit (s.get F.PWM_TRP_LVL_LVL) k true)).groupStat
    if s1.isBlanked k then { s1 with pwm := { s1.pwm with blanked := setBit s1.pwm.blanked k true } }
    else s1.tripBy k

def State.tripInactive (s : State) (k : Nat) : State :=
  if !bit (s.get F.PWM_TRP_LVL_LVL) k then s
  else
    let s1 := (s.put F.PWM_TRP_LVL_LVL (setBit (s.get F.PWM_TRP_LVL_LVL) k false)).groupStat
    if bit s1.pwm.blanked k then
      let s2 := { s1 with pwm := { s1.pwm with blanked := setBit s1.pwm.blanked k false } }
      s2.bumpReg R.PWM_TRP_BLANKED
    else s1

/-- The blanking window of a channel ends: inputs still active trip their groups (R309). -/
def State.blankingEnd (s : State) (ch : Nat) : State :=
  if (s.chan ch).h then s
  else forUpTo 8 (fun k s =>
    if bit s.pwm.blanked k && s.flag (F.PWM_TRPk_CFG_BLK_EN k) && s.get (F.PWM_TRPk_CFG_BLK_LCH k) == ch then
      let s1 := { s with pwm := { s.pwm with blanked := setBit s.pwm.blanked k false } }
      s1.tripBy k
    else s) s

/-- A write of PWM_GRP_CLR (R311). -/
def State.groupClear (s : State) (groups : Nat) : State :=
  let act := s.groupsActive
  let named := maskOf 8 fun g => bit groups g && s.flag (F.PWM_GRPg_LEGS_EN g)
  let refused := maskOf 8 fun g => bit named g && (bit act g || Bank.at 0 s.pwm.tripAt g == s.fab + 1)
  let cleared := maskOf 8 fun g => bit named g && !bit refused g && bit (s.get F.PWM_GRP_STAT_TRIPPED) g
  let s1 := s.put F.PWM_GRP_STAT_TRIPPED (maskOf 8 fun g => bit (s.get F.PWM_GRP_STAT_TRIPPED) g && !bit cleared g)
  let s2 := forUpTo 8 (fun g s =>
    if bit cleared g then s.releaseOwn (fun c => c.code == 0x0901 && c.inst == g) else s) s1
  let s3 := s2.legRefresh
  if refused = 0 then s3
  else
    let s4 := s3.bump F.PWM_CLR_LOG_REFUSALS
    let s5 := s4.put F.PWM_CLR_LOG_INPUTS (s.get F.PWM_TRP_LVL_LVL)
    let s6 := s5.put F.PWM_CLR_LOG_GROUPS refused
    s6.raise { code := 0x0902, cls := 0, scope := .node }

/-- The writer has the rights of the management processor: the MP itself, or the debug port with DBGSEL high (R529). -/
def State.asMp (s : State) (m : Master) : Bool := m == .mp || m == .dbg && s.sys.dbgsel

/-- PWM_CMD.REARM (R313); any REARM that is not accepted sets REARM_REF, one of another master too, which counts as a
violation besides (R531). -/
def State.rearm (s : State) (m : Master) : State :=
  let rootOk := s.clk.root == .locked || s.clk.root == .holdover || s.clk.root == .reacquire
  if s.asMp m && !s.flag F.PWM_STAT_HALT && rootOk then
    let s1 := s.startCarriers
    let s2 := (s1.setFlag F.PWM_STAT_TBLOSS false).setFlag F.PWM_STAT_REARM_REF false
    s2.legRefresh
  else (s.when (!s.asMp m) (·.violation m true R.PWM_CMD)).setFlag F.PWM_STAT_REARM_REF true

/-- PWM_CMD.CNT_CLR (R317): the counters of the lattice. -/
def State.pwmCntClr (s : State) : State :=
  let s1 := s.wr R.PWM_TRP_BLANKED 0
  let s2 := s1.put F.PWM_CLR_LOG_REFUSALS 0
  forUpTo 8 (fun n s => s.put (F.PWM_LCHn_STAT_RESYNCS n) 0) s2

/-- A debug halt (R240, R312). -/
def State.debugHalt (s : State) : State :=
  let s1 := forUpTo 8 (fun g s => s.when (s.engGroup g).run.isSome fun s =>
    s.setEngGroup g { s.engGroup g with doomed := true }) s
  (s1.setFlag F.PWM_STAT_HALT true).haltCarriers.legRefresh.raise { code := 0x0905, cls := 0, scope := .node }

/-- The resynchronisation check of a channel at a sync boundary at tick `b` (R292). -/
def State.resync1 (s : State) (n b : Nat) : State :=
  let per := s.num (R.PWM_LCHn_PER_ACT n)
  let c := s.chan n
  let s1 := s.setChan n { c with quiet := false, syncB := b }
  -- end of the period in progress, counted from the boundary
  let r := c.e0 + c.len - b
  let r' := resyncEnd r per (s.num (R.PWM_LCHn_PH_ACT n))
  if !s.chanRuns n || per = 0 || Nat.blt (c.e0 + c.len) b || r' = r then s1
  else
    let l := c.len + r' - r
    let s2 := (s1.setChan n { s1.chan n with len := l }).wrN (R.PWM_LCHn_LEN n) l
    let s3 := s2.setFlag (F.PWM_LCHn_STAT_RESYNC n) true
    let s4 := s3.bump (F.PWM_LCHn_STAT_RESYNCS n)
    if c.quiet then s4 else s4.raiseLater { code := 0x0903, cls := 0, scope := chanScope n, kind := 5, inst := n }

/-- RESYNC (R292): every channel for which the boundary with this SCN, at tick b, is a sync boundary. -/
def State.resync (s : State) (b : Nat) : State :=
  forUpTo 8 (fun n s =>
    if s.scn.toNat % 2 ^ s.get (F.PWM_LCHn_CFG_SYNC_SH n) = 0 then s.resync1 n b else s) s

/-- A change of the cycle length in force: the next resynchronisation of each channel raises nothing (R291). -/
def State.lengthChanged (s : State) : State :=
  forUpTo 8 (fun n s => s.setChan n { s.chan n with quiet := true }) s

/-! ### The commands -/

def execCarrierStart (ch : Fin 8) (s : State) : Host.Outcome State Fault Refusal :=
  .next (s.live fun s => s.when (s.chanRuns ch.val) fun s => s.carrierE0 ch.val)

def execCarrierMidpoint (ch : Fin 8) (s : State) : Host.Outcome State Fault Refusal :=
  .next (s.live fun s => s.when (s.chanRuns ch.val) fun s => s.carrierMidpoint ch.val)

def execCompareEvent (ch : Fin 8) (e3 : Bool) (s : State) : Host.Outcome State Fault Refusal :=
  .next (s.live fun s => s.when (s.chanRuns ch.val) fun s => if e3 then s.compareE3 ch.val else s.compareE2 ch.val)

def execDeadIntervalEnd (leg : Fin 6) (s : State) : Host.Outcome State Fault Refusal :=
  .next (s.live fun s => s.deadEnd leg.val)

def execPwmShadowWrite (ch : Fin 8) (reg : ShadowReg) (v : Word) (s : State) : Host.Outcome State Fault Refusal :=
  .next (s.live fun s => s.shadowWrite ch.val reg v)

def execPwmCtrlWrite (ch : Fin 8) (v : Word) (s : State) : Host.Outcome State Fault Refusal :=
  .next (s.live fun s => s.pwmCtrlWrite ch.val v)

def execTripInputActive (k : Fin 8) (s : State) : Host.Outcome State Fault Refusal :=
  .next (s.live fun s => s.tripActive k.val)

def execTripInputInactive (k : Fin 8) (s : State) : Host.Outcome State Fault Refusal :=
  .next (s.live fun s => s.tripInactive k.val)

def execBlankingEnd (ch : Fin 8) (s : State) : Host.Outcome State Fault Refusal :=
  .next (s.live fun s => s.blankingEnd ch.val)

def execGroupClear (groups : BitVec 8) (s : State) : Host.Outcome State Fault Refusal :=
  .next (s.live fun s => s.groupClear groups.toNat)

def execRearm (m : Master) (s : State) : Host.Outcome State Fault Refusal :=
  .next (s.byMaster m fun s => s.rearm m)

def execPwmCntClr (s : State) : Host.Outcome State Fault Refusal :=
  .next (s.live fun s => s.pwmCntClr)

/-- The debug port halts the node, with DBGSEL high only (R529). -/
def execDebugHalt (s : State) : Host.Outcome State Fault Refusal :=
  .next (s.live fun s => s.when (s.sys.dbgsel && !s.flag F.PWM_STAT_HALT) fun s => s.debugHalt)

/-- The debug port ends a halt: HALT clears and the legs stay HALTED until REARM (R313). -/
def execDebugHaltEnd (s : State) : Host.Outcome State Fault Refusal :=
  .next (s.live fun s => s.setFlag F.PWM_STAT_HALT false)

/-- The clock monitor misses 4 base-timebase edges (R314): HALTED, TBLOSS, and the node leaves service as R81 states. -/
def execTimebaseLoss (s : State) : Host.Outcome State Fault Refusal :=
  .next (s.live fun s =>
    let s1 := s.loseTimebase
    let s2 := s1.raise { code := 0x0107, cls := 3, scope := .node }
    s2.leaveService false)

end Sys2Proof.Machine
end

