-- ==== Sys2Proof/Machine/MemoryEcc.lean ====
section
/-! DEFINITION. Machine/MemoryEcc.lean: SECDED over the SRAM and the coefficient RAM (R483 to R496): corrected and
poisoned words, leaky buckets, scrub passes and repair.
Marked choices: log entries 11, 27 (DEDUCED). -/
namespace Sys2Proof.Machine

def inSram (a : Nat) : Bool := Nat.ble 0x20000000 a && Nat.blt a 0x21000000
def inCoeff (a : Nat) : Bool := Nat.ble 0x41000000 a && Nat.blt a 0x41030000

/-- The ECC word that holds an address. -/
def eccWord (a : Nat) : Nat := a - a % 8

/-- The region of an address (R483). -/
def memRegion (a : Nat) : Nat :=
  if inCoeff a then 2
  else
    let o := a - 0x20000000
    if o < 0x100000 then 0
    else if o < 0x200000 then 1
    else if o < 0x300000 then 2
    else if o < 0x700000 then 3
    else if o < 0xB00000 then 4
    else if o < 0xF00000 then 5
    else if o < 0xFC0000 then 6
    else 7

/-- Is the ECC word at `w` poisoned (true), single-bit wrong (false), or clean? -/
def State.eccErr (s : State) (w : Nat) : Option Bool := (s.memx.err.find? fun e => e.1 == w).map (·.2)

def State.poisoned (s : State) (w : Nat) : Bool := s.eccErr w == some true

/-- The word is as the array should have it, or carries an error. -/
def State.eccClear (s : State) (w : Nat) : State :=
  { s with memx := { s.memx with err := s.memx.err.filter fun e => e.1 != w } }
def State.eccSet (s : State) (w : Nat) (poison : Bool) : State :=
  let s1 := s.eccClear w
  { s1 with memx := { s1.memx with err := s1.memx.err ++ [(w, poison)] } }

/-- A corrected error: MEM_LAST_CE, the count and the bucket of its region (R485, R491). -/
def State.corrected (s : State) (w : Nat) : State :=
  let r := memRegion w
  let s1 := (s.wrN R.MEM_LAST_CE w).bumpReg (R.MEM_CEr_CNT r)
  let level := s1.get (F.MEM_BKTr_STAT_LEVEL r)
  if level < s1.get (F.MEM_BKTr_CFG_CAP r) then s1.put (F.MEM_BKTr_STAT_LEVEL r) (level + 1)
  else
    let s2 := s1.bump (F.MEM_BKTr_STAT_OVFS r)
    let ovf := s2.get F.MEM_BKT_OVF_OVF
    if bit ovf r then s2
    else (s2.put F.MEM_BKT_OVF_OVF (setBit ovf r true)).raise { code := 0x0F01, cls := 1, scope := .node }

/-- Decode the ECC word at `w` with what the array developed since the last access (R485): a single error is corrected
and counted, an uncorrectable one stays poisoned. The answer tells whether the word is uncorrectable. -/
def State.eccDecode (s : State) (w : Nat) (e : Ecc) : State × Bool :=
  if s.poisoned w || e == .uncorr then ((s.eccSet w true).wrN R.MEM_LAST_UE w, true)
  else if e == .single || s.eccErr w == some false then ((s.eccSet w false).corrected w, false)
  else (s, false)

/-- A master's read of an ECC word (R486): row 2 when it is uncorrectable. -/
def State.eccRead (s : State) (w : Nat) (e : Ecc) : State × Bool :=
  let pr := s.eccDecode w e
  let s1 := pr.1
  let bad := pr.2
  if bad then (s1.raise { code := 0x0F02, cls := 2, scope := .node }, true) else (s1, false)

/-- The read half of a partial write (R489): row 3 when the old word is uncorrectable; else the merged word is clean. -/
def State.eccMerge (s : State) (w : Nat) (e : Ecc) : State × Bool :=
  let pr := s.eccDecode w e
  let s1 := pr.1
  let bad := pr.2
  if bad then (s1.raise { code := 0x0F03, cls := 2, scope := .node }, true) else (s1.eccClear w, false)

/-- Uncorrectable words in the record of slot n (R241). -/
def State.slotPoison (s : State) (n : Nat) : List Nat :=
  (s.memx.err.filter fun e => e.2 && Nat.ble (0x41000000 + 0x100 * n) e.1 && Nat.blt e.1 (0x41000100 + 0x100 * n)).map
    (·.1)

/-- The level of a bucket falls at the end of a LEAK period of STIME (R491): at the next one, or at once when a later one
than at the last leak is running. -/
def State.bucketLeak (s : State) (r : Nat) : State :=
  let per := 1000000 * s.get (F.MEM_BKTr_CFG_LEAK r) * stimeUnit
  if per = 0 then s
  else
    let cur := s.stimeExt / per
    let k := if Nat.blt ((Bank.at none s.memx.leaks r).getD cur) cur then cur else cur + 1
    let t := s.runAhead (k * per - s.stimeExt)
    ({ t with memx := { t.memx with leaks := Bank.upd none t.memx.leaks r (some k) } }).put (F.MEM_BKTr_STAT_LEVEL r)
      (t.get (F.MEM_BKTr_STAT_LEVEL r) - 1)

/-- The ERR of a scrub GO, 0 when it is accepted (R492). -/
def State.scrubErr (s : State) (mp : Bool) : Nat :=
  let a := s.num R.MEM_SCRUB_START
  let b := s.num R.MEM_SCRUB_END
  if s.memx.scrub.isSome then 1
  else if a % 8 != 0 || b % 8 != 0 || Nat.blt b a then 2
  else if !(inSram a && inSram b) && !(inCoeff a && inCoeff b) then 3
  else if !mp then 4
  else 0

/-- GO (R492). -/
def State.scrubGo (s : State) (mp : Bool) : State :=
  let err := s.scrubErr mp
  let s1 := s.put F.MEM_SCRUB_STAT_ERR err
  if err = 0 then
    let s2 := ((s1.wrN R.MEM_SCRUB_CE 0).wrN R.MEM_SCRUB_UE 0).wrN R.MEM_SCRUB_FIRST_UE 0xFFFFFFFF
    let s3 := s2.put F.MEM_SCRUB_STAT_STATE 1
    { s3 with memx := { s3.memx with
      scrub := some (s3.num R.MEM_SCRUB_START, 0, 0, none)
      scrubLast := s3.num R.MEM_SCRUB_END, scrubAt := s3.sys.up, scrubStop := false } }
  else if err = 1 then s1
  else s1.put F.MEM_SCRUB_STAT_STATE 3

/-- The pass ends with STATE st and its summary is written (R492). -/
def State.scrubEnd (s : State) (st ce ue : Nat) (first : Option Nat) : State :=
  let s1 := ((s.wrN R.MEM_SCRUB_CE ce).wrN R.MEM_SCRUB_UE ue).wrN R.MEM_SCRUB_FIRST_UE (first.getD 0xFFFFFFFF)
  let s2 := s1.put F.MEM_SCRUB_STAT_STATE st
  let s3 := { s2 with memx := { s2.memx with scrub := none } }
  if ue = 0 then s3 else s3.raise { code := 0x0F05, cls := 1, scope := .node }

/-- ABORT stops a running pass at its next word (R492). -/
def State.scrubAbort (s : State) : State :=
  s.when s.memx.scrub.isSome fun s => { s with memx := { s.memx with scrubStop := true } }

/-- The scrub reads its next word, RATE fabric cycles after the one before, or stops there (R492). -/
def State.scrubWord (s : State) (e : Ecc) : State :=
  match s.memx.scrub with
  | none => s
  | some (a, ce, ue, first) =>
    let s := s.runUp s.memx.scrubAt
    if s.memx.scrubStop then s.scrubEnd 3 ce ue first
    else
    let s := { s with memx := { s.memx with scrubAt := s.sys.up + 4 * Nat.max 1 (s.get F.MEM_SCRUB_CTRL_RATE) } }
    let single := e != .uncorr && !s.poisoned a && (e == .single || s.eccErr a == some false)
    let pr := s.eccDecode a e
    let s1 := pr.1
    let bad := pr.2
    let ce := ce + b2n single
    let ue := ue + b2n bad
    let first := if bad && first.isNone then some a else first
    if a + 8 ≤ s1.memx.scrubLast then
      { s1 with memx := { s1.memx with scrub := some (a + 8, ce, ue, first) } }
    else s1.scrubEnd 2 ce ue first

/-- A write of MEM_REPAIR (R493). -/
def State.memRepair (s : State) (mp : Bool) (v : Nat) : State :=
  let w := v - v % 8
  let s1 := s.when mp (·.wrN R.MEM_REPAIR w)
  if v % 2 = 0 then s1
  else
    let err :=
      if !mp then 1
      else if !inSram w && !inCoeff w then 3
      else if inCoeff w && s1.flag (F.CE_SLOTn_CFG_EN ((w - 0x41000000) / 0x100)) then 2
      else 0
    let s2 := s1.put F.MEM_REPAIR_STAT_ERR err
    if err != 0 then s2.put F.MEM_REPAIR_STAT_STATE 3
    else
      let s3 := (s2.put F.MEM_REPAIR_STAT_STATE 2).eccClear w
      if inCoeff w then (s3.wr w 0).wr (w + 4) 0 else s3.storeLe w 8 0

/-- MEM_CMD.CNT_CLR (R496). -/
def State.memCntClr (s : State) : State :=
  forUpTo 8 (fun r s => (s.wrN (R.MEM_CEr_CNT r) 0).wrN (R.MEM_BKTr_STAT r) 0) s

/-! ### The commands -/

/-- The write-back of a corrected word; dropped when a master wrote the word first (R487). -/
def execEccWriteBack (addr : Word) (s : State) : Host.Outcome State Fault Refusal :=
  .next (s.live fun s => s.when (s.eccErr (eccWord addr.toNat) == some false) fun s => s.eccClear (eccWord addr.toNat))

def execBucketLeak (r : Fin 8) (s : State) : Host.Outcome State Fault Refusal :=
  .next (s.live fun s => s.bucketLeak r.val)

def execScrubGo (m : Master) (s : State) : Host.Outcome State Fault Refusal :=
  .next (s.byMaster m fun s => (s.when (!s.asMp m) (·.violation m true R.MEM_SCRUB_CTRL)).scrubGo (s.asMp m))

def execScrubAbort (m : Master) (s : State) : Host.Outcome State Fault Refusal :=
  .next (s.byMaster m fun s => if s.asMp m then s.scrubAbort else s.violation m true R.MEM_SCRUB_CTRL)

def execScrubWord (ecc : Ecc) (s : State) : Host.Outcome State Fault Refusal :=
  .next (s.live fun s => s.scrubWord ecc)

def execRepair (m : Master) (v : Word) (s : State) : Host.Outcome State Fault Refusal :=
  .next (s.byMaster m fun s => (s.when (!s.asMp m) (·.violation m true R.MEM_REPAIR)).memRepair (s.asMp m) v.toNat)

def execMemCntClr (s : State) : Host.Outcome State Fault Refusal :=
  .next (s.live fun s => s.memCntClr)

end Sys2Proof.Machine
end

