-- ==== Sys2Proof/Machine/Engine.lean ====
section
/-! DEFINITION. Machine/Engine.lean: the control engine (R213 to R246) and its contests and plausibility models (R247 to
R267): rate-group triggers, evaluation, commit and deadline, bank swaps, PEEK, and the write rules of slot records.
Marked choices: log entry 23 (DESIGN CHOICE). -/
namespace Sys2Proof.Machine

/-! ### Binary32 helpers: operands are words as numbers -/

/-- A word with a subnormal flushed to a zero of its sign (R213). -/
def flush (w : Nat) : Nat :=
  match f32.unpack w with
  | .fin neg 0 _ => f32.signBit neg
  | _ => w

/-- max(a, b) and min(a, b); equal operands give the first. -/
def fmax (a b : Nat) : Nat := if f32.blt a b then flush b else flush a
def fmin (a b : Nat) : Nat := if f32.blt b a then flush b else flush a

/-- The word is neither NaN nor infinite. -/
def finW (w : Nat) : Bool := f32.isFin w

/-! ### Slot records -/

/-- Some word of slot n's record is listed; every other record is all zero. -/
def State.slotListed (s : State) (n : Nat) : Bool :=
  s.regs.any fun e => Nat.ble 0x41000000 e.1 && (e.1 - 0x41000000) / 0x100 == n

/-- The slots with a record that is not all zero, in ascending order. -/
def State.slots (s : State) : List Nat := (List.range 768).filter s.slotListed

def State.slotEn (s : State) (n : Nat) : Bool := s.flag (F.CE_SLOTn_CFG_EN n)
def State.slotRg (s : State) (n : Nat) : Nat := s.get (F.CE_SLOTn_CFG_RG n)

/-- The slot takes part in an evaluation in progress (R242). -/
def State.slotBusy (s : State) (n : Nat) : Bool :=
  (List.range 8).any fun g => match (s.engGroup g).run with
    | some ls => ls.any (fun l => l.slot == n)
    | none => false

/-- Enabled in effect: EN, or still in an evaluation that was triggered (R242). -/
def State.slotOn (s : State) (n : Nat) : Bool := s.slotEn n || s.slotBusy n

/-- Word w of the coefficient bank b (0 A, 1 B) of slot n: 0 to 3 B0 to B3, 4 to 6 A1 to A3, 7 LO, 8 HI, 9 TDECAY, 10 to
15 EXT0 to EXT5. -/
def State.bankW (s : State) (n b w : Nat) : Nat := s.num (R.CE_SLOTn_BKA_B0 n + 0x40 * b + 4 * w)

def outType (w : Word) : Nat := bits w.toNat 28 4

/-- The destination of an OUT word that no two may share (R224). -/
def destKey (w : Word) : Option (Nat × Nat) :=
  match outType w with
  | 1 => some (1, bits w.toNat 0 16)
  | 2 => some (2, bits w.toNat 0 3)
  | 3 => some (3, bits w.toNat 0 3)
  | _ => none

/-- Contest an OUT word names (R222, R247). -/
def contestOf (w : Word) : Option Nat := if outType w = 4 then some (bits w.toNat 0 6) else none

/-- Another enabled slot, or an enabled contest, has the destination (R224, R250). -/
def State.destTaken (s : State) (n : Nat) (out : Word) : Bool :=
  match destKey out with
  | none => false
  | some k =>
    s.slots.any (fun m => m != n && s.slotEn m && destKey (s.rd (R.CE_SLOTn_OUT m)) == some k) ||
    (List.range 64).any (fun m => s.flag (F.CE_CONm_CFG_EN m) && destKey (s.rd (R.CE_CONm_OUT m)) == some k)

/-- Is bank b of slot n valid (R228, R255)? -/
def State.bankValid (s : State) (n b : Nat) : Bool :=
  let w := s.bankW n b
  let fin := (List.range 10).all fun i => finW (w i)
  let base := fin && !f32.blt (w 8) (w 7) && f32.ble 0 (w 9) && f32.blt (w 9) f32.one
  let trk := (contestOf (s.rd (R.CE_SLOTn_OUT n))).isNone ||
    finW (w 10) && f32.ble 0 (w 10) && f32.ble (w 10) f32.one
  let plm := !s.flag (F.CE_SLOTn_PLM0_EN n) ||
    finW (w 11) && finW (w 12) && finW (w 13) && f32.ble 0 (w 11) && f32.ble (w 11) (w 12) &&
    f32.blt 0 (w 13) && f32.ble (w 13) f32.one
  base && trk && plm

/-! ### Triggers -/

/-- Two origins of one command: HEAD positions stand for the obeyed HEAD, whose commands a new one takes over (R39, R219). -/
def sameSource (a b : Nat) : Bool := a == b || Nat.ble a 1 && Nat.ble b 1

/-- The command in force of item idx (R219, R220). -/
def State.commandInForce (s : State) (org idx : Nat) : Option Word :=
  (s.rng.inForce.find? fun i => sameSource i.origin org && i.idx == idx).map (·.value)

/-- The uplink item taken in this cycle (R165, R220). -/
def State.uplink (s : State) (org idx : Nat) : Option Word :=
  (s.rng.upItems.find? fun i => i.origin == org && i.idx == idx).map (·.value)

/-- The seal of slot m's sample holds (R358). -/
def State.sampleGood (s : State) (m : Nat) : Bool :=
  let item := if s.flag (F.ADC_TRGm_CFG_UP_EN m) then s.get (F.ADC_TRGm_ITEM_ITEM m) else 0xFC00 + m
  sealOf (s.rd (R.ADC_RESm_VAL m)) s.pos item (bits (s.num (R.ADC_RESm_RAW m)) 24 8) == s.num (R.ADC_RESm_SEAL m) >>> 16

/-- The value a binding word names, none while missing (R218, R219, R220). -/
def State.source (s : State) (n : Nat) (w : Word) : Option Word :=
  let v := w.toNat
  match bits v 28 4 with
  | 1 => if Nat.blt (bits v 0 10) 16 && !s.sampleGood (bits v 0 10) then none else s.result (bits v 0 10)
  | 2 =>
    if s.isHead then s.uplink (bits v 16 8) (bits v 0 16)
    else
      let org := bits v 16 8
      s.commandInForce (if org ≤ 1 then s.obeyed else org) (bits v 0 16)
  | 3 => if bits v 0 10 < 768 then some (s.rd (R.CE_SLOTn_U (bits v 0 10))) else none
  | 4 => some (s.rd (R.CE_SLOTn_CONST n))
  | _ => some 0

/-- What the trigger latches for one input (R220). -/
def State.latchIn (s : State) (n : Nat) (part : List Nat) (w : Word) : Latch :=
  let k := bits w.toNat 0 10
  if bits w.toNat 28 4 = 3 && Nat.blt k n && part.contains k then .same k
  else match s.source n w with
    | some v => .value v
    | none => .missing

/-- The slots of group g that are enabled. -/
def State.groupSlots (s : State) (g : Nat) : List Nat := s.slots.filter fun n => s.slotEn n && s.slotRg n == g

/-- The contests with a member in group g, enabled or not (R247, R251). -/
def State.groupContests (s : State) (g : Nat) : List Nat :=
  (s.slots.filterMap fun n => if s.slotRg n = g then contestOf (s.rd (R.CE_SLOTn_OUT n)) else none).eraseDups

/-- The group may run: enabled, in FULL, or in Par-bake with PB (R233, R235). -/
def State.groupMay (s : State) (g : Nat) : Bool :=
  s.flag (F.CE_RGn_CFG_EN g) && (s.stage == Stage.full || s.running && s.flag (F.CE_RGn_CFG_PB g))

/-- A dropped trigger (R239). -/
def State.dropTrigger (s : State) (g : Nat) : State :=
  (s.bump (F.CE_RGn_STAT_OVR g)).raise { code := 0x0603, cls := 0, scope := .node }

/-- The engine finds ECC word w of slot n's record uncorrectable (R241, R486): ECC, rows 7 of R246 and 2 of R494. -/
def State.eccFound (s : State) (n w : Nat) : State :=
  let a := (s.setFlag (F.CE_SLOTn_STAT_ECC n) true).setFlag F.CE_STAT_ECC true
  let b := (a.wrN R.MEM_LAST_UE w).raiseLater { code := 0x0607, cls := 3, scope := .node, kind := 3, inst := n }
  b.raiseLater { code := 0x0F02, cls := 2, scope := .node }

/-- The ECC words of slot n's record from byte `lo` to byte `hi` that are uncorrectable. -/
def State.poisonIn (s : State) (n lo hi : Nat) : List Nat :=
  (s.slotPoison n).filter fun w => Nat.blt w (0x41000000 + 0x100 * n + hi) && Nat.blt (0x41000000 + 0x100 * n + lo) (w + 8)

/-- The slots outside the evaluation whose output an input of slot n reads (R218). -/
def State.outerSlots (s : State) (part : List Nat) (n : Nat) : List Nat :=
  ([R.CE_SLOTn_IN_REF n, R.CE_SLOTn_IN_FB n, R.CE_SLOTn_IN_FF n].filterMap fun a =>
    let v := s.num a
    if bits v 28 4 = 3 && Nat.blt (bits v 0 10) 768 then some (bits v 0 10) else none).filter fun k => !part.contains k

/-- Uncorrectable words that the evaluation of group g reads: of its own slots' records, and of the outputs they take from
other slots. The group cannot commit (R241). -/
def State.eccDoom (s : State) (g : Nat) : State :=
  match (s.engGroup g).run with
  | none => s
  | some ls =>
    if (s.engGroup g).doomed then s
    else
      let part := ls.map (·.slot)
      let own := part.filterMap fun n => (s.slotPoison n).head?.map fun w => (n, w)
      let outer := ((part.map (s.outerSlots part)).flatten.eraseDups).filterMap fun n =>
        (s.poisonIn n 0x9C 0xA0).head?.map fun w => (n, w)
      let hurt := own ++ outer
      if hurt.isEmpty then s
      else
        let s1 := (hurt.foldl (fun s e => s.eccFound e.1 e.2) s).raiseDue
        s1.setEngGroup g { s1.engGroup g with doomed := true }

/-- The balancer's run starts at the commit or the deadline of its group (R286). -/
def State.balTrigger (s : State) (g : Nat) : State :=
  if (s.isPrimary || s.isStandby) && s.flag F.BAL_CTRL_EN && s.get F.BAL_CTRL_RG == g && s.stage == Stage.full &&
      !s.bal.done && !s.flag F.BAL_STAT_BUSY then
    ({ s with bal := { s.bal with trig := s.sys.up } }).setFlag F.BAL_STAT_BUSY true
  else s

/-- Local samples whose seal fails at the latch count in ADC_CNT_SEAL (R358). -/
def State.sealCount (s : State) (part : List Nat) : State :=
  part.foldl (fun s n => [R.CE_SLOTn_IN_REF n, R.CE_SLOTn_IN_FB n, R.CE_SLOTn_IN_FF n].foldl (fun s a =>
    let v := s.num a
    s.when (bits v 28 4 == 1 && Nat.blt (bits v 0 10) 16 && (s.result (bits v 0 10)).isSome && !s.sampleGood (bits v 0 10))
      (·.bumpReg R.ADC_CNT_SEAL)) s) s

/-- The inputs, the banks and the destinations of the group's slots are latched at tick t (R220, R229). -/
def State.groupLatch (s : State) (g t : Nat) : State :=
  let part := s.groupSlots g
  let ls : List SlotLatch := part.map fun n =>
    { slot := n
      ref := s.latchIn n part (s.rd (R.CE_SLOTn_IN_REF n))
      fb := s.latchIn n part (s.rd (R.CE_SLOTn_IN_FB n))
      ff := s.latchIn n part (s.rd (R.CE_SLOTn_IN_FF n))
      bank := s.get (F.CE_SLOTn_CFG_ACT n)
      swap := (s.engSlot n).swapped
      out := s.rd (R.CE_SLOTn_OUT n) }
  let s1 := part.foldl (fun s n => s.setEngSlot n { s.engSlot n with swapped := false }) (s.sealCount part)
  s1.setEngGroup g { s1.engGroup g with run := some ls, contests := s.groupContests g, trig := t, doomed := false }

/-- The trigger of a group at the tick it falls due (R220, R229, R233, R239, R240). -/
def State.rgTrigger (s : State) (g : Nat) : State :=
  match (s.engGroup g).due with
  | [] => s
  | t :: rest =>
    let s1 := (s.setEngGroup g { s.engGroup g with due := rest }).runToTick t
    if !s1.groupMay g then s1
    else if (s1.engGroup g).run.isSome || s1.flag F.PWM_STAT_HALT then s1.dropTrigger g
    else (s1.groupLatch g t).eccDoom g

/-! ### The cost of an evaluation (R237) -/

/-- c_s of a latched slot in control-engine clocks: its form, doubled in a BUMPLESS swap evaluation, and its model (R264). -/
def State.slotCost (s : State) (l : SlotLatch) : Nat :=
  let c := if s.flag (F.CE_SLOTn_CFG_FORM l.slot) then 14 else 10
  let c := if l.swap && s.get (F.CE_SLOTn_CFG_RULE l.slot) == 1 then 2 * c else c
  let m := if !s.flag (F.CE_SLOTn_PLM0_EN l.slot) then 0 else if s.flag (F.CE_SLOTn_PLM0_ORDER l.slot) then 12 else 8
  c + m

def Latch.slot? : Latch → Option Nat
  | .same k => some k
  | _ => none

/-- The end of the longest chain of same-group bindings through each slot, in ascending slot number; a contest adds the
largest c_s of its members and 4 clocks before a slot bound to a member goes on (R237, R257). -/
def State.chainEnds (s : State) (ls : List SlotLatch) : List (Nat × Nat) :=
  let con := fun (n : Nat) => (ls.find? fun l => l.slot == n).bind fun l => contestOf l.out
  let extra := fun (n : Nat) => match con n with
    | none => 0
    | some m => ((ls.filter fun l => contestOf l.out == some m).map s.slotCost).foldl Nat.max 0 + 4
  ls.foldl (fun es l =>
    let before := ([l.ref, l.fb, l.ff].filterMap Latch.slot?).map fun k =>
      ((es.find? fun e => e.1 == k).map (·.2)).getD 0 + extra k
    es ++ [(l.slot, before.foldl Nat.max 0 + s.slotCost l)]) []

/-- C_G (R237). -/
def State.groupCost (s : State) (ls : List SlotLatch) (cons : List Nat) : Nat :=
  let sum := (ls.map s.slotCost).foldl (· + ·) 0
  let chain := ((s.chainEnds ls).map (·.2)).foldl Nat.max 0
  let con := fun (m : Nat) =>
    let ms := ls.filter fun l => contestOf l.out == some m
    if ms.isEmpty then 0
    else ((s.chainEnds ls).filter (fun e => ms.any fun l => l.slot == e.1)).foldl (fun b e => Nat.max b e.2) 0 +
      (ms.map s.slotCost).foldl Nat.max 0 + 4
  24 + (sum + 3) / 4 + Nat.max chain ((cons.map con).foldl Nat.max 0)

/-! ### Evaluation (R215 to R217, R230, R231, R249) -/

/-- A slot's evaluation so far: its inputs after R221, and what it computed. -/
structure Eval where
  l : SlotLatch
  /-- ref, fb, ff after substitution; which of them was valid. -/
  ref : Nat
  fb : Nat
  ff : Nat
  refOk : Bool
  fbOk : Bool
  ffOk : Bool
  stale : Bool
  nan : Bool
  e0 : Nat
  p : Nat
  /-- The transfer term after the swap rule, and the histories e1 to e3, w1 to w3 after it. -/
  xt : Nat
  hist : List Nat
  /-- Clamped value: the candidate of a contest member. -/
  c : Nat
  hi : Bool
  lo : Bool
  /-- The final output, once known. -/
  u : Option Nat
  deriving DecidableEq, Repr

/-- The slot takes part: neither stale nor NaN (R248). -/
def Eval.runs (e : Eval) : Bool := !e.stale && !e.nan

def evalOf (es : List Eval) (n : Nat) : Option Eval := es.find? fun e => e.l.slot == n

/-- The value of a latched input: none while the slot it waits for has no final output. -/
def Latch.value? (es : List Eval) : Latch → Option (Option Nat)
  | .value w => some (some w.toNat)
  | .missing => some none
  | .same k => match evalOf es k with
    | some e => e.u.map some
    | none => none

/-- acc of R215 with bank b on histories h = [e1, e2, e3, w1, w2, w3]. -/
def State.acc (s : State) (n b e0 : Nat) (h : List Nat) : Nat :=
  let w := s.bankW n b
  let x := fun i => h.getD i 0
  let three := s.flag (F.CE_SLOTn_CFG_FORM n)
  let a := f32.mul (w 0) e0
  let a := f32.fma (w 1) (x 0) a
  let a := f32.fma (w 2) (x 1) a
  let a := if three then f32.fma (w 3) (x 2) a else a
  let a := f32.fma (f32.neg (w 4)) (x 3) a
  let a := f32.fma (f32.neg (w 5)) (x 4) a
  if three then f32.fma (f32.neg (w 6)) (x 5) a else a

/-- Evaluate a slot up to its clamp (R215, R221, R230, R231, R254). A p equal to HI or LO, also one that a BUMPLESS swap has
cut to it, shows no CLAMP flag (log entry 23, DESIGN CHOICE). -/
def State.evalSlot (s : State) (l : SlotLatch) (ref fb ff : Option Nat) : Eval :=
  let n := l.slot
  let m := s.engSlot n
  let ok := fun (v : Option Nat) => match v with | some w => finW w | none => false
  let pick := fun (v : Option Nat) (last : Word) => if ok v then v.getD 0 else last.toNat
  let xr := pick ref m.lastRef
  let xb := pick fb m.lastFb
  let xf := pick ff m.lastFf
  let miss := !(ok ref && ok fb && ok ff)
  let stale := miss && Nat.blt (s.get (F.CE_SLOTn_CFG_IN_HOLD n)) (m.miss + 1)
  let rule := s.get (F.CE_SLOTn_CFG_RULE n)
  let zero := l.swap && rule == 2
  let hist := [R.CE_SLOTn_E n 0, R.CE_SLOTn_E n 1, R.CE_SLOTn_E n 2, R.CE_SLOTn_W n 0, R.CE_SLOTn_W n 1,
    R.CE_SLOTn_W n 2].map fun a => if zero then 0 else s.num a
  let xt0 := if zero then 0 else s.num (R.CE_SLOTn_XT n)
  let e0 := f32.sub xr xb
  let b := l.bank
  let lo := s.bankW n b 7
  let hi := s.bankW n b 8
  let v := s.acc n b e0 hist
  let plain := f32.add (f32.add v xt0) xf
  let bump := l.swap && rule == 1
  let pOld := f32.add (f32.add (s.acc n (1 - b) e0 hist) xt0) xf
  let uOld := fmin (fmax pOld (s.bankW n (1 - b) 7)) (s.bankW n (1 - b) 8)
  let target := fmin (fmax uOld lo) hi
  let p := if bump then target else plain
  let xt := if bump then f32.sub (f32.sub target xf) v else xt0
  let nan := !stale && f32.isNan p
  { l := l, ref := xr, fb := xb, ff := xf, refOk := ok ref, fbOk := ok fb, ffOk := ok ff
    stale := stale, nan := nan, e0 := e0, p := p, xt := xt, hist := hist
    c := fmin (fmax p lo) hi, hi := f32.blt hi p, lo := f32.blt p lo
    u := if stale || nan then some (s.num (R.CE_SLOTn_U n))
         else if (contestOf l.out).isSome then none
         else some (fmin (fmax p lo) hi) }

/-- The members of contest m among the evaluations, in member order, that take part (R248). -/
def members (es : List Eval) (m : Nat) : List Eval := es.filter fun e => contestOf e.l.out == some m && e.runs

/-- The winner: the first member with the lowest candidate (R249). -/
def winner : List Eval → Option Eval
  | [] => none
  | e :: t => match winner t with
    | none => some e
    | some w => if f32.blt w.c e.c then some w else some e

/-- Resolve one member against the winner (R249, R252). -/
def State.resolveMember (s : State) (w e : Eval) : Eval :=
  if e.l.slot = w.l.slot then { e with u := some e.c }
  else
    let lo := s.bankW e.l.slot e.l.bank 7
    let trk := s.bankW e.l.slot e.l.bank 10
    let t := f32.fma trk (f32.sub w.c e.c) e.c
    let u := fmax t lo
    { e with u := some u, hi := false, lo := f32.ble t lo }

/-- Resolve contest m when every latched member has been evaluated and is waiting (R249). -/
def State.resolveContest (s : State) (ls : List SlotLatch) (es : List Eval) (m : Nat) : List Eval :=
  let all := (ls.filter fun l => contestOf l.out == some m).all fun l => (evalOf es l.slot).isSome
  let ms := members es m
  if all && ms.any (fun e => e.u.isNone) then
    match winner ms with
    | some w => es.map fun e => if contestOf e.l.out == some m && e.runs then s.resolveMember w e else e
    | none => es
  else es

/-- One pass over the slots in ascending order, then the contests. -/
def State.evalPass (s : State) (ls : List SlotLatch) (cons : List Nat) (es : List Eval) : List Eval :=
  let es1 := ls.foldl (fun es l =>
    if (evalOf es l.slot).isSome then es
    else match l.ref.value? es, l.fb.value? es, l.ff.value? es with
      | some r, some b, some f => es ++ [s.evalSlot l r b f]
      | _, _, _ => es) es
  cons.foldl (fun es m => s.resolveContest ls es m) es1

/-- Passes until every slot has its output: each pass finishes at least one contest or slot, or none can finish. -/
def State.evalAll (s : State) (ls : List SlotLatch) (cons : List Nat) : Nat → List Eval → List Eval
  | 0, es => es
  | k + 1, es =>
    if es.length == ls.length && es.all (fun e => e.u.isSome) then es
    else State.evalAll s ls cons k (s.evalPass ls cons es)

/-- The evaluations of group g in ascending slot number; none when a slot waits on itself. -/
def State.groupEval (s : State) (g : Nat) : Option (List Eval) :=
  match (s.engGroup g).run with
  | none => none
  | some ls =>
    let cons := (s.engGroup g).contests
    let es := s.evalAll ls cons (ls.length + cons.length + 1) []
    if es.length == ls.length && es.all (fun e => e.u.isSome) then
      some (ls.filterMap fun l => evalOf es l.slot)
    else none

/-! ### Plausibility models (R260 to R263) -/

/-- The scope PLM0 names (R263). -/
def State.plmScope (s : State) (n : Nat) : Scope :=
  let leg := s.get (F.CE_SLOTn_PLM0_LEG n)
  match s.get (F.CE_SLOTn_PLM0_SCOPE n) with
  | 1 => .switch leg (if s.flag (F.CE_SLOTn_PLM0_SW n) then .high else .low)
  | 2 => .leg leg
  | 3 => .bridge (leg / 2)
  | _ => .cellOfLeg leg

def State.plmSet (s : State) (n st cntw cntf : Nat) : State :=
  ((s.put (F.CE_SLOTn_PLM0_STATE n) st).put (F.CE_SLOTn_PLM0_CNTW n) (Nat.min cntw 15)).put
    (F.CE_SLOTn_PLM0_CNTF n) (Nat.min cntf 15)

/-- Seed a model at its next evaluation (R261). -/
def State.plmReseed (s : State) (n : Nat) : State := s.plmSet n 0 0 0

/-- The next state and counters of R262 from |rf| above PM_WARN and above PM_FAULT. -/
def plmNext (st persist cntw cntf : Nat) (warn fault : Bool) : Nat × Nat × Nat :=
  let cf := if fault then cntf + 1 else 0
  match st with
  | 1 =>
    let cw := if warn then cntw + 1 else 0
    if persist ≤ cf then (3, 0, 0) else if persist ≤ cw then (2, 0, 0) else (1, cw, cf)
  | 2 =>
    let cw := if warn then 0 else cntw + 1
    if persist ≤ cf then (3, 0, 0) else if persist ≤ cw then (1, 0, 0) else (2, cw, cf)
  | _ =>
    let cw := if warn then 0 else cntw + 1
    if persist ≤ cw then (1, 0, 0) else (3, cw, 0)

/-- The model of slot n at an evaluation with feedback fb and applied value ua (R260 to R263). -/
def State.plmRun (s : State) (n bank fb ua : Nat) : State :=
  let st := s.get (F.CE_SLOTn_PLM0_STATE n)
  if st = 0 then
    let s1 := (s.wrN (R.CE_SLOTn_PLM n 4) fb).wrN (R.CE_SLOTn_PLM n 5) fb
    (s1.wrN (R.CE_SLOTn_PLM n 6) 0).plmSet n 1 0 0
  else
    let w := fun i => s.num (R.CE_SLOTn_PLM n i)
    let ym := f32.fma (w 1) ua (w 7)
    let ym := f32.fma (f32.neg (w 2)) (w 4) ym
    let ym := if s.flag (F.CE_SLOTn_PLM0_ORDER n) then f32.fma (f32.neg (w 3)) (w 5) ym else ym
    let r := f32.sub fb ym
    let filt := s.bankW n bank 13
    let rf := f32.fma filt (f32.sub r (w 6)) (w 6)
    let s1 := (s.wrN (R.CE_SLOTn_PLM n 5) (w 4)).wrN (R.CE_SLOTn_PLM n 4) ym
    let s2 := s1.wrN (R.CE_SLOTn_PLM n 6) rf
    if !finW ym || !finW rf then
      (s2.plmReseed n).raiseLater { code := 0x0702, cls := 1, scope := .node, kind := 3, inst := n }
    else
      let a := f32.abs rf
      let persist := Nat.max 1 (s.get (F.CE_SLOTn_PLM0_PERSIST n))
      let pr := plmNext st persist (s.get (F.CE_SLOTn_PLM0_CNTW n)) (s.get (F.CE_SLOTn_PLM0_CNTF n))
        (f32.blt (s.bankW n bank 11) a) (f32.blt (s.bankW n bank 12) a)
      let st' := pr.1
      let cw := pr.2.1
      let cf := pr.2.2
      let s3 := s2.plmSet n st' cw cf
      if st' = st then s3
      else if st' = 2 then
        let s4 := s3.wr (R.CE_PMW (n / 32)) (s3.rd (R.CE_PMW (n / 32)) ||| BitVec.ofNat 32 (1 <<< (n % 32)))
        s4.raiseLater { code := 0x0703, cls := 0, scope := .cellOfLeg (s.get (F.CE_SLOTn_PLM0_LEG n)), kind := 3, inst := n }
      else if st' = 3 then
        let s4 := s3.wr (R.CE_PMF (n / 32)) (s3.rd (R.CE_PMF (n / 32)) ||| BitVec.ofNat 32 (1 <<< (n % 32)))
        s4.raiseLater { code := 0x0704, cls := s.get (F.CE_SLOTn_PLM0_FCLS n) + 1, scope := s.plmScope n, kind := 3, inst := n }
      else s3

/-! ### Commit -/

/-- Write u to the destination of an OUT word (R222, R223). -/
def State.writeDest (s : State) (out : Word) (u : Nat) : State :=
  let v := out.toNat
  match outType out with
  | 1 => s.outItem (bits v 0 16) (BitVec.ofNat 32 u)
  | 2 => s.shadowWrite (bits v 0 3) .dfrac (BitVec.ofNat 32 u)
  | 3 => s.shadowWrite (bits v 0 3) .pfrac (BitVec.ofNat 32 u)
  | _ => s

/-- Store a slot's evaluation in its record (R215, R216, R217, R221). A NaN or STALE evaluation counts in EVALS and leaves P,
E0, FF and the CLAMP flags as they are (log entry 23, DESIGN CHOICE). -/
def State.storeEval (s : State) (e : Eval) : State :=
  let n := e.l.slot
  let m := s.engSlot n
  let miss := !(e.refOk && e.fbOk && e.ffOk)
  let cnt := if miss then m.miss + 1 else 0
  let s1 := s.setEngSlot n { m with
    lastRef := if e.refOk then BitVec.ofNat 32 e.ref else m.lastRef
    lastFb := if e.fbOk then BitVec.ofNat 32 e.fb else m.lastFb
    lastFf := if e.ffOk then BitVec.ofNat 32 e.ff else m.lastFf
    miss := cnt }
  let wasStale := s.flag (F.CE_SLOTn_STAT_STALE n)
  let s2 := (s1.put (F.CE_SLOTn_STAT_MISS_CNT n) (Nat.min cnt 15)).setFlag (F.CE_SLOTn_STAT_STALE n) e.stale
  let s3 := if miss then s2.setFlag (F.CE_SLOTn_STAT_MISS n) true else s2
  let s4 := s3.wr (R.CE_SLOTn_EVALS n) (s3.rd (R.CE_SLOTn_EVALS n) + 1)
  if e.stale then
    (if wasStale then s4 else s4.raiseLater { code := 0x0604, cls := 1, scope := .node, kind := 3, inst := n })
  else if e.nan then
    (s4.setFlag (F.CE_SLOTn_STAT_NAN n) true).raiseLater { code := 0x0605, cls := 1, scope := .node, kind := 3, inst := n }
  else
    let u := e.u.getD 0
    let w0 := f32.sub (f32.sub u e.xt) e.ff
    let h := fun i => e.hist.getD i 0
    let s5 := ((s4.wrN (R.CE_SLOTn_E n 0) e.e0).wrN (R.CE_SLOTn_E n 1) (h 0)).wrN (R.CE_SLOTn_E n 2) (h 1)
    let s6 := ((s5.wrN (R.CE_SLOTn_W n 0) w0).wrN (R.CE_SLOTn_W n 1) (h 3)).wrN (R.CE_SLOTn_W n 2) (h 4)
    let s7 := s6.wrN (R.CE_SLOTn_XT n) (f32.mul (s.bankW n e.l.bank 9) e.xt)
    let s8 := ((s7.wrN (R.CE_SLOTn_U n) u).wrN (R.CE_SLOTn_P n) e.p).wrN (R.CE_SLOTn_E0 n) e.e0
    let s9 := s8.wrN (R.CE_SLOTn_FF n) e.ff
    (s9.setFlag (F.CE_SLOTn_STAT_CLAMP_HI n) e.hi).setFlag (F.CE_SLOTn_STAT_CLAMP_LO n) e.lo

/-- Commit a contest (R250, R251, R253). -/
def State.commitContest (s : State) (es : List Eval) (m : Nat) : State :=
  let ms := members es m
  let s1 := s.put (F.CE_CONm_STAT_MEMBERS m) (Nat.min ms.length 8)
  match winner ms with
  | none =>
    (s1.setFlag (F.CE_CONm_STAT_EMPTY m) true).raiseLater { code := 0x0701, cls := 1, scope := .node, kind := 4, inst := m }
  | some w =>
    let y := w.c
    let s2 := (s1.wrN (R.CE_CONm_Y m) y).writeDest (s1.rd (R.CE_CONm_OUT m)) y
    let old := s.get (F.CE_CONm_STAT_WIN m)
    let s3 := if old != 0x3FF && old != w.l.slot then s2.bump (F.CE_CONm_STAT_HANDOVERS m) else s2
    s3.put (F.CE_CONm_STAT_WIN m) w.l.slot

/-- The model of a slot runs after its output is final (R260, R261); `before` is the state at the last commit. -/
def State.modelOf (s before : State) (e : Eval) : State :=
  let n := e.l.slot
  if s.flag (F.CE_SLOTn_PLM0_EN n) && e.runs && e.fbOk then
    let ua := match contestOf e.l.out with
      | some m => before.num (R.CE_CONm_Y m)
      | none => before.num (R.CE_SLOTn_U n)
    s.plmRun n e.l.bank e.fb ua
  else s

/-- Copy offsets 0x80 to 0xBC of a slot (R244). -/
def State.peekCopy (s : State) (n : Nat) : State :=
  let s1 := forUpTo 16 (fun i s => s.wr (R.CE_PEEK i) (if n < 768 then s.rd (R.CE_SLOTn_E n 0 + 4 * i) else 0)) s
  let hurt := if Nat.blt n 768 then s.poisonIn n 0x80 0xC0 else []
  let s1 := match hurt with
    | [] => s1
    | w :: _ => (s1.eccFound n w).raiseDue
  let s2 := (s1.setFlag F.CE_PEEK_CTRL_REQ false).setFlag F.CE_PEEK_CTRL_DONE true
  { s2 with eng := { s2.eng with peek := none } }

/-- The evaluation in progress of group g ends; the triggers to come stay. -/
def State.groupIdle (s : State) (g : Nat) : State := s.setEngGroup g { due := (s.engGroup g).due }

/-- The group commits at tick t (R223, R238, R242, R244). -/
def State.commitAt (s : State) (g : Nat) (es : List Eval) : State :=
  let cons := (s.engGroup g).contests
  let s1 := es.foldl (fun t e => (t.storeEval e).modelOf s e) s
  let s2 := es.foldl (fun t e => t.writeDest e.l.out (e.u.getD 0)) s1
  let s3 := (cons.foldl (fun t m => t.commitContest es m) s2).raiseDue
  let s4 := s3.put (F.CE_RGn_STAT_CONSEC g) 0
  let run := Nat.min ((s.lnow - (s.engGroup g).trig) / 16) 0xFFFF
  let s5 := (s4.put (F.CE_RGn_RUN_LAST g) run).put (F.CE_RGn_RUN_MAX g) (Nat.max run (s4.get (F.CE_RGn_RUN_MAX g)))
  let s6 := (s5.groupIdle g).balTrigger g
  match s6.eng.peek with
  | some n => if s6.slotRg n == g then s6.peekCopy n else s6
  | none => s6

/-- The group misses its deadline, DL after its trigger (R238). -/
def State.groupMiss (s : State) (g : Nat) : State :=
  match (s.engGroup g).run with
  | none => s
  | some ls =>
    let s0 := s.runToTick ((s.engGroup g).trig + s.get (F.CE_RGn_DL_DL g))
    let late := fun (s : State) (l : SlotLatch) =>
      let a := s.setFlag (F.CE_SLOTn_STAT_LATE l.slot) true
      a.wr (R.CE_LATE (l.slot / 32)) (a.rd (R.CE_LATE (l.slot / 32)) ||| BitVec.ofNat 32 (1 <<< (l.slot % 32)))
    let s1 := ls.foldl late s0
    let s2 := s1.bump (F.CE_RGn_STAT_MISSES g)
    let consec := s2.get (F.CE_RGn_STAT_CONSEC g) + 1
    let s3 := s2.put (F.CE_RGn_STAT_CONSEC g) (Nat.min consec 15)
    let cons := (s.engGroup g).contests
    let s4 := s3.groupIdle g
    let s5 := if consec = Nat.max 1 (s.get (F.CE_RGn_CFG_MISS_MAX g)) then
        s4.raise { code := 0x0602, cls := 3, scope := .node } else s4
    let s6 := (s5.raise { code := 0x0601, cls := 0, scope := .node }).balTrigger g
    if s.isHead then
      let again := fun (s : State) (out : Word) (u : Nat) =>
        if outType out = 1 then s.outItem (bits out.toNat 0 16) (BitVec.ofNat 32 u) else s
      let s7 := ls.foldl (fun s l => again s l.out (s.num (R.CE_SLOTn_U l.slot))) s6
      cons.foldl (fun s m => if s.get (F.CE_CONm_STAT_WIN m) = 0x3FF then s
        else again s (s.rd (R.CE_CONm_OUT m)) (s.num (R.CE_CONm_Y m))) s7
    else s6

/-- The group's last slot has finished (R223, R237, R238): it commits once its cost has run, and misses its deadline where that
falls after DL, at a halt, and on an uncorrectable word. -/
def State.groupCommit (s : State) (g : Nat) : State :=
  let s := s.eccDoom g
  let eg := s.engGroup g
  match eg.run with
  | none => s
  | some ls =>
    let t := eg.trig + 16 * s.groupCost ls eg.contests
    let dl := eg.trig + s.get (F.CE_RGn_DL_DL g)
    if s.flag F.PWM_STAT_HALT || eg.doomed || dl < Nat.max t s.lnow then s.groupMiss g
    else
      let s1 := s.runToTick t
      match s1.groupEval g with
      | none => s1.groupMiss g
      | some es => s1.commitAt g es

/-! ### Bank swaps (R225 to R228) -/

def State.swapPending (s : State) : Bool := s.get F.CE_SWAP_CTRL_STATE == 1

/-- GO (R226, R227). -/
def State.swapGo (s : State) (next : Bool) : State :=
  let s1 := s.setFlag F.CE_SWAP_CTRL_NEXT next
  let err :=
    if !next && !scnLater (s1.rd R.CE_SWAP_SCN) s1.scn then 1
    else if s1.swapPending then 2
    else if !s1.slots.any (fun n => s1.flag (F.CE_SLOTn_CFG_ARM n)) then 3
    else 0
  let s2 := s1.put F.CE_SWAP_STAT_ERR err
  if err = 0 then s2.put F.CE_SWAP_CTRL_STATE 1
  else if s1.swapPending then s2 else s2.put F.CE_SWAP_CTRL_STATE 3

/-- CANCEL (R227). -/
def State.swapCancel (s : State) : State := if s.swapPending then s.put F.CE_SWAP_CTRL_STATE 0 else s

/-- One armed slot at the swap boundary (R226, R228): whether it swapped. -/
def State.swapSlot (s : State) (n : Nat) : State × Bool :=
  let other := 1 - s.get (F.CE_SLOTn_CFG_ACT n)
  let hurt := s.poisonIn n (0x40 * other) (0x40 * other + 0x40)
  let s := match hurt with
    | [] => s
    | w :: _ => (s.eccFound n w).raiseDue
  if hurt.isEmpty && s.bankValid n other then
    let s1 := (s.put (F.CE_SLOTn_CFG_ACT n) other).setFlag (F.CE_SLOTn_CFG_ARM n) false
    (s1.setEngSlot n { s1.engSlot n with swapped := true }, true)
  else
    let s1 := (s.setFlag (F.CE_SLOTn_STAT_BANK_ERR n) true).setFlag F.CE_STAT_BANK_ERR true
    (s1.raise { code := 0x0606, cls := 1, scope := .node, kind := 3, inst := n }, false)

/-- The armed slots swap in one fabric cycle (R226): the slots that swapped. -/
def State.swapSlots (s : State) (armed : List Nat) : State × List Nat :=
  armed.foldl (fun (p : State × List Nat) n =>
    let pr := p.1.swapSlot n
    (pr.1, if pr.2 then p.2 ++ [n] else p.2)) (s, [])

/-- The swap at the boundary that begins the current cycle (R226). -/
def State.swapAtBoundary (s : State) : State :=
  if s.swapPending && (s.flag F.CE_SWAP_CTRL_NEXT || s.rd R.CE_SWAP_SCN == s.scn) then
    let armed := s.slots.filter fun n => s.flag (F.CE_SLOTn_CFG_ARM n)
    let pr := s.swapSlots armed
    let s1 := pr.1
    let done := pr.2
    let s2 := (s1.put F.CE_SWAP_STAT_SWAPPED done.length).put F.CE_SWAP_STAT_REFUSED (armed.length - done.length)
    let s3 := (s2.put F.CE_SWAP_STAT_ERR 0).wr R.CE_SWAP_LAST s.scn
    let s4 := s3.put F.CE_SWAP_CTRL_STATE 2
    { s4 with eng := { s4.eng with swapAt := some (s4.fab, done) } }
  else s

/-! ### Writes of slot records (R225, R242, R264) -/

def State.actWr (s : State) : State := s.setFlag F.CE_STAT_ACT_WR true

/-- A bank word is written (R225): judged against the banks before a swap in the same fabric cycle. -/
def State.bankWrite (s : State) (n b a : Nat) (v : Word) : State :=
  let act := s.get (F.CE_SLOTn_CFG_ACT n)
  let justSwapped := match s.eng.swapAt with
    | some (t, l) => t == s.fab && l.contains n
    | none => false
  let active := if justSwapped then 1 - act else act
  if s.slotOn n && b == active then s.actWr else s.wr a v

/-- CE_SLOTn_CFG is written (R224, R242). -/
def State.cfgWrite (s : State) (n : Nat) (v : Word) : State :=
  let a := R.CE_SLOTn_CFG n
  let keep : Word := 0x738F0000
  let old := s.rd a
  let on := s.slotOn n
  let s1 :=
    if (old ^^^ v) &&& keep == 0 then s
    else if on then s.actWr
    else s.wr a ((old &&& ~~~keep) ||| (v &&& keep))
  let s2 := if v.getLsbD 26 then s1.setFlag (F.CE_SLOTn_CFG_ARM n) true else s1
  if v.getLsbD 31 then
    (if old.getLsbD 31 then s2
     else if s2.destTaken n (s2.rd (R.CE_SLOTn_OUT n)) then s2.setFlag F.CE_STAT_BIND_ERR true
     else (s2.setFlag (F.CE_SLOTn_CFG_EN n) true).plmReseed n)
  else s2.setFlag (F.CE_SLOTn_CFG_EN n) false

/-- PLM0 is written (R261, R264). -/
def State.plm0Write (s : State) (n : Nat) (v : Word) : State :=
  let a := R.CE_SLOTn_PLM n 0
  let old := s.rd a
  let free := !s.slotOn n || !s.flag (F.CE_SLOTn_PLM0_EN n)
  let wmask : Word := 0x7FE0F000
  let bad := v.getLsbD 31 && (bits v.toNat 28 2 == 3 || bits v.toNat 25 3 == 0 || Nat.blt 4 (bits v.toNat 25 3))
  if bad then s.actWr
  else
    let s1 := if free then s.wr a ((old &&& ~~~wmask) ||| (v &&& wmask))
              else if (old ^^^ v) &&& wmask == 0 then s else s.actWr
    let s2 := s1.setFlag (F.CE_SLOTn_PLM0_EN n) (v.getLsbD 31)
    if v.getLsbD 31 && !old.getLsbD 31 then s2.plmReseed n else s2

/-- A write of word `w` (offset 4·w) of slot n's record (R225, R241, R242, R264). A write of OUT at run time is carried out
even when two enabled slots then share a destination: R224 binds the loader (log entry 23, DESIGN CHOICE). -/
def State.slotWrite (s : State) (n w : Nat) (v : Word) : State :=
  let a := R.CE_SLOTn_BKA_B0 n + 4 * w
  if w < 32 then s.bankWrite n (w / 16) a v
  else if w < 40 then (if s.slotOn n then s.actWr else s.wr a v)
  else if w < 43 then (if s.slotOn n then s.actWr else s)
  else if w = 43 then s.wr a (s.rd a &&& ~~~(v &&& 0xDC))
  else if w = 48 then s.cfgWrite n v
  else if 49 ≤ w ∧ w ≤ 53 then s.wr a v
  else if w = 56 then s.plm0Write n v
  else if 57 ≤ w then
    (if s.slotOn n && s.flag (F.CE_SLOTn_PLM0_EN n) then s.actWr else s.wr a v)
  else s

/-- REQ in CE_PEEK_CTRL (R244): taken at the slot's next commit, or at once when the slot or its group is off. -/
def State.peekRequest (s : State) (n : Nat) : State :=
  let s1 := (s.put F.CE_PEEK_CTRL_SLOT n).setFlag F.CE_PEEK_CTRL_DONE false
  let s2 := s1.setFlag F.CE_PEEK_CTRL_REQ true
  let waits := Nat.blt n 768 && s2.slotOn n && s2.flag (F.CE_RGn_CFG_EN (s2.slotRg n))
  if waits then { s2 with eng := { s2.eng with peek := some n } } else s2.peekCopy n

/-- CE_CMD.CNT_CLR (R243, R265). -/
def State.ceCntClr (s : State) : State :=
  let s1 := forUpTo 8 (fun g s =>
    ((s.put (F.CE_RGn_STAT_MISSES g) 0).put (F.CE_RGn_STAT_OVR g) 0).wr (R.CE_RGn_RUN g) 0) s
  (forUpTo 64 (fun m s => s.put (F.CE_CONm_STAT_HANDOVERS m) 0) s1).wr R.BAL_RUN 0

/-- The HEAD's derating minima of R259, published at T_UP: for a set of origins, the smallest valid item 0xFE00. -/
def State.minDerating (s : State) (p : Nat → Bool) : Option Word :=
  s.rng.upItems.foldl (fun best i =>
    if i.idx == 0xFE00 && p i.origin && finW i.value.toNat then
      match best with
      | some b => if f32.blt i.value.toNat b.toNat then some i.value else best
      | none => some i.value
    else best) none

def State.publishDerating (s : State) : State :=
  let entry := fun (p : Nat) => s.img.image.table.find? (fun e => e.pos.toNat == p)
  let has := fun (q : StationEntry → Bool) (p : Nat) => match entry p with | some e => q e | none => false
  let s1 := forUpTo 3 (fun k s => s.setResult (1016 + k) (s.minDerating (has fun e => e.role == 2 && e.stack == k))) s
  let s2 := s1.setResult 1019 (s1.minDerating (has fun e => e.role == 3))
  let s3 := s2.setResult 1020 (s2.minDerating (has fun e => e.role == 4))
  s3.setResult 1021 (s3.minDerating (fun _ => true))

/-! ### The commands -/

/-- `upset` is an ECC word of the coefficient RAM that the engine finds uncorrectable at this read (R241). -/
def execRgTrigger (g : Fin 8) (upset : Option (Fin 24576)) (s : State) : Host.Outcome State Fault Refusal :=
  .next (s.live fun s =>
    let s1 := match upset with
      | some w => s.eccSet (0x41000000 + 8 * w.val) true
      | none => s
    s1.rgTrigger g.val)

def execGroupCommit (g : Fin 8) (s : State) : Host.Outcome State Fault Refusal :=
  .next (s.live fun s => s.groupCommit g.val)

def execDeadlineMiss (g : Fin 8) (s : State) : Host.Outcome State Fault Refusal :=
  .next (s.live fun s => s.groupMiss g.val)

def execSwapGo (next : Bool) (s : State) : Host.Outcome State Fault Refusal :=
  .next (s.live fun s => s.swapGo next)

def execSwapCancel (s : State) : Host.Outcome State Fault Refusal :=
  .next (s.live fun s => s.swapCancel)

def execPeekRequest (slot : BitVec 10) (s : State) : Host.Outcome State Fault Refusal :=
  .next (s.live fun s => s.peekRequest slot.toNat)

def execCeCntClr (s : State) : Host.Outcome State Fault Refusal :=
  .next (s.live fun s => s.ceCntClr)

end Sys2Proof.Machine
end

