-- ==== Sys2Proof/Machine/Balancer.lean ====
section
/-! DEFINITION. Machine/Balancer.lean: the rank-and-share balancer (R268 to R289, R585): the primary HEAD's run and its
requests, and the BAL block of a member.
Marked choices: log entries 14, 25 (DEDUCED). -/
namespace Sys2Proof.Machine

namespace Cell
def absent : Nat := 0
def bypassed : Nat := 1
def joining : Nat := 2
def active : Nat := 3
def stale : Nat := 4
end Cell

def State.balCell (s : State) (k i : Nat) : BalCell := Bank.at {} s.bal.cell (60 * k + i)
def State.setBalCell (s : State) (k i : Nat) (c : BalCell) : State :=
  { s with bal := { s.bal with cell := Bank.upd {} s.bal.cell (60 * k + i) c } }
def State.balStk (s : State) (k : Nat) : BalStk := Bank.at {} s.bal.stk k
def State.setBalStk (s : State) (k : Nat) (c : BalStk) : State :=
  { s with bal := { s.bal with stk := Bank.upd {} s.bal.stk k c } }

/-- The installed cells of stack k, by cell index: index and position (R20). -/
def State.balCells (s : State) (k : Nat) : List (Nat × Nat) :=
  (List.range 60).filterMap fun i =>
    (s.img.image.table.find? fun e => e.role == 2 && e.stack == k && e.cell == i).map fun e => (i, e.pos.toNat)

def State.cellState (s : State) (k i : Nat) : Nat := s.get (F.BAL_STKs_CELLi_STAT_STATE k i)
def State.cellSwitches (s : State) (k i : Nat) : Bool :=
  s.cellState k i == Cell.active || s.cellState k i == Cell.stale

/-- Indexes of the switching cells, and of the ACTIVE ones (R268). -/
def State.switching (s : State) (k : Nat) : List Nat := ((s.balCells k).map (·.1)).filter (s.cellSwitches k)
def State.ranked (s : State) (k : Nat) : List Nat :=
  ((s.balCells k).map (·.1)).filter fun i => s.cellState k i == Cell.active

/-- Stack and cell of a CELL node's position. -/
def State.cellAt (s : State) (pos : Nat) : Option (Nat × Nat) :=
  (s.img.image.table.find? fun e => e.role == 2 && e.pos.toNat == pos).map fun e => (e.stack, e.cell)

/-- The serving SECONDARY of a cell: its position, none when the station has none there (R270). -/
def State.servedBy (s : State) (k i : Nat) : Option Nat :=
  let p := s.get (F.BAL_STKs_CELLi_CFG_SEC_POS k i)
  if s.img.image.table.any (fun e => e.role == 3 && e.pos.toNat == p) then some p else none

/-- A balancer fault is raised at the primary HEAD (R289). -/
def State.balRaise (s : State) (r : Raise) : State := if s.isPrimary then s.raiseLater r else s

/-- A cell becomes BYPASSED with a REASON (R269). -/
def State.balBypass (s : State) (k i pos reason : Nat) : State :=
  let s1 := s.put (F.BAL_STKs_CELLi_STAT_STATE k i) Cell.bypassed
  let s2 := (s1.put (F.BAL_STKs_CELLi_STAT_REASON k i) reason).put (F.BAL_STKs_CELLi_STAT_RANK k i) 0xFF
  let s3 := s2.setBalCell k i { s2.balCell k i with v := none }
  if reason = 1 then s3 else s3.balRaise { code := 0x0802, cls := 1, scope := .position pos, kind := 6, inst := pos }

/-- A cell enters the switching set (R269, R585): STALE without a valid voltage. -/
def State.balEnter (s : State) (k i : Nat) (held : Bool) : State :=
  let s1 := s.put (F.BAL_STKs_CELLi_STAT_STATE k i) (if held then Cell.active else Cell.stale)
  s1.put (F.BAL_STKs_CELLi_STAT_REASON k i) 0

/-- LOST_CYC, 0 acting as 1. -/
def State.lostCyc (s : State) : Nat := Nat.max 1 (s.get F.BAL_CTRL_LOST_CYC)

/-- The status item of a position in this cycle (R270, R471). -/
def State.statusItem (s : State) (pos : Nat) : Option Word := s.uplink pos 0xFE01

/-- The loss counts of the SECONDARY nodes (R270). -/
def State.balSecs (s : State) : State :=
  let ps := (s.img.image.table.filter fun e => e.role == 3).map (·.pos.toNat)
  ps.foldl (fun s p =>
    let n := if (s.statusItem p).isSome then 0 else Nat.min 255 (Bank.at 0 s.bal.sec p + 1)
    { s with bal := { s.bal with sec := Bank.upd 0 s.bal.sec p n } }) s

/-- The inputs of one cell, and the state changes they make (R269, R270, R585). -/
def State.balInput (s : State) (k i pos : Nat) : State :=
  let st := s.cellState k i
  if st != Cell.active && st != Cell.stale && st != Cell.joining then s
  else
    let vb := s.uplink pos (s.get (F.BAL_STKs_VDC_ITEM_ITEM k))
    let w := s.statusItem pos
    let ok := match vb with | some v => finW v.toNat | none => false
    let c := s.balCell k i
    let miss := if ok then 0 else Nat.min 255 (s.get (F.BAL_STKs_CELLi_STAT_MISS k i) + 1)
    -- a joining cell whose node is not in FULL yet sends no uplink (R117, R118, R281)
    let silent := st == Cell.joining && (s.member pos).stage != Stage.full
    let lost := if vb.isSome || w.isSome || silent then 0 else c.lost + 1
    let s1 := s.setBalCell k i { v := if ok then vb else c.v, lost := lost }
    let s2 := s1.put (F.BAL_STKs_CELLi_STAT_MISS k i) miss
    let share := s.get (F.BAL_STKs_CELLi_CFG_SHARE k i)
    let sec := s.servedBy k i
    let safe := match w with | some v => v.getLsbD 0 | none => false
    let secW := match sec with | some p => s.statusItem p | none => none
    let shareSafe := match secW with | some v => v.getLsbD (8 + share) | none => false
    let secLost := match sec with | some p => Nat.ble s.lostCyc (Bank.at 0 s.bal.sec p) | none => false
    if safe || shareSafe then s2.balBypass k i pos 3
    else if Nat.ble s.lostCyc lost || secLost then s2.balBypass k i pos 4
    else if st = Cell.active && Nat.blt (s.get F.BAL_CTRL_MISS_HOLD) miss then
      let s3 := (s2.put (F.BAL_STKs_CELLi_STAT_STATE k i) Cell.stale).put (F.BAL_STKs_CELLi_STAT_RANK k i) 0xFF
      s3.balRaise { code := 0x0801, cls := 1, scope := .position pos, kind := 6, inst := pos }
    else if st = Cell.stale && ok then s2.put (F.BAL_STKs_CELLi_STAT_STATE k i) Cell.active
    else s2

/-- The request ends with STATE and ERR (R280); the cause of a request refused meanwhile stays (R289). -/
def State.balReqEnd (s : State) (state err : Nat) : State :=
  let keep := err == 0 && s.get F.BAL_REQ_STAT_ERR == 2
  let s1 := (s.put F.BAL_REQ_STAT_STATE state).put F.BAL_REQ_STAT_ERR (if keep then 2 else err)
  { s1 with bal := { s1.bal with req := none } }

/-- The HEAD's view of a node for cause 5 of R280: admitted, in FULL, time-locked, no open fault of FC3 or above. -/
def State.nodeReady (s : State) (pos : Nat) (locked : Bool) : Bool :=
  let m := s.member pos
  let clean := match s.statusItem pos with | some w => Nat.blt (bits w.toNat 4 3) 3 | none => true
  m.adm == 2 && m.stage == Stage.full && locked && clean

/-- The run after a rejoin request takes its BYPASSED cell to JOINING, its counts starting anew (R269, R585). -/
def State.balJoin (s : State) : State :=
  match s.bal.req with
  | none => s
  | some r =>
    if r.op != 2 || r.joined then s
    else
      let s1 := { s with bal := { s.bal with req := some { r with joined := true } } }
      match s.cellAt r.pos with
      | some (k, i) =>
        if s.cellState k i == Cell.bypassed then
          let a := (s1.put (F.BAL_STKs_CELLi_STAT_STATE k i) Cell.joining).put (F.BAL_STKs_CELLi_STAT_MISS k i) 0
          a.setBalCell k i {}
        else s1
      | none => s1

/-- The pending request in the run for boundary b (R269, R280): the cell that enters the switching set in it. -/
def State.balRequestRun (s : State) (b : Word) (locked : Bool) : State × Option (Nat × Nat) :=
  match s.bal.req with
  | none => (s, none)
  | some r =>
    match s.cellAt r.pos with
    | none => (s.balReqEnd 3 3, none)
    | some (k, i) =>
      if !scnAtOrAfter b r.bound then (s, none)
      else if r.op == 1 then
        if s.cellSwitches k i then
          (if Nat.blt ((s.switching k).length - 1) (s.get (F.BAL_STKs_CFG_N_MIN k)) then (s.balReqEnd 3 4, none)
           else ((s.balBypass k i r.pos 1).balReqEnd 2 0, none))
        else (s.balReqEnd 2 0, none)
      else if s.cellState k i == Cell.joining then
        if s.nodeReady r.pos locked then
          (let held := (s.balCell k i).v.isSome && s.get (F.BAL_STKs_CELLi_STAT_MISS k i) == 0
           ((s.balEnter k i held).balReqEnd 2 0, some (k, i)))
        else ((s.put (F.BAL_STKs_CELLi_STAT_STATE k i) Cell.bypassed).balReqEnd 3 5, none)
      else (s.balReqEnd 3 5, none)

/-- A value of the HEAD's slot n, and the last valid one where it is missing, NaN or infinite (R273). -/
def State.balSlot (s : State) (n : Nat) (last : Word) : Word :=
  if Nat.blt n 768 && finW (s.num (R.CE_SLOTn_U n)) then s.rd (R.CE_SLOTn_U n) else last

def f32OfNat (n : Nat) : Nat := f32.ofFrac (Frac.ofNat n)

/-- e = ½CV² of an ACTIVE cell (R271). -/
def State.energy (s : State) (k i : Nat) : Nat :=
  let v := ((s.balCell k i).v.getD 0).toNat
  f32.mul (f32.mul (f32.mul (f32.ofFrac (Frac.mk' 1 2)) (s.num (R.BAL_STKs_CELLi_CAP k i))) v) v

/-- The rank of a cell among the active ones: those of higher energy, and equal ones of lower index, come first. -/
def rankOf (es : List (Nat × Nat)) (i e : Nat) : Nat :=
  (es.filter fun x => f32.blt e x.2 || f32.feq e x.2 && Nat.blt x.1 i).length

/-- Move a Q0.32 phase or shift towards its target; a distance of a half counts as positive (R276, R277). -/
def slewPhase (step phi target : Nat) : Nat :=
  let d0 := sgn 32 ((target + 2 ^ 32 - phi % 2 ^ 32) % 2 ^ 32)
  let d := if d0 = -(2 ^ 31 : Int) then (2 ^ 31 : Int) else d0
  if d.natAbs ≤ step then target else unsgn 32 ((phi : Int) + (if 0 < d then (step : Int) else -(step : Int)))

/-- The target phase of the switching cell of order j (R275). -/
def State.phaseTarget (s : State) (k j nact : Nat) : Nat := (s.num (R.BAL_STKs_PHI0 k) + j * 2 ^ 32 / nact) % 2 ^ 32

/-- Modulation, trim and deviation of a switching cell (R273): deviation, trim, command, and whether the clamp acted. -/
def State.modulation (s : State) (k i : Nat) (lowe : Bool) (e mean nrk nact rank : Nat) (neg : Bool) (m : Nat) :
    Nat × Nat × Nat × Bool :=
  let lim := s.num (R.BAL_STKs_TRIM_MAX k)
  let one := f32.one
  let g := f32.div (f32OfNat (s.get (F.BAL_STKs_CFG_N_REF k))) (f32OfNat nact)
  let (dev, t, sat) :=
    if s.cellState k i == Cell.active && !lowe then
      (let dev := f32.div (f32.sub e mean) mean
       let ramp := if nrk = 1 then 0
         else f32.div (f32.ofFrac (Frac.ofInt ((nrk : Int) - 1 - 2 * rank))) (f32OfNat (nrk - 1))
       let t := f32.fma (s.num (R.BAL_STKs_KR k)) ramp (f32.mul (s.num (R.BAL_STKs_KP k)) dev)
       let t := if neg then t else f32.neg t
       let c := fmin (fmax t (f32.neg lim)) lim
       (dev, c, f32.blt t (f32.neg lim) || f32.blt lim t))
    else (0, 0, false)
  let mod := f32.mul (f32.mul m g) (f32.add one t)
  (dev, t, fmin (fmax mod (f32.neg one)) one, sat)

/-- The target shift of R277, rounded into a signed Q0.32 fraction. -/
def State.shiftTarget (s : State) (k dev d : Nat) : Int :=
  let lim := s.num (R.BAL_STKs_DAB_MAX k)
  let x := fmin (fmax (f32.fma (s.num (R.BAL_STKs_KD k)) dev d) (f32.neg lim)) lim
  ((f32.frac x).shl 32).round

/-- The energies of the ranked cells, by cell (R271). -/
def State.energies (s : State) (k : Nat) : List (Nat × Nat) := (s.ranked k).map fun i => (i, s.energy k i)

/-- RANK and ENERGY of the cells of stack k (R271, R272). -/
def State.balRanks (s : State) (k : Nat) (es : List (Nat × Nat)) : State :=
  let s1 := (s.balCells k).foldl (fun s c => s.put (F.BAL_STKs_CELLi_STAT_RANK k c.1)
    (match es.find? fun e => e.1 == c.1 with | some e => rankOf es c.1 e.2 | none => 0xFF)) s
  es.foldl (fun s e => s.wrN (R.BAL_STKs_CELLi_ENERGY k e.1) e.2) s1

/-- The held sign of the stack's power (R273). -/
def State.balSigma (s : State) (k : Nat) : State :=
  let n := s.get (F.BAL_STKs_SRC_PSLOT k)
  let pu := if n < 768 then s.num (R.CE_SLOTn_U n) else f32.nanW
  let pdb := s.num (R.BAL_STKs_PDB k)
  if f32.blt pdb pu then s.setFlag (F.BAL_STKs_STAT_SIGMA k) false
  else if f32.blt pu (f32.neg pdb) then s.setFlag (F.BAL_STKs_STAT_SIGMA k) true else s

/-- What a run fixes for every cell of a stack: the mean energy, whether it is low, the numbers of ranked and of switching
cells, the sign, m_s and the shift. -/
structure BalRun where
  mean : Nat
  lowe : Bool
  nrk : Nat
  nact : Nat
  neg : Bool
  m : Word
  d : Word
  deriving DecidableEq, Repr

/-- TRIM, MOD, PH and DAB of cell i, the j-th of the switching set (R274 to R278); whether its trim was clamped, and whether
its phase still moves. -/
def State.balOne (s : State) (k : Nat) (r : BalRun) (fresh : List Nat) (es : List (Nat × Nat)) (j i : Nat) :
    State × Bool × Bool :=
  let e := match es.find? fun e => e.1 == i with | some e => e.2 | none => 0
  let pr := s.modulation k i r.lowe e r.mean r.nrk r.nact (s.get (F.BAL_STKs_CELLi_STAT_RANK k i)) r.neg r.m.toNat
  let tgt := s.phaseTarget k j r.nact
  let isNew := fresh.contains i
  let step := s.get (F.BAL_STKs_SLEW_PH_SLEW k) * 2 ^ 16
  let dstep := s.get (F.BAL_STKs_SLEW_DAB_SLEW k) * 2 ^ 16
  let phi := if isNew then tgt else slewPhase step (s.num (R.BAL_STKs_CELLi_PH k i)) tgt
  let dt := s.shiftTarget k pr.1 r.d.toNat
  let dq := if isNew then unsgn 32 dt else slewPhase dstep (s.num (R.BAL_STKs_CELLi_DAB k i)) (unsgn 32 dt)
  let a := (s.wrN (R.BAL_STKs_CELLi_TRIM k i) pr.2.1).wrN (R.BAL_STKs_CELLi_MOD k i) pr.2.2.1
  ((a.wrN (R.BAL_STKs_CELLi_PH k i) phi).wrN (R.BAL_STKs_CELLi_DAB k i) dq, pr.2.2.2, phi != tgt)

/-- Every cell of the switching set, in its order (R274). -/
def State.balEach (s : State) (k : Nat) (r : BalRun) (fresh : List Nat) (es : List (Nat × Nat)) : State × Bool × Bool :=
  ((List.range r.nact).zip (s.switching k)).foldl (fun (acc : State × Bool × Bool) ji =>
    let pr := acc.1.balOne k r fresh es ji.1 ji.2
    (pr.1, acc.2.1 || pr.2.1, acc.2.2 || pr.2.2)) (s, false, false)

/-- The stack's own registers after a run, with its faults (R275, R278, R289): `s` is the state before the run. -/
def State.balFinish (s1 s : State) (k : Nat) (r : BalRun) (sat resp : Bool) : State :=
  let wasLowe := s.flag (F.BAL_STKs_STAT_LOWE k) && Nat.ble 1 (s.get (F.BAL_STKs_STAT_N_ACT k))
  let low := s.isPrimary && Nat.blt r.nact (s.get (F.BAL_STKs_CFG_N_MIN k))
  let run := if sat then (s.balStk k).satRun + 1 else 0
  let s5 := s1.setBalStk k { m := r.m, d := r.d, satRun := run, low := low }
  let s6 := (s5.wrN (R.BAL_STKs_MEAN k) r.mean).setFlag (F.BAL_STKs_STAT_LOWE k) r.lowe
  let s7 := (s6.setFlag (F.BAL_STKs_STAT_TRIM_SAT k) sat).setFlag (F.BAL_STKs_STAT_RESPACE k) resp
  let s8 := (s7.put (F.BAL_STKs_STAT_N_RK k) r.nrk).put (F.BAL_STKs_STAT_N_ACT k) r.nact
  let s9 := s8.put (F.BAL_STKs_STAT_N_BYP k) ((s.balCells k).filter fun c =>
    s.cellState k c.1 == Cell.bypassed || s.cellState k c.1 == Cell.joining).length
  let s10 := if run = 64 then s9.balRaise { code := 0x0804, cls := 0, scope := .stack k } else s9
  let s11 := if r.lowe && !wasLowe && Nat.ble 1 r.nact && s.stage == Stage.full then
      s10.balRaise { code := 0x0805, cls := 1, scope := .stack k } else s10
  if low && !(s.balStk k).low then
    s11.balRaise { code := 0x0803, cls := 4, scope := .stack k }
  else s11

/-- Balance stack k: `fresh` are its cells that enter the switching set in this run (R271 to R278). -/
def State.balStack (s : State) (k : Nat) (fresh : List Nat) : State :=
  let es := s.energies k
  let sum := es.foldl (fun a e => f32.add a e.2) 0
  let nrk := (s.ranked k).length
  let mean := if nrk = 0 then 0 else f32.div sum (f32OfNat nrk)
  let lowe := nrk == 0 || !finW mean || f32.blt mean f32.one
  let s3 := (s.balRanks k es).balSigma k
  let st := s.balStk k
  let r : BalRun := ⟨mean, lowe, nrk, (s.switching k).length, s3.flag (F.BAL_STKs_STAT_SIGMA k),
    s.balSlot (s.get (F.BAL_STKs_SRC_MSLOT k)) st.m, s.balSlot (s.get (F.BAL_STKs_SRC_DSLOT k)) st.d⟩
  let pr := s3.balEach k r fresh es
  State.balFinish pr.1 s k r pr.2.1 pr.2.2

/-- The command items of the cells of a stack (R284): index and value. -/
def State.balCellItems (s : State) (k : Nat) : List (Nat × Word) :=
  let nact := s.get (F.BAL_STKs_STAT_N_ACT k)
  (s.balCells k).foldl (fun l c =>
    let i := c.1
    let base := 0xF800 + 4 * c.2
    let phP := s.get (F.BAL_STKs_CELLi_CFG_DPH0 k i) * 2 ^ 18
    let byp := s.cellState k i == Cell.bypassed || s.cellState k i == Cell.joining
    let word := b2n byp + 2 * b2n (s.cellSwitches k i) + s.get (F.BAL_STKs_CELLi_STAT_RANK k i) * 256 + nact * 65536
    l ++ [(base, s.rd (R.BAL_STKs_CELLi_MOD k i)), (base + 1, s.rd (R.BAL_STKs_CELLi_PH k i)),
          (base + 2, BitVec.ofNat 32 phP), (base + 3, BitVec.ofNat 32 word)]) []

/-- The command items of a SECONDARY node (R278, R284): the cells it serves, share by share. -/
def State.balSecItems (s : State) (ks : List Nat) (pos : Nat) : List (Nat × Word) :=
  let base := 0xF800 + 4 * pos
  let served := ks.foldl (fun l k => l ++ ((s.balCells k).filterMap fun c =>
    if s.servedBy k c.1 == some pos then some (k, c.1) else none)) []
  let one := fun (p : List (Nat × Word) × Nat) (ki : Nat × Nat) =>
    let k := ki.1
    let i := ki.2
    let j := s.get (F.BAL_STKs_CELLi_CFG_SHARE k i)
    let phP : Int := (s.get (F.BAL_STKs_CELLi_CFG_DPH0 k i) * 2 ^ 18 : Nat)
    let phS := unsgn 32 (phP - sgn 32 (s.num (R.BAL_STKs_CELLi_DAB k i)))
    (p.1 ++ [(base + j, BitVec.ofNat 32 phS)], p.2 + b2n (s.cellSwitches k i) * 2 ^ j)
  let pr := served.foldl one ([], 0)
  let l := pr.1
  let w := pr.2
  if served.isEmpty then [] else l ++ [(base + 3, BitVec.ofNat 32 w)]

/-- The stacks the balancer balances. -/
def State.balStacks (s : State) : List Nat := (List.range 3).filter fun k => s.flag (F.BAL_STKs_CFG_EN k)

/-- The cells at the full-service boundary, with the voltages of the cycle that ends (R269, R272, R585); `unlocked` are the
positions not time-locked. -/
def State.balFull (s : State) (unlocked : List Nat) : State :=
  if !(s.isPrimary || s.isStandby) || !s.flag F.BAL_CTRL_EN then s
  else
    let one := fun (s : State) (k : Nat) =>
      let a := ((s.setFlag (F.BAL_STKs_STAT_SIGMA k) false).setFlag (F.BAL_STKs_STAT_LOWE k) false).setBalStk k
        { s.balStk k with satRun := 0, low := false }
      let b := (a.balCells k).foldl (fun s c =>
        let i := c.1
        let pos := c.2
        let z := (s.put (F.BAL_STKs_CELLi_STAT_MISS k i) 0).put (F.BAL_STKs_CELLi_STAT_RANK k i) 0xFF
        let vb := z.uplink pos (z.get (F.BAL_STKs_VDC_ITEM_ITEM k))
        let z := z.setBalCell k i { v := if (vb.map fun v => finW v.toNat) == some true then vb else none }
        if (z.member pos).adm == 2 && !unlocked.contains pos then z.balEnter k i (z.balCell k i).v.isSome
        else z.balBypass k i pos 2) a
      let sw := b.switching k
      let c := ((List.range sw.length).zip sw).foldl (fun s ji =>
        s.wrN (R.BAL_STKs_CELLi_PH k ji.2) (s.phaseTarget k ji.1 sw.length)) b
      let d := (c.put (F.BAL_STKs_STAT_N_ACT k) sw.length).put (F.BAL_STKs_STAT_N_RK k) (c.ranked k).length
      d.put (F.BAL_STKs_STAT_N_BYP k) ((c.balCells k).length - sw.length)
    let s1 := s.balStacks.foldl one s
    { s1 with bal := { s1.bal with started := true, first := true, items := [], sec := [] } }

/-- The run commits (R286): its state changes, its registers and its items for the next boundary. -/
def State.balancerCommit (s : State) (locked : Bool) : State :=
  if !s.flag F.BAL_STAT_BUSY then s
  else
    let run := Nat.min ((s.sys.up - s.bal.trig) / 4) 0xFFFF
    let s1 := (s.put F.BAL_RUN_LAST run).put F.BAL_RUN_MAX (Nat.max run (s.get F.BAL_RUN_MAX))
    let s2 := (s1.setFlag F.BAL_STAT_BUSY false).put F.BAL_STAT_CONSEC 0
    let first := s2.bal.first
    let s3 := { s2 with bal := { s2.bal with done := true, first := false } }
    if !s3.bal.started then s3
    else
      let b := s3.scn + 1
      let s4 := s3.balSecs.balJoin
      let s5 := s4.balStacks.foldl (fun s k => (s.balCells k).foldl (fun s c => s.balInput k c.1 c.2) s) s4
      let pr := s5.balRequestRun b locked
      let s6 := pr.1
      let new := pr.2
      let freshOf := fun (k : Nat) =>
        if first then s6.switching k
        else match new with | some (k', i) => if k' = k then [i] else [] | none => []
      let s7 := (s6.balStacks.foldl (fun s k => s.balStack k (freshOf k)) s6).raiseDue
      let secs := (s7.img.image.table.filter fun e => e.role == 3).map (·.pos.toNat)
      let items := s7.balStacks.foldl (fun l k => l ++ s7.balCellItems k) [] ++
        secs.foldl (fun l p => l ++ s7.balSecItems s7.balStacks p) []
      let s8 := { s7 with bal := { s7.bal with items := items } }
      if s8.isPrimary then items.foldl (fun s it => s.outItem it.1 it.2) s8 else s8

/-- At T_DN a run that has not committed: the previous items again, and the previous state kept (R287). -/
def State.balLate (s : State) : State :=
  if s.isPrimary && s.flag F.BAL_CTRL_EN && s.bal.started && !s.bal.done && s.stage == Stage.full then
    let s1 := s.bal.items.foldl (fun s it => s.outItem it.1 it.2) s
    let n := s1.get F.BAL_STAT_CONSEC + 1
    let s2 := (s1.setFlag F.BAL_STAT_LATE true).put F.BAL_STAT_CONSEC (Nat.min n 15)
    let s3 := s2.setFlag F.BAL_STAT_BUSY false
    let s4 := if n = 4 then s3.raise { code := 0x0807, cls := 3, scope := .node } else s3
    s4.raise { code := 0x0806, cls := 0, scope := .node }
  else s

/-- A request for boundary b (R280, R281). -/
def State.balPlace (s : State) (op pos : Nat) (b : Word) : State :=
  let cell := s.cellAt pos
  let below := match cell with
    | some (k, i) => s.cellSwitches k i && Nat.blt ((s.switching k).length - 1) (s.get (F.BAL_STKs_CFG_N_MIN k))
    | none => false
  let already := match cell with
    | some (k, i) => s.cellState k i == Cell.bypassed || s.cellState k i == Cell.joining
    | none => false
  let err :=
    if !scnLater b (s.scn + 1) then 1
    else if s.bal.req.isSome then 2
    else if cell.isNone then 3
    else if op = 1 && below then 4
    else if op = 1 && already then 6
    else if op != 1 && op != 2 then 7
    else 0
  let s1 := s.put F.BAL_REQ_STAT_ERR err
  if err = 0 then
    let s2 := s1.put F.BAL_REQ_STAT_STATE 1
    { s2 with bal := { s2.bal with req := some { op := op, pos := pos, bound := b, joined := false } } }
  else if err = 2 then s1
  else s1.put F.BAL_REQ_STAT_STATE 3

/-- A write of BAL_REQ (R280). -/
def State.balReqWrite (s : State) (v : Nat) : State :=
  let s1 := ((s.put F.BAL_REQ_NEXT (bits v 30 1)).put F.BAL_REQ_OP (bits v 28 2)).put F.BAL_REQ_POS (bits v 0 8)
  if bit v 31 then s1.balPlace (bits v 28 2) (bits v 0 8) (if bit v 30 then s1.scn + 2 else s1.rd R.BAL_REQ_SCN)
  else s1

/-- Write a Q0.32 phase to the phase shadow of channel n (R285). -/
def State.balPhase (s : State) (n : Nat) (phi : Nat) : State :=
  s.shadowWrite n .ph (BitVec.ofNat 32 (phi * s.num (R.PWM_LCHn_PER_ACT n) / 2 ^ 32))

/-- The member's BAL block at a boundary (R285). -/
def State.balMember (s : State) : State :=
  let base := 0xF800 + 4 * s.pos
  let item := fun (k : Nat) => s.commandInForce s.obeyed (base + k)
  let place := fun (s : State) (k : Nat) (chans : List Nat) =>
    match item k with
    | some v => (chans.foldl (fun s n => s.balPhase n v.toNat) s).wr (R.BAL_MBR_PH k) v
    | none => s
  if !s.flag F.BAL_MBR_CTRL_EN then s
  else match item 3 with
  | none => s
  | some w =>
    let s1 := s.wr R.BAL_MBR_STAT w
    match s.role with
    | .cell =>
      let byp := w.getLsbD 0
      let run := w.getLsbD 1
      if s.flag F.FLT_STAT_NODE_SAFE then ({ s1 with bal := { s1.bal with byp := s1.bal.byp || byp, legs := 0 } }).legRefresh
      else if s.parBake then ({ s1 with bal := { s1.bal with byp := s1.bal.byp && byp, legs := 0 } }).legRefresh
      else
        let s2 := ({ s1 with bal := { s1.bal with byp := byp, legs := if run && !byp then 0xF else 0 } }).legRefresh
        if run then place (place s2 1 [0, 1]) 2 [2, 3] else s2
    | .secondary =>
      if s.parBake then ({ s1 with bal := { s1.bal with legs := 0 } }).legRefresh
      else
        let legs := (List.range 3).foldl (fun m j => if w.getLsbD j then m ||| 3 <<< (2 * j) else m) 0
        let s2 := ({ s1 with bal := { s1.bal with legs := legs } }).legRefresh
        (List.range 3).foldl (fun s j => if w.getLsbD j then place s j [2 * j, 2 * j + 1] else s) s2
    | _ => s

/-! ### The commands -/

/-- `locked`: the node of the pending rejoin is time-locked, as the HEAD knows it (R280). -/
def execBalancerCommit (locked : Bool) (s : State) : Host.Outcome State Fault Refusal :=
  .next (s.live fun s => s.balancerCommit locked)

/-- BAL_REQ with OP = 1, GO = 1 (R280). -/
def execBypassRequest (next : Bool) (pos : BitVec 8) (s : State) : Host.Outcome State Fault Refusal :=
  .next (s.live fun s => s.when s.isHead fun s =>
    s.balReqWrite (0x90000000 + (b2n next) * 0x40000000 + pos.toNat))

/-- BAL_REQ with OP = 2, GO = 1 (R280). -/
def execRejoinRequest (next : Bool) (pos : BitVec 8) (s : State) : Host.Outcome State Fault Refusal :=
  .next (s.live fun s => s.when s.isHead fun s =>
    s.balReqWrite (0xA0000000 + (b2n next) * 0x40000000 + pos.toNat))

end Sys2Proof.Machine
end

