-- ==== Sys2Proof/Machine/GateDrive.lean ====
section
/-! DEFINITION. Machine/GateDrive.lean: gate drive and switch protection (R318 to R348): the channel states of R334,
L1 and L2 faults with their tries, the bypass leg, the supply monitors, the self-test and the derating outputs.
Marked choices: log entry 1 (DESIGN CHOICE); log entry 21 (DEDUCED). -/
namespace Sys2Proof.Machine

namespace GdState
def idle : Nat := 0
def normal : Nat := 1
def softoff : Nat := 2
def wait : Nat := 3
def escal : Nat := 4
def charge : Nat := 5
end GdState

/-- 10 µs in base ticks (R345). -/
def pubTicks : Nat := 15625

/-- Channel number: 2·leg, plus 1 for the high side. -/
def chanNo (n : Nat) (sw : Sw) : Nat := 2 * n + swNum sw

/-- Instance of a channel's raises: KIND 1, leg and switch (R462). -/
def chanInst (n : Nat) (sw : Sw) : Nat := n + 8 * swNum sw

def otherSw : Sw → Sw
  | .low => .high
  | .high => .low

def stateFld (n : Nat) : Sw → Fld
  | .low => F.GD_LEGn_STAT_LS_STATE n
  | .high => F.GD_LEGn_STAT_HS_STATE n

def scEnFld (n : Nat) : Sw → Fld
  | .low => F.GD_LEGn_SC_LS_SC_EN n
  | .high => F.GD_LEGn_SC_HS_SC_EN n

def scFlagFld (n : Nat) : Sw → Fld
  | .low => F.GD_LEGn_STAT_SC_LS n
  | .high => F.GD_LEGn_STAT_SC_HS n

def l1CntFld (n : Nat) : Sw → Fld
  | .low => F.GD_LEGn_CNT_L1_LS n
  | .high => F.GD_LEGn_CNT_L1_HS n

def State.gdState (s : State) (n : Nat) (sw : Sw) : Nat := s.get (stateFld n sw)

/-- The lattice commands the switch on. -/
def State.swCmd (s : State) (n : Nat) (sw : Sw) : Bool :=
  match sw with
  | .low => (s.leg n).lo
  | .high => (s.leg n).hi

/-- A channel enters a state: GD_STAT.HOLD and the gates follow (R334). -/
def State.setGd (s : State) (n : Nat) (sw : Sw) (st : Nat) : State :=
  let c := 2 * n + swNum sw
  let s1 := (s.put (stateFld n sw) st).setGate c { s.gate c with since := s.sys.up }
  let held := fun (x : Nat) => x == GdState.softoff || x == GdState.wait || x == GdState.escal
  let h := held (s1.gdState n .low) || held (s1.gdState n .high)
  let s2 := s1.put F.GD_STAT_HOLD (setBit (s1.get F.GD_STAT_HOLD) n h)
  s2.gateRefresh n

def State.modGate (s : State) (n : Nat) (sw : Sw) (f : GateSt → GateSt) : State :=
  s.setGate (chanNo n sw) (f (s.gate (chanNo n sw)))

/-- The channel passes only the next turn-on edge when its command is on now (R335). -/
def State.waitEdge (s : State) (n : Nat) (sw : Sw) : State :=
  let c := s.swCmd n sw
  s.modGate n sw fun g => { g with needEdge := g.needEdge || c }

/-- The leg is enabled and this node drives it (R325). -/
def State.gdOn (s : State) (n : Nat) (sw : Sw) : Bool :=
  s.flag (F.GD_LEGn_CFG_EN n) && !s.isHead && s.gdState n sw != GdState.idle

/-- The trickle pump of every enabled leg runs while VDRV is above its undervoltage threshold (R327). -/
def State.pumps (s : State) : State :=
  forUpTo 6 (fun n s => s.setGateLeg n { s.gateLeg n with pump := s.gdOn n .low && !s.flag F.GD_STAT_VDRV_UV }) s

/-- INJ_PER in base ticks (R344). -/
def State.injPer (s : State) : Nat := msTicks (100 * s.get F.GD_CTRL_INJ_PER)

/-- Every enabled leg leaves IDLE at binding (R325, R328, R334); on a bypass leg the charge time-out runs from now (R343). -/
def State.gdBind (s : State) : State :=
  if s.isHead then s
  else
    let due := s.sys.up + s.injPer
    let one := fun (n : Nat) (s : State) => s.when (s.flag (F.GD_LEGn_CFG_EN n)) fun s =>
      let a := (s.setGd n .low GdState.normal).setGd n .high GdState.charge
      let b := (a.modGate n .low fun g => { g with injAt := due }).modGate n .high fun g => { g with injAt := due }
      b.setGateLeg n { b.gateLeg n with runAt := if b.bypassLeg n then some b.sys.up else none }
    let s1 := (forUpTo 6 one s).pumps
    { s1 with gd := { s1.gd with pubAt := s1.sys.up + pubTicks } }

def State.gdWin (s : State) : Nat := msTicks (s.get F.GD_CTRL_WIN)

/-- Faults within the preceding window (R336, R341). -/
def recent (now win : Nat) (ts : List Nat) : List Nat := ts.filter (fun t => Nat.ble now (t + win))

/-- A cause that keeps the channel from returning to NORMAL (R335). -/
def GateSt.persists (g : GateSt) : Bool := g.uvBs || g.uvVdrv || g.uvVneg

/-- Count an L1 fault (R336): FC2 scoped L1 unless it escalates; the answer says whether it does. -/
def State.l1Count (s : State) (n : Nat) (sw : Sw) (code tag : Nat) : State × Bool :=
  let g := s.gate (chanNo n sw)
  let ts := recent s.sys.up s.gdWin g.l1
  let esc := Nat.ble (s.get (F.GD_LEGn_CFG_L1_TRIES n)) ts.length
  let s1 := s.setGate (chanNo n sw) { g with l1 := s.sys.up :: ts }
  let s2 := s1.bump (l1CntFld n sw)
  if esc then (s2, true)
  else (s2.raiseLater { code := code, cls := 2, scope := .switch n sw, kind := 1, inst := chanInst n sw, ended := false,
                        tag := tag }, false)

/-- A channel enters ESCAL with its FC3 (R336). -/
def State.escalate (s : State) (n : Nat) (sw : Sw) : State :=
  let s1 := s.setGd n sw GdState.escal
  let s2 := s1.setFlag (F.GD_LEGn_STAT_ESC n) true
  let s3 := s2.bump (F.GD_LEGn_CNT_ESC n)
  s3.raiseLater { code := 0x0A04, cls := 3, scope := .cellOfLeg n, kind := 1, inst := chanInst n sw,
                  ended := !(s.gate (chanNo n sw)).persists }

/-- An L1 fault other than a short circuit (R334, R336, R342): counted in every state; NORMAL and CHARGE go to WAIT. -/
def State.l1Fault (s : State) (n : Nat) (sw : Sw) (code tag : Nat) : State :=
  let st := s.gdState n sw
  let pr := s.l1Count n sw code tag
  let s1 := pr.1
  let esc := pr.2
  if st = GdState.softoff then
    (if esc then s1.modGate n sw fun g => { g with escalate := true } else s1)
  else if st = GdState.escal then s1
  else if esc then s1.escalate n sw
  else s1.setGd n sw GdState.wait

/-- An undervoltage or a charge time-out on a bypass leg: FC3 scoped L4, and the channels keep their states (R343). -/
def State.bypassUv (s : State) (n : Nat) (sw : Sw) (tag : Nat) : State :=
  s.raiseLater { code := 0x0A08, cls := 3, scope := .cellOfLeg n, kind := 1, inst := chanInst n sw, ended := false, tag := tag }

/-- Set an L2 latch with its cause; count it, and raise FC2 scoped L2 or escalate (R340, R341). -/
def State.l2Fault (s : State) (n cause : Nat) (flag : Fld) : State :=
  let gl := s.gateLeg n
  let ts := recent s.sys.up s.gdWin gl.l2
  let esc := Nat.ble (s.get (F.GD_LEGn_CFG_L2_TRIES n)) ts.length
  let s1 := s.setGateLeg n { gl with l2 := s.sys.up :: ts, l2At := s.sys.up }
  let s2 := s1.setFlag flag true
  let s3 := s2.setFlag (F.GD_LEGn_STAT_L2_LATCH n) true
  let s4 := s3.put (F.GD_LEGn_STAT_L2_CAUSE n) cause
  let s5 := s4.put F.GD_STAT_L2 (setBit (s4.get F.GD_STAT_L2) n true)
  let s6 := (s5.bump (F.GD_LEGn_CNT_L2 n)).gateRefresh n
  let ended := s6.l2Ended n
  if esc then
    let toEscal := fun (sw : Sw) (s : State) =>
      if s.gdState n sw = GdState.softoff then s.modGate n sw fun g => { g with l2esc := true }
      else if s.gdState n sw = GdState.idle then s
      else s.setGd n sw GdState.escal
    let s7 := toEscal .high (toEscal .low s6)
    let s8 := s7.setFlag (F.GD_LEGn_STAT_ESC n) true
    let s9 := s8.bump (F.GD_LEGn_CNT_ESC n)
    s9.raise { code := 0x0A06, cls := 3, scope := .cellOfLeg n, kind := 1, inst := n, ended := ended }
  else s6.raise { code := 0x0A05, cls := 2, scope := .leg n, kind := 1, inst := n, ended := ended }

/-- SHOOT (R339): both channels make a soft turn-off and hold off under the L2 latch; a channel already in SOFTOFF has its
own L1 fault and goes on to WAIT (R342). -/
def State.shootLeg (s : State) (n : Nat) : State :=
  let soft := fun (sw : Sw) (s : State) =>
    if s.gdState n sw = GdState.normal then
      (s.modGate n sw fun g => { g with shoot := true }).setGd n sw GdState.softoff
    else s
  let s1 := soft .high (soft .low s)
  s1.l2Fault n 3 (F.GD_LEGn_STAT_SHOOT n)

/-- A short circuit is detected, at the end of the blanking at the earliest (R332, R333, R336, R339, R343). -/
def State.shortCircuit (s : State) (n : Nat) (sw : Sw) : State :=
  let on := (s.gate (chanNo n sw)).on
  if !s.gdOn n sw || !s.flag (scEnFld n sw) || !on || s.gdState n sw != GdState.normal then s
  else
  let blank := s.get (match sw with | .low => F.GD_LEGn_SC_LS_BLANK n | .high => F.GD_LEGn_SC_HS_BLANK n)
  let s := s.runAfter (s.gate (chanNo n sw)).cmdAt (blank * 20)
  if s.bypassLeg n then
    let s1 := s.setFlag (scFlagFld n sw) true
    s1.raise { code := 0x0A07, cls := 1, scope := .leg n, kind := 1, inst := chanInst n sw }
  else if s.gdState n (otherSw sw) = GdState.softoff then s.shootLeg n
  else
    let s1 := s.setFlag (scFlagFld n sw) true
    let s2 := s1.setGd n sw GdState.softoff
    let pr := s2.l1Count n sw 0x0A01 0
    let s3 := pr.1
    let esc := pr.2
    s3.modGate n sw fun g => { g with escalate := esc }

/-- The gate has reached the off level, SOFT × 0.25 µs after the soft turn-off began (R332, R335, R336, R339). -/
def State.softEnd (s : State) (n : Nat) (sw : Sw) : State :=
  if s.gdState n sw != GdState.softoff then s
  else
    let soft := s.get (match sw with | .low => F.GD_LEGn_SC_LS_SOFT n | .high => F.GD_LEGn_SC_HS_SOFT n)
    let s := s.runAfter (s.gate (chanNo n sw)).since (soft * 250)
    let g := s.gate (chanNo n sw)
    let s1 := s.setGate (chanNo n sw) { g with escalate := false, l2esc := false, shoot := false }
    let s2 := s1.endCause 0x0A01 (chanInst n sw)
    let s3 :=
      if g.escalate then s2.escalate n sw
      else if g.l2esc then s2.setGd n sw GdState.escal
      else if g.shoot && !g.persists then (s2.waitEdge n sw).setGd n sw GdState.normal
      else s2.setGd n sw GdState.wait
    if s3.get (F.GD_LEGn_STAT_L2_CAUSE n) = 3 && s3.l2Ended n then (s3.endCause 0x0A05 n).endCause 0x0A06 n else s3

/-- The block has released the switch: the channel's own FC2 raises are released (R472). -/
def State.releaseChan (s : State) (n : Nat) (sw : Sw) : State :=
  s.releaseOwn fun c => (c.code == 0x0A01 || c.code == 0x0A02 || c.code == 0x0A03) && c.inst == chanInst n sw

/-- The cause that persists: its code and tag (R335). -/
def GateSt.persistent (g : GateSt) : Nat × Nat :=
  if g.uvBs then (0x0A02, 0) else if g.uvVdrv then (0x0A03, 1) else (0x0A03, 2)

/-- The WAIT timer expires, WAIT × 10 µs after it started (R335). -/
def State.waitExpiry (s : State) (n : Nat) (sw : Sw) : State :=
  if s.gdState n sw != GdState.wait then s
  else
    let s := s.runAfter (s.gate (chanNo n sw)).since (s.get (F.GD_LEGn_CFG_WAIT n) * 10000)
    let g := s.gate (chanNo n sw)
    if g.persists then
      let pr := s.l1Count n sw g.persistent.1 g.persistent.2
      let s1 := pr.1
      let esc := pr.2
      if esc then s1.escalate n sw else s1.modGate n sw fun g => { g with since := s1.sys.up }
    else
      let s1 := (s.waitEdge n sw).setGd n sw GdState.normal
      s1.releaseChan n sw

/-- Bootstrap undervoltage of a high side outside CHARGE (R329, R343). -/
def State.bootUv (s : State) (n : Nat) : State :=
  if !s.gdOn n .high || s.gdState n .high = GdState.charge || (s.gate (chanNo n .high)).uvBs then s
  else
    let s1 := s.setFlag (F.GD_LEGn_STAT_UV_BS n) true
    let s2 := s1.modGate n .high fun g => { g with uvBs := true }
    if s2.bypassLeg n then s2.bypassUv n .high 0 else s2.l1Fault n .high 0x0A02 0

/-- The FC3 of an escalation has its cause ended once nothing of the channel persists. -/
def State.escEnd (s : State) (n : Nat) (sw : Sw) : State :=
  if (s.gate (chanNo n sw)).persists then s else s.endCause 0x0A04 (chanInst n sw)

/-- VB − VS reaches BS_UV + 0.5 V: CHARGE ends, and so does a bootstrap cause (R328, R329, R343). -/
def State.bootCharged (s : State) (n : Nat) : State :=
  if !s.gdOn n .high then s
  else
    let s1 := s.modGate n .high fun g => { g with uvBs := false }
    let s2 := (s1.endCause 0x0A02 (chanInst n .high)).endCause 0x0A08 (chanInst n .high)
    let s3 := s2.escEnd n .high
    if s3.gdState n .high = GdState.charge then s3.setGd n .high GdState.normal else s3

/-- The bootstrap was not charged within 10 ms of the leg's first RUN (R328, R343). -/
def State.chargeTimeout (s : State) (n : Nat) : State :=
  if !s.gdOn n .high || s.gdState n .high != GdState.charge || (s.gate (chanNo n .high)).uvBs then s
  else match (s.gateLeg n).runAt with
  | none => s
  | some t =>
    let s := s.runUp (t + msTicks 10)
    let s1 := s.setFlag (F.GD_LEGn_STAT_BS_TMO n) true
    let s2 := s1.modGate n .high fun g => { g with uvBs := true }
    if s2.bypassLeg n then s2.bypassUv n .high 0 else s2.l1Fault n .high 0x0A02 0

/-- VDRV (tag 1) or VNEG (tag 2) undervoltage: an L1 fault of every low side (R330, R343). -/
def State.supplyUv (s : State) (vneg : Bool) : State :=
  let any := (List.range 6).any fun n => s.gdOn n .low
  if !any || s.flag (if vneg then F.GD_STAT_VNEG_UV else F.GD_STAT_VDRV_UV) then s
  else
    let s1 := s.setFlag (if vneg then F.GD_STAT_VNEG_UV else F.GD_STAT_VDRV_UV) true
    let tag := if vneg then 2 else 1
    forUpTo 6 (fun n s =>
      if !s.gdOn n .low then s
      else
        let a := s.setFlag (if vneg then F.GD_LEGn_STAT_UV_VNEG n else F.GD_LEGn_STAT_UV_VDRV n) true
        let b := a.modGate n .low fun g =>
          { g with uvVdrv := g.uvVdrv || !vneg, uvVneg := g.uvVneg || vneg }
        if b.bypassLeg n then b.bypassUv n .low tag else b.l1Fault n .low 0x0A03 tag) s1.pumps

/-- The supply is back past its end level (R330). -/
def State.supplyEnd (s : State) (vneg : Bool) : State :=
  let s1 := s.setFlag (if vneg then F.GD_STAT_VNEG_UV else F.GD_STAT_VDRV_UV) false
  let tag := if vneg then 2 else 1
  forUpTo 6 (fun n s =>
    let b := s.modGate n .low fun g => { g with uvVdrv := g.uvVdrv && vneg, uvVneg := g.uvVneg && !vneg }
    let c := (b.endCause 0x0A03 (chanInst n .low) tag).endCause 0x0A08 (chanInst n .low) tag
    c.escEnd n .low) s1.pumps

/-- The leg checks its two channels (R337, R338): not on a bypass leg (R343). -/
def State.legChecked (s : State) (n : Nat) : Bool := s.gdOn n .low && !s.bypassLeg n

/-- INTERLOCK (R337): `first` is the switch that was already on; none when both turn-ons came within 0.5 ns. -/
def State.interlock (s : State) (n : Nat) (first : Option Sw) : State :=
  if !s.legChecked n then s
  else
    let ignore := fun (sw : Sw) (s : State) => s.modGate n sw fun g => { g with needEdge := true }
    let s1 := match first with
      | some sw => ignore (otherSw sw) s
      | none => ignore .high (ignore .low s)
    s1.l2Fault n 1 (F.GD_LEGn_STAT_INTLK n)

/-- DEADTIME (R338): the turn-on of `sw` is suppressed. -/
def State.deadtimeViol (s : State) (n : Nat) (sw : Sw) : State :=
  if !s.legChecked n || s.get (F.GD_LEGn_CFG_DT_CHK n) = 0 then s
  else
    let s1 := s.modGate n sw fun g => { g with needEdge := true }
    s1.l2Fault n 2 (F.GD_LEGn_STAT_DTV n)

/-- A sense-path self-test ends (R344): the comparator tripped after `trip` ns, or not at all, and the input stood at `mv` at
the end. It runs in an interval that began at least 1 µs ago; its result also enters the health report (R415). -/
def State.selfTest (s : State) (n : Nat) (sw : Sw) (trip : Option Nat) (mv : Nat) : State :=
  if !s.gdOn n sw || !s.flag F.GD_CTRL_INJ_EN || !s.flag (scEnFld n sw) || s.swCmd n sw then s
  else
    let k := chanNo n sw
    let g := s.gate k
    let s0 := (s.when (!g.inj) (·.runUp g.injAt)).runAfter g.cmdAt 1000
    let s1 := s0.modGate n sw fun g => { g with inj := false, injAt := s0.sys.up + s0.injPer }
    let quick := match trip with | some t => Nat.ble t 200 | none => false
    if quick && Nat.ble 200 mv && Nat.ble mv 2100 then { s1 with gd := { s1.gd with passed := setBit s1.gd.passed k true } }
    else
      let s2 := { s1 with gd := { s1.gd with failed := setBit s1.gd.failed k true } }
      let s3 := s2.setFlag (F.GD_LEGn_STAT_INJ_FAIL n) true
      s3.raise { code := 0x0A09, cls := 1, scope := .switch n sw, kind := 1, inst := chanInst n sw }

/-- GD_CMD.INJ_NOW (R344). -/
def State.injNow (s : State) : State :=
  if !s.flag F.GD_CTRL_INJ_EN then s
  else forUpTo 6 (fun n s =>
    let ask := fun (sw : Sw) (s : State) =>
      if s.gdOn n sw && s.flag (scEnFld n sw) then s.modGate n sw fun g => { g with inj := true } else s
    ask .high (ask .low s)) s

/-- A voltage in mV over a threshold in mV, in volts, as binary32. -/
def marginF32 (mv thr : Int) : Word := BitVec.ofNat 32 (f32.ofFrac (Frac.mk' (mv - thr) 1000))

/-- The margins and supply values of R345, R258 and R348, every 10 µs. -/
def State.gdPublish (s : State) (vdrv vneg : Nat) (vbs : List (BitVec 16)) : State :=
  let s := s.runUp s.gd.pubAt
  let s := { s with gd := { s.gd with pubAt := s.sys.up + pubTicks } }
  let bsUv : Nat := 10000 + 100 * s.get F.GD_SUPPLY_BS_UV
  let drvUv : Nat := 12000 + 100 * s.get F.GD_SUPPLY_VDRV_UV
  let s1 := (s.put F.GD_VDRV_VDRV vdrv).put F.GD_VDRV_VNEG vneg
  let s2 := forUpTo 6 (fun n s =>
    let en := s.gdOn n .low
    let mv := (vbs.getD n 0).toNat
    let a := s.setFlag (F.GD_LEGn_VBS_VALID n) en
    let b := a.put (F.GD_LEGn_VBS_MV n) (if en then mv else 0)
    b.setResult (1008 + n) (if en then some (marginF32 mv bsUv) else none)) s1
  s2.setResult 1014 (if s2.isHead then none else some (marginF32 vdrv drvUv))

/-- GD_CMD.CNT_CLR (R348). -/
def State.gdCntClr (s : State) : State := forUpTo 6 (fun n s => s.wr (R.GD_LEGn_CNT n) 0) s

/-- A channel leaves ESCAL once its FC3 is no longer ACTIVE (R336, R341). -/
def State.gdEscalRefresh (s : State) : State :=
  forUpTo 6 (fun n s =>
    let leave := fun (sw : Sw) (s : State) =>
      if s.gdState n sw = GdState.escal && !s.causeActive 0x0A04 (chanInst n sw) && !s.causeActive 0x0A06 n then
        let s1 := s.waitEdge n sw
        let s2 := s1.setGd n sw (match sw with | .low => GdState.normal | .high => GdState.charge)
        s2.releaseChan n sw
      else s
    leave .high (leave .low s)) s

/-! ### The commands -/

def execShortCircuit (leg : Fin 6) (sw : Sw) (s : State) : Host.Outcome State Fault Refusal :=
  .next (s.live fun s => (s.shortCircuit leg.val sw).raiseDue)

def execSoftTurnOffEnd (leg : Fin 6) (sw : Sw) (s : State) : Host.Outcome State Fault Refusal :=
  .next (s.live fun s => (s.softEnd leg.val sw).raiseDue)

def execWaitExpiry (leg : Fin 6) (sw : Sw) (s : State) : Host.Outcome State Fault Refusal :=
  .next (s.live fun s => (s.waitExpiry leg.val sw).raiseDue)

def execBootstrapUndervoltage (leg : Fin 6) (s : State) : Host.Outcome State Fault Refusal :=
  .next (s.live fun s => (s.bootUv leg.val).raiseDue)

def execBootstrapCharged (leg : Fin 6) (s : State) : Host.Outcome State Fault Refusal :=
  .next (s.live fun s => s.bootCharged leg.val)

def execChargeTimeout (leg : Fin 6) (s : State) : Host.Outcome State Fault Refusal :=
  .next (s.live fun s => (s.chargeTimeout leg.val).raiseDue)

def execVdrvUndervoltage (s : State) : Host.Outcome State Fault Refusal :=
  .next (s.live fun s => (s.supplyUv false).raiseDue)

def execVnegUndervoltage (s : State) : Host.Outcome State Fault Refusal :=
  .next (s.live fun s => (s.supplyUv true).raiseDue)

def execSupplyUvEnd (sup : Supply) (s : State) : Host.Outcome State Fault Refusal :=
  .next (s.live fun s => s.supplyEnd (sup == .vneg))

def execInterlock (leg : Fin 6) (first : Option Sw) (s : State) : Host.Outcome State Fault Refusal :=
  .next (s.live fun s => s.interlock leg.val first)

def execDeadtimeViolation (leg : Fin 6) (sw : Sw) (s : State) : Host.Outcome State Fault Refusal :=
  .next (s.live fun s => s.deadtimeViol leg.val sw)

/-- SHOOT needs both channels to detect, or one in soft turn-off (R339): both are checked for a short circuit, on a leg that
is checked and in service. -/
def execShoot (leg : Fin 6) (s : State) : Host.Outcome State Fault Refusal :=
  .next (s.live fun s => s.when (s.legChecked leg.val && s.flag (scEnFld leg.val .low) && s.flag (scEnFld leg.val .high))
    fun s => s.shootLeg leg.val)

def execSelfTest (leg : Fin 6) (sw : Sw) (trip : Option (BitVec 16)) (mv : BitVec 16) (s : State) :
    Host.Outcome State Fault Refusal :=
  .next (s.live fun s => s.selfTest leg.val sw (trip.map (·.toNat)) mv.toNat)

def execInjNow (s : State) : Host.Outcome State Fault Refusal :=
  .next (s.live fun s => s.injNow)

def execGdDeratingPublish (vdrv vneg : BitVec 16) (vbs : List (BitVec 16)) (s : State) :
    Host.Outcome State Fault Refusal :=
  .next (s.live fun s => s.gdPublish vdrv.toNat vneg.toNat vbs)

def execGdCntClr (s : State) : Host.Outcome State Fault Refusal :=
  .next (s.live fun s => s.gdCntClr)

end Sys2Proof.Machine
end

