-- ==== Sys2Proof/Machine/Lanes.lean ====
section
/-! DEFINITION. Machine/Lanes.lean: lanes and ports (R121 to R150): lane PLLs, the lane states of R135, blind start and
training, equalisation rows, eye monitors and CHILL. Port 4 is lane G, which has lane 0 only.
Marked choices: log entries 24, 30, 64 (DESIGN CHOICE); log entries 36, 68 (DEDUCED). -/
namespace Sys2Proof.Machine

namespace Lane
def off : Nat := 0
def chill : Nat := 1
def pllwait : Nat := 2
def cdr : Nat := 3
def frame : Nat := 4
def train : Nat := 5
def up : Nat := 6
end Lane

/-- The lanes of a port. -/
def lanesOf (p : Nat) : List Nat := if p = 4 then [0] else [0, 1]

/-- The ports of a lane PLL (R121). -/
def pllPorts (k : Nat) : List Nat := if k = 0 then [0, 1, 4] else [2, 3]

def portPll (p : Nat) : Nat := if p = 2 ∨ p = 3 then 1 else 0

/-- The state of the ring a port belongs to (R153); ports A and B are ring X, C and D ring Y. -/
def State.ringStateOf (s : State) (p : Nat) : Nat :=
  if p < 2 then s.get F.RNG_STAT_X_STATE else s.get F.RNG_STAT_Y_STATE

/-- The port carries ring traffic that is not folded at it: THRU, or folded at the other port (R146, R153). -/
def State.carries (s : State) (p : Nat) : Bool :=
  Nat.blt p 4 && s.flag (F.LNK_PORTx_STAT_UP p) &&
    (s.ringStateOf p == 1 || s.ringStateOf p == (if p % 2 = 0 then 3 else 2))

/-- The Glaze runs on this HEAD: a duplex pair past its listen window and not OUT (R396, R409). -/
def State.glazeRuns (s : State) : Bool :=
  s.duplex &&
    (s.dpxState == Dpx.primary || s.dpxState == Dpx.sync || s.dpxState == Dpx.standby)

def laneInst (p l : Nat) : Nat := p + 8 * l

/-- The port carries traffic that a loss of one of its lanes hits (R147): ring traffic, or the Glaze on lane G. -/
def State.laneServes (s : State) (p : Nat) : Bool := s.carries p || p == 4 && s.glazeRuns

/-- The port enters CDR: no lane of it is in FRAME or UP any more. From then on it is in PAM2 (R137, log entry 24). -/
def State.cdrMode (s : State) (p : Nat) : State :=
  s.when ((lanesOf p).all fun l => !Nat.ble Lane.frame (s.laneState p l)) (·.setFlag (F.LNK_PORTx_STAT_MODE p) false)

/-- A lane of port p changes state. Leaving UP is a fault while the port serves (`svc`, R147), and the node looks for its
upstream again (R198); TRAIN reads 0 once training has ended (R150). -/
def State.laneMove (svc : Bool) (s : State) (p l st : Nat) : State :=
  let was := s.laneState p l
  let s1 := s.laneEnter p l st
  let s2 := s1.when (was == Lane.train && st != Lane.train) (·.setFlag (F.LNK_PORTx_CTRL_TRAIN p) false)
  let s3 := s2.when (st == Lane.cdr) (·.cdrMode p)
  if was = Lane.up && st != Lane.up then
    (s3.when svc (·.raise { code := if p = 4 then 0x0302 else 0x0301, cls := 1, scope := .node, kind := 2,
                            inst := laneInst p l })).selectUp
  else s3

def State.laneTo (s : State) (p l st : Nat) : State := s.laneMove (s.laneServes p) p l st

/-- Every lane of a port changes state together. -/
def State.lanesTo (s : State) (p st : Nat) : State :=
  let svc := s.laneServes p
  (lanesOf p).foldl (fun s l => s.laneMove svc p l st) s

def pllLockFld (k : Nat) : Fld := if k = 0 then F.LNK_STAT_LPLL0_LOCK else F.LNK_STAT_LPLL1_LOCK
def pllOffFld (k : Nat) : Fld := if k = 0 then F.LNK_STAT_LPLL0_OFF else F.LNK_STAT_LPLL1_OFF
def pllBandFld (k : Nat) : Fld := if k = 0 then F.LNK_STAT_LPLL0_BAND else F.LNK_STAT_LPLL1_BAND

/-- A lane in PLLWAIT whose PLL is locked enters CDR (R135). -/
def State.laneStart (s : State) (p l : Nat) : State :=
  s.when (s.laneState p l == Lane.pllwait && s.flag (pllLockFld (portPll p))) (·.laneTo p l Lane.cdr)

/-- A lane PLL leaves lock: with the other one out of lock too, the 1 ms of R147 begins. -/
def State.pllOut (s : State) (k : Nat) : State :=
  let s1 := s.setFlag (pllLockFld k) false
  s1.when (s.flag (pllLockFld k) && !s.flag (pllLockFld (1 - k))) fun s => { s with lnk := { s.lnk with outAt := s.sys.up } }

/-- A lane PLL is off while every lane it serves is in CHILL (R135, R146). -/
def State.pllChill (s : State) (k : Nat) : State :=
  let all := (pllPorts k).all fun p => (lanesOf p).all fun l => s.laneState p l == Lane.chill
  if all then (s.setFlag (pllOffFld k) true).pllOut k
  else s.setFlag (pllOffFld k) false

/-- Boot stage LANES: every lane leaves OFF, and a lane PLL whose lanes are all in CHILL is off (R135). -/
def State.lanesBoot (s : State) : State :=
  let s1 := forUpTo 5 (fun p s => (lanesOf p).foldl (fun s l =>
    if s.laneState p l != Lane.off then s
    else if s.flag (F.LNK_PORTx_CTRL_CHILL p) then s.laneTo p l Lane.chill
    else (s.laneTo p l Lane.pllwait).laneStart p l) s) s
  (s1.pllChill 0).pllChill 1

/-- A lane PLL locks after its band search, with a band that is not fixed (R77, R133). -/
def State.lanePllLock (s : State) (k : Nat) : State :=
  if s.flag (pllOffFld k) || s.flag (pllLockFld k) then s
  else
    let s1 := (s.put (pllBandFld k) (Config.freeBand s.free).toNat).useFree
    let s2 := s1.setFlag (pllLockFld k) true
    (pllPorts k).foldl (fun s p => (lanesOf p).foldl (fun s l => s.laneStart p l) s) s2

/-- A lane PLL loses lock (R135, R147). -/
def State.lanePllLoss (s : State) (k : Nat) : State :=
  if !s.flag (pllLockFld k) then s
  else
    let down := fun (s : State) (p : Nat) =>
      let svc := s.laneServes p
      (lanesOf p).foldl (fun s l =>
        if s.laneState p l = Lane.off || s.laneState p l = Lane.chill then s else s.laneMove svc p l Lane.pllwait) s
    ((pllPorts k).foldl down (s.pllOut k)).raise { code := 0x0303, cls := 1, scope := .node }

/-- Both lane PLLs have been out of lock for more than 1 ms in FULL (R147): the clocks have run on to the next base tick. -/
def State.bothPllsOut (s : State) : State :=
  if s.stage = Stage.full && !s.flag F.LNK_STAT_LPLL0_LOCK && !s.flag F.LNK_STAT_LPLL1_LOCK then
    ((s.runAfter s.lnk.outAt 1000000).runUp (s.lnk.outAt + msTicks 1 + 1)).raise { code := 0x0304, cls := 3, scope := .node }
  else s

/-- The port does not wait after a failed training (R136). -/
def State.mayStart (s : State) (p : Nat) : Bool := (s.port p).trainWait.isNone

def State.cdrLock (s : State) (p l : Nat) : State :=
  s.when (s.laneState p l == Lane.cdr && s.mayStart p) (·.laneTo p l Lane.frame)

/-- The lane has framed training codewords: 8 in a row (R130, R140). -/
def LaneSt.trained (k : LaneSt) : Bool := k.trn == 8

/-- The training codewords that each lane of a port sends from now on (R138). -/
def State.sendTraining (s : State) (p : Nat) : State :=
  let flags := b2n (s.port p).rxLocked + 2 * b2n (s.port p).done
  (lanesOf p).foldl (fun s l => s.sendSyms p l (trainingOf p l s.pos flags)) s

/-- What the framed training codewords of a port say against it (R139): 2 a port that does not face this one, 3 the same lane
index on both lanes; 0 nothing. -/
def State.trainError (s : State) (p : Nat) : Nat :=
  let far := fun (l : Nat) => if (s.lane p l).trained then (s.lane p l).far else none
  let alien := (lanesOf p).any fun l => match far l with | some (q, _, _) => q != facingPort p | none => false
  if alien then 2
  else match far 0, far 1 with
    | some (_, a, _), some (_, b, _) => if p != 4 && a = b then 3 else 0
    | _, _ => 0

/-- Every lane of the port has received training codewords with a flag of byte 7 set (R138). -/
def State.farSays (s : State) (p i : Nat) : Bool :=
  (lanesOf p).all fun l => match (s.lane p l).far with | some (_, _, f) => bit f i | none => false

/-- RX_LOCKED once every lane has framed, DONE once the far end says RX_LOCKED on every lane (R139); what changes is sent. -/
def State.trainAnswer (s : State) (p : Nat) : State :=
  let q := s.port p
  let rx := q.rxLocked || (lanesOf p).all fun l => (s.lane p l).trained
  let done := q.done || rx && s.farSays p 0 && s.trainError p == 0
  if rx = q.rxLocked && done = q.done then s
  else (s.setPort p { q with rxLocked := rx, done := done }).sendTraining p

/-- The port enters TRAIN, in PAM2, and starts its training codewords (R124, R136, R138, R140); a lane that has framed such
codewords stays framed. -/
def State.enterTrain (s : State) (p : Nat) : State :=
  let s1 := (s.setFlag (F.LNK_PORTx_STAT_MODE p) false).lanesTo p Lane.train
  let keep := fun (t : State) (l : Nat) =>
    let k := s.lane p l
    t.when k.trained (·.setLane p l { t.lane p l with trn := 8, far := k.far, inv := k.inv })
  let s2 := (lanesOf p).foldl keep s1
  let s3 := s2.setPort p { s2.port p with trainWait := none, trainAt := s2.sys.up, rxLocked := false, done := false }
  (s3.sendTraining p).trainAnswer p

/-- A codeword on a lane in TRAIN (R138, R139): both polarities are tried, a frame once found stays, and codewords with DONE
count while this port says DONE too. -/
def State.trainHears (s : State) (p l : Nat) (lv : List Int) : State :=
  let k := s.lane p l
  match trainingSeen lv with
  | none => s.when (!k.trained) (·.setLane p l { k with trn := 0 })
  | some (inv, c) =>
    let f := byteAt c 7
    let s1 := s.setLane p l { k with
      trn := Nat.min 8 (k.trn + 1), inv := inv, far := some (byteAt c 4, byteAt c 5, f)
      doneRun := if bit f 1 && (s.port p).done then Nat.min 16 (k.doneRun + 1) else k.doneRun }
    s1.trainAnswer p

/-- The symbols of the code in a codeword's levels on a lane, and the last symbol value (R125 to R127, R139): polarity by
RX_INV, mode and precoding of the port. -/
def State.symbolsIn (s : State) (p l : Nat) (lv : List Int) : List Nat × Nat :=
  let inv := s.flag (if l = 0 then F.LNK_PORTx_FIX_RX_INV0 p else F.LNK_PORTx_FIX_RX_INV1 p)
  symbolsOfLevels (s.flag (F.LNK_PORTx_STAT_MODE p)) (s.precodes p) (s.lane p l).rxLast
    (if inv then lv.map (0 - ·) else lv)

/-- The lane index of the stream that a physical lane carries (SWAP of R139). -/
def State.streamOf (s : State) (p l : Nat) : Nat := if s.flag (F.LNK_PORTx_FIX_SWAP p) then 1 - l else l

/-- A codeword on a lane in FRAME (R130, R135, R140): the runs that decode with the lane's seed, and as training codewords. -/
def State.frameHears (s : State) (p l : Nat) (lv : List Int) : State :=
  let k := s.lane p l
  let (w, last) := s.symbolsIn p l lv
  let good := (decodeLine (lineRaw p (s.streamOf p l) w)).2.isSome
  let t := trainingSeen lv
  s.setLane p l { k with
    rxLast := last
    good := if good then Nat.min 8 (k.good + 1) else 0
    trn := if t.isSome then Nat.min 8 (k.trn + 1) else 0
    inv := (t.map (·.1)).getD k.inv
    far := match t with | some (_, c) => some (byteAt c 4, byteAt c 5, byteAt c 7) | none => k.far }

/-- A port comes UP for the first time since reset (R153, log entry 64): DOWN becomes a fold at the other port, and a
fold at this port that never was UP opens. A later return leaves the node folded until its unfold boundary (R154). -/
def State.ringUp (s : State) (p : Nat) : State :=
  if (s.port p).everUp then
    s.when (Nat.blt p 4 && s.ringStateOf p == 4) fun s =>
      s.put (if p < 2 then F.RNG_STAT_X_STATE else F.RNG_STAT_Y_STATE) (if p % 2 = 0 then 3 else 2)
  else
    let s1 := s.setPort p { s.port p with everUp := true }
    if !Nat.blt p 4 then s1
    else
    let st := s.ringStateOf p
    let here := if p % 2 = 0 then 2 else 3
    let new := if st = 0 || st = 4 then 5 - here else if st = here then 1 else st
    s1.put (if p < 2 then F.RNG_STAT_X_STATE else F.RNG_STAT_Y_STATE) new

/-- A lane in FRAME locks its frame after 8 codewords in a row, with its own seed or on training codewords (R130, R135, R140).
The first ring port to come UP ends boot stage LANES (R102; DESIGN CHOICE of log entry 30). -/
def State.frameLock (s : State) (p l : Nat) : State :=
  let k := s.lane p l
  if s.laneState p l != Lane.frame || !s.mayStart p then s
  else if k.trained then s.enterTrain p
  else if k.good != 8 then s
  else
    let s1 := s.laneTo p l Lane.up
    if s1.flag (F.LNK_PORTx_STAT_UP p) then
      let s2 := s1.put (F.LNK_PORTx_STAT_RETRIES p) 0
      let s3 := (s2.setPort p { s2.port p with switching := false }).ringUp p
      s3.when (s3.stage == Stage.lanes && Nat.blt p 4) (·.enterPbWait)
    else s1

/-- Four uncorrectable codewords in a row: loss of frame, UP to FRAME (R130, R135). -/
def State.lossOfFrame (s : State) (p l : Nat) : State :=
  s.when (s.laneState p l == Lane.up && (s.lane p l).bad == 4) (·.laneTo p l Lane.frame)

/-- The fill reaches the buffer's limit: it is re-centred and the lane re-enters FRAME (R134). -/
def State.bufferLimit (s : State) (p l : Nat) : State := s.when (s.laneState p l == Lane.up) (·.laneTo p l Lane.frame)

/-- Loss of signal or CDR unlock: UP to CDR (R135). -/
def State.lossOfSignal (s : State) (p l : Nat) : State := s.when (s.laneState p l == Lane.up) (·.laneTo p l Lane.cdr)

/-- A lane has been 2 ms in CDR or FRAME: the clocks have run on to that time (R136). -/
def State.laneRetry (s : State) (p l : Nat) : State :=
  let st := s.laneState p l
  if (st != Lane.cdr && st != Lane.frame) || !s.mayStart p then s
  else
    let s1 := s.runAfter (s.lane p l).since 2000000
    let s2 := (s1.bump (F.LNK_PORTx_STAT_RETRIES p)).laneTo p l Lane.cdr
    let max := Nat.max 1 (s.get F.LNK_CTRL_RETRY_MAX)
    s2.when (s.flag F.LNK_CTRL_AUTO_TRAIN && Nat.ble max (s2.get (F.LNK_PORTx_STAT_RETRIES p))) (·.enterTrain p)

/-- The port is in TRAIN. -/
def State.inTrain (s : State) (p : Nat) : Bool := s.laneState p 0 == Lane.train

/-- 16 codewords with DONE in both directions have passed on every lane (R139). -/
def State.trainOver (s : State) (p : Nat) : Bool :=
  s.inTrain p && (s.port p).done && (lanesOf p).all fun l => (s.lane p l).doneRun == 16

/-- The corrections that the training codewords call for (R139): RX_INV0, RX_INV1, SWAP as bits 0 to 2. -/
def State.trainFound (s : State) (p : Nat) : Nat :=
  let idx := fun (l : Nat) => (s.lane p l).far.map (·.2.1)
  b2n (s.lane p 0).inv + 2 * b2n (p != 4 && (s.lane p 1).inv) + 4 * b2n (p != 4 && idx 0 == some 1 && idx 1 == some 0)

/-- Training succeeds: its corrections are in force until reset (R139). -/
def State.trainingDone (s : State) (p : Nat) : State :=
  if !s.trainOver p then s
  else
    let found := s.trainFound p
    let s1 := s.setFlag (F.LNK_PORTx_FIX_RX_INV0 p) (bit found 0)
    let s2 := (s1.setFlag (F.LNK_PORTx_FIX_RX_INV1 p) (bit found 1)).setFlag (F.LNK_PORTx_FIX_SWAP p) (bit found 2)
    let s3 := (s2.setFlag (F.LNK_PORTx_FIX_SRC p) true).setFlag (F.LNK_PORTx_STAT_TRAINED p) true
    let s4 := (s3.put (F.LNK_PORTx_STAT_TRN_ERR p) 0).lanesTo p Lane.frame
    if found != (s.port p).wiring.toNat % 8 then
      s4.raise { code := 0x0308, cls := 0, scope := .node, kind := 2, inst := p } else s4

/-- The outcome `err` of R139 holds at a port in TRAIN: 1 no frame on a lane, 2 and 3 what its codewords say, 4 the far end
not DONE. -/
def State.trainFails (s : State) (p err : Nat) : Bool :=
  match err with
  | 1 => (lanesOf p).any fun l => !(s.lane p l).trained
  | 4 => !s.farSays p 1
  | e => e != 0 && s.trainError p == e

/-- Training fails: CDR, and a wait of 100 ms before the next blind start (R136, R139); for outcomes 1 and 4 the clocks have run
on to 4 ms and 5 ms after the entry into TRAIN. -/
def State.trainingFail (s : State) (p err : Nat) : State :=
  if !s.inTrain p || !s.trainFails p err then s
  else
    let at_ := (s.port p).trainAt
    let s1 := if err = 1 then s.runAfter at_ 4000000 else if err = 4 then s.runAfter at_ 5000000 else s
    let s2 := (s1.put (F.LNK_PORTx_STAT_TRN_ERR p) err).lanesTo p Lane.cdr
    let s3 := s2.setPort p { s2.port p with trainWait := some s2.sys.up }
    s3.raise { code := 0x0307, cls := 1, scope := .node, kind := 2, inst := p }

/-- 100 ms after a failed training the port clears RETRIES and starts blind again (R136). -/
def State.trainWaitEnd (s : State) (p : Nat) : State :=
  match (s.port p).trainWait with
  | some t =>
    let s1 := s.runAfter t 100000000
    let s2 := (s1.setPort p { s1.port p with trainWait := none }).put (F.LNK_PORTx_STAT_RETRIES p) 0
    (lanesOf p).foldl (fun s l => s.setLane p l { s.lane p l with since := s.sys.up }) s2
  | none => s

/-- The eye monitor's 100 ms update (R145, R147). -/
def State.eyeUpdate (s : State) (p l height width ser : Nat) : State :=
  if p = 4 && l = 1 then s
  else
    let s1 := (s.setFlag (F.LNK_PORTx_EYEn_VALID p l) true).put (F.LNK_PORTx_EYEn_SER_DEC p l) ser
    let s2 := (s1.put (F.LNK_PORTx_EYEn_WIDTH p l) width).put (F.LNK_PORTx_EYEn_HEIGHT p l) height
    let ls := s2.lane p l
    let lowSer := Nat.blt ser 8
    let lowEye := Nat.blt height (s2.get F.LNK_CTRL_EYE_MIN)
    let s3 := s2.setLane p l { ls with lowSer := lowSer, lowEye := lowEye }
    let s4 := if lowSer && ls.lowSer && s3.carries p then
        s3.raise { code := 0x0305, cls := 1, scope := .node, kind := 2, inst := laneInst p l } else s3
    if lowEye && ls.lowEye then s4.raise { code := 0x0306, cls := 0, scope := .node, kind := 2, inst := laneInst p l }
    else s4

/-- A write of CHILL (R146). -/
def State.chillWrite (s : State) (p : Nat) (on : Bool) : State :=
  if on then
    if s.laneServes p then s.setFlag (F.LNK_PORTx_STAT_CHILL_REF p) true
    else
      let s1 := (s.setFlag (F.LNK_PORTx_STAT_CHILL_REF p) false).setFlag (F.LNK_PORTx_CTRL_CHILL p) true
      (s1.lanesTo p Lane.chill).pllChill (portPll p)
  else
    let s1 := (s.setFlag (F.LNK_PORTx_STAT_CHILL_REF p) false).setFlag (F.LNK_PORTx_CTRL_CHILL p) false
    let s2 := (lanesOf p).foldl (fun s l =>
      if s.laneState p l = Lane.chill then s.laneTo p l Lane.pllwait else s) s1
    let s3 := s2.pllChill (portPll p)
    (lanesOf p).foldl (fun s l => s.laneStart p l) s3

/-- A write of TRAIN starts training of a port that transmits (R135, R136). -/
def State.trainWrite (s : State) (p : Nat) : State :=
  if (lanesOf p).all (fun l => Nat.ble Lane.cdr (s.laneState p l)) then
    (s.enterTrain p).setFlag (F.LNK_PORTx_CTRL_TRAIN p) true
  else s

def State.lnkCntClr (s : State) (p : Nat) : State :=
  (lanesOf p).foldl (fun s l =>
    ((s.wr (R.LNK_PORTx_LANEn_CSYM p l) 0).wr (R.LNK_PORTx_LANEn_CCW p l) 0).wr (R.LNK_PORTx_LANEn_UCW p l) 0) s

/-- The equalisation rows of band b come into force (R142 to R144): the image's rows, or the boot ROM's default row
without a verified image. Reserved bits read 0. -/
def State.laneBand (s : State) (b : Nat) : State :=
  let s1 := s.put F.LNK_STAT_TB b
  forUpTo 5 (fun p s =>
    match s.img.image.eq[5 * p + b]? with
    | some (lo, hi) => (s.wr (R.LNK_PORTx_EQ_LO p) (lo &&& 0x0001FF3F)).wr (R.LNK_PORTx_EQ_HI p) (hi &&& 0x001F3F1F)
    | none => (s.wr (R.LNK_PORTx_EQ_LO p) 0x5228).wr (R.LNK_PORTx_EQ_HI p) 0x1008) s1

/-- The wiring words of the image come into use (R139, R141). -/
def State.wire (s : State) : State :=
  forUpTo 5 (fun p s =>
    let w := s.img.image.wiring.getD p 0
    (s.setPort p { s.port p with wiring := w }).wrN (R.LNK_PORTx_FIX p) w.toNat) s

/-! ### The commands -/

def execLanePllLock (pll : Fin 2) (s : State) : Host.Outcome State Fault Refusal :=
  .next (s.live fun s => s.lanePllLock pll.val)

def execLanePllLoss (pll : Fin 2) (s : State) : Host.Outcome State Fault Refusal :=
  .next (s.live fun s => s.lanePllLoss pll.val)

def execBothLanePllsOutOfLock (s : State) : Host.Outcome State Fault Refusal :=
  .next (s.live fun s => s.bothPllsOut)

def execCdrLock (p : Fin 5) (l : Fin 2) (s : State) : Host.Outcome State Fault Refusal :=
  .next (s.live fun s => s.cdrLock p.val l.val)

def execFrameLock (p : Fin 5) (l : Fin 2) (s : State) : Host.Outcome State Fault Refusal :=
  .next (s.live fun s => s.frameLock p.val l.val)

def execLossOfFrame (p : Fin 5) (l : Fin 2) (s : State) : Host.Outcome State Fault Refusal :=
  .next (s.live fun s => s.lossOfFrame p.val l.val)

def execLossOfSignal (p : Fin 5) (l : Fin 2) (s : State) : Host.Outcome State Fault Refusal :=
  .next (s.live fun s => s.lossOfSignal p.val l.val)

def execLaneRetry (p : Fin 5) (l : Fin 2) (s : State) : Host.Outcome State Fault Refusal :=
  .next (s.live fun s => s.laneRetry p.val l.val)

def execTrainingDone (p : Fin 5) (s : State) : Host.Outcome State Fault Refusal :=
  .next (s.live fun s => s.trainingDone p.val)

def execTrainingFail (p : Fin 5) (err : Fin 5) (s : State) : Host.Outcome State Fault Refusal :=
  .next (s.live fun s => s.trainingFail p.val err.val)

def execTrainWaitEnd (p : Fin 5) (s : State) : Host.Outcome State Fault Refusal :=
  .next (s.live fun s => s.trainWaitEnd p.val)

def execElasticBufferLimit (p : Fin 5) (l : Fin 2) (s : State) : Host.Outcome State Fault Refusal :=
  .next (s.live fun s => s.bufferLimit p.val l.val)

def execEyeMonitorUpdate (p : Fin 5) (l : Fin 2) (height width : BitVec 8) (ser : Fin 13) (s : State) :
    Host.Outcome State Fault Refusal :=
  .next (s.live fun s => s.eyeUpdate p.val l.val height.toNat width.toNat ser.val)

def execChillWrite (p : Fin 5) (on : Bool) (s : State) : Host.Outcome State Fault Refusal :=
  .next (s.live fun s => s.chillWrite p.val on)

def execTrainWrite (p : Fin 5) (s : State) : Host.Outcome State Fault Refusal :=
  .next (s.live fun s => s.trainWrite p.val)

def execLnkCntClr (p : Fin 5) (s : State) : Host.Outcome State Fault Refusal :=
  .next (s.live fun s => s.lnkCntClr p.val)

end Sys2Proof.Machine
end

