-- ==== Sys2Proof/Machine/Loader.lean ====
section
/-! DEFINITION. Machine/Loader.lean: the image loader's writes (R102) and the checks it makes of them: the ranges of the
RL fields (R43, R426, R453, R482, R511, R549 and the other register rules) and the rules between registers (R218, R224,
R233, R247, R250, R255, R256, R294, R550). Every breach is load error 9 (R104).
Marked choices: log entry 13 (DESIGN CHOICE). -/
namespace Sys2Proof.Machine

/-- The range of one field, at addresses base + step·i for i < n. `en`: checked only in a word with bit 31 set. -/
structure RangeRow where
  base : Nat
  step : Nat
  n : Nat
  lo : Nat
  len : Nat
  min : Nat
  max : Nat
  en : Bool := false
  deriving DecidableEq, Repr

def RangeRow.hit (r : RangeRow) (a : Nat) : Bool :=
  Nat.ble r.base a && (a - r.base) % r.step == 0 && Nat.blt ((a - r.base) / r.step) r.n

def RangeRow.ok (r : RangeRow) (w : Word) : Bool :=
  let v := bits w.toNat r.lo r.len
  r.en && !w.getLsbD 31 || Nat.ble r.min v && Nat.ble v r.max

/-- Ranges of the clock, time and lane registers. -/
def rangesA : List RangeRow := [
  ⟨R.TIM_SC_LEN, 4, 1, 0, 24, 125000, 12500000, false⟩,
  ⟨R.CLK_SPREAD, 4, 1, 16, 16, 47348, 52082, false⟩,
  ⟨R.CLK_SPREAD, 4, 1, 16, 1, 0, 0, false⟩,
  ⟨R.CLK_SPREAD, 4, 1, 0, 6, 0, 50, false⟩,
  ⟨R.CLK_SLEW, 4, 1, 0, 8, 1, 255, false⟩,
  ⟨R.CLK_HOLD, 4, 1, 0, 10, 1, 1000, false⟩,
  ⟨R.TIM_CTRL, 4, 1, 16, 8, 1, 255, false⟩,
  ⟨R.TIM_CTRL, 4, 1, 8, 4, 1, 15, false⟩,
  ⟨R.TIM_CTRL, 4, 1, 0, 8, 1, 255, false⟩]

/-- Ranges of the balancer, gate-drive and sampling registers. -/
def rangesB : List RangeRow := [
  ⟨R.RNG_CTRL, 4, 1, 8, 8, 0, 64, false⟩,
  ⟨R.BAL_STKs_CFG 0, 0x40, 3, 8, 6, 1, 60, false⟩,
  ⟨R.BAL_STKs_SLEW 0, 0x40, 3, 16, 16, 1, 65535, false⟩,
  ⟨R.BAL_STKs_SLEW 0, 0x40, 3, 0, 16, 1, 65535, false⟩,
  ⟨R.BAL_STKs_SRC 0, 0x40, 3, 20, 10, 0, 767, false⟩,
  ⟨R.BAL_STKs_SRC 0, 0x40, 3, 10, 10, 0, 767, false⟩,
  ⟨R.BAL_STKs_SRC 0, 0x40, 3, 0, 10, 0, 767, false⟩,
  ⟨R.GD_CTRL, 4, 1, 16, 8, 1, 255, false⟩,
  ⟨R.GD_CTRL, 4, 1, 0, 8, 1, 255, false⟩,
  ⟨R.GD_SUPPLY, 4, 1, 16, 8, 0, 50, false⟩,
  ⟨R.GD_SUPPLY, 4, 1, 8, 8, 0, 50, false⟩,
  ⟨R.GD_SUPPLY, 4, 1, 0, 8, 0, 60, false⟩,
  ⟨R.GD_LEGn_CFG 0, 0x20, 6, 16, 9, 1, 100, false⟩,
  ⟨R.GD_LEGn_SC_LS 0, 0x20, 6, 27, 4, 2, 12, false⟩,
  ⟨R.GD_LEGn_SC_LS 0, 0x20, 6, 21, 6, 5, 50, false⟩,
  ⟨R.GD_LEGn_SC_LS 0, 0x20, 6, 0, 9, 0, 500, false⟩,
  ⟨R.GD_LEGn_SC_HS 0, 0x20, 6, 27, 4, 2, 12, false⟩,
  ⟨R.GD_LEGn_SC_HS 0, 0x20, 6, 21, 6, 5, 50, false⟩,
  ⟨R.GD_LEGn_SC_HS 0, 0x20, 6, 0, 9, 0, 500, false⟩,
  ⟨R.ADC_TRGm_CFG 0, 0x20, 16, 27, 2, 0, 2, false⟩]

/-- Ranges of the metering, duplex, safety, fault, memory and supervisory registers. -/
def rangesC : List RangeRow := [
  ⟨R.MTR_CFG, 4, 1, 16, 8, 1, 255, true⟩,
  ⟨R.MTR_CHn_CFG 0, 0x20, 8, 0, 4, 0, 7, false⟩,
  ⟨R.MTR_DFCn_CFG 0, 8, 2, 0, 8, 1, 64, true⟩,
  ⟨R.MTR_DFCn_CONST 0, 8, 2, 0, 32, 0, 1000000, false⟩,
  ⟨R.DPX_CFG, 4, 1, 24, 4, 1, 7, false⟩,
  ⟨R.DPX_CFG, 4, 1, 16, 4, 1, 8, false⟩,
  ⟨R.DPX_CFG, 4, 1, 8, 8, 1, 255, false⟩,
  ⟨R.DPX_CFG, 4, 1, 0, 5, 1, 24, false⟩,
  ⟨R.SAF_CTRL, 4, 1, 24, 4, 1, 8, false⟩,
  ⟨R.SAF_TP_CFG, 4, 1, 16, 10, 10, 1000, false⟩,
  ⟨R.SAF_TP_CFG, 4, 1, 0, 5, 2, 20, false⟩,
  ⟨R.SAF_SIn_CFG 0, 4, 8, 29, 2, 0, 2, false⟩,
  ⟨R.SAF_SIn_CFG 0, 4, 8, 16, 8, 1, 200, false⟩,
  ⟨R.SAF_SIn_CFG 0, 4, 8, 0, 8, 1, 200, false⟩,
  ⟨R.SAF_SO_CFG, 4, 1, 16, 8, 1, 50, false⟩,
  ⟨R.FLT_CFG, 4, 1, 24, 3, 0, 5, false⟩,
  ⟨R.FLT_CFG, 4, 1, 16, 3, 0, 5, false⟩,
  ⟨R.FLT_CFG, 4, 1, 8, 3, 0, 5, false⟩,
  ⟨R.FLT_CFG, 4, 1, 0, 8, 1, 255, false⟩,
  ⟨R.FLT_FLTI, 4, 1, 28, 3, 0, 4, false⟩,
  ⟨R.FLT_FLTI, 4, 1, 8, 8, 1, 255, false⟩,
  ⟨R.FLT_LOCK, 4, 1, 0, 16, 1, 65535, false⟩,
  ⟨R.MEM_BKTr_CFG 0, 8, 8, 0, 8, 1, 255, false⟩,
  ⟨R.SUP_IP4_CFG, 4, 1, 0, 6, 1, 32, true⟩,
  ⟨R.SUP_IP6_CFG, 4, 1, 0, 8, 1, 128, true⟩,
  ⟨R.SUP_UDP, 4, 1, 0, 16, 1, 65535, false⟩,
  ⟨R.SUP_VLAN, 4, 1, 0, 12, 1, 4094, true⟩,
  ⟨R.SUP_SESS_CFG, 4, 1, 8, 8, 10, 255, false⟩,
  ⟨R.SUP_SESS_CFG, 4, 1, 0, 3, 1, 4, false⟩,
  ⟨R.SUP_REP_CFG, 4, 1, 20, 12, 1, 4000, false⟩,
  ⟨R.SUP_REP_CFG, 4, 1, 8, 12, 1, 1024, false⟩,
  ⟨R.SUP_REP_CFG, 4, 1, 0, 8, 1, 255, false⟩]

/-- Every range row. -/
def ranges : List RangeRow := rangesA ++ rangesB ++ rangesC

/-- The written word keeps every range of its register. -/
def rangeOk (a : Nat) (w : Word) : Bool := ranges.all fun r => !r.hit a || r.ok w

/-- The binding rules of a mailbox channel (R550). -/
def mbxBindOk (w : Word) : Bool :=
  let v := w.toNat
  let snd := F.MBX_CHn_BIND_SND 0 |>.get w
  let rcv := F.MBX_CHn_BIND_RCV 0 |>.get w
  let peer := bits v 8 8
  !w.getLsbD 31 || snd != rcv && Nat.ble snd 2 && Nat.ble rcv 2 &&
    (if peer = 0xFF then snd != 2 && rcv != 2 else (snd == 2) != (rcv == 2))

/-- A binary32 word in a closed range. -/
def f32In (w : Word) (lo hi : Nat) : Bool := finW w.toNat && f32.ble lo w.toNat && f32.ble w.toNat hi

/-- 0.5, 0.25 and 1.0 in binary32. -/
def f32Half : Nat := 0x3F000000
def f32Quarter : Nat := 0x3E800000

/-- The ranges of an equalisation row of the board table (R142). -/
def eqRowOk (r : Word × Word) : Bool :=
  let pre := bits r.1.toNat 8 4
  let post := bits r.1.toNat 12 5
  Nat.ble pre 12 && Nat.ble post 25 && Nat.ble (pre + post) 25 && Nat.ble (bits r.2.toNat 8 6) 40 &&
    Nat.ble (bits r.2.toNat 0 5) 24

/-- The capacitance word of a cell of the balancer (R288). -/
def isCap (a : Nat) : Bool :=
  (List.range 3).any fun k => Nat.ble (R.BAL_STKs_CELLi_CAP k 0) a && (a - R.BAL_STKs_CELLi_CAP k 0) % 0x20 == 0 &&
    Nat.blt ((a - R.BAL_STKs_CELLi_CAP k 0) / 0x20) 60

/-- The rules within one register that a field range does not say. -/
def wordOk (a : Nat) (w : Word) : Bool :=
  let one := fun (base step n : Nat) => Nat.ble base a && (a - base) % step == 0 && Nat.blt ((a - base) / step) n
  if one (R.MBX_CHn_BIND 0) 0x80 16 then mbxBindOk w
  else if one (R.BAL_STKs_TRIM_MAX 0) 0x40 3 then f32In w 0 f32Half
  else if one (R.BAL_STKs_DAB_MAX 0) 0x40 3 then f32In w 0 f32Quarter
  else if one (R.BAL_STKs_CFG 0) 0x40 3 then
    Nat.ble 1 (bits w.toNat 16 6) && Nat.ble (bits w.toNat 16 6) (bits w.toNat 8 6)
  else if isCap a then finW w.toNat && f32.blt 0 w.toNat
  else if one (R.BAL_STKs_PDB 0) 0x40 3 then finW w.toNat && f32.ble 0 w.toNat
  else if one (R.ADC_CHc_GAIN 0) 4 32 then finW w.toNat
  else if one (R.ADC_TRGm_CFG 0) 0x20 16 then
    !w.getLsbD 31 || bits w.toNat 27 2 != 1 || Nat.blt (bits w.toNat 17 7) (2 ^ bits w.toNat 24 3)
  else if one (R.MTR_CHn_PHASE 0) 0x20 8 then
    (let p := sgn 32 w.toNat; decide (-65536 ≤ p) && decide (p ≤ 65536))
  else if one (R.PWM_LCHn_CFG 0) 0x40 8 then
    bits w.toNat 27 2 != 3 && (Nat.blt a (R.PWM_LCHn_CFG 6) || bits w.toNat 29 2 == 0)
  else if one (R.THM_Sn_THR 0) 0x20 14 then
    (let f := fun (g : Nat → Fld) => (g 0).get w
     Nat.blt (f F.THM_Sn_THR_WARN) (f F.THM_Sn_THR_THR) && Nat.blt (f F.THM_Sn_THR_THR) (f F.THM_Sn_THR_SHUT) &&
       Nat.ble 1 (f F.THM_Sn_THR_HYST) && Nat.ble (f F.THM_Sn_THR_HYST) 20)
  else if a = R.THM_NTC_RPU then finW w.toNat && f32.blt 0 w.toNat
  else true

/-- The bits of a word that the loader writes: its RL and RW bits; of PLM0 the fields that are not RO (R264). -/
def loadMask (a : Nat) (r : RegRow) : Nat :=
  if Nat.ble 0x41000000 a && a % 0x100 == 0xE0 then 0xFFE0F000 else r.rl ||| r.rw

/-- A written divider of a clock output is judged at once (R87). -/
def State.ckoLoaded (s : State) (a : Nat) : State :=
  forUpTo 4 (fun n s => s.when (a == R.CLK_CKOn_CFG n) (·.ckoWritten n)) s

/-- The loader writes one word, whatever the boot lock; none when a range is broken (R43). -/
def State.loadWord (s : State) (a : Nat) (w : Word) : Option State :=
  match rowOf a with
  | none => some s
  | some r =>
    let m : Word := BitVec.ofNat 32 (loadMask a r)
    let v := (s.rd a &&& ~~~m) ||| (w &&& m)
    if rangeOk a v && wordOk a v then some ((s.wr a v).ckoLoaded a) else none

/-- All words of the configuration; none at the first that breaks a range. -/
def State.loadAll (s : State) : List (Nat × Word) → Option State
  | [] => some s
  | (a, w) :: t => match s.loadWord a w with
    | some s1 => s1.loadAll t
    | none => none

/-- An enabled group keeps the rules of R233. -/
def State.groupRuleOk (s : State) (g : Nat) : Bool :=
  !s.flag (F.CE_RGn_CFG_EN g) || (match s.get (F.CE_RGn_CFG_TYPE g) with
    | 1 => Nat.blt (s.get (F.CE_RGn_CFG_PHASE g)) (2 ^ s.get (F.CE_RGn_CFG_DIV_SH g)) &&
        Nat.blt (s.get (F.CE_RGn_OFS_OFS g)) (s.get F.TIM_SC_LEN_SC_LEN)
    | 2 => s.get (F.CE_RGn_CFG_EVMASK g) != 0
    | 3 => false
    | _ => true)

/-- The binding words of a slot. -/
def State.inWords (s : State) (n : Nat) : List Word :=
  [s.rd (R.CE_SLOTn_IN_REF n), s.rd (R.CE_SLOTn_IN_FB n), s.rd (R.CE_SLOTn_IN_FF n)]

/-- The lower-numbered slots of the same group that slot n reads in the same evaluation (R220, R256). -/
def State.sameInputs (s : State) (n : Nat) : List Nat :=
  (s.inWords n).filterMap fun w =>
    let k := bits w.toNat 0 10
    if bits w.toNat 28 4 = 3 && Nat.blt k n && s.slotRg k == s.slotRg n then some k else none

/-- The rules of one slot record (R218, R224, R230, R247, R255, R264). -/
def State.slotRuleOk (s : State) (n : Nat) : Bool :=
  let bindOk := (s.inWords n).all fun w => bits w.toNat 28 4 != 3 || Nat.blt (bits w.toNat 0 10) 768
  let plmOk := s.get (F.CE_SLOTn_PLM0_FCLS n) != 3 && (!s.flag (F.CE_SLOTn_PLM0_EN n) ||
    Nat.ble 1 (s.get (F.CE_SLOTn_PLM0_SCOPE n)) && Nat.ble (s.get (F.CE_SLOTn_PLM0_SCOPE n)) 4)
  let out := s.rd (R.CE_SLOTn_OUT n)
  let conOk := match contestOf out with
    | some m => s.flag (F.CE_CONm_CFG_EN m)
    | none => true
  s.get (F.CE_SLOTn_CFG_RULE n) != 3 && bindOk && plmOk && conOk &&
    (!s.slotEn n || !s.destTaken n out && s.bankValid n (s.get (F.CE_SLOTn_CFG_ACT n)))

/-- The members of contest m in the configuration (R247). -/
def State.conMembers (s : State) (m : Nat) : List Nat :=
  s.slots.filter fun n => contestOf (s.rd (R.CE_SLOTn_OUT n)) == some m

/-- The rules of one contest (R224, R247, R250). -/
def State.conRuleOk (s : State) (m : Nat) : Bool :=
  let ms := s.conMembers m
  let rgs := (ms.map s.slotRg).eraseDups
  let out := s.rd (R.CE_CONm_OUT m)
  Nat.ble rgs.length 1 && Nat.ble (outType out) 3 &&
    (!s.flag (F.CE_CONm_CFG_EN m) ||
      Nat.ble 2 ms.length && Nat.ble ms.length 8 &&
        (match destKey out with
         | none => true
         | some k => !(List.range 64).any fun j =>
             j != m && s.flag (F.CE_CONm_CFG_EN j) && destKey (s.rd (R.CE_CONm_OUT j)) == some k))

/-- The slots that reach slot n through same-evaluation bindings, nearest first; each link names a lower slot. -/
def State.reaches (s : State) : Nat → List Nat → List Nat → List Nat
  | 0, _, seen => seen
  | k + 1, front, seen =>
    let nx := ((front.flatMap s.sameInputs).eraseDups).filter fun n => !seen.contains n
    if nx.isEmpty then seen else s.reaches k nx (seen ++ nx)

/-- Contests with an edge to contest m, m itself among them when a member reads its own contest (R256). -/
def State.conPreds (s : State) (m : Nat) : List Nat :=
  (((s.conMembers m).flatMap fun n => s.reaches 768 [n] []).filterMap fun k =>
    contestOf (s.rd (R.CE_SLOTn_OUT k))).eraseDups

/-- The contest graph holds no cycle: contests without an open predecessor are taken away until none is left. -/
def State.acyclic (s : State) : Nat → List (Nat × List Nat) → Bool
  | 0, l => l.isEmpty
  | k + 1, l =>
    let left := l.filter fun e => e.2.any fun j => l.any fun f => f.1 == j
    if left.isEmpty then true else if left.length == l.length then false else s.acyclic k left

/-- The rules between registers hold. -/
def State.loadRulesOk (s : State) : Bool :=
  let cons := (List.range 64).filter fun m => s.flag (F.CE_CONm_CFG_EN m)
  let stk := (List.range 3).all fun k =>
    !s.flag (F.BAL_STKs_CFG_EN k) || Nat.ble 1 (s.get (F.BAL_STKs_CFG_N_MIN k)) &&
      Nat.ble (s.get (F.BAL_STKs_CFG_N_MIN k)) (s.get (F.BAL_STKs_CFG_N_REF k))
  (List.range 8).all s.groupRuleOk && s.slots.all s.slotRuleOk && (List.range 64).all s.conRuleOk &&
    s.acyclic 64 (cons.map fun m => (m, s.conPreds m)) && stk &&
    Nat.ble 1 (s.get F.SAF_CTRL_DW) && Nat.ble (s.get F.SAF_CTRL_DW) (s.get F.TIM_SC_LEN_SC_LEN) &&
    Nat.blt (s.get F.ADC_HK_OFS) (s.get F.TIM_SC_LEN_SC_LEN)

/-- The image loader (R102): the state with the configuration written, none on load error 9. -/
def State.loadImage (s : State) (cfg : List (Nat × Word)) : Option State :=
  match s.loadAll cfg with
  | some t => if t.loadRulesOk then some t else none
  | none => none

end Sys2Proof.Machine
end

