-- ==== Sys2Proof/Machine/Flash.lean ====
section
/-! DEFINITION. Machine/Flash.lean: the configuration flash and what the boot loader reads from it (R92 to R101, R104, R113,
R141): slots, state words, the header and its directory, the digests and signatures, and the entries of the board table.
Marked choices: log entry 8 (DESIGN CHOICE). -/
namespace Sys2Proof.Machine

/-! ### Bytes of the flash -/

/-- What an erased byte of the flash reads as. -/
def flashDefault (_ : Nat) : Byte := 0xFF

/-- n bytes from address a on, of a list whose first address is a or above. -/
def sliceFrom : Nat → Nat → List (Nat × Byte) → List Byte
  | 0, _, _ => []
  | n + 1, a, [] => 0xFF :: sliceFrom n (a + 1) []
  | n + 1, a, (k, v) :: t => if k = a then v :: sliceFrom n (a + 1) t else 0xFF :: sliceFrom n (a + 1) ((k, v) :: t)

def flashRead (c : FlashChip) (a n : Nat) : List Byte := sliceFrom n a (c.mem.dropWhile fun e => Nat.blt e.1 a)

/-- Program bytes from address a on: a NOR flash only clears bits. -/
def flashProgram (c : FlashChip) (a : Nat) (l : List Byte) : FlashChip :=
  ((List.range l.length).zip l).foldl (fun c e =>
    { c with mem := Sparse.set flashDefault c.mem (a + e.1) (Sparse.get flashDefault c.mem (a + e.1) &&& e.2) }) c

/-- Erase n bytes from address a on. -/
def flashErase (c : FlashChip) (a n : Nat) : FlashChip :=
  { c with mem := c.mem.filter fun e => Nat.blt e.1 a || Nat.ble (a + n) e.1 }

/-- Two equal slots (R92). -/
def slotSize (c : FlashChip) : Nat := match c.sfdp with | some d => d.size / 2 | none => 0
def slotBase (c : FlashChip) (i : Nat) : Nat := i * slotSize c

/-- A little-endian number of n bytes. -/
def leNat (l : List Byte) : Nat := l.foldr (fun b n => b.toNat + 256 * n) 0

/-- The bytes of a list from offset o, n of them. -/
def sub (l : List Byte) (o n : Nat) : List Byte := (l.drop o).take n

def leField (l : List Byte) (o n : Nat) : Nat := leNat (sub l o n)

/-! ### State words (R113) -/

/-- State word of a slot (R113): any word that is not listed reads as BAD. -/
def slotStateOf (w : Word) : SlotState :=
  if w = 0xFFFFFFFF then .empty
  else if w = 0x0FFFFFFF then .pending
  else if w = 0x00FFFFFF then .trial
  else if w = 0x000FFFFF then .good
  else .bad

def slotWord : SlotState → Word
  | .empty => 0xFFFFFFFF
  | .pending => 0x0FFFFFFF
  | .trial => 0x00FFFFFF
  | .good => 0x000FFFFF
  | .bad => 0x00000000

def slotCode : SlotState → Nat
  | .empty => 0
  | .pending => 1
  | .trial => 2
  | .good => 3
  | .bad => 4

/-- Where the state sector of a slot lies (R95), and its length. -/
def stateSector : Nat := 0x1000
def stateSectorLen : Nat := 0x1000

def slotStIn (c : FlashChip) (i : Nat) : SlotState :=
  if c.sfdp.isNone then .empty
  else slotStateOf (BitVec.ofNat 32 (leNat (flashRead c (slotBase c i + stateSector) 4)))

/-- Move a slot's state word by clearing bits (R113). -/
def flashMark (c : FlashChip) (i : Nat) (st : SlotState) : FlashChip :=
  flashProgram c (slotBase c i + stateSector) (leBytes 4 (slotWord st).toNat)

/-! ### The header (R95) -/

/-- An entry of DIR: type, offset from the slot's start, length, the zero word, SM3 digest. -/
structure DirEntry where
  typ : Nat
  ofs : Nat
  len : Nat
  zero : Nat
  dig : Nat
  deriving DecidableEq, Repr

/-- A slot's header as far as it has content. -/
def slotHeader (c : FlashChip) (i : Nat) : List Byte := flashRead c (slotBase c i) 0x2E0

def dirAt (h : List Byte) (i : Nat) : DirEntry :=
  let o := 0x20 + 48 * i
  ⟨leField h o 4, leField h (o + 4) 4, leField h (o + 8) 4, leField h (o + 12) 4, beNat (sub h (o + 16) 32)⟩

def dirOf (h : List Byte) : List DirEntry := (List.range 4).map (dirAt h)

def hdrLen (h : List Byte) : Nat := leField h 8 4
def hdrSeq (h : List Byte) : Nat := leField h 0x0C 4
def hdrRotate (h : List Byte) : Bool := bit (leField h 6 2) 0
def hdrMode (h : List Byte) : Nat := leField h 0x10 1
def hdrClock (h : List Byte) : Nat := leField h 0x11 1

/-- DIR index of a section type: 1 FIRMWARE, 2 STATION, 3 BOARD, 4 CALIB (R96). -/
def dirIdx (h : List Byte) (typ : Nat) : Nat := ((dirOf h).findIdx? fun d => d.typ == typ).getD 0xF

/-- MAGIC, FORMAT, NSECT and DIR are well formed: each section type once, its zero word zero, entries 4 to 7 zero
(R95, R96). -/
def hdrOk (h : List Byte) : Bool :=
  sub h 0 4 == [0x4B#8, 0x51#8, 0x49#8, 0x4D#8] && leField h 4 2 == 1 && leField h 0x14 4 == 4 &&
    ([1, 2, 3, 4].all fun t => (dirOf h).any fun d => d.typ == t) && ((dirOf h).all fun d => d.zero == 0) &&
    ((sub h (0x20 + 4 * 48) (4 * 48)).all (· == 0#8))

/-- Read rate of a mode and clock in bytes per second (R93, R104); a header that names neither is read as the headers are. -/
def readRate (mode mhz : Nat) : Nat :=
  let r := match mode with
    | 1 => 500000 * mhz
    | 2 => 1000000 * mhz
    | 3 => 2000000 * mhz
    | _ => 3125000
  if r = 0 then 3125000 else r

/-- t_FTMO in nanoseconds (R104). -/
def fetchLimit (h : List Byte) : Nat := 2 * hdrLen h * 1000000000 / readRate (hdrMode h) (hdrClock h) + 10000000

/-- The flash declares the mode and the clock that the header names; mode 0 serves 256 KiB at most (R93). -/
def modeOk (d : Sfdp) (h : List Byte) : Bool :=
  if hdrMode h = 0 then hdrClock h == 25 && Nat.ble (hdrLen h) 0x40000
  else Nat.ble (hdrMode h) 3 && Nat.ble 25 (hdrClock h) && Nat.ble (hdrClock h) 100 &&
    d.modes.any fun m => m.1 == hdrMode h && Nat.ble (hdrClock h) m.2

/-- The first section outside IMAGE_LEN or before the sections' start, 0xF when IMAGE_LEN exceeds the slot (R104). -/
def lenBad (c : FlashChip) (h : List Byte) : Option Nat :=
  if Nat.blt (slotSize c) (hdrLen h) then some 0xF
  else (dirOf h).findIdx? fun d => Nat.blt d.ofs 0x2000 || Nat.blt (hdrLen h) (d.ofs + d.len)

/-- The bytes of a section of slot i by its type. -/
def slotSection (c : FlashChip) (i typ : Nat) : List Byte :=
  match (dirOf (slotHeader c i)).find? fun d => d.typ == typ with
  | some d => flashRead c (slotBase c i + d.ofs) d.len
  | none => []

/-- The first section whose digest differs from DIR (R97). -/
def digestBad (c : FlashChip) (i : Nat) : Option Nat :=
  (dirOf (slotHeader c i)).findIdx? fun d => sm3 (flashRead c (slotBase c i + d.ofs) d.len) != d.dig

/-! ### Signatures (R96, R97) -/

/-- "XANIHAM-FW" and "KQ768-OWNER". -/
def vendorId : List Byte := [0x58, 0x41, 0x4E, 0x49, 0x48, 0x41, 0x4D, 0x2D, 0x46, 0x57].map (BitVec.ofNat 8)
def ownerId : List Byte := [0x4B, 0x51, 0x37, 0x36, 0x38, 0x2D, 0x4F, 0x57, 0x4E, 0x45, 0x52].map (BitVec.ofNat 8)

/-- A signature r then s over a message, under a key x then y. -/
def sigOk (id m key sig : List Byte) : Bool :=
  sm2Verify id m (beNat (sub key 0 32)) (beNat (sub key 32 32)) (beNat (sub sig 0 32)) (beNat (sub sig 32 32))

/-- OWNER_SIG of a header under its own OWNER_PUB (R95). -/
def ownerSigOk (h : List Byte) : Bool := sigOk ownerId (sub h 0 0x2A0) (sub h 0x220 64) (sub h 0x2A0 64)

/-- SM3 of OWNER_PUB and of NEXT_PUB (R99, R101). -/
def ownerDigOf (h : List Byte) : BitVec 256 := BitVec.ofNat 256 (sm3 (sub h 0x220 64))
def nextDigOf (h : List Byte) : BitVec 256 := BitVec.ofNat 256 (sm3 (sub h 0x260 64))

/-- The firmware header is well formed: "KQFW", an EPOCH of 1 or above, the body within its section (R96). -/
def fwHeaderOk (fw : List Byte) : Bool :=
  sub fw 0 4 == [0x4B#8, 0x51#8, 0x46#8, 0x57#8] && Nat.ble 1 (leField fw 4 2) && Nat.ble (256 + leField fw 0x0C 4) fw.length

/-- VENDOR_SIG over bytes 0x00 to 0x0F of the firmware header and the body (R96). -/
def vendorSigOk (key fw : List Byte) : Bool :=
  sigOk vendorId (sub fw 0 16 ++ sub fw 256 (leField fw 0x0C 4)) key (sub fw 0x10 64)

/-! ### The board table (R141) -/

/-- The BOARD section is well formed: "KQBD", entries of 224 bytes, and all of them within the section. -/
def boardOk (b : List Byte) : Bool :=
  sub b 0 4 == [0x4B#8, 0x51#8, 0x42#8, 0x44#8] && leField b 8 4 == 224 && leField b 12 4 == 0 &&
    Nat.ble (16 + 224 * leField b 4 4) b.length

/-- The entry of a position, else the default one (R96, R141). -/
def boardEntry (b : List Byte) (pos : Nat) : Option (List Byte) :=
  let es := (List.range (leField b 4 4)).map fun k => sub b (16 + 224 * k) 224
  let at_ := fun (p : Nat) => es.find? fun e => leField e 0 1 == p
  match at_ pos with
  | some e => some e
  | none => at_ 0xFF

def boardWiring (e : List Byte) : List (BitVec 5) := (List.range 5).map fun p => BitVec.ofNat 5 (leField e (4 + 4 * p) 4)

def boardRows (e : List Byte) : List (Word × Word) :=
  (List.range 25).map fun k =>
    (BitVec.ofNat 32 (leField e (0x18 + 8 * k) 4), BitVec.ofNat 32 (leField e (0x1C + 8 * k) 4))

/-! ### The image a slot holds -/

/-- The first 8 bytes of a digest. -/
def dig8 (d : Nat) : BitVec 64 := BitVec.ofNat 64 (d >>> 192)

/-- What the node keeps of the image in slot i (R94 to R98), with what STATION and CALIB say. -/
def slotImage (c : FlashChip) (i pos : Nat) (st : StationRead) : ImageRead :=
  let h := slotHeader c i
  let fw := slotSection c i 1
  let cal := slotSection c i 4
  let entry := (boardEntry (slotSection c i 3) pos).getD []
  let preds := (List.range 4).map fun k => sub h (0x1A0 + 32 * k) 32
  { ownerDig := ownerDigOf h
    rotate := hdrRotate h
    nextDig := nextDigOf h
    epoch := leField fw 4 2
    minEpoch := leField fw 6 2
    floor := bit (leField fw 8 4) 0
    seq := BitVec.ofNat 32 (hdrSeq h)
    cfgDig := dig8 (((dirOf h).find? fun d => d.typ == 2).elim 0 (·.dig))
    pred := (preds.filter fun p => !p.all (· == 0#8)).map fun p => dig8 (beNat p)
    calDig := dig8 (sm3 (sub cal st.calEntry.1 st.calEntry.2))
    single := st.single
    table := st.table
    minCells := st.minCells
    stWait := st.stWait
    wiring := boardWiring entry
    eq := boardRows entry
    digests := [1, 2, 3, 4].flatMap fun t => beBytes 32 (((dirOf h).find? fun d => d.typ == t).elim 0 (·.dig))
    hostKeys := st.hostKeys }

end Sys2Proof.Machine
end

