-- ==== Sys2Proof/Machine/Sampling.lean ====
section
/-! DEFINITION. Machine/Sampling.lean: the two converters and their sixteen trigger slots (R349 to R366).
Marked choices: log entry 20 (DEDUCED). -/
namespace Sys2Proof.Machine

/-- The converter of slot m. -/
def convOf (m : Nat) : Nat := m / 8

def convEnFld (a : Nat) : Fld := if a = 0 then F.ADC_CFG_EN0 else F.ADC_CFG_EN1
def lpFld (a : Nat) : Fld := if a = 0 then F.ADC_CTRL_LP0 else F.ADC_CTRL_LP1
def lpActFld (a : Nat) : Fld := if a = 0 then F.ADC_STAT_LP0_ACT else F.ADC_STAT_LP1_ACT
def refErrFld (a : Nat) : Fld := if a = 0 then F.ADC_STAT_REFERR0 else F.ADC_STAT_REFERR1
def busyFld (a : Nat) : Fld := if a = 0 then F.ADC_STAT_BUSY0 else F.ADC_STAT_BUSY1

def State.adcPend (s : State) (m : Nat) : Option AdcPend := Bank.at none s.adc.pend m
def State.setAdcPend (s : State) (m : Nat) (v : Option AdcPend) : State :=
  { s with adc := { s.adc with pend := Bank.upd none s.adc.pend m v } }
def State.adcConv (s : State) (a : Nat) : Option AdcConv := Bank.at none s.adc.conv a
def State.setAdcConv (s : State) (a : Nat) (v : Option AdcConv) : State :=
  ({ s with adc := { s.adc with conv := Bank.upd none s.adc.conv a v } }).setFlag (busyFld a) v.isSome
def State.adcHk (s : State) (a c : Nat) : Option HkRes := Bank.at none s.adc.hk (32 * a + c)
def State.setAdcHk (s : State) (a c : Nat) (v : Option HkRes) : State :=
  { s with adc := { s.adc with hk := Bank.upd none s.adc.hk (32 * a + c) v } }

/-- The converter neither converts nor switches modes. -/
def State.adcFree (s : State) (a : Nat) : Bool := (s.adcConv a).isNone && !bit s.adc.switching a

/-- The channel a trigger latches: a write of the same fabric cycle waits for the next trigger (R355). -/
def State.chanAt (s : State) (m : Nat) : Nat :=
  match s.adc.chFresh.find? (fun e => e.1 == m && e.2.2 == s.fab) with
  | some e => e.2.1
  | none => s.get (F.ADC_TRGm_CH_CH m)

/-- A slot is triggered at the tick its next trigger falls due (R354, R356). -/
def State.adcTrigger (s : State) (m : Nat) : State :=
  match s.adcDue m with
  | [] => s
  | (t, scn) :: rest =>
    let s1 := (s.setAdcDue m rest).runToTick t
    if !s1.flag (F.ADC_TRGm_CFG_EN m) || !s1.flag (convEnFld (convOf m)) then s1
    else if (s1.adcPend m).isSome then
      (s1.bumpReg R.ADC_CNT_DROP).raise { code := 0x0B02, cls := 0, scope := .node, kind := 5, inst := m }
    else s1.setAdcPend m (some ⟨s1.chanAt m, scn, t, t + s1.get (F.ADC_TRGm_DLY_DLY m)⟩)

/-- t_ACQ in lattice ticks, with ACQ_ADD of the ADC die sensor's band (R352, R353, R505). -/
def State.acqTicks (s : State) (a : Nat) : Nat :=
  let add := bits (s.get F.ADC_ACQ_ADD) (4 * s.get (F.THM_Sn_STAT_BAND 3)) 4
  ((if s.flag (lpActFld a) then 140 else 14) + add) * 64

/-- Hold to end of conversion in lattice ticks (R352, R353). -/
def State.convTicks (s : State) (a : Nat) : Nat := if s.flag (lpActFld a) then 16000 else 1600

/-- t_SHD in lattice ticks (R364). -/
def shdTicks : Nat := 3750

def recovFld (a : Nat) : Fld := if a = 0 then F.ADC_CFG_RECOV0 else F.ADC_CFG_RECOV1
def State.adcFreeAt (s : State) (a : Nat) : Nat := Bank.at 0 s.adc.freeAt a
def State.setAdcFreeAt (s : State) (a t : Nat) : State :=
  { s with adc := { s.adc with freeAt := Bank.upd 0 s.adc.freeAt a t } }

/-- The hold instant of a conversion triggered at `trig` and programmed for `prog` on a free converter (R356, R362). -/
def State.holdTick (s : State) (a trig prog : Nat) : Nat :=
  let acq := s.acqTicks a
  let h := Nat.max (prog - acq) (Nat.max trig (s.adcFreeAt a)) + acq
  if s.flag (recovFld a) && bit s.adc.ovrLast a then Nat.max h (Bank.at 0 s.adc.ovrEnd a + shdTicks) else h

/-- The pending conversion of a converter that is taken first: by programmed hold instant, then by slot number (R356). -/
def State.adcFirst (s : State) (a : Nat) : Option Nat :=
  (List.range 8).foldl (fun best i =>
    match s.adcPend (8 * a + i) with
    | none => best
    | some p => match best with
      | none => some (8 * a + i)
      | some b => match s.adcPend b with
        | some q => if p.hold < q.hold then some (8 * a + i) else best
        | none => best) none

/-- STIME in 2^-16 ns at which a tick begins. -/
def tickStime (t : Nat) : Nat := stimeOfTick (t % ltimeWrap) / 2 ^ 24

/-- A converter samples its input at tick h. -/
def State.hold (s : State) (a : Nat) (slot : Option Nat) (chan scn h : Nat) (late : Bool) : State :=
  let s1 := s.put F.ADC_STAT_TB (s.get (F.THM_Sn_STAT_BAND 3))
  (s1.setAdcConv a (some { slot := slot, chan := chan, scn := scn, stime := tickStime h, late := late
                           lp := s.flag (lpActFld a), shadow := bit s.adc.ovrLast a
                           done := h + s.convTicks a })).runToTick h

/-- The hold instant of a slot's conversion (R352, R356): LATE when it is not the programmed one. -/
def State.holdInstant (s : State) (m : Nat) : State :=
  let a := convOf m
  match s.adcPend m with
  | none => s
  | some p =>
    if !s.adcFree a || !s.flag (convEnFld a) || s.adcFirst a != some m then s
    else
      let h := s.holdTick a p.trig p.hold
      (s.setAdcPend m none).hold a (some m) p.chan p.scn h (h != p.hold)

/-- A housekeeping conversion starts from ADC_HK.OFS after a boundary, when no slot conversion is pending (R363): a temperature
channel on the converter ADC_HK names, channels 16 and 17 on each. -/
def State.hkStart (s : State) (a c : Nat) : State :=
  let may := c == 16 || c == 17 || a == s.get F.ADC_HK_ADC
  if !s.flag (convEnFld a) || !may || (s.adcFirst a).isSome || !s.adcFree a then s
  else
    let s1 := s.runToTick (s.labs s.tim.lastB + s.get F.ADC_HK_OFS)
    let h := s1.holdTick a s1.lnow 0
    s1.hold a none c (s1.scn.toNat % 256) h false

/-- The code of an input of `raw` LSB, with its over-range flags: high or low (R350). -/
def adcCode (raw : Int) : Nat × Bool × Bool :=
  if raw < 0 then (0, false, true) else if 65536 ≤ raw then (0xFFFF, true, false) else (raw.toNat, false, false)

/-- GAIN and OFS of a channel (R357). -/
def State.chanGain (s : State) (c : Nat) : Nat := if c < 16 then s.num (R.ADC_CHc_GAIN c) else f32.ofFrac (Frac.mk' 16 655360)
def State.chanOfs (s : State) (c : Nat) : Nat := if c < 16 then s.num (R.ADC_CHc_OFS c) else 0

/-- The engineering value of R357. -/
def State.adcVal (s : State) (c code : Nat) (ovr ovrLo inf : Bool) : Nat :=
  if (ovr || ovrLo) && inf then f32.infW ovrLo
  else f32.fma (s.chanGain c) (f32.ofFrac (Frac.ofNat code)) (s.chanOfs c)

/-- A requested mode switch begins once the converter is free (R353). -/
def State.lpStart (s : State) (a : Nat) : State :=
  if s.adcFree a && s.flag (lpFld a) != s.flag (lpActFld a) then
    let s1 := s.setFlag (lpActFld a) (s.flag (lpFld a))
    { s1 with adc := { s1.adc with switching := setBit s1.adc.switching a true } }
  else s

/-- Place an uplink sample, or count it late: the UP codeword of its cycle has been assembled (R360). -/
def State.uplinkSample (s : State) (m scn : Nat) (v : Word) : State :=
  if !s.flag (F.ADC_TRGm_CFG_UP_EN m) then s
  else if s.rng.upSent || scn != s.scn.toNat % 256 then
    (s.bumpReg R.ADC_CNT_UPLATE).raise { code := 0x0B03, cls := 0, scope := .node, kind := 5, inst := m }
  else
    let idx := s.get (F.ADC_TRGm_ITEM_ITEM m)
    { s with rng := { s.rng with upOut := s.rng.upOut.filter (fun e => e.idx != idx) ++ [⟨s.pos, idx, scn, v⟩] } }

/-- A slot's result record (R357, R358, R361, R362). -/
def State.slotResult (s : State) (a m : Nat) (v : AdcConv) (raw : Int) : State :=
  let pr := adcCode raw
  let code := pr.1
  let hi := pr.2.1
  let lo := pr.2.2
  let ovr := hi || lo
  let val := s.adcVal v.chan code hi lo (s.flag (F.ADC_TRGm_CFG_OVR_INF m))
  let item := if s.flag (F.ADC_TRGm_CFG_UP_EN m) then s.get (F.ADC_TRGm_ITEM_ITEM m) else 0xFC00 + m
  let w := BitVec.ofNat 32 val
  let raww := v.scn <<< 24 ||| 1 <<< 23 ||| (b2n v.lp) <<< 22 ||| (b2n v.late) <<< 21 ||| (b2n v.shadow) <<< 20 |||
    (b2n lo) <<< 19 ||| (b2n ovr) <<< 18 ||| code
  let s1 := (s.wrN (R.ADC_RESm_RAW m) raww).wr (R.ADC_RESm_VAL m) w
  let s2 := s1.wrN (R.ADC_RESm_STIME m) (v.stime >>> 16)
  let s3 := s2.wrN (R.ADC_RESm_SEAL m) (sealOf w s.pos item v.scn <<< 16 ||| v.stime % 65536)
  let s4 := (s3.bumpWrap (F.ADC_TRGm_CNT_CONV m)).setResult m (some w)
  let s5 := if ovr then s4.bump (F.ADC_TRGm_CNT_OVR m) else s4
  let s6 := if v.late then s5.bumpReg R.ADC_CNT_LATE else s5
  let first := ovr && !bit s.adc.ovrRun m
  let s7 := { s6 with adc := { s6.adc with
    ovrRun := setBit s6.adc.ovrRun m ovr, ovrLast := setBit s6.adc.ovrLast a ovr } }
  let s8 := if first then s7.raise { code := 0x0B01, cls := 0, scope := .node, kind := 5, inst := m } else s7
  s8.uplinkSample m v.scn w

/-- A conversion ends (R358, R361, R363); `raw` is the input in LSB of 1.600 V / 65 536. -/
def State.conversionEnd (s : State) (a : Nat) (raw : Int) : State :=
  match s.adcConv a with
  | none => s
  | some v =>
    let s0 := s.runToTick v.done
    let s1 := (s0.setAdcConv a none).setAdcFreeAt a v.done
    let s2 := match v.slot with
      | some m => s1.slotResult a m v raw
      | none =>
        let pr := adcCode raw
        let code := pr.1
        let hi := pr.2.1
        let lo := pr.2.2
        let t := s1.setAdcHk a v.chan (some ⟨code, hi || lo, v.shadow, v.done⟩)
        { t with adc := { t.adc with ovrLast := setBit t.adc.ovrLast a (hi || lo) } }
    let s3 := s2.when (bit s2.adc.ovrLast a) fun s => { s with adc := { s.adc with ovrEnd := Bank.upd 0 s.adc.ovrEnd a v.done } }
    s3.lpStart a

/-- A write of LP1 and LP0 (R353): LPa = 1 is refused while an enabled slot of the converter has UP_EN. -/
def State.lpWrite (s : State) (v : Nat) : State :=
  forUpTo 2 (fun a s =>
    let want := bit v a
    let upl := (List.range 8).any fun i =>
      s.flag (F.ADC_TRGm_CFG_EN (8 * a + i)) && s.flag (F.ADC_TRGm_CFG_UP_EN (8 * a + i))
    if want && upl then s.setFlag F.ADC_STAT_LP_REF true
    else (s.setFlag (lpFld a) want).lpStart a) s

def State.lpSwitchEnd (s : State) (a : Nat) : State :=
  let s1 := { s with adc := { s.adc with switching := setBit s.adc.switching a false } }
  (s1.setAdcFreeAt a s1.lnow).lpStart a

/-- A write of ADC_TRGm_CH (R355). -/
def State.chWrite (s : State) (m v : Nat) : State :=
  if Nat.ble 19 v then s.setFlag F.ADC_STAT_CH_ERR true
  else
    let t := s.fab
    let kept := s.adc.chFresh.filter (fun e => e.2.2 == t)
    let fresh := if kept.any (fun e => e.1 == m) then kept else kept ++ [(m, s.get (F.ADC_TRGm_CH_CH m), t)]
    let s1 := { s with adc := { s.adc with chFresh := fresh } }
    s1.put (F.ADC_TRGm_CH_CH m) v

/-- The reference check of a converter, every REFCHK_PER ms from its last conversions of channels 16 and 17 (R363): a check
with SHADOW is not compared but repeated. -/
def State.refCheck (s : State) (a : Nat) : State :=
  if s.get F.ADC_CFG_REFCHK_PER = 0 || !s.flag (convEnFld a) then s
  else match s.adcHk a 16, s.adcHk a 17 with
  | some r, some g =>
    let s0 := s.runUp (Bank.at 0 s.adc.refAt a)
    let s1 := (s0.setAdcHk a 16 none).setAdcHk a 17 none
    if r.shadow || g.shadow then s1
    else
      let next := s1.sys.up + msTicks (s1.get F.ADC_CFG_REFCHK_PER)
      let s1 := { s1 with adc := { s1.adc with refAt := Bank.upd 0 s1.adc.refAt a next } }
      let tol := s.get F.ADC_CFG_REF_TOL
      let bad := Nat.blt tol (r.code - 51200 + (51200 - r.code)) || Nat.blt tol g.code
      if bad then
        (s1.setFlag (refErrFld a) true).raise { code := 0x0B04, cls := 1, scope := .node }
      else s1.setFlag (refErrFld a) false
  | _, _ => s

/-- A read of ADC_RESm_RAW latches the other three words (R359). -/
def State.rawLatch (s : State) (m : Nat) : State :=
  { s with adc := { s.adc with
    latch := Bank.upd (0x7FC00000, 0, 0) s.adc.latch m
      (s.rd (R.ADC_RESm_VAL m), s.rd (R.ADC_RESm_STIME m), s.rd (R.ADC_RESm_SEAL m)) } }

/-- The words last latched of slot m (R359). -/
def State.rawLatched (s : State) (m : Nat) : Word × Word × Word := Bank.at (0x7FC00000, 0, 0) s.adc.latch m

def State.adcCntClr (s : State) : State :=
  let s1 := ((s.wr R.ADC_CNT_LATE 0).wr R.ADC_CNT_DROP 0).wr R.ADC_CNT_UPLATE 0
  forUpTo 16 (fun m s => s.wr (R.ADC_TRGm_CNT m) 0) (s1.wr R.ADC_CNT_SEAL 0)

/-! ### The commands -/

def execAdcTrigger (m : Fin 16) (s : State) : Host.Outcome State Fault Refusal :=
  .next (s.live fun s => s.adcTrigger m.val)

def execHoldInstant (m : Fin 16) (s : State) : Host.Outcome State Fault Refusal :=
  .next (s.live fun s => s.holdInstant m.val)

def execConversionEnd (a : Fin 2) (raw : Int) (s : State) : Host.Outcome State Fault Refusal :=
  .next (s.live fun s => s.conversionEnd a.val raw)

def execLpWrite (v : BitVec 2) (s : State) : Host.Outcome State Fault Refusal :=
  .next (s.live fun s => s.lpWrite v.toNat)

def execLowPowerSwitchEnd (a : Fin 2) (s : State) : Host.Outcome State Fault Refusal :=
  .next (s.live fun s => s.when (bit s.adc.switching a.val) fun s => s.lpSwitchEnd a.val)

def execChWrite (m : Fin 16) (v : BitVec 5) (s : State) : Host.Outcome State Fault Refusal :=
  .next (s.live fun s => s.chWrite m.val v.toNat)

def execHousekeepingStart (a : Fin 2) (ch : Fin 19) (s : State) : Host.Outcome State Fault Refusal :=
  .next (s.live fun s => s.hkStart a.val ch.val)

def execReferenceCheck (a : Fin 2) (s : State) : Host.Outcome State Fault Refusal :=
  .next (s.live fun s => s.refCheck a.val)

def execAdcCntClr (s : State) : Host.Outcome State Fault Refusal :=
  .next (s.live fun s => s.adcCntClr)

end Sys2Proof.Machine
end

