-- ==== Sys2Proof/Machine/Thermal.lean ====
section
/-! DEFINITION. Machine/Thermal.lean: the fourteen temperature sensors and the event log (R497 to R511). Temperatures
are in sixteenths of a degree Celsius.
Marked choices: log entries 26, 52 (DEDUCED). -/
namespace Sys2Proof.Machine

/-! ### Event log -/

/-- THM_LOG_STAT as the vault's pending records have it (R506). -/
def State.logRefresh (s : State) : State :=
  let n := s.vault.logPend.length
  ((s.put F.THM_LOG_STAT_PEND n).put F.THM_LOG_STAT_NEXT s.vault.logIdx).setFlag F.THM_LOG_STAT_BUSY (n != 0)

/-- An event of R506 waits for its record: kind and words 3 and 6. A fifth pending record is dropped. -/
def State.logEvent (s : State) (kind : Nat) (w3 w6 : Word) : State :=
  if Nat.ble 4 s.vault.logPend.length then
    let s1 := s.bump F.THM_LOG_STAT_DROPS
    if s.sys.inReset then s1 else s1.raise { code := 0x1005, cls := 0, scope := .node }
  else
    let t : Word := if s.sys.inReset then 0 else BitVec.ofNat 32 s.stimeNs
    ({ s with vault := { s.vault with
      logPend := s.vault.logPend ++ [(kind, s.vault.sec, [w3, s.rd R.SYS_LOC, t, w6])] } }).logRefresh

/-- The eight words of a record (R507). -/
def logRecord (num : Word) (kind : Nat) (sec : BitVec 48) (ws : List Word) : LogRec :=
  let hi : Word := BitVec.ofNat 32 (kind <<< 24 ||| sec.toNat >>> 32)
  let w := [num, BitVec.ofNat 32 sec.toNat, hi] ++ ws
  w ++ [BitVec.ofNat 32 (crc32c ((w.map fun x => leBytes 4 x.toNat).flatten))]

/-- The front pending record is written; a collector record then shows LOGGED (R464, R506, R507). -/
def State.logWrite (s : State) : State :=
  match s.vault.logPend with
  | [] => s
  | (kind, sec, ws) :: t =>
    let r := logRecord s.vault.logNum kind sec ws
    let nx : Word := if s.vault.logNum = 0xFFFFFFFF then 1 else s.vault.logNum + 1
    let s1 := ({ s with vault := { s.vault with
      logPend := t, logNum := nx, logIdx := (s.vault.logIdx + 1) % 256
      logMem := Bank.upd [] s.vault.logMem s.vault.logIdx r } }).logRefresh
    let w0 := ws.getD 0 0
    let i := recIdx (w0.toNat >>> 16)
    s1.when (kind == 2 && s1.rd (R.FLT_RECr_Ww i 0) == w0) (·.setFlag (F.FLT_RECr_W1_LOGGED i) true)

/-- A record's CRC holds (R507). -/
def logValid (r : LogRec) : Bool :=
  r.length == 8 && (r.getD 7 0).toNat == crc32c (((r.take 7).map fun x => leBytes 4 x.toNat).flatten)

/-- After a loss of the vault state the log resumes after the highest valid record number (R507). -/
def State.logScan (s : State) : State :=
  let best := s.vault.logMem.foldl (fun (b : Option (Nat × Nat)) e =>
    if logValid e.2 then
      match b with
      | some (_, n) => if n < (e.2.getD 0 0).toNat then some (e.1, (e.2.getD 0 0).toNat) else b
      | none => some (e.1, (e.2.getD 0 0).toNat)
    else b) none
  let (idx, num) := match best with
    | some (i, n) => ((i + 1) % 256, if n = 0xFFFFFFFF then 1 else n + 1)
    | none => (0, 1)
  ({ s with vault := { s.vault with logIdx := idx, logNum := BitVec.ofNat 32 num } }).logRefresh

def State.logSel (s : State) (v : Nat) : State :=
  let s1 := (s.put F.THM_LOG_SEL_SEL v).setFlag F.THM_LOG_STAT_RDY false
  { s1 with thm := { s1.thm with sel := some v } }

/-- The selected record is copied (R508); a write in progress comes first. -/
def State.logReadDone (s : State) : State :=
  match s.thm.sel with
  | none => s
  | some i =>
    if !s.vault.logPend.isEmpty then s
    else
      let r := Bank.at [] s.vault.logMem i
      let s1 := forUpTo 8 (fun k s => s.wr (R.THM_LOG_W k) (r.getD k 0)) s
      ({ s1 with thm := { s1.thm with sel := none } }).setFlag F.THM_LOG_STAT_RDY true

/-! ### Sensors -/

def State.sensor (s : State) (i : Nat) : ThmSensor := Bank.at {} s.thm.sens i
def State.setSensor (s : State) (i : Nat) (v : ThmSensor) : State :=
  { s with thm := { s.thm with sens := Bank.upd {} s.thm.sens i v } }

/-- Sensor enabled (R497). -/
def State.sensorEn (s : State) (i : Nat) : Bool := Nat.blt i 4 || s.flag (F.THM_Sn_CFG_EN i)

/-- The last valid temperature. -/
def State.sensorT (s : State) (i : Nat) : Int := sgn 16 (s.get (F.THM_Sn_STAT_T i))

/-- A threshold in sixteenths of a degree. -/
def State.warnT (s : State) (i : Nat) : Int := ((s.get (F.THM_Sn_THR_WARN i) : Int) - 64) * 16
def State.thrT (s : State) (i : Nat) : Int := ((s.get (F.THM_Sn_THR_THR i) : Int) - 64) * 16
def State.shutT (s : State) (i : Nat) : Int := ((s.get (F.THM_Sn_THR_SHUT i) : Int) - 64) * 16
def State.hystT (s : State) (i : Nat) : Int := (s.get (F.THM_Sn_THR_HYST i) : Int) * 16

/-- Entry temperatures of bands 1 to 4 in whole degrees (R504). -/
def bandEdge : Nat → Int
  | 1 => -10
  | 2 => 30
  | 3 => 70
  | _ => 100

/-- The band after a reading, from band b, without hysteresis when there is none yet (R504). -/
def nextBand (b : Option Nat) (t : Int) : Nat :=
  let above := fun k => decide (bandEdge k * 16 < t)
  let plain := ([1, 2, 3, 4].filter above).length
  match b with
  | none => plain
  | some b =>
    if b ≤ plain then plain
    else
      -- the lowest band whose every higher band up to b has been left downwards
      let stays := ([1, 2, 3, 4].filter fun k => Nat.ble k b && !decide (t ≤ (bandEdge k - 3) * 16))
      Nat.max plain (stays.foldl Nat.max 0)

/-- The state after a reading (R501); `shut2` is a second consecutive reading at or above SHUT. -/
def State.nextThermal (s : State) (i : Nat) (t : Int) (shut2 : Bool) : Nat :=
  let st := s.get (F.THM_Sn_STAT_STATE i)
  if shut2 then 3
  else match st with
    | 3 => if t < s.shutT i - s.hystT i then 2 else 3
    | 2 => if t < s.thrT i - s.hystT i then 1 else 2
    | 1 => if s.thrT i ≤ t then 2 else if t < s.warnT i - s.hystT i then 0 else 1
    | _ => if s.thrT i ≤ t then 2 else if s.warnT i ≤ t then 1 else 0

/-- The row of R509 a state raises. -/
def thermalCode (st : Nat) : Nat := 0x1000 + st

/-- Enter thermal state `st` (R501, R503, R506): its row and, for SHUTDOWN, its log record; the cause of the state left
ends. -/
def State.thermalEnter (s : State) (i st : Nat) : State :=
  let was := s.get (F.THM_Sn_STAT_STATE i)
  if st = was then s
  else
    let s1 := s.put (F.THM_Sn_STAT_STATE i) st
    let s2 := s1.put F.THM_STAT_HOT (setBit (s1.get F.THM_STAT_HOT) i (Nat.ble 2 st))
    let s3 := if was = 0 then s2 else s2.endCause (thermalCode was) i
    let cls := if st = 1 then 0 else if st = 2 then 1 else 3
    let s4 := if st = 0 then s3
      else s3.raise { code := thermalCode st, cls := cls, scope := .node, kind := 8, inst := i, ended := false }
    if st = 3 then s4.logEvent 1 0x1003 (BitVec.ofNat 32 (i <<< 24 ||| s4.get (F.THM_Sn_STAT_T i))) else s4

/-- The band of a sensor selects settings elsewhere (R505): lanes, dead times and drive steps, ACQ_ADD. A leg whose
channel has EN = 0 takes its drive steps at once (R320). -/
def State.bandSelect (s : State) (i b : Nat) : State :=
  if i = 1 then s.laneBand b
  else if i = 2 then
    forUpTo 6 (fun n s => if s.flag (F.PWM_LCHn_CFG_EN n) then s else s.setGateLeg n { s.gateLeg n with band := b })
      (s.put F.PWM_STAT_TB b)
  else s

/-- The smallest headroom of the enabled sensors (R258). -/
def State.minHeadroom (s : State) : Option Word :=
  ((List.range 14).filter s.sensorEn).foldl (fun best i =>
    match s.result (992 + i) with
    | some w => (match best with
      | some b => if f32.blt w.toNat b.toNat then some w else best
      | none => some w)
    | none => best) none

/-- Publish the headroom of sensor i (R502). -/
def State.publishHeadroom (s : State) (i : Nat) (v : Option Word) : State :=
  let s1 := s.setResult (992 + i) v
  s1.setResult 1006 s1.minHeadroom

/-- The result of a disabled sensor is missing (R258). -/
def State.headroomInit (s : State) : State :=
  let s1 := forUpTo 14 (fun i s => s.when (!s.sensorEn i) (·.setResult (992 + i) none)) s
  s1.setResult 1006 s1.minHeadroom

/-- The interval to the sensor's next reading in lattice ticks, from temperature t (R500). -/
def State.sensorInterval (s : State) (i : Nat) (t : Int) : Nat :=
  if s.shutT i - 80 ≤ t then 1250000
  else if s.warnT i ≤ t || s.thrT i - 160 ≤ t then 12500000
  else 125000000

/-- The next reading falls due an interval from now; after a failed reading the interval is that of the last valid temperature
(log entry 52). -/
def State.sensorNext (s : State) (i : Nat) : State :=
  s.setSensor i { s.sensor i with due := s.lnow + s.sensorInterval i (s.sensorT i) }

/-- A failed reading (R499). -/
def State.sensorFail (s : State) (i : Nat) : State :=
  let d := s.sensor i
  let n := Nat.min 2 (d.fails + 1)
  let s1 := s.setSensor i { d with fails := n, shut1 := false }
  if n = 2 && d.fails != 2 then
    let s2 := s1.setFlag (F.THM_Sn_STAT_FAIL i) true
    let s3 := s2.put F.THM_STAT_FAIL (setBit (s2.get F.THM_STAT_FAIL) i true)
    let s4 := s3.raise { code := 0x1004, cls := 1, scope := .node, kind := 8, inst := i, ended := false }
    s4.publishHeadroom i none
  else s1

/-- A valid reading of t sixteenths (R499 to R505). -/
def State.sensorValid (s : State) (i : Nat) (t : Int) : State :=
  let d := s.sensor i
  let hot := decide (s.shutT i ≤ t)
  let b := nextBand (if s.flag (F.THM_Sn_STAT_VALID i) then some (s.get (F.THM_Sn_STAT_BAND i)) else none) t
  let s1 := (s.setSensor i { d with fails := 0, shut1 := hot }).put (F.THM_Sn_STAT_T i) (unsgn 16 t)
  let s2 := (s1.setFlag (F.THM_Sn_STAT_VALID i) true).setFlag (F.THM_Sn_STAT_FAIL i) false
  let s3 := s2.put F.THM_STAT_FAIL (setBit (s2.get F.THM_STAT_FAIL) i false)
  let s4 := if d.fails = 2 then s3.endCause 0x1004 i else s3
  let s5 := if b = s4.get (F.THM_Sn_STAT_BAND i) then s4 else (s4.put (F.THM_Sn_STAT_BAND i) b).bandSelect i b
  let s6 := s5.thermalEnter i (s5.nextThermal i t (hot && d.shut1))
  s6.publishHeadroom i (some (BitVec.ofNat 32 (f32.ofFrac (Frac.mk' (s6.thrT i - t) 16))))

/-! ### The NTC formula (R498) in fixed point -/

/-- ln 2 in units of 2^-64. -/
def ln2Fix : Int := 12786308645202655660

/-- ln of a fraction in [1/2, 2], in units of 2^-64: 2·artanh((x − 1)/(x + 1)). -/
def lnNear (x : Frac) : Int :=
  let y := ((x.sub Frac.one).div (x.add Frac.one))
  let f : Int := (y.shl 64).floor
  let f2 := f * f / (2 ^ 64 : Nat)
  let (sum, _) := (List.range 24).foldl (fun (p : Int × Int) k =>
    (p.1 + p.2 / (2 * k + 1 : Nat), p.2 * f2 / (2 ^ 64 : Nat))) (0, f)
  2 * sum

/-- ln of a positive fraction, in units of 2^-64. -/
def lnFix (x : Frac) : Int :=
  let k : Int := (Nat.log2 x.num.natAbs : Int) - (Nat.log2 x.den : Int)
  let m := if k ≥ 0 then x.shr k.toNat else x.shl (-k).toNat
  k * ln2Fix + lnNear m

/-- An NTC reading from its two codes: failed, or its temperature; none inside where the formula has no value. -/
def State.ntcTemp (s : State) (i codeN codeR : Nat) : Option (Option Int) :=
  let rpu := f32.frac (s.num R.THM_NTC_RPU)
  let r25 := f32.frac (s.num (R.THM_Sn_R25 i))
  let b := f32.frac (s.num (R.THM_Sn_B i))
  -- v / (va - v) with the common factor 1.6 / 65536 taken out
  if 2 * codeR ≤ codeN then none
  else
    let r := rpu.mul (Frac.mk' codeN (2 * codeR - codeN))
    if r.blt (Frac.ofNat 10) || (Frac.ofNat 10000000).blt r then none
    else if r25.num ≤ 0 || b.num = 0 then some none
    else
      let l := (Frac.ofInt (lnFix (r.div r25))).shr 64
      let inv := (Frac.mk' 20 5963).add (l.div b)
      if inv.num ≤ 0 then some none
      else
        let t16 := (((Frac.one.div inv).sub (Frac.mk' 27315 100)).mul (Frac.ofNat 16)).floor
        if t16 < -32768 || 32766 < t16 then some none else some (some t16)

/-- A reading of an NTC from the codes of its channel and of channel 18 (R498, R499). -/
def State.ntcReading (s : State) (i : Nat) (n r : HkRes) : State :=
  if n.ovr || r.ovr then s.sensorFail i
  else match s.ntcTemp i n.code r.code with
    | none => s.sensorFail i
    | some (some t16) => (s.useFree).sensorValid i (t16 + (b2n (Config.freeRound s.free) : Int))
    | some none => (s.useFree).sensorValid i (Config.freeTemp s.free).toInt

/-- A reading at the time it falls due (R498 to R500). Sensors 0 to 5 give `t` and `bad`; an NTC takes the housekeeping
conversions of its channel and of channel 18 made since it fell due. -/
def State.sensorReading (s : State) (i : Nat) (t : Int) (bad : Bool) : State :=
  let due := (s.sensor i).due
  if !s.sensorEn i then s
  else if i < 6 then
    let s1 := s.runToTick due
    (if bad || t < -60 * 16 || 180 * 16 < t then s1.sensorFail i else s1.sensorValid i t).sensorNext i
  else
    let a := s.get F.ADC_HK_ADC
    match s.adcHk a (s.get (F.THM_Sn_CFG_CH i)), s.adcHk a 18 with
    | some n, some r =>
      if Nat.blt n.done due || Nat.blt r.done due then s else (s.ntcReading i n r).sensorNext i
    | _, _ => s

/-! ### The commands -/

def execSensorReading (sensor : Fin 14) (t : Int) (bad : Bool) (s : State) : Host.Outcome State Fault Refusal :=
  .next (s.live fun s => s.sensorReading sensor.val t bad)

/-- A pending record is written once SRAM_INIT has ended (R506). -/
def execLogWrite (s : State) : Host.Outcome State Fault Refusal :=
  .next (s.live fun s => s.when (s.stage != Stage.sramInit) (·.logWrite))

def execLogSelWrite (v : BitVec 8) (s : State) : Host.Outcome State Fault Refusal :=
  .next (s.live fun s => s.logSel v.toNat)

def execLogReadDone (s : State) : Host.Outcome State Fault Refusal :=
  .next (s.live fun s => s.logReadDone)

end Sys2Proof.Machine
end

