-- ==== Sys2Proof/Machine/Power.lean ====
section
/-! DEFINITION. Machine/Power.lean: supplies and reset (R63 to R72), the vault domain (R73 to R76), the clock root and
the reference (R77 to R90, R582).
Marked choices: log entries 3, 5, 6, 8, 13, 53 (DESIGN CHOICE); log entry 29 (DEDUCED). -/
namespace Sys2Proof.Machine

/-! ### Reset -/

/-- Registers no reset clears: the fuses and the vault's (R71, R91, R120); PROV_ERR is no fuse (R568). -/
def keepsReset (a : Nat) : Bool :=
  a == R.SYS_VSEC_LO || a == R.SYS_VSEC_HI || a == R.SYS_VAULT_STAT || a == R.IMG_FLOOR || a == R.IMG_OWNER_STAT ||
    Nat.ble (R.IMG_OWNER_DIG 0) a && Nat.ble a (R.IMG_OWNER_DIG 7)

/-- An update command that is stopped leaves what it has done so far in the slot (R115): the first bytes of its range, how
many is free. The state sector is erased first, and PROGRAM leaves it as it is. -/
def State.updPart (s : State) (c : UpdCmd) (n : Nat) : State :=
  let i := 1 - s.get F.IMG_STAT_SLOT
  let b := slotBase s.flash i
  match c with
  | .erase => { s with flash := flashErase s.flash b (Nat.min n (slotSize s.flash)) }
  | .program src len =>
    let l := (List.range (Nat.min n len)).map fun k => s.byte (src + k)
    let f1 := flashProgram s.flash b (l.take stateSector)
    { s with flash := flashProgram f1 (b + stateSector + stateSectorLen) (l.drop (stateSector + stateSectorLen)) }
  | .verify => s

/-- A running update command stops. -/
def State.updStop (s : State) : State :=
  match s.img.upd with
  | none => s
  | some c =>
    let s1 := (s.updPart c (Config.freeCount s.free)).useFree
    { s1 with img := { s1.img with upd := none } }

/-- A reset (R71): the vault domain, the fuses and the flash survive every source; all but a POR keep the lockout latch
and SYS_RST_CAUSE. `pg`: the node stays in power good. -/
def State.resetNode (s : State) (por pg : Bool) : State :=
  let s := s.updStop
  let cause := s.rd R.SYS_RST_CAUSE
  let base : State :=
    { regs := s.regs.filter fun e => keepsReset e.1
      sys := { powerGood := pg }
      vault := s.vault
      clk := { root := if pg then .search else .off, refin := s.clk.refin }
      flash := s.flash
      vendorKey := s.vendorKey
      fuse := s.fuse
      flt := { lockout := s.flt.lockout && !por }
      out := s.out
      free := s.free
      pending := s.pending }
  let s1 := base.setFlag F.IMG_OWNER_STAT_PROV_ERR false
  if por then s1 else s1.wr R.SYS_RST_CAUSE cause

def railId : Rail → Nat
  | .vsram => 1
  | .vlane => 2
  | .vlaneh => 3
  | .vio18 => 4
  | .vio33 => 5
  | .vana => 6

/-- Release of reset (R28, R68, R102, R183, R368, R484): power good and a locked root. -/
def State.release (s : State) (straps : Nat) (dbgsel : Bool) : State :=
  if !s.sys.inReset || !s.sys.powerGood || s.clk.root != .locked then s
  else
    let s1 := { s with sys := { s.sys with inReset := false, dbgsel := dbgsel, up := 0 } }
    let s2 := s1.put F.SYS_ADDR_POS straps
    let s3 := if s2.vault.lost then
        ({ s2 with vault := { s2.vault with lost := false } }).setFlag F.SYS_VAULT_STAT_LOST true |>.logScan
      else s2
    let n := (s3.vault.series + 1) % 2 ^ 32
    let m := ({ s3 with vault := { s3.vault with series := n }
                        mtr := { s3.mtr with lostStart := s3.flag F.SYS_VAULT_STAT_LOST } }).wrN R.MTR_SERIES n
    let s4 := { m.logRefresh with dpx := { m.logRefresh.dpx with healthAt := m.lnow + 1250000000 } }
    if s4.flt.lockout then (s4.toStage Stage.lockout).lanesBoot else s4.toStage Stage.sramInit

/-! ### Vault -/

/-- One second of the vault's counter (R74). -/
def State.vaultSecond (s : State) : State :=
  let n := s.vault.sec + 1
  ({ s with vault := { s.vault with sec := n } }).wrN R.SYS_VSEC_LO (n.toNat % 2 ^ 32)

/-- A tamper pulse (R76): an event at the second successive pulse that did not return. The spec names no register or image
field that enables the monitor, so every pulse is one of an enabled monitor; "if the node is running" is read as "not in
reset" (log entry 6, DESIGN CHOICE). -/
def State.tamperPulse (s : State) (returned : Bool) : State :=
  let n := if returned then 0 else s.vault.missed + 1
  let s1 := { s with vault := { s.vault with missed := Nat.min 3 n } }
  if n = 2 then
    let s2 := s1.setFlag F.SYS_VAULT_STAT_TAMPER true
    let s3 := s2.logEvent 3 0 (s2.rd R.SYS_VAULT_STAT)
    if s3.sys.inReset then s3 else s3.raise { code := 0x0108, cls := 1, scope := .node }
  else s1

/-- Both VBAT and VIO33 have been absent (R74): the event log itself is kept. -/
def State.vaultLost (s : State) : State :=
  if !s.sys.inReset then s
  else
    let s1 := { s with vault := { logMem := s.vault.logMem, lost := true } }
    ((s1.wr R.SYS_VAULT_STAT 0).wr R.SYS_VSEC_LO 0).wr R.SYS_VSEC_HI 0

/-! ### Clock root -/

/-- OFF to SEARCH: power good and REFIN valid (R78). -/
def State.rootStart (s : State) : State :=
  if s.clk.root == .off && s.sys.powerGood && s.clk.refin then s.setRoot .search else s

/-- Lock is declared (R77, R78), with a band that is not fixed; a HEAD that waited has found its reference (R89). -/
def State.lockDeclared (s : State) : State :=
  if s.clk.root == .search && s.clk.refin then
    let s1 := { s with clk := { s.clk with refWait := none } }
    ((s1.put F.CLK_STAT_BAND (Config.freeBand s.free).toNat).useFree).setRoot .locked
  else s

/-- Loss of REFIN (R78, R79). -/
def State.lossOfRefin (s : State) : State :=
  let s1 := { s with clk := { s.clk with refin := false } }
  if s.clk.root == .locked || s.clk.root == .reacquire then
    let s2 := s1.setRoot .holdover
    if s.clk.refWait.isSome then s2
    else
      let s3 := { s2 with clk := { s2.clk with holdAt := some s2.sys.up } }
      if s3.sys.inReset then s3 else s3.raise { code := 0x0105, cls := 1, scope := .node }
  else s1

/-- The root pulls towards a reference `ppm` away (R80). -/
def State.reacquire (s : State) (ppm : Frac) : State :=
  ({ s with clk := { s.clk with refin := true, holdAt := none, refWait := none, fErr := ppm, absorbed := false } }).setRoot
    .reacquire

/-- REFIN returns, `mppm` thousandths of a ppm away from the held frequency (R78, R79, R89): within ±100 ppm a root in
HOLDOVER reacquires, and a waiting HEAD has found its reference; outside it is ignored. -/
def State.refinReturn (s : State) (mppm : Int) : State :=
  if s.clk.root == .holdover then s.when (Nat.ble mppm.natAbs 100000) (·.reacquire (Frac.mk' mppm 1000))
  else ({ s with clk := { s.clk with refin := true } }).rootStart

/-- Base ticks until a root in REACQUIRE is within 0.05 ppm of its reference (R80). -/
def State.pullTicks (s : State) : Nat :=
  let left := s.clk.fErr.abs.sub (Frac.mk' 5 100)
  if left.num < 0 then 0 else (left.div (s.slewStep.mul (Frac.ofNat 1000000))).floor.toNat + 1

/-- The frequency error falls below 0.05 ppm (R80): the pull runs on to that moment. -/
def State.reacquired (s : State) : State :=
  s.when (s.clk.root == .reacquire && (s.clk.fErr.abs.blt (Frac.mk' 5 100) || s.get F.CLK_SLEW_SLOPE != 0)) fun s =>
    (s.runTicks s.pullTicks).setRoot .locked

/-- Loss of lock (R78, R81); in REACQUIRE it is checked only once the phase step has been absorbed. -/
def State.lossOfLock (s : State) : State :=
  if s.clk.root == .locked || s.clk.root == .holdover || s.clk.root == .reacquire && s.clk.absorbed then
    let s1 := ({ s with clk := { s.clk with holdAt := none } }).setRoot .search
    if s1.sys.inReset then s1
    else ((s1.loseTimebase).raise { code := 0x0107, cls := 3, scope := .node }).leaveService false
  else s

/-- HOLD_MAX expires, that many ms after the entry to HOLDOVER (R79, R582). -/
def State.holdMax (s : State) : State :=
  match s.clk.holdAt with
  | some t =>
    if s.clk.root == .holdover then
      let s0 := s.runUp (t + msTicks (s.get F.CLK_HOLD_HOLD_MAX))
      let s1 := { s0 with clk := { s0.clk with holdAt := none } }
      if s1.inService then s1.raise { code := 0x0106, cls := 3, scope := .node } else s1.holdOut
    else s
  | none => s

/-- A HEAD starts its wait for a reference at binding (R89); a single HEAD is its own source (R88). The root is put into
HOLDOVER from whatever state it holds, SEARCH included, of which the spec does not speak (log entry 53, DESIGN CHOICE). -/
def State.refWaitStart (s : State) : State :=
  if !s.isHead then s
  else if s.flag F.CLK_CTRL_REFSEL_EN then
    ({ s with clk := { s.clk with refselHigh := false, refWait := some s.sys.up, refin := false } }).setRoot .holdover
  else if s.flag F.SYS_ROLE_SINGLE then s.setFlag F.CLK_STAT_SOURCE true
  else s

/-- Length of the reference wait in ms: 10 at 0x00, 200 at 0x01 (R89). -/
def State.refWaitMs (s : State) : Nat := if s.pos = 0 then 10 else 200

/-- The wait ends without a reference (R89): the HEAD relocks and becomes the source. -/
def State.refWaitEnd (s : State) : State :=
  match s.clk.refWait with
  | none => s
  | some t =>
    let s0 := s.runUp (t + msTicks s.refWaitMs)
    let s1 := { s0 with clk := { s0.clk with refselHigh := true, cko0Auto := true } }
    (s1.setFlag F.CLK_STAT_SOURCE true).slewTarget.rootSearch

/-- A new primary takes the reference source with its role (R90): its root reacquires towards its own oscillator, whose
distance is a free value, and w(t) starts from zero towards the servo's term (R86, R189). -/
def State.takeSource (s : State) : State :=
  if !s.flag (F.CLK_CKOn_CFG_AUTO 0) || s.flag F.CLK_STAT_SOURCE then s
  else
    let s1 := { s with clk := { s.clk with cko0Auto := true, refselHigh := true, w := Frac.zero, wTarget := Frac.zero } }
    let s2 := (s1.setFlag F.CLK_STAT_SOURCE true).slewTarget
    if s2.clk.root == .locked || s2.clk.root == .holdover then
      s2.useFree.reacquire (Frac.mk' (sgn 16 (Config.freePpm s2.free).toNat) 1000)
    else s2

/-- The clock output n runs (R70, R87, R90). -/
def State.ckoOn (s : State) (n : Nat) : Bool :=
  !s.sys.inReset && ckoDivOk (s.get (F.CLK_CKOn_CFG_FMT n)) (s.get (F.CLK_CKOn_CFG_DIV n)) &&
    (n = 0 && s.clk.cko0Auto ||
      s.flag (F.CLK_CKOn_CFG_EN n) && !(n = 0 && s.flag (F.CLK_CKOn_CFG_AUTO 0)))

/-! ### The commands -/

def execPowerOnReset (s : State) : Host.Outcome State Fault Refusal := .next (s.resetNode true false)

def execRailReset (rail : Rail) (s : State) : Host.Outcome State Fault Refusal :=
  .next (((s.resetNode false false).setFlag F.SYS_RST_CAUSE_RAIL true).put F.SYS_RST_CAUSE_RAIL_ID (railId rail))

def execPginReset (s : State) : Host.Outcome State Fault Refusal :=
  .next ((s.resetNode false false).setFlag F.SYS_RST_CAUSE_PGIN true)

def execPinReset (s : State) : Host.Outcome State Fault Refusal :=
  .next ((s.resetNode false false).setFlag F.SYS_RST_CAUSE_PIN true)

def State.rstCtrlWrite (s : State) (m : Master) (v : Nat) : State :=
  if bits v 16 16 != 0xA5C3 then s
  else if s.asMp m then { s with sys := { s.sys with softPend := true } }
  else s.violation m true R.SYS_RST_CTRL

def execRstCtrlWrite (m : Master) (v : Word) (s : State) : Host.Outcome State Fault Refusal :=
  .next (s.byMaster m fun s => s.rstCtrlWrite m v.toNat)

/-- The software reset of R72. -/
def State.softReset (s : State) : State := (s.resetNode false true).setFlag F.SYS_RST_CAUSE_SOFT true

def execSoftReset (s : State) : Host.Outcome State Fault Refusal :=
  .next (s.live fun s => s.when s.sys.softPend (·.softReset))

def execReleaseOfReset (straps : BitVec 8) (dbgsel : Bool) (s : State) : Host.Outcome State Fault Refusal :=
  .next (s.release straps.toNat dbgsel)

def execVaultSwitchOver (toBat : Bool) (s : State) : Host.Outcome State Fault Refusal :=
  .next (s.setFlag F.SYS_VAULT_STAT_ONBAT toBat)

def execVaultSecond (s : State) : Host.Outcome State Fault Refusal := .next s.vaultSecond

def execXtalFail (s : State) : Host.Outcome State Fault Refusal := .next (s.setFlag F.SYS_VAULT_STAT_XTAL_FAIL true)

def execTamperPulse (returned : Bool) (s : State) : Host.Outcome State Fault Refusal := .next (s.tamperPulse returned)

def execVaultStateLost (s : State) : Host.Outcome State Fault Refusal := .next s.vaultLost

/-- Power good (R67); it starts the root when REFIN is valid (R78). -/
def execPowerGood (s : State) : Host.Outcome State Fault Refusal :=
  .next (s.when s.sys.inReset fun s => ({ s with sys := { s.sys with powerGood := true } }).rootStart)

def execRefinValid (s : State) : Host.Outcome State Fault Refusal :=
  .next (({ s with clk := { s.clk with refin := true } }).rootStart)

def execLockDeclared (s : State) : Host.Outcome State Fault Refusal := .next s.lockDeclared

def execLossOfRefin (s : State) : Host.Outcome State Fault Refusal := .next s.lossOfRefin

def execRefinReturn (mppm : Int) (s : State) : Host.Outcome State Fault Refusal := .next (s.refinReturn mppm)

def execReacquireComplete (s : State) : Host.Outcome State Fault Refusal := .next s.reacquired

def execLossOfLock (s : State) : Host.Outcome State Fault Refusal := .next s.lossOfLock

def execHoldMaxExpiry (s : State) : Host.Outcome State Fault Refusal := .next (s.live fun s => s.holdMax)

def execReferenceWaitEnd (s : State) : Host.Outcome State Fault Refusal := .next (s.live fun s => s.refWaitEnd)

end Sys2Proof.Machine
end

