-- ==== Sys2Proof/Machine/SafetyUnit.lean ====
section
/-! DEFINITION. Machine/SafetyUnit.lean: the safety unit (R427 to R453, R584): safe inputs and test pulses, the local
path, station decisions at the HEADs, SAFE windows at every node, the pulse inhibit and the safe outputs.
Marked choices: log entry 28 (DEDUCED). -/
namespace Sys2Proof.Machine

/-- The unit is in service (R584). -/
def State.safEn (s : State) : Bool := s.flag F.SAF_CTRL_EN

def State.safIn (s : State) (n : Nat) : SafIn := Bank.at {} s.saf.inp n
def State.setSafIn (s : State) (n : Nat) (v : SafIn) : State :=
  { s with saf := { s.saf with inp := Bank.upd {} s.saf.inp n v } }
def State.safHead (s : State) (h : Nat) : SafHead := Bank.at {} s.saf.head h
def State.setSafHead (s : State) (h : Nat) (v : SafHead) : State :=
  { s with saf := { s.saf with head := Bank.upd {} s.saf.head h v } }
def State.safWord (s : State) (p : Nat) : SafWord := Bank.at {} s.saf.words p
def State.setSafWord (s : State) (p : Nat) (v : SafWord) : State :=
  { s with saf := { s.saf with words := Bank.upd {} s.saf.words p v } }

def State.siType (s : State) (n : Nat) : Nat := s.get (F.SAF_SIn_CFG_TYPE n)
def State.siEn (s : State) (n : Nat) : Bool := s.flag (F.SAF_SIn_CFG_EN n)

/-- The state of a test source (R427, R584): on but in its gap, at its current limit, and while the unit is not in service. -/
def State.sourceOn (s : State) (x : Nat) : Bool :=
  s.safEn && !(if x = 0 then s.saf.gapA else s.saf.gapB) && !bit s.saf.limit x

/-- 10 µs, 0.1 ms and TP_PER in base ticks (R427, R429, R444). -/
def samTicks : Nat := 15625
def decTicks : Nat := 156250
def State.tpPer (s : State) : Nat := msTicks (s.get F.SAF_TP_CFG_TP_PER)

/-- The next instant of a schedule of period `per` after base tick `now`, its last one due at `t` ≤ `now`. -/
def nextOf (t per now : Nat) : Nat := t + ((now - t) / per + 1) * per

/-- Consecutive cycles of R438 and R443. -/
def State.stoN (s : State) : Nat := Nat.max 1 (s.get F.SAF_CTRL_STO)

/-! ### Pulse inhibit and safe outputs -/

/-- SFs named by any action (R446). -/
def State.safActs (s : State) : Nat := s.get F.SAF_ACT_INH_SF ||| s.get F.SAF_ACT_SO0_SF ||| s.get F.SAF_ACT_SO1_SF

/-- A local demand is set (R444). -/
def State.safLocal (s : State) : Bool := s.saf.locInh || s.saf.loc0 || s.saf.loc1

/-- A cause of the pulse inhibit holds (R445), or the channels of the local logic disagree (R444, R449). -/
def State.safInhibit (s : State) : Bool :=
  s.safEn && (s.saf.dem &&& s.get F.SAF_ACT_INH_SF != 0 || s.saf.locInh || s.saf.disagree ||
    s.flag F.SAF_STAT_STO_LOSS || s.flag F.SAF_STAT_INIT)

/-- The inhibit changes: after its release a channel turns on only at its next turn-on edge, and a bypass leg follows
the lattice from its next edge (R324, R445). -/
def State.setInhibit (s : State) (on : Bool) : State :=
  let was := s.flag F.SAF_STAT_INH
  let s1 := s.setFlag F.SAF_STAT_INH on
  let rel := fun (n : Nat) (sw : Sw) (s : State) =>
    if s.bypassLeg n then s.modGate n sw fun g => { g with needEdge := !s.swCmd n sw } else s.waitEdge n sw
  let s2 := if was && !on then forUpTo 6 (fun n s => rel n .high (rel n .low s)) s1 else s1
  forUpTo 6 (fun n s => s.gateRefresh n) s2

def soOnFld (x : Nat) : Fld := if x = 0 then F.SAF_STAT_SO0_ON else F.SAF_STAT_SO1_ON
def soEnFld (x : Nat) : Fld := if x = 0 then F.SAF_SO_CFG_SO0_EN else F.SAF_SO_CFG_SO1_EN
def soActFld (x : Nat) : Fld := if x = 0 then F.SAF_ACT_SO0_SF else F.SAF_ACT_SO1_SF

/-- SOx may be on (R446, R447). -/
def State.soWant (s : State) (x : Nat) : Bool :=
  let loc := if x = 0 then s.saf.loc0 else s.saf.loc1
  s.safEn && s.flag (soEnFld x) && s.saf.dem &&& s.get (soActFld x) == 0 && !loc && !s.flag F.SAF_STAT_VAUX_UV &&
    !s.flag F.SAF_STAT_STO_LOSS && !s.flag F.SAF_STAT_INIT && !s.flag F.SAF_STAT_SOFLT

/-- Switch SOx, both channels; a dark test keeps its channel off (R447). The EDM check follows after EDM_T (R448). -/
def State.setSo (s : State) (x : Nat) (on : Bool) : State :=
  let s1 := s.setFlag (soOnFld x) on
  let ch := fun (m c : Nat) => setBit m (2 * x + c) (on && !bit s.saf.dark (2 * x + c))
  let t := some (s.sys.up + msTicks (10 * s.get F.SAF_SO_CFG_EDM_T))
  { s1 with saf := { s1.saf with
    so := ch (ch s1.saf.so 0) 1
    edm0 := if x = 0 then t else s1.saf.edm0
    edm1 := if x = 0 then s1.saf.edm1 else t } }

/-- The actions that follow from the demands (R445, R447). -/
def State.safRefresh (s : State) : State :=
  let s1 := s.setFlag F.SAF_STAT_LOCAL_DEM s.safLocal
  let s2 := if s1.safInhibit == s1.flag F.SAF_STAT_INH then s1 else s1.setInhibit s1.safInhibit
  forUpTo 2 (fun x s => if s.soWant x == s.flag (soOnFld x) then s else s.setSo x (s.soWant x)) s2

/-- Every SF with LATCH = 1 and EN = 1. -/
def State.latchMask (s : State) : Nat :=
  maskOf 16 fun k => s.flag (F.SAF_SFk_CFG_EN k) && s.flag (F.SAF_SFk_CFG_LATCH k)

/-- Binding (R439, R446, R584). -/
def State.safBind (s : State) : State :=
  if !s.safEn then
    let s1 := s.wr R.SAF_STAT 0
    s1.setInhibit false
  else
    let active := s.isHead && s.flag F.SYS_ROLE_SINGLE
    let s1 := s.put F.SAF_STAT_HSTATE (if !s.isHead then 0 else if active then 2 else 1)
    let s2 := s1.setFlag F.SAF_STAT_INIT true
    let t := s.sys.up
    let s3 := { s2 with saf := { s2.saf with
      latched := if active then s2.latchMask else 0
      dueA := t + s.tpPer, dueB := t + s.tpPer + s.tpPer / 2, smpAt := t, evalAt := t } }
    s3.safRefresh

/-! ### Inputs -/

/-- The bits of the input word (R434, R440). -/
def State.safBit (s : State) (n : Nat) : Bool :=
  let i := s.safIn n
  s.siEn n && (match s.siType n with
    | 0 => i.dem || i.fault
    | 1 => !i.dem
    | _ => false)

/-- Item 0xFF00 as the inputs are now (R440). -/
def State.inputWord (s : State) : Word :=
  BitVec.ofNat 32 (maskOf 8 s.safBit + maskOf 8 (fun n => s.siEn n && (s.safIn n).fault) * 256)

/-- Item 0xFF01 as the unit is now (R440). -/
def State.statusWord (s : State) : Word :=
  BitVec.ofNat 32 (b2n (s.flag F.SAF_STAT_INH) + 2 * b2n (s.flag F.SAF_STAT_SO0_ON) + 4 * b2n (s.flag F.SAF_STAT_SO1_ON) +
    8 * b2n (s.flag F.SAF_STAT_VAUX_UV) + 16 * b2n (s.flag F.SAF_STAT_STO_LOSS) + 32 * b2n s.safLocal)

/-- SAF_IN_STAT from the inputs (R453); an EDM input shows pressed while it reads closed. -/
def State.inStat (s : State) : State :=
  let s1 := s.put F.SAF_IN_STAT_DEM (maskOf 8 fun n =>
    s.safBit n || s.siEn n && s.siType n == 2 && !(s.safIn n).dem)
  s1.put F.SAF_IN_STAT_FAULT (maskOf 8 fun n => s.siEn n && (s.safIn n).fault)

/-- An input takes a TEST or DISC fault, which is latched (R430, R432, R433). -/
def State.inputFault (s : State) (n : Nat) : State :=
  let i := s.safIn n
  let s1 := s.setSafIn n { i with fault := true, stage := 1, run := 0, disc := 0 }
  if i.fault then s1
  else s1.raise { code := 0x0E01, cls := 1, scope := .node, kind := 8, inst := n, ended := false }

def State.inputClear (s : State) (n : Nat) : State :=
  (s.setSafIn n { s.safIn n with fault := false, stage := 0, run := 0 }).endCause 0x0E01 n

/-- One sample of input n at levels a and b (R429 to R433). -/
def State.sampleInput (s : State) (n : Nat) (a b : Bool) : State :=
  if !s.siEn n then s
  else
    let i := s.safIn n
    let chk := s.flag (F.SAF_SIn_CFG_TP_CHK n)
    let ma := chk && (s.saf.gapA || Nat.blt s.sys.up s.saf.maskA)
    let mb := chk && (s.saf.gapB || Nat.blt s.sys.up s.saf.maskB)
    let low := !ma && !a || !mb && !b
    let filt := 10 * s.get (F.SAF_SIn_CFG_FILT n)
    let lo := if ma && mb then i.lo else if low then i.lo + 1 else 0
    let hi := if ma && mb then i.hi else if low then 0 else i.hi + 1
    let dem := if !i.dem && Nat.ble filt lo then true else if i.dem && Nat.ble filt hi then false else i.dem
    let free := !ma && !mb
    let disc := if free then (if a != b then i.disc + 1 else 0) else i.disc
    let j := { i with lo := lo, hi := hi, dem := dem, disc := disc, lastA := a, lastB := b }
    let s1 := s.setSafIn n j
    if Nat.ble (1000 * s.get (F.SAF_SIn_CFG_DISC n)) disc then s1.inputFault n
    else match i.stage with
      | 1 =>
        let run := if free then (if !a && !b then i.run + 1 else 0) else i.run
        if Nat.ble filt run then s1.setSafIn n { j with stage := 2, run := 0 } else s1.setSafIn n { j with run := run }
      | 2 =>
        let run := if free then (if a && b then i.run + 1 else 0) else i.run
        if Nat.ble filt run then
          (if chk then s1.setSafIn n { j with stage := 3, run := 0 } else s1.inputClear n)
        else s1.setSafIn n { j with run := run }
      | 3 =>
        if Nat.ble (100 * s.get F.SAF_TP_CFG_TP_PER) (i.run + 1) then s1.inputClear n
        else s1.setSafIn n { j with run := i.run + 1 }
      | _ => s1

/-- The sample of every channel, every 10 µs (R429); with VAUX_UV every input reads low (R435). -/
def State.safSample (s : State) (a b : Nat) : State :=
  if !s.safEn then s
  else
    let s := s.runUp s.saf.smpAt
    let uv := s.flag F.SAF_STAT_VAUX_UV
    let a := if uv then 0 else a
    let b := if uv then 0 else b
    let s1 := (s.put F.SAF_IN_STAT_A a).put F.SAF_IN_STAT_B b
    let s2 := forUpTo 8 (fun n s => s.sampleInput n (bit a n) (bit b n)) s1
    { s2 with saf := { s2.saf with smpAt := nextOf s2.saf.smpAt samTicks s2.sys.up } }.inStat

/-- A gap begins at its time of the unit's own schedule (R427). -/
def State.gapStart (s : State) (x : Nat) : State :=
  let open' := if x = 0 then s.saf.gapA else s.saf.gapB
  if !s.safEn || !s.flag F.SAF_TP_CFG_EN || open' then s
  else
    let t := s.runUp (if x = 0 then s.saf.dueA else s.saf.dueB)
    if x = 0 then { t with saf := { t.saf with gapA := true, atA := t.sys.up, dueA := nextOf t.saf.dueA t.tpPer t.sys.up } }
    else { t with saf := { t.saf with gapB := true, atB := t.sys.up, dueB := nextOf t.saf.dueB t.tpPer t.sys.up } }

/-- A gap ends TP_GAP after its start (R427, R429, R430): an enabled, checked input whose last sample reads high has a
TEST fault; the mask lasts t_REC longer. -/
def State.gapEnd (s : State) (x : Nat) : State :=
  let open' := if x = 0 then s.saf.gapA else s.saf.gapB
  if !open' then s
  else
    let s := s.runUp ((if x = 0 then s.saf.atA else s.saf.atB) + decTicks * s.get F.SAF_TP_CFG_TP_GAP)
    let s1 := forUpTo 8 (fun n s =>
      let i := s.safIn n
      if s.siEn n && s.flag (F.SAF_SIn_CFG_TP_CHK n) && (if x = 0 then i.lastA else i.lastB) then
        (s.bumpReg R.SAF_CNT_TEST).inputFault n
      else s) s
    let lim := setBit s1.saf.limit x false
    (if x = 0 then { s1 with saf := { s1.saf with gapA := false, maskA := s1.sys.up + decTicks, limit := lim } }
     else { s1 with saf := { s1.saf with gapB := false, maskB := s1.sys.up + decTicks, limit := lim } }).inStat

/-- A source at its current limit switches off until the end of its next gap (R427). -/
def State.sourceLimit (s : State) (x : Nat) : State :=
  if !s.sourceOn x then s
  else
    let s1 := { s with saf := { s.saf with limit := setBit s.saf.limit x true } }
    s1.raise { code := 0x0E02, cls := 1, scope := .node }

def State.vauxUv (s : State) : State :=
  if !s.safEn || s.flag F.SAF_STAT_VAUX_UV then s
  else
    let s1 := (s.setFlag F.SAF_STAT_VAUX_UV true).safRefresh
    s1.raise { code := 0x0E03, cls := 1, scope := .node, ended := false }

def State.vauxOk (s : State) : State :=
  if !s.flag F.SAF_STAT_VAUX_UV then s
  else ((s.setFlag F.SAF_STAT_VAUX_UV false).endCause 0x0E03 0).safRefresh

/-- The local evaluation of every t_LEV (R444); `agree`: its two channels agree. -/
def State.localEval (s : State) (agree : Bool) : State :=
  if !s.safEn then s
  else
    let s := s.runUp s.saf.evalAt
    let names := fun (f : Nat → Fld) => (List.range 8).any fun n =>
      s.siEn n && s.siType n == 0 && s.safBit n && s.flag (f n)
    let s1 := { s with saf := { s.saf with
      disagree := !agree
      locInh := names F.SAF_SIn_CFG_LINH
      loc0 := names F.SAF_SIn_CFG_LSO0
      loc1 := names F.SAF_SIn_CFG_LSO1
      evalAt := nextOf s.saf.evalAt decTicks s.sys.up } }
    let s2 := s1.safRefresh
    if agree then (if s.saf.disagree then s2.endCause 0x0E07 0 else s2)
    else if s.saf.disagree then s2
    else s2.raise { code := 0x0E07, cls := 3, scope := .node, ended := false }

/-! ### Safe outputs -/

/-- A readback, dark-test or EDM failure (R447, R448). -/
def State.soFail (s : State) : State :=
  if s.flag F.SAF_STAT_SOFLT then s
  else
    let s1 := (s.setFlag F.SAF_STAT_SOFLT true).safRefresh
    s1.raise { code := 0x0E08, cls := 3, scope := .node }

/-- A dark test of channel c of the outputs that are on begins, at the start of the gap of its source, or ends (R447). -/
def State.darkTest (s : State) (c : Nat) (off : Bool) : State :=
  let start := if c = 0 then s.saf.gapA && s.saf.atA == s.sys.up else s.saf.gapB && s.saf.atB == s.sys.up
  if !s.safEn || off && !start then s
  else forUpTo 2 (fun x s =>
    let k := 2 * x + c
    if off then
      (if s.flag (soOnFld x) then
        { s with saf := { s.saf with dark := setBit s.saf.dark k true, so := setBit s.saf.so k false } }
       else s)
    else if bit s.saf.dark k then
      { s with saf := { s.saf with dark := setBit s.saf.dark k false, so := setBit s.saf.so k (s.flag (soOnFld x)) } }
    else s) s

/-- The readback of a channel (R447): below 5 V when off, above VAUX24 − 2 V when on. -/
def State.soReadback (s : State) (x c : Nat) (below5 aboveV : Bool) : State :=
  if !s.safEn then s
  else if bit s.saf.so (2 * x + c) then (if aboveV then s else s.soFail)
  else if below5 then s else s.soFail

/-- The EDM input of SOx is checked EDM_T after its switching (R448): closed while SOx is off, open while it is on. -/
def State.edmCheck (s : State) (x : Nat) : State :=
  let en := if x = 0 then s.flag F.SAF_SO_CFG_EDM0_EN else s.flag F.SAF_SO_CFG_EDM1_EN
  let n := if x = 0 then s.get F.SAF_SO_CFG_EDM0_IN else s.get F.SAF_SO_CFG_EDM1_IN
  match if x = 0 then s.saf.edm0 else s.saf.edm1 with
  | none => s
  | some t =>
    let u := s.runUp t
    let s1 := { u with saf := { u.saf with
      edm0 := if x = 0 then none else u.saf.edm0, edm1 := if x = 0 then u.saf.edm1 else none } }
    let closed := !(s1.safIn n).dem
    if !s1.safEn || !en then s1
    else if closed == s1.flag (soOnFld x) then s1.soFail else s1

/-! ### Station safety functions at a HEAD -/

/-- The members of the station table. -/
def State.memberPositions (s : State) : List Nat :=
  (s.img.image.table.filter fun e => Nat.ble 2 e.role).map (·.pos.toNat)

/-- A member's safety item is taken: the earliest valid copy of each ring (R168, R438). -/
def State.takeSafeItem (s : State) (origin : Nat) (r : Ring) (idx : Nat) (v : Word) : State :=
  if s.saf.up.any fun e => e.1 == origin && e.2.1 == r && e.2.2.1 == idx then s
  else { s with saf := { s.saf with up := s.saf.up ++ [(origin, r, idx, v)] } }

def State.safCopy (s : State) (p : Nat) (r : Ring) (idx : Nat) : Option Word :=
  (s.saf.up.find? fun e => e.1 == p && e.2.1 == r && e.2.2.1 == idx).map (·.2.2.2)

/-- The comparison of one item of one position (R438): word used; the copies differ; only one ring. -/
def compareCopies (x y : Option Word) : Option Word × Bool × Bool :=
  match x, y with
  | some a, some b => (some (a ||| b), a != b, false)
  | some a, none => (some a, false, true)
  | none, some b => (some b, false, true)
  | none, none => (none, false, false)

/-- The comparison of every member's items at T_UP (R438). -/
def State.safCloseUplink (s : State) : State :=
  if !s.safEn || !s.isHead then s
  else
    let one := fun (s : State) (p : Nat) =>
      let pr := compareCopies (s.safCopy p .x 0xFF00) (s.safCopy p .y 0xFF00)
      let w := pr.1
      let d0 := pr.2.1
      let one0 := pr.2.2
      let pr := compareCopies (s.safCopy p .x 0xFF01) (s.safCopy p .y 0xFF01)
      let d1 := pr.2.1
      let one1 := pr.2.2
      let diff := fun (s : State) (d : Bool) =>
        if d then (s.bumpReg R.SAF_CNT_DISC).raiseLater { code := 0x0E04, cls := 1, scope := .node, kind := 6, inst := p } else s
      let k := s.safWord p
      let only := fun (s : State) (now was : Bool) =>
        if !now then s
        else
          let t := s.bumpReg R.SAF_CNT_SINGLE
          if was then t else t.raiseLater { code := 0x0E05, cls := 0, scope := .node, kind := 6, inst := p }
      let s1 := only (only (diff (diff s d0) d1) one0 k.single) one1 k.single1
      match w with
      | none =>
        let n := Nat.min 255 (k.lost + 1)
        s1.setSafWord p { lost := n, word := if Nat.ble n s1.stoN then k.word else none, single1 := one1 }
      | some v => s1.setSafWord p { word := some v, lost := 0, single := one0, single1 := one1 }
    let s1 := s.memberPositions.foldl one s
    { s1 with saf := { s1.saf with up := [] } }

/-- HEAD h contributes: it has a result no more than STO cycles old (R443). -/
def State.contributes (s : State) (h : Nat) : Bool := (s.safHead h).res.isSome && Nat.blt (s.safHead h).miss s.stoN

/-- The input word a HEAD uses for a position (R436, R438); none where each mapped input takes its LOSS value. -/
def State.decisionWord (s : State) (p : Nat) : Option Word :=
  if p = s.pos then some s.inputWord
  else if Nat.blt p 2 then
    (if s.contributes p then (s.safHead p).res.bind (·.w1) else none)
  else (s.safWord p).word

/-- SFs demanded by the inputs (R436). -/
def State.inputDemand (s : State) : Nat :=
  s.img.image.table.foldl (fun m e =>
    let p := e.pos.toNat
    let w := s.decisionWord p
    (List.range 8).foldl (fun m n =>
      let sf := s.get (F.SAF_POSp_MAPn_SF p n)
      let on := match w with
        | some v => v.getLsbD n
        | none => s.flag (F.SAF_POSp_MAPn_LOSS p n)
      if sf != 0 && on then m ||| sf else m) m) 0

/-- 0.1 s and 2.0 s in base ticks (R437). -/
def pressMin : Nat := 156250000
def pressMax : Nat := 3125000000

/-- The reset of SFk (R437): its press is timed, and a release is a reset when its conditions hold. -/
def State.sfReset (s : State) (k : Nat) (dem : Nat) : State :=
  let w := s.decisionWord (s.get (F.SAF_SFk_CFG_RST_POS k))
  let pressed := match w with
    | some v => v.getLsbD (s.get (F.SAF_SFk_CFG_RST_IN k))
    | none => false
  let was := Bank.at none s.saf.press k
  let setPress := fun (v : Option Nat) => { s with saf := { s.saf with press := Bank.upd none s.saf.press k v } }
  match was with
  | none => if pressed then setPress (some s.sys.up) else s
  | some t =>
    if pressed then s
    else
      let s1 := setPress none
      if w.isNone || !bit s.saf.latched k then s1
      else
        let d := s.sys.up - t
        if Nat.ble pressMin d && Nat.ble d pressMax && !bit dem k then
          { s1 with saf := { s1.saf with latched := setBit s1.saf.latched k false } }
        else s1.raise { code := 0x0E0A, cls := 0, scope := .station }

/-- The station demand in force (R443): the results of the HEADs that contribute. -/
def State.stationDemand (s : State) : Nat :=
  [0, 1].foldl (fun m h => if s.contributes h then
    (match (s.safHead h).res with | some r => m ||| r.w0.toNat % 65536 | none => m) else m) 0

/-- The demand word comes into force at the node (R443, R452). -/
def State.safApply (s : State) : State :=
  let v := s.stationDemand
  let changed := v != s.saf.dem
  let s1 := { s with saf := { s.saf with dem := v } }
  let s2 := if changed && s1.isPrimary then s1.raise { code := 0x0E0B, cls := 0, scope := .station } else s1
  s2.safRefresh

/-- A result of HEAD h (R442, R443). -/
def State.safResult (s : State) (h : Nat) (r : SafeCopy) : State :=
  let k := s.safHead h
  let s1 := s.setSafHead h { k with res := some r, miss := 0, got := true }
  let s2 := s1.put (if h = 0 then F.SAF_DEMAND_H0 else F.SAF_DEMAND_H1) (r.w0.toNat % 65536)
  let s3 := { s2 with saf := { s2.saf with seen := true } }
  let s4 := if s3.flag F.SAF_STAT_STO_LOSS then (s3.setFlag F.SAF_STAT_STO_LOSS false).endCause 0x0E06 0 else s3
  s4.safApply

/-- INIT clears when no action is demanded (R446). -/
def State.clearInit (s : State) (dem : Nat) : State :=
  if s.flag F.SAF_STAT_INIT && dem &&& s.safActs == 0 && !s.safLocal then
    (s.setFlag F.SAF_STAT_INIT false).safRefresh
  else s

/-- The decision at T_SAFE, once in a cycle (R161, R436, R437, R441, R446), and its SAFE codewords; cycle S has no safety
region (R108). -/
def State.safetyDecision (s : State) : State :=
  if !s.safEn || !s.isHead || s.get F.SAF_STAT_HSTATE != 2 || s.inCycleS || s.saf.decided then s
  else
    let s := s.runIn (s.ringOfs F.RNG_TIM_SAFE_PB_T F.RNG_TIM_SAFE_T)
    let en := maskOf 16 fun k => s.flag (F.SAF_SFk_CFG_EN k)
    let dem := s.inputDemand &&& en
    let s1 := { s with saf := { s.saf with latched := (s.saf.latched ||| (dem &&& s.latchMask)) &&& s.latchMask } }
    let s2 := forUpTo 16 (fun k s =>
      if s.flag (F.SAF_SFk_CFG_EN k) && s.flag (F.SAF_SFk_CFG_LATCH k) then s.sfReset k dem else s) s1
    let out := dem ||| s2.saf.latched
    let w0 : Word := BitVec.ofNat 32 (out + s2.saf.latched * 65536)
    let w1 := s2.inputWord
    let w2 := s2.statusWord
    let s3 := ({ s2 with saf := { s2.saf with decided := true } }).safResult s2.pos { w0 := w0, w1 := some w1, w2 := some w2 }
    let s4 := s3.clearInit out
    let n := s4.scn.toNat % 256
    s4.sendAll (s4.pos % 2) Ty.safe 0xFF n 3 (itemBody 0xFF80 0 s4.pos [some (w0, n), some (w1, n), some (w2, n)])

/-! ### SAFE windows -/

/-- The window of HEAD h closes with one copy, or two (R442). -/
def State.windowClose (s : State) (h : Nat) (a : SafeCopy) (b : Option SafeCopy) : State :=
  let k := s.safHead h
  let s1 := s.setSafHead h { k with win := none, shut := k.shut || k.winScn == s.scn, single := b.isNone }
  let (r, s2) :=
    match b with
    | none =>
      let t := s1.bumpReg R.SAF_CNT_SINGLE
      (a, if k.single then t else t.raiseLater { code := 0x0E05, cls := 0, scope := .node, kind := 6, inst := h })
    | some b =>
      let pr := compareCopies a.w1 b.w1
      let w1 := pr.1
      let d1 := pr.2.1
      let pr := compareCopies a.w2 b.w2
      let w2 := pr.1
      let d2 := pr.2.1
      let diff := fun (s : State) (d : Bool) =>
        if d then (s.bumpReg R.SAF_CNT_DISC).raiseLater { code := 0x0E04, cls := 1, scope := .node, kind := 6, inst := h } else s
      ({ w0 := a.w0 ||| b.w0, w1 := w1, w2 := w2 }, diff (diff (diff s1 (a.w0 != b.w0)) d1) d2)
  let s3 :=
    if s2.isHead then
      if s2.get F.SAF_STAT_HSTATE = 1 then
        { s2 with saf := { s2.saf with latched := r.w0.toNat / 65536, heard := true } }
      else match (s2.safHead s2.pos).res with
        | some mine =>
          if (mine.w0 ^^^ r.w0).toNat % 65536 = 0 then { s2 with saf := { s2.saf with diffRun := 0 } }
          else
            let n := s2.saf.diffRun + 1
            let t := { s2 with saf := { s2.saf with diffRun := n } }
            if n = 2 then t.raiseLater { code := 0x0E09, cls := 1, scope := .station } else t
        | none => s2
    else s2
  let s4 := s3.raiseDue.safResult h r
  if !s4.isHead && s4.inService then s4.clearInit s4.stationDemand else s4

/-- The tick at which the window of HEAD h reaches DW (R442). -/
def State.winEnds (s : State) (h : Nat) : Nat := (s.safHead h).winAt + s.get F.SAF_CTRL_DW

/-- The window of HEAD h reaches DW (R442). -/
def State.windowEnd (s : State) (h : Nat) : State :=
  match (s.safHead h).win with
  | some (_, a) => (s.runToTick (s.winEnds h)).windowClose h a none
  | none => s

/-- A window that has reached DW closes before a later copy is looked at (R442). -/
def State.windowLapsed (s : State) (h : Nat) : State :=
  if (s.safHead h).win.isSome && Nat.ble (s.winEnds h) s.lnow then s.windowEnd h else s

/-- A SAFE copy arrives (R165, R442). -/
def State.safeReceived (s : State) (a : Arrival) : State :=
  let via := a.via
  let cw := a.cw
  let h := (hdrOf cw).src
  if !s.safEn || !cwValid Ty.safe cw a.uncorr || Nat.ble 2 h || h == s.pos || leAt cw 8 2 != 0xFF80 then s
  else
    let n := s.scn.toNat % 256
    let its := itemsOf cw
    let item := fun (i : Nat) => match its.find? fun it => it.idx == i with
      | some it => if sealOk it h n then some it.value else none
      | none => none
    let s1 := its.foldl (fun s it => if sealOk it h n then s else s.sealFail h it.idx) s
    match item 0xFF80 with
    | none => s1.raiseDue
    | some w0 =>
      let c : SafeCopy := { w0 := w0, w1 := item 0xFF81, w2 := item 0xFF82 }
      let s2 := s1.windowLapsed h
      let s3 := s2.setSafHead h { s2.safHead h with got := true }
      let k := s3.safHead h
      if k.shut then s3.raiseDue
      else match k.win with
        | none => (s3.setSafHead h { k with win := some (via.ring, c), winAt := s3.lnow, winScn := s3.scn }).raiseDue
        | some (r, a) => if r = via.ring then s3.raiseDue else s3.windowClose h a (some c)

/-- Neither HEAD contributes (R443). -/
def State.stoLoss (s : State) : State :=
  if s.safEn && s.saf.seen && !s.contributes 0 && !s.contributes 1 && !s.flag F.SAF_STAT_STO_LOSS then
    let s1 := (s.setFlag F.SAF_STAT_STO_LOSS true).safRefresh
    s1.raise { code := 0x0E06, cls := 3, scope := .node, ended := false }
  else s

/-- The unit of a HEAD enters ACTIVE (R439). -/
def State.safActive (s : State) (latched : Nat) : State :=
  ({ s with saf := { s.saf with latched := latched } }).put F.SAF_STAT_HSTATE 2

/-- The wait of R399 ends: with no SAFE data heard, every SF with LATCH = 1 is latched (R439). -/
def State.safListenEnd (s : State) : State :=
  if s.safEn && s.isHead && s.get F.SAF_STAT_HSTATE == 1 && !s.saf.heard then s.safActive s.latchMask else s

/-- The boundary (R439, R440, R443); `uncounted`: the cycle that ended was cycle S of R108. -/
def State.safBoundary (s : State) (uncounted : Bool) : State :=
  if !s.safEn then s
  else
    let other := s.safHead s.otherHead
    let one := fun (s : State) (h : Nat) =>
      let k := s.safHead h
      s.setSafHead h { k with
        miss := if k.got || uncounted then k.miss else Nat.min 255 (k.miss + 1)
        got := false, shut := false }
    let s1 := one (one s 0) 1
    let run := if other.got then s.saf.run8 + 1 else 0
    let s2 := { s1 with saf := { s1.saf with run8 := run, decided := false, upWords := some (s1.inputWord, s1.statusWord) } }
    let s3 := if s2.isHead && s2.get F.SAF_STAT_HSTATE == 1 && Nat.ble 8 run then s2.safActive s2.saf.latched else s2
    s3.safApply

/-! ### The commands -/

def execTestGapStart (src : Fin 2) (s : State) : Host.Outcome State Fault Refusal :=
  .next (s.live fun s => s.gapStart src.val)

def execTestGapEnd (src : Fin 2) (s : State) : Host.Outcome State Fault Refusal :=
  .next (s.live fun s => s.gapEnd src.val)

def execTestSourceLimit (src : Fin 2) (s : State) : Host.Outcome State Fault Refusal :=
  .next (s.live fun s => s.sourceLimit src.val)

def execSafeInputSample (a b : BitVec 8) (s : State) : Host.Outcome State Fault Refusal :=
  .next (s.live fun s => s.safSample a.toNat b.toNat)

def execVauxUndervoltage (s : State) : Host.Outcome State Fault Refusal :=
  .next (s.live fun s => s.vauxUv)

def execVauxRecover (s : State) : Host.Outcome State Fault Refusal :=
  .next (s.live fun s => s.vauxOk)

def execSafetyDecision (diverted : List (Fin 4 × List Byte)) (s : State) : Host.Outcome State Fault Refusal :=
  .next (s.live fun s => diverted.foldl (fun s d => s.divert d.1.val d.2) s.safetyDecision)

def execSafeReceived (s : State) : Host.Outcome State Fault Refusal :=
  .next (s.live fun s => s.takeRx (Arrival.is Ty.safe) fun a s => s.safeReceived a)

def execDiscrepancyWindowClose (head : Fin 2) (s : State) : Host.Outcome State Fault Refusal :=
  .next (s.live fun s => s.windowEnd head.val)

def execStoLoss (s : State) : Host.Outcome State Fault Refusal :=
  .next (s.live fun s => s.stoLoss)

def execLocalEvaluation (agree : Bool) (s : State) : Host.Outcome State Fault Refusal :=
  .next (s.live fun s => s.localEval agree)

def execDarkTest (ch : Fin 2) (off : Bool) (s : State) : Host.Outcome State Fault Refusal :=
  .next (s.live fun s => s.darkTest ch.val off)

def execSoReadback (so : Fin 2) (ch : Fin 2) (below5 aboveV : Bool) (s : State) : Host.Outcome State Fault Refusal :=
  .next (s.live fun s => s.soReadback so.val ch.val below5 aboveV)

def execEdmCheck (so : Fin 2) (s : State) : Host.Outcome State Fault Refusal :=
  .next (s.live fun s => s.edmCheck so.val)

/-- SAF_CMD.CNT_CLR (R453). -/
def State.safCntClr (s : State) : State := ((s.wr R.SAF_CNT_DISC 0).wr R.SAF_CNT_SINGLE 0).wr R.SAF_CNT_TEST 0

def execSafCntClr (s : State) : Host.Outcome State Fault Refusal := .next (s.live fun s => s.safCntClr)

end Sys2Proof.Machine
end

