-- ==== Sys2Proof/Machine/Image.lean ====
section
/-! DEFINITION. Machine/Image.lean: the image and bring-up (R92 to R105, R113 to R115): slots, verification, binding
(R28 to R33), trial, owner keys and the update commands.
Marked choices: log entries 8, 13 (DESIGN CHOICE); log entries 14, 31 (DEDUCED). -/
namespace Sys2Proof.Machine

/-! ### Slots -/

def slotStFld (i : Nat) : Fld := if i = 0 then F.IMG_SLOT_S0_STATE else F.IMG_SLOT_S1_STATE
def slotResFld (i : Nat) : Fld := if i = 0 then F.IMG_SLOT_S0_RES else F.IMG_SLOT_S1_RES

/-- State of slot i in the flash. -/
def State.slotSt (s : State) (i : Nat) : SlotState := slotStIn s.flash i

/-- IMG_SLOT shows the state of slot i. -/
def State.slotShow (s : State) (i : Nat) : State := s.put (slotStFld i) (slotCode (s.slotSt i))

/-- The node moves the state word of slot i by clearing bits (R113). -/
def State.setSlotSt (s : State) (i : Nat) (st : SlotState) : State :=
  ({ s with flash := flashMark s.flash i st }).slotShow i

/-- The slot booted, and the other one. -/
def State.bootSlot (s : State) : Nat := s.get F.IMG_STAT_SLOT
def State.otherSlot (s : State) : Nat := 1 - s.bootSlot

/-! ### Owner keys -/

def keyFld (i : Nat) : Fld :=
  match i with
  | 0 => F.IMG_OWNER_STAT_K0
  | 1 => F.IMG_OWNER_STAT_K1
  | _ => F.IMG_OWNER_STAT_K2

def keyCode : KeyState → Nat
  | .blank => 0
  | .active => 1
  | .revoked => 2

/-- The state of owner slot i (R99). -/
def State.keyState (s : State) (i : Nat) : KeyState :=
  match s.get (keyFld i) with
  | 0 => .blank
  | 1 => .active
  | _ => .revoked

def State.keyDig (s : State) (i : Nat) : BitVec 256 := Bank.at 0 s.fuse.dig i

/-- The ACTIVE slot (R99). -/
def State.activeKey (s : State) : Option Nat := (List.range 3).find? fun i => s.keyState i == .active

/-- The next BLANK slot. -/
def State.blankKey (s : State) : Option Nat := (List.range 3).find? fun i => s.keyState i == .blank

def State.keysBlank (s : State) : Bool := (List.range 3).all fun i => s.keyState i == .blank

/-- Words 0 to 7 of a digest, the lowest-numbered byte most significant (R120). -/
def digWord (d : BitVec 256) (n : Nat) : Word := BitVec.ofNat 32 (d.toNat >>> (32 * (7 - n)))

/-- Fuse a digest into slot i and mark it ACTIVE; the slot that was ACTIVE becomes REVOKED (R99 to R101). -/
def State.fuseKey (s : State) (i : Nat) (d : BitVec 256) : State :=
  let old := s.activeKey
  let s1 := { s with fuse := { s.fuse with dig := Bank.upd 0 s.fuse.dig i d } }
  let s2 := match old with
    | some j => ({ s1 with fuse := { s1.fuse with lastRevoked := some j } }).put (keyFld j) (keyCode .revoked)
    | none => s1
  let s3 := (s2.put (keyFld i) (keyCode .active)).put F.IMG_OWNER_STAT_ACTIVE i
  forUpTo 8 (fun n s => s.wr (R.IMG_OWNER_DIG n) (digWord d n)) s3

/-! ### Verification -/

/-- The vendor key as bytes. -/
def State.vendorBytes (s : State) : List Byte := beBytes 64 s.vendorKey.toNat

/-- The firmware of slot i carries Xaniham's signature: the slot's header leads to it, and it verifies (R96, R104). -/
def State.firmwareOk (s : State) (i : Nat) : Bool :=
  let h := slotHeader s.flash i
  let fw := slotSection s.flash i 1
  s.flash.sfdp.isSome && hdrOk h && (lenBad s.flash h).isNone && fwHeaderOk fw && vendorSigOk s.vendorBytes fw

/-- SM3(OWNER_PUB) of a header is the key in force, or the image is the rotation already made (R101). -/
def State.ownerKeyOk (s : State) (h : List Byte) : Bool :=
  match s.activeKey with
  | none => false
  | some k =>
    ownerDigOf h == s.keyDig k ||
      hdrRotate h && nextDigOf h == s.keyDig k &&
        (match s.fuse.lastRevoked with
         | some j => ownerDigOf h == s.keyDig j
         | none => false)

/-- The checks of the sections whose digests agree, in their order (R96, R99, R101, R104, R105, R141). -/
def State.verifyKeys (s : State) (i : Nat) (h : List Byte) : Option (Nat × Nat) :=
  let fw := slotSection s.flash i 1
  let b := slotSection s.flash i 3
  let vendor := vendorSigOk s.vendorBytes fw
  if !fwHeaderOk fw then some (2, dirIdx h 1)
  else if !(boardOk b && (boardEntry b s.pos).isSome) then some (2, dirIdx h 3)
  else if s.keysBlank then (if vendor then some (4, 0xF) else some (5, 0xF))
  else if !ownerSigOk h then some (3, 0xF)
  else if !s.ownerKeyOk h then some (4, 0xF)
  else if !vendor then some (5, 0xF)
  else if Nat.blt (leField fw 4 2) (s.get F.IMG_FLOOR_FLOOR) then some (6, 0xF)
  else none

/-- The checks of FETCH and VERIFY on slot i in their order: error and DIR index; none when every check passes (R92, R93,
R99, R102, R104; the order is log entry 13's). `bufferBad`: an uncorrectable error in the fetch buffer. -/
def State.verify (s : State) (i : Nat) (bufferBad : Bool) : Option (Nat × Nat) :=
  match s.flash.sfdp with
  | none => some (1, 0xF)
  | some d =>
    let h := slotHeader s.flash i
    if !hdrOk h then some (2, 0xF)
    else if !modeOk d h then some (1, 0xF)
    else match lenBad s.flash h with
    | some k => some (8, k)
    | none =>
      if bufferBad then some (10, 0xF)
      else match digestBad s.flash i with
      | some k => some (7, k)
      | none => s.verifyKeys i h

/-- The node enters LOADFAIL or UNBOUND: a repeater that raises row 1 of R457 (R33, R104, R144). -/
def State.unbind (s : State) (stage : Nat) : State :=
  let s1 := (s.toStage stage).raise { code := 0x0101, cls := 3, scope := .node, ended := false }
  s1.lanesBoot

/-- FETCH begins (R102, R104). -/
def State.fetchStart (s : State) : State :=
  ({ s with img := { s.img with fetchAt := s.sys.up } }).toStage Stage.fetch

/-- An attempt has failed (R104): the slot is BAD, and the other one is tried once when it is GOOD. -/
def State.loadFail (s : State) (err sect : Nat) : State :=
  let i := s.bootSlot
  let s0 := { s with img := { s.img with vendorOk := s.firmwareOk i } }
  let s1 := (s0.setSlotSt i .bad).put (slotResFld i) err
  if s1.img.fallback && !s1.img.retried then
    let s2 := s1.put F.IMG_STAT_SLOT (1 - i)
    ({ s2 with img := { s2.img with retried := true } }).fetchStart
  else ((s1.put F.IMG_STAT_ERR err).put F.IMG_STAT_ERR_SECT sect).unbind Stage.loadFail

/-- FETCH selects a slot (R114), of two that are equal slot 0 (DESIGN CHOICE, log entry 13: the spec names none of two PENDING
slots, or of two GOOD ones with one SEQ). With none to boot the load fails as though no header were there, or no SFDP
answer. -/
def State.slotSelect (s : State) : State :=
  let demote := fun (i : Nat) (s : State) => if s.slotSt i == .trial then s.setSlotSt i .bad else s
  let s1 := demote 1 (demote 0 s)
  let boot := fun (i : Nat) (s : State) =>
    (({ s with img := { s.img with fallback := s.slotSt (1 - i) == SlotState.good, retried := false } }).put
      F.IMG_STAT_SLOT i).fetchStart
  let seq := fun (i : Nat) => hdrSeq (slotHeader s1.flash i)
  if s1.slotSt 0 == .pending then boot 0 (s1.setSlotSt 0 .trial)
  else if s1.slotSt 1 == .pending then boot 1 (s1.setSlotSt 1 .trial)
  else
    let g0 := s1.slotSt 0 == .good
    let g1 := s1.slotSt 1 == .good
    if g1 && (!g0 || Nat.blt (seq 0) (seq 1)) then boot 1 s1
    else if g0 then boot 0 s1
    else ((s1.put F.IMG_STAT_ERR (if s.flash.sfdp.isNone then 1 else 2)).put F.IMG_STAT_ERR_SECT 0xF).unbind Stage.loadFail

/-- SRAM_INIT ends (R102, R484). `chip`: the flash, where something outside the node has changed it since the node last
touched it. -/
def State.sramInitDone (s : State) (chip : Option FlashChip) : State :=
  if s.stage != Stage.sramInit then s
  else
    let s1 := ({ s with flash := chip.getD s.flash }).wrN R.MEM_STAT 1
    ((s1.slotShow 0).slotShow 1).slotSelect

/-- The fetch buffer in the capture region (R94). -/
def fetchBuffer : Nat := 0x20300000
def fetchBufferLen : Nat := 0x400000

/-- FETCH ends within its time (R94, R104): the image stands in the fetch buffer as far as the buffer reaches. -/
def State.fetchDone (s : State) : State :=
  let h := slotHeader s.flash s.bootSlot
  let dt := (s.sys.up - s.img.fetchAt) * 16
  if s.stage != Stage.fetch || Nat.blt (fetchLimit h * 25) dt then s
  else
    let n := Nat.min fetchBufferLen (Nat.min (hdrLen h) (slotSize s.flash))
    let l := flashRead s.flash (slotBase s.flash s.bootSlot) n
    (((List.range n).zip l).foldl (fun s e => s.setByte (fetchBuffer + e.1) e.2) s).toStage Stage.verify

/-- t_FTMO has passed in FETCH: the clocks have run on to that time (R104). -/
def State.fetchTimeout (s : State) : State :=
  s.when (s.stage == Stage.fetch) fun s =>
    ((s.runAfter s.img.fetchAt (fetchLimit (slotHeader s.flash s.bootSlot))).loadFail 11 0xF)

/-- The boot loader zeroes the fetch buffer (R94). -/
def State.bufferZero (s : State) : State :=
  { s with mem := s.mem.filter fun e => Nat.blt e.1 fetchBuffer || Nat.ble (fetchBuffer + fetchBufferLen) e.1 }

/-! ### Binding -/

/-- How many CELL entries of the table are on a stack, and whether one holds a cell. -/
def stackCells (t : List StationEntry) (k : Nat) : Nat := (t.filter fun e => e.role == 2 && e.stack == k).length
def hasCell (t : List StationEntry) (k i : Nat) : Bool := t.any fun e => e.role == 2 && e.stack == k && e.cell == i

/-- How many shares of the table serve a cell. -/
def servedBy (t : List StationEntry) (k i : Nat) : Nat :=
  (t.flatMap fun e => if e.role = 3 then e.shares.filter fun c => c.1 == k && c.2.1 == i else []).length

/-- The entry of an installed cell keeps the rules of R20 and R23: one entry for the cell, the indices of its stack without
gaps, the three stacks alike, and exactly one share for it. -/
def cellEntryBad (t : List StationEntry) (e : StationEntry) : Bool :=
  Nat.blt 2 e.stack || Nat.blt 59 e.cell || (t.filter fun d => d.role == 2 && d.stack == e.stack && d.cell == e.cell).length != 1 ||
    !(List.range (stackCells t e.stack)).all (hasCell t e.stack) ||
    !((List.range 3).all fun k => stackCells t k == stackCells t e.stack) || servedBy t e.stack e.cell != 1

/-- The shares of a SECONDARY each serve an installed cell at its position, and no other share does (R23). -/
def shareEntryBad (t : List StationEntry) (e : StationEntry) : Bool :=
  e.shares.isEmpty || Nat.blt 3 e.shares.length ||
    e.shares.any fun c => servedBy t c.1 c.2.1 != 1 ||
      !t.any fun d => d.role == 2 && d.stack == c.1 && d.cell == c.2.1 && d.pos == c.2.2

/-- An entry that contradicts the rules of the roles (R20, R22, R23, R29, R31, R32). -/
def entryBad (t : List StationEntry) (e : StationEntry) (single : Bool) : Bool :=
  let p := e.pos.toNat
  (t.filter fun d => d.pos == e.pos).length != 1 ||
    match e.role with
    | 1 => Nat.blt 1 p || e.bypass || single && p != 0
    | 2 => Nat.blt p 2 || cellEntryBad t e
    | 3 => Nat.blt p 2 || e.bypass || shareEntryBad t e
    | 4 => Nat.blt p 2 || e.bypass
    | _ => true

/-- The binding code of R41 for a position, and its entry. -/
def bindCode (img : ImageRead) (pos : Nat) : Nat × Option StationEntry :=
  if pos = 0xFF then (2, none)
  else match img.table.find? fun e => e.pos.toNat == pos with
    | none => (1, none)
    | some e => if entryBad img.table e img.single then (3, none) else (0, some e)

/-- SYS_ROLE, SYS_LOC and the share cells of an entry (R31, R41). -/
def State.bindRole (s : State) (e : StationEntry) (single : Bool) : State :=
  let s1 := s.put F.SYS_ROLE_BIND 0
  let s2 := s1.put F.SYS_ROLE_ROLE e.role
  let s3 := s2.setFlag F.SYS_ROLE_SINGLE (e.role == 1 && single)
  let s4 := s3.put F.SYS_ROLE_BYP_LEG (if e.bypass then 4 else 7)
  let s5 := s4.put F.SYS_ROLE_SHARES (if e.role = 3 then e.shares.length else 0)
  let s6 := s5.wr R.SYS_LOC (s5.positionCode s5.pos)
  if e.role = 3 then
    ((List.range 3).zip e.shares).foldl (fun s p =>
      ((s.put (F.SYS_SHAREn_CELL_STACK p.1) p.2.1).put (F.SYS_SHAREn_CELL_CELL p.1) p.2.2.1).put
        (F.SYS_SHAREn_CELL_POS p.1) p.2.2.2.toNat) s6
  else s6

/-- The provisional boundary schedule of a node that is not admitted: the multiples of SC_LEN (log entry 31). -/
def State.scheduleStart (s : State) : State :=
  let l := Nat.max 1 (s.get F.TIM_SC_LEN_SC_LEN)
  let k := s.ltime / l
  { s with tim := { s.tim with lastB := k * l, nextB := ((k + 1) * l) % ltimeWrap } }

/-- The band of the lane-quadrant sensor (R143, R505). -/
def State.laneSensorBand (s : State) : Nat := s.get (F.THM_Sn_STAT_BAND 1)

/-- The blocks come into service with their configuration (R65, R87, R89, R141, R325, R367, R439, R476). -/
def State.blocksStart (s : State) : State :=
  let s1 := { s with pwm := { s.pwm with held := false } }
  let s2 := (s1.wire).laneBand s1.laneSensorBand
  let s3 := (s2.gdBind.legRefresh).put F.PWM_STAT_TB s2.flankBand
  let s4 := (s3.refWaitStart.safBind).scheduleStart
  let s5 := if s4.isHead then
      s4.put F.DPX_STAT_STATE (if s4.flag F.SYS_ROLE_SINGLE then Dpx.solo else Dpx.start)
    else s4
  let dig := s5.img.image.calDig
  let s6 := (s5.wrN R.MTR_CAL_DIG_LO (dig.toNat % 2 ^ 32)).wrN R.MTR_CAL_DIG_HI (dig.toNat >>> 32)
  let en := s6.flag F.MTR_CFG_EN
  let s7 := { s6 with mtr := { s6.mtr with on := en, lastAcc := s6.tim.acc, cycAt := s6.tim.acc, next := 4 * s6.sys.up + samplePer } }
  let s8 := s7.when (s7.flag F.FLT_FLTI_EN) (·.put F.FLT_STAT_FLTI 0)
  ((s8.when en (·.put F.MTR_STAT_REF_PH 3)).setFlag F.IMG_STAT_STN_PB true).headroomInit

/-- The registers of the booted image (R98, R120). -/
def State.bootedImage (s : State) (img : ImageRead) : State :=
  let s1 := (s.put F.IMG_EPOCH_EPOCH img.epoch).put F.IMG_EPOCH_MIN_EPOCH img.minEpoch
  let s2 := (s1.wrN R.IMG_CFG_DIG_HI (img.cfgDig.toNat >>> 32)).wrN R.IMG_CFG_DIG_LO (img.cfgDig.toNat % 2 ^ 32)
  (s2.wr R.IMG_SEQ img.seq).put (slotResFld s2.bootSlot) 0

/-- Stage BIND with a verified image (R31 to R33, R102, R142). -/
def State.bind (s : State) (st : StationRead) : State :=
  let img := slotImage s.flash s.bootSlot s.pos st
  let s1 := { s with img := { s.img with image := img, vendorOk := true } }
  if !img.eq.all eqRowOk then s.loadFail 9 (dirIdx (slotHeader s.flash s.bootSlot) 3)
  else match bindCode img s.pos with
  | (code, none) =>
    let s2 := (s1.bootedImage img).wire
    ((s2.laneBand s2.laneSensorBand).put F.SYS_ROLE_BIND code).unbind Stage.unbound
  | (_, some e) =>
    match (s1.bindRole e img.single).loadImage st.cfg with
    | none => s.loadFail 9 (dirIdx (slotHeader s.flash s.bootSlot) 2)
    | some t => ((t.bootedImage img).blocksStart).toStage Stage.bind

/-- VERIFY completes (R104). -/
def State.verifyDone (s : State) (st : StationRead) : State :=
  if s.stage != Stage.verify then s
  else match s.verify s.bootSlot st.bufferBad with
    | some (err, sect) => s.loadFail err sect
    | none => s.bind st

/-- The management processor sets the boot lock, and the lanes start (R11, R102). -/
def State.bootLock (s : State) : State :=
  if s.stage != Stage.bind then s
  else
    let s1 := s.bufferZero
    (({ s1 with sys := { s1.sys with bootLock := true } }).toStage Stage.lanes).lanesBoot

/-! ### Provisioning and trial -/

/-- A write of IMG_PROV (R100): OWNER_SIG of the booted slot's header against that header's OWNER_PUB. -/
def State.provWrite (s : State) (m : Master) (v : Word) : State :=
  if m != .dbg || !s.sys.dbgsel then s.violation m true R.IMG_PROV
  else if bits v.toNat 16 16 == 0xC35A && v.getLsbD 0 && s.keysBlank then
    (let h := slotHeader s.flash s.bootSlot
     if ownerSigOk h then (s.setFlag F.IMG_OWNER_STAT_PROV_ERR false).fuseKey 0 (ownerDigOf h)
     else s.setFlag F.IMG_OWNER_STAT_PROV_ERR true)
  else s

/-- The trial has failed: the slot is BAD and the node resets through SOFT (R114). -/
def State.trialFail (s : State) (err : Nat) : State :=
  ((s.setSlotSt s.bootSlot .bad).put (slotResFld s.bootSlot) err).softReset

/-- The node reaches time lock in PB_ADM: a TRIAL slot passes, with FLOOR and rotation (R101, R105, R114). A rotation without
a BLANK slot fails the trial with ERR 4: the slot does not pass, and the time-out of R114 ends it. -/
def State.trialPass (s : State) : State :=
  let i := s.bootSlot
  let img := s.img.image
  if s.stage != Stage.pbAdm || s.slotSt i != .trial then s
  else
    let rotated := match s.activeKey with
      | some k => img.nextDig == s.keyDig k
      | none => false
    let turn := img.rotate && !rotated
    match turn, s.blankKey with
    | true, none => (s.put F.IMG_STAT_ERR 4).put (slotResFld i) 4
    | true, some k => (pass img (s.setSlotSt i .good)).fuseKey k img.nextDig
    | false, _ => pass img (s.setSlotSt i .good)
where
  /-- FLOOR raises the epoch floor, which never falls (R105). -/
  pass (img : ImageRead) (s : State) : State :=
    if img.floor then s.put F.IMG_FLOOR_FLOOR (Nat.max (s.get F.IMG_FLOOR_FLOOR) img.epoch) else s

/-- 30 s from release of reset: the clocks have run on to that time (R114). -/
def State.trialTimeout (s : State) : State :=
  s.when (s.slotSt s.bootSlot == .trial && Nat.ble Stage.fetch s.stage) fun s =>
    (s.runUp (msTicks 30000)).trialFail (s.get (slotResFld s.bootSlot))

/-! ### Image update (R115) -/

/-- An update command of master m: only the management processor commands, and none but ABORT while busy. -/
def State.updCmd (s : State) (m : Master) (abort : Bool) (f : State → State) : State :=
  if !s.asMp m then s.violation m true R.IMG_UPD_CTRL
  else if s.img.upd.isSome && !abort then s.put F.IMG_UPD_STAT_ERR 1
  else f s

/-- A command that takes time starts. -/
def State.updStart (s : State) (c : UpdCmd) : State :=
  let s1 := { s with img := { s.img with upd := some c } }
  ((s1.put F.IMG_UPD_STAT_ERR 0).setFlag F.IMG_UPD_STAT_DONE false).setFlag F.IMG_UPD_STAT_BUSY true

/-- A command ends. -/
def State.updEnd (s : State) (err : Nat) (verified : Bool) : State :=
  let s1 := { s with img := { s.img with upd := none } }
  let s2 := (s1.put F.IMG_UPD_STAT_ERR err).setFlag F.IMG_UPD_STAT_BUSY false
  (s2.setFlag F.IMG_UPD_STAT_DONE true).setFlag F.IMG_UPD_STAT_VERIFIED verified

/-- ERASE: the state sector goes first, so that the slot reads EMPTY from then on. -/
def State.updErase (s : State) : State :=
  let i := s.otherSlot
  (({ s with flash := flashErase s.flash (slotBase s.flash i + stateSector) stateSectorLen }).slotShow i).updStart .erase

/-- PROGRAM: a source in SRAM and a length that fits the slot (R92, R115); a PENDING slot is PENDING no longer. -/
def State.updProgram (s : State) : State :=
  let a := s.num R.IMG_UPD_SRC
  let n := s.num R.IMG_UPD_LEN
  let ok := a % 4 == 0 && n % 256 == 0 && n != 0 && Nat.ble 0x20000000 a && Nat.ble (a + n) 0x21000000 &&
    Nat.ble n (slotSize s.flash)
  if ok then (s.when (s.slotSt s.otherSlot == .pending) (·.setSlotSt s.otherSlot .bad)).updStart (.program a n)
  else (s.put F.IMG_UPD_STAT_ERR 4).setFlag F.IMG_UPD_STAT_DONE false

def State.updArm (s : State) : State :=
  if s.flag F.IMG_UPD_STAT_VERIFIED then (s.setSlotSt s.otherSlot .pending).updEnd 0 false
  else (s.put F.IMG_UPD_STAT_ERR 2).setFlag F.IMG_UPD_STAT_DONE false

def State.updAbort (s : State) : State :=
  s.when s.img.upd.isSome fun s =>
    (s.updStop.setFlag F.IMG_UPD_STAT_BUSY false).setFlag F.IMG_UPD_STAT_VERIFIED false

/-- The running command ends: `flashErr` with a flash error, what it has done so far staying in the slot. -/
def State.updDone (s : State) (flashErr bufferBad : Bool) : State :=
  match s.img.upd with
  | none => s
  | some c =>
    if flashErr then s.updStop.updEnd 3 false
    else
      let n := match c with | .program _ len => len | _ => slotSize s.flash
      let s1 := (s.updPart c n).slotShow s.otherSlot
      match c, s1.verify s1.otherSlot bufferBad with
      | .verify, none => s1.updEnd 0 true
      | .verify, some (err, _) => s1.updEnd (err + 4) false
      | _, _ => s1.updEnd 0 false

/-! ### The commands -/

def execSramInitDone (chip : Option FlashChip) (s : State) : Host.Outcome State Fault Refusal :=
  .next (s.live fun s => s.sramInitDone chip)

def execFetchDone (s : State) : Host.Outcome State Fault Refusal := .next (s.live fun s => s.fetchDone)

def execFetchTimeout (s : State) : Host.Outcome State Fault Refusal := .next (s.live fun s => s.fetchTimeout)

def execVerifyDone (img : StationRead) (s : State) : Host.Outcome State Fault Refusal :=
  .next (s.live fun s => s.verifyDone img)

def execBootLock (s : State) : Host.Outcome State Fault Refusal := .next (s.live fun s => s.bootLock)

def execImgProvWrite (m : Master) (v : Word) (s : State) : Host.Outcome State Fault Refusal :=
  .next (s.byMaster m fun s => s.provWrite m v)

def execTrialTimeout (s : State) : Host.Outcome State Fault Refusal := .next (s.live fun s => s.trialTimeout)

def execImgErase (m : Master) (s : State) : Host.Outcome State Fault Refusal :=
  .next (s.byMaster m fun s => s.updCmd m false (·.updErase))

def execImgProgram (m : Master) (s : State) : Host.Outcome State Fault Refusal :=
  .next (s.byMaster m fun s => s.updCmd m false (·.updProgram))

def execImgVerify (m : Master) (s : State) : Host.Outcome State Fault Refusal :=
  .next (s.byMaster m fun s => s.updCmd m false (·.updStart .verify))

def execImgArm (m : Master) (s : State) : Host.Outcome State Fault Refusal :=
  .next (s.byMaster m fun s => s.updCmd m false (·.updArm))

def execImgAbort (m : Master) (s : State) : Host.Outcome State Fault Refusal :=
  .next (s.byMaster m fun s => s.updCmd m true (·.updAbort))

def execImgUpdDone (flashErr bufferBad : Bool) (s : State) : Host.Outcome State Fault Refusal :=
  .next (s.live fun s => s.updDone flashErr bufferBad)

end Sys2Proof.Machine
end

