-- ==== Sys2Proof/Machine/StationTime.lean ====
section
/-! DEFINITION. Machine/StationTime.lean: station time (R183 to R190), its upstream and link state (R195 to R200), the
ramp and slew terms (R83 to R86), and the time pulses (R207 to R210). The servo, whose step can pass boundaries, is in
Machine/Servo.lean.
Marked choices: log entry 38 (DEDUCED); log entry 50 (DESIGN CHOICE). -/
namespace Sys2Proof.Machine

/-- DPX_STAT.ELIG: in STANDBY with a LOCKED servo (R395). -/
def State.eligRefresh (s : State) : State :=
  s.setFlag F.DPX_STAT_ELIG (s.isStandby && s.timeLocked)

/-- The servo enters a state (R193). -/
def State.setServo (s : State) (st : Nat) : State :=
  if s.servo = st then s
  else
    let s1 := { s with tim := { s.tim with
      thetas := [], okRun := 0, badRun := 0, holdAt := if st = Servo.hold then s.sys.up else s.tim.holdAt } }
    let s2 := (s1.put F.TIM_STAT_STATE st).eligRefresh
    if st = Servo.locked then s2.trialPass else s2

/-! ### The servo terms -/

/-- TIM_FADJ and YLIM from the terms (R190, R212). -/
def State.yShow (s : State) : State :=
  let s1 := s.wrN R.TIM_FADJ (unsgn 32 (s.ySum.shl 32).round)
  s1.setFlag F.TIM_STAT_YLIM (s.ySum != s.tim.yP.add s.tim.yI)

/-- New servo terms. -/
def State.setY (s : State) (yP yI : Frac) : State :=
  (({ s with tim := { s.tim with yP := yP, yI := yI } }).yShow).slewTarget

/-- A HEAD takes the host as its time source (R193, R201, R204). -/
def State.takeHost (s : State) : State :=
  let s1 := s.setFlag F.TIM_STAT_SRC_HOST true
  let s2 := ({ s1 with tim := { s1.tim with lastOfs := none, srcAt := s1.sys.up } }).setChain Frac.zero
  let s3 := s2.wrN R.TIM_UPSTREAM (s2.pos <<< 24 ||| 0xFF07)
  s3.setServo Servo.locked

/-- The chain errors of the upstream and of another qualifying port differ by more than XCHK (R200). -/
def State.crossBad (s : State) : Bool :=
  let lim := Frac.ofNat (s.get F.TIM_CTRL_XCHK)
  (List.range 4).any fun p =>
    p != s.upPort && s.qualifies p &&
      (match (s.link p).theta with
       | some t => lim.blt (((s.link p).chain.add t).sub s.tim.chain).abs
       | none => false)

/-! ### Losses of the source -/

/-- NOUP_MAX cycles without a measurement (R193, R194). -/
def State.sourceLoss (s : State) : State :=
  if s.servo != Servo.locked || s.srcHost || Nat.blt s.tim.noUp (s.get F.TIM_CTRL_NOUP_MAX) then s
  else
    let s1 := (s.selectUp.setY Frac.zero s.tim.yI).setServo Servo.hold
    s1.when (s1.stage == Stage.full) (·.raise { code := 0x0504, cls := 1, scope := .node })

/-- A node in FULL has been in HOLD for more than 1 s (R194). -/
def State.holdLimit (s : State) : State :=
  if s.servo = Servo.hold && s.stage == Stage.full then
    ((s.runUp (s.tim.holdAt + msTicks 1000 + 1)).raise { code := 0x0502, cls := 3, scope := .node }).leaveService false
  else s

/-- Chains have disagreed for 16 consecutive cycles (R200). -/
def State.crossCheck (s : State) : State :=
  if Nat.ble 16 s.tim.xRun && !s.flag F.TIM_STAT_XCHK then
    (s.setFlag F.TIM_STAT_XCHK true).raise { code := 0x0505, cls := 1, scope := .node }
  else s

/-- HOST_TO seconds have passed without an accepted write (R203). -/
def State.hostTimeout (s : State) : State :=
  if s.srcHost && !s.flag F.TIM_STAT_HOST_TO then
    let s0 := s.runUp (s.tim.lastOfs.getD s.tim.srcAt + msTicks (1000 * s.get F.TIM_CTRL_HOST_TO))
    let s1 := (s0.setY Frac.zero s0.tim.yI).setFlag F.TIM_STAT_HOST_TO true
    s1.raise { code := 0x0507, cls := 0, scope := .station, ended := false }
  else s

/-- The host time-out ends (R203). -/
def State.hostBack (s : State) : State :=
  if s.flag F.TIM_STAT_HOST_TO then (s.setFlag F.TIM_STAT_HOST_TO false).endCause 0x0507 0 else s

/-! ### Time pulses -/

/-- TPO3 serves as REFSEL (R88, R207). -/
def State.tpoOff (s : State) (n : Nat) : Bool := n == 3 && s.flag F.CLK_CTRL_REFSEL_EN

/-- PER and WIDTH lie in their ranges (R209). -/
def State.tpoCfgOk (s : State) (n : Nat) : Bool :=
  let w := s.num (R.TIM_TPOn_WIDTH n)
  let p := s.num (R.TIM_TPOn_PER n)
  Nat.ble 10 w && (!s.flag (F.TIM_TPOn_CTRL_PERIODIC n) || Nat.ble 100 p && Nat.ble (w + 10) p)

/-- The train's first edge later than the present STIME, START lying at `origin`; none where it has passed on a single pulse
(R207, R208). -/
def State.tpoNext (s : State) (n origin : Nat) : Option Nat :=
  let now := s.nsExt
  let per := Nat.max 1 (s.num (R.TIM_TPOn_PER n))
  if Nat.blt now origin then some origin
  else if s.flag (F.TIM_TPOn_CTRL_PERIODIC n) then some (origin + ((now - origin) / per + 1) * per)
  else none

/-- START as it lies about the present STIME, in the modular order of R37 over 2^32 ns (R208). -/
def State.tpoOrigin (s : State) (n : Nat) : Nat :=
  let ahead := (s.num (R.TIM_TPOn_START n) + 2 ^ 32 - s.stimeNs % 2 ^ 32) % 2 ^ 32
  if Nat.blt ahead (2 ^ 31) then s.nsExt + ahead else s.nsExt + ahead - 2 ^ 32

/-- An edge was skipped (R208). -/
def State.tpoMissed (s : State) (n : Nat) : State :=
  (s.setFlag (F.TIM_TPOn_CTRL_MISSED n) true).raise { code := 0x0508, cls := 0, scope := .node }

/-- The configuration is checked and the next edge scheduled (R208, R209): `fresh` takes START anew. EN is being written where
`mark` is set, and START passed on a single pulse is then MISSED. -/
def State.tpoPlan (s : State) (n : Nat) (fresh mark : Bool) : State :=
  if s.tpoOff n then s
  else if s.tpoCfgOk n then
    let s1 := s.setFlag (F.TIM_TPOn_CTRL_CFG_ERR n) false
    let o := if fresh then s1.tpoOrigin n else (s1.tpo n).origin
    let s2 := s1.setTpo n { s1.tpo n with origin := o, next := s1.tpoNext n o }
    s2.when (mark && (s2.tpo n).next.isNone) (·.tpoMissed n)
  else (s.setFlag (F.TIM_TPOn_CTRL_CFG_ERR n) true).setTpo n { s.tpo n with active := false, next := none }

def tpoAddr (n : Nat) : TpoReg → Nat
  | .start => R.TIM_TPOn_START n
  | .per => R.TIM_TPOn_PER n
  | .width => R.TIM_TPOn_WIDTH n

/-- The writes that waited for the end of a pulse (R209). -/
def State.tpoTakeWaiting (s : State) (n : Nat) : State :=
  let s1 := (s.tpo n).waiting.foldl (fun s e => s.wr (tpoAddr n e.1) e.2) s
  s1.setTpo n { s1.tpo n with waiting := [] }

/-- A write of TIM_TPOn_CTRL (R207, R208). -/
def State.tpoCtrl (s : State) (n : Nat) (v : Word) : State :=
  let was := s.flag (F.TIM_TPOn_CTRL_EN n)
  let wasPer := s.flag (F.TIM_TPOn_CTRL_PERIODIC n)
  let s1 := (s.setFlag (F.TIM_TPOn_CTRL_EN n) (v.getLsbD 0)).setFlag (F.TIM_TPOn_CTRL_PERIODIC n) (v.getLsbD 1)
  let s2 := s1.setFlag (F.TIM_TPOn_CTRL_POL n) (v.getLsbD 2)
  let s3 := if v.getLsbD 8 then s2.setFlag (F.TIM_TPOn_CTRL_MISSED n) false else s2
  if v.getLsbD 0 then s3.when (!was || wasPer != v.getLsbD 1) (·.tpoPlan n (!was) (!was))
  else (s3.setTpo n { s3.tpo n with active := false, next := none }).tpoTakeWaiting n

/-- A write of START, PER or WIDTH (R209). During a pulse it waits for the pulse's end, and the register reads its old value
until then (log entry 50, DESIGN CHOICE). While REFSEL_EN = 1 the registers of TPO3 take their values without effect (R207). -/
def State.tpoConfig (s : State) (n : Nat) (reg : TpoReg) (v : Word) : State :=
  if s.flag (F.TIM_TPOn_CTRL_EN n) && (s.tpo n).active then
    s.setTpo n { s.tpo n with waiting := (s.tpo n).waiting ++ [(reg, v)] }
  else
    let s1 := s.wr (tpoAddr n reg) v
    if s1.flag (F.TIM_TPOn_CTRL_EN n) then s1.tpoPlan n (reg == .start) false
    else s1.when (reg != .start && !s1.tpoOff n) (·.setFlag (F.TIM_TPOn_CTRL_CFG_ERR n) (!s1.tpoCfgOk n))

/-- STIME reaches the scheduled edge (R207). -/
def State.tpoEdge (s : State) (n : Nat) : State :=
  match (s.tpo n).next with
  | none => s
  | some t =>
    let s1 := s.runAhead (t * stimeUnit - s.stimeExt)
    let per := s1.flag (F.TIM_TPOn_CTRL_PERIODIC n)
    s1.setTpo n { s1.tpo n with
      active := true
      endAt := s1.tim.acc + s1.num (R.TIM_TPOn_WIDTH n) * stimeUnit
      next := if per then some (t + s1.num (R.TIM_TPOn_PER n)) else none }

/-- WIDTH ns after the edge (R207, R209). -/
def State.tpoPulseEnd (s : State) (n : Nat) : State :=
  if !(s.tpo n).active then s
  else
    let s0 := s.runAhead ((s.tpo n).endAt - s.tim.acc)
    let w := (s0.tpo n).waiting
    let s1 := (s0.setTpo n { s0.tpo n with active := false }).tpoTakeWaiting n
    s1.when (!w.isEmpty) (·.tpoPlan n (w.any fun e => e.1 == .start) false)

/-- A step of STIME forward has passed scheduled edges (R208): each train that lost one is MISSED, and goes on from its next. -/
def State.tpoStep (s : State) : State :=
  forUpTo 4 (fun n s =>
    match (s.tpo n).next with
    | none => s
    | some t =>
      if Nat.ble t s.nsExt then (s.tpoMissed n).setTpo n { s.tpo n with next := s.tpoNext n (s.tpo n).origin } else s) s

/-- The level of a TPO land: none is high-impedance (R70, R88, R207). -/
def State.tpoPin (s : State) (n : Nat) : Option Bool :=
  if n = 3 && s.sys.inReset then none
  else if s.tpoOff n then some s.clk.refselHigh
  else some (((s.tpo n).active && !s.sys.inReset) != s.flag (F.TIM_TPOn_CTRL_POL n))

/-- An edge on TPI (R210); a level that lasts less than 20 ns before or after it is a pulse that is ignored. -/
def State.tpiEdge (s : State) (rising : Bool) (before after : Nat) : State :=
  if !s.flag F.TIM_TPI_CTRL_EN || s.flag F.TIM_TPI_CTRL_EDGE == rising || Nat.blt before 20 || Nat.blt after 20 then s
  else if s.flag F.TIM_TPI_FRAC_RDY then s.setFlag F.TIM_TPI_FRAC_OVR true
  else
    let s1 := s.wrN R.TIM_TPI_NS s.stimeNs
    (s1.put F.TIM_TPI_FRAC_FRAC s1.stime48).setFlag F.TIM_TPI_FRAC_RDY true

/-! ### The commands -/

def execStimeWrap (s : State) : Host.Outcome State Fault Refusal :=
  .next (s.live fun s => s.runTime (stimeWrap - s.tim.stime))

def execSourceLoss (s : State) : Host.Outcome State Fault Refusal := .next (s.live fun s => s.sourceLoss)

def execHoldLimit (s : State) : Host.Outcome State Fault Refusal := .next (s.live fun s => s.holdLimit)

def execXchk (s : State) : Host.Outcome State Fault Refusal := .next (s.live fun s => s.crossCheck)

def execHostTimeout (s : State) : Host.Outcome State Fault Refusal := .next (s.live fun s => s.hostTimeout)

def execTpoEdge (n : Fin 4) (s : State) : Host.Outcome State Fault Refusal := .next (s.live fun s => s.tpoEdge n.val)

def execTpoPulseEnd (n : Fin 4) (s : State) : Host.Outcome State Fault Refusal :=
  .next (s.live fun s => s.tpoPulseEnd n.val)

def execTpoEnable (n : Fin 4) (v : Word) (s : State) : Host.Outcome State Fault Refusal :=
  .next (s.live fun s => s.tpoCtrl n.val v)

def execTpoConfigWrite (n : Fin 4) (reg : TpoReg) (v : Word) (s : State) : Host.Outcome State Fault Refusal :=
  .next (s.live fun s => s.tpoConfig n.val reg v)

/-- `before`, `after`: how long TPI held its levels on both sides of the edge, in ns. -/
def execTpiEdge (rising : Bool) (before after : Nat) (s : State) : Host.Outcome State Fault Refusal :=
  .next (s.live fun s => s.tpiEdge rising before after)

end Sys2Proof.Machine
end

