-- ==== Sys2Proof/Machine/Collector.lean ====
section
/-! DEFINITION. Machine/Collector.lean: what the fault collector does beside a raise (R454 to R482): closing, reporting
and clearing records, the station clear, the FLTI pair, and the ledger of staged batches.
Marked choices: log entries 2, 62 (DESIGN CHOICE); log entries 32, 33, 34 (DEDUCED). -/
namespace Sys2Proof.Machine

/-! ### Raises, closing and reporting -/

/-- A raise that a detector's error pair gives. -/
def Raise.ofIn (r : RaiseIn) (broken : Bool) : Raise :=
  { code := r.code.toNat, cls := Nat.min 5 r.cls, scope := .code r.scope, kind := r.kind, inst := r.inst
    ended := r.ended && !broken, broken := broken, tag := b2n broken }

/-- A record has closed: FC4 and FC5 go to the event log (R464), and the record is reported (R465). -/
def State.recordClosed (s : State) (num : Nat) : State :=
  let i := recIdx num
  s.when (s.get (F.FLT_RECr_W0_NUM i) == num) fun s =>
    let s1 := s.when (Nat.ble 4 (s.get (F.FLT_RECr_W1_CLASS i)))
      (·.logEvent 2 (s.rd (R.FLT_RECr_Ww i 0)) (s.rd (R.FLT_RECr_Ww i 1)))
    s1.reportRecord num

/-- The open record closes MERGE_US after it opened (R460); records whose time was over before a later raise go first. -/
def State.recordClose (s : State) : State :=
  let s1 := match s.flt.closing, s.flt.openRec with
    | [], some _ => (s.runUp (s.flt.openAt + s.mergeTicks)).mergeEnd
    | _, _ => s
  s1.flt.closing.foldl (fun s n => s.recordClosed n) { s1 with flt := { s1.flt with closing := [] } }

/-- 16 fabric cycles in base ticks (R455). -/
def pairTicks : Nat := 64

def State.pairAt (s : State) (code inst : Nat) : Option (Nat × Nat × Bool × Nat) :=
  s.flt.pairs.find? fun p => p.1 == code && p.2.1 == inst

def State.setPair (s : State) (code inst : Nat) (v : Option Bool) : State :=
  let rest := s.flt.pairs.filter fun p => !(p.1 == code && p.2.1 == inst)
  { s with flt := { s.flt with pairs := match v with | some b => (code, inst, b, s.sys.up) :: rest | none => rest } }

/-- A pair changes to fault, or back (R454): it raises once, and again only after it has read (1,0). -/
def State.pairFault (s : State) (r : RaiseIn) (back : Bool) : State :=
  let c := r.code.toNat
  match s.pairAt c r.inst with
  | some (_, _, false, _) => if back then (s.setPair c r.inst none).endCause c r.inst else s
  | some _ => s
  | none =>
    if back then s else (s.when (!r.ended) (·.setPair c r.inst (some false))).raise (Raise.ofIn r false)

/-- A pair is broken, or has read (1,0) for 16 fabric cycles after it was (R455). -/
def State.pairBroken (s : State) (r : RaiseIn) (back : Bool) : State :=
  let c := r.code.toNat
  match s.pairAt c r.inst with
  | some (_, _, true, t) =>
    if back then ((s.runUp (t + pairTicks)).setPair c r.inst none).endCause c r.inst 1 else s
  | _ => if back then s else (s.setPair c r.inst (some true)).raise (Raise.ofIn r true)

/-! ### Clearing (R472 to R474) -/

/-- A write of FLT_CLR ends: STATE and ERR, and CLR_REF when it was refused (R472, R482). -/
def State.clrDone (s : State) (err : Nat) : State :=
  let s1 := (s.put F.FLT_CLR_STAT_ERR err).put F.FLT_CLR_STAT_STATE (if err = 0 then 2 else 3)
  s1.when (err != 0) (·.setFlag F.FLT_STAT_CLR_REF true)

/-- Why a clear of record `num` is refused, 0 when it is accepted (R472, R482). -/
def State.clearErr (s : State) (num : Nat) : Nat :=
  let i := recIdx num
  if s.get (F.FLT_RECr_W0_NUM i) != num || !s.recActive i then 1
  else if !s.flag (F.FLT_RECr_W1_ENDED i) then 2
  else if s.flt.mergeAt == some (num, s.fab) then 3
  else if s.get (F.FLT_RECr_W1_CLASS i) == 5 then 7
  else 0

/-- An ACTIVE FC3 record is held, on a SECONDARY one of the whole node (R473). -/
def State.holdsFc3 (s : State) : Bool :=
  (List.range 64).any fun i => s.recActive i && s.get (F.FLT_RECr_W1_CLASS i) == 3 &&
    (s.role != .secondary ||
      s.flt.holds.any fun h => h.recNo == some (s.get (F.FLT_RECr_W0_NUM i)) && h.cls == 3 && h.node)

/-- The last FC3 record of the node is cleared (R473): a member in FULL returns in place; a SINGLE HEAD resumes SOLO, and
any other HEAD stays OUT until it is admitted. -/
def State.fc3Cleared (s : State) : State :=
  if s.isMember then s.when (s.stage == Stage.full) (·.leaveService true)
  else s.when (s.isHead && s.flag F.SYS_ROLE_SINGLE && s.dpxState == Dpx.out) fun s =>
    let s1 := s.put F.DPX_STAT_STATE Dpx.solo
    s1.when s1.isPrimary (·.takeHost)

/-- Clear record `num` (R472): CLEARED, no longer ACTIVE, its holds released, the record reported again (R465). -/
def State.recordClear (s : State) (num : Nat) : State :=
  let err := s.clearErr num
  if err != 0 then s.clrDone err
  else
    let i := recIdx num
    let s1 := (s.setFlag (F.FLT_RECr_W1_CLEARED i) true).setFlag (F.FLT_RECr_W1_ACTIVE i) false
    let s2 := { s1 with flt := { s1.flt with holds := s1.flt.holds.filter (fun h => h.recNo != some num) } }
    let s3 := s2.fltRefresh.gdEscalRefresh
    let s4 := s3.reportRecord num
    let s5 := s4.when (s.holdsFc3 && !s4.holdsFc3) (·.fc3Cleared)
    s5.clrDone 0

/-- The masters that may write the host-writable set: the management processor, the host agent, and the ring agent with
the rights of its originating master (R472, R528, R530, R532). -/
def State.mayClear (s : State) (m : Master) : Bool := s.asMp m || m == .ha || m == .ra

/-- Why a station clear is refused (R474, R482). -/
def State.stationErr (s : State) : Nat :=
  if !s.isPrimary then 4
  else if Nat.blt s.flt.quiet 8 || s.flag F.FLT_STAT_TRIP_REQ then 5
  else if !s.flag F.FLT_STN_TRIP || s.flag F.FLT_STN_CLEAR then 6
  else 0

/-- A station clear (R474): C is 64 cycles ahead, sent with CLEAR = 1. -/
def State.stationClear (s : State) : State :=
  let err := s.stationErr
  if err != 0 then s.clrDone err
  else
    let c := s.scn + 64
    let s1 := ((s.setFlag F.FLT_STN_CLEAR true).put F.FLT_STN_C (c.toNat % 65536)).clrDone 0
    { s1 with flt := { s1.flt with clearAt := some c } }

/-! ### FLTI (R476) -/

/-- The FLTI pair has held a level for FILT (R476). -/
def State.fltiChange (s : State) (l : FltiLevel) : State :=
  if !s.flag F.FLT_FLTI_EN then s
  else
    let cls := s.get F.FLT_FLTI_CLS
    let sc : Scope := if cls = 4 then .station else .node
    match l with
    | .ok => ((s.endCause 0x0201 0).endCause 0x0202 0).put F.FLT_STAT_FLTI 0
    | .fault => s.when (s.get F.FLT_STAT_FLTI != 1) fun s =>
        (s.put F.FLT_STAT_FLTI 1).raise { code := 0x0201, cls := cls, scope := sc, ended := false }
    | .broken => s.when (s.get F.FLT_STAT_FLTI != 2) fun s =>
        (s.put F.FLT_STAT_FLTI 2).raise { code := 0x0202, cls := cls, scope := sc, ended := false }

/-! ### The batch ledger (R477 to R480) -/

namespace Led
def free : Nat := 0
def staging : Nat := 1
def staged : Nat := 2
def committing : Nat := 3
def committed : Nat := 4
def aborted : Nat := 5
end Led

/-- Entries of this node's ledger (R479). -/
def State.ledSize (s : State) : Nat := if s.isHead then 64 else 16

def State.ledState (s : State) (e : Nat) : Nat := s.get (F.FLT_LEDe_W2_STATE e)
def State.ledId (s : State) (e : Nat) : Word := s.rd (R.FLT_LEDe_Ww e 0)
def State.ledDist (s : State) (e : Nat) : Bool := s.flag (F.FLT_LEDe_W2_DIST e)

/-- The entry of a batch in one of two forms that is not FREE. -/
def State.ledFind (s : State) (id : Word) (dist : Bool) : Option Nat :=
  (List.range s.ledSize).find? fun e => s.ledState e != Led.free && s.ledDist e == dist && s.ledId e == id

/-- An entry changes STATE, with the SCN of the change (R479). -/
def State.ledTo (s : State) (e st cause : Nat) : State :=
  ((s.put (F.FLT_LEDe_W2_STATE e) st).put (F.FLT_LEDe_W2_CAUSE e) cause).wr (R.FLT_LEDe_Ww e 12) s.scn

def State.ledFinal (s : State) (e : Nat) : Bool := s.ledState e == Led.committed || s.ledState e == Led.aborted

/-- The entry a new batch takes: the first FREE one, else the COMMITTED or ABORTED one that changed longest ago (R477). -/
def State.ledSlot (s : State) : Option Nat :=
  let es := List.range s.ledSize
  match es.find? fun e => s.ledState e == Led.free with
  | some e => some e
  | none =>
    let age := fun (e : Nat) => (s.scn - s.rd (R.FLT_LEDe_Ww e 12)).toNat
    (es.filter s.ledFinal).foldl (fun b e => match b with
      | none => some e
      | some x => if Nat.blt (age x) (age e) then some e else some x) none

/-- Batch `id` is aborted or dropped here: row 6 of R458. -/
def State.batchFault (s : State) (code : Nat) (id : Word) : State :=
  s.raise { code := code, cls := 1, scope := .node, kind := 9, inst := id.toNat % 2 ^ 28 }

/-- A target tells the primary how a batch ended, with W2, W3 to W10 and W13 of its entry (R538; log entry 62). -/
def State.sendOutcome (s : State) (e : Nat) : State :=
  let p := s.obeyed
  let w := fun (k : Nat) => s.rd (R.FLT_LEDe_Ww e k)
  if s.ledDist e || p = 0xFF || p = s.pos then s
  else s.bulkSend p 1 (wordBytes ([w 0, w 1, 0x00010000] ++ (List.range 9).map (fun k => w (2 + k)) ++ [w 13]))

/-- An entry is aborted; a target entry raises row 6 (R458, R477, R478, R480), with the other raises of the cycle. -/
def State.ledAbort (s : State) (e cause : Nat) : State :=
  let s1 := s.ledTo e Led.aborted cause
  if s.ledDist e then s1
  else (s1.sendOutcome e).raiseLater { code := 0x0206, cls := 1, scope := .node, kind := 9, inst := (s.ledId e).toNat % 2 ^ 28 }

/-- Write the words of a new entry, STAGING with nothing received (R479). -/
def State.ledNew (s : State) (e : Nat) (id c : Word) (count : Nat) (dist : Bool) (targets : Nat) : State :=
  let s1 := (s.wr (R.FLT_LEDe_Ww e 0) id).wr (R.FLT_LEDe_Ww e 1) c
  let s2 := s1.wrN (R.FLT_LEDe_Ww e 2) (Led.staging ||| b2n dist <<< 8 ||| (count % 512) <<< 16)
  let s3 := forUpTo 8 (fun k s => s.wrN (R.FLT_LEDe_Ww e (3 + k)) (targets >>> (32 * k))) s2
  let s4 := (s3.wrN (R.FLT_LEDe_Ww e 11) 0).wr (R.FLT_LEDe_Ww e 12) s.scn
  let s5 := ((s4.wrN (R.FLT_LEDe_Ww e 13) 0xFFFF).wrN (R.FLT_LEDe_Ww e 14) 0).wrN (R.FLT_LEDe_Ww e 15) 0
  { s5 with flt := { s5.flt with items := Bank.upd [] s5.flt.items e [] } }

/-- Items of a STAGING entry arrive; it is STAGED when all have (R477). -/
def State.ledItems (s : State) (e : Nat) (items : List (Word × Word)) : State :=
  let all := (Bank.at [] s.flt.items e ++ items).take (s.get (F.FLT_LEDe_W2_COUNT e))
  let s1 := { s with flt := { s.flt with items := Bank.upd [] s.flt.items e all } }
  let s2 := s1.put (F.FLT_LEDe_W11_RECVD e) all.length
  if all.length = s2.get (F.FLT_LEDe_W2_COUNT e) then s2.ledTo e Led.staged 0 else s2

/-- Part of a batch arrives at a target (R477): its items join the STAGING entry of the batch, or open one. -/
def State.batchStage (s : State) (id c : Word) (count : Nat) (items : List (Word × Word)) : State :=
  let open? := (List.range s.ledSize).find? fun e =>
    s.ledState e == Led.staging && !s.ledDist e && s.ledId e == id && s.rd (R.FLT_LEDe_Ww e 1) == c
  match open? with
  | some e => s.ledItems e items
  | none =>
    if id = 0 || count = 0 || Nat.blt 256 count then s
    else match s.ledSlot with
      | none => s.batchFault 0x0206 id
      | some e =>
        let s1 := s.ledNew e id c count false 0
        if scnLater c (s.scn + 1) then s1.ledItems e items else (s1.ledAbort e 2).raiseDue

/-- A relayed cancel moves a STAGING or STAGED entry to ABORTED (R480). -/
def State.batchCancel (s : State) (id : Word) (dist : Bool) : State :=
  ((List.range s.ledSize).foldl (fun s e =>
    s.when (s.ledDist e == dist && s.ledId e == id &&
      (s.ledState e == Led.staging || s.ledState e == Led.staged)) (·.ledAbort e 3)) s).raiseDue

/-- A target acknowledged staging: the distribution entry counts it and is STAGED once every target has (R479). -/
def State.distAck (s : State) (id : Word) : State :=
  match s.ledFind id true with
  | none => s
  | some e =>
    let n := s.get (F.FLT_LEDe_W11_RECVD e) + 1
    let s1 := s.put (F.FLT_LEDe_W11_RECVD e) n
    let targets := (List.range 8).foldl (fun m k => m +
      (List.range 32).foldl (fun m b => m + b2n ((s.rd (R.FLT_LEDe_Ww e (3 + k))).getLsbD b)) 0) 0
    if s1.ledState e = Led.staging && n = targets then s1.ledTo e Led.staged 0 else s1

/-- Entries in rising order of batch id. -/
def State.byId (s : State) (l : List Nat) : List Nat :=
  l.foldl (fun acc e =>
    let before := acc.filter fun x => Nat.ble (s.ledId x).toNat (s.ledId e).toNat
    let after := acc.filter fun x => Nat.blt (s.ledId e).toNat (s.ledId x).toNat
    before ++ [e] ++ after) []

/-- Boundary c of a batch (R478): entries still STAGING are aborted, STAGED target entries wait for the ring agent in
rising batch id, and a distribution entry that every target acknowledged is COMMITTED. -/
def State.batchBoundary (s : State) : State :=
  let due := (List.range s.ledSize).filter fun e =>
    (s.ledState e == Led.staging || s.ledState e == Led.staged) && s.rd (R.FLT_LEDe_Ww e 1) == s.scn
  let ready := s.byId (due.filter fun e => s.ledState e == Led.staged && !s.ledDist e)
  let s1 := due.foldl (fun s e =>
    if s.ledState e = Led.staging then s.ledAbort e 1
    else if s.ledDist e then s.ledTo e Led.committed 0 else s) s
  { s1 with flt := { s1.flt with
    applying := s1.flt.applying ++ ready.map fun e => ⟨e, 0⟩
    applyAt := if s1.flt.applying.isEmpty then s1.sys.up else s1.flt.applyAt } }

/-! ### Meanings -/

def execFaultRaise (r : RaiseIn) (back : Bool) (s : State) : Host.Outcome State Fault Refusal :=
  .next (s.live fun s => s.pairFault r back)

def execBrokenPair (r : RaiseIn) (back : Bool) (s : State) : Host.Outcome State Fault Refusal :=
  .next (s.live fun s => s.pairBroken r back)

def execRecordClose (s : State) : Host.Outcome State Fault Refusal := .next (s.live fun s => s.recordClose)

def execRecordClear (m : Master) (n : BitVec 16) (s : State) : Host.Outcome State Fault Refusal :=
  .next (s.byMaster m fun s => if s.mayClear m then s.recordClear n.toNat else s.violation m true R.FLT_CLR)

def execStationClear (m : Master) (s : State) : Host.Outcome State Fault Refusal :=
  .next (s.byMaster m fun s => if s.mayClear m then s.stationClear else s.violation m true R.FLT_CLR)

def execFltiChange (level : FltiLevel) (s : State) : Host.Outcome State Fault Refusal :=
  .next (s.live fun s => s.fltiChange level)

def execBatchStage (id c : Word) (count : Nat) (items : List (Word × Word)) (s : State) :
    Host.Outcome State Fault Refusal :=
  .next (s.live fun s => s.batchStage id c count items)

def execBatchCancel (id : Word) (s : State) : Host.Outcome State Fault Refusal :=
  .next (s.live fun s => s.batchCancel id false)

end Sys2Proof.Machine
end

