-- ==== Sys2Proof/Machine/Glaze.lean ====
section
/-! DEFINITION. Machine/Glaze.lean: the Glaze (R408 to R414): its bytes as the primary forms them, their transfer over
lane G, the comparison of Proofing and the state a HEAD takes from it. Where R409 names a section's content and no
offsets, the layout is the model's (log entry 63).
Marked choices: log entry 40 (DEDUCED); log entry 63 (DESIGN CHOICE). -/
namespace Sys2Proof.Machine

/-- Slot states in the Glaze (R409). -/
def State.glazeNs (s : State) : Nat := 32 * s.get F.DPX_CFG_NS32

/-- Bytes of the Glaze. -/
def State.glazeLen (s : State) : Nat := 0x3000 + 48 * s.glazeNs

def gather (n : Nat) (f : Nat → List Word) : List Word := (List.range n).foldl (fun l i => l ++ f i) []

/-- Contests: HANDOVERS and WIN, then y. -/
def State.glazeContests (s : State) : List Word :=
  gather 64 fun m => [s.rd (R.CE_CONm_STAT m) &&& 0xFFFFFFC0, s.rd (R.CE_CONm_Y m)]

/-- A voltage that may be missing, as a word: none is a NaN, which no valid voltage is. -/
def voltWord (v : Option Word) : Word := v.getD 0x7FC00000

def State.glazeReq (s : State) : List Word :=
  match s.bal.req with
  | some r => [BitVec.ofNat 32 (1 ||| r.op <<< 4 ||| r.pos <<< 8 ||| b2n r.joined <<< 16), r.bound]
  | none => [0, 0]

/-- Balancer, one stack: header of 16 words, then 60 cells of 4. -/
def State.glazeStack (s : State) (k : Nat) : List Word :=
  let b := s.balStk k
  let pw := s.rd (R.CE_SLOTn_U (s.get (F.BAL_STKs_SRC_PSLOT k)))
  [s.rd (R.BAL_STKs_STAT k), b.m, b.d, pw, BitVec.ofNat 32 b.satRun, s.rd R.BAL_REQ_STAT] ++ s.glazeReq ++
    List.replicate 8 0 ++
    gather 60 fun i => [s.rd (R.BAL_STKs_CELLi_STAT k i), s.rd (R.BAL_STKs_CELLi_PH k i), s.rd (R.BAL_STKs_CELLi_DAB k i),
      voltWord (s.balCell k i).v]

/-- Member table, one position: admission state, stage, tier, REASON; last ACK status word. -/
def memberWords (m : Member) : List Word :=
  [BitVec.ofNat 32 (m.adm ||| m.stage <<< 8 ||| m.tier <<< 16 ||| m.reason <<< 24), BitVec.ofNat 32 m.ack, 0, 0]

def State.glazeMembers (s : State) : List Word := gather 256 fun p => memberWords (s.member p)

def State.glazeLedger (s : State) : List Word := gather 64 fun e => (List.range 16).map fun w => s.rd (R.FLT_LEDe_Ww e w)

def State.glazeSeq (s : State) : List Word :=
  [s.rd R.SUP_RSEQ, s.rd R.SUP_CSEQ, s.rd R.DPX_SWAP_SCN, s.rd R.DPX_SWAP_STAT, s.dpx.reportNo,
    BitVec.ofNat 32 (b2n s.flt.clearAt.isSome), s.flt.clearAt.getD 0] ++ List.replicate 57 0

/-- Slot n: E1 to E3, W1 to W3, XT, U, PLM4 to PLM6, and the status word of R409. -/
def State.glazeSlot (s : State) (n : Nat) : List Word :=
  let st := s.num (R.CE_SLOTn_STAT n) % 4096 ||| s.get (F.CE_SLOTn_PLM0_STATE n) <<< 12 |||
    s.get (F.CE_SLOTn_PLM0_CNTW n) <<< 20 ||| s.get (F.CE_SLOTn_PLM0_CNTF n) <<< 16
  (List.range 3).map (fun e => s.rd (R.CE_SLOTn_E n e)) ++ (List.range 3).map (fun e => s.rd (R.CE_SLOTn_W n e)) ++
    [s.rd (R.CE_SLOTn_XT n), s.rd (R.CE_SLOTn_U n)] ++ (List.range 3).map (fun e => s.rd (R.CE_SLOTn_PLM n (4 + e))) ++
    [BitVec.ofNat 32 st]

/-- The sections from 0x0100 to the end. -/
def State.glazeBody (s : State) : List Byte :=
  wordBytes (s.glazeContests ++ s.glazeStack 0 ++ s.glazeStack 1 ++ s.glazeStack 2 ++ s.glazeMembers ++ s.glazeLedger ++
    s.glazeSeq ++ gather s.glazeNs s.glazeSlot)

/-- The 256 bytes of the header (R409). -/
def State.glazeHead (s : State) (body : List Byte) : List Byte :=
  padTo 256 (leBytes 4 0x5A47514B ++ leBytes 2 1 ++ leBytes 2 (s.get F.DPX_CFG_NS32) ++ leBytes 4 s.scn.toNat ++
    leBytes 1 s.tier ++ leBytes 1 s.pos ++ leBytes 2 0 ++ leBytes 4 s.dpx.inCrc ++ leBytes 4 (crc32c body) ++
    leBytes 6 (stimeOfTick s.tim.lastB >>> 24) ++ leBytes 2 0 ++
    (leBytes 8 s.img.image.cfgDig.toNat).reverse ++ leBytes 4 s.glazeLen)

def State.glazeBytes (s : State) : List Byte := let b := s.glazeBody; s.glazeHead b ++ b

/-- TYPE of a Glaze codeword (R410). -/
def tyGlaze : Nat := 9

/-- The station loops and the balancer have committed: nothing of them is in progress (R408, R413). -/
def State.loopsDone (s : State) : Bool :=
  !s.flag F.BAL_STAT_BUSY && (List.range 8).all fun g => s.get (F.CE_RGn_CFG_TYPE g) != 1 || (s.engGroup g).run.isNone

/-- The primary sends the Glaze of the cycle on lane G to an admitted standby, once, after its commits (R395, R408, R410). -/
def State.glazeSend (s : State) : State :=
  if s.duplex && s.dpxState == Dpx.primary && (s.member s.otherHead).adm == 2 && s.flag (F.LNK_PORTx_STAT_UP 4) &&
      s.loopsDone && s.dpx.glzSent != some s.scn then
    let l := cutBytes 176 (s.glazeLen + 1) s.glazeBytes
    let s := { s with dpx := { s.dpx with glzSent := some s.scn } }
    ((List.range l.length).zip l).foldl (fun s c =>
      let h : Hdr := ⟨tyGlaze, s.pos, s.otherHead, s.scn.toNat % 256, 0, 0, c.2.length⟩
      s.sendLine 4 0 (codeword h (leBytes 2 c.1 ++ c.2))) s
  else s

/-! ### Proofing -/

/-- The uplink items bound by an enabled slot of this HEAD or by the balancer: origin and index (R413). -/
def State.boundItems (s : State) : List (Nat × Nat) :=
  let slots := (s.slots.filter s.slotEn).foldl (fun l n =>
    l ++ ([s.rd (R.CE_SLOTn_IN_REF n), s.rd (R.CE_SLOTn_IN_FB n), s.rd (R.CE_SLOTn_IN_FF n)].filterMap fun w =>
      if bits w.toNat 28 4 = 2 then some (bits w.toNat 16 8, bits w.toNat 0 16) else none)) []
  let bal := s.img.image.table.foldl (fun l e =>
    l ++ (if e.role = 2 then [(e.pos.toNat, s.get (F.BAL_STKs_VDC_ITEM_ITEM e.stack)), (e.pos.toNat, Idx.status)]
          else if e.role = 3 then [(e.pos.toNat, Idx.status)] else [])) []
  slots ++ bal

/-- Insert in rising order, without repeats. -/
def insertKey (k : Nat) : List Nat → List Nat
  | [] => [k]
  | a :: t => if k < a then k :: a :: t else if k = a then a :: t else a :: insertKey k t

/-- IN_CRC of the items as taken (R413). -/
def State.inputCrc (s : State) : Nat :=
  let keys := s.boundItems.foldl (fun l k => insertKey (k.1 * 65536 + k.2) l) []
  crc32c (keys.foldl (fun b k => b ++ (match s.uplink (k / 65536) (k % 65536) with
    | some v => leBytes 1 1 ++ leBytes 4 v.toNat
    | none => leBytes 5 0)) [])

/-- Offset of the first word that differs between two Glazes in [from, from + 4n). -/
def firstDiff (a b : List Byte) : Nat → Nat → Option Nat
  | 0, _ => none
  | n + 1, ofs => if a.take 4 == b.take 4 then firstDiff (a.drop 4) (b.drop 4) n (ofs + 4) else some ofs

/-- The sections that Proofing compares (R413): contests and balancer, and the slot states. -/
def glazeDiff (a b : List Byte) (ns : Nat) : Option Nat :=
  match firstDiff (a.drop 0x100) (b.drop 0x100) (0xE00 / 4) 0x100 with
  | some o => some o
  | none => firstDiff (a.drop 0x3000) (b.drop 0x3000) (12 * ns) 0x3000

/-- A standby compares a complete Glaze with its own state, or skips the cycle (R413, R414). -/
def State.proof (s : State) (g : List Byte) : State :=
  if leAt g 0x10 4 != s.dpx.inCrc then
    let s1 := s.bumpReg R.DPX_CNT_SKIP
    { s1 with dpx := { s1.dpx with perSkip := s1.dpx.perSkip + 1 } }
  else
    let s1 := s.wr R.DPX_CNT_CMP (s.rd R.DPX_CNT_CMP + 1)
    let s2 := { s1 with dpx := { s1.dpx with perCmp := s1.dpx.perCmp + 1 } }
    match glazeDiff g s.glazeBytes s.glazeNs with
    | none => s2
    | some o =>
      let n : Word := BitVec.ofNat 32 (leAt g 8 4)
      let first := s2.rd R.DPX_MM_OFS == 0xFFFFFFFF
      let s3 := (s2.bumpReg R.DPX_CNT_MM).when first (fun s => (s.wrN R.DPX_MM_OFS o).wr R.DPX_MM_SCN n)
      let d := s3.dpx
      let p1 := d.perOfs == 0xFFFFFFFF
      let s4 := { s3 with dpx := { d with
        perMm := d.perMm + 1, perOfs := if p1 then BitVec.ofNat 32 o else d.perOfs, perScn := if p1 then n else d.perScn
        cleanReports := 0 } }
      (s4.setFlag F.DPX_STAT_PROVEN false).raise { code := 0x0D05, cls := 1, scope := .station }

/-! ### Receiving -/

/-- Chunks of a Glaze (R410). -/
def State.glazeChunkCount (s : State) : Nat := (s.glazeLen + 175) / 176

/-- The bytes of the chunks received, in order. -/
def State.glazeJoin (s : State) : List Byte :=
  ((List.range s.glazeChunkCount).foldl (fun l c => l ++ Bank.at [] s.dpx.glazeRx c) []).take s.glazeLen

/-- The copy is complete (R412): every chunk, GLZ_CRC, and the header's SCN. -/
def State.glazeOk (s : State) (g : List Byte) : Bool :=
  leAt g 0 4 == 0x5A47514B && leAt g 8 4 == s.dpx.glazeScn.toNat && leAt g 0x14 4 == crc32c (g.drop 0x100)

/-- The cycle a chunk's TAG names: the present one, or the last one until T_UP (R410, R412). -/
def State.glazeCycle (s : State) (tag : Nat) : Option Word :=
  if tag = s.scn.toNat % 256 then some s.scn
  else if tag = (s.scn - 1).toNat % 256 && !s.dpx.tup then some (s.scn - 1)
  else none

/-- A Glaze codeword arrives on lane G (R410, R412, R413). -/
def State.glazeReceived (s : State) (a : Arrival) : State :=
  let cw := a.cw
  let st := s.dpxState
  let on := s.duplex && (st == Dpx.sync || st == Dpx.standby || st == Dpx.primary)
  if !(on && cwValid tyGlaze cw a.uncorr && byteAt cw 1 == s.otherHead && byteAt cw 2 == s.pos) then s
  else match s.glazeCycle (byteAt cw 3) with
    | none => s
    | some n =>
      let d := s.dpx
      let s1 := if d.glazeScn == n && (d.glazeChunks != 0 || d.glazeDone.isSome) then s
        else { s with dpx := { d with glazeRx := [], glazeScn := n, glazeChunks := 0, glazeDone := none } }
      let c := leAt cw 8 2
      let fresh := Nat.blt c s1.glazeChunkCount && Bank.at [] s1.dpx.glazeRx c == []
      if !fresh then s1
      else
        let rx := Bank.upd [] s1.dpx.glazeRx c ((cw.drop 10).take (Nat.min 176 (byteAt cw 6)))
        let s2 := { s1 with dpx := { s1.dpx with glazeRx := rx, glazeChunks := s1.dpx.glazeChunks + 1 } }
        if s2.dpx.glazeChunks != s2.glazeChunkCount then s2
        else
          let g := s2.glazeJoin
          if !s2.glazeOk g then s2
          else
            let wait := st == Dpx.standby && !s2.loopsDone
            let s3 := { s2 with dpx := { s2.dpx with glazeDone := some g, proofDue := wait } }
            let s4 := s3.when (st == Dpx.standby && !wait) (·.proof g)
            let t := byteAt g 0xC
            s4.when (st == Dpx.standby && tierLater t s4.tier) fun s =>
              (((s.put F.DPX_STAT_STATE Dpx.sync).put F.DPX_STAT_TIER t).put F.DPX_STAT_PRIM (byteAt g 0xD)).setFlag
                F.DPX_STAT_PROVEN false |>.eligRefresh

/-- Write words to consecutive registers. -/
def State.wrAll (s : State) (a : Nat → Nat) (l : List Word) : State :=
  ((List.range l.length).zip l).foldl (fun s p => s.wr (a p.1) p.2) s

/-- Take the balancer state of one stack. -/
def State.takeStack (s : State) (g : List Byte) (k : Nat) : State :=
  let b := 0x300 + 1024 * k
  let w := fun (i : Nat) => (BitVec.ofNat 32 (leAt g (b + 4 * i) 4) : Word)
  let s1 := (s.wr (R.BAL_STKs_STAT k) (w 0)).setBalStk k { m := w 1, d := w 2, satRun := (w 4).toNat }
  let q := (w 6).toNat
  let req : Option BalReq := if bit q 0 then some ⟨bits q 4 2, bits q 8 8, w 7, bit q 16⟩ else none
  let s2 := ({ s1 with bal := { s1.bal with req := req } }).wr R.BAL_REQ_STAT (w 5)
  forUpTo 60 (fun i s =>
    let c := 16 + 4 * i
    let v := w (c + 3)
    let s3 := (s.wr (R.BAL_STKs_CELLi_STAT k i) (w c)).wr (R.BAL_STKs_CELLi_PH k i) (w (c + 1))
    (s3.wr (R.BAL_STKs_CELLi_DAB k i) (w (c + 2))).setBalCell k i
      { s3.balCell k i with v := if v = 0x7FC00000 then none else some v }) s2

/-- Take the state of one slot. -/
def State.takeSlot (s : State) (g : List Byte) (n : Nat) : State :=
  let w := bytesWords g (0x3000 + 48 * n) 12
  let s1 := (s.wrAll (R.CE_SLOTn_E n) (w.take 3)).wrAll (R.CE_SLOTn_W n) ((w.drop 3).take 3)
  let s2 := (s1.wr (R.CE_SLOTn_XT n) (w.getD 6 0)).wr (R.CE_SLOTn_U n) (w.getD 7 0)
  let s3 := s2.wrAll (fun e => R.CE_SLOTn_PLM n (4 + e)) ((w.drop 8).take 3)
  let st := (w.getD 11 0).toNat
  let s4 := s3.wrN (R.CE_SLOTn_STAT n) (s3.num (R.CE_SLOTn_STAT n) / 4096 * 4096 + st % 4096)
  ((s4.put (F.CE_SLOTn_PLM0_STATE n) (bits st 12 2)).put (F.CE_SLOTn_PLM0_CNTW n) (bits st 20 4)).put
    (F.CE_SLOTn_PLM0_CNTF n) (bits st 16 4)

/-- A Glaze becomes the HEAD's current state (R412): contests, balancer, member table, ledger, sequences, slots. -/
def State.glazeApply (s : State) (g : List Byte) : State :=
  let con := forUpTo 64 (fun m s =>
    let w := leAt g (0x100 + 8 * m) 4
    (s.wrN (R.CE_CONm_STAT m) (w ||| s.num (R.CE_CONm_STAT m) % 64)).wrN (R.CE_CONm_Y m) (leAt g (0x104 + 8 * m) 4)) s
  let bal := forUpTo 3 (fun k s => s.takeStack g k) con
  let mem := forUpTo 255 (fun p s =>
    let w := leAt g (0xF00 + 16 * p) 4
    s.setMember p { adm := bits w 0 8, stage := bits w 8 8, tier := bits w 16 8, reason := bits w 24 8,
                    ack := leAt g (0xF04 + 16 * p) 4 }) bal
  let led := forUpTo 64 (fun e s => s.wrAll (R.FLT_LEDe_Ww e) (bytesWords g (0x1F00 + 64 * e) 16)) mem
  let q := bytesWords g 0x2F00 7
  let seq := ((led.wr R.SUP_RSEQ (q.getD 0 0)).wr R.SUP_CSEQ (q.getD 1 0)).wr R.DPX_SWAP_SCN (q.getD 2 0)
  let sw := { seq with dpx := { seq.dpx with reportNo := q.getD 4 0, foCseq := q.getD 1 0 }
                       flt := { seq.flt with clearAt := if q.getD 5 0 = 0 then none else some (q.getD 6 0) } }
  let slots := forUpTo s.glazeNs (fun n s => s.takeSlot g n) sw
  slots.setFlag F.DPX_STAT_GLZ_OK true

/-- T_UP (R412, R421): the Glaze of the last cycle is made current, at a primary only after a planned swap; or its
miss is counted. -/
def State.glazeCurrent (s : State) : State :=
  let st := s.dpxState
  let d := s.dpx
  let g := if d.glazeScn == s.scn - 1 then d.glazeDone else none
  let s0 := { s with dpx := { d with glazeRx := [], glazeChunks := 0, glazeDone := none, swapped := false, proofDue := false } }
  let s1 := match g with
    | some g => s0.when (d.proofDue && st == Dpx.standby) (·.proof g)
    | none => s0
  match g with
  | some g =>
    if st == Dpx.sync || st == Dpx.standby || st == Dpx.primary && d.swapped then
      (s1.glazeApply g).when (st == Dpx.sync) (fun s => (s.put F.DPX_STAT_STATE Dpx.standby).eligRefresh)
    else s1
  | none =>
    if s.duplex && st == Dpx.standby && !d.swapped then
      let s2 := ((s1.bumpReg R.DPX_CNT_GMISS).setFlag F.DPX_STAT_GLZ_OK false).setFlag F.DPX_STAT_PROVEN false
      let s3 := { s2 with dpx := { s2.dpx with perMiss := s2.dpx.perMiss + 1, cleanReports := 0 } }
      s3.raise { code := 0x0D06, cls := 0, scope := .node }
    else s1

/-! ### Meanings -/

def execGlazeSend (s : State) : Host.Outcome State Fault Refusal := .next (s.live fun s => s.glazeSend)

def execGlazeCodewordReceived (s : State) : Host.Outcome State Fault Refusal :=
  .next (s.live fun s => s.takeRx (fun a => a.port == 4) fun a s => s.glazeReceived a)

end Sys2Proof.Machine
end

