-- ==== Sys2Proof/Machine/Duplex.lean ====
section
/-! DEFINITION. Machine/Duplex.lean: HEAD roles (R395 to R401), heartbeats (R402), the jury (R403 to R406), promotion and
planned swap (R417 to R423), and the health reports (R415, R416).
Marked choices: log entries 34, 40, 41 (DEDUCED); log entry 62 (DESIGN CHOICE). -/
namespace Sys2Proof.Machine

/-! ### Heartbeats -/

/-- The other HEAD's last HB is one of this cycle or of the one before. -/
def State.otherFresh (s : State) : Bool :=
  match s.dpx.otherAt with
  | some n => Nat.ble (s.scn - n).toNat 1
  | none => false

/-- FLAGS of the other HEAD, none set once it has fallen silent. -/
def State.otherNow (s : State) : Nat := if s.otherFresh then s.dpx.otherFlags else 0

/-- The other HEAD is an eligible standby, as its HB says (R395, R422). -/
def State.standbyFit (s : State) : Bool := bit s.otherNow 0 && s.dpx.otherRole == Dpx.standby

/-- ROLE of this HEAD's HB: its state, and START for a SOLO HEAD before its claim (R400, R402). -/
def State.hbRole (s : State) : Nat := if s.dpxState = Dpx.solo && !s.isPrimary then Dpx.start else s.dpxState

/-- The HB body (R402). -/
def State.hbBody (s : State) (claim : Bool) : List Byte :=
  let src := s.flag F.CLK_STAT_SOURCE
  let flags := b2n (s.flag F.DPX_STAT_ELIG) ||| b2n (s.flag F.DPX_STAT_PROVEN) <<< 1 ||| b2n s.swapNamed <<< 2 |||
    b2n s.dpx.swapAck.isSome <<< 3 ||| b2n src <<< 4 ||| b2n claim <<< 5
  let jury := s.dpxState == Dpx.primary
  leBytes 1 s.hbRole ++ leBytes 1 s.tier ++ leBytes 2 flags ++ leBytes 4 s.scn.toNat ++
    leBytes 4 (if s.swapNamed then s.num R.DPX_SWAP_SCN else 0) ++ (leBytes 8 s.img.image.cfgDig.toNat).reverse ++
    leBytes 2 s.img.image.epoch ++ leBytes 2 s.img.image.minEpoch ++ leBytes 2 (if src then s.clk.rampB else 0) ++
    leBytes 1 (if jury then s.get F.DPX_JURY_J else 0) ++ leBytes 1 (if jury then s.get F.DPX_JURY_H else 0)

/-- Send the HB on both rings in both directions, on a lane (R402). -/
def State.sendHb (s : State) (lane : Nat) (claim : Bool) : State :=
  s.sendAll lane Ty.hb 0xFF s.scn.toNat 0 (s.hbBody claim)

/-! ### Roles -/

/-- One admission attempt has been answered by the HEAD at `head`. -/
def State.admAnswer (s : State) (head adm reason : Nat) : State :=
  let s1 := (s.bump F.IMG_ADM_STAT_TRIES).put F.IMG_ADM_STAT_HEAD_POS head
  (s1.put F.IMG_ADM_STAT_ADM adm).put F.IMG_ADM_STAT_REASON reason

/-- Check 3 (R109): equal digests, or either image lists the other's. -/
def State.digFits (s : State) (a : Ask) : Bool :=
  a.dig == s.img.image.cfgDig || a.lists || s.img.image.pred.contains a.dig

/-- The HEAD's configuration digest has changed hands (R109): a node HELD on REASON = 3 is checked again, by its last request
where this HEAD has it; its time is then measured as after a hold for time. -/
def State.recheckHeld (s : State) : State :=
  forUpTo 256 (fun p s =>
    s.when ((s.member p).adm == 3 && (s.member p).reason == 3 && s.digFits (s.ask p))
      (·.setMember p { s.member p with reason := 4 })) s

/-- What follows a change of a HEAD's state: eligibility, and the port's role (R395, R519). -/
def State.roleRefresh (s : State) : State := s.eligRefresh.supStat

/-- A HEAD enters a state; PROVEN goes when it leaves STANDBY (R416), and the run starts over. -/
def State.toDpx (s : State) (st : Nat) : State :=
  let s1 := (s.put F.DPX_STAT_STATE st).put F.DPX_STAT_RUN 0
  (s1.when (st != Dpx.standby) (·.setFlag F.DPX_STAT_PROVEN false)).roleRefresh

/-- A HEAD leads with a tier: PRIM, FO_STAT and its cause (R399, R417, R421). -/
def State.lead (s : State) (tier cause : Nat) : State :=
  let prev := s.get F.DPX_STAT_PRIM
  let s1 := (s.put F.DPX_STAT_TIER tier).put F.DPX_STAT_PRIM s.pos
  let s2 := ((s1.put F.DPX_FO_STAT_TIER tier).put F.DPX_FO_STAT_PREV prev).put F.DPX_FO_STAT_CAUSE cause
  { s2 with dpx := { s2.dpx with hasTier := true, eligAt := s2.sys.up, noElig := false } }

/-- A pending swap is cancelled with FC0 (R420). -/
def State.swapAbort (s : State) (err : Nat) : State :=
  s.when (s.get F.DPX_SWAP_STAT_STATE == 1) fun s =>
    (s.swapEnd err).raiseLater { code := 0x0D09, cls := 0, scope := .station }

/-- A primary stands down (R401, R406): the host, the reference and a pending swap go with the role (R90, R204, R420). -/
def State.demoteLater (s : State) (st code : Nat) : State :=
  let s1 := (s.swapAbort 5).giveUpRoot
  let s2 := (s1.toDpx st).selectUp
  let s3 := if st = Dpx.sync then s2.put F.IMG_ADM_STAT_ADM 1 else s2
  s3.raiseLater { code := code, cls := 1, scope := .station }

def State.demote (s : State) (st code : Nat) : State := (s.demoteLater st code).raiseDue

/-- The claim of R399 and R400, with the HEAD's own admission (R112). -/
def State.claim (s : State) : State :=
  let tier := if s.dpx.hasTier then (s.tier + 1) % 256 else 1
  let s1 := s.lead tier 1
  let s2 := s1.when (!s1.flag F.SYS_ROLE_SINGLE) (·.toDpx Dpx.primary)
  let s3 := ((s2.put F.IMG_ADM_STAT_ADM 2).put F.IMG_ADM_STAT_HEAD_POS s2.pos).setMember s2.pos
    { adm := 2, stage := Stage.pbAdm, tier := tier }
  let s4 := s3.when (s3.stage == Stage.pbWait) (·.toStage Stage.pbAdm)
  let s5 := s4.takeHost
  let s6 := s5.when (!s5.flag F.SYS_ROLE_SINGLE) (·.takeSource)
  (s6.raise { code := 0x0D01, cls := 0, scope := .station }).roleRefresh

/-- A HEAD whose position another HEAD in service holds does not claim (R112): it is refused as R34 refuses a node, and enters
OUT. -/
def State.claimRefused (s : State) : State :=
  let s1 := ((s.admAnswer s.pos 3 1).put F.SYS_ROLE_BIND 4).put F.DPX_STAT_STATE Dpx.out
  (s1.raise { code := 0x0102, cls := 1, scope := .position s.pos, kind := 6, inst := s.pos }).roleRefresh.toStage Stage.refused

/-- The length of the listen window in ms (R399, R400). -/
def State.listenMs (s : State) : Nat := if s.pos = 0 || s.flag F.SYS_ROLE_SINGLE then 10 else 200

/-- The listen window ends (R112, R399, R439): without a PRIMARY heard, the HEAD claims. -/
def State.listenEnd (s : State) : State :=
  if !(s.isHead && s.dpx.listening) then s
  else
    let s0 := s.runUp (s.img.pbAt + msTicks s.listenMs)
    let s1 := ({ s0 with dpx := { s0.dpx with listening := false } }).safListenEnd
    s1.when (!s1.dpx.heard && (s1.dpxState == Dpx.start || s1.dpxState == Dpx.solo)) fun s =>
      if s.dpx.twin then s.claimRefused else s.claim

/-- A HEAD sees a tier in an HB or a jury word, later than its own or its first (R397, R399, R405). -/
def State.seeTier (s : State) (t : Nat) : State :=
  s.when (!s.dpx.hasTier || tierLater t s.tier) fun s =>
    { s.put F.DPX_STAT_TIER t with dpx := { s.dpx with hasTier := true } }

/-- A member takes an HB (R398, R403). -/
def State.hbAtMember (s : State) (via : Via) (src tier : Nat) (prim : Bool) : State :=
  let s1 := s.when (prim && s.dpx.hasTier && tierLater tier s.tier) fun s =>
    ((s.put F.DPX_MBR_STAT_TIER tier).put F.DPX_MBR_STAT_OBEY src).selectUp
  let y := via.ring == .y
  let b := if src = s1.obeyed then (if prim then b2n y + 1 else 0) else b2n y + 3
  if b = 0 then s1 else { s1 with dpx := { s1.dpx with juryNow := setBit s1.dpx.juryNow (b - 1) true } }

/-- A HEAD takes the other HEAD's HB (R399, R401, R420, R421); a primary's tier is its own claim (R402). -/
def State.hbAtHead (s : State) (src tier role flags : Nat) (swap : Word) (prim : Bool) : State :=
  let fit := bit flags 0 && role == Dpx.standby
  let s0 := { s with dpx := { s.dpx with
    otherRole := role, otherFlags := flags, otherAt := some s.scn
    eligAt := if fit then s.sys.up else s.dpx.eligAt, noElig := s.dpx.noElig && !fit } }
  if s0.flag F.SYS_ROLE_SINGLE then s0
  else if s0.dpxState = Dpx.primary then
    if prim && tierLater tier s0.tier then (((s0.seeTier tier).put F.DPX_STAT_PRIM src).demote Dpx.sync 0x0D03)
    else if prim && tier == s0.tier then
      (if s0.pos = 1 then (s0.put F.DPX_STAT_PRIM src).demote Dpx.sync 0x0D04
       else s0.raise { code := 0x0D04, cls := 1, scope := .station })
    else s0
  else
    let s1 := s0.seeTier tier
    let s2 := s1.when (prim && tier == s1.tier && s1.get F.DPX_STAT_PRIM != src) fun s =>
      (s.put F.DPX_STAT_PRIM src).selectUp
    let ack := if prim && s2.dpxState == Dpx.standby && bit flags 2 then some swap else none
    let s3 := ({ s2 with dpx := { s2.dpx with swapAck := ack } }).setFlag F.DPX_STAT_SWAP_PEND ack.isSome
    s3.when (prim && s3.dpxState == Dpx.start) fun s =>
      (({ s with dpx := { s.dpx with heard := true } }).toDpx Dpx.sync).put F.IMG_ADM_STAT_ADM 1

/-- A valid HB decodes (R398): the ramp phase of the reference source is kept (R85), and an HB of a HEAD in service from this
HEAD's own position shows that the position is taken (R112). -/
def State.hbReceived (s : State) (a : Arrival) : State :=
  let cw := a.cw
  let src := byteAt cw 1
  let role := byteAt cw 8
  if !(cwValid Ty.hb cw a.uncorr && Nat.ble src 1) then s
  else if src = s.pos then
    s.when (s.isHead && s.dpx.listening && role != Dpx.start && role != Dpx.out) fun s =>
      { s with dpx := { s.dpx with twin := true } }
  else
    let prim := role == Dpx.primary || role == Dpx.solo
    let tier := byteAt cw 9
    let s := s.when (bit (leAt cw 10 2) 4) fun s =>
      { s with clk := { s.clk with srcRamp := some (leAt cw 32 2, BitVec.ofNat 32 (leAt cw 12 4)) } }
    if s.isHead then s.hbAtHead src tier role (leAt cw 10 2) (BitVec.ofNat 32 (leAt cw 16 4)) prim
    else s.when s.isMember (·.hbAtMember a.via src tier prim)

/-! ### The jury -/

/-- The jury word of a member (R403): what the previous cycle heard, and its tier. -/
def State.juryWord (s : State) : Nat := s.dpx.juryPrev % 16 ||| s.tier <<< 8

/-- Admitted member positions of the member table (R404). -/
def State.jurySize (s : State) : Nat :=
  (List.range 253).foldl (fun n i => n + b2n ((s.member (i + 2)).adm == 2)) 0

/-- A standby promotes at T_UP (R405, R417). -/
def State.promote (s : State) : State :=
  let s1 := (s.lead ((s.tier + 1) % 256) 2).toDpx Dpx.primary
  let s2 := { s1 with dpx := { s1.dpx with claimHb := true, promote := true, swapAck := none }
                      flt := { s1.flt with clearAt := none } }
  s2.raiseLater { code := 0x0D02, cls := 1, scope := .station }

/-- JURY_CNT, 0 acting as 1. -/
def State.juryCnt (s : State) : Nat := Nat.max 1 (s.get F.DPX_CFG_JURY_CNT)

/-- The count of R404 and the runs of R405 and R406, at T_UP. -/
def State.juryCount (s : State) : State :=
  if !s.duplex then s
  else
    let s0 := s.rng.jury.foldl (fun s v =>
      let t := v.2 / 256 % 256
      s.when (s.isStandby && tierLater t s.tier) fun s => (s.seeTier t).put F.DPX_STAT_RUN 0) s
    let late := s0.tier != s.tier
    let cnt := fun (heard : Bool) => s0.rng.jury.foldl (fun n v =>
      n + b2n (v.2 / 256 % 256 == s0.tier && (v.2 % 4 != 0) == heard)) 0
    let j := s0.jurySize
    let sup := cnt false
    let h := cnt true
    let s1 := ((s0.put F.DPX_JURY_J j).put F.DPX_JURY_S sup).put F.DPX_JURY_H h
    let bump := fun (s : State) (c : Bool) => s.put F.DPX_STAT_RUN (if c then s.get F.DPX_STAT_RUN + 1 else 0)
    if s1.dpxState = Dpx.standby then
      let s2 := bump s1 (s1.flag F.DPX_STAT_ELIG && !late && Nat.blt j (2 * sup))
      s2.when (Nat.ble s2.juryCnt (s2.get F.DPX_STAT_RUN)) (·.promote)
    else if s1.dpxState = Dpx.primary then
      let s2 := bump s1 (Nat.blt (2 * h) j)
      s2.when (Nat.ble s2.juryCnt (s2.get F.DPX_STAT_RUN)) (·.demoteLater Dpx.standby 0x0D03)
    else s1

/-! ### Planned swap -/

/-- DPX_CMD.SWAP on the primary (R420). -/
def State.swapRequest (s : State) : State :=
  if s.dpxState != Dpx.primary && !(s.dpxState == Dpx.solo && s.isPrimary) then s
  else
    let w := s.rd R.DPX_SWAP_SCN
    if !scnAtOrAfter w (s.scn + 64) then
      (if s.swapNamed then s.put F.DPX_SWAP_STAT_ERR 1 else s.swapEnd 1)
    else if s.swapNamed then s.put F.DPX_SWAP_STAT_ERR 2
    else if s.otherNow % 4 != 3 || s.dpx.otherRole != Dpx.standby then s.swapEnd 3
    else ((s.put F.DPX_SWAP_STAT_STATE 1).put F.DPX_SWAP_STAT_ERR 0).setFlag F.DPX_STAT_SWAP_PEND true

def State.swapCancelDpx (s : State) : State := s.when s.swapNamed fun s => (s.swapAbort 5).raiseDue

/-- At boundary W − 8 the primary checks the standby's flags (R420). -/
def State.swapCheck (s : State) : State :=
  s.when (s.swapNamed && s.scn + 8 == s.rd R.DPX_SWAP_SCN && s.otherNow % 16 / 8 * 4 + s.otherNow % 4 != 7)
    (·.swapAbort 4)

/-- At boundary W (R421): the primary enters STANDBY, the standby PRIMARY with the next tier. -/
def State.swapAtW (s : State) : State :=
  if s.swapNamed && s.rd R.DPX_SWAP_SCN == s.scn then
    let s1 := ((s.put F.DPX_SWAP_STAT_STATE 2).setFlag F.DPX_STAT_SWAP_PEND false).giveUpRoot
    let s2 := { s1 with dpx := { s1.dpx with swapped := true } }
    (s2.toDpx Dpx.standby).selectUp
  else if s.isStandby && s.dpx.swapAck == some s.scn then
    let s1 := (s.lead ((s.tier + 1) % 256) 3).toDpx Dpx.primary
    let s2 := { s1 with dpx := { s1.dpx with swapAck := none, swapped := true } }
    let s3 := ((s2.put F.DPX_SWAP_STAT_STATE 2).setFlag F.DPX_STAT_SWAP_PEND false).takeHost.takeSource.recheckHeld
    (s3.raiseLater { code := 0x0D01, cls := 0, scope := .station }).roleRefresh
  else s

/-- The promotion boundary P (R417). -/
def State.promoteAtP (s : State) : State :=
  s.when (s.dpx.promote && s.dpxState == Dpx.primary) fun s =>
    (({ s with dpx := { s.dpx with promote := false } }).wr R.DPX_FO_SCN s.scn).takeHost.takeSource.recheckHeld

/-- A duplex station has had no eligible standby for 1 s (R422), once for each such time. -/
def State.noStandby (s : State) : State :=
  s.when (s.duplex && s.dpxState == Dpx.primary && !s.standbyFit && !s.dpx.noElig) fun s =>
    let t := s.runUp (s.dpx.eligAt + msTicks 1000)
    ({ t with dpx := { t.dpx with noElig := true } }).raise { code := 0x0D08, cls := 1, scope := .station }

/-! ### Health -/

/-- Ports A to D and lane G: smallest SER_DEC and HEIGHT of their lanes, 0 in CHILL (R415). -/
def State.healthPort (s : State) (p : Nat) : Word :=
  if s.laneState p 0 = Lane.chill then 0
  else
    let m := fun (f : Nat → Nat) => if p = 4 then f 0 else Nat.min (f 0) (f 1)
    BitVec.ofNat 32 (m (fun l => s.get (F.LNK_PORTx_EYEn_SER_DEC p l)) <<< 16 |||
      m (fun l => s.get (F.LNK_PORTx_EYEn_HEIGHT p l)))

/-- A lane in ring service reads SER_DEC below 8. -/
def State.serLow (s : State) : Bool :=
  (List.range 4).any fun p => s.carries p && [0, 1].any fun l => Nat.blt (s.get (F.LNK_PORTx_EYEn_SER_DEC p l)) 8

/-- The codes of channels 16 and 17 of a converter at its last check. -/
def State.healthAdc (s : State) (a : Nat) : Word :=
  let c := fun (ch : Nat) => match s.adcHk a ch with | some r => r.code % 65536 | none => 0
  BitVec.ofNat 32 (c 16 <<< 16 ||| c 17)

/-- The 32 words of the health report (R415). -/
def State.healthWords (s : State) : List Word :=
  let d := s.dpx
  let sb := s.isStandby
  let w := fun (n : Nat) => (BitVec.ofNat 32 n : Word)
  let z := fun (n : Nat) => if sb then w n else 0
  let f := b2n sb ||| b2n (s.flag F.DPX_STAT_PROVEN) <<< 1 ||| b2n (sb && d.perMiss == 0) <<< 2 |||
    b2n (sb && d.perMm == 0) <<< 3 ||| b2n (s.flag F.ADC_STAT_REFERR0 || s.flag F.ADC_STAT_REFERR1) <<< 4 |||
    b2n (s.gd.failed != 0) <<< 5 ||| b2n (d.selfFails != 0) <<< 6 ||| b2n s.serLow <<< 7
  let l := [d.reportNo, s.scn, w s.stimeNs, w f, z d.perCmp, z d.perSkip, z d.perMiss, z d.perMm,
    if sb then d.perOfs else 0, if sb then d.perScn else 0] ++ (List.range 5).map s.healthPort ++
    [s.healthAdc 0, s.healthAdc 1, w (s.gd.failed % 4096 <<< 16 ||| s.gd.passed % 4096),
     w (d.selfFails % 65536 <<< 16 ||| d.selfRuns % 65536)] ++ List.replicate 12 0
  l ++ [w (crc32c (wordBytes l))]

/-- The report shows a fault under R539. -/
def healthShowsFault (w3 : Word) : Bool :=
  bits w3.toNat 4 4 != 0 || w3.getLsbD 0 && bits w3.toNat 2 2 != 3

/-- The primary forwards a health report, its own or a relayed one (R539), and keeps what it says of the lanes (R180). -/
def State.forwardHealth (s : State) (origin : Nat) (payload : List Byte) : State :=
  let div := Nat.max 1 (s.get F.SUP_REP_CFG_HLTH_DIV)
  let rest := s.rng.serLow.filter (· != origin)
  let s := { s with rng := { s.rng with serLow := if bit (leAt payload 12 4) 7 then rest ++ [origin] else rest } }
  s.when (leAt payload 0 4 % div == 0 || healthShowsFault (BitVec.ofNat 32 (leAt payload 12 4)))
    (·.report Rep.health 2 origin payload)

/-- 100 ms of STIME in lattice ticks (R415). -/
def healthPer : Nat := 1250000000

/-- The health report of every 100 ms (R415), and what it does to PROVEN (R416). -/
def State.healthReport (s0 : State) : State :=
  let t := s0.runToTick s0.dpx.healthAt
  let s := { t with dpx := { t.dpx with healthAt := Nat.max s0.dpx.healthAt t.lnow + healthPer } }
  let ws := s.healthWords
  let s1 := s.wrAll R.DPX_HEALTH ws
  let d := s1.dpx
  let clean := s1.isStandby && Nat.ble 1 d.perCmp && d.perMm == 0 && d.perMiss == 0
  let run := if clean then d.cleanReports + 1 else 0
  let s2 := s1.when (clean && Nat.ble (s1.get F.DPX_CFG_PROOF_CNT) run) (·.setFlag F.DPX_STAT_PROVEN true)
  let s3 := { s2 with
    dpx := { d with perCmp := 0, perSkip := 0, perMiss := 0, perMm := 0, perOfs := 0xFFFFFFFF, perScn := 0
                    cleanReports := run, reportNo := d.reportNo + 1, selfRuns := 0, selfFails := 0 }
    gd := { s2.gd with passed := 0, failed := 0 } }
  if s3.isPrimary then s3.forwardHealth s3.pos (wordBytes ws) else s3.relay Relay.health (wordBytes ws)

/-- An engine self-check ends (R415). -/
def State.selfCheck (s : State) (ok : Bool) : State :=
  let s1 := { s with dpx := { s.dpx with
    selfRuns := s.dpx.selfRuns + 1, selfFails := s.dpx.selfFails + b2n (!ok) } }
  s1.when (!ok) (·.raise { code := 0x0D07, cls := 1, scope := .node })

/-- DPX_CMD.CNT_CLR (R426). -/
def State.dpxCntClr (s : State) : State :=
  s.when s.isHead fun s =>
    ((((s.wr R.DPX_CNT_CMP 0).wr R.DPX_CNT_SKIP 0).wr R.DPX_CNT_GMISS 0).wr R.DPX_CNT_MM 0).wr R.DPX_MM_OFS 0xFFFFFFFF

/-! ### After a failover -/

/-- A target's entry of a BATCH report: position, then W2, W3 to W10 and W13; W2 = 0 for an absent target (R538). -/
def batchEntry (pos : Nat) (ws : List Word) : List Byte := leBytes 4 pos ++ padTo 40 (wordBytes ws)

/-- The BATCH reports of a batch, 20 targets each (R538). -/
def State.batchReport (s : State) (id c : Word) (entries : List (Nat × List Word)) : State :=
  let parts := cutBytes 880 (entries.length + 1) (entries.foldl (fun l e => l ++ batchEntry e.1 e.2) [])
  parts.foldl (fun s p => s.report Rep.batch 1 s.pos (leBytes 4 id.toNat ++ leBytes 4 c.toNat ++ p)) s

/-- The targets of a distribution entry (R479). -/
def State.ledTargets (s : State) (e : Nat) : List Nat :=
  (List.range 255).filter fun p => (s.rd (R.FLT_LEDe_Ww e (3 + p / 32))).getLsbD (p % 32)

/-- The words W2, W3 to W10 and W13 of a ledger entry's 16. -/
def outcomeWords (l : List Word) : List Word := (l.drop 2).take 9 ++ [l.getD 13 0]

/-- The ledgers read after a promotion are reported (R423): the batches staged, or committed within the 256 cycles before
P. `got` gives each member's ledger entries. -/
def State.failoverLedger (s : State) (got : List (BitVec 8 × List (List Word))) : State :=
  if !(s.dpxState == Dpx.primary && s.get F.DPX_FO_STAT_CAUSE == 2) then s
  else
    let p := s.rd R.DPX_FO_SCN
    let es := (List.range s.ledSize).filter fun e =>
      s.ledDist e && (s.ledState e == Led.staging || s.ledState e == Led.staged ||
        s.ledState e == Led.committed && Nat.ble (p - s.rd (R.FLT_LEDe_Ww e 1)).toNat 256)
    let find := fun (id : Word) (q : Nat) =>
      let l := ((got.find? fun g => g.1.toNat == q).map (·.2)).getD []
      ((l.find? fun ws => ws.getD 0 0 == id && !(ws.getD 2 0).getLsbD 8 && bits (ws.getD 2 0).toNat 0 3 != 0).map
        outcomeWords).getD []
    let s1 := s.report Rep.failover 0 s.pos (leBytes 4 (s.num R.DPX_FO_STAT) ++ leBytes 4 p.toNat ++
      leBytes 4 s.dpx.foCseq.toNat ++ leBytes 2 es.length ++ leBytes 2 0)
    es.foldl (fun s e =>
      let id := s.ledId e
      s.batchReport id (s.rd (R.FLT_LEDe_Ww e 1)) ((s.ledTargets e).map fun q => (q, find id q))) s1

/-! ### Meanings -/

def execListenWindowEnd (s : State) : Host.Outcome State Fault Refusal := .next (s.live fun s => s.listenEnd)

def execHbReceived (s : State) : Host.Outcome State Fault Refusal :=
  .next (s.live fun s => s.takeRx (Arrival.is Ty.hb) fun a s => s.hbReceived a)

def execHealthReport (s : State) : Host.Outcome State Fault Refusal := .next (s.live fun s => s.healthReport)

def execEngineSelfCheck (ok : Bool) (s : State) : Host.Outcome State Fault Refusal :=
  .next (s.live fun s => s.selfCheck ok)

def execSwapRequest (m : Master) (s : State) : Host.Outcome State Fault Refusal :=
  .next (s.byMaster m fun s => if s.mayClear m || m == .dpx then s.swapRequest else s.violation m true R.DPX_CMD)

def execDpxSwapCancel (m : Master) (s : State) : Host.Outcome State Fault Refusal :=
  .next (s.byMaster m fun s => if s.mayClear m || m == .dpx then s.swapCancelDpx else s.violation m true R.DPX_CMD)

def execDpxCntClr (s : State) : Host.Outcome State Fault Refusal := .next (s.live fun s => s.dpxCntClr)

def execNoEligibleStandby (s : State) : Host.Outcome State Fault Refusal := .next (s.live fun s => s.noStandby)

def execFailoverLedgerRead (got : List (BitVec 8 × List (List Word))) (s : State) :
    Host.Outcome State Fault Refusal :=
  .next (s.live fun s => s.failoverLedger got)

end Sys2Proof.Machine
end

