-- ==== Sys2Proof/Machine/Ring.lean ====
section
/-! DEFINITION. Machine/Ring.lean: the ring as a node runs it (R151 to R171): the forward path, folds and unfolds, the
NBR codewords, the up wave with its copies and deadline, and the down wave with its acknowledgements.
Marked choices: log entries 24, 60, 64 (DESIGN CHOICE); log entries 36, 37, 49, 54, 65, 69 (DEDUCED). -/
namespace Sys2Proof.Machine

/-! ### Folds (R153, R154, R180, R181) -/

/-- The node has been admitted and holds the station's SCN (R109). -/
def State.admitted (s : State) : Bool := s.get F.IMG_ADM_STAT_ADM == 2

def State.unfoldOf (s : State) (y : Bool) : Option Word := if y then s.rng.unfoldY else s.rng.unfoldX

/-- Name or cancel the unfold boundary of a ring; RNG_UNFOLD_SCN shows the last one named (R182). -/
def State.setUnfold (s : State) (y : Bool) (u : Option Word) : State :=
  let s1 := if y then { s with rng := { s.rng with unfoldY := u } } else { s with rng := { s.rng with unfoldX := u } }
  let s2 := match u with | some v => s1.wr R.RNG_UNFOLD_SCN v | none => s1
  s2.setFlag F.RNG_STAT_UNF_PEND (s2.rng.unfoldX.isSome || s2.rng.unfoldY.isSome)

/-- Admitted members of the member table (R163). -/
def State.admittedMembers (s : State) : List Nat := s.memberPositions.filter fun p => (s.member p).adm == 2

/-- Every admitted position of the station. -/
def State.admittedAll (s : State) : List Nat :=
  s.admittedMembers ++ (if (s.member s.otherHead).adm == 2 then [s.otherHead] else [])

/-- What the primary finds on one ring: whether it is closed, and the positions of the station table it does not reach. -/
structure RingFind where
  closed : Bool
  lost : List Nat
  deriving DecidableEq, Repr

def State.ringFind (s : State) (y : Bool) : RingFind :=
  let pr := s.walk false y true 255 s.pos []
  let e := pr.1
  let closed := pr.2
  let w := if closed then e else (s.walk false y false 255 s.pos []).1
  ⟨closed, s.tablePos.filter fun p => p != s.pos && !e.contains p && !w.contains p⟩

/-- The folds of one ring as R179 counts them: none on a closed ring, one link where every position is reached, else the two
links around what is lost. -/
def RingFind.folds (f : RingFind) : Nat := if f.closed then 0 else if f.lost.isEmpty then 1 else 2

/-- Breaks as R179 counts them: one node around which both rings are folded is one break, every other fold is one. -/
def breaksOf (x y : RingFind) : Nat :=
  if !x.closed && x.lost == y.lost && x.lost.length == 1 then 1 else x.folds + y.folds

/-- The primary's audit of the rings: what R181 and R180 raise, once while it lasts. -/
def State.ringAudit (s : State) : State :=
  if !(s.isPrimary && s.inService) || s.admittedAll.isEmpty then s
  else
    let x := s.ringFind false
    let y := s.ringFind true
    let gone := fun (f : RingFind) => if f.closed then [] else f.lost.filter s.admittedAll.contains
    let low := s.rng.serLow ++ (if s.serLow && !s.rng.serLow.contains s.pos then [s.pos] else [])
    let iso := (gone x).filter (gone y).contains
    let now := b2n (!x.closed) ||| b2n (!y.closed) <<< 1 ||| b2n (!(gone x).isEmpty) <<< 2 ||| b2n (!(gone y).isEmpty) <<< 3 |||
      b2n (Nat.ble 2 (breaksOf x y) || !low.isEmpty) <<< 4
    let new := fun (i : Nat) => bit now i && !bit s.rng.audit i
    let lift := fun (i code inst : Nat) (s : State) =>
      s.when (new i) (·.raiseLater { code := code, cls := 1, scope := .station, tag := inst })
    let s1 := lift 1 0x0401 1 (lift 0 0x0401 0 s)
    let s2 := lift 3 0x0402 1 (lift 2 0x0402 0 s1)
    let s3 := (iso.filter fun p => !s.rng.isolated.contains p).foldl (fun s p =>
      s.raiseLater { code := 0x0403, cls := 1, scope := .station, kind := 6, inst := p }) s2
    let s4 := (lift 4 0x0109 0 s3).when (new 4) (·.emit (.guarantee (breaksOf x y) low))
    { s4 with rng := { s4.rng with audit := now, isolated := iso } }

/-- A port is down for the ring: the node folds (R154), and a pending unfold of that ring is cancelled. -/
def State.foldPort (s : State) (p : Nat) : State :=
  if !s.portDown p || (s.port p).switching then s
  else
    let y := Nat.ble 2 p
    let st := s.ringState y
    let here := if p % 2 = 0 then RingSt.foldW else RingSt.foldE
    let other := 5 - here
    let new := if st = RingSt.thru then here
      else if st = other then RingSt.isolated
      else if st = RingSt.spur && s.portDown (p + 1 - 2 * (p % 2)) then RingSt.isolated
      else st
    let s1 := s.setUnfold y none
    let s2 := if new = st then s1 else (s1.setRingState y new).bumpReg R.RNG_CNT_FOLD
    s2.ringAudit.raiseDue.selectUp

/-- The position is part of the rings, not a spur that waits for its splice (R117). -/
def State.onRings (s : State) (p : Nat) : Bool :=
  p == s.pos || s.flag F.IMG_STAT_STN_PB || (s.member p).stage == Stage.full

/-- The ends of the broken links of the ring that are there again in the reports of both their ends (R154). -/
def State.healedEnds (s : State) (y : Bool) : List Nat :=
  s.tablePos.foldl (fun l q => match s.hopFrom true y true q with
    | some n => if s.onRings q && s.onRings n && (s.hopFrom false y true q).isNone then l ++ [q, n] else l
    | none => l) []

def State.healed (s : State) (y : Bool) : Bool := !(s.healedEnds y).isEmpty

/-- The node is folded on the ring. -/
def State.folded (s : State) (y : Bool) : Bool := s.ringState y == RingSt.foldW || s.ringState y == RingSt.foldE

/-- A folded node whose ports are there again takes the unfold boundary U that the primary has named (R154). -/
def State.unfoldTake (s : State) (y : Bool) (u : Word) : State :=
  s.when (s.folded y && !s.portDown (outPort y true) && !s.portDown (outPort y false)) (·.setUnfold y (some u))

/-- The primary names the unfold boundary U 8 cycles ahead once the reports of both nodes at the break show the port (R154); a
standby takes it from the primary. -/
def State.unfoldNamed (s : State) (y : Bool) : State :=
  if s.isPrimary then s.when ((s.unfoldOf y).isNone && s.healed y) (·.setUnfold y (some (s.scn + 8)))
  else s.when s.isHead (·.unfoldTake y (s.scn + 8))

/-- The reports of a ring as they stand replace what was kept broken. -/
def State.reportsOpen (s : State) (y : Bool) : State :=
  let m := if y then 0xFFFF0000#32 else 0x0000FFFF#32
  s.rng.raw.foldl (fun s e =>
    let v := (e.2 &&& m) ||| (Bank.at 0xFFFFFFFF s.rng.nbrs e.1 &&& ~~~ m)
    { s with rng := { s.rng with nbrs := Bank.upd 0xFFFFFFFF s.rng.nbrs e.1 v } }) s

/-- Boundary U (R154): the node returns to THRU when both ports are there. -/
def State.unfoldAt (s : State) (y : Bool) : State :=
  if s.unfoldOf y != some s.scn then s
  else
    let s1 := (s.setUnfold y none).reportsOpen y
    s1.when (s1.folded y && !s1.portDown (outPort y true) && !s1.portDown (outPort y false))
      (·.setRingState y RingSt.thru)

/-- A HEAD takes a neighbour report (R152): a link that broke stays broken until its unfold; a broken link cancels a
pending unfold (R154). -/
def State.takeReport (s : State) (q : Nat) (v : Word) : State :=
  let old := s.rng.nbrs.find? (fun e => e.1 == q)
  let keep := fun (i : Nat) => match old with
    | some e => if bits e.2.toNat (8 * i) 8 = 0xFF then 0xFF else bits v.toNat (8 * i) 8
    | none => bits v.toNat (8 * i) 8
  let eff := BitVec.ofNat 32 (keep 0 ||| keep 1 <<< 8 ||| keep 2 <<< 16 ||| keep 3 <<< 24)
  let s1 := { s with rng := { s.rng with
    raw := Bank.upd 0xFFFFFFFF s.rng.raw q v, nbrs := Bank.upd 0xFFFFFFFF s.rng.nbrs q eff } }
  let s2 := s1.when (s1.isPrimary && s1.rng.unfoldX.isSome && !s1.healed false) (·.setUnfold false none)
  s2.when (s2.isPrimary && s2.rng.unfoldY.isSome && !s2.healed true) (·.setUnfold true none)

/-! ### The forward path (R153 to R156, R583) -/

/-- The decoder's counters of a lane (R128, R150). -/
def State.laneCount (s : State) (p l : Nat) (found : Option Nat) : State :=
  match found with
  | some 0 => s
  | some n => (s.bumpReg (R.LNK_PORTx_LANEn_CSYM p l) n).bumpReg (R.LNK_PORTx_LANEn_CCW p l)
  | none => s.bumpReg (R.LNK_PORTx_LANEn_UCW p l)

/-- The fold mark of an IDLE codeword, with its runs (R583). -/
def State.markRuns (s : State) (p l : Nat) (mark : Bool) : State :=
  let k := s.lane p l
  let s1 := s.setLane p l { k with markRun := if mark then Nat.min 4 (k.markRun + 1) else 0
                                   cleanRun := if mark then 0 else Nat.min 4 (k.cleanRun + 1) }
  let r := s1.lane p l
  let o := s1.lane p (1 - l)
  if r.markRun = 4 then (s1.setPort p { s1.port p with marked := true }).foldPort p
  else if r.cleanRun = 4 && o.cleanRun == 4 && (s1.port p).marked then
    (s1.setPort p { s1.port p with marked := false }).ringUp p
  else s1

/-- This HEAD is the second that a codeword passes (R155): back along the way it has come, the other HEAD stands before its
origin, or, where it has turned at a fold, anywhere up to the turn. -/
def State.secondHead (s : State) (y east : Bool) (h : Hdr) : Bool :=
  if s.flag F.SYS_ROLE_SINGLE then true
  else
    let l := (s.walk false y (!east) 255 s.pos []).1
    if east == bit h.route 1 then l.contains s.otherHead
    else
      match l.find? (fun q => q == h.src || q == s.otherHead) with
      | some q => q == s.otherHead
      | none => false

/-- A codeword is removed by age (R156): only a node that holds the station's SCN can tell. -/
def State.aged (s : State) (typ tag : Nat) : Bool :=
  let d := (s.scn.toNat + 256 - tag) % 256
  s.admitted && Nat.ble (if typ = Ty.bulk then 4 else 2) d && Nat.ble d 127

/-- This node takes the codeword off the ring (R155). -/
def State.removes (s : State) (y east : Bool) (h : Hdr) : Bool :=
  let t := h.typ
  s.running && (
    if t = Ty.up || t = Ty.ack then s.isHead && s.secondHead y east h
    else if t = Ty.hb || t = Ty.safe then h.src == s.pos
    else (t == Ty.dn || t == Ty.bulk) && h.dst == s.pos)

/-- The port a forwarded codeword leaves by (R153): its direction's, the other one when the node is folded there; none
where the ring state forwards nothing. HB and BULK pass on into and out of a spur (R117). -/
def State.forwardPorts (s : State) (p typ dst : Nat) : List Nat :=
  let y := Nat.ble 2 p
  let out := p + 1 - 2 * (p % 2)
  let st := s.ringState y
  let spur := typ == Ty.hb || typ == Ty.bulk
  let foldedAt := fun (q : Nat) => st == (if q % 2 = 0 then RingSt.foldW else RingSt.foldE)
  if st = RingSt.thru then (if s.portDown out then [p] else [out])
  else if foldedAt out then
    (if !spur || s.portDown out then [p] else if typ = Ty.hb then [p, out]
     else if Bank.at 0xFF s.rng.nbr out == dst then [out] else [p])
  else if foldedAt p then (if spur && !s.portDown out then [out] else [])
  else []

/-- The forward path (R131, R153 to R156): it acts on the header as received, and what it forwards keeps its parity and is
scrambled anew. -/
def State.forwardCw (s : State) (p l : Nat) (w : List Nat) (raw : List Byte) : State :=
  let h := hdrOf raw
  let ok := hchkOk raw
  let fwd := fun (s : State) => (s.forwardPorts p h.typ h.dst).foldl (fun s q =>
    s.when (!s.portDown q) (·.sendSyms q l (lineForward q l w))) s
  if s.portDown p || ok && (h.typ == Ty.idle || h.typ == Ty.nbr) then s
  else if !ok then fwd s
  else if s.removes (Nat.ble 2 p) (p % 2 == 0) h then s
  else if s.aged h.typ h.tag then s.bumpReg R.RNG_CNT_AGED
  else fwd s

/-- A codeword on a lane in UP: the decode path counts it (R128, R150) with the run of R130. On a port that is UP it goes on
by both paths (R122, R131); lane G carries the Glaze (R123). -/
def State.codewordIn (s : State) (p l : Nat) (lv : List Int) : State :=
  let (w, last) := s.symbolsIn p l lv
  let m := s.streamOf p l
  let sc := lineRaw p m w
  let d := decodeLine sc
  let k := s.lane p l
  let s1 := (s.setLane p l { k with rxLast := last, bad := if d.2.isSome then 0 else Nat.min 4 (k.bad + 1) }).laneCount p l d.2
  if !s1.flag (F.LNK_PORTx_STAT_UP p) then s1
  else
    let raw := payloadOf sc
    let a : Arrival := ⟨p, m, raw, payloadOf d.1, d.2.isNone, s.fab⟩
    if p = 4 then s1.hand a
    else
      let s2 := s1.markRuns p l (hchkOk raw && byteAt raw 0 % 16 == Ty.idle && byteAt raw 5 == 1)
      if s2.portDown p then s2
      else ((s2.forwardCw p m sc raw).when (s2.consumes (hdrOf a.cw)) (·.hand a))

/-- A codeword arrives at a lane (R130, R135): frame hunting, training, or traffic. -/
def State.lineIn (s : State) (p l : Nat) (lv : List Int) : State :=
  if (lanesOf p).contains l then
    (if s.laneState p l = Lane.frame then s.frameHears p l lv
     else if s.laneState p l = Lane.train then s.trainHears p l lv
     else if s.laneState p l = Lane.up then s.codewordIn p l lv
     else s)
  else s

/-! ### NBR codewords (R152, R195) -/

/-- A time stamp on the wire: nanoseconds, then the fraction. -/
def stampBytes (t : Nat) : List Byte := leBytes 4 (t >>> 16) ++ leBytes 2 (t % 65536)

def stampOf (cw : List Byte) (ofs : Nat) : Nat := leAt cw ofs 4 <<< 16 ||| leAt cw (ofs + 4) 2

/-- HOPS of this node: 0 at the root, 0xFF without an upstream (R195, R201). -/
def State.myHops (s : State) : Nat := if s.srcHost then 0 else s.get F.TIM_UPSTREAM_HOPS

/-- The NBR codeword of an UP port, on lane 0 (R152, R195); a repeater sends nothing of its own (R33). -/
def State.nbrSend (s : State) (p : Nat) : State :=
  if !s.flag (F.LNK_PORTx_STAT_UP p) || !s.running then s
  else
    let k := s.link p
    let now := s.stime48
    let rx := match k.t1 with | some _ => stampBytes k.t2.toNat | none => List.replicate 6 0xFF
    let body := leBytes 1 p ++ leBytes 1 (b2n (s.timeLocked || s.srcHost)) ++
      leBytes 1 (if s.srcHost then s.pos else s.get F.TIM_UPSTREAM_ROOT) ++ leBytes 1 s.myHops ++ stampBytes now ++ rx ++
      leBytes 4 (if s.srcHost then 0 else s.num R.TIM_ERR)
    let y := Nat.ble 2 p
    let h : Hdr := { typ := Ty.nbr, src := s.pos, dst := 0xFF, tag := s.scn.toNat % 256, route := routeOf y (p % 2 == 1) }
    let s1 := s.setLink p { k with t3 := some (BitVec.ofNat 48 now), t3p := k.t3 }
    s1.sendLine p 0 (codeword h body)

/-- How far two 48-bit stamps lie apart, either way. -/
def stampGap (a b : Nat) : Nat := let d := (a + 2 ^ 48 - b) % 2 ^ 48; Nat.min d (2 ^ 48 - d)

/-- A neighbour's NBR arrives (R152, R195, R196, R198): of the last two NBR sent, the one nearest to the reported arrival is
the one whose arrival the peer reports. "A HOPS lower by at least 4" is held against the HOPS of the upstream, which is the
node's own less 1 (log entry 54, DEDUCED). -/
def State.nbrReceived (s : State) (t2 : BitVec 48) (a : Arrival) : State :=
  let p := a.port
  let cw := a.cw
  if !cwValid Ty.nbr cw a.uncorr then s
  else
    let src := byteAt cw 1
    let k := s.link p
    let rx := stampOf cw 18
    let up := (s.link s.upPort).hops
    let none? := rx == 2 ^ 48 - 1
    let near : Option (BitVec 48) := match k.t3, k.t3p with
      | some a, some b => if Nat.blt (stampGap rx b.toNat) (stampGap rx a.toNat) then some b else some a
      | a, _ => a
    let low := Nat.ble (byteAt cw 11 + 4) up && byteAt cw 10 == s.obeyed && bit (byteAt cw 9) 0 &&
      s.myHops != 0xFF && p != s.upPort
    let s1 := s.setLink p { k with
      t1 := some (BitVec.ofNat 48 (stampOf cw 12)), t2 := t2
      t4 := if none? then none else some (BitVec.ofNat 48 rx), t3m := if none? then none else near
      locked := bit (byteAt cw 9) 0, root := byteAt cw 10, hops := byteAt cw 11, peer := src
      chain := Frac.mk' (sgn 32 (leAt cw 24 4)) 256
      low := low }
    let s2 := { s1 with rng := { s1.rng with nbr := Bank.upd 0xFF s1.rng.nbr p src } }
    s2.selectUp

/-! ### Items in codewords -/

/-- Items in rising order of index, one of each. -/
def insertItem (i : Item) : List Item → List Item
  | [] => [i]
  | a :: t => if i.idx < a.idx then i :: a :: t else if i.idx = a.idx then i :: t else a :: insertItem i t

def sortItems (l : List Item) : List Item := l.foldl (fun acc i => insertItem i acc) []

/-- Put an item in front of the runs of consecutive indexes, at most 28 in a run (R157). -/
def consRun (i : Item) : List (List Item) → List (List Item)
  | [] => [[i]]
  | [] :: t => [i] :: t
  | (a :: r) :: t => if a.idx = i.idx + 1 && Nat.blt r.length 27 then (i :: a :: r) :: t else [i] :: (a :: r) :: t

/-- The bodies that carry items, one codeword per run of consecutive indexes (R157; log entry 65). -/
def runsOf (l : List Item) : List (List Item) := (sortItems l).foldr consRun []

/-- Send items in codewords of a type on one ring and direction; with no item one codeword with its word goes out. -/
def State.sendItems (s : State) (y east : Bool) (lane typ dst tag word : Nat) (l : List Item) : State :=
  let rs := runsOf l
  let rs := if rs.isEmpty then [[]] else rs
  rs.foldl (fun s r =>
    let base := match r with | i :: _ => i.idx | [] => 0
    s.sendDir y east lane typ dst tag r.length (itemBody base word s.pos (r.map fun i => some (i.value, i.scn)))) s

/-! ### The up wave (R162, R471) -/

/-- The highest class of the ACTIVE records and of the unrecorded holds (R463, R471). -/
def State.maxHeld (s : State) : Nat :=
  s.flt.holds.foldl (fun m h => if h.recNo.isNone then Nat.max m h.cls else m) (s.get F.FLT_STAT_MAXCLS)

/-- Item 0xFE01 (R471). -/
def State.ownStatus (s : State) : Word :=
  let secd := s.role == .secondary
  BitVec.ofNat 32 (b2n (s.flag F.FLT_STAT_NODE_SAFE) |||
    b2n (s.role == .cell && s.get F.SYS_ROLE_BYP_LEG == 4 && !s.bypassOpen) <<< 1 |||
    b2n (s.isMember && s.flag F.FLT_STAT_TRIP_REQ) <<< 2 ||| s.maxHeld <<< 4 |||
    (if secd then s.get F.FLT_STAT_SHARE_SAFE else 0) <<< 8 |||
    ((s.get F.FLT_NEXT_NEXT + 255) % 256) <<< 16)

/-- Every item of the node's uplink in this cycle: its samples and loop items, its states, its safety words. -/
def State.uplinkItems (s : State) : List Item :=
  let n := s.scn.toNat % 256
  let mk := fun (i : Nat) (v : Word) => (⟨s.pos, i, n, v⟩ : Item)
  let saf := match s.saf.upWords with
    | some (a, b) => if s.safEn then [mk 0xFF00 a, mk 0xFF01 b] else []
    | none => []
  s.rng.upOut ++ [mk Idx.status s.ownStatus, mk Idx.nbrs s.nbrReport] ++ saf

/-- Lane and send bit of a ring and direction from the ring word (R162); before the first one both directions, on the lane that
offers the first IDLE position. -/
def laneSend (first : Nat) (w : Option Nat) (east : Bool) : Nat × Bool :=
  match w with
  | none => (first, true)
  | some v => if east then (v % 2, bit v 2) else (v / 2 % 2, bit v 3)

/-- The lane of a HEAD's HB: the parity of its hops to the primary, 0 at the primary (R162). -/
def State.hbLane (s : State) (y east : Bool) : Nat :=
  if s.isPrimary then 0
  else
    let m := s.num (if y then R.RNG_MAP_Y else R.RNG_MAP_X)
    let h := bits m (if east then 16 else 24) 8
    if h = 0xFF then 0 else h % 2

/-- Each ring and direction once. -/
def fourWays : List (Bool × Bool) := [(false, true), (false, false), (true, true), (true, false)]

/-- The node inserts its UP codeword, or its HB on a HEAD, at t_S after the boundary (R161, R162, R402); cycle S has no control
region (R108). -/
def State.upWave (s : State) : State :=
  if !s.running || s.stage == Stage.refused || s.inCycleS then s
  else
  let s := s.runIn 6250
  if s.isHead then
    fourWays.foldl (fun s d =>
      s.sendDir d.1 d.2 (s.hbLane d.1 d.2) Ty.hb 0xFF s.scn.toNat 0 (s.hbBody false)) s
  else if s.isMember then
    let items := s.uplinkItems
    let s1 := fourWays.foldl (fun s d =>
      let pr := laneSend (b2n (Config.freeLane s.free)) (if d.1 then s.rng.wordY else s.rng.wordX) d.2
      let lane := pr.1
      let send := pr.2
      s.useFree.when send (·.sendItems d.1 d.2 lane Ty.up 0xFF s.scn.toNat s.juryWord items)) s
    { s1 with rng := { s1.rng with upSent := true } }
  else s

/-! ### UP at a HEAD (R165 to R167, R404, R438) -/

/-- A valid copy of an uplink item: the first is taken, a later one compared (R165, R166); a safety item is
taken from each ring (R168). -/
def State.takeUp1 (s : State) (ring : Ring) (src : Nat) (it : RawItem) : State :=
  let n := s.scn.toNat % 256
  if !sealOk it src n then s.sealFail src it.idx
  else if Nat.ble 0xFF00 it.idx then s.takeSafeItem src ring it.idx it.value
  else
    match s.rng.upItems.find? (fun e => e.origin == src && e.idx == it.idx) with
    | some e =>
      if e.value == it.value then s
      else
        let trip := it.idx == Idx.status && it.value.getLsbD 2 && !s.rng.tripSeen.contains src
        let s1 := s.when trip fun s => { s with rng := { s.rng with tripSeen := s.rng.tripSeen ++ [src] } }
        (s1.bumpReg R.RNG_CNT_DIFF).raiseLater
        { code := 0x0404, cls := 1, scope := .position src, kind := 7, inst := src * 65536 + it.idx }
    | none =>
      let s1 := { s with rng := { s.rng with upItems := s.rng.upItems ++ [(⟨src, it.idx, n, it.value⟩ : Item)] } }
      s1.when (it.idx == Idx.nbrs) (·.takeReport src it.value)

/-- An UP copy decodes at a HEAD (R165, R403): an admitted HEAD takes its items, the jury word counts in its cycle, and a
HEAD that listens sees its tier whatever the cycle (R399, R400). -/
def State.upReceived (s : State) (a : Arrival) : State :=
  let cw := a.cw
  let h := hdrOf cw
  if !(s.isHead && cwValid Ty.up cw a.uncorr && s.memberPositions.contains h.src && !s.dpx.tup) then s
  else
    let w := typeWord cw
    let s1 := s.when s.admitted fun s => ((itemsOf cw).foldl (fun s it => s.takeUp1 a.ring h.src it) s).raiseDue
    let s2 := s1.when (h.tag == s1.scn.toNat % 256 && !s1.rng.jury.any (fun j => j.1 == h.src)) fun s =>
      { s with rng := { s.rng with jury := s.rng.jury ++ [(h.src, w)] } }
    s2.when (s2.dpxState == Dpx.start || s2.dpxState == Dpx.solo && s2.dpx.listening) (·.seeTier (w / 256 % 256))

/-- An item declared missing (R167). -/
def State.upMissing (s : State) (k : Nat × Nat) : State :=
  let s1 := (s.bumpReg R.RNG_CNT_MISS).wrN R.RNG_LAST_MISS (k.2 <<< 16 ||| k.1)
  (s1.wr R.RNG_LAST_MISS_SCN s1.scn).raiseLater
    { code := 0x0406, cls := 0, scope := .position k.1, kind := 7, inst := k.1 * 65536 + k.2 }

/-- The primary looks for TRIP_REQ in every valid copy (R469); a position raises when its request is new. -/
def State.tripCheck (s : State) : State :=
  let own := (s.rng.upItems.filter fun i => i.idx == Idx.status && i.value.getLsbD 2).map (·.origin)
  let req := own ++ s.rng.tripSeen.filter fun p => !own.contains p
  let new := req.filter fun p => !s.rng.tripReq.contains p
  let s1 := { s with rng := { s.rng with tripReq := req, tripSeen := [] }
                     flt := { s.flt with quiet := if req.isEmpty then Nat.min 8 (s.flt.quiet + 1) else 0 } }
  s1.when s1.isPrimary fun s => new.foldl (fun s p =>
    s.raiseLater { code := 0x0205, cls := 4, scope := .station, kind := 6, inst := p }) s

/-- T_UP has come: every copy that has arrived by then is taken (R167). -/
def State.uplinkTaken (s : State) : State :=
  (s.runIn (s.ringOfs F.RNG_TIM_UP_PB_T F.RNG_TIM_UP_T)).takeAllRx (Arrival.is Ty.up) fun a s => s.upReceived a

/-- What the uplinks of the cycle show at T_UP (R167, R259, R404, R412, R413, R438, R469). -/
def State.uplinkJudge (s : State) : State :=
  let adm := s.admittedMembers
  let miss := (s.boundItems.filter fun k => adm.contains k.1 && (s.uplink k.1 k.2).isNone).foldl
    (fun l k => if l.contains k then l else l ++ [k]) []
  let s1 := miss.foldl (fun s k => s.upMissing k) { s with rng := { s.rng with missing := miss } }
  let s2 := s1.tripCheck.publishDerating.safCloseUplink
  let s3 := { s2 with dpx := { s2.dpx with inCrc := s2.inputCrc } }
  s3.glazeCurrent.juryCount.ringAudit.raiseDue

/-- The uplinks of the cycle have been judged (R167). -/
def State.uplinkClosed (s : State) : State := { s with dpx := { s.dpx with tup := true } }

/-- T_UP at a HEAD (R167). -/
def State.uplinkDeadline (s : State) : State :=
  if !s.isHead || s.dpx.tup || s.inCycleS then s else s.uplinkTaken.uplinkJudge.uplinkClosed

/-! ### The down wave (R163, R164) -/

/-- The station word (R469, R474). -/
def State.stationWord (s : State) : Word :=
  BitVec.ofNat 32 (b2n (s.flag F.FLT_STN_TRIP) ||| b2n (s.flag F.FLT_STN_CLEAR) <<< 1 |||
    (if s.flag F.FLT_STN_CLEAR then s.get F.FLT_STN_C else 0) <<< 16)

/-- The position is at a break of the ring that the reports show healed, or next to `pos` in them. -/
def State.besides (s : State) (pos q : Nat) : Bool :=
  let names := fun (a b : Nat) => (List.range 4).any fun i => bits (s.reportOf true a).toNat (8 * i) 8 == b
  q == pos || names q pos || names pos q

/-- The boundaries that the primary has named in this cycle, as its DN codewords carry them to one member: full service to every
one (R107), an unfold to the nodes at the break (R154), a splice to its node and both neighbours (R118). -/
def State.namesFor (s : State) (q : Nat) : List (Nat × Word) :=
  let now := fun (i ahead : Nat) (b : Option Word) (c : Bool) => match b with
    | some v => if v == s.scn + BitVec.ofNat 32 ahead && c then [(i, v)] else []
    | none => []
  let spl := match s.img.splice with
    | some (b, p) => if b == s.scn + 64 && s.besides p.toNat q then
        [(Idx.splice, BitVec.ofNat 32 (b.toNat % 2 ^ 24 ||| p.toNat <<< 24))] else []
    | none => []
  now Idx.fullS 64 s.img.fullS true ++ now Idx.unfoldX 8 s.rng.unfoldX ((s.healedEnds false).contains q) ++
    now Idx.unfoldY 8 s.rng.unfoldY ((s.healedEnds true).contains q) ++ spl

/-- The command items of one member (R163): the balancer's items of other positions stay out (R286), and to a node in
Par-bake no item but the balancer's control word goes, the others being power-flow set-points (R106, R285). -/
def State.commandsOf (s : State) (q : Nat) : List Item :=
  let n := (s.scn.toNat + 1) % 256
  let mk := fun (i : Nat) (v : Word) => (⟨s.pos, i, n, v⟩ : Item)
  let mine := fun (i : Item) => !(Nat.ble 0xF800 i.idx && Nat.blt i.idx 0xFC00) || (i.idx - 0xF800) / 4 == q
  let par := s.flag F.IMG_STAT_STN_PB || (s.member q).stage != Stage.full
  (s.rng.dnOut.filter fun i => mine i && (!par || Nat.ble 0xF800 i.idx && i.idx % 4 == 3)) ++
    [mk Idx.station s.stationWord, mk Idx.mapX (s.mapEntry false q), mk Idx.mapY (s.mapEntry true q)] ++
    (s.namesFor q).map fun e => mk e.1 e.2

/-- Hops from the primary to a member in a direction; none where the walk that way does not reach it. -/
def State.hopsDown (s : State) (y east : Bool) (q : Nat) : Option Nat :=
  (s.place y q).bind fun p => if east then p.hopsW else p.hopsE

/-- The members of a train in order of decreasing hop count (R163). -/
def State.train (s : State) (y east : Bool) : List Nat :=
  let ms := s.admittedMembers.filterMap fun q => (s.hopsDown y east q).map fun h => (h, q)
  let ins := fun (acc : List (Nat × Nat)) (e : Nat × Nat) =>
    acc.filter (fun a => Nat.ble e.1 a.1) ++ [e] ++ acc.filter (fun a => Nat.blt a.1 e.1)
  (ms.foldl ins []).map (·.2)

/-- The down wave at the primary (R163, R287, R417). -/
def State.downWave (s : State) : State :=
  if !(s.isPrimary && s.inService) || s.inCycleS then s
  else
    let s := s.runIn (s.ringOfs F.RNG_TIM_DN_PB_T F.RNG_TIM_DN_T)
    let s1 := s.balLate
    let s2 := s1.when s1.dpx.claimHb fun s =>
      let a := (s.sendHb 0 true).sendHb 1 true
      { a with dpx := { a.dpx with claimHb := false } }
    fourWays.foldl (fun s d =>
      let t := s.train d.1 d.2
      ((List.range t.length).zip t).foldl (fun s k =>
        s.sendItems d.1 d.2 (k.1 % 2) Ty.dn k.2 (s.scn.toNat + 1) (s.ringWord d.1 k.2) (s.commandsOf k.2)) s) s2

/-- The ports of this node that face the node at `pos`: at that node all of them. -/
def State.facing (s : State) (pos : Nat) : List Nat :=
  if pos = s.pos then List.range 5
  else ((List.range 4).filter fun p => Bank.at 0xFF s.rng.nbr p == pos) ++
    (if s.isHead && pos == s.otherHead then [4] else [])

/-- A splice at S takes its course at this node (R118). -/
def State.spliceTake (s : State) (b : Word) (pos : Nat) : State :=
  let mine := pos == s.pos && s.stage == Stage.pbAdm && s.timeLocked
  let near := s.inService && pos != s.pos && !(s.facing pos).isEmpty
  s.when (!s.flag F.IMG_STAT_STN_PB && s.img.splice.isNone && (mine || near || s.isPrimary)) fun s =>
    { s with img := { s.img with splice := some (b, BitVec.ofNat 8 pos), spliceSw := false } }

/-- The member takes a boundary that the primary names in a DN codeword (R107, R118, R154). -/
def State.takeName (s : State) (idx : Nat) (v : Word) : State :=
  if idx = Idx.fullS then
    s.when (s.inService && s.admitted && s.flag F.IMG_STAT_STN_PB && s.img.fullS.isNone) fun s =>
      { s with img := { s.img with fullS := some v } }
  else if idx = Idx.unfoldX then s.unfoldTake false v
  else if idx = Idx.unfoldY then s.unfoldTake true v
  else if idx = Idx.splice then
    s.spliceTake (s.scn + BitVec.ofNat 32 ((v.toNat + 2 ^ 24 - s.scn.toNat % 2 ^ 24) % 2 ^ 24)) (bits v.toNat 24 8)
  else s

/-- A command item at a member (R39, R159, R165 to R167): staged when its boundary is ahead; d is TAG − SCN. -/
def State.takeDn1 (s : State) (src d : Nat) (it : RawItem) : State :=
  let n := (s.scn.toNat + d) % 256
  let diff := fun (s : State) => (s.bumpReg R.RNG_CNT_DIFF).raiseLater
    { code := 0x0404, cls := 1, scope := .position src, kind := 7, inst := src * 65536 + it.idx }
  let same := fun (e : Item) => e.origin == src && e.idx == it.idx && e.scn == n
  if !sealOk it src n then s.sealFail src it.idx
  else if Nat.ble 1 d && Nat.ble d 127 then
    match s.rng.staged.find? same with
    | some e => if e.value == it.value then s else diff s
    | none =>
      let s1 := { s with rng := { s.rng with
        staged := s.rng.staged ++ [(⟨src, it.idx, n, it.value⟩ : Item)], dnServed := s.rng.dnServed || d == 1 } }
      if it.idx = Idx.mapX then s1.wr R.RNG_MAP_X it.value
      else if it.idx = Idx.mapY then s1.wr R.RNG_MAP_Y it.value
      else s1.takeName it.idx it.value
  else match s.rng.inForce.find? same with
    | some e => if e.value == it.value then s else diff s
    | none =>
      let s1 := s.bumpReg R.RNG_CNT_LATE
      { s1 with rng := { s1.rng with dnLate := true } }

/-- A member receives a DN codeword addressed to it (R164, R398): its ACK goes out in the position, and the commands of its
obeyed HEAD are staged. -/
def State.dnReceived (s : State) (a : Arrival) : State :=
  let cw := a.cw
  let h := hdrOf cw
  if !(s.isMember && s.running) then s
  else
    let y := a.y
    let raw := hdrOf a.raw
    let east := if s.ringOpen (outPort y a.east) then a.east else !a.east
    let s1 := s.when (hchkOk a.raw && raw.typ == Ty.dn && raw.dst == s.pos)
      (·.sendDir y east a.lane Ty.ack 0xFF s.scn.toNat 0 (itemBody 0 s.rng.ackWord s.pos []))
    if !(cwValid Ty.dn cw a.uncorr && h.dst == s.pos) || !s1.dpx.hasTier then s1
    else if h.src != s1.obeyed then s1.bump F.DPX_MBR_CNT_STALE_DN
    else
      let w := some (typeWord cw)
      let s2 := if y then { s1 with rng := { s1.rng with wordY := w } } else { s1 with rng := { s1.rng with wordX := w } }
      let d := (h.tag + 256 - s2.scn.toNat % 256) % 256
      ((itemsOf cw).foldl (fun s it => s.takeDn1 h.src d it) s2).raiseDue

/-- A status item of an ACK (R164 to R166): the first valid copy of the cycle is taken, a later one compared. -/
def State.takeAck1 (s : State) (src : Nat) (it : RawItem) : State :=
  let now := s.scn.toNat
  if !sealOk it src (now % 256) then s.sealFail src it.idx
  else
    let same := fun (e : Item) => e.origin == src && e.idx == it.idx
    match s.rng.status.find? fun e => same e && e.scn == now with
    | some e =>
      s.when (e.value != it.value) fun s => (s.bumpReg R.RNG_CNT_DIFF).raiseLater
        { code := 0x0404, cls := 1, scope := .position src, kind := 7, inst := src * 65536 + it.idx }
    | none => { s with rng := { s.rng with
        status := s.rng.status.filter (fun e => !same e) ++ [(⟨src, it.idx, now, it.value⟩ : Item)] } }

/-- An ACK at a HEAD (R164, R165). -/
def State.ackReceived (s : State) (a : Arrival) : State :=
  let cw := a.cw
  let h := hdrOf cw
  if !(s.isHead && cwValid Ty.ack cw a.uncorr && s.memberPositions.contains h.src && h.tag == s.scn.toNat % 256) then s
  else
    let s1 := s.setMember h.src { s.member h.src with ack := typeWord cw }
    ((itemsOf cw).foldl (fun s it => s.takeAck1 h.src it) s1).raiseDue

/-- RNG_CMD.CNT_CLR (R182). -/
def State.rngCntClr (s : State) : State :=
  [R.RNG_CNT_MISS, R.RNG_CNT_LATE, R.RNG_CNT_SEAL, R.RNG_CNT_DIFF, R.RNG_CNT_AGED, R.RNG_CNT_DIVERT, R.RNG_CNT_DROP,
    R.RNG_CNT_FOLD].foldl (fun s a => s.wr a 0) s

/-! ### The commands -/

def State.divertAll (s : State) (l : List (Fin 4 × List Byte)) : State := l.foldl (fun s d => s.divert d.1.val d.2) s

def execCodewordReceived (p : Fin 5) (l : Fin 2) (rx : List Int) (s : State) : Host.Outcome State Fault Refusal :=
  .next (s.live fun s => s.lineIn p.val l.val rx)

def execFold (p : Fin 4) (s : State) : Host.Outcome State Fault Refusal := .next (s.live fun s => s.foldPort p.val)

def execUnfoldNamed (ring : Ring) (s : State) : Host.Outcome State Fault Refusal :=
  .next (s.live fun s => s.unfoldNamed (ring == .y))

/-- `t2`: the STIME at which the codeword reached this node, as its time stamping unit measures it (R195). -/
def execNbrReceived (t2 : BitVec 48) (s : State) : Host.Outcome State Fault Refusal :=
  .next (s.live fun s => s.takeRx (Arrival.is Ty.nbr) fun a s => s.nbrReceived t2 a)

/-- `diverted`: the BULK codewords found in the positions of the insertion (R174). -/
def execUpWave (diverted : List (Fin 4 × List Byte)) (s : State) : Host.Outcome State Fault Refusal :=
  .next (s.live fun s => s.upWave.divertAll diverted)

def execUpReceived (s : State) : Host.Outcome State Fault Refusal :=
  .next (s.live fun s => s.takeRx (Arrival.is Ty.up) fun a s => s.upReceived a)

def execUplinkDeadline (s : State) : Host.Outcome State Fault Refusal := .next (s.live fun s => s.uplinkDeadline)

def execDownWave (diverted : List (Fin 4 × List Byte)) (s : State) : Host.Outcome State Fault Refusal :=
  .next (s.live fun s => s.downWave.divertAll diverted)

def execDnReceived (s : State) : Host.Outcome State Fault Refusal :=
  .next (s.live fun s => s.takeRx (Arrival.is Ty.dn) fun a s => s.dnReceived a)

def execAckReceived (s : State) : Host.Outcome State Fault Refusal :=
  .next (s.live fun s => s.takeRx (Arrival.is Ty.ack) fun a s => s.ackReceived a)

def execRngCntClr (s : State) : Host.Outcome State Fault Refusal := .next (s.live fun s => s.rngCntClr)

end Sys2Proof.Machine
end

