-- ==== Sys2Proof/Machine/Boundary.lean ====
section
/-! DEFINITION. Machine/Boundary.lean: admission (R109 to R112), full service and splice (R107, R108, R117, R118), and the
cycle boundary with everything that takes effect at it (R185).
Marked choices: log entries 14, 37, 49, 69 (DEDUCED); log entry 48 (DESIGN CHOICE). -/
namespace Sys2Proof.Machine

/-! ### Admission -/

/-- The node leaves no open fault of FC3 or above, unrecorded ones among them (R111, R463). -/
def State.fc3Free (s : State) : Bool :=
  !((List.range 64).any fun i => s.recActive i && Nat.ble 3 (s.get (F.FLT_RECr_W1_CLASS i))) &&
    !s.flt.holds.any fun h => h.recNo.isNone && Nat.ble 3 h.cls

/-- The cycle length in force: PB_LEN while the station is in station Par-bake, else SC_LEN (R106, R185). -/
def State.cycleLen (s : State) : Nat :=
  let l := Nat.max 1 (s.get F.TIM_SC_LEN_SC_LEN)
  if s.flag F.IMG_STAT_STN_PB && s.admitted then l * ((1250000 + l - 1) / l) else l

/-- The grant of R185: the LTIME of the boundary 4 cycles ahead, and the SCN of the cycle that it ends. -/
def State.grant (s : State) : AdmissionIn :=
  .granted (BitVec.ofNat 8 s.pos) (s.scn + 3) (BitVec.ofNat 48 s.stime48)
    ((s.tim.nextB + 3 * s.cycleLen) % ltimeWrap) (BitVec.ofNat 8 s.tier) (s.flag F.IMG_STAT_STN_PB)

/-- A failed check at the primary: the member's state, FC1 naming the position, and the answer (R34, R109, rows 2 and 3 of
R457). -/
def State.admFail (s : State) (pos adm reason : Nat) : State :=
  let s1 := if reason = 1 then s
    else (s.setMember pos { s.member pos with adm := adm, reason := reason }).setAsk pos { s.ask pos with heldAt := s.scn }
  (s1.raise { code := if reason = 1 then 0x0102 else 0x0103, cls := 1, scope := .position pos, kind := 6, inst := pos }).emit
    (.admission pos (.denied (BitVec.ofNat 8 s.pos) (adm == 3) reason))

/-- Every check has passed (R109). -/
def State.admPass (s : State) (pos : Nat) : State :=
  (s.setMember pos { s.member pos with adm := 2, stage := Stage.pbAdm, tier := s.tier, reason := 0 }).emit
    (.admission pos s.grant)

/-- Another node holds the position: the HEAD itself, or an admitted node of another device (R34, R109). -/
def State.admTaken (s : State) (pos : Nat) (device : BitVec 64) : Bool :=
  pos == s.pos || (s.member pos).adm == 2 && (s.ask pos).device != device

/-- The primary applies the checks of R109 in order. -/
def State.admRequest (s : State) (pos epoch minEpoch : Nat) (dig : BitVec 64) (listsUs timeOk : Bool) (device : BitVec 64) :
    State :=
  if !(s.isPrimary && s.inService && s.img.image.table.any (fun e => e.pos.toNat == pos)) then s
  else if s.admTaken pos device then s.admFail pos 4 1
  else
    let a : Ask := { device := device, dig := dig, lists := listsUs }
    let s1 := s.setAsk pos a
    if !(Nat.ble s.img.image.minEpoch epoch && Nat.ble minEpoch s.img.image.epoch) then s1.admFail pos 4 2
    else if !s.digFits a then s1.admFail pos 3 3
    else if !timeOk then s1.admFail pos 3 4
    else s1.admPass pos

/-- The retry 64 cycles after a hold for time (R109). -/
def State.admRetry (s : State) (pos : Nat) (timeOk : Bool) : State :=
  let m := s.member pos
  s.when (s.isPrimary && m.adm == 3 && m.reason == 4 && Nat.ble 64 (s.scn - (s.ask pos).heldAt).toNat) fun s =>
    if timeOk then s.admPass pos else s.admFail pos 3 4

/-- The node may take an answer of the primary: it runs Par-bake and is not REFUSED (R109). -/
def State.admOpen (s : State) : Bool :=
  s.running && s.stage != Stage.refused && s.stage != Stage.full && !s.isPrimary

/-- The port's lanes run PAM4. -/
def State.pam4 (s : State) (p : Nat) : Bool := s.flag (F.LNK_PORTx_STAT_MODE p)

/-- A joining node whose ring ports run PAM2 is a spur until its splice (R117, R153). -/
def State.toSpur (s : State) (y : Bool) : State :=
  let here := [outPort y true, outPort y false].any fun p => s.flag (F.LNK_PORTx_STAT_UP p) && !s.pam4 p
  s.when here (·.setRingState y RingSt.spur)

/-- The ramp phase from the source's heartbeat (R85): its phase at the boundary that began the heartbeat's cycle, run on by the
base ticks of station time since then. -/
def State.rampLoad (s : State) : State :=
  match s.clk.srcRamp with
  | none => s
  | some (ramp, scn) =>
    let per := Nat.max 1 (s.get F.CLK_SPREAD_PERIOD)
    let back := (s.scn + 1 - scn).toNat * s.cycleLen
    let since := (s.ltime + back + ltimeWrap * (back / ltimeWrap + 1) - s.tim.nextB) % ltimeWrap
    ({ s with clk := { s.clk with ramp := (ramp + since / 8) % per } }).setFlag F.CLK_STAT_RAMP_ALN true

/-- Admission is granted (R85, R109, R185, R395, R398): SCN, STIME, schedule, tier and ramp phase are loaded. -/
def State.admGranted (s : State) (head : Nat) (scn : Word) (stime : BitVec 48) (next tier : Nat) (stnPb : Bool) : State :=
  if !s.admOpen then s
  else
    let s1 := (s.admAnswer head 2 0).wr R.TIM_SCN scn
    let s2 := { s1 with
      tim := { s1.tim with stime := stime.toNat <<< 24, nextB := next % ltimeWrap }
      dpx := { s1.dpx with hasTier := true } }
    let s3 := ((s2.carriersMoved s.lnow).setFlag F.IMG_STAT_STN_PB stnPb).rampLoad
    let s4 := if s3.isHead then
        (let a := (s3.put F.DPX_STAT_TIER tier).put F.DPX_STAT_PRIM head
         a.when ((a.dpxState == Dpx.start || a.dpxState == Dpx.out) && !a.holdsFc3) (·.toDpx Dpx.sync))
      else (s3.put F.DPX_MBR_STAT_TIER tier).put F.DPX_MBR_STAT_OBEY head
    let s5 := s4.when (!stnPb) fun s => (s.toSpur false).toSpur true
    let s6 := (s5.toStage Stage.pbAdm).selectUp
    s6.when s6.timeLocked (·.trialPass)

/-- Admission is refused or held (R34, R109, R395). -/
def State.admDenied (s : State) (head : Nat) (held : Bool) (reason : Nat) : State :=
  if !s.admOpen then s
  else
    let s1 := s.admAnswer head 3 reason
    let s2 := s1.when (reason == 1) (·.put F.SYS_ROLE_BIND 4)
    let s3 := s2.when s2.isHead fun s => (s.put F.DPX_STAT_STATE Dpx.out).roleRefresh
    s3.toStage (if held then Stage.held else Stage.refused)

def State.admission (s : State) : AdmissionIn → State
  | .request pos epoch minEpoch dig lists timeOk device => s.admRequest pos.toNat epoch minEpoch dig lists timeOk device
  | .granted head scn stime next tier stnPb => s.admGranted head.toNat scn stime next tier.toNat stnPb
  | .denied head held reason => s.admDenied head.toNat held reason

/-! ### Full service (R107, R108) -/

/-- Admitted cells of stack k at the primary. -/
def State.cellsAdmitted (s : State) (k : Nat) : Nat :=
  (s.img.image.table.filter fun e => e.role == 2 && e.stack == k && (s.member e.pos.toNat).adm == 2).length

/-- The positions of the station table that do not stand in PB_ADM with time lock, as the primary knows them (R107). -/
def State.missingPos (s : State) (locked : List Nat) : List Nat :=
  s.tablePos.filter fun q => !((s.member q).adm == 2 && (s.member q).stage == Stage.pbAdm &&
    (if q = s.pos then s.timeLocked else locked.contains q))

/-- ST_WAIT has expired, and every stack has its minimum of admitted cells (R107). -/
def State.minimumOk (s : State) : Bool :=
  s.img.stWait && (List.range 3).all fun k => Nat.ble (s.img.image.minCells.getD k 0) (s.cellsAdmitted k)

/-- S is named 64 cycles ahead by the primary while a condition of R107 holds; else it reports the positions that are
missing. An admitted standby takes S from the primary. `locked` are the positions that are time-locked, `unlocked` those whose
lanes have not locked at S, as the HEAD knows them (R107, R269). -/
def State.fullNamed (s : State) (locked unlocked : List (BitVec 8)) : State :=
  s.when (s.isHead && s.inService && s.admitted && s.flag F.IMG_STAT_STN_PB && s.img.fullS.isNone) fun s =>
    let miss := s.missingPos (locked.map (·.toNat))
    if s.isPrimary && !(miss.isEmpty || s.minimumOk) then s.emit (.missing miss)
    else { s with img := { s.img with fullS := some (s.scn + 64), unlocked := unlocked } }

/-- ST_WAIT has run since the node entered PB_WAIT (R107); a primary that may still not name S reports what is missing. -/
def State.stWaitExpiry (s : State) : State :=
  s.when (s.running && !s.img.stWait) fun s =>
    let s1 := s.runUp (s.img.pbAt + msTicks s.img.image.stWait)
    let s2 := { s1 with img := { s1.img with stWait := true } }
    s2.when (s2.isPrimary && s2.flag F.IMG_STAT_STN_PB && s2.img.fullS.isNone && !s2.minimumOk) fun s =>
      s.emit (.missing (s.tablePos.filter fun q => (s.member q).adm != 2))

/-- PB_ADM to FULL (R111), at a boundary that names it. At S itself the node's lanes are switching, and R108 judges their lock
at S + 1; at a splice boundary `spliceEnd` does. -/
def State.joinFull (s : State) : State :=
  s.when (s.stage == Stage.pbAdm && s.admitted && s.timeLocked && s.fc3Free) (·.enterFull)

/-- Boundaries S and S + 1 of R108. -/
def State.fullStep (s : State) : State :=
  match s.img.fullS with
  | none => s
  | some b =>
    if b == s.scn then
      let s1 := forUpTo 5 (fun p s => s.modeSwitch p true) s
      let s2 := s1.when s1.isHead fun s => s.admittedAll.foldl (fun s q =>
        s.when (!s.img.unlocked.contains (BitVec.ofNat 8 q)) (·.setMember q { s.member q with stage := Stage.full })) s
      (s2.balFull (s2.img.unlocked.map (·.toNat))).joinFull
    else if b + 1 == s.scn then
      let s1 := { s with img := { s.img with fullS := none, unlocked := [] } }
      let s2 := (s1.setFlag F.IMG_STAT_STN_PB false).lengthChanged
      if (List.range 5).any fun p => (s2.port p).everUp && (s2.port p).switching then
        (s2.raiseLater { code := 0x0104, cls := 3, scope := .node }).leaveService false
      else s2
    else s

/-! ### Splice (R118) -/

/-- The splice boundary is named 64 cycles ahead by the primary, for a node that is admitted and time-locked in PB_ADM
(`locked` is what the primary knows of its time lock); a standby takes S from the primary. -/
def State.spliceNamed (s : State) (pos : Nat) (locked : Bool) : State :=
  let prim := s.isPrimary && (s.member pos).adm == 2 && (s.member pos).stage == Stage.pbAdm && locked && pos != s.pos
  s.when (prim || s.isHead && !s.isPrimary) (·.spliceTake (s.scn + 64) pos)

/-- The splice is cancelled at S − 8 (R118). -/
def State.spliceCancel (s : State) (pos : Nat) : State :=
  let s1 := s.when s.img.spliceSw fun s => (s.facing pos).foldl (fun s p => s.modeSwitch p false) s
  let s2 := s1.when (pos == s1.pos) (·.put F.IMG_ADM_STAT_REASON 5)
  let s3 := s2.when s2.isPrimary (·.setMember pos { s2.member pos with reason := 5 })
  { s3 with img := { s3.img with splice := none, spliceSw := false } }

/-- At S the folds around the node open, where their ports are there (R117, R118). -/
def State.spliceOpen (s : State) (pos : Nat) (y : Bool) : State :=
  let s1 := s.when s.isHead (·.reportsOpen y)
  let here := (s1.facing pos).any fun p => Nat.blt p 4 && Nat.ble 2 p == y
  if !here then s1
  else if !s1.portDown (outPort y true) && !s1.portDown (outPort y false) then
    s1.when (s1.folded y || s1.ringState y == RingSt.spur) (·.setRingState y RingSt.thru)
  else if s1.ringState y = RingSt.spur then
    s1.setRingState y (if s1.portDown (outPort y false) then RingSt.foldW else RingSt.foldE)
  else s1

/-- Boundary S (R118): the node enters FULL when its lanes are locked at PAM4 (R111). -/
def State.spliceEnd (s : State) (pos : Nat) : State :=
  let s1 := (s.spliceOpen pos false).spliceOpen pos true
  let locked := !(List.range 5).any fun p => (s1.port p).everUp && ((s1.port p).switching || !s1.pam4 p)
  let s2 := s1.when (pos == s1.pos && locked) fun s =>
    let t := s.joinFull
    { t with bal := { t.bal with started := t.isHead && t.stage == Stage.full } }
  let s3 := s2.when s2.isHead (·.setMember pos { s2.member pos with stage := Stage.full, reason := 0 })
  { s3 with img := { s3.img with splice := none, spliceSw := false } }

/-- The steps of a splice at a boundary (R118, R281). `bad`: a spur lane is not locked at PAM4, as the HEAD finds it. -/
def State.spliceStep (s : State) (bad : Bool) : State :=
  match s.img.splice with
  | none => s
  | some (b, q) =>
    let pos := q.toNat
    let left := (b - s.scn).toNat
    let ports := s.facing pos
    let s1 := s.when (left == 32) fun s =>
      let sw := ports.any fun p => (s.port p).everUp && !s.pam4 p
      let t := ports.foldl (fun s p => s.modeSwitch p true) s
      { t with img := { t.img with spliceSw := sw } }
    let lost := s1.img.spliceSw && ports.any fun p => (s1.port p).everUp && (s1.port p).switching
    if left = 8 && (bad || lost) then s1.spliceCancel pos
    else
      let s2 := s1.when (Nat.ble 1 left && Nat.ble left 8 && s1.isPrimary && s1.bal.req.isNone &&
        (s1.cellAt pos).isSome) (·.balPlace 2 pos (b + 1))
      s2.when (left == 0) (·.spliceEnd pos)

/-! ### Commands, held boundaries and trips at a member (R39, R164, R407, R469, R474) -/

/-- Staged commands of this boundary come into force (R39); older ones of the same item give way. -/
def State.applyStaged (s : State) : State :=
  let n := s.scn.toNat % 256
  let now := s.rng.staged.filter fun i => i.scn == n
  let force := now.foldl (fun l i => l.filter (fun e => !(e.idx == i.idx && sameSource e.origin i.origin)) ++ [i])
    s.rng.inForce
  { s with rng := { s.rng with inForce := force, staged := s.rng.staged.filter fun i => i.scn != n } }

/-- The node is a spur, which no DN codeword reaches (R117). -/
def State.onSpur (s : State) : Bool := s.ringState false == RingSt.spur || s.ringState true == RingSt.spur

/-- The boundary is served or held, and the status word of the next ACK is prepared (R164, R407). -/
def State.serveOrHold (s : State) : State :=
  let ok := s.rng.dnServed
  let word := b2n ok ||| b2n s.rng.dnLate <<< 1 ||| b2n (!ok && !s.rng.dnLate) <<< 2 ||| b2n (!ok) <<< 3
  let s1 := { s with rng := { s.rng with ackWord := word } }
  if ok || !s1.inService || s1.onSpur then (s1.put F.DPX_MBR_STAT_HOLD 0).setFlag F.DPX_MBR_STAT_HELD false
  else
    let n := s1.get F.DPX_MBR_STAT_HOLD + 1
    let s2 := ((s1.put F.DPX_MBR_STAT_HOLD (Nat.min 15 n)).setFlag F.DPX_MBR_STAT_HELD true).bump F.DPX_MBR_CNT_HELD
    s2.when (n == s2.get F.DPX_CFG_RIDE + 1) (·.raiseLater { code := 0x0D0A, cls := 3, scope := .node })

/-- Back to station Par-bake at boundary C (R474), the lanes under R137. -/
def State.backToParBake (s : State) : State :=
  let s1 := (forUpTo 5 (fun p s => s.modeSwitch p false) s).setFlag F.IMG_STAT_STN_PB true
  let s2 := { s1 with img := { s1.img with fullS := none, unlocked := [], splice := none, spliceSw := false }
                      bal := { s1.bal with started := false, items := [], byp := true, legs := 0 } }
  let s3 := s2.when s2.isHead fun s => s.admittedAll.foldl (fun s q =>
    s.setMember q { s.member q with stage := Stage.pbAdm }) s
  (s3.when (s3.stage == Stage.full) (·.toStage Stage.pbAdm)).lengthChanged

/-- The station word in force (R469, R474). -/
def State.stationAtMember (s : State) : State :=
  match s.commandInForce s.obeyed Idx.station with
  | none => s
  | some w =>
    let d := (s.scn.toNat + 65536 - bits w.toNat 16 16) % 65536
    if w.getLsbD 1 && Nat.blt d 32768 then
      let s1 := s.setFlag F.FLT_STAT_TRIP false
      let s2 := s1.when (s.flag F.FLT_STAT_TRIP || !s1.flag F.IMG_STAT_STN_PB) (·.backToParBake)
      s2.fltRefresh
    else s.when (w.getLsbD 0 && !s.flag F.FLT_STAT_TRIP) fun s => (s.setFlag F.FLT_STAT_TRIP true).fltRefresh

/-- Boundary C at a HEAD (R474). -/
def State.clearAtHead (s : State) : State :=
  s.when (s.isHead && s.flt.clearAt == some s.scn) fun s =>
    let s1 := { (s.wr R.FLT_STN 0) with flt := { s.flt with clearAt := none } }
    s1.backToParBake.fltRefresh

/-! ### The boundary (R185) -/

/-- Outcomes of a batch's targets as the primary has them (R538). -/
def State.batchOutcomes (s : State) (id : Word) : List (Nat × List Word) :=
  match s.ledFind id true with
  | none => []
  | some e => (s.ledTargets e).map fun q =>
    if q = s.pos then
      (q, match s.ledFind id false with
          | some t => outcomeWords ((List.range 16).map fun w => s.rd (R.FLT_LEDe_Ww t w))
          | none => [])
    else (q, ((s.flt.outcomes.find? fun o => o.1 == id && o.2.1 == q).map (·.2.2)).getD [])

/-- BATCH reports that fall due at this boundary (R538). -/
def State.batchReports (s : State) : State :=
  let due := s.sup.batchDue.filter fun d => d.2 == s.scn
  let s1 := { s with sup := { s.sup with batchDue := s.sup.batchDue.filter fun d => d.2 != s.scn } }
  due.foldl (fun s d =>
    let c := match s.ledFind d.1 true with | some e => s.rd (R.FLT_LEDe_Ww e 1) | none => 0
    (s.batchReport d.1 c (s.batchOutcomes d.1)).when true fun s =>
      { s with flt := { s.flt with outcomes := s.flt.outcomes.filter fun o => o.1 != d.1 } }) s1

/-- What station time counts in cycles (R194, R198, R200): cycles without a measurement, cycles in which a neighbour offered lower
HOPS, and cycles of disagreement. -/
def State.linkCycle (s : State) : State :=
  let s1 := forUpTo 4 (fun p s =>
    let k := s.link p
    s.setLink p { k with low := false, lowRun := if k.low then k.lowRun + 1 else 0 }) s
  let s2 := { s1 with tim := { s1.tim with
    noUp := Nat.min 15 (s1.tim.noUp + 1), xRun := if s1.crossBad then Nat.min 16 (s1.tim.xRun + 1) else 0 } }
  s2.selectUp

/-- What a cycle has gathered is put away: the jury of the cycle becomes the previous one (R403). -/
def State.cycleClear (s : State) : State :=
  { s with
    rng := { s.rng with upItems := [], jury := [], upOut := [], dnOut := [], missing := [], upSent := false
                        dnServed := false, dnLate := false }
    dpx := { s.dpx with juryPrev := s.dpx.juryNow, juryNow := 0, tup := false }
    bal := { s.bal with done := false } }

/-- One boundary: SCN, the schedule, and everything that takes effect at it (R36, R185). -/
def State.boundaryOnce (s : State) (bad : Bool) : State :=
  let b := s.tim.nextB
  let uncounted := s.img.fullS == some s.scn
  let s1 := s.wr R.TIM_SCN (s.scn + 1)
  let s2 := { s1 with tim := { s1.tim with lastB := b }, clk := { s1.clk with rampB := s1.clk.ramp } }
  let s3 := ((s2.fullStep.spliceStep bad).unfoldAt false).unfoldAt true
  let s4 := s3.when s3.isMember fun s => s.applyStaged.serveOrHold.stationAtMember.balMember
  let s5 := s4.when s4.isHead fun s => s.swapCheck.swapAtW.promoteAtP.clearAtHead
  let s6 := { s5 with tim := { s5.tim with nextB := (b + s5.cycleLen) % ltimeWrap } }
  let s7 := ((s6.swapAtBoundary.resync (s6.labs b)).offerBoundary (s6.labs b)).batchBoundary
  let s8 := ((s7.when s7.isPrimary (·.batchReports)).safBoundary uncounted).cycleClear.linkCycle
  forUpTo 4 (fun p s => s.nbrSend p) s8.raiseDue

/-- What the decode path of a type handed over before the present fabric cycle is taken. -/
def State.takeEarly (s : State) (typ : Nat) (f : Arrival → State → State) : State :=
  s.takeAllRx (fun a => a.is typ && Nat.blt a.fab s.fab) f

/-- CYCLE_BOUNDARY: LTIME reaches the next boundary. What came in an earlier fabric cycle counts in the cycle that ends; a
command that completes in the boundary's own fabric cycle is late (R167, R403). -/
def State.cycleBoundary (s : State) (bad : Bool) : State :=
  (((s.runTo s.tim.nextB).takeEarly Ty.hb fun a s => s.hbReceived a).takeEarly Ty.dn fun a s => s.dnReceived a).boundaryOnce
    bad

/-! ### The commands -/

def execAdmissionRequest (req : AdmissionIn) (s : State) : Host.Outcome State Fault Refusal :=
  .next (s.live fun s => s.admission req)

def execAdmissionTimeRetry (pos : BitVec 8) (timeOk : Bool) (s : State) : Host.Outcome State Fault Refusal :=
  .next (s.live fun s => s.admRetry pos.toNat timeOk)

def execFullServiceNamed (locked unlocked : List (BitVec 8)) (s : State) : Host.Outcome State Fault Refusal :=
  .next (s.live fun s => s.fullNamed locked unlocked)

def execStWaitExpiry (s : State) : Host.Outcome State Fault Refusal := .next (s.live fun s => s.stWaitExpiry)

def execSpliceNamed (pos : BitVec 8) (locked : Bool) (s : State) : Host.Outcome State Fault Refusal :=
  .next (s.live fun s => s.spliceNamed pos.toNat locked)

/-- `spliceBad`: at S − 8 a spur lane is not locked at PAM4, as the HEAD finds it or tells the node (R118). -/
def execCycleBoundary (spliceBad : Bool) (s : State) : Host.Outcome State Fault Refusal :=
  .next (s.live fun s => s.cycleBoundary spliceBad)

end Sys2Proof.Machine
end

