-- ==== Sys2Proof/Machine/Servo.lean ====
section
/-! DEFINITION. Machine/Servo.lean: the link measurement and the servo (R191 to R200, R202), and the steps of STIME with the
boundaries they pass (R186, R192).
Marked choices: log entry 38 (DEDUCED); log entry 51 (DESIGN CHOICE). -/
namespace Sys2Proof.Machine

/-! ### Steps of STIME -/

/-- The next boundary has been passed by the present STIME. -/
def State.boundaryPassed (s : State) : Bool :=
  let d := (s.tim.stime + stimeWrap - stimeOfTick s.tim.nextB % stimeWrap) % stimeWrap
  Nat.blt (2 * d) stimeWrap

/-- Take every boundary that a forward step has passed, in order (R186). -/
def State.takePassed : Nat → State → State
  | 0, s => s
  | n + 1, s => if s.boundaryPassed then State.takePassed n (s.boundaryOnce false) else s

/-- 10 µs, the shortest cycle, in units of 2^-40 ns (R35). -/
def shortCycle : Nat := 10000 * stimeUnit

/-- STIME is stepped by −θ (R186, R192, R208); θ in ns. -/
def State.stepTime (s : State) (theta : Frac) : State :=
  let d := (theta.neg.mul (Frac.ofNat stimeUnit)).round
  if d < 0 then
    let t := s.stimeExt - d.natAbs
    ({ s with tim := { s.tim with stime := t % stimeWrap, wraps := t / stimeWrap } }).carriersMoved s.lnow
  else
    let t := s.stimeExt + d.natAbs
    let n := t / stimeWrap - s.tim.wraps
    let s1 := forUpTo n (fun _ s => s.wrapped)
      { s with tim := { s.tim with stime := t % stimeWrap, wraps := t / stimeWrap } }
    State.takePassed (d.natAbs / shortCycle + 2) (s1.carriersMoved s.lnow).tpoStep

/-! ### The servo -/

/-- The offset is stepped, not slewed (R192). -/
def State.stepsNow (s : State) (theta : Frac) (host : Bool) : Bool :=
  (Frac.ofNat (s.num R.TIM_STEP_THR)).blt theta.abs && s.stage != Stage.full &&
    (!host || s.flag F.IMG_STAT_STN_PB)

/-- One update of the servo terms with offset θ over T ns (R191). -/
def State.servoUpdate (s : State) (theta t : Frac) (kp ki : Nat) : State :=
  let e := (theta.div t).neg
  let s1 := s.setY (e.shr kp) (s.tim.yI.add (e.shr ki))
  let n := if s1.flag F.TIM_STAT_YLIM then s1.tim.ylimRun + 1 else 0
  let s2 := { s1 with tim := { s1.tim with ylimRun := n } }
  s2.when (n == 16) (·.raise { code := 0x0506, cls := 1, scope := .node })

/-- Mean of a list of fractions. -/
def meanOf (l : List Frac) : Frac := (l.foldl Frac.add Frac.zero).div (Frac.ofNat (Nat.max 1 l.length))

/-- What an update does to the states ACQUIRE and LOCKED (R193). -/
def State.servoCount (s : State) (theta : Frac) : State :=
  if s.servo = Servo.acquire then
    let l := (theta.abs :: s.tim.thetas).take 8
    let ok := l.length == 8 && (meanOf l).ble Frac.one
    let run := if ok then s.tim.okRun + 1 else 0
    let s1 := { s with tim := { s.tim with thetas := l, okRun := run } }
    s1.when (Nat.ble 64 run) (·.setServo Servo.locked)
  else
    let run := if (Frac.ofNat 5).blt theta.abs then s.tim.badRun + 1 else 0
    let s1 := { s with tim := { s.tim with badRun := run } }
    s1.when (s.servo == Servo.locked && Nat.ble 16 run) fun s =>
      (s.setServo Servo.acquire).raise { code := 0x0503, cls := 1, scope := .node }

/-- One offset reaches the servo (R191 to R193): the first one or a returning source takes it out of INIT or HOLD, and the
offset is stepped or makes one update, which the runs of R193 count. -/
def State.servoStep (s : State) (theta t : Frac) (kp ki : Nat) (host : Bool) : State :=
  let s1 :=
    if s.servo = Servo.init then s.setServo Servo.acquire
    else if s.servo = Servo.hold then
      s.setServo (if (Frac.ofNat 5).blt theta.abs then Servo.acquire else Servo.locked)
    else s
  if s1.stepsNow theta host then (s1.setY Frac.zero s1.tim.yI).stepTime theta
  else (s1.servoUpdate theta t kp ki).servoCount theta

/-- Station-time error beyond 1 µs in FULL (R110). -/
def State.chainCheck (s : State) : State :=
  s.when (s.stage == Stage.full && (Frac.ofNat 1000).blt s.tim.chain.abs) fun s =>
    (s.raise { code := 0x0501, cls := 3, scope := .node }).leaveService false

/-! ### The link measurement (R196) -/

/-- The difference a − b of two stamps as a signed value in ns. -/
def stampDiff (a b : BitVec 48) : Frac := Frac.mk' (sgn 48 (a - b).toNat) 65536

/-- TIM_PORTx_ASYM in ns. -/
def State.asym (s : State) (p : Nat) : Frac := Frac.mk' (sgn 32 (s.num (R.TIM_PORTp_ASYM p))) 10000

/-- The cycle length in force in ns. -/
def State.cycleNs (s : State) : Frac := Frac.mk' (2 * s.cycleLen : Nat) 25

/-- A measurement completes on port p: θ and d, and the servo's update when p is the upstream (R191 to R200). DLY is the mean of
the last 64 values, of fewer before 64 have come (log entry 51, DESIGN CHOICE). -/
def State.linkMeasurement (s : State) (p : Nat) : State :=
  let k := s.link p
  match s.flag (F.LNK_PORTx_STAT_UP p), k.t1, k.t3m, k.t4 with
  | true, some t1, some t3, some t4 =>
    let a := stampDiff k.t2 t1
    let b := stampDiff t4 t3
    let theta := ((a.sub b).sub (s.asym p)).shr 1
    let ds := ((a.add b).shr 1 :: k.delays).take 64
    let s1 := s.wrN (R.TIM_PORTp_DLY p) (unsgn 32 ((meanOf ds).shl 8).round)
    let s2 := s1.setLink p { k with delays := ds, theta := if s1.qualifies p then some theta else none }
    let s3 := s2.selectUp
    if s3.srcHost || s3.upPort != p || !s3.qualifies p then s3
    else
      let s4 := ({ s3 with tim := { s3.tim with noUp := 0 } }).setChain (k.chain.add theta)
      let s5 := s4.servoStep theta s4.cycleNs (s4.get F.TIM_SERVO_KP_SH) (s4.get F.TIM_SERVO_KI_SH) false
      let s6 := s5.when (s5.flag F.TIM_STAT_XCHK && !s5.crossBad) (·.setFlag F.TIM_STAT_XCHK false)
      s6.chainCheck
  | _, _, _, _ => s

/-! ### TIM_OFFSET (R202, R203) -/

/-- T_k of a host update in ns: the time since the last accepted write, 10 ms to 16 s; 1 s for the first. -/
def State.hostInterval (s : State) : Frac :=
  match s.tim.lastOfs with
  | none => Frac.ofNat 1000000000
  | some u => Frac.clamp (Frac.ofNat 10000000) (Frac.ofNat 16000000000) (Frac.mk' ((s.sys.up - u) * 16 : Nat) 25)

/-- A write of TIM_OFFSET, signed in 1/16 ns. -/
def State.offsetWrite (s : State) (v : Nat) : State :=
  if !s.srcHost then s.setFlag F.TIM_STAT_OFS_IGN true
  else
    let theta := Frac.mk' (sgn 32 v) 16
    let s1 := s.hostBack.servoStep theta s.hostInterval (s.get F.TIM_SERVO_HKP_SH) (s.get F.TIM_SERVO_HKI_SH) true
    { s1 with tim := { s1.tim with lastOfs := some s1.sys.up } }

/-! ### The commands -/

def execLinkMeasurement (p : Fin 4) (s : State) : Host.Outcome State Fault Refusal :=
  .next (s.live fun s => s.linkMeasurement p.val)

def execTimOffsetWrite (m : Master) (v : Word) (s : State) : Host.Outcome State Fault Refusal :=
  .next (s.byMaster m fun s => if s.mayClear m then s.offsetWrite v.toNat else s.violation m true R.TIM_OFFSET)

end Sys2Proof.Machine
end

