-- ==== Sys2Proof/Machine/Metering.lean ====
section
/-! DEFINITION. Machine/Metering.lean: the metering unit (R367 to R393): samples, line cycles, quantities, accumulators,
snapshots and their signing, pulse and test-frequency outputs. Sums are binary64 in sample order (R376).
Marked choices: log entries 11, 39 (DEDUCED). -/
namespace Sys2Proof.Machine

/-! ### Channels and elements -/

def State.mtrElem (s : State) (e : Nat) : MtrElem := Bank.at {} s.mtr.elem e
def State.mtrAcc (s : State) (k : Nat) : MtrAcc := Bank.at {} s.mtr.acc k
def State.setMtrAcc (s : State) (k : Nat) (v : MtrAcc) : State :=
  { s with mtr := { s.mtr with acc := Bank.upd {} s.mtr.acc k v } }
def State.pls (s : State) (n : Nat) : PlsSt := Bank.at {} s.mtr.pls n
def State.setPls (s : State) (n : Nat) (v : PlsSt) : State :=
  { s with mtr := { s.mtr with pls := Bank.upd {} s.mtr.pls n v } }
def State.dfc (s : State) (n : Nat) : DfcSt := Bank.at {} s.mtr.dfc n
def State.setDfc (s : State) (n : Nat) (v : DfcSt) : State :=
  { s with mtr := { s.mtr with dfc := Bank.upd {} s.mtr.dfc n v } }

def State.mtrDc (s : State) : Bool := s.flag F.MTR_CFG_MODE
def State.threeWire (s : State) : Bool := s.flag F.MTR_CFG_WIRING

/-- The channel with a function (R371). -/
def State.chanOf (s : State) (func : Nat) : Option Nat :=
  (List.range 8).find? fun n => s.flag (F.MTR_CHn_CFG_EN n) && s.get (F.MTR_CHn_CFG_FUNC n) == func

/-- The full-scale code (R370). -/
def fullScale : Int := 8388607

/-- The scaled sample of channel n, binary64 (R371). -/
def State.scaled (s : State) (n : Nat) (code : Int) : Nat :=
  let f := fun (a : Nat) => f64.ofFrac (f32s.frac (s.num a))
  f64.mul (f (R.MTR_CHn_GAIN n)) (f64.add (f64.ofFrac (Frac.ofInt code)) (f (R.MTR_CHn_OFS n)))

/-- Whether an element is metered: A, B, C; three-wire wiring has A and C only (R377). -/
def State.elemOn (s : State) (e : Nat) : Bool :=
  !(s.threeWire && e == 1) && (s.chanOf (4 + e)).isSome

/-- The voltage of an element from the samples (R377). -/
def State.elemV (s : State) (x : Nat → Nat) (e : Nat) : Nat :=
  let v := fun (func : Nat) => match s.chanOf func with | some n => x n | none => 0
  if s.threeWire then f64.sub (v (1 + e)) (v 2) else v (1 + e)

def State.elemI (s : State) (x : Nat → Nat) (e : Nat) : Nat :=
  match s.chanOf (4 + e) with | some n => x n | none => 0

/-- Seconds from units of 2^-40 ns, binary64. -/
def secondsOf (d : Nat) : Nat := f64.ofFrac (Frac.mk' d (1000000000 * stimeUnit))

/-! ### Line cycles (R373 to R377) -/

/-- V_rms or I_rms from its sum of squares. -/
def rmsOf (sum tc : Nat) : Nat := f64.sqrt (f64.div sum tc)

/-- The quantities of an element of the total kind (R375, R376). -/
def State.totalPqs (s : State) (e tc : Nat) : MtrPqs :=
  let m := s.mtrElem e
  let sg := fun (v : Nat) => if s.flag F.MTR_CFG_INV then f64.neg v else v
  if s.mtrDc then ⟨sg m.p, 0, f64.abs m.p⟩
  else ⟨sg m.p, sg m.q, f64.mul (f64.mul (rmsOf m.vv tc) (rmsOf m.ii tc)) tc⟩

/-- The quantities of the fundamental kind (R376), from free amplitudes V1 and I1. -/
def State.fundPqs (s : State) (tc k : Nat) : MtrPqs :=
  let g := fun (i : Nat) => (Config.freeFund (s.free + 4 * k + i)).toNat
  let sg := fun (v : Nat) => if s.flag F.MTR_CFG_INV then f64.neg v else v
  let half := fun (v : Nat) => f64.mul (f64.div v (f64.ofFrac (Frac.ofNat 2))) tc
  let re := f64.add (f64.mul (g 0) (g 2)) (f64.mul (g 1) (g 3))
  let im := f64.sub (f64.mul (g 1) (g 2)) (f64.mul (g 0) (g 3))
  let mag := fun (a b : Nat) => f64.sqrt (f64.add (f64.mul a a) (f64.mul b b))
  ⟨sg (half re), sg (half im), half (f64.mul (mag (g 0) (g 1)) (mag (g 2) (g 3)))⟩

def zeroPqs : MtrPqs := ⟨0, 0, 0⟩
def addPqs (a b : MtrPqs) : MtrPqs := ⟨f64.add a.p b.p, f64.add a.q b.q, f64.add a.s b.s⟩

/-- A line cycle ends: its energies wait for the update, and the cycle's readings are shown (R373, R376). -/
def State.cycleEnd (s : State) : State :=
  if s.mtr.count = 0 || s.mtr.tc = 0 then s
  else
    let tc := secondsOf s.mtr.tc
    let tot := (List.range 3).map fun e => if s.elemOn e then s.totalPqs e tc else zeroPqs
    let fund := (List.range 3).map fun e => if s.elemOn e && !s.mtrDc then s.fundPqs tc e else zeroPqs
    let sum := fun (l : List MtrPqs) => l.foldl addPqs zeroPqs
    let s1 := s.wrN R.MTR_FREQ (f32s.ofFrac (Frac.mk' ((1000000000 * stimeUnit : Nat) : Int) s.mtr.tc))
    let s2 := s1.wr R.MTR_CYC (s1.rd R.MTR_CYC + 1)
    let s3 := forUpTo 8 (fun n s => s.when (s.flag (F.MTR_CHn_CFG_EN n))
      (·.wrN (R.MTR_CHn_RMS n) (f32s.ofFrac (f64.frac (rmsOf (Bank.at 0 s.mtr.sq n) tc))))) s2
    let s4 := s3.useMany 12
    { s4 with
      mtr := { s3.mtr with tc := 0, count := 0, elem := [], sq := [], cycAt := s3.tim.acc
                           cycles := s3.mtr.cycles ++ [fund ++ [sum fund] ++ tot ++ [sum tot]] } }

/-- The rms of channel n over the last line cycle at the input, in mV, reaches VMIN (R370, R374). -/
def State.voltOk (s : State) (n : Nat) : Bool :=
  let g := (f32s.frac (s.num (R.MTR_CHn_GAIN n))).abs
  let codes := (f32s.frac (s.num (R.MTR_CHn_RMS n))).div g
  g.num != 0 && (Frac.ofNat (s.get F.MTR_CFG_VMIN)).ble (codes.mul (Frac.mk' 500 8388607))

/-- The phase voltages at or above VMIN: mask of A, B, C. -/
def State.voltsOk (s : State) : Nat := maskOf 3 fun p => match s.chanOf (1 + p) with | some n => s.voltOk n | none => false

/-- 1/65 s and 1/45 s in units of 2^-40 ns: the lock range (R374). -/
def cycShort : Nat := 1000000000 * stimeUnit / 65
def cycLong : Nat := 1000000000 * stimeUnit / 45

/-- The tracker (R374): the reference in use, NOREF, and the return at a crossing. The frequency is judged by the time between
crossings. Answers whether the cycle in progress ends here. -/
def State.track (s : State) (crossing : Bool) : State × Bool :=
  let now := s.tim.acc
  let vok := s.voltsOk
  let next := fun (p : Nat) => (List.range 3).findSome? fun k =>
    if bit vok ((p + k) % 3) then some ((p + k) % 3) else none
  let home := s.get (F.MTR_CHn_CFG_FUNC (s.get F.MTR_CFG_REF)) + 2
  let per := s.mtr.crossAt.map fun t => now - t
  let long := match per with | some d => Nat.ble d cycLong | none => false
  let inRange := long && (!crossing || (match per with | some d => Nat.ble cycShort d | none => false))
  let s0 := s.when crossing fun s => { s with mtr := { s.mtr with crossAt := some now } }
  if s.flag F.MTR_STAT_LOCKED then
    match next (s.get F.MTR_STAT_REF_PH), inRange with
    | some p, true => (s0.put F.MTR_STAT_REF_PH p, crossing)
    | _, _ =>
      let s1 := (s0.setFlag F.MTR_STAT_LOCKED false).put F.MTR_STAT_REF_PH 3
      let s2 := { s1 with mtr := { s1.mtr with noref := true } }
      (s2.raise { code := 0x0C01, cls := 0, scope := .node }, false)
  else match next (home % 3), inRange && crossing with
    | some p, true => ((s0.setFlag F.MTR_STAT_LOCKED true).put F.MTR_STAT_REF_PH p, true)
    | _, _ => ({ s0 with mtr := { s0.mtr with noref := true } }, false)

/-! ### Test-frequency outputs (R388) -/

/-- One sample of a DFC output: `e` is the signed energy of its quantity in W·s, binary64. -/
def State.dfcSample (s : State) (n e : Nat) : State :=
  let d := s.dfc n
  let k := s.num (R.MTR_DFCn_CONST n)
  if !s.flag (F.MTR_DFCn_CFG_EN n) || k = 0 then s
  else
    let x := f64.frac e
    let all := d.res.add (if x.num < 0 then Frac.zero else x)
    let per := Frac.mk' 3600000 k
    let owe := (all.div per).floor.toNat
    let owed := d.owed + owe
    let s1 := if Nat.blt 65535 owed && !s.flag (F.MTR_DFCn_CFG_OVF n) then
        (s.setFlag (F.MTR_DFCn_CFG_OVF n) true).raise { code := 0x0C05, cls := 0, scope := .node, kind := 5, inst := 4 + n }
      else s
    let owed := Nat.min 65535 owed
    let go := d.busy ≤ 1 && Nat.blt 0 owed
    let d1 : DfcSt := { res := all.sub (per.mul (Frac.ofNat owe)), owed := if go then owed - 1 else owed
                        busy := if go then 2 * s.get (F.MTR_DFCn_CFG_WIDTH n) else d.busy - 1 }
    (s1.setDfc n d1).when go (·.emit (.pulse (4 + n)))

/-! ### Samples (R370 to R372) -/

/-- The sums of one element take a sample. -/
def State.elemSample (s : State) (x : Nat → Nat) (dt : Nat) (h : Nat) (e : Nat) : State :=
  if !s.elemOn e then s
  else
    let m := s.mtrElem e
    let v := s.elemV x e
    let i := s.elemI x e
    let t := fun (a b : Nat) => f64.mul (f64.mul a b) dt
    let m1 : MtrElem := { p := f64.add m.p (t v i), q := if s.mtrDc then 0 else f64.add m.q (t h i)
                          vv := f64.add m.vv (t v v), ii := f64.add m.ii (t i i) }
    { s with mtr := { s.mtr with elem := Bank.upd {} s.mtr.elem e m1 } }

/-- Full-scale samples (R370): the flag, and FC0 at the first of a run. -/
def State.overload (s : State) (n : Nat) (full : Bool) : State :=
  let first := full && !bit s.mtr.ovRun n
  let s1 := { s with mtr := { s.mtr with ovRun := setBit s.mtr.ovRun n full, ovld := s.mtr.ovld || full } }
  let s2 := s1.when full fun s => s.put F.MTR_STAT_OVLD (setBit (s.get F.MTR_STAT_OVLD) n true)
  s2.when first (·.raise { code := 0x0C02, cls := 0, scope := .node, kind := 5, inst := n })

/-- The reference of a sample, and the line cycle it ends (R373, R374). -/
def State.meterTrack (s : State) (crossing : Bool) : State :=
  if s.mtrDc then s
  else
    let pr := s.track crossing
    pr.1.when pr.2 (·.cycleEnd)

/-- The overload flags of a sample's enabled channels (R372). -/
def State.overloads (s : State) (codes : List Int) : State :=
  forUpTo 8 (fun n s => s.when (s.flag (F.MTR_CHn_CFG_EN n))
    (·.overload n (decide (fullScale ≤ (codes.getD n 0).natAbs)))) s

/-- A sample's sums: `x` the channels' values, `h` the shifted voltages, `dt` the interval (R375, R376). -/
def State.meterSums (s : State) (x h : Nat → Nat) (dt : Nat) : State :=
  let s1 := forUpTo 8 (fun n s => s.when (s.flag (F.MTR_CHn_CFG_EN n)) fun s =>
    { s with mtr := { s.mtr with
      sq := Bank.upd 0 s.mtr.sq n (f64.add (Bank.at 0 s.mtr.sq n) (f64.mul (f64.mul (x n) (x n)) dt)) } }) s
  forUpTo 3 (fun e s => s.elemSample x dt (h e) e) s1

/-- The energy a sample gives DFCn (R388). -/
def State.dfcEnergy (s : State) (x h : Nat → Nat) (dt n : Nat) : Nat :=
  let prod := fun (r : Bool) (e : Nat) =>
    if s.elemOn e then f64.mul (f64.mul (if r then h e else s.elemV x e) (s.elemI x e)) dt else 0
  let q := s.get (F.MTR_DFCn_CFG_QTY n)
  let ph := s.get (F.MTR_DFCn_CFG_PH n)
  let e := if ph = 3 then f64.add (f64.add (prod (2 ≤ q) 0) (prod (2 ≤ q) 1)) (prod (2 ≤ q) 2) else prod (2 ≤ q) ph
  let e := if s.flag F.MTR_CFG_INV then f64.neg e else e
  if q % 2 = 1 then f64.neg e else e

/-- The next sample has come; the one after it falls due a period later (R370). -/
def State.sampleDue (s : State) : State :=
  let n := s.mtr.next
  let t := s.runUp ((n + 3) / 4)
  { t with mtr := { t.mtr with next := n + samplePer } }

/-- A decimated sample of the eight channels (R370 to R373, R375, R376, R388). `crossing`: the tracked fundamental crosses zero
upwards before this sample. -/
def State.meterSample (s0 : State) (codes : List Int) (crossing : Bool) : State :=
  if !s0.mtr.on then s0
  else
    let s := s0.sampleDue
    let d := s.tim.acc - s.mtr.lastAcc
    let dt := secondsOf d
    let s2 := (s.meterTrack crossing).overloads codes
    let code := fun (n : Nat) => clampI (-fullScale) fullScale (codes.getD n 0)
    let x := fun (n : Nat) =>
      if s2.num (R.MTR_CHn_PHASE n) = 0 then s2.scaled n (code n) else (Config.freeDelay (s2.free + n)).toNat
    let h := fun (e : Nat) => if s.mtrDc then 0 else (Config.freeShift (s2.free + 8 + e)).toNat
    let s4 := s2.meterSums x h dt
    let s5 := forUpTo 2 (fun n s => s.dfcSample n (s4.dfcEnergy x h dt n)) s4
    let s6 := s5.useMany 11
    let s7 := { s6 with
      mtr := { s6.mtr with lastAcc := s6.tim.acc, tc := s6.mtr.tc + d, count := s6.mtr.count + 1 } }
    s7.when (s7.mtrDc && Nat.ble 320 s7.mtr.count) (·.cycleEnd)

/-- 1 / NOM s of station time in NOREF (R374). -/
def State.norefEnd (s : State) : State :=
  s.when (s.mtr.on && !s.mtrDc && !s.flag F.MTR_STAT_LOCKED) fun s =>
    let per := 1000000000 * stimeUnit / (if s.flag F.MTR_CFG_NOM then 60 else 50)
    (s.runAhead (per - (s.tim.acc - s.mtr.cycAt))).cycleEnd

/-! ### Accumulators (R378 to R382) -/

/-- The quantities a cycle books, with their energies (R378): active, reactive, apparent. -/
def bookings (c : MtrPqs) : List (Nat × Nat) :=
  let p := f64.frac c.p
  let q := f64.frac c.q
  let pn := decide (p.num < 0)
  let qn := decide (q.num < 0)
  let quad := if qn then (if pn then 4 else 5) else (if pn then 3 else 2)
  [(b2n pn, f64.abs c.p), (quad, f64.abs c.q), (6 + b2n pn, c.s)]

/-- Energy in units of 1 µWh from W·s. -/
def microWh (e : Nat) : Frac := (f64.frac e).mul (Frac.mk' 2500 9)

/-- Accumulator k takes an increment (R379). -/
def State.accAdd (s : State) (k : Nat) (inc : Frac) : State :=
  let a := s.mtrAcc k
  let x := a.res.add inc
  let n := a.acc + x.floor.toNat
  (s.setMtrAcc k { acc := n, copy := n, res := x.sub (Frac.ofInt x.floor) }).wrN (R.MTR_ACCk_LO k) n

/-- The weight of a pulse output (R387). -/
def State.plsWeight (s : State) (n : Nat) : Nat :=
  s.num (R.MTR_PLSn_WGT n) * 10 ^ Nat.min 9 (s.get (F.MTR_PLSn_CFG_EXP n))

/-- One update of a pulse output (R387). -/
def State.plsUpdate (s : State) (incs : List (Nat × Frac)) (n : Nat) : State :=
  let p0 := s.pls n
  let p := if p0.fresh then
      { p0 with src := s.get (F.MTR_PLSn_CFG_SRC n), weight := s.plsWeight n, res := Frac.zero, pending := 0, fresh := false }
    else p0
  if !s.flag (F.MTR_PLSn_CFG_EN n) || p.weight = 0 then s.setPls n p
  else
    let inc := ((incs.filter fun i => i.1 == p.src).map (·.2)).foldl Frac.add Frac.zero
    let all := p.res.add inc
    let owe := (all.div (Frac.ofNat p.weight)).floor.toNat
    let m := Nat.min 65535 (p.pending + owe)
    let s1 := s.setPls n { p with res := all.sub (Frac.ofNat (p.weight * owe)), pending := m }
    s1.when (m == 65535 && p.pending != 65535) fun s =>
      (s.setFlag (F.MTR_PLSn_CFG_OVF n) true).raise { code := 0x0C05, cls := 0, scope := .node, kind := 5, inst := n }

/-- The two copies of an accumulator disagree (R381). -/
def State.accDiffer (s : State) : State :=
  s.when (!s.flag F.MTR_STAT_ACC_ERR) fun s =>
    (s.setFlag F.MTR_STAT_ACC_ERR true).raise { code := 0x0C03, cls := 1, scope := .node }

/-- The two copies of every accumulator are compared (R381). -/
def State.accCheck (s : State) : State :=
  s.when ((List.range 64).any fun k => (s.mtrAcc k).acc != (s.mtrAcc k).copy) (·.accDiffer)

/-- Bits of the second copy of accumulator k have changed (R381). -/
def State.accUpset (s : State) (k : Nat) (bits : BitVec 64) : State :=
  let a := s.mtrAcc k
  s.setMtrAcc k { a with copy := a.copy ^^^ bits.toNat }

/-- The update of the oldest cycle that waits (R379, R381, R387): counting goes on from the copy that matches its residue. -/
def State.accUpdate (s : State) : State :=
  match s.mtr.cycles with
  | [] => s
  | c :: t =>
    let s0 := s.accCheck
    let s1 := { s0 with mtr := { s0.mtr with cycles := t } }
    -- block b = 4·KIND + PH
    let incs := ((List.range c.length).zip c).foldl (fun l b =>
      l ++ (bookings b.2).map fun q => (8 * b.1 + q.1, microWh q.2)) []
    let s2 := forUpTo 64 (fun k s => s.setMtrAcc k { s.mtrAcc k with copy := (s.mtrAcc k).acc }) s1
    let s3 := incs.foldl (fun s i => s.accAdd i.1 i.2) s2
    forUpTo 4 (fun n s => s.plsUpdate incs n) s3

/-- A read of MTR_ACCk_LO latches HI (R381, R382). -/
def State.accRead (s : State) (k : Nat) : State :=
  let a := s.mtrAcc k
  (s.wrN (R.MTR_ACCk_HI k) (a.acc >>> 32)).when (a.acc != a.copy) (·.accDiffer)

/-! ### Pulse outputs (R387) -/

/-- WIDTH of a pulse output in base ticks, 0 acting as 1. -/
def State.plsWidth (s : State) (n : Nat) : Nat := msTicks (Nat.max 1 (s.get (F.MTR_PLSn_CFG_WIDTH n)))

/-- An owed pulse begins once WIDTH ms have passed since the one before. -/
def State.pulseEmit (s0 : State) (n : Nat) : State :=
  let p := s0.pls n
  s0.when (s0.flag (F.MTR_PLSn_CFG_EN n) && Nat.blt 0 p.pending && !p.active) fun s0 =>
    let s := s0.runUp p.freeAt
    (s.setPls n { p with pending := p.pending - 1, active := true, edgeAt := s.sys.up }).emit (.pulse n)

/-- WIDTH ms after its leading edge a pulse ends. -/
def State.plsEnd (s0 : State) (n : Nat) : State :=
  let p := s0.pls n
  s0.when p.active fun s0 =>
    let s := s0.runUp (p.edgeAt + s0.plsWidth n)
    s.setPls n { p with active := false, freeAt := s.sys.up + s.plsWidth n }

/-- A write of MTR_PLSn_WGT, or of MTR_PLSn_CFG, whose OVF is cleared by a one (R387, R394). -/
def State.plsWrite (s : State) (n : Nat) (wgt : Bool) (v : Nat) : State :=
  if wgt then (s.wrN (R.MTR_PLSn_WGT n) v).setPls n { s.pls n with fresh := true }
  else
    let old := s.num (R.MTR_PLSn_CFG n)
    let new := (v &&& 0xFFFF000F) ||| (if bit v 15 then 0 else old &&& 0x8000)
    let moved := bits old 24 6 != bits new 24 6 || bits old 0 4 != bits new 0 4
    (s.wrN (R.MTR_PLSn_CFG n) new).when moved (·.setPls n { s.pls n with fresh := true })

/-! ### Snapshots (R383 to R386) -/

/-- A snapshot of every accumulator (R381, R383). -/
def State.snapshot (s0 : State) : State :=
  let s := s0.accCheck
  let s1 := forUpTo 64 (fun k s =>
    let a := (s.mtrAcc k).acc
    (s.wrN (R.MTR_SNPk_LO k) a).wrN (R.MTR_SNPk_HI k) (a >>> 32)) s
  let s2 := (s1.wrN R.MTR_SNP_STIME_NS s1.stimeNs).wrN R.MTR_SNP_STIME_FRAC (s1.stime48 % 65536)
  let s3 := (s2.wr R.MTR_SNP_SCN s2.scn).wrN R.MTR_SNP_VSEC_LO s2.vault.sec.toNat
  let s4 := (s3.wrN R.MTR_SNP_VSEC_HI (s3.vault.sec.toNat >>> 32)).wr R.MTR_SNP_CYC (s3.rd R.MTR_CYC)
  s4.wr R.MTR_SNP_SEQ (s4.rd R.MTR_SNP_SEQ + 1)

/-- The first 576 bytes of the signed record (R386). -/
def State.signedBytes (s : State) : List Byte :=
  let flags := b2n s.mtrDc ||| b2n s.threeWire <<< 1 ||| b2n s.mtr.noref <<< 2 ||| b2n s.mtr.ovld <<< 3 |||
    b2n (s.flag F.MTR_STAT_ACC_ERR) <<< 4 ||| b2n s.mtr.lostStart <<< 5 ||| b2n (s.flag F.SYS_VAULT_STAT_TAMPER) <<< 6
  let accs := (List.range 64).foldl (fun l k =>
    l ++ leBytes 4 (s.num (R.MTR_SNPk_LO k)) ++ leBytes 4 (s.num (R.MTR_SNPk_HI k))) []
  leBytes 4 0x534D514B ++ leBytes 2 1 ++ leBytes 1 s.pos ++ leBytes 1 flags ++ leBytes 8 Config.devId.toNat ++
    leBytes 4 (s.num R.MTR_SERIES) ++ leBytes 4 (s.num R.MTR_SNP_SEQ) ++ leBytes 4 (s.num R.MTR_SNP_STIME_NS) ++
    leBytes 2 (s.num R.MTR_SNP_STIME_FRAC) ++ leBytes 2 0 ++ leBytes 4 (s.num R.MTR_SNP_SCN) ++
    leBytes 4 (s.num R.MTR_SNP_VSEC_LO) ++ leBytes 4 (s.num R.MTR_SNP_VSEC_HI) ++ leBytes 4 (s.num R.MTR_SNP_CYC) ++
    (leBytes 8 s.img.image.cfgDig.toNat).reverse ++ (leBytes 8 s.img.image.calDig.toNat).reverse ++ accs

/-- The record's words. -/
def State.sigWords (s : State) (ofs : Nat) (b : List Byte) : State := s.wrAll (fun i => R.MTR_SIGREC (ofs + i)) (bytesWords b 0 (b.length / 4))

/-- The signer starts the job at the front (R384, R546). -/
def State.signStart (s : State) : State :=
  match s.mtr.jobs with
  | .record _ :: _ =>
    let s1 := s.snapshot
    let s2 := (s1.sigWords 0 (s1.signedBytes ++ List.replicate 64 0)).setFlag F.MTR_SNAP_STAT_SIG_DONE false
    { (s2.setFlag F.MTR_SNAP_STAT_SIG_BUSY true) with mtr := { s2.mtr with noref := false, ovld := false, jobAt := s2.sys.up } }
  | .attest _ _ _ _ :: _ =>
    ({ s with mtr := { s.mtr with jobAt := s.sys.up } }).setFlag F.MTR_SNAP_STAT_SIG_BUSY true
  | [] => s.setFlag F.MTR_SNAP_STAT_SIG_BUSY false

/-- A job for the signer, in order of arrival. -/
def State.signQueue (s : State) (j : SignJob) : State :=
  let idle := s.mtr.jobs.isEmpty
  let s1 := { s with mtr := { s.mtr with jobs := s.mtr.jobs ++ [j] } }
  s1.when idle (·.signStart)

/-- The running job has ended. -/
def State.signNext (s : State) : State := ({ s with mtr := { s.mtr with jobs := s.mtr.jobs.drop 1 } }).signStart

/-- A write of MTR_SNAP.SIGN (R384, R385). -/
def State.signWrite (s : State) : State :=
  if s.mtr.jobs.isEmpty then s.signQueue (.record false) else s.setFlag F.MTR_SNAP_STAT_SIGN_REF true

/-- The seconds counter has come to a multiple of PERIOD: once for each (R385). -/
def State.autoSnapshot (s0 : State) : State :=
  let p := s0.get F.MTR_AUTO_PERIOD
  let sec := s0.vault.sec.toNat
  let s := { s0 with mtr := { s0.mtr with autoSec := some sec } }
  if p = 0 || sec % p != 0 || s0.mtr.autoSec == some sec then s0
  else (s.when (!s.mtr.jobs.isEmpty) (·.setFlag F.MTR_SNAP_STAT_AUTO_DEF true)).signQueue (.record true)

/-- The signed record as bytes. -/
def State.sigRecord (s : State) : List Byte := wordBytes ((List.range 160).map fun i => s.rd (R.MTR_SIGREC i))

/-- "KQ768-METER" (R386). -/
def meterId : List Byte := [0x4B, 0x51, 0x37, 0x36, 0x38, 0x2D, 0x4D, 0x45, 0x54, 0x45, 0x52].map (BitVec.ofNat 8)

/-- t_SIGN in base ticks (R393). -/
def signTicks : Nat := msTicks 2

/-- The signer's signature over a message (R97), with a nonce of its own. -/
def State.signWith (s : State) (id m : List Byte) : State × List Byte :=
  (s.useFree, sm2Sign idPriv id m (scalarOf (Config.freeScalar s.free)))

/-- A record's signature is complete (R384, R385, R386): an automatic one goes to the host. -/
def State.recordSigned (s : State) (auto : Bool) : State :=
  let pr := s.signWith meterId (s.sigRecord.take 0x240)
  let s1 := (pr.1.sigWords 144 pr.2).setFlag F.MTR_SNAP_STAT_SIG_DONE true
  s1.when auto fun s =>
    if s.isPrimary then s.report Rep.energy 1 s.pos s.sigRecord else s.relay Relay.energy s.sigRecord

/-! ### The commands -/

def execMeterSample (codes : List Int) (crossing : Bool) (s : State) : Host.Outcome State Fault Refusal :=
  .next (s.live fun s => s.meterSample codes crossing)

def execNorefCycleEnd (s : State) : Host.Outcome State Fault Refusal := .next (s.live fun s => s.norefEnd)

/-- `upset`: bits that have changed in the second copy of an accumulator before this update (R381). -/
def execAccumulatorUpdate (upset : Option (Fin 64 × BitVec 64)) (s : State) : Host.Outcome State Fault Refusal :=
  .next (s.live fun s => (match upset with | some (k, b) => s.accUpset k.val b | none => s).accUpdate)

def execPulseEmit (n : Fin 4) (s : State) : Host.Outcome State Fault Refusal := .next (s.live fun s => s.pulseEmit n.val)

def execPlsPulseEnd (n : Fin 4) (s : State) : Host.Outcome State Fault Refusal := .next (s.live fun s => s.plsEnd n.val)

def execPlsConfigWrite (m : Master) (n : Fin 4) (wgt : Bool) (v : Word) (s : State) : Host.Outcome State Fault Refusal :=
  .next (s.byMaster m fun s => if s.mayClear m || m == .mtr then s.plsWrite n.val wgt v.toNat
    else s.violation m true (if wgt then R.MTR_PLSn_WGT n.val else R.MTR_PLSn_CFG n.val))

def execSnapshotTake (m : Master) (s : State) : Host.Outcome State Fault Refusal :=
  .next (s.byMaster m fun s => if s.mayClear m || m == .mtr then s.snapshot else s.violation m true R.MTR_SNAP)

def execSnapshotSign (m : Master) (s : State) : Host.Outcome State Fault Refusal :=
  .next (s.byMaster m fun s => if s.mayClear m || m == .mtr then s.signWrite else s.violation m true R.MTR_SNAP)

def execAutoSnapshot (s : State) : Host.Outcome State Fault Refusal := .next (s.live fun s => s.autoSnapshot)

end Sys2Proof.Machine
end

