-- ==== Sys2Proof/Machine/Mailbox.lean ====
section
/-! DEFINITION. Machine/Mailbox.lean: the mailbox channels (R550 to R563): rights, handshake, notices, and the transfers
across the ring.
Marked choices: log entry 44 (DEDUCED). -/
namespace Sys2Proof.Machine

/-- How an access ends: done, a bus error, or an access violation (R531). -/
inductive Ans where
  | ok | err | viol
  deriving DecidableEq, Repr

/-- Answer an accepted request of the host (R518); a session that has closed since gets nothing. -/
def State.respond (s : State) (r : Req) (status : Nat) (body : List Byte) : State :=
  s.when (s.sessOpen r.sess) fun s =>
    s.toHost (s.get (F.SUP_SESSn_STAT_SID r.sess)) r.typ true status r.seq.toNat r.node body

/-! ### Parties and state -/

/-- The ID by which a binding names a master (R550); the debug port with DBGSEL high stands for the MP (R529). -/
def State.mbxId (s : State) (m : Master) : Nat :=
  if s.asMp m then 0 else match m with | .ha => 1 | .ra => 2 | _ => 8

def State.isSender (s : State) (n : Nat) (m : Master) : Bool :=
  s.flag (F.MBX_CHn_BIND_EN n) && s.get (F.MBX_CHn_BIND_SND n) == s.mbxId m

def State.isReceiver (s : State) (n : Nat) (m : Master) : Bool :=
  s.flag (F.MBX_CHn_BIND_EN n) && s.get (F.MBX_CHn_BIND_RCV n) == s.mbxId m

/-- FULL at the start of this fabric cycle (R554). -/
def State.mbxFull (s : State) (n : Nat) : Bool :=
  match s.mbx.was.find? (fun e => e.1 == n && e.2.1 == s.fab) with
  | some e => e.2.2
  | none => s.flag (F.MBX_CHn_STAT_STATE n)

/-- Change the state of a channel at the end of this fabric cycle. -/
def State.mbxTo (s : State) (n : Nat) (full : Bool) : State :=
  let kept := s.mbx.was.filter (fun e => e.2.1 == s.fab)
  let was := if kept.any (fun e => e.1 == n) then kept else kept ++ [(n, s.fab, s.flag (F.MBX_CHn_STAT_STATE n))]
  ({ s with mbx := { s.mbx with was := was } }).setFlag (F.MBX_CHn_STAT_STATE n) full

/-- A protocol error (R554, R561). -/
def State.mbxError (s : State) (n : Nat) : State :=
  let s1 := (s.setFlag (F.MBX_CHn_STAT_PERR n) true).bump (F.MBX_CHn_STAT_PERRS n)
  if bit s1.mbx.raised n then s1
  else
    ({ s1 with mbx := { s1.mbx with raised := setBit s1.mbx.raised n true } }).raise
      { code := 0x1201, cls := 0, scope := .node, kind := 5, inst := n }

/-- Set a bit of MBX_IRQ_MP, and interrupt when it is enabled (R556). -/
def State.mbxIrq (s : State) (n : Nat) (full : Bool) : State :=
  let i := if full then n else n + 16
  let s1 := s.wrN R.MBX_IRQ_MP (setBit (s.num R.MBX_IRQ_MP) i true)
  s1.when (bit (s1.num R.MBX_IRQ_EN) i) (·.emit (.irqMbx n full))

/-- The channel becomes EMPTY and its sender is told (R556, R558). -/
def State.mbxFree (s : State) (n : Nat) : State :=
  let s1 := s.mbxTo n false
  let s2 := { s1 with mbx := { s1.mbx with goAt := Bank.upd none s1.mbx.goAt n none } }
  match s2.get (F.MBX_CHn_BIND_SND n) with
  | 0 => s2.mbxIrq n false
  | 2 => s2.bulkSend (s2.get (F.MBX_CHn_BIND_PEER n)) 3
      (leBytes 1 2 ++ leBytes 1 (s2.get (F.MBX_CHn_BIND_PCH n)) ++ leBytes 1 n ++ leBytes 1 0)
  | _ => s2

/-- LEN words of the message on a channel. -/
def State.mbxWords (s : State) (n : Nat) : List Byte :=
  wordBytes ((List.range (s.get (F.MBX_CHn_STAT_LEN n))).map fun i => s.rd (R.MBX_CHn_Di n i))

/-- Body of a RECV answer (R560). -/
def State.recvBody (s : State) (n : Nat) : List Byte := leBytes 4 (s.get (F.MBX_CHn_STAT_LEN n)) ++ s.mbxWords n

/-- The first session that waits with RECV for channel n of this node. -/
def State.recvWaiter (s : State) (n : Nat) : Option (Nat × Req) :=
  (List.range 4).findSome? fun i => match (s.sess i).recv with
    | some r => if r.node = s.pos ∧ byteAt r.body 1 = n then some (i, r) else none
    | none => none

/-- FULL: the receiver is told (R556, R557). -/
def State.mbxNotice (s : State) (n : Nat) : State :=
  match s.get (F.MBX_CHn_BIND_RCV n) with
  | 0 => s.mbxIrq n true
  | 1 => match s.recvWaiter n with
    | none => s
    | some (i, r) =>
      let body := s.recvBody n
      ((s.setSess i { s.sess i with recv := none }).mbxFree n).respond r 0 body
  | 2 =>
    let s1 := { s with mbx := { s.mbx with goAt := Bank.upd none s.mbx.goAt n (some s.scn) } }
    s1.bulkSend (s1.get (F.MBX_CHn_BIND_PEER n)) 3 (leBytes 1 1 ++ leBytes 1 (s1.get (F.MBX_CHn_BIND_PCH n)) ++
      leBytes 1 n ++ leBytes 1 (s1.get (F.MBX_CHn_STAT_LEN n)) ++ s1.mbxWords n)
  | _ => s

/-- An accepted GO (R554). -/
def State.mbxPost (s : State) (n len : Nat) : State :=
  let s1 := (s.mbxTo n true).put (F.MBX_CHn_STAT_LEN n) len
  ({ s1 with mbx := { s1.mbx with raised := setBit s1.mbx.raised n false } }).mbxNotice n

/-! ### Accesses (R553, R554) -/

/-- A write of data word i. -/
def State.mbxData (s : State) (m : Master) (n i : Nat) (v : Word) : State × Ans :=
  if !s.isSender n m then (s, .viol)
  else if s.mbxFull n then (s.mbxError n, .err)
  else (s.wr (R.MBX_CHn_Di n i) v, .ok)

/-- GO with a length. -/
def State.mbxGo (s : State) (m : Master) (n len : Nat) : State × Ans :=
  if !s.isSender n m then (s, .viol)
  else if s.mbxFull n || len == 0 || Nat.blt 16 len then (s.mbxError n, .err)
  else (s.mbxPost n len, .ok)

/-- TAKE. -/
def State.mbxTake (s : State) (m : Master) (n : Nat) : State × Ans :=
  if !s.isReceiver n m then (s, .viol)
  else if s.mbxFull n then (s.mbxFree n, .ok)
  else (s.bump (F.MBX_CHn_STAT_PERRS n), .ok)

/-- A write of MBX_CHn_CTRL. -/
def State.mbxCtrl (s : State) (m : Master) (n : Nat) (v : Nat) : State × Ans :=
  if bit v 31 && bit v 30 then (s, .viol)
  else if bit v 31 then s.mbxGo m n (bits v 0 5)
  else if bit v 30 then s.mbxTake m n
  else (s, if s.isSender n m || s.isReceiver n m then .ok else .viol)

/-! ### Across the ring (R557 to R559) -/

/-- A DELIVER arrives: accepted into the channel, or refused with a NACK. -/
def State.deliver (s : State) (src : Nat) (data : List Byte) : State :=
  let n := byteAt data 1
  let from_ := byteAt data 2
  let len := byteAt data 3
  let ok := Nat.blt n 16 && s.isSender n .ra && s.get (F.MBX_CHn_BIND_PEER n) == src &&
    s.get (F.MBX_CHn_BIND_PCH n) == from_ && !s.mbxFull n && Nat.ble 1 len && Nat.ble len 16
  if ok then
    ((forUpTo len (fun i s => s.wrN (R.MBX_CHn_Di n i) (leAt data (4 + 4 * i) 4)) s).mbxPost n len)
  else
    (s.bulkSend src 3 (leBytes 1 3 ++ leBytes 1 from_ ++ leBytes 1 n ++ leBytes 1 0)).raise
      { code := 0x1202, cls := 1, scope := .node, kind := 5, inst := n }

/-- A TAKE or a NACK arrives for a sending channel; one for a channel that is EMPTY, or that is not bound to this peer,
is discarded and counted. -/
def State.mbxReturn (s : State) (src : Nat) (data : List Byte) (nack : Bool) : State :=
  let n := byteAt data 1
  let ok := Nat.blt n 16 && s.isReceiver n .ra && s.get (F.MBX_CHn_BIND_PEER n) == src &&
    s.get (F.MBX_CHn_BIND_PCH n) == byteAt data 2 && s.mbxFull n
  if ok then (s.when nack (·.setFlag (F.MBX_CHn_STAT_NACK n) true)).mbxFree n
  else s.bumpReg R.MBX_CNT_STRAY

/-- A message on bulk stream 3. -/
def State.mbxMessage (s : State) (src : Nat) (data : List Byte) : State :=
  match byteAt data 0 with
  | 1 => s.deliver src data
  | 2 => s.mbxReturn src data false
  | 3 => s.mbxReturn src data true
  | _ => s

/-- TMO cycles after the GO of a transfer (R559). -/
def State.mbxTimeout (s : State) (n : Nat) : State :=
  match Bank.at none s.mbx.goAt n with
  | some t =>
    s.when (s.flag (F.MBX_CHn_STAT_STATE n) && Nat.ble (s.get F.MBX_CFG_TMO) (s.scn - t).toNat) fun s =>
      ((s.setFlag (F.MBX_CHn_STAT_TMO n) true).mbxFree n).raise
        { code := 0x1203, cls := 0, scope := .node, kind := 5, inst := n }
  | none => s

/-- MBX_CMD.CNT_CLR (R563). -/
def State.mbxCntClr (s : State) : State :=
  (forUpTo 16 (fun n s => s.put (F.MBX_CHn_STAT_PERRS n) 0) s).wr R.MBX_CNT_STRAY 0

/-! ### Meanings -/

/-- The answer of a bus access: kept as the last response, and shown (R531: a violation reads as done, with zero). -/
def State.answer (s : State) (a : Ans) (v : BitVec 64) : State :=
  let e := a == .err
  ({ s with sys := { s.sys with resp := some (e, v) } }).emit (.bus e v)

/-- Answer a write, with the violation counted (R531). -/
def State.wrote (r : State × Ans) (m : Master) (a : Nat) : State :=
  (r.1.when (r.2 == .viol) (·.violation m true a)).answer r.2 0

def execMbxDataWrite (m : Master) (n i : Fin 16) (v : Word) (s : State) : Host.Outcome State Fault Refusal :=
  .next (s.byMaster m fun s => State.wrote (s.mbxData m n.val i.val v) m (R.MBX_CHn_Di n.val i.val))

def execMbxGo (m : Master) (n : Fin 16) (len : BitVec 5) (s : State) : Host.Outcome State Fault Refusal :=
  .next (s.byMaster m fun s => State.wrote (s.mbxGo m n.val len.toNat) m (R.MBX_CHn_CTRL n.val))

def execMbxTake (m : Master) (n : Fin 16) (s : State) : Host.Outcome State Fault Refusal :=
  .next (s.byMaster m fun s => State.wrote (s.mbxTake m n.val) m (R.MBX_CHn_CTRL n.val))

def execDeliverReceived (src : BitVec 8) (data : List Byte) (s : State) : Host.Outcome State Fault Refusal :=
  .next (s.live fun s => s.deliver src.toNat data)

def execTakeNoticeReceived (src : BitVec 8) (data : List Byte) (s : State) : Host.Outcome State Fault Refusal :=
  .next (s.live fun s => s.mbxReturn src.toNat data false)

def execNackReceived (src : BitVec 8) (data : List Byte) (s : State) : Host.Outcome State Fault Refusal :=
  .next (s.live fun s => s.mbxReturn src.toNat data true)

def execMbxTimeout (n : Fin 16) (s : State) : Host.Outcome State Fault Refusal :=
  .next (s.live fun s => s.mbxTimeout n.val)

def execMbxCntClr (s : State) : Host.Outcome State Fault Refusal := .next (s.live fun s => s.mbxCntClr)

end Sys2Proof.Machine
end

