-- ==== Sys2Proof/Machine/Session.lean ====
section
/-! DEFINITION. Machine/Session.lean: freeing and closing the sessions of the supervisory port, and the clearing of its
counters (R523, R527, R549). -/
namespace Sys2Proof.Machine

/-- Free session n: its record and its reports go; requests of it that wait are executed but not answered. -/
def State.sessFree (s : State) (n : Nat) : State :=
  let drop := fun (r : Req) => if r.sess = n then { r with sess := 4 } else r
  let act := s.sup.active.map fun a => { a with req := drop a.req }
  let s0 := { s with sup := { s.sup with queue := s.sup.queue.map drop, active := act } }
  let s1 := s0.setSess n {}
  (s1.wr (R.SUP_SESSn_STAT n) 0).supStat

/-- The HEAD sends phase 5 and closes the session (R523, R527). -/
def State.sessClose (s : State) (n : Nat) : State :=
  let s1 := s.when (s.sessOpen n) fun s =>
    s.useFree.toHost (s.get (F.SUP_SESSn_STAT_SID n)) 7 false 0 (Config.freeSeq s.free).toNat s.pos (leBytes 4 5)
  s1.sessFree n

/-- SUP_CMD.CLOSE_ALL. -/
def State.closeAll (s : State) : State :=
  forUpTo 4 (fun n s => s.when (s.sessOpen n || s.sessHalf n) (·.sessClose n)) s

/-- SUP_CMD.CNT_CLR. -/
def State.supCntClr (s : State) : State :=
  let s1 := ((s.wr R.SUP_CNT_RX 0).wr R.SUP_CNT_TX 0).wr R.SUP_CNT_BAD 0
  let s2 := ((s1.wr R.SUP_CNT_REPLAY 0).wr R.SUP_REP_DROP 0).wr R.SUP_REP_LOST 0
  s2.wr R.SUP_CNT_PTPDROP 0

/-! ### Sending reports (R540, R541) -/

/-- The clocks run on to the next token of session n (R540). -/
def State.toToken (s : State) (n : Nat) : State :=
  let s1 := s.refill n
  let rate := s1.get F.SUP_REP_CFG_RATE
  if s1.hasToken n || rate = 0 then s1
  else (s1.runTicks ((tokenUnit - (s1.sess n).bucket + rate - 1) / rate)).refill n

/-- A token is available (R540): first the DROPPED report of R538 is formed, then the next report goes. -/
def State.transmit (s : State) (n : Nat) : State :=
  let d := s.sup
  let waits := d.drop0 + d.drop1 + d.drop2 != 0 || !(s.sess n).queue.isEmpty
  let s1 := if s.sessOpen n && waits then s.toToken n else s.refill n
  if s1.sessOpen n && s1.hasToken n then
    let d := s1.sup
    let s2 :=
      if d.drop0 + d.drop1 + d.drop2 = 0 then s1
      else
        { s1 with sup := { s1.sup with drop0 := 0, drop1 := 0, drop2 := 0 } }.report Rep.dropped 1 s1.pos
          (leBytes 4 d.drop0 ++ leBytes 4 d.drop1 ++ leBytes 4 d.drop2)
    match repNext (s2.sess n).queue with
    | some r => s2.sendReport n r
    | none => s2
  else s1

/-- 100 ms without an acknowledgement: a report of P0 or P1 is sent again, and lost after 8 repeats (R541). -/
def State.repeatReport (s : State) (n : Nat) (rseq : Word) : State :=
  match (s.sess n).wait.find? (fun r => r.rseq == rseq) with
  | none => s
  | some r =>
    let s1 := (s.runUp (r.sentAt + msTicks 100)).refill n
    if Nat.ble 9 r.sends then
      (((s1.setSess n { s1.sess n with wait := (s1.sess n).wait.filter (fun e => e.rseq != rseq) }).bumpReg
        R.SUP_REP_LOST).raise { code := 0x1105, cls := 0, scope := .node })
    else s1.when (s1.sessOpen n && s1.hasToken n) (·.sendReport n r)

/-! ### Meanings -/

def execReportTransmit (n : Fin 4) (s : State) : Host.Outcome State Fault Refusal :=
  .next (s.live fun s => s.transmit n.val)

def execReportRepeat (n : Fin 4) (rseq : Word) (s : State) : Host.Outcome State Fault Refusal :=
  .next (s.live fun s => s.repeatReport n.val rseq)

end Sys2Proof.Machine
end

