-- ==== Sys2Proof/Machine/Access.lean ====
section
/-! DEFINITION. Machine/Access.lean: accesses of the masters to the address space: sizes (R12, R564), rights (R528 to
R532), access codes and the boot lock (R10, R11, R14), ECC (R485 to R489), and what a read or a write of each register
does.
Marked choices: log entry 9 (DESIGN CHOICE); log entries 10, 11, 41, 49 (DEDUCED). -/
namespace Sys2Proof.Machine

/-! ### The address space -/

def inWindow (a : Nat) : Bool := Nat.ble 0x40000000 a && Nat.blt a 0x40130000

/-- The size and alignment an address accepts (R12, R241, R488, R564). -/
def sizeOk (a size : Nat) : Bool :=
  if inSram a then (size == 1 || size == 2 || size == 4 || size == 8) && a % size == 0 && Nat.ble (a + size) 0x21000000
  else (inWindow a || inCoeff a) && size == 4 && a % 4 == 0

/-- Window of an address (R565), 32 for the coefficient RAM and 33 for SRAM. -/
def blockOf (a : Nat) : Nat := if inSram a then 33 else if inCoeff a then 32 else (a - 0x40000000) / 0x10000

/-- Offset in its window. -/
def ofsOf (a : Nat) : Nat := a % 0x10000

/-- SRAM region of an address, 8 outside SRAM. -/
def sramRegion (a : Nat) : Nat := if inSram a then memRegion a else 8

/-- A block register serves the node's role; elsewhere it reads as zero and ignores writes (R288, R415, R426, R453). -/
def State.serves (s : State) (a : Nat) : Bool :=
  let o := ofsOf a
  match blockOf a with
  | 7 => if Nat.ble 0x800 o && Nat.blt o 0x1000 then s.role == .cell || s.role == .secondary else s.isHead
  | 12 => if o = 0x40 ∨ o = 0x44 then s.isMember else Nat.ble 0x80 o || s.isHead
  | 13 => s.isHead || !(Nat.ble 0x80 o && Nat.blt o 0xC0 || Nat.ble 0x1000 o)
  | _ => true

/-! ### Rights -/

/-- What the debug port may read with DBGSEL low (R529). -/
def dbgReads : List Nat :=
  [R.SYS_ID, R.SYS_ADDR, R.SYS_ROLE, R.SYS_RST_CAUSE, R.IMG_STAT, R.IMG_SLOT, R.IMG_EPOCH, R.IMG_OWNER_STAT, R.FLT_STAT,
   R.LNK_PORTx_STAT 0, R.LNK_PORTx_STAT 1, R.LNK_PORTx_STAT 2, R.LNK_PORTx_STAT 3]

/-- Registers only the management processor reaches (R531, R563). -/
def mpOnly (a : Nat) : Bool :=
  a == R.SYS_VIOL_CNT || a == R.SYS_VIOL_LAST || a == R.MBX_IRQ_MP || a == R.MBX_IRQ_EN

/-- Channel and offset in its window of a mailbox word (R563). -/
def mbxWord (a : Nat) : Option (Nat × Nat) :=
  let o := ofsOf a
  if blockOf a = 18 ∧ 0x100 ≤ o ∧ o < 0x900 ∧ o % 0x80 < 0x4C then some ((o - 0x100) / 0x80, o % 0x80) else none

/-- Rights to read (R528, R529, R553). -/
def State.mayRead (s : State) (m : Master) (a : Nat) : Bool :=
  let b := blockOf a
  match mbxWord a with
  | some (n, w) =>
    let party := s.isSender n m || s.isReceiver n m
    if m == .dbg && !s.sys.dbgsel then false
    else if w = 0x40 then party
    else if w = 0x44 ∨ w = 0x48 then true
    else party || s.asMp m
  | none =>
    if s.asMp m then true
    else if mpOnly a then false
    else match m with
    | .ha => true
    | .ra => true
    | .ce => b == 6 || b == 32 || sramRegion a == 2
    | .mtr => b == 11
    | .saf => b == 13
    | .dpx => b == 12 || b == 6 || b == 7 || b == 14 || sramRegion a == 2
    | .dma => b == 33
    | .dbg => dbgReads.contains a
    | .mp => true

/-- Bits of commands: W1S and WO fields (R10). -/
def cmdBits (a : Nat) : Nat :=
  let o := ofsOf a
  match blockOf a with
  | 0 => if o = 0x24 then 0xFFFF0000 else 0
  | 2 => if o = 0x28 then 0xFFFF0001 else if o = 0x30 then 7 else 0
  | 3 => if 0x100 ≤ o ∧ o < 0x600 ∧ o % 0x100 = 0 then 6 else 0
  | 4 => if o = 0x20 then 1 else if o = 0x100 then 0x80000000 else 0
  | 5 => if o = 0x14 then 0xFFFFFFFF else 0
  | 6 => if o = 4 then 1 else if o = 0x10 then 0xC0000000 else if o = 0x300 then 0x80000000 else 0
  | 7 => if o = 8 then 0x80000000 else 0
  | 8 => if o = 4 then 3 else if o = 8 then 0xFF else 0
  | 9 => if o = 0xC then 3 else 0
  | 10 => if o = 0xC then 1 else 0
  | 11 => if o = 0x10 then 3 else 0
  | 12 => if o = 0xC then 7 else 0
  | 13 => if o = 0xC then 1 else 0
  | 14 => if o = 8 then 0x8000FFFF else 0
  | 15 => if o = 0x10 then 1 else if o = 0x100 then 0xC0000000 else if o = 0x120 then 1 else 0
  | 17 => if o = 8 then 3 else 0
  | 18 => if o = 0xC then 1 else 0
  | _ => 0

/-- Bits of a register that some access code lets a master write. -/
def writable (a : Nat) : Nat :=
  match rowOf a with
  | some r => loadMask a r ||| r.w1c ||| cmdBits a
  | none => 0

/-- Registers of the host-writable set that the host writes whole (R530). -/
def hostWhole (a : Nat) : Bool :=
  let o := ofsOf a
  match blockOf a with
  | 5 => o == 0x14 || Nat.ble 0x80 o && Nat.ble o 0xC0
  | 6 => o == 0x10 || o == 0x14 || o == 0x300
  | 7 => o == 8 || o == 0xC
  | 8 => o == 8
  | 11 => o == 0x10 || o == 0x18 || Nat.ble 0x200 o && Nat.blt o 0x220
  | 12 => o == 0xC || o == 0x10
  | 14 => o == 8
  | _ => false

/-- CNT_CLR of a register (R530). -/
def cntClrBit (a : Nat) : Nat :=
  let o := ofsOf a
  match blockOf a with
  | 3 => if 0x100 ≤ o ∧ o < 0x600 ∧ o % 0x100 = 0 then 4 else 0
  | 4 => if o = 0x20 then 1 else 0
  | 6 => if o = 4 then 1 else 0
  | 8 => if o = 4 then 2 else 0
  | 9 => if o = 0xC then 1 else 0
  | 10 => if o = 0xC then 1 else 0
  | 13 => if o = 0xC then 1 else 0
  | 15 => if o = 0x10 then 1 else 0
  | 17 => if o = 8 then 1 else 0
  | 18 => if o = 0xC then 1 else 0
  | _ => 0

/-- The bits of a slot record word the host agent writes (R530): the inactive bank, the flags of STAT, and ARM. -/
def State.hostSlotBits (s : State) (a : Nat) : Nat :=
  let n := (a - 0x41000000) / 0x100
  let o := a % 0x100
  if o < 0x80 then (if o / 0x40 = s.get (F.CE_SLOTn_CFG_ACT n) then 0 else 0xFFFFFFFF)
  else if o = 0xAC then 0xDC
  else if o = 0xC0 then 0x04000000
  else 0

/-- The bits of a register the host agent writes (R530); TAMPER is the management processor's to clear (R76). -/
def hostBits (a : Nat) : Nat :=
  if mpOnly a then 0
  else match rowOf a with
  | some r => if hostWhole a then writable a else (r.w1c &&& (if a = R.SYS_VAULT_STAT then 0xFFFFFFFD else 0xFFFFFFFF)) ||| cntClrBit a
  | none => 0

/-- The bits master m may write in a word of the windows or the coefficient RAM (R528 to R530, R553); mailbox data and
control words are judged by their own rules. -/
def State.writeMask (s : State) (m : Master) (a : Nat) : Nat :=
  let b := blockOf a
  if m == .dbg && (a == R.RNG_RRA_CTRL || a == R.RNG_RRA_ADDR || b == 4 && Nat.ble 0x140 (ofsOf a) && Nat.blt (ofsOf a) 0x180)
  then 0
  else if s.asMp m then 0xFFFFFFFF
  else match mbxWord a with
  | some (n, w) => if w = 0x44 ∧ (s.isSender n m || s.isReceiver n m) then 0xFFFFFFFF else 0
  | none =>
    let host := if b = 32 then s.hostSlotBits a else hostBits a
    match m with
    | .ha => host
    | .ra => host
    | .ce => if b = 6 ∨ b = 32 then 0xFFFFFFFF else 0
    | .mtr => if b = 11 then 0xFFFFFFFF else 0
    | .saf => if b = 13 then 0xFFFFFFFF else 0
    | .dpx => if b = 12 then 0xFFFFFFFF else 0
    | _ => 0

/-- Rights to write SRAM (R528, R530). -/
def State.mayStore (s : State) (m : Master) (a : Nat) : Bool :=
  let r := sramRegion a
  s.asMp m ||
    (match m with
     | .ha => r == 3 || r == 4 || r == 5
     | .ra => r == 3 || r == 4 || r == 5
     | .ce => r == 2
     | .dpx => r == 2
     | .dma => true
     | _ => false)

/-! ### Register reads -/

/-- The elastic-buffer fill of a lane in UP (R134): 0 as the lane enters UP, where it is centred, and without spreading;
else free, −48 to +48. 0 on a lane that is not in UP. -/
def State.ebufFill (s : State) (p l k : Nat) : Nat :=
  if s.laneState p l = 6 && (l == 0 || Nat.blt p 4) && s.flag F.CLK_CTRL_SPREAD_EN && (s.lane p l).centred != s.sys.up then
    unsgn 8 (((Config.freeFill (s.free + k)).toNat % 97 : Nat) - 48) else 0

/-- A word latched with an earlier one: number of the record or entry, and its words from 1 on. -/
def latched (l : Option (Nat × List Word)) (i w : Nat) (live : Word) : Word :=
  match l with
  | some (j, ws) => if i = j then ws.getD (w - 1) live else live
  | none => live

/-- The boundary falls in the present fabric cycle or has been due since (R44). -/
def State.boundaryDue (s : State) : Bool :=
  let t := (s.tim.stime + (3 - s.sys.up % 4) * s.inc) % stimeWrap
  let now := ((t >>> 24) % 2 ^ 48 * 25) >>> 17
  s.running && Nat.blt ((now + ltimeWrap - s.tim.nextB % ltimeWrap) % ltimeWrap) (ltimeWrap / 2)

/-- A folded node whose port at the fold is UP in PAM2 serves a spur there (R117). -/
def State.servesSpur (s : State) (y : Bool) : Bool :=
  let p := outPort y (s.ringState y == RingSt.foldE)
  s.folded y && s.flag (F.LNK_PORTx_STAT_UP p) && !s.pam4 p && !(s.port p).marked && !s.flag F.IMG_STAT_STN_PB

/-- RNG_STAT as it reads: a ring folded at a port that serves a spur shows SPUR (R153; log entry 49). -/
def State.ringShown (s : State) : Word :=
  let f := fun (y : Bool) (fl : Fld) (v : Word) => if s.servesSpur y then fl.put v RingSt.spur else v
  f true F.RNG_STAT_Y_STATE (f false F.RNG_STAT_X_STATE (s.rd R.RNG_STAT))

/-- A read of a register: what it returns, and what the read does (R44, R75, R187, R210, R359, R382, R415, R463, R479). -/
def State.regRead (s : State) (a : Nat) : State × Word :=
  let o := ofsOf a
  let v := s.rd a
  match blockOf a with
  | 0 =>
    if a = R.SYS_VSEC_LO then
      (s.wrN R.SYS_VSEC_HI (s.vault.sec.toNat >>> 32), BitVec.ofNat 32 s.vault.sec.toNat)
    else (s, v)
  | 3 =>
    if 0x100 ≤ o ∧ o < 0x600 ∧ o % 0x100 = 0x1C then
      (let p := o / 0x100 - 1
       (s.useFree.useFree, BitVec.ofNat 32 (s.ebufFill p 0 0 ||| s.ebufFill p 1 1 <<< 8)))
    else (s, v)
  | 4 => (s, if a = R.RNG_STAT then s.ringShown else v)
  | 5 =>
    if a = R.TIM_STIME_NS then
      ((s.put F.TIM_STIME_FRAC_FRAC s.stime48).setFlag F.TIM_STIME_FRAC_WRAP (s.flag F.TIM_STAT_WRAP),
       BitVec.ofNat 32 s.stimeNs)
    else if a = R.TIM_SCN then (s, if s.boundaryDue then v + 1 else v)
    else if a = R.TIM_TPI_FRAC then
      ((s.setFlag F.TIM_TPI_FRAC_RDY false).setFlag F.TIM_TPI_FRAC_OVR false, v)
    else (s, v)
  | 8 =>
    if 0x400 ≤ o ∧ o < 0x600 ∧ o % 0x40 = 0x34 then (s, BitVec.ofNat 32 (s.carrierPos ((o - 0x400) / 0x40)))
    else (s, v)
  | 10 =>
    if 0x300 ≤ o ∧ o < 0x400 then
      (let m := (o - 0x300) / 0x10
       let pr := s.rawLatched m
       let x := pr.1
       let y := pr.2.1
       let z := pr.2.2
       match o % 0x10 with
       | 0 => (s.rawLatch m, v)
       | 4 => (s, x)
       | 8 => (s, y)
       | _ => (s, z))
    else (s, v)
  | 11 =>
    if 0x400 ≤ o ∧ o < 0x600 ∧ o % 8 = 0 then
      (let k := (o - 0x400) / 8
       (s.accRead k, BitVec.ofNat 32 (s.mtrAcc k).acc))
    else (s, v)
  | 12 =>
    if a = R.DPX_HEALTH 0 then
      ({ s with dpx := { s.dpx with latHealth := some ((List.range 31).map fun i => s.rd (R.DPX_HEALTH (i + 1))) } }, v)
    else if 0x84 ≤ o ∧ o < 0x100 then
      (s, match s.dpx.latHealth with | some l => l.getD ((o - 0x84) / 4) v | none => v)
    else (s, v)
  | 14 =>
    if 0x100 ≤ o ∧ o < 0x900 then
      (let r := (o - 0x100) / 0x20
       let w := (o % 0x20) / 4
       if w = 0 then
         ({ s with flt := { s.flt with latRec := some (r, (List.range 7).map fun i => s.rd (R.FLT_RECr_Ww r (i + 1))) } }, v)
       else (s, latched s.flt.latRec r w v))
    else if 0x900 ≤ o ∧ o < 0x1900 then
      (let e := (o - 0x900) / 0x40
       let w := ((o - 0x900) % 0x40) / 4
       if w = 0 then
         ({ s with flt := { s.flt with latLed := some (e, (List.range 15).map fun i => s.rd (R.FLT_LEDe_Ww e (i + 1))) } },
          v)
       else (s, latched s.flt.latLed e w v))
    else (s, v)
  | 17 =>
    (s, if a = R.SUP_MAC_LO then BitVec.ofNat 32 Config.mac.toNat
        else if a = R.SUP_MAC_HI then BitVec.ofNat 32 (Config.mac.toNat >>> 32) else v)
  | _ => (s, v)

/-! ### Register writes -/

/-- The access codes of a register applied to a write (R10, R11): RL fields keep their content once the boot lock is
set. -/
def State.codeWrite (s : State) (r : RegRow) (a mask v : Nat) : State :=
  let rw := (r.rw ||| if s.sys.bootLock then 0 else r.rl) &&& mask
  let w1c := r.w1c &&& mask
  let old := s.rd a
  let m : Word := BitVec.ofNat 32 rw
  s.wr a (((old &&& ~~~m) ||| (BitVec.ofNat 32 v &&& m)) &&& ~~~(BitVec.ofNat 32 (v &&& w1c)))

/-- What a write of a command does, by window and offset; none for a register its access codes say all of. -/
def State.cmdWrite (s : State) (m : Master) (b o v : Nat) : Option State :=
  match b with
  | 0 => if o = 0x24 then some (s.rstCtrlWrite m v) else none
  | 2 =>
    if o = 0x28 then some (s.provWrite m (BitVec.ofNat 32 v))
    else if o = 0x30 then
      some (match v % 8 with
        | 1 => s.updCmd m false (·.updErase)
        | 2 => s.updCmd m false (·.updProgram)
        | 3 => s.updCmd m false (·.updStart .verify)
        | 4 => s.updCmd m false (·.updArm)
        | 5 => s.updCmd m true (·.updAbort)
        | _ => s)
    else none
  | 3 =>
    if 0x100 ≤ o ∧ o < 0x600 ∧ o % 0x100 = 0 then
      (let p := o / 0x100 - 1
       let s1 := s.when (s.asMp m) fun s => (s.chillWrite p (bit v 0)).when (bit v 1) (·.trainWrite p)
       some (s1.when (bit v 2) (·.lnkCntClr p)))
    else none
  | 4 => if o = 0x20 then some (s.when (bit v 0) (·.rngCntClr)) else none
  | 5 =>
    if o = 0x14 then some (s.offsetWrite v)
    else if 0x80 ≤ o ∧ o < 0xC0 then
      (let n := (o - 0x80) / 0x10
       let w : Word := BitVec.ofNat 32 v
       some (match o % 0x10 with
         | 0 => s.tpoCtrl n w
         | 4 => s.tpoConfig n .start w
         | 8 => s.tpoConfig n .per w
         | _ => s.tpoConfig n .width w))
    else none
  | 6 =>
    if o = 4 then some (s.when (bit v 0) (·.ceCntClr))
    else if o = 0x10 then
      (let s1 := s.when (bit v 30) (·.swapCancel)
       some (if bit v 31 then s1.swapGo (bit v 29) else s1.setFlag F.CE_SWAP_CTRL_NEXT (bit v 29)))
    else if o = 0x300 then
      some (if bit v 31 then s.peekRequest (v % 1024) else s.put F.CE_PEEK_CTRL_SLOT v)
    else none
  | 7 => if o = 8 then some (s.balReqWrite v) else none
  | 8 =>
    if o = 4 then
      (let s1 := s.when (bit v 0) (·.rearm m)
       some (s1.when (bit v 1) (·.pwmCntClr)))
    else if o = 8 then some (s.groupClear (v % 256))
    else if 0x400 ≤ o ∧ o < 0x600 then
      (let n := (o - 0x400) / 0x40
       let w : Word := BitVec.ofNat 32 v
       match o % 0x40 with
       | 0x04 => some (s.pwmCtrlWrite n w)
       | 0x08 => some (s.shadowWrite n .per w)
       | 0x0C => some (s.shadowWrite n .duty w)
       | 0x10 => some (s.shadowWrite n .dfrac w)
       | 0x14 => some (s.shadowWrite n .ph w)
       | 0x18 => some (s.shadowWrite n .pfrac w)
       | 0x1C => some (s.shadowWrite n .cmp0 w)
       | _ => none)
    else none
  | 9 =>
    if o = 0xC then some ((s.when (bit v 0) (·.gdCntClr)).when (bit v 1) (·.injNow)) else none
  | 10 =>
    if o = 4 then some (s.lpWrite (v % 4))
    else if o = 0xC then some (s.when (bit v 0) (·.adcCntClr))
    else if 0x100 ≤ o ∧ o < 0x300 ∧ o % 0x20 = 4 then some (s.chWrite ((o - 0x100) / 0x20) (v % 32))
    else none
  | 11 =>
    if o = 0x10 then
      some (if bit v 1 && (s.mtr.jobs.isEmpty || !bit v 0) then s.signWrite
        else if bit v 0 then s.snapshot.when (bit v 1) (·.signWrite) else s)
    else if 0x200 ≤ o ∧ o < 0x220 then some (s.plsWrite ((o - 0x200) / 8) (o % 8 == 4) v)
    else none
  | 12 =>
    if o = 0xC then
      (let s1 := s.when (bit v 0) (·.swapRequest)
       some ((s1.when (bit v 1) (·.swapCancelDpx)).when (bit v 2) (·.dpxCntClr)))
    else none
  | 13 => if o = 0xC then some (s.when (bit v 0) (·.safCntClr)) else none
  | 14 => if o = 8 then some (if bit v 31 then s.stationClear else s.recordClear (v % 65536)) else none
  | 15 =>
    if o = 0x10 then some (s.when (bit v 0) (·.memCntClr))
    else if o = 0x100 then
      (let s1 := s.when (s.asMp m) (·.put F.MEM_SCRUB_CTRL_RATE v)
       let s2 := s1.when (bit v 30 && s.asMp m) (·.scrubAbort)
       some (s2.when (bit v 31) (·.scrubGo (s.asMp m))))
    else if o = 0x120 then some (s.memRepair (s.asMp m) v)
    else none
  | 16 => if o = 0xC then some (s.logSel (v % 256)) else none
  | 17 =>
    if o = 8 then
      (let s1 := s.when (bit v 0) (·.supCntClr)
       some (s1.when (bit v 1) (·.closeAll)))
    else none
  | 18 => if o = 0xC then some (s.when (bit v 0) (·.mbxCntClr)) else none
  | _ => none

/-- A write of a register by a master that may write the bits of `mask` (R10, R11, R531). -/
def State.regWrite (s : State) (m by_ : Master) (r : RegRow) (a mask v : Nat) : State :=
  let s1 := s.when (s.sys.bootLock && ((s.num a ^^^ v) &&& r.rl &&& mask) != 0) (·.violation by_ true a)
  match s1.cmdWrite m (blockOf a) (ofsOf a) (v &&& (mask ||| (s1.num a &&& r.rw))) with
  | some s2 => s2
  | none => (s1.codeWrite r a mask v).ckoLoaded a

/-! ### Accesses -/

/-- A master touches an address: `m` has the rights, and `by_` is the master a violation names (R531, R532). -/
def State.readAccess (s : State) (m by_ : Master) (a size : Nat) (e : Ecc) :
    State × Ans × Nat :=
  if !sizeOk a size then (s, .err, 0)
  else if inCoeff a && rowOf a == none then (s, .ok, 0)
  else if inSram a || inCoeff a then
    if !s.mayRead m a then (s.violation by_ false a, .viol, 0)
    else
      let pr := s.eccRead (eccWord a) e
      let s1 := pr.1
      let bad := pr.2
      if bad then (s1, .err, 0)
      else (s1, .ok, if inSram a then s1.loadLe a size else s1.num a)
  else if rowOf a == none then (s, .ok, 0)
  else if !s.mayRead m a then (s.violation by_ false a, .viol, 0)
  else if !s.serves a then (s, .ok, 0)
  else
    let pr := s.regRead a
    let s1 := pr.1
    let v := pr.2
    (s1, .ok, v.toNat)

/-- A field outside a master's rights must carry zero or its content for the write to lie within them (R530, R531). -/
def State.writesWithin (s : State) (a mask v : Nat) : Bool :=
  let out := writable a
  mask != 0 && (List.range 32).all fun i => !bit v i || !bit out i || bit mask i || bit (s.num a) i

def State.writeAccess (s : State) (m by_ : Master) (a size v : Nat) (e : Ecc) : State × Ans :=
  let viol := fun (s : State) => (s.violation by_ true a, Ans.viol)
  if !sizeOk a size then (s, .err)
  else if inSram a then
    if !s.mayStore m a then viol s
    else if size = 8 then ((s.eccClear a).storeLe a 8 v, .ok)
    else
      let pr := s.eccMerge (eccWord a) e
      let s1 := pr.1
      let bad := pr.2
      if bad then (s1, .err) else (s1.storeLe a size v, .ok)
  else if inCoeff a && rowOf a == none then (s, .ok)
  else if inCoeff a then
    let mask := s.writeMask m a
    if !s.writesWithin a mask v then viol s
    else
      let pr := s.eccMerge (eccWord a) e
      let s1 := pr.1
      let bad := pr.2
      let n := (a - 0x41000000) / 0x100
      let w := a % 0x100 / 4
      let x : Word := if mask = 0x04000000 then (s1.rd a &&& 0xFBFFFFFF) ||| (BitVec.ofNat 32 v &&& 0x04000000)
                      else BitVec.ofNat 32 v
      if bad then (s1, .err) else (s1.slotWrite n w x, .ok)
  else match mbxWord a with
  | some (n, w) =>
    if w < 0x40 then
      (match s.mbxData m n (w / 4) (BitVec.ofNat 32 v) with
       | (s1, .viol) => viol s1
       | r => r)
    else if w = 0x40 then
      (match s.mbxCtrl m n v with
       | (s1, .viol) => viol s1
       | r => r)
    else match rowOf a with
      | none => (s, .ok)
      | some r =>
        let mask := s.writeMask m a
        if mask = 0 then viol s else (s.regWrite m by_ r a mask v, .ok)
  | none => match rowOf a with
    | none => (s, .ok)
    | some r =>
      if a = R.SYS_RST_CTRL then (s.rstCtrlWrite m v, .ok)
      else
        let mask := s.writeMask m a
        if a = R.IMG_PROV && m != .dbg then viol s
        else if a = R.MEM_SCRUB_CTRL && !s.asMp m && bit v 31 then viol (s.scrubGo false)
        else if a = R.MEM_REPAIR && !s.asMp m && bit v 0 then viol (s.memRepair false v)
        else if a = R.PWM_CMD && !s.asMp m && bit v 0 then viol (s.setFlag F.PWM_STAT_REARM_REF true)
        else if !s.writesWithin a mask v then viol s
        else if !s.serves a then (s, .ok)
        else (s.regWrite m by_ r a mask v, .ok)

/-- A read on the bus, answered. -/
def State.busRead (s : State) (m : Master) (a size : Nat) (e : Ecc) : State :=
  let pr := s.readAccess m m a size e
  let s1 := pr.1
  let r := pr.2.1
  let v := pr.2.2
  s1.answer r (BitVec.ofNat 64 v)

/-! ### Meanings -/

def execCoeffRamWrite (m : Master) (slot : Fin 768) (word : Fin 64) (v : Word) (ecc : Ecc) (s : State) :
    Host.Outcome State Fault Refusal :=
  .next (s.byMaster m fun s =>
    let pr := s.writeAccess m m (0x41000000 + 0x100 * slot.val + 4 * word.val) 4 v.toNat ecc
    let s1 := pr.1
    let r := pr.2
    s1.answer r 0)

def execSramAccess (m : Master) (write : Bool) (addr : Word) (size : Fin 9) (v : BitVec 64) (ecc : Ecc) (s : State) :
    Host.Outcome State Fault Refusal :=
  .next (s.byMaster m fun s => s.when (inSram addr.toNat) fun s =>
    if write then
      let pr := s.writeAccess m m addr.toNat size.val (v.toNat % 2 ^ (8 * size.val)) ecc
      let s1 := pr.1
      let r := pr.2
      s1.answer r 0
    else s.busRead m addr.toNat size.val ecc)

def execRegisterRead (m : Master) (addr : Word) (size : Fin 9) (ecc : Ecc) (s : State) :
    Host.Outcome State Fault Refusal :=
  .next (s.byMaster m fun s => s.when (!inSram addr.toNat) (·.busRead m addr.toNat size.val ecc))

def execSysVsecLoRead (m : Master) (s : State) : Host.Outcome State Fault Refusal :=
  .next (s.byMaster m (·.busRead m R.SYS_VSEC_LO 4 .clean))

def execStimeNsRead (m : Master) (s : State) : Host.Outcome State Fault Refusal :=
  .next (s.byMaster m (·.busRead m R.TIM_STIME_NS 4 .clean))

def execTpiFracRead (m : Master) (s : State) : Host.Outcome State Fault Refusal :=
  .next (s.byMaster m (·.busRead m R.TIM_TPI_FRAC 4 .clean))

def execResRawRead (m : Master) (slot : Fin 16) (s : State) : Host.Outcome State Fault Refusal :=
  .next (s.byMaster m (·.busRead m (R.ADC_RESm_RAW slot.val) 4 .clean))

/-- `upset`: bits that have changed in the second copy of the accumulator before this read (R381). -/
def execAccLoRead (m : Master) (k : Fin 64) (upset : BitVec 64) (s : State) : Host.Outcome State Fault Refusal :=
  .next (s.byMaster m fun s =>
    (s.accUpset k.val upset).busRead m (R.MTR_ACCk_LO k.val) 4 .clean)

def execHealth0Read (m : Master) (s : State) : Host.Outcome State Fault Refusal :=
  .next (s.byMaster m (·.busRead m (R.DPX_HEALTH 0) 4 .clean))

def execRecordRead (m : Master) (r : Fin 64) (s : State) : Host.Outcome State Fault Refusal :=
  .next (s.byMaster m (·.busRead m (R.FLT_RECr_Ww r.val 0) 4 .clean))

def execLedgerRead (m : Master) (e : Fin 64) (s : State) : Host.Outcome State Fault Refusal :=
  .next (s.byMaster m (·.busRead m (R.FLT_LEDe_Ww e.val 0) 4 .clean))

end Sys2Proof.Machine
end

