-- ==== Sys2Proof/Machine/Supervisory.lean ====
section
/-! DEFINITION. Machine/Supervisory.lean: the supervisory port of a HEAD (R512 to R549): datagrams, sessions, the request
queue, and the requests of the host, local and by remote access.
Marked choices: log entries 34, 42, 43, 44 (DEDUCED); log entry 47 (PRESUMED); log entries 55, 62, 66 (DESIGN CHOICE). -/
namespace Sys2Proof.Machine

/-! ### Datagrams (R514, R515) -/

namespace Status
def ok : Nat := 0
def busErr : Nat := 1
def noResponse : Nat := 2
def notInService : Nat := 3
def badRequest : Nat := 4
def notPrimary : Nat := 5
def denied : Nat := 6
def busy : Nat := 7
def replay : Nat := 8
def refused : Nat := 9
end Status

def dgTyp (d : Datagram) : Nat := byteAt d.head 1
def dgFlags (d : Datagram) : Nat := byteAt d.head 2
def dgSeq (d : Datagram) : Word := BitVec.ofNat 32 (leAt d.head 4 4)
def dgNode (d : Datagram) : Nat := byteAt d.head 8
def dgSid (d : Datagram) : Nat := leAt d.head 12 2
/-- OP, or the phase of a SESS message: byte 0 of the body. -/
def dgOp (d : Datagram) : Nat := byteAt d.body 0

/-- The header passes the checks of R515 that need no session; the datagram's length matches LEN and its MAC. -/
def dgHeadOk (d : Datagram) : Bool :=
  let len := leAt d.head 10 2
  d.head.length == 16 && d.mac.length == (if dgSid d = 0 then 0 else 16) && len == d.body.length && Nat.ble len 1400 && byteAt d.head 0 == 1 && leAt d.head 14 2 == crc16 (d.head.take 14) &&
    Nat.ble 1 (dgTyp d) && Nat.ble (dgTyp d) 8

/-- The port runs and its link is up. -/
def State.portUp (s : State) : Bool := s.supRuns && s.flag F.SUP_STAT_LINK

/-- One second in base ticks. -/
def secondTicks : Nat := 1562500000

/-- A datagram is dropped (R515, R547). -/
def State.dropDatagram (s : State) : State :=
  let s1 := s.bumpReg R.SUP_CNT_BAD
  let first := match s1.sup.badAt with | some t => Nat.ble (t + secondTicks) s1.sys.up | none => true
  if first then
    ({ s1 with sup := { s1.sup with badAt := some s1.sys.up } }).raise { code := 0x1102, cls := 0, scope := .node }
  else s1

/-- The session a SID names: open, or half-open for SESS (R515, R523). -/
def State.sessOf (s : State) (d : Datagram) : Option Nat :=
  if (dgSid d) = 0 then none
  else (List.range 4).find? fun n =>
    s.get (F.SUP_SESSn_STAT_SID n) == (dgSid d) && (s.sessOpen n || s.sessHalf n && (dgTyp d) == 7)

/-- The session whose message passes every check of R515. -/
def State.sender (s : State) (d : Datagram) : Option Nat :=
  if (dgHeadOk d) then
    match s.sessOf d with
    | some n =>
      if d.mac == macOf ((s.sess n).key 0) d.head d.body && bit (dgFlags d) 1 == s.flag (F.SUP_SESSn_STAT_ENC n) then some n
      else none
    | none => none
  else none

/-- A datagram with its body decrypted as its session says (R525). -/
def State.plain (s : State) (d : Datagram) : Datagram :=
  match s.sender d with
  | some n =>
    if s.flag (F.SUP_SESSn_STAT_ENC n) then
      { d with body := sm4Body ((s.sess n).key 2) (dgSid d) (dgTyp d) (dgFlags d) (leAt d.head 4 4) d.body }
    else d
  | none => d

/-- A valid message of a session (R513, R527). -/
def State.heard (s : State) (n : Nat) (d : Datagram) : State :=
  s.setSess n { s.sess n with seen := s.sys.up, addr := d.src }

def State.countRx (s : State) : State := s.wr R.SUP_CNT_RX (s.rd R.SUP_CNT_RX + 1)

/-! ### Sessions (R522 to R527) -/

/-- A host key; role 0 where none lies (R522). -/
def State.hostKey (s : State) (k : Nat) : Nat × Nat × BitVec 512 :=
  (s.img.image.hostKeys.find? fun e => e.1 == k).getD (k, 0, 0)

def State.keyRole (s : State) (k : Nat) : Nat := (s.hostKey k).2.1

/-- The public key x and y of a host key (R522). -/
def State.keyPub (s : State) (k : Nat) : Nat × Nat :=
  let v := (s.hostKey k).2.2.toNat
  (v >>> 256, v % 2 ^ 256)

def State.sessUsed (s : State) : Nat :=
  (List.range 4).foldl (fun m n => m + b2n (s.sessOpen n || s.sessHalf n)) 0

/-- A new SID: neither 0 nor in use (R514, R523). -/
def State.newSid (s : State) : Nat :=
  let base := (Config.freeSid s.free).toNat
  let used := fun (v : Nat) => v == 0 || (List.range 4).any fun n => s.get (F.SUP_SESSn_STAT_SID n) == v
  (((List.range 6).map fun k => (base + k) % 65536).find? fun v => !used v).getD 1

/-- The identity certificate (R524). -/
def identityCert : List Byte :=
  leBytes 4 0x4449514B ++ leBytes 2 1 ++ leBytes 2 0 ++ leBytes 8 Config.devId.toNat ++ beBytes 32 idPub.1 ++
    beBytes 32 idPub.2 ++ leBytes 64 Config.idSig.toNat

/-- "KQ768-HOST" and "KQ768-NODE" (R524). -/
def hostId : List Byte := [0x4B, 0x51, 0x37, 0x36, 0x38, 0x2D, 0x48, 0x4F, 0x53, 0x54].map (BitVec.ofNat 8)
def nodeId : List Byte := [0x4B, 0x51, 0x37, 0x36, 0x38, 0x2D, 0x4E, 0x4F, 0x44, 0x45].map (BitVec.ofNat 8)

/-- R_A of a phase 1 body: x then y. -/
def hostEph (b : List Byte) : Nat × Nat := (beNat ((b.drop 8).take 32), beNat ((b.drop 40).take 32))

/-- Refuse phase 1, with SID 0 (R523, R547). -/
def State.refuse1 (s : State) (d : Datagram) (status : Nat) : State :=
  (s.toHost 0 7 true status (dgSeq d).toNat (dgNode d) [] d.src).raise { code := 0x1103, cls := 0, scope := .node }

/-- Phase 1 arrives (R523, R524): the HEAD draws its ephemeral key and derives the session's keys and confirmations. -/
def State.phase1 (s : State) (d : Datagram) : State :=
  if !s.portUp || (dgTyp d) != 7 || (dgSid d) != 0 then s
  else if !(dgHeadOk d) || (dgOp d) != 1 || bit (dgFlags d) 1 then s.dropDatagram
  else
    let s := s.countRx
    let key := byteAt d.body 1
    let enc := bit (byteAt d.body 2) 0
    if d.body.length != 72 then s.refuse1 d Status.badRequest
    else
      let ra := hostEph d.body
      let pub := s.keyPub key
      let r := scalarOf (Config.freeScalar s.free)
      if s.keyRole key = 0 || !sm2KeyOk ra.1 ra.2 || s.flag F.SUP_SESS_CFG_ENC_REQ && !enc then s.refuse1 d Status.denied
      else match sm2Respond hostId nodeId pub.1 pub.2 ra.1 ra.2 r with
      | none => s.refuse1 d Status.denied
      | some k =>
      match (List.range 4).find? fun n => !(s.sessOpen n || s.sessHalf n) with
      | none => s.refuse1 d Status.busy
      | some n =>
        if Nat.ble (s.get F.SUP_SESS_CFG_MAX) s.sessUsed then s.refuse1 d Status.busy
        else
          let sid := s.newSid
          let s1 := ((s.wr (R.SUP_SESSn_STAT n) 0).setFlag (F.SUP_SESSn_STAT_HALF n) true).put (F.SUP_SESSn_STAT_KEY n) key
          let s2 := (s1.put (F.SUP_SESSn_STAT_ROLE n) (s.keyRole key)).put (F.SUP_SESSn_STAT_SID n) sid
          let sub : Word := BitVec.ofNat 32 (leAt d.body 4 4)
          let s3 := s2.setSess n { sub := sub, enc := enc, seen := s2.sys.up, addr := d.src, keys := k.keys, sa := k.sa }
          let rb := sm2Base r
          let body := leBytes 4 2 ++ identityCert ++ beBytes 32 rb.1 ++ beBytes 32 rb.2 ++ k.sb
          s3.useFree.toHost sid 7 true 0 (dgSeq d).toNat (dgNode d) body

/-- Phase 3 arrives (R523): the session opens with a full bucket when S_A verifies, or is freed. It counts as a request
(R526). -/
def State.phase3 (s : State) (m : Datagram) : State :=
  let d := s.plain m
  if !s.portUp || (dgTyp d) != 7 || (dgSid d) = 0 || (dgOp d) != 3 then s
  else match s.sender m with
  | none => s.dropDatagram
  | some n =>
    let s0 := s.heard n d
    let saOk := d.body.drop 4 == (s0.sess n).sa
    let last := (s0.sess n).lastSeq
    let s1 := s0.countRx
    if s0.sessOpen n && dgSeq d == last then s0.toHost (dgSid d) 7 true Status.replay (dgSeq d).toNat (dgNode d) []
    else if s0.sessOpen n && !scnLater (dgSeq d) last then s0.bumpReg R.SUP_CNT_REPLAY
    else if d.body.length = 36 && saOk then
      let s2 := (s1.setFlag (F.SUP_SESSn_STAT_HALF n) false).setFlag (F.SUP_SESSn_STAT_OPEN n) true
      let ss := s2.sess n
      let fresh := s1.sessHalf n
      let s3 := s2.setSess n { ss with
        lastSeq := (dgSeq d)
        bucket := if fresh then s2.get F.SUP_REP_CFG_BURST * tokenUnit else ss.bucket
        bucketAt := if fresh then s2.sys.up else ss.bucketAt }
      ((s3.toHost (dgSid d) 7 true 0 (dgSeq d).toNat (dgNode d) []).setFlag (F.SUP_SESSn_STAT_ENC n) ss.enc).supStat
    else
      ((s1.toHost (dgSid d) 7 true Status.denied (dgSeq d).toNat (dgNode d) []).sessFree n).raise
        { code := 0x1103, cls := 0, scope := .node }

/-- Phase 5 of the host arrives (R523). -/
def State.phase5 (s : State) (m : Datagram) : State :=
  let d := s.plain m
  if !s.portUp || (dgTyp d) != 7 || (dgSid d) = 0 || (dgOp d) != 5 then s
  else match s.sender m with
  | none => s.dropDatagram
  | some n =>
    let s1 := s.heard n d
    if s1.sessHalf n || scnLater (dgSeq d) (s1.sess n).lastSeq then s1.countRx.sessFree n
    else s1.when ((dgSeq d) != (s1.sess n).lastSeq) (·.bumpReg R.SUP_CNT_REPLAY)

/-! ### Answers -/

/-- Answer the request that executes: it is done. -/
def State.reqEnd (s : State) (r : Req) (status : Nat) (body : List Byte) : State :=
  ({ s with sup := { s.sup with active := none } }).respond r status body

/-- The body of a READ or WRITE answer begins with DONE for STATUS 0 to 3 and 5; any other answer that is not OK has no
body (R518, R533). -/
def errBody (r : Req) (status done : Nat) (ws : List Word) : List Byte :=
  if (r.typ = 1 ∨ r.typ = 2) ∧ (status ≤ 3 ∨ status = 5) then
    leBytes 4 done ++ (if r.typ = 1 then wordBytes ws else [])
  else []

def State.reqFail (s : State) (r : Req) (status : Nat) (done : Nat := 0) (ws : List Word := []) : State :=
  s.reqEnd r status (errBody r status done ws)

/-- The HEAD has left PRIMARY during the request: it ends with NOT_PRIMARY (R520). -/
def State.leftPrimary (s : State) (r : Req) : Bool := !s.isPrimary && (r.typ == 3 || r.node != s.pos)

/-- Does this HEAD serve the request (R519)? A BATCH belongs to the primary. -/
def State.servesReq (s : State) (r : Req) : Bool := s.isPrimary || r.typ != 3 && r.node == s.pos

/-- CSEQ counts the executed WRITE, BATCH and MBX requests (R537). -/
def State.countReq (s : State) : State := s.wr R.SUP_CSEQ (s.rd R.SUP_CSEQ + 1)

/-- The request starts executing and waits for what other nodes or the signer bring. -/
def State.setActive (s : State) (a : Option Active) : State := { s with sup := { s.sup with active := a } }

/-- The start of a request that waits for others. -/
def State.begun (s : State) (r : Req) (steps : List HostStep := []) : State :=
  s.setActive (some { req := r, steps := steps, scn := s.scn, at_ := s.sys.up })

/-- At least 16 cycles have begun since SCN n (R178, R536, R546). -/
def State.cycles16 (s : State) (n : Word) : Bool := Nat.ble 16 (s.scn - n).toNat

/-! ### Accesses of the ring agent (R177, R532) -/

/-- Reads of consecutive words with the host agent's rights: the words read, up to the first bus error. -/
def State.readWords (s : State) (by_ : Master) : Nat → Nat → State × List Word × Bool
  | 0, _ => (s, [], false)
  | n + 1, a =>
    match s.readAccess .ha by_ a 4 .clean with
    | (s1, .err, _) => (s1, [], true)
    | (s1, _, v) =>
      let pr := State.readWords s1 by_ n (a + 4)
      let s2 := pr.1
      let l := pr.2.1
      let e := pr.2.2
      (s2, BitVec.ofNat 32 v :: l, e)

/-- Writes of consecutive words with the host agent's rights: how many were done, and whether a bus error ended them. -/
def State.writeWords (s : State) (by_ : Master) : List Word → Nat → State × Nat × Bool
  | [], _ => (s, 0, false)
  | w :: t, a =>
    match s.writeAccess .ha by_ a 4 w.toNat .clean with
    | (s1, .err) => (s1, 0, true)
    | (s1, _) =>
      let pr := State.writeWords s1 by_ t (a + 4)
      let s2 := pr.1
      let n := pr.2.1
      let e := pr.2.2
      (s2, n + 1, e)

/-- A remote request on stream 2 (R177; its layout is log entry 66): OP 1 read or 2 write, COUNT, the originating master,
a tag that the answer repeats, ADDR, words. -/
def State.sendRra (s : State) (node master tag : Nat) (st : HostStep) : State :=
  match st with
  | .rd a n => s.bulkSend node 2 (leBytes 1 1 ++ leBytes 1 n ++ leBytes 1 master ++ leBytes 1 tag ++ leBytes 4 a)
  | .wr a ws =>
    s.bulkSend node 2 (leBytes 1 2 ++ leBytes 1 ws.length ++ leBytes 1 master ++ leBytes 1 tag ++ leBytes 4 a ++
      wordBytes ws)

/-- The remote requests of a read, 16 words each (R535). -/
def readSteps : Nat → Nat → Nat → List HostStep
  | 0, _, _ => []
  | k + 1, a, n => if n ≤ 16 then [.rd a n] else .rd a 16 :: readSteps k (a + 64) (n - 16)

def writeSteps : Nat → Nat → List Word → List HostStep
  | 0, _, _ => []
  | k + 1, a, ws => if ws.length ≤ 16 then [.wr a ws] else .wr a (ws.take 16) :: writeSteps k (a + 64) (ws.drop 16)

/-- RNG_RRA_STAT.ERR as STATUS (R535). -/
def rraStatus (err : Nat) : Nat := if err = 1 then 2 else if err = 2 then 3 else 1

/-! ### READ and WRITE (R533 to R535) -/

/-- READ and WRITE bodies are well formed (R533). -/
def rwOk (r : Req) : Bool :=
  let n := leAt r.body 4 2
  r.node != 0xFF && leAt r.body 0 4 % 4 == 0 && Nat.ble 1 n && Nat.ble n 256 && leAt r.body 6 2 == 0 &&
    r.body.length == (if r.typ = 1 then 8 else 8 + 4 * n)

/-- An ATOM range lies within the accumulators or within the snapshot (R534). -/
def atomOk (a n : Nat) : Bool :=
  Nat.ble (R.MTR_ACCk_LO 0) a && Nat.ble (a + 4 * n) (R.MTR_ACCk_LO 64) ||
    Nat.ble (R.MTR_SNPk_LO 0) a && Nat.ble (a + 4 * n) (R.MTR_SNPk_LO 64)

/-- The answer of an ATOM read: STIME, two zero bytes, SCN, and the words as they stand in this fabric cycle. -/
def State.atomCopy (s : State) (a n : Nat) : List Byte :=
  let word := fun (i : Nat) =>
    let x := a + 4 * i
    if x < R.MTR_ACCk_LO 64 then
      (let v := (s.mtrAcc ((x - R.MTR_ACCk_LO 0) / 8)).acc
       (BitVec.ofNat 32 (if x % 8 = 0 then v else v >>> 32) : Word))
    else s.rd x
  leBytes 6 s.stime48 ++ leBytes 2 0 ++ leBytes 4 s.scn.toNat ++ wordBytes ((List.range n).map word)

/-! ### Starting a request -/

/-- Issue the next remote access of the executing request; a HEAD that has left PRIMARY issues no further one (R520). -/
def State.issue (s : State) : State :=
  match s.sup.active with
  | none => s
  | some a =>
    if !s.isPrimary then s.reqFail a.req Status.notPrimary a.done a.data
    else match a.steps with
      | [] => s
      | st :: _ =>
        let p : RraPend := match st with
          | .rd x n => ⟨a.req.node, false, n, x, s.scn⟩
          | .wr x ws => ⟨a.req.node, true, ws.length, x, s.scn⟩
        ({ s with rng := { s.rng with rraHost := some p } }).sendRra a.req.node 1 1 st

/-- Start a request by remote access. -/
def State.goRemote (s : State) (r : Req) (steps : List HostStep) : State :=
  (s.begun r steps).issue

def State.startRead (s : State) (r : Req) : State :=
  let a := leAt r.body 0 4
  let n := leAt r.body 4 2
  if !rwOk r || r.atom && !atomOk a n then s.reqFail r Status.badRequest
  else if r.node = s.pos then
    if !s.running then s.reqFail r Status.notInService
    else if r.atom then s.accCheck.reqEnd r 0 (leBytes 4 n ++ s.atomCopy a n)
    else
      let pr := s.readWords .ha n a
      let s1 := pr.1
      let ws := pr.2.1
      let e := pr.2.2
      s1.reqFail r (b2n e) ws.length ws
  else if r.atom then
    (s.begun r).relayTo r.node Relay.atomRead (leBytes 4 a ++ leBytes 4 n)
  else s.goRemote r (readSteps 16 a n)

def State.startWrite (s : State) (r : Req) : State :=
  let a := leAt r.body 0 4
  let n := leAt r.body 4 2
  if !rwOk r then s.reqFail r Status.badRequest
  else
    let ws := bytesWords r.body 8 n
    if r.node = s.pos then
      if !s.running then s.reqFail r Status.notInService
      else
        let pr := s.countReq.writeWords .ha ws a
        let s1 := pr.1
        let done := pr.2.1
        let e := pr.2.2
        s1.reqFail r (b2n e) done
    else s.countReq.goRemote r (writeSteps 16 a ws)

/-! ### The PTP recogniser (R512, R513, R542, R543) -/

/-- Two bytes of a frame, the first most significant. -/
def be16 (b : List Byte) (i : Nat) : Nat := 256 * byteAt b i + byteAt b (i + 1)

/-- A field of n bytes of a frame, the first most significant. -/
def beField (b : List Byte) (i n : Nat) : Nat := beNat ((b.drop i).take n)

/-- The port's link-local address: its MAC address as a modified EUI-64 (R513). -/
def linkLocal : Nat :=
  let m := Config.mac.toNat
  0xFE80 * 2 ^ 112 + (((m >>> 24) ^^^ 0x020000) * 2 ^ 40 + 0xFFFE * 2 ^ 24 + m % 2 ^ 24)

/-- The port's IPv6 address, SUP_IP6_0 most significant (R513). -/
def State.ip6 (s : State) : Nat := (List.range 4).foldl (fun n k => n * 2 ^ 32 + s.num (R.SUP_IP6m k)) 0

/-- An address of the port (R513). -/
def State.ownIp (s : State) (v6 : Bool) (a : Nat) : Bool :=
  if v6 then a == linkLocal || s.flag F.SUP_IP6_CFG_EN && a == s.ip6
  else s.flag F.SUP_IP4_CFG_EN && a == s.num R.SUP_IP4

/-- The PTP multicast addresses of IPv4 and IPv6 (IEEE 1588, log entry 47). -/
def ptpGroup (v6 : Bool) (a : Nat) : Bool :=
  if v6 then a >>> 120 == 0xFF && (a % 2 ^ 112 == 0x181 || a % 2 ^ 112 == 0x6B)
  else a == 0xE0000181 || a == 0xE000006B

/-- Where the Ethertype of a frame lies: behind the tag of R512 when SUP_VLAN asks for one. -/
def State.typeAt (s : State) (f : List Byte) : Option Nat :=
  let tagged := be16 f 12 == 0x8100
  if s.flag F.SUP_VLAN_EN then
    (if tagged && be16 f 14 % 4096 == s.get F.SUP_VLAN_VID && Nat.ble f.length 1518 then some 16 else none)
  else if tagged || Nat.blt 1514 f.length then none
  else some 12

/-- A PTP frame (R542): whether it is an event message, and its UDP addresses; none where it is no PTP frame. -/
def State.ptpKind (s : State) (f : List Byte) : Option (Bool × Option (Bool × Nat × Nat)) :=
  match s.typeAt f with
  | none => none
  | some o =>
    let event := fun (i : Nat) => Nat.blt (byteAt f i % 16) 4
    let ports := fun (i : Nat) => be16 f i == 319 || be16 f i == 320
    match be16 f o with
    | 0x88F7 => some (event (o + 2), none)
    | 0x0800 =>
      if byteAt f (o + 2) = 0x45 ∧ be16 f (o + 8) % 0x4000 = 0 ∧ byteAt f (o + 11) = 17 ∧ ports (o + 24) then
        some (event (o + 30), some (false, beField f (o + 14) 4, beField f (o + 18) 4))
      else none
    | 0x86DD =>
      if byteAt f (o + 8) = 17 ∧ ports (o + 44) then
        some (event (o + 50), some (true, beField f (o + 10) 16, beField f (o + 26) 16))
      else none
    | _ => none

/-- A received frame (R542): over UDP it must come to an address of the port or to a PTP group. -/
def State.ptpRx (s : State) (f : List Byte) : Option Bool :=
  match s.ptpKind f with
  | some (e, none) => some e
  | some (e, some (v6, _, dst)) => if s.ownIp v6 dst || ptpGroup v6 dst then some e else none
  | none => none

/-- A frame to send (R543): it carries the port's own source addresses. -/
def State.ptpTx (s : State) (f : List Byte) : Option Bool :=
  if beField f 6 6 != Config.mac.toNat then none
  else match s.ptpKind f with
  | some (e, none) => some e
  | some (e, some (v6, src, _)) => if s.ownIp v6 src then some e else none
  | none => none

/-! ### TIME (R542, R543) -/

def State.startTime (s : State) (r : Req) : State :=
  if r.node != s.pos then s.reqFail r Status.badRequest
  else match byteAt r.body 0 with
  | 0 =>
    s.reqEnd r 0 (leBytes 4 0 ++ leBytes 6 s.stime48 ++ leBytes 2 0 ++ leBytes 4 s.scn.toNat ++
      leBytes 4 (s.num R.TIM_STAT))
  | 2 =>
    let n := leAt r.body 4 2
    match s.ptpTx (r.body.drop 8) with
    | none => s.reqFail r Status.badRequest
    | some event =>
      if r.body.length != 8 + n then s.reqFail r Status.badRequest
      else
        (s.emit (.ptp (r.body.drop 8))).reqEnd r 0 (leBytes 4 2 ++ leBytes 6 (if event then s.stime48 else 0) ++
          leBytes 2 (b2n event) ++ (r.body.drop 6).take 2)
  | _ => s.reqFail r Status.badRequest

/-! ### MBX (R560) -/

/-- MBX bodies are well formed. -/
def mbxOk (r : Req) : Bool :=
  r.node != 0xFF && Nat.blt (byteAt r.body 1) 16 &&
    (match byteAt r.body 0 with
     | 0 => Nat.ble 1 (byteAt r.body 2) && Nat.ble (byteAt r.body 2) 16 && r.body.length == 4 + 4 * byteAt r.body 2
     | 1 => Nat.ble (leAt r.body 2 2) 1000 && r.body.length == 4
     | 2 => r.body.length == 4
     | _ => false)

/-- The answer of RECV that takes nothing, or LEN words. -/
def recvAnswer (ws : List Word) : List Byte := leBytes 4 ws.length ++ wordBytes ws

/-- RECV finds the channel EMPTY: answered at once with WAIT 0, else it waits, one in each session. -/
def State.recvWait (s : State) (r : Req) : State :=
  if leAt r.body 2 2 = 0 then s.reqEnd r 0 (recvAnswer [])
  else if (s.sess r.sess).recv.isSome then s.reqFail r Status.busy
  else (s.setActive none).setSess r.sess { s.sess r.sess with recv := some r, recvAt := s.sys.up }

/-- Read and TAKE the message of a FULL channel of this node as master 1. -/
def State.recvLocal (s : State) (r : Req) : State :=
  let n := byteAt r.body 1
  let pr := s.readWords .ha (s.get (F.MBX_CHn_STAT_LEN n)) (R.MBX_CHn_Di n 0)
  let s1 := pr.1
  let ws := pr.2.1
  let pr := s1.writeWords .ha [0x40000000] (R.MBX_CHn_CTRL n)
  let s2 := pr.1
  s2.reqEnd r 0 (recvAnswer ws)

def State.startMbx (s : State) (r : Req) : State :=
  if !mbxOk r then s.reqFail r Status.badRequest
  else if r.node = s.pos && !s.running then s.reqFail r Status.notInService
  else
    let n := byteAt r.body 1
    let len := byteAt r.body 2
    let ws := bytesWords r.body 4 len
    let go : Word := BitVec.ofNat 32 (0x80000000 + len)
    let s := s.countReq
    match byteAt r.body 0 with
    | 0 =>
      if r.node = s.pos then
        let pr := s.writeWords .ha ws (R.MBX_CHn_Di n 0)
        let s1 := pr.1
        let e := pr.2.2
        if e then s1.reqFail r Status.busErr
        else
          let pr := s1.writeWords .ha [go] (R.MBX_CHn_CTRL n)
          let s2 := pr.1
          let e2 := pr.2.2
          s2.reqFail r (b2n e2)
      else s.goRemote r [.wr (R.MBX_CHn_Di n 0) ws, .wr (R.MBX_CHn_CTRL n) [go]]
    | 1 =>
      if r.node = s.pos then
        (if s.mbxFull n && s.flag (F.MBX_CHn_STAT_STATE n) then s.recvLocal r else s.recvWait r)
      else s.goRemote r [.rd (R.MBX_CHn_STAT n) 1]
    | _ =>
      if r.node = s.pos then
        let pr := s.readWords .ha 1 (R.MBX_CHn_STAT n)
        let s1 := pr.1
        let ws := pr.2.1
        s1.reqEnd r 0 (wordBytes ws)
      else s.goRemote r [.rd (R.MBX_CHn_STAT n) 1]

/-! ### ATTEST (R545, R546) -/

/-- The attestation record up to its signature. -/
def State.attestBytes (s : State) (nonce : List Byte) : List Byte :=
  let flags := b2n (s.flag F.SYS_VAULT_STAT_TAMPER) ||| b2n (s.flag F.SYS_VAULT_STAT_LOST) <<< 1 |||
    b2n (s.flag F.SYS_VAULT_STAT_XTAL_FAIL) <<< 2 ||| b2n s.sys.bootLock <<< 3 ||| b2n s.sys.dbgsel <<< 4 |||
    b2n s.flt.lockout <<< 5
  let own := match s.activeKey with | some k => (leBytes 32 (s.keyDig k).toNat).reverse | none => leBytes 32 0
  leBytes 4 0x5441514B ++ leBytes 2 1 ++ leBytes 1 s.pos ++ leBytes 1 flags ++ leBytes 8 Config.devId.toNat ++
    padTo 16 nonce ++ leBytes 4 (s.num R.SYS_ID) ++ leBytes 4 (s.num R.IMG_EPOCH) ++ leBytes 2 (s.num R.IMG_FLOOR) ++
    leBytes 2 (s.num R.IMG_OWNER_STAT) ++ leBytes 4 (s.num R.IMG_SEQ) ++ leBytes 4 (s.num R.IMG_STAT) ++
    leBytes 4 (s.num R.SYS_ROLE) ++ leBytes 6 s.stime48 ++ leBytes 2 0 ++ leBytes 4 s.scn.toNat ++
    leBytes 8 s.vault.sec.toNat ++ leBytes 4 (s.num R.SYS_RST_CAUSE) ++ padTo 128 s.img.image.digests ++ own

def State.startAttest (s : State) (r : Req) : State :=
  let op := byteAt r.body 0
  let bad := r.node = 0xFF || Nat.blt 1 op || r.body.length != (if op = 1 then 20 else 4)
  if bad then s.reqFail r Status.badRequest
  else if r.node != s.pos then (s.begun r).relayTo r.node Relay.attest r.body
  else if op = 0 then s.reqEnd r 0 identityCert
  else (s.begun r).signQueue (.attest none r.sess r.seq.toNat (r.body.drop 4))

/-- "KQ768-ATTEST" (R545). -/
def attestId : List Byte := [0x4B, 0x51, 0x37, 0x36, 0x38, 0x2D, 0x41, 0x54, 0x54, 0x45, 0x53, 0x54].map (BitVec.ofNat 8)

/-- A job of the signer ends with a signature (R384, R545, R546). -/
def State.signatureDone (s : State) : State :=
  match s.mtr.jobs with
  | [] => s
  | .record auto :: _ => (s.recordSigned auto).signNext
  | .attest peer _ _ nonce :: _ =>
    let m := s.attestBytes nonce
    let pr := s.signWith attestId m
    let s0 := pr.1
    let rec_ := m ++ pr.2
    let s1 := match peer with
      | some p => s0.relayTo p Relay.attestAnswer rec_
      | none => match s0.sup.active with
        | some a => s0.when (a.req.typ == 8 && a.req.node == s0.pos) (·.reqEnd a.req 0 rec_)
        | none => s0
    s1.signNext

/-- A signature is not complete within t_SIGN (R393): the job ends without one. -/
def State.signerFailed (s : State) : State :=
  match s.mtr.jobs with
  | [] => s
  | j :: _ =>
    let s1 := (s.runUp (s.mtr.jobAt + signTicks)).raise { code := 0x0C04, cls := 1, scope := .node }
    let s2 := match j, s1.sup.active with
      | .attest none _ _ _, some a =>
        s1.when (a.req.typ == 8 && a.req.node == s1.pos) (·.reqFail a.req Status.noResponse)
      | _, _ => s1
    s2.signNext

/-! ### BATCH (R536) -/

/-- Items of 8 bytes. -/
def batchItems (b : List Byte) (ofs n : Nat) : List (Word × Word) :=
  (List.range n).map fun i => (BitVec.ofNat 32 (leAt b (ofs + 8 * i) 4), BitVec.ofNat 32 (leAt b (ofs + 8 * i + 4) 4))

/-- The blocks of STAGE_EACH; none when they do not fill the body. -/
def batchBlocks (b : List Byte) : Nat → Nat → Option (List (Nat × List (Word × Word)))
  | 0, ofs => if ofs = b.length then some [] else none
  | k + 1, ofs =>
    let n := leAt b (ofs + 2) 2
    if n = 0 ∨ 256 < n ∨ byteAt b (ofs + 1) != 0 ∨ b.length < ofs + 4 + 8 * n then none
    else (batchBlocks b k (ofs + 4 + 8 * n)).map fun l => (byteAt b ofs, batchItems b (ofs + 4) n) :: l

/-- Targets with their items; none when the body is malformed or an item count lies outside R477. -/
def batchTargets (r : Req) : Option (List (Nat × List (Word × Word))) :=
  let n := leAt r.body 10 2
  if byteAt r.body 8 = 1 then
    if n = 0 ∨ 256 < n ∨ r.body.length != 44 + 8 * n then none
    else
      let items := batchItems r.body 44 n
      some (((List.range 255).filter fun p => bit (byteAt r.body (12 + p / 8)) (p % 8)).map fun p => (p, items))
  else batchBlocks r.body n 12

/-- The stream 1 codewords of a batch: the header and up to 19 items, then 21 items each (R477). -/
def batchCodewords (id c : Word) (items : List (Word × Word)) : List TxCw :=
  let flat := fun (l : List (Word × Word)) => wordBytes (l.foldl (fun a i => a ++ [i.1, i.2]) [])
  let head := wordBytes [id, c, BitVec.ofNat 32 items.length] ++ flat (items.take 19)
  let rest := items.drop 19
  asCodewords none true (head :: (if rest.isEmpty then [] else cutBytes 168 (rest.length + 1) (flat rest)))

/-- The primary answers with the count of targets staged and the count of targets (R536). -/
def State.batchAnswer (s : State) (a : Active) (targets : Nat) : State :=
  if s.leftPrimary a.req then s.reqFail a.req Status.notPrimary
  else s.reqEnd a.req 0 (leBytes 2 a.acks.length ++ leBytes 2 targets)

/-- How many targets a batch has. -/
def State.batchSize (s : State) (id : Word) : Nat :=
  match s.ledFind id true with | some e => (s.ledTargets e).length | none => 0

/-- A target has acknowledged staging (R479, R536). -/
def State.batchAck (s : State) (id : Word) (src : Nat) : State :=
  let s1 := s.distAck id
  match s1.sup.active with
  | some a =>
    if a.req.typ = 3 && leAt a.req.body 0 4 == id.toNat && !a.acks.contains src then
      (let a1 := { a with acks := a.acks ++ [src] }
       let s2 := s1.setActive (some a1)
       let n := s2.batchSize id
       s2.when (Nat.ble n a1.acks.length) (·.batchAnswer a1 n))
    else s1
  | none => s1

/-- Stage a batch at one target. -/
def State.stageAt (s : State) (id c : Word) (p : Nat) (items : List (Word × Word)) : State :=
  if p = s.pos then
    (let s1 := s.batchStage id c items.length items
     match s1.ledFind id false with
     | some e => s1.when (s1.ledState e == Led.staged) (·.batchAck id p)
     | none => s1)
  else s.bulkQueue p 1 (batchCodewords id c items)

/-- A cancel is relayed to every target and taken here (R480, R536); its report follows four cycles later (R538). -/
def State.cancelBatch (s : State) (r : Req) (id : Word) : State :=
  let s1 := match s.ledFind id true with
    | none => s
    | some e =>
      let s1 := (s.ledTargets e).foldl (fun (s : State) p =>
        if p = s.pos then s.batchCancel id false else s.bulkSend p 1 (wordBytes [id, s.rd (R.FLT_LEDe_Ww e 1), 0])) s
      let s2 := s1.batchCancel id true
      let due := s2.sup.batchDue.filter (fun (d : Word × Word) => d.1 != id) ++ [(id, s2.scn + 4)]
      s2.when (s.ledState e != s2.ledState e) fun s => { s with sup := { s.sup with batchDue := due } }
  s1.reqEnd r 0 (leBytes 4 0)

def State.startBatch (s : State) (r : Req) : State :=
  let id : Word := BitVec.ofNat 32 (leAt r.body 0 4)
  let c : Word := BitVec.ofNat 32 (leAt r.body 4 4)
  let op := byteAt r.body 8
  if r.body.length < 12 ∨ id = 0 ∨ byteAt r.body 9 != 0 ∨ op = 0 ∨ 3 < op then s.reqFail r Status.badRequest
  else if op = 3 then (if r.body.length = 12 then s.countReq.cancelBatch r id else s.reqFail r Status.badRequest)
  else match batchTargets r with
  | none => s.reqFail r Status.badRequest
  | some ts =>
    let ps := ts.map (·.1)
    let adm := s.pos :: s.admittedAll
    if ps.isEmpty || ps.eraseDups.length != ps.length || !scnLater c (s.scn + 8) then s.reqFail r Status.badRequest
    else if (s.ledFind id true).isSome || !ps.all (adm.contains ·) then s.reqFail r Status.refused
    else match s.ledSlot with
    | none => (s.reqFail r Status.refused).batchFault 0x0206 id
    | some e =>
      let mask := ps.foldl (fun m p => m ||| 2 ^ p) 0
      let most := ts.foldl (fun m t => Nat.max m t.2.length) 0
      let s1 := s.countReq.ledNew e id c most true mask
      let s2 := { s1 with sup := { s1.sup with
        active := some { req := r, scn := s1.scn, at_ := s1.sys.up }
        batchDue := s1.sup.batchDue ++ [(id, c + 4)] } }
      ts.foldl (fun s t => s.stageAt id c t.1 t.2) s2

/-! ### The queue (R520) -/

/-- Execute a request. -/
def State.startReq (s : State) (r : Req) : State :=
  if !s.servesReq r then s.reqFail r Status.notPrimary
  else match r.typ with
  | 1 => s.startRead r
  | 2 => s.startWrite r
  | 3 => s.startBatch r
  | 5 => s.startTime r
  | 6 => s.startMbx r
  | 8 => s.startAttest r
  | _ => s

/-- Requests the HEAD holds: queued, executing, and waiting RECVs (R520, R560). -/
def State.reqLoad (s : State) : Nat :=
  s.sup.queue.length + b2n s.sup.active.isSome +
    (List.range 4).foldl (fun m n => m + b2n (s.sess n).recv.isSome) 0

/-- The lowest role that may send the request: 1 READER, 2 OPERATOR (R516). -/
def needRole (r : Req) : Nat :=
  match r.typ with
  | 2 => 2
  | 3 => 2
  | 5 => if byteAt r.body 0 = 2 then 2 else 1
  | 6 => 2
  | _ => 1

/-- An accepted request: answered BUSY, DENIED or NOT_PRIMARY at once, executed, or queued. -/
def State.takeRequest (s : State) (n : Nat) (r : Req) : State :=
  if Nat.ble 32 s.reqLoad then s.respond r Status.busy []
  else if Nat.blt (s.get (F.SUP_SESSn_STAT_ROLE n)) (needRole r) then s.respond r Status.denied []
  else if !s.servesReq r then s.respond r Status.notPrimary (errBody r Status.notPrimary 0 [])
  else if s.sup.active.isNone && s.sup.queue.isEmpty then s.startReq r
  else { s with sup := { s.sup with queue := s.sup.queue ++ [r] } }

/-- The executing request has ended and the next one starts. -/
def State.dequeue (s : State) : State :=
  match s.sup.active, s.sup.queue with
  | none, r :: t => ({ s with sup := { s.sup with queue := t } }).startReq r
  | _, _ => s

/-- A request datagram arrives (R515, R526). -/
def State.request (s : State) (m : Datagram) : State :=
  if !s.portUp then s
  else match s.sender m with
  | none => s.dropDatagram
  | some n =>
    let d := s.plain m
    let s1 := s.heard n d
    let ss := s1.sess n
    let r : Req := ⟨n, (dgTyp d), (dgSeq d), (dgNode d), bit (dgFlags d) 2, d.body⟩
    if (dgSeq d) = ss.lastSeq then s1.respond r Status.replay []
    else if !scnLater (dgSeq d) ss.lastSeq then s1.bumpReg R.SUP_CNT_REPLAY
    else ((s1.setSess n { ss with lastSeq := (dgSeq d) }).countRx).takeRequest n r

/-- A request of this TYPE whose OP the row serves; any other datagram is another row's. -/
def State.requestOf (s : State) (d : Datagram) (typ : Nat) (op : Nat → Bool) (at_ : Nat := 0) : State :=
  s.when ((dgTyp d) == typ && op (byteAt (s.plain d).body at_) && !bit (dgFlags d) 0) (·.request d)

/-- The host acknowledges a report (R541). -/
def State.reportAck (s : State) (d : Datagram) : State :=
  if !s.portUp || (dgTyp d) != 4 || !bit (dgFlags d) 0 then s
  else match s.sender d with
  | none => s.dropDatagram
  | some n =>
    let s1 := (s.heard n d).countRx
    s1.when (d.body.isEmpty) fun s =>
      s.setSess n { s.sess n with wait := (s.sess n).wait.filter fun e => e.rseq != (dgSeq d) }

/-! ### Remote answers -/

/-- The remote accesses of the executing request are all done. -/
def State.hostDone (s : State) (a : Active) : State :=
  let r := a.req
  match r.typ, byteAt r.body 0 with
  | 6, 0 => s.reqEnd r 0 []
  | 6, 1 =>
    let st := (a.data.getD 0 0).toNat
    if a.data.length != 1 then s.reqEnd r 0 (recvAnswer (a.data.drop 1))
    else if bit st 0 then
      (let n := byteAt r.body 1
       (s.setActive (some { a with steps := [.rd (R.MBX_CHn_Di n 0) (bits st 8 5),
         .wr (R.MBX_CHn_CTRL n) [0x40000000]] })).issue)
    else s.recvWait r
  | 6, _ => s.reqEnd r 0 (wordBytes a.data)
  | _, _ => s.reqFail r 0 a.done a.data

/-- The answer of a remote access of the supervisory port (R178, R535): the next one, or the end of the request. -/
def State.hostAnswer (s : State) (src done err : Nat) (ws : List Word) : State :=
  match s.rng.rraHost, s.sup.active with
  | some p, some a =>
    if p.node != src then s
    else
      let s1 := { s with rng := { s.rng with rraHost := none } }
      let a1 := { a with done := a.done + done, data := a.data ++ (if p.write then [] else ws), steps := a.steps.drop 1 }
      let s2 := s1.setActive (some a1)
      if s2.leftPrimary a.req then s2.reqFail a.req Status.notPrimary a1.done a1.data
      else if err != 0 then s2.reqFail a.req (rraStatus err) a1.done a1.data
      else if a1.steps.isEmpty then s2.hostDone a1
      else s2.issue
  | _, _ => s

/-- No answer within 16 cycles (R178, R535). -/
def State.hostTimeoutRra (s : State) : State :=
  match s.sup.active with
  | some a =>
    let due := match s.rng.rraHost with
      | some p => s.cycles16 p.scn
      | none => a.req.atom && a.req.node != s.pos && s.cycles16 a.scn
    if due then
      ({ s with rng := { s.rng with rraHost := none } }).reqFail a.req
        (if s.leftPrimary a.req then Status.notPrimary else Status.noResponse) a.done a.data
    else s
  | none => s

/-- An answer on the supervisory relay to the executing request: of an ATOM read or of an attestation. -/
def State.relayAnswer (s : State) (src typ : Nat) (head body : List Byte) : State :=
  match s.sup.active with
  | some a => s.when (a.req.typ == typ && a.req.node == src && src != s.pos) fun s =>
      if s.leftPrimary a.req then s.reqFail a.req Status.notPrimary else s.reqEnd a.req 0 (head ++ body)
  | none => s

/-! ### Waiting RECV (R560) -/

/-- A RECV whose channel is FULL at another node goes to the front of the queue, to be executed as it was. -/
def State.recvAgain (s : State) (n : Nat) (r : Req) : State :=
  let s1 := s.setSess n { s.sess n with recv := none }
  let s2 := { s1 with sup := { s1.sup with queue := r :: s1.sup.queue } }
  s2.dequeue

/-- The WAIT of session n ends, or its channel is looked at: here at once, at another node by one read of STAT a cycle. -/
def State.recvExpiry (s : State) (n : Nat) (expired : Bool) : State :=
  match (s.sess n).recv with
  | none => s
  | some r =>
    let s := if expired then s.runUp ((s.sess n).recvAt + msTicks (leAt r.body 2 2)) else s
    let ch := byteAt r.body 1
    let free := s.setSess n { s.sess n with recv := none }
    if r.node = s.pos ∧ s.mbxFull ch ∧ s.flag (F.MBX_CHn_STAT_STATE ch) then
      (let act := s.sup.active
       (free.recvLocal r).setActive act)
    else if expired then free.respond r 0 (recvAnswer [])
    else if !s.servesReq r then free.respond r Status.notPrimary []
    else if r.node = s.pos then s
    else s.when ((s.sess n).polled != some s.scn) fun s =>
      (s.setSess n { s.sess n with polled := some s.scn }).sendRra r.node 1 (2 + n) (.rd (R.MBX_CHn_STAT ch) 1)

/-- The answer of such a read. -/
def State.recvPolled (s : State) (n src : Nat) (ws : List Word) : State :=
  match (s.sess n).recv with
  | some r => s.when (r.node == src && (ws.getD 0 0).getLsbD 0) (·.recvAgain n r)
  | none => s

/-! ### PTP and the link -/

/-- Times of the last second. -/
def lastSecond (now : Nat) (l : List Nat) : List Nat := l.filter fun t => Nat.blt now (t + secondTicks)

/-- Forward a PTP frame as TIME OP 1 to every session that subscribes to TIME (R542, R543). -/
def State.timeRx (s : State) (frame : List Byte) (event : Bool) : State :=
  let trunc := Nat.blt 1384 frame.length
  let body := leBytes 4 1 ++ leBytes 6 (if event then s.stime48 else 0) ++ leBytes 2 (b2n event + 2 * b2n trunc) ++
    leBytes 2 frame.length ++ leBytes 2 0 ++ frame.take 1384
  let s1 := s.when trunc (·.bumpReg R.SUP_CNT_PTPDROP)
  forUpTo 4 (fun n s => s.when (s.sessOpen n && (s.sess n).sub.getLsbD 16) fun s =>
    let q := (s.sess n).timeSeq
    (s.setSess n { s.sess n with timeSeq := q + 1 }).toHost (s.get (F.SUP_SESSn_STAT_SID n)) 5 false 0 q.toNat s.pos body)
    s1

def State.ptpReceived (s : State) (frame : List Byte) : State :=
  if !s.portUp then s
  else match s.ptpRx frame with
  | none => s
  | some event =>
    let l := lastSecond s.sys.up s.sup.ptpAt
    if Nat.ble 128 l.length then
      (let first := !s.sup.ptpRun
       let s1 := ({ s with sup := { s.sup with ptpRun := true } }).bumpReg R.SUP_CNT_PTPDROP
       s1.when first (·.raise { code := 0x1106, cls := 0, scope := .node }))
    else ({ s with sup := { s.sup with ptpAt := s.sys.up :: l, ptpRun := false } }).timeRx frame event

def State.linkDown (s : State) : State :=
  let any := (List.range 4).any fun n => s.sessOpen n
  let s1 := s.setFlag F.SUP_STAT_LINK false
  s1.when (any && !s.sup.linkFault && s.supRuns) fun s =>
    ({ s with sup := { s.sup with linkFault := true } }).raise { code := 0x1101, cls := 1, scope := .node, ended := false }

def State.linkUp (s : State) : State :=
  let s1 := (s.setFlag F.SUP_STAT_LINK s.supRuns).put F.SUP_STAT_SPEED (s.get F.SUP_CTRL_SPEED)
  s1.when (s.sup.linkFault && s.supRuns) fun s =>
    ({ s with sup := { s.sup with linkFault := false } }).endCause 0x1101 0

/-- The port answers for its own addresses (R513). -/
def State.answersNet (s : State) (v6 : Bool) (a : BitVec 128) : Bool := s.portUp && s.ownIp v6 a.toNat

/-! ### Meanings -/

def execLinkDown (s : State) : Host.Outcome State Fault Refusal := .next (s.live fun s => s.linkDown)

def execLinkUp (s : State) : Host.Outcome State Fault Refusal := .next (s.live fun s => s.linkUp)

def execDatagramDropped (s : State) : Host.Outcome State Fault Refusal :=
  .next (s.live fun s => s.when s.portUp (·.dropDatagram))

def execArpOrNeighbourSolicitation (v6 : Bool) (target : BitVec 128) (s : State) : Host.Outcome State Fault Refusal :=
  .next (s.live fun s => s.when (s.answersNet v6 target) (·.emit (.net (b2n v6))))

/-- At most 10 echoes a second, with ECHO = 1 (R513). -/
def execIcmpEcho (v6 : Bool) (target : BitVec 128) (s : State) : Host.Outcome State Fault Refusal :=
  .next (s.live fun s =>
    let l := lastSecond s.sys.up s.sup.echoAt
    s.when (s.answersNet v6 target && s.flag F.SUP_CTRL_ECHO && Nat.blt l.length 10) fun s =>
      ({ s with sup := { s.sup with echoAt := s.sys.up :: l } }).emit (.net (2 + b2n v6)))

def execSessPhase1 (d : Datagram) (s : State) : Host.Outcome State Fault Refusal := .next (s.live fun s => s.phase1 d)

def execSessPhase3 (d : Datagram) (s : State) : Host.Outcome State Fault Refusal := .next (s.live fun s => s.phase3 d)

def execSessClose (d : Datagram) (s : State) : Host.Outcome State Fault Refusal := .next (s.live fun s => s.phase5 d)

def execHalfOpenTimeout (n : Fin 4) (s : State) : Host.Outcome State Fault Refusal :=
  .next (s.live fun s => s.when (s.sessHalf n.val) fun s =>
    (s.runUp ((s.sess n.val).seen + msTicks 2000)).sessFree n.val)

def execIdleTimeout (n : Fin 4) (s : State) : Host.Outcome State Fault Refusal :=
  .next (s.live fun s => s.when (s.sessOpen n.val) fun s =>
    (s.runUp ((s.sess n.val).seen + msTicks (1000 * s.get F.SUP_SESS_CFG_IDLE))).sessClose n.val)

def execReadRequest (d : Datagram) (s : State) : Host.Outcome State Fault Refusal :=
  .next (s.live fun s => s.requestOf d 1 (fun _ => true))

def execWriteRequest (d : Datagram) (s : State) : Host.Outcome State Fault Refusal :=
  .next (s.live fun s => s.requestOf d 2 (fun _ => true))

def execRequestDequeue (s : State) : Host.Outcome State Fault Refusal := .next (s.live fun s => s.dequeue)

/-- The OP of a BATCH is byte 8 of its body. -/
def execBatchStageCommon (d : Datagram) (s : State) : Host.Outcome State Fault Refusal :=
  .next (s.live fun s => s.requestOf d 3 (fun o => o == 1) 8)

def execBatchStageEach (d : Datagram) (s : State) : Host.Outcome State Fault Refusal :=
  .next (s.live fun s => s.requestOf d 3 (fun o => o == 2) 8)

/-- This row takes a BATCH of any other OP too, which is answered BAD_REQUEST. -/
def execBatchCancelRequest (d : Datagram) (s : State) : Host.Outcome State Fault Refusal :=
  .next (s.live fun s => s.requestOf d 3 (fun o => o != 1 && o != 2) 8)

def execBatchResponseTimeout (s : State) : Host.Outcome State Fault Refusal :=
  .next (s.live fun s => match s.sup.active with
    | some a => s.when (a.req.typ == 3 && s.cycles16 a.scn) (·.batchAnswer a (s.batchSize (BitVec.ofNat 32 (leAt a.req.body 0 4))))
    | none => s)

def execReportAck (d : Datagram) (s : State) : Host.Outcome State Fault Refusal := .next (s.live fun s => s.reportAck d)

def execTimeNow (d : Datagram) (s : State) : Host.Outcome State Fault Refusal :=
  .next (s.live fun s => s.requestOf d 5 (fun o => o != 2))

def execTimeTx (d : Datagram) (s : State) : Host.Outcome State Fault Refusal :=
  .next (s.live fun s => s.requestOf d 5 (fun o => o == 2))

def execPtpFrameReceived (frame : List Byte) (s : State) : Host.Outcome State Fault Refusal :=
  .next (s.live fun s => s.ptpReceived frame)

def execMbxSend (d : Datagram) (s : State) : Host.Outcome State Fault Refusal :=
  .next (s.live fun s => s.requestOf d 6 (fun o => o == 0))

def execMbxRecv (d : Datagram) (s : State) : Host.Outcome State Fault Refusal :=
  .next (s.live fun s => s.requestOf d 6 (fun o => o == 1))

/-- `expired`: WAIT has run out; else the channel is looked at. -/
def execMbxRecvExpiry (n : Fin 4) (expired : Bool) (s : State) : Host.Outcome State Fault Refusal :=
  .next (s.live fun s => s.recvExpiry n.val expired)

/-- This row takes an MBX message of any other OP too, which is answered BAD_REQUEST. -/
def execMbxStat (d : Datagram) (s : State) : Host.Outcome State Fault Refusal :=
  .next (s.live fun s => s.requestOf d 6 (fun o => o != 0 && o != 1))

/-- This row takes an ATTEST message of any other OP too, which is answered BAD_REQUEST. -/
def execAttestIdentity (d : Datagram) (s : State) : Host.Outcome State Fault Refusal :=
  .next (s.live fun s => s.requestOf d 8 (fun o => o != 1))

def execAttestRecord (d : Datagram) (s : State) : Host.Outcome State Fault Refusal :=
  .next (s.live fun s => s.requestOf d 8 (fun o => o == 1))

def execAttestTimeout (s : State) : Host.Outcome State Fault Refusal :=
  .next (s.live fun s => match s.sup.active with
    | some a => s.when (a.req.typ == 8 && a.req.node != s.pos && s.cycles16 a.scn) fun s =>
        let s := s.runUp (a.at_ + 2 * s.cycleLen + signTicks)
        s.reqFail a.req (if s.leftPrimary a.req then Status.notPrimary else Status.noResponse)
    | none => s)

def execSignatureComplete (s : State) : Host.Outcome State Fault Refusal := .next (s.live fun s => s.signatureDone)

def execSignerFailure (s : State) : Host.Outcome State Fault Refusal := .next (s.live fun s => s.signerFailed)

def execSupCntClr (s : State) : Host.Outcome State Fault Refusal := .next (s.live fun s => s.supCntClr)

def execCloseAll (m : Master) (s : State) : Host.Outcome State Fault Refusal :=
  .next (s.byMaster m fun s => if s.asMp m then s.closeAll else s.violation m true R.SUP_CMD)

end Sys2Proof.Machine
end

