-- ==== Sys2Proof/Machine/Remote.lean ====
section
/-! DEFINITION. Machine/Remote.lean: remote register access (R177, R178, R566), what a bulk message of each stream does
(R172), batches at their targets (R477, R478), and writes of registers on the bus.
Marked choices: log entries 12, 45 (DEDUCED); log entries 61, 62, 66 (DESIGN CHOICE). -/
namespace Sys2Proof.Machine

/-! ### Remote access -/

/-- The request registers show how a request ended (R178). -/
def State.rraEnd (s : State) (err done : Nat) : State :=
  let s1 := { s with rng := { s.rng with rra := none } }
  let s2 := (s1.put F.RNG_RRA_STAT_DONE_CNT done).put F.RNG_RRA_STAT_ERR err
  s2.put F.RNG_RRA_STAT_STATE (if err = 0 then 2 else 3)

/-- The words of an answer fill RNG_RRA_BUFn. -/
def State.rraFill (s : State) (ws : List Word) : State := s.wrAll R.RNG_RRA_BUF ws

/-- Execute a request at its target with the rights of the host agent, for a master whose violations name it: the state,
the accesses done, ERR, and the words read (R177, R178, R532). -/
def State.rraExec (s : State) (by_ : Master) (write : Bool) (a n : Nat) (ws : List Word) : State × Nat × Nat × List Word :=
  if !s.running then (s, 0, 2, [])
  else if write then
    let pr := s.writeWords by_ ws a
    let s1 := pr.1
    let k := pr.2.1
    let e := pr.2.2
    (s1, k, if e then 3 else 0, [])
  else
    let pr := s.readWords by_ n a
    let s1 := pr.1
    let l := pr.2.1
    let e := pr.2.2
    (s1, l.length, if e then 3 else 0, l)

/-- GO (R177, R178, R566). -/
def State.rraGo (s : State) : State :=
  let node := s.get F.RNG_RRA_CTRL_NODE
  let n := s.get F.RNG_RRA_CTRL_COUNT
  let write := s.flag F.RNG_RRA_CTRL_OP
  let a := s.num R.RNG_RRA_ADDR
  if n = 0 ∨ 16 < n ∨ a % 4 != 0 ∨ node = 0xFF then s.rraEnd 4 0
  else
    let ws := (List.range n).map fun i => s.rd (R.RNG_RRA_BUF i)
    if node = s.pos then
      let pr := s.rraExec .mp write a n ws
      let s1 := pr.1
      let k := pr.2.1
      let err := pr.2.2.1
      let l := pr.2.2.2
      (s1.rraFill l).rraEnd err k
    else
      let s1 := { s with rng := { s.rng with rra := some ⟨node, write, n, a, s.scn⟩ } }
      let s2 := (s1.put F.RNG_RRA_STAT_DONE_CNT 0).put F.RNG_RRA_STAT_ERR 0
      (s2.put F.RNG_RRA_STAT_STATE 1).sendRra node 0 0 (if write then .wr a ws else .rd a n)

/-- A write of RNG_RRA_CTRL; one with GO while BUSY is ignored (R178, R529). -/
def State.rraCtrl (s : State) (m : Master) (v : Nat) : State × Ans :=
  if bit v 31 && s.get F.RNG_RRA_STAT_STATE == 1 && s.asMp m && m != .dbg then (s, .ok)
  else match s.writeAccess m m R.RNG_RRA_CTRL 4 v .clean with
    | (s1, .ok) => (s1.when (bit v 31) (·.rraGo), .ok)
    | r => r

/-- A message on stream 2: a request is executed and answered; an answer ends the request it belongs to (log entry 66). A
late answer to a request that has ended counts as the answer of a newer request of the same kind to the same node, since
nothing in an answer names its request (R178 does not say; log entry 66, DESIGN CHOICE). -/
def State.rraMessage (s : State) (src : Nat) (d : List Byte) : State :=
  let op := byteAt d 0
  let tag := byteAt d 3
  if op = 1 ∨ op = 2 then
    let by_ : Master := if byteAt d 2 = 0 then .mp else .ha
    let a := leAt d 4 4
    let n := byteAt d 1
    let pr := s.rraExec by_ (op == 2) a n (bytesWords d 8 n)
    let s1 := pr.1
    let k := pr.2.1
    let err := pr.2.2.1
    let l := pr.2.2.2
    s1.bulkSend src 2 (leBytes 1 (0x80 + op) ++ leBytes 1 k ++ leBytes 1 err ++ leBytes 1 tag ++ leBytes 4 a ++ wordBytes l)
  else
    let k := byteAt d 1
    let err := byteAt d 2
    let ws := bytesWords d 8 ((d.length - 8) / 4)
    if tag = 1 then s.hostAnswer src k err ws
    else if 2 ≤ tag then s.recvPolled (tag - 2) src ws
    else match s.rng.rra with
      | some p => s.when (p.node == src) fun s => (s.rraFill (if p.write then [] else ws)).rraEnd err k
      | none => s

/-! ### Batches (R477 to R480) -/

/-- A codeword on stream 1. At the primary it is a target's: an acknowledgement of staging, or an outcome (log entry 62).
At a target it opens a batch, brings items of the one under way, or cancels one. -/
def State.batchMessage (s : State) (src : Nat) (b : BulkIn) : State :=
  let id : Word := BitVec.ofNat 32 (leAt b.all 0 4)
  let c : Word := BitVec.ofNat 32 (leAt b.all 4 4)
  let n := leAt b.all 8 2
  if s.isPrimary then
    if leAt b.all 10 2 = 1 then
      let kept := s.flt.outcomes.filter fun o => !(o.1 == id && o.2.1 == src)
      { s with flt := { s.flt with outcomes := kept ++ [(id, src, bytesWords b.all 12 10)] } }
    else s.batchAck id src
  else if n = 0 then s.batchCancel id false
  else
    let first := b.all.length = b.data.length
    let items := if first then batchItems b.data 12 ((b.data.length - 12) / 8) else batchItems b.data 0 (b.data.length / 8)
    let s1 := s.batchStage id c n items
    match s1.ledFind id false with
    | some e =>
      s1.when (b.last && s1.ledState e == Led.staged) (·.bulkSend src 1 (wordBytes [id, c, BitVec.ofNat 32 n]))
    | none => s1

/-- The ring agent applies the next item of the batch whose turn it is, one in a fabric cycle, with the rights of the host agent (R478, R532):
an item that would be a violation or meets a bus error is not applied. -/
def State.batchApply (s : State) : State :=
  match s.flt.applying with
  | [] => s
  | p :: t =>
    let e := p.entry
    let s := s.runUp s.flt.applyAt
    let s0 := ({ s with flt := { s.flt with applyAt := s.sys.up + 4 } }).when (s.ledState e == Led.staged)
      (·.ledTo e Led.committing 0)
    match (Bank.at [] s0.flt.items e)[p.next]? with
    | none => { s0 with flt := { s0.flt with applying := t } }
    | some (a, v) =>
      let i := p.next
      let refuse := fun (s : State) (cause : Nat) =>
        let s1 := s.when (s.num (R.FLT_LEDe_Ww e 13) == 0xFFFF) (·.wrN (R.FLT_LEDe_Ww e 13) (cause <<< 12 ||| i))
        s1.batchFault 0x0207 (s1.ledId e)
      let s1 := match s0.writeAccess .ha .ra a.toNat 4 v.toNat .clean with
        | (s1, .ok) =>
          s1.wrN (R.FLT_LEDe_Ww e (3 + i / 32)) (setBit (s1.num (R.FLT_LEDe_Ww e (3 + i / 32))) (i % 32) true)
        | (s1, .err) => refuse s1 1
        | (_, .viol) => refuse s0 2
      let last := Nat.ble (s1.get (F.FLT_LEDe_W2_COUNT e)) (i + 1)
      let s2 := { s1 with flt := { s1.flt with applying := if last then t else { p with next := i + 1 } :: t } }
      s2.when last fun s => (s.ledTo e Led.committed 0).sendOutcome e

/-! ### The relay to the primary, stream 5 (R465, R385, R415, R534, R546; log entry 61) -/

/-- A relayed fault record at the primary: reported, and one of class FC4 from the standby asks for a trip (R465, R469). -/
def State.relayedFault (s : State) (src : Nat) (p : List Byte) : State :=
  let cls := byteAt p 4 % 16
  let s1 := s.when (cls == 4 && bit (leAt p 4 4) 9 && src == s.otherHead) (·.raise
    { code := 0x0205, cls := 4, scope := .station, kind := 6, inst := src })
  s1.when (Nat.ble (s1.get F.FLT_CFG_REP_CLS) cls) (·.report Rep.fault (if Nat.ble 4 cls then 0 else 1) src p)

def State.relayMessage (s : State) (src : Nat) (d : List Byte) : State :=
  let kind := leAt d 0 4
  let p := d.drop 4
  if kind = Relay.atomRead then
    s.when s.running (fun s => s.accCheck.relayTo src Relay.atomAnswer (leBytes 4 (leAt p 4 4) ++ s.atomCopy (leAt p 0 4) (leAt p 4 4)))
  else if kind = Relay.atomAnswer then s.relayAnswer src 1 [] p
  else if kind = Relay.attest then
    (if byteAt p 0 = 0 then s.relayTo src Relay.attestAnswer identityCert
     else s.signQueue (.attest (some src) 0 0 (p.drop 4)))
  else if kind = Relay.attestAnswer then s.relayAnswer src 8 [] p
  else if !s.isPrimary then s
  else if kind = Relay.fault then s.relayedFault src p
  else if kind = Relay.health then s.forwardHealth src p
  else if kind = Relay.energy then s.report Rep.energy 1 src p
  else if kind = Relay.capture then s.report Rep.capture 2 src p
  else s

/-! ### A BULK codeword (R172, R176) -/

/-- A BULK codeword for this node arrives: its flow takes it, and what its stream carries is acted on. -/
def State.bulkReceived (s : State) (a : Arrival) : State :=
  let cw := a.cw
  if !cwValid Ty.bulk cw a.uncorr || byteAt cw 2 != s.pos then s
  else
    let src := byteAt cw 1
    match s.bulkTake src cw with
    | (s1, none) => s1
    | (s1, some b) =>
      match byteAt cw 8 with
      | 1 => s1.batchMessage src b
      | 2 => s1.when b.last (·.rraMessage src b.all)
      | 3 => s1.when b.last (·.mbxMessage src b.all)
      | 5 => s1.when b.last (·.relayMessage src b.all)
      | _ => s1

/-! ### Writes on the bus -/

/-- A write on the bus, answered. -/
def State.busWrite (s : State) (m : Master) (a size : Nat) (v : Nat) (e : Ecc) : State :=
  let pr := if a = R.RNG_RRA_CTRL ∧ size = 4 then s.rraCtrl m v else s.writeAccess m m a size v e
  let s1 := pr.1
  let r := pr.2
  s1.answer r 0

/-! ### Meanings -/

def execBulkReceived (s : State) : Host.Outcome State Fault Refusal :=
  .next (s.live fun s => s.takeRx (Arrival.is Ty.bulk) fun a s => s.bulkReceived a)

def execRraGo (m : Master) (v : Word) (s : State) : Host.Outcome State Fault Refusal :=
  .next (s.byMaster m fun s =>
    let pr := s.rraCtrl m (v.toNat ||| 0x80000000)
    let s1 := pr.1
    let r := pr.2
    s1.answer r 0)

/-- `host`: the request is one of the supervisory port. -/
def execRraTimeout (host : Bool) (s : State) : Host.Outcome State Fault Refusal :=
  .next (s.live fun s =>
    if host then s.hostTimeoutRra
    else match s.rng.rra with
      | some p => s.when (s.cycles16 p.scn) (·.rraEnd 1 0)
      | none => s)

def execBatchItemApply (s : State) : Host.Outcome State Fault Refusal := .next (s.live fun s => s.batchApply)

def execRegisterWrite (m : Master) (addr : Word) (size : Fin 9) (v : Word) (ecc : Ecc) (s : State) :
    Host.Outcome State Fault Refusal :=
  .next (s.byMaster m fun s => s.when (!inSram addr.toNat) (·.busWrite m addr.toNat size.val v.toNat ecc))

end Sys2Proof.Machine
end

