-- ==== Sys2Proof/Machine/Dispatch.lean ====
section
/-! DEFINITION. Machine/Dispatch.lean: one arm per command, each a direct call of its meaning. -/
namespace Sys2Proof.Machine

def exec (i : Instr) (s : State) : Host.Outcome State Fault Refusal :=
  match i with
  | .powerOnReset => Sys2Proof.Machine.execPowerOnReset s
  | .railReset rail => Sys2Proof.Machine.execRailReset rail s
  | .pginReset => Sys2Proof.Machine.execPginReset s
  | .pinReset => Sys2Proof.Machine.execPinReset s
  | .rstCtrlWrite m v => Sys2Proof.Machine.execRstCtrlWrite m v s
  | .softReset => Sys2Proof.Machine.execSoftReset s
  | .releaseOfReset straps dbgsel => Sys2Proof.Machine.execReleaseOfReset straps dbgsel s
  | .vaultSwitchOver toBat => Sys2Proof.Machine.execVaultSwitchOver toBat s
  | .vaultSecond => Sys2Proof.Machine.execVaultSecond s
  | .xtalFail => Sys2Proof.Machine.execXtalFail s
  | .tamperPulse returned => Sys2Proof.Machine.execTamperPulse returned s
  | .sysVsecLoRead m => Sys2Proof.Machine.execSysVsecLoRead m s
  | .lockDeclared => Sys2Proof.Machine.execLockDeclared s
  | .lossOfRefin => Sys2Proof.Machine.execLossOfRefin s
  | .refinReturn mppm => Sys2Proof.Machine.execRefinReturn mppm s
  | .reacquireComplete => Sys2Proof.Machine.execReacquireComplete s
  | .lossOfLock => Sys2Proof.Machine.execLossOfLock s
  | .holdMaxExpiry => Sys2Proof.Machine.execHoldMaxExpiry s
  | .referenceWaitEnd => Sys2Proof.Machine.execReferenceWaitEnd s
  | .timebaseLoss => Sys2Proof.Machine.execTimebaseLoss s
  | .sramInitDone chip => Sys2Proof.Machine.execSramInitDone chip s
  | .fetchDone => Sys2Proof.Machine.execFetchDone s
  | .fetchTimeout => Sys2Proof.Machine.execFetchTimeout s
  | .verifyDone img => Sys2Proof.Machine.execVerifyDone img s
  | .bootLock => Sys2Proof.Machine.execBootLock s
  | .imgProvWrite m v => Sys2Proof.Machine.execImgProvWrite m v s
  | .trialTimeout => Sys2Proof.Machine.execTrialTimeout s
  | .imgErase m => Sys2Proof.Machine.execImgErase m s
  | .imgProgram m => Sys2Proof.Machine.execImgProgram m s
  | .imgVerify m => Sys2Proof.Machine.execImgVerify m s
  | .imgArm m => Sys2Proof.Machine.execImgArm m s
  | .imgAbort m => Sys2Proof.Machine.execImgAbort m s
  | .imgUpdDone flashErr bufferBad => Sys2Proof.Machine.execImgUpdDone flashErr bufferBad s
  | .admissionRequest req => Sys2Proof.Machine.execAdmissionRequest req s
  | .admissionTimeRetry pos timeOk => Sys2Proof.Machine.execAdmissionTimeRetry pos timeOk s
  | .fullServiceNamed locked unlocked => Sys2Proof.Machine.execFullServiceNamed locked unlocked s
  | .stWaitExpiry => Sys2Proof.Machine.execStWaitExpiry s
  | .spliceNamed pos locked => Sys2Proof.Machine.execSpliceNamed pos locked s
  | .cycleBoundary spliceBad => Sys2Proof.Machine.execCycleBoundary spliceBad s
  | .lanePllLock pll => Sys2Proof.Machine.execLanePllLock pll s
  | .lanePllLoss pll => Sys2Proof.Machine.execLanePllLoss pll s
  | .cdrLock p l => Sys2Proof.Machine.execCdrLock p l s
  | .frameLock p l => Sys2Proof.Machine.execFrameLock p l s
  | .lossOfFrame p l => Sys2Proof.Machine.execLossOfFrame p l s
  | .lossOfSignal p l => Sys2Proof.Machine.execLossOfSignal p l s
  | .laneRetry p l => Sys2Proof.Machine.execLaneRetry p l s
  | .trainingDone p => Sys2Proof.Machine.execTrainingDone p s
  | .trainingFail p err => Sys2Proof.Machine.execTrainingFail p err s
  | .trainWaitEnd p => Sys2Proof.Machine.execTrainWaitEnd p s
  | .elasticBufferLimit p l => Sys2Proof.Machine.execElasticBufferLimit p l s
  | .eyeMonitorUpdate p l height width ser => Sys2Proof.Machine.execEyeMonitorUpdate p l height width ser s
  | .chillWrite p on => Sys2Proof.Machine.execChillWrite p on s
  | .trainWrite p => Sys2Proof.Machine.execTrainWrite p s
  | .lnkCntClr p => Sys2Proof.Machine.execLnkCntClr p s
  | .codewordReceived p l rx => Sys2Proof.Machine.execCodewordReceived p l rx s
  | .fold p => Sys2Proof.Machine.execFold p s
  | .unfoldNamed ring => Sys2Proof.Machine.execUnfoldNamed ring s
  | .nbrReceived t2 => Sys2Proof.Machine.execNbrReceived t2 s
  | .upWave diverted => Sys2Proof.Machine.execUpWave diverted s
  | .upReceived => Sys2Proof.Machine.execUpReceived s
  | .uplinkDeadline => Sys2Proof.Machine.execUplinkDeadline s
  | .downWave diverted => Sys2Proof.Machine.execDownWave diverted s
  | .dnReceived => Sys2Proof.Machine.execDnReceived s
  | .ackReceived => Sys2Proof.Machine.execAckReceived s
  | .bulkInsert p l bad => Sys2Proof.Machine.execBulkInsert p l bad s
  | .bulkReceived => Sys2Proof.Machine.execBulkReceived s
  | .bulkResend dst stream => Sys2Proof.Machine.execBulkResend dst stream s
  | .creditOnlySend dst stream => Sys2Proof.Machine.execCreditOnlySend dst stream s
  | .rraGo m v => Sys2Proof.Machine.execRraGo m v s
  | .rraTimeout host => Sys2Proof.Machine.execRraTimeout host s
  | .rngCntClr => Sys2Proof.Machine.execRngCntClr s
  | .linkMeasurement p => Sys2Proof.Machine.execLinkMeasurement p s
  | .sourceLoss => Sys2Proof.Machine.execSourceLoss s
  | .holdLimit => Sys2Proof.Machine.execHoldLimit s
  | .xchk => Sys2Proof.Machine.execXchk s
  | .stimeWrap => Sys2Proof.Machine.execStimeWrap s
  | .stimeNsRead m => Sys2Proof.Machine.execStimeNsRead m s
  | .timOffsetWrite m v => Sys2Proof.Machine.execTimOffsetWrite m v s
  | .hostTimeout => Sys2Proof.Machine.execHostTimeout s
  | .tpoEdge n => Sys2Proof.Machine.execTpoEdge n s
  | .tpoPulseEnd n => Sys2Proof.Machine.execTpoPulseEnd n s
  | .tpoEnable n v => Sys2Proof.Machine.execTpoEnable n v s
  | .tpoConfigWrite n reg v => Sys2Proof.Machine.execTpoConfigWrite n reg v s
  | .tpiEdge rising before after => Sys2Proof.Machine.execTpiEdge rising before after s
  | .tpiFracRead m => Sys2Proof.Machine.execTpiFracRead m s
  | .rgTrigger g upset => Sys2Proof.Machine.execRgTrigger g upset s
  | .groupCommit g => Sys2Proof.Machine.execGroupCommit g s
  | .deadlineMiss g => Sys2Proof.Machine.execDeadlineMiss g s
  | .swapGo next => Sys2Proof.Machine.execSwapGo next s
  | .swapCancel => Sys2Proof.Machine.execSwapCancel s
  | .coeffRamWrite m slot word v ecc => Sys2Proof.Machine.execCoeffRamWrite m slot word v ecc s
  | .peekRequest slot => Sys2Proof.Machine.execPeekRequest slot s
  | .debugHalt => Sys2Proof.Machine.execDebugHalt s
  | .ceCntClr => Sys2Proof.Machine.execCeCntClr s
  | .balancerCommit locked => Sys2Proof.Machine.execBalancerCommit locked s
  | .bypassRequest next pos => Sys2Proof.Machine.execBypassRequest next pos s
  | .rejoinRequest next pos => Sys2Proof.Machine.execRejoinRequest next pos s
  | .carrierStart ch => Sys2Proof.Machine.execCarrierStart ch s
  | .carrierMidpoint ch => Sys2Proof.Machine.execCarrierMidpoint ch s
  | .compareEvent ch e3 => Sys2Proof.Machine.execCompareEvent ch e3 s
  | .deadIntervalEnd leg => Sys2Proof.Machine.execDeadIntervalEnd leg s
  | .pwmShadowWrite ch reg v => Sys2Proof.Machine.execPwmShadowWrite ch reg v s
  | .pwmCtrlWrite ch v => Sys2Proof.Machine.execPwmCtrlWrite ch v s
  | .tripInputActive k => Sys2Proof.Machine.execTripInputActive k s
  | .tripInputInactive k => Sys2Proof.Machine.execTripInputInactive k s
  | .blankingEnd ch => Sys2Proof.Machine.execBlankingEnd ch s
  | .groupClear groups => Sys2Proof.Machine.execGroupClear groups s
  | .rearm m => Sys2Proof.Machine.execRearm m s
  | .pwmCntClr => Sys2Proof.Machine.execPwmCntClr s
  | .shortCircuit leg sw => Sys2Proof.Machine.execShortCircuit leg sw s
  | .softTurnOffEnd leg sw => Sys2Proof.Machine.execSoftTurnOffEnd leg sw s
  | .waitExpiry leg sw => Sys2Proof.Machine.execWaitExpiry leg sw s
  | .bootstrapUndervoltage leg => Sys2Proof.Machine.execBootstrapUndervoltage leg s
  | .bootstrapCharged leg => Sys2Proof.Machine.execBootstrapCharged leg s
  | .chargeTimeout leg => Sys2Proof.Machine.execChargeTimeout leg s
  | .vdrvUndervoltage => Sys2Proof.Machine.execVdrvUndervoltage s
  | .vnegUndervoltage => Sys2Proof.Machine.execVnegUndervoltage s
  | .supplyUvEnd sup => Sys2Proof.Machine.execSupplyUvEnd sup s
  | .interlock leg first => Sys2Proof.Machine.execInterlock leg first s
  | .deadtimeViolation leg sw => Sys2Proof.Machine.execDeadtimeViolation leg sw s
  | .shoot leg => Sys2Proof.Machine.execShoot leg s
  | .selfTest leg sw trip mv => Sys2Proof.Machine.execSelfTest leg sw trip mv s
  | .injNow => Sys2Proof.Machine.execInjNow s
  | .gdDeratingPublish vdrv vneg vbs => Sys2Proof.Machine.execGdDeratingPublish vdrv vneg vbs s
  | .gdCntClr => Sys2Proof.Machine.execGdCntClr s
  | .adcTrigger m => Sys2Proof.Machine.execAdcTrigger m s
  | .holdInstant m => Sys2Proof.Machine.execHoldInstant m s
  | .conversionEnd a raw => Sys2Proof.Machine.execConversionEnd a raw s
  | .lpWrite v => Sys2Proof.Machine.execLpWrite v s
  | .lowPowerSwitchEnd a => Sys2Proof.Machine.execLowPowerSwitchEnd a s
  | .chWrite m v => Sys2Proof.Machine.execChWrite m v s
  | .housekeepingStart a ch => Sys2Proof.Machine.execHousekeepingStart a ch s
  | .referenceCheck a => Sys2Proof.Machine.execReferenceCheck a s
  | .resRawRead m slot => Sys2Proof.Machine.execResRawRead m slot s
  | .adcCntClr => Sys2Proof.Machine.execAdcCntClr s
  | .meterSample codes crossing => Sys2Proof.Machine.execMeterSample codes crossing s
  | .norefCycleEnd => Sys2Proof.Machine.execNorefCycleEnd s
  | .accumulatorUpdate upset => Sys2Proof.Machine.execAccumulatorUpdate upset s
  | .pulseEmit n => Sys2Proof.Machine.execPulseEmit n s
  | .plsConfigWrite m n wgt v => Sys2Proof.Machine.execPlsConfigWrite m n wgt v s
  | .snapshotTake m => Sys2Proof.Machine.execSnapshotTake m s
  | .snapshotSign m => Sys2Proof.Machine.execSnapshotSign m s
  | .signatureComplete => Sys2Proof.Machine.execSignatureComplete s
  | .signerFailure => Sys2Proof.Machine.execSignerFailure s
  | .autoSnapshot => Sys2Proof.Machine.execAutoSnapshot s
  | .accLoRead m k upset => Sys2Proof.Machine.execAccLoRead m k upset s
  | .listenWindowEnd => Sys2Proof.Machine.execListenWindowEnd s
  | .hbReceived => Sys2Proof.Machine.execHbReceived s
  | .glazeSend => Sys2Proof.Machine.execGlazeSend s
  | .glazeCodewordReceived => Sys2Proof.Machine.execGlazeCodewordReceived s
  | .healthReport => Sys2Proof.Machine.execHealthReport s
  | .engineSelfCheck ok => Sys2Proof.Machine.execEngineSelfCheck ok s
  | .health0Read m => Sys2Proof.Machine.execHealth0Read m s
  | .swapRequest m => Sys2Proof.Machine.execSwapRequest m s
  | .dpxSwapCancel m => Sys2Proof.Machine.execDpxSwapCancel m s
  | .dpxCntClr => Sys2Proof.Machine.execDpxCntClr s
  | .failoverLedgerRead got => Sys2Proof.Machine.execFailoverLedgerRead got s
  | .noEligibleStandby => Sys2Proof.Machine.execNoEligibleStandby s
  | .testGapStart src => Sys2Proof.Machine.execTestGapStart src s
  | .testGapEnd src => Sys2Proof.Machine.execTestGapEnd src s
  | .testSourceLimit src => Sys2Proof.Machine.execTestSourceLimit src s
  | .safeInputSample a b => Sys2Proof.Machine.execSafeInputSample a b s
  | .vauxUndervoltage => Sys2Proof.Machine.execVauxUndervoltage s
  | .vauxRecover => Sys2Proof.Machine.execVauxRecover s
  | .safetyDecision diverted => Sys2Proof.Machine.execSafetyDecision diverted s
  | .safeReceived => Sys2Proof.Machine.execSafeReceived s
  | .discrepancyWindowClose head => Sys2Proof.Machine.execDiscrepancyWindowClose head s
  | .stoLoss => Sys2Proof.Machine.execStoLoss s
  | .localEvaluation agree => Sys2Proof.Machine.execLocalEvaluation agree s
  | .darkTest ch off => Sys2Proof.Machine.execDarkTest ch off s
  | .soReadback so ch below5 aboveV => Sys2Proof.Machine.execSoReadback so ch below5 aboveV s
  | .edmCheck so => Sys2Proof.Machine.execEdmCheck so s
  | .safCntClr => Sys2Proof.Machine.execSafCntClr s
  | .faultRaise r back => Sys2Proof.Machine.execFaultRaise r back s
  | .brokenPair r back => Sys2Proof.Machine.execBrokenPair r back s
  | .recordClose => Sys2Proof.Machine.execRecordClose s
  | .recordClear m n => Sys2Proof.Machine.execRecordClear m n s
  | .stationClear m => Sys2Proof.Machine.execStationClear m s
  | .fltiChange level => Sys2Proof.Machine.execFltiChange level s
  | .recordRead m r => Sys2Proof.Machine.execRecordRead m r s
  | .ledgerRead m e => Sys2Proof.Machine.execLedgerRead m e s
  | .batchStage id c count items => Sys2Proof.Machine.execBatchStage id c count items s
  | .batchItemApply => Sys2Proof.Machine.execBatchItemApply s
  | .batchCancel id => Sys2Proof.Machine.execBatchCancel id s
  | .sramAccess m write addr size v ecc => Sys2Proof.Machine.execSramAccess m write addr size v ecc s
  | .eccWriteBack addr => Sys2Proof.Machine.execEccWriteBack addr s
  | .bucketLeak r => Sys2Proof.Machine.execBucketLeak r s
  | .scrubGo m => Sys2Proof.Machine.execScrubGo m s
  | .scrubAbort m => Sys2Proof.Machine.execScrubAbort m s
  | .scrubWord ecc => Sys2Proof.Machine.execScrubWord ecc s
  | .repair m v => Sys2Proof.Machine.execRepair m v s
  | .memCntClr => Sys2Proof.Machine.execMemCntClr s
  | .sensorReading sensor t bad => Sys2Proof.Machine.execSensorReading sensor t bad s
  | .logWrite => Sys2Proof.Machine.execLogWrite s
  | .logSelWrite v => Sys2Proof.Machine.execLogSelWrite v s
  | .logReadDone => Sys2Proof.Machine.execLogReadDone s
  | .linkDown => Sys2Proof.Machine.execLinkDown s
  | .linkUp => Sys2Proof.Machine.execLinkUp s
  | .readRequest d => Sys2Proof.Machine.execReadRequest d s
  | .writeRequest d => Sys2Proof.Machine.execWriteRequest d s
  | .requestDequeue => Sys2Proof.Machine.execRequestDequeue s
  | .batchStageCommon d => Sys2Proof.Machine.execBatchStageCommon d s
  | .batchStageEach d => Sys2Proof.Machine.execBatchStageEach d s
  | .batchCancelRequest d => Sys2Proof.Machine.execBatchCancelRequest d s
  | .batchResponseTimeout => Sys2Proof.Machine.execBatchResponseTimeout s
  | .reportAck d => Sys2Proof.Machine.execReportAck d s
  | .reportTransmit n => Sys2Proof.Machine.execReportTransmit n s
  | .reportRepeat n rseq => Sys2Proof.Machine.execReportRepeat n rseq s
  | .timeNow d => Sys2Proof.Machine.execTimeNow d s
  | .timeTx d => Sys2Proof.Machine.execTimeTx d s
  | .ptpFrameReceived frame => Sys2Proof.Machine.execPtpFrameReceived frame s
  | .mbxSend d => Sys2Proof.Machine.execMbxSend d s
  | .mbxRecv d => Sys2Proof.Machine.execMbxRecv d s
  | .mbxRecvExpiry n expired => Sys2Proof.Machine.execMbxRecvExpiry n expired s
  | .mbxStat d => Sys2Proof.Machine.execMbxStat d s
  | .sessPhase1 d => Sys2Proof.Machine.execSessPhase1 d s
  | .sessPhase3 d => Sys2Proof.Machine.execSessPhase3 d s
  | .sessClose d => Sys2Proof.Machine.execSessClose d s
  | .halfOpenTimeout n => Sys2Proof.Machine.execHalfOpenTimeout n s
  | .idleTimeout n => Sys2Proof.Machine.execIdleTimeout n s
  | .attestIdentity d => Sys2Proof.Machine.execAttestIdentity d s
  | .attestRecord d => Sys2Proof.Machine.execAttestRecord d s
  | .attestTimeout => Sys2Proof.Machine.execAttestTimeout s
  | .supCntClr => Sys2Proof.Machine.execSupCntClr s
  | .closeAll m => Sys2Proof.Machine.execCloseAll m s
  | .mbxDataWrite m n k v => Sys2Proof.Machine.execMbxDataWrite m n k v s
  | .mbxGo m n len => Sys2Proof.Machine.execMbxGo m n len s
  | .mbxTake m n => Sys2Proof.Machine.execMbxTake m n s
  | .deliverReceived src data => Sys2Proof.Machine.execDeliverReceived src data s
  | .takeNoticeReceived src data => Sys2Proof.Machine.execTakeNoticeReceived src data s
  | .nackReceived src data => Sys2Proof.Machine.execNackReceived src data s
  | .mbxTimeout n => Sys2Proof.Machine.execMbxTimeout n s
  | .mbxCntClr => Sys2Proof.Machine.execMbxCntClr s
  | .registerWrite m addr size v ecc => Sys2Proof.Machine.execRegisterWrite m addr size v ecc s
  | .powerGood => Sys2Proof.Machine.execPowerGood s
  | .refinValid => Sys2Proof.Machine.execRefinValid s
  | .vaultStateLost => Sys2Proof.Machine.execVaultStateLost s
  | .bothLanePllsOutOfLock => Sys2Proof.Machine.execBothLanePllsOutOfLock s
  | .plsPulseEnd n => Sys2Proof.Machine.execPlsPulseEnd n s
  | .datagramDropped => Sys2Proof.Machine.execDatagramDropped s
  | .arpOrNeighbourSolicitation v6 target => Sys2Proof.Machine.execArpOrNeighbourSolicitation v6 target s
  | .icmpEcho v6 target => Sys2Proof.Machine.execIcmpEcho v6 target s
  | .registerRead m addr size ecc => Sys2Proof.Machine.execRegisterRead m addr size ecc s
  | .debugHaltEnd => Sys2Proof.Machine.execDebugHaltEnd s

end Sys2Proof.Machine
end

