-- ==== Sys2Proof/Machine/Step.lean ====
section
/-! DEFINITION. Machine/Step.lean: one step of the block: the command at the front of the queue, or one base tick of time
when nothing waits (log entry 1).
Marked choices: log entries 1, 8 (DESIGN CHOICE). -/
namespace Sys2Proof.Machine

/-- One base tick of the running node (R82): its clocks move on, and nothing else happens. -/
def idle (s : State) : State := s.live State.tick

/-- Take the command at the front of the queue and run it on the state with the rest of the queue; an empty queue lets
one base tick pass. -/
def step (s : State) : Host.Outcome State Fault Refusal :=
  match s.pending with
  | [] => .next (idle s)
  | c :: q => exec c { s with pending := q }

/-- `s` with the command a word spells put at the front of its queue; the table gives its rows no bits, so no word
spells one. -/
def State.withFetchWord (s : State) (nbits w : Nat) : State :=
  match decodeTableWord nbits w with
  | some c => { s with pending := c :: s.pending }
  | none => s

end Sys2Proof.Machine
end

