-- ==== Sys2Proof/Safety.lean ====
section
/-! DEFINITION. Safety.lean: what the claims mean by a sound state, by an unchanged one and by an answer. -/
namespace Sys2Proof.Machine

/-- A sound state: the register bank and SRAM are in canonical form, so that equal contents are equal lists, and no raise
waits between commands (R460). -/
abbrev State.Inv (s : State) : Prop := Regs.wf s.regs = true ∧ Memory.wf s.mem = true ∧ s.raises = []

/-- The components of the state: the register bank, SRAM, the hidden state of each block, what has been sent, the free values
used and the waiting commands. -/
inductive Comp where
  | regs | mem | sys | vault | clk | flash | vendorKey | fuse | img | lnk | rng | tim | pwm | gd | dpx | flt | eng | adc | memx | thm | bal | saf | sup | mbx | mtr | raises | out | free | pending
  deriving DecidableEq, Repr

/-- The component has one value in both states. -/
def Comp.Same (s t : State) : Comp → Prop
  | .regs => t.regs = s.regs
  | .mem => t.mem = s.mem
  | .sys => t.sys = s.sys
  | .vault => t.vault = s.vault
  | .clk => t.clk = s.clk
  | .flash => t.flash = s.flash
  | .vendorKey => t.vendorKey = s.vendorKey
  | .fuse => t.fuse = s.fuse
  | .img => t.img = s.img
  | .lnk => t.lnk = s.lnk
  | .rng => t.rng = s.rng
  | .tim => t.tim = s.tim
  | .pwm => t.pwm = s.pwm
  | .gd => t.gd = s.gd
  | .dpx => t.dpx = s.dpx
  | .flt => t.flt = s.flt
  | .eng => t.eng = s.eng
  | .adc => t.adc = s.adc
  | .memx => t.memx = s.memx
  | .thm => t.thm = s.thm
  | .bal => t.bal = s.bal
  | .saf => t.saf = s.saf
  | .sup => t.sup = s.sup
  | .mbx => t.mbx = s.mbx
  | .mtr => t.mtr = s.mtr
  | .raises => t.raises = s.raises
  | .out => t.out = s.out
  | .free => t.free = s.free
  | .pending => t.pending = s.pending

/-- At most the components of `l` differ between the two states. -/
structure Only (l : List Comp) (s t : State) : Prop where
  same : ∀ c, c ∉ l → c.Same s t

/-- Every register but those of `l` reads as before. -/
def OnlyRegs (l : List Nat) (s t : State) : Prop := ∀ a, a ∉ l → t.rd a = s.rd a

/-- The registers a fault may write: the collector's own, the leg states, the boot stage of a lockout, and what a HEAD that
leaves its role or the service gives up (R198, R420, R462 to R470, R582). -/
def faultReg (a : Nat) : Bool :=
  Nat.ble 0x400E0000 a && Nat.blt a 0x400F0000 ||
    Nat.ble 0x40080400 a && Nat.blt a 0x40080580 && (a - 0x40080400) % 0x40 == 0x24 ||
    a == R.IMG_STAT || a == R.DPX_STAT || a == R.DPX_SWAP_STAT || a == R.TIM_STAT || a == R.CLK_STAT || a == R.CLK_SLEW || a == R.TIM_UPSTREAM ||
    a == R.PWM_STAT

/-- Every register outside the predicate reads as before. -/
structure RegsOff (w : Nat → Bool) (s t : State) : Prop where
  same : ∀ a, w a = false → t.rd a = s.rd a

/-- Every register but those a fault may write and those of `l` reads as before. -/
def FaultFrame (l : List Nat) (s t : State) : Prop := RegsOff (fun a => faultReg a || l.contains a) s t

/-- The collector holds a cause with this code and class (R460, R472). -/
def HasCause (t : State) (code cls : Nat) : Bool := t.flt.causes.any fun c => c.code == code && c.cls == cls

/-- The command raised this code with this class: unless every record was ACTIVE and the class asks for no reaction (R463), the
collector holds its cause. -/
def Raised (s t : State) (code cls : Nat) : Prop := (s.mergeEnd.raiseTarget.isSome || Nat.ble 2 cls) = true → HasCause t code cls = true

/-- Leg n stands in no state in which it switches: it is not in RUN (R304). -/
def LegStopped (t : State) (n : Nat) : Prop := t.legState n ≠ LegState.run

/-- The next L1 fault of the channel escalates: its count within the window equals L1_TRIES (R336). -/
def l1Escalates (s : State) (n : Nat) (sw : Sw) : Bool :=
  Nat.ble (s.get (F.GD_LEGn_CFG_L1_TRIES n)) (recent s.sys.up s.gdWin (s.gate (chanNo n sw)).l1).length

/-- The next L2 fault of the leg escalates (R341). -/
def l2Escalates (s : State) (n : Nat) : Bool :=
  Nat.ble (s.get (F.GD_LEGn_CFG_L2_TRIES n)) (recent s.sys.up s.gdWin (s.gateLeg n).l2).length

/-- BLANK and SOFT of a channel (R332, R333). -/
def blankFld (n : Nat) : Sw → Fld
  | .low => F.GD_LEGn_SC_LS_BLANK n
  | .high => F.GD_LEGn_SC_HS_BLANK n
def softFld (n : Nat) : Sw → Fld
  | .low => F.GD_LEGn_SC_LS_SOFT n
  | .high => F.GD_LEGn_SC_HS_SOFT n

/-- Both gates of the leg are off. -/
def GatesOff (t : State) (n : Nat) : Prop := (t.gate (2 * n)).on = false ∧ (t.gate (2 * n + 1)).on = false

/-- Ledger entries read from members after a failover, by position (R423). -/
abbrev LedgerReads : Type := List (BitVec 8 × List (List Word))

/-- What the eight blocks of a line cycle book: accumulator and energy in µWh, block by block (R378, R379). -/
def cycleBookings (c : List MtrPqs) : List (Nat × Frac) :=
  ((List.range c.length).zip c).flatMap fun b => (bookings b.2).map fun q => (8 * b.1 + q.1, microWh q.2)

/-- An accumulator takes an energy: whole units are added and the rest is kept; both copies show it (R379, R381). -/
def accTake (a : MtrAcc) (e : Frac) : MtrAcc :=
  { acc := a.acc + (a.res.add e).floor.toNat, copy := a.acc + (a.res.add e).floor.toNat
    res := (a.res.add e).sub (Frac.ofInt (a.res.add e).floor) }

/-- The two copies of every accumulator agree (R381). -/
abbrev AccAgree (s : State) : Prop := ∀ k : Fin 64, (s.mtrAcc k).acc = (s.mtrAcc k).copy

/-- The state once a consumer of this node has taken the waiting codeword (R131). -/
def State.tookRx (s : State) (a : Arrival) : State := { s with rng := { s.rng with rx := s.rng.rx.erase a } }

/-- The request that the datagram makes for session n, its body decrypted as the session says (R514, R518, R525). -/
def State.reqOf (s : State) (n : Nat) (d : Datagram) : Req :=
  ⟨n, dgTyp d, dgSeq d, dgNode d, bit (dgFlags d) 2, (s.plain d).body⟩

/-- The state once the datagram has been accepted from session n: heard, its SEQ kept, counted (R515, R526, R549). -/
def State.taken (s : State) (n : Nat) (d : Datagram) : State :=
  ((s.heard n (s.plain d)).setSess n { (s.heard n (s.plain d)).sess n with lastSeq := dgSeq d }).countRx

/-- The datagram is a new request of open session n with this TYPE, whose role may send it and which this HEAD serves, with
fewer than 32 requests held (R515, R516, R519, R520, R526). -/
abbrev Fresh (s : State) (n : Nat) (d : Datagram) (typ : Nat) : Prop :=
  s.sys.inReset = false ∧ s.portUp = true ∧ s.sessOpen n = true ∧ s.sender d = some n ∧ dgTyp d = typ ∧ bit (dgFlags d) 0 = false ∧
    scnLater (dgSeq d) (s.sess n).lastSeq = true ∧ s.reqLoad < 32 ∧
    needRole (s.reqOf n d) ≤ s.get (F.SUP_SESSn_STAT_ROLE n) ∧ s.servesReq (s.reqOf n d) = true

/-- No request executes and none waits in the queue (R520). -/
abbrev SupIdle (s : State) : Prop := s.sup.active = none ∧ s.sup.queue = []

/-- `t` is `u` with one answer to the request sent and counted, and the request no longer in execution. -/
abbrev Answered (u t : State) (r : Req) (status : Nat) (body : List Byte) : Prop :=
  t.out = u.out ++ [u.hostMsg (u.get (F.SUP_SESSn_STAT_SID r.sess)) r.typ true status r.seq.toNat r.node body] ∧
    t.rd R.SUP_CNT_TX = u.rd R.SUP_CNT_TX + 1 ∧ t.sup = { u.sup with active := none } ∧
    OnlyRegs [R.SUP_CNT_TX] u t ∧ Only [.regs, .sup, .out] u t

/-- What has been sent since `s` begins with this message to the host. -/
def saidHost (s t : State) (sid typ : Nat) (resp : Bool) (status seq node : Nat) (body : List Byte) : Bool :=
  t.out.take s.out.length == s.out &&
    (match t.out.drop s.out.length with
     | .host _ sid' typ' resp' status' seq' node' body' _ :: _ =>
       sid' == sid && typ' == typ && resp' == resp && status' == status && seq' == seq && node' == node && body' == body
     | _ => false)

/-- The request has started its accesses at another node: the first is under way (R535). -/
abbrev Started (u t : State) (r : Req) (steps : List HostStep) (p : RraPend) : Prop :=
  t.sup = { u.sup with active := some { req := r, steps := steps, scn := u.scn, at_ := u.sys.up } } ∧ t.rng.rraHost = some p ∧ t.regs = u.regs ∧
    t.out = u.out ∧ Only [.sup, .rng] u t

/-- The commands that act on a node in reset: the reset sources and the release, the supplies and vault, and the root PLL
(R67 to R81). -/
def actsInReset : Instr → Bool
  | .powerOnReset | .railReset _ | .pginReset | .pinReset | .releaseOfReset _ _ | .vaultSwitchOver _ | .vaultSecond | .xtalFail
  | .tamperPulse _ | .vaultStateLost | .powerGood | .refinValid | .lockDeclared | .lossOfRefin | .refinReturn _
  | .reacquireComplete | .lossOfLock => true
  | _ => false

/-- The state at the tick of the channel's next E0, before anything of it has happened (R290). -/
def State.atE0 (s : State) (n : Nat) : State :=
  match s.nextE0 n with
  | none => s
  | some t => s.runToTick t

/-- The state at the tick of an event at position p of the period of channel n, before anything of it has happened (R293). -/
def State.atEvent (s : State) (n p : Nat) : State := s.runToTick ((s.chan n).e0 + p)

/-- The length of a period that begins with a transfer: the new period, with the phase step of R300 for a running channel. -/
def e0Length (u : State) (n : Nat) : Nat :=
  let per := (u.shadow n (R.PWM_LCHn_PER n)).toNat
  if u.num (R.PWM_LCHn_PER_ACT n) = 0 then per
  else ((per : Int) + phaseStep (u.num (R.PWM_LCHn_PH_ACT n)) (u.phaseShadow n per).1 per).toNat

/-- The command answers a next state, and that state is as `P` says. -/
def Answers (c : Instr) (s : State) (P : State → Prop) : Prop := ∃ t, exec c s = .next t ∧ P t

end Sys2Proof.Machine
end

