-- ==== Sys2Proof/Certificates/Slice0/Obligations.lean ====
section
/-! DEFINITION. Certificates/Slice0/Obligations.lean: the statements for the provers. Each follows numbered rules of spec/;
`Answers c s P` is the completion of a command with the state it leaves. -/
open Sys2Proof Sys2Proof.Machine

/-- Each of the five reset sources answers a node in reset. Every register but SYS_RST_CAUSE and IMG_OWNER_STAT reads
its reset value or, where keepsReset names it, its former value; the key states stay and PROV_ERR reads 0; SRAM lists
nothing; vault, vendor key, fuses and what was sent stay as they were, and the flash too where no update command ran.
A power-on reset clears the lockout latch and reads POR = 1; every other source keeps the latch and sets its own bit
of SYS_RST_CAUSE, a rail reset with the rail's number. A software reset happens when one is scheduled, keeps power
good and finds the root in SEARCH, the last the model's reading (log entry 5). (R71, R72, R91, R568) -/
def Obligations.ResetClearsNode : Prop :=
  (∀ (s : State),
    Answers .powerOnReset s fun t =>
      t.sys.inReset = true ∧
      t.sys.powerGood = false ∧
      t.clk.root = .off ∧
      t.flt.lockout = false ∧
      t.get F.SYS_RST_CAUSE_POR = 1 ∧
      (∀ a, a ≠ R.IMG_OWNER_STAT → t.rd a = if keepsReset a then s.rd a else resetWord a) ∧
      (∀ f ∈ [F.IMG_OWNER_STAT_K0, F.IMG_OWNER_STAT_K1, F.IMG_OWNER_STAT_K2, F.IMG_OWNER_STAT_ACTIVE], t.get f = s.get f) ∧
      t.get F.IMG_OWNER_STAT_PROV_ERR = 0 ∧
      (s.img.upd = none → t.flash = s.flash ∧ t.free = s.free) ∧
      t.mem = [] ∧
      Only [.regs, .mem, .sys, .clk, .flash, .img, .lnk, .rng, .tim, .pwm, .gd, .dpx, .flt, .eng, .adc, .memx, .thm, .bal, .saf, .sup, .mbx, .mtr, .raises, .free] s t) ∧
  (∀ (s : State) (rail : Rail),
    Answers (.railReset rail) s fun t =>
      t.sys.inReset = true ∧
      t.flt.lockout = s.flt.lockout ∧
      t.get F.SYS_RST_CAUSE_RAIL = 1 ∧
      t.get F.SYS_RST_CAUSE_RAIL_ID = railId rail ∧
      t.get F.SYS_RST_CAUSE_POR = s.get F.SYS_RST_CAUSE_POR ∧
      t.get F.SYS_RST_CAUSE_PGIN = s.get F.SYS_RST_CAUSE_PGIN ∧
      t.get F.SYS_RST_CAUSE_PIN = s.get F.SYS_RST_CAUSE_PIN ∧
      t.get F.SYS_RST_CAUSE_SOFT = s.get F.SYS_RST_CAUSE_SOFT ∧
      (∀ a, a ≠ R.SYS_RST_CAUSE → a ≠ R.IMG_OWNER_STAT → t.rd a = if keepsReset a then s.rd a else resetWord a) ∧
      (∀ f ∈ [F.IMG_OWNER_STAT_K0, F.IMG_OWNER_STAT_K1, F.IMG_OWNER_STAT_K2, F.IMG_OWNER_STAT_ACTIVE], t.get f = s.get f) ∧
      t.get F.IMG_OWNER_STAT_PROV_ERR = 0 ∧
      (s.img.upd = none → t.flash = s.flash ∧ t.free = s.free) ∧
      t.mem = [] ∧
      Only [.regs, .mem, .sys, .clk, .flash, .img, .lnk, .rng, .tim, .pwm, .gd, .dpx, .flt, .eng, .adc, .memx, .thm, .bal, .saf, .sup, .mbx, .mtr, .raises, .free] s t) ∧
  (∀ (s : State),
    Answers .pginReset s fun t =>
      t.sys.inReset = true ∧
      t.flt.lockout = s.flt.lockout ∧
      t.rd R.SYS_RST_CAUSE = s.rd R.SYS_RST_CAUSE ||| 4 ∧
      (∀ a, a ≠ R.SYS_RST_CAUSE → a ≠ R.IMG_OWNER_STAT → t.rd a = if keepsReset a then s.rd a else resetWord a) ∧
      (∀ f ∈ [F.IMG_OWNER_STAT_K0, F.IMG_OWNER_STAT_K1, F.IMG_OWNER_STAT_K2, F.IMG_OWNER_STAT_ACTIVE], t.get f = s.get f) ∧
      t.get F.IMG_OWNER_STAT_PROV_ERR = 0 ∧
      (s.img.upd = none → t.flash = s.flash ∧ t.free = s.free) ∧
      t.mem = [] ∧
      Only [.regs, .mem, .sys, .clk, .flash, .img, .lnk, .rng, .tim, .pwm, .gd, .dpx, .flt, .eng, .adc, .memx, .thm, .bal, .saf, .sup, .mbx, .mtr, .raises, .free] s t) ∧
  (∀ (s : State),
    Answers .pinReset s fun t =>
      t.sys.inReset = true ∧
      t.flt.lockout = s.flt.lockout ∧
      t.rd R.SYS_RST_CAUSE = s.rd R.SYS_RST_CAUSE ||| 8 ∧
      (∀ a, a ≠ R.SYS_RST_CAUSE → a ≠ R.IMG_OWNER_STAT → t.rd a = if keepsReset a then s.rd a else resetWord a) ∧
      (∀ f ∈ [F.IMG_OWNER_STAT_K0, F.IMG_OWNER_STAT_K1, F.IMG_OWNER_STAT_K2, F.IMG_OWNER_STAT_ACTIVE], t.get f = s.get f) ∧
      t.get F.IMG_OWNER_STAT_PROV_ERR = 0 ∧
      (s.img.upd = none → t.flash = s.flash ∧ t.free = s.free) ∧
      t.mem = [] ∧
      Only [.regs, .mem, .sys, .clk, .flash, .img, .lnk, .rng, .tim, .pwm, .gd, .dpx, .flt, .eng, .adc, .memx, .thm, .bal, .saf, .sup, .mbx, .mtr, .raises, .free] s t) ∧
  (∀ (s : State),
    s.sys.inReset = false →
    s.sys.softPend = true →
    Answers .softReset s fun t =>
      t.sys.inReset = true ∧
      t.sys.powerGood = true ∧
      t.clk.root = .search ∧
      t.flt.lockout = s.flt.lockout ∧
      t.rd R.SYS_RST_CAUSE = s.rd R.SYS_RST_CAUSE ||| 16 ∧
      (∀ a, a ≠ R.SYS_RST_CAUSE → a ≠ R.IMG_OWNER_STAT → t.rd a = if keepsReset a then s.rd a else resetWord a) ∧
      (∀ f ∈ [F.IMG_OWNER_STAT_K0, F.IMG_OWNER_STAT_K1, F.IMG_OWNER_STAT_K2, F.IMG_OWNER_STAT_ACTIVE], t.get f = s.get f) ∧
      t.get F.IMG_OWNER_STAT_PROV_ERR = 0 ∧
      (s.img.upd = none → t.flash = s.flash ∧ t.free = s.free) ∧
      t.mem = [] ∧
      Only [.regs, .mem, .sys, .clk, .flash, .img, .lnk, .rng, .tim, .pwm, .gd, .dpx, .flt, .eng, .adc, .memx, .thm, .bal, .saf, .sup, .mbx, .mtr, .raises, .free] s t)

/-- A write to SYS_RST_CTRL by a running master schedules a reset with the key and the rights of the management
processor, counts a violation with the key from another master, and changes nothing without the key. Power good, and a
valid REFIN, take a root in OFF to SEARCH when the other of the two holds. Release of reset, with power good and a
locked root, takes the straps into SYS_ADDR and DBGSEL, counts the register series on, shows LOST for a lost vault
state, and enters SRAM_INIT, or LOCKOUT with the lockout latch set. (R28, R67, R68, R71, R72, R74, R78, R102, R368,
R531) -/
def Obligations.ResetWriteAndRelease : Prop :=
  (∀ (s : State) (m : Master) (v : Word),
    s.sys.inReset = false →
    s.mastersRun m = true →
    Answers (.rstCtrlWrite m v) s fun t =>
      t.sys.softPend = (s.sys.softPend || v.toNat / 65536 == 0xA5C3 && s.asMp m) ∧
      (t.rd R.SYS_VIOL_CNT = (if v.toNat / 65536 = 0xA5C3 ∧ s.asMp m = false then BitVec.ofNat 32 (satAdd 0xFFFFFFFF (s.num R.SYS_VIOL_CNT) 1) else s.rd R.SYS_VIOL_CNT)) ∧
      OnlyRegs [R.SYS_VIOL_CNT, R.SYS_VIOL_LAST] s t ∧
      Only [.regs, .sys] s t) ∧
  (∀ (s : State),
    s.sys.inReset = true →
    Answers .powerGood s fun t =>
      t.sys.powerGood = true ∧
      (t.clk.root = (if s.clk.root = .off ∧ s.clk.refin = true then .search else s.clk.root)) ∧
      OnlyRegs [R.CLK_STAT] s t ∧
      Only [.regs, .sys, .clk] s t) ∧
  (∀ (s : State),
    Answers .refinValid s fun t =>
      t.clk.refin = true ∧
      (t.clk.root = (if s.clk.root = .off ∧ s.sys.powerGood = true then .search else s.clk.root)) ∧
      OnlyRegs [R.CLK_STAT] s t ∧
      Only [.regs, .clk] s t) ∧
  (∀ (s : State) (straps : BitVec 8) (dbgsel : Bool),
    s.sys.inReset = true →
    s.sys.powerGood = true →
    s.clk.root = .locked →
    Answers (.releaseOfReset straps dbgsel) s fun t =>
      t.sys.inReset = false ∧
      t.sys.dbgsel = dbgsel ∧
      t.get F.SYS_ADDR_POS = straps.toNat ∧
      (t.get F.IMG_STAT_STAGE = (if s.flt.lockout then 13 else 1)) ∧
      t.num R.MTR_SERIES = (s.vault.series + 1) % 2 ^ 32 ∧
      (t.get F.SYS_VAULT_STAT_LOST = (if s.vault.lost then 1 else s.get F.SYS_VAULT_STAT_LOST)) ∧
      Only [.regs, .sys, .vault, .clk, .lnk, .tim, .pwm, .gd, .dpx, .flt, .mtr, .out] s t)

/-- The switch-over sets ONBAT and keeps the other fields of SYS_VAULT_STAT; a second adds one to the counter, whose
low word SYS_VSEC_LO then reads; a stopped crystal sets XTAL_FAIL and keeps the other fields; a tamper pulse that
returns sets the run of missed pulses to 0, and the second one missed in a row sets TAMPER, adds a pending log record
unless four wait, and raises 0x0108 with FC1 on a node out of reset with fewer than four waiting; a loss of the vault
state on a node in reset restarts the counter at zero, drops the pending records and keeps the event log. That the
event fires at the second miss only, and that "running" means out of reset, are the model's readings (log entry 6).
(R73, R74, R76, R91, R457, R507) -/
def Obligations.VaultCountsAndEvents : Prop :=
  (∀ (s : State) (toBat : Bool),
    Answers (.vaultSwitchOver toBat) s fun t =>
      t.get F.SYS_VAULT_STAT_ONBAT = b2n toBat ∧
      t.get F.SYS_VAULT_STAT_XTAL_FAIL = s.get F.SYS_VAULT_STAT_XTAL_FAIL ∧
      t.get F.SYS_VAULT_STAT_TAMPER = s.get F.SYS_VAULT_STAT_TAMPER ∧
      t.get F.SYS_VAULT_STAT_LOST = s.get F.SYS_VAULT_STAT_LOST ∧
      OnlyRegs [R.SYS_VAULT_STAT] s t ∧
      Only [.regs] s t) ∧
  (∀ (s : State),
    Answers .vaultSecond s fun t =>
      t.vault.sec = s.vault.sec + 1 ∧
      t.num R.SYS_VSEC_LO = (s.vault.sec + 1).toNat % 2 ^ 32 ∧
      t.vault = { s.vault with sec := s.vault.sec + 1 } ∧
      OnlyRegs [R.SYS_VSEC_LO] s t ∧
      Only [.regs, .vault] s t) ∧
  (∀ (s : State),
    Answers .xtalFail s fun t =>
      t.get F.SYS_VAULT_STAT_XTAL_FAIL = 1 ∧
      t.get F.SYS_VAULT_STAT_ONBAT = s.get F.SYS_VAULT_STAT_ONBAT ∧
      t.get F.SYS_VAULT_STAT_TAMPER = s.get F.SYS_VAULT_STAT_TAMPER ∧
      t.get F.SYS_VAULT_STAT_LOST = s.get F.SYS_VAULT_STAT_LOST ∧
      OnlyRegs [R.SYS_VAULT_STAT] s t ∧
      Only [.regs] s t) ∧
  (∀ (s : State),
    Answers (.tamperPulse true) s fun t =>
      t.vault = { s.vault with missed := 0 } ∧
      Only [.vault] s t) ∧
  (∀ (s : State),
    s.vault.missed = 1 →
    Answers (.tamperPulse false) s fun t =>
      t.get F.SYS_VAULT_STAT_TAMPER = 1 ∧
      t.vault.missed = 2 ∧
      t.vault.logPend.length = Nat.min (s.vault.logPend.length + 1) (Nat.max 4 s.vault.logPend.length) ∧
      (s.sys.inReset = false → s.vault.logPend.length < 4 → Raised s t 0x0108 1) ∧
      FaultFrame [R.SYS_VAULT_STAT, R.THM_LOG_STAT] s t ∧
      Only [.regs, .vault, .clk, .tim, .pwm, .gd, .flt, .out] s t) ∧
  (∀ (s : State),
    s.sys.inReset = true →
    Answers .vaultStateLost s fun t =>
      t.vault.sec = 0 ∧
      t.vault.lost = true ∧
      t.vault.logPend = [] ∧
      t.vault.logMem = s.vault.logMem ∧
      t.rd R.SYS_VAULT_STAT = 0 ∧
      t.rd R.SYS_VSEC_LO = 0 ∧
      t.rd R.SYS_VSEC_HI = 0 ∧
      OnlyRegs [R.SYS_VAULT_STAT, R.SYS_VSEC_LO, R.SYS_VSEC_HI] s t ∧
      Only [.regs, .vault] s t)

/-- Lock declared in SEARCH with REFIN takes the root to LOCKED, with any band. A loss of REFIN outside a reference
wait takes LOCKED and REACQUIRE to HOLDOVER, from where HOLD_MAX runs, and raises FC1. A return within 100 ppm takes
HOLDOVER to REACQUIRE, and one outside changes nothing. REACQUIRE ends in LOCKED once the pull, which SLOPE paces, has
brought the error below 0.05 ppm. CLK_STAT.STATE shows the state each time. (R77, R78, R79, R80, R91) -/
def Obligations.RootPllTransitions : Prop :=
  (∀ (s : State),
    s.clk.root = .search →
    s.clk.refin = true →
    Answers .lockDeclared s fun t =>
      t.clk = { s.clk with root := .locked, refWait := none } ∧
      t.get F.CLK_STAT_STATE = 1 ∧
      t.get F.CLK_STAT_SOURCE = s.get F.CLK_STAT_SOURCE ∧
      t.get F.CLK_STAT_BAND = (Config.freeBand s.free).toNat ∧
      OnlyRegs [R.CLK_STAT] s t ∧
      Only [.regs, .clk, .free] s t) ∧
  (∀ (s : State),
    s.sys.inReset = false →
    s.clk.root = .locked ∨ s.clk.root = .reacquire →
    s.clk.refWait = none →
    Answers .lossOfRefin s fun t =>
      t.clk.root = .holdover ∧
      t.clk.refin = false ∧
      t.clk.holdAt = some s.sys.up ∧
      t.get F.CLK_STAT_STATE = 2 ∧
      Raised s t 0x0105 1 ∧
      FaultFrame [] s t ∧
      Only [.regs, .clk, .tim, .pwm, .gd, .flt, .out] s t) ∧
  (∀ (s : State) (mppm : Int),
    s.clk.root = .holdover →
    mppm.natAbs ≤ 100000 →
    Answers (.refinReturn mppm) s fun t =>
      t.clk.root = .reacquire ∧
      t.clk.refin = true ∧
      t.clk.fErr = Frac.mk' mppm 1000 ∧
      t.clk.absorbed = false ∧
      t.clk.holdAt = none ∧
      t.get F.CLK_STAT_STATE = 3 ∧
      OnlyRegs [R.CLK_STAT] s t ∧
      Only [.regs, .clk] s t) ∧
  (∀ (s : State) (mppm : Int),
    s.clk.root = .holdover →
    100000 < mppm.natAbs →
    Answers (.refinReturn mppm) s fun t =>
      t = s) ∧
  (∀ (s : State),
    s.clk.root = .reacquire →
    s.clk.fErr.abs.blt (Frac.mk' 5 100) = true ∨ s.get F.CLK_SLEW_SLOPE ≠ 0 →
    Answers .reacquireComplete s fun t =>
      t.clk = { (s.runTicks s.pullTicks).clk with root := .locked } ∧
      t.get F.CLK_STAT_STATE = 1 ∧
      OnlyRegs [R.CLK_STAT] (s.runTicks s.pullTicks) t ∧
      Only [.regs, .clk] (s.runTicks s.pullTicks) t)

/-- A loss of lock in LOCKED, HOLDOVER or REACQUIRE with the phase step absorbed takes the root to SEARCH; it, and a
loss of the timebase that the clock monitor finds, halt the lattice, set PWM_STAT.TBLOSS, raise FC3, and leave the
node out of service with no leg in RUN. HOLD_MAX, on its own time, raises FC3 on a node in service and keeps HOLDOVER
unless the FC3 brings the lockout; out of service and outside a reference wait it takes the root to SEARCH, halts the
lattice, sets TBLOSS, leaves stage and collector as they are, and no leg in RUN. A reference wait that ends without a
reference, on its own time, makes the HEAD the source, takes the root to SEARCH, halts the lattice and sets TBLOSS,
leaves the stage as it is, and no leg in RUN. (R78, R79, R81, R89, R304, R312, R314, R457, R582) -/
def Obligations.TimebaseLossHaltsLegs : Prop :=
  (∀ (s : State),
    s.sys.inReset = false →
    s.clk.root = .locked ∨ s.clk.root = .holdover ∨ s.clk.root = .reacquire ∧ s.clk.absorbed = true →
    Answers .lossOfLock s fun t =>
      t.clk.root = .search ∧
      t.clk.holdAt = none ∧
      t.get F.CLK_STAT_STATE = 0 ∧
      t.pwm.halted = true ∧
      t.get F.PWM_STAT_TBLOSS = 1 ∧
      Raised s t 0x0107 3 ∧
      t.inService = false ∧
      (∀ n : Fin 6, LegStopped t n) ∧
      Only [.regs, .clk, .lnk, .tim, .pwm, .gd, .flt, .bal, .out] s t) ∧
  (∀ (s : State),
    s.sys.inReset = false →
    Answers .timebaseLoss s fun t =>
      t.pwm.halted = true ∧
      t.get F.PWM_STAT_TBLOSS = 1 ∧
      Raised s t 0x0107 3 ∧
      t.inService = false ∧
      (∀ n : Fin 6, LegStopped t n) ∧
      Only [.regs, .clk, .lnk, .tim, .pwm, .gd, .flt, .bal, .out] s t) ∧
  (∀ (s : State) (n : Nat),
    s.sys.inReset = false →
    s.clk.root = .holdover →
    s.clk.holdAt = some n →
    s.inService = true →
    Answers .holdMaxExpiry s fun t =>
      t.clk.root = .holdover ∨ t.flt.lockout = true ∧
      t.clk.holdAt = none ∧
      Raised s t 0x0106 3 ∧
      FaultFrame [] (s.runUp (n + msTicks (s.get F.CLK_HOLD_HOLD_MAX))) t ∧
      Only [.regs, .clk, .tim, .pwm, .gd, .flt, .out] (s.runUp (n + msTicks (s.get F.CLK_HOLD_HOLD_MAX))) t) ∧
  (∀ (s : State) (n : Nat),
    s.sys.inReset = false →
    s.clk.root = .holdover →
    s.clk.holdAt = some n →
    s.clk.refWait = none →
    s.inService = false →
    Answers .holdMaxExpiry s fun t =>
      t.clk.root = .search ∧
      t.pwm.halted = true ∧
      t.get F.PWM_STAT_TBLOSS = 1 ∧
      t.stage = s.stage ∧
      t.flt = (s.runUp (n + msTicks (s.get F.CLK_HOLD_HOLD_MAX))).flt ∧
      (∀ n : Fin 6, LegStopped t n) ∧
      Only [.regs, .clk, .pwm, .gd] (s.runUp (n + msTicks (s.get F.CLK_HOLD_HOLD_MAX))) t) ∧
  (∀ (s : State) (n : Nat),
    s.sys.inReset = false →
    s.clk.refWait = some n →
    Answers .referenceWaitEnd s fun t =>
      t.clk.root = .search ∧
      t.clk.refWait = none ∧
      t.get F.CLK_STAT_SOURCE = 1 ∧
      t.clk.refselHigh = true ∧
      t.clk.cko0Auto = true ∧
      t.pwm.halted = true ∧
      t.get F.PWM_STAT_TBLOSS = 1 ∧
      t.stage = s.stage ∧
      (∀ n : Fin 6, LegStopped t n) ∧
      Only [.regs, .clk, .pwm, .gd] (s.runUp (n + msTicks s.refWaitMs)) t)

/-- At event E0 of a running channel, on its own tick, with no shadow held and the period shadow in range, the period,
the converted phase and the converted duty take effect, the period has the length of R300, and the compares are to
fire. An ARMED leg that is no bypass driver, with duty and phase in ticks and no L2 latch, enters RUN, and waits for
its first turn-on exactly when it is COMPLEMENTARY. With HOLD nothing transfers and the period has the length of the
period in force. A period shadow out of range does not transfer, sets PER_ERR and raises FC1. A channel that is
disabled or HALTED does nothing. (R290, R293, R297, R298, R300, R301, R304, R305) -/
def Obligations.CarrierStartTransfers : Prop :=
  (∀ (s : State) (ch : Fin 8) (tk : Nat),
    s.sys.inReset = false →
    s.chanRuns ch = true →
    s.nextE0 ch = some tk →
    (s.atE0 ch).shadowsHeld ch = false →
    perMin ≤ ((s.atE0 ch).shadow ch (R.PWM_LCHn_PER ch)).toNat →
    Answers (.carrierStart ch) s fun t =>
      t.rd (R.PWM_LCHn_PER_ACT ch) = (s.atE0 ch).shadow ch (R.PWM_LCHn_PER ch) ∧
      t.rd (R.PWM_LCHn_PH_ACT ch) = BitVec.ofNat 32 ((s.atE0 ch).phaseShadow ch ((s.atE0 ch).shadow ch (R.PWM_LCHn_PER ch)).toNat).1 ∧
      t.rd (R.PWM_LCHn_DUTY_ACT ch) = BitVec.ofNat 32 ((s.atE0 ch).dutyShadow ch ((s.atE0 ch).shadow ch (R.PWM_LCHn_PER ch)).toNat).1 ∧
      (t.chan ch).len = e0Length (s.atE0 ch) ch ∧
      t.rd (R.PWM_LCHn_LEN ch) = BitVec.ofNat 32 (e0Length (s.atE0 ch) ch) ∧
      (t.chan ch).e0 = tk ∧
      (t.chan ch).fired = 0 ∧
      (∀ n : Fin 8, n ≠ ch → t.chan n = s.chan n) ∧
      Only [.regs, .clk, .rng, .tim, .pwm, .gd, .flt, .eng, .adc, .sup, .out] (s.atE0 ch) t) ∧
  (∀ (s : State) (ch : Fin 6),
    s.sys.inReset = false →
    s.chanRuns ch = true →
    (s.nextE0 ch).isSome = true →
    (s.atE0 ch).shadowsHeld ch = false →
    perMin ≤ ((s.atE0 ch).shadow ch (R.PWM_LCHn_PER ch)).toNat →
    s.flag (F.PWM_LCHn_CFG_DSRC ch) = false →
    s.flag (F.PWM_LCHn_CFG_PSRC ch) = false →
    s.flag (F.GD_LEGn_STAT_L2_LATCH ch) = false →
    (s.atE0 ch).legState ch = LegState.armed →
    s.bypassLeg ch = false →
    (s.leg ch).pend = none →
    Answers (.carrierStart ⟨ch.val, by omega⟩) s fun t =>
      t.legState ch = LegState.run ∧
      (t.leg ch).pend.isSome = (s.get (F.PWM_LCHn_CFG_OUTM ch) == 1) ∧
      t.flt = (s.atE0 ch).flt) ∧
  (∀ (s : State) (ch : Fin 8),
    s.sys.inReset = false →
    s.chanRuns ch = true →
    s.flag (F.PWM_LCHn_CTRL_HOLD ch) = true →
    s.num (R.PWM_LCHn_PER_ACT ch) ≠ 0 →
    Answers (.carrierStart ch) s fun t =>
      t.rd (R.PWM_LCHn_PER_ACT ch) = s.rd (R.PWM_LCHn_PER_ACT ch) ∧
      t.rd (R.PWM_LCHn_PH_ACT ch) = s.rd (R.PWM_LCHn_PH_ACT ch) ∧
      t.rd (R.PWM_LCHn_DUTY_ACT ch) = s.rd (R.PWM_LCHn_DUTY_ACT ch) ∧
      t.rd (R.PWM_LCHn_LEN ch) = s.rd (R.PWM_LCHn_PER_ACT ch) ∧
      (t.chan ch).len = s.num (R.PWM_LCHn_PER_ACT ch)) ∧
  (∀ (s : State) (ch : Fin 8),
    s.sys.inReset = false →
    s.chanRuns ch = true →
    (s.atE0 ch).shadowsHeld ch = false →
    ((s.atE0 ch).shadow ch (R.PWM_LCHn_PER ch)).toNat < perMin →
    Answers (.carrierStart ch) s fun t =>
      t.rd (R.PWM_LCHn_PER_ACT ch) = s.rd (R.PWM_LCHn_PER_ACT ch) ∧
      t.get (F.PWM_LCHn_STAT_PER_ERR ch) = 1 ∧
      Raised (s.atE0 ch) t 0x0904 1) ∧
  (∀ (s : State) (ch : Fin 8),
    s.chanRuns ch = false →
    Answers (.carrierStart ch) s fun t =>
      t = s)

/-- Each of E1, E2 and E3 that is still to come in its period is taken at its own tick and marked as fired. At E1 the
duty of a channel with RLD_MID and no shadow held reloads, and period, phase and length stay. E2 makes the leg command
1 exactly when the duty is not 0, unless E3 has come before it, and E3 makes it 0. A change of the command to 1 on a
COMPLEMENTARY leg in RUN without an L2 latch turns both switches off and leaves the high side to turn on when the dead
time is over; at the end of the dead interval the waiting switch turns on. (R293, R294, R298, R303) -/
def Obligations.LatticeEventsWithinPeriod : Prop :=
  (∀ (s : State) (ch : Fin 8),
    s.sys.inReset = false →
    s.chanRuns ch = true →
    s.flag (F.PWM_LCHn_CFG_RLD_MID ch) = true →
    s.eventAhead ch 1 ((s.chan ch).len0 / 2) = true →
    (s.atEvent ch ((s.chan ch).len0 / 2)).shadowsHeld ch = false →
    Answers (.carrierMidpoint ch) s fun t =>
      t.rd (R.PWM_LCHn_DUTY_ACT ch) = BitVec.ofNat 32 ((s.atEvent ch ((s.chan ch).len0 / 2)).dutyShadow ch (s.num (R.PWM_LCHn_PER_ACT ch))).1 ∧
      t.rd (R.PWM_LCHn_PER_ACT ch) = s.rd (R.PWM_LCHn_PER_ACT ch) ∧
      t.rd (R.PWM_LCHn_PH_ACT ch) = s.rd (R.PWM_LCHn_PH_ACT ch) ∧
      t.rd (R.PWM_LCHn_LEN ch) = s.rd (R.PWM_LCHn_LEN ch) ∧
      (t.chan ch).e0 = (s.chan ch).e0 ∧
      bit (t.chan ch).fired 1 = true ∧
      (∀ n : Fin 8, n ≠ ch → t.chan n = s.chan n) ∧
      Only [.regs, .clk, .rng, .tim, .pwm, .gd, .flt, .eng, .adc, .sup, .out] (s.atEvent ch ((s.chan ch).len0 / 2)) t) ∧
  (∀ (s : State) (ch : Fin 8),
    s.sys.inReset = false →
    s.chanRuns ch = true →
    s.flag (F.PWM_LCHn_CFG_RLD_MID ch) = false →
    s.eventAhead ch 1 ((s.chan ch).len0 / 2) = true →
    Answers (.carrierMidpoint ch) s fun t =>
      t.chan ch = { s.chan ch with fired := setBit (s.chan ch).fired 1 true } ∧
      (∀ n : Fin 8, n ≠ ch → t.chan n = s.chan n) ∧
      Only [.pwm, .eng, .adc] (s.atEvent ch ((s.chan ch).len0 / 2)) t) ∧
  (∀ (s : State) (ch : Fin 8),
    s.sys.inReset = false →
    s.chanRuns ch = true →
    s.eventAhead ch 2 (s.chan ch).cmp0 = true →
    Answers (.compareEvent ch false) s fun t =>
      ((t.chan ch).h = (if bit (s.chan ch).fired 3 then (s.chan ch).h else (s.chan ch).duty != 0)) ∧
      (t.chan ch).fired = setBit (s.chan ch).fired 2 true ∧
      (∀ n : Fin 8, n ≠ ch → t.chan n = s.chan n) ∧
      Only [.regs, .clk, .rng, .tim, .pwm, .gd, .flt, .eng, .adc, .sup, .out] (s.atEvent ch (s.chan ch).cmp0) t) ∧
  (∀ (s : State) (ch : Fin 8),
    s.sys.inReset = false →
    s.chanRuns ch = true →
    s.eventAhead ch 3 (s.chan ch).cmp1 = true →
    (s.chan ch).duty < (s.chan ch).len0 →
    Answers (.compareEvent ch true) s fun t =>
      (t.chan ch).h = false ∧
      (t.chan ch).fired = setBit (s.chan ch).fired 3 true ∧
      (∀ n : Fin 8, n ≠ ch → t.chan n = s.chan n) ∧
      Only [.regs, .clk, .rng, .tim, .pwm, .gd, .flt, .eng, .adc, .sup, .out] (s.atEvent ch (s.chan ch).cmp1) t) ∧
  (∀ (s : State) (ch : Fin 6),
    s.sys.inReset = false →
    s.chanRuns ch = true →
    s.eventAhead ch 2 (s.chan ch).cmp0 = true →
    s.legState ch = LegState.run →
    s.bypassLeg ch = false →
    s.get (F.PWM_LCHn_CFG_OUTM ch) = 1 →
    s.flag (F.GD_LEGn_STAT_L2_LATCH ch) = false →
    (s.chan ch).h = false ∧ (s.chan ch).duty ≠ 0 ∧ bit (s.chan ch).fired 3 = false →
    (s.atEvent ch (s.chan ch).cmp0).legState ch = LegState.run →
    Answers (.compareEvent ⟨ch.val, by omega⟩ false) s fun t =>
      t.leg ch = { hi := false, lo := false, pend := some .high, due := (s.chan ch).e0 + (s.chan ch).cmp0 + (s.chan ch).dtLH } ∧
      t.flt = (s.atEvent ch (s.chan ch).cmp0).flt ∧
      Only [.regs, .pwm, .gd, .eng, .adc] (s.atEvent ch (s.chan ch).cmp0) t) ∧
  (∀ (s : State) (leg : Fin 6) (sw : Sw),
    s.sys.inReset = false →
    s.legState leg = LegState.run →
    (s.leg leg).pend = some sw →
    Answers (.deadIntervalEnd leg) s fun t =>
      t.leg leg = (match sw with | .low => { (s.runToTick (s.leg leg).due).leg leg with lo := true, pend := none } | .high => { (s.runToTick (s.leg leg).due).leg leg with hi := true, pend := none }) ∧
      (∀ n : Fin 6, n ≠ leg → t.leg n = (s.runToTick (s.leg leg).due).leg n) ∧
      Only [.pwm, .gd] (s.runToTick (s.leg leg).due) t)

/-- A write of a shadow stores the value, which a reload of the same fabric cycle does not yet see, and sets DEFER
when it lands in the fabric cycle of its reload; a write of PWM_LCHn_CTRL stores its three bits and puts the leg at
once into the state of R304; the counter clear clears the counters of R317 alone. A debug halt, with DBGSEL high,
halts the lattice, leaves no leg in RUN and raises FC0; its end clears HALT and keeps the lattice as it is; a REARM of
the management processor without HALT and with a root that holds a timebase takes every leg out of HALTED and clears
TBLOSS, and any other REARM sets REARM_REF and leaves the lattice as it was. (R240, R298, R304, R305, R312, R313,
R316, R317, R529) -/
def Obligations.LatticeWrites : Prop :=
  (∀ (s : State) (ch : Fin 8) (reg : ShadowReg) (v : Word),
    s.sys.inReset = false →
    Answers (.pwmShadowWrite ch reg v) s fun t =>
      t.rd (shadowAddr ch reg) = v ∧
      t.shadow ch (shadowAddr ch reg) = s.shadow ch (shadowAddr ch reg) ∧
      (t.get (F.PWM_LCHn_STAT_DEFER ch) = (if (match reg with | .per => (s.chan ch).lastE0 | .ph => (s.chan ch).lastE0 | .pfrac => (s.chan ch).lastE0 | _ => (s.chan ch).lastDuty) = some s.fab then 1 else s.get (F.PWM_LCHn_STAT_DEFER ch))) ∧
      t.legState ch = s.legState ch ∧
      OnlyRegs [shadowAddr ch reg, R.PWM_LCHn_STAT ch] s t ∧
      Only [.regs, .pwm] s t) ∧
  (∀ (s : State) (ch : Fin 8) (v : Word),
    s.sys.inReset = false →
    Answers (.pwmCtrlWrite ch v) s fun t =>
      t.rd (R.PWM_LCHn_CTRL ch) = v &&& 7 ∧
      (ch.val < 6 → t.legState ch = (s.wr (R.PWM_LCHn_CTRL ch) (v &&& 7)).legNext ch) ∧
      OnlyRegs [R.PWM_LCHn_CTRL ch, R.PWM_LCHn_STAT ch] s t ∧
      Only [.regs, .pwm, .gd] s t) ∧
  (∀ (s : State),
    s.sys.inReset = false →
    Answers .pwmCntClr s fun t =>
      t.rd R.PWM_TRP_BLANKED = 0 ∧
      t.get F.PWM_CLR_LOG_REFUSALS = 0 ∧
      (∀ n : Fin 8, t.get (F.PWM_LCHn_STAT_RESYNCS n) = 0 ∧ t.legState n = s.legState n) ∧
      OnlyRegs ([R.PWM_TRP_BLANKED, R.PWM_CLR_LOG] ++ (List.range 8).map R.PWM_LCHn_STAT) s t ∧
      Only [.regs] s t) ∧
  (∀ (s : State),
    s.sys.inReset = false →
    s.sys.dbgsel = true ∧ s.flag F.PWM_STAT_HALT = false →
    Answers .debugHalt s fun t =>
      t.get F.PWM_STAT_HALT = 1 ∧
      t.pwm.halted = true ∧
      (∀ n : Fin 6, LegStopped t n) ∧
      Raised s t 0x0905 0 ∧
      FaultFrame [R.PWM_STAT] s t ∧
      Only [.regs, .clk, .tim, .pwm, .gd, .flt, .eng, .out] s t) ∧
  (∀ (s : State),
    s.sys.inReset = false →
    Answers .debugHaltEnd s fun t =>
      t.get F.PWM_STAT_HALT = 0 ∧
      t.get F.PWM_STAT_TBLOSS = s.get F.PWM_STAT_TBLOSS ∧
      OnlyRegs [R.PWM_STAT] s t ∧
      Only [.regs] s t) ∧
  (∀ (s : State) (m : Master),
    s.sys.inReset = false →
    s.mastersRun m = true →
    s.asMp m = true →
    s.flag F.PWM_STAT_HALT = false →
    s.clk.root = .locked ∨ s.clk.root = .holdover ∨ s.clk.root = .reacquire →
    Answers (.rearm m) s fun t =>
      t.pwm.halted = false ∧
      t.get F.PWM_STAT_TBLOSS = 0 ∧
      (∀ n : Fin 6, t.legState n ≠ LegState.halted) ∧
      t.rd R.SYS_VIOL_CNT = s.rd R.SYS_VIOL_CNT ∧
      Only [.regs, .clk, .pwm, .gd] s t) ∧
  (∀ (s : State) (m : Master),
    s.sys.inReset = false →
    s.mastersRun m = true →
    s.asMp m = false ∨ s.flag F.PWM_STAT_HALT = true ∨ s.clk.root = .off ∨ s.clk.root = .search →
    Answers (.rearm m) s fun t =>
      t.get F.PWM_STAT_REARM_REF = 1 ∧
      t.get F.PWM_STAT_TBLOSS = s.get F.PWM_STAT_TBLOSS ∧
      t.pwm = s.pwm ∧
      OnlyRegs [R.PWM_STAT, R.SYS_VIOL_CNT, R.SYS_VIOL_LAST] s t ∧
      Only [.regs] s t)

/-- An enabled input that becomes active and is not blanked takes every enabled group it maps to into TRIPPED, and is
latched and raised with FC2 when it trips one; a blanked one changes no group and waits. An input that becomes
inactive changes no group, and is counted when its blanking window has not ended. At the end of a window the inputs
that waited for that channel trip their groups. A clear takes a group out of TRIPPED exactly when it is named and
enabled, no mapped input holds it active and it did not trip in this fabric cycle; a named and enabled group that one
of the two keeps is raised as FC0 and the input levels are logged. (R308, R309, R310, R311, R316) -/
def Obligations.TripsAndGroups : Prop :=
  (∀ (s : State) (k : Fin 8),
    s.sys.inReset = false →
    s.flag (F.PWM_TRPk_CFG_EN k) = true →
    bit (s.get F.PWM_TRP_LVL_LVL) k = false →
    s.isBlanked k = false →
    Answers (.tripInputActive k) s fun t =>
      bit (t.get F.PWM_TRP_LVL_LVL) k = true ∧
      (∀ g : Fin 8, bit (t.get F.PWM_GRP_STAT_TRIPPED) g = (bit (s.get F.PWM_GRP_STAT_TRIPPED) g || bit (s.groupsOf k) g)) ∧
      ((∃ g : Fin 8, bit (s.groupsOf k) g = true ∧ bit (s.get F.PWM_GRP_STAT_TRIPPED) g = false) → bit (t.get F.PWM_TRP_LATCH_LATCH) k = true ∧ HasCause t 0x0901 2 = true) ∧
      FaultFrame [R.PWM_TRP_LVL, R.PWM_GRP_STAT, R.PWM_TRP_LATCH] s t ∧
      Only [.regs, .clk, .tim, .pwm, .gd, .flt, .out] s t) ∧
  (∀ (s : State) (k : Fin 8),
    s.sys.inReset = false →
    s.flag (F.PWM_TRPk_CFG_EN k) = true →
    bit (s.get F.PWM_TRP_LVL_LVL) k = false →
    s.isBlanked k = true →
    Answers (.tripInputActive k) s fun t =>
      bit (t.get F.PWM_TRP_LVL_LVL) k = true ∧
      bit t.pwm.blanked k = true ∧
      t.get F.PWM_GRP_STAT_TRIPPED = s.get F.PWM_GRP_STAT_TRIPPED ∧
      OnlyRegs [R.PWM_TRP_LVL, R.PWM_GRP_STAT] s t ∧
      Only [.regs, .pwm] s t) ∧
  (∀ (s : State) (k : Fin 8),
    s.sys.inReset = false →
    bit (s.get F.PWM_TRP_LVL_LVL) k = true →
    Answers (.tripInputInactive k) s fun t =>
      bit (t.get F.PWM_TRP_LVL_LVL) k = false ∧
      bit t.pwm.blanked k = false ∧
      t.get F.PWM_GRP_STAT_TRIPPED = s.get F.PWM_GRP_STAT_TRIPPED ∧
      (t.num R.PWM_TRP_BLANKED = (if bit s.pwm.blanked k then satAdd 0xFFFFFFFF (s.num R.PWM_TRP_BLANKED) 1 else s.num R.PWM_TRP_BLANKED)) ∧
      OnlyRegs [R.PWM_TRP_LVL, R.PWM_GRP_STAT, R.PWM_TRP_BLANKED] s t ∧
      Only [.regs, .pwm] s t) ∧
  (∀ (s : State) (ch : Fin 8),
    s.sys.inReset = false →
    (s.chan ch).h = false →
    Answers (.blankingEnd ch) s fun t =>
      (∀ k : Fin 8, bit t.pwm.blanked k = (bit s.pwm.blanked k && !(s.flag (F.PWM_TRPk_CFG_BLK_EN k) && s.get (F.PWM_TRPk_CFG_BLK_LCH k) == ch.val))) ∧
      (∀ k g : Fin 8, bit s.pwm.blanked k = true → s.flag (F.PWM_TRPk_CFG_BLK_EN k) = true → s.get (F.PWM_TRPk_CFG_BLK_LCH k) = ch.val → bit (s.groupsOf k) g = true → bit (t.get F.PWM_GRP_STAT_TRIPPED) g = true) ∧
      FaultFrame [R.PWM_GRP_STAT, R.PWM_TRP_LATCH] s t ∧
      Only [.regs, .clk, .tim, .pwm, .gd, .flt, .out] s t) ∧
  (∀ (s : State) (groups : BitVec 8),
    s.sys.inReset = false →
    Answers (.groupClear groups) s fun t =>
      (∀ g : Fin 8, bit (t.get F.PWM_GRP_STAT_TRIPPED) g = (bit (s.get F.PWM_GRP_STAT_TRIPPED) g && !(bit groups.toNat g && s.flag (F.PWM_GRPg_LEGS_EN g) && !bit s.groupsActive g && !(Bank.at 0 s.pwm.tripAt g.val == s.fab + 1)))) ∧
      ((∃ g : Fin 8, bit groups.toNat g = true ∧ s.flag (F.PWM_GRPg_LEGS_EN g) = true ∧ (bit s.groupsActive g = true ∨ Bank.at 0 s.pwm.tripAt g.val = s.fab + 1)) → Raised s t 0x0902 0 ∧ t.get F.PWM_CLR_LOG_INPUTS = s.get F.PWM_TRP_LVL_LVL) ∧
      FaultFrame [R.PWM_GRP_STAT, R.PWM_CLR_LOG] s t ∧
      Only [.regs, .clk, .rng, .tim, .pwm, .gd, .flt, .sup, .out] s t)

/-- u is the state at the end of the time the event waits for: the blanking, the soft turn-off or WAIT. A short
circuit on a NORMAL channel that is on takes it to SOFTOFF with its gate off, counts an L1 fault, escalates exactly
when the tries are exhausted, and else raises FC2; on a bypass leg it raises FC1, the channel stays NORMAL and no L1
fault is counted. At the end of the soft turn-off the channel enters ESCAL when its tries were exhausted, with FC3
where they were its own, NORMAL after a shoot-through with no cause that persists, and else WAIT. When WAIT expires
the channel returns to NORMAL unless a cause persists; one that persists counts an L1 fault and keeps WAIT with FC2,
or goes to ESCAL with FC3 when the tries are exhausted. (R332, R333, R334, R335, R336, R339, R343, R347) -/
def Obligations.SwitchFaultsTurnOff : Prop :=
  (∀ (s u : State) (leg : Fin 6) (sw : Sw),
    s.sys.inReset = false ∧ s.raises = [] →
    u = s.runAfter (s.gate (chanNo leg sw)).cmdAt (s.get (blankFld leg sw) * 20) →
    s.gdOn leg sw = true →
    s.flag (scEnFld leg sw) = true →
    (s.gate (chanNo leg sw)).on = true →
    s.gdState leg sw = GdState.normal →
    s.bypassLeg leg = false →
    s.gdState leg (otherSw sw) ≠ GdState.softoff →
    Answers (.shortCircuit leg sw) s fun t =>
      t.gdState leg sw = GdState.softoff ∧
      t.gdState leg (otherSw sw) = s.gdState leg (otherSw sw) ∧
      t.get (scFlagFld leg sw) = 1 ∧
      t.get (l1CntFld leg sw) = satAdd 255 (s.get (l1CntFld leg sw)) 1 ∧
      (t.gate (chanNo leg sw)).escalate = l1Escalates u leg sw ∧
      (t.gate (chanNo leg sw)).on = false ∧
      (l1Escalates u leg sw = false → HasCause t 0x0A01 2 = true) ∧
      FaultFrame [R.GD_STAT, R.GD_LEGn_STAT leg, R.GD_LEGn_CNT leg] u t ∧
      Only [.regs, .clk, .tim, .pwm, .gd, .flt, .out] u t) ∧
  (∀ (s u : State) (leg : Fin 6) (sw : Sw),
    s.sys.inReset = false ∧ s.raises = [] →
    u = s.runAfter (s.gate (chanNo leg sw)).cmdAt (s.get (blankFld leg sw) * 20) →
    s.gdOn leg sw = true →
    s.flag (scEnFld leg sw) = true →
    (s.gate (chanNo leg sw)).on = true →
    s.gdState leg sw = GdState.normal →
    s.bypassLeg leg = true →
    Answers (.shortCircuit leg sw) s fun t =>
      t.gdState leg sw = GdState.normal ∧
      t.get (scFlagFld leg sw) = 1 ∧
      Raised u t 0x0A07 1 ∧
      t.get (l1CntFld leg sw) = s.get (l1CntFld leg sw) ∧
      Only [.regs, .clk, .tim, .pwm, .gd, .flt, .out] u t) ∧
  (∀ (s u : State) (leg : Fin 6) (sw : Sw),
    s.sys.inReset = false ∧ s.raises = [] →
    u = s.runAfter (s.gate (chanNo leg sw)).since (s.get (softFld leg sw) * 250) →
    s.gdState leg sw = GdState.softoff →
    Answers (.softTurnOffEnd leg sw) s fun t =>
      (t.gdState leg sw = (if (u.gate (chanNo leg sw)).escalate || (u.gate (chanNo leg sw)).l2esc then GdState.escal else if (u.gate (chanNo leg sw)).shoot && !(u.gate (chanNo leg sw)).persists then GdState.normal else GdState.wait)) ∧
      ((u.gate (chanNo leg sw)).escalate = true → t.get (F.GD_LEGn_STAT_ESC leg) = 1 ∧ HasCause t 0x0A04 3 = true) ∧
      (t.gate (chanNo leg sw)).escalate = false ∧ (t.gate (chanNo leg sw)).l2esc = false ∧ (t.gate (chanNo leg sw)).shoot = false ∧
      Only [.regs, .clk, .rng, .tim, .pwm, .gd, .flt, .sup, .out] u t) ∧
  (∀ (s u : State) (leg : Fin 6) (sw : Sw),
    s.sys.inReset = false ∧ s.raises = [] →
    u = s.runAfter (s.gate (chanNo leg sw)).since (s.get (F.GD_LEGn_CFG_WAIT leg) * 10000) →
    s.gdState leg sw = GdState.wait →
    Answers (.waitExpiry leg sw) s fun t =>
      (t.gdState leg sw = (if (u.gate (chanNo leg sw)).persists = false then GdState.normal else if l1Escalates u leg sw then GdState.escal else GdState.wait)) ∧
      (t.get (l1CntFld leg sw) = (if (u.gate (chanNo leg sw)).persists then satAdd 255 (s.get (l1CntFld leg sw)) 1 else s.get (l1CntFld leg sw))) ∧
      ((u.gate (chanNo leg sw)).persists = true → l1Escalates u leg sw = true → HasCause t 0x0A04 3 = true) ∧
      ((u.gate (chanNo leg sw)).persists = true → l1Escalates u leg sw = false → HasCause t (u.gate (chanNo leg sw)).persistent.1 2 = true) ∧
      Only [.regs, .clk, .rng, .tim, .pwm, .gd, .flt, .sup, .out] u t)

/-- A bootstrap undervoltage in NORMAL and a charge time-out in CHARGE, 10 ms from the leg's first RUN, set their
flag, count one L1 fault of the high side and take it to WAIT with FC2, or to ESCAL with FC3 when the tries are
exhausted; a charge time-out on a bypass leg raises FC3, and the channel keeps its state and counts no L1 fault. A
charged bootstrap takes CHARGE to NORMAL. An undervoltage of VDRV or VNEG sets its flags at every low side that is
driven, and takes a NORMAL one that is on no bypass leg to WAIT, or to ESCAL when the tries are exhausted; its end
clears the marks of the low sides and changes no channel state. (R328, R329, R330, R334, R336, R343, R347) -/
def Obligations.SupplyFaults : Prop :=
  (∀ (s : State) (leg : Fin 6),
    s.sys.inReset = false ∧ s.raises = [] →
    s.gdOn leg .high = true →
    s.gdState leg .high = GdState.normal →
    (s.gate (chanNo leg .high)).uvBs = false →
    s.bypassLeg leg = false →
    Answers (.bootstrapUndervoltage leg) s fun t =>
      t.get (F.GD_LEGn_STAT_UV_BS leg) = 1 ∧
      t.get (l1CntFld leg .high) = satAdd 255 (s.get (l1CntFld leg .high)) 1 ∧
      (t.gdState leg .high = (if l1Escalates s leg .high then GdState.escal else GdState.wait)) ∧
      (HasCause t (if l1Escalates s leg .high then 0x0A04 else 0x0A02) (if l1Escalates s leg .high then 3 else 2) = true) ∧
      FaultFrame [R.GD_STAT, R.GD_LEGn_STAT leg, R.GD_LEGn_CNT leg] s t ∧
      Only [.regs, .clk, .tim, .pwm, .gd, .flt, .out] s t) ∧
  (∀ (s u : State) (leg : Fin 6) (k : Nat),
    s.sys.inReset = false ∧ s.raises = [] →
    (s.gateLeg leg).runAt = some k ∧ u = s.runUp (k + msTicks 10) →
    s.gdOn leg .high = true →
    s.gdState leg .high = GdState.charge →
    (s.gate (chanNo leg .high)).uvBs = false →
    s.bypassLeg leg = false →
    Answers (.chargeTimeout leg) s fun t =>
      t.get (F.GD_LEGn_STAT_BS_TMO leg) = 1 ∧
      t.get (l1CntFld leg .high) = satAdd 255 (s.get (l1CntFld leg .high)) 1 ∧
      (t.gdState leg .high = (if l1Escalates u leg .high then GdState.escal else GdState.wait)) ∧
      (HasCause t (if l1Escalates u leg .high then 0x0A04 else 0x0A02) (if l1Escalates u leg .high then 3 else 2) = true) ∧
      FaultFrame [R.GD_STAT, R.GD_LEGn_STAT leg, R.GD_LEGn_CNT leg] u t ∧
      Only [.regs, .clk, .tim, .pwm, .gd, .flt, .out] u t) ∧
  (∀ (s u : State) (leg : Fin 6) (k : Nat),
    s.sys.inReset = false ∧ s.raises = [] →
    (s.gateLeg leg).runAt = some k ∧ u = s.runUp (k + msTicks 10) →
    s.gdOn leg .high = true →
    s.gdState leg .high = GdState.charge →
    (s.gate (chanNo leg .high)).uvBs = false →
    s.bypassLeg leg = true →
    Answers (.chargeTimeout leg) s fun t =>
      t.gdState leg .high = GdState.charge ∧
      t.get (F.GD_LEGn_STAT_BS_TMO leg) = 1 ∧
      HasCause t 0x0A08 3 = true ∧
      t.get (l1CntFld leg .high) = s.get (l1CntFld leg .high) ∧
      Only [.regs, .clk, .tim, .pwm, .gd, .flt, .out] u t) ∧
  (∀ (s : State) (leg : Fin 6),
    s.sys.inReset = false →
    s.gdOn leg .high = true →
    Answers (.bootstrapCharged leg) s fun t =>
      (t.gdState leg .high = (if s.gdState leg .high = GdState.charge then GdState.normal else s.gdState leg .high)) ∧
      (t.gate (chanNo leg .high)).uvBs = false ∧
      FaultFrame [R.GD_STAT, R.GD_LEGn_STAT leg] s t ∧
      Only [.regs, .clk, .rng, .pwm, .gd, .flt, .sup, .out] s t) ∧
  (∀ (s : State),
    s.sys.inReset = false ∧ s.raises = [] →
    ∃ n : Fin 6, s.gdOn n .low = true →
    s.flag F.GD_STAT_VDRV_UV = false →
    Answers .vdrvUndervoltage s fun t =>
      t.get F.GD_STAT_VDRV_UV = 1 ∧
      (∀ n : Fin 6, s.gdOn n .low = true → t.get (F.GD_LEGn_STAT_UV_VDRV n) = 1 ∧ (t.gate (chanNo n .low)).uvVdrv = true) ∧
      (∀ n : Fin 6, s.gdOn n .low = true → s.bypassLeg n = false → s.gdState n .low = GdState.normal → t.gdState n .low = if l1Escalates s n .low then GdState.escal else GdState.wait) ∧
      (∀ n : Fin 6, s.gdOn n .low = false → t.gdState n .low = s.gdState n .low) ∧
      Only [.regs, .clk, .tim, .pwm, .gd, .flt, .out] s t) ∧
  (∀ (s : State),
    s.sys.inReset = false ∧ s.raises = [] →
    ∃ n : Fin 6, s.gdOn n .low = true →
    s.flag F.GD_STAT_VNEG_UV = false →
    Answers .vnegUndervoltage s fun t =>
      t.get F.GD_STAT_VNEG_UV = 1 ∧
      (∀ n : Fin 6, s.gdOn n .low = true → t.get (F.GD_LEGn_STAT_UV_VNEG n) = 1 ∧ (t.gate (chanNo n .low)).uvVneg = true) ∧
      (∀ n : Fin 6, s.gdOn n .low = true → s.bypassLeg n = false → s.gdState n .low = GdState.normal → t.gdState n .low = if l1Escalates s n .low then GdState.escal else GdState.wait) ∧
      (∀ n : Fin 6, s.gdOn n .low = false → t.gdState n .low = s.gdState n .low) ∧
      Only [.regs, .clk, .tim, .pwm, .gd, .flt, .out] s t) ∧
  (∀ (s : State) (sup : Supply),
    s.sys.inReset = false →
    Answers (.supplyUvEnd sup) s fun t =>
      t.get (match sup with | .vdrv => F.GD_STAT_VDRV_UV | .vneg => F.GD_STAT_VNEG_UV) = 0 ∧
      (∀ n : Fin 6, (match sup with | .vdrv => (t.gate (chanNo n .low)).uvVdrv | .vneg => (t.gate (chanNo n .low)).uvVneg) = false) ∧
      (∀ n : Fin 6, t.gdState n .low = s.gdState n .low ∧ t.gdState n .high = s.gdState n .high) ∧
      FaultFrame [R.GD_STAT] s t ∧
      Only [.regs, .clk, .rng, .pwm, .gd, .flt, .sup, .out] s t)

/-- On a leg that checks its channels each sets the L2 latch with its own flag and cause, counts the fault and turns
both gates of the leg off; it raises FC2 while the tries last, and FC3 once they are exhausted. An interlocked or
suppressed turn-on waits for the next edge. The two NORMAL channels of a shoot-through with both checks enabled make a
soft turn-off, and no L1 fault of the low side is counted. (R337, R338, R339, R340, R341, R347) -/
def Obligations.LegFaultsLatchOff : Prop :=
  (∀ (s : State) (leg : Fin 6) (first : Option Sw),
    s.sys.inReset = false →
    s.legChecked leg = true →
    Answers (.interlock leg first) s fun t =>
      t.get (F.GD_LEGn_STAT_INTLK leg) = 1 ∧
      t.get (F.GD_LEGn_STAT_L2_LATCH leg) = 1 ∧
      t.get (F.GD_LEGn_STAT_L2_CAUSE leg) = 1 ∧
      t.get (F.GD_LEGn_CNT_L2 leg) = satAdd (F.GD_LEGn_CNT_L2 leg).max (s.get (F.GD_LEGn_CNT_L2 leg)) 1 ∧
      (match first with | some sw => (t.gate (chanNo leg (otherSw sw))).needEdge | none => (t.gate (chanNo leg .low)).needEdge && (t.gate (chanNo leg .high)).needEdge) = true ∧
      GatesOff t leg ∧
      (HasCause t (if l2Escalates s leg then 0x0A06 else 0x0A05) (if l2Escalates s leg then 3 else 2) = true) ∧
      FaultFrame [R.GD_STAT, R.GD_LEGn_STAT leg, R.GD_LEGn_CNT leg] s t ∧
      Only [.regs, .clk, .tim, .pwm, .gd, .flt, .out] s t) ∧
  (∀ (s : State) (leg : Fin 6) (sw : Sw),
    s.sys.inReset = false →
    s.legChecked leg = true →
    s.get (F.GD_LEGn_CFG_DT_CHK leg) ≠ 0 →
    Answers (.deadtimeViolation leg sw) s fun t =>
      t.get (F.GD_LEGn_STAT_DTV leg) = 1 ∧
      t.get (F.GD_LEGn_STAT_L2_LATCH leg) = 1 ∧
      t.get (F.GD_LEGn_STAT_L2_CAUSE leg) = 2 ∧
      t.get (F.GD_LEGn_CNT_L2 leg) = satAdd (F.GD_LEGn_CNT_L2 leg).max (s.get (F.GD_LEGn_CNT_L2 leg)) 1 ∧
      (t.gate (chanNo leg sw)).needEdge = true ∧
      GatesOff t leg ∧
      (HasCause t (if l2Escalates s leg then 0x0A06 else 0x0A05) (if l2Escalates s leg then 3 else 2) = true) ∧
      FaultFrame [R.GD_STAT, R.GD_LEGn_STAT leg, R.GD_LEGn_CNT leg] s t ∧
      Only [.regs, .clk, .tim, .pwm, .gd, .flt, .out] s t) ∧
  (∀ (s : State) (leg : Fin 6),
    s.sys.inReset = false →
    s.legChecked leg = true →
    s.gdState leg .low = GdState.normal →
    s.gdState leg .high = GdState.normal →
    s.flag (scEnFld leg .low) = true ∧ s.flag (scEnFld leg .high) = true →
    Answers (.shoot leg) s fun t =>
      t.get (F.GD_LEGn_STAT_SHOOT leg) = 1 ∧
      t.get (F.GD_LEGn_STAT_L2_LATCH leg) = 1 ∧
      t.get (F.GD_LEGn_STAT_L2_CAUSE leg) = 3 ∧
      t.get (F.GD_LEGn_CNT_L2 leg) = satAdd (F.GD_LEGn_CNT_L2 leg).max (s.get (F.GD_LEGn_CNT_L2 leg)) 1 ∧
      t.gdState leg .low = GdState.softoff ∧
      t.gdState leg .high = GdState.softoff ∧
      GatesOff t leg ∧
      (HasCause t (if l2Escalates s leg then 0x0A06 else 0x0A05) (if l2Escalates s leg then 3 else 2) = true) ∧
      t.get (l1CntFld leg .low) = s.get (l1CntFld leg .low) ∧
      Only [.regs, .clk, .tim, .pwm, .gd, .flt, .out] s t)

/-- u is the state when the self-test, or the publication, is over and due. A self-test of a driven, checked channel
that is commanded off is passed exactly when its comparator tripped within 200 ns and the input stood from 200 mV to
2100 mV; the result is entered for the health report, the channel's next test is due, and a failed one sets INJ_FAIL
and raises FC1. INJ_NOW requests a test of every driven channel whose check is enabled. A publication shows VDRV, VNEG
and the bootstrap of each driven leg, and gives the margins of R345 to the engine's indexes. CNT_CLR clears the fault
counts alone. (R258, R344, R345, R347, R348, R415) -/
def Obligations.GateSelfTestsAndFigures : Prop :=
  (∀ (s u : State) (leg : Fin 6) (sw : Sw) (trip : Option (BitVec 16)) (mv : BitVec 16) (pass : Bool),
    s.sys.inReset = false →
    s.gdOn leg sw = true →
    s.flag F.GD_CTRL_INJ_EN = true →
    s.flag (scEnFld leg sw) = true →
    s.swCmd leg sw = false →
    u = (s.when (!(s.gate (chanNo leg sw)).inj) (·.runUp (s.gate (chanNo leg sw)).injAt)).runAfter (s.gate (chanNo leg sw)).cmdAt 1000 →
    pass = (trip.any (fun k => k.toNat ≤ 200) && decide (200 ≤ mv.toNat) && decide (mv.toNat ≤ 2100)) →
    Answers (.selfTest leg sw trip mv) s fun t =>
      (bit (if pass then t.gd.passed else t.gd.failed) (chanNo leg sw) = true) ∧
      (t.get (F.GD_LEGn_STAT_INJ_FAIL leg) = (if pass then s.get (F.GD_LEGn_STAT_INJ_FAIL leg) else 1)) ∧
      (pass = false → Raised u t 0x0A09 1) ∧
      (t.gate (chanNo leg sw)).inj = false ∧
      (t.gate (chanNo leg sw)).injAt = u.sys.up + u.injPer ∧
      FaultFrame [R.GD_LEGn_STAT leg] u t ∧
      Only [.regs, .clk, .tim, .pwm, .gd, .flt, .out] u t) ∧
  (∀ (s : State),
    s.sys.inReset = false →
    s.flag F.GD_CTRL_INJ_EN = true →
    Answers .injNow s fun t =>
      (∀ n : Fin 6, (t.gate (chanNo n .low)).inj = ((s.gate (chanNo n .low)).inj || s.gdOn n .low && s.flag (scEnFld n .low))) ∧
      (∀ n : Fin 6, (t.gate (chanNo n .high)).inj = ((s.gate (chanNo n .high)).inj || s.gdOn n .high && s.flag (scEnFld n .high))) ∧
      Only [.gd] s t) ∧
  (∀ (s u : State) (vdrv vneg : BitVec 16) (vbs : List (BitVec 16)),
    s.sys.inReset = false →
    u = s.runUp s.gd.pubAt →
    Answers (.gdDeratingPublish vdrv vneg vbs) s fun t =>
      t.get F.GD_VDRV_VDRV = vdrv.toNat ∧
      t.get F.GD_VDRV_VNEG = vneg.toNat ∧
      (∀ n : Fin 6, t.get (F.GD_LEGn_VBS_VALID n) = b2n (s.gdOn n .low) ∧ t.get (F.GD_LEGn_VBS_MV n) = if s.gdOn n .low then (vbs.getD n 0).toNat else 0) ∧
      (∀ n : Fin 6, t.result (1008 + n) = if s.gdOn n .low then some (marginF32 (vbs.getD n 0).toNat (10000 + 100 * s.get F.GD_SUPPLY_BS_UV : Nat)) else none) ∧
      (t.result 1014 = (if s.isHead then none else some (marginF32 vdrv.toNat (12000 + 100 * s.get F.GD_SUPPLY_VDRV_UV : Nat)))) ∧
      t.gd = { u.gd with pubAt := u.sys.up + pubTicks } ∧
      OnlyRegs (R.GD_VDRV :: (List.range 6).map R.GD_LEGn_VBS) u t ∧
      Only [.regs, .gd, .eng] u t) ∧
  (∀ (s : State),
    s.sys.inReset = false →
    Answers .gdCntClr s fun t =>
      (∀ n : Fin 6, t.rd (R.GD_LEGn_CNT n) = 0) ∧
      OnlyRegs ((List.range 6).map R.GD_LEGn_CNT) s t ∧
      Only [.regs] s t)

/-- u is the state at the tick the event falls due. The next due trigger of an enabled slot and converter latches the
channel, the SCN and the programmed hold instant of the slot when the slot waits for nothing; a slot that still waits
drops the trigger, counts it and raises FC0. The hold of the pending conversion that comes first hands it to the free
converter, stamped with the STIME of the hold, LATE exactly when that is not the tick programmed. The end of a slot's
conversion writes code, flags, value and seal, makes the value the slot's local result and frees the converter; that
of a housekeeping conversion keeps code, over-range and SHADOW for the requester. A housekeeping conversion starts on
a free converter none of whose slots waits, no earlier than ADC_HK.OFS after the boundary. The moment of the hold on a
converter that is busy until then is as Machine.State.holdTick computes it. (R350, R354, R355, R356, R357, R358, R361,
R363) -/
def Obligations.ConversionsAndResults : Prop :=
  (∀ (s u : State) (m : Fin 16) (tk scn : Nat) (rest : List (Nat × Nat)),
    s.sys.inReset = false →
    s.adcDue m = (tk, scn) :: rest →
    u = (s.setAdcDue m rest).runToTick tk →
    u.flag (F.ADC_TRGm_CFG_EN m) = true →
    u.flag (convEnFld (convOf m)) = true →
    u.adcPend m = none →
    Answers (.adcTrigger m) s fun t =>
      t.adcPend m = some ⟨u.chanAt m, scn, tk, tk + u.get (F.ADC_TRGm_DLY_DLY m)⟩ ∧
      (∀ k : Fin 16, k ≠ m → t.adcPend k = s.adcPend k) ∧
      t.adcDue m = rest ∧
      Only [.adc] u t) ∧
  (∀ (s u : State) (m : Fin 16) (tk scn : Nat) (rest : List (Nat × Nat)),
    s.sys.inReset = false →
    s.adcDue m = (tk, scn) :: rest →
    u = (s.setAdcDue m rest).runToTick tk →
    u.flag (F.ADC_TRGm_CFG_EN m) = true →
    u.flag (convEnFld (convOf m)) = true →
    (u.adcPend m).isSome = true →
    Answers (.adcTrigger m) s fun t =>
      t.num R.ADC_CNT_DROP = satAdd 0xFFFFFFFF (u.num R.ADC_CNT_DROP) 1 ∧
      t.adc = u.adc ∧
      Raised u t 0x0B02 0 ∧
      FaultFrame [R.ADC_CNT_DROP] u t ∧
      Only [.regs, .clk, .tim, .pwm, .gd, .flt, .out] u t) ∧
  (∀ (s : State) (m : Fin 16) (p : AdcPend) (hold : Nat),
    s.sys.inReset = false →
    s.adcPend m = some p →
    s.adcFirst (convOf m) = some m.val →
    s.adcFree (convOf m) = true →
    s.flag (convEnFld (convOf m)) = true →
    hold = s.holdTick (convOf m) p.trig p.hold →
    Answers (.holdInstant m) s fun t =>
      t.adcPend m = none ∧
      t.adcConv (convOf m) = some { slot := some m, chan := p.chan, scn := p.scn, stime := tickStime hold, late := hold != p.hold, lp := s.flag (lpActFld (convOf m)), shadow := bit s.adc.ovrLast (convOf m), done := hold + s.convTicks (convOf m) } ∧
      (∀ k : Fin 16, k ≠ m → t.adcPend k = s.adcPend k) ∧
      Only [.regs, .sys, .clk, .tim, .pwm, .gd, .flt, .adc, .sup, .out] s t) ∧
  (∀ (s u : State) (a : Fin 2) (raw : Int) (v : AdcConv) (m : Fin 16),
    s.sys.inReset = false →
    s.adcConv a = some v →
    u = s.runToTick v.done →
    v.slot = some m.val →
    Answers (.conversionEnd a raw) s fun t =>
      t.get (F.ADC_RESm_RAW_CODE m) = (adcCode raw).1 ∧
      t.get (F.ADC_RESm_RAW_OVR m) = b2n ((adcCode raw).2.1 || (adcCode raw).2.2) ∧
      t.get (F.ADC_RESm_RAW_OVR_LO m) = b2n (adcCode raw).2.2 ∧
      t.get (F.ADC_RESm_RAW_SHADOW m) = b2n v.shadow ∧
      t.get (F.ADC_RESm_RAW_LATE m) = b2n v.late ∧
      t.rd (R.ADC_RESm_VAL m) = BitVec.ofNat 32 (u.adcVal v.chan (adcCode raw).1 (adcCode raw).2.1 (adcCode raw).2.2 (u.flag (F.ADC_TRGm_CFG_OVR_INF m))) ∧
      (t.get (F.ADC_RESm_SEAL_SEAL m) = sealOf (t.rd (R.ADC_RESm_VAL m)) u.pos (if u.flag (F.ADC_TRGm_CFG_UP_EN m) then u.get (F.ADC_TRGm_ITEM_ITEM m) else 0xFC00 + m.val) v.scn) ∧
      t.result m = some (t.rd (R.ADC_RESm_VAL m)) ∧
      t.adcConv a = none ∧
      bit t.adc.ovrLast a = ((adcCode raw).2.1 || (adcCode raw).2.2) ∧
      Only [.regs, .clk, .rng, .tim, .pwm, .gd, .flt, .eng, .adc, .out] u t) ∧
  (∀ (s u : State) (a : Fin 2) (raw : Int) (v : AdcConv),
    s.sys.inReset = false →
    s.adcConv a = some v →
    u = s.runToTick v.done →
    v.slot = none →
    Answers (.conversionEnd a raw) s fun t =>
      t.adcHk a v.chan = some ⟨(adcCode raw).1, (adcCode raw).2.1 || (adcCode raw).2.2, v.shadow, v.done⟩ ∧
      t.adcConv a = none ∧
      t.flt = u.flt ∧
      Only [.regs, .adc] u t) ∧
  (∀ (s u : State) (a : Fin 2) (ch : Fin 19) (hold : Nat),
    s.sys.inReset = false →
    s.flag (convEnFld a) = true →
    ch.val = 16 ∨ ch.val = 17 ∨ s.get F.ADC_HK_ADC = a.val →
    s.adcFirst a = none →
    s.adcFree a = true →
    u = s.runToTick (s.labs s.tim.lastB + s.get F.ADC_HK_OFS) →
    hold = u.holdTick a u.lnow 0 →
    Answers (.housekeepingStart a ch) s fun t =>
      t.adcConv a = some { slot := none, chan := ch, scn := u.scn.toNat % 256, stime := tickStime hold, late := false, lp := u.flag (lpActFld a), shadow := bit s.adc.ovrLast a, done := hold + u.convTicks a } ∧
      Only [.regs, .sys, .clk, .tim, .pwm, .gd, .flt, .adc, .sup, .out] u t)

/-- A write of LPa takes the bit unless an enabled uplink slot of that converter forbids LPa = 1, which sets LP_REF; a
mode switch whose mode is the one requested ends, and the converter is free from then. A write of a channel below 19
is stored and is not the channel a trigger latches in the same fabric cycle; a write of any other sets CH_ERR and no
other register. A reference check on housekeeping results of channels 16 and 17 without SHADOW, at the time u it falls
due at, compares them with 51 200 and 0 within REF_TOL, sets or clears REFERR by that, raises FC1 exactly as it sets
it, and asks for both channels again. CNT_CLR clears the counters of R366 and no other register. That a bad result is
measured in codes of R349 is the model's reading of REF_TOL (log entry 20). (R349, R353, R355, R363, R366) -/
def Obligations.ConverterModesAndChecks : Prop :=
  (∀ (s : State) (v : BitVec 2),
    s.sys.inReset = false →
    Answers (.lpWrite v) s fun t =>
      (∀ a : Fin 2, t.flag (lpFld a) = if bit v.toNat a && (List.range 8).any (fun i => s.flag (F.ADC_TRGm_CFG_EN (8 * a.val + i)) && s.flag (F.ADC_TRGm_CFG_UP_EN (8 * a.val + i))) then s.flag (lpFld a) else bit v.toNat a) ∧
      (∀ a : Fin 2, bit v.toNat a = true → (List.range 8).any (fun i => s.flag (F.ADC_TRGm_CFG_EN (8 * a.val + i)) && s.flag (F.ADC_TRGm_CFG_UP_EN (8 * a.val + i))) = true → t.get F.ADC_STAT_LP_REF = 1) ∧
      OnlyRegs [R.ADC_CTRL, R.ADC_STAT] s t ∧
      Only [.regs, .adc] s t) ∧
  (∀ (s : State) (a : Fin 2),
    s.sys.inReset = false →
    bit s.adc.switching a = true →
    s.flag (lpFld a) = s.flag (lpActFld a) →
    Answers (.lowPowerSwitchEnd a) s fun t =>
      bit t.adc.switching a = false ∧
      t.adcFreeAt a = s.lnow ∧
      t.adcConv a = s.adcConv a ∧
      t.regs = s.regs ∧
      Only [.adc] s t) ∧
  (∀ (s : State) (m : Fin 16) (v : BitVec 5),
    s.sys.inReset = false →
    v.toNat < 19 →
    Answers (.chWrite m v) s fun t =>
      t.get (F.ADC_TRGm_CH_CH m) = v.toNat ∧
      t.chanAt m = s.chanAt m ∧
      OnlyRegs [R.ADC_TRGm_CH m] s t ∧
      Only [.regs, .adc] s t) ∧
  (∀ (s : State) (m : Fin 16) (v : BitVec 5),
    s.sys.inReset = false →
    19 ≤ v.toNat →
    Answers (.chWrite m v) s fun t =>
      t.get F.ADC_STAT_CH_ERR = 1 ∧
      OnlyRegs [R.ADC_STAT] s t ∧
      Only [.regs] s t) ∧
  (∀ (s u : State) (a : Fin 2) (r g : HkRes),
    s.sys.inReset = false →
    u = s.runUp (Bank.at 0 s.adc.refAt a) →
    s.get F.ADC_CFG_REFCHK_PER ≠ 0 →
    s.flag (convEnFld a) = true →
    s.adcHk a 16 = some r →
    s.adcHk a 17 = some g →
    r.shadow = false ∧ g.shadow = false →
    Answers (.referenceCheck a) s fun t =>
      (t.get (refErrFld a) = (if r.code ≤ 51200 + s.get F.ADC_CFG_REF_TOL ∧ 51200 ≤ r.code + s.get F.ADC_CFG_REF_TOL ∧ g.code ≤ s.get F.ADC_CFG_REF_TOL then 0 else 1)) ∧
      (t.get (refErrFld a) = 1 → Raised u t 0x0B04 1) ∧
      (t.get (refErrFld a) = 0 → t.flt = u.flt) ∧
      t.adcHk a 16 = none ∧ t.adcHk a 17 = none ∧
      FaultFrame [R.ADC_STAT] u t ∧
      Only [.regs, .clk, .tim, .pwm, .gd, .flt, .adc, .out] u t) ∧
  (∀ (s : State),
    s.sys.inReset = false →
    Answers .adcCntClr s fun t =>
      t.rd R.ADC_CNT_LATE = 0 ∧ t.rd R.ADC_CNT_DROP = 0 ∧ t.rd R.ADC_CNT_UPLATE = 0 ∧ t.rd R.ADC_CNT_SEAL = 0 ∧
      (∀ m : Fin 16, t.rd (R.ADC_TRGm_CNT m) = 0) ∧
      OnlyRegs ([R.ADC_CNT_LATE, R.ADC_CNT_DROP, R.ADC_CNT_UPLATE, R.ADC_CNT_SEAL] ++ (List.range 16).map R.ADC_TRGm_CNT) s t ∧
      Only [.regs] s t)

/-- A valid reading of a die or substrate sensor, at the tick u it falls due at, shows T, VALID, the state of R501,
the band of R504 and publishes THR − T; an entry to SHUTDOWN raises FC3; the next reading falls due the interval of
R500 later. An NTC reading from conversions made since it fell due shows the temperature of R498 within one sixteenth
of a degree, whatever the free rounding is (log entry 2); from conversions of which one was made before, nothing is
read. A first failed reading writes no register; a second one in a row sets FAIL, raises FC1, keeps state and band and
makes the headroom missing. The oldest pending record is written at the write pointer with its number, its stamp and
its CRC, and the pointer and number move on; a write of SEL clears RDY, and with no record pending the record SEL
names is then copied into the eight words. (R258, R498, R499, R500, R501, R502, R503, R504, R506, R507, R508, R509) -/
def Obligations.SensorsAndEventLog : Prop :=
  (∀ (s u : State) (sensor : Fin 14) (T : Int),
    s.sys.inReset = false →
    s.sensorEn sensor = true →
    sensor.val < 6 →
    u = s.runToTick (s.sensor sensor).due →
    -960 ≤ T ∧ T ≤ 2880 →
    Answers (.sensorReading sensor T false) s fun t =>
      t.get (F.THM_Sn_STAT_T sensor) = unsgn 16 T ∧
      t.get (F.THM_Sn_STAT_VALID sensor) = 1 ∧
      t.get (F.THM_Sn_STAT_FAIL sensor) = 0 ∧
      t.get (F.THM_Sn_STAT_STATE sensor) = u.nextThermal sensor T (decide (u.shutT sensor ≤ T) && (s.sensor sensor).shut1) ∧
      (t.get (F.THM_Sn_STAT_BAND sensor) = nextBand (if u.flag (F.THM_Sn_STAT_VALID sensor) then some (u.get (F.THM_Sn_STAT_BAND sensor)) else none) T) ∧
      t.result (992 + sensor.val) = some (BitVec.ofNat 32 (f32.ofFrac (Frac.mk' (u.thrT sensor - T) 16))) ∧
      (u.get (F.THM_Sn_STAT_STATE sensor) ≠ 3 → u.nextThermal sensor T (decide (u.shutT sensor ≤ T) && (s.sensor sensor).shut1) = 3 → HasCause t 0x1003 3 = true) ∧
      (t.sensor sensor).due = t.lnow + t.sensorInterval sensor T ∧
      Only [.regs, .vault, .clk, .tim, .pwm, .gd, .flt, .eng, .thm, .sup, .out] u t) ∧
  (∀ (s : State) (sensor : Fin 14) (T : Int) (bad : Bool) (n r : HkRes) (t16 : Int),
    s.sys.inReset = false →
    s.sensorEn sensor = true →
    6 ≤ sensor.val →
    s.adcHk (s.get F.ADC_HK_ADC) (s.get (F.THM_Sn_CFG_CH sensor)) = some n →
    s.adcHk (s.get F.ADC_HK_ADC) 18 = some r →
    n.ovr = false ∧ r.ovr = false →
    (s.sensor sensor).due ≤ n.done ∧ (s.sensor sensor).due ≤ r.done →
    s.ntcTemp sensor n.code r.code = some (some t16) →
    Answers (.sensorReading sensor T bad) s fun t =>
      (t.get (F.THM_Sn_STAT_T sensor) = unsgn 16 t16 ∨ t.get (F.THM_Sn_STAT_T sensor) = unsgn 16 (t16 + 1)) ∧
      t.get (F.THM_Sn_STAT_VALID sensor) = 1 ∧
      t.get (F.THM_Sn_STAT_FAIL sensor) = 0 ∧
      t.free = s.free + 1) ∧
  (∀ (s : State) (sensor : Fin 14) (T : Int) (bad : Bool) (n r : HkRes),
    s.sensorEn sensor = true →
    6 ≤ sensor.val →
    s.adcHk (s.get F.ADC_HK_ADC) (s.get (F.THM_Sn_CFG_CH sensor)) = some n →
    s.adcHk (s.get F.ADC_HK_ADC) 18 = some r →
    n.done < (s.sensor sensor).due ∨ r.done < (s.sensor sensor).due →
    Answers (.sensorReading sensor T bad) s fun t =>
      t = s) ∧
  (∀ (s u : State) (sensor : Fin 14) (T : Int),
    s.sys.inReset = false →
    s.sensorEn sensor = true →
    sensor.val < 6 →
    u = s.runToTick (s.sensor sensor).due →
    (s.sensor sensor).fails = 0 →
    Answers (.sensorReading sensor T true) s fun t =>
      (t.sensor sensor).fails = 1 ∧
      t.regs = u.regs ∧
      Only [.thm] u t) ∧
  (∀ (s u : State) (sensor : Fin 14) (T : Int),
    s.sys.inReset = false →
    s.sensorEn sensor = true →
    sensor.val < 6 →
    u = s.runToTick (s.sensor sensor).due →
    (s.sensor sensor).fails = 1 →
    Answers (.sensorReading sensor T true) s fun t =>
      t.get (F.THM_Sn_STAT_FAIL sensor) = 1 ∧
      bit (t.get F.THM_STAT_FAIL) sensor = true ∧
      t.get (F.THM_Sn_STAT_STATE sensor) = u.get (F.THM_Sn_STAT_STATE sensor) ∧
      t.get (F.THM_Sn_STAT_BAND sensor) = u.get (F.THM_Sn_STAT_BAND sensor) ∧
      t.result (992 + sensor.val) = none ∧
      Raised u t 0x1004 1 ∧
      FaultFrame [R.THM_STAT, R.THM_Sn_STAT sensor] u t) ∧
  (∀ (s : State) (kind : Nat) (sec : BitVec 48) (ws : List Word) (rest : List (Nat × BitVec 48 × List Word)),
    s.sys.inReset = false →
    s.stage ≠ Stage.sramInit →
    s.vault.logPend = (kind, sec, ws) :: rest →
    Answers .logWrite s fun t =>
      Bank.at [] t.vault.logMem s.vault.logIdx = logRecord s.vault.logNum kind sec ws ∧
      t.vault.logPend = rest ∧
      t.vault.logIdx = (s.vault.logIdx + 1) % 256 ∧
      (t.vault.logNum = (if s.vault.logNum = 0xFFFFFFFF then 1 else s.vault.logNum + 1)) ∧
      t.vault.sec = s.vault.sec ∧
      Only [.regs, .vault] s t) ∧
  (∀ (s : State) (v : BitVec 8),
    s.sys.inReset = false →
    Answers (.logSelWrite v) s fun t =>
      t.get F.THM_LOG_SEL_SEL = v.toNat ∧
      t.get F.THM_LOG_STAT_RDY = 0 ∧
      t.thm.sel = some v.toNat ∧
      OnlyRegs [R.THM_LOG_SEL, R.THM_LOG_STAT] s t ∧
      Only [.regs, .thm] s t) ∧
  (∀ (s : State) (i : Nat),
    s.sys.inReset = false →
    s.thm.sel = some i →
    s.vault.logPend = [] →
    Answers .logReadDone s fun t =>
      (∀ k : Fin 8, t.rd (R.THM_LOG_W k) = (Bank.at [] s.vault.logMem i).getD k 0) ∧
      t.get F.THM_LOG_STAT_RDY = 1 ∧
      t.thm.sel = none ∧
      OnlyRegs (R.THM_LOG_STAT :: (List.range 8).map R.THM_LOG_W) s t ∧
      Only [.regs, .thm] s t)

/-- A write-back cleans a corrected word and nothing else. A leak comes at the end u of a LEAK period of STIME and
lowers the region's level by one down to zero; with LEAK = 0 there is none. An accepted GO of a master that acts as
the MP starts a pass at START with the END of that moment and an empty summary, and a refused one reports its ERR and
starts nothing. At the time u of its next word a pass decodes and counts that word; its last word ends it as DONE;
after an ABORT it ends there as aborted, with the counts it has and FC1 if it met an uncorrectable word, and no word
is decoded. A repair writes zero to the one ECC word it names and cleans it, and is refused with ERR 2 for a word of
an enabled slot. CNT_CLR clears the corrected counts and the words of level and OVFS, and no other register. (R485,
R487, R491, R492, R493, R494, R496) -/
def Obligations.MemoryProtection : Prop :=
  (∀ (s : State) (addr : Word),
    s.sys.inReset = false →
    s.eccErr (eccWord addr.toNat) = some false →
    Answers (.eccWriteBack addr) s fun t =>
      t.eccErr (eccWord addr.toNat) = none ∧
      t.memx.scrub = s.memx.scrub ∧
      Only [.memx] s t) ∧
  (∀ (s u : State) (r : Fin 8) (per k : Nat),
    s.sys.inReset = false →
    per = 1000000 * s.get (F.MEM_BKTr_CFG_LEAK r) * stimeUnit →
    per ≠ 0 →
    k = (if (Bank.at none s.memx.leaks r).getD (s.stimeExt / per) < s.stimeExt / per then s.stimeExt / per else s.stimeExt / per + 1) →
    u = s.runAhead (k * per - s.stimeExt) →
    Answers (.bucketLeak r) s fun t =>
      t.get (F.MEM_BKTr_STAT_LEVEL r) = u.get (F.MEM_BKTr_STAT_LEVEL r) - 1 ∧
      t.get (F.MEM_BKTr_STAT_OVFS r) = u.get (F.MEM_BKTr_STAT_OVFS r) ∧
      OnlyRegs [R.MEM_BKTr_STAT r] u t ∧
      Only [.regs, .memx] u t) ∧
  (∀ (s : State) (r : Fin 8),
    s.get (F.MEM_BKTr_CFG_LEAK r) = 0 →
    Answers (.bucketLeak r) s fun t =>
      t = s) ∧
  (∀ (s : State) (m : Master),
    s.sys.inReset = false ∧ s.mastersRun m = true →
    s.scrubErr (s.asMp m) = 0 →
    Answers (.scrubGo m) s fun t =>
      t.get F.MEM_SCRUB_STAT_STATE = 1 ∧
      t.get F.MEM_SCRUB_STAT_ERR = 0 ∧
      t.rd R.MEM_SCRUB_CE = 0 ∧ t.rd R.MEM_SCRUB_UE = 0 ∧ t.rd R.MEM_SCRUB_FIRST_UE = 0xFFFFFFFF ∧
      t.memx.scrub = some (s.num R.MEM_SCRUB_START, 0, 0, none) ∧ t.memx.scrubLast = s.num R.MEM_SCRUB_END ∧ t.memx.scrubStop = false ∧
      OnlyRegs [R.MEM_SCRUB_STAT, R.MEM_SCRUB_CE, R.MEM_SCRUB_UE, R.MEM_SCRUB_FIRST_UE] s t ∧
      Only [.regs, .memx] s t) ∧
  (∀ (s : State) (m : Master),
    s.sys.inReset = false ∧ s.mastersRun m = true →
    s.scrubErr (s.asMp m) ≠ 0 →
    Answers (.scrubGo m) s fun t =>
      t.get F.MEM_SCRUB_STAT_ERR = s.scrubErr (s.asMp m) ∧
      t.memx = s.memx ∧
      t.rd R.MEM_SCRUB_CE = s.rd R.MEM_SCRUB_CE ∧ t.rd R.MEM_SCRUB_UE = s.rd R.MEM_SCRUB_UE ∧
      OnlyRegs [R.MEM_SCRUB_STAT, R.SYS_VIOL_CNT, R.SYS_VIOL_LAST] s t ∧
      Only [.regs] s t) ∧
  (∀ (s : State) (m : Master),
    s.sys.inReset = false ∧ s.mastersRun m = true →
    s.asMp m = true →
    s.memx.scrub.isSome = true →
    Answers (.scrubAbort m) s fun t =>
      t = { s with memx := { s.memx with scrubStop := true } }) ∧
  (∀ (s u : State) (ecc : Ecc) (a ce ue : Nat) (first : Option Nat),
    s.sys.inReset = false →
    s.memx.scrub = some (a, ce, ue, first) →
    s.memx.scrubStop = true →
    u = s.runUp s.memx.scrubAt →
    Answers (.scrubWord ecc) s fun t =>
      t.get F.MEM_SCRUB_STAT_STATE = 3 ∧
      t.rd R.MEM_SCRUB_CE = BitVec.ofNat 32 ce ∧ t.rd R.MEM_SCRUB_UE = BitVec.ofNat 32 ue ∧
      t.rd R.MEM_SCRUB_FIRST_UE = BitVec.ofNat 32 (first.getD 0xFFFFFFFF) ∧
      t.memx = { s.memx with scrub := none } ∧
      (ue ≠ 0 → Raised u t 0x0F05 1) ∧
      FaultFrame [R.MEM_SCRUB_STAT, R.MEM_SCRUB_CE, R.MEM_SCRUB_UE, R.MEM_SCRUB_FIRST_UE] u t ∧
      Only [.regs, .clk, .tim, .pwm, .gd, .flt, .memx, .out] u t) ∧
  (∀ (s u : State) (ecc : Ecc) (a ce ue : Nat) (first : Option Nat),
    s.sys.inReset = false →
    s.memx.scrub = some (a, ce, ue, first) →
    s.memx.scrubStop = false →
    a + 8 ≤ s.memx.scrubLast →
    u = s.runUp s.memx.scrubAt →
    Answers (.scrubWord ecc) s fun t =>
      (t.memx.scrub = some (a + 8, ce + b2n (!(u.eccDecode a ecc).2 && (ecc == .single || u.eccErr a == some false)), ue + b2n (u.eccDecode a ecc).2, if (u.eccDecode a ecc).2 && first.isNone then some a else first)) ∧
      t.memx.err = (u.eccDecode a ecc).1.memx.err ∧
      t.memx.scrubAt = u.sys.up + 4 * Nat.max 1 (u.get F.MEM_SCRUB_CTRL_RATE) ∧
      t.mem = s.mem ∧
      t.get F.MEM_SCRUB_STAT_STATE = u.get F.MEM_SCRUB_STAT_STATE ∧
      Only [.regs, .clk, .tim, .pwm, .gd, .flt, .memx, .out] u t) ∧
  (∀ (s u : State) (ecc : Ecc) (a ce ue : Nat) (first : Option Nat),
    s.sys.inReset = false →
    s.memx.scrub = some (a, ce, ue, first) →
    s.memx.scrubStop = false →
    s.memx.scrubLast < a + 8 →
    u = s.runUp s.memx.scrubAt →
    Answers (.scrubWord ecc) s fun t =>
      t.memx.scrub = none ∧
      t.get F.MEM_SCRUB_STAT_STATE = 2 ∧
      t.rd R.MEM_SCRUB_UE = BitVec.ofNat 32 (ue + b2n (u.eccDecode a ecc).2) ∧
      t.mem = s.mem ∧
      Only [.regs, .clk, .tim, .pwm, .gd, .flt, .memx, .out] u t) ∧
  (∀ (s : State) (m : Master) (v : Word),
    s.sys.inReset = false ∧ s.mastersRun m = true →
    s.asMp m = true →
    v.toNat % 2 = 1 →
    inSram (v.toNat - v.toNat % 8) = true →
    Answers (.repair m v) s fun t =>
      t.get F.MEM_REPAIR_STAT_STATE = 2 ∧ t.get F.MEM_REPAIR_STAT_ERR = 0 ∧
      (∀ k : Fin 8, t.byte (v.toNat - v.toNat % 8 + k.val) = 0) ∧
      (∀ a, a < v.toNat - v.toNat % 8 ∨ v.toNat - v.toNat % 8 + 8 ≤ a → t.byte a = s.byte a) ∧
      t.eccErr (v.toNat - v.toNat % 8) = none ∧
      OnlyRegs [R.MEM_REPAIR, R.MEM_REPAIR_STAT] s t ∧
      Only [.regs, .mem, .memx] s t) ∧
  (∀ (s : State) (m : Master) (v : Word),
    s.sys.inReset = false ∧ s.mastersRun m = true →
    s.asMp m = true →
    v.toNat % 2 = 1 →
    inCoeff (v.toNat - v.toNat % 8) = true →
    s.flag (F.CE_SLOTn_CFG_EN ((v.toNat - v.toNat % 8 - 0x41000000) / 0x100)) = false →
    Answers (.repair m v) s fun t =>
      t.get F.MEM_REPAIR_STAT_STATE = 2 ∧ t.get F.MEM_REPAIR_STAT_ERR = 0 ∧
      t.rd (v.toNat - v.toNat % 8) = 0 ∧ t.rd (v.toNat - v.toNat % 8 + 4) = 0 ∧
      t.eccErr (v.toNat - v.toNat % 8) = none ∧
      OnlyRegs [R.MEM_REPAIR, R.MEM_REPAIR_STAT, v.toNat - v.toNat % 8, v.toNat - v.toNat % 8 + 4] s t ∧
      Only [.regs, .memx] s t) ∧
  (∀ (s : State) (m : Master) (v : Word),
    s.sys.inReset = false ∧ s.mastersRun m = true →
    s.asMp m = true →
    v.toNat % 2 = 1 →
    inCoeff (v.toNat - v.toNat % 8) = true →
    s.flag (F.CE_SLOTn_CFG_EN ((v.toNat - v.toNat % 8 - 0x41000000) / 0x100)) = true →
    Answers (.repair m v) s fun t =>
      t.get F.MEM_REPAIR_STAT_STATE = 3 ∧ t.get F.MEM_REPAIR_STAT_ERR = 2 ∧
      OnlyRegs [R.MEM_REPAIR, R.MEM_REPAIR_STAT] s t ∧
      Only [.regs] s t) ∧
  (∀ (s : State),
    s.sys.inReset = false →
    Answers .memCntClr s fun t =>
      (∀ r : Fin 8, t.rd (R.MEM_CEr_CNT r) = 0 ∧ t.rd (R.MEM_BKTr_STAT r) = 0) ∧
      OnlyRegs ((List.range 8).map R.MEM_CEr_CNT ++ (List.range 8).map R.MEM_BKTr_STAT) s t ∧
      Only [.regs] s t)

/-- u is the state at the tick the trigger is due, at which the group has finished, or at which its deadline passes. A
trigger of an idle group that may run latches, for every enabled slot of the group in ascending order, its inputs,
active bank and output binding, starts the run and writes no register but the seal count; while the group runs or the
node is halted the trigger is dropped, counted and raised as FC0; a group that may not run is left as it was. An
evaluation with an enabled slot whose record holds an uncorrectable word, found at this read or before, is marked as
one that cannot commit, sets the ECC flag and raises FC3 and FC2. A group with no uncorrectable word that has finished
within its deadline commits: each slot's count rises by one, an output that ran becomes its U, a stale or NaN
evaluation leaves its U, each contest shows the winner's candidate or EMPTY, the run of misses ends and the group is
idle. A missed deadline leaves every U, marks every slot LATE, counts the miss, raises FC0 and, at the configured run
of misses, FC3; a group that has finished past its deadline misses it. (R215, R220, R221, R223, R229, R233, R237,
R238, R239, R240, R241, R251) -/
def Obligations.EngineTriggersAndCommits : Prop :=
  (∀ (s u : State) (g : Fin 8) (tk : Nat) (rest : List Nat),
    s.sys.inReset = false →
    (s.engGroup g).due = tk :: rest →
    u = (s.setEngGroup g { s.engGroup g with due := rest }).runToTick tk →
    u.groupMay g = true →
    (s.engGroup g).run = none →
    u.flag F.PWM_STAT_HALT = false →
    ∀ e ∈ u.memx.err, e.2 = false →
    Answers (.rgTrigger g none) s fun t =>
      ((t.engGroup g).run.getD []).map (·.slot) = u.groupSlots g ∧
      (∀ l ∈ (t.engGroup g).run.getD [], l.bank = u.get (F.CE_SLOTn_CFG_ACT l.slot) ∧ l.out = u.rd (R.CE_SLOTn_OUT l.slot) ∧ l.swap = (u.engSlot l.slot).swapped) ∧
      (∀ l ∈ (t.engGroup g).run.getD [], l.ref = u.latchIn l.slot (u.groupSlots g) (u.rd (R.CE_SLOTn_IN_REF l.slot)) ∧ l.fb = u.latchIn l.slot (u.groupSlots g) (u.rd (R.CE_SLOTn_IN_FB l.slot)) ∧ l.ff = u.latchIn l.slot (u.groupSlots g) (u.rd (R.CE_SLOTn_IN_FF l.slot))) ∧
      (t.engGroup g).run.isSome = true ∧ (t.engGroup g).contests = u.groupContests g ∧ (t.engGroup g).trig = tk ∧ (t.engGroup g).doomed = false ∧ (t.engGroup g).due = rest ∧
      OnlyRegs [R.ADC_CNT_SEAL] u t ∧
      Only [.regs, .eng] u t) ∧
  (∀ (s u : State) (g : Fin 8) (tk : Nat) (rest : List Nat),
    s.sys.inReset = false →
    (s.engGroup g).due = tk :: rest →
    u = (s.setEngGroup g { s.engGroup g with due := rest }).runToTick tk →
    u.groupMay g = true →
    (s.engGroup g).run.isSome = true ∨ u.flag F.PWM_STAT_HALT = true →
    Answers (.rgTrigger g none) s fun t =>
      t.get (F.CE_RGn_STAT_OVR g) = satAdd 255 (u.get (F.CE_RGn_STAT_OVR g)) 1 ∧
      t.eng = u.eng ∧
      Raised u t 0x0603 0 ∧
      FaultFrame [R.CE_RGn_STAT g] u t ∧
      Only [.regs, .clk, .tim, .pwm, .gd, .flt, .out] u t) ∧
  (∀ (s u : State) (g : Fin 8) (tk : Nat) (rest : List Nat),
    s.sys.inReset = false →
    (s.engGroup g).due = tk :: rest →
    u = (s.setEngGroup g { s.engGroup g with due := rest }).runToTick tk →
    u.groupMay g = false →
    Answers (.rgTrigger g none) s fun t =>
      t = u) ∧
  (∀ (s s' u : State) (g : Fin 8) (upset : Option (Fin 24576)) (tk : Nat) (rest : List Nat),
    s.sys.inReset = false →
    s' = (match upset with | some w => s.eccSet (0x41000000 + 8 * w.val) true | none => s) →
    (s.engGroup g).due = tk :: rest →
    u = (s'.setEngGroup g { s.engGroup g with due := rest }).runToTick tk →
    u.groupMay g = true →
    (s.engGroup g).run = none →
    u.flag F.PWM_STAT_HALT = false →
    ∃ n ∈ u.groupSlots g, u.slotPoison n ≠ [] →
    Answers (.rgTrigger g upset) s fun t =>
      (t.engGroup g).run.isSome = true ∧
      (t.engGroup g).doomed = true ∧
      t.get F.CE_STAT_ECC = 1 ∧
      HasCause t 0x0607 3 = true ∧ HasCause t 0x0F02 2 = true) ∧
  (∀ (s u : State) (g : Fin 8) (ls : List SlotLatch) (es : List Eval) (tk : Nat),
    s.sys.inReset = false ∧ s.raises = [] →
    s.flag F.PWM_STAT_HALT = false →
    (s.engGroup g).run = some ls →
    (s.engGroup g).doomed = false →
    ∀ e ∈ s.memx.err, e.2 = false →
    tk = (s.engGroup g).trig + 16 * s.groupCost ls (s.engGroup g).contests →
    Nat.max tk s.lnow ≤ (s.engGroup g).trig + s.get (F.CE_RGn_DL_DL g) →
    u = s.runToTick tk →
    u.groupEval g = some es →
    (es.map (·.l.slot)).Nodup →
    ∀ e ∈ es, e.l.slot < 768 →
    ∀ m ∈ (s.engGroup g).contests, m < 64 →
    Answers (.groupCommit g) s fun t =>
      (∀ e ∈ es, t.rd (R.CE_SLOTn_EVALS e.l.slot) = u.rd (R.CE_SLOTn_EVALS e.l.slot) + 1) ∧
      (∀ e ∈ es, t.rd (R.CE_SLOTn_U e.l.slot) = if e.runs then BitVec.ofNat 32 (e.u.getD 0) else u.rd (R.CE_SLOTn_U e.l.slot)) ∧
      (∀ e ∈ es, e.runs = true → t.rd (R.CE_SLOTn_E e.l.slot 0) = BitVec.ofNat 32 e.e0) ∧
      (∀ m ∈ (s.engGroup g).contests, t.rd (R.CE_CONm_Y m) = (match winner (members es m) with | some w => BitVec.ofNat 32 w.c | none => u.rd (R.CE_CONm_Y m)) ∧ ((winner (members es m)).isNone = true → t.get (F.CE_CONm_STAT_EMPTY m) = 1)) ∧
      t.get (F.CE_RGn_STAT_CONSEC g) = 0 ∧
      t.get (F.CE_RGn_RUN_LAST g) = Nat.min ((u.lnow - (s.engGroup g).trig) / 16) 0xFFFF ∧
      t.engGroup g = { due := (s.engGroup g).due } ∧
      Only [.regs, .clk, .rng, .tim, .pwm, .gd, .flt, .eng, .bal, .out] u t) ∧
  (∀ (s u : State) (g : Fin 8) (ls : List SlotLatch),
    s.sys.inReset = false →
    (s.engGroup g).run = some ls →
    ∀ l ∈ ls, l.slot < 768 →
    u = s.runToTick ((s.engGroup g).trig + s.get (F.CE_RGn_DL_DL g)) →
    Answers (.deadlineMiss g) s fun t =>
      (∀ l ∈ ls, t.get (F.CE_SLOTn_STAT_LATE l.slot) = 1 ∧ t.rd (R.CE_SLOTn_U l.slot) = u.rd (R.CE_SLOTn_U l.slot)) ∧
      t.get (F.CE_RGn_STAT_MISSES g) = satAdd 0xFFFF (u.get (F.CE_RGn_STAT_MISSES g)) 1 ∧
      t.get (F.CE_RGn_STAT_CONSEC g) = Nat.min (u.get (F.CE_RGn_STAT_CONSEC g) + 1) 15 ∧
      Raised u t 0x0601 0 ∧
      (u.get (F.CE_RGn_STAT_CONSEC g) + 1 = Nat.max 1 (s.get (F.CE_RGn_CFG_MISS_MAX g)) → HasCause t 0x0602 3 = true) ∧
      t.engGroup g = { due := (s.engGroup g).due } ∧
      Only [.regs, .clk, .rng, .tim, .pwm, .gd, .flt, .eng, .bal, .out] u t) ∧
  (∀ (s : State) (g : Fin 8) (ls : List SlotLatch),
    s.sys.inReset = false →
    (s.engGroup g).run = some ls →
    (s.engGroup g).doomed = false →
    ∀ e ∈ s.memx.err, e.2 = false →
    (s.engGroup g).trig + s.get (F.CE_RGn_DL_DL g) < (s.engGroup g).trig + 16 * s.groupCost ls (s.engGroup g).contests →
    Answers (.groupCommit g) s fun t =>
      t = s.groupMiss g)

/-- GO with a named boundary ahead, or NEXT, with no swap pending and some slot armed, is taken; a named boundary that
is not ahead gives ERR 1 and, with no swap pending, refuses the swap. CANCEL ends a pending swap. A PEEK of a slot
that is on and whose group is enabled waits; any other copies its sixteen words at once, zeros for a slot number above
767. A write of a bank word by the management processor, not in the cycle of a swap and of a word without error, lands
unless the bank is the one in use of a slot that is on, which sets ACT_WR. CNT_CLR clears the counters of R243 and
R265 and keeps the runs of misses. (R225, R226, R227, R241, R242, R243, R244, R265) -/
def Obligations.SwapsPeekAndRecords : Prop :=
  (∀ (s : State) (next : Bool),
    s.sys.inReset = false →
    next = true ∨ scnLater (s.rd R.CE_SWAP_SCN) s.scn = true →
    s.swapPending = false →
    s.slots.any (fun n => s.flag (F.CE_SLOTn_CFG_ARM n)) = true →
    Answers (.swapGo next) s fun t =>
      t.get F.CE_SWAP_CTRL_STATE = 1 ∧
      t.get F.CE_SWAP_CTRL_NEXT = b2n next ∧
      t.get F.CE_SWAP_STAT_ERR = 0 ∧
      OnlyRegs [R.CE_SWAP_CTRL, R.CE_SWAP_STAT] s t ∧
      Only [.regs] s t) ∧
  (∀ (s : State),
    s.sys.inReset = false →
    scnLater (s.rd R.CE_SWAP_SCN) s.scn = false →
    Answers (.swapGo false) s fun t =>
      t.get F.CE_SWAP_STAT_ERR = 1 ∧
      (t.get F.CE_SWAP_CTRL_STATE = (if s.swapPending then 1 else 3)) ∧
      OnlyRegs [R.CE_SWAP_CTRL, R.CE_SWAP_STAT] s t ∧
      Only [.regs] s t) ∧
  (∀ (s : State),
    s.sys.inReset = false →
    s.swapPending = true →
    Answers .swapCancel s fun t =>
      t.get F.CE_SWAP_CTRL_STATE = 0 ∧
      OnlyRegs [R.CE_SWAP_CTRL] s t ∧
      Only [.regs] s t) ∧
  (∀ (s : State) (slot : BitVec 10),
    s.sys.inReset = false →
    (Nat.blt slot.toNat 768 && s.slotOn slot.toNat && s.flag (F.CE_RGn_CFG_EN (s.slotRg slot.toNat))) = false →
    slot.toNat < 768 → s.poisonIn slot.toNat 0x80 0xC0 = [] →
    Answers (.peekRequest slot) s fun t =>
      (∀ i : Fin 16, t.rd (R.CE_PEEK i) = if slot.toNat < 768 then s.rd (R.CE_SLOTn_E slot.toNat 0 + 4 * i.val) else 0) ∧
      t.get F.CE_PEEK_CTRL_DONE = 1 ∧ t.get F.CE_PEEK_CTRL_REQ = 0 ∧ t.get F.CE_PEEK_CTRL_SLOT = slot.toNat ∧
      OnlyRegs (R.CE_PEEK_CTRL :: (List.range 16).map R.CE_PEEK) s t ∧
      Only [.regs, .eng] s t) ∧
  (∀ (s : State) (slot : BitVec 10),
    s.sys.inReset = false →
    (Nat.blt slot.toNat 768 && s.slotOn slot.toNat && s.flag (F.CE_RGn_CFG_EN (s.slotRg slot.toNat))) = true →
    Answers (.peekRequest slot) s fun t =>
      t.eng.peek = some slot.toNat ∧
      t.get F.CE_PEEK_CTRL_DONE = 0 ∧ t.get F.CE_PEEK_CTRL_REQ = 1 ∧ t.get F.CE_PEEK_CTRL_SLOT = slot.toNat ∧
      OnlyRegs [R.CE_PEEK_CTRL] s t ∧
      Only [.regs, .eng] s t) ∧
  (∀ (s : State) (slot : Fin 768) (word : Fin 32) (v : Word),
    s.sys.inReset = false ∧ s.mastersRun .mp = true →
    s.eccErr (0x41000000 + 0x100 * slot.val + 8 * (word.val / 2)) = none →
    s.eng.swapAt = none →
    Answers (.coeffRamWrite .mp slot ⟨word.val, by omega⟩ v .clean) s fun t =>
      (t.rd (0x41000000 + 0x100 * slot.val + 4 * word.val) = (if s.slotOn slot && word.val / 16 == s.get (F.CE_SLOTn_CFG_ACT slot) then s.rd (0x41000000 + 0x100 * slot.val + 4 * word.val) else v)) ∧
      (s.slotOn slot = true → word.val / 16 = s.get (F.CE_SLOTn_CFG_ACT slot) → t.get F.CE_STAT_ACT_WR = 1) ∧
      OnlyRegs [R.CE_STAT, 0x41000000 + 0x100 * slot.val + 4 * word.val] s t ∧
      t.mem = s.mem) ∧
  (∀ (s : State),
    s.sys.inReset = false →
    Answers .ceCntClr s fun t =>
      (∀ g : Fin 8, t.get (F.CE_RGn_STAT_MISSES g) = 0 ∧ t.get (F.CE_RGn_STAT_OVR g) = 0 ∧ t.rd (R.CE_RGn_RUN g) = 0 ∧ t.get (F.CE_RGn_STAT_CONSEC g) = s.get (F.CE_RGn_STAT_CONSEC g)) ∧
      (∀ m : Fin 64, t.get (F.CE_CONm_STAT_HANDOVERS m) = 0) ∧
      OnlyRegs (R.BAL_RUN :: (List.range 8).map R.CE_RGn_STAT ++ (List.range 8).map R.CE_RGn_RUN ++ (List.range 64).map R.CE_CONm_STAT) s t ∧
      Only [.regs] s t)

/-- A run that commits is no longer busy and ends the count of late runs; once the balancer has been started it shows
for every balanced stack the number of switching cells and of ranked ones, and for every ranked cell its energy and
the rank that energy gives it. At a HEAD a bypass or rejoin request for a boundary ahead of the next one is taken when
none is pending, the position is a cell's, and, for a bypass, the cell switches and the stack stays at its minimum; a
taken request changes no cell. A bypass of a position that is no cell's is refused with ERR 3. (R268, R271, R272,
R280, R281, R286) -/
def Obligations.BalancerRunAndRequests : Prop :=
  (∀ (s : State) (locked : Bool),
    s.sys.inReset = false ∧ s.raises = [] →
    s.flag F.BAL_STAT_BUSY = true →
    Answers (.balancerCommit locked) s fun t =>
      t.get F.BAL_STAT_BUSY = 0 ∧
      t.get F.BAL_STAT_CONSEC = 0 ∧
      t.get F.BAL_RUN_LAST = Nat.min ((s.sys.up - s.bal.trig) / 4) 0xFFFF ∧
      t.bal.done = true ∧
      (s.bal.started = true → ∀ k : Fin 3, s.flag (F.BAL_STKs_CFG_EN k) = true → t.get (F.BAL_STKs_STAT_N_ACT k) = (t.switching k).length ∧ t.get (F.BAL_STKs_STAT_N_RK k) = (t.ranked k).length) ∧
      (s.bal.started = true → ∀ k : Fin 3, s.flag (F.BAL_STKs_CFG_EN k) = true → ∀ i ∈ t.ranked k, t.get (F.BAL_STKs_CELLi_STAT_RANK k i) = rankOf (t.energies k) i (t.energy k i) ∧ t.rd (R.BAL_STKs_CELLi_ENERGY k i) = BitVec.ofNat 32 (t.energy k i)) ∧
      Only [.regs, .clk, .rng, .tim, .pwm, .gd, .flt, .bal, .out] s t) ∧
  (∀ (s : State) (next : Bool) (pos : BitVec 8) (k i : Nat),
    s.sys.inReset = false →
    s.isHead = true →
    scnLater (if next then s.scn + 2 else s.rd R.BAL_REQ_SCN) (s.scn + 1) = true →
    s.bal.req = none →
    s.cellAt pos.toNat = some (k, i) →
    s.cellSwitches k i = true →
    s.get (F.BAL_STKs_CFG_N_MIN k) ≤ (s.switching k).length - 1 →
    Answers (.bypassRequest next pos) s fun t =>
      (t.bal = { s.bal with req := some { op := 1, pos := pos.toNat, bound := if next then s.scn + 2 else s.rd R.BAL_REQ_SCN, joined := false } }) ∧
      t.get F.BAL_REQ_STAT_STATE = 1 ∧ t.get F.BAL_REQ_STAT_ERR = 0 ∧
      OnlyRegs [R.BAL_REQ, R.BAL_REQ_STAT] s t ∧
      Only [.regs, .bal] s t) ∧
  (∀ (s : State) (next : Bool) (pos : BitVec 8) (k i : Nat),
    s.sys.inReset = false →
    s.isHead = true →
    scnLater (if next then s.scn + 2 else s.rd R.BAL_REQ_SCN) (s.scn + 1) = true →
    s.bal.req = none →
    s.cellAt pos.toNat = some (k, i) →
    Answers (.rejoinRequest next pos) s fun t =>
      (t.bal = { s.bal with req := some { op := 2, pos := pos.toNat, bound := if next then s.scn + 2 else s.rd R.BAL_REQ_SCN, joined := false } }) ∧
      t.get F.BAL_REQ_STAT_STATE = 1 ∧ t.get F.BAL_REQ_STAT_ERR = 0 ∧
      OnlyRegs [R.BAL_REQ, R.BAL_REQ_STAT] s t ∧
      Only [.regs, .bal] s t) ∧
  (∀ (s : State) (next : Bool) (pos : BitVec 8),
    s.sys.inReset = false →
    s.isHead = true →
    scnLater (if next then s.scn + 2 else s.rd R.BAL_REQ_SCN) (s.scn + 1) = true →
    s.bal.req = none →
    s.cellAt pos.toNat = none →
    Answers (.bypassRequest next pos) s fun t =>
      t.get F.BAL_REQ_STAT_STATE = 3 ∧ t.get F.BAL_REQ_STAT_ERR = 3 ∧
      t.bal = s.bal ∧
      OnlyRegs [R.BAL_REQ, R.BAL_REQ_STAT] s t)

/-- At the end of the SRAM pass the flash is what it was or what something outside has made of it. Slot 0 PENDING is
moved to TRIAL and boots; of two GOOD slots the one with the higher SEQ boots and the flash stays; with no slot
PENDING or GOOD and a flash that answers the load fails with ERR 2 and FC3. A fetch that ends within its time puts the
image into the fetch buffer, leaves the rest of memory, and enters VERIFY. A fetch that runs out of time, at that time
u, and a failed check move the slot's state word to BAD with the result; a GOOD other slot is then tried once, and
otherwise the node enters LOADFAIL with the error and FC3. (R33, R94, R102, R104, R113, R114, R457, R484) -/
def Obligations.BootSelectsAndFetches : Prop :=
  (∀ (s : State) (chip : Option FlashChip),
    s.sys.inReset = false →
    s.stage = Stage.sramInit →
    slotStIn (chip.getD s.flash) 0 = .pending →
    slotStIn (chip.getD s.flash) 1 ≠ .trial →
    Answers (.sramInitDone chip) s fun t =>
      t.stage = Stage.fetch ∧ t.bootSlot = 0 ∧
      t.flash = flashMark (chip.getD s.flash) 0 .trial ∧
      t.get F.IMG_SLOT_S0_STATE = slotCode (t.slotSt 0) ∧
      t.img.fallback = (slotStIn t.flash 1 == .good) ∧ t.img.retried = false ∧
      t.get F.MEM_STAT_INIT_DONE = 1 ∧
      FaultFrame [R.IMG_SLOT, R.MEM_STAT] s t ∧
      Only [.regs, .clk, .flash, .img, .pwm, .gd] s t) ∧
  (∀ (s : State) (chip : Option FlashChip),
    s.sys.inReset = false →
    s.stage = Stage.sramInit →
    slotStIn (chip.getD s.flash) 0 = .good →
    slotStIn (chip.getD s.flash) 1 = .good →
    Answers (.sramInitDone chip) s fun t =>
      (t.stage = Stage.fetch ∧ t.bootSlot = (if hdrSeq (slotHeader t.flash 0) < hdrSeq (slotHeader t.flash 1) then 1 else 0)) ∧
      t.flash = chip.getD s.flash ∧
      t.get F.IMG_SLOT_S0_STATE = 3 ∧ t.get F.IMG_SLOT_S1_STATE = 3 ∧
      t.img.fallback = true ∧ t.img.retried = false ∧
      t.get F.MEM_STAT_INIT_DONE = 1 ∧
      FaultFrame [R.IMG_SLOT, R.MEM_STAT] s t ∧
      Only [.regs, .clk, .flash, .img, .pwm, .gd] s t) ∧
  (∀ (s : State) (chip : Option FlashChip),
    s.sys.inReset = false →
    s.stage = Stage.sramInit →
    (chip.getD s.flash).sfdp.isSome = true →
    slotStIn (chip.getD s.flash) 0 = .empty ∨ slotStIn (chip.getD s.flash) 0 = .bad →
    slotStIn (chip.getD s.flash) 1 = .empty ∨ slotStIn (chip.getD s.flash) 1 = .bad →
    s.flt.fc3 = [] ∧ s.get F.FLT_LOCK_LOCK_N ≠ 1 →
    Answers (.sramInitDone chip) s fun t =>
      t.stage = Stage.loadFail ∧
      t.get F.IMG_STAT_ERR = 2 ∧ t.get F.IMG_STAT_ERR_SECT = 15 ∧
      t.flash = chip.getD s.flash ∧
      HasCause t 0x0101 3 = true ∧
      Only [.regs, .clk, .flash, .img, .lnk, .tim, .pwm, .gd, .flt, .out] s t) ∧
  (∀ (s : State) (n : Nat),
    s.sys.inReset = false →
    s.stage = Stage.fetch →
    (s.sys.up - s.img.fetchAt) * 16 ≤ fetchLimit (slotHeader s.flash s.bootSlot) * 25 →
    n = Nat.min fetchBufferLen (Nat.min (hdrLen (slotHeader s.flash s.bootSlot)) (slotSize s.flash)) →
    Answers .fetchDone s fun t =>
      t.stage = Stage.verify ∧
      (∀ k, k < n → t.byte (fetchBuffer + k) = (flashRead s.flash (slotBase s.flash s.bootSlot) n).getD k 0) ∧
      (∀ a, a < fetchBuffer ∨ fetchBuffer + n ≤ a → t.byte a = s.byte a) ∧
      t.flash = s.flash ∧ t.img = s.img ∧
      FaultFrame [] s t ∧
      Only [.regs, .mem, .clk, .pwm, .gd] s t) ∧
  (∀ (s u : State),
    s.sys.inReset = false →
    s.stage = Stage.fetch →
    s.img.fallback = true ∧ s.img.retried = false →
    u = s.runAfter s.img.fetchAt (fetchLimit (slotHeader s.flash s.bootSlot)) →
    Answers .fetchTimeout s fun t =>
      t.stage = Stage.fetch ∧ t.bootSlot = 1 - u.bootSlot ∧
      t.flash = flashMark s.flash u.bootSlot .bad ∧ t.get (slotResFld u.bootSlot) = 11 ∧
      t.img.retried = true ∧ t.img.fetchAt = u.sys.up ∧
      FaultFrame [R.IMG_SLOT] u t ∧
      Only [.regs, .clk, .flash, .img, .pwm, .gd] u t) ∧
  (∀ (s u : State),
    s.sys.inReset = false →
    s.stage = Stage.fetch →
    s.img.fallback = false ∨ s.img.retried = true →
    s.flt.fc3 = [] ∧ s.get F.FLT_LOCK_LOCK_N ≠ 1 →
    u = s.runAfter s.img.fetchAt (fetchLimit (slotHeader s.flash s.bootSlot)) →
    Answers .fetchTimeout s fun t =>
      t.stage = Stage.loadFail ∧ t.get F.IMG_STAT_ERR = 11 ∧
      t.flash = flashMark s.flash u.bootSlot .bad ∧ t.get (slotResFld u.bootSlot) = 11 ∧
      HasCause t 0x0101 3 = true ∧
      Only [.regs, .clk, .flash, .img, .lnk, .tim, .pwm, .gd, .flt, .out] u t) ∧
  (∀ (s : State) (st : StationRead) (err sect : Nat),
    s.sys.inReset = false →
    s.stage = Stage.verify →
    s.verify s.bootSlot st.bufferBad = some (err, sect) →
    s.img.fallback = false ∨ s.img.retried = true →
    s.flt.fc3 = [] ∧ s.get F.FLT_LOCK_LOCK_N ≠ 1 →
    Answers (.verifyDone st) s fun t =>
      t.stage = Stage.loadFail ∧ t.get F.IMG_STAT_ERR = err % 16 ∧ t.get F.IMG_STAT_ERR_SECT = sect % 16 ∧
      t.flash = flashMark s.flash s.bootSlot .bad ∧ t.get (slotResFld s.bootSlot) = err % 16 ∧
      t.img = { s.img with vendorOk := s.firmwareOk s.bootSlot } ∧
      HasCause t 0x0101 3 = true ∧
      Only [.regs, .clk, .flash, .img, .lnk, .tim, .pwm, .gd, .flt, .out] s t)

/-- img is what the node keeps of the verified image. A node whose position has an entry in the station table that
contradicts nothing, and whose equalisation rows and configuration keep every range, takes the role of its entry and
the image's epochs and SEQ, keeps img, and waits in BIND for the boot lock; an equalisation row or a configuration out
of range fails with ERR 9 and the role stays; a position that is not in the table, is 0xFF, or whose entry contradicts
the rules of the roles leaves the node UNBOUND with FC3 and the reason. The boot lock is then set, the fetch buffer is
zeroed and the lanes start. (R11, R29, R31, R32, R33, R41, R94, R98, R102, R104, R142) -/
def Obligations.ImageBindsTheNode : Prop :=
  (∀ (s : State) (st : StationRead) (img : ImageRead) (e : StationEntry),
    s.sys.inReset = false →
    s.stage = Stage.verify →
    s.verify s.bootSlot st.bufferBad = none →
    img = slotImage s.flash s.bootSlot s.pos st →
    img.eq.all eqRowOk = true →
    bindCode img s.pos = (0, some e) →
    (({ s with img := { s.img with image := img, vendorOk := true } }.bindRole e img.single).loadImage st.cfg).isSome = true →
    Answers (.verifyDone st) s fun t =>
      t.stage = Stage.bind ∧
      t.get F.SYS_ROLE_ROLE = e.role ∧ t.get F.SYS_ROLE_BIND = 0 ∧
      t.get F.IMG_EPOCH_EPOCH = img.epoch % 65536 ∧ t.get F.IMG_EPOCH_MIN_EPOCH = img.minEpoch % 65536 ∧
      t.rd R.IMG_SEQ = img.seq ∧
      t.get (slotResFld s.bootSlot) = 0 ∧
      t.img.image = img ∧ t.img.vendorOk = true ∧
      t.flash = s.flash ∧ t.fuse = s.fuse ∧ t.flt.causes = s.flt.causes) ∧
  (∀ (s : State) (st : StationRead) (img : ImageRead) (e : StationEntry),
    s.sys.inReset = false →
    s.stage = Stage.verify →
    s.verify s.bootSlot st.bufferBad = none →
    img = slotImage s.flash s.bootSlot s.pos st →
    img.eq.all eqRowOk = true →
    bindCode img s.pos = (0, some e) →
    ({ s with img := { s.img with image := img, vendorOk := true } }.bindRole e img.single).loadImage st.cfg = none →
    s.img.fallback = false ∨ s.img.retried = true →
    s.flt.fc3 = [] ∧ s.get F.FLT_LOCK_LOCK_N ≠ 1 →
    Answers (.verifyDone st) s fun t =>
      t.stage = Stage.loadFail ∧ t.get F.IMG_STAT_ERR = 9 ∧
      t.flash = flashMark s.flash s.bootSlot .bad ∧ t.get (slotResFld s.bootSlot) = 9 ∧
      HasCause t 0x0101 3 = true ∧
      t.get F.SYS_ROLE_ROLE = s.get F.SYS_ROLE_ROLE) ∧
  (∀ (s : State) (st : StationRead),
    s.sys.inReset = false →
    s.stage = Stage.verify →
    s.verify s.bootSlot st.bufferBad = none →
    (slotImage s.flash s.bootSlot s.pos st).eq.all eqRowOk = false →
    s.img.fallback = false ∨ s.img.retried = true →
    s.flt.fc3 = [] ∧ s.get F.FLT_LOCK_LOCK_N ≠ 1 →
    Answers (.verifyDone st) s fun t =>
      t.stage = Stage.loadFail ∧ t.get F.IMG_STAT_ERR = 9 ∧ t.get F.IMG_STAT_ERR_SECT = dirIdx (slotHeader s.flash s.bootSlot) 3 % 16 ∧
      t.flash = flashMark s.flash s.bootSlot .bad ∧ t.get (slotResFld s.bootSlot) = 9 ∧
      HasCause t 0x0101 3 = true ∧
      t.get F.SYS_ROLE_ROLE = s.get F.SYS_ROLE_ROLE) ∧
  (∀ (s : State) (st : StationRead) (img : ImageRead) (code : Nat),
    s.sys.inReset = false →
    s.stage = Stage.verify →
    s.verify s.bootSlot st.bufferBad = none →
    img = slotImage s.flash s.bootSlot s.pos st →
    img.eq.all eqRowOk = true →
    bindCode img s.pos = (code, none) →
    s.flt.fc3 = [] ∧ s.get F.FLT_LOCK_LOCK_N ≠ 1 →
    Answers (.verifyDone st) s fun t =>
      t.stage = Stage.unbound ∧ t.get F.SYS_ROLE_BIND = code ∧
      (code = (if s.pos = 0xFF then 2 else if (img.table.any fun e => e.pos.toNat == s.pos) = true then 3 else 1)) ∧
      t.get F.SYS_ROLE_ROLE = s.get F.SYS_ROLE_ROLE ∧
      HasCause t 0x0101 3 = true ∧
      t.flash = s.flash) ∧
  (∀ (s : State),
    s.sys.inReset = false →
    s.stage = Stage.bind →
    Answers .bootLock s fun t =>
      t.sys.bootLock = true ∧
      t.stage = Stage.lanes ∧
      t.mem = s.mem.filter (fun e => Nat.blt e.1 fetchBuffer || Nat.ble (fetchBuffer + fetchBufferLen) e.1) ∧
      RegsOff (fun a => faultReg a || a / 0x10000 == 0x4003) s t ∧
      Only [.regs, .mem, .sys, .clk, .lnk, .tim, .pwm, .gd, .flt, .out] s t)

/-- A write of IMG_PROV with key and FUSE on the debug port of a blank part fuses the digest of the booted header's
OWNER_PUB into K0 where its OWNER_SIG holds, and otherwise sets PROV_ERR and fuses nothing; of any other master, or
with DBGSEL low, it is a violation. A TRIAL slot still in trial at 30 s, u, is moved to BAD and the node resets
through SOFT. For the management processor, with no command running: ERASE erases the state sector of the inactive
slot and starts; PROGRAM with a source in SRAM and a length that fits the slot starts, a PENDING slot becoming BAD
first, and is refused with ERR 4 for any other range; VERIFY starts; ARM moves the slot to PENDING exactly when the
last VERIFY passed. ABORT ends what runs, and a VERIFY that it ends leaves the flash; another command while one runs
is refused with ERR 1. At its end a command is DONE: VERIFY with the checks' error plus 4, or VERIFIED; a flash error
gives ERR 3. (R72, R92, R99, R100, R113, R114, R115) -/
def Obligations.ProvisioningTrialAndUpdate : Prop :=
  (∀ (s : State) (v : Word),
    s.sys.inReset = false ∧ s.mastersRun .dbg = true →
    s.sys.dbgsel = true →
    v.toNat / 65536 = 0xC35A ∧ v.getLsbD 0 = true →
    s.keysBlank = true →
    ownerSigOk (slotHeader s.flash s.bootSlot) = true →
    Answers (.imgProvWrite .dbg v) s fun t =>
      t.keyState 0 = .active ∧ t.activeKey = some 0 ∧ t.keyDig 0 = ownerDigOf (slotHeader s.flash s.bootSlot) ∧
      t.get F.IMG_OWNER_STAT_ACTIVE = 0 ∧ t.get F.IMG_OWNER_STAT_PROV_ERR = 0 ∧
      (∀ i : Fin 8, t.rd (R.IMG_OWNER_DIG i) = digWord (ownerDigOf (slotHeader s.flash s.bootSlot)) i) ∧
      t.keyState 1 = .blank ∧ t.keyState 2 = .blank ∧
      OnlyRegs (R.IMG_OWNER_STAT :: (List.range 8).map R.IMG_OWNER_DIG) s t ∧
      Only [.regs, .fuse] s t) ∧
  (∀ (s : State) (v : Word),
    s.sys.inReset = false ∧ s.mastersRun .dbg = true →
    s.sys.dbgsel = true →
    v.toNat / 65536 = 0xC35A ∧ v.getLsbD 0 = true →
    s.keysBlank = true →
    ownerSigOk (slotHeader s.flash s.bootSlot) = false →
    Answers (.imgProvWrite .dbg v) s fun t =>
      t.get F.IMG_OWNER_STAT_PROV_ERR = 1 ∧
      t.fuse = s.fuse ∧ t.keysBlank = true ∧
      OnlyRegs [R.IMG_OWNER_STAT] s t ∧
      Only [.regs] s t) ∧
  (∀ (s : State) (m : Master) (v : Word),
    s.sys.inReset = false ∧ s.mastersRun m = true →
    m ≠ .dbg ∨ s.sys.dbgsel = false →
    Answers (.imgProvWrite m v) s fun t =>
      t.num R.SYS_VIOL_CNT = satAdd 0xFFFFFFFF (s.num R.SYS_VIOL_CNT) 1 ∧
      OnlyRegs [R.SYS_VIOL_CNT, R.SYS_VIOL_LAST] s t ∧
      Only [.regs] s t) ∧
  (∀ (s u : State),
    s.sys.inReset = false ∧ s.raises = [] →
    s.slotSt s.bootSlot = .trial →
    Stage.fetch ≤ s.stage →
    u = s.runUp (msTicks 30000) →
    Answers .trialTimeout s fun t =>
      (s.img.upd = none → t.flash = flashMark s.flash u.bootSlot .bad) ∧
      t.sys.inReset = true ∧
      t.get F.SYS_RST_CAUSE_SOFT = 1 ∧
      t.flt.lockout = s.flt.lockout ∧
      Only [.regs, .mem, .sys, .clk, .flash, .img, .lnk, .rng, .tim, .pwm, .gd, .dpx, .flt, .eng, .adc, .memx, .thm, .bal, .saf, .sup, .mbx, .mtr, .raises, .out, .free] s t) ∧
  (∀ (s : State) (m : Master),
    s.sys.inReset = false ∧ s.mastersRun m = true →
    s.asMp m = true →
    s.img.upd = none →
    Answers (.imgErase m) s fun t =>
      t.flash = flashErase s.flash (slotBase s.flash s.otherSlot + stateSector) stateSectorLen ∧ t.img.upd = some .erase ∧
      t.get F.IMG_UPD_STAT_BUSY = 1 ∧ t.get F.IMG_UPD_STAT_DONE = 0 ∧ t.get F.IMG_UPD_STAT_ERR = 0 ∧
      OnlyRegs [R.IMG_SLOT, R.IMG_UPD_STAT] s t ∧
      Only [.regs, .flash, .img] s t) ∧
  (∀ (s : State) (m : Master),
    s.sys.inReset = false ∧ s.mastersRun m = true →
    s.asMp m = true →
    s.img.upd = none →
    s.num R.IMG_UPD_SRC % 4 = 0 ∧ s.num R.IMG_UPD_LEN % 256 = 0 ∧ s.num R.IMG_UPD_LEN ≠ 0 →
    0x20000000 ≤ s.num R.IMG_UPD_SRC ∧ s.num R.IMG_UPD_SRC + s.num R.IMG_UPD_LEN ≤ 0x21000000 →
    s.num R.IMG_UPD_LEN ≤ slotSize s.flash →
    Answers (.imgProgram m) s fun t =>
      t.img.upd = some (.program (s.num R.IMG_UPD_SRC) (s.num R.IMG_UPD_LEN)) ∧
      t.get F.IMG_UPD_STAT_BUSY = 1 ∧ t.get F.IMG_UPD_STAT_DONE = 0 ∧ t.get F.IMG_UPD_STAT_ERR = 0 ∧
      (t.flash = (if s.slotSt s.otherSlot = .pending then flashMark s.flash s.otherSlot .bad else s.flash)) ∧
      OnlyRegs [R.IMG_SLOT, R.IMG_UPD_STAT] s t ∧
      Only [.regs, .flash, .img] s t) ∧
  (∀ (s : State) (m : Master),
    s.sys.inReset = false ∧ s.mastersRun m = true →
    s.asMp m = true →
    s.img.upd = none →
    s.num R.IMG_UPD_SRC % 4 ≠ 0 ∨ s.num R.IMG_UPD_LEN % 256 ≠ 0 ∨ s.num R.IMG_UPD_LEN = 0 ∨ s.num R.IMG_UPD_SRC < 0x20000000 ∨ 0x21000000 < s.num R.IMG_UPD_SRC + s.num R.IMG_UPD_LEN ∨ slotSize s.flash < s.num R.IMG_UPD_LEN →
    Answers (.imgProgram m) s fun t =>
      t.get F.IMG_UPD_STAT_ERR = 4 ∧ t.get F.IMG_UPD_STAT_DONE = 0 ∧
      OnlyRegs [R.IMG_UPD_STAT] s t ∧
      Only [.regs] s t) ∧
  (∀ (s : State) (m : Master),
    s.sys.inReset = false ∧ s.mastersRun m = true →
    s.asMp m = true →
    s.img.upd = none →
    Answers (.imgVerify m) s fun t =>
      t.img.upd = some .verify ∧
      t.get F.IMG_UPD_STAT_BUSY = 1 ∧ t.get F.IMG_UPD_STAT_DONE = 0 ∧ t.get F.IMG_UPD_STAT_ERR = 0 ∧
      OnlyRegs [R.IMG_UPD_STAT] s t ∧
      Only [.regs, .img] s t) ∧
  (∀ (s : State) (m : Master),
    s.sys.inReset = false ∧ s.mastersRun m = true →
    s.asMp m = true →
    s.img.upd = none →
    Answers (.imgArm m) s fun t =>
      (t.flash = (if s.flag F.IMG_UPD_STAT_VERIFIED then flashMark s.flash s.otherSlot .pending else s.flash)) ∧
      (t.get F.IMG_UPD_STAT_ERR = (if s.flag F.IMG_UPD_STAT_VERIFIED then 0 else 2)) ∧
      t.get F.IMG_UPD_STAT_VERIFIED = 0 ∧
      t.get F.IMG_UPD_STAT_DONE = b2n (s.flag F.IMG_UPD_STAT_VERIFIED) ∧
      OnlyRegs [R.IMG_SLOT, R.IMG_UPD_STAT] s t ∧
      Only [.regs, .flash, .img] s t) ∧
  (∀ (s : State) (m : Master),
    s.sys.inReset = false ∧ s.mastersRun m = true →
    s.asMp m = true →
    s.img.upd ≠ none →
    Answers (.imgAbort m) s fun t =>
      t.img.upd = none ∧
      t.get F.IMG_UPD_STAT_BUSY = 0 ∧ t.get F.IMG_UPD_STAT_VERIFIED = 0 ∧
      (s.img.upd = some .verify → t.flash = s.flash) ∧
      OnlyRegs [R.IMG_UPD_STAT] s t ∧
      Only [.regs, .flash, .img, .free] s t) ∧
  (∀ (s : State) (m : Master),
    s.sys.inReset = false ∧ s.mastersRun m = true →
    s.asMp m = true →
    s.img.upd ≠ none →
    Answers (.imgErase m) s fun t =>
      t.get F.IMG_UPD_STAT_ERR = 1 ∧
      OnlyRegs [R.IMG_UPD_STAT] s t ∧
      Only [.regs] s t) ∧
  (∀ (s : State) (bb : Bool),
    s.sys.inReset = false →
    s.img.upd = some .verify →
    Answers (.imgUpdDone false bb) s fun t =>
      t.img.upd = none ∧ t.flash = s.flash ∧
      t.get F.IMG_UPD_STAT_DONE = 1 ∧ t.get F.IMG_UPD_STAT_BUSY = 0 ∧
      t.get F.IMG_UPD_STAT_VERIFIED = b2n (s.verify s.otherSlot bb).isNone ∧
      t.get F.IMG_UPD_STAT_ERR = (match s.verify s.otherSlot bb with | some (e, _) => (e + 4) % 16 | none => 0) ∧
      OnlyRegs [R.IMG_UPD_STAT, R.IMG_SLOT] s t ∧
      Only [.regs, .img] s t) ∧
  (∀ (s : State) (bb : Bool) (k : UpdCmd),
    s.sys.inReset = false →
    s.img.upd = some k →
    k ≠ .verify →
    Answers (.imgUpdDone false bb) s fun t =>
      t.img.upd = none ∧ t.flash = (s.updPart k (match k with | .program _ len => len | _ => slotSize s.flash)).flash ∧
      t.get F.IMG_UPD_STAT_DONE = 1 ∧ t.get F.IMG_UPD_STAT_BUSY = 0 ∧ t.get F.IMG_UPD_STAT_VERIFIED = 0 ∧ t.get F.IMG_UPD_STAT_ERR = 0 ∧
      OnlyRegs [R.IMG_UPD_STAT, R.IMG_SLOT] s t ∧
      Only [.regs, .flash, .img] s t) ∧
  (∀ (s : State) (bb : Bool) (k : UpdCmd),
    s.sys.inReset = false →
    s.img.upd = some k →
    Answers (.imgUpdDone true bb) s fun t =>
      t.img.upd = none ∧
      t.get F.IMG_UPD_STAT_DONE = 1 ∧ t.get F.IMG_UPD_STAT_BUSY = 0 ∧ t.get F.IMG_UPD_STAT_VERIFIED = 0 ∧ t.get F.IMG_UPD_STAT_ERR = 3 ∧
      OnlyRegs [R.IMG_UPD_STAT] s t ∧
      Only [.regs, .flash, .img, .free] s t)

/-- For a position of its station table the primary in service refuses a node whose position is its own or an admitted
node's of another device, raising row 2 of R457 and changing no member; then an incompatible epoch with reason 2; it
holds an unknown configuration with reason 3 and then a late offset with reason 4, each raising row 3 with FC1; and
otherwise it admits the position into PB_ADM and sends the grant. Every answer goes to the node. A node held for time
is tried again from 64 cycles on: it is admitted when the offset is in, and held again, raising row 3, when not;
before that nothing happens. (R34, R95, R109, R185, R457) -/
def Obligations.AdmissionAtPrimary : Prop :=
  (∀ (s : State) (pos : BitVec 8) (epoch minEpoch : Nat) (dig : BitVec 64) (lists : Bool) (dev : BitVec 64),
    s.sys.inReset = false →
    s.isPrimary = true ∧ s.inService = true →
    (s.img.image.table.any fun e => e.pos.toNat == pos.toNat) = true →
    s.admTaken pos.toNat dev = false →
    s.img.image.minEpoch ≤ epoch ∧ minEpoch ≤ s.img.image.epoch →
    dig = s.img.image.cfgDig ∨ lists = true ∨ dig ∈ s.img.image.pred →
    Answers (.admissionRequest (.request pos epoch minEpoch dig lists true dev)) s fun t =>
      (t.member pos.toNat).adm = 2 ∧ (t.member pos.toNat).stage = Stage.pbAdm ∧ (t.member pos.toNat).reason = 0 ∧
      (∀ a, a ≠ pos.toNat → t.member a = s.member a) ∧
      t.out = s.out ++ [.admission pos.toNat s.grant] ∧
      Only [.dpx, .out] s t) ∧
  (∀ (s : State) (pos : BitVec 8) (epoch minEpoch : Nat) (dig : BitVec 64) (lists timeOk : Bool) (dev : BitVec 64),
    s.sys.inReset = false →
    s.isPrimary = true ∧ s.inService = true →
    (s.img.image.table.any fun e => e.pos.toNat == pos.toNat) = true →
    s.admTaken pos.toNat dev = false →
    epoch < s.img.image.minEpoch ∨ s.img.image.epoch < minEpoch →
    Answers (.admissionRequest (.request pos epoch minEpoch dig lists timeOk dev)) s fun t =>
      (t.member pos.toNat).adm = 4 ∧ (t.member pos.toNat).reason = 2 ∧
      (∀ a, a ≠ pos.toNat → t.member a = s.member a) ∧
      .admission pos.toNat (.denied (BitVec.ofNat 8 s.pos) false 2) ∈ t.out ∧
      Raised s t 0x0103 1 ∧
      FaultFrame [] s t ∧
      Only [.regs, .clk, .tim, .pwm, .gd, .dpx, .flt, .out] s t) ∧
  (∀ (s : State) (pos : BitVec 8) (epoch minEpoch : Nat) (dig : BitVec 64) (lists timeOk : Bool) (dev : BitVec 64) (reason : Nat),
    s.sys.inReset = false →
    s.isPrimary = true ∧ s.inService = true →
    (s.img.image.table.any fun e => e.pos.toNat == pos.toNat) = true →
    s.admTaken pos.toNat dev = false →
    s.img.image.minEpoch ≤ epoch ∧ minEpoch ≤ s.img.image.epoch →
    (reason = 3 ∧ dig ≠ s.img.image.cfgDig ∧ lists = false ∧ dig ∉ s.img.image.pred) ∨ (reason = 4 ∧ timeOk = false ∧ (dig = s.img.image.cfgDig ∨ lists = true ∨ dig ∈ s.img.image.pred)) →
    Answers (.admissionRequest (.request pos epoch minEpoch dig lists timeOk dev)) s fun t =>
      (t.member pos.toNat).adm = 3 ∧ (t.member pos.toNat).reason = reason ∧
      (∀ a, a ≠ pos.toNat → t.member a = s.member a) ∧
      .admission pos.toNat (.denied (BitVec.ofNat 8 s.pos) true reason) ∈ t.out ∧
      Raised s t 0x0103 1 ∧
      FaultFrame [] s t ∧
      Only [.regs, .clk, .tim, .pwm, .gd, .dpx, .flt, .out] s t) ∧
  (∀ (s : State) (pos : BitVec 8) (epoch minEpoch : Nat) (dig : BitVec 64) (lists timeOk : Bool) (dev : BitVec 64),
    s.sys.inReset = false →
    s.isPrimary = true ∧ s.inService = true →
    (s.img.image.table.any fun e => e.pos.toNat == pos.toNat) = true →
    s.admTaken pos.toNat dev = true →
    Answers (.admissionRequest (.request pos epoch minEpoch dig lists timeOk dev)) s fun t =>
      t.dpx = s.dpx ∧
      .admission pos.toNat (.denied (BitVec.ofNat 8 s.pos) false 1) ∈ t.out ∧
      Raised s t 0x0102 1 ∧
      FaultFrame [] s t ∧
      Only [.regs, .clk, .tim, .pwm, .gd, .flt, .out] s t) ∧
  (∀ (s : State) (pos : BitVec 8) (timeOk : Bool),
    s.sys.inReset = false →
    s.isPrimary = true →
    (s.member pos.toNat).adm = 3 ∧ (s.member pos.toNat).reason = 4 →
    64 ≤ (s.scn - (s.ask pos.toNat).heldAt).toNat →
    Answers (.admissionTimeRetry pos timeOk) s fun t =>
      ((t.member pos.toNat).adm = (if timeOk then 2 else 3) ∧ (t.member pos.toNat).reason = (if timeOk then 0 else 4)) ∧
      (timeOk = true → t.flt = s.flt ∧ (t.member pos.toNat).stage = Stage.pbAdm ∧ t.out = s.out ++ [.admission pos.toNat s.grant]) ∧
      (timeOk = false → Raised s t 0x0103 1) ∧
      (∀ a, a ≠ pos.toNat → t.member a = s.member a) ∧
      FaultFrame [] s t ∧
      Only [.regs, .clk, .tim, .pwm, .gd, .dpx, .flt, .out] s t) ∧
  (∀ (s : State) (pos : BitVec 8) (timeOk : Bool),
    (s.scn - (s.ask pos.toNat).heldAt).toNat < 64 →
    Answers (.admissionTimeRetry pos timeOk) s fun t =>
      t = s)

/-- A member in Par-bake, whose slot is not in trial, that is granted admission loads SCN, STIME, the schedule, the
tier and the obeyed HEAD and enters PB_ADM, and its spread ramp is aligned when the source's heartbeat has told its
phase; a HEAD records tier and primary, and one in START without FC3 enters SYNC. A refusal or a hold shows its reason
and the HEAD, and reason 1 is also a binding refusal. A node in FULL or REFUSED takes no answer. (R34, R85, R106,
R109, R185, R395, R397) -/
def Obligations.AdmissionAtNode : Prop :=
  (∀ (s : State) (head : BitVec 8) (scn : Word) (st : BitVec 48) (next : Nat) (tier : BitVec 8) (pb : Bool),
    s.sys.inReset = false →
    s.admOpen = true →
    s.slotSt s.bootSlot ≠ .trial →
    s.isHead = false →
    Answers (.admissionRequest (.granted head scn st next tier pb)) s fun t =>
      t.stage = Stage.pbAdm ∧ t.get F.IMG_ADM_STAT_ADM = 2 ∧ t.get F.IMG_ADM_STAT_HEAD_POS = head.toNat ∧
      t.scn = scn ∧
      t.tim.stime = st.toNat * 2 ^ 24 ∧ t.tim.nextB = next % ltimeWrap ∧
      t.get F.DPX_MBR_STAT_TIER = tier.toNat ∧ t.get F.DPX_MBR_STAT_OBEY = head.toNat ∧
      t.get F.IMG_STAT_STN_PB = b2n pb ∧
      (s.clk.srcRamp.isSome = true → t.flag F.CLK_STAT_RAMP_ALN = true) ∧
      t.flash = s.flash ∧ t.fuse = s.fuse) ∧
  (∀ (s : State) (head : BitVec 8) (scn : Word) (st : BitVec 48) (next : Nat) (tier : BitVec 8) (pb : Bool),
    s.sys.inReset = false →
    s.admOpen = true →
    s.slotSt s.bootSlot ≠ .trial →
    s.isHead = true →
    Answers (.admissionRequest (.granted head scn st next tier pb)) s fun t =>
      t.stage = Stage.pbAdm ∧ t.get F.IMG_ADM_STAT_ADM = 2 ∧ t.scn = scn ∧
      t.get F.DPX_STAT_TIER = tier.toNat ∧ t.get F.DPX_STAT_PRIM = head.toNat ∧
      (s.dpxState = Dpx.start → s.holdsFc3 = false → t.dpxState = Dpx.sync) ∧
      t.dpx.hasTier = true) ∧
  (∀ (s : State) (head : BitVec 8) (held : Bool) (reason : Nat),
    s.sys.inReset = false →
    s.admOpen = true →
    s.isHead = false →
    Answers (.admissionRequest (.denied head held reason)) s fun t =>
      (t.stage = (if held then Stage.held else Stage.refused)) ∧
      t.get F.IMG_ADM_STAT_ADM = 3 ∧ t.get F.IMG_ADM_STAT_REASON = reason % 16 ∧ t.get F.IMG_ADM_STAT_HEAD_POS = head.toNat ∧
      (t.get F.SYS_ROLE_BIND = (if reason = 1 then 4 else s.get F.SYS_ROLE_BIND)) ∧
      FaultFrame [R.IMG_ADM_STAT, R.SYS_ROLE] s t) ∧
  (∀ (s : State) (head : BitVec 8) (held : Bool) (reason : Nat),
    s.sys.inReset = false →
    s.stage = Stage.full ∨ s.stage = Stage.refused →
    Answers (.admissionRequest (.denied head held reason)) s fun t =>
      t = s)

/-- In station Par-bake a primary in service names full service when every position of its table stands in PB_ADM with
time lock, or once ST_WAIT has expired and every stack has its minimum of admitted cells; otherwise it names nothing
and reports the positions that are missing. An admitted standby takes the named boundary. ST_WAIT has expired at its
time u after the entry into PB_WAIT. A primary names a splice only out of station Par-bake, for another position that
is admitted and time-locked in PB_ADM, and with no splice in progress. Nothing else changes when a boundary is named.
(R107, R118) -/
def Obligations.FullServiceAndSpliceNamed : Prop :=
  (∀ (s : State) (locked unlocked : List (BitVec 8)),
    s.sys.inReset = false →
    s.isHead = true ∧ s.inService = true ∧ s.admitted = true ∧ s.flag F.IMG_STAT_STN_PB = true ∧ s.img.fullS = none →
    s.isPrimary = false ∨ s.missingPos (locked.map (·.toNat)) = [] ∨ s.minimumOk = true →
    Answers (.fullServiceNamed locked unlocked) s fun t =>
      t.img = { s.img with fullS := some (s.scn + 64), unlocked := unlocked } ∧
      Only [.img] s t) ∧
  (∀ (s : State) (locked unlocked : List (BitVec 8)),
    s.sys.inReset = false →
    s.isHead = true ∧ s.inService = true ∧ s.admitted = true ∧ s.flag F.IMG_STAT_STN_PB = true ∧ s.img.fullS = none →
    s.isPrimary = true ∧ s.missingPos (locked.map (·.toNat)) ≠ [] ∧ s.minimumOk = false →
    Answers (.fullServiceNamed locked unlocked) s fun t =>
      t.img = s.img ∧
      t.out = s.out ++ [.missing (s.missingPos (locked.map (·.toNat)))] ∧
      Only [.out] s t) ∧
  (∀ (s u : State),
    s.sys.inReset = false →
    s.running = true ∧ s.img.stWait = false →
    u = s.runUp (s.img.pbAt + msTicks s.img.image.stWait) →
    Answers .stWaitExpiry s fun t =>
      t.img = { s.img with stWait := true } ∧
      Only [.img, .out] u t) ∧
  (∀ (s : State) (pos : BitVec 8),
    s.sys.inReset = false →
    s.flag F.IMG_STAT_STN_PB = false ∧ s.img.splice = none →
    s.isPrimary = true ∧ (s.member pos.toNat).adm = 2 ∧ (s.member pos.toNat).stage = Stage.pbAdm ∧ pos.toNat ≠ s.pos →
    Answers (.spliceNamed pos true) s fun t =>
      t.img = { s.img with splice := some (s.scn + 64, pos), spliceSw := false } ∧
      Only [.img] s t) ∧
  (∀ (s : State) (pos : BitVec 8) (locked : Bool),
    s.flag F.IMG_STAT_STN_PB = true ∨ s.img.splice ≠ none ∨ (s.isPrimary = true ∧ (locked = false ∨ (s.member pos.toNat).adm ≠ 2 ∨ (s.member pos.toNat).stage ≠ Stage.pbAdm)) →
    Answers (.spliceNamed pos locked) s fun t =>
      t = s)

/-- u is the state at the boundary, with the heartbeats and commands taken that came in an earlier fabric cycle. At
the boundary SCN counts one, the boundary passed is recorded, and the cycle's collected traffic is put away. At a
member a staged command of the new cycle that stands alone comes into force and leaves the stage; a cycle in service,
with no full-service or splice boundary named and on no spur, in which no command was served is held and counted.
(R36, R39, R164, R185, R407) -/
def Obligations.CycleBoundary : Prop :=
  (∀ (s u : State) (bad : Bool),
    s.sys.inReset = false ∧ s.raises = [] →
    u = (((s.runTo s.tim.nextB).takeEarly Ty.hb fun a s => s.hbReceived a).takeEarly Ty.dn fun a s => s.dnReceived a) →
    Answers (.cycleBoundary bad) s fun t =>
      t.rd R.TIM_SCN = u.rd R.TIM_SCN + 1 ∧
      t.tim.lastB = u.tim.nextB ∧
      t.rng.upItems = [] ∧ t.rng.dnServed = false ∧ t.rng.dnLate = false ∧
      t.dpx.juryNow = 0 ∧
      t.vault = s.vault ∧ t.fuse = s.fuse ∧ t.pending = s.pending) ∧
  (∀ (s u : State) (bad : Bool) (i : Item),
    s.sys.inReset = false ∧ s.raises = [] →
    u = (((s.runTo s.tim.nextB).takeEarly Ty.hb fun a s => s.hbReceived a).takeEarly Ty.dn fun a s => s.dnReceived a) →
    u.isMember = true →
    u.rng.staged = [i] →
    i.scn = (u.scn + 1).toNat % 256 →
    Answers (.cycleBoundary bad) s fun t =>
      i ∈ t.rng.inForce ∧ t.rng.staged = []) ∧
  (∀ (s u : State) (bad : Bool),
    s.sys.inReset = false ∧ s.raises = [] →
    u = (((s.runTo s.tim.nextB).takeEarly Ty.hb fun a s => s.hbReceived a).takeEarly Ty.dn fun a s => s.dnReceived a) →
    u.isMember = true ∧ u.inService = true ∧ u.img.fullS = none ∧ u.img.splice = none →
    u.rng.dnServed = false ∧ u.onSpur = false →
    Answers (.cycleBoundary bad) s fun t =>
      t.get F.DPX_MBR_STAT_HOLD = Nat.min 15 (u.get F.DPX_MBR_STAT_HOLD + 1) ∧
      t.flag F.DPX_MBR_STAT_HELD = true ∧
      t.get F.DPX_MBR_CNT_HELD = satAdd 0xFFFF (u.get F.DPX_MBR_CNT_HELD) 1)

/-- A lane PLL that locks, with a band that is free, takes its waiting lanes to CDR; one that loses lock takes its
lanes that are neither OFF nor in CHILL back to PLLWAIT and, where none of its ports serves, raises FC1 row 3 of R147;
both out of lock for more than 1 ms in FULL, at u, raise FC3. Lock of the clock recovery leads to FRAME. A lane in
FRAME goes UP after 8 codewords in a row with its own seed, and its port to TRAIN after 8 training codewords; with
neither nothing happens. The first ring port to come UP ends the boot stage LANES (log entry 30). Four uncorrectable
codewords in a row and a buffer limit lead from UP to FRAME and loss of signal to CDR, each with FC1 while the port
serves. None of the starts happens during the wait after a failed training. (R130, R133, R134, R135, R136, R137, R147)
-/
def Obligations.LaneStates : Prop :=
  (∀ (s : State) (pll : Fin 2),
    s.sys.inReset = false →
    s.flag (pllOffFld pll.val) = false ∧ s.flag (pllLockFld pll.val) = false →
    Answers (.lanePllLock pll) s fun t =>
      t.flag (pllLockFld pll.val) = true ∧
      (∀ p ∈ pllPorts pll.val, ∀ l ∈ lanesOf p, t.laneState p l = if s.laneState p l = Lane.pllwait then Lane.cdr else s.laneState p l) ∧
      t.free = s.free + 1 ∧
      RegsOff (fun a => faultReg a || a / 0x10000 == 0x4003) s t ∧
      Only [.regs, .clk, .lnk, .tim, .pwm, .gd, .flt, .out, .free] s t) ∧
  (∀ (s : State) (pll : Fin 2),
    s.sys.inReset = false →
    s.flag (pllLockFld pll.val) = true →
    Answers (.lanePllLoss pll) s fun t =>
      t.flag (pllLockFld pll.val) = false ∧
      (∀ p ∈ pllPorts pll.val, ∀ l ∈ lanesOf p, t.laneState p l = if s.laneState p l ≤ Lane.chill then s.laneState p l else Lane.pllwait) ∧
      ((∀ p : Fin 5, s.laneServes p = false) → Raised s t 0x0303 1) ∧
      RegsOff (fun a => faultReg a || a / 0x10000 == 0x4003) s t ∧
      Only [.regs, .clk, .lnk, .tim, .pwm, .gd, .flt, .out] s t) ∧
  (∀ (s u : State),
    s.sys.inReset = false →
    s.stage = Stage.full →
    s.flag F.LNK_STAT_LPLL0_LOCK = false ∧ s.flag F.LNK_STAT_LPLL1_LOCK = false →
    u = (s.runAfter s.lnk.outAt 1000000).runUp (s.lnk.outAt + msTicks 1 + 1) →
    Answers .bothLanePllsOutOfLock s fun t =>
      HasCause t 0x0304 3 = true ∧
      t.lnk = s.lnk ∧
      FaultFrame [] u t ∧
      Only [.regs, .clk, .tim, .pwm, .gd, .flt, .out] u t) ∧
  (∀ (s : State) (p : Fin 5) (l : Fin 2),
    s.sys.inReset = false →
    p.val < 4 ∨ l = 0 →
    s.laneState p l = Lane.cdr ∧ s.mayStart p = true →
    Answers (.cdrLock p l) s fun t =>
      t.laneState p l = Lane.frame ∧
      t.flt = s.flt ∧
      RegsOff (fun a => faultReg a || a == R.LNK_PORTx_STAT p) s t ∧
      Only [.regs, .clk, .lnk, .tim, .pwm, .gd, .flt, .out] s t) ∧
  (∀ (s : State) (p : Fin 5) (l : Fin 2),
    s.sys.inReset = false →
    p.val < 4 ∨ l = 0 →
    s.laneState p l = Lane.frame ∧ s.mayStart p = true →
    (s.lane p l).trained = false ∧ (s.lane p l).good = 8 →
    Answers (.frameLock p l) s fun t =>
      t.laneState p l = Lane.up ∧
      (t.flag (F.LNK_PORTx_STAT_UP p) = true → t.get (F.LNK_PORTx_STAT_RETRIES p) = 0 ∧ (t.port p).everUp = true ∧ (t.port p).switching = false) ∧
      (p.val < 4 → t.flag (F.LNK_PORTx_STAT_UP p) = true → s.stage = Stage.lanes → t.stage = Stage.pbWait) ∧
      Only [.regs, .clk, .img, .lnk, .tim, .pwm, .gd, .dpx, .flt, .out, .free] s t) ∧
  (∀ (s : State) (p : Fin 5) (l : Fin 2),
    s.sys.inReset = false →
    p.val < 4 ∨ l = 0 →
    s.laneState p l = Lane.frame ∧ s.mayStart p = true →
    (s.lane p l).trained = true →
    Answers (.frameLock p l) s fun t =>
      (∀ k ∈ lanesOf p, t.laneState p k = Lane.train) ∧
      RegsOff (fun a => faultReg a || a == R.LNK_PORTx_STAT p) s t ∧
      Only [.regs, .clk, .lnk, .tim, .pwm, .gd, .flt, .out, .free] s t) ∧
  (∀ (s : State) (p : Fin 5) (l : Fin 2),
    s.mayStart p = false ∨ ((s.lane p l).trained = false ∧ (s.lane p l).good ≠ 8) →
    Answers (.frameLock p l) s fun t =>
      t = s) ∧
  (∀ (s : State) (p : Fin 5) (l : Fin 2),
    s.sys.inReset = false →
    p.val < 4 ∨ l = 0 →
    s.laneState p l = Lane.up ∧ (s.lane p l).bad = 4 →
    Answers (.lossOfFrame p l) s fun t =>
      t.laneState p l = Lane.frame ∧
      (s.laneServes p = true → Raised s t (if p = 4 then 0x0302 else 0x0301) 1) ∧
      RegsOff (fun a => faultReg a || a == R.LNK_PORTx_STAT p) s t ∧
      Only [.regs, .clk, .lnk, .tim, .pwm, .gd, .flt, .out] s t) ∧
  (∀ (s : State) (p : Fin 5) (l : Fin 2),
    s.sys.inReset = false →
    p.val < 4 ∨ l = 0 →
    s.laneState p l = Lane.up →
    Answers (.elasticBufferLimit p l) s fun t =>
      t.laneState p l = Lane.frame ∧
      (s.laneServes p = true → Raised s t (if p = 4 then 0x0302 else 0x0301) 1) ∧
      RegsOff (fun a => faultReg a || a == R.LNK_PORTx_STAT p) s t ∧
      Only [.regs, .clk, .lnk, .tim, .pwm, .gd, .flt, .out] s t) ∧
  (∀ (s : State) (p : Fin 5) (l : Fin 2),
    s.sys.inReset = false →
    p.val < 4 ∨ l = 0 →
    s.laneState p l = Lane.up →
    Answers (.lossOfSignal p l) s fun t =>
      t.laneState p l = Lane.cdr ∧
      (s.laneServes p = true → Raised s t (if p = 4 then 0x0302 else 0x0301) 1) ∧
      RegsOff (fun a => faultReg a || a == R.LNK_PORTx_STAT p) s t ∧
      Only [.regs, .clk, .lnk, .tim, .pwm, .gd, .flt, .out] s t)

/-- After 2 ms in CDR or FRAME, at u, a retry counts and returns the lane to CDR, or trains the port at RETRY_MAX with
AUTO_TRAIN. TRAIN starts training of a port that transmits. Training that has carried 16 codewords with DONE in both
directions puts its corrections in force and returns to FRAME, raising FC0 where they differ from the image; one whose
outcome is an error shows it, raises FC1, returns to CDR and waits; the wait ends 100 ms later with RETRIES cleared.
The eye monitor shows its figures and raises FC1 for a second low SER at a port that carries ring traffic and
otherwise FC0 for a second low eye. CHILL is refused on a port that serves, takes the lanes of any other there, and
when cleared takes them to PLLWAIT. Clearing the counters of a port touches their six registers only. (R135, R136,
R138, R139, R145, R146, R147, R150) -/
def Obligations.TrainingEyesAndChill : Prop :=
  (∀ (s u : State) (p : Fin 5) (l : Fin 2),
    s.sys.inReset = false →
    p.val < 4 ∨ l = 0 →
    s.laneState p l = Lane.cdr ∨ s.laneState p l = Lane.frame →
    s.mayStart p = true →
    u = s.runAfter (s.lane p l).since 2000000 →
    s.flag F.LNK_CTRL_AUTO_TRAIN = false →
    Answers (.laneRetry p l) s fun t =>
      t.laneState p l = Lane.cdr ∧
      t.get (F.LNK_PORTx_STAT_RETRIES p) = satAdd 15 (u.get (F.LNK_PORTx_STAT_RETRIES p)) 1 ∧
      t.flt = u.flt ∧
      RegsOff (fun a => faultReg a || a == R.LNK_PORTx_STAT p) u t ∧
      Only [.regs, .clk, .lnk, .tim, .pwm, .gd, .flt, .out, .free] u t) ∧
  (∀ (s u : State) (p : Fin 5) (l : Fin 2),
    s.sys.inReset = false →
    p.val < 4 ∨ l = 0 →
    s.laneState p l = Lane.cdr ∨ s.laneState p l = Lane.frame →
    s.mayStart p = true →
    u = s.runAfter (s.lane p l).since 2000000 →
    s.flag F.LNK_CTRL_AUTO_TRAIN = true →
    Nat.max 1 (s.get F.LNK_CTRL_RETRY_MAX) ≤ satAdd 15 (u.get (F.LNK_PORTx_STAT_RETRIES p)) 1 →
    Answers (.laneRetry p l) s fun t =>
      (∀ k ∈ lanesOf p, t.laneState p k = Lane.train) ∧
      RegsOff (fun a => faultReg a || a == R.LNK_PORTx_STAT p) u t ∧
      Only [.regs, .clk, .lnk, .tim, .pwm, .gd, .flt, .out, .free] u t) ∧
  (∀ (s : State) (p : Fin 5),
    s.sys.inReset = false →
    (∀ l ∈ lanesOf p, Lane.cdr ≤ s.laneState p l) →
    Answers (.trainWrite p) s fun t =>
      (∀ k ∈ lanesOf p, t.laneState p k = Lane.train) ∧
      t.flag (F.LNK_PORTx_CTRL_TRAIN p) = true ∧
      RegsOff (fun a => faultReg a || a == R.LNK_PORTx_STAT p || a == R.LNK_PORTx_CTRL p) s t ∧
      Only [.regs, .clk, .lnk, .tim, .pwm, .gd, .flt, .out, .free] s t) ∧
  (∀ (s : State) (p : Fin 5),
    s.sys.inReset = false →
    (∀ k ∈ lanesOf p, s.laneState p k = Lane.train) →
    s.trainOver p = true →
    Answers (.trainingDone p) s fun t =>
      t.get (F.LNK_PORTx_FIX_RX_INV0 p) = b2n (bit (s.trainFound p) 0) ∧ t.get (F.LNK_PORTx_FIX_RX_INV1 p) = b2n (bit (s.trainFound p) 1) ∧ t.get (F.LNK_PORTx_FIX_SWAP p) = b2n (bit (s.trainFound p) 2) ∧
      t.flag (F.LNK_PORTx_STAT_TRAINED p) = true ∧ t.get (F.LNK_PORTx_STAT_TRN_ERR p) = 0 ∧
      (∀ k ∈ lanesOf p, t.laneState p k = Lane.frame) ∧
      (s.trainFound p ≠ (s.port p).wiring.toNat % 8 → Raised s t 0x0308 0) ∧
      RegsOff (fun a => faultReg a || a == R.LNK_PORTx_STAT p || a == R.LNK_PORTx_CTRL p || a == R.LNK_PORTx_FIX p) s t ∧
      Only [.regs, .clk, .lnk, .tim, .pwm, .gd, .flt, .out] s t) ∧
  (∀ (s u : State) (p err : Fin 5),
    s.sys.inReset = false →
    (∀ k ∈ lanesOf p, s.laneState p k = Lane.train) →
    s.trainFails p err.val = true →
    u = (if err = 1 then s.runAfter (s.port p).trainAt 4000000 else if err = 4 then s.runAfter (s.port p).trainAt 5000000 else s) →
    Answers (.trainingFail p err) s fun t =>
      t.get (F.LNK_PORTx_STAT_TRN_ERR p) = err.val ∧ t.flag (F.LNK_PORTx_CTRL_TRAIN p) = false ∧
      (∀ k ∈ lanesOf p, t.laneState p k = Lane.cdr) ∧
      (t.port p).trainWait = some u.sys.up ∧
      Raised u t 0x0307 1 ∧
      RegsOff (fun a => faultReg a || a == R.LNK_PORTx_STAT p || a == R.LNK_PORTx_CTRL p) u t ∧
      Only [.regs, .clk, .lnk, .tim, .pwm, .gd, .flt, .out] u t) ∧
  (∀ (s u : State) (p : Fin 5) (tk : Nat),
    s.sys.inReset = false →
    (s.port p).trainWait = some tk →
    u = s.runAfter tk 100000000 →
    Answers (.trainWaitEnd p) s fun t =>
      (t.port p).trainWait = none ∧
      t.get (F.LNK_PORTx_STAT_RETRIES p) = 0 ∧
      (∀ k ∈ lanesOf p, (t.lane p k).since = u.sys.up) ∧
      OnlyRegs [R.LNK_PORTx_STAT p] u t ∧
      Only [.regs, .lnk] u t) ∧
  (∀ (s : State) (p : Fin 5) (l : Fin 2) (hgt wid : BitVec 8) (ser : Fin 13),
    s.sys.inReset = false →
    p.val < 4 ∨ l = 0 →
    Answers (.eyeMonitorUpdate p l hgt wid ser) s fun t =>
      t.flag (F.LNK_PORTx_EYEn_VALID p l) = true ∧ t.get (F.LNK_PORTx_EYEn_SER_DEC p l) = ser.val ∧
      t.get (F.LNK_PORTx_EYEn_WIDTH p l) = wid.toNat ∧ t.get (F.LNK_PORTx_EYEn_HEIGHT p l) = hgt.toNat ∧
      (ser.val < 8 → (s.lane p l).lowSer = true → s.carries p = true → Raised s t 0x0305 1) ∧
      (hgt.toNat < s.get F.LNK_CTRL_EYE_MIN → (s.lane p l).lowEye = true → (8 ≤ ser.val ∨ s.carries p = false) → Raised s t 0x0306 0) ∧
      RegsOff (fun a => faultReg a || a == R.LNK_PORTx_EYEn p l) s t ∧
      Only [.regs, .clk, .lnk, .tim, .pwm, .gd, .flt, .out] s t) ∧
  (∀ (s : State) (p : Fin 5),
    s.sys.inReset = false →
    s.laneServes p = true →
    Answers (.chillWrite p true) s fun t =>
      t.flag (F.LNK_PORTx_STAT_CHILL_REF p) = true ∧
      OnlyRegs [R.LNK_PORTx_STAT p] s t ∧
      Only [.regs] s t) ∧
  (∀ (s : State) (p : Fin 5),
    s.sys.inReset = false →
    s.laneServes p = false →
    Answers (.chillWrite p true) s fun t =>
      (∀ k ∈ lanesOf p, t.laneState p k = Lane.chill) ∧
      t.flag (F.LNK_PORTx_CTRL_CHILL p) = true ∧ t.flag (F.LNK_PORTx_STAT_CHILL_REF p) = false ∧
      RegsOff (fun a => faultReg a || a == R.LNK_PORTx_STAT p || a == R.LNK_PORTx_CTRL p || a == R.LNK_STAT) s t ∧
      Only [.regs, .clk, .lnk, .tim, .pwm, .gd, .flt, .out] s t) ∧
  (∀ (s : State) (p : Fin 5),
    s.sys.inReset = false →
    (∀ l ∈ lanesOf p, s.laneState p l = Lane.chill) →
    s.flag (pllLockFld (portPll p)) = false →
    Answers (.chillWrite p false) s fun t =>
      (∀ k ∈ lanesOf p, t.laneState p k = Lane.pllwait) ∧
      t.flag (F.LNK_PORTx_CTRL_CHILL p) = false ∧ t.flag (pllOffFld (portPll p)) = false ∧
      RegsOff (fun a => faultReg a || a == R.LNK_PORTx_STAT p || a == R.LNK_PORTx_CTRL p || a == R.LNK_STAT) s t ∧
      Only [.regs, .clk, .lnk, .tim, .pwm, .gd, .flt, .out] s t) ∧
  (∀ (s : State) (p : Fin 5),
    s.sys.inReset = false →
    Answers (.lnkCntClr p) s fun t =>
      (∀ k ∈ lanesOf p, t.rd (R.LNK_PORTx_LANEn_CSYM p k) = 0 ∧ t.rd (R.LNK_PORTx_LANEn_CCW p k) = 0 ∧ t.rd (R.LNK_PORTx_LANEn_UCW p k) = 0) ∧
      OnlyRegs ((List.range 2).flatMap fun k => [R.LNK_PORTx_LANEn_CSYM p k, R.LNK_PORTx_LANEn_CCW p k, R.LNK_PORTx_LANEn_UCW p k]) s t ∧
      Only [.regs] s t)

/-- m is the lane of the stream on a lane that is UP, w its descrambled symbols. A ring codeword at an UP port of a
THRU ring whose header as received is sound, and that is neither IDLE nor NBR, leaves by the other UP port, on that
lane, with its parity and its symbol errors, scrambled with that port's seed, unless the node takes it off the ring or
it is too old, which is counted. The decoder counts corrected symbols and codewords, or an uncorrectable one, and its
run. A sound codeword that the node consumes waits for its consumer, payload as received and as corrected. What a port
sends for 190 payload bytes is what the facing port descrambles, with the seed of the sending port (the model's
choice, log entry 68). A port down for the ring folds a THRU node at it, cancels the pending unfold and counts. A
primary names the unfold boundary 8 cycles ahead once its reports show a broken link healed, a standby folded there
takes that boundary where both its ports are there, and a member does nothing. A valid NBR codeword gives the
neighbour's position, its stamps, its root, lock and hops. CNT_CLR clears the eight ring counters. (R128, R129, R131,
R152, R153, R154, R155, R156, R182, R195) -/
def Obligations.RingForwardsAndFolds : Prop :=
  (∀ (s : State) (p : Fin 5) (l : Fin 2) (rx : List Int) (m : Nat) (w : List Nat) (cw : List Byte),
    s.sys.inReset = false →
    p.val < 4 ∧ s.laneState p l = Lane.up →
    m = s.streamOf p l ∧ w = lineRaw p m (s.symbolsIn p l rx).1 ∧ cw = payloadOf w →
    s.portDown p = false ∧ s.portDown (facingPort p) = false →
    s.ringState (Nat.ble 2 p) = RingSt.thru →
    hchkOk cw = true ∧ (hdrOf cw).typ ≠ Ty.idle ∧ (hdrOf cw).typ ≠ Ty.nbr →
    s.removes (Nat.ble 2 p) (p.val % 2 == 0) (hdrOf cw) = false →
    s.aged (hdrOf cw).typ (hdrOf cw).tag = false →
    Answers (.codewordReceived p l rx) s fun t =>
      t.out = (s.sendSyms (facingPort p) m (lineForward (facingPort p) m w)).out ∧
      OnlyRegs [R.LNK_PORTx_LANEn_CSYM p l, R.LNK_PORTx_LANEn_CCW p l, R.LNK_PORTx_LANEn_UCW p l] s t ∧
      Only [.regs, .lnk, .rng, .out, .free] s t) ∧
  (∀ (s : State) (p : Fin 5) (l : Fin 2) (rx : List Int) (w : List Nat) (n : Nat),
    s.sys.inReset = false →
    (p.val < 4 ∨ l = 0) ∧ s.laneState p l = Lane.up →
    w = lineRaw p (s.streamOf p l) (s.symbolsIn p l rx).1 →
    (decodeLine w).2 = some (n + 1) →
    Answers (.codewordReceived p l rx) s fun t =>
      t.num (R.LNK_PORTx_LANEn_CSYM p l) = satAdd 0xFFFFFFFF (s.num (R.LNK_PORTx_LANEn_CSYM p l)) (n + 1) ∧
      t.num (R.LNK_PORTx_LANEn_CCW p l) = satAdd 0xFFFFFFFF (s.num (R.LNK_PORTx_LANEn_CCW p l)) 1 ∧
      t.rd (R.LNK_PORTx_LANEn_UCW p l) = s.rd (R.LNK_PORTx_LANEn_UCW p l) ∧
      (t.lane p l).bad = 0) ∧
  (∀ (s : State) (p : Fin 5) (l : Fin 2) (rx : List Int) (w : List Nat),
    s.sys.inReset = false →
    (p.val < 4 ∨ l = 0) ∧ s.laneState p l = Lane.up →
    w = lineRaw p (s.streamOf p l) (s.symbolsIn p l rx).1 →
    (decodeLine w).2 = none →
    Answers (.codewordReceived p l rx) s fun t =>
      t.num (R.LNK_PORTx_LANEn_UCW p l) = satAdd 0xFFFFFFFF (s.num (R.LNK_PORTx_LANEn_UCW p l)) 1 ∧
      t.rd (R.LNK_PORTx_LANEn_CCW p l) = s.rd (R.LNK_PORTx_LANEn_CCW p l) ∧
      (t.lane p l).bad = Nat.min 4 ((s.lane p l).bad + 1)) ∧
  (∀ (s : State) (p : Fin 5) (l : Fin 2) (rx : List Int) (m : Nat) (w : List Nat) (cw : List Byte),
    s.sys.inReset = false →
    p.val < 4 ∧ s.laneState p l = Lane.up →
    m = s.streamOf p l ∧ w = lineRaw p m (s.symbolsIn p l rx).1 ∧ cw = payloadOf w →
    (decodeLine w).2 = some 0 ∧ payloadOf (decodeLine w).1 = cw →
    s.portDown p = false →
    hchkOk cw = true ∧ (hdrOf cw).typ ≠ Ty.idle ∧ (hdrOf cw).typ ≠ Ty.bulk →
    s.removes (Nat.ble 2 p) (p.val % 2 == 0) (hdrOf cw) = true ∧ s.consumes (hdrOf cw) = true →
    Answers (.codewordReceived p l rx) s fun t =>
      t.out = s.out ∧ t.regs = s.regs ∧
      t.rng = { s.rng with rx := (Arrival.mk p m cw cw false s.fab).insert s.rng.rx } ∧
      Only [.lnk, .rng] s t) ∧
  (∀ (s : State) (p : Fin 5) (l : Fin 2) (rx : List Int) (m : Nat) (w : List Nat) (cw : List Byte),
    s.sys.inReset = false →
    p.val < 4 ∧ s.laneState p l = Lane.up →
    m = s.streamOf p l ∧ w = lineRaw p m (s.symbolsIn p l rx).1 ∧ cw = payloadOf w →
    (decodeLine w).2 = some 0 →
    s.portDown p = false →
    hchkOk cw = true ∧ (hdrOf cw).typ ≠ Ty.idle ∧ (hdrOf cw).typ ≠ Ty.nbr →
    s.removes (Nat.ble 2 p) (p.val % 2 == 0) (hdrOf cw) = false →
    s.aged (hdrOf cw).typ (hdrOf cw).tag = true →
    Answers (.codewordReceived p l rx) s fun t =>
      t.out = s.out ∧
      t.num R.RNG_CNT_AGED = satAdd 0xFFFFFFFF (s.num R.RNG_CNT_AGED) 1 ∧
      OnlyRegs [R.RNG_CNT_AGED] s t ∧
      Only [.regs, .lnk, .rng] s t) ∧
  (∀ (p : Fin 5) (l : Fin 2) (cw : List Byte),
    cw.length = 190 →
    (lineOf p l cw).length = 160 ∧ payloadOf (lineRaw (facingPort p) l ((lineOf p l cw).map (·.toNat))) = cw) ∧
  (∀ (s : State) (p : Fin 4),
    s.sys.inReset = false ∧ s.raises = [] →
    s.portDown p = true ∧ (s.port p).switching = false →
    s.ringState (Nat.ble 2 p) = RingSt.thru →
    Answers (.fold p) s fun t =>
      (t.ringState (Nat.ble 2 p) = (if p.val % 2 = 0 then RingSt.foldW else RingSt.foldE)) ∧
      t.ringState (!Nat.ble 2 p) = s.ringState (!Nat.ble 2 p) ∧
      t.unfoldOf (Nat.ble 2 p) = none ∧
      t.num R.RNG_CNT_FOLD = satAdd 0xFFFFFFFF (s.num R.RNG_CNT_FOLD) 1 ∧
      Only [.regs, .clk, .rng, .tim, .pwm, .gd, .flt, .raises, .out] s t) ∧
  (∀ (s : State) (r : Ring),
    s.sys.inReset = false →
    s.isPrimary = true →
    s.unfoldOf (r == .y) = none →
    s.healed (r == .y) = true →
    Answers (.unfoldNamed r) s fun t =>
      t.unfoldOf (r == .y) = some (s.scn + 8) ∧
      t.rd R.RNG_UNFOLD_SCN = s.scn + 8 ∧ t.get F.RNG_STAT_UNF_PEND = 1 ∧
      OnlyRegs [R.RNG_UNFOLD_SCN, R.RNG_STAT] s t ∧
      Only [.regs, .rng] s t) ∧
  (∀ (s : State) (r : Ring),
    s.sys.inReset = false →
    s.isHead = true ∧ s.isPrimary = false →
    s.folded (r == .y) = true →
    s.portDown (outPort (r == .y) true) = false ∧ s.portDown (outPort (r == .y) false) = false →
    Answers (.unfoldNamed r) s fun t =>
      t.unfoldOf (r == .y) = some (s.scn + 8) ∧
      t.ringState (r == .y) = s.ringState (r == .y) ∧
      OnlyRegs [R.RNG_UNFOLD_SCN, R.RNG_STAT] s t ∧
      Only [.regs, .rng] s t) ∧
  (∀ (s : State) (r : Ring),
    s.isHead = false →
    Answers (.unfoldNamed r) s fun t =>
      t = s) ∧
  (∀ (s : State) (a : Arrival) (t2 : BitVec 48),
    s.sys.inReset = false →
    s.rng.rx.find? (Arrival.is Ty.nbr) = some a →
    cwValid Ty.nbr a.cw a.uncorr = true →
    Answers (.nbrReceived t2) s fun t =>
      (t.link a.port).peer = byteAt a.cw 1 ∧ (t.link a.port).t1 = some (BitVec.ofNat 48 (stampOf a.cw 12)) ∧ (t.link a.port).t2 = t2 ∧
      (t.link a.port).hops = byteAt a.cw 11 ∧ (t.link a.port).root = byteAt a.cw 10 ∧ (t.link a.port).locked = bit (byteAt a.cw 9) 0 ∧
      Bank.at 0xFF t.rng.nbr a.port = byteAt a.cw 1 ∧ t.rng.rx = s.rng.rx.erase a ∧
      Only [.regs, .rng, .tim] s t) ∧
  (∀ (s : State),
    s.sys.inReset = false →
    Answers .rngCntClr s fun t =>
      (∀ r ∈ [R.RNG_CNT_MISS, R.RNG_CNT_LATE, R.RNG_CNT_SEAL, R.RNG_CNT_DIFF, R.RNG_CNT_AGED, R.RNG_CNT_DIVERT, R.RNG_CNT_DROP, R.RNG_CNT_FOLD], t.rd r = 0) ∧
      OnlyRegs [R.RNG_CNT_MISS, R.RNG_CNT_LATE, R.RNG_CNT_SEAL, R.RNG_CNT_DIFF, R.RNG_CNT_AGED, R.RNG_CNT_DIVERT, R.RNG_CNT_DROP, R.RNG_CNT_FOLD] s t ∧
      Only [.regs] s t)

/-- u is the state t_S, 6 250 lattice ticks, after the boundary. A running node not REFUSED inserts outside cycle S: a
HEAD one HB a direction, on the lane of its hops, with the SCN as TAG; a member its items in UP codewords of
consecutive indexes with its jury word, on each direction whose SEND bit is set, on the lane its ring word gives or,
before the first ring word, on a free lane. A waiting UP codeword that is valid, of this cycle and of a member is
taken by an admitted HEAD before the deadline: its sealed item, the first of the cycle, is kept; an item whose seal
fails is absent, counted and raised; a later copy that differs leaves the first and is counted and raised. At the
deadline, with u the state once every waiting copy has been taken, each item bound to an admitted member and not taken
is missing and counted, and the deadline has passed. (R155, R157, R159, R162, R165, R166, R167, R181) -/
def Obligations.UpWaveAndDeadline : Prop :=
  (∀ (s u : State),
    s.sys.inReset = false →
    s.running = true ∧ s.stage ≠ Stage.refused ∧ s.inCycleS = false →
    u = s.runIn 6250 →
    u.isHead = true →
    Answers (.upWave []) s fun t =>
      (t = fourWays.foldl (fun v d => v.sendDir d.1 d.2 (u.hbLane d.1 d.2) Ty.hb 0xFF u.scn.toNat 0 (u.hbBody false)) u) ∧
      (t.out.length = u.out.length + (fourWays.filter fun d => !u.portDown (outPort d.1 d.2)).length) ∧
      Only [.out, .free] u t) ∧
  (∀ (s u : State),
    s.sys.inReset = false →
    s.running = true ∧ s.stage ≠ Stage.refused ∧ s.inCycleS = false →
    u = s.runIn 6250 →
    u.isMember = true →
    Answers (.upWave []) s fun t =>
      (t.out = (fourWays.foldl (fun v d => v.useFree.when (laneSend (b2n (Config.freeLane v.free)) (if d.1 then u.rng.wordY else u.rng.wordX) d.2).2 (·.sendItems d.1 d.2 (laneSend (b2n (Config.freeLane v.free)) (if d.1 then u.rng.wordY else u.rng.wordX) d.2).1 Ty.up 0xFF u.scn.toNat u.juryWord u.uplinkItems)) u).out) ∧
      t.rng = { u.rng with upSent := true } ∧
      Only [.rng, .out, .free] u t) ∧
  (∀ (s : State) (a : Arrival) (it : RawItem),
    s.sys.inReset = false ∧ s.raises = [] →
    s.isHead = true ∧ s.admitted = true ∧ s.dpx.tup = false →
    s.rng.rx.find? (Arrival.is Ty.up) = some a →
    cwValid Ty.up a.cw a.uncorr = true ∧ (hdrOf a.cw).tag = s.scn.toNat % 256 →
    s.memberPositions.contains (hdrOf a.cw).src = true →
    itemsOf a.cw = [it] ∧ sealOk it (hdrOf a.cw).src (s.scn.toNat % 256) = true ∧ it.idx < 0xFF00 →
    s.uplink (hdrOf a.cw).src it.idx = none →
    Answers .upReceived s fun t =>
      t.rng.upItems = s.rng.upItems ++ [⟨(hdrOf a.cw).src, it.idx, s.scn.toNat % 256, it.value⟩] ∧
      t.num R.RNG_CNT_SEAL = s.num R.RNG_CNT_SEAL ∧ t.num R.RNG_CNT_DIFF = s.num R.RNG_CNT_DIFF ∧
      t.rng.rx = s.rng.rx.erase a ∧
      Only [.regs, .clk, .rng, .tim, .pwm, .gd, .dpx, .flt, .saf, .raises, .out] s t) ∧
  (∀ (s : State) (a : Arrival) (it : RawItem),
    s.sys.inReset = false ∧ s.raises = [] →
    s.isHead = true ∧ s.admitted = true ∧ s.dpx.tup = false →
    s.rng.rx.find? (Arrival.is Ty.up) = some a →
    cwValid Ty.up a.cw a.uncorr = true ∧ (hdrOf a.cw).tag = s.scn.toNat % 256 →
    s.memberPositions.contains (hdrOf a.cw).src = true →
    itemsOf a.cw = [it] ∧ sealOk it (hdrOf a.cw).src (s.scn.toNat % 256) = false →
    Answers .upReceived s fun t =>
      t.rng.upItems = s.rng.upItems ∧
      t.num R.RNG_CNT_SEAL = satAdd 0xFFFFFFFF (s.num R.RNG_CNT_SEAL) 1 ∧
      Raised s t 0x0405 0) ∧
  (∀ (s : State) (a : Arrival) (it : RawItem) (x : Word),
    s.sys.inReset = false ∧ s.raises = [] →
    s.isHead = true ∧ s.admitted = true ∧ s.dpx.tup = false →
    s.rng.rx.find? (Arrival.is Ty.up) = some a →
    cwValid Ty.up a.cw a.uncorr = true ∧ (hdrOf a.cw).tag = s.scn.toNat % 256 →
    s.memberPositions.contains (hdrOf a.cw).src = true →
    itemsOf a.cw = [it] ∧ sealOk it (hdrOf a.cw).src (s.scn.toNat % 256) = true ∧ it.idx < 0xFF00 →
    s.uplink (hdrOf a.cw).src it.idx = some x ∧ x ≠ it.value →
    Answers .upReceived s fun t =>
      t.rng.upItems = s.rng.upItems ∧
      t.num R.RNG_CNT_DIFF = satAdd 0xFFFFFFFF (s.num R.RNG_CNT_DIFF) 1 ∧
      Raised s t 0x0404 1) ∧
  (∀ (s u : State),
    s.sys.inReset = false →
    s.isHead = true ∧ s.dpx.tup = false ∧ s.inCycleS = false →
    u = s.uplinkTaken →
    Answers .uplinkDeadline s fun t =>
      t.dpx.tup = true ∧
      (∀ a, a ∈ t.rng.missing ↔ a ∈ u.boundItems ∧ u.admittedMembers.contains a.1 = true ∧ u.uplink a.1 a.2 = none) ∧
      t.num R.RNG_CNT_MISS = satAdd 0xFFFFFFFF (u.num R.RNG_CNT_MISS) t.rng.missing.length ∧
      t.rng.upItems = u.rng.upItems ∧
      Only [.regs, .clk, .rng, .tim, .pwm, .gd, .dpx, .flt, .eng, .bal, .saf, .sup, .raises, .out] u t)

/-- The down wave, at u, outside cycle S and with no claim to announce, sends each member of a direction's train, in
the train's order, its command items for the next boundary with its ring word, on lanes that alternate. A member takes
the waiting DN codeword; where its header as received is sound and addressed to it, an ACK in its position answers
with the status word of the boundary, in the direction of the codeword or, where that port does not carry outwards, in
the other; a DN of another HEAD than the one it obeys is counted and stages nothing; an item of its HEAD for the next
boundary is staged, an unfold boundary among them is kept by a node folded on ring X whose ports are there, and one
for the boundary past is late and counted. A HEAD keeps the ACK's word and its first status item of the cycle; a later
copy that differs is counted and raised. (R39, R163, R164, R165, R166, R167, R398) -/
def Obligations.DownWaveAndAcknowledge : Prop :=
  (∀ (s u : State),
    s.sys.inReset = false →
    s.isPrimary = true ∧ s.inService = true ∧ s.inCycleS = false →
    u = (s.runIn (s.ringOfs F.RNG_TIM_DN_PB_T F.RNG_TIM_DN_T)).balLate →
    u.dpx.claimHb = false →
    Answers (.downWave []) s fun t =>
      (t = fourWays.foldl (fun v d => ((List.range (u.train d.1 d.2).length).zip (u.train d.1 d.2)).foldl (fun v k => v.sendItems d.1 d.2 (k.1 % 2) Ty.dn k.2 (u.scn.toNat + 1) (u.ringWord d.1 k.2) (u.commandsOf k.2)) v) u) ∧
      Only [.out, .free] u t) ∧
  (∀ (s u : State) (a : Arrival) (it : RawItem),
    s.sys.inReset = false ∧ s.raises = [] →
    s.isMember = true ∧ s.running = true ∧ s.dpx.hasTier = true →
    s.rng.rx.find? (Arrival.is Ty.dn) = some a ∧ u = s.tookRx a →
    cwValid Ty.dn a.cw a.uncorr = true ∧ (hdrOf a.cw).dst = s.pos ∧ (hdrOf a.cw).src = s.obeyed →
    (hdrOf a.cw).tag = (s.scn.toNat + 1) % 256 →
    itemsOf a.cw = [it] ∧ sealOk it (hdrOf a.cw).src ((s.scn.toNat + 1) % 256) = true ∧ (it.idx < 0xFE13 ∨ 0xFE16 < it.idx) →
    (s.rng.staged.any fun e => e.origin == (hdrOf a.cw).src && e.idx == it.idx && e.scn == (s.scn.toNat + 1) % 256) = false →
    Answers .dnReceived s fun t =>
      t.rng.staged = s.rng.staged ++ [⟨(hdrOf a.cw).src, it.idx, (s.scn.toNat + 1) % 256, it.value⟩] ∧
      t.rng.dnServed = true ∧ t.rng.rx = s.rng.rx.erase a ∧
      ((if a.y then t.rng.wordY else t.rng.wordX) = some (typeWord a.cw)) ∧
      (t.rd R.RNG_MAP_X = (if it.idx = Idx.mapX then it.value else s.rd R.RNG_MAP_X)) ∧
      (t.rd R.RNG_MAP_Y = (if it.idx = Idx.mapY then it.value else s.rd R.RNG_MAP_Y)) ∧
      OnlyRegs [R.RNG_MAP_X, R.RNG_MAP_Y] s t ∧
      Only [.regs, .rng, .out, .free] s t) ∧
  (∀ (s : State) (a : Arrival) (it : RawItem),
    s.sys.inReset = false ∧ s.raises = [] →
    s.isMember = true ∧ s.running = true ∧ s.dpx.hasTier = true →
    s.rng.rx.find? (Arrival.is Ty.dn) = some a →
    cwValid Ty.dn a.cw a.uncorr = true ∧ (hdrOf a.cw).dst = s.pos ∧ (hdrOf a.cw).src = s.obeyed →
    (hdrOf a.cw).tag = (s.scn.toNat + 1) % 256 →
    itemsOf a.cw = [it] ∧ sealOk it (hdrOf a.cw).src ((s.scn.toNat + 1) % 256) = true ∧ it.idx = Idx.unfoldX →
    (s.rng.staged.any fun e => e.origin == (hdrOf a.cw).src && e.idx == it.idx && e.scn == (s.scn.toNat + 1) % 256) = false →
    s.folded false = true ∧ s.portDown 0 = false ∧ s.portDown 1 = false →
    Answers .dnReceived s fun t =>
      t.unfoldOf false = some it.value ∧ t.ringState false = s.ringState false ∧
      OnlyRegs [R.RNG_UNFOLD_SCN, R.RNG_STAT] s t ∧
      Only [.regs, .rng, .out, .free] s t) ∧
  (∀ (s u : State) (a : Arrival),
    s.sys.inReset = false →
    s.isMember = true ∧ s.running = true ∧ s.dpx.hasTier = true →
    s.rng.rx.find? (Arrival.is Ty.dn) = some a ∧ u = s.tookRx a →
    hchkOk a.raw = true ∧ (hdrOf a.raw).typ = Ty.dn ∧ (hdrOf a.raw).dst = s.pos →
    cwValid Ty.dn a.cw a.uncorr = true ∧ (hdrOf a.cw).dst = s.pos ∧ (hdrOf a.cw).src ≠ s.obeyed →
    Answers .dnReceived s fun t =>
      (t.out = (s.sendDir a.y (if s.ringOpen (outPort a.y a.east) then a.east else !a.east) a.lane Ty.ack 0xFF s.scn.toNat 0 (itemBody 0 s.rng.ackWord s.pos [])).out) ∧
      t.get F.DPX_MBR_CNT_STALE_DN = satAdd 0xFFFF (s.get F.DPX_MBR_CNT_STALE_DN) 1 ∧
      t.rng = u.rng ∧
      OnlyRegs [R.DPX_MBR_CNT] s t ∧
      Only [.regs, .out, .free] u t) ∧
  (∀ (s u : State) (a : Arrival) (it : RawItem),
    s.sys.inReset = false ∧ s.raises = [] →
    s.isMember = true ∧ s.running = true ∧ s.dpx.hasTier = true →
    s.rng.rx.find? (Arrival.is Ty.dn) = some a ∧ u = s.tookRx a →
    cwValid Ty.dn a.cw a.uncorr = true ∧ (hdrOf a.cw).dst = s.pos ∧ (hdrOf a.cw).src = s.obeyed →
    (hdrOf a.cw).tag = s.scn.toNat % 256 →
    itemsOf a.cw = [it] ∧ sealOk it (hdrOf a.cw).src (s.scn.toNat % 256) = true →
    (s.rng.inForce.any fun e => e.origin == (hdrOf a.cw).src && e.idx == it.idx && e.scn == s.scn.toNat % 256) = false →
    Answers .dnReceived s fun t =>
      t.rng.dnLate = true ∧ t.rng.staged = s.rng.staged ∧ t.rng.inForce = s.rng.inForce ∧
      t.num R.RNG_CNT_LATE = satAdd 0xFFFFFFFF (s.num R.RNG_CNT_LATE) 1 ∧
      OnlyRegs [R.RNG_CNT_LATE] s t ∧
      Only [.regs, .rng, .out, .free] s t) ∧
  (∀ (s : State) (a : Arrival) (it : RawItem),
    s.sys.inReset = false ∧ s.raises = [] →
    s.isHead = true →
    s.rng.rx.find? (Arrival.is Ty.ack) = some a →
    cwValid Ty.ack a.cw a.uncorr = true ∧ (hdrOf a.cw).tag = s.scn.toNat % 256 →
    s.memberPositions.contains (hdrOf a.cw).src = true →
    itemsOf a.cw = [it] ∧ sealOk it (hdrOf a.cw).src (s.scn.toNat % 256) = true →
    (s.rng.status.any fun e => e.origin == (hdrOf a.cw).src && e.idx == it.idx && e.scn == s.scn.toNat) = false →
    Answers .ackReceived s fun t =>
      (t.member (hdrOf a.cw).src).ack = typeWord a.cw ∧
      ⟨(hdrOf a.cw).src, it.idx, s.scn.toNat, it.value⟩ ∈ t.rng.status ∧
      t.regs = s.regs ∧
      Only [.rng, .dpx] s t) ∧
  (∀ (s : State) (a : Arrival) (it : RawItem) (e : Item),
    s.sys.inReset = false ∧ s.raises = [] →
    s.isHead = true →
    s.rng.rx.find? (Arrival.is Ty.ack) = some a →
    cwValid Ty.ack a.cw a.uncorr = true ∧ (hdrOf a.cw).tag = s.scn.toNat % 256 →
    s.memberPositions.contains (hdrOf a.cw).src = true →
    itemsOf a.cw = [it] ∧ sealOk it (hdrOf a.cw).src (s.scn.toNat % 256) = true →
    s.rng.status.find? (fun e => e.origin == (hdrOf a.cw).src && e.idx == it.idx && e.scn == s.scn.toNat) = some e ∧ e.value ≠ it.value →
    Answers .ackReceived s fun t =>
      t.rng.status = s.rng.status ∧
      t.num R.RNG_CNT_DIFF = satAdd 0xFFFFFFFF (s.num R.RNG_CNT_DIFF) 1 ∧
      Raised s t 0x0404 1)

/-- At an IDLE position of a port that is not down a diverted codeword goes first; one that reads uncorrectable is
dropped, counted and raised. With none diverted, the only flow of a running node goes on where its route leaves by
that port and it has a codeword and the credit for it. A waiting codeword of another stream than the ring agent's, the
mailboxes' and the relay's is taken by its flow: credits come back, and the data count only when its SEQ is the next.
A resend starts again at the first unacknowledged codeword. A running receiver that owes credits or an acknowledgement
and has nothing to send sends one codeword without data, and owes none then. (R172, R173, R174, R175, R176) -/
def Obligations.BulkFlows : Prop :=
  (∀ (s : State) (p : Fin 4) (l : Fin 2) (cw : List Byte) (q : List (List Byte)),
    s.sys.inReset = false →
    s.portDown p = false →
    Bank.at [] s.rng.transit p = cw :: q →
    Answers (.bulkInsert p l false) s fun t =>
      t.out = (s.sendLine p l cw).out ∧
      Bank.at [] t.rng.transit p = q ∧
      t.rng.flows = s.rng.flows ∧
      Only [.rng, .out, .free] s t) ∧
  (∀ (s : State) (p : Fin 4) (l : Fin 2) (cw : List Byte) (q : List (List Byte)),
    s.sys.inReset = false →
    s.portDown p = false →
    Bank.at [] s.rng.transit p = cw :: q →
    Answers (.bulkInsert p l true) s fun t =>
      Bank.at [] t.rng.transit p = q ∧
      t.num R.RNG_CNT_DROP = satAdd 0xFFFFFFFF (s.num R.RNG_CNT_DROP) 1 ∧
      Raised s t 0x0F04 1 ∧
      FaultFrame [R.RNG_CNT_DROP] s t ∧
      Only [.regs, .clk, .rng, .tim, .pwm, .gd, .flt, .out] s t) ∧
  (∀ (s : State) (p : Fin 4) (l : Fin 2) (f : Flow) (c : TxCw),
    s.sys.inReset = false ∧ s.running = true →
    s.portDown p = false →
    Bank.at [] s.rng.transit p = [] →
    s.rng.flows = [f] ∧ f.ready = true ∧ f.txQueue[f.txSent]? = some c →
    s.bulkRoute f.peer = some (Nat.ble 2 p, p.val % 2 == 1) →
    Answers (.bulkInsert p l false) s fun t =>
      t.rng.flows = [f.sent] ∧
      t.out = (s.sendLine p l (codeword { typ := Ty.bulk, src := s.pos, dst := f.peer, tag := s.scn.toNat % 256, route := routeOf (Nat.ble 2 p) (p.val % 2 == 1), count := c.data.length } (bulkBody f (b2n c.first + 2 * b2n c.last) ((f.txAck + f.txSent) % 65536) c.data))).out ∧
      t.regs = s.regs ∧
      Only [.rng, .out, .free] s t) ∧
  (∀ (s : State) (a : Arrival) (cw : List Byte),
    s.sys.inReset = false →
    s.rng.rx.find? (Arrival.is Ty.bulk) = some a ∧ a.cw = cw →
    cwValid Ty.bulk cw a.uncorr = true ∧ byteAt cw 2 = s.pos →
    byteAt cw 8 = 0 ∨ byteAt cw 8 = 4 ∨ 6 ≤ byteAt cw 8 →
    bit (byteAt cw 9) 2 = false ∧ leAt cw 10 2 = (s.flow (byteAt cw 1) (byteAt cw 8)).rxNext →
    Answers .bulkReceived s fun t =>
      (t.flow (byteAt cw 1) (byteAt cw 8)).rxNext = ((s.flow (byteAt cw 1) (byteAt cw 8)).rxNext + 1) % 65536 ∧
      (t.flow (byteAt cw 1) (byteAt cw 8)).rxCredits = (s.flow (byteAt cw 1) (byteAt cw 8)).rxCredits + 1 ∧
      (t.flow (byteAt cw 1) (byteAt cw 8)).credits = (s.flow (byteAt cw 1) (byteAt cw 8)).credits + byteAt cw 14 ∧
      (t.flow (byteAt cw 1) (byteAt cw 8)).owed = true ∧
      Only [.regs, .rng] s t) ∧
  (∀ (s : State) (a : Arrival) (cw : List Byte),
    s.sys.inReset = false →
    s.rng.rx.find? (Arrival.is Ty.bulk) = some a ∧ a.cw = cw →
    cwValid Ty.bulk cw a.uncorr = true ∧ byteAt cw 2 = s.pos →
    bit (byteAt cw 9) 2 = false ∧ leAt cw 10 2 ≠ (s.flow (byteAt cw 1) (byteAt cw 8)).rxNext →
    Answers .bulkReceived s fun t =>
      (t.flow (byteAt cw 1) (byteAt cw 8)).rxNext = (s.flow (byteAt cw 1) (byteAt cw 8)).rxNext ∧
      (t.flow (byteAt cw 1) (byteAt cw 8)).rxData = (s.flow (byteAt cw 1) (byteAt cw 8)).rxData ∧
      (t.flow (byteAt cw 1) (byteAt cw 8)).credits = (s.flow (byteAt cw 1) (byteAt cw 8)).credits + byteAt cw 14 ∧
      (t.flow (byteAt cw 1) (byteAt cw 8)).owed = true ∧
      Only [.regs, .rng] s t) ∧
  (∀ (s : State) (dst stream : BitVec 8),
    s.sys.inReset = false →
    0 < (s.flow dst.toNat stream.toNat).txSent →
    Answers (.bulkResend dst stream) s fun t =>
      t.flow dst.toNat stream.toNat = { s.flow dst.toNat stream.toNat with txSent := 0 } ∧
      Only [.rng] s t) ∧
  (∀ (s : State) (dst stream : BitVec 8) (y e : Bool),
    s.sys.inReset = false ∧ s.running = true →
    s.bulkRoute dst.toNat = some (y, e) →
    (s.flow dst.toNat stream.toNat).peer = dst.toNat ∧ (s.flow dst.toNat stream.toNat).stream = stream.toNat →
    (s.flow dst.toNat stream.toNat).owed = true ∨ 0 < (s.flow dst.toNat stream.toNat).rxCredits →
    (s.flow dst.toNat stream.toNat).ready = false →
    Answers (.creditOnlySend dst stream) s fun t =>
      (t.flow dst.toNat stream.toNat).owed = false ∧
      (t.flow dst.toNat stream.toNat).rxCredits = (s.flow dst.toNat stream.toNat).rxCredits - Nat.min 255 (s.flow dst.toNat stream.toNat).rxCredits ∧
      t.out.length = s.out.length + 1 ∧
      Only [.rng, .out, .free] s t)

/-- A GO by the management processor with COUNT 0 or above 16, a misaligned address or node 0xFF ends at once with ERR
4; to another node it is sent on stream 2 and shown as busy; to the node's own position it has ended at once, with ERR
0 or 3; while one is busy a second GO changes nothing. A GO by another master counts a violation and starts nothing.
The asked node's answer of one word read without error fills the first buffer word and shows DONE. After 16 cycles
without an answer the request ends with ERR 1 and no access done; before that nothing happens. (R172, R177, R178) -/
def Obligations.RemoteRegisterAccess : Prop :=
  (∀ (s : State) (v : Word),
    s.sys.inReset = false ∧ s.mastersRun .mp = true →
    s.get F.RNG_RRA_STAT_STATE ≠ 1 →
    v.toNat / 65536 % 32 = 0 ∨ 16 < v.toNat / 65536 % 32 ∨ s.num R.RNG_RRA_ADDR % 4 ≠ 0 ∨ v.toNat % 256 = 0xFF →
    Answers (.rraGo .mp v) s fun t =>
      t.get F.RNG_RRA_STAT_STATE = 3 ∧ t.get F.RNG_RRA_STAT_ERR = 4 ∧ t.get F.RNG_RRA_STAT_DONE_CNT = 0 ∧
      t.rng.rra = none ∧ t.rng.flows = s.rng.flows ∧
      OnlyRegs [R.RNG_RRA_CTRL, R.RNG_RRA_STAT] s t ∧
      Only [.regs, .sys, .rng, .out] s t) ∧
  (∀ (s : State) (v : Word),
    s.sys.inReset = false ∧ s.mastersRun .mp = true →
    s.get F.RNG_RRA_STAT_STATE ≠ 1 →
    1 ≤ v.toNat / 65536 % 32 ∧ v.toNat / 65536 % 32 ≤ 16 ∧ s.num R.RNG_RRA_ADDR % 4 = 0 →
    v.toNat % 256 ≠ 0xFF ∧ v.toNat % 256 ≠ s.pos →
    Answers (.rraGo .mp v) s fun t =>
      t.get F.RNG_RRA_STAT_STATE = 1 ∧ t.get F.RNG_RRA_STAT_ERR = 0 ∧ t.get F.RNG_RRA_STAT_DONE_CNT = 0 ∧
      (t.rng.rra.map fun p => (p.node, p.write, p.count, p.addr)) = some (v.toNat % 256, v.getLsbD 28, v.toNat / 65536 % 32, s.num R.RNG_RRA_ADDR) ∧
      (s.flow (v.toNat % 256) 2).txQueue.length < (t.flow (v.toNat % 256) 2).txQueue.length ∧
      OnlyRegs [R.RNG_RRA_CTRL, R.RNG_RRA_STAT] s t ∧
      Only [.regs, .sys, .rng, .out] s t) ∧
  (∀ (s : State) (v : Word),
    s.sys.inReset = false ∧ s.mastersRun .mp = true →
    s.get F.RNG_RRA_STAT_STATE = 1 →
    Answers (.rraGo .mp v) s fun t =>
      t.regs = s.regs ∧ t.rng = s.rng ∧
      Only [.sys, .out] s t) ∧
  (∀ (s : State) (a : Arrival) (cw : List Byte) (p : RraPend),
    s.sys.inReset = false →
    s.rng.rx.find? (Arrival.is Ty.bulk) = some a ∧ a.cw = cw →
    cwValid Ty.bulk cw a.uncorr = true ∧ byteAt cw 2 = s.pos ∧ byteAt cw 8 = 2 →
    byteAt cw 9 % 8 = 3 ∧ leAt cw 10 2 = (s.flow (byteAt cw 1) 2).rxNext →
    byteAt cw 6 = 12 ∧ byteAt cw 16 = 0x81 ∧ byteAt cw 17 = 1 ∧ byteAt cw 18 = 0 ∧ byteAt cw 19 = 0 →
    s.rng.rra = some p ∧ p.node = byteAt cw 1 ∧ p.write = false →
    Answers .bulkReceived s fun t =>
      t.rng.rra = none ∧
      t.get F.RNG_RRA_STAT_STATE = 2 ∧ t.get F.RNG_RRA_STAT_ERR = 0 ∧ t.get F.RNG_RRA_STAT_DONE_CNT = 1 ∧
      t.rd (R.RNG_RRA_BUF 0) = BitVec.ofNat 32 (leAt cw 24 4) ∧
      t.mem = s.mem) ∧
  (∀ (s : State) (v : Word),
    s.sys.inReset = false ∧ s.mastersRun .mp = true →
    s.get F.RNG_RRA_STAT_STATE ≠ 1 →
    1 ≤ v.toNat / 65536 % 32 ∧ v.toNat / 65536 % 32 ≤ 16 ∧ s.num R.RNG_RRA_ADDR % 4 = 0 →
    v.toNat % 256 ≠ 0xFF ∧ v.toNat % 256 = s.pos →
    Answers (.rraGo .mp v) s fun t =>
      (t.get F.RNG_RRA_STAT_STATE = 2 ∧ t.get F.RNG_RRA_STAT_ERR = 0 ∨ t.get F.RNG_RRA_STAT_STATE = 3 ∧ t.get F.RNG_RRA_STAT_ERR = 3 ∨ t.get F.RNG_RRA_STAT_STATE = 3 ∧ s.running = false) ∧
      t.rng.rra = none) ∧
  (∀ (s : State) (m : Master) (v : Word),
    s.sys.inReset = false ∧ s.mastersRun m = true →
    m ≠ .mp →
    Answers (.rraGo m v) s fun t =>
      t.num R.SYS_VIOL_CNT = satAdd 0xFFFFFFFF (s.num R.SYS_VIOL_CNT) 1 ∧
      t.rng = s.rng ∧
      OnlyRegs [R.SYS_VIOL_CNT, R.SYS_VIOL_LAST] s t ∧
      Only [.regs, .sys, .out] s t) ∧
  (∀ (s : State) (p : RraPend),
    s.sys.inReset = false →
    s.rng.rra = some p ∧ s.cycles16 p.scn = true →
    Answers (.rraTimeout false) s fun t =>
      t.rng.rra = none ∧
      t.get F.RNG_RRA_STAT_STATE = 3 ∧ t.get F.RNG_RRA_STAT_ERR = 1 ∧ t.get F.RNG_RRA_STAT_DONE_CNT = 0 ∧
      OnlyRegs [R.RNG_RRA_STAT] s t ∧
      Only [.regs, .rng] s t) ∧
  (∀ (s : State) (p : RraPend),
    s.rng.rra = some p ∧ s.cycles16 p.scn = false →
    Answers (.rraTimeout false) s fun t =>
      t = s)

/-- A read by a master with the right to it answers the word without a bus error. A read of SYS_VSEC_LO latches the
high half of the seconds counter, of TIM_STIME_NS the fraction and WRAP, of ADC_RESm_RAW the other three words of the
result, of MTR_ACCk_LO, whose two copies agree, the high half, of DPX_HEALTH0, FLT_RECr_W0 and FLT_LEDe_W0 the words
that follow; a read of TIM_TPI_FRAC clears RDY and OVR. Nothing else changes but the answer given. A read of an
accumulator whose second copy has been upset sets ACC_ERR and raises FC1. (R75, R187, R210, R359, R381, R382, R415,
R463, R479, R528) -/
def Obligations.ReadsThatLatch : Prop :=
  (∀ (s : State) (m : Master),
    s.sys.inReset = false ∧ s.mastersRun m = true →
    s.mayRead m R.SYS_VSEC_LO = true →
    Answers (.sysVsecLoRead m) s fun t =>
      t.sys.resp = some (false, BitVec.ofNat 64 (s.vault.sec.toNat % 2 ^ 32)) ∧
      t.num R.SYS_VSEC_HI = s.vault.sec.toNat / 2 ^ 32 ∧
      OnlyRegs [R.SYS_VSEC_HI] s t ∧
      Only [.regs, .sys, .out] s t) ∧
  (∀ (s : State) (m : Master),
    s.sys.inReset = false ∧ s.mastersRun m = true →
    s.mayRead m R.TIM_STIME_NS = true →
    Answers (.stimeNsRead m) s fun t =>
      t.sys.resp = some (false, BitVec.ofNat 64 (s.stimeNs % 2 ^ 32)) ∧
      t.get F.TIM_STIME_FRAC_FRAC = s.stime48 % 65536 ∧ t.get F.TIM_STIME_FRAC_WRAP = s.get F.TIM_STAT_WRAP ∧
      OnlyRegs [R.TIM_STIME_FRAC] s t ∧
      Only [.regs, .sys, .out] s t) ∧
  (∀ (s : State) (m : Master),
    s.sys.inReset = false ∧ s.mastersRun m = true →
    s.mayRead m R.TIM_TPI_FRAC = true →
    Answers (.tpiFracRead m) s fun t =>
      t.sys.resp = some (false, BitVec.ofNat 64 (s.num R.TIM_TPI_FRAC)) ∧
      t.get F.TIM_TPI_FRAC_RDY = 0 ∧ t.get F.TIM_TPI_FRAC_OVR = 0 ∧
      OnlyRegs [R.TIM_TPI_FRAC] s t ∧
      Only [.regs, .sys, .out] s t) ∧
  (∀ (s : State) (m : Master) (k : Fin 16),
    s.sys.inReset = false ∧ s.mastersRun m = true →
    s.mayRead m (R.ADC_RESm_RAW k) = true →
    Answers (.resRawRead m k) s fun t =>
      t.sys.resp = some (false, BitVec.ofNat 64 (s.num (R.ADC_RESm_RAW k))) ∧
      t.rawLatched k = (s.rd (R.ADC_RESm_VAL k), s.rd (R.ADC_RESm_STIME k), s.rd (R.ADC_RESm_SEAL k)) ∧
      t.regs = s.regs ∧
      Only [.sys, .adc, .out] s t) ∧
  (∀ (s : State) (m : Master) (k : Fin 64),
    s.sys.inReset = false ∧ s.mastersRun m = true →
    s.mayRead m (R.MTR_ACCk_LO k) = true →
    (s.mtrAcc k).acc = (s.mtrAcc k).copy →
    Answers (.accLoRead m k 0) s fun t =>
      t.sys.resp = some (false, BitVec.ofNat 64 ((s.mtrAcc k).acc % 2 ^ 32)) ∧
      t.rd (R.MTR_ACCk_HI k) = BitVec.ofNat 32 ((s.mtrAcc k).acc >>> 32) ∧
      (∀ a, t.mtrAcc a = s.mtrAcc a) ∧
      OnlyRegs [R.MTR_ACCk_HI k] s t ∧
      Only [.regs, .sys, .mtr, .out] s t) ∧
  (∀ (s : State) (m : Master) (k : Fin 64) (x : BitVec 64),
    s.sys.inReset = false ∧ s.mastersRun m = true →
    s.mayRead m (R.MTR_ACCk_LO k) = true →
    (s.mtrAcc k).acc = (s.mtrAcc k).copy ∧ x ≠ 0 ∧ s.flag F.MTR_STAT_ACC_ERR = false →
    Answers (.accLoRead m k x) s fun t =>
      t.sys.resp = some (false, BitVec.ofNat 64 ((s.mtrAcc k).acc % 2 ^ 32)) ∧
      t.flag F.MTR_STAT_ACC_ERR = true ∧
      Raised s t 0x0C03 1 ∧
      FaultFrame [R.MTR_ACCk_HI k, R.MTR_STAT] s t ∧
      Only [.regs, .sys, .clk, .tim, .pwm, .gd, .flt, .mtr, .out] s t) ∧
  (∀ (s : State) (m : Master),
    s.sys.inReset = false ∧ s.mastersRun m = true →
    s.mayRead m (R.DPX_HEALTH 0) = true →
    Answers (.health0Read m) s fun t =>
      t.sys.resp = some (false, BitVec.ofNat 64 (s.num (R.DPX_HEALTH 0))) ∧
      t.dpx.latHealth = some ((List.range 31).map fun i => s.rd (R.DPX_HEALTH (i + 1))) ∧
      t.regs = s.regs ∧
      Only [.sys, .dpx, .out] s t) ∧
  (∀ (s : State) (m : Master) (r : Fin 64),
    s.sys.inReset = false ∧ s.mastersRun m = true →
    s.mayRead m (R.FLT_RECr_Ww r 0) = true →
    Answers (.recordRead m r) s fun t =>
      t.sys.resp = some (false, BitVec.ofNat 64 (s.num (R.FLT_RECr_Ww r 0))) ∧
      t.flt.latRec = some (r.val, (List.range 7).map fun i => s.rd (R.FLT_RECr_Ww r (i + 1))) ∧
      t.regs = s.regs ∧
      Only [.sys, .flt, .out] s t) ∧
  (∀ (s : State) (m : Master) (e : Fin 64),
    s.sys.inReset = false ∧ s.mastersRun m = true →
    s.mayRead m (R.FLT_LEDe_Ww e 0) = true →
    Answers (.ledgerRead m e) s fun t =>
      t.sys.resp = some (false, BitVec.ofNat 64 (s.num (R.FLT_LEDe_Ww e 0))) ∧
      t.flt.latLed = some (e.val, (List.range 15).map fun i => s.rd (R.FLT_LEDe_Ww e (i + 1))) ∧
      t.regs = s.regs ∧
      Only [.sys, .flt, .out] s t)

/-- A register access that is not an aligned word is a bus error and changes nothing. A permitted read of a register
of a window in which no read has an effect answers its word, or zero where the block does not serve the node's role. A
read of a register outside a master's rights reads zero and is counted with master, address and direction; a write of
a register of which the master may write no bit has no effect and is counted likewise. An address of a window that
carries no register reads as zero and a write to it by a master changes nothing. A write of the management processor
to a register of the node's role that is no command, mailbox word or clock output sets the RW fields, and the RL
fields before the boot lock, clears W1C fields by ones and leaves every other bit; after the boot lock a write that
would change RL fields of a register with no RW and no W1C field changes none and is counted. (R10, R11, R12, R14,
R528, R531, R564) -/
def Obligations.RegisterAccess : Prop :=
  (∀ (s : State) (m : Master) (a : Word) (size : Fin 9) (e : Ecc),
    s.sys.inReset = false ∧ s.mastersRun m = true →
    inSram a.toNat = false →
    size.val ≠ 4 ∨ a.toNat % 4 ≠ 0 →
    Answers (.registerRead m a size e) s fun t =>
      t.sys.resp = some (true, 0) ∧
      t.regs = s.regs ∧
      Only [.sys, .out] s t) ∧
  (∀ (s : State) (m : Master) (a : Word) (size : Fin 9) (v : Word) (e : Ecc),
    s.sys.inReset = false ∧ s.mastersRun m = true →
    inSram a.toNat = false →
    size.val ≠ 4 ∨ a.toNat % 4 ≠ 0 →
    Answers (.registerWrite m a size v e) s fun t =>
      t.sys.resp = some (true, 0) ∧
      t.regs = s.regs ∧
      Only [.sys, .out] s t) ∧
  (∀ (s : State) (m : Master) (a : Word) (e : Ecc) (r : RegRow),
    s.sys.inReset = false ∧ s.mastersRun m = true →
    inWindow a.toNat = true ∧ a.toNat % 4 = 0 →
    rowOf a.toNat = some r ∧ s.mayRead m a.toNat = false →
    Answers (.registerRead m a 4 e) s fun t =>
      t.sys.resp = some (false, 0) ∧
      t.num R.SYS_VIOL_CNT = satAdd 0xFFFFFFFF (s.num R.SYS_VIOL_CNT) 1 ∧
      t.get F.SYS_VIOL_LAST_W = 0 ∧ t.get F.SYS_VIOL_LAST_MASTER = masterId m ∧
      t.get F.SYS_VIOL_LAST_SPACE = addrSpace a.toNat ∧ t.get F.SYS_VIOL_LAST_OFS = addrOfs a.toNat ∧
      OnlyRegs [R.SYS_VIOL_CNT, R.SYS_VIOL_LAST] s t ∧
      Only [.regs, .sys, .out] s t) ∧
  (∀ (s : State) (m : Master) (a : Word) (e : Ecc),
    s.sys.inReset = false ∧ s.mastersRun m = true →
    inWindow a.toNat = true ∧ a.toNat % 4 = 0 ∧ rowOf a.toNat = none →
    Answers (.registerRead m a 4 e) s fun t =>
      t.sys.resp = some (false, 0) ∧
      t.regs = s.regs ∧
      Only [.sys, .out] s t) ∧
  (∀ (s : State) (m : Master) (a : Word) (e : Ecc) (r : RegRow),
    s.sys.inReset = false ∧ s.mastersRun m = true →
    inWindow a.toNat = true ∧ a.toNat % 4 = 0 →
    rowOf a.toNat = some r ∧ s.mayRead m a.toNat = true →
    blockOf a.toNat ∈ [1, 2, 6, 7, 9, 13, 15, 16, 18] →
    Answers (.registerRead m a 4 e) s fun t =>
      (t.sys.resp = some (false, if s.serves a.toNat then BitVec.ofNat 64 (s.num a.toNat) else 0)) ∧
      t.regs = s.regs ∧
      Only [.sys, .out] s t) ∧
  (∀ (s : State) (m : Master) (a : Word) (v : Word) (e : Ecc) (r : RegRow),
    s.sys.inReset = false ∧ s.mastersRun m = true →
    inWindow a.toNat = true ∧ a.toNat % 4 = 0 ∧ mbxWord a.toNat = none →
    rowOf a.toNat = some r ∧ s.writeMask m a.toNat = 0 →
    a.toNat ≠ R.SYS_RST_CTRL ∧ a.toNat ≠ R.IMG_PROV ∧ a.toNat ≠ R.MEM_SCRUB_CTRL ∧ a.toNat ≠ R.MEM_REPAIR ∧ a.toNat ≠ R.PWM_CMD →
    a.toNat ≠ R.RNG_RRA_CTRL ∨ s.get F.RNG_RRA_STAT_STATE ≠ 1 →
    Answers (.registerWrite m a 4 v e) s fun t =>
      t.sys.resp = some (false, 0) ∧
      t.num R.SYS_VIOL_CNT = satAdd 0xFFFFFFFF (s.num R.SYS_VIOL_CNT) 1 ∧
      t.get F.SYS_VIOL_LAST_W = 1 ∧ t.get F.SYS_VIOL_LAST_MASTER = masterId m ∧
      t.get F.SYS_VIOL_LAST_SPACE = addrSpace a.toNat ∧ t.get F.SYS_VIOL_LAST_OFS = addrOfs a.toNat ∧
      OnlyRegs [R.SYS_VIOL_CNT, R.SYS_VIOL_LAST] s t ∧
      Only [.regs, .sys, .out] s t) ∧
  (∀ (s : State) (m : Master) (a : Word) (v : Word) (e : Ecc),
    s.sys.inReset = false ∧ s.mastersRun m = true →
    inWindow a.toNat = true ∧ a.toNat % 4 = 0 ∧ rowOf a.toNat = none ∧ mbxWord a.toNat = none →
    Answers (.registerWrite m a 4 v e) s fun t =>
      t.sys.resp = some (false, 0) ∧
      t.regs = s.regs ∧
      Only [.sys, .out] s t) ∧
  (∀ (s : State) (a : Word) (v : Word) (e : Ecc) (r : RegRow),
    s.sys.inReset = false ∧ s.mastersRun .mp = true ∧ (s.sys.bootLock = false ∨ (s.num a.toNat ^^^ v.toNat) &&& r.rl = 0) →
    inWindow a.toNat = true ∧ a.toNat % 4 = 0 ∧ mbxWord a.toNat = none →
    rowOf a.toNat = some r ∧ s.serves a.toNat = true →
    a.toNat ≠ R.SYS_RST_CTRL ∧ a.toNat ≠ R.IMG_PROV ∧ a.toNat ≠ R.RNG_RRA_CTRL ∧ (∀ n : Fin 4, a.toNat ≠ R.CLK_CKOn_CFG n) →
    s.cmdWrite .mp (blockOf a.toNat) (ofsOf a.toNat) v.toNat = none →
    Answers (.registerWrite .mp a 4 v e) s fun t =>
      (t.rd a.toNat = ((s.rd a.toNat &&& ~~~(BitVec.ofNat 32 (r.rw ||| if s.sys.bootLock then 0 else r.rl))) ||| (v &&& BitVec.ofNat 32 (r.rw ||| if s.sys.bootLock then 0 else r.rl))) &&& ~~~(v &&& BitVec.ofNat 32 r.w1c)) ∧
      t.sys.resp = some (false, 0) ∧
      OnlyRegs [a.toNat] s t ∧
      Only [.regs, .sys, .out] s t) ∧
  (∀ (s : State) (a : Word) (v : Word) (e : Ecc) (r : RegRow),
    s.sys.inReset = false ∧ s.mastersRun .mp = true ∧ s.sys.bootLock = true →
    inWindow a.toNat = true ∧ a.toNat % 4 = 0 ∧ mbxWord a.toNat = none →
    rowOf a.toNat = some r ∧ s.serves a.toNat = true ∧ r.rw = 0 ∧ r.w1c = 0 →
    a.toNat ≠ R.SYS_RST_CTRL ∧ a.toNat ≠ R.IMG_PROV ∧ a.toNat ≠ R.RNG_RRA_CTRL →
    s.cmdWrite .mp (blockOf a.toNat) (ofsOf a.toNat) v.toNat = none →
    (s.num a.toNat ^^^ v.toNat) &&& r.rl ≠ 0 →
    Answers (.registerWrite .mp a 4 v e) s fun t =>
      t.rd a.toNat = s.rd a.toNat ∧
      t.num R.SYS_VIOL_CNT = satAdd 0xFFFFFFFF (s.num R.SYS_VIOL_CNT) 1 ∧
      OnlyRegs [R.SYS_VIOL_CNT, R.SYS_VIOL_LAST] s t ∧
      Only [.regs, .sys, .out] s t)

/-- An aligned store of 1, 2, 4 or 8 bytes by a master with the right to the region leaves the bytes of the value in
rising addresses and every other byte as it was; a load returns the bytes of its size. A misaligned access or one of
another size is a bus error. A store outside a master's rights changes no byte and is counted. A load from a word that
decodes uncorrectable is a bus error and raises the row of R494 with FC2. (R12, R484, R485, R486, R488, R489, R494,
R528, R531) -/
def Obligations.SramAccess : Prop :=
  (∀ (s : State) (m : Master) (a : Word) (size : Fin 9) (v : BitVec 64),
    s.sys.inReset = false ∧ s.mastersRun m = true →
    inSram a.toNat = true ∧ sizeOk a.toNat size = true ∧ s.mayStore m a.toNat = true →
    s.eccErr (eccWord a.toNat) = none →
    Answers (.sramAccess m true a size v .clean) s fun t =>
      (∀ i : Fin 8, i.val < size.val → t.byte (a.toNat + i.val) = BitVec.ofNat 8 (v.toNat / 256 ^ i.val % 256)) ∧
      (∀ a', (a' < a.toNat ∨ a.toNat + size.val ≤ a') → t.byte a' = s.byte a') ∧
      t.sys.resp = some (false, 0) ∧
      t.regs = s.regs ∧
      Only [.mem, .sys, .memx, .out] s t) ∧
  (∀ (s : State) (m : Master) (a : Word) (size : Fin 9) (v : BitVec 64),
    s.sys.inReset = false ∧ s.mastersRun m = true →
    inSram a.toNat = true ∧ sizeOk a.toNat size = true ∧ s.mayRead m a.toNat = true →
    s.eccErr (eccWord a.toNat) = none →
    Answers (.sramAccess m false a size v .clean) s fun t =>
      t.sys.resp = some (false, BitVec.ofNat 64 (s.loadLe a.toNat size.val)) ∧
      t.regs = s.regs ∧
      Only [.sys, .out] s t) ∧
  (∀ (s : State) (m : Master) (wr : Bool) (a : Word) (size : Fin 9) (v : BitVec 64) (e : Ecc),
    s.sys.inReset = false ∧ s.mastersRun m = true →
    inSram a.toNat = true →
    (size.val ≠ 1 ∧ size.val ≠ 2 ∧ size.val ≠ 4 ∧ size.val ≠ 8) ∨ a.toNat % size.val ≠ 0 →
    Answers (.sramAccess m wr a size v e) s fun t =>
      t.sys.resp = some (true, 0) ∧
      t.regs = s.regs ∧
      Only [.sys, .out] s t) ∧
  (∀ (s : State) (m : Master) (a : Word) (size : Fin 9) (v : BitVec 64) (e : Ecc),
    s.sys.inReset = false ∧ s.mastersRun m = true →
    inSram a.toNat = true ∧ sizeOk a.toNat size = true ∧ s.mayStore m a.toNat = false →
    Answers (.sramAccess m true a size v e) s fun t =>
      t.num R.SYS_VIOL_CNT = satAdd 0xFFFFFFFF (s.num R.SYS_VIOL_CNT) 1 ∧
      t.get F.SYS_VIOL_LAST_W = 1 ∧ t.get F.SYS_VIOL_LAST_MASTER = masterId m ∧
      OnlyRegs [R.SYS_VIOL_CNT, R.SYS_VIOL_LAST] s t ∧
      Only [.regs, .sys, .out] s t) ∧
  (∀ (s : State) (m : Master) (a : Word) (size : Fin 9) (v : BitVec 64),
    s.sys.inReset = false ∧ s.mastersRun m = true →
    inSram a.toNat = true ∧ sizeOk a.toNat size = true ∧ s.mayRead m a.toNat = true →
    Answers (.sramAccess m false a size v .uncorr) s fun t =>
      t.sys.resp = some (true, 0) ∧
      HasCause t 0x0F02 2 = true ∧
      t.mem = s.mem)

/-- A complete measurement on an UP port shows there the mean of up to 64 delays and, at the root, nothing else; on
the only qualifying port, the upstream of a node in ACQUIRE and FULL whose run of good means is 0, it gives the chain
error, shown in TIM_ERR, and STIME is not stepped. A LOCKED servo without an update for NOUP_MAX cycles goes to HOLD
with its frequency kept, and FC1 in FULL; without such a run nothing happens. A HOLD of 1 s in FULL, at u, raises FC3
and leaves service. Chains that have disagreed for 16 cycles set XCHK with FC1. A wrap of STIME returns it to zero and
sets WRAP, and WRAP_OVR with FC0 when WRAP still stood. A host offset is ignored with OFS_IGN away from the root; at
the root one that is stepped (outside FULL, in station Par-bake, beyond STEP_THR), here a positive one, takes STIME
back and clears y_P. No write within HOST_TO, at u, sets HOST_TO, clears y_P and raises FC0. (R188, R190, R191, R192,
R193, R194, R196, R200, R202, R203) -/
def Obligations.ServoMeasuresAndLosses : Prop :=
  (∀ (s : State) (p : Fin 4) (t1 t3 t4 : BitVec 48),
    s.sys.inReset = false →
    s.flag (F.LNK_PORTx_STAT_UP p) = true →
    (s.link p).t1 = some t1 ∧ (s.link p).t3m = some t3 ∧ (s.link p).t4 = some t4 →
    s.srcHost = true →
    Answers (.linkMeasurement p) s fun t =>
      (t.link p).delays = (((stampDiff (s.link p).t2 t1).add (stampDiff t4 t3)).shr 1 :: (s.link p).delays).take 64 ∧
      t.rd (R.TIM_PORTp_DLY p) = BitVec.ofNat 32 (unsgn 32 ((meanOf (t.link p).delays).shl 8).round) ∧
      OnlyRegs [R.TIM_PORTp_DLY p] s t ∧
      Only [.regs, .tim] s t) ∧
  (∀ (s : State) (p : Fin 4) (t1 t3 t4 : BitVec 48),
    s.sys.inReset = false →
    s.flag (F.LNK_PORTx_STAT_UP p) = true →
    (s.link p).t1 = some t1 ∧ (s.link p).t3m = some t3 ∧ (s.link p).t4 = some t4 →
    s.srcHost = false ∧ s.upPort = p.val ∧ s.qualifies p = true →
    (∀ q : Fin 4, q ≠ p → s.qualifies q = false) →
    s.stage = Stage.full ∧ s.servo = Servo.acquire ∧ s.tim.okRun = 0 →
    Answers (.linkMeasurement p) s fun t =>
      t.tim.chain = (s.link p).chain.add ((((stampDiff (s.link p).t2 t1).sub (stampDiff t4 t3)).sub (s.asym p)).shr 1) ∧
      t.rd R.TIM_ERR = BitVec.ofNat 32 (unsgn 32 (clampI (-2147483648) 2147483647 (t.tim.chain.shl 8).round)) ∧
      t.servo = Servo.acquire ∧ t.tim.noUp = 0 ∧
      t.tim.stime = s.tim.stime) ∧
  (∀ (s : State),
    s.sys.inReset = false →
    s.servo = Servo.locked ∧ s.srcHost = false ∧ s.get F.TIM_CTRL_NOUP_MAX ≤ s.tim.noUp →
    Answers .sourceLoss s fun t =>
      t.servo = Servo.hold ∧
      t.tim.yP = Frac.zero ∧ t.tim.yI = s.tim.yI ∧
      (s.stage = Stage.full → Raised s t 0x0504 1) ∧
      t.stage = s.stage ∧
      Only [.regs, .clk, .flash, .fuse, .img, .tim, .pwm, .gd, .flt, .out] s t) ∧
  (∀ (s : State),
    s.servo ≠ Servo.locked ∨ s.srcHost = true ∨ s.tim.noUp < s.get F.TIM_CTRL_NOUP_MAX →
    Answers .sourceLoss s fun t =>
      t = s) ∧
  (∀ (s u : State),
    s.sys.inReset = false →
    s.servo = Servo.hold ∧ s.stage = Stage.full →
    u = s.runUp (s.tim.holdAt + msTicks 1000 + 1) →
    Answers .holdLimit s fun t =>
      HasCause t 0x0502 3 = true ∧
      t.inService = false ∧
      t.tim.stime = u.tim.stime ∧
      Only [.regs, .clk, .lnk, .tim, .pwm, .gd, .flt, .bal, .out] u t) ∧
  (∀ (s : State),
    s.sys.inReset = false →
    s.tim.xRun = 16 ∧ s.flag F.TIM_STAT_XCHK = false →
    Answers .xchk s fun t =>
      t.flag F.TIM_STAT_XCHK = true ∧
      Raised s t 0x0505 1 ∧
      FaultFrame [] s t ∧
      Only [.regs, .clk, .tim, .pwm, .gd, .flt, .out] s t) ∧
  (∀ (s : State),
    s.tim.xRun < 16 →
    Answers .xchk s fun t =>
      t = s) ∧
  (∀ (s : State),
    s.sys.inReset = false →
    s.tim.stime < 2 ^ 72 →
    Answers .stimeWrap s fun t =>
      t.tim.stime = 0 ∧ t.tim.wraps = s.tim.wraps + 1 ∧
      t.flag F.TIM_STAT_WRAP = true ∧
      t.flag F.TIM_STAT_WRAP_OVR = (s.flag F.TIM_STAT_WRAP || s.flag F.TIM_STAT_WRAP_OVR) ∧
      (s.flag F.TIM_STAT_WRAP = true → Raised s t 0x0508 0) ∧
      Only [.regs, .clk, .tim, .pwm, .gd, .flt, .sup, .out] s t) ∧
  (∀ (s : State) (m : Master) (v : Word),
    s.sys.inReset = false ∧ s.mastersRun m = true →
    s.mayClear m = true →
    s.srcHost = false →
    Answers (.timOffsetWrite m v) s fun t =>
      t.flag F.TIM_STAT_OFS_IGN = true ∧
      OnlyRegs [R.TIM_STAT] s t ∧
      Only [.regs] s t) ∧
  (∀ (s : State) (m : Master) (v : Word),
    s.sys.inReset = false ∧ s.mastersRun m = true →
    s.mayClear m = true →
    s.srcHost = true →
    s.stepsNow (Frac.mk' (sgn 32 v.toNat) 16) true = true →
    sgn 32 v.toNat > 0 →
    s.tim.stime < 2 ^ 72 ∧ 1 ≤ s.tim.wraps →
    Answers (.timOffsetWrite m v) s fun t =>
      t.tim.stime = (s.tim.stime + 2 ^ 72 - v.toNat * 2 ^ 36) % 2 ^ 72 ∧
      t.tim.yP = Frac.zero ∧ t.tim.yI = s.tim.yI ∧
      t.tim.lastOfs = some s.sys.up) ∧
  (∀ (s u : State),
    s.sys.inReset = false →
    s.srcHost = true ∧ s.flag F.TIM_STAT_HOST_TO = false →
    u = s.runUp (s.tim.lastOfs.getD s.tim.srcAt + msTicks (1000 * s.get F.TIM_CTRL_HOST_TO)) →
    Answers .hostTimeout s fun t =>
      t.flag F.TIM_STAT_HOST_TO = true ∧
      t.tim.yP = Frac.zero ∧ t.tim.yI = s.tim.yI ∧
      Raised u t 0x0507 0 ∧
      Only [.regs, .clk, .tim, .pwm, .gd, .flt, .out] u t)

/-- Enabling an output whose configuration is in range schedules a START ahead, and a periodic one whose START has
passed the first edge of its train later than the present STIME; a single pulse whose START has passed sets MISSED and
raises FC0; a WIDTH below 10 sets CFG_ERR and schedules nothing. At the edge, u, the output is active, and a periodic
one schedules the next edge PER later; WIDTH later, at u, it is inactive and takes a write that waited. A write while
active waits; otherwise it is in force at once. A selected edge of an enabled TPI with 20 ns of level on both sides
captures STIME, or sets OVR while a capture is held; an edge of a shorter pulse does nothing. (R207, R208, R209, R210)
-/
def Obligations.TimePulses : Prop :=
  (∀ (s : State) (n : Fin 4) (v : Word),
    s.sys.inReset = false →
    s.tpoOff n = false ∧ s.flag (F.TIM_TPOn_CTRL_EN n) = false →
    v.getLsbD 0 = true ∧ (v.getLsbD 1 = true → 100 ≤ s.num (R.TIM_TPOn_PER n) ∧ s.num (R.TIM_TPOn_WIDTH n) + 10 ≤ s.num (R.TIM_TPOn_PER n)) →
    10 ≤ s.num (R.TIM_TPOn_WIDTH n) →
    1 ≤ (s.num (R.TIM_TPOn_START n) + 2 ^ 32 - s.stimeNs % 2 ^ 32) % 2 ^ 32 ∧ (s.num (R.TIM_TPOn_START n) + 2 ^ 32 - s.stimeNs % 2 ^ 32) % 2 ^ 32 < 2 ^ 31 →
    Answers (.tpoEnable n v) s fun t =>
      t.flag (F.TIM_TPOn_CTRL_EN n) = true ∧ t.flag (F.TIM_TPOn_CTRL_PERIODIC n) = v.getLsbD 1 ∧
      t.flag (F.TIM_TPOn_CTRL_POL n) = v.getLsbD 2 ∧ t.flag (F.TIM_TPOn_CTRL_CFG_ERR n) = false ∧
      (t.tpo n).next = some (s.nsExt + (s.num (R.TIM_TPOn_START n) + 2 ^ 32 - s.stimeNs % 2 ^ 32) % 2 ^ 32) ∧
      OnlyRegs [R.TIM_TPOn_CTRL n] s t ∧
      Only [.regs, .tim] s t) ∧
  (∀ (s : State) (n : Fin 4) (v : Word),
    s.sys.inReset = false →
    s.tpoOff n = false ∧ s.flag (F.TIM_TPOn_CTRL_EN n) = false →
    v.getLsbD 0 = true ∧ v.getLsbD 1 = true →
    10 ≤ s.num (R.TIM_TPOn_WIDTH n) ∧ 100 ≤ s.num (R.TIM_TPOn_PER n) ∧ s.num (R.TIM_TPOn_WIDTH n) + 10 ≤ s.num (R.TIM_TPOn_PER n) →
    s.tpoOrigin n ≤ s.nsExt →
    Answers (.tpoEnable n v) s fun t =>
      (t.tpo n).next = some (s.tpoOrigin n + ((s.nsExt - s.tpoOrigin n) / s.num (R.TIM_TPOn_PER n) + 1) * s.num (R.TIM_TPOn_PER n)) ∧
      OnlyRegs [R.TIM_TPOn_CTRL n] s t ∧
      Only [.regs, .tim] s t) ∧
  (∀ (s : State) (n : Fin 4) (v : Word),
    s.sys.inReset = false →
    s.tpoOff n = false ∧ s.flag (F.TIM_TPOn_CTRL_EN n) = false →
    v.getLsbD 0 = true ∧ v.getLsbD 1 = false →
    10 ≤ s.num (R.TIM_TPOn_WIDTH n) →
    (s.num (R.TIM_TPOn_START n) + 2 ^ 32 - s.stimeNs % 2 ^ 32) % 2 ^ 32 = 0 ∨ 2 ^ 31 ≤ (s.num (R.TIM_TPOn_START n) + 2 ^ 32 - s.stimeNs % 2 ^ 32) % 2 ^ 32 →
    Answers (.tpoEnable n v) s fun t =>
      t.flag (F.TIM_TPOn_CTRL_MISSED n) = true ∧
      (t.tpo n).next = none ∧
      Raised s t 0x0508 0 ∧
      FaultFrame [R.TIM_TPOn_CTRL n] s t ∧
      Only [.regs, .clk, .tim, .pwm, .gd, .flt, .out] s t) ∧
  (∀ (s : State) (n : Fin 4) (v : Word),
    s.sys.inReset = false →
    s.tpoOff n = false ∧ s.flag (F.TIM_TPOn_CTRL_EN n) = false →
    v.getLsbD 0 = true →
    s.num (R.TIM_TPOn_WIDTH n) < 10 →
    Answers (.tpoEnable n v) s fun t =>
      t.flag (F.TIM_TPOn_CTRL_CFG_ERR n) = true ∧
      (t.tpo n).next = none ∧ (t.tpo n).active = false ∧
      OnlyRegs [R.TIM_TPOn_CTRL n] s t ∧
      Only [.regs, .tim] s t) ∧
  (∀ (s u : State) (n : Fin 4) (k : Nat),
    s.sys.inReset = false →
    (s.tpo n).next = some k →
    u = s.runAhead (k * stimeUnit - s.stimeExt) →
    Answers (.tpoEdge n) s fun t =>
      (t.tpo n).active = true ∧
      (t.tpo n).endAt = u.tim.acc + u.num (R.TIM_TPOn_WIDTH n) * stimeUnit ∧
      ((t.tpo n).next = if u.flag (F.TIM_TPOn_CTRL_PERIODIC n) then some (k + u.num (R.TIM_TPOn_PER n)) else none) ∧
      Only [.tim] u t) ∧
  (∀ (s u : State) (n : Fin 4),
    s.sys.inReset = false →
    (s.tpo n).active = true ∧ (s.tpo n).waiting = [] →
    u = s.runAhead ((s.tpo n).endAt - s.tim.acc) →
    Answers (.tpoPulseEnd n) s fun t =>
      (t.tpo n).active = false ∧ (t.tpo n).next = (s.tpo n).next ∧
      Only [.tim] u t) ∧
  (∀ (s u : State) (n : Fin 4) (r : TpoReg) (v : Word),
    s.sys.inReset = false →
    (s.tpo n).active = true ∧ (s.tpo n).waiting = [(r, v)] →
    u = s.runAhead ((s.tpo n).endAt - s.tim.acc) →
    Answers (.tpoPulseEnd n) s fun t =>
      (t.tpo n).active = false ∧ (t.tpo n).waiting = [] ∧
      t.rd (tpoAddr n r) = v ∧
      OnlyRegs [R.TIM_TPOn_CTRL n, tpoAddr n r] u t ∧
      Only [.regs, .tim] u t) ∧
  (∀ (s : State) (n : Fin 4) (r : TpoReg) (v : Word),
    s.sys.inReset = false →
    s.flag (F.TIM_TPOn_CTRL_EN n) = true ∧ (s.tpo n).active = true →
    Answers (.tpoConfigWrite n r v) s fun t =>
      (t.tpo n).waiting = (s.tpo n).waiting ++ [(r, v)] ∧
      t.regs = s.regs ∧
      Only [.tim] s t) ∧
  (∀ (s : State) (n : Fin 4) (r : TpoReg) (v : Word),
    s.sys.inReset = false →
    s.flag (F.TIM_TPOn_CTRL_EN n) = false ∨ (s.tpo n).active = false →
    Answers (.tpoConfigWrite n r v) s fun t =>
      t.rd (tpoAddr n r) = v ∧
      OnlyRegs [R.TIM_TPOn_CTRL n, tpoAddr n r] s t ∧
      Only [.regs, .tim] s t) ∧
  (∀ (s : State) (rising : Bool) (before after : Nat),
    s.sys.inReset = false →
    s.flag F.TIM_TPI_CTRL_EN = true ∧ s.flag F.TIM_TPI_CTRL_EDGE = !rising →
    20 ≤ before ∧ 20 ≤ after →
    s.flag F.TIM_TPI_FRAC_RDY = false →
    Answers (.tpiEdge rising before after) s fun t =>
      t.rd R.TIM_TPI_NS = BitVec.ofNat 32 s.stimeNs ∧
      t.get F.TIM_TPI_FRAC_FRAC = s.stime48 % 65536 ∧ t.get F.TIM_TPI_FRAC_RDY = 1 ∧
      OnlyRegs [R.TIM_TPI_NS, R.TIM_TPI_FRAC] s t ∧
      Only [.regs] s t) ∧
  (∀ (s : State) (rising : Bool) (before after : Nat),
    s.sys.inReset = false →
    s.flag F.TIM_TPI_CTRL_EN = true ∧ s.flag F.TIM_TPI_CTRL_EDGE = !rising →
    20 ≤ before ∧ 20 ≤ after →
    s.flag F.TIM_TPI_FRAC_RDY = true →
    Answers (.tpiEdge rising before after) s fun t =>
      t.get F.TIM_TPI_FRAC_OVR = 1 ∧
      OnlyRegs [R.TIM_TPI_FRAC] s t ∧
      t.rd R.TIM_TPI_NS = s.rd R.TIM_TPI_NS ∧
      Only [.regs] s t) ∧
  (∀ (s : State) (rising : Bool) (before after : Nat),
    before < 20 ∨ after < 20 →
    Answers (.tpiEdge rising before after) s fun t =>
      t = s)

/-- u is the state at the instant the sample, or the end of a line cycle without reference, falls due. A sample of a
running unit in DC mode before the 320th of its cycle moves the interval and the count, adds the square of each
enabled channel, and a full-scale code sets the channel's OVLD flag. A locked tracker none of whose voltages stands
shows NOREF and raises FC0; a crossing of a standing reference within the lock range ends the line cycle. A line cycle
that ends without reference shows its frequency, counts, and waits. The update takes the oldest waiting cycle and adds
to every accumulator exactly the energies booked to it, keeping what is below a unit, from copies that agree; a copy
that has been upset sets ACC_ERR with FC1 and the other one counts on. (R370, R371, R372, R373, R374, R376, R378,
R379, R381) -/
def Obligations.MeterSamplesAndCycles : Prop :=
  (∀ (s u : State) (codes : List Int) (cr : Bool),
    s.sys.inReset = false →
    s.mtr.on = true ∧ s.mtrDc = true ∧ s.mtr.count + 1 < 320 →
    u = s.sampleDue →
    Answers (.meterSample codes cr) s fun t =>
      t.mtr.lastAcc = u.tim.acc ∧ t.mtr.count = s.mtr.count + 1 ∧ t.mtr.tc = s.mtr.tc + (u.tim.acc - s.mtr.lastAcc) ∧
      (∀ n : Fin 8, u.flag (F.MTR_CHn_CFG_EN n) = true → u.num (R.MTR_CHn_PHASE n) = 0 → Bank.at 0 t.mtr.sq n = f64.add (Bank.at 0 s.mtr.sq n) (f64.mul (f64.mul (u.scaled n (clampI (-fullScale) fullScale (codes.getD n 0))) (u.scaled n (clampI (-fullScale) fullScale (codes.getD n 0)))) (secondsOf (u.tim.acc - s.mtr.lastAcc)))) ∧
      (∀ n : Fin 8, u.flag (F.MTR_CHn_CFG_EN n) = true → fullScale ≤ (codes.getD n 0).natAbs → bit (t.get F.MTR_STAT_OVLD) n = true) ∧
      t.mtr.acc = s.mtr.acc ∧ t.mtr.jobs = s.mtr.jobs ∧
      t.free = u.free + 11 ∧
      Only [.regs, .clk, .tim, .pwm, .gd, .flt, .mtr, .out, .free] u t) ∧
  (∀ (s u : State) (codes : List Int) (cr : Bool),
    s.sys.inReset = false →
    s.mtr.on = true ∧ s.mtrDc = false →
    u = s.sampleDue →
    u.flag F.MTR_STAT_LOCKED = true ∧ u.voltsOk = 0 →
    Answers (.meterSample codes cr) s fun t =>
      t.flag F.MTR_STAT_LOCKED = false ∧ t.get F.MTR_STAT_REF_PH = 3 ∧
      t.mtr.noref = true ∧
      Raised u t 0x0C01 0 ∧
      t.mtr.cycles = s.mtr.cycles ∧
      Only [.regs, .clk, .tim, .pwm, .gd, .flt, .mtr, .out, .free] u t) ∧
  (∀ (s u : State) (codes : List Int) (x : Nat),
    s.sys.inReset = false →
    s.mtr.on = true ∧ s.mtrDc = false ∧ s.mtr.count ≠ 0 ∧ s.mtr.tc ≠ 0 →
    u = s.sampleDue →
    u.flag F.MTR_STAT_LOCKED = true ∧ u.get F.MTR_STAT_REF_PH < 3 ∧ bit u.voltsOk (u.get F.MTR_STAT_REF_PH) = true →
    s.mtr.crossAt = some x ∧ cycShort ≤ u.tim.acc - x ∧ u.tim.acc - x ≤ cycLong →
    Answers (.meterSample codes true) s fun t =>
      t.mtr.cycles.length = s.mtr.cycles.length + 1 ∧ t.mtr.cycles.take s.mtr.cycles.length = s.mtr.cycles ∧
      t.rd R.MTR_CYC = u.rd R.MTR_CYC + 1 ∧ t.mtr.count = 1 ∧
      t.flag F.MTR_STAT_LOCKED = true ∧ t.get F.MTR_STAT_REF_PH = u.get F.MTR_STAT_REF_PH ∧
      t.mtr.crossAt = some u.tim.acc ∧
      Only [.regs, .clk, .tim, .pwm, .gd, .flt, .mtr, .out, .free] u t) ∧
  (∀ (s u : State),
    s.sys.inReset = false →
    s.mtr.on = true ∧ s.mtrDc = false ∧ s.flag F.MTR_STAT_LOCKED = false →
    s.mtr.count ≠ 0 ∧ s.mtr.tc ≠ 0 →
    u = s.runAhead (1000000000 * stimeUnit / (if s.flag F.MTR_CFG_NOM then 60 else 50) - (s.tim.acc - s.mtr.cycAt)) →
    Answers .norefCycleEnd s fun t =>
      t.mtr.count = 0 ∧ t.mtr.tc = 0 ∧ t.mtr.cycles.length = s.mtr.cycles.length + 1 ∧
      t.mtr.cycles.take s.mtr.cycles.length = s.mtr.cycles ∧
      t.rd R.MTR_CYC = u.rd R.MTR_CYC + 1 ∧
      t.num R.MTR_FREQ = f32s.ofFrac (Frac.mk' ((1000000000 * stimeUnit : Nat) : Int) s.mtr.tc) % 2 ^ 32 ∧
      OnlyRegs (R.MTR_FREQ :: R.MTR_CYC :: (List.range 8).map R.MTR_CHn_RMS) u t ∧
      Only [.regs, .mtr, .free] u t) ∧
  (∀ (s : State) (c : List MtrPqs) (q : List (List MtrPqs)),
    s.sys.inReset = false →
    s.mtr.cycles = c :: q →
    AccAgree s →
    Answers (.accumulatorUpdate none) s fun t =>
      t.mtr.cycles = q ∧
      (∀ k : Fin 64, t.mtrAcc k = (((cycleBookings c).filter fun b => b.1 == k.val).map (·.2)).foldl accTake (s.mtrAcc k)) ∧
      (∀ k : Fin 64, (((cycleBookings c).any fun b => b.1 == k.val) = true) → t.rd (R.MTR_ACCk_LO k) = BitVec.ofNat 32 (t.mtrAcc k).acc) ∧
      t.flag F.MTR_STAT_ACC_ERR = s.flag F.MTR_STAT_ACC_ERR ∧
      Only [.regs, .clk, .tim, .pwm, .gd, .flt, .mtr, .out] s t) ∧
  (∀ (s : State) (c : List MtrPqs) (q : List (List MtrPqs)) (j : Fin 64) (x : BitVec 64),
    s.sys.inReset = false →
    s.mtr.cycles = c :: q →
    AccAgree s ∧ x ≠ 0 →
    Answers (.accumulatorUpdate (some (j, x))) s fun t =>
      t.mtr.cycles = q ∧
      (∀ k : Fin 64, (t.mtrAcc k).acc = ((((cycleBookings c).filter fun b => b.1 == k.val).map (·.2)).foldl accTake (s.mtrAcc k)).acc) ∧
      t.flag F.MTR_STAT_ACC_ERR = true ∧
      (s.flag F.MTR_STAT_ACC_ERR = false → Raised s t 0x0C03 1) ∧
      Only [.regs, .clk, .tim, .pwm, .gd, .flt, .mtr, .out] s t)

/-- An enabled pulse output with a pulse owed and none running emits one, at u WIDTH after the last one ended, and
owes one less; WIDTH later, at u, the pulse ends. A write of its weight, or one that changes its source or exponent,
marks the output so that its next update starts afresh. With accumulator copies that agree TAKE copies the 64
accumulators with time, SCN, seconds and cycle count and counts SEQ, and SIGN does so and starts the signer when it is
free; when it is not, SIGN is refused. The completed signature is that of SM2 over the first 576 bytes under the
meter's identifier with a free nonce; it ends the job, fills the record and sets SIG_DONE. A signer that fails, at u
after t_SIGN, raises FC1 and goes on to the next job. At a multiple of PERIOD, once for each, a signed snapshot
starts, or waits with AUTO_DEF behind the running job. (R383, R384, R385, R386, R387, R393, R394) -/
def Obligations.PulsesAndSnapshots : Prop :=
  (∀ (s u : State) (n : Fin 4),
    s.sys.inReset = false →
    s.flag (F.MTR_PLSn_CFG_EN n) = true ∧ 0 < (s.pls n).pending ∧ (s.pls n).active = false →
    u = s.runUp (s.pls n).freeAt →
    Answers (.pulseEmit n) s fun t =>
      (t.pls n).pending + 1 = (s.pls n).pending ∧ (t.pls n).active = true ∧ (t.pls n).edgeAt = u.sys.up ∧
      t.out = u.out ++ [.pulse n] ∧
      t.regs = u.regs ∧
      Only [.mtr, .out] u t) ∧
  (∀ (s u : State) (n : Fin 4),
    s.sys.inReset = false →
    (s.pls n).active = true →
    u = s.runUp ((s.pls n).edgeAt + s.plsWidth n) →
    Answers (.plsPulseEnd n) s fun t =>
      (t.pls n).active = false ∧ (t.pls n).pending = (s.pls n).pending ∧
      (t.pls n).freeAt = u.sys.up + u.plsWidth n ∧
      Only [.mtr] u t) ∧
  (∀ (s : State) (m : Master) (n : Fin 4) (v : Word),
    s.sys.inReset = false ∧ s.mastersRun m = true →
    s.mayClear m = true ∨ m = .mtr →
    Answers (.plsConfigWrite m n true v) s fun t =>
      t.rd (R.MTR_PLSn_WGT n) = v ∧
      (t.pls n).fresh = true ∧ (t.pls n).pending = (s.pls n).pending ∧
      OnlyRegs [R.MTR_PLSn_WGT n] s t ∧
      Only [.regs, .mtr] s t) ∧
  (∀ (s : State) (m : Master) (n : Fin 4) (v : Word),
    s.sys.inReset = false ∧ s.mastersRun m = true →
    s.mayClear m = true ∨ m = .mtr →
    Answers (.plsConfigWrite m n false v) s fun t =>
      t.get (F.MTR_PLSn_CFG_EN n) = b2n (v.getLsbD 31) ∧ t.get (F.MTR_PLSn_CFG_SRC n) = v.toNat / 2 ^ 24 % 64 ∧ t.get (F.MTR_PLSn_CFG_EXP n) = v.toNat % 16 ∧
      (v.toNat / 2 ^ 24 % 64 ≠ s.get (F.MTR_PLSn_CFG_SRC n) ∨ v.toNat % 16 ≠ s.get (F.MTR_PLSn_CFG_EXP n) → (t.pls n).fresh = true) ∧
      (t.get (F.MTR_PLSn_CFG_OVF n) = (if v.getLsbD 15 then 0 else s.get (F.MTR_PLSn_CFG_OVF n))) ∧
      OnlyRegs [R.MTR_PLSn_CFG n] s t ∧
      Only [.regs, .mtr] s t) ∧
  (∀ (s : State) (m : Master),
    s.sys.inReset = false ∧ s.mastersRun m = true →
    s.mayClear m = true ∨ m = .mtr →
    AccAgree s →
    Answers (.snapshotTake m) s fun t =>
      (∀ k : Fin 64, t.rd (R.MTR_SNPk_LO k) = BitVec.ofNat 32 (s.mtrAcc k).acc ∧ t.rd (R.MTR_SNPk_HI k) = BitVec.ofNat 32 ((s.mtrAcc k).acc >>> 32)) ∧
      t.rd R.MTR_SNP_SEQ = s.rd R.MTR_SNP_SEQ + 1 ∧ t.rd R.MTR_SNP_SCN = s.scn ∧ t.rd R.MTR_SNP_CYC = s.rd R.MTR_CYC ∧
      t.rd R.MTR_SNP_STIME_NS = BitVec.ofNat 32 s.stimeNs ∧ t.num R.MTR_SNP_STIME_FRAC = s.stime48 % 65536 ∧
      t.rd R.MTR_SNP_VSEC_LO = BitVec.ofNat 32 s.vault.sec.toNat ∧ t.rd R.MTR_SNP_VSEC_HI = BitVec.ofNat 32 (s.vault.sec.toNat >>> 32) ∧
      OnlyRegs ([R.MTR_SNP_SEQ, R.MTR_SNP_STIME_NS, R.MTR_SNP_STIME_FRAC, R.MTR_SNP_SCN, R.MTR_SNP_VSEC_LO, R.MTR_SNP_VSEC_HI, R.MTR_SNP_CYC] ++ (List.range 64).map R.MTR_SNPk_LO ++ (List.range 64).map R.MTR_SNPk_HI) s t ∧
      Only [.regs] s t) ∧
  (∀ (s : State) (m : Master),
    s.sys.inReset = false ∧ s.mastersRun m = true →
    s.mayClear m = true ∨ m = .mtr →
    s.mtr.jobs = [] ∧ AccAgree s →
    Answers (.snapshotSign m) s fun t =>
      t.mtr.jobs = [.record false] ∧ t.mtr.jobAt = s.sys.up ∧
      t.get F.MTR_SNAP_STAT_SIG_BUSY = 1 ∧ t.get F.MTR_SNAP_STAT_SIG_DONE = 0 ∧
      t.rd R.MTR_SNP_SEQ = s.rd R.MTR_SNP_SEQ + 1 ∧
      (∀ k : Fin 64, t.rd (R.MTR_SNPk_LO k) = BitVec.ofNat 32 (s.mtrAcc k).acc) ∧
      t.rd (R.MTR_SIGREC 0) = 0x534D514B ∧
      t.mtr.noref = false ∧ t.mtr.ovld = false ∧
      Only [.regs, .mtr] s t) ∧
  (∀ (s : State) (m : Master),
    s.sys.inReset = false ∧ s.mastersRun m = true →
    s.mayClear m = true ∨ m = .mtr →
    s.mtr.jobs ≠ [] →
    Answers (.snapshotSign m) s fun t =>
      t.get F.MTR_SNAP_STAT_SIGN_REF = 1 ∧
      OnlyRegs [R.MTR_SNAP_STAT] s t ∧
      Only [.regs] s t) ∧
  (∀ (s : State),
    s.sys.inReset = false →
    s.mtr.jobs = [.record false] →
    Answers .signatureComplete s fun t =>
      t.mtr.jobs = [] ∧
      t.get F.MTR_SNAP_STAT_SIG_DONE = 1 ∧ t.get F.MTR_SNAP_STAT_SIG_BUSY = 0 ∧
      (∀ i : Fin 16, t.rd (R.MTR_SIGREC (144 + i.val)) = BitVec.ofNat 32 (leAt (sm2Sign idPriv meterId (s.sigRecord.take 0x240) (scalarOf (Config.freeScalar s.free))) (4 * i.val) 4)) ∧
      t.free = s.free + 1 ∧
      OnlyRegs (R.MTR_SNAP_STAT :: (List.range 16).map fun i => R.MTR_SIGREC (144 + i)) s t ∧
      Only [.regs, .mtr, .free] s t) ∧
  (∀ (s u : State),
    s.sys.inReset = false →
    s.mtr.jobs = [.record false] →
    u = s.runUp (s.mtr.jobAt + signTicks) →
    Answers .signerFailure s fun t =>
      t.mtr.jobs = [] ∧
      t.get F.MTR_SNAP_STAT_SIG_BUSY = 0 ∧
      t.get F.MTR_SNAP_STAT_SIG_DONE = s.get F.MTR_SNAP_STAT_SIG_DONE ∧
      Raised u t 0x0C04 1 ∧
      FaultFrame [R.MTR_SNAP_STAT] u t ∧
      Only [.regs, .clk, .tim, .pwm, .gd, .flt, .mtr, .out] u t) ∧
  (∀ (s : State),
    s.sys.inReset = false →
    s.get F.MTR_AUTO_PERIOD ≠ 0 ∧ s.vault.sec.toNat % s.get F.MTR_AUTO_PERIOD = 0 ∧ s.mtr.autoSec ≠ some s.vault.sec.toNat →
    s.mtr.jobs = [] ∧ AccAgree s →
    Answers .autoSnapshot s fun t =>
      t.mtr.jobs = [.record true] ∧ t.mtr.autoSec = some s.vault.sec.toNat ∧
      t.rd R.MTR_SNP_SEQ = s.rd R.MTR_SNP_SEQ + 1 ∧
      t.get F.MTR_SNAP_STAT_SIG_BUSY = 1 ∧
      Only [.regs, .mtr] s t) ∧
  (∀ (s : State),
    s.sys.inReset = false →
    s.get F.MTR_AUTO_PERIOD ≠ 0 ∧ s.vault.sec.toNat % s.get F.MTR_AUTO_PERIOD = 0 ∧ s.mtr.autoSec ≠ some s.vault.sec.toNat →
    s.mtr.jobs ≠ [] →
    Answers .autoSnapshot s fun t =>
      t.mtr.jobs = s.mtr.jobs ++ [.record true] ∧ t.get F.MTR_SNAP_STAT_AUTO_DEF = 1 ∧
      OnlyRegs [R.MTR_SNAP_STAT] s t ∧
      Only [.regs, .mtr] s t)

/-- At the end of its listen window, at u, a HEAD of a duplex station in START that has heard no PRIMARY becomes
PRIMARY with the next tier, obeys itself, is admitted and LOCKED with the host as source, and raises FC0; a SOLO HEAD
leads likewise and stays SOLO; one that has heard a PRIMARY does not claim, and one whose position another HEAD holds
is REFUSED and OUT (that reading is log entry 48's). A waiting HB of a PRIMARY with a later tier is taken by a member,
which then obeys its sender, and marks the ring it came by in the jury; with no later tier the member's registers
stay. It demotes a PRIMARY to SYNC with FC1, and takes a HEAD in START to SYNC. (R112, R397, R398, R399, R400, R401,
R403) -/
def Obligations.RolesAndHeartbeats : Prop :=
  (∀ (s u : State),
    s.sys.inReset = false ∧ s.raises = [] →
    s.isHead = true ∧ s.flag F.SYS_ROLE_SINGLE = false ∧ s.dpx.listening = true ∧ s.dpx.heard = false ∧ s.dpx.twin = false →
    s.dpxState = Dpx.start →
    u = s.runUp (s.img.pbAt + msTicks s.listenMs) →
    Answers .listenWindowEnd s fun t =>
      t.dpxState = Dpx.primary ∧ t.dpx.listening = false ∧ t.dpx.hasTier = true ∧
      (t.get F.DPX_STAT_TIER = (if s.dpx.hasTier then (s.tier + 1) % 256 else 1)) ∧
      t.get F.DPX_STAT_PRIM = s.pos ∧ t.get F.IMG_ADM_STAT_ADM = 2 ∧
      t.srcHost = true ∧ t.servo = Servo.locked ∧
      (s.safEn = false → Raised u t 0x0D01 0) ∧
      Only [.regs, .clk, .flash, .fuse, .img, .tim, .pwm, .gd, .dpx, .flt, .saf, .out, .free, .sup] u t) ∧
  (∀ (s : State),
    s.sys.inReset = false →
    s.isHead = true ∧ s.flag F.SYS_ROLE_SINGLE = true ∧ s.dpx.listening = true ∧ s.dpx.heard = false ∧ s.dpx.twin = false →
    s.dpxState = Dpx.solo →
    Answers .listenWindowEnd s fun t =>
      t.dpxState = Dpx.solo ∧ t.isPrimary = true ∧ t.get F.DPX_STAT_PRIM = s.pos ∧
      (t.get F.DPX_STAT_TIER = (if s.dpx.hasTier then (s.tier + 1) % 256 else 1)) ∧
      t.get F.IMG_ADM_STAT_ADM = 2 ∧ t.srcHost = true ∧ t.servo = Servo.locked) ∧
  (∀ (s : State),
    s.sys.inReset = false →
    s.isHead = true ∧ s.dpx.listening = true ∧ s.dpx.heard = true →
    Answers .listenWindowEnd s fun t =>
      t.dpx.listening = false ∧ t.dpxState = s.dpxState) ∧
  (∀ (s : State),
    s.sys.inReset = false →
    s.isHead = true ∧ s.dpx.listening = true ∧ s.dpx.heard = false ∧ s.dpx.twin = true →
    s.dpxState = Dpx.start →
    Answers .listenWindowEnd s fun t =>
      t.dpx.listening = false ∧ t.dpxState = Dpx.out ∧ t.stage = Stage.refused ∧
      t.get F.SYS_ROLE_BIND = 4 ∧ t.get F.IMG_ADM_STAT_REASON = 1) ∧
  (∀ (s : State) (a : Arrival) (cw : List Byte),
    s.sys.inReset = false →
    s.isMember = true ∧ s.dpx.hasTier = true →
    s.rng.rx.find? (Arrival.is Ty.hb) = some a ∧ a.cw = cw →
    cwValid Ty.hb cw a.uncorr = true ∧ byteAt cw 1 ≤ 1 ∧ byteAt cw 1 ≠ s.pos →
    byteAt cw 8 = Dpx.primary ∧ tierLater (byteAt cw 9) s.tier = true →
    Answers .hbReceived s fun t =>
      t.get F.DPX_MBR_STAT_TIER = byteAt cw 9 ∧ t.get F.DPX_MBR_STAT_OBEY = byteAt cw 1 ∧
      bit t.dpx.juryNow (b2n a.y) = true ∧
      t.rng.rx = s.rng.rx.erase a ∧
      OnlyRegs [R.DPX_MBR_STAT, R.TIM_UPSTREAM] s t ∧
      Only [.regs, .clk, .rng, .tim, .dpx] s t) ∧
  (∀ (s : State) (a : Arrival) (cw : List Byte),
    s.sys.inReset = false →
    s.isMember = true ∧ s.dpx.hasTier = true →
    s.rng.rx.find? (Arrival.is Ty.hb) = some a ∧ a.cw = cw →
    cwValid Ty.hb cw a.uncorr = true ∧ byteAt cw 1 ≤ 1 ∧ byteAt cw 1 ≠ s.pos →
    tierLater (byteAt cw 9) s.tier = false →
    Answers .hbReceived s fun t =>
      t.regs = s.regs ∧
      Only [.clk, .rng, .dpx] s t) ∧
  (∀ (s : State) (a : Arrival) (cw : List Byte),
    s.sys.inReset = false ∧ s.raises = [] →
    s.isHead = true ∧ s.flag F.SYS_ROLE_SINGLE = false ∧ s.dpxState = Dpx.primary ∧ s.dpx.hasTier = true →
    s.rng.rx.find? (Arrival.is Ty.hb) = some a ∧ a.cw = cw →
    cwValid Ty.hb cw a.uncorr = true ∧ byteAt cw 1 ≤ 1 ∧ byteAt cw 1 ≠ s.pos →
    byteAt cw 8 = Dpx.primary ∧ tierLater (byteAt cw 9) s.tier = true →
    s.get F.DPX_SWAP_STAT_STATE ≠ 1 →
    Answers .hbReceived s fun t =>
      t.dpxState = Dpx.sync ∧ t.get F.DPX_STAT_TIER = byteAt cw 9 ∧ t.get F.DPX_STAT_PRIM = byteAt cw 1 ∧
      t.srcHost = false ∧
      Raised s t 0x0D03 1) ∧
  (∀ (s : State) (a : Arrival) (cw : List Byte),
    s.sys.inReset = false →
    s.isHead = true ∧ s.flag F.SYS_ROLE_SINGLE = false ∧ s.dpxState = Dpx.start →
    s.rng.rx.find? (Arrival.is Ty.hb) = some a ∧ a.cw = cw →
    cwValid Ty.hb cw a.uncorr = true ∧ byteAt cw 1 ≤ 1 ∧ byteAt cw 1 ≠ s.pos →
    byteAt cw 8 = Dpx.primary →
    Answers .hbReceived s fun t =>
      t.dpxState = Dpx.sync ∧ t.dpx.heard = true ∧ t.get F.IMG_ADM_STAT_ADM = 1 ∧
      t.dpx.otherRole = Dpx.primary ∧ t.dpx.otherFlags = leAt cw 10 2 ∧
      t.flt = s.flt)

/-- Once a cycle, its commits done, the primary of a duplex station sends its Glaze to an admitted standby in
codewords of 176 bytes over lane G. A HEAD in SYNC or STANDBY gathers each chunk once. Every report, at u, shows the
32 words of its period, counts and clears the period, and sets PROVEN after enough clean ones. A failed engine check
counts and raises FC1. A swap for a boundary at least 64 ahead with an eligible, proven standby heard of late is
pending; an earlier one is refused with ERR 1; a cancel ends it with ERR 5 and FC0. CNT_CLR clears the HEAD's
counters. 1 s without an eligible standby, at u, raises FC1, once for each such time; with one nothing happens. A
promoted HEAD reports its failover to each session that wants it. (R408, R409, R410, R412, R415, R416, R420, R422,
R423, R425, R426, R538) -/
def Obligations.GlazeHealthAndSwap : Prop :=
  (∀ (s : State),
    s.sys.inReset = false →
    s.duplex = true ∧ s.dpxState = Dpx.primary ∧ (s.member s.otherHead).adm = 2 ∧ s.flag (F.LNK_PORTx_STAT_UP 4) = true →
    s.loopsDone = true ∧ s.dpx.glzSent ≠ some s.scn →
    Answers .glazeSend s fun t =>
      (t.out = (((List.range (cutBytes 176 (s.glazeLen + 1) s.glazeBytes).length).zip (cutBytes 176 (s.glazeLen + 1) s.glazeBytes)).foldl (fun v c => v.sendLine 4 0 (codeword { typ := tyGlaze, src := s.pos, dst := s.otherHead, tag := s.scn.toNat % 256, route := 0, mark := 0, count := c.2.length } (leBytes 2 c.1 ++ c.2))) s).out) ∧
      t.dpx = { s.dpx with glzSent := some s.scn } ∧
      Only [.dpx, .out, .free] s t) ∧
  (∀ (s : State) (a : Arrival) (cw : List Byte),
    s.sys.inReset = false →
    s.duplex = true ∧ (s.dpxState = Dpx.sync ∨ s.dpxState = Dpx.standby) →
    s.rng.rx.find? (fun a => a.port == 4) = some a ∧ a.cw = cw →
    cwValid tyGlaze cw a.uncorr = true ∧ byteAt cw 1 = s.otherHead ∧ byteAt cw 2 = s.pos →
    byteAt cw 3 = s.scn.toNat % 256 →
    s.dpx.glazeScn = s.scn ∧ 1 ≤ s.dpx.glazeChunks ∧ s.dpx.glazeChunks + 1 < s.glazeChunkCount →
    leAt cw 8 2 < s.glazeChunkCount ∧ Bank.at [] s.dpx.glazeRx (leAt cw 8 2) = [] →
    Answers .glazeCodewordReceived s fun t =>
      Bank.at [] t.dpx.glazeRx (leAt cw 8 2) = (cw.drop 10).take (Nat.min 176 (byteAt cw 6)) ∧
      t.dpx.glazeChunks = s.dpx.glazeChunks + 1 ∧ t.dpx.glazeDone = s.dpx.glazeDone ∧
      Only [.dpx, .rng] s t) ∧
  (∀ (s u : State),
    s.sys.inReset = false →
    u = s.runToTick s.dpx.healthAt →
    Answers .healthReport s fun t =>
      (∀ i : Fin 32, t.rd (R.DPX_HEALTH i) = u.healthWords.getD i 0) ∧
      t.dpx.reportNo = s.dpx.reportNo + 1 ∧
      t.dpx.perCmp = 0 ∧ t.dpx.perSkip = 0 ∧ t.dpx.perMiss = 0 ∧ t.dpx.perMm = 0 ∧ t.dpx.selfRuns = 0 ∧ t.gd.passed = 0 ∧ t.gd.failed = 0 ∧
      (u.isStandby = true → 1 ≤ s.dpx.perCmp → s.dpx.perMm = 0 → s.dpx.perMiss = 0 → u.get F.DPX_CFG_PROOF_CNT ≤ s.dpx.cleanReports + 1 → t.flag F.DPX_STAT_PROVEN = true) ∧
      Only [.regs, .clk, .rng, .tim, .pwm, .gd, .dpx, .flt, .sup, .out] u t) ∧
  (∀ (s : State) (ok : Bool),
    s.sys.inReset = false →
    Answers (.engineSelfCheck ok) s fun t =>
      t.dpx.selfRuns = s.dpx.selfRuns + 1 ∧ t.dpx.selfFails = s.dpx.selfFails + b2n (!ok) ∧
      (ok = false → Raised s t 0x0D07 1) ∧
      (ok = true → t.regs = s.regs ∧ t.flt = s.flt) ∧
      FaultFrame [] s t ∧
      Only [.regs, .clk, .tim, .pwm, .gd, .dpx, .flt, .out] s t) ∧
  (∀ (s : State) (m : Master),
    s.sys.inReset = false ∧ s.mastersRun m = true →
    (s.mayClear m = true ∨ m = .dpx) ∧ s.dpxState = Dpx.primary →
    scnAtOrAfter (s.rd R.DPX_SWAP_SCN) (s.scn + 64) = true →
    s.swapNamed = false ∧ s.otherNow % 4 = 3 ∧ s.dpx.otherRole = Dpx.standby →
    Answers (.swapRequest m) s fun t =>
      t.get F.DPX_SWAP_STAT_STATE = 1 ∧ t.get F.DPX_SWAP_STAT_ERR = 0 ∧ t.get F.DPX_STAT_SWAP_PEND = 1 ∧
      t.dpxState = s.dpxState ∧
      OnlyRegs [R.DPX_SWAP_STAT, R.DPX_STAT] s t ∧
      Only [.regs] s t) ∧
  (∀ (s : State) (m : Master),
    s.sys.inReset = false ∧ s.mastersRun m = true →
    (s.mayClear m = true ∨ m = .dpx) ∧ s.dpxState = Dpx.primary →
    scnAtOrAfter (s.rd R.DPX_SWAP_SCN) (s.scn + 64) = false →
    s.swapNamed = false →
    Answers (.swapRequest m) s fun t =>
      t.get F.DPX_SWAP_STAT_STATE = 3 ∧ t.get F.DPX_SWAP_STAT_ERR = 1 ∧ t.get F.DPX_STAT_SWAP_PEND = 0 ∧
      OnlyRegs [R.DPX_SWAP_STAT, R.DPX_STAT] s t ∧
      Only [.regs] s t) ∧
  (∀ (s : State) (m : Master),
    s.sys.inReset = false ∧ s.raises = [] ∧ s.mastersRun m = true →
    (s.mayClear m = true ∨ m = .dpx) ∧ s.swapNamed = true →
    Answers (.dpxSwapCancel m) s fun t =>
      t.get F.DPX_SWAP_STAT_STATE = 3 ∧ t.get F.DPX_SWAP_STAT_ERR = 5 ∧
      Raised s t 0x0D09 0 ∧
      FaultFrame [R.DPX_SWAP_STAT] s t ∧
      Only [.regs, .clk, .tim, .pwm, .gd, .flt, .out] s t) ∧
  (∀ (s : State),
    s.sys.inReset = false →
    s.isHead = true →
    Answers .dpxCntClr s fun t =>
      t.rd R.DPX_CNT_CMP = 0 ∧ t.rd R.DPX_CNT_SKIP = 0 ∧ t.rd R.DPX_CNT_GMISS = 0 ∧ t.rd R.DPX_CNT_MM = 0 ∧ t.rd R.DPX_MM_OFS = 0xFFFFFFFF ∧
      OnlyRegs [R.DPX_CNT_CMP, R.DPX_CNT_SKIP, R.DPX_CNT_GMISS, R.DPX_CNT_MM, R.DPX_MM_OFS] s t ∧
      Only [.regs] s t) ∧
  (∀ (s u : State),
    s.sys.inReset = false →
    s.duplex = true ∧ s.dpxState = Dpx.primary ∧ s.standbyFit = false ∧ s.dpx.noElig = false →
    u = s.runUp (s.dpx.eligAt + msTicks 1000) →
    Answers .noEligibleStandby s fun t =>
      Raised u t 0x0D08 1 ∧
      t.dpx = { u.dpx with noElig := true } ∧
      FaultFrame [] u t ∧
      Only [.regs, .clk, .tim, .pwm, .gd, .dpx, .flt, .out] u t) ∧
  (∀ (s : State),
    s.standbyFit = true ∨ s.dpx.noElig = true →
    Answers .noEligibleStandby s fun t =>
      t = s) ∧
  (∀ (s : State) (got : LedgerReads) (n : Fin 4),
    s.sys.inReset = false →
    s.dpxState = Dpx.primary ∧ s.isHead = true ∧ s.get F.DPX_FO_STAT_CAUSE = 2 →
    s.supRuns = true →
    (∀ e : Fin 64, s.ledDist e = false) →
    s.sessOpen n = true ∧ (s.sess n).sub.getLsbD 6 = true ∧ (s.sess n).queue.length < 256 →
    Answers (.failoverLedgerRead got) s fun t =>
      t.rd R.SUP_RSEQ = s.rd R.SUP_RSEQ + 1 ∧
      ((t.sess n).queue.getLast?.map fun r => (r.rseq, r.kind, r.prio)) = some (s.rd R.SUP_RSEQ + 1, 6, 0) ∧
      t.rd R.DPX_FO_SCN = s.rd R.DPX_FO_SCN)

/-- Each scheduled event below first runs the node's clocks to its time; `u` is the state there. A gap puts its test
source off and names its end and the next gap. At the end of a gap every enabled, checked input whose last sample of
that source's channel read high has a latched fault, the source is masked for 0.1 ms more, and its current limit is
forgotten. A source that is on and reaches its limit raises FC1. A sample shows its levels; an enabled input without a
fault enters demand when an unmasked channel has read low for its filter time, and leaves it when every unmasked
channel has read high for it; a run of differing levels as long as DISC latches a fault. While VAUX_UV is set every
level reads low. VAUX24 too low sets VAUX_UV, switches both outputs off and raises FC1; its recovery clears VAUX_UV. A
local evaluation names its demands from the DEMAND inputs; one whose channels disagree inhibits the pulses and raises
FC3 once. (R427, R429, R430, R431, R432, R433, R435, R444, R445) -/
def Obligations.SafeInputsAndTests : Prop :=
  (∀ (s u : State) (x : Fin 2),
    s.sys.inReset = false →
    s.safEn = true ∧ s.flag F.SAF_TP_CFG_EN = true ∧ (if x = 0 then s.saf.gapA else s.saf.gapB) = false →
    u = s.runUp (if x = 0 then s.saf.dueA else s.saf.dueB) →
    Answers (.testGapStart x) s fun t =>
      ((if x = 0 then t.saf.gapA else t.saf.gapB) = true) ∧
      ((if x = 0 then t.saf.atA else t.saf.atB) = u.sys.up) ∧
      ((if x = 0 then t.saf.dueA else t.saf.dueB) = nextOf (if x = 0 then u.saf.dueA else u.saf.dueB) u.tpPer u.sys.up) ∧
      (if x = 0 then t.saf.gapB = u.saf.gapB ∧ t.saf.dueB = u.saf.dueB else t.saf.gapA = u.saf.gapA ∧ t.saf.dueA = u.saf.dueA) ∧
      Only [.saf] u t) ∧
  (∀ (s u : State) (x : Fin 2),
    s.sys.inReset = false →
    (if x = 0 then s.saf.gapA else s.saf.gapB) = true →
    u = s.runUp ((if x = 0 then s.saf.atA else s.saf.atB) + decTicks * s.get F.SAF_TP_CFG_TP_GAP) →
    Answers (.testGapEnd x) s fun t =>
      ((if x = 0 then t.saf.gapA else t.saf.gapB) = false) ∧
      ((if x = 0 then t.saf.maskA else t.saf.maskB) = u.sys.up + decTicks) ∧
      bit t.saf.limit x = false ∧
      (∀ n : Fin 8, u.siEn n = true → u.flag (F.SAF_SIn_CFG_TP_CHK n) = true → (if x = 0 then (u.safIn n).lastA else (u.safIn n).lastB) = true → (t.safIn n).fault = true) ∧
      ((∀ n : Fin 8, u.siEn n = true → u.flag (F.SAF_SIn_CFG_TP_CHK n) = true → (if x = 0 then (u.safIn n).lastA else (u.safIn n).lastB) = false) → t.rd R.SAF_CNT_TEST = u.rd R.SAF_CNT_TEST ∧ t.flt = u.flt) ∧
      Only [.regs, .clk, .tim, .pwm, .gd, .flt, .saf, .out] u t) ∧
  (∀ (s : State) (x : Fin 2),
    s.sys.inReset = false →
    s.sourceOn x = true →
    Answers (.testSourceLimit x) s fun t =>
      bit t.saf.limit x = true ∧
      Raised s t 0x0E02 1 ∧
      FaultFrame [] s t ∧
      Only [.regs, .clk, .tim, .pwm, .gd, .flt, .saf, .out] s t) ∧
  (∀ (s u : State) (a b : BitVec 8) (n : Fin 8) (ma mb low : Bool),
    s.sys.inReset = false →
    s.safEn = true ∧ s.flag F.SAF_STAT_VAUX_UV = false →
    u = s.runUp s.saf.smpAt →
    u.siEn n = true ∧ 0 < u.get (F.SAF_SIn_CFG_FILT n) ∧ (u.safIn n).stage = 0 ∧ (u.safIn n).disc + 1 < 1000 * u.get (F.SAF_SIn_CFG_DISC n) →
    ma = (u.flag (F.SAF_SIn_CFG_TP_CHK n) && (u.saf.gapA || Nat.blt u.sys.up u.saf.maskA)) →
    mb = (u.flag (F.SAF_SIn_CFG_TP_CHK n) && (u.saf.gapB || Nat.blt u.sys.up u.saf.maskB)) →
    (ma && mb) = false ∧ low = (!ma && !bit a.toNat n || !mb && !bit b.toNat n) →
    Answers (.safeInputSample a b) s fun t =>
      t.get F.SAF_IN_STAT_A = a.toNat ∧ t.get F.SAF_IN_STAT_B = b.toNat ∧
      ((t.safIn n).dem = (if low then (u.safIn n).dem || Nat.ble (10 * u.get (F.SAF_SIn_CFG_FILT n)) ((u.safIn n).lo + 1) else (u.safIn n).dem && Nat.blt ((u.safIn n).hi + 1) (10 * u.get (F.SAF_SIn_CFG_FILT n)))) ∧
      ((t.safIn n).disc = (if ma || mb then (u.safIn n).disc else if bit a.toNat n != bit b.toNat n then (u.safIn n).disc + 1 else 0)) ∧
      (t.safIn n).lastA = bit a.toNat n ∧ (t.safIn n).lastB = bit b.toNat n ∧ (t.safIn n).fault = (u.safIn n).fault ∧
      t.saf.smpAt = nextOf u.saf.smpAt samTicks u.sys.up ∧
      Only [.regs, .clk, .tim, .pwm, .gd, .flt, .saf, .out] u t) ∧
  (∀ (s u : State) (a b : BitVec 8) (n : Fin 8),
    s.sys.inReset = false →
    s.safEn = true ∧ s.flag F.SAF_STAT_VAUX_UV = false →
    u = s.runUp s.saf.smpAt →
    u.siEn n = true ∧ u.flag (F.SAF_SIn_CFG_TP_CHK n) = false →
    bit a.toNat n ≠ bit b.toNat n ∧ (u.safIn n).disc + 1 = 1000 * u.get (F.SAF_SIn_CFG_DISC n) →
    Answers (.safeInputSample a b) s fun t =>
      (t.safIn n).fault = true ∧
      bit (t.get F.SAF_IN_STAT_FAULT) n = true) ∧
  (∀ (s : State) (a b : BitVec 8),
    s.sys.inReset = false →
    s.safEn = true ∧ s.flag F.SAF_STAT_VAUX_UV = true →
    Answers (.safeInputSample a b) s fun t =>
      t.get F.SAF_IN_STAT_A = 0 ∧ t.get F.SAF_IN_STAT_B = 0) ∧
  (∀ (s : State),
    s.sys.inReset = false →
    s.safEn = true ∧ s.flag F.SAF_STAT_VAUX_UV = false →
    Answers .vauxUndervoltage s fun t =>
      t.flag F.SAF_STAT_VAUX_UV = true ∧
      t.flag F.SAF_STAT_SO0_ON = false ∧ t.flag F.SAF_STAT_SO1_ON = false ∧
      Raised s t 0x0E03 1 ∧
      FaultFrame ([R.SAF_STAT] ++ (List.range 6).map R.GD_LEGn_STAT) s t ∧
      Only [.regs, .clk, .tim, .pwm, .gd, .flt, .saf, .out] s t) ∧
  (∀ (s : State),
    s.sys.inReset = false →
    s.flag F.SAF_STAT_VAUX_UV = true →
    Answers .vauxRecover s fun t =>
      t.flag F.SAF_STAT_VAUX_UV = false ∧
      FaultFrame ([R.SAF_STAT] ++ (List.range 6).map R.GD_LEGn_STAT) s t ∧
      Only [.regs, .pwm, .gd, .flt, .saf] s t) ∧
  (∀ (s u : State),
    s.sys.inReset = false →
    s.safEn = true ∧ s.saf.disagree = false →
    u = s.runUp s.saf.evalAt →
    Answers (.localEvaluation false) s fun t =>
      t.saf.disagree = true ∧ t.flag F.SAF_STAT_INH = true ∧
      HasCause t 0x0E07 3 = true ∧
      t.saf.evalAt = nextOf u.saf.evalAt decTicks u.sys.up ∧
      Only [.regs, .clk, .tim, .pwm, .gd, .flt, .saf, .out] u t) ∧
  (∀ (s u : State),
    s.sys.inReset = false →
    s.safEn = true ∧ s.saf.disagree = false →
    u = s.runUp s.saf.evalAt →
    Answers (.localEvaluation true) s fun t =>
      t.saf.locInh = (List.range 8).any (fun n => u.siEn n && u.siType n == 0 && u.safBit n && u.flag (F.SAF_SIn_CFG_LINH n)) ∧
      t.saf.loc0 = (List.range 8).any (fun n => u.siEn n && u.siType n == 0 && u.safBit n && u.flag (F.SAF_SIn_CFG_LSO0 n)) ∧
      t.saf.loc1 = (List.range 8).any (fun n => u.siEn n && u.siType n == 0 && u.safBit n && u.flag (F.SAF_SIn_CFG_LSO1 n)) ∧
      t.flag F.SAF_STAT_LOCAL_DEM = (t.saf.locInh || t.saf.loc0 || t.saf.loc1) ∧
      t.flag F.SAF_STAT_INH = (u.saf.dem &&& u.get F.SAF_ACT_INH_SF != 0 || t.saf.locInh || u.flag F.SAF_STAT_STO_LOSS || u.flag F.SAF_STAT_INIT) ∧
      t.flt.causes = u.flt.causes ∧
      Only [.regs, .clk, .tim, .pwm, .gd, .flt, .saf, .out] u t)

/-- A dark test, at the instant its source's gap begins, opens a channel of every output that is on, and closes it
again at its end. A readback, or EDM_T after a switching an EDM input, that contradicts its output latches SOFLT,
switches both outputs off and raises FC3; one that agrees does not. SAF_CMD clears the three counters and nothing
else. At T_SAFE an ACTIVE HEAD demands the enabled functions that inputs demand, with those it latches; without
latching functions exactly these; a demanded latching function is latched. A first SAFE copy opens the sender's
window; an equal, valid one of the other ring within DW closes it with the OR of both; a window that reaches DW with
one copy uses it and counts it. Either close puts the station demand into force. Without any contributing HEAD,
STO_LOSS switches both outputs off, inhibits the pulses and raises FC3. (R436, R437, R441, R442, R443, R445, R447,
R448, R452, R453) -/
def Obligations.SafeOutputsAndStation : Prop :=
  (∀ (s : State) (c : Fin 2),
    s.sys.inReset = false →
    s.safEn = true ∧ (if c = 0 then s.saf.gapA = true ∧ s.saf.atA = s.sys.up else s.saf.gapB = true ∧ s.saf.atB = s.sys.up) →
    Answers (.darkTest c true) s fun t =>
      (∀ x : Fin 2, s.flag (soOnFld x) = true → bit t.saf.so (2 * x.val + c.val) = false ∧ bit t.saf.dark (2 * x.val + c.val) = true) ∧
      Only [.saf] s t) ∧
  (∀ (s : State) (c : Fin 2),
    s.sys.inReset = false →
    s.safEn = true →
    Answers (.darkTest c false) s fun t =>
      (∀ x : Fin 2, bit s.saf.dark (2 * x.val + c.val) = true → bit t.saf.so (2 * x.val + c.val) = s.flag (soOnFld x) ∧ bit t.saf.dark (2 * x.val + c.val) = false) ∧
      Only [.saf] s t) ∧
  (∀ (s : State) (x c : Fin 2) (below5 aboveV : Bool),
    s.sys.inReset = false →
    s.safEn = true ∧ s.flag F.SAF_STAT_SOFLT = false →
    (if bit s.saf.so (2 * x.val + c.val) then aboveV else below5) = false →
    Answers (.soReadback x c below5 aboveV) s fun t =>
      t.flag F.SAF_STAT_SOFLT = true ∧ t.flag F.SAF_STAT_SO0_ON = false ∧ t.flag F.SAF_STAT_SO1_ON = false ∧
      HasCause t 0x0E08 3 = true ∧
      Only [.regs, .clk, .tim, .pwm, .gd, .flt, .saf, .out] s t) ∧
  (∀ (s : State) (x c : Fin 2) (below5 aboveV : Bool),
    s.sys.inReset = false →
    (if bit s.saf.so (2 * x.val + c.val) then aboveV else below5) = true →
    Answers (.soReadback x c below5 aboveV) s fun t =>
      t = s) ∧
  (∀ (s u : State) (x : Fin 2) (at_ : Nat),
    s.sys.inReset = false →
    (if x = 0 then s.saf.edm0 else s.saf.edm1) = some at_ ∧ u = s.runUp at_ →
    u.safEn = true ∧ u.flag F.SAF_STAT_SOFLT = false →
    (if x = 0 then u.flag F.SAF_SO_CFG_EDM0_EN else u.flag F.SAF_SO_CFG_EDM1_EN) = true →
    (u.safIn (if x = 0 then u.get F.SAF_SO_CFG_EDM0_IN else u.get F.SAF_SO_CFG_EDM1_IN)).dem = !u.flag (soOnFld x) →
    Answers (.edmCheck x) s fun t =>
      t.flag F.SAF_STAT_SOFLT = true ∧ t.flag F.SAF_STAT_SO0_ON = false ∧ t.flag F.SAF_STAT_SO1_ON = false ∧
      HasCause t 0x0E08 3 = true ∧
      Only [.regs, .clk, .tim, .pwm, .gd, .flt, .saf, .out] u t) ∧
  (∀ (s u : State) (x : Fin 2) (at_ : Nat),
    s.sys.inReset = false →
    (if x = 0 then s.saf.edm0 else s.saf.edm1) = some at_ ∧ u = s.runUp at_ →
    (u.safIn (if x = 0 then u.get F.SAF_SO_CFG_EDM0_IN else u.get F.SAF_SO_CFG_EDM1_IN)).dem = u.flag (soOnFld x) →
    Answers (.edmCheck x) s fun t =>
      ((if x = 0 then t.saf.edm0 else t.saf.edm1) = none) ∧
      Only [.saf] u t) ∧
  (∀ (s : State),
    s.sys.inReset = false →
    Answers .safCntClr s fun t =>
      t.rd R.SAF_CNT_DISC = 0 ∧ t.rd R.SAF_CNT_SINGLE = 0 ∧ t.rd R.SAF_CNT_TEST = 0 ∧
      OnlyRegs [R.SAF_CNT_DISC, R.SAF_CNT_SINGLE, R.SAF_CNT_TEST] s t ∧
      Only [.regs] s t) ∧
  (∀ (s u : State) (d : List (Fin 4 × List Byte)),
    s.sys.inReset = false →
    s.safEn = true ∧ s.isHead = true ∧ s.get F.SAF_STAT_HSTATE = 2 ∧ s.inCycleS = false ∧ s.saf.decided = false →
    u = s.runIn (s.ringOfs F.RNG_TIM_SAFE_PB_T F.RNG_TIM_SAFE_T) →
    u.latchMask = 0 →
    Answers (.safetyDecision d) s fun t =>
      ((t.safHead s.pos).res.map (·.w0)) = some (BitVec.ofNat 32 (u.inputDemand &&& maskOf 16 fun k => u.flag (F.SAF_SFk_CFG_EN k))) ∧
      t.saf.latched = 0 ∧ t.saf.decided = true ∧
      t.saf.dem = t.stationDemand ∧
      Only [.regs, .clk, .rng, .tim, .pwm, .gd, .flt, .saf, .out, .free] u t) ∧
  (∀ (s u : State) (d : List (Fin 4 × List Byte)) (k : Fin 16),
    s.sys.inReset = false →
    s.safEn = true ∧ s.isHead = true ∧ s.get F.SAF_STAT_HSTATE = 2 ∧ s.inCycleS = false ∧ s.saf.decided = false →
    u = s.runIn (s.ringOfs F.RNG_TIM_SAFE_PB_T F.RNG_TIM_SAFE_T) →
    u.flag (F.SAF_SFk_CFG_EN k) = true ∧ u.flag (F.SAF_SFk_CFG_LATCH k) = true ∧ bit u.inputDemand k = true →
    Answers (.safetyDecision d) s fun t =>
      bit t.saf.latched k = true ∧
      ((t.safHead s.pos).res.map fun r => bit r.w0.toNat k.val) = some true) ∧
  (∀ (s : State) (a : Arrival) (cw : List Byte) (it : RawItem),
    s.sys.inReset = false ∧ s.raises = [] →
    s.rng.rx.find? (Arrival.is Ty.safe) = some a ∧ a.cw = cw →
    s.safEn = true ∧ cwValid Ty.safe cw a.uncorr = true →
    (hdrOf cw).src < 2 ∧ (hdrOf cw).src ≠ s.pos ∧ leAt cw 8 2 = 0xFF80 →
    itemsOf cw = [it] ∧ it.idx = 0xFF80 ∧ sealOk it (hdrOf cw).src (s.scn.toNat % 256) = true →
    (s.safHead (hdrOf cw).src).shut = false ∧ (s.safHead (hdrOf cw).src).win = none →
    Answers .safeReceived s fun t =>
      (t.safHead (hdrOf cw).src).win = some (a.ring, { w0 := it.value, w1 := none, w2 := none }) ∧
      (t.safHead (hdrOf cw).src).winAt = s.lnow ∧ (t.safHead (hdrOf cw).src).got = true ∧
      t.rng = (s.tookRx a).rng ∧
      Only [.rng, .saf] s t) ∧
  (∀ (s : State) (a : Arrival) (cw : List Byte) (it : RawItem) (r : Ring) (c0 : SafeCopy),
    s.sys.inReset = false ∧ s.raises = [] ∧ s.isHead = false →
    s.rng.rx.find? (Arrival.is Ty.safe) = some a ∧ a.cw = cw →
    s.safEn = true ∧ cwValid Ty.safe cw a.uncorr = true →
    (hdrOf cw).src < 2 ∧ (hdrOf cw).src ≠ s.pos ∧ leAt cw 8 2 = 0xFF80 →
    itemsOf cw = [it] ∧ it.idx = 0xFF80 ∧ sealOk it (hdrOf cw).src (s.scn.toNat % 256) = true →
    (s.safHead (hdrOf cw).src).shut = false ∧ (s.safHead (hdrOf cw).src).win = some (r, c0) ∧ r ≠ a.ring →
    s.lnow < s.winEnds (hdrOf cw).src →
    Answers .safeReceived s fun t =>
      (t.safHead (hdrOf cw).src).win = none ∧
      ((t.safHead (hdrOf cw).src).res.map (·.w0)) = some (c0.w0 ||| it.value) ∧
      (t.get (if (hdrOf cw).src = 0 then F.SAF_DEMAND_H0 else F.SAF_DEMAND_H1) = (c0.w0 ||| it.value).toNat % 65536) ∧
      (c0.w0 ≠ it.value → t.num R.SAF_CNT_DISC ≠ 0) ∧
      t.rd R.SAF_CNT_SINGLE = s.rd R.SAF_CNT_SINGLE ∧
      t.saf.dem = t.stationDemand) ∧
  (∀ (s u : State) (h : Fin 2) (r : Ring) (a : SafeCopy),
    s.sys.inReset = false ∧ s.raises = [] →
    (s.safHead h).win = some (r, a) ∧ u = s.runToTick (s.winEnds h) →
    u.isHead = false →
    Answers (.discrepancyWindowClose h) s fun t =>
      (t.safHead h).res = some a ∧ (t.safHead h).win = none ∧ (t.safHead h).miss = 0 ∧
      (t.safHead h).shut = ((u.safHead h).shut || (u.safHead h).winScn == u.scn) ∧
      t.num R.SAF_CNT_SINGLE = satAdd 0xFFFFFFFF (u.num R.SAF_CNT_SINGLE) 1 ∧
      ((u.safHead h).single = false → Raised u t 0x0E05 0) ∧
      t.saf.dem = t.stationDemand ∧
      (t.get (if h = 0 then F.SAF_DEMAND_H0 else F.SAF_DEMAND_H1) = a.w0.toNat % 65536)) ∧
  (∀ (s : State),
    s.sys.inReset = false →
    s.safEn = true ∧ s.saf.seen = true ∧ s.flag F.SAF_STAT_STO_LOSS = false →
    s.contributes 0 = false ∧ s.contributes 1 = false →
    Answers .stoLoss s fun t =>
      t.flag F.SAF_STAT_STO_LOSS = true ∧ t.flag F.SAF_STAT_INH = true ∧
      t.flag F.SAF_STAT_SO0_ON = false ∧ t.flag F.SAF_STAT_SO1_ON = false ∧
      HasCause t 0x0E06 3 = true ∧
      Only [.regs, .clk, .tim, .pwm, .gd, .flt, .saf, .out] s t)

/-- A raise by a pair not in fault, once MERGE_US of any open record is over, takes the next free number: word 0 holds
the number and the code, word 5 the SCN, FLT_NEXT the number after it, and one of FC0 or FC1 shows its class and is
open. One up to FC2 within MERGE_US keeps the higher class, notes the code last merged and counts. A pair still in
fault raises nothing; its return ends its cause. A broken pair raises once; 16 fabric cycles after its return, at u,
its cause ends. At the end of MERGE_US, at u, a record below REP_CLS and FC4 closes. A clear by a master without the
right is a violation; one of a record that is not ACTIVE is refused with ERR 1; one accepted sets CLEARED, and but for
FC3 releases its holds and leaves the causes. FLTI, enabled, raises at its class when it goes to fault or broken, ends
its causes when it goes back, and shows its level. (R454, R455, R460, R461, R462, R472, R476, R482) -/
def Obligations.RecordsOpenMergeAndClose : Prop :=
  (∀ (s v : State) (r : RaiseIn) (n : Nat),
    s.sys.inReset = false →
    s.pairAt r.code.toNat r.inst = none ∧ v = s.mergeEnd →
    v.flt.openRec = none ∧ v.nextRec = some n →
    r.cls ≤ 5 →
    Answers (.faultRaise r false) s fun t =>
      t.flt.openRec = some n ∧
      t.get (F.FLT_RECr_W0_NUM (recIdx n)) = n % 65536 ∧ t.get (F.FLT_RECr_W0_CODE (recIdx n)) = r.code.toNat ∧
      (r.cls ≤ 1 → t.get (F.FLT_RECr_W1_CLASS (recIdx n)) = r.cls ∧ t.flag (F.FLT_RECr_W1_OPEN (recIdx n)) = true) ∧
      (r.cls ≤ 1 → t.flag (F.FLT_RECr_W1_ENDED (recIdx n)) = r.ended ∧ t.flag (F.FLT_RECr_W1_ACTIVE (recIdx n)) = !r.ended) ∧
      t.rd (R.FLT_RECr_Ww (recIdx n) 5) = s.scn ∧
      t.get F.FLT_NEXT_NEXT = (n + 1) % 65536 ∧
      HasCause t r.code.toNat r.cls = true ∧
      FaultFrame [] s t ∧
      Only [.regs, .clk, .tim, .pwm, .gd, .flt, .out] s t) ∧
  (∀ (s : State) (r : RaiseIn) (n : Nat),
    s.sys.inReset = false →
    s.pairAt r.code.toNat r.inst = none →
    s.flt.openRec = some n ∧ s.sys.up < s.flt.openAt + s.mergeTicks →
    r.cls ≤ 2 →
    Answers (.faultRaise r false) s fun t =>
      t.flt.openRec = some n ∧
      t.get (F.FLT_RECr_W1_CLASS (recIdx n)) = max (s.get (F.FLT_RECr_W1_CLASS (recIdx n))) r.cls ∧
      t.get (F.FLT_RECr_W6_LAST (recIdx n)) = r.code.toNat ∧
      t.get (F.FLT_RECr_W6_COUNT (recIdx n)) = satAdd (F.FLT_RECr_W6_COUNT (recIdx n)).max (s.get (F.FLT_RECr_W6_COUNT (recIdx n))) 1 ∧
      t.flt.mergeAt = some (n, s.fab) ∧
      t.get F.FLT_NEXT_NEXT = s.get F.FLT_NEXT_NEXT ∧
      t.rd (R.FLT_RECr_Ww (recIdx n) 0) = s.rd (R.FLT_RECr_Ww (recIdx n) 0) ∧
      HasCause t r.code.toNat r.cls = true) ∧
  (∀ (s : State) (r : RaiseIn) (at_ : Nat),
    s.sys.inReset = false →
    s.pairAt r.code.toNat r.inst = some (r.code.toNat, r.inst, false, at_) →
    Answers (.faultRaise r false) s fun t =>
      t = s) ∧
  (∀ (s : State) (r : RaiseIn) (at_ : Nat),
    s.sys.inReset = false →
    s.pairAt r.code.toNat r.inst = some (r.code.toNat, r.inst, false, at_) →
    Answers (.faultRaise r true) s fun t =>
      (t.flt.causes = s.flt.causes.map (fun c => if c.code = r.code.toNat ∧ c.inst = r.inst ∧ c.tag = 0 then { c with ended := true } else c)) ∧
      t.pairAt r.code.toNat r.inst = none ∧
      t.flt.openRec = s.flt.openRec ∧
      Only [.regs, .pwm, .gd, .flt] s t) ∧
  (∀ (s : State) (r : RaiseIn),
    s.sys.inReset = false →
    s.pairAt r.code.toNat r.inst = none →
    s.mergeEnd.raiseTarget.isSome = true ∨ 2 ≤ r.cls →
    Answers (.brokenPair r false) s fun t =>
      (t.flt.causes.any fun c => c.code == r.code.toNat && c.inst == r.inst && c.tag == 1 && !c.ended) = true ∧
      t.pairAt r.code.toNat r.inst = some (r.code.toNat, r.inst, true, s.sys.up) ∧
      Only [.regs, .clk, .tim, .pwm, .gd, .flt, .out] s t) ∧
  (∀ (s u : State) (r : RaiseIn) (at_ : Nat),
    s.sys.inReset = false →
    s.pairAt r.code.toNat r.inst = some (r.code.toNat, r.inst, true, at_) ∧ u = s.runUp (at_ + pairTicks) →
    Answers (.brokenPair r true) s fun t =>
      (t.flt.causes = u.flt.causes.map (fun c => if c.code = r.code.toNat ∧ c.inst = r.inst ∧ c.tag = 1 then { c with ended := true } else c)) ∧
      t.pairAt r.code.toNat r.inst = none ∧
      t.flt.openRec = u.flt.openRec ∧
      FaultFrame ((List.range 6).map R.PWM_LCHn_STAT) u t ∧
      Only [.regs, .pwm, .gd, .flt] u t) ∧
  (∀ (s u : State) (n : Nat),
    s.sys.inReset = false →
    s.flt.closing = [] ∧ s.flt.openRec = some n ∧ u = s.runUp (s.flt.openAt + s.mergeTicks) →
    u.flt.closing = [] ∧ u.flt.openRec = some n ∧ u.flt.openAt + u.mergeTicks ≤ u.sys.up →
    u.get (F.FLT_RECr_W1_CLASS (recIdx n)) < 4 ∧ u.get (F.FLT_RECr_W1_CLASS (recIdx n)) < u.get F.FLT_CFG_REP_CLS →
    Answers .recordClose s fun t =>
      t.flt.openRec = none ∧ t.flt.closing = [] ∧
      t.flag (F.FLT_RECr_W1_OPEN (recIdx n)) = false ∧
      t.get (F.FLT_RECr_W1_CLASS (recIdx n)) = u.get (F.FLT_RECr_W1_CLASS (recIdx n)) ∧
      t.flt.causes = u.flt.causes ∧ t.flt.holds = u.flt.holds ∧
      OnlyRegs [R.FLT_RECr_Ww (recIdx n) 1] u t ∧
      Only [.regs, .flt] u t) ∧
  (∀ (s : State),
    s.sys.inReset = false →
    s.flt.openRec = none ∧ s.flt.closing = [] →
    Answers .recordClose s fun t =>
      t = s) ∧
  (∀ (s : State) (m : Master) (n : BitVec 16),
    s.sys.inReset = false →
    s.mayClear m = false ∧ s.mastersRun m = true →
    Answers (.recordClear m n) s fun t =>
      t.rd R.SYS_VIOL_CNT = s.rd R.SYS_VIOL_CNT + 1 ∨ s.rd R.SYS_VIOL_CNT = 0xFFFFFFFF ∧
      t.get F.SYS_VIOL_LAST_MASTER = masterId m ∧
      t.flt = s.flt ∧
      OnlyRegs [R.SYS_VIOL_CNT, R.SYS_VIOL_LAST] s t ∧
      Only [.regs] s t) ∧
  (∀ (s : State) (m : Master) (n : BitVec 16),
    s.sys.inReset = false →
    s.mayClear m = true ∧ s.mastersRun m = true →
    s.recActive (recIdx n.toNat) = false ∨ s.get (F.FLT_RECr_W0_NUM (recIdx n.toNat)) ≠ n.toNat →
    Answers (.recordClear m n) s fun t =>
      t.get F.FLT_CLR_STAT_STATE = 3 ∧ t.get F.FLT_CLR_STAT_ERR = 1 ∧
      t.flag F.FLT_STAT_CLR_REF = true ∧
      OnlyRegs [R.FLT_CLR_STAT, R.FLT_STAT] s t ∧
      Only [.regs] s t) ∧
  (∀ (s : State) (m : Master) (n : BitVec 16),
    s.sys.inReset = false →
    s.mayClear m = true ∧ s.mastersRun m = true →
    s.clearErr n.toNat = 0 →
    s.get (F.FLT_RECr_W1_CLASS (recIdx n.toNat)) ≠ 3 →
    Answers (.recordClear m n) s fun t =>
      t.get F.FLT_CLR_STAT_STATE = 2 ∧ t.get F.FLT_CLR_STAT_ERR = 0 ∧
      t.flag (F.FLT_RECr_W1_CLEARED (recIdx n.toNat)) = true ∧ t.recActive (recIdx n.toNat) = false ∧
      t.flt.holds = s.flt.holds.filter (fun h => h.recNo != some n.toNat) ∧
      t.flt.causes = s.flt.causes) ∧
  (∀ (s : State) (m : Master) (n : BitVec 16),
    s.sys.inReset = false →
    s.mayClear m = true ∧ s.mastersRun m = true →
    s.clearErr n.toNat = 0 →
    Answers (.recordClear m n) s fun t =>
      t.get F.FLT_CLR_STAT_STATE = 2 ∧ t.get F.FLT_CLR_STAT_ERR = 0) ∧
  (∀ (s : State) (l : FltiLevel),
    s.sys.inReset = false →
    s.flag F.FLT_FLTI_EN = true →
    l ≠ .ok ∧ s.get F.FLT_STAT_FLTI ≠ (if l = .fault then 1 else 2) →
    Answers (.fltiChange l) s fun t =>
      (t.get F.FLT_STAT_FLTI = (if l = .fault then 1 else 2)) ∧
      (Raised s t (if l = .fault then 0x0201 else 0x0202) (s.get F.FLT_FLTI_CLS)) ∧
      FaultFrame [] s t ∧
      Only [.regs, .clk, .tim, .pwm, .gd, .flt, .out] s t) ∧
  (∀ (s : State),
    s.sys.inReset = false →
    s.flag F.FLT_FLTI_EN = true →
    Answers (.fltiChange .ok) s fun t =>
      t.get F.FLT_STAT_FLTI = 0 ∧
      (t.flt.causes.any fun c => (c.code == 0x0201 || c.code == 0x0202) && c.inst == 0 && c.tag == 0 && !c.ended) = false)

/-- A station clear that meets no cause of refusal sets CLEAR with C 64 cycles ahead; any other is refused with its
ERR and CLR_REF; one by a master without the right is a violation. All items of a new batch in one codeword for a SCN
after the next boundary take the entry that ledSlot names, which is STAGED with its id, SCN and count; later items
join a STAGING entry, which is STAGED with the last; a commit SCN that is not later aborts it with cause 2 and FC1;
with no entry to take, FC1 is raised and no entry changes. The ring agent, from `s0` on, marks an item it has applied;
one that would be a violation or meets a bus error is noted in word 13, if it is the first, with FC1; the entry is
COMMITTED with its last item. A cancel aborts a STAGED entry with cause 3 and FC1, and changes nothing where all its
entries are COMMITTED. (R472, R474, R477, R478, R479, R480, R482, R531) -/
def Obligations.TripsAndBatches : Prop :=
  (∀ (s : State) (m : Master),
    s.sys.inReset = false →
    s.mayClear m = true ∧ s.mastersRun m = true →
    s.stationErr = 0 →
    Answers (.stationClear m) s fun t =>
      t.flag F.FLT_STN_CLEAR = true ∧ t.get F.FLT_STN_C = (s.scn + 64).toNat % 65536 ∧
      t.flt.clearAt = some (s.scn + 64) ∧
      t.get F.FLT_CLR_STAT_STATE = 2 ∧ t.get F.FLT_CLR_STAT_ERR = 0 ∧
      t.flag F.FLT_STN_TRIP = s.flag F.FLT_STN_TRIP ∧
      OnlyRegs [R.FLT_STN, R.FLT_CLR_STAT] s t ∧
      Only [.regs, .flt] s t) ∧
  (∀ (s : State) (m : Master),
    s.sys.inReset = false →
    s.mayClear m = true ∧ s.mastersRun m = true →
    s.stationErr ≠ 0 →
    Answers (.stationClear m) s fun t =>
      t.get F.FLT_CLR_STAT_STATE = 3 ∧ t.flag F.FLT_STAT_CLR_REF = true ∧
      (t.get F.FLT_CLR_STAT_ERR = (if s.isPrimary = false then 4 else if s.flt.quiet < 8 ∨ s.flag F.FLT_STAT_TRIP_REQ = true then 5 else 6)) ∧
      OnlyRegs [R.FLT_STAT, R.FLT_CLR_STAT] s t ∧
      Only [.regs] s t) ∧
  (∀ (s : State) (m : Master),
    s.sys.inReset = false →
    s.mayClear m = false ∧ s.mastersRun m = true →
    Answers (.stationClear m) s fun t =>
      t.flt = s.flt ∧
      t.get F.SYS_VIOL_LAST_MASTER = masterId m ∧
      OnlyRegs [R.SYS_VIOL_CNT, R.SYS_VIOL_LAST] s t) ∧
  (∀ (s : State) (id c : Word) (items : List (Word × Word)) (e : Nat),
    s.sys.inReset = false →
    s.ledSlot = some e ∧ s.ledFind id false = none →
    id ≠ 0 ∧ 1 ≤ items.length ∧ items.length ≤ 256 →
    scnLater c (s.scn + 1) = true →
    Answers (.batchStage id c items.length items) s fun t =>
      t.ledState e = Led.staged ∧ t.ledId e = id ∧ t.rd (R.FLT_LEDe_Ww e 1) = c ∧ t.ledDist e = false ∧
      t.get (F.FLT_LEDe_W2_COUNT e) = items.length ∧ t.get (F.FLT_LEDe_W11_RECVD e) = items.length ∧
      Bank.at [] t.flt.items e = items ∧
      t.rd (R.FLT_LEDe_Ww e 12) = s.scn ∧
      OnlyRegs ((List.range 16).map fun w => R.FLT_LEDe_Ww e w) s t ∧
      t.flt.causes = s.flt.causes ∧ t.flt.openRec = s.flt.openRec) ∧
  (∀ (s : State) (id c : Word) (count : Nat) (items : List (Word × Word)) (e : Fin 16),
    s.sys.inReset = false →
    s.ledState e = Led.staging ∧ s.ledDist e = false ∧ s.ledId e = id ∧ s.rd (R.FLT_LEDe_Ww e 1) = c →
    (∀ x : Fin 64, x.val = e.val ∨ s.ledId x ≠ id) →
    Answers (.batchStage id c count items) s fun t =>
      Bank.at [] t.flt.items e = (Bank.at [] s.flt.items e ++ items).take (s.get (F.FLT_LEDe_W2_COUNT e)) ∧
      t.get (F.FLT_LEDe_W11_RECVD e) = (Bank.at [] t.flt.items e).length ∧
      (t.ledState e = (if (Bank.at [] t.flt.items e).length = s.get (F.FLT_LEDe_W2_COUNT e) then Led.staged else Led.staging)) ∧
      OnlyRegs [R.FLT_LEDe_Ww e 2, R.FLT_LEDe_Ww e 11, R.FLT_LEDe_Ww e 12] s t ∧
      Only [.regs, .flt] s t) ∧
  (∀ (s : State) (id c : Word) (items : List (Word × Word)) (e : Nat),
    s.sys.inReset = false ∧ s.raises = [] →
    s.ledSlot = some e ∧ s.ledFind id false = none →
    id ≠ 0 ∧ 1 ≤ items.length ∧ items.length ≤ 256 →
    scnLater c (s.scn + 1) = false →
    Answers (.batchStage id c items.length items) s fun t =>
      t.ledState e = Led.aborted ∧ t.get (F.FLT_LEDe_W2_CAUSE e) = 2 ∧ t.ledId e = id ∧
      Raised s t 0x0206 1) ∧
  (∀ (s : State) (id c : Word) (count : Nat) (items : List (Word × Word)),
    s.sys.inReset = false ∧ s.raises = [] →
    s.ledSlot = none ∧ s.ledFind id false = none →
    id ≠ 0 ∧ 1 ≤ count ∧ count ≤ 256 →
    Answers (.batchStage id c count items) s fun t =>
      Raised s t 0x0206 1 ∧
      t.flt.items = s.flt.items ∧
      (∀ e : Fin 64, (t.ledState e = s.ledState e) ∧ t.ledId e = s.ledId e) ∧
      FaultFrame [] s t) ∧
  (∀ (s u s0 s1 : State) (p : Applying) (rest : List Applying) (a v : Word),
    s.sys.inReset = false →
    s.flt.applying = p :: rest ∧ p.entry < 16 ∧ p.next < 256 ∧ u = s.runUp s.flt.applyAt →
    s0 = State.when { u with flt := { u.flt with applyAt := u.sys.up + 4 } } (u.ledState p.entry == Led.staged) (·.ledTo p.entry Led.committing 0) →
    (Bank.at [] s0.flt.items p.entry)[p.next]? = some (a, v) →
    s0.writeAccess .ha .ra a.toNat 4 v.toNat .clean = (s1, .ok) →
    Answers .batchItemApply s fun t =>
      bit (t.num (R.FLT_LEDe_Ww p.entry (3 + p.next / 32))) (p.next % 32) = true ∧
      (if s1.get (F.FLT_LEDe_W2_COUNT p.entry) ≤ p.next + 1 then t.ledState p.entry = Led.committed ∧ t.flt.applying = rest else t.ledState p.entry = s1.ledState p.entry ∧ t.flt.applying = { p with next := p.next + 1 } :: rest) ∧
      OnlyRegs [R.FLT_LEDe_Ww p.entry (3 + p.next / 32), R.FLT_LEDe_Ww p.entry 2, R.FLT_LEDe_Ww p.entry 12] s1 t ∧
      Only [.regs, .rng, .flt] s1 t) ∧
  (∀ (s u s0 s1 : State) (p : Applying) (rest : List Applying) (a v : Word),
    s.sys.inReset = false →
    s.flt.applying = p :: rest ∧ p.entry < 16 ∧ p.next < 256 ∧ u = s.runUp s.flt.applyAt →
    s0 = State.when { u with flt := { u.flt with applyAt := u.sys.up + 4 } } (u.ledState p.entry == Led.staged) (·.ledTo p.entry Led.committing 0) →
    (Bank.at [] s0.flt.items p.entry)[p.next]? = some (a, v) →
    s0.writeAccess .ha .ra a.toNat 4 v.toNat .clean = (s1, .viol) →
    Answers .batchItemApply s fun t =>
      (t.num (R.FLT_LEDe_Ww p.entry 13) = (if s0.num (R.FLT_LEDe_Ww p.entry 13) = 0xFFFF then 0x2000 ||| p.next else s0.num (R.FLT_LEDe_Ww p.entry 13))) ∧
      Raised s0 t 0x0207 1 ∧
      (if s0.get (F.FLT_LEDe_W2_COUNT p.entry) ≤ p.next + 1 then t.ledState p.entry = Led.committed ∧ t.flt.applying = rest else t.ledState p.entry = s0.ledState p.entry ∧ t.flt.applying = { p with next := p.next + 1 } :: rest) ∧
      t.rd R.SYS_VIOL_CNT = s0.rd R.SYS_VIOL_CNT ∧
      FaultFrame [] s0 t ∧
      Only [.regs, .clk, .rng, .tim, .pwm, .gd, .flt, .out] s0 t) ∧
  (∀ (s u s0 s1 : State) (p : Applying) (rest : List Applying) (a v : Word),
    s.sys.inReset = false →
    s.flt.applying = p :: rest ∧ p.entry < 16 ∧ p.next < 256 ∧ u = s.runUp s.flt.applyAt →
    s0 = State.when { u with flt := { u.flt with applyAt := u.sys.up + 4 } } (u.ledState p.entry == Led.staged) (·.ledTo p.entry Led.committing 0) →
    (Bank.at [] s0.flt.items p.entry)[p.next]? = some (a, v) →
    s0.writeAccess .ha .ra a.toNat 4 v.toNat .clean = (s1, .err) →
    Answers .batchItemApply s fun t =>
      (t.num (R.FLT_LEDe_Ww p.entry 13) = (if s1.num (R.FLT_LEDe_Ww p.entry 13) = 0xFFFF then 0x1000 ||| p.next else s1.num (R.FLT_LEDe_Ww p.entry 13))) ∧
      Raised s1 t 0x0207 1 ∧
      (if s1.get (F.FLT_LEDe_W2_COUNT p.entry) ≤ p.next + 1 then t.ledState p.entry = Led.committed ∧ t.flt.applying = rest else t.ledState p.entry = s1.ledState p.entry ∧ t.flt.applying = { p with next := p.next + 1 } :: rest) ∧
      FaultFrame [] s1 t) ∧
  (∀ (s : State),
    s.sys.inReset = false →
    s.flt.applying = [] →
    Answers .batchItemApply s fun t =>
      t = s) ∧
  (∀ (s : State) (id : Word) (e : Fin 16),
    s.sys.inReset = false ∧ s.raises = [] →
    s.ledId e = id ∧ s.ledDist e = false ∧ s.ledState e = Led.staged →
    (∀ x : Fin 64, x.val = e.val ∨ s.ledId x ≠ id) →
    Answers (.batchCancel id) s fun t =>
      t.ledState e = Led.aborted ∧ t.get (F.FLT_LEDe_W2_CAUSE e) = 3 ∧
      t.rd (R.FLT_LEDe_Ww e 12) = s.scn ∧
      Raised s t 0x0206 1 ∧
      (∀ x : Fin 64, x.val = e.val ∨ t.ledState x = s.ledState x)) ∧
  (∀ (s : State) (id : Word),
    s.sys.inReset = false ∧ s.raises = [] →
    (∀ x : Fin 64, s.ledId x ≠ id ∨ s.ledState x = Led.committed) →
    Answers (.batchCancel id) s fun t =>
      t = s)

/-- A new READ or WRITE for another node at an idle port starts remote accesses of at most 16 words; one for this node
is done with the host agent's rights and answered with what it did; a malformed one is answered BAD_REQUEST. A request
that finds another one in execution is queued behind it, a repeated SEQ is answered REPLAY and an older one counted.
The next request starts when the port is idle. (R515, R516, R518, R520, R526, R532, R533, R535, R537, R549) -/
def Obligations.HostReadsAndWrites : Prop :=
  (∀ (s : State) (n : Fin 4) (d : Datagram) (b : List Byte) (a k : Nat),
    Fresh s n d 1 ∧ SupIdle s →
    b = (s.plain d).body →
    rwOk (s.reqOf n d) = true ∧ bit (dgFlags d) 2 = false ∧ dgNode d ≠ s.pos →
    leAt b 0 4 = a ∧ leAt b 4 2 = k →
    Answers (.readRequest d) s fun t =>
      Started (s.taken n d) t (s.reqOf n d) (readSteps 16 a k) ⟨dgNode d, false, min k 16, a, s.scn⟩) ∧
  (∀ (s u : State) (n : Fin 4) (d : Datagram) (b : List Byte) (a v : Nat),
    Fresh s n d 1 ∧ SupIdle s →
    b = (s.plain d).body →
    rwOk (s.reqOf n d) = true ∧ bit (dgFlags d) 2 = false ∧ dgNode d = s.pos ∧ s.running = true →
    leAt b 0 4 = a ∧ leAt b 4 2 = 1 →
    (s.taken n d).readAccess .ha .ha a 4 .clean = (u, .ok, v) ∧ u.sessOpen n = true →
    Answers (.readRequest d) s fun t =>
      Answered u t (s.reqOf n d) 0 (leBytes 4 1 ++ wordBytes [BitVec.ofNat 32 v])) ∧
  (∀ (s : State) (n : Fin 4) (d : Datagram),
    Fresh s n d 1 ∧ SupIdle s →
    rwOk (s.reqOf n d) = false →
    Answers (.readRequest d) s fun t =>
      Answered (s.taken n d) t (s.reqOf n d) Status.badRequest []) ∧
  (∀ (s : State) (n : Fin 4) (d : Datagram),
    Fresh s n d 1 ∧ s.sup.active.isSome = true →
    Answers (.readRequest d) s fun t =>
      t = { s.taken n d with sup := { (s.taken n d).sup with queue := s.sup.queue ++ [s.reqOf n d] } }) ∧
  (∀ (s : State) (n : Fin 4) (d : Datagram),
    s.sys.inReset = false →
    s.portUp = true ∧ s.sessOpen n = true ∧ s.sender d = some n.val ∧ dgTyp d = 1 ∧ bit (dgFlags d) 0 = false →
    scnLater (dgSeq d) (s.sess n).lastSeq = false →
    Answers (.readRequest d) s fun t =>
      (if dgSeq d = (s.sess n).lastSeq then t.out = s.out ++ [(s.heard n (s.plain d)).hostMsg (s.get (F.SUP_SESSn_STAT_SID n)) 1 true Status.replay (dgSeq d).toNat (dgNode d) []] ∧ t.rd R.SUP_CNT_REPLAY = s.rd R.SUP_CNT_REPLAY else t.out = s.out ∧ t.rd R.SUP_CNT_REPLAY = BitVec.ofNat 32 (satAdd 0xFFFFFFFF (s.num R.SUP_CNT_REPLAY) 1)) ∧
      t.sup = (s.heard n (s.plain d)).sup ∧
      OnlyRegs [R.SUP_CNT_REPLAY, R.SUP_CNT_TX] s t ∧
      Only [.regs, .sup, .out] s t) ∧
  (∀ (s : State) (n : Fin 4) (d : Datagram) (b : List Byte) (a k : Nat),
    Fresh s n d 2 ∧ SupIdle s →
    b = (s.plain d).body →
    rwOk (s.reqOf n d) = true ∧ dgNode d ≠ s.pos →
    leAt b 0 4 = a ∧ leAt b 4 2 = k →
    Answers (.writeRequest d) s fun t =>
      Started (s.taken n d).countReq t (s.reqOf n d) (writeSteps 16 a (bytesWords b 8 k)) ⟨dgNode d, true, min k 16, a, s.scn⟩) ∧
  (∀ (s u : State) (n : Fin 4) (d : Datagram) (b : List Byte) (k : Nat) (e : Bool),
    Fresh s n d 2 ∧ SupIdle s →
    b = (s.plain d).body →
    rwOk (s.reqOf n d) = true ∧ dgNode d = s.pos ∧ s.running = true →
    (s.taken n d).countReq.writeWords .ha (bytesWords b 8 (leAt b 4 2)) (leAt b 0 4) = (u, k, e) ∧ u.sessOpen n = true →
    Answers (.writeRequest d) s fun t =>
      Answered u t (s.reqOf n d) (b2n e) (leBytes 4 k)) ∧
  (∀ (s : State) (n : Fin 4) (d : Datagram),
    Fresh s n d 2 ∧ SupIdle s →
    rwOk (s.reqOf n d) = false →
    Answers (.writeRequest d) s fun t =>
      Answered (s.taken n d) t (s.reqOf n d) Status.badRequest []) ∧
  (∀ (s : State) (r : Req) (rest : List Req),
    s.sys.inReset = false →
    s.sup.active = none ∧ s.sup.queue = r :: rest →
    r.typ = 1 ∧ rwOk r = true ∧ r.atom = false ∧ r.node ≠ s.pos ∧ s.isPrimary = true →
    Answers .requestDequeue s fun t =>
      Started { s with sup := { s.sup with queue := rest } } t r (readSteps 16 (leAt r.body 0 4) (leAt r.body 4 2)) ⟨r.node, false, min (leAt r.body 4 2) 16, leAt r.body 0 4, s.scn⟩) ∧
  (∀ (s : State),
    s.sys.inReset = false →
    s.sup.active.isSome = true ∨ s.sup.queue = [] →
    Answers .requestDequeue s fun t =>
      t = s)

/-- A BATCH that names one admitted target takes a distribution entry, which is STAGING until the target acknowledges;
the batch is sent to the target, counted in CSEQ and due a report four cycles after c. A batch id in use is REFUSED. A
cancel aborts the entry with cause 3, is relayed to the target and answered; one without an entry only is answered.
Once 16 cycles have begun since its start, the host is told how many targets are staged; before that, and without a
BATCH in execution, nothing happens. (R477, R479, R480, R520, R536, R537, R538) -/
def Obligations.HostBatches : Prop :=
  (∀ (s : State) (n : Fin 4) (d : Datagram) (b : List Byte) (p e : Nat) (items : List (Word × Word)),
    Fresh s n d 3 ∧ SupIdle s →
    b = (s.plain d).body →
    byteAt b 8 = 1 ∧ byteAt b 9 = 0 ∧ leAt b 0 4 ≠ 0 →
    batchTargets (s.reqOf n d) = some [(p, items)] ∧ p ≠ s.pos ∧ s.admittedAll.contains p = true →
    s.ledFind (BitVec.ofNat 32 (leAt b 0 4)) true = none ∧ s.ledSlot = some e →
    scnLater (BitVec.ofNat 32 (leAt b 4 4)) (s.scn + 8) = true →
    Answers (.batchStageCommon d) s fun t =>
      t.ledState e = Led.staging ∧ t.ledDist e = true ∧ t.ledId e = BitVec.ofNat 32 (leAt b 0 4) ∧
      t.rd (R.FLT_LEDe_Ww e 1) = BitVec.ofNat 32 (leAt b 4 4) ∧ t.get (F.FLT_LEDe_W2_COUNT e) = items.length % 512 ∧
      t.get (F.FLT_LEDe_W11_RECVD e) = 0 ∧
      t.sup.active = some { req := s.reqOf n d, scn := s.scn, at_ := s.sys.up } ∧
      t.sup.batchDue = s.sup.batchDue ++ [(BitVec.ofNat 32 (leAt b 0 4), BitVec.ofNat 32 (leAt b 4 4) + 4)] ∧
      (t.flow p 1).txQueue = (s.flow p 1).txQueue ++ batchCodewords (BitVec.ofNat 32 (leAt b 0 4)) (BitVec.ofNat 32 (leAt b 4 4)) items ∧
      t.rd R.SUP_CSEQ = s.rd R.SUP_CSEQ + 1 ∧
      OnlyRegs ([R.SUP_CSEQ, R.SUP_CNT_RX] ++ (List.range 16).map fun w => R.FLT_LEDe_Ww e w) s t ∧
      Only [.regs, .flt, .sup, .rng] s t) ∧
  (∀ (s : State) (n : Fin 4) (d : Datagram) (b : List Byte) (p e : Nat) (items : List (Word × Word)),
    Fresh s n d 3 ∧ SupIdle s →
    b = (s.plain d).body →
    byteAt b 8 = 2 ∧ byteAt b 9 = 0 ∧ leAt b 0 4 ≠ 0 ∧ 12 ≤ b.length →
    batchTargets (s.reqOf n d) = some [(p, items)] ∧ p ≠ s.pos ∧ s.admittedAll.contains p = true →
    s.ledFind (BitVec.ofNat 32 (leAt b 0 4)) true = none ∧ s.ledSlot = some e →
    scnLater (BitVec.ofNat 32 (leAt b 4 4)) (s.scn + 8) = true →
    Answers (.batchStageEach d) s fun t =>
      t.ledState e = Led.staging ∧ t.ledDist e = true ∧ t.ledId e = BitVec.ofNat 32 (leAt b 0 4) ∧
      t.sup.active = some { req := s.reqOf n d, scn := s.scn, at_ := s.sys.up } ∧
      (t.flow p 1).txQueue = (s.flow p 1).txQueue ++ batchCodewords (BitVec.ofNat 32 (leAt b 0 4)) (BitVec.ofNat 32 (leAt b 4 4)) items ∧
      t.rd R.SUP_CSEQ = s.rd R.SUP_CSEQ + 1 ∧
      OnlyRegs ([R.SUP_CSEQ, R.SUP_CNT_RX] ++ (List.range 16).map fun w => R.FLT_LEDe_Ww e w) s t ∧
      Only [.regs, .flt, .sup, .rng] s t) ∧
  (∀ (s : State) (n : Fin 4) (d : Datagram) (b : List Byte) (p : Nat) (items : List (Word × Word)),
    Fresh s n d 3 ∧ SupIdle s →
    b = (s.plain d).body →
    byteAt b 8 = 1 ∧ byteAt b 9 = 0 ∧ leAt b 0 4 ≠ 0 →
    batchTargets (s.reqOf n d) = some [(p, items)] →
    (s.ledFind (BitVec.ofNat 32 (leAt b 0 4)) true).isSome = true ∨ p ≠ s.pos ∧ s.admittedAll.contains p = false →
    scnLater (BitVec.ofNat 32 (leAt b 4 4)) (s.scn + 8) = true →
    Answers (.batchStageCommon d) s fun t =>
      Answered (s.taken n d) t (s.reqOf n d) Status.refused []) ∧
  (∀ (s : State) (n : Fin 4) (d : Datagram) (b : List Byte),
    Fresh s n d 3 ∧ SupIdle s →
    b = (s.plain d).body →
    byteAt b 8 = 3 ∧ byteAt b 9 = 0 ∧ leAt b 0 4 ≠ 0 ∧ b.length = 12 →
    s.ledFind (BitVec.ofNat 32 (leAt b 0 4)) true = none →
    Answers (.batchCancelRequest d) s fun t =>
      Answered (s.taken n d).countReq t (s.reqOf n d) 0 (leBytes 4 0)) ∧
  (∀ (s : State) (n : Fin 4) (d : Datagram) (b : List Byte) (e : Fin 64) (p : Nat),
    s.raises = [] →
    b = (s.plain d).body →
    Fresh s n d 3 ∧ SupIdle s →
    byteAt b 8 = 3 ∧ byteAt b 9 = 0 ∧ leAt b 0 4 ≠ 0 ∧ b.length = 12 →
    s.ledId e = BitVec.ofNat 32 (leAt b 0 4) ∧ s.ledDist e = true ∧ s.ledState e = Led.staged →
    (∀ x : Fin 64, x = e ∨ s.ledId x ≠ s.ledId e) →
    s.ledTargets e = [p] ∧ p ≠ s.pos →
    Answers (.batchCancelRequest d) s fun t =>
      t.ledState e = Led.aborted ∧ t.get (F.FLT_LEDe_W2_CAUSE e) = 3 ∧
      t.sup.batchDue = s.sup.batchDue.filter (fun x => x.1 != s.ledId e) ++ [(s.ledId e, s.scn + 4)] ∧
      (t.flow p 1).txQueue = (s.flow p 1).txQueue ++ [⟨true, true, wordBytes [s.ledId e, s.rd (R.FLT_LEDe_Ww e 1), 0], none⟩] ∧
      t.out = s.out ++ [(s.taken n d).hostMsg (s.get (F.SUP_SESSn_STAT_SID n)) 3 true 0 (dgSeq d).toNat (dgNode d) (leBytes 4 0)] ∧
      t.flt = s.flt) ∧
  (∀ (s : State) (a : Active) (e : Nat),
    s.sys.inReset = false →
    s.sup.active = some a ∧ a.req.typ = 3 ∧ s.sessOpen a.req.sess = true ∧ s.isPrimary = true →
    s.ledFind (BitVec.ofNat 32 (leAt a.req.body 0 4)) true = some e ∧ s.cycles16 a.scn = true →
    Answers .batchResponseTimeout s fun t =>
      Answered s t a.req 0 (leBytes 2 a.acks.length ++ leBytes 2 (s.ledTargets e).length)) ∧
  (∀ (s : State),
    s.sys.inReset = false →
    (∀ a ∈ s.sup.active, a.req.typ ≠ 3 ∨ s.cycles16 a.scn = false) →
    Answers .batchResponseTimeout s fun t =>
      t = s)

/-- A session with a queued report runs the clocks on to its next token; with a token, and no drops to report, at `u`
the first report in the order of priority and number is sent; one of P0 or P1 then waits to be acknowledged, and a
FAULT record of this node shows SENT. A session that is closed, or has nothing to send, sends nothing. An
acknowledgement ends its wait; 100 ms after its last sending, at `u`, a report still waiting is sent again with a
token and, after its eighth repeat, is lost, counted and raised at FC0. TIME OP 0 of this node answers STIME, SCN and
TIM_STAT; OP 2 with a PTP frame of the port sends it, and answers with the time stamp of an event message; any other
is answered BAD_REQUEST. A PTP frame goes to every session that subscribes, at most 128 a second; a frame beyond them
is counted, the first of a run raised; any other frame is left alone. (R465, R518, R520, R537, R540, R541, R542, R543,
R547, R549) -/
def Obligations.ReportsAndTime : Prop :=
  (∀ (s u : State) (n : Fin 4) (r : QRep),
    s.sys.inReset = false →
    s.sessOpen n = true ∧ s.sup.drop0 = 0 ∧ s.sup.drop1 = 0 ∧ s.sup.drop2 = 0 ∧ (s.sess n).queue ≠ [] →
    u = s.toToken n ∧ u.sessOpen n = true ∧ u.hasToken n = true ∧ u.sup.drop0 = 0 ∧ u.sup.drop1 = 0 ∧ u.sup.drop2 = 0 →
    repNext (u.sess n).queue = some r ∧ r.kind ≠ Rep.fault →
    Answers (.reportTransmit n) s fun t =>
      t.out = u.out ++ [u.hostMsg (u.get (F.SUP_SESSn_STAT_SID n)) 4 false 0 r.rseq.toNat (byteAt r.body 2) r.body] ∧
      (t.sess n).queue = (u.sess n).queue.filter (fun e => e.rseq != r.rseq) ∧
      ((t.sess n).wait = (u.sess n).wait.filter (fun e => e.rseq != r.rseq) ++ (if r.prio ≤ 1 then [{ r with sends := r.sends + 1, sentAt := u.sys.up }] else [])) ∧
      (t.sess n).bucket + tokenUnit = (u.sess n).bucket ∧ (t.sess n).bucketAt = (u.sess n).bucketAt ∧
      t.rd R.SUP_CNT_TX = u.rd R.SUP_CNT_TX + 1 ∧
      OnlyRegs [R.SUP_CNT_TX, R.SUP_STAT, R.SUP_REP_STAT] u t ∧
      Only [.regs, .sup, .out] u t) ∧
  (∀ (s u : State) (n : Fin 4) (r : QRep),
    s.sys.inReset = false →
    s.sessOpen n = true ∧ s.sup.drop0 = 0 ∧ s.sup.drop1 = 0 ∧ s.sup.drop2 = 0 ∧ (s.sess n).queue ≠ [] →
    u = s.toToken n ∧ u.sessOpen n = true ∧ u.hasToken n = true ∧ u.sup.drop0 = 0 ∧ u.sup.drop1 = 0 ∧ u.sup.drop2 = 0 →
    repNext (u.sess n).queue = some r ∧ r.kind = Rep.fault ∧ byteAt r.body 2 = u.pos →
    u.get (F.FLT_RECr_W0_NUM (recIdx (leAt r.body 18 2))) = leAt r.body 18 2 →
    Answers (.reportTransmit n) s fun t =>
      t.out = u.out ++ [u.hostMsg (u.get (F.SUP_SESSn_STAT_SID n)) 4 false 0 r.rseq.toNat (byteAt r.body 2) r.body] ∧
      t.flag (F.FLT_RECr_W1_SENT (recIdx (leAt r.body 18 2))) = true) ∧
  (∀ (s : State) (n : Fin 4),
    s.sys.inReset = false →
    s.sessOpen n = false ∨ s.sup.drop0 = 0 ∧ s.sup.drop1 = 0 ∧ s.sup.drop2 = 0 ∧ (s.sess n).queue = [] →
    Answers (.reportTransmit n) s fun t =>
      t = s.refill n ∧
      (t.sess n).queue = (s.sess n).queue ∧ (t.sess n).wait = (s.sess n).wait) ∧
  (∀ (s : State) (n : Fin 4) (d : Datagram),
    s.sys.inReset = false →
    s.portUp = true ∧ dgTyp d = 4 ∧ bit (dgFlags d) 0 = true ∧ s.sender d = some n.val ∧ d.body = [] →
    Answers (.reportAck d) s fun t =>
      (t.sess n).wait = (s.sess n).wait.filter (fun e => e.rseq != dgSeq d) ∧
      (t.sess n).queue = (s.sess n).queue ∧ (t.sess n).seen = s.sys.up ∧ (t.sess n).addr = d.src ∧
      t.rd R.SUP_CNT_RX = s.rd R.SUP_CNT_RX + 1 ∧
      OnlyRegs [R.SUP_CNT_RX] s t ∧
      Only [.regs, .sup] s t) ∧
  (∀ (s u : State) (n : Fin 4) (rseq : Word) (r : QRep),
    s.sys.inReset = false →
    (s.sess n).wait.find? (fun r => r.rseq == rseq) = some r ∧ r.sends < 9 ∧ r.prio ≤ 1 →
    u = (s.runUp (r.sentAt + msTicks 100)).refill n ∧ u.sessOpen n = true ∧ u.hasToken n = true →
    Answers (.reportRepeat n rseq) s fun t =>
      t.out = u.out ++ [u.hostMsg (u.get (F.SUP_SESSn_STAT_SID n)) 4 false 0 r.rseq.toNat (byteAt r.body 2) r.body] ∧
      (t.sess n).wait = (u.sess n).wait.filter (fun e => e.rseq != r.rseq) ++ [{ r with sends := r.sends + 1, sentAt := u.sys.up }] ∧
      t.rd R.SUP_REP_LOST = u.rd R.SUP_REP_LOST ∧
      Only [.regs, .sup, .out] u t) ∧
  (∀ (s u : State) (n : Fin 4) (rseq : Word) (r : QRep),
    s.sys.inReset = false →
    (s.sess n).wait.find? (fun r => r.rseq == rseq) = some r ∧ 9 ≤ r.sends →
    u = (s.runUp (r.sentAt + msTicks 100)).refill n →
    Answers (.reportRepeat n rseq) s fun t =>
      (t.sess n).wait = (u.sess n).wait.filter (fun e => e.rseq != rseq) ∧
      t.rd R.SUP_REP_LOST = BitVec.ofNat 32 (satAdd 0xFFFFFFFF (u.num R.SUP_REP_LOST) 1) ∧
      Raised u t 0x1105 0 ∧
      FaultFrame [R.SUP_REP_LOST] u t) ∧
  (∀ (s : State) (n : Fin 4) (d : Datagram) (b : List Byte),
    Fresh s n d 5 ∧ SupIdle s →
    b = (s.plain d).body →
    byteAt b 0 = 0 ∧ dgNode d = s.pos →
    Answers (.timeNow d) s fun t =>
      Answered (s.taken n d) t (s.reqOf n d) 0 (leBytes 4 0 ++ leBytes 6 s.stime48 ++ leBytes 2 0 ++ leBytes 4 s.scn.toNat ++ leBytes 4 (s.num R.TIM_STAT))) ∧
  (∀ (s : State) (n : Fin 4) (d : Datagram) (b : List Byte),
    Fresh s n d 5 ∧ SupIdle s →
    b = (s.plain d).body →
    byteAt b 0 ≠ 0 ∧ byteAt b 0 ≠ 2 →
    Answers (.timeNow d) s fun t =>
      Answered (s.taken n d) t (s.reqOf n d) Status.badRequest []) ∧
  (∀ (s : State) (n : Fin 4) (d : Datagram) (b : List Byte) (event : Bool),
    Fresh s n d 5 ∧ SupIdle s →
    b = (s.plain d).body →
    byteAt b 0 = 2 ∧ dgNode d = s.pos ∧ b.length = 8 + leAt b 4 2 →
    s.ptpTx (b.drop 8) = some event →
    Answers (.timeTx d) s fun t =>
      (Answered ((s.taken n d).emit (.ptp (b.drop 8))) t (s.reqOf n d) 0 (leBytes 4 2 ++ leBytes 6 (if event then s.stime48 else 0) ++ leBytes 2 (b2n event) ++ (b.drop 6).take 2))) ∧
  (∀ (s : State) (n : Fin 4) (d : Datagram) (b : List Byte),
    Fresh s n d 5 ∧ SupIdle s →
    b = (s.plain d).body →
    byteAt b 0 = 2 ∧ (b.length ≠ 8 + leAt b 4 2 ∨ s.ptpTx (b.drop 8) = none) →
    Answers (.timeTx d) s fun t =>
      Answered (s.taken n d) t (s.reqOf n d) Status.badRequest []) ∧
  (∀ (s : State) (frame : List Byte) (event : Bool),
    s.sys.inReset = false →
    s.portUp = true ∧ s.ptpRx frame = some event →
    (lastSecond s.sys.up s.sup.ptpAt).length < 128 →
    Answers (.ptpFrameReceived frame) s fun t =>
      t.sup.ptpAt = s.sys.up :: lastSecond s.sys.up s.sup.ptpAt ∧ t.sup.ptpRun = false ∧
      (∀ n : Fin 4, (t.sess n).timeSeq = (if s.sessOpen n && (s.sess n).sub.getLsbD 16 then (s.sess n).timeSeq + 1 else (s.sess n).timeSeq)) ∧
      t.out.length = s.out.length + ((List.range 4).filter fun n => s.sessOpen n && (s.sess n).sub.getLsbD 16).length ∧
      (if frame.length ≤ 1384 then t.rd R.SUP_CNT_PTPDROP = s.rd R.SUP_CNT_PTPDROP else t.rd R.SUP_CNT_PTPDROP = BitVec.ofNat 32 (satAdd 0xFFFFFFFF (s.num R.SUP_CNT_PTPDROP) 1)) ∧
      OnlyRegs [R.SUP_CNT_TX, R.SUP_CNT_PTPDROP] s t ∧
      Only [.regs, .sup, .out] s t) ∧
  (∀ (s : State) (frame : List Byte),
    s.sys.inReset = false →
    s.portUp = true ∧ (s.ptpRx frame).isSome = true →
    128 ≤ (lastSecond s.sys.up s.sup.ptpAt).length →
    Answers (.ptpFrameReceived frame) s fun t =>
      t.rd R.SUP_CNT_PTPDROP = BitVec.ofNat 32 (satAdd 0xFFFFFFFF (s.num R.SUP_CNT_PTPDROP) 1) ∧
      t.sup = { s.sup with ptpRun := true } ∧
      (if s.sup.ptpRun then t.flt = s.flt ∧ t.out = s.out else Raised s t 0x1106 0) ∧
      FaultFrame [R.SUP_CNT_PTPDROP] s t) ∧
  (∀ (s : State) (frame : List Byte),
    s.sys.inReset = false →
    s.portUp = false ∨ s.ptpRx frame = none →
    Answers (.ptpFrameReceived frame) s fun t =>
      t = s)

/-- SEND writes the words and then GO; at this node both are done with the host agent's rights and answered, at
another node both are sent as remote accesses. RECV takes the message of a FULL channel; of an EMPTY one it answers
LEN 0 with WAIT 0, and waits otherwise, one in each session; its expiry, at `u`, answers LEN 0, and while it waits for
another node its channel's state is asked for once in a cycle. STAT reads the channel's state word. A malformed
request is answered BAD_REQUEST. (R515, R520, R535, R537, R554, R557, R560) -/
def Obligations.HostMailboxes : Prop :=
  (∀ (s u v : State) (n : Fin 4) (d : Datagram) (b : List Byte) (k : Nat) (e : Bool),
    Fresh s n d 6 ∧ SupIdle s →
    b = (s.plain d).body →
    mbxOk (s.reqOf n d) = true ∧ byteAt b 0 = 0 ∧ dgNode d = s.pos ∧ s.running = true →
    (s.taken n d).countReq.writeWords .ha (bytesWords b 4 (byteAt b 2)) (R.MBX_CHn_Di (byteAt b 1) 0) = (u, byteAt b 2, false) →
    u.writeWords .ha [BitVec.ofNat 32 (0x80000000 + byteAt b 2)] (R.MBX_CHn_CTRL (byteAt b 1)) = (v, k, e) ∧ v.sessOpen n = true →
    Answers (.mbxSend d) s fun t =>
      Answered v t (s.reqOf n d) (b2n e) []) ∧
  (∀ (s : State) (n : Fin 4) (d : Datagram) (b : List Byte),
    Fresh s n d 6 ∧ SupIdle s →
    b = (s.plain d).body →
    mbxOk (s.reqOf n d) = true ∧ byteAt b 0 = 0 ∧ dgNode d ≠ s.pos →
    Answers (.mbxSend d) s fun t =>
      Started (s.taken n d).countReq t (s.reqOf n d) [.wr (R.MBX_CHn_Di (byteAt b 1) 0) (bytesWords b 4 (byteAt b 2)), .wr (R.MBX_CHn_CTRL (byteAt b 1)) [BitVec.ofNat 32 (0x80000000 + byteAt b 2)]] ⟨dgNode d, true, byteAt b 2, R.MBX_CHn_Di (byteAt b 1) 0, s.scn⟩) ∧
  (∀ (s : State) (n : Fin 4) (d : Datagram) (b : List Byte),
    Fresh s n d 6 ∧ SupIdle s →
    b = (s.plain d).body →
    mbxOk (s.reqOf n d) = false ∧ byteAt b 0 = 0 →
    Answers (.mbxSend d) s fun t =>
      Answered (s.taken n d) t (s.reqOf n d) Status.badRequest []) ∧
  (∀ (s : State) (n : Fin 4) (d : Datagram) (b : List Byte),
    Fresh s n d 6 ∧ SupIdle s →
    b = (s.plain d).body →
    mbxOk (s.reqOf n d) = true ∧ byteAt b 0 = 1 ∧ dgNode d = s.pos ∧ s.running = true →
    s.mbxFull (byteAt b 1) = false ∧ leAt b 2 2 = 0 →
    Answers (.mbxRecv d) s fun t =>
      Answered (s.taken n d).countReq t (s.reqOf n d) 0 (leBytes 4 0)) ∧
  (∀ (s : State) (n : Fin 4) (d : Datagram) (b : List Byte),
    Fresh s n d 6 ∧ SupIdle s →
    b = (s.plain d).body →
    mbxOk (s.reqOf n d) = true ∧ byteAt b 0 = 1 ∧ dgNode d = s.pos ∧ s.running = true →
    s.mbxFull (byteAt b 1) = false ∧ leAt b 2 2 ≠ 0 ∧ (s.sess n).recv = none →
    Answers (.mbxRecv d) s fun t =>
      (t.sess n).recv = some (s.reqOf n d) ∧ (t.sess n).recvAt = s.sys.up ∧ t.sup.active = none ∧
      t.out = s.out ∧
      OnlyRegs [R.SUP_CSEQ, R.SUP_CNT_RX] s t ∧
      Only [.regs, .sup] s t) ∧
  (∀ (s u v : State) (n : Fin 4) (d : Datagram) (b : List Byte) (ws : List Word) (e e2 : Bool) (k : Nat),
    Fresh s n d 6 ∧ SupIdle s →
    b = (s.plain d).body →
    mbxOk (s.reqOf n d) = true ∧ byteAt b 0 = 1 ∧ dgNode d = s.pos ∧ s.running = true →
    s.mbxFull (byteAt b 1) = true ∧ s.flag (F.MBX_CHn_STAT_STATE (byteAt b 1)) = true →
    (s.taken n d).countReq.readWords .ha (s.get (F.MBX_CHn_STAT_LEN (byteAt b 1))) (R.MBX_CHn_Di (byteAt b 1) 0) = (u, ws, e) →
    u.writeWords .ha [0x40000000] (R.MBX_CHn_CTRL (byteAt b 1)) = (v, k, e2) ∧ v.sessOpen n = true →
    Answers (.mbxRecv d) s fun t =>
      Answered v t (s.reqOf n d) 0 (recvAnswer ws)) ∧
  (∀ (s : State) (n : Fin 4) (d : Datagram) (b : List Byte),
    Fresh s n d 6 ∧ SupIdle s →
    b = (s.plain d).body →
    mbxOk (s.reqOf n d) = true ∧ byteAt b 0 = 1 ∧ dgNode d ≠ s.pos →
    Answers (.mbxRecv d) s fun t =>
      Started (s.taken n d).countReq t (s.reqOf n d) [.rd (R.MBX_CHn_STAT (byteAt b 1)) 1] ⟨dgNode d, false, 1, R.MBX_CHn_STAT (byteAt b 1), s.scn⟩) ∧
  (∀ (s u : State) (n : Fin 4) (r : Req),
    s.sys.inReset = false →
    (s.sess n).recv = some r ∧ r.sess = n.val →
    u = s.runUp ((s.sess n).recvAt + msTicks (leAt r.body 2 2)) ∧ u.sessOpen n = true →
    r.node ≠ u.pos ∨ u.mbxFull (byteAt r.body 1) = false →
    Answers (.mbxRecvExpiry n true) s fun t =>
      (t.sess n).recv = none ∧
      t.out = u.out ++ [u.hostMsg (u.get (F.SUP_SESSn_STAT_SID n)) r.typ true 0 r.seq.toNat r.node (leBytes 4 0)] ∧
      OnlyRegs [R.SUP_CNT_TX] u t ∧
      Only [.regs, .sup, .out] u t) ∧
  (∀ (s : State) (n : Fin 4) (r : Req),
    s.sys.inReset = false →
    (s.sess n).recv = some r ∧ r.sess = n.val →
    r.node = s.pos ∧ s.mbxFull (byteAt r.body 1) = false →
    Answers (.mbxRecvExpiry n false) s fun t =>
      t = s) ∧
  (∀ (s : State) (n : Fin 4) (r : Req),
    s.sys.inReset = false →
    (s.sess n).recv = some r ∧ r.sess = n.val →
    r.node ≠ s.pos ∧ s.isPrimary = true ∧ (s.sess n).polled ≠ some s.scn →
    Answers (.mbxRecvExpiry n false) s fun t =>
      t = (s.setSess n { s.sess n with polled := some s.scn }).sendRra r.node 1 (2 + n) (.rd (R.MBX_CHn_STAT (byteAt r.body 1)) 1)) ∧
  (∀ (s : State) (n : Fin 4) (expired : Bool),
    s.sys.inReset = false →
    (s.sess n).recv = none →
    Answers (.mbxRecvExpiry n expired) s fun t =>
      t = s) ∧
  (∀ (s u : State) (n : Fin 4) (d : Datagram) (b : List Byte) (ws : List Word) (e : Bool),
    Fresh s n d 6 ∧ SupIdle s →
    b = (s.plain d).body →
    mbxOk (s.reqOf n d) = true ∧ byteAt b 0 = 2 ∧ dgNode d = s.pos ∧ s.running = true →
    (s.taken n d).countReq.readWords .ha 1 (R.MBX_CHn_STAT (byteAt b 1)) = (u, ws, e) ∧ u.sessOpen n = true →
    Answers (.mbxStat d) s fun t =>
      Answered u t (s.reqOf n d) 0 (wordBytes ws)) ∧
  (∀ (s : State) (n : Fin 4) (d : Datagram) (b : List Byte),
    Fresh s n d 6 ∧ SupIdle s →
    b = (s.plain d).body →
    mbxOk (s.reqOf n d) = true ∧ byteAt b 0 = 2 ∧ dgNode d ≠ s.pos →
    Answers (.mbxStat d) s fun t =>
      Started (s.taken n d).countReq t (s.reqOf n d) [.rd (R.MBX_CHn_STAT (byteAt b 1)) 1] ⟨dgNode d, false, 1, R.MBX_CHn_STAT (byteAt b 1), s.scn⟩)

/-- Phase 1 with a host key of the image, a point of the curve and a free session makes it half-open, with a SID that
is not 0 and the keys of the SM2 exchange, and is answered; where the exchange gives none, and for a key or a point
that is none, it is answered DENIED; a malformed one is answered BAD_REQUEST. A phase 3 with the session's S_A opens
it with a full bucket; another frees it, DENIED. Phase 5, the two time-outs at `u` and CLOSE_ALL of the management
processor free sessions. ATTEST OP 0 answers the identity certificate and OP 1 queues a signature; one for another
node is relayed, and gets NO_RESPONSE when no answer comes. A dropped datagram is counted and raised once a second.
ARP and neighbour solicitations are answered for the port's own addresses, and with ECHO ten echoes a second. The
link's fall with a session open raises FC1 until it returns. SUP_CMD clears the seven counters. (R513, R515, R522,
R523, R525, R527, R537, R540, R545, R546, R547, R549) -/
def Obligations.SessionsAndAttestation : Prop :=
  (∀ (s : State) (n : Fin 4) (d : Datagram),
    s.sys.inReset = false →
    s.portUp = true ∧ dgTyp d = 7 ∧ dgSid d = 0 ∧ dgHeadOk d = true ∧ dgOp d = 1 ∧ bit (dgFlags d) 1 = false →
    d.body.length = 72 ∧ s.keyRole (byteAt d.body 1) ≠ 0 ∧ sm2KeyOk (hostEph d.body).1 (hostEph d.body).2 = true →
    s.flag F.SUP_SESS_CFG_ENC_REQ = false ∨ bit (byteAt d.body 2) 0 = true →
    s.sessOpen n = false ∧ s.sessHalf n = false ∧ (∀ m : Fin 4, m < n → s.sessOpen m = true ∨ s.sessHalf m = true) →
    s.sessUsed < s.get F.SUP_SESS_CFG_MAX →
    Answers (.sessPhase1 d) s fun t =>
      !(match sm2Respond hostId nodeId (s.keyPub (byteAt d.body 1)).1 (s.keyPub (byteAt d.body 1)).2 (hostEph d.body).1 (hostEph d.body).2 (scalarOf (Config.freeScalar s.free)) with
      | some k => t.sessHalf n = true ∧ t.sessOpen n = false ∧ t.get (F.SUP_SESSn_STAT_SID n) ≠ 0 ∧
      t.get (F.SUP_SESSn_STAT_ROLE n) = s.keyRole (byteAt d.body 1) % 4 ∧ t.get (F.SUP_SESSn_STAT_KEY n) = byteAt d.body 1 % 8 ∧
      t.sess n = { sub := BitVec.ofNat 32 (leAt d.body 4 4), enc := bit (byteAt d.body 2) 0, seen := s.sys.up, addr := d.src, keys := k.keys, sa := k.sa } ∧
      t.out.length = s.out.length + 1
      | none => saidHost s t 0 7 true Status.denied (dgSeq d).toNat (dgNode d) [] = true ∧ t.sup = s.sup) ∧
      t.rd R.SUP_CNT_RX = s.rd R.SUP_CNT_RX + 1 ∧ t.rd R.SUP_CNT_TX = s.rd R.SUP_CNT_TX + 1 ∧
      FaultFrame [R.SUP_SESSn_STAT n, R.SUP_CNT_RX, R.SUP_CNT_TX] s t ∧
      Only [.regs, .clk, .tim, .pwm, .gd, .flt, .sup, .out, .free] s t) ∧
  (∀ (s : State) (d : Datagram),
    s.sys.inReset = false →
    s.portUp = true ∧ dgTyp d = 7 ∧ dgSid d = 0 ∧ dgHeadOk d = true ∧ dgOp d = 1 ∧ bit (dgFlags d) 1 = false →
    d.body.length ≠ 72 ∨ s.keyRole (byteAt d.body 1) = 0 ∨ sm2KeyOk (hostEph d.body).1 (hostEph d.body).2 = false ∨ s.flag F.SUP_SESS_CFG_ENC_REQ = true ∧ bit (byteAt d.body 2) 0 = false →
    Answers (.sessPhase1 d) s fun t =>
      Raised s t 0x1103 0 ∧
      (saidHost s t 0 7 true (if d.body.length = 72 then Status.denied else Status.badRequest) (dgSeq d).toNat (dgNode d) [] = true) ∧
      t.sup = s.sup ∧
      FaultFrame [R.SUP_CNT_RX, R.SUP_CNT_TX] s t) ∧
  (∀ (s : State) (n : Fin 4) (d : Datagram) (b : List Byte),
    s.sys.inReset = false →
    s.portUp = true ∧ dgTyp d = 7 ∧ dgSid d ≠ 0 ∧ s.sender d = some n.val ∧ s.sessHalf n = true ∧ s.sessOpen n = false →
    b = (s.plain d).body ∧ byteAt b 0 = 3 ∧ b.length = 36 ∧ b.drop 4 = (s.sess n).sa →
    Answers (.sessPhase3 d) s fun t =>
      t.sessOpen n = true ∧ t.sessHalf n = false ∧
      (t.sess n).lastSeq = dgSeq d ∧ (t.sess n).bucket = s.get F.SUP_REP_CFG_BURST * tokenUnit ∧ (t.sess n).bucketAt = s.sys.up ∧
      t.flag (F.SUP_SESSn_STAT_ENC n) = (s.sess n).enc ∧
      saidHost s t (dgSid d) 7 true 0 (dgSeq d).toNat (dgNode d) [] = true ∧ t.out.length = s.out.length + 1 ∧
      OnlyRegs [R.SUP_SESSn_STAT n, R.SUP_CNT_RX, R.SUP_CNT_TX, R.SUP_STAT, R.SUP_REP_STAT] s t ∧
      Only [.regs, .sup, .out] s t) ∧
  (∀ (s : State) (n : Fin 4) (d : Datagram) (b : List Byte),
    s.sys.inReset = false →
    s.portUp = true ∧ dgTyp d = 7 ∧ dgSid d ≠ 0 ∧ s.sender d = some n.val ∧ s.sessHalf n = true ∧ s.sessOpen n = false →
    b = (s.plain d).body ∧ byteAt b 0 = 3 ∧ (b.length ≠ 36 ∨ b.drop 4 ≠ (s.sess n).sa) →
    Answers (.sessPhase3 d) s fun t =>
      t.rd (R.SUP_SESSn_STAT n) = 0 ∧ t.sess n = {} ∧
      Raised s t 0x1103 0 ∧
      saidHost s t (dgSid d) 7 true Status.denied (dgSeq d).toNat (dgNode d) [] = true ∧
      FaultFrame [R.SUP_SESSn_STAT n, R.SUP_CNT_RX, R.SUP_CNT_TX, R.SUP_STAT, R.SUP_REP_STAT] s t) ∧
  (∀ (s : State) (n : Fin 4) (d : Datagram),
    s.sys.inReset = false →
    s.portUp = true ∧ dgTyp d = 7 ∧ dgSid d ≠ 0 ∧ s.sender d = some n.val ∧ byteAt (s.plain d).body 0 = 5 →
    s.sessHalf n = true ∨ scnLater (dgSeq d) (s.sess n).lastSeq = true →
    Answers (.sessClose d) s fun t =>
      t.rd (R.SUP_SESSn_STAT n) = 0 ∧ t.sess n = {} ∧
      t.rd R.SUP_CNT_RX = s.rd R.SUP_CNT_RX + 1 ∧
      OnlyRegs [R.SUP_SESSn_STAT n, R.SUP_CNT_RX, R.SUP_STAT, R.SUP_REP_STAT] s t ∧
      Only [.regs, .sup] s t) ∧
  (∀ (s u : State) (n : Fin 4),
    s.sys.inReset = false →
    s.sessHalf n = true ∧ u = s.runUp ((s.sess n).seen + msTicks 2000) →
    Answers (.halfOpenTimeout n) s fun t =>
      t.rd (R.SUP_SESSn_STAT n) = 0 ∧ t.sess n = {} ∧
      OnlyRegs [R.SUP_SESSn_STAT n, R.SUP_STAT, R.SUP_REP_STAT] u t ∧
      Only [.regs, .sup] u t) ∧
  (∀ (s u : State) (n : Fin 4),
    s.sys.inReset = false →
    s.sessOpen n = true ∧ u = s.runUp ((s.sess n).seen + msTicks (1000 * s.get F.SUP_SESS_CFG_IDLE)) ∧ u.sessOpen n = true →
    Answers (.idleTimeout n) s fun t =>
      t.rd (R.SUP_SESSn_STAT n) = 0 ∧ t.sess n = {} ∧
      t.out.length = u.out.length + 1 ∧
      OnlyRegs [R.SUP_SESSn_STAT n, R.SUP_CNT_TX, R.SUP_STAT, R.SUP_REP_STAT] u t ∧
      Only [.regs, .sup, .out, .free] u t) ∧
  (∀ (s : State) (m : Master),
    s.sys.inReset = false ∧ s.mastersRun m = true →
    Answers (.closeAll m) s fun t =>
      (if s.asMp m then (t.sessOpen 0 = false ∧ t.sessOpen 1 = false ∧ t.sessOpen 2 = false ∧ t.sessOpen 3 = false) ∧ t.rd R.SYS_VIOL_CNT = s.rd R.SYS_VIOL_CNT else t.sup = s.sup ∧ t.get F.SYS_VIOL_LAST_MASTER = masterId m) ∧
      OnlyRegs ([R.SYS_VIOL_CNT, R.SYS_VIOL_LAST, R.SUP_CNT_TX, R.SUP_STAT, R.SUP_REP_STAT] ++ (List.range 4).map R.SUP_SESSn_STAT) s t ∧
      Only [.regs, .sup, .out, .free] s t) ∧
  (∀ (s : State) (n : Fin 4) (d : Datagram) (b : List Byte),
    Fresh s n d 8 ∧ SupIdle s →
    b = (s.plain d).body →
    byteAt b 0 = 0 ∧ dgNode d = s.pos ∧ s.pos ≠ 0xFF ∧ b.length = 4 →
    Answers (.attestIdentity d) s fun t =>
      Answered (s.taken n d) t (s.reqOf n d) 0 identityCert) ∧
  (∀ (s : State) (n : Fin 4) (d : Datagram) (b : List Byte),
    Fresh s n d 8 ∧ SupIdle s →
    b = (s.plain d).body →
    byteAt b 0 = 1 ∧ dgNode d = s.pos ∧ s.pos ≠ 0xFF ∧ b.length = 20 →
    Answers (.attestRecord d) s fun t =>
      t.mtr.jobs = s.mtr.jobs ++ [.attest none n (dgSeq d).toNat (b.drop 4)] ∧
      t.sup.active = some { req := s.reqOf n d, scn := s.scn, at_ := s.sys.up } ∧
      t.out = s.out) ∧
  (∀ (s : State) (n : Fin 4) (d : Datagram) (b : List Byte),
    Fresh s n d 8 ∧ SupIdle s →
    b = (s.plain d).body →
    byteAt b 0 = 1 ∧ dgNode d ≠ s.pos ∧ dgNode d ≠ 0xFF ∧ b.length = 20 →
    Answers (.attestRecord d) s fun t =>
      t = ((s.taken n d).begun (s.reqOf n d)).relayTo (dgNode d) Relay.attest b) ∧
  (∀ (s u : State) (a : Active),
    s.sys.inReset = false →
    s.sup.active = some a ∧ a.req.typ = 8 ∧ a.req.node ≠ s.pos ∧ s.cycles16 a.scn = true →
    u = s.runUp (a.at_ + 2 * s.cycleLen + signTicks) ∧ u.sup.active = some a ∧ u.sessOpen a.req.sess = true ∧ s.isPrimary = true ∧ u.isPrimary = true →
    Answers .attestTimeout s fun t =>
      Answered u t a.req Status.noResponse []) ∧
  (∀ (s : State),
    s.sys.inReset = false →
    Answers .supCntClr s fun t =>
      t.rd R.SUP_CNT_RX = 0 ∧ t.rd R.SUP_CNT_TX = 0 ∧ t.rd R.SUP_CNT_BAD = 0 ∧ t.rd R.SUP_CNT_REPLAY = 0 ∧
      t.rd R.SUP_REP_DROP = 0 ∧ t.rd R.SUP_REP_LOST = 0 ∧ t.rd R.SUP_CNT_PTPDROP = 0 ∧
      OnlyRegs [R.SUP_CNT_RX, R.SUP_CNT_TX, R.SUP_CNT_BAD, R.SUP_CNT_REPLAY, R.SUP_REP_DROP, R.SUP_REP_LOST, R.SUP_CNT_PTPDROP] s t ∧
      Only [.regs] s t) ∧
  (∀ (s : State),
    s.sys.inReset = false →
    s.portUp = true →
    Answers .datagramDropped s fun t =>
      t.rd R.SUP_CNT_BAD = BitVec.ofNat 32 (satAdd 0xFFFFFFFF (s.num R.SUP_CNT_BAD) 1) ∧
      (if s.sup.badAt.any (fun b => Nat.blt s.sys.up (b + secondTicks)) then t.flt = s.flt ∧ t.sup = s.sup else Raised s t 0x1102 0 ∧ t.sup.badAt = some s.sys.up) ∧
      FaultFrame [R.SUP_CNT_BAD] s t) ∧
  (∀ (s : State) (v6 : Bool) (target : BitVec 128),
    s.sys.inReset = false →
    Answers (.arpOrNeighbourSolicitation v6 target) s fun t =>
      (t.out = s.out ++ (if s.portUp && s.ownIp v6 target.toNat then [.net (b2n v6)] else [])) ∧
      Only [.out] s t) ∧
  (∀ (s : State) (v6 : Bool) (target : BitVec 128),
    s.sys.inReset = false →
    s.portUp = true ∧ s.ownIp v6 target.toNat = true ∧ s.flag F.SUP_CTRL_ECHO = true →
    Answers (.icmpEcho v6 target) s fun t =>
      (if (lastSecond s.sys.up s.sup.echoAt).length < 10 then t.out = s.out ++ [.net (2 + b2n v6)] ∧ t.sup.echoAt = s.sys.up :: lastSecond s.sys.up s.sup.echoAt else t = s) ∧
      Only [.sup, .out] s t) ∧
  (∀ (s : State),
    s.sys.inReset = false →
    s.supRuns = true ∧ s.sup.linkFault = false →
    s.sessOpen 0 = true ∨ s.sessOpen 1 = true ∨ s.sessOpen 2 = true ∨ s.sessOpen 3 = true →
    Answers .linkDown s fun t =>
      t.flag F.SUP_STAT_LINK = false ∧ t.sup.linkFault = true ∧
      Raised s t 0x1101 1 ∧
      FaultFrame [R.SUP_STAT] s t) ∧
  (∀ (s : State),
    s.sys.inReset = false →
    s.sessOpen 0 = false ∧ s.sessOpen 1 = false ∧ s.sessOpen 2 = false ∧ s.sessOpen 3 = false →
    Answers .linkDown s fun t =>
      t.flag F.SUP_STAT_LINK = false ∧
      OnlyRegs [R.SUP_STAT] s t ∧
      Only [.regs] s t) ∧
  (∀ (s : State),
    s.sys.inReset = false →
    s.supRuns = true ∧ s.sup.linkFault = true →
    Answers .linkUp s fun t =>
      t.flag F.SUP_STAT_LINK = true ∧ t.get F.SUP_STAT_SPEED = s.get F.SUP_CTRL_SPEED ∧
      t.sup.linkFault = false ∧
      (t.flt.causes.any fun c => c.code == 0x1101 && c.inst == 0 && c.tag == 0 && !c.ended) = false ∧
      Only [.regs, .pwm, .gd, .flt, .sup] s t)

/-- The sender writes words of an EMPTY channel; GO with a length makes it FULL, and tells a receiver that is the
management processor or lies at another node; for the host, with no RECV waiting, the message stays. The receiver's
TAKE makes it EMPTY again and tells a sender that is the management processor or lies at another node. Another
master's access is a violation; data or GO of a FULL channel, or GO without a length of 1 to 16, is a bus error that
sets PERR and counts; TAKE of an EMPTY one counts. A DELIVER for a matching EMPTY channel of the management processor,
or of the host with no RECV waiting, fills it; one for a FULL channel or one that is not the ring agent's is answered
NACK and raised. A TAKE or NACK for a matching FULL channel of the management processor empties it; one for an EMPTY
channel or of another peer is counted as stray. A transfer without an answer within TMO cycles sets TMO, empties the
channel and raises FC0. MBX_CMD clears the counters. (R531, R550, R553, R554, R556, R557, R558, R559, R561, R563) -/
def Obligations.MailboxHandshake : Prop :=
  (∀ (s : State) (m : Master) (n k : Fin 16) (v : Word),
    s.sys.inReset = false ∧ s.mastersRun m = true →
    s.isSender n m = true ∧ s.mbxFull n = false →
    Answers (.mbxDataWrite m n k v) s fun t =>
      t.rd (R.MBX_CHn_Di n k) = v ∧
      t.sys.resp = some (false, 0) ∧ t.out = s.out ++ [.bus false 0] ∧
      OnlyRegs [R.MBX_CHn_Di n k] s t ∧
      Only [.regs, .sys, .out] s t) ∧
  (∀ (s : State) (m : Master) (n k : Fin 16) (v : Word),
    s.sys.inReset = false ∧ s.mastersRun m = true →
    s.isSender n m = true ∧ s.mbxFull n = true →
    Answers (.mbxDataWrite m n k v) s fun t =>
      t.flag (F.MBX_CHn_STAT_PERR n) = true ∧
      t.get (F.MBX_CHn_STAT_PERRS n) = satAdd (F.MBX_CHn_STAT_PERRS n).max (s.get (F.MBX_CHn_STAT_PERRS n)) 1 ∧
      t.sys.resp = some (true, 0) ∧
      (bit s.mbx.raised n = false → Raised s t 0x1201 0) ∧
      FaultFrame [R.MBX_CHn_STAT n] s t) ∧
  (∀ (s : State) (m : Master) (n k : Fin 16) (v : Word),
    s.sys.inReset = false ∧ s.mastersRun m = true →
    s.isSender n m = false →
    Answers (.mbxDataWrite m n k v) s fun t =>
      t.get F.SYS_VIOL_LAST_MASTER = masterId m ∧ t.flag F.SYS_VIOL_LAST_W = true ∧
      t.sys.resp = some (false, 0) ∧
      OnlyRegs [R.SYS_VIOL_CNT, R.SYS_VIOL_LAST] s t ∧
      Only [.regs, .sys, .out] s t) ∧
  (∀ (s : State) (m : Master) (n : Fin 16) (len : BitVec 5),
    s.sys.inReset = false ∧ s.mastersRun m = true →
    s.isSender n m = true ∧ s.mbxFull n = false ∧ 1 ≤ len.toNat ∧ len.toNat ≤ 16 →
    s.get (F.MBX_CHn_BIND_RCV n) = 2 →
    Answers (.mbxGo m n len) s fun t =>
      t.flag (F.MBX_CHn_STAT_STATE n) = true ∧ t.get (F.MBX_CHn_STAT_LEN n) = len.toNat ∧
      bit t.mbx.raised n = false ∧ Bank.at none t.mbx.goAt n = some s.scn ∧
      (t.flow (s.get (F.MBX_CHn_BIND_PEER n)) 3).txQueue.length = (s.flow (s.get (F.MBX_CHn_BIND_PEER n)) 3).txQueue.length + 1 ∧
      t.sys.resp = some (false, 0) ∧ t.out = s.out ++ [.bus false 0] ∧
      OnlyRegs [R.MBX_CHn_STAT n] s t ∧
      Only [.regs, .sys, .mbx, .rng, .out] s t) ∧
  (∀ (s : State) (m : Master) (n : Fin 16) (len : BitVec 5),
    s.sys.inReset = false ∧ s.mastersRun m = true →
    s.isSender n m = true ∧ s.mbxFull n = false ∧ 1 ≤ len.toNat ∧ len.toNat ≤ 16 →
    s.get (F.MBX_CHn_BIND_RCV n) = 0 →
    Answers (.mbxGo m n len) s fun t =>
      t.flag (F.MBX_CHn_STAT_STATE n) = true ∧ t.get (F.MBX_CHn_STAT_LEN n) = len.toNat ∧
      bit (t.num R.MBX_IRQ_MP) n = true ∧
      (t.out = s.out ++ (if bit (s.num R.MBX_IRQ_EN) n then [.irqMbx n true] else []) ++ [.bus false 0]) ∧
      OnlyRegs [R.MBX_CHn_STAT n, R.MBX_IRQ_MP] s t ∧
      Only [.regs, .sys, .mbx, .out] s t) ∧
  (∀ (s : State) (m : Master) (n : Fin 16) (len : BitVec 5),
    s.sys.inReset = false ∧ s.mastersRun m = true →
    s.isSender n m = true ∧ (len.toNat = 0 ∨ 16 < len.toNat ∨ s.mbxFull n = true) →
    Answers (.mbxGo m n len) s fun t =>
      t.flag (F.MBX_CHn_STAT_PERR n) = true ∧ t.sys.resp = some (true, 0) ∧
      t.get (F.MBX_CHn_STAT_PERRS n) = satAdd (F.MBX_CHn_STAT_PERRS n).max (s.get (F.MBX_CHn_STAT_PERRS n)) 1 ∧
      t.flag (F.MBX_CHn_STAT_STATE n) = s.flag (F.MBX_CHn_STAT_STATE n) ∧
      FaultFrame [R.MBX_CHn_STAT n] s t) ∧
  (∀ (s : State) (m : Master) (n : Fin 16) (len : BitVec 5),
    s.sys.inReset = false ∧ s.mastersRun m = true →
    s.isSender n m = true ∧ s.mbxFull n = false ∧ 1 ≤ len.toNat ∧ len.toNat ≤ 16 →
    s.get (F.MBX_CHn_BIND_RCV n) = 1 ∧ (∀ i : Fin 4, (s.sess i).recv = none) →
    Answers (.mbxGo m n len) s fun t =>
      t.flag (F.MBX_CHn_STAT_STATE n) = true ∧ t.get (F.MBX_CHn_STAT_LEN n) = len.toNat ∧
      t.sys.resp = some (false, 0) ∧
      OnlyRegs [R.MBX_CHn_STAT n] s t ∧
      Only [.regs, .sys, .mbx, .out] s t) ∧
  (∀ (s : State) (m : Master) (n : Fin 16) (len : BitVec 5),
    s.sys.inReset = false ∧ s.mastersRun m = true →
    s.isSender n m = false →
    Answers (.mbxGo m n len) s fun t =>
      t.get F.SYS_VIOL_LAST_MASTER = masterId m ∧ t.sys.resp = some (false, 0) ∧
      OnlyRegs [R.SYS_VIOL_CNT, R.SYS_VIOL_LAST] s t ∧
      Only [.regs, .sys, .out] s t) ∧
  (∀ (s : State) (m : Master) (n : Fin 16),
    s.sys.inReset = false ∧ s.mastersRun m = true →
    s.isReceiver n m = true ∧ s.mbxFull n = true →
    Answers (.mbxTake m n) s fun t =>
      t.flag (F.MBX_CHn_STAT_STATE n) = false ∧ Bank.at none t.mbx.goAt n = none ∧
      t.sys.resp = some (false, 0) ∧
      (s.get (F.MBX_CHn_BIND_SND n) = 0 → bit (t.num R.MBX_IRQ_MP) (n + 16) = true) ∧
      OnlyRegs [R.MBX_CHn_STAT n, R.MBX_IRQ_MP] s t ∧
      Only [.regs, .sys, .mbx, .rng, .out] s t) ∧
  (∀ (s : State) (m : Master) (n : Fin 16),
    s.sys.inReset = false ∧ s.mastersRun m = true →
    s.isReceiver n m = true ∧ s.mbxFull n = true →
    s.get (F.MBX_CHn_BIND_SND n) = 2 →
    Answers (.mbxTake m n) s fun t =>
      t.flag (F.MBX_CHn_STAT_STATE n) = false ∧ Bank.at none t.mbx.goAt n = none ∧
      (t.flow (s.get (F.MBX_CHn_BIND_PEER n)) 3).txQueue = (s.flow (s.get (F.MBX_CHn_BIND_PEER n)) 3).txQueue ++ [⟨true, true, leBytes 1 2 ++ leBytes 1 (s.get (F.MBX_CHn_BIND_PCH n)) ++ leBytes 1 n ++ leBytes 1 0, none⟩] ∧
      t.sys.resp = some (false, 0) ∧
      OnlyRegs [R.MBX_CHn_STAT n] s t ∧
      Only [.regs, .sys, .mbx, .rng, .out] s t) ∧
  (∀ (s : State) (m : Master) (n : Fin 16),
    s.sys.inReset = false ∧ s.mastersRun m = true →
    s.isReceiver n m = true ∧ s.mbxFull n = false →
    Answers (.mbxTake m n) s fun t =>
      t.get (F.MBX_CHn_STAT_PERRS n) = satAdd (F.MBX_CHn_STAT_PERRS n).max (s.get (F.MBX_CHn_STAT_PERRS n)) 1 ∧
      t.flag (F.MBX_CHn_STAT_PERR n) = s.flag (F.MBX_CHn_STAT_PERR n) ∧ t.flt = s.flt ∧
      t.sys.resp = some (false, 0) ∧
      OnlyRegs [R.MBX_CHn_STAT n] s t ∧
      Only [.regs, .sys, .out] s t) ∧
  (∀ (s : State) (m : Master) (n : Fin 16),
    s.sys.inReset = false ∧ s.mastersRun m = true →
    s.isReceiver n m = false →
    Answers (.mbxTake m n) s fun t =>
      t.get F.SYS_VIOL_LAST_MASTER = masterId m ∧
      OnlyRegs [R.SYS_VIOL_CNT, R.SYS_VIOL_LAST] s t) ∧
  (∀ (s : State) (src : BitVec 8) (data : List Byte) (n len : Nat),
    s.sys.inReset = false →
    byteAt data 1 = n ∧ byteAt data 3 = len ∧ n < 16 ∧ 1 ≤ len ∧ len ≤ 16 →
    s.isSender n .ra = true ∧ s.get (F.MBX_CHn_BIND_PEER n) = src.toNat ∧ s.get (F.MBX_CHn_BIND_PCH n) = byteAt data 2 ∧ s.mbxFull n = false →
    s.get (F.MBX_CHn_BIND_RCV n) = 0 →
    Answers (.deliverReceived src data) s fun t =>
      t.flag (F.MBX_CHn_STAT_STATE n) = true ∧ t.get (F.MBX_CHn_STAT_LEN n) = len ∧
      (∀ i : Fin 16, i.val < len → t.num (R.MBX_CHn_Di n i) = leAt data (4 + 4 * i) 4 % 2 ^ 32) ∧
      bit (t.num R.MBX_IRQ_MP) n = true ∧
      OnlyRegs ([R.MBX_CHn_STAT n, R.MBX_IRQ_MP] ++ (List.range len).map (R.MBX_CHn_Di n)) s t ∧
      Only [.regs, .mbx, .out] s t) ∧
  (∀ (s : State) (src : BitVec 8) (data : List Byte) (n len : Nat),
    s.sys.inReset = false →
    byteAt data 1 = n ∧ byteAt data 3 = len ∧ n < 16 ∧ 1 ≤ len ∧ len ≤ 16 →
    s.isSender n .ra = true ∧ s.get (F.MBX_CHn_BIND_PEER n) = src.toNat ∧ s.get (F.MBX_CHn_BIND_PCH n) = byteAt data 2 ∧ s.mbxFull n = false →
    s.get (F.MBX_CHn_BIND_RCV n) = 1 ∧ (∀ i : Fin 4, (s.sess i).recv = none) →
    Answers (.deliverReceived src data) s fun t =>
      t.flag (F.MBX_CHn_STAT_STATE n) = true ∧ t.get (F.MBX_CHn_STAT_LEN n) = len ∧
      (∀ i : Fin 16, i.val < len → t.num (R.MBX_CHn_Di n i) = leAt data (4 + 4 * i) 4 % 2 ^ 32) ∧
      OnlyRegs (R.MBX_CHn_STAT n :: (List.range len).map (R.MBX_CHn_Di n)) s t ∧
      Only [.regs, .mbx] s t) ∧
  (∀ (s : State) (src : BitVec 8) (data : List Byte),
    s.sys.inReset = false →
    byteAt data 1 < 16 →
    s.isSender (byteAt data 1) .ra = false ∨ s.mbxFull (byteAt data 1) = true →
    Answers (.deliverReceived src data) s fun t =>
      (t.flow src.toNat 3).txQueue = (s.flow src.toNat 3).txQueue ++ [⟨true, true, leBytes 1 3 ++ leBytes 1 (byteAt data 2) ++ leBytes 1 (byteAt data 1) ++ leBytes 1 0, none⟩] ∧
      Raised s t 0x1202 1 ∧
      t.mbx = s.mbx ∧
      FaultFrame [] s t) ∧
  (∀ (s : State) (src : BitVec 8) (data : List Byte) (n : Nat),
    s.sys.inReset = false →
    byteAt data 1 = n ∧ n < 16 ∧ s.isReceiver n .ra = true ∧ s.mbxFull n = true →
    s.get (F.MBX_CHn_BIND_PEER n) = src.toNat ∧ s.get (F.MBX_CHn_BIND_PCH n) = byteAt data 2 ∧ s.get (F.MBX_CHn_BIND_SND n) = 0 →
    Answers (.takeNoticeReceived src data) s fun t =>
      t.flag (F.MBX_CHn_STAT_STATE n) = false ∧ t.flag (F.MBX_CHn_STAT_NACK n) = s.flag (F.MBX_CHn_STAT_NACK n) ∧
      bit (t.num R.MBX_IRQ_MP) (n + 16) = true ∧ Bank.at none t.mbx.goAt n = none ∧
      OnlyRegs [R.MBX_CHn_STAT n, R.MBX_IRQ_MP] s t ∧
      Only [.regs, .mbx, .out] s t) ∧
  (∀ (s : State) (src : BitVec 8) (data : List Byte) (n : Nat),
    s.sys.inReset = false →
    byteAt data 1 = n ∧ n < 16 ∧ s.isReceiver n .ra = true ∧ s.mbxFull n = true →
    s.get (F.MBX_CHn_BIND_PEER n) = src.toNat ∧ s.get (F.MBX_CHn_BIND_PCH n) = byteAt data 2 ∧ s.get (F.MBX_CHn_BIND_SND n) = 0 →
    Answers (.nackReceived src data) s fun t =>
      t.flag (F.MBX_CHn_STAT_STATE n) = false ∧ t.flag (F.MBX_CHn_STAT_NACK n) = true ∧
      bit (t.num R.MBX_IRQ_MP) (n + 16) = true ∧
      OnlyRegs [R.MBX_CHn_STAT n, R.MBX_IRQ_MP] s t ∧
      Only [.regs, .mbx, .out] s t) ∧
  (∀ (s : State) (src : BitVec 8) (data : List Byte),
    s.sys.inReset = false →
    s.mbxFull (byteAt data 1) = false ∨ s.get (F.MBX_CHn_BIND_PEER (byteAt data 1)) ≠ src.toNat →
    Answers (.nackReceived src data) s fun t =>
      t.rd R.MBX_CNT_STRAY = BitVec.ofNat 32 (satAdd 0xFFFFFFFF (s.num R.MBX_CNT_STRAY) 1) ∧
      OnlyRegs [R.MBX_CNT_STRAY] s t ∧
      Only [.regs] s t) ∧
  (∀ (s : State) (src : BitVec 8) (data : List Byte),
    s.sys.inReset = false →
    s.mbxFull (byteAt data 1) = false ∨ s.get (F.MBX_CHn_BIND_PEER (byteAt data 1)) ≠ src.toNat →
    Answers (.takeNoticeReceived src data) s fun t =>
      t.rd R.MBX_CNT_STRAY = BitVec.ofNat 32 (satAdd 0xFFFFFFFF (s.num R.MBX_CNT_STRAY) 1) ∧
      OnlyRegs [R.MBX_CNT_STRAY] s t ∧
      Only [.regs] s t) ∧
  (∀ (s : State) (n : Fin 16) (go : Word),
    s.sys.inReset = false →
    Bank.at none s.mbx.goAt n = some go ∧ s.flag (F.MBX_CHn_STAT_STATE n) = true →
    s.get F.MBX_CFG_TMO ≤ (s.scn - go).toNat →
    Answers (.mbxTimeout n) s fun t =>
      t.flag (F.MBX_CHn_STAT_TMO n) = true ∧ t.flag (F.MBX_CHn_STAT_STATE n) = false ∧ Bank.at none t.mbx.goAt n = none ∧
      Raised s t 0x1203 0 ∧
      FaultFrame [R.MBX_CHn_STAT n, R.MBX_IRQ_MP] s t) ∧
  (∀ (s : State) (n : Fin 16),
    s.sys.inReset = false →
    Bank.at none s.mbx.goAt n = none ∨ s.flag (F.MBX_CHn_STAT_STATE n) = false →
    Answers (.mbxTimeout n) s fun t =>
      t = s) ∧
  (∀ (s : State),
    s.sys.inReset = false →
    Answers .mbxCntClr s fun t =>
      (∀ n : Fin 16, t.get (F.MBX_CHn_STAT_PERRS n) = 0) ∧
      t.rd R.MBX_CNT_STRAY = 0 ∧
      OnlyRegs (R.MBX_CNT_STRAY :: (List.range 16).map R.MBX_CHn_STAT) s t ∧
      Only [.regs] s t)

/-- A doubleword write to an 8-byte-aligned SRAM address by a master with the right to it stores the eight bytes with
no error left in the word, and does so whatever reading the old word would have found, poison included. A doubleword
access that is not 8-byte aligned is a bus error and raises nothing. (R488) -/
def Obligations.FullWritesStoreWithoutReading : Prop :=
  (∀ (s : State) (m : Master) (a : Word) (v : BitVec 64) (e : Ecc),
    s.sys.inReset = false ∧ s.mastersRun m = true →
    inSram a.toNat = true ∧ a.toNat % 8 = 0 ∧ s.mayStore m a.toNat = true →
    Answers (.sramAccess m true a 8 v e) s fun t =>
      (∀ i : Fin 8, t.byte (a.toNat + i.val) = BitVec.ofNat 8 (v.toNat / 256 ^ i.val % 256)) ∧
      (∀ a', (a' < a.toNat ∨ a.toNat + 8 ≤ a') → t.byte a' = s.byte a') ∧
      t.eccErr a.toNat = none ∧
      (∀ a', a' ≠ a.toNat → t.eccErr a' = s.eccErr a') ∧
      (∀ a2 : Ecc, exec (.sramAccess m true a 8 v a2) s = .next t) ∧
      t.sys.resp = some (false, 0) ∧
      t.regs = s.regs ∧
      Only [.mem, .sys, .memx, .out] s t) ∧
  (∀ (s : State) (m : Master) (write : Bool) (a : Word) (v : BitVec 64) (e : Ecc),
    s.sys.inReset = false ∧ s.mastersRun m = true →
    inSram a.toNat = true ∧ a.toNat % 8 ≠ 0 →
    Answers (.sramAccess m write a 8 v e) s fun t =>
      t.sys.resp = some (true, 0) ∧
      Only [.sys, .out] s t)

/-- When a lane in FRAME has framed training codewords, eight in a row, every lane of its port enters TRAIN, whichever
end began. The command for a lane that is not in FRAME, such as one in UP, changes nothing at all. (R140) -/
def Obligations.TrainingCodewordsTakeThePort : Prop :=
  (∀ (s : State) (p : Fin 5) (l : Fin 2),
    s.sys.inReset = false →
    p.val < 4 ∨ l = 0 →
    s.laneState p l = Lane.frame ∧ (s.lane p l).trained = true ∧ s.mayStart p = true →
    Answers (.frameLock p l) s fun t =>
      t.laneState p l = Lane.train ∧ (∀ k ∈ lanesOf p, t.laneState p k = Lane.train) ∧
      (t.port p).trainAt = s.sys.up ∧
      RegsOff (fun a => faultReg a || a == R.LNK_PORTx_STAT p) s t) ∧
  (∀ (s : State) (p : Fin 5) (l : Fin 2),
    s.laneState p l ≠ Lane.frame →
    Answers (.frameLock p l) s fun t =>
      t = s)

/-- For every command c and state s with c at the front of its queue, step is exec of c on s with the rest of the
queue. That an empty queue lets one base tick of the running node pass, counted since its release, and that nothing
passes in reset, is the model's choice (log entry 1). (R82) -/
def Obligations.StepRunsTheFrontCommand : Prop :=
  (∀ (s : State) (c : Instr) (q : List Instr),
    s.pending = c :: q →
    step s = exec c { s with pending := q }) ∧
  (∀ (s : State),
    s.pending = [] →
    step s = .next (if s.sys.inReset then s else s.tick)) ∧
  (∀ (s : State),
    s.pending = [] ∧ s.sys.inReset = false →
    ∃ t, step s = .next t ∧ t.sys.up = s.sys.up + 1 ∧ t.pending = [])

/-- The node is in reset with its root off and its gates held, nothing waits or has been sent, no command is in
progress, SRAM lists nothing and is in canonical form, no lockout and no vault state stands, and the registers read
the reset values of their tables: SYS_RST_CAUSE shows POR. The vault's and the fuses' registers read zero, which is
the model's choice (log entries 3 and 5). (R71, R74, R78, R91, R120, R182, R212, R426, R482, R496, R549, R568) -/
def Obligations.ResetState : Prop :=
  ∀ (s : State),
    s = State.reset →
    s.Inv ∧ s.sys.inReset = true ∧ s.clk.root = .off ∧ s.pwm.held = true ∧ s.pending = [] ∧ s.out = [] ∧ s.mem = [] ∧ s.flt.lockout = false ∧ s.vault.sec = 0 ∧
      s.rd R.SYS_RST_CAUSE = 1 ∧ s.rd R.CLK_SPREAD = 0xC1C40000 ∧ s.rd R.CLK_SLEW = 0xA ∧ s.rd R.CLK_HOLD = 0x64 ∧ s.rd R.IMG_STAT = 0xF0000 ∧ s.rd R.IMG_SLOT = 0x707 ∧
      s.rd R.IMG_ADM_STAT = 0xFF000000 ∧ s.rd R.IMG_BOOT_MS = 0xFFFFFFFF ∧ s.rd R.RNG_MAP_X = 0xFFFFFFFF ∧ s.rd R.TIM_SC_LEN = 312500 ∧ s.rd R.DPX_STAT = 0xFF0000 ∧
      s.rd R.FLT_STAT = 0xC000 ∧ s.rd R.MEM_SCRUB_END = 0x20FFFFF8 ∧ s.rd R.SUP_UDP = 0xBA6C ∧ s.rd R.SUP_SESS_CFG = 0x3C04 ∧ s.rd R.MBX_CFG = 0xFA0

/-- From every state whose register bank and SRAM are in canonical form and in which no raise of a fabric cycle waits,
a step answers a next state, in which all of that holds again: equal contents stay equal data, and the raises of a
command are taken before it ends, whatever the command. The queue loses its front command only, what has been sent is
never taken back, and a free value is never used twice (log entry 2). The queue, its step and the list of waiting
raises are the model's own (log entry 32). (R13, R14, R460, R484, R564) -/
def Obligations.EveryStepKeepsTheCanonicalForms : Prop :=
  ∀ (s : State),
    s.Inv →
    ∃ t, step s = .next t ∧ t.Inv ∧ t.pending = s.pending.tail ∧ s.out <+: t.out ∧ s.free ≤ t.free

/-- Every command answers a next state. A node in lockout stays in lockout under every command but a power-on reset.
The 48-bit seconds counter of the vault keeps its value under every command but a second of the vault, which adds one,
and the loss of the vault state, after which it is zero: no access and no reset writes it. (R71, R74, R470, R568) -/
def Obligations.LockoutAndVaultSecondsStand : Prop :=
  ∀ (s : State) (c : Instr),
    ∃ t, exec c s = .next t ∧
      (s.flt.lockout = true → t.flt.lockout = false → c = .powerOnReset) ∧
      (t.vault.sec = s.vault.sec ∨ (c = .vaultSecond ∧ t.vault.sec = s.vault.sec + 1) ∨ (c = .vaultStateLost ∧ s.sys.inReset = true ∧ t.vault.sec = 0))

/-- While the node is in reset, every command but those of the reset sources, of the supplies and vault and of the
root PLL leaves it exactly as it was, an idle step included, and every command but the release leaves what it has sent
as it was. Only the release ends the reset. That a command without its condition is ignored is the model's choice (log
entry 4). (R65, R68, R70, R71) -/
def Obligations.NothingRunsInReset : Prop :=
  (∀ (s : State) (c : Instr),
    s.sys.inReset = true →
    ∃ t, exec c s = .next t ∧ (actsInReset c = false → t = s) ∧
      ((∀ x y, c ≠ .releaseOfReset x y) → t.sys.inReset = true ∧ t.out = s.out)) ∧
  (∀ (s : State),
    s.sys.inReset = true ∧ s.pending = [] →
    step s = .next s)
end

