-- ==== Sys2Proof/Laws/Fields.lean ====
section
/-! SUPPORT. Laws/Fields.lean: a field of a register word reads back what was put into it and is not touched by a put into
a field that shares no bit with it. -/
namespace Sys2Proof.Machine

theorem Fld.get_testBit (f : Fld) (w : Word) (i : Nat) :
    (f.get w).testBit i = (decide (i < f.len) && w.getLsbD (f.lo + i)) := by
  simp [Fld.get, Nat.testBit_mod_two_pow, Nat.testBit_shiftRight, BitVec.testBit_toNat]

theorem Fld.getLsbD_mask (f : Fld) (h : f.lo + f.len ≤ 32) (i : Nat) :
    f.mask.getLsbD i = (decide (f.lo ≤ i) && decide (i < f.lo + f.len)) := by
  have e : f.mask.getLsbD i = (decide (i < 32) && ((2 ^ f.len - 1) <<< f.lo).testBit i) := by
    simp [Fld.mask, BitVec.getLsbD_ofNat]
  rw [e, Nat.testBit_shiftLeft, Nat.testBit_two_pow_sub_one]
  by_cases h1 : f.lo ≤ i <;> by_cases h2 : i < f.lo + f.len <;> simp [h1, h2] <;> omega

theorem Fld.getLsbD_put (f : Fld) (h : f.lo + f.len ≤ 32) (w : Word) (v i : Nat) :
    (f.put w v).getLsbD i =
      if f.lo ≤ i ∧ i < f.lo + f.len then v.testBit (i - f.lo) else w.getLsbD i := by
  have e : (BitVec.ofNat 32 ((v % 2 ^ f.len) <<< f.lo)).getLsbD i =
      (decide (i < 32) && ((v % 2 ^ f.len) <<< f.lo).testBit i) := by simp [BitVec.getLsbD_ofNat]
  unfold Fld.put
  rw [BitVec.getLsbD_or, BitVec.getLsbD_and, BitVec.getLsbD_not, Fld.getLsbD_mask f h, e, Nat.testBit_shiftLeft,
    Nat.testBit_mod_two_pow]
  by_cases h32 : i < 32
  · by_cases h1 : f.lo ≤ i <;> by_cases h2 : i < f.lo + f.len <;> simp [h1, h2, h32] <;> intros <;> omega
  · have hw : w.getLsbD i = false := BitVec.getLsbD_of_ge w i (by omega)
    have h2 : ¬ i < f.lo + f.len := by omega
    simp [h32, h2, hw]

/-- What was put into a field is what it reads, cut to the field's width. -/
theorem Fld.get_put_same (f : Fld) (h : f.lo + f.len ≤ 32) (w : Word) (v : Nat) :
    f.get (f.put w v) = v % 2 ^ f.len := by
  apply Nat.eq_of_testBit_eq
  intro i
  rw [Fld.get_testBit, Fld.getLsbD_put f h, Nat.testBit_mod_two_pow]
  by_cases hi : i < f.len
  · have : f.lo ≤ f.lo + i ∧ f.lo + i < f.lo + f.len := ⟨by omega, by omega⟩
    simp [hi]
  · simp [hi]

/-- A put into a field leaves every field that shares no bit with it as it was. -/
theorem Fld.get_put_disjoint (f g : Fld) (h : f.lo + f.len ≤ 32) (hd : g.lo + g.len ≤ f.lo ∨ f.lo + f.len ≤ g.lo)
    (w : Word) (v : Nat) : g.get (f.put w v) = g.get w := by
  apply Nat.eq_of_testBit_eq
  intro i
  rw [Fld.get_testBit, Fld.get_testBit, Fld.getLsbD_put f h]
  by_cases hi : i < g.len
  · have : ¬ (f.lo ≤ g.lo + i ∧ g.lo + i < f.lo + f.len) := by omega
    simp [hi, this]
  · simp [hi]

end Sys2Proof.Machine
end

