-- ==== Sys2Proof/Laws/Sparse.lean ====
section
/-! SUPPORT. Laws/Sparse.lean: the sparse bank reads back what was written, keeps every other key, and keeps its canonical
form; a list in canonical form is fixed by what it reads as. -/
namespace Sys2Proof.Machine

variable {α : Type} {dflt : Nat → α}

theorem Sparse.get_erase_same (l : List (Nat × α)) (a : Nat) :
    Sparse.get dflt (Sparse.erase l a) a = dflt a := by
  induction l with
  | nil => rfl
  | cons e t ih =>
    obtain ⟨k, v⟩ := e
    by_cases h : a = k <;> simp [Sparse.erase, Sparse.get, h] <;> simpa [h] using ih

theorem Sparse.get_erase_other (l : List (Nat × α)) {a b : Nat} (hab : b ≠ a) :
    Sparse.get dflt (Sparse.erase l a) b = Sparse.get dflt l b := by
  induction l with
  | nil => rfl
  | cons e t ih =>
    obtain ⟨k, v⟩ := e
    by_cases h : a = k
    · subst h; simp [Sparse.erase, Sparse.get, hab, ih]
    · by_cases h' : b = k <;> simp [Sparse.erase, Sparse.get, h, h', ih]

/-- No entry of the list has key `a`. -/
def Sparse.Free (l : List (Nat × α)) (a : Nat) : Prop := ∀ e ∈ l, e.1 ≠ a

theorem Sparse.erase_free (l : List (Nat × α)) (a : Nat) : Sparse.Free (Sparse.erase l a) a := by
  induction l with
  | nil => intro e he; cases he
  | cons e t ih =>
    obtain ⟨k, v⟩ := e
    by_cases h : a = k
    · simpa [Sparse.erase, h] using (h ▸ ih)
    · intro e he
      simp only [Sparse.erase, h, if_false, List.mem_cons] at he
      rcases he with rfl | he
      · exact fun hk => h hk.symm
      · exact ih e he

theorem Sparse.get_insert_same (l : List (Nat × α)) (a : Nat) (v : α) (h : Sparse.Free l a) :
    Sparse.get dflt (Sparse.insert l a v) a = v := by
  induction l with
  | nil => simp [Sparse.insert, Sparse.get]
  | cons e t ih =>
    obtain ⟨k, w⟩ := e
    have hk : k ≠ a := h (k, w) (by simp)
    have ht : Sparse.Free t a := fun e he => h e (by simp [he])
    by_cases hlt : a < k
    · simp [Sparse.insert, Sparse.get, hlt]
    · simp [Sparse.insert, Sparse.get, hlt, Ne.symm hk, ih ht]

theorem Sparse.get_insert_other (l : List (Nat × α)) {a b : Nat} (v : α) (hab : b ≠ a) :
    Sparse.get dflt (Sparse.insert l a v) b = Sparse.get dflt l b := by
  induction l with
  | nil => simp [Sparse.insert, Sparse.get, hab]
  | cons e t ih =>
    obtain ⟨k, w⟩ := e
    by_cases hlt : a < k
    · simp [Sparse.insert, Sparse.get, hlt, hab]
    · by_cases h' : b = k <;> simp [Sparse.insert, Sparse.get, hlt, h', ih]

theorem Sparse.mem_erase {l : List (Nat × α)} {a : Nat} {e : Nat × α} (h : e ∈ Sparse.erase l a) : e ∈ l := by
  induction l with
  | nil => cases h
  | cons x t ih =>
    obtain ⟨k, v⟩ := x
    by_cases hk : a = k
    · simp only [Sparse.erase, hk, if_true] at h
      exact List.mem_cons_of_mem _ (ih (hk ▸ h))
    · simp only [Sparse.erase, hk, if_false, List.mem_cons] at h
      rcases h with rfl | h
      · exact List.mem_cons_self
      · exact List.mem_cons_of_mem _ (ih h)

theorem Sparse.mem_insert {l : List (Nat × α)} {a : Nat} {v : α} {e : Nat × α} (h : e ∈ Sparse.insert l a v) :
    e = (a, v) ∨ e ∈ l := by
  induction l with
  | nil => simpa [Sparse.insert] using h
  | cons x t ih =>
    obtain ⟨k, w⟩ := x
    simp only [Sparse.insert] at h
    split at h
    · simpa using h
    · simp only [List.mem_cons] at h ⊢
      rcases h with rfl | h
      · exact .inr (.inl rfl)
      · rcases ih h with h | h
        · exact .inl h
        · exact .inr (.inr h)

variable [DecidableEq α]

/-- A read after a write to the same key gives the value written. -/
theorem Sparse.get_set_same (l : List (Nat × α)) (a : Nat) (v : α) :
    Sparse.get dflt (Sparse.set dflt l a v) a = v := by
  unfold Sparse.set
  split
  · next h => rw [Sparse.get_erase_same, h]
  · exact Sparse.get_insert_same _ _ _ (Sparse.erase_free l a)

/-- A write leaves every other key alone. -/
theorem Sparse.get_set_other (l : List (Nat × α)) {a b : Nat} (v : α) (hab : b ≠ a) :
    Sparse.get dflt (Sparse.set dflt l a v) b = Sparse.get dflt l b := by
  unfold Sparse.set
  split
  · exact Sparse.get_erase_other l hab
  · rw [Sparse.get_insert_other _ _ hab, Sparse.get_erase_other l hab]

theorem Sparse.wf_cons {k : Nat} {v : α} {t : List (Nat × α)} :
    Sparse.wf dflt ((k, v) :: t) = true ↔ (∀ e ∈ t, k < e.1) ∧ v ≠ dflt k ∧ Sparse.wf dflt t = true := by
  simp [Sparse.wf, and_assoc]

theorem Sparse.wf_erase (l : List (Nat × α)) (a : Nat) (h : Sparse.wf dflt l = true) :
    Sparse.wf dflt (Sparse.erase l a) = true := by
  induction l with
  | nil => rfl
  | cons x t ih =>
    obtain ⟨k, v⟩ := x
    obtain ⟨h1, h2, h3⟩ := Sparse.wf_cons.1 h
    simp only [Sparse.erase]
    split
    · exact ih h3
    · exact Sparse.wf_cons.2 ⟨fun e he => h1 e (Sparse.mem_erase he), h2, ih h3⟩

theorem Sparse.wf_insert (l : List (Nat × α)) (a : Nat) (v : α) (hv : v ≠ dflt a) (hf : Sparse.Free l a)
    (h : Sparse.wf dflt l = true) : Sparse.wf dflt (Sparse.insert l a v) = true := by
  induction l with
  | nil => simp [Sparse.insert, Sparse.wf, hv]
  | cons x t ih =>
    obtain ⟨k, w⟩ := x
    obtain ⟨h1, h2, h3⟩ := Sparse.wf_cons.1 h
    have hk : k ≠ a := hf (k, w) (by simp)
    simp only [Sparse.insert]
    split
    · next hlt =>
      refine Sparse.wf_cons.2 ⟨fun e he => ?_, hv, h⟩
      rcases List.mem_cons.1 he with rfl | he
      · exact hlt
      · exact Nat.lt_trans hlt (h1 e he)
    · next hlt =>
      refine Sparse.wf_cons.2 ⟨fun e he => ?_, h2, ih (fun e he => hf e (by simp [he])) h3⟩
      rcases Sparse.mem_insert he with rfl | he
      · show k < a; omega
      · exact h1 e he

/-- Every write keeps the canonical form. -/
theorem Sparse.wf_set (l : List (Nat × α)) (a : Nat) (v : α) (h : Sparse.wf dflt l = true) :
    Sparse.wf dflt (Sparse.set dflt l a v) = true := by
  unfold Sparse.set
  split
  · exact Sparse.wf_erase l a h
  · next hv => exact Sparse.wf_insert _ a v hv (Sparse.erase_free l a) (Sparse.wf_erase l a h)

/-- Keeping a part of the entries keeps the canonical form. -/
theorem Sparse.wf_filter (l : List (Nat × α)) (p : Nat × α → Bool) (h : Sparse.wf dflt l = true) :
    Sparse.wf dflt (l.filter p) = true := by
  induction l with
  | nil => rfl
  | cons x t ih =>
    obtain ⟨k, v⟩ := x
    obtain ⟨h1, h2, h3⟩ := Sparse.wf_cons.1 h
    simp only [List.filter]
    split
    · exact Sparse.wf_cons.2 ⟨fun e he => h1 e (List.mem_filter.1 he).1, h2, ih h3⟩
    · exact ih h3

end Sys2Proof.Machine
end

