-- ==== Sys2Proof/Laws/State.lean ====
section
/-! SUPPORT. Laws/State.lean: what each basic update of the state leaves alone, one lemma per field and update, and what
registers, fields and SRAM bytes read after a write. -/
namespace Sys2Proof.Machine

/-! ### One lemma per field per update -/

@[simp] theorem wr_mem (s : State) (a : Nat) (v : Word) : (s.wr a v).mem = s.mem := rfl
@[simp] theorem wr_sys (s : State) (a : Nat) (v : Word) : (s.wr a v).sys = s.sys := rfl
@[simp] theorem wr_vault (s : State) (a : Nat) (v : Word) : (s.wr a v).vault = s.vault := rfl
@[simp] theorem wr_clk (s : State) (a : Nat) (v : Word) : (s.wr a v).clk = s.clk := rfl
@[simp] theorem wr_flash (s : State) (a : Nat) (v : Word) : (s.wr a v).flash = s.flash := rfl
@[simp] theorem wr_vendorKey (s : State) (a : Nat) (v : Word) : (s.wr a v).vendorKey = s.vendorKey := rfl
@[simp] theorem wr_fuse (s : State) (a : Nat) (v : Word) : (s.wr a v).fuse = s.fuse := rfl
@[simp] theorem wr_img (s : State) (a : Nat) (v : Word) : (s.wr a v).img = s.img := rfl
@[simp] theorem wr_lnk (s : State) (a : Nat) (v : Word) : (s.wr a v).lnk = s.lnk := rfl
@[simp] theorem wr_rng (s : State) (a : Nat) (v : Word) : (s.wr a v).rng = s.rng := rfl
@[simp] theorem wr_tim (s : State) (a : Nat) (v : Word) : (s.wr a v).tim = s.tim := rfl
@[simp] theorem wr_pwm (s : State) (a : Nat) (v : Word) : (s.wr a v).pwm = s.pwm := rfl
@[simp] theorem wr_gd (s : State) (a : Nat) (v : Word) : (s.wr a v).gd = s.gd := rfl
@[simp] theorem wr_dpx (s : State) (a : Nat) (v : Word) : (s.wr a v).dpx = s.dpx := rfl
@[simp] theorem wr_flt (s : State) (a : Nat) (v : Word) : (s.wr a v).flt = s.flt := rfl
@[simp] theorem wr_eng (s : State) (a : Nat) (v : Word) : (s.wr a v).eng = s.eng := rfl
@[simp] theorem wr_adc (s : State) (a : Nat) (v : Word) : (s.wr a v).adc = s.adc := rfl
@[simp] theorem wr_memx (s : State) (a : Nat) (v : Word) : (s.wr a v).memx = s.memx := rfl
@[simp] theorem wr_thm (s : State) (a : Nat) (v : Word) : (s.wr a v).thm = s.thm := rfl
@[simp] theorem wr_bal (s : State) (a : Nat) (v : Word) : (s.wr a v).bal = s.bal := rfl
@[simp] theorem wr_saf (s : State) (a : Nat) (v : Word) : (s.wr a v).saf = s.saf := rfl
@[simp] theorem wr_sup (s : State) (a : Nat) (v : Word) : (s.wr a v).sup = s.sup := rfl
@[simp] theorem wr_mbx (s : State) (a : Nat) (v : Word) : (s.wr a v).mbx = s.mbx := rfl
@[simp] theorem wr_mtr (s : State) (a : Nat) (v : Word) : (s.wr a v).mtr = s.mtr := rfl
@[simp] theorem wr_raises (s : State) (a : Nat) (v : Word) : (s.wr a v).raises = s.raises := rfl
@[simp] theorem wr_out (s : State) (a : Nat) (v : Word) : (s.wr a v).out = s.out := rfl
@[simp] theorem wr_free (s : State) (a : Nat) (v : Word) : (s.wr a v).free = s.free := rfl
@[simp] theorem wr_pending (s : State) (a : Nat) (v : Word) : (s.wr a v).pending = s.pending := rfl
@[simp] theorem put_mem (s : State) (f : Fld) (v : Nat) : (s.put f v).mem = s.mem := rfl
@[simp] theorem put_sys (s : State) (f : Fld) (v : Nat) : (s.put f v).sys = s.sys := rfl
@[simp] theorem put_vault (s : State) (f : Fld) (v : Nat) : (s.put f v).vault = s.vault := rfl
@[simp] theorem put_clk (s : State) (f : Fld) (v : Nat) : (s.put f v).clk = s.clk := rfl
@[simp] theorem put_flash (s : State) (f : Fld) (v : Nat) : (s.put f v).flash = s.flash := rfl
@[simp] theorem put_vendorKey (s : State) (f : Fld) (v : Nat) : (s.put f v).vendorKey = s.vendorKey := rfl
@[simp] theorem put_fuse (s : State) (f : Fld) (v : Nat) : (s.put f v).fuse = s.fuse := rfl
@[simp] theorem put_img (s : State) (f : Fld) (v : Nat) : (s.put f v).img = s.img := rfl
@[simp] theorem put_lnk (s : State) (f : Fld) (v : Nat) : (s.put f v).lnk = s.lnk := rfl
@[simp] theorem put_rng (s : State) (f : Fld) (v : Nat) : (s.put f v).rng = s.rng := rfl
@[simp] theorem put_tim (s : State) (f : Fld) (v : Nat) : (s.put f v).tim = s.tim := rfl
@[simp] theorem put_pwm (s : State) (f : Fld) (v : Nat) : (s.put f v).pwm = s.pwm := rfl
@[simp] theorem put_gd (s : State) (f : Fld) (v : Nat) : (s.put f v).gd = s.gd := rfl
@[simp] theorem put_dpx (s : State) (f : Fld) (v : Nat) : (s.put f v).dpx = s.dpx := rfl
@[simp] theorem put_flt (s : State) (f : Fld) (v : Nat) : (s.put f v).flt = s.flt := rfl
@[simp] theorem put_eng (s : State) (f : Fld) (v : Nat) : (s.put f v).eng = s.eng := rfl
@[simp] theorem put_adc (s : State) (f : Fld) (v : Nat) : (s.put f v).adc = s.adc := rfl
@[simp] theorem put_memx (s : State) (f : Fld) (v : Nat) : (s.put f v).memx = s.memx := rfl
@[simp] theorem put_thm (s : State) (f : Fld) (v : Nat) : (s.put f v).thm = s.thm := rfl
@[simp] theorem put_bal (s : State) (f : Fld) (v : Nat) : (s.put f v).bal = s.bal := rfl
@[simp] theorem put_saf (s : State) (f : Fld) (v : Nat) : (s.put f v).saf = s.saf := rfl
@[simp] theorem put_sup (s : State) (f : Fld) (v : Nat) : (s.put f v).sup = s.sup := rfl
@[simp] theorem put_mbx (s : State) (f : Fld) (v : Nat) : (s.put f v).mbx = s.mbx := rfl
@[simp] theorem put_mtr (s : State) (f : Fld) (v : Nat) : (s.put f v).mtr = s.mtr := rfl
@[simp] theorem put_raises (s : State) (f : Fld) (v : Nat) : (s.put f v).raises = s.raises := rfl
@[simp] theorem put_out (s : State) (f : Fld) (v : Nat) : (s.put f v).out = s.out := rfl
@[simp] theorem put_free (s : State) (f : Fld) (v : Nat) : (s.put f v).free = s.free := rfl
@[simp] theorem put_pending (s : State) (f : Fld) (v : Nat) : (s.put f v).pending = s.pending := rfl
@[simp] theorem setFlag_mem (s : State) (f : Fld) (b : Bool) : (s.setFlag f b).mem = s.mem := rfl
@[simp] theorem setFlag_sys (s : State) (f : Fld) (b : Bool) : (s.setFlag f b).sys = s.sys := rfl
@[simp] theorem setFlag_vault (s : State) (f : Fld) (b : Bool) : (s.setFlag f b).vault = s.vault := rfl
@[simp] theorem setFlag_clk (s : State) (f : Fld) (b : Bool) : (s.setFlag f b).clk = s.clk := rfl
@[simp] theorem setFlag_flash (s : State) (f : Fld) (b : Bool) : (s.setFlag f b).flash = s.flash := rfl
@[simp] theorem setFlag_vendorKey (s : State) (f : Fld) (b : Bool) : (s.setFlag f b).vendorKey = s.vendorKey := rfl
@[simp] theorem setFlag_fuse (s : State) (f : Fld) (b : Bool) : (s.setFlag f b).fuse = s.fuse := rfl
@[simp] theorem setFlag_img (s : State) (f : Fld) (b : Bool) : (s.setFlag f b).img = s.img := rfl
@[simp] theorem setFlag_lnk (s : State) (f : Fld) (b : Bool) : (s.setFlag f b).lnk = s.lnk := rfl
@[simp] theorem setFlag_rng (s : State) (f : Fld) (b : Bool) : (s.setFlag f b).rng = s.rng := rfl
@[simp] theorem setFlag_tim (s : State) (f : Fld) (b : Bool) : (s.setFlag f b).tim = s.tim := rfl
@[simp] theorem setFlag_pwm (s : State) (f : Fld) (b : Bool) : (s.setFlag f b).pwm = s.pwm := rfl
@[simp] theorem setFlag_gd (s : State) (f : Fld) (b : Bool) : (s.setFlag f b).gd = s.gd := rfl
@[simp] theorem setFlag_dpx (s : State) (f : Fld) (b : Bool) : (s.setFlag f b).dpx = s.dpx := rfl
@[simp] theorem setFlag_flt (s : State) (f : Fld) (b : Bool) : (s.setFlag f b).flt = s.flt := rfl
@[simp] theorem setFlag_eng (s : State) (f : Fld) (b : Bool) : (s.setFlag f b).eng = s.eng := rfl
@[simp] theorem setFlag_adc (s : State) (f : Fld) (b : Bool) : (s.setFlag f b).adc = s.adc := rfl
@[simp] theorem setFlag_memx (s : State) (f : Fld) (b : Bool) : (s.setFlag f b).memx = s.memx := rfl
@[simp] theorem setFlag_thm (s : State) (f : Fld) (b : Bool) : (s.setFlag f b).thm = s.thm := rfl
@[simp] theorem setFlag_bal (s : State) (f : Fld) (b : Bool) : (s.setFlag f b).bal = s.bal := rfl
@[simp] theorem setFlag_saf (s : State) (f : Fld) (b : Bool) : (s.setFlag f b).saf = s.saf := rfl
@[simp] theorem setFlag_sup (s : State) (f : Fld) (b : Bool) : (s.setFlag f b).sup = s.sup := rfl
@[simp] theorem setFlag_mbx (s : State) (f : Fld) (b : Bool) : (s.setFlag f b).mbx = s.mbx := rfl
@[simp] theorem setFlag_mtr (s : State) (f : Fld) (b : Bool) : (s.setFlag f b).mtr = s.mtr := rfl
@[simp] theorem setFlag_raises (s : State) (f : Fld) (b : Bool) : (s.setFlag f b).raises = s.raises := rfl
@[simp] theorem setFlag_out (s : State) (f : Fld) (b : Bool) : (s.setFlag f b).out = s.out := rfl
@[simp] theorem setFlag_free (s : State) (f : Fld) (b : Bool) : (s.setFlag f b).free = s.free := rfl
@[simp] theorem setFlag_pending (s : State) (f : Fld) (b : Bool) : (s.setFlag f b).pending = s.pending := rfl
@[simp] theorem bump_mem (s : State) (f : Fld) (n : Nat) : (s.bump f n).mem = s.mem := rfl
@[simp] theorem bump_sys (s : State) (f : Fld) (n : Nat) : (s.bump f n).sys = s.sys := rfl
@[simp] theorem bump_vault (s : State) (f : Fld) (n : Nat) : (s.bump f n).vault = s.vault := rfl
@[simp] theorem bump_clk (s : State) (f : Fld) (n : Nat) : (s.bump f n).clk = s.clk := rfl
@[simp] theorem bump_flash (s : State) (f : Fld) (n : Nat) : (s.bump f n).flash = s.flash := rfl
@[simp] theorem bump_vendorKey (s : State) (f : Fld) (n : Nat) : (s.bump f n).vendorKey = s.vendorKey := rfl
@[simp] theorem bump_fuse (s : State) (f : Fld) (n : Nat) : (s.bump f n).fuse = s.fuse := rfl
@[simp] theorem bump_img (s : State) (f : Fld) (n : Nat) : (s.bump f n).img = s.img := rfl
@[simp] theorem bump_lnk (s : State) (f : Fld) (n : Nat) : (s.bump f n).lnk = s.lnk := rfl
@[simp] theorem bump_rng (s : State) (f : Fld) (n : Nat) : (s.bump f n).rng = s.rng := rfl
@[simp] theorem bump_tim (s : State) (f : Fld) (n : Nat) : (s.bump f n).tim = s.tim := rfl
@[simp] theorem bump_pwm (s : State) (f : Fld) (n : Nat) : (s.bump f n).pwm = s.pwm := rfl
@[simp] theorem bump_gd (s : State) (f : Fld) (n : Nat) : (s.bump f n).gd = s.gd := rfl
@[simp] theorem bump_dpx (s : State) (f : Fld) (n : Nat) : (s.bump f n).dpx = s.dpx := rfl
@[simp] theorem bump_flt (s : State) (f : Fld) (n : Nat) : (s.bump f n).flt = s.flt := rfl
@[simp] theorem bump_eng (s : State) (f : Fld) (n : Nat) : (s.bump f n).eng = s.eng := rfl
@[simp] theorem bump_adc (s : State) (f : Fld) (n : Nat) : (s.bump f n).adc = s.adc := rfl
@[simp] theorem bump_memx (s : State) (f : Fld) (n : Nat) : (s.bump f n).memx = s.memx := rfl
@[simp] theorem bump_thm (s : State) (f : Fld) (n : Nat) : (s.bump f n).thm = s.thm := rfl
@[simp] theorem bump_bal (s : State) (f : Fld) (n : Nat) : (s.bump f n).bal = s.bal := rfl
@[simp] theorem bump_saf (s : State) (f : Fld) (n : Nat) : (s.bump f n).saf = s.saf := rfl
@[simp] theorem bump_sup (s : State) (f : Fld) (n : Nat) : (s.bump f n).sup = s.sup := rfl
@[simp] theorem bump_mbx (s : State) (f : Fld) (n : Nat) : (s.bump f n).mbx = s.mbx := rfl
@[simp] theorem bump_mtr (s : State) (f : Fld) (n : Nat) : (s.bump f n).mtr = s.mtr := rfl
@[simp] theorem bump_raises (s : State) (f : Fld) (n : Nat) : (s.bump f n).raises = s.raises := rfl
@[simp] theorem bump_out (s : State) (f : Fld) (n : Nat) : (s.bump f n).out = s.out := rfl
@[simp] theorem bump_free (s : State) (f : Fld) (n : Nat) : (s.bump f n).free = s.free := rfl
@[simp] theorem bump_pending (s : State) (f : Fld) (n : Nat) : (s.bump f n).pending = s.pending := rfl
@[simp] theorem bumpWrap_mem (s : State) (f : Fld) (n : Nat) : (s.bumpWrap f n).mem = s.mem := rfl
@[simp] theorem bumpWrap_sys (s : State) (f : Fld) (n : Nat) : (s.bumpWrap f n).sys = s.sys := rfl
@[simp] theorem bumpWrap_vault (s : State) (f : Fld) (n : Nat) : (s.bumpWrap f n).vault = s.vault := rfl
@[simp] theorem bumpWrap_clk (s : State) (f : Fld) (n : Nat) : (s.bumpWrap f n).clk = s.clk := rfl
@[simp] theorem bumpWrap_flash (s : State) (f : Fld) (n : Nat) : (s.bumpWrap f n).flash = s.flash := rfl
@[simp] theorem bumpWrap_vendorKey (s : State) (f : Fld) (n : Nat) : (s.bumpWrap f n).vendorKey = s.vendorKey := rfl
@[simp] theorem bumpWrap_fuse (s : State) (f : Fld) (n : Nat) : (s.bumpWrap f n).fuse = s.fuse := rfl
@[simp] theorem bumpWrap_img (s : State) (f : Fld) (n : Nat) : (s.bumpWrap f n).img = s.img := rfl
@[simp] theorem bumpWrap_lnk (s : State) (f : Fld) (n : Nat) : (s.bumpWrap f n).lnk = s.lnk := rfl
@[simp] theorem bumpWrap_rng (s : State) (f : Fld) (n : Nat) : (s.bumpWrap f n).rng = s.rng := rfl
@[simp] theorem bumpWrap_tim (s : State) (f : Fld) (n : Nat) : (s.bumpWrap f n).tim = s.tim := rfl
@[simp] theorem bumpWrap_pwm (s : State) (f : Fld) (n : Nat) : (s.bumpWrap f n).pwm = s.pwm := rfl
@[simp] theorem bumpWrap_gd (s : State) (f : Fld) (n : Nat) : (s.bumpWrap f n).gd = s.gd := rfl
@[simp] theorem bumpWrap_dpx (s : State) (f : Fld) (n : Nat) : (s.bumpWrap f n).dpx = s.dpx := rfl
@[simp] theorem bumpWrap_flt (s : State) (f : Fld) (n : Nat) : (s.bumpWrap f n).flt = s.flt := rfl
@[simp] theorem bumpWrap_eng (s : State) (f : Fld) (n : Nat) : (s.bumpWrap f n).eng = s.eng := rfl
@[simp] theorem bumpWrap_adc (s : State) (f : Fld) (n : Nat) : (s.bumpWrap f n).adc = s.adc := rfl
@[simp] theorem bumpWrap_memx (s : State) (f : Fld) (n : Nat) : (s.bumpWrap f n).memx = s.memx := rfl
@[simp] theorem bumpWrap_thm (s : State) (f : Fld) (n : Nat) : (s.bumpWrap f n).thm = s.thm := rfl
@[simp] theorem bumpWrap_bal (s : State) (f : Fld) (n : Nat) : (s.bumpWrap f n).bal = s.bal := rfl
@[simp] theorem bumpWrap_saf (s : State) (f : Fld) (n : Nat) : (s.bumpWrap f n).saf = s.saf := rfl
@[simp] theorem bumpWrap_sup (s : State) (f : Fld) (n : Nat) : (s.bumpWrap f n).sup = s.sup := rfl
@[simp] theorem bumpWrap_mbx (s : State) (f : Fld) (n : Nat) : (s.bumpWrap f n).mbx = s.mbx := rfl
@[simp] theorem bumpWrap_mtr (s : State) (f : Fld) (n : Nat) : (s.bumpWrap f n).mtr = s.mtr := rfl
@[simp] theorem bumpWrap_raises (s : State) (f : Fld) (n : Nat) : (s.bumpWrap f n).raises = s.raises := rfl
@[simp] theorem bumpWrap_out (s : State) (f : Fld) (n : Nat) : (s.bumpWrap f n).out = s.out := rfl
@[simp] theorem bumpWrap_free (s : State) (f : Fld) (n : Nat) : (s.bumpWrap f n).free = s.free := rfl
@[simp] theorem bumpWrap_pending (s : State) (f : Fld) (n : Nat) : (s.bumpWrap f n).pending = s.pending := rfl
@[simp] theorem bumpReg_mem (s : State) (a n : Nat) : (s.bumpReg a n).mem = s.mem := rfl
@[simp] theorem bumpReg_sys (s : State) (a n : Nat) : (s.bumpReg a n).sys = s.sys := rfl
@[simp] theorem bumpReg_vault (s : State) (a n : Nat) : (s.bumpReg a n).vault = s.vault := rfl
@[simp] theorem bumpReg_clk (s : State) (a n : Nat) : (s.bumpReg a n).clk = s.clk := rfl
@[simp] theorem bumpReg_flash (s : State) (a n : Nat) : (s.bumpReg a n).flash = s.flash := rfl
@[simp] theorem bumpReg_vendorKey (s : State) (a n : Nat) : (s.bumpReg a n).vendorKey = s.vendorKey := rfl
@[simp] theorem bumpReg_fuse (s : State) (a n : Nat) : (s.bumpReg a n).fuse = s.fuse := rfl
@[simp] theorem bumpReg_img (s : State) (a n : Nat) : (s.bumpReg a n).img = s.img := rfl
@[simp] theorem bumpReg_lnk (s : State) (a n : Nat) : (s.bumpReg a n).lnk = s.lnk := rfl
@[simp] theorem bumpReg_rng (s : State) (a n : Nat) : (s.bumpReg a n).rng = s.rng := rfl
@[simp] theorem bumpReg_tim (s : State) (a n : Nat) : (s.bumpReg a n).tim = s.tim := rfl
@[simp] theorem bumpReg_pwm (s : State) (a n : Nat) : (s.bumpReg a n).pwm = s.pwm := rfl
@[simp] theorem bumpReg_gd (s : State) (a n : Nat) : (s.bumpReg a n).gd = s.gd := rfl
@[simp] theorem bumpReg_dpx (s : State) (a n : Nat) : (s.bumpReg a n).dpx = s.dpx := rfl
@[simp] theorem bumpReg_flt (s : State) (a n : Nat) : (s.bumpReg a n).flt = s.flt := rfl
@[simp] theorem bumpReg_eng (s : State) (a n : Nat) : (s.bumpReg a n).eng = s.eng := rfl
@[simp] theorem bumpReg_adc (s : State) (a n : Nat) : (s.bumpReg a n).adc = s.adc := rfl
@[simp] theorem bumpReg_memx (s : State) (a n : Nat) : (s.bumpReg a n).memx = s.memx := rfl
@[simp] theorem bumpReg_thm (s : State) (a n : Nat) : (s.bumpReg a n).thm = s.thm := rfl
@[simp] theorem bumpReg_bal (s : State) (a n : Nat) : (s.bumpReg a n).bal = s.bal := rfl
@[simp] theorem bumpReg_saf (s : State) (a n : Nat) : (s.bumpReg a n).saf = s.saf := rfl
@[simp] theorem bumpReg_sup (s : State) (a n : Nat) : (s.bumpReg a n).sup = s.sup := rfl
@[simp] theorem bumpReg_mbx (s : State) (a n : Nat) : (s.bumpReg a n).mbx = s.mbx := rfl
@[simp] theorem bumpReg_mtr (s : State) (a n : Nat) : (s.bumpReg a n).mtr = s.mtr := rfl
@[simp] theorem bumpReg_raises (s : State) (a n : Nat) : (s.bumpReg a n).raises = s.raises := rfl
@[simp] theorem bumpReg_out (s : State) (a n : Nat) : (s.bumpReg a n).out = s.out := rfl
@[simp] theorem bumpReg_free (s : State) (a n : Nat) : (s.bumpReg a n).free = s.free := rfl
@[simp] theorem bumpReg_pending (s : State) (a n : Nat) : (s.bumpReg a n).pending = s.pending := rfl
@[simp] theorem wrN_mem (s : State) (a v : Nat) : (s.wrN a v).mem = s.mem := rfl
@[simp] theorem wrN_sys (s : State) (a v : Nat) : (s.wrN a v).sys = s.sys := rfl
@[simp] theorem wrN_vault (s : State) (a v : Nat) : (s.wrN a v).vault = s.vault := rfl
@[simp] theorem wrN_clk (s : State) (a v : Nat) : (s.wrN a v).clk = s.clk := rfl
@[simp] theorem wrN_flash (s : State) (a v : Nat) : (s.wrN a v).flash = s.flash := rfl
@[simp] theorem wrN_vendorKey (s : State) (a v : Nat) : (s.wrN a v).vendorKey = s.vendorKey := rfl
@[simp] theorem wrN_fuse (s : State) (a v : Nat) : (s.wrN a v).fuse = s.fuse := rfl
@[simp] theorem wrN_img (s : State) (a v : Nat) : (s.wrN a v).img = s.img := rfl
@[simp] theorem wrN_lnk (s : State) (a v : Nat) : (s.wrN a v).lnk = s.lnk := rfl
@[simp] theorem wrN_rng (s : State) (a v : Nat) : (s.wrN a v).rng = s.rng := rfl
@[simp] theorem wrN_tim (s : State) (a v : Nat) : (s.wrN a v).tim = s.tim := rfl
@[simp] theorem wrN_pwm (s : State) (a v : Nat) : (s.wrN a v).pwm = s.pwm := rfl
@[simp] theorem wrN_gd (s : State) (a v : Nat) : (s.wrN a v).gd = s.gd := rfl
@[simp] theorem wrN_dpx (s : State) (a v : Nat) : (s.wrN a v).dpx = s.dpx := rfl
@[simp] theorem wrN_flt (s : State) (a v : Nat) : (s.wrN a v).flt = s.flt := rfl
@[simp] theorem wrN_eng (s : State) (a v : Nat) : (s.wrN a v).eng = s.eng := rfl
@[simp] theorem wrN_adc (s : State) (a v : Nat) : (s.wrN a v).adc = s.adc := rfl
@[simp] theorem wrN_memx (s : State) (a v : Nat) : (s.wrN a v).memx = s.memx := rfl
@[simp] theorem wrN_thm (s : State) (a v : Nat) : (s.wrN a v).thm = s.thm := rfl
@[simp] theorem wrN_bal (s : State) (a v : Nat) : (s.wrN a v).bal = s.bal := rfl
@[simp] theorem wrN_saf (s : State) (a v : Nat) : (s.wrN a v).saf = s.saf := rfl
@[simp] theorem wrN_sup (s : State) (a v : Nat) : (s.wrN a v).sup = s.sup := rfl
@[simp] theorem wrN_mbx (s : State) (a v : Nat) : (s.wrN a v).mbx = s.mbx := rfl
@[simp] theorem wrN_mtr (s : State) (a v : Nat) : (s.wrN a v).mtr = s.mtr := rfl
@[simp] theorem wrN_raises (s : State) (a v : Nat) : (s.wrN a v).raises = s.raises := rfl
@[simp] theorem wrN_out (s : State) (a v : Nat) : (s.wrN a v).out = s.out := rfl
@[simp] theorem wrN_free (s : State) (a v : Nat) : (s.wrN a v).free = s.free := rfl
@[simp] theorem wrN_pending (s : State) (a v : Nat) : (s.wrN a v).pending = s.pending := rfl
@[simp] theorem setByte_regs (s : State) (a : Nat) (v : Byte) : (s.setByte a v).regs = s.regs := rfl
@[simp] theorem setByte_sys (s : State) (a : Nat) (v : Byte) : (s.setByte a v).sys = s.sys := rfl
@[simp] theorem setByte_vault (s : State) (a : Nat) (v : Byte) : (s.setByte a v).vault = s.vault := rfl
@[simp] theorem setByte_clk (s : State) (a : Nat) (v : Byte) : (s.setByte a v).clk = s.clk := rfl
@[simp] theorem setByte_flash (s : State) (a : Nat) (v : Byte) : (s.setByte a v).flash = s.flash := rfl
@[simp] theorem setByte_vendorKey (s : State) (a : Nat) (v : Byte) : (s.setByte a v).vendorKey = s.vendorKey := rfl
@[simp] theorem setByte_fuse (s : State) (a : Nat) (v : Byte) : (s.setByte a v).fuse = s.fuse := rfl
@[simp] theorem setByte_img (s : State) (a : Nat) (v : Byte) : (s.setByte a v).img = s.img := rfl
@[simp] theorem setByte_lnk (s : State) (a : Nat) (v : Byte) : (s.setByte a v).lnk = s.lnk := rfl
@[simp] theorem setByte_rng (s : State) (a : Nat) (v : Byte) : (s.setByte a v).rng = s.rng := rfl
@[simp] theorem setByte_tim (s : State) (a : Nat) (v : Byte) : (s.setByte a v).tim = s.tim := rfl
@[simp] theorem setByte_pwm (s : State) (a : Nat) (v : Byte) : (s.setByte a v).pwm = s.pwm := rfl
@[simp] theorem setByte_gd (s : State) (a : Nat) (v : Byte) : (s.setByte a v).gd = s.gd := rfl
@[simp] theorem setByte_dpx (s : State) (a : Nat) (v : Byte) : (s.setByte a v).dpx = s.dpx := rfl
@[simp] theorem setByte_flt (s : State) (a : Nat) (v : Byte) : (s.setByte a v).flt = s.flt := rfl
@[simp] theorem setByte_eng (s : State) (a : Nat) (v : Byte) : (s.setByte a v).eng = s.eng := rfl
@[simp] theorem setByte_adc (s : State) (a : Nat) (v : Byte) : (s.setByte a v).adc = s.adc := rfl
@[simp] theorem setByte_memx (s : State) (a : Nat) (v : Byte) : (s.setByte a v).memx = s.memx := rfl
@[simp] theorem setByte_thm (s : State) (a : Nat) (v : Byte) : (s.setByte a v).thm = s.thm := rfl
@[simp] theorem setByte_bal (s : State) (a : Nat) (v : Byte) : (s.setByte a v).bal = s.bal := rfl
@[simp] theorem setByte_saf (s : State) (a : Nat) (v : Byte) : (s.setByte a v).saf = s.saf := rfl
@[simp] theorem setByte_sup (s : State) (a : Nat) (v : Byte) : (s.setByte a v).sup = s.sup := rfl
@[simp] theorem setByte_mbx (s : State) (a : Nat) (v : Byte) : (s.setByte a v).mbx = s.mbx := rfl
@[simp] theorem setByte_mtr (s : State) (a : Nat) (v : Byte) : (s.setByte a v).mtr = s.mtr := rfl
@[simp] theorem setByte_raises (s : State) (a : Nat) (v : Byte) : (s.setByte a v).raises = s.raises := rfl
@[simp] theorem setByte_out (s : State) (a : Nat) (v : Byte) : (s.setByte a v).out = s.out := rfl
@[simp] theorem setByte_free (s : State) (a : Nat) (v : Byte) : (s.setByte a v).free = s.free := rfl
@[simp] theorem setByte_pending (s : State) (a : Nat) (v : Byte) : (s.setByte a v).pending = s.pending := rfl
@[simp] theorem emit_regs (s : State) (o : Out) : (s.emit o).regs = s.regs := rfl
@[simp] theorem emit_mem (s : State) (o : Out) : (s.emit o).mem = s.mem := rfl
@[simp] theorem emit_sys (s : State) (o : Out) : (s.emit o).sys = s.sys := rfl
@[simp] theorem emit_vault (s : State) (o : Out) : (s.emit o).vault = s.vault := rfl
@[simp] theorem emit_clk (s : State) (o : Out) : (s.emit o).clk = s.clk := rfl
@[simp] theorem emit_flash (s : State) (o : Out) : (s.emit o).flash = s.flash := rfl
@[simp] theorem emit_vendorKey (s : State) (o : Out) : (s.emit o).vendorKey = s.vendorKey := rfl
@[simp] theorem emit_fuse (s : State) (o : Out) : (s.emit o).fuse = s.fuse := rfl
@[simp] theorem emit_img (s : State) (o : Out) : (s.emit o).img = s.img := rfl
@[simp] theorem emit_lnk (s : State) (o : Out) : (s.emit o).lnk = s.lnk := rfl
@[simp] theorem emit_rng (s : State) (o : Out) : (s.emit o).rng = s.rng := rfl
@[simp] theorem emit_tim (s : State) (o : Out) : (s.emit o).tim = s.tim := rfl
@[simp] theorem emit_pwm (s : State) (o : Out) : (s.emit o).pwm = s.pwm := rfl
@[simp] theorem emit_gd (s : State) (o : Out) : (s.emit o).gd = s.gd := rfl
@[simp] theorem emit_dpx (s : State) (o : Out) : (s.emit o).dpx = s.dpx := rfl
@[simp] theorem emit_flt (s : State) (o : Out) : (s.emit o).flt = s.flt := rfl
@[simp] theorem emit_eng (s : State) (o : Out) : (s.emit o).eng = s.eng := rfl
@[simp] theorem emit_adc (s : State) (o : Out) : (s.emit o).adc = s.adc := rfl
@[simp] theorem emit_memx (s : State) (o : Out) : (s.emit o).memx = s.memx := rfl
@[simp] theorem emit_thm (s : State) (o : Out) : (s.emit o).thm = s.thm := rfl
@[simp] theorem emit_bal (s : State) (o : Out) : (s.emit o).bal = s.bal := rfl
@[simp] theorem emit_saf (s : State) (o : Out) : (s.emit o).saf = s.saf := rfl
@[simp] theorem emit_sup (s : State) (o : Out) : (s.emit o).sup = s.sup := rfl
@[simp] theorem emit_mbx (s : State) (o : Out) : (s.emit o).mbx = s.mbx := rfl
@[simp] theorem emit_mtr (s : State) (o : Out) : (s.emit o).mtr = s.mtr := rfl
@[simp] theorem emit_raises (s : State) (o : Out) : (s.emit o).raises = s.raises := rfl
@[simp] theorem emit_free (s : State) (o : Out) : (s.emit o).free = s.free := rfl
@[simp] theorem emit_pending (s : State) (o : Out) : (s.emit o).pending = s.pending := rfl
@[simp] theorem useFree_regs (s : State) : (s.useFree).regs = s.regs := rfl
@[simp] theorem useFree_mem (s : State) : (s.useFree).mem = s.mem := rfl
@[simp] theorem useFree_sys (s : State) : (s.useFree).sys = s.sys := rfl
@[simp] theorem useFree_vault (s : State) : (s.useFree).vault = s.vault := rfl
@[simp] theorem useFree_clk (s : State) : (s.useFree).clk = s.clk := rfl
@[simp] theorem useFree_flash (s : State) : (s.useFree).flash = s.flash := rfl
@[simp] theorem useFree_vendorKey (s : State) : (s.useFree).vendorKey = s.vendorKey := rfl
@[simp] theorem useFree_fuse (s : State) : (s.useFree).fuse = s.fuse := rfl
@[simp] theorem useFree_img (s : State) : (s.useFree).img = s.img := rfl
@[simp] theorem useFree_lnk (s : State) : (s.useFree).lnk = s.lnk := rfl
@[simp] theorem useFree_rng (s : State) : (s.useFree).rng = s.rng := rfl
@[simp] theorem useFree_tim (s : State) : (s.useFree).tim = s.tim := rfl
@[simp] theorem useFree_pwm (s : State) : (s.useFree).pwm = s.pwm := rfl
@[simp] theorem useFree_gd (s : State) : (s.useFree).gd = s.gd := rfl
@[simp] theorem useFree_dpx (s : State) : (s.useFree).dpx = s.dpx := rfl
@[simp] theorem useFree_flt (s : State) : (s.useFree).flt = s.flt := rfl
@[simp] theorem useFree_eng (s : State) : (s.useFree).eng = s.eng := rfl
@[simp] theorem useFree_adc (s : State) : (s.useFree).adc = s.adc := rfl
@[simp] theorem useFree_memx (s : State) : (s.useFree).memx = s.memx := rfl
@[simp] theorem useFree_thm (s : State) : (s.useFree).thm = s.thm := rfl
@[simp] theorem useFree_bal (s : State) : (s.useFree).bal = s.bal := rfl
@[simp] theorem useFree_saf (s : State) : (s.useFree).saf = s.saf := rfl
@[simp] theorem useFree_sup (s : State) : (s.useFree).sup = s.sup := rfl
@[simp] theorem useFree_mbx (s : State) : (s.useFree).mbx = s.mbx := rfl
@[simp] theorem useFree_mtr (s : State) : (s.useFree).mtr = s.mtr := rfl
@[simp] theorem useFree_raises (s : State) : (s.useFree).raises = s.raises := rfl
@[simp] theorem useFree_out (s : State) : (s.useFree).out = s.out := rfl
@[simp] theorem useFree_pending (s : State) : (s.useFree).pending = s.pending := rfl

/-! ### Registers do not see the other components -/

@[simp] theorem rd_with_mem (s : State) (x : List Host.Cell) (a : Nat) : State.rd { s with mem := x } a = s.rd a := rfl
@[simp] theorem get_with_mem (s : State) (x : List Host.Cell) (f : Fld) : State.get { s with mem := x } f = s.get f := rfl
@[simp] theorem flag_with_mem (s : State) (x : List Host.Cell) (f : Fld) : State.flag { s with mem := x } f = s.flag f := rfl
@[simp] theorem rd_with_sys (s : State) (x : SysSt) (a : Nat) : State.rd { s with sys := x } a = s.rd a := rfl
@[simp] theorem get_with_sys (s : State) (x : SysSt) (f : Fld) : State.get { s with sys := x } f = s.get f := rfl
@[simp] theorem flag_with_sys (s : State) (x : SysSt) (f : Fld) : State.flag { s with sys := x } f = s.flag f := rfl
@[simp] theorem rd_with_vault (s : State) (x : VaultSt) (a : Nat) : State.rd { s with vault := x } a = s.rd a := rfl
@[simp] theorem get_with_vault (s : State) (x : VaultSt) (f : Fld) : State.get { s with vault := x } f = s.get f := rfl
@[simp] theorem flag_with_vault (s : State) (x : VaultSt) (f : Fld) : State.flag { s with vault := x } f = s.flag f := rfl
@[simp] theorem rd_with_clk (s : State) (x : ClkSt) (a : Nat) : State.rd { s with clk := x } a = s.rd a := rfl
@[simp] theorem get_with_clk (s : State) (x : ClkSt) (f : Fld) : State.get { s with clk := x } f = s.get f := rfl
@[simp] theorem flag_with_clk (s : State) (x : ClkSt) (f : Fld) : State.flag { s with clk := x } f = s.flag f := rfl
@[simp] theorem rd_with_flash (s : State) (x : FlashChip) (a : Nat) : State.rd { s with flash := x } a = s.rd a := rfl
@[simp] theorem get_with_flash (s : State) (x : FlashChip) (f : Fld) : State.get { s with flash := x } f = s.get f := rfl
@[simp] theorem flag_with_flash (s : State) (x : FlashChip) (f : Fld) : State.flag { s with flash := x } f = s.flag f := rfl
@[simp] theorem rd_with_vendorKey (s : State) (x : BitVec 512) (a : Nat) : State.rd { s with vendorKey := x } a = s.rd a := rfl
@[simp] theorem rd_with_fuse (s : State) (x : FuseSt) (a : Nat) : State.rd { s with fuse := x } a = s.rd a := rfl
@[simp] theorem get_with_vendorKey (s : State) (x : BitVec 512) (f : Fld) : State.get { s with vendorKey := x } f = s.get f := rfl
@[simp] theorem get_with_fuse (s : State) (x : FuseSt) (f : Fld) : State.get { s with fuse := x } f = s.get f := rfl
@[simp] theorem flag_with_vendorKey (s : State) (x : BitVec 512) (f : Fld) : State.flag { s with vendorKey := x } f = s.flag f := rfl
@[simp] theorem flag_with_fuse (s : State) (x : FuseSt) (f : Fld) : State.flag { s with fuse := x } f = s.flag f := rfl
@[simp] theorem rd_with_img (s : State) (x : ImgSt) (a : Nat) : State.rd { s with img := x } a = s.rd a := rfl
@[simp] theorem get_with_img (s : State) (x : ImgSt) (f : Fld) : State.get { s with img := x } f = s.get f := rfl
@[simp] theorem flag_with_img (s : State) (x : ImgSt) (f : Fld) : State.flag { s with img := x } f = s.flag f := rfl
@[simp] theorem rd_with_lnk (s : State) (x : LnkSt) (a : Nat) : State.rd { s with lnk := x } a = s.rd a := rfl
@[simp] theorem get_with_lnk (s : State) (x : LnkSt) (f : Fld) : State.get { s with lnk := x } f = s.get f := rfl
@[simp] theorem flag_with_lnk (s : State) (x : LnkSt) (f : Fld) : State.flag { s with lnk := x } f = s.flag f := rfl
@[simp] theorem rd_with_rng (s : State) (x : RngSt) (a : Nat) : State.rd { s with rng := x } a = s.rd a := rfl
@[simp] theorem get_with_rng (s : State) (x : RngSt) (f : Fld) : State.get { s with rng := x } f = s.get f := rfl
@[simp] theorem flag_with_rng (s : State) (x : RngSt) (f : Fld) : State.flag { s with rng := x } f = s.flag f := rfl
@[simp] theorem rd_with_tim (s : State) (x : TimSt) (a : Nat) : State.rd { s with tim := x } a = s.rd a := rfl
@[simp] theorem get_with_tim (s : State) (x : TimSt) (f : Fld) : State.get { s with tim := x } f = s.get f := rfl
@[simp] theorem flag_with_tim (s : State) (x : TimSt) (f : Fld) : State.flag { s with tim := x } f = s.flag f := rfl
@[simp] theorem rd_with_pwm (s : State) (x : PwmSt) (a : Nat) : State.rd { s with pwm := x } a = s.rd a := rfl
@[simp] theorem get_with_pwm (s : State) (x : PwmSt) (f : Fld) : State.get { s with pwm := x } f = s.get f := rfl
@[simp] theorem flag_with_pwm (s : State) (x : PwmSt) (f : Fld) : State.flag { s with pwm := x } f = s.flag f := rfl
@[simp] theorem rd_with_gd (s : State) (x : GdSt) (a : Nat) : State.rd { s with gd := x } a = s.rd a := rfl
@[simp] theorem get_with_gd (s : State) (x : GdSt) (f : Fld) : State.get { s with gd := x } f = s.get f := rfl
@[simp] theorem flag_with_gd (s : State) (x : GdSt) (f : Fld) : State.flag { s with gd := x } f = s.flag f := rfl
@[simp] theorem rd_with_dpx (s : State) (x : DpxSt) (a : Nat) : State.rd { s with dpx := x } a = s.rd a := rfl
@[simp] theorem get_with_dpx (s : State) (x : DpxSt) (f : Fld) : State.get { s with dpx := x } f = s.get f := rfl
@[simp] theorem flag_with_dpx (s : State) (x : DpxSt) (f : Fld) : State.flag { s with dpx := x } f = s.flag f := rfl
@[simp] theorem rd_with_flt (s : State) (x : FltSt) (a : Nat) : State.rd { s with flt := x } a = s.rd a := rfl
@[simp] theorem get_with_flt (s : State) (x : FltSt) (f : Fld) : State.get { s with flt := x } f = s.get f := rfl
@[simp] theorem flag_with_flt (s : State) (x : FltSt) (f : Fld) : State.flag { s with flt := x } f = s.flag f := rfl
@[simp] theorem rd_with_eng (s : State) (x : EngSt) (a : Nat) : State.rd { s with eng := x } a = s.rd a := rfl
@[simp] theorem get_with_eng (s : State) (x : EngSt) (f : Fld) : State.get { s with eng := x } f = s.get f := rfl
@[simp] theorem flag_with_eng (s : State) (x : EngSt) (f : Fld) : State.flag { s with eng := x } f = s.flag f := rfl
@[simp] theorem rd_with_adc (s : State) (x : AdcSt) (a : Nat) : State.rd { s with adc := x } a = s.rd a := rfl
@[simp] theorem get_with_adc (s : State) (x : AdcSt) (f : Fld) : State.get { s with adc := x } f = s.get f := rfl
@[simp] theorem flag_with_adc (s : State) (x : AdcSt) (f : Fld) : State.flag { s with adc := x } f = s.flag f := rfl
@[simp] theorem rd_with_memx (s : State) (x : MemSt) (a : Nat) : State.rd { s with memx := x } a = s.rd a := rfl
@[simp] theorem get_with_memx (s : State) (x : MemSt) (f : Fld) : State.get { s with memx := x } f = s.get f := rfl
@[simp] theorem flag_with_memx (s : State) (x : MemSt) (f : Fld) : State.flag { s with memx := x } f = s.flag f := rfl
@[simp] theorem rd_with_thm (s : State) (x : ThmSt) (a : Nat) : State.rd { s with thm := x } a = s.rd a := rfl
@[simp] theorem get_with_thm (s : State) (x : ThmSt) (f : Fld) : State.get { s with thm := x } f = s.get f := rfl
@[simp] theorem flag_with_thm (s : State) (x : ThmSt) (f : Fld) : State.flag { s with thm := x } f = s.flag f := rfl
@[simp] theorem rd_with_bal (s : State) (x : BalSt) (a : Nat) : State.rd { s with bal := x } a = s.rd a := rfl
@[simp] theorem get_with_bal (s : State) (x : BalSt) (f : Fld) : State.get { s with bal := x } f = s.get f := rfl
@[simp] theorem flag_with_bal (s : State) (x : BalSt) (f : Fld) : State.flag { s with bal := x } f = s.flag f := rfl
@[simp] theorem rd_with_saf (s : State) (x : SafSt) (a : Nat) : State.rd { s with saf := x } a = s.rd a := rfl
@[simp] theorem get_with_saf (s : State) (x : SafSt) (f : Fld) : State.get { s with saf := x } f = s.get f := rfl
@[simp] theorem flag_with_saf (s : State) (x : SafSt) (f : Fld) : State.flag { s with saf := x } f = s.flag f := rfl
@[simp] theorem rd_with_sup (s : State) (x : SupSt) (a : Nat) : State.rd { s with sup := x } a = s.rd a := rfl
@[simp] theorem get_with_sup (s : State) (x : SupSt) (f : Fld) : State.get { s with sup := x } f = s.get f := rfl
@[simp] theorem flag_with_sup (s : State) (x : SupSt) (f : Fld) : State.flag { s with sup := x } f = s.flag f := rfl
@[simp] theorem rd_with_mbx (s : State) (x : MbxSt) (a : Nat) : State.rd { s with mbx := x } a = s.rd a := rfl
@[simp] theorem get_with_mbx (s : State) (x : MbxSt) (f : Fld) : State.get { s with mbx := x } f = s.get f := rfl
@[simp] theorem flag_with_mbx (s : State) (x : MbxSt) (f : Fld) : State.flag { s with mbx := x } f = s.flag f := rfl
@[simp] theorem rd_with_mtr (s : State) (x : MtrSt) (a : Nat) : State.rd { s with mtr := x } a = s.rd a := rfl
@[simp] theorem rd_with_raises (s : State) (x : List Raise) (a : Nat) : State.rd { s with raises := x } a = s.rd a := rfl
@[simp] theorem get_with_mtr (s : State) (x : MtrSt) (f : Fld) : State.get { s with mtr := x } f = s.get f := rfl
@[simp] theorem get_with_raises (s : State) (x : List Raise) (f : Fld) : State.get { s with raises := x } f = s.get f := rfl
@[simp] theorem flag_with_mtr (s : State) (x : MtrSt) (f : Fld) : State.flag { s with mtr := x } f = s.flag f := rfl
@[simp] theorem flag_with_raises (s : State) (x : List Raise) (f : Fld) : State.flag { s with raises := x } f = s.flag f := rfl
@[simp] theorem rd_with_out (s : State) (x : List Out) (a : Nat) : State.rd { s with out := x } a = s.rd a := rfl
@[simp] theorem get_with_out (s : State) (x : List Out) (f : Fld) : State.get { s with out := x } f = s.get f := rfl
@[simp] theorem flag_with_out (s : State) (x : List Out) (f : Fld) : State.flag { s with out := x } f = s.flag f := rfl
@[simp] theorem rd_with_free (s : State) (x : Nat) (a : Nat) : State.rd { s with free := x } a = s.rd a := rfl
@[simp] theorem get_with_free (s : State) (x : Nat) (f : Fld) : State.get { s with free := x } f = s.get f := rfl
@[simp] theorem flag_with_free (s : State) (x : Nat) (f : Fld) : State.flag { s with free := x } f = s.flag f := rfl
@[simp] theorem rd_with_pending (s : State) (x : List Instr) (a : Nat) : State.rd { s with pending := x } a = s.rd a := rfl
@[simp] theorem get_with_pending (s : State) (x : List Instr) (f : Fld) : State.get { s with pending := x } f = s.get f := rfl
@[simp] theorem flag_with_pending (s : State) (x : List Instr) (f : Fld) : State.flag { s with pending := x } f = s.flag f := rfl

/-! ### Reads after writes -/

@[simp] theorem rd_wr_same (s : State) (a : Nat) (v : Word) : (s.wr a v).rd a = v := Sparse.get_set_same _ _ _

theorem rd_wr_other (s : State) {a b : Nat} (v : Word) (h : b ≠ a) : (s.wr a v).rd b = s.rd b :=
  Sparse.get_set_other _ _ h

theorem rd_put_other (s : State) (f : Fld) (v : Nat) {b : Nat} (h : b ≠ f.addr) : (s.put f v).rd b = s.rd b :=
  rd_wr_other s _ h

@[simp] theorem rd_put_same (s : State) (f : Fld) (v : Nat) : (s.put f v).rd f.addr = f.put (s.rd f.addr) v :=
  rd_wr_same s _ _

theorem rd_setFlag_other (s : State) (f : Fld) (b : Bool) {a : Nat} (h : a ≠ f.addr) :
    (s.setFlag f b).rd a = s.rd a := rd_put_other s f _ h

theorem get_wr_other (s : State) (f : Fld) {a : Nat} (v : Word) (h : f.addr ≠ a) : (s.wr a v).get f = s.get f := by
  unfold State.get; rw [rd_wr_other s v h]

/-- A field reads back what was put into it. -/
theorem get_put_same (s : State) (f : Fld) (h : f.lo + f.len ≤ 32) (v : Nat) :
    (s.put f v).get f = v % 2 ^ f.len := by
  unfold State.get; rw [rd_put_same]; exact Fld.get_put_same f h _ _

/-- A put leaves the fields of other registers, and those of its own register that share no bit with it, as they were. -/
theorem get_put_other (s : State) (f g : Fld) (h : f.lo + f.len ≤ 32) (v : Nat)
    (hd : g.addr ≠ f.addr ∨ g.lo + g.len ≤ f.lo ∨ f.lo + f.len ≤ g.lo) : (s.put f v).get g = s.get g := by
  by_cases ha : g.addr = f.addr
  · have hd' : g.lo + g.len ≤ f.lo ∨ f.lo + f.len ≤ g.lo := by
      rcases hd with hd | hd
      · exact absurd ha hd
      · exact hd
    unfold State.get; rw [ha, rd_put_same]
    exact Fld.get_put_disjoint f g h hd' _ _
  · unfold State.get; rw [rd_put_other s f v ha]

/-- A one-bit field reads back what was set. -/
theorem flag_setFlag_same (s : State) (f : Fld) (h : f.lo + f.len ≤ 32) (h1 : f.len = 1) (b : Bool) :
    (s.setFlag f b).flag f = b := by
  unfold State.flag State.setFlag; rw [get_put_same s f h, h1]; cases b <;> rfl

theorem flag_put_other (s : State) (f g : Fld) (h : f.lo + f.len ≤ 32) (v : Nat)
    (hd : g.addr ≠ f.addr ∨ g.lo + g.len ≤ f.lo ∨ f.lo + f.len ≤ g.lo) : (s.put f v).flag g = s.flag g := by
  unfold State.flag; rw [get_put_other s f g h v hd]

theorem get_setFlag_other (s : State) (f g : Fld) (h : f.lo + f.len ≤ 32) (b : Bool)
    (hd : g.addr ≠ f.addr ∨ g.lo + g.len ≤ f.lo ∨ f.lo + f.len ≤ g.lo) : (s.setFlag f b).get g = s.get g :=
  get_put_other s f g h _ hd

theorem flag_setFlag_other (s : State) (f g : Fld) (h : f.lo + f.len ≤ 32) (b : Bool)
    (hd : g.addr ≠ f.addr ∨ g.lo + g.len ≤ f.lo ∨ f.lo + f.len ≤ g.lo) : (s.setFlag f b).flag g = s.flag g :=
  flag_put_other s f g h _ hd

/-- A saturating counter never falls and stops at its field's largest value. -/
theorem get_bump_same (s : State) (f : Fld) (h : f.lo + f.len ≤ 32) (n : Nat) :
    (s.bump f n).get f = satAdd f.max (s.get f) n := by
  have hle : satAdd f.max (s.get f) n < 2 ^ f.len := by
    have : f.max < 2 ^ f.len := by unfold Fld.max; have := Nat.two_pow_pos f.len; omega
    unfold satAdd; split <;> omega
  unfold State.bump; rw [get_put_same s f h, Nat.mod_eq_of_lt hle]

@[simp] theorem byte_setByte_same (s : State) (a : Nat) (v : Byte) : (s.setByte a v).byte a = v :=
  Sparse.get_set_same _ _ _

theorem byte_setByte_other (s : State) {a b : Nat} (v : Byte) (h : b ≠ a) : (s.setByte a v).byte b = s.byte b :=
  Sparse.get_set_other _ _ h

/-! ### Canonical forms -/

theorem wf_wr (s : State) (a : Nat) (v : Word) (h : Regs.wf s.regs = true) : Regs.wf (s.wr a v).regs = true :=
  Sparse.wf_set _ _ _ h

theorem wf_setByte (s : State) (a : Nat) (v : Byte) (h : Memory.wf s.mem = true) :
    Memory.wf (s.setByte a v).mem = true := Sparse.wf_set _ _ _ h

/-- A store of n bytes keeps the canonical form of SRAM. -/
theorem wf_storeLe (s : State) (a n v : Nat) (h : Memory.wf s.mem = true) : Memory.wf (s.storeLe a n v).mem = true := by
  induction n generalizing s a v with
  | zero => exact h
  | succ n ih => exact ih _ _ _ (wf_setByte s _ _ h)

/-- A store of n bytes touches no byte outside them. -/
theorem byte_storeLe_other (s : State) (a n v b : Nat) (h : b < a ∨ a + n ≤ b) :
    (s.storeLe a n v).byte b = s.byte b := by
  induction n generalizing s a v with
  | zero => rfl
  | succ n ih =>
    have hb : b ≠ a := by omega
    show State.byte (State.storeLe (s.setByte a _) (a + 1) n _) b = _
    rw [ih _ _ _ (by omega), byte_setByte_other s _ hb]

/-- The first byte of a store reads the low byte of the value. -/
theorem byte_storeLe_first (s : State) (a n v : Nat) :
    (s.storeLe a (n + 1) v).byte a = BitVec.ofNat 8 (v % 256) := by
  show State.byte (State.storeLe (s.setByte a _) (a + 1) n _) a = _
  rw [byte_storeLe_other _ _ _ _ _ (by omega), byte_setByte_same]

end Sys2Proof.Machine
end

