-- ==== Sys2Proof/Laws/Only.lean ====
section
/-! SUPPORT. Laws/Only.lean: `Only l`, that an operation changes at most the components of `l`: it is reflexive, composes, and
holds of each basic operation. -/
namespace Sys2Proof.Machine

theorem Comp.of {m l : List Comp} {c : Comp} (hM : m ⊆ l) (h : c ∈ m) : c ∈ l := hM h

theorem Only.intro {l : List Comp} {s t : State} (h : ∀ c, c ∉ l → c.Same s t) : Only l s t := ⟨h⟩

theorem Only.refl (l : List Comp) (s : State) : Only l s s := by
  refine ⟨fun c _ => ?_⟩; cases c <;> rfl

theorem Comp.Same.trans {c : Comp} {s t u : State} (h : c.Same s t) (k : c.Same t u) : c.Same s u := by
  cases c <;> exact Eq.trans k h

/-- An operation with a smaller footprint may follow. -/
theorem Only.step {l m : List Comp} {s t u : State} (h : Only l s t) (k : Only m t u) (hm : m ⊆ l) : Only l s u :=
  ⟨fun c hc => (h.same c hc).trans (k.same c fun hx => hc (hm hx))⟩

theorem Only.ite {c : Prop} [Decidable c] {l : List Comp} {a x y : State} (hx : Only l a x) (hy : Only l a y) :
    Only l a (if c then x else y) := by split <;> assumption

theorem Only.iteFst {β : Type} {c : Prop} [Decidable c] {l : List Comp} {a : State} {x y : State × β} (hx : Only l a x.1)
    (hy : Only l a y.1) : Only l a (if c then x else y).1 := by split <;> assumption

/-- Whatever state an operation that may refuse answers. -/
def OnlyO (l : List Comp) (a : State) (o : Option State) : Prop := ∀ t, o = some t → Only l a t

theorem OnlyO.some {l : List Comp} {a t : State} (h : Only l a t) : OnlyO l a (some t) := by
  intro u hu; cases hu; exact h

theorem OnlyO.none {l : List Comp} {a : State} : OnlyO l a none := by intro u hu; cases hu

theorem OnlyO.ite {c : Prop} [Decidable c] {l : List Comp} {a : State} {x y : Option State} (hx : OnlyO l a x)
    (hy : OnlyO l a y) : OnlyO l a (if c then x else y) := by split <;> assumption

theorem Only.foldl {β : Type} {l : List Comp} {a s : State} {f : State → β → State} {xs : List β} (h : Only l a s)
    (hf : ∀ b x, Only l a b → Only l a (f b x)) : Only l a (xs.foldl f s) := by
  induction xs generalizing s with
  | nil => exact h
  | cons x t ih => exact ih (hf s x h)

theorem Only.foldlFst {β γ : Type} {l : List Comp} {a : State} {p : State × γ} {f : State × γ → β → State × γ} {xs : List β}
    (h : Only l a p.1) (hf : ∀ q x, Only l a q.1 → Only l a (f q x).1) : Only l a (xs.foldl f p).1 := by
  induction xs generalizing p with
  | nil => exact h
  | cons x t ih => exact ih (hf p x h)

theorem Only.forUpTo {l : List Comp} {a s : State} {n : Nat} {f : Nat → State → State} (h : Only l a s)
    (hf : ∀ i b, Only l a b → Only l a (f i b)) : Only l a (forUpTo n f s) := Only.foldl h fun b i hb => hf i b hb

theorem Only.live {l : List Comp} {a s : State} {f : State → State} (h : Only l a s)
    (hf : ∀ b, Only l a b → Only l a (f b)) : Only l a (s.live f) := by
  unfold State.live; split
  · exact h
  · exact hf s h

theorem Only.when {l : List Comp} {a s : State} {c : Bool} {f : State → State} (h : Only l a s)
    (hf : ∀ b, Only l a b → Only l a (f b)) : Only l a (s.when c f) := by
  unfold State.when; split
  · exact hf s h
  · exact h

theorem Only.byMaster {l : List Comp} {a s : State} {m : Master} {f : State → State} (h : Only l a s)
    (hf : ∀ b, Only l a b → Only l a (f b)) : Only l a (s.byMaster m f) :=
  Only.live h fun _ hb => Only.when hb hf

theorem Only.subset {l m : List Comp} {a b : State} (h : Only m a b) (hm : m ⊆ l) : Only l a b :=
  (Only.refl l a).step h hm

theorem Only.wr {l : List Comp} {z s : State} (h : Only l z s) (a : Nat) (v : Word) (hm : [.regs] ⊆ l) :
    Only l z (s.wr a v) :=
  h.step (m := [.regs]) (Only.intro fun c hc => by cases c <;> first | rfl | exact absurd (by decide) hc) hm

theorem Only.setByte {l : List Comp} {z s : State} (h : Only l z s) (a : Nat) (v : Byte) (hm : [.mem] ⊆ l) :
    Only l z (s.setByte a v) :=
  h.step (m := [.mem]) (Only.intro fun c hc => by cases c <;> first | rfl | exact absurd (by decide) hc) hm

theorem Only.storeLe {l : List Comp} {z s : State} (h : Only l z s) (a n v : Nat) (hm : [.mem] ⊆ l) :
    Only l z (s.storeLe a n v) := by
  induction n generalizing s a v with
  | zero => exact h
  | succ n ih => exact ih (h.setByte _ _ hm) _ _

theorem Only.emit {l : List Comp} {z s : State} (h : Only l z s) (o : Out) (hm : [.out] ⊆ l) : Only l z (s.emit o) :=
  h.step (m := [.out]) (Only.intro fun c hc => by cases c <;> first | rfl | exact absurd (by decide) hc) hm

theorem Only.useFree {l : List Comp} {z s : State} (h : Only l z s) (hm : [.free] ⊆ l) : Only l z s.useFree :=
  h.step (m := [.free]) (Only.intro fun c hc => by cases c <;> first | rfl | exact absurd (by decide) hc) hm

theorem Only.useMany {l : List Comp} {z s : State} (h : Only l z s) (n : Nat) (hm : [.free] ⊆ l) :
    Only l z (s.useMany n) :=
  h.step (m := [.free]) (Only.intro fun c hc => by cases c <;> first | rfl | exact absurd (by decide) hc) hm

/-! ### An update of one component -/

theorem Only.set_sys {l : List Comp} {a b : State} {x : SysSt} (hm : Comp.sys ∈ l) (h : Only l a b) :
    Only l a { b with sys := x } :=
  h.step (m := [.sys]) (Only.intro fun d hd => by cases d <;> first | rfl | exact absurd (by decide) hd)
    fun d hd => by cases List.mem_singleton.1 hd; exact hm

theorem Only.set_vault {l : List Comp} {a b : State} {x : VaultSt} (hm : Comp.vault ∈ l) (h : Only l a b) :
    Only l a { b with vault := x } :=
  h.step (m := [.vault]) (Only.intro fun d hd => by cases d <;> first | rfl | exact absurd (by decide) hd)
    fun d hd => by cases List.mem_singleton.1 hd; exact hm

theorem Only.set_clk {l : List Comp} {a b : State} {x : ClkSt} (hm : Comp.clk ∈ l) (h : Only l a b) :
    Only l a { b with clk := x } :=
  h.step (m := [.clk]) (Only.intro fun d hd => by cases d <;> first | rfl | exact absurd (by decide) hd)
    fun d hd => by cases List.mem_singleton.1 hd; exact hm

theorem Only.set_flash {l : List Comp} {a b : State} {x : FlashChip} (hm : Comp.flash ∈ l) (h : Only l a b) :
    Only l a { b with flash := x } :=
  h.step (m := [.flash]) (Only.intro fun d hd => by cases d <;> first | rfl | exact absurd (by decide) hd)
    fun d hd => by cases List.mem_singleton.1 hd; exact hm

theorem Only.set_fuse {l : List Comp} {a b : State} {x : FuseSt} (hm : Comp.fuse ∈ l) (h : Only l a b) :
    Only l a { b with fuse := x } :=
  h.step (m := [.fuse]) (Only.intro fun d hd => by cases d <;> first | rfl | exact absurd (by decide) hd)
    fun d hd => by cases List.mem_singleton.1 hd; exact hm

theorem Only.set_img {l : List Comp} {a b : State} {x : ImgSt} (hm : Comp.img ∈ l) (h : Only l a b) :
    Only l a { b with img := x } :=
  h.step (m := [.img]) (Only.intro fun d hd => by cases d <;> first | rfl | exact absurd (by decide) hd)
    fun d hd => by cases List.mem_singleton.1 hd; exact hm

theorem Only.set_lnk {l : List Comp} {a b : State} {x : LnkSt} (hm : Comp.lnk ∈ l) (h : Only l a b) :
    Only l a { b with lnk := x } :=
  h.step (m := [.lnk]) (Only.intro fun d hd => by cases d <;> first | rfl | exact absurd (by decide) hd)
    fun d hd => by cases List.mem_singleton.1 hd; exact hm

theorem Only.set_rng {l : List Comp} {a b : State} {x : RngSt} (hm : Comp.rng ∈ l) (h : Only l a b) :
    Only l a { b with rng := x } :=
  h.step (m := [.rng]) (Only.intro fun d hd => by cases d <;> first | rfl | exact absurd (by decide) hd)
    fun d hd => by cases List.mem_singleton.1 hd; exact hm

theorem Only.set_tim {l : List Comp} {a b : State} {x : TimSt} (hm : Comp.tim ∈ l) (h : Only l a b) :
    Only l a { b with tim := x } :=
  h.step (m := [.tim]) (Only.intro fun d hd => by cases d <;> first | rfl | exact absurd (by decide) hd)
    fun d hd => by cases List.mem_singleton.1 hd; exact hm

theorem Only.set_pwm {l : List Comp} {a b : State} {x : PwmSt} (hm : Comp.pwm ∈ l) (h : Only l a b) :
    Only l a { b with pwm := x } :=
  h.step (m := [.pwm]) (Only.intro fun d hd => by cases d <;> first | rfl | exact absurd (by decide) hd)
    fun d hd => by cases List.mem_singleton.1 hd; exact hm

theorem Only.set_gd {l : List Comp} {a b : State} {x : GdSt} (hm : Comp.gd ∈ l) (h : Only l a b) :
    Only l a { b with gd := x } :=
  h.step (m := [.gd]) (Only.intro fun d hd => by cases d <;> first | rfl | exact absurd (by decide) hd)
    fun d hd => by cases List.mem_singleton.1 hd; exact hm

theorem Only.set_dpx {l : List Comp} {a b : State} {x : DpxSt} (hm : Comp.dpx ∈ l) (h : Only l a b) :
    Only l a { b with dpx := x } :=
  h.step (m := [.dpx]) (Only.intro fun d hd => by cases d <;> first | rfl | exact absurd (by decide) hd)
    fun d hd => by cases List.mem_singleton.1 hd; exact hm

theorem Only.set_flt {l : List Comp} {a b : State} {x : FltSt} (hm : Comp.flt ∈ l) (h : Only l a b) :
    Only l a { b with flt := x } :=
  h.step (m := [.flt]) (Only.intro fun d hd => by cases d <;> first | rfl | exact absurd (by decide) hd)
    fun d hd => by cases List.mem_singleton.1 hd; exact hm

theorem Only.set_eng {l : List Comp} {a b : State} {x : EngSt} (hm : Comp.eng ∈ l) (h : Only l a b) :
    Only l a { b with eng := x } :=
  h.step (m := [.eng]) (Only.intro fun d hd => by cases d <;> first | rfl | exact absurd (by decide) hd)
    fun d hd => by cases List.mem_singleton.1 hd; exact hm

theorem Only.set_adc {l : List Comp} {a b : State} {x : AdcSt} (hm : Comp.adc ∈ l) (h : Only l a b) :
    Only l a { b with adc := x } :=
  h.step (m := [.adc]) (Only.intro fun d hd => by cases d <;> first | rfl | exact absurd (by decide) hd)
    fun d hd => by cases List.mem_singleton.1 hd; exact hm

theorem Only.set_memx {l : List Comp} {a b : State} {x : MemSt} (hm : Comp.memx ∈ l) (h : Only l a b) :
    Only l a { b with memx := x } :=
  h.step (m := [.memx]) (Only.intro fun d hd => by cases d <;> first | rfl | exact absurd (by decide) hd)
    fun d hd => by cases List.mem_singleton.1 hd; exact hm

theorem Only.set_thm {l : List Comp} {a b : State} {x : ThmSt} (hm : Comp.thm ∈ l) (h : Only l a b) :
    Only l a { b with thm := x } :=
  h.step (m := [.thm]) (Only.intro fun d hd => by cases d <;> first | rfl | exact absurd (by decide) hd)
    fun d hd => by cases List.mem_singleton.1 hd; exact hm

theorem Only.set_bal {l : List Comp} {a b : State} {x : BalSt} (hm : Comp.bal ∈ l) (h : Only l a b) :
    Only l a { b with bal := x } :=
  h.step (m := [.bal]) (Only.intro fun d hd => by cases d <;> first | rfl | exact absurd (by decide) hd)
    fun d hd => by cases List.mem_singleton.1 hd; exact hm

theorem Only.set_saf {l : List Comp} {a b : State} {x : SafSt} (hm : Comp.saf ∈ l) (h : Only l a b) :
    Only l a { b with saf := x } :=
  h.step (m := [.saf]) (Only.intro fun d hd => by cases d <;> first | rfl | exact absurd (by decide) hd)
    fun d hd => by cases List.mem_singleton.1 hd; exact hm

theorem Only.set_sup {l : List Comp} {a b : State} {x : SupSt} (hm : Comp.sup ∈ l) (h : Only l a b) :
    Only l a { b with sup := x } :=
  h.step (m := [.sup]) (Only.intro fun d hd => by cases d <;> first | rfl | exact absurd (by decide) hd)
    fun d hd => by cases List.mem_singleton.1 hd; exact hm

theorem Only.set_mbx {l : List Comp} {a b : State} {x : MbxSt} (hm : Comp.mbx ∈ l) (h : Only l a b) :
    Only l a { b with mbx := x } :=
  h.step (m := [.mbx]) (Only.intro fun d hd => by cases d <;> first | rfl | exact absurd (by decide) hd)
    fun d hd => by cases List.mem_singleton.1 hd; exact hm

theorem Only.set_mtr {l : List Comp} {a b : State} {x : MtrSt} (hm : Comp.mtr ∈ l) (h : Only l a b) :
    Only l a { b with mtr := x } :=
  h.step (m := [.mtr]) (Only.intro fun d hd => by cases d <;> first | rfl | exact absurd (by decide) hd)
    fun d hd => by cases List.mem_singleton.1 hd; exact hm

theorem Only.set_raises {l : List Comp} {a b : State} {x : List Raise} (hm : Comp.raises ∈ l) (h : Only l a b) :
    Only l a { b with raises := x } :=
  h.step (m := [.raises]) (Only.intro fun d hd => by cases d <;> first | rfl | exact absurd (by decide) hd)
    fun d hd => by cases List.mem_singleton.1 hd; exact hm

/-- An update of several components. -/
theorem Only.upd {l : List Comp} {a b : State} {sys : SysSt} {vault : VaultSt} {clk : ClkSt} {flash : FlashChip} {fuse : FuseSt} {img : ImgSt} {lnk : LnkSt} {rng : RngSt} {tim : TimSt} {pwm : PwmSt} {gd : GdSt} {dpx : DpxSt} {flt : FltSt} {eng : EngSt} {adc : AdcSt} {memx : MemSt} {thm : ThmSt} {bal : BalSt} {saf : SafSt} {sup : SupSt} {mbx : MbxSt} {mtr : MtrSt} {raises : List Raise}
    (h : Only l a b)
    (h_sys : Comp.sys ∈ l ∨ sys = b.sys)
    (h_vault : Comp.vault ∈ l ∨ vault = b.vault)
    (h_clk : Comp.clk ∈ l ∨ clk = b.clk)
    (h_flash : Comp.flash ∈ l ∨ flash = b.flash)
    (h_fuse : Comp.fuse ∈ l ∨ fuse = b.fuse)
    (h_img : Comp.img ∈ l ∨ img = b.img)
    (h_lnk : Comp.lnk ∈ l ∨ lnk = b.lnk)
    (h_rng : Comp.rng ∈ l ∨ rng = b.rng)
    (h_tim : Comp.tim ∈ l ∨ tim = b.tim)
    (h_pwm : Comp.pwm ∈ l ∨ pwm = b.pwm)
    (h_gd : Comp.gd ∈ l ∨ gd = b.gd)
    (h_dpx : Comp.dpx ∈ l ∨ dpx = b.dpx)
    (h_flt : Comp.flt ∈ l ∨ flt = b.flt)
    (h_eng : Comp.eng ∈ l ∨ eng = b.eng)
    (h_adc : Comp.adc ∈ l ∨ adc = b.adc)
    (h_memx : Comp.memx ∈ l ∨ memx = b.memx)
    (h_thm : Comp.thm ∈ l ∨ thm = b.thm)
    (h_bal : Comp.bal ∈ l ∨ bal = b.bal)
    (h_saf : Comp.saf ∈ l ∨ saf = b.saf)
    (h_sup : Comp.sup ∈ l ∨ sup = b.sup)
    (h_mbx : Comp.mbx ∈ l ∨ mbx = b.mbx)
    (h_mtr : Comp.mtr ∈ l ∨ mtr = b.mtr)
    (h_raises : Comp.raises ∈ l ∨ raises = b.raises) :
    Only l a ⟨b.regs, b.mem, sys, vault, clk, flash, b.vendorKey, fuse, img, lnk, rng, tim, pwm, gd, dpx, flt, eng, adc, memx, thm, bal, saf, sup, mbx, mtr, raises, b.out, b.free, b.pending⟩ := by
  refine h.step (m := l) (Only.intro fun c hc => ?_) fun _ h => h
  cases c
  · exact rfl
  · exact rfl
  · exact h_sys.resolve_left hc
  · exact h_vault.resolve_left hc
  · exact h_clk.resolve_left hc
  · exact h_flash.resolve_left hc
  · exact rfl
  · exact h_fuse.resolve_left hc
  · exact h_img.resolve_left hc
  · exact h_lnk.resolve_left hc
  · exact h_rng.resolve_left hc
  · exact h_tim.resolve_left hc
  · exact h_pwm.resolve_left hc
  · exact h_gd.resolve_left hc
  · exact h_dpx.resolve_left hc
  · exact h_flt.resolve_left hc
  · exact h_eng.resolve_left hc
  · exact h_adc.resolve_left hc
  · exact h_memx.resolve_left hc
  · exact h_thm.resolve_left hc
  · exact h_bal.resolve_left hc
  · exact h_saf.resolve_left hc
  · exact h_sup.resolve_left hc
  · exact h_mbx.resolve_left hc
  · exact h_mtr.resolve_left hc
  · exact h_raises.resolve_left hc
  · exact rfl
  · exact rfl
  · exact rfl

end Sys2Proof.Machine
end

