-- ==== Sys2Proof/Laws/OnlyOps.lean ====
section
/-! SUPPORT. Laws/OnlyOps.lean: which components of the state each operation of Machine/Ops.lean may change. -/
namespace Sys2Proof.Machine
set_option Elab.async false

theorem only_put {cs : List Comp} {z s : State} (hK : Only cs z s) (f : Fld) (v : Nat) (hM : [.regs] ⊆ cs) :
    Only cs z (State.put s f v) := by
  unfold State.put
  try dsimp only
  repeat' first
    | with_reducible assumption
    | with_reducible apply Only.wr
    | exact List.Subset.trans (by decide) hM
    | (intro _ _ _)
    | (intro _ _)

theorem only_setFlag {cs : List Comp} {z s : State} (hK : Only cs z s) (f : Fld) (b : Bool) (hM : [.regs] ⊆ cs) :
    Only cs z (State.setFlag s f b) := by
  unfold State.setFlag
  try dsimp only
  repeat' first
    | with_reducible assumption
    | with_reducible apply only_put
    | exact List.Subset.trans (by decide) hM
    | (intro _ _ _)
    | (intro _ _)

theorem only_bump {cs : List Comp} {z s : State} (hK : Only cs z s) (f : Fld) (n : Nat) (hM : [.regs] ⊆ cs) :
    Only cs z (State.bump s f n) := by
  unfold State.bump
  try dsimp only
  repeat' first
    | with_reducible assumption
    | with_reducible apply only_put
    | exact List.Subset.trans (by decide) hM
    | (intro _ _ _)
    | (intro _ _)

theorem only_bumpWrap {cs : List Comp} {z s : State} (hK : Only cs z s) (f : Fld) (n : Nat) (hM : [.regs] ⊆ cs) :
    Only cs z (State.bumpWrap s f n) := by
  unfold State.bumpWrap
  try dsimp only
  repeat' first
    | with_reducible assumption
    | with_reducible apply only_put
    | exact List.Subset.trans (by decide) hM
    | (intro _ _ _)
    | (intro _ _)

theorem only_bumpReg {cs : List Comp} {z s : State} (hK : Only cs z s) (a : Nat) (n : Nat) (hM : [.regs] ⊆ cs) :
    Only cs z (State.bumpReg s a n) := by
  unfold State.bumpReg
  try dsimp only
  repeat' first
    | with_reducible assumption
    | with_reducible apply Only.wr
    | exact List.Subset.trans (by decide) hM
    | (intro _ _ _)
    | (intro _ _)

theorem only_wrN {cs : List Comp} {z s : State} (hK : Only cs z s) (a v : Nat) (hM : [.regs] ⊆ cs) :
    Only cs z (State.wrN s a v) := by
  unfold State.wrN
  try dsimp only
  repeat' first
    | with_reducible assumption
    | with_reducible apply Only.wr
    | exact List.Subset.trans (by decide) hM
    | (intro _ _ _)
    | (intro _ _)

theorem only_setChan {cs : List Comp} {z s : State} (hK : Only cs z s) (n : Nat) (c : ChanSt) (hM : [.pwm] ⊆ cs) :
    Only cs z (State.setChan s n c) := by
  unfold State.setChan
  try dsimp only
  repeat' first
    | with_reducible assumption
    | exact List.Subset.trans (by decide) hM
    | (intro _ _ _)
    | (intro _ _)
    | with_reducible refine Only.set_pwm (Comp.of hM (by decide)) ?_

theorem only_setLeg {cs : List Comp} {z s : State} (hK : Only cs z s) (n : Nat) (l : LegSt) (hM : [.pwm] ⊆ cs) :
    Only cs z (State.setLeg s n l) := by
  unfold State.setLeg
  try dsimp only
  repeat' first
    | with_reducible assumption
    | exact List.Subset.trans (by decide) hM
    | (intro _ _ _)
    | (intro _ _)
    | with_reducible refine Only.set_pwm (Comp.of hM (by decide)) ?_

theorem only_setGate {cs : List Comp} {z s : State} (hK : Only cs z s) (c : Nat) (g : GateSt) (hM : [.gd] ⊆ cs) :
    Only cs z (State.setGate s c g) := by
  unfold State.setGate
  try dsimp only
  repeat' first
    | with_reducible assumption
    | exact List.Subset.trans (by decide) hM
    | (intro _ _ _)
    | (intro _ _)
    | with_reducible refine Only.set_gd (Comp.of hM (by decide)) ?_

theorem only_setGateLeg {cs : List Comp} {z s : State} (hK : Only cs z s) (n : Nat) (g : GateLeg) (hM : [.gd] ⊆ cs) :
    Only cs z (State.setGateLeg s n g) := by
  unfold State.setGateLeg
  try dsimp only
  repeat' first
    | with_reducible assumption
    | exact List.Subset.trans (by decide) hM
    | (intro _ _ _)
    | (intro _ _)
    | with_reducible refine Only.set_gd (Comp.of hM (by decide)) ?_

theorem only_setPort {cs : List Comp} {z s : State} (hK : Only cs z s) (p : Nat) (v : PortSt) (hM : [.lnk] ⊆ cs) :
    Only cs z (State.setPort s p v) := by
  unfold State.setPort
  try dsimp only
  repeat' first
    | with_reducible assumption
    | exact List.Subset.trans (by decide) hM
    | (intro _ _ _)
    | (intro _ _)
    | with_reducible refine Only.set_lnk (Comp.of hM (by decide)) ?_

theorem only_setLane {cs : List Comp} {z s : State} (hK : Only cs z s) (p l : Nat) (v : LaneSt) (hM : [.lnk] ⊆ cs) :
    Only cs z (State.setLane s p l v) := by
  unfold State.setLane
  try dsimp only
  repeat' first
    | with_reducible assumption
    | exact List.Subset.trans (by decide) hM
    | (intro _ _ _)
    | (intro _ _)
    | with_reducible refine Only.set_lnk (Comp.of hM (by decide)) ?_

theorem only_setLink {cs : List Comp} {z s : State} (hK : Only cs z s) (p : Nat) (v : LinkTime) (hM : [.tim] ⊆ cs) :
    Only cs z (State.setLink s p v) := by
  unfold State.setLink
  try dsimp only
  repeat' first
    | with_reducible assumption
    | exact List.Subset.trans (by decide) hM
    | (intro _ _ _)
    | (intro _ _)
    | with_reducible refine Only.set_tim (Comp.of hM (by decide)) ?_

theorem only_setTpo {cs : List Comp} {z s : State} (hK : Only cs z s) (n : Nat) (v : TpoSt) (hM : [.tim] ⊆ cs) :
    Only cs z (State.setTpo s n v) := by
  unfold State.setTpo
  try dsimp only
  repeat' first
    | with_reducible assumption
    | exact List.Subset.trans (by decide) hM
    | (intro _ _ _)
    | (intro _ _)
    | with_reducible refine Only.set_tim (Comp.of hM (by decide)) ?_

theorem only_setMember {cs : List Comp} {z s : State} (hK : Only cs z s) (p : Nat) (v : Member) (hM : [.dpx] ⊆ cs) :
    Only cs z (State.setMember s p v) := by
  unfold State.setMember
  try dsimp only
  repeat' first
    | with_reducible assumption
    | exact List.Subset.trans (by decide) hM
    | (intro _ _ _)
    | (intro _ _)
    | with_reducible refine Only.set_dpx (Comp.of hM (by decide)) ?_

theorem only_setEngSlot {cs : List Comp} {z s : State} (hK : Only cs z s) (n : Nat) (v : EngSlot) (hM : [.eng] ⊆ cs) :
    Only cs z (State.setEngSlot s n v) := by
  unfold State.setEngSlot
  try dsimp only
  repeat' first
    | with_reducible assumption
    | exact List.Subset.trans (by decide) hM
    | (intro _ _ _)
    | (intro _ _)
    | with_reducible refine Only.set_eng (Comp.of hM (by decide)) ?_

theorem only_setEngGroup {cs : List Comp} {z s : State} (hK : Only cs z s) (g : Nat) (v : EngGroup) (hM : [.eng] ⊆ cs) :
    Only cs z (State.setEngGroup s g v) := by
  unfold State.setEngGroup
  try dsimp only
  repeat' first
    | with_reducible assumption
    | exact List.Subset.trans (by decide) hM
    | (intro _ _ _)
    | (intro _ _)
    | with_reducible refine Only.set_eng (Comp.of hM (by decide)) ?_

theorem only_setAdcDue {cs : List Comp} {z s : State} (hK : Only cs z s) (m : Nat) (l : List (Nat × Nat)) (hM : [.adc] ⊆ cs) :
    Only cs z (State.setAdcDue s m l) := by
  unfold State.setAdcDue
  try dsimp only
  repeat' first
    | with_reducible assumption
    | exact List.Subset.trans (by decide) hM
    | (intro _ _ _)
    | (intro _ _)
    | with_reducible refine Only.set_adc (Comp.of hM (by decide)) ?_

theorem only_setResult {cs : List Comp} {z s : State} (hK : Only cs z s) (i : Nat) (v : Option Word) (hM : [.eng] ⊆ cs) :
    Only cs z (State.setResult s i v) := by
  unfold State.setResult
  try dsimp only
  repeat' first
    | with_reducible assumption
    | exact List.Subset.trans (by decide) hM
    | (intro _ _ _)
    | (intro _ _)
    | with_reducible refine Only.set_eng (Comp.of hM (by decide)) ?_

theorem only_setAsk {cs : List Comp} {z s : State} (hK : Only cs z s) (p : Nat) (v : Ask) (hM : [.dpx] ⊆ cs) :
    Only cs z (State.setAsk s p v) := by
  unfold State.setAsk
  try dsimp only
  repeat' first
    | with_reducible assumption
    | exact List.Subset.trans (by decide) hM
    | (intro _ _ _)
    | (intro _ _)
    | with_reducible refine Only.set_dpx (Comp.of hM (by decide)) ?_

theorem only_gateRefresh {cs : List Comp} {z s : State} (hK : Only cs z s) (n : Nat) (hM : [.gd] ⊆ cs) :
    Only cs z (State.gateRefresh s n) := by
  unfold State.gateRefresh
  try dsimp only
  repeat' first
    | with_reducible assumption
    | with_reducible apply only_setGate
    | exact List.Subset.trans (by decide) hM
    | (intro _ _ _)
    | (intro _ _)

theorem only_legRefresh1 {cs : List Comp} {z s : State} (hK : Only cs z s) (n : Nat) (hM : [.regs, .pwm, .gd] ⊆ cs) :
    Only cs z (State.legRefresh1 s n) := by
  unfold State.legRefresh1
  try dsimp only
  repeat' first
    | with_reducible assumption
    | with_reducible apply only_put
    | with_reducible apply only_setLeg
    | with_reducible apply only_setGate
    | with_reducible apply only_gateRefresh
    | with_reducible apply Only.ite
    | exact List.Subset.trans (by decide) hM
    | (intro _ _ _)
    | (intro _ _)

theorem only_legRefresh {cs : List Comp} {z s : State} (hK : Only cs z s) (hM : [.regs, .pwm, .gd] ⊆ cs) :
    Only cs z (State.legRefresh s) := by
  unfold State.legRefresh
  try dsimp only
  repeat' first
    | with_reducible assumption
    | with_reducible apply only_legRefresh1
    | with_reducible apply Only.forUpTo
    | exact List.Subset.trans (by decide) hM
    | (intro _ _ _)
    | (intro _ _)

theorem only_haltCarriers {cs : List Comp} {z s : State} (hK : Only cs z s) (hM : [.pwm] ⊆ cs) :
    Only cs z (State.haltCarriers s) := by
  unfold State.haltCarriers
  try dsimp only
  repeat' first
    | with_reducible assumption
    | with_reducible apply only_setChan
    | with_reducible apply Only.forUpTo
    | exact List.Subset.trans (by decide) hM
    | (intro _ _ _)
    | (intro _ _)
    | with_reducible refine Only.set_pwm (Comp.of hM (by decide)) ?_

theorem only_startCarriers {cs : List Comp} {z s : State} (hK : Only cs z s) (hM : [.pwm] ⊆ cs) :
    Only cs z (State.startCarriers s) := by
  unfold State.startCarriers
  try dsimp only
  repeat' first
    | with_reducible assumption
    | with_reducible apply only_setChan
    | with_reducible apply Only.forUpTo
    | exact List.Subset.trans (by decide) hM
    | (intro _ _ _)
    | (intro _ _)
    | split
    | with_reducible refine Only.set_pwm (Comp.of hM (by decide)) ?_

theorem only_loseTimebase {cs : List Comp} {z s : State} (hK : Only cs z s) (hM : [.regs, .pwm, .gd] ⊆ cs) :
    Only cs z (State.loseTimebase s) := by
  unfold State.loseTimebase
  try dsimp only
  repeat' first
    | with_reducible assumption
    | with_reducible apply only_haltCarriers
    | with_reducible apply only_setFlag
    | with_reducible apply only_legRefresh
    | exact List.Subset.trans (by decide) hM
    | (intro _ _ _)
    | (intro _ _)

theorem only_setRoot {cs : List Comp} {z s : State} (hK : Only cs z s) (r : Root) (hM : [.regs, .clk] ⊆ cs) :
    Only cs z (State.setRoot s r) := by
  unfold State.setRoot
  try dsimp only
  repeat' first
    | with_reducible assumption
    | with_reducible apply only_put
    | exact List.Subset.trans (by decide) hM
    | (intro _ _ _)
    | (intro _ _)
    | with_reducible refine Only.set_clk (Comp.of hM (by decide)) ?_

theorem only_rootSearch {cs : List Comp} {z s : State} (hK : Only cs z s) (hM : [.regs, .clk, .pwm, .gd] ⊆ cs) :
    Only cs z (State.rootSearch s) := by
  unfold State.rootSearch
  try dsimp only
  repeat' first
    | with_reducible assumption
    | with_reducible apply only_setRoot
    | with_reducible apply only_loseTimebase
    | exact List.Subset.trans (by decide) hM
    | (intro _ _ _)
    | (intro _ _)
    | with_reducible refine Only.set_clk (Comp.of hM (by decide)) ?_

theorem only_holdOut {cs : List Comp} {z s : State} (hK : Only cs z s) (hM : [.regs, .clk, .pwm, .gd] ⊆ cs) :
    Only cs z (State.holdOut s) := by
  unfold State.holdOut
  try dsimp only
  repeat' first
    | with_reducible assumption
    | with_reducible apply only_rootSearch
    | with_reducible apply Only.ite
    | exact List.Subset.trans (by decide) hM
    | (intro _ _ _)
    | (intro _ _)

theorem only_ckoWritten {cs : List Comp} {z s : State} (hK : Only cs z s) (n : Nat) (hM : [.regs, .clk] ⊆ cs) :
    Only cs z (State.ckoWritten s n) := by
  unfold State.ckoWritten
  try dsimp only
  repeat' first
    | with_reducible assumption
    | with_reducible apply only_setFlag
    | with_reducible apply Only.when
    | exact List.Subset.trans (by decide) hM
    | (intro _ _ _)
    | (intro _ _)
    | with_reducible refine Only.set_clk (Comp.of hM (by decide)) ?_

theorem only_setChain {cs : List Comp} {z s : State} (hK : Only cs z s) (c : Frac) (hM : [.regs, .tim] ⊆ cs) :
    Only cs z (State.setChain s c) := by
  unfold State.setChain
  try dsimp only
  repeat' first
    | with_reducible assumption
    | with_reducible apply only_wrN
    | exact List.Subset.trans (by decide) hM
    | (intro _ _ _)
    | (intro _ _)
    | with_reducible refine Only.set_tim (Comp.of hM (by decide)) ?_

theorem only_takeUp {cs : List Comp} {z s : State} (hK : Only cs z s) (p : Nat) (hM : [.regs, .tim] ⊆ cs) :
    Only cs z (State.takeUp s p) := by
  unfold State.takeUp
  try dsimp only
  repeat' first
    | with_reducible assumption
    | with_reducible apply only_put
    | with_reducible apply only_setLink
    | with_reducible apply Only.forUpTo
    | exact List.Subset.trans (by decide) hM
    | (intro _ _ _)
    | (intro _ _)

theorem only_selectUp {cs : List Comp} {z s : State} (hK : Only cs z s) (hM : [.regs, .tim] ⊆ cs) :
    Only cs z (State.selectUp s) := by
  unfold State.selectUp
  try dsimp only
  repeat' first
    | with_reducible assumption
    | with_reducible apply only_takeUp
    | with_reducible apply only_put
    | with_reducible apply Only.wr
    | with_reducible apply Only.ite
    | exact List.Subset.trans (by decide) hM
    | (intro _ _ _)
    | (intro _ _)
    | split

theorem only_recRefresh {cs : List Comp} {z s : State} (hK : Only cs z s) (num : Nat) (hM : [.regs] ⊆ cs) :
    Only cs z (State.recRefresh s num) := by
  unfold State.recRefresh
  try dsimp only
  repeat' first
    | with_reducible assumption
    | with_reducible apply only_setFlag
    | with_reducible apply Only.ite
    | exact List.Subset.trans (by decide) hM
    | (intro _ _ _)
    | (intro _ _)

theorem only_fltStat {cs : List Comp} {z s : State} (hK : Only cs z s) (hM : [.regs] ⊆ cs) :
    Only cs z (State.fltStat s) := by
  unfold State.fltStat
  try dsimp only
  repeat' first
    | with_reducible assumption
    | with_reducible apply only_wrN
    | with_reducible apply only_put
    | with_reducible apply only_setFlag
    | with_reducible apply Only.foldlFst
    | with_reducible apply Only.foldl
    | with_reducible apply Only.when
    | exact List.Subset.trans (by decide) hM
    | (intro _ _ _)
    | (intro _ _)

theorem only_fltRefresh {cs : List Comp} {z s : State} (hK : Only cs z s) (hM : [.regs, .pwm, .gd] ⊆ cs) :
    Only cs z (State.fltRefresh s) := by
  unfold State.fltRefresh
  try dsimp only
  repeat' first
    | with_reducible assumption
    | with_reducible apply only_fltStat
    | with_reducible apply only_legRefresh
    | exact List.Subset.trans (by decide) hM
    | (intro _ _ _)
    | (intro _ _)

theorem only_endCause {cs : List Comp} {z s : State} (hK : Only cs z s) (code inst : Nat) (tag : Nat) (hM : [.regs, .pwm, .gd, .flt] ⊆ cs) :
    Only cs z (State.endCause s code inst tag) := by
  unfold State.endCause
  try dsimp only
  repeat' first
    | with_reducible assumption
    | with_reducible apply only_recRefresh
    | with_reducible apply only_fltRefresh
    | with_reducible apply Only.foldlFst
    | with_reducible apply Only.foldl
    | with_reducible apply Only.ite
    | exact List.Subset.trans (by decide) hM
    | (intro _ _ _)
    | (intro _ _)
    | with_reducible refine Only.set_flt (Comp.of hM (by decide)) ?_

theorem only_giveUpRoot {cs : List Comp} {z s : State} (hK : Only cs z s) (hM : [.regs, .clk, .tim, .pwm, .gd, .flt] ⊆ cs) :
    Only cs z (State.giveUpRoot s) := by
  unfold State.giveUpRoot
  try dsimp only
  repeat' first
    | with_reducible assumption
    | with_reducible apply only_setFlag
    | with_reducible apply only_endCause
    | with_reducible apply only_put
    | with_reducible apply only_selectUp
    | with_reducible apply Only.ite
    | exact List.Subset.trans (by decide) hM
    | (intro _ _ _)
    | (intro _ _)
    | with_reducible refine Only.set_clk (Comp.of hM (by decide)) ?_
    | with_reducible refine Only.set_tim (Comp.of hM (by decide)) ?_
    | (with_reducible refine Only.upd ?_ (Or.inr rfl) (Or.inr rfl) (Or.inl (Comp.of hM (by decide))) (Or.inr rfl) (Or.inr rfl) (Or.inr rfl) (Or.inr rfl) (Or.inr rfl) (Or.inl (Comp.of hM (by decide))) (Or.inr rfl) (Or.inr rfl) (Or.inr rfl) (Or.inr rfl) (Or.inr rfl) (Or.inr rfl) (Or.inr rfl) (Or.inr rfl) (Or.inr rfl) (Or.inr rfl) (Or.inr rfl) (Or.inr rfl) (Or.inr rfl) (Or.inr rfl))

theorem only_swapEnd {cs : List Comp} {z s : State} (hK : Only cs z s) (err : Nat) (hM : [.regs] ⊆ cs) :
    Only cs z (State.swapEnd s err) := by
  unfold State.swapEnd
  try dsimp only
  repeat' first
    | with_reducible assumption
    | with_reducible apply only_put
    | with_reducible apply only_setFlag
    | exact List.Subset.trans (by decide) hM
    | (intro _ _ _)
    | (intro _ _)

theorem only_headOut {cs : List Comp} {z s : State} (hK : Only cs z s) (hM : [.regs, .clk, .tim, .pwm, .gd, .flt] ⊆ cs) :
    Only cs z (State.headOut s) := by
  unfold State.headOut
  try dsimp only
  repeat' first
    | with_reducible assumption
    | with_reducible apply only_put
    | with_reducible apply only_setFlag
    | with_reducible apply only_swapEnd
    | with_reducible apply only_giveUpRoot
    | with_reducible apply Only.ite
    | exact List.Subset.trans (by decide) hM
    | (intro _ _ _)
    | (intro _ _)

theorem only_openRecord {cs : List Comp} {z s : State} (hK : Only cs z s) (num : Nat) (r : Raise) (c : Word) (hM : [.regs, .flt, .out] ⊆ cs) :
    Only cs z (State.openRecord s num r c) := by
  unfold State.openRecord
  try dsimp only
  repeat' first
    | with_reducible assumption
    | with_reducible apply only_wrN
    | with_reducible apply only_put
    | with_reducible apply Only.wr
    | with_reducible apply Only.emit
    | with_reducible apply Only.when
    | with_reducible apply Only.ite
    | exact List.Subset.trans (by decide) hM
    | (intro _ _ _)
    | (intro _ _)
    | split
    | with_reducible refine Only.set_flt (Comp.of hM (by decide)) ?_

theorem only_mergeRecord {cs : List Comp} {z s : State} (hK : Only cs z s) (num : Nat) (r : Raise) (c : Word) (hM : [.regs, .flt] ⊆ cs) :
    Only cs z (State.mergeRecord s num r c) := by
  unfold State.mergeRecord
  try dsimp only
  repeat' first
    | with_reducible assumption
    | with_reducible apply only_put
    | with_reducible apply only_bump
    | with_reducible apply only_setFlag
    | with_reducible apply Only.wr
    | with_reducible apply Only.ite
    | exact List.Subset.trans (by decide) hM
    | (intro _ _ _)
    | (intro _ _)
    | with_reducible refine Only.set_flt (Comp.of hM (by decide)) ?_

theorem only_raiseRecord {cs : List Comp} {z s : State} (hK : Only cs z s) (recd : Option Nat) (r : Raise) (c : Word) (hM : [.regs, .flt, .out] ⊆ cs) :
    Only cs z (State.raiseRecord s recd r c) := by
  unfold State.raiseRecord
  try dsimp only
  repeat' first
    | with_reducible assumption
    | with_reducible apply only_mergeRecord
    | with_reducible apply only_openRecord
    | with_reducible apply only_bumpReg
    | exact List.Subset.trans (by decide) hM
    | (intro _ _ _)
    | (intro _ _)
    | split

theorem only_addCause {cs : List Comp} {z s : State} (hK : Only cs z s) (c : Cause) (hM : [.flt] ⊆ cs) :
    Only cs z (State.addCause s c) := by
  unfold State.addCause
  try dsimp only
  repeat' first
    | with_reducible assumption
    | exact List.Subset.trans (by decide) hM
    | (intro _ _ _)
    | (intro _ _)
    | with_reducible refine Only.set_flt (Comp.of hM (by decide)) ?_

theorem only_addHold {cs : List Comp} {z s : State} (hK : Only cs z s) (h : Hold) (hM : [.flt] ⊆ cs) :
    Only cs z (State.addHold s h) := by
  unfold State.addHold
  try dsimp only
  repeat' first
    | with_reducible assumption
    | exact List.Subset.trans (by decide) hM
    | (intro _ _ _)
    | (intro _ _)
    | with_reducible refine Only.set_flt (Comp.of hM (by decide)) ?_

theorem only_lockOut {cs : List Comp} {z s : State} (hK : Only cs z s) (hM : [.regs, .clk, .pwm, .gd, .flt] ⊆ cs) :
    Only cs z (State.lockOut s) := by
  unfold State.lockOut
  try dsimp only
  repeat' first
    | with_reducible assumption
    | with_reducible apply only_put
    | with_reducible apply only_holdOut
    | exact List.Subset.trans (by decide) hM
    | (intro _ _ _)
    | (intro _ _)
    | with_reducible refine Only.set_flt (Comp.of hM (by decide)) ?_

theorem only_raise1 {cs : List Comp} {z s : State} (hK : Only cs z s) (r : Raise) (hM : [.regs, .clk, .tim, .pwm, .gd, .flt, .out] ⊆ cs) :
    Only cs z (State.raise1 s r) := by
  unfold State.raise1
  try dsimp only
  repeat' first
    | with_reducible assumption
    | with_reducible apply only_raiseRecord
    | with_reducible apply only_addCause
    | with_reducible apply only_addHold
    | with_reducible apply only_recRefresh
    | with_reducible apply only_headOut
    | with_reducible apply only_lockOut
    | with_reducible apply only_fltRefresh
    | with_reducible apply Only.ite
    | exact List.Subset.trans (by decide) hM
    | (intro _ _ _)
    | (intro _ _)
    | split

theorem only_raise2 {cs : List Comp} {z s : State} (hK : Only cs z s) (r : Raise) (hM : [.regs, .clk, .tim, .pwm, .gd, .flt, .out] ⊆ cs) :
    Only cs z (State.raise2 s r) := by
  unfold State.raise2
  try dsimp only
  repeat' first
    | with_reducible assumption
    | with_reducible apply only_raise1
    | with_reducible apply Only.ite
    | exact List.Subset.trans (by decide) hM
    | (intro _ _ _)
    | (intro _ _)

theorem only_mergeEnd {cs : List Comp} {z s : State} (hK : Only cs z s) (hM : [.regs, .flt] ⊆ cs) :
    Only cs z (State.mergeEnd s) := by
  unfold State.mergeEnd
  try dsimp only
  repeat' first
    | with_reducible assumption
    | with_reducible apply only_setFlag
    | with_reducible apply Only.ite
    | exact List.Subset.trans (by decide) hM
    | (intro _ _ _)
    | (intro _ _)
    | split
    | with_reducible refine Only.set_flt (Comp.of hM (by decide)) ?_

theorem only_raise {cs : List Comp} {z s0 : State} (hK : Only cs z s0) (r : Raise) (hM : [.regs, .clk, .tim, .pwm, .gd, .flt, .out] ⊆ cs) :
    Only cs z (State.raise s0 r) := by
  unfold State.raise
  try dsimp only
  repeat' first
    | with_reducible assumption
    | with_reducible apply only_mergeEnd
    | with_reducible apply only_raise2
    | with_reducible apply only_raise1
    | with_reducible apply Only.ite
    | exact List.Subset.trans (by decide) hM
    | (intro _ _ _)
    | (intro _ _)
    | with_reducible refine Only.set_flt (Comp.of hM (by decide)) ?_

theorem only_raiseLater {cs : List Comp} {z s : State} (hK : Only cs z s) (r : Raise) (hM : [.raises] ⊆ cs) :
    Only cs z (State.raiseLater s r) := by
  unfold State.raiseLater
  try dsimp only
  repeat' first
    | with_reducible assumption
    | exact List.Subset.trans (by decide) hM
    | (intro _ _ _)
    | (intro _ _)
    | with_reducible refine Only.set_raises (Comp.of hM (by decide)) ?_

theorem only_raiseDue {cs : List Comp} {z s : State} (hK : Only cs z s) (hM : [.regs, .clk, .tim, .pwm, .gd, .flt, .raises, .out] ⊆ cs) :
    Only cs z (State.raiseDue s) := by
  unfold State.raiseDue
  try dsimp only
  repeat' first
    | with_reducible assumption
    | with_reducible apply only_raise
    | with_reducible apply Only.foldlFst
    | with_reducible apply Only.foldl
    | exact List.Subset.trans (by decide) hM
    | (intro _ _ _)
    | (intro _ _)
    | with_reducible refine Only.set_raises (Comp.of hM (by decide)) ?_

theorem only_violation {cs : List Comp} {z s : State} (hK : Only cs z s) (m : Master) (write : Bool) (a : Nat) (hM : [.regs] ⊆ cs) :
    Only cs z (State.violation s m write a) := by
  unfold State.violation
  try dsimp only
  repeat' first
    | with_reducible assumption
    | with_reducible apply only_bumpReg
    | with_reducible apply only_setFlag
    | with_reducible apply only_put
    | exact List.Subset.trans (by decide) hM
    | (intro _ _ _)
    | (intro _ _)

theorem only_outItem {cs : List Comp} {z s : State} (hK : Only cs z s) (idx : Nat) (v : Word) (hM : [.rng] ⊆ cs) :
    Only cs z (State.outItem s idx v) := by
  unfold State.outItem
  try dsimp only
  repeat' first
    | with_reducible assumption
    | with_reducible apply Only.ite
    | exact List.Subset.trans (by decide) hM
    | (intro _ _ _)
    | (intro _ _)
    | with_reducible refine Only.set_rng (Comp.of hM (by decide)) ?_

theorem only_portRefresh {cs : List Comp} {z s : State} (hK : Only cs z s) (p : Nat) (hM : [.regs] ⊆ cs) :
    Only cs z (State.portRefresh s p) := by
  unfold State.portRefresh
  try dsimp only
  repeat' first
    | with_reducible assumption
    | with_reducible apply only_setFlag
    | exact List.Subset.trans (by decide) hM
    | (intro _ _ _)
    | (intro _ _)

theorem only_sendSyms {cs : List Comp} {z s : State} (hK : Only cs z s) (p l : Nat) (w : List Sym) (hM : [.out, .free] ⊆ cs) :
    Only cs z (State.sendSyms s p l w) := by
  unfold State.sendSyms
  try dsimp only
  repeat' first
    | with_reducible assumption
    | with_reducible apply Only.emit
    | with_reducible apply Only.useFree
    | with_reducible apply Only.when
    | with_reducible apply Only.ite
    | exact List.Subset.trans (by decide) hM
    | (intro _ _ _)
    | (intro _ _)

theorem only_setLaneState {cs : List Comp} {z s : State} (hK : Only cs z s) (p l v : Nat) (hM : [.regs, .out] ⊆ cs) :
    Only cs z (State.setLaneState s p l v) := by
  unfold State.setLaneState
  try dsimp only
  repeat' first
    | with_reducible assumption
    | with_reducible apply only_put
    | with_reducible apply only_portRefresh
    | with_reducible apply Only.emit
    | with_reducible apply Only.when
    | with_reducible apply Only.ite
    | exact List.Subset.trans (by decide) hM
    | (intro _ _ _)
    | (intro _ _)

theorem only_laneEnter {cs : List Comp} {z s : State} (hK : Only cs z s) (p l st : Nat) (hM : [.regs, .lnk, .out] ⊆ cs) :
    Only cs z (State.laneEnter s p l st) := by
  unfold State.laneEnter
  try dsimp only
  repeat' first
    | with_reducible assumption
    | with_reducible apply only_setLaneState
    | with_reducible apply only_setLane
    | with_reducible apply Only.ite
    | exact List.Subset.trans (by decide) hM
    | (intro _ _ _)
    | (intro _ _)

theorem only_modeSwitch {cs : List Comp} {z s : State} (hK : Only cs z s) (p : Nat) (pam4 : Bool) (hM : [.regs, .lnk, .out] ⊆ cs) :
    Only cs z (State.modeSwitch s p pam4) := by
  unfold State.modeSwitch
  try dsimp only
  repeat' first
    | with_reducible assumption
    | with_reducible apply only_setFlag
    | with_reducible apply only_laneEnter
    | with_reducible apply only_setPort
    | with_reducible apply Only.ite
    | exact List.Subset.trans (by decide) hM
    | (intro _ _ _)
    | (intro _ _)

theorem only_toStage {cs : List Comp} {z s : State} (hK : Only cs z s) (n : Nat) (hM : [.regs, .clk, .pwm, .gd] ⊆ cs) :
    Only cs z (State.toStage s n) := by
  unfold State.toStage
  try dsimp only
  repeat' first
    | with_reducible assumption
    | with_reducible apply only_put
    | with_reducible apply only_fltRefresh
    | with_reducible apply only_holdOut
    | with_reducible apply Only.when
    | exact List.Subset.trans (by decide) hM
    | (intro _ _ _)
    | (intro _ _)

theorem only_enterPbWait {cs : List Comp} {z s : State} (hK : Only cs z s) (hM : [.regs, .clk, .img, .pwm, .gd, .dpx] ⊆ cs) :
    Only cs z (State.enterPbWait s) := by
  unfold State.enterPbWait
  try dsimp only
  repeat' first
    | with_reducible assumption
    | with_reducible apply only_put
    | with_reducible apply only_toStage
    | with_reducible apply Only.ite
    | exact List.Subset.trans (by decide) hM
    | (intro _ _ _)
    | (intro _ _)
    | with_reducible refine Only.set_img (Comp.of hM (by decide)) ?_
    | with_reducible refine Only.set_dpx (Comp.of hM (by decide)) ?_
    | (with_reducible refine Only.upd ?_ (Or.inr rfl) (Or.inr rfl) (Or.inr rfl) (Or.inr rfl) (Or.inr rfl) (Or.inl (Comp.of hM (by decide))) (Or.inr rfl) (Or.inr rfl) (Or.inr rfl) (Or.inr rfl) (Or.inr rfl) (Or.inl (Comp.of hM (by decide))) (Or.inr rfl) (Or.inr rfl) (Or.inr rfl) (Or.inr rfl) (Or.inr rfl) (Or.inr rfl) (Or.inr rfl) (Or.inr rfl) (Or.inr rfl) (Or.inr rfl) (Or.inr rfl))

theorem only_enterFull {cs : List Comp} {z s : State} (hK : Only cs z s) (hM : [.regs, .clk, .pwm, .gd] ⊆ cs) :
    Only cs z (State.enterFull s) := by
  unfold State.enterFull
  try dsimp only
  repeat' first
    | with_reducible assumption
    | with_reducible apply only_put
    | with_reducible apply only_toStage
    | with_reducible apply Only.ite
    | exact List.Subset.trans (by decide) hM
    | (intro _ _ _)
    | (intro _ _)

theorem only_leaveService {cs : List Comp} {z s : State} (hK : Only cs z s) (inPlace : Bool) (hM : [.regs, .clk, .lnk, .pwm, .gd, .bal, .out] ⊆ cs) :
    Only cs z (State.leaveService s inPlace) := by
  unfold State.leaveService
  try dsimp only
  repeat' first
    | with_reducible assumption
    | with_reducible apply only_put
    | with_reducible apply only_modeSwitch
    | with_reducible apply only_toStage
    | with_reducible apply Only.forUpTo
    | with_reducible apply Only.ite
    | exact List.Subset.trans (by decide) hM
    | (intro _ _ _)
    | (intro _ _)
    | with_reducible refine Only.set_bal (Comp.of hM (by decide)) ?_

end Sys2Proof.Machine
end

