-- ==== Sys2Proof/Laws/OnlyBlocks.lean ====
section
/-! SUPPORT. Laws/OnlyBlocks.lean: which components of the state each operation of Machine/Operands.lean, Machine/Bulk.lean, Machine/Reports.lean, Machine/Time.lean, Machine/Sampling.lean, Machine/Lanes.lean, Machine/Lattice.lean, Machine/GateDrive.lean may change. -/
namespace Sys2Proof.Machine
set_option Elab.async false

theorem only_setRingState {cs : List Comp} {z s : State} (hK : Only cs z s) (y : Bool) (v : Nat) (hM : [.regs] ⊆ cs) :
    Only cs z (State.setRingState s y v) := by
  unfold State.setRingState
  try dsimp only
  repeat' first
    | with_reducible assumption
    | with_reducible apply only_put
    | with_reducible apply Only.ite
    | exact List.Subset.trans (by decide) hM
    | (intro _ _ _)
    | (intro _ _)

theorem only_sendLine {cs : List Comp} {z s : State} (hK : Only cs z s) (p l : Nat) (cw : List Byte) (hM : [.out, .free] ⊆ cs) :
    Only cs z (State.sendLine s p l cw) := by
  unfold State.sendLine
  try dsimp only
  repeat' first
    | with_reducible assumption
    | with_reducible apply only_sendSyms
    | exact List.Subset.trans (by decide) hM
    | (intro _ _ _)
    | (intro _ _)

theorem only_sendDir {cs : List Comp} {z s : State} (hK : Only cs z s) (y east : Bool) (lane typ dst tag count : Nat) (body : List Byte) (hM : [.out, .free] ⊆ cs) :
    Only cs z (State.sendDir s y east lane typ dst tag count body) := by
  unfold State.sendDir
  try dsimp only
  repeat' first
    | with_reducible assumption
    | with_reducible apply only_sendLine
    | with_reducible apply Only.ite
    | exact List.Subset.trans (by decide) hM
    | (intro _ _ _)
    | (intro _ _)

theorem only_sendAll {cs : List Comp} {z s : State} (hK : Only cs z s) (lane typ dst tag count : Nat) (body : List Byte) (hM : [.out, .free] ⊆ cs) :
    Only cs z (State.sendAll s lane typ dst tag count body) := by
  unfold State.sendAll
  try dsimp only
  repeat' first
    | with_reducible assumption
    | with_reducible apply only_sendDir
    | exact List.Subset.trans (by decide) hM
    | (intro _ _ _)
    | (intro _ _)

theorem only_sealFail {cs : List Comp} {z s : State} (hK : Only cs z s) (origin idx : Nat) (hM : [.regs, .raises] ⊆ cs) :
    Only cs z (State.sealFail s origin idx) := by
  unfold State.sealFail
  try dsimp only
  repeat' first
    | with_reducible assumption
    | with_reducible apply only_bumpReg
    | with_reducible apply only_raiseLater
    | exact List.Subset.trans (by decide) hM
    | (intro _ _ _)
    | (intro _ _)

theorem only_divert {cs : List Comp} {z s : State} (hK : Only cs z s) (p : Nat) (cw : List Byte) (hM : [.regs, .clk, .rng, .tim, .pwm, .gd, .flt, .out] ⊆ cs) :
    Only cs z (State.divert s p cw) := by
  unfold State.divert
  try dsimp only
  repeat' first
    | with_reducible assumption
    | with_reducible apply only_bumpReg
    | with_reducible apply only_raise
    | with_reducible apply Only.ite
    | exact List.Subset.trans (by decide) hM
    | (intro _ _ _)
    | (intro _ _)
    | with_reducible refine Only.set_rng (Comp.of hM (by decide)) ?_

theorem only_hand {cs : List Comp} {z s : State} (hK : Only cs z s) (a : Arrival) (hM : [.rng] ⊆ cs) :
    Only cs z (State.hand s a) := by
  unfold State.hand
  try dsimp only
  repeat' first
    | with_reducible assumption
    | with_reducible apply Only.when
    | exact List.Subset.trans (by decide) hM
    | (intro _ _ _)
    | (intro _ _)
    | with_reducible refine Only.set_rng (Comp.of hM (by decide)) ?_

theorem only_takeRx {cs : List Comp} {z s : State} (hK : Only cs z s) (p : Arrival → Bool) {f : Arrival → State → State}
    (hf : ∀ a b, Only cs z b → Only cs z (f a b)) (hM : [.rng] ⊆ cs) : Only cs z (State.takeRx s p f) := by
  unfold State.takeRx
  split
  · exact hf _ _ (Only.set_rng (Comp.of hM (by decide)) hK)
  · exact hK

theorem only_takeAllRx {cs : List Comp} {z s : State} (hK : Only cs z s) (p : Arrival → Bool) {f : Arrival → State → State}
    (hf : ∀ a b, Only cs z b → Only cs z (f a b)) (hM : [.rng] ⊆ cs) : Only cs z (State.takeAllRx s p f) :=
  Only.foldl (Only.set_rng (Comp.of hM (by decide)) hK) fun _ _ hb => hf _ _ hb

theorem only_setFlow {cs : List Comp} {z s : State} (hK : Only cs z s) (f : Flow) (hM : [.rng] ⊆ cs) :
    Only cs z (State.setFlow s f) := by
  unfold State.setFlow
  try dsimp only
  repeat' first
    | with_reducible assumption
    | exact List.Subset.trans (by decide) hM
    | (intro _ _ _)
    | (intro _ _)
    | with_reducible refine Only.set_rng (Comp.of hM (by decide)) ?_

theorem only_bulkQueue {cs : List Comp} {z s : State} (hK : Only cs z s) (peer stream : Nat) (l : List TxCw) (hM : [.rng] ⊆ cs) :
    Only cs z (State.bulkQueue s peer stream l) := by
  unfold State.bulkQueue
  try dsimp only
  repeat' first
    | with_reducible assumption
    | with_reducible apply only_setFlow
    | exact List.Subset.trans (by decide) hM
    | (intro _ _ _)
    | (intro _ _)

theorem only_bulkSend {cs : List Comp} {z s : State} (hK : Only cs z s) (peer stream : Nat) (data : List Byte) (note : Option Nat) (hM : [.rng] ⊆ cs) :
    Only cs z (State.bulkSend s peer stream data note) := by
  unfold State.bulkSend
  try dsimp only
  repeat' first
    | with_reducible assumption
    | with_reducible apply only_bulkQueue
    | exact List.Subset.trans (by decide) hM
    | (intro _ _ _)
    | (intro _ _)

theorem only_relayTo {cs : List Comp} {z s : State} (hK : Only cs z s) (peer kind : Nat) (payload : List Byte) (note : Option Nat) (hM : [.rng] ⊆ cs) :
    Only cs z (State.relayTo s peer kind payload note) := by
  unfold State.relayTo
  try dsimp only
  repeat' first
    | with_reducible assumption
    | with_reducible apply only_bulkSend
    | exact List.Subset.trans (by decide) hM
    | (intro _ _ _)
    | (intro _ _)

theorem only_relay {cs : List Comp} {z s : State} (hK : Only cs z s) (kind : Nat) (payload : List Byte) (note : Option Nat) (hM : [.rng] ⊆ cs) :
    Only cs z (State.relay s kind payload note) := by
  unfold State.relay
  try dsimp only
  repeat' first
    | with_reducible assumption
    | with_reducible apply only_relayTo
    | with_reducible apply Only.ite
    | exact List.Subset.trans (by decide) hM
    | (intro _ _ _)
    | (intro _ _)

theorem only_bulkOut {cs : List Comp} {z s : State} (hK : Only cs z s) (p lane : Nat) (f : Flow) (flags seq : Nat) (data : List Byte) (hM : [.out, .free] ⊆ cs) :
    Only cs z (State.bulkOut s p lane f flags seq data) := by
  unfold State.bulkOut
  try dsimp only
  repeat' first
    | with_reducible assumption
    | with_reducible apply only_sendLine
    | exact List.Subset.trans (by decide) hM
    | (intro _ _ _)
    | (intro _ _)

theorem only_bulkInsert {cs : List Comp} {z s : State} (hK : Only cs z s) (p l : Nat) (bad : Bool) (hM : [.regs, .clk, .rng, .tim, .pwm, .gd, .flt, .out, .free] ⊆ cs) :
    Only cs z (State.bulkInsert s p l bad) := by
  unfold State.bulkInsert
  try dsimp only
  repeat' first
    | with_reducible assumption
    | with_reducible apply only_bumpReg
    | with_reducible apply only_raise
    | with_reducible apply only_sendLine
    | with_reducible apply only_setFlow
    | with_reducible apply only_bulkOut
    | with_reducible apply Only.ite
    | exact List.Subset.trans (by decide) hM
    | (intro _ _ _)
    | (intro _ _)
    | split
    | with_reducible refine Only.set_rng (Comp.of hM (by decide)) ?_

theorem only_bulkResend {cs : List Comp} {z s : State} (hK : Only cs z s) (dst stream : Nat) (hM : [.rng] ⊆ cs) :
    Only cs z (State.bulkResend s dst stream) := by
  unfold State.bulkResend
  try dsimp only
  repeat' first
    | with_reducible assumption
    | with_reducible apply only_setFlow
    | with_reducible apply Only.when
    | exact List.Subset.trans (by decide) hM
    | (intro _ _ _)
    | (intro _ _)

theorem only_creditOnly {cs : List Comp} {z s : State} (hK : Only cs z s) (dst stream : Nat) (hM : [.rng, .out, .free] ⊆ cs) :
    Only cs z (State.creditOnly s dst stream) := by
  unfold State.creditOnly
  try dsimp only
  repeat' first
    | with_reducible assumption
    | with_reducible apply only_setFlow
    | with_reducible apply only_bulkOut
    | with_reducible apply Only.when
    | exact List.Subset.trans (by decide) hM
    | (intro _ _ _)
    | (intro _ _)
    | split

theorem only_markSent {cs : List Comp} {z s : State} (hK : Only cs z s) (l : List TxCw) (hM : [.regs] ⊆ cs) :
    Only cs z (State.markSent s l) := by
  unfold State.markSent
  try dsimp only
  repeat' first
    | with_reducible assumption
    | with_reducible apply only_setFlag
    | with_reducible apply Only.foldlFst
    | with_reducible apply Only.foldl
    | with_reducible apply Only.when
    | exact List.Subset.trans (by decide) hM
    | (intro _ _ _)
    | (intro _ _)
    | split

theorem only_bulkTake {cs : List Comp} {z s : State} (hK : Only cs z s) (src : Nat) (cw : List Byte) (hM : [.regs, .rng] ⊆ cs) :
    Only cs z (State.bulkTake s src cw).1 := by
  unfold State.bulkTake
  try dsimp only
  repeat' first
    | with_reducible assumption
    | with_reducible apply only_markSent
    | with_reducible apply only_setFlow
    | with_reducible apply Only.iteFst
    | with_reducible apply Only.ite
    | exact List.Subset.trans (by decide) hM
    | (intro _ _ _)
    | (intro _ _)

theorem only_setSess {cs : List Comp} {z s : State} (hK : Only cs z s) (n : Nat) (v : Sess) (hM : [.sup] ⊆ cs) :
    Only cs z (State.setSess s n v) := by
  unfold State.setSess
  try dsimp only
  repeat' first
    | with_reducible assumption
    | exact List.Subset.trans (by decide) hM
    | (intro _ _ _)
    | (intro _ _)
    | with_reducible refine Only.set_sup (Comp.of hM (by decide)) ?_

theorem only_supStat {cs : List Comp} {z s : State} (hK : Only cs z s) (hM : [.regs] ⊆ cs) :
    Only cs z (State.supStat s) := by
  unfold State.supStat
  try dsimp only
  repeat' first
    | with_reducible assumption
    | with_reducible apply only_put
    | with_reducible apply only_setFlag
    | with_reducible apply Only.foldlFst
    | with_reducible apply Only.foldl
    | exact List.Subset.trans (by decide) hM
    | (intro _ _ _)
    | (intro _ _)

theorem only_repDrop {cs : List Comp} {z s : State} (hK : Only cs z s) (n prio : Nat) (hM : [.regs, .clk, .tim, .pwm, .gd, .flt, .sup, .out] ⊆ cs) :
    Only cs z (State.repDrop s n prio) := by
  unfold State.repDrop
  try dsimp only
  repeat' first
    | with_reducible assumption
    | with_reducible apply only_bump
    | with_reducible apply only_setSess
    | with_reducible apply only_raise
    | with_reducible apply Only.ite
    | exact List.Subset.trans (by decide) hM
    | (intro _ _ _)
    | (intro _ _)
    | split
    | with_reducible refine Only.set_sup (Comp.of hM (by decide)) ?_

theorem only_enqueue {cs : List Comp} {z s : State} (hK : Only cs z s) (n : Nat) (r : QRep) (hM : [.regs, .clk, .tim, .pwm, .gd, .flt, .sup, .out] ⊆ cs) :
    Only cs z (State.enqueue s n r) := by
  unfold State.enqueue
  try dsimp only
  repeat' first
    | with_reducible assumption
    | with_reducible apply only_setSess
    | with_reducible apply only_repDrop
    | with_reducible apply Only.ite
    | exact List.Subset.trans (by decide) hM
    | (intro _ _ _)
    | (intro _ _)
    | split

theorem only_report {cs : List Comp} {z s : State} (hK : Only cs z s) (kind prio origin : Nat) (payload : List Byte) (hM : [.regs, .clk, .tim, .pwm, .gd, .flt, .sup, .out] ⊆ cs) :
    Only cs z (State.report s kind prio origin payload) := by
  unfold State.report
  try dsimp only
  repeat' first
    | with_reducible assumption
    | with_reducible apply only_enqueue
    | with_reducible apply only_supStat
    | with_reducible apply Only.wr
    | with_reducible apply Only.forUpTo
    | with_reducible apply Only.when
    | with_reducible apply Only.ite
    | exact List.Subset.trans (by decide) hM
    | (intro _ _ _)
    | (intro _ _)

theorem only_reportRecord {cs : List Comp} {z s : State} (hK : Only cs z s) (num : Nat) (hM : [.regs, .clk, .rng, .tim, .pwm, .gd, .flt, .sup, .out] ⊆ cs) :
    Only cs z (State.reportRecord s num) := by
  unfold State.reportRecord
  try dsimp only
  repeat' first
    | with_reducible assumption
    | with_reducible apply only_report
    | with_reducible apply only_relay
    | with_reducible apply Only.when
    | with_reducible apply Only.ite
    | exact List.Subset.trans (by decide) hM
    | (intro _ _ _)
    | (intro _ _)

theorem only_releaseOwn {cs : List Comp} {z s : State} (hK : Only cs z s) (p : Cause → Bool) (hM : [.regs, .clk, .rng, .tim, .pwm, .gd, .flt, .sup, .out] ⊆ cs) :
    Only cs z (State.releaseOwn s p) := by
  unfold State.releaseOwn
  try dsimp only
  repeat' first
    | with_reducible assumption
    | with_reducible apply only_recRefresh
    | with_reducible apply only_fltRefresh
    | with_reducible apply only_reportRecord
    | with_reducible apply Only.foldlFst
    | with_reducible apply Only.foldl
    | with_reducible apply Only.ite
    | exact List.Subset.trans (by decide) hM
    | (intro _ _ _)
    | (intro _ _)
    | with_reducible refine Only.set_flt (Comp.of hM (by decide)) ?_

theorem only_refill {cs : List Comp} {z s : State} (hK : Only cs z s) (n : Nat) (hM : [.sup] ⊆ cs) :
    Only cs z (State.refill s n) := by
  unfold State.refill
  try dsimp only
  repeat' first
    | with_reducible assumption
    | with_reducible apply only_setSess
    | exact List.Subset.trans (by decide) hM
    | (intro _ _ _)
    | (intro _ _)

theorem only_toHost {cs : List Comp} {z s : State} (hK : Only cs z s) (sid typ : Nat) (resp : Bool) (status seq node : Nat) (body : List Byte) (dst : List Byte) (hM : [.regs, .out] ⊆ cs) :
    Only cs z (State.toHost s sid typ resp status seq node body dst) := by
  unfold State.toHost
  try dsimp only
  repeat' first
    | with_reducible assumption
    | with_reducible apply Only.wr
    | with_reducible apply Only.emit
    | exact List.Subset.trans (by decide) hM
    | (intro _ _ _)
    | (intro _ _)

theorem only_sendReport {cs : List Comp} {z s : State} (hK : Only cs z s) (n : Nat) (r : QRep) (hM : [.regs, .sup, .out] ⊆ cs) :
    Only cs z (State.sendReport s n r) := by
  unfold State.sendReport
  try dsimp only
  repeat' first
    | with_reducible assumption
    | with_reducible apply only_setSess
    | with_reducible apply only_toHost
    | with_reducible apply only_supStat
    | with_reducible apply only_setFlag
    | with_reducible apply Only.when
    | with_reducible apply Only.ite
    | exact List.Subset.trans (by decide) hM
    | (intro _ _ _)
    | (intro _ _)

theorem only_wrapped {cs : List Comp} {z s : State} (hK : Only cs z s) (hM : [.regs, .clk, .tim, .pwm, .gd, .flt, .sup, .out] ⊆ cs) :
    Only cs z (State.wrapped s) := by
  unfold State.wrapped
  try dsimp only
  repeat' first
    | with_reducible assumption
    | with_reducible apply only_setFlag
    | with_reducible apply only_raise
    | with_reducible apply only_report
    | with_reducible apply Only.ite
    | exact List.Subset.trans (by decide) hM
    | (intro _ _ _)
    | (intro _ _)

theorem only_runTime {cs : List Comp} {z s : State} (hK : Only cs z s) (d : Nat) (hM : [.regs, .clk, .tim, .pwm, .gd, .flt, .sup, .out] ⊆ cs) :
    Only cs z (State.runTime s d) := by
  unfold State.runTime
  try dsimp only
  repeat' first
    | with_reducible assumption
    | with_reducible apply only_wrapped
    | with_reducible apply Only.forUpTo
    | exact List.Subset.trans (by decide) hM
    | (intro _ _ _)
    | (intro _ _)
    | with_reducible refine Only.set_tim (Comp.of hM (by decide)) ?_

theorem only_slewTarget {cs : List Comp} {z s : State} (hK : Only cs z s) (hM : [.regs, .clk] ⊆ cs) :
    Only cs z (State.slewTarget s) := by
  unfold State.slewTarget
  try dsimp only
  repeat' first
    | with_reducible assumption
    | with_reducible apply only_setFlag
    | with_reducible apply Only.ite
    | exact List.Subset.trans (by decide) hM
    | (intro _ _ _)
    | (intro _ _)
    | with_reducible refine Only.set_clk (Comp.of hM (by decide)) ?_

theorem only_slewRun {cs : List Comp} {z s : State} (hK : Only cs z s) (n : Nat) (hM : [.regs, .clk] ⊆ cs) :
    Only cs z (State.slewRun s n) := by
  unfold State.slewRun
  try dsimp only
  repeat' first
    | with_reducible assumption
    | with_reducible apply only_put
    | with_reducible apply Only.ite
    | exact List.Subset.trans (by decide) hM
    | (intro _ _ _)
    | (intro _ _)
    | with_reducible refine Only.set_clk (Comp.of hM (by decide)) ?_

theorem only_pullRun {cs : List Comp} {z s : State} (hK : Only cs z s) (n : Nat) (hM : [.regs, .clk] ⊆ cs) :
    Only cs z (State.pullRun s n) := by
  unfold State.pullRun
  try dsimp only
  repeat' first
    | with_reducible assumption
    | with_reducible apply only_reacquire
    | with_reducible apply Only.ite
    | exact List.Subset.trans (by decide) hM
    | (intro _ _ _)
    | (intro _ _)
    | with_reducible refine Only.set_clk (Comp.of hM (by decide)) ?_

theorem only_runTicks {cs : List Comp} {z s : State} (hK : Only cs z s) (n : Nat) (hM : [.regs, .sys, .clk, .tim, .pwm, .gd, .flt, .sup, .out] ⊆ cs) :
    Only cs z (State.runTicks s n) := by
  unfold State.runTicks
  try dsimp only
  repeat' first
    | with_reducible assumption
    | with_reducible apply only_slewRun
    | with_reducible apply only_pullRun
    | with_reducible apply only_runTime
    | with_reducible apply Only.ite
    | exact List.Subset.trans (by decide) hM
    | (intro _ _ _)
    | (intro _ _)
    | with_reducible refine Only.set_sys (Comp.of hM (by decide)) ?_
    | with_reducible refine Only.set_clk (Comp.of hM (by decide)) ?_
    | (with_reducible refine Only.upd ?_ (Or.inl (Comp.of hM (by decide))) (Or.inr rfl) (Or.inl (Comp.of hM (by decide))) (Or.inr rfl) (Or.inr rfl) (Or.inr rfl) (Or.inr rfl) (Or.inr rfl) (Or.inr rfl) (Or.inr rfl) (Or.inr rfl) (Or.inr rfl) (Or.inr rfl) (Or.inr rfl) (Or.inr rfl) (Or.inr rfl) (Or.inr rfl) (Or.inr rfl) (Or.inr rfl) (Or.inr rfl) (Or.inr rfl) (Or.inr rfl) (Or.inr rfl))

theorem only_tick {cs : List Comp} {z s : State} (hK : Only cs z s) (hM : [.regs, .sys, .clk, .tim, .pwm, .gd, .flt, .sup, .out] ⊆ cs) :
    Only cs z (State.tick s) := by
  unfold State.tick
  try dsimp only
  repeat' first
    | with_reducible assumption
    | with_reducible apply only_runTicks
    | exact List.Subset.trans (by decide) hM
    | (intro _ _ _)
    | (intro _ _)

theorem only_runUp {cs : List Comp} {z s : State} (hK : Only cs z s) (t : Nat) (hM : [.regs, .sys, .clk, .tim, .pwm, .gd, .flt, .sup, .out] ⊆ cs) :
    Only cs z (State.runUp s t) := by
  unfold State.runUp
  try dsimp only
  repeat' first
    | with_reducible assumption
    | with_reducible apply only_runTicks
    | exact List.Subset.trans (by decide) hM
    | (intro _ _ _)
    | (intro _ _)

theorem only_runAfter {cs : List Comp} {z s : State} (hK : Only cs z s) (t ns : Nat) (hM : [.regs, .sys, .clk, .tim, .pwm, .gd, .flt, .sup, .out] ⊆ cs) :
    Only cs z (State.runAfter s t ns) := by
  unfold State.runAfter
  try dsimp only
  repeat' first
    | with_reducible assumption
    | with_reducible apply only_runUp
    | exact List.Subset.trans (by decide) hM
    | (intro _ _ _)
    | (intro _ _)

theorem only_runAhead {cs : List Comp} {z s : State} (hK : Only cs z s) (d : Nat) (hM : [.regs, .sys, .clk, .tim, .pwm, .gd, .flt, .sup, .out] ⊆ cs) :
    Only cs z (State.runAhead s d) := by
  unfold State.runAhead
  try dsimp only
  repeat' first
    | with_reducible assumption
    | with_reducible apply only_runTicks
    | exact List.Subset.trans (by decide) hM
    | (intro _ _ _)
    | (intro _ _)

theorem only_runToStime {cs : List Comp} {z s : State} (hK : Only cs z s) (t : Nat) (hM : [.regs, .sys, .clk, .tim, .pwm, .gd, .flt, .sup, .out] ⊆ cs) :
    Only cs z (State.runToStime s t) := by
  unfold State.runToStime
  try dsimp only
  repeat' first
    | with_reducible assumption
    | with_reducible apply only_runAhead
    | with_reducible apply Only.ite
    | exact List.Subset.trans (by decide) hM
    | (intro _ _ _)
    | (intro _ _)

theorem only_runToTick {cs : List Comp} {z s : State} (hK : Only cs z s) (t : Nat) (hM : [.regs, .sys, .clk, .tim, .pwm, .gd, .flt, .sup, .out] ⊆ cs) :
    Only cs z (State.runToTick s t) := by
  unfold State.runToTick
  try dsimp only
  repeat' first
    | with_reducible assumption
    | with_reducible apply only_runAhead
    | with_reducible apply Only.ite
    | exact List.Subset.trans (by decide) hM
    | (intro _ _ _)
    | (intro _ _)

theorem only_runTo {cs : List Comp} {z s : State} (hK : Only cs z s) (k : Nat) (hM : [.regs, .sys, .clk, .tim, .pwm, .gd, .flt, .sup, .out] ⊆ cs) :
    Only cs z (State.runTo s k) := by
  unfold State.runTo
  try dsimp only
  repeat' first
    | with_reducible assumption
    | with_reducible apply only_runToStime
    | exact List.Subset.trans (by decide) hM
    | (intro _ _ _)
    | (intro _ _)

theorem only_runIn {cs : List Comp} {z s : State} (hK : Only cs z s) (k : Nat) (hM : [.regs, .sys, .clk, .tim, .pwm, .gd, .flt, .sup, .out] ⊆ cs) :
    Only cs z (State.runIn s k) := by
  unfold State.runIn
  try dsimp only
  repeat' first
    | with_reducible assumption
    | with_reducible apply only_runTo
    | exact List.Subset.trans (by decide) hM
    | (intro _ _ _)
    | (intro _ _)

theorem only_setAdcPend {cs : List Comp} {z s : State} (hK : Only cs z s) (m : Nat) (v : Option AdcPend) (hM : [.adc] ⊆ cs) :
    Only cs z (State.setAdcPend s m v) := by
  unfold State.setAdcPend
  try dsimp only
  repeat' first
    | with_reducible assumption
    | exact List.Subset.trans (by decide) hM
    | (intro _ _ _)
    | (intro _ _)
    | with_reducible refine Only.set_adc (Comp.of hM (by decide)) ?_

theorem only_setAdcConv {cs : List Comp} {z s : State} (hK : Only cs z s) (a : Nat) (v : Option AdcConv) (hM : [.regs, .adc] ⊆ cs) :
    Only cs z (State.setAdcConv s a v) := by
  unfold State.setAdcConv
  try dsimp only
  repeat' first
    | with_reducible assumption
    | with_reducible apply only_setFlag
    | exact List.Subset.trans (by decide) hM
    | (intro _ _ _)
    | (intro _ _)
    | with_reducible refine Only.set_adc (Comp.of hM (by decide)) ?_

theorem only_setAdcHk {cs : List Comp} {z s : State} (hK : Only cs z s) (a c : Nat) (v : Option HkRes) (hM : [.adc] ⊆ cs) :
    Only cs z (State.setAdcHk s a c v) := by
  unfold State.setAdcHk
  try dsimp only
  repeat' first
    | with_reducible assumption
    | exact List.Subset.trans (by decide) hM
    | (intro _ _ _)
    | (intro _ _)
    | with_reducible refine Only.set_adc (Comp.of hM (by decide)) ?_

theorem only_adcTrigger {cs : List Comp} {z s : State} (hK : Only cs z s) (m : Nat) (hM : [.regs, .sys, .clk, .tim, .pwm, .gd, .flt, .adc, .sup, .out] ⊆ cs) :
    Only cs z (State.adcTrigger s m) := by
  unfold State.adcTrigger
  try dsimp only
  repeat' first
    | with_reducible assumption
    | with_reducible apply only_setAdcDue
    | with_reducible apply only_runToTick
    | with_reducible apply only_bumpReg
    | with_reducible apply only_raise
    | with_reducible apply only_setAdcPend
    | with_reducible apply Only.ite
    | exact List.Subset.trans (by decide) hM
    | (intro _ _ _)
    | (intro _ _)
    | split

theorem only_setAdcFreeAt {cs : List Comp} {z s : State} (hK : Only cs z s) (a t : Nat) (hM : [.adc] ⊆ cs) :
    Only cs z (State.setAdcFreeAt s a t) := by
  unfold State.setAdcFreeAt
  try dsimp only
  repeat' first
    | with_reducible assumption
    | exact List.Subset.trans (by decide) hM
    | (intro _ _ _)
    | (intro _ _)
    | with_reducible refine Only.set_adc (Comp.of hM (by decide)) ?_

theorem only_hold {cs : List Comp} {z s : State} (hK : Only cs z s) (a : Nat) (slot : Option Nat) (chan scn h : Nat) (late : Bool) (hM : [.regs, .sys, .clk, .tim, .pwm, .gd, .flt, .adc, .sup, .out] ⊆ cs) :
    Only cs z (State.hold s a slot chan scn h late) := by
  unfold State.hold
  try dsimp only
  repeat' first
    | with_reducible assumption
    | with_reducible apply only_put
    | with_reducible apply only_setAdcConv
    | with_reducible apply only_runToTick
    | exact List.Subset.trans (by decide) hM
    | (intro _ _ _)
    | (intro _ _)

theorem only_holdInstant {cs : List Comp} {z s : State} (hK : Only cs z s) (m : Nat) (hM : [.regs, .sys, .clk, .tim, .pwm, .gd, .flt, .adc, .sup, .out] ⊆ cs) :
    Only cs z (State.holdInstant s m) := by
  unfold State.holdInstant
  try dsimp only
  repeat' first
    | with_reducible assumption
    | with_reducible apply only_hold
    | with_reducible apply only_setAdcPend
    | with_reducible apply Only.ite
    | exact List.Subset.trans (by decide) hM
    | (intro _ _ _)
    | (intro _ _)
    | split

theorem only_hkStart {cs : List Comp} {z s : State} (hK : Only cs z s) (a c : Nat) (hM : [.regs, .sys, .clk, .tim, .pwm, .gd, .flt, .adc, .sup, .out] ⊆ cs) :
    Only cs z (State.hkStart s a c) := by
  unfold State.hkStart
  try dsimp only
  repeat' first
    | with_reducible assumption
    | with_reducible apply only_runToTick
    | with_reducible apply only_hold
    | with_reducible apply Only.ite
    | exact List.Subset.trans (by decide) hM
    | (intro _ _ _)
    | (intro _ _)

theorem only_lpStart {cs : List Comp} {z s : State} (hK : Only cs z s) (a : Nat) (hM : [.regs, .adc] ⊆ cs) :
    Only cs z (State.lpStart s a) := by
  unfold State.lpStart
  try dsimp only
  repeat' first
    | with_reducible assumption
    | with_reducible apply only_setFlag
    | with_reducible apply Only.ite
    | exact List.Subset.trans (by decide) hM
    | (intro _ _ _)
    | (intro _ _)
    | with_reducible refine Only.set_adc (Comp.of hM (by decide)) ?_

theorem only_uplinkSample {cs : List Comp} {z s : State} (hK : Only cs z s) (m scn : Nat) (v : Word) (hM : [.regs, .clk, .rng, .tim, .pwm, .gd, .flt, .out] ⊆ cs) :
    Only cs z (State.uplinkSample s m scn v) := by
  unfold State.uplinkSample
  try dsimp only
  repeat' first
    | with_reducible assumption
    | with_reducible apply only_bumpReg
    | with_reducible apply only_raise
    | with_reducible apply Only.ite
    | exact List.Subset.trans (by decide) hM
    | (intro _ _ _)
    | (intro _ _)
    | with_reducible refine Only.set_rng (Comp.of hM (by decide)) ?_

theorem only_slotResult {cs : List Comp} {z s : State} (hK : Only cs z s) (a m : Nat) (v : AdcConv) (raw : Int) (hM : [.regs, .clk, .rng, .tim, .pwm, .gd, .flt, .eng, .adc, .out] ⊆ cs) :
    Only cs z (State.slotResult s a m v raw) := by
  unfold State.slotResult
  try dsimp only
  repeat' first
    | with_reducible assumption
    | with_reducible apply only_wrN
    | with_reducible apply only_bumpWrap
    | with_reducible apply only_setResult
    | with_reducible apply only_bump
    | with_reducible apply only_bumpReg
    | with_reducible apply only_raise
    | with_reducible apply only_uplinkSample
    | with_reducible apply Only.wr
    | with_reducible apply Only.iteFst
    | with_reducible apply Only.ite
    | exact List.Subset.trans (by decide) hM
    | (intro _ _ _)
    | (intro _ _)
    | with_reducible refine Only.set_adc (Comp.of hM (by decide)) ?_

theorem only_conversionEnd {cs : List Comp} {z s : State} (hK : Only cs z s) (a : Nat) (raw : Int) (hM : [.regs, .sys, .clk, .rng, .tim, .pwm, .gd, .flt, .eng, .adc, .sup, .out] ⊆ cs) :
    Only cs z (State.conversionEnd s a raw) := by
  unfold State.conversionEnd
  try dsimp only
  repeat' first
    | with_reducible assumption
    | with_reducible apply only_runToTick
    | with_reducible apply only_setAdcConv
    | with_reducible apply only_setAdcFreeAt
    | with_reducible apply only_slotResult
    | with_reducible apply only_setAdcHk
    | with_reducible apply only_lpStart
    | with_reducible apply Only.when
    | exact List.Subset.trans (by decide) hM
    | (intro _ _ _)
    | (intro _ _)
    | split
    | with_reducible refine Only.set_adc (Comp.of hM (by decide)) ?_

theorem only_lpWrite {cs : List Comp} {z s : State} (hK : Only cs z s) (v : Nat) (hM : [.regs, .adc] ⊆ cs) :
    Only cs z (State.lpWrite s v) := by
  unfold State.lpWrite
  try dsimp only
  repeat' first
    | with_reducible assumption
    | with_reducible apply only_setFlag
    | with_reducible apply only_lpStart
    | with_reducible apply Only.forUpTo
    | with_reducible apply Only.ite
    | exact List.Subset.trans (by decide) hM
    | (intro _ _ _)
    | (intro _ _)

theorem only_lpSwitchEnd {cs : List Comp} {z s : State} (hK : Only cs z s) (a : Nat) (hM : [.regs, .adc] ⊆ cs) :
    Only cs z (State.lpSwitchEnd s a) := by
  unfold State.lpSwitchEnd
  try dsimp only
  repeat' first
    | with_reducible assumption
    | with_reducible apply only_setAdcFreeAt
    | with_reducible apply only_lpStart
    | exact List.Subset.trans (by decide) hM
    | (intro _ _ _)
    | (intro _ _)
    | with_reducible refine Only.set_adc (Comp.of hM (by decide)) ?_

theorem only_chWrite {cs : List Comp} {z s : State} (hK : Only cs z s) (m v : Nat) (hM : [.regs, .adc] ⊆ cs) :
    Only cs z (State.chWrite s m v) := by
  unfold State.chWrite
  try dsimp only
  repeat' first
    | with_reducible assumption
    | with_reducible apply only_setFlag
    | with_reducible apply only_put
    | with_reducible apply Only.iteFst
    | with_reducible apply Only.ite
    | exact List.Subset.trans (by decide) hM
    | (intro _ _ _)
    | (intro _ _)
    | with_reducible refine Only.set_adc (Comp.of hM (by decide)) ?_

theorem only_refCheck {cs : List Comp} {z s : State} (hK : Only cs z s) (a : Nat) (hM : [.regs, .sys, .clk, .tim, .pwm, .gd, .flt, .adc, .sup, .out] ⊆ cs) :
    Only cs z (State.refCheck s a) := by
  unfold State.refCheck
  try dsimp only
  repeat' first
    | with_reducible assumption
    | with_reducible apply only_runUp
    | with_reducible apply only_setAdcHk
    | with_reducible apply only_setFlag
    | with_reducible apply only_raise
    | with_reducible apply Only.ite
    | exact List.Subset.trans (by decide) hM
    | (intro _ _ _)
    | (intro _ _)
    | split
    | with_reducible refine Only.set_adc (Comp.of hM (by decide)) ?_

theorem only_rawLatch {cs : List Comp} {z s : State} (hK : Only cs z s) (m : Nat) (hM : [.adc] ⊆ cs) :
    Only cs z (State.rawLatch s m) := by
  unfold State.rawLatch
  try dsimp only
  repeat' first
    | with_reducible assumption
    | exact List.Subset.trans (by decide) hM
    | (intro _ _ _)
    | (intro _ _)
    | with_reducible refine Only.set_adc (Comp.of hM (by decide)) ?_

theorem only_adcCntClr {cs : List Comp} {z s : State} (hK : Only cs z s) (hM : [.regs] ⊆ cs) :
    Only cs z (State.adcCntClr s) := by
  unfold State.adcCntClr
  try dsimp only
  repeat' first
    | with_reducible assumption
    | with_reducible apply Only.wr
    | with_reducible apply Only.forUpTo
    | exact List.Subset.trans (by decide) hM
    | (intro _ _ _)
    | (intro _ _)

theorem only_cdrMode {cs : List Comp} {z s : State} (hK : Only cs z s) (p : Nat) (hM : [.regs] ⊆ cs) :
    Only cs z (State.cdrMode s p) := by
  unfold State.cdrMode
  try dsimp only
  repeat' first
    | with_reducible assumption
    | with_reducible apply only_setFlag
    | with_reducible apply Only.when
    | exact List.Subset.trans (by decide) hM
    | (intro _ _ _)
    | (intro _ _)

theorem only_laneMove {cs : List Comp} {z s : State} (hK : Only cs z s) (svc : Bool) (p l st : Nat) (hM : [.regs, .clk, .lnk, .tim, .pwm, .gd, .flt, .out] ⊆ cs) :
    Only cs z (State.laneMove svc s p l st) := by
  unfold State.laneMove
  try dsimp only
  repeat' first
    | with_reducible assumption
    | with_reducible apply only_laneEnter
    | with_reducible apply only_setFlag
    | with_reducible apply only_cdrMode
    | with_reducible apply only_raise
    | with_reducible apply only_selectUp
    | with_reducible apply Only.when
    | with_reducible apply Only.ite
    | exact List.Subset.trans (by decide) hM
    | (intro _ _ _)
    | (intro _ _)

theorem only_laneTo {cs : List Comp} {z s : State} (hK : Only cs z s) (p l st : Nat) (hM : [.regs, .clk, .lnk, .tim, .pwm, .gd, .flt, .out] ⊆ cs) :
    Only cs z (State.laneTo s p l st) := by
  unfold State.laneTo
  try dsimp only
  repeat' first
    | with_reducible assumption
    | with_reducible apply only_laneMove
    | exact List.Subset.trans (by decide) hM
    | (intro _ _ _)
    | (intro _ _)

theorem only_lanesTo {cs : List Comp} {z s : State} (hK : Only cs z s) (p st : Nat) (hM : [.regs, .clk, .lnk, .tim, .pwm, .gd, .flt, .out] ⊆ cs) :
    Only cs z (State.lanesTo s p st) := by
  unfold State.lanesTo
  try dsimp only
  repeat' first
    | with_reducible assumption
    | with_reducible apply only_laneMove
    | with_reducible apply Only.foldlFst
    | with_reducible apply Only.foldl
    | exact List.Subset.trans (by decide) hM
    | (intro _ _ _)
    | (intro _ _)

theorem only_laneStart {cs : List Comp} {z s : State} (hK : Only cs z s) (p l : Nat) (hM : [.regs, .clk, .lnk, .tim, .pwm, .gd, .flt, .out] ⊆ cs) :
    Only cs z (State.laneStart s p l) := by
  unfold State.laneStart
  try dsimp only
  repeat' first
    | with_reducible assumption
    | with_reducible apply only_laneTo
    | with_reducible apply Only.when
    | exact List.Subset.trans (by decide) hM
    | (intro _ _ _)
    | (intro _ _)

theorem only_pllOut {cs : List Comp} {z s : State} (hK : Only cs z s) (k : Nat) (hM : [.regs, .lnk] ⊆ cs) :
    Only cs z (State.pllOut s k) := by
  unfold State.pllOut
  try dsimp only
  repeat' first
    | with_reducible assumption
    | with_reducible apply only_setFlag
    | with_reducible apply Only.when
    | exact List.Subset.trans (by decide) hM
    | (intro _ _ _)
    | (intro _ _)
    | with_reducible refine Only.set_lnk (Comp.of hM (by decide)) ?_

theorem only_pllChill {cs : List Comp} {z s : State} (hK : Only cs z s) (k : Nat) (hM : [.regs, .lnk] ⊆ cs) :
    Only cs z (State.pllChill s k) := by
  unfold State.pllChill
  try dsimp only
  repeat' first
    | with_reducible assumption
    | with_reducible apply only_setFlag
    | with_reducible apply only_pllOut
    | with_reducible apply Only.ite
    | exact List.Subset.trans (by decide) hM
    | (intro _ _ _)
    | (intro _ _)

theorem only_lanesBoot {cs : List Comp} {z s : State} (hK : Only cs z s) (hM : [.regs, .clk, .lnk, .tim, .pwm, .gd, .flt, .out] ⊆ cs) :
    Only cs z (State.lanesBoot s) := by
  unfold State.lanesBoot
  try dsimp only
  repeat' first
    | with_reducible assumption
    | with_reducible apply only_laneTo
    | with_reducible apply only_laneStart
    | with_reducible apply only_pllChill
    | with_reducible apply Only.foldlFst
    | with_reducible apply Only.foldl
    | with_reducible apply Only.forUpTo
    | with_reducible apply Only.ite
    | exact List.Subset.trans (by decide) hM
    | (intro _ _ _)
    | (intro _ _)

theorem only_lanePllLock {cs : List Comp} {z s : State} (hK : Only cs z s) (k : Nat) (hM : [.regs, .clk, .lnk, .tim, .pwm, .gd, .flt, .out, .free] ⊆ cs) :
    Only cs z (State.lanePllLock s k) := by
  unfold State.lanePllLock
  try dsimp only
  repeat' first
    | with_reducible assumption
    | with_reducible apply only_put
    | with_reducible apply only_setFlag
    | with_reducible apply only_laneStart
    | with_reducible apply Only.useFree
    | with_reducible apply Only.foldlFst
    | with_reducible apply Only.foldl
    | with_reducible apply Only.ite
    | exact List.Subset.trans (by decide) hM
    | (intro _ _ _)
    | (intro _ _)

theorem only_lanePllLoss {cs : List Comp} {z s : State} (hK : Only cs z s) (k : Nat) (hM : [.regs, .clk, .lnk, .tim, .pwm, .gd, .flt, .out] ⊆ cs) :
    Only cs z (State.lanePllLoss s k) := by
  unfold State.lanePllLoss
  try dsimp only
  repeat' first
    | with_reducible assumption
    | with_reducible apply only_laneMove
    | with_reducible apply only_pllOut
    | with_reducible apply only_raise
    | with_reducible apply Only.foldlFst
    | with_reducible apply Only.foldl
    | with_reducible apply Only.ite
    | exact List.Subset.trans (by decide) hM
    | (intro _ _ _)
    | (intro _ _)

theorem only_bothPllsOut {cs : List Comp} {z s : State} (hK : Only cs z s) (hM : [.regs, .sys, .clk, .tim, .pwm, .gd, .flt, .sup, .out] ⊆ cs) :
    Only cs z (State.bothPllsOut s) := by
  unfold State.bothPllsOut
  try dsimp only
  repeat' first
    | with_reducible assumption
    | with_reducible apply only_runAfter
    | with_reducible apply only_runUp
    | with_reducible apply only_raise
    | with_reducible apply Only.ite
    | exact List.Subset.trans (by decide) hM
    | (intro _ _ _)
    | (intro _ _)

theorem only_cdrLock {cs : List Comp} {z s : State} (hK : Only cs z s) (p l : Nat) (hM : [.regs, .clk, .lnk, .tim, .pwm, .gd, .flt, .out] ⊆ cs) :
    Only cs z (State.cdrLock s p l) := by
  unfold State.cdrLock
  try dsimp only
  repeat' first
    | with_reducible assumption
    | with_reducible apply only_laneTo
    | with_reducible apply Only.when
    | exact List.Subset.trans (by decide) hM
    | (intro _ _ _)
    | (intro _ _)

theorem only_sendTraining {cs : List Comp} {z s : State} (hK : Only cs z s) (p : Nat) (hM : [.out, .free] ⊆ cs) :
    Only cs z (State.sendTraining s p) := by
  unfold State.sendTraining
  try dsimp only
  repeat' first
    | with_reducible assumption
    | with_reducible apply only_sendSyms
    | with_reducible apply Only.foldlFst
    | with_reducible apply Only.foldl
    | exact List.Subset.trans (by decide) hM
    | (intro _ _ _)
    | (intro _ _)

theorem only_trainAnswer {cs : List Comp} {z s : State} (hK : Only cs z s) (p : Nat) (hM : [.lnk, .out, .free] ⊆ cs) :
    Only cs z (State.trainAnswer s p) := by
  unfold State.trainAnswer
  try dsimp only
  repeat' first
    | with_reducible assumption
    | with_reducible apply only_setPort
    | with_reducible apply only_sendTraining
    | with_reducible apply Only.ite
    | exact List.Subset.trans (by decide) hM
    | (intro _ _ _)
    | (intro _ _)

theorem only_enterTrain {cs : List Comp} {z s : State} (hK : Only cs z s) (p : Nat) (hM : [.regs, .clk, .lnk, .tim, .pwm, .gd, .flt, .out, .free] ⊆ cs) :
    Only cs z (State.enterTrain s p) := by
  unfold State.enterTrain
  try dsimp only
  repeat' first
    | with_reducible assumption
    | with_reducible apply only_setFlag
    | with_reducible apply only_lanesTo
    | with_reducible apply only_setLane
    | with_reducible apply only_setPort
    | with_reducible apply only_sendTraining
    | with_reducible apply only_trainAnswer
    | with_reducible apply Only.foldlFst
    | with_reducible apply Only.foldl
    | with_reducible apply Only.when
    | exact List.Subset.trans (by decide) hM
    | (intro _ _ _)
    | (intro _ _)

theorem only_trainHears {cs : List Comp} {z s : State} (hK : Only cs z s) (p l : Nat) (lv : List Int) (hM : [.lnk, .out, .free] ⊆ cs) :
    Only cs z (State.trainHears s p l lv) := by
  unfold State.trainHears
  try dsimp only
  repeat' first
    | with_reducible assumption
    | with_reducible apply only_setLane
    | with_reducible apply only_trainAnswer
    | with_reducible apply Only.when
    | with_reducible apply Only.ite
    | exact List.Subset.trans (by decide) hM
    | (intro _ _ _)
    | (intro _ _)
    | split

theorem only_frameHears {cs : List Comp} {z s : State} (hK : Only cs z s) (p l : Nat) (lv : List Int) (hM : [.lnk] ⊆ cs) :
    Only cs z (State.frameHears s p l lv) := by
  unfold State.frameHears
  try dsimp only
  repeat' first
    | with_reducible assumption
    | with_reducible apply only_setLane
    | with_reducible apply Only.iteFst
    | with_reducible apply Only.ite
    | exact List.Subset.trans (by decide) hM
    | (intro _ _ _)
    | (intro _ _)
    | split

theorem only_ringUp {cs : List Comp} {z s : State} (hK : Only cs z s) (p : Nat) (hM : [.regs, .lnk] ⊆ cs) :
    Only cs z (State.ringUp s p) := by
  unfold State.ringUp
  try dsimp only
  repeat' first
    | with_reducible assumption
    | with_reducible apply only_put
    | with_reducible apply only_setPort
    | with_reducible apply Only.when
    | with_reducible apply Only.ite
    | exact List.Subset.trans (by decide) hM
    | (intro _ _ _)
    | (intro _ _)

theorem only_frameLock {cs : List Comp} {z s : State} (hK : Only cs z s) (p l : Nat) (hM : [.regs, .clk, .img, .lnk, .tim, .pwm, .gd, .dpx, .flt, .out, .free] ⊆ cs) :
    Only cs z (State.frameLock s p l) := by
  unfold State.frameLock
  try dsimp only
  repeat' first
    | with_reducible assumption
    | with_reducible apply only_enterTrain
    | with_reducible apply only_laneTo
    | with_reducible apply only_put
    | with_reducible apply only_setPort
    | with_reducible apply only_ringUp
    | with_reducible apply only_enterPbWait
    | with_reducible apply Only.when
    | with_reducible apply Only.ite
    | exact List.Subset.trans (by decide) hM
    | (intro _ _ _)
    | (intro _ _)

theorem only_lossOfFrame {cs : List Comp} {z s : State} (hK : Only cs z s) (p l : Nat) (hM : [.regs, .clk, .lnk, .tim, .pwm, .gd, .flt, .out] ⊆ cs) :
    Only cs z (State.lossOfFrame s p l) := by
  unfold State.lossOfFrame
  try dsimp only
  repeat' first
    | with_reducible assumption
    | with_reducible apply only_laneTo
    | with_reducible apply Only.when
    | exact List.Subset.trans (by decide) hM
    | (intro _ _ _)
    | (intro _ _)

theorem only_bufferLimit {cs : List Comp} {z s : State} (hK : Only cs z s) (p l : Nat) (hM : [.regs, .clk, .lnk, .tim, .pwm, .gd, .flt, .out] ⊆ cs) :
    Only cs z (State.bufferLimit s p l) := by
  unfold State.bufferLimit
  try dsimp only
  repeat' first
    | with_reducible assumption
    | with_reducible apply only_laneTo
    | with_reducible apply Only.when
    | exact List.Subset.trans (by decide) hM
    | (intro _ _ _)
    | (intro _ _)

theorem only_lossOfSignal {cs : List Comp} {z s : State} (hK : Only cs z s) (p l : Nat) (hM : [.regs, .clk, .lnk, .tim, .pwm, .gd, .flt, .out] ⊆ cs) :
    Only cs z (State.lossOfSignal s p l) := by
  unfold State.lossOfSignal
  try dsimp only
  repeat' first
    | with_reducible assumption
    | with_reducible apply only_laneTo
    | with_reducible apply Only.when
    | exact List.Subset.trans (by decide) hM
    | (intro _ _ _)
    | (intro _ _)

theorem only_laneRetry {cs : List Comp} {z s : State} (hK : Only cs z s) (p l : Nat) (hM : [.regs, .sys, .clk, .lnk, .tim, .pwm, .gd, .flt, .sup, .out, .free] ⊆ cs) :
    Only cs z (State.laneRetry s p l) := by
  unfold State.laneRetry
  try dsimp only
  repeat' first
    | with_reducible assumption
    | with_reducible apply only_runAfter
    | with_reducible apply only_bump
    | with_reducible apply only_laneTo
    | with_reducible apply only_enterTrain
    | with_reducible apply Only.when
    | with_reducible apply Only.ite
    | exact List.Subset.trans (by decide) hM
    | (intro _ _ _)
    | (intro _ _)

theorem only_trainingDone {cs : List Comp} {z s : State} (hK : Only cs z s) (p : Nat) (hM : [.regs, .clk, .lnk, .tim, .pwm, .gd, .flt, .out] ⊆ cs) :
    Only cs z (State.trainingDone s p) := by
  unfold State.trainingDone
  try dsimp only
  repeat' first
    | with_reducible assumption
    | with_reducible apply only_setFlag
    | with_reducible apply only_put
    | with_reducible apply only_lanesTo
    | with_reducible apply only_raise
    | with_reducible apply Only.ite
    | exact List.Subset.trans (by decide) hM
    | (intro _ _ _)
    | (intro _ _)

theorem only_trainingFail {cs : List Comp} {z s : State} (hK : Only cs z s) (p err : Nat) (hM : [.regs, .sys, .clk, .lnk, .tim, .pwm, .gd, .flt, .sup, .out] ⊆ cs) :
    Only cs z (State.trainingFail s p err) := by
  unfold State.trainingFail
  try dsimp only
  repeat' first
    | with_reducible assumption
    | with_reducible apply only_runAfter
    | with_reducible apply only_put
    | with_reducible apply only_lanesTo
    | with_reducible apply only_setPort
    | with_reducible apply only_raise
    | with_reducible apply Only.ite
    | exact List.Subset.trans (by decide) hM
    | (intro _ _ _)
    | (intro _ _)

theorem only_trainWaitEnd {cs : List Comp} {z s : State} (hK : Only cs z s) (p : Nat) (hM : [.regs, .sys, .clk, .lnk, .tim, .pwm, .gd, .flt, .sup, .out] ⊆ cs) :
    Only cs z (State.trainWaitEnd s p) := by
  unfold State.trainWaitEnd
  try dsimp only
  repeat' first
    | with_reducible assumption
    | with_reducible apply only_runAfter
    | with_reducible apply only_setPort
    | with_reducible apply only_put
    | with_reducible apply only_setLane
    | with_reducible apply Only.foldlFst
    | with_reducible apply Only.foldl
    | exact List.Subset.trans (by decide) hM
    | (intro _ _ _)
    | (intro _ _)
    | split

theorem only_eyeUpdate {cs : List Comp} {z s : State} (hK : Only cs z s) (p l height width ser : Nat) (hM : [.regs, .clk, .lnk, .tim, .pwm, .gd, .flt, .out] ⊆ cs) :
    Only cs z (State.eyeUpdate s p l height width ser) := by
  unfold State.eyeUpdate
  try dsimp only
  repeat' first
    | with_reducible assumption
    | with_reducible apply only_setFlag
    | with_reducible apply only_put
    | with_reducible apply only_setLane
    | with_reducible apply only_raise
    | with_reducible apply Only.ite
    | exact List.Subset.trans (by decide) hM
    | (intro _ _ _)
    | (intro _ _)

theorem only_chillWrite {cs : List Comp} {z s : State} (hK : Only cs z s) (p : Nat) (on : Bool) (hM : [.regs, .clk, .lnk, .tim, .pwm, .gd, .flt, .out] ⊆ cs) :
    Only cs z (State.chillWrite s p on) := by
  unfold State.chillWrite
  try dsimp only
  repeat' first
    | with_reducible assumption
    | with_reducible apply only_setFlag
    | with_reducible apply only_lanesTo
    | with_reducible apply only_pllChill
    | with_reducible apply only_laneTo
    | with_reducible apply only_laneStart
    | with_reducible apply Only.foldlFst
    | with_reducible apply Only.foldl
    | with_reducible apply Only.ite
    | exact List.Subset.trans (by decide) hM
    | (intro _ _ _)
    | (intro _ _)

theorem only_trainWrite {cs : List Comp} {z s : State} (hK : Only cs z s) (p : Nat) (hM : [.regs, .clk, .lnk, .tim, .pwm, .gd, .flt, .out, .free] ⊆ cs) :
    Only cs z (State.trainWrite s p) := by
  unfold State.trainWrite
  try dsimp only
  repeat' first
    | with_reducible assumption
    | with_reducible apply only_enterTrain
    | with_reducible apply only_setFlag
    | with_reducible apply Only.ite
    | exact List.Subset.trans (by decide) hM
    | (intro _ _ _)
    | (intro _ _)

theorem only_lnkCntClr {cs : List Comp} {z s : State} (hK : Only cs z s) (p : Nat) (hM : [.regs] ⊆ cs) :
    Only cs z (State.lnkCntClr s p) := by
  unfold State.lnkCntClr
  try dsimp only
  repeat' first
    | with_reducible assumption
    | with_reducible apply Only.wr
    | with_reducible apply Only.foldlFst
    | with_reducible apply Only.foldl
    | exact List.Subset.trans (by decide) hM
    | (intro _ _ _)
    | (intro _ _)

theorem only_laneBand {cs : List Comp} {z s : State} (hK : Only cs z s) (b : Nat) (hM : [.regs] ⊆ cs) :
    Only cs z (State.laneBand s b) := by
  unfold State.laneBand
  try dsimp only
  repeat' first
    | with_reducible assumption
    | with_reducible apply only_put
    | with_reducible apply Only.wr
    | with_reducible apply Only.forUpTo
    | exact List.Subset.trans (by decide) hM
    | (intro _ _ _)
    | (intro _ _)
    | split

theorem only_wire {cs : List Comp} {z s : State} (hK : Only cs z s) (hM : [.regs, .lnk] ⊆ cs) :
    Only cs z (State.wire s) := by
  unfold State.wire
  try dsimp only
  repeat' first
    | with_reducible assumption
    | with_reducible apply only_setPort
    | with_reducible apply only_wrN
    | with_reducible apply Only.forUpTo
    | exact List.Subset.trans (by decide) hM
    | (intro _ _ _)
    | (intro _ _)

theorem only_setSwitch {cs : List Comp} {z s : State} (hK : Only cs z s) (n : Nat) (sw : Sw) (on : Bool) (hM : [.pwm, .gd] ⊆ cs) :
    Only cs z (State.setSwitch s n sw on) := by
  unfold State.setSwitch
  try dsimp only
  repeat' first
    | with_reducible assumption
    | with_reducible apply only_setLeg
    | with_reducible apply only_setGate
    | with_reducible apply Only.ite
    | exact List.Subset.trans (by decide) hM
    | (intro _ _ _)
    | (intro _ _)
    | split

theorem only_l2Edge {cs : List Comp} {z s : State} (hK : Only cs z s) (n : Nat) (hM : [.regs, .clk, .rng, .tim, .pwm, .gd, .flt, .sup, .out] ⊆ cs) :
    Only cs z (State.l2Edge s n) := by
  unfold State.l2Edge
  try dsimp only
  repeat' first
    | with_reducible assumption
    | with_reducible apply only_setFlag
    | with_reducible apply only_put
    | with_reducible apply only_releaseOwn
    | with_reducible apply Only.ite
    | exact List.Subset.trans (by decide) hM
    | (intro _ _ _)
    | (intro _ _)

theorem only_setH {cs : List Comp} {z s : State} (hK : Only cs z s) (n : Nat) (h : Bool) (t : Nat) (hM : [.regs, .clk, .rng, .tim, .pwm, .gd, .flt, .sup, .out] ⊆ cs) :
    Only cs z (State.setH s n h t) := by
  unfold State.setH
  try dsimp only
  repeat' first
    | with_reducible assumption
    | with_reducible apply only_setChan
    | with_reducible apply only_l2Edge
    | with_reducible apply only_setSwitch
    | with_reducible apply only_setLeg
    | with_reducible apply only_gateRefresh
    | with_reducible apply Only.ite
    | exact List.Subset.trans (by decide) hM
    | (intro _ _ _)
    | (intro _ _)
    | split

theorem only_enterRun {cs : List Comp} {z s : State} (hK : Only cs z s) (n : Nat) (h : Bool) (t : Nat) (hM : [.regs, .pwm, .gd] ⊆ cs) :
    Only cs z (State.enterRun s n h t) := by
  unfold State.enterRun
  try dsimp only
  repeat' first
    | with_reducible assumption
    | with_reducible apply only_put
    | with_reducible apply only_setGateLeg
    | with_reducible apply only_legRefresh1
    | with_reducible apply only_setLeg
    | with_reducible apply only_setSwitch
    | with_reducible apply only_gateRefresh
    | with_reducible apply Only.ite
    | exact List.Subset.trans (by decide) hM
    | (intro _ _ _)
    | (intro _ _)
    | split

theorem only_formCompares {cs : List Comp} {z s : State} (hK : Only cs z s) (n d l free : Nat) (hM : [.regs, .pwm] ⊆ cs) :
    Only cs z (State.formCompares s n d l free) := by
  unfold State.formCompares
  try dsimp only
  repeat' first
    | with_reducible assumption
    | with_reducible apply only_setFlag
    | with_reducible apply only_setChan
    | with_reducible apply Only.ite
    | exact List.Subset.trans (by decide) hM
    | (intro _ _ _)
    | (intro _ _)

theorem only_fracErr {cs : List Comp} {z s : State} (hK : Only cs z s) (n : Nat) (bad : Bool) (hM : [.regs, .clk, .tim, .pwm, .gd, .flt, .out] ⊆ cs) :
    Only cs z (State.fracErr s n bad) := by
  unfold State.fracErr
  try dsimp only
  repeat' first
    | with_reducible assumption
    | with_reducible apply only_setFlag
    | with_reducible apply only_raise
    | with_reducible apply Only.ite
    | exact List.Subset.trans (by decide) hM
    | (intro _ _ _)
    | (intro _ _)

theorem only_offerEvent {cs : List Comp} {z s : State} (hK : Only cs z s) (n k t : Nat) (hM : [.eng, .adc] ⊆ cs) :
    Only cs z (State.offerEvent s n k t) := by
  unfold State.offerEvent
  try dsimp only
  repeat' first
    | with_reducible assumption
    | with_reducible apply only_setEngGroup
    | with_reducible apply only_setAdcDue
    | with_reducible apply Only.forUpTo
    | with_reducible apply Only.when
    | exact List.Subset.trans (by decide) hM
    | (intro _ _ _)
    | (intro _ _)

theorem only_offerBoundary {cs : List Comp} {z s : State} (hK : Only cs z s) (t : Nat) (hM : [.eng, .adc] ⊆ cs) :
    Only cs z (State.offerBoundary s t) := by
  unfold State.offerBoundary
  try dsimp only
  repeat' first
    | with_reducible assumption
    | with_reducible apply only_setEngGroup
    | with_reducible apply only_setAdcDue
    | with_reducible apply Only.forUpTo
    | with_reducible apply Only.when
    | exact List.Subset.trans (by decide) hM
    | (intro _ _ _)
    | (intro _ _)

theorem only_carrierStart {cs : List Comp} {z s : State} (hK : Only cs z s) (n t : Nat) (hM : [.regs, .clk, .rng, .tim, .pwm, .gd, .flt, .eng, .adc, .sup, .out] ⊆ cs) :
    Only cs z (State.carrierStart s n t) := by
  unfold State.carrierStart
  try dsimp only
  repeat' first
    | with_reducible assumption
    | with_reducible apply only_setFlag
    | with_reducible apply only_raise
    | with_reducible apply only_fracErr
    | with_reducible apply only_wrN
    | with_reducible apply only_formCompares
    | with_reducible apply only_setChan
    | with_reducible apply only_setGateLeg
    | with_reducible apply only_l2Edge
    | with_reducible apply only_enterRun
    | with_reducible apply only_setH
    | with_reducible apply only_offerEvent
    | with_reducible apply Only.iteFst
    | with_reducible apply Only.ite
    | exact List.Subset.trans (by decide) hM
    | (intro _ _ _)
    | (intro _ _)

theorem only_carrierE0 {cs : List Comp} {z s : State} (hK : Only cs z s) (n : Nat) (hM : [.regs, .sys, .clk, .rng, .tim, .pwm, .gd, .flt, .eng, .adc, .sup, .out] ⊆ cs) :
    Only cs z (State.carrierE0 s n) := by
  unfold State.carrierE0
  try dsimp only
  repeat' first
    | with_reducible assumption
    | with_reducible apply only_carrierStart
    | with_reducible apply only_runToTick
    | exact List.Subset.trans (by decide) hM
    | (intro _ _ _)
    | (intro _ _)
    | split

theorem only_midReload {cs : List Comp} {z s : State} (hK : Only cs z s) (n t : Nat) (hM : [.regs, .clk, .rng, .tim, .pwm, .gd, .flt, .sup, .out] ⊆ cs) :
    Only cs z (State.midReload s n t) := by
  unfold State.midReload
  try dsimp only
  repeat' first
    | with_reducible assumption
    | with_reducible apply only_fracErr
    | with_reducible apply only_wrN
    | with_reducible apply only_formCompares
    | with_reducible apply only_setFlag
    | with_reducible apply only_setChan
    | with_reducible apply only_setH
    | with_reducible apply Only.iteFst
    | with_reducible apply Only.ite
    | exact List.Subset.trans (by decide) hM
    | (intro _ _ _)
    | (intro _ _)

theorem only_carrierMidpoint {cs : List Comp} {z s : State} (hK : Only cs z s) (n : Nat) (hM : [.regs, .sys, .clk, .rng, .tim, .pwm, .gd, .flt, .eng, .adc, .sup, .out] ⊆ cs) :
    Only cs z (State.carrierMidpoint s n) := by
  unfold State.carrierMidpoint
  try dsimp only
  repeat' first
    | with_reducible assumption
    | with_reducible apply only_runToTick
    | with_reducible apply only_setChan
    | with_reducible apply only_midReload
    | with_reducible apply only_offerEvent
    | with_reducible apply Only.when
    | with_reducible apply Only.ite
    | exact List.Subset.trans (by decide) hM
    | (intro _ _ _)
    | (intro _ _)

theorem only_compareE2 {cs : List Comp} {z s : State} (hK : Only cs z s) (n : Nat) (hM : [.regs, .sys, .clk, .rng, .tim, .pwm, .gd, .flt, .eng, .adc, .sup, .out] ⊆ cs) :
    Only cs z (State.compareE2 s n) := by
  unfold State.compareE2
  try dsimp only
  repeat' first
    | with_reducible assumption
    | with_reducible apply only_runToTick
    | with_reducible apply only_setChan
    | with_reducible apply only_setH
    | with_reducible apply only_offerEvent
    | with_reducible apply Only.when
    | with_reducible apply Only.ite
    | exact List.Subset.trans (by decide) hM
    | (intro _ _ _)
    | (intro _ _)

theorem only_compareE3 {cs : List Comp} {z s : State} (hK : Only cs z s) (n : Nat) (hM : [.regs, .sys, .clk, .rng, .tim, .pwm, .gd, .flt, .eng, .adc, .sup, .out] ⊆ cs) :
    Only cs z (State.compareE3 s n) := by
  unfold State.compareE3
  try dsimp only
  repeat' first
    | with_reducible assumption
    | with_reducible apply only_runToTick
    | with_reducible apply only_setChan
    | with_reducible apply only_setH
    | with_reducible apply only_offerEvent
    | with_reducible apply Only.ite
    | exact List.Subset.trans (by decide) hM
    | (intro _ _ _)
    | (intro _ _)

theorem only_carriersMoved {cs : List Comp} {z s : State} (hK : Only cs z s) (old : Nat) (hM : [.regs, .clk, .rng, .tim, .pwm, .gd, .flt, .sup, .out] ⊆ cs) :
    Only cs z (State.carriersMoved s old) := by
  unfold State.carriersMoved
  try dsimp only
  repeat' first
    | with_reducible assumption
    | with_reducible apply only_setLeg
    | with_reducible apply only_setChan
    | with_reducible apply only_setH
    | with_reducible apply Only.forUpTo
    | with_reducible apply Only.when
    | with_reducible apply Only.ite
    | exact List.Subset.trans (by decide) hM
    | (intro _ _ _)
    | (intro _ _)

theorem only_deadEnd {cs : List Comp} {z s : State} (hK : Only cs z s) (n : Nat) (hM : [.regs, .sys, .clk, .tim, .pwm, .gd, .flt, .sup, .out] ⊆ cs) :
    Only cs z (State.deadEnd s n) := by
  unfold State.deadEnd
  try dsimp only
  repeat' first
    | with_reducible assumption
    | with_reducible apply only_runToTick
    | with_reducible apply only_setLeg
    | with_reducible apply only_setSwitch
    | with_reducible apply only_gateRefresh
    | with_reducible apply Only.ite
    | exact List.Subset.trans (by decide) hM
    | (intro _ _ _)
    | (intro _ _)
    | split

theorem only_shadowWrite {cs : List Comp} {z s : State} (hK : Only cs z s) (n : Nat) (reg : ShadowReg) (v : Word) (hM : [.regs, .pwm] ⊆ cs) :
    Only cs z (State.shadowWrite s n reg v) := by
  unfold State.shadowWrite
  try dsimp only
  repeat' first
    | with_reducible assumption
    | with_reducible apply only_setChan
    | with_reducible apply only_setFlag
    | with_reducible apply Only.wr
    | with_reducible apply Only.iteFst
    | with_reducible apply Only.ite
    | exact List.Subset.trans (by decide) hM
    | (intro _ _ _)
    | (intro _ _)
    | split

theorem only_pwmCtrlWrite {cs : List Comp} {z s : State} (hK : Only cs z s) (n : Nat) (v : Word) (hM : [.regs, .pwm, .gd] ⊆ cs) :
    Only cs z (State.pwmCtrlWrite s n v) := by
  unfold State.pwmCtrlWrite
  try dsimp only
  repeat' first
    | with_reducible assumption
    | with_reducible apply only_setChan
    | with_reducible apply only_legRefresh1
    | with_reducible apply Only.wr
    | with_reducible apply Only.ite
    | exact List.Subset.trans (by decide) hM
    | (intro _ _ _)
    | (intro _ _)

theorem only_groupStat {cs : List Comp} {z s : State} (hK : Only cs z s) (hM : [.regs] ⊆ cs) :
    Only cs z (State.groupStat s) := by
  unfold State.groupStat
  try dsimp only
  repeat' first
    | with_reducible assumption
    | with_reducible apply only_put
    | exact List.Subset.trans (by decide) hM
    | (intro _ _ _)
    | (intro _ _)

theorem only_tripGroup {cs : List Comp} {z s : State} (hK : Only cs z s) (g : Nat) (hM : [.regs, .clk, .tim, .pwm, .gd, .flt, .out] ⊆ cs) :
    Only cs z (State.tripGroup s g) := by
  unfold State.tripGroup
  try dsimp only
  repeat' first
    | with_reducible assumption
    | with_reducible apply only_setFlag
    | with_reducible apply only_put
    | with_reducible apply only_legRefresh
    | with_reducible apply only_raise
    | with_reducible apply Only.forUpTo
    | with_reducible apply Only.ite
    | exact List.Subset.trans (by decide) hM
    | (intro _ _ _)
    | (intro _ _)
    | with_reducible refine Only.set_pwm (Comp.of hM (by decide)) ?_

theorem only_tripBy {cs : List Comp} {z s : State} (hK : Only cs z s) (k : Nat) (hM : [.regs, .clk, .tim, .pwm, .gd, .flt, .out] ⊆ cs) :
    Only cs z (State.tripBy s k) := by
  unfold State.tripBy
  try dsimp only
  repeat' first
    | with_reducible assumption
    | with_reducible apply only_put
    | with_reducible apply only_tripGroup
    | with_reducible apply Only.forUpTo
    | with_reducible apply Only.ite
    | exact List.Subset.trans (by decide) hM
    | (intro _ _ _)
    | (intro _ _)

theorem only_tripActive {cs : List Comp} {z s : State} (hK : Only cs z s) (k : Nat) (hM : [.regs, .clk, .tim, .pwm, .gd, .flt, .out] ⊆ cs) :
    Only cs z (State.tripActive s k) := by
  unfold State.tripActive
  try dsimp only
  repeat' first
    | with_reducible assumption
    | with_reducible apply only_put
    | with_reducible apply only_groupStat
    | with_reducible apply only_tripBy
    | with_reducible apply Only.ite
    | exact List.Subset.trans (by decide) hM
    | (intro _ _ _)
    | (intro _ _)
    | with_reducible refine Only.set_pwm (Comp.of hM (by decide)) ?_

theorem only_tripInactive {cs : List Comp} {z s : State} (hK : Only cs z s) (k : Nat) (hM : [.regs, .pwm] ⊆ cs) :
    Only cs z (State.tripInactive s k) := by
  unfold State.tripInactive
  try dsimp only
  repeat' first
    | with_reducible assumption
    | with_reducible apply only_put
    | with_reducible apply only_groupStat
    | with_reducible apply only_bumpReg
    | with_reducible apply Only.ite
    | exact List.Subset.trans (by decide) hM
    | (intro _ _ _)
    | (intro _ _)
    | with_reducible refine Only.set_pwm (Comp.of hM (by decide)) ?_

theorem only_blankingEnd {cs : List Comp} {z s : State} (hK : Only cs z s) (ch : Nat) (hM : [.regs, .clk, .tim, .pwm, .gd, .flt, .out] ⊆ cs) :
    Only cs z (State.blankingEnd s ch) := by
  unfold State.blankingEnd
  try dsimp only
  repeat' first
    | with_reducible assumption
    | with_reducible apply only_tripBy
    | with_reducible apply Only.forUpTo
    | with_reducible apply Only.ite
    | exact List.Subset.trans (by decide) hM
    | (intro _ _ _)
    | (intro _ _)
    | with_reducible refine Only.set_pwm (Comp.of hM (by decide)) ?_

theorem only_groupClear {cs : List Comp} {z s : State} (hK : Only cs z s) (groups : Nat) (hM : [.regs, .clk, .rng, .tim, .pwm, .gd, .flt, .sup, .out] ⊆ cs) :
    Only cs z (State.groupClear s groups) := by
  unfold State.groupClear
  try dsimp only
  repeat' first
    | with_reducible assumption
    | with_reducible apply only_put
    | with_reducible apply only_releaseOwn
    | with_reducible apply only_legRefresh
    | with_reducible apply only_bump
    | with_reducible apply only_raise
    | with_reducible apply Only.forUpTo
    | with_reducible apply Only.ite
    | exact List.Subset.trans (by decide) hM
    | (intro _ _ _)
    | (intro _ _)

theorem only_rearm {cs : List Comp} {z s : State} (hK : Only cs z s) (m : Master) (hM : [.regs, .clk, .pwm, .gd] ⊆ cs) :
    Only cs z (State.rearm s m) := by
  unfold State.rearm
  try dsimp only
  repeat' first
    | with_reducible assumption
    | with_reducible apply only_reacquire
    | with_reducible apply only_startCarriers
    | with_reducible apply only_setFlag
    | with_reducible apply only_legRefresh
    | with_reducible apply only_violation
    | with_reducible apply Only.when
    | with_reducible apply Only.ite
    | exact List.Subset.trans (by decide) hM
    | (intro _ _ _)
    | (intro _ _)

theorem only_pwmCntClr {cs : List Comp} {z s : State} (hK : Only cs z s) (hM : [.regs] ⊆ cs) :
    Only cs z (State.pwmCntClr s) := by
  unfold State.pwmCntClr
  try dsimp only
  repeat' first
    | with_reducible assumption
    | with_reducible apply only_put
    | with_reducible apply Only.wr
    | with_reducible apply Only.forUpTo
    | exact List.Subset.trans (by decide) hM
    | (intro _ _ _)
    | (intro _ _)

theorem only_debugHalt {cs : List Comp} {z s : State} (hK : Only cs z s) (hM : [.regs, .clk, .tim, .pwm, .gd, .flt, .eng, .out] ⊆ cs) :
    Only cs z (State.debugHalt s) := by
  unfold State.debugHalt
  try dsimp only
  repeat' first
    | with_reducible assumption
    | with_reducible apply only_setEngGroup
    | with_reducible apply only_setFlag
    | with_reducible apply only_haltCarriers
    | with_reducible apply only_legRefresh
    | with_reducible apply only_raise
    | with_reducible apply Only.forUpTo
    | with_reducible apply Only.when
    | exact List.Subset.trans (by decide) hM
    | (intro _ _ _)
    | (intro _ _)

theorem only_resync1 {cs : List Comp} {z s : State} (hK : Only cs z s) (n b : Nat) (hM : [.regs, .pwm, .raises] ⊆ cs) :
    Only cs z (State.resync1 s n b) := by
  unfold State.resync1
  try dsimp only
  repeat' first
    | with_reducible assumption
    | with_reducible apply only_setChan
    | with_reducible apply only_wrN
    | with_reducible apply only_setFlag
    | with_reducible apply only_bump
    | with_reducible apply only_raiseLater
    | with_reducible apply Only.ite
    | exact List.Subset.trans (by decide) hM
    | (intro _ _ _)
    | (intro _ _)

theorem only_resync {cs : List Comp} {z s : State} (hK : Only cs z s) (b : Nat) (hM : [.regs, .pwm, .raises] ⊆ cs) :
    Only cs z (State.resync s b) := by
  unfold State.resync
  try dsimp only
  repeat' first
    | with_reducible assumption
    | with_reducible apply only_resync1
    | with_reducible apply Only.forUpTo
    | with_reducible apply Only.ite
    | exact List.Subset.trans (by decide) hM
    | (intro _ _ _)
    | (intro _ _)

theorem only_lengthChanged {cs : List Comp} {z s : State} (hK : Only cs z s) (hM : [.pwm] ⊆ cs) :
    Only cs z (State.lengthChanged s) := by
  unfold State.lengthChanged
  try dsimp only
  repeat' first
    | with_reducible assumption
    | with_reducible apply only_setChan
    | with_reducible apply Only.forUpTo
    | exact List.Subset.trans (by decide) hM
    | (intro _ _ _)
    | (intro _ _)

theorem only_setGd {cs : List Comp} {z s : State} (hK : Only cs z s) (n : Nat) (sw : Sw) (st : Nat) (hM : [.regs, .gd] ⊆ cs) :
    Only cs z (State.setGd s n sw st) := by
  unfold State.setGd
  try dsimp only
  repeat' first
    | with_reducible assumption
    | with_reducible apply only_put
    | with_reducible apply only_setGate
    | with_reducible apply only_gateRefresh
    | exact List.Subset.trans (by decide) hM
    | (intro _ _ _)
    | (intro _ _)

theorem only_modGate {cs : List Comp} {z s : State} (hK : Only cs z s) (n : Nat) (sw : Sw) (f : GateSt → GateSt) (hM : [.gd] ⊆ cs) :
    Only cs z (State.modGate s n sw f) := by
  unfold State.modGate
  try dsimp only
  repeat' first
    | with_reducible assumption
    | with_reducible apply only_setGate
    | exact List.Subset.trans (by decide) hM
    | (intro _ _ _)
    | (intro _ _)

theorem only_waitEdge {cs : List Comp} {z s : State} (hK : Only cs z s) (n : Nat) (sw : Sw) (hM : [.gd] ⊆ cs) :
    Only cs z (State.waitEdge s n sw) := by
  unfold State.waitEdge
  try dsimp only
  repeat' first
    | with_reducible assumption
    | with_reducible apply only_modGate
    | exact List.Subset.trans (by decide) hM
    | (intro _ _ _)
    | (intro _ _)

theorem only_pumps {cs : List Comp} {z s : State} (hK : Only cs z s) (hM : [.gd] ⊆ cs) :
    Only cs z (State.pumps s) := by
  unfold State.pumps
  try dsimp only
  repeat' first
    | with_reducible assumption
    | with_reducible apply only_setGateLeg
    | with_reducible apply Only.forUpTo
    | exact List.Subset.trans (by decide) hM
    | (intro _ _ _)
    | (intro _ _)

theorem only_gdBind {cs : List Comp} {z s : State} (hK : Only cs z s) (hM : [.regs, .gd] ⊆ cs) :
    Only cs z (State.gdBind s) := by
  unfold State.gdBind
  try dsimp only
  repeat' first
    | with_reducible assumption
    | with_reducible apply only_setGd
    | with_reducible apply only_modGate
    | with_reducible apply only_setGateLeg
    | with_reducible apply only_pumps
    | with_reducible apply Only.forUpTo
    | with_reducible apply Only.when
    | with_reducible apply Only.ite
    | exact List.Subset.trans (by decide) hM
    | (intro _ _ _)
    | (intro _ _)
    | with_reducible refine Only.set_gd (Comp.of hM (by decide)) ?_

theorem only_l1Count {cs : List Comp} {z s : State} (hK : Only cs z s) (n : Nat) (sw : Sw) (code tag : Nat) (hM : [.regs, .gd, .raises] ⊆ cs) :
    Only cs z (State.l1Count s n sw code tag).1 := by
  unfold State.l1Count
  try dsimp only
  repeat' first
    | with_reducible assumption
    | with_reducible apply only_setGate
    | with_reducible apply only_bump
    | with_reducible apply only_raiseLater
    | with_reducible apply Only.iteFst
    | with_reducible apply Only.ite
    | exact List.Subset.trans (by decide) hM
    | (intro _ _ _)
    | (intro _ _)

theorem only_escalate {cs : List Comp} {z s : State} (hK : Only cs z s) (n : Nat) (sw : Sw) (hM : [.regs, .gd, .raises] ⊆ cs) :
    Only cs z (State.escalate s n sw) := by
  unfold State.escalate
  try dsimp only
  repeat' first
    | with_reducible assumption
    | with_reducible apply only_setGd
    | with_reducible apply only_setFlag
    | with_reducible apply only_bump
    | with_reducible apply only_raiseLater
    | exact List.Subset.trans (by decide) hM
    | (intro _ _ _)
    | (intro _ _)

theorem only_l1Fault {cs : List Comp} {z s : State} (hK : Only cs z s) (n : Nat) (sw : Sw) (code tag : Nat) (hM : [.regs, .gd, .raises] ⊆ cs) :
    Only cs z (State.l1Fault s n sw code tag) := by
  unfold State.l1Fault
  try dsimp only
  repeat' first
    | with_reducible assumption
    | with_reducible apply only_l1Count
    | with_reducible apply only_modGate
    | with_reducible apply only_escalate
    | with_reducible apply only_setGd
    | with_reducible apply Only.iteFst
    | with_reducible apply Only.ite
    | exact List.Subset.trans (by decide) hM
    | (intro _ _ _)
    | (intro _ _)

theorem only_bypassUv {cs : List Comp} {z s : State} (hK : Only cs z s) (n : Nat) (sw : Sw) (tag : Nat) (hM : [.raises] ⊆ cs) :
    Only cs z (State.bypassUv s n sw tag) := by
  unfold State.bypassUv
  try dsimp only
  repeat' first
    | with_reducible assumption
    | with_reducible apply only_raiseLater
    | exact List.Subset.trans (by decide) hM
    | (intro _ _ _)
    | (intro _ _)

theorem only_l2Fault {cs : List Comp} {z s : State} (hK : Only cs z s) (n cause : Nat) (flag : Fld) (hM : [.regs, .clk, .tim, .pwm, .gd, .flt, .out] ⊆ cs) :
    Only cs z (State.l2Fault s n cause flag) := by
  unfold State.l2Fault
  try dsimp only
  repeat' first
    | with_reducible assumption
    | with_reducible apply only_setGateLeg
    | with_reducible apply only_setFlag
    | with_reducible apply only_put
    | with_reducible apply only_bump
    | with_reducible apply only_gateRefresh
    | with_reducible apply only_modGate
    | with_reducible apply only_setGd
    | with_reducible apply only_raise
    | with_reducible apply Only.ite
    | exact List.Subset.trans (by decide) hM
    | (intro _ _ _)
    | (intro _ _)

theorem only_shootLeg {cs : List Comp} {z s : State} (hK : Only cs z s) (n : Nat) (hM : [.regs, .clk, .tim, .pwm, .gd, .flt, .out] ⊆ cs) :
    Only cs z (State.shootLeg s n) := by
  unfold State.shootLeg
  try dsimp only
  repeat' first
    | with_reducible assumption
    | with_reducible apply only_modGate
    | with_reducible apply only_setGd
    | with_reducible apply only_l2Fault
    | with_reducible apply Only.ite
    | exact List.Subset.trans (by decide) hM
    | (intro _ _ _)
    | (intro _ _)

theorem only_shortCircuit {cs : List Comp} {z s : State} (hK : Only cs z s) (n : Nat) (sw : Sw) (hM : [.regs, .sys, .clk, .tim, .pwm, .gd, .flt, .sup, .raises, .out] ⊆ cs) :
    Only cs z (State.shortCircuit s n sw) := by
  unfold State.shortCircuit
  try dsimp only
  repeat' first
    | with_reducible assumption
    | with_reducible apply only_runAfter
    | with_reducible apply only_setFlag
    | with_reducible apply only_raise
    | with_reducible apply only_shootLeg
    | with_reducible apply only_setGd
    | with_reducible apply only_l1Count
    | with_reducible apply only_modGate
    | with_reducible apply Only.iteFst
    | with_reducible apply Only.ite
    | exact List.Subset.trans (by decide) hM
    | (intro _ _ _)
    | (intro _ _)
    | split

theorem only_softEnd {cs : List Comp} {z s : State} (hK : Only cs z s) (n : Nat) (sw : Sw) (hM : [.regs, .sys, .clk, .tim, .pwm, .gd, .flt, .sup, .raises, .out] ⊆ cs) :
    Only cs z (State.softEnd s n sw) := by
  unfold State.softEnd
  try dsimp only
  repeat' first
    | with_reducible assumption
    | with_reducible apply only_runAfter
    | with_reducible apply only_setGate
    | with_reducible apply only_endCause
    | with_reducible apply only_escalate
    | with_reducible apply only_setGd
    | with_reducible apply only_waitEdge
    | with_reducible apply Only.ite
    | exact List.Subset.trans (by decide) hM
    | (intro _ _ _)
    | (intro _ _)
    | split

theorem only_releaseChan {cs : List Comp} {z s : State} (hK : Only cs z s) (n : Nat) (sw : Sw) (hM : [.regs, .clk, .rng, .tim, .pwm, .gd, .flt, .sup, .out] ⊆ cs) :
    Only cs z (State.releaseChan s n sw) := by
  unfold State.releaseChan
  try dsimp only
  repeat' first
    | with_reducible assumption
    | with_reducible apply only_releaseOwn
    | exact List.Subset.trans (by decide) hM
    | (intro _ _ _)
    | (intro _ _)

theorem only_waitExpiry {cs : List Comp} {z s : State} (hK : Only cs z s) (n : Nat) (sw : Sw) (hM : [.regs, .sys, .clk, .rng, .tim, .pwm, .gd, .flt, .sup, .raises, .out] ⊆ cs) :
    Only cs z (State.waitExpiry s n sw) := by
  unfold State.waitExpiry
  try dsimp only
  repeat' first
    | with_reducible assumption
    | with_reducible apply only_runAfter
    | with_reducible apply only_l1Count
    | with_reducible apply only_escalate
    | with_reducible apply only_modGate
    | with_reducible apply only_waitEdge
    | with_reducible apply only_setGd
    | with_reducible apply only_releaseChan
    | with_reducible apply Only.iteFst
    | with_reducible apply Only.ite
    | exact List.Subset.trans (by decide) hM
    | (intro _ _ _)
    | (intro _ _)

theorem only_bootUv {cs : List Comp} {z s : State} (hK : Only cs z s) (n : Nat) (hM : [.regs, .gd, .raises] ⊆ cs) :
    Only cs z (State.bootUv s n) := by
  unfold State.bootUv
  try dsimp only
  repeat' first
    | with_reducible assumption
    | with_reducible apply only_setFlag
    | with_reducible apply only_modGate
    | with_reducible apply only_bypassUv
    | with_reducible apply only_l1Fault
    | with_reducible apply Only.ite
    | exact List.Subset.trans (by decide) hM
    | (intro _ _ _)
    | (intro _ _)

theorem only_escEnd {cs : List Comp} {z s : State} (hK : Only cs z s) (n : Nat) (sw : Sw) (hM : [.regs, .pwm, .gd, .flt] ⊆ cs) :
    Only cs z (State.escEnd s n sw) := by
  unfold State.escEnd
  try dsimp only
  repeat' first
    | with_reducible assumption
    | with_reducible apply only_endCause
    | with_reducible apply Only.ite
    | exact List.Subset.trans (by decide) hM
    | (intro _ _ _)
    | (intro _ _)

theorem only_bootCharged {cs : List Comp} {z s : State} (hK : Only cs z s) (n : Nat) (hM : [.regs, .pwm, .gd, .flt] ⊆ cs) :
    Only cs z (State.bootCharged s n) := by
  unfold State.bootCharged
  try dsimp only
  repeat' first
    | with_reducible assumption
    | with_reducible apply only_modGate
    | with_reducible apply only_endCause
    | with_reducible apply only_escEnd
    | with_reducible apply only_setGd
    | with_reducible apply Only.ite
    | exact List.Subset.trans (by decide) hM
    | (intro _ _ _)
    | (intro _ _)

theorem only_chargeTimeout {cs : List Comp} {z s : State} (hK : Only cs z s) (n : Nat) (hM : [.regs, .sys, .clk, .tim, .pwm, .gd, .flt, .sup, .raises, .out] ⊆ cs) :
    Only cs z (State.chargeTimeout s n) := by
  unfold State.chargeTimeout
  try dsimp only
  repeat' first
    | with_reducible assumption
    | with_reducible apply only_runUp
    | with_reducible apply only_setFlag
    | with_reducible apply only_modGate
    | with_reducible apply only_bypassUv
    | with_reducible apply only_l1Fault
    | with_reducible apply Only.ite
    | exact List.Subset.trans (by decide) hM
    | (intro _ _ _)
    | (intro _ _)
    | split

theorem only_supplyUv {cs : List Comp} {z s : State} (hK : Only cs z s) (vneg : Bool) (hM : [.regs, .gd, .raises] ⊆ cs) :
    Only cs z (State.supplyUv s vneg) := by
  unfold State.supplyUv
  try dsimp only
  repeat' first
    | with_reducible assumption
    | with_reducible apply only_setFlag
    | with_reducible apply only_modGate
    | with_reducible apply only_bypassUv
    | with_reducible apply only_l1Fault
    | with_reducible apply only_pumps
    | with_reducible apply Only.forUpTo
    | with_reducible apply Only.ite
    | exact List.Subset.trans (by decide) hM
    | (intro _ _ _)
    | (intro _ _)

theorem only_supplyEnd {cs : List Comp} {z s : State} (hK : Only cs z s) (vneg : Bool) (hM : [.regs, .pwm, .gd, .flt] ⊆ cs) :
    Only cs z (State.supplyEnd s vneg) := by
  unfold State.supplyEnd
  try dsimp only
  repeat' first
    | with_reducible assumption
    | with_reducible apply only_setFlag
    | with_reducible apply only_modGate
    | with_reducible apply only_endCause
    | with_reducible apply only_escEnd
    | with_reducible apply only_pumps
    | with_reducible apply Only.forUpTo
    | with_reducible apply Only.ite
    | exact List.Subset.trans (by decide) hM
    | (intro _ _ _)
    | (intro _ _)

theorem only_interlock {cs : List Comp} {z s : State} (hK : Only cs z s) (n : Nat) (first : Option Sw) (hM : [.regs, .clk, .tim, .pwm, .gd, .flt, .out] ⊆ cs) :
    Only cs z (State.interlock s n first) := by
  unfold State.interlock
  try dsimp only
  repeat' first
    | with_reducible assumption
    | with_reducible apply only_modGate
    | with_reducible apply only_l2Fault
    | with_reducible apply Only.ite
    | exact List.Subset.trans (by decide) hM
    | (intro _ _ _)
    | (intro _ _)
    | split

theorem only_deadtimeViol {cs : List Comp} {z s : State} (hK : Only cs z s) (n : Nat) (sw : Sw) (hM : [.regs, .clk, .tim, .pwm, .gd, .flt, .out] ⊆ cs) :
    Only cs z (State.deadtimeViol s n sw) := by
  unfold State.deadtimeViol
  try dsimp only
  repeat' first
    | with_reducible assumption
    | with_reducible apply only_modGate
    | with_reducible apply only_l2Fault
    | with_reducible apply Only.ite
    | exact List.Subset.trans (by decide) hM
    | (intro _ _ _)
    | (intro _ _)

theorem only_selfTest {cs : List Comp} {z s : State} (hK : Only cs z s) (n : Nat) (sw : Sw) (trip : Option Nat) (mv : Nat) (hM : [.regs, .sys, .clk, .tim, .pwm, .gd, .flt, .sup, .out] ⊆ cs) :
    Only cs z (State.selfTest s n sw trip mv) := by
  unfold State.selfTest
  try dsimp only
  repeat' first
    | with_reducible assumption
    | with_reducible apply only_runUp
    | with_reducible apply only_runAfter
    | with_reducible apply only_modGate
    | with_reducible apply only_setFlag
    | with_reducible apply only_raise
    | with_reducible apply Only.when
    | with_reducible apply Only.ite
    | exact List.Subset.trans (by decide) hM
    | (intro _ _ _)
    | (intro _ _)
    | split
    | with_reducible refine Only.set_gd (Comp.of hM (by decide)) ?_

theorem only_injNow {cs : List Comp} {z s : State} (hK : Only cs z s) (hM : [.gd] ⊆ cs) :
    Only cs z (State.injNow s) := by
  unfold State.injNow
  try dsimp only
  repeat' first
    | with_reducible assumption
    | with_reducible apply only_modGate
    | with_reducible apply Only.forUpTo
    | with_reducible apply Only.ite
    | exact List.Subset.trans (by decide) hM
    | (intro _ _ _)
    | (intro _ _)

theorem only_gdPublish {cs : List Comp} {z s : State} (hK : Only cs z s) (vdrv vneg : Nat) (vbs : List (BitVec 16)) (hM : [.regs, .sys, .clk, .tim, .pwm, .gd, .flt, .eng, .sup, .out] ⊆ cs) :
    Only cs z (State.gdPublish s vdrv vneg vbs) := by
  unfold State.gdPublish
  try dsimp only
  repeat' first
    | with_reducible assumption
    | with_reducible apply only_runUp
    | with_reducible apply only_put
    | with_reducible apply only_setFlag
    | with_reducible apply only_setResult
    | with_reducible apply Only.forUpTo
    | with_reducible apply Only.ite
    | exact List.Subset.trans (by decide) hM
    | (intro _ _ _)
    | (intro _ _)
    | with_reducible refine Only.set_gd (Comp.of hM (by decide)) ?_

theorem only_gdCntClr {cs : List Comp} {z s : State} (hK : Only cs z s) (hM : [.regs] ⊆ cs) :
    Only cs z (State.gdCntClr s) := by
  unfold State.gdCntClr
  try dsimp only
  repeat' first
    | with_reducible assumption
    | with_reducible apply Only.wr
    | with_reducible apply Only.forUpTo
    | exact List.Subset.trans (by decide) hM
    | (intro _ _ _)
    | (intro _ _)

theorem only_gdEscalRefresh {cs : List Comp} {z s : State} (hK : Only cs z s) (hM : [.regs, .clk, .rng, .tim, .pwm, .gd, .flt, .sup, .out] ⊆ cs) :
    Only cs z (State.gdEscalRefresh s) := by
  unfold State.gdEscalRefresh
  try dsimp only
  repeat' first
    | with_reducible assumption
    | with_reducible apply only_waitEdge
    | with_reducible apply only_setGd
    | with_reducible apply only_releaseChan
    | with_reducible apply Only.forUpTo
    | with_reducible apply Only.ite
    | exact List.Subset.trans (by decide) hM
    | (intro _ _ _)
    | (intro _ _)
    | split

end Sys2Proof.Machine
end

