-- ==== Sys2Proof/Laws/OnlyNode.lean ====
section
/-! SUPPORT. Laws/OnlyNode.lean: which components of the state each operation of Machine/Thermal.lean, Machine/MemoryEcc.lean, Machine/SafetyUnit.lean may change. -/
namespace Sys2Proof.Machine
set_option Elab.async false

theorem only_logRefresh {cs : List Comp} {z s : State} (hK : Only cs z s) (hM : [.regs] ⊆ cs) :
    Only cs z (State.logRefresh s) := by
  unfold State.logRefresh
  try dsimp only
  repeat' first
    | with_reducible assumption
    | with_reducible apply only_put
    | with_reducible apply only_setFlag
    | exact List.Subset.trans (by decide) hM
    | (intro _ _ _)
    | (intro _ _)

theorem only_logEvent {cs : List Comp} {z s : State} (hK : Only cs z s) (kind : Nat) (w3 w6 : Word) (hM : [.regs, .vault, .clk, .tim, .pwm, .gd, .flt, .out] ⊆ cs) :
    Only cs z (State.logEvent s kind w3 w6) := by
  unfold State.logEvent
  try dsimp only
  repeat' first
    | with_reducible assumption
    | with_reducible apply only_bump
    | with_reducible apply only_raise
    | with_reducible apply only_logRefresh
    | with_reducible apply Only.ite
    | exact List.Subset.trans (by decide) hM
    | (intro _ _ _)
    | (intro _ _)
    | with_reducible refine Only.set_vault (Comp.of hM (by decide)) ?_

theorem only_logWrite {cs : List Comp} {z s : State} (hK : Only cs z s) (hM : [.regs, .vault] ⊆ cs) :
    Only cs z (State.logWrite s) := by
  unfold State.logWrite
  try dsimp only
  repeat' first
    | with_reducible assumption
    | with_reducible apply only_logRefresh
    | with_reducible apply only_setFlag
    | with_reducible apply Only.when
    | with_reducible apply Only.ite
    | exact List.Subset.trans (by decide) hM
    | (intro _ _ _)
    | (intro _ _)
    | split
    | with_reducible refine Only.set_vault (Comp.of hM (by decide)) ?_

theorem only_logScan {cs : List Comp} {z s : State} (hK : Only cs z s) (hM : [.regs, .vault] ⊆ cs) :
    Only cs z (State.logScan s) := by
  unfold State.logScan
  try dsimp only
  repeat' first
    | with_reducible assumption
    | with_reducible apply only_logRefresh
    | with_reducible apply Only.foldlFst
    | with_reducible apply Only.foldl
    | with_reducible apply Only.iteFst
    | with_reducible apply Only.ite
    | exact List.Subset.trans (by decide) hM
    | (intro _ _ _)
    | (intro _ _)
    | split
    | with_reducible refine Only.set_vault (Comp.of hM (by decide)) ?_

theorem only_logSel {cs : List Comp} {z s : State} (hK : Only cs z s) (v : Nat) (hM : [.regs, .thm] ⊆ cs) :
    Only cs z (State.logSel s v) := by
  unfold State.logSel
  try dsimp only
  repeat' first
    | with_reducible assumption
    | with_reducible apply only_put
    | with_reducible apply only_setFlag
    | exact List.Subset.trans (by decide) hM
    | (intro _ _ _)
    | (intro _ _)
    | with_reducible refine Only.set_thm (Comp.of hM (by decide)) ?_

theorem only_logReadDone {cs : List Comp} {z s : State} (hK : Only cs z s) (hM : [.regs, .thm] ⊆ cs) :
    Only cs z (State.logReadDone s) := by
  unfold State.logReadDone
  try dsimp only
  repeat' first
    | with_reducible assumption
    | with_reducible apply only_setFlag
    | with_reducible apply Only.wr
    | with_reducible apply Only.forUpTo
    | with_reducible apply Only.ite
    | exact List.Subset.trans (by decide) hM
    | (intro _ _ _)
    | (intro _ _)
    | split
    | with_reducible refine Only.set_thm (Comp.of hM (by decide)) ?_

theorem only_setSensor {cs : List Comp} {z s : State} (hK : Only cs z s) (i : Nat) (v : ThmSensor) (hM : [.thm] ⊆ cs) :
    Only cs z (State.setSensor s i v) := by
  unfold State.setSensor
  try dsimp only
  repeat' first
    | with_reducible assumption
    | exact List.Subset.trans (by decide) hM
    | (intro _ _ _)
    | (intro _ _)
    | with_reducible refine Only.set_thm (Comp.of hM (by decide)) ?_

theorem only_thermalEnter {cs : List Comp} {z s : State} (hK : Only cs z s) (i st : Nat) (hM : [.regs, .vault, .clk, .tim, .pwm, .gd, .flt, .out] ⊆ cs) :
    Only cs z (State.thermalEnter s i st) := by
  unfold State.thermalEnter
  try dsimp only
  repeat' first
    | with_reducible assumption
    | with_reducible apply only_put
    | with_reducible apply only_endCause
    | with_reducible apply only_raise
    | with_reducible apply only_logEvent
    | with_reducible apply Only.ite
    | exact List.Subset.trans (by decide) hM
    | (intro _ _ _)
    | (intro _ _)

theorem only_bandSelect {cs : List Comp} {z s : State} (hK : Only cs z s) (i b : Nat) (hM : [.regs, .gd] ⊆ cs) :
    Only cs z (State.bandSelect s i b) := by
  unfold State.bandSelect
  try dsimp only
  repeat' first
    | with_reducible assumption
    | with_reducible apply only_laneBand
    | with_reducible apply only_setGateLeg
    | with_reducible apply only_put
    | with_reducible apply Only.forUpTo
    | with_reducible apply Only.ite
    | exact List.Subset.trans (by decide) hM
    | (intro _ _ _)
    | (intro _ _)

theorem only_publishHeadroom {cs : List Comp} {z s : State} (hK : Only cs z s) (i : Nat) (v : Option Word) (hM : [.eng] ⊆ cs) :
    Only cs z (State.publishHeadroom s i v) := by
  unfold State.publishHeadroom
  try dsimp only
  repeat' first
    | with_reducible assumption
    | with_reducible apply only_setResult
    | exact List.Subset.trans (by decide) hM
    | (intro _ _ _)
    | (intro _ _)

theorem only_headroomInit {cs : List Comp} {z s : State} (hK : Only cs z s) (hM : [.eng] ⊆ cs) :
    Only cs z (State.headroomInit s) := by
  unfold State.headroomInit
  try dsimp only
  repeat' first
    | with_reducible assumption
    | with_reducible apply only_setResult
    | with_reducible apply Only.forUpTo
    | with_reducible apply Only.when
    | exact List.Subset.trans (by decide) hM
    | (intro _ _ _)
    | (intro _ _)

theorem only_sensorNext {cs : List Comp} {z s : State} (hK : Only cs z s) (i : Nat) (hM : [.thm] ⊆ cs) :
    Only cs z (State.sensorNext s i) := by
  unfold State.sensorNext
  try dsimp only
  repeat' first
    | with_reducible assumption
    | with_reducible apply only_setSensor
    | exact List.Subset.trans (by decide) hM
    | (intro _ _ _)
    | (intro _ _)

theorem only_sensorFail {cs : List Comp} {z s : State} (hK : Only cs z s) (i : Nat) (hM : [.regs, .clk, .tim, .pwm, .gd, .flt, .eng, .thm, .out] ⊆ cs) :
    Only cs z (State.sensorFail s i) := by
  unfold State.sensorFail
  try dsimp only
  repeat' first
    | with_reducible assumption
    | with_reducible apply only_setSensor
    | with_reducible apply only_setFlag
    | with_reducible apply only_put
    | with_reducible apply only_raise
    | with_reducible apply only_publishHeadroom
    | with_reducible apply Only.ite
    | exact List.Subset.trans (by decide) hM
    | (intro _ _ _)
    | (intro _ _)

theorem only_sensorValid {cs : List Comp} {z s : State} (hK : Only cs z s) (i : Nat) (t : Int) (hM : [.regs, .vault, .clk, .tim, .pwm, .gd, .flt, .eng, .thm, .out] ⊆ cs) :
    Only cs z (State.sensorValid s i t) := by
  unfold State.sensorValid
  try dsimp only
  repeat' first
    | with_reducible assumption
    | with_reducible apply only_setSensor
    | with_reducible apply only_put
    | with_reducible apply only_setFlag
    | with_reducible apply only_endCause
    | with_reducible apply only_bandSelect
    | with_reducible apply only_thermalEnter
    | with_reducible apply only_publishHeadroom
    | with_reducible apply Only.ite
    | exact List.Subset.trans (by decide) hM
    | (intro _ _ _)
    | (intro _ _)

theorem only_ntcReading {cs : List Comp} {z s : State} (hK : Only cs z s) (i : Nat) (n r : HkRes) (hM : [.regs, .vault, .clk, .tim, .pwm, .gd, .flt, .eng, .thm, .out, .free] ⊆ cs) :
    Only cs z (State.ntcReading s i n r) := by
  unfold State.ntcReading
  try dsimp only
  repeat' first
    | with_reducible assumption
    | with_reducible apply only_sensorFail
    | with_reducible apply only_sensorValid
    | with_reducible apply Only.useFree
    | with_reducible apply Only.ite
    | exact List.Subset.trans (by decide) hM
    | (intro _ _ _)
    | (intro _ _)
    | split

theorem only_sensorReading {cs : List Comp} {z s : State} (hK : Only cs z s) (i : Nat) (t : Int) (bad : Bool) (hM : [.regs, .sys, .vault, .clk, .tim, .pwm, .gd, .flt, .eng, .thm, .sup, .out, .free] ⊆ cs) :
    Only cs z (State.sensorReading s i t bad) := by
  unfold State.sensorReading
  try dsimp only
  repeat' first
    | with_reducible assumption
    | with_reducible apply only_runToTick
    | with_reducible apply only_sensorFail
    | with_reducible apply only_sensorValid
    | with_reducible apply only_sensorNext
    | with_reducible apply only_ntcReading
    | with_reducible apply Only.ite
    | exact List.Subset.trans (by decide) hM
    | (intro _ _ _)
    | (intro _ _)
    | split

theorem only_eccClear {cs : List Comp} {z s : State} (hK : Only cs z s) (w : Nat) (hM : [.memx] ⊆ cs) :
    Only cs z (State.eccClear s w) := by
  unfold State.eccClear
  try dsimp only
  repeat' first
    | with_reducible assumption
    | exact List.Subset.trans (by decide) hM
    | (intro _ _ _)
    | (intro _ _)
    | with_reducible refine Only.set_memx (Comp.of hM (by decide)) ?_

theorem only_eccSet {cs : List Comp} {z s : State} (hK : Only cs z s) (w : Nat) (poison : Bool) (hM : [.memx] ⊆ cs) :
    Only cs z (State.eccSet s w poison) := by
  unfold State.eccSet
  try dsimp only
  repeat' first
    | with_reducible assumption
    | with_reducible apply only_eccClear
    | exact List.Subset.trans (by decide) hM
    | (intro _ _ _)
    | (intro _ _)
    | with_reducible refine Only.set_memx (Comp.of hM (by decide)) ?_

theorem only_corrected {cs : List Comp} {z s : State} (hK : Only cs z s) (w : Nat) (hM : [.regs, .clk, .tim, .pwm, .gd, .flt, .out] ⊆ cs) :
    Only cs z (State.corrected s w) := by
  unfold State.corrected
  try dsimp only
  repeat' first
    | with_reducible assumption
    | with_reducible apply only_wrN
    | with_reducible apply only_bumpReg
    | with_reducible apply only_put
    | with_reducible apply only_bump
    | with_reducible apply only_raise
    | with_reducible apply Only.ite
    | exact List.Subset.trans (by decide) hM
    | (intro _ _ _)
    | (intro _ _)

theorem only_eccDecode {cs : List Comp} {z s : State} (hK : Only cs z s) (w : Nat) (e : Ecc) (hM : [.regs, .clk, .tim, .pwm, .gd, .flt, .memx, .out] ⊆ cs) :
    Only cs z (State.eccDecode s w e).1 := by
  unfold State.eccDecode
  try dsimp only
  repeat' first
    | with_reducible assumption
    | with_reducible apply only_eccSet
    | with_reducible apply only_wrN
    | with_reducible apply only_corrected
    | with_reducible apply Only.iteFst
    | with_reducible apply Only.ite
    | exact List.Subset.trans (by decide) hM
    | (intro _ _ _)
    | (intro _ _)

theorem only_eccRead {cs : List Comp} {z s : State} (hK : Only cs z s) (w : Nat) (e : Ecc) (hM : [.regs, .clk, .tim, .pwm, .gd, .flt, .memx, .out] ⊆ cs) :
    Only cs z (State.eccRead s w e).1 := by
  unfold State.eccRead
  try dsimp only
  repeat' first
    | with_reducible assumption
    | with_reducible apply only_eccDecode
    | with_reducible apply only_raise
    | with_reducible apply Only.iteFst
    | with_reducible apply Only.ite
    | exact List.Subset.trans (by decide) hM
    | (intro _ _ _)
    | (intro _ _)

theorem only_eccMerge {cs : List Comp} {z s : State} (hK : Only cs z s) (w : Nat) (e : Ecc) (hM : [.regs, .clk, .tim, .pwm, .gd, .flt, .memx, .out] ⊆ cs) :
    Only cs z (State.eccMerge s w e).1 := by
  unfold State.eccMerge
  try dsimp only
  repeat' first
    | with_reducible assumption
    | with_reducible apply only_eccDecode
    | with_reducible apply only_raise
    | with_reducible apply only_eccClear
    | with_reducible apply Only.iteFst
    | with_reducible apply Only.ite
    | exact List.Subset.trans (by decide) hM
    | (intro _ _ _)
    | (intro _ _)

theorem only_bucketLeak {cs : List Comp} {z s : State} (hK : Only cs z s) (r : Nat) (hM : [.regs, .sys, .clk, .tim, .pwm, .gd, .flt, .memx, .sup, .out] ⊆ cs) :
    Only cs z (State.bucketLeak s r) := by
  unfold State.bucketLeak
  try dsimp only
  repeat' first
    | with_reducible assumption
    | with_reducible apply only_runAhead
    | with_reducible apply only_put
    | with_reducible apply Only.ite
    | exact List.Subset.trans (by decide) hM
    | (intro _ _ _)
    | (intro _ _)
    | with_reducible refine Only.set_memx (Comp.of hM (by decide)) ?_

theorem only_scrubGo {cs : List Comp} {z s : State} (hK : Only cs z s) (mp : Bool) (hM : [.regs, .memx] ⊆ cs) :
    Only cs z (State.scrubGo s mp) := by
  unfold State.scrubGo
  try dsimp only
  repeat' first
    | with_reducible assumption
    | with_reducible apply only_put
    | with_reducible apply only_wrN
    | with_reducible apply Only.ite
    | exact List.Subset.trans (by decide) hM
    | (intro _ _ _)
    | (intro _ _)
    | with_reducible refine Only.set_memx (Comp.of hM (by decide)) ?_

theorem only_scrubEnd {cs : List Comp} {z s : State} (hK : Only cs z s) (st ce ue : Nat) (first : Option Nat) (hM : [.regs, .clk, .tim, .pwm, .gd, .flt, .memx, .out] ⊆ cs) :
    Only cs z (State.scrubEnd s st ce ue first) := by
  unfold State.scrubEnd
  try dsimp only
  repeat' first
    | with_reducible assumption
    | with_reducible apply only_wrN
    | with_reducible apply only_put
    | with_reducible apply only_raise
    | with_reducible apply Only.ite
    | exact List.Subset.trans (by decide) hM
    | (intro _ _ _)
    | (intro _ _)
    | with_reducible refine Only.set_memx (Comp.of hM (by decide)) ?_

theorem only_scrubAbort {cs : List Comp} {z s : State} (hK : Only cs z s) (hM : [.memx] ⊆ cs) :
    Only cs z (State.scrubAbort s) := by
  unfold State.scrubAbort
  try dsimp only
  repeat' first
    | with_reducible assumption
    | with_reducible apply Only.when
    | exact List.Subset.trans (by decide) hM
    | (intro _ _ _)
    | (intro _ _)
    | with_reducible refine Only.set_memx (Comp.of hM (by decide)) ?_

theorem only_scrubWord {cs : List Comp} {z s : State} (hK : Only cs z s) (e : Ecc) (hM : [.regs, .sys, .clk, .tim, .pwm, .gd, .flt, .memx, .sup, .out] ⊆ cs) :
    Only cs z (State.scrubWord s e) := by
  unfold State.scrubWord
  try dsimp only
  repeat' first
    | with_reducible assumption
    | with_reducible apply only_runUp
    | with_reducible apply only_scrubEnd
    | with_reducible apply only_eccDecode
    | with_reducible apply Only.iteFst
    | with_reducible apply Only.ite
    | exact List.Subset.trans (by decide) hM
    | (intro _ _ _)
    | (intro _ _)
    | split
    | with_reducible refine Only.set_memx (Comp.of hM (by decide)) ?_

theorem only_memRepair {cs : List Comp} {z s : State} (hK : Only cs z s) (mp : Bool) (v : Nat) (hM : [.regs, .mem, .memx] ⊆ cs) :
    Only cs z (State.memRepair s mp v) := by
  unfold State.memRepair
  try dsimp only
  repeat' first
    | with_reducible assumption
    | with_reducible apply only_wrN
    | with_reducible apply only_put
    | with_reducible apply only_eccClear
    | with_reducible apply Only.wr
    | with_reducible apply Only.storeLe
    | with_reducible apply Only.when
    | with_reducible apply Only.ite
    | exact List.Subset.trans (by decide) hM
    | (intro _ _ _)
    | (intro _ _)

theorem only_memCntClr {cs : List Comp} {z s : State} (hK : Only cs z s) (hM : [.regs] ⊆ cs) :
    Only cs z (State.memCntClr s) := by
  unfold State.memCntClr
  try dsimp only
  repeat' first
    | with_reducible assumption
    | with_reducible apply only_wrN
    | with_reducible apply Only.forUpTo
    | exact List.Subset.trans (by decide) hM
    | (intro _ _ _)
    | (intro _ _)

theorem only_setSafIn {cs : List Comp} {z s : State} (hK : Only cs z s) (n : Nat) (v : SafIn) (hM : [.saf] ⊆ cs) :
    Only cs z (State.setSafIn s n v) := by
  unfold State.setSafIn
  try dsimp only
  repeat' first
    | with_reducible assumption
    | exact List.Subset.trans (by decide) hM
    | (intro _ _ _)
    | (intro _ _)
    | with_reducible refine Only.set_saf (Comp.of hM (by decide)) ?_

theorem only_setSafHead {cs : List Comp} {z s : State} (hK : Only cs z s) (h : Nat) (v : SafHead) (hM : [.saf] ⊆ cs) :
    Only cs z (State.setSafHead s h v) := by
  unfold State.setSafHead
  try dsimp only
  repeat' first
    | with_reducible assumption
    | exact List.Subset.trans (by decide) hM
    | (intro _ _ _)
    | (intro _ _)
    | with_reducible refine Only.set_saf (Comp.of hM (by decide)) ?_

theorem only_setSafWord {cs : List Comp} {z s : State} (hK : Only cs z s) (p : Nat) (v : SafWord) (hM : [.saf] ⊆ cs) :
    Only cs z (State.setSafWord s p v) := by
  unfold State.setSafWord
  try dsimp only
  repeat' first
    | with_reducible assumption
    | exact List.Subset.trans (by decide) hM
    | (intro _ _ _)
    | (intro _ _)
    | with_reducible refine Only.set_saf (Comp.of hM (by decide)) ?_

theorem only_setInhibit {cs : List Comp} {z s : State} (hK : Only cs z s) (on : Bool) (hM : [.regs, .gd] ⊆ cs) :
    Only cs z (State.setInhibit s on) := by
  unfold State.setInhibit
  try dsimp only
  repeat' first
    | with_reducible assumption
    | with_reducible apply only_setFlag
    | with_reducible apply only_modGate
    | with_reducible apply only_waitEdge
    | with_reducible apply only_gateRefresh
    | with_reducible apply Only.forUpTo
    | with_reducible apply Only.ite
    | exact List.Subset.trans (by decide) hM
    | (intro _ _ _)
    | (intro _ _)

theorem only_setSo {cs : List Comp} {z s : State} (hK : Only cs z s) (x : Nat) (on : Bool) (hM : [.regs, .saf] ⊆ cs) :
    Only cs z (State.setSo s x on) := by
  unfold State.setSo
  try dsimp only
  repeat' first
    | with_reducible assumption
    | with_reducible apply only_setFlag
    | with_reducible apply Only.ite
    | exact List.Subset.trans (by decide) hM
    | (intro _ _ _)
    | (intro _ _)
    | with_reducible refine Only.set_saf (Comp.of hM (by decide)) ?_

theorem only_safRefresh {cs : List Comp} {z s : State} (hK : Only cs z s) (hM : [.regs, .gd, .saf] ⊆ cs) :
    Only cs z (State.safRefresh s) := by
  unfold State.safRefresh
  try dsimp only
  repeat' first
    | with_reducible assumption
    | with_reducible apply only_setFlag
    | with_reducible apply only_setInhibit
    | with_reducible apply only_setSo
    | with_reducible apply Only.forUpTo
    | with_reducible apply Only.ite
    | exact List.Subset.trans (by decide) hM
    | (intro _ _ _)
    | (intro _ _)

theorem only_safBind {cs : List Comp} {z s : State} (hK : Only cs z s) (hM : [.regs, .gd, .saf] ⊆ cs) :
    Only cs z (State.safBind s) := by
  unfold State.safBind
  try dsimp only
  repeat' first
    | with_reducible assumption
    | with_reducible apply only_setInhibit
    | with_reducible apply only_put
    | with_reducible apply only_setFlag
    | with_reducible apply only_safRefresh
    | with_reducible apply Only.wr
    | with_reducible apply Only.ite
    | exact List.Subset.trans (by decide) hM
    | (intro _ _ _)
    | (intro _ _)
    | with_reducible refine Only.set_saf (Comp.of hM (by decide)) ?_

theorem only_inStat {cs : List Comp} {z s : State} (hK : Only cs z s) (hM : [.regs] ⊆ cs) :
    Only cs z (State.inStat s) := by
  unfold State.inStat
  try dsimp only
  repeat' first
    | with_reducible assumption
    | with_reducible apply only_put
    | exact List.Subset.trans (by decide) hM
    | (intro _ _ _)
    | (intro _ _)

theorem only_inputFault {cs : List Comp} {z s : State} (hK : Only cs z s) (n : Nat) (hM : [.regs, .clk, .tim, .pwm, .gd, .flt, .saf, .out] ⊆ cs) :
    Only cs z (State.inputFault s n) := by
  unfold State.inputFault
  try dsimp only
  repeat' first
    | with_reducible assumption
    | with_reducible apply only_setSafIn
    | with_reducible apply only_raise
    | with_reducible apply Only.ite
    | exact List.Subset.trans (by decide) hM
    | (intro _ _ _)
    | (intro _ _)

theorem only_inputClear {cs : List Comp} {z s : State} (hK : Only cs z s) (n : Nat) (hM : [.regs, .pwm, .gd, .flt, .saf] ⊆ cs) :
    Only cs z (State.inputClear s n) := by
  unfold State.inputClear
  try dsimp only
  repeat' first
    | with_reducible assumption
    | with_reducible apply only_setSafIn
    | with_reducible apply only_endCause
    | exact List.Subset.trans (by decide) hM
    | (intro _ _ _)
    | (intro _ _)

theorem only_sampleInput {cs : List Comp} {z s : State} (hK : Only cs z s) (n : Nat) (a b : Bool) (hM : [.regs, .clk, .tim, .pwm, .gd, .flt, .saf, .out] ⊆ cs) :
    Only cs z (State.sampleInput s n a b) := by
  unfold State.sampleInput
  try dsimp only
  repeat' first
    | with_reducible assumption
    | with_reducible apply only_setSafIn
    | with_reducible apply only_inputFault
    | with_reducible apply only_inputClear
    | with_reducible apply Only.ite
    | exact List.Subset.trans (by decide) hM
    | (intro _ _ _)
    | (intro _ _)
    | split

theorem only_safSample {cs : List Comp} {z s : State} (hK : Only cs z s) (a b : Nat) (hM : [.regs, .sys, .clk, .tim, .pwm, .gd, .flt, .saf, .sup, .out] ⊆ cs) :
    Only cs z (State.safSample s a b) := by
  unfold State.safSample
  try dsimp only
  repeat' first
    | with_reducible assumption
    | with_reducible apply only_runUp
    | with_reducible apply only_put
    | with_reducible apply only_sampleInput
    | with_reducible apply only_inStat
    | with_reducible apply Only.forUpTo
    | with_reducible apply Only.ite
    | exact List.Subset.trans (by decide) hM
    | (intro _ _ _)
    | (intro _ _)
    | with_reducible refine Only.set_saf (Comp.of hM (by decide)) ?_

theorem only_gapStart {cs : List Comp} {z s : State} (hK : Only cs z s) (x : Nat) (hM : [.regs, .sys, .clk, .tim, .pwm, .gd, .flt, .saf, .sup, .out] ⊆ cs) :
    Only cs z (State.gapStart s x) := by
  unfold State.gapStart
  try dsimp only
  repeat' first
    | with_reducible assumption
    | with_reducible apply only_runUp
    | with_reducible apply Only.ite
    | exact List.Subset.trans (by decide) hM
    | (intro _ _ _)
    | (intro _ _)
    | with_reducible refine Only.set_saf (Comp.of hM (by decide)) ?_

theorem only_gapEnd {cs : List Comp} {z s : State} (hK : Only cs z s) (x : Nat) (hM : [.regs, .sys, .clk, .tim, .pwm, .gd, .flt, .saf, .sup, .out] ⊆ cs) :
    Only cs z (State.gapEnd s x) := by
  unfold State.gapEnd
  try dsimp only
  repeat' first
    | with_reducible assumption
    | with_reducible apply only_runUp
    | with_reducible apply only_bumpReg
    | with_reducible apply only_inputFault
    | with_reducible apply only_inStat
    | with_reducible apply Only.forUpTo
    | with_reducible apply Only.ite
    | exact List.Subset.trans (by decide) hM
    | (intro _ _ _)
    | (intro _ _)
    | with_reducible refine Only.set_saf (Comp.of hM (by decide)) ?_

theorem only_sourceLimit {cs : List Comp} {z s : State} (hK : Only cs z s) (x : Nat) (hM : [.regs, .clk, .tim, .pwm, .gd, .flt, .saf, .out] ⊆ cs) :
    Only cs z (State.sourceLimit s x) := by
  unfold State.sourceLimit
  try dsimp only
  repeat' first
    | with_reducible assumption
    | with_reducible apply only_raise
    | with_reducible apply Only.ite
    | exact List.Subset.trans (by decide) hM
    | (intro _ _ _)
    | (intro _ _)
    | with_reducible refine Only.set_saf (Comp.of hM (by decide)) ?_

theorem only_vauxUv {cs : List Comp} {z s : State} (hK : Only cs z s) (hM : [.regs, .clk, .tim, .pwm, .gd, .flt, .saf, .out] ⊆ cs) :
    Only cs z (State.vauxUv s) := by
  unfold State.vauxUv
  try dsimp only
  repeat' first
    | with_reducible assumption
    | with_reducible apply only_setFlag
    | with_reducible apply only_safRefresh
    | with_reducible apply only_raise
    | with_reducible apply Only.ite
    | exact List.Subset.trans (by decide) hM
    | (intro _ _ _)
    | (intro _ _)

theorem only_vauxOk {cs : List Comp} {z s : State} (hK : Only cs z s) (hM : [.regs, .pwm, .gd, .flt, .saf] ⊆ cs) :
    Only cs z (State.vauxOk s) := by
  unfold State.vauxOk
  try dsimp only
  repeat' first
    | with_reducible assumption
    | with_reducible apply only_setFlag
    | with_reducible apply only_endCause
    | with_reducible apply only_safRefresh
    | with_reducible apply Only.ite
    | exact List.Subset.trans (by decide) hM
    | (intro _ _ _)
    | (intro _ _)

theorem only_localEval {cs : List Comp} {z s : State} (hK : Only cs z s) (agree : Bool) (hM : [.regs, .sys, .clk, .tim, .pwm, .gd, .flt, .saf, .sup, .out] ⊆ cs) :
    Only cs z (State.localEval s agree) := by
  unfold State.localEval
  try dsimp only
  repeat' first
    | with_reducible assumption
    | with_reducible apply only_runUp
    | with_reducible apply only_safRefresh
    | with_reducible apply only_endCause
    | with_reducible apply only_raise
    | with_reducible apply Only.ite
    | exact List.Subset.trans (by decide) hM
    | (intro _ _ _)
    | (intro _ _)
    | with_reducible refine Only.set_saf (Comp.of hM (by decide)) ?_

theorem only_soFail {cs : List Comp} {z s : State} (hK : Only cs z s) (hM : [.regs, .clk, .tim, .pwm, .gd, .flt, .saf, .out] ⊆ cs) :
    Only cs z (State.soFail s) := by
  unfold State.soFail
  try dsimp only
  repeat' first
    | with_reducible assumption
    | with_reducible apply only_setFlag
    | with_reducible apply only_safRefresh
    | with_reducible apply only_raise
    | with_reducible apply Only.ite
    | exact List.Subset.trans (by decide) hM
    | (intro _ _ _)
    | (intro _ _)

theorem only_darkTest {cs : List Comp} {z s : State} (hK : Only cs z s) (c : Nat) (off : Bool) (hM : [.saf] ⊆ cs) :
    Only cs z (State.darkTest s c off) := by
  unfold State.darkTest
  try dsimp only
  repeat' first
    | with_reducible assumption
    | with_reducible apply Only.forUpTo
    | with_reducible apply Only.ite
    | exact List.Subset.trans (by decide) hM
    | (intro _ _ _)
    | (intro _ _)
    | with_reducible refine Only.set_saf (Comp.of hM (by decide)) ?_

theorem only_soReadback {cs : List Comp} {z s : State} (hK : Only cs z s) (x c : Nat) (below5 aboveV : Bool) (hM : [.regs, .clk, .tim, .pwm, .gd, .flt, .saf, .out] ⊆ cs) :
    Only cs z (State.soReadback s x c below5 aboveV) := by
  unfold State.soReadback
  try dsimp only
  repeat' first
    | with_reducible assumption
    | with_reducible apply only_soFail
    | with_reducible apply Only.ite
    | exact List.Subset.trans (by decide) hM
    | (intro _ _ _)
    | (intro _ _)

theorem only_edmCheck {cs : List Comp} {z s : State} (hK : Only cs z s) (x : Nat) (hM : [.regs, .sys, .clk, .tim, .pwm, .gd, .flt, .saf, .sup, .out] ⊆ cs) :
    Only cs z (State.edmCheck s x) := by
  unfold State.edmCheck
  try dsimp only
  repeat' first
    | with_reducible assumption
    | with_reducible apply only_runUp
    | with_reducible apply only_soFail
    | with_reducible apply Only.ite
    | exact List.Subset.trans (by decide) hM
    | (intro _ _ _)
    | (intro _ _)
    | split
    | with_reducible refine Only.set_saf (Comp.of hM (by decide)) ?_

theorem only_takeSafeItem {cs : List Comp} {z s : State} (hK : Only cs z s) (origin : Nat) (r : Ring) (idx : Nat) (v : Word) (hM : [.saf] ⊆ cs) :
    Only cs z (State.takeSafeItem s origin r idx v) := by
  unfold State.takeSafeItem
  try dsimp only
  repeat' first
    | with_reducible assumption
    | with_reducible apply Only.iteFst
    | with_reducible apply Only.ite
    | exact List.Subset.trans (by decide) hM
    | (intro _ _ _)
    | (intro _ _)
    | with_reducible refine Only.set_saf (Comp.of hM (by decide)) ?_

theorem only_safCloseUplink {cs : List Comp} {z s : State} (hK : Only cs z s) (hM : [.regs, .saf, .raises] ⊆ cs) :
    Only cs z (State.safCloseUplink s) := by
  unfold State.safCloseUplink
  try dsimp only
  repeat' first
    | with_reducible assumption
    | with_reducible apply only_bumpReg
    | with_reducible apply only_raiseLater
    | with_reducible apply only_setSafWord
    | with_reducible apply Only.foldlFst
    | with_reducible apply Only.foldl
    | with_reducible apply Only.iteFst
    | with_reducible apply Only.ite
    | exact List.Subset.trans (by decide) hM
    | (intro _ _ _)
    | (intro _ _)
    | split
    | with_reducible refine Only.set_saf (Comp.of hM (by decide)) ?_

theorem only_sfReset {cs : List Comp} {z s : State} (hK : Only cs z s) (k : Nat) (dem : Nat) (hM : [.regs, .clk, .tim, .pwm, .gd, .flt, .saf, .out] ⊆ cs) :
    Only cs z (State.sfReset s k dem) := by
  unfold State.sfReset
  try dsimp only
  repeat' first
    | with_reducible assumption
    | with_reducible apply only_raise
    | with_reducible apply Only.ite
    | exact List.Subset.trans (by decide) hM
    | (intro _ _ _)
    | (intro _ _)
    | split
    | with_reducible refine Only.set_saf (Comp.of hM (by decide)) ?_

theorem only_safApply {cs : List Comp} {z s : State} (hK : Only cs z s) (hM : [.regs, .clk, .tim, .pwm, .gd, .flt, .saf, .out] ⊆ cs) :
    Only cs z (State.safApply s) := by
  unfold State.safApply
  try dsimp only
  repeat' first
    | with_reducible assumption
    | with_reducible apply only_raise
    | with_reducible apply only_safRefresh
    | with_reducible apply Only.ite
    | exact List.Subset.trans (by decide) hM
    | (intro _ _ _)
    | (intro _ _)
    | with_reducible refine Only.set_saf (Comp.of hM (by decide)) ?_

theorem only_safResult {cs : List Comp} {z s : State} (hK : Only cs z s) (h : Nat) (r : SafeCopy) (hM : [.regs, .clk, .tim, .pwm, .gd, .flt, .saf, .out] ⊆ cs) :
    Only cs z (State.safResult s h r) := by
  unfold State.safResult
  try dsimp only
  repeat' first
    | with_reducible assumption
    | with_reducible apply only_setSafHead
    | with_reducible apply only_put
    | with_reducible apply only_setFlag
    | with_reducible apply only_endCause
    | with_reducible apply only_safApply
    | with_reducible apply Only.ite
    | exact List.Subset.trans (by decide) hM
    | (intro _ _ _)
    | (intro _ _)
    | with_reducible refine Only.set_saf (Comp.of hM (by decide)) ?_

theorem only_clearInit {cs : List Comp} {z s : State} (hK : Only cs z s) (dem : Nat) (hM : [.regs, .gd, .saf] ⊆ cs) :
    Only cs z (State.clearInit s dem) := by
  unfold State.clearInit
  try dsimp only
  repeat' first
    | with_reducible assumption
    | with_reducible apply only_setFlag
    | with_reducible apply only_safRefresh
    | with_reducible apply Only.ite
    | exact List.Subset.trans (by decide) hM
    | (intro _ _ _)
    | (intro _ _)

theorem only_safetyDecision {cs : List Comp} {z s : State} (hK : Only cs z s) (hM : [.regs, .sys, .clk, .tim, .pwm, .gd, .flt, .saf, .sup, .out, .free] ⊆ cs) :
    Only cs z (State.safetyDecision s) := by
  unfold State.safetyDecision
  try dsimp only
  repeat' first
    | with_reducible assumption
    | with_reducible apply only_runIn
    | with_reducible apply only_sfReset
    | with_reducible apply only_safResult
    | with_reducible apply only_clearInit
    | with_reducible apply only_sendAll
    | with_reducible apply Only.forUpTo
    | with_reducible apply Only.ite
    | exact List.Subset.trans (by decide) hM
    | (intro _ _ _)
    | (intro _ _)
    | with_reducible refine Only.set_saf (Comp.of hM (by decide)) ?_
    | (with_reducible refine Only.upd ?_ (Or.inr rfl) (Or.inr rfl) (Or.inr rfl) (Or.inr rfl) (Or.inr rfl) (Or.inr rfl) (Or.inr rfl) (Or.inr rfl) (Or.inr rfl) (Or.inr rfl) (Or.inr rfl) (Or.inr rfl) (Or.inr rfl) (Or.inr rfl) (Or.inr rfl) (Or.inr rfl) (Or.inr rfl) (Or.inr rfl) (Or.inl (Comp.of hM (by decide))) (Or.inr rfl) (Or.inr rfl) (Or.inr rfl) (Or.inr rfl))

theorem only_windowClose {cs : List Comp} {z s : State} (hK : Only cs z s) (h : Nat) (a : SafeCopy) (b : Option SafeCopy) (hM : [.regs, .clk, .tim, .pwm, .gd, .flt, .saf, .raises, .out] ⊆ cs) :
    Only cs z (State.windowClose s h a b) := by
  unfold State.windowClose
  try dsimp only
  repeat' first
    | with_reducible assumption
    | with_reducible apply only_setSafHead
    | with_reducible apply only_bumpReg
    | with_reducible apply only_raiseLater
    | with_reducible apply only_raiseDue
    | with_reducible apply only_safResult
    | with_reducible apply only_clearInit
    | with_reducible apply Only.iteFst
    | with_reducible apply Only.ite
    | exact List.Subset.trans (by decide) hM
    | (intro _ _ _)
    | (intro _ _)
    | split
    | with_reducible refine Only.set_saf (Comp.of hM (by decide)) ?_

theorem only_windowEnd {cs : List Comp} {z s : State} (hK : Only cs z s) (h : Nat) (hM : [.regs, .sys, .clk, .tim, .pwm, .gd, .flt, .saf, .sup, .raises, .out] ⊆ cs) :
    Only cs z (State.windowEnd s h) := by
  unfold State.windowEnd
  try dsimp only
  repeat' first
    | with_reducible assumption
    | with_reducible apply only_runToTick
    | with_reducible apply only_windowClose
    | exact List.Subset.trans (by decide) hM
    | (intro _ _ _)
    | (intro _ _)
    | split

theorem only_windowLapsed {cs : List Comp} {z s : State} (hK : Only cs z s) (h : Nat) (hM : [.regs, .sys, .clk, .tim, .pwm, .gd, .flt, .saf, .sup, .raises, .out] ⊆ cs) :
    Only cs z (State.windowLapsed s h) := by
  unfold State.windowLapsed
  try dsimp only
  repeat' first
    | with_reducible assumption
    | with_reducible apply only_windowEnd
    | with_reducible apply Only.ite
    | exact List.Subset.trans (by decide) hM
    | (intro _ _ _)
    | (intro _ _)

theorem only_safeReceived {cs : List Comp} {z s : State} (hK : Only cs z s) (a : Arrival) (hM : [.regs, .sys, .clk, .tim, .pwm, .gd, .flt, .saf, .sup, .raises, .out] ⊆ cs) :
    Only cs z (State.safeReceived s a) := by
  unfold State.safeReceived
  try dsimp only
  repeat' first
    | with_reducible assumption
    | with_reducible apply only_sealFail
    | with_reducible apply only_raiseDue
    | with_reducible apply only_windowLapsed
    | with_reducible apply only_setSafHead
    | with_reducible apply only_windowClose
    | with_reducible apply Only.foldlFst
    | with_reducible apply Only.foldl
    | with_reducible apply Only.ite
    | exact List.Subset.trans (by decide) hM
    | (intro _ _ _)
    | (intro _ _)
    | split

theorem only_stoLoss {cs : List Comp} {z s : State} (hK : Only cs z s) (hM : [.regs, .clk, .tim, .pwm, .gd, .flt, .saf, .out] ⊆ cs) :
    Only cs z (State.stoLoss s) := by
  unfold State.stoLoss
  try dsimp only
  repeat' first
    | with_reducible assumption
    | with_reducible apply only_setFlag
    | with_reducible apply only_safRefresh
    | with_reducible apply only_raise
    | with_reducible apply Only.ite
    | exact List.Subset.trans (by decide) hM
    | (intro _ _ _)
    | (intro _ _)

theorem only_safActive {cs : List Comp} {z s : State} (hK : Only cs z s) (latched : Nat) (hM : [.regs, .saf] ⊆ cs) :
    Only cs z (State.safActive s latched) := by
  unfold State.safActive
  try dsimp only
  repeat' first
    | with_reducible assumption
    | with_reducible apply only_put
    | exact List.Subset.trans (by decide) hM
    | (intro _ _ _)
    | (intro _ _)
    | with_reducible refine Only.set_saf (Comp.of hM (by decide)) ?_

theorem only_safListenEnd {cs : List Comp} {z s : State} (hK : Only cs z s) (hM : [.regs, .saf, .sup] ⊆ cs) :
    Only cs z (State.safListenEnd s) := by
  unfold State.safListenEnd
  try dsimp only
  repeat' first
    | with_reducible assumption
    | with_reducible apply only_heard
    | with_reducible apply only_safActive
    | with_reducible apply Only.ite
    | exact List.Subset.trans (by decide) hM
    | (intro _ _ _)
    | (intro _ _)

theorem only_safBoundary {cs : List Comp} {z s : State} (hK : Only cs z s) (uncounted : Bool) (hM : [.regs, .clk, .tim, .pwm, .gd, .flt, .saf, .out] ⊆ cs) :
    Only cs z (State.safBoundary s uncounted) := by
  unfold State.safBoundary
  try dsimp only
  repeat' first
    | with_reducible assumption
    | with_reducible apply only_setSafHead
    | with_reducible apply only_safActive
    | with_reducible apply only_safApply
    | with_reducible apply Only.ite
    | exact List.Subset.trans (by decide) hM
    | (intro _ _ _)
    | (intro _ _)
    | with_reducible refine Only.set_saf (Comp.of hM (by decide)) ?_

theorem only_safCntClr {cs : List Comp} {z s : State} (hK : Only cs z s) (hM : [.regs] ⊆ cs) :
    Only cs z (State.safCntClr s) := by
  unfold State.safCntClr
  try dsimp only
  repeat' first
    | with_reducible assumption
    | with_reducible apply Only.wr
    | exact List.Subset.trans (by decide) hM
    | (intro _ _ _)
    | (intro _ _)

end Sys2Proof.Machine
end

