-- ==== Sys2Proof/Laws/OnlyEngine.lean ====
section
/-! SUPPORT. Laws/OnlyEngine.lean: which components of the state each operation of Machine/Engine.lean, Machine/Loader.lean, Machine/Flash.lean, Machine/Balancer.lean, Machine/Power.lean may change. -/
namespace Sys2Proof.Machine
set_option Elab.async false

theorem only_dropTrigger {cs : List Comp} {z s : State} (hK : Only cs z s) (g : Nat) (hM : [.regs, .clk, .tim, .pwm, .gd, .flt, .out] ⊆ cs) :
    Only cs z (State.dropTrigger s g) := by
  unfold State.dropTrigger
  try dsimp only
  repeat' first
    | with_reducible assumption
    | with_reducible apply only_bump
    | with_reducible apply only_raise
    | exact List.Subset.trans (by decide) hM
    | (intro _ _ _)
    | (intro _ _)

theorem only_eccFound {cs : List Comp} {z s : State} (hK : Only cs z s) (n w : Nat) (hM : [.regs, .raises] ⊆ cs) :
    Only cs z (State.eccFound s n w) := by
  unfold State.eccFound
  try dsimp only
  repeat' first
    | with_reducible assumption
    | with_reducible apply only_setFlag
    | with_reducible apply only_wrN
    | with_reducible apply only_raiseLater
    | exact List.Subset.trans (by decide) hM
    | (intro _ _ _)
    | (intro _ _)

theorem only_eccDoom {cs : List Comp} {z s : State} (hK : Only cs z s) (g : Nat) (hM : [.regs, .clk, .tim, .pwm, .gd, .flt, .eng, .raises, .out] ⊆ cs) :
    Only cs z (State.eccDoom s g) := by
  unfold State.eccDoom
  try dsimp only
  repeat' first
    | with_reducible assumption
    | with_reducible apply only_eccFound
    | with_reducible apply only_raiseDue
    | with_reducible apply only_setEngGroup
    | with_reducible apply Only.foldlFst
    | with_reducible apply Only.foldl
    | with_reducible apply Only.iteFst
    | with_reducible apply Only.ite
    | exact List.Subset.trans (by decide) hM
    | (intro _ _ _)
    | (intro _ _)
    | split

theorem only_balTrigger {cs : List Comp} {z s : State} (hK : Only cs z s) (g : Nat) (hM : [.regs, .bal] ⊆ cs) :
    Only cs z (State.balTrigger s g) := by
  unfold State.balTrigger
  try dsimp only
  repeat' first
    | with_reducible assumption
    | with_reducible apply only_setFlag
    | with_reducible apply Only.ite
    | exact List.Subset.trans (by decide) hM
    | (intro _ _ _)
    | (intro _ _)
    | with_reducible refine Only.set_bal (Comp.of hM (by decide)) ?_

theorem only_sealCount {cs : List Comp} {z s : State} (hK : Only cs z s) (part : List Nat) (hM : [.regs] ⊆ cs) :
    Only cs z (State.sealCount s part) := by
  unfold State.sealCount
  try dsimp only
  repeat' first
    | with_reducible assumption
    | with_reducible apply only_bumpReg
    | with_reducible apply Only.foldlFst
    | with_reducible apply Only.foldl
    | with_reducible apply Only.when
    | exact List.Subset.trans (by decide) hM
    | (intro _ _ _)
    | (intro _ _)

theorem only_groupLatch {cs : List Comp} {z s : State} (hK : Only cs z s) (g t : Nat) (hM : [.regs, .eng] ⊆ cs) :
    Only cs z (State.groupLatch s g t) := by
  unfold State.groupLatch
  try dsimp only
  repeat' first
    | with_reducible assumption
    | with_reducible apply only_setEngSlot
    | with_reducible apply only_sealCount
    | with_reducible apply only_setEngGroup
    | with_reducible apply Only.foldlFst
    | with_reducible apply Only.foldl
    | exact List.Subset.trans (by decide) hM
    | (intro _ _ _)
    | (intro _ _)

theorem only_rgTrigger {cs : List Comp} {z s : State} (hK : Only cs z s) (g : Nat) (hM : [.regs, .sys, .clk, .tim, .pwm, .gd, .flt, .eng, .sup, .raises, .out] ⊆ cs) :
    Only cs z (State.rgTrigger s g) := by
  unfold State.rgTrigger
  try dsimp only
  repeat' first
    | with_reducible assumption
    | with_reducible apply only_setEngGroup
    | with_reducible apply only_runToTick
    | with_reducible apply only_dropTrigger
    | with_reducible apply only_groupLatch
    | with_reducible apply only_eccDoom
    | with_reducible apply Only.ite
    | exact List.Subset.trans (by decide) hM
    | (intro _ _ _)
    | (intro _ _)
    | split

theorem only_plmSet {cs : List Comp} {z s : State} (hK : Only cs z s) (n st cntw cntf : Nat) (hM : [.regs] ⊆ cs) :
    Only cs z (State.plmSet s n st cntw cntf) := by
  unfold State.plmSet
  try dsimp only
  repeat' first
    | with_reducible assumption
    | with_reducible apply only_put
    | exact List.Subset.trans (by decide) hM
    | (intro _ _ _)
    | (intro _ _)

theorem only_plmReseed {cs : List Comp} {z s : State} (hK : Only cs z s) (n : Nat) (hM : [.regs] ⊆ cs) :
    Only cs z (State.plmReseed s n) := by
  unfold State.plmReseed
  try dsimp only
  repeat' first
    | with_reducible assumption
    | with_reducible apply only_plmSet
    | exact List.Subset.trans (by decide) hM
    | (intro _ _ _)
    | (intro _ _)

theorem only_plmRun {cs : List Comp} {z s : State} (hK : Only cs z s) (n bank fb ua : Nat) (hM : [.regs, .raises] ⊆ cs) :
    Only cs z (State.plmRun s n bank fb ua) := by
  unfold State.plmRun
  try dsimp only
  repeat' first
    | with_reducible assumption
    | with_reducible apply only_wrN
    | with_reducible apply only_plmSet
    | with_reducible apply only_plmReseed
    | with_reducible apply only_raiseLater
    | with_reducible apply Only.wr
    | with_reducible apply Only.iteFst
    | with_reducible apply Only.ite
    | exact List.Subset.trans (by decide) hM
    | (intro _ _ _)
    | (intro _ _)

theorem only_writeDest {cs : List Comp} {z s : State} (hK : Only cs z s) (out : Word) (u : Nat) (hM : [.regs, .rng, .pwm] ⊆ cs) :
    Only cs z (State.writeDest s out u) := by
  unfold State.writeDest
  try dsimp only
  repeat' first
    | with_reducible assumption
    | with_reducible apply only_outItem
    | with_reducible apply only_shadowWrite
    | exact List.Subset.trans (by decide) hM
    | (intro _ _ _)
    | (intro _ _)
    | split

theorem only_storeEval {cs : List Comp} {z s : State} (hK : Only cs z s) (e : Eval) (hM : [.regs, .eng, .raises] ⊆ cs) :
    Only cs z (State.storeEval s e) := by
  unfold State.storeEval
  try dsimp only
  repeat' first
    | with_reducible assumption
    | with_reducible apply only_setEngSlot
    | with_reducible apply only_put
    | with_reducible apply only_setFlag
    | with_reducible apply only_raiseLater
    | with_reducible apply only_wrN
    | with_reducible apply Only.wr
    | with_reducible apply Only.ite
    | exact List.Subset.trans (by decide) hM
    | (intro _ _ _)
    | (intro _ _)

theorem only_commitContest {cs : List Comp} {z s : State} (hK : Only cs z s) (es : List Eval) (m : Nat) (hM : [.regs, .rng, .pwm, .raises] ⊆ cs) :
    Only cs z (State.commitContest s es m) := by
  unfold State.commitContest
  try dsimp only
  repeat' first
    | with_reducible assumption
    | with_reducible apply only_put
    | with_reducible apply only_setFlag
    | with_reducible apply only_raiseLater
    | with_reducible apply only_wrN
    | with_reducible apply only_writeDest
    | with_reducible apply only_bump
    | with_reducible apply Only.ite
    | exact List.Subset.trans (by decide) hM
    | (intro _ _ _)
    | (intro _ _)
    | split

theorem only_modelOf {cs : List Comp} {z s : State} (hK : Only cs z s) (before : State) (e : Eval) (hM : [.regs, .raises] ⊆ cs) :
    Only cs z (State.modelOf s before e) := by
  unfold State.modelOf
  try dsimp only
  repeat' first
    | with_reducible assumption
    | with_reducible apply only_plmRun
    | with_reducible apply Only.ite
    | exact List.Subset.trans (by decide) hM
    | (intro _ _ _)
    | (intro _ _)
    | split

theorem only_peekCopy {cs : List Comp} {z s : State} (hK : Only cs z s) (n : Nat) (hM : [.regs, .clk, .tim, .pwm, .gd, .flt, .eng, .raises, .out] ⊆ cs) :
    Only cs z (State.peekCopy s n) := by
  unfold State.peekCopy
  try dsimp only
  repeat' first
    | with_reducible assumption
    | with_reducible apply only_eccFound
    | with_reducible apply only_raiseDue
    | with_reducible apply only_setFlag
    | with_reducible apply Only.wr
    | with_reducible apply Only.forUpTo
    | with_reducible apply Only.ite
    | exact List.Subset.trans (by decide) hM
    | (intro _ _ _)
    | (intro _ _)
    | split
    | with_reducible refine Only.set_eng (Comp.of hM (by decide)) ?_

theorem only_groupIdle {cs : List Comp} {z s : State} (hK : Only cs z s) (g : Nat) (hM : [.eng] ⊆ cs) :
    Only cs z (State.groupIdle s g) := by
  unfold State.groupIdle
  try dsimp only
  repeat' first
    | with_reducible assumption
    | with_reducible apply only_setEngGroup
    | exact List.Subset.trans (by decide) hM
    | (intro _ _ _)
    | (intro _ _)

theorem only_commitAt {cs : List Comp} {z s : State} (hK : Only cs z s) (g : Nat) (es : List Eval) (hM : [.regs, .clk, .rng, .tim, .pwm, .gd, .flt, .eng, .bal, .raises, .out] ⊆ cs) :
    Only cs z (State.commitAt s g es) := by
  unfold State.commitAt
  try dsimp only
  repeat' first
    | with_reducible assumption
    | with_reducible apply only_storeEval
    | with_reducible apply only_modelOf
    | with_reducible apply only_writeDest
    | with_reducible apply only_commitContest
    | with_reducible apply only_raiseDue
    | with_reducible apply only_put
    | with_reducible apply only_groupIdle
    | with_reducible apply only_balTrigger
    | with_reducible apply only_peekCopy
    | with_reducible apply Only.foldlFst
    | with_reducible apply Only.foldl
    | with_reducible apply Only.ite
    | exact List.Subset.trans (by decide) hM
    | (intro _ _ _)
    | (intro _ _)
    | split

theorem only_groupMiss {cs : List Comp} {z s : State} (hK : Only cs z s) (g : Nat) (hM : [.regs, .sys, .clk, .rng, .tim, .pwm, .gd, .flt, .eng, .bal, .sup, .out] ⊆ cs) :
    Only cs z (State.groupMiss s g) := by
  unfold State.groupMiss
  try dsimp only
  repeat' first
    | with_reducible assumption
    | with_reducible apply only_runToTick
    | with_reducible apply only_setFlag
    | with_reducible apply only_bump
    | with_reducible apply only_put
    | with_reducible apply only_groupIdle
    | with_reducible apply only_raise
    | with_reducible apply only_balTrigger
    | with_reducible apply only_outItem
    | with_reducible apply Only.wr
    | with_reducible apply Only.foldlFst
    | with_reducible apply Only.foldl
    | with_reducible apply Only.ite
    | exact List.Subset.trans (by decide) hM
    | (intro _ _ _)
    | (intro _ _)
    | split

theorem only_groupCommit {cs : List Comp} {z s : State} (hK : Only cs z s) (g : Nat) (hM : [.regs, .sys, .clk, .rng, .tim, .pwm, .gd, .flt, .eng, .bal, .sup, .raises, .out] ⊆ cs) :
    Only cs z (State.groupCommit s g) := by
  unfold State.groupCommit
  try dsimp only
  repeat' first
    | with_reducible assumption
    | with_reducible apply only_eccDoom
    | with_reducible apply only_groupMiss
    | with_reducible apply only_runToTick
    | with_reducible apply only_commitAt
    | with_reducible apply Only.ite
    | exact List.Subset.trans (by decide) hM
    | (intro _ _ _)
    | (intro _ _)
    | split

theorem only_swapGo {cs : List Comp} {z s : State} (hK : Only cs z s) (next : Bool) (hM : [.regs] ⊆ cs) :
    Only cs z (State.swapGo s next) := by
  unfold State.swapGo
  try dsimp only
  repeat' first
    | with_reducible assumption
    | with_reducible apply only_setFlag
    | with_reducible apply only_put
    | with_reducible apply Only.ite
    | exact List.Subset.trans (by decide) hM
    | (intro _ _ _)
    | (intro _ _)

theorem only_swapCancel {cs : List Comp} {z s : State} (hK : Only cs z s) (hM : [.regs] ⊆ cs) :
    Only cs z (State.swapCancel s) := by
  unfold State.swapCancel
  try dsimp only
  repeat' first
    | with_reducible assumption
    | with_reducible apply only_put
    | with_reducible apply Only.ite
    | exact List.Subset.trans (by decide) hM
    | (intro _ _ _)
    | (intro _ _)

theorem only_swapSlot {cs : List Comp} {z s : State} (hK : Only cs z s) (n : Nat) (hM : [.regs, .clk, .tim, .pwm, .gd, .flt, .eng, .raises, .out] ⊆ cs) :
    Only cs z (State.swapSlot s n).1 := by
  unfold State.swapSlot
  try dsimp only
  repeat' first
    | with_reducible assumption
    | with_reducible apply only_eccFound
    | with_reducible apply only_raiseDue
    | with_reducible apply only_put
    | with_reducible apply only_setFlag
    | with_reducible apply only_setEngSlot
    | with_reducible apply only_raise
    | with_reducible apply Only.iteFst
    | with_reducible apply Only.ite
    | exact List.Subset.trans (by decide) hM
    | (intro _ _ _)
    | (intro _ _)
    | split

theorem only_swapSlots {cs : List Comp} {z s : State} (hK : Only cs z s) (armed : List Nat) (hM : [.regs, .clk, .tim, .pwm, .gd, .flt, .eng, .raises, .out] ⊆ cs) :
    Only cs z (State.swapSlots s armed).1 := by
  unfold State.swapSlots
  try dsimp only
  repeat' first
    | with_reducible assumption
    | with_reducible apply only_swapSlot
    | with_reducible apply Only.foldlFst
    | with_reducible apply Only.foldl
    | with_reducible apply Only.iteFst
    | with_reducible apply Only.ite
    | exact List.Subset.trans (by decide) hM
    | (intro _ _ _)
    | (intro _ _)

theorem only_swapAtBoundary {cs : List Comp} {z s : State} (hK : Only cs z s) (hM : [.regs, .clk, .tim, .pwm, .gd, .flt, .eng, .raises, .out] ⊆ cs) :
    Only cs z (State.swapAtBoundary s) := by
  unfold State.swapAtBoundary
  try dsimp only
  repeat' first
    | with_reducible assumption
    | with_reducible apply only_swapSlots
    | with_reducible apply only_put
    | with_reducible apply Only.wr
    | with_reducible apply Only.iteFst
    | with_reducible apply Only.ite
    | exact List.Subset.trans (by decide) hM
    | (intro _ _ _)
    | (intro _ _)
    | with_reducible refine Only.set_eng (Comp.of hM (by decide)) ?_

theorem only_actWr {cs : List Comp} {z s : State} (hK : Only cs z s) (hM : [.regs] ⊆ cs) :
    Only cs z (State.actWr s) := by
  unfold State.actWr
  try dsimp only
  repeat' first
    | with_reducible assumption
    | with_reducible apply only_setFlag
    | exact List.Subset.trans (by decide) hM
    | (intro _ _ _)
    | (intro _ _)

theorem only_bankWrite {cs : List Comp} {z s : State} (hK : Only cs z s) (n b a : Nat) (v : Word) (hM : [.regs] ⊆ cs) :
    Only cs z (State.bankWrite s n b a v) := by
  unfold State.bankWrite
  try dsimp only
  repeat' first
    | with_reducible assumption
    | with_reducible apply only_actWr
    | with_reducible apply Only.wr
    | with_reducible apply Only.ite
    | exact List.Subset.trans (by decide) hM
    | (intro _ _ _)
    | (intro _ _)
    | split

theorem only_cfgWrite {cs : List Comp} {z s : State} (hK : Only cs z s) (n : Nat) (v : Word) (hM : [.regs] ⊆ cs) :
    Only cs z (State.cfgWrite s n v) := by
  unfold State.cfgWrite
  try dsimp only
  repeat' first
    | with_reducible assumption
    | with_reducible apply only_actWr
    | with_reducible apply only_setFlag
    | with_reducible apply only_plmReseed
    | with_reducible apply Only.wr
    | with_reducible apply Only.ite
    | exact List.Subset.trans (by decide) hM
    | (intro _ _ _)
    | (intro _ _)

theorem only_plm0Write {cs : List Comp} {z s : State} (hK : Only cs z s) (n : Nat) (v : Word) (hM : [.regs] ⊆ cs) :
    Only cs z (State.plm0Write s n v) := by
  unfold State.plm0Write
  try dsimp only
  repeat' first
    | with_reducible assumption
    | with_reducible apply only_actWr
    | with_reducible apply only_setFlag
    | with_reducible apply only_plmReseed
    | with_reducible apply Only.wr
    | with_reducible apply Only.ite
    | exact List.Subset.trans (by decide) hM
    | (intro _ _ _)
    | (intro _ _)

theorem only_slotWrite {cs : List Comp} {z s : State} (hK : Only cs z s) (n w : Nat) (v : Word) (hM : [.regs] ⊆ cs) :
    Only cs z (State.slotWrite s n w v) := by
  unfold State.slotWrite
  try dsimp only
  repeat' first
    | with_reducible assumption
    | with_reducible apply only_bankWrite
    | with_reducible apply only_actWr
    | with_reducible apply only_cfgWrite
    | with_reducible apply only_plm0Write
    | with_reducible apply Only.wr
    | with_reducible apply Only.ite
    | exact List.Subset.trans (by decide) hM
    | (intro _ _ _)
    | (intro _ _)

theorem only_peekRequest {cs : List Comp} {z s : State} (hK : Only cs z s) (n : Nat) (hM : [.regs, .clk, .tim, .pwm, .gd, .flt, .eng, .raises, .out] ⊆ cs) :
    Only cs z (State.peekRequest s n) := by
  unfold State.peekRequest
  try dsimp only
  repeat' first
    | with_reducible assumption
    | with_reducible apply only_put
    | with_reducible apply only_setFlag
    | with_reducible apply only_peekCopy
    | with_reducible apply Only.ite
    | exact List.Subset.trans (by decide) hM
    | (intro _ _ _)
    | (intro _ _)
    | with_reducible refine Only.set_eng (Comp.of hM (by decide)) ?_

theorem only_ceCntClr {cs : List Comp} {z s : State} (hK : Only cs z s) (hM : [.regs] ⊆ cs) :
    Only cs z (State.ceCntClr s) := by
  unfold State.ceCntClr
  try dsimp only
  repeat' first
    | with_reducible assumption
    | with_reducible apply only_put
    | with_reducible apply Only.wr
    | with_reducible apply Only.forUpTo
    | exact List.Subset.trans (by decide) hM
    | (intro _ _ _)
    | (intro _ _)

theorem only_publishDerating {cs : List Comp} {z s : State} (hK : Only cs z s) (hM : [.eng] ⊆ cs) :
    Only cs z (State.publishDerating s) := by
  unfold State.publishDerating
  try dsimp only
  repeat' first
    | with_reducible assumption
    | with_reducible apply only_setResult
    | with_reducible apply Only.forUpTo
    | exact List.Subset.trans (by decide) hM
    | (intro _ _ _)
    | (intro _ _)
    | split

theorem only_ckoLoaded {cs : List Comp} {z s : State} (hK : Only cs z s) (a : Nat) (hM : [.regs, .clk] ⊆ cs) :
    Only cs z (State.ckoLoaded s a) := by
  unfold State.ckoLoaded
  try dsimp only
  repeat' first
    | with_reducible assumption
    | with_reducible apply only_ckoWritten
    | with_reducible apply Only.forUpTo
    | with_reducible apply Only.when
    | exact List.Subset.trans (by decide) hM
    | (intro _ _ _)
    | (intro _ _)

theorem onlyO_loadWord {cs : List Comp} {z s : State} (hK : Only cs z s) (a : Nat) (w : Word) (hM : [.regs, .clk] ⊆ cs) :
    OnlyO cs z (s.loadWord a w) := by
  unfold State.loadWord
  split
  · exact OnlyO.some hK
  · exact OnlyO.ite (OnlyO.some (only_ckoLoaded (hK.wr _ _ (List.Subset.trans (by decide) hM)) _ (List.Subset.trans (by decide) hM))) OnlyO.none

theorem onlyO_loadAll {cs : List Comp} {z s : State} (hK : Only cs z s) (l : List (Nat × Word)) (hM : [.regs, .clk] ⊆ cs) :
    OnlyO cs z (s.loadAll l) := by
  induction l generalizing s with
  | nil => exact OnlyO.some hK
  | cons e t ih =>
    unfold State.loadAll
    split
    · next s1 h => exact ih (onlyO_loadWord hK _ _ hM s1 h)
    · exact OnlyO.none

theorem onlyO_loadImage {cs : List Comp} {z s : State} (hK : Only cs z s) (cfg : List (Nat × Word)) (hM : [.regs, .clk] ⊆ cs) :
    OnlyO cs z (s.loadImage cfg) := by
  unfold State.loadImage
  split
  · next t h => exact OnlyO.ite (OnlyO.some (onlyO_loadAll hK cfg hM t h)) OnlyO.none
  · exact OnlyO.none

theorem only_setBalCell {cs : List Comp} {z s : State} (hK : Only cs z s) (k i : Nat) (c : BalCell) (hM : [.bal] ⊆ cs) :
    Only cs z (State.setBalCell s k i c) := by
  unfold State.setBalCell
  try dsimp only
  repeat' first
    | with_reducible assumption
    | exact List.Subset.trans (by decide) hM
    | (intro _ _ _)
    | (intro _ _)
    | with_reducible refine Only.set_bal (Comp.of hM (by decide)) ?_

theorem only_setBalStk {cs : List Comp} {z s : State} (hK : Only cs z s) (k : Nat) (c : BalStk) (hM : [.bal] ⊆ cs) :
    Only cs z (State.setBalStk s k c) := by
  unfold State.setBalStk
  try dsimp only
  repeat' first
    | with_reducible assumption
    | exact List.Subset.trans (by decide) hM
    | (intro _ _ _)
    | (intro _ _)
    | with_reducible refine Only.set_bal (Comp.of hM (by decide)) ?_

theorem only_balRaise {cs : List Comp} {z s : State} (hK : Only cs z s) (r : Raise) (hM : [.raises] ⊆ cs) :
    Only cs z (State.balRaise s r) := by
  unfold State.balRaise
  try dsimp only
  repeat' first
    | with_reducible assumption
    | with_reducible apply only_raiseLater
    | with_reducible apply Only.ite
    | exact List.Subset.trans (by decide) hM
    | (intro _ _ _)
    | (intro _ _)

theorem only_balBypass {cs : List Comp} {z s : State} (hK : Only cs z s) (k i pos reason : Nat) (hM : [.regs, .bal, .raises] ⊆ cs) :
    Only cs z (State.balBypass s k i pos reason) := by
  unfold State.balBypass
  try dsimp only
  repeat' first
    | with_reducible assumption
    | with_reducible apply only_put
    | with_reducible apply only_setBalCell
    | with_reducible apply only_balRaise
    | with_reducible apply Only.ite
    | exact List.Subset.trans (by decide) hM
    | (intro _ _ _)
    | (intro _ _)

theorem only_balEnter {cs : List Comp} {z s : State} (hK : Only cs z s) (k i : Nat) (held : Bool) (hM : [.regs] ⊆ cs) :
    Only cs z (State.balEnter s k i held) := by
  unfold State.balEnter
  try dsimp only
  repeat' first
    | with_reducible assumption
    | with_reducible apply only_put
    | with_reducible apply Only.ite
    | exact List.Subset.trans (by decide) hM
    | (intro _ _ _)
    | (intro _ _)

theorem only_balSecs {cs : List Comp} {z s : State} (hK : Only cs z s) (hM : [.bal] ⊆ cs) :
    Only cs z (State.balSecs s) := by
  unfold State.balSecs
  try dsimp only
  repeat' first
    | with_reducible assumption
    | with_reducible apply Only.foldlFst
    | with_reducible apply Only.foldl
    | with_reducible apply Only.ite
    | exact List.Subset.trans (by decide) hM
    | (intro _ _ _)
    | (intro _ _)
    | with_reducible refine Only.set_bal (Comp.of hM (by decide)) ?_

theorem only_balInput {cs : List Comp} {z s : State} (hK : Only cs z s) (k i pos : Nat) (hM : [.regs, .bal, .raises] ⊆ cs) :
    Only cs z (State.balInput s k i pos) := by
  unfold State.balInput
  try dsimp only
  repeat' first
    | with_reducible assumption
    | with_reducible apply only_setBalCell
    | with_reducible apply only_put
    | with_reducible apply only_balBypass
    | with_reducible apply only_balRaise
    | with_reducible apply Only.ite
    | exact List.Subset.trans (by decide) hM
    | (intro _ _ _)
    | (intro _ _)
    | split

theorem only_balReqEnd {cs : List Comp} {z s : State} (hK : Only cs z s) (state err : Nat) (hM : [.regs, .bal] ⊆ cs) :
    Only cs z (State.balReqEnd s state err) := by
  unfold State.balReqEnd
  try dsimp only
  repeat' first
    | with_reducible assumption
    | with_reducible apply only_put
    | with_reducible apply Only.ite
    | exact List.Subset.trans (by decide) hM
    | (intro _ _ _)
    | (intro _ _)
    | with_reducible refine Only.set_bal (Comp.of hM (by decide)) ?_

theorem only_balJoin {cs : List Comp} {z s : State} (hK : Only cs z s) (hM : [.regs, .bal] ⊆ cs) :
    Only cs z (State.balJoin s) := by
  unfold State.balJoin
  try dsimp only
  repeat' first
    | with_reducible assumption
    | with_reducible apply only_put
    | with_reducible apply only_setBalCell
    | with_reducible apply Only.ite
    | exact List.Subset.trans (by decide) hM
    | (intro _ _ _)
    | (intro _ _)
    | split
    | with_reducible refine Only.set_bal (Comp.of hM (by decide)) ?_

theorem only_balRequestRun {cs : List Comp} {z s : State} (hK : Only cs z s) (b : Word) (locked : Bool) (hM : [.regs, .bal, .raises] ⊆ cs) :
    Only cs z (State.balRequestRun s b locked).1 := by
  unfold State.balRequestRun
  try dsimp only
  repeat' first
    | with_reducible assumption
    | with_reducible apply only_balReqEnd
    | with_reducible apply only_balBypass
    | with_reducible apply only_balEnter
    | with_reducible apply only_put
    | with_reducible apply Only.iteFst
    | with_reducible apply Only.ite
    | exact List.Subset.trans (by decide) hM
    | (intro _ _ _)
    | (intro _ _)
    | split

theorem only_balRanks {cs : List Comp} {z s : State} (hK : Only cs z s) (k : Nat) (es : List (Nat × Nat)) (hM : [.regs] ⊆ cs) :
    Only cs z (State.balRanks s k es) := by
  unfold State.balRanks
  try dsimp only
  repeat' first
    | with_reducible assumption
    | with_reducible apply only_put
    | with_reducible apply only_wrN
    | with_reducible apply Only.foldlFst
    | with_reducible apply Only.foldl
    | exact List.Subset.trans (by decide) hM
    | (intro _ _ _)
    | (intro _ _)
    | split

theorem only_balSigma {cs : List Comp} {z s : State} (hK : Only cs z s) (k : Nat) (hM : [.regs] ⊆ cs) :
    Only cs z (State.balSigma s k) := by
  unfold State.balSigma
  try dsimp only
  repeat' first
    | with_reducible assumption
    | with_reducible apply only_setFlag
    | with_reducible apply Only.ite
    | exact List.Subset.trans (by decide) hM
    | (intro _ _ _)
    | (intro _ _)

theorem only_balOne {cs : List Comp} {z s : State} (hK : Only cs z s) (k : Nat) (r : BalRun) (fresh : List Nat) (es : List (Nat × Nat)) (j i : Nat) (hM : [.regs] ⊆ cs) :
    Only cs z (State.balOne s k r fresh es j i).1 := by
  unfold State.balOne
  try dsimp only
  repeat' first
    | with_reducible assumption
    | with_reducible apply only_wrN
    | with_reducible apply Only.iteFst
    | with_reducible apply Only.ite
    | exact List.Subset.trans (by decide) hM
    | (intro _ _ _)
    | (intro _ _)
    | split

theorem only_balEach {cs : List Comp} {z s : State} (hK : Only cs z s) (k : Nat) (r : BalRun) (fresh : List Nat) (es : List (Nat × Nat)) (hM : [.regs] ⊆ cs) :
    Only cs z (State.balEach s k r fresh es).1 := by
  unfold State.balEach
  try dsimp only
  repeat' first
    | with_reducible assumption
    | with_reducible apply only_balOne
    | with_reducible apply Only.foldlFst
    | with_reducible apply Only.foldl
    | exact List.Subset.trans (by decide) hM
    | (intro _ _ _)
    | (intro _ _)

theorem only_balFinish {cs : List Comp} {z s1 : State} (hK : Only cs z s1) (s : State) (k : Nat) (r : BalRun) (sat resp : Bool) (hM : [.regs, .bal, .raises] ⊆ cs) :
    Only cs z (State.balFinish s1 s k r sat resp) := by
  unfold State.balFinish
  try dsimp only
  repeat' first
    | with_reducible assumption
    | with_reducible apply only_setBalStk
    | with_reducible apply only_wrN
    | with_reducible apply only_setFlag
    | with_reducible apply only_put
    | with_reducible apply only_balRaise
    | with_reducible apply Only.iteFst
    | with_reducible apply Only.ite
    | exact List.Subset.trans (by decide) hM
    | (intro _ _ _)
    | (intro _ _)

theorem only_balStack {cs : List Comp} {z s : State} (hK : Only cs z s) (k : Nat) (fresh : List Nat) (hM : [.regs, .bal, .raises] ⊆ cs) :
    Only cs z (State.balStack s k fresh) := by
  unfold State.balStack
  try dsimp only
  repeat' first
    | with_reducible assumption
    | with_reducible apply only_balRanks
    | with_reducible apply only_balSigma
    | with_reducible apply only_balEach
    | with_reducible apply only_balFinish
    | with_reducible apply Only.foldlFst
    | with_reducible apply Only.foldl
    | with_reducible apply Only.iteFst
    | with_reducible apply Only.ite
    | exact List.Subset.trans (by decide) hM
    | (intro _ _ _)
    | (intro _ _)

theorem only_balFull {cs : List Comp} {z s : State} (hK : Only cs z s) (unlocked : List Nat) (hM : [.regs, .bal, .raises] ⊆ cs) :
    Only cs z (State.balFull s unlocked) := by
  unfold State.balFull
  try dsimp only
  repeat' first
    | with_reducible assumption
    | with_reducible apply only_setFlag
    | with_reducible apply only_setBalStk
    | with_reducible apply only_put
    | with_reducible apply only_setBalCell
    | with_reducible apply only_balEnter
    | with_reducible apply only_balBypass
    | with_reducible apply only_wrN
    | with_reducible apply Only.foldlFst
    | with_reducible apply Only.foldl
    | with_reducible apply Only.iteFst
    | with_reducible apply Only.ite
    | exact List.Subset.trans (by decide) hM
    | (intro _ _ _)
    | (intro _ _)
    | with_reducible refine Only.set_bal (Comp.of hM (by decide)) ?_

theorem only_balancerCommit {cs : List Comp} {z s : State} (hK : Only cs z s) (locked : Bool) (hM : [.regs, .clk, .rng, .tim, .pwm, .gd, .flt, .bal, .raises, .out] ⊆ cs) :
    Only cs z (State.balancerCommit s locked) := by
  unfold State.balancerCommit
  try dsimp only
  repeat' first
    | with_reducible assumption
    | with_reducible apply only_put
    | with_reducible apply only_setFlag
    | with_reducible apply only_balSecs
    | with_reducible apply only_balJoin
    | with_reducible apply only_balInput
    | with_reducible apply only_balRequestRun
    | with_reducible apply only_balStack
    | with_reducible apply only_raiseDue
    | with_reducible apply only_outItem
    | with_reducible apply Only.foldlFst
    | with_reducible apply Only.foldl
    | with_reducible apply Only.iteFst
    | with_reducible apply Only.ite
    | exact List.Subset.trans (by decide) hM
    | (intro _ _ _)
    | (intro _ _)
    | split
    | with_reducible refine Only.set_bal (Comp.of hM (by decide)) ?_

theorem only_balLate {cs : List Comp} {z s : State} (hK : Only cs z s) (hM : [.regs, .clk, .rng, .tim, .pwm, .gd, .flt, .out] ⊆ cs) :
    Only cs z (State.balLate s) := by
  unfold State.balLate
  try dsimp only
  repeat' first
    | with_reducible assumption
    | with_reducible apply only_outItem
    | with_reducible apply only_setFlag
    | with_reducible apply only_put
    | with_reducible apply only_raise
    | with_reducible apply Only.foldlFst
    | with_reducible apply Only.foldl
    | with_reducible apply Only.iteFst
    | with_reducible apply Only.ite
    | exact List.Subset.trans (by decide) hM
    | (intro _ _ _)
    | (intro _ _)

theorem only_balPlace {cs : List Comp} {z s : State} (hK : Only cs z s) (op pos : Nat) (b : Word) (hM : [.regs, .bal] ⊆ cs) :
    Only cs z (State.balPlace s op pos b) := by
  unfold State.balPlace
  try dsimp only
  repeat' first
    | with_reducible assumption
    | with_reducible apply only_put
    | with_reducible apply Only.ite
    | exact List.Subset.trans (by decide) hM
    | (intro _ _ _)
    | (intro _ _)
    | split
    | with_reducible refine Only.set_bal (Comp.of hM (by decide)) ?_

theorem only_balReqWrite {cs : List Comp} {z s : State} (hK : Only cs z s) (v : Nat) (hM : [.regs, .bal] ⊆ cs) :
    Only cs z (State.balReqWrite s v) := by
  unfold State.balReqWrite
  try dsimp only
  repeat' first
    | with_reducible assumption
    | with_reducible apply only_put
    | with_reducible apply only_balPlace
    | with_reducible apply Only.ite
    | exact List.Subset.trans (by decide) hM
    | (intro _ _ _)
    | (intro _ _)

theorem only_balPhase {cs : List Comp} {z s : State} (hK : Only cs z s) (n : Nat) (phi : Nat) (hM : [.regs, .pwm] ⊆ cs) :
    Only cs z (State.balPhase s n phi) := by
  unfold State.balPhase
  try dsimp only
  repeat' first
    | with_reducible assumption
    | with_reducible apply only_shadowWrite
    | exact List.Subset.trans (by decide) hM
    | (intro _ _ _)
    | (intro _ _)

theorem only_balMember {cs : List Comp} {z s : State} (hK : Only cs z s) (hM : [.regs, .pwm, .gd, .bal] ⊆ cs) :
    Only cs z (State.balMember s) := by
  unfold State.balMember
  try dsimp only
  repeat' first
    | with_reducible assumption
    | with_reducible apply only_balPhase
    | with_reducible apply only_legRefresh
    | with_reducible apply Only.wr
    | with_reducible apply Only.foldlFst
    | with_reducible apply Only.foldl
    | with_reducible apply Only.ite
    | exact List.Subset.trans (by decide) hM
    | (intro _ _ _)
    | (intro _ _)
    | split
    | with_reducible refine Only.set_bal (Comp.of hM (by decide)) ?_

theorem only_updPart {cs : List Comp} {z s : State} (hK : Only cs z s) (c : UpdCmd) (n : Nat) (hM : [.flash] ⊆ cs) :
    Only cs z (State.updPart s c n) := by
  unfold State.updPart
  try dsimp only
  repeat' first
    | with_reducible assumption
    | exact List.Subset.trans (by decide) hM
    | (intro _ _ _)
    | (intro _ _)
    | split
    | with_reducible refine Only.set_flash (Comp.of hM (by decide)) ?_

theorem only_updStop {cs : List Comp} {z s : State} (hK : Only cs z s) (hM : [.flash, .img, .free] ⊆ cs) :
    Only cs z (State.updStop s) := by
  unfold State.updStop
  try dsimp only
  repeat' first
    | with_reducible assumption
    | with_reducible apply only_updPart
    | with_reducible apply Only.useFree
    | exact List.Subset.trans (by decide) hM
    | (intro _ _ _)
    | (intro _ _)
    | split
    | with_reducible refine Only.set_img (Comp.of hM (by decide)) ?_

theorem only_resetNode {cs : List Comp} {z s : State} (hK : Only cs z s) (por pg : Bool) (hM : [.regs, .mem, .sys, .clk, .flash, .img, .lnk, .rng, .tim, .pwm, .gd, .dpx, .flt, .eng, .adc, .memx, .thm, .bal, .saf, .sup, .mbx, .mtr, .raises, .free] ⊆ cs) :
    Only cs z (s.resetNode por pg) := by
  unfold State.resetNode
  extract_lets u cause base s1
  refine (only_updStop hK (List.Subset.trans (by decide) hM)).step (m := [.regs, .mem, .sys, .clk, .flash, .img, .lnk, .rng, .tim, .pwm, .gd, .dpx, .flt, .eng, .adc, .memx, .thm, .bal, .saf, .sup, .mbx, .mtr, .raises, .free]) (Only.intro fun c hc => ?_) hM
  split <;> (cases c <;> first | rfl | exact absurd (by decide) hc)

theorem only_release {cs : List Comp} {z s : State} (hK : Only cs z s) (straps : Nat) (dbgsel : Bool) (hM : [.regs, .sys, .vault, .clk, .lnk, .tim, .pwm, .gd, .dpx, .flt, .mtr, .out] ⊆ cs) :
    Only cs z (State.release s straps dbgsel) := by
  unfold State.release
  try dsimp only
  repeat' first
    | with_reducible assumption
    | with_reducible apply only_put
    | with_reducible apply only_setFlag
    | with_reducible apply only_logScan
    | with_reducible apply only_wrN
    | with_reducible apply only_logRefresh
    | with_reducible apply only_toStage
    | with_reducible apply only_lanesBoot
    | with_reducible apply Only.ite
    | exact List.Subset.trans (by decide) hM
    | (intro _ _ _)
    | (intro _ _)
    | with_reducible refine Only.set_sys (Comp.of hM (by decide)) ?_
    | with_reducible refine Only.set_vault (Comp.of hM (by decide)) ?_
    | with_reducible refine Only.set_dpx (Comp.of hM (by decide)) ?_
    | with_reducible refine Only.set_mtr (Comp.of hM (by decide)) ?_
    | (with_reducible refine Only.upd ?_ (Or.inl (Comp.of hM (by decide))) (Or.inl (Comp.of hM (by decide))) (Or.inr rfl) (Or.inr rfl) (Or.inr rfl) (Or.inr rfl) (Or.inr rfl) (Or.inr rfl) (Or.inr rfl) (Or.inr rfl) (Or.inr rfl) (Or.inl (Comp.of hM (by decide))) (Or.inr rfl) (Or.inr rfl) (Or.inr rfl) (Or.inr rfl) (Or.inr rfl) (Or.inr rfl) (Or.inr rfl) (Or.inr rfl) (Or.inr rfl) (Or.inl (Comp.of hM (by decide))) (Or.inr rfl))

theorem only_tamperPulse {cs : List Comp} {z s : State} (hK : Only cs z s) (returned : Bool) (hM : [.regs, .vault, .clk, .tim, .pwm, .gd, .flt, .out] ⊆ cs) :
    Only cs z (State.tamperPulse s returned) := by
  unfold State.tamperPulse
  try dsimp only
  repeat' first
    | with_reducible assumption
    | with_reducible apply only_setFlag
    | with_reducible apply only_logEvent
    | with_reducible apply only_raise
    | with_reducible apply Only.ite
    | exact List.Subset.trans (by decide) hM
    | (intro _ _ _)
    | (intro _ _)
    | with_reducible refine Only.set_vault (Comp.of hM (by decide)) ?_

theorem only_rootStart {cs : List Comp} {z s : State} (hK : Only cs z s) (hM : [.regs, .clk] ⊆ cs) :
    Only cs z (State.rootStart s) := by
  unfold State.rootStart
  try dsimp only
  repeat' first
    | with_reducible assumption
    | with_reducible apply only_setRoot
    | with_reducible apply Only.ite
    | exact List.Subset.trans (by decide) hM
    | (intro _ _ _)
    | (intro _ _)

theorem only_lockDeclared {cs : List Comp} {z s : State} (hK : Only cs z s) (hM : [.regs, .clk, .free] ⊆ cs) :
    Only cs z (State.lockDeclared s) := by
  unfold State.lockDeclared
  try dsimp only
  repeat' first
    | with_reducible assumption
    | with_reducible apply only_put
    | with_reducible apply only_setRoot
    | with_reducible apply Only.useFree
    | with_reducible apply Only.ite
    | exact List.Subset.trans (by decide) hM
    | (intro _ _ _)
    | (intro _ _)
    | with_reducible refine Only.set_clk (Comp.of hM (by decide)) ?_

theorem only_lossOfRefin {cs : List Comp} {z s : State} (hK : Only cs z s) (hM : [.regs, .clk, .tim, .pwm, .gd, .flt, .out] ⊆ cs) :
    Only cs z (State.lossOfRefin s) := by
  unfold State.lossOfRefin
  try dsimp only
  repeat' first
    | with_reducible assumption
    | with_reducible apply only_reacquire
    | with_reducible apply only_setRoot
    | with_reducible apply only_raise
    | with_reducible apply Only.ite
    | exact List.Subset.trans (by decide) hM
    | (intro _ _ _)
    | (intro _ _)
    | with_reducible refine Only.set_clk (Comp.of hM (by decide)) ?_

theorem only_reacquire {cs : List Comp} {z s : State} (hK : Only cs z s) (ppm : Frac) (hM : [.regs, .clk] ⊆ cs) :
    Only cs z (State.reacquire s ppm) := by
  unfold State.reacquire
  try dsimp only
  repeat' first
    | with_reducible assumption
    | with_reducible apply only_setRoot
    | exact List.Subset.trans (by decide) hM
    | (intro _ _ _)
    | (intro _ _)
    | with_reducible refine Only.set_clk (Comp.of hM (by decide)) ?_

theorem only_refinReturn {cs : List Comp} {z s : State} (hK : Only cs z s) (mppm : Int) (hM : [.regs, .clk] ⊆ cs) :
    Only cs z (State.refinReturn s mppm) := by
  unfold State.refinReturn
  try dsimp only
  repeat' first
    | with_reducible assumption
    | with_reducible apply only_reacquire
    | with_reducible apply only_rootStart
    | with_reducible apply Only.when
    | with_reducible apply Only.ite
    | exact List.Subset.trans (by decide) hM
    | (intro _ _ _)
    | (intro _ _)
    | with_reducible refine Only.set_clk (Comp.of hM (by decide)) ?_

theorem only_reacquired {cs : List Comp} {z s : State} (hK : Only cs z s) (hM : [.regs, .sys, .clk, .tim, .pwm, .gd, .flt, .sup, .out] ⊆ cs) :
    Only cs z (State.reacquired s) := by
  unfold State.reacquired
  try dsimp only
  repeat' first
    | with_reducible assumption
    | with_reducible apply only_reacquire
    | with_reducible apply only_runTicks
    | with_reducible apply only_setRoot
    | with_reducible apply Only.when
    | exact List.Subset.trans (by decide) hM
    | (intro _ _ _)
    | (intro _ _)

theorem only_lossOfLock {cs : List Comp} {z s : State} (hK : Only cs z s) (hM : [.regs, .clk, .lnk, .tim, .pwm, .gd, .flt, .bal, .out] ⊆ cs) :
    Only cs z (State.lossOfLock s) := by
  unfold State.lossOfLock
  try dsimp only
  repeat' first
    | with_reducible assumption
    | with_reducible apply only_reacquire
    | with_reducible apply only_setRoot
    | with_reducible apply only_loseTimebase
    | with_reducible apply only_raise
    | with_reducible apply only_leaveService
    | with_reducible apply Only.ite
    | exact List.Subset.trans (by decide) hM
    | (intro _ _ _)
    | (intro _ _)
    | with_reducible refine Only.set_clk (Comp.of hM (by decide)) ?_

theorem only_holdMax {cs : List Comp} {z s : State} (hK : Only cs z s) (hM : [.regs, .sys, .clk, .tim, .pwm, .gd, .flt, .sup, .out] ⊆ cs) :
    Only cs z (State.holdMax s) := by
  unfold State.holdMax
  try dsimp only
  repeat' first
    | with_reducible assumption
    | with_reducible apply only_runUp
    | with_reducible apply only_raise
    | with_reducible apply only_holdOut
    | with_reducible apply Only.ite
    | exact List.Subset.trans (by decide) hM
    | (intro _ _ _)
    | (intro _ _)
    | split
    | with_reducible refine Only.set_clk (Comp.of hM (by decide)) ?_

theorem only_refWaitStart {cs : List Comp} {z s : State} (hK : Only cs z s) (hM : [.regs, .clk] ⊆ cs) :
    Only cs z (State.refWaitStart s) := by
  unfold State.refWaitStart
  try dsimp only
  repeat' first
    | with_reducible assumption
    | with_reducible apply only_setRoot
    | with_reducible apply only_setFlag
    | with_reducible apply Only.ite
    | exact List.Subset.trans (by decide) hM
    | (intro _ _ _)
    | (intro _ _)
    | with_reducible refine Only.set_clk (Comp.of hM (by decide)) ?_

theorem only_refWaitEnd {cs : List Comp} {z s : State} (hK : Only cs z s) (hM : [.regs, .sys, .clk, .tim, .pwm, .gd, .flt, .sup, .out] ⊆ cs) :
    Only cs z (State.refWaitEnd s) := by
  unfold State.refWaitEnd
  try dsimp only
  repeat' first
    | with_reducible assumption
    | with_reducible apply only_runUp
    | with_reducible apply only_setFlag
    | with_reducible apply only_slewTarget
    | with_reducible apply only_rootSearch
    | exact List.Subset.trans (by decide) hM
    | (intro _ _ _)
    | (intro _ _)
    | split
    | with_reducible refine Only.set_clk (Comp.of hM (by decide)) ?_

theorem only_takeSource {cs : List Comp} {z s : State} (hK : Only cs z s) (hM : [.regs, .clk, .free] ⊆ cs) :
    Only cs z (State.takeSource s) := by
  unfold State.takeSource
  try dsimp only
  repeat' first
    | with_reducible assumption
    | with_reducible apply only_setFlag
    | with_reducible apply only_slewTarget
    | with_reducible apply only_reacquire
    | with_reducible apply Only.useFree
    | with_reducible apply Only.ite
    | exact List.Subset.trans (by decide) hM
    | (intro _ _ _)
    | (intro _ _)
    | with_reducible refine Only.set_clk (Comp.of hM (by decide)) ?_

theorem only_rstCtrlWrite {cs : List Comp} {z s : State} (hK : Only cs z s) (m : Master) (v : Nat) (hM : [.regs, .sys] ⊆ cs) :
    Only cs z (State.rstCtrlWrite s m v) := by
  unfold State.rstCtrlWrite
  try dsimp only
  repeat' first
    | with_reducible assumption
    | with_reducible apply only_violation
    | with_reducible apply Only.ite
    | exact List.Subset.trans (by decide) hM
    | (intro _ _ _)
    | (intro _ _)
    | with_reducible refine Only.set_sys (Comp.of hM (by decide)) ?_

theorem only_softReset {cs : List Comp} {z s : State} (hK : Only cs z s) (hM : [.regs, .mem, .sys, .clk, .flash, .img, .lnk, .rng, .tim, .pwm, .gd, .dpx, .flt, .eng, .adc, .memx, .thm, .bal, .saf, .sup, .mbx, .mtr, .raises, .free] ⊆ cs) :
    Only cs z (State.softReset s) := by
  unfold State.softReset
  try dsimp only
  repeat' first
    | with_reducible assumption
    | with_reducible apply only_resetNode
    | with_reducible apply only_setFlag
    | exact List.Subset.trans (by decide) hM
    | (intro _ _ _)
    | (intro _ _)

end Sys2Proof.Machine
end

