-- ==== Sys2Proof/Laws/OnlyStation.lean ====
section
/-! SUPPORT. Laws/OnlyStation.lean: which components of the state each operation of Machine/Image.lean, Machine/StationTime.lean, Machine/Pins.lean, Machine/Collector.lean, Machine/Glaze.lean, Machine/Duplex.lean may change. -/
namespace Sys2Proof.Machine
set_option Elab.async false

theorem only_slotShow {cs : List Comp} {z s : State} (hK : Only cs z s) (i : Nat) (hM : [.regs] ⊆ cs) :
    Only cs z (State.slotShow s i) := by
  unfold State.slotShow
  try dsimp only
  repeat' first
    | with_reducible assumption
    | with_reducible apply only_put
    | exact List.Subset.trans (by decide) hM
    | (intro _ _ _)
    | (intro _ _)

theorem only_setSlotSt {cs : List Comp} {z s : State} (hK : Only cs z s) (i : Nat) (st : SlotState) (hM : [.regs, .flash] ⊆ cs) :
    Only cs z (State.setSlotSt s i st) := by
  unfold State.setSlotSt
  try dsimp only
  repeat' first
    | with_reducible assumption
    | with_reducible apply only_slotShow
    | exact List.Subset.trans (by decide) hM
    | (intro _ _ _)
    | (intro _ _)
    | with_reducible refine Only.set_flash (Comp.of hM (by decide)) ?_

theorem only_fuseKey {cs : List Comp} {z s : State} (hK : Only cs z s) (i : Nat) (d : BitVec 256) (hM : [.regs, .fuse] ⊆ cs) :
    Only cs z (State.fuseKey s i d) := by
  unfold State.fuseKey
  try dsimp only
  repeat' first
    | with_reducible assumption
    | with_reducible apply only_put
    | with_reducible apply Only.wr
    | with_reducible apply Only.forUpTo
    | exact List.Subset.trans (by decide) hM
    | (intro _ _ _)
    | (intro _ _)
    | split
    | with_reducible refine Only.set_fuse (Comp.of hM (by decide)) ?_

theorem only_unbind {cs : List Comp} {z s : State} (hK : Only cs z s) (stage : Nat) (hM : [.regs, .clk, .lnk, .tim, .pwm, .gd, .flt, .out] ⊆ cs) :
    Only cs z (State.unbind s stage) := by
  unfold State.unbind
  try dsimp only
  repeat' first
    | with_reducible assumption
    | with_reducible apply only_toStage
    | with_reducible apply only_raise
    | with_reducible apply only_lanesBoot
    | exact List.Subset.trans (by decide) hM
    | (intro _ _ _)
    | (intro _ _)

theorem only_fetchStart {cs : List Comp} {z s : State} (hK : Only cs z s) (hM : [.regs, .clk, .img, .pwm, .gd] ⊆ cs) :
    Only cs z (State.fetchStart s) := by
  unfold State.fetchStart
  try dsimp only
  repeat' first
    | with_reducible assumption
    | with_reducible apply only_toStage
    | exact List.Subset.trans (by decide) hM
    | (intro _ _ _)
    | (intro _ _)
    | with_reducible refine Only.set_img (Comp.of hM (by decide)) ?_

theorem only_loadFail {cs : List Comp} {z s : State} (hK : Only cs z s) (err sect : Nat) (hM : [.regs, .clk, .flash, .img, .lnk, .tim, .pwm, .gd, .flt, .out] ⊆ cs) :
    Only cs z (State.loadFail s err sect) := by
  unfold State.loadFail
  try dsimp only
  repeat' first
    | with_reducible assumption
    | with_reducible apply only_setSlotSt
    | with_reducible apply only_put
    | with_reducible apply only_fetchStart
    | with_reducible apply only_unbind
    | with_reducible apply Only.ite
    | exact List.Subset.trans (by decide) hM
    | (intro _ _ _)
    | (intro _ _)
    | with_reducible refine Only.set_img (Comp.of hM (by decide)) ?_

theorem only_slotSelect {cs : List Comp} {z s : State} (hK : Only cs z s) (hM : [.regs, .clk, .flash, .img, .lnk, .tim, .pwm, .gd, .flt, .out] ⊆ cs) :
    Only cs z (State.slotSelect s) := by
  unfold State.slotSelect
  try dsimp only
  repeat' first
    | with_reducible assumption
    | with_reducible apply only_setSlotSt
    | with_reducible apply only_put
    | with_reducible apply only_fetchStart
    | with_reducible apply only_unbind
    | with_reducible apply Only.ite
    | exact List.Subset.trans (by decide) hM
    | (intro _ _ _)
    | (intro _ _)
    | with_reducible refine Only.set_img (Comp.of hM (by decide)) ?_

theorem only_sramInitDone {cs : List Comp} {z s : State} (hK : Only cs z s) (chip : Option FlashChip) (hM : [.regs, .clk, .flash, .img, .lnk, .tim, .pwm, .gd, .flt, .out] ⊆ cs) :
    Only cs z (State.sramInitDone s chip) := by
  unfold State.sramInitDone
  try dsimp only
  repeat' first
    | with_reducible assumption
    | with_reducible apply only_wrN
    | with_reducible apply only_slotShow
    | with_reducible apply only_slotSelect
    | with_reducible apply Only.ite
    | exact List.Subset.trans (by decide) hM
    | (intro _ _ _)
    | (intro _ _)
    | with_reducible refine Only.set_flash (Comp.of hM (by decide)) ?_

theorem only_fetchDone {cs : List Comp} {z s : State} (hK : Only cs z s) (hM : [.regs, .mem, .clk, .pwm, .gd] ⊆ cs) :
    Only cs z (State.fetchDone s) := by
  unfold State.fetchDone
  try dsimp only
  repeat' first
    | with_reducible assumption
    | with_reducible apply only_toStage
    | with_reducible apply Only.setByte
    | with_reducible apply Only.foldlFst
    | with_reducible apply Only.foldl
    | with_reducible apply Only.iteFst
    | with_reducible apply Only.ite
    | exact List.Subset.trans (by decide) hM
    | (intro _ _ _)
    | (intro _ _)

theorem only_fetchTimeout {cs : List Comp} {z s : State} (hK : Only cs z s) (hM : [.regs, .sys, .clk, .flash, .img, .lnk, .tim, .pwm, .gd, .flt, .sup, .out] ⊆ cs) :
    Only cs z (State.fetchTimeout s) := by
  unfold State.fetchTimeout
  try dsimp only
  repeat' first
    | with_reducible assumption
    | with_reducible apply only_runAfter
    | with_reducible apply only_loadFail
    | with_reducible apply Only.when
    | exact List.Subset.trans (by decide) hM
    | (intro _ _ _)
    | (intro _ _)

theorem only_bufferZero {cs : List Comp} {z s : State} (hK : Only cs z s) (hM : [.mem] ⊆ cs) :
    Only cs z (State.bufferZero s) :=
  hK.step (m := [.mem]) (Only.intro fun c hc => by cases c <;> first | rfl | exact absurd (by decide) hc) hM

theorem only_bindRole {cs : List Comp} {z s : State} (hK : Only cs z s) (e : StationEntry) (single : Bool) (hM : [.regs] ⊆ cs) :
    Only cs z (State.bindRole s e single) := by
  unfold State.bindRole
  try dsimp only
  repeat' first
    | with_reducible assumption
    | with_reducible apply only_put
    | with_reducible apply only_setFlag
    | with_reducible apply Only.wr
    | with_reducible apply Only.foldlFst
    | with_reducible apply Only.foldl
    | with_reducible apply Only.iteFst
    | with_reducible apply Only.ite
    | exact List.Subset.trans (by decide) hM
    | (intro _ _ _)
    | (intro _ _)

theorem only_scheduleStart {cs : List Comp} {z s : State} (hK : Only cs z s) (hM : [.tim] ⊆ cs) :
    Only cs z (State.scheduleStart s) := by
  unfold State.scheduleStart
  try dsimp only
  repeat' first
    | with_reducible assumption
    | exact List.Subset.trans (by decide) hM
    | (intro _ _ _)
    | (intro _ _)
    | with_reducible refine Only.set_tim (Comp.of hM (by decide)) ?_

theorem only_blocksStart {cs : List Comp} {z s : State} (hK : Only cs z s) (hM : [.regs, .clk, .lnk, .tim, .pwm, .gd, .eng, .saf, .mtr] ⊆ cs) :
    Only cs z (State.blocksStart s) := by
  unfold State.blocksStart
  try dsimp only
  repeat' first
    | with_reducible assumption
    | with_reducible apply only_wire
    | with_reducible apply only_laneBand
    | with_reducible apply only_gdBind
    | with_reducible apply only_legRefresh
    | with_reducible apply only_put
    | with_reducible apply only_refWaitStart
    | with_reducible apply only_safBind
    | with_reducible apply only_scheduleStart
    | with_reducible apply only_wrN
    | with_reducible apply only_setFlag
    | with_reducible apply only_headroomInit
    | with_reducible apply Only.when
    | with_reducible apply Only.ite
    | exact List.Subset.trans (by decide) hM
    | (intro _ _ _)
    | (intro _ _)
    | with_reducible refine Only.set_pwm (Comp.of hM (by decide)) ?_
    | with_reducible refine Only.set_mtr (Comp.of hM (by decide)) ?_
    | (with_reducible refine Only.upd ?_ (Or.inr rfl) (Or.inr rfl) (Or.inr rfl) (Or.inr rfl) (Or.inr rfl) (Or.inr rfl) (Or.inr rfl) (Or.inr rfl) (Or.inr rfl) (Or.inl (Comp.of hM (by decide))) (Or.inr rfl) (Or.inr rfl) (Or.inr rfl) (Or.inr rfl) (Or.inr rfl) (Or.inr rfl) (Or.inr rfl) (Or.inr rfl) (Or.inr rfl) (Or.inr rfl) (Or.inr rfl) (Or.inl (Comp.of hM (by decide))) (Or.inr rfl))

theorem only_bootedImage {cs : List Comp} {z s : State} (hK : Only cs z s) (img : ImageRead) (hM : [.regs] ⊆ cs) :
    Only cs z (State.bootedImage s img) := by
  unfold State.bootedImage
  try dsimp only
  repeat' first
    | with_reducible assumption
    | with_reducible apply only_put
    | with_reducible apply only_wrN
    | with_reducible apply Only.wr
    | exact List.Subset.trans (by decide) hM
    | (intro _ _ _)
    | (intro _ _)

theorem only_bind {cs : List Comp} {z s : State} (hK : Only cs z s) (st : StationRead) (hM : [.regs, .clk, .flash, .img, .lnk, .tim, .pwm, .gd, .flt, .eng, .saf, .mtr, .out] ⊆ cs) :
    Only cs z (State.bind s st) := by
  unfold State.bind
  extract_lets img src s1
  have h1 : Only cs z s1 := Only.set_img (Comp.of hM (by decide)) hK
  refine Only.ite (only_loadFail hK _ _ (List.Subset.trans (by decide) hM)) ?_
  split
  · repeat' first
      | with_reducible assumption
      | with_reducible apply only_unbind
      | with_reducible apply only_put
      | with_reducible apply only_laneBand
      | with_reducible apply only_wire
      | with_reducible apply only_bootedImage
      | exact List.Subset.trans (by decide) hM
  · split
    · exact only_loadFail hK _ _ (List.Subset.trans (by decide) hM)
    · next t h =>
      have ht := onlyO_loadImage (only_bindRole h1 _ _ (List.Subset.trans (by decide) hM)) _
        (List.Subset.trans (by decide) hM) t h
      repeat' first
        | with_reducible assumption
        | with_reducible apply only_toStage
        | with_reducible apply only_blocksStart
        | with_reducible apply only_bootedImage
        | exact List.Subset.trans (by decide) hM

theorem only_verifyDone {cs : List Comp} {z s : State} (hK : Only cs z s) (st : StationRead) (hM : [.regs, .clk, .flash, .img, .lnk, .tim, .pwm, .gd, .flt, .eng, .saf, .mtr, .out] ⊆ cs) :
    Only cs z (State.verifyDone s st) := by
  unfold State.verifyDone
  try dsimp only
  repeat' first
    | with_reducible assumption
    | with_reducible apply only_loadFail
    | with_reducible apply only_bind
    | with_reducible apply Only.ite
    | exact List.Subset.trans (by decide) hM
    | (intro _ _ _)
    | (intro _ _)
    | split

theorem only_bootLock {cs : List Comp} {z s : State} (hK : Only cs z s) (hM : [.regs, .mem, .sys, .clk, .lnk, .tim, .pwm, .gd, .flt, .out] ⊆ cs) :
    Only cs z (State.bootLock s) := by
  unfold State.bootLock
  try dsimp only
  repeat' first
    | with_reducible assumption
    | with_reducible apply only_bufferZero
    | with_reducible apply only_toStage
    | with_reducible apply only_lanesBoot
    | with_reducible apply Only.ite
    | exact List.Subset.trans (by decide) hM
    | (intro _ _ _)
    | (intro _ _)
    | with_reducible refine Only.set_sys (Comp.of hM (by decide)) ?_

theorem only_provWrite {cs : List Comp} {z s : State} (hK : Only cs z s) (m : Master) (v : Word) (hM : [.regs, .fuse] ⊆ cs) :
    Only cs z (State.provWrite s m v) := by
  unfold State.provWrite
  try dsimp only
  repeat' first
    | with_reducible assumption
    | with_reducible apply only_violation
    | with_reducible apply only_setFlag
    | with_reducible apply only_fuseKey
    | with_reducible apply Only.ite
    | exact List.Subset.trans (by decide) hM
    | (intro _ _ _)
    | (intro _ _)

theorem only_trialFail {cs : List Comp} {z s : State} (hK : Only cs z s) (err : Nat) (hM : [.regs, .mem, .sys, .clk, .flash, .img, .lnk, .rng, .tim, .pwm, .gd, .dpx, .flt, .eng, .adc, .memx, .thm, .bal, .saf, .sup, .mbx, .mtr, .raises, .free] ⊆ cs) :
    Only cs z (State.trialFail s err) := by
  unfold State.trialFail
  try dsimp only
  repeat' first
    | with_reducible assumption
    | with_reducible apply only_setSlotSt
    | with_reducible apply only_put
    | with_reducible apply only_softReset
    | exact List.Subset.trans (by decide) hM
    | (intro _ _ _)
    | (intro _ _)

theorem only_trialPass_pass {cs : List Comp} {z s : State} (hK : Only cs z s) (img : ImageRead) (hM : [.regs] ⊆ cs) :
    Only cs z (State.trialPass.pass img s) := by
  unfold State.trialPass.pass
  exact Only.ite (only_put hK _ _ hM) hK

theorem only_trialPass {cs : List Comp} {z s : State} (hK : Only cs z s) (hM : [.regs, .flash, .fuse, .img] ⊆ cs) :
    Only cs z (State.trialPass s) := by
  unfold State.trialPass
  dsimp only
  refine Only.ite hK ?_
  split
  all_goals repeat' first
    | with_reducible assumption
    | with_reducible apply only_fuseKey
    | with_reducible apply only_put
    | with_reducible apply only_trialPass_pass
    | with_reducible apply only_setSlotSt
    | exact List.Subset.trans (by decide) hM

theorem only_trialTimeout {cs : List Comp} {z s : State} (hK : Only cs z s) (hM : [.regs, .mem, .sys, .clk, .flash, .img, .lnk, .rng, .tim, .pwm, .gd, .dpx, .flt, .eng, .adc, .memx, .thm, .bal, .saf, .sup, .mbx, .mtr, .raises, .out, .free] ⊆ cs) :
    Only cs z (State.trialTimeout s) := by
  unfold State.trialTimeout
  try dsimp only
  repeat' first
    | with_reducible assumption
    | with_reducible apply only_runUp
    | with_reducible apply only_trialFail
    | with_reducible apply Only.when
    | exact List.Subset.trans (by decide) hM
    | (intro _ _ _)
    | (intro _ _)

theorem only_updCmd {cs : List Comp} {z s : State} (hK : Only cs z s) (m : Master) (abort : Bool) {f : State → State}
    (hf : ∀ b, Only cs z b → Only cs z (f b)) (hM : [.regs] ⊆ cs) : Only cs z (State.updCmd s m abort f) := by
  unfold State.updCmd
  exact Only.ite (only_violation hK _ _ _ hM) (Only.ite (only_put hK _ _ hM) (hf s hK))

theorem only_updStart {cs : List Comp} {z s : State} (hK : Only cs z s) (c : UpdCmd) (hM : [.regs, .img] ⊆ cs) :
    Only cs z (State.updStart s c) := by
  unfold State.updStart
  try dsimp only
  repeat' first
    | with_reducible assumption
    | with_reducible apply only_put
    | with_reducible apply only_setFlag
    | exact List.Subset.trans (by decide) hM
    | (intro _ _ _)
    | (intro _ _)
    | with_reducible refine Only.set_img (Comp.of hM (by decide)) ?_

theorem only_updEnd {cs : List Comp} {z s : State} (hK : Only cs z s) (err : Nat) (verified : Bool) (hM : [.regs, .img] ⊆ cs) :
    Only cs z (State.updEnd s err verified) := by
  unfold State.updEnd
  try dsimp only
  repeat' first
    | with_reducible assumption
    | with_reducible apply only_put
    | with_reducible apply only_setFlag
    | exact List.Subset.trans (by decide) hM
    | (intro _ _ _)
    | (intro _ _)
    | with_reducible refine Only.set_img (Comp.of hM (by decide)) ?_

theorem only_updErase {cs : List Comp} {z s : State} (hK : Only cs z s) (hM : [.regs, .flash, .img] ⊆ cs) :
    Only cs z (State.updErase s) := by
  unfold State.updErase
  try dsimp only
  repeat' first
    | with_reducible assumption
    | with_reducible apply only_slotShow
    | with_reducible apply only_updStart
    | exact List.Subset.trans (by decide) hM
    | (intro _ _ _)
    | (intro _ _)
    | with_reducible refine Only.set_flash (Comp.of hM (by decide)) ?_

theorem only_updProgram {cs : List Comp} {z s : State} (hK : Only cs z s) (hM : [.regs, .flash, .img] ⊆ cs) :
    Only cs z (State.updProgram s) := by
  unfold State.updProgram
  try dsimp only
  repeat' first
    | with_reducible assumption
    | with_reducible apply only_setSlotSt
    | with_reducible apply only_updStart
    | with_reducible apply only_put
    | with_reducible apply only_setFlag
    | with_reducible apply Only.when
    | with_reducible apply Only.ite
    | exact List.Subset.trans (by decide) hM
    | (intro _ _ _)
    | (intro _ _)

theorem only_updArm {cs : List Comp} {z s : State} (hK : Only cs z s) (hM : [.regs, .flash, .img] ⊆ cs) :
    Only cs z (State.updArm s) := by
  unfold State.updArm
  try dsimp only
  repeat' first
    | with_reducible assumption
    | with_reducible apply only_setSlotSt
    | with_reducible apply only_updEnd
    | with_reducible apply only_put
    | with_reducible apply only_setFlag
    | with_reducible apply Only.ite
    | exact List.Subset.trans (by decide) hM
    | (intro _ _ _)
    | (intro _ _)

theorem only_updAbort {cs : List Comp} {z s : State} (hK : Only cs z s) (hM : [.regs, .flash, .img, .free] ⊆ cs) :
    Only cs z (State.updAbort s) := by
  unfold State.updAbort
  try dsimp only
  repeat' first
    | with_reducible assumption
    | with_reducible apply only_updStop
    | with_reducible apply only_setFlag
    | with_reducible apply Only.when
    | exact List.Subset.trans (by decide) hM
    | (intro _ _ _)
    | (intro _ _)

theorem only_updDone {cs : List Comp} {z s : State} (hK : Only cs z s) (flashErr bufferBad : Bool) (hM : [.regs, .flash, .img, .free] ⊆ cs) :
    Only cs z (State.updDone s flashErr bufferBad) := by
  unfold State.updDone
  try dsimp only
  repeat' first
    | with_reducible assumption
    | with_reducible apply only_updStop
    | with_reducible apply only_updEnd
    | with_reducible apply only_updPart
    | with_reducible apply only_slotShow
    | with_reducible apply Only.ite
    | exact List.Subset.trans (by decide) hM
    | (intro _ _ _)
    | (intro _ _)
    | split

theorem only_eligRefresh {cs : List Comp} {z s : State} (hK : Only cs z s) (hM : [.regs] ⊆ cs) :
    Only cs z (State.eligRefresh s) := by
  unfold State.eligRefresh
  try dsimp only
  repeat' first
    | with_reducible assumption
    | with_reducible apply only_setFlag
    | exact List.Subset.trans (by decide) hM
    | (intro _ _ _)
    | (intro _ _)

theorem only_setServo {cs : List Comp} {z s : State} (hK : Only cs z s) (st : Nat) (hM : [.regs, .flash, .fuse, .img, .tim] ⊆ cs) :
    Only cs z (State.setServo s st) := by
  unfold State.setServo
  try dsimp only
  repeat' first
    | with_reducible assumption
    | with_reducible apply only_put
    | with_reducible apply only_eligRefresh
    | with_reducible apply only_trialPass
    | with_reducible apply Only.ite
    | exact List.Subset.trans (by decide) hM
    | (intro _ _ _)
    | (intro _ _)
    | with_reducible refine Only.set_tim (Comp.of hM (by decide)) ?_

theorem only_yShow {cs : List Comp} {z s : State} (hK : Only cs z s) (hM : [.regs] ⊆ cs) :
    Only cs z (State.yShow s) := by
  unfold State.yShow
  try dsimp only
  repeat' first
    | with_reducible assumption
    | with_reducible apply only_wrN
    | with_reducible apply only_setFlag
    | exact List.Subset.trans (by decide) hM
    | (intro _ _ _)
    | (intro _ _)

theorem only_setY {cs : List Comp} {z s : State} (hK : Only cs z s) (yP yI : Frac) (hM : [.regs, .clk, .tim] ⊆ cs) :
    Only cs z (State.setY s yP yI) := by
  unfold State.setY
  try dsimp only
  repeat' first
    | with_reducible assumption
    | with_reducible apply only_yShow
    | with_reducible apply only_slewTarget
    | exact List.Subset.trans (by decide) hM
    | (intro _ _ _)
    | (intro _ _)
    | with_reducible refine Only.set_tim (Comp.of hM (by decide)) ?_

theorem only_takeHost {cs : List Comp} {z s : State} (hK : Only cs z s) (hM : [.regs, .flash, .fuse, .img, .tim] ⊆ cs) :
    Only cs z (State.takeHost s) := by
  unfold State.takeHost
  try dsimp only
  repeat' first
    | with_reducible assumption
    | with_reducible apply only_setFlag
    | with_reducible apply only_setChain
    | with_reducible apply only_wrN
    | with_reducible apply only_setServo
    | exact List.Subset.trans (by decide) hM
    | (intro _ _ _)
    | (intro _ _)
    | with_reducible refine Only.set_tim (Comp.of hM (by decide)) ?_

theorem only_sourceLoss {cs : List Comp} {z s : State} (hK : Only cs z s) (hM : [.regs, .clk, .flash, .fuse, .img, .tim, .pwm, .gd, .flt, .out] ⊆ cs) :
    Only cs z (State.sourceLoss s) := by
  unfold State.sourceLoss
  try dsimp only
  repeat' first
    | with_reducible assumption
    | with_reducible apply only_selectUp
    | with_reducible apply only_setY
    | with_reducible apply only_setServo
    | with_reducible apply only_raise
    | with_reducible apply Only.when
    | with_reducible apply Only.ite
    | exact List.Subset.trans (by decide) hM
    | (intro _ _ _)
    | (intro _ _)

theorem only_holdLimit {cs : List Comp} {z s : State} (hK : Only cs z s) (hM : [.regs, .sys, .clk, .lnk, .tim, .pwm, .gd, .flt, .bal, .sup, .out] ⊆ cs) :
    Only cs z (State.holdLimit s) := by
  unfold State.holdLimit
  try dsimp only
  repeat' first
    | with_reducible assumption
    | with_reducible apply only_runUp
    | with_reducible apply only_raise
    | with_reducible apply only_leaveService
    | with_reducible apply Only.ite
    | exact List.Subset.trans (by decide) hM
    | (intro _ _ _)
    | (intro _ _)

theorem only_crossCheck {cs : List Comp} {z s : State} (hK : Only cs z s) (hM : [.regs, .clk, .tim, .pwm, .gd, .flt, .out] ⊆ cs) :
    Only cs z (State.crossCheck s) := by
  unfold State.crossCheck
  try dsimp only
  repeat' first
    | with_reducible assumption
    | with_reducible apply only_setFlag
    | with_reducible apply only_raise
    | with_reducible apply Only.ite
    | exact List.Subset.trans (by decide) hM
    | (intro _ _ _)
    | (intro _ _)

theorem only_hostTimeout {cs : List Comp} {z s : State} (hK : Only cs z s) (hM : [.regs, .sys, .clk, .tim, .pwm, .gd, .flt, .sup, .out] ⊆ cs) :
    Only cs z (State.hostTimeout s) := by
  unfold State.hostTimeout
  try dsimp only
  repeat' first
    | with_reducible assumption
    | with_reducible apply only_runUp
    | with_reducible apply only_setY
    | with_reducible apply only_setFlag
    | with_reducible apply only_raise
    | with_reducible apply Only.ite
    | exact List.Subset.trans (by decide) hM
    | (intro _ _ _)
    | (intro _ _)

theorem only_hostBack {cs : List Comp} {z s : State} (hK : Only cs z s) (hM : [.regs, .pwm, .gd, .flt] ⊆ cs) :
    Only cs z (State.hostBack s) := by
  unfold State.hostBack
  try dsimp only
  repeat' first
    | with_reducible assumption
    | with_reducible apply only_setFlag
    | with_reducible apply only_endCause
    | with_reducible apply Only.ite
    | exact List.Subset.trans (by decide) hM
    | (intro _ _ _)
    | (intro _ _)

theorem only_tpoMissed {cs : List Comp} {z s : State} (hK : Only cs z s) (n : Nat) (hM : [.regs, .clk, .tim, .pwm, .gd, .flt, .out] ⊆ cs) :
    Only cs z (State.tpoMissed s n) := by
  unfold State.tpoMissed
  try dsimp only
  repeat' first
    | with_reducible assumption
    | with_reducible apply only_setFlag
    | with_reducible apply only_raise
    | exact List.Subset.trans (by decide) hM
    | (intro _ _ _)
    | (intro _ _)

theorem only_tpoPlan {cs : List Comp} {z s : State} (hK : Only cs z s) (n : Nat) (fresh mark : Bool) (hM : [.regs, .clk, .tim, .pwm, .gd, .flt, .out] ⊆ cs) :
    Only cs z (State.tpoPlan s n fresh mark) := by
  unfold State.tpoPlan
  try dsimp only
  repeat' first
    | with_reducible assumption
    | with_reducible apply only_setFlag
    | with_reducible apply only_setTpo
    | with_reducible apply only_tpoMissed
    | with_reducible apply Only.when
    | with_reducible apply Only.ite
    | exact List.Subset.trans (by decide) hM
    | (intro _ _ _)
    | (intro _ _)

theorem only_tpoTakeWaiting {cs : List Comp} {z s : State} (hK : Only cs z s) (n : Nat) (hM : [.regs, .tim] ⊆ cs) :
    Only cs z (State.tpoTakeWaiting s n) := by
  unfold State.tpoTakeWaiting
  try dsimp only
  repeat' first
    | with_reducible assumption
    | with_reducible apply only_setTpo
    | with_reducible apply Only.wr
    | with_reducible apply Only.foldlFst
    | with_reducible apply Only.foldl
    | exact List.Subset.trans (by decide) hM
    | (intro _ _ _)
    | (intro _ _)

theorem only_tpoCtrl {cs : List Comp} {z s : State} (hK : Only cs z s) (n : Nat) (v : Word) (hM : [.regs, .clk, .tim, .pwm, .gd, .flt, .out] ⊆ cs) :
    Only cs z (State.tpoCtrl s n v) := by
  unfold State.tpoCtrl
  try dsimp only
  repeat' first
    | with_reducible assumption
    | with_reducible apply only_setFlag
    | with_reducible apply only_tpoPlan
    | with_reducible apply only_setTpo
    | with_reducible apply only_tpoTakeWaiting
    | with_reducible apply Only.when
    | with_reducible apply Only.ite
    | exact List.Subset.trans (by decide) hM
    | (intro _ _ _)
    | (intro _ _)

theorem only_tpoConfig {cs : List Comp} {z s : State} (hK : Only cs z s) (n : Nat) (reg : TpoReg) (v : Word) (hM : [.regs, .clk, .tim, .pwm, .gd, .flt, .out] ⊆ cs) :
    Only cs z (State.tpoConfig s n reg v) := by
  unfold State.tpoConfig
  try dsimp only
  repeat' first
    | with_reducible assumption
    | with_reducible apply only_setTpo
    | with_reducible apply only_tpoPlan
    | with_reducible apply only_setFlag
    | with_reducible apply Only.wr
    | with_reducible apply Only.when
    | with_reducible apply Only.ite
    | exact List.Subset.trans (by decide) hM
    | (intro _ _ _)
    | (intro _ _)

theorem only_tpoEdge {cs : List Comp} {z s : State} (hK : Only cs z s) (n : Nat) (hM : [.regs, .sys, .clk, .tim, .pwm, .gd, .flt, .sup, .out] ⊆ cs) :
    Only cs z (State.tpoEdge s n) := by
  unfold State.tpoEdge
  try dsimp only
  repeat' first
    | with_reducible assumption
    | with_reducible apply only_runAhead
    | with_reducible apply only_setTpo
    | with_reducible apply Only.ite
    | exact List.Subset.trans (by decide) hM
    | (intro _ _ _)
    | (intro _ _)
    | split

theorem only_tpoPulseEnd {cs : List Comp} {z s : State} (hK : Only cs z s) (n : Nat) (hM : [.regs, .sys, .clk, .tim, .pwm, .gd, .flt, .sup, .out] ⊆ cs) :
    Only cs z (State.tpoPulseEnd s n) := by
  unfold State.tpoPulseEnd
  try dsimp only
  repeat' first
    | with_reducible assumption
    | with_reducible apply only_runAhead
    | with_reducible apply only_setTpo
    | with_reducible apply only_tpoTakeWaiting
    | with_reducible apply only_tpoPlan
    | with_reducible apply Only.when
    | with_reducible apply Only.iteFst
    | with_reducible apply Only.ite
    | exact List.Subset.trans (by decide) hM
    | (intro _ _ _)
    | (intro _ _)

theorem only_tpoStep {cs : List Comp} {z s : State} (hK : Only cs z s) (hM : [.regs, .clk, .tim, .pwm, .gd, .flt, .out] ⊆ cs) :
    Only cs z (State.tpoStep s) := by
  unfold State.tpoStep
  try dsimp only
  repeat' first
    | with_reducible assumption
    | with_reducible apply only_tpoMissed
    | with_reducible apply only_setTpo
    | with_reducible apply Only.forUpTo
    | with_reducible apply Only.ite
    | exact List.Subset.trans (by decide) hM
    | (intro _ _ _)
    | (intro _ _)
    | split

theorem only_tpiEdge {cs : List Comp} {z s : State} (hK : Only cs z s) (rising : Bool) (before after : Nat) (hM : [.regs] ⊆ cs) :
    Only cs z (State.tpiEdge s rising before after) := by
  unfold State.tpiEdge
  try dsimp only
  repeat' first
    | with_reducible assumption
    | with_reducible apply only_setFlag
    | with_reducible apply only_wrN
    | with_reducible apply only_put
    | with_reducible apply Only.ite
    | exact List.Subset.trans (by decide) hM
    | (intro _ _ _)
    | (intro _ _)

theorem only_recordClosed {cs : List Comp} {z s : State} (hK : Only cs z s) (num : Nat) (hM : [.regs, .vault, .clk, .rng, .tim, .pwm, .gd, .flt, .sup, .out] ⊆ cs) :
    Only cs z (State.recordClosed s num) := by
  unfold State.recordClosed
  try dsimp only
  repeat' first
    | with_reducible assumption
    | with_reducible apply only_logEvent
    | with_reducible apply only_reportRecord
    | with_reducible apply Only.when
    | exact List.Subset.trans (by decide) hM
    | (intro _ _ _)
    | (intro _ _)

theorem only_recordClose {cs : List Comp} {z s : State} (hK : Only cs z s) (hM : [.regs, .sys, .vault, .clk, .rng, .tim, .pwm, .gd, .flt, .sup, .out] ⊆ cs) :
    Only cs z (State.recordClose s) := by
  unfold State.recordClose
  try dsimp only
  repeat' first
    | with_reducible assumption
    | with_reducible apply only_runUp
    | with_reducible apply only_mergeEnd
    | with_reducible apply only_recordClosed
    | with_reducible apply Only.foldlFst
    | with_reducible apply Only.foldl
    | exact List.Subset.trans (by decide) hM
    | (intro _ _ _)
    | (intro _ _)
    | split
    | with_reducible refine Only.set_flt (Comp.of hM (by decide)) ?_

theorem only_setPair {cs : List Comp} {z s : State} (hK : Only cs z s) (code inst : Nat) (v : Option Bool) (hM : [.flt] ⊆ cs) :
    Only cs z (State.setPair s code inst v) := by
  unfold State.setPair
  try dsimp only
  repeat' first
    | with_reducible assumption
    | exact List.Subset.trans (by decide) hM
    | (intro _ _ _)
    | (intro _ _)
    | split
    | with_reducible refine Only.set_flt (Comp.of hM (by decide)) ?_

theorem only_pairFault {cs : List Comp} {z s : State} (hK : Only cs z s) (r : RaiseIn) (back : Bool) (hM : [.regs, .clk, .tim, .pwm, .gd, .flt, .out] ⊆ cs) :
    Only cs z (State.pairFault s r back) := by
  unfold State.pairFault
  try dsimp only
  repeat' first
    | with_reducible assumption
    | with_reducible apply only_setPair
    | with_reducible apply only_endCause
    | with_reducible apply only_raise
    | with_reducible apply Only.when
    | with_reducible apply Only.ite
    | exact List.Subset.trans (by decide) hM
    | (intro _ _ _)
    | (intro _ _)
    | split

theorem only_pairBroken {cs : List Comp} {z s : State} (hK : Only cs z s) (r : RaiseIn) (back : Bool) (hM : [.regs, .sys, .clk, .tim, .pwm, .gd, .flt, .sup, .out] ⊆ cs) :
    Only cs z (State.pairBroken s r back) := by
  unfold State.pairBroken
  try dsimp only
  repeat' first
    | with_reducible assumption
    | with_reducible apply only_runUp
    | with_reducible apply only_setPair
    | with_reducible apply only_endCause
    | with_reducible apply only_raise
    | with_reducible apply Only.ite
    | exact List.Subset.trans (by decide) hM
    | (intro _ _ _)
    | (intro _ _)
    | split

theorem only_clrDone {cs : List Comp} {z s : State} (hK : Only cs z s) (err : Nat) (hM : [.regs] ⊆ cs) :
    Only cs z (State.clrDone s err) := by
  unfold State.clrDone
  try dsimp only
  repeat' first
    | with_reducible assumption
    | with_reducible apply only_put
    | with_reducible apply only_setFlag
    | with_reducible apply Only.when
    | with_reducible apply Only.ite
    | exact List.Subset.trans (by decide) hM
    | (intro _ _ _)
    | (intro _ _)

theorem only_fc3Cleared {cs : List Comp} {z s : State} (hK : Only cs z s) (hM : [.regs, .clk, .flash, .fuse, .img, .lnk, .tim, .pwm, .gd, .bal, .out] ⊆ cs) :
    Only cs z (State.fc3Cleared s) := by
  unfold State.fc3Cleared
  try dsimp only
  repeat' first
    | with_reducible assumption
    | with_reducible apply only_leaveService
    | with_reducible apply only_put
    | with_reducible apply only_takeHost
    | with_reducible apply Only.when
    | with_reducible apply Only.ite
    | exact List.Subset.trans (by decide) hM
    | (intro _ _ _)
    | (intro _ _)

theorem only_recordClear {cs : List Comp} {z s : State} (hK : Only cs z s) (num : Nat) (hM : [.regs, .clk, .flash, .fuse, .img, .lnk, .rng, .tim, .pwm, .gd, .flt, .bal, .sup, .out] ⊆ cs) :
    Only cs z (State.recordClear s num) := by
  unfold State.recordClear
  try dsimp only
  repeat' first
    | with_reducible assumption
    | with_reducible apply only_clrDone
    | with_reducible apply only_setFlag
    | with_reducible apply only_fltRefresh
    | with_reducible apply only_gdEscalRefresh
    | with_reducible apply only_reportRecord
    | with_reducible apply only_fc3Cleared
    | with_reducible apply Only.when
    | with_reducible apply Only.ite
    | exact List.Subset.trans (by decide) hM
    | (intro _ _ _)
    | (intro _ _)
    | with_reducible refine Only.set_flt (Comp.of hM (by decide)) ?_

theorem only_stationClear {cs : List Comp} {z s : State} (hK : Only cs z s) (hM : [.regs, .flt] ⊆ cs) :
    Only cs z (State.stationClear s) := by
  unfold State.stationClear
  try dsimp only
  repeat' first
    | with_reducible assumption
    | with_reducible apply only_clrDone
    | with_reducible apply only_setFlag
    | with_reducible apply only_put
    | with_reducible apply Only.ite
    | exact List.Subset.trans (by decide) hM
    | (intro _ _ _)
    | (intro _ _)
    | with_reducible refine Only.set_flt (Comp.of hM (by decide)) ?_

theorem only_fltiChange {cs : List Comp} {z s : State} (hK : Only cs z s) (l : FltiLevel) (hM : [.regs, .clk, .tim, .pwm, .gd, .flt, .out] ⊆ cs) :
    Only cs z (State.fltiChange s l) := by
  unfold State.fltiChange
  try dsimp only
  repeat' first
    | with_reducible assumption
    | with_reducible apply only_endCause
    | with_reducible apply only_put
    | with_reducible apply only_raise
    | with_reducible apply Only.when
    | with_reducible apply Only.ite
    | exact List.Subset.trans (by decide) hM
    | (intro _ _ _)
    | (intro _ _)
    | split

theorem only_ledTo {cs : List Comp} {z s : State} (hK : Only cs z s) (e st cause : Nat) (hM : [.regs] ⊆ cs) :
    Only cs z (State.ledTo s e st cause) := by
  unfold State.ledTo
  try dsimp only
  repeat' first
    | with_reducible assumption
    | with_reducible apply only_put
    | with_reducible apply Only.wr
    | exact List.Subset.trans (by decide) hM
    | (intro _ _ _)
    | (intro _ _)

theorem only_batchFault {cs : List Comp} {z s : State} (hK : Only cs z s) (code : Nat) (id : Word) (hM : [.regs, .clk, .tim, .pwm, .gd, .flt, .out] ⊆ cs) :
    Only cs z (State.batchFault s code id) := by
  unfold State.batchFault
  try dsimp only
  repeat' first
    | with_reducible assumption
    | with_reducible apply only_raise
    | exact List.Subset.trans (by decide) hM
    | (intro _ _ _)
    | (intro _ _)

theorem only_sendOutcome {cs : List Comp} {z s : State} (hK : Only cs z s) (e : Nat) (hM : [.rng] ⊆ cs) :
    Only cs z (State.sendOutcome s e) := by
  unfold State.sendOutcome
  try dsimp only
  repeat' first
    | with_reducible assumption
    | with_reducible apply only_bulkSend
    | with_reducible apply Only.ite
    | exact List.Subset.trans (by decide) hM
    | (intro _ _ _)
    | (intro _ _)

theorem only_ledAbort {cs : List Comp} {z s : State} (hK : Only cs z s) (e cause : Nat) (hM : [.regs, .rng, .raises] ⊆ cs) :
    Only cs z (State.ledAbort s e cause) := by
  unfold State.ledAbort
  try dsimp only
  repeat' first
    | with_reducible assumption
    | with_reducible apply only_ledTo
    | with_reducible apply only_sendOutcome
    | with_reducible apply only_raiseLater
    | with_reducible apply Only.ite
    | exact List.Subset.trans (by decide) hM
    | (intro _ _ _)
    | (intro _ _)

theorem only_ledNew {cs : List Comp} {z s : State} (hK : Only cs z s) (e : Nat) (id c : Word) (count : Nat) (dist : Bool) (targets : Nat) (hM : [.regs, .flt] ⊆ cs) :
    Only cs z (State.ledNew s e id c count dist targets) := by
  unfold State.ledNew
  try dsimp only
  repeat' first
    | with_reducible assumption
    | with_reducible apply only_wrN
    | with_reducible apply Only.wr
    | with_reducible apply Only.forUpTo
    | exact List.Subset.trans (by decide) hM
    | (intro _ _ _)
    | (intro _ _)
    | with_reducible refine Only.set_flt (Comp.of hM (by decide)) ?_

theorem only_ledItems {cs : List Comp} {z s : State} (hK : Only cs z s) (e : Nat) (items : List (Word × Word)) (hM : [.regs, .flt] ⊆ cs) :
    Only cs z (State.ledItems s e items) := by
  unfold State.ledItems
  try dsimp only
  repeat' first
    | with_reducible assumption
    | with_reducible apply only_put
    | with_reducible apply only_ledTo
    | with_reducible apply Only.ite
    | exact List.Subset.trans (by decide) hM
    | (intro _ _ _)
    | (intro _ _)
    | with_reducible refine Only.set_flt (Comp.of hM (by decide)) ?_

theorem only_batchStage {cs : List Comp} {z s : State} (hK : Only cs z s) (id c : Word) (count : Nat) (items : List (Word × Word)) (hM : [.regs, .clk, .rng, .tim, .pwm, .gd, .flt, .raises, .out] ⊆ cs) :
    Only cs z (State.batchStage s id c count items) := by
  unfold State.batchStage
  try dsimp only
  repeat' first
    | with_reducible assumption
    | with_reducible apply only_ledItems
    | with_reducible apply only_batchFault
    | with_reducible apply only_ledNew
    | with_reducible apply only_ledAbort
    | with_reducible apply only_raiseDue
    | with_reducible apply Only.ite
    | exact List.Subset.trans (by decide) hM
    | (intro _ _ _)
    | (intro _ _)
    | split

theorem only_batchCancel {cs : List Comp} {z s : State} (hK : Only cs z s) (id : Word) (dist : Bool) (hM : [.regs, .clk, .rng, .tim, .pwm, .gd, .flt, .raises, .out] ⊆ cs) :
    Only cs z (State.batchCancel s id dist) := by
  unfold State.batchCancel
  try dsimp only
  repeat' first
    | with_reducible assumption
    | with_reducible apply only_ledAbort
    | with_reducible apply only_raiseDue
    | with_reducible apply Only.foldlFst
    | with_reducible apply Only.foldl
    | with_reducible apply Only.when
    | exact List.Subset.trans (by decide) hM
    | (intro _ _ _)
    | (intro _ _)

theorem only_distAck {cs : List Comp} {z s : State} (hK : Only cs z s) (id : Word) (hM : [.regs] ⊆ cs) :
    Only cs z (State.distAck s id) := by
  unfold State.distAck
  try dsimp only
  repeat' first
    | with_reducible assumption
    | with_reducible apply only_put
    | with_reducible apply only_ledTo
    | with_reducible apply Only.foldlFst
    | with_reducible apply Only.foldl
    | with_reducible apply Only.ite
    | exact List.Subset.trans (by decide) hM
    | (intro _ _ _)
    | (intro _ _)
    | split

theorem only_batchBoundary {cs : List Comp} {z s : State} (hK : Only cs z s) (hM : [.regs, .rng, .flt, .raises] ⊆ cs) :
    Only cs z (State.batchBoundary s) := by
  unfold State.batchBoundary
  try dsimp only
  repeat' first
    | with_reducible assumption
    | with_reducible apply only_ledAbort
    | with_reducible apply only_ledTo
    | with_reducible apply Only.foldlFst
    | with_reducible apply Only.foldl
    | with_reducible apply Only.ite
    | exact List.Subset.trans (by decide) hM
    | (intro _ _ _)
    | (intro _ _)
    | with_reducible refine Only.set_flt (Comp.of hM (by decide)) ?_

theorem only_glazeSend {cs : List Comp} {z s : State} (hK : Only cs z s) (hM : [.dpx, .out, .free] ⊆ cs) :
    Only cs z (State.glazeSend s) := by
  unfold State.glazeSend
  try dsimp only
  repeat' first
    | with_reducible assumption
    | with_reducible apply only_sendLine
    | with_reducible apply Only.foldlFst
    | with_reducible apply Only.foldl
    | with_reducible apply Only.iteFst
    | with_reducible apply Only.ite
    | exact List.Subset.trans (by decide) hM
    | (intro _ _ _)
    | (intro _ _)
    | with_reducible refine Only.set_dpx (Comp.of hM (by decide)) ?_

theorem only_proof {cs : List Comp} {z s : State} (hK : Only cs z s) (g : List Byte) (hM : [.regs, .clk, .tim, .pwm, .gd, .dpx, .flt, .out] ⊆ cs) :
    Only cs z (State.proof s g) := by
  unfold State.proof
  try dsimp only
  repeat' first
    | with_reducible assumption
    | with_reducible apply only_bumpReg
    | with_reducible apply only_wrN
    | with_reducible apply only_setFlag
    | with_reducible apply only_raise
    | with_reducible apply Only.wr
    | with_reducible apply Only.when
    | with_reducible apply Only.ite
    | exact List.Subset.trans (by decide) hM
    | (intro _ _ _)
    | (intro _ _)
    | split
    | with_reducible refine Only.set_dpx (Comp.of hM (by decide)) ?_

theorem only_glazeReceived {cs : List Comp} {z s : State} (hK : Only cs z s) (a : Arrival) (hM : [.regs, .clk, .tim, .pwm, .gd, .dpx, .flt, .out] ⊆ cs) :
    Only cs z (State.glazeReceived s a) := by
  unfold State.glazeReceived
  try dsimp only
  repeat' first
    | with_reducible assumption
    | with_reducible apply only_proof
    | with_reducible apply only_put
    | with_reducible apply only_setFlag
    | with_reducible apply only_eligRefresh
    | with_reducible apply Only.when
    | with_reducible apply Only.ite
    | exact List.Subset.trans (by decide) hM
    | (intro _ _ _)
    | (intro _ _)
    | split
    | with_reducible refine Only.set_dpx (Comp.of hM (by decide)) ?_

theorem only_wrAll {cs : List Comp} {z s : State} (hK : Only cs z s) (a : Nat → Nat) (l : List Word) (hM : [.regs] ⊆ cs) :
    Only cs z (State.wrAll s a l) := by
  unfold State.wrAll
  try dsimp only
  repeat' first
    | with_reducible assumption
    | with_reducible apply Only.wr
    | with_reducible apply Only.foldlFst
    | with_reducible apply Only.foldl
    | exact List.Subset.trans (by decide) hM
    | (intro _ _ _)
    | (intro _ _)

theorem only_takeStack {cs : List Comp} {z s : State} (hK : Only cs z s) (g : List Byte) (k : Nat) (hM : [.regs, .bal] ⊆ cs) :
    Only cs z (State.takeStack s g k) := by
  unfold State.takeStack
  try dsimp only
  repeat' first
    | with_reducible assumption
    | with_reducible apply only_setBalStk
    | with_reducible apply only_setBalCell
    | with_reducible apply Only.wr
    | with_reducible apply Only.forUpTo
    | with_reducible apply Only.ite
    | exact List.Subset.trans (by decide) hM
    | (intro _ _ _)
    | (intro _ _)
    | with_reducible refine Only.set_bal (Comp.of hM (by decide)) ?_

theorem only_takeSlot {cs : List Comp} {z s : State} (hK : Only cs z s) (g : List Byte) (n : Nat) (hM : [.regs] ⊆ cs) :
    Only cs z (State.takeSlot s g n) := by
  unfold State.takeSlot
  try dsimp only
  repeat' first
    | with_reducible assumption
    | with_reducible apply only_wrAll
    | with_reducible apply only_wrN
    | with_reducible apply only_put
    | with_reducible apply Only.wr
    | exact List.Subset.trans (by decide) hM
    | (intro _ _ _)
    | (intro _ _)

theorem only_glazeApply {cs : List Comp} {z s : State} (hK : Only cs z s) (g : List Byte) (hM : [.regs, .dpx, .flt, .bal] ⊆ cs) :
    Only cs z (State.glazeApply s g) := by
  unfold State.glazeApply
  try dsimp only
  repeat' first
    | with_reducible assumption
    | with_reducible apply only_wrN
    | with_reducible apply only_takeStack
    | with_reducible apply only_setMember
    | with_reducible apply only_wrAll
    | with_reducible apply only_takeSlot
    | with_reducible apply only_setFlag
    | with_reducible apply Only.wr
    | with_reducible apply Only.forUpTo
    | with_reducible apply Only.ite
    | exact List.Subset.trans (by decide) hM
    | (intro _ _ _)
    | (intro _ _)
    | with_reducible refine Only.set_dpx (Comp.of hM (by decide)) ?_
    | with_reducible refine Only.set_flt (Comp.of hM (by decide)) ?_
    | with_reducible refine Only.set_bal (Comp.of hM (by decide)) ?_
    | (with_reducible refine Only.upd ?_ (Or.inr rfl) (Or.inr rfl) (Or.inr rfl) (Or.inr rfl) (Or.inr rfl) (Or.inr rfl) (Or.inr rfl) (Or.inr rfl) (Or.inr rfl) (Or.inr rfl) (Or.inr rfl) (Or.inl (Comp.of hM (by decide))) (Or.inl (Comp.of hM (by decide))) (Or.inr rfl) (Or.inr rfl) (Or.inr rfl) (Or.inr rfl) (Or.inl (Comp.of hM (by decide))) (Or.inr rfl) (Or.inr rfl) (Or.inr rfl) (Or.inr rfl) (Or.inr rfl))

theorem only_glazeCurrent {cs : List Comp} {z s : State} (hK : Only cs z s) (hM : [.regs, .clk, .tim, .pwm, .gd, .dpx, .flt, .bal, .out] ⊆ cs) :
    Only cs z (State.glazeCurrent s) := by
  unfold State.glazeCurrent
  try dsimp only
  repeat' first
    | with_reducible assumption
    | with_reducible apply only_proof
    | with_reducible apply only_glazeApply
    | with_reducible apply only_put
    | with_reducible apply only_eligRefresh
    | with_reducible apply only_bumpReg
    | with_reducible apply only_setFlag
    | with_reducible apply only_raise
    | with_reducible apply Only.when
    | with_reducible apply Only.ite
    | exact List.Subset.trans (by decide) hM
    | (intro _ _ _)
    | (intro _ _)
    | split
    | with_reducible refine Only.set_dpx (Comp.of hM (by decide)) ?_

theorem only_sendHb {cs : List Comp} {z s : State} (hK : Only cs z s) (lane : Nat) (claim : Bool) (hM : [.out, .free] ⊆ cs) :
    Only cs z (State.sendHb s lane claim) := by
  unfold State.sendHb
  try dsimp only
  repeat' first
    | with_reducible assumption
    | with_reducible apply only_sendAll
    | exact List.Subset.trans (by decide) hM
    | (intro _ _ _)
    | (intro _ _)

theorem only_admAnswer {cs : List Comp} {z s : State} (hK : Only cs z s) (head adm reason : Nat) (hM : [.regs] ⊆ cs) :
    Only cs z (State.admAnswer s head adm reason) := by
  unfold State.admAnswer
  try dsimp only
  repeat' first
    | with_reducible assumption
    | with_reducible apply only_bump
    | with_reducible apply only_put
    | exact List.Subset.trans (by decide) hM
    | (intro _ _ _)
    | (intro _ _)

theorem only_recheckHeld {cs : List Comp} {z s : State} (hK : Only cs z s) (hM : [.dpx] ⊆ cs) :
    Only cs z (State.recheckHeld s) := by
  unfold State.recheckHeld
  try dsimp only
  repeat' first
    | with_reducible assumption
    | with_reducible apply only_setMember
    | with_reducible apply Only.forUpTo
    | with_reducible apply Only.when
    | exact List.Subset.trans (by decide) hM
    | (intro _ _ _)
    | (intro _ _)

theorem only_roleRefresh {cs : List Comp} {z s : State} (hK : Only cs z s) (hM : [.regs] ⊆ cs) :
    Only cs z (State.roleRefresh s) := by
  unfold State.roleRefresh
  try dsimp only
  repeat' first
    | with_reducible assumption
    | with_reducible apply only_eligRefresh
    | with_reducible apply only_supStat
    | exact List.Subset.trans (by decide) hM
    | (intro _ _ _)
    | (intro _ _)

theorem only_toDpx {cs : List Comp} {z s : State} (hK : Only cs z s) (st : Nat) (hM : [.regs] ⊆ cs) :
    Only cs z (State.toDpx s st) := by
  unfold State.toDpx
  try dsimp only
  repeat' first
    | with_reducible assumption
    | with_reducible apply only_put
    | with_reducible apply only_setFlag
    | with_reducible apply only_roleRefresh
    | with_reducible apply Only.when
    | exact List.Subset.trans (by decide) hM
    | (intro _ _ _)
    | (intro _ _)

theorem only_lead {cs : List Comp} {z s : State} (hK : Only cs z s) (tier cause : Nat) (hM : [.regs, .dpx] ⊆ cs) :
    Only cs z (State.lead s tier cause) := by
  unfold State.lead
  try dsimp only
  repeat' first
    | with_reducible assumption
    | with_reducible apply only_put
    | exact List.Subset.trans (by decide) hM
    | (intro _ _ _)
    | (intro _ _)
    | with_reducible refine Only.set_dpx (Comp.of hM (by decide)) ?_

theorem only_swapAbort {cs : List Comp} {z s : State} (hK : Only cs z s) (err : Nat) (hM : [.regs, .raises] ⊆ cs) :
    Only cs z (State.swapAbort s err) := by
  unfold State.swapAbort
  try dsimp only
  repeat' first
    | with_reducible assumption
    | with_reducible apply only_swapEnd
    | with_reducible apply only_raiseLater
    | with_reducible apply Only.when
    | exact List.Subset.trans (by decide) hM
    | (intro _ _ _)
    | (intro _ _)

theorem only_demoteLater {cs : List Comp} {z s : State} (hK : Only cs z s) (st code : Nat) (hM : [.regs, .clk, .tim, .pwm, .gd, .flt, .raises] ⊆ cs) :
    Only cs z (State.demoteLater s st code) := by
  unfold State.demoteLater
  try dsimp only
  repeat' first
    | with_reducible assumption
    | with_reducible apply only_swapAbort
    | with_reducible apply only_giveUpRoot
    | with_reducible apply only_toDpx
    | with_reducible apply only_selectUp
    | with_reducible apply only_put
    | with_reducible apply only_raiseLater
    | with_reducible apply Only.ite
    | exact List.Subset.trans (by decide) hM
    | (intro _ _ _)
    | (intro _ _)

theorem only_demote {cs : List Comp} {z s : State} (hK : Only cs z s) (st code : Nat) (hM : [.regs, .clk, .tim, .pwm, .gd, .flt, .raises, .out] ⊆ cs) :
    Only cs z (State.demote s st code) := by
  unfold State.demote
  try dsimp only
  repeat' first
    | with_reducible assumption
    | with_reducible apply only_demoteLater
    | with_reducible apply only_raiseDue
    | exact List.Subset.trans (by decide) hM
    | (intro _ _ _)
    | (intro _ _)

theorem only_claim {cs : List Comp} {z s : State} (hK : Only cs z s) (hM : [.regs, .clk, .flash, .fuse, .img, .tim, .pwm, .gd, .dpx, .flt, .out, .free] ⊆ cs) :
    Only cs z (State.claim s) := by
  unfold State.claim
  try dsimp only
  repeat' first
    | with_reducible assumption
    | with_reducible apply only_lead
    | with_reducible apply only_toDpx
    | with_reducible apply only_put
    | with_reducible apply only_setMember
    | with_reducible apply only_toStage
    | with_reducible apply only_takeHost
    | with_reducible apply only_takeSource
    | with_reducible apply only_raise
    | with_reducible apply only_roleRefresh
    | with_reducible apply Only.when
    | with_reducible apply Only.ite
    | exact List.Subset.trans (by decide) hM
    | (intro _ _ _)
    | (intro _ _)

theorem only_claimRefused {cs : List Comp} {z s : State} (hK : Only cs z s) (hM : [.regs, .clk, .tim, .pwm, .gd, .flt, .out] ⊆ cs) :
    Only cs z (State.claimRefused s) := by
  unfold State.claimRefused
  try dsimp only
  repeat' first
    | with_reducible assumption
    | with_reducible apply only_admAnswer
    | with_reducible apply only_put
    | with_reducible apply only_raise
    | with_reducible apply only_roleRefresh
    | with_reducible apply only_toStage
    | exact List.Subset.trans (by decide) hM
    | (intro _ _ _)
    | (intro _ _)

theorem only_listenEnd {cs : List Comp} {z s : State} (hK : Only cs z s) (hM : [.regs, .sys, .clk, .flash, .fuse, .img, .tim, .pwm, .gd, .dpx, .flt, .saf, .sup, .out, .free] ⊆ cs) :
    Only cs z (State.listenEnd s) := by
  unfold State.listenEnd
  try dsimp only
  repeat' first
    | with_reducible assumption
    | with_reducible apply only_runUp
    | with_reducible apply only_safListenEnd
    | with_reducible apply only_heard
    | with_reducible apply only_claimRefused
    | with_reducible apply only_claim
    | with_reducible apply Only.when
    | with_reducible apply Only.ite
    | exact List.Subset.trans (by decide) hM
    | (intro _ _ _)
    | (intro _ _)
    | with_reducible refine Only.set_dpx (Comp.of hM (by decide)) ?_

theorem only_seeTier {cs : List Comp} {z s : State} (hK : Only cs z s) (t : Nat) (hM : [.regs, .dpx] ⊆ cs) :
    Only cs z (State.seeTier s t) := by
  unfold State.seeTier
  try dsimp only
  repeat' first
    | with_reducible assumption
    | with_reducible apply only_put
    | with_reducible apply Only.when
    | exact List.Subset.trans (by decide) hM
    | (intro _ _ _)
    | (intro _ _)
    | with_reducible refine Only.set_dpx (Comp.of hM (by decide)) ?_

theorem only_hbAtMember {cs : List Comp} {z s : State} (hK : Only cs z s) (via : Via) (src tier : Nat) (prim : Bool) (hM : [.regs, .tim, .dpx] ⊆ cs) :
    Only cs z (State.hbAtMember s via src tier prim) := by
  unfold State.hbAtMember
  try dsimp only
  repeat' first
    | with_reducible assumption
    | with_reducible apply only_put
    | with_reducible apply only_selectUp
    | with_reducible apply Only.when
    | with_reducible apply Only.ite
    | exact List.Subset.trans (by decide) hM
    | (intro _ _ _)
    | (intro _ _)
    | with_reducible refine Only.set_dpx (Comp.of hM (by decide)) ?_

theorem only_hbAtHead {cs : List Comp} {z s : State} (hK : Only cs z s) (src tier role flags : Nat) (swap : Word) (prim : Bool) (hM : [.regs, .clk, .tim, .pwm, .gd, .dpx, .flt, .raises, .out] ⊆ cs) :
    Only cs z (State.hbAtHead s src tier role flags swap prim) := by
  unfold State.hbAtHead
  try dsimp only
  repeat' first
    | with_reducible assumption
    | with_reducible apply only_seeTier
    | with_reducible apply only_put
    | with_reducible apply only_demote
    | with_reducible apply only_raise
    | with_reducible apply only_selectUp
    | with_reducible apply only_setFlag
    | with_reducible apply only_toDpx
    | with_reducible apply Only.when
    | with_reducible apply Only.ite
    | exact List.Subset.trans (by decide) hM
    | (intro _ _ _)
    | (intro _ _)
    | with_reducible refine Only.set_dpx (Comp.of hM (by decide)) ?_

theorem only_hbReceived {cs : List Comp} {z s : State} (hK : Only cs z s) (a : Arrival) (hM : [.regs, .clk, .tim, .pwm, .gd, .dpx, .flt, .raises, .out] ⊆ cs) :
    Only cs z (State.hbReceived s a) := by
  unfold State.hbReceived
  try dsimp only
  repeat' first
    | with_reducible assumption
    | with_reducible apply only_hbAtHead
    | with_reducible apply only_hbAtMember
    | with_reducible apply Only.when
    | with_reducible apply Only.ite
    | exact List.Subset.trans (by decide) hM
    | (intro _ _ _)
    | (intro _ _)
    | with_reducible refine Only.set_clk (Comp.of hM (by decide)) ?_
    | with_reducible refine Only.set_dpx (Comp.of hM (by decide)) ?_
    | (with_reducible refine Only.upd ?_ (Or.inr rfl) (Or.inr rfl) (Or.inl (Comp.of hM (by decide))) (Or.inr rfl) (Or.inr rfl) (Or.inr rfl) (Or.inr rfl) (Or.inr rfl) (Or.inr rfl) (Or.inr rfl) (Or.inr rfl) (Or.inl (Comp.of hM (by decide))) (Or.inr rfl) (Or.inr rfl) (Or.inr rfl) (Or.inr rfl) (Or.inr rfl) (Or.inr rfl) (Or.inr rfl) (Or.inr rfl) (Or.inr rfl) (Or.inr rfl) (Or.inr rfl))

theorem only_promote {cs : List Comp} {z s : State} (hK : Only cs z s) (hM : [.regs, .dpx, .flt, .raises] ⊆ cs) :
    Only cs z (State.promote s) := by
  unfold State.promote
  try dsimp only
  repeat' first
    | with_reducible assumption
    | with_reducible apply only_lead
    | with_reducible apply only_toDpx
    | with_reducible apply only_raiseLater
    | exact List.Subset.trans (by decide) hM
    | (intro _ _ _)
    | (intro _ _)
    | with_reducible refine Only.set_dpx (Comp.of hM (by decide)) ?_
    | with_reducible refine Only.set_flt (Comp.of hM (by decide)) ?_
    | (with_reducible refine Only.upd ?_ (Or.inr rfl) (Or.inr rfl) (Or.inr rfl) (Or.inr rfl) (Or.inr rfl) (Or.inr rfl) (Or.inr rfl) (Or.inr rfl) (Or.inr rfl) (Or.inr rfl) (Or.inr rfl) (Or.inl (Comp.of hM (by decide))) (Or.inl (Comp.of hM (by decide))) (Or.inr rfl) (Or.inr rfl) (Or.inr rfl) (Or.inr rfl) (Or.inr rfl) (Or.inr rfl) (Or.inr rfl) (Or.inr rfl) (Or.inr rfl) (Or.inr rfl))

theorem only_juryCount {cs : List Comp} {z s : State} (hK : Only cs z s) (hM : [.regs, .clk, .tim, .pwm, .gd, .dpx, .flt, .sup, .raises] ⊆ cs) :
    Only cs z (State.juryCount s) := by
  unfold State.juryCount
  try dsimp only
  repeat' first
    | with_reducible assumption
    | with_reducible apply only_seeTier
    | with_reducible apply only_put
    | with_reducible apply only_promote
    | with_reducible apply only_demoteLater
    | with_reducible apply Only.foldlFst
    | with_reducible apply Only.foldl
    | with_reducible apply Only.when
    | with_reducible apply Only.ite
    | exact List.Subset.trans (by decide) hM
    | (intro _ _ _)
    | (intro _ _)
    | with_reducible refine Only.set_sup (Comp.of hM (by decide)) ?_

theorem only_swapRequest {cs : List Comp} {z s : State} (hK : Only cs z s) (hM : [.regs] ⊆ cs) :
    Only cs z (State.swapRequest s) := by
  unfold State.swapRequest
  try dsimp only
  repeat' first
    | with_reducible assumption
    | with_reducible apply only_put
    | with_reducible apply only_swapEnd
    | with_reducible apply only_setFlag
    | with_reducible apply Only.ite
    | exact List.Subset.trans (by decide) hM
    | (intro _ _ _)
    | (intro _ _)

theorem only_swapCancelDpx {cs : List Comp} {z s : State} (hK : Only cs z s) (hM : [.regs, .clk, .tim, .pwm, .gd, .flt, .raises, .out] ⊆ cs) :
    Only cs z (State.swapCancelDpx s) := by
  unfold State.swapCancelDpx
  try dsimp only
  repeat' first
    | with_reducible assumption
    | with_reducible apply only_swapAbort
    | with_reducible apply only_raiseDue
    | with_reducible apply Only.when
    | exact List.Subset.trans (by decide) hM
    | (intro _ _ _)
    | (intro _ _)

theorem only_swapCheck {cs : List Comp} {z s : State} (hK : Only cs z s) (hM : [.regs, .raises] ⊆ cs) :
    Only cs z (State.swapCheck s) := by
  unfold State.swapCheck
  try dsimp only
  repeat' first
    | with_reducible assumption
    | with_reducible apply only_swapAbort
    | with_reducible apply Only.when
    | exact List.Subset.trans (by decide) hM
    | (intro _ _ _)
    | (intro _ _)

theorem only_swapAtW {cs : List Comp} {z s : State} (hK : Only cs z s) (hM : [.regs, .clk, .flash, .fuse, .img, .tim, .pwm, .gd, .dpx, .flt, .raises, .free] ⊆ cs) :
    Only cs z (State.swapAtW s) := by
  unfold State.swapAtW
  try dsimp only
  repeat' first
    | with_reducible assumption
    | with_reducible apply only_put
    | with_reducible apply only_setFlag
    | with_reducible apply only_giveUpRoot
    | with_reducible apply only_toDpx
    | with_reducible apply only_selectUp
    | with_reducible apply only_lead
    | with_reducible apply only_takeHost
    | with_reducible apply only_takeSource
    | with_reducible apply only_recheckHeld
    | with_reducible apply only_raiseLater
    | with_reducible apply only_roleRefresh
    | with_reducible apply Only.ite
    | exact List.Subset.trans (by decide) hM
    | (intro _ _ _)
    | (intro _ _)
    | with_reducible refine Only.set_dpx (Comp.of hM (by decide)) ?_

theorem only_promoteAtP {cs : List Comp} {z s : State} (hK : Only cs z s) (hM : [.regs, .clk, .flash, .fuse, .img, .tim, .dpx, .flt, .raises, .free] ⊆ cs) :
    Only cs z (State.promoteAtP s) := by
  unfold State.promoteAtP
  try dsimp only
  repeat' first
    | with_reducible assumption
    | with_reducible apply only_promote
    | with_reducible apply only_takeHost
    | with_reducible apply only_takeSource
    | with_reducible apply only_recheckHeld
    | with_reducible apply Only.wr
    | with_reducible apply Only.when
    | exact List.Subset.trans (by decide) hM
    | (intro _ _ _)
    | (intro _ _)
    | with_reducible refine Only.set_dpx (Comp.of hM (by decide)) ?_

theorem only_noStandby {cs : List Comp} {z s : State} (hK : Only cs z s) (hM : [.regs, .sys, .clk, .tim, .pwm, .gd, .dpx, .flt, .sup, .out] ⊆ cs) :
    Only cs z (State.noStandby s) := by
  unfold State.noStandby
  try dsimp only
  repeat' first
    | with_reducible assumption
    | with_reducible apply only_runUp
    | with_reducible apply only_raise
    | with_reducible apply Only.when
    | exact List.Subset.trans (by decide) hM
    | (intro _ _ _)
    | (intro _ _)
    | with_reducible refine Only.set_dpx (Comp.of hM (by decide)) ?_

theorem only_forwardHealth {cs : List Comp} {z s : State} (hK : Only cs z s) (origin : Nat) (payload : List Byte) (hM : [.regs, .clk, .rng, .tim, .pwm, .gd, .flt, .sup, .out] ⊆ cs) :
    Only cs z (State.forwardHealth s origin payload) := by
  unfold State.forwardHealth
  try dsimp only
  repeat' first
    | with_reducible assumption
    | with_reducible apply only_report
    | with_reducible apply Only.when
    | with_reducible apply Only.ite
    | exact List.Subset.trans (by decide) hM
    | (intro _ _ _)
    | (intro _ _)
    | with_reducible refine Only.set_rng (Comp.of hM (by decide)) ?_

theorem only_healthReport {cs : List Comp} {z s0 : State} (hK : Only cs z s0) (hM : [.regs, .sys, .clk, .rng, .tim, .pwm, .gd, .dpx, .flt, .sup, .out] ⊆ cs) :
    Only cs z (State.healthReport s0) := by
  unfold State.healthReport
  try dsimp only
  repeat' first
    | with_reducible assumption
    | with_reducible apply only_runToTick
    | with_reducible apply only_wrAll
    | with_reducible apply only_setFlag
    | with_reducible apply only_forwardHealth
    | with_reducible apply only_relay
    | with_reducible apply Only.when
    | with_reducible apply Only.ite
    | exact List.Subset.trans (by decide) hM
    | (intro _ _ _)
    | (intro _ _)
    | with_reducible refine Only.set_gd (Comp.of hM (by decide)) ?_
    | with_reducible refine Only.set_dpx (Comp.of hM (by decide)) ?_
    | (with_reducible refine Only.upd ?_ (Or.inr rfl) (Or.inr rfl) (Or.inr rfl) (Or.inr rfl) (Or.inr rfl) (Or.inr rfl) (Or.inr rfl) (Or.inr rfl) (Or.inr rfl) (Or.inr rfl) (Or.inl (Comp.of hM (by decide))) (Or.inl (Comp.of hM (by decide))) (Or.inr rfl) (Or.inr rfl) (Or.inr rfl) (Or.inr rfl) (Or.inr rfl) (Or.inr rfl) (Or.inr rfl) (Or.inr rfl) (Or.inr rfl) (Or.inr rfl) (Or.inr rfl))

theorem only_selfCheck {cs : List Comp} {z s : State} (hK : Only cs z s) (ok : Bool) (hM : [.regs, .clk, .tim, .pwm, .gd, .dpx, .flt, .out] ⊆ cs) :
    Only cs z (State.selfCheck s ok) := by
  unfold State.selfCheck
  try dsimp only
  repeat' first
    | with_reducible assumption
    | with_reducible apply only_raise
    | with_reducible apply Only.when
    | exact List.Subset.trans (by decide) hM
    | (intro _ _ _)
    | (intro _ _)
    | with_reducible refine Only.set_dpx (Comp.of hM (by decide)) ?_

theorem only_dpxCntClr {cs : List Comp} {z s : State} (hK : Only cs z s) (hM : [.regs] ⊆ cs) :
    Only cs z (State.dpxCntClr s) := by
  unfold State.dpxCntClr
  try dsimp only
  repeat' first
    | with_reducible assumption
    | with_reducible apply Only.wr
    | with_reducible apply Only.when
    | exact List.Subset.trans (by decide) hM
    | (intro _ _ _)
    | (intro _ _)

theorem only_batchReport {cs : List Comp} {z s : State} (hK : Only cs z s) (id c : Word) (entries : List (Nat × List Word)) (hM : [.regs, .clk, .tim, .pwm, .gd, .flt, .sup, .out] ⊆ cs) :
    Only cs z (State.batchReport s id c entries) := by
  unfold State.batchReport
  try dsimp only
  repeat' first
    | with_reducible assumption
    | with_reducible apply only_report
    | with_reducible apply Only.foldlFst
    | with_reducible apply Only.foldl
    | exact List.Subset.trans (by decide) hM
    | (intro _ _ _)
    | (intro _ _)

theorem only_failoverLedger {cs : List Comp} {z s : State} (hK : Only cs z s) (got : List (BitVec 8 × List (List Word))) (hM : [.regs, .clk, .tim, .pwm, .gd, .flt, .sup, .out] ⊆ cs) :
    Only cs z (State.failoverLedger s got) := by
  unfold State.failoverLedger
  try dsimp only
  repeat' first
    | with_reducible assumption
    | with_reducible apply only_report
    | with_reducible apply only_batchReport
    | with_reducible apply Only.foldlFst
    | with_reducible apply Only.foldl
    | with_reducible apply Only.iteFst
    | with_reducible apply Only.ite
    | exact List.Subset.trans (by decide) hM
    | (intro _ _ _)
    | (intro _ _)

end Sys2Proof.Machine
end

