-- ==== Sys2Proof/Laws/OnlyRing.lean ====
section
/-! SUPPORT. Laws/OnlyRing.lean: which components of the state each operation of Machine/Ring.lean, Machine/Boundary.lean, Machine/Servo.lean, Machine/Metering.lean may change. -/
namespace Sys2Proof.Machine
set_option Elab.async false

theorem only_setUnfold {cs : List Comp} {z s : State} (hK : Only cs z s) (y : Bool) (u : Option Word) (hM : [.regs, .rng] ⊆ cs) :
    Only cs z (State.setUnfold s y u) := by
  unfold State.setUnfold
  try dsimp only
  repeat' first
    | with_reducible assumption
    | with_reducible apply only_setFlag
    | with_reducible apply Only.wr
    | with_reducible apply Only.ite
    | exact List.Subset.trans (by decide) hM
    | (intro _ _ _)
    | (intro _ _)
    | split
    | with_reducible refine Only.set_rng (Comp.of hM (by decide)) ?_

theorem only_ringAudit {cs : List Comp} {z s : State} (hK : Only cs z s) (hM : [.rng, .raises, .out] ⊆ cs) :
    Only cs z (State.ringAudit s) := by
  unfold State.ringAudit
  try dsimp only
  repeat' first
    | with_reducible assumption
    | with_reducible apply only_raiseLater
    | with_reducible apply Only.emit
    | with_reducible apply Only.foldlFst
    | with_reducible apply Only.foldl
    | with_reducible apply Only.when
    | with_reducible apply Only.ite
    | exact List.Subset.trans (by decide) hM
    | (intro _ _ _)
    | (intro _ _)
    | with_reducible refine Only.set_rng (Comp.of hM (by decide)) ?_

theorem only_foldPort {cs : List Comp} {z s : State} (hK : Only cs z s) (p : Nat) (hM : [.regs, .clk, .rng, .tim, .pwm, .gd, .flt, .raises, .out] ⊆ cs) :
    Only cs z (State.foldPort s p) := by
  unfold State.foldPort
  try dsimp only
  repeat' first
    | with_reducible assumption
    | with_reducible apply only_setUnfold
    | with_reducible apply only_setRingState
    | with_reducible apply only_bumpReg
    | with_reducible apply only_ringAudit
    | with_reducible apply only_raiseDue
    | with_reducible apply only_selectUp
    | with_reducible apply Only.ite
    | exact List.Subset.trans (by decide) hM
    | (intro _ _ _)
    | (intro _ _)

theorem only_unfoldTake {cs : List Comp} {z s : State} (hK : Only cs z s) (y : Bool) (u : Word) (hM : [.regs, .rng] ⊆ cs) :
    Only cs z (State.unfoldTake s y u) := by
  unfold State.unfoldTake
  try dsimp only
  repeat' first
    | with_reducible assumption
    | with_reducible apply only_setUnfold
    | with_reducible apply Only.when
    | exact List.Subset.trans (by decide) hM
    | (intro _ _ _)
    | (intro _ _)

theorem only_unfoldNamed {cs : List Comp} {z s : State} (hK : Only cs z s) (y : Bool) (hM : [.regs, .rng] ⊆ cs) :
    Only cs z (State.unfoldNamed s y) := by
  unfold State.unfoldNamed
  try dsimp only
  repeat' first
    | with_reducible assumption
    | with_reducible apply only_setUnfold
    | with_reducible apply only_unfoldTake
    | with_reducible apply Only.when
    | with_reducible apply Only.ite
    | exact List.Subset.trans (by decide) hM
    | (intro _ _ _)
    | (intro _ _)

theorem only_reportsOpen {cs : List Comp} {z s : State} (hK : Only cs z s) (y : Bool) (hM : [.rng] ⊆ cs) :
    Only cs z (State.reportsOpen s y) := by
  unfold State.reportsOpen
  try dsimp only
  repeat' first
    | with_reducible assumption
    | with_reducible apply Only.foldlFst
    | with_reducible apply Only.foldl
    | with_reducible apply Only.iteFst
    | with_reducible apply Only.ite
    | exact List.Subset.trans (by decide) hM
    | (intro _ _ _)
    | (intro _ _)
    | with_reducible refine Only.set_rng (Comp.of hM (by decide)) ?_

theorem only_unfoldAt {cs : List Comp} {z s : State} (hK : Only cs z s) (y : Bool) (hM : [.regs, .rng] ⊆ cs) :
    Only cs z (State.unfoldAt s y) := by
  unfold State.unfoldAt
  try dsimp only
  repeat' first
    | with_reducible assumption
    | with_reducible apply only_setUnfold
    | with_reducible apply only_reportsOpen
    | with_reducible apply only_setRingState
    | with_reducible apply Only.when
    | with_reducible apply Only.ite
    | exact List.Subset.trans (by decide) hM
    | (intro _ _ _)
    | (intro _ _)

theorem only_takeReport {cs : List Comp} {z s : State} (hK : Only cs z s) (q : Nat) (v : Word) (hM : [.regs, .rng] ⊆ cs) :
    Only cs z (State.takeReport s q v) := by
  unfold State.takeReport
  try dsimp only
  repeat' first
    | with_reducible assumption
    | with_reducible apply only_setUnfold
    | with_reducible apply Only.when
    | with_reducible apply Only.iteFst
    | with_reducible apply Only.ite
    | exact List.Subset.trans (by decide) hM
    | (intro _ _ _)
    | (intro _ _)
    | split
    | with_reducible refine Only.set_rng (Comp.of hM (by decide)) ?_

theorem only_laneCount {cs : List Comp} {z s : State} (hK : Only cs z s) (p l : Nat) (found : Option Nat) (hM : [.regs] ⊆ cs) :
    Only cs z (State.laneCount s p l found) := by
  unfold State.laneCount
  try dsimp only
  repeat' first
    | with_reducible assumption
    | with_reducible apply only_bumpReg
    | exact List.Subset.trans (by decide) hM
    | (intro _ _ _)
    | (intro _ _)
    | split

theorem only_markRuns {cs : List Comp} {z s : State} (hK : Only cs z s) (p l : Nat) (mark : Bool) (hM : [.regs, .clk, .lnk, .rng, .tim, .pwm, .gd, .flt, .raises, .out] ⊆ cs) :
    Only cs z (State.markRuns s p l mark) := by
  unfold State.markRuns
  try dsimp only
  repeat' first
    | with_reducible assumption
    | with_reducible apply only_setLane
    | with_reducible apply only_setPort
    | with_reducible apply only_foldPort
    | with_reducible apply only_ringUp
    | with_reducible apply Only.ite
    | exact List.Subset.trans (by decide) hM
    | (intro _ _ _)
    | (intro _ _)

theorem only_forwardCw {cs : List Comp} {z s : State} (hK : Only cs z s) (p l : Nat) (w : List Nat) (raw : List Byte) (hM : [.regs, .out, .free] ⊆ cs) :
    Only cs z (State.forwardCw s p l w raw) := by
  unfold State.forwardCw
  try dsimp only
  repeat' first
    | with_reducible assumption
    | with_reducible apply only_sendSyms
    | with_reducible apply only_bumpReg
    | with_reducible apply Only.foldlFst
    | with_reducible apply Only.foldl
    | with_reducible apply Only.when
    | with_reducible apply Only.ite
    | exact List.Subset.trans (by decide) hM
    | (intro _ _ _)
    | (intro _ _)

theorem only_codewordIn {cs : List Comp} {z s : State} (hK : Only cs z s) (p l : Nat) (lv : List Int) (hM : [.regs, .clk, .lnk, .rng, .tim, .pwm, .gd, .flt, .raises, .out, .free] ⊆ cs) :
    Only cs z (State.codewordIn s p l lv) := by
  unfold State.codewordIn
  try dsimp only
  repeat' first
    | with_reducible assumption
    | with_reducible apply only_setLane
    | with_reducible apply only_laneCount
    | with_reducible apply only_hand
    | with_reducible apply only_markRuns
    | with_reducible apply only_forwardCw
    | with_reducible apply Only.when
    | with_reducible apply Only.iteFst
    | with_reducible apply Only.ite
    | exact List.Subset.trans (by decide) hM
    | (intro _ _ _)
    | (intro _ _)
    | split

theorem only_lineIn {cs : List Comp} {z s : State} (hK : Only cs z s) (p l : Nat) (lv : List Int) (hM : [.regs, .clk, .lnk, .rng, .tim, .pwm, .gd, .flt, .raises, .out, .free] ⊆ cs) :
    Only cs z (State.lineIn s p l lv) := by
  unfold State.lineIn
  try dsimp only
  repeat' first
    | with_reducible assumption
    | with_reducible apply only_frameHears
    | with_reducible apply only_trainHears
    | with_reducible apply only_codewordIn
    | with_reducible apply Only.ite
    | exact List.Subset.trans (by decide) hM
    | (intro _ _ _)
    | (intro _ _)

theorem only_nbrSend {cs : List Comp} {z s : State} (hK : Only cs z s) (p : Nat) (hM : [.tim, .out, .free] ⊆ cs) :
    Only cs z (State.nbrSend s p) := by
  unfold State.nbrSend
  try dsimp only
  repeat' first
    | with_reducible assumption
    | with_reducible apply only_setLink
    | with_reducible apply only_sendLine
    | with_reducible apply Only.ite
    | exact List.Subset.trans (by decide) hM
    | (intro _ _ _)
    | (intro _ _)
    | split

theorem only_nbrReceived {cs : List Comp} {z s : State} (hK : Only cs z s) (t2 : BitVec 48) (a : Arrival) (hM : [.regs, .rng, .tim] ⊆ cs) :
    Only cs z (State.nbrReceived s t2 a) := by
  unfold State.nbrReceived
  try dsimp only
  repeat' first
    | with_reducible assumption
    | with_reducible apply only_setLink
    | with_reducible apply only_selectUp
    | with_reducible apply Only.ite
    | exact List.Subset.trans (by decide) hM
    | (intro _ _ _)
    | (intro _ _)
    | split
    | with_reducible refine Only.set_rng (Comp.of hM (by decide)) ?_

theorem only_sendItems {cs : List Comp} {z s : State} (hK : Only cs z s) (y east : Bool) (lane typ dst tag word : Nat) (l : List Item) (hM : [.out, .free] ⊆ cs) :
    Only cs z (State.sendItems s y east lane typ dst tag word l) := by
  unfold State.sendItems
  try dsimp only
  repeat' first
    | with_reducible assumption
    | with_reducible apply only_sendDir
    | with_reducible apply Only.foldlFst
    | with_reducible apply Only.foldl
    | with_reducible apply Only.ite
    | exact List.Subset.trans (by decide) hM
    | (intro _ _ _)
    | (intro _ _)
    | split

theorem only_upWave {cs : List Comp} {z s : State} (hK : Only cs z s) (hM : [.regs, .sys, .clk, .rng, .tim, .pwm, .gd, .flt, .sup, .out, .free] ⊆ cs) :
    Only cs z (State.upWave s) := by
  unfold State.upWave
  try dsimp only
  repeat' first
    | with_reducible assumption
    | with_reducible apply only_runIn
    | with_reducible apply only_sendDir
    | with_reducible apply only_sendItems
    | with_reducible apply Only.useFree
    | with_reducible apply Only.foldlFst
    | with_reducible apply Only.foldl
    | with_reducible apply Only.when
    | with_reducible apply Only.iteFst
    | with_reducible apply Only.ite
    | exact List.Subset.trans (by decide) hM
    | (intro _ _ _)
    | (intro _ _)
    | with_reducible refine Only.set_rng (Comp.of hM (by decide)) ?_

theorem only_takeUp1 {cs : List Comp} {z s : State} (hK : Only cs z s) (ring : Ring) (src : Nat) (it : RawItem) (hM : [.regs, .rng, .saf, .raises] ⊆ cs) :
    Only cs z (State.takeUp1 s ring src it) := by
  unfold State.takeUp1
  try dsimp only
  repeat' first
    | with_reducible assumption
    | with_reducible apply only_sealFail
    | with_reducible apply only_takeSafeItem
    | with_reducible apply only_bumpReg
    | with_reducible apply only_raiseLater
    | with_reducible apply only_takeReport
    | with_reducible apply Only.when
    | with_reducible apply Only.ite
    | exact List.Subset.trans (by decide) hM
    | (intro _ _ _)
    | (intro _ _)
    | split
    | with_reducible refine Only.set_rng (Comp.of hM (by decide)) ?_

theorem only_upReceived {cs : List Comp} {z s : State} (hK : Only cs z s) (a : Arrival) (hM : [.regs, .clk, .rng, .tim, .pwm, .gd, .dpx, .flt, .saf, .raises, .out] ⊆ cs) :
    Only cs z (State.upReceived s a) := by
  unfold State.upReceived
  try dsimp only
  repeat' first
    | with_reducible assumption
    | with_reducible apply only_takeUp1
    | with_reducible apply only_raiseDue
    | with_reducible apply only_seeTier
    | with_reducible apply Only.foldlFst
    | with_reducible apply Only.foldl
    | with_reducible apply Only.when
    | with_reducible apply Only.iteFst
    | with_reducible apply Only.ite
    | exact List.Subset.trans (by decide) hM
    | (intro _ _ _)
    | (intro _ _)
    | with_reducible refine Only.set_rng (Comp.of hM (by decide)) ?_

theorem only_upMissing {cs : List Comp} {z s : State} (hK : Only cs z s) (k : Nat × Nat) (hM : [.regs, .raises] ⊆ cs) :
    Only cs z (State.upMissing s k) := by
  unfold State.upMissing
  try dsimp only
  repeat' first
    | with_reducible assumption
    | with_reducible apply only_bumpReg
    | with_reducible apply only_wrN
    | with_reducible apply only_raiseLater
    | with_reducible apply Only.wr
    | exact List.Subset.trans (by decide) hM
    | (intro _ _ _)
    | (intro _ _)

theorem only_tripCheck {cs : List Comp} {z s : State} (hK : Only cs z s) (hM : [.rng, .flt, .raises] ⊆ cs) :
    Only cs z (State.tripCheck s) := by
  unfold State.tripCheck
  try dsimp only
  repeat' first
    | with_reducible assumption
    | with_reducible apply only_raiseLater
    | with_reducible apply Only.foldlFst
    | with_reducible apply Only.foldl
    | with_reducible apply Only.when
    | with_reducible apply Only.ite
    | exact List.Subset.trans (by decide) hM
    | (intro _ _ _)
    | (intro _ _)
    | with_reducible refine Only.set_rng (Comp.of hM (by decide)) ?_
    | with_reducible refine Only.set_flt (Comp.of hM (by decide)) ?_
    | (with_reducible refine Only.upd ?_ (Or.inr rfl) (Or.inr rfl) (Or.inr rfl) (Or.inr rfl) (Or.inr rfl) (Or.inr rfl) (Or.inr rfl) (Or.inl (Comp.of hM (by decide))) (Or.inr rfl) (Or.inr rfl) (Or.inr rfl) (Or.inr rfl) (Or.inl (Comp.of hM (by decide))) (Or.inr rfl) (Or.inr rfl) (Or.inr rfl) (Or.inr rfl) (Or.inr rfl) (Or.inr rfl) (Or.inr rfl) (Or.inr rfl) (Or.inr rfl) (Or.inr rfl))

theorem only_uplinkTaken {cs : List Comp} {z s : State} (hK : Only cs z s) (hM : [.regs, .sys, .clk, .rng, .tim, .pwm, .gd, .dpx, .flt, .saf, .sup, .raises, .out] ⊆ cs) :
    Only cs z (State.uplinkTaken s) := by
  unfold State.uplinkTaken
  try dsimp only
  repeat' first
    | with_reducible assumption
    | with_reducible apply only_runIn
    | with_reducible apply only_takeAllRx
    | with_reducible apply only_upReceived
    | exact List.Subset.trans (by decide) hM
    | (intro _ _ _)
    | (intro _ _)

theorem only_uplinkJudge {cs : List Comp} {z s : State} (hK : Only cs z s) (hM : [.regs, .clk, .rng, .tim, .pwm, .gd, .dpx, .flt, .eng, .bal, .saf, .sup, .raises, .out] ⊆ cs) :
    Only cs z (State.uplinkJudge s) := by
  unfold State.uplinkJudge
  try dsimp only
  repeat' first
    | with_reducible assumption
    | with_reducible apply only_upMissing
    | with_reducible apply only_tripCheck
    | with_reducible apply only_publishDerating
    | with_reducible apply only_safCloseUplink
    | with_reducible apply only_glazeCurrent
    | with_reducible apply only_juryCount
    | with_reducible apply only_ringAudit
    | with_reducible apply only_raiseDue
    | with_reducible apply Only.foldlFst
    | with_reducible apply Only.foldl
    | with_reducible apply Only.iteFst
    | with_reducible apply Only.ite
    | exact List.Subset.trans (by decide) hM
    | (intro _ _ _)
    | (intro _ _)
    | with_reducible refine Only.set_rng (Comp.of hM (by decide)) ?_
    | with_reducible refine Only.set_dpx (Comp.of hM (by decide)) ?_
    | (with_reducible refine Only.upd ?_ (Or.inr rfl) (Or.inr rfl) (Or.inr rfl) (Or.inr rfl) (Or.inr rfl) (Or.inr rfl) (Or.inr rfl) (Or.inl (Comp.of hM (by decide))) (Or.inr rfl) (Or.inr rfl) (Or.inr rfl) (Or.inl (Comp.of hM (by decide))) (Or.inr rfl) (Or.inr rfl) (Or.inr rfl) (Or.inr rfl) (Or.inr rfl) (Or.inr rfl) (Or.inr rfl) (Or.inr rfl) (Or.inr rfl) (Or.inr rfl) (Or.inr rfl))

theorem only_uplinkClosed {cs : List Comp} {z s : State} (hK : Only cs z s) (hM : [.dpx] ⊆ cs) :
    Only cs z (State.uplinkClosed s) := by
  unfold State.uplinkClosed
  try dsimp only
  repeat' first
    | with_reducible assumption
    | exact List.Subset.trans (by decide) hM
    | (intro _ _ _)
    | (intro _ _)
    | with_reducible refine Only.set_dpx (Comp.of hM (by decide)) ?_

theorem only_uplinkDeadline {cs : List Comp} {z s : State} (hK : Only cs z s) (hM : [.regs, .sys, .clk, .rng, .tim, .pwm, .gd, .dpx, .flt, .eng, .bal, .saf, .sup, .raises, .out] ⊆ cs) :
    Only cs z (State.uplinkDeadline s) := by
  unfold State.uplinkDeadline
  try dsimp only
  repeat' first
    | with_reducible assumption
    | with_reducible apply only_uplinkTaken
    | with_reducible apply only_uplinkJudge
    | with_reducible apply only_uplinkClosed
    | with_reducible apply Only.ite
    | exact List.Subset.trans (by decide) hM
    | (intro _ _ _)
    | (intro _ _)

theorem only_downWave {cs : List Comp} {z s : State} (hK : Only cs z s) (hM : [.regs, .sys, .clk, .rng, .tim, .pwm, .gd, .dpx, .flt, .sup, .out, .free] ⊆ cs) :
    Only cs z (State.downWave s) := by
  unfold State.downWave
  try dsimp only
  repeat' first
    | with_reducible assumption
    | with_reducible apply only_runIn
    | with_reducible apply only_balLate
    | with_reducible apply only_sendHb
    | with_reducible apply only_sendItems
    | with_reducible apply Only.foldlFst
    | with_reducible apply Only.foldl
    | with_reducible apply Only.when
    | with_reducible apply Only.iteFst
    | with_reducible apply Only.ite
    | exact List.Subset.trans (by decide) hM
    | (intro _ _ _)
    | (intro _ _)
    | with_reducible refine Only.set_dpx (Comp.of hM (by decide)) ?_

theorem only_spliceTake {cs : List Comp} {z s : State} (hK : Only cs z s) (b : Word) (pos : Nat) (hM : [.img] ⊆ cs) :
    Only cs z (State.spliceTake s b pos) := by
  unfold State.spliceTake
  try dsimp only
  repeat' first
    | with_reducible assumption
    | with_reducible apply Only.when
    | exact List.Subset.trans (by decide) hM
    | (intro _ _ _)
    | (intro _ _)
    | with_reducible refine Only.set_img (Comp.of hM (by decide)) ?_

theorem only_takeName {cs : List Comp} {z s : State} (hK : Only cs z s) (idx : Nat) (v : Word) (hM : [.regs, .img, .rng] ⊆ cs) :
    Only cs z (State.takeName s idx v) := by
  unfold State.takeName
  try dsimp only
  repeat' first
    | with_reducible assumption
    | with_reducible apply only_unfoldTake
    | with_reducible apply only_spliceTake
    | with_reducible apply Only.when
    | with_reducible apply Only.ite
    | exact List.Subset.trans (by decide) hM
    | (intro _ _ _)
    | (intro _ _)
    | with_reducible refine Only.set_img (Comp.of hM (by decide)) ?_

theorem only_takeDn1 {cs : List Comp} {z s : State} (hK : Only cs z s) (src d : Nat) (it : RawItem) (hM : [.regs, .img, .rng, .raises] ⊆ cs) :
    Only cs z (State.takeDn1 s src d it) := by
  unfold State.takeDn1
  try dsimp only
  repeat' first
    | with_reducible assumption
    | with_reducible apply only_bumpReg
    | with_reducible apply only_raiseLater
    | with_reducible apply only_sealFail
    | with_reducible apply only_takeName
    | with_reducible apply Only.wr
    | with_reducible apply Only.ite
    | exact List.Subset.trans (by decide) hM
    | (intro _ _ _)
    | (intro _ _)
    | split
    | with_reducible refine Only.set_rng (Comp.of hM (by decide)) ?_

theorem only_dnReceived {cs : List Comp} {z s : State} (hK : Only cs z s) (a : Arrival) (hM : [.regs, .clk, .img, .rng, .tim, .pwm, .gd, .flt, .raises, .out, .free] ⊆ cs) :
    Only cs z (State.dnReceived s a) := by
  unfold State.dnReceived
  try dsimp only
  repeat' first
    | with_reducible assumption
    | with_reducible apply only_sendDir
    | with_reducible apply only_bump
    | with_reducible apply only_takeDn1
    | with_reducible apply only_raiseDue
    | with_reducible apply Only.foldlFst
    | with_reducible apply Only.foldl
    | with_reducible apply Only.when
    | with_reducible apply Only.ite
    | exact List.Subset.trans (by decide) hM
    | (intro _ _ _)
    | (intro _ _)
    | with_reducible refine Only.set_rng (Comp.of hM (by decide)) ?_

theorem only_takeAck1 {cs : List Comp} {z s : State} (hK : Only cs z s) (src : Nat) (it : RawItem) (hM : [.regs, .rng, .raises] ⊆ cs) :
    Only cs z (State.takeAck1 s src it) := by
  unfold State.takeAck1
  try dsimp only
  repeat' first
    | with_reducible assumption
    | with_reducible apply only_sealFail
    | with_reducible apply only_bumpReg
    | with_reducible apply only_raiseLater
    | with_reducible apply Only.when
    | with_reducible apply Only.ite
    | exact List.Subset.trans (by decide) hM
    | (intro _ _ _)
    | (intro _ _)
    | split
    | with_reducible refine Only.set_rng (Comp.of hM (by decide)) ?_

theorem only_ackReceived {cs : List Comp} {z s : State} (hK : Only cs z s) (a : Arrival) (hM : [.regs, .clk, .rng, .tim, .pwm, .gd, .dpx, .flt, .raises, .out] ⊆ cs) :
    Only cs z (State.ackReceived s a) := by
  unfold State.ackReceived
  try dsimp only
  repeat' first
    | with_reducible assumption
    | with_reducible apply only_setMember
    | with_reducible apply only_takeAck1
    | with_reducible apply only_raiseDue
    | with_reducible apply Only.foldlFst
    | with_reducible apply Only.foldl
    | with_reducible apply Only.ite
    | exact List.Subset.trans (by decide) hM
    | (intro _ _ _)
    | (intro _ _)

theorem only_rngCntClr {cs : List Comp} {z s : State} (hK : Only cs z s) (hM : [.regs] ⊆ cs) :
    Only cs z (State.rngCntClr s) := by
  unfold State.rngCntClr
  try dsimp only
  repeat' first
    | with_reducible assumption
    | with_reducible apply Only.wr
    | with_reducible apply Only.foldlFst
    | with_reducible apply Only.foldl
    | exact List.Subset.trans (by decide) hM
    | (intro _ _ _)
    | (intro _ _)

theorem only_divertAll {cs : List Comp} {z s : State} (hK : Only cs z s) (l : List (Fin 4 × List Byte)) (hM : [.regs, .clk, .rng, .tim, .pwm, .gd, .flt, .out] ⊆ cs) :
    Only cs z (State.divertAll s l) := by
  unfold State.divertAll
  try dsimp only
  repeat' first
    | with_reducible assumption
    | with_reducible apply only_divert
    | with_reducible apply Only.foldlFst
    | with_reducible apply Only.foldl
    | exact List.Subset.trans (by decide) hM
    | (intro _ _ _)
    | (intro _ _)

theorem only_admFail {cs : List Comp} {z s : State} (hK : Only cs z s) (pos adm reason : Nat) (hM : [.regs, .mem, .sys, .clk, .flash, .fuse, .img, .lnk, .rng, .tim, .pwm, .gd, .dpx, .flt, .eng, .adc, .memx, .thm, .bal, .saf, .sup, .mbx, .mtr, .raises, .out, .free] ⊆ cs) :
    Only cs z (State.admFail s pos adm reason) := by
  unfold State.admFail
  try dsimp only
  repeat' first
    | with_reducible assumption
    | with_reducible apply only_setMember
    | with_reducible apply only_setAsk
    | with_reducible apply only_raise
    | with_reducible apply only_admission
    | with_reducible apply Only.emit
    | with_reducible apply Only.ite
    | exact List.Subset.trans (by decide) hM
    | (intro _ _ _)
    | (intro _ _)

theorem only_admPass {cs : List Comp} {z s : State} (hK : Only cs z s) (pos : Nat) (hM : [.regs, .mem, .sys, .clk, .flash, .fuse, .img, .lnk, .rng, .tim, .pwm, .gd, .dpx, .flt, .eng, .adc, .memx, .thm, .bal, .saf, .sup, .mbx, .mtr, .raises, .out, .free] ⊆ cs) :
    Only cs z (State.admPass s pos) := by
  unfold State.admPass
  try dsimp only
  repeat' first
    | with_reducible assumption
    | with_reducible apply only_setMember
    | with_reducible apply only_admission
    | with_reducible apply Only.emit
    | exact List.Subset.trans (by decide) hM
    | (intro _ _ _)
    | (intro _ _)

theorem only_admRequest {cs : List Comp} {z s : State} (hK : Only cs z s) (pos epoch minEpoch : Nat) (dig : BitVec 64) (listsUs timeOk : Bool) (device : BitVec 64) (hM : [.regs, .mem, .sys, .clk, .flash, .fuse, .img, .lnk, .rng, .tim, .pwm, .gd, .dpx, .flt, .eng, .adc, .memx, .thm, .bal, .saf, .sup, .mbx, .mtr, .raises, .out, .free] ⊆ cs) :
    Only cs z (State.admRequest s pos epoch minEpoch dig listsUs timeOk device) := by
  unfold State.admRequest
  try dsimp only
  repeat' first
    | with_reducible assumption
    | with_reducible apply only_admFail
    | with_reducible apply only_setAsk
    | with_reducible apply only_admPass
    | with_reducible apply Only.ite
    | exact List.Subset.trans (by decide) hM
    | (intro _ _ _)
    | (intro _ _)

theorem only_admRetry {cs : List Comp} {z s : State} (hK : Only cs z s) (pos : Nat) (timeOk : Bool) (hM : [.regs, .mem, .sys, .clk, .flash, .fuse, .img, .lnk, .rng, .tim, .pwm, .gd, .dpx, .flt, .eng, .adc, .memx, .thm, .bal, .saf, .sup, .mbx, .mtr, .raises, .out, .free] ⊆ cs) :
    Only cs z (State.admRetry s pos timeOk) := by
  unfold State.admRetry
  try dsimp only
  repeat' first
    | with_reducible assumption
    | with_reducible apply only_admPass
    | with_reducible apply only_admFail
    | with_reducible apply Only.when
    | with_reducible apply Only.ite
    | exact List.Subset.trans (by decide) hM
    | (intro _ _ _)
    | (intro _ _)

theorem only_toSpur {cs : List Comp} {z s : State} (hK : Only cs z s) (y : Bool) (hM : [.regs] ⊆ cs) :
    Only cs z (State.toSpur s y) := by
  unfold State.toSpur
  try dsimp only
  repeat' first
    | with_reducible assumption
    | with_reducible apply only_setRingState
    | with_reducible apply Only.when
    | exact List.Subset.trans (by decide) hM
    | (intro _ _ _)
    | (intro _ _)

theorem only_rampLoad {cs : List Comp} {z s : State} (hK : Only cs z s) (hM : [.regs, .clk] ⊆ cs) :
    Only cs z (State.rampLoad s) := by
  unfold State.rampLoad
  try dsimp only
  repeat' first
    | with_reducible assumption
    | with_reducible apply only_setFlag
    | exact List.Subset.trans (by decide) hM
    | (intro _ _ _)
    | (intro _ _)
    | split
    | with_reducible refine Only.set_clk (Comp.of hM (by decide)) ?_

theorem only_admGranted {cs : List Comp} {z s : State} (hK : Only cs z s) (head : Nat) (scn : Word) (stime : BitVec 48) (next tier : Nat) (stnPb : Bool) (hM : [.regs, .clk, .flash, .fuse, .img, .rng, .tim, .pwm, .gd, .dpx, .flt, .sup, .out] ⊆ cs) :
    Only cs z (State.admGranted s head scn stime next tier stnPb) := by
  unfold State.admGranted
  try dsimp only
  repeat' first
    | with_reducible assumption
    | with_reducible apply only_admAnswer
    | with_reducible apply only_carriersMoved
    | with_reducible apply only_setFlag
    | with_reducible apply only_rampLoad
    | with_reducible apply only_put
    | with_reducible apply only_toDpx
    | with_reducible apply only_toSpur
    | with_reducible apply only_toStage
    | with_reducible apply only_selectUp
    | with_reducible apply only_trialPass
    | with_reducible apply Only.wr
    | with_reducible apply Only.when
    | with_reducible apply Only.ite
    | exact List.Subset.trans (by decide) hM
    | (intro _ _ _)
    | (intro _ _)
    | with_reducible refine Only.set_tim (Comp.of hM (by decide)) ?_
    | with_reducible refine Only.set_dpx (Comp.of hM (by decide)) ?_
    | (with_reducible refine Only.upd ?_ (Or.inr rfl) (Or.inr rfl) (Or.inr rfl) (Or.inr rfl) (Or.inr rfl) (Or.inr rfl) (Or.inr rfl) (Or.inr rfl) (Or.inl (Comp.of hM (by decide))) (Or.inr rfl) (Or.inr rfl) (Or.inl (Comp.of hM (by decide))) (Or.inr rfl) (Or.inr rfl) (Or.inr rfl) (Or.inr rfl) (Or.inr rfl) (Or.inr rfl) (Or.inr rfl) (Or.inr rfl) (Or.inr rfl) (Or.inr rfl) (Or.inr rfl))

theorem only_admDenied {cs : List Comp} {z s : State} (hK : Only cs z s) (head : Nat) (held : Bool) (reason : Nat) (hM : [.regs, .clk, .pwm, .gd] ⊆ cs) :
    Only cs z (State.admDenied s head held reason) := by
  unfold State.admDenied
  try dsimp only
  repeat' first
    | with_reducible assumption
    | with_reducible apply only_admAnswer
    | with_reducible apply only_put
    | with_reducible apply only_roleRefresh
    | with_reducible apply only_toStage
    | with_reducible apply Only.when
    | with_reducible apply Only.ite
    | exact List.Subset.trans (by decide) hM
    | (intro _ _ _)
    | (intro _ _)

theorem only_fullNamed {cs : List Comp} {z s : State} (hK : Only cs z s) (locked unlocked : List (BitVec 8)) (hM : [.img, .out] ⊆ cs) :
    Only cs z (State.fullNamed s locked unlocked) := by
  unfold State.fullNamed
  try dsimp only
  repeat' first
    | with_reducible assumption
    | with_reducible apply Only.emit
    | with_reducible apply Only.when
    | with_reducible apply Only.ite
    | exact List.Subset.trans (by decide) hM
    | (intro _ _ _)
    | (intro _ _)
    | with_reducible refine Only.set_img (Comp.of hM (by decide)) ?_

theorem only_stWaitExpiry {cs : List Comp} {z s : State} (hK : Only cs z s) (hM : [.regs, .sys, .clk, .img, .tim, .pwm, .gd, .flt, .sup, .out] ⊆ cs) :
    Only cs z (State.stWaitExpiry s) := by
  unfold State.stWaitExpiry
  refine Only.when hK fun b hb => ?_
  extract_lets s1 src s2
  have h1 : Only cs z s1 := only_runUp hb _ (List.Subset.trans (by decide) hM)
  exact Only.when (Only.set_img (Comp.of hM (by decide)) h1) fun c hc => hc.emit _ (List.Subset.trans (by decide) hM)

theorem only_joinFull {cs : List Comp} {z s : State} (hK : Only cs z s) (hM : [.regs, .clk, .pwm, .gd] ⊆ cs) :
    Only cs z (State.joinFull s) := by
  unfold State.joinFull
  try dsimp only
  repeat' first
    | with_reducible assumption
    | with_reducible apply only_enterFull
    | with_reducible apply Only.when
    | exact List.Subset.trans (by decide) hM
    | (intro _ _ _)
    | (intro _ _)

theorem only_fullStep {cs : List Comp} {z s : State} (hK : Only cs z s) (hM : [.regs, .clk, .img, .lnk, .pwm, .gd, .dpx, .bal, .raises, .out] ⊆ cs) :
    Only cs z (State.fullStep s) := by
  unfold State.fullStep
  try dsimp only
  repeat' first
    | with_reducible assumption
    | with_reducible apply only_modeSwitch
    | with_reducible apply only_setMember
    | with_reducible apply only_balFull
    | with_reducible apply only_joinFull
    | with_reducible apply only_setFlag
    | with_reducible apply only_lengthChanged
    | with_reducible apply only_raiseLater
    | with_reducible apply only_leaveService
    | with_reducible apply Only.foldlFst
    | with_reducible apply Only.foldl
    | with_reducible apply Only.forUpTo
    | with_reducible apply Only.when
    | with_reducible apply Only.ite
    | exact List.Subset.trans (by decide) hM
    | (intro _ _ _)
    | (intro _ _)
    | split
    | with_reducible refine Only.set_img (Comp.of hM (by decide)) ?_

theorem only_spliceNamed {cs : List Comp} {z s : State} (hK : Only cs z s) (pos : Nat) (locked : Bool) (hM : [.img] ⊆ cs) :
    Only cs z (State.spliceNamed s pos locked) := by
  unfold State.spliceNamed
  try dsimp only
  repeat' first
    | with_reducible assumption
    | with_reducible apply only_spliceTake
    | with_reducible apply Only.when
    | exact List.Subset.trans (by decide) hM
    | (intro _ _ _)
    | (intro _ _)

theorem only_spliceCancel {cs : List Comp} {z s : State} (hK : Only cs z s) (pos : Nat) (hM : [.regs, .img, .lnk, .dpx, .out] ⊆ cs) :
    Only cs z (State.spliceCancel s pos) := by
  unfold State.spliceCancel
  try dsimp only
  repeat' first
    | with_reducible assumption
    | with_reducible apply only_modeSwitch
    | with_reducible apply only_put
    | with_reducible apply only_setMember
    | with_reducible apply Only.foldlFst
    | with_reducible apply Only.foldl
    | with_reducible apply Only.when
    | exact List.Subset.trans (by decide) hM
    | (intro _ _ _)
    | (intro _ _)
    | with_reducible refine Only.set_img (Comp.of hM (by decide)) ?_

theorem only_spliceOpen {cs : List Comp} {z s : State} (hK : Only cs z s) (pos : Nat) (y : Bool) (hM : [.regs, .rng] ⊆ cs) :
    Only cs z (State.spliceOpen s pos y) := by
  unfold State.spliceOpen
  try dsimp only
  repeat' first
    | with_reducible assumption
    | with_reducible apply only_reportsOpen
    | with_reducible apply only_setRingState
    | with_reducible apply Only.when
    | with_reducible apply Only.ite
    | exact List.Subset.trans (by decide) hM
    | (intro _ _ _)
    | (intro _ _)

theorem only_spliceEnd {cs : List Comp} {z s : State} (hK : Only cs z s) (pos : Nat) (hM : [.regs, .clk, .img, .rng, .pwm, .gd, .dpx, .bal] ⊆ cs) :
    Only cs z (State.spliceEnd s pos) := by
  unfold State.spliceEnd
  try dsimp only
  repeat' first
    | with_reducible assumption
    | with_reducible apply only_spliceOpen
    | with_reducible apply only_joinFull
    | with_reducible apply only_setMember
    | with_reducible apply Only.when
    | exact List.Subset.trans (by decide) hM
    | (intro _ _ _)
    | (intro _ _)
    | with_reducible refine Only.set_img (Comp.of hM (by decide)) ?_
    | with_reducible refine Only.set_bal (Comp.of hM (by decide)) ?_
    | (with_reducible refine Only.upd ?_ (Or.inr rfl) (Or.inr rfl) (Or.inr rfl) (Or.inr rfl) (Or.inr rfl) (Or.inl (Comp.of hM (by decide))) (Or.inr rfl) (Or.inr rfl) (Or.inr rfl) (Or.inr rfl) (Or.inr rfl) (Or.inr rfl) (Or.inr rfl) (Or.inr rfl) (Or.inr rfl) (Or.inr rfl) (Or.inr rfl) (Or.inl (Comp.of hM (by decide))) (Or.inr rfl) (Or.inr rfl) (Or.inr rfl) (Or.inr rfl) (Or.inr rfl))

theorem only_spliceStep {cs : List Comp} {z s : State} (hK : Only cs z s) (bad : Bool) (hM : [.regs, .clk, .img, .lnk, .rng, .pwm, .gd, .dpx, .bal, .out] ⊆ cs) :
    Only cs z (State.spliceStep s bad) := by
  unfold State.spliceStep
  try dsimp only
  repeat' first
    | with_reducible assumption
    | with_reducible apply only_modeSwitch
    | with_reducible apply only_spliceCancel
    | with_reducible apply only_balPlace
    | with_reducible apply only_spliceEnd
    | with_reducible apply Only.foldlFst
    | with_reducible apply Only.foldl
    | with_reducible apply Only.when
    | with_reducible apply Only.ite
    | exact List.Subset.trans (by decide) hM
    | (intro _ _ _)
    | (intro _ _)
    | split
    | with_reducible refine Only.set_img (Comp.of hM (by decide)) ?_

theorem only_applyStaged {cs : List Comp} {z s : State} (hK : Only cs z s) (hM : [.rng] ⊆ cs) :
    Only cs z (State.applyStaged s) := by
  unfold State.applyStaged
  try dsimp only
  repeat' first
    | with_reducible assumption
    | with_reducible apply Only.foldlFst
    | with_reducible apply Only.foldl
    | exact List.Subset.trans (by decide) hM
    | (intro _ _ _)
    | (intro _ _)
    | with_reducible refine Only.set_rng (Comp.of hM (by decide)) ?_

theorem only_serveOrHold {cs : List Comp} {z s : State} (hK : Only cs z s) (hM : [.regs, .rng, .raises] ⊆ cs) :
    Only cs z (State.serveOrHold s) := by
  unfold State.serveOrHold
  try dsimp only
  repeat' first
    | with_reducible assumption
    | with_reducible apply only_put
    | with_reducible apply only_setFlag
    | with_reducible apply only_bump
    | with_reducible apply only_raiseLater
    | with_reducible apply Only.when
    | with_reducible apply Only.ite
    | exact List.Subset.trans (by decide) hM
    | (intro _ _ _)
    | (intro _ _)
    | with_reducible refine Only.set_rng (Comp.of hM (by decide)) ?_

theorem only_backToParBake {cs : List Comp} {z s : State} (hK : Only cs z s) (hM : [.regs, .clk, .img, .lnk, .pwm, .gd, .dpx, .bal, .out] ⊆ cs) :
    Only cs z (State.backToParBake s) := by
  unfold State.backToParBake
  try dsimp only
  repeat' first
    | with_reducible assumption
    | with_reducible apply only_modeSwitch
    | with_reducible apply only_setFlag
    | with_reducible apply only_setMember
    | with_reducible apply only_toStage
    | with_reducible apply only_lengthChanged
    | with_reducible apply Only.foldlFst
    | with_reducible apply Only.foldl
    | with_reducible apply Only.forUpTo
    | with_reducible apply Only.when
    | exact List.Subset.trans (by decide) hM
    | (intro _ _ _)
    | (intro _ _)
    | with_reducible refine Only.set_img (Comp.of hM (by decide)) ?_
    | with_reducible refine Only.set_bal (Comp.of hM (by decide)) ?_
    | (with_reducible refine Only.upd ?_ (Or.inr rfl) (Or.inr rfl) (Or.inr rfl) (Or.inr rfl) (Or.inr rfl) (Or.inl (Comp.of hM (by decide))) (Or.inr rfl) (Or.inr rfl) (Or.inr rfl) (Or.inr rfl) (Or.inr rfl) (Or.inr rfl) (Or.inr rfl) (Or.inr rfl) (Or.inr rfl) (Or.inr rfl) (Or.inr rfl) (Or.inl (Comp.of hM (by decide))) (Or.inr rfl) (Or.inr rfl) (Or.inr rfl) (Or.inr rfl) (Or.inr rfl))

theorem only_stationAtMember {cs : List Comp} {z s : State} (hK : Only cs z s) (hM : [.regs, .clk, .img, .lnk, .pwm, .gd, .dpx, .bal, .out] ⊆ cs) :
    Only cs z (State.stationAtMember s) := by
  unfold State.stationAtMember
  try dsimp only
  repeat' first
    | with_reducible assumption
    | with_reducible apply only_setFlag
    | with_reducible apply only_backToParBake
    | with_reducible apply only_fltRefresh
    | with_reducible apply Only.when
    | with_reducible apply Only.ite
    | exact List.Subset.trans (by decide) hM
    | (intro _ _ _)
    | (intro _ _)
    | split

theorem only_clearAtHead {cs : List Comp} {z s : State} (hK : Only cs z s) (hM : [.regs, .clk, .img, .lnk, .pwm, .gd, .dpx, .flt, .bal, .out] ⊆ cs) :
    Only cs z (State.clearAtHead s) := by
  unfold State.clearAtHead
  try dsimp only
  repeat' first
    | with_reducible assumption
    | with_reducible apply only_backToParBake
    | with_reducible apply only_fltRefresh
    | with_reducible apply Only.wr
    | with_reducible apply Only.when
    | exact List.Subset.trans (by decide) hM
    | (intro _ _ _)
    | (intro _ _)
    | with_reducible refine Only.set_flt (Comp.of hM (by decide)) ?_

theorem only_batchReports {cs : List Comp} {z s : State} (hK : Only cs z s) (hM : [.regs, .clk, .tim, .pwm, .gd, .flt, .sup, .out] ⊆ cs) :
    Only cs z (State.batchReports s) := by
  unfold State.batchReports
  try dsimp only
  repeat' first
    | with_reducible assumption
    | with_reducible apply only_batchReport
    | with_reducible apply Only.foldlFst
    | with_reducible apply Only.foldl
    | with_reducible apply Only.when
    | exact List.Subset.trans (by decide) hM
    | (intro _ _ _)
    | (intro _ _)
    | split
    | with_reducible refine Only.set_flt (Comp.of hM (by decide)) ?_
    | with_reducible refine Only.set_sup (Comp.of hM (by decide)) ?_
    | (with_reducible refine Only.upd ?_ (Or.inr rfl) (Or.inr rfl) (Or.inr rfl) (Or.inr rfl) (Or.inr rfl) (Or.inr rfl) (Or.inr rfl) (Or.inr rfl) (Or.inr rfl) (Or.inr rfl) (Or.inr rfl) (Or.inr rfl) (Or.inl (Comp.of hM (by decide))) (Or.inr rfl) (Or.inr rfl) (Or.inr rfl) (Or.inr rfl) (Or.inr rfl) (Or.inr rfl) (Or.inl (Comp.of hM (by decide))) (Or.inr rfl) (Or.inr rfl) (Or.inr rfl))

theorem only_linkCycle {cs : List Comp} {z s : State} (hK : Only cs z s) (hM : [.regs, .tim] ⊆ cs) :
    Only cs z (State.linkCycle s) := by
  unfold State.linkCycle
  try dsimp only
  repeat' first
    | with_reducible assumption
    | with_reducible apply only_setLink
    | with_reducible apply only_selectUp
    | with_reducible apply Only.forUpTo
    | with_reducible apply Only.ite
    | exact List.Subset.trans (by decide) hM
    | (intro _ _ _)
    | (intro _ _)
    | with_reducible refine Only.set_tim (Comp.of hM (by decide)) ?_

theorem only_cycleClear {cs : List Comp} {z s : State} (hK : Only cs z s) (hM : [.rng, .dpx, .bal] ⊆ cs) :
    Only cs z (State.cycleClear s) := by
  unfold State.cycleClear
  try dsimp only
  repeat' first
    | with_reducible assumption
    | exact List.Subset.trans (by decide) hM
    | (intro _ _ _)
    | (intro _ _)
    | with_reducible refine Only.set_rng (Comp.of hM (by decide)) ?_
    | with_reducible refine Only.set_dpx (Comp.of hM (by decide)) ?_
    | with_reducible refine Only.set_bal (Comp.of hM (by decide)) ?_
    | (with_reducible refine Only.upd ?_ (Or.inr rfl) (Or.inr rfl) (Or.inr rfl) (Or.inr rfl) (Or.inr rfl) (Or.inr rfl) (Or.inr rfl) (Or.inl (Comp.of hM (by decide))) (Or.inr rfl) (Or.inr rfl) (Or.inr rfl) (Or.inl (Comp.of hM (by decide))) (Or.inr rfl) (Or.inr rfl) (Or.inr rfl) (Or.inr rfl) (Or.inr rfl) (Or.inl (Comp.of hM (by decide))) (Or.inr rfl) (Or.inr rfl) (Or.inr rfl) (Or.inr rfl) (Or.inr rfl))

theorem only_boundaryOnce {cs : List Comp} {z s : State} (hK : Only cs z s) (bad : Bool) (hM : [.regs, .clk, .flash, .fuse, .img, .lnk, .rng, .tim, .pwm, .gd, .dpx, .flt, .eng, .adc, .bal, .saf, .sup, .raises, .out, .free] ⊆ cs) :
    Only cs z (State.boundaryOnce s bad) := by
  unfold State.boundaryOnce
  try dsimp only
  repeat' first
    | with_reducible assumption
    | with_reducible apply only_fullStep
    | with_reducible apply only_spliceStep
    | with_reducible apply only_unfoldAt
    | with_reducible apply only_applyStaged
    | with_reducible apply only_serveOrHold
    | with_reducible apply only_stationAtMember
    | with_reducible apply only_balMember
    | with_reducible apply only_swapCheck
    | with_reducible apply only_swapAtW
    | with_reducible apply only_promoteAtP
    | with_reducible apply only_clearAtHead
    | with_reducible apply only_swapAtBoundary
    | with_reducible apply only_resync
    | with_reducible apply only_offerBoundary
    | with_reducible apply only_batchBoundary
    | with_reducible apply only_batchReports
    | with_reducible apply only_safBoundary
    | with_reducible apply only_cycleClear
    | with_reducible apply only_linkCycle
    | with_reducible apply only_nbrSend
    | with_reducible apply only_raiseDue
    | with_reducible apply Only.wr
    | with_reducible apply Only.forUpTo
    | with_reducible apply Only.when
    | exact List.Subset.trans (by decide) hM
    | (intro _ _ _)
    | (intro _ _)
    | with_reducible refine Only.set_clk (Comp.of hM (by decide)) ?_
    | with_reducible refine Only.set_tim (Comp.of hM (by decide)) ?_
    | (with_reducible refine Only.upd ?_ (Or.inr rfl) (Or.inr rfl) (Or.inl (Comp.of hM (by decide))) (Or.inr rfl) (Or.inr rfl) (Or.inr rfl) (Or.inr rfl) (Or.inr rfl) (Or.inl (Comp.of hM (by decide))) (Or.inr rfl) (Or.inr rfl) (Or.inr rfl) (Or.inr rfl) (Or.inr rfl) (Or.inr rfl) (Or.inr rfl) (Or.inr rfl) (Or.inr rfl) (Or.inr rfl) (Or.inr rfl) (Or.inr rfl) (Or.inr rfl) (Or.inr rfl))

theorem only_takeEarly {cs : List Comp} {z s : State} (hK : Only cs z s) (typ : Nat) {f : Arrival → State → State}
    (hf : ∀ a b, Only cs z b → Only cs z (f a b)) (hM : [.rng] ⊆ cs) : Only cs z (State.takeEarly s typ f) :=
  only_takeAllRx hK _ hf hM

theorem only_cycleBoundary {cs : List Comp} {z s : State} (hK : Only cs z s) (bad : Bool) (hM : [.regs, .sys, .clk, .flash, .fuse, .img, .lnk, .rng, .tim, .pwm, .gd, .dpx, .flt, .eng, .adc, .bal, .saf, .sup, .raises, .out, .free] ⊆ cs) :
    Only cs z (State.cycleBoundary s bad) := by
  unfold State.cycleBoundary
  try dsimp only
  repeat' first
    | with_reducible assumption
    | with_reducible apply only_runTo
    | with_reducible apply only_takeEarly
    | with_reducible apply only_hbReceived
    | with_reducible apply only_dnReceived
    | with_reducible apply only_boundaryOnce
    | exact List.Subset.trans (by decide) hM
    | (intro _ _ _)
    | (intro _ _)

theorem only_admission {cs : List Comp} {z s : State} (hK : Only cs z s) (req : AdmissionIn)
    (hM : [.regs, .mem, .sys, .clk, .flash, .fuse, .img, .lnk, .rng, .tim, .pwm, .gd, .dpx, .flt, .eng, .adc, .memx, .thm, .bal, .saf, .sup, .mbx, .mtr, .raises, .out, .free] ⊆ cs) : Only cs z (s.admission req) := by
  unfold State.admission
  split
  · exact only_admRequest hK _ _ _ _ _ _ _ (List.Subset.trans (by decide) hM)
  · exact only_admGranted hK _ _ _ _ _ _ (List.Subset.trans (by decide) hM)
  · exact only_admDenied hK _ _ _ (List.Subset.trans (by decide) hM)

theorem only_takePassed {cs : List Comp} {z s : State} (hK : Only cs z s) (n : Nat) (hM : [.regs, .clk, .flash, .fuse, .img, .lnk, .rng, .tim, .pwm, .gd, .dpx, .flt, .eng, .adc, .bal, .saf, .sup, .raises, .out, .free] ⊆ cs) :
    Only cs z (State.takePassed n s) := by
  induction n generalizing s with
  | zero => exact hK
  | succ n ih => exact Only.ite (ih (only_boundaryOnce hK _ hM)) hK

theorem only_stepTime {cs : List Comp} {z s : State} (hK : Only cs z s) (theta : Frac) (hM : [.regs, .clk, .flash, .fuse, .img, .lnk, .rng, .tim, .pwm, .gd, .dpx, .flt, .eng, .adc, .bal, .saf, .sup, .raises, .out, .free] ⊆ cs) :
    Only cs z (State.stepTime s theta) := by
  have ht : ∀ {x : TimSt}, Only cs z { s with tim := x } := Only.set_tim (Comp.of hM (by decide)) hK
  unfold State.stepTime
  dsimp only
  repeat' first
    | with_reducible assumption
    | exact ht
    | with_reducible apply Only.ite
    | with_reducible apply only_carriersMoved
    | with_reducible apply only_takePassed
    | with_reducible apply only_tpoStep
    | with_reducible apply Only.forUpTo
    | with_reducible apply only_wrapped
    | exact List.Subset.trans (by decide) hM
    | (intro _ _ _)

theorem only_servoUpdate {cs : List Comp} {z s : State} (hK : Only cs z s) (theta t : Frac) (kp ki : Nat) (hM : [.regs, .clk, .tim, .pwm, .gd, .flt, .out] ⊆ cs) :
    Only cs z (State.servoUpdate s theta t kp ki) := by
  unfold State.servoUpdate
  try dsimp only
  repeat' first
    | with_reducible assumption
    | with_reducible apply only_setY
    | with_reducible apply only_raise
    | with_reducible apply Only.when
    | with_reducible apply Only.ite
    | exact List.Subset.trans (by decide) hM
    | (intro _ _ _)
    | (intro _ _)
    | with_reducible refine Only.set_tim (Comp.of hM (by decide)) ?_

theorem only_servoCount {cs : List Comp} {z s : State} (hK : Only cs z s) (theta : Frac) (hM : [.regs, .clk, .flash, .fuse, .img, .tim, .pwm, .gd, .flt, .out] ⊆ cs) :
    Only cs z (State.servoCount s theta) := by
  unfold State.servoCount
  try dsimp only
  repeat' first
    | with_reducible assumption
    | with_reducible apply only_setServo
    | with_reducible apply only_raise
    | with_reducible apply Only.when
    | with_reducible apply Only.ite
    | exact List.Subset.trans (by decide) hM
    | (intro _ _ _)
    | (intro _ _)
    | with_reducible refine Only.set_tim (Comp.of hM (by decide)) ?_

theorem only_servoStep {cs : List Comp} {z s : State} (hK : Only cs z s) (theta t : Frac) (kp ki : Nat) (host : Bool) (hM : [.regs, .clk, .flash, .fuse, .img, .lnk, .rng, .tim, .pwm, .gd, .dpx, .flt, .eng, .adc, .bal, .saf, .sup, .raises, .out, .free] ⊆ cs) :
    Only cs z (State.servoStep s theta t kp ki host) := by
  unfold State.servoStep
  try dsimp only
  repeat' first
    | with_reducible assumption
    | with_reducible apply only_setServo
    | with_reducible apply only_setY
    | with_reducible apply only_stepTime
    | with_reducible apply only_servoUpdate
    | with_reducible apply only_servoCount
    | with_reducible apply Only.ite
    | exact List.Subset.trans (by decide) hM
    | (intro _ _ _)
    | (intro _ _)

theorem only_chainCheck {cs : List Comp} {z s : State} (hK : Only cs z s) (hM : [.regs, .clk, .lnk, .tim, .pwm, .gd, .flt, .bal, .out] ⊆ cs) :
    Only cs z (State.chainCheck s) := by
  unfold State.chainCheck
  try dsimp only
  repeat' first
    | with_reducible assumption
    | with_reducible apply only_raise
    | with_reducible apply only_leaveService
    | with_reducible apply Only.when
    | exact List.Subset.trans (by decide) hM
    | (intro _ _ _)
    | (intro _ _)

theorem only_linkMeasurement {cs : List Comp} {z s : State} (hK : Only cs z s) (p : Nat) (hM : [.regs, .clk, .flash, .fuse, .img, .lnk, .rng, .tim, .pwm, .gd, .dpx, .flt, .eng, .adc, .bal, .saf, .sup, .raises, .out, .free] ⊆ cs) :
    Only cs z (State.linkMeasurement s p) := by
  unfold State.linkMeasurement
  try dsimp only
  repeat' first
    | with_reducible assumption
    | with_reducible apply only_wrN
    | with_reducible apply only_setLink
    | with_reducible apply only_selectUp
    | with_reducible apply only_setChain
    | with_reducible apply only_servoStep
    | with_reducible apply only_setFlag
    | with_reducible apply only_chainCheck
    | with_reducible apply Only.when
    | with_reducible apply Only.ite
    | exact List.Subset.trans (by decide) hM
    | (intro _ _ _)
    | (intro _ _)
    | split
    | with_reducible refine Only.set_tim (Comp.of hM (by decide)) ?_

theorem only_offsetWrite {cs : List Comp} {z s : State} (hK : Only cs z s) (v : Nat) (hM : [.regs, .clk, .flash, .fuse, .img, .lnk, .rng, .tim, .pwm, .gd, .dpx, .flt, .eng, .adc, .bal, .saf, .sup, .raises, .out, .free] ⊆ cs) :
    Only cs z (State.offsetWrite s v) := by
  unfold State.offsetWrite
  try dsimp only
  repeat' first
    | with_reducible assumption
    | with_reducible apply only_setFlag
    | with_reducible apply only_hostBack
    | with_reducible apply only_servoStep
    | with_reducible apply Only.ite
    | exact List.Subset.trans (by decide) hM
    | (intro _ _ _)
    | (intro _ _)
    | with_reducible refine Only.set_tim (Comp.of hM (by decide)) ?_

theorem only_setMtrAcc {cs : List Comp} {z s : State} (hK : Only cs z s) (k : Nat) (v : MtrAcc) (hM : [.mtr] ⊆ cs) :
    Only cs z (State.setMtrAcc s k v) := by
  unfold State.setMtrAcc
  try dsimp only
  repeat' first
    | with_reducible assumption
    | exact List.Subset.trans (by decide) hM
    | (intro _ _ _)
    | (intro _ _)
    | with_reducible refine Only.set_mtr (Comp.of hM (by decide)) ?_

theorem only_setPls {cs : List Comp} {z s : State} (hK : Only cs z s) (n : Nat) (v : PlsSt) (hM : [.mtr] ⊆ cs) :
    Only cs z (State.setPls s n v) := by
  unfold State.setPls
  try dsimp only
  repeat' first
    | with_reducible assumption
    | exact List.Subset.trans (by decide) hM
    | (intro _ _ _)
    | (intro _ _)
    | with_reducible refine Only.set_mtr (Comp.of hM (by decide)) ?_

theorem only_setDfc {cs : List Comp} {z s : State} (hK : Only cs z s) (n : Nat) (v : DfcSt) (hM : [.mtr] ⊆ cs) :
    Only cs z (State.setDfc s n v) := by
  unfold State.setDfc
  try dsimp only
  repeat' first
    | with_reducible assumption
    | exact List.Subset.trans (by decide) hM
    | (intro _ _ _)
    | (intro _ _)
    | with_reducible refine Only.set_mtr (Comp.of hM (by decide)) ?_

theorem only_cycleEnd {cs : List Comp} {z s : State} (hK : Only cs z s) (hM : [.regs, .mtr, .free] ⊆ cs) :
    Only cs z (State.cycleEnd s) := by
  unfold State.cycleEnd
  try dsimp only
  repeat' first
    | with_reducible assumption
    | with_reducible apply only_wrN
    | with_reducible apply Only.wr
    | with_reducible apply Only.useMany
    | with_reducible apply Only.foldlFst
    | with_reducible apply Only.foldl
    | with_reducible apply Only.forUpTo
    | with_reducible apply Only.when
    | with_reducible apply Only.ite
    | exact List.Subset.trans (by decide) hM
    | (intro _ _ _)
    | (intro _ _)
    | with_reducible refine Only.set_mtr (Comp.of hM (by decide)) ?_

theorem only_track {cs : List Comp} {z s : State} (hK : Only cs z s) (crossing : Bool) (hM : [.regs, .clk, .tim, .pwm, .gd, .flt, .mtr, .out] ⊆ cs) :
    Only cs z (State.track s crossing).1 := by
  unfold State.track
  try dsimp only
  repeat' first
    | with_reducible assumption
    | with_reducible apply only_put
    | with_reducible apply only_setFlag
    | with_reducible apply only_raise
    | with_reducible apply Only.when
    | with_reducible apply Only.iteFst
    | with_reducible apply Only.ite
    | exact List.Subset.trans (by decide) hM
    | (intro _ _ _)
    | (intro _ _)
    | split
    | with_reducible refine Only.set_mtr (Comp.of hM (by decide)) ?_

theorem only_dfcSample {cs : List Comp} {z s : State} (hK : Only cs z s) (n e : Nat) (hM : [.regs, .clk, .tim, .pwm, .gd, .flt, .mtr, .out] ⊆ cs) :
    Only cs z (State.dfcSample s n e) := by
  unfold State.dfcSample
  try dsimp only
  repeat' first
    | with_reducible assumption
    | with_reducible apply only_setFlag
    | with_reducible apply only_raise
    | with_reducible apply only_setDfc
    | with_reducible apply Only.emit
    | with_reducible apply Only.when
    | with_reducible apply Only.ite
    | exact List.Subset.trans (by decide) hM
    | (intro _ _ _)
    | (intro _ _)

theorem only_elemSample {cs : List Comp} {z s : State} (hK : Only cs z s) (x : Nat → Nat) (dt : Nat) (h : Nat) (e : Nat) (hM : [.mtr] ⊆ cs) :
    Only cs z (State.elemSample s x dt h e) := by
  unfold State.elemSample
  try dsimp only
  repeat' first
    | with_reducible assumption
    | with_reducible apply Only.ite
    | exact List.Subset.trans (by decide) hM
    | (intro _ _ _)
    | (intro _ _)
    | with_reducible refine Only.set_mtr (Comp.of hM (by decide)) ?_

theorem only_overload {cs : List Comp} {z s : State} (hK : Only cs z s) (n : Nat) (full : Bool) (hM : [.regs, .clk, .tim, .pwm, .gd, .flt, .mtr, .out] ⊆ cs) :
    Only cs z (State.overload s n full) := by
  unfold State.overload
  try dsimp only
  repeat' first
    | with_reducible assumption
    | with_reducible apply only_put
    | with_reducible apply only_raise
    | with_reducible apply Only.when
    | exact List.Subset.trans (by decide) hM
    | (intro _ _ _)
    | (intro _ _)
    | with_reducible refine Only.set_mtr (Comp.of hM (by decide)) ?_

theorem only_meterTrack {cs : List Comp} {z s : State} (hK : Only cs z s) (crossing : Bool) (hM : [.regs, .clk, .tim, .pwm, .gd, .flt, .mtr, .out, .free] ⊆ cs) :
    Only cs z (State.meterTrack s crossing) := by
  unfold State.meterTrack
  try dsimp only
  repeat' first
    | with_reducible assumption
    | with_reducible apply only_track
    | with_reducible apply only_cycleEnd
    | with_reducible apply Only.when
    | with_reducible apply Only.iteFst
    | with_reducible apply Only.ite
    | exact List.Subset.trans (by decide) hM
    | (intro _ _ _)
    | (intro _ _)

theorem only_overloads {cs : List Comp} {z s : State} (hK : Only cs z s) (codes : List Int) (hM : [.regs, .clk, .tim, .pwm, .gd, .flt, .mtr, .out] ⊆ cs) :
    Only cs z (State.overloads s codes) := by
  unfold State.overloads
  try dsimp only
  repeat' first
    | with_reducible assumption
    | with_reducible apply only_overload
    | with_reducible apply Only.forUpTo
    | with_reducible apply Only.when
    | exact List.Subset.trans (by decide) hM
    | (intro _ _ _)
    | (intro _ _)

theorem only_meterSums {cs : List Comp} {z s : State} (hK : Only cs z s) (x h : Nat → Nat) (dt : Nat) (hM : [.mtr] ⊆ cs) :
    Only cs z (State.meterSums s x h dt) := by
  unfold State.meterSums
  try dsimp only
  repeat' first
    | with_reducible assumption
    | with_reducible apply only_elemSample
    | with_reducible apply Only.forUpTo
    | with_reducible apply Only.when
    | exact List.Subset.trans (by decide) hM
    | (intro _ _ _)
    | (intro _ _)
    | with_reducible refine Only.set_mtr (Comp.of hM (by decide)) ?_

theorem only_sampleDue {cs : List Comp} {z s : State} (hK : Only cs z s) (hM : [.regs, .sys, .clk, .tim, .pwm, .gd, .flt, .sup, .mtr, .out] ⊆ cs) :
    Only cs z (State.sampleDue s) := by
  unfold State.sampleDue
  try dsimp only
  repeat' first
    | with_reducible assumption
    | with_reducible apply only_runUp
    | exact List.Subset.trans (by decide) hM
    | (intro _ _ _)
    | (intro _ _)
    | with_reducible refine Only.set_mtr (Comp.of hM (by decide)) ?_

theorem only_meterSample {cs : List Comp} {z s0 : State} (hK : Only cs z s0) (codes : List Int) (crossing : Bool) (hM : [.regs, .sys, .clk, .tim, .pwm, .gd, .flt, .sup, .mtr, .out, .free] ⊆ cs) :
    Only cs z (State.meterSample s0 codes crossing) := by
  unfold State.meterSample
  try dsimp only
  repeat' first
    | with_reducible assumption
    | with_reducible apply only_sampleDue
    | with_reducible apply only_meterTrack
    | with_reducible apply only_overloads
    | with_reducible apply only_meterSums
    | with_reducible apply only_dfcSample
    | with_reducible apply only_cycleEnd
    | with_reducible apply Only.useMany
    | with_reducible apply Only.forUpTo
    | with_reducible apply Only.when
    | with_reducible apply Only.ite
    | exact List.Subset.trans (by decide) hM
    | (intro _ _ _)
    | (intro _ _)
    | with_reducible refine Only.set_mtr (Comp.of hM (by decide)) ?_

theorem only_norefEnd {cs : List Comp} {z s : State} (hK : Only cs z s) (hM : [.regs, .sys, .clk, .tim, .pwm, .gd, .flt, .sup, .mtr, .out, .free] ⊆ cs) :
    Only cs z (State.norefEnd s) := by
  unfold State.norefEnd
  try dsimp only
  repeat' first
    | with_reducible assumption
    | with_reducible apply only_runAhead
    | with_reducible apply only_cycleEnd
    | with_reducible apply Only.when
    | with_reducible apply Only.ite
    | exact List.Subset.trans (by decide) hM
    | (intro _ _ _)
    | (intro _ _)

theorem only_accAdd {cs : List Comp} {z s : State} (hK : Only cs z s) (k : Nat) (inc : Frac) (hM : [.regs, .mtr] ⊆ cs) :
    Only cs z (State.accAdd s k inc) := by
  unfold State.accAdd
  try dsimp only
  repeat' first
    | with_reducible assumption
    | with_reducible apply only_setMtrAcc
    | with_reducible apply only_wrN
    | exact List.Subset.trans (by decide) hM
    | (intro _ _ _)
    | (intro _ _)

theorem only_plsUpdate {cs : List Comp} {z s : State} (hK : Only cs z s) (incs : List (Nat × Frac)) (n : Nat) (hM : [.regs, .clk, .tim, .pwm, .gd, .flt, .mtr, .out] ⊆ cs) :
    Only cs z (State.plsUpdate s incs n) := by
  unfold State.plsUpdate
  try dsimp only
  repeat' first
    | with_reducible assumption
    | with_reducible apply only_setPls
    | with_reducible apply only_setFlag
    | with_reducible apply only_raise
    | with_reducible apply Only.foldlFst
    | with_reducible apply Only.foldl
    | with_reducible apply Only.when
    | with_reducible apply Only.iteFst
    | with_reducible apply Only.ite
    | exact List.Subset.trans (by decide) hM
    | (intro _ _ _)
    | (intro _ _)

theorem only_accDiffer {cs : List Comp} {z s : State} (hK : Only cs z s) (hM : [.regs, .clk, .tim, .pwm, .gd, .flt, .out] ⊆ cs) :
    Only cs z (State.accDiffer s) := by
  unfold State.accDiffer
  try dsimp only
  repeat' first
    | with_reducible assumption
    | with_reducible apply only_setFlag
    | with_reducible apply only_raise
    | with_reducible apply Only.when
    | exact List.Subset.trans (by decide) hM
    | (intro _ _ _)
    | (intro _ _)

theorem only_accCheck {cs : List Comp} {z s : State} (hK : Only cs z s) (hM : [.regs, .clk, .tim, .pwm, .gd, .flt, .out] ⊆ cs) :
    Only cs z (State.accCheck s) := by
  unfold State.accCheck
  try dsimp only
  repeat' first
    | with_reducible assumption
    | with_reducible apply only_accDiffer
    | with_reducible apply Only.when
    | exact List.Subset.trans (by decide) hM
    | (intro _ _ _)
    | (intro _ _)

theorem only_accUpset {cs : List Comp} {z s : State} (hK : Only cs z s) (k : Nat) (bits : BitVec 64) (hM : [.mtr] ⊆ cs) :
    Only cs z (State.accUpset s k bits) := by
  unfold State.accUpset
  try dsimp only
  repeat' first
    | with_reducible assumption
    | with_reducible apply only_setMtrAcc
    | exact List.Subset.trans (by decide) hM
    | (intro _ _ _)
    | (intro _ _)

theorem only_accUpdate {cs : List Comp} {z s : State} (hK : Only cs z s) (hM : [.regs, .clk, .tim, .pwm, .gd, .flt, .mtr, .out] ⊆ cs) :
    Only cs z (State.accUpdate s) := by
  unfold State.accUpdate
  try dsimp only
  repeat' first
    | with_reducible assumption
    | with_reducible apply only_accCheck
    | with_reducible apply only_setMtrAcc
    | with_reducible apply only_accAdd
    | with_reducible apply only_plsUpdate
    | with_reducible apply Only.foldlFst
    | with_reducible apply Only.foldl
    | with_reducible apply Only.forUpTo
    | exact List.Subset.trans (by decide) hM
    | (intro _ _ _)
    | (intro _ _)
    | split
    | with_reducible refine Only.set_mtr (Comp.of hM (by decide)) ?_

theorem only_accRead {cs : List Comp} {z s : State} (hK : Only cs z s) (k : Nat) (hM : [.regs, .clk, .tim, .pwm, .gd, .flt, .out] ⊆ cs) :
    Only cs z (State.accRead s k) := by
  unfold State.accRead
  try dsimp only
  repeat' first
    | with_reducible assumption
    | with_reducible apply only_wrN
    | with_reducible apply only_accDiffer
    | with_reducible apply Only.when
    | exact List.Subset.trans (by decide) hM
    | (intro _ _ _)
    | (intro _ _)

theorem only_pulseEmit {cs : List Comp} {z s0 : State} (hK : Only cs z s0) (n : Nat) (hM : [.regs, .sys, .clk, .tim, .pwm, .gd, .flt, .sup, .mtr, .out] ⊆ cs) :
    Only cs z (State.pulseEmit s0 n) := by
  unfold State.pulseEmit
  try dsimp only
  repeat' first
    | with_reducible assumption
    | with_reducible apply only_runUp
    | with_reducible apply only_setPls
    | with_reducible apply Only.emit
    | with_reducible apply Only.when
    | exact List.Subset.trans (by decide) hM
    | (intro _ _ _)
    | (intro _ _)

theorem only_plsEnd {cs : List Comp} {z s0 : State} (hK : Only cs z s0) (n : Nat) (hM : [.regs, .sys, .clk, .tim, .pwm, .gd, .flt, .sup, .mtr, .out] ⊆ cs) :
    Only cs z (State.plsEnd s0 n) := by
  unfold State.plsEnd
  try dsimp only
  repeat' first
    | with_reducible assumption
    | with_reducible apply only_runUp
    | with_reducible apply only_setPls
    | with_reducible apply Only.when
    | exact List.Subset.trans (by decide) hM
    | (intro _ _ _)
    | (intro _ _)

theorem only_plsWrite {cs : List Comp} {z s : State} (hK : Only cs z s) (n : Nat) (wgt : Bool) (v : Nat) (hM : [.regs, .mtr] ⊆ cs) :
    Only cs z (State.plsWrite s n wgt v) := by
  unfold State.plsWrite
  try dsimp only
  repeat' first
    | with_reducible assumption
    | with_reducible apply only_wrN
    | with_reducible apply only_setPls
    | with_reducible apply Only.when
    | with_reducible apply Only.ite
    | exact List.Subset.trans (by decide) hM
    | (intro _ _ _)
    | (intro _ _)

theorem only_snapshot {cs : List Comp} {z s0 : State} (hK : Only cs z s0) (hM : [.regs, .clk, .tim, .pwm, .gd, .flt, .out] ⊆ cs) :
    Only cs z (State.snapshot s0) := by
  unfold State.snapshot
  try dsimp only
  repeat' first
    | with_reducible assumption
    | with_reducible apply only_accCheck
    | with_reducible apply only_wrN
    | with_reducible apply Only.wr
    | with_reducible apply Only.forUpTo
    | exact List.Subset.trans (by decide) hM
    | (intro _ _ _)
    | (intro _ _)

theorem only_sigWords {cs : List Comp} {z s : State} (hK : Only cs z s) (ofs : Nat) (b : List Byte) (hM : [.regs] ⊆ cs) :
    Only cs z (State.sigWords s ofs b) := by
  unfold State.sigWords
  try dsimp only
  repeat' first
    | with_reducible assumption
    | with_reducible apply only_wrAll
    | exact List.Subset.trans (by decide) hM
    | (intro _ _ _)
    | (intro _ _)

theorem only_signStart {cs : List Comp} {z s : State} (hK : Only cs z s) (hM : [.regs, .clk, .tim, .pwm, .gd, .flt, .mtr, .out] ⊆ cs) :
    Only cs z (State.signStart s) := by
  unfold State.signStart
  try dsimp only
  repeat' first
    | with_reducible assumption
    | with_reducible apply only_snapshot
    | with_reducible apply only_sigWords
    | with_reducible apply only_setFlag
    | exact List.Subset.trans (by decide) hM
    | (intro _ _ _)
    | (intro _ _)
    | split
    | with_reducible refine Only.set_mtr (Comp.of hM (by decide)) ?_

theorem only_signQueue {cs : List Comp} {z s : State} (hK : Only cs z s) (j : SignJob) (hM : [.regs, .sys, .clk, .tim, .pwm, .gd, .flt, .sup, .mtr, .out] ⊆ cs) :
    Only cs z (State.signQueue s j) := by
  unfold State.signQueue
  try dsimp only
  repeat' first
    | with_reducible assumption
    | with_reducible apply only_idle
    | with_reducible apply only_signStart
    | with_reducible apply Only.when
    | exact List.Subset.trans (by decide) hM
    | (intro _ _ _)
    | (intro _ _)
    | with_reducible refine Only.set_mtr (Comp.of hM (by decide)) ?_

theorem only_signNext {cs : List Comp} {z s : State} (hK : Only cs z s) (hM : [.regs, .clk, .tim, .pwm, .gd, .flt, .mtr, .out] ⊆ cs) :
    Only cs z (State.signNext s) := by
  unfold State.signNext
  try dsimp only
  repeat' first
    | with_reducible assumption
    | with_reducible apply only_signStart
    | exact List.Subset.trans (by decide) hM
    | (intro _ _ _)
    | (intro _ _)
    | with_reducible refine Only.set_mtr (Comp.of hM (by decide)) ?_

theorem only_signWrite {cs : List Comp} {z s : State} (hK : Only cs z s) (hM : [.regs, .sys, .clk, .tim, .pwm, .gd, .flt, .sup, .mtr, .out] ⊆ cs) :
    Only cs z (State.signWrite s) := by
  unfold State.signWrite
  try dsimp only
  repeat' first
    | with_reducible assumption
    | with_reducible apply only_signQueue
    | with_reducible apply only_setFlag
    | with_reducible apply Only.ite
    | exact List.Subset.trans (by decide) hM
    | (intro _ _ _)
    | (intro _ _)

theorem only_autoSnapshot {cs : List Comp} {z s0 : State} (hK : Only cs z s0) (hM : [.regs, .sys, .clk, .tim, .pwm, .gd, .flt, .sup, .mtr, .out] ⊆ cs) :
    Only cs z (State.autoSnapshot s0) := by
  unfold State.autoSnapshot
  try dsimp only
  repeat' first
    | with_reducible assumption
    | with_reducible apply only_setFlag
    | with_reducible apply only_signQueue
    | with_reducible apply Only.when
    | with_reducible apply Only.ite
    | exact List.Subset.trans (by decide) hM
    | (intro _ _ _)
    | (intro _ _)
    | with_reducible refine Only.set_mtr (Comp.of hM (by decide)) ?_

theorem only_signWith {cs : List Comp} {z s : State} (hK : Only cs z s) (id m : List Byte) (hM : [.free] ⊆ cs) :
    Only cs z (State.signWith s id m).1 := by
  unfold State.signWith
  try dsimp only
  repeat' first
    | with_reducible assumption
    | with_reducible apply Only.useFree
    | exact List.Subset.trans (by decide) hM
    | (intro _ _ _)
    | (intro _ _)

theorem only_recordSigned {cs : List Comp} {z s : State} (hK : Only cs z s) (auto : Bool) (hM : [.regs, .clk, .rng, .tim, .pwm, .gd, .flt, .sup, .out, .free] ⊆ cs) :
    Only cs z (State.recordSigned s auto) := by
  unfold State.recordSigned
  try dsimp only
  repeat' first
    | with_reducible assumption
    | with_reducible apply only_signWith
    | with_reducible apply only_sigWords
    | with_reducible apply only_setFlag
    | with_reducible apply only_report
    | with_reducible apply only_relay
    | with_reducible apply Only.when
    | with_reducible apply Only.iteFst
    | with_reducible apply Only.ite
    | exact List.Subset.trans (by decide) hM
    | (intro _ _ _)
    | (intro _ _)

end Sys2Proof.Machine
end

