-- ==== Sys2Proof/Laws/OnlyPort.lean ====
section
/-! SUPPORT. Laws/OnlyPort.lean: which components of the state each operation of Machine/Mailbox.lean, Machine/Session.lean, Machine/Access.lean, Machine/Supervisory.lean, Machine/Remote.lean may change. -/
namespace Sys2Proof.Machine
set_option Elab.async false

theorem only_respond {cs : List Comp} {z s : State} (hK : Only cs z s) (r : Req) (status : Nat) (body : List Byte) (hM : [.regs, .out] ⊆ cs) :
    Only cs z (State.respond s r status body) := by
  unfold State.respond
  try dsimp only
  repeat' first
    | with_reducible assumption
    | with_reducible apply only_toHost
    | with_reducible apply Only.when
    | exact List.Subset.trans (by decide) hM
    | (intro _ _ _)
    | (intro _ _)

theorem only_mbxTo {cs : List Comp} {z s : State} (hK : Only cs z s) (n : Nat) (full : Bool) (hM : [.regs, .mbx] ⊆ cs) :
    Only cs z (State.mbxTo s n full) := by
  unfold State.mbxTo
  try dsimp only
  repeat' first
    | with_reducible assumption
    | with_reducible apply only_setFlag
    | with_reducible apply Only.iteFst
    | with_reducible apply Only.ite
    | exact List.Subset.trans (by decide) hM
    | (intro _ _ _)
    | (intro _ _)
    | with_reducible refine Only.set_mbx (Comp.of hM (by decide)) ?_

theorem only_mbxError {cs : List Comp} {z s : State} (hK : Only cs z s) (n : Nat) (hM : [.regs, .clk, .tim, .pwm, .gd, .flt, .mbx, .out] ⊆ cs) :
    Only cs z (State.mbxError s n) := by
  unfold State.mbxError
  try dsimp only
  repeat' first
    | with_reducible assumption
    | with_reducible apply only_setFlag
    | with_reducible apply only_bump
    | with_reducible apply only_raise
    | with_reducible apply Only.ite
    | exact List.Subset.trans (by decide) hM
    | (intro _ _ _)
    | (intro _ _)
    | with_reducible refine Only.set_mbx (Comp.of hM (by decide)) ?_

theorem only_mbxIrq {cs : List Comp} {z s : State} (hK : Only cs z s) (n : Nat) (full : Bool) (hM : [.regs, .out] ⊆ cs) :
    Only cs z (State.mbxIrq s n full) := by
  unfold State.mbxIrq
  try dsimp only
  repeat' first
    | with_reducible assumption
    | with_reducible apply only_wrN
    | with_reducible apply Only.emit
    | with_reducible apply Only.when
    | with_reducible apply Only.ite
    | exact List.Subset.trans (by decide) hM
    | (intro _ _ _)
    | (intro _ _)

theorem only_mbxFree {cs : List Comp} {z s : State} (hK : Only cs z s) (n : Nat) (hM : [.regs, .rng, .mbx, .out] ⊆ cs) :
    Only cs z (State.mbxFree s n) := by
  unfold State.mbxFree
  try dsimp only
  repeat' first
    | with_reducible assumption
    | with_reducible apply only_mbxTo
    | with_reducible apply only_mbxIrq
    | with_reducible apply only_bulkSend
    | exact List.Subset.trans (by decide) hM
    | (intro _ _ _)
    | (intro _ _)
    | split
    | with_reducible refine Only.set_mbx (Comp.of hM (by decide)) ?_

theorem only_mbxNotice {cs : List Comp} {z s : State} (hK : Only cs z s) (n : Nat) (hM : [.regs, .rng, .sup, .mbx, .out] ⊆ cs) :
    Only cs z (State.mbxNotice s n) := by
  unfold State.mbxNotice
  try dsimp only
  repeat' first
    | with_reducible assumption
    | with_reducible apply only_mbxIrq
    | with_reducible apply only_setSess
    | with_reducible apply only_mbxFree
    | with_reducible apply only_respond
    | with_reducible apply only_bulkSend
    | exact List.Subset.trans (by decide) hM
    | (intro _ _ _)
    | (intro _ _)
    | split
    | with_reducible refine Only.set_mbx (Comp.of hM (by decide)) ?_

theorem only_mbxPost {cs : List Comp} {z s : State} (hK : Only cs z s) (n len : Nat) (hM : [.regs, .rng, .sup, .mbx, .out] ⊆ cs) :
    Only cs z (State.mbxPost s n len) := by
  unfold State.mbxPost
  try dsimp only
  repeat' first
    | with_reducible assumption
    | with_reducible apply only_mbxTo
    | with_reducible apply only_put
    | with_reducible apply only_mbxNotice
    | exact List.Subset.trans (by decide) hM
    | (intro _ _ _)
    | (intro _ _)
    | with_reducible refine Only.set_mbx (Comp.of hM (by decide)) ?_

theorem only_mbxData {cs : List Comp} {z s : State} (hK : Only cs z s) (m : Master) (n i : Nat) (v : Word) (hM : [.regs, .clk, .tim, .pwm, .gd, .flt, .mbx, .out] ⊆ cs) :
    Only cs z (State.mbxData s m n i v).1 := by
  unfold State.mbxData
  try dsimp only
  repeat' first
    | with_reducible assumption
    | with_reducible apply only_mbxError
    | with_reducible apply Only.wr
    | with_reducible apply Only.iteFst
    | with_reducible apply Only.ite
    | exact List.Subset.trans (by decide) hM
    | (intro _ _ _)
    | (intro _ _)

theorem only_mbxGo {cs : List Comp} {z s : State} (hK : Only cs z s) (m : Master) (n len : Nat) (hM : [.regs, .clk, .rng, .tim, .pwm, .gd, .flt, .sup, .mbx, .out] ⊆ cs) :
    Only cs z (State.mbxGo s m n len).1 := by
  unfold State.mbxGo
  try dsimp only
  repeat' first
    | with_reducible assumption
    | with_reducible apply only_mbxError
    | with_reducible apply only_mbxPost
    | with_reducible apply Only.iteFst
    | with_reducible apply Only.ite
    | exact List.Subset.trans (by decide) hM
    | (intro _ _ _)
    | (intro _ _)

theorem only_mbxTake {cs : List Comp} {z s : State} (hK : Only cs z s) (m : Master) (n : Nat) (hM : [.regs, .rng, .mbx, .out] ⊆ cs) :
    Only cs z (State.mbxTake s m n).1 := by
  unfold State.mbxTake
  try dsimp only
  repeat' first
    | with_reducible assumption
    | with_reducible apply only_mbxFree
    | with_reducible apply only_bump
    | with_reducible apply Only.iteFst
    | with_reducible apply Only.ite
    | exact List.Subset.trans (by decide) hM
    | (intro _ _ _)
    | (intro _ _)

theorem only_mbxCtrl {cs : List Comp} {z s : State} (hK : Only cs z s) (m : Master) (n : Nat) (v : Nat) (hM : [.regs, .clk, .rng, .tim, .pwm, .gd, .flt, .sup, .mbx, .out] ⊆ cs) :
    Only cs z (State.mbxCtrl s m n v).1 := by
  unfold State.mbxCtrl
  try dsimp only
  repeat' first
    | with_reducible assumption
    | with_reducible apply only_mbxGo
    | with_reducible apply only_mbxTake
    | with_reducible apply Only.iteFst
    | with_reducible apply Only.ite
    | exact List.Subset.trans (by decide) hM
    | (intro _ _ _)
    | (intro _ _)

theorem only_deliver {cs : List Comp} {z s : State} (hK : Only cs z s) (src : Nat) (data : List Byte) (hM : [.regs, .clk, .rng, .tim, .pwm, .gd, .flt, .sup, .mbx, .out] ⊆ cs) :
    Only cs z (State.deliver s src data) := by
  unfold State.deliver
  try dsimp only
  repeat' first
    | with_reducible assumption
    | with_reducible apply only_wrN
    | with_reducible apply only_mbxPost
    | with_reducible apply only_bulkSend
    | with_reducible apply only_raise
    | with_reducible apply Only.forUpTo
    | with_reducible apply Only.ite
    | exact List.Subset.trans (by decide) hM
    | (intro _ _ _)
    | (intro _ _)

theorem only_mbxReturn {cs : List Comp} {z s : State} (hK : Only cs z s) (src : Nat) (data : List Byte) (nack : Bool) (hM : [.regs, .rng, .mbx, .out] ⊆ cs) :
    Only cs z (State.mbxReturn s src data nack) := by
  unfold State.mbxReturn
  try dsimp only
  repeat' first
    | with_reducible assumption
    | with_reducible apply only_setFlag
    | with_reducible apply only_mbxFree
    | with_reducible apply only_bumpReg
    | with_reducible apply Only.when
    | with_reducible apply Only.ite
    | exact List.Subset.trans (by decide) hM
    | (intro _ _ _)
    | (intro _ _)

theorem only_mbxMessage {cs : List Comp} {z s : State} (hK : Only cs z s) (src : Nat) (data : List Byte) (hM : [.regs, .clk, .rng, .tim, .pwm, .gd, .flt, .sup, .mbx, .out] ⊆ cs) :
    Only cs z (State.mbxMessage s src data) := by
  unfold State.mbxMessage
  try dsimp only
  repeat' first
    | with_reducible assumption
    | with_reducible apply only_deliver
    | with_reducible apply only_mbxReturn
    | exact List.Subset.trans (by decide) hM
    | (intro _ _ _)
    | (intro _ _)
    | split

theorem only_mbxTimeout {cs : List Comp} {z s : State} (hK : Only cs z s) (n : Nat) (hM : [.regs, .clk, .rng, .tim, .pwm, .gd, .flt, .mbx, .out] ⊆ cs) :
    Only cs z (State.mbxTimeout s n) := by
  unfold State.mbxTimeout
  try dsimp only
  repeat' first
    | with_reducible assumption
    | with_reducible apply only_setFlag
    | with_reducible apply only_mbxFree
    | with_reducible apply only_raise
    | with_reducible apply Only.when
    | exact List.Subset.trans (by decide) hM
    | (intro _ _ _)
    | (intro _ _)
    | split

theorem only_mbxCntClr {cs : List Comp} {z s : State} (hK : Only cs z s) (hM : [.regs] ⊆ cs) :
    Only cs z (State.mbxCntClr s) := by
  unfold State.mbxCntClr
  try dsimp only
  repeat' first
    | with_reducible assumption
    | with_reducible apply only_put
    | with_reducible apply Only.wr
    | with_reducible apply Only.forUpTo
    | exact List.Subset.trans (by decide) hM
    | (intro _ _ _)
    | (intro _ _)

theorem only_answer {cs : List Comp} {z s : State} (hK : Only cs z s) (a : Ans) (v : BitVec 64) (hM : [.sys, .out] ⊆ cs) :
    Only cs z (State.answer s a v) := by
  unfold State.answer
  try dsimp only
  repeat' first
    | with_reducible assumption
    | with_reducible apply Only.emit
    | exact List.Subset.trans (by decide) hM
    | (intro _ _ _)
    | (intro _ _)
    | with_reducible refine Only.set_sys (Comp.of hM (by decide)) ?_

theorem only_wrote {cs : List Comp} {z : State} {r : State × Ans} (hK : Only cs z r.1) (m : Master) (a : Nat)
    (hM : [.regs, .sys, .out] ⊆ cs) : Only cs z (State.wrote r m a) :=
  only_answer (Only.when hK fun _ hb => only_violation hb _ _ _ (List.Subset.trans (by decide) hM)) _ _
    (List.Subset.trans (by decide) hM)

theorem only_sessFree {cs : List Comp} {z s : State} (hK : Only cs z s) (n : Nat) (hM : [.regs, .sup] ⊆ cs) :
    Only cs z (State.sessFree s n) := by
  unfold State.sessFree
  try dsimp only
  repeat' first
    | with_reducible assumption
    | with_reducible apply only_setSess
    | with_reducible apply only_supStat
    | with_reducible apply Only.wr
    | with_reducible apply Only.ite
    | exact List.Subset.trans (by decide) hM
    | (intro _ _ _)
    | (intro _ _)
    | with_reducible refine Only.set_sup (Comp.of hM (by decide)) ?_

theorem only_sessClose {cs : List Comp} {z s : State} (hK : Only cs z s) (n : Nat) (hM : [.regs, .sup, .out, .free] ⊆ cs) :
    Only cs z (State.sessClose s n) := by
  unfold State.sessClose
  try dsimp only
  repeat' first
    | with_reducible assumption
    | with_reducible apply only_toHost
    | with_reducible apply only_sessFree
    | with_reducible apply Only.useFree
    | with_reducible apply Only.when
    | exact List.Subset.trans (by decide) hM
    | (intro _ _ _)
    | (intro _ _)

theorem only_closeAll {cs : List Comp} {z s : State} (hK : Only cs z s) (hM : [.regs, .sup, .out, .free] ⊆ cs) :
    Only cs z (State.closeAll s) := by
  unfold State.closeAll
  try dsimp only
  repeat' first
    | with_reducible assumption
    | with_reducible apply only_sessClose
    | with_reducible apply Only.forUpTo
    | with_reducible apply Only.when
    | exact List.Subset.trans (by decide) hM
    | (intro _ _ _)
    | (intro _ _)

theorem only_supCntClr {cs : List Comp} {z s : State} (hK : Only cs z s) (hM : [.regs] ⊆ cs) :
    Only cs z (State.supCntClr s) := by
  unfold State.supCntClr
  try dsimp only
  repeat' first
    | with_reducible assumption
    | with_reducible apply Only.wr
    | exact List.Subset.trans (by decide) hM
    | (intro _ _ _)
    | (intro _ _)

theorem only_toToken {cs : List Comp} {z s : State} (hK : Only cs z s) (n : Nat) (hM : [.regs, .sys, .clk, .tim, .pwm, .gd, .flt, .sup, .out] ⊆ cs) :
    Only cs z (State.toToken s n) := by
  unfold State.toToken
  try dsimp only
  repeat' first
    | with_reducible assumption
    | with_reducible apply only_refill
    | with_reducible apply only_runTicks
    | with_reducible apply Only.ite
    | exact List.Subset.trans (by decide) hM
    | (intro _ _ _)
    | (intro _ _)

theorem only_transmit {cs : List Comp} {z s : State} (hK : Only cs z s) (n : Nat) (hM : [.regs, .sys, .clk, .tim, .pwm, .gd, .flt, .sup, .out] ⊆ cs) :
    Only cs z (State.transmit s n) := by
  unfold State.transmit
  try dsimp only
  repeat' first
    | with_reducible assumption
    | with_reducible apply only_toToken
    | with_reducible apply only_refill
    | with_reducible apply only_report
    | with_reducible apply only_sendReport
    | with_reducible apply Only.ite
    | exact List.Subset.trans (by decide) hM
    | (intro _ _ _)
    | (intro _ _)
    | split
    | with_reducible refine Only.set_sup (Comp.of hM (by decide)) ?_

theorem only_repeatReport {cs : List Comp} {z s : State} (hK : Only cs z s) (n : Nat) (rseq : Word) (hM : [.regs, .sys, .clk, .tim, .pwm, .gd, .flt, .sup, .out] ⊆ cs) :
    Only cs z (State.repeatReport s n rseq) := by
  unfold State.repeatReport
  try dsimp only
  repeat' first
    | with_reducible assumption
    | with_reducible apply only_runUp
    | with_reducible apply only_refill
    | with_reducible apply only_setSess
    | with_reducible apply only_bumpReg
    | with_reducible apply only_raise
    | with_reducible apply only_sendReport
    | with_reducible apply Only.when
    | with_reducible apply Only.ite
    | exact List.Subset.trans (by decide) hM
    | (intro _ _ _)
    | (intro _ _)
    | split

theorem only_regRead {cs : List Comp} {z s : State} (hK : Only cs z s) (a : Nat) (hM : [.regs, .clk, .tim, .pwm, .gd, .dpx, .flt, .adc, .out, .free] ⊆ cs) :
    Only cs z (State.regRead s a).1 := by
  unfold State.regRead
  try dsimp only
  repeat' first
    | with_reducible assumption
    | with_reducible apply only_wrN
    | with_reducible apply only_put
    | with_reducible apply only_setFlag
    | with_reducible apply only_rawLatch
    | with_reducible apply only_accRead
    | with_reducible apply Only.useFree
    | with_reducible apply Only.iteFst
    | with_reducible apply Only.ite
    | exact List.Subset.trans (by decide) hM
    | (intro _ _ _)
    | (intro _ _)
    | split
    | with_reducible refine Only.set_dpx (Comp.of hM (by decide)) ?_
    | with_reducible refine Only.set_flt (Comp.of hM (by decide)) ?_
    | (with_reducible refine Only.upd ?_ (Or.inr rfl) (Or.inr rfl) (Or.inr rfl) (Or.inr rfl) (Or.inr rfl) (Or.inr rfl) (Or.inr rfl) (Or.inr rfl) (Or.inr rfl) (Or.inr rfl) (Or.inr rfl) (Or.inl (Comp.of hM (by decide))) (Or.inl (Comp.of hM (by decide))) (Or.inr rfl) (Or.inr rfl) (Or.inr rfl) (Or.inr rfl) (Or.inr rfl) (Or.inr rfl) (Or.inr rfl) (Or.inr rfl) (Or.inr rfl) (Or.inr rfl))

theorem only_codeWrite {cs : List Comp} {z s : State} (hK : Only cs z s) (r : RegRow) (a mask v : Nat) (hM : [.regs, .mem, .sys, .clk, .lnk, .tim, .pwm, .gd, .flt, .out] ⊆ cs) :
    Only cs z (State.codeWrite s r a mask v) := by
  unfold State.codeWrite
  try dsimp only
  repeat' first
    | with_reducible assumption
    | with_reducible apply only_bootLock
    | with_reducible apply Only.wr
    | with_reducible apply Only.ite
    | exact List.Subset.trans (by decide) hM
    | (intro _ _ _)
    | (intro _ _)

theorem onlyO_cmdWrite {cs : List Comp} {z s : State} (hK : Only cs z s) (m : Master) (b o v : Nat)
    (hM : [.regs, .mem, .sys, .clk, .flash, .fuse, .img, .lnk, .rng, .tim, .pwm, .gd, .dpx, .flt, .eng, .adc, .memx, .thm, .bal, .saf, .sup, .mtr, .raises, .out, .free] ⊆ cs) : OnlyO cs z (s.cmdWrite m b o v) := by
  unfold State.cmdWrite
  dsimp only
  split
  all_goals repeat' first
    | with_reducible assumption
    | with_reducible apply OnlyO.none
    | with_reducible apply OnlyO.ite
    | with_reducible apply OnlyO.some
    | with_reducible apply only_rstCtrlWrite
    | with_reducible apply only_updCmd
    | with_reducible apply only_updErase
    | with_reducible apply only_updProgram
    | with_reducible apply only_updStart
    | with_reducible apply only_updArm
    | with_reducible apply only_updAbort
    | with_reducible apply only_chillWrite
    | with_reducible apply only_trainWrite
    | with_reducible apply only_lnkCntClr
    | with_reducible apply only_rngCntClr
    | with_reducible apply only_offsetWrite
    | with_reducible apply only_tpoCtrl
    | with_reducible apply only_tpoConfig
    | with_reducible apply only_ceCntClr
    | with_reducible apply only_swapCancel
    | with_reducible apply only_swapGo
    | with_reducible apply only_setFlag
    | with_reducible apply only_provWrite
    | with_reducible apply only_peekRequest
    | with_reducible apply only_put
    | with_reducible apply only_balReqWrite
    | with_reducible apply only_rearm
    | with_reducible apply only_pwmCntClr
    | with_reducible apply only_groupClear
    | with_reducible apply only_pwmCtrlWrite
    | with_reducible apply only_shadowWrite
    | with_reducible apply only_gdCntClr
    | with_reducible apply only_injNow
    | with_reducible apply only_lpWrite
    | with_reducible apply only_adcCntClr
    | with_reducible apply only_chWrite
    | with_reducible apply only_signWrite
    | with_reducible apply only_snapshot
    | with_reducible apply only_plsWrite
    | with_reducible apply only_swapRequest
    | with_reducible apply only_swapCancelDpx
    | with_reducible apply only_dpxCntClr
    | with_reducible apply only_safCntClr
    | with_reducible apply only_stationClear
    | with_reducible apply only_recordClear
    | with_reducible apply only_memCntClr
    | with_reducible apply only_scrubAbort
    | with_reducible apply only_scrubGo
    | with_reducible apply only_memRepair
    | with_reducible apply only_logSel
    | with_reducible apply only_supCntClr
    | with_reducible apply only_closeAll
    | with_reducible apply only_mbxCntClr
    | with_reducible apply Only.when
    | with_reducible apply Only.ite
    | exact List.Subset.trans (by decide) hM
    | split
    | (intro _ _)

theorem only_regWrite {cs : List Comp} {z s : State} (hK : Only cs z s) (m by_ : Master) (r : RegRow) (a mask v : Nat)
    (hM : [.regs, .mem, .sys, .clk, .flash, .fuse, .img, .lnk, .rng, .tim, .pwm, .gd, .dpx, .flt, .eng, .adc, .memx, .thm, .bal, .saf, .sup, .mtr, .raises, .out, .free] ⊆ cs) : Only cs z (State.regWrite s m by_ r a mask v) := by
  unfold State.regWrite
  have h1 := Only.when (c := s.sys.bootLock && ((s.num a ^^^ v) &&& r.rl &&& mask) != 0)
    (f := (·.violation by_ true a)) hK fun b hb => only_violation hb _ _ _ (List.Subset.trans (by decide) hM)
  dsimp only
  split
  · next s2 h => exact onlyO_cmdWrite h1 _ _ _ _ (List.Subset.trans (by decide) hM) s2 h
  · exact only_ckoLoaded (only_codeWrite h1 _ _ _ _ (List.Subset.trans (by decide) hM)) _ (List.Subset.trans (by decide) hM)

theorem only_readAccess {cs : List Comp} {z s : State} (hK : Only cs z s) (m by_ : Master) (a size : Nat) (e : Ecc) (hM : [.regs, .clk, .tim, .pwm, .gd, .dpx, .flt, .adc, .memx, .out, .free] ⊆ cs) :
    Only cs z (State.readAccess s m by_ a size e).1 := by
  unfold State.readAccess
  try dsimp only
  repeat' first
    | with_reducible assumption
    | with_reducible apply only_violation
    | with_reducible apply only_eccRead
    | with_reducible apply only_regRead
    | with_reducible apply Only.iteFst
    | with_reducible apply Only.ite
    | exact List.Subset.trans (by decide) hM
    | (intro _ _ _)
    | (intro _ _)

theorem only_writeAccess {cs : List Comp} {z s : State} (hK : Only cs z s) (m by_ : Master) (a size v : Nat) (e : Ecc)
    (hM : [.regs, .mem, .sys, .clk, .flash, .fuse, .img, .lnk, .rng, .tim, .pwm, .gd, .dpx, .flt, .eng, .adc, .memx, .thm, .bal, .saf, .sup, .mbx, .mtr, .raises, .out, .free] ⊆ cs) : Only cs z (State.writeAccess s m by_ a size v e).1 := by
  unfold State.writeAccess
  extract_lets viol pr s1 bad mask n w x
  have hv : ∀ b, Only cs z b → Only cs z (viol b).1 := fun b hb =>
    only_violation hb _ _ _ (List.Subset.trans (by decide) hM)
  have hm : Only cs z s1 := only_eccMerge hK (eccWord a) e (List.Subset.trans (by decide) hM)
  have hw := fun r mask => only_regWrite hK m by_ r a mask v (List.Subset.trans (by decide) hM)
  have hs := fun b (hb : Only cs z b) n w => Only.storeLe hb a n w (List.Subset.trans (by decide) hM)
  refine Only.iteFst hK (Only.iteFst ?_ (Only.iteFst hK (Only.iteFst ?_ ?_)))
  · refine Only.iteFst (hv s hK) (Only.iteFst (hs _ (only_eccClear hK _ (List.Subset.trans (by decide) hM)) _ _) ?_)
    exact Only.iteFst hm (hs _ hm _ _)
  · exact Only.iteFst (hv s hK) (Only.iteFst hm (only_slotWrite hm _ _ _ (List.Subset.trans (by decide) hM)))
  · split
    · next n w _ =>
      refine Only.iteFst ?_ (Only.iteFst ?_ ?_)
      · have h := only_mbxData hK m n (w / 4) (BitVec.ofNat 32 v) (List.Subset.trans (by decide) hM)
        split
        · next s1 heq => rw [heq] at h; exact hv s1 h
        · exact h
      · have h := only_mbxCtrl hK m n v (List.Subset.trans (by decide) hM)
        split
        · next s1 heq => rw [heq] at h; exact hv s1 h
        · exact h
      · split
        · exact hK
        · exact Only.iteFst (hv s hK) (hw _ _)
    · split
      · exact hK
      · refine Only.iteFst (only_rstCtrlWrite hK _ _ (List.Subset.trans (by decide) hM)) (Only.iteFst (hv s hK) ?_)
        refine (Only.iteFst (hv _ (only_scrubGo hK _ (List.Subset.trans (by decide) hM)))
          (Only.iteFst (hv _ (only_memRepair hK _ _ (List.Subset.trans (by decide) hM))) ?_))
        exact Only.iteFst (hv _ (only_setFlag hK _ _ (List.Subset.trans (by decide) hM)))
          (Only.iteFst (hv s hK) (Only.iteFst hK (hw _ _)))

theorem only_busRead {cs : List Comp} {z s : State} (hK : Only cs z s) (m : Master) (a size : Nat) (e : Ecc) (hM : [.regs, .sys, .clk, .tim, .pwm, .gd, .dpx, .flt, .adc, .memx, .out, .free] ⊆ cs) :
    Only cs z (State.busRead s m a size e) := by
  unfold State.busRead
  try dsimp only
  repeat' first
    | with_reducible assumption
    | with_reducible apply only_readAccess
    | with_reducible apply only_answer
    | exact List.Subset.trans (by decide) hM
    | (intro _ _ _)
    | (intro _ _)

theorem only_dropDatagram {cs : List Comp} {z s : State} (hK : Only cs z s) (hM : [.regs, .clk, .tim, .pwm, .gd, .flt, .sup, .out] ⊆ cs) :
    Only cs z (State.dropDatagram s) := by
  unfold State.dropDatagram
  try dsimp only
  repeat' first
    | with_reducible assumption
    | with_reducible apply only_bumpReg
    | with_reducible apply only_raise
    | with_reducible apply Only.ite
    | exact List.Subset.trans (by decide) hM
    | (intro _ _ _)
    | (intro _ _)
    | split
    | with_reducible refine Only.set_sup (Comp.of hM (by decide)) ?_

theorem only_heard {cs : List Comp} {z s : State} (hK : Only cs z s) (n : Nat) (d : Datagram) (hM : [.sup] ⊆ cs) :
    Only cs z (State.heard s n d) := by
  unfold State.heard
  try dsimp only
  repeat' first
    | with_reducible assumption
    | with_reducible apply only_setSess
    | exact List.Subset.trans (by decide) hM
    | (intro _ _ _)
    | (intro _ _)

theorem only_countRx {cs : List Comp} {z s : State} (hK : Only cs z s) (hM : [.regs] ⊆ cs) :
    Only cs z (State.countRx s) := by
  unfold State.countRx
  try dsimp only
  repeat' first
    | with_reducible assumption
    | with_reducible apply Only.wr
    | exact List.Subset.trans (by decide) hM
    | (intro _ _ _)
    | (intro _ _)

theorem only_refuse1 {cs : List Comp} {z s : State} (hK : Only cs z s) (d : Datagram) (status : Nat) (hM : [.regs, .clk, .tim, .pwm, .gd, .flt, .out] ⊆ cs) :
    Only cs z (State.refuse1 s d status) := by
  unfold State.refuse1
  try dsimp only
  repeat' first
    | with_reducible assumption
    | with_reducible apply only_toHost
    | with_reducible apply only_raise
    | exact List.Subset.trans (by decide) hM
    | (intro _ _ _)
    | (intro _ _)

theorem only_phase1 {cs : List Comp} {z s : State} (hK : Only cs z s) (d : Datagram) (hM : [.regs, .clk, .tim, .pwm, .gd, .flt, .sup, .out, .free] ⊆ cs) :
    Only cs z (State.phase1 s d) := by
  unfold State.phase1
  try dsimp only
  repeat' first
    | with_reducible assumption
    | with_reducible apply only_dropDatagram
    | with_reducible apply only_countRx
    | with_reducible apply only_refuse1
    | with_reducible apply only_setFlag
    | with_reducible apply only_put
    | with_reducible apply only_setSess
    | with_reducible apply only_toHost
    | with_reducible apply Only.wr
    | with_reducible apply Only.useFree
    | with_reducible apply Only.iteFst
    | with_reducible apply Only.ite
    | exact List.Subset.trans (by decide) hM
    | (intro _ _ _)
    | (intro _ _)
    | split

theorem only_phase3 {cs : List Comp} {z s : State} (hK : Only cs z s) (m : Datagram) (hM : [.regs, .clk, .tim, .pwm, .gd, .flt, .sup, .out] ⊆ cs) :
    Only cs z (State.phase3 s m) := by
  unfold State.phase3
  try dsimp only
  repeat' first
    | with_reducible assumption
    | with_reducible apply only_dropDatagram
    | with_reducible apply only_heard
    | with_reducible apply only_countRx
    | with_reducible apply only_toHost
    | with_reducible apply only_bumpReg
    | with_reducible apply only_setFlag
    | with_reducible apply only_setSess
    | with_reducible apply only_supStat
    | with_reducible apply only_sessFree
    | with_reducible apply only_raise
    | with_reducible apply Only.ite
    | exact List.Subset.trans (by decide) hM
    | (intro _ _ _)
    | (intro _ _)
    | split

theorem only_phase5 {cs : List Comp} {z s : State} (hK : Only cs z s) (m : Datagram) (hM : [.regs, .clk, .tim, .pwm, .gd, .flt, .sup, .out] ⊆ cs) :
    Only cs z (State.phase5 s m) := by
  unfold State.phase5
  try dsimp only
  repeat' first
    | with_reducible assumption
    | with_reducible apply only_dropDatagram
    | with_reducible apply only_heard
    | with_reducible apply only_countRx
    | with_reducible apply only_sessFree
    | with_reducible apply only_bumpReg
    | with_reducible apply Only.when
    | with_reducible apply Only.ite
    | exact List.Subset.trans (by decide) hM
    | (intro _ _ _)
    | (intro _ _)
    | split

theorem only_reqEnd {cs : List Comp} {z s : State} (hK : Only cs z s) (r : Req) (status : Nat) (body : List Byte) (hM : [.regs, .sup, .out] ⊆ cs) :
    Only cs z (State.reqEnd s r status body) := by
  unfold State.reqEnd
  try dsimp only
  repeat' first
    | with_reducible assumption
    | with_reducible apply only_respond
    | exact List.Subset.trans (by decide) hM
    | (intro _ _ _)
    | (intro _ _)
    | with_reducible refine Only.set_sup (Comp.of hM (by decide)) ?_

theorem only_reqFail {cs : List Comp} {z s : State} (hK : Only cs z s) (r : Req) (status : Nat) (done : Nat) (ws : List Word) (hM : [.regs, .sup, .out] ⊆ cs) :
    Only cs z (State.reqFail s r status done ws) := by
  unfold State.reqFail
  try dsimp only
  repeat' first
    | with_reducible assumption
    | with_reducible apply only_reqEnd
    | exact List.Subset.trans (by decide) hM
    | (intro _ _ _)
    | (intro _ _)

theorem only_countReq {cs : List Comp} {z s : State} (hK : Only cs z s) (hM : [.regs] ⊆ cs) :
    Only cs z (State.countReq s) := by
  unfold State.countReq
  try dsimp only
  repeat' first
    | with_reducible assumption
    | with_reducible apply Only.wr
    | exact List.Subset.trans (by decide) hM
    | (intro _ _ _)
    | (intro _ _)

theorem only_setActive {cs : List Comp} {z s : State} (hK : Only cs z s) (a : Option Active) (hM : [.sup] ⊆ cs) :
    Only cs z (State.setActive s a) := by
  unfold State.setActive
  try dsimp only
  repeat' first
    | with_reducible assumption
    | exact List.Subset.trans (by decide) hM
    | (intro _ _ _)
    | (intro _ _)
    | with_reducible refine Only.set_sup (Comp.of hM (by decide)) ?_

theorem only_begun {cs : List Comp} {z s : State} (hK : Only cs z s) (r : Req) (steps : List HostStep) (hM : [.sup] ⊆ cs) :
    Only cs z (State.begun s r steps) := by
  unfold State.begun
  try dsimp only
  repeat' first
    | with_reducible assumption
    | with_reducible apply only_setActive
    | exact List.Subset.trans (by decide) hM
    | (intro _ _ _)
    | (intro _ _)

theorem only_readWords {cs : List Comp} {z s : State} (hK : Only cs z s) (by_ : Master) (n a : Nat)
    (hM : [.regs, .clk, .tim, .pwm, .gd, .dpx, .flt, .adc, .memx, .out, .free] ⊆ cs) : Only cs z (State.readWords s by_ n a).1 := by
  induction n generalizing s a with
  | zero => exact hK
  | succ n ih =>
    have h := only_readAccess hK .ha by_ a 4 .clean (List.Subset.trans (by decide) hM)
    unfold State.readWords
    split
    · next s1 v heq => rw [heq] at h; exact h
    · next s1 r v _ heq => rw [heq] at h; exact ih h _

theorem only_writeWords {cs : List Comp} {z s : State} (hK : Only cs z s) (by_ : Master) (ws : List Word) (a : Nat)
    (hM : [.regs, .mem, .sys, .clk, .flash, .fuse, .img, .lnk, .rng, .tim, .pwm, .gd, .dpx, .flt, .eng, .adc, .memx, .thm, .bal, .saf, .sup, .mbx, .mtr, .raises, .out, .free] ⊆ cs) : Only cs z (State.writeWords s by_ ws a).1 := by
  induction ws generalizing s a with
  | nil => exact hK
  | cons w t ih =>
    have h := only_writeAccess hK .ha by_ a 4 w.toNat .clean (List.Subset.trans (by decide) hM)
    unfold State.writeWords
    split
    · next s1 heq => rw [heq] at h; exact h
    · next s1 r _ heq => rw [heq] at h; exact ih h _

theorem only_sendRra {cs : List Comp} {z s : State} (hK : Only cs z s) (node master tag : Nat) (st : HostStep) (hM : [.regs, .rng] ⊆ cs) :
    Only cs z (State.sendRra s node master tag st) := by
  unfold State.sendRra
  try dsimp only
  repeat' first
    | with_reducible assumption
    | with_reducible apply only_bulkSend
    | with_reducible apply Only.wr
    | exact List.Subset.trans (by decide) hM
    | (intro _ _ _)
    | (intro _ _)
    | split

theorem only_issue {cs : List Comp} {z s : State} (hK : Only cs z s) (hM : [.regs, .rng, .sup, .out] ⊆ cs) :
    Only cs z (State.issue s) := by
  unfold State.issue
  try dsimp only
  repeat' first
    | with_reducible assumption
    | with_reducible apply only_reqFail
    | with_reducible apply only_sendRra
    | with_reducible apply Only.wr
    | with_reducible apply Only.ite
    | exact List.Subset.trans (by decide) hM
    | (intro _ _ _)
    | (intro _ _)
    | split
    | with_reducible refine Only.set_rng (Comp.of hM (by decide)) ?_

theorem only_goRemote {cs : List Comp} {z s : State} (hK : Only cs z s) (r : Req) (steps : List HostStep) (hM : [.regs, .rng, .sup, .out] ⊆ cs) :
    Only cs z (State.goRemote s r steps) := by
  unfold State.goRemote
  try dsimp only
  repeat' first
    | with_reducible assumption
    | with_reducible apply only_begun
    | with_reducible apply only_issue
    | exact List.Subset.trans (by decide) hM
    | (intro _ _ _)
    | (intro _ _)

theorem only_startRead {cs : List Comp} {z s : State} (hK : Only cs z s) (r : Req) (hM : [.regs, .clk, .rng, .tim, .pwm, .gd, .dpx, .flt, .adc, .memx, .sup, .out, .free] ⊆ cs) :
    Only cs z (State.startRead s r) := by
  unfold State.startRead
  try dsimp only
  repeat' first
    | with_reducible assumption
    | with_reducible apply only_reqFail
    | with_reducible apply only_accCheck
    | with_reducible apply only_reqEnd
    | with_reducible apply only_readWords
    | with_reducible apply only_begun
    | with_reducible apply only_relayTo
    | with_reducible apply only_goRemote
    | with_reducible apply Only.iteFst
    | with_reducible apply Only.ite
    | exact List.Subset.trans (by decide) hM
    | (intro _ _ _)
    | (intro _ _)

theorem only_startWrite {cs : List Comp} {z s : State} (hK : Only cs z s) (r : Req) (hM : [.regs, .mem, .sys, .clk, .flash, .fuse, .img, .lnk, .rng, .tim, .pwm, .gd, .dpx, .flt, .eng, .adc, .memx, .thm, .bal, .saf, .sup, .mbx, .mtr, .raises, .out, .free] ⊆ cs) :
    Only cs z (State.startWrite s r) := by
  unfold State.startWrite
  try dsimp only
  repeat' first
    | with_reducible assumption
    | with_reducible apply only_reqFail
    | with_reducible apply only_countReq
    | with_reducible apply only_writeWords
    | with_reducible apply only_goRemote
    | with_reducible apply Only.iteFst
    | with_reducible apply Only.ite
    | exact List.Subset.trans (by decide) hM
    | (intro _ _ _)
    | (intro _ _)

theorem only_startTime {cs : List Comp} {z s : State} (hK : Only cs z s) (r : Req) (hM : [.regs, .sup, .out] ⊆ cs) :
    Only cs z (State.startTime s r) := by
  unfold State.startTime
  try dsimp only
  repeat' first
    | with_reducible assumption
    | with_reducible apply only_reqFail
    | with_reducible apply only_reqEnd
    | with_reducible apply Only.emit
    | with_reducible apply Only.ite
    | exact List.Subset.trans (by decide) hM
    | (intro _ _ _)
    | (intro _ _)
    | split

theorem only_recvWait {cs : List Comp} {z s : State} (hK : Only cs z s) (r : Req) (hM : [.regs, .sup, .out] ⊆ cs) :
    Only cs z (State.recvWait s r) := by
  unfold State.recvWait
  try dsimp only
  repeat' first
    | with_reducible assumption
    | with_reducible apply only_reqEnd
    | with_reducible apply only_reqFail
    | with_reducible apply only_setActive
    | with_reducible apply only_setSess
    | with_reducible apply Only.ite
    | exact List.Subset.trans (by decide) hM
    | (intro _ _ _)
    | (intro _ _)

theorem only_recvLocal {cs : List Comp} {z s : State} (hK : Only cs z s) (r : Req) (hM : [.regs, .mem, .sys, .clk, .flash, .fuse, .img, .lnk, .rng, .tim, .pwm, .gd, .dpx, .flt, .eng, .adc, .memx, .thm, .bal, .saf, .sup, .mbx, .mtr, .raises, .out, .free] ⊆ cs) :
    Only cs z (State.recvLocal s r) := by
  unfold State.recvLocal
  try dsimp only
  repeat' first
    | with_reducible assumption
    | with_reducible apply only_readWords
    | with_reducible apply only_writeWords
    | with_reducible apply only_reqEnd
    | exact List.Subset.trans (by decide) hM
    | (intro _ _ _)
    | (intro _ _)

theorem only_startMbx {cs : List Comp} {z s : State} (hK : Only cs z s) (r : Req) (hM : [.regs, .mem, .sys, .clk, .flash, .fuse, .img, .lnk, .rng, .tim, .pwm, .gd, .dpx, .flt, .eng, .adc, .memx, .thm, .bal, .saf, .sup, .mbx, .mtr, .raises, .out, .free] ⊆ cs) :
    Only cs z (State.startMbx s r) := by
  unfold State.startMbx
  try dsimp only
  repeat' first
    | with_reducible assumption
    | with_reducible apply only_reqFail
    | with_reducible apply only_countReq
    | with_reducible apply only_writeWords
    | with_reducible apply only_goRemote
    | with_reducible apply only_recvLocal
    | with_reducible apply only_recvWait
    | with_reducible apply only_readWords
    | with_reducible apply only_reqEnd
    | with_reducible apply Only.wr
    | with_reducible apply Only.iteFst
    | with_reducible apply Only.ite
    | exact List.Subset.trans (by decide) hM
    | (intro _ _ _)
    | (intro _ _)
    | split

theorem only_startAttest {cs : List Comp} {z s : State} (hK : Only cs z s) (r : Req) (hM : [.regs, .sys, .clk, .rng, .tim, .pwm, .gd, .flt, .sup, .mtr, .out] ⊆ cs) :
    Only cs z (State.startAttest s r) := by
  unfold State.startAttest
  try dsimp only
  repeat' first
    | with_reducible assumption
    | with_reducible apply only_reqFail
    | with_reducible apply only_begun
    | with_reducible apply only_relayTo
    | with_reducible apply only_reqEnd
    | with_reducible apply only_signQueue
    | with_reducible apply Only.ite
    | exact List.Subset.trans (by decide) hM
    | (intro _ _ _)
    | (intro _ _)

theorem only_signatureDone {cs : List Comp} {z s : State} (hK : Only cs z s) (hM : [.regs, .clk, .rng, .tim, .pwm, .gd, .flt, .sup, .mtr, .out, .free] ⊆ cs) :
    Only cs z (State.signatureDone s) := by
  unfold State.signatureDone
  try dsimp only
  repeat' first
    | with_reducible assumption
    | with_reducible apply only_recordSigned
    | with_reducible apply only_signNext
    | with_reducible apply only_signWith
    | with_reducible apply only_relayTo
    | with_reducible apply only_reqEnd
    | with_reducible apply Only.when
    | exact List.Subset.trans (by decide) hM
    | (intro _ _ _)
    | (intro _ _)
    | split

theorem only_signerFailed {cs : List Comp} {z s : State} (hK : Only cs z s) (hM : [.regs, .sys, .clk, .tim, .pwm, .gd, .flt, .sup, .mtr, .out] ⊆ cs) :
    Only cs z (State.signerFailed s) := by
  unfold State.signerFailed
  try dsimp only
  repeat' first
    | with_reducible assumption
    | with_reducible apply only_runUp
    | with_reducible apply only_raise
    | with_reducible apply only_reqFail
    | with_reducible apply only_signNext
    | with_reducible apply Only.when
    | exact List.Subset.trans (by decide) hM
    | (intro _ _ _)
    | (intro _ _)
    | split

theorem only_batchAnswer {cs : List Comp} {z s : State} (hK : Only cs z s) (a : Active) (targets : Nat) (hM : [.regs, .sup, .out] ⊆ cs) :
    Only cs z (State.batchAnswer s a targets) := by
  unfold State.batchAnswer
  try dsimp only
  repeat' first
    | with_reducible assumption
    | with_reducible apply only_reqFail
    | with_reducible apply only_reqEnd
    | with_reducible apply Only.ite
    | exact List.Subset.trans (by decide) hM
    | (intro _ _ _)
    | (intro _ _)

theorem only_batchAck {cs : List Comp} {z s : State} (hK : Only cs z s) (id : Word) (src : Nat) (hM : [.regs, .sup, .out] ⊆ cs) :
    Only cs z (State.batchAck s id src) := by
  unfold State.batchAck
  try dsimp only
  repeat' first
    | with_reducible assumption
    | with_reducible apply only_distAck
    | with_reducible apply only_setActive
    | with_reducible apply only_batchAnswer
    | with_reducible apply Only.when
    | with_reducible apply Only.ite
    | exact List.Subset.trans (by decide) hM
    | (intro _ _ _)
    | (intro _ _)
    | split

theorem only_stageAt {cs : List Comp} {z s : State} (hK : Only cs z s) (id c : Word) (p : Nat) (items : List (Word × Word)) (hM : [.regs, .clk, .rng, .tim, .pwm, .gd, .flt, .sup, .raises, .out] ⊆ cs) :
    Only cs z (State.stageAt s id c p items) := by
  unfold State.stageAt
  try dsimp only
  repeat' first
    | with_reducible assumption
    | with_reducible apply only_batchStage
    | with_reducible apply only_batchAck
    | with_reducible apply only_bulkQueue
    | with_reducible apply Only.when
    | with_reducible apply Only.ite
    | exact List.Subset.trans (by decide) hM
    | (intro _ _ _)
    | (intro _ _)
    | split

theorem only_cancelBatch {cs : List Comp} {z s : State} (hK : Only cs z s) (r : Req) (id : Word) (hM : [.regs, .clk, .rng, .tim, .pwm, .gd, .flt, .sup, .raises, .out] ⊆ cs) :
    Only cs z (State.cancelBatch s r id) := by
  unfold State.cancelBatch
  try dsimp only
  repeat' first
    | with_reducible assumption
    | with_reducible apply only_batchCancel
    | with_reducible apply only_bulkSend
    | with_reducible apply only_reqEnd
    | with_reducible apply Only.foldlFst
    | with_reducible apply Only.foldl
    | with_reducible apply Only.when
    | with_reducible apply Only.iteFst
    | with_reducible apply Only.ite
    | exact List.Subset.trans (by decide) hM
    | (intro _ _ _)
    | (intro _ _)
    | split
    | with_reducible refine Only.set_sup (Comp.of hM (by decide)) ?_

theorem only_startBatch {cs : List Comp} {z s : State} (hK : Only cs z s) (r : Req) (hM : [.regs, .clk, .rng, .tim, .pwm, .gd, .flt, .sup, .raises, .out] ⊆ cs) :
    Only cs z (State.startBatch s r) := by
  unfold State.startBatch
  try dsimp only
  repeat' first
    | with_reducible assumption
    | with_reducible apply only_reqFail
    | with_reducible apply only_countReq
    | with_reducible apply only_cancelBatch
    | with_reducible apply only_batchFault
    | with_reducible apply only_ledNew
    | with_reducible apply only_stageAt
    | with_reducible apply Only.foldlFst
    | with_reducible apply Only.foldl
    | with_reducible apply Only.iteFst
    | with_reducible apply Only.ite
    | exact List.Subset.trans (by decide) hM
    | (intro _ _ _)
    | (intro _ _)
    | split
    | with_reducible refine Only.set_sup (Comp.of hM (by decide)) ?_

theorem only_startReq {cs : List Comp} {z s : State} (hK : Only cs z s) (r : Req) (hM : [.regs, .mem, .sys, .clk, .flash, .fuse, .img, .lnk, .rng, .tim, .pwm, .gd, .dpx, .flt, .eng, .adc, .memx, .thm, .bal, .saf, .sup, .mbx, .mtr, .raises, .out, .free] ⊆ cs) :
    Only cs z (State.startReq s r) := by
  unfold State.startReq
  try dsimp only
  repeat' first
    | with_reducible assumption
    | with_reducible apply only_reqFail
    | with_reducible apply only_startRead
    | with_reducible apply only_startWrite
    | with_reducible apply only_startBatch
    | with_reducible apply only_startTime
    | with_reducible apply only_startMbx
    | with_reducible apply only_startAttest
    | with_reducible apply Only.ite
    | exact List.Subset.trans (by decide) hM
    | (intro _ _ _)
    | (intro _ _)
    | split

theorem only_takeRequest {cs : List Comp} {z s : State} (hK : Only cs z s) (n : Nat) (r : Req) (hM : [.regs, .mem, .sys, .clk, .flash, .fuse, .img, .lnk, .rng, .tim, .pwm, .gd, .dpx, .flt, .eng, .adc, .memx, .thm, .bal, .saf, .sup, .mbx, .mtr, .raises, .out, .free] ⊆ cs) :
    Only cs z (State.takeRequest s n r) := by
  unfold State.takeRequest
  try dsimp only
  repeat' first
    | with_reducible assumption
    | with_reducible apply only_respond
    | with_reducible apply only_startReq
    | with_reducible apply Only.ite
    | exact List.Subset.trans (by decide) hM
    | (intro _ _ _)
    | (intro _ _)
    | with_reducible refine Only.set_sup (Comp.of hM (by decide)) ?_

theorem only_dequeue {cs : List Comp} {z s : State} (hK : Only cs z s) (hM : [.regs, .mem, .sys, .clk, .flash, .fuse, .img, .lnk, .rng, .tim, .pwm, .gd, .dpx, .flt, .eng, .adc, .memx, .thm, .bal, .saf, .sup, .mbx, .mtr, .raises, .out, .free] ⊆ cs) :
    Only cs z (State.dequeue s) := by
  unfold State.dequeue
  try dsimp only
  repeat' first
    | with_reducible assumption
    | with_reducible apply only_startReq
    | exact List.Subset.trans (by decide) hM
    | (intro _ _ _)
    | (intro _ _)
    | split
    | with_reducible refine Only.set_sup (Comp.of hM (by decide)) ?_

theorem only_request {cs : List Comp} {z s : State} (hK : Only cs z s) (m : Datagram) (hM : [.regs, .mem, .sys, .clk, .flash, .fuse, .img, .lnk, .rng, .tim, .pwm, .gd, .dpx, .flt, .eng, .adc, .memx, .thm, .bal, .saf, .sup, .mbx, .mtr, .raises, .out, .free] ⊆ cs) :
    Only cs z (State.request s m) := by
  unfold State.request
  try dsimp only
  repeat' first
    | with_reducible assumption
    | with_reducible apply only_dropDatagram
    | with_reducible apply only_heard
    | with_reducible apply only_respond
    | with_reducible apply only_bumpReg
    | with_reducible apply only_setSess
    | with_reducible apply only_countRx
    | with_reducible apply only_takeRequest
    | with_reducible apply Only.ite
    | exact List.Subset.trans (by decide) hM
    | (intro _ _ _)
    | (intro _ _)
    | split

theorem only_requestOf {cs : List Comp} {z s : State} (hK : Only cs z s) (d : Datagram) (typ : Nat) (op : Nat → Bool) (at_ : Nat) (hM : [.regs, .mem, .sys, .clk, .flash, .fuse, .img, .lnk, .rng, .tim, .pwm, .gd, .dpx, .flt, .eng, .adc, .memx, .thm, .bal, .saf, .sup, .mbx, .mtr, .raises, .out, .free] ⊆ cs) :
    Only cs z (State.requestOf s d typ op at_) := by
  unfold State.requestOf
  try dsimp only
  repeat' first
    | with_reducible assumption
    | with_reducible apply only_request
    | with_reducible apply Only.when
    | exact List.Subset.trans (by decide) hM
    | (intro _ _ _)
    | (intro _ _)

theorem only_reportAck {cs : List Comp} {z s : State} (hK : Only cs z s) (d : Datagram) (hM : [.regs, .clk, .tim, .pwm, .gd, .flt, .sup, .out] ⊆ cs) :
    Only cs z (State.reportAck s d) := by
  unfold State.reportAck
  try dsimp only
  repeat' first
    | with_reducible assumption
    | with_reducible apply only_dropDatagram
    | with_reducible apply only_heard
    | with_reducible apply only_countRx
    | with_reducible apply only_setSess
    | with_reducible apply Only.when
    | with_reducible apply Only.ite
    | exact List.Subset.trans (by decide) hM
    | (intro _ _ _)
    | (intro _ _)
    | split

theorem only_hostDone {cs : List Comp} {z s : State} (hK : Only cs z s) (a : Active) (hM : [.regs, .rng, .sup, .out] ⊆ cs) :
    Only cs z (State.hostDone s a) := by
  unfold State.hostDone
  try dsimp only
  repeat' first
    | with_reducible assumption
    | with_reducible apply only_reqEnd
    | with_reducible apply only_setActive
    | with_reducible apply only_issue
    | with_reducible apply only_recvWait
    | with_reducible apply only_reqFail
    | with_reducible apply Only.wr
    | with_reducible apply Only.ite
    | exact List.Subset.trans (by decide) hM
    | (intro _ _ _)
    | (intro _ _)
    | split

theorem only_hostAnswer {cs : List Comp} {z s : State} (hK : Only cs z s) (src done err : Nat) (ws : List Word) (hM : [.regs, .rng, .sup, .out] ⊆ cs) :
    Only cs z (State.hostAnswer s src done err ws) := by
  unfold State.hostAnswer
  try dsimp only
  repeat' first
    | with_reducible assumption
    | with_reducible apply only_setActive
    | with_reducible apply only_reqFail
    | with_reducible apply only_hostDone
    | with_reducible apply only_issue
    | with_reducible apply Only.ite
    | exact List.Subset.trans (by decide) hM
    | (intro _ _ _)
    | (intro _ _)
    | split
    | with_reducible refine Only.set_rng (Comp.of hM (by decide)) ?_

theorem only_hostTimeoutRra {cs : List Comp} {z s : State} (hK : Only cs z s) (hM : [.regs, .rng, .sup, .out] ⊆ cs) :
    Only cs z (State.hostTimeoutRra s) := by
  unfold State.hostTimeoutRra
  try dsimp only
  repeat' first
    | with_reducible assumption
    | with_reducible apply only_reqFail
    | with_reducible apply Only.ite
    | exact List.Subset.trans (by decide) hM
    | (intro _ _ _)
    | (intro _ _)
    | split
    | with_reducible refine Only.set_rng (Comp.of hM (by decide)) ?_

theorem only_relayAnswer {cs : List Comp} {z s : State} (hK : Only cs z s) (src typ : Nat) (head body : List Byte) (hM : [.regs, .sup, .out] ⊆ cs) :
    Only cs z (State.relayAnswer s src typ head body) := by
  unfold State.relayAnswer
  try dsimp only
  repeat' first
    | with_reducible assumption
    | with_reducible apply only_reqFail
    | with_reducible apply only_reqEnd
    | with_reducible apply Only.when
    | with_reducible apply Only.ite
    | exact List.Subset.trans (by decide) hM
    | (intro _ _ _)
    | (intro _ _)
    | split

theorem only_recvAgain {cs : List Comp} {z s : State} (hK : Only cs z s) (n : Nat) (r : Req) (hM : [.regs, .mem, .sys, .clk, .flash, .fuse, .img, .lnk, .rng, .tim, .pwm, .gd, .dpx, .flt, .eng, .adc, .memx, .thm, .bal, .saf, .sup, .mbx, .mtr, .raises, .out, .free] ⊆ cs) :
    Only cs z (State.recvAgain s n r) := by
  unfold State.recvAgain
  try dsimp only
  repeat' first
    | with_reducible assumption
    | with_reducible apply only_setSess
    | with_reducible apply only_dequeue
    | exact List.Subset.trans (by decide) hM
    | (intro _ _ _)
    | (intro _ _)
    | with_reducible refine Only.set_sup (Comp.of hM (by decide)) ?_

theorem only_recvExpiry {cs : List Comp} {z s : State} (hK : Only cs z s) (n : Nat) (expired : Bool) (hM : [.regs, .mem, .sys, .clk, .flash, .fuse, .img, .lnk, .rng, .tim, .pwm, .gd, .dpx, .flt, .eng, .adc, .memx, .thm, .bal, .saf, .sup, .mbx, .mtr, .raises, .out, .free] ⊆ cs) :
    Only cs z (State.recvExpiry s n expired) := by
  unfold State.recvExpiry
  try dsimp only
  repeat' first
    | with_reducible assumption
    | with_reducible apply only_runUp
    | with_reducible apply only_setSess
    | with_reducible apply only_recvLocal
    | with_reducible apply only_setActive
    | with_reducible apply only_respond
    | with_reducible apply only_sendRra
    | with_reducible apply Only.when
    | with_reducible apply Only.ite
    | exact List.Subset.trans (by decide) hM
    | (intro _ _ _)
    | (intro _ _)
    | split

theorem only_recvPolled {cs : List Comp} {z s : State} (hK : Only cs z s) (n src : Nat) (ws : List Word) (hM : [.regs, .mem, .sys, .clk, .flash, .fuse, .img, .lnk, .rng, .tim, .pwm, .gd, .dpx, .flt, .eng, .adc, .memx, .thm, .bal, .saf, .sup, .mbx, .mtr, .raises, .out, .free] ⊆ cs) :
    Only cs z (State.recvPolled s n src ws) := by
  unfold State.recvPolled
  try dsimp only
  repeat' first
    | with_reducible assumption
    | with_reducible apply only_recvAgain
    | with_reducible apply Only.when
    | exact List.Subset.trans (by decide) hM
    | (intro _ _ _)
    | (intro _ _)
    | split

theorem only_timeRx {cs : List Comp} {z s : State} (hK : Only cs z s) (frame : List Byte) (event : Bool) (hM : [.regs, .sup, .out] ⊆ cs) :
    Only cs z (State.timeRx s frame event) := by
  unfold State.timeRx
  try dsimp only
  repeat' first
    | with_reducible assumption
    | with_reducible apply only_bumpReg
    | with_reducible apply only_setSess
    | with_reducible apply only_toHost
    | with_reducible apply Only.forUpTo
    | with_reducible apply Only.when
    | with_reducible apply Only.ite
    | exact List.Subset.trans (by decide) hM
    | (intro _ _ _)
    | (intro _ _)

theorem only_ptpReceived {cs : List Comp} {z s : State} (hK : Only cs z s) (frame : List Byte) (hM : [.regs, .clk, .tim, .pwm, .gd, .flt, .sup, .out] ⊆ cs) :
    Only cs z (State.ptpReceived s frame) := by
  unfold State.ptpReceived
  try dsimp only
  repeat' first
    | with_reducible assumption
    | with_reducible apply only_bumpReg
    | with_reducible apply only_raise
    | with_reducible apply only_timeRx
    | with_reducible apply Only.when
    | with_reducible apply Only.ite
    | exact List.Subset.trans (by decide) hM
    | (intro _ _ _)
    | (intro _ _)
    | split
    | with_reducible refine Only.set_sup (Comp.of hM (by decide)) ?_

theorem only_linkDown {cs : List Comp} {z s : State} (hK : Only cs z s) (hM : [.regs, .clk, .tim, .pwm, .gd, .flt, .sup, .out] ⊆ cs) :
    Only cs z (State.linkDown s) := by
  unfold State.linkDown
  try dsimp only
  repeat' first
    | with_reducible assumption
    | with_reducible apply only_setFlag
    | with_reducible apply only_raise
    | with_reducible apply Only.when
    | exact List.Subset.trans (by decide) hM
    | (intro _ _ _)
    | (intro _ _)
    | with_reducible refine Only.set_sup (Comp.of hM (by decide)) ?_

theorem only_linkUp {cs : List Comp} {z s : State} (hK : Only cs z s) (hM : [.regs, .pwm, .gd, .flt, .sup] ⊆ cs) :
    Only cs z (State.linkUp s) := by
  unfold State.linkUp
  try dsimp only
  repeat' first
    | with_reducible assumption
    | with_reducible apply only_setFlag
    | with_reducible apply only_put
    | with_reducible apply only_endCause
    | with_reducible apply Only.when
    | exact List.Subset.trans (by decide) hM
    | (intro _ _ _)
    | (intro _ _)
    | with_reducible refine Only.set_sup (Comp.of hM (by decide)) ?_

theorem only_rraEnd {cs : List Comp} {z s : State} (hK : Only cs z s) (err done : Nat) (hM : [.regs, .rng] ⊆ cs) :
    Only cs z (State.rraEnd s err done) := by
  unfold State.rraEnd
  try dsimp only
  repeat' first
    | with_reducible assumption
    | with_reducible apply only_put
    | with_reducible apply Only.ite
    | exact List.Subset.trans (by decide) hM
    | (intro _ _ _)
    | (intro _ _)
    | with_reducible refine Only.set_rng (Comp.of hM (by decide)) ?_

theorem only_rraFill {cs : List Comp} {z s : State} (hK : Only cs z s) (ws : List Word) (hM : [.regs] ⊆ cs) :
    Only cs z (State.rraFill s ws) := by
  unfold State.rraFill
  try dsimp only
  repeat' first
    | with_reducible assumption
    | with_reducible apply only_wrAll
    | exact List.Subset.trans (by decide) hM
    | (intro _ _ _)
    | (intro _ _)

theorem only_rraExec {cs : List Comp} {z s : State} (hK : Only cs z s) (by_ : Master) (write : Bool) (a n : Nat) (ws : List Word) (hM : [.regs, .mem, .sys, .clk, .flash, .fuse, .img, .lnk, .rng, .tim, .pwm, .gd, .dpx, .flt, .eng, .adc, .memx, .thm, .bal, .saf, .sup, .mbx, .mtr, .raises, .out, .free] ⊆ cs) :
    Only cs z (State.rraExec s by_ write a n ws).1 := by
  unfold State.rraExec
  try dsimp only
  repeat' first
    | with_reducible assumption
    | with_reducible apply only_writeWords
    | with_reducible apply only_readWords
    | with_reducible apply Only.iteFst
    | with_reducible apply Only.ite
    | exact List.Subset.trans (by decide) hM
    | (intro _ _ _)
    | (intro _ _)

theorem only_rraGo {cs : List Comp} {z s : State} (hK : Only cs z s) (hM : [.regs, .mem, .sys, .clk, .flash, .fuse, .img, .lnk, .rng, .tim, .pwm, .gd, .dpx, .flt, .eng, .adc, .memx, .thm, .bal, .saf, .sup, .mbx, .mtr, .raises, .out, .free] ⊆ cs) :
    Only cs z (State.rraGo s) := by
  unfold State.rraGo
  try dsimp only
  repeat' first
    | with_reducible assumption
    | with_reducible apply only_rraEnd
    | with_reducible apply only_rraExec
    | with_reducible apply only_rraFill
    | with_reducible apply only_put
    | with_reducible apply only_sendRra
    | with_reducible apply Only.wr
    | with_reducible apply Only.iteFst
    | with_reducible apply Only.ite
    | exact List.Subset.trans (by decide) hM
    | (intro _ _ _)
    | (intro _ _)
    | with_reducible refine Only.set_rng (Comp.of hM (by decide)) ?_

theorem only_rraCtrl {cs : List Comp} {z s : State} (hK : Only cs z s) (m : Master) (v : Nat)
    (hM : [.regs, .mem, .sys, .clk, .flash, .fuse, .img, .lnk, .rng, .tim, .pwm, .gd, .dpx, .flt, .eng, .adc, .memx, .thm, .bal, .saf, .sup, .mbx, .mtr, .raises, .out, .free] ⊆ cs) : Only cs z (State.rraCtrl s m v).1 := by
  unfold State.rraCtrl
  refine Only.iteFst hK ?_
  have h := only_writeAccess hK m m R.RNG_RRA_CTRL 4 v .clean (List.Subset.trans (by decide) hM)
  split
  · next s1 heq => rw [heq] at h; exact Only.when h fun b hb => only_rraGo hb (List.Subset.trans (by decide) hM)
  · exact h

theorem only_rraMessage {cs : List Comp} {z s : State} (hK : Only cs z s) (src : Nat) (d : List Byte) (hM : [.regs, .mem, .sys, .clk, .flash, .fuse, .img, .lnk, .rng, .tim, .pwm, .gd, .dpx, .flt, .eng, .adc, .memx, .thm, .bal, .saf, .sup, .mbx, .mtr, .raises, .out, .free] ⊆ cs) :
    Only cs z (State.rraMessage s src d) := by
  unfold State.rraMessage
  try dsimp only
  repeat' first
    | with_reducible assumption
    | with_reducible apply only_rraExec
    | with_reducible apply only_bulkSend
    | with_reducible apply only_hostAnswer
    | with_reducible apply only_recvPolled
    | with_reducible apply only_rraFill
    | with_reducible apply only_rraEnd
    | with_reducible apply Only.when
    | with_reducible apply Only.iteFst
    | with_reducible apply Only.ite
    | exact List.Subset.trans (by decide) hM
    | (intro _ _ _)
    | (intro _ _)
    | split

theorem only_batchMessage {cs : List Comp} {z s : State} (hK : Only cs z s) (src : Nat) (b : BulkIn) (hM : [.regs, .clk, .rng, .tim, .pwm, .gd, .flt, .sup, .raises, .out] ⊆ cs) :
    Only cs z (State.batchMessage s src b) := by
  unfold State.batchMessage
  try dsimp only
  repeat' first
    | with_reducible assumption
    | with_reducible apply only_batchAck
    | with_reducible apply only_batchCancel
    | with_reducible apply only_batchStage
    | with_reducible apply only_bulkSend
    | with_reducible apply Only.when
    | with_reducible apply Only.iteFst
    | with_reducible apply Only.ite
    | exact List.Subset.trans (by decide) hM
    | (intro _ _ _)
    | (intro _ _)
    | split
    | with_reducible refine Only.set_flt (Comp.of hM (by decide)) ?_

theorem only_batchApply {cs : List Comp} {z s : State} (hK : Only cs z s) (hM : [.regs, .mem, .sys, .clk, .flash, .fuse, .img, .lnk, .rng, .tim, .pwm, .gd, .dpx, .flt, .eng, .adc, .memx, .thm, .bal, .saf, .sup, .mbx, .mtr, .raises, .out, .free] ⊆ cs) :
    Only cs z (State.batchApply s) := by
  have hl := fun b (hb : Only cs z b) e x y => only_ledTo hb e x y (List.Subset.trans (by decide) hM)
  have hn := fun b (hb : Only cs z b) x y => only_wrN hb x y (List.Subset.trans (by decide) hM)
  unfold State.batchApply
  split
  · exact hK
  · next p t _ =>
    extract_lets e u src s0 src2 i refuse
    have hu : Only cs z u := only_runUp hK _ (List.Subset.trans (by decide) hM)
    have h0 : Only cs z s0 := Only.when (Only.set_flt (Comp.of hM (by decide)) hu) fun b hb => hl b hb _ _ _
    split
    · exact Only.set_flt (Comp.of hM (by decide)) h0
    · next a v _ =>
      extract_lets s1 last src2 s2
      have hr : ∀ b c, Only cs z b → Only cs z (refuse b c) := fun b c hb =>
        only_batchFault (Only.when hb fun b hb => hn b hb _ _) _ _ (List.Subset.trans (by decide) hM)
      have h1 : Only cs z s1 := by
        have h := only_writeAccess h0 .ha .ra a.toNat 4 v.toNat .clean (List.Subset.trans (by decide) hM)
        unfold s1
        split
        · next t1 heq => rw [heq] at h; exact hn _ h _ _
        · next t1 heq => rw [heq] at h; exact hr _ _ h
        · exact hr _ _ h0
      exact Only.when (Only.set_flt (Comp.of hM (by decide)) h1) fun b hb =>
        only_sendOutcome (hl b hb _ _ _) _ (List.Subset.trans (by decide) hM)

theorem only_relayedFault {cs : List Comp} {z s : State} (hK : Only cs z s) (src : Nat) (p : List Byte) (hM : [.regs, .clk, .tim, .pwm, .gd, .flt, .sup, .out] ⊆ cs) :
    Only cs z (State.relayedFault s src p) := by
  unfold State.relayedFault
  try dsimp only
  repeat' first
    | with_reducible assumption
    | with_reducible apply only_raise
    | with_reducible apply only_report
    | with_reducible apply Only.when
    | with_reducible apply Only.ite
    | exact List.Subset.trans (by decide) hM
    | (intro _ _ _)
    | (intro _ _)

theorem only_relayMessage {cs : List Comp} {z s : State} (hK : Only cs z s) (src : Nat) (d : List Byte) (hM : [.regs, .sys, .clk, .rng, .tim, .pwm, .gd, .flt, .sup, .mtr, .out] ⊆ cs) :
    Only cs z (State.relayMessage s src d) := by
  unfold State.relayMessage
  try dsimp only
  repeat' first
    | with_reducible assumption
    | with_reducible apply only_accCheck
    | with_reducible apply only_relayTo
    | with_reducible apply only_relayAnswer
    | with_reducible apply only_signQueue
    | with_reducible apply only_relayedFault
    | with_reducible apply only_forwardHealth
    | with_reducible apply only_report
    | with_reducible apply Only.when
    | with_reducible apply Only.ite
    | exact List.Subset.trans (by decide) hM
    | (intro _ _ _)
    | (intro _ _)

theorem only_bulkReceived {cs : List Comp} {z s : State} (hK : Only cs z s) (a : Arrival)
    (hM : [.regs, .mem, .sys, .clk, .flash, .fuse, .img, .lnk, .rng, .tim, .pwm, .gd, .dpx, .flt, .eng, .adc, .memx, .thm, .bal, .saf, .sup, .mbx, .mtr, .raises, .out, .free] ⊆ cs) : Only cs z (State.bulkReceived s a) := by
  unfold State.bulkReceived
  extract_lets cw src
  refine Only.ite hK ?_
  have h := only_bulkTake hK src cw (List.Subset.trans (by decide) hM)
  split
  · next s1 heq => rw [heq] at h; exact h
  · next s1 b heq =>
    rw [heq] at h
    have h : Only cs z s1 := h
    split
    · exact only_batchMessage h _ _ (List.Subset.trans (by decide) hM)
    · exact Only.when h fun b hb => only_rraMessage hb _ _ (List.Subset.trans (by decide) hM)
    · exact Only.when h fun b hb => only_mbxMessage hb _ _ (List.Subset.trans (by decide) hM)
    · exact Only.when h fun b hb => only_relayMessage hb _ _ (List.Subset.trans (by decide) hM)
    · exact h

theorem only_busWrite {cs : List Comp} {z s : State} (hK : Only cs z s) (m : Master) (a size : Nat) (v : Nat) (e : Ecc) (hM : [.regs, .mem, .sys, .clk, .flash, .fuse, .img, .lnk, .rng, .tim, .pwm, .gd, .dpx, .flt, .eng, .adc, .memx, .thm, .bal, .saf, .sup, .mbx, .mtr, .raises, .out, .free] ⊆ cs) :
    Only cs z (State.busWrite s m a size v e) := by
  unfold State.busWrite
  try dsimp only
  repeat' first
    | with_reducible assumption
    | with_reducible apply only_rraCtrl
    | with_reducible apply only_writeAccess
    | with_reducible apply only_answer
    | with_reducible apply Only.iteFst
    | with_reducible apply Only.ite
    | exact List.Subset.trans (by decide) hM
    | (intro _ _ _)
    | (intro _ _)

end Sys2Proof.Machine
end

