-- ==== Sys2Proof/Laws/OnlyExec.lean ====
section
/-! SUPPORT. Laws/OnlyExec.lean: which components of the state each command may change. -/
namespace Sys2Proof.Machine
set_option Elab.async false

theorem execBulkInsert_only (p : Fin 4) (l : Fin 2) (bad : Bool) {s s' : State} (h : execBulkInsert p l bad s = .next s') :
    Only [.regs, .clk, .rng, .tim, .pwm, .gd, .flt, .out, .free] s s' := by
  cases h
  have hK : Only [.regs, .clk, .rng, .tim, .pwm, .gd, .flt, .out, .free] s s := Only.refl _ _
  have hM := List.Subset.refl ([.regs, .clk, .rng, .tim, .pwm, .gd, .flt, .out, .free] : List Comp)
  try dsimp only
  repeat' first
    | with_reducible assumption
    | with_reducible apply only_bulkInsert
    | with_reducible apply Only.live
    | exact List.Subset.trans (by decide) hM
    | (intro _ _ _)
    | (intro _ _)

theorem execBulkResend_only (dst stream : BitVec 8) {s s' : State} (h : execBulkResend dst stream s = .next s') :
    Only [.rng] s s' := by
  cases h
  have hK : Only [.rng] s s := Only.refl _ _
  have hM := List.Subset.refl ([.rng] : List Comp)
  try dsimp only
  repeat' first
    | with_reducible assumption
    | with_reducible apply only_bulkResend
    | with_reducible apply Only.live
    | exact List.Subset.trans (by decide) hM
    | (intro _ _ _)
    | (intro _ _)

theorem execCreditOnlySend_only (dst stream : BitVec 8) {s s' : State} (h : execCreditOnlySend dst stream s = .next s') :
    Only [.rng, .out, .free] s s' := by
  cases h
  have hK : Only [.rng, .out, .free] s s := Only.refl _ _
  have hM := List.Subset.refl ([.rng, .out, .free] : List Comp)
  try dsimp only
  repeat' first
    | with_reducible assumption
    | with_reducible apply only_creditOnly
    | with_reducible apply Only.live
    | exact List.Subset.trans (by decide) hM
    | (intro _ _ _)
    | (intro _ _)

theorem execAdcTrigger_only (m : Fin 16) {s s' : State} (h : execAdcTrigger m s = .next s') :
    Only [.regs, .sys, .clk, .tim, .pwm, .gd, .flt, .adc, .sup, .out] s s' := by
  cases h
  have hK : Only [.regs, .sys, .clk, .tim, .pwm, .gd, .flt, .adc, .sup, .out] s s := Only.refl _ _
  have hM := List.Subset.refl ([.regs, .sys, .clk, .tim, .pwm, .gd, .flt, .adc, .sup, .out] : List Comp)
  try dsimp only
  repeat' first
    | with_reducible assumption
    | with_reducible apply only_adcTrigger
    | with_reducible apply Only.live
    | exact List.Subset.trans (by decide) hM
    | (intro _ _ _)
    | (intro _ _)

theorem execHoldInstant_only (m : Fin 16) {s s' : State} (h : execHoldInstant m s = .next s') :
    Only [.regs, .sys, .clk, .tim, .pwm, .gd, .flt, .adc, .sup, .out] s s' := by
  cases h
  have hK : Only [.regs, .sys, .clk, .tim, .pwm, .gd, .flt, .adc, .sup, .out] s s := Only.refl _ _
  have hM := List.Subset.refl ([.regs, .sys, .clk, .tim, .pwm, .gd, .flt, .adc, .sup, .out] : List Comp)
  try dsimp only
  repeat' first
    | with_reducible assumption
    | with_reducible apply only_holdInstant
    | with_reducible apply Only.live
    | exact List.Subset.trans (by decide) hM
    | (intro _ _ _)
    | (intro _ _)

theorem execConversionEnd_only (a : Fin 2) (raw : Int) {s s' : State} (h : execConversionEnd a raw s = .next s') :
    Only [.regs, .sys, .clk, .rng, .tim, .pwm, .gd, .flt, .eng, .adc, .sup, .out] s s' := by
  cases h
  have hK : Only [.regs, .sys, .clk, .rng, .tim, .pwm, .gd, .flt, .eng, .adc, .sup, .out] s s := Only.refl _ _
  have hM := List.Subset.refl ([.regs, .sys, .clk, .rng, .tim, .pwm, .gd, .flt, .eng, .adc, .sup, .out] : List Comp)
  try dsimp only
  repeat' first
    | with_reducible assumption
    | with_reducible apply only_conversionEnd
    | with_reducible apply Only.live
    | exact List.Subset.trans (by decide) hM
    | (intro _ _ _)
    | (intro _ _)

theorem execLpWrite_only (v : BitVec 2) {s s' : State} (h : execLpWrite v s = .next s') :
    Only [.regs, .adc] s s' := by
  cases h
  have hK : Only [.regs, .adc] s s := Only.refl _ _
  have hM := List.Subset.refl ([.regs, .adc] : List Comp)
  try dsimp only
  repeat' first
    | with_reducible assumption
    | with_reducible apply only_lpWrite
    | with_reducible apply Only.live
    | exact List.Subset.trans (by decide) hM
    | (intro _ _ _)
    | (intro _ _)

theorem execLowPowerSwitchEnd_only (a : Fin 2) {s s' : State} (h : execLowPowerSwitchEnd a s = .next s') :
    Only [.regs, .adc] s s' := by
  cases h
  have hK : Only [.regs, .adc] s s := Only.refl _ _
  have hM := List.Subset.refl ([.regs, .adc] : List Comp)
  try dsimp only
  repeat' first
    | with_reducible assumption
    | with_reducible apply only_lpSwitchEnd
    | with_reducible apply Only.when
    | with_reducible apply Only.live
    | exact List.Subset.trans (by decide) hM
    | (intro _ _ _)
    | (intro _ _)

theorem execChWrite_only (m : Fin 16) (v : BitVec 5) {s s' : State} (h : execChWrite m v s = .next s') :
    Only [.regs, .adc] s s' := by
  cases h
  have hK : Only [.regs, .adc] s s := Only.refl _ _
  have hM := List.Subset.refl ([.regs, .adc] : List Comp)
  try dsimp only
  repeat' first
    | with_reducible assumption
    | with_reducible apply only_chWrite
    | with_reducible apply Only.live
    | exact List.Subset.trans (by decide) hM
    | (intro _ _ _)
    | (intro _ _)

theorem execHousekeepingStart_only (a : Fin 2) (ch : Fin 19) {s s' : State} (h : execHousekeepingStart a ch s = .next s') :
    Only [.regs, .sys, .clk, .tim, .pwm, .gd, .flt, .adc, .sup, .out] s s' := by
  cases h
  have hK : Only [.regs, .sys, .clk, .tim, .pwm, .gd, .flt, .adc, .sup, .out] s s := Only.refl _ _
  have hM := List.Subset.refl ([.regs, .sys, .clk, .tim, .pwm, .gd, .flt, .adc, .sup, .out] : List Comp)
  try dsimp only
  repeat' first
    | with_reducible assumption
    | with_reducible apply only_hkStart
    | with_reducible apply Only.live
    | exact List.Subset.trans (by decide) hM
    | (intro _ _ _)
    | (intro _ _)

theorem execReferenceCheck_only (a : Fin 2) {s s' : State} (h : execReferenceCheck a s = .next s') :
    Only [.regs, .sys, .clk, .tim, .pwm, .gd, .flt, .adc, .sup, .out] s s' := by
  cases h
  have hK : Only [.regs, .sys, .clk, .tim, .pwm, .gd, .flt, .adc, .sup, .out] s s := Only.refl _ _
  have hM := List.Subset.refl ([.regs, .sys, .clk, .tim, .pwm, .gd, .flt, .adc, .sup, .out] : List Comp)
  try dsimp only
  repeat' first
    | with_reducible assumption
    | with_reducible apply only_refCheck
    | with_reducible apply Only.live
    | exact List.Subset.trans (by decide) hM
    | (intro _ _ _)
    | (intro _ _)

theorem execAdcCntClr_only {s s' : State} (h : execAdcCntClr s = .next s') :
    Only [.regs] s s' := by
  cases h
  have hK : Only [.regs] s s := Only.refl _ _
  have hM := List.Subset.refl ([.regs] : List Comp)
  try dsimp only
  repeat' first
    | with_reducible assumption
    | with_reducible apply only_adcCntClr
    | with_reducible apply Only.live
    | exact List.Subset.trans (by decide) hM
    | (intro _ _ _)
    | (intro _ _)

theorem execLanePllLock_only (pll : Fin 2) {s s' : State} (h : execLanePllLock pll s = .next s') :
    Only [.regs, .clk, .lnk, .tim, .pwm, .gd, .flt, .out, .free] s s' := by
  cases h
  have hK : Only [.regs, .clk, .lnk, .tim, .pwm, .gd, .flt, .out, .free] s s := Only.refl _ _
  have hM := List.Subset.refl ([.regs, .clk, .lnk, .tim, .pwm, .gd, .flt, .out, .free] : List Comp)
  try dsimp only
  repeat' first
    | with_reducible assumption
    | with_reducible apply only_lanePllLock
    | with_reducible apply Only.live
    | exact List.Subset.trans (by decide) hM
    | (intro _ _ _)
    | (intro _ _)

theorem execLanePllLoss_only (pll : Fin 2) {s s' : State} (h : execLanePllLoss pll s = .next s') :
    Only [.regs, .clk, .lnk, .tim, .pwm, .gd, .flt, .out] s s' := by
  cases h
  have hK : Only [.regs, .clk, .lnk, .tim, .pwm, .gd, .flt, .out] s s := Only.refl _ _
  have hM := List.Subset.refl ([.regs, .clk, .lnk, .tim, .pwm, .gd, .flt, .out] : List Comp)
  try dsimp only
  repeat' first
    | with_reducible assumption
    | with_reducible apply only_lanePllLoss
    | with_reducible apply Only.live
    | exact List.Subset.trans (by decide) hM
    | (intro _ _ _)
    | (intro _ _)

theorem execBothLanePllsOutOfLock_only {s s' : State} (h : execBothLanePllsOutOfLock s = .next s') :
    Only [.regs, .sys, .clk, .tim, .pwm, .gd, .flt, .sup, .out] s s' := by
  cases h
  have hK : Only [.regs, .sys, .clk, .tim, .pwm, .gd, .flt, .sup, .out] s s := Only.refl _ _
  have hM := List.Subset.refl ([.regs, .sys, .clk, .tim, .pwm, .gd, .flt, .sup, .out] : List Comp)
  try dsimp only
  repeat' first
    | with_reducible assumption
    | with_reducible apply only_bothPllsOut
    | with_reducible apply Only.live
    | exact List.Subset.trans (by decide) hM
    | (intro _ _ _)
    | (intro _ _)

theorem execCdrLock_only (p : Fin 5) (l : Fin 2) {s s' : State} (h : execCdrLock p l s = .next s') :
    Only [.regs, .clk, .lnk, .tim, .pwm, .gd, .flt, .out] s s' := by
  cases h
  have hK : Only [.regs, .clk, .lnk, .tim, .pwm, .gd, .flt, .out] s s := Only.refl _ _
  have hM := List.Subset.refl ([.regs, .clk, .lnk, .tim, .pwm, .gd, .flt, .out] : List Comp)
  try dsimp only
  repeat' first
    | with_reducible assumption
    | with_reducible apply only_cdrLock
    | with_reducible apply Only.live
    | exact List.Subset.trans (by decide) hM
    | (intro _ _ _)
    | (intro _ _)

theorem execFrameLock_only (p : Fin 5) (l : Fin 2) {s s' : State} (h : execFrameLock p l s = .next s') :
    Only [.regs, .clk, .img, .lnk, .tim, .pwm, .gd, .dpx, .flt, .out, .free] s s' := by
  cases h
  have hK : Only [.regs, .clk, .img, .lnk, .tim, .pwm, .gd, .dpx, .flt, .out, .free] s s := Only.refl _ _
  have hM := List.Subset.refl ([.regs, .clk, .img, .lnk, .tim, .pwm, .gd, .dpx, .flt, .out, .free] : List Comp)
  try dsimp only
  repeat' first
    | with_reducible assumption
    | with_reducible apply only_frameLock
    | with_reducible apply Only.live
    | exact List.Subset.trans (by decide) hM
    | (intro _ _ _)
    | (intro _ _)

theorem execLossOfFrame_only (p : Fin 5) (l : Fin 2) {s s' : State} (h : execLossOfFrame p l s = .next s') :
    Only [.regs, .clk, .lnk, .tim, .pwm, .gd, .flt, .out] s s' := by
  cases h
  have hK : Only [.regs, .clk, .lnk, .tim, .pwm, .gd, .flt, .out] s s := Only.refl _ _
  have hM := List.Subset.refl ([.regs, .clk, .lnk, .tim, .pwm, .gd, .flt, .out] : List Comp)
  try dsimp only
  repeat' first
    | with_reducible assumption
    | with_reducible apply only_lossOfFrame
    | with_reducible apply Only.live
    | exact List.Subset.trans (by decide) hM
    | (intro _ _ _)
    | (intro _ _)

theorem execLossOfSignal_only (p : Fin 5) (l : Fin 2) {s s' : State} (h : execLossOfSignal p l s = .next s') :
    Only [.regs, .clk, .lnk, .tim, .pwm, .gd, .flt, .out] s s' := by
  cases h
  have hK : Only [.regs, .clk, .lnk, .tim, .pwm, .gd, .flt, .out] s s := Only.refl _ _
  have hM := List.Subset.refl ([.regs, .clk, .lnk, .tim, .pwm, .gd, .flt, .out] : List Comp)
  try dsimp only
  repeat' first
    | with_reducible assumption
    | with_reducible apply only_lossOfSignal
    | with_reducible apply Only.live
    | exact List.Subset.trans (by decide) hM
    | (intro _ _ _)
    | (intro _ _)

theorem execLaneRetry_only (p : Fin 5) (l : Fin 2) {s s' : State} (h : execLaneRetry p l s = .next s') :
    Only [.regs, .sys, .clk, .lnk, .tim, .pwm, .gd, .flt, .sup, .out, .free] s s' := by
  cases h
  have hK : Only [.regs, .sys, .clk, .lnk, .tim, .pwm, .gd, .flt, .sup, .out, .free] s s := Only.refl _ _
  have hM := List.Subset.refl ([.regs, .sys, .clk, .lnk, .tim, .pwm, .gd, .flt, .sup, .out, .free] : List Comp)
  try dsimp only
  repeat' first
    | with_reducible assumption
    | with_reducible apply only_laneRetry
    | with_reducible apply Only.live
    | exact List.Subset.trans (by decide) hM
    | (intro _ _ _)
    | (intro _ _)

theorem execTrainingDone_only (p : Fin 5) {s s' : State} (h : execTrainingDone p s = .next s') :
    Only [.regs, .clk, .lnk, .tim, .pwm, .gd, .flt, .out] s s' := by
  cases h
  have hK : Only [.regs, .clk, .lnk, .tim, .pwm, .gd, .flt, .out] s s := Only.refl _ _
  have hM := List.Subset.refl ([.regs, .clk, .lnk, .tim, .pwm, .gd, .flt, .out] : List Comp)
  try dsimp only
  repeat' first
    | with_reducible assumption
    | with_reducible apply only_trainingDone
    | with_reducible apply Only.live
    | exact List.Subset.trans (by decide) hM
    | (intro _ _ _)
    | (intro _ _)

theorem execTrainingFail_only (p : Fin 5) (err : Fin 5) {s s' : State} (h : execTrainingFail p err s = .next s') :
    Only [.regs, .sys, .clk, .lnk, .tim, .pwm, .gd, .flt, .sup, .out] s s' := by
  cases h
  have hK : Only [.regs, .sys, .clk, .lnk, .tim, .pwm, .gd, .flt, .sup, .out] s s := Only.refl _ _
  have hM := List.Subset.refl ([.regs, .sys, .clk, .lnk, .tim, .pwm, .gd, .flt, .sup, .out] : List Comp)
  try dsimp only
  repeat' first
    | with_reducible assumption
    | with_reducible apply only_trainingFail
    | with_reducible apply Only.live
    | exact List.Subset.trans (by decide) hM
    | (intro _ _ _)
    | (intro _ _)

theorem execTrainWaitEnd_only (p : Fin 5) {s s' : State} (h : execTrainWaitEnd p s = .next s') :
    Only [.regs, .sys, .clk, .lnk, .tim, .pwm, .gd, .flt, .sup, .out] s s' := by
  cases h
  have hK : Only [.regs, .sys, .clk, .lnk, .tim, .pwm, .gd, .flt, .sup, .out] s s := Only.refl _ _
  have hM := List.Subset.refl ([.regs, .sys, .clk, .lnk, .tim, .pwm, .gd, .flt, .sup, .out] : List Comp)
  try dsimp only
  repeat' first
    | with_reducible assumption
    | with_reducible apply only_trainWaitEnd
    | with_reducible apply Only.live
    | exact List.Subset.trans (by decide) hM
    | (intro _ _ _)
    | (intro _ _)

theorem execElasticBufferLimit_only (p : Fin 5) (l : Fin 2) {s s' : State} (h : execElasticBufferLimit p l s = .next s') :
    Only [.regs, .clk, .lnk, .tim, .pwm, .gd, .flt, .out] s s' := by
  cases h
  have hK : Only [.regs, .clk, .lnk, .tim, .pwm, .gd, .flt, .out] s s := Only.refl _ _
  have hM := List.Subset.refl ([.regs, .clk, .lnk, .tim, .pwm, .gd, .flt, .out] : List Comp)
  try dsimp only
  repeat' first
    | with_reducible assumption
    | with_reducible apply only_bufferLimit
    | with_reducible apply Only.live
    | exact List.Subset.trans (by decide) hM
    | (intro _ _ _)
    | (intro _ _)

theorem execEyeMonitorUpdate_only (p : Fin 5) (l : Fin 2) (height width : BitVec 8) (ser : Fin 13) {s s' : State} (h : execEyeMonitorUpdate p l height width ser s = .next s') :
    Only [.regs, .clk, .lnk, .tim, .pwm, .gd, .flt, .out] s s' := by
  cases h
  have hK : Only [.regs, .clk, .lnk, .tim, .pwm, .gd, .flt, .out] s s := Only.refl _ _
  have hM := List.Subset.refl ([.regs, .clk, .lnk, .tim, .pwm, .gd, .flt, .out] : List Comp)
  try dsimp only
  repeat' first
    | with_reducible assumption
    | with_reducible apply only_eyeUpdate
    | with_reducible apply Only.live
    | exact List.Subset.trans (by decide) hM
    | (intro _ _ _)
    | (intro _ _)

theorem execChillWrite_only (p : Fin 5) (on : Bool) {s s' : State} (h : execChillWrite p on s = .next s') :
    Only [.regs, .clk, .lnk, .tim, .pwm, .gd, .flt, .out] s s' := by
  cases h
  have hK : Only [.regs, .clk, .lnk, .tim, .pwm, .gd, .flt, .out] s s := Only.refl _ _
  have hM := List.Subset.refl ([.regs, .clk, .lnk, .tim, .pwm, .gd, .flt, .out] : List Comp)
  try dsimp only
  repeat' first
    | with_reducible assumption
    | with_reducible apply only_chillWrite
    | with_reducible apply Only.live
    | exact List.Subset.trans (by decide) hM
    | (intro _ _ _)
    | (intro _ _)

theorem execTrainWrite_only (p : Fin 5) {s s' : State} (h : execTrainWrite p s = .next s') :
    Only [.regs, .clk, .lnk, .tim, .pwm, .gd, .flt, .out, .free] s s' := by
  cases h
  have hK : Only [.regs, .clk, .lnk, .tim, .pwm, .gd, .flt, .out, .free] s s := Only.refl _ _
  have hM := List.Subset.refl ([.regs, .clk, .lnk, .tim, .pwm, .gd, .flt, .out, .free] : List Comp)
  try dsimp only
  repeat' first
    | with_reducible assumption
    | with_reducible apply only_trainWrite
    | with_reducible apply Only.live
    | exact List.Subset.trans (by decide) hM
    | (intro _ _ _)
    | (intro _ _)

theorem execLnkCntClr_only (p : Fin 5) {s s' : State} (h : execLnkCntClr p s = .next s') :
    Only [.regs] s s' := by
  cases h
  have hK : Only [.regs] s s := Only.refl _ _
  have hM := List.Subset.refl ([.regs] : List Comp)
  try dsimp only
  repeat' first
    | with_reducible assumption
    | with_reducible apply only_lnkCntClr
    | with_reducible apply Only.live
    | exact List.Subset.trans (by decide) hM
    | (intro _ _ _)
    | (intro _ _)

theorem execCarrierStart_only (ch : Fin 8) {s s' : State} (h : execCarrierStart ch s = .next s') :
    Only [.regs, .sys, .clk, .rng, .tim, .pwm, .gd, .flt, .eng, .adc, .sup, .out] s s' := by
  cases h
  have hK : Only [.regs, .sys, .clk, .rng, .tim, .pwm, .gd, .flt, .eng, .adc, .sup, .out] s s := Only.refl _ _
  have hM := List.Subset.refl ([.regs, .sys, .clk, .rng, .tim, .pwm, .gd, .flt, .eng, .adc, .sup, .out] : List Comp)
  try dsimp only
  repeat' first
    | with_reducible assumption
    | with_reducible apply only_carrierE0
    | with_reducible apply Only.when
    | with_reducible apply Only.live
    | exact List.Subset.trans (by decide) hM
    | (intro _ _ _)
    | (intro _ _)

theorem execCarrierMidpoint_only (ch : Fin 8) {s s' : State} (h : execCarrierMidpoint ch s = .next s') :
    Only [.regs, .sys, .clk, .rng, .tim, .pwm, .gd, .flt, .eng, .adc, .sup, .out] s s' := by
  cases h
  have hK : Only [.regs, .sys, .clk, .rng, .tim, .pwm, .gd, .flt, .eng, .adc, .sup, .out] s s := Only.refl _ _
  have hM := List.Subset.refl ([.regs, .sys, .clk, .rng, .tim, .pwm, .gd, .flt, .eng, .adc, .sup, .out] : List Comp)
  try dsimp only
  repeat' first
    | with_reducible assumption
    | with_reducible apply only_carrierMidpoint
    | with_reducible apply Only.when
    | with_reducible apply Only.live
    | exact List.Subset.trans (by decide) hM
    | (intro _ _ _)
    | (intro _ _)

theorem execCompareEvent_only (ch : Fin 8) (e3 : Bool) {s s' : State} (h : execCompareEvent ch e3 s = .next s') :
    Only [.regs, .sys, .clk, .rng, .tim, .pwm, .gd, .flt, .eng, .adc, .sup, .out] s s' := by
  cases h
  have hK : Only [.regs, .sys, .clk, .rng, .tim, .pwm, .gd, .flt, .eng, .adc, .sup, .out] s s := Only.refl _ _
  have hM := List.Subset.refl ([.regs, .sys, .clk, .rng, .tim, .pwm, .gd, .flt, .eng, .adc, .sup, .out] : List Comp)
  try dsimp only
  repeat' first
    | with_reducible assumption
    | with_reducible apply only_compareE3
    | with_reducible apply only_compareE2
    | with_reducible apply Only.when
    | with_reducible apply Only.live
    | with_reducible apply Only.ite
    | exact List.Subset.trans (by decide) hM
    | (intro _ _ _)
    | (intro _ _)

theorem execDeadIntervalEnd_only (leg : Fin 6) {s s' : State} (h : execDeadIntervalEnd leg s = .next s') :
    Only [.regs, .sys, .clk, .tim, .pwm, .gd, .flt, .sup, .out] s s' := by
  cases h
  have hK : Only [.regs, .sys, .clk, .tim, .pwm, .gd, .flt, .sup, .out] s s := Only.refl _ _
  have hM := List.Subset.refl ([.regs, .sys, .clk, .tim, .pwm, .gd, .flt, .sup, .out] : List Comp)
  try dsimp only
  repeat' first
    | with_reducible assumption
    | with_reducible apply only_deadEnd
    | with_reducible apply Only.live
    | exact List.Subset.trans (by decide) hM
    | (intro _ _ _)
    | (intro _ _)

theorem execPwmShadowWrite_only (ch : Fin 8) (reg : ShadowReg) (v : Word) {s s' : State} (h : execPwmShadowWrite ch reg v s = .next s') :
    Only [.regs, .pwm] s s' := by
  cases h
  have hK : Only [.regs, .pwm] s s := Only.refl _ _
  have hM := List.Subset.refl ([.regs, .pwm] : List Comp)
  try dsimp only
  repeat' first
    | with_reducible assumption
    | with_reducible apply only_shadowWrite
    | with_reducible apply Only.live
    | exact List.Subset.trans (by decide) hM
    | (intro _ _ _)
    | (intro _ _)

theorem execPwmCtrlWrite_only (ch : Fin 8) (v : Word) {s s' : State} (h : execPwmCtrlWrite ch v s = .next s') :
    Only [.regs, .pwm, .gd] s s' := by
  cases h
  have hK : Only [.regs, .pwm, .gd] s s := Only.refl _ _
  have hM := List.Subset.refl ([.regs, .pwm, .gd] : List Comp)
  try dsimp only
  repeat' first
    | with_reducible assumption
    | with_reducible apply only_pwmCtrlWrite
    | with_reducible apply Only.live
    | exact List.Subset.trans (by decide) hM
    | (intro _ _ _)
    | (intro _ _)

theorem execTripInputActive_only (k : Fin 8) {s s' : State} (h : execTripInputActive k s = .next s') :
    Only [.regs, .clk, .tim, .pwm, .gd, .flt, .out] s s' := by
  cases h
  have hK : Only [.regs, .clk, .tim, .pwm, .gd, .flt, .out] s s := Only.refl _ _
  have hM := List.Subset.refl ([.regs, .clk, .tim, .pwm, .gd, .flt, .out] : List Comp)
  try dsimp only
  repeat' first
    | with_reducible assumption
    | with_reducible apply only_tripActive
    | with_reducible apply Only.live
    | exact List.Subset.trans (by decide) hM
    | (intro _ _ _)
    | (intro _ _)

theorem execTripInputInactive_only (k : Fin 8) {s s' : State} (h : execTripInputInactive k s = .next s') :
    Only [.regs, .pwm] s s' := by
  cases h
  have hK : Only [.regs, .pwm] s s := Only.refl _ _
  have hM := List.Subset.refl ([.regs, .pwm] : List Comp)
  try dsimp only
  repeat' first
    | with_reducible assumption
    | with_reducible apply only_tripInactive
    | with_reducible apply Only.live
    | exact List.Subset.trans (by decide) hM
    | (intro _ _ _)
    | (intro _ _)

theorem execBlankingEnd_only (ch : Fin 8) {s s' : State} (h : execBlankingEnd ch s = .next s') :
    Only [.regs, .clk, .tim, .pwm, .gd, .flt, .out] s s' := by
  cases h
  have hK : Only [.regs, .clk, .tim, .pwm, .gd, .flt, .out] s s := Only.refl _ _
  have hM := List.Subset.refl ([.regs, .clk, .tim, .pwm, .gd, .flt, .out] : List Comp)
  try dsimp only
  repeat' first
    | with_reducible assumption
    | with_reducible apply only_blankingEnd
    | with_reducible apply Only.live
    | exact List.Subset.trans (by decide) hM
    | (intro _ _ _)
    | (intro _ _)

theorem execGroupClear_only (groups : BitVec 8) {s s' : State} (h : execGroupClear groups s = .next s') :
    Only [.regs, .clk, .rng, .tim, .pwm, .gd, .flt, .sup, .out] s s' := by
  cases h
  have hK : Only [.regs, .clk, .rng, .tim, .pwm, .gd, .flt, .sup, .out] s s := Only.refl _ _
  have hM := List.Subset.refl ([.regs, .clk, .rng, .tim, .pwm, .gd, .flt, .sup, .out] : List Comp)
  try dsimp only
  repeat' first
    | with_reducible assumption
    | with_reducible apply only_groupClear
    | with_reducible apply Only.live
    | exact List.Subset.trans (by decide) hM
    | (intro _ _ _)
    | (intro _ _)

theorem execRearm_only (m : Master) {s s' : State} (h : execRearm m s = .next s') :
    Only [.regs, .clk, .pwm, .gd] s s' := by
  cases h
  have hK : Only [.regs, .clk, .pwm, .gd] s s := Only.refl _ _
  have hM := List.Subset.refl ([.regs, .clk, .pwm, .gd] : List Comp)
  try dsimp only
  repeat' first
    | with_reducible assumption
    | with_reducible apply only_rearm
    | with_reducible apply Only.byMaster
    | exact List.Subset.trans (by decide) hM
    | (intro _ _ _)
    | (intro _ _)

theorem execPwmCntClr_only {s s' : State} (h : execPwmCntClr s = .next s') :
    Only [.regs] s s' := by
  cases h
  have hK : Only [.regs] s s := Only.refl _ _
  have hM := List.Subset.refl ([.regs] : List Comp)
  try dsimp only
  repeat' first
    | with_reducible assumption
    | with_reducible apply only_pwmCntClr
    | with_reducible apply Only.live
    | exact List.Subset.trans (by decide) hM
    | (intro _ _ _)
    | (intro _ _)

theorem execDebugHalt_only {s s' : State} (h : execDebugHalt s = .next s') :
    Only [.regs, .clk, .tim, .pwm, .gd, .flt, .eng, .out] s s' := by
  cases h
  have hK : Only [.regs, .clk, .tim, .pwm, .gd, .flt, .eng, .out] s s := Only.refl _ _
  have hM := List.Subset.refl ([.regs, .clk, .tim, .pwm, .gd, .flt, .eng, .out] : List Comp)
  try dsimp only
  repeat' first
    | with_reducible assumption
    | with_reducible apply only_debugHalt
    | with_reducible apply Only.when
    | with_reducible apply Only.live
    | exact List.Subset.trans (by decide) hM
    | (intro _ _ _)
    | (intro _ _)

theorem execDebugHaltEnd_only {s s' : State} (h : execDebugHaltEnd s = .next s') :
    Only [.regs] s s' := by
  cases h
  have hK : Only [.regs] s s := Only.refl _ _
  have hM := List.Subset.refl ([.regs] : List Comp)
  try dsimp only
  repeat' first
    | with_reducible assumption
    | with_reducible apply only_setFlag
    | with_reducible apply Only.live
    | exact List.Subset.trans (by decide) hM
    | (intro _ _ _)
    | (intro _ _)

theorem execTimebaseLoss_only {s s' : State} (h : execTimebaseLoss s = .next s') :
    Only [.regs, .clk, .lnk, .tim, .pwm, .gd, .flt, .bal, .out] s s' := by
  cases h
  have hK : Only [.regs, .clk, .lnk, .tim, .pwm, .gd, .flt, .bal, .out] s s := Only.refl _ _
  have hM := List.Subset.refl ([.regs, .clk, .lnk, .tim, .pwm, .gd, .flt, .bal, .out] : List Comp)
  try dsimp only
  repeat' first
    | with_reducible assumption
    | with_reducible apply only_loseTimebase
    | with_reducible apply only_raise
    | with_reducible apply only_leaveService
    | with_reducible apply Only.live
    | exact List.Subset.trans (by decide) hM
    | (intro _ _ _)
    | (intro _ _)

theorem execShortCircuit_only (leg : Fin 6) (sw : Sw) {s s' : State} (h : execShortCircuit leg sw s = .next s') :
    Only [.regs, .sys, .clk, .tim, .pwm, .gd, .flt, .sup, .raises, .out] s s' := by
  cases h
  have hK : Only [.regs, .sys, .clk, .tim, .pwm, .gd, .flt, .sup, .raises, .out] s s := Only.refl _ _
  have hM := List.Subset.refl ([.regs, .sys, .clk, .tim, .pwm, .gd, .flt, .sup, .raises, .out] : List Comp)
  try dsimp only
  repeat' first
    | with_reducible assumption
    | with_reducible apply only_shortCircuit
    | with_reducible apply only_raiseDue
    | with_reducible apply Only.live
    | exact List.Subset.trans (by decide) hM
    | (intro _ _ _)
    | (intro _ _)

theorem execSoftTurnOffEnd_only (leg : Fin 6) (sw : Sw) {s s' : State} (h : execSoftTurnOffEnd leg sw s = .next s') :
    Only [.regs, .sys, .clk, .tim, .pwm, .gd, .flt, .sup, .raises, .out] s s' := by
  cases h
  have hK : Only [.regs, .sys, .clk, .tim, .pwm, .gd, .flt, .sup, .raises, .out] s s := Only.refl _ _
  have hM := List.Subset.refl ([.regs, .sys, .clk, .tim, .pwm, .gd, .flt, .sup, .raises, .out] : List Comp)
  try dsimp only
  repeat' first
    | with_reducible assumption
    | with_reducible apply only_softEnd
    | with_reducible apply only_raiseDue
    | with_reducible apply Only.live
    | exact List.Subset.trans (by decide) hM
    | (intro _ _ _)
    | (intro _ _)

theorem execWaitExpiry_only (leg : Fin 6) (sw : Sw) {s s' : State} (h : execWaitExpiry leg sw s = .next s') :
    Only [.regs, .sys, .clk, .rng, .tim, .pwm, .gd, .flt, .sup, .raises, .out] s s' := by
  cases h
  have hK : Only [.regs, .sys, .clk, .rng, .tim, .pwm, .gd, .flt, .sup, .raises, .out] s s := Only.refl _ _
  have hM := List.Subset.refl ([.regs, .sys, .clk, .rng, .tim, .pwm, .gd, .flt, .sup, .raises, .out] : List Comp)
  try dsimp only
  repeat' first
    | with_reducible assumption
    | with_reducible apply only_waitExpiry
    | with_reducible apply only_raiseDue
    | with_reducible apply Only.live
    | exact List.Subset.trans (by decide) hM
    | (intro _ _ _)
    | (intro _ _)

theorem execBootstrapUndervoltage_only (leg : Fin 6) {s s' : State} (h : execBootstrapUndervoltage leg s = .next s') :
    Only [.regs, .clk, .tim, .pwm, .gd, .flt, .raises, .out] s s' := by
  cases h
  have hK : Only [.regs, .clk, .tim, .pwm, .gd, .flt, .raises, .out] s s := Only.refl _ _
  have hM := List.Subset.refl ([.regs, .clk, .tim, .pwm, .gd, .flt, .raises, .out] : List Comp)
  try dsimp only
  repeat' first
    | with_reducible assumption
    | with_reducible apply only_bootUv
    | with_reducible apply only_raiseDue
    | with_reducible apply Only.live
    | exact List.Subset.trans (by decide) hM
    | (intro _ _ _)
    | (intro _ _)

theorem execBootstrapCharged_only (leg : Fin 6) {s s' : State} (h : execBootstrapCharged leg s = .next s') :
    Only [.regs, .pwm, .gd, .flt] s s' := by
  cases h
  have hK : Only [.regs, .pwm, .gd, .flt] s s := Only.refl _ _
  have hM := List.Subset.refl ([.regs, .pwm, .gd, .flt] : List Comp)
  try dsimp only
  repeat' first
    | with_reducible assumption
    | with_reducible apply only_bootCharged
    | with_reducible apply Only.live
    | exact List.Subset.trans (by decide) hM
    | (intro _ _ _)
    | (intro _ _)

theorem execChargeTimeout_only (leg : Fin 6) {s s' : State} (h : execChargeTimeout leg s = .next s') :
    Only [.regs, .sys, .clk, .tim, .pwm, .gd, .flt, .sup, .raises, .out] s s' := by
  cases h
  have hK : Only [.regs, .sys, .clk, .tim, .pwm, .gd, .flt, .sup, .raises, .out] s s := Only.refl _ _
  have hM := List.Subset.refl ([.regs, .sys, .clk, .tim, .pwm, .gd, .flt, .sup, .raises, .out] : List Comp)
  try dsimp only
  repeat' first
    | with_reducible assumption
    | with_reducible apply only_chargeTimeout
    | with_reducible apply only_raiseDue
    | with_reducible apply Only.live
    | exact List.Subset.trans (by decide) hM
    | (intro _ _ _)
    | (intro _ _)

theorem execVdrvUndervoltage_only {s s' : State} (h : execVdrvUndervoltage s = .next s') :
    Only [.regs, .clk, .tim, .pwm, .gd, .flt, .raises, .out] s s' := by
  cases h
  have hK : Only [.regs, .clk, .tim, .pwm, .gd, .flt, .raises, .out] s s := Only.refl _ _
  have hM := List.Subset.refl ([.regs, .clk, .tim, .pwm, .gd, .flt, .raises, .out] : List Comp)
  try dsimp only
  repeat' first
    | with_reducible assumption
    | with_reducible apply only_supplyUv
    | with_reducible apply only_raiseDue
    | with_reducible apply Only.live
    | exact List.Subset.trans (by decide) hM
    | (intro _ _ _)
    | (intro _ _)

theorem execVnegUndervoltage_only {s s' : State} (h : execVnegUndervoltage s = .next s') :
    Only [.regs, .clk, .tim, .pwm, .gd, .flt, .raises, .out] s s' := by
  cases h
  have hK : Only [.regs, .clk, .tim, .pwm, .gd, .flt, .raises, .out] s s := Only.refl _ _
  have hM := List.Subset.refl ([.regs, .clk, .tim, .pwm, .gd, .flt, .raises, .out] : List Comp)
  try dsimp only
  repeat' first
    | with_reducible assumption
    | with_reducible apply only_supplyUv
    | with_reducible apply only_raiseDue
    | with_reducible apply Only.live
    | exact List.Subset.trans (by decide) hM
    | (intro _ _ _)
    | (intro _ _)

theorem execSupplyUvEnd_only (sup : Supply) {s s' : State} (h : execSupplyUvEnd sup s = .next s') :
    Only [.regs, .pwm, .gd, .flt] s s' := by
  cases h
  have hK : Only [.regs, .pwm, .gd, .flt] s s := Only.refl _ _
  have hM := List.Subset.refl ([.regs, .pwm, .gd, .flt] : List Comp)
  try dsimp only
  repeat' first
    | with_reducible assumption
    | with_reducible apply only_supplyEnd
    | with_reducible apply Only.live
    | exact List.Subset.trans (by decide) hM
    | (intro _ _ _)
    | (intro _ _)

theorem execInterlock_only (leg : Fin 6) (first : Option Sw) {s s' : State} (h : execInterlock leg first s = .next s') :
    Only [.regs, .clk, .tim, .pwm, .gd, .flt, .out] s s' := by
  cases h
  have hK : Only [.regs, .clk, .tim, .pwm, .gd, .flt, .out] s s := Only.refl _ _
  have hM := List.Subset.refl ([.regs, .clk, .tim, .pwm, .gd, .flt, .out] : List Comp)
  try dsimp only
  repeat' first
    | with_reducible assumption
    | with_reducible apply only_interlock
    | with_reducible apply Only.live
    | exact List.Subset.trans (by decide) hM
    | (intro _ _ _)
    | (intro _ _)

theorem execDeadtimeViolation_only (leg : Fin 6) (sw : Sw) {s s' : State} (h : execDeadtimeViolation leg sw s = .next s') :
    Only [.regs, .clk, .tim, .pwm, .gd, .flt, .out] s s' := by
  cases h
  have hK : Only [.regs, .clk, .tim, .pwm, .gd, .flt, .out] s s := Only.refl _ _
  have hM := List.Subset.refl ([.regs, .clk, .tim, .pwm, .gd, .flt, .out] : List Comp)
  try dsimp only
  repeat' first
    | with_reducible assumption
    | with_reducible apply only_deadtimeViol
    | with_reducible apply Only.live
    | exact List.Subset.trans (by decide) hM
    | (intro _ _ _)
    | (intro _ _)

theorem execShoot_only (leg : Fin 6) {s s' : State} (h : execShoot leg s = .next s') :
    Only [.regs, .clk, .tim, .pwm, .gd, .flt, .out] s s' := by
  cases h
  have hK : Only [.regs, .clk, .tim, .pwm, .gd, .flt, .out] s s := Only.refl _ _
  have hM := List.Subset.refl ([.regs, .clk, .tim, .pwm, .gd, .flt, .out] : List Comp)
  try dsimp only
  repeat' first
    | with_reducible assumption
    | with_reducible apply only_shootLeg
    | with_reducible apply Only.when
    | with_reducible apply Only.live
    | exact List.Subset.trans (by decide) hM
    | (intro _ _ _)
    | (intro _ _)

theorem execSelfTest_only (leg : Fin 6) (sw : Sw) (trip : Option (BitVec 16)) (mv : BitVec 16) {s s' : State} (h : execSelfTest leg sw trip mv s = .next s') :
    Only [.regs, .sys, .clk, .tim, .pwm, .gd, .flt, .sup, .out] s s' := by
  cases h
  have hK : Only [.regs, .sys, .clk, .tim, .pwm, .gd, .flt, .sup, .out] s s := Only.refl _ _
  have hM := List.Subset.refl ([.regs, .sys, .clk, .tim, .pwm, .gd, .flt, .sup, .out] : List Comp)
  try dsimp only
  repeat' first
    | with_reducible assumption
    | with_reducible apply only_selfTest
    | with_reducible apply Only.live
    | exact List.Subset.trans (by decide) hM
    | (intro _ _ _)
    | (intro _ _)

theorem execInjNow_only {s s' : State} (h : execInjNow s = .next s') :
    Only [.gd] s s' := by
  cases h
  have hK : Only [.gd] s s := Only.refl _ _
  have hM := List.Subset.refl ([.gd] : List Comp)
  try dsimp only
  repeat' first
    | with_reducible assumption
    | with_reducible apply only_injNow
    | with_reducible apply Only.live
    | exact List.Subset.trans (by decide) hM
    | (intro _ _ _)
    | (intro _ _)

theorem execGdDeratingPublish_only (vdrv vneg : BitVec 16) (vbs : List (BitVec 16)) {s s' : State} (h : execGdDeratingPublish vdrv vneg vbs s = .next s') :
    Only [.regs, .sys, .clk, .tim, .pwm, .gd, .flt, .eng, .sup, .out] s s' := by
  cases h
  have hK : Only [.regs, .sys, .clk, .tim, .pwm, .gd, .flt, .eng, .sup, .out] s s := Only.refl _ _
  have hM := List.Subset.refl ([.regs, .sys, .clk, .tim, .pwm, .gd, .flt, .eng, .sup, .out] : List Comp)
  try dsimp only
  repeat' first
    | with_reducible assumption
    | with_reducible apply only_gdPublish
    | with_reducible apply Only.live
    | exact List.Subset.trans (by decide) hM
    | (intro _ _ _)
    | (intro _ _)

theorem execGdCntClr_only {s s' : State} (h : execGdCntClr s = .next s') :
    Only [.regs] s s' := by
  cases h
  have hK : Only [.regs] s s := Only.refl _ _
  have hM := List.Subset.refl ([.regs] : List Comp)
  try dsimp only
  repeat' first
    | with_reducible assumption
    | with_reducible apply only_gdCntClr
    | with_reducible apply Only.live
    | exact List.Subset.trans (by decide) hM
    | (intro _ _ _)
    | (intro _ _)

theorem execSensorReading_only (sensor : Fin 14) (t : Int) (bad : Bool) {s s' : State} (h : execSensorReading sensor t bad s = .next s') :
    Only [.regs, .sys, .vault, .clk, .tim, .pwm, .gd, .flt, .eng, .thm, .sup, .out, .free] s s' := by
  cases h
  have hK : Only [.regs, .sys, .vault, .clk, .tim, .pwm, .gd, .flt, .eng, .thm, .sup, .out, .free] s s := Only.refl _ _
  have hM := List.Subset.refl ([.regs, .sys, .vault, .clk, .tim, .pwm, .gd, .flt, .eng, .thm, .sup, .out, .free] : List Comp)
  try dsimp only
  repeat' first
    | with_reducible assumption
    | with_reducible apply only_sensorReading
    | with_reducible apply Only.live
    | exact List.Subset.trans (by decide) hM
    | (intro _ _ _)
    | (intro _ _)

theorem execLogWrite_only {s s' : State} (h : execLogWrite s = .next s') :
    Only [.regs, .vault] s s' := by
  cases h
  have hK : Only [.regs, .vault] s s := Only.refl _ _
  have hM := List.Subset.refl ([.regs, .vault] : List Comp)
  try dsimp only
  repeat' first
    | with_reducible assumption
    | with_reducible apply only_logWrite
    | with_reducible apply Only.when
    | with_reducible apply Only.live
    | exact List.Subset.trans (by decide) hM
    | (intro _ _ _)
    | (intro _ _)

theorem execLogSelWrite_only (v : BitVec 8) {s s' : State} (h : execLogSelWrite v s = .next s') :
    Only [.regs, .thm] s s' := by
  cases h
  have hK : Only [.regs, .thm] s s := Only.refl _ _
  have hM := List.Subset.refl ([.regs, .thm] : List Comp)
  try dsimp only
  repeat' first
    | with_reducible assumption
    | with_reducible apply only_logSel
    | with_reducible apply Only.live
    | exact List.Subset.trans (by decide) hM
    | (intro _ _ _)
    | (intro _ _)

theorem execLogReadDone_only {s s' : State} (h : execLogReadDone s = .next s') :
    Only [.regs, .thm] s s' := by
  cases h
  have hK : Only [.regs, .thm] s s := Only.refl _ _
  have hM := List.Subset.refl ([.regs, .thm] : List Comp)
  try dsimp only
  repeat' first
    | with_reducible assumption
    | with_reducible apply only_logReadDone
    | with_reducible apply Only.live
    | exact List.Subset.trans (by decide) hM
    | (intro _ _ _)
    | (intro _ _)

theorem execEccWriteBack_only (addr : Word) {s s' : State} (h : execEccWriteBack addr s = .next s') :
    Only [.memx] s s' := by
  cases h
  have hK : Only [.memx] s s := Only.refl _ _
  have hM := List.Subset.refl ([.memx] : List Comp)
  try dsimp only
  repeat' first
    | with_reducible assumption
    | with_reducible apply only_eccClear
    | with_reducible apply Only.when
    | with_reducible apply Only.live
    | exact List.Subset.trans (by decide) hM
    | (intro _ _ _)
    | (intro _ _)

theorem execBucketLeak_only (r : Fin 8) {s s' : State} (h : execBucketLeak r s = .next s') :
    Only [.regs, .sys, .clk, .tim, .pwm, .gd, .flt, .memx, .sup, .out] s s' := by
  cases h
  have hK : Only [.regs, .sys, .clk, .tim, .pwm, .gd, .flt, .memx, .sup, .out] s s := Only.refl _ _
  have hM := List.Subset.refl ([.regs, .sys, .clk, .tim, .pwm, .gd, .flt, .memx, .sup, .out] : List Comp)
  try dsimp only
  repeat' first
    | with_reducible assumption
    | with_reducible apply only_bucketLeak
    | with_reducible apply Only.live
    | exact List.Subset.trans (by decide) hM
    | (intro _ _ _)
    | (intro _ _)

theorem execScrubGo_only (m : Master) {s s' : State} (h : execScrubGo m s = .next s') :
    Only [.regs, .memx] s s' := by
  cases h
  have hK : Only [.regs, .memx] s s := Only.refl _ _
  have hM := List.Subset.refl ([.regs, .memx] : List Comp)
  try dsimp only
  repeat' first
    | with_reducible assumption
    | with_reducible apply only_violation
    | with_reducible apply only_scrubGo
    | with_reducible apply Only.when
    | with_reducible apply Only.byMaster
    | exact List.Subset.trans (by decide) hM
    | (intro _ _ _)
    | (intro _ _)

theorem execScrubAbort_only (m : Master) {s s' : State} (h : execScrubAbort m s = .next s') :
    Only [.regs, .memx] s s' := by
  cases h
  have hK : Only [.regs, .memx] s s := Only.refl _ _
  have hM := List.Subset.refl ([.regs, .memx] : List Comp)
  try dsimp only
  repeat' first
    | with_reducible assumption
    | with_reducible apply only_scrubAbort
    | with_reducible apply only_violation
    | with_reducible apply Only.byMaster
    | with_reducible apply Only.ite
    | exact List.Subset.trans (by decide) hM
    | (intro _ _ _)
    | (intro _ _)

theorem execScrubWord_only (ecc : Ecc) {s s' : State} (h : execScrubWord ecc s = .next s') :
    Only [.regs, .sys, .clk, .tim, .pwm, .gd, .flt, .memx, .sup, .out] s s' := by
  cases h
  have hK : Only [.regs, .sys, .clk, .tim, .pwm, .gd, .flt, .memx, .sup, .out] s s := Only.refl _ _
  have hM := List.Subset.refl ([.regs, .sys, .clk, .tim, .pwm, .gd, .flt, .memx, .sup, .out] : List Comp)
  try dsimp only
  repeat' first
    | with_reducible assumption
    | with_reducible apply only_scrubWord
    | with_reducible apply Only.live
    | exact List.Subset.trans (by decide) hM
    | (intro _ _ _)
    | (intro _ _)

theorem execRepair_only (m : Master) (v : Word) {s s' : State} (h : execRepair m v s = .next s') :
    Only [.regs, .mem, .memx] s s' := by
  cases h
  have hK : Only [.regs, .mem, .memx] s s := Only.refl _ _
  have hM := List.Subset.refl ([.regs, .mem, .memx] : List Comp)
  try dsimp only
  repeat' first
    | with_reducible assumption
    | with_reducible apply only_violation
    | with_reducible apply only_memRepair
    | with_reducible apply Only.when
    | with_reducible apply Only.byMaster
    | exact List.Subset.trans (by decide) hM
    | (intro _ _ _)
    | (intro _ _)

theorem execMemCntClr_only {s s' : State} (h : execMemCntClr s = .next s') :
    Only [.regs] s s' := by
  cases h
  have hK : Only [.regs] s s := Only.refl _ _
  have hM := List.Subset.refl ([.regs] : List Comp)
  try dsimp only
  repeat' first
    | with_reducible assumption
    | with_reducible apply only_memCntClr
    | with_reducible apply Only.live
    | exact List.Subset.trans (by decide) hM
    | (intro _ _ _)
    | (intro _ _)

theorem execTestGapStart_only (src : Fin 2) {s s' : State} (h : execTestGapStart src s = .next s') :
    Only [.regs, .sys, .clk, .tim, .pwm, .gd, .flt, .saf, .sup, .out] s s' := by
  cases h
  have hK : Only [.regs, .sys, .clk, .tim, .pwm, .gd, .flt, .saf, .sup, .out] s s := Only.refl _ _
  have hM := List.Subset.refl ([.regs, .sys, .clk, .tim, .pwm, .gd, .flt, .saf, .sup, .out] : List Comp)
  try dsimp only
  repeat' first
    | with_reducible assumption
    | with_reducible apply only_gapStart
    | with_reducible apply Only.live
    | exact List.Subset.trans (by decide) hM
    | (intro _ _ _)
    | (intro _ _)

theorem execTestGapEnd_only (src : Fin 2) {s s' : State} (h : execTestGapEnd src s = .next s') :
    Only [.regs, .sys, .clk, .tim, .pwm, .gd, .flt, .saf, .sup, .out] s s' := by
  cases h
  have hK : Only [.regs, .sys, .clk, .tim, .pwm, .gd, .flt, .saf, .sup, .out] s s := Only.refl _ _
  have hM := List.Subset.refl ([.regs, .sys, .clk, .tim, .pwm, .gd, .flt, .saf, .sup, .out] : List Comp)
  try dsimp only
  repeat' first
    | with_reducible assumption
    | with_reducible apply only_gapEnd
    | with_reducible apply Only.live
    | exact List.Subset.trans (by decide) hM
    | (intro _ _ _)
    | (intro _ _)

theorem execTestSourceLimit_only (src : Fin 2) {s s' : State} (h : execTestSourceLimit src s = .next s') :
    Only [.regs, .clk, .tim, .pwm, .gd, .flt, .saf, .out] s s' := by
  cases h
  have hK : Only [.regs, .clk, .tim, .pwm, .gd, .flt, .saf, .out] s s := Only.refl _ _
  have hM := List.Subset.refl ([.regs, .clk, .tim, .pwm, .gd, .flt, .saf, .out] : List Comp)
  try dsimp only
  repeat' first
    | with_reducible assumption
    | with_reducible apply only_sourceLimit
    | with_reducible apply Only.live
    | exact List.Subset.trans (by decide) hM
    | (intro _ _ _)
    | (intro _ _)

theorem execSafeInputSample_only (a b : BitVec 8) {s s' : State} (h : execSafeInputSample a b s = .next s') :
    Only [.regs, .sys, .clk, .tim, .pwm, .gd, .flt, .saf, .sup, .out] s s' := by
  cases h
  have hK : Only [.regs, .sys, .clk, .tim, .pwm, .gd, .flt, .saf, .sup, .out] s s := Only.refl _ _
  have hM := List.Subset.refl ([.regs, .sys, .clk, .tim, .pwm, .gd, .flt, .saf, .sup, .out] : List Comp)
  try dsimp only
  repeat' first
    | with_reducible assumption
    | with_reducible apply only_safSample
    | with_reducible apply Only.live
    | exact List.Subset.trans (by decide) hM
    | (intro _ _ _)
    | (intro _ _)

theorem execVauxUndervoltage_only {s s' : State} (h : execVauxUndervoltage s = .next s') :
    Only [.regs, .clk, .tim, .pwm, .gd, .flt, .saf, .out] s s' := by
  cases h
  have hK : Only [.regs, .clk, .tim, .pwm, .gd, .flt, .saf, .out] s s := Only.refl _ _
  have hM := List.Subset.refl ([.regs, .clk, .tim, .pwm, .gd, .flt, .saf, .out] : List Comp)
  try dsimp only
  repeat' first
    | with_reducible assumption
    | with_reducible apply only_vauxUv
    | with_reducible apply Only.live
    | exact List.Subset.trans (by decide) hM
    | (intro _ _ _)
    | (intro _ _)

theorem execVauxRecover_only {s s' : State} (h : execVauxRecover s = .next s') :
    Only [.regs, .pwm, .gd, .flt, .saf] s s' := by
  cases h
  have hK : Only [.regs, .pwm, .gd, .flt, .saf] s s := Only.refl _ _
  have hM := List.Subset.refl ([.regs, .pwm, .gd, .flt, .saf] : List Comp)
  try dsimp only
  repeat' first
    | with_reducible assumption
    | with_reducible apply only_vauxOk
    | with_reducible apply Only.live
    | exact List.Subset.trans (by decide) hM
    | (intro _ _ _)
    | (intro _ _)

theorem execSafetyDecision_only (diverted : List (Fin 4 × List Byte)) {s s' : State} (h : execSafetyDecision diverted s = .next s') :
    Only [.regs, .sys, .clk, .rng, .tim, .pwm, .gd, .flt, .saf, .sup, .out, .free] s s' := by
  cases h
  have hK : Only [.regs, .sys, .clk, .rng, .tim, .pwm, .gd, .flt, .saf, .sup, .out, .free] s s := Only.refl _ _
  have hM := List.Subset.refl ([.regs, .sys, .clk, .rng, .tim, .pwm, .gd, .flt, .saf, .sup, .out, .free] : List Comp)
  try dsimp only
  repeat' first
    | with_reducible assumption
    | with_reducible apply only_divert
    | with_reducible apply only_safetyDecision
    | with_reducible apply Only.foldlFst
    | with_reducible apply Only.foldl
    | with_reducible apply Only.live
    | exact List.Subset.trans (by decide) hM
    | (intro _ _ _)
    | (intro _ _)

theorem execSafeReceived_only {s s' : State} (h : execSafeReceived s = .next s') :
    Only [.regs, .sys, .clk, .rng, .tim, .pwm, .gd, .flt, .saf, .sup, .raises, .out] s s' := by
  cases h
  have hK : Only [.regs, .sys, .clk, .rng, .tim, .pwm, .gd, .flt, .saf, .sup, .raises, .out] s s := Only.refl _ _
  have hM := List.Subset.refl ([.regs, .sys, .clk, .rng, .tim, .pwm, .gd, .flt, .saf, .sup, .raises, .out] : List Comp)
  try dsimp only
  repeat' first
    | with_reducible assumption
    | with_reducible apply only_takeRx
    | with_reducible apply only_safeReceived
    | with_reducible apply Only.live
    | exact List.Subset.trans (by decide) hM
    | (intro _ _ _)
    | (intro _ _)

theorem execDiscrepancyWindowClose_only (head : Fin 2) {s s' : State} (h : execDiscrepancyWindowClose head s = .next s') :
    Only [.regs, .sys, .clk, .tim, .pwm, .gd, .flt, .saf, .sup, .raises, .out] s s' := by
  cases h
  have hK : Only [.regs, .sys, .clk, .tim, .pwm, .gd, .flt, .saf, .sup, .raises, .out] s s := Only.refl _ _
  have hM := List.Subset.refl ([.regs, .sys, .clk, .tim, .pwm, .gd, .flt, .saf, .sup, .raises, .out] : List Comp)
  try dsimp only
  repeat' first
    | with_reducible assumption
    | with_reducible apply only_windowEnd
    | with_reducible apply Only.live
    | exact List.Subset.trans (by decide) hM
    | (intro _ _ _)
    | (intro _ _)

theorem execStoLoss_only {s s' : State} (h : execStoLoss s = .next s') :
    Only [.regs, .clk, .tim, .pwm, .gd, .flt, .saf, .out] s s' := by
  cases h
  have hK : Only [.regs, .clk, .tim, .pwm, .gd, .flt, .saf, .out] s s := Only.refl _ _
  have hM := List.Subset.refl ([.regs, .clk, .tim, .pwm, .gd, .flt, .saf, .out] : List Comp)
  try dsimp only
  repeat' first
    | with_reducible assumption
    | with_reducible apply only_stoLoss
    | with_reducible apply Only.live
    | exact List.Subset.trans (by decide) hM
    | (intro _ _ _)
    | (intro _ _)

theorem execLocalEvaluation_only (agree : Bool) {s s' : State} (h : execLocalEvaluation agree s = .next s') :
    Only [.regs, .sys, .clk, .tim, .pwm, .gd, .flt, .saf, .sup, .out] s s' := by
  cases h
  have hK : Only [.regs, .sys, .clk, .tim, .pwm, .gd, .flt, .saf, .sup, .out] s s := Only.refl _ _
  have hM := List.Subset.refl ([.regs, .sys, .clk, .tim, .pwm, .gd, .flt, .saf, .sup, .out] : List Comp)
  try dsimp only
  repeat' first
    | with_reducible assumption
    | with_reducible apply only_localEval
    | with_reducible apply Only.live
    | exact List.Subset.trans (by decide) hM
    | (intro _ _ _)
    | (intro _ _)

theorem execDarkTest_only (ch : Fin 2) (off : Bool) {s s' : State} (h : execDarkTest ch off s = .next s') :
    Only [.saf] s s' := by
  cases h
  have hK : Only [.saf] s s := Only.refl _ _
  have hM := List.Subset.refl ([.saf] : List Comp)
  try dsimp only
  repeat' first
    | with_reducible assumption
    | with_reducible apply only_darkTest
    | with_reducible apply Only.live
    | exact List.Subset.trans (by decide) hM
    | (intro _ _ _)
    | (intro _ _)

theorem execSoReadback_only (so : Fin 2) (ch : Fin 2) (below5 aboveV : Bool) {s s' : State} (h : execSoReadback so ch below5 aboveV s = .next s') :
    Only [.regs, .clk, .tim, .pwm, .gd, .flt, .saf, .out] s s' := by
  cases h
  have hK : Only [.regs, .clk, .tim, .pwm, .gd, .flt, .saf, .out] s s := Only.refl _ _
  have hM := List.Subset.refl ([.regs, .clk, .tim, .pwm, .gd, .flt, .saf, .out] : List Comp)
  try dsimp only
  repeat' first
    | with_reducible assumption
    | with_reducible apply only_soReadback
    | with_reducible apply Only.live
    | exact List.Subset.trans (by decide) hM
    | (intro _ _ _)
    | (intro _ _)

theorem execEdmCheck_only (so : Fin 2) {s s' : State} (h : execEdmCheck so s = .next s') :
    Only [.regs, .sys, .clk, .tim, .pwm, .gd, .flt, .saf, .sup, .out] s s' := by
  cases h
  have hK : Only [.regs, .sys, .clk, .tim, .pwm, .gd, .flt, .saf, .sup, .out] s s := Only.refl _ _
  have hM := List.Subset.refl ([.regs, .sys, .clk, .tim, .pwm, .gd, .flt, .saf, .sup, .out] : List Comp)
  try dsimp only
  repeat' first
    | with_reducible assumption
    | with_reducible apply only_edmCheck
    | with_reducible apply Only.live
    | exact List.Subset.trans (by decide) hM
    | (intro _ _ _)
    | (intro _ _)

theorem execSafCntClr_only {s s' : State} (h : execSafCntClr s = .next s') :
    Only [.regs] s s' := by
  cases h
  have hK : Only [.regs] s s := Only.refl _ _
  have hM := List.Subset.refl ([.regs] : List Comp)
  try dsimp only
  repeat' first
    | with_reducible assumption
    | with_reducible apply only_safCntClr
    | with_reducible apply Only.live
    | exact List.Subset.trans (by decide) hM
    | (intro _ _ _)
    | (intro _ _)

theorem execRgTrigger_only (g : Fin 8) (upset : Option (Fin 24576)) {s s' : State} (h : execRgTrigger g upset s = .next s') :
    Only [.regs, .sys, .clk, .tim, .pwm, .gd, .flt, .eng, .memx, .sup, .raises, .out] s s' := by
  cases h
  have hK : Only [.regs, .sys, .clk, .tim, .pwm, .gd, .flt, .eng, .memx, .sup, .raises, .out] s s := Only.refl _ _
  have hM := List.Subset.refl ([.regs, .sys, .clk, .tim, .pwm, .gd, .flt, .eng, .memx, .sup, .raises, .out] : List Comp)
  try dsimp only
  repeat' first
    | with_reducible assumption
    | with_reducible apply only_eccSet
    | with_reducible apply only_rgTrigger
    | with_reducible apply Only.live
    | exact List.Subset.trans (by decide) hM
    | (intro _ _ _)
    | (intro _ _)
    | split

theorem execGroupCommit_only (g : Fin 8) {s s' : State} (h : execGroupCommit g s = .next s') :
    Only [.regs, .sys, .clk, .rng, .tim, .pwm, .gd, .flt, .eng, .bal, .sup, .raises, .out] s s' := by
  cases h
  have hK : Only [.regs, .sys, .clk, .rng, .tim, .pwm, .gd, .flt, .eng, .bal, .sup, .raises, .out] s s := Only.refl _ _
  have hM := List.Subset.refl ([.regs, .sys, .clk, .rng, .tim, .pwm, .gd, .flt, .eng, .bal, .sup, .raises, .out] : List Comp)
  try dsimp only
  repeat' first
    | with_reducible assumption
    | with_reducible apply only_groupCommit
    | with_reducible apply Only.live
    | exact List.Subset.trans (by decide) hM
    | (intro _ _ _)
    | (intro _ _)

theorem execDeadlineMiss_only (g : Fin 8) {s s' : State} (h : execDeadlineMiss g s = .next s') :
    Only [.regs, .sys, .clk, .rng, .tim, .pwm, .gd, .flt, .eng, .bal, .sup, .out] s s' := by
  cases h
  have hK : Only [.regs, .sys, .clk, .rng, .tim, .pwm, .gd, .flt, .eng, .bal, .sup, .out] s s := Only.refl _ _
  have hM := List.Subset.refl ([.regs, .sys, .clk, .rng, .tim, .pwm, .gd, .flt, .eng, .bal, .sup, .out] : List Comp)
  try dsimp only
  repeat' first
    | with_reducible assumption
    | with_reducible apply only_groupMiss
    | with_reducible apply Only.live
    | exact List.Subset.trans (by decide) hM
    | (intro _ _ _)
    | (intro _ _)

theorem execSwapGo_only (next : Bool) {s s' : State} (h : execSwapGo next s = .next s') :
    Only [.regs] s s' := by
  cases h
  have hK : Only [.regs] s s := Only.refl _ _
  have hM := List.Subset.refl ([.regs] : List Comp)
  try dsimp only
  repeat' first
    | with_reducible assumption
    | with_reducible apply only_swapGo
    | with_reducible apply Only.live
    | exact List.Subset.trans (by decide) hM
    | (intro _ _ _)
    | (intro _ _)

theorem execSwapCancel_only {s s' : State} (h : execSwapCancel s = .next s') :
    Only [.regs] s s' := by
  cases h
  have hK : Only [.regs] s s := Only.refl _ _
  have hM := List.Subset.refl ([.regs] : List Comp)
  try dsimp only
  repeat' first
    | with_reducible assumption
    | with_reducible apply only_swapCancel
    | with_reducible apply Only.live
    | exact List.Subset.trans (by decide) hM
    | (intro _ _ _)
    | (intro _ _)

theorem execPeekRequest_only (slot : BitVec 10) {s s' : State} (h : execPeekRequest slot s = .next s') :
    Only [.regs, .clk, .tim, .pwm, .gd, .flt, .eng, .raises, .out] s s' := by
  cases h
  have hK : Only [.regs, .clk, .tim, .pwm, .gd, .flt, .eng, .raises, .out] s s := Only.refl _ _
  have hM := List.Subset.refl ([.regs, .clk, .tim, .pwm, .gd, .flt, .eng, .raises, .out] : List Comp)
  try dsimp only
  repeat' first
    | with_reducible assumption
    | with_reducible apply only_peekRequest
    | with_reducible apply Only.live
    | exact List.Subset.trans (by decide) hM
    | (intro _ _ _)
    | (intro _ _)

theorem execCeCntClr_only {s s' : State} (h : execCeCntClr s = .next s') :
    Only [.regs] s s' := by
  cases h
  have hK : Only [.regs] s s := Only.refl _ _
  have hM := List.Subset.refl ([.regs] : List Comp)
  try dsimp only
  repeat' first
    | with_reducible assumption
    | with_reducible apply only_ceCntClr
    | with_reducible apply Only.live
    | exact List.Subset.trans (by decide) hM
    | (intro _ _ _)
    | (intro _ _)

theorem execBalancerCommit_only (locked : Bool) {s s' : State} (h : execBalancerCommit locked s = .next s') :
    Only [.regs, .clk, .rng, .tim, .pwm, .gd, .flt, .bal, .raises, .out] s s' := by
  cases h
  have hK : Only [.regs, .clk, .rng, .tim, .pwm, .gd, .flt, .bal, .raises, .out] s s := Only.refl _ _
  have hM := List.Subset.refl ([.regs, .clk, .rng, .tim, .pwm, .gd, .flt, .bal, .raises, .out] : List Comp)
  try dsimp only
  repeat' first
    | with_reducible assumption
    | with_reducible apply only_balancerCommit
    | with_reducible apply Only.live
    | exact List.Subset.trans (by decide) hM
    | (intro _ _ _)
    | (intro _ _)

theorem execBypassRequest_only (next : Bool) (pos : BitVec 8) {s s' : State} (h : execBypassRequest next pos s = .next s') :
    Only [.regs, .bal] s s' := by
  cases h
  have hK : Only [.regs, .bal] s s := Only.refl _ _
  have hM := List.Subset.refl ([.regs, .bal] : List Comp)
  try dsimp only
  repeat' first
    | with_reducible assumption
    | with_reducible apply only_balReqWrite
    | with_reducible apply Only.when
    | with_reducible apply Only.live
    | exact List.Subset.trans (by decide) hM
    | (intro _ _ _)
    | (intro _ _)

theorem execRejoinRequest_only (next : Bool) (pos : BitVec 8) {s s' : State} (h : execRejoinRequest next pos s = .next s') :
    Only [.regs, .bal] s s' := by
  cases h
  have hK : Only [.regs, .bal] s s := Only.refl _ _
  have hM := List.Subset.refl ([.regs, .bal] : List Comp)
  try dsimp only
  repeat' first
    | with_reducible assumption
    | with_reducible apply only_balReqWrite
    | with_reducible apply Only.when
    | with_reducible apply Only.live
    | exact List.Subset.trans (by decide) hM
    | (intro _ _ _)
    | (intro _ _)

theorem execPowerOnReset_only {s s' : State} (h : execPowerOnReset s = .next s') :
    Only [.regs, .mem, .sys, .clk, .flash, .img, .lnk, .rng, .tim, .pwm, .gd, .dpx, .flt, .eng, .adc, .memx, .thm, .bal, .saf, .sup, .mbx, .mtr, .raises, .free] s s' := by
  cases h
  have hK : Only [.regs, .mem, .sys, .clk, .flash, .img, .lnk, .rng, .tim, .pwm, .gd, .dpx, .flt, .eng, .adc, .memx, .thm, .bal, .saf, .sup, .mbx, .mtr, .raises, .free] s s := Only.refl _ _
  have hM := List.Subset.refl ([.regs, .mem, .sys, .clk, .flash, .img, .lnk, .rng, .tim, .pwm, .gd, .dpx, .flt, .eng, .adc, .memx, .thm, .bal, .saf, .sup, .mbx, .mtr, .raises, .free] : List Comp)
  try dsimp only
  repeat' first
    | with_reducible assumption
    | with_reducible apply only_resetNode
    | exact List.Subset.trans (by decide) hM
    | (intro _ _ _)
    | (intro _ _)

theorem execRailReset_only (rail : Rail) {s s' : State} (h : execRailReset rail s = .next s') :
    Only [.regs, .mem, .sys, .clk, .flash, .img, .lnk, .rng, .tim, .pwm, .gd, .dpx, .flt, .eng, .adc, .memx, .thm, .bal, .saf, .sup, .mbx, .mtr, .raises, .free] s s' := by
  cases h
  have hK : Only [.regs, .mem, .sys, .clk, .flash, .img, .lnk, .rng, .tim, .pwm, .gd, .dpx, .flt, .eng, .adc, .memx, .thm, .bal, .saf, .sup, .mbx, .mtr, .raises, .free] s s := Only.refl _ _
  have hM := List.Subset.refl ([.regs, .mem, .sys, .clk, .flash, .img, .lnk, .rng, .tim, .pwm, .gd, .dpx, .flt, .eng, .adc, .memx, .thm, .bal, .saf, .sup, .mbx, .mtr, .raises, .free] : List Comp)
  try dsimp only
  repeat' first
    | with_reducible assumption
    | with_reducible apply only_resetNode
    | with_reducible apply only_setFlag
    | with_reducible apply only_put
    | exact List.Subset.trans (by decide) hM
    | (intro _ _ _)
    | (intro _ _)

theorem execPginReset_only {s s' : State} (h : execPginReset s = .next s') :
    Only [.regs, .mem, .sys, .clk, .flash, .img, .lnk, .rng, .tim, .pwm, .gd, .dpx, .flt, .eng, .adc, .memx, .thm, .bal, .saf, .sup, .mbx, .mtr, .raises, .free] s s' := by
  cases h
  have hK : Only [.regs, .mem, .sys, .clk, .flash, .img, .lnk, .rng, .tim, .pwm, .gd, .dpx, .flt, .eng, .adc, .memx, .thm, .bal, .saf, .sup, .mbx, .mtr, .raises, .free] s s := Only.refl _ _
  have hM := List.Subset.refl ([.regs, .mem, .sys, .clk, .flash, .img, .lnk, .rng, .tim, .pwm, .gd, .dpx, .flt, .eng, .adc, .memx, .thm, .bal, .saf, .sup, .mbx, .mtr, .raises, .free] : List Comp)
  try dsimp only
  repeat' first
    | with_reducible assumption
    | with_reducible apply only_resetNode
    | with_reducible apply only_setFlag
    | exact List.Subset.trans (by decide) hM
    | (intro _ _ _)
    | (intro _ _)

theorem execPinReset_only {s s' : State} (h : execPinReset s = .next s') :
    Only [.regs, .mem, .sys, .clk, .flash, .img, .lnk, .rng, .tim, .pwm, .gd, .dpx, .flt, .eng, .adc, .memx, .thm, .bal, .saf, .sup, .mbx, .mtr, .raises, .free] s s' := by
  cases h
  have hK : Only [.regs, .mem, .sys, .clk, .flash, .img, .lnk, .rng, .tim, .pwm, .gd, .dpx, .flt, .eng, .adc, .memx, .thm, .bal, .saf, .sup, .mbx, .mtr, .raises, .free] s s := Only.refl _ _
  have hM := List.Subset.refl ([.regs, .mem, .sys, .clk, .flash, .img, .lnk, .rng, .tim, .pwm, .gd, .dpx, .flt, .eng, .adc, .memx, .thm, .bal, .saf, .sup, .mbx, .mtr, .raises, .free] : List Comp)
  try dsimp only
  repeat' first
    | with_reducible assumption
    | with_reducible apply only_resetNode
    | with_reducible apply only_setFlag
    | exact List.Subset.trans (by decide) hM
    | (intro _ _ _)
    | (intro _ _)

theorem execRstCtrlWrite_only (m : Master) (v : Word) {s s' : State} (h : execRstCtrlWrite m v s = .next s') :
    Only [.regs, .sys] s s' := by
  cases h
  have hK : Only [.regs, .sys] s s := Only.refl _ _
  have hM := List.Subset.refl ([.regs, .sys] : List Comp)
  try dsimp only
  repeat' first
    | with_reducible assumption
    | with_reducible apply only_rstCtrlWrite
    | with_reducible apply Only.byMaster
    | exact List.Subset.trans (by decide) hM
    | (intro _ _ _)
    | (intro _ _)

theorem execSoftReset_only {s s' : State} (h : execSoftReset s = .next s') :
    Only [.regs, .mem, .sys, .clk, .flash, .img, .lnk, .rng, .tim, .pwm, .gd, .dpx, .flt, .eng, .adc, .memx, .thm, .bal, .saf, .sup, .mbx, .mtr, .raises, .free] s s' := by
  cases h
  have hK : Only [.regs, .mem, .sys, .clk, .flash, .img, .lnk, .rng, .tim, .pwm, .gd, .dpx, .flt, .eng, .adc, .memx, .thm, .bal, .saf, .sup, .mbx, .mtr, .raises, .free] s s := Only.refl _ _
  have hM := List.Subset.refl ([.regs, .mem, .sys, .clk, .flash, .img, .lnk, .rng, .tim, .pwm, .gd, .dpx, .flt, .eng, .adc, .memx, .thm, .bal, .saf, .sup, .mbx, .mtr, .raises, .free] : List Comp)
  try dsimp only
  repeat' first
    | with_reducible assumption
    | with_reducible apply only_softReset
    | with_reducible apply Only.when
    | with_reducible apply Only.live
    | exact List.Subset.trans (by decide) hM
    | (intro _ _ _)
    | (intro _ _)

theorem execReleaseOfReset_only (straps : BitVec 8) (dbgsel : Bool) {s s' : State} (h : execReleaseOfReset straps dbgsel s = .next s') :
    Only [.regs, .sys, .vault, .clk, .lnk, .tim, .pwm, .gd, .dpx, .flt, .mtr, .out] s s' := by
  cases h
  have hK : Only [.regs, .sys, .vault, .clk, .lnk, .tim, .pwm, .gd, .dpx, .flt, .mtr, .out] s s := Only.refl _ _
  have hM := List.Subset.refl ([.regs, .sys, .vault, .clk, .lnk, .tim, .pwm, .gd, .dpx, .flt, .mtr, .out] : List Comp)
  try dsimp only
  repeat' first
    | with_reducible assumption
    | with_reducible apply only_release
    | exact List.Subset.trans (by decide) hM
    | (intro _ _ _)
    | (intro _ _)

theorem execVaultSwitchOver_only (toBat : Bool) {s s' : State} (h : execVaultSwitchOver toBat s = .next s') :
    Only [.regs] s s' := by
  cases h
  have hK : Only [.regs] s s := Only.refl _ _
  have hM := List.Subset.refl ([.regs] : List Comp)
  try dsimp only
  repeat' first
    | with_reducible assumption
    | with_reducible apply only_setFlag
    | exact List.Subset.trans (by decide) hM
    | (intro _ _ _)
    | (intro _ _)

theorem execVaultSecond_only {s s' : State} (h : execVaultSecond s = .next s') :
    Only [.regs, .vault] s s' := by
  cases h
  refine ⟨fun c hc => ?_⟩
  unfold State.vaultSecond
  try split
  all_goals cases c <;> first | rfl | exact absurd (by decide) hc

theorem execXtalFail_only {s s' : State} (h : execXtalFail s = .next s') :
    Only [.regs] s s' := by
  cases h
  have hK : Only [.regs] s s := Only.refl _ _
  have hM := List.Subset.refl ([.regs] : List Comp)
  try dsimp only
  repeat' first
    | with_reducible assumption
    | with_reducible apply only_setFlag
    | exact List.Subset.trans (by decide) hM
    | (intro _ _ _)
    | (intro _ _)

theorem execTamperPulse_only (returned : Bool) {s s' : State} (h : execTamperPulse returned s = .next s') :
    Only [.regs, .vault, .clk, .tim, .pwm, .gd, .flt, .out] s s' := by
  cases h
  have hK : Only [.regs, .vault, .clk, .tim, .pwm, .gd, .flt, .out] s s := Only.refl _ _
  have hM := List.Subset.refl ([.regs, .vault, .clk, .tim, .pwm, .gd, .flt, .out] : List Comp)
  try dsimp only
  repeat' first
    | with_reducible assumption
    | with_reducible apply only_tamperPulse
    | exact List.Subset.trans (by decide) hM
    | (intro _ _ _)
    | (intro _ _)

theorem execVaultStateLost_only {s s' : State} (h : execVaultStateLost s = .next s') :
    Only [.regs, .vault] s s' := by
  cases h
  refine ⟨fun c hc => ?_⟩
  unfold State.vaultLost
  try split
  all_goals cases c <;> first | rfl | exact absurd (by decide) hc

theorem execPowerGood_only {s s' : State} (h : execPowerGood s = .next s') :
    Only [.regs, .sys, .clk] s s' := by
  cases h
  have hK : Only [.regs, .sys, .clk] s s := Only.refl _ _
  have hM := List.Subset.refl ([.regs, .sys, .clk] : List Comp)
  try dsimp only
  repeat' first
    | with_reducible assumption
    | with_reducible apply only_rootStart
    | with_reducible apply Only.when
    | exact List.Subset.trans (by decide) hM
    | (intro _ _ _)
    | (intro _ _)
    | with_reducible refine Only.set_sys (Comp.of hM (by decide)) ?_

theorem execRefinValid_only {s s' : State} (h : execRefinValid s = .next s') :
    Only [.regs, .clk] s s' := by
  cases h
  have hK : Only [.regs, .clk] s s := Only.refl _ _
  have hM := List.Subset.refl ([.regs, .clk] : List Comp)
  try dsimp only
  repeat' first
    | with_reducible assumption
    | with_reducible apply only_rootStart
    | exact List.Subset.trans (by decide) hM
    | (intro _ _ _)
    | (intro _ _)
    | with_reducible refine Only.set_clk (Comp.of hM (by decide)) ?_

theorem execLockDeclared_only {s s' : State} (h : execLockDeclared s = .next s') :
    Only [.regs, .clk, .free] s s' := by
  cases h
  have hK : Only [.regs, .clk, .free] s s := Only.refl _ _
  have hM := List.Subset.refl ([.regs, .clk, .free] : List Comp)
  try dsimp only
  repeat' first
    | with_reducible assumption
    | with_reducible apply only_lockDeclared
    | exact List.Subset.trans (by decide) hM
    | (intro _ _ _)
    | (intro _ _)

theorem execLossOfRefin_only {s s' : State} (h : execLossOfRefin s = .next s') :
    Only [.regs, .clk, .tim, .pwm, .gd, .flt, .out] s s' := by
  cases h
  have hK : Only [.regs, .clk, .tim, .pwm, .gd, .flt, .out] s s := Only.refl _ _
  have hM := List.Subset.refl ([.regs, .clk, .tim, .pwm, .gd, .flt, .out] : List Comp)
  try dsimp only
  repeat' first
    | with_reducible assumption
    | with_reducible apply only_lossOfRefin
    | exact List.Subset.trans (by decide) hM
    | (intro _ _ _)
    | (intro _ _)

theorem execRefinReturn_only (mppm : Int) {s s' : State} (h : execRefinReturn mppm s = .next s') :
    Only [.regs, .clk] s s' := by
  cases h
  have hK : Only [.regs, .clk] s s := Only.refl _ _
  have hM := List.Subset.refl ([.regs, .clk] : List Comp)
  try dsimp only
  repeat' first
    | with_reducible assumption
    | with_reducible apply only_refinReturn
    | exact List.Subset.trans (by decide) hM
    | (intro _ _ _)
    | (intro _ _)

theorem execReacquireComplete_only {s s' : State} (h : execReacquireComplete s = .next s') :
    Only [.regs, .sys, .clk, .tim, .pwm, .gd, .flt, .sup, .out] s s' := by
  cases h
  have hK : Only [.regs, .sys, .clk, .tim, .pwm, .gd, .flt, .sup, .out] s s := Only.refl _ _
  have hM := List.Subset.refl ([.regs, .sys, .clk, .tim, .pwm, .gd, .flt, .sup, .out] : List Comp)
  try dsimp only
  repeat' first
    | with_reducible assumption
    | with_reducible apply only_reacquired
    | exact List.Subset.trans (by decide) hM
    | (intro _ _ _)
    | (intro _ _)

theorem execLossOfLock_only {s s' : State} (h : execLossOfLock s = .next s') :
    Only [.regs, .clk, .lnk, .tim, .pwm, .gd, .flt, .bal, .out] s s' := by
  cases h
  have hK : Only [.regs, .clk, .lnk, .tim, .pwm, .gd, .flt, .bal, .out] s s := Only.refl _ _
  have hM := List.Subset.refl ([.regs, .clk, .lnk, .tim, .pwm, .gd, .flt, .bal, .out] : List Comp)
  try dsimp only
  repeat' first
    | with_reducible assumption
    | with_reducible apply only_lossOfLock
    | exact List.Subset.trans (by decide) hM
    | (intro _ _ _)
    | (intro _ _)

theorem execHoldMaxExpiry_only {s s' : State} (h : execHoldMaxExpiry s = .next s') :
    Only [.regs, .sys, .clk, .tim, .pwm, .gd, .flt, .sup, .out] s s' := by
  cases h
  have hK : Only [.regs, .sys, .clk, .tim, .pwm, .gd, .flt, .sup, .out] s s := Only.refl _ _
  have hM := List.Subset.refl ([.regs, .sys, .clk, .tim, .pwm, .gd, .flt, .sup, .out] : List Comp)
  try dsimp only
  repeat' first
    | with_reducible assumption
    | with_reducible apply only_holdMax
    | with_reducible apply Only.live
    | exact List.Subset.trans (by decide) hM
    | (intro _ _ _)
    | (intro _ _)

theorem execReferenceWaitEnd_only {s s' : State} (h : execReferenceWaitEnd s = .next s') :
    Only [.regs, .sys, .clk, .tim, .pwm, .gd, .flt, .sup, .out] s s' := by
  cases h
  have hK : Only [.regs, .sys, .clk, .tim, .pwm, .gd, .flt, .sup, .out] s s := Only.refl _ _
  have hM := List.Subset.refl ([.regs, .sys, .clk, .tim, .pwm, .gd, .flt, .sup, .out] : List Comp)
  try dsimp only
  repeat' first
    | with_reducible assumption
    | with_reducible apply only_refWaitEnd
    | with_reducible apply Only.live
    | exact List.Subset.trans (by decide) hM
    | (intro _ _ _)
    | (intro _ _)

theorem execSramInitDone_only (chip : Option FlashChip) {s s' : State} (h : execSramInitDone chip s = .next s') :
    Only [.regs, .clk, .flash, .img, .lnk, .tim, .pwm, .gd, .flt, .out] s s' := by
  cases h
  have hK : Only [.regs, .clk, .flash, .img, .lnk, .tim, .pwm, .gd, .flt, .out] s s := Only.refl _ _
  have hM := List.Subset.refl ([.regs, .clk, .flash, .img, .lnk, .tim, .pwm, .gd, .flt, .out] : List Comp)
  try dsimp only
  repeat' first
    | with_reducible assumption
    | with_reducible apply only_sramInitDone
    | with_reducible apply Only.live
    | exact List.Subset.trans (by decide) hM
    | (intro _ _ _)
    | (intro _ _)

theorem execFetchDone_only {s s' : State} (h : execFetchDone s = .next s') :
    Only [.regs, .mem, .clk, .pwm, .gd] s s' := by
  cases h
  have hK : Only [.regs, .mem, .clk, .pwm, .gd] s s := Only.refl _ _
  have hM := List.Subset.refl ([.regs, .mem, .clk, .pwm, .gd] : List Comp)
  try dsimp only
  repeat' first
    | with_reducible assumption
    | with_reducible apply only_fetchDone
    | with_reducible apply Only.live
    | exact List.Subset.trans (by decide) hM
    | (intro _ _ _)
    | (intro _ _)

theorem execFetchTimeout_only {s s' : State} (h : execFetchTimeout s = .next s') :
    Only [.regs, .sys, .clk, .flash, .img, .lnk, .tim, .pwm, .gd, .flt, .sup, .out] s s' := by
  cases h
  have hK : Only [.regs, .sys, .clk, .flash, .img, .lnk, .tim, .pwm, .gd, .flt, .sup, .out] s s := Only.refl _ _
  have hM := List.Subset.refl ([.regs, .sys, .clk, .flash, .img, .lnk, .tim, .pwm, .gd, .flt, .sup, .out] : List Comp)
  try dsimp only
  repeat' first
    | with_reducible assumption
    | with_reducible apply only_fetchTimeout
    | with_reducible apply Only.live
    | exact List.Subset.trans (by decide) hM
    | (intro _ _ _)
    | (intro _ _)

theorem execVerifyDone_only (img : StationRead) {s s' : State} (h : execVerifyDone img s = .next s') :
    Only [.regs, .clk, .flash, .img, .lnk, .tim, .pwm, .gd, .flt, .eng, .saf, .mtr, .out] s s' := by
  cases h
  have hK : Only [.regs, .clk, .flash, .img, .lnk, .tim, .pwm, .gd, .flt, .eng, .saf, .mtr, .out] s s := Only.refl _ _
  have hM := List.Subset.refl ([.regs, .clk, .flash, .img, .lnk, .tim, .pwm, .gd, .flt, .eng, .saf, .mtr, .out] : List Comp)
  try dsimp only
  repeat' first
    | with_reducible assumption
    | with_reducible apply only_verifyDone
    | with_reducible apply Only.live
    | exact List.Subset.trans (by decide) hM
    | (intro _ _ _)
    | (intro _ _)

theorem execBootLock_only {s s' : State} (h : execBootLock s = .next s') :
    Only [.regs, .mem, .sys, .clk, .lnk, .tim, .pwm, .gd, .flt, .out] s s' := by
  cases h
  have hK : Only [.regs, .mem, .sys, .clk, .lnk, .tim, .pwm, .gd, .flt, .out] s s := Only.refl _ _
  have hM := List.Subset.refl ([.regs, .mem, .sys, .clk, .lnk, .tim, .pwm, .gd, .flt, .out] : List Comp)
  try dsimp only
  repeat' first
    | with_reducible assumption
    | with_reducible apply only_bootLock
    | with_reducible apply Only.live
    | exact List.Subset.trans (by decide) hM
    | (intro _ _ _)
    | (intro _ _)

theorem execImgProvWrite_only (m : Master) (v : Word) {s s' : State} (h : execImgProvWrite m v s = .next s') :
    Only [.regs, .fuse] s s' := by
  cases h
  have hK : Only [.regs, .fuse] s s := Only.refl _ _
  have hM := List.Subset.refl ([.regs, .fuse] : List Comp)
  try dsimp only
  repeat' first
    | with_reducible assumption
    | with_reducible apply only_provWrite
    | with_reducible apply Only.byMaster
    | exact List.Subset.trans (by decide) hM
    | (intro _ _ _)
    | (intro _ _)

theorem execTrialTimeout_only {s s' : State} (h : execTrialTimeout s = .next s') :
    Only [.regs, .mem, .sys, .clk, .flash, .img, .lnk, .rng, .tim, .pwm, .gd, .dpx, .flt, .eng, .adc, .memx, .thm, .bal, .saf, .sup, .mbx, .mtr, .raises, .out, .free] s s' := by
  cases h
  have hK : Only [.regs, .mem, .sys, .clk, .flash, .img, .lnk, .rng, .tim, .pwm, .gd, .dpx, .flt, .eng, .adc, .memx, .thm, .bal, .saf, .sup, .mbx, .mtr, .raises, .out, .free] s s := Only.refl _ _
  have hM := List.Subset.refl ([.regs, .mem, .sys, .clk, .flash, .img, .lnk, .rng, .tim, .pwm, .gd, .dpx, .flt, .eng, .adc, .memx, .thm, .bal, .saf, .sup, .mbx, .mtr, .raises, .out, .free] : List Comp)
  try dsimp only
  repeat' first
    | with_reducible assumption
    | with_reducible apply only_trialTimeout
    | with_reducible apply Only.live
    | exact List.Subset.trans (by decide) hM
    | (intro _ _ _)
    | (intro _ _)

theorem execImgErase_only (m : Master) {s s' : State} (h : execImgErase m s = .next s') :
    Only [.regs, .flash, .img] s s' := by
  cases h
  have hK : Only [.regs, .flash, .img] s s := Only.refl _ _
  have hM := List.Subset.refl ([.regs, .flash, .img] : List Comp)
  try dsimp only
  repeat' first
    | with_reducible assumption
    | with_reducible apply only_updCmd
    | with_reducible apply only_updErase
    | with_reducible apply Only.byMaster
    | exact List.Subset.trans (by decide) hM
    | (intro _ _ _)
    | (intro _ _)

theorem execImgProgram_only (m : Master) {s s' : State} (h : execImgProgram m s = .next s') :
    Only [.regs, .flash, .img] s s' := by
  cases h
  have hK : Only [.regs, .flash, .img] s s := Only.refl _ _
  have hM := List.Subset.refl ([.regs, .flash, .img] : List Comp)
  try dsimp only
  repeat' first
    | with_reducible assumption
    | with_reducible apply only_updCmd
    | with_reducible apply only_updProgram
    | with_reducible apply Only.byMaster
    | exact List.Subset.trans (by decide) hM
    | (intro _ _ _)
    | (intro _ _)

theorem execImgVerify_only (m : Master) {s s' : State} (h : execImgVerify m s = .next s') :
    Only [.regs, .img] s s' := by
  cases h
  have hK : Only [.regs, .img] s s := Only.refl _ _
  have hM := List.Subset.refl ([.regs, .img] : List Comp)
  try dsimp only
  repeat' first
    | with_reducible assumption
    | with_reducible apply only_updCmd
    | with_reducible apply only_updStart
    | with_reducible apply Only.byMaster
    | exact List.Subset.trans (by decide) hM
    | (intro _ _ _)
    | (intro _ _)

theorem execImgArm_only (m : Master) {s s' : State} (h : execImgArm m s = .next s') :
    Only [.regs, .flash, .img] s s' := by
  cases h
  have hK : Only [.regs, .flash, .img] s s := Only.refl _ _
  have hM := List.Subset.refl ([.regs, .flash, .img] : List Comp)
  try dsimp only
  repeat' first
    | with_reducible assumption
    | with_reducible apply only_updCmd
    | with_reducible apply only_updArm
    | with_reducible apply Only.byMaster
    | exact List.Subset.trans (by decide) hM
    | (intro _ _ _)
    | (intro _ _)

theorem execImgAbort_only (m : Master) {s s' : State} (h : execImgAbort m s = .next s') :
    Only [.regs, .flash, .img, .free] s s' := by
  cases h
  have hK : Only [.regs, .flash, .img, .free] s s := Only.refl _ _
  have hM := List.Subset.refl ([.regs, .flash, .img, .free] : List Comp)
  try dsimp only
  repeat' first
    | with_reducible assumption
    | with_reducible apply only_updCmd
    | with_reducible apply only_updAbort
    | with_reducible apply Only.byMaster
    | exact List.Subset.trans (by decide) hM
    | (intro _ _ _)
    | (intro _ _)

theorem execImgUpdDone_only (flashErr bufferBad : Bool) {s s' : State} (h : execImgUpdDone flashErr bufferBad s = .next s') :
    Only [.regs, .flash, .img, .free] s s' := by
  cases h
  have hK : Only [.regs, .flash, .img, .free] s s := Only.refl _ _
  have hM := List.Subset.refl ([.regs, .flash, .img, .free] : List Comp)
  try dsimp only
  repeat' first
    | with_reducible assumption
    | with_reducible apply only_updDone
    | with_reducible apply Only.live
    | exact List.Subset.trans (by decide) hM
    | (intro _ _ _)
    | (intro _ _)

theorem execStimeWrap_only {s s' : State} (h : execStimeWrap s = .next s') :
    Only [.regs, .clk, .tim, .pwm, .gd, .flt, .sup, .out] s s' := by
  cases h
  have hK : Only [.regs, .clk, .tim, .pwm, .gd, .flt, .sup, .out] s s := Only.refl _ _
  have hM := List.Subset.refl ([.regs, .clk, .tim, .pwm, .gd, .flt, .sup, .out] : List Comp)
  try dsimp only
  repeat' first
    | with_reducible assumption
    | with_reducible apply only_runTime
    | with_reducible apply Only.live
    | exact List.Subset.trans (by decide) hM
    | (intro _ _ _)
    | (intro _ _)

theorem execSourceLoss_only {s s' : State} (h : execSourceLoss s = .next s') :
    Only [.regs, .clk, .flash, .fuse, .img, .tim, .pwm, .gd, .flt, .out] s s' := by
  cases h
  have hK : Only [.regs, .clk, .flash, .fuse, .img, .tim, .pwm, .gd, .flt, .out] s s := Only.refl _ _
  have hM := List.Subset.refl ([.regs, .clk, .flash, .fuse, .img, .tim, .pwm, .gd, .flt, .out] : List Comp)
  try dsimp only
  repeat' first
    | with_reducible assumption
    | with_reducible apply only_sourceLoss
    | with_reducible apply Only.live
    | exact List.Subset.trans (by decide) hM
    | (intro _ _ _)
    | (intro _ _)

theorem execHoldLimit_only {s s' : State} (h : execHoldLimit s = .next s') :
    Only [.regs, .sys, .clk, .lnk, .tim, .pwm, .gd, .flt, .bal, .sup, .out] s s' := by
  cases h
  have hK : Only [.regs, .sys, .clk, .lnk, .tim, .pwm, .gd, .flt, .bal, .sup, .out] s s := Only.refl _ _
  have hM := List.Subset.refl ([.regs, .sys, .clk, .lnk, .tim, .pwm, .gd, .flt, .bal, .sup, .out] : List Comp)
  try dsimp only
  repeat' first
    | with_reducible assumption
    | with_reducible apply only_holdLimit
    | with_reducible apply Only.live
    | exact List.Subset.trans (by decide) hM
    | (intro _ _ _)
    | (intro _ _)

theorem execXchk_only {s s' : State} (h : execXchk s = .next s') :
    Only [.regs, .clk, .tim, .pwm, .gd, .flt, .out] s s' := by
  cases h
  have hK : Only [.regs, .clk, .tim, .pwm, .gd, .flt, .out] s s := Only.refl _ _
  have hM := List.Subset.refl ([.regs, .clk, .tim, .pwm, .gd, .flt, .out] : List Comp)
  try dsimp only
  repeat' first
    | with_reducible assumption
    | with_reducible apply only_crossCheck
    | with_reducible apply Only.live
    | exact List.Subset.trans (by decide) hM
    | (intro _ _ _)
    | (intro _ _)

theorem execHostTimeout_only {s s' : State} (h : execHostTimeout s = .next s') :
    Only [.regs, .sys, .clk, .tim, .pwm, .gd, .flt, .sup, .out] s s' := by
  cases h
  have hK : Only [.regs, .sys, .clk, .tim, .pwm, .gd, .flt, .sup, .out] s s := Only.refl _ _
  have hM := List.Subset.refl ([.regs, .sys, .clk, .tim, .pwm, .gd, .flt, .sup, .out] : List Comp)
  try dsimp only
  repeat' first
    | with_reducible assumption
    | with_reducible apply only_hostTimeout
    | with_reducible apply Only.live
    | exact List.Subset.trans (by decide) hM
    | (intro _ _ _)
    | (intro _ _)

theorem execTpoEdge_only (n : Fin 4) {s s' : State} (h : execTpoEdge n s = .next s') :
    Only [.regs, .sys, .clk, .tim, .pwm, .gd, .flt, .sup, .out] s s' := by
  cases h
  have hK : Only [.regs, .sys, .clk, .tim, .pwm, .gd, .flt, .sup, .out] s s := Only.refl _ _
  have hM := List.Subset.refl ([.regs, .sys, .clk, .tim, .pwm, .gd, .flt, .sup, .out] : List Comp)
  try dsimp only
  repeat' first
    | with_reducible assumption
    | with_reducible apply only_tpoEdge
    | with_reducible apply Only.live
    | exact List.Subset.trans (by decide) hM
    | (intro _ _ _)
    | (intro _ _)

theorem execTpoPulseEnd_only (n : Fin 4) {s s' : State} (h : execTpoPulseEnd n s = .next s') :
    Only [.regs, .sys, .clk, .tim, .pwm, .gd, .flt, .sup, .out] s s' := by
  cases h
  have hK : Only [.regs, .sys, .clk, .tim, .pwm, .gd, .flt, .sup, .out] s s := Only.refl _ _
  have hM := List.Subset.refl ([.regs, .sys, .clk, .tim, .pwm, .gd, .flt, .sup, .out] : List Comp)
  try dsimp only
  repeat' first
    | with_reducible assumption
    | with_reducible apply only_tpoPulseEnd
    | with_reducible apply Only.live
    | exact List.Subset.trans (by decide) hM
    | (intro _ _ _)
    | (intro _ _)

theorem execTpoEnable_only (n : Fin 4) (v : Word) {s s' : State} (h : execTpoEnable n v s = .next s') :
    Only [.regs, .clk, .tim, .pwm, .gd, .flt, .out] s s' := by
  cases h
  have hK : Only [.regs, .clk, .tim, .pwm, .gd, .flt, .out] s s := Only.refl _ _
  have hM := List.Subset.refl ([.regs, .clk, .tim, .pwm, .gd, .flt, .out] : List Comp)
  try dsimp only
  repeat' first
    | with_reducible assumption
    | with_reducible apply only_tpoCtrl
    | with_reducible apply Only.live
    | exact List.Subset.trans (by decide) hM
    | (intro _ _ _)
    | (intro _ _)

theorem execTpoConfigWrite_only (n : Fin 4) (reg : TpoReg) (v : Word) {s s' : State} (h : execTpoConfigWrite n reg v s = .next s') :
    Only [.regs, .clk, .tim, .pwm, .gd, .flt, .out] s s' := by
  cases h
  have hK : Only [.regs, .clk, .tim, .pwm, .gd, .flt, .out] s s := Only.refl _ _
  have hM := List.Subset.refl ([.regs, .clk, .tim, .pwm, .gd, .flt, .out] : List Comp)
  try dsimp only
  repeat' first
    | with_reducible assumption
    | with_reducible apply only_tpoConfig
    | with_reducible apply Only.live
    | exact List.Subset.trans (by decide) hM
    | (intro _ _ _)
    | (intro _ _)

theorem execTpiEdge_only (rising : Bool) (before after : Nat) {s s' : State} (h : execTpiEdge rising before after s = .next s') :
    Only [.regs] s s' := by
  cases h
  have hK : Only [.regs] s s := Only.refl _ _
  have hM := List.Subset.refl ([.regs] : List Comp)
  try dsimp only
  repeat' first
    | with_reducible assumption
    | with_reducible apply only_tpiEdge
    | with_reducible apply Only.live
    | exact List.Subset.trans (by decide) hM
    | (intro _ _ _)
    | (intro _ _)

theorem execFaultRaise_only (r : RaiseIn) (back : Bool) {s s' : State} (h : execFaultRaise r back s = .next s') :
    Only [.regs, .clk, .tim, .pwm, .gd, .flt, .out] s s' := by
  cases h
  have hK : Only [.regs, .clk, .tim, .pwm, .gd, .flt, .out] s s := Only.refl _ _
  have hM := List.Subset.refl ([.regs, .clk, .tim, .pwm, .gd, .flt, .out] : List Comp)
  try dsimp only
  repeat' first
    | with_reducible assumption
    | with_reducible apply only_pairFault
    | with_reducible apply Only.live
    | exact List.Subset.trans (by decide) hM
    | (intro _ _ _)
    | (intro _ _)

theorem execBrokenPair_only (r : RaiseIn) (back : Bool) {s s' : State} (h : execBrokenPair r back s = .next s') :
    Only [.regs, .sys, .clk, .tim, .pwm, .gd, .flt, .sup, .out] s s' := by
  cases h
  have hK : Only [.regs, .sys, .clk, .tim, .pwm, .gd, .flt, .sup, .out] s s := Only.refl _ _
  have hM := List.Subset.refl ([.regs, .sys, .clk, .tim, .pwm, .gd, .flt, .sup, .out] : List Comp)
  try dsimp only
  repeat' first
    | with_reducible assumption
    | with_reducible apply only_pairBroken
    | with_reducible apply Only.live
    | exact List.Subset.trans (by decide) hM
    | (intro _ _ _)
    | (intro _ _)

theorem execRecordClose_only {s s' : State} (h : execRecordClose s = .next s') :
    Only [.regs, .sys, .vault, .clk, .rng, .tim, .pwm, .gd, .flt, .sup, .out] s s' := by
  cases h
  have hK : Only [.regs, .sys, .vault, .clk, .rng, .tim, .pwm, .gd, .flt, .sup, .out] s s := Only.refl _ _
  have hM := List.Subset.refl ([.regs, .sys, .vault, .clk, .rng, .tim, .pwm, .gd, .flt, .sup, .out] : List Comp)
  try dsimp only
  repeat' first
    | with_reducible assumption
    | with_reducible apply only_recordClose
    | with_reducible apply Only.live
    | exact List.Subset.trans (by decide) hM
    | (intro _ _ _)
    | (intro _ _)

theorem execRecordClear_only (m : Master) (n : BitVec 16) {s s' : State} (h : execRecordClear m n s = .next s') :
    Only [.regs, .clk, .flash, .fuse, .img, .lnk, .rng, .tim, .pwm, .gd, .flt, .bal, .sup, .out] s s' := by
  cases h
  have hK : Only [.regs, .clk, .flash, .fuse, .img, .lnk, .rng, .tim, .pwm, .gd, .flt, .bal, .sup, .out] s s := Only.refl _ _
  have hM := List.Subset.refl ([.regs, .clk, .flash, .fuse, .img, .lnk, .rng, .tim, .pwm, .gd, .flt, .bal, .sup, .out] : List Comp)
  try dsimp only
  repeat' first
    | with_reducible assumption
    | with_reducible apply only_recordClear
    | with_reducible apply only_violation
    | with_reducible apply Only.byMaster
    | with_reducible apply Only.ite
    | exact List.Subset.trans (by decide) hM
    | (intro _ _ _)
    | (intro _ _)

theorem execStationClear_only (m : Master) {s s' : State} (h : execStationClear m s = .next s') :
    Only [.regs, .flt] s s' := by
  cases h
  have hK : Only [.regs, .flt] s s := Only.refl _ _
  have hM := List.Subset.refl ([.regs, .flt] : List Comp)
  try dsimp only
  repeat' first
    | with_reducible assumption
    | with_reducible apply only_stationClear
    | with_reducible apply only_violation
    | with_reducible apply Only.byMaster
    | with_reducible apply Only.ite
    | exact List.Subset.trans (by decide) hM
    | (intro _ _ _)
    | (intro _ _)

theorem execFltiChange_only (level : FltiLevel) {s s' : State} (h : execFltiChange level s = .next s') :
    Only [.regs, .clk, .tim, .pwm, .gd, .flt, .out] s s' := by
  cases h
  have hK : Only [.regs, .clk, .tim, .pwm, .gd, .flt, .out] s s := Only.refl _ _
  have hM := List.Subset.refl ([.regs, .clk, .tim, .pwm, .gd, .flt, .out] : List Comp)
  try dsimp only
  repeat' first
    | with_reducible assumption
    | with_reducible apply only_fltiChange
    | with_reducible apply Only.live
    | exact List.Subset.trans (by decide) hM
    | (intro _ _ _)
    | (intro _ _)

theorem execBatchStage_only (id c : Word) (count : Nat) (items : List (Word × Word)) {s s' : State} (h : execBatchStage id c count items s = .next s') :
    Only [.regs, .clk, .rng, .tim, .pwm, .gd, .flt, .raises, .out] s s' := by
  cases h
  have hK : Only [.regs, .clk, .rng, .tim, .pwm, .gd, .flt, .raises, .out] s s := Only.refl _ _
  have hM := List.Subset.refl ([.regs, .clk, .rng, .tim, .pwm, .gd, .flt, .raises, .out] : List Comp)
  try dsimp only
  repeat' first
    | with_reducible assumption
    | with_reducible apply only_batchStage
    | with_reducible apply Only.live
    | exact List.Subset.trans (by decide) hM
    | (intro _ _ _)
    | (intro _ _)

theorem execBatchCancel_only (id : Word) {s s' : State} (h : execBatchCancel id s = .next s') :
    Only [.regs, .clk, .rng, .tim, .pwm, .gd, .flt, .raises, .out] s s' := by
  cases h
  have hK : Only [.regs, .clk, .rng, .tim, .pwm, .gd, .flt, .raises, .out] s s := Only.refl _ _
  have hM := List.Subset.refl ([.regs, .clk, .rng, .tim, .pwm, .gd, .flt, .raises, .out] : List Comp)
  try dsimp only
  repeat' first
    | with_reducible assumption
    | with_reducible apply only_batchCancel
    | with_reducible apply Only.live
    | exact List.Subset.trans (by decide) hM
    | (intro _ _ _)
    | (intro _ _)

theorem execGlazeSend_only {s s' : State} (h : execGlazeSend s = .next s') :
    Only [.dpx, .out, .free] s s' := by
  cases h
  have hK : Only [.dpx, .out, .free] s s := Only.refl _ _
  have hM := List.Subset.refl ([.dpx, .out, .free] : List Comp)
  try dsimp only
  repeat' first
    | with_reducible assumption
    | with_reducible apply only_glazeSend
    | with_reducible apply Only.live
    | exact List.Subset.trans (by decide) hM
    | (intro _ _ _)
    | (intro _ _)

theorem execGlazeCodewordReceived_only {s s' : State} (h : execGlazeCodewordReceived s = .next s') :
    Only [.regs, .clk, .rng, .tim, .pwm, .gd, .dpx, .flt, .out] s s' := by
  cases h
  have hK : Only [.regs, .clk, .rng, .tim, .pwm, .gd, .dpx, .flt, .out] s s := Only.refl _ _
  have hM := List.Subset.refl ([.regs, .clk, .rng, .tim, .pwm, .gd, .dpx, .flt, .out] : List Comp)
  try dsimp only
  repeat' first
    | with_reducible assumption
    | with_reducible apply only_takeRx
    | with_reducible apply only_glazeReceived
    | with_reducible apply Only.live
    | exact List.Subset.trans (by decide) hM
    | (intro _ _ _)
    | (intro _ _)

theorem execListenWindowEnd_only {s s' : State} (h : execListenWindowEnd s = .next s') :
    Only [.regs, .sys, .clk, .flash, .fuse, .img, .tim, .pwm, .gd, .dpx, .flt, .saf, .sup, .out, .free] s s' := by
  cases h
  have hK : Only [.regs, .sys, .clk, .flash, .fuse, .img, .tim, .pwm, .gd, .dpx, .flt, .saf, .sup, .out, .free] s s := Only.refl _ _
  have hM := List.Subset.refl ([.regs, .sys, .clk, .flash, .fuse, .img, .tim, .pwm, .gd, .dpx, .flt, .saf, .sup, .out, .free] : List Comp)
  try dsimp only
  repeat' first
    | with_reducible assumption
    | with_reducible apply only_listenEnd
    | with_reducible apply Only.live
    | exact List.Subset.trans (by decide) hM
    | (intro _ _ _)
    | (intro _ _)

theorem execHbReceived_only {s s' : State} (h : execHbReceived s = .next s') :
    Only [.regs, .clk, .rng, .tim, .pwm, .gd, .dpx, .flt, .raises, .out] s s' := by
  cases h
  have hK : Only [.regs, .clk, .rng, .tim, .pwm, .gd, .dpx, .flt, .raises, .out] s s := Only.refl _ _
  have hM := List.Subset.refl ([.regs, .clk, .rng, .tim, .pwm, .gd, .dpx, .flt, .raises, .out] : List Comp)
  try dsimp only
  repeat' first
    | with_reducible assumption
    | with_reducible apply only_takeRx
    | with_reducible apply only_hbReceived
    | with_reducible apply Only.live
    | exact List.Subset.trans (by decide) hM
    | (intro _ _ _)
    | (intro _ _)

theorem execHealthReport_only {s s' : State} (h : execHealthReport s = .next s') :
    Only [.regs, .sys, .clk, .rng, .tim, .pwm, .gd, .dpx, .flt, .sup, .out] s s' := by
  cases h
  have hK : Only [.regs, .sys, .clk, .rng, .tim, .pwm, .gd, .dpx, .flt, .sup, .out] s s := Only.refl _ _
  have hM := List.Subset.refl ([.regs, .sys, .clk, .rng, .tim, .pwm, .gd, .dpx, .flt, .sup, .out] : List Comp)
  try dsimp only
  repeat' first
    | with_reducible assumption
    | with_reducible apply only_healthReport
    | with_reducible apply Only.live
    | exact List.Subset.trans (by decide) hM
    | (intro _ _ _)
    | (intro _ _)

theorem execEngineSelfCheck_only (ok : Bool) {s s' : State} (h : execEngineSelfCheck ok s = .next s') :
    Only [.regs, .clk, .tim, .pwm, .gd, .dpx, .flt, .out] s s' := by
  cases h
  have hK : Only [.regs, .clk, .tim, .pwm, .gd, .dpx, .flt, .out] s s := Only.refl _ _
  have hM := List.Subset.refl ([.regs, .clk, .tim, .pwm, .gd, .dpx, .flt, .out] : List Comp)
  try dsimp only
  repeat' first
    | with_reducible assumption
    | with_reducible apply only_selfCheck
    | with_reducible apply Only.live
    | exact List.Subset.trans (by decide) hM
    | (intro _ _ _)
    | (intro _ _)

theorem execSwapRequest_only (m : Master) {s s' : State} (h : execSwapRequest m s = .next s') :
    Only [.regs] s s' := by
  cases h
  have hK : Only [.regs] s s := Only.refl _ _
  have hM := List.Subset.refl ([.regs] : List Comp)
  try dsimp only
  repeat' first
    | with_reducible assumption
    | with_reducible apply only_swapRequest
    | with_reducible apply only_violation
    | with_reducible apply Only.byMaster
    | with_reducible apply Only.ite
    | exact List.Subset.trans (by decide) hM
    | (intro _ _ _)
    | (intro _ _)

theorem execDpxSwapCancel_only (m : Master) {s s' : State} (h : execDpxSwapCancel m s = .next s') :
    Only [.regs, .clk, .tim, .pwm, .gd, .flt, .raises, .out] s s' := by
  cases h
  have hK : Only [.regs, .clk, .tim, .pwm, .gd, .flt, .raises, .out] s s := Only.refl _ _
  have hM := List.Subset.refl ([.regs, .clk, .tim, .pwm, .gd, .flt, .raises, .out] : List Comp)
  try dsimp only
  repeat' first
    | with_reducible assumption
    | with_reducible apply only_swapCancelDpx
    | with_reducible apply only_violation
    | with_reducible apply Only.byMaster
    | with_reducible apply Only.ite
    | exact List.Subset.trans (by decide) hM
    | (intro _ _ _)
    | (intro _ _)

theorem execDpxCntClr_only {s s' : State} (h : execDpxCntClr s = .next s') :
    Only [.regs] s s' := by
  cases h
  have hK : Only [.regs] s s := Only.refl _ _
  have hM := List.Subset.refl ([.regs] : List Comp)
  try dsimp only
  repeat' first
    | with_reducible assumption
    | with_reducible apply only_dpxCntClr
    | with_reducible apply Only.live
    | exact List.Subset.trans (by decide) hM
    | (intro _ _ _)
    | (intro _ _)

theorem execNoEligibleStandby_only {s s' : State} (h : execNoEligibleStandby s = .next s') :
    Only [.regs, .sys, .clk, .tim, .pwm, .gd, .dpx, .flt, .sup, .out] s s' := by
  cases h
  have hK : Only [.regs, .sys, .clk, .tim, .pwm, .gd, .dpx, .flt, .sup, .out] s s := Only.refl _ _
  have hM := List.Subset.refl ([.regs, .sys, .clk, .tim, .pwm, .gd, .dpx, .flt, .sup, .out] : List Comp)
  try dsimp only
  repeat' first
    | with_reducible assumption
    | with_reducible apply only_noStandby
    | with_reducible apply Only.live
    | exact List.Subset.trans (by decide) hM
    | (intro _ _ _)
    | (intro _ _)

theorem execFailoverLedgerRead_only (got : List (BitVec 8 × List (List Word))) {s s' : State} (h : execFailoverLedgerRead got s = .next s') :
    Only [.regs, .clk, .tim, .pwm, .gd, .flt, .sup, .out] s s' := by
  cases h
  have hK : Only [.regs, .clk, .tim, .pwm, .gd, .flt, .sup, .out] s s := Only.refl _ _
  have hM := List.Subset.refl ([.regs, .clk, .tim, .pwm, .gd, .flt, .sup, .out] : List Comp)
  try dsimp only
  repeat' first
    | with_reducible assumption
    | with_reducible apply only_failoverLedger
    | with_reducible apply Only.live
    | exact List.Subset.trans (by decide) hM
    | (intro _ _ _)
    | (intro _ _)

theorem execCodewordReceived_only (p : Fin 5) (l : Fin 2) (rx : List Int) {s s' : State} (h : execCodewordReceived p l rx s = .next s') :
    Only [.regs, .clk, .lnk, .rng, .tim, .pwm, .gd, .flt, .raises, .out, .free] s s' := by
  cases h
  have hK : Only [.regs, .clk, .lnk, .rng, .tim, .pwm, .gd, .flt, .raises, .out, .free] s s := Only.refl _ _
  have hM := List.Subset.refl ([.regs, .clk, .lnk, .rng, .tim, .pwm, .gd, .flt, .raises, .out, .free] : List Comp)
  try dsimp only
  repeat' first
    | with_reducible assumption
    | with_reducible apply only_lineIn
    | with_reducible apply Only.live
    | exact List.Subset.trans (by decide) hM
    | (intro _ _ _)
    | (intro _ _)

theorem execFold_only (p : Fin 4) {s s' : State} (h : execFold p s = .next s') :
    Only [.regs, .clk, .rng, .tim, .pwm, .gd, .flt, .raises, .out] s s' := by
  cases h
  have hK : Only [.regs, .clk, .rng, .tim, .pwm, .gd, .flt, .raises, .out] s s := Only.refl _ _
  have hM := List.Subset.refl ([.regs, .clk, .rng, .tim, .pwm, .gd, .flt, .raises, .out] : List Comp)
  try dsimp only
  repeat' first
    | with_reducible assumption
    | with_reducible apply only_foldPort
    | with_reducible apply Only.live
    | exact List.Subset.trans (by decide) hM
    | (intro _ _ _)
    | (intro _ _)

theorem execUnfoldNamed_only (ring : Ring) {s s' : State} (h : execUnfoldNamed ring s = .next s') :
    Only [.regs, .rng] s s' := by
  cases h
  have hK : Only [.regs, .rng] s s := Only.refl _ _
  have hM := List.Subset.refl ([.regs, .rng] : List Comp)
  try dsimp only
  repeat' first
    | with_reducible assumption
    | with_reducible apply only_unfoldNamed
    | with_reducible apply Only.live
    | exact List.Subset.trans (by decide) hM
    | (intro _ _ _)
    | (intro _ _)

theorem execNbrReceived_only (t2 : BitVec 48) {s s' : State} (h : execNbrReceived t2 s = .next s') :
    Only [.regs, .rng, .tim] s s' := by
  cases h
  have hK : Only [.regs, .rng, .tim] s s := Only.refl _ _
  have hM := List.Subset.refl ([.regs, .rng, .tim] : List Comp)
  try dsimp only
  repeat' first
    | with_reducible assumption
    | with_reducible apply only_takeRx
    | with_reducible apply only_nbrReceived
    | with_reducible apply Only.live
    | exact List.Subset.trans (by decide) hM
    | (intro _ _ _)
    | (intro _ _)

theorem execUpWave_only (diverted : List (Fin 4 × List Byte)) {s s' : State} (h : execUpWave diverted s = .next s') :
    Only [.regs, .sys, .clk, .rng, .tim, .pwm, .gd, .flt, .sup, .out, .free] s s' := by
  cases h
  have hK : Only [.regs, .sys, .clk, .rng, .tim, .pwm, .gd, .flt, .sup, .out, .free] s s := Only.refl _ _
  have hM := List.Subset.refl ([.regs, .sys, .clk, .rng, .tim, .pwm, .gd, .flt, .sup, .out, .free] : List Comp)
  try dsimp only
  repeat' first
    | with_reducible assumption
    | with_reducible apply only_upWave
    | with_reducible apply only_divertAll
    | with_reducible apply Only.live
    | exact List.Subset.trans (by decide) hM
    | (intro _ _ _)
    | (intro _ _)

theorem execUpReceived_only {s s' : State} (h : execUpReceived s = .next s') :
    Only [.regs, .clk, .rng, .tim, .pwm, .gd, .dpx, .flt, .saf, .raises, .out] s s' := by
  cases h
  have hK : Only [.regs, .clk, .rng, .tim, .pwm, .gd, .dpx, .flt, .saf, .raises, .out] s s := Only.refl _ _
  have hM := List.Subset.refl ([.regs, .clk, .rng, .tim, .pwm, .gd, .dpx, .flt, .saf, .raises, .out] : List Comp)
  try dsimp only
  repeat' first
    | with_reducible assumption
    | with_reducible apply only_takeRx
    | with_reducible apply only_upReceived
    | with_reducible apply Only.live
    | exact List.Subset.trans (by decide) hM
    | (intro _ _ _)
    | (intro _ _)

theorem execUplinkDeadline_only {s s' : State} (h : execUplinkDeadline s = .next s') :
    Only [.regs, .sys, .clk, .rng, .tim, .pwm, .gd, .dpx, .flt, .eng, .bal, .saf, .sup, .raises, .out] s s' := by
  cases h
  have hK : Only [.regs, .sys, .clk, .rng, .tim, .pwm, .gd, .dpx, .flt, .eng, .bal, .saf, .sup, .raises, .out] s s := Only.refl _ _
  have hM := List.Subset.refl ([.regs, .sys, .clk, .rng, .tim, .pwm, .gd, .dpx, .flt, .eng, .bal, .saf, .sup, .raises, .out] : List Comp)
  try dsimp only
  repeat' first
    | with_reducible assumption
    | with_reducible apply only_uplinkDeadline
    | with_reducible apply Only.live
    | exact List.Subset.trans (by decide) hM
    | (intro _ _ _)
    | (intro _ _)

theorem execDownWave_only (diverted : List (Fin 4 × List Byte)) {s s' : State} (h : execDownWave diverted s = .next s') :
    Only [.regs, .sys, .clk, .rng, .tim, .pwm, .gd, .dpx, .flt, .sup, .out, .free] s s' := by
  cases h
  have hK : Only [.regs, .sys, .clk, .rng, .tim, .pwm, .gd, .dpx, .flt, .sup, .out, .free] s s := Only.refl _ _
  have hM := List.Subset.refl ([.regs, .sys, .clk, .rng, .tim, .pwm, .gd, .dpx, .flt, .sup, .out, .free] : List Comp)
  try dsimp only
  repeat' first
    | with_reducible assumption
    | with_reducible apply only_downWave
    | with_reducible apply only_divertAll
    | with_reducible apply Only.live
    | exact List.Subset.trans (by decide) hM
    | (intro _ _ _)
    | (intro _ _)

theorem execDnReceived_only {s s' : State} (h : execDnReceived s = .next s') :
    Only [.regs, .clk, .img, .rng, .tim, .pwm, .gd, .flt, .raises, .out, .free] s s' := by
  cases h
  have hK : Only [.regs, .clk, .img, .rng, .tim, .pwm, .gd, .flt, .raises, .out, .free] s s := Only.refl _ _
  have hM := List.Subset.refl ([.regs, .clk, .img, .rng, .tim, .pwm, .gd, .flt, .raises, .out, .free] : List Comp)
  try dsimp only
  repeat' first
    | with_reducible assumption
    | with_reducible apply only_takeRx
    | with_reducible apply only_dnReceived
    | with_reducible apply Only.live
    | exact List.Subset.trans (by decide) hM
    | (intro _ _ _)
    | (intro _ _)

theorem execAckReceived_only {s s' : State} (h : execAckReceived s = .next s') :
    Only [.regs, .clk, .rng, .tim, .pwm, .gd, .dpx, .flt, .raises, .out] s s' := by
  cases h
  have hK : Only [.regs, .clk, .rng, .tim, .pwm, .gd, .dpx, .flt, .raises, .out] s s := Only.refl _ _
  have hM := List.Subset.refl ([.regs, .clk, .rng, .tim, .pwm, .gd, .dpx, .flt, .raises, .out] : List Comp)
  try dsimp only
  repeat' first
    | with_reducible assumption
    | with_reducible apply only_takeRx
    | with_reducible apply only_ackReceived
    | with_reducible apply Only.live
    | exact List.Subset.trans (by decide) hM
    | (intro _ _ _)
    | (intro _ _)

theorem execRngCntClr_only {s s' : State} (h : execRngCntClr s = .next s') :
    Only [.regs] s s' := by
  cases h
  have hK : Only [.regs] s s := Only.refl _ _
  have hM := List.Subset.refl ([.regs] : List Comp)
  try dsimp only
  repeat' first
    | with_reducible assumption
    | with_reducible apply only_rngCntClr
    | with_reducible apply Only.live
    | exact List.Subset.trans (by decide) hM
    | (intro _ _ _)
    | (intro _ _)

theorem execAdmissionRequest_only (req : AdmissionIn) {s s' : State} (h : execAdmissionRequest req s = .next s') :
    Only [.regs, .mem, .sys, .clk, .flash, .fuse, .img, .lnk, .rng, .tim, .pwm, .gd, .dpx, .flt, .eng, .adc, .memx, .thm, .bal, .saf, .sup, .mbx, .mtr, .raises, .out, .free] s s' := by
  cases h
  have hK : Only [.regs, .mem, .sys, .clk, .flash, .fuse, .img, .lnk, .rng, .tim, .pwm, .gd, .dpx, .flt, .eng, .adc, .memx, .thm, .bal, .saf, .sup, .mbx, .mtr, .raises, .out, .free] s s := Only.refl _ _
  have hM := List.Subset.refl ([.regs, .mem, .sys, .clk, .flash, .fuse, .img, .lnk, .rng, .tim, .pwm, .gd, .dpx, .flt, .eng, .adc, .memx, .thm, .bal, .saf, .sup, .mbx, .mtr, .raises, .out, .free] : List Comp)
  try dsimp only
  repeat' first
    | with_reducible assumption
    | with_reducible apply only_admission
    | with_reducible apply only_admission
    | with_reducible apply Only.live
    | exact List.Subset.trans (by decide) hM
    | (intro _ _ _)
    | (intro _ _)

theorem execAdmissionTimeRetry_only (pos : BitVec 8) (timeOk : Bool) {s s' : State} (h : execAdmissionTimeRetry pos timeOk s = .next s') :
    Only [.regs, .mem, .sys, .clk, .flash, .fuse, .img, .lnk, .rng, .tim, .pwm, .gd, .dpx, .flt, .eng, .adc, .memx, .thm, .bal, .saf, .sup, .mbx, .mtr, .raises, .out, .free] s s' := by
  cases h
  have hK : Only [.regs, .mem, .sys, .clk, .flash, .fuse, .img, .lnk, .rng, .tim, .pwm, .gd, .dpx, .flt, .eng, .adc, .memx, .thm, .bal, .saf, .sup, .mbx, .mtr, .raises, .out, .free] s s := Only.refl _ _
  have hM := List.Subset.refl ([.regs, .mem, .sys, .clk, .flash, .fuse, .img, .lnk, .rng, .tim, .pwm, .gd, .dpx, .flt, .eng, .adc, .memx, .thm, .bal, .saf, .sup, .mbx, .mtr, .raises, .out, .free] : List Comp)
  try dsimp only
  repeat' first
    | with_reducible assumption
    | with_reducible apply only_admRetry
    | with_reducible apply Only.live
    | exact List.Subset.trans (by decide) hM
    | (intro _ _ _)
    | (intro _ _)

theorem execFullServiceNamed_only (locked unlocked : List (BitVec 8)) {s s' : State} (h : execFullServiceNamed locked unlocked s = .next s') :
    Only [.img, .out] s s' := by
  cases h
  have hK : Only [.img, .out] s s := Only.refl _ _
  have hM := List.Subset.refl ([.img, .out] : List Comp)
  try dsimp only
  repeat' first
    | with_reducible assumption
    | with_reducible apply only_fullNamed
    | with_reducible apply Only.live
    | exact List.Subset.trans (by decide) hM
    | (intro _ _ _)
    | (intro _ _)

theorem execStWaitExpiry_only {s s' : State} (h : execStWaitExpiry s = .next s') :
    Only [.regs, .sys, .clk, .img, .tim, .pwm, .gd, .flt, .sup, .out] s s' := by
  cases h
  have hK : Only [.regs, .sys, .clk, .img, .tim, .pwm, .gd, .flt, .sup, .out] s s := Only.refl _ _
  have hM := List.Subset.refl ([.regs, .sys, .clk, .img, .tim, .pwm, .gd, .flt, .sup, .out] : List Comp)
  try dsimp only
  repeat' first
    | with_reducible assumption
    | with_reducible apply only_stWaitExpiry
    | with_reducible apply Only.live
    | exact List.Subset.trans (by decide) hM
    | (intro _ _ _)
    | (intro _ _)

theorem execSpliceNamed_only (pos : BitVec 8) (locked : Bool) {s s' : State} (h : execSpliceNamed pos locked s = .next s') :
    Only [.img] s s' := by
  cases h
  have hK : Only [.img] s s := Only.refl _ _
  have hM := List.Subset.refl ([.img] : List Comp)
  try dsimp only
  repeat' first
    | with_reducible assumption
    | with_reducible apply only_spliceNamed
    | with_reducible apply Only.live
    | exact List.Subset.trans (by decide) hM
    | (intro _ _ _)
    | (intro _ _)

theorem execCycleBoundary_only (spliceBad : Bool) {s s' : State} (h : execCycleBoundary spliceBad s = .next s') :
    Only [.regs, .sys, .clk, .flash, .fuse, .img, .lnk, .rng, .tim, .pwm, .gd, .dpx, .flt, .eng, .adc, .bal, .saf, .sup, .raises, .out, .free] s s' := by
  cases h
  have hK : Only [.regs, .sys, .clk, .flash, .fuse, .img, .lnk, .rng, .tim, .pwm, .gd, .dpx, .flt, .eng, .adc, .bal, .saf, .sup, .raises, .out, .free] s s := Only.refl _ _
  have hM := List.Subset.refl ([.regs, .sys, .clk, .flash, .fuse, .img, .lnk, .rng, .tim, .pwm, .gd, .dpx, .flt, .eng, .adc, .bal, .saf, .sup, .raises, .out, .free] : List Comp)
  try dsimp only
  repeat' first
    | with_reducible assumption
    | with_reducible apply only_cycleBoundary
    | with_reducible apply Only.live
    | exact List.Subset.trans (by decide) hM
    | (intro _ _ _)
    | (intro _ _)

theorem execLinkMeasurement_only (p : Fin 4) {s s' : State} (h : execLinkMeasurement p s = .next s') :
    Only [.regs, .clk, .flash, .fuse, .img, .lnk, .rng, .tim, .pwm, .gd, .dpx, .flt, .eng, .adc, .bal, .saf, .sup, .raises, .out, .free] s s' := by
  cases h
  have hK : Only [.regs, .clk, .flash, .fuse, .img, .lnk, .rng, .tim, .pwm, .gd, .dpx, .flt, .eng, .adc, .bal, .saf, .sup, .raises, .out, .free] s s := Only.refl _ _
  have hM := List.Subset.refl ([.regs, .clk, .flash, .fuse, .img, .lnk, .rng, .tim, .pwm, .gd, .dpx, .flt, .eng, .adc, .bal, .saf, .sup, .raises, .out, .free] : List Comp)
  try dsimp only
  repeat' first
    | with_reducible assumption
    | with_reducible apply only_linkMeasurement
    | with_reducible apply Only.live
    | exact List.Subset.trans (by decide) hM
    | (intro _ _ _)
    | (intro _ _)

theorem execTimOffsetWrite_only (m : Master) (v : Word) {s s' : State} (h : execTimOffsetWrite m v s = .next s') :
    Only [.regs, .clk, .flash, .fuse, .img, .lnk, .rng, .tim, .pwm, .gd, .dpx, .flt, .eng, .adc, .bal, .saf, .sup, .raises, .out, .free] s s' := by
  cases h
  have hK : Only [.regs, .clk, .flash, .fuse, .img, .lnk, .rng, .tim, .pwm, .gd, .dpx, .flt, .eng, .adc, .bal, .saf, .sup, .raises, .out, .free] s s := Only.refl _ _
  have hM := List.Subset.refl ([.regs, .clk, .flash, .fuse, .img, .lnk, .rng, .tim, .pwm, .gd, .dpx, .flt, .eng, .adc, .bal, .saf, .sup, .raises, .out, .free] : List Comp)
  try dsimp only
  repeat' first
    | with_reducible assumption
    | with_reducible apply only_offsetWrite
    | with_reducible apply only_violation
    | with_reducible apply Only.byMaster
    | with_reducible apply Only.ite
    | exact List.Subset.trans (by decide) hM
    | (intro _ _ _)
    | (intro _ _)

theorem execMeterSample_only (codes : List Int) (crossing : Bool) {s s' : State} (h : execMeterSample codes crossing s = .next s') :
    Only [.regs, .sys, .clk, .tim, .pwm, .gd, .flt, .sup, .mtr, .out, .free] s s' := by
  cases h
  have hK : Only [.regs, .sys, .clk, .tim, .pwm, .gd, .flt, .sup, .mtr, .out, .free] s s := Only.refl _ _
  have hM := List.Subset.refl ([.regs, .sys, .clk, .tim, .pwm, .gd, .flt, .sup, .mtr, .out, .free] : List Comp)
  try dsimp only
  repeat' first
    | with_reducible assumption
    | with_reducible apply only_meterSample
    | with_reducible apply Only.live
    | exact List.Subset.trans (by decide) hM
    | (intro _ _ _)
    | (intro _ _)

theorem execNorefCycleEnd_only {s s' : State} (h : execNorefCycleEnd s = .next s') :
    Only [.regs, .sys, .clk, .tim, .pwm, .gd, .flt, .sup, .mtr, .out, .free] s s' := by
  cases h
  have hK : Only [.regs, .sys, .clk, .tim, .pwm, .gd, .flt, .sup, .mtr, .out, .free] s s := Only.refl _ _
  have hM := List.Subset.refl ([.regs, .sys, .clk, .tim, .pwm, .gd, .flt, .sup, .mtr, .out, .free] : List Comp)
  try dsimp only
  repeat' first
    | with_reducible assumption
    | with_reducible apply only_norefEnd
    | with_reducible apply Only.live
    | exact List.Subset.trans (by decide) hM
    | (intro _ _ _)
    | (intro _ _)

theorem execAccumulatorUpdate_only (upset : Option (Fin 64 × BitVec 64)) {s s' : State} (h : execAccumulatorUpdate upset s = .next s') :
    Only [.regs, .clk, .tim, .pwm, .gd, .flt, .mtr, .out] s s' := by
  cases h
  have hK : Only [.regs, .clk, .tim, .pwm, .gd, .flt, .mtr, .out] s s := Only.refl _ _
  have hM := List.Subset.refl ([.regs, .clk, .tim, .pwm, .gd, .flt, .mtr, .out] : List Comp)
  try dsimp only
  repeat' first
    | with_reducible assumption
    | with_reducible apply only_accUpset
    | with_reducible apply only_accUpdate
    | with_reducible apply Only.live
    | exact List.Subset.trans (by decide) hM
    | (intro _ _ _)
    | (intro _ _)
    | split

theorem execPulseEmit_only (n : Fin 4) {s s' : State} (h : execPulseEmit n s = .next s') :
    Only [.regs, .sys, .clk, .tim, .pwm, .gd, .flt, .sup, .mtr, .out] s s' := by
  cases h
  have hK : Only [.regs, .sys, .clk, .tim, .pwm, .gd, .flt, .sup, .mtr, .out] s s := Only.refl _ _
  have hM := List.Subset.refl ([.regs, .sys, .clk, .tim, .pwm, .gd, .flt, .sup, .mtr, .out] : List Comp)
  try dsimp only
  repeat' first
    | with_reducible assumption
    | with_reducible apply only_pulseEmit
    | with_reducible apply Only.live
    | exact List.Subset.trans (by decide) hM
    | (intro _ _ _)
    | (intro _ _)

theorem execPlsPulseEnd_only (n : Fin 4) {s s' : State} (h : execPlsPulseEnd n s = .next s') :
    Only [.regs, .sys, .clk, .tim, .pwm, .gd, .flt, .sup, .mtr, .out] s s' := by
  cases h
  have hK : Only [.regs, .sys, .clk, .tim, .pwm, .gd, .flt, .sup, .mtr, .out] s s := Only.refl _ _
  have hM := List.Subset.refl ([.regs, .sys, .clk, .tim, .pwm, .gd, .flt, .sup, .mtr, .out] : List Comp)
  try dsimp only
  repeat' first
    | with_reducible assumption
    | with_reducible apply only_plsEnd
    | with_reducible apply Only.live
    | exact List.Subset.trans (by decide) hM
    | (intro _ _ _)
    | (intro _ _)

theorem execPlsConfigWrite_only (m : Master) (n : Fin 4) (wgt : Bool) (v : Word) {s s' : State} (h : execPlsConfigWrite m n wgt v s = .next s') :
    Only [.regs, .mtr] s s' := by
  cases h
  have hK : Only [.regs, .mtr] s s := Only.refl _ _
  have hM := List.Subset.refl ([.regs, .mtr] : List Comp)
  try dsimp only
  repeat' first
    | with_reducible assumption
    | with_reducible apply only_plsWrite
    | with_reducible apply only_violation
    | with_reducible apply Only.byMaster
    | with_reducible apply Only.ite
    | exact List.Subset.trans (by decide) hM
    | (intro _ _ _)
    | (intro _ _)

theorem execSnapshotTake_only (m : Master) {s s' : State} (h : execSnapshotTake m s = .next s') :
    Only [.regs, .clk, .tim, .pwm, .gd, .flt, .out] s s' := by
  cases h
  have hK : Only [.regs, .clk, .tim, .pwm, .gd, .flt, .out] s s := Only.refl _ _
  have hM := List.Subset.refl ([.regs, .clk, .tim, .pwm, .gd, .flt, .out] : List Comp)
  try dsimp only
  repeat' first
    | with_reducible assumption
    | with_reducible apply only_snapshot
    | with_reducible apply only_violation
    | with_reducible apply Only.byMaster
    | with_reducible apply Only.ite
    | exact List.Subset.trans (by decide) hM
    | (intro _ _ _)
    | (intro _ _)

theorem execSnapshotSign_only (m : Master) {s s' : State} (h : execSnapshotSign m s = .next s') :
    Only [.regs, .sys, .clk, .tim, .pwm, .gd, .flt, .sup, .mtr, .out] s s' := by
  cases h
  have hK : Only [.regs, .sys, .clk, .tim, .pwm, .gd, .flt, .sup, .mtr, .out] s s := Only.refl _ _
  have hM := List.Subset.refl ([.regs, .sys, .clk, .tim, .pwm, .gd, .flt, .sup, .mtr, .out] : List Comp)
  try dsimp only
  repeat' first
    | with_reducible assumption
    | with_reducible apply only_signWrite
    | with_reducible apply only_violation
    | with_reducible apply Only.byMaster
    | with_reducible apply Only.ite
    | exact List.Subset.trans (by decide) hM
    | (intro _ _ _)
    | (intro _ _)

theorem execAutoSnapshot_only {s s' : State} (h : execAutoSnapshot s = .next s') :
    Only [.regs, .sys, .clk, .tim, .pwm, .gd, .flt, .sup, .mtr, .out] s s' := by
  cases h
  have hK : Only [.regs, .sys, .clk, .tim, .pwm, .gd, .flt, .sup, .mtr, .out] s s := Only.refl _ _
  have hM := List.Subset.refl ([.regs, .sys, .clk, .tim, .pwm, .gd, .flt, .sup, .mtr, .out] : List Comp)
  try dsimp only
  repeat' first
    | with_reducible assumption
    | with_reducible apply only_autoSnapshot
    | with_reducible apply Only.live
    | exact List.Subset.trans (by decide) hM
    | (intro _ _ _)
    | (intro _ _)

theorem execMbxDataWrite_only (m : Master) (n i : Fin 16) (v : Word) {s s' : State} (h : execMbxDataWrite m n i v s = .next s') :
    Only [.regs, .sys, .clk, .tim, .pwm, .gd, .flt, .mbx, .out] s s' := by
  cases h
  have hK : Only [.regs, .sys, .clk, .tim, .pwm, .gd, .flt, .mbx, .out] s s := Only.refl _ _
  have hM := List.Subset.refl ([.regs, .sys, .clk, .tim, .pwm, .gd, .flt, .mbx, .out] : List Comp)
  try dsimp only
  repeat' first
    | with_reducible assumption
    | with_reducible apply only_wrote
    | with_reducible apply only_mbxData
    | with_reducible apply Only.byMaster
    | exact List.Subset.trans (by decide) hM
    | (intro _ _ _)
    | (intro _ _)

theorem execMbxGo_only (m : Master) (n : Fin 16) (len : BitVec 5) {s s' : State} (h : execMbxGo m n len s = .next s') :
    Only [.regs, .sys, .clk, .rng, .tim, .pwm, .gd, .flt, .sup, .mbx, .out] s s' := by
  cases h
  have hK : Only [.regs, .sys, .clk, .rng, .tim, .pwm, .gd, .flt, .sup, .mbx, .out] s s := Only.refl _ _
  have hM := List.Subset.refl ([.regs, .sys, .clk, .rng, .tim, .pwm, .gd, .flt, .sup, .mbx, .out] : List Comp)
  try dsimp only
  repeat' first
    | with_reducible assumption
    | with_reducible apply only_wrote
    | with_reducible apply only_mbxGo
    | with_reducible apply Only.byMaster
    | exact List.Subset.trans (by decide) hM
    | (intro _ _ _)
    | (intro _ _)

theorem execMbxTake_only (m : Master) (n : Fin 16) {s s' : State} (h : execMbxTake m n s = .next s') :
    Only [.regs, .sys, .rng, .mbx, .out] s s' := by
  cases h
  have hK : Only [.regs, .sys, .rng, .mbx, .out] s s := Only.refl _ _
  have hM := List.Subset.refl ([.regs, .sys, .rng, .mbx, .out] : List Comp)
  try dsimp only
  repeat' first
    | with_reducible assumption
    | with_reducible apply only_wrote
    | with_reducible apply only_mbxTake
    | with_reducible apply Only.byMaster
    | exact List.Subset.trans (by decide) hM
    | (intro _ _ _)
    | (intro _ _)

theorem execDeliverReceived_only (src : BitVec 8) (data : List Byte) {s s' : State} (h : execDeliverReceived src data s = .next s') :
    Only [.regs, .clk, .rng, .tim, .pwm, .gd, .flt, .sup, .mbx, .out] s s' := by
  cases h
  have hK : Only [.regs, .clk, .rng, .tim, .pwm, .gd, .flt, .sup, .mbx, .out] s s := Only.refl _ _
  have hM := List.Subset.refl ([.regs, .clk, .rng, .tim, .pwm, .gd, .flt, .sup, .mbx, .out] : List Comp)
  try dsimp only
  repeat' first
    | with_reducible assumption
    | with_reducible apply only_deliver
    | with_reducible apply Only.live
    | exact List.Subset.trans (by decide) hM
    | (intro _ _ _)
    | (intro _ _)

theorem execTakeNoticeReceived_only (src : BitVec 8) (data : List Byte) {s s' : State} (h : execTakeNoticeReceived src data s = .next s') :
    Only [.regs, .rng, .mbx, .out] s s' := by
  cases h
  have hK : Only [.regs, .rng, .mbx, .out] s s := Only.refl _ _
  have hM := List.Subset.refl ([.regs, .rng, .mbx, .out] : List Comp)
  try dsimp only
  repeat' first
    | with_reducible assumption
    | with_reducible apply only_mbxReturn
    | with_reducible apply Only.live
    | exact List.Subset.trans (by decide) hM
    | (intro _ _ _)
    | (intro _ _)

theorem execNackReceived_only (src : BitVec 8) (data : List Byte) {s s' : State} (h : execNackReceived src data s = .next s') :
    Only [.regs, .rng, .mbx, .out] s s' := by
  cases h
  have hK : Only [.regs, .rng, .mbx, .out] s s := Only.refl _ _
  have hM := List.Subset.refl ([.regs, .rng, .mbx, .out] : List Comp)
  try dsimp only
  repeat' first
    | with_reducible assumption
    | with_reducible apply only_mbxReturn
    | with_reducible apply Only.live
    | exact List.Subset.trans (by decide) hM
    | (intro _ _ _)
    | (intro _ _)

theorem execMbxTimeout_only (n : Fin 16) {s s' : State} (h : execMbxTimeout n s = .next s') :
    Only [.regs, .clk, .rng, .tim, .pwm, .gd, .flt, .mbx, .out] s s' := by
  cases h
  have hK : Only [.regs, .clk, .rng, .tim, .pwm, .gd, .flt, .mbx, .out] s s := Only.refl _ _
  have hM := List.Subset.refl ([.regs, .clk, .rng, .tim, .pwm, .gd, .flt, .mbx, .out] : List Comp)
  try dsimp only
  repeat' first
    | with_reducible assumption
    | with_reducible apply only_mbxTimeout
    | with_reducible apply Only.live
    | exact List.Subset.trans (by decide) hM
    | (intro _ _ _)
    | (intro _ _)

theorem execMbxCntClr_only {s s' : State} (h : execMbxCntClr s = .next s') :
    Only [.regs] s s' := by
  cases h
  have hK : Only [.regs] s s := Only.refl _ _
  have hM := List.Subset.refl ([.regs] : List Comp)
  try dsimp only
  repeat' first
    | with_reducible assumption
    | with_reducible apply only_mbxCntClr
    | with_reducible apply Only.live
    | exact List.Subset.trans (by decide) hM
    | (intro _ _ _)
    | (intro _ _)

theorem execReportTransmit_only (n : Fin 4) {s s' : State} (h : execReportTransmit n s = .next s') :
    Only [.regs, .sys, .clk, .tim, .pwm, .gd, .flt, .sup, .out] s s' := by
  cases h
  have hK : Only [.regs, .sys, .clk, .tim, .pwm, .gd, .flt, .sup, .out] s s := Only.refl _ _
  have hM := List.Subset.refl ([.regs, .sys, .clk, .tim, .pwm, .gd, .flt, .sup, .out] : List Comp)
  try dsimp only
  repeat' first
    | with_reducible assumption
    | with_reducible apply only_transmit
    | with_reducible apply Only.live
    | exact List.Subset.trans (by decide) hM
    | (intro _ _ _)
    | (intro _ _)

theorem execReportRepeat_only (n : Fin 4) (rseq : Word) {s s' : State} (h : execReportRepeat n rseq s = .next s') :
    Only [.regs, .sys, .clk, .tim, .pwm, .gd, .flt, .sup, .out] s s' := by
  cases h
  have hK : Only [.regs, .sys, .clk, .tim, .pwm, .gd, .flt, .sup, .out] s s := Only.refl _ _
  have hM := List.Subset.refl ([.regs, .sys, .clk, .tim, .pwm, .gd, .flt, .sup, .out] : List Comp)
  try dsimp only
  repeat' first
    | with_reducible assumption
    | with_reducible apply only_repeatReport
    | with_reducible apply Only.live
    | exact List.Subset.trans (by decide) hM
    | (intro _ _ _)
    | (intro _ _)

theorem execCoeffRamWrite_only (m : Master) (slot : Fin 768) (word : Fin 64) (v : Word) (ecc : Ecc) {s s' : State} (h : execCoeffRamWrite m slot word v ecc s = .next s') :
    Only [.regs, .mem, .sys, .clk, .flash, .fuse, .img, .lnk, .rng, .tim, .pwm, .gd, .dpx, .flt, .eng, .adc, .memx, .thm, .bal, .saf, .sup, .mbx, .mtr, .raises, .out, .free] s s' := by
  cases h
  have hK : Only [.regs, .mem, .sys, .clk, .flash, .fuse, .img, .lnk, .rng, .tim, .pwm, .gd, .dpx, .flt, .eng, .adc, .memx, .thm, .bal, .saf, .sup, .mbx, .mtr, .raises, .out, .free] s s := Only.refl _ _
  have hM := List.Subset.refl ([.regs, .mem, .sys, .clk, .flash, .fuse, .img, .lnk, .rng, .tim, .pwm, .gd, .dpx, .flt, .eng, .adc, .memx, .thm, .bal, .saf, .sup, .mbx, .mtr, .raises, .out, .free] : List Comp)
  try dsimp only
  repeat' first
    | with_reducible assumption
    | with_reducible apply only_writeAccess
    | with_reducible apply only_answer
    | with_reducible apply Only.byMaster
    | exact List.Subset.trans (by decide) hM
    | (intro _ _ _)
    | (intro _ _)

theorem execSramAccess_only (m : Master) (write : Bool) (addr : Word) (size : Fin 9) (v : BitVec 64) (ecc : Ecc) {s s' : State} (h : execSramAccess m write addr size v ecc s = .next s') :
    Only [.regs, .mem, .sys, .clk, .flash, .fuse, .img, .lnk, .rng, .tim, .pwm, .gd, .dpx, .flt, .eng, .adc, .memx, .thm, .bal, .saf, .sup, .mbx, .mtr, .raises, .out, .free] s s' := by
  cases h
  have hK : Only [.regs, .mem, .sys, .clk, .flash, .fuse, .img, .lnk, .rng, .tim, .pwm, .gd, .dpx, .flt, .eng, .adc, .memx, .thm, .bal, .saf, .sup, .mbx, .mtr, .raises, .out, .free] s s := Only.refl _ _
  have hM := List.Subset.refl ([.regs, .mem, .sys, .clk, .flash, .fuse, .img, .lnk, .rng, .tim, .pwm, .gd, .dpx, .flt, .eng, .adc, .memx, .thm, .bal, .saf, .sup, .mbx, .mtr, .raises, .out, .free] : List Comp)
  try dsimp only
  repeat' first
    | with_reducible assumption
    | with_reducible apply only_writeAccess
    | with_reducible apply only_answer
    | with_reducible apply only_busRead
    | with_reducible apply Only.when
    | with_reducible apply Only.byMaster
    | with_reducible apply Only.iteFst
    | with_reducible apply Only.ite
    | exact List.Subset.trans (by decide) hM
    | (intro _ _ _)
    | (intro _ _)

theorem execRegisterRead_only (m : Master) (addr : Word) (size : Fin 9) (ecc : Ecc) {s s' : State} (h : execRegisterRead m addr size ecc s = .next s') :
    Only [.regs, .sys, .clk, .tim, .pwm, .gd, .dpx, .flt, .adc, .memx, .out, .free] s s' := by
  cases h
  have hK : Only [.regs, .sys, .clk, .tim, .pwm, .gd, .dpx, .flt, .adc, .memx, .out, .free] s s := Only.refl _ _
  have hM := List.Subset.refl ([.regs, .sys, .clk, .tim, .pwm, .gd, .dpx, .flt, .adc, .memx, .out, .free] : List Comp)
  try dsimp only
  repeat' first
    | with_reducible assumption
    | with_reducible apply only_busRead
    | with_reducible apply Only.when
    | with_reducible apply Only.byMaster
    | exact List.Subset.trans (by decide) hM
    | (intro _ _ _)
    | (intro _ _)

theorem execSysVsecLoRead_only (m : Master) {s s' : State} (h : execSysVsecLoRead m s = .next s') :
    Only [.regs, .sys, .clk, .tim, .pwm, .gd, .dpx, .flt, .adc, .memx, .out, .free] s s' := by
  cases h
  have hK : Only [.regs, .sys, .clk, .tim, .pwm, .gd, .dpx, .flt, .adc, .memx, .out, .free] s s := Only.refl _ _
  have hM := List.Subset.refl ([.regs, .sys, .clk, .tim, .pwm, .gd, .dpx, .flt, .adc, .memx, .out, .free] : List Comp)
  try dsimp only
  repeat' first
    | with_reducible assumption
    | with_reducible apply only_busRead
    | with_reducible apply Only.byMaster
    | exact List.Subset.trans (by decide) hM
    | (intro _ _ _)
    | (intro _ _)

theorem execStimeNsRead_only (m : Master) {s s' : State} (h : execStimeNsRead m s = .next s') :
    Only [.regs, .sys, .clk, .tim, .pwm, .gd, .dpx, .flt, .adc, .memx, .out, .free] s s' := by
  cases h
  have hK : Only [.regs, .sys, .clk, .tim, .pwm, .gd, .dpx, .flt, .adc, .memx, .out, .free] s s := Only.refl _ _
  have hM := List.Subset.refl ([.regs, .sys, .clk, .tim, .pwm, .gd, .dpx, .flt, .adc, .memx, .out, .free] : List Comp)
  try dsimp only
  repeat' first
    | with_reducible assumption
    | with_reducible apply only_busRead
    | with_reducible apply Only.byMaster
    | exact List.Subset.trans (by decide) hM
    | (intro _ _ _)
    | (intro _ _)

theorem execTpiFracRead_only (m : Master) {s s' : State} (h : execTpiFracRead m s = .next s') :
    Only [.regs, .sys, .clk, .tim, .pwm, .gd, .dpx, .flt, .adc, .memx, .out, .free] s s' := by
  cases h
  have hK : Only [.regs, .sys, .clk, .tim, .pwm, .gd, .dpx, .flt, .adc, .memx, .out, .free] s s := Only.refl _ _
  have hM := List.Subset.refl ([.regs, .sys, .clk, .tim, .pwm, .gd, .dpx, .flt, .adc, .memx, .out, .free] : List Comp)
  try dsimp only
  repeat' first
    | with_reducible assumption
    | with_reducible apply only_busRead
    | with_reducible apply Only.byMaster
    | exact List.Subset.trans (by decide) hM
    | (intro _ _ _)
    | (intro _ _)

theorem execResRawRead_only (m : Master) (slot : Fin 16) {s s' : State} (h : execResRawRead m slot s = .next s') :
    Only [.regs, .sys, .clk, .tim, .pwm, .gd, .dpx, .flt, .adc, .memx, .out, .free] s s' := by
  cases h
  have hK : Only [.regs, .sys, .clk, .tim, .pwm, .gd, .dpx, .flt, .adc, .memx, .out, .free] s s := Only.refl _ _
  have hM := List.Subset.refl ([.regs, .sys, .clk, .tim, .pwm, .gd, .dpx, .flt, .adc, .memx, .out, .free] : List Comp)
  try dsimp only
  repeat' first
    | with_reducible assumption
    | with_reducible apply only_busRead
    | with_reducible apply Only.byMaster
    | exact List.Subset.trans (by decide) hM
    | (intro _ _ _)
    | (intro _ _)

theorem execAccLoRead_only (m : Master) (k : Fin 64) (upset : BitVec 64) {s s' : State} (h : execAccLoRead m k upset s = .next s') :
    Only [.regs, .sys, .clk, .tim, .pwm, .gd, .dpx, .flt, .adc, .memx, .mtr, .out, .free] s s' := by
  cases h
  have hK : Only [.regs, .sys, .clk, .tim, .pwm, .gd, .dpx, .flt, .adc, .memx, .mtr, .out, .free] s s := Only.refl _ _
  have hM := List.Subset.refl ([.regs, .sys, .clk, .tim, .pwm, .gd, .dpx, .flt, .adc, .memx, .mtr, .out, .free] : List Comp)
  try dsimp only
  repeat' first
    | with_reducible assumption
    | with_reducible apply only_accUpset
    | with_reducible apply only_busRead
    | with_reducible apply Only.byMaster
    | exact List.Subset.trans (by decide) hM
    | (intro _ _ _)
    | (intro _ _)

theorem execHealth0Read_only (m : Master) {s s' : State} (h : execHealth0Read m s = .next s') :
    Only [.regs, .sys, .clk, .tim, .pwm, .gd, .dpx, .flt, .adc, .memx, .out, .free] s s' := by
  cases h
  have hK : Only [.regs, .sys, .clk, .tim, .pwm, .gd, .dpx, .flt, .adc, .memx, .out, .free] s s := Only.refl _ _
  have hM := List.Subset.refl ([.regs, .sys, .clk, .tim, .pwm, .gd, .dpx, .flt, .adc, .memx, .out, .free] : List Comp)
  try dsimp only
  repeat' first
    | with_reducible assumption
    | with_reducible apply only_busRead
    | with_reducible apply Only.byMaster
    | exact List.Subset.trans (by decide) hM
    | (intro _ _ _)
    | (intro _ _)

theorem execRecordRead_only (m : Master) (r : Fin 64) {s s' : State} (h : execRecordRead m r s = .next s') :
    Only [.regs, .sys, .clk, .tim, .pwm, .gd, .dpx, .flt, .adc, .memx, .out, .free] s s' := by
  cases h
  have hK : Only [.regs, .sys, .clk, .tim, .pwm, .gd, .dpx, .flt, .adc, .memx, .out, .free] s s := Only.refl _ _
  have hM := List.Subset.refl ([.regs, .sys, .clk, .tim, .pwm, .gd, .dpx, .flt, .adc, .memx, .out, .free] : List Comp)
  try dsimp only
  repeat' first
    | with_reducible assumption
    | with_reducible apply only_busRead
    | with_reducible apply Only.byMaster
    | exact List.Subset.trans (by decide) hM
    | (intro _ _ _)
    | (intro _ _)

theorem execLedgerRead_only (m : Master) (e : Fin 64) {s s' : State} (h : execLedgerRead m e s = .next s') :
    Only [.regs, .sys, .clk, .tim, .pwm, .gd, .dpx, .flt, .adc, .memx, .out, .free] s s' := by
  cases h
  have hK : Only [.regs, .sys, .clk, .tim, .pwm, .gd, .dpx, .flt, .adc, .memx, .out, .free] s s := Only.refl _ _
  have hM := List.Subset.refl ([.regs, .sys, .clk, .tim, .pwm, .gd, .dpx, .flt, .adc, .memx, .out, .free] : List Comp)
  try dsimp only
  repeat' first
    | with_reducible assumption
    | with_reducible apply only_busRead
    | with_reducible apply Only.byMaster
    | exact List.Subset.trans (by decide) hM
    | (intro _ _ _)
    | (intro _ _)

theorem execLinkDown_only {s s' : State} (h : execLinkDown s = .next s') :
    Only [.regs, .clk, .tim, .pwm, .gd, .flt, .sup, .out] s s' := by
  cases h
  have hK : Only [.regs, .clk, .tim, .pwm, .gd, .flt, .sup, .out] s s := Only.refl _ _
  have hM := List.Subset.refl ([.regs, .clk, .tim, .pwm, .gd, .flt, .sup, .out] : List Comp)
  try dsimp only
  repeat' first
    | with_reducible assumption
    | with_reducible apply only_linkDown
    | with_reducible apply Only.live
    | exact List.Subset.trans (by decide) hM
    | (intro _ _ _)
    | (intro _ _)

theorem execLinkUp_only {s s' : State} (h : execLinkUp s = .next s') :
    Only [.regs, .pwm, .gd, .flt, .sup] s s' := by
  cases h
  have hK : Only [.regs, .pwm, .gd, .flt, .sup] s s := Only.refl _ _
  have hM := List.Subset.refl ([.regs, .pwm, .gd, .flt, .sup] : List Comp)
  try dsimp only
  repeat' first
    | with_reducible assumption
    | with_reducible apply only_linkUp
    | with_reducible apply Only.live
    | exact List.Subset.trans (by decide) hM
    | (intro _ _ _)
    | (intro _ _)

theorem execDatagramDropped_only {s s' : State} (h : execDatagramDropped s = .next s') :
    Only [.regs, .clk, .tim, .pwm, .gd, .flt, .sup, .out] s s' := by
  cases h
  have hK : Only [.regs, .clk, .tim, .pwm, .gd, .flt, .sup, .out] s s := Only.refl _ _
  have hM := List.Subset.refl ([.regs, .clk, .tim, .pwm, .gd, .flt, .sup, .out] : List Comp)
  try dsimp only
  repeat' first
    | with_reducible assumption
    | with_reducible apply only_dropDatagram
    | with_reducible apply Only.when
    | with_reducible apply Only.live
    | exact List.Subset.trans (by decide) hM
    | (intro _ _ _)
    | (intro _ _)

theorem execArpOrNeighbourSolicitation_only (v6 : Bool) (target : BitVec 128) {s s' : State} (h : execArpOrNeighbourSolicitation v6 target s = .next s') :
    Only [.out] s s' := by
  cases h
  have hK : Only [.out] s s := Only.refl _ _
  have hM := List.Subset.refl ([.out] : List Comp)
  try dsimp only
  repeat' first
    | with_reducible assumption
    | with_reducible apply Only.emit
    | with_reducible apply Only.when
    | with_reducible apply Only.live
    | exact List.Subset.trans (by decide) hM
    | (intro _ _ _)
    | (intro _ _)

theorem execIcmpEcho_only (v6 : Bool) (target : BitVec 128) {s s' : State} (h : execIcmpEcho v6 target s = .next s') :
    Only [.sup, .out] s s' := by
  cases h
  have hK : Only [.sup, .out] s s := Only.refl _ _
  have hM := List.Subset.refl ([.sup, .out] : List Comp)
  try dsimp only
  repeat' first
    | with_reducible assumption
    | with_reducible apply Only.emit
    | with_reducible apply Only.when
    | with_reducible apply Only.live
    | exact List.Subset.trans (by decide) hM
    | (intro _ _ _)
    | (intro _ _)
    | with_reducible refine Only.set_sup (Comp.of hM (by decide)) ?_

theorem execSessPhase1_only (d : Datagram) {s s' : State} (h : execSessPhase1 d s = .next s') :
    Only [.regs, .clk, .tim, .pwm, .gd, .flt, .sup, .out, .free] s s' := by
  cases h
  have hK : Only [.regs, .clk, .tim, .pwm, .gd, .flt, .sup, .out, .free] s s := Only.refl _ _
  have hM := List.Subset.refl ([.regs, .clk, .tim, .pwm, .gd, .flt, .sup, .out, .free] : List Comp)
  try dsimp only
  repeat' first
    | with_reducible assumption
    | with_reducible apply only_phase1
    | with_reducible apply Only.live
    | exact List.Subset.trans (by decide) hM
    | (intro _ _ _)
    | (intro _ _)

theorem execSessPhase3_only (d : Datagram) {s s' : State} (h : execSessPhase3 d s = .next s') :
    Only [.regs, .clk, .tim, .pwm, .gd, .flt, .sup, .out] s s' := by
  cases h
  have hK : Only [.regs, .clk, .tim, .pwm, .gd, .flt, .sup, .out] s s := Only.refl _ _
  have hM := List.Subset.refl ([.regs, .clk, .tim, .pwm, .gd, .flt, .sup, .out] : List Comp)
  try dsimp only
  repeat' first
    | with_reducible assumption
    | with_reducible apply only_phase3
    | with_reducible apply Only.live
    | exact List.Subset.trans (by decide) hM
    | (intro _ _ _)
    | (intro _ _)

theorem execSessClose_only (d : Datagram) {s s' : State} (h : execSessClose d s = .next s') :
    Only [.regs, .clk, .tim, .pwm, .gd, .flt, .sup, .out] s s' := by
  cases h
  have hK : Only [.regs, .clk, .tim, .pwm, .gd, .flt, .sup, .out] s s := Only.refl _ _
  have hM := List.Subset.refl ([.regs, .clk, .tim, .pwm, .gd, .flt, .sup, .out] : List Comp)
  try dsimp only
  repeat' first
    | with_reducible assumption
    | with_reducible apply only_phase5
    | with_reducible apply Only.live
    | exact List.Subset.trans (by decide) hM
    | (intro _ _ _)
    | (intro _ _)

theorem execHalfOpenTimeout_only (n : Fin 4) {s s' : State} (h : execHalfOpenTimeout n s = .next s') :
    Only [.regs, .sys, .clk, .tim, .pwm, .gd, .flt, .sup, .out] s s' := by
  cases h
  have hK : Only [.regs, .sys, .clk, .tim, .pwm, .gd, .flt, .sup, .out] s s := Only.refl _ _
  have hM := List.Subset.refl ([.regs, .sys, .clk, .tim, .pwm, .gd, .flt, .sup, .out] : List Comp)
  try dsimp only
  repeat' first
    | with_reducible assumption
    | with_reducible apply only_runUp
    | with_reducible apply only_sessFree
    | with_reducible apply Only.when
    | with_reducible apply Only.live
    | exact List.Subset.trans (by decide) hM
    | (intro _ _ _)
    | (intro _ _)

theorem execIdleTimeout_only (n : Fin 4) {s s' : State} (h : execIdleTimeout n s = .next s') :
    Only [.regs, .sys, .clk, .tim, .pwm, .gd, .flt, .sup, .out, .free] s s' := by
  cases h
  have hK : Only [.regs, .sys, .clk, .tim, .pwm, .gd, .flt, .sup, .out, .free] s s := Only.refl _ _
  have hM := List.Subset.refl ([.regs, .sys, .clk, .tim, .pwm, .gd, .flt, .sup, .out, .free] : List Comp)
  try dsimp only
  repeat' first
    | with_reducible assumption
    | with_reducible apply only_runUp
    | with_reducible apply only_sessClose
    | with_reducible apply Only.when
    | with_reducible apply Only.live
    | exact List.Subset.trans (by decide) hM
    | (intro _ _ _)
    | (intro _ _)

theorem execReadRequest_only (d : Datagram) {s s' : State} (h : execReadRequest d s = .next s') :
    Only [.regs, .mem, .sys, .clk, .flash, .fuse, .img, .lnk, .rng, .tim, .pwm, .gd, .dpx, .flt, .eng, .adc, .memx, .thm, .bal, .saf, .sup, .mbx, .mtr, .raises, .out, .free] s s' := by
  cases h
  have hK : Only [.regs, .mem, .sys, .clk, .flash, .fuse, .img, .lnk, .rng, .tim, .pwm, .gd, .dpx, .flt, .eng, .adc, .memx, .thm, .bal, .saf, .sup, .mbx, .mtr, .raises, .out, .free] s s := Only.refl _ _
  have hM := List.Subset.refl ([.regs, .mem, .sys, .clk, .flash, .fuse, .img, .lnk, .rng, .tim, .pwm, .gd, .dpx, .flt, .eng, .adc, .memx, .thm, .bal, .saf, .sup, .mbx, .mtr, .raises, .out, .free] : List Comp)
  try dsimp only
  repeat' first
    | with_reducible assumption
    | with_reducible apply only_requestOf
    | with_reducible apply Only.live
    | exact List.Subset.trans (by decide) hM
    | (intro _ _ _)
    | (intro _ _)

theorem execWriteRequest_only (d : Datagram) {s s' : State} (h : execWriteRequest d s = .next s') :
    Only [.regs, .mem, .sys, .clk, .flash, .fuse, .img, .lnk, .rng, .tim, .pwm, .gd, .dpx, .flt, .eng, .adc, .memx, .thm, .bal, .saf, .sup, .mbx, .mtr, .raises, .out, .free] s s' := by
  cases h
  have hK : Only [.regs, .mem, .sys, .clk, .flash, .fuse, .img, .lnk, .rng, .tim, .pwm, .gd, .dpx, .flt, .eng, .adc, .memx, .thm, .bal, .saf, .sup, .mbx, .mtr, .raises, .out, .free] s s := Only.refl _ _
  have hM := List.Subset.refl ([.regs, .mem, .sys, .clk, .flash, .fuse, .img, .lnk, .rng, .tim, .pwm, .gd, .dpx, .flt, .eng, .adc, .memx, .thm, .bal, .saf, .sup, .mbx, .mtr, .raises, .out, .free] : List Comp)
  try dsimp only
  repeat' first
    | with_reducible assumption
    | with_reducible apply only_requestOf
    | with_reducible apply Only.live
    | exact List.Subset.trans (by decide) hM
    | (intro _ _ _)
    | (intro _ _)

theorem execRequestDequeue_only {s s' : State} (h : execRequestDequeue s = .next s') :
    Only [.regs, .mem, .sys, .clk, .flash, .fuse, .img, .lnk, .rng, .tim, .pwm, .gd, .dpx, .flt, .eng, .adc, .memx, .thm, .bal, .saf, .sup, .mbx, .mtr, .raises, .out, .free] s s' := by
  cases h
  have hK : Only [.regs, .mem, .sys, .clk, .flash, .fuse, .img, .lnk, .rng, .tim, .pwm, .gd, .dpx, .flt, .eng, .adc, .memx, .thm, .bal, .saf, .sup, .mbx, .mtr, .raises, .out, .free] s s := Only.refl _ _
  have hM := List.Subset.refl ([.regs, .mem, .sys, .clk, .flash, .fuse, .img, .lnk, .rng, .tim, .pwm, .gd, .dpx, .flt, .eng, .adc, .memx, .thm, .bal, .saf, .sup, .mbx, .mtr, .raises, .out, .free] : List Comp)
  try dsimp only
  repeat' first
    | with_reducible assumption
    | with_reducible apply only_dequeue
    | with_reducible apply Only.live
    | exact List.Subset.trans (by decide) hM
    | (intro _ _ _)
    | (intro _ _)

theorem execBatchStageCommon_only (d : Datagram) {s s' : State} (h : execBatchStageCommon d s = .next s') :
    Only [.regs, .mem, .sys, .clk, .flash, .fuse, .img, .lnk, .rng, .tim, .pwm, .gd, .dpx, .flt, .eng, .adc, .memx, .thm, .bal, .saf, .sup, .mbx, .mtr, .raises, .out, .free] s s' := by
  cases h
  have hK : Only [.regs, .mem, .sys, .clk, .flash, .fuse, .img, .lnk, .rng, .tim, .pwm, .gd, .dpx, .flt, .eng, .adc, .memx, .thm, .bal, .saf, .sup, .mbx, .mtr, .raises, .out, .free] s s := Only.refl _ _
  have hM := List.Subset.refl ([.regs, .mem, .sys, .clk, .flash, .fuse, .img, .lnk, .rng, .tim, .pwm, .gd, .dpx, .flt, .eng, .adc, .memx, .thm, .bal, .saf, .sup, .mbx, .mtr, .raises, .out, .free] : List Comp)
  try dsimp only
  repeat' first
    | with_reducible assumption
    | with_reducible apply only_requestOf
    | with_reducible apply Only.live
    | exact List.Subset.trans (by decide) hM
    | (intro _ _ _)
    | (intro _ _)

theorem execBatchStageEach_only (d : Datagram) {s s' : State} (h : execBatchStageEach d s = .next s') :
    Only [.regs, .mem, .sys, .clk, .flash, .fuse, .img, .lnk, .rng, .tim, .pwm, .gd, .dpx, .flt, .eng, .adc, .memx, .thm, .bal, .saf, .sup, .mbx, .mtr, .raises, .out, .free] s s' := by
  cases h
  have hK : Only [.regs, .mem, .sys, .clk, .flash, .fuse, .img, .lnk, .rng, .tim, .pwm, .gd, .dpx, .flt, .eng, .adc, .memx, .thm, .bal, .saf, .sup, .mbx, .mtr, .raises, .out, .free] s s := Only.refl _ _
  have hM := List.Subset.refl ([.regs, .mem, .sys, .clk, .flash, .fuse, .img, .lnk, .rng, .tim, .pwm, .gd, .dpx, .flt, .eng, .adc, .memx, .thm, .bal, .saf, .sup, .mbx, .mtr, .raises, .out, .free] : List Comp)
  try dsimp only
  repeat' first
    | with_reducible assumption
    | with_reducible apply only_requestOf
    | with_reducible apply Only.live
    | exact List.Subset.trans (by decide) hM
    | (intro _ _ _)
    | (intro _ _)

theorem execBatchCancelRequest_only (d : Datagram) {s s' : State} (h : execBatchCancelRequest d s = .next s') :
    Only [.regs, .mem, .sys, .clk, .flash, .fuse, .img, .lnk, .rng, .tim, .pwm, .gd, .dpx, .flt, .eng, .adc, .memx, .thm, .bal, .saf, .sup, .mbx, .mtr, .raises, .out, .free] s s' := by
  cases h
  have hK : Only [.regs, .mem, .sys, .clk, .flash, .fuse, .img, .lnk, .rng, .tim, .pwm, .gd, .dpx, .flt, .eng, .adc, .memx, .thm, .bal, .saf, .sup, .mbx, .mtr, .raises, .out, .free] s s := Only.refl _ _
  have hM := List.Subset.refl ([.regs, .mem, .sys, .clk, .flash, .fuse, .img, .lnk, .rng, .tim, .pwm, .gd, .dpx, .flt, .eng, .adc, .memx, .thm, .bal, .saf, .sup, .mbx, .mtr, .raises, .out, .free] : List Comp)
  try dsimp only
  repeat' first
    | with_reducible assumption
    | with_reducible apply only_requestOf
    | with_reducible apply Only.live
    | exact List.Subset.trans (by decide) hM
    | (intro _ _ _)
    | (intro _ _)

theorem execBatchResponseTimeout_only {s s' : State} (h : execBatchResponseTimeout s = .next s') :
    Only [.regs, .sup, .out] s s' := by
  cases h
  have hK : Only [.regs, .sup, .out] s s := Only.refl _ _
  have hM := List.Subset.refl ([.regs, .sup, .out] : List Comp)
  try dsimp only
  repeat' first
    | with_reducible assumption
    | with_reducible apply only_batchAnswer
    | with_reducible apply Only.when
    | with_reducible apply Only.live
    | exact List.Subset.trans (by decide) hM
    | (intro _ _ _)
    | (intro _ _)
    | split

theorem execReportAck_only (d : Datagram) {s s' : State} (h : execReportAck d s = .next s') :
    Only [.regs, .clk, .tim, .pwm, .gd, .flt, .sup, .out] s s' := by
  cases h
  have hK : Only [.regs, .clk, .tim, .pwm, .gd, .flt, .sup, .out] s s := Only.refl _ _
  have hM := List.Subset.refl ([.regs, .clk, .tim, .pwm, .gd, .flt, .sup, .out] : List Comp)
  try dsimp only
  repeat' first
    | with_reducible assumption
    | with_reducible apply only_reportAck
    | with_reducible apply Only.live
    | exact List.Subset.trans (by decide) hM
    | (intro _ _ _)
    | (intro _ _)

theorem execTimeNow_only (d : Datagram) {s s' : State} (h : execTimeNow d s = .next s') :
    Only [.regs, .mem, .sys, .clk, .flash, .fuse, .img, .lnk, .rng, .tim, .pwm, .gd, .dpx, .flt, .eng, .adc, .memx, .thm, .bal, .saf, .sup, .mbx, .mtr, .raises, .out, .free] s s' := by
  cases h
  have hK : Only [.regs, .mem, .sys, .clk, .flash, .fuse, .img, .lnk, .rng, .tim, .pwm, .gd, .dpx, .flt, .eng, .adc, .memx, .thm, .bal, .saf, .sup, .mbx, .mtr, .raises, .out, .free] s s := Only.refl _ _
  have hM := List.Subset.refl ([.regs, .mem, .sys, .clk, .flash, .fuse, .img, .lnk, .rng, .tim, .pwm, .gd, .dpx, .flt, .eng, .adc, .memx, .thm, .bal, .saf, .sup, .mbx, .mtr, .raises, .out, .free] : List Comp)
  try dsimp only
  repeat' first
    | with_reducible assumption
    | with_reducible apply only_requestOf
    | with_reducible apply Only.live
    | exact List.Subset.trans (by decide) hM
    | (intro _ _ _)
    | (intro _ _)

theorem execTimeTx_only (d : Datagram) {s s' : State} (h : execTimeTx d s = .next s') :
    Only [.regs, .mem, .sys, .clk, .flash, .fuse, .img, .lnk, .rng, .tim, .pwm, .gd, .dpx, .flt, .eng, .adc, .memx, .thm, .bal, .saf, .sup, .mbx, .mtr, .raises, .out, .free] s s' := by
  cases h
  have hK : Only [.regs, .mem, .sys, .clk, .flash, .fuse, .img, .lnk, .rng, .tim, .pwm, .gd, .dpx, .flt, .eng, .adc, .memx, .thm, .bal, .saf, .sup, .mbx, .mtr, .raises, .out, .free] s s := Only.refl _ _
  have hM := List.Subset.refl ([.regs, .mem, .sys, .clk, .flash, .fuse, .img, .lnk, .rng, .tim, .pwm, .gd, .dpx, .flt, .eng, .adc, .memx, .thm, .bal, .saf, .sup, .mbx, .mtr, .raises, .out, .free] : List Comp)
  try dsimp only
  repeat' first
    | with_reducible assumption
    | with_reducible apply only_requestOf
    | with_reducible apply Only.live
    | exact List.Subset.trans (by decide) hM
    | (intro _ _ _)
    | (intro _ _)

theorem execPtpFrameReceived_only (frame : List Byte) {s s' : State} (h : execPtpFrameReceived frame s = .next s') :
    Only [.regs, .clk, .tim, .pwm, .gd, .flt, .sup, .out] s s' := by
  cases h
  have hK : Only [.regs, .clk, .tim, .pwm, .gd, .flt, .sup, .out] s s := Only.refl _ _
  have hM := List.Subset.refl ([.regs, .clk, .tim, .pwm, .gd, .flt, .sup, .out] : List Comp)
  try dsimp only
  repeat' first
    | with_reducible assumption
    | with_reducible apply only_ptpReceived
    | with_reducible apply Only.live
    | exact List.Subset.trans (by decide) hM
    | (intro _ _ _)
    | (intro _ _)

theorem execMbxSend_only (d : Datagram) {s s' : State} (h : execMbxSend d s = .next s') :
    Only [.regs, .mem, .sys, .clk, .flash, .fuse, .img, .lnk, .rng, .tim, .pwm, .gd, .dpx, .flt, .eng, .adc, .memx, .thm, .bal, .saf, .sup, .mbx, .mtr, .raises, .out, .free] s s' := by
  cases h
  have hK : Only [.regs, .mem, .sys, .clk, .flash, .fuse, .img, .lnk, .rng, .tim, .pwm, .gd, .dpx, .flt, .eng, .adc, .memx, .thm, .bal, .saf, .sup, .mbx, .mtr, .raises, .out, .free] s s := Only.refl _ _
  have hM := List.Subset.refl ([.regs, .mem, .sys, .clk, .flash, .fuse, .img, .lnk, .rng, .tim, .pwm, .gd, .dpx, .flt, .eng, .adc, .memx, .thm, .bal, .saf, .sup, .mbx, .mtr, .raises, .out, .free] : List Comp)
  try dsimp only
  repeat' first
    | with_reducible assumption
    | with_reducible apply only_requestOf
    | with_reducible apply Only.live
    | exact List.Subset.trans (by decide) hM
    | (intro _ _ _)
    | (intro _ _)

theorem execMbxRecv_only (d : Datagram) {s s' : State} (h : execMbxRecv d s = .next s') :
    Only [.regs, .mem, .sys, .clk, .flash, .fuse, .img, .lnk, .rng, .tim, .pwm, .gd, .dpx, .flt, .eng, .adc, .memx, .thm, .bal, .saf, .sup, .mbx, .mtr, .raises, .out, .free] s s' := by
  cases h
  have hK : Only [.regs, .mem, .sys, .clk, .flash, .fuse, .img, .lnk, .rng, .tim, .pwm, .gd, .dpx, .flt, .eng, .adc, .memx, .thm, .bal, .saf, .sup, .mbx, .mtr, .raises, .out, .free] s s := Only.refl _ _
  have hM := List.Subset.refl ([.regs, .mem, .sys, .clk, .flash, .fuse, .img, .lnk, .rng, .tim, .pwm, .gd, .dpx, .flt, .eng, .adc, .memx, .thm, .bal, .saf, .sup, .mbx, .mtr, .raises, .out, .free] : List Comp)
  try dsimp only
  repeat' first
    | with_reducible assumption
    | with_reducible apply only_requestOf
    | with_reducible apply Only.live
    | exact List.Subset.trans (by decide) hM
    | (intro _ _ _)
    | (intro _ _)

theorem execMbxRecvExpiry_only (n : Fin 4) (expired : Bool) {s s' : State} (h : execMbxRecvExpiry n expired s = .next s') :
    Only [.regs, .mem, .sys, .clk, .flash, .fuse, .img, .lnk, .rng, .tim, .pwm, .gd, .dpx, .flt, .eng, .adc, .memx, .thm, .bal, .saf, .sup, .mbx, .mtr, .raises, .out, .free] s s' := by
  cases h
  have hK : Only [.regs, .mem, .sys, .clk, .flash, .fuse, .img, .lnk, .rng, .tim, .pwm, .gd, .dpx, .flt, .eng, .adc, .memx, .thm, .bal, .saf, .sup, .mbx, .mtr, .raises, .out, .free] s s := Only.refl _ _
  have hM := List.Subset.refl ([.regs, .mem, .sys, .clk, .flash, .fuse, .img, .lnk, .rng, .tim, .pwm, .gd, .dpx, .flt, .eng, .adc, .memx, .thm, .bal, .saf, .sup, .mbx, .mtr, .raises, .out, .free] : List Comp)
  try dsimp only
  repeat' first
    | with_reducible assumption
    | with_reducible apply only_recvExpiry
    | with_reducible apply Only.live
    | exact List.Subset.trans (by decide) hM
    | (intro _ _ _)
    | (intro _ _)

theorem execMbxStat_only (d : Datagram) {s s' : State} (h : execMbxStat d s = .next s') :
    Only [.regs, .mem, .sys, .clk, .flash, .fuse, .img, .lnk, .rng, .tim, .pwm, .gd, .dpx, .flt, .eng, .adc, .memx, .thm, .bal, .saf, .sup, .mbx, .mtr, .raises, .out, .free] s s' := by
  cases h
  have hK : Only [.regs, .mem, .sys, .clk, .flash, .fuse, .img, .lnk, .rng, .tim, .pwm, .gd, .dpx, .flt, .eng, .adc, .memx, .thm, .bal, .saf, .sup, .mbx, .mtr, .raises, .out, .free] s s := Only.refl _ _
  have hM := List.Subset.refl ([.regs, .mem, .sys, .clk, .flash, .fuse, .img, .lnk, .rng, .tim, .pwm, .gd, .dpx, .flt, .eng, .adc, .memx, .thm, .bal, .saf, .sup, .mbx, .mtr, .raises, .out, .free] : List Comp)
  try dsimp only
  repeat' first
    | with_reducible assumption
    | with_reducible apply only_requestOf
    | with_reducible apply Only.live
    | exact List.Subset.trans (by decide) hM
    | (intro _ _ _)
    | (intro _ _)

theorem execAttestIdentity_only (d : Datagram) {s s' : State} (h : execAttestIdentity d s = .next s') :
    Only [.regs, .mem, .sys, .clk, .flash, .fuse, .img, .lnk, .rng, .tim, .pwm, .gd, .dpx, .flt, .eng, .adc, .memx, .thm, .bal, .saf, .sup, .mbx, .mtr, .raises, .out, .free] s s' := by
  cases h
  have hK : Only [.regs, .mem, .sys, .clk, .flash, .fuse, .img, .lnk, .rng, .tim, .pwm, .gd, .dpx, .flt, .eng, .adc, .memx, .thm, .bal, .saf, .sup, .mbx, .mtr, .raises, .out, .free] s s := Only.refl _ _
  have hM := List.Subset.refl ([.regs, .mem, .sys, .clk, .flash, .fuse, .img, .lnk, .rng, .tim, .pwm, .gd, .dpx, .flt, .eng, .adc, .memx, .thm, .bal, .saf, .sup, .mbx, .mtr, .raises, .out, .free] : List Comp)
  try dsimp only
  repeat' first
    | with_reducible assumption
    | with_reducible apply only_requestOf
    | with_reducible apply Only.live
    | exact List.Subset.trans (by decide) hM
    | (intro _ _ _)
    | (intro _ _)

theorem execAttestRecord_only (d : Datagram) {s s' : State} (h : execAttestRecord d s = .next s') :
    Only [.regs, .mem, .sys, .clk, .flash, .fuse, .img, .lnk, .rng, .tim, .pwm, .gd, .dpx, .flt, .eng, .adc, .memx, .thm, .bal, .saf, .sup, .mbx, .mtr, .raises, .out, .free] s s' := by
  cases h
  have hK : Only [.regs, .mem, .sys, .clk, .flash, .fuse, .img, .lnk, .rng, .tim, .pwm, .gd, .dpx, .flt, .eng, .adc, .memx, .thm, .bal, .saf, .sup, .mbx, .mtr, .raises, .out, .free] s s := Only.refl _ _
  have hM := List.Subset.refl ([.regs, .mem, .sys, .clk, .flash, .fuse, .img, .lnk, .rng, .tim, .pwm, .gd, .dpx, .flt, .eng, .adc, .memx, .thm, .bal, .saf, .sup, .mbx, .mtr, .raises, .out, .free] : List Comp)
  try dsimp only
  repeat' first
    | with_reducible assumption
    | with_reducible apply only_requestOf
    | with_reducible apply Only.live
    | exact List.Subset.trans (by decide) hM
    | (intro _ _ _)
    | (intro _ _)

theorem execAttestTimeout_only {s s' : State} (h : execAttestTimeout s = .next s') :
    Only [.regs, .sys, .clk, .tim, .pwm, .gd, .flt, .sup, .out] s s' := by
  cases h
  have hK : Only [.regs, .sys, .clk, .tim, .pwm, .gd, .flt, .sup, .out] s s := Only.refl _ _
  have hM := List.Subset.refl ([.regs, .sys, .clk, .tim, .pwm, .gd, .flt, .sup, .out] : List Comp)
  try dsimp only
  repeat' first
    | with_reducible assumption
    | with_reducible apply only_runUp
    | with_reducible apply only_reqFail
    | with_reducible apply Only.when
    | with_reducible apply Only.live
    | with_reducible apply Only.ite
    | exact List.Subset.trans (by decide) hM
    | (intro _ _ _)
    | (intro _ _)
    | split

theorem execSignatureComplete_only {s s' : State} (h : execSignatureComplete s = .next s') :
    Only [.regs, .clk, .rng, .tim, .pwm, .gd, .flt, .sup, .mtr, .out, .free] s s' := by
  cases h
  have hK : Only [.regs, .clk, .rng, .tim, .pwm, .gd, .flt, .sup, .mtr, .out, .free] s s := Only.refl _ _
  have hM := List.Subset.refl ([.regs, .clk, .rng, .tim, .pwm, .gd, .flt, .sup, .mtr, .out, .free] : List Comp)
  try dsimp only
  repeat' first
    | with_reducible assumption
    | with_reducible apply only_signatureDone
    | with_reducible apply Only.live
    | exact List.Subset.trans (by decide) hM
    | (intro _ _ _)
    | (intro _ _)

theorem execSignerFailure_only {s s' : State} (h : execSignerFailure s = .next s') :
    Only [.regs, .sys, .clk, .tim, .pwm, .gd, .flt, .sup, .mtr, .out] s s' := by
  cases h
  have hK : Only [.regs, .sys, .clk, .tim, .pwm, .gd, .flt, .sup, .mtr, .out] s s := Only.refl _ _
  have hM := List.Subset.refl ([.regs, .sys, .clk, .tim, .pwm, .gd, .flt, .sup, .mtr, .out] : List Comp)
  try dsimp only
  repeat' first
    | with_reducible assumption
    | with_reducible apply only_signerFailed
    | with_reducible apply Only.live
    | exact List.Subset.trans (by decide) hM
    | (intro _ _ _)
    | (intro _ _)

theorem execSupCntClr_only {s s' : State} (h : execSupCntClr s = .next s') :
    Only [.regs] s s' := by
  cases h
  have hK : Only [.regs] s s := Only.refl _ _
  have hM := List.Subset.refl ([.regs] : List Comp)
  try dsimp only
  repeat' first
    | with_reducible assumption
    | with_reducible apply only_supCntClr
    | with_reducible apply Only.live
    | exact List.Subset.trans (by decide) hM
    | (intro _ _ _)
    | (intro _ _)

theorem execCloseAll_only (m : Master) {s s' : State} (h : execCloseAll m s = .next s') :
    Only [.regs, .sup, .out, .free] s s' := by
  cases h
  have hK : Only [.regs, .sup, .out, .free] s s := Only.refl _ _
  have hM := List.Subset.refl ([.regs, .sup, .out, .free] : List Comp)
  try dsimp only
  repeat' first
    | with_reducible assumption
    | with_reducible apply only_closeAll
    | with_reducible apply only_violation
    | with_reducible apply Only.byMaster
    | with_reducible apply Only.ite
    | exact List.Subset.trans (by decide) hM
    | (intro _ _ _)
    | (intro _ _)

theorem execBulkReceived_only {s s' : State} (h : execBulkReceived s = .next s') :
    Only [.regs, .mem, .sys, .clk, .flash, .fuse, .img, .lnk, .rng, .tim, .pwm, .gd, .dpx, .flt, .eng, .adc, .memx, .thm, .bal, .saf, .sup, .mbx, .mtr, .raises, .out, .free] s s' := by
  cases h
  have hK : Only [.regs, .mem, .sys, .clk, .flash, .fuse, .img, .lnk, .rng, .tim, .pwm, .gd, .dpx, .flt, .eng, .adc, .memx, .thm, .bal, .saf, .sup, .mbx, .mtr, .raises, .out, .free] s s := Only.refl _ _
  have hM := List.Subset.refl ([.regs, .mem, .sys, .clk, .flash, .fuse, .img, .lnk, .rng, .tim, .pwm, .gd, .dpx, .flt, .eng, .adc, .memx, .thm, .bal, .saf, .sup, .mbx, .mtr, .raises, .out, .free] : List Comp)
  try dsimp only
  repeat' first
    | with_reducible assumption
    | with_reducible apply only_takeRx
    | with_reducible apply only_bulkReceived
    | with_reducible apply Only.live
    | exact List.Subset.trans (by decide) hM
    | (intro _ _ _)
    | (intro _ _)

theorem execRraGo_only (m : Master) (v : Word) {s s' : State} (h : execRraGo m v s = .next s') :
    Only [.regs, .mem, .sys, .clk, .flash, .fuse, .img, .lnk, .rng, .tim, .pwm, .gd, .dpx, .flt, .eng, .adc, .memx, .thm, .bal, .saf, .sup, .mbx, .mtr, .raises, .out, .free] s s' := by
  cases h
  have hK : Only [.regs, .mem, .sys, .clk, .flash, .fuse, .img, .lnk, .rng, .tim, .pwm, .gd, .dpx, .flt, .eng, .adc, .memx, .thm, .bal, .saf, .sup, .mbx, .mtr, .raises, .out, .free] s s := Only.refl _ _
  have hM := List.Subset.refl ([.regs, .mem, .sys, .clk, .flash, .fuse, .img, .lnk, .rng, .tim, .pwm, .gd, .dpx, .flt, .eng, .adc, .memx, .thm, .bal, .saf, .sup, .mbx, .mtr, .raises, .out, .free] : List Comp)
  try dsimp only
  repeat' first
    | with_reducible assumption
    | with_reducible apply only_rraCtrl
    | with_reducible apply only_answer
    | with_reducible apply Only.byMaster
    | exact List.Subset.trans (by decide) hM
    | (intro _ _ _)
    | (intro _ _)

theorem execRraTimeout_only (host : Bool) {s s' : State} (h : execRraTimeout host s = .next s') :
    Only [.regs, .rng, .sup, .out] s s' := by
  cases h
  have hK : Only [.regs, .rng, .sup, .out] s s := Only.refl _ _
  have hM := List.Subset.refl ([.regs, .rng, .sup, .out] : List Comp)
  try dsimp only
  repeat' first
    | with_reducible assumption
    | with_reducible apply only_hostTimeoutRra
    | with_reducible apply only_rraEnd
    | with_reducible apply Only.when
    | with_reducible apply Only.live
    | with_reducible apply Only.ite
    | exact List.Subset.trans (by decide) hM
    | (intro _ _ _)
    | (intro _ _)
    | split

theorem execBatchItemApply_only {s s' : State} (h : execBatchItemApply s = .next s') :
    Only [.regs, .mem, .sys, .clk, .flash, .fuse, .img, .lnk, .rng, .tim, .pwm, .gd, .dpx, .flt, .eng, .adc, .memx, .thm, .bal, .saf, .sup, .mbx, .mtr, .raises, .out, .free] s s' := by
  cases h
  have hK : Only [.regs, .mem, .sys, .clk, .flash, .fuse, .img, .lnk, .rng, .tim, .pwm, .gd, .dpx, .flt, .eng, .adc, .memx, .thm, .bal, .saf, .sup, .mbx, .mtr, .raises, .out, .free] s s := Only.refl _ _
  have hM := List.Subset.refl ([.regs, .mem, .sys, .clk, .flash, .fuse, .img, .lnk, .rng, .tim, .pwm, .gd, .dpx, .flt, .eng, .adc, .memx, .thm, .bal, .saf, .sup, .mbx, .mtr, .raises, .out, .free] : List Comp)
  try dsimp only
  repeat' first
    | with_reducible assumption
    | with_reducible apply only_batchApply
    | with_reducible apply Only.live
    | exact List.Subset.trans (by decide) hM
    | (intro _ _ _)
    | (intro _ _)

theorem execRegisterWrite_only (m : Master) (addr : Word) (size : Fin 9) (v : Word) (ecc : Ecc) {s s' : State} (h : execRegisterWrite m addr size v ecc s = .next s') :
    Only [.regs, .mem, .sys, .clk, .flash, .fuse, .img, .lnk, .rng, .tim, .pwm, .gd, .dpx, .flt, .eng, .adc, .memx, .thm, .bal, .saf, .sup, .mbx, .mtr, .raises, .out, .free] s s' := by
  cases h
  have hK : Only [.regs, .mem, .sys, .clk, .flash, .fuse, .img, .lnk, .rng, .tim, .pwm, .gd, .dpx, .flt, .eng, .adc, .memx, .thm, .bal, .saf, .sup, .mbx, .mtr, .raises, .out, .free] s s := Only.refl _ _
  have hM := List.Subset.refl ([.regs, .mem, .sys, .clk, .flash, .fuse, .img, .lnk, .rng, .tim, .pwm, .gd, .dpx, .flt, .eng, .adc, .memx, .thm, .bal, .saf, .sup, .mbx, .mtr, .raises, .out, .free] : List Comp)
  try dsimp only
  repeat' first
    | with_reducible assumption
    | with_reducible apply only_busWrite
    | with_reducible apply Only.when
    | with_reducible apply Only.byMaster
    | exact List.Subset.trans (by decide) hM
    | (intro _ _ _)
    | (intro _ _)

end Sys2Proof.Machine
end

