-- ==== Sys2Proof/Laws/Calm.lean ====
section
/-! SUPPORT. Laws/Calm.lean: `Calm`, that an operation which starts with no raise waiting ends with none (R460), of every
operation and command that lets raises wait; the other commands leave `raises` alone by Laws/OnlyExec.lean. -/
namespace Sys2Proof.Machine
set_option Elab.async false
set_option linter.unusedVariables false

/-- With no raise waiting before, none waits after. -/
structure Calm (z : State) (l : List Raise) : Prop where
  calm : z.raises = [] → l = []

theorem Calm.refl (s : State) : Calm s s.raises := ⟨id⟩

theorem Calm.after {l : List Comp} {z s t : State} (h : Calm z s.raises) (k : Only l s t) (hl : Comp.raises ∉ l) :
    Calm z t.raises :=
  ⟨fun hz => by have e : t.raises = s.raises := k.same .raises hl; rw [e]; exact h.calm hz⟩

theorem Calm.ite {c : Prop} [Decidable c] {z x y : State} (hx : Calm z x.raises) (hy : Calm z y.raises) :
    Calm z (if c then x else y).raises := by split <;> assumption

theorem Calm.iteFst {β : Type} {c : Prop} [Decidable c] {z : State} {x y : State × β} (hx : Calm z x.1.raises)
    (hy : Calm z y.1.raises) : Calm z (if c then x else y).1.raises := by split <;> assumption

theorem Calm.foldl {β : Type} {z s : State} {f : State → β → State} {xs : List β} (h : Calm z s.raises)
    (hf : ∀ b x, Calm z b.raises → Calm z (f b x).raises) : Calm z (xs.foldl f s).raises := by
  induction xs generalizing s with
  | nil => exact h
  | cons x t ih => exact ih (hf s x h)

theorem Calm.foldlFst {β γ : Type} {z : State} {p : State × γ} {f : State × γ → β → State × γ} {xs : List β}
    (h : Calm z p.1.raises) (hf : ∀ q x, Calm z q.1.raises → Calm z (f q x).1.raises) :
    Calm z (xs.foldl f p).1.raises := by
  induction xs generalizing p with
  | nil => exact h
  | cons x t ih => exact ih (hf p x h)

theorem Calm.forUpTo {z s : State} {n : Nat} {f : Nat → State → State} (h : Calm z s.raises)
    (hf : ∀ i b, Calm z b.raises → Calm z (f i b).raises) : Calm z (forUpTo n f s).raises :=
  Calm.foldl h fun b i hb => hf i b hb

theorem Calm.when {z s : State} {c : Bool} {f : State → State} (h : Calm z s.raises)
    (hf : ∀ b, Calm z b.raises → Calm z (f b).raises) : Calm z (s.when c f).raises := by
  unfold State.when; split
  · exact hf s h
  · exact h

theorem Calm.live {z s : State} {f : State → State} (h : Calm z s.raises)
    (hf : ∀ b, Calm z b.raises → Calm z (f b).raises) : Calm z (s.live f).raises := by
  unfold State.live; split
  · exact h
  · exact hf s h

theorem Calm.byMaster {z s : State} {m : Master} {f : State → State} (h : Calm z s.raises)
    (hf : ∀ b, Calm z b.raises → Calm z (f b).raises) : Calm z (s.byMaster m f).raises :=
  Calm.live h fun _ hb => Calm.when hb hf

/-- Whatever state an operation that may refuse answers. -/
def CalmO (z : State) (o : Option State) : Prop := ∀ t, o = some t → Calm z t.raises

theorem CalmO.some {z t : State} (h : Calm z t.raises) : CalmO z (some t) := by intro u hu; cases hu; exact h

theorem CalmO.none {z : State} : CalmO z none := by intro u hu; cases hu

theorem CalmO.ite {c : Prop} [Decidable c] {z : State} {x y : Option State} (hx : CalmO z x) (hy : CalmO z y) :
    CalmO z (if c then x else y) := by split <;> assumption

theorem Calm.wr {z s : State} (h : Calm z s.raises) (a : Nat) (v : Word) : Calm z (s.wr a v).raises := h
theorem Calm.setByte {z s : State} (h : Calm z s.raises) (a : Nat) (v : Byte) : Calm z (s.setByte a v).raises := h
theorem Calm.storeLe {z s : State} (h : Calm z s.raises) (a n v : Nat) : Calm z (s.storeLe a n v).raises := by
  induction n generalizing s a v with
  | zero => exact h
  | succ n ih => exact ih (s := s.setByte a (BitVec.ofNat 8 (v % 256))) h (a + 1) (v / 256)
theorem Calm.emit {z s : State} (h : Calm z s.raises) (o : Out) : Calm z (s.emit o).raises := h
theorem Calm.useFree {z s : State} (h : Calm z s.raises) : Calm z s.useFree.raises := h
theorem Calm.useMany {z s : State} (h : Calm z s.raises) (n : Nat) : Calm z (s.useMany n).raises := h

/-- The collector takes every raise that waits. -/
theorem calm_raiseDue (z s : State) : Calm z s.raiseDue.raises := by
  refine ⟨fun _ => ?_⟩
  have : Only [.regs, .clk, .tim, .pwm, .gd, .dpx, .flt, .out] { s with raises := [] } s.raiseDue :=
    Only.foldl (Only.refl _ _) fun b r hb => only_raise hb r (by decide)
  have e : s.raiseDue.raises = [] := this.same .raises (by decide)
  exact e

/-! ### Operations that let nothing wait -/

theorem calm_put {z s : State} (hK : Calm z s.raises) (f : Fld) (v : Nat) :
    Calm z (State.put s f v).raises :=
  hK.after (only_put (Only.refl _ _) f v (List.Subset.refl _)) (by decide)

theorem calm_setFlag {z s : State} (hK : Calm z s.raises) (f : Fld) (b : Bool) :
    Calm z (State.setFlag s f b).raises :=
  hK.after (only_setFlag (Only.refl _ _) f b (List.Subset.refl _)) (by decide)

theorem calm_bump {z s : State} (hK : Calm z s.raises) (f : Fld) (n : Nat) :
    Calm z (State.bump s f n).raises :=
  hK.after (only_bump (Only.refl _ _) f n (List.Subset.refl _)) (by decide)

theorem calm_bumpReg {z s : State} (hK : Calm z s.raises) (a : Nat) (n : Nat) :
    Calm z (State.bumpReg s a n).raises :=
  hK.after (only_bumpReg (Only.refl _ _) a n (List.Subset.refl _)) (by decide)

theorem calm_wrN {z s : State} (hK : Calm z s.raises) (a v : Nat) :
    Calm z (State.wrN s a v).raises :=
  hK.after (only_wrN (Only.refl _ _) a v (List.Subset.refl _)) (by decide)

theorem calm_setPort {z s : State} (hK : Calm z s.raises) (p : Nat) (v : PortSt) :
    Calm z (State.setPort s p v).raises :=
  hK.after (only_setPort (Only.refl _ _) p v (List.Subset.refl _)) (by decide)

theorem calm_setLane {z s : State} (hK : Calm z s.raises) (p l : Nat) (v : LaneSt) :
    Calm z (State.setLane s p l v).raises :=
  hK.after (only_setLane (Only.refl _ _) p l v (List.Subset.refl _)) (by decide)

theorem calm_setLink {z s : State} (hK : Calm z s.raises) (p : Nat) (v : LinkTime) :
    Calm z (State.setLink s p v).raises :=
  hK.after (only_setLink (Only.refl _ _) p v (List.Subset.refl _)) (by decide)

theorem calm_setMember {z s : State} (hK : Calm z s.raises) (p : Nat) (v : Member) :
    Calm z (State.setMember s p v).raises :=
  hK.after (only_setMember (Only.refl _ _) p v (List.Subset.refl _)) (by decide)

theorem calm_setEngSlot {z s : State} (hK : Calm z s.raises) (n : Nat) (v : EngSlot) :
    Calm z (State.setEngSlot s n v).raises :=
  hK.after (only_setEngSlot (Only.refl _ _) n v (List.Subset.refl _)) (by decide)

theorem calm_setEngGroup {z s : State} (hK : Calm z s.raises) (g : Nat) (v : EngGroup) :
    Calm z (State.setEngGroup s g v).raises :=
  hK.after (only_setEngGroup (Only.refl _ _) g v (List.Subset.refl _)) (by decide)

theorem calm_setAsk {z s : State} (hK : Calm z s.raises) (p : Nat) (v : Ask) :
    Calm z (State.setAsk s p v).raises :=
  hK.after (only_setAsk (Only.refl _ _) p v (List.Subset.refl _)) (by decide)

theorem calm_setChain {z s : State} (hK : Calm z s.raises) (c : Frac) :
    Calm z (State.setChain s c).raises :=
  hK.after (only_setChain (Only.refl _ _) c (List.Subset.refl _)) (by decide)

theorem calm_selectUp {z s : State} (hK : Calm z s.raises) :
    Calm z (State.selectUp s).raises :=
  hK.after (only_selectUp (Only.refl _ _)  (List.Subset.refl _)) (by decide)

theorem calm_raise {z s0 : State} (hK : Calm z s0.raises) (r : Raise) :
    Calm z (State.raise s0 r).raises :=
  hK.after (only_raise (Only.refl _ _) r (List.Subset.refl _)) (by decide)

theorem calm_violation {z s : State} (hK : Calm z s.raises) (m : Master) (write : Bool) (a : Nat) :
    Calm z (State.violation s m write a).raises :=
  hK.after (only_violation (Only.refl _ _) m write a (List.Subset.refl _)) (by decide)

theorem calm_outItem {z s : State} (hK : Calm z s.raises) (idx : Nat) (v : Word) :
    Calm z (State.outItem s idx v).raises :=
  hK.after (only_outItem (Only.refl _ _) idx v (List.Subset.refl _)) (by decide)

theorem calm_setRingState {z s : State} (hK : Calm z s.raises) (y : Bool) (v : Nat) :
    Calm z (State.setRingState s y v).raises :=
  hK.after (only_setRingState (Only.refl _ _) y v (List.Subset.refl _)) (by decide)

theorem calm_sendDir {z s : State} (hK : Calm z s.raises) (y east : Bool) (lane typ dst tag count : Nat) (body : List Byte) :
    Calm z (State.sendDir s y east lane typ dst tag count body).raises :=
  hK.after (only_sendDir (Only.refl _ _) y east lane typ dst tag count body (List.Subset.refl _)) (by decide)

theorem calm_hand {z s : State} (hK : Calm z s.raises) (a : Arrival) :
    Calm z (State.hand s a).raises :=
  hK.after (only_hand (Only.refl _ _) a (List.Subset.refl _)) (by decide)

theorem calm_takeRx {z s : State} (hK : Calm z s.raises) (p : Arrival → Bool) {f : Arrival → State → State}
    (hf : ∀ a b, Calm z b.raises → Calm z (f a b).raises) : Calm z (State.takeRx s p f).raises := by
  unfold State.takeRx
  split
  · exact hf _ _ hK
  · exact hK

theorem calm_takeAllRx {z s : State} (hK : Calm z s.raises) (p : Arrival → Bool) {f : Arrival → State → State}
    (hf : ∀ a b, Calm z b.raises → Calm z (f a b).raises) : Calm z (State.takeAllRx s p f).raises :=
  Calm.foldl hK fun _ _ hb => hf _ _ hb

theorem calm_bulkQueue {z s : State} (hK : Calm z s.raises) (peer stream : Nat) (l : List TxCw) :
    Calm z (State.bulkQueue s peer stream l).raises :=
  hK.after (only_bulkQueue (Only.refl _ _) peer stream l (List.Subset.refl _)) (by decide)

theorem calm_bulkSend {z s : State} (hK : Calm z s.raises) (peer stream : Nat) (data : List Byte) (note : Option Nat) :
    Calm z (State.bulkSend s peer stream data note).raises :=
  hK.after (only_bulkSend (Only.refl _ _) peer stream data note (List.Subset.refl _)) (by decide)

theorem calm_bulkTake {z s : State} (hK : Calm z s.raises) (src : Nat) (cw : List Byte) :
    Calm z (State.bulkTake s src cw).1.raises :=
  hK.after (only_bulkTake (Only.refl _ _) src cw (List.Subset.refl _)) (by decide)

theorem calm_setSess {z s : State} (hK : Calm z s.raises) (n : Nat) (v : Sess) :
    Calm z (State.setSess s n v).raises :=
  hK.after (only_setSess (Only.refl _ _) n v (List.Subset.refl _)) (by decide)

theorem calm_wrapped {z s : State} (hK : Calm z s.raises) :
    Calm z (State.wrapped s).raises :=
  hK.after (only_wrapped (Only.refl _ _)  (List.Subset.refl _)) (by decide)

theorem calm_runUp {z s : State} (hK : Calm z s.raises) (t : Nat) :
    Calm z (State.runUp s t).raises :=
  hK.after (only_runUp (Only.refl _ _) t (List.Subset.refl _)) (by decide)

theorem calm_runToTick {z s : State} (hK : Calm z s.raises) (t : Nat) :
    Calm z (State.runToTick s t).raises :=
  hK.after (only_runToTick (Only.refl _ _) t (List.Subset.refl _)) (by decide)

theorem calm_runTo {z s : State} (hK : Calm z s.raises) (k : Nat) :
    Calm z (State.runTo s k).raises :=
  hK.after (only_runTo (Only.refl _ _) k (List.Subset.refl _)) (by decide)

theorem calm_runIn {z s : State} (hK : Calm z s.raises) (k : Nat) :
    Calm z (State.runIn s k).raises :=
  hK.after (only_runIn (Only.refl _ _) k (List.Subset.refl _)) (by decide)

theorem calm_lpWrite {z s : State} (hK : Calm z s.raises) (v : Nat) :
    Calm z (State.lpWrite s v).raises :=
  hK.after (only_lpWrite (Only.refl _ _) v (List.Subset.refl _)) (by decide)

theorem calm_chWrite {z s : State} (hK : Calm z s.raises) (m v : Nat) :
    Calm z (State.chWrite s m v).raises :=
  hK.after (only_chWrite (Only.refl _ _) m v (List.Subset.refl _)) (by decide)

theorem calm_adcCntClr {z s : State} (hK : Calm z s.raises) :
    Calm z (State.adcCntClr s).raises :=
  hK.after (only_adcCntClr (Only.refl _ _)  (List.Subset.refl _)) (by decide)

theorem calm_trainHears {z s : State} (hK : Calm z s.raises) (p l : Nat) (lv : List Int) :
    Calm z (State.trainHears s p l lv).raises :=
  hK.after (only_trainHears (Only.refl _ _) p l lv (List.Subset.refl _)) (by decide)

theorem calm_frameHears {z s : State} (hK : Calm z s.raises) (p l : Nat) (lv : List Int) :
    Calm z (State.frameHears s p l lv).raises :=
  hK.after (only_frameHears (Only.refl _ _) p l lv (List.Subset.refl _)) (by decide)

theorem calm_ringUp {z s : State} (hK : Calm z s.raises) (p : Nat) :
    Calm z (State.ringUp s p).raises :=
  hK.after (only_ringUp (Only.refl _ _) p (List.Subset.refl _)) (by decide)

theorem calm_chillWrite {z s : State} (hK : Calm z s.raises) (p : Nat) (on : Bool) :
    Calm z (State.chillWrite s p on).raises :=
  hK.after (only_chillWrite (Only.refl _ _) p on (List.Subset.refl _)) (by decide)

theorem calm_trainWrite {z s : State} (hK : Calm z s.raises) (p : Nat) :
    Calm z (State.trainWrite s p).raises :=
  hK.after (only_trainWrite (Only.refl _ _) p (List.Subset.refl _)) (by decide)

theorem calm_lnkCntClr {z s : State} (hK : Calm z s.raises) (p : Nat) :
    Calm z (State.lnkCntClr s p).raises :=
  hK.after (only_lnkCntClr (Only.refl _ _) p (List.Subset.refl _)) (by decide)

theorem calm_offerBoundary {z s : State} (hK : Calm z s.raises) (t : Nat) :
    Calm z (State.offerBoundary s t).raises :=
  hK.after (only_offerBoundary (Only.refl _ _) t (List.Subset.refl _)) (by decide)

theorem calm_carriersMoved {z s : State} (hK : Calm z s.raises) (old : Nat) :
    Calm z (State.carriersMoved s old).raises :=
  hK.after (only_carriersMoved (Only.refl _ _) old (List.Subset.refl _)) (by decide)

theorem calm_shadowWrite {z s : State} (hK : Calm z s.raises) (n : Nat) (reg : ShadowReg) (v : Word) :
    Calm z (State.shadowWrite s n reg v).raises :=
  hK.after (only_shadowWrite (Only.refl _ _) n reg v (List.Subset.refl _)) (by decide)

theorem calm_pwmCtrlWrite {z s : State} (hK : Calm z s.raises) (n : Nat) (v : Word) :
    Calm z (State.pwmCtrlWrite s n v).raises :=
  hK.after (only_pwmCtrlWrite (Only.refl _ _) n v (List.Subset.refl _)) (by decide)

theorem calm_groupClear {z s : State} (hK : Calm z s.raises) (groups : Nat) :
    Calm z (State.groupClear s groups).raises :=
  hK.after (only_groupClear (Only.refl _ _) groups (List.Subset.refl _)) (by decide)

theorem calm_rearm {z s : State} (hK : Calm z s.raises) (m : Master) :
    Calm z (State.rearm s m).raises :=
  hK.after (only_rearm (Only.refl _ _) m (List.Subset.refl _)) (by decide)

theorem calm_pwmCntClr {z s : State} (hK : Calm z s.raises) :
    Calm z (State.pwmCntClr s).raises :=
  hK.after (only_pwmCntClr (Only.refl _ _)  (List.Subset.refl _)) (by decide)

theorem calm_injNow {z s : State} (hK : Calm z s.raises) :
    Calm z (State.injNow s).raises :=
  hK.after (only_injNow (Only.refl _ _)  (List.Subset.refl _)) (by decide)

theorem calm_gdCntClr {z s : State} (hK : Calm z s.raises) :
    Calm z (State.gdCntClr s).raises :=
  hK.after (only_gdCntClr (Only.refl _ _)  (List.Subset.refl _)) (by decide)

theorem calm_logSel {z s : State} (hK : Calm z s.raises) (v : Nat) :
    Calm z (State.logSel s v).raises :=
  hK.after (only_logSel (Only.refl _ _) v (List.Subset.refl _)) (by decide)

theorem calm_eccClear {z s : State} (hK : Calm z s.raises) (w : Nat) :
    Calm z (State.eccClear s w).raises :=
  hK.after (only_eccClear (Only.refl _ _) w (List.Subset.refl _)) (by decide)

theorem calm_eccSet {z s : State} (hK : Calm z s.raises) (w : Nat) (poison : Bool) :
    Calm z (State.eccSet s w poison).raises :=
  hK.after (only_eccSet (Only.refl _ _) w poison (List.Subset.refl _)) (by decide)

theorem calm_eccMerge {z s : State} (hK : Calm z s.raises) (w : Nat) (e : Ecc) :
    Calm z (State.eccMerge s w e).1.raises :=
  hK.after (only_eccMerge (Only.refl _ _) w e (List.Subset.refl _)) (by decide)

theorem calm_scrubGo {z s : State} (hK : Calm z s.raises) (mp : Bool) :
    Calm z (State.scrubGo s mp).raises :=
  hK.after (only_scrubGo (Only.refl _ _) mp (List.Subset.refl _)) (by decide)

theorem calm_scrubAbort {z s : State} (hK : Calm z s.raises) :
    Calm z (State.scrubAbort s).raises :=
  hK.after (only_scrubAbort (Only.refl _ _)  (List.Subset.refl _)) (by decide)

theorem calm_memRepair {z s : State} (hK : Calm z s.raises) (mp : Bool) (v : Nat) :
    Calm z (State.memRepair s mp v).raises :=
  hK.after (only_memRepair (Only.refl _ _) mp v (List.Subset.refl _)) (by decide)

theorem calm_memCntClr {z s : State} (hK : Calm z s.raises) :
    Calm z (State.memCntClr s).raises :=
  hK.after (only_memCntClr (Only.refl _ _)  (List.Subset.refl _)) (by decide)

theorem calm_setSafHead {z s : State} (hK : Calm z s.raises) (h : Nat) (v : SafHead) :
    Calm z (State.setSafHead s h v).raises :=
  hK.after (only_setSafHead (Only.refl _ _) h v (List.Subset.refl _)) (by decide)

theorem calm_safResult {z s : State} (hK : Calm z s.raises) (h : Nat) (r : SafeCopy) :
    Calm z (State.safResult s h r).raises :=
  hK.after (only_safResult (Only.refl _ _) h r (List.Subset.refl _)) (by decide)

theorem calm_clearInit {z s : State} (hK : Calm z s.raises) (dem : Nat) :
    Calm z (State.clearInit s dem).raises :=
  hK.after (only_clearInit (Only.refl _ _) dem (List.Subset.refl _)) (by decide)

theorem calm_safBoundary {z s : State} (hK : Calm z s.raises) (uncounted : Bool) :
    Calm z (State.safBoundary s uncounted).raises :=
  hK.after (only_safBoundary (Only.refl _ _) uncounted (List.Subset.refl _)) (by decide)

theorem calm_safCntClr {z s : State} (hK : Calm z s.raises) :
    Calm z (State.safCntClr s).raises :=
  hK.after (only_safCntClr (Only.refl _ _)  (List.Subset.refl _)) (by decide)

theorem calm_dropTrigger {z s : State} (hK : Calm z s.raises) (g : Nat) :
    Calm z (State.dropTrigger s g).raises :=
  hK.after (only_dropTrigger (Only.refl _ _) g (List.Subset.refl _)) (by decide)

theorem calm_balTrigger {z s : State} (hK : Calm z s.raises) (g : Nat) :
    Calm z (State.balTrigger s g).raises :=
  hK.after (only_balTrigger (Only.refl _ _) g (List.Subset.refl _)) (by decide)

theorem calm_groupLatch {z s : State} (hK : Calm z s.raises) (g t : Nat) :
    Calm z (State.groupLatch s g t).raises :=
  hK.after (only_groupLatch (Only.refl _ _) g t (List.Subset.refl _)) (by decide)

theorem calm_writeDest {z s : State} (hK : Calm z s.raises) (out : Word) (u : Nat) :
    Calm z (State.writeDest s out u).raises :=
  hK.after (only_writeDest (Only.refl _ _) out u (List.Subset.refl _)) (by decide)

theorem calm_groupIdle {z s : State} (hK : Calm z s.raises) (g : Nat) :
    Calm z (State.groupIdle s g).raises :=
  hK.after (only_groupIdle (Only.refl _ _) g (List.Subset.refl _)) (by decide)

theorem calm_groupMiss {z s : State} (hK : Calm z s.raises) (g : Nat) :
    Calm z (State.groupMiss s g).raises :=
  hK.after (only_groupMiss (Only.refl _ _) g (List.Subset.refl _)) (by decide)

theorem calm_swapGo {z s : State} (hK : Calm z s.raises) (next : Bool) :
    Calm z (State.swapGo s next).raises :=
  hK.after (only_swapGo (Only.refl _ _) next (List.Subset.refl _)) (by decide)

theorem calm_swapCancel {z s : State} (hK : Calm z s.raises) :
    Calm z (State.swapCancel s).raises :=
  hK.after (only_swapCancel (Only.refl _ _)  (List.Subset.refl _)) (by decide)

theorem calm_slotWrite {z s : State} (hK : Calm z s.raises) (n w : Nat) (v : Word) :
    Calm z (State.slotWrite s n w v).raises :=
  hK.after (only_slotWrite (Only.refl _ _) n w v (List.Subset.refl _)) (by decide)

theorem calm_ceCntClr {z s : State} (hK : Calm z s.raises) :
    Calm z (State.ceCntClr s).raises :=
  hK.after (only_ceCntClr (Only.refl _ _)  (List.Subset.refl _)) (by decide)

theorem calm_publishDerating {z s : State} (hK : Calm z s.raises) :
    Calm z (State.publishDerating s).raises :=
  hK.after (only_publishDerating (Only.refl _ _)  (List.Subset.refl _)) (by decide)

theorem calm_ckoLoaded {z s : State} (hK : Calm z s.raises) (a : Nat) :
    Calm z (State.ckoLoaded s a).raises :=
  hK.after (only_ckoLoaded (Only.refl _ _) a (List.Subset.refl _)) (by decide)

theorem calm_balSecs {z s : State} (hK : Calm z s.raises) :
    Calm z (State.balSecs s).raises :=
  hK.after (only_balSecs (Only.refl _ _)  (List.Subset.refl _)) (by decide)

theorem calm_balJoin {z s : State} (hK : Calm z s.raises) :
    Calm z (State.balJoin s).raises :=
  hK.after (only_balJoin (Only.refl _ _)  (List.Subset.refl _)) (by decide)

theorem calm_balReqWrite {z s : State} (hK : Calm z s.raises) (v : Nat) :
    Calm z (State.balReqWrite s v).raises :=
  hK.after (only_balReqWrite (Only.refl _ _) v (List.Subset.refl _)) (by decide)

theorem calm_balMember {z s : State} (hK : Calm z s.raises) :
    Calm z (State.balMember s).raises :=
  hK.after (only_balMember (Only.refl _ _)  (List.Subset.refl _)) (by decide)

theorem calm_updStop {z s : State} (hK : Calm z s.raises) :
    Calm z (State.updStop s).raises :=
  hK.after (only_updStop (Only.refl _ _)  (List.Subset.refl _)) (by decide)

theorem calm_rstCtrlWrite {z s : State} (hK : Calm z s.raises) (m : Master) (v : Nat) :
    Calm z (State.rstCtrlWrite s m v).raises :=
  hK.after (only_rstCtrlWrite (Only.refl _ _) m v (List.Subset.refl _)) (by decide)

theorem calm_setSlotSt {z s : State} (hK : Calm z s.raises) (i : Nat) (st : SlotState) :
    Calm z (State.setSlotSt s i st).raises :=
  hK.after (only_setSlotSt (Only.refl _ _) i st (List.Subset.refl _)) (by decide)

theorem calm_fuseKey {z s : State} (hK : Calm z s.raises) (i : Nat) (d : BitVec 256) :
    Calm z (State.fuseKey s i d).raises :=
  hK.after (only_fuseKey (Only.refl _ _) i d (List.Subset.refl _)) (by decide)

theorem calm_provWrite {z s : State} (hK : Calm z s.raises) (m : Master) (v : Word) :
    Calm z (State.provWrite s m v).raises :=
  hK.after (only_provWrite (Only.refl _ _) m v (List.Subset.refl _)) (by decide)

theorem calm_trialPass_pass {z s : State} (hK : Calm z s.raises) (img : ImageRead) :
    Calm z (State.trialPass.pass img s).raises := by
  unfold State.trialPass.pass
  exact Calm.ite (calm_put hK _ _) hK

theorem calm_trialPass {z s : State} (hK : Calm z s.raises) : Calm z (State.trialPass s).raises := by
  unfold State.trialPass
  dsimp only
  refine Calm.ite hK ?_
  split
  · exact calm_put (calm_put hK _ _) _ _
  · exact calm_fuseKey (calm_trialPass_pass (calm_setSlotSt hK _ _) _) _ _
  · exact calm_trialPass_pass (calm_setSlotSt hK _ _) _

theorem calm_updCmd {z s : State} (hK : Calm z s.raises) (m : Master) (abort : Bool) {f : State → State}
    (hf : ∀ b, Calm z b.raises → Calm z (f b).raises) : Calm z (State.updCmd s m abort f).raises := by
  unfold State.updCmd
  exact Calm.ite (calm_violation hK _ _ _) (Calm.ite (calm_put hK _ _) (hf s hK))

theorem calm_updStart {z s : State} (hK : Calm z s.raises) (c : UpdCmd) :
    Calm z (State.updStart s c).raises :=
  hK.after (only_updStart (Only.refl _ _) c (List.Subset.refl _)) (by decide)

theorem calm_updErase {z s : State} (hK : Calm z s.raises) :
    Calm z (State.updErase s).raises :=
  hK.after (only_updErase (Only.refl _ _)  (List.Subset.refl _)) (by decide)

theorem calm_updProgram {z s : State} (hK : Calm z s.raises) :
    Calm z (State.updProgram s).raises :=
  hK.after (only_updProgram (Only.refl _ _)  (List.Subset.refl _)) (by decide)

theorem calm_updArm {z s : State} (hK : Calm z s.raises) :
    Calm z (State.updArm s).raises :=
  hK.after (only_updArm (Only.refl _ _)  (List.Subset.refl _)) (by decide)

theorem calm_updAbort {z s : State} (hK : Calm z s.raises) :
    Calm z (State.updAbort s).raises :=
  hK.after (only_updAbort (Only.refl _ _)  (List.Subset.refl _)) (by decide)

theorem calm_setServo {z s : State} (hK : Calm z s.raises) (st : Nat) :
    Calm z (State.setServo s st).raises :=
  hK.after (only_setServo (Only.refl _ _) st (List.Subset.refl _)) (by decide)

theorem calm_setY {z s : State} (hK : Calm z s.raises) (yP yI : Frac) :
    Calm z (State.setY s yP yI).raises :=
  hK.after (only_setY (Only.refl _ _) yP yI (List.Subset.refl _)) (by decide)

theorem calm_hostBack {z s : State} (hK : Calm z s.raises) :
    Calm z (State.hostBack s).raises :=
  hK.after (only_hostBack (Only.refl _ _)  (List.Subset.refl _)) (by decide)

theorem calm_tpoCtrl {z s : State} (hK : Calm z s.raises) (n : Nat) (v : Word) :
    Calm z (State.tpoCtrl s n v).raises :=
  hK.after (only_tpoCtrl (Only.refl _ _) n v (List.Subset.refl _)) (by decide)

theorem calm_tpoConfig {z s : State} (hK : Calm z s.raises) (n : Nat) (reg : TpoReg) (v : Word) :
    Calm z (State.tpoConfig s n reg v).raises :=
  hK.after (only_tpoConfig (Only.refl _ _) n reg v (List.Subset.refl _)) (by decide)

theorem calm_tpoStep {z s : State} (hK : Calm z s.raises) :
    Calm z (State.tpoStep s).raises :=
  hK.after (only_tpoStep (Only.refl _ _)  (List.Subset.refl _)) (by decide)

theorem calm_recordClear {z s : State} (hK : Calm z s.raises) (num : Nat) :
    Calm z (State.recordClear s num).raises :=
  hK.after (only_recordClear (Only.refl _ _) num (List.Subset.refl _)) (by decide)

theorem calm_stationClear {z s : State} (hK : Calm z s.raises) :
    Calm z (State.stationClear s).raises :=
  hK.after (only_stationClear (Only.refl _ _)  (List.Subset.refl _)) (by decide)

theorem calm_ledTo {z s : State} (hK : Calm z s.raises) (e st cause : Nat) :
    Calm z (State.ledTo s e st cause).raises :=
  hK.after (only_ledTo (Only.refl _ _) e st cause (List.Subset.refl _)) (by decide)

theorem calm_batchFault {z s : State} (hK : Calm z s.raises) (code : Nat) (id : Word) :
    Calm z (State.batchFault s code id).raises :=
  hK.after (only_batchFault (Only.refl _ _) code id (List.Subset.refl _)) (by decide)

theorem calm_sendOutcome {z s : State} (hK : Calm z s.raises) (e : Nat) :
    Calm z (State.sendOutcome s e).raises :=
  hK.after (only_sendOutcome (Only.refl _ _) e (List.Subset.refl _)) (by decide)

theorem calm_ledNew {z s : State} (hK : Calm z s.raises) (e : Nat) (id c : Word) (count : Nat) (dist : Bool) (targets : Nat) :
    Calm z (State.ledNew s e id c count dist targets).raises :=
  hK.after (only_ledNew (Only.refl _ _) e id c count dist targets (List.Subset.refl _)) (by decide)

theorem calm_ledItems {z s : State} (hK : Calm z s.raises) (e : Nat) (items : List (Word × Word)) :
    Calm z (State.ledItems s e items).raises :=
  hK.after (only_ledItems (Only.refl _ _) e items (List.Subset.refl _)) (by decide)

theorem calm_glazeCurrent {z s : State} (hK : Calm z s.raises) :
    Calm z (State.glazeCurrent s).raises :=
  hK.after (only_glazeCurrent (Only.refl _ _)  (List.Subset.refl _)) (by decide)

theorem calm_toDpx {z s : State} (hK : Calm z s.raises) (st : Nat) :
    Calm z (State.toDpx s st).raises :=
  hK.after (only_toDpx (Only.refl _ _) st (List.Subset.refl _)) (by decide)

theorem calm_seeTier {z s : State} (hK : Calm z s.raises) (t : Nat) :
    Calm z (State.seeTier s t).raises :=
  hK.after (only_seeTier (Only.refl _ _) t (List.Subset.refl _)) (by decide)

theorem calm_hbAtMember {z s : State} (hK : Calm z s.raises) (via : Via) (src tier : Nat) (prim : Bool) :
    Calm z (State.hbAtMember s via src tier prim).raises :=
  hK.after (only_hbAtMember (Only.refl _ _) via src tier prim (List.Subset.refl _)) (by decide)

theorem calm_swapRequest {z s : State} (hK : Calm z s.raises) :
    Calm z (State.swapRequest s).raises :=
  hK.after (only_swapRequest (Only.refl _ _)  (List.Subset.refl _)) (by decide)

theorem calm_dpxCntClr {z s : State} (hK : Calm z s.raises) :
    Calm z (State.dpxCntClr s).raises :=
  hK.after (only_dpxCntClr (Only.refl _ _)  (List.Subset.refl _)) (by decide)

theorem calm_setUnfold {z s : State} (hK : Calm z s.raises) (y : Bool) (u : Option Word) :
    Calm z (State.setUnfold s y u).raises :=
  hK.after (only_setUnfold (Only.refl _ _) y u (List.Subset.refl _)) (by decide)

theorem calm_unfoldAt {z s : State} (hK : Calm z s.raises) (y : Bool) :
    Calm z (State.unfoldAt s y).raises :=
  hK.after (only_unfoldAt (Only.refl _ _) y (List.Subset.refl _)) (by decide)

theorem calm_laneCount {z s : State} (hK : Calm z s.raises) (p l : Nat) (found : Option Nat) :
    Calm z (State.laneCount s p l found).raises :=
  hK.after (only_laneCount (Only.refl _ _) p l found (List.Subset.refl _)) (by decide)

theorem calm_forwardCw {z s : State} (hK : Calm z s.raises) (p l : Nat) (w : List Nat) (raw : List Byte) :
    Calm z (State.forwardCw s p l w raw).raises :=
  hK.after (only_forwardCw (Only.refl _ _) p l w raw (List.Subset.refl _)) (by decide)

theorem calm_nbrSend {z s : State} (hK : Calm z s.raises) (p : Nat) :
    Calm z (State.nbrSend s p).raises :=
  hK.after (only_nbrSend (Only.refl _ _) p (List.Subset.refl _)) (by decide)

theorem calm_uplinkClosed {z s : State} (hK : Calm z s.raises) :
    Calm z (State.uplinkClosed s).raises :=
  hK.after (only_uplinkClosed (Only.refl _ _)  (List.Subset.refl _)) (by decide)

theorem calm_rngCntClr {z s : State} (hK : Calm z s.raises) :
    Calm z (State.rngCntClr s).raises :=
  hK.after (only_rngCntClr (Only.refl _ _)  (List.Subset.refl _)) (by decide)

theorem calm_admGranted {z s : State} (hK : Calm z s.raises) (head : Nat) (scn : Word) (stime : BitVec 48) (next tier : Nat) (stnPb : Bool) :
    Calm z (State.admGranted s head scn stime next tier stnPb).raises :=
  hK.after (only_admGranted (Only.refl _ _) head scn stime next tier stnPb (List.Subset.refl _)) (by decide)

theorem calm_admDenied {z s : State} (hK : Calm z s.raises) (head : Nat) (held : Bool) (reason : Nat) :
    Calm z (State.admDenied s head held reason).raises :=
  hK.after (only_admDenied (Only.refl _ _) head held reason (List.Subset.refl _)) (by decide)

theorem calm_spliceStep {z s : State} (hK : Calm z s.raises) (bad : Bool) :
    Calm z (State.spliceStep s bad).raises :=
  hK.after (only_spliceStep (Only.refl _ _) bad (List.Subset.refl _)) (by decide)

theorem calm_applyStaged {z s : State} (hK : Calm z s.raises) :
    Calm z (State.applyStaged s).raises :=
  hK.after (only_applyStaged (Only.refl _ _)  (List.Subset.refl _)) (by decide)

theorem calm_stationAtMember {z s : State} (hK : Calm z s.raises) :
    Calm z (State.stationAtMember s).raises :=
  hK.after (only_stationAtMember (Only.refl _ _)  (List.Subset.refl _)) (by decide)

theorem calm_clearAtHead {z s : State} (hK : Calm z s.raises) :
    Calm z (State.clearAtHead s).raises :=
  hK.after (only_clearAtHead (Only.refl _ _)  (List.Subset.refl _)) (by decide)

theorem calm_batchReports {z s : State} (hK : Calm z s.raises) :
    Calm z (State.batchReports s).raises :=
  hK.after (only_batchReports (Only.refl _ _)  (List.Subset.refl _)) (by decide)

theorem calm_linkCycle {z s : State} (hK : Calm z s.raises) :
    Calm z (State.linkCycle s).raises :=
  hK.after (only_linkCycle (Only.refl _ _)  (List.Subset.refl _)) (by decide)

theorem calm_cycleClear {z s : State} (hK : Calm z s.raises) :
    Calm z (State.cycleClear s).raises :=
  hK.after (only_cycleClear (Only.refl _ _)  (List.Subset.refl _)) (by decide)

theorem calm_takeEarly {z s : State} (hK : Calm z s.raises) (typ : Nat) {f : Arrival → State → State}
    (hf : ∀ a b, Calm z b.raises → Calm z (f a b).raises) : Calm z (State.takeEarly s typ f).raises := calm_takeAllRx hK _ hf

theorem calm_servoUpdate {z s : State} (hK : Calm z s.raises) (theta t : Frac) (kp ki : Nat) :
    Calm z (State.servoUpdate s theta t kp ki).raises :=
  hK.after (only_servoUpdate (Only.refl _ _) theta t kp ki (List.Subset.refl _)) (by decide)

theorem calm_servoCount {z s : State} (hK : Calm z s.raises) (theta : Frac) :
    Calm z (State.servoCount s theta).raises :=
  hK.after (only_servoCount (Only.refl _ _) theta (List.Subset.refl _)) (by decide)

theorem calm_chainCheck {z s : State} (hK : Calm z s.raises) :
    Calm z (State.chainCheck s).raises :=
  hK.after (only_chainCheck (Only.refl _ _)  (List.Subset.refl _)) (by decide)

theorem calm_plsWrite {z s : State} (hK : Calm z s.raises) (n : Nat) (wgt : Bool) (v : Nat) :
    Calm z (State.plsWrite s n wgt v).raises :=
  hK.after (only_plsWrite (Only.refl _ _) n wgt v (List.Subset.refl _)) (by decide)

theorem calm_snapshot {z s0 : State} (hK : Calm z s0.raises) :
    Calm z (State.snapshot s0).raises :=
  hK.after (only_snapshot (Only.refl _ _)  (List.Subset.refl _)) (by decide)

theorem calm_signWrite {z s : State} (hK : Calm z s.raises) :
    Calm z (State.signWrite s).raises :=
  hK.after (only_signWrite (Only.refl _ _)  (List.Subset.refl _)) (by decide)

theorem calm_respond {z s : State} (hK : Calm z s.raises) (r : Req) (status : Nat) (body : List Byte) :
    Calm z (State.respond s r status body).raises :=
  hK.after (only_respond (Only.refl _ _) r status body (List.Subset.refl _)) (by decide)

theorem calm_mbxData {z s : State} (hK : Calm z s.raises) (m : Master) (n i : Nat) (v : Word) :
    Calm z (State.mbxData s m n i v).1.raises :=
  hK.after (only_mbxData (Only.refl _ _) m n i v (List.Subset.refl _)) (by decide)

theorem calm_mbxCtrl {z s : State} (hK : Calm z s.raises) (m : Master) (n : Nat) (v : Nat) :
    Calm z (State.mbxCtrl s m n v).1.raises :=
  hK.after (only_mbxCtrl (Only.refl _ _) m n v (List.Subset.refl _)) (by decide)

theorem calm_mbxMessage {z s : State} (hK : Calm z s.raises) (src : Nat) (data : List Byte) :
    Calm z (State.mbxMessage s src data).raises :=
  hK.after (only_mbxMessage (Only.refl _ _) src data (List.Subset.refl _)) (by decide)

theorem calm_mbxCntClr {z s : State} (hK : Calm z s.raises) :
    Calm z (State.mbxCntClr s).raises :=
  hK.after (only_mbxCntClr (Only.refl _ _)  (List.Subset.refl _)) (by decide)

theorem calm_answer {z s : State} (hK : Calm z s.raises) (a : Ans) (v : BitVec 64) :
    Calm z (State.answer s a v).raises :=
  hK.after (only_answer (Only.refl _ _) a v (List.Subset.refl _)) (by decide)

theorem calm_closeAll {z s : State} (hK : Calm z s.raises) :
    Calm z (State.closeAll s).raises :=
  hK.after (only_closeAll (Only.refl _ _)  (List.Subset.refl _)) (by decide)

theorem calm_supCntClr {z s : State} (hK : Calm z s.raises) :
    Calm z (State.supCntClr s).raises :=
  hK.after (only_supCntClr (Only.refl _ _)  (List.Subset.refl _)) (by decide)

theorem calm_codeWrite {z s : State} (hK : Calm z s.raises) (r : RegRow) (a mask v : Nat) :
    Calm z (State.codeWrite s r a mask v).raises :=
  hK.after (only_codeWrite (Only.refl _ _) r a mask v (List.Subset.refl _)) (by decide)

theorem calm_readAccess {z s : State} (hK : Calm z s.raises) (m by_ : Master) (a size : Nat) (e : Ecc) :
    Calm z (State.readAccess s m by_ a size e).1.raises :=
  hK.after (only_readAccess (Only.refl _ _) m by_ a size e (List.Subset.refl _)) (by decide)

theorem calm_busRead {z s : State} (hK : Calm z s.raises) (m : Master) (a size : Nat) (e : Ecc) :
    Calm z (State.busRead s m a size e).raises :=
  hK.after (only_busRead (Only.refl _ _) m a size e (List.Subset.refl _)) (by decide)

theorem calm_dropDatagram {z s : State} (hK : Calm z s.raises) :
    Calm z (State.dropDatagram s).raises :=
  hK.after (only_dropDatagram (Only.refl _ _)  (List.Subset.refl _)) (by decide)

theorem calm_heard {z s : State} (hK : Calm z s.raises) (n : Nat) (d : Datagram) :
    Calm z (State.heard s n d).raises :=
  hK.after (only_heard (Only.refl _ _) n d (List.Subset.refl _)) (by decide)

theorem calm_countRx {z s : State} (hK : Calm z s.raises) :
    Calm z (State.countRx s).raises :=
  hK.after (only_countRx (Only.refl _ _)  (List.Subset.refl _)) (by decide)

theorem calm_reqEnd {z s : State} (hK : Calm z s.raises) (r : Req) (status : Nat) (body : List Byte) :
    Calm z (State.reqEnd s r status body).raises :=
  hK.after (only_reqEnd (Only.refl _ _) r status body (List.Subset.refl _)) (by decide)

theorem calm_reqFail {z s : State} (hK : Calm z s.raises) (r : Req) (status : Nat) (done : Nat) (ws : List Word) :
    Calm z (State.reqFail s r status done ws).raises :=
  hK.after (only_reqFail (Only.refl _ _) r status done ws (List.Subset.refl _)) (by decide)

theorem calm_countReq {z s : State} (hK : Calm z s.raises) :
    Calm z (State.countReq s).raises :=
  hK.after (only_countReq (Only.refl _ _)  (List.Subset.refl _)) (by decide)

theorem calm_setActive {z s : State} (hK : Calm z s.raises) (a : Option Active) :
    Calm z (State.setActive s a).raises :=
  hK.after (only_setActive (Only.refl _ _) a (List.Subset.refl _)) (by decide)

theorem calm_readWords {z s : State} (hK : Calm z s.raises) (by_ : Master) (n a : Nat) : Calm z (State.readWords s by_ n a).1.raises := by
  induction n generalizing s a with
  | zero => exact hK
  | succ n ih =>
    have h := calm_readAccess hK .ha by_ a 4 .clean
    unfold State.readWords
    split
    · next s1 v heq => rw [heq] at h; exact h
    · next s1 r v _ heq => rw [heq] at h; exact ih h _

theorem calm_sendRra {z s : State} (hK : Calm z s.raises) (node master tag : Nat) (st : HostStep) :
    Calm z (State.sendRra s node master tag st).raises :=
  hK.after (only_sendRra (Only.refl _ _) node master tag st (List.Subset.refl _)) (by decide)

theorem calm_goRemote {z s : State} (hK : Calm z s.raises) (r : Req) (steps : List HostStep) :
    Calm z (State.goRemote s r steps).raises :=
  hK.after (only_goRemote (Only.refl _ _) r steps (List.Subset.refl _)) (by decide)

theorem calm_startRead {z s : State} (hK : Calm z s.raises) (r : Req) :
    Calm z (State.startRead s r).raises :=
  hK.after (only_startRead (Only.refl _ _) r (List.Subset.refl _)) (by decide)

theorem calm_startTime {z s : State} (hK : Calm z s.raises) (r : Req) :
    Calm z (State.startTime s r).raises :=
  hK.after (only_startTime (Only.refl _ _) r (List.Subset.refl _)) (by decide)

theorem calm_recvWait {z s : State} (hK : Calm z s.raises) (r : Req) :
    Calm z (State.recvWait s r).raises :=
  hK.after (only_recvWait (Only.refl _ _) r (List.Subset.refl _)) (by decide)

theorem calm_startAttest {z s : State} (hK : Calm z s.raises) (r : Req) :
    Calm z (State.startAttest s r).raises :=
  hK.after (only_startAttest (Only.refl _ _) r (List.Subset.refl _)) (by decide)

theorem calm_batchAck {z s : State} (hK : Calm z s.raises) (id : Word) (src : Nat) :
    Calm z (State.batchAck s id src).raises :=
  hK.after (only_batchAck (Only.refl _ _) id src (List.Subset.refl _)) (by decide)

theorem calm_hostAnswer {z s : State} (hK : Calm z s.raises) (src done err : Nat) (ws : List Word) :
    Calm z (State.hostAnswer s src done err ws).raises :=
  hK.after (only_hostAnswer (Only.refl _ _) src done err ws (List.Subset.refl _)) (by decide)

theorem calm_rraEnd {z s : State} (hK : Calm z s.raises) (err done : Nat) :
    Calm z (State.rraEnd s err done).raises :=
  hK.after (only_rraEnd (Only.refl _ _) err done (List.Subset.refl _)) (by decide)

theorem calm_rraFill {z s : State} (hK : Calm z s.raises) (ws : List Word) :
    Calm z (State.rraFill s ws).raises :=
  hK.after (only_rraFill (Only.refl _ _) ws (List.Subset.refl _)) (by decide)

theorem calm_relayMessage {z s : State} (hK : Calm z s.raises) (src : Nat) (d : List Byte) :
    Calm z (State.relayMessage s src d).raises :=
  hK.after (only_relayMessage (Only.refl _ _) src d (List.Subset.refl _)) (by decide)

/-! ### Operations that let raises wait and have them taken -/

theorem calm_windowClose {z s : State} (h : Nat) (a : SafeCopy) (b : Option SafeCopy) :
    Calm z (State.windowClose s h a b).raises := by
  unfold State.windowClose
  try dsimp only
  repeat' first
    | with_reducible assumption
    | with_reducible exact calm_raiseDue _ _
    | with_reducible apply calm_setSafHead
    | with_reducible apply calm_bumpReg
    | with_reducible apply calm_safResult
    | with_reducible apply calm_clearInit
    | with_reducible apply Calm.iteFst
    | with_reducible apply Calm.ite
    | (intro _ _ _)
    | (intro _ _)
    | split
    | dsimp only

theorem calm_windowEnd {z s : State} (hK : Calm z s.raises) (h : Nat) :
    Calm z (State.windowEnd s h).raises := by
  unfold State.windowEnd
  try dsimp only
  repeat' first
    | with_reducible assumption
    | with_reducible exact calm_raiseDue _ _
    | with_reducible apply calm_runToTick
    | with_reducible apply calm_windowClose
    | (intro _ _ _)
    | (intro _ _)
    | split
    | dsimp only

theorem calm_windowLapsed {z s : State} (hK : Calm z s.raises) (h : Nat) :
    Calm z (State.windowLapsed s h).raises := by
  unfold State.windowLapsed
  try dsimp only
  repeat' first
    | with_reducible assumption
    | with_reducible exact calm_raiseDue _ _
    | with_reducible apply calm_windowEnd
    | with_reducible apply Calm.ite
    | (intro _ _ _)
    | (intro _ _)
    | dsimp only

theorem calm_safeReceived {z s : State} (hK : Calm z s.raises) (a : Arrival) :
    Calm z (State.safeReceived s a).raises := by
  unfold State.safeReceived
  try dsimp only
  repeat' first
    | with_reducible assumption
    | with_reducible exact calm_raiseDue _ _
    | with_reducible apply calm_windowLapsed
    | with_reducible apply calm_setSafHead
    | with_reducible apply calm_windowClose
    | with_reducible apply Calm.foldlFst
    | with_reducible apply Calm.foldl
    | with_reducible apply Calm.ite
    | (intro _ _ _)
    | (intro _ _)
    | split
    | dsimp only

theorem calm_eccDoom {z s : State} (hK : Calm z s.raises) (g : Nat) :
    Calm z (State.eccDoom s g).raises := by
  unfold State.eccDoom
  try dsimp only
  repeat' first
    | with_reducible assumption
    | with_reducible exact calm_raiseDue _ _
    | with_reducible apply calm_setEngGroup
    | with_reducible apply Calm.foldlFst
    | with_reducible apply Calm.foldl
    | with_reducible apply Calm.iteFst
    | with_reducible apply Calm.ite
    | (intro _ _ _)
    | (intro _ _)
    | split
    | dsimp only

theorem calm_rgTrigger {z s : State} (hK : Calm z s.raises) (g : Nat) :
    Calm z (State.rgTrigger s g).raises := by
  unfold State.rgTrigger
  try dsimp only
  repeat' first
    | with_reducible assumption
    | with_reducible exact calm_raiseDue _ _
    | with_reducible apply calm_setEngGroup
    | with_reducible apply calm_runToTick
    | with_reducible apply calm_dropTrigger
    | with_reducible apply calm_groupLatch
    | with_reducible apply calm_eccDoom
    | with_reducible apply Calm.ite
    | (intro _ _ _)
    | (intro _ _)
    | split
    | dsimp only

theorem calm_peekCopy {z s : State} (hK : Calm z s.raises) (n : Nat) :
    Calm z (State.peekCopy s n).raises := by
  unfold State.peekCopy
  try dsimp only
  repeat' first
    | with_reducible assumption
    | with_reducible exact calm_raiseDue _ _
    | with_reducible apply calm_setFlag
    | with_reducible apply Calm.wr
    | with_reducible apply Calm.forUpTo
    | with_reducible apply Calm.ite
    | (intro _ _ _)
    | (intro _ _)
    | split
    | dsimp only

theorem calm_commitAt {z s : State} (hK : Calm z s.raises) (g : Nat) (es : List Eval) :
    Calm z (State.commitAt s g es).raises := by
  unfold State.commitAt
  try dsimp only
  repeat' first
    | with_reducible assumption
    | with_reducible exact calm_raiseDue _ _
    | with_reducible apply calm_writeDest
    | with_reducible apply calm_put
    | with_reducible apply calm_groupIdle
    | with_reducible apply calm_balTrigger
    | with_reducible apply calm_peekCopy
    | with_reducible apply Calm.foldlFst
    | with_reducible apply Calm.foldl
    | with_reducible apply Calm.ite
    | (intro _ _ _)
    | (intro _ _)
    | split
    | dsimp only

theorem calm_groupCommit {z s : State} (hK : Calm z s.raises) (g : Nat) :
    Calm z (State.groupCommit s g).raises := by
  unfold State.groupCommit
  try dsimp only
  repeat' first
    | with_reducible assumption
    | with_reducible exact calm_raiseDue _ _
    | with_reducible apply calm_eccDoom
    | with_reducible apply calm_groupMiss
    | with_reducible apply calm_runToTick
    | with_reducible apply calm_commitAt
    | with_reducible apply Calm.ite
    | (intro _ _ _)
    | (intro _ _)
    | split
    | dsimp only

theorem calm_swapSlot {z s : State} (hK : Calm z s.raises) (n : Nat) :
    Calm z (State.swapSlot s n).1.raises := by
  unfold State.swapSlot
  try dsimp only
  repeat' first
    | with_reducible assumption
    | with_reducible exact calm_raiseDue _ _
    | with_reducible apply calm_put
    | with_reducible apply calm_setFlag
    | with_reducible apply calm_setEngSlot
    | with_reducible apply calm_raise
    | with_reducible apply Calm.iteFst
    | with_reducible apply Calm.ite
    | (intro _ _ _)
    | (intro _ _)
    | split
    | dsimp only

theorem calm_swapSlots {z s : State} (hK : Calm z s.raises) (armed : List Nat) :
    Calm z (State.swapSlots s armed).1.raises := by
  unfold State.swapSlots
  try dsimp only
  repeat' first
    | with_reducible assumption
    | with_reducible exact calm_raiseDue _ _
    | with_reducible apply calm_swapSlot
    | with_reducible apply Calm.foldlFst
    | with_reducible apply Calm.foldl
    | with_reducible apply Calm.iteFst
    | with_reducible apply Calm.ite
    | (intro _ _ _)
    | (intro _ _)
    | dsimp only

theorem calm_swapAtBoundary {z s : State} (hK : Calm z s.raises) :
    Calm z (State.swapAtBoundary s).raises := by
  unfold State.swapAtBoundary
  try dsimp only
  repeat' first
    | with_reducible assumption
    | with_reducible exact calm_raiseDue _ _
    | with_reducible apply calm_swapSlots
    | with_reducible apply calm_put
    | with_reducible apply Calm.wr
    | with_reducible apply Calm.iteFst
    | with_reducible apply Calm.ite
    | (intro _ _ _)
    | (intro _ _)
    | dsimp only

theorem calm_peekRequest {z s : State} (hK : Calm z s.raises) (n : Nat) :
    Calm z (State.peekRequest s n).raises := by
  unfold State.peekRequest
  try dsimp only
  repeat' first
    | with_reducible assumption
    | with_reducible exact calm_raiseDue _ _
    | with_reducible apply calm_put
    | with_reducible apply calm_setFlag
    | with_reducible apply calm_peekCopy
    | with_reducible apply Calm.ite
    | (intro _ _ _)
    | (intro _ _)
    | dsimp only

theorem calm_balancerCommit {z s : State} (hK : Calm z s.raises) (locked : Bool) :
    Calm z (State.balancerCommit s locked).raises := by
  unfold State.balancerCommit
  try dsimp only
  repeat' first
    | with_reducible assumption
    | with_reducible exact calm_raiseDue _ _
    | with_reducible apply calm_put
    | with_reducible apply calm_setFlag
    | with_reducible apply calm_balSecs
    | with_reducible apply calm_balJoin
    | with_reducible apply calm_outItem
    | with_reducible apply Calm.foldlFst
    | with_reducible apply Calm.foldl
    | with_reducible apply Calm.iteFst
    | with_reducible apply Calm.ite
    | (intro _ _ _)
    | (intro _ _)
    | split
    | dsimp only

theorem calm_resetNode {z s : State} (hK : Calm z s.raises) (por pg : Bool) :
    Calm z (State.resetNode s por pg).raises := by
  unfold State.resetNode
  try dsimp only
  repeat' first
    | with_reducible assumption
    | with_reducible exact calm_raiseDue _ _
    | with_reducible apply calm_updStop
    | with_reducible apply calm_setFlag
    | with_reducible apply Calm.wr
    | with_reducible apply Calm.iteFst
    | with_reducible apply Calm.ite
    | (intro _ _ _)
    | (intro _ _)
    | dsimp only
    | exact ⟨fun _ => rfl⟩

theorem calm_softReset {z s : State} (hK : Calm z s.raises) :
    Calm z (State.softReset s).raises := by
  unfold State.softReset
  try dsimp only
  repeat' first
    | with_reducible assumption
    | with_reducible exact calm_raiseDue _ _
    | with_reducible apply calm_resetNode
    | with_reducible apply calm_setFlag
    | (intro _ _ _)
    | (intro _ _)
    | dsimp only

theorem calm_trialFail {z s : State} (hK : Calm z s.raises) (err : Nat) :
    Calm z (State.trialFail s err).raises := by
  unfold State.trialFail
  try dsimp only
  repeat' first
    | with_reducible assumption
    | with_reducible exact calm_raiseDue _ _
    | with_reducible apply calm_setSlotSt
    | with_reducible apply calm_put
    | with_reducible apply calm_softReset
    | (intro _ _ _)
    | (intro _ _)
    | dsimp only

theorem calm_trialTimeout {z s : State} (hK : Calm z s.raises) :
    Calm z (State.trialTimeout s).raises := by
  unfold State.trialTimeout
  try dsimp only
  repeat' first
    | with_reducible assumption
    | with_reducible exact calm_raiseDue _ _
    | with_reducible apply calm_runUp
    | with_reducible apply calm_trialFail
    | with_reducible apply Calm.when
    | (intro _ _ _)
    | (intro _ _)
    | dsimp only

theorem calm_batchStage {z s : State} (hK : Calm z s.raises) (id c : Word) (count : Nat) (items : List (Word × Word)) :
    Calm z (State.batchStage s id c count items).raises := by
  unfold State.batchStage
  try dsimp only
  repeat' first
    | with_reducible assumption
    | with_reducible exact calm_raiseDue _ _
    | with_reducible apply calm_ledItems
    | with_reducible apply calm_batchFault
    | with_reducible apply calm_ledNew
    | with_reducible apply Calm.ite
    | (intro _ _ _)
    | (intro _ _)
    | split
    | dsimp only

theorem calm_batchCancel {z s : State} (hK : Calm z s.raises) (id : Word) (dist : Bool) :
    Calm z (State.batchCancel s id dist).raises := by
  unfold State.batchCancel
  try dsimp only
  repeat' first
    | with_reducible assumption
    | with_reducible exact calm_raiseDue _ _
    | with_reducible apply Calm.foldlFst
    | with_reducible apply Calm.foldl
    | with_reducible apply Calm.when
    | (intro _ _ _)
    | (intro _ _)
    | dsimp only

theorem calm_demote {z s : State} (hK : Calm z s.raises) (st code : Nat) :
    Calm z (State.demote s st code).raises := by
  unfold State.demote
  try dsimp only
  repeat' first
    | with_reducible assumption
    | with_reducible exact calm_raiseDue _ _
    | (intro _ _ _)
    | (intro _ _)
    | dsimp only

theorem calm_hbAtHead {z s : State} (hK : Calm z s.raises) (src tier role flags : Nat) (swap : Word) (prim : Bool) :
    Calm z (State.hbAtHead s src tier role flags swap prim).raises := by
  unfold State.hbAtHead
  try dsimp only
  repeat' first
    | with_reducible assumption
    | with_reducible exact calm_raiseDue _ _
    | with_reducible apply calm_seeTier
    | with_reducible apply calm_put
    | with_reducible apply calm_demote
    | with_reducible apply calm_raise
    | with_reducible apply calm_selectUp
    | with_reducible apply calm_setFlag
    | with_reducible apply calm_toDpx
    | with_reducible apply Calm.when
    | with_reducible apply Calm.ite
    | (intro _ _ _)
    | (intro _ _)
    | dsimp only

theorem calm_hbReceived {z s : State} (hK : Calm z s.raises) (a : Arrival) :
    Calm z (State.hbReceived s a).raises := by
  unfold State.hbReceived
  try dsimp only
  repeat' first
    | with_reducible assumption
    | with_reducible exact calm_raiseDue _ _
    | with_reducible apply calm_hbAtHead
    | with_reducible apply calm_hbAtMember
    | with_reducible apply Calm.when
    | with_reducible apply Calm.ite
    | (intro _ _ _)
    | (intro _ _)
    | dsimp only

theorem calm_swapCancelDpx {z s : State} (hK : Calm z s.raises) :
    Calm z (State.swapCancelDpx s).raises := by
  unfold State.swapCancelDpx
  try dsimp only
  repeat' first
    | with_reducible assumption
    | with_reducible exact calm_raiseDue _ _
    | with_reducible apply Calm.when
    | (intro _ _ _)
    | (intro _ _)
    | dsimp only

theorem calm_foldPort {z s : State} (hK : Calm z s.raises) (p : Nat) :
    Calm z (State.foldPort s p).raises := by
  unfold State.foldPort
  try dsimp only
  repeat' first
    | with_reducible assumption
    | with_reducible exact calm_raiseDue _ _
    | with_reducible apply calm_setUnfold
    | with_reducible apply calm_setRingState
    | with_reducible apply calm_bumpReg
    | with_reducible apply calm_selectUp
    | with_reducible apply Calm.ite
    | (intro _ _ _)
    | (intro _ _)
    | dsimp only

theorem calm_markRuns {z s : State} (hK : Calm z s.raises) (p l : Nat) (mark : Bool) :
    Calm z (State.markRuns s p l mark).raises := by
  unfold State.markRuns
  try dsimp only
  repeat' first
    | with_reducible assumption
    | with_reducible exact calm_raiseDue _ _
    | with_reducible apply calm_setLane
    | with_reducible apply calm_setPort
    | with_reducible apply calm_foldPort
    | with_reducible apply calm_ringUp
    | with_reducible apply Calm.ite
    | (intro _ _ _)
    | (intro _ _)
    | dsimp only

theorem calm_codewordIn {z s : State} (hK : Calm z s.raises) (p l : Nat) (lv : List Int) :
    Calm z (State.codewordIn s p l lv).raises := by
  unfold State.codewordIn
  try dsimp only
  repeat' first
    | with_reducible assumption
    | with_reducible exact calm_raiseDue _ _
    | with_reducible apply calm_setLane
    | with_reducible apply calm_laneCount
    | with_reducible apply calm_hand
    | with_reducible apply calm_markRuns
    | with_reducible apply calm_forwardCw
    | with_reducible apply Calm.when
    | with_reducible apply Calm.iteFst
    | with_reducible apply Calm.ite
    | (intro _ _ _)
    | (intro _ _)
    | split
    | dsimp only

theorem calm_lineIn {z s : State} (hK : Calm z s.raises) (p l : Nat) (lv : List Int) :
    Calm z (State.lineIn s p l lv).raises := by
  unfold State.lineIn
  try dsimp only
  repeat' first
    | with_reducible assumption
    | with_reducible exact calm_raiseDue _ _
    | with_reducible apply calm_frameHears
    | with_reducible apply calm_trainHears
    | with_reducible apply calm_codewordIn
    | with_reducible apply Calm.ite
    | (intro _ _ _)
    | (intro _ _)
    | dsimp only

theorem calm_upReceived {z s : State} (hK : Calm z s.raises) (a : Arrival) :
    Calm z (State.upReceived s a).raises := by
  unfold State.upReceived
  try dsimp only
  repeat' first
    | with_reducible assumption
    | with_reducible exact calm_raiseDue _ _
    | with_reducible apply calm_seeTier
    | with_reducible apply Calm.foldlFst
    | with_reducible apply Calm.foldl
    | with_reducible apply Calm.when
    | with_reducible apply Calm.iteFst
    | with_reducible apply Calm.ite
    | (intro _ _ _)
    | (intro _ _)
    | dsimp only

theorem calm_uplinkTaken {z s : State} (hK : Calm z s.raises) :
    Calm z (State.uplinkTaken s).raises := by
  unfold State.uplinkTaken
  try dsimp only
  repeat' first
    | with_reducible assumption
    | with_reducible exact calm_raiseDue _ _
    | with_reducible apply calm_runIn
    | with_reducible apply calm_takeAllRx
    | with_reducible apply calm_upReceived
    | (intro _ _ _)
    | (intro _ _)
    | dsimp only

theorem calm_uplinkJudge {z s : State} (hK : Calm z s.raises) :
    Calm z (State.uplinkJudge s).raises := by
  unfold State.uplinkJudge
  try dsimp only
  repeat' first
    | with_reducible assumption
    | with_reducible exact calm_raiseDue _ _
    | with_reducible apply calm_publishDerating
    | with_reducible apply calm_glazeCurrent
    | with_reducible apply Calm.foldlFst
    | with_reducible apply Calm.foldl
    | with_reducible apply Calm.iteFst
    | with_reducible apply Calm.ite
    | (intro _ _ _)
    | (intro _ _)
    | dsimp only

theorem calm_uplinkDeadline {z s : State} (hK : Calm z s.raises) :
    Calm z (State.uplinkDeadline s).raises := by
  unfold State.uplinkDeadline
  try dsimp only
  repeat' first
    | with_reducible assumption
    | with_reducible exact calm_raiseDue _ _
    | with_reducible apply calm_uplinkTaken
    | with_reducible apply calm_uplinkJudge
    | with_reducible apply calm_uplinkClosed
    | with_reducible apply Calm.ite
    | (intro _ _ _)
    | (intro _ _)
    | dsimp only

theorem calm_dnReceived {z s : State} (hK : Calm z s.raises) (a : Arrival) :
    Calm z (State.dnReceived s a).raises := by
  unfold State.dnReceived
  try dsimp only
  repeat' first
    | with_reducible assumption
    | with_reducible exact calm_raiseDue _ _
    | with_reducible apply calm_sendDir
    | with_reducible apply calm_bump
    | with_reducible apply Calm.foldlFst
    | with_reducible apply Calm.foldl
    | with_reducible apply Calm.when
    | with_reducible apply Calm.ite
    | (intro _ _ _)
    | (intro _ _)
    | dsimp only

theorem calm_ackReceived {z s : State} (hK : Calm z s.raises) (a : Arrival) :
    Calm z (State.ackReceived s a).raises := by
  unfold State.ackReceived
  try dsimp only
  repeat' first
    | with_reducible assumption
    | with_reducible exact calm_raiseDue _ _
    | with_reducible apply calm_setMember
    | with_reducible apply Calm.foldlFst
    | with_reducible apply Calm.foldl
    | with_reducible apply Calm.ite
    | (intro _ _ _)
    | (intro _ _)
    | dsimp only

theorem calm_admFail {z s : State} (hK : Calm z s.raises) (pos adm reason : Nat) :
    Calm z (State.admFail s pos adm reason).raises := by
  unfold State.admFail
  try dsimp only
  repeat' first
    | with_reducible assumption
    | with_reducible exact calm_raiseDue _ _
    | with_reducible apply calm_setMember
    | with_reducible apply calm_setAsk
    | with_reducible apply calm_raise
    | with_reducible apply calm_admission
    | with_reducible apply Calm.emit
    | with_reducible apply Calm.ite
    | (intro _ _ _)
    | (intro _ _)
    | dsimp only

theorem calm_admPass {z s : State} (hK : Calm z s.raises) (pos : Nat) :
    Calm z (State.admPass s pos).raises := by
  unfold State.admPass
  try dsimp only
  repeat' first
    | with_reducible assumption
    | with_reducible exact calm_raiseDue _ _
    | with_reducible apply calm_setMember
    | with_reducible apply calm_admission
    | with_reducible apply Calm.emit
    | (intro _ _ _)
    | (intro _ _)
    | dsimp only

theorem calm_admRequest {z s : State} (hK : Calm z s.raises) (pos epoch minEpoch : Nat) (dig : BitVec 64) (listsUs timeOk : Bool) (device : BitVec 64) :
    Calm z (State.admRequest s pos epoch minEpoch dig listsUs timeOk device).raises := by
  unfold State.admRequest
  try dsimp only
  repeat' first
    | with_reducible assumption
    | with_reducible exact calm_raiseDue _ _
    | with_reducible apply calm_admFail
    | with_reducible apply calm_setAsk
    | with_reducible apply calm_admPass
    | with_reducible apply Calm.ite
    | (intro _ _ _)
    | (intro _ _)
    | dsimp only

theorem calm_admRetry {z s : State} (hK : Calm z s.raises) (pos : Nat) (timeOk : Bool) :
    Calm z (State.admRetry s pos timeOk).raises := by
  unfold State.admRetry
  try dsimp only
  repeat' first
    | with_reducible assumption
    | with_reducible exact calm_raiseDue _ _
    | with_reducible apply calm_admPass
    | with_reducible apply calm_admFail
    | with_reducible apply Calm.when
    | with_reducible apply Calm.ite
    | (intro _ _ _)
    | (intro _ _)
    | dsimp only

theorem calm_boundaryOnce {z s : State} (hK : Calm z s.raises) (bad : Bool) :
    Calm z (State.boundaryOnce s bad).raises := by
  unfold State.boundaryOnce
  try dsimp only
  repeat' first
    | with_reducible assumption
    | with_reducible exact calm_raiseDue _ _
    | with_reducible apply calm_spliceStep
    | with_reducible apply calm_unfoldAt
    | with_reducible apply calm_applyStaged
    | with_reducible apply calm_stationAtMember
    | with_reducible apply calm_balMember
    | with_reducible apply calm_clearAtHead
    | with_reducible apply calm_swapAtBoundary
    | with_reducible apply calm_offerBoundary
    | with_reducible apply calm_batchReports
    | with_reducible apply calm_safBoundary
    | with_reducible apply calm_cycleClear
    | with_reducible apply calm_linkCycle
    | with_reducible apply calm_nbrSend
    | with_reducible apply Calm.wr
    | with_reducible apply Calm.forUpTo
    | with_reducible apply Calm.when
    | (intro _ _ _)
    | (intro _ _)
    | dsimp only

theorem calm_cycleBoundary {z s : State} (hK : Calm z s.raises) (bad : Bool) :
    Calm z (State.cycleBoundary s bad).raises := by
  unfold State.cycleBoundary
  try dsimp only
  repeat' first
    | with_reducible assumption
    | with_reducible exact calm_raiseDue _ _
    | with_reducible apply calm_runTo
    | with_reducible apply calm_takeEarly
    | with_reducible apply calm_hbReceived
    | with_reducible apply calm_dnReceived
    | with_reducible apply calm_boundaryOnce
    | (intro _ _ _)
    | (intro _ _)
    | dsimp only

theorem calm_takePassed {z s : State} (hK : Calm z s.raises) (n : Nat) : Calm z (State.takePassed n s).raises := by
  induction n generalizing s with
  | zero => exact hK
  | succ n ih => exact Calm.ite (ih (calm_boundaryOnce hK _)) hK

theorem calm_stepTime {z s : State} (hK : Calm z s.raises) (theta : Frac) : Calm z (State.stepTime s theta).raises := by
  unfold State.stepTime
  refine Calm.ite (calm_carriersMoved ?_ _) (calm_takePassed (calm_tpoStep (calm_carriersMoved (Calm.forUpTo ?_ ?_) _)) _)
  · exact hK
  · exact hK
  · exact fun _ _ hb => calm_wrapped hb

theorem calm_servoStep {z s : State} (hK : Calm z s.raises) (theta t : Frac) (kp ki : Nat) (host : Bool) :
    Calm z (State.servoStep s theta t kp ki host).raises := by
  unfold State.servoStep
  try dsimp only
  repeat' first
    | with_reducible assumption
    | with_reducible exact calm_raiseDue _ _
    | with_reducible apply calm_setServo
    | with_reducible apply calm_setY
    | with_reducible apply calm_stepTime
    | with_reducible apply calm_servoUpdate
    | with_reducible apply calm_servoCount
    | with_reducible apply Calm.ite
    | (intro _ _ _)
    | (intro _ _)
    | dsimp only

theorem calm_linkMeasurement {z s : State} (hK : Calm z s.raises) (p : Nat) :
    Calm z (State.linkMeasurement s p).raises := by
  unfold State.linkMeasurement
  try dsimp only
  repeat' first
    | with_reducible assumption
    | with_reducible exact calm_raiseDue _ _
    | with_reducible apply calm_wrN
    | with_reducible apply calm_setLink
    | with_reducible apply calm_selectUp
    | with_reducible apply calm_setChain
    | with_reducible apply calm_servoStep
    | with_reducible apply calm_setFlag
    | with_reducible apply calm_chainCheck
    | with_reducible apply Calm.when
    | with_reducible apply Calm.ite
    | (intro _ _ _)
    | (intro _ _)
    | split
    | dsimp only

theorem calm_offsetWrite {z s : State} (hK : Calm z s.raises) (v : Nat) :
    Calm z (State.offsetWrite s v).raises := by
  unfold State.offsetWrite
  try dsimp only
  repeat' first
    | with_reducible assumption
    | with_reducible exact calm_raiseDue _ _
    | with_reducible apply calm_setFlag
    | with_reducible apply calm_hostBack
    | with_reducible apply calm_servoStep
    | with_reducible apply Calm.ite
    | (intro _ _ _)
    | (intro _ _)
    | dsimp only

theorem calmO_cmdWrite {z s : State} (hK : Calm z s.raises) (m : Master) (b o v : Nat) : CalmO z (s.cmdWrite m b o v) := by
  unfold State.cmdWrite
  dsimp only
  split
  all_goals repeat' first
    | with_reducible assumption
    | with_reducible apply CalmO.none
    | with_reducible apply CalmO.ite
    | with_reducible apply CalmO.some
    | with_reducible apply calm_rstCtrlWrite
    | with_reducible apply calm_updCmd
    | with_reducible apply calm_updErase
    | with_reducible apply calm_updProgram
    | with_reducible apply calm_updStart
    | with_reducible apply calm_updArm
    | with_reducible apply calm_updAbort
    | with_reducible apply calm_chillWrite
    | with_reducible apply calm_trainWrite
    | with_reducible apply calm_lnkCntClr
    | with_reducible apply calm_rngCntClr
    | with_reducible apply calm_offsetWrite
    | with_reducible apply calm_tpoCtrl
    | with_reducible apply calm_tpoConfig
    | with_reducible apply calm_ceCntClr
    | with_reducible apply calm_swapCancel
    | with_reducible apply calm_swapGo
    | with_reducible apply calm_setFlag
    | with_reducible apply calm_provWrite
    | with_reducible apply calm_peekRequest
    | with_reducible apply calm_put
    | with_reducible apply calm_balReqWrite
    | with_reducible apply calm_rearm
    | with_reducible apply calm_pwmCntClr
    | with_reducible apply calm_groupClear
    | with_reducible apply calm_pwmCtrlWrite
    | with_reducible apply calm_shadowWrite
    | with_reducible apply calm_gdCntClr
    | with_reducible apply calm_injNow
    | with_reducible apply calm_lpWrite
    | with_reducible apply calm_adcCntClr
    | with_reducible apply calm_chWrite
    | with_reducible apply calm_signWrite
    | with_reducible apply calm_snapshot
    | with_reducible apply calm_plsWrite
    | with_reducible apply calm_swapRequest
    | with_reducible apply calm_swapCancelDpx
    | with_reducible apply calm_dpxCntClr
    | with_reducible apply calm_safCntClr
    | with_reducible apply calm_stationClear
    | with_reducible apply calm_recordClear
    | with_reducible apply calm_memCntClr
    | with_reducible apply calm_scrubAbort
    | with_reducible apply calm_scrubGo
    | with_reducible apply calm_memRepair
    | with_reducible apply calm_logSel
    | with_reducible apply calm_supCntClr
    | with_reducible apply calm_closeAll
    | with_reducible apply calm_mbxCntClr
    | with_reducible apply Calm.when
    | with_reducible apply Calm.ite
    | split
    | (intro _ _)

theorem calm_regWrite {z s : State} (hK : Calm z s.raises) (m by_ : Master) (r : RegRow) (a mask v : Nat) : Calm z (State.regWrite s m by_ r a mask v).raises := by
  unfold State.regWrite
  have h1 := Calm.when (c := s.sys.bootLock && ((s.num a ^^^ v) &&& r.rl &&& mask) != 0)
    (f := (·.violation by_ true a)) hK fun b hb => calm_violation hb _ _ _
  dsimp only
  split
  · next s2 h => exact calmO_cmdWrite h1 _ _ _ _ s2 h
  · exact calm_ckoLoaded (calm_codeWrite h1 _ _ _ _) _

theorem calm_writeAccess {z s : State} (hK : Calm z s.raises) (m by_ : Master) (a size v : Nat) (e : Ecc) : Calm z (State.writeAccess s m by_ a size v e).1.raises := by
  unfold State.writeAccess
  extract_lets viol pr s1 bad mask n w x
  have hv : ∀ b, Calm z b.raises → Calm z (viol b).1.raises := fun b hb => calm_violation hb _ _ _
  have h1 : Calm z s1.raises := calm_eccMerge hK _ _
  refine Calm.iteFst hK (Calm.iteFst ?_ (Calm.iteFst hK (Calm.iteFst ?_ ?_)))
  · refine Calm.iteFst (hv s hK) (Calm.iteFst ((calm_eccClear hK _).storeLe _ _ _) ?_)
    exact Calm.iteFst h1 (h1.storeLe _ _ _)
  · exact Calm.iteFst (hv s hK) (Calm.iteFst h1 (calm_slotWrite h1 _ _ _))
  · split
    · next n w _ =>
      refine Calm.iteFst ?_ (Calm.iteFst ?_ ?_)
      · have h := calm_mbxData hK m n (w / 4) (BitVec.ofNat 32 v)
        split
        · next s1 heq => rw [heq] at h; exact hv s1 h
        · exact h
      · have h := calm_mbxCtrl hK m n v
        split
        · next s1 heq => rw [heq] at h; exact hv s1 h
        · exact h
      · split
        · exact hK
        · exact Calm.iteFst (hv s hK) (calm_regWrite hK _ _ _ _ _ _)
    · split
      · exact hK
      · refine Calm.iteFst (calm_rstCtrlWrite hK _ _) (Calm.iteFst (hv s hK) ?_)
        refine (Calm.iteFst (hv _ (calm_scrubGo hK _)) (Calm.iteFst (hv _ (calm_memRepair hK _ _)) ?_))
        exact Calm.iteFst (hv _ (calm_setFlag hK _ _)) (Calm.iteFst (hv s hK) (Calm.iteFst hK (calm_regWrite hK _ _ _ _ _ _)))

theorem calm_writeWords {z s : State} (hK : Calm z s.raises) (by_ : Master) (ws : List Word) (a : Nat) : Calm z (State.writeWords s by_ ws a).1.raises := by
  induction ws generalizing s a with
  | nil => exact hK
  | cons w t ih =>
    have h := calm_writeAccess hK .ha by_ a 4 w.toNat .clean
    unfold State.writeWords
    split
    · next s1 heq => rw [heq] at h; exact h
    · next s1 r _ heq => rw [heq] at h; exact ih h _

theorem calm_startWrite {z s : State} (hK : Calm z s.raises) (r : Req) :
    Calm z (State.startWrite s r).raises := by
  unfold State.startWrite
  try dsimp only
  repeat' first
    | with_reducible assumption
    | with_reducible exact calm_raiseDue _ _
    | with_reducible apply calm_reqFail
    | with_reducible apply calm_countReq
    | with_reducible apply calm_writeWords
    | with_reducible apply calm_goRemote
    | with_reducible apply Calm.iteFst
    | with_reducible apply Calm.ite
    | (intro _ _ _)
    | (intro _ _)
    | dsimp only

theorem calm_recvLocal {z s : State} (hK : Calm z s.raises) (r : Req) :
    Calm z (State.recvLocal s r).raises := by
  unfold State.recvLocal
  try dsimp only
  repeat' first
    | with_reducible assumption
    | with_reducible exact calm_raiseDue _ _
    | with_reducible apply calm_readWords
    | with_reducible apply calm_writeWords
    | with_reducible apply calm_reqEnd
    | (intro _ _ _)
    | (intro _ _)
    | dsimp only

theorem calm_startMbx {z s : State} (hK : Calm z s.raises) (r : Req) :
    Calm z (State.startMbx s r).raises := by
  unfold State.startMbx
  try dsimp only
  repeat' first
    | with_reducible assumption
    | with_reducible exact calm_raiseDue _ _
    | with_reducible apply calm_reqFail
    | with_reducible apply calm_countReq
    | with_reducible apply calm_writeWords
    | with_reducible apply calm_goRemote
    | with_reducible apply calm_recvLocal
    | with_reducible apply calm_recvWait
    | with_reducible apply calm_readWords
    | with_reducible apply calm_reqEnd
    | with_reducible apply Calm.wr
    | with_reducible apply Calm.iteFst
    | with_reducible apply Calm.ite
    | (intro _ _ _)
    | (intro _ _)
    | split
    | dsimp only

theorem calm_stageAt {z s : State} (hK : Calm z s.raises) (id c : Word) (p : Nat) (items : List (Word × Word)) :
    Calm z (State.stageAt s id c p items).raises := by
  unfold State.stageAt
  try dsimp only
  repeat' first
    | with_reducible assumption
    | with_reducible exact calm_raiseDue _ _
    | with_reducible apply calm_batchStage
    | with_reducible apply calm_batchAck
    | with_reducible apply calm_bulkQueue
    | with_reducible apply Calm.when
    | with_reducible apply Calm.ite
    | (intro _ _ _)
    | (intro _ _)
    | split
    | dsimp only

theorem calm_cancelBatch {z s : State} (hK : Calm z s.raises) (r : Req) (id : Word) :
    Calm z (State.cancelBatch s r id).raises := by
  unfold State.cancelBatch
  try dsimp only
  repeat' first
    | with_reducible assumption
    | with_reducible exact calm_raiseDue _ _
    | with_reducible apply calm_batchCancel
    | with_reducible apply calm_bulkSend
    | with_reducible apply calm_reqEnd
    | with_reducible apply Calm.foldlFst
    | with_reducible apply Calm.foldl
    | with_reducible apply Calm.when
    | with_reducible apply Calm.iteFst
    | with_reducible apply Calm.ite
    | (intro _ _ _)
    | (intro _ _)
    | split
    | dsimp only

theorem calm_startBatch {z s : State} (hK : Calm z s.raises) (r : Req) :
    Calm z (State.startBatch s r).raises := by
  unfold State.startBatch
  try dsimp only
  repeat' first
    | with_reducible assumption
    | with_reducible exact calm_raiseDue _ _
    | with_reducible apply calm_reqFail
    | with_reducible apply calm_countReq
    | with_reducible apply calm_cancelBatch
    | with_reducible apply calm_batchFault
    | with_reducible apply calm_ledNew
    | with_reducible apply calm_stageAt
    | with_reducible apply Calm.foldlFst
    | with_reducible apply Calm.foldl
    | with_reducible apply Calm.iteFst
    | with_reducible apply Calm.ite
    | (intro _ _ _)
    | (intro _ _)
    | split
    | dsimp only

theorem calm_startReq {z s : State} (hK : Calm z s.raises) (r : Req) :
    Calm z (State.startReq s r).raises := by
  unfold State.startReq
  try dsimp only
  repeat' first
    | with_reducible assumption
    | with_reducible exact calm_raiseDue _ _
    | with_reducible apply calm_reqFail
    | with_reducible apply calm_startRead
    | with_reducible apply calm_startWrite
    | with_reducible apply calm_startBatch
    | with_reducible apply calm_startTime
    | with_reducible apply calm_startMbx
    | with_reducible apply calm_startAttest
    | with_reducible apply Calm.ite
    | (intro _ _ _)
    | (intro _ _)
    | split
    | dsimp only

theorem calm_takeRequest {z s : State} (hK : Calm z s.raises) (n : Nat) (r : Req) :
    Calm z (State.takeRequest s n r).raises := by
  unfold State.takeRequest
  try dsimp only
  repeat' first
    | with_reducible assumption
    | with_reducible exact calm_raiseDue _ _
    | with_reducible apply calm_respond
    | with_reducible apply calm_startReq
    | with_reducible apply Calm.ite
    | (intro _ _ _)
    | (intro _ _)
    | dsimp only

theorem calm_dequeue {z s : State} (hK : Calm z s.raises) :
    Calm z (State.dequeue s).raises := by
  unfold State.dequeue
  try dsimp only
  repeat' first
    | with_reducible assumption
    | with_reducible exact calm_raiseDue _ _
    | with_reducible apply calm_startReq
    | (intro _ _ _)
    | (intro _ _)
    | split
    | dsimp only

theorem calm_request {z s : State} (hK : Calm z s.raises) (m : Datagram) :
    Calm z (State.request s m).raises := by
  unfold State.request
  try dsimp only
  repeat' first
    | with_reducible assumption
    | with_reducible exact calm_raiseDue _ _
    | with_reducible apply calm_dropDatagram
    | with_reducible apply calm_heard
    | with_reducible apply calm_respond
    | with_reducible apply calm_bumpReg
    | with_reducible apply calm_setSess
    | with_reducible apply calm_countRx
    | with_reducible apply calm_takeRequest
    | with_reducible apply Calm.ite
    | (intro _ _ _)
    | (intro _ _)
    | split
    | dsimp only

theorem calm_requestOf {z s : State} (hK : Calm z s.raises) (d : Datagram) (typ : Nat) (op : Nat → Bool) (at_ : Nat) :
    Calm z (State.requestOf s d typ op at_).raises := by
  unfold State.requestOf
  try dsimp only
  repeat' first
    | with_reducible assumption
    | with_reducible exact calm_raiseDue _ _
    | with_reducible apply calm_request
    | with_reducible apply Calm.when
    | (intro _ _ _)
    | (intro _ _)
    | dsimp only

theorem calm_recvAgain {z s : State} (hK : Calm z s.raises) (n : Nat) (r : Req) :
    Calm z (State.recvAgain s n r).raises := by
  unfold State.recvAgain
  try dsimp only
  repeat' first
    | with_reducible assumption
    | with_reducible exact calm_raiseDue _ _
    | with_reducible apply calm_setSess
    | with_reducible apply calm_dequeue
    | (intro _ _ _)
    | (intro _ _)
    | dsimp only

theorem calm_recvExpiry {z s : State} (hK : Calm z s.raises) (n : Nat) (expired : Bool) :
    Calm z (State.recvExpiry s n expired).raises := by
  unfold State.recvExpiry
  try dsimp only
  repeat' first
    | with_reducible assumption
    | with_reducible exact calm_raiseDue _ _
    | with_reducible apply calm_runUp
    | with_reducible apply calm_setSess
    | with_reducible apply calm_recvLocal
    | with_reducible apply calm_setActive
    | with_reducible apply calm_respond
    | with_reducible apply calm_sendRra
    | with_reducible apply Calm.when
    | with_reducible apply Calm.ite
    | (intro _ _ _)
    | (intro _ _)
    | split
    | dsimp only

theorem calm_recvPolled {z s : State} (hK : Calm z s.raises) (n src : Nat) (ws : List Word) :
    Calm z (State.recvPolled s n src ws).raises := by
  unfold State.recvPolled
  try dsimp only
  repeat' first
    | with_reducible assumption
    | with_reducible exact calm_raiseDue _ _
    | with_reducible apply calm_recvAgain
    | with_reducible apply Calm.when
    | (intro _ _ _)
    | (intro _ _)
    | split
    | dsimp only

theorem calm_rraExec {z s : State} (hK : Calm z s.raises) (by_ : Master) (write : Bool) (a n : Nat) (ws : List Word) :
    Calm z (State.rraExec s by_ write a n ws).1.raises := by
  unfold State.rraExec
  try dsimp only
  repeat' first
    | with_reducible assumption
    | with_reducible exact calm_raiseDue _ _
    | with_reducible apply calm_writeWords
    | with_reducible apply calm_readWords
    | with_reducible apply Calm.iteFst
    | with_reducible apply Calm.ite
    | (intro _ _ _)
    | (intro _ _)
    | dsimp only

theorem calm_rraGo {z s : State} (hK : Calm z s.raises) :
    Calm z (State.rraGo s).raises := by
  unfold State.rraGo
  try dsimp only
  repeat' first
    | with_reducible assumption
    | with_reducible exact calm_raiseDue _ _
    | with_reducible apply calm_rraEnd
    | with_reducible apply calm_rraExec
    | with_reducible apply calm_rraFill
    | with_reducible apply calm_put
    | with_reducible apply calm_sendRra
    | with_reducible apply Calm.wr
    | with_reducible apply Calm.iteFst
    | with_reducible apply Calm.ite
    | (intro _ _ _)
    | (intro _ _)
    | dsimp only

theorem calm_rraCtrl {z s : State} (hK : Calm z s.raises) (m : Master) (v : Nat) : Calm z (State.rraCtrl s m v).1.raises := by
  unfold State.rraCtrl
  refine Calm.iteFst hK ?_
  have h := calm_writeAccess hK m m R.RNG_RRA_CTRL 4 v .clean
  split
  · next s1 heq => rw [heq] at h; exact Calm.when h fun b hb => calm_rraGo hb
  · exact h

theorem calm_rraMessage {z s : State} (hK : Calm z s.raises) (src : Nat) (d : List Byte) :
    Calm z (State.rraMessage s src d).raises := by
  unfold State.rraMessage
  try dsimp only
  repeat' first
    | with_reducible assumption
    | with_reducible exact calm_raiseDue _ _
    | with_reducible apply calm_rraExec
    | with_reducible apply calm_bulkSend
    | with_reducible apply calm_hostAnswer
    | with_reducible apply calm_recvPolled
    | with_reducible apply calm_rraFill
    | with_reducible apply calm_rraEnd
    | with_reducible apply Calm.when
    | with_reducible apply Calm.iteFst
    | with_reducible apply Calm.ite
    | (intro _ _ _)
    | (intro _ _)
    | split
    | dsimp only

theorem calm_batchMessage {z s : State} (hK : Calm z s.raises) (src : Nat) (b : BulkIn) :
    Calm z (State.batchMessage s src b).raises := by
  unfold State.batchMessage
  try dsimp only
  repeat' first
    | with_reducible assumption
    | with_reducible exact calm_raiseDue _ _
    | with_reducible apply calm_batchAck
    | with_reducible apply calm_batchCancel
    | with_reducible apply calm_batchStage
    | with_reducible apply calm_bulkSend
    | with_reducible apply Calm.when
    | with_reducible apply Calm.iteFst
    | with_reducible apply Calm.ite
    | (intro _ _ _)
    | (intro _ _)
    | split
    | dsimp only

theorem calm_batchApply {z s : State} (hK : Calm z s.raises) : Calm z (State.batchApply s).raises := by
  unfold State.batchApply
  split
  · exact hK
  · next p t _ =>
    extract_lets e u src s0 src2 i refuse
    have hu : Calm z u.raises := calm_runUp hK _
    have h0 : Calm z s0.raises := Calm.when hu fun b hb => calm_ledTo hb _ _ _
    split
    · exact h0
    · next a v _ =>
      extract_lets s1 last src2 s2
      have hr : ∀ b c, Calm z b.raises → Calm z (refuse b c).raises := fun b c hb =>
        calm_batchFault (Calm.when hb fun b hb => calm_wrN hb _ _) _ _
      have h1 : Calm z s1.raises := by
        have h := calm_writeAccess h0 .ha .ra a.toNat 4 v.toNat .clean
        unfold s1
        split
        · next t1 heq => rw [heq] at h; exact calm_wrN h _ _
        · next t1 heq => rw [heq] at h; exact hr _ _ h
        · exact hr _ _ h0
      exact Calm.when (h1) fun b hb => calm_sendOutcome (calm_ledTo hb _ _ _) _

theorem calm_bulkReceived {z s : State} (hK : Calm z s.raises) (a : Arrival) : Calm z (State.bulkReceived s a).raises := by
  unfold State.bulkReceived
  extract_lets cw src
  refine Calm.ite hK ?_
  have h := calm_bulkTake hK src cw
  split
  · next s1 heq => rw [heq] at h; exact h
  · next s1 b heq =>
    rw [heq] at h
    have h : Calm z s1.raises := h
    split
    · exact calm_batchMessage h _ _
    · exact Calm.when h fun b hb => calm_rraMessage hb _ _
    · exact Calm.when h fun b hb => calm_mbxMessage hb _ _
    · exact Calm.when h fun b hb => calm_relayMessage hb _ _
    · exact h

theorem calm_busWrite {z s : State} (hK : Calm z s.raises) (m : Master) (a size : Nat) (v : Nat) (e : Ecc) :
    Calm z (State.busWrite s m a size v e).raises := by
  unfold State.busWrite
  try dsimp only
  repeat' first
    | with_reducible assumption
    | with_reducible exact calm_raiseDue _ _
    | with_reducible apply calm_rraCtrl
    | with_reducible apply calm_writeAccess
    | with_reducible apply calm_answer
    | with_reducible apply Calm.iteFst
    | with_reducible apply Calm.ite
    | (intro _ _ _)
    | (intro _ _)
    | dsimp only

theorem calm_wrote {z : State} {r : State × Ans} (hK : Calm z r.1.raises) (m : Master) (a : Nat) : Calm z (State.wrote r m a).raises :=
  calm_answer (Calm.when hK fun _ hb => calm_violation hb _ _ _) _ _

theorem calm_admission {z s : State} (hK : Calm z s.raises) (req : AdmissionIn) : Calm z (s.admission req).raises := by
  unfold State.admission
  split
  · exact calm_admRequest hK _ _ _ _ _ _ _
  · exact calm_admGranted hK _ _ _ _ _ _
  · exact calm_admDenied hK _ _ _

theorem execShortCircuit_calm (leg : Fin 6) (sw : Sw) {s s' : State} (h : execShortCircuit leg sw s = .next s') : Calm s s'.raises := by
  cases h
  have hK := Calm.refl s
  try dsimp only
  repeat' first
    | with_reducible assumption
    | with_reducible exact calm_raiseDue _ _
    | with_reducible apply Calm.live
    | (intro _ _ _)
    | (intro _ _)
    | dsimp only

theorem execSoftTurnOffEnd_calm (leg : Fin 6) (sw : Sw) {s s' : State} (h : execSoftTurnOffEnd leg sw s = .next s') : Calm s s'.raises := by
  cases h
  have hK := Calm.refl s
  try dsimp only
  repeat' first
    | with_reducible assumption
    | with_reducible exact calm_raiseDue _ _
    | with_reducible apply Calm.live
    | (intro _ _ _)
    | (intro _ _)
    | dsimp only

theorem execWaitExpiry_calm (leg : Fin 6) (sw : Sw) {s s' : State} (h : execWaitExpiry leg sw s = .next s') : Calm s s'.raises := by
  cases h
  have hK := Calm.refl s
  try dsimp only
  repeat' first
    | with_reducible assumption
    | with_reducible exact calm_raiseDue _ _
    | with_reducible apply Calm.live
    | (intro _ _ _)
    | (intro _ _)
    | dsimp only

theorem execBootstrapUndervoltage_calm (leg : Fin 6) {s s' : State} (h : execBootstrapUndervoltage leg s = .next s') : Calm s s'.raises := by
  cases h
  have hK := Calm.refl s
  try dsimp only
  repeat' first
    | with_reducible assumption
    | with_reducible exact calm_raiseDue _ _
    | with_reducible apply Calm.live
    | (intro _ _ _)
    | (intro _ _)
    | dsimp only

theorem execChargeTimeout_calm (leg : Fin 6) {s s' : State} (h : execChargeTimeout leg s = .next s') : Calm s s'.raises := by
  cases h
  have hK := Calm.refl s
  try dsimp only
  repeat' first
    | with_reducible assumption
    | with_reducible exact calm_raiseDue _ _
    | with_reducible apply Calm.live
    | (intro _ _ _)
    | (intro _ _)
    | dsimp only

theorem execVdrvUndervoltage_calm {s s' : State} (h : execVdrvUndervoltage s = .next s') : Calm s s'.raises := by
  cases h
  have hK := Calm.refl s
  try dsimp only
  repeat' first
    | with_reducible assumption
    | with_reducible exact calm_raiseDue _ _
    | with_reducible apply Calm.live
    | (intro _ _ _)
    | (intro _ _)
    | dsimp only

theorem execVnegUndervoltage_calm {s s' : State} (h : execVnegUndervoltage s = .next s') : Calm s s'.raises := by
  cases h
  have hK := Calm.refl s
  try dsimp only
  repeat' first
    | with_reducible assumption
    | with_reducible exact calm_raiseDue _ _
    | with_reducible apply Calm.live
    | (intro _ _ _)
    | (intro _ _)
    | dsimp only

theorem execSafeReceived_calm {s s' : State} (h : execSafeReceived s = .next s') : Calm s s'.raises := by
  cases h
  have hK := Calm.refl s
  try dsimp only
  repeat' first
    | with_reducible assumption
    | with_reducible exact calm_raiseDue _ _
    | with_reducible apply calm_takeRx
    | with_reducible apply calm_safeReceived
    | with_reducible apply Calm.live
    | (intro _ _ _)
    | (intro _ _)
    | dsimp only

theorem execDiscrepancyWindowClose_calm (head : Fin 2) {s s' : State} (h : execDiscrepancyWindowClose head s = .next s') : Calm s s'.raises := by
  cases h
  have hK := Calm.refl s
  try dsimp only
  repeat' first
    | with_reducible assumption
    | with_reducible exact calm_raiseDue _ _
    | with_reducible apply calm_windowEnd
    | with_reducible apply Calm.live
    | (intro _ _ _)
    | (intro _ _)
    | dsimp only

theorem execRgTrigger_calm (g : Fin 8) (upset : Option (Fin 24576)) {s s' : State} (h : execRgTrigger g upset s = .next s') : Calm s s'.raises := by
  cases h
  have hK := Calm.refl s
  try dsimp only
  repeat' first
    | with_reducible assumption
    | with_reducible exact calm_raiseDue _ _
    | with_reducible apply calm_eccSet
    | with_reducible apply calm_rgTrigger
    | with_reducible apply Calm.live
    | (intro _ _ _)
    | (intro _ _)
    | split
    | dsimp only

theorem execGroupCommit_calm (g : Fin 8) {s s' : State} (h : execGroupCommit g s = .next s') : Calm s s'.raises := by
  cases h
  have hK := Calm.refl s
  try dsimp only
  repeat' first
    | with_reducible assumption
    | with_reducible exact calm_raiseDue _ _
    | with_reducible apply calm_groupCommit
    | with_reducible apply Calm.live
    | (intro _ _ _)
    | (intro _ _)
    | dsimp only

theorem execPeekRequest_calm (slot : BitVec 10) {s s' : State} (h : execPeekRequest slot s = .next s') : Calm s s'.raises := by
  cases h
  have hK := Calm.refl s
  try dsimp only
  repeat' first
    | with_reducible assumption
    | with_reducible exact calm_raiseDue _ _
    | with_reducible apply calm_peekRequest
    | with_reducible apply Calm.live
    | (intro _ _ _)
    | (intro _ _)
    | dsimp only

theorem execBalancerCommit_calm (locked : Bool) {s s' : State} (h : execBalancerCommit locked s = .next s') : Calm s s'.raises := by
  cases h
  have hK := Calm.refl s
  try dsimp only
  repeat' first
    | with_reducible assumption
    | with_reducible exact calm_raiseDue _ _
    | with_reducible apply calm_balancerCommit
    | with_reducible apply Calm.live
    | (intro _ _ _)
    | (intro _ _)
    | dsimp only

theorem execPowerOnReset_calm {s s' : State} (h : execPowerOnReset s = .next s') : Calm s s'.raises := by
  cases h
  have hK := Calm.refl s
  try dsimp only
  repeat' first
    | with_reducible assumption
    | with_reducible exact calm_raiseDue _ _
    | with_reducible apply calm_resetNode
    | (intro _ _ _)
    | (intro _ _)
    | dsimp only

theorem execRailReset_calm (rail : Rail) {s s' : State} (h : execRailReset rail s = .next s') : Calm s s'.raises := by
  cases h
  have hK := Calm.refl s
  try dsimp only
  repeat' first
    | with_reducible assumption
    | with_reducible exact calm_raiseDue _ _
    | with_reducible apply calm_resetNode
    | with_reducible apply calm_setFlag
    | with_reducible apply calm_put
    | (intro _ _ _)
    | (intro _ _)
    | dsimp only

theorem execPginReset_calm {s s' : State} (h : execPginReset s = .next s') : Calm s s'.raises := by
  cases h
  have hK := Calm.refl s
  try dsimp only
  repeat' first
    | with_reducible assumption
    | with_reducible exact calm_raiseDue _ _
    | with_reducible apply calm_resetNode
    | with_reducible apply calm_setFlag
    | (intro _ _ _)
    | (intro _ _)
    | dsimp only

theorem execPinReset_calm {s s' : State} (h : execPinReset s = .next s') : Calm s s'.raises := by
  cases h
  have hK := Calm.refl s
  try dsimp only
  repeat' first
    | with_reducible assumption
    | with_reducible exact calm_raiseDue _ _
    | with_reducible apply calm_resetNode
    | with_reducible apply calm_setFlag
    | (intro _ _ _)
    | (intro _ _)
    | dsimp only

theorem execSoftReset_calm {s s' : State} (h : execSoftReset s = .next s') : Calm s s'.raises := by
  cases h
  have hK := Calm.refl s
  try dsimp only
  repeat' first
    | with_reducible assumption
    | with_reducible exact calm_raiseDue _ _
    | with_reducible apply calm_softReset
    | with_reducible apply Calm.when
    | with_reducible apply Calm.live
    | (intro _ _ _)
    | (intro _ _)
    | dsimp only

theorem execTrialTimeout_calm {s s' : State} (h : execTrialTimeout s = .next s') : Calm s s'.raises := by
  cases h
  have hK := Calm.refl s
  try dsimp only
  repeat' first
    | with_reducible assumption
    | with_reducible exact calm_raiseDue _ _
    | with_reducible apply calm_trialTimeout
    | with_reducible apply Calm.live
    | (intro _ _ _)
    | (intro _ _)
    | dsimp only

theorem execBatchStage_calm (id c : Word) (count : Nat) (items : List (Word × Word)) {s s' : State} (h : execBatchStage id c count items s = .next s') : Calm s s'.raises := by
  cases h
  have hK := Calm.refl s
  try dsimp only
  repeat' first
    | with_reducible assumption
    | with_reducible exact calm_raiseDue _ _
    | with_reducible apply calm_batchStage
    | with_reducible apply Calm.live
    | (intro _ _ _)
    | (intro _ _)
    | dsimp only

theorem execBatchCancel_calm (id : Word) {s s' : State} (h : execBatchCancel id s = .next s') : Calm s s'.raises := by
  cases h
  have hK := Calm.refl s
  try dsimp only
  repeat' first
    | with_reducible assumption
    | with_reducible exact calm_raiseDue _ _
    | with_reducible apply calm_batchCancel
    | with_reducible apply Calm.live
    | (intro _ _ _)
    | (intro _ _)
    | dsimp only

theorem execHbReceived_calm {s s' : State} (h : execHbReceived s = .next s') : Calm s s'.raises := by
  cases h
  have hK := Calm.refl s
  try dsimp only
  repeat' first
    | with_reducible assumption
    | with_reducible exact calm_raiseDue _ _
    | with_reducible apply calm_takeRx
    | with_reducible apply calm_hbReceived
    | with_reducible apply Calm.live
    | (intro _ _ _)
    | (intro _ _)
    | dsimp only

theorem execDpxSwapCancel_calm (m : Master) {s s' : State} (h : execDpxSwapCancel m s = .next s') : Calm s s'.raises := by
  cases h
  have hK := Calm.refl s
  try dsimp only
  repeat' first
    | with_reducible assumption
    | with_reducible exact calm_raiseDue _ _
    | with_reducible apply calm_swapCancelDpx
    | with_reducible apply calm_violation
    | with_reducible apply Calm.byMaster
    | with_reducible apply Calm.ite
    | (intro _ _ _)
    | (intro _ _)
    | dsimp only

theorem execCodewordReceived_calm (p : Fin 5) (l : Fin 2) (rx : List Int) {s s' : State} (h : execCodewordReceived p l rx s = .next s') : Calm s s'.raises := by
  cases h
  have hK := Calm.refl s
  try dsimp only
  repeat' first
    | with_reducible assumption
    | with_reducible exact calm_raiseDue _ _
    | with_reducible apply calm_lineIn
    | with_reducible apply Calm.live
    | (intro _ _ _)
    | (intro _ _)
    | dsimp only

theorem execFold_calm (p : Fin 4) {s s' : State} (h : execFold p s = .next s') : Calm s s'.raises := by
  cases h
  have hK := Calm.refl s
  try dsimp only
  repeat' first
    | with_reducible assumption
    | with_reducible exact calm_raiseDue _ _
    | with_reducible apply calm_foldPort
    | with_reducible apply Calm.live
    | (intro _ _ _)
    | (intro _ _)
    | dsimp only

theorem execUpReceived_calm {s s' : State} (h : execUpReceived s = .next s') : Calm s s'.raises := by
  cases h
  have hK := Calm.refl s
  try dsimp only
  repeat' first
    | with_reducible assumption
    | with_reducible exact calm_raiseDue _ _
    | with_reducible apply calm_takeRx
    | with_reducible apply calm_upReceived
    | with_reducible apply Calm.live
    | (intro _ _ _)
    | (intro _ _)
    | dsimp only

theorem execUplinkDeadline_calm {s s' : State} (h : execUplinkDeadline s = .next s') : Calm s s'.raises := by
  cases h
  have hK := Calm.refl s
  try dsimp only
  repeat' first
    | with_reducible assumption
    | with_reducible exact calm_raiseDue _ _
    | with_reducible apply calm_uplinkDeadline
    | with_reducible apply Calm.live
    | (intro _ _ _)
    | (intro _ _)
    | dsimp only

theorem execDnReceived_calm {s s' : State} (h : execDnReceived s = .next s') : Calm s s'.raises := by
  cases h
  have hK := Calm.refl s
  try dsimp only
  repeat' first
    | with_reducible assumption
    | with_reducible exact calm_raiseDue _ _
    | with_reducible apply calm_takeRx
    | with_reducible apply calm_dnReceived
    | with_reducible apply Calm.live
    | (intro _ _ _)
    | (intro _ _)
    | dsimp only

theorem execAckReceived_calm {s s' : State} (h : execAckReceived s = .next s') : Calm s s'.raises := by
  cases h
  have hK := Calm.refl s
  try dsimp only
  repeat' first
    | with_reducible assumption
    | with_reducible exact calm_raiseDue _ _
    | with_reducible apply calm_takeRx
    | with_reducible apply calm_ackReceived
    | with_reducible apply Calm.live
    | (intro _ _ _)
    | (intro _ _)
    | dsimp only

theorem execAdmissionRequest_calm (req : AdmissionIn) {s s' : State} (h : execAdmissionRequest req s = .next s') : Calm s s'.raises := by
  cases h
  have hK := Calm.refl s
  try dsimp only
  repeat' first
    | with_reducible assumption
    | with_reducible exact calm_raiseDue _ _
    | with_reducible apply calm_admission
    | with_reducible apply calm_admission
    | with_reducible apply Calm.live
    | (intro _ _ _)
    | (intro _ _)
    | dsimp only

theorem execAdmissionTimeRetry_calm (pos : BitVec 8) (timeOk : Bool) {s s' : State} (h : execAdmissionTimeRetry pos timeOk s = .next s') : Calm s s'.raises := by
  cases h
  have hK := Calm.refl s
  try dsimp only
  repeat' first
    | with_reducible assumption
    | with_reducible exact calm_raiseDue _ _
    | with_reducible apply calm_admRetry
    | with_reducible apply Calm.live
    | (intro _ _ _)
    | (intro _ _)
    | dsimp only

theorem execCycleBoundary_eq (spliceBad : Bool) {s s' : State} (h : execCycleBoundary spliceBad s = .next s') :
    s' = if s.sys.inReset then s else s.cycleBoundary spliceBad := by
  cases h; rfl

theorem execCycleBoundary_calm (spliceBad : Bool) {s s' : State} (h : execCycleBoundary spliceBad s = .next s') :
    Calm s s'.raises := by
  rw [execCycleBoundary_eq spliceBad h]
  exact Calm.ite (Calm.refl s) (calm_cycleBoundary (Calm.refl s) spliceBad)

theorem execLinkMeasurement_calm (p : Fin 4) {s s' : State} (h : execLinkMeasurement p s = .next s') : Calm s s'.raises := by
  cases h
  have hK := Calm.refl s
  try dsimp only
  repeat' first
    | with_reducible assumption
    | with_reducible exact calm_raiseDue _ _
    | with_reducible apply calm_linkMeasurement
    | with_reducible apply Calm.live
    | (intro _ _ _)
    | (intro _ _)
    | dsimp only

theorem execTimOffsetWrite_calm (m : Master) (v : Word) {s s' : State} (h : execTimOffsetWrite m v s = .next s') : Calm s s'.raises := by
  cases h
  have hK := Calm.refl s
  try dsimp only
  repeat' first
    | with_reducible assumption
    | with_reducible exact calm_raiseDue _ _
    | with_reducible apply calm_offsetWrite
    | with_reducible apply calm_violation
    | with_reducible apply Calm.byMaster
    | with_reducible apply Calm.ite
    | (intro _ _ _)
    | (intro _ _)
    | dsimp only

theorem execCoeffRamWrite_calm (m : Master) (slot : Fin 768) (word : Fin 64) (v : Word) (ecc : Ecc) {s s' : State} (h : execCoeffRamWrite m slot word v ecc s = .next s') : Calm s s'.raises := by
  cases h
  have hK := Calm.refl s
  try dsimp only
  repeat' first
    | with_reducible assumption
    | with_reducible exact calm_raiseDue _ _
    | with_reducible apply calm_writeAccess
    | with_reducible apply calm_answer
    | with_reducible apply Calm.byMaster
    | (intro _ _ _)
    | (intro _ _)
    | dsimp only

theorem execSramAccess_calm (m : Master) (write : Bool) (addr : Word) (size : Fin 9) (v : BitVec 64) (ecc : Ecc) {s s' : State} (h : execSramAccess m write addr size v ecc s = .next s') : Calm s s'.raises := by
  cases h
  have hK := Calm.refl s
  try dsimp only
  repeat' first
    | with_reducible assumption
    | with_reducible exact calm_raiseDue _ _
    | with_reducible apply calm_writeAccess
    | with_reducible apply calm_answer
    | with_reducible apply calm_busRead
    | with_reducible apply Calm.when
    | with_reducible apply Calm.byMaster
    | with_reducible apply Calm.iteFst
    | with_reducible apply Calm.ite
    | (intro _ _ _)
    | (intro _ _)
    | dsimp only

theorem execReadRequest_calm (d : Datagram) {s s' : State} (h : execReadRequest d s = .next s') : Calm s s'.raises := by
  cases h
  have hK := Calm.refl s
  try dsimp only
  repeat' first
    | with_reducible assumption
    | with_reducible exact calm_raiseDue _ _
    | with_reducible apply calm_requestOf
    | with_reducible apply Calm.live
    | (intro _ _ _)
    | (intro _ _)
    | dsimp only

theorem execWriteRequest_calm (d : Datagram) {s s' : State} (h : execWriteRequest d s = .next s') : Calm s s'.raises := by
  cases h
  have hK := Calm.refl s
  try dsimp only
  repeat' first
    | with_reducible assumption
    | with_reducible exact calm_raiseDue _ _
    | with_reducible apply calm_requestOf
    | with_reducible apply Calm.live
    | (intro _ _ _)
    | (intro _ _)
    | dsimp only

theorem execRequestDequeue_calm {s s' : State} (h : execRequestDequeue s = .next s') : Calm s s'.raises := by
  cases h
  have hK := Calm.refl s
  try dsimp only
  repeat' first
    | with_reducible assumption
    | with_reducible exact calm_raiseDue _ _
    | with_reducible apply calm_dequeue
    | with_reducible apply Calm.live
    | (intro _ _ _)
    | (intro _ _)
    | dsimp only

theorem execBatchStageCommon_calm (d : Datagram) {s s' : State} (h : execBatchStageCommon d s = .next s') : Calm s s'.raises := by
  cases h
  have hK := Calm.refl s
  try dsimp only
  repeat' first
    | with_reducible assumption
    | with_reducible exact calm_raiseDue _ _
    | with_reducible apply calm_requestOf
    | with_reducible apply Calm.live
    | (intro _ _ _)
    | (intro _ _)
    | dsimp only

theorem execBatchStageEach_calm (d : Datagram) {s s' : State} (h : execBatchStageEach d s = .next s') : Calm s s'.raises := by
  cases h
  have hK := Calm.refl s
  try dsimp only
  repeat' first
    | with_reducible assumption
    | with_reducible exact calm_raiseDue _ _
    | with_reducible apply calm_requestOf
    | with_reducible apply Calm.live
    | (intro _ _ _)
    | (intro _ _)
    | dsimp only

theorem execBatchCancelRequest_calm (d : Datagram) {s s' : State} (h : execBatchCancelRequest d s = .next s') : Calm s s'.raises := by
  cases h
  have hK := Calm.refl s
  try dsimp only
  repeat' first
    | with_reducible assumption
    | with_reducible exact calm_raiseDue _ _
    | with_reducible apply calm_requestOf
    | with_reducible apply Calm.live
    | (intro _ _ _)
    | (intro _ _)
    | dsimp only

theorem execTimeNow_calm (d : Datagram) {s s' : State} (h : execTimeNow d s = .next s') : Calm s s'.raises := by
  cases h
  have hK := Calm.refl s
  try dsimp only
  repeat' first
    | with_reducible assumption
    | with_reducible exact calm_raiseDue _ _
    | with_reducible apply calm_requestOf
    | with_reducible apply Calm.live
    | (intro _ _ _)
    | (intro _ _)
    | dsimp only

theorem execTimeTx_calm (d : Datagram) {s s' : State} (h : execTimeTx d s = .next s') : Calm s s'.raises := by
  cases h
  have hK := Calm.refl s
  try dsimp only
  repeat' first
    | with_reducible assumption
    | with_reducible exact calm_raiseDue _ _
    | with_reducible apply calm_requestOf
    | with_reducible apply Calm.live
    | (intro _ _ _)
    | (intro _ _)
    | dsimp only

theorem execMbxSend_calm (d : Datagram) {s s' : State} (h : execMbxSend d s = .next s') : Calm s s'.raises := by
  cases h
  have hK := Calm.refl s
  try dsimp only
  repeat' first
    | with_reducible assumption
    | with_reducible exact calm_raiseDue _ _
    | with_reducible apply calm_requestOf
    | with_reducible apply Calm.live
    | (intro _ _ _)
    | (intro _ _)
    | dsimp only

theorem execMbxRecv_calm (d : Datagram) {s s' : State} (h : execMbxRecv d s = .next s') : Calm s s'.raises := by
  cases h
  have hK := Calm.refl s
  try dsimp only
  repeat' first
    | with_reducible assumption
    | with_reducible exact calm_raiseDue _ _
    | with_reducible apply calm_requestOf
    | with_reducible apply Calm.live
    | (intro _ _ _)
    | (intro _ _)
    | dsimp only

theorem execMbxRecvExpiry_calm (n : Fin 4) (expired : Bool) {s s' : State} (h : execMbxRecvExpiry n expired s = .next s') : Calm s s'.raises := by
  cases h
  have hK := Calm.refl s
  try dsimp only
  repeat' first
    | with_reducible assumption
    | with_reducible exact calm_raiseDue _ _
    | with_reducible apply calm_recvExpiry
    | with_reducible apply Calm.live
    | (intro _ _ _)
    | (intro _ _)
    | dsimp only

theorem execMbxStat_calm (d : Datagram) {s s' : State} (h : execMbxStat d s = .next s') : Calm s s'.raises := by
  cases h
  have hK := Calm.refl s
  try dsimp only
  repeat' first
    | with_reducible assumption
    | with_reducible exact calm_raiseDue _ _
    | with_reducible apply calm_requestOf
    | with_reducible apply Calm.live
    | (intro _ _ _)
    | (intro _ _)
    | dsimp only

theorem execAttestIdentity_calm (d : Datagram) {s s' : State} (h : execAttestIdentity d s = .next s') : Calm s s'.raises := by
  cases h
  have hK := Calm.refl s
  try dsimp only
  repeat' first
    | with_reducible assumption
    | with_reducible exact calm_raiseDue _ _
    | with_reducible apply calm_requestOf
    | with_reducible apply Calm.live
    | (intro _ _ _)
    | (intro _ _)
    | dsimp only

theorem execAttestRecord_calm (d : Datagram) {s s' : State} (h : execAttestRecord d s = .next s') : Calm s s'.raises := by
  cases h
  have hK := Calm.refl s
  try dsimp only
  repeat' first
    | with_reducible assumption
    | with_reducible exact calm_raiseDue _ _
    | with_reducible apply calm_requestOf
    | with_reducible apply Calm.live
    | (intro _ _ _)
    | (intro _ _)
    | dsimp only

theorem execBulkReceived_calm {s s' : State} (h : execBulkReceived s = .next s') : Calm s s'.raises := by
  cases h
  have hK := Calm.refl s
  try dsimp only
  repeat' first
    | with_reducible assumption
    | with_reducible exact calm_raiseDue _ _
    | with_reducible apply calm_takeRx
    | with_reducible apply calm_bulkReceived
    | with_reducible apply Calm.live
    | (intro _ _ _)
    | (intro _ _)
    | dsimp only

theorem execRraGo_calm (m : Master) (v : Word) {s s' : State} (h : execRraGo m v s = .next s') : Calm s s'.raises := by
  cases h
  have hK := Calm.refl s
  try dsimp only
  repeat' first
    | with_reducible assumption
    | with_reducible exact calm_raiseDue _ _
    | with_reducible apply calm_rraCtrl
    | with_reducible apply calm_answer
    | with_reducible apply Calm.byMaster
    | (intro _ _ _)
    | (intro _ _)
    | dsimp only

theorem execBatchItemApply_calm {s s' : State} (h : execBatchItemApply s = .next s') : Calm s s'.raises := by
  cases h
  have hK := Calm.refl s
  try dsimp only
  repeat' first
    | with_reducible assumption
    | with_reducible exact calm_raiseDue _ _
    | with_reducible apply calm_batchApply
    | with_reducible apply Calm.live
    | (intro _ _ _)
    | (intro _ _)
    | dsimp only

theorem execRegisterWrite_calm (m : Master) (addr : Word) (size : Fin 9) (v : Word) (ecc : Ecc) {s s' : State} (h : execRegisterWrite m addr size v ecc s = .next s') : Calm s s'.raises := by
  cases h
  have hK := Calm.refl s
  try dsimp only
  repeat' first
    | with_reducible assumption
    | with_reducible exact calm_raiseDue _ _
    | with_reducible apply calm_busWrite
    | with_reducible apply Calm.when
    | with_reducible apply Calm.byMaster
    | (intro _ _ _)
    | (intro _ _)
    | dsimp only

end Sys2Proof.Machine
end

