-- ==== Sys2Proof/Laws/FaultRegs.lean ====
section
/-! SUPPORT. Laws/FaultRegs.lean: a raise, the end of a cause and the release of a leg write no register outside `faultReg`,
so every other register reads through them. -/
namespace Sys2Proof.Machine
set_option Elab.async false

theorem RegsOff.refl (w : Nat → Bool) (s : State) : RegsOff w s s := ⟨fun _ _ => rfl⟩

theorem RegsOff.trans {w : Nat → Bool} {s t u : State} (h : RegsOff w s t) (k : RegsOff w t u) : RegsOff w s u :=
  ⟨fun a ha => (k.same a ha).trans (h.same a ha)⟩

theorem RegsOff.ite {w : Nat → Bool} {c : Prop} [Decidable c] {a x y : State} (hx : RegsOff w a x) (hy : RegsOff w a y) :
    RegsOff w a (if c then x else y) := by split <;> assumption

theorem RegsOff.foldl {w : Nat → Bool} {β : Type} {a s : State} {f : State → β → State} {l : List β} (h : RegsOff w a s)
    (hf : ∀ b x, RegsOff w a b → RegsOff w a (f b x)) : RegsOff w a (l.foldl f s) := by
  induction l generalizing s with
  | nil => exact h
  | cons x t ih => exact ih (hf s x h)

theorem RegsOff.foldl_mem {w : Nat → Bool} {β : Type} {a s : State} {f : State → β → State} {l : List β}
    (h : RegsOff w a s) (hf : ∀ b x, x ∈ l → RegsOff w a b → RegsOff w a (f b x)) : RegsOff w a (l.foldl f s) := by
  induction l generalizing s with
  | nil => exact h
  | cons x t ih => exact ih (hf s x (by simp) h) fun b y hy => hf b y (by simp [hy])

theorem RegsOff.forUpTo {w : Nat → Bool} {a s : State} {n : Nat} {f : Nat → State → State} (h : RegsOff w a s)
    (hf : ∀ i, i < n → ∀ b, RegsOff w a b → RegsOff w a (f i b)) : RegsOff w a (forUpTo n f s) :=
  RegsOff.foldl_mem h fun b i hi hb => hf i (List.mem_range.1 hi) b hb

theorem RegsOff.when {w : Nat → Bool} {a s : State} {c : Bool} {f : State → State} (h : RegsOff w a s)
    (hf : ∀ b, RegsOff w a b → RegsOff w a (f b)) : RegsOff w a (s.when c f) := by
  unfold State.when; split
  · exact hf s h
  · exact h

theorem RegsOff.wr {w : Nat → Bool} {z s : State} (h : RegsOff w z s) {a : Nat} {v : Word} (ha : w a = true) :
    RegsOff w z (s.wr a v) :=
  h.trans ⟨fun b hb => rd_wr_other s v fun e => by rw [e, ha] at hb; cases hb⟩

theorem RegsOff.put {w : Nat → Bool} {z s : State} (h : RegsOff w z s) {f : Fld} {v : Nat} (ha : w f.addr = true) :
    RegsOff w z (s.put f v) := h.wr ha

theorem RegsOff.setFlag {w : Nat → Bool} {z s : State} (h : RegsOff w z s) {f : Fld} {b : Bool} (ha : w f.addr = true) :
    RegsOff w z (s.setFlag f b) := h.wr ha

theorem RegsOff.wrN {w : Nat → Bool} {z s : State} (h : RegsOff w z s) {a v : Nat} (ha : w a = true) :
    RegsOff w z (s.wrN a v) := h.wr ha

theorem RegsOff.bump {w : Nat → Bool} {z s : State} (h : RegsOff w z s) {f : Fld} {n : Nat} (ha : w f.addr = true) :
    RegsOff w z (s.bump f n) := h.wr ha

theorem RegsOff.bumpReg {w : Nat → Bool} {z s : State} (h : RegsOff w z s) {a n : Nat} (ha : w a = true) :
    RegsOff w z (s.bumpReg a n) := h.wr ha

theorem RegsOff.emit {w : Nat → Bool} {z s : State} (h : RegsOff w z s) {o : Out} : RegsOff w z (s.emit o) :=
  h.trans ⟨fun _ _ => rfl⟩

/-- An update of the other components changes no register. -/
theorem RegsOff.same_regs {w : Nat → Bool} {z b : State} (h : RegsOff w z b) {mem : List Host.Cell} {sys : SysSt} {vault : VaultSt} {clk : ClkSt} {flash : FlashChip} {vendorKey : BitVec 512} {fuse : FuseSt} {img : ImgSt} {lnk : LnkSt} {rng : RngSt} {tim : TimSt} {pwm : PwmSt} {gd : GdSt} {dpx : DpxSt} {flt : FltSt} {eng : EngSt} {adc : AdcSt} {memx : MemSt} {thm : ThmSt} {bal : BalSt} {saf : SafSt} {sup : SupSt} {mbx : MbxSt} {mtr : MtrSt} {raises : List Raise} {out : List Out} {free : Nat} {pending : List Instr} :
    RegsOff w z ⟨b.regs, mem, sys, vault, clk, flash, vendorKey, fuse, img, lnk, rng, tim, pwm, gd, dpx, flt, eng, adc, memx, thm, bal, saf, sup, mbx, mtr, raises, out, free, pending⟩ := h.trans ⟨fun _ _ => rfl⟩

theorem faultReg_rec (r w : Nat) (hw : w < 8) : faultReg (R.FLT_RECr_Ww (recIdx r) w) = true := by
  have : recIdx r < 64 := Nat.mod_lt _ (by decide)
  have h1 : 0x400E0000 ≤ R.FLT_RECr_Ww (recIdx r) w := by unfold R.FLT_RECr_Ww; omega
  have h2 : R.FLT_RECr_Ww (recIdx r) w < 0x400F0000 := by unfold R.FLT_RECr_Ww; omega
  simp [faultReg, Nat.blt_eq, Nat.ble_eq, h1, h2]

theorem faultReg_leg (n : Nat) (hn : n < 6) : faultReg (R.PWM_LCHn_STAT n) = true := by
  have h1 : 0x40080400 ≤ R.PWM_LCHn_STAT n := by unfold R.PWM_LCHn_STAT; omega
  have h2 : R.PWM_LCHn_STAT n < 0x40080580 := by unfold R.PWM_LCHn_STAT; omega
  have h3 : (R.PWM_LCHn_STAT n - 0x40080400) % 0x40 = 0x24 := by unfold R.PWM_LCHn_STAT; omega
  simp [faultReg, Nat.blt_eq, Nat.ble_eq, h1, h2, h3]

theorem faultReg_FLT_RECr_W1_ACTIVE (n : Nat) : faultReg (F.FLT_RECr_W1_ACTIVE (recIdx n)).addr = true := faultReg_rec n 1 (by decide)

theorem faultReg_FLT_RECr_W1_BROKEN (n : Nat) : faultReg (F.FLT_RECr_W1_BROKEN (recIdx n)).addr = true := faultReg_rec n 1 (by decide)

theorem faultReg_FLT_RECr_W1_CLASS (n : Nat) : faultReg (F.FLT_RECr_W1_CLASS (recIdx n)).addr = true := faultReg_rec n 1 (by decide)

theorem faultReg_FLT_RECr_W1_CLEARED (n : Nat) : faultReg (F.FLT_RECr_W1_CLEARED (recIdx n)).addr = true := faultReg_rec n 1 (by decide)

theorem faultReg_FLT_RECr_W1_ENDED (n : Nat) : faultReg (F.FLT_RECr_W1_ENDED (recIdx n)).addr = true := faultReg_rec n 1 (by decide)

theorem faultReg_FLT_RECr_W1_OPEN (n : Nat) : faultReg (F.FLT_RECr_W1_OPEN (recIdx n)).addr = true := faultReg_rec n 1 (by decide)

theorem faultReg_FLT_RECr_W6_COUNT (n : Nat) : faultReg (F.FLT_RECr_W6_COUNT (recIdx n)).addr = true := faultReg_rec n 6 (by decide)

theorem faultReg_FLT_RECr_W6_LAST (n : Nat) : faultReg (F.FLT_RECr_W6_LAST (recIdx n)).addr = true := faultReg_rec n 6 (by decide)

theorem faultReg_LEG_STATE (n : Nat) (hn : n < 6) : faultReg (F.PWM_LCHn_STAT_LEG_STATE n).addr = true :=
  faultReg_leg n hn

theorem off_setChan {z s : State} (hK : RegsOff faultReg z s) (n : Nat) (c : ChanSt) :
    RegsOff faultReg z (State.setChan s n c) := by
  unfold State.setChan
  try dsimp only
  repeat' first
    | with_reducible assumption
    | ((with_reducible show faultReg _ = true) <;> decide)
    | (intro _ _ _ _)
    | (intro _ _ _)
    | (intro _ _)
    | with_reducible refine RegsOff.same_regs ?_

theorem off_setLeg {z s : State} (hK : RegsOff faultReg z s) (n : Nat) (l : LegSt) :
    RegsOff faultReg z (State.setLeg s n l) := by
  unfold State.setLeg
  try dsimp only
  repeat' first
    | with_reducible assumption
    | ((with_reducible show faultReg _ = true) <;> decide)
    | (intro _ _ _ _)
    | (intro _ _ _)
    | (intro _ _)
    | with_reducible refine RegsOff.same_regs ?_

theorem off_setGate {z s : State} (hK : RegsOff faultReg z s) (c : Nat) (g : GateSt) :
    RegsOff faultReg z (State.setGate s c g) := by
  unfold State.setGate
  try dsimp only
  repeat' first
    | with_reducible assumption
    | ((with_reducible show faultReg _ = true) <;> decide)
    | (intro _ _ _ _)
    | (intro _ _ _)
    | (intro _ _)
    | with_reducible refine RegsOff.same_regs ?_

theorem off_setGateLeg {z s : State} (hK : RegsOff faultReg z s) (n : Nat) (g : GateLeg) :
    RegsOff faultReg z (State.setGateLeg s n g) := by
  unfold State.setGateLeg
  try dsimp only
  repeat' first
    | with_reducible assumption
    | ((with_reducible show faultReg _ = true) <;> decide)
    | (intro _ _ _ _)
    | (intro _ _ _)
    | (intro _ _)
    | with_reducible refine RegsOff.same_regs ?_

theorem off_setLink {z s : State} (hK : RegsOff faultReg z s) (p : Nat) (v : LinkTime) :
    RegsOff faultReg z (State.setLink s p v) := by
  unfold State.setLink
  try dsimp only
  repeat' first
    | with_reducible assumption
    | ((with_reducible show faultReg _ = true) <;> decide)
    | (intro _ _ _ _)
    | (intro _ _ _)
    | (intro _ _)
    | with_reducible refine RegsOff.same_regs ?_

theorem off_gateRefresh {z s : State} (hK : RegsOff faultReg z s) (n : Nat) :
    RegsOff faultReg z (State.gateRefresh s n) := by
  unfold State.gateRefresh
  try dsimp only
  repeat' first
    | with_reducible assumption
    | with_reducible apply off_setGate
    | ((with_reducible show faultReg _ = true) <;> decide)
    | (intro _ _ _ _)
    | (intro _ _ _)
    | (intro _ _)
    | with_reducible refine RegsOff.same_regs ?_

theorem off_legRefresh1 {z s : State} (hK : RegsOff faultReg z s) (n : Nat) (hn : n < 6) :
    RegsOff faultReg z (State.legRefresh1 s n) := by
  unfold State.legRefresh1
  try dsimp only
  repeat' first
    | with_reducible assumption
    | with_reducible apply off_setLeg
    | with_reducible apply off_setGate
    | with_reducible apply off_gateRefresh
    | with_reducible apply RegsOff.put
    | with_reducible apply RegsOff.ite
    | with_reducible exact faultReg_LEG_STATE _ hn
    | ((with_reducible show faultReg _ = true) <;> decide)
    | (intro _ _ _ _)
    | (intro _ _ _)
    | (intro _ _)
    | with_reducible refine RegsOff.same_regs ?_

theorem off_legRefresh {z s : State} (hK : RegsOff faultReg z s) : RegsOff faultReg z (State.legRefresh s) :=
  RegsOff.forUpTo hK fun i hi _ hb => off_legRefresh1 hb i hi

theorem off_haltCarriers {z s : State} (hK : RegsOff faultReg z s) :
    RegsOff faultReg z (State.haltCarriers s) := by
  unfold State.haltCarriers
  try dsimp only
  repeat' first
    | with_reducible assumption
    | with_reducible apply off_setChan
    | with_reducible apply RegsOff.forUpTo
    | ((with_reducible show faultReg _ = true) <;> decide)
    | (intro _ _ _ _)
    | (intro _ _ _)
    | (intro _ _)
    | with_reducible refine RegsOff.same_regs ?_

theorem off_loseTimebase {z s : State} (hK : RegsOff faultReg z s) :
    RegsOff faultReg z (State.loseTimebase s) := by
  unfold State.loseTimebase
  try dsimp only
  repeat' first
    | with_reducible assumption
    | with_reducible apply off_haltCarriers
    | with_reducible apply off_legRefresh
    | with_reducible apply RegsOff.setFlag
    | ((with_reducible show faultReg _ = true) <;> decide)
    | (intro _ _ _ _)
    | (intro _ _ _)
    | (intro _ _)
    | with_reducible refine RegsOff.same_regs ?_

theorem off_setRoot {z s : State} (hK : RegsOff faultReg z s) (r : Root) :
    RegsOff faultReg z (State.setRoot s r) := by
  unfold State.setRoot
  try dsimp only
  repeat' first
    | with_reducible assumption
    | with_reducible apply RegsOff.put
    | ((with_reducible show faultReg _ = true) <;> decide)
    | (intro _ _ _ _)
    | (intro _ _ _)
    | (intro _ _)
    | with_reducible refine RegsOff.same_regs ?_

theorem off_rootSearch {z s : State} (hK : RegsOff faultReg z s) :
    RegsOff faultReg z (State.rootSearch s) := by
  unfold State.rootSearch
  try dsimp only
  repeat' first
    | with_reducible assumption
    | with_reducible apply off_setRoot
    | with_reducible apply off_loseTimebase
    | ((with_reducible show faultReg _ = true) <;> decide)
    | (intro _ _ _ _)
    | (intro _ _ _)
    | (intro _ _)
    | with_reducible refine RegsOff.same_regs ?_

theorem off_holdOut {z s : State} (hK : RegsOff faultReg z s) :
    RegsOff faultReg z (State.holdOut s) := by
  unfold State.holdOut
  try dsimp only
  repeat' first
    | with_reducible assumption
    | with_reducible apply off_rootSearch
    | with_reducible apply RegsOff.ite
    | ((with_reducible show faultReg _ = true) <;> decide)
    | (intro _ _ _ _)
    | (intro _ _ _)
    | (intro _ _)
    | with_reducible refine RegsOff.same_regs ?_

theorem off_takeUp {z s : State} (hK : RegsOff faultReg z s) (p : Nat) :
    RegsOff faultReg z (State.takeUp s p) := by
  unfold State.takeUp
  try dsimp only
  repeat' first
    | with_reducible assumption
    | with_reducible apply off_setLink
    | with_reducible apply RegsOff.put
    | with_reducible apply RegsOff.forUpTo
    | ((with_reducible show faultReg _ = true) <;> decide)
    | (intro _ _ _ _)
    | (intro _ _ _)
    | (intro _ _)
    | with_reducible refine RegsOff.same_regs ?_

theorem off_selectUp {z s : State} (hK : RegsOff faultReg z s) :
    RegsOff faultReg z (State.selectUp s) := by
  unfold State.selectUp
  try dsimp only
  repeat' first
    | with_reducible assumption
    | with_reducible apply off_takeUp
    | with_reducible apply RegsOff.put
    | with_reducible apply RegsOff.wr
    | with_reducible apply RegsOff.ite
    | ((with_reducible show faultReg _ = true) <;> decide)
    | (intro _ _ _ _)
    | (intro _ _ _)
    | (intro _ _)
    | split
    | with_reducible refine RegsOff.same_regs ?_

theorem off_recRefresh {z s : State} (hK : RegsOff faultReg z s) (num : Nat) :
    RegsOff faultReg z (State.recRefresh s num) := by
  unfold State.recRefresh
  try dsimp only
  repeat' first
    | with_reducible assumption
    | with_reducible apply RegsOff.setFlag
    | with_reducible apply RegsOff.ite
    | with_reducible exact faultReg_FLT_RECr_W1_ACTIVE _
    | with_reducible exact faultReg_FLT_RECr_W1_CLASS _
    | with_reducible exact faultReg_FLT_RECr_W1_CLEARED _
    | with_reducible exact faultReg_FLT_RECr_W1_ENDED _
    | ((with_reducible show faultReg _ = true) <;> decide)
    | (intro _ _ _ _)
    | (intro _ _ _)
    | (intro _ _)
    | with_reducible refine RegsOff.same_regs ?_

theorem off_fltStat {z s : State} (hK : RegsOff faultReg z s) :
    RegsOff faultReg z (State.fltStat s) := by
  unfold State.fltStat
  try dsimp only
  repeat' first
    | with_reducible assumption
    | with_reducible apply RegsOff.put
    | with_reducible apply RegsOff.setFlag
    | with_reducible apply RegsOff.wrN
    | with_reducible apply RegsOff.foldl
    | with_reducible apply RegsOff.when
    | with_reducible exact faultReg_FLT_RECr_W1_CLASS _
    | ((with_reducible show faultReg _ = true) <;> decide)
    | (intro _ _ _ _)
    | (intro _ _ _)
    | (intro _ _)
    | with_reducible refine RegsOff.same_regs ?_

theorem off_fltRefresh {z s : State} (hK : RegsOff faultReg z s) :
    RegsOff faultReg z (State.fltRefresh s) := by
  unfold State.fltRefresh
  try dsimp only
  repeat' first
    | with_reducible assumption
    | with_reducible apply off_fltStat
    | with_reducible apply off_legRefresh
    | ((with_reducible show faultReg _ = true) <;> decide)
    | (intro _ _ _ _)
    | (intro _ _ _)
    | (intro _ _)
    | with_reducible refine RegsOff.same_regs ?_

theorem off_endCause {z s : State} (hK : RegsOff faultReg z s) (code inst : Nat) (tag : Nat) :
    RegsOff faultReg z (State.endCause s code inst tag) := by
  unfold State.endCause
  try dsimp only
  repeat' first
    | with_reducible assumption
    | with_reducible apply off_recRefresh
    | with_reducible apply off_fltRefresh
    | with_reducible apply RegsOff.foldl
    | with_reducible apply RegsOff.ite
    | ((with_reducible show faultReg _ = true) <;> decide)
    | (intro _ _ _ _)
    | (intro _ _ _)
    | (intro _ _)
    | with_reducible refine RegsOff.same_regs ?_

theorem off_giveUpRoot {z s : State} (hK : RegsOff faultReg z s) :
    RegsOff faultReg z (State.giveUpRoot s) := by
  unfold State.giveUpRoot
  try dsimp only
  repeat' first
    | with_reducible assumption
    | with_reducible apply off_endCause
    | with_reducible apply off_selectUp
    | with_reducible apply RegsOff.put
    | with_reducible apply RegsOff.setFlag
    | with_reducible apply RegsOff.ite
    | ((with_reducible show faultReg _ = true) <;> decide)
    | (intro _ _ _ _)
    | (intro _ _ _)
    | (intro _ _)
    | with_reducible refine RegsOff.same_regs ?_

theorem off_swapEnd {z s : State} (hK : RegsOff faultReg z s) (err : Nat) :
    RegsOff faultReg z (State.swapEnd s err) := by
  unfold State.swapEnd
  try dsimp only
  repeat' first
    | with_reducible assumption
    | with_reducible apply RegsOff.put
    | with_reducible apply RegsOff.setFlag
    | ((with_reducible show faultReg _ = true) <;> decide)
    | (intro _ _ _ _)
    | (intro _ _ _)
    | (intro _ _)
    | with_reducible refine RegsOff.same_regs ?_

theorem off_headOut {z s : State} (hK : RegsOff faultReg z s) :
    RegsOff faultReg z (State.headOut s) := by
  unfold State.headOut
  try dsimp only
  repeat' first
    | with_reducible assumption
    | with_reducible apply off_swapEnd
    | with_reducible apply off_giveUpRoot
    | with_reducible apply RegsOff.put
    | with_reducible apply RegsOff.setFlag
    | with_reducible apply RegsOff.ite
    | ((with_reducible show faultReg _ = true) <;> decide)
    | (intro _ _ _ _)
    | (intro _ _ _)
    | (intro _ _)
    | with_reducible refine RegsOff.same_regs ?_

theorem off_openRecord {z s : State} (hK : RegsOff faultReg z s) (num : Nat) (r : Raise) (c : Word) :
    RegsOff faultReg z (State.openRecord s num r c) := by
  unfold State.openRecord
  try dsimp only
  repeat' first
    | with_reducible assumption
    | with_reducible apply RegsOff.emit
    | with_reducible apply RegsOff.put
    | with_reducible apply RegsOff.wr
    | with_reducible apply RegsOff.wrN
    | with_reducible apply RegsOff.when
    | with_reducible apply RegsOff.ite
    | with_reducible exact faultReg_rec _ _ (by decide)
    | ((with_reducible show faultReg _ = true) <;> decide)
    | (intro _ _ _ _)
    | (intro _ _ _)
    | (intro _ _)
    | split
    | with_reducible refine RegsOff.same_regs ?_

theorem off_mergeRecord {z s : State} (hK : RegsOff faultReg z s) (num : Nat) (r : Raise) (c : Word) :
    RegsOff faultReg z (State.mergeRecord s num r c) := by
  unfold State.mergeRecord
  try dsimp only
  repeat' first
    | with_reducible assumption
    | with_reducible apply RegsOff.bump
    | with_reducible apply RegsOff.put
    | with_reducible apply RegsOff.setFlag
    | with_reducible apply RegsOff.wr
    | with_reducible apply RegsOff.ite
    | with_reducible exact faultReg_FLT_RECr_W1_ACTIVE _
    | with_reducible exact faultReg_FLT_RECr_W1_BROKEN _
    | with_reducible exact faultReg_FLT_RECr_W1_CLASS _
    | with_reducible exact faultReg_FLT_RECr_W1_CLEARED _
    | with_reducible exact faultReg_FLT_RECr_W6_COUNT _
    | with_reducible exact faultReg_FLT_RECr_W6_LAST _
    | with_reducible exact faultReg_rec _ _ (by decide)
    | ((with_reducible show faultReg _ = true) <;> decide)
    | (intro _ _ _ _)
    | (intro _ _ _)
    | (intro _ _)
    | with_reducible refine RegsOff.same_regs ?_

theorem off_raiseRecord {z s : State} (hK : RegsOff faultReg z s) (recd : Option Nat) (r : Raise) (c : Word) :
    RegsOff faultReg z (State.raiseRecord s recd r c) := by
  unfold State.raiseRecord
  try dsimp only
  repeat' first
    | with_reducible assumption
    | with_reducible apply off_mergeRecord
    | with_reducible apply off_openRecord
    | with_reducible apply RegsOff.bumpReg
    | ((with_reducible show faultReg _ = true) <;> decide)
    | (intro _ _ _ _)
    | (intro _ _ _)
    | (intro _ _)
    | split
    | with_reducible refine RegsOff.same_regs ?_

theorem off_addCause {z s : State} (hK : RegsOff faultReg z s) (c : Cause) :
    RegsOff faultReg z (State.addCause s c) := by
  unfold State.addCause
  try dsimp only
  repeat' first
    | with_reducible assumption
    | ((with_reducible show faultReg _ = true) <;> decide)
    | (intro _ _ _ _)
    | (intro _ _ _)
    | (intro _ _)
    | with_reducible refine RegsOff.same_regs ?_

theorem off_addHold {z s : State} (hK : RegsOff faultReg z s) (h : Hold) :
    RegsOff faultReg z (State.addHold s h) := by
  unfold State.addHold
  try dsimp only
  repeat' first
    | with_reducible assumption
    | ((with_reducible show faultReg _ = true) <;> decide)
    | (intro _ _ _ _)
    | (intro _ _ _)
    | (intro _ _)
    | with_reducible refine RegsOff.same_regs ?_

theorem off_lockOut {z s : State} (hK : RegsOff faultReg z s) :
    RegsOff faultReg z (State.lockOut s) := by
  unfold State.lockOut
  try dsimp only
  repeat' first
    | with_reducible assumption
    | with_reducible apply off_holdOut
    | with_reducible apply RegsOff.put
    | ((with_reducible show faultReg _ = true) <;> decide)
    | (intro _ _ _ _)
    | (intro _ _ _)
    | (intro _ _)
    | with_reducible refine RegsOff.same_regs ?_

theorem off_raise1 {z s : State} (hK : RegsOff faultReg z s) (r : Raise) :
    RegsOff faultReg z (State.raise1 s r) := by
  unfold State.raise1
  try dsimp only
  repeat' first
    | with_reducible assumption
    | with_reducible apply off_raiseRecord
    | with_reducible apply off_addCause
    | with_reducible apply off_addHold
    | with_reducible apply off_recRefresh
    | with_reducible apply off_headOut
    | with_reducible apply off_lockOut
    | with_reducible apply off_fltRefresh
    | with_reducible apply RegsOff.ite
    | ((with_reducible show faultReg _ = true) <;> decide)
    | (intro _ _ _ _)
    | (intro _ _ _)
    | (intro _ _)
    | split
    | with_reducible refine RegsOff.same_regs ?_

theorem off_raise2 {z s : State} (hK : RegsOff faultReg z s) (r : Raise) :
    RegsOff faultReg z (State.raise2 s r) := by
  unfold State.raise2
  try dsimp only
  repeat' first
    | with_reducible assumption
    | with_reducible apply off_raise1
    | with_reducible apply RegsOff.ite
    | ((with_reducible show faultReg _ = true) <;> decide)
    | (intro _ _ _ _)
    | (intro _ _ _)
    | (intro _ _)
    | with_reducible refine RegsOff.same_regs ?_

theorem off_mergeEnd {z s : State} (hK : RegsOff faultReg z s) :
    RegsOff faultReg z (State.mergeEnd s) := by
  unfold State.mergeEnd
  try dsimp only
  repeat' first
    | with_reducible assumption
    | with_reducible apply RegsOff.setFlag
    | with_reducible apply RegsOff.ite
    | with_reducible exact faultReg_FLT_RECr_W1_OPEN _
    | ((with_reducible show faultReg _ = true) <;> decide)
    | (intro _ _ _ _)
    | (intro _ _ _)
    | (intro _ _)
    | split
    | with_reducible refine RegsOff.same_regs ?_

theorem off_raise {z s0 : State} (hK : RegsOff faultReg z s0) (r : Raise) :
    RegsOff faultReg z (State.raise s0 r) := by
  unfold State.raise
  try dsimp only
  repeat' first
    | with_reducible assumption
    | with_reducible apply off_mergeEnd
    | with_reducible apply off_raise2
    | with_reducible apply off_raise1
    | with_reducible apply RegsOff.ite
    | ((with_reducible show faultReg _ = true) <;> decide)
    | (intro _ _ _ _)
    | (intro _ _ _)
    | (intro _ _)
    | with_reducible refine RegsOff.same_regs ?_

theorem off_raiseLater {z s : State} (hK : RegsOff faultReg z s) (r : Raise) :
    RegsOff faultReg z (State.raiseLater s r) := by
  unfold State.raiseLater
  try dsimp only
  repeat' first
    | with_reducible assumption
    | ((with_reducible show faultReg _ = true) <;> decide)
    | (intro _ _ _ _)
    | (intro _ _ _)
    | (intro _ _)
    | with_reducible refine RegsOff.same_regs ?_

theorem off_raiseDue {z s : State} (hK : RegsOff faultReg z s) :
    RegsOff faultReg z (State.raiseDue s) := by
  unfold State.raiseDue
  try dsimp only
  repeat' first
    | with_reducible assumption
    | with_reducible apply off_raise
    | with_reducible apply RegsOff.foldl
    | ((with_reducible show faultReg _ = true) <;> decide)
    | (intro _ _ _ _)
    | (intro _ _ _)
    | (intro _ _)
    | with_reducible refine RegsOff.same_regs ?_

/-- A raise leaves every register outside `faultReg` as it was. -/
theorem rd_raise_other (s : State) (r : Raise) {a : Nat} (h : faultReg a = false) : (s.raise r).rd a = s.rd a :=
  (off_raise (RegsOff.refl _ s) r).same a h

end Sys2Proof.Machine
end

