-- ==== Sys2Proof/Laws/Keep.lean ====
section
/-! SUPPORT. Laws/Keep.lean: the relation `Keeps`, what every operation of the running node respects: the canonical forms,
the waiting commands, what has been sent, the free values used, the lockout latch (R568) and the vault's seconds (R74). It
is reflexive and transitive, so one lemma per operation is enough. -/
namespace Sys2Proof.Machine

/-- `t` comes from `s` by operations of the running node. -/
structure Keeps (s t : State) : Prop where
  regs : Regs.wf s.regs = true → Regs.wf t.regs = true
  mem : Memory.wf s.mem = true → Memory.wf t.mem = true
  pending : t.pending = s.pending
  out : s.out <+: t.out
  free : s.free ≤ t.free
  lockout : s.flt.lockout = true → t.flt.lockout = true
  sec : t.vault.sec = s.vault.sec

theorem Keeps.refl (s : State) : Keeps s s :=
  ⟨id, id, rfl, List.prefix_refl _, Nat.le_refl _, id, rfl⟩

theorem Keeps.trans {a b c : State} (h : Keeps a b) (k : Keeps b c) : Keeps a c :=
  ⟨fun x => k.regs (h.regs x), fun x => k.mem (h.mem x), k.pending.trans h.pending, h.out.trans k.out,
    Nat.le_trans h.free k.free, fun x => k.lockout (h.lockout x), k.sec.trans h.sec⟩

/-- An update that leaves every component `Keeps` looks at as it was. -/
theorem Keeps.mk' {a b : State} (h : Keeps a b) {sys : SysSt} {vault : VaultSt} {clk : ClkSt} {flash : FlashChip} {vendorKey : BitVec 512} {fuse : FuseSt} {img : ImgSt} {lnk : LnkSt} {rng : RngSt} {tim : TimSt} {pwm : PwmSt} {gd : GdSt} {dpx : DpxSt} {flt : FltSt} {eng : EngSt} {adc : AdcSt} {memx : MemSt} {thm : ThmSt} {bal : BalSt} {saf : SafSt} {sup : SupSt} {mbx : MbxSt} {mtr : MtrSt} {raises : List Raise}
    (hl : flt.lockout = b.flt.lockout) (hs : vault.sec = b.vault.sec) :
    Keeps a ⟨b.regs, b.mem, sys, vault, clk, flash, vendorKey, fuse, img, lnk, rng, tim, pwm, gd, dpx, flt, eng, adc, memx, thm, bal, saf, sup, mbx, mtr, raises, b.out, b.free, b.pending⟩ :=
  h.trans ⟨id, id, rfl, List.prefix_refl _, Nat.le_refl _, fun x => hl.trans x, hs⟩

theorem Keeps.ite {c : Prop} [Decidable c] {a x y : State} (hx : Keeps a x) (hy : Keeps a y) :
    Keeps a (if c then x else y) := by split <;> assumption

theorem Keeps.iteFst {β : Type} {c : Prop} [Decidable c] {a : State} {x y : State × β} (hx : Keeps a x.1)
    (hy : Keeps a y.1) : Keeps a (if c then x else y).1 := by split <;> assumption

/-- Whatever state an operation that may refuse answers. -/
def KeepsO (a : State) (o : Option State) : Prop := ∀ t, o = some t → Keeps a t

theorem KeepsO.some {a t : State} (h : Keeps a t) : KeepsO a (some t) := by
  intro u hu; cases hu; exact h

theorem KeepsO.none {a : State} : KeepsO a none := by intro u hu; cases hu

theorem KeepsO.ite {c : Prop} [Decidable c] {a : State} {x y : Option State} (hx : KeepsO a x) (hy : KeepsO a y) :
    KeepsO a (if c then x else y) := by split <;> assumption

theorem Keeps.foldl {β : Type} {a s : State} {f : State → β → State} {l : List β} (h : Keeps a s)
    (hf : ∀ b x, Keeps a b → Keeps a (f b x)) : Keeps a (l.foldl f s) := by
  induction l generalizing s with
  | nil => exact h
  | cons x t ih => exact ih (hf s x h)

theorem Keeps.foldlFst {β γ : Type} {a : State} {p : State × γ} {f : State × γ → β → State × γ} {l : List β}
    (h : Keeps a p.1) (hf : ∀ q x, Keeps a q.1 → Keeps a (f q x).1) : Keeps a (l.foldl f p).1 := by
  induction l generalizing p with
  | nil => exact h
  | cons x t ih => exact ih (hf p x h)

theorem Keeps.forUpTo {a s : State} {n : Nat} {f : Nat → State → State} (h : Keeps a s)
    (hf : ∀ i b, Keeps a b → Keeps a (f i b)) : Keeps a (forUpTo n f s) :=
  Keeps.foldl h fun b i hb => hf i b hb

theorem Keeps.live {a s : State} {f : State → State} (h : Keeps a s) (hf : ∀ b, Keeps a b → Keeps a (f b)) :
    Keeps a (s.live f) := by
  unfold State.live; split
  · exact h
  · exact hf s h

theorem Keeps.when {a s : State} {c : Bool} {f : State → State} (h : Keeps a s)
    (hf : ∀ b, Keeps a b → Keeps a (f b)) : Keeps a (s.when c f) := by
  unfold State.when; split
  · exact hf s h
  · exact h

theorem Keeps.byMaster {a s : State} {m : Master} {f : State → State} (h : Keeps a s)
    (hf : ∀ b, Keeps a b → Keeps a (f b)) : Keeps a (s.byMaster m f) :=
  Keeps.live h fun _ hb => Keeps.when hb hf

theorem Keeps.wr {a s : State} (h : Keeps a s) (x : Nat) (v : Word) : Keeps a (s.wr x v) :=
  h.trans ⟨wf_wr s x v, id, rfl, List.prefix_refl _, Nat.le_refl _, id, rfl⟩

theorem Keeps.setByte {a s : State} (h : Keeps a s) (x : Nat) (v : Byte) : Keeps a (s.setByte x v) :=
  h.trans ⟨id, wf_setByte s x v, rfl, List.prefix_refl _, Nat.le_refl _, id, rfl⟩

theorem Keeps.storeLe {a s : State} (h : Keeps a s) (x n v : Nat) : Keeps a (s.storeLe x n v) := by
  induction n generalizing s x v with
  | zero => exact h
  | succ n ih => exact ih (h.setByte _ _) _ _

theorem Keeps.emit {a s : State} (h : Keeps a s) (o : Out) : Keeps a (s.emit o) :=
  h.trans ⟨id, id, rfl, ⟨[o], rfl⟩, Nat.le_refl _, id, rfl⟩

theorem Keeps.useMany {a s : State} (h : Keeps a s) (n : Nat) : Keeps a (s.useMany n) :=
  h.trans ⟨id, id, rfl, List.prefix_refl _, Nat.le_add_right _ _, id, rfl⟩

theorem Keeps.useFree {a s : State} (h : Keeps a s) : Keeps a s.useFree :=
  h.trans ⟨id, id, rfl, List.prefix_refl _, Nat.le_succ _, id, rfl⟩

end Sys2Proof.Machine
end

