-- ==== Sys2Proof/Laws/KeepOps.lean ====
section
/-! SUPPORT. Laws/KeepOps.lean: `Keeps` of the operations of Machine/Ops.lean. -/
namespace Sys2Proof.Machine
set_option Elab.async false

theorem keeps_put {z s : State} (hK : Keeps z s) (f : Fld) (v : Nat) : Keeps z (State.put s f v) := by
  unfold State.put
  try dsimp only
  repeat' first
    | with_reducible assumption
    | with_reducible apply Keeps.wr
    | (intro _ _ _)
    | (intro _ _)
    | with_reducible refine Keeps.mk' ?_ rfl rfl

theorem keeps_setFlag {z s : State} (hK : Keeps z s) (f : Fld) (b : Bool) : Keeps z (State.setFlag s f b) := by
  unfold State.setFlag
  try dsimp only
  repeat' first
    | with_reducible assumption
    | with_reducible apply keeps_put
    | (intro _ _ _)
    | (intro _ _)
    | with_reducible refine Keeps.mk' ?_ rfl rfl

theorem keeps_bump {z s : State} (hK : Keeps z s) (f : Fld) (n : Nat) : Keeps z (State.bump s f n) := by
  unfold State.bump
  try dsimp only
  repeat' first
    | with_reducible assumption
    | with_reducible apply keeps_put
    | (intro _ _ _)
    | (intro _ _)
    | with_reducible refine Keeps.mk' ?_ rfl rfl

theorem keeps_bumpWrap {z s : State} (hK : Keeps z s) (f : Fld) (n : Nat) : Keeps z (State.bumpWrap s f n) := by
  unfold State.bumpWrap
  try dsimp only
  repeat' first
    | with_reducible assumption
    | with_reducible apply keeps_put
    | (intro _ _ _)
    | (intro _ _)
    | with_reducible refine Keeps.mk' ?_ rfl rfl

theorem keeps_bumpReg {z s : State} (hK : Keeps z s) (a : Nat) (n : Nat) : Keeps z (State.bumpReg s a n) := by
  unfold State.bumpReg
  try dsimp only
  repeat' first
    | with_reducible assumption
    | with_reducible apply Keeps.wr
    | (intro _ _ _)
    | (intro _ _)
    | with_reducible refine Keeps.mk' ?_ rfl rfl

theorem keeps_wrN {z s : State} (hK : Keeps z s) (a v : Nat) : Keeps z (State.wrN s a v) := by
  unfold State.wrN
  try dsimp only
  repeat' first
    | with_reducible assumption
    | with_reducible apply Keeps.wr
    | (intro _ _ _)
    | (intro _ _)
    | with_reducible refine Keeps.mk' ?_ rfl rfl

theorem keeps_setChan {z s : State} (hK : Keeps z s) (n : Nat) (c : ChanSt) : Keeps z (State.setChan s n c) := by
  unfold State.setChan
  try dsimp only
  repeat' first
    | with_reducible assumption
    | (intro _ _ _)
    | (intro _ _)
    | with_reducible refine Keeps.mk' ?_ rfl rfl

theorem keeps_setLeg {z s : State} (hK : Keeps z s) (n : Nat) (l : LegSt) : Keeps z (State.setLeg s n l) := by
  unfold State.setLeg
  try dsimp only
  repeat' first
    | with_reducible assumption
    | (intro _ _ _)
    | (intro _ _)
    | with_reducible refine Keeps.mk' ?_ rfl rfl

theorem keeps_setGate {z s : State} (hK : Keeps z s) (c : Nat) (g : GateSt) : Keeps z (State.setGate s c g) := by
  unfold State.setGate
  try dsimp only
  repeat' first
    | with_reducible assumption
    | (intro _ _ _)
    | (intro _ _)
    | with_reducible refine Keeps.mk' ?_ rfl rfl

theorem keeps_setGateLeg {z s : State} (hK : Keeps z s) (n : Nat) (g : GateLeg) : Keeps z (State.setGateLeg s n g) := by
  unfold State.setGateLeg
  try dsimp only
  repeat' first
    | with_reducible assumption
    | (intro _ _ _)
    | (intro _ _)
    | with_reducible refine Keeps.mk' ?_ rfl rfl

theorem keeps_setPort {z s : State} (hK : Keeps z s) (p : Nat) (v : PortSt) : Keeps z (State.setPort s p v) := by
  unfold State.setPort
  try dsimp only
  repeat' first
    | with_reducible assumption
    | (intro _ _ _)
    | (intro _ _)
    | with_reducible refine Keeps.mk' ?_ rfl rfl

theorem keeps_setLane {z s : State} (hK : Keeps z s) (p l : Nat) (v : LaneSt) : Keeps z (State.setLane s p l v) := by
  unfold State.setLane
  try dsimp only
  repeat' first
    | with_reducible assumption
    | (intro _ _ _)
    | (intro _ _)
    | with_reducible refine Keeps.mk' ?_ rfl rfl

theorem keeps_setLink {z s : State} (hK : Keeps z s) (p : Nat) (v : LinkTime) : Keeps z (State.setLink s p v) := by
  unfold State.setLink
  try dsimp only
  repeat' first
    | with_reducible assumption
    | (intro _ _ _)
    | (intro _ _)
    | with_reducible refine Keeps.mk' ?_ rfl rfl

theorem keeps_setTpo {z s : State} (hK : Keeps z s) (n : Nat) (v : TpoSt) : Keeps z (State.setTpo s n v) := by
  unfold State.setTpo
  try dsimp only
  repeat' first
    | with_reducible assumption
    | (intro _ _ _)
    | (intro _ _)
    | with_reducible refine Keeps.mk' ?_ rfl rfl

theorem keeps_setMember {z s : State} (hK : Keeps z s) (p : Nat) (v : Member) : Keeps z (State.setMember s p v) := by
  unfold State.setMember
  try dsimp only
  repeat' first
    | with_reducible assumption
    | (intro _ _ _)
    | (intro _ _)
    | with_reducible refine Keeps.mk' ?_ rfl rfl

theorem keeps_setEngSlot {z s : State} (hK : Keeps z s) (n : Nat) (v : EngSlot) : Keeps z (State.setEngSlot s n v) := by
  unfold State.setEngSlot
  try dsimp only
  repeat' first
    | with_reducible assumption
    | (intro _ _ _)
    | (intro _ _)
    | with_reducible refine Keeps.mk' ?_ rfl rfl

theorem keeps_setEngGroup {z s : State} (hK : Keeps z s) (g : Nat) (v : EngGroup) : Keeps z (State.setEngGroup s g v) := by
  unfold State.setEngGroup
  try dsimp only
  repeat' first
    | with_reducible assumption
    | (intro _ _ _)
    | (intro _ _)
    | with_reducible refine Keeps.mk' ?_ rfl rfl

theorem keeps_setAdcDue {z s : State} (hK : Keeps z s) (m : Nat) (l : List (Nat × Nat)) : Keeps z (State.setAdcDue s m l) := by
  unfold State.setAdcDue
  try dsimp only
  repeat' first
    | with_reducible assumption
    | (intro _ _ _)
    | (intro _ _)
    | with_reducible refine Keeps.mk' ?_ rfl rfl

theorem keeps_setResult {z s : State} (hK : Keeps z s) (i : Nat) (v : Option Word) : Keeps z (State.setResult s i v) := by
  unfold State.setResult
  try dsimp only
  repeat' first
    | with_reducible assumption
    | (intro _ _ _)
    | (intro _ _)
    | with_reducible refine Keeps.mk' ?_ rfl rfl

theorem keeps_setAsk {z s : State} (hK : Keeps z s) (p : Nat) (v : Ask) : Keeps z (State.setAsk s p v) := by
  unfold State.setAsk
  try dsimp only
  repeat' first
    | with_reducible assumption
    | (intro _ _ _)
    | (intro _ _)
    | with_reducible refine Keeps.mk' ?_ rfl rfl

theorem keeps_gateRefresh {z s : State} (hK : Keeps z s) (n : Nat) : Keeps z (State.gateRefresh s n) := by
  unfold State.gateRefresh
  try dsimp only
  repeat' first
    | with_reducible assumption
    | with_reducible apply keeps_setGate
    | (intro _ _ _)
    | (intro _ _)
    | with_reducible refine Keeps.mk' ?_ rfl rfl

theorem keeps_legRefresh1 {z s : State} (hK : Keeps z s) (n : Nat) : Keeps z (State.legRefresh1 s n) := by
  unfold State.legRefresh1
  try dsimp only
  repeat' first
    | with_reducible assumption
    | with_reducible apply keeps_put
    | with_reducible apply keeps_setLeg
    | with_reducible apply keeps_setGate
    | with_reducible apply keeps_gateRefresh
    | with_reducible apply Keeps.ite
    | (intro _ _ _)
    | (intro _ _)
    | with_reducible refine Keeps.mk' ?_ rfl rfl

theorem keeps_legRefresh {z s : State} (hK : Keeps z s) : Keeps z (State.legRefresh s) := by
  unfold State.legRefresh
  try dsimp only
  repeat' first
    | with_reducible assumption
    | with_reducible apply keeps_legRefresh1
    | with_reducible apply Keeps.forUpTo
    | (intro _ _ _)
    | (intro _ _)
    | with_reducible refine Keeps.mk' ?_ rfl rfl

theorem keeps_haltCarriers {z s : State} (hK : Keeps z s) : Keeps z (State.haltCarriers s) := by
  unfold State.haltCarriers
  try dsimp only
  repeat' first
    | with_reducible assumption
    | with_reducible apply keeps_setChan
    | with_reducible apply Keeps.forUpTo
    | (intro _ _ _)
    | (intro _ _)
    | with_reducible refine Keeps.mk' ?_ rfl rfl

theorem keeps_startCarriers {z s : State} (hK : Keeps z s) : Keeps z (State.startCarriers s) := by
  unfold State.startCarriers
  try dsimp only
  repeat' first
    | with_reducible assumption
    | with_reducible apply keeps_setChan
    | with_reducible apply Keeps.forUpTo
    | (intro _ _ _)
    | (intro _ _)
    | split
    | with_reducible refine Keeps.mk' ?_ rfl rfl

theorem keeps_loseTimebase {z s : State} (hK : Keeps z s) : Keeps z (State.loseTimebase s) := by
  unfold State.loseTimebase
  try dsimp only
  repeat' first
    | with_reducible assumption
    | with_reducible apply keeps_haltCarriers
    | with_reducible apply keeps_setFlag
    | with_reducible apply keeps_legRefresh
    | (intro _ _ _)
    | (intro _ _)
    | with_reducible refine Keeps.mk' ?_ rfl rfl

theorem keeps_setRoot {z s : State} (hK : Keeps z s) (r : Root) : Keeps z (State.setRoot s r) := by
  unfold State.setRoot
  try dsimp only
  repeat' first
    | with_reducible assumption
    | with_reducible apply keeps_put
    | (intro _ _ _)
    | (intro _ _)
    | with_reducible refine Keeps.mk' ?_ rfl rfl

theorem keeps_rootSearch {z s : State} (hK : Keeps z s) : Keeps z (State.rootSearch s) := by
  unfold State.rootSearch
  try dsimp only
  repeat' first
    | with_reducible assumption
    | with_reducible apply keeps_setRoot
    | with_reducible apply keeps_loseTimebase
    | (intro _ _ _)
    | (intro _ _)
    | with_reducible refine Keeps.mk' ?_ rfl rfl

theorem keeps_holdOut {z s : State} (hK : Keeps z s) : Keeps z (State.holdOut s) := by
  unfold State.holdOut
  try dsimp only
  repeat' first
    | with_reducible assumption
    | with_reducible apply keeps_rootSearch
    | with_reducible apply Keeps.ite
    | (intro _ _ _)
    | (intro _ _)
    | with_reducible refine Keeps.mk' ?_ rfl rfl

theorem keeps_ckoWritten {z s : State} (hK : Keeps z s) (n : Nat) : Keeps z (State.ckoWritten s n) := by
  unfold State.ckoWritten
  try dsimp only
  repeat' first
    | with_reducible assumption
    | with_reducible apply keeps_setFlag
    | with_reducible apply Keeps.when
    | (intro _ _ _)
    | (intro _ _)
    | with_reducible refine Keeps.mk' ?_ rfl rfl

theorem keeps_setChain {z s : State} (hK : Keeps z s) (c : Frac) : Keeps z (State.setChain s c) := by
  unfold State.setChain
  try dsimp only
  repeat' first
    | with_reducible assumption
    | with_reducible apply keeps_wrN
    | (intro _ _ _)
    | (intro _ _)
    | with_reducible refine Keeps.mk' ?_ rfl rfl

theorem keeps_takeUp {z s : State} (hK : Keeps z s) (p : Nat) : Keeps z (State.takeUp s p) := by
  unfold State.takeUp
  try dsimp only
  repeat' first
    | with_reducible assumption
    | with_reducible apply keeps_put
    | with_reducible apply keeps_setLink
    | with_reducible apply Keeps.forUpTo
    | (intro _ _ _)
    | (intro _ _)
    | with_reducible refine Keeps.mk' ?_ rfl rfl

theorem keeps_selectUp {z s : State} (hK : Keeps z s) : Keeps z (State.selectUp s) := by
  unfold State.selectUp
  try dsimp only
  repeat' first
    | with_reducible assumption
    | with_reducible apply keeps_takeUp
    | with_reducible apply keeps_put
    | with_reducible apply Keeps.wr
    | with_reducible apply Keeps.ite
    | (intro _ _ _)
    | (intro _ _)
    | split
    | with_reducible refine Keeps.mk' ?_ rfl rfl

theorem keeps_recRefresh {z s : State} (hK : Keeps z s) (num : Nat) : Keeps z (State.recRefresh s num) := by
  unfold State.recRefresh
  try dsimp only
  repeat' first
    | with_reducible assumption
    | with_reducible apply keeps_setFlag
    | with_reducible apply Keeps.ite
    | (intro _ _ _)
    | (intro _ _)
    | with_reducible refine Keeps.mk' ?_ rfl rfl

theorem keeps_fltStat {z s : State} (hK : Keeps z s) : Keeps z (State.fltStat s) := by
  unfold State.fltStat
  try dsimp only
  repeat' first
    | with_reducible assumption
    | with_reducible apply keeps_wrN
    | with_reducible apply keeps_put
    | with_reducible apply keeps_setFlag
    | with_reducible apply Keeps.foldlFst
    | with_reducible apply Keeps.foldl
    | with_reducible apply Keeps.when
    | (intro _ _ _)
    | (intro _ _)
    | with_reducible refine Keeps.mk' ?_ rfl rfl

theorem keeps_fltRefresh {z s : State} (hK : Keeps z s) : Keeps z (State.fltRefresh s) := by
  unfold State.fltRefresh
  try dsimp only
  repeat' first
    | with_reducible assumption
    | with_reducible apply keeps_fltStat
    | with_reducible apply keeps_legRefresh
    | (intro _ _ _)
    | (intro _ _)
    | with_reducible refine Keeps.mk' ?_ rfl rfl

theorem keeps_endCause {z s : State} (hK : Keeps z s) (code inst : Nat) (tag : Nat) : Keeps z (State.endCause s code inst tag) := by
  unfold State.endCause
  try dsimp only
  repeat' first
    | with_reducible assumption
    | with_reducible apply keeps_recRefresh
    | with_reducible apply keeps_fltRefresh
    | with_reducible apply Keeps.foldlFst
    | with_reducible apply Keeps.foldl
    | with_reducible apply Keeps.ite
    | (intro _ _ _)
    | (intro _ _)
    | with_reducible refine Keeps.mk' ?_ rfl rfl

theorem keeps_giveUpRoot {z s : State} (hK : Keeps z s) : Keeps z (State.giveUpRoot s) := by
  unfold State.giveUpRoot
  try dsimp only
  repeat' first
    | with_reducible assumption
    | with_reducible apply keeps_setFlag
    | with_reducible apply keeps_endCause
    | with_reducible apply keeps_put
    | with_reducible apply keeps_selectUp
    | with_reducible apply Keeps.ite
    | (intro _ _ _)
    | (intro _ _)
    | with_reducible refine Keeps.mk' ?_ rfl rfl

theorem keeps_swapEnd {z s : State} (hK : Keeps z s) (err : Nat) : Keeps z (State.swapEnd s err) := by
  unfold State.swapEnd
  try dsimp only
  repeat' first
    | with_reducible assumption
    | with_reducible apply keeps_put
    | with_reducible apply keeps_setFlag
    | (intro _ _ _)
    | (intro _ _)
    | with_reducible refine Keeps.mk' ?_ rfl rfl

theorem keeps_headOut {z s : State} (hK : Keeps z s) : Keeps z (State.headOut s) := by
  unfold State.headOut
  try dsimp only
  repeat' first
    | with_reducible assumption
    | with_reducible apply keeps_put
    | with_reducible apply keeps_setFlag
    | with_reducible apply keeps_swapEnd
    | with_reducible apply keeps_giveUpRoot
    | with_reducible apply Keeps.ite
    | (intro _ _ _)
    | (intro _ _)
    | with_reducible refine Keeps.mk' ?_ rfl rfl

theorem keeps_openRecord {z s : State} (hK : Keeps z s) (num : Nat) (r : Raise) (c : Word) : Keeps z (State.openRecord s num r c) := by
  unfold State.openRecord
  try dsimp only
  repeat' first
    | with_reducible assumption
    | with_reducible apply keeps_wrN
    | with_reducible apply keeps_put
    | with_reducible apply Keeps.wr
    | with_reducible apply Keeps.emit
    | with_reducible apply Keeps.when
    | with_reducible apply Keeps.ite
    | (intro _ _ _)
    | (intro _ _)
    | split
    | with_reducible refine Keeps.mk' ?_ rfl rfl

theorem keeps_mergeRecord {z s : State} (hK : Keeps z s) (num : Nat) (r : Raise) (c : Word) : Keeps z (State.mergeRecord s num r c) := by
  unfold State.mergeRecord
  try dsimp only
  repeat' first
    | with_reducible assumption
    | with_reducible apply keeps_put
    | with_reducible apply keeps_bump
    | with_reducible apply keeps_setFlag
    | with_reducible apply Keeps.wr
    | with_reducible apply Keeps.ite
    | (intro _ _ _)
    | (intro _ _)
    | with_reducible refine Keeps.mk' ?_ rfl rfl

theorem keeps_raiseRecord {z s : State} (hK : Keeps z s) (recd : Option Nat) (r : Raise) (c : Word) : Keeps z (State.raiseRecord s recd r c) := by
  unfold State.raiseRecord
  try dsimp only
  repeat' first
    | with_reducible assumption
    | with_reducible apply keeps_mergeRecord
    | with_reducible apply keeps_openRecord
    | with_reducible apply keeps_bumpReg
    | (intro _ _ _)
    | (intro _ _)
    | split
    | with_reducible refine Keeps.mk' ?_ rfl rfl

theorem keeps_addCause {z s : State} (hK : Keeps z s) (c : Cause) : Keeps z (State.addCause s c) := by
  unfold State.addCause
  try dsimp only
  repeat' first
    | with_reducible assumption
    | (intro _ _ _)
    | (intro _ _)
    | with_reducible refine Keeps.mk' ?_ rfl rfl

theorem keeps_addHold {z s : State} (hK : Keeps z s) (h : Hold) : Keeps z (State.addHold s h) := by
  unfold State.addHold
  try dsimp only
  repeat' first
    | with_reducible assumption
    | (intro _ _ _)
    | (intro _ _)
    | with_reducible refine Keeps.mk' ?_ rfl rfl

theorem keeps_lockOut {z s : State} (hK : Keeps z s) : Keeps z (s.lockOut) := by
  have h : Keeps z { s with flt := { s.flt with lockout := true } } :=
    hK.trans ⟨id, id, rfl, List.prefix_refl _, Nat.le_refl _, fun _ => rfl, rfl⟩
  exact keeps_holdOut (keeps_put h _ _)

theorem keeps_raise1 {z s : State} (hK : Keeps z s) (r : Raise) : Keeps z (State.raise1 s r) := by
  unfold State.raise1
  try dsimp only
  repeat' first
    | with_reducible assumption
    | with_reducible apply keeps_raiseRecord
    | with_reducible apply keeps_addCause
    | with_reducible apply keeps_addHold
    | with_reducible apply keeps_recRefresh
    | with_reducible apply keeps_headOut
    | with_reducible apply keeps_lockOut
    | with_reducible apply keeps_fltRefresh
    | with_reducible apply Keeps.ite
    | (intro _ _ _)
    | (intro _ _)
    | split
    | with_reducible refine Keeps.mk' ?_ rfl rfl

theorem keeps_raise2 {z s : State} (hK : Keeps z s) (r : Raise) : Keeps z (State.raise2 s r) := by
  unfold State.raise2
  try dsimp only
  repeat' first
    | with_reducible assumption
    | with_reducible apply keeps_raise1
    | with_reducible apply Keeps.ite
    | (intro _ _ _)
    | (intro _ _)
    | with_reducible refine Keeps.mk' ?_ rfl rfl

theorem keeps_mergeEnd {z s : State} (hK : Keeps z s) : Keeps z (State.mergeEnd s) := by
  unfold State.mergeEnd
  try dsimp only
  repeat' first
    | with_reducible assumption
    | with_reducible apply keeps_setFlag
    | with_reducible apply Keeps.ite
    | (intro _ _ _)
    | (intro _ _)
    | split
    | with_reducible refine Keeps.mk' ?_ rfl rfl

theorem keeps_raise {z s0 : State} (hK : Keeps z s0) (r : Raise) : Keeps z (State.raise s0 r) := by
  unfold State.raise
  try dsimp only
  repeat' first
    | with_reducible assumption
    | with_reducible apply keeps_mergeEnd
    | with_reducible apply keeps_raise2
    | with_reducible apply keeps_raise1
    | with_reducible apply Keeps.ite
    | (intro _ _ _)
    | (intro _ _)
    | with_reducible refine Keeps.mk' ?_ rfl rfl

theorem keeps_raiseLater {z s : State} (hK : Keeps z s) (r : Raise) : Keeps z (State.raiseLater s r) := by
  unfold State.raiseLater
  try dsimp only
  repeat' first
    | with_reducible assumption
    | (intro _ _ _)
    | (intro _ _)
    | with_reducible refine Keeps.mk' ?_ rfl rfl

theorem keeps_raiseDue {z s : State} (hK : Keeps z s) : Keeps z (State.raiseDue s) := by
  unfold State.raiseDue
  try dsimp only
  repeat' first
    | with_reducible assumption
    | with_reducible apply keeps_raise
    | with_reducible apply Keeps.foldlFst
    | with_reducible apply Keeps.foldl
    | (intro _ _ _)
    | (intro _ _)
    | with_reducible refine Keeps.mk' ?_ rfl rfl

theorem keeps_violation {z s : State} (hK : Keeps z s) (m : Master) (write : Bool) (a : Nat) : Keeps z (State.violation s m write a) := by
  unfold State.violation
  try dsimp only
  repeat' first
    | with_reducible assumption
    | with_reducible apply keeps_bumpReg
    | with_reducible apply keeps_setFlag
    | with_reducible apply keeps_put
    | (intro _ _ _)
    | (intro _ _)
    | with_reducible refine Keeps.mk' ?_ rfl rfl

theorem keeps_outItem {z s : State} (hK : Keeps z s) (idx : Nat) (v : Word) : Keeps z (State.outItem s idx v) := by
  unfold State.outItem
  try dsimp only
  repeat' first
    | with_reducible assumption
    | with_reducible apply Keeps.ite
    | (intro _ _ _)
    | (intro _ _)
    | with_reducible refine Keeps.mk' ?_ rfl rfl

theorem keeps_portRefresh {z s : State} (hK : Keeps z s) (p : Nat) : Keeps z (State.portRefresh s p) := by
  unfold State.portRefresh
  try dsimp only
  repeat' first
    | with_reducible assumption
    | with_reducible apply keeps_setFlag
    | (intro _ _ _)
    | (intro _ _)
    | with_reducible refine Keeps.mk' ?_ rfl rfl

theorem keeps_sendSyms {z s : State} (hK : Keeps z s) (p l : Nat) (w : List Sym) : Keeps z (State.sendSyms s p l w) := by
  unfold State.sendSyms
  try dsimp only
  repeat' first
    | with_reducible assumption
    | with_reducible apply Keeps.emit
    | with_reducible apply Keeps.useFree
    | with_reducible apply Keeps.when
    | with_reducible apply Keeps.ite
    | (intro _ _ _)
    | (intro _ _)
    | with_reducible refine Keeps.mk' ?_ rfl rfl

theorem keeps_setLaneState {z s : State} (hK : Keeps z s) (p l v : Nat) : Keeps z (State.setLaneState s p l v) := by
  unfold State.setLaneState
  try dsimp only
  repeat' first
    | with_reducible assumption
    | with_reducible apply keeps_put
    | with_reducible apply keeps_portRefresh
    | with_reducible apply Keeps.emit
    | with_reducible apply Keeps.when
    | with_reducible apply Keeps.ite
    | (intro _ _ _)
    | (intro _ _)
    | with_reducible refine Keeps.mk' ?_ rfl rfl

theorem keeps_laneEnter {z s : State} (hK : Keeps z s) (p l st : Nat) : Keeps z (State.laneEnter s p l st) := by
  unfold State.laneEnter
  try dsimp only
  repeat' first
    | with_reducible assumption
    | with_reducible apply keeps_setLaneState
    | with_reducible apply keeps_setLane
    | with_reducible apply Keeps.ite
    | (intro _ _ _)
    | (intro _ _)
    | with_reducible refine Keeps.mk' ?_ rfl rfl

theorem keeps_modeSwitch {z s : State} (hK : Keeps z s) (p : Nat) (pam4 : Bool) : Keeps z (State.modeSwitch s p pam4) := by
  unfold State.modeSwitch
  try dsimp only
  repeat' first
    | with_reducible assumption
    | with_reducible apply keeps_setFlag
    | with_reducible apply keeps_laneEnter
    | with_reducible apply keeps_setPort
    | with_reducible apply Keeps.ite
    | (intro _ _ _)
    | (intro _ _)
    | with_reducible refine Keeps.mk' ?_ rfl rfl

theorem keeps_toStage {z s : State} (hK : Keeps z s) (n : Nat) : Keeps z (State.toStage s n) := by
  unfold State.toStage
  try dsimp only
  repeat' first
    | with_reducible assumption
    | with_reducible apply keeps_put
    | with_reducible apply keeps_fltRefresh
    | with_reducible apply keeps_holdOut
    | with_reducible apply Keeps.when
    | (intro _ _ _)
    | (intro _ _)
    | with_reducible refine Keeps.mk' ?_ rfl rfl

theorem keeps_enterPbWait {z s : State} (hK : Keeps z s) : Keeps z (State.enterPbWait s) := by
  unfold State.enterPbWait
  try dsimp only
  repeat' first
    | with_reducible assumption
    | with_reducible apply keeps_put
    | with_reducible apply keeps_toStage
    | with_reducible apply Keeps.ite
    | (intro _ _ _)
    | (intro _ _)
    | with_reducible refine Keeps.mk' ?_ rfl rfl

theorem keeps_enterFull {z s : State} (hK : Keeps z s) : Keeps z (State.enterFull s) := by
  unfold State.enterFull
  try dsimp only
  repeat' first
    | with_reducible assumption
    | with_reducible apply keeps_put
    | with_reducible apply keeps_toStage
    | with_reducible apply Keeps.ite
    | (intro _ _ _)
    | (intro _ _)
    | with_reducible refine Keeps.mk' ?_ rfl rfl

theorem keeps_leaveService {z s : State} (hK : Keeps z s) (inPlace : Bool) : Keeps z (State.leaveService s inPlace) := by
  unfold State.leaveService
  try dsimp only
  repeat' first
    | with_reducible assumption
    | with_reducible apply keeps_put
    | with_reducible apply keeps_modeSwitch
    | with_reducible apply keeps_toStage
    | with_reducible apply Keeps.forUpTo
    | with_reducible apply Keeps.ite
    | (intro _ _ _)
    | (intro _ _)
    | with_reducible refine Keeps.mk' ?_ rfl rfl

end Sys2Proof.Machine
end

