-- ==== Sys2Proof/Laws/KeepBlocks.lean ====
section
/-! SUPPORT. Laws/KeepBlocks.lean: `Keeps` of the operations of Machine/Operands.lean, Machine/Bulk.lean, Machine/Reports.lean, Machine/Time.lean, Machine/Sampling.lean, Machine/Lanes.lean, Machine/Lattice.lean, Machine/GateDrive.lean. -/
namespace Sys2Proof.Machine
set_option Elab.async false

theorem keeps_setRingState {z s : State} (hK : Keeps z s) (y : Bool) (v : Nat) : Keeps z (State.setRingState s y v) := by
  unfold State.setRingState
  try dsimp only
  repeat' first
    | with_reducible assumption
    | with_reducible apply keeps_put
    | with_reducible apply Keeps.ite
    | (intro _ _ _)
    | (intro _ _)
    | with_reducible refine Keeps.mk' ?_ rfl rfl

theorem keeps_sendLine {z s : State} (hK : Keeps z s) (p l : Nat) (cw : List Byte) : Keeps z (State.sendLine s p l cw) := by
  unfold State.sendLine
  try dsimp only
  repeat' first
    | with_reducible assumption
    | with_reducible apply keeps_sendSyms
    | (intro _ _ _)
    | (intro _ _)
    | with_reducible refine Keeps.mk' ?_ rfl rfl

theorem keeps_sendDir {z s : State} (hK : Keeps z s) (y east : Bool) (lane typ dst tag count : Nat) (body : List Byte) : Keeps z (State.sendDir s y east lane typ dst tag count body) := by
  unfold State.sendDir
  try dsimp only
  repeat' first
    | with_reducible assumption
    | with_reducible apply keeps_sendLine
    | with_reducible apply Keeps.ite
    | (intro _ _ _)
    | (intro _ _)
    | with_reducible refine Keeps.mk' ?_ rfl rfl

theorem keeps_sendAll {z s : State} (hK : Keeps z s) (lane typ dst tag count : Nat) (body : List Byte) : Keeps z (State.sendAll s lane typ dst tag count body) := by
  unfold State.sendAll
  try dsimp only
  repeat' first
    | with_reducible assumption
    | with_reducible apply keeps_sendDir
    | (intro _ _ _)
    | (intro _ _)
    | with_reducible refine Keeps.mk' ?_ rfl rfl

theorem keeps_sealFail {z s : State} (hK : Keeps z s) (origin idx : Nat) : Keeps z (State.sealFail s origin idx) := by
  unfold State.sealFail
  try dsimp only
  repeat' first
    | with_reducible assumption
    | with_reducible apply keeps_bumpReg
    | with_reducible apply keeps_raiseLater
    | (intro _ _ _)
    | (intro _ _)
    | with_reducible refine Keeps.mk' ?_ rfl rfl

theorem keeps_divert {z s : State} (hK : Keeps z s) (p : Nat) (cw : List Byte) : Keeps z (State.divert s p cw) := by
  unfold State.divert
  try dsimp only
  repeat' first
    | with_reducible assumption
    | with_reducible apply keeps_bumpReg
    | with_reducible apply keeps_raise
    | with_reducible apply Keeps.ite
    | (intro _ _ _)
    | (intro _ _)
    | with_reducible refine Keeps.mk' ?_ rfl rfl

theorem keeps_hand {z s : State} (hK : Keeps z s) (a : Arrival) : Keeps z (State.hand s a) := by
  unfold State.hand
  try dsimp only
  repeat' first
    | with_reducible assumption
    | with_reducible apply Keeps.when
    | (intro _ _ _)
    | (intro _ _)
    | with_reducible refine Keeps.mk' ?_ rfl rfl

theorem keeps_takeRx {z s : State} (hK : Keeps z s) (p : Arrival → Bool) {f : Arrival → State → State}
    (hf : ∀ a b, Keeps z b → Keeps z (f a b)) : Keeps z (State.takeRx s p f) := by
  unfold State.takeRx
  split
  · exact hf _ _ (Keeps.mk' hK rfl rfl)
  · exact hK

theorem keeps_takeAllRx {z s : State} (hK : Keeps z s) (p : Arrival → Bool) {f : Arrival → State → State}
    (hf : ∀ a b, Keeps z b → Keeps z (f a b)) : Keeps z (State.takeAllRx s p f) :=
  Keeps.foldl (Keeps.mk' hK rfl rfl) fun _ _ hb => hf _ _ hb

theorem keeps_setFlow {z s : State} (hK : Keeps z s) (f : Flow) : Keeps z (State.setFlow s f) := by
  unfold State.setFlow
  try dsimp only
  repeat' first
    | with_reducible assumption
    | (intro _ _ _)
    | (intro _ _)
    | with_reducible refine Keeps.mk' ?_ rfl rfl

theorem keeps_bulkQueue {z s : State} (hK : Keeps z s) (peer stream : Nat) (l : List TxCw) : Keeps z (State.bulkQueue s peer stream l) := by
  unfold State.bulkQueue
  try dsimp only
  repeat' first
    | with_reducible assumption
    | with_reducible apply keeps_setFlow
    | (intro _ _ _)
    | (intro _ _)
    | with_reducible refine Keeps.mk' ?_ rfl rfl

theorem keeps_bulkSend {z s : State} (hK : Keeps z s) (peer stream : Nat) (data : List Byte) (note : Option Nat) : Keeps z (State.bulkSend s peer stream data note) := by
  unfold State.bulkSend
  try dsimp only
  repeat' first
    | with_reducible assumption
    | with_reducible apply keeps_bulkQueue
    | (intro _ _ _)
    | (intro _ _)
    | with_reducible refine Keeps.mk' ?_ rfl rfl

theorem keeps_relayTo {z s : State} (hK : Keeps z s) (peer kind : Nat) (payload : List Byte) (note : Option Nat) : Keeps z (State.relayTo s peer kind payload note) := by
  unfold State.relayTo
  try dsimp only
  repeat' first
    | with_reducible assumption
    | with_reducible apply keeps_bulkSend
    | (intro _ _ _)
    | (intro _ _)
    | with_reducible refine Keeps.mk' ?_ rfl rfl

theorem keeps_relay {z s : State} (hK : Keeps z s) (kind : Nat) (payload : List Byte) (note : Option Nat) : Keeps z (State.relay s kind payload note) := by
  unfold State.relay
  try dsimp only
  repeat' first
    | with_reducible assumption
    | with_reducible apply keeps_relayTo
    | with_reducible apply Keeps.ite
    | (intro _ _ _)
    | (intro _ _)
    | with_reducible refine Keeps.mk' ?_ rfl rfl

theorem keeps_bulkOut {z s : State} (hK : Keeps z s) (p lane : Nat) (f : Flow) (flags seq : Nat) (data : List Byte) : Keeps z (State.bulkOut s p lane f flags seq data) := by
  unfold State.bulkOut
  try dsimp only
  repeat' first
    | with_reducible assumption
    | with_reducible apply keeps_sendLine
    | (intro _ _ _)
    | (intro _ _)
    | with_reducible refine Keeps.mk' ?_ rfl rfl

theorem keeps_bulkInsert {z s : State} (hK : Keeps z s) (p l : Nat) (bad : Bool) : Keeps z (State.bulkInsert s p l bad) := by
  unfold State.bulkInsert
  try dsimp only
  repeat' first
    | with_reducible assumption
    | with_reducible apply keeps_bumpReg
    | with_reducible apply keeps_raise
    | with_reducible apply keeps_sendLine
    | with_reducible apply keeps_setFlow
    | with_reducible apply keeps_bulkOut
    | with_reducible apply Keeps.ite
    | (intro _ _ _)
    | (intro _ _)
    | split
    | with_reducible refine Keeps.mk' ?_ rfl rfl

theorem keeps_bulkResend {z s : State} (hK : Keeps z s) (dst stream : Nat) : Keeps z (State.bulkResend s dst stream) := by
  unfold State.bulkResend
  try dsimp only
  repeat' first
    | with_reducible assumption
    | with_reducible apply keeps_setFlow
    | with_reducible apply Keeps.when
    | (intro _ _ _)
    | (intro _ _)
    | with_reducible refine Keeps.mk' ?_ rfl rfl

theorem keeps_creditOnly {z s : State} (hK : Keeps z s) (dst stream : Nat) : Keeps z (State.creditOnly s dst stream) := by
  unfold State.creditOnly
  try dsimp only
  repeat' first
    | with_reducible assumption
    | with_reducible apply keeps_setFlow
    | with_reducible apply keeps_bulkOut
    | with_reducible apply Keeps.when
    | (intro _ _ _)
    | (intro _ _)
    | split
    | with_reducible refine Keeps.mk' ?_ rfl rfl

theorem keeps_markSent {z s : State} (hK : Keeps z s) (l : List TxCw) : Keeps z (State.markSent s l) := by
  unfold State.markSent
  try dsimp only
  repeat' first
    | with_reducible assumption
    | with_reducible apply keeps_setFlag
    | with_reducible apply Keeps.foldlFst
    | with_reducible apply Keeps.foldl
    | with_reducible apply Keeps.when
    | (intro _ _ _)
    | (intro _ _)
    | split
    | with_reducible refine Keeps.mk' ?_ rfl rfl

theorem keeps_bulkTake {z s : State} (hK : Keeps z s) (src : Nat) (cw : List Byte) : Keeps z (State.bulkTake s src cw).1 := by
  unfold State.bulkTake
  try dsimp only
  repeat' first
    | with_reducible assumption
    | with_reducible apply keeps_markSent
    | with_reducible apply keeps_setFlow
    | with_reducible apply Keeps.ite
    | with_reducible apply Keeps.iteFst
    | (intro _ _ _)
    | (intro _ _)
    | with_reducible refine Keeps.mk' ?_ rfl rfl

theorem keeps_setSess {z s : State} (hK : Keeps z s) (n : Nat) (v : Sess) : Keeps z (State.setSess s n v) := by
  unfold State.setSess
  try dsimp only
  repeat' first
    | with_reducible assumption
    | (intro _ _ _)
    | (intro _ _)
    | with_reducible refine Keeps.mk' ?_ rfl rfl

theorem keeps_supStat {z s : State} (hK : Keeps z s) : Keeps z (State.supStat s) := by
  unfold State.supStat
  try dsimp only
  repeat' first
    | with_reducible assumption
    | with_reducible apply keeps_put
    | with_reducible apply keeps_setFlag
    | with_reducible apply Keeps.foldlFst
    | with_reducible apply Keeps.foldl
    | (intro _ _ _)
    | (intro _ _)
    | with_reducible refine Keeps.mk' ?_ rfl rfl

theorem keeps_repDrop {z s : State} (hK : Keeps z s) (n prio : Nat) : Keeps z (State.repDrop s n prio) := by
  unfold State.repDrop
  try dsimp only
  repeat' first
    | with_reducible assumption
    | with_reducible apply keeps_bump
    | with_reducible apply keeps_setSess
    | with_reducible apply keeps_raise
    | with_reducible apply Keeps.ite
    | (intro _ _ _)
    | (intro _ _)
    | split
    | with_reducible refine Keeps.mk' ?_ rfl rfl

theorem keeps_enqueue {z s : State} (hK : Keeps z s) (n : Nat) (r : QRep) : Keeps z (State.enqueue s n r) := by
  unfold State.enqueue
  try dsimp only
  repeat' first
    | with_reducible assumption
    | with_reducible apply keeps_setSess
    | with_reducible apply keeps_repDrop
    | with_reducible apply Keeps.ite
    | (intro _ _ _)
    | (intro _ _)
    | split
    | with_reducible refine Keeps.mk' ?_ rfl rfl

theorem keeps_report {z s : State} (hK : Keeps z s) (kind prio origin : Nat) (payload : List Byte) : Keeps z (State.report s kind prio origin payload) := by
  unfold State.report
  try dsimp only
  repeat' first
    | with_reducible assumption
    | with_reducible apply keeps_enqueue
    | with_reducible apply keeps_supStat
    | with_reducible apply Keeps.wr
    | with_reducible apply Keeps.forUpTo
    | with_reducible apply Keeps.when
    | with_reducible apply Keeps.ite
    | (intro _ _ _)
    | (intro _ _)
    | with_reducible refine Keeps.mk' ?_ rfl rfl

theorem keeps_reportRecord {z s : State} (hK : Keeps z s) (num : Nat) : Keeps z (State.reportRecord s num) := by
  unfold State.reportRecord
  try dsimp only
  repeat' first
    | with_reducible assumption
    | with_reducible apply keeps_report
    | with_reducible apply keeps_relay
    | with_reducible apply Keeps.when
    | with_reducible apply Keeps.ite
    | (intro _ _ _)
    | (intro _ _)
    | with_reducible refine Keeps.mk' ?_ rfl rfl

theorem keeps_releaseOwn {z s : State} (hK : Keeps z s) (p : Cause → Bool) : Keeps z (State.releaseOwn s p) := by
  unfold State.releaseOwn
  try dsimp only
  repeat' first
    | with_reducible assumption
    | with_reducible apply keeps_recRefresh
    | with_reducible apply keeps_fltRefresh
    | with_reducible apply keeps_reportRecord
    | with_reducible apply Keeps.foldlFst
    | with_reducible apply Keeps.foldl
    | with_reducible apply Keeps.ite
    | (intro _ _ _)
    | (intro _ _)
    | with_reducible refine Keeps.mk' ?_ rfl rfl

theorem keeps_refill {z s : State} (hK : Keeps z s) (n : Nat) : Keeps z (State.refill s n) := by
  unfold State.refill
  try dsimp only
  repeat' first
    | with_reducible assumption
    | with_reducible apply keeps_setSess
    | (intro _ _ _)
    | (intro _ _)
    | with_reducible refine Keeps.mk' ?_ rfl rfl

theorem keeps_toHost {z s : State} (hK : Keeps z s) (sid typ : Nat) (resp : Bool) (status seq node : Nat) (body : List Byte) (dst : List Byte) : Keeps z (State.toHost s sid typ resp status seq node body dst) := by
  unfold State.toHost
  try dsimp only
  repeat' first
    | with_reducible assumption
    | with_reducible apply Keeps.wr
    | with_reducible apply Keeps.emit
    | (intro _ _ _)
    | (intro _ _)
    | with_reducible refine Keeps.mk' ?_ rfl rfl

theorem keeps_sendReport {z s : State} (hK : Keeps z s) (n : Nat) (r : QRep) : Keeps z (State.sendReport s n r) := by
  unfold State.sendReport
  try dsimp only
  repeat' first
    | with_reducible assumption
    | with_reducible apply keeps_setSess
    | with_reducible apply keeps_toHost
    | with_reducible apply keeps_supStat
    | with_reducible apply keeps_setFlag
    | with_reducible apply Keeps.when
    | with_reducible apply Keeps.ite
    | (intro _ _ _)
    | (intro _ _)
    | with_reducible refine Keeps.mk' ?_ rfl rfl

theorem keeps_wrapped {z s : State} (hK : Keeps z s) : Keeps z (State.wrapped s) := by
  unfold State.wrapped
  try dsimp only
  repeat' first
    | with_reducible assumption
    | with_reducible apply keeps_setFlag
    | with_reducible apply keeps_raise
    | with_reducible apply keeps_report
    | with_reducible apply Keeps.ite
    | (intro _ _ _)
    | (intro _ _)
    | with_reducible refine Keeps.mk' ?_ rfl rfl

theorem keeps_runTime {z s : State} (hK : Keeps z s) (d : Nat) : Keeps z (State.runTime s d) := by
  unfold State.runTime
  try dsimp only
  repeat' first
    | with_reducible assumption
    | with_reducible apply keeps_wrapped
    | with_reducible apply Keeps.forUpTo
    | (intro _ _ _)
    | (intro _ _)
    | with_reducible refine Keeps.mk' ?_ rfl rfl

theorem keeps_slewTarget {z s : State} (hK : Keeps z s) : Keeps z (State.slewTarget s) := by
  unfold State.slewTarget
  try dsimp only
  repeat' first
    | with_reducible assumption
    | with_reducible apply keeps_setFlag
    | with_reducible apply Keeps.ite
    | (intro _ _ _)
    | (intro _ _)
    | with_reducible refine Keeps.mk' ?_ rfl rfl

theorem keeps_slewRun {z s : State} (hK : Keeps z s) (n : Nat) : Keeps z (State.slewRun s n) := by
  unfold State.slewRun
  try dsimp only
  repeat' first
    | with_reducible assumption
    | with_reducible apply keeps_put
    | with_reducible apply Keeps.ite
    | (intro _ _ _)
    | (intro _ _)
    | with_reducible refine Keeps.mk' ?_ rfl rfl

theorem keeps_pullRun {z s : State} (hK : Keeps z s) (n : Nat) : Keeps z (State.pullRun s n) := by
  unfold State.pullRun
  try dsimp only
  repeat' first
    | with_reducible assumption
    | with_reducible apply keeps_reacquire
    | with_reducible apply Keeps.ite
    | (intro _ _ _)
    | (intro _ _)
    | with_reducible refine Keeps.mk' ?_ rfl rfl

theorem keeps_runTicks {z s : State} (hK : Keeps z s) (n : Nat) : Keeps z (State.runTicks s n) := by
  unfold State.runTicks
  try dsimp only
  repeat' first
    | with_reducible assumption
    | with_reducible apply keeps_slewRun
    | with_reducible apply keeps_pullRun
    | with_reducible apply keeps_runTime
    | with_reducible apply Keeps.ite
    | (intro _ _ _)
    | (intro _ _)
    | with_reducible refine Keeps.mk' ?_ rfl rfl

theorem keeps_tick {z s : State} (hK : Keeps z s) : Keeps z (State.tick s) := by
  unfold State.tick
  try dsimp only
  repeat' first
    | with_reducible assumption
    | with_reducible apply keeps_runTicks
    | (intro _ _ _)
    | (intro _ _)
    | with_reducible refine Keeps.mk' ?_ rfl rfl

theorem keeps_runUp {z s : State} (hK : Keeps z s) (t : Nat) : Keeps z (State.runUp s t) := by
  unfold State.runUp
  try dsimp only
  repeat' first
    | with_reducible assumption
    | with_reducible apply keeps_runTicks
    | (intro _ _ _)
    | (intro _ _)
    | with_reducible refine Keeps.mk' ?_ rfl rfl

theorem keeps_runAfter {z s : State} (hK : Keeps z s) (t ns : Nat) : Keeps z (State.runAfter s t ns) := by
  unfold State.runAfter
  try dsimp only
  repeat' first
    | with_reducible assumption
    | with_reducible apply keeps_runUp
    | (intro _ _ _)
    | (intro _ _)
    | with_reducible refine Keeps.mk' ?_ rfl rfl

theorem keeps_runAhead {z s : State} (hK : Keeps z s) (d : Nat) : Keeps z (State.runAhead s d) := by
  unfold State.runAhead
  try dsimp only
  repeat' first
    | with_reducible assumption
    | with_reducible apply keeps_runTicks
    | (intro _ _ _)
    | (intro _ _)
    | with_reducible refine Keeps.mk' ?_ rfl rfl

theorem keeps_runToStime {z s : State} (hK : Keeps z s) (t : Nat) : Keeps z (State.runToStime s t) := by
  unfold State.runToStime
  try dsimp only
  repeat' first
    | with_reducible assumption
    | with_reducible apply keeps_runAhead
    | with_reducible apply Keeps.ite
    | (intro _ _ _)
    | (intro _ _)
    | with_reducible refine Keeps.mk' ?_ rfl rfl

theorem keeps_runToTick {z s : State} (hK : Keeps z s) (t : Nat) : Keeps z (State.runToTick s t) := by
  unfold State.runToTick
  try dsimp only
  repeat' first
    | with_reducible assumption
    | with_reducible apply keeps_runAhead
    | with_reducible apply Keeps.ite
    | (intro _ _ _)
    | (intro _ _)
    | with_reducible refine Keeps.mk' ?_ rfl rfl

theorem keeps_runTo {z s : State} (hK : Keeps z s) (k : Nat) : Keeps z (State.runTo s k) := by
  unfold State.runTo
  try dsimp only
  repeat' first
    | with_reducible assumption
    | with_reducible apply keeps_runToStime
    | (intro _ _ _)
    | (intro _ _)
    | with_reducible refine Keeps.mk' ?_ rfl rfl

theorem keeps_runIn {z s : State} (hK : Keeps z s) (k : Nat) : Keeps z (State.runIn s k) := by
  unfold State.runIn
  try dsimp only
  repeat' first
    | with_reducible assumption
    | with_reducible apply keeps_runTo
    | (intro _ _ _)
    | (intro _ _)
    | with_reducible refine Keeps.mk' ?_ rfl rfl

theorem keeps_setAdcPend {z s : State} (hK : Keeps z s) (m : Nat) (v : Option AdcPend) : Keeps z (State.setAdcPend s m v) := by
  unfold State.setAdcPend
  try dsimp only
  repeat' first
    | with_reducible assumption
    | (intro _ _ _)
    | (intro _ _)
    | with_reducible refine Keeps.mk' ?_ rfl rfl

theorem keeps_setAdcConv {z s : State} (hK : Keeps z s) (a : Nat) (v : Option AdcConv) : Keeps z (State.setAdcConv s a v) := by
  unfold State.setAdcConv
  try dsimp only
  repeat' first
    | with_reducible assumption
    | with_reducible apply keeps_setFlag
    | (intro _ _ _)
    | (intro _ _)
    | with_reducible refine Keeps.mk' ?_ rfl rfl

theorem keeps_setAdcHk {z s : State} (hK : Keeps z s) (a c : Nat) (v : Option HkRes) : Keeps z (State.setAdcHk s a c v) := by
  unfold State.setAdcHk
  try dsimp only
  repeat' first
    | with_reducible assumption
    | (intro _ _ _)
    | (intro _ _)
    | with_reducible refine Keeps.mk' ?_ rfl rfl

theorem keeps_adcTrigger {z s : State} (hK : Keeps z s) (m : Nat) : Keeps z (State.adcTrigger s m) := by
  unfold State.adcTrigger
  try dsimp only
  repeat' first
    | with_reducible assumption
    | with_reducible apply keeps_setAdcDue
    | with_reducible apply keeps_runToTick
    | with_reducible apply keeps_bumpReg
    | with_reducible apply keeps_raise
    | with_reducible apply keeps_setAdcPend
    | with_reducible apply Keeps.ite
    | (intro _ _ _)
    | (intro _ _)
    | split
    | with_reducible refine Keeps.mk' ?_ rfl rfl

theorem keeps_setAdcFreeAt {z s : State} (hK : Keeps z s) (a t : Nat) : Keeps z (State.setAdcFreeAt s a t) := by
  unfold State.setAdcFreeAt
  try dsimp only
  repeat' first
    | with_reducible assumption
    | (intro _ _ _)
    | (intro _ _)
    | with_reducible refine Keeps.mk' ?_ rfl rfl

theorem keeps_hold {z s : State} (hK : Keeps z s) (a : Nat) (slot : Option Nat) (chan scn h : Nat) (late : Bool) : Keeps z (State.hold s a slot chan scn h late) := by
  unfold State.hold
  try dsimp only
  repeat' first
    | with_reducible assumption
    | with_reducible apply keeps_put
    | with_reducible apply keeps_setAdcConv
    | with_reducible apply keeps_runToTick
    | (intro _ _ _)
    | (intro _ _)
    | with_reducible refine Keeps.mk' ?_ rfl rfl

theorem keeps_holdInstant {z s : State} (hK : Keeps z s) (m : Nat) : Keeps z (State.holdInstant s m) := by
  unfold State.holdInstant
  try dsimp only
  repeat' first
    | with_reducible assumption
    | with_reducible apply keeps_hold
    | with_reducible apply keeps_setAdcPend
    | with_reducible apply Keeps.ite
    | (intro _ _ _)
    | (intro _ _)
    | split
    | with_reducible refine Keeps.mk' ?_ rfl rfl

theorem keeps_hkStart {z s : State} (hK : Keeps z s) (a c : Nat) : Keeps z (State.hkStart s a c) := by
  unfold State.hkStart
  try dsimp only
  repeat' first
    | with_reducible assumption
    | with_reducible apply keeps_runToTick
    | with_reducible apply keeps_hold
    | with_reducible apply Keeps.ite
    | (intro _ _ _)
    | (intro _ _)
    | with_reducible refine Keeps.mk' ?_ rfl rfl

theorem keeps_lpStart {z s : State} (hK : Keeps z s) (a : Nat) : Keeps z (State.lpStart s a) := by
  unfold State.lpStart
  try dsimp only
  repeat' first
    | with_reducible assumption
    | with_reducible apply keeps_setFlag
    | with_reducible apply Keeps.ite
    | (intro _ _ _)
    | (intro _ _)
    | with_reducible refine Keeps.mk' ?_ rfl rfl

theorem keeps_uplinkSample {z s : State} (hK : Keeps z s) (m scn : Nat) (v : Word) : Keeps z (State.uplinkSample s m scn v) := by
  unfold State.uplinkSample
  try dsimp only
  repeat' first
    | with_reducible assumption
    | with_reducible apply keeps_bumpReg
    | with_reducible apply keeps_raise
    | with_reducible apply Keeps.ite
    | (intro _ _ _)
    | (intro _ _)
    | with_reducible refine Keeps.mk' ?_ rfl rfl

theorem keeps_slotResult {z s : State} (hK : Keeps z s) (a m : Nat) (v : AdcConv) (raw : Int) : Keeps z (State.slotResult s a m v raw) := by
  unfold State.slotResult
  try dsimp only
  repeat' first
    | with_reducible assumption
    | with_reducible apply keeps_wrN
    | with_reducible apply keeps_bumpWrap
    | with_reducible apply keeps_setResult
    | with_reducible apply keeps_bump
    | with_reducible apply keeps_bumpReg
    | with_reducible apply keeps_raise
    | with_reducible apply keeps_uplinkSample
    | with_reducible apply Keeps.wr
    | with_reducible apply Keeps.ite
    | with_reducible apply Keeps.iteFst
    | (intro _ _ _)
    | (intro _ _)
    | with_reducible refine Keeps.mk' ?_ rfl rfl

theorem keeps_conversionEnd {z s : State} (hK : Keeps z s) (a : Nat) (raw : Int) : Keeps z (State.conversionEnd s a raw) := by
  unfold State.conversionEnd
  try dsimp only
  repeat' first
    | with_reducible assumption
    | with_reducible apply keeps_runToTick
    | with_reducible apply keeps_setAdcConv
    | with_reducible apply keeps_setAdcFreeAt
    | with_reducible apply keeps_slotResult
    | with_reducible apply keeps_setAdcHk
    | with_reducible apply keeps_lpStart
    | with_reducible apply Keeps.when
    | (intro _ _ _)
    | (intro _ _)
    | split
    | with_reducible refine Keeps.mk' ?_ rfl rfl

theorem keeps_lpWrite {z s : State} (hK : Keeps z s) (v : Nat) : Keeps z (State.lpWrite s v) := by
  unfold State.lpWrite
  try dsimp only
  repeat' first
    | with_reducible assumption
    | with_reducible apply keeps_setFlag
    | with_reducible apply keeps_lpStart
    | with_reducible apply Keeps.forUpTo
    | with_reducible apply Keeps.ite
    | (intro _ _ _)
    | (intro _ _)
    | with_reducible refine Keeps.mk' ?_ rfl rfl

theorem keeps_lpSwitchEnd {z s : State} (hK : Keeps z s) (a : Nat) : Keeps z (State.lpSwitchEnd s a) := by
  unfold State.lpSwitchEnd
  try dsimp only
  repeat' first
    | with_reducible assumption
    | with_reducible apply keeps_setAdcFreeAt
    | with_reducible apply keeps_lpStart
    | (intro _ _ _)
    | (intro _ _)
    | with_reducible refine Keeps.mk' ?_ rfl rfl

theorem keeps_chWrite {z s : State} (hK : Keeps z s) (m v : Nat) : Keeps z (State.chWrite s m v) := by
  unfold State.chWrite
  try dsimp only
  repeat' first
    | with_reducible assumption
    | with_reducible apply keeps_setFlag
    | with_reducible apply keeps_put
    | with_reducible apply Keeps.ite
    | with_reducible apply Keeps.iteFst
    | (intro _ _ _)
    | (intro _ _)
    | with_reducible refine Keeps.mk' ?_ rfl rfl

theorem keeps_refCheck {z s : State} (hK : Keeps z s) (a : Nat) : Keeps z (State.refCheck s a) := by
  unfold State.refCheck
  try dsimp only
  repeat' first
    | with_reducible assumption
    | with_reducible apply keeps_runUp
    | with_reducible apply keeps_setAdcHk
    | with_reducible apply keeps_setFlag
    | with_reducible apply keeps_raise
    | with_reducible apply Keeps.ite
    | (intro _ _ _)
    | (intro _ _)
    | split
    | with_reducible refine Keeps.mk' ?_ rfl rfl

theorem keeps_rawLatch {z s : State} (hK : Keeps z s) (m : Nat) : Keeps z (State.rawLatch s m) := by
  unfold State.rawLatch
  try dsimp only
  repeat' first
    | with_reducible assumption
    | (intro _ _ _)
    | (intro _ _)
    | with_reducible refine Keeps.mk' ?_ rfl rfl

theorem keeps_adcCntClr {z s : State} (hK : Keeps z s) : Keeps z (State.adcCntClr s) := by
  unfold State.adcCntClr
  try dsimp only
  repeat' first
    | with_reducible assumption
    | with_reducible apply Keeps.wr
    | with_reducible apply Keeps.forUpTo
    | (intro _ _ _)
    | (intro _ _)
    | with_reducible refine Keeps.mk' ?_ rfl rfl

theorem keeps_cdrMode {z s : State} (hK : Keeps z s) (p : Nat) : Keeps z (State.cdrMode s p) := by
  unfold State.cdrMode
  try dsimp only
  repeat' first
    | with_reducible assumption
    | with_reducible apply keeps_setFlag
    | with_reducible apply Keeps.when
    | (intro _ _ _)
    | (intro _ _)
    | with_reducible refine Keeps.mk' ?_ rfl rfl

theorem keeps_laneMove {z s : State} (hK : Keeps z s) (svc : Bool) (p l st : Nat) : Keeps z (State.laneMove svc s p l st) := by
  unfold State.laneMove
  try dsimp only
  repeat' first
    | with_reducible assumption
    | with_reducible apply keeps_laneEnter
    | with_reducible apply keeps_setFlag
    | with_reducible apply keeps_cdrMode
    | with_reducible apply keeps_raise
    | with_reducible apply keeps_selectUp
    | with_reducible apply Keeps.when
    | with_reducible apply Keeps.ite
    | (intro _ _ _)
    | (intro _ _)
    | with_reducible refine Keeps.mk' ?_ rfl rfl

theorem keeps_laneTo {z s : State} (hK : Keeps z s) (p l st : Nat) : Keeps z (State.laneTo s p l st) := by
  unfold State.laneTo
  try dsimp only
  repeat' first
    | with_reducible assumption
    | with_reducible apply keeps_laneMove
    | (intro _ _ _)
    | (intro _ _)
    | with_reducible refine Keeps.mk' ?_ rfl rfl

theorem keeps_lanesTo {z s : State} (hK : Keeps z s) (p st : Nat) : Keeps z (State.lanesTo s p st) := by
  unfold State.lanesTo
  try dsimp only
  repeat' first
    | with_reducible assumption
    | with_reducible apply keeps_laneMove
    | with_reducible apply Keeps.foldlFst
    | with_reducible apply Keeps.foldl
    | (intro _ _ _)
    | (intro _ _)
    | with_reducible refine Keeps.mk' ?_ rfl rfl

theorem keeps_laneStart {z s : State} (hK : Keeps z s) (p l : Nat) : Keeps z (State.laneStart s p l) := by
  unfold State.laneStart
  try dsimp only
  repeat' first
    | with_reducible assumption
    | with_reducible apply keeps_laneTo
    | with_reducible apply Keeps.when
    | (intro _ _ _)
    | (intro _ _)
    | with_reducible refine Keeps.mk' ?_ rfl rfl

theorem keeps_pllOut {z s : State} (hK : Keeps z s) (k : Nat) : Keeps z (State.pllOut s k) := by
  unfold State.pllOut
  try dsimp only
  repeat' first
    | with_reducible assumption
    | with_reducible apply keeps_setFlag
    | with_reducible apply Keeps.when
    | (intro _ _ _)
    | (intro _ _)
    | with_reducible refine Keeps.mk' ?_ rfl rfl

theorem keeps_pllChill {z s : State} (hK : Keeps z s) (k : Nat) : Keeps z (State.pllChill s k) := by
  unfold State.pllChill
  try dsimp only
  repeat' first
    | with_reducible assumption
    | with_reducible apply keeps_setFlag
    | with_reducible apply keeps_pllOut
    | with_reducible apply Keeps.ite
    | (intro _ _ _)
    | (intro _ _)
    | with_reducible refine Keeps.mk' ?_ rfl rfl

theorem keeps_lanesBoot {z s : State} (hK : Keeps z s) : Keeps z (State.lanesBoot s) := by
  unfold State.lanesBoot
  try dsimp only
  repeat' first
    | with_reducible assumption
    | with_reducible apply keeps_laneTo
    | with_reducible apply keeps_laneStart
    | with_reducible apply keeps_pllChill
    | with_reducible apply Keeps.foldlFst
    | with_reducible apply Keeps.foldl
    | with_reducible apply Keeps.forUpTo
    | with_reducible apply Keeps.ite
    | (intro _ _ _)
    | (intro _ _)
    | with_reducible refine Keeps.mk' ?_ rfl rfl

theorem keeps_lanePllLock {z s : State} (hK : Keeps z s) (k : Nat) : Keeps z (State.lanePllLock s k) := by
  unfold State.lanePllLock
  try dsimp only
  repeat' first
    | with_reducible assumption
    | with_reducible apply keeps_put
    | with_reducible apply keeps_setFlag
    | with_reducible apply keeps_laneStart
    | with_reducible apply Keeps.useFree
    | with_reducible apply Keeps.foldlFst
    | with_reducible apply Keeps.foldl
    | with_reducible apply Keeps.ite
    | (intro _ _ _)
    | (intro _ _)
    | with_reducible refine Keeps.mk' ?_ rfl rfl

theorem keeps_lanePllLoss {z s : State} (hK : Keeps z s) (k : Nat) : Keeps z (State.lanePllLoss s k) := by
  unfold State.lanePllLoss
  try dsimp only
  repeat' first
    | with_reducible assumption
    | with_reducible apply keeps_laneMove
    | with_reducible apply keeps_pllOut
    | with_reducible apply keeps_raise
    | with_reducible apply Keeps.foldlFst
    | with_reducible apply Keeps.foldl
    | with_reducible apply Keeps.ite
    | (intro _ _ _)
    | (intro _ _)
    | with_reducible refine Keeps.mk' ?_ rfl rfl

theorem keeps_bothPllsOut {z s : State} (hK : Keeps z s) : Keeps z (State.bothPllsOut s) := by
  unfold State.bothPllsOut
  try dsimp only
  repeat' first
    | with_reducible assumption
    | with_reducible apply keeps_runAfter
    | with_reducible apply keeps_runUp
    | with_reducible apply keeps_raise
    | with_reducible apply Keeps.ite
    | (intro _ _ _)
    | (intro _ _)
    | with_reducible refine Keeps.mk' ?_ rfl rfl

theorem keeps_cdrLock {z s : State} (hK : Keeps z s) (p l : Nat) : Keeps z (State.cdrLock s p l) := by
  unfold State.cdrLock
  try dsimp only
  repeat' first
    | with_reducible assumption
    | with_reducible apply keeps_laneTo
    | with_reducible apply Keeps.when
    | (intro _ _ _)
    | (intro _ _)
    | with_reducible refine Keeps.mk' ?_ rfl rfl

theorem keeps_sendTraining {z s : State} (hK : Keeps z s) (p : Nat) : Keeps z (State.sendTraining s p) := by
  unfold State.sendTraining
  try dsimp only
  repeat' first
    | with_reducible assumption
    | with_reducible apply keeps_sendSyms
    | with_reducible apply Keeps.foldlFst
    | with_reducible apply Keeps.foldl
    | (intro _ _ _)
    | (intro _ _)
    | with_reducible refine Keeps.mk' ?_ rfl rfl

theorem keeps_trainAnswer {z s : State} (hK : Keeps z s) (p : Nat) : Keeps z (State.trainAnswer s p) := by
  unfold State.trainAnswer
  try dsimp only
  repeat' first
    | with_reducible assumption
    | with_reducible apply keeps_setPort
    | with_reducible apply keeps_sendTraining
    | with_reducible apply Keeps.ite
    | (intro _ _ _)
    | (intro _ _)
    | with_reducible refine Keeps.mk' ?_ rfl rfl

theorem keeps_enterTrain {z s : State} (hK : Keeps z s) (p : Nat) : Keeps z (State.enterTrain s p) := by
  unfold State.enterTrain
  try dsimp only
  repeat' first
    | with_reducible assumption
    | with_reducible apply keeps_setFlag
    | with_reducible apply keeps_lanesTo
    | with_reducible apply keeps_setLane
    | with_reducible apply keeps_setPort
    | with_reducible apply keeps_sendTraining
    | with_reducible apply keeps_trainAnswer
    | with_reducible apply Keeps.foldlFst
    | with_reducible apply Keeps.foldl
    | with_reducible apply Keeps.when
    | (intro _ _ _)
    | (intro _ _)
    | with_reducible refine Keeps.mk' ?_ rfl rfl

theorem keeps_trainHears {z s : State} (hK : Keeps z s) (p l : Nat) (lv : List Int) : Keeps z (State.trainHears s p l lv) := by
  unfold State.trainHears
  try dsimp only
  repeat' first
    | with_reducible assumption
    | with_reducible apply keeps_setLane
    | with_reducible apply keeps_trainAnswer
    | with_reducible apply Keeps.when
    | with_reducible apply Keeps.ite
    | (intro _ _ _)
    | (intro _ _)
    | split
    | with_reducible refine Keeps.mk' ?_ rfl rfl

theorem keeps_frameHears {z s : State} (hK : Keeps z s) (p l : Nat) (lv : List Int) : Keeps z (State.frameHears s p l lv) := by
  unfold State.frameHears
  try dsimp only
  repeat' first
    | with_reducible assumption
    | with_reducible apply keeps_setLane
    | with_reducible apply Keeps.ite
    | with_reducible apply Keeps.iteFst
    | (intro _ _ _)
    | (intro _ _)
    | split
    | with_reducible refine Keeps.mk' ?_ rfl rfl

theorem keeps_ringUp {z s : State} (hK : Keeps z s) (p : Nat) : Keeps z (State.ringUp s p) := by
  unfold State.ringUp
  try dsimp only
  repeat' first
    | with_reducible assumption
    | with_reducible apply keeps_put
    | with_reducible apply keeps_setPort
    | with_reducible apply Keeps.when
    | with_reducible apply Keeps.ite
    | (intro _ _ _)
    | (intro _ _)
    | with_reducible refine Keeps.mk' ?_ rfl rfl

theorem keeps_frameLock {z s : State} (hK : Keeps z s) (p l : Nat) : Keeps z (State.frameLock s p l) := by
  unfold State.frameLock
  try dsimp only
  repeat' first
    | with_reducible assumption
    | with_reducible apply keeps_enterTrain
    | with_reducible apply keeps_laneTo
    | with_reducible apply keeps_put
    | with_reducible apply keeps_setPort
    | with_reducible apply keeps_ringUp
    | with_reducible apply keeps_enterPbWait
    | with_reducible apply Keeps.when
    | with_reducible apply Keeps.ite
    | (intro _ _ _)
    | (intro _ _)
    | with_reducible refine Keeps.mk' ?_ rfl rfl

theorem keeps_lossOfFrame {z s : State} (hK : Keeps z s) (p l : Nat) : Keeps z (State.lossOfFrame s p l) := by
  unfold State.lossOfFrame
  try dsimp only
  repeat' first
    | with_reducible assumption
    | with_reducible apply keeps_laneTo
    | with_reducible apply Keeps.when
    | (intro _ _ _)
    | (intro _ _)
    | with_reducible refine Keeps.mk' ?_ rfl rfl

theorem keeps_bufferLimit {z s : State} (hK : Keeps z s) (p l : Nat) : Keeps z (State.bufferLimit s p l) := by
  unfold State.bufferLimit
  try dsimp only
  repeat' first
    | with_reducible assumption
    | with_reducible apply keeps_laneTo
    | with_reducible apply Keeps.when
    | (intro _ _ _)
    | (intro _ _)
    | with_reducible refine Keeps.mk' ?_ rfl rfl

theorem keeps_lossOfSignal {z s : State} (hK : Keeps z s) (p l : Nat) : Keeps z (State.lossOfSignal s p l) := by
  unfold State.lossOfSignal
  try dsimp only
  repeat' first
    | with_reducible assumption
    | with_reducible apply keeps_laneTo
    | with_reducible apply Keeps.when
    | (intro _ _ _)
    | (intro _ _)
    | with_reducible refine Keeps.mk' ?_ rfl rfl

theorem keeps_laneRetry {z s : State} (hK : Keeps z s) (p l : Nat) : Keeps z (State.laneRetry s p l) := by
  unfold State.laneRetry
  try dsimp only
  repeat' first
    | with_reducible assumption
    | with_reducible apply keeps_runAfter
    | with_reducible apply keeps_bump
    | with_reducible apply keeps_laneTo
    | with_reducible apply keeps_enterTrain
    | with_reducible apply Keeps.when
    | with_reducible apply Keeps.ite
    | (intro _ _ _)
    | (intro _ _)
    | with_reducible refine Keeps.mk' ?_ rfl rfl

theorem keeps_trainingDone {z s : State} (hK : Keeps z s) (p : Nat) : Keeps z (State.trainingDone s p) := by
  unfold State.trainingDone
  try dsimp only
  repeat' first
    | with_reducible assumption
    | with_reducible apply keeps_setFlag
    | with_reducible apply keeps_put
    | with_reducible apply keeps_lanesTo
    | with_reducible apply keeps_raise
    | with_reducible apply Keeps.ite
    | (intro _ _ _)
    | (intro _ _)
    | with_reducible refine Keeps.mk' ?_ rfl rfl

theorem keeps_trainingFail {z s : State} (hK : Keeps z s) (p err : Nat) : Keeps z (State.trainingFail s p err) := by
  unfold State.trainingFail
  try dsimp only
  repeat' first
    | with_reducible assumption
    | with_reducible apply keeps_runAfter
    | with_reducible apply keeps_put
    | with_reducible apply keeps_lanesTo
    | with_reducible apply keeps_setPort
    | with_reducible apply keeps_raise
    | with_reducible apply Keeps.ite
    | (intro _ _ _)
    | (intro _ _)
    | with_reducible refine Keeps.mk' ?_ rfl rfl

theorem keeps_trainWaitEnd {z s : State} (hK : Keeps z s) (p : Nat) : Keeps z (State.trainWaitEnd s p) := by
  unfold State.trainWaitEnd
  try dsimp only
  repeat' first
    | with_reducible assumption
    | with_reducible apply keeps_runAfter
    | with_reducible apply keeps_setPort
    | with_reducible apply keeps_put
    | with_reducible apply keeps_setLane
    | with_reducible apply Keeps.foldlFst
    | with_reducible apply Keeps.foldl
    | (intro _ _ _)
    | (intro _ _)
    | split
    | with_reducible refine Keeps.mk' ?_ rfl rfl

theorem keeps_eyeUpdate {z s : State} (hK : Keeps z s) (p l height width ser : Nat) : Keeps z (State.eyeUpdate s p l height width ser) := by
  unfold State.eyeUpdate
  try dsimp only
  repeat' first
    | with_reducible assumption
    | with_reducible apply keeps_setFlag
    | with_reducible apply keeps_put
    | with_reducible apply keeps_setLane
    | with_reducible apply keeps_raise
    | with_reducible apply Keeps.ite
    | (intro _ _ _)
    | (intro _ _)
    | with_reducible refine Keeps.mk' ?_ rfl rfl

theorem keeps_chillWrite {z s : State} (hK : Keeps z s) (p : Nat) (on : Bool) : Keeps z (State.chillWrite s p on) := by
  unfold State.chillWrite
  try dsimp only
  repeat' first
    | with_reducible assumption
    | with_reducible apply keeps_setFlag
    | with_reducible apply keeps_lanesTo
    | with_reducible apply keeps_pllChill
    | with_reducible apply keeps_laneTo
    | with_reducible apply keeps_laneStart
    | with_reducible apply Keeps.foldlFst
    | with_reducible apply Keeps.foldl
    | with_reducible apply Keeps.ite
    | (intro _ _ _)
    | (intro _ _)
    | with_reducible refine Keeps.mk' ?_ rfl rfl

theorem keeps_trainWrite {z s : State} (hK : Keeps z s) (p : Nat) : Keeps z (State.trainWrite s p) := by
  unfold State.trainWrite
  try dsimp only
  repeat' first
    | with_reducible assumption
    | with_reducible apply keeps_enterTrain
    | with_reducible apply keeps_setFlag
    | with_reducible apply Keeps.ite
    | (intro _ _ _)
    | (intro _ _)
    | with_reducible refine Keeps.mk' ?_ rfl rfl

theorem keeps_lnkCntClr {z s : State} (hK : Keeps z s) (p : Nat) : Keeps z (State.lnkCntClr s p) := by
  unfold State.lnkCntClr
  try dsimp only
  repeat' first
    | with_reducible assumption
    | with_reducible apply Keeps.wr
    | with_reducible apply Keeps.foldlFst
    | with_reducible apply Keeps.foldl
    | (intro _ _ _)
    | (intro _ _)
    | with_reducible refine Keeps.mk' ?_ rfl rfl

theorem keeps_laneBand {z s : State} (hK : Keeps z s) (b : Nat) : Keeps z (State.laneBand s b) := by
  unfold State.laneBand
  try dsimp only
  repeat' first
    | with_reducible assumption
    | with_reducible apply keeps_put
    | with_reducible apply Keeps.wr
    | with_reducible apply Keeps.forUpTo
    | (intro _ _ _)
    | (intro _ _)
    | split
    | with_reducible refine Keeps.mk' ?_ rfl rfl

theorem keeps_wire {z s : State} (hK : Keeps z s) : Keeps z (State.wire s) := by
  unfold State.wire
  try dsimp only
  repeat' first
    | with_reducible assumption
    | with_reducible apply keeps_setPort
    | with_reducible apply keeps_wrN
    | with_reducible apply Keeps.forUpTo
    | (intro _ _ _)
    | (intro _ _)
    | with_reducible refine Keeps.mk' ?_ rfl rfl

theorem keeps_setSwitch {z s : State} (hK : Keeps z s) (n : Nat) (sw : Sw) (on : Bool) : Keeps z (State.setSwitch s n sw on) := by
  unfold State.setSwitch
  try dsimp only
  repeat' first
    | with_reducible assumption
    | with_reducible apply keeps_setLeg
    | with_reducible apply keeps_setGate
    | with_reducible apply Keeps.ite
    | (intro _ _ _)
    | (intro _ _)
    | split
    | with_reducible refine Keeps.mk' ?_ rfl rfl

theorem keeps_l2Edge {z s : State} (hK : Keeps z s) (n : Nat) : Keeps z (State.l2Edge s n) := by
  unfold State.l2Edge
  try dsimp only
  repeat' first
    | with_reducible assumption
    | with_reducible apply keeps_setFlag
    | with_reducible apply keeps_put
    | with_reducible apply keeps_releaseOwn
    | with_reducible apply Keeps.ite
    | (intro _ _ _)
    | (intro _ _)
    | with_reducible refine Keeps.mk' ?_ rfl rfl

theorem keeps_setH {z s : State} (hK : Keeps z s) (n : Nat) (h : Bool) (t : Nat) : Keeps z (State.setH s n h t) := by
  unfold State.setH
  try dsimp only
  repeat' first
    | with_reducible assumption
    | with_reducible apply keeps_setChan
    | with_reducible apply keeps_l2Edge
    | with_reducible apply keeps_setSwitch
    | with_reducible apply keeps_setLeg
    | with_reducible apply keeps_gateRefresh
    | with_reducible apply Keeps.ite
    | (intro _ _ _)
    | (intro _ _)
    | split
    | with_reducible refine Keeps.mk' ?_ rfl rfl

theorem keeps_enterRun {z s : State} (hK : Keeps z s) (n : Nat) (h : Bool) (t : Nat) : Keeps z (State.enterRun s n h t) := by
  unfold State.enterRun
  try dsimp only
  repeat' first
    | with_reducible assumption
    | with_reducible apply keeps_put
    | with_reducible apply keeps_setGateLeg
    | with_reducible apply keeps_legRefresh1
    | with_reducible apply keeps_setLeg
    | with_reducible apply keeps_setSwitch
    | with_reducible apply keeps_gateRefresh
    | with_reducible apply Keeps.ite
    | (intro _ _ _)
    | (intro _ _)
    | split
    | with_reducible refine Keeps.mk' ?_ rfl rfl

theorem keeps_formCompares {z s : State} (hK : Keeps z s) (n d l free : Nat) : Keeps z (State.formCompares s n d l free) := by
  unfold State.formCompares
  try dsimp only
  repeat' first
    | with_reducible assumption
    | with_reducible apply keeps_setFlag
    | with_reducible apply keeps_setChan
    | with_reducible apply Keeps.ite
    | (intro _ _ _)
    | (intro _ _)
    | with_reducible refine Keeps.mk' ?_ rfl rfl

theorem keeps_fracErr {z s : State} (hK : Keeps z s) (n : Nat) (bad : Bool) : Keeps z (State.fracErr s n bad) := by
  unfold State.fracErr
  try dsimp only
  repeat' first
    | with_reducible assumption
    | with_reducible apply keeps_setFlag
    | with_reducible apply keeps_raise
    | with_reducible apply Keeps.ite
    | (intro _ _ _)
    | (intro _ _)
    | with_reducible refine Keeps.mk' ?_ rfl rfl

theorem keeps_offerEvent {z s : State} (hK : Keeps z s) (n k t : Nat) : Keeps z (State.offerEvent s n k t) := by
  unfold State.offerEvent
  try dsimp only
  repeat' first
    | with_reducible assumption
    | with_reducible apply keeps_setEngGroup
    | with_reducible apply keeps_setAdcDue
    | with_reducible apply Keeps.forUpTo
    | with_reducible apply Keeps.when
    | (intro _ _ _)
    | (intro _ _)
    | with_reducible refine Keeps.mk' ?_ rfl rfl

theorem keeps_offerBoundary {z s : State} (hK : Keeps z s) (t : Nat) : Keeps z (State.offerBoundary s t) := by
  unfold State.offerBoundary
  try dsimp only
  repeat' first
    | with_reducible assumption
    | with_reducible apply keeps_setEngGroup
    | with_reducible apply keeps_setAdcDue
    | with_reducible apply Keeps.forUpTo
    | with_reducible apply Keeps.when
    | (intro _ _ _)
    | (intro _ _)
    | with_reducible refine Keeps.mk' ?_ rfl rfl

theorem keeps_carrierStart {z s : State} (hK : Keeps z s) (n t : Nat) : Keeps z (State.carrierStart s n t) := by
  unfold State.carrierStart
  try dsimp only
  repeat' first
    | with_reducible assumption
    | with_reducible apply keeps_setFlag
    | with_reducible apply keeps_raise
    | with_reducible apply keeps_fracErr
    | with_reducible apply keeps_wrN
    | with_reducible apply keeps_formCompares
    | with_reducible apply keeps_setChan
    | with_reducible apply keeps_setGateLeg
    | with_reducible apply keeps_l2Edge
    | with_reducible apply keeps_enterRun
    | with_reducible apply keeps_setH
    | with_reducible apply keeps_offerEvent
    | with_reducible apply Keeps.ite
    | with_reducible apply Keeps.iteFst
    | (intro _ _ _)
    | (intro _ _)
    | with_reducible refine Keeps.mk' ?_ rfl rfl

theorem keeps_carrierE0 {z s : State} (hK : Keeps z s) (n : Nat) : Keeps z (State.carrierE0 s n) := by
  unfold State.carrierE0
  try dsimp only
  repeat' first
    | with_reducible assumption
    | with_reducible apply keeps_carrierStart
    | with_reducible apply keeps_runToTick
    | (intro _ _ _)
    | (intro _ _)
    | split
    | with_reducible refine Keeps.mk' ?_ rfl rfl

theorem keeps_midReload {z s : State} (hK : Keeps z s) (n t : Nat) : Keeps z (State.midReload s n t) := by
  unfold State.midReload
  try dsimp only
  repeat' first
    | with_reducible assumption
    | with_reducible apply keeps_fracErr
    | with_reducible apply keeps_wrN
    | with_reducible apply keeps_formCompares
    | with_reducible apply keeps_setFlag
    | with_reducible apply keeps_setChan
    | with_reducible apply keeps_setH
    | with_reducible apply Keeps.ite
    | with_reducible apply Keeps.iteFst
    | (intro _ _ _)
    | (intro _ _)
    | with_reducible refine Keeps.mk' ?_ rfl rfl

theorem keeps_carrierMidpoint {z s : State} (hK : Keeps z s) (n : Nat) : Keeps z (State.carrierMidpoint s n) := by
  unfold State.carrierMidpoint
  try dsimp only
  repeat' first
    | with_reducible assumption
    | with_reducible apply keeps_runToTick
    | with_reducible apply keeps_setChan
    | with_reducible apply keeps_midReload
    | with_reducible apply keeps_offerEvent
    | with_reducible apply Keeps.when
    | with_reducible apply Keeps.ite
    | (intro _ _ _)
    | (intro _ _)
    | with_reducible refine Keeps.mk' ?_ rfl rfl

theorem keeps_compareE2 {z s : State} (hK : Keeps z s) (n : Nat) : Keeps z (State.compareE2 s n) := by
  unfold State.compareE2
  try dsimp only
  repeat' first
    | with_reducible assumption
    | with_reducible apply keeps_runToTick
    | with_reducible apply keeps_setChan
    | with_reducible apply keeps_setH
    | with_reducible apply keeps_offerEvent
    | with_reducible apply Keeps.when
    | with_reducible apply Keeps.ite
    | (intro _ _ _)
    | (intro _ _)
    | with_reducible refine Keeps.mk' ?_ rfl rfl

theorem keeps_compareE3 {z s : State} (hK : Keeps z s) (n : Nat) : Keeps z (State.compareE3 s n) := by
  unfold State.compareE3
  try dsimp only
  repeat' first
    | with_reducible assumption
    | with_reducible apply keeps_runToTick
    | with_reducible apply keeps_setChan
    | with_reducible apply keeps_setH
    | with_reducible apply keeps_offerEvent
    | with_reducible apply Keeps.ite
    | (intro _ _ _)
    | (intro _ _)
    | with_reducible refine Keeps.mk' ?_ rfl rfl

theorem keeps_carriersMoved {z s : State} (hK : Keeps z s) (old : Nat) : Keeps z (State.carriersMoved s old) := by
  unfold State.carriersMoved
  try dsimp only
  repeat' first
    | with_reducible assumption
    | with_reducible apply keeps_setLeg
    | with_reducible apply keeps_setChan
    | with_reducible apply keeps_setH
    | with_reducible apply Keeps.forUpTo
    | with_reducible apply Keeps.when
    | with_reducible apply Keeps.ite
    | (intro _ _ _)
    | (intro _ _)
    | with_reducible refine Keeps.mk' ?_ rfl rfl

theorem keeps_deadEnd {z s : State} (hK : Keeps z s) (n : Nat) : Keeps z (State.deadEnd s n) := by
  unfold State.deadEnd
  try dsimp only
  repeat' first
    | with_reducible assumption
    | with_reducible apply keeps_runToTick
    | with_reducible apply keeps_setLeg
    | with_reducible apply keeps_setSwitch
    | with_reducible apply keeps_gateRefresh
    | with_reducible apply Keeps.ite
    | (intro _ _ _)
    | (intro _ _)
    | split
    | with_reducible refine Keeps.mk' ?_ rfl rfl

theorem keeps_shadowWrite {z s : State} (hK : Keeps z s) (n : Nat) (reg : ShadowReg) (v : Word) : Keeps z (State.shadowWrite s n reg v) := by
  unfold State.shadowWrite
  try dsimp only
  repeat' first
    | with_reducible assumption
    | with_reducible apply keeps_setChan
    | with_reducible apply keeps_setFlag
    | with_reducible apply Keeps.wr
    | with_reducible apply Keeps.ite
    | with_reducible apply Keeps.iteFst
    | (intro _ _ _)
    | (intro _ _)
    | split
    | with_reducible refine Keeps.mk' ?_ rfl rfl

theorem keeps_pwmCtrlWrite {z s : State} (hK : Keeps z s) (n : Nat) (v : Word) : Keeps z (State.pwmCtrlWrite s n v) := by
  unfold State.pwmCtrlWrite
  try dsimp only
  repeat' first
    | with_reducible assumption
    | with_reducible apply keeps_setChan
    | with_reducible apply keeps_legRefresh1
    | with_reducible apply Keeps.wr
    | with_reducible apply Keeps.ite
    | (intro _ _ _)
    | (intro _ _)
    | with_reducible refine Keeps.mk' ?_ rfl rfl

theorem keeps_groupStat {z s : State} (hK : Keeps z s) : Keeps z (State.groupStat s) := by
  unfold State.groupStat
  try dsimp only
  repeat' first
    | with_reducible assumption
    | with_reducible apply keeps_put
    | (intro _ _ _)
    | (intro _ _)
    | with_reducible refine Keeps.mk' ?_ rfl rfl

theorem keeps_tripGroup {z s : State} (hK : Keeps z s) (g : Nat) : Keeps z (State.tripGroup s g) := by
  unfold State.tripGroup
  try dsimp only
  repeat' first
    | with_reducible assumption
    | with_reducible apply keeps_setFlag
    | with_reducible apply keeps_put
    | with_reducible apply keeps_legRefresh
    | with_reducible apply keeps_raise
    | with_reducible apply Keeps.forUpTo
    | with_reducible apply Keeps.ite
    | (intro _ _ _)
    | (intro _ _)
    | with_reducible refine Keeps.mk' ?_ rfl rfl

theorem keeps_tripBy {z s : State} (hK : Keeps z s) (k : Nat) : Keeps z (State.tripBy s k) := by
  unfold State.tripBy
  try dsimp only
  repeat' first
    | with_reducible assumption
    | with_reducible apply keeps_put
    | with_reducible apply keeps_tripGroup
    | with_reducible apply Keeps.forUpTo
    | with_reducible apply Keeps.ite
    | (intro _ _ _)
    | (intro _ _)
    | with_reducible refine Keeps.mk' ?_ rfl rfl

theorem keeps_tripActive {z s : State} (hK : Keeps z s) (k : Nat) : Keeps z (State.tripActive s k) := by
  unfold State.tripActive
  try dsimp only
  repeat' first
    | with_reducible assumption
    | with_reducible apply keeps_put
    | with_reducible apply keeps_groupStat
    | with_reducible apply keeps_tripBy
    | with_reducible apply Keeps.ite
    | (intro _ _ _)
    | (intro _ _)
    | with_reducible refine Keeps.mk' ?_ rfl rfl

theorem keeps_tripInactive {z s : State} (hK : Keeps z s) (k : Nat) : Keeps z (State.tripInactive s k) := by
  unfold State.tripInactive
  try dsimp only
  repeat' first
    | with_reducible assumption
    | with_reducible apply keeps_put
    | with_reducible apply keeps_groupStat
    | with_reducible apply keeps_bumpReg
    | with_reducible apply Keeps.ite
    | (intro _ _ _)
    | (intro _ _)
    | with_reducible refine Keeps.mk' ?_ rfl rfl

theorem keeps_blankingEnd {z s : State} (hK : Keeps z s) (ch : Nat) : Keeps z (State.blankingEnd s ch) := by
  unfold State.blankingEnd
  try dsimp only
  repeat' first
    | with_reducible assumption
    | with_reducible apply keeps_tripBy
    | with_reducible apply Keeps.forUpTo
    | with_reducible apply Keeps.ite
    | (intro _ _ _)
    | (intro _ _)
    | with_reducible refine Keeps.mk' ?_ rfl rfl

theorem keeps_groupClear {z s : State} (hK : Keeps z s) (groups : Nat) : Keeps z (State.groupClear s groups) := by
  unfold State.groupClear
  try dsimp only
  repeat' first
    | with_reducible assumption
    | with_reducible apply keeps_put
    | with_reducible apply keeps_releaseOwn
    | with_reducible apply keeps_legRefresh
    | with_reducible apply keeps_bump
    | with_reducible apply keeps_raise
    | with_reducible apply Keeps.forUpTo
    | with_reducible apply Keeps.ite
    | (intro _ _ _)
    | (intro _ _)
    | with_reducible refine Keeps.mk' ?_ rfl rfl

theorem keeps_rearm {z s : State} (hK : Keeps z s) (m : Master) : Keeps z (State.rearm s m) := by
  unfold State.rearm
  try dsimp only
  repeat' first
    | with_reducible assumption
    | with_reducible apply keeps_reacquire
    | with_reducible apply keeps_startCarriers
    | with_reducible apply keeps_setFlag
    | with_reducible apply keeps_legRefresh
    | with_reducible apply keeps_violation
    | with_reducible apply Keeps.when
    | with_reducible apply Keeps.ite
    | (intro _ _ _)
    | (intro _ _)
    | with_reducible refine Keeps.mk' ?_ rfl rfl

theorem keeps_pwmCntClr {z s : State} (hK : Keeps z s) : Keeps z (State.pwmCntClr s) := by
  unfold State.pwmCntClr
  try dsimp only
  repeat' first
    | with_reducible assumption
    | with_reducible apply keeps_put
    | with_reducible apply Keeps.wr
    | with_reducible apply Keeps.forUpTo
    | (intro _ _ _)
    | (intro _ _)
    | with_reducible refine Keeps.mk' ?_ rfl rfl

theorem keeps_debugHalt {z s : State} (hK : Keeps z s) : Keeps z (State.debugHalt s) := by
  unfold State.debugHalt
  try dsimp only
  repeat' first
    | with_reducible assumption
    | with_reducible apply keeps_setEngGroup
    | with_reducible apply keeps_setFlag
    | with_reducible apply keeps_haltCarriers
    | with_reducible apply keeps_legRefresh
    | with_reducible apply keeps_raise
    | with_reducible apply Keeps.forUpTo
    | with_reducible apply Keeps.when
    | (intro _ _ _)
    | (intro _ _)
    | with_reducible refine Keeps.mk' ?_ rfl rfl

theorem keeps_resync1 {z s : State} (hK : Keeps z s) (n b : Nat) : Keeps z (State.resync1 s n b) := by
  unfold State.resync1
  try dsimp only
  repeat' first
    | with_reducible assumption
    | with_reducible apply keeps_setChan
    | with_reducible apply keeps_wrN
    | with_reducible apply keeps_setFlag
    | with_reducible apply keeps_bump
    | with_reducible apply keeps_raiseLater
    | with_reducible apply Keeps.ite
    | (intro _ _ _)
    | (intro _ _)
    | with_reducible refine Keeps.mk' ?_ rfl rfl

theorem keeps_resync {z s : State} (hK : Keeps z s) (b : Nat) : Keeps z (State.resync s b) := by
  unfold State.resync
  try dsimp only
  repeat' first
    | with_reducible assumption
    | with_reducible apply keeps_resync1
    | with_reducible apply Keeps.forUpTo
    | with_reducible apply Keeps.ite
    | (intro _ _ _)
    | (intro _ _)
    | with_reducible refine Keeps.mk' ?_ rfl rfl

theorem keeps_lengthChanged {z s : State} (hK : Keeps z s) : Keeps z (State.lengthChanged s) := by
  unfold State.lengthChanged
  try dsimp only
  repeat' first
    | with_reducible assumption
    | with_reducible apply keeps_setChan
    | with_reducible apply Keeps.forUpTo
    | (intro _ _ _)
    | (intro _ _)
    | with_reducible refine Keeps.mk' ?_ rfl rfl

theorem keeps_setGd {z s : State} (hK : Keeps z s) (n : Nat) (sw : Sw) (st : Nat) : Keeps z (State.setGd s n sw st) := by
  unfold State.setGd
  try dsimp only
  repeat' first
    | with_reducible assumption
    | with_reducible apply keeps_put
    | with_reducible apply keeps_setGate
    | with_reducible apply keeps_gateRefresh
    | (intro _ _ _)
    | (intro _ _)
    | with_reducible refine Keeps.mk' ?_ rfl rfl

theorem keeps_modGate {z s : State} (hK : Keeps z s) (n : Nat) (sw : Sw) (f : GateSt → GateSt) : Keeps z (State.modGate s n sw f) := by
  unfold State.modGate
  try dsimp only
  repeat' first
    | with_reducible assumption
    | with_reducible apply keeps_setGate
    | (intro _ _ _)
    | (intro _ _)
    | with_reducible refine Keeps.mk' ?_ rfl rfl

theorem keeps_waitEdge {z s : State} (hK : Keeps z s) (n : Nat) (sw : Sw) : Keeps z (State.waitEdge s n sw) := by
  unfold State.waitEdge
  try dsimp only
  repeat' first
    | with_reducible assumption
    | with_reducible apply keeps_modGate
    | (intro _ _ _)
    | (intro _ _)
    | with_reducible refine Keeps.mk' ?_ rfl rfl

theorem keeps_pumps {z s : State} (hK : Keeps z s) : Keeps z (State.pumps s) := by
  unfold State.pumps
  try dsimp only
  repeat' first
    | with_reducible assumption
    | with_reducible apply keeps_setGateLeg
    | with_reducible apply Keeps.forUpTo
    | (intro _ _ _)
    | (intro _ _)
    | with_reducible refine Keeps.mk' ?_ rfl rfl

theorem keeps_gdBind {z s : State} (hK : Keeps z s) : Keeps z (State.gdBind s) := by
  unfold State.gdBind
  try dsimp only
  repeat' first
    | with_reducible assumption
    | with_reducible apply keeps_setGd
    | with_reducible apply keeps_modGate
    | with_reducible apply keeps_setGateLeg
    | with_reducible apply keeps_pumps
    | with_reducible apply Keeps.forUpTo
    | with_reducible apply Keeps.when
    | with_reducible apply Keeps.ite
    | (intro _ _ _)
    | (intro _ _)
    | with_reducible refine Keeps.mk' ?_ rfl rfl

theorem keeps_l1Count {z s : State} (hK : Keeps z s) (n : Nat) (sw : Sw) (code tag : Nat) : Keeps z (State.l1Count s n sw code tag).1 := by
  unfold State.l1Count
  try dsimp only
  repeat' first
    | with_reducible assumption
    | with_reducible apply keeps_setGate
    | with_reducible apply keeps_bump
    | with_reducible apply keeps_raiseLater
    | with_reducible apply Keeps.ite
    | with_reducible apply Keeps.iteFst
    | (intro _ _ _)
    | (intro _ _)
    | with_reducible refine Keeps.mk' ?_ rfl rfl

theorem keeps_escalate {z s : State} (hK : Keeps z s) (n : Nat) (sw : Sw) : Keeps z (State.escalate s n sw) := by
  unfold State.escalate
  try dsimp only
  repeat' first
    | with_reducible assumption
    | with_reducible apply keeps_setGd
    | with_reducible apply keeps_setFlag
    | with_reducible apply keeps_bump
    | with_reducible apply keeps_raiseLater
    | (intro _ _ _)
    | (intro _ _)
    | with_reducible refine Keeps.mk' ?_ rfl rfl

theorem keeps_l1Fault {z s : State} (hK : Keeps z s) (n : Nat) (sw : Sw) (code tag : Nat) : Keeps z (State.l1Fault s n sw code tag) := by
  unfold State.l1Fault
  try dsimp only
  repeat' first
    | with_reducible assumption
    | with_reducible apply keeps_l1Count
    | with_reducible apply keeps_modGate
    | with_reducible apply keeps_escalate
    | with_reducible apply keeps_setGd
    | with_reducible apply Keeps.ite
    | with_reducible apply Keeps.iteFst
    | (intro _ _ _)
    | (intro _ _)
    | with_reducible refine Keeps.mk' ?_ rfl rfl

theorem keeps_bypassUv {z s : State} (hK : Keeps z s) (n : Nat) (sw : Sw) (tag : Nat) : Keeps z (State.bypassUv s n sw tag) := by
  unfold State.bypassUv
  try dsimp only
  repeat' first
    | with_reducible assumption
    | with_reducible apply keeps_raiseLater
    | (intro _ _ _)
    | (intro _ _)
    | with_reducible refine Keeps.mk' ?_ rfl rfl

theorem keeps_l2Fault {z s : State} (hK : Keeps z s) (n cause : Nat) (flag : Fld) : Keeps z (State.l2Fault s n cause flag) := by
  unfold State.l2Fault
  try dsimp only
  repeat' first
    | with_reducible assumption
    | with_reducible apply keeps_setGateLeg
    | with_reducible apply keeps_setFlag
    | with_reducible apply keeps_put
    | with_reducible apply keeps_bump
    | with_reducible apply keeps_gateRefresh
    | with_reducible apply keeps_modGate
    | with_reducible apply keeps_setGd
    | with_reducible apply keeps_raise
    | with_reducible apply Keeps.ite
    | (intro _ _ _)
    | (intro _ _)
    | with_reducible refine Keeps.mk' ?_ rfl rfl

theorem keeps_shootLeg {z s : State} (hK : Keeps z s) (n : Nat) : Keeps z (State.shootLeg s n) := by
  unfold State.shootLeg
  try dsimp only
  repeat' first
    | with_reducible assumption
    | with_reducible apply keeps_modGate
    | with_reducible apply keeps_setGd
    | with_reducible apply keeps_l2Fault
    | with_reducible apply Keeps.ite
    | (intro _ _ _)
    | (intro _ _)
    | with_reducible refine Keeps.mk' ?_ rfl rfl

theorem keeps_shortCircuit {z s : State} (hK : Keeps z s) (n : Nat) (sw : Sw) : Keeps z (State.shortCircuit s n sw) := by
  unfold State.shortCircuit
  try dsimp only
  repeat' first
    | with_reducible assumption
    | with_reducible apply keeps_runAfter
    | with_reducible apply keeps_setFlag
    | with_reducible apply keeps_raise
    | with_reducible apply keeps_shootLeg
    | with_reducible apply keeps_setGd
    | with_reducible apply keeps_l1Count
    | with_reducible apply keeps_modGate
    | with_reducible apply Keeps.ite
    | with_reducible apply Keeps.iteFst
    | (intro _ _ _)
    | (intro _ _)
    | split
    | with_reducible refine Keeps.mk' ?_ rfl rfl

theorem keeps_softEnd {z s : State} (hK : Keeps z s) (n : Nat) (sw : Sw) : Keeps z (State.softEnd s n sw) := by
  unfold State.softEnd
  try dsimp only
  repeat' first
    | with_reducible assumption
    | with_reducible apply keeps_runAfter
    | with_reducible apply keeps_setGate
    | with_reducible apply keeps_endCause
    | with_reducible apply keeps_escalate
    | with_reducible apply keeps_setGd
    | with_reducible apply keeps_waitEdge
    | with_reducible apply Keeps.ite
    | (intro _ _ _)
    | (intro _ _)
    | split
    | with_reducible refine Keeps.mk' ?_ rfl rfl

theorem keeps_releaseChan {z s : State} (hK : Keeps z s) (n : Nat) (sw : Sw) : Keeps z (State.releaseChan s n sw) := by
  unfold State.releaseChan
  try dsimp only
  repeat' first
    | with_reducible assumption
    | with_reducible apply keeps_releaseOwn
    | (intro _ _ _)
    | (intro _ _)
    | with_reducible refine Keeps.mk' ?_ rfl rfl

theorem keeps_waitExpiry {z s : State} (hK : Keeps z s) (n : Nat) (sw : Sw) : Keeps z (State.waitExpiry s n sw) := by
  unfold State.waitExpiry
  try dsimp only
  repeat' first
    | with_reducible assumption
    | with_reducible apply keeps_runAfter
    | with_reducible apply keeps_l1Count
    | with_reducible apply keeps_escalate
    | with_reducible apply keeps_modGate
    | with_reducible apply keeps_waitEdge
    | with_reducible apply keeps_setGd
    | with_reducible apply keeps_releaseChan
    | with_reducible apply Keeps.ite
    | with_reducible apply Keeps.iteFst
    | (intro _ _ _)
    | (intro _ _)
    | with_reducible refine Keeps.mk' ?_ rfl rfl

theorem keeps_bootUv {z s : State} (hK : Keeps z s) (n : Nat) : Keeps z (State.bootUv s n) := by
  unfold State.bootUv
  try dsimp only
  repeat' first
    | with_reducible assumption
    | with_reducible apply keeps_setFlag
    | with_reducible apply keeps_modGate
    | with_reducible apply keeps_bypassUv
    | with_reducible apply keeps_l1Fault
    | with_reducible apply Keeps.ite
    | (intro _ _ _)
    | (intro _ _)
    | with_reducible refine Keeps.mk' ?_ rfl rfl

theorem keeps_escEnd {z s : State} (hK : Keeps z s) (n : Nat) (sw : Sw) : Keeps z (State.escEnd s n sw) := by
  unfold State.escEnd
  try dsimp only
  repeat' first
    | with_reducible assumption
    | with_reducible apply keeps_endCause
    | with_reducible apply Keeps.ite
    | (intro _ _ _)
    | (intro _ _)
    | with_reducible refine Keeps.mk' ?_ rfl rfl

theorem keeps_bootCharged {z s : State} (hK : Keeps z s) (n : Nat) : Keeps z (State.bootCharged s n) := by
  unfold State.bootCharged
  try dsimp only
  repeat' first
    | with_reducible assumption
    | with_reducible apply keeps_modGate
    | with_reducible apply keeps_endCause
    | with_reducible apply keeps_escEnd
    | with_reducible apply keeps_setGd
    | with_reducible apply Keeps.ite
    | (intro _ _ _)
    | (intro _ _)
    | with_reducible refine Keeps.mk' ?_ rfl rfl

theorem keeps_chargeTimeout {z s : State} (hK : Keeps z s) (n : Nat) : Keeps z (State.chargeTimeout s n) := by
  unfold State.chargeTimeout
  try dsimp only
  repeat' first
    | with_reducible assumption
    | with_reducible apply keeps_runUp
    | with_reducible apply keeps_setFlag
    | with_reducible apply keeps_modGate
    | with_reducible apply keeps_bypassUv
    | with_reducible apply keeps_l1Fault
    | with_reducible apply Keeps.ite
    | (intro _ _ _)
    | (intro _ _)
    | split
    | with_reducible refine Keeps.mk' ?_ rfl rfl

theorem keeps_supplyUv {z s : State} (hK : Keeps z s) (vneg : Bool) : Keeps z (State.supplyUv s vneg) := by
  unfold State.supplyUv
  try dsimp only
  repeat' first
    | with_reducible assumption
    | with_reducible apply keeps_setFlag
    | with_reducible apply keeps_modGate
    | with_reducible apply keeps_bypassUv
    | with_reducible apply keeps_l1Fault
    | with_reducible apply keeps_pumps
    | with_reducible apply Keeps.forUpTo
    | with_reducible apply Keeps.ite
    | (intro _ _ _)
    | (intro _ _)
    | with_reducible refine Keeps.mk' ?_ rfl rfl

theorem keeps_supplyEnd {z s : State} (hK : Keeps z s) (vneg : Bool) : Keeps z (State.supplyEnd s vneg) := by
  unfold State.supplyEnd
  try dsimp only
  repeat' first
    | with_reducible assumption
    | with_reducible apply keeps_setFlag
    | with_reducible apply keeps_modGate
    | with_reducible apply keeps_endCause
    | with_reducible apply keeps_escEnd
    | with_reducible apply keeps_pumps
    | with_reducible apply Keeps.forUpTo
    | with_reducible apply Keeps.ite
    | (intro _ _ _)
    | (intro _ _)
    | with_reducible refine Keeps.mk' ?_ rfl rfl

theorem keeps_interlock {z s : State} (hK : Keeps z s) (n : Nat) (first : Option Sw) : Keeps z (State.interlock s n first) := by
  unfold State.interlock
  try dsimp only
  repeat' first
    | with_reducible assumption
    | with_reducible apply keeps_modGate
    | with_reducible apply keeps_l2Fault
    | with_reducible apply Keeps.ite
    | (intro _ _ _)
    | (intro _ _)
    | split
    | with_reducible refine Keeps.mk' ?_ rfl rfl

theorem keeps_deadtimeViol {z s : State} (hK : Keeps z s) (n : Nat) (sw : Sw) : Keeps z (State.deadtimeViol s n sw) := by
  unfold State.deadtimeViol
  try dsimp only
  repeat' first
    | with_reducible assumption
    | with_reducible apply keeps_modGate
    | with_reducible apply keeps_l2Fault
    | with_reducible apply Keeps.ite
    | (intro _ _ _)
    | (intro _ _)
    | with_reducible refine Keeps.mk' ?_ rfl rfl

theorem keeps_selfTest {z s : State} (hK : Keeps z s) (n : Nat) (sw : Sw) (trip : Option Nat) (mv : Nat) : Keeps z (State.selfTest s n sw trip mv) := by
  unfold State.selfTest
  try dsimp only
  repeat' first
    | with_reducible assumption
    | with_reducible apply keeps_runUp
    | with_reducible apply keeps_runAfter
    | with_reducible apply keeps_modGate
    | with_reducible apply keeps_setFlag
    | with_reducible apply keeps_raise
    | with_reducible apply Keeps.when
    | with_reducible apply Keeps.ite
    | (intro _ _ _)
    | (intro _ _)
    | split
    | with_reducible refine Keeps.mk' ?_ rfl rfl

theorem keeps_injNow {z s : State} (hK : Keeps z s) : Keeps z (State.injNow s) := by
  unfold State.injNow
  try dsimp only
  repeat' first
    | with_reducible assumption
    | with_reducible apply keeps_modGate
    | with_reducible apply Keeps.forUpTo
    | with_reducible apply Keeps.ite
    | (intro _ _ _)
    | (intro _ _)
    | with_reducible refine Keeps.mk' ?_ rfl rfl

theorem keeps_gdPublish {z s : State} (hK : Keeps z s) (vdrv vneg : Nat) (vbs : List (BitVec 16)) : Keeps z (State.gdPublish s vdrv vneg vbs) := by
  unfold State.gdPublish
  try dsimp only
  repeat' first
    | with_reducible assumption
    | with_reducible apply keeps_runUp
    | with_reducible apply keeps_put
    | with_reducible apply keeps_setFlag
    | with_reducible apply keeps_setResult
    | with_reducible apply Keeps.forUpTo
    | with_reducible apply Keeps.ite
    | (intro _ _ _)
    | (intro _ _)
    | with_reducible refine Keeps.mk' ?_ rfl rfl

theorem keeps_gdCntClr {z s : State} (hK : Keeps z s) : Keeps z (State.gdCntClr s) := by
  unfold State.gdCntClr
  try dsimp only
  repeat' first
    | with_reducible assumption
    | with_reducible apply Keeps.wr
    | with_reducible apply Keeps.forUpTo
    | (intro _ _ _)
    | (intro _ _)
    | with_reducible refine Keeps.mk' ?_ rfl rfl

theorem keeps_gdEscalRefresh {z s : State} (hK : Keeps z s) : Keeps z (State.gdEscalRefresh s) := by
  unfold State.gdEscalRefresh
  try dsimp only
  repeat' first
    | with_reducible assumption
    | with_reducible apply keeps_waitEdge
    | with_reducible apply keeps_setGd
    | with_reducible apply keeps_releaseChan
    | with_reducible apply Keeps.forUpTo
    | with_reducible apply Keeps.ite
    | (intro _ _ _)
    | (intro _ _)
    | split
    | with_reducible refine Keeps.mk' ?_ rfl rfl

end Sys2Proof.Machine
end

