-- ==== Sys2Proof/Laws/KeepNode.lean ====
section
/-! SUPPORT. Laws/KeepNode.lean: `Keeps` of the operations of Machine/Thermal.lean, Machine/MemoryEcc.lean, Machine/SafetyUnit.lean. -/
namespace Sys2Proof.Machine
set_option Elab.async false

theorem keeps_logRefresh {z s : State} (hK : Keeps z s) : Keeps z (State.logRefresh s) := by
  unfold State.logRefresh
  try dsimp only
  repeat' first
    | with_reducible assumption
    | with_reducible apply keeps_put
    | with_reducible apply keeps_setFlag
    | (intro _ _ _)
    | (intro _ _)
    | with_reducible refine Keeps.mk' ?_ rfl rfl

theorem keeps_logEvent {z s : State} (hK : Keeps z s) (kind : Nat) (w3 w6 : Word) : Keeps z (State.logEvent s kind w3 w6) := by
  unfold State.logEvent
  try dsimp only
  repeat' first
    | with_reducible assumption
    | with_reducible apply keeps_bump
    | with_reducible apply keeps_raise
    | with_reducible apply keeps_logRefresh
    | with_reducible apply Keeps.ite
    | (intro _ _ _)
    | (intro _ _)
    | with_reducible refine Keeps.mk' ?_ rfl rfl

theorem keeps_logWrite {z s : State} (hK : Keeps z s) : Keeps z (State.logWrite s) := by
  unfold State.logWrite
  try dsimp only
  repeat' first
    | with_reducible assumption
    | with_reducible apply keeps_logRefresh
    | with_reducible apply keeps_setFlag
    | with_reducible apply Keeps.when
    | with_reducible apply Keeps.ite
    | (intro _ _ _)
    | (intro _ _)
    | split
    | with_reducible refine Keeps.mk' ?_ rfl rfl

theorem keeps_logScan {z s : State} (hK : Keeps z s) : Keeps z (State.logScan s) := by
  unfold State.logScan
  try dsimp only
  repeat' first
    | with_reducible assumption
    | with_reducible apply keeps_logRefresh
    | with_reducible apply Keeps.foldlFst
    | with_reducible apply Keeps.foldl
    | with_reducible apply Keeps.ite
    | with_reducible apply Keeps.iteFst
    | (intro _ _ _)
    | (intro _ _)
    | split
    | with_reducible refine Keeps.mk' ?_ rfl rfl

theorem keeps_logSel {z s : State} (hK : Keeps z s) (v : Nat) : Keeps z (State.logSel s v) := by
  unfold State.logSel
  try dsimp only
  repeat' first
    | with_reducible assumption
    | with_reducible apply keeps_put
    | with_reducible apply keeps_setFlag
    | (intro _ _ _)
    | (intro _ _)
    | with_reducible refine Keeps.mk' ?_ rfl rfl

theorem keeps_logReadDone {z s : State} (hK : Keeps z s) : Keeps z (State.logReadDone s) := by
  unfold State.logReadDone
  try dsimp only
  repeat' first
    | with_reducible assumption
    | with_reducible apply keeps_setFlag
    | with_reducible apply Keeps.wr
    | with_reducible apply Keeps.forUpTo
    | with_reducible apply Keeps.ite
    | (intro _ _ _)
    | (intro _ _)
    | split
    | with_reducible refine Keeps.mk' ?_ rfl rfl

theorem keeps_setSensor {z s : State} (hK : Keeps z s) (i : Nat) (v : ThmSensor) : Keeps z (State.setSensor s i v) := by
  unfold State.setSensor
  try dsimp only
  repeat' first
    | with_reducible assumption
    | (intro _ _ _)
    | (intro _ _)
    | with_reducible refine Keeps.mk' ?_ rfl rfl

theorem keeps_thermalEnter {z s : State} (hK : Keeps z s) (i st : Nat) : Keeps z (State.thermalEnter s i st) := by
  unfold State.thermalEnter
  try dsimp only
  repeat' first
    | with_reducible assumption
    | with_reducible apply keeps_put
    | with_reducible apply keeps_endCause
    | with_reducible apply keeps_raise
    | with_reducible apply keeps_logEvent
    | with_reducible apply Keeps.ite
    | (intro _ _ _)
    | (intro _ _)
    | with_reducible refine Keeps.mk' ?_ rfl rfl

theorem keeps_bandSelect {z s : State} (hK : Keeps z s) (i b : Nat) : Keeps z (State.bandSelect s i b) := by
  unfold State.bandSelect
  try dsimp only
  repeat' first
    | with_reducible assumption
    | with_reducible apply keeps_laneBand
    | with_reducible apply keeps_setGateLeg
    | with_reducible apply keeps_put
    | with_reducible apply Keeps.forUpTo
    | with_reducible apply Keeps.ite
    | (intro _ _ _)
    | (intro _ _)
    | with_reducible refine Keeps.mk' ?_ rfl rfl

theorem keeps_publishHeadroom {z s : State} (hK : Keeps z s) (i : Nat) (v : Option Word) : Keeps z (State.publishHeadroom s i v) := by
  unfold State.publishHeadroom
  try dsimp only
  repeat' first
    | with_reducible assumption
    | with_reducible apply keeps_setResult
    | (intro _ _ _)
    | (intro _ _)
    | with_reducible refine Keeps.mk' ?_ rfl rfl

theorem keeps_headroomInit {z s : State} (hK : Keeps z s) : Keeps z (State.headroomInit s) := by
  unfold State.headroomInit
  try dsimp only
  repeat' first
    | with_reducible assumption
    | with_reducible apply keeps_setResult
    | with_reducible apply Keeps.forUpTo
    | with_reducible apply Keeps.when
    | (intro _ _ _)
    | (intro _ _)
    | with_reducible refine Keeps.mk' ?_ rfl rfl

theorem keeps_sensorNext {z s : State} (hK : Keeps z s) (i : Nat) : Keeps z (State.sensorNext s i) := by
  unfold State.sensorNext
  try dsimp only
  repeat' first
    | with_reducible assumption
    | with_reducible apply keeps_setSensor
    | (intro _ _ _)
    | (intro _ _)
    | with_reducible refine Keeps.mk' ?_ rfl rfl

theorem keeps_sensorFail {z s : State} (hK : Keeps z s) (i : Nat) : Keeps z (State.sensorFail s i) := by
  unfold State.sensorFail
  try dsimp only
  repeat' first
    | with_reducible assumption
    | with_reducible apply keeps_setSensor
    | with_reducible apply keeps_setFlag
    | with_reducible apply keeps_put
    | with_reducible apply keeps_raise
    | with_reducible apply keeps_publishHeadroom
    | with_reducible apply Keeps.ite
    | (intro _ _ _)
    | (intro _ _)
    | with_reducible refine Keeps.mk' ?_ rfl rfl

theorem keeps_sensorValid {z s : State} (hK : Keeps z s) (i : Nat) (t : Int) : Keeps z (State.sensorValid s i t) := by
  unfold State.sensorValid
  try dsimp only
  repeat' first
    | with_reducible assumption
    | with_reducible apply keeps_setSensor
    | with_reducible apply keeps_put
    | with_reducible apply keeps_setFlag
    | with_reducible apply keeps_endCause
    | with_reducible apply keeps_bandSelect
    | with_reducible apply keeps_thermalEnter
    | with_reducible apply keeps_publishHeadroom
    | with_reducible apply Keeps.ite
    | (intro _ _ _)
    | (intro _ _)
    | with_reducible refine Keeps.mk' ?_ rfl rfl

theorem keeps_ntcReading {z s : State} (hK : Keeps z s) (i : Nat) (n r : HkRes) : Keeps z (State.ntcReading s i n r) := by
  unfold State.ntcReading
  try dsimp only
  repeat' first
    | with_reducible assumption
    | with_reducible apply keeps_sensorFail
    | with_reducible apply keeps_sensorValid
    | with_reducible apply Keeps.useFree
    | with_reducible apply Keeps.ite
    | (intro _ _ _)
    | (intro _ _)
    | split
    | with_reducible refine Keeps.mk' ?_ rfl rfl

theorem keeps_sensorReading {z s : State} (hK : Keeps z s) (i : Nat) (t : Int) (bad : Bool) : Keeps z (State.sensorReading s i t bad) := by
  unfold State.sensorReading
  try dsimp only
  repeat' first
    | with_reducible assumption
    | with_reducible apply keeps_runToTick
    | with_reducible apply keeps_sensorFail
    | with_reducible apply keeps_sensorValid
    | with_reducible apply keeps_sensorNext
    | with_reducible apply keeps_ntcReading
    | with_reducible apply Keeps.ite
    | (intro _ _ _)
    | (intro _ _)
    | split
    | with_reducible refine Keeps.mk' ?_ rfl rfl

theorem keeps_eccClear {z s : State} (hK : Keeps z s) (w : Nat) : Keeps z (State.eccClear s w) := by
  unfold State.eccClear
  try dsimp only
  repeat' first
    | with_reducible assumption
    | (intro _ _ _)
    | (intro _ _)
    | with_reducible refine Keeps.mk' ?_ rfl rfl

theorem keeps_eccSet {z s : State} (hK : Keeps z s) (w : Nat) (poison : Bool) : Keeps z (State.eccSet s w poison) := by
  unfold State.eccSet
  try dsimp only
  repeat' first
    | with_reducible assumption
    | with_reducible apply keeps_eccClear
    | (intro _ _ _)
    | (intro _ _)
    | with_reducible refine Keeps.mk' ?_ rfl rfl

theorem keeps_corrected {z s : State} (hK : Keeps z s) (w : Nat) : Keeps z (State.corrected s w) := by
  unfold State.corrected
  try dsimp only
  repeat' first
    | with_reducible assumption
    | with_reducible apply keeps_wrN
    | with_reducible apply keeps_bumpReg
    | with_reducible apply keeps_put
    | with_reducible apply keeps_bump
    | with_reducible apply keeps_raise
    | with_reducible apply Keeps.ite
    | (intro _ _ _)
    | (intro _ _)
    | with_reducible refine Keeps.mk' ?_ rfl rfl

theorem keeps_eccDecode {z s : State} (hK : Keeps z s) (w : Nat) (e : Ecc) : Keeps z (State.eccDecode s w e).1 := by
  unfold State.eccDecode
  try dsimp only
  repeat' first
    | with_reducible assumption
    | with_reducible apply keeps_eccSet
    | with_reducible apply keeps_wrN
    | with_reducible apply keeps_corrected
    | with_reducible apply Keeps.ite
    | with_reducible apply Keeps.iteFst
    | (intro _ _ _)
    | (intro _ _)
    | with_reducible refine Keeps.mk' ?_ rfl rfl

theorem keeps_eccRead {z s : State} (hK : Keeps z s) (w : Nat) (e : Ecc) : Keeps z (State.eccRead s w e).1 := by
  unfold State.eccRead
  try dsimp only
  repeat' first
    | with_reducible assumption
    | with_reducible apply keeps_eccDecode
    | with_reducible apply keeps_raise
    | with_reducible apply Keeps.ite
    | with_reducible apply Keeps.iteFst
    | (intro _ _ _)
    | (intro _ _)
    | with_reducible refine Keeps.mk' ?_ rfl rfl

theorem keeps_eccMerge {z s : State} (hK : Keeps z s) (w : Nat) (e : Ecc) : Keeps z (State.eccMerge s w e).1 := by
  unfold State.eccMerge
  try dsimp only
  repeat' first
    | with_reducible assumption
    | with_reducible apply keeps_eccDecode
    | with_reducible apply keeps_raise
    | with_reducible apply keeps_eccClear
    | with_reducible apply Keeps.ite
    | with_reducible apply Keeps.iteFst
    | (intro _ _ _)
    | (intro _ _)
    | with_reducible refine Keeps.mk' ?_ rfl rfl

theorem keeps_bucketLeak {z s : State} (hK : Keeps z s) (r : Nat) : Keeps z (State.bucketLeak s r) := by
  unfold State.bucketLeak
  try dsimp only
  repeat' first
    | with_reducible assumption
    | with_reducible apply keeps_runAhead
    | with_reducible apply keeps_put
    | with_reducible apply Keeps.ite
    | (intro _ _ _)
    | (intro _ _)
    | with_reducible refine Keeps.mk' ?_ rfl rfl

theorem keeps_scrubGo {z s : State} (hK : Keeps z s) (mp : Bool) : Keeps z (State.scrubGo s mp) := by
  unfold State.scrubGo
  try dsimp only
  repeat' first
    | with_reducible assumption
    | with_reducible apply keeps_put
    | with_reducible apply keeps_wrN
    | with_reducible apply Keeps.ite
    | (intro _ _ _)
    | (intro _ _)
    | with_reducible refine Keeps.mk' ?_ rfl rfl

theorem keeps_scrubEnd {z s : State} (hK : Keeps z s) (st ce ue : Nat) (first : Option Nat) : Keeps z (State.scrubEnd s st ce ue first) := by
  unfold State.scrubEnd
  try dsimp only
  repeat' first
    | with_reducible assumption
    | with_reducible apply keeps_wrN
    | with_reducible apply keeps_put
    | with_reducible apply keeps_raise
    | with_reducible apply Keeps.ite
    | (intro _ _ _)
    | (intro _ _)
    | with_reducible refine Keeps.mk' ?_ rfl rfl

theorem keeps_scrubAbort {z s : State} (hK : Keeps z s) : Keeps z (State.scrubAbort s) := by
  unfold State.scrubAbort
  try dsimp only
  repeat' first
    | with_reducible assumption
    | with_reducible apply Keeps.when
    | (intro _ _ _)
    | (intro _ _)
    | with_reducible refine Keeps.mk' ?_ rfl rfl

theorem keeps_scrubWord {z s : State} (hK : Keeps z s) (e : Ecc) : Keeps z (State.scrubWord s e) := by
  unfold State.scrubWord
  try dsimp only
  repeat' first
    | with_reducible assumption
    | with_reducible apply keeps_runUp
    | with_reducible apply keeps_scrubEnd
    | with_reducible apply keeps_eccDecode
    | with_reducible apply Keeps.ite
    | with_reducible apply Keeps.iteFst
    | (intro _ _ _)
    | (intro _ _)
    | split
    | with_reducible refine Keeps.mk' ?_ rfl rfl

theorem keeps_memRepair {z s : State} (hK : Keeps z s) (mp : Bool) (v : Nat) : Keeps z (State.memRepair s mp v) := by
  unfold State.memRepair
  try dsimp only
  repeat' first
    | with_reducible assumption
    | with_reducible apply keeps_wrN
    | with_reducible apply keeps_put
    | with_reducible apply keeps_eccClear
    | with_reducible apply Keeps.wr
    | with_reducible apply Keeps.storeLe
    | with_reducible apply Keeps.when
    | with_reducible apply Keeps.ite
    | (intro _ _ _)
    | (intro _ _)
    | with_reducible refine Keeps.mk' ?_ rfl rfl

theorem keeps_memCntClr {z s : State} (hK : Keeps z s) : Keeps z (State.memCntClr s) := by
  unfold State.memCntClr
  try dsimp only
  repeat' first
    | with_reducible assumption
    | with_reducible apply keeps_wrN
    | with_reducible apply Keeps.forUpTo
    | (intro _ _ _)
    | (intro _ _)
    | with_reducible refine Keeps.mk' ?_ rfl rfl

theorem keeps_setSafIn {z s : State} (hK : Keeps z s) (n : Nat) (v : SafIn) : Keeps z (State.setSafIn s n v) := by
  unfold State.setSafIn
  try dsimp only
  repeat' first
    | with_reducible assumption
    | (intro _ _ _)
    | (intro _ _)
    | with_reducible refine Keeps.mk' ?_ rfl rfl

theorem keeps_setSafHead {z s : State} (hK : Keeps z s) (h : Nat) (v : SafHead) : Keeps z (State.setSafHead s h v) := by
  unfold State.setSafHead
  try dsimp only
  repeat' first
    | with_reducible assumption
    | (intro _ _ _)
    | (intro _ _)
    | with_reducible refine Keeps.mk' ?_ rfl rfl

theorem keeps_setSafWord {z s : State} (hK : Keeps z s) (p : Nat) (v : SafWord) : Keeps z (State.setSafWord s p v) := by
  unfold State.setSafWord
  try dsimp only
  repeat' first
    | with_reducible assumption
    | (intro _ _ _)
    | (intro _ _)
    | with_reducible refine Keeps.mk' ?_ rfl rfl

theorem keeps_setInhibit {z s : State} (hK : Keeps z s) (on : Bool) : Keeps z (State.setInhibit s on) := by
  unfold State.setInhibit
  try dsimp only
  repeat' first
    | with_reducible assumption
    | with_reducible apply keeps_setFlag
    | with_reducible apply keeps_modGate
    | with_reducible apply keeps_waitEdge
    | with_reducible apply keeps_gateRefresh
    | with_reducible apply Keeps.forUpTo
    | with_reducible apply Keeps.ite
    | (intro _ _ _)
    | (intro _ _)
    | with_reducible refine Keeps.mk' ?_ rfl rfl

theorem keeps_setSo {z s : State} (hK : Keeps z s) (x : Nat) (on : Bool) : Keeps z (State.setSo s x on) := by
  unfold State.setSo
  try dsimp only
  repeat' first
    | with_reducible assumption
    | with_reducible apply keeps_setFlag
    | with_reducible apply Keeps.ite
    | (intro _ _ _)
    | (intro _ _)
    | with_reducible refine Keeps.mk' ?_ rfl rfl

theorem keeps_safRefresh {z s : State} (hK : Keeps z s) : Keeps z (State.safRefresh s) := by
  unfold State.safRefresh
  try dsimp only
  repeat' first
    | with_reducible assumption
    | with_reducible apply keeps_setFlag
    | with_reducible apply keeps_setInhibit
    | with_reducible apply keeps_setSo
    | with_reducible apply Keeps.forUpTo
    | with_reducible apply Keeps.ite
    | (intro _ _ _)
    | (intro _ _)
    | with_reducible refine Keeps.mk' ?_ rfl rfl

theorem keeps_safBind {z s : State} (hK : Keeps z s) : Keeps z (State.safBind s) := by
  unfold State.safBind
  try dsimp only
  repeat' first
    | with_reducible assumption
    | with_reducible apply keeps_setInhibit
    | with_reducible apply keeps_put
    | with_reducible apply keeps_setFlag
    | with_reducible apply keeps_safRefresh
    | with_reducible apply Keeps.wr
    | with_reducible apply Keeps.ite
    | (intro _ _ _)
    | (intro _ _)
    | with_reducible refine Keeps.mk' ?_ rfl rfl

theorem keeps_inStat {z s : State} (hK : Keeps z s) : Keeps z (State.inStat s) := by
  unfold State.inStat
  try dsimp only
  repeat' first
    | with_reducible assumption
    | with_reducible apply keeps_put
    | (intro _ _ _)
    | (intro _ _)
    | with_reducible refine Keeps.mk' ?_ rfl rfl

theorem keeps_inputFault {z s : State} (hK : Keeps z s) (n : Nat) : Keeps z (State.inputFault s n) := by
  unfold State.inputFault
  try dsimp only
  repeat' first
    | with_reducible assumption
    | with_reducible apply keeps_setSafIn
    | with_reducible apply keeps_raise
    | with_reducible apply Keeps.ite
    | (intro _ _ _)
    | (intro _ _)
    | with_reducible refine Keeps.mk' ?_ rfl rfl

theorem keeps_inputClear {z s : State} (hK : Keeps z s) (n : Nat) : Keeps z (State.inputClear s n) := by
  unfold State.inputClear
  try dsimp only
  repeat' first
    | with_reducible assumption
    | with_reducible apply keeps_setSafIn
    | with_reducible apply keeps_endCause
    | (intro _ _ _)
    | (intro _ _)
    | with_reducible refine Keeps.mk' ?_ rfl rfl

theorem keeps_sampleInput {z s : State} (hK : Keeps z s) (n : Nat) (a b : Bool) : Keeps z (State.sampleInput s n a b) := by
  unfold State.sampleInput
  try dsimp only
  repeat' first
    | with_reducible assumption
    | with_reducible apply keeps_setSafIn
    | with_reducible apply keeps_inputFault
    | with_reducible apply keeps_inputClear
    | with_reducible apply Keeps.ite
    | (intro _ _ _)
    | (intro _ _)
    | split
    | with_reducible refine Keeps.mk' ?_ rfl rfl

theorem keeps_safSample {z s : State} (hK : Keeps z s) (a b : Nat) : Keeps z (State.safSample s a b) := by
  unfold State.safSample
  try dsimp only
  repeat' first
    | with_reducible assumption
    | with_reducible apply keeps_runUp
    | with_reducible apply keeps_put
    | with_reducible apply keeps_sampleInput
    | with_reducible apply keeps_inStat
    | with_reducible apply Keeps.forUpTo
    | with_reducible apply Keeps.ite
    | (intro _ _ _)
    | (intro _ _)
    | with_reducible refine Keeps.mk' ?_ rfl rfl

theorem keeps_gapStart {z s : State} (hK : Keeps z s) (x : Nat) : Keeps z (State.gapStart s x) := by
  unfold State.gapStart
  try dsimp only
  repeat' first
    | with_reducible assumption
    | with_reducible apply keeps_runUp
    | with_reducible apply Keeps.ite
    | (intro _ _ _)
    | (intro _ _)
    | with_reducible refine Keeps.mk' ?_ rfl rfl

theorem keeps_gapEnd {z s : State} (hK : Keeps z s) (x : Nat) : Keeps z (State.gapEnd s x) := by
  unfold State.gapEnd
  try dsimp only
  repeat' first
    | with_reducible assumption
    | with_reducible apply keeps_runUp
    | with_reducible apply keeps_bumpReg
    | with_reducible apply keeps_inputFault
    | with_reducible apply keeps_inStat
    | with_reducible apply Keeps.forUpTo
    | with_reducible apply Keeps.ite
    | (intro _ _ _)
    | (intro _ _)
    | with_reducible refine Keeps.mk' ?_ rfl rfl

theorem keeps_sourceLimit {z s : State} (hK : Keeps z s) (x : Nat) : Keeps z (State.sourceLimit s x) := by
  unfold State.sourceLimit
  try dsimp only
  repeat' first
    | with_reducible assumption
    | with_reducible apply keeps_raise
    | with_reducible apply Keeps.ite
    | (intro _ _ _)
    | (intro _ _)
    | with_reducible refine Keeps.mk' ?_ rfl rfl

theorem keeps_vauxUv {z s : State} (hK : Keeps z s) : Keeps z (State.vauxUv s) := by
  unfold State.vauxUv
  try dsimp only
  repeat' first
    | with_reducible assumption
    | with_reducible apply keeps_setFlag
    | with_reducible apply keeps_safRefresh
    | with_reducible apply keeps_raise
    | with_reducible apply Keeps.ite
    | (intro _ _ _)
    | (intro _ _)
    | with_reducible refine Keeps.mk' ?_ rfl rfl

theorem keeps_vauxOk {z s : State} (hK : Keeps z s) : Keeps z (State.vauxOk s) := by
  unfold State.vauxOk
  try dsimp only
  repeat' first
    | with_reducible assumption
    | with_reducible apply keeps_setFlag
    | with_reducible apply keeps_endCause
    | with_reducible apply keeps_safRefresh
    | with_reducible apply Keeps.ite
    | (intro _ _ _)
    | (intro _ _)
    | with_reducible refine Keeps.mk' ?_ rfl rfl

theorem keeps_localEval {z s : State} (hK : Keeps z s) (agree : Bool) : Keeps z (State.localEval s agree) := by
  unfold State.localEval
  try dsimp only
  repeat' first
    | with_reducible assumption
    | with_reducible apply keeps_runUp
    | with_reducible apply keeps_safRefresh
    | with_reducible apply keeps_endCause
    | with_reducible apply keeps_raise
    | with_reducible apply Keeps.ite
    | (intro _ _ _)
    | (intro _ _)
    | with_reducible refine Keeps.mk' ?_ rfl rfl

theorem keeps_soFail {z s : State} (hK : Keeps z s) : Keeps z (State.soFail s) := by
  unfold State.soFail
  try dsimp only
  repeat' first
    | with_reducible assumption
    | with_reducible apply keeps_setFlag
    | with_reducible apply keeps_safRefresh
    | with_reducible apply keeps_raise
    | with_reducible apply Keeps.ite
    | (intro _ _ _)
    | (intro _ _)
    | with_reducible refine Keeps.mk' ?_ rfl rfl

theorem keeps_darkTest {z s : State} (hK : Keeps z s) (c : Nat) (off : Bool) : Keeps z (State.darkTest s c off) := by
  unfold State.darkTest
  try dsimp only
  repeat' first
    | with_reducible assumption
    | with_reducible apply Keeps.forUpTo
    | with_reducible apply Keeps.ite
    | (intro _ _ _)
    | (intro _ _)
    | with_reducible refine Keeps.mk' ?_ rfl rfl

theorem keeps_soReadback {z s : State} (hK : Keeps z s) (x c : Nat) (below5 aboveV : Bool) : Keeps z (State.soReadback s x c below5 aboveV) := by
  unfold State.soReadback
  try dsimp only
  repeat' first
    | with_reducible assumption
    | with_reducible apply keeps_soFail
    | with_reducible apply Keeps.ite
    | (intro _ _ _)
    | (intro _ _)
    | with_reducible refine Keeps.mk' ?_ rfl rfl

theorem keeps_edmCheck {z s : State} (hK : Keeps z s) (x : Nat) : Keeps z (State.edmCheck s x) := by
  unfold State.edmCheck
  try dsimp only
  repeat' first
    | with_reducible assumption
    | with_reducible apply keeps_runUp
    | with_reducible apply keeps_soFail
    | with_reducible apply Keeps.ite
    | (intro _ _ _)
    | (intro _ _)
    | split
    | with_reducible refine Keeps.mk' ?_ rfl rfl

theorem keeps_takeSafeItem {z s : State} (hK : Keeps z s) (origin : Nat) (r : Ring) (idx : Nat) (v : Word) : Keeps z (State.takeSafeItem s origin r idx v) := by
  unfold State.takeSafeItem
  try dsimp only
  repeat' first
    | with_reducible assumption
    | with_reducible apply Keeps.ite
    | with_reducible apply Keeps.iteFst
    | (intro _ _ _)
    | (intro _ _)
    | with_reducible refine Keeps.mk' ?_ rfl rfl

theorem keeps_safCloseUplink {z s : State} (hK : Keeps z s) : Keeps z (State.safCloseUplink s) := by
  unfold State.safCloseUplink
  try dsimp only
  repeat' first
    | with_reducible assumption
    | with_reducible apply keeps_bumpReg
    | with_reducible apply keeps_raiseLater
    | with_reducible apply keeps_setSafWord
    | with_reducible apply Keeps.foldlFst
    | with_reducible apply Keeps.foldl
    | with_reducible apply Keeps.ite
    | with_reducible apply Keeps.iteFst
    | (intro _ _ _)
    | (intro _ _)
    | split
    | with_reducible refine Keeps.mk' ?_ rfl rfl

theorem keeps_sfReset {z s : State} (hK : Keeps z s) (k : Nat) (dem : Nat) : Keeps z (State.sfReset s k dem) := by
  unfold State.sfReset
  try dsimp only
  repeat' first
    | with_reducible assumption
    | with_reducible apply keeps_raise
    | with_reducible apply Keeps.ite
    | (intro _ _ _)
    | (intro _ _)
    | split
    | with_reducible refine Keeps.mk' ?_ rfl rfl

theorem keeps_safApply {z s : State} (hK : Keeps z s) : Keeps z (State.safApply s) := by
  unfold State.safApply
  try dsimp only
  repeat' first
    | with_reducible assumption
    | with_reducible apply keeps_raise
    | with_reducible apply keeps_safRefresh
    | with_reducible apply Keeps.ite
    | (intro _ _ _)
    | (intro _ _)
    | with_reducible refine Keeps.mk' ?_ rfl rfl

theorem keeps_safResult {z s : State} (hK : Keeps z s) (h : Nat) (r : SafeCopy) : Keeps z (State.safResult s h r) := by
  unfold State.safResult
  try dsimp only
  repeat' first
    | with_reducible assumption
    | with_reducible apply keeps_setSafHead
    | with_reducible apply keeps_put
    | with_reducible apply keeps_setFlag
    | with_reducible apply keeps_endCause
    | with_reducible apply keeps_safApply
    | with_reducible apply Keeps.ite
    | (intro _ _ _)
    | (intro _ _)
    | with_reducible refine Keeps.mk' ?_ rfl rfl

theorem keeps_clearInit {z s : State} (hK : Keeps z s) (dem : Nat) : Keeps z (State.clearInit s dem) := by
  unfold State.clearInit
  try dsimp only
  repeat' first
    | with_reducible assumption
    | with_reducible apply keeps_setFlag
    | with_reducible apply keeps_safRefresh
    | with_reducible apply Keeps.ite
    | (intro _ _ _)
    | (intro _ _)
    | with_reducible refine Keeps.mk' ?_ rfl rfl

theorem keeps_safetyDecision {z s : State} (hK : Keeps z s) : Keeps z (State.safetyDecision s) := by
  unfold State.safetyDecision
  try dsimp only
  repeat' first
    | with_reducible assumption
    | with_reducible apply keeps_runIn
    | with_reducible apply keeps_sfReset
    | with_reducible apply keeps_safResult
    | with_reducible apply keeps_clearInit
    | with_reducible apply keeps_sendAll
    | with_reducible apply Keeps.forUpTo
    | with_reducible apply Keeps.ite
    | (intro _ _ _)
    | (intro _ _)
    | with_reducible refine Keeps.mk' ?_ rfl rfl

theorem keeps_windowClose {z s : State} (hK : Keeps z s) (h : Nat) (a : SafeCopy) (b : Option SafeCopy) : Keeps z (State.windowClose s h a b) := by
  unfold State.windowClose
  try dsimp only
  repeat' first
    | with_reducible assumption
    | with_reducible apply keeps_setSafHead
    | with_reducible apply keeps_bumpReg
    | with_reducible apply keeps_raiseLater
    | with_reducible apply keeps_raiseDue
    | with_reducible apply keeps_safResult
    | with_reducible apply keeps_clearInit
    | with_reducible apply Keeps.ite
    | with_reducible apply Keeps.iteFst
    | (intro _ _ _)
    | (intro _ _)
    | split
    | with_reducible refine Keeps.mk' ?_ rfl rfl

theorem keeps_windowEnd {z s : State} (hK : Keeps z s) (h : Nat) : Keeps z (State.windowEnd s h) := by
  unfold State.windowEnd
  try dsimp only
  repeat' first
    | with_reducible assumption
    | with_reducible apply keeps_runToTick
    | with_reducible apply keeps_windowClose
    | (intro _ _ _)
    | (intro _ _)
    | split
    | with_reducible refine Keeps.mk' ?_ rfl rfl

theorem keeps_windowLapsed {z s : State} (hK : Keeps z s) (h : Nat) : Keeps z (State.windowLapsed s h) := by
  unfold State.windowLapsed
  try dsimp only
  repeat' first
    | with_reducible assumption
    | with_reducible apply keeps_windowEnd
    | with_reducible apply Keeps.ite
    | (intro _ _ _)
    | (intro _ _)
    | with_reducible refine Keeps.mk' ?_ rfl rfl

theorem keeps_safeReceived {z s : State} (hK : Keeps z s) (a : Arrival) : Keeps z (State.safeReceived s a) := by
  unfold State.safeReceived
  try dsimp only
  repeat' first
    | with_reducible assumption
    | with_reducible apply keeps_sealFail
    | with_reducible apply keeps_raiseDue
    | with_reducible apply keeps_windowLapsed
    | with_reducible apply keeps_setSafHead
    | with_reducible apply keeps_windowClose
    | with_reducible apply Keeps.foldlFst
    | with_reducible apply Keeps.foldl
    | with_reducible apply Keeps.ite
    | (intro _ _ _)
    | (intro _ _)
    | split
    | with_reducible refine Keeps.mk' ?_ rfl rfl

theorem keeps_stoLoss {z s : State} (hK : Keeps z s) : Keeps z (State.stoLoss s) := by
  unfold State.stoLoss
  try dsimp only
  repeat' first
    | with_reducible assumption
    | with_reducible apply keeps_setFlag
    | with_reducible apply keeps_safRefresh
    | with_reducible apply keeps_raise
    | with_reducible apply Keeps.ite
    | (intro _ _ _)
    | (intro _ _)
    | with_reducible refine Keeps.mk' ?_ rfl rfl

theorem keeps_safActive {z s : State} (hK : Keeps z s) (latched : Nat) : Keeps z (State.safActive s latched) := by
  unfold State.safActive
  try dsimp only
  repeat' first
    | with_reducible assumption
    | with_reducible apply keeps_put
    | (intro _ _ _)
    | (intro _ _)
    | with_reducible refine Keeps.mk' ?_ rfl rfl

theorem keeps_safListenEnd {z s : State} (hK : Keeps z s) : Keeps z (State.safListenEnd s) := by
  unfold State.safListenEnd
  try dsimp only
  repeat' first
    | with_reducible assumption
    | with_reducible apply keeps_heard
    | with_reducible apply keeps_safActive
    | with_reducible apply Keeps.ite
    | (intro _ _ _)
    | (intro _ _)
    | with_reducible refine Keeps.mk' ?_ rfl rfl

theorem keeps_safBoundary {z s : State} (hK : Keeps z s) (uncounted : Bool) : Keeps z (State.safBoundary s uncounted) := by
  unfold State.safBoundary
  try dsimp only
  repeat' first
    | with_reducible assumption
    | with_reducible apply keeps_setSafHead
    | with_reducible apply keeps_safActive
    | with_reducible apply keeps_safApply
    | with_reducible apply Keeps.ite
    | (intro _ _ _)
    | (intro _ _)
    | with_reducible refine Keeps.mk' ?_ rfl rfl

theorem keeps_safCntClr {z s : State} (hK : Keeps z s) : Keeps z (State.safCntClr s) := by
  unfold State.safCntClr
  try dsimp only
  repeat' first
    | with_reducible assumption
    | with_reducible apply Keeps.wr
    | (intro _ _ _)
    | (intro _ _)
    | with_reducible refine Keeps.mk' ?_ rfl rfl

end Sys2Proof.Machine
end

