-- ==== Sys2Proof/Laws/KeepEngine.lean ====
section
/-! SUPPORT. Laws/KeepEngine.lean: `Keeps` of the operations of Machine/Engine.lean, Machine/Loader.lean, Machine/Flash.lean, Machine/Balancer.lean, Machine/Power.lean. -/
namespace Sys2Proof.Machine
set_option Elab.async false

theorem keeps_dropTrigger {z s : State} (hK : Keeps z s) (g : Nat) : Keeps z (State.dropTrigger s g) := by
  unfold State.dropTrigger
  try dsimp only
  repeat' first
    | with_reducible assumption
    | with_reducible apply keeps_bump
    | with_reducible apply keeps_raise
    | (intro _ _ _)
    | (intro _ _)
    | with_reducible refine Keeps.mk' ?_ rfl rfl

theorem keeps_eccFound {z s : State} (hK : Keeps z s) (n w : Nat) : Keeps z (State.eccFound s n w) := by
  unfold State.eccFound
  try dsimp only
  repeat' first
    | with_reducible assumption
    | with_reducible apply keeps_setFlag
    | with_reducible apply keeps_wrN
    | with_reducible apply keeps_raiseLater
    | (intro _ _ _)
    | (intro _ _)
    | with_reducible refine Keeps.mk' ?_ rfl rfl

theorem keeps_eccDoom {z s : State} (hK : Keeps z s) (g : Nat) : Keeps z (State.eccDoom s g) := by
  unfold State.eccDoom
  try dsimp only
  repeat' first
    | with_reducible assumption
    | with_reducible apply keeps_eccFound
    | with_reducible apply keeps_raiseDue
    | with_reducible apply keeps_setEngGroup
    | with_reducible apply Keeps.foldlFst
    | with_reducible apply Keeps.foldl
    | with_reducible apply Keeps.ite
    | with_reducible apply Keeps.iteFst
    | (intro _ _ _)
    | (intro _ _)
    | split
    | with_reducible refine Keeps.mk' ?_ rfl rfl

theorem keeps_balTrigger {z s : State} (hK : Keeps z s) (g : Nat) : Keeps z (State.balTrigger s g) := by
  unfold State.balTrigger
  try dsimp only
  repeat' first
    | with_reducible assumption
    | with_reducible apply keeps_setFlag
    | with_reducible apply Keeps.ite
    | (intro _ _ _)
    | (intro _ _)
    | with_reducible refine Keeps.mk' ?_ rfl rfl

theorem keeps_sealCount {z s : State} (hK : Keeps z s) (part : List Nat) : Keeps z (State.sealCount s part) := by
  unfold State.sealCount
  try dsimp only
  repeat' first
    | with_reducible assumption
    | with_reducible apply keeps_bumpReg
    | with_reducible apply Keeps.foldlFst
    | with_reducible apply Keeps.foldl
    | with_reducible apply Keeps.when
    | (intro _ _ _)
    | (intro _ _)
    | with_reducible refine Keeps.mk' ?_ rfl rfl

theorem keeps_groupLatch {z s : State} (hK : Keeps z s) (g t : Nat) : Keeps z (State.groupLatch s g t) := by
  unfold State.groupLatch
  try dsimp only
  repeat' first
    | with_reducible assumption
    | with_reducible apply keeps_setEngSlot
    | with_reducible apply keeps_sealCount
    | with_reducible apply keeps_setEngGroup
    | with_reducible apply Keeps.foldlFst
    | with_reducible apply Keeps.foldl
    | (intro _ _ _)
    | (intro _ _)
    | with_reducible refine Keeps.mk' ?_ rfl rfl

theorem keeps_rgTrigger {z s : State} (hK : Keeps z s) (g : Nat) : Keeps z (State.rgTrigger s g) := by
  unfold State.rgTrigger
  try dsimp only
  repeat' first
    | with_reducible assumption
    | with_reducible apply keeps_setEngGroup
    | with_reducible apply keeps_runToTick
    | with_reducible apply keeps_dropTrigger
    | with_reducible apply keeps_groupLatch
    | with_reducible apply keeps_eccDoom
    | with_reducible apply Keeps.ite
    | (intro _ _ _)
    | (intro _ _)
    | split
    | with_reducible refine Keeps.mk' ?_ rfl rfl

theorem keeps_plmSet {z s : State} (hK : Keeps z s) (n st cntw cntf : Nat) : Keeps z (State.plmSet s n st cntw cntf) := by
  unfold State.plmSet
  try dsimp only
  repeat' first
    | with_reducible assumption
    | with_reducible apply keeps_put
    | (intro _ _ _)
    | (intro _ _)
    | with_reducible refine Keeps.mk' ?_ rfl rfl

theorem keeps_plmReseed {z s : State} (hK : Keeps z s) (n : Nat) : Keeps z (State.plmReseed s n) := by
  unfold State.plmReseed
  try dsimp only
  repeat' first
    | with_reducible assumption
    | with_reducible apply keeps_plmSet
    | (intro _ _ _)
    | (intro _ _)
    | with_reducible refine Keeps.mk' ?_ rfl rfl

theorem keeps_plmRun {z s : State} (hK : Keeps z s) (n bank fb ua : Nat) : Keeps z (State.plmRun s n bank fb ua) := by
  unfold State.plmRun
  try dsimp only
  repeat' first
    | with_reducible assumption
    | with_reducible apply keeps_wrN
    | with_reducible apply keeps_plmSet
    | with_reducible apply keeps_plmReseed
    | with_reducible apply keeps_raiseLater
    | with_reducible apply Keeps.wr
    | with_reducible apply Keeps.ite
    | with_reducible apply Keeps.iteFst
    | (intro _ _ _)
    | (intro _ _)
    | with_reducible refine Keeps.mk' ?_ rfl rfl

theorem keeps_writeDest {z s : State} (hK : Keeps z s) (out : Word) (u : Nat) : Keeps z (State.writeDest s out u) := by
  unfold State.writeDest
  try dsimp only
  repeat' first
    | with_reducible assumption
    | with_reducible apply keeps_outItem
    | with_reducible apply keeps_shadowWrite
    | (intro _ _ _)
    | (intro _ _)
    | split
    | with_reducible refine Keeps.mk' ?_ rfl rfl

theorem keeps_storeEval {z s : State} (hK : Keeps z s) (e : Eval) : Keeps z (State.storeEval s e) := by
  unfold State.storeEval
  try dsimp only
  repeat' first
    | with_reducible assumption
    | with_reducible apply keeps_setEngSlot
    | with_reducible apply keeps_put
    | with_reducible apply keeps_setFlag
    | with_reducible apply keeps_raiseLater
    | with_reducible apply keeps_wrN
    | with_reducible apply Keeps.wr
    | with_reducible apply Keeps.ite
    | (intro _ _ _)
    | (intro _ _)
    | with_reducible refine Keeps.mk' ?_ rfl rfl

theorem keeps_commitContest {z s : State} (hK : Keeps z s) (es : List Eval) (m : Nat) : Keeps z (State.commitContest s es m) := by
  unfold State.commitContest
  try dsimp only
  repeat' first
    | with_reducible assumption
    | with_reducible apply keeps_put
    | with_reducible apply keeps_setFlag
    | with_reducible apply keeps_raiseLater
    | with_reducible apply keeps_wrN
    | with_reducible apply keeps_writeDest
    | with_reducible apply keeps_bump
    | with_reducible apply Keeps.ite
    | (intro _ _ _)
    | (intro _ _)
    | split
    | with_reducible refine Keeps.mk' ?_ rfl rfl

theorem keeps_modelOf {z s : State} (hK : Keeps z s) (before : State) (e : Eval) : Keeps z (State.modelOf s before e) := by
  unfold State.modelOf
  try dsimp only
  repeat' first
    | with_reducible assumption
    | with_reducible apply keeps_plmRun
    | with_reducible apply Keeps.ite
    | (intro _ _ _)
    | (intro _ _)
    | split
    | with_reducible refine Keeps.mk' ?_ rfl rfl

theorem keeps_peekCopy {z s : State} (hK : Keeps z s) (n : Nat) : Keeps z (State.peekCopy s n) := by
  unfold State.peekCopy
  try dsimp only
  repeat' first
    | with_reducible assumption
    | with_reducible apply keeps_eccFound
    | with_reducible apply keeps_raiseDue
    | with_reducible apply keeps_setFlag
    | with_reducible apply Keeps.wr
    | with_reducible apply Keeps.forUpTo
    | with_reducible apply Keeps.ite
    | (intro _ _ _)
    | (intro _ _)
    | split
    | with_reducible refine Keeps.mk' ?_ rfl rfl

theorem keeps_groupIdle {z s : State} (hK : Keeps z s) (g : Nat) : Keeps z (State.groupIdle s g) := by
  unfold State.groupIdle
  try dsimp only
  repeat' first
    | with_reducible assumption
    | with_reducible apply keeps_setEngGroup
    | (intro _ _ _)
    | (intro _ _)
    | with_reducible refine Keeps.mk' ?_ rfl rfl

theorem keeps_commitAt {z s : State} (hK : Keeps z s) (g : Nat) (es : List Eval) : Keeps z (State.commitAt s g es) := by
  unfold State.commitAt
  try dsimp only
  repeat' first
    | with_reducible assumption
    | with_reducible apply keeps_storeEval
    | with_reducible apply keeps_modelOf
    | with_reducible apply keeps_writeDest
    | with_reducible apply keeps_commitContest
    | with_reducible apply keeps_raiseDue
    | with_reducible apply keeps_put
    | with_reducible apply keeps_groupIdle
    | with_reducible apply keeps_balTrigger
    | with_reducible apply keeps_peekCopy
    | with_reducible apply Keeps.foldlFst
    | with_reducible apply Keeps.foldl
    | with_reducible apply Keeps.ite
    | (intro _ _ _)
    | (intro _ _)
    | split
    | with_reducible refine Keeps.mk' ?_ rfl rfl

theorem keeps_groupMiss {z s : State} (hK : Keeps z s) (g : Nat) : Keeps z (State.groupMiss s g) := by
  unfold State.groupMiss
  try dsimp only
  repeat' first
    | with_reducible assumption
    | with_reducible apply keeps_runToTick
    | with_reducible apply keeps_setFlag
    | with_reducible apply keeps_bump
    | with_reducible apply keeps_put
    | with_reducible apply keeps_groupIdle
    | with_reducible apply keeps_raise
    | with_reducible apply keeps_balTrigger
    | with_reducible apply keeps_outItem
    | with_reducible apply Keeps.wr
    | with_reducible apply Keeps.foldlFst
    | with_reducible apply Keeps.foldl
    | with_reducible apply Keeps.ite
    | (intro _ _ _)
    | (intro _ _)
    | split
    | with_reducible refine Keeps.mk' ?_ rfl rfl

theorem keeps_groupCommit {z s : State} (hK : Keeps z s) (g : Nat) : Keeps z (State.groupCommit s g) := by
  unfold State.groupCommit
  try dsimp only
  repeat' first
    | with_reducible assumption
    | with_reducible apply keeps_eccDoom
    | with_reducible apply keeps_groupMiss
    | with_reducible apply keeps_runToTick
    | with_reducible apply keeps_commitAt
    | with_reducible apply Keeps.ite
    | (intro _ _ _)
    | (intro _ _)
    | split
    | with_reducible refine Keeps.mk' ?_ rfl rfl

theorem keeps_swapGo {z s : State} (hK : Keeps z s) (next : Bool) : Keeps z (State.swapGo s next) := by
  unfold State.swapGo
  try dsimp only
  repeat' first
    | with_reducible assumption
    | with_reducible apply keeps_setFlag
    | with_reducible apply keeps_put
    | with_reducible apply Keeps.ite
    | (intro _ _ _)
    | (intro _ _)
    | with_reducible refine Keeps.mk' ?_ rfl rfl

theorem keeps_swapCancel {z s : State} (hK : Keeps z s) : Keeps z (State.swapCancel s) := by
  unfold State.swapCancel
  try dsimp only
  repeat' first
    | with_reducible assumption
    | with_reducible apply keeps_put
    | with_reducible apply Keeps.ite
    | (intro _ _ _)
    | (intro _ _)
    | with_reducible refine Keeps.mk' ?_ rfl rfl

theorem keeps_swapSlot {z s : State} (hK : Keeps z s) (n : Nat) : Keeps z (State.swapSlot s n).1 := by
  unfold State.swapSlot
  try dsimp only
  repeat' first
    | with_reducible assumption
    | with_reducible apply keeps_eccFound
    | with_reducible apply keeps_raiseDue
    | with_reducible apply keeps_put
    | with_reducible apply keeps_setFlag
    | with_reducible apply keeps_setEngSlot
    | with_reducible apply keeps_raise
    | with_reducible apply Keeps.ite
    | with_reducible apply Keeps.iteFst
    | (intro _ _ _)
    | (intro _ _)
    | split
    | with_reducible refine Keeps.mk' ?_ rfl rfl

theorem keeps_swapSlots {z s : State} (hK : Keeps z s) (armed : List Nat) : Keeps z (State.swapSlots s armed).1 := by
  unfold State.swapSlots
  try dsimp only
  repeat' first
    | with_reducible assumption
    | with_reducible apply keeps_swapSlot
    | with_reducible apply Keeps.foldlFst
    | with_reducible apply Keeps.foldl
    | with_reducible apply Keeps.ite
    | with_reducible apply Keeps.iteFst
    | (intro _ _ _)
    | (intro _ _)
    | with_reducible refine Keeps.mk' ?_ rfl rfl

theorem keeps_swapAtBoundary {z s : State} (hK : Keeps z s) : Keeps z (State.swapAtBoundary s) := by
  unfold State.swapAtBoundary
  try dsimp only
  repeat' first
    | with_reducible assumption
    | with_reducible apply keeps_swapSlots
    | with_reducible apply keeps_put
    | with_reducible apply Keeps.wr
    | with_reducible apply Keeps.ite
    | with_reducible apply Keeps.iteFst
    | (intro _ _ _)
    | (intro _ _)
    | with_reducible refine Keeps.mk' ?_ rfl rfl

theorem keeps_actWr {z s : State} (hK : Keeps z s) : Keeps z (State.actWr s) := by
  unfold State.actWr
  try dsimp only
  repeat' first
    | with_reducible assumption
    | with_reducible apply keeps_setFlag
    | (intro _ _ _)
    | (intro _ _)
    | with_reducible refine Keeps.mk' ?_ rfl rfl

theorem keeps_bankWrite {z s : State} (hK : Keeps z s) (n b a : Nat) (v : Word) : Keeps z (State.bankWrite s n b a v) := by
  unfold State.bankWrite
  try dsimp only
  repeat' first
    | with_reducible assumption
    | with_reducible apply keeps_actWr
    | with_reducible apply Keeps.wr
    | with_reducible apply Keeps.ite
    | (intro _ _ _)
    | (intro _ _)
    | split
    | with_reducible refine Keeps.mk' ?_ rfl rfl

theorem keeps_cfgWrite {z s : State} (hK : Keeps z s) (n : Nat) (v : Word) : Keeps z (State.cfgWrite s n v) := by
  unfold State.cfgWrite
  try dsimp only
  repeat' first
    | with_reducible assumption
    | with_reducible apply keeps_actWr
    | with_reducible apply keeps_setFlag
    | with_reducible apply keeps_plmReseed
    | with_reducible apply Keeps.wr
    | with_reducible apply Keeps.ite
    | (intro _ _ _)
    | (intro _ _)
    | with_reducible refine Keeps.mk' ?_ rfl rfl

theorem keeps_plm0Write {z s : State} (hK : Keeps z s) (n : Nat) (v : Word) : Keeps z (State.plm0Write s n v) := by
  unfold State.plm0Write
  try dsimp only
  repeat' first
    | with_reducible assumption
    | with_reducible apply keeps_actWr
    | with_reducible apply keeps_setFlag
    | with_reducible apply keeps_plmReseed
    | with_reducible apply Keeps.wr
    | with_reducible apply Keeps.ite
    | (intro _ _ _)
    | (intro _ _)
    | with_reducible refine Keeps.mk' ?_ rfl rfl

theorem keeps_slotWrite {z s : State} (hK : Keeps z s) (n w : Nat) (v : Word) : Keeps z (State.slotWrite s n w v) := by
  unfold State.slotWrite
  try dsimp only
  repeat' first
    | with_reducible assumption
    | with_reducible apply keeps_bankWrite
    | with_reducible apply keeps_actWr
    | with_reducible apply keeps_cfgWrite
    | with_reducible apply keeps_plm0Write
    | with_reducible apply Keeps.wr
    | with_reducible apply Keeps.ite
    | (intro _ _ _)
    | (intro _ _)
    | with_reducible refine Keeps.mk' ?_ rfl rfl

theorem keeps_peekRequest {z s : State} (hK : Keeps z s) (n : Nat) : Keeps z (State.peekRequest s n) := by
  unfold State.peekRequest
  try dsimp only
  repeat' first
    | with_reducible assumption
    | with_reducible apply keeps_put
    | with_reducible apply keeps_setFlag
    | with_reducible apply keeps_peekCopy
    | with_reducible apply Keeps.ite
    | (intro _ _ _)
    | (intro _ _)
    | with_reducible refine Keeps.mk' ?_ rfl rfl

theorem keeps_ceCntClr {z s : State} (hK : Keeps z s) : Keeps z (State.ceCntClr s) := by
  unfold State.ceCntClr
  try dsimp only
  repeat' first
    | with_reducible assumption
    | with_reducible apply keeps_put
    | with_reducible apply Keeps.wr
    | with_reducible apply Keeps.forUpTo
    | (intro _ _ _)
    | (intro _ _)
    | with_reducible refine Keeps.mk' ?_ rfl rfl

theorem keeps_publishDerating {z s : State} (hK : Keeps z s) : Keeps z (State.publishDerating s) := by
  unfold State.publishDerating
  try dsimp only
  repeat' first
    | with_reducible assumption
    | with_reducible apply keeps_setResult
    | with_reducible apply Keeps.forUpTo
    | (intro _ _ _)
    | (intro _ _)
    | split
    | with_reducible refine Keeps.mk' ?_ rfl rfl

theorem keeps_ckoLoaded {z s : State} (hK : Keeps z s) (a : Nat) : Keeps z (State.ckoLoaded s a) := by
  unfold State.ckoLoaded
  try dsimp only
  repeat' first
    | with_reducible assumption
    | with_reducible apply keeps_ckoWritten
    | with_reducible apply Keeps.forUpTo
    | with_reducible apply Keeps.when
    | (intro _ _ _)
    | (intro _ _)
    | with_reducible refine Keeps.mk' ?_ rfl rfl

theorem keepsO_loadWord {z s : State} (hK : Keeps z s) (a : Nat) (w : Word) : KeepsO z (s.loadWord a w) := by
  unfold State.loadWord
  split
  · exact KeepsO.some hK
  · exact KeepsO.ite (KeepsO.some (keeps_ckoLoaded (hK.wr _ _) _)) KeepsO.none

theorem keepsO_loadAll {z s : State} (hK : Keeps z s) (l : List (Nat × Word)) : KeepsO z (s.loadAll l) := by
  induction l generalizing s with
  | nil => exact KeepsO.some hK
  | cons e t ih =>
    unfold State.loadAll
    split
    · next s1 h => exact ih (keepsO_loadWord hK _ _ s1 h)
    · exact KeepsO.none

theorem keepsO_loadImage {z s : State} (hK : Keeps z s) (cfg : List (Nat × Word)) : KeepsO z (s.loadImage cfg) := by
  unfold State.loadImage
  split
  · next t h => exact KeepsO.ite (KeepsO.some (keepsO_loadAll hK cfg t h)) KeepsO.none
  · exact KeepsO.none

theorem keeps_setBalCell {z s : State} (hK : Keeps z s) (k i : Nat) (c : BalCell) : Keeps z (State.setBalCell s k i c) := by
  unfold State.setBalCell
  try dsimp only
  repeat' first
    | with_reducible assumption
    | (intro _ _ _)
    | (intro _ _)
    | with_reducible refine Keeps.mk' ?_ rfl rfl

theorem keeps_setBalStk {z s : State} (hK : Keeps z s) (k : Nat) (c : BalStk) : Keeps z (State.setBalStk s k c) := by
  unfold State.setBalStk
  try dsimp only
  repeat' first
    | with_reducible assumption
    | (intro _ _ _)
    | (intro _ _)
    | with_reducible refine Keeps.mk' ?_ rfl rfl

theorem keeps_balRaise {z s : State} (hK : Keeps z s) (r : Raise) : Keeps z (State.balRaise s r) := by
  unfold State.balRaise
  try dsimp only
  repeat' first
    | with_reducible assumption
    | with_reducible apply keeps_raiseLater
    | with_reducible apply Keeps.ite
    | (intro _ _ _)
    | (intro _ _)
    | with_reducible refine Keeps.mk' ?_ rfl rfl

theorem keeps_balBypass {z s : State} (hK : Keeps z s) (k i pos reason : Nat) : Keeps z (State.balBypass s k i pos reason) := by
  unfold State.balBypass
  try dsimp only
  repeat' first
    | with_reducible assumption
    | with_reducible apply keeps_put
    | with_reducible apply keeps_setBalCell
    | with_reducible apply keeps_balRaise
    | with_reducible apply Keeps.ite
    | (intro _ _ _)
    | (intro _ _)
    | with_reducible refine Keeps.mk' ?_ rfl rfl

theorem keeps_balEnter {z s : State} (hK : Keeps z s) (k i : Nat) (held : Bool) : Keeps z (State.balEnter s k i held) := by
  unfold State.balEnter
  try dsimp only
  repeat' first
    | with_reducible assumption
    | with_reducible apply keeps_put
    | with_reducible apply Keeps.ite
    | (intro _ _ _)
    | (intro _ _)
    | with_reducible refine Keeps.mk' ?_ rfl rfl

theorem keeps_balSecs {z s : State} (hK : Keeps z s) : Keeps z (State.balSecs s) := by
  unfold State.balSecs
  try dsimp only
  repeat' first
    | with_reducible assumption
    | with_reducible apply Keeps.foldlFst
    | with_reducible apply Keeps.foldl
    | with_reducible apply Keeps.ite
    | (intro _ _ _)
    | (intro _ _)
    | with_reducible refine Keeps.mk' ?_ rfl rfl

theorem keeps_balInput {z s : State} (hK : Keeps z s) (k i pos : Nat) : Keeps z (State.balInput s k i pos) := by
  unfold State.balInput
  try dsimp only
  repeat' first
    | with_reducible assumption
    | with_reducible apply keeps_setBalCell
    | with_reducible apply keeps_put
    | with_reducible apply keeps_balBypass
    | with_reducible apply keeps_balRaise
    | with_reducible apply Keeps.ite
    | (intro _ _ _)
    | (intro _ _)
    | split
    | with_reducible refine Keeps.mk' ?_ rfl rfl

theorem keeps_balReqEnd {z s : State} (hK : Keeps z s) (state err : Nat) : Keeps z (State.balReqEnd s state err) := by
  unfold State.balReqEnd
  try dsimp only
  repeat' first
    | with_reducible assumption
    | with_reducible apply keeps_put
    | with_reducible apply Keeps.ite
    | (intro _ _ _)
    | (intro _ _)
    | with_reducible refine Keeps.mk' ?_ rfl rfl

theorem keeps_balJoin {z s : State} (hK : Keeps z s) : Keeps z (State.balJoin s) := by
  unfold State.balJoin
  try dsimp only
  repeat' first
    | with_reducible assumption
    | with_reducible apply keeps_put
    | with_reducible apply keeps_setBalCell
    | with_reducible apply Keeps.ite
    | (intro _ _ _)
    | (intro _ _)
    | split
    | with_reducible refine Keeps.mk' ?_ rfl rfl

theorem keeps_balRequestRun {z s : State} (hK : Keeps z s) (b : Word) (locked : Bool) : Keeps z (State.balRequestRun s b locked).1 := by
  unfold State.balRequestRun
  try dsimp only
  repeat' first
    | with_reducible assumption
    | with_reducible apply keeps_balReqEnd
    | with_reducible apply keeps_balBypass
    | with_reducible apply keeps_balEnter
    | with_reducible apply keeps_put
    | with_reducible apply Keeps.ite
    | with_reducible apply Keeps.iteFst
    | (intro _ _ _)
    | (intro _ _)
    | split
    | with_reducible refine Keeps.mk' ?_ rfl rfl

theorem keeps_balRanks {z s : State} (hK : Keeps z s) (k : Nat) (es : List (Nat × Nat)) : Keeps z (State.balRanks s k es) := by
  unfold State.balRanks
  try dsimp only
  repeat' first
    | with_reducible assumption
    | with_reducible apply keeps_put
    | with_reducible apply keeps_wrN
    | with_reducible apply Keeps.foldlFst
    | with_reducible apply Keeps.foldl
    | (intro _ _ _)
    | (intro _ _)
    | split
    | with_reducible refine Keeps.mk' ?_ rfl rfl

theorem keeps_balSigma {z s : State} (hK : Keeps z s) (k : Nat) : Keeps z (State.balSigma s k) := by
  unfold State.balSigma
  try dsimp only
  repeat' first
    | with_reducible assumption
    | with_reducible apply keeps_setFlag
    | with_reducible apply Keeps.ite
    | (intro _ _ _)
    | (intro _ _)
    | with_reducible refine Keeps.mk' ?_ rfl rfl

theorem keeps_balOne {z s : State} (hK : Keeps z s) (k : Nat) (r : BalRun) (fresh : List Nat) (es : List (Nat × Nat)) (j i : Nat) : Keeps z (State.balOne s k r fresh es j i).1 := by
  unfold State.balOne
  try dsimp only
  repeat' first
    | with_reducible assumption
    | with_reducible apply keeps_wrN
    | with_reducible apply Keeps.ite
    | with_reducible apply Keeps.iteFst
    | (intro _ _ _)
    | (intro _ _)
    | split
    | with_reducible refine Keeps.mk' ?_ rfl rfl

theorem keeps_balEach {z s : State} (hK : Keeps z s) (k : Nat) (r : BalRun) (fresh : List Nat) (es : List (Nat × Nat)) : Keeps z (State.balEach s k r fresh es).1 := by
  unfold State.balEach
  try dsimp only
  repeat' first
    | with_reducible assumption
    | with_reducible apply keeps_balOne
    | with_reducible apply Keeps.foldlFst
    | with_reducible apply Keeps.foldl
    | (intro _ _ _)
    | (intro _ _)
    | with_reducible refine Keeps.mk' ?_ rfl rfl

theorem keeps_balFinish {z s1 : State} (hK : Keeps z s1) (s : State) (k : Nat) (r : BalRun) (sat resp : Bool) : Keeps z (State.balFinish s1 s k r sat resp) := by
  unfold State.balFinish
  try dsimp only
  repeat' first
    | with_reducible assumption
    | with_reducible apply keeps_setBalStk
    | with_reducible apply keeps_wrN
    | with_reducible apply keeps_setFlag
    | with_reducible apply keeps_put
    | with_reducible apply keeps_balRaise
    | with_reducible apply Keeps.ite
    | with_reducible apply Keeps.iteFst
    | (intro _ _ _)
    | (intro _ _)
    | with_reducible refine Keeps.mk' ?_ rfl rfl

theorem keeps_balStack {z s : State} (hK : Keeps z s) (k : Nat) (fresh : List Nat) : Keeps z (State.balStack s k fresh) := by
  unfold State.balStack
  try dsimp only
  repeat' first
    | with_reducible assumption
    | with_reducible apply keeps_balRanks
    | with_reducible apply keeps_balSigma
    | with_reducible apply keeps_balEach
    | with_reducible apply keeps_balFinish
    | with_reducible apply Keeps.foldlFst
    | with_reducible apply Keeps.foldl
    | with_reducible apply Keeps.ite
    | with_reducible apply Keeps.iteFst
    | (intro _ _ _)
    | (intro _ _)
    | with_reducible refine Keeps.mk' ?_ rfl rfl

theorem keeps_balFull {z s : State} (hK : Keeps z s) (unlocked : List Nat) : Keeps z (State.balFull s unlocked) := by
  unfold State.balFull
  try dsimp only
  repeat' first
    | with_reducible assumption
    | with_reducible apply keeps_setFlag
    | with_reducible apply keeps_setBalStk
    | with_reducible apply keeps_put
    | with_reducible apply keeps_setBalCell
    | with_reducible apply keeps_balEnter
    | with_reducible apply keeps_balBypass
    | with_reducible apply keeps_wrN
    | with_reducible apply Keeps.foldlFst
    | with_reducible apply Keeps.foldl
    | with_reducible apply Keeps.ite
    | with_reducible apply Keeps.iteFst
    | (intro _ _ _)
    | (intro _ _)
    | with_reducible refine Keeps.mk' ?_ rfl rfl

theorem keeps_balancerCommit {z s : State} (hK : Keeps z s) (locked : Bool) : Keeps z (State.balancerCommit s locked) := by
  unfold State.balancerCommit
  try dsimp only
  repeat' first
    | with_reducible assumption
    | with_reducible apply keeps_put
    | with_reducible apply keeps_setFlag
    | with_reducible apply keeps_balSecs
    | with_reducible apply keeps_balJoin
    | with_reducible apply keeps_balInput
    | with_reducible apply keeps_balRequestRun
    | with_reducible apply keeps_balStack
    | with_reducible apply keeps_raiseDue
    | with_reducible apply keeps_outItem
    | with_reducible apply Keeps.foldlFst
    | with_reducible apply Keeps.foldl
    | with_reducible apply Keeps.ite
    | with_reducible apply Keeps.iteFst
    | (intro _ _ _)
    | (intro _ _)
    | split
    | with_reducible refine Keeps.mk' ?_ rfl rfl

theorem keeps_balLate {z s : State} (hK : Keeps z s) : Keeps z (State.balLate s) := by
  unfold State.balLate
  try dsimp only
  repeat' first
    | with_reducible assumption
    | with_reducible apply keeps_outItem
    | with_reducible apply keeps_setFlag
    | with_reducible apply keeps_put
    | with_reducible apply keeps_raise
    | with_reducible apply Keeps.foldlFst
    | with_reducible apply Keeps.foldl
    | with_reducible apply Keeps.ite
    | with_reducible apply Keeps.iteFst
    | (intro _ _ _)
    | (intro _ _)
    | with_reducible refine Keeps.mk' ?_ rfl rfl

theorem keeps_balPlace {z s : State} (hK : Keeps z s) (op pos : Nat) (b : Word) : Keeps z (State.balPlace s op pos b) := by
  unfold State.balPlace
  try dsimp only
  repeat' first
    | with_reducible assumption
    | with_reducible apply keeps_put
    | with_reducible apply Keeps.ite
    | (intro _ _ _)
    | (intro _ _)
    | split
    | with_reducible refine Keeps.mk' ?_ rfl rfl

theorem keeps_balReqWrite {z s : State} (hK : Keeps z s) (v : Nat) : Keeps z (State.balReqWrite s v) := by
  unfold State.balReqWrite
  try dsimp only
  repeat' first
    | with_reducible assumption
    | with_reducible apply keeps_put
    | with_reducible apply keeps_balPlace
    | with_reducible apply Keeps.ite
    | (intro _ _ _)
    | (intro _ _)
    | with_reducible refine Keeps.mk' ?_ rfl rfl

theorem keeps_balPhase {z s : State} (hK : Keeps z s) (n : Nat) (phi : Nat) : Keeps z (State.balPhase s n phi) := by
  unfold State.balPhase
  try dsimp only
  repeat' first
    | with_reducible assumption
    | with_reducible apply keeps_shadowWrite
    | (intro _ _ _)
    | (intro _ _)
    | with_reducible refine Keeps.mk' ?_ rfl rfl

theorem keeps_balMember {z s : State} (hK : Keeps z s) : Keeps z (State.balMember s) := by
  unfold State.balMember
  try dsimp only
  repeat' first
    | with_reducible assumption
    | with_reducible apply keeps_balPhase
    | with_reducible apply keeps_legRefresh
    | with_reducible apply Keeps.wr
    | with_reducible apply Keeps.foldlFst
    | with_reducible apply Keeps.foldl
    | with_reducible apply Keeps.ite
    | (intro _ _ _)
    | (intro _ _)
    | split
    | with_reducible refine Keeps.mk' ?_ rfl rfl

theorem keeps_updPart {z s : State} (hK : Keeps z s) (c : UpdCmd) (n : Nat) : Keeps z (State.updPart s c n) := by
  unfold State.updPart
  try dsimp only
  repeat' first
    | with_reducible assumption
    | (intro _ _ _)
    | (intro _ _)
    | split
    | with_reducible refine Keeps.mk' ?_ rfl rfl

theorem keeps_updStop {z s : State} (hK : Keeps z s) : Keeps z (State.updStop s) := by
  unfold State.updStop
  try dsimp only
  repeat' first
    | with_reducible assumption
    | with_reducible apply keeps_updPart
    | with_reducible apply Keeps.useFree
    | (intro _ _ _)
    | (intro _ _)
    | split
    | with_reducible refine Keeps.mk' ?_ rfl rfl

theorem keeps_resetNode {z s : State} (hK : Keeps z s) (pg : Bool) : Keeps z (s.resetNode false pg) := by
  unfold State.resetNode
  extract_lets u cause base s1
  have hb : Keeps z base := (keeps_updStop hK).trans
    ⟨fun h => Sparse.wf_filter _ _ h, fun _ => rfl, rfl, List.prefix_refl _, Nat.le_refl _, fun h => by simp [base, u, h], rfl⟩
  exact Keeps.wr (keeps_setFlag hb _ _) _ _

theorem keeps_release {z s : State} (hK : Keeps z s) (straps : Nat) (dbgsel : Bool) : Keeps z (State.release s straps dbgsel) := by
  unfold State.release
  try dsimp only
  repeat' first
    | with_reducible assumption
    | with_reducible apply keeps_put
    | with_reducible apply keeps_setFlag
    | with_reducible apply keeps_logScan
    | with_reducible apply keeps_wrN
    | with_reducible apply keeps_logRefresh
    | with_reducible apply keeps_toStage
    | with_reducible apply keeps_lanesBoot
    | with_reducible apply Keeps.ite
    | (intro _ _ _)
    | (intro _ _)
    | with_reducible refine Keeps.mk' ?_ rfl rfl

theorem keeps_tamperPulse {z s : State} (hK : Keeps z s) (returned : Bool) : Keeps z (State.tamperPulse s returned) := by
  unfold State.tamperPulse
  try dsimp only
  repeat' first
    | with_reducible assumption
    | with_reducible apply keeps_setFlag
    | with_reducible apply keeps_logEvent
    | with_reducible apply keeps_raise
    | with_reducible apply Keeps.ite
    | (intro _ _ _)
    | (intro _ _)
    | with_reducible refine Keeps.mk' ?_ rfl rfl

theorem keeps_rootStart {z s : State} (hK : Keeps z s) : Keeps z (State.rootStart s) := by
  unfold State.rootStart
  try dsimp only
  repeat' first
    | with_reducible assumption
    | with_reducible apply keeps_setRoot
    | with_reducible apply Keeps.ite
    | (intro _ _ _)
    | (intro _ _)
    | with_reducible refine Keeps.mk' ?_ rfl rfl

theorem keeps_lockDeclared {z s : State} (hK : Keeps z s) : Keeps z (State.lockDeclared s) := by
  unfold State.lockDeclared
  try dsimp only
  repeat' first
    | with_reducible assumption
    | with_reducible apply keeps_put
    | with_reducible apply keeps_setRoot
    | with_reducible apply Keeps.useFree
    | with_reducible apply Keeps.ite
    | (intro _ _ _)
    | (intro _ _)
    | with_reducible refine Keeps.mk' ?_ rfl rfl

theorem keeps_lossOfRefin {z s : State} (hK : Keeps z s) : Keeps z (State.lossOfRefin s) := by
  unfold State.lossOfRefin
  try dsimp only
  repeat' first
    | with_reducible assumption
    | with_reducible apply keeps_reacquire
    | with_reducible apply keeps_setRoot
    | with_reducible apply keeps_raise
    | with_reducible apply Keeps.ite
    | (intro _ _ _)
    | (intro _ _)
    | with_reducible refine Keeps.mk' ?_ rfl rfl

theorem keeps_reacquire {z s : State} (hK : Keeps z s) (ppm : Frac) : Keeps z (State.reacquire s ppm) := by
  unfold State.reacquire
  try dsimp only
  repeat' first
    | with_reducible assumption
    | with_reducible apply keeps_setRoot
    | (intro _ _ _)
    | (intro _ _)
    | with_reducible refine Keeps.mk' ?_ rfl rfl

theorem keeps_refinReturn {z s : State} (hK : Keeps z s) (mppm : Int) : Keeps z (State.refinReturn s mppm) := by
  unfold State.refinReturn
  try dsimp only
  repeat' first
    | with_reducible assumption
    | with_reducible apply keeps_reacquire
    | with_reducible apply keeps_rootStart
    | with_reducible apply Keeps.when
    | with_reducible apply Keeps.ite
    | (intro _ _ _)
    | (intro _ _)
    | with_reducible refine Keeps.mk' ?_ rfl rfl

theorem keeps_reacquired {z s : State} (hK : Keeps z s) : Keeps z (State.reacquired s) := by
  unfold State.reacquired
  try dsimp only
  repeat' first
    | with_reducible assumption
    | with_reducible apply keeps_reacquire
    | with_reducible apply keeps_runTicks
    | with_reducible apply keeps_setRoot
    | with_reducible apply Keeps.when
    | (intro _ _ _)
    | (intro _ _)
    | with_reducible refine Keeps.mk' ?_ rfl rfl

theorem keeps_lossOfLock {z s : State} (hK : Keeps z s) : Keeps z (State.lossOfLock s) := by
  unfold State.lossOfLock
  try dsimp only
  repeat' first
    | with_reducible assumption
    | with_reducible apply keeps_reacquire
    | with_reducible apply keeps_setRoot
    | with_reducible apply keeps_loseTimebase
    | with_reducible apply keeps_raise
    | with_reducible apply keeps_leaveService
    | with_reducible apply Keeps.ite
    | (intro _ _ _)
    | (intro _ _)
    | with_reducible refine Keeps.mk' ?_ rfl rfl

theorem keeps_holdMax {z s : State} (hK : Keeps z s) : Keeps z (State.holdMax s) := by
  unfold State.holdMax
  try dsimp only
  repeat' first
    | with_reducible assumption
    | with_reducible apply keeps_runUp
    | with_reducible apply keeps_raise
    | with_reducible apply keeps_holdOut
    | with_reducible apply Keeps.ite
    | (intro _ _ _)
    | (intro _ _)
    | split
    | with_reducible refine Keeps.mk' ?_ rfl rfl

theorem keeps_refWaitStart {z s : State} (hK : Keeps z s) : Keeps z (State.refWaitStart s) := by
  unfold State.refWaitStart
  try dsimp only
  repeat' first
    | with_reducible assumption
    | with_reducible apply keeps_setRoot
    | with_reducible apply keeps_setFlag
    | with_reducible apply Keeps.ite
    | (intro _ _ _)
    | (intro _ _)
    | with_reducible refine Keeps.mk' ?_ rfl rfl

theorem keeps_refWaitEnd {z s : State} (hK : Keeps z s) : Keeps z (State.refWaitEnd s) := by
  unfold State.refWaitEnd
  try dsimp only
  repeat' first
    | with_reducible assumption
    | with_reducible apply keeps_runUp
    | with_reducible apply keeps_setFlag
    | with_reducible apply keeps_slewTarget
    | with_reducible apply keeps_rootSearch
    | (intro _ _ _)
    | (intro _ _)
    | split
    | with_reducible refine Keeps.mk' ?_ rfl rfl

theorem keeps_takeSource {z s : State} (hK : Keeps z s) : Keeps z (State.takeSource s) := by
  unfold State.takeSource
  try dsimp only
  repeat' first
    | with_reducible assumption
    | with_reducible apply keeps_setFlag
    | with_reducible apply keeps_slewTarget
    | with_reducible apply keeps_reacquire
    | with_reducible apply Keeps.useFree
    | with_reducible apply Keeps.ite
    | (intro _ _ _)
    | (intro _ _)
    | with_reducible refine Keeps.mk' ?_ rfl rfl

theorem keeps_rstCtrlWrite {z s : State} (hK : Keeps z s) (m : Master) (v : Nat) : Keeps z (State.rstCtrlWrite s m v) := by
  unfold State.rstCtrlWrite
  try dsimp only
  repeat' first
    | with_reducible assumption
    | with_reducible apply keeps_violation
    | with_reducible apply Keeps.ite
    | (intro _ _ _)
    | (intro _ _)
    | with_reducible refine Keeps.mk' ?_ rfl rfl

theorem keeps_softReset {z s : State} (hK : Keeps z s) : Keeps z (State.softReset s) := by
  unfold State.softReset
  try dsimp only
  repeat' first
    | with_reducible assumption
    | with_reducible apply keeps_resetNode
    | with_reducible apply keeps_setFlag
    | (intro _ _ _)
    | (intro _ _)
    | with_reducible refine Keeps.mk' ?_ rfl rfl

end Sys2Proof.Machine
end

