-- ==== Sys2Proof/Machine/Pins.lean ====
section
/-! DEFINITION. Machine/Pins.lean: the levels that the node drives on its lands as functions of its state (R65, R70, R94,
R475); the time-pulse lands are in Machine/StationTime.lean (R207), the clock outputs' enable in Machine/Power.lean (R87). -/
namespace Sys2Proof.Machine

/-- FLTO_T and FLTO_C: (0, 1) is the fault state (R70, R475). -/
def State.fltoPins (s : State) : Bool × Bool :=
  let bad := s.sys.inReset || s.flag F.FLT_STAT_FLTO
  (!bad, bad)

/-- The lands of a clock output that does not run are both held low (R70, R87). -/
def State.ckoHeldLow (s : State) (n : Nat) : Bool := !s.ckoOn n

/-- A lane sends something: never in reset (R70), nor in OFF, CHILL or PLLWAIT (R135). -/
def State.laneSends (s : State) (p l : Nat) : Bool := !s.sys.inReset && Nat.ble Lane.cdr (s.laneState p l)

/-- A flash command may be under way: the fetch and the readback of an update (R92, R94, R115). -/
def State.flashBusy (s : State) : Bool := !s.sys.inReset && (s.stage == Stage.fetch || s.img.upd.isSome)

/-- FSPI_CS_N is held high: no flash command may be under way (R94). -/
def State.fspiCsHigh (s : State) : Bool := !s.flashBusy

/-- The clamp of R65 holds every gate output off: in reset, with a rail down, and until the lattice takes the outputs. -/
def State.gatesClamped (s : State) : Bool := s.sys.inReset || !s.sys.powerGood || s.pwm.held

end Sys2Proof.Machine
end

