-- ==== Sys2Proof/Laws/KeepStation.lean ====
section
/-! SUPPORT. Laws/KeepStation.lean: `Keeps` of the operations of Machine/Image.lean, Machine/StationTime.lean, Machine/Pins.lean, Machine/Collector.lean, Machine/Glaze.lean, Machine/Duplex.lean. -/
namespace Sys2Proof.Machine
set_option Elab.async false

theorem keeps_slotShow {z s : State} (hK : Keeps z s) (i : Nat) : Keeps z (State.slotShow s i) := by
  unfold State.slotShow
  try dsimp only
  repeat' first
    | with_reducible assumption
    | with_reducible apply keeps_put
    | (intro _ _ _)
    | (intro _ _)
    | with_reducible refine Keeps.mk' ?_ rfl rfl

theorem keeps_setSlotSt {z s : State} (hK : Keeps z s) (i : Nat) (st : SlotState) : Keeps z (State.setSlotSt s i st) := by
  unfold State.setSlotSt
  try dsimp only
  repeat' first
    | with_reducible assumption
    | with_reducible apply keeps_slotShow
    | (intro _ _ _)
    | (intro _ _)
    | with_reducible refine Keeps.mk' ?_ rfl rfl

theorem keeps_fuseKey {z s : State} (hK : Keeps z s) (i : Nat) (d : BitVec 256) : Keeps z (State.fuseKey s i d) := by
  unfold State.fuseKey
  try dsimp only
  repeat' first
    | with_reducible assumption
    | with_reducible apply keeps_put
    | with_reducible apply Keeps.wr
    | with_reducible apply Keeps.forUpTo
    | (intro _ _ _)
    | (intro _ _)
    | split
    | with_reducible refine Keeps.mk' ?_ rfl rfl

theorem keeps_unbind {z s : State} (hK : Keeps z s) (stage : Nat) : Keeps z (State.unbind s stage) := by
  unfold State.unbind
  try dsimp only
  repeat' first
    | with_reducible assumption
    | with_reducible apply keeps_toStage
    | with_reducible apply keeps_raise
    | with_reducible apply keeps_lanesBoot
    | (intro _ _ _)
    | (intro _ _)
    | with_reducible refine Keeps.mk' ?_ rfl rfl

theorem keeps_fetchStart {z s : State} (hK : Keeps z s) : Keeps z (State.fetchStart s) := by
  unfold State.fetchStart
  try dsimp only
  repeat' first
    | with_reducible assumption
    | with_reducible apply keeps_toStage
    | (intro _ _ _)
    | (intro _ _)
    | with_reducible refine Keeps.mk' ?_ rfl rfl

theorem keeps_loadFail {z s : State} (hK : Keeps z s) (err sect : Nat) : Keeps z (State.loadFail s err sect) := by
  unfold State.loadFail
  try dsimp only
  repeat' first
    | with_reducible assumption
    | with_reducible apply keeps_setSlotSt
    | with_reducible apply keeps_put
    | with_reducible apply keeps_fetchStart
    | with_reducible apply keeps_unbind
    | with_reducible apply Keeps.ite
    | (intro _ _ _)
    | (intro _ _)
    | with_reducible refine Keeps.mk' ?_ rfl rfl

theorem keeps_slotSelect {z s : State} (hK : Keeps z s) : Keeps z (State.slotSelect s) := by
  unfold State.slotSelect
  try dsimp only
  repeat' first
    | with_reducible assumption
    | with_reducible apply keeps_setSlotSt
    | with_reducible apply keeps_put
    | with_reducible apply keeps_fetchStart
    | with_reducible apply keeps_unbind
    | with_reducible apply Keeps.ite
    | (intro _ _ _)
    | (intro _ _)
    | with_reducible refine Keeps.mk' ?_ rfl rfl

theorem keeps_sramInitDone {z s : State} (hK : Keeps z s) (chip : Option FlashChip) : Keeps z (State.sramInitDone s chip) := by
  unfold State.sramInitDone
  try dsimp only
  repeat' first
    | with_reducible assumption
    | with_reducible apply keeps_wrN
    | with_reducible apply keeps_slotShow
    | with_reducible apply keeps_slotSelect
    | with_reducible apply Keeps.ite
    | (intro _ _ _)
    | (intro _ _)
    | with_reducible refine Keeps.mk' ?_ rfl rfl

theorem keeps_fetchDone {z s : State} (hK : Keeps z s) : Keeps z (State.fetchDone s) := by
  unfold State.fetchDone
  try dsimp only
  repeat' first
    | with_reducible assumption
    | with_reducible apply keeps_toStage
    | with_reducible apply Keeps.setByte
    | with_reducible apply Keeps.foldlFst
    | with_reducible apply Keeps.foldl
    | with_reducible apply Keeps.ite
    | with_reducible apply Keeps.iteFst
    | (intro _ _ _)
    | (intro _ _)
    | with_reducible refine Keeps.mk' ?_ rfl rfl

theorem keeps_fetchTimeout {z s : State} (hK : Keeps z s) : Keeps z (State.fetchTimeout s) := by
  unfold State.fetchTimeout
  try dsimp only
  repeat' first
    | with_reducible assumption
    | with_reducible apply keeps_runAfter
    | with_reducible apply keeps_loadFail
    | with_reducible apply Keeps.when
    | (intro _ _ _)
    | (intro _ _)
    | with_reducible refine Keeps.mk' ?_ rfl rfl

theorem keeps_bufferZero {z s : State} (hK : Keeps z s) : Keeps z (State.bufferZero s) :=
  hK.trans ⟨id, fun h => Sparse.wf_filter _ _ h, rfl, List.prefix_refl _, Nat.le_refl _, id, rfl⟩

theorem keeps_bindRole {z s : State} (hK : Keeps z s) (e : StationEntry) (single : Bool) : Keeps z (State.bindRole s e single) := by
  unfold State.bindRole
  try dsimp only
  repeat' first
    | with_reducible assumption
    | with_reducible apply keeps_put
    | with_reducible apply keeps_setFlag
    | with_reducible apply Keeps.wr
    | with_reducible apply Keeps.foldlFst
    | with_reducible apply Keeps.foldl
    | with_reducible apply Keeps.ite
    | with_reducible apply Keeps.iteFst
    | (intro _ _ _)
    | (intro _ _)
    | with_reducible refine Keeps.mk' ?_ rfl rfl

theorem keeps_scheduleStart {z s : State} (hK : Keeps z s) : Keeps z (State.scheduleStart s) := by
  unfold State.scheduleStart
  try dsimp only
  repeat' first
    | with_reducible assumption
    | (intro _ _ _)
    | (intro _ _)
    | with_reducible refine Keeps.mk' ?_ rfl rfl

theorem keeps_blocksStart {z s : State} (hK : Keeps z s) : Keeps z (State.blocksStart s) := by
  unfold State.blocksStart
  try dsimp only
  repeat' first
    | with_reducible assumption
    | with_reducible apply keeps_wire
    | with_reducible apply keeps_laneBand
    | with_reducible apply keeps_gdBind
    | with_reducible apply keeps_legRefresh
    | with_reducible apply keeps_put
    | with_reducible apply keeps_refWaitStart
    | with_reducible apply keeps_safBind
    | with_reducible apply keeps_scheduleStart
    | with_reducible apply keeps_wrN
    | with_reducible apply keeps_setFlag
    | with_reducible apply keeps_headroomInit
    | with_reducible apply Keeps.when
    | with_reducible apply Keeps.ite
    | (intro _ _ _)
    | (intro _ _)
    | with_reducible refine Keeps.mk' ?_ rfl rfl

theorem keeps_bootedImage {z s : State} (hK : Keeps z s) (img : ImageRead) : Keeps z (State.bootedImage s img) := by
  unfold State.bootedImage
  try dsimp only
  repeat' first
    | with_reducible assumption
    | with_reducible apply keeps_put
    | with_reducible apply keeps_wrN
    | with_reducible apply Keeps.wr
    | (intro _ _ _)
    | (intro _ _)
    | with_reducible refine Keeps.mk' ?_ rfl rfl

theorem keeps_bind {z s : State} (hK : Keeps z s) (st : StationRead) : Keeps z (State.bind s st) := by
  unfold State.bind
  extract_lets img src s1
  have h1 : Keeps z s1 := Keeps.mk' hK rfl rfl
  refine Keeps.ite (keeps_loadFail hK _ _) ?_
  split
  · exact keeps_unbind (keeps_put (keeps_laneBand (keeps_wire (keeps_bootedImage h1 _)) _) _ _) _
  · split
    · exact keeps_loadFail hK _ _
    · next t h =>
      exact keeps_toStage (keeps_blocksStart (keeps_bootedImage
        (keepsO_loadImage (keeps_bindRole h1 _ _) _ t h) _)) _

theorem keeps_verifyDone {z s : State} (hK : Keeps z s) (st : StationRead) : Keeps z (State.verifyDone s st) := by
  unfold State.verifyDone
  try dsimp only
  repeat' first
    | with_reducible assumption
    | with_reducible apply keeps_loadFail
    | with_reducible apply keeps_bind
    | with_reducible apply Keeps.ite
    | (intro _ _ _)
    | (intro _ _)
    | split
    | with_reducible refine Keeps.mk' ?_ rfl rfl

theorem keeps_bootLock {z s : State} (hK : Keeps z s) : Keeps z (State.bootLock s) := by
  unfold State.bootLock
  try dsimp only
  repeat' first
    | with_reducible assumption
    | with_reducible apply keeps_bufferZero
    | with_reducible apply keeps_toStage
    | with_reducible apply keeps_lanesBoot
    | with_reducible apply Keeps.ite
    | (intro _ _ _)
    | (intro _ _)
    | with_reducible refine Keeps.mk' ?_ rfl rfl

theorem keeps_provWrite {z s : State} (hK : Keeps z s) (m : Master) (v : Word) : Keeps z (State.provWrite s m v) := by
  unfold State.provWrite
  try dsimp only
  repeat' first
    | with_reducible assumption
    | with_reducible apply keeps_violation
    | with_reducible apply keeps_setFlag
    | with_reducible apply keeps_fuseKey
    | with_reducible apply Keeps.ite
    | (intro _ _ _)
    | (intro _ _)
    | with_reducible refine Keeps.mk' ?_ rfl rfl

theorem keeps_trialFail {z s : State} (hK : Keeps z s) (err : Nat) : Keeps z (State.trialFail s err) := by
  unfold State.trialFail
  try dsimp only
  repeat' first
    | with_reducible assumption
    | with_reducible apply keeps_setSlotSt
    | with_reducible apply keeps_put
    | with_reducible apply keeps_softReset
    | (intro _ _ _)
    | (intro _ _)
    | with_reducible refine Keeps.mk' ?_ rfl rfl

theorem keeps_trialPass_pass {z s : State} (hK : Keeps z s) (img : ImageRead) :
    Keeps z (State.trialPass.pass img s) := by
  unfold State.trialPass.pass
  exact Keeps.ite (keeps_put hK _ _) hK

theorem keeps_trialPass {z s : State} (hK : Keeps z s) : Keeps z (State.trialPass s) := by
  unfold State.trialPass
  dsimp only
  refine Keeps.ite hK ?_
  split
  · exact keeps_put (keeps_put hK _ _) _ _
  · exact keeps_fuseKey (keeps_trialPass_pass (keeps_setSlotSt hK _ _) _) _ _
  · exact keeps_trialPass_pass (keeps_setSlotSt hK _ _) _

theorem keeps_trialTimeout {z s : State} (hK : Keeps z s) : Keeps z (State.trialTimeout s) := by
  unfold State.trialTimeout
  try dsimp only
  repeat' first
    | with_reducible assumption
    | with_reducible apply keeps_runUp
    | with_reducible apply keeps_trialFail
    | with_reducible apply Keeps.when
    | (intro _ _ _)
    | (intro _ _)
    | with_reducible refine Keeps.mk' ?_ rfl rfl

theorem keeps_updCmd {z s : State} (hK : Keeps z s) (m : Master) (abort : Bool) {f : State → State}
    (hf : ∀ b, Keeps z b → Keeps z (f b)) : Keeps z (State.updCmd s m abort f) := by
  unfold State.updCmd
  exact Keeps.ite (keeps_violation hK _ _ _) (Keeps.ite (keeps_put hK _ _) (hf s hK))

theorem keeps_updStart {z s : State} (hK : Keeps z s) (c : UpdCmd) : Keeps z (State.updStart s c) := by
  unfold State.updStart
  try dsimp only
  repeat' first
    | with_reducible assumption
    | with_reducible apply keeps_put
    | with_reducible apply keeps_setFlag
    | (intro _ _ _)
    | (intro _ _)
    | with_reducible refine Keeps.mk' ?_ rfl rfl

theorem keeps_updEnd {z s : State} (hK : Keeps z s) (err : Nat) (verified : Bool) : Keeps z (State.updEnd s err verified) := by
  unfold State.updEnd
  try dsimp only
  repeat' first
    | with_reducible assumption
    | with_reducible apply keeps_put
    | with_reducible apply keeps_setFlag
    | (intro _ _ _)
    | (intro _ _)
    | with_reducible refine Keeps.mk' ?_ rfl rfl

theorem keeps_updErase {z s : State} (hK : Keeps z s) : Keeps z (State.updErase s) := by
  unfold State.updErase
  try dsimp only
  repeat' first
    | with_reducible assumption
    | with_reducible apply keeps_slotShow
    | with_reducible apply keeps_updStart
    | (intro _ _ _)
    | (intro _ _)
    | with_reducible refine Keeps.mk' ?_ rfl rfl

theorem keeps_updProgram {z s : State} (hK : Keeps z s) : Keeps z (State.updProgram s) := by
  unfold State.updProgram
  try dsimp only
  repeat' first
    | with_reducible assumption
    | with_reducible apply keeps_setSlotSt
    | with_reducible apply keeps_updStart
    | with_reducible apply keeps_put
    | with_reducible apply keeps_setFlag
    | with_reducible apply Keeps.when
    | with_reducible apply Keeps.ite
    | (intro _ _ _)
    | (intro _ _)
    | with_reducible refine Keeps.mk' ?_ rfl rfl

theorem keeps_updArm {z s : State} (hK : Keeps z s) : Keeps z (State.updArm s) := by
  unfold State.updArm
  try dsimp only
  repeat' first
    | with_reducible assumption
    | with_reducible apply keeps_setSlotSt
    | with_reducible apply keeps_updEnd
    | with_reducible apply keeps_put
    | with_reducible apply keeps_setFlag
    | with_reducible apply Keeps.ite
    | (intro _ _ _)
    | (intro _ _)
    | with_reducible refine Keeps.mk' ?_ rfl rfl

theorem keeps_updAbort {z s : State} (hK : Keeps z s) : Keeps z (State.updAbort s) := by
  unfold State.updAbort
  try dsimp only
  repeat' first
    | with_reducible assumption
    | with_reducible apply keeps_updStop
    | with_reducible apply keeps_setFlag
    | with_reducible apply Keeps.when
    | (intro _ _ _)
    | (intro _ _)
    | with_reducible refine Keeps.mk' ?_ rfl rfl

theorem keeps_updDone {z s : State} (hK : Keeps z s) (flashErr bufferBad : Bool) : Keeps z (State.updDone s flashErr bufferBad) := by
  unfold State.updDone
  try dsimp only
  repeat' first
    | with_reducible assumption
    | with_reducible apply keeps_updStop
    | with_reducible apply keeps_updEnd
    | with_reducible apply keeps_updPart
    | with_reducible apply keeps_slotShow
    | with_reducible apply Keeps.ite
    | (intro _ _ _)
    | (intro _ _)
    | split
    | with_reducible refine Keeps.mk' ?_ rfl rfl

theorem keeps_eligRefresh {z s : State} (hK : Keeps z s) : Keeps z (State.eligRefresh s) := by
  unfold State.eligRefresh
  try dsimp only
  repeat' first
    | with_reducible assumption
    | with_reducible apply keeps_setFlag
    | (intro _ _ _)
    | (intro _ _)
    | with_reducible refine Keeps.mk' ?_ rfl rfl

theorem keeps_setServo {z s : State} (hK : Keeps z s) (st : Nat) : Keeps z (State.setServo s st) := by
  unfold State.setServo
  try dsimp only
  repeat' first
    | with_reducible assumption
    | with_reducible apply keeps_put
    | with_reducible apply keeps_eligRefresh
    | with_reducible apply keeps_trialPass
    | with_reducible apply Keeps.ite
    | (intro _ _ _)
    | (intro _ _)
    | with_reducible refine Keeps.mk' ?_ rfl rfl

theorem keeps_yShow {z s : State} (hK : Keeps z s) : Keeps z (State.yShow s) := by
  unfold State.yShow
  try dsimp only
  repeat' first
    | with_reducible assumption
    | with_reducible apply keeps_wrN
    | with_reducible apply keeps_setFlag
    | (intro _ _ _)
    | (intro _ _)
    | with_reducible refine Keeps.mk' ?_ rfl rfl

theorem keeps_setY {z s : State} (hK : Keeps z s) (yP yI : Frac) : Keeps z (State.setY s yP yI) := by
  unfold State.setY
  try dsimp only
  repeat' first
    | with_reducible assumption
    | with_reducible apply keeps_yShow
    | with_reducible apply keeps_slewTarget
    | (intro _ _ _)
    | (intro _ _)
    | with_reducible refine Keeps.mk' ?_ rfl rfl

theorem keeps_takeHost {z s : State} (hK : Keeps z s) : Keeps z (State.takeHost s) := by
  unfold State.takeHost
  try dsimp only
  repeat' first
    | with_reducible assumption
    | with_reducible apply keeps_setFlag
    | with_reducible apply keeps_setChain
    | with_reducible apply keeps_wrN
    | with_reducible apply keeps_setServo
    | (intro _ _ _)
    | (intro _ _)
    | with_reducible refine Keeps.mk' ?_ rfl rfl

theorem keeps_sourceLoss {z s : State} (hK : Keeps z s) : Keeps z (State.sourceLoss s) := by
  unfold State.sourceLoss
  try dsimp only
  repeat' first
    | with_reducible assumption
    | with_reducible apply keeps_selectUp
    | with_reducible apply keeps_setY
    | with_reducible apply keeps_setServo
    | with_reducible apply keeps_raise
    | with_reducible apply Keeps.when
    | with_reducible apply Keeps.ite
    | (intro _ _ _)
    | (intro _ _)
    | with_reducible refine Keeps.mk' ?_ rfl rfl

theorem keeps_holdLimit {z s : State} (hK : Keeps z s) : Keeps z (State.holdLimit s) := by
  unfold State.holdLimit
  try dsimp only
  repeat' first
    | with_reducible assumption
    | with_reducible apply keeps_runUp
    | with_reducible apply keeps_raise
    | with_reducible apply keeps_leaveService
    | with_reducible apply Keeps.ite
    | (intro _ _ _)
    | (intro _ _)
    | with_reducible refine Keeps.mk' ?_ rfl rfl

theorem keeps_crossCheck {z s : State} (hK : Keeps z s) : Keeps z (State.crossCheck s) := by
  unfold State.crossCheck
  try dsimp only
  repeat' first
    | with_reducible assumption
    | with_reducible apply keeps_setFlag
    | with_reducible apply keeps_raise
    | with_reducible apply Keeps.ite
    | (intro _ _ _)
    | (intro _ _)
    | with_reducible refine Keeps.mk' ?_ rfl rfl

theorem keeps_hostTimeout {z s : State} (hK : Keeps z s) : Keeps z (State.hostTimeout s) := by
  unfold State.hostTimeout
  try dsimp only
  repeat' first
    | with_reducible assumption
    | with_reducible apply keeps_runUp
    | with_reducible apply keeps_setY
    | with_reducible apply keeps_setFlag
    | with_reducible apply keeps_raise
    | with_reducible apply Keeps.ite
    | (intro _ _ _)
    | (intro _ _)
    | with_reducible refine Keeps.mk' ?_ rfl rfl

theorem keeps_hostBack {z s : State} (hK : Keeps z s) : Keeps z (State.hostBack s) := by
  unfold State.hostBack
  try dsimp only
  repeat' first
    | with_reducible assumption
    | with_reducible apply keeps_setFlag
    | with_reducible apply keeps_endCause
    | with_reducible apply Keeps.ite
    | (intro _ _ _)
    | (intro _ _)
    | with_reducible refine Keeps.mk' ?_ rfl rfl

theorem keeps_tpoMissed {z s : State} (hK : Keeps z s) (n : Nat) : Keeps z (State.tpoMissed s n) := by
  unfold State.tpoMissed
  try dsimp only
  repeat' first
    | with_reducible assumption
    | with_reducible apply keeps_setFlag
    | with_reducible apply keeps_raise
    | (intro _ _ _)
    | (intro _ _)
    | with_reducible refine Keeps.mk' ?_ rfl rfl

theorem keeps_tpoPlan {z s : State} (hK : Keeps z s) (n : Nat) (fresh mark : Bool) : Keeps z (State.tpoPlan s n fresh mark) := by
  unfold State.tpoPlan
  try dsimp only
  repeat' first
    | with_reducible assumption
    | with_reducible apply keeps_setFlag
    | with_reducible apply keeps_setTpo
    | with_reducible apply keeps_tpoMissed
    | with_reducible apply Keeps.when
    | with_reducible apply Keeps.ite
    | (intro _ _ _)
    | (intro _ _)
    | with_reducible refine Keeps.mk' ?_ rfl rfl

theorem keeps_tpoTakeWaiting {z s : State} (hK : Keeps z s) (n : Nat) : Keeps z (State.tpoTakeWaiting s n) := by
  unfold State.tpoTakeWaiting
  try dsimp only
  repeat' first
    | with_reducible assumption
    | with_reducible apply keeps_setTpo
    | with_reducible apply Keeps.wr
    | with_reducible apply Keeps.foldlFst
    | with_reducible apply Keeps.foldl
    | (intro _ _ _)
    | (intro _ _)
    | with_reducible refine Keeps.mk' ?_ rfl rfl

theorem keeps_tpoCtrl {z s : State} (hK : Keeps z s) (n : Nat) (v : Word) : Keeps z (State.tpoCtrl s n v) := by
  unfold State.tpoCtrl
  try dsimp only
  repeat' first
    | with_reducible assumption
    | with_reducible apply keeps_setFlag
    | with_reducible apply keeps_tpoPlan
    | with_reducible apply keeps_setTpo
    | with_reducible apply keeps_tpoTakeWaiting
    | with_reducible apply Keeps.when
    | with_reducible apply Keeps.ite
    | (intro _ _ _)
    | (intro _ _)
    | with_reducible refine Keeps.mk' ?_ rfl rfl

theorem keeps_tpoConfig {z s : State} (hK : Keeps z s) (n : Nat) (reg : TpoReg) (v : Word) : Keeps z (State.tpoConfig s n reg v) := by
  unfold State.tpoConfig
  try dsimp only
  repeat' first
    | with_reducible assumption
    | with_reducible apply keeps_setTpo
    | with_reducible apply keeps_tpoPlan
    | with_reducible apply keeps_setFlag
    | with_reducible apply Keeps.wr
    | with_reducible apply Keeps.when
    | with_reducible apply Keeps.ite
    | (intro _ _ _)
    | (intro _ _)
    | with_reducible refine Keeps.mk' ?_ rfl rfl

theorem keeps_tpoEdge {z s : State} (hK : Keeps z s) (n : Nat) : Keeps z (State.tpoEdge s n) := by
  unfold State.tpoEdge
  try dsimp only
  repeat' first
    | with_reducible assumption
    | with_reducible apply keeps_runAhead
    | with_reducible apply keeps_setTpo
    | with_reducible apply Keeps.ite
    | (intro _ _ _)
    | (intro _ _)
    | split
    | with_reducible refine Keeps.mk' ?_ rfl rfl

theorem keeps_tpoPulseEnd {z s : State} (hK : Keeps z s) (n : Nat) : Keeps z (State.tpoPulseEnd s n) := by
  unfold State.tpoPulseEnd
  try dsimp only
  repeat' first
    | with_reducible assumption
    | with_reducible apply keeps_runAhead
    | with_reducible apply keeps_setTpo
    | with_reducible apply keeps_tpoTakeWaiting
    | with_reducible apply keeps_tpoPlan
    | with_reducible apply Keeps.when
    | with_reducible apply Keeps.ite
    | with_reducible apply Keeps.iteFst
    | (intro _ _ _)
    | (intro _ _)
    | with_reducible refine Keeps.mk' ?_ rfl rfl

theorem keeps_tpoStep {z s : State} (hK : Keeps z s) : Keeps z (State.tpoStep s) := by
  unfold State.tpoStep
  try dsimp only
  repeat' first
    | with_reducible assumption
    | with_reducible apply keeps_tpoMissed
    | with_reducible apply keeps_setTpo
    | with_reducible apply Keeps.forUpTo
    | with_reducible apply Keeps.ite
    | (intro _ _ _)
    | (intro _ _)
    | split
    | with_reducible refine Keeps.mk' ?_ rfl rfl

theorem keeps_tpiEdge {z s : State} (hK : Keeps z s) (rising : Bool) (before after : Nat) : Keeps z (State.tpiEdge s rising before after) := by
  unfold State.tpiEdge
  try dsimp only
  repeat' first
    | with_reducible assumption
    | with_reducible apply keeps_setFlag
    | with_reducible apply keeps_wrN
    | with_reducible apply keeps_put
    | with_reducible apply Keeps.ite
    | (intro _ _ _)
    | (intro _ _)
    | with_reducible refine Keeps.mk' ?_ rfl rfl

theorem keeps_recordClosed {z s : State} (hK : Keeps z s) (num : Nat) : Keeps z (State.recordClosed s num) := by
  unfold State.recordClosed
  try dsimp only
  repeat' first
    | with_reducible assumption
    | with_reducible apply keeps_logEvent
    | with_reducible apply keeps_reportRecord
    | with_reducible apply Keeps.when
    | (intro _ _ _)
    | (intro _ _)
    | with_reducible refine Keeps.mk' ?_ rfl rfl

theorem keeps_recordClose {z s : State} (hK : Keeps z s) : Keeps z (State.recordClose s) := by
  unfold State.recordClose
  try dsimp only
  repeat' first
    | with_reducible assumption
    | with_reducible apply keeps_runUp
    | with_reducible apply keeps_mergeEnd
    | with_reducible apply keeps_recordClosed
    | with_reducible apply Keeps.foldlFst
    | with_reducible apply Keeps.foldl
    | (intro _ _ _)
    | (intro _ _)
    | split
    | with_reducible refine Keeps.mk' ?_ rfl rfl

theorem keeps_setPair {z s : State} (hK : Keeps z s) (code inst : Nat) (v : Option Bool) : Keeps z (State.setPair s code inst v) := by
  unfold State.setPair
  try dsimp only
  repeat' first
    | with_reducible assumption
    | (intro _ _ _)
    | (intro _ _)
    | split
    | with_reducible refine Keeps.mk' ?_ rfl rfl

theorem keeps_pairFault {z s : State} (hK : Keeps z s) (r : RaiseIn) (back : Bool) : Keeps z (State.pairFault s r back) := by
  unfold State.pairFault
  try dsimp only
  repeat' first
    | with_reducible assumption
    | with_reducible apply keeps_setPair
    | with_reducible apply keeps_endCause
    | with_reducible apply keeps_raise
    | with_reducible apply Keeps.when
    | with_reducible apply Keeps.ite
    | (intro _ _ _)
    | (intro _ _)
    | split
    | with_reducible refine Keeps.mk' ?_ rfl rfl

theorem keeps_pairBroken {z s : State} (hK : Keeps z s) (r : RaiseIn) (back : Bool) : Keeps z (State.pairBroken s r back) := by
  unfold State.pairBroken
  try dsimp only
  repeat' first
    | with_reducible assumption
    | with_reducible apply keeps_runUp
    | with_reducible apply keeps_setPair
    | with_reducible apply keeps_endCause
    | with_reducible apply keeps_raise
    | with_reducible apply Keeps.ite
    | (intro _ _ _)
    | (intro _ _)
    | split
    | with_reducible refine Keeps.mk' ?_ rfl rfl

theorem keeps_clrDone {z s : State} (hK : Keeps z s) (err : Nat) : Keeps z (State.clrDone s err) := by
  unfold State.clrDone
  try dsimp only
  repeat' first
    | with_reducible assumption
    | with_reducible apply keeps_put
    | with_reducible apply keeps_setFlag
    | with_reducible apply Keeps.when
    | with_reducible apply Keeps.ite
    | (intro _ _ _)
    | (intro _ _)
    | with_reducible refine Keeps.mk' ?_ rfl rfl

theorem keeps_fc3Cleared {z s : State} (hK : Keeps z s) : Keeps z (State.fc3Cleared s) := by
  unfold State.fc3Cleared
  try dsimp only
  repeat' first
    | with_reducible assumption
    | with_reducible apply keeps_leaveService
    | with_reducible apply keeps_put
    | with_reducible apply keeps_takeHost
    | with_reducible apply Keeps.when
    | with_reducible apply Keeps.ite
    | (intro _ _ _)
    | (intro _ _)
    | with_reducible refine Keeps.mk' ?_ rfl rfl

theorem keeps_recordClear {z s : State} (hK : Keeps z s) (num : Nat) : Keeps z (State.recordClear s num) := by
  unfold State.recordClear
  try dsimp only
  repeat' first
    | with_reducible assumption
    | with_reducible apply keeps_clrDone
    | with_reducible apply keeps_setFlag
    | with_reducible apply keeps_fltRefresh
    | with_reducible apply keeps_gdEscalRefresh
    | with_reducible apply keeps_reportRecord
    | with_reducible apply keeps_fc3Cleared
    | with_reducible apply Keeps.when
    | with_reducible apply Keeps.ite
    | (intro _ _ _)
    | (intro _ _)
    | with_reducible refine Keeps.mk' ?_ rfl rfl

theorem keeps_stationClear {z s : State} (hK : Keeps z s) : Keeps z (State.stationClear s) := by
  unfold State.stationClear
  try dsimp only
  repeat' first
    | with_reducible assumption
    | with_reducible apply keeps_clrDone
    | with_reducible apply keeps_setFlag
    | with_reducible apply keeps_put
    | with_reducible apply Keeps.ite
    | (intro _ _ _)
    | (intro _ _)
    | with_reducible refine Keeps.mk' ?_ rfl rfl

theorem keeps_fltiChange {z s : State} (hK : Keeps z s) (l : FltiLevel) : Keeps z (State.fltiChange s l) := by
  unfold State.fltiChange
  try dsimp only
  repeat' first
    | with_reducible assumption
    | with_reducible apply keeps_endCause
    | with_reducible apply keeps_put
    | with_reducible apply keeps_raise
    | with_reducible apply Keeps.when
    | with_reducible apply Keeps.ite
    | (intro _ _ _)
    | (intro _ _)
    | split
    | with_reducible refine Keeps.mk' ?_ rfl rfl

theorem keeps_ledTo {z s : State} (hK : Keeps z s) (e st cause : Nat) : Keeps z (State.ledTo s e st cause) := by
  unfold State.ledTo
  try dsimp only
  repeat' first
    | with_reducible assumption
    | with_reducible apply keeps_put
    | with_reducible apply Keeps.wr
    | (intro _ _ _)
    | (intro _ _)
    | with_reducible refine Keeps.mk' ?_ rfl rfl

theorem keeps_batchFault {z s : State} (hK : Keeps z s) (code : Nat) (id : Word) : Keeps z (State.batchFault s code id) := by
  unfold State.batchFault
  try dsimp only
  repeat' first
    | with_reducible assumption
    | with_reducible apply keeps_raise
    | (intro _ _ _)
    | (intro _ _)
    | with_reducible refine Keeps.mk' ?_ rfl rfl

theorem keeps_sendOutcome {z s : State} (hK : Keeps z s) (e : Nat) : Keeps z (State.sendOutcome s e) := by
  unfold State.sendOutcome
  try dsimp only
  repeat' first
    | with_reducible assumption
    | with_reducible apply keeps_bulkSend
    | with_reducible apply Keeps.ite
    | (intro _ _ _)
    | (intro _ _)
    | with_reducible refine Keeps.mk' ?_ rfl rfl

theorem keeps_ledAbort {z s : State} (hK : Keeps z s) (e cause : Nat) : Keeps z (State.ledAbort s e cause) := by
  unfold State.ledAbort
  try dsimp only
  repeat' first
    | with_reducible assumption
    | with_reducible apply keeps_ledTo
    | with_reducible apply keeps_sendOutcome
    | with_reducible apply keeps_raiseLater
    | with_reducible apply Keeps.ite
    | (intro _ _ _)
    | (intro _ _)
    | with_reducible refine Keeps.mk' ?_ rfl rfl

theorem keeps_ledNew {z s : State} (hK : Keeps z s) (e : Nat) (id c : Word) (count : Nat) (dist : Bool) (targets : Nat) : Keeps z (State.ledNew s e id c count dist targets) := by
  unfold State.ledNew
  try dsimp only
  repeat' first
    | with_reducible assumption
    | with_reducible apply keeps_wrN
    | with_reducible apply Keeps.wr
    | with_reducible apply Keeps.forUpTo
    | (intro _ _ _)
    | (intro _ _)
    | with_reducible refine Keeps.mk' ?_ rfl rfl

theorem keeps_ledItems {z s : State} (hK : Keeps z s) (e : Nat) (items : List (Word × Word)) : Keeps z (State.ledItems s e items) := by
  unfold State.ledItems
  try dsimp only
  repeat' first
    | with_reducible assumption
    | with_reducible apply keeps_put
    | with_reducible apply keeps_ledTo
    | with_reducible apply Keeps.ite
    | (intro _ _ _)
    | (intro _ _)
    | with_reducible refine Keeps.mk' ?_ rfl rfl

theorem keeps_batchStage {z s : State} (hK : Keeps z s) (id c : Word) (count : Nat) (items : List (Word × Word)) : Keeps z (State.batchStage s id c count items) := by
  unfold State.batchStage
  try dsimp only
  repeat' first
    | with_reducible assumption
    | with_reducible apply keeps_ledItems
    | with_reducible apply keeps_batchFault
    | with_reducible apply keeps_ledNew
    | with_reducible apply keeps_ledAbort
    | with_reducible apply keeps_raiseDue
    | with_reducible apply Keeps.ite
    | (intro _ _ _)
    | (intro _ _)
    | split
    | with_reducible refine Keeps.mk' ?_ rfl rfl

theorem keeps_batchCancel {z s : State} (hK : Keeps z s) (id : Word) (dist : Bool) : Keeps z (State.batchCancel s id dist) := by
  unfold State.batchCancel
  try dsimp only
  repeat' first
    | with_reducible assumption
    | with_reducible apply keeps_ledAbort
    | with_reducible apply keeps_raiseDue
    | with_reducible apply Keeps.foldlFst
    | with_reducible apply Keeps.foldl
    | with_reducible apply Keeps.when
    | (intro _ _ _)
    | (intro _ _)
    | with_reducible refine Keeps.mk' ?_ rfl rfl

theorem keeps_distAck {z s : State} (hK : Keeps z s) (id : Word) : Keeps z (State.distAck s id) := by
  unfold State.distAck
  try dsimp only
  repeat' first
    | with_reducible assumption
    | with_reducible apply keeps_put
    | with_reducible apply keeps_ledTo
    | with_reducible apply Keeps.foldlFst
    | with_reducible apply Keeps.foldl
    | with_reducible apply Keeps.ite
    | (intro _ _ _)
    | (intro _ _)
    | split
    | with_reducible refine Keeps.mk' ?_ rfl rfl

theorem keeps_batchBoundary {z s : State} (hK : Keeps z s) : Keeps z (State.batchBoundary s) := by
  unfold State.batchBoundary
  try dsimp only
  repeat' first
    | with_reducible assumption
    | with_reducible apply keeps_ledAbort
    | with_reducible apply keeps_ledTo
    | with_reducible apply Keeps.foldlFst
    | with_reducible apply Keeps.foldl
    | with_reducible apply Keeps.ite
    | (intro _ _ _)
    | (intro _ _)
    | with_reducible refine Keeps.mk' ?_ rfl rfl

theorem keeps_glazeSend {z s : State} (hK : Keeps z s) : Keeps z (State.glazeSend s) := by
  unfold State.glazeSend
  try dsimp only
  repeat' first
    | with_reducible assumption
    | with_reducible apply keeps_sendLine
    | with_reducible apply Keeps.foldlFst
    | with_reducible apply Keeps.foldl
    | with_reducible apply Keeps.ite
    | with_reducible apply Keeps.iteFst
    | (intro _ _ _)
    | (intro _ _)
    | with_reducible refine Keeps.mk' ?_ rfl rfl

theorem keeps_proof {z s : State} (hK : Keeps z s) (g : List Byte) : Keeps z (State.proof s g) := by
  unfold State.proof
  try dsimp only
  repeat' first
    | with_reducible assumption
    | with_reducible apply keeps_bumpReg
    | with_reducible apply keeps_wrN
    | with_reducible apply keeps_setFlag
    | with_reducible apply keeps_raise
    | with_reducible apply Keeps.wr
    | with_reducible apply Keeps.when
    | with_reducible apply Keeps.ite
    | (intro _ _ _)
    | (intro _ _)
    | split
    | with_reducible refine Keeps.mk' ?_ rfl rfl

theorem keeps_glazeReceived {z s : State} (hK : Keeps z s) (a : Arrival) : Keeps z (State.glazeReceived s a) := by
  unfold State.glazeReceived
  try dsimp only
  repeat' first
    | with_reducible assumption
    | with_reducible apply keeps_proof
    | with_reducible apply keeps_put
    | with_reducible apply keeps_setFlag
    | with_reducible apply keeps_eligRefresh
    | with_reducible apply Keeps.when
    | with_reducible apply Keeps.ite
    | (intro _ _ _)
    | (intro _ _)
    | split
    | with_reducible refine Keeps.mk' ?_ rfl rfl

theorem keeps_wrAll {z s : State} (hK : Keeps z s) (a : Nat → Nat) (l : List Word) : Keeps z (State.wrAll s a l) := by
  unfold State.wrAll
  try dsimp only
  repeat' first
    | with_reducible assumption
    | with_reducible apply Keeps.wr
    | with_reducible apply Keeps.foldlFst
    | with_reducible apply Keeps.foldl
    | (intro _ _ _)
    | (intro _ _)
    | with_reducible refine Keeps.mk' ?_ rfl rfl

theorem keeps_takeStack {z s : State} (hK : Keeps z s) (g : List Byte) (k : Nat) : Keeps z (State.takeStack s g k) := by
  unfold State.takeStack
  try dsimp only
  repeat' first
    | with_reducible assumption
    | with_reducible apply keeps_setBalStk
    | with_reducible apply keeps_setBalCell
    | with_reducible apply Keeps.wr
    | with_reducible apply Keeps.forUpTo
    | with_reducible apply Keeps.ite
    | (intro _ _ _)
    | (intro _ _)
    | with_reducible refine Keeps.mk' ?_ rfl rfl

theorem keeps_takeSlot {z s : State} (hK : Keeps z s) (g : List Byte) (n : Nat) : Keeps z (State.takeSlot s g n) := by
  unfold State.takeSlot
  try dsimp only
  repeat' first
    | with_reducible assumption
    | with_reducible apply keeps_wrAll
    | with_reducible apply keeps_wrN
    | with_reducible apply keeps_put
    | with_reducible apply Keeps.wr
    | (intro _ _ _)
    | (intro _ _)
    | with_reducible refine Keeps.mk' ?_ rfl rfl

theorem keeps_glazeApply {z s : State} (hK : Keeps z s) (g : List Byte) : Keeps z (State.glazeApply s g) := by
  unfold State.glazeApply
  try dsimp only
  repeat' first
    | with_reducible assumption
    | with_reducible apply keeps_wrN
    | with_reducible apply keeps_takeStack
    | with_reducible apply keeps_setMember
    | with_reducible apply keeps_wrAll
    | with_reducible apply keeps_takeSlot
    | with_reducible apply keeps_setFlag
    | with_reducible apply Keeps.wr
    | with_reducible apply Keeps.forUpTo
    | with_reducible apply Keeps.ite
    | (intro _ _ _)
    | (intro _ _)
    | with_reducible refine Keeps.mk' ?_ rfl rfl

theorem keeps_glazeCurrent {z s : State} (hK : Keeps z s) : Keeps z (State.glazeCurrent s) := by
  unfold State.glazeCurrent
  try dsimp only
  repeat' first
    | with_reducible assumption
    | with_reducible apply keeps_proof
    | with_reducible apply keeps_glazeApply
    | with_reducible apply keeps_put
    | with_reducible apply keeps_eligRefresh
    | with_reducible apply keeps_bumpReg
    | with_reducible apply keeps_setFlag
    | with_reducible apply keeps_raise
    | with_reducible apply Keeps.when
    | with_reducible apply Keeps.ite
    | (intro _ _ _)
    | (intro _ _)
    | split
    | with_reducible refine Keeps.mk' ?_ rfl rfl

theorem keeps_sendHb {z s : State} (hK : Keeps z s) (lane : Nat) (claim : Bool) : Keeps z (State.sendHb s lane claim) := by
  unfold State.sendHb
  try dsimp only
  repeat' first
    | with_reducible assumption
    | with_reducible apply keeps_sendAll
    | (intro _ _ _)
    | (intro _ _)
    | with_reducible refine Keeps.mk' ?_ rfl rfl

theorem keeps_admAnswer {z s : State} (hK : Keeps z s) (head adm reason : Nat) : Keeps z (State.admAnswer s head adm reason) := by
  unfold State.admAnswer
  try dsimp only
  repeat' first
    | with_reducible assumption
    | with_reducible apply keeps_bump
    | with_reducible apply keeps_put
    | (intro _ _ _)
    | (intro _ _)
    | with_reducible refine Keeps.mk' ?_ rfl rfl

theorem keeps_recheckHeld {z s : State} (hK : Keeps z s) : Keeps z (State.recheckHeld s) := by
  unfold State.recheckHeld
  try dsimp only
  repeat' first
    | with_reducible assumption
    | with_reducible apply keeps_setMember
    | with_reducible apply Keeps.forUpTo
    | with_reducible apply Keeps.when
    | (intro _ _ _)
    | (intro _ _)
    | with_reducible refine Keeps.mk' ?_ rfl rfl

theorem keeps_roleRefresh {z s : State} (hK : Keeps z s) : Keeps z (State.roleRefresh s) := by
  unfold State.roleRefresh
  try dsimp only
  repeat' first
    | with_reducible assumption
    | with_reducible apply keeps_eligRefresh
    | with_reducible apply keeps_supStat
    | (intro _ _ _)
    | (intro _ _)
    | with_reducible refine Keeps.mk' ?_ rfl rfl

theorem keeps_toDpx {z s : State} (hK : Keeps z s) (st : Nat) : Keeps z (State.toDpx s st) := by
  unfold State.toDpx
  try dsimp only
  repeat' first
    | with_reducible assumption
    | with_reducible apply keeps_put
    | with_reducible apply keeps_setFlag
    | with_reducible apply keeps_roleRefresh
    | with_reducible apply Keeps.when
    | (intro _ _ _)
    | (intro _ _)
    | with_reducible refine Keeps.mk' ?_ rfl rfl

theorem keeps_lead {z s : State} (hK : Keeps z s) (tier cause : Nat) : Keeps z (State.lead s tier cause) := by
  unfold State.lead
  try dsimp only
  repeat' first
    | with_reducible assumption
    | with_reducible apply keeps_put
    | (intro _ _ _)
    | (intro _ _)
    | with_reducible refine Keeps.mk' ?_ rfl rfl

theorem keeps_swapAbort {z s : State} (hK : Keeps z s) (err : Nat) : Keeps z (State.swapAbort s err) := by
  unfold State.swapAbort
  try dsimp only
  repeat' first
    | with_reducible assumption
    | with_reducible apply keeps_swapEnd
    | with_reducible apply keeps_raiseLater
    | with_reducible apply Keeps.when
    | (intro _ _ _)
    | (intro _ _)
    | with_reducible refine Keeps.mk' ?_ rfl rfl

theorem keeps_demoteLater {z s : State} (hK : Keeps z s) (st code : Nat) : Keeps z (State.demoteLater s st code) := by
  unfold State.demoteLater
  try dsimp only
  repeat' first
    | with_reducible assumption
    | with_reducible apply keeps_swapAbort
    | with_reducible apply keeps_giveUpRoot
    | with_reducible apply keeps_toDpx
    | with_reducible apply keeps_selectUp
    | with_reducible apply keeps_put
    | with_reducible apply keeps_raiseLater
    | with_reducible apply Keeps.ite
    | (intro _ _ _)
    | (intro _ _)
    | with_reducible refine Keeps.mk' ?_ rfl rfl

theorem keeps_demote {z s : State} (hK : Keeps z s) (st code : Nat) : Keeps z (State.demote s st code) := by
  unfold State.demote
  try dsimp only
  repeat' first
    | with_reducible assumption
    | with_reducible apply keeps_demoteLater
    | with_reducible apply keeps_raiseDue
    | (intro _ _ _)
    | (intro _ _)
    | with_reducible refine Keeps.mk' ?_ rfl rfl

theorem keeps_claim {z s : State} (hK : Keeps z s) : Keeps z (State.claim s) := by
  unfold State.claim
  try dsimp only
  repeat' first
    | with_reducible assumption
    | with_reducible apply keeps_lead
    | with_reducible apply keeps_toDpx
    | with_reducible apply keeps_put
    | with_reducible apply keeps_setMember
    | with_reducible apply keeps_toStage
    | with_reducible apply keeps_takeHost
    | with_reducible apply keeps_takeSource
    | with_reducible apply keeps_raise
    | with_reducible apply keeps_roleRefresh
    | with_reducible apply Keeps.when
    | with_reducible apply Keeps.ite
    | (intro _ _ _)
    | (intro _ _)
    | with_reducible refine Keeps.mk' ?_ rfl rfl

theorem keeps_claimRefused {z s : State} (hK : Keeps z s) : Keeps z (State.claimRefused s) := by
  unfold State.claimRefused
  try dsimp only
  repeat' first
    | with_reducible assumption
    | with_reducible apply keeps_admAnswer
    | with_reducible apply keeps_put
    | with_reducible apply keeps_raise
    | with_reducible apply keeps_roleRefresh
    | with_reducible apply keeps_toStage
    | (intro _ _ _)
    | (intro _ _)
    | with_reducible refine Keeps.mk' ?_ rfl rfl

theorem keeps_listenEnd {z s : State} (hK : Keeps z s) : Keeps z (State.listenEnd s) := by
  unfold State.listenEnd
  try dsimp only
  repeat' first
    | with_reducible assumption
    | with_reducible apply keeps_runUp
    | with_reducible apply keeps_safListenEnd
    | with_reducible apply keeps_heard
    | with_reducible apply keeps_claimRefused
    | with_reducible apply keeps_claim
    | with_reducible apply Keeps.when
    | with_reducible apply Keeps.ite
    | (intro _ _ _)
    | (intro _ _)
    | with_reducible refine Keeps.mk' ?_ rfl rfl

theorem keeps_seeTier {z s : State} (hK : Keeps z s) (t : Nat) : Keeps z (State.seeTier s t) := by
  unfold State.seeTier
  try dsimp only
  repeat' first
    | with_reducible assumption
    | with_reducible apply keeps_put
    | with_reducible apply Keeps.when
    | (intro _ _ _)
    | (intro _ _)
    | with_reducible refine Keeps.mk' ?_ rfl rfl

theorem keeps_hbAtMember {z s : State} (hK : Keeps z s) (via : Via) (src tier : Nat) (prim : Bool) : Keeps z (State.hbAtMember s via src tier prim) := by
  unfold State.hbAtMember
  try dsimp only
  repeat' first
    | with_reducible assumption
    | with_reducible apply keeps_put
    | with_reducible apply keeps_selectUp
    | with_reducible apply Keeps.when
    | with_reducible apply Keeps.ite
    | (intro _ _ _)
    | (intro _ _)
    | with_reducible refine Keeps.mk' ?_ rfl rfl

theorem keeps_hbAtHead {z s : State} (hK : Keeps z s) (src tier role flags : Nat) (swap : Word) (prim : Bool) : Keeps z (State.hbAtHead s src tier role flags swap prim) := by
  unfold State.hbAtHead
  try dsimp only
  repeat' first
    | with_reducible assumption
    | with_reducible apply keeps_seeTier
    | with_reducible apply keeps_put
    | with_reducible apply keeps_demote
    | with_reducible apply keeps_raise
    | with_reducible apply keeps_selectUp
    | with_reducible apply keeps_setFlag
    | with_reducible apply keeps_toDpx
    | with_reducible apply Keeps.when
    | with_reducible apply Keeps.ite
    | (intro _ _ _)
    | (intro _ _)
    | with_reducible refine Keeps.mk' ?_ rfl rfl

theorem keeps_hbReceived {z s : State} (hK : Keeps z s) (a : Arrival) : Keeps z (State.hbReceived s a) := by
  unfold State.hbReceived
  try dsimp only
  repeat' first
    | with_reducible assumption
    | with_reducible apply keeps_hbAtHead
    | with_reducible apply keeps_hbAtMember
    | with_reducible apply Keeps.when
    | with_reducible apply Keeps.ite
    | (intro _ _ _)
    | (intro _ _)
    | with_reducible refine Keeps.mk' ?_ rfl rfl

theorem keeps_promote {z s : State} (hK : Keeps z s) : Keeps z (State.promote s) := by
  unfold State.promote
  try dsimp only
  repeat' first
    | with_reducible assumption
    | with_reducible apply keeps_lead
    | with_reducible apply keeps_toDpx
    | with_reducible apply keeps_raiseLater
    | (intro _ _ _)
    | (intro _ _)
    | with_reducible refine Keeps.mk' ?_ rfl rfl

theorem keeps_juryCount {z s : State} (hK : Keeps z s) : Keeps z (State.juryCount s) := by
  unfold State.juryCount
  try dsimp only
  repeat' first
    | with_reducible assumption
    | with_reducible apply keeps_seeTier
    | with_reducible apply keeps_put
    | with_reducible apply keeps_promote
    | with_reducible apply keeps_demoteLater
    | with_reducible apply Keeps.foldlFst
    | with_reducible apply Keeps.foldl
    | with_reducible apply Keeps.when
    | with_reducible apply Keeps.ite
    | (intro _ _ _)
    | (intro _ _)
    | with_reducible refine Keeps.mk' ?_ rfl rfl

theorem keeps_swapRequest {z s : State} (hK : Keeps z s) : Keeps z (State.swapRequest s) := by
  unfold State.swapRequest
  try dsimp only
  repeat' first
    | with_reducible assumption
    | with_reducible apply keeps_put
    | with_reducible apply keeps_swapEnd
    | with_reducible apply keeps_setFlag
    | with_reducible apply Keeps.ite
    | (intro _ _ _)
    | (intro _ _)
    | with_reducible refine Keeps.mk' ?_ rfl rfl

theorem keeps_swapCancelDpx {z s : State} (hK : Keeps z s) : Keeps z (State.swapCancelDpx s) := by
  unfold State.swapCancelDpx
  try dsimp only
  repeat' first
    | with_reducible assumption
    | with_reducible apply keeps_swapAbort
    | with_reducible apply keeps_raiseDue
    | with_reducible apply Keeps.when
    | (intro _ _ _)
    | (intro _ _)
    | with_reducible refine Keeps.mk' ?_ rfl rfl

theorem keeps_swapCheck {z s : State} (hK : Keeps z s) : Keeps z (State.swapCheck s) := by
  unfold State.swapCheck
  try dsimp only
  repeat' first
    | with_reducible assumption
    | with_reducible apply keeps_swapAbort
    | with_reducible apply Keeps.when
    | (intro _ _ _)
    | (intro _ _)
    | with_reducible refine Keeps.mk' ?_ rfl rfl

theorem keeps_swapAtW {z s : State} (hK : Keeps z s) : Keeps z (State.swapAtW s) := by
  unfold State.swapAtW
  try dsimp only
  repeat' first
    | with_reducible assumption
    | with_reducible apply keeps_put
    | with_reducible apply keeps_setFlag
    | with_reducible apply keeps_giveUpRoot
    | with_reducible apply keeps_toDpx
    | with_reducible apply keeps_selectUp
    | with_reducible apply keeps_lead
    | with_reducible apply keeps_takeHost
    | with_reducible apply keeps_takeSource
    | with_reducible apply keeps_recheckHeld
    | with_reducible apply keeps_raiseLater
    | with_reducible apply keeps_roleRefresh
    | with_reducible apply Keeps.ite
    | (intro _ _ _)
    | (intro _ _)
    | with_reducible refine Keeps.mk' ?_ rfl rfl

theorem keeps_promoteAtP {z s : State} (hK : Keeps z s) : Keeps z (State.promoteAtP s) := by
  unfold State.promoteAtP
  try dsimp only
  repeat' first
    | with_reducible assumption
    | with_reducible apply keeps_promote
    | with_reducible apply keeps_takeHost
    | with_reducible apply keeps_takeSource
    | with_reducible apply keeps_recheckHeld
    | with_reducible apply Keeps.wr
    | with_reducible apply Keeps.when
    | (intro _ _ _)
    | (intro _ _)
    | with_reducible refine Keeps.mk' ?_ rfl rfl

theorem keeps_noStandby {z s : State} (hK : Keeps z s) : Keeps z (State.noStandby s) := by
  unfold State.noStandby
  try dsimp only
  repeat' first
    | with_reducible assumption
    | with_reducible apply keeps_runUp
    | with_reducible apply keeps_raise
    | with_reducible apply Keeps.when
    | (intro _ _ _)
    | (intro _ _)
    | with_reducible refine Keeps.mk' ?_ rfl rfl

theorem keeps_forwardHealth {z s : State} (hK : Keeps z s) (origin : Nat) (payload : List Byte) : Keeps z (State.forwardHealth s origin payload) := by
  unfold State.forwardHealth
  try dsimp only
  repeat' first
    | with_reducible assumption
    | with_reducible apply keeps_report
    | with_reducible apply Keeps.when
    | with_reducible apply Keeps.ite
    | (intro _ _ _)
    | (intro _ _)
    | with_reducible refine Keeps.mk' ?_ rfl rfl

theorem keeps_healthReport {z s0 : State} (hK : Keeps z s0) : Keeps z (State.healthReport s0) := by
  unfold State.healthReport
  try dsimp only
  repeat' first
    | with_reducible assumption
    | with_reducible apply keeps_runToTick
    | with_reducible apply keeps_wrAll
    | with_reducible apply keeps_setFlag
    | with_reducible apply keeps_forwardHealth
    | with_reducible apply keeps_relay
    | with_reducible apply Keeps.when
    | with_reducible apply Keeps.ite
    | (intro _ _ _)
    | (intro _ _)
    | with_reducible refine Keeps.mk' ?_ rfl rfl

theorem keeps_selfCheck {z s : State} (hK : Keeps z s) (ok : Bool) : Keeps z (State.selfCheck s ok) := by
  unfold State.selfCheck
  try dsimp only
  repeat' first
    | with_reducible assumption
    | with_reducible apply keeps_raise
    | with_reducible apply Keeps.when
    | (intro _ _ _)
    | (intro _ _)
    | with_reducible refine Keeps.mk' ?_ rfl rfl

theorem keeps_dpxCntClr {z s : State} (hK : Keeps z s) : Keeps z (State.dpxCntClr s) := by
  unfold State.dpxCntClr
  try dsimp only
  repeat' first
    | with_reducible assumption
    | with_reducible apply Keeps.wr
    | with_reducible apply Keeps.when
    | (intro _ _ _)
    | (intro _ _)
    | with_reducible refine Keeps.mk' ?_ rfl rfl

theorem keeps_batchReport {z s : State} (hK : Keeps z s) (id c : Word) (entries : List (Nat × List Word)) : Keeps z (State.batchReport s id c entries) := by
  unfold State.batchReport
  try dsimp only
  repeat' first
    | with_reducible assumption
    | with_reducible apply keeps_report
    | with_reducible apply Keeps.foldlFst
    | with_reducible apply Keeps.foldl
    | (intro _ _ _)
    | (intro _ _)
    | with_reducible refine Keeps.mk' ?_ rfl rfl

theorem keeps_failoverLedger {z s : State} (hK : Keeps z s) (got : List (BitVec 8 × List (List Word))) : Keeps z (State.failoverLedger s got) := by
  unfold State.failoverLedger
  try dsimp only
  repeat' first
    | with_reducible assumption
    | with_reducible apply keeps_report
    | with_reducible apply keeps_batchReport
    | with_reducible apply Keeps.foldlFst
    | with_reducible apply Keeps.foldl
    | with_reducible apply Keeps.ite
    | with_reducible apply Keeps.iteFst
    | (intro _ _ _)
    | (intro _ _)
    | with_reducible refine Keeps.mk' ?_ rfl rfl

end Sys2Proof.Machine
end

