-- ==== Sys2Proof/Laws/KeepRing.lean ====
section
/-! SUPPORT. Laws/KeepRing.lean: `Keeps` of the operations of Machine/Ring.lean, Machine/Boundary.lean, Machine/Servo.lean, Machine/Metering.lean. -/
namespace Sys2Proof.Machine
set_option Elab.async false

theorem keeps_setUnfold {z s : State} (hK : Keeps z s) (y : Bool) (u : Option Word) : Keeps z (State.setUnfold s y u) := by
  unfold State.setUnfold
  try dsimp only
  repeat' first
    | with_reducible assumption
    | with_reducible apply keeps_setFlag
    | with_reducible apply Keeps.wr
    | with_reducible apply Keeps.ite
    | (intro _ _ _)
    | (intro _ _)
    | split
    | with_reducible refine Keeps.mk' ?_ rfl rfl

theorem keeps_ringAudit {z s : State} (hK : Keeps z s) : Keeps z (State.ringAudit s) := by
  unfold State.ringAudit
  try dsimp only
  repeat' first
    | with_reducible assumption
    | with_reducible apply keeps_raiseLater
    | with_reducible apply Keeps.emit
    | with_reducible apply Keeps.foldlFst
    | with_reducible apply Keeps.foldl
    | with_reducible apply Keeps.when
    | with_reducible apply Keeps.ite
    | (intro _ _ _)
    | (intro _ _)
    | with_reducible refine Keeps.mk' ?_ rfl rfl

theorem keeps_foldPort {z s : State} (hK : Keeps z s) (p : Nat) : Keeps z (State.foldPort s p) := by
  unfold State.foldPort
  try dsimp only
  repeat' first
    | with_reducible assumption
    | with_reducible apply keeps_setUnfold
    | with_reducible apply keeps_setRingState
    | with_reducible apply keeps_bumpReg
    | with_reducible apply keeps_ringAudit
    | with_reducible apply keeps_raiseDue
    | with_reducible apply keeps_selectUp
    | with_reducible apply Keeps.ite
    | (intro _ _ _)
    | (intro _ _)
    | with_reducible refine Keeps.mk' ?_ rfl rfl

theorem keeps_unfoldTake {z s : State} (hK : Keeps z s) (y : Bool) (u : Word) : Keeps z (State.unfoldTake s y u) := by
  unfold State.unfoldTake
  try dsimp only
  repeat' first
    | with_reducible assumption
    | with_reducible apply keeps_setUnfold
    | with_reducible apply Keeps.when
    | (intro _ _ _)
    | (intro _ _)
    | with_reducible refine Keeps.mk' ?_ rfl rfl

theorem keeps_unfoldNamed {z s : State} (hK : Keeps z s) (y : Bool) : Keeps z (State.unfoldNamed s y) := by
  unfold State.unfoldNamed
  try dsimp only
  repeat' first
    | with_reducible assumption
    | with_reducible apply keeps_setUnfold
    | with_reducible apply keeps_unfoldTake
    | with_reducible apply Keeps.when
    | with_reducible apply Keeps.ite
    | (intro _ _ _)
    | (intro _ _)
    | with_reducible refine Keeps.mk' ?_ rfl rfl

theorem keeps_reportsOpen {z s : State} (hK : Keeps z s) (y : Bool) : Keeps z (State.reportsOpen s y) := by
  unfold State.reportsOpen
  try dsimp only
  repeat' first
    | with_reducible assumption
    | with_reducible apply Keeps.foldlFst
    | with_reducible apply Keeps.foldl
    | with_reducible apply Keeps.ite
    | with_reducible apply Keeps.iteFst
    | (intro _ _ _)
    | (intro _ _)
    | with_reducible refine Keeps.mk' ?_ rfl rfl

theorem keeps_unfoldAt {z s : State} (hK : Keeps z s) (y : Bool) : Keeps z (State.unfoldAt s y) := by
  unfold State.unfoldAt
  try dsimp only
  repeat' first
    | with_reducible assumption
    | with_reducible apply keeps_setUnfold
    | with_reducible apply keeps_reportsOpen
    | with_reducible apply keeps_setRingState
    | with_reducible apply Keeps.when
    | with_reducible apply Keeps.ite
    | (intro _ _ _)
    | (intro _ _)
    | with_reducible refine Keeps.mk' ?_ rfl rfl

theorem keeps_takeReport {z s : State} (hK : Keeps z s) (q : Nat) (v : Word) : Keeps z (State.takeReport s q v) := by
  unfold State.takeReport
  try dsimp only
  repeat' first
    | with_reducible assumption
    | with_reducible apply keeps_setUnfold
    | with_reducible apply Keeps.when
    | with_reducible apply Keeps.ite
    | with_reducible apply Keeps.iteFst
    | (intro _ _ _)
    | (intro _ _)
    | split
    | with_reducible refine Keeps.mk' ?_ rfl rfl

theorem keeps_laneCount {z s : State} (hK : Keeps z s) (p l : Nat) (found : Option Nat) : Keeps z (State.laneCount s p l found) := by
  unfold State.laneCount
  try dsimp only
  repeat' first
    | with_reducible assumption
    | with_reducible apply keeps_bumpReg
    | (intro _ _ _)
    | (intro _ _)
    | split
    | with_reducible refine Keeps.mk' ?_ rfl rfl

theorem keeps_markRuns {z s : State} (hK : Keeps z s) (p l : Nat) (mark : Bool) : Keeps z (State.markRuns s p l mark) := by
  unfold State.markRuns
  try dsimp only
  repeat' first
    | with_reducible assumption
    | with_reducible apply keeps_setLane
    | with_reducible apply keeps_setPort
    | with_reducible apply keeps_foldPort
    | with_reducible apply keeps_ringUp
    | with_reducible apply Keeps.ite
    | (intro _ _ _)
    | (intro _ _)
    | with_reducible refine Keeps.mk' ?_ rfl rfl

theorem keeps_forwardCw {z s : State} (hK : Keeps z s) (p l : Nat) (w : List Nat) (raw : List Byte) : Keeps z (State.forwardCw s p l w raw) := by
  unfold State.forwardCw
  try dsimp only
  repeat' first
    | with_reducible assumption
    | with_reducible apply keeps_sendSyms
    | with_reducible apply keeps_bumpReg
    | with_reducible apply Keeps.foldlFst
    | with_reducible apply Keeps.foldl
    | with_reducible apply Keeps.when
    | with_reducible apply Keeps.ite
    | (intro _ _ _)
    | (intro _ _)
    | with_reducible refine Keeps.mk' ?_ rfl rfl

theorem keeps_codewordIn {z s : State} (hK : Keeps z s) (p l : Nat) (lv : List Int) : Keeps z (State.codewordIn s p l lv) := by
  unfold State.codewordIn
  try dsimp only
  repeat' first
    | with_reducible assumption
    | with_reducible apply keeps_setLane
    | with_reducible apply keeps_laneCount
    | with_reducible apply keeps_hand
    | with_reducible apply keeps_markRuns
    | with_reducible apply keeps_forwardCw
    | with_reducible apply Keeps.when
    | with_reducible apply Keeps.ite
    | with_reducible apply Keeps.iteFst
    | (intro _ _ _)
    | (intro _ _)
    | split
    | with_reducible refine Keeps.mk' ?_ rfl rfl

theorem keeps_lineIn {z s : State} (hK : Keeps z s) (p l : Nat) (lv : List Int) : Keeps z (State.lineIn s p l lv) := by
  unfold State.lineIn
  try dsimp only
  repeat' first
    | with_reducible assumption
    | with_reducible apply keeps_frameHears
    | with_reducible apply keeps_trainHears
    | with_reducible apply keeps_codewordIn
    | with_reducible apply Keeps.ite
    | (intro _ _ _)
    | (intro _ _)
    | with_reducible refine Keeps.mk' ?_ rfl rfl

theorem keeps_nbrSend {z s : State} (hK : Keeps z s) (p : Nat) : Keeps z (State.nbrSend s p) := by
  unfold State.nbrSend
  try dsimp only
  repeat' first
    | with_reducible assumption
    | with_reducible apply keeps_setLink
    | with_reducible apply keeps_sendLine
    | with_reducible apply Keeps.ite
    | (intro _ _ _)
    | (intro _ _)
    | split
    | with_reducible refine Keeps.mk' ?_ rfl rfl

theorem keeps_nbrReceived {z s : State} (hK : Keeps z s) (t2 : BitVec 48) (a : Arrival) : Keeps z (State.nbrReceived s t2 a) := by
  unfold State.nbrReceived
  try dsimp only
  repeat' first
    | with_reducible assumption
    | with_reducible apply keeps_setLink
    | with_reducible apply keeps_selectUp
    | with_reducible apply Keeps.ite
    | (intro _ _ _)
    | (intro _ _)
    | split
    | with_reducible refine Keeps.mk' ?_ rfl rfl

theorem keeps_sendItems {z s : State} (hK : Keeps z s) (y east : Bool) (lane typ dst tag word : Nat) (l : List Item) : Keeps z (State.sendItems s y east lane typ dst tag word l) := by
  unfold State.sendItems
  try dsimp only
  repeat' first
    | with_reducible assumption
    | with_reducible apply keeps_sendDir
    | with_reducible apply Keeps.foldlFst
    | with_reducible apply Keeps.foldl
    | with_reducible apply Keeps.ite
    | (intro _ _ _)
    | (intro _ _)
    | split
    | with_reducible refine Keeps.mk' ?_ rfl rfl

theorem keeps_upWave {z s : State} (hK : Keeps z s) : Keeps z (State.upWave s) := by
  unfold State.upWave
  try dsimp only
  repeat' first
    | with_reducible assumption
    | with_reducible apply keeps_runIn
    | with_reducible apply keeps_sendDir
    | with_reducible apply keeps_sendItems
    | with_reducible apply Keeps.useFree
    | with_reducible apply Keeps.foldlFst
    | with_reducible apply Keeps.foldl
    | with_reducible apply Keeps.when
    | with_reducible apply Keeps.ite
    | with_reducible apply Keeps.iteFst
    | (intro _ _ _)
    | (intro _ _)
    | with_reducible refine Keeps.mk' ?_ rfl rfl

theorem keeps_takeUp1 {z s : State} (hK : Keeps z s) (ring : Ring) (src : Nat) (it : RawItem) : Keeps z (State.takeUp1 s ring src it) := by
  unfold State.takeUp1
  try dsimp only
  repeat' first
    | with_reducible assumption
    | with_reducible apply keeps_sealFail
    | with_reducible apply keeps_takeSafeItem
    | with_reducible apply keeps_bumpReg
    | with_reducible apply keeps_raiseLater
    | with_reducible apply keeps_takeReport
    | with_reducible apply Keeps.when
    | with_reducible apply Keeps.ite
    | (intro _ _ _)
    | (intro _ _)
    | split
    | with_reducible refine Keeps.mk' ?_ rfl rfl

theorem keeps_upReceived {z s : State} (hK : Keeps z s) (a : Arrival) : Keeps z (State.upReceived s a) := by
  unfold State.upReceived
  try dsimp only
  repeat' first
    | with_reducible assumption
    | with_reducible apply keeps_takeUp1
    | with_reducible apply keeps_raiseDue
    | with_reducible apply keeps_seeTier
    | with_reducible apply Keeps.foldlFst
    | with_reducible apply Keeps.foldl
    | with_reducible apply Keeps.when
    | with_reducible apply Keeps.ite
    | with_reducible apply Keeps.iteFst
    | (intro _ _ _)
    | (intro _ _)
    | with_reducible refine Keeps.mk' ?_ rfl rfl

theorem keeps_upMissing {z s : State} (hK : Keeps z s) (k : Nat × Nat) : Keeps z (State.upMissing s k) := by
  unfold State.upMissing
  try dsimp only
  repeat' first
    | with_reducible assumption
    | with_reducible apply keeps_bumpReg
    | with_reducible apply keeps_wrN
    | with_reducible apply keeps_raiseLater
    | with_reducible apply Keeps.wr
    | (intro _ _ _)
    | (intro _ _)
    | with_reducible refine Keeps.mk' ?_ rfl rfl

theorem keeps_tripCheck {z s : State} (hK : Keeps z s) : Keeps z (State.tripCheck s) := by
  unfold State.tripCheck
  try dsimp only
  repeat' first
    | with_reducible assumption
    | with_reducible apply keeps_raiseLater
    | with_reducible apply Keeps.foldlFst
    | with_reducible apply Keeps.foldl
    | with_reducible apply Keeps.when
    | with_reducible apply Keeps.ite
    | (intro _ _ _)
    | (intro _ _)
    | with_reducible refine Keeps.mk' ?_ rfl rfl

theorem keeps_uplinkTaken {z s : State} (hK : Keeps z s) : Keeps z (State.uplinkTaken s) := by
  unfold State.uplinkTaken
  try dsimp only
  repeat' first
    | with_reducible assumption
    | with_reducible apply keeps_runIn
    | with_reducible apply keeps_takeAllRx
    | with_reducible apply keeps_upReceived
    | (intro _ _ _)
    | (intro _ _)
    | with_reducible refine Keeps.mk' ?_ rfl rfl

theorem keeps_uplinkJudge {z s : State} (hK : Keeps z s) : Keeps z (State.uplinkJudge s) := by
  unfold State.uplinkJudge
  try dsimp only
  repeat' first
    | with_reducible assumption
    | with_reducible apply keeps_upMissing
    | with_reducible apply keeps_tripCheck
    | with_reducible apply keeps_publishDerating
    | with_reducible apply keeps_safCloseUplink
    | with_reducible apply keeps_glazeCurrent
    | with_reducible apply keeps_juryCount
    | with_reducible apply keeps_ringAudit
    | with_reducible apply keeps_raiseDue
    | with_reducible apply Keeps.foldlFst
    | with_reducible apply Keeps.foldl
    | with_reducible apply Keeps.ite
    | with_reducible apply Keeps.iteFst
    | (intro _ _ _)
    | (intro _ _)
    | with_reducible refine Keeps.mk' ?_ rfl rfl

theorem keeps_uplinkClosed {z s : State} (hK : Keeps z s) : Keeps z (State.uplinkClosed s) := by
  unfold State.uplinkClosed
  try dsimp only
  repeat' first
    | with_reducible assumption
    | (intro _ _ _)
    | (intro _ _)
    | with_reducible refine Keeps.mk' ?_ rfl rfl

theorem keeps_uplinkDeadline {z s : State} (hK : Keeps z s) : Keeps z (State.uplinkDeadline s) := by
  unfold State.uplinkDeadline
  try dsimp only
  repeat' first
    | with_reducible assumption
    | with_reducible apply keeps_uplinkTaken
    | with_reducible apply keeps_uplinkJudge
    | with_reducible apply keeps_uplinkClosed
    | with_reducible apply Keeps.ite
    | (intro _ _ _)
    | (intro _ _)
    | with_reducible refine Keeps.mk' ?_ rfl rfl

theorem keeps_downWave {z s : State} (hK : Keeps z s) : Keeps z (State.downWave s) := by
  unfold State.downWave
  try dsimp only
  repeat' first
    | with_reducible assumption
    | with_reducible apply keeps_runIn
    | with_reducible apply keeps_balLate
    | with_reducible apply keeps_sendHb
    | with_reducible apply keeps_sendItems
    | with_reducible apply Keeps.foldlFst
    | with_reducible apply Keeps.foldl
    | with_reducible apply Keeps.when
    | with_reducible apply Keeps.ite
    | with_reducible apply Keeps.iteFst
    | (intro _ _ _)
    | (intro _ _)
    | with_reducible refine Keeps.mk' ?_ rfl rfl

theorem keeps_spliceTake {z s : State} (hK : Keeps z s) (b : Word) (pos : Nat) : Keeps z (State.spliceTake s b pos) := by
  unfold State.spliceTake
  try dsimp only
  repeat' first
    | with_reducible assumption
    | with_reducible apply Keeps.when
    | (intro _ _ _)
    | (intro _ _)
    | with_reducible refine Keeps.mk' ?_ rfl rfl

theorem keeps_takeName {z s : State} (hK : Keeps z s) (idx : Nat) (v : Word) : Keeps z (State.takeName s idx v) := by
  unfold State.takeName
  try dsimp only
  repeat' first
    | with_reducible assumption
    | with_reducible apply keeps_unfoldTake
    | with_reducible apply keeps_spliceTake
    | with_reducible apply Keeps.when
    | with_reducible apply Keeps.ite
    | (intro _ _ _)
    | (intro _ _)
    | with_reducible refine Keeps.mk' ?_ rfl rfl

theorem keeps_takeDn1 {z s : State} (hK : Keeps z s) (src d : Nat) (it : RawItem) : Keeps z (State.takeDn1 s src d it) := by
  unfold State.takeDn1
  try dsimp only
  repeat' first
    | with_reducible assumption
    | with_reducible apply keeps_bumpReg
    | with_reducible apply keeps_raiseLater
    | with_reducible apply keeps_sealFail
    | with_reducible apply keeps_takeName
    | with_reducible apply Keeps.wr
    | with_reducible apply Keeps.ite
    | (intro _ _ _)
    | (intro _ _)
    | split
    | with_reducible refine Keeps.mk' ?_ rfl rfl

theorem keeps_dnReceived {z s : State} (hK : Keeps z s) (a : Arrival) : Keeps z (State.dnReceived s a) := by
  unfold State.dnReceived
  try dsimp only
  repeat' first
    | with_reducible assumption
    | with_reducible apply keeps_sendDir
    | with_reducible apply keeps_bump
    | with_reducible apply keeps_takeDn1
    | with_reducible apply keeps_raiseDue
    | with_reducible apply Keeps.foldlFst
    | with_reducible apply Keeps.foldl
    | with_reducible apply Keeps.when
    | with_reducible apply Keeps.ite
    | (intro _ _ _)
    | (intro _ _)
    | with_reducible refine Keeps.mk' ?_ rfl rfl

theorem keeps_takeAck1 {z s : State} (hK : Keeps z s) (src : Nat) (it : RawItem) : Keeps z (State.takeAck1 s src it) := by
  unfold State.takeAck1
  try dsimp only
  repeat' first
    | with_reducible assumption
    | with_reducible apply keeps_sealFail
    | with_reducible apply keeps_bumpReg
    | with_reducible apply keeps_raiseLater
    | with_reducible apply Keeps.when
    | with_reducible apply Keeps.ite
    | (intro _ _ _)
    | (intro _ _)
    | split
    | with_reducible refine Keeps.mk' ?_ rfl rfl

theorem keeps_ackReceived {z s : State} (hK : Keeps z s) (a : Arrival) : Keeps z (State.ackReceived s a) := by
  unfold State.ackReceived
  try dsimp only
  repeat' first
    | with_reducible assumption
    | with_reducible apply keeps_setMember
    | with_reducible apply keeps_takeAck1
    | with_reducible apply keeps_raiseDue
    | with_reducible apply Keeps.foldlFst
    | with_reducible apply Keeps.foldl
    | with_reducible apply Keeps.ite
    | (intro _ _ _)
    | (intro _ _)
    | with_reducible refine Keeps.mk' ?_ rfl rfl

theorem keeps_rngCntClr {z s : State} (hK : Keeps z s) : Keeps z (State.rngCntClr s) := by
  unfold State.rngCntClr
  try dsimp only
  repeat' first
    | with_reducible assumption
    | with_reducible apply Keeps.wr
    | with_reducible apply Keeps.foldlFst
    | with_reducible apply Keeps.foldl
    | (intro _ _ _)
    | (intro _ _)
    | with_reducible refine Keeps.mk' ?_ rfl rfl

theorem keeps_divertAll {z s : State} (hK : Keeps z s) (l : List (Fin 4 × List Byte)) : Keeps z (State.divertAll s l) := by
  unfold State.divertAll
  try dsimp only
  repeat' first
    | with_reducible assumption
    | with_reducible apply keeps_divert
    | with_reducible apply Keeps.foldlFst
    | with_reducible apply Keeps.foldl
    | (intro _ _ _)
    | (intro _ _)
    | with_reducible refine Keeps.mk' ?_ rfl rfl

theorem keeps_admFail {z s : State} (hK : Keeps z s) (pos adm reason : Nat) : Keeps z (State.admFail s pos adm reason) := by
  unfold State.admFail
  try dsimp only
  repeat' first
    | with_reducible assumption
    | with_reducible apply keeps_setMember
    | with_reducible apply keeps_setAsk
    | with_reducible apply keeps_raise
    | with_reducible apply Keeps.emit
    | with_reducible apply Keeps.ite
    | (intro _ _ _)
    | (intro _ _)
    | with_reducible refine Keeps.mk' ?_ rfl rfl

theorem keeps_admPass {z s : State} (hK : Keeps z s) (pos : Nat) : Keeps z (State.admPass s pos) := by
  unfold State.admPass
  try dsimp only
  repeat' first
    | with_reducible assumption
    | with_reducible apply keeps_setMember
    | with_reducible apply Keeps.emit
    | (intro _ _ _)
    | (intro _ _)
    | with_reducible refine Keeps.mk' ?_ rfl rfl

theorem keeps_admRequest {z s : State} (hK : Keeps z s) (pos epoch minEpoch : Nat) (dig : BitVec 64) (listsUs timeOk : Bool) (device : BitVec 64) : Keeps z (State.admRequest s pos epoch minEpoch dig listsUs timeOk device) := by
  unfold State.admRequest
  try dsimp only
  repeat' first
    | with_reducible assumption
    | with_reducible apply keeps_admFail
    | with_reducible apply keeps_setAsk
    | with_reducible apply keeps_admPass
    | with_reducible apply Keeps.ite
    | (intro _ _ _)
    | (intro _ _)
    | with_reducible refine Keeps.mk' ?_ rfl rfl

theorem keeps_admRetry {z s : State} (hK : Keeps z s) (pos : Nat) (timeOk : Bool) : Keeps z (State.admRetry s pos timeOk) := by
  unfold State.admRetry
  try dsimp only
  repeat' first
    | with_reducible assumption
    | with_reducible apply keeps_admPass
    | with_reducible apply keeps_admFail
    | with_reducible apply Keeps.when
    | with_reducible apply Keeps.ite
    | (intro _ _ _)
    | (intro _ _)
    | with_reducible refine Keeps.mk' ?_ rfl rfl

theorem keeps_toSpur {z s : State} (hK : Keeps z s) (y : Bool) : Keeps z (State.toSpur s y) := by
  unfold State.toSpur
  try dsimp only
  repeat' first
    | with_reducible assumption
    | with_reducible apply keeps_setRingState
    | with_reducible apply Keeps.when
    | (intro _ _ _)
    | (intro _ _)
    | with_reducible refine Keeps.mk' ?_ rfl rfl

theorem keeps_rampLoad {z s : State} (hK : Keeps z s) : Keeps z (State.rampLoad s) := by
  unfold State.rampLoad
  try dsimp only
  repeat' first
    | with_reducible assumption
    | with_reducible apply keeps_setFlag
    | (intro _ _ _)
    | (intro _ _)
    | split
    | with_reducible refine Keeps.mk' ?_ rfl rfl

theorem keeps_admGranted {z s : State} (hK : Keeps z s) (head : Nat) (scn : Word) (stime : BitVec 48) (next tier : Nat) (stnPb : Bool) : Keeps z (State.admGranted s head scn stime next tier stnPb) := by
  unfold State.admGranted
  try dsimp only
  repeat' first
    | with_reducible assumption
    | with_reducible apply keeps_admAnswer
    | with_reducible apply keeps_carriersMoved
    | with_reducible apply keeps_setFlag
    | with_reducible apply keeps_rampLoad
    | with_reducible apply keeps_put
    | with_reducible apply keeps_toDpx
    | with_reducible apply keeps_toSpur
    | with_reducible apply keeps_toStage
    | with_reducible apply keeps_selectUp
    | with_reducible apply keeps_trialPass
    | with_reducible apply Keeps.wr
    | with_reducible apply Keeps.when
    | with_reducible apply Keeps.ite
    | (intro _ _ _)
    | (intro _ _)
    | with_reducible refine Keeps.mk' ?_ rfl rfl

theorem keeps_admDenied {z s : State} (hK : Keeps z s) (head : Nat) (held : Bool) (reason : Nat) : Keeps z (State.admDenied s head held reason) := by
  unfold State.admDenied
  try dsimp only
  repeat' first
    | with_reducible assumption
    | with_reducible apply keeps_admAnswer
    | with_reducible apply keeps_put
    | with_reducible apply keeps_roleRefresh
    | with_reducible apply keeps_toStage
    | with_reducible apply Keeps.when
    | with_reducible apply Keeps.ite
    | (intro _ _ _)
    | (intro _ _)
    | with_reducible refine Keeps.mk' ?_ rfl rfl

theorem keeps_fullNamed {z s : State} (hK : Keeps z s) (locked unlocked : List (BitVec 8)) : Keeps z (State.fullNamed s locked unlocked) := by
  unfold State.fullNamed
  try dsimp only
  repeat' first
    | with_reducible assumption
    | with_reducible apply Keeps.emit
    | with_reducible apply Keeps.when
    | with_reducible apply Keeps.ite
    | (intro _ _ _)
    | (intro _ _)
    | with_reducible refine Keeps.mk' ?_ rfl rfl

theorem keeps_stWaitExpiry {z s : State} (hK : Keeps z s) : Keeps z (State.stWaitExpiry s) := by
  unfold State.stWaitExpiry
  refine Keeps.when hK fun b hb => ?_
  extract_lets s1 src s2
  exact Keeps.when (Keeps.mk' (b := s1) (keeps_runUp hb _) rfl rfl) fun c hc => hc.emit _

theorem keeps_joinFull {z s : State} (hK : Keeps z s) : Keeps z (State.joinFull s) := by
  unfold State.joinFull
  try dsimp only
  repeat' first
    | with_reducible assumption
    | with_reducible apply keeps_enterFull
    | with_reducible apply Keeps.when
    | (intro _ _ _)
    | (intro _ _)
    | with_reducible refine Keeps.mk' ?_ rfl rfl

theorem keeps_fullStep {z s : State} (hK : Keeps z s) : Keeps z (State.fullStep s) := by
  unfold State.fullStep
  try dsimp only
  repeat' first
    | with_reducible assumption
    | with_reducible apply keeps_modeSwitch
    | with_reducible apply keeps_setMember
    | with_reducible apply keeps_balFull
    | with_reducible apply keeps_joinFull
    | with_reducible apply keeps_setFlag
    | with_reducible apply keeps_lengthChanged
    | with_reducible apply keeps_raiseLater
    | with_reducible apply keeps_leaveService
    | with_reducible apply Keeps.foldlFst
    | with_reducible apply Keeps.foldl
    | with_reducible apply Keeps.forUpTo
    | with_reducible apply Keeps.when
    | with_reducible apply Keeps.ite
    | (intro _ _ _)
    | (intro _ _)
    | split
    | with_reducible refine Keeps.mk' ?_ rfl rfl

theorem keeps_spliceNamed {z s : State} (hK : Keeps z s) (pos : Nat) (locked : Bool) : Keeps z (State.spliceNamed s pos locked) := by
  unfold State.spliceNamed
  try dsimp only
  repeat' first
    | with_reducible assumption
    | with_reducible apply keeps_spliceTake
    | with_reducible apply Keeps.when
    | (intro _ _ _)
    | (intro _ _)
    | with_reducible refine Keeps.mk' ?_ rfl rfl

theorem keeps_spliceCancel {z s : State} (hK : Keeps z s) (pos : Nat) : Keeps z (State.spliceCancel s pos) := by
  unfold State.spliceCancel
  try dsimp only
  repeat' first
    | with_reducible assumption
    | with_reducible apply keeps_modeSwitch
    | with_reducible apply keeps_put
    | with_reducible apply keeps_setMember
    | with_reducible apply Keeps.foldlFst
    | with_reducible apply Keeps.foldl
    | with_reducible apply Keeps.when
    | (intro _ _ _)
    | (intro _ _)
    | with_reducible refine Keeps.mk' ?_ rfl rfl

theorem keeps_spliceOpen {z s : State} (hK : Keeps z s) (pos : Nat) (y : Bool) : Keeps z (State.spliceOpen s pos y) := by
  unfold State.spliceOpen
  try dsimp only
  repeat' first
    | with_reducible assumption
    | with_reducible apply keeps_reportsOpen
    | with_reducible apply keeps_setRingState
    | with_reducible apply Keeps.when
    | with_reducible apply Keeps.ite
    | (intro _ _ _)
    | (intro _ _)
    | with_reducible refine Keeps.mk' ?_ rfl rfl

theorem keeps_spliceEnd {z s : State} (hK : Keeps z s) (pos : Nat) : Keeps z (State.spliceEnd s pos) := by
  unfold State.spliceEnd
  try dsimp only
  repeat' first
    | with_reducible assumption
    | with_reducible apply keeps_spliceOpen
    | with_reducible apply keeps_joinFull
    | with_reducible apply keeps_setMember
    | with_reducible apply Keeps.when
    | (intro _ _ _)
    | (intro _ _)
    | with_reducible refine Keeps.mk' ?_ rfl rfl

theorem keeps_spliceStep {z s : State} (hK : Keeps z s) (bad : Bool) : Keeps z (State.spliceStep s bad) := by
  unfold State.spliceStep
  try dsimp only
  repeat' first
    | with_reducible assumption
    | with_reducible apply keeps_modeSwitch
    | with_reducible apply keeps_spliceCancel
    | with_reducible apply keeps_balPlace
    | with_reducible apply keeps_spliceEnd
    | with_reducible apply Keeps.foldlFst
    | with_reducible apply Keeps.foldl
    | with_reducible apply Keeps.when
    | with_reducible apply Keeps.ite
    | (intro _ _ _)
    | (intro _ _)
    | split
    | with_reducible refine Keeps.mk' ?_ rfl rfl

theorem keeps_applyStaged {z s : State} (hK : Keeps z s) : Keeps z (State.applyStaged s) := by
  unfold State.applyStaged
  try dsimp only
  repeat' first
    | with_reducible assumption
    | with_reducible apply Keeps.foldlFst
    | with_reducible apply Keeps.foldl
    | (intro _ _ _)
    | (intro _ _)
    | with_reducible refine Keeps.mk' ?_ rfl rfl

theorem keeps_serveOrHold {z s : State} (hK : Keeps z s) : Keeps z (State.serveOrHold s) := by
  unfold State.serveOrHold
  try dsimp only
  repeat' first
    | with_reducible assumption
    | with_reducible apply keeps_put
    | with_reducible apply keeps_setFlag
    | with_reducible apply keeps_bump
    | with_reducible apply keeps_raiseLater
    | with_reducible apply Keeps.when
    | with_reducible apply Keeps.ite
    | (intro _ _ _)
    | (intro _ _)
    | with_reducible refine Keeps.mk' ?_ rfl rfl

theorem keeps_backToParBake {z s : State} (hK : Keeps z s) : Keeps z (State.backToParBake s) := by
  unfold State.backToParBake
  try dsimp only
  repeat' first
    | with_reducible assumption
    | with_reducible apply keeps_modeSwitch
    | with_reducible apply keeps_setFlag
    | with_reducible apply keeps_setMember
    | with_reducible apply keeps_toStage
    | with_reducible apply keeps_lengthChanged
    | with_reducible apply Keeps.foldlFst
    | with_reducible apply Keeps.foldl
    | with_reducible apply Keeps.forUpTo
    | with_reducible apply Keeps.when
    | (intro _ _ _)
    | (intro _ _)
    | with_reducible refine Keeps.mk' ?_ rfl rfl

theorem keeps_stationAtMember {z s : State} (hK : Keeps z s) : Keeps z (State.stationAtMember s) := by
  unfold State.stationAtMember
  try dsimp only
  repeat' first
    | with_reducible assumption
    | with_reducible apply keeps_setFlag
    | with_reducible apply keeps_backToParBake
    | with_reducible apply keeps_fltRefresh
    | with_reducible apply Keeps.when
    | with_reducible apply Keeps.ite
    | (intro _ _ _)
    | (intro _ _)
    | split
    | with_reducible refine Keeps.mk' ?_ rfl rfl

theorem keeps_clearAtHead {z s : State} (hK : Keeps z s) : Keeps z (State.clearAtHead s) := by
  unfold State.clearAtHead
  try dsimp only
  repeat' first
    | with_reducible assumption
    | with_reducible apply keeps_backToParBake
    | with_reducible apply keeps_fltRefresh
    | with_reducible apply Keeps.wr
    | with_reducible apply Keeps.when
    | (intro _ _ _)
    | (intro _ _)
    | with_reducible refine Keeps.mk' ?_ rfl rfl

theorem keeps_batchReports {z s : State} (hK : Keeps z s) : Keeps z (State.batchReports s) := by
  unfold State.batchReports
  try dsimp only
  repeat' first
    | with_reducible assumption
    | with_reducible apply keeps_batchReport
    | with_reducible apply Keeps.foldlFst
    | with_reducible apply Keeps.foldl
    | with_reducible apply Keeps.when
    | (intro _ _ _)
    | (intro _ _)
    | split
    | with_reducible refine Keeps.mk' ?_ rfl rfl

theorem keeps_linkCycle {z s : State} (hK : Keeps z s) : Keeps z (State.linkCycle s) := by
  unfold State.linkCycle
  try dsimp only
  repeat' first
    | with_reducible assumption
    | with_reducible apply keeps_setLink
    | with_reducible apply keeps_selectUp
    | with_reducible apply Keeps.forUpTo
    | with_reducible apply Keeps.ite
    | (intro _ _ _)
    | (intro _ _)
    | with_reducible refine Keeps.mk' ?_ rfl rfl

theorem keeps_cycleClear {z s : State} (hK : Keeps z s) : Keeps z (State.cycleClear s) := by
  unfold State.cycleClear
  try dsimp only
  repeat' first
    | with_reducible assumption
    | (intro _ _ _)
    | (intro _ _)
    | with_reducible refine Keeps.mk' ?_ rfl rfl

theorem keeps_boundaryOnce {z s : State} (hK : Keeps z s) (bad : Bool) : Keeps z (State.boundaryOnce s bad) := by
  unfold State.boundaryOnce
  try dsimp only
  repeat' first
    | with_reducible assumption
    | with_reducible apply keeps_fullStep
    | with_reducible apply keeps_spliceStep
    | with_reducible apply keeps_unfoldAt
    | with_reducible apply keeps_applyStaged
    | with_reducible apply keeps_serveOrHold
    | with_reducible apply keeps_stationAtMember
    | with_reducible apply keeps_balMember
    | with_reducible apply keeps_swapCheck
    | with_reducible apply keeps_swapAtW
    | with_reducible apply keeps_promoteAtP
    | with_reducible apply keeps_clearAtHead
    | with_reducible apply keeps_swapAtBoundary
    | with_reducible apply keeps_resync
    | with_reducible apply keeps_offerBoundary
    | with_reducible apply keeps_batchBoundary
    | with_reducible apply keeps_batchReports
    | with_reducible apply keeps_safBoundary
    | with_reducible apply keeps_cycleClear
    | with_reducible apply keeps_linkCycle
    | with_reducible apply keeps_nbrSend
    | with_reducible apply keeps_raiseDue
    | with_reducible apply Keeps.wr
    | with_reducible apply Keeps.forUpTo
    | with_reducible apply Keeps.when
    | (intro _ _ _)
    | (intro _ _)
    | with_reducible refine Keeps.mk' ?_ rfl rfl

theorem keeps_takeEarly {z s : State} (hK : Keeps z s) (typ : Nat) {f : Arrival → State → State}
    (hf : ∀ a b, Keeps z b → Keeps z (f a b)) : Keeps z (State.takeEarly s typ f) := keeps_takeAllRx hK _ hf

theorem keeps_cycleBoundary {z s : State} (hK : Keeps z s) (bad : Bool) : Keeps z (State.cycleBoundary s bad) := by
  unfold State.cycleBoundary
  try dsimp only
  repeat' first
    | with_reducible assumption
    | with_reducible apply keeps_runTo
    | with_reducible apply keeps_takeEarly
    | with_reducible apply keeps_hbReceived
    | with_reducible apply keeps_dnReceived
    | with_reducible apply keeps_boundaryOnce
    | (intro _ _ _)
    | (intro _ _)
    | with_reducible refine Keeps.mk' ?_ rfl rfl

theorem keeps_admission {z s : State} (hK : Keeps z s) (req : AdmissionIn) : Keeps z (s.admission req) := by
  unfold State.admission
  split
  · exact keeps_admRequest hK _ _ _ _ _ _ _
  · exact keeps_admGranted hK _ _ _ _ _ _
  · exact keeps_admDenied hK _ _ _

theorem keeps_takePassed {z s : State} (hK : Keeps z s) (n : Nat) : Keeps z (State.takePassed n s) := by
  induction n generalizing s with
  | zero => exact hK
  | succ n ih => exact Keeps.ite (ih (keeps_boundaryOnce hK _)) hK

theorem keeps_stepTime {z s : State} (hK : Keeps z s) (theta : Frac) : Keeps z (State.stepTime s theta) := by
  unfold State.stepTime
  extract_lets d t src u n s1
  have h1 : Keeps z s1 := Keeps.forUpTo (Keeps.mk' hK rfl rfl) fun _ _ hb => keeps_wrapped hb
  exact Keeps.ite (keeps_carriersMoved (Keeps.mk' hK rfl rfl) _) (keeps_takePassed (keeps_tpoStep (keeps_carriersMoved h1 _)) _)

theorem keeps_servoUpdate {z s : State} (hK : Keeps z s) (theta t : Frac) (kp ki : Nat) : Keeps z (State.servoUpdate s theta t kp ki) := by
  unfold State.servoUpdate
  try dsimp only
  repeat' first
    | with_reducible assumption
    | with_reducible apply keeps_setY
    | with_reducible apply keeps_raise
    | with_reducible apply Keeps.when
    | with_reducible apply Keeps.ite
    | (intro _ _ _)
    | (intro _ _)
    | with_reducible refine Keeps.mk' ?_ rfl rfl

theorem keeps_servoCount {z s : State} (hK : Keeps z s) (theta : Frac) : Keeps z (State.servoCount s theta) := by
  unfold State.servoCount
  try dsimp only
  repeat' first
    | with_reducible assumption
    | with_reducible apply keeps_setServo
    | with_reducible apply keeps_raise
    | with_reducible apply Keeps.when
    | with_reducible apply Keeps.ite
    | (intro _ _ _)
    | (intro _ _)
    | with_reducible refine Keeps.mk' ?_ rfl rfl

theorem keeps_servoStep {z s : State} (hK : Keeps z s) (theta t : Frac) (kp ki : Nat) (host : Bool) : Keeps z (State.servoStep s theta t kp ki host) := by
  unfold State.servoStep
  try dsimp only
  repeat' first
    | with_reducible assumption
    | with_reducible apply keeps_setServo
    | with_reducible apply keeps_setY
    | with_reducible apply keeps_stepTime
    | with_reducible apply keeps_servoUpdate
    | with_reducible apply keeps_servoCount
    | with_reducible apply Keeps.ite
    | (intro _ _ _)
    | (intro _ _)
    | with_reducible refine Keeps.mk' ?_ rfl rfl

theorem keeps_chainCheck {z s : State} (hK : Keeps z s) : Keeps z (State.chainCheck s) := by
  unfold State.chainCheck
  try dsimp only
  repeat' first
    | with_reducible assumption
    | with_reducible apply keeps_raise
    | with_reducible apply keeps_leaveService
    | with_reducible apply Keeps.when
    | (intro _ _ _)
    | (intro _ _)
    | with_reducible refine Keeps.mk' ?_ rfl rfl

theorem keeps_linkMeasurement {z s : State} (hK : Keeps z s) (p : Nat) : Keeps z (State.linkMeasurement s p) := by
  unfold State.linkMeasurement
  try dsimp only
  repeat' first
    | with_reducible assumption
    | with_reducible apply keeps_wrN
    | with_reducible apply keeps_setLink
    | with_reducible apply keeps_selectUp
    | with_reducible apply keeps_setChain
    | with_reducible apply keeps_servoStep
    | with_reducible apply keeps_setFlag
    | with_reducible apply keeps_chainCheck
    | with_reducible apply Keeps.when
    | with_reducible apply Keeps.ite
    | (intro _ _ _)
    | (intro _ _)
    | split
    | with_reducible refine Keeps.mk' ?_ rfl rfl

theorem keeps_offsetWrite {z s : State} (hK : Keeps z s) (v : Nat) : Keeps z (State.offsetWrite s v) := by
  unfold State.offsetWrite
  try dsimp only
  repeat' first
    | with_reducible assumption
    | with_reducible apply keeps_setFlag
    | with_reducible apply keeps_hostBack
    | with_reducible apply keeps_servoStep
    | with_reducible apply Keeps.ite
    | (intro _ _ _)
    | (intro _ _)
    | with_reducible refine Keeps.mk' ?_ rfl rfl

theorem keeps_setMtrAcc {z s : State} (hK : Keeps z s) (k : Nat) (v : MtrAcc) : Keeps z (State.setMtrAcc s k v) := by
  unfold State.setMtrAcc
  try dsimp only
  repeat' first
    | with_reducible assumption
    | (intro _ _ _)
    | (intro _ _)
    | with_reducible refine Keeps.mk' ?_ rfl rfl

theorem keeps_setPls {z s : State} (hK : Keeps z s) (n : Nat) (v : PlsSt) : Keeps z (State.setPls s n v) := by
  unfold State.setPls
  try dsimp only
  repeat' first
    | with_reducible assumption
    | (intro _ _ _)
    | (intro _ _)
    | with_reducible refine Keeps.mk' ?_ rfl rfl

theorem keeps_setDfc {z s : State} (hK : Keeps z s) (n : Nat) (v : DfcSt) : Keeps z (State.setDfc s n v) := by
  unfold State.setDfc
  try dsimp only
  repeat' first
    | with_reducible assumption
    | (intro _ _ _)
    | (intro _ _)
    | with_reducible refine Keeps.mk' ?_ rfl rfl

theorem keeps_cycleEnd {z s : State} (hK : Keeps z s) : Keeps z (State.cycleEnd s) := by
  unfold State.cycleEnd
  try dsimp only
  repeat' first
    | with_reducible assumption
    | with_reducible apply keeps_wrN
    | with_reducible apply Keeps.wr
    | with_reducible apply Keeps.useMany
    | with_reducible apply Keeps.foldlFst
    | with_reducible apply Keeps.foldl
    | with_reducible apply Keeps.forUpTo
    | with_reducible apply Keeps.when
    | with_reducible apply Keeps.ite
    | (intro _ _ _)
    | (intro _ _)
    | with_reducible refine Keeps.mk' ?_ rfl rfl

theorem keeps_track {z s : State} (hK : Keeps z s) (crossing : Bool) : Keeps z (State.track s crossing).1 := by
  unfold State.track
  try dsimp only
  repeat' first
    | with_reducible assumption
    | with_reducible apply keeps_put
    | with_reducible apply keeps_setFlag
    | with_reducible apply keeps_raise
    | with_reducible apply Keeps.when
    | with_reducible apply Keeps.ite
    | with_reducible apply Keeps.iteFst
    | (intro _ _ _)
    | (intro _ _)
    | split
    | with_reducible refine Keeps.mk' ?_ rfl rfl

theorem keeps_dfcSample {z s : State} (hK : Keeps z s) (n e : Nat) : Keeps z (State.dfcSample s n e) := by
  unfold State.dfcSample
  try dsimp only
  repeat' first
    | with_reducible assumption
    | with_reducible apply keeps_setFlag
    | with_reducible apply keeps_raise
    | with_reducible apply keeps_setDfc
    | with_reducible apply Keeps.emit
    | with_reducible apply Keeps.when
    | with_reducible apply Keeps.ite
    | (intro _ _ _)
    | (intro _ _)
    | with_reducible refine Keeps.mk' ?_ rfl rfl

theorem keeps_elemSample {z s : State} (hK : Keeps z s) (x : Nat → Nat) (dt : Nat) (h : Nat) (e : Nat) : Keeps z (State.elemSample s x dt h e) := by
  unfold State.elemSample
  try dsimp only
  repeat' first
    | with_reducible assumption
    | with_reducible apply Keeps.ite
    | (intro _ _ _)
    | (intro _ _)
    | with_reducible refine Keeps.mk' ?_ rfl rfl

theorem keeps_overload {z s : State} (hK : Keeps z s) (n : Nat) (full : Bool) : Keeps z (State.overload s n full) := by
  unfold State.overload
  try dsimp only
  repeat' first
    | with_reducible assumption
    | with_reducible apply keeps_put
    | with_reducible apply keeps_raise
    | with_reducible apply Keeps.when
    | (intro _ _ _)
    | (intro _ _)
    | with_reducible refine Keeps.mk' ?_ rfl rfl

theorem keeps_meterTrack {z s : State} (hK : Keeps z s) (crossing : Bool) : Keeps z (State.meterTrack s crossing) := by
  unfold State.meterTrack
  try dsimp only
  repeat' first
    | with_reducible assumption
    | with_reducible apply keeps_track
    | with_reducible apply keeps_cycleEnd
    | with_reducible apply Keeps.when
    | with_reducible apply Keeps.ite
    | with_reducible apply Keeps.iteFst
    | (intro _ _ _)
    | (intro _ _)
    | with_reducible refine Keeps.mk' ?_ rfl rfl

theorem keeps_overloads {z s : State} (hK : Keeps z s) (codes : List Int) : Keeps z (State.overloads s codes) := by
  unfold State.overloads
  try dsimp only
  repeat' first
    | with_reducible assumption
    | with_reducible apply keeps_overload
    | with_reducible apply Keeps.forUpTo
    | with_reducible apply Keeps.when
    | (intro _ _ _)
    | (intro _ _)
    | with_reducible refine Keeps.mk' ?_ rfl rfl

theorem keeps_meterSums {z s : State} (hK : Keeps z s) (x h : Nat → Nat) (dt : Nat) : Keeps z (State.meterSums s x h dt) := by
  unfold State.meterSums
  try dsimp only
  repeat' first
    | with_reducible assumption
    | with_reducible apply keeps_elemSample
    | with_reducible apply Keeps.forUpTo
    | with_reducible apply Keeps.when
    | (intro _ _ _)
    | (intro _ _)
    | with_reducible refine Keeps.mk' ?_ rfl rfl

theorem keeps_sampleDue {z s : State} (hK : Keeps z s) : Keeps z (State.sampleDue s) := by
  unfold State.sampleDue
  try dsimp only
  repeat' first
    | with_reducible assumption
    | with_reducible apply keeps_runUp
    | (intro _ _ _)
    | (intro _ _)
    | with_reducible refine Keeps.mk' ?_ rfl rfl

theorem keeps_meterSample {z s0 : State} (hK : Keeps z s0) (codes : List Int) (crossing : Bool) : Keeps z (State.meterSample s0 codes crossing) := by
  unfold State.meterSample
  try dsimp only
  repeat' first
    | with_reducible assumption
    | with_reducible apply keeps_sampleDue
    | with_reducible apply keeps_meterTrack
    | with_reducible apply keeps_overloads
    | with_reducible apply keeps_meterSums
    | with_reducible apply keeps_dfcSample
    | with_reducible apply keeps_cycleEnd
    | with_reducible apply Keeps.useMany
    | with_reducible apply Keeps.forUpTo
    | with_reducible apply Keeps.when
    | with_reducible apply Keeps.ite
    | (intro _ _ _)
    | (intro _ _)
    | with_reducible refine Keeps.mk' ?_ rfl rfl

theorem keeps_norefEnd {z s : State} (hK : Keeps z s) : Keeps z (State.norefEnd s) := by
  unfold State.norefEnd
  try dsimp only
  repeat' first
    | with_reducible assumption
    | with_reducible apply keeps_runAhead
    | with_reducible apply keeps_cycleEnd
    | with_reducible apply Keeps.when
    | with_reducible apply Keeps.ite
    | (intro _ _ _)
    | (intro _ _)
    | with_reducible refine Keeps.mk' ?_ rfl rfl

theorem keeps_accAdd {z s : State} (hK : Keeps z s) (k : Nat) (inc : Frac) : Keeps z (State.accAdd s k inc) := by
  unfold State.accAdd
  try dsimp only
  repeat' first
    | with_reducible assumption
    | with_reducible apply keeps_setMtrAcc
    | with_reducible apply keeps_wrN
    | (intro _ _ _)
    | (intro _ _)
    | with_reducible refine Keeps.mk' ?_ rfl rfl

theorem keeps_plsUpdate {z s : State} (hK : Keeps z s) (incs : List (Nat × Frac)) (n : Nat) : Keeps z (State.plsUpdate s incs n) := by
  unfold State.plsUpdate
  try dsimp only
  repeat' first
    | with_reducible assumption
    | with_reducible apply keeps_setPls
    | with_reducible apply keeps_setFlag
    | with_reducible apply keeps_raise
    | with_reducible apply Keeps.foldlFst
    | with_reducible apply Keeps.foldl
    | with_reducible apply Keeps.when
    | with_reducible apply Keeps.ite
    | with_reducible apply Keeps.iteFst
    | (intro _ _ _)
    | (intro _ _)
    | with_reducible refine Keeps.mk' ?_ rfl rfl

theorem keeps_accDiffer {z s : State} (hK : Keeps z s) : Keeps z (State.accDiffer s) := by
  unfold State.accDiffer
  try dsimp only
  repeat' first
    | with_reducible assumption
    | with_reducible apply keeps_setFlag
    | with_reducible apply keeps_raise
    | with_reducible apply Keeps.when
    | (intro _ _ _)
    | (intro _ _)
    | with_reducible refine Keeps.mk' ?_ rfl rfl

theorem keeps_accCheck {z s : State} (hK : Keeps z s) : Keeps z (State.accCheck s) := by
  unfold State.accCheck
  try dsimp only
  repeat' first
    | with_reducible assumption
    | with_reducible apply keeps_accDiffer
    | with_reducible apply Keeps.when
    | (intro _ _ _)
    | (intro _ _)
    | with_reducible refine Keeps.mk' ?_ rfl rfl

theorem keeps_accUpset {z s : State} (hK : Keeps z s) (k : Nat) (bits : BitVec 64) : Keeps z (State.accUpset s k bits) := by
  unfold State.accUpset
  try dsimp only
  repeat' first
    | with_reducible assumption
    | with_reducible apply keeps_setMtrAcc
    | (intro _ _ _)
    | (intro _ _)
    | with_reducible refine Keeps.mk' ?_ rfl rfl

theorem keeps_accUpdate {z s : State} (hK : Keeps z s) : Keeps z (State.accUpdate s) := by
  unfold State.accUpdate
  try dsimp only
  repeat' first
    | with_reducible assumption
    | with_reducible apply keeps_accCheck
    | with_reducible apply keeps_setMtrAcc
    | with_reducible apply keeps_accAdd
    | with_reducible apply keeps_plsUpdate
    | with_reducible apply Keeps.foldlFst
    | with_reducible apply Keeps.foldl
    | with_reducible apply Keeps.forUpTo
    | (intro _ _ _)
    | (intro _ _)
    | split
    | with_reducible refine Keeps.mk' ?_ rfl rfl

theorem keeps_accRead {z s : State} (hK : Keeps z s) (k : Nat) : Keeps z (State.accRead s k) := by
  unfold State.accRead
  try dsimp only
  repeat' first
    | with_reducible assumption
    | with_reducible apply keeps_wrN
    | with_reducible apply keeps_accDiffer
    | with_reducible apply Keeps.when
    | (intro _ _ _)
    | (intro _ _)
    | with_reducible refine Keeps.mk' ?_ rfl rfl

theorem keeps_pulseEmit {z s0 : State} (hK : Keeps z s0) (n : Nat) : Keeps z (State.pulseEmit s0 n) := by
  unfold State.pulseEmit
  try dsimp only
  repeat' first
    | with_reducible assumption
    | with_reducible apply keeps_runUp
    | with_reducible apply keeps_setPls
    | with_reducible apply Keeps.emit
    | with_reducible apply Keeps.when
    | (intro _ _ _)
    | (intro _ _)
    | with_reducible refine Keeps.mk' ?_ rfl rfl

theorem keeps_plsEnd {z s0 : State} (hK : Keeps z s0) (n : Nat) : Keeps z (State.plsEnd s0 n) := by
  unfold State.plsEnd
  try dsimp only
  repeat' first
    | with_reducible assumption
    | with_reducible apply keeps_runUp
    | with_reducible apply keeps_setPls
    | with_reducible apply Keeps.when
    | (intro _ _ _)
    | (intro _ _)
    | with_reducible refine Keeps.mk' ?_ rfl rfl

theorem keeps_plsWrite {z s : State} (hK : Keeps z s) (n : Nat) (wgt : Bool) (v : Nat) : Keeps z (State.plsWrite s n wgt v) := by
  unfold State.plsWrite
  try dsimp only
  repeat' first
    | with_reducible assumption
    | with_reducible apply keeps_wrN
    | with_reducible apply keeps_setPls
    | with_reducible apply Keeps.when
    | with_reducible apply Keeps.ite
    | (intro _ _ _)
    | (intro _ _)
    | with_reducible refine Keeps.mk' ?_ rfl rfl

theorem keeps_snapshot {z s0 : State} (hK : Keeps z s0) : Keeps z (State.snapshot s0) := by
  unfold State.snapshot
  try dsimp only
  repeat' first
    | with_reducible assumption
    | with_reducible apply keeps_accCheck
    | with_reducible apply keeps_wrN
    | with_reducible apply Keeps.wr
    | with_reducible apply Keeps.forUpTo
    | (intro _ _ _)
    | (intro _ _)
    | with_reducible refine Keeps.mk' ?_ rfl rfl

theorem keeps_sigWords {z s : State} (hK : Keeps z s) (ofs : Nat) (b : List Byte) : Keeps z (State.sigWords s ofs b) := by
  unfold State.sigWords
  try dsimp only
  repeat' first
    | with_reducible assumption
    | with_reducible apply keeps_wrAll
    | (intro _ _ _)
    | (intro _ _)
    | with_reducible refine Keeps.mk' ?_ rfl rfl

theorem keeps_signStart {z s : State} (hK : Keeps z s) : Keeps z (State.signStart s) := by
  unfold State.signStart
  try dsimp only
  repeat' first
    | with_reducible assumption
    | with_reducible apply keeps_snapshot
    | with_reducible apply keeps_sigWords
    | with_reducible apply keeps_setFlag
    | (intro _ _ _)
    | (intro _ _)
    | split
    | with_reducible refine Keeps.mk' ?_ rfl rfl

theorem keeps_signQueue {z s : State} (hK : Keeps z s) (j : SignJob) : Keeps z (State.signQueue s j) := by
  unfold State.signQueue
  try dsimp only
  repeat' first
    | with_reducible assumption
    | with_reducible apply keeps_idle
    | with_reducible apply keeps_signStart
    | with_reducible apply Keeps.when
    | (intro _ _ _)
    | (intro _ _)
    | with_reducible refine Keeps.mk' ?_ rfl rfl

theorem keeps_signNext {z s : State} (hK : Keeps z s) : Keeps z (State.signNext s) := by
  unfold State.signNext
  try dsimp only
  repeat' first
    | with_reducible assumption
    | with_reducible apply keeps_signStart
    | (intro _ _ _)
    | (intro _ _)
    | with_reducible refine Keeps.mk' ?_ rfl rfl

theorem keeps_signWrite {z s : State} (hK : Keeps z s) : Keeps z (State.signWrite s) := by
  unfold State.signWrite
  try dsimp only
  repeat' first
    | with_reducible assumption
    | with_reducible apply keeps_signQueue
    | with_reducible apply keeps_setFlag
    | with_reducible apply Keeps.ite
    | (intro _ _ _)
    | (intro _ _)
    | with_reducible refine Keeps.mk' ?_ rfl rfl

theorem keeps_autoSnapshot {z s0 : State} (hK : Keeps z s0) : Keeps z (State.autoSnapshot s0) := by
  unfold State.autoSnapshot
  try dsimp only
  repeat' first
    | with_reducible assumption
    | with_reducible apply keeps_setFlag
    | with_reducible apply keeps_signQueue
    | with_reducible apply Keeps.when
    | with_reducible apply Keeps.ite
    | (intro _ _ _)
    | (intro _ _)
    | with_reducible refine Keeps.mk' ?_ rfl rfl

theorem keeps_signWith {z s : State} (hK : Keeps z s) (id m : List Byte) : Keeps z (State.signWith s id m).1 := by
  unfold State.signWith
  try dsimp only
  repeat' first
    | with_reducible assumption
    | with_reducible apply Keeps.useFree
    | (intro _ _ _)
    | (intro _ _)
    | with_reducible refine Keeps.mk' ?_ rfl rfl

theorem keeps_recordSigned {z s : State} (hK : Keeps z s) (auto : Bool) : Keeps z (State.recordSigned s auto) := by
  unfold State.recordSigned
  try dsimp only
  repeat' first
    | with_reducible assumption
    | with_reducible apply keeps_signWith
    | with_reducible apply keeps_sigWords
    | with_reducible apply keeps_setFlag
    | with_reducible apply keeps_report
    | with_reducible apply keeps_relay
    | with_reducible apply Keeps.when
    | with_reducible apply Keeps.ite
    | with_reducible apply Keeps.iteFst
    | (intro _ _ _)
    | (intro _ _)
    | with_reducible refine Keeps.mk' ?_ rfl rfl

end Sys2Proof.Machine
end

