-- ==== Sys2Proof/Laws/KeepPort.lean ====
section
/-! SUPPORT. Laws/KeepPort.lean: `Keeps` of the operations of Machine/Mailbox.lean, Machine/Session.lean, Machine/Access.lean, Machine/Supervisory.lean, Machine/Remote.lean. -/
namespace Sys2Proof.Machine
set_option Elab.async false

theorem keeps_respond {z s : State} (hK : Keeps z s) (r : Req) (status : Nat) (body : List Byte) : Keeps z (State.respond s r status body) := by
  unfold State.respond
  try dsimp only
  repeat' first
    | with_reducible assumption
    | with_reducible apply keeps_toHost
    | with_reducible apply Keeps.when
    | (intro _ _ _)
    | (intro _ _)
    | with_reducible refine Keeps.mk' ?_ rfl rfl

theorem keeps_mbxTo {z s : State} (hK : Keeps z s) (n : Nat) (full : Bool) : Keeps z (State.mbxTo s n full) := by
  unfold State.mbxTo
  try dsimp only
  repeat' first
    | with_reducible assumption
    | with_reducible apply keeps_setFlag
    | with_reducible apply Keeps.ite
    | with_reducible apply Keeps.iteFst
    | (intro _ _ _)
    | (intro _ _)
    | with_reducible refine Keeps.mk' ?_ rfl rfl

theorem keeps_mbxError {z s : State} (hK : Keeps z s) (n : Nat) : Keeps z (State.mbxError s n) := by
  unfold State.mbxError
  try dsimp only
  repeat' first
    | with_reducible assumption
    | with_reducible apply keeps_setFlag
    | with_reducible apply keeps_bump
    | with_reducible apply keeps_raise
    | with_reducible apply Keeps.ite
    | (intro _ _ _)
    | (intro _ _)
    | with_reducible refine Keeps.mk' ?_ rfl rfl

theorem keeps_mbxIrq {z s : State} (hK : Keeps z s) (n : Nat) (full : Bool) : Keeps z (State.mbxIrq s n full) := by
  unfold State.mbxIrq
  try dsimp only
  repeat' first
    | with_reducible assumption
    | with_reducible apply keeps_wrN
    | with_reducible apply Keeps.emit
    | with_reducible apply Keeps.when
    | with_reducible apply Keeps.ite
    | (intro _ _ _)
    | (intro _ _)
    | with_reducible refine Keeps.mk' ?_ rfl rfl

theorem keeps_mbxFree {z s : State} (hK : Keeps z s) (n : Nat) : Keeps z (State.mbxFree s n) := by
  unfold State.mbxFree
  try dsimp only
  repeat' first
    | with_reducible assumption
    | with_reducible apply keeps_mbxTo
    | with_reducible apply keeps_mbxIrq
    | with_reducible apply keeps_bulkSend
    | (intro _ _ _)
    | (intro _ _)
    | split
    | with_reducible refine Keeps.mk' ?_ rfl rfl

theorem keeps_mbxNotice {z s : State} (hK : Keeps z s) (n : Nat) : Keeps z (State.mbxNotice s n) := by
  unfold State.mbxNotice
  try dsimp only
  repeat' first
    | with_reducible assumption
    | with_reducible apply keeps_mbxIrq
    | with_reducible apply keeps_setSess
    | with_reducible apply keeps_mbxFree
    | with_reducible apply keeps_respond
    | with_reducible apply keeps_bulkSend
    | (intro _ _ _)
    | (intro _ _)
    | split
    | with_reducible refine Keeps.mk' ?_ rfl rfl

theorem keeps_mbxPost {z s : State} (hK : Keeps z s) (n len : Nat) : Keeps z (State.mbxPost s n len) := by
  unfold State.mbxPost
  try dsimp only
  repeat' first
    | with_reducible assumption
    | with_reducible apply keeps_mbxTo
    | with_reducible apply keeps_put
    | with_reducible apply keeps_mbxNotice
    | (intro _ _ _)
    | (intro _ _)
    | with_reducible refine Keeps.mk' ?_ rfl rfl

theorem keeps_mbxData {z s : State} (hK : Keeps z s) (m : Master) (n i : Nat) (v : Word) : Keeps z (State.mbxData s m n i v).1 := by
  unfold State.mbxData
  try dsimp only
  repeat' first
    | with_reducible assumption
    | with_reducible apply keeps_mbxError
    | with_reducible apply Keeps.wr
    | with_reducible apply Keeps.ite
    | with_reducible apply Keeps.iteFst
    | (intro _ _ _)
    | (intro _ _)
    | with_reducible refine Keeps.mk' ?_ rfl rfl

theorem keeps_mbxGo {z s : State} (hK : Keeps z s) (m : Master) (n len : Nat) : Keeps z (State.mbxGo s m n len).1 := by
  unfold State.mbxGo
  try dsimp only
  repeat' first
    | with_reducible assumption
    | with_reducible apply keeps_mbxError
    | with_reducible apply keeps_mbxPost
    | with_reducible apply Keeps.ite
    | with_reducible apply Keeps.iteFst
    | (intro _ _ _)
    | (intro _ _)
    | with_reducible refine Keeps.mk' ?_ rfl rfl

theorem keeps_mbxTake {z s : State} (hK : Keeps z s) (m : Master) (n : Nat) : Keeps z (State.mbxTake s m n).1 := by
  unfold State.mbxTake
  try dsimp only
  repeat' first
    | with_reducible assumption
    | with_reducible apply keeps_mbxFree
    | with_reducible apply keeps_bump
    | with_reducible apply Keeps.ite
    | with_reducible apply Keeps.iteFst
    | (intro _ _ _)
    | (intro _ _)
    | with_reducible refine Keeps.mk' ?_ rfl rfl

theorem keeps_mbxCtrl {z s : State} (hK : Keeps z s) (m : Master) (n : Nat) (v : Nat) : Keeps z (State.mbxCtrl s m n v).1 := by
  unfold State.mbxCtrl
  try dsimp only
  repeat' first
    | with_reducible assumption
    | with_reducible apply keeps_mbxGo
    | with_reducible apply keeps_mbxTake
    | with_reducible apply Keeps.ite
    | with_reducible apply Keeps.iteFst
    | (intro _ _ _)
    | (intro _ _)
    | with_reducible refine Keeps.mk' ?_ rfl rfl

theorem keeps_deliver {z s : State} (hK : Keeps z s) (src : Nat) (data : List Byte) : Keeps z (State.deliver s src data) := by
  unfold State.deliver
  try dsimp only
  repeat' first
    | with_reducible assumption
    | with_reducible apply keeps_wrN
    | with_reducible apply keeps_mbxPost
    | with_reducible apply keeps_bulkSend
    | with_reducible apply keeps_raise
    | with_reducible apply Keeps.forUpTo
    | with_reducible apply Keeps.ite
    | (intro _ _ _)
    | (intro _ _)
    | with_reducible refine Keeps.mk' ?_ rfl rfl

theorem keeps_mbxReturn {z s : State} (hK : Keeps z s) (src : Nat) (data : List Byte) (nack : Bool) : Keeps z (State.mbxReturn s src data nack) := by
  unfold State.mbxReturn
  try dsimp only
  repeat' first
    | with_reducible assumption
    | with_reducible apply keeps_setFlag
    | with_reducible apply keeps_mbxFree
    | with_reducible apply keeps_bumpReg
    | with_reducible apply Keeps.when
    | with_reducible apply Keeps.ite
    | (intro _ _ _)
    | (intro _ _)
    | with_reducible refine Keeps.mk' ?_ rfl rfl

theorem keeps_mbxMessage {z s : State} (hK : Keeps z s) (src : Nat) (data : List Byte) : Keeps z (State.mbxMessage s src data) := by
  unfold State.mbxMessage
  try dsimp only
  repeat' first
    | with_reducible assumption
    | with_reducible apply keeps_deliver
    | with_reducible apply keeps_mbxReturn
    | (intro _ _ _)
    | (intro _ _)
    | split
    | with_reducible refine Keeps.mk' ?_ rfl rfl

theorem keeps_mbxTimeout {z s : State} (hK : Keeps z s) (n : Nat) : Keeps z (State.mbxTimeout s n) := by
  unfold State.mbxTimeout
  try dsimp only
  repeat' first
    | with_reducible assumption
    | with_reducible apply keeps_setFlag
    | with_reducible apply keeps_mbxFree
    | with_reducible apply keeps_raise
    | with_reducible apply Keeps.when
    | (intro _ _ _)
    | (intro _ _)
    | split
    | with_reducible refine Keeps.mk' ?_ rfl rfl

theorem keeps_mbxCntClr {z s : State} (hK : Keeps z s) : Keeps z (State.mbxCntClr s) := by
  unfold State.mbxCntClr
  try dsimp only
  repeat' first
    | with_reducible assumption
    | with_reducible apply keeps_put
    | with_reducible apply Keeps.wr
    | with_reducible apply Keeps.forUpTo
    | (intro _ _ _)
    | (intro _ _)
    | with_reducible refine Keeps.mk' ?_ rfl rfl

theorem keeps_answer {z s : State} (hK : Keeps z s) (a : Ans) (v : BitVec 64) : Keeps z (State.answer s a v) := by
  unfold State.answer
  try dsimp only
  repeat' first
    | with_reducible assumption
    | with_reducible apply Keeps.emit
    | (intro _ _ _)
    | (intro _ _)
    | with_reducible refine Keeps.mk' ?_ rfl rfl

theorem keeps_wrote {z : State} {r : State × Ans} (hK : Keeps z r.1) (m : Master) (a : Nat) : Keeps z (State.wrote r m a) :=
  keeps_answer (Keeps.when hK fun _ hb => keeps_violation hb _ _ _) _ _

theorem keeps_sessFree {z s : State} (hK : Keeps z s) (n : Nat) : Keeps z (State.sessFree s n) := by
  unfold State.sessFree
  try dsimp only
  repeat' first
    | with_reducible assumption
    | with_reducible apply keeps_setSess
    | with_reducible apply keeps_supStat
    | with_reducible apply Keeps.wr
    | with_reducible apply Keeps.ite
    | (intro _ _ _)
    | (intro _ _)
    | with_reducible refine Keeps.mk' ?_ rfl rfl

theorem keeps_sessClose {z s : State} (hK : Keeps z s) (n : Nat) : Keeps z (State.sessClose s n) := by
  unfold State.sessClose
  try dsimp only
  repeat' first
    | with_reducible assumption
    | with_reducible apply keeps_toHost
    | with_reducible apply keeps_sessFree
    | with_reducible apply Keeps.useFree
    | with_reducible apply Keeps.when
    | (intro _ _ _)
    | (intro _ _)
    | with_reducible refine Keeps.mk' ?_ rfl rfl

theorem keeps_closeAll {z s : State} (hK : Keeps z s) : Keeps z (State.closeAll s) := by
  unfold State.closeAll
  try dsimp only
  repeat' first
    | with_reducible assumption
    | with_reducible apply keeps_sessClose
    | with_reducible apply Keeps.forUpTo
    | with_reducible apply Keeps.when
    | (intro _ _ _)
    | (intro _ _)
    | with_reducible refine Keeps.mk' ?_ rfl rfl

theorem keeps_supCntClr {z s : State} (hK : Keeps z s) : Keeps z (State.supCntClr s) := by
  unfold State.supCntClr
  try dsimp only
  repeat' first
    | with_reducible assumption
    | with_reducible apply Keeps.wr
    | (intro _ _ _)
    | (intro _ _)
    | with_reducible refine Keeps.mk' ?_ rfl rfl

theorem keeps_toToken {z s : State} (hK : Keeps z s) (n : Nat) : Keeps z (State.toToken s n) := by
  unfold State.toToken
  try dsimp only
  repeat' first
    | with_reducible assumption
    | with_reducible apply keeps_refill
    | with_reducible apply keeps_runTicks
    | with_reducible apply Keeps.ite
    | (intro _ _ _)
    | (intro _ _)
    | with_reducible refine Keeps.mk' ?_ rfl rfl

theorem keeps_transmit {z s : State} (hK : Keeps z s) (n : Nat) : Keeps z (State.transmit s n) := by
  unfold State.transmit
  try dsimp only
  repeat' first
    | with_reducible assumption
    | with_reducible apply keeps_toToken
    | with_reducible apply keeps_refill
    | with_reducible apply keeps_report
    | with_reducible apply keeps_sendReport
    | with_reducible apply Keeps.ite
    | (intro _ _ _)
    | (intro _ _)
    | split
    | with_reducible refine Keeps.mk' ?_ rfl rfl

theorem keeps_repeatReport {z s : State} (hK : Keeps z s) (n : Nat) (rseq : Word) : Keeps z (State.repeatReport s n rseq) := by
  unfold State.repeatReport
  try dsimp only
  repeat' first
    | with_reducible assumption
    | with_reducible apply keeps_runUp
    | with_reducible apply keeps_refill
    | with_reducible apply keeps_setSess
    | with_reducible apply keeps_bumpReg
    | with_reducible apply keeps_raise
    | with_reducible apply keeps_sendReport
    | with_reducible apply Keeps.when
    | with_reducible apply Keeps.ite
    | (intro _ _ _)
    | (intro _ _)
    | split
    | with_reducible refine Keeps.mk' ?_ rfl rfl

theorem keeps_regRead {z s : State} (hK : Keeps z s) (a : Nat) : Keeps z (State.regRead s a).1 := by
  unfold State.regRead
  try dsimp only
  repeat' first
    | with_reducible assumption
    | with_reducible apply keeps_wrN
    | with_reducible apply keeps_put
    | with_reducible apply keeps_setFlag
    | with_reducible apply keeps_rawLatch
    | with_reducible apply keeps_accRead
    | with_reducible apply Keeps.useFree
    | with_reducible apply Keeps.ite
    | with_reducible apply Keeps.iteFst
    | (intro _ _ _)
    | (intro _ _)
    | split
    | with_reducible refine Keeps.mk' ?_ rfl rfl

theorem keeps_codeWrite {z s : State} (hK : Keeps z s) (r : RegRow) (a mask v : Nat) : Keeps z (State.codeWrite s r a mask v) := by
  unfold State.codeWrite
  try dsimp only
  repeat' first
    | with_reducible assumption
    | with_reducible apply keeps_bootLock
    | with_reducible apply Keeps.wr
    | with_reducible apply Keeps.ite
    | (intro _ _ _)
    | (intro _ _)
    | with_reducible refine Keeps.mk' ?_ rfl rfl

theorem keepsO_cmdWrite {z s : State} (hK : Keeps z s) (m : Master) (b o v : Nat) : KeepsO z (s.cmdWrite m b o v) := by
  unfold State.cmdWrite
  dsimp only
  split
  all_goals repeat' first
    | with_reducible assumption
    | with_reducible apply KeepsO.none
    | with_reducible apply KeepsO.ite
    | with_reducible apply KeepsO.some
    | with_reducible apply keeps_rstCtrlWrite
    | with_reducible apply keeps_updCmd
    | with_reducible apply keeps_updErase
    | with_reducible apply keeps_updProgram
    | with_reducible apply keeps_updStart
    | with_reducible apply keeps_updArm
    | with_reducible apply keeps_updAbort
    | with_reducible apply keeps_chillWrite
    | with_reducible apply keeps_trainWrite
    | with_reducible apply keeps_lnkCntClr
    | with_reducible apply keeps_rngCntClr
    | with_reducible apply keeps_offsetWrite
    | with_reducible apply keeps_tpoCtrl
    | with_reducible apply keeps_tpoConfig
    | with_reducible apply keeps_ceCntClr
    | with_reducible apply keeps_swapCancel
    | with_reducible apply keeps_swapGo
    | with_reducible apply keeps_setFlag
    | with_reducible apply keeps_provWrite
    | with_reducible apply keeps_peekRequest
    | with_reducible apply keeps_put
    | with_reducible apply keeps_balReqWrite
    | with_reducible apply keeps_rearm
    | with_reducible apply keeps_pwmCntClr
    | with_reducible apply keeps_groupClear
    | with_reducible apply keeps_pwmCtrlWrite
    | with_reducible apply keeps_shadowWrite
    | with_reducible apply keeps_gdCntClr
    | with_reducible apply keeps_injNow
    | with_reducible apply keeps_lpWrite
    | with_reducible apply keeps_adcCntClr
    | with_reducible apply keeps_chWrite
    | with_reducible apply keeps_signWrite
    | with_reducible apply keeps_snapshot
    | with_reducible apply keeps_plsWrite
    | with_reducible apply keeps_swapRequest
    | with_reducible apply keeps_swapCancelDpx
    | with_reducible apply keeps_dpxCntClr
    | with_reducible apply keeps_safCntClr
    | with_reducible apply keeps_stationClear
    | with_reducible apply keeps_recordClear
    | with_reducible apply keeps_memCntClr
    | with_reducible apply keeps_scrubAbort
    | with_reducible apply keeps_scrubGo
    | with_reducible apply keeps_memRepair
    | with_reducible apply keeps_logSel
    | with_reducible apply keeps_supCntClr
    | with_reducible apply keeps_closeAll
    | with_reducible apply keeps_mbxCntClr
    | with_reducible apply Keeps.when
    | with_reducible apply Keeps.ite
    | split
    | (intro _ _)

theorem keeps_regWrite {z s : State} (hK : Keeps z s) (m by_ : Master) (r : RegRow) (a mask v : Nat) : Keeps z (State.regWrite s m by_ r a mask v) := by
  unfold State.regWrite
  have h1 := Keeps.when (c := s.sys.bootLock && ((s.num a ^^^ v) &&& r.rl &&& mask) != 0)
    (f := (·.violation by_ true a)) hK fun b hb => keeps_violation hb _ _ _
  dsimp only
  split
  · next s2 h => exact keepsO_cmdWrite h1 _ _ _ _ s2 h
  · exact keeps_ckoLoaded (keeps_codeWrite h1 _ _ _ _) _

theorem keeps_readAccess {z s : State} (hK : Keeps z s) (m by_ : Master) (a size : Nat) (e : Ecc) : Keeps z (State.readAccess s m by_ a size e).1 := by
  unfold State.readAccess
  try dsimp only
  repeat' first
    | with_reducible assumption
    | with_reducible apply keeps_violation
    | with_reducible apply keeps_eccRead
    | with_reducible apply keeps_regRead
    | with_reducible apply Keeps.ite
    | with_reducible apply Keeps.iteFst
    | (intro _ _ _)
    | (intro _ _)
    | with_reducible refine Keeps.mk' ?_ rfl rfl

theorem keeps_writeAccess {z s : State} (hK : Keeps z s) (m by_ : Master) (a size v : Nat) (e : Ecc) : Keeps z (State.writeAccess s m by_ a size v e).1 := by
  unfold State.writeAccess
  extract_lets viol pr s1 bad mask n w x
  have hv : ∀ b, Keeps z b → Keeps z (viol b).1 := fun b hb => keeps_violation hb _ _ _
  have h1 : Keeps z s1 := keeps_eccMerge hK _ _
  refine Keeps.iteFst hK (Keeps.iteFst ?_ (Keeps.iteFst hK (Keeps.iteFst ?_ ?_)))
  · refine Keeps.iteFst (hv s hK) (Keeps.iteFst ((keeps_eccClear hK _).storeLe _ _ _) ?_)
    exact Keeps.iteFst h1 (h1.storeLe _ _ _)
  · exact Keeps.iteFst (hv s hK) (Keeps.iteFst h1 (keeps_slotWrite h1 _ _ _))
  · split
    · next n w _ =>
      refine Keeps.iteFst ?_ (Keeps.iteFst ?_ ?_)
      · have h := keeps_mbxData hK m n (w / 4) (BitVec.ofNat 32 v)
        split
        · next s1 heq => rw [heq] at h; exact hv s1 h
        · exact h
      · have h := keeps_mbxCtrl hK m n v
        split
        · next s1 heq => rw [heq] at h; exact hv s1 h
        · exact h
      · split
        · exact hK
        · exact Keeps.iteFst (hv s hK) (keeps_regWrite hK _ _ _ _ _ _)
    · split
      · exact hK
      · refine Keeps.iteFst (keeps_rstCtrlWrite hK _ _) (Keeps.iteFst (hv s hK) ?_)
        refine Keeps.iteFst (hv _ (keeps_scrubGo hK _)) (Keeps.iteFst (hv _ (keeps_memRepair hK _ _)) ?_)
        exact Keeps.iteFst (hv _ (keeps_setFlag hK _ _)) (Keeps.iteFst (hv s hK) (Keeps.iteFst hK (keeps_regWrite hK _ _ _ _ _ _)))

theorem keeps_busRead {z s : State} (hK : Keeps z s) (m : Master) (a size : Nat) (e : Ecc) : Keeps z (State.busRead s m a size e) := by
  unfold State.busRead
  try dsimp only
  repeat' first
    | with_reducible assumption
    | with_reducible apply keeps_readAccess
    | with_reducible apply keeps_answer
    | (intro _ _ _)
    | (intro _ _)
    | with_reducible refine Keeps.mk' ?_ rfl rfl

theorem keeps_dropDatagram {z s : State} (hK : Keeps z s) : Keeps z (State.dropDatagram s) := by
  unfold State.dropDatagram
  try dsimp only
  repeat' first
    | with_reducible assumption
    | with_reducible apply keeps_bumpReg
    | with_reducible apply keeps_raise
    | with_reducible apply Keeps.ite
    | (intro _ _ _)
    | (intro _ _)
    | split
    | with_reducible refine Keeps.mk' ?_ rfl rfl

theorem keeps_heard {z s : State} (hK : Keeps z s) (n : Nat) (d : Datagram) : Keeps z (State.heard s n d) := by
  unfold State.heard
  try dsimp only
  repeat' first
    | with_reducible assumption
    | with_reducible apply keeps_setSess
    | (intro _ _ _)
    | (intro _ _)
    | with_reducible refine Keeps.mk' ?_ rfl rfl

theorem keeps_countRx {z s : State} (hK : Keeps z s) : Keeps z (State.countRx s) := by
  unfold State.countRx
  try dsimp only
  repeat' first
    | with_reducible assumption
    | with_reducible apply Keeps.wr
    | (intro _ _ _)
    | (intro _ _)
    | with_reducible refine Keeps.mk' ?_ rfl rfl

theorem keeps_refuse1 {z s : State} (hK : Keeps z s) (d : Datagram) (status : Nat) : Keeps z (State.refuse1 s d status) := by
  unfold State.refuse1
  try dsimp only
  repeat' first
    | with_reducible assumption
    | with_reducible apply keeps_toHost
    | with_reducible apply keeps_raise
    | (intro _ _ _)
    | (intro _ _)
    | with_reducible refine Keeps.mk' ?_ rfl rfl

theorem keeps_phase1 {z s : State} (hK : Keeps z s) (d : Datagram) : Keeps z (State.phase1 s d) := by
  unfold State.phase1
  try dsimp only
  repeat' first
    | with_reducible assumption
    | with_reducible apply keeps_dropDatagram
    | with_reducible apply keeps_countRx
    | with_reducible apply keeps_refuse1
    | with_reducible apply keeps_setFlag
    | with_reducible apply keeps_put
    | with_reducible apply keeps_setSess
    | with_reducible apply keeps_toHost
    | with_reducible apply Keeps.wr
    | with_reducible apply Keeps.useFree
    | with_reducible apply Keeps.ite
    | with_reducible apply Keeps.iteFst
    | (intro _ _ _)
    | (intro _ _)
    | split
    | with_reducible refine Keeps.mk' ?_ rfl rfl

theorem keeps_phase3 {z s : State} (hK : Keeps z s) (m : Datagram) : Keeps z (State.phase3 s m) := by
  unfold State.phase3
  try dsimp only
  repeat' first
    | with_reducible assumption
    | with_reducible apply keeps_dropDatagram
    | with_reducible apply keeps_heard
    | with_reducible apply keeps_countRx
    | with_reducible apply keeps_toHost
    | with_reducible apply keeps_bumpReg
    | with_reducible apply keeps_setFlag
    | with_reducible apply keeps_setSess
    | with_reducible apply keeps_supStat
    | with_reducible apply keeps_sessFree
    | with_reducible apply keeps_raise
    | with_reducible apply Keeps.ite
    | (intro _ _ _)
    | (intro _ _)
    | split
    | with_reducible refine Keeps.mk' ?_ rfl rfl

theorem keeps_phase5 {z s : State} (hK : Keeps z s) (m : Datagram) : Keeps z (State.phase5 s m) := by
  unfold State.phase5
  try dsimp only
  repeat' first
    | with_reducible assumption
    | with_reducible apply keeps_dropDatagram
    | with_reducible apply keeps_heard
    | with_reducible apply keeps_countRx
    | with_reducible apply keeps_sessFree
    | with_reducible apply keeps_bumpReg
    | with_reducible apply Keeps.when
    | with_reducible apply Keeps.ite
    | (intro _ _ _)
    | (intro _ _)
    | split
    | with_reducible refine Keeps.mk' ?_ rfl rfl

theorem keeps_reqEnd {z s : State} (hK : Keeps z s) (r : Req) (status : Nat) (body : List Byte) : Keeps z (State.reqEnd s r status body) := by
  unfold State.reqEnd
  try dsimp only
  repeat' first
    | with_reducible assumption
    | with_reducible apply keeps_respond
    | (intro _ _ _)
    | (intro _ _)
    | with_reducible refine Keeps.mk' ?_ rfl rfl

theorem keeps_reqFail {z s : State} (hK : Keeps z s) (r : Req) (status : Nat) (done : Nat) (ws : List Word) : Keeps z (State.reqFail s r status done ws) := by
  unfold State.reqFail
  try dsimp only
  repeat' first
    | with_reducible assumption
    | with_reducible apply keeps_reqEnd
    | (intro _ _ _)
    | (intro _ _)
    | with_reducible refine Keeps.mk' ?_ rfl rfl

theorem keeps_countReq {z s : State} (hK : Keeps z s) : Keeps z (State.countReq s) := by
  unfold State.countReq
  try dsimp only
  repeat' first
    | with_reducible assumption
    | with_reducible apply Keeps.wr
    | (intro _ _ _)
    | (intro _ _)
    | with_reducible refine Keeps.mk' ?_ rfl rfl

theorem keeps_setActive {z s : State} (hK : Keeps z s) (a : Option Active) : Keeps z (State.setActive s a) := by
  unfold State.setActive
  try dsimp only
  repeat' first
    | with_reducible assumption
    | (intro _ _ _)
    | (intro _ _)
    | with_reducible refine Keeps.mk' ?_ rfl rfl

theorem keeps_begun {z s : State} (hK : Keeps z s) (r : Req) (steps : List HostStep) : Keeps z (State.begun s r steps) := by
  unfold State.begun
  try dsimp only
  repeat' first
    | with_reducible assumption
    | with_reducible apply keeps_setActive
    | (intro _ _ _)
    | (intro _ _)
    | with_reducible refine Keeps.mk' ?_ rfl rfl

theorem keeps_readWords {z s : State} (hK : Keeps z s) (by_ : Master) (n a : Nat) : Keeps z (State.readWords s by_ n a).1 := by
  induction n generalizing s a with
  | zero => exact hK
  | succ n ih =>
    have h := keeps_readAccess hK .ha by_ a 4 .clean
    unfold State.readWords
    split
    · next s1 v heq => rw [heq] at h; exact h
    · next s1 r v _ heq => rw [heq] at h; exact ih h _

theorem keeps_writeWords {z s : State} (hK : Keeps z s) (by_ : Master) (ws : List Word) (a : Nat) : Keeps z (State.writeWords s by_ ws a).1 := by
  induction ws generalizing s a with
  | nil => exact hK
  | cons w t ih =>
    have h := keeps_writeAccess hK .ha by_ a 4 w.toNat .clean
    unfold State.writeWords
    split
    · next s1 heq => rw [heq] at h; exact h
    · next s1 r _ heq => rw [heq] at h; exact ih h _

theorem keeps_sendRra {z s : State} (hK : Keeps z s) (node master tag : Nat) (st : HostStep) : Keeps z (State.sendRra s node master tag st) := by
  unfold State.sendRra
  try dsimp only
  repeat' first
    | with_reducible assumption
    | with_reducible apply keeps_bulkSend
    | with_reducible apply Keeps.wr
    | (intro _ _ _)
    | (intro _ _)
    | split
    | with_reducible refine Keeps.mk' ?_ rfl rfl

theorem keeps_issue {z s : State} (hK : Keeps z s) : Keeps z (State.issue s) := by
  unfold State.issue
  try dsimp only
  repeat' first
    | with_reducible assumption
    | with_reducible apply keeps_reqFail
    | with_reducible apply keeps_sendRra
    | with_reducible apply Keeps.wr
    | with_reducible apply Keeps.ite
    | (intro _ _ _)
    | (intro _ _)
    | split
    | with_reducible refine Keeps.mk' ?_ rfl rfl

theorem keeps_goRemote {z s : State} (hK : Keeps z s) (r : Req) (steps : List HostStep) : Keeps z (State.goRemote s r steps) := by
  unfold State.goRemote
  try dsimp only
  repeat' first
    | with_reducible assumption
    | with_reducible apply keeps_begun
    | with_reducible apply keeps_issue
    | (intro _ _ _)
    | (intro _ _)
    | with_reducible refine Keeps.mk' ?_ rfl rfl

theorem keeps_startRead {z s : State} (hK : Keeps z s) (r : Req) : Keeps z (State.startRead s r) := by
  unfold State.startRead
  try dsimp only
  repeat' first
    | with_reducible assumption
    | with_reducible apply keeps_reqFail
    | with_reducible apply keeps_accCheck
    | with_reducible apply keeps_reqEnd
    | with_reducible apply keeps_readWords
    | with_reducible apply keeps_begun
    | with_reducible apply keeps_relayTo
    | with_reducible apply keeps_goRemote
    | with_reducible apply Keeps.ite
    | with_reducible apply Keeps.iteFst
    | (intro _ _ _)
    | (intro _ _)
    | with_reducible refine Keeps.mk' ?_ rfl rfl

theorem keeps_startWrite {z s : State} (hK : Keeps z s) (r : Req) : Keeps z (State.startWrite s r) := by
  unfold State.startWrite
  try dsimp only
  repeat' first
    | with_reducible assumption
    | with_reducible apply keeps_reqFail
    | with_reducible apply keeps_countReq
    | with_reducible apply keeps_writeWords
    | with_reducible apply keeps_goRemote
    | with_reducible apply Keeps.ite
    | with_reducible apply Keeps.iteFst
    | (intro _ _ _)
    | (intro _ _)
    | with_reducible refine Keeps.mk' ?_ rfl rfl

theorem keeps_startTime {z s : State} (hK : Keeps z s) (r : Req) : Keeps z (State.startTime s r) := by
  unfold State.startTime
  try dsimp only
  repeat' first
    | with_reducible assumption
    | with_reducible apply keeps_reqFail
    | with_reducible apply keeps_reqEnd
    | with_reducible apply Keeps.emit
    | with_reducible apply Keeps.ite
    | (intro _ _ _)
    | (intro _ _)
    | split
    | with_reducible refine Keeps.mk' ?_ rfl rfl

theorem keeps_recvWait {z s : State} (hK : Keeps z s) (r : Req) : Keeps z (State.recvWait s r) := by
  unfold State.recvWait
  try dsimp only
  repeat' first
    | with_reducible assumption
    | with_reducible apply keeps_reqEnd
    | with_reducible apply keeps_reqFail
    | with_reducible apply keeps_setActive
    | with_reducible apply keeps_setSess
    | with_reducible apply Keeps.ite
    | (intro _ _ _)
    | (intro _ _)
    | with_reducible refine Keeps.mk' ?_ rfl rfl

theorem keeps_recvLocal {z s : State} (hK : Keeps z s) (r : Req) : Keeps z (State.recvLocal s r) := by
  unfold State.recvLocal
  try dsimp only
  repeat' first
    | with_reducible assumption
    | with_reducible apply keeps_readWords
    | with_reducible apply keeps_writeWords
    | with_reducible apply keeps_reqEnd
    | (intro _ _ _)
    | (intro _ _)
    | with_reducible refine Keeps.mk' ?_ rfl rfl

theorem keeps_startMbx {z s : State} (hK : Keeps z s) (r : Req) : Keeps z (State.startMbx s r) := by
  unfold State.startMbx
  try dsimp only
  repeat' first
    | with_reducible assumption
    | with_reducible apply keeps_reqFail
    | with_reducible apply keeps_countReq
    | with_reducible apply keeps_writeWords
    | with_reducible apply keeps_goRemote
    | with_reducible apply keeps_recvLocal
    | with_reducible apply keeps_recvWait
    | with_reducible apply keeps_readWords
    | with_reducible apply keeps_reqEnd
    | with_reducible apply Keeps.wr
    | with_reducible apply Keeps.ite
    | with_reducible apply Keeps.iteFst
    | (intro _ _ _)
    | (intro _ _)
    | split
    | with_reducible refine Keeps.mk' ?_ rfl rfl

theorem keeps_startAttest {z s : State} (hK : Keeps z s) (r : Req) : Keeps z (State.startAttest s r) := by
  unfold State.startAttest
  try dsimp only
  repeat' first
    | with_reducible assumption
    | with_reducible apply keeps_reqFail
    | with_reducible apply keeps_begun
    | with_reducible apply keeps_relayTo
    | with_reducible apply keeps_reqEnd
    | with_reducible apply keeps_signQueue
    | with_reducible apply Keeps.ite
    | (intro _ _ _)
    | (intro _ _)
    | with_reducible refine Keeps.mk' ?_ rfl rfl

theorem keeps_signatureDone {z s : State} (hK : Keeps z s) : Keeps z (State.signatureDone s) := by
  unfold State.signatureDone
  try dsimp only
  repeat' first
    | with_reducible assumption
    | with_reducible apply keeps_recordSigned
    | with_reducible apply keeps_signNext
    | with_reducible apply keeps_signWith
    | with_reducible apply keeps_relayTo
    | with_reducible apply keeps_reqEnd
    | with_reducible apply Keeps.when
    | (intro _ _ _)
    | (intro _ _)
    | split
    | with_reducible refine Keeps.mk' ?_ rfl rfl

theorem keeps_signerFailed {z s : State} (hK : Keeps z s) : Keeps z (State.signerFailed s) := by
  unfold State.signerFailed
  try dsimp only
  repeat' first
    | with_reducible assumption
    | with_reducible apply keeps_runUp
    | with_reducible apply keeps_raise
    | with_reducible apply keeps_reqFail
    | with_reducible apply keeps_signNext
    | with_reducible apply Keeps.when
    | (intro _ _ _)
    | (intro _ _)
    | split
    | with_reducible refine Keeps.mk' ?_ rfl rfl

theorem keeps_batchAnswer {z s : State} (hK : Keeps z s) (a : Active) (targets : Nat) : Keeps z (State.batchAnswer s a targets) := by
  unfold State.batchAnswer
  try dsimp only
  repeat' first
    | with_reducible assumption
    | with_reducible apply keeps_reqFail
    | with_reducible apply keeps_reqEnd
    | with_reducible apply Keeps.ite
    | (intro _ _ _)
    | (intro _ _)
    | with_reducible refine Keeps.mk' ?_ rfl rfl

theorem keeps_batchAck {z s : State} (hK : Keeps z s) (id : Word) (src : Nat) : Keeps z (State.batchAck s id src) := by
  unfold State.batchAck
  try dsimp only
  repeat' first
    | with_reducible assumption
    | with_reducible apply keeps_distAck
    | with_reducible apply keeps_setActive
    | with_reducible apply keeps_batchAnswer
    | with_reducible apply Keeps.when
    | with_reducible apply Keeps.ite
    | (intro _ _ _)
    | (intro _ _)
    | split
    | with_reducible refine Keeps.mk' ?_ rfl rfl

theorem keeps_stageAt {z s : State} (hK : Keeps z s) (id c : Word) (p : Nat) (items : List (Word × Word)) : Keeps z (State.stageAt s id c p items) := by
  unfold State.stageAt
  try dsimp only
  repeat' first
    | with_reducible assumption
    | with_reducible apply keeps_batchStage
    | with_reducible apply keeps_batchAck
    | with_reducible apply keeps_bulkQueue
    | with_reducible apply Keeps.when
    | with_reducible apply Keeps.ite
    | (intro _ _ _)
    | (intro _ _)
    | split
    | with_reducible refine Keeps.mk' ?_ rfl rfl

theorem keeps_cancelBatch {z s : State} (hK : Keeps z s) (r : Req) (id : Word) : Keeps z (State.cancelBatch s r id) := by
  unfold State.cancelBatch
  try dsimp only
  repeat' first
    | with_reducible assumption
    | with_reducible apply keeps_batchCancel
    | with_reducible apply keeps_bulkSend
    | with_reducible apply keeps_reqEnd
    | with_reducible apply Keeps.foldlFst
    | with_reducible apply Keeps.foldl
    | with_reducible apply Keeps.when
    | with_reducible apply Keeps.ite
    | with_reducible apply Keeps.iteFst
    | (intro _ _ _)
    | (intro _ _)
    | split
    | with_reducible refine Keeps.mk' ?_ rfl rfl

theorem keeps_startBatch {z s : State} (hK : Keeps z s) (r : Req) : Keeps z (State.startBatch s r) := by
  unfold State.startBatch
  try dsimp only
  repeat' first
    | with_reducible assumption
    | with_reducible apply keeps_reqFail
    | with_reducible apply keeps_countReq
    | with_reducible apply keeps_cancelBatch
    | with_reducible apply keeps_batchFault
    | with_reducible apply keeps_ledNew
    | with_reducible apply keeps_stageAt
    | with_reducible apply Keeps.foldlFst
    | with_reducible apply Keeps.foldl
    | with_reducible apply Keeps.ite
    | with_reducible apply Keeps.iteFst
    | (intro _ _ _)
    | (intro _ _)
    | split
    | with_reducible refine Keeps.mk' ?_ rfl rfl

theorem keeps_startReq {z s : State} (hK : Keeps z s) (r : Req) : Keeps z (State.startReq s r) := by
  unfold State.startReq
  try dsimp only
  repeat' first
    | with_reducible assumption
    | with_reducible apply keeps_reqFail
    | with_reducible apply keeps_startRead
    | with_reducible apply keeps_startWrite
    | with_reducible apply keeps_startBatch
    | with_reducible apply keeps_startTime
    | with_reducible apply keeps_startMbx
    | with_reducible apply keeps_startAttest
    | with_reducible apply Keeps.ite
    | (intro _ _ _)
    | (intro _ _)
    | split
    | with_reducible refine Keeps.mk' ?_ rfl rfl

theorem keeps_takeRequest {z s : State} (hK : Keeps z s) (n : Nat) (r : Req) : Keeps z (State.takeRequest s n r) := by
  unfold State.takeRequest
  try dsimp only
  repeat' first
    | with_reducible assumption
    | with_reducible apply keeps_respond
    | with_reducible apply keeps_startReq
    | with_reducible apply Keeps.ite
    | (intro _ _ _)
    | (intro _ _)
    | with_reducible refine Keeps.mk' ?_ rfl rfl

theorem keeps_dequeue {z s : State} (hK : Keeps z s) : Keeps z (State.dequeue s) := by
  unfold State.dequeue
  try dsimp only
  repeat' first
    | with_reducible assumption
    | with_reducible apply keeps_startReq
    | (intro _ _ _)
    | (intro _ _)
    | split
    | with_reducible refine Keeps.mk' ?_ rfl rfl

theorem keeps_request {z s : State} (hK : Keeps z s) (m : Datagram) : Keeps z (State.request s m) := by
  unfold State.request
  try dsimp only
  repeat' first
    | with_reducible assumption
    | with_reducible apply keeps_dropDatagram
    | with_reducible apply keeps_heard
    | with_reducible apply keeps_respond
    | with_reducible apply keeps_bumpReg
    | with_reducible apply keeps_setSess
    | with_reducible apply keeps_countRx
    | with_reducible apply keeps_takeRequest
    | with_reducible apply Keeps.ite
    | (intro _ _ _)
    | (intro _ _)
    | split
    | with_reducible refine Keeps.mk' ?_ rfl rfl

theorem keeps_requestOf {z s : State} (hK : Keeps z s) (d : Datagram) (typ : Nat) (op : Nat → Bool) (at_ : Nat) : Keeps z (State.requestOf s d typ op at_) := by
  unfold State.requestOf
  try dsimp only
  repeat' first
    | with_reducible assumption
    | with_reducible apply keeps_request
    | with_reducible apply Keeps.when
    | (intro _ _ _)
    | (intro _ _)
    | with_reducible refine Keeps.mk' ?_ rfl rfl

theorem keeps_reportAck {z s : State} (hK : Keeps z s) (d : Datagram) : Keeps z (State.reportAck s d) := by
  unfold State.reportAck
  try dsimp only
  repeat' first
    | with_reducible assumption
    | with_reducible apply keeps_dropDatagram
    | with_reducible apply keeps_heard
    | with_reducible apply keeps_countRx
    | with_reducible apply keeps_setSess
    | with_reducible apply Keeps.when
    | with_reducible apply Keeps.ite
    | (intro _ _ _)
    | (intro _ _)
    | split
    | with_reducible refine Keeps.mk' ?_ rfl rfl

theorem keeps_hostDone {z s : State} (hK : Keeps z s) (a : Active) : Keeps z (State.hostDone s a) := by
  unfold State.hostDone
  try dsimp only
  repeat' first
    | with_reducible assumption
    | with_reducible apply keeps_reqEnd
    | with_reducible apply keeps_setActive
    | with_reducible apply keeps_issue
    | with_reducible apply keeps_recvWait
    | with_reducible apply keeps_reqFail
    | with_reducible apply Keeps.wr
    | with_reducible apply Keeps.ite
    | (intro _ _ _)
    | (intro _ _)
    | split
    | with_reducible refine Keeps.mk' ?_ rfl rfl

theorem keeps_hostAnswer {z s : State} (hK : Keeps z s) (src done err : Nat) (ws : List Word) : Keeps z (State.hostAnswer s src done err ws) := by
  unfold State.hostAnswer
  try dsimp only
  repeat' first
    | with_reducible assumption
    | with_reducible apply keeps_setActive
    | with_reducible apply keeps_reqFail
    | with_reducible apply keeps_hostDone
    | with_reducible apply keeps_issue
    | with_reducible apply Keeps.ite
    | (intro _ _ _)
    | (intro _ _)
    | split
    | with_reducible refine Keeps.mk' ?_ rfl rfl

theorem keeps_hostTimeoutRra {z s : State} (hK : Keeps z s) : Keeps z (State.hostTimeoutRra s) := by
  unfold State.hostTimeoutRra
  try dsimp only
  repeat' first
    | with_reducible assumption
    | with_reducible apply keeps_reqFail
    | with_reducible apply Keeps.ite
    | (intro _ _ _)
    | (intro _ _)
    | split
    | with_reducible refine Keeps.mk' ?_ rfl rfl

theorem keeps_relayAnswer {z s : State} (hK : Keeps z s) (src typ : Nat) (head body : List Byte) : Keeps z (State.relayAnswer s src typ head body) := by
  unfold State.relayAnswer
  try dsimp only
  repeat' first
    | with_reducible assumption
    | with_reducible apply keeps_reqFail
    | with_reducible apply keeps_reqEnd
    | with_reducible apply Keeps.when
    | with_reducible apply Keeps.ite
    | (intro _ _ _)
    | (intro _ _)
    | split
    | with_reducible refine Keeps.mk' ?_ rfl rfl

theorem keeps_recvAgain {z s : State} (hK : Keeps z s) (n : Nat) (r : Req) : Keeps z (State.recvAgain s n r) := by
  unfold State.recvAgain
  try dsimp only
  repeat' first
    | with_reducible assumption
    | with_reducible apply keeps_setSess
    | with_reducible apply keeps_dequeue
    | (intro _ _ _)
    | (intro _ _)
    | with_reducible refine Keeps.mk' ?_ rfl rfl

theorem keeps_recvExpiry {z s : State} (hK : Keeps z s) (n : Nat) (expired : Bool) : Keeps z (State.recvExpiry s n expired) := by
  unfold State.recvExpiry
  try dsimp only
  repeat' first
    | with_reducible assumption
    | with_reducible apply keeps_runUp
    | with_reducible apply keeps_setSess
    | with_reducible apply keeps_recvLocal
    | with_reducible apply keeps_setActive
    | with_reducible apply keeps_respond
    | with_reducible apply keeps_sendRra
    | with_reducible apply Keeps.when
    | with_reducible apply Keeps.ite
    | (intro _ _ _)
    | (intro _ _)
    | split
    | with_reducible refine Keeps.mk' ?_ rfl rfl

theorem keeps_recvPolled {z s : State} (hK : Keeps z s) (n src : Nat) (ws : List Word) : Keeps z (State.recvPolled s n src ws) := by
  unfold State.recvPolled
  try dsimp only
  repeat' first
    | with_reducible assumption
    | with_reducible apply keeps_recvAgain
    | with_reducible apply Keeps.when
    | (intro _ _ _)
    | (intro _ _)
    | split
    | with_reducible refine Keeps.mk' ?_ rfl rfl

theorem keeps_timeRx {z s : State} (hK : Keeps z s) (frame : List Byte) (event : Bool) : Keeps z (State.timeRx s frame event) := by
  unfold State.timeRx
  try dsimp only
  repeat' first
    | with_reducible assumption
    | with_reducible apply keeps_bumpReg
    | with_reducible apply keeps_setSess
    | with_reducible apply keeps_toHost
    | with_reducible apply Keeps.forUpTo
    | with_reducible apply Keeps.when
    | with_reducible apply Keeps.ite
    | (intro _ _ _)
    | (intro _ _)
    | with_reducible refine Keeps.mk' ?_ rfl rfl

theorem keeps_ptpReceived {z s : State} (hK : Keeps z s) (frame : List Byte) : Keeps z (State.ptpReceived s frame) := by
  unfold State.ptpReceived
  try dsimp only
  repeat' first
    | with_reducible assumption
    | with_reducible apply keeps_bumpReg
    | with_reducible apply keeps_raise
    | with_reducible apply keeps_timeRx
    | with_reducible apply Keeps.when
    | with_reducible apply Keeps.ite
    | (intro _ _ _)
    | (intro _ _)
    | split
    | with_reducible refine Keeps.mk' ?_ rfl rfl

theorem keeps_linkDown {z s : State} (hK : Keeps z s) : Keeps z (State.linkDown s) := by
  unfold State.linkDown
  try dsimp only
  repeat' first
    | with_reducible assumption
    | with_reducible apply keeps_setFlag
    | with_reducible apply keeps_raise
    | with_reducible apply Keeps.when
    | (intro _ _ _)
    | (intro _ _)
    | with_reducible refine Keeps.mk' ?_ rfl rfl

theorem keeps_linkUp {z s : State} (hK : Keeps z s) : Keeps z (State.linkUp s) := by
  unfold State.linkUp
  try dsimp only
  repeat' first
    | with_reducible assumption
    | with_reducible apply keeps_setFlag
    | with_reducible apply keeps_put
    | with_reducible apply keeps_endCause
    | with_reducible apply Keeps.when
    | (intro _ _ _)
    | (intro _ _)
    | with_reducible refine Keeps.mk' ?_ rfl rfl

theorem keeps_rraEnd {z s : State} (hK : Keeps z s) (err done : Nat) : Keeps z (State.rraEnd s err done) := by
  unfold State.rraEnd
  try dsimp only
  repeat' first
    | with_reducible assumption
    | with_reducible apply keeps_put
    | with_reducible apply Keeps.ite
    | (intro _ _ _)
    | (intro _ _)
    | with_reducible refine Keeps.mk' ?_ rfl rfl

theorem keeps_rraFill {z s : State} (hK : Keeps z s) (ws : List Word) : Keeps z (State.rraFill s ws) := by
  unfold State.rraFill
  try dsimp only
  repeat' first
    | with_reducible assumption
    | with_reducible apply keeps_wrAll
    | (intro _ _ _)
    | (intro _ _)
    | with_reducible refine Keeps.mk' ?_ rfl rfl

theorem keeps_rraExec {z s : State} (hK : Keeps z s) (by_ : Master) (write : Bool) (a n : Nat) (ws : List Word) : Keeps z (State.rraExec s by_ write a n ws).1 := by
  unfold State.rraExec
  try dsimp only
  repeat' first
    | with_reducible assumption
    | with_reducible apply keeps_writeWords
    | with_reducible apply keeps_readWords
    | with_reducible apply Keeps.ite
    | with_reducible apply Keeps.iteFst
    | (intro _ _ _)
    | (intro _ _)
    | with_reducible refine Keeps.mk' ?_ rfl rfl

theorem keeps_rraGo {z s : State} (hK : Keeps z s) : Keeps z (State.rraGo s) := by
  unfold State.rraGo
  try dsimp only
  repeat' first
    | with_reducible assumption
    | with_reducible apply keeps_rraEnd
    | with_reducible apply keeps_rraExec
    | with_reducible apply keeps_rraFill
    | with_reducible apply keeps_put
    | with_reducible apply keeps_sendRra
    | with_reducible apply Keeps.wr
    | with_reducible apply Keeps.ite
    | with_reducible apply Keeps.iteFst
    | (intro _ _ _)
    | (intro _ _)
    | with_reducible refine Keeps.mk' ?_ rfl rfl

theorem keeps_rraCtrl {z s : State} (hK : Keeps z s) (m : Master) (v : Nat) : Keeps z (State.rraCtrl s m v).1 := by
  unfold State.rraCtrl
  refine Keeps.iteFst hK ?_
  have h := keeps_writeAccess hK m m R.RNG_RRA_CTRL 4 v .clean
  split
  · next s1 heq => rw [heq] at h; exact Keeps.when h fun b hb => keeps_rraGo hb
  · exact h

theorem keeps_rraMessage {z s : State} (hK : Keeps z s) (src : Nat) (d : List Byte) : Keeps z (State.rraMessage s src d) := by
  unfold State.rraMessage
  try dsimp only
  repeat' first
    | with_reducible assumption
    | with_reducible apply keeps_rraExec
    | with_reducible apply keeps_bulkSend
    | with_reducible apply keeps_hostAnswer
    | with_reducible apply keeps_recvPolled
    | with_reducible apply keeps_rraFill
    | with_reducible apply keeps_rraEnd
    | with_reducible apply Keeps.when
    | with_reducible apply Keeps.ite
    | with_reducible apply Keeps.iteFst
    | (intro _ _ _)
    | (intro _ _)
    | split
    | with_reducible refine Keeps.mk' ?_ rfl rfl

theorem keeps_batchMessage {z s : State} (hK : Keeps z s) (src : Nat) (b : BulkIn) : Keeps z (State.batchMessage s src b) := by
  unfold State.batchMessage
  try dsimp only
  repeat' first
    | with_reducible assumption
    | with_reducible apply keeps_batchAck
    | with_reducible apply keeps_batchCancel
    | with_reducible apply keeps_batchStage
    | with_reducible apply keeps_bulkSend
    | with_reducible apply Keeps.when
    | with_reducible apply Keeps.ite
    | with_reducible apply Keeps.iteFst
    | (intro _ _ _)
    | (intro _ _)
    | split
    | with_reducible refine Keeps.mk' ?_ rfl rfl

theorem keeps_batchApply {z s : State} (hK : Keeps z s) : Keeps z (State.batchApply s) := by
  unfold State.batchApply
  split
  · exact hK
  · next p t _ =>
    extract_lets e u src s0 src2 i refuse
    have h0 : Keeps z s0 := Keeps.when (Keeps.mk' (b := u) (keeps_runUp hK _) rfl rfl) fun b hb => keeps_ledTo hb _ _ _
    split
    · exact Keeps.mk' h0 rfl rfl
    · next a v _ =>
      extract_lets s1 last src2 s2
      have hr : ∀ b c, Keeps z b → Keeps z (refuse b c) := fun b c hb =>
        keeps_batchFault (Keeps.when hb fun b hb => keeps_wrN hb _ _) _ _
      have h1 : Keeps z s1 := by
        have h := keeps_writeAccess h0 .ha .ra a.toNat 4 v.toNat .clean
        unfold s1
        split
        · next t1 heq => rw [heq] at h; exact keeps_wrN h _ _
        · next t1 heq => rw [heq] at h; exact hr _ _ h
        · exact hr _ _ h0
      exact Keeps.when (Keeps.mk' h1 rfl rfl) fun b hb => keeps_sendOutcome (keeps_ledTo hb _ _ _) _

theorem keeps_relayedFault {z s : State} (hK : Keeps z s) (src : Nat) (p : List Byte) : Keeps z (State.relayedFault s src p) := by
  unfold State.relayedFault
  try dsimp only
  repeat' first
    | with_reducible assumption
    | with_reducible apply keeps_raise
    | with_reducible apply keeps_report
    | with_reducible apply Keeps.when
    | with_reducible apply Keeps.ite
    | (intro _ _ _)
    | (intro _ _)
    | with_reducible refine Keeps.mk' ?_ rfl rfl

theorem keeps_relayMessage {z s : State} (hK : Keeps z s) (src : Nat) (d : List Byte) : Keeps z (State.relayMessage s src d) := by
  unfold State.relayMessage
  try dsimp only
  repeat' first
    | with_reducible assumption
    | with_reducible apply keeps_accCheck
    | with_reducible apply keeps_relayTo
    | with_reducible apply keeps_relayAnswer
    | with_reducible apply keeps_signQueue
    | with_reducible apply keeps_relayedFault
    | with_reducible apply keeps_forwardHealth
    | with_reducible apply keeps_report
    | with_reducible apply Keeps.when
    | with_reducible apply Keeps.ite
    | (intro _ _ _)
    | (intro _ _)
    | with_reducible refine Keeps.mk' ?_ rfl rfl

theorem keeps_bulkReceived {z s : State} (hK : Keeps z s) (a : Arrival) : Keeps z (State.bulkReceived s a) := by
  unfold State.bulkReceived
  extract_lets cw src
  refine Keeps.ite hK ?_
  have h := keeps_bulkTake hK src cw
  split
  · next s1 heq => rw [heq] at h; exact h
  · next s1 b heq =>
    rw [heq] at h
    have h : Keeps z s1 := h
    split
    · exact keeps_batchMessage h _ _
    · exact Keeps.when h fun b hb => keeps_rraMessage hb _ _
    · exact Keeps.when h fun b hb => keeps_mbxMessage hb _ _
    · exact Keeps.when h fun b hb => keeps_relayMessage hb _ _
    · exact h

theorem keeps_busWrite {z s : State} (hK : Keeps z s) (m : Master) (a size : Nat) (v : Nat) (e : Ecc) : Keeps z (State.busWrite s m a size v e) := by
  unfold State.busWrite
  try dsimp only
  repeat' first
    | with_reducible assumption
    | with_reducible apply keeps_rraCtrl
    | with_reducible apply keeps_writeAccess
    | with_reducible apply keeps_answer
    | with_reducible apply Keeps.ite
    | with_reducible apply Keeps.iteFst
    | (intro _ _ _)
    | (intro _ _)
    | with_reducible refine Keeps.mk' ?_ rfl rfl

end Sys2Proof.Machine
end

