-- ==== Sys2Proof/Laws/KeepExec.lean ====
section
/-! SUPPORT. Laws/KeepExec.lean: `Keeps` of the meaning of every command but a power-on reset, a second of the vault and the
loss of the vault's state, and of an idle tick. -/
namespace Sys2Proof.Machine
set_option Elab.async false

theorem execBulkInsert_keeps (p : Fin 4) (l : Fin 2) (bad : Bool) {s s' : State} (h : execBulkInsert p l bad s = .next s') : Keeps s s' := by
  cases h
  try dsimp only
  repeat' first
    | with_reducible exact Keeps.refl _
    | with_reducible assumption
    | with_reducible apply keeps_bulkInsert
    | with_reducible apply Keeps.live
    | (intro _ _ _)
    | (intro _ _)
    | with_reducible refine Keeps.mk' ?_ rfl rfl

theorem execBulkResend_keeps (dst stream : BitVec 8) {s s' : State} (h : execBulkResend dst stream s = .next s') : Keeps s s' := by
  cases h
  try dsimp only
  repeat' first
    | with_reducible exact Keeps.refl _
    | with_reducible assumption
    | with_reducible apply keeps_bulkResend
    | with_reducible apply Keeps.live
    | (intro _ _ _)
    | (intro _ _)
    | with_reducible refine Keeps.mk' ?_ rfl rfl

theorem execCreditOnlySend_keeps (dst stream : BitVec 8) {s s' : State} (h : execCreditOnlySend dst stream s = .next s') : Keeps s s' := by
  cases h
  try dsimp only
  repeat' first
    | with_reducible exact Keeps.refl _
    | with_reducible assumption
    | with_reducible apply keeps_creditOnly
    | with_reducible apply Keeps.live
    | (intro _ _ _)
    | (intro _ _)
    | with_reducible refine Keeps.mk' ?_ rfl rfl

theorem execAdcTrigger_keeps (m : Fin 16) {s s' : State} (h : execAdcTrigger m s = .next s') : Keeps s s' := by
  cases h
  try dsimp only
  repeat' first
    | with_reducible exact Keeps.refl _
    | with_reducible assumption
    | with_reducible apply keeps_adcTrigger
    | with_reducible apply Keeps.live
    | (intro _ _ _)
    | (intro _ _)
    | with_reducible refine Keeps.mk' ?_ rfl rfl

theorem execHoldInstant_keeps (m : Fin 16) {s s' : State} (h : execHoldInstant m s = .next s') : Keeps s s' := by
  cases h
  try dsimp only
  repeat' first
    | with_reducible exact Keeps.refl _
    | with_reducible assumption
    | with_reducible apply keeps_holdInstant
    | with_reducible apply Keeps.live
    | (intro _ _ _)
    | (intro _ _)
    | with_reducible refine Keeps.mk' ?_ rfl rfl

theorem execConversionEnd_keeps (a : Fin 2) (raw : Int) {s s' : State} (h : execConversionEnd a raw s = .next s') : Keeps s s' := by
  cases h
  try dsimp only
  repeat' first
    | with_reducible exact Keeps.refl _
    | with_reducible assumption
    | with_reducible apply keeps_conversionEnd
    | with_reducible apply Keeps.live
    | (intro _ _ _)
    | (intro _ _)
    | with_reducible refine Keeps.mk' ?_ rfl rfl

theorem execLpWrite_keeps (v : BitVec 2) {s s' : State} (h : execLpWrite v s = .next s') : Keeps s s' := by
  cases h
  try dsimp only
  repeat' first
    | with_reducible exact Keeps.refl _
    | with_reducible assumption
    | with_reducible apply keeps_lpWrite
    | with_reducible apply Keeps.live
    | (intro _ _ _)
    | (intro _ _)
    | with_reducible refine Keeps.mk' ?_ rfl rfl

theorem execLowPowerSwitchEnd_keeps (a : Fin 2) {s s' : State} (h : execLowPowerSwitchEnd a s = .next s') : Keeps s s' := by
  cases h
  try dsimp only
  repeat' first
    | with_reducible exact Keeps.refl _
    | with_reducible assumption
    | with_reducible apply keeps_lpSwitchEnd
    | with_reducible apply Keeps.when
    | with_reducible apply Keeps.live
    | (intro _ _ _)
    | (intro _ _)
    | with_reducible refine Keeps.mk' ?_ rfl rfl

theorem execChWrite_keeps (m : Fin 16) (v : BitVec 5) {s s' : State} (h : execChWrite m v s = .next s') : Keeps s s' := by
  cases h
  try dsimp only
  repeat' first
    | with_reducible exact Keeps.refl _
    | with_reducible assumption
    | with_reducible apply keeps_chWrite
    | with_reducible apply Keeps.live
    | (intro _ _ _)
    | (intro _ _)
    | with_reducible refine Keeps.mk' ?_ rfl rfl

theorem execHousekeepingStart_keeps (a : Fin 2) (ch : Fin 19) {s s' : State} (h : execHousekeepingStart a ch s = .next s') : Keeps s s' := by
  cases h
  try dsimp only
  repeat' first
    | with_reducible exact Keeps.refl _
    | with_reducible assumption
    | with_reducible apply keeps_hkStart
    | with_reducible apply Keeps.live
    | (intro _ _ _)
    | (intro _ _)
    | with_reducible refine Keeps.mk' ?_ rfl rfl

theorem execReferenceCheck_keeps (a : Fin 2) {s s' : State} (h : execReferenceCheck a s = .next s') : Keeps s s' := by
  cases h
  try dsimp only
  repeat' first
    | with_reducible exact Keeps.refl _
    | with_reducible assumption
    | with_reducible apply keeps_refCheck
    | with_reducible apply Keeps.live
    | (intro _ _ _)
    | (intro _ _)
    | with_reducible refine Keeps.mk' ?_ rfl rfl

theorem execAdcCntClr_keeps {s s' : State} (h : execAdcCntClr s = .next s') : Keeps s s' := by
  cases h
  try dsimp only
  repeat' first
    | with_reducible exact Keeps.refl _
    | with_reducible assumption
    | with_reducible apply keeps_adcCntClr
    | with_reducible apply Keeps.live
    | (intro _ _ _)
    | (intro _ _)
    | with_reducible refine Keeps.mk' ?_ rfl rfl

theorem execLanePllLock_keeps (pll : Fin 2) {s s' : State} (h : execLanePllLock pll s = .next s') : Keeps s s' := by
  cases h
  try dsimp only
  repeat' first
    | with_reducible exact Keeps.refl _
    | with_reducible assumption
    | with_reducible apply keeps_lanePllLock
    | with_reducible apply Keeps.live
    | (intro _ _ _)
    | (intro _ _)
    | with_reducible refine Keeps.mk' ?_ rfl rfl

theorem execLanePllLoss_keeps (pll : Fin 2) {s s' : State} (h : execLanePllLoss pll s = .next s') : Keeps s s' := by
  cases h
  try dsimp only
  repeat' first
    | with_reducible exact Keeps.refl _
    | with_reducible assumption
    | with_reducible apply keeps_lanePllLoss
    | with_reducible apply Keeps.live
    | (intro _ _ _)
    | (intro _ _)
    | with_reducible refine Keeps.mk' ?_ rfl rfl

theorem execBothLanePllsOutOfLock_keeps {s s' : State} (h : execBothLanePllsOutOfLock s = .next s') : Keeps s s' := by
  cases h
  try dsimp only
  repeat' first
    | with_reducible exact Keeps.refl _
    | with_reducible assumption
    | with_reducible apply keeps_bothPllsOut
    | with_reducible apply Keeps.live
    | (intro _ _ _)
    | (intro _ _)
    | with_reducible refine Keeps.mk' ?_ rfl rfl

theorem execCdrLock_keeps (p : Fin 5) (l : Fin 2) {s s' : State} (h : execCdrLock p l s = .next s') : Keeps s s' := by
  cases h
  try dsimp only
  repeat' first
    | with_reducible exact Keeps.refl _
    | with_reducible assumption
    | with_reducible apply keeps_cdrLock
    | with_reducible apply Keeps.live
    | (intro _ _ _)
    | (intro _ _)
    | with_reducible refine Keeps.mk' ?_ rfl rfl

theorem execFrameLock_keeps (p : Fin 5) (l : Fin 2) {s s' : State} (h : execFrameLock p l s = .next s') : Keeps s s' := by
  cases h
  try dsimp only
  repeat' first
    | with_reducible exact Keeps.refl _
    | with_reducible assumption
    | with_reducible apply keeps_frameLock
    | with_reducible apply Keeps.live
    | (intro _ _ _)
    | (intro _ _)
    | with_reducible refine Keeps.mk' ?_ rfl rfl

theorem execLossOfFrame_keeps (p : Fin 5) (l : Fin 2) {s s' : State} (h : execLossOfFrame p l s = .next s') : Keeps s s' := by
  cases h
  try dsimp only
  repeat' first
    | with_reducible exact Keeps.refl _
    | with_reducible assumption
    | with_reducible apply keeps_lossOfFrame
    | with_reducible apply Keeps.live
    | (intro _ _ _)
    | (intro _ _)
    | with_reducible refine Keeps.mk' ?_ rfl rfl

theorem execLossOfSignal_keeps (p : Fin 5) (l : Fin 2) {s s' : State} (h : execLossOfSignal p l s = .next s') : Keeps s s' := by
  cases h
  try dsimp only
  repeat' first
    | with_reducible exact Keeps.refl _
    | with_reducible assumption
    | with_reducible apply keeps_lossOfSignal
    | with_reducible apply Keeps.live
    | (intro _ _ _)
    | (intro _ _)
    | with_reducible refine Keeps.mk' ?_ rfl rfl

theorem execLaneRetry_keeps (p : Fin 5) (l : Fin 2) {s s' : State} (h : execLaneRetry p l s = .next s') : Keeps s s' := by
  cases h
  try dsimp only
  repeat' first
    | with_reducible exact Keeps.refl _
    | with_reducible assumption
    | with_reducible apply keeps_laneRetry
    | with_reducible apply Keeps.live
    | (intro _ _ _)
    | (intro _ _)
    | with_reducible refine Keeps.mk' ?_ rfl rfl

theorem execTrainingDone_keeps (p : Fin 5) {s s' : State} (h : execTrainingDone p s = .next s') : Keeps s s' := by
  cases h
  try dsimp only
  repeat' first
    | with_reducible exact Keeps.refl _
    | with_reducible assumption
    | with_reducible apply keeps_trainingDone
    | with_reducible apply Keeps.live
    | (intro _ _ _)
    | (intro _ _)
    | with_reducible refine Keeps.mk' ?_ rfl rfl

theorem execTrainingFail_keeps (p : Fin 5) (err : Fin 5) {s s' : State} (h : execTrainingFail p err s = .next s') : Keeps s s' := by
  cases h
  try dsimp only
  repeat' first
    | with_reducible exact Keeps.refl _
    | with_reducible assumption
    | with_reducible apply keeps_trainingFail
    | with_reducible apply Keeps.live
    | (intro _ _ _)
    | (intro _ _)
    | with_reducible refine Keeps.mk' ?_ rfl rfl

theorem execTrainWaitEnd_keeps (p : Fin 5) {s s' : State} (h : execTrainWaitEnd p s = .next s') : Keeps s s' := by
  cases h
  try dsimp only
  repeat' first
    | with_reducible exact Keeps.refl _
    | with_reducible assumption
    | with_reducible apply keeps_trainWaitEnd
    | with_reducible apply Keeps.live
    | (intro _ _ _)
    | (intro _ _)
    | with_reducible refine Keeps.mk' ?_ rfl rfl

theorem execElasticBufferLimit_keeps (p : Fin 5) (l : Fin 2) {s s' : State} (h : execElasticBufferLimit p l s = .next s') : Keeps s s' := by
  cases h
  try dsimp only
  repeat' first
    | with_reducible exact Keeps.refl _
    | with_reducible assumption
    | with_reducible apply keeps_bufferLimit
    | with_reducible apply Keeps.live
    | (intro _ _ _)
    | (intro _ _)
    | with_reducible refine Keeps.mk' ?_ rfl rfl

theorem execEyeMonitorUpdate_keeps (p : Fin 5) (l : Fin 2) (height width : BitVec 8) (ser : Fin 13) {s s' : State} (h : execEyeMonitorUpdate p l height width ser s = .next s') : Keeps s s' := by
  cases h
  try dsimp only
  repeat' first
    | with_reducible exact Keeps.refl _
    | with_reducible assumption
    | with_reducible apply keeps_eyeUpdate
    | with_reducible apply Keeps.live
    | (intro _ _ _)
    | (intro _ _)
    | with_reducible refine Keeps.mk' ?_ rfl rfl

theorem execChillWrite_keeps (p : Fin 5) (on : Bool) {s s' : State} (h : execChillWrite p on s = .next s') : Keeps s s' := by
  cases h
  try dsimp only
  repeat' first
    | with_reducible exact Keeps.refl _
    | with_reducible assumption
    | with_reducible apply keeps_chillWrite
    | with_reducible apply Keeps.live
    | (intro _ _ _)
    | (intro _ _)
    | with_reducible refine Keeps.mk' ?_ rfl rfl

theorem execTrainWrite_keeps (p : Fin 5) {s s' : State} (h : execTrainWrite p s = .next s') : Keeps s s' := by
  cases h
  try dsimp only
  repeat' first
    | with_reducible exact Keeps.refl _
    | with_reducible assumption
    | with_reducible apply keeps_trainWrite
    | with_reducible apply Keeps.live
    | (intro _ _ _)
    | (intro _ _)
    | with_reducible refine Keeps.mk' ?_ rfl rfl

theorem execLnkCntClr_keeps (p : Fin 5) {s s' : State} (h : execLnkCntClr p s = .next s') : Keeps s s' := by
  cases h
  try dsimp only
  repeat' first
    | with_reducible exact Keeps.refl _
    | with_reducible assumption
    | with_reducible apply keeps_lnkCntClr
    | with_reducible apply Keeps.live
    | (intro _ _ _)
    | (intro _ _)
    | with_reducible refine Keeps.mk' ?_ rfl rfl

theorem execCarrierStart_keeps (ch : Fin 8) {s s' : State} (h : execCarrierStart ch s = .next s') : Keeps s s' := by
  cases h
  try dsimp only
  repeat' first
    | with_reducible exact Keeps.refl _
    | with_reducible assumption
    | with_reducible apply keeps_carrierE0
    | with_reducible apply Keeps.when
    | with_reducible apply Keeps.live
    | (intro _ _ _)
    | (intro _ _)
    | with_reducible refine Keeps.mk' ?_ rfl rfl

theorem execCarrierMidpoint_keeps (ch : Fin 8) {s s' : State} (h : execCarrierMidpoint ch s = .next s') : Keeps s s' := by
  cases h
  try dsimp only
  repeat' first
    | with_reducible exact Keeps.refl _
    | with_reducible assumption
    | with_reducible apply keeps_carrierMidpoint
    | with_reducible apply Keeps.when
    | with_reducible apply Keeps.live
    | (intro _ _ _)
    | (intro _ _)
    | with_reducible refine Keeps.mk' ?_ rfl rfl

theorem execCompareEvent_keeps (ch : Fin 8) (e3 : Bool) {s s' : State} (h : execCompareEvent ch e3 s = .next s') : Keeps s s' := by
  cases h
  try dsimp only
  repeat' first
    | with_reducible exact Keeps.refl _
    | with_reducible assumption
    | with_reducible apply keeps_compareE3
    | with_reducible apply keeps_compareE2
    | with_reducible apply Keeps.when
    | with_reducible apply Keeps.live
    | with_reducible apply Keeps.iteFst
    | with_reducible apply Keeps.ite
    | (intro _ _ _)
    | (intro _ _)
    | with_reducible refine Keeps.mk' ?_ rfl rfl

theorem execDeadIntervalEnd_keeps (leg : Fin 6) {s s' : State} (h : execDeadIntervalEnd leg s = .next s') : Keeps s s' := by
  cases h
  try dsimp only
  repeat' first
    | with_reducible exact Keeps.refl _
    | with_reducible assumption
    | with_reducible apply keeps_deadEnd
    | with_reducible apply Keeps.live
    | (intro _ _ _)
    | (intro _ _)
    | with_reducible refine Keeps.mk' ?_ rfl rfl

theorem execPwmShadowWrite_keeps (ch : Fin 8) (reg : ShadowReg) (v : Word) {s s' : State} (h : execPwmShadowWrite ch reg v s = .next s') : Keeps s s' := by
  cases h
  try dsimp only
  repeat' first
    | with_reducible exact Keeps.refl _
    | with_reducible assumption
    | with_reducible apply keeps_shadowWrite
    | with_reducible apply Keeps.live
    | (intro _ _ _)
    | (intro _ _)
    | with_reducible refine Keeps.mk' ?_ rfl rfl

theorem execPwmCtrlWrite_keeps (ch : Fin 8) (v : Word) {s s' : State} (h : execPwmCtrlWrite ch v s = .next s') : Keeps s s' := by
  cases h
  try dsimp only
  repeat' first
    | with_reducible exact Keeps.refl _
    | with_reducible assumption
    | with_reducible apply keeps_pwmCtrlWrite
    | with_reducible apply Keeps.live
    | (intro _ _ _)
    | (intro _ _)
    | with_reducible refine Keeps.mk' ?_ rfl rfl

theorem execTripInputActive_keeps (k : Fin 8) {s s' : State} (h : execTripInputActive k s = .next s') : Keeps s s' := by
  cases h
  try dsimp only
  repeat' first
    | with_reducible exact Keeps.refl _
    | with_reducible assumption
    | with_reducible apply keeps_tripActive
    | with_reducible apply Keeps.live
    | (intro _ _ _)
    | (intro _ _)
    | with_reducible refine Keeps.mk' ?_ rfl rfl

theorem execTripInputInactive_keeps (k : Fin 8) {s s' : State} (h : execTripInputInactive k s = .next s') : Keeps s s' := by
  cases h
  try dsimp only
  repeat' first
    | with_reducible exact Keeps.refl _
    | with_reducible assumption
    | with_reducible apply keeps_tripInactive
    | with_reducible apply Keeps.live
    | (intro _ _ _)
    | (intro _ _)
    | with_reducible refine Keeps.mk' ?_ rfl rfl

theorem execBlankingEnd_keeps (ch : Fin 8) {s s' : State} (h : execBlankingEnd ch s = .next s') : Keeps s s' := by
  cases h
  try dsimp only
  repeat' first
    | with_reducible exact Keeps.refl _
    | with_reducible assumption
    | with_reducible apply keeps_blankingEnd
    | with_reducible apply Keeps.live
    | (intro _ _ _)
    | (intro _ _)
    | with_reducible refine Keeps.mk' ?_ rfl rfl

theorem execGroupClear_keeps (groups : BitVec 8) {s s' : State} (h : execGroupClear groups s = .next s') : Keeps s s' := by
  cases h
  try dsimp only
  repeat' first
    | with_reducible exact Keeps.refl _
    | with_reducible assumption
    | with_reducible apply keeps_groupClear
    | with_reducible apply Keeps.live
    | (intro _ _ _)
    | (intro _ _)
    | with_reducible refine Keeps.mk' ?_ rfl rfl

theorem execRearm_keeps (m : Master) {s s' : State} (h : execRearm m s = .next s') : Keeps s s' := by
  cases h
  try dsimp only
  repeat' first
    | with_reducible exact Keeps.refl _
    | with_reducible assumption
    | with_reducible apply keeps_rearm
    | with_reducible apply Keeps.byMaster
    | (intro _ _ _)
    | (intro _ _)
    | with_reducible refine Keeps.mk' ?_ rfl rfl

theorem execPwmCntClr_keeps {s s' : State} (h : execPwmCntClr s = .next s') : Keeps s s' := by
  cases h
  try dsimp only
  repeat' first
    | with_reducible exact Keeps.refl _
    | with_reducible assumption
    | with_reducible apply keeps_pwmCntClr
    | with_reducible apply Keeps.live
    | (intro _ _ _)
    | (intro _ _)
    | with_reducible refine Keeps.mk' ?_ rfl rfl

theorem execDebugHalt_keeps {s s' : State} (h : execDebugHalt s = .next s') : Keeps s s' := by
  cases h
  try dsimp only
  repeat' first
    | with_reducible exact Keeps.refl _
    | with_reducible assumption
    | with_reducible apply keeps_debugHalt
    | with_reducible apply Keeps.when
    | with_reducible apply Keeps.live
    | (intro _ _ _)
    | (intro _ _)
    | with_reducible refine Keeps.mk' ?_ rfl rfl

theorem execDebugHaltEnd_keeps {s s' : State} (h : execDebugHaltEnd s = .next s') : Keeps s s' := by
  cases h
  try dsimp only
  repeat' first
    | with_reducible exact Keeps.refl _
    | with_reducible assumption
    | with_reducible apply keeps_setFlag
    | with_reducible apply Keeps.live
    | (intro _ _ _)
    | (intro _ _)
    | with_reducible refine Keeps.mk' ?_ rfl rfl

theorem execTimebaseLoss_keeps {s s' : State} (h : execTimebaseLoss s = .next s') : Keeps s s' := by
  cases h
  try dsimp only
  repeat' first
    | with_reducible exact Keeps.refl _
    | with_reducible assumption
    | with_reducible apply keeps_loseTimebase
    | with_reducible apply keeps_raise
    | with_reducible apply keeps_leaveService
    | with_reducible apply Keeps.live
    | (intro _ _ _)
    | (intro _ _)
    | with_reducible refine Keeps.mk' ?_ rfl rfl

theorem execShortCircuit_keeps (leg : Fin 6) (sw : Sw) {s s' : State} (h : execShortCircuit leg sw s = .next s') : Keeps s s' := by
  cases h
  try dsimp only
  repeat' first
    | with_reducible exact Keeps.refl _
    | with_reducible assumption
    | with_reducible apply keeps_shortCircuit
    | with_reducible apply keeps_raiseDue
    | with_reducible apply Keeps.live
    | (intro _ _ _)
    | (intro _ _)
    | with_reducible refine Keeps.mk' ?_ rfl rfl

theorem execSoftTurnOffEnd_keeps (leg : Fin 6) (sw : Sw) {s s' : State} (h : execSoftTurnOffEnd leg sw s = .next s') : Keeps s s' := by
  cases h
  try dsimp only
  repeat' first
    | with_reducible exact Keeps.refl _
    | with_reducible assumption
    | with_reducible apply keeps_softEnd
    | with_reducible apply keeps_raiseDue
    | with_reducible apply Keeps.live
    | (intro _ _ _)
    | (intro _ _)
    | with_reducible refine Keeps.mk' ?_ rfl rfl

theorem execWaitExpiry_keeps (leg : Fin 6) (sw : Sw) {s s' : State} (h : execWaitExpiry leg sw s = .next s') : Keeps s s' := by
  cases h
  try dsimp only
  repeat' first
    | with_reducible exact Keeps.refl _
    | with_reducible assumption
    | with_reducible apply keeps_waitExpiry
    | with_reducible apply keeps_raiseDue
    | with_reducible apply Keeps.live
    | (intro _ _ _)
    | (intro _ _)
    | with_reducible refine Keeps.mk' ?_ rfl rfl

theorem execBootstrapUndervoltage_keeps (leg : Fin 6) {s s' : State} (h : execBootstrapUndervoltage leg s = .next s') : Keeps s s' := by
  cases h
  try dsimp only
  repeat' first
    | with_reducible exact Keeps.refl _
    | with_reducible assumption
    | with_reducible apply keeps_bootUv
    | with_reducible apply keeps_raiseDue
    | with_reducible apply Keeps.live
    | (intro _ _ _)
    | (intro _ _)
    | with_reducible refine Keeps.mk' ?_ rfl rfl

theorem execBootstrapCharged_keeps (leg : Fin 6) {s s' : State} (h : execBootstrapCharged leg s = .next s') : Keeps s s' := by
  cases h
  try dsimp only
  repeat' first
    | with_reducible exact Keeps.refl _
    | with_reducible assumption
    | with_reducible apply keeps_bootCharged
    | with_reducible apply Keeps.live
    | (intro _ _ _)
    | (intro _ _)
    | with_reducible refine Keeps.mk' ?_ rfl rfl

theorem execChargeTimeout_keeps (leg : Fin 6) {s s' : State} (h : execChargeTimeout leg s = .next s') : Keeps s s' := by
  cases h
  try dsimp only
  repeat' first
    | with_reducible exact Keeps.refl _
    | with_reducible assumption
    | with_reducible apply keeps_chargeTimeout
    | with_reducible apply keeps_raiseDue
    | with_reducible apply Keeps.live
    | (intro _ _ _)
    | (intro _ _)
    | with_reducible refine Keeps.mk' ?_ rfl rfl

theorem execVdrvUndervoltage_keeps {s s' : State} (h : execVdrvUndervoltage s = .next s') : Keeps s s' := by
  cases h
  try dsimp only
  repeat' first
    | with_reducible exact Keeps.refl _
    | with_reducible assumption
    | with_reducible apply keeps_supplyUv
    | with_reducible apply keeps_raiseDue
    | with_reducible apply Keeps.live
    | (intro _ _ _)
    | (intro _ _)
    | with_reducible refine Keeps.mk' ?_ rfl rfl

theorem execVnegUndervoltage_keeps {s s' : State} (h : execVnegUndervoltage s = .next s') : Keeps s s' := by
  cases h
  try dsimp only
  repeat' first
    | with_reducible exact Keeps.refl _
    | with_reducible assumption
    | with_reducible apply keeps_supplyUv
    | with_reducible apply keeps_raiseDue
    | with_reducible apply Keeps.live
    | (intro _ _ _)
    | (intro _ _)
    | with_reducible refine Keeps.mk' ?_ rfl rfl

theorem execSupplyUvEnd_keeps (sup : Supply) {s s' : State} (h : execSupplyUvEnd sup s = .next s') : Keeps s s' := by
  cases h
  try dsimp only
  repeat' first
    | with_reducible exact Keeps.refl _
    | with_reducible assumption
    | with_reducible apply keeps_supplyEnd
    | with_reducible apply Keeps.live
    | (intro _ _ _)
    | (intro _ _)
    | with_reducible refine Keeps.mk' ?_ rfl rfl

theorem execInterlock_keeps (leg : Fin 6) (first : Option Sw) {s s' : State} (h : execInterlock leg first s = .next s') : Keeps s s' := by
  cases h
  try dsimp only
  repeat' first
    | with_reducible exact Keeps.refl _
    | with_reducible assumption
    | with_reducible apply keeps_interlock
    | with_reducible apply Keeps.live
    | (intro _ _ _)
    | (intro _ _)
    | with_reducible refine Keeps.mk' ?_ rfl rfl

theorem execDeadtimeViolation_keeps (leg : Fin 6) (sw : Sw) {s s' : State} (h : execDeadtimeViolation leg sw s = .next s') : Keeps s s' := by
  cases h
  try dsimp only
  repeat' first
    | with_reducible exact Keeps.refl _
    | with_reducible assumption
    | with_reducible apply keeps_deadtimeViol
    | with_reducible apply Keeps.live
    | (intro _ _ _)
    | (intro _ _)
    | with_reducible refine Keeps.mk' ?_ rfl rfl

theorem execShoot_keeps (leg : Fin 6) {s s' : State} (h : execShoot leg s = .next s') : Keeps s s' := by
  cases h
  try dsimp only
  repeat' first
    | with_reducible exact Keeps.refl _
    | with_reducible assumption
    | with_reducible apply keeps_shootLeg
    | with_reducible apply Keeps.when
    | with_reducible apply Keeps.live
    | (intro _ _ _)
    | (intro _ _)
    | with_reducible refine Keeps.mk' ?_ rfl rfl

theorem execSelfTest_keeps (leg : Fin 6) (sw : Sw) (trip : Option (BitVec 16)) (mv : BitVec 16) {s s' : State} (h : execSelfTest leg sw trip mv s = .next s') : Keeps s s' := by
  cases h
  try dsimp only
  repeat' first
    | with_reducible exact Keeps.refl _
    | with_reducible assumption
    | with_reducible apply keeps_selfTest
    | with_reducible apply Keeps.live
    | (intro _ _ _)
    | (intro _ _)
    | with_reducible refine Keeps.mk' ?_ rfl rfl

theorem execInjNow_keeps {s s' : State} (h : execInjNow s = .next s') : Keeps s s' := by
  cases h
  try dsimp only
  repeat' first
    | with_reducible exact Keeps.refl _
    | with_reducible assumption
    | with_reducible apply keeps_injNow
    | with_reducible apply Keeps.live
    | (intro _ _ _)
    | (intro _ _)
    | with_reducible refine Keeps.mk' ?_ rfl rfl

theorem execGdDeratingPublish_keeps (vdrv vneg : BitVec 16) (vbs : List (BitVec 16)) {s s' : State} (h : execGdDeratingPublish vdrv vneg vbs s = .next s') : Keeps s s' := by
  cases h
  try dsimp only
  repeat' first
    | with_reducible exact Keeps.refl _
    | with_reducible assumption
    | with_reducible apply keeps_gdPublish
    | with_reducible apply Keeps.live
    | (intro _ _ _)
    | (intro _ _)
    | with_reducible refine Keeps.mk' ?_ rfl rfl

theorem execGdCntClr_keeps {s s' : State} (h : execGdCntClr s = .next s') : Keeps s s' := by
  cases h
  try dsimp only
  repeat' first
    | with_reducible exact Keeps.refl _
    | with_reducible assumption
    | with_reducible apply keeps_gdCntClr
    | with_reducible apply Keeps.live
    | (intro _ _ _)
    | (intro _ _)
    | with_reducible refine Keeps.mk' ?_ rfl rfl

theorem execSensorReading_keeps (sensor : Fin 14) (t : Int) (bad : Bool) {s s' : State} (h : execSensorReading sensor t bad s = .next s') : Keeps s s' := by
  cases h
  try dsimp only
  repeat' first
    | with_reducible exact Keeps.refl _
    | with_reducible assumption
    | with_reducible apply keeps_sensorReading
    | with_reducible apply Keeps.live
    | (intro _ _ _)
    | (intro _ _)
    | with_reducible refine Keeps.mk' ?_ rfl rfl

theorem execLogWrite_keeps {s s' : State} (h : execLogWrite s = .next s') : Keeps s s' := by
  cases h
  try dsimp only
  repeat' first
    | with_reducible exact Keeps.refl _
    | with_reducible assumption
    | with_reducible apply keeps_logWrite
    | with_reducible apply Keeps.when
    | with_reducible apply Keeps.live
    | (intro _ _ _)
    | (intro _ _)
    | with_reducible refine Keeps.mk' ?_ rfl rfl

theorem execLogSelWrite_keeps (v : BitVec 8) {s s' : State} (h : execLogSelWrite v s = .next s') : Keeps s s' := by
  cases h
  try dsimp only
  repeat' first
    | with_reducible exact Keeps.refl _
    | with_reducible assumption
    | with_reducible apply keeps_logSel
    | with_reducible apply Keeps.live
    | (intro _ _ _)
    | (intro _ _)
    | with_reducible refine Keeps.mk' ?_ rfl rfl

theorem execLogReadDone_keeps {s s' : State} (h : execLogReadDone s = .next s') : Keeps s s' := by
  cases h
  try dsimp only
  repeat' first
    | with_reducible exact Keeps.refl _
    | with_reducible assumption
    | with_reducible apply keeps_logReadDone
    | with_reducible apply Keeps.live
    | (intro _ _ _)
    | (intro _ _)
    | with_reducible refine Keeps.mk' ?_ rfl rfl

theorem execEccWriteBack_keeps (addr : Word) {s s' : State} (h : execEccWriteBack addr s = .next s') : Keeps s s' := by
  cases h
  try dsimp only
  repeat' first
    | with_reducible exact Keeps.refl _
    | with_reducible assumption
    | with_reducible apply keeps_eccClear
    | with_reducible apply Keeps.when
    | with_reducible apply Keeps.live
    | (intro _ _ _)
    | (intro _ _)
    | with_reducible refine Keeps.mk' ?_ rfl rfl

theorem execBucketLeak_keeps (r : Fin 8) {s s' : State} (h : execBucketLeak r s = .next s') : Keeps s s' := by
  cases h
  try dsimp only
  repeat' first
    | with_reducible exact Keeps.refl _
    | with_reducible assumption
    | with_reducible apply keeps_bucketLeak
    | with_reducible apply Keeps.live
    | (intro _ _ _)
    | (intro _ _)
    | with_reducible refine Keeps.mk' ?_ rfl rfl

theorem execScrubGo_keeps (m : Master) {s s' : State} (h : execScrubGo m s = .next s') : Keeps s s' := by
  cases h
  try dsimp only
  repeat' first
    | with_reducible exact Keeps.refl _
    | with_reducible assumption
    | with_reducible apply keeps_violation
    | with_reducible apply keeps_scrubGo
    | with_reducible apply Keeps.when
    | with_reducible apply Keeps.byMaster
    | (intro _ _ _)
    | (intro _ _)
    | with_reducible refine Keeps.mk' ?_ rfl rfl

theorem execScrubAbort_keeps (m : Master) {s s' : State} (h : execScrubAbort m s = .next s') : Keeps s s' := by
  cases h
  try dsimp only
  repeat' first
    | with_reducible exact Keeps.refl _
    | with_reducible assumption
    | with_reducible apply keeps_scrubAbort
    | with_reducible apply keeps_violation
    | with_reducible apply Keeps.byMaster
    | with_reducible apply Keeps.iteFst
    | with_reducible apply Keeps.ite
    | (intro _ _ _)
    | (intro _ _)
    | with_reducible refine Keeps.mk' ?_ rfl rfl

theorem execScrubWord_keeps (ecc : Ecc) {s s' : State} (h : execScrubWord ecc s = .next s') : Keeps s s' := by
  cases h
  try dsimp only
  repeat' first
    | with_reducible exact Keeps.refl _
    | with_reducible assumption
    | with_reducible apply keeps_scrubWord
    | with_reducible apply Keeps.live
    | (intro _ _ _)
    | (intro _ _)
    | with_reducible refine Keeps.mk' ?_ rfl rfl

theorem execRepair_keeps (m : Master) (v : Word) {s s' : State} (h : execRepair m v s = .next s') : Keeps s s' := by
  cases h
  try dsimp only
  repeat' first
    | with_reducible exact Keeps.refl _
    | with_reducible assumption
    | with_reducible apply keeps_violation
    | with_reducible apply keeps_memRepair
    | with_reducible apply Keeps.when
    | with_reducible apply Keeps.byMaster
    | (intro _ _ _)
    | (intro _ _)
    | with_reducible refine Keeps.mk' ?_ rfl rfl

theorem execMemCntClr_keeps {s s' : State} (h : execMemCntClr s = .next s') : Keeps s s' := by
  cases h
  try dsimp only
  repeat' first
    | with_reducible exact Keeps.refl _
    | with_reducible assumption
    | with_reducible apply keeps_memCntClr
    | with_reducible apply Keeps.live
    | (intro _ _ _)
    | (intro _ _)
    | with_reducible refine Keeps.mk' ?_ rfl rfl

theorem execTestGapStart_keeps (src : Fin 2) {s s' : State} (h : execTestGapStart src s = .next s') : Keeps s s' := by
  cases h
  try dsimp only
  repeat' first
    | with_reducible exact Keeps.refl _
    | with_reducible assumption
    | with_reducible apply keeps_gapStart
    | with_reducible apply Keeps.live
    | (intro _ _ _)
    | (intro _ _)
    | with_reducible refine Keeps.mk' ?_ rfl rfl

theorem execTestGapEnd_keeps (src : Fin 2) {s s' : State} (h : execTestGapEnd src s = .next s') : Keeps s s' := by
  cases h
  try dsimp only
  repeat' first
    | with_reducible exact Keeps.refl _
    | with_reducible assumption
    | with_reducible apply keeps_gapEnd
    | with_reducible apply Keeps.live
    | (intro _ _ _)
    | (intro _ _)
    | with_reducible refine Keeps.mk' ?_ rfl rfl

theorem execTestSourceLimit_keeps (src : Fin 2) {s s' : State} (h : execTestSourceLimit src s = .next s') : Keeps s s' := by
  cases h
  try dsimp only
  repeat' first
    | with_reducible exact Keeps.refl _
    | with_reducible assumption
    | with_reducible apply keeps_sourceLimit
    | with_reducible apply Keeps.live
    | (intro _ _ _)
    | (intro _ _)
    | with_reducible refine Keeps.mk' ?_ rfl rfl

theorem execSafeInputSample_keeps (a b : BitVec 8) {s s' : State} (h : execSafeInputSample a b s = .next s') : Keeps s s' := by
  cases h
  try dsimp only
  repeat' first
    | with_reducible exact Keeps.refl _
    | with_reducible assumption
    | with_reducible apply keeps_safSample
    | with_reducible apply Keeps.live
    | (intro _ _ _)
    | (intro _ _)
    | with_reducible refine Keeps.mk' ?_ rfl rfl

theorem execVauxUndervoltage_keeps {s s' : State} (h : execVauxUndervoltage s = .next s') : Keeps s s' := by
  cases h
  try dsimp only
  repeat' first
    | with_reducible exact Keeps.refl _
    | with_reducible assumption
    | with_reducible apply keeps_vauxUv
    | with_reducible apply Keeps.live
    | (intro _ _ _)
    | (intro _ _)
    | with_reducible refine Keeps.mk' ?_ rfl rfl

theorem execVauxRecover_keeps {s s' : State} (h : execVauxRecover s = .next s') : Keeps s s' := by
  cases h
  try dsimp only
  repeat' first
    | with_reducible exact Keeps.refl _
    | with_reducible assumption
    | with_reducible apply keeps_vauxOk
    | with_reducible apply Keeps.live
    | (intro _ _ _)
    | (intro _ _)
    | with_reducible refine Keeps.mk' ?_ rfl rfl

theorem execSafetyDecision_keeps (diverted : List (Fin 4 × List Byte)) {s s' : State} (h : execSafetyDecision diverted s = .next s') : Keeps s s' := by
  cases h
  try dsimp only
  repeat' first
    | with_reducible exact Keeps.refl _
    | with_reducible assumption
    | with_reducible apply keeps_divert
    | with_reducible apply keeps_safetyDecision
    | with_reducible apply Keeps.live
    | with_reducible apply Keeps.foldl
    | (intro _ _ _)
    | (intro _ _)
    | with_reducible refine Keeps.mk' ?_ rfl rfl

theorem execSafeReceived_keeps {s s' : State} (h : execSafeReceived s = .next s') : Keeps s s' := by
  cases h
  try dsimp only
  repeat' first
    | with_reducible exact Keeps.refl _
    | with_reducible assumption
    | with_reducible apply keeps_takeRx
    | with_reducible apply keeps_safeReceived
    | with_reducible apply Keeps.live
    | (intro _ _ _)
    | (intro _ _)
    | with_reducible refine Keeps.mk' ?_ rfl rfl

theorem execDiscrepancyWindowClose_keeps (head : Fin 2) {s s' : State} (h : execDiscrepancyWindowClose head s = .next s') : Keeps s s' := by
  cases h
  try dsimp only
  repeat' first
    | with_reducible exact Keeps.refl _
    | with_reducible assumption
    | with_reducible apply keeps_windowEnd
    | with_reducible apply Keeps.live
    | (intro _ _ _)
    | (intro _ _)
    | with_reducible refine Keeps.mk' ?_ rfl rfl

theorem execStoLoss_keeps {s s' : State} (h : execStoLoss s = .next s') : Keeps s s' := by
  cases h
  try dsimp only
  repeat' first
    | with_reducible exact Keeps.refl _
    | with_reducible assumption
    | with_reducible apply keeps_stoLoss
    | with_reducible apply Keeps.live
    | (intro _ _ _)
    | (intro _ _)
    | with_reducible refine Keeps.mk' ?_ rfl rfl

theorem execLocalEvaluation_keeps (agree : Bool) {s s' : State} (h : execLocalEvaluation agree s = .next s') : Keeps s s' := by
  cases h
  try dsimp only
  repeat' first
    | with_reducible exact Keeps.refl _
    | with_reducible assumption
    | with_reducible apply keeps_localEval
    | with_reducible apply Keeps.live
    | (intro _ _ _)
    | (intro _ _)
    | with_reducible refine Keeps.mk' ?_ rfl rfl

theorem execDarkTest_keeps (ch : Fin 2) (off : Bool) {s s' : State} (h : execDarkTest ch off s = .next s') : Keeps s s' := by
  cases h
  try dsimp only
  repeat' first
    | with_reducible exact Keeps.refl _
    | with_reducible assumption
    | with_reducible apply keeps_darkTest
    | with_reducible apply Keeps.live
    | (intro _ _ _)
    | (intro _ _)
    | with_reducible refine Keeps.mk' ?_ rfl rfl

theorem execSoReadback_keeps (so : Fin 2) (ch : Fin 2) (below5 aboveV : Bool) {s s' : State} (h : execSoReadback so ch below5 aboveV s = .next s') : Keeps s s' := by
  cases h
  try dsimp only
  repeat' first
    | with_reducible exact Keeps.refl _
    | with_reducible assumption
    | with_reducible apply keeps_soReadback
    | with_reducible apply Keeps.live
    | (intro _ _ _)
    | (intro _ _)
    | with_reducible refine Keeps.mk' ?_ rfl rfl

theorem execEdmCheck_keeps (so : Fin 2) {s s' : State} (h : execEdmCheck so s = .next s') : Keeps s s' := by
  cases h
  try dsimp only
  repeat' first
    | with_reducible exact Keeps.refl _
    | with_reducible assumption
    | with_reducible apply keeps_edmCheck
    | with_reducible apply Keeps.live
    | (intro _ _ _)
    | (intro _ _)
    | with_reducible refine Keeps.mk' ?_ rfl rfl

theorem execSafCntClr_keeps {s s' : State} (h : execSafCntClr s = .next s') : Keeps s s' := by
  cases h
  try dsimp only
  repeat' first
    | with_reducible exact Keeps.refl _
    | with_reducible assumption
    | with_reducible apply keeps_safCntClr
    | with_reducible apply Keeps.live
    | (intro _ _ _)
    | (intro _ _)
    | with_reducible refine Keeps.mk' ?_ rfl rfl

theorem execRgTrigger_keeps (g : Fin 8) (upset : Option (Fin 24576)) {s s' : State} (h : execRgTrigger g upset s = .next s') : Keeps s s' := by
  cases h
  try dsimp only
  repeat' first
    | with_reducible exact Keeps.refl _
    | with_reducible assumption
    | with_reducible apply keeps_eccSet
    | with_reducible apply keeps_rgTrigger
    | with_reducible apply Keeps.live
    | (intro _ _ _)
    | (intro _ _)
    | split
    | with_reducible refine Keeps.mk' ?_ rfl rfl

theorem execGroupCommit_keeps (g : Fin 8) {s s' : State} (h : execGroupCommit g s = .next s') : Keeps s s' := by
  cases h
  try dsimp only
  repeat' first
    | with_reducible exact Keeps.refl _
    | with_reducible assumption
    | with_reducible apply keeps_groupCommit
    | with_reducible apply Keeps.live
    | (intro _ _ _)
    | (intro _ _)
    | with_reducible refine Keeps.mk' ?_ rfl rfl

theorem execDeadlineMiss_keeps (g : Fin 8) {s s' : State} (h : execDeadlineMiss g s = .next s') : Keeps s s' := by
  cases h
  try dsimp only
  repeat' first
    | with_reducible exact Keeps.refl _
    | with_reducible assumption
    | with_reducible apply keeps_groupMiss
    | with_reducible apply Keeps.live
    | (intro _ _ _)
    | (intro _ _)
    | with_reducible refine Keeps.mk' ?_ rfl rfl

theorem execSwapGo_keeps (next : Bool) {s s' : State} (h : execSwapGo next s = .next s') : Keeps s s' := by
  cases h
  try dsimp only
  repeat' first
    | with_reducible exact Keeps.refl _
    | with_reducible assumption
    | with_reducible apply keeps_swapGo
    | with_reducible apply Keeps.live
    | (intro _ _ _)
    | (intro _ _)
    | with_reducible refine Keeps.mk' ?_ rfl rfl

theorem execSwapCancel_keeps {s s' : State} (h : execSwapCancel s = .next s') : Keeps s s' := by
  cases h
  try dsimp only
  repeat' first
    | with_reducible exact Keeps.refl _
    | with_reducible assumption
    | with_reducible apply keeps_swapCancel
    | with_reducible apply Keeps.live
    | (intro _ _ _)
    | (intro _ _)
    | with_reducible refine Keeps.mk' ?_ rfl rfl

theorem execPeekRequest_keeps (slot : BitVec 10) {s s' : State} (h : execPeekRequest slot s = .next s') : Keeps s s' := by
  cases h
  try dsimp only
  repeat' first
    | with_reducible exact Keeps.refl _
    | with_reducible assumption
    | with_reducible apply keeps_peekRequest
    | with_reducible apply Keeps.live
    | (intro _ _ _)
    | (intro _ _)
    | with_reducible refine Keeps.mk' ?_ rfl rfl

theorem execCeCntClr_keeps {s s' : State} (h : execCeCntClr s = .next s') : Keeps s s' := by
  cases h
  try dsimp only
  repeat' first
    | with_reducible exact Keeps.refl _
    | with_reducible assumption
    | with_reducible apply keeps_ceCntClr
    | with_reducible apply Keeps.live
    | (intro _ _ _)
    | (intro _ _)
    | with_reducible refine Keeps.mk' ?_ rfl rfl

theorem execBalancerCommit_keeps (locked : Bool) {s s' : State} (h : execBalancerCommit locked s = .next s') : Keeps s s' := by
  cases h
  try dsimp only
  repeat' first
    | with_reducible exact Keeps.refl _
    | with_reducible assumption
    | with_reducible apply keeps_balancerCommit
    | with_reducible apply Keeps.live
    | (intro _ _ _)
    | (intro _ _)
    | with_reducible refine Keeps.mk' ?_ rfl rfl

theorem execBypassRequest_keeps (next : Bool) (pos : BitVec 8) {s s' : State} (h : execBypassRequest next pos s = .next s') : Keeps s s' := by
  cases h
  try dsimp only
  repeat' first
    | with_reducible exact Keeps.refl _
    | with_reducible assumption
    | with_reducible apply keeps_balReqWrite
    | with_reducible apply Keeps.when
    | with_reducible apply Keeps.live
    | (intro _ _ _)
    | (intro _ _)
    | with_reducible refine Keeps.mk' ?_ rfl rfl

theorem execRejoinRequest_keeps (next : Bool) (pos : BitVec 8) {s s' : State} (h : execRejoinRequest next pos s = .next s') : Keeps s s' := by
  cases h
  try dsimp only
  repeat' first
    | with_reducible exact Keeps.refl _
    | with_reducible assumption
    | with_reducible apply keeps_balReqWrite
    | with_reducible apply Keeps.when
    | with_reducible apply Keeps.live
    | (intro _ _ _)
    | (intro _ _)
    | with_reducible refine Keeps.mk' ?_ rfl rfl

theorem execRailReset_keeps (rail : Rail) {s s' : State} (h : execRailReset rail s = .next s') : Keeps s s' := by
  cases h
  try dsimp only
  repeat' first
    | with_reducible exact Keeps.refl _
    | with_reducible assumption
    | with_reducible apply keeps_resetNode
    | with_reducible apply keeps_setFlag
    | with_reducible apply keeps_put
    | (intro _ _ _)
    | (intro _ _)
    | with_reducible refine Keeps.mk' ?_ rfl rfl

theorem execPginReset_keeps {s s' : State} (h : execPginReset s = .next s') : Keeps s s' := by
  cases h
  try dsimp only
  repeat' first
    | with_reducible exact Keeps.refl _
    | with_reducible assumption
    | with_reducible apply keeps_resetNode
    | with_reducible apply keeps_setFlag
    | (intro _ _ _)
    | (intro _ _)
    | with_reducible refine Keeps.mk' ?_ rfl rfl

theorem execPinReset_keeps {s s' : State} (h : execPinReset s = .next s') : Keeps s s' := by
  cases h
  try dsimp only
  repeat' first
    | with_reducible exact Keeps.refl _
    | with_reducible assumption
    | with_reducible apply keeps_resetNode
    | with_reducible apply keeps_setFlag
    | (intro _ _ _)
    | (intro _ _)
    | with_reducible refine Keeps.mk' ?_ rfl rfl

theorem execRstCtrlWrite_keeps (m : Master) (v : Word) {s s' : State} (h : execRstCtrlWrite m v s = .next s') : Keeps s s' := by
  cases h
  try dsimp only
  repeat' first
    | with_reducible exact Keeps.refl _
    | with_reducible assumption
    | with_reducible apply keeps_rstCtrlWrite
    | with_reducible apply Keeps.byMaster
    | (intro _ _ _)
    | (intro _ _)
    | with_reducible refine Keeps.mk' ?_ rfl rfl

theorem execSoftReset_keeps {s s' : State} (h : execSoftReset s = .next s') : Keeps s s' := by
  cases h
  try dsimp only
  repeat' first
    | with_reducible exact Keeps.refl _
    | with_reducible assumption
    | with_reducible apply keeps_softReset
    | with_reducible apply Keeps.when
    | with_reducible apply Keeps.live
    | (intro _ _ _)
    | (intro _ _)
    | with_reducible refine Keeps.mk' ?_ rfl rfl

theorem execReleaseOfReset_keeps (straps : BitVec 8) (dbgsel : Bool) {s s' : State} (h : execReleaseOfReset straps dbgsel s = .next s') : Keeps s s' := by
  cases h
  try dsimp only
  repeat' first
    | with_reducible exact Keeps.refl _
    | with_reducible assumption
    | with_reducible apply keeps_release
    | (intro _ _ _)
    | (intro _ _)
    | with_reducible refine Keeps.mk' ?_ rfl rfl

theorem execVaultSwitchOver_keeps (toBat : Bool) {s s' : State} (h : execVaultSwitchOver toBat s = .next s') : Keeps s s' := by
  cases h
  try dsimp only
  repeat' first
    | with_reducible exact Keeps.refl _
    | with_reducible assumption
    | with_reducible apply keeps_setFlag
    | (intro _ _ _)
    | (intro _ _)
    | with_reducible refine Keeps.mk' ?_ rfl rfl

theorem execXtalFail_keeps {s s' : State} (h : execXtalFail s = .next s') : Keeps s s' := by
  cases h
  try dsimp only
  repeat' first
    | with_reducible exact Keeps.refl _
    | with_reducible assumption
    | with_reducible apply keeps_setFlag
    | (intro _ _ _)
    | (intro _ _)
    | with_reducible refine Keeps.mk' ?_ rfl rfl

theorem execTamperPulse_keeps (returned : Bool) {s s' : State} (h : execTamperPulse returned s = .next s') : Keeps s s' := by
  cases h
  try dsimp only
  repeat' first
    | with_reducible exact Keeps.refl _
    | with_reducible assumption
    | with_reducible apply keeps_tamperPulse
    | (intro _ _ _)
    | (intro _ _)
    | with_reducible refine Keeps.mk' ?_ rfl rfl

theorem execPowerGood_keeps {s s' : State} (h : execPowerGood s = .next s') : Keeps s s' := by
  cases h
  try dsimp only
  repeat' first
    | with_reducible exact Keeps.refl _
    | with_reducible assumption
    | with_reducible apply keeps_rootStart
    | with_reducible apply Keeps.when
    | (intro _ _ _)
    | (intro _ _)
    | with_reducible refine Keeps.mk' ?_ rfl rfl

theorem execRefinValid_keeps {s s' : State} (h : execRefinValid s = .next s') : Keeps s s' := by
  cases h
  try dsimp only
  repeat' first
    | with_reducible exact Keeps.refl _
    | with_reducible assumption
    | with_reducible apply keeps_rootStart
    | (intro _ _ _)
    | (intro _ _)
    | with_reducible refine Keeps.mk' ?_ rfl rfl

theorem execLockDeclared_keeps {s s' : State} (h : execLockDeclared s = .next s') : Keeps s s' := by
  cases h
  try dsimp only
  repeat' first
    | with_reducible exact Keeps.refl _
    | with_reducible assumption
    | with_reducible apply keeps_lockDeclared
    | (intro _ _ _)
    | (intro _ _)
    | with_reducible refine Keeps.mk' ?_ rfl rfl

theorem execLossOfRefin_keeps {s s' : State} (h : execLossOfRefin s = .next s') : Keeps s s' := by
  cases h
  try dsimp only
  repeat' first
    | with_reducible exact Keeps.refl _
    | with_reducible assumption
    | with_reducible apply keeps_lossOfRefin
    | (intro _ _ _)
    | (intro _ _)
    | with_reducible refine Keeps.mk' ?_ rfl rfl

theorem execRefinReturn_keeps (mppm : Int) {s s' : State} (h : execRefinReturn mppm s = .next s') : Keeps s s' := by
  cases h
  try dsimp only
  repeat' first
    | with_reducible exact Keeps.refl _
    | with_reducible assumption
    | with_reducible apply keeps_refinReturn
    | (intro _ _ _)
    | (intro _ _)
    | with_reducible refine Keeps.mk' ?_ rfl rfl

theorem execReacquireComplete_keeps {s s' : State} (h : execReacquireComplete s = .next s') : Keeps s s' := by
  cases h
  try dsimp only
  repeat' first
    | with_reducible exact Keeps.refl _
    | with_reducible assumption
    | with_reducible apply keeps_reacquired
    | (intro _ _ _)
    | (intro _ _)
    | with_reducible refine Keeps.mk' ?_ rfl rfl

theorem execLossOfLock_keeps {s s' : State} (h : execLossOfLock s = .next s') : Keeps s s' := by
  cases h
  try dsimp only
  repeat' first
    | with_reducible exact Keeps.refl _
    | with_reducible assumption
    | with_reducible apply keeps_lossOfLock
    | (intro _ _ _)
    | (intro _ _)
    | with_reducible refine Keeps.mk' ?_ rfl rfl

theorem execHoldMaxExpiry_keeps {s s' : State} (h : execHoldMaxExpiry s = .next s') : Keeps s s' := by
  cases h
  try dsimp only
  repeat' first
    | with_reducible exact Keeps.refl _
    | with_reducible assumption
    | with_reducible apply keeps_holdMax
    | with_reducible apply Keeps.live
    | (intro _ _ _)
    | (intro _ _)
    | with_reducible refine Keeps.mk' ?_ rfl rfl

theorem execReferenceWaitEnd_keeps {s s' : State} (h : execReferenceWaitEnd s = .next s') : Keeps s s' := by
  cases h
  try dsimp only
  repeat' first
    | with_reducible exact Keeps.refl _
    | with_reducible assumption
    | with_reducible apply keeps_refWaitEnd
    | with_reducible apply Keeps.live
    | (intro _ _ _)
    | (intro _ _)
    | with_reducible refine Keeps.mk' ?_ rfl rfl

theorem execSramInitDone_keeps (chip : Option FlashChip) {s s' : State} (h : execSramInitDone chip s = .next s') : Keeps s s' := by
  cases h
  try dsimp only
  repeat' first
    | with_reducible exact Keeps.refl _
    | with_reducible assumption
    | with_reducible apply keeps_sramInitDone
    | with_reducible apply Keeps.live
    | (intro _ _ _)
    | (intro _ _)
    | with_reducible refine Keeps.mk' ?_ rfl rfl

theorem execFetchDone_keeps {s s' : State} (h : execFetchDone s = .next s') : Keeps s s' := by
  cases h
  try dsimp only
  repeat' first
    | with_reducible exact Keeps.refl _
    | with_reducible assumption
    | with_reducible apply keeps_fetchDone
    | with_reducible apply Keeps.live
    | (intro _ _ _)
    | (intro _ _)
    | with_reducible refine Keeps.mk' ?_ rfl rfl

theorem execFetchTimeout_keeps {s s' : State} (h : execFetchTimeout s = .next s') : Keeps s s' := by
  cases h
  try dsimp only
  repeat' first
    | with_reducible exact Keeps.refl _
    | with_reducible assumption
    | with_reducible apply keeps_fetchTimeout
    | with_reducible apply Keeps.live
    | (intro _ _ _)
    | (intro _ _)
    | with_reducible refine Keeps.mk' ?_ rfl rfl

theorem execVerifyDone_keeps (img : StationRead) {s s' : State} (h : execVerifyDone img s = .next s') : Keeps s s' := by
  cases h
  try dsimp only
  repeat' first
    | with_reducible exact Keeps.refl _
    | with_reducible assumption
    | with_reducible apply keeps_verifyDone
    | with_reducible apply Keeps.live
    | (intro _ _ _)
    | (intro _ _)
    | with_reducible refine Keeps.mk' ?_ rfl rfl

theorem execBootLock_keeps {s s' : State} (h : execBootLock s = .next s') : Keeps s s' := by
  cases h
  try dsimp only
  repeat' first
    | with_reducible exact Keeps.refl _
    | with_reducible assumption
    | with_reducible apply keeps_bootLock
    | with_reducible apply Keeps.live
    | (intro _ _ _)
    | (intro _ _)
    | with_reducible refine Keeps.mk' ?_ rfl rfl

theorem execImgProvWrite_keeps (m : Master) (v : Word) {s s' : State} (h : execImgProvWrite m v s = .next s') : Keeps s s' := by
  cases h
  try dsimp only
  repeat' first
    | with_reducible exact Keeps.refl _
    | with_reducible assumption
    | with_reducible apply keeps_provWrite
    | with_reducible apply Keeps.byMaster
    | (intro _ _ _)
    | (intro _ _)
    | with_reducible refine Keeps.mk' ?_ rfl rfl

theorem execTrialTimeout_keeps {s s' : State} (h : execTrialTimeout s = .next s') : Keeps s s' := by
  cases h
  try dsimp only
  repeat' first
    | with_reducible exact Keeps.refl _
    | with_reducible assumption
    | with_reducible apply keeps_trialTimeout
    | with_reducible apply Keeps.live
    | (intro _ _ _)
    | (intro _ _)
    | with_reducible refine Keeps.mk' ?_ rfl rfl

theorem execImgErase_keeps (m : Master) {s s' : State} (h : execImgErase m s = .next s') : Keeps s s' := by
  cases h
  try dsimp only
  repeat' first
    | with_reducible exact Keeps.refl _
    | with_reducible assumption
    | with_reducible apply keeps_updCmd
    | with_reducible apply keeps_updErase
    | with_reducible apply Keeps.byMaster
    | (intro _ _ _)
    | (intro _ _)
    | with_reducible refine Keeps.mk' ?_ rfl rfl

theorem execImgProgram_keeps (m : Master) {s s' : State} (h : execImgProgram m s = .next s') : Keeps s s' := by
  cases h
  try dsimp only
  repeat' first
    | with_reducible exact Keeps.refl _
    | with_reducible assumption
    | with_reducible apply keeps_updCmd
    | with_reducible apply keeps_updProgram
    | with_reducible apply Keeps.byMaster
    | (intro _ _ _)
    | (intro _ _)
    | with_reducible refine Keeps.mk' ?_ rfl rfl

theorem execImgVerify_keeps (m : Master) {s s' : State} (h : execImgVerify m s = .next s') : Keeps s s' := by
  cases h
  try dsimp only
  repeat' first
    | with_reducible exact Keeps.refl _
    | with_reducible assumption
    | with_reducible apply keeps_updCmd
    | with_reducible apply keeps_updStart
    | with_reducible apply Keeps.byMaster
    | (intro _ _ _)
    | (intro _ _)
    | with_reducible refine Keeps.mk' ?_ rfl rfl

theorem execImgArm_keeps (m : Master) {s s' : State} (h : execImgArm m s = .next s') : Keeps s s' := by
  cases h
  try dsimp only
  repeat' first
    | with_reducible exact Keeps.refl _
    | with_reducible assumption
    | with_reducible apply keeps_updCmd
    | with_reducible apply keeps_updArm
    | with_reducible apply Keeps.byMaster
    | (intro _ _ _)
    | (intro _ _)
    | with_reducible refine Keeps.mk' ?_ rfl rfl

theorem execImgAbort_keeps (m : Master) {s s' : State} (h : execImgAbort m s = .next s') : Keeps s s' := by
  cases h
  try dsimp only
  repeat' first
    | with_reducible exact Keeps.refl _
    | with_reducible assumption
    | with_reducible apply keeps_updCmd
    | with_reducible apply keeps_updAbort
    | with_reducible apply Keeps.byMaster
    | (intro _ _ _)
    | (intro _ _)
    | with_reducible refine Keeps.mk' ?_ rfl rfl

theorem execImgUpdDone_keeps (flashErr bufferBad : Bool) {s s' : State} (h : execImgUpdDone flashErr bufferBad s = .next s') : Keeps s s' := by
  cases h
  try dsimp only
  repeat' first
    | with_reducible exact Keeps.refl _
    | with_reducible assumption
    | with_reducible apply keeps_updDone
    | with_reducible apply Keeps.live
    | (intro _ _ _)
    | (intro _ _)
    | with_reducible refine Keeps.mk' ?_ rfl rfl

theorem execStimeWrap_keeps {s s' : State} (h : execStimeWrap s = .next s') : Keeps s s' := by
  cases h
  try dsimp only
  repeat' first
    | with_reducible exact Keeps.refl _
    | with_reducible assumption
    | with_reducible apply keeps_runTime
    | with_reducible apply Keeps.live
    | (intro _ _ _)
    | (intro _ _)
    | with_reducible refine Keeps.mk' ?_ rfl rfl

theorem execSourceLoss_keeps {s s' : State} (h : execSourceLoss s = .next s') : Keeps s s' := by
  cases h
  try dsimp only
  repeat' first
    | with_reducible exact Keeps.refl _
    | with_reducible assumption
    | with_reducible apply keeps_sourceLoss
    | with_reducible apply Keeps.live
    | (intro _ _ _)
    | (intro _ _)
    | with_reducible refine Keeps.mk' ?_ rfl rfl

theorem execHoldLimit_keeps {s s' : State} (h : execHoldLimit s = .next s') : Keeps s s' := by
  cases h
  try dsimp only
  repeat' first
    | with_reducible exact Keeps.refl _
    | with_reducible assumption
    | with_reducible apply keeps_holdLimit
    | with_reducible apply Keeps.live
    | (intro _ _ _)
    | (intro _ _)
    | with_reducible refine Keeps.mk' ?_ rfl rfl

theorem execXchk_keeps {s s' : State} (h : execXchk s = .next s') : Keeps s s' := by
  cases h
  try dsimp only
  repeat' first
    | with_reducible exact Keeps.refl _
    | with_reducible assumption
    | with_reducible apply keeps_crossCheck
    | with_reducible apply Keeps.live
    | (intro _ _ _)
    | (intro _ _)
    | with_reducible refine Keeps.mk' ?_ rfl rfl

theorem execHostTimeout_keeps {s s' : State} (h : execHostTimeout s = .next s') : Keeps s s' := by
  cases h
  try dsimp only
  repeat' first
    | with_reducible exact Keeps.refl _
    | with_reducible assumption
    | with_reducible apply keeps_hostTimeout
    | with_reducible apply Keeps.live
    | (intro _ _ _)
    | (intro _ _)
    | with_reducible refine Keeps.mk' ?_ rfl rfl

theorem execTpoEdge_keeps (n : Fin 4) {s s' : State} (h : execTpoEdge n s = .next s') : Keeps s s' := by
  cases h
  try dsimp only
  repeat' first
    | with_reducible exact Keeps.refl _
    | with_reducible assumption
    | with_reducible apply keeps_tpoEdge
    | with_reducible apply Keeps.live
    | (intro _ _ _)
    | (intro _ _)
    | with_reducible refine Keeps.mk' ?_ rfl rfl

theorem execTpoPulseEnd_keeps (n : Fin 4) {s s' : State} (h : execTpoPulseEnd n s = .next s') : Keeps s s' := by
  cases h
  try dsimp only
  repeat' first
    | with_reducible exact Keeps.refl _
    | with_reducible assumption
    | with_reducible apply keeps_tpoPulseEnd
    | with_reducible apply Keeps.live
    | (intro _ _ _)
    | (intro _ _)
    | with_reducible refine Keeps.mk' ?_ rfl rfl

theorem execTpoEnable_keeps (n : Fin 4) (v : Word) {s s' : State} (h : execTpoEnable n v s = .next s') : Keeps s s' := by
  cases h
  try dsimp only
  repeat' first
    | with_reducible exact Keeps.refl _
    | with_reducible assumption
    | with_reducible apply keeps_tpoCtrl
    | with_reducible apply Keeps.live
    | (intro _ _ _)
    | (intro _ _)
    | with_reducible refine Keeps.mk' ?_ rfl rfl

theorem execTpoConfigWrite_keeps (n : Fin 4) (reg : TpoReg) (v : Word) {s s' : State} (h : execTpoConfigWrite n reg v s = .next s') : Keeps s s' := by
  cases h
  try dsimp only
  repeat' first
    | with_reducible exact Keeps.refl _
    | with_reducible assumption
    | with_reducible apply keeps_tpoConfig
    | with_reducible apply Keeps.live
    | (intro _ _ _)
    | (intro _ _)
    | with_reducible refine Keeps.mk' ?_ rfl rfl

theorem execTpiEdge_keeps (rising : Bool) (before after : Nat) {s s' : State} (h : execTpiEdge rising before after s = .next s') : Keeps s s' := by
  cases h
  try dsimp only
  repeat' first
    | with_reducible exact Keeps.refl _
    | with_reducible assumption
    | with_reducible apply keeps_tpiEdge
    | with_reducible apply Keeps.live
    | (intro _ _ _)
    | (intro _ _)
    | with_reducible refine Keeps.mk' ?_ rfl rfl

theorem execFaultRaise_keeps (r : RaiseIn) (back : Bool) {s s' : State} (h : execFaultRaise r back s = .next s') : Keeps s s' := by
  cases h
  try dsimp only
  repeat' first
    | with_reducible exact Keeps.refl _
    | with_reducible assumption
    | with_reducible apply keeps_pairFault
    | with_reducible apply Keeps.live
    | (intro _ _ _)
    | (intro _ _)
    | with_reducible refine Keeps.mk' ?_ rfl rfl

theorem execBrokenPair_keeps (r : RaiseIn) (back : Bool) {s s' : State} (h : execBrokenPair r back s = .next s') : Keeps s s' := by
  cases h
  try dsimp only
  repeat' first
    | with_reducible exact Keeps.refl _
    | with_reducible assumption
    | with_reducible apply keeps_pairBroken
    | with_reducible apply Keeps.live
    | (intro _ _ _)
    | (intro _ _)
    | with_reducible refine Keeps.mk' ?_ rfl rfl

theorem execRecordClose_keeps {s s' : State} (h : execRecordClose s = .next s') : Keeps s s' := by
  cases h
  try dsimp only
  repeat' first
    | with_reducible exact Keeps.refl _
    | with_reducible assumption
    | with_reducible apply keeps_recordClose
    | with_reducible apply Keeps.live
    | (intro _ _ _)
    | (intro _ _)
    | with_reducible refine Keeps.mk' ?_ rfl rfl

theorem execRecordClear_keeps (m : Master) (n : BitVec 16) {s s' : State} (h : execRecordClear m n s = .next s') : Keeps s s' := by
  cases h
  try dsimp only
  repeat' first
    | with_reducible exact Keeps.refl _
    | with_reducible assumption
    | with_reducible apply keeps_recordClear
    | with_reducible apply keeps_violation
    | with_reducible apply Keeps.byMaster
    | with_reducible apply Keeps.iteFst
    | with_reducible apply Keeps.ite
    | (intro _ _ _)
    | (intro _ _)
    | with_reducible refine Keeps.mk' ?_ rfl rfl

theorem execStationClear_keeps (m : Master) {s s' : State} (h : execStationClear m s = .next s') : Keeps s s' := by
  cases h
  try dsimp only
  repeat' first
    | with_reducible exact Keeps.refl _
    | with_reducible assumption
    | with_reducible apply keeps_stationClear
    | with_reducible apply keeps_violation
    | with_reducible apply Keeps.byMaster
    | with_reducible apply Keeps.iteFst
    | with_reducible apply Keeps.ite
    | (intro _ _ _)
    | (intro _ _)
    | with_reducible refine Keeps.mk' ?_ rfl rfl

theorem execFltiChange_keeps (level : FltiLevel) {s s' : State} (h : execFltiChange level s = .next s') : Keeps s s' := by
  cases h
  try dsimp only
  repeat' first
    | with_reducible exact Keeps.refl _
    | with_reducible assumption
    | with_reducible apply keeps_fltiChange
    | with_reducible apply Keeps.live
    | (intro _ _ _)
    | (intro _ _)
    | with_reducible refine Keeps.mk' ?_ rfl rfl

theorem execBatchStage_keeps (id c : Word) (count : Nat) (items : List (Word × Word)) {s s' : State} (h : execBatchStage id c count items s = .next s') : Keeps s s' := by
  cases h
  try dsimp only
  repeat' first
    | with_reducible exact Keeps.refl _
    | with_reducible assumption
    | with_reducible apply keeps_batchStage
    | with_reducible apply Keeps.live
    | (intro _ _ _)
    | (intro _ _)
    | with_reducible refine Keeps.mk' ?_ rfl rfl

theorem execBatchCancel_keeps (id : Word) {s s' : State} (h : execBatchCancel id s = .next s') : Keeps s s' := by
  cases h
  try dsimp only
  repeat' first
    | with_reducible exact Keeps.refl _
    | with_reducible assumption
    | with_reducible apply keeps_batchCancel
    | with_reducible apply Keeps.live
    | (intro _ _ _)
    | (intro _ _)
    | with_reducible refine Keeps.mk' ?_ rfl rfl

theorem execGlazeSend_keeps {s s' : State} (h : execGlazeSend s = .next s') : Keeps s s' := by
  cases h
  try dsimp only
  repeat' first
    | with_reducible exact Keeps.refl _
    | with_reducible assumption
    | with_reducible apply keeps_glazeSend
    | with_reducible apply Keeps.live
    | (intro _ _ _)
    | (intro _ _)
    | with_reducible refine Keeps.mk' ?_ rfl rfl

theorem execGlazeCodewordReceived_keeps {s s' : State} (h : execGlazeCodewordReceived s = .next s') : Keeps s s' := by
  cases h
  try dsimp only
  repeat' first
    | with_reducible exact Keeps.refl _
    | with_reducible assumption
    | with_reducible apply keeps_takeRx
    | with_reducible apply keeps_glazeReceived
    | with_reducible apply Keeps.live
    | (intro _ _ _)
    | (intro _ _)
    | with_reducible refine Keeps.mk' ?_ rfl rfl

theorem execListenWindowEnd_keeps {s s' : State} (h : execListenWindowEnd s = .next s') : Keeps s s' := by
  cases h
  try dsimp only
  repeat' first
    | with_reducible exact Keeps.refl _
    | with_reducible assumption
    | with_reducible apply keeps_listenEnd
    | with_reducible apply Keeps.live
    | (intro _ _ _)
    | (intro _ _)
    | with_reducible refine Keeps.mk' ?_ rfl rfl

theorem execHbReceived_keeps {s s' : State} (h : execHbReceived s = .next s') : Keeps s s' := by
  cases h
  try dsimp only
  repeat' first
    | with_reducible exact Keeps.refl _
    | with_reducible assumption
    | with_reducible apply keeps_takeRx
    | with_reducible apply keeps_hbReceived
    | with_reducible apply Keeps.live
    | (intro _ _ _)
    | (intro _ _)
    | with_reducible refine Keeps.mk' ?_ rfl rfl

theorem execHealthReport_keeps {s s' : State} (h : execHealthReport s = .next s') : Keeps s s' := by
  cases h
  try dsimp only
  repeat' first
    | with_reducible exact Keeps.refl _
    | with_reducible assumption
    | with_reducible apply keeps_healthReport
    | with_reducible apply Keeps.live
    | (intro _ _ _)
    | (intro _ _)
    | with_reducible refine Keeps.mk' ?_ rfl rfl

theorem execEngineSelfCheck_keeps (ok : Bool) {s s' : State} (h : execEngineSelfCheck ok s = .next s') : Keeps s s' := by
  cases h
  try dsimp only
  repeat' first
    | with_reducible exact Keeps.refl _
    | with_reducible assumption
    | with_reducible apply keeps_selfCheck
    | with_reducible apply Keeps.live
    | (intro _ _ _)
    | (intro _ _)
    | with_reducible refine Keeps.mk' ?_ rfl rfl

theorem execSwapRequest_keeps (m : Master) {s s' : State} (h : execSwapRequest m s = .next s') : Keeps s s' := by
  cases h
  try dsimp only
  repeat' first
    | with_reducible exact Keeps.refl _
    | with_reducible assumption
    | with_reducible apply keeps_swapRequest
    | with_reducible apply keeps_violation
    | with_reducible apply Keeps.byMaster
    | with_reducible apply Keeps.iteFst
    | with_reducible apply Keeps.ite
    | (intro _ _ _)
    | (intro _ _)
    | with_reducible refine Keeps.mk' ?_ rfl rfl

theorem execDpxSwapCancel_keeps (m : Master) {s s' : State} (h : execDpxSwapCancel m s = .next s') : Keeps s s' := by
  cases h
  try dsimp only
  repeat' first
    | with_reducible exact Keeps.refl _
    | with_reducible assumption
    | with_reducible apply keeps_swapCancelDpx
    | with_reducible apply keeps_violation
    | with_reducible apply Keeps.byMaster
    | with_reducible apply Keeps.iteFst
    | with_reducible apply Keeps.ite
    | (intro _ _ _)
    | (intro _ _)
    | with_reducible refine Keeps.mk' ?_ rfl rfl

theorem execDpxCntClr_keeps {s s' : State} (h : execDpxCntClr s = .next s') : Keeps s s' := by
  cases h
  try dsimp only
  repeat' first
    | with_reducible exact Keeps.refl _
    | with_reducible assumption
    | with_reducible apply keeps_dpxCntClr
    | with_reducible apply Keeps.live
    | (intro _ _ _)
    | (intro _ _)
    | with_reducible refine Keeps.mk' ?_ rfl rfl

theorem execNoEligibleStandby_keeps {s s' : State} (h : execNoEligibleStandby s = .next s') : Keeps s s' := by
  cases h
  try dsimp only
  repeat' first
    | with_reducible exact Keeps.refl _
    | with_reducible assumption
    | with_reducible apply keeps_noStandby
    | with_reducible apply Keeps.live
    | (intro _ _ _)
    | (intro _ _)
    | with_reducible refine Keeps.mk' ?_ rfl rfl

theorem execFailoverLedgerRead_keeps (got : List (BitVec 8 × List (List Word))) {s s' : State} (h : execFailoverLedgerRead got s = .next s') : Keeps s s' := by
  cases h
  try dsimp only
  repeat' first
    | with_reducible exact Keeps.refl _
    | with_reducible assumption
    | with_reducible apply keeps_failoverLedger
    | with_reducible apply Keeps.live
    | (intro _ _ _)
    | (intro _ _)
    | with_reducible refine Keeps.mk' ?_ rfl rfl

theorem execCodewordReceived_keeps (p : Fin 5) (l : Fin 2) (rx : List Int) {s s' : State} (h : execCodewordReceived p l rx s = .next s') : Keeps s s' := by
  cases h
  try dsimp only
  repeat' first
    | with_reducible exact Keeps.refl _
    | with_reducible assumption
    | with_reducible apply keeps_lineIn
    | with_reducible apply Keeps.live
    | (intro _ _ _)
    | (intro _ _)
    | with_reducible refine Keeps.mk' ?_ rfl rfl

theorem execFold_keeps (p : Fin 4) {s s' : State} (h : execFold p s = .next s') : Keeps s s' := by
  cases h
  try dsimp only
  repeat' first
    | with_reducible exact Keeps.refl _
    | with_reducible assumption
    | with_reducible apply keeps_foldPort
    | with_reducible apply Keeps.live
    | (intro _ _ _)
    | (intro _ _)
    | with_reducible refine Keeps.mk' ?_ rfl rfl

theorem execUnfoldNamed_keeps (ring : Ring) {s s' : State} (h : execUnfoldNamed ring s = .next s') : Keeps s s' := by
  cases h
  try dsimp only
  repeat' first
    | with_reducible exact Keeps.refl _
    | with_reducible assumption
    | with_reducible apply keeps_unfoldNamed
    | with_reducible apply Keeps.live
    | (intro _ _ _)
    | (intro _ _)
    | with_reducible refine Keeps.mk' ?_ rfl rfl

theorem execNbrReceived_keeps (t2 : BitVec 48) {s s' : State} (h : execNbrReceived t2 s = .next s') : Keeps s s' := by
  cases h
  try dsimp only
  repeat' first
    | with_reducible exact Keeps.refl _
    | with_reducible assumption
    | with_reducible apply keeps_takeRx
    | with_reducible apply keeps_nbrReceived
    | with_reducible apply Keeps.live
    | (intro _ _ _)
    | (intro _ _)
    | with_reducible refine Keeps.mk' ?_ rfl rfl

theorem execUpWave_keeps (diverted : List (Fin 4 × List Byte)) {s s' : State} (h : execUpWave diverted s = .next s') : Keeps s s' := by
  cases h
  try dsimp only
  repeat' first
    | with_reducible exact Keeps.refl _
    | with_reducible assumption
    | with_reducible apply keeps_upWave
    | with_reducible apply keeps_divertAll
    | with_reducible apply Keeps.live
    | (intro _ _ _)
    | (intro _ _)
    | with_reducible refine Keeps.mk' ?_ rfl rfl

theorem execUpReceived_keeps {s s' : State} (h : execUpReceived s = .next s') : Keeps s s' := by
  cases h
  try dsimp only
  repeat' first
    | with_reducible exact Keeps.refl _
    | with_reducible assumption
    | with_reducible apply keeps_takeRx
    | with_reducible apply keeps_upReceived
    | with_reducible apply Keeps.live
    | (intro _ _ _)
    | (intro _ _)
    | with_reducible refine Keeps.mk' ?_ rfl rfl

theorem execUplinkDeadline_keeps {s s' : State} (h : execUplinkDeadline s = .next s') : Keeps s s' := by
  cases h
  try dsimp only
  repeat' first
    | with_reducible exact Keeps.refl _
    | with_reducible assumption
    | with_reducible apply keeps_uplinkDeadline
    | with_reducible apply Keeps.live
    | (intro _ _ _)
    | (intro _ _)
    | with_reducible refine Keeps.mk' ?_ rfl rfl

theorem execDownWave_keeps (diverted : List (Fin 4 × List Byte)) {s s' : State} (h : execDownWave diverted s = .next s') : Keeps s s' := by
  cases h
  try dsimp only
  repeat' first
    | with_reducible exact Keeps.refl _
    | with_reducible assumption
    | with_reducible apply keeps_downWave
    | with_reducible apply keeps_divertAll
    | with_reducible apply Keeps.live
    | (intro _ _ _)
    | (intro _ _)
    | with_reducible refine Keeps.mk' ?_ rfl rfl

theorem execDnReceived_keeps {s s' : State} (h : execDnReceived s = .next s') : Keeps s s' := by
  cases h
  try dsimp only
  repeat' first
    | with_reducible exact Keeps.refl _
    | with_reducible assumption
    | with_reducible apply keeps_takeRx
    | with_reducible apply keeps_dnReceived
    | with_reducible apply Keeps.live
    | (intro _ _ _)
    | (intro _ _)
    | with_reducible refine Keeps.mk' ?_ rfl rfl

theorem execAckReceived_keeps {s s' : State} (h : execAckReceived s = .next s') : Keeps s s' := by
  cases h
  try dsimp only
  repeat' first
    | with_reducible exact Keeps.refl _
    | with_reducible assumption
    | with_reducible apply keeps_takeRx
    | with_reducible apply keeps_ackReceived
    | with_reducible apply Keeps.live
    | (intro _ _ _)
    | (intro _ _)
    | with_reducible refine Keeps.mk' ?_ rfl rfl

theorem execRngCntClr_keeps {s s' : State} (h : execRngCntClr s = .next s') : Keeps s s' := by
  cases h
  try dsimp only
  repeat' first
    | with_reducible exact Keeps.refl _
    | with_reducible assumption
    | with_reducible apply keeps_rngCntClr
    | with_reducible apply Keeps.live
    | (intro _ _ _)
    | (intro _ _)
    | with_reducible refine Keeps.mk' ?_ rfl rfl

theorem execAdmissionRequest_keeps (req : AdmissionIn) {s s' : State} (h : execAdmissionRequest req s = .next s') : Keeps s s' := by
  cases h
  try dsimp only
  repeat' first
    | with_reducible exact Keeps.refl _
    | with_reducible assumption
    | with_reducible apply keeps_admission
    | with_reducible apply Keeps.live
    | (intro _ _ _)
    | (intro _ _)
    | with_reducible refine Keeps.mk' ?_ rfl rfl

theorem execAdmissionTimeRetry_keeps (pos : BitVec 8) (timeOk : Bool) {s s' : State} (h : execAdmissionTimeRetry pos timeOk s = .next s') : Keeps s s' := by
  cases h
  try dsimp only
  repeat' first
    | with_reducible exact Keeps.refl _
    | with_reducible assumption
    | with_reducible apply keeps_admRetry
    | with_reducible apply Keeps.live
    | (intro _ _ _)
    | (intro _ _)
    | with_reducible refine Keeps.mk' ?_ rfl rfl

theorem execFullServiceNamed_keeps (locked unlocked : List (BitVec 8)) {s s' : State} (h : execFullServiceNamed locked unlocked s = .next s') : Keeps s s' := by
  cases h
  try dsimp only
  repeat' first
    | with_reducible exact Keeps.refl _
    | with_reducible assumption
    | with_reducible apply keeps_fullNamed
    | with_reducible apply Keeps.live
    | (intro _ _ _)
    | (intro _ _)
    | with_reducible refine Keeps.mk' ?_ rfl rfl

theorem execStWaitExpiry_keeps {s s' : State} (h : execStWaitExpiry s = .next s') : Keeps s s' := by
  cases h
  try dsimp only
  repeat' first
    | with_reducible exact Keeps.refl _
    | with_reducible assumption
    | with_reducible apply keeps_stWaitExpiry
    | with_reducible apply Keeps.live
    | (intro _ _ _)
    | (intro _ _)
    | with_reducible refine Keeps.mk' ?_ rfl rfl

theorem execSpliceNamed_keeps (pos : BitVec 8) (locked : Bool) {s s' : State} (h : execSpliceNamed pos locked s = .next s') : Keeps s s' := by
  cases h
  try dsimp only
  repeat' first
    | with_reducible exact Keeps.refl _
    | with_reducible assumption
    | with_reducible apply keeps_spliceNamed
    | with_reducible apply Keeps.live
    | (intro _ _ _)
    | (intro _ _)
    | with_reducible refine Keeps.mk' ?_ rfl rfl

theorem execCycleBoundary_keeps (spliceBad : Bool) {s s' : State} (h : execCycleBoundary spliceBad s = .next s') : Keeps s s' := by
  cases h
  try dsimp only
  repeat' first
    | with_reducible exact Keeps.refl _
    | with_reducible assumption
    | with_reducible apply keeps_cycleBoundary
    | with_reducible apply Keeps.live
    | (intro _ _ _)
    | (intro _ _)
    | with_reducible refine Keeps.mk' ?_ rfl rfl

theorem execLinkMeasurement_keeps (p : Fin 4) {s s' : State} (h : execLinkMeasurement p s = .next s') : Keeps s s' := by
  cases h
  try dsimp only
  repeat' first
    | with_reducible exact Keeps.refl _
    | with_reducible assumption
    | with_reducible apply keeps_linkMeasurement
    | with_reducible apply Keeps.live
    | (intro _ _ _)
    | (intro _ _)
    | with_reducible refine Keeps.mk' ?_ rfl rfl

theorem execTimOffsetWrite_keeps (m : Master) (v : Word) {s s' : State} (h : execTimOffsetWrite m v s = .next s') : Keeps s s' := by
  cases h
  try dsimp only
  repeat' first
    | with_reducible exact Keeps.refl _
    | with_reducible assumption
    | with_reducible apply keeps_offsetWrite
    | with_reducible apply keeps_violation
    | with_reducible apply Keeps.byMaster
    | with_reducible apply Keeps.iteFst
    | with_reducible apply Keeps.ite
    | (intro _ _ _)
    | (intro _ _)
    | with_reducible refine Keeps.mk' ?_ rfl rfl

theorem execMeterSample_keeps (codes : List Int) (crossing : Bool) {s s' : State} (h : execMeterSample codes crossing s = .next s') : Keeps s s' := by
  cases h
  try dsimp only
  repeat' first
    | with_reducible exact Keeps.refl _
    | with_reducible assumption
    | with_reducible apply keeps_meterSample
    | with_reducible apply Keeps.live
    | (intro _ _ _)
    | (intro _ _)
    | with_reducible refine Keeps.mk' ?_ rfl rfl

theorem execNorefCycleEnd_keeps {s s' : State} (h : execNorefCycleEnd s = .next s') : Keeps s s' := by
  cases h
  try dsimp only
  repeat' first
    | with_reducible exact Keeps.refl _
    | with_reducible assumption
    | with_reducible apply keeps_norefEnd
    | with_reducible apply Keeps.live
    | (intro _ _ _)
    | (intro _ _)
    | with_reducible refine Keeps.mk' ?_ rfl rfl

theorem execAccumulatorUpdate_keeps (upset : Option (Fin 64 × BitVec 64)) {s s' : State} (h : execAccumulatorUpdate upset s = .next s') : Keeps s s' := by
  cases h
  try dsimp only
  repeat' first
    | with_reducible exact Keeps.refl _
    | with_reducible assumption
    | with_reducible apply keeps_accUpset
    | with_reducible apply keeps_accUpdate
    | with_reducible apply Keeps.live
    | (intro _ _ _)
    | (intro _ _)
    | split
    | with_reducible refine Keeps.mk' ?_ rfl rfl

theorem execPulseEmit_keeps (n : Fin 4) {s s' : State} (h : execPulseEmit n s = .next s') : Keeps s s' := by
  cases h
  try dsimp only
  repeat' first
    | with_reducible exact Keeps.refl _
    | with_reducible assumption
    | with_reducible apply keeps_pulseEmit
    | with_reducible apply Keeps.live
    | (intro _ _ _)
    | (intro _ _)
    | with_reducible refine Keeps.mk' ?_ rfl rfl

theorem execPlsPulseEnd_keeps (n : Fin 4) {s s' : State} (h : execPlsPulseEnd n s = .next s') : Keeps s s' := by
  cases h
  try dsimp only
  repeat' first
    | with_reducible exact Keeps.refl _
    | with_reducible assumption
    | with_reducible apply keeps_plsEnd
    | with_reducible apply Keeps.live
    | (intro _ _ _)
    | (intro _ _)
    | with_reducible refine Keeps.mk' ?_ rfl rfl

theorem execPlsConfigWrite_keeps (m : Master) (n : Fin 4) (wgt : Bool) (v : Word) {s s' : State} (h : execPlsConfigWrite m n wgt v s = .next s') : Keeps s s' := by
  cases h
  try dsimp only
  repeat' first
    | with_reducible exact Keeps.refl _
    | with_reducible assumption
    | with_reducible apply keeps_plsWrite
    | with_reducible apply keeps_violation
    | with_reducible apply Keeps.byMaster
    | with_reducible apply Keeps.iteFst
    | with_reducible apply Keeps.ite
    | (intro _ _ _)
    | (intro _ _)
    | with_reducible refine Keeps.mk' ?_ rfl rfl

theorem execSnapshotTake_keeps (m : Master) {s s' : State} (h : execSnapshotTake m s = .next s') : Keeps s s' := by
  cases h
  try dsimp only
  repeat' first
    | with_reducible exact Keeps.refl _
    | with_reducible assumption
    | with_reducible apply keeps_snapshot
    | with_reducible apply keeps_violation
    | with_reducible apply Keeps.byMaster
    | with_reducible apply Keeps.iteFst
    | with_reducible apply Keeps.ite
    | (intro _ _ _)
    | (intro _ _)
    | with_reducible refine Keeps.mk' ?_ rfl rfl

theorem execSnapshotSign_keeps (m : Master) {s s' : State} (h : execSnapshotSign m s = .next s') : Keeps s s' := by
  cases h
  try dsimp only
  repeat' first
    | with_reducible exact Keeps.refl _
    | with_reducible assumption
    | with_reducible apply keeps_signWrite
    | with_reducible apply keeps_violation
    | with_reducible apply Keeps.byMaster
    | with_reducible apply Keeps.iteFst
    | with_reducible apply Keeps.ite
    | (intro _ _ _)
    | (intro _ _)
    | with_reducible refine Keeps.mk' ?_ rfl rfl

theorem execAutoSnapshot_keeps {s s' : State} (h : execAutoSnapshot s = .next s') : Keeps s s' := by
  cases h
  try dsimp only
  repeat' first
    | with_reducible exact Keeps.refl _
    | with_reducible assumption
    | with_reducible apply keeps_autoSnapshot
    | with_reducible apply Keeps.live
    | (intro _ _ _)
    | (intro _ _)
    | with_reducible refine Keeps.mk' ?_ rfl rfl

theorem execMbxDataWrite_keeps (m : Master) (n i : Fin 16) (v : Word) {s s' : State} (h : execMbxDataWrite m n i v s = .next s') : Keeps s s' := by
  cases h
  try dsimp only
  repeat' first
    | with_reducible exact Keeps.refl _
    | with_reducible assumption
    | with_reducible apply keeps_wrote
    | with_reducible apply keeps_mbxData
    | with_reducible apply Keeps.byMaster
    | (intro _ _ _)
    | (intro _ _)
    | with_reducible refine Keeps.mk' ?_ rfl rfl

theorem execMbxGo_keeps (m : Master) (n : Fin 16) (len : BitVec 5) {s s' : State} (h : execMbxGo m n len s = .next s') : Keeps s s' := by
  cases h
  try dsimp only
  repeat' first
    | with_reducible exact Keeps.refl _
    | with_reducible assumption
    | with_reducible apply keeps_wrote
    | with_reducible apply keeps_mbxGo
    | with_reducible apply Keeps.byMaster
    | (intro _ _ _)
    | (intro _ _)
    | with_reducible refine Keeps.mk' ?_ rfl rfl

theorem execMbxTake_keeps (m : Master) (n : Fin 16) {s s' : State} (h : execMbxTake m n s = .next s') : Keeps s s' := by
  cases h
  try dsimp only
  repeat' first
    | with_reducible exact Keeps.refl _
    | with_reducible assumption
    | with_reducible apply keeps_wrote
    | with_reducible apply keeps_mbxTake
    | with_reducible apply Keeps.byMaster
    | (intro _ _ _)
    | (intro _ _)
    | with_reducible refine Keeps.mk' ?_ rfl rfl

theorem execDeliverReceived_keeps (src : BitVec 8) (data : List Byte) {s s' : State} (h : execDeliverReceived src data s = .next s') : Keeps s s' := by
  cases h
  try dsimp only
  repeat' first
    | with_reducible exact Keeps.refl _
    | with_reducible assumption
    | with_reducible apply keeps_deliver
    | with_reducible apply Keeps.live
    | (intro _ _ _)
    | (intro _ _)
    | with_reducible refine Keeps.mk' ?_ rfl rfl

theorem execTakeNoticeReceived_keeps (src : BitVec 8) (data : List Byte) {s s' : State} (h : execTakeNoticeReceived src data s = .next s') : Keeps s s' := by
  cases h
  try dsimp only
  repeat' first
    | with_reducible exact Keeps.refl _
    | with_reducible assumption
    | with_reducible apply keeps_mbxReturn
    | with_reducible apply Keeps.live
    | (intro _ _ _)
    | (intro _ _)
    | with_reducible refine Keeps.mk' ?_ rfl rfl

theorem execNackReceived_keeps (src : BitVec 8) (data : List Byte) {s s' : State} (h : execNackReceived src data s = .next s') : Keeps s s' := by
  cases h
  try dsimp only
  repeat' first
    | with_reducible exact Keeps.refl _
    | with_reducible assumption
    | with_reducible apply keeps_mbxReturn
    | with_reducible apply Keeps.live
    | (intro _ _ _)
    | (intro _ _)
    | with_reducible refine Keeps.mk' ?_ rfl rfl

theorem execMbxTimeout_keeps (n : Fin 16) {s s' : State} (h : execMbxTimeout n s = .next s') : Keeps s s' := by
  cases h
  try dsimp only
  repeat' first
    | with_reducible exact Keeps.refl _
    | with_reducible assumption
    | with_reducible apply keeps_mbxTimeout
    | with_reducible apply Keeps.live
    | (intro _ _ _)
    | (intro _ _)
    | with_reducible refine Keeps.mk' ?_ rfl rfl

theorem execMbxCntClr_keeps {s s' : State} (h : execMbxCntClr s = .next s') : Keeps s s' := by
  cases h
  try dsimp only
  repeat' first
    | with_reducible exact Keeps.refl _
    | with_reducible assumption
    | with_reducible apply keeps_mbxCntClr
    | with_reducible apply Keeps.live
    | (intro _ _ _)
    | (intro _ _)
    | with_reducible refine Keeps.mk' ?_ rfl rfl

theorem execReportTransmit_keeps (n : Fin 4) {s s' : State} (h : execReportTransmit n s = .next s') : Keeps s s' := by
  cases h
  try dsimp only
  repeat' first
    | with_reducible exact Keeps.refl _
    | with_reducible assumption
    | with_reducible apply keeps_transmit
    | with_reducible apply Keeps.live
    | (intro _ _ _)
    | (intro _ _)
    | with_reducible refine Keeps.mk' ?_ rfl rfl

theorem execReportRepeat_keeps (n : Fin 4) (rseq : Word) {s s' : State} (h : execReportRepeat n rseq s = .next s') : Keeps s s' := by
  cases h
  try dsimp only
  repeat' first
    | with_reducible exact Keeps.refl _
    | with_reducible assumption
    | with_reducible apply keeps_repeatReport
    | with_reducible apply Keeps.live
    | (intro _ _ _)
    | (intro _ _)
    | with_reducible refine Keeps.mk' ?_ rfl rfl

theorem execCoeffRamWrite_keeps (m : Master) (slot : Fin 768) (word : Fin 64) (v : Word) (ecc : Ecc) {s s' : State} (h : execCoeffRamWrite m slot word v ecc s = .next s') : Keeps s s' := by
  cases h
  try dsimp only
  repeat' first
    | with_reducible exact Keeps.refl _
    | with_reducible assumption
    | with_reducible apply keeps_writeAccess
    | with_reducible apply keeps_answer
    | with_reducible apply Keeps.byMaster
    | (intro _ _ _)
    | (intro _ _)
    | with_reducible refine Keeps.mk' ?_ rfl rfl

theorem execSramAccess_keeps (m : Master) (write : Bool) (addr : Word) (size : Fin 9) (v : BitVec 64) (ecc : Ecc) {s s' : State} (h : execSramAccess m write addr size v ecc s = .next s') : Keeps s s' := by
  cases h
  try dsimp only
  repeat' first
    | with_reducible exact Keeps.refl _
    | with_reducible assumption
    | with_reducible apply keeps_writeAccess
    | with_reducible apply keeps_answer
    | with_reducible apply keeps_busRead
    | with_reducible apply Keeps.when
    | with_reducible apply Keeps.byMaster
    | with_reducible apply Keeps.iteFst
    | with_reducible apply Keeps.ite
    | (intro _ _ _)
    | (intro _ _)
    | with_reducible refine Keeps.mk' ?_ rfl rfl

theorem execRegisterRead_keeps (m : Master) (addr : Word) (size : Fin 9) (ecc : Ecc) {s s' : State} (h : execRegisterRead m addr size ecc s = .next s') : Keeps s s' := by
  cases h
  try dsimp only
  repeat' first
    | with_reducible exact Keeps.refl _
    | with_reducible assumption
    | with_reducible apply keeps_busRead
    | with_reducible apply Keeps.when
    | with_reducible apply Keeps.byMaster
    | (intro _ _ _)
    | (intro _ _)
    | with_reducible refine Keeps.mk' ?_ rfl rfl

theorem execSysVsecLoRead_keeps (m : Master) {s s' : State} (h : execSysVsecLoRead m s = .next s') : Keeps s s' := by
  cases h
  try dsimp only
  repeat' first
    | with_reducible exact Keeps.refl _
    | with_reducible assumption
    | with_reducible apply keeps_busRead
    | with_reducible apply Keeps.byMaster
    | (intro _ _ _)
    | (intro _ _)
    | with_reducible refine Keeps.mk' ?_ rfl rfl

theorem execStimeNsRead_keeps (m : Master) {s s' : State} (h : execStimeNsRead m s = .next s') : Keeps s s' := by
  cases h
  try dsimp only
  repeat' first
    | with_reducible exact Keeps.refl _
    | with_reducible assumption
    | with_reducible apply keeps_busRead
    | with_reducible apply Keeps.byMaster
    | (intro _ _ _)
    | (intro _ _)
    | with_reducible refine Keeps.mk' ?_ rfl rfl

theorem execTpiFracRead_keeps (m : Master) {s s' : State} (h : execTpiFracRead m s = .next s') : Keeps s s' := by
  cases h
  try dsimp only
  repeat' first
    | with_reducible exact Keeps.refl _
    | with_reducible assumption
    | with_reducible apply keeps_busRead
    | with_reducible apply Keeps.byMaster
    | (intro _ _ _)
    | (intro _ _)
    | with_reducible refine Keeps.mk' ?_ rfl rfl

theorem execResRawRead_keeps (m : Master) (slot : Fin 16) {s s' : State} (h : execResRawRead m slot s = .next s') : Keeps s s' := by
  cases h
  try dsimp only
  repeat' first
    | with_reducible exact Keeps.refl _
    | with_reducible assumption
    | with_reducible apply keeps_busRead
    | with_reducible apply Keeps.byMaster
    | (intro _ _ _)
    | (intro _ _)
    | with_reducible refine Keeps.mk' ?_ rfl rfl

theorem execAccLoRead_keeps (m : Master) (k : Fin 64) (upset : BitVec 64) {s s' : State} (h : execAccLoRead m k upset s = .next s') : Keeps s s' := by
  cases h
  try dsimp only
  repeat' first
    | with_reducible exact Keeps.refl _
    | with_reducible assumption
    | with_reducible apply keeps_accUpset
    | with_reducible apply keeps_busRead
    | with_reducible apply Keeps.byMaster
    | (intro _ _ _)
    | (intro _ _)
    | with_reducible refine Keeps.mk' ?_ rfl rfl

theorem execHealth0Read_keeps (m : Master) {s s' : State} (h : execHealth0Read m s = .next s') : Keeps s s' := by
  cases h
  try dsimp only
  repeat' first
    | with_reducible exact Keeps.refl _
    | with_reducible assumption
    | with_reducible apply keeps_busRead
    | with_reducible apply Keeps.byMaster
    | (intro _ _ _)
    | (intro _ _)
    | with_reducible refine Keeps.mk' ?_ rfl rfl

theorem execRecordRead_keeps (m : Master) (r : Fin 64) {s s' : State} (h : execRecordRead m r s = .next s') : Keeps s s' := by
  cases h
  try dsimp only
  repeat' first
    | with_reducible exact Keeps.refl _
    | with_reducible assumption
    | with_reducible apply keeps_busRead
    | with_reducible apply Keeps.byMaster
    | (intro _ _ _)
    | (intro _ _)
    | with_reducible refine Keeps.mk' ?_ rfl rfl

theorem execLedgerRead_keeps (m : Master) (e : Fin 64) {s s' : State} (h : execLedgerRead m e s = .next s') : Keeps s s' := by
  cases h
  try dsimp only
  repeat' first
    | with_reducible exact Keeps.refl _
    | with_reducible assumption
    | with_reducible apply keeps_busRead
    | with_reducible apply Keeps.byMaster
    | (intro _ _ _)
    | (intro _ _)
    | with_reducible refine Keeps.mk' ?_ rfl rfl

theorem execLinkDown_keeps {s s' : State} (h : execLinkDown s = .next s') : Keeps s s' := by
  cases h
  try dsimp only
  repeat' first
    | with_reducible exact Keeps.refl _
    | with_reducible assumption
    | with_reducible apply keeps_linkDown
    | with_reducible apply Keeps.live
    | (intro _ _ _)
    | (intro _ _)
    | with_reducible refine Keeps.mk' ?_ rfl rfl

theorem execLinkUp_keeps {s s' : State} (h : execLinkUp s = .next s') : Keeps s s' := by
  cases h
  try dsimp only
  repeat' first
    | with_reducible exact Keeps.refl _
    | with_reducible assumption
    | with_reducible apply keeps_linkUp
    | with_reducible apply Keeps.live
    | (intro _ _ _)
    | (intro _ _)
    | with_reducible refine Keeps.mk' ?_ rfl rfl

theorem execDatagramDropped_keeps {s s' : State} (h : execDatagramDropped s = .next s') : Keeps s s' := by
  cases h
  try dsimp only
  repeat' first
    | with_reducible exact Keeps.refl _
    | with_reducible assumption
    | with_reducible apply keeps_dropDatagram
    | with_reducible apply Keeps.when
    | with_reducible apply Keeps.live
    | (intro _ _ _)
    | (intro _ _)
    | with_reducible refine Keeps.mk' ?_ rfl rfl

theorem execArpOrNeighbourSolicitation_keeps (v6 : Bool) (target : BitVec 128) {s s' : State} (h : execArpOrNeighbourSolicitation v6 target s = .next s') : Keeps s s' := by
  cases h
  try dsimp only
  repeat' first
    | with_reducible exact Keeps.refl _
    | with_reducible assumption
    | with_reducible apply Keeps.emit
    | with_reducible apply Keeps.when
    | with_reducible apply Keeps.live
    | (intro _ _ _)
    | (intro _ _)
    | with_reducible refine Keeps.mk' ?_ rfl rfl

theorem execIcmpEcho_keeps (v6 : Bool) (target : BitVec 128) {s s' : State} (h : execIcmpEcho v6 target s = .next s') : Keeps s s' := by
  cases h
  try dsimp only
  repeat' first
    | with_reducible exact Keeps.refl _
    | with_reducible assumption
    | with_reducible apply Keeps.emit
    | with_reducible apply Keeps.when
    | with_reducible apply Keeps.live
    | (intro _ _ _)
    | (intro _ _)
    | with_reducible refine Keeps.mk' ?_ rfl rfl

theorem execSessPhase1_keeps (d : Datagram) {s s' : State} (h : execSessPhase1 d s = .next s') : Keeps s s' := by
  cases h
  try dsimp only
  repeat' first
    | with_reducible exact Keeps.refl _
    | with_reducible assumption
    | with_reducible apply keeps_phase1
    | with_reducible apply Keeps.live
    | (intro _ _ _)
    | (intro _ _)
    | with_reducible refine Keeps.mk' ?_ rfl rfl

theorem execSessPhase3_keeps (d : Datagram) {s s' : State} (h : execSessPhase3 d s = .next s') : Keeps s s' := by
  cases h
  try dsimp only
  repeat' first
    | with_reducible exact Keeps.refl _
    | with_reducible assumption
    | with_reducible apply keeps_phase3
    | with_reducible apply Keeps.live
    | (intro _ _ _)
    | (intro _ _)
    | with_reducible refine Keeps.mk' ?_ rfl rfl

theorem execSessClose_keeps (d : Datagram) {s s' : State} (h : execSessClose d s = .next s') : Keeps s s' := by
  cases h
  try dsimp only
  repeat' first
    | with_reducible exact Keeps.refl _
    | with_reducible assumption
    | with_reducible apply keeps_phase5
    | with_reducible apply Keeps.live
    | (intro _ _ _)
    | (intro _ _)
    | with_reducible refine Keeps.mk' ?_ rfl rfl

theorem execHalfOpenTimeout_keeps (n : Fin 4) {s s' : State} (h : execHalfOpenTimeout n s = .next s') : Keeps s s' := by
  cases h
  try dsimp only
  repeat' first
    | with_reducible exact Keeps.refl _
    | with_reducible assumption
    | with_reducible apply keeps_runUp
    | with_reducible apply keeps_sessFree
    | with_reducible apply Keeps.when
    | with_reducible apply Keeps.live
    | (intro _ _ _)
    | (intro _ _)
    | with_reducible refine Keeps.mk' ?_ rfl rfl

theorem execIdleTimeout_keeps (n : Fin 4) {s s' : State} (h : execIdleTimeout n s = .next s') : Keeps s s' := by
  cases h
  try dsimp only
  repeat' first
    | with_reducible exact Keeps.refl _
    | with_reducible assumption
    | with_reducible apply keeps_runUp
    | with_reducible apply keeps_sessClose
    | with_reducible apply Keeps.when
    | with_reducible apply Keeps.live
    | (intro _ _ _)
    | (intro _ _)
    | with_reducible refine Keeps.mk' ?_ rfl rfl

theorem execReadRequest_keeps (d : Datagram) {s s' : State} (h : execReadRequest d s = .next s') : Keeps s s' := by
  cases h
  try dsimp only
  repeat' first
    | with_reducible exact Keeps.refl _
    | with_reducible assumption
    | with_reducible apply keeps_requestOf
    | with_reducible apply Keeps.live
    | (intro _ _ _)
    | (intro _ _)
    | with_reducible refine Keeps.mk' ?_ rfl rfl

theorem execWriteRequest_keeps (d : Datagram) {s s' : State} (h : execWriteRequest d s = .next s') : Keeps s s' := by
  cases h
  try dsimp only
  repeat' first
    | with_reducible exact Keeps.refl _
    | with_reducible assumption
    | with_reducible apply keeps_requestOf
    | with_reducible apply Keeps.live
    | (intro _ _ _)
    | (intro _ _)
    | with_reducible refine Keeps.mk' ?_ rfl rfl

theorem execRequestDequeue_keeps {s s' : State} (h : execRequestDequeue s = .next s') : Keeps s s' := by
  cases h
  try dsimp only
  repeat' first
    | with_reducible exact Keeps.refl _
    | with_reducible assumption
    | with_reducible apply keeps_dequeue
    | with_reducible apply Keeps.live
    | (intro _ _ _)
    | (intro _ _)
    | with_reducible refine Keeps.mk' ?_ rfl rfl

theorem execBatchStageCommon_keeps (d : Datagram) {s s' : State} (h : execBatchStageCommon d s = .next s') : Keeps s s' := by
  cases h
  try dsimp only
  repeat' first
    | with_reducible exact Keeps.refl _
    | with_reducible assumption
    | with_reducible apply keeps_requestOf
    | with_reducible apply Keeps.live
    | (intro _ _ _)
    | (intro _ _)
    | with_reducible refine Keeps.mk' ?_ rfl rfl

theorem execBatchStageEach_keeps (d : Datagram) {s s' : State} (h : execBatchStageEach d s = .next s') : Keeps s s' := by
  cases h
  try dsimp only
  repeat' first
    | with_reducible exact Keeps.refl _
    | with_reducible assumption
    | with_reducible apply keeps_requestOf
    | with_reducible apply Keeps.live
    | (intro _ _ _)
    | (intro _ _)
    | with_reducible refine Keeps.mk' ?_ rfl rfl

theorem execBatchCancelRequest_keeps (d : Datagram) {s s' : State} (h : execBatchCancelRequest d s = .next s') : Keeps s s' := by
  cases h
  try dsimp only
  repeat' first
    | with_reducible exact Keeps.refl _
    | with_reducible assumption
    | with_reducible apply keeps_requestOf
    | with_reducible apply Keeps.live
    | (intro _ _ _)
    | (intro _ _)
    | with_reducible refine Keeps.mk' ?_ rfl rfl

theorem execBatchResponseTimeout_keeps {s s' : State} (h : execBatchResponseTimeout s = .next s') : Keeps s s' := by
  cases h
  try dsimp only
  repeat' first
    | with_reducible exact Keeps.refl _
    | with_reducible assumption
    | with_reducible apply keeps_batchAnswer
    | with_reducible apply Keeps.when
    | with_reducible apply Keeps.live
    | (intro _ _ _)
    | (intro _ _)
    | split
    | with_reducible refine Keeps.mk' ?_ rfl rfl

theorem execReportAck_keeps (d : Datagram) {s s' : State} (h : execReportAck d s = .next s') : Keeps s s' := by
  cases h
  try dsimp only
  repeat' first
    | with_reducible exact Keeps.refl _
    | with_reducible assumption
    | with_reducible apply keeps_reportAck
    | with_reducible apply Keeps.live
    | (intro _ _ _)
    | (intro _ _)
    | with_reducible refine Keeps.mk' ?_ rfl rfl

theorem execTimeNow_keeps (d : Datagram) {s s' : State} (h : execTimeNow d s = .next s') : Keeps s s' := by
  cases h
  try dsimp only
  repeat' first
    | with_reducible exact Keeps.refl _
    | with_reducible assumption
    | with_reducible apply keeps_requestOf
    | with_reducible apply Keeps.live
    | (intro _ _ _)
    | (intro _ _)
    | with_reducible refine Keeps.mk' ?_ rfl rfl

theorem execTimeTx_keeps (d : Datagram) {s s' : State} (h : execTimeTx d s = .next s') : Keeps s s' := by
  cases h
  try dsimp only
  repeat' first
    | with_reducible exact Keeps.refl _
    | with_reducible assumption
    | with_reducible apply keeps_requestOf
    | with_reducible apply Keeps.live
    | (intro _ _ _)
    | (intro _ _)
    | with_reducible refine Keeps.mk' ?_ rfl rfl

theorem execPtpFrameReceived_keeps (frame : List Byte) {s s' : State} (h : execPtpFrameReceived frame s = .next s') : Keeps s s' := by
  cases h
  try dsimp only
  repeat' first
    | with_reducible exact Keeps.refl _
    | with_reducible assumption
    | with_reducible apply keeps_ptpReceived
    | with_reducible apply Keeps.live
    | (intro _ _ _)
    | (intro _ _)
    | with_reducible refine Keeps.mk' ?_ rfl rfl

theorem execMbxSend_keeps (d : Datagram) {s s' : State} (h : execMbxSend d s = .next s') : Keeps s s' := by
  cases h
  try dsimp only
  repeat' first
    | with_reducible exact Keeps.refl _
    | with_reducible assumption
    | with_reducible apply keeps_requestOf
    | with_reducible apply Keeps.live
    | (intro _ _ _)
    | (intro _ _)
    | with_reducible refine Keeps.mk' ?_ rfl rfl

theorem execMbxRecv_keeps (d : Datagram) {s s' : State} (h : execMbxRecv d s = .next s') : Keeps s s' := by
  cases h
  try dsimp only
  repeat' first
    | with_reducible exact Keeps.refl _
    | with_reducible assumption
    | with_reducible apply keeps_requestOf
    | with_reducible apply Keeps.live
    | (intro _ _ _)
    | (intro _ _)
    | with_reducible refine Keeps.mk' ?_ rfl rfl

theorem execMbxRecvExpiry_keeps (n : Fin 4) (expired : Bool) {s s' : State} (h : execMbxRecvExpiry n expired s = .next s') : Keeps s s' := by
  cases h
  try dsimp only
  repeat' first
    | with_reducible exact Keeps.refl _
    | with_reducible assumption
    | with_reducible apply keeps_recvExpiry
    | with_reducible apply Keeps.live
    | (intro _ _ _)
    | (intro _ _)
    | with_reducible refine Keeps.mk' ?_ rfl rfl

theorem execMbxStat_keeps (d : Datagram) {s s' : State} (h : execMbxStat d s = .next s') : Keeps s s' := by
  cases h
  try dsimp only
  repeat' first
    | with_reducible exact Keeps.refl _
    | with_reducible assumption
    | with_reducible apply keeps_requestOf
    | with_reducible apply Keeps.live
    | (intro _ _ _)
    | (intro _ _)
    | with_reducible refine Keeps.mk' ?_ rfl rfl

theorem execAttestIdentity_keeps (d : Datagram) {s s' : State} (h : execAttestIdentity d s = .next s') : Keeps s s' := by
  cases h
  try dsimp only
  repeat' first
    | with_reducible exact Keeps.refl _
    | with_reducible assumption
    | with_reducible apply keeps_requestOf
    | with_reducible apply Keeps.live
    | (intro _ _ _)
    | (intro _ _)
    | with_reducible refine Keeps.mk' ?_ rfl rfl

theorem execAttestRecord_keeps (d : Datagram) {s s' : State} (h : execAttestRecord d s = .next s') : Keeps s s' := by
  cases h
  try dsimp only
  repeat' first
    | with_reducible exact Keeps.refl _
    | with_reducible assumption
    | with_reducible apply keeps_requestOf
    | with_reducible apply Keeps.live
    | (intro _ _ _)
    | (intro _ _)
    | with_reducible refine Keeps.mk' ?_ rfl rfl

theorem execAttestTimeout_keeps {s s' : State} (h : execAttestTimeout s = .next s') : Keeps s s' := by
  cases h
  try dsimp only
  repeat' first
    | with_reducible exact Keeps.refl _
    | with_reducible assumption
    | with_reducible apply keeps_runUp
    | with_reducible apply keeps_reqFail
    | with_reducible apply Keeps.when
    | with_reducible apply Keeps.live
    | with_reducible apply Keeps.iteFst
    | with_reducible apply Keeps.ite
    | (intro _ _ _)
    | (intro _ _)
    | split
    | with_reducible refine Keeps.mk' ?_ rfl rfl

theorem execSignatureComplete_keeps {s s' : State} (h : execSignatureComplete s = .next s') : Keeps s s' := by
  cases h
  try dsimp only
  repeat' first
    | with_reducible exact Keeps.refl _
    | with_reducible assumption
    | with_reducible apply keeps_signatureDone
    | with_reducible apply Keeps.live
    | (intro _ _ _)
    | (intro _ _)
    | with_reducible refine Keeps.mk' ?_ rfl rfl

theorem execSignerFailure_keeps {s s' : State} (h : execSignerFailure s = .next s') : Keeps s s' := by
  cases h
  try dsimp only
  repeat' first
    | with_reducible exact Keeps.refl _
    | with_reducible assumption
    | with_reducible apply keeps_signerFailed
    | with_reducible apply Keeps.live
    | (intro _ _ _)
    | (intro _ _)
    | with_reducible refine Keeps.mk' ?_ rfl rfl

theorem execSupCntClr_keeps {s s' : State} (h : execSupCntClr s = .next s') : Keeps s s' := by
  cases h
  try dsimp only
  repeat' first
    | with_reducible exact Keeps.refl _
    | with_reducible assumption
    | with_reducible apply keeps_supCntClr
    | with_reducible apply Keeps.live
    | (intro _ _ _)
    | (intro _ _)
    | with_reducible refine Keeps.mk' ?_ rfl rfl

theorem execCloseAll_keeps (m : Master) {s s' : State} (h : execCloseAll m s = .next s') : Keeps s s' := by
  cases h
  try dsimp only
  repeat' first
    | with_reducible exact Keeps.refl _
    | with_reducible assumption
    | with_reducible apply keeps_closeAll
    | with_reducible apply keeps_violation
    | with_reducible apply Keeps.byMaster
    | with_reducible apply Keeps.iteFst
    | with_reducible apply Keeps.ite
    | (intro _ _ _)
    | (intro _ _)
    | with_reducible refine Keeps.mk' ?_ rfl rfl

theorem execBulkReceived_keeps {s s' : State} (h : execBulkReceived s = .next s') : Keeps s s' := by
  cases h
  try dsimp only
  repeat' first
    | with_reducible exact Keeps.refl _
    | with_reducible assumption
    | with_reducible apply keeps_takeRx
    | with_reducible apply keeps_bulkReceived
    | with_reducible apply Keeps.live
    | (intro _ _ _)
    | (intro _ _)
    | with_reducible refine Keeps.mk' ?_ rfl rfl

theorem execRraGo_keeps (m : Master) (v : Word) {s s' : State} (h : execRraGo m v s = .next s') : Keeps s s' := by
  cases h
  try dsimp only
  repeat' first
    | with_reducible exact Keeps.refl _
    | with_reducible assumption
    | with_reducible apply keeps_rraCtrl
    | with_reducible apply keeps_answer
    | with_reducible apply Keeps.byMaster
    | (intro _ _ _)
    | (intro _ _)
    | with_reducible refine Keeps.mk' ?_ rfl rfl

theorem execRraTimeout_keeps (host : Bool) {s s' : State} (h : execRraTimeout host s = .next s') : Keeps s s' := by
  cases h
  try dsimp only
  repeat' first
    | with_reducible exact Keeps.refl _
    | with_reducible assumption
    | with_reducible apply keeps_hostTimeoutRra
    | with_reducible apply keeps_rraEnd
    | with_reducible apply Keeps.when
    | with_reducible apply Keeps.live
    | with_reducible apply Keeps.iteFst
    | with_reducible apply Keeps.ite
    | (intro _ _ _)
    | (intro _ _)
    | split
    | with_reducible refine Keeps.mk' ?_ rfl rfl

theorem execBatchItemApply_keeps {s s' : State} (h : execBatchItemApply s = .next s') : Keeps s s' := by
  cases h
  try dsimp only
  repeat' first
    | with_reducible exact Keeps.refl _
    | with_reducible assumption
    | with_reducible apply keeps_batchApply
    | with_reducible apply Keeps.live
    | (intro _ _ _)
    | (intro _ _)
    | with_reducible refine Keeps.mk' ?_ rfl rfl

theorem execRegisterWrite_keeps (m : Master) (addr : Word) (size : Fin 9) (v : Word) (ecc : Ecc) {s s' : State} (h : execRegisterWrite m addr size v ecc s = .next s') : Keeps s s' := by
  cases h
  try dsimp only
  repeat' first
    | with_reducible exact Keeps.refl _
    | with_reducible assumption
    | with_reducible apply keeps_busWrite
    | with_reducible apply Keeps.when
    | with_reducible apply Keeps.byMaster
    | (intro _ _ _)
    | (intro _ _)
    | with_reducible refine Keeps.mk' ?_ rfl rfl

end Sys2Proof.Machine
end

