-- ==== Sys2Proof/WellFormed.lean ====
section
/-! DEFINITION. WellFormed.lean: which commands the environment can really give. Operand types already bound the port, lane,
channel and slot numbers; what remains are the lengths and ranges below. `exec` answers for every command, well formed or
not. -/
namespace Sys2Proof

/-- A codeword carries 190 bytes of payload (R128). -/
def cwOk (cw : List Byte) : Bool := cw.length == 190

/-- The access sizes a master can drive: 1, 2, 4 and 8 bytes (R12, R531). -/
def accessSizeOk (n : Nat) : Bool := n == 1 || n == 2 || n == 4 || n == 8

/-- An entry of the station table names a role of R31. -/
def entryOk (e : StationEntry) : Bool := Nat.ble 1 e.role && Nat.ble e.role 4

/-- A codeword on a lane: 800 symbols of PAM4 or 1600 of PAM2, each at one of the four levels (R125, R127). -/
def levelsOk (rx : List Int) : Bool :=
  (rx.length == 800 || rx.length == 1600) && rx.all fun v => v == -3 || v == -1 || v == 1 || v == 3

/-- What STATION can say: roles of R31, the 8 host keys of R523. -/
def stationOk (i : StationRead) : Bool :=
  i.table.all entryOk && i.hostKeys.all (fun k => Nat.blt k.1 8 && (k.2.1 == 1 || k.2.1 == 2))

/-- A flash of 16 Mbit to 1 Gbit that answers SFDP, or one that does not (R92); its bytes stand by rising address. -/
def chipOk (c : FlashChip) : Bool :=
  (match c.sfdp with
   | some d => Nat.ble 0x200000 d.size && Nat.ble d.size 0x8000000 && c.mem.all fun e => Nat.blt e.1 d.size
   | none => true) &&
  (c.mem.zip (c.mem.drop 1)).all fun e => Nat.blt e.1.1 e.2.1

/-- The command is well formed. -/
def Instr.wf : Instr → Bool
  | .powerOnReset => true
  | .railReset _ => true
  | .pginReset => true
  | .pinReset => true
  | .rstCtrlWrite _ _ => true
  | .softReset => true
  | .releaseOfReset _ _ => true
  | .vaultSwitchOver _ => true
  | .vaultSecond => true
  | .xtalFail => true
  | .tamperPulse _ => true
  | .sysVsecLoRead _ => true
  | .lockDeclared => true
  | .lossOfRefin => true
  | .refinReturn _ => true
  | .reacquireComplete => true
  | .lossOfLock => true
  | .holdMaxExpiry => true
  | .referenceWaitEnd => true
  | .timebaseLoss => true
  | .sramInitDone chip => chip.all chipOk
  | .fetchDone => true
  | .fetchTimeout => true
  | .verifyDone img => stationOk img
  | .bootLock => true
  | .imgProvWrite _ _ => true
  | .trialTimeout => true
  | .imgErase _ => true
  | .imgProgram _ => true
  | .imgVerify _ => true
  | .imgArm _ => true
  | .imgAbort _ => true
  | .imgUpdDone _ _ => true
  | .admissionRequest _ => true
  | .admissionTimeRetry _ _ => true
  | .fullServiceNamed _ _ => true
  | .stWaitExpiry => true
  | .spliceNamed _ _ => true
  | .cycleBoundary _ => true
  | .lanePllLock _ => true
  | .lanePllLoss _ => true
  | .cdrLock _ _ => true
  | .frameLock _ _ => true
  | .lossOfFrame _ _ => true
  | .lossOfSignal _ _ => true
  | .laneRetry _ _ => true
  | .trainingDone _ => true
  | .trainingFail _ _ => true
  | .trainWaitEnd _ => true
  | .elasticBufferLimit _ _ => true
  | .eyeMonitorUpdate _ _ _ _ _ => true
  | .chillWrite _ _ => true
  | .trainWrite _ => true
  | .lnkCntClr _ => true
  | .codewordReceived _ _ rx => levelsOk rx
  | .fold _ => true
  | .unfoldNamed _ => true
  | .nbrReceived _ => true
  | .upWave diverted => diverted.all (fun e => cwOk e.2)
  | .upReceived => true
  | .uplinkDeadline => true
  | .downWave diverted => diverted.all (fun e => cwOk e.2)
  | .dnReceived => true
  | .ackReceived => true
  | .bulkInsert _ _ _ => true
  | .bulkReceived => true
  | .bulkResend _ _ => true
  | .creditOnlySend _ _ => true
  | .rraGo _ _ => true
  | .rraTimeout _ => true
  | .rngCntClr => true
  | .linkMeasurement _ => true
  | .sourceLoss => true
  | .holdLimit => true
  | .xchk => true
  | .stimeWrap => true
  | .stimeNsRead _ => true
  | .timOffsetWrite _ _ => true
  | .hostTimeout => true
  | .tpoEdge _ => true
  | .tpoPulseEnd _ => true
  | .tpoEnable _ _ => true
  | .tpoConfigWrite _ _ _ => true
  | .tpiEdge _ _ _ => true
  | .tpiFracRead _ => true
  | .rgTrigger _ _ => true
  | .groupCommit _ => true
  | .deadlineMiss _ => true
  | .swapGo _ => true
  | .swapCancel => true
  | .coeffRamWrite _ _ _ _ _ => true
  | .peekRequest _ => true
  | .debugHalt => true
  | .ceCntClr => true
  | .balancerCommit _ => true
  | .bypassRequest _ _ => true
  | .rejoinRequest _ _ => true
  | .carrierStart _ => true
  | .carrierMidpoint _ => true
  | .compareEvent _ _ => true
  | .deadIntervalEnd _ => true
  | .pwmShadowWrite _ _ _ => true
  | .pwmCtrlWrite _ _ => true
  | .tripInputActive _ => true
  | .tripInputInactive _ => true
  | .blankingEnd _ => true
  | .groupClear _ => true
  | .rearm _ => true
  | .pwmCntClr => true
  | .shortCircuit _ _ => true
  | .softTurnOffEnd _ _ => true
  | .waitExpiry _ _ => true
  | .bootstrapUndervoltage _ => true
  | .bootstrapCharged _ => true
  | .chargeTimeout _ => true
  | .vdrvUndervoltage => true
  | .vnegUndervoltage => true
  | .supplyUvEnd _ => true
  | .interlock _ _ => true
  | .deadtimeViolation _ _ => true
  | .shoot _ => true
  | .selfTest _ _ _ _ => true
  | .injNow => true
  | .gdDeratingPublish _ _ vbs => vbs.length == 6
  | .gdCntClr => true
  | .adcTrigger _ => true
  | .holdInstant _ => true
  | .conversionEnd _ _ => true
  | .lpWrite _ => true
  | .lowPowerSwitchEnd _ => true
  | .chWrite _ _ => true
  | .housekeepingStart _ _ => true
  | .referenceCheck _ => true
  | .resRawRead _ _ => true
  | .adcCntClr => true
  | .meterSample codes _ => codes.length == 8
  | .norefCycleEnd => true
  | .accumulatorUpdate _ => true
  | .pulseEmit _ => true
  | .plsConfigWrite _ _ _ _ => true
  | .snapshotTake _ => true
  | .snapshotSign _ => true
  | .signatureComplete => true
  | .signerFailure => true
  | .autoSnapshot => true
  | .accLoRead _ _ _ => true
  | .listenWindowEnd => true
  | .hbReceived => true
  | .glazeSend => true
  | .glazeCodewordReceived => true
  | .healthReport => true
  | .engineSelfCheck _ => true
  | .health0Read _ => true
  | .swapRequest _ => true
  | .dpxSwapCancel _ => true
  | .dpxCntClr => true
  | .failoverLedgerRead got => got.all (fun e => e.2.all (fun w => w.length == 16))
  | .noEligibleStandby => true
  | .testGapStart _ => true
  | .testGapEnd _ => true
  | .testSourceLimit _ => true
  | .safeInputSample _ _ => true
  | .vauxUndervoltage => true
  | .vauxRecover => true
  | .safetyDecision diverted => diverted.all (fun e => cwOk e.2)
  | .safeReceived => true
  | .discrepancyWindowClose _ => true
  | .stoLoss => true
  | .localEvaluation _ => true
  | .darkTest _ _ => true
  | .soReadback _ _ _ _ => true
  | .edmCheck _ => true
  | .safCntClr => true
  | .faultRaise r _ => Nat.ble r.cls 5 && Nat.blt r.kind 16
  | .brokenPair r _ => Nat.ble r.cls 5 && Nat.blt r.kind 16
  | .recordClose => true
  | .recordClear _ _ => true
  | .stationClear _ => true
  | .fltiChange _ => true
  | .recordRead _ _ => true
  | .ledgerRead _ _ => true
  | .batchStage _ _ count items => Nat.ble 1 count && Nat.ble count 256 && Nat.ble items.length count
  | .batchItemApply => true
  | .batchCancel _ => true
  | .sramAccess _ _ _ size _ _ => accessSizeOk size.val
  | .eccWriteBack _ => true
  | .bucketLeak _ => true
  | .scrubGo _ => true
  | .scrubAbort _ => true
  | .scrubWord _ => true
  | .repair _ _ => true
  | .memCntClr => true
  | .sensorReading _ _ _ => true
  | .logWrite => true
  | .logSelWrite _ => true
  | .logReadDone => true
  | .linkDown => true
  | .linkUp => true
  | .readRequest d => d.head.length == 16
  | .writeRequest d => d.head.length == 16
  | .requestDequeue => true
  | .batchStageCommon d => d.head.length == 16
  | .batchStageEach d => d.head.length == 16
  | .batchCancelRequest d => d.head.length == 16
  | .batchResponseTimeout => true
  | .reportAck d => d.head.length == 16
  | .reportTransmit _ => true
  | .reportRepeat _ _ => true
  | .timeNow d => d.head.length == 16
  | .timeTx d => d.head.length == 16
  | .ptpFrameReceived _ => true
  | .mbxSend d => d.head.length == 16
  | .mbxRecv d => d.head.length == 16
  | .mbxRecvExpiry _ _ => true
  | .mbxStat d => d.head.length == 16
  | .sessPhase1 d => d.head.length == 16
  | .sessPhase3 d => d.head.length == 16
  | .sessClose d => d.head.length == 16
  | .halfOpenTimeout _ => true
  | .idleTimeout _ => true
  | .attestIdentity d => d.head.length == 16
  | .attestRecord d => d.head.length == 16
  | .attestTimeout => true
  | .supCntClr => true
  | .closeAll _ => true
  | .mbxDataWrite _ _ _ _ => true
  | .mbxGo _ _ _ => true
  | .mbxTake _ _ => true
  | .deliverReceived _ data => Nat.ble 8 data.length
  | .takeNoticeReceived _ _ => true
  | .nackReceived _ _ => true
  | .mbxTimeout _ => true
  | .mbxCntClr => true
  | .registerWrite _ _ size _ _ => accessSizeOk size.val
  | .powerGood => true
  | .refinValid => true
  | .vaultStateLost => true
  | .bothLanePllsOutOfLock => true
  | .plsPulseEnd _ => true
  | .datagramDropped => true
  | .arpOrNeighbourSolicitation _ _ => true
  | .icmpEcho _ _ => true
  | .registerRead _ _ size _ => accessSizeOk size.val
  | .debugHaltEnd => true

end Sys2Proof
end

