-- ==== Sys2Proof/Tests/Slice0.lean ====
section
/-! SUPPORT. Tests/Slice0.lean: small states, the smoke tests of WellFormed, tests of one step each, and for every clause of
every statement a state and operands that meet its hypotheses. -/
open Sys2Proof Sys2Proof.Machine
set_option Elab.async false
namespace Sys2Proof.Tests

/-- A node out of reset with its root locked, unbound. -/
def run : State :=
  { State.reset with sys := { inReset := false, powerGood := true, dbgsel := true }
                     clk := { root := .locked, refin := true }, pwm := { held := false } }

/-- A bound node: role 1 HEAD, 2 CELL, 3 SECONDARY, 4 OUTPUT; its position and boot stage. -/
def node (role pos stage : Nat) : State :=
  ((run.put F.SYS_ROLE_ROLE role).put F.SYS_ADDR_POS pos).put F.IMG_STAT_STAGE stage

/-- The primary HEAD of the station, in FULL. -/
def prim : State := (node 1 0 8).put F.DPX_STAT_STATE 2

/-- A CELL in FULL. -/
def cell : State := node 2 0x10 8

/-- A CELL in FULL with channel 0 enabled and its period shadow in range. -/
def chanOn : State := (cell.setFlag (F.PWM_LCHn_CFG_EN 0) true).wrN (R.PWM_LCHn_PER 0) 25000

/-- Leg n in RUN with channel n in a period and a duty. -/
def chanRun (n : Nat) : State :=
  ((((cell.wrN (R.PWM_LCHn_CFG n) 0xA0000000).wrN (R.PWM_LCHn_PER_ACT n) 30000).put (F.PWM_LCHn_STAT_LEG_STATE n) 3).setChan n
    { duty := 1000 })

/-- Input 7 maps to groups 0 and 7, which hold legs 0 and 5. -/
def tripCfg : State :=
  ((cell.wrN (R.PWM_TRPk_CFG 7) 0x80810000).wrN (R.PWM_GRPg_LEGS 0) 0x80000001).wrN (R.PWM_GRPg_LEGS 7) 0x80000020

/-- Legs 0, 1 and 5 enabled and driven, leg 1 in NORMAL with its high side on and both checks enabled. -/
def gdLeg : State :=
  let a := (cell.setFlag (F.GD_LEGn_CFG_EN 1) true).put (F.GD_LEGn_STAT_LS_STATE 1) 1
  let b := (a.put (F.GD_LEGn_STAT_HS_STATE 1) 1).setFlag (F.GD_LEGn_SC_HS_SC_EN 1) true
  ((b.setFlag (F.GD_LEGn_SC_LS_SC_EN 1) true).setLeg 1 { hi := true }).setGate 3 { on := true }

/-- Leg 4 the designated bypass driver of a CELL, closed. -/
def gdByp : State :=
  let a := ((cell.put F.SYS_ROLE_BYP_LEG 4).setFlag (F.GD_LEGn_CFG_EN 4) true).put (F.GD_LEGn_STAT_LS_STATE 4) 1
  let b := (a.put (F.GD_LEGn_STAT_HS_STATE 4) 1).setFlag (F.GD_LEGn_SC_LS_SC_EN 4) true
  b.setGate 8 { on := true }

/-- The high side of leg n in CHARGE, its leg first in RUN at base tick 7. -/
def gdCharge (n : Nat) : State :=
  let a := ((if n = 4 then gdByp else gdLeg).put (stateFld n .high) 5)
  a.setGateLeg n { a.gateLeg n with runAt := some 7 }

/-- Leg 1 off, with self-tests enabled. -/
def gdTest : State := (gdLeg.setFlag F.GD_CTRL_INJ_EN true).setLeg 1 {}

/-- Both converters enabled, slots 0, 7, 8 and 15 of type 1. -/
def adcOn : State :=
  [0, 7, 8, 15].foldl (fun s m => s.wrN (R.ADC_TRGm_CFG m) 0x88000000) (cell.wrN R.ADC_CFG 0xC0000000)

/-- Slot m has a trigger due at tick 9. -/
def adcDueNode (m : Nat) : State := adcOn.setAdcDue m [(9, 1)]

/-- A conversion of a slot or for housekeeping that ends at tick 40, in converter a. -/
def adcConvOf (slot : Option Nat) (chan : Nat) : AdcConv :=
  { slot := slot, chan := chan, scn := 1, stime := 0, late := false, lp := false, shadow := false, done := 40 }
def adcConvNode (a : Nat) (slot : Option Nat) (chan : Nat) : State := adcOn.setAdcConv a (some (adcConvOf slot chan))

/-- Both results of a reference check in, that of channel 17 out of tolerance. -/
def refNode : State :=
  ((adcOn.put F.ADC_CFG_REFCHK_PER 5).setAdcHk 0 16 (some ⟨51200, false, false, 0⟩)).setAdcHk 0 17 (some ⟨300, false, false, 0⟩)

/-- Sensor 6 enabled on channel 0 with its two housekeeping results in. -/
def ntcNode : State :=
  let a := ((cell.setFlag (F.THM_Sn_CFG_EN 6) true).wrN R.THM_NTC_RPU 0x461C4000).wrN (R.THM_Sn_R25 6) 0x461C4000
  let b := (a.wrN (R.THM_Sn_B 6) 0x455B6000).setAdcHk 0 0 (some ⟨0x4000, false, false, 0⟩)
  b.setAdcHk 0 18 (some ⟨0x9000, false, false, 0⟩)

/-- A scrub of the whole SRAM set up. -/
def scrubCfg : State := (cell.wrN R.MEM_SCRUB_START 0x20000000).wrN R.MEM_SCRUB_END 0x20FFFFF8

/-- Region 7 leaks every millisecond. -/
def leakNode : State := (cell.put (F.MEM_BKTr_CFG_LEAK 7) 1).put (F.MEM_BKTr_STAT_LEVEL 7) 3

/-- Group 0 enabled with slot 0: 2·(ref − fb) within ±10. -/
def engCfg : State :=
  let a := (cell.wrN (R.CE_RGn_CFG 0) 0x91000000).wrN (R.CE_SLOTn_CFG 0) 0x80000000
  (a.wrN (R.CE_SLOTn_BKA_B0 0) 0x40000000).wrN (R.CE_SLOTn_BKA_HI 0) 0x41200000

/-- Group 0 in an evaluation of slot 0 with inputs 1, 0 and 0. -/
def engRun : State :=
  (engCfg.put (F.CE_RGn_DL_DL 0) 4000).setEngGroup 0
    { run := some [⟨0, .value 0x3F800000, .value 0, .value 0, 0, false, 0⟩], trig := engCfg.lnow }

/-- Group g has a trigger due at tick t. -/
def grpDue (s : State) (g t : Nat) : State := s.setEngGroup g { s.engGroup g with due := [t] }

/-- The primary HEAD of a station of two CELL nodes, its balancer run under way. -/
def balNode : State :=
  let tab : List StationEntry := [{ pos := 0x10, role := 2, stack := 0, cell := 0 }, { pos := 0x11, role := 2, stack := 0, cell := 1 }]
  let a := ((prim.setFlag F.BAL_STAT_BUSY true).setFlag (F.BAL_STKs_CFG_EN 0) true).put (F.BAL_STKs_CELLi_STAT_STATE 0 0) 3
  let b := (a.put (F.BAL_STKs_CELLi_STAT_STATE 0 1) 3).wrN (R.BAL_STKs_CELLi_CAP 0 0) 0x3F800000
  let c := ((b.wrN (R.BAL_STKs_CELLi_CAP 0 1) 0x3F800000).setBalCell 0 0 { v := some 0x447A0000 }).setBalCell 0 1
    { v := some 0x44800000 }
  { c with img := { c.img with image := { table := tab } }, bal := { c.bal with started := true } }

/-- A small image of SEQ 9 and epoch 1 with no station configuration, signed with the private key 1: its header, its firmware
header and its board table with a default entry alone. -/
def imgHead : List Byte := beBytes 736
  (0x4b51494d0100000000220000090000000019000004000000000000000000000001000000002000000001000000000000 * 2 ^ 5504 +
    0xb002a27b1809251d9748898e01af5fbe315ae244d0ec80a4cd245abe080616ae02000000002000000000000000000000 * 2 ^ 5120 +
    0x1ab21d8355cfa17f8e61194831e81a8f22bec8c728fefb747ed035eb5082aa2b0300000000210000f000000000000000 * 2 ^ 4736 +
    0xb64a591df4aa5ae542a10056baebb8f231da99b1b9c88fa28accacff159dce9d04000000002000000000000000000000 * 2 ^ 4352 +
    0x1ab21d8355cfa17f8e61194831e81a8f22bec8c728fefb747ed035eb5082aa2b00000000000000000000000000000000 * 2 ^ 3968 +
    0x32c4ae2c1f1981195f9904466a39c9948fe30bbff2660be1715a4589334c74c7 * 2 ^ 1280 +
    0xbc3736a2f4f6779c59bdcee36b692153d0a9877cc62a474002df32e52139f0a000000000000000000000000000000000 * 2 ^ 896 +
    0x32ac91089555b8e13f2e8fc421fcadcb286d4a46273c22948035ab12e0e9e28c66a9b77b3555238f6068b81def01a91a * 2 ^ 128 +
    0x24cb4a927d44f14b69c3247b2c75af4f * 2 ^ 0)
def imgFw : List Byte := beBytes 256 (0x4b514657010001000000000000000000a6cf4076de65de132621a60cebee4c02b1151b148e4a5ef6125b468237d48b75 * 2 ^ 1664 +
    0xac985fc390cd10f66cef2cf98a08d9fe197951e0daa0d5b04a8e50c81deafb6b00000000000000000000000000000000 * 2 ^ 1280)
def imgBoard : List Byte := beBytes 240 (0x4b51424401000000e000000000000000ff00000000000000000000000000000000000000000000000000000000000000 * 2 ^ 1536)

/-- The public key of the private key 1: x then y of the point G. -/
def keyG : BitVec 512 :=
  0x32c4ae2c1f1981195f9904466a39c9948fe30bbff2660be1715a4589334c74c7bc3736a2f4f6779c59bdcee36b692153d0a9877cc62a474002df32e52139f0a0

/-- A flash of 32 KiB whose slot 0 holds an image with this header and board table. -/
def flashOf (head board : List Byte) : FlashChip :=
  let at_ := fun (a : Nat) (l : List Byte) => ((List.range l.length).map (a + ·)).zip l
  { sfdp := some { size := 0x8000, modes := [] }, mem := at_ 0 head ++ at_ 0x2000 imgFw ++ at_ 0x2100 board }

def imgFlash : FlashChip := flashOf imgHead imgBoard

/-- The same image with a pre-cursor tap of 13 in the first equalisation row. -/
def badEqFlash : FlashChip :=
  flashOf
    (imgHead.take 0x90 ++ beBytes 32 0xd762294305e0e6799af533cab3f193c0d3c8b4928dbedcf0d711294efbaeac28 ++
      (imgHead.drop 0xB0).take 0x1F0 ++
      beBytes 64 0xbf6ef6e7eaf4392fb9f69d44d8e42b13aaa8aca4c1359d2005549793b1b01f6da048848b0a85e3682304b15d938dea759caf8918c12b369b5111a83f60fd3170)
    (imgBoard.take 41 ++ [13#8] ++ imgBoard.drop 42)

/-- Two GOOD slots, the second with the higher SEQ. -/
def twoGood : FlashChip :=
  flashProgram (flashMark (flashMark imgFlash 0 .good) 1 .good) (0x4000 + 0x0C) [10#8, 0#8, 0#8, 0#8]

/-- A slot 0 whose header says 64 bytes and nothing else. -/
def shortFlash : FlashChip := { sfdp := some { size := 0x8000, modes := [] }, mem := [(8, 64), (9, 0), (10, 0), (11, 0)] }

/-- Position 0x10 in VERIFY, its owner key fused and the image in its flash. -/
def verNode : State :=
  let a := ((run.put F.IMG_STAT_STAGE 3).put F.SYS_ADDR_POS 16).put F.IMG_OWNER_STAT_K0 1
  let b := (a.wrN R.TIM_SC_LEN 312500).wrN R.SYS_ROLE 0
  { b with flash := imgFlash, vendorKey := keyG, fuse := { dig := [(0, ownerDigOf imgHead)] } }

theorem ver_ok : verNode.verify 0 false = none := by decide +kernel

theorem ver_bad : State.verify { verNode with flash := badEqFlash } 0 false = none := by decide +kernel

/-- A station whose position 0x10 is an OUTPUT. -/
def verImg : StationRead := { table := [{ pos := 0x10, role := 4, stack := 0, cell := 0 }] }

/-- The primary of a station with CELL positions 0x10 and 0x11. -/
def primTab : State :=
  let tab : List StationEntry := [{ pos := 0x10, role := 2, stack := 0, cell := 0 }, { pos := 0x11, role := 2, stack := 0, cell := 1 }]
  { prim with img := { prim.img with image := { table := tab } } }

/-- The same primary, admitted, in station Par-bake. -/
def primPb : State := (primTab.setFlag F.IMG_STAT_STN_PB true).put F.IMG_ADM_STAT_ADM 2

/-- A CELL whose port A is UP in a THRU ring. -/
def ringUpNode : State := ((cell.setLaneState 0 0 6).setLaneState 0 1 6).put F.RNG_STAT_X_STATE 1

/-- Port C at the end of a training that found lane 0 inverted and the lanes swapped. -/
def trainNode : State :=
  let a := ((cell.setLaneState 2 0 5).setLaneState 2 1 5).setPort 2 { rxLocked := true, done := true }
  (a.setLane 2 0 { trn := 8, doneRun := 16, inv := true, far := some (3, 1, 3) }).setLane 2 1
    { trn := 8, doneRun := 16, far := some (3, 0, 3) }

/-- Position p with all ring ports UP in two THRU rings. -/
def onRing (s : State) : State :=
  let up := (List.range 4).foldl (fun s p => (s.setLaneState p 0 6).setLaneState p 1 6) s
  (up.put F.RNG_STAT_X_STATE 1).put F.RNG_STAT_Y_STATE 1

/-- An UP codeword of origin 0x10 with one item, sealed for SCN 0. -/
def upCw : List Byte :=
  codeword { typ := Ty.up, src := 0x10, dst := 0xFF, tag := 0, route := 0, count := 1 } (itemBody 7 0 0x10 [some (5, 0)])

/-- A DN codeword of HEAD 0 to 0x10 with one command for SCN 1. -/
def dnCw : List Byte :=
  codeword { typ := Ty.dn, src := 0, dst := 0x10, tag := 1, route := 0, count := 1 } (itemBody 0xF800 0 0 [some (5, 1)])

/-- An ACK codeword of origin 0x10 with one status item. -/
def ackCw : List Byte :=
  codeword { typ := Ty.ack, src := 0x10, dst := 0xFF, tag := 0, route := 0, count := 1 } (itemBody 7 9 0x10 [some (5, 0)])

/-- An NBR codeword of position 0x11 that is locked, two hops from the root 0. -/
def nbrCw : List Byte :=
  codeword { typ := Ty.nbr, src := 0x11, dst := 0xFF, tag := 0, route := 0 }
    ([0, 1, 0, 2] ++ leBytes 6 0x0001F4000000 ++ List.replicate 6 0xFF ++ leBytes 4 0)

/-- A member of HEAD 0 on the ring. -/
def mbr : State := { onRing (cell.put F.DPX_MBR_STAT_OBEY 0) with dpx := { hasTier := true } }

/-- A DN codeword with an unfold boundary of ring X. -/
def unfCw : List Byte :=
  codeword { typ := Ty.dn, src := 0, dst := 0x10, tag := 1, route := 0, count := 1 } (itemBody Idx.unfoldX 0 0 [some (9, 1)])

/-- The member with the DN codeword waiting from port 2. -/
def dnNode : State := { mbr with rng := { rx := [⟨2, 0, dnCw, dnCw, false, 0⟩] } }

/-- The admitted primary with an UP codeword waiting. -/
def upNode (cw : List Byte) : State :=
  { onRing (primTab.put F.IMG_ADM_STAT_ADM 2) with rng := { rx := [⟨0, 0, cw, cw, false, 0⟩] } }

/-- A BULK codeword of flow (1, 4) to position 0x10: FIRST and LAST, SEQ 0. -/
def bulkCw : List Byte :=
  codeword { typ := Ty.bulk, src := 1, dst := 0x10, tag := 0, route := 0, count := 2 }
    ([4, 3, 0, 0, 0, 0, 3, 0] ++ [7, 8])

/-- The UP codeword with the value of its item changed and the codeword's CRC made good. -/
def upBad : List Byte :=
  codeword { typ := Ty.up, src := 0x10, dst := 0xFF, tag := 0, route := 0, count := 1 }
    (((itemBody 7 0 0x10 [some (5, 0)]).take 4) ++ [9] ++ (itemBody 7 0 0x10 [some (5, 0)]).drop 5)

/-- The primary with position 0x10 admitted next to it on both rings. -/
def downNode : State :=
  let s := (onRing primTab).setMember 0x10 { adm := 2, stage := 8 }
  { s with rng := { nbr := [(0, 0x10), (1, 0x10), (2, 0x10), (3, 0x10)], nbrs := [(0x10, 0)], raw := [(0x10, 0)] } }

/-- An answer on stream 2 from position 1: one word read, 42. -/
def rraCw : List Byte :=
  codeword { typ := Ty.bulk, src := 1, dst := 0x10, tag := 0, route := 0, count := 12 }
    ([2, 3, 0, 0, 0, 0, 0, 0] ++ ([0x81, 1, 0, 0] : List Byte) ++ leBytes 4 0x40000000 ++ leBytes 4 42)

/-- Position 0x10 with a remote read of node 1 under way. -/
def rraNode : State := { mbr with rng := { rra := some ⟨1, false, 1, 0x40000000, 0⟩ } }

/-- Position 0x10 with a message for node 1 on stream 4. -/
def txNode : State := { mbr with rng := { flows := [{ peer := 1, stream := 4, credits := 2, rxCredits := 3, txQueue := [⟨true, true, [7, 8], none⟩] }] } }

/-- A row that no hypothesis meets; the witnesses name rows of the table. -/
def rowDefault : RegRow := (rowOf 0x40000000).getD ⟨0, 0, 0, 0, 0, 0, 0, 0, 0⟩

/-- A CELL in FULL that acquires from its neighbour by port 1. -/
def measNode : State :=
  let a := ((onRing (cell.put F.DPX_MBR_STAT_OBEY 0)).put F.TIM_STAT_STATE 1).put F.TIM_UPSTREAM_PORT 1
  { a with tim := { port := [(1, { t1 := some 0, t2 := 0x640000, t3m := some 0, t4 := some 0x320000, locked := true, root := 0, hops := 2, peer := 0x11 })] } }

/-- A locked CELL whose two upstreams disagree by 300 ns. -/
def crossNode : State :=
  let a := (((onRing (cell.put F.DPX_MBR_STAT_OBEY 0)).put F.TIM_STAT_STATE 2).put F.TIM_UPSTREAM_PORT 1).put F.TIM_CTRL_XCHK 50
  { a with tim := { port := [(2, { t1 := some 0, locked := true, root := 0, hops := 2, theta := some ⟨300, 1⟩ })], xRun := 16 } }

/-- The metering unit runs in DC mode with channels 0 and 1 enabled. -/
def mtrDcNode : State :=
  let a := (cell.setFlag F.MTR_CFG_EN true).setFlag F.MTR_CFG_MODE true
  let b := (a.setFlag (F.MTR_CHn_CFG_EN 0) true).setFlag (F.MTR_CHn_CFG_EN 1) true
  let c := (b.wrN (R.MTR_CHn_GAIN 0) 0x3F800000).wrN (R.MTR_CHn_GAIN 1) 0x3F800000
  { c with mtr := { on := true }, tim := { acc := 125 * 2 ^ 50 } }

/-- The metering unit runs in AC mode in a line cycle of 20 ms. -/
def mtrAcNode : State :=
  { (cell.setFlag F.MTR_CFG_EN true) with mtr := { on := true, count := 5, tc := 20000000 * 2 ^ 40 } }

/-- The same unit with a reference in phase A, 20 ms after the last crossing. -/
def mtrRefNode : State :=
  let a := ((mtrAcNode.setFlag (F.MTR_CHn_CFG_EN 0) true).put (F.MTR_CHn_CFG_FUNC 0) 1).wrN (R.MTR_CHn_GAIN 0) 0x3F800000
  let b := (a.put F.MTR_CFG_VMIN 0).setFlag F.MTR_STAT_LOCKED true
  { b.put F.MTR_STAT_REF_PH 0 with tim := { b.tim with acc := 20000000 * 2 ^ 40 }, mtr := { b.mtr with crossAt := some 0 } }

/-- A line cycle of phase A waits for its update. -/
def mtrUpNode : State :=
  { mtrAcNode with mtr := { cycles := [[⟨0x40F86A0000000000, 0xC0F86A0000000000, 0x4100000000000000⟩, zeroPqs]] } }

/-- An HB of the PRIMARY HEAD 0 with tier 1. -/
def hbCw : List Byte :=
  codeword { typ := Ty.hb, src := 0, dst := 0xFF, tag := 0, route := 0 } (leBytes 1 2 ++ leBytes 1 1 ++ leBytes 2 0 ++ leBytes 4 0)

/-- Chunk 5 of a Glaze of SCN 0 from HEAD 0 to HEAD 1. -/
def glzCw : List Byte :=
  codeword { typ := tyGlaze, src := 0, dst := 1, tag := 0, route := 0, count := 176 } (leBytes 2 5 ++ List.replicate 176 3)

/-- The primary with its supervisory port running and session 3 open, subscribed to every kind. -/
def sessNode : State :=
  let a := (prim.setFlag F.SUP_CTRL_EN true).setFlag (F.SUP_SESSn_STAT_OPEN 3) true
  let b := (a.put (F.SUP_SESSn_STAT_SID 3) 0x103).setFlag F.SUP_STAT_LINK true
  b.setSess 3 { sub := 0x1FE, lastSeq := 5, bucket := 100 * 1562500000 }

/-- A CELL whose safety unit is in service with input 7 enabled. -/
def safNode : State :=
  let a := (cell.setFlag F.SAF_CTRL_EN true).setFlag (F.SAF_SIn_CFG_EN 7) true
  ((a.put (F.SAF_SIn_CFG_FILT 7) 1).put (F.SAF_SIn_CFG_DISC 7) 1).put F.SAF_CTRL_STO 2

/-- An ACTIVE HEAD whose own input 7 demands SF3. -/
def safHeadNode : State :=
  let a := (prim.setFlag F.SAF_CTRL_EN true).setFlag (F.SAF_SIn_CFG_EN 7) true
  let b := (a.put F.SAF_STAT_HSTATE 2).setFlag (F.SAF_SFk_CFG_EN 3) true
  let c := b.put (F.SAF_POSp_MAPn_SF 0 7) 8
  { c with saf := { inp := [(7, { dem := true })] }, img := { c.img with image := { table := [{ pos := 0, role := 1, stack := 0, cell := 0 }] } } }

/-- A SAFE codeword of HEAD 1 with its demand word only, for SCN 0. -/
def safeCw : List Byte :=
  codeword { typ := Ty.safe, src := 1, dst := 0xFF, tag := 0, route := 0, count := 1 } (itemBody 0xFF80 0 1 [some (8, 0)])

/-- A CELL whose record 7 is open with class FC1. -/
def recOpen : State :=
  let a := (cell.wrN (R.FLT_RECr_Ww 7 0) 0x00070A01).wrN (R.FLT_RECr_Ww 7 1) 0x501
  { a.put F.FLT_NEXT_NEXT 8 with flt := { openRec := some 7, causes := [⟨some 7, 0x0A01, 0, 0, 1, false, true, false, 0⟩] } }

/-- A CELL whose record 7 holds the cause of a broken pair. -/
def recBroken : State :=
  let a := (cell.wrN (R.FLT_RECr_Ww 7 0) 0x00070A02).wrN (R.FLT_RECr_Ww 7 1) 0x1202
  { a with flt := { causes := [⟨some 7, 0x0A02, 2, 3, 2, false, false, false, 1⟩], pairs := [(0x0A02, 3, true, 9)] } }

/-- A CELL with an ended and ACTIVE FC2 record 7 that holds leg 1 FORCED, reported from FC3 on. -/
def recEnded : State :=
  let a := ((cell.wrN (R.FLT_RECr_Ww 7 0) 0x00070801).wrN (R.FLT_RECr_Ww 7 1) 0x602).put F.FLT_CFG_REP_CLS 3
  { a with flt := { causes := [⟨some 7, 0x0801, 0, 0, 2, false, true, false, 0⟩], holds := [⟨some 7, 2, 2, false, 0⟩] } }

/-- A CELL with FLTI in fault. -/
def fltiOn : State :=
  let a := ((cell.setFlag F.FLT_FLTI_EN true).put F.FLT_STAT_FLTI 1).wrN (R.FLT_RECr_Ww 7 1) 0x201
  { a with flt := { causes := [⟨some 7, 0x0201, 0, 0, 1, false, false, false, 0⟩] } }

/-- A CELL whose sixteen ledger entries are all STAGED. -/
def ledFull : State := (List.range 16).foldl (fun s e => s.wrN (R.FLT_LEDe_Ww e 2) 2) cell

/-- A CELL whose entry 3 of two items has one left to apply. -/
def ledApply : State :=
  let a := (cell.wrN (R.FLT_LEDe_Ww 3 0) 9).wrN (R.FLT_LEDe_Ww 3 2) 0x20103
  { a with flt := { applying := [⟨3, 1⟩], items := [(3, [(0, 0), (0x20300000, 5)])] } }

/-- A CELL whose entry 3 of three items begins with a write of a read-only register. -/
def ledBad : State :=
  let a := ((cell.wrN (R.FLT_LEDe_Ww 3 0) 9).wrN (R.FLT_LEDe_Ww 3 2) 0x30003).wrN (R.FLT_LEDe_Ww 3 13) 0xFFFF
  { a with flt := { applying := [⟨3, 0⟩], items := [(3, [(0x400E0000, 5), (0, 0), (0, 0)])] } }

/-- The same entry with a write that is not aligned. -/
def ledErr : State := { ledBad with flt := { ledBad.flt with items := [(3, [(0x20300002, 5), (0, 0), (0, 0)])] } }

/-- These nodes once the fabric cycle of the item has come. -/
def ledAt (s : State) : State := { s with flt := { s.flt with applyAt := s.sys.up + 4 } }
def ledApply0 : State := ledAt ledApply
def ledBad0 : State := ledAt ledBad
def ledErr0 : State := ledAt ledErr

/-- A CELL whose entry 2 holds the STAGED batch 9. -/
def ledStaged : State := (cell.wrN (R.FLT_LEDe_Ww 2 0) 9).wrN (R.FLT_LEDe_Ww 2 2) 0x10002

/-- A datagram of the host: header with its CRC, body, and the MAC of a session whose keys are all zero. -/
def dgram (typ flags seq node sid : Nat) (body : List Byte) : Datagram :=
  let h := leBytes 1 1 ++ leBytes 1 typ ++ leBytes 1 flags ++ leBytes 1 0 ++ leBytes 4 seq ++ leBytes 1 node ++ leBytes 1 0 ++
    leBytes 2 body.length ++ leBytes 2 sid
  let head := h ++ leBytes 2 (crc16 h)
  { src := [], head := head, body := body, mac := if sid = 0 then [] else macOf [] head body }

/-- The primary with an OPERATOR's session 3 open and position 0x10 admitted. -/
def opNode : State :=
  { (sessNode.put (F.SUP_SESSn_STAT_ROLE 3) 2).setMember 0x10 { adm := 2 } with img := primTab.img }

/-- A request of session 3 is in execution. -/
def opBusy : State := { opNode with sup := { opNode.sup with active := some { req := ⟨3, 1, 5, 0x10, false, []⟩ } } }

/-- A READ of position 0x10 waits in the queue. -/
def opQueue : State :=
  { opNode with sup := { opNode.sup with queue := [⟨3, 1, 6, 0x10, false, leBytes 4 0x40000000 ++ leBytes 2 3 ++ [0, 0]⟩] } }

/-- What SYS_ID reads as. -/
def sysId : Nat := opNode.num 0x40000000

/-- BATCH 9 for SCN 100 with one item for position 0x10, in its two forms, and its cancel. -/
def commonDg : Datagram :=
  dgram 3 0 6 0 0x103 (leBytes 4 9 ++ leBytes 4 100 ++ [1, 0, 1, 0] ++ leBytes 32 0x10000 ++ leBytes 4 0x20300000 ++ leBytes 4 7)
def eachDg : Datagram :=
  dgram 3 0 6 0 0x103 (leBytes 4 9 ++ leBytes 4 100 ++ [2, 0, 1, 0] ++ [0x10, 0, 1, 0] ++ leBytes 4 0x20300000 ++ leBytes 4 7)
def cancelDg : Datagram := dgram 3 0 6 0 0x103 (leBytes 4 9 ++ leBytes 4 0 ++ [3, 0, 0, 0])

/-- The primary whose entry 5 distributes batch 9 to position 0x10. -/
def opBatch : State :=
  ((opNode.wrN (R.FLT_LEDe_Ww 5 0) 9).wrN (R.FLT_LEDe_Ww 5 2) 0x10102).wrN (R.FLT_LEDe_Ww 5 3) 0x10000

/-- Session 3 has an energy report of position 0x10 queued. -/
def repNode : State := opNode.setSess 3 { opNode.sess 3 with queue := [⟨7, 3, 1, [3, 1, 0x10, 0], 0, 0⟩] }

/-- Session 3 is half-open with SID 0x103. -/
def halfNode : State := (sessNode.setFlag (F.SUP_SESSn_STAT_OPEN 3) false).setFlag (F.SUP_SESSn_STAT_HALF 3) true

/-- Channel 4 from the host to the management processor, channel 5 back, at the primary. -/
def mbxHost : State :=
  let a := (opNode.setFlag (F.MBX_CHn_BIND_EN 4) true).put (F.MBX_CHn_BIND_SND 4) 1
  (a.setFlag (F.MBX_CHn_BIND_EN 5) true).put (F.MBX_CHn_BIND_RCV 5) 1
def mbxHostFull : State :=
  ((mbxHost.setFlag (F.MBX_CHn_STAT_STATE 5) true).put (F.MBX_CHn_STAT_LEN 5) 1).wrN (R.MBX_CHn_Di 5 0) 77
def sendDg : Datagram := dgram 6 0 6 0 0x103 [0, 4, 1, 0, 5, 0, 0, 0]
def recvDg : Datagram := dgram 6 0 6 0 0x103 [1, 5, 0, 0]
def statDg : Datagram := dgram 6 0 6 0 0x103 [2, 4, 0, 0]

/-- Channel 4 from the management processor to channel 3 of position 0x11, and channel 5 back. -/
def mbxTx : State :=
  let a := (cell.setFlag (F.MBX_CHn_BIND_EN 4) true).put (F.MBX_CHn_BIND_RCV 4) 2
  (a.put (F.MBX_CHn_BIND_PEER 4) 0x11).put (F.MBX_CHn_BIND_PCH 4) 3
def mbxRx : State :=
  let a := (cell.setFlag (F.MBX_CHn_BIND_EN 5) true).put (F.MBX_CHn_BIND_SND 5) 2
  (a.put (F.MBX_CHn_BIND_PEER 5) 0x11).put (F.MBX_CHn_BIND_PCH 5) 3

/-- The same with a report of record 0 of this node. -/
def faultRep : State := repNode.setSess 3 { repNode.sess 3 with queue := [⟨7, 1, 0, [1, 0, 0, 0] ++ List.replicate 20 0, 0, 0⟩] }

/-- Session 3 waits for the acknowledgement of report 9, sent k times. -/
def waitRep (k : Nat) : State := repNode.setSess 3 { repNode.sess 3 with wait := [⟨9, 3, 1, [], k, 0⟩] }

/-- Session 3 waits for a message of channel 4 of a node. -/
def recvNode (p : Nat) : State := opNode.setSess 3 { opNode.sess 3 with recv := some ⟨3, 6, 6, p, false, [1, 4, 100, 0]⟩ }

/-- A relayed ATTEST is in execution, its cycles over. -/
def attWait : State :=
  { opNode with sup := { opNode.sup with active := some { req := ⟨3, 8, 6, 0x10, false, [0, 0, 0, 0]⟩, scn := 0xFFFFFFF0 } } }

/-- A PTP event message on Ethernet, and one of this port in a TIME request. -/
def ptpL2 : List Byte := List.replicate 12 7 ++ [0x88, 0xF7, 0, 2]
def ptpBodyOf (mac : List Byte) : List Byte := [2, 0, 0, 0, 16, 0, 9, 9, 7, 7, 7, 7, 7, 7] ++ mac ++ [0x88, 0xF7, 0, 2]
def ptpBody : List Byte := ptpBodyOf (beBytes 6 Config.mac.toNat)
def ptpDg : Datagram := dgram 5 0 6 0 0x103 ptpBody

theorem be6 (v : Nat) (h : v < 2 ^ 48) : beNat (beBytes 6 v) = v := by
  have e : beBytes 6 v = [BitVec.ofNat 8 (v >>> 40), BitVec.ofNat 8 (v >>> 32), BitVec.ofNat 8 (v >>> 24),
    BitVec.ofNat 8 (v >>> 16), BitVec.ofNat 8 (v >>> 8), BitVec.ofNat 8 (v >>> 0)] := rfl
  rw [e]
  simp only [beNat, List.foldl_cons, List.foldl_nil, BitVec.toNat_ofNat, Nat.shiftRight_eq_div_pow]
  omega

theorem ptpBody_mac (l : List Byte) (h : l.length = 6) : beField ((ptpBodyOf l).drop 8) 6 6 = beNat l := by
  match l, h with
  | [_, _, _, _, _, _], _ => rfl

theorem ptpTx_ok : opNode.ptpTx (ptpBody.drop 8) = some true := by
  have h : beField (ptpBody.drop 8) 6 6 = Config.mac.toNat :=
    (ptpBody_mac _ (by simp [beBytes])).trans (be6 _ Config.mac.isLt)
  have h2 : (beField (ptpBody.drop 8) 6 6 != Config.mac.toNat) = false := by rw [h]; simp
  unfold State.ptpTx
  rw [h2]
  decide +kernel

theorem dgram_mac (typ flags seq node sid : Nat) (b : List Byte) (h : sid ≠ 0) :
    (dgram typ flags seq node sid b).mac = macOf [] (dgram typ flags seq node sid b).head b := by
  simp only [dgram, if_neg h]

theorem sender_of (s : State) (d : Datagram) (n : Nat) (hh : dgHeadOk d = true) (hs : s.sessOf d = some n)
    (hm : d.mac = macOf ((s.sess n).key 0) d.head d.body)
    (hf : (bit (dgFlags d) 1 == s.flag (F.SUP_SESSn_STAT_ENC n)) = true) : s.sender d = some n := by
  unfold State.sender
  rw [hh, hs]
  simp only [↓reduceIte]
  rw [← hm, hf]
  simp

theorem plain_of (s : State) (d : Datagram) (n : Nat) (h : s.sender d = some n)
    (he : s.flag (F.SUP_SESSn_STAT_ENC n) = false) : s.plain d = d := by
  unfold State.plain
  rw [h]
  simp only [he, Bool.false_eq_true, ↓reduceIte]

theorem ptp_sender : opNode.sender ptpDg = some 3 := by
  have hl : ptpDg.mac.length = 16 := by simp [ptpDg, dgram, macOf, hmacSm3, beBytes]
  have hh : dgHeadOk ptpDg = true := by unfold dgHeadOk; rw [hl]; decide +kernel
  have hk : (opNode.sess 3).key 0 = [] := by decide +kernel
  refine sender_of _ _ _ hh (by decide +kernel) ?_ (by decide +kernel)
  rw [hk]
  exact dgram_mac _ _ _ _ _ _ (by decide)

theorem ptp_plain : opNode.plain ptpDg = ptpDg := plain_of _ _ _ ptp_sender (by decide +kernel)

theorem ptp_fresh : Fresh opNode ((3 : Fin 4) : Nat) ptpDg 5 ∧ SupIdle opNode := by
  refine ⟨⟨by decide +kernel, by decide +kernel, by decide +kernel, ptp_sender, by decide +kernel, by decide +kernel, by decide +kernel, by decide +kernel, ?_, ?_⟩, by decide +kernel⟩
  · unfold State.reqOf; rw [ptp_plain]; decide +kernel
  · unfold State.reqOf; rw [ptp_plain]; decide +kernel

/-! ### A state and operands for every clause of every statement -/

theorem met_ResetClearsNode_5 : ∃ (s : State), (s.sys.inReset = false) ∧ (s.sys.softPend = true) :=
  ⟨{ cell with sys := { cell.sys with softPend := true } }, by decide +kernel⟩
theorem met_ResetWriteAndRelease_1 : ∃ (s : State) (m : Master), (s.sys.inReset = false) ∧ (s.mastersRun m = true) :=
  ⟨cell, .ha, by decide +kernel⟩
theorem met_ResetWriteAndRelease_2 : ∃ (s : State), (s.sys.inReset = true) :=
  ⟨State.reset, by decide +kernel⟩
theorem met_ResetWriteAndRelease_4 : ∃ (s : State), (s.sys.inReset = true) ∧ (s.sys.powerGood = true) ∧ (s.clk.root = .locked) :=
  ⟨{ run with sys := { powerGood := true } }, by decide +kernel⟩
theorem met_VaultCountsAndEvents_5 : ∃ (s : State), (s.vault.missed = 1) :=
  ⟨{ cell with vault := { missed := 1 } }, by decide +kernel⟩
theorem met_VaultCountsAndEvents_6 : ∃ (s : State), (s.sys.inReset = true) :=
  ⟨State.reset, by decide +kernel⟩
theorem met_RootPllTransitions_1 : ∃ (s : State), (s.clk.root = .search) ∧ (s.clk.refin = true) :=
  ⟨{ run with clk := { root := .search, refin := true } }, by decide +kernel⟩
theorem met_RootPllTransitions_2 : ∃ (s : State), (s.sys.inReset = false) ∧ (s.clk.root = .locked ∨ s.clk.root = .reacquire) ∧ (s.clk.refWait = none) :=
  ⟨cell, by decide +kernel⟩
theorem met_RootPllTransitions_3 : ∃ (s : State) (mppm : Int), (s.clk.root = .holdover) ∧ (mppm.natAbs ≤ 100000) :=
  ⟨{ cell with clk := { root := .holdover } }, -100000, by decide +kernel⟩
theorem met_RootPllTransitions_4 : ∃ (s : State) (mppm : Int), (s.clk.root = .holdover) ∧ (100000 < mppm.natAbs) :=
  ⟨{ cell with clk := { root := .holdover } }, 100001, by decide +kernel⟩
theorem met_RootPllTransitions_5 : ∃ (s : State), (s.clk.root = .reacquire) ∧ (s.clk.fErr.abs.blt (Frac.mk' 5 100) = true ∨ s.get F.CLK_SLEW_SLOPE ≠ 0) :=
  ⟨{ cell with clk := { root := .reacquire } }, by decide +kernel⟩
theorem met_TimebaseLossHaltsLegs_1 : ∃ (s : State), (s.sys.inReset = false) ∧ (s.clk.root = .locked ∨ s.clk.root = .holdover ∨ s.clk.root = .reacquire ∧ s.clk.absorbed = true) :=
  ⟨cell, by decide +kernel⟩
theorem met_TimebaseLossHaltsLegs_2 : ∃ (s : State), (s.sys.inReset = false) :=
  ⟨cell, by decide +kernel⟩
theorem met_TimebaseLossHaltsLegs_3 : ∃ (s : State) (n : Nat), (s.sys.inReset = false) ∧ (s.clk.root = .holdover) ∧ (s.clk.holdAt = some n) ∧ (s.inService = true) :=
  ⟨{ cell with clk := { root := .holdover, holdAt := some 5 } }, 5, by decide +kernel⟩
theorem met_TimebaseLossHaltsLegs_4 : ∃ (s : State) (n : Nat), (s.sys.inReset = false) ∧ (s.clk.root = .holdover) ∧ (s.clk.holdAt = some n) ∧ (s.clk.refWait = none) ∧ (s.inService = false) :=
  ⟨{ node 2 0x10 6 with clk := { root := .holdover, holdAt := some 0 } }, 0, by decide +kernel⟩
theorem met_TimebaseLossHaltsLegs_5 : ∃ (s : State) (n : Nat), (s.sys.inReset = false) ∧ (s.clk.refWait = some n) :=
  ⟨{ node 1 0 5 with clk := { root := .holdover, refWait := some 0 } }, 0, by decide +kernel⟩
theorem met_CarrierStartTransfers_1 : ∃ (s : State) (ch : Fin 8) (tk : Nat), (s.sys.inReset = false) ∧ (s.chanRuns ch = true) ∧ (s.nextE0 ch = some tk) ∧ ((s.atE0 ch).shadowsHeld ch = false) ∧ (perMin ≤ ((s.atE0 ch).shadow ch (R.PWM_LCHn_PER ch)).toNat) :=
  ⟨chanOn, 0, (chanOn.nextE0 0).getD 0, by decide +kernel⟩
theorem met_CarrierStartTransfers_2 : ∃ (s : State) (ch : Fin 6), (s.sys.inReset = false) ∧ (s.chanRuns ch = true) ∧ ((s.nextE0 ch).isSome = true) ∧ ((s.atE0 ch).shadowsHeld ch = false) ∧ (perMin ≤ ((s.atE0 ch).shadow ch (R.PWM_LCHn_PER ch)).toNat) ∧ (s.flag (F.PWM_LCHn_CFG_DSRC ch) = false) ∧ (s.flag (F.PWM_LCHn_CFG_PSRC ch) = false) ∧ (s.flag (F.GD_LEGn_STAT_L2_LATCH ch) = false) ∧ ((s.atE0 ch).legState ch = LegState.armed) ∧ (s.bypassLeg ch = false) ∧ ((s.leg ch).pend = none) :=
  ⟨(chanOn.put (F.PWM_LCHn_STAT_LEG_STATE 0) 2), 0, by decide +kernel⟩
theorem met_CarrierStartTransfers_3 : ∃ (s : State) (ch : Fin 8), (s.sys.inReset = false) ∧ (s.chanRuns ch = true) ∧ (s.flag (F.PWM_LCHn_CTRL_HOLD ch) = true) ∧ (s.num (R.PWM_LCHn_PER_ACT ch) ≠ 0) :=
  ⟨((chanOn.setFlag (F.PWM_LCHn_CTRL_HOLD 0) true).wrN (R.PWM_LCHn_PER_ACT 0) 30000), 0, by decide +kernel⟩
theorem met_CarrierStartTransfers_4 : ∃ (s : State) (ch : Fin 8), (s.sys.inReset = false) ∧ (s.chanRuns ch = true) ∧ ((s.atE0 ch).shadowsHeld ch = false) ∧ (((s.atE0 ch).shadow ch (R.PWM_LCHn_PER ch)).toNat < perMin) :=
  ⟨(chanOn.wrN (R.PWM_LCHn_PER 0) 24999), 0, by decide +kernel⟩
theorem met_CarrierStartTransfers_5 : ∃ (s : State) (ch : Fin 8), (s.chanRuns ch = false) :=
  ⟨cell, 7, by decide +kernel⟩
theorem met_LatticeEventsWithinPeriod_1 : ∃ (s : State) (ch : Fin 8), (s.sys.inReset = false) ∧ (s.chanRuns ch = true) ∧ (s.flag (F.PWM_LCHn_CFG_RLD_MID ch) = true) ∧ (s.eventAhead ch 1 ((s.chan ch).len0 / 2) = true) ∧ ((s.atEvent ch ((s.chan ch).len0 / 2)).shadowsHeld ch = false) :=
  ⟨((chanOn.setFlag (F.PWM_LCHn_CFG_RLD_MID 0) true).wrN (R.PWM_LCHn_PER_ACT 0) 30000).setChan 0 { e0 := chanOn.lnow, len := 30000, len0 := 30000 }, 0, by decide +kernel⟩
theorem met_LatticeEventsWithinPeriod_2 : ∃ (s : State) (ch : Fin 8), (s.sys.inReset = false) ∧ (s.chanRuns ch = true) ∧ (s.flag (F.PWM_LCHn_CFG_RLD_MID ch) = false) ∧ (s.eventAhead ch 1 ((s.chan ch).len0 / 2) = true) :=
  ⟨(chanOn.wrN (R.PWM_LCHn_PER_ACT 7) 30000).setFlag (F.PWM_LCHn_CFG_EN 7) true |>.setChan 7 { len := 30000, len0 := 30000 }, 7, by decide +kernel⟩
theorem met_LatticeEventsWithinPeriod_3 : ∃ (s : State) (ch : Fin 8), (s.sys.inReset = false) ∧ (s.chanRuns ch = true) ∧ (s.eventAhead ch 2 (s.chan ch).cmp0 = true) :=
  ⟨(chanOn.wrN (R.PWM_LCHn_PER_ACT 0) 30000).setChan 0 { len := 30000, len0 := 30000, duty := 9 }, 0, by decide +kernel⟩
theorem met_LatticeEventsWithinPeriod_4 : ∃ (s : State) (ch : Fin 8), (s.sys.inReset = false) ∧ (s.chanRuns ch = true) ∧ (s.eventAhead ch 3 (s.chan ch).cmp1 = true) ∧ ((s.chan ch).duty < (s.chan ch).len0) :=
  ⟨(chanOn.wrN (R.PWM_LCHn_PER_ACT 0) 30000).setChan 0 { len := 30000, len0 := 30000, duty := 9, cmp1 := 9, h := true }, 0, by decide +kernel⟩
theorem met_LatticeEventsWithinPeriod_5 : ∃ (s : State) (ch : Fin 6), (s.sys.inReset = false) ∧ (s.chanRuns ch = true) ∧ (s.eventAhead ch 2 (s.chan ch).cmp0 = true) ∧ (s.legState ch = LegState.run) ∧ (s.bypassLeg ch = false) ∧ (s.get (F.PWM_LCHn_CFG_OUTM ch) = 1) ∧ (s.flag (F.GD_LEGn_STAT_L2_LATCH ch) = false) ∧ ((s.chan ch).h = false ∧ (s.chan ch).duty ≠ 0 ∧ bit (s.chan ch).fired 3 = false) ∧ ((s.atEvent ch (s.chan ch).cmp0).legState ch = LegState.run) :=
  ⟨(chanRun 0).setChan 0 { duty := 1000, len := 30000, len0 := 30000 }, 0, by decide +kernel⟩
theorem met_LatticeEventsWithinPeriod_6 : ∃ (s : State) (leg : Fin 6) (sw : Sw), (s.sys.inReset = false) ∧ (s.legState leg = LegState.run) ∧ ((s.leg leg).pend = some sw) :=
  ⟨((chanRun 0).setLeg 0 { pend := some .high }), 0, .high, by decide +kernel⟩
theorem met_LatticeWrites_1 : ∃ (s : State), (s.sys.inReset = false) :=
  ⟨chanOn, by decide +kernel⟩
theorem met_LatticeWrites_2 : ∃ (s : State), (s.sys.inReset = false) :=
  ⟨chanOn, by decide +kernel⟩
theorem met_LatticeWrites_3 : ∃ (s : State), (s.sys.inReset = false) :=
  ⟨chanOn, by decide +kernel⟩
theorem met_LatticeWrites_4 : ∃ (s : State), (s.sys.inReset = false) ∧ (s.sys.dbgsel = true ∧ s.flag F.PWM_STAT_HALT = false) :=
  ⟨chanRun 0, by decide +kernel⟩
theorem met_LatticeWrites_5 : ∃ (s : State), (s.sys.inReset = false) :=
  ⟨(chanRun 0).setFlag F.PWM_STAT_HALT true, by decide +kernel⟩
theorem met_LatticeWrites_6 : ∃ (s : State) (m : Master), (s.sys.inReset = false) ∧ (s.mastersRun m = true) ∧ (s.asMp m = true) ∧ (s.flag F.PWM_STAT_HALT = false) ∧ (s.clk.root = .locked ∨ s.clk.root = .holdover ∨ s.clk.root = .reacquire) :=
  ⟨{ cell with pwm := { cell.pwm with halted := true } }, .mp, by decide +kernel⟩
theorem met_LatticeWrites_7 : ∃ (s : State) (m : Master), (s.sys.inReset = false) ∧ (s.mastersRun m = true) ∧ (s.asMp m = false ∨ s.flag F.PWM_STAT_HALT = true ∨ s.clk.root = .off ∨ s.clk.root = .search) :=
  ⟨cell, .ha, by decide +kernel⟩
theorem met_TripsAndGroups_1 : ∃ (s : State) (k : Fin 8), (s.sys.inReset = false) ∧ (s.flag (F.PWM_TRPk_CFG_EN k) = true) ∧ (bit (s.get F.PWM_TRP_LVL_LVL) k = false) ∧ (s.isBlanked k = false) :=
  ⟨tripCfg, 7, by decide +kernel⟩
theorem met_TripsAndGroups_2 : ∃ (s : State) (k : Fin 8), (s.sys.inReset = false) ∧ (s.flag (F.PWM_TRPk_CFG_EN k) = true) ∧ (bit (s.get F.PWM_TRP_LVL_LVL) k = false) ∧ (s.isBlanked k = true) :=
  ⟨(tripCfg.setFlag (F.PWM_TRPk_CFG_BLK_EN 7) true).setChan 0 { h := true }, 7, by decide +kernel⟩
theorem met_TripsAndGroups_3 : ∃ (s : State) (k : Fin 8), (s.sys.inReset = false) ∧ (bit (s.get F.PWM_TRP_LVL_LVL) k = true) :=
  ⟨tripCfg.put F.PWM_TRP_LVL_LVL 0x80, 7, by decide +kernel⟩
theorem met_TripsAndGroups_4 : ∃ (s : State) (ch : Fin 8), (s.sys.inReset = false) ∧ ((s.chan ch).h = false) :=
  ⟨{ (tripCfg.setFlag (F.PWM_TRPk_CFG_BLK_EN 7) true) with pwm := { held := false, blanked := 0x80 } }, 0, by decide +kernel⟩
theorem met_TripsAndGroups_5 : ∃ (s : State), (s.sys.inReset = false) :=
  ⟨tripCfg.put F.PWM_GRP_STAT_TRIPPED 0xFF, by decide +kernel⟩
theorem met_SwitchFaultsTurnOff_1 : ∃ (s : State) (u : State) (leg : Fin 6) (sw : Sw), (s.sys.inReset = false ∧ s.raises = []) ∧ (u = s.runAfter (s.gate (chanNo leg sw)).cmdAt (s.get (blankFld leg sw) * 20)) ∧ (s.gdOn leg sw = true) ∧ (s.flag (scEnFld leg sw) = true) ∧ ((s.gate (chanNo leg sw)).on = true) ∧ (s.gdState leg sw = GdState.normal) ∧ (s.bypassLeg leg = false) ∧ (s.gdState leg (otherSw sw) ≠ GdState.softoff) :=
  ⟨gdLeg, gdLeg.runAfter (gdLeg.gate (chanNo 1 .high)).cmdAt (gdLeg.get (blankFld 1 .high) * 20), 1, .high, by decide +kernel⟩
theorem met_SwitchFaultsTurnOff_2 : ∃ (s : State) (u : State) (leg : Fin 6) (sw : Sw), (s.sys.inReset = false ∧ s.raises = []) ∧ (u = s.runAfter (s.gate (chanNo leg sw)).cmdAt (s.get (blankFld leg sw) * 20)) ∧ (s.gdOn leg sw = true) ∧ (s.flag (scEnFld leg sw) = true) ∧ ((s.gate (chanNo leg sw)).on = true) ∧ (s.gdState leg sw = GdState.normal) ∧ (s.bypassLeg leg = true) :=
  ⟨gdByp, gdByp.runAfter (gdByp.gate (chanNo 4 .low)).cmdAt (gdByp.get (blankFld 4 .low) * 20), 4, .low, by decide +kernel⟩
theorem met_SwitchFaultsTurnOff_3 : ∃ (s : State) (u : State) (leg : Fin 6) (sw : Sw), (s.sys.inReset = false ∧ s.raises = []) ∧ (u = s.runAfter (s.gate (chanNo leg sw)).since (s.get (softFld leg sw) * 250)) ∧ (s.gdState leg sw = GdState.softoff) :=
  ⟨gdLeg.put (stateFld 5 .high) 2, (gdLeg.put (stateFld 5 .high) 2).runAfter 0 (gdLeg.get (softFld 5 .high) * 250), 5, .high, by decide +kernel⟩
theorem met_SwitchFaultsTurnOff_4 : ∃ (s : State) (u : State) (leg : Fin 6) (sw : Sw), (s.sys.inReset = false ∧ s.raises = []) ∧ (u = s.runAfter (s.gate (chanNo leg sw)).since (s.get (F.GD_LEGn_CFG_WAIT leg) * 10000)) ∧ (s.gdState leg sw = GdState.wait) :=
  ⟨gdLeg.put (stateFld 0 .low) 3, (gdLeg.put (stateFld 0 .low) 3).runAfter 0 (gdLeg.get (F.GD_LEGn_CFG_WAIT 0) * 10000), 0, .low, by decide +kernel⟩
theorem met_SupplyFaults_1 : ∃ (s : State) (leg : Fin 6), (s.sys.inReset = false ∧ s.raises = []) ∧ (s.gdOn leg .high = true) ∧ (s.gdState leg .high = GdState.normal) ∧ ((s.gate (chanNo leg .high)).uvBs = false) ∧ (s.bypassLeg leg = false) :=
  ⟨gdLeg, 1, by decide +kernel⟩
theorem met_SupplyFaults_2 : ∃ (s : State) (u : State) (leg : Fin 6) (k : Nat), (s.sys.inReset = false ∧ s.raises = []) ∧ ((s.gateLeg leg).runAt = some k ∧ u = s.runUp (k + msTicks 10)) ∧ (s.gdOn leg .high = true) ∧ (s.gdState leg .high = GdState.charge) ∧ ((s.gate (chanNo leg .high)).uvBs = false) ∧ (s.bypassLeg leg = false) :=
  ⟨gdCharge 1, (gdCharge 1).runUp (7 + msTicks 10), 1, 7, by decide +kernel⟩
theorem met_SupplyFaults_3 : ∃ (s : State) (u : State) (leg : Fin 6) (k : Nat), (s.sys.inReset = false ∧ s.raises = []) ∧ ((s.gateLeg leg).runAt = some k ∧ u = s.runUp (k + msTicks 10)) ∧ (s.gdOn leg .high = true) ∧ (s.gdState leg .high = GdState.charge) ∧ ((s.gate (chanNo leg .high)).uvBs = false) ∧ (s.bypassLeg leg = true) :=
  ⟨gdCharge 4, (gdCharge 4).runUp (7 + msTicks 10), 4, 7, by decide +kernel⟩
theorem met_SupplyFaults_4 : ∃ (s : State) (leg : Fin 6), (s.sys.inReset = false) ∧ (s.gdOn leg .high = true) :=
  ⟨gdLeg.put (stateFld 1 .high) 5, 1, by decide +kernel⟩
theorem met_SupplyFaults_5 : ∃ (s : State), (s.sys.inReset = false ∧ s.raises = []) ∧ (∃ n : Fin 6, s.gdOn n .low = true) ∧ (s.flag F.GD_STAT_VDRV_UV = false) :=
  ⟨gdLeg, by decide +kernel⟩
theorem met_SupplyFaults_6 : ∃ (s : State), (s.sys.inReset = false ∧ s.raises = []) ∧ (∃ n : Fin 6, s.gdOn n .low = true) ∧ (s.flag F.GD_STAT_VNEG_UV = false) :=
  ⟨gdLeg, by decide +kernel⟩
theorem met_SupplyFaults_7 : ∃ (s : State), (s.sys.inReset = false) :=
  ⟨gdLeg, by decide +kernel⟩
theorem met_LegFaultsLatchOff_1 : ∃ (s : State) (leg : Fin 6), (s.sys.inReset = false) ∧ (s.legChecked leg = true) :=
  ⟨gdLeg, 1, by decide +kernel⟩
theorem met_LegFaultsLatchOff_2 : ∃ (s : State) (leg : Fin 6), (s.sys.inReset = false) ∧ (s.legChecked leg = true) ∧ (s.get (F.GD_LEGn_CFG_DT_CHK leg) ≠ 0) :=
  ⟨gdLeg.put (F.GD_LEGn_CFG_DT_CHK 1) 50, 1, by decide +kernel⟩
theorem met_LegFaultsLatchOff_3 : ∃ (s : State) (leg : Fin 6), (s.sys.inReset = false) ∧ (s.legChecked leg = true) ∧ (s.gdState leg .low = GdState.normal) ∧ (s.gdState leg .high = GdState.normal) ∧ (s.flag (scEnFld leg .low) = true ∧ s.flag (scEnFld leg .high) = true) :=
  ⟨gdLeg, 1, by decide +kernel⟩
theorem met_GateSelfTestsAndFigures_1 : ∃ (s : State) (u : State) (leg : Fin 6) (sw : Sw) (trip : Option (BitVec 16)) (mv : BitVec 16) (pass : Bool), (s.sys.inReset = false) ∧ (s.gdOn leg sw = true) ∧ (s.flag F.GD_CTRL_INJ_EN = true) ∧ (s.flag (scEnFld leg sw) = true) ∧ (s.swCmd leg sw = false) ∧ (u = (s.when (!(s.gate (chanNo leg sw)).inj) (·.runUp (s.gate (chanNo leg sw)).injAt)).runAfter (s.gate (chanNo leg sw)).cmdAt 1000) ∧ (pass = (trip.any (fun k => k.toNat ≤ 200) && decide (200 ≤ mv.toNat) && decide (mv.toNat ≤ 2100))) :=
  ⟨gdTest, (gdTest.runUp 0).runAfter 0 1000, 1, .low, some 201, 2100, false, by decide +kernel⟩
theorem met_GateSelfTestsAndFigures_2 : ∃ (s : State), (s.sys.inReset = false) ∧ (s.flag F.GD_CTRL_INJ_EN = true) :=
  ⟨gdLeg.setFlag F.GD_CTRL_INJ_EN true, by decide +kernel⟩
theorem met_GateSelfTestsAndFigures_3 : ∃ (s : State) (u : State), (s.sys.inReset = false) ∧ (u = s.runUp s.gd.pubAt) :=
  ⟨gdLeg, gdLeg.runUp 0, by decide +kernel⟩
theorem met_GateSelfTestsAndFigures_4 : ∃ (s : State), (s.sys.inReset = false) :=
  ⟨gdLeg, by decide +kernel⟩
theorem met_ConversionsAndResults_1 : ∃ (s : State) (u : State) (m : Fin 16) (tk : Nat) (scn : Nat) (rest : List (Nat × Nat)), (s.sys.inReset = false) ∧ (s.adcDue m = (tk, scn) :: rest) ∧ (u = (s.setAdcDue m rest).runToTick tk) ∧ (u.flag (F.ADC_TRGm_CFG_EN m) = true) ∧ (u.flag (convEnFld (convOf m)) = true) ∧ (u.adcPend m = none) :=
  ⟨adcDueNode 15, ((adcDueNode 15).setAdcDue 15 []).runToTick 9, 15, 9, 1, [], by decide +kernel⟩
theorem met_ConversionsAndResults_2 : ∃ (s : State) (u : State) (m : Fin 16) (tk : Nat) (scn : Nat) (rest : List (Nat × Nat)), (s.sys.inReset = false) ∧ (s.adcDue m = (tk, scn) :: rest) ∧ (u = (s.setAdcDue m rest).runToTick tk) ∧ (u.flag (F.ADC_TRGm_CFG_EN m) = true) ∧ (u.flag (convEnFld (convOf m)) = true) ∧ ((u.adcPend m).isSome = true) :=
  ⟨(adcDueNode 0).setAdcPend 0 (some ⟨3, 1, 8, 8⟩), (((adcDueNode 0).setAdcPend 0 (some ⟨3, 1, 8, 8⟩)).setAdcDue 0 []).runToTick 9, 0, 9, 1, [], by decide +kernel⟩
theorem met_ConversionsAndResults_3 : ∃ (s : State) (m : Fin 16) (p : AdcPend) (hold : Nat), (s.sys.inReset = false) ∧ (s.adcPend m = some p) ∧ (s.adcFirst (convOf m) = some m.val) ∧ (s.adcFree (convOf m) = true) ∧ (s.flag (convEnFld (convOf m)) = true) ∧ (hold = s.holdTick (convOf m) p.trig p.hold) :=
  ⟨adcOn.setAdcPend 8 (some ⟨3, 1, 8, 8⟩), 8, ⟨3, 1, 8, 8⟩, adcOn.holdTick 1 8 8, by decide +kernel⟩
theorem met_ConversionsAndResults_4 : ∃ (s : State) (u : State) (a : Fin 2) (v : AdcConv) (m : Fin 16), (s.sys.inReset = false) ∧ (s.adcConv a = some v) ∧ (u = s.runToTick v.done) ∧ (v.slot = some m.val) :=
  ⟨adcConvNode 0 (some 7) 3, (adcConvNode 0 (some 7) 3).runToTick 40, 0, adcConvOf (some 7) 3, 7, by decide +kernel⟩
theorem met_ConversionsAndResults_5 : ∃ (s : State) (u : State) (a : Fin 2) (v : AdcConv), (s.sys.inReset = false) ∧ (s.adcConv a = some v) ∧ (u = s.runToTick v.done) ∧ (v.slot = none) :=
  ⟨adcConvNode 1 none 18, (adcConvNode 1 none 18).runToTick 40, 1, adcConvOf none 18, by decide +kernel⟩
theorem met_ConversionsAndResults_6 : ∃ (s : State) (u : State) (a : Fin 2) (ch : Fin 19) (hold : Nat), (s.sys.inReset = false) ∧ (s.flag (convEnFld a) = true) ∧ (ch.val = 16 ∨ ch.val = 17 ∨ s.get F.ADC_HK_ADC = a.val) ∧ (s.adcFirst a = none) ∧ (s.adcFree a = true) ∧ (u = s.runToTick (s.labs s.tim.lastB + s.get F.ADC_HK_OFS)) ∧ (hold = u.holdTick a u.lnow 0) :=
  ⟨adcOn, adcOn.runToTick (adcOn.labs adcOn.tim.lastB + adcOn.get F.ADC_HK_OFS), 0, 18, (adcOn.runToTick (adcOn.labs adcOn.tim.lastB + adcOn.get F.ADC_HK_OFS)).holdTick 0 (adcOn.runToTick (adcOn.labs adcOn.tim.lastB + adcOn.get F.ADC_HK_OFS)).lnow 0, by decide +kernel⟩
theorem met_ConverterModesAndChecks_1 : ∃ (s : State), (s.sys.inReset = false) :=
  ⟨adcOn, by decide +kernel⟩
theorem met_ConverterModesAndChecks_2 : ∃ (s : State) (a : Fin 2), (s.sys.inReset = false) ∧ (bit s.adc.switching a = true) ∧ (s.flag (lpFld a) = s.flag (lpActFld a)) :=
  ⟨{ adcOn with adc := { switching := 2 } }, 1, by decide +kernel⟩
theorem met_ConverterModesAndChecks_3 : ∃ (s : State) (v : BitVec 5), (s.sys.inReset = false) ∧ (v.toNat < 19) :=
  ⟨adcOn, 18, by decide +kernel⟩
theorem met_ConverterModesAndChecks_4 : ∃ (s : State) (v : BitVec 5), (s.sys.inReset = false) ∧ (19 ≤ v.toNat) :=
  ⟨adcOn, 19, by decide +kernel⟩
theorem met_ConverterModesAndChecks_5 : ∃ (s : State) (u : State) (a : Fin 2) (r : HkRes) (g : HkRes), (s.sys.inReset = false) ∧ (u = s.runUp (Bank.at 0 s.adc.refAt a)) ∧ (s.get F.ADC_CFG_REFCHK_PER ≠ 0) ∧ (s.flag (convEnFld a) = true) ∧ (s.adcHk a 16 = some r) ∧ (s.adcHk a 17 = some g) ∧ (r.shadow = false ∧ g.shadow = false) :=
  ⟨refNode, refNode.runUp 0, 0, ⟨51200, false, false, 0⟩, ⟨300, false, false, 0⟩, by decide +kernel⟩
theorem met_ConverterModesAndChecks_6 : ∃ (s : State), (s.sys.inReset = false) :=
  ⟨adcOn, by decide +kernel⟩
theorem met_SensorsAndEventLog_1 : ∃ (s : State) (u : State) (sensor : Fin 14) (T : Int), (s.sys.inReset = false) ∧ (s.sensorEn sensor = true) ∧ (sensor.val < 6) ∧ (u = s.runToTick (s.sensor sensor).due) ∧ (-960 ≤ T ∧ T ≤ 2880) :=
  ⟨cell.setSensor 2 { shut1 := true }, (cell.setSensor 2 { shut1 := true }).runToTick 0, 2, 2880, by decide +kernel⟩
theorem met_SensorsAndEventLog_2 : ∃ (s : State) (sensor : Fin 14) (n : HkRes) (r : HkRes) (t16 : Int), (s.sys.inReset = false) ∧ (s.sensorEn sensor = true) ∧ (6 ≤ sensor.val) ∧ (s.adcHk (s.get F.ADC_HK_ADC) (s.get (F.THM_Sn_CFG_CH sensor)) = some n) ∧ (s.adcHk (s.get F.ADC_HK_ADC) 18 = some r) ∧ (n.ovr = false ∧ r.ovr = false) ∧ ((s.sensor sensor).due ≤ n.done ∧ (s.sensor sensor).due ≤ r.done) ∧ (s.ntcTemp sensor n.code r.code = some (some t16)) :=
  ⟨ntcNode, 6, ⟨0x4000, false, false, 0⟩, ⟨0x9000, false, false, 0⟩, 968, by decide +kernel⟩
theorem met_SensorsAndEventLog_3 : ∃ (s : State) (sensor : Fin 14) (n : HkRes) (r : HkRes), (s.sensorEn sensor = true) ∧ (6 ≤ sensor.val) ∧ (s.adcHk (s.get F.ADC_HK_ADC) (s.get (F.THM_Sn_CFG_CH sensor)) = some n) ∧ (s.adcHk (s.get F.ADC_HK_ADC) 18 = some r) ∧ (n.done < (s.sensor sensor).due ∨ r.done < (s.sensor sensor).due) :=
  ⟨ntcNode.setSensor 6 { due := 9 }, 6, ⟨0x4000, false, false, 0⟩, ⟨0x9000, false, false, 0⟩, by decide +kernel⟩
theorem met_SensorsAndEventLog_4 : ∃ (s : State) (u : State) (sensor : Fin 14), (s.sys.inReset = false) ∧ (s.sensorEn sensor = true) ∧ (sensor.val < 6) ∧ (u = s.runToTick (s.sensor sensor).due) ∧ ((s.sensor sensor).fails = 0) :=
  ⟨cell, cell.runToTick 0, 0, by decide +kernel⟩
theorem met_SensorsAndEventLog_5 : ∃ (s : State) (u : State) (sensor : Fin 14), (s.sys.inReset = false) ∧ (s.sensorEn sensor = true) ∧ (sensor.val < 6) ∧ (u = s.runToTick (s.sensor sensor).due) ∧ ((s.sensor sensor).fails = 1) :=
  ⟨cell.setSensor 3 { fails := 1 }, (cell.setSensor 3 { fails := 1 }).runToTick 0, 3, by decide +kernel⟩
theorem met_SensorsAndEventLog_6 : ∃ (s : State) (kind : Nat) (sec : BitVec 48) (ws : List Word) (rest : List (Nat × BitVec 48 × List Word)), (s.sys.inReset = false) ∧ (s.stage ≠ Stage.sramInit) ∧ (s.vault.logPend = (kind, sec, ws) :: rest) :=
  ⟨{ cell with vault := { logPend := [(3, 5, [0, 0, 0, 0])] } }, 3, 5, [0, 0, 0, 0], [], by decide +kernel⟩
theorem met_SensorsAndEventLog_7 : ∃ (s : State), (s.sys.inReset = false) :=
  ⟨cell, by decide +kernel⟩
theorem met_SensorsAndEventLog_8 : ∃ (s : State) (i : Nat), (s.sys.inReset = false) ∧ (s.thm.sel = some i) ∧ (s.vault.logPend = []) :=
  ⟨{ cell with thm := { sel := some 0 }, vault := { logMem := [(0, [1, 2, 3, 4, 5, 6, 7, 8])] } }, 0, by decide +kernel⟩
theorem met_MemoryProtection_1 : ∃ (s : State) (addr : Word), (s.sys.inReset = false) ∧ (s.eccErr (eccWord addr.toNat) = some false) :=
  ⟨{ cell with memx := { err := [(0x20000010, false)] } }, 0x20000017, by decide +kernel⟩
theorem met_MemoryProtection_2 : ∃ (s : State) (u : State) (r : Fin 8) (per : Nat) (k : Nat), (s.sys.inReset = false) ∧ (per = 1000000 * s.get (F.MEM_BKTr_CFG_LEAK r) * stimeUnit) ∧ (per ≠ 0) ∧ (k = (if (Bank.at none s.memx.leaks r).getD (s.stimeExt / per) < s.stimeExt / per then s.stimeExt / per else s.stimeExt / per + 1)) ∧ (u = s.runAhead (k * per - s.stimeExt)) :=
  ⟨leakNode, leakNode.runAhead (281474977 * (1000000 * stimeUnit) - leakNode.stimeExt), 7, 1000000 * stimeUnit, 281474977, by decide +kernel⟩
theorem met_MemoryProtection_3 : ∃ (s : State) (r : Fin 8), (s.get (F.MEM_BKTr_CFG_LEAK r) = 0) :=
  ⟨cell.put (F.MEM_BKTr_CFG_LEAK 7) 0, 7, by decide +kernel⟩
theorem met_MemoryProtection_4 : ∃ (s : State) (m : Master), (s.sys.inReset = false ∧ s.mastersRun m = true) ∧ (s.scrubErr (s.asMp m) = 0) :=
  ⟨scrubCfg, .mp, by decide +kernel⟩
theorem met_MemoryProtection_5 : ∃ (s : State) (m : Master), (s.sys.inReset = false ∧ s.mastersRun m = true) ∧ (s.scrubErr (s.asMp m) ≠ 0) :=
  ⟨scrubCfg, .ha, by decide +kernel⟩
theorem met_MemoryProtection_6 : ∃ (s : State) (m : Master), (s.sys.inReset = false ∧ s.mastersRun m = true) ∧ (s.asMp m = true) ∧ (s.memx.scrub.isSome = true) :=
  ⟨{ scrubCfg with memx := { scrub := some (0x20000008, 1, 1, some 0x20000000) } }, .mp, by decide +kernel⟩
theorem met_MemoryProtection_7 : ∃ (s : State) (u : State) (a : Nat) (ce : Nat) (ue : Nat) (first : Option Nat), (s.sys.inReset = false) ∧ (s.memx.scrub = some (a, ce, ue, first)) ∧ (s.memx.scrubStop = true) ∧ (u = s.runUp s.memx.scrubAt) :=
  ⟨{ scrubCfg with memx := { scrub := some (0x20000008, 1, 1, some 0x20000000), scrubStop := true } }, { scrubCfg with memx := { scrub := some (0x20000008, 1, 1, some 0x20000000), scrubStop := true } }.runUp 0, 0x20000008, 1, 1, some 0x20000000, by decide +kernel⟩
theorem met_MemoryProtection_8 : ∃ (s : State) (u : State) (a : Nat) (ce : Nat) (ue : Nat) (first : Option Nat), (s.sys.inReset = false) ∧ (s.memx.scrub = some (a, ce, ue, first)) ∧ (s.memx.scrubStop = false) ∧ (a + 8 ≤ s.memx.scrubLast) ∧ (u = s.runUp s.memx.scrubAt) :=
  ⟨{ scrubCfg with memx := { scrub := some (0x20000000, 0, 0, none), scrubLast := 0x20FFFFF8, err := [(0x20000000, true)] } }, { scrubCfg with memx := { scrub := some (0x20000000, 0, 0, none), scrubLast := 0x20FFFFF8, err := [(0x20000000, true)] } }.runUp 0, 0x20000000, 0, 0, none, by decide +kernel⟩
theorem met_MemoryProtection_9 : ∃ (s : State) (u : State) (a : Nat) (ce : Nat) (ue : Nat) (first : Option Nat), (s.sys.inReset = false) ∧ (s.memx.scrub = some (a, ce, ue, first)) ∧ (s.memx.scrubStop = false) ∧ (s.memx.scrubLast < a + 8) ∧ (u = s.runUp s.memx.scrubAt) :=
  ⟨{ scrubCfg with memx := { scrub := some (0x20FFFFF8, 0, 0, none), scrubLast := 0x20FFFFF8 } }, { scrubCfg with memx := { scrub := some (0x20FFFFF8, 0, 0, none), scrubLast := 0x20FFFFF8 } }.runUp 0, 0x20FFFFF8, 0, 0, none, by decide +kernel⟩
theorem met_MemoryProtection_10 : ∃ (s : State) (m : Master) (v : Word), (s.sys.inReset = false ∧ s.mastersRun m = true) ∧ (s.asMp m = true) ∧ (v.toNat % 2 = 1) ∧ (inSram (v.toNat - v.toNat % 8) = true) :=
  ⟨{ cell with mem := [(0x20000000, 7)] }, .mp, 0x20000001, by decide +kernel⟩
theorem met_MemoryProtection_11 : ∃ (s : State) (m : Master) (v : Word), (s.sys.inReset = false ∧ s.mastersRun m = true) ∧ (s.asMp m = true) ∧ (v.toNat % 2 = 1) ∧ (inCoeff (v.toNat - v.toNat % 8) = true) ∧ (s.flag (F.CE_SLOTn_CFG_EN ((v.toNat - v.toNat % 8 - 0x41000000) / 0x100)) = false) :=
  ⟨cell, .mp, 0x4102FFF9, by decide +kernel⟩
theorem met_MemoryProtection_12 : ∃ (s : State) (m : Master) (v : Word), (s.sys.inReset = false ∧ s.mastersRun m = true) ∧ (s.asMp m = true) ∧ (v.toNat % 2 = 1) ∧ (inCoeff (v.toNat - v.toNat % 8) = true) ∧ (s.flag (F.CE_SLOTn_CFG_EN ((v.toNat - v.toNat % 8 - 0x41000000) / 0x100)) = true) :=
  ⟨cell.setFlag (F.CE_SLOTn_CFG_EN 0) true, .mp, 0x410000F9, by decide +kernel⟩
theorem met_MemoryProtection_13 : ∃ (s : State), (s.sys.inReset = false) :=
  ⟨cell, by decide +kernel⟩
theorem met_EngineTriggersAndCommits_1 : ∃ (s : State) (u : State) (g : Fin 8) (tk : Nat) (rest : List Nat), (s.sys.inReset = false) ∧ ((s.engGroup g).due = tk :: rest) ∧ (u = (s.setEngGroup g { s.engGroup g with due := rest }).runToTick tk) ∧ (u.groupMay g = true) ∧ ((s.engGroup g).run = none) ∧ (u.flag F.PWM_STAT_HALT = false) ∧ (∀ e ∈ u.memx.err, e.2 = false) :=
  ⟨grpDue engCfg 0 9, (engCfg.setEngGroup 0 {}).runToTick 9, 0, 9, [], by decide +kernel⟩
theorem met_EngineTriggersAndCommits_2 : ∃ (s : State) (u : State) (g : Fin 8) (tk : Nat) (rest : List Nat), (s.sys.inReset = false) ∧ ((s.engGroup g).due = tk :: rest) ∧ (u = (s.setEngGroup g { s.engGroup g with due := rest }).runToTick tk) ∧ (u.groupMay g = true) ∧ ((s.engGroup g).run.isSome = true ∨ u.flag F.PWM_STAT_HALT = true) :=
  ⟨grpDue engRun 0 9, engRun.runToTick 9, 0, 9, [], by decide +kernel⟩
theorem met_EngineTriggersAndCommits_3 : ∃ (s : State) (u : State) (g : Fin 8) (tk : Nat) (rest : List Nat), (s.sys.inReset = false) ∧ ((s.engGroup g).due = tk :: rest) ∧ (u = (s.setEngGroup g { s.engGroup g with due := rest }).runToTick tk) ∧ (u.groupMay g = false) :=
  ⟨grpDue (engCfg.setFlag (F.CE_RGn_CFG_EN 0) false) 0 9, ((engCfg.setFlag (F.CE_RGn_CFG_EN 0) false).setEngGroup 0 {}).runToTick 9, 0, 9, [], by decide +kernel⟩
theorem met_EngineTriggersAndCommits_4 : ∃ (s : State) (s' : State) (u : State) (g : Fin 8) (upset : Option (Fin 24576)) (tk : Nat) (rest : List Nat), (s.sys.inReset = false) ∧ (s' = (match upset with | some w => s.eccSet (0x41000000 + 8 * w.val) true | none => s)) ∧ ((s.engGroup g).due = tk :: rest) ∧ (u = (s'.setEngGroup g { s.engGroup g with due := rest }).runToTick tk) ∧ (u.groupMay g = true) ∧ ((s.engGroup g).run = none) ∧ (u.flag F.PWM_STAT_HALT = false) ∧ (∃ n ∈ u.groupSlots g, u.slotPoison n ≠ []) :=
  ⟨grpDue engCfg 0 9, (grpDue engCfg 0 9).eccSet 0x41000008 true, ((engCfg.setEngGroup 0 {}).eccSet 0x41000008 true).runToTick 9, 0, some 1, 9, [], by decide +kernel⟩
theorem met_EngineTriggersAndCommits_5 : ∃ (s : State) (u : State) (g : Fin 8) (ls : List SlotLatch) (es : List Eval) (tk : Nat), (s.sys.inReset = false ∧ s.raises = []) ∧ (s.flag F.PWM_STAT_HALT = false) ∧ ((s.engGroup g).run = some ls) ∧ ((s.engGroup g).doomed = false) ∧ (∀ e ∈ s.memx.err, e.2 = false) ∧ (tk = (s.engGroup g).trig + 16 * s.groupCost ls (s.engGroup g).contests) ∧ (Nat.max tk s.lnow ≤ (s.engGroup g).trig + s.get (F.CE_RGn_DL_DL g)) ∧ (u = s.runToTick tk) ∧ (u.groupEval g = some es) ∧ ((es.map (·.l.slot)).Nodup) ∧ (∀ e ∈ es, e.l.slot < 768) ∧ (∀ m ∈ (s.engGroup g).contests, m < 64) :=
  ⟨engRun, engRun.runToTick (engRun.lnow + 16 * engRun.groupCost ((engRun.engGroup 0).run.getD []) []), 0, (engRun.engGroup 0).run.getD [], (engRun.groupEval 0).getD [], engRun.lnow + 16 * engRun.groupCost ((engRun.engGroup 0).run.getD []) [], by decide +kernel⟩
theorem met_EngineTriggersAndCommits_6 : ∃ (s : State) (u : State) (g : Fin 8) (ls : List SlotLatch), (s.sys.inReset = false) ∧ ((s.engGroup g).run = some ls) ∧ (∀ l ∈ ls, l.slot < 768) ∧ (u = s.runToTick ((s.engGroup g).trig + s.get (F.CE_RGn_DL_DL g))) :=
  ⟨engRun, engRun.runToTick (engRun.lnow + engRun.get (F.CE_RGn_DL_DL 0)), 0, (engRun.engGroup 0).run.getD [], by decide +kernel⟩
theorem met_EngineTriggersAndCommits_7 : ∃ (s : State) (g : Fin 8) (ls : List SlotLatch), (s.sys.inReset = false) ∧ ((s.engGroup g).run = some ls) ∧ ((s.engGroup g).doomed = false) ∧ (∀ e ∈ s.memx.err, e.2 = false) ∧ ((s.engGroup g).trig + s.get (F.CE_RGn_DL_DL g) < (s.engGroup g).trig + 16 * s.groupCost ls (s.engGroup g).contests) :=
  ⟨engRun.put (F.CE_RGn_DL_DL 0) 1, 0, (engRun.engGroup 0).run.getD [], by decide +kernel⟩
theorem met_SwapsPeekAndRecords_1 : ∃ (s : State) (next : Bool), (s.sys.inReset = false) ∧ (next = true ∨ scnLater (s.rd R.CE_SWAP_SCN) s.scn = true) ∧ (s.swapPending = false) ∧ (s.slots.any (fun n => s.flag (F.CE_SLOTn_CFG_ARM n)) = true) :=
  ⟨engCfg.setFlag (F.CE_SLOTn_CFG_ARM 0) true, true, by decide +kernel⟩
theorem met_SwapsPeekAndRecords_2 : ∃ (s : State), (s.sys.inReset = false) ∧ (scnLater (s.rd R.CE_SWAP_SCN) s.scn = false) :=
  ⟨engCfg, by decide +kernel⟩
theorem met_SwapsPeekAndRecords_3 : ∃ (s : State), (s.sys.inReset = false) ∧ (s.swapPending = true) :=
  ⟨engCfg.put F.CE_SWAP_CTRL_STATE 1, by decide +kernel⟩
theorem met_SwapsPeekAndRecords_4 : ∃ (s : State) (slot : BitVec 10), (s.sys.inReset = false) ∧ ((Nat.blt slot.toNat 768 && s.slotOn slot.toNat && s.flag (F.CE_RGn_CFG_EN (s.slotRg slot.toNat))) = false) ∧ (slot.toNat < 768 → s.poisonIn slot.toNat 0x80 0xC0 = []) :=
  ⟨engCfg, 767, by decide +kernel⟩
theorem met_SwapsPeekAndRecords_5 : ∃ (s : State) (slot : BitVec 10), (s.sys.inReset = false) ∧ ((Nat.blt slot.toNat 768 && s.slotOn slot.toNat && s.flag (F.CE_RGn_CFG_EN (s.slotRg slot.toNat))) = true) :=
  ⟨engCfg, 0, by decide +kernel⟩
theorem met_SwapsPeekAndRecords_6 : ∃ (s : State) (slot : Fin 768) (word : Fin 32), (s.sys.inReset = false ∧ s.mastersRun .mp = true) ∧ (s.eccErr (0x41000000 + 0x100 * slot.val + 8 * (word.val / 2)) = none) ∧ (s.eng.swapAt = none) :=
  ⟨engCfg, 767, 31, by decide +kernel⟩
theorem met_SwapsPeekAndRecords_7 : ∃ (s : State), (s.sys.inReset = false) :=
  ⟨engCfg, by decide +kernel⟩
theorem met_BalancerRunAndRequests_1 : ∃ (s : State), (s.sys.inReset = false ∧ s.raises = []) ∧ (s.flag F.BAL_STAT_BUSY = true) :=
  ⟨balNode, by decide +kernel⟩
theorem met_BalancerRunAndRequests_2 : ∃ (s : State) (next : Bool) (pos : BitVec 8) (k : Nat) (i : Nat), (s.sys.inReset = false) ∧ (s.isHead = true) ∧ (scnLater (if next then s.scn + 2 else s.rd R.BAL_REQ_SCN) (s.scn + 1) = true) ∧ (s.bal.req = none) ∧ (s.cellAt pos.toNat = some (k, i)) ∧ (s.cellSwitches k i = true) ∧ (s.get (F.BAL_STKs_CFG_N_MIN k) ≤ (s.switching k).length - 1) :=
  ⟨balNode, true, 0x11, 0, 1, by decide +kernel⟩
theorem met_BalancerRunAndRequests_3 : ∃ (s : State) (next : Bool) (pos : BitVec 8) (k : Nat) (i : Nat), (s.sys.inReset = false) ∧ (s.isHead = true) ∧ (scnLater (if next then s.scn + 2 else s.rd R.BAL_REQ_SCN) (s.scn + 1) = true) ∧ (s.bal.req = none) ∧ (s.cellAt pos.toNat = some (k, i)) :=
  ⟨balNode, true, 0x10, 0, 0, by decide +kernel⟩
theorem met_BalancerRunAndRequests_4 : ∃ (s : State) (next : Bool) (pos : BitVec 8), (s.sys.inReset = false) ∧ (s.isHead = true) ∧ (scnLater (if next then s.scn + 2 else s.rd R.BAL_REQ_SCN) (s.scn + 1) = true) ∧ (s.bal.req = none) ∧ (s.cellAt pos.toNat = none) :=
  ⟨balNode, true, 0x80, by decide +kernel⟩
theorem met_BootSelectsAndFetches_1 : ∃ (s : State) (chip : Option FlashChip), (s.sys.inReset = false) ∧ (s.stage = Stage.sramInit) ∧ (slotStIn (chip.getD s.flash) 0 = .pending) ∧ (slotStIn (chip.getD s.flash) 1 ≠ .trial) :=
  ⟨run.put F.IMG_STAT_STAGE 1, some (flashMark imgFlash 0 .pending), by decide +kernel⟩
theorem met_BootSelectsAndFetches_2 : ∃ (s : State) (chip : Option FlashChip), (s.sys.inReset = false) ∧ (s.stage = Stage.sramInit) ∧ (slotStIn (chip.getD s.flash) 0 = .good) ∧ (slotStIn (chip.getD s.flash) 1 = .good) :=
  ⟨{ run.put F.IMG_STAT_STAGE 1 with flash := twoGood }, none, by decide +kernel⟩
theorem met_BootSelectsAndFetches_3 : ∃ (s : State) (chip : Option FlashChip), (s.sys.inReset = false) ∧ (s.stage = Stage.sramInit) ∧ ((chip.getD s.flash).sfdp.isSome = true) ∧ (slotStIn (chip.getD s.flash) 0 = .empty ∨ slotStIn (chip.getD s.flash) 0 = .bad) ∧ (slotStIn (chip.getD s.flash) 1 = .empty ∨ slotStIn (chip.getD s.flash) 1 = .bad) ∧ (s.flt.fc3 = [] ∧ s.get F.FLT_LOCK_LOCK_N ≠ 1) :=
  ⟨run.put F.IMG_STAT_STAGE 1, some imgFlash, by decide +kernel⟩
theorem met_BootSelectsAndFetches_4 : ∃ (s : State) (n : Nat), (s.sys.inReset = false) ∧ (s.stage = Stage.fetch) ∧ ((s.sys.up - s.img.fetchAt) * 16 ≤ fetchLimit (slotHeader s.flash s.bootSlot) * 25) ∧ (n = Nat.min fetchBufferLen (Nat.min (hdrLen (slotHeader s.flash s.bootSlot)) (slotSize s.flash))) :=
  ⟨{ run.put F.IMG_STAT_STAGE 2 with flash := shortFlash }, 64, by decide +kernel⟩
theorem met_BootSelectsAndFetches_5 : ∃ (s : State) (u : State), (s.sys.inReset = false) ∧ (s.stage = Stage.fetch) ∧ (s.img.fallback = true ∧ s.img.retried = false) ∧ (u = s.runAfter s.img.fetchAt (fetchLimit (slotHeader s.flash s.bootSlot))) :=
  ⟨{ run.put F.IMG_STAT_STAGE 2 with flash := twoGood, img := { fallback := true } }, { run.put F.IMG_STAT_STAGE 2 with flash := twoGood, img := { fallback := true } }.runAfter 0 (fetchLimit (slotHeader twoGood 0)), by decide +kernel⟩
theorem met_BootSelectsAndFetches_6 : ∃ (s : State) (u : State), (s.sys.inReset = false) ∧ (s.stage = Stage.fetch) ∧ (s.img.fallback = false ∨ s.img.retried = true) ∧ (s.flt.fc3 = [] ∧ s.get F.FLT_LOCK_LOCK_N ≠ 1) ∧ (u = s.runAfter s.img.fetchAt (fetchLimit (slotHeader s.flash s.bootSlot))) :=
  ⟨{ run.put F.IMG_STAT_STAGE 2 with flash := twoGood }, { run.put F.IMG_STAT_STAGE 2 with flash := twoGood }.runAfter 0 (fetchLimit (slotHeader twoGood 0)), by decide +kernel⟩
theorem met_BootSelectsAndFetches_7 : ∃ (s : State) (st : StationRead) (err : Nat) (sect : Nat), (s.sys.inReset = false) ∧ (s.stage = Stage.verify) ∧ (s.verify s.bootSlot st.bufferBad = some (err, sect)) ∧ (s.img.fallback = false ∨ s.img.retried = true) ∧ (s.flt.fc3 = [] ∧ s.get F.FLT_LOCK_LOCK_N ≠ 1) :=
  ⟨{ run.put F.IMG_STAT_STAGE 3 with flash := shortFlash }, {}, 2, 15, by decide +kernel⟩
theorem met_ImageBindsTheNode_1 : ∃ (s : State) (st : StationRead) (img : ImageRead) (e : StationEntry), (s.sys.inReset = false) ∧ (s.stage = Stage.verify) ∧ (s.verify s.bootSlot st.bufferBad = none) ∧ (img = slotImage s.flash s.bootSlot s.pos st) ∧ (img.eq.all eqRowOk = true) ∧ (bindCode img s.pos = (0, some e)) ∧ ((({ s with img := { s.img with image := img, vendorOk := true } }.bindRole e img.single).loadImage st.cfg).isSome = true) :=
  ⟨verNode, verImg, slotImage imgFlash 0 0x10 verImg, { pos := 0x10, role := 4, stack := 0, cell := 0 }, ⟨by decide +kernel, by decide +kernel, ver_ok, by decide +kernel, by decide +kernel, by decide +kernel, by decide +kernel⟩⟩
theorem met_ImageBindsTheNode_2 : ∃ (s : State) (st : StationRead) (img : ImageRead) (e : StationEntry), (s.sys.inReset = false) ∧ (s.stage = Stage.verify) ∧ (s.verify s.bootSlot st.bufferBad = none) ∧ (img = slotImage s.flash s.bootSlot s.pos st) ∧ (img.eq.all eqRowOk = true) ∧ (bindCode img s.pos = (0, some e)) ∧ (({ s with img := { s.img with image := img, vendorOk := true } }.bindRole e img.single).loadImage st.cfg = none) ∧ (s.img.fallback = false ∨ s.img.retried = true) ∧ (s.flt.fc3 = [] ∧ s.get F.FLT_LOCK_LOCK_N ≠ 1) :=
  ⟨verNode, { verImg with cfg := [(R.TIM_SC_LEN, 124999)] }, slotImage imgFlash 0 0x10 verImg, { pos := 0x10, role := 4, stack := 0, cell := 0 }, ⟨by decide +kernel, by decide +kernel, ver_ok, by decide +kernel, by decide +kernel, by decide +kernel, by decide +kernel, by decide +kernel, by decide +kernel⟩⟩
theorem met_ImageBindsTheNode_3 : ∃ (s : State) (st : StationRead), (s.sys.inReset = false) ∧ (s.stage = Stage.verify) ∧ (s.verify s.bootSlot st.bufferBad = none) ∧ ((slotImage s.flash s.bootSlot s.pos st).eq.all eqRowOk = false) ∧ (s.img.fallback = false ∨ s.img.retried = true) ∧ (s.flt.fc3 = [] ∧ s.get F.FLT_LOCK_LOCK_N ≠ 1) :=
  ⟨{ verNode with flash := badEqFlash }, verImg, ⟨by decide +kernel, by decide +kernel, ver_bad, by decide +kernel, by decide +kernel, by decide +kernel⟩⟩
theorem met_ImageBindsTheNode_4 : ∃ (s : State) (st : StationRead) (img : ImageRead) (code : Nat), (s.sys.inReset = false) ∧ (s.stage = Stage.verify) ∧ (s.verify s.bootSlot st.bufferBad = none) ∧ (img = slotImage s.flash s.bootSlot s.pos st) ∧ (img.eq.all eqRowOk = true) ∧ (bindCode img s.pos = (code, none)) ∧ (s.flt.fc3 = [] ∧ s.get F.FLT_LOCK_LOCK_N ≠ 1) :=
  ⟨verNode, {}, slotImage imgFlash 0 0x10 {}, 1, ⟨by decide +kernel, by decide +kernel, ver_ok, by decide +kernel, by decide +kernel, by decide +kernel, by decide +kernel⟩⟩
theorem met_ImageBindsTheNode_5 : ∃ (s : State), (s.sys.inReset = false) ∧ (s.stage = Stage.bind) :=
  ⟨{ node 2 0x10 4 with mem := [(0x20000000, 1), (0x20300000, 2)] }, by decide +kernel⟩
theorem met_ProvisioningTrialAndUpdate_1 : ∃ (s : State) (v : Word), (s.sys.inReset = false ∧ s.mastersRun .dbg = true) ∧ (s.sys.dbgsel = true) ∧ (v.toNat / 65536 = 0xC35A ∧ v.getLsbD 0 = true) ∧ (s.keysBlank = true) ∧ (ownerSigOk (slotHeader s.flash s.bootSlot) = true) :=
  ⟨{ cell with flash := imgFlash }, 0xC35A0001, by decide +kernel⟩
theorem met_ProvisioningTrialAndUpdate_2 : ∃ (s : State) (v : Word), (s.sys.inReset = false ∧ s.mastersRun .dbg = true) ∧ (s.sys.dbgsel = true) ∧ (v.toNat / 65536 = 0xC35A ∧ v.getLsbD 0 = true) ∧ (s.keysBlank = true) ∧ (ownerSigOk (slotHeader s.flash s.bootSlot) = false) :=
  ⟨{ cell with flash := shortFlash }, 0xC35A0001, by decide +kernel⟩
theorem met_ProvisioningTrialAndUpdate_3 : ∃ (s : State) (m : Master), (s.sys.inReset = false ∧ s.mastersRun m = true) ∧ (m ≠ .dbg ∨ s.sys.dbgsel = false) :=
  ⟨cell, .mp, by decide +kernel⟩
theorem met_ProvisioningTrialAndUpdate_4 : ∃ (s : State) (u : State), (s.sys.inReset = false ∧ s.raises = []) ∧ (s.slotSt s.bootSlot = .trial) ∧ (Stage.fetch ≤ s.stage) ∧ (u = s.runUp (msTicks 30000)) :=
  ⟨{ node 2 0x10 6 with flash := flashMark imgFlash 0 .trial }, { node 2 0x10 6 with flash := flashMark imgFlash 0 .trial }.runUp (msTicks 30000), by decide +kernel⟩
theorem met_ProvisioningTrialAndUpdate_5 : ∃ (s : State) (m : Master), (s.sys.inReset = false ∧ s.mastersRun m = true) ∧ (s.asMp m = true) ∧ (s.img.upd = none) :=
  ⟨{ cell with flash := twoGood }, .mp, by decide +kernel⟩
theorem met_ProvisioningTrialAndUpdate_6 : ∃ (s : State) (m : Master), (s.sys.inReset = false ∧ s.mastersRun m = true) ∧ (s.asMp m = true) ∧ (s.img.upd = none) ∧ (s.num R.IMG_UPD_SRC % 4 = 0 ∧ s.num R.IMG_UPD_LEN % 256 = 0 ∧ s.num R.IMG_UPD_LEN ≠ 0) ∧ (0x20000000 ≤ s.num R.IMG_UPD_SRC ∧ s.num R.IMG_UPD_SRC + s.num R.IMG_UPD_LEN ≤ 0x21000000) ∧ (s.num R.IMG_UPD_LEN ≤ slotSize s.flash) :=
  ⟨(({ cell with flash := flashMark imgFlash 1 .pending } : State).wrN R.IMG_UPD_SRC 0x20000004).wrN R.IMG_UPD_LEN 256, .mp, by decide +kernel⟩
theorem met_ProvisioningTrialAndUpdate_7 : ∃ (s : State) (m : Master), (s.sys.inReset = false ∧ s.mastersRun m = true) ∧ (s.asMp m = true) ∧ (s.img.upd = none) ∧ (s.num R.IMG_UPD_SRC % 4 ≠ 0 ∨ s.num R.IMG_UPD_LEN % 256 ≠ 0 ∨ s.num R.IMG_UPD_LEN = 0 ∨ s.num R.IMG_UPD_SRC < 0x20000000 ∨ 0x21000000 < s.num R.IMG_UPD_SRC + s.num R.IMG_UPD_LEN ∨ slotSize s.flash < s.num R.IMG_UPD_LEN) :=
  ⟨cell, .mp, by decide +kernel⟩
theorem met_ProvisioningTrialAndUpdate_8 : ∃ (s : State) (m : Master), (s.sys.inReset = false ∧ s.mastersRun m = true) ∧ (s.asMp m = true) ∧ (s.img.upd = none) :=
  ⟨cell, .mp, by decide +kernel⟩
theorem met_ProvisioningTrialAndUpdate_9 : ∃ (s : State) (m : Master), (s.sys.inReset = false ∧ s.mastersRun m = true) ∧ (s.asMp m = true) ∧ (s.img.upd = none) :=
  ⟨{ cell.setFlag F.IMG_UPD_STAT_VERIFIED true with flash := imgFlash }, .mp, by decide +kernel⟩
theorem met_ProvisioningTrialAndUpdate_10 : ∃ (s : State) (m : Master), (s.sys.inReset = false ∧ s.mastersRun m = true) ∧ (s.asMp m = true) ∧ (s.img.upd ≠ none) :=
  ⟨{ cell with img := { upd := some .verify } }, .mp, by decide +kernel⟩
theorem met_ProvisioningTrialAndUpdate_11 : ∃ (s : State) (m : Master), (s.sys.inReset = false ∧ s.mastersRun m = true) ∧ (s.asMp m = true) ∧ (s.img.upd ≠ none) :=
  ⟨{ cell with img := { upd := some .verify } }, .mp, by decide +kernel⟩
theorem met_ProvisioningTrialAndUpdate_12 : ∃ (s : State), (s.sys.inReset = false) ∧ (s.img.upd = some .verify) :=
  ⟨{ cell with img := { upd := some .verify } }, by decide +kernel⟩
theorem met_ProvisioningTrialAndUpdate_13 : ∃ (s : State) (k : UpdCmd), (s.sys.inReset = false) ∧ (s.img.upd = some k) ∧ (k ≠ .verify) :=
  ⟨{ cell with img := { upd := some .erase }, flash := twoGood }, .erase, by decide +kernel⟩
theorem met_ProvisioningTrialAndUpdate_14 : ∃ (s : State) (k : UpdCmd), (s.sys.inReset = false) ∧ (s.img.upd = some k) :=
  ⟨{ cell with img := { upd := some .erase }, flash := twoGood }, .erase, by decide +kernel⟩
theorem met_AdmissionAtPrimary_1 : ∃ (s : State) (pos : BitVec 8) (epoch : Nat) (minEpoch : Nat) (dig : BitVec 64) (lists : Bool) (dev : BitVec 64), (s.sys.inReset = false) ∧ (s.isPrimary = true ∧ s.inService = true) ∧ ((s.img.image.table.any fun e => e.pos.toNat == pos.toNat) = true) ∧ (s.admTaken pos.toNat dev = false) ∧ (s.img.image.minEpoch ≤ epoch ∧ minEpoch ≤ s.img.image.epoch) ∧ (dig = s.img.image.cfgDig ∨ lists = true ∨ dig ∈ s.img.image.pred) :=
  ⟨primTab, 0x10, 1, 1, 0, false, 77, by decide +kernel⟩
theorem met_AdmissionAtPrimary_2 : ∃ (s : State) (pos : BitVec 8) (epoch : Nat) (minEpoch : Nat) (dev : BitVec 64), (s.sys.inReset = false) ∧ (s.isPrimary = true ∧ s.inService = true) ∧ ((s.img.image.table.any fun e => e.pos.toNat == pos.toNat) = true) ∧ (s.admTaken pos.toNat dev = false) ∧ (epoch < s.img.image.minEpoch ∨ s.img.image.epoch < minEpoch) :=
  ⟨primTab, 0x10, 0, 1, 77, by decide +kernel⟩
theorem met_AdmissionAtPrimary_3 : ∃ (s : State) (pos : BitVec 8) (epoch : Nat) (minEpoch : Nat) (dig : BitVec 64) (lists : Bool) (timeOk : Bool) (dev : BitVec 64) (reason : Nat), (s.sys.inReset = false) ∧ (s.isPrimary = true ∧ s.inService = true) ∧ ((s.img.image.table.any fun e => e.pos.toNat == pos.toNat) = true) ∧ (s.admTaken pos.toNat dev = false) ∧ (s.img.image.minEpoch ≤ epoch ∧ minEpoch ≤ s.img.image.epoch) ∧ ((reason = 3 ∧ dig ≠ s.img.image.cfgDig ∧ lists = false ∧ dig ∉ s.img.image.pred) ∨ (reason = 4 ∧ timeOk = false ∧ (dig = s.img.image.cfgDig ∨ lists = true ∨ dig ∈ s.img.image.pred))) :=
  ⟨primTab, 0x10, 1, 1, 7, false, true, 77, 3, by decide +kernel⟩
theorem met_AdmissionAtPrimary_4 : ∃ (s : State) (pos : BitVec 8) (dev : BitVec 64), (s.sys.inReset = false) ∧ (s.isPrimary = true ∧ s.inService = true) ∧ ((s.img.image.table.any fun e => e.pos.toNat == pos.toNat) = true) ∧ (s.admTaken pos.toNat dev = true) :=
  ⟨primTab.setMember 0x10 { adm := 2 }, 0x10, 77, by decide +kernel⟩
theorem met_AdmissionAtPrimary_5 : ∃ (s : State) (pos : BitVec 8), (s.sys.inReset = false) ∧ (s.isPrimary = true) ∧ ((s.member pos.toNat).adm = 3 ∧ (s.member pos.toNat).reason = 4) ∧ (64 ≤ (s.scn - (s.ask pos.toNat).heldAt).toNat) :=
  ⟨(primTab.wrN R.TIM_SCN 64).setMember 0x10 { adm := 3, reason := 4 }, 0x10, by decide +kernel⟩
theorem met_AdmissionAtPrimary_6 : ∃ (s : State) (pos : BitVec 8), ((s.scn - (s.ask pos.toNat).heldAt).toNat < 64) :=
  ⟨(primTab.wrN R.TIM_SCN 63).setMember 0x10 { adm := 3, reason := 4 }, 0x10, by decide +kernel⟩
theorem met_AdmissionAtNode_1 : ∃ (s : State), (s.sys.inReset = false) ∧ (s.admOpen = true) ∧ (s.slotSt s.bootSlot ≠ .trial) ∧ (s.isHead = false) :=
  ⟨node 2 0x10 6, by decide +kernel⟩
theorem met_AdmissionAtNode_2 : ∃ (s : State), (s.sys.inReset = false) ∧ (s.admOpen = true) ∧ (s.slotSt s.bootSlot ≠ .trial) ∧ (s.isHead = true) :=
  ⟨(node 1 1 6).put F.DPX_STAT_STATE 1, by decide +kernel⟩
theorem met_AdmissionAtNode_3 : ∃ (s : State), (s.sys.inReset = false) ∧ (s.admOpen = true) ∧ (s.isHead = false) :=
  ⟨node 2 0x10 6, by decide +kernel⟩
theorem met_AdmissionAtNode_4 : ∃ (s : State), (s.sys.inReset = false) ∧ (s.stage = Stage.full ∨ s.stage = Stage.refused) :=
  ⟨cell, by decide +kernel⟩
theorem met_FullServiceAndSpliceNamed_1 : ∃ (s : State) (locked : List (BitVec 8)), (s.sys.inReset = false) ∧ (s.isHead = true ∧ s.inService = true ∧ s.admitted = true ∧ s.flag F.IMG_STAT_STN_PB = true ∧ s.img.fullS = none) ∧ (s.isPrimary = false ∨ s.missingPos (locked.map (·.toNat)) = [] ∨ s.minimumOk = true) :=
  ⟨{ primPb with img := { primPb.img with stWait := true } }, [], by decide +kernel⟩
theorem met_FullServiceAndSpliceNamed_2 : ∃ (s : State) (locked : List (BitVec 8)), (s.sys.inReset = false) ∧ (s.isHead = true ∧ s.inService = true ∧ s.admitted = true ∧ s.flag F.IMG_STAT_STN_PB = true ∧ s.img.fullS = none) ∧ (s.isPrimary = true ∧ s.missingPos (locked.map (·.toNat)) ≠ [] ∧ s.minimumOk = false) :=
  ⟨primPb, [0x10], by decide +kernel⟩
theorem met_FullServiceAndSpliceNamed_3 : ∃ (s : State) (u : State), (s.sys.inReset = false) ∧ (s.running = true ∧ s.img.stWait = false) ∧ (u = s.runUp (s.img.pbAt + msTicks s.img.image.stWait)) :=
  ⟨prim, prim.runUp (prim.img.pbAt + msTicks prim.img.image.stWait), by decide +kernel⟩
theorem met_FullServiceAndSpliceNamed_4 : ∃ (s : State) (pos : BitVec 8), (s.sys.inReset = false) ∧ (s.flag F.IMG_STAT_STN_PB = false ∧ s.img.splice = none) ∧ (s.isPrimary = true ∧ (s.member pos.toNat).adm = 2 ∧ (s.member pos.toNat).stage = Stage.pbAdm ∧ pos.toNat ≠ s.pos) :=
  ⟨prim.setMember 0x10 { adm := 2, stage := 7 }, 0x10, by decide +kernel⟩
theorem met_FullServiceAndSpliceNamed_5 : ∃ (s : State) (pos : BitVec 8) (locked : Bool), (s.flag F.IMG_STAT_STN_PB = true ∨ s.img.splice ≠ none ∨ (s.isPrimary = true ∧ (locked = false ∨ (s.member pos.toNat).adm ≠ 2 ∨ (s.member pos.toNat).stage ≠ Stage.pbAdm))) :=
  ⟨prim, 0x10, false, by decide +kernel⟩
theorem met_CycleBoundary_1 : ∃ (s : State) (u : State), (s.sys.inReset = false ∧ s.raises = []) ∧ (u = (((s.runTo s.tim.nextB).takeEarly Ty.hb fun a s => s.hbReceived a).takeEarly Ty.dn fun a s => s.dnReceived a)) :=
  ⟨cell, cell.runTo cell.tim.nextB, by decide +kernel⟩
theorem met_CycleBoundary_2 : ∃ (s : State) (u : State) (i : Item), (s.sys.inReset = false ∧ s.raises = []) ∧ (u = (((s.runTo s.tim.nextB).takeEarly Ty.hb fun a s => s.hbReceived a).takeEarly Ty.dn fun a s => s.dnReceived a)) ∧ (u.isMember = true) ∧ (u.rng.staged = [i]) ∧ (i.scn = (u.scn + 1).toNat % 256) :=
  ⟨{ cell with rng := { staged := [⟨0, 0xF801, 1, 5⟩] } }, { cell with rng := { staged := [⟨0, 0xF801, 1, 5⟩] } }.runTo cell.tim.nextB, ⟨0, 0xF801, 1, 5⟩, by decide +kernel⟩
theorem met_CycleBoundary_3 : ∃ (s : State) (u : State), (s.sys.inReset = false ∧ s.raises = []) ∧ (u = (((s.runTo s.tim.nextB).takeEarly Ty.hb fun a s => s.hbReceived a).takeEarly Ty.dn fun a s => s.dnReceived a)) ∧ (u.isMember = true ∧ u.inService = true ∧ u.img.fullS = none ∧ u.img.splice = none) ∧ (u.rng.dnServed = false ∧ u.onSpur = false) :=
  ⟨{ cell with rng := { dnServed := false } }, { cell with rng := { dnServed := false } }.runTo cell.tim.nextB, by decide +kernel⟩
theorem met_LaneStates_1 : ∃ (s : State) (pll : Fin 2), (s.sys.inReset = false) ∧ (s.flag (pllOffFld pll.val) = false ∧ s.flag (pllLockFld pll.val) = false) :=
  ⟨cell.setLaneState 4 0 2, 0, by decide +kernel⟩
theorem met_LaneStates_2 : ∃ (s : State) (pll : Fin 2), (s.sys.inReset = false) ∧ (s.flag (pllLockFld pll.val) = true) :=
  ⟨(cell.setLaneState 3 1 5).setFlag (pllLockFld 1) true, 1, by decide +kernel⟩
theorem met_LaneStates_3 : ∃ (s : State) (u : State), (s.sys.inReset = false) ∧ (s.stage = Stage.full) ∧ (s.flag F.LNK_STAT_LPLL0_LOCK = false ∧ s.flag F.LNK_STAT_LPLL1_LOCK = false) ∧ (u = (s.runAfter s.lnk.outAt 1000000).runUp (s.lnk.outAt + msTicks 1 + 1)) :=
  ⟨cell, (cell.runAfter cell.lnk.outAt 1000000).runUp (cell.lnk.outAt + msTicks 1 + 1), by decide +kernel⟩
theorem met_LaneStates_4 : ∃ (s : State) (p : Fin 5) (l : Fin 2), (s.sys.inReset = false) ∧ (p.val < 4 ∨ l = 0) ∧ (s.laneState p l = Lane.cdr ∧ s.mayStart p = true) :=
  ⟨cell.setLaneState 3 1 3, 3, 1, by decide +kernel⟩
theorem met_LaneStates_5 : ∃ (s : State) (p : Fin 5) (l : Fin 2), (s.sys.inReset = false) ∧ (p.val < 4 ∨ l = 0) ∧ (s.laneState p l = Lane.frame ∧ s.mayStart p = true) ∧ ((s.lane p l).trained = false ∧ (s.lane p l).good = 8) :=
  ⟨(((node 2 0x10 5).setLaneState 0 0 6).setLaneState 0 1 4).setLane 0 1 { good := 8 }, 0, 1, by decide +kernel⟩
theorem met_LaneStates_6 : ∃ (s : State) (p : Fin 5) (l : Fin 2), (s.sys.inReset = false) ∧ (p.val < 4 ∨ l = 0) ∧ (s.laneState p l = Lane.frame ∧ s.mayStart p = true) ∧ ((s.lane p l).trained = true) :=
  ⟨(cell.setLaneState 4 0 4).setLane 4 0 { trn := 8, far := some (4, 0, 0) }, 4, 0, by decide +kernel⟩
theorem met_LaneStates_7 : ∃ (s : State) (p : Fin 5) (l : Fin 2), (s.mayStart p = false ∨ ((s.lane p l).trained = false ∧ (s.lane p l).good ≠ 8)) :=
  ⟨cell.setLaneState 4 0 4, 4, 0, by decide +kernel⟩
theorem met_LaneStates_8 : ∃ (s : State) (p : Fin 5) (l : Fin 2), (s.sys.inReset = false) ∧ (p.val < 4 ∨ l = 0) ∧ (s.laneState p l = Lane.up ∧ (s.lane p l).bad = 4) :=
  ⟨ringUpNode.setLane 0 1 { bad := 4 }, 0, 1, by decide +kernel⟩
theorem met_LaneStates_9 : ∃ (s : State) (p : Fin 5) (l : Fin 2), (s.sys.inReset = false) ∧ (p.val < 4 ∨ l = 0) ∧ (s.laneState p l = Lane.up) :=
  ⟨ringUpNode, 0, 1, by decide +kernel⟩
theorem met_LaneStates_10 : ∃ (s : State) (p : Fin 5) (l : Fin 2), (s.sys.inReset = false) ∧ (p.val < 4 ∨ l = 0) ∧ (s.laneState p l = Lane.up) :=
  ⟨ringUpNode, 0, 1, by decide +kernel⟩
theorem met_TrainingEyesAndChill_1 : ∃ (s : State) (u : State) (p : Fin 5) (l : Fin 2), (s.sys.inReset = false) ∧ (p.val < 4 ∨ l = 0) ∧ (s.laneState p l = Lane.cdr ∨ s.laneState p l = Lane.frame) ∧ (s.mayStart p = true) ∧ (u = s.runAfter (s.lane p l).since 2000000) ∧ (s.flag F.LNK_CTRL_AUTO_TRAIN = false) :=
  ⟨(cell.setLaneState 3 1 4).setFlag F.LNK_CTRL_AUTO_TRAIN false, ((cell.setLaneState 3 1 4).setFlag F.LNK_CTRL_AUTO_TRAIN false).runAfter (((cell.setLaneState 3 1 4).setFlag F.LNK_CTRL_AUTO_TRAIN false).lane 3 1).since 2000000, 3, 1, by decide +kernel⟩
theorem met_TrainingEyesAndChill_2 : ∃ (s : State) (u : State) (p : Fin 5) (l : Fin 2), (s.sys.inReset = false) ∧ (p.val < 4 ∨ l = 0) ∧ (s.laneState p l = Lane.cdr ∨ s.laneState p l = Lane.frame) ∧ (s.mayStart p = true) ∧ (u = s.runAfter (s.lane p l).since 2000000) ∧ (s.flag F.LNK_CTRL_AUTO_TRAIN = true) ∧ (Nat.max 1 (s.get F.LNK_CTRL_RETRY_MAX) ≤ satAdd 15 (u.get (F.LNK_PORTx_STAT_RETRIES p)) 1) :=
  ⟨((cell.setLaneState 3 1 4).setFlag F.LNK_CTRL_AUTO_TRAIN true).put F.LNK_CTRL_RETRY_MAX 0, (((cell.setLaneState 3 1 4).setFlag F.LNK_CTRL_AUTO_TRAIN true).put F.LNK_CTRL_RETRY_MAX 0).runAfter ((((cell.setLaneState 3 1 4).setFlag F.LNK_CTRL_AUTO_TRAIN true).put F.LNK_CTRL_RETRY_MAX 0).lane 3 1).since 2000000, 3, 1, by decide +kernel⟩
theorem met_TrainingEyesAndChill_3 : ∃ (s : State) (p : Fin 5), (s.sys.inReset = false) ∧ ((∀ l ∈ lanesOf p, Lane.cdr ≤ s.laneState p l)) :=
  ⟨ringUpNode, 0, by decide +kernel⟩
theorem met_TrainingEyesAndChill_4 : ∃ (s : State) (p : Fin 5), (s.sys.inReset = false) ∧ ((∀ k ∈ lanesOf p, s.laneState p k = Lane.train)) ∧ (s.trainOver p = true) :=
  ⟨trainNode, 2, by decide +kernel⟩
theorem met_TrainingEyesAndChill_5 : ∃ (s : State) (u : State) (p : Fin 5) (err : Fin 5), (s.sys.inReset = false) ∧ ((∀ k ∈ lanesOf p, s.laneState p k = Lane.train)) ∧ (s.trainFails p err.val = true) ∧ (u = (if err = 1 then s.runAfter (s.port p).trainAt 4000000 else if err = 4 then s.runAfter (s.port p).trainAt 5000000 else s)) :=
  ⟨(cell.setLaneState 2 0 5).setLaneState 2 1 5, ((cell.setLaneState 2 0 5).setLaneState 2 1 5).runAfter 0 5000000, 2, 4, by decide +kernel⟩
theorem met_TrainingEyesAndChill_6 : ∃ (s : State) (u : State) (p : Fin 5) (tk : Nat), (s.sys.inReset = false) ∧ ((s.port p).trainWait = some tk) ∧ (u = s.runAfter tk 100000000) :=
  ⟨(cell.setPort 4 { trainWait := some 0 }).put (F.LNK_PORTx_STAT_RETRIES 4) 7, ((cell.setPort 4 { trainWait := some 0 }).put (F.LNK_PORTx_STAT_RETRIES 4) 7).runAfter 0 100000000, 4, 0, by decide +kernel⟩
theorem met_TrainingEyesAndChill_7 : ∃ (s : State) (p : Fin 5) (l : Fin 2), (s.sys.inReset = false) ∧ (p.val < 4 ∨ l = 0) :=
  ⟨(ringUpNode.setLane 0 1 { lowSer := true, lowEye := true }).put F.LNK_CTRL_EYE_MIN 20, 0, 1, by decide +kernel⟩
theorem met_TrainingEyesAndChill_8 : ∃ (s : State) (p : Fin 5), (s.sys.inReset = false) ∧ (s.laneServes p = true) :=
  ⟨ringUpNode, 0, by decide +kernel⟩
theorem met_TrainingEyesAndChill_9 : ∃ (s : State) (p : Fin 5), (s.sys.inReset = false) ∧ (s.laneServes p = false) :=
  ⟨cell, 4, by decide +kernel⟩
theorem met_TrainingEyesAndChill_10 : ∃ (s : State) (p : Fin 5), (s.sys.inReset = false) ∧ ((∀ l ∈ lanesOf p, s.laneState p l = Lane.chill)) ∧ (s.flag (pllLockFld (portPll p)) = false) :=
  ⟨cell.setLaneState 4 0 1, 4, by decide +kernel⟩
theorem met_TrainingEyesAndChill_11 : ∃ (s : State), (s.sys.inReset = false) :=
  ⟨cell, by decide +kernel⟩
theorem met_RingForwardsAndFolds_1 : ∃ (s : State) (p : Fin 5) (l : Fin 2) (rx : List Int) (m : Nat) (w : List Nat) (cw : List Byte), (s.sys.inReset = false) ∧ (p.val < 4 ∧ s.laneState p l = Lane.up) ∧ (m = s.streamOf p l ∧ w = lineRaw p m (s.symbolsIn p l rx).1 ∧ cw = payloadOf w) ∧ (s.portDown p = false ∧ s.portDown (facingPort p) = false) ∧ (s.ringState (Nat.ble 2 p) = RingSt.thru) ∧ (hchkOk cw = true ∧ (hdrOf cw).typ ≠ Ty.idle ∧ (hdrOf cw).typ ≠ Ty.nbr) ∧ (s.removes (Nat.ble 2 p) (p.val % 2 == 0) (hdrOf cw) = false) ∧ (s.aged (hdrOf cw).typ (hdrOf cw).tag = false) :=
  ⟨onRing cell, 3, 1, levelsOf false false 0 (lineOf 2 1 upCw), 1, lineRaw 3 1 ((onRing cell).symbolsIn 3 1 (levelsOf false false 0 (lineOf 2 1 upCw))).1, upCw, by decide +kernel⟩
theorem met_RingForwardsAndFolds_2 : ∃ (s : State) (p : Fin 5) (l : Fin 2) (rx : List Int) (w : List Nat) (n : Nat), (s.sys.inReset = false) ∧ ((p.val < 4 ∨ l = 0) ∧ s.laneState p l = Lane.up) ∧ (w = lineRaw p (s.streamOf p l) (s.symbolsIn p l rx).1) ∧ ((decodeLine w).2 = some (n + 1)) :=
  ⟨onRing cell, 3, 1, levelsOf false false 0 ((lineOf 2 1 upCw).set 159 0x155 |>.set 40 0), lineRaw 3 1 ((onRing cell).symbolsIn 3 1 (levelsOf false false 0 ((lineOf 2 1 upCw).set 159 0x155 |>.set 40 0))).1, 1, by decide +kernel⟩
theorem met_RingForwardsAndFolds_3 : ∃ (s : State) (p : Fin 5) (l : Fin 2) (rx : List Int) (w : List Nat), (s.sys.inReset = false) ∧ ((p.val < 4 ∨ l = 0) ∧ s.laneState p l = Lane.up) ∧ (w = lineRaw p (s.streamOf p l) (s.symbolsIn p l rx).1) ∧ ((decodeLine w).2 = none) :=
  ⟨onRing cell, 3, 1, levelsOf false false 0 (lineOf 2 0 upCw), lineRaw 3 1 ((onRing cell).symbolsIn 3 1 (levelsOf false false 0 (lineOf 2 0 upCw))).1, by decide +kernel⟩
theorem met_RingForwardsAndFolds_4 : ∃ (s : State) (p : Fin 5) (l : Fin 2) (rx : List Int) (m : Nat) (w : List Nat) (cw : List Byte), (s.sys.inReset = false) ∧ (p.val < 4 ∧ s.laneState p l = Lane.up) ∧ (m = s.streamOf p l ∧ w = lineRaw p m (s.symbolsIn p l rx).1 ∧ cw = payloadOf w) ∧ ((decodeLine w).2 = some 0 ∧ payloadOf (decodeLine w).1 = cw) ∧ (s.portDown p = false) ∧ (hchkOk cw = true ∧ (hdrOf cw).typ ≠ Ty.idle ∧ (hdrOf cw).typ ≠ Ty.bulk) ∧ (s.removes (Nat.ble 2 p) (p.val % 2 == 0) (hdrOf cw) = true ∧ s.consumes (hdrOf cw) = true) :=
  ⟨onRing cell, 3, 1, levelsOf false false 0 (lineOf 2 1 dnCw), 1, lineRaw 3 1 ((onRing cell).symbolsIn 3 1 (levelsOf false false 0 (lineOf 2 1 dnCw))).1, dnCw, by decide +kernel⟩
theorem met_RingForwardsAndFolds_5 : ∃ (s : State) (p : Fin 5) (l : Fin 2) (rx : List Int) (m : Nat) (w : List Nat) (cw : List Byte), (s.sys.inReset = false) ∧ (p.val < 4 ∧ s.laneState p l = Lane.up) ∧ (m = s.streamOf p l ∧ w = lineRaw p m (s.symbolsIn p l rx).1 ∧ cw = payloadOf w) ∧ ((decodeLine w).2 = some 0) ∧ (s.portDown p = false) ∧ (hchkOk cw = true ∧ (hdrOf cw).typ ≠ Ty.idle ∧ (hdrOf cw).typ ≠ Ty.nbr) ∧ (s.removes (Nat.ble 2 p) (p.val % 2 == 0) (hdrOf cw) = false) ∧ (s.aged (hdrOf cw).typ (hdrOf cw).tag = true) :=
  ⟨((onRing cell).put F.IMG_ADM_STAT_ADM 2).wrN R.TIM_SCN 127, 0, 0, levelsOf false false 0 (lineOf 1 0 upCw), 0, lineRaw 0 0 ((onRing cell).symbolsIn 0 0 (levelsOf false false 0 (lineOf 1 0 upCw))).1, upCw, by decide +kernel⟩
theorem met_RingForwardsAndFolds_6 : ∃ (cw : List Byte), (cw.length = 190) :=
  ⟨upCw, by decide +kernel⟩
theorem met_RingForwardsAndFolds_7 : ∃ (s : State) (p : Fin 4), (s.sys.inReset = false ∧ s.raises = []) ∧ (s.portDown p = true ∧ (s.port p).switching = false) ∧ (s.ringState (Nat.ble 2 p) = RingSt.thru) :=
  ⟨(onRing cell).setLaneState 3 1 4, 3, by decide +kernel⟩
theorem met_RingForwardsAndFolds_8 : ∃ (s : State) (r : Ring), (s.sys.inReset = false) ∧ (s.isPrimary = true) ∧ (s.unfoldOf (r == .y) = none) ∧ (s.healed (r == .y) = true) :=
  ⟨{ (onRing primTab).setFlag F.IMG_STAT_STN_PB true with rng := { raw := [(0x10, 0x11FFFFFF), (0x11, 0xFF10FFFF)] } }, .y, by decide +kernel⟩
theorem met_RingForwardsAndFolds_9 : ∃ (s : State) (r : Ring), (s.sys.inReset = false) ∧ (s.isHead = true ∧ s.isPrimary = false) ∧ (s.folded (r == .y) = true) ∧ (s.portDown (outPort (r == .y) true) = false ∧ s.portDown (outPort (r == .y) false) = false) :=
  ⟨((onRing prim).put F.DPX_STAT_STATE 4).put F.RNG_STAT_X_STATE 3, .x, by decide +kernel⟩
theorem met_RingForwardsAndFolds_10 : ∃ (s : State), (s.isHead = false) :=
  ⟨cell, by decide +kernel⟩
theorem met_RingForwardsAndFolds_11 : ∃ (s : State) (a : Arrival), (s.sys.inReset = false) ∧ (s.rng.rx.find? (Arrival.is Ty.nbr) = some a) ∧ (cwValid Ty.nbr a.cw a.uncorr = true) :=
  ⟨{ onRing cell with rng := { rx := [⟨1, 0, nbrCw, nbrCw, false, 0⟩] } }, ⟨1, 0, nbrCw, nbrCw, false, 0⟩, by decide +kernel⟩
theorem met_RingForwardsAndFolds_12 : ∃ (s : State), (s.sys.inReset = false) :=
  ⟨cell.wrN R.RNG_CNT_FOLD 9, by decide +kernel⟩
theorem met_UpWaveAndDeadline_1 : ∃ (s : State) (u : State), (s.sys.inReset = false) ∧ (s.running = true ∧ s.stage ≠ Stage.refused ∧ s.inCycleS = false) ∧ (u = s.runIn 6250) ∧ (u.isHead = true) :=
  ⟨onRing prim, (onRing prim).runIn 6250, by decide +kernel⟩
theorem met_UpWaveAndDeadline_2 : ∃ (s : State) (u : State), (s.sys.inReset = false) ∧ (s.running = true ∧ s.stage ≠ Stage.refused ∧ s.inCycleS = false) ∧ (u = s.runIn 6250) ∧ (u.isMember = true) :=
  ⟨{ onRing cell with rng := { wordX := some 4, wordY := some 9 } }, State.runIn { onRing cell with rng := { wordX := some 4, wordY := some 9 } } 6250, by decide +kernel⟩
theorem met_UpWaveAndDeadline_3 : ∃ (s : State) (a : Arrival) (it : RawItem), (s.sys.inReset = false ∧ s.raises = []) ∧ (s.isHead = true ∧ s.admitted = true ∧ s.dpx.tup = false) ∧ (s.rng.rx.find? (Arrival.is Ty.up) = some a) ∧ (cwValid Ty.up a.cw a.uncorr = true ∧ (hdrOf a.cw).tag = s.scn.toNat % 256) ∧ (s.memberPositions.contains (hdrOf a.cw).src = true) ∧ (itemsOf a.cw = [it] ∧ sealOk it (hdrOf a.cw).src (s.scn.toNat % 256) = true ∧ it.idx < 0xFF00) ∧ (s.uplink (hdrOf a.cw).src it.idx = none) :=
  ⟨upNode upCw, ⟨0, 0, upCw, upCw, false, 0⟩, (itemsOf upCw).headD ⟨0, 0, 0⟩, by decide +kernel⟩
theorem met_UpWaveAndDeadline_4 : ∃ (s : State) (a : Arrival) (it : RawItem), (s.sys.inReset = false ∧ s.raises = []) ∧ (s.isHead = true ∧ s.admitted = true ∧ s.dpx.tup = false) ∧ (s.rng.rx.find? (Arrival.is Ty.up) = some a) ∧ (cwValid Ty.up a.cw a.uncorr = true ∧ (hdrOf a.cw).tag = s.scn.toNat % 256) ∧ (s.memberPositions.contains (hdrOf a.cw).src = true) ∧ (itemsOf a.cw = [it] ∧ sealOk it (hdrOf a.cw).src (s.scn.toNat % 256) = false) :=
  ⟨upNode upBad, ⟨0, 0, upBad, upBad, false, 0⟩, (itemsOf upBad).headD ⟨0, 0, 0⟩, by decide +kernel⟩
theorem met_UpWaveAndDeadline_5 : ∃ (s : State) (a : Arrival) (it : RawItem) (x : Word), (s.sys.inReset = false ∧ s.raises = []) ∧ (s.isHead = true ∧ s.admitted = true ∧ s.dpx.tup = false) ∧ (s.rng.rx.find? (Arrival.is Ty.up) = some a) ∧ (cwValid Ty.up a.cw a.uncorr = true ∧ (hdrOf a.cw).tag = s.scn.toNat % 256) ∧ (s.memberPositions.contains (hdrOf a.cw).src = true) ∧ (itemsOf a.cw = [it] ∧ sealOk it (hdrOf a.cw).src (s.scn.toNat % 256) = true ∧ it.idx < 0xFF00) ∧ (s.uplink (hdrOf a.cw).src it.idx = some x ∧ x ≠ it.value) :=
  ⟨{ upNode upCw with rng := { upItems := [⟨0x10, 7, 0, 6⟩], rx := [⟨0, 0, upCw, upCw, false, 0⟩] } }, ⟨0, 0, upCw, upCw, false, 0⟩, (itemsOf upCw).headD ⟨0, 0, 0⟩, 6, by decide +kernel⟩
theorem met_UpWaveAndDeadline_6 : ∃ (s : State) (u : State), (s.sys.inReset = false) ∧ (s.isHead = true ∧ s.dpx.tup = false ∧ s.inCycleS = false) ∧ (u = s.uplinkTaken) :=
  ⟨(onRing primTab).setMember 0x10 { adm := 2, stage := 8 }, State.uplinkTaken ((onRing primTab).setMember 0x10 { adm := 2, stage := 8 }), by decide +kernel⟩
theorem met_DownWaveAndAcknowledge_1 : ∃ (s : State) (u : State), (s.sys.inReset = false) ∧ (s.isPrimary = true ∧ s.inService = true ∧ s.inCycleS = false) ∧ (u = (s.runIn (s.ringOfs F.RNG_TIM_DN_PB_T F.RNG_TIM_DN_T)).balLate) ∧ (u.dpx.claimHb = false) :=
  ⟨downNode, (downNode.runIn (downNode.ringOfs F.RNG_TIM_DN_PB_T F.RNG_TIM_DN_T)).balLate, by decide +kernel⟩
theorem met_DownWaveAndAcknowledge_2 : ∃ (s : State) (u : State) (a : Arrival) (it : RawItem), (s.sys.inReset = false ∧ s.raises = []) ∧ (s.isMember = true ∧ s.running = true ∧ s.dpx.hasTier = true) ∧ (s.rng.rx.find? (Arrival.is Ty.dn) = some a ∧ u = s.tookRx a) ∧ (cwValid Ty.dn a.cw a.uncorr = true ∧ (hdrOf a.cw).dst = s.pos ∧ (hdrOf a.cw).src = s.obeyed) ∧ ((hdrOf a.cw).tag = (s.scn.toNat + 1) % 256) ∧ (itemsOf a.cw = [it] ∧ sealOk it (hdrOf a.cw).src ((s.scn.toNat + 1) % 256) = true ∧ (it.idx < 0xFE13 ∨ 0xFE16 < it.idx)) ∧ ((s.rng.staged.any fun e => e.origin == (hdrOf a.cw).src && e.idx == it.idx && e.scn == (s.scn.toNat + 1) % 256) = false) :=
  ⟨dnNode, dnNode.tookRx ⟨2, 0, dnCw, dnCw, false, 0⟩, ⟨2, 0, dnCw, dnCw, false, 0⟩, (itemsOf dnCw).headD ⟨0, 0, 0⟩, by decide +kernel⟩
theorem met_DownWaveAndAcknowledge_3 : ∃ (s : State) (a : Arrival) (it : RawItem), (s.sys.inReset = false ∧ s.raises = []) ∧ (s.isMember = true ∧ s.running = true ∧ s.dpx.hasTier = true) ∧ (s.rng.rx.find? (Arrival.is Ty.dn) = some a) ∧ (cwValid Ty.dn a.cw a.uncorr = true ∧ (hdrOf a.cw).dst = s.pos ∧ (hdrOf a.cw).src = s.obeyed) ∧ ((hdrOf a.cw).tag = (s.scn.toNat + 1) % 256) ∧ (itemsOf a.cw = [it] ∧ sealOk it (hdrOf a.cw).src ((s.scn.toNat + 1) % 256) = true ∧ it.idx = Idx.unfoldX) ∧ ((s.rng.staged.any fun e => e.origin == (hdrOf a.cw).src && e.idx == it.idx && e.scn == (s.scn.toNat + 1) % 256) = false) ∧ (s.folded false = true ∧ s.portDown 0 = false ∧ s.portDown 1 = false) :=
  ⟨{ (mbr.put F.RNG_STAT_X_STATE 3) with rng := { rx := [⟨2, 0, unfCw, unfCw, false, 0⟩] } }, ⟨2, 0, unfCw, unfCw, false, 0⟩, (itemsOf unfCw).headD ⟨0, 0, 0⟩, by decide +kernel⟩
theorem met_DownWaveAndAcknowledge_4 : ∃ (s : State) (u : State) (a : Arrival), (s.sys.inReset = false) ∧ (s.isMember = true ∧ s.running = true ∧ s.dpx.hasTier = true) ∧ (s.rng.rx.find? (Arrival.is Ty.dn) = some a ∧ u = s.tookRx a) ∧ (hchkOk a.raw = true ∧ (hdrOf a.raw).typ = Ty.dn ∧ (hdrOf a.raw).dst = s.pos) ∧ (cwValid Ty.dn a.cw a.uncorr = true ∧ (hdrOf a.cw).dst = s.pos ∧ (hdrOf a.cw).src ≠ s.obeyed) :=
  ⟨dnNode.put F.DPX_MBR_STAT_OBEY 1, (dnNode.put F.DPX_MBR_STAT_OBEY 1).tookRx ⟨2, 0, dnCw, dnCw, false, 0⟩, ⟨2, 0, dnCw, dnCw, false, 0⟩, by decide +kernel⟩
theorem met_DownWaveAndAcknowledge_5 : ∃ (s : State) (u : State) (a : Arrival) (it : RawItem), (s.sys.inReset = false ∧ s.raises = []) ∧ (s.isMember = true ∧ s.running = true ∧ s.dpx.hasTier = true) ∧ (s.rng.rx.find? (Arrival.is Ty.dn) = some a ∧ u = s.tookRx a) ∧ (cwValid Ty.dn a.cw a.uncorr = true ∧ (hdrOf a.cw).dst = s.pos ∧ (hdrOf a.cw).src = s.obeyed) ∧ ((hdrOf a.cw).tag = s.scn.toNat % 256) ∧ (itemsOf a.cw = [it] ∧ sealOk it (hdrOf a.cw).src (s.scn.toNat % 256) = true) ∧ ((s.rng.inForce.any fun e => e.origin == (hdrOf a.cw).src && e.idx == it.idx && e.scn == s.scn.toNat % 256) = false) :=
  ⟨dnNode.wrN R.TIM_SCN 1, (dnNode.wrN R.TIM_SCN 1).tookRx ⟨2, 0, dnCw, dnCw, false, 0⟩, ⟨2, 0, dnCw, dnCw, false, 0⟩, (itemsOf dnCw).headD ⟨0, 0, 0⟩, by decide +kernel⟩
theorem met_DownWaveAndAcknowledge_6 : ∃ (s : State) (a : Arrival) (it : RawItem), (s.sys.inReset = false ∧ s.raises = []) ∧ (s.isHead = true) ∧ (s.rng.rx.find? (Arrival.is Ty.ack) = some a) ∧ (cwValid Ty.ack a.cw a.uncorr = true ∧ (hdrOf a.cw).tag = s.scn.toNat % 256) ∧ (s.memberPositions.contains (hdrOf a.cw).src = true) ∧ (itemsOf a.cw = [it] ∧ sealOk it (hdrOf a.cw).src (s.scn.toNat % 256) = true) ∧ ((s.rng.status.any fun e => e.origin == (hdrOf a.cw).src && e.idx == it.idx && e.scn == s.scn.toNat) = false) :=
  ⟨{ primTab with rng := { rx := [⟨0, 0, ackCw, ackCw, false, 0⟩] } }, ⟨0, 0, ackCw, ackCw, false, 0⟩, (itemsOf ackCw).headD ⟨0, 0, 0⟩, by decide +kernel⟩
theorem met_DownWaveAndAcknowledge_7 : ∃ (s : State) (a : Arrival) (it : RawItem) (e : Item), (s.sys.inReset = false ∧ s.raises = []) ∧ (s.isHead = true) ∧ (s.rng.rx.find? (Arrival.is Ty.ack) = some a) ∧ (cwValid Ty.ack a.cw a.uncorr = true ∧ (hdrOf a.cw).tag = s.scn.toNat % 256) ∧ (s.memberPositions.contains (hdrOf a.cw).src = true) ∧ (itemsOf a.cw = [it] ∧ sealOk it (hdrOf a.cw).src (s.scn.toNat % 256) = true) ∧ (s.rng.status.find? (fun e => e.origin == (hdrOf a.cw).src && e.idx == it.idx && e.scn == s.scn.toNat) = some e ∧ e.value ≠ it.value) :=
  ⟨{ primTab with rng := { rx := [⟨0, 0, ackCw, ackCw, false, 0⟩], status := [⟨0x10, 7, 0, 4⟩] } }, ⟨0, 0, ackCw, ackCw, false, 0⟩, (itemsOf ackCw).headD ⟨0, 0, 0⟩, ⟨0x10, 7, 0, 4⟩, by decide +kernel⟩
theorem met_BulkFlows_1 : ∃ (s : State) (p : Fin 4) (cw : List Byte) (q : List (List Byte)), (s.sys.inReset = false) ∧ (s.portDown p = false) ∧ (Bank.at [] s.rng.transit p = cw :: q) :=
  ⟨{ mbr with rng := { transit := [(3, [upCw])] } }, 3, upCw, [], by decide +kernel⟩
theorem met_BulkFlows_2 : ∃ (s : State) (p : Fin 4) (cw : List Byte) (q : List (List Byte)), (s.sys.inReset = false) ∧ (s.portDown p = false) ∧ (Bank.at [] s.rng.transit p = cw :: q) :=
  ⟨{ mbr with rng := { transit := [(3, [upCw])] } }, 3, upCw, [], by decide +kernel⟩
theorem met_BulkFlows_3 : ∃ (s : State) (p : Fin 4) (f : Flow) (c : TxCw), (s.sys.inReset = false ∧ s.running = true) ∧ (s.portDown p = false) ∧ (Bank.at [] s.rng.transit p = []) ∧ (s.rng.flows = [f] ∧ f.ready = true ∧ f.txQueue[f.txSent]? = some c) ∧ (s.bulkRoute f.peer = some (Nat.ble 2 p, p.val % 2 == 1)) :=
  ⟨txNode, 1, { peer := 1, stream := 4, credits := 2, rxCredits := 3, txQueue := [⟨true, true, [7, 8], none⟩] }, ⟨true, true, [7, 8], none⟩, by decide +kernel⟩
theorem met_BulkFlows_4 : ∃ (s : State) (a : Arrival) (cw : List Byte), (s.sys.inReset = false) ∧ (s.rng.rx.find? (Arrival.is Ty.bulk) = some a ∧ a.cw = cw) ∧ (cwValid Ty.bulk cw a.uncorr = true ∧ byteAt cw 2 = s.pos) ∧ (byteAt cw 8 = 0 ∨ byteAt cw 8 = 4 ∨ 6 ≤ byteAt cw 8) ∧ (bit (byteAt cw 9) 2 = false ∧ leAt cw 10 2 = (s.flow (byteAt cw 1) (byteAt cw 8)).rxNext) :=
  ⟨{ mbr with rng := { rx := [⟨0, 1, bulkCw, bulkCw, false, 0⟩] } }, ⟨0, 1, bulkCw, bulkCw, false, 0⟩, bulkCw, by decide +kernel⟩
theorem met_BulkFlows_5 : ∃ (s : State) (a : Arrival) (cw : List Byte), (s.sys.inReset = false) ∧ (s.rng.rx.find? (Arrival.is Ty.bulk) = some a ∧ a.cw = cw) ∧ (cwValid Ty.bulk cw a.uncorr = true ∧ byteAt cw 2 = s.pos) ∧ (bit (byteAt cw 9) 2 = false ∧ leAt cw 10 2 ≠ (s.flow (byteAt cw 1) (byteAt cw 8)).rxNext) :=
  ⟨{ mbr with rng := { flows := [{ peer := 1, stream := 4, credits := 2, rxNext := 9 }], rx := [⟨0, 1, bulkCw, bulkCw, false, 0⟩] } }, ⟨0, 1, bulkCw, bulkCw, false, 0⟩, bulkCw, by decide +kernel⟩
theorem met_BulkFlows_6 : ∃ (s : State) (dst : BitVec 8) (stream : BitVec 8), (s.sys.inReset = false) ∧ (0 < (s.flow dst.toNat stream.toNat).txSent) :=
  ⟨{ mbr with rng := { flows := [{ peer := 1, stream := 4, credits := 2, txSent := 1 }] } }, 1, 4, by decide +kernel⟩
theorem met_BulkFlows_7 : ∃ (s : State) (dst : BitVec 8) (stream : BitVec 8) (y : Bool) (e : Bool), (s.sys.inReset = false ∧ s.running = true) ∧ (s.bulkRoute dst.toNat = some (y, e)) ∧ ((s.flow dst.toNat stream.toNat).peer = dst.toNat ∧ (s.flow dst.toNat stream.toNat).stream = stream.toNat) ∧ ((s.flow dst.toNat stream.toNat).owed = true ∨ 0 < (s.flow dst.toNat stream.toNat).rxCredits) ∧ ((s.flow dst.toNat stream.toNat).ready = false) :=
  ⟨{ mbr with rng := { flows := [{ peer := 1, stream := 4, credits := 2, rxCredits := 3 }] } }, 1, 4, false, true, by decide +kernel⟩
theorem met_RemoteRegisterAccess_1 : ∃ (s : State) (v : Word), (s.sys.inReset = false ∧ s.mastersRun .mp = true) ∧ (s.get F.RNG_RRA_STAT_STATE ≠ 1) ∧ (v.toNat / 65536 % 32 = 0 ∨ 16 < v.toNat / 65536 % 32 ∨ s.num R.RNG_RRA_ADDR % 4 ≠ 0 ∨ v.toNat % 256 = 0xFF) :=
  ⟨mbr, 0x00110001, by decide +kernel⟩
theorem met_RemoteRegisterAccess_2 : ∃ (s : State) (v : Word), (s.sys.inReset = false ∧ s.mastersRun .mp = true) ∧ (s.get F.RNG_RRA_STAT_STATE ≠ 1) ∧ (1 ≤ v.toNat / 65536 % 32 ∧ v.toNat / 65536 % 32 ≤ 16 ∧ s.num R.RNG_RRA_ADDR % 4 = 0) ∧ (v.toNat % 256 ≠ 0xFF ∧ v.toNat % 256 ≠ s.pos) :=
  ⟨mbr, 0x10020001, by decide +kernel⟩
theorem met_RemoteRegisterAccess_3 : ∃ (s : State), (s.sys.inReset = false ∧ s.mastersRun .mp = true) ∧ (s.get F.RNG_RRA_STAT_STATE = 1) :=
  ⟨mbr.put F.RNG_RRA_STAT_STATE 1, by decide +kernel⟩
theorem met_RemoteRegisterAccess_4 : ∃ (s : State) (a : Arrival) (cw : List Byte) (p : RraPend), (s.sys.inReset = false) ∧ (s.rng.rx.find? (Arrival.is Ty.bulk) = some a ∧ a.cw = cw) ∧ (cwValid Ty.bulk cw a.uncorr = true ∧ byteAt cw 2 = s.pos ∧ byteAt cw 8 = 2) ∧ (byteAt cw 9 % 8 = 3 ∧ leAt cw 10 2 = (s.flow (byteAt cw 1) 2).rxNext) ∧ (byteAt cw 6 = 12 ∧ byteAt cw 16 = 0x81 ∧ byteAt cw 17 = 1 ∧ byteAt cw 18 = 0 ∧ byteAt cw 19 = 0) ∧ (s.rng.rra = some p ∧ p.node = byteAt cw 1 ∧ p.write = false) :=
  ⟨{ rraNode with rng := { rraNode.rng with rx := [⟨0, 1, rraCw, rraCw, false, 0⟩] } }, ⟨0, 1, rraCw, rraCw, false, 0⟩, rraCw, ⟨1, false, 1, 0x40000000, 0⟩, by decide +kernel⟩
theorem met_RemoteRegisterAccess_5 : ∃ (s : State) (v : Word), (s.sys.inReset = false ∧ s.mastersRun .mp = true) ∧ (s.get F.RNG_RRA_STAT_STATE ≠ 1) ∧ (1 ≤ v.toNat / 65536 % 32 ∧ v.toNat / 65536 % 32 ≤ 16 ∧ s.num R.RNG_RRA_ADDR % 4 = 0) ∧ (v.toNat % 256 ≠ 0xFF ∧ v.toNat % 256 = s.pos) :=
  ⟨mbr, 0x00010010, by decide +kernel⟩
theorem met_RemoteRegisterAccess_6 : ∃ (s : State) (m : Master), (s.sys.inReset = false ∧ s.mastersRun m = true) ∧ (m ≠ .mp) :=
  ⟨mbr, .ha, by decide +kernel⟩
theorem met_RemoteRegisterAccess_7 : ∃ (s : State) (p : RraPend), (s.sys.inReset = false) ∧ (s.rng.rra = some p ∧ s.cycles16 p.scn = true) :=
  ⟨rraNode.wrN R.TIM_SCN 16, ⟨1, false, 1, 0x40000000, 0⟩, by decide +kernel⟩
theorem met_RemoteRegisterAccess_8 : ∃ (s : State) (p : RraPend), (s.rng.rra = some p ∧ s.cycles16 p.scn = false) :=
  ⟨rraNode.wrN R.TIM_SCN 15, ⟨1, false, 1, 0x40000000, 0⟩, by decide +kernel⟩
theorem met_ReadsThatLatch_1 : ∃ (s : State) (m : Master), (s.sys.inReset = false ∧ s.mastersRun m = true) ∧ (s.mayRead m R.SYS_VSEC_LO = true) :=
  ⟨{ cell with vault := { sec := 0x123456789ABC } }, .ha, by decide +kernel⟩
theorem met_ReadsThatLatch_2 : ∃ (s : State) (m : Master), (s.sys.inReset = false ∧ s.mastersRun m = true) ∧ (s.mayRead m R.TIM_STIME_NS = true) :=
  ⟨{ cell with tim := { stime := 0x123456789ABCDEF0 } }, .ra, by decide +kernel⟩
theorem met_ReadsThatLatch_3 : ∃ (s : State) (m : Master), (s.sys.inReset = false ∧ s.mastersRun m = true) ∧ (s.mayRead m R.TIM_TPI_FRAC = true) :=
  ⟨(cell.setFlag F.TIM_TPI_FRAC_RDY true).setFlag F.TIM_TPI_FRAC_OVR true, .mp, by decide +kernel⟩
theorem met_ReadsThatLatch_4 : ∃ (s : State) (m : Master) (k : Fin 16), (s.sys.inReset = false ∧ s.mastersRun m = true) ∧ (s.mayRead m (R.ADC_RESm_RAW k) = true) :=
  ⟨cell.wrN (R.ADC_RESm_RAW 15) 77, .ha, 15, by decide +kernel⟩
theorem met_ReadsThatLatch_5 : ∃ (s : State) (m : Master) (k : Fin 64), (s.sys.inReset = false ∧ s.mastersRun m = true) ∧ (s.mayRead m (R.MTR_ACCk_LO k) = true) ∧ ((s.mtrAcc k).acc = (s.mtrAcc k).copy) :=
  ⟨{ cell with mtr := { acc := [(63, { acc := 0x123456789A, copy := 0x123456789A })] } }, .mtr, 63, by decide +kernel⟩
theorem met_ReadsThatLatch_6 : ∃ (s : State) (m : Master) (k : Fin 64) (x : BitVec 64), (s.sys.inReset = false ∧ s.mastersRun m = true) ∧ (s.mayRead m (R.MTR_ACCk_LO k) = true) ∧ ((s.mtrAcc k).acc = (s.mtrAcc k).copy ∧ x ≠ 0 ∧ s.flag F.MTR_STAT_ACC_ERR = false) :=
  ⟨{ cell with mtr := { acc := [(63, { acc := 0x123456789A, copy := 0x123456789A })] } }, .ha, 63, 1, by decide +kernel⟩
theorem met_ReadsThatLatch_7 : ∃ (s : State) (m : Master), (s.sys.inReset = false ∧ s.mastersRun m = true) ∧ (s.mayRead m (R.DPX_HEALTH 0) = true) :=
  ⟨cell, .dpx, by decide +kernel⟩
theorem met_ReadsThatLatch_8 : ∃ (s : State) (m : Master) (r : Fin 64), (s.sys.inReset = false ∧ s.mastersRun m = true) ∧ (s.mayRead m (R.FLT_RECr_Ww r 0) = true) :=
  ⟨cell, .ha, 63, by decide +kernel⟩
theorem met_ReadsThatLatch_9 : ∃ (s : State) (m : Master) (e : Fin 64), (s.sys.inReset = false ∧ s.mastersRun m = true) ∧ (s.mayRead m (R.FLT_LEDe_Ww e 0) = true) :=
  ⟨cell, .ha, 63, by decide +kernel⟩
theorem met_RegisterAccess_1 : ∃ (s : State) (m : Master) (a : Word) (size : Fin 9), (s.sys.inReset = false ∧ s.mastersRun m = true) ∧ (inSram a.toNat = false) ∧ (size.val ≠ 4 ∨ a.toNat % 4 ≠ 0) :=
  ⟨cell, .mp, 0x40000000, 8, by decide +kernel⟩
theorem met_RegisterAccess_2 : ∃ (s : State) (m : Master) (a : Word) (size : Fin 9), (s.sys.inReset = false ∧ s.mastersRun m = true) ∧ (inSram a.toNat = false) ∧ (size.val ≠ 4 ∨ a.toNat % 4 ≠ 0) :=
  ⟨cell, .mp, 0x40000002, 4, by decide +kernel⟩
theorem met_RegisterAccess_3 : ∃ (s : State) (m : Master) (a : Word) (r : RegRow), (s.sys.inReset = false ∧ s.mastersRun m = true) ∧ (inWindow a.toNat = true ∧ a.toNat % 4 = 0) ∧ (rowOf a.toNat = some r ∧ s.mayRead m a.toNat = false) :=
  ⟨cell, .mtr, 0x40000034, (rowOf 0x40000034).getD (rowDefault), by decide +kernel⟩
theorem met_RegisterAccess_4 : ∃ (s : State) (m : Master) (a : Word), (s.sys.inReset = false ∧ s.mastersRun m = true) ∧ (inWindow a.toNat = true ∧ a.toNat % 4 = 0 ∧ rowOf a.toNat = none) :=
  ⟨cell, .mtr, 0x40000F00, by decide +kernel⟩
theorem met_RegisterAccess_5 : ∃ (s : State) (m : Master) (a : Word) (r : RegRow), (s.sys.inReset = false ∧ s.mastersRun m = true) ∧ (inWindow a.toNat = true ∧ a.toNat % 4 = 0) ∧ (rowOf a.toNat = some r ∧ s.mayRead m a.toNat = true) ∧ (blockOf a.toNat ∈ [1, 2, 6, 7, 9, 13, 15, 16, 18]) :=
  ⟨cell, .ha, 0x400F0010, (rowOf 0x400F0010).getD (rowDefault), by decide +kernel⟩
theorem met_RegisterAccess_6 : ∃ (s : State) (m : Master) (a : Word) (r : RegRow), (s.sys.inReset = false ∧ s.mastersRun m = true) ∧ (inWindow a.toNat = true ∧ a.toNat % 4 = 0 ∧ mbxWord a.toNat = none) ∧ (rowOf a.toNat = some r ∧ s.writeMask m a.toNat = 0) ∧ (a.toNat ≠ R.SYS_RST_CTRL ∧ a.toNat ≠ R.IMG_PROV ∧ a.toNat ≠ R.MEM_SCRUB_CTRL ∧ a.toNat ≠ R.MEM_REPAIR ∧ a.toNat ≠ R.PWM_CMD) ∧ (a.toNat ≠ R.RNG_RRA_CTRL ∨ s.get F.RNG_RRA_STAT_STATE ≠ 1) :=
  ⟨cell, .mtr, 0x40000034, (rowOf 0x40000034).getD (rowDefault), by decide +kernel⟩
theorem met_RegisterAccess_7 : ∃ (s : State) (m : Master) (a : Word), (s.sys.inReset = false ∧ s.mastersRun m = true) ∧ (inWindow a.toNat = true ∧ a.toNat % 4 = 0 ∧ rowOf a.toNat = none ∧ mbxWord a.toNat = none) :=
  ⟨cell, .mtr, 0x40000F00, by decide +kernel⟩
theorem met_RegisterAccess_8 : ∃ (s : State) (a : Word) (v : Word) (r : RegRow), (s.sys.inReset = false ∧ s.mastersRun .mp = true ∧ (s.sys.bootLock = false ∨ (s.num a.toNat ^^^ v.toNat) &&& r.rl = 0)) ∧ (inWindow a.toNat = true ∧ a.toNat % 4 = 0 ∧ mbxWord a.toNat = none) ∧ (rowOf a.toNat = some r ∧ s.serves a.toNat = true) ∧ (a.toNat ≠ R.SYS_RST_CTRL ∧ a.toNat ≠ R.IMG_PROV ∧ a.toNat ≠ R.RNG_RRA_CTRL ∧ (∀ n : Fin 4, a.toNat ≠ R.CLK_CKOn_CFG n)) ∧ (s.cmdWrite .mp (blockOf a.toNat) (ofsOf a.toNat) v.toNat = none) :=
  ⟨cell, 0x40050004, 0xFFFFFFFF, (rowOf 0x40050004).getD (rowDefault), by decide +kernel⟩
theorem met_RegisterAccess_9 : ∃ (s : State) (a : Word) (v : Word) (r : RegRow), (s.sys.inReset = false ∧ s.mastersRun .mp = true ∧ s.sys.bootLock = true) ∧ (inWindow a.toNat = true ∧ a.toNat % 4 = 0 ∧ mbxWord a.toNat = none) ∧ (rowOf a.toNat = some r ∧ s.serves a.toNat = true ∧ r.rw = 0 ∧ r.w1c = 0) ∧ (a.toNat ≠ R.SYS_RST_CTRL ∧ a.toNat ≠ R.IMG_PROV ∧ a.toNat ≠ R.RNG_RRA_CTRL) ∧ (s.cmdWrite .mp (blockOf a.toNat) (ofsOf a.toNat) v.toNat = none) ∧ ((s.num a.toNat ^^^ v.toNat) &&& r.rl ≠ 0) :=
  ⟨{ cell with sys := { cell.sys with bootLock := true } }, BitVec.ofNat 32 R.TIM_SC_LEN, 0xFFFFFFFF, (rowOf R.TIM_SC_LEN).getD (rowDefault), by decide +kernel⟩
theorem met_SramAccess_1 : ∃ (s : State) (m : Master) (a : Word) (size : Fin 9), (s.sys.inReset = false ∧ s.mastersRun m = true) ∧ (inSram a.toNat = true ∧ sizeOk a.toNat size = true ∧ s.mayStore m a.toNat = true) ∧ (s.eccErr (eccWord a.toNat) = none) :=
  ⟨cell, .dma, 0x20FFFFF8, 8, by decide +kernel⟩
theorem met_SramAccess_2 : ∃ (s : State) (m : Master) (a : Word) (size : Fin 9), (s.sys.inReset = false ∧ s.mastersRun m = true) ∧ (inSram a.toNat = true ∧ sizeOk a.toNat size = true ∧ s.mayRead m a.toNat = true) ∧ (s.eccErr (eccWord a.toNat) = none) :=
  ⟨cell.setByte 0x20000003 9, .dma, 0x20000002, 2, by decide +kernel⟩
theorem met_SramAccess_3 : ∃ (s : State) (m : Master) (a : Word) (size : Fin 9), (s.sys.inReset = false ∧ s.mastersRun m = true) ∧ (inSram a.toNat = true) ∧ ((size.val ≠ 1 ∧ size.val ≠ 2 ∧ size.val ≠ 4 ∧ size.val ≠ 8) ∨ a.toNat % size.val ≠ 0) :=
  ⟨cell, .mp, 0x20000002, 4, by decide +kernel⟩
theorem met_SramAccess_4 : ∃ (s : State) (m : Master) (a : Word) (size : Fin 9), (s.sys.inReset = false ∧ s.mastersRun m = true) ∧ (inSram a.toNat = true ∧ sizeOk a.toNat size = true ∧ s.mayStore m a.toNat = false) :=
  ⟨cell, .mtr, 0x20000000, 1, by decide +kernel⟩
theorem met_SramAccess_5 : ∃ (s : State) (m : Master) (a : Word) (size : Fin 9), (s.sys.inReset = false ∧ s.mastersRun m = true) ∧ (inSram a.toNat = true ∧ sizeOk a.toNat size = true ∧ s.mayRead m a.toNat = true) :=
  ⟨cell, .mp, 0x20000000, 1, by decide +kernel⟩
theorem met_ServoMeasuresAndLosses_1 : ∃ (s : State) (p : Fin 4) (t1 : BitVec 48) (t3 : BitVec 48) (t4 : BitVec 48), (s.sys.inReset = false) ∧ (s.flag (F.LNK_PORTx_STAT_UP p) = true) ∧ ((s.link p).t1 = some t1 ∧ (s.link p).t3m = some t3 ∧ (s.link p).t4 = some t4) ∧ (s.srcHost = true) :=
  ⟨{ onRing (prim.setFlag F.TIM_STAT_SRC_HOST true) with tim := { port := [(3, { t1 := some 0, t2 := 0x640000, t3m := some 0, t4 := some 0x320000 })] } }, 3, 0, 0, 0x320000, by decide +kernel⟩
theorem met_ServoMeasuresAndLosses_2 : ∃ (s : State) (p : Fin 4) (t1 : BitVec 48) (t3 : BitVec 48) (t4 : BitVec 48), (s.sys.inReset = false) ∧ (s.flag (F.LNK_PORTx_STAT_UP p) = true) ∧ ((s.link p).t1 = some t1 ∧ (s.link p).t3m = some t3 ∧ (s.link p).t4 = some t4) ∧ (s.srcHost = false ∧ s.upPort = p.val ∧ s.qualifies p = true) ∧ ((∀ q : Fin 4, q ≠ p → s.qualifies q = false)) ∧ (s.stage = Stage.full ∧ s.servo = Servo.acquire ∧ s.tim.okRun = 0) :=
  ⟨measNode, 1, 0, 0, 0x320000, by decide +kernel⟩
theorem met_ServoMeasuresAndLosses_3 : ∃ (s : State), (s.sys.inReset = false) ∧ (s.servo = Servo.locked ∧ s.srcHost = false ∧ s.get F.TIM_CTRL_NOUP_MAX ≤ s.tim.noUp) :=
  ⟨{ cell.put F.TIM_STAT_STATE 2 with tim := { noUp := 15 } }, by decide +kernel⟩
theorem met_ServoMeasuresAndLosses_4 : ∃ (s : State), (s.servo ≠ Servo.locked ∨ s.srcHost = true ∨ s.tim.noUp < s.get F.TIM_CTRL_NOUP_MAX) :=
  ⟨cell.put F.TIM_STAT_STATE 3, by decide +kernel⟩
theorem met_ServoMeasuresAndLosses_5 : ∃ (s : State) (u : State), (s.sys.inReset = false) ∧ (s.servo = Servo.hold ∧ s.stage = Stage.full) ∧ (u = s.runUp (s.tim.holdAt + msTicks 1000 + 1)) :=
  ⟨cell.put F.TIM_STAT_STATE 3, (cell.put F.TIM_STAT_STATE 3).runUp (cell.tim.holdAt + msTicks 1000 + 1), by decide +kernel⟩
theorem met_ServoMeasuresAndLosses_6 : ∃ (s : State), (s.sys.inReset = false) ∧ (s.tim.xRun = 16 ∧ s.flag F.TIM_STAT_XCHK = false) :=
  ⟨crossNode, by decide +kernel⟩
theorem met_ServoMeasuresAndLosses_7 : ∃ (s : State), (s.tim.xRun < 16) :=
  ⟨cell, by decide +kernel⟩
theorem met_ServoMeasuresAndLosses_8 : ∃ (s : State), (s.sys.inReset = false) ∧ (s.tim.stime < 2 ^ 72) :=
  ⟨{ cell.setFlag F.TIM_STAT_WRAP true with tim := { stime := 2 ^ 72 - 1 } }, by decide +kernel⟩
theorem met_ServoMeasuresAndLosses_9 : ∃ (s : State) (m : Master), (s.sys.inReset = false ∧ s.mastersRun m = true) ∧ (s.mayClear m = true) ∧ (s.srcHost = false) :=
  ⟨cell, .ha, by decide +kernel⟩
theorem met_ServoMeasuresAndLosses_10 : ∃ (s : State) (m : Master) (v : Word), (s.sys.inReset = false ∧ s.mastersRun m = true) ∧ (s.mayClear m = true) ∧ (s.srcHost = true) ∧ (s.stepsNow (Frac.mk' (sgn 32 v.toNat) 16) true = true) ∧ (sgn 32 v.toNat > 0) ∧ (s.tim.stime < 2 ^ 72 ∧ 1 ≤ s.tim.wraps) :=
  ⟨((node 1 0 7).setFlag F.TIM_STAT_SRC_HOST true).setFlag F.IMG_STAT_STN_PB true, .mp, 0x7FFFFFFF, by decide +kernel⟩
theorem met_ServoMeasuresAndLosses_11 : ∃ (s : State) (u : State), (s.sys.inReset = false) ∧ (s.srcHost = true ∧ s.flag F.TIM_STAT_HOST_TO = false) ∧ (u = s.runUp (s.tim.lastOfs.getD s.tim.srcAt + msTicks (1000 * s.get F.TIM_CTRL_HOST_TO))) :=
  ⟨prim.setFlag F.TIM_STAT_SRC_HOST true, (prim.setFlag F.TIM_STAT_SRC_HOST true).runUp (prim.tim.srcAt + msTicks (1000 * prim.get F.TIM_CTRL_HOST_TO)), by decide +kernel⟩
theorem met_TimePulses_1 : ∃ (s : State) (n : Fin 4) (v : Word), (s.sys.inReset = false) ∧ (s.tpoOff n = false ∧ s.flag (F.TIM_TPOn_CTRL_EN n) = false) ∧ (v.getLsbD 0 = true ∧ (v.getLsbD 1 = true → 100 ≤ s.num (R.TIM_TPOn_PER n) ∧ s.num (R.TIM_TPOn_WIDTH n) + 10 ≤ s.num (R.TIM_TPOn_PER n))) ∧ (10 ≤ s.num (R.TIM_TPOn_WIDTH n)) ∧ (1 ≤ (s.num (R.TIM_TPOn_START n) + 2 ^ 32 - s.stimeNs % 2 ^ 32) % 2 ^ 32 ∧ (s.num (R.TIM_TPOn_START n) + 2 ^ 32 - s.stimeNs % 2 ^ 32) % 2 ^ 32 < 2 ^ 31) :=
  ⟨(cell.wrN (R.TIM_TPOn_START 3) 100).wrN (R.TIM_TPOn_WIDTH 3) 10, 3, 5, by decide +kernel⟩
theorem met_TimePulses_2 : ∃ (s : State) (n : Fin 4) (v : Word), (s.sys.inReset = false) ∧ (s.tpoOff n = false ∧ s.flag (F.TIM_TPOn_CTRL_EN n) = false) ∧ (v.getLsbD 0 = true ∧ v.getLsbD 1 = true) ∧ (10 ≤ s.num (R.TIM_TPOn_WIDTH n) ∧ 100 ≤ s.num (R.TIM_TPOn_PER n) ∧ s.num (R.TIM_TPOn_WIDTH n) + 10 ≤ s.num (R.TIM_TPOn_PER n)) ∧ (s.tpoOrigin n ≤ s.nsExt) :=
  ⟨{ (((cell.wrN (R.TIM_TPOn_START 2) 100).wrN (R.TIM_TPOn_WIDTH 2) 10).wrN (R.TIM_TPOn_PER 2) 150) with tim := { stime := 1000 * 2 ^ 40 } }, 2, 3, by decide +kernel⟩
theorem met_TimePulses_3 : ∃ (s : State) (n : Fin 4) (v : Word), (s.sys.inReset = false) ∧ (s.tpoOff n = false ∧ s.flag (F.TIM_TPOn_CTRL_EN n) = false) ∧ (v.getLsbD 0 = true ∧ v.getLsbD 1 = false) ∧ (10 ≤ s.num (R.TIM_TPOn_WIDTH n)) ∧ ((s.num (R.TIM_TPOn_START n) + 2 ^ 32 - s.stimeNs % 2 ^ 32) % 2 ^ 32 = 0 ∨ 2 ^ 31 ≤ (s.num (R.TIM_TPOn_START n) + 2 ^ 32 - s.stimeNs % 2 ^ 32) % 2 ^ 32) :=
  ⟨(cell.wrN (R.TIM_TPOn_START 0) 0).wrN (R.TIM_TPOn_WIDTH 0) 10, 0, 1, by decide +kernel⟩
theorem met_TimePulses_4 : ∃ (s : State) (n : Fin 4) (v : Word), (s.sys.inReset = false) ∧ (s.tpoOff n = false ∧ s.flag (F.TIM_TPOn_CTRL_EN n) = false) ∧ (v.getLsbD 0 = true) ∧ (s.num (R.TIM_TPOn_WIDTH n) < 10) :=
  ⟨cell, 0, 3, by decide +kernel⟩
theorem met_TimePulses_5 : ∃ (s : State) (u : State) (n : Fin 4) (k : Nat), (s.sys.inReset = false) ∧ ((s.tpo n).next = some k) ∧ (u = s.runAhead (k * stimeUnit - s.stimeExt)) :=
  ⟨cell.setTpo 2 { next := some 281474976710756 }, (cell.setTpo 2 { next := some 281474976710756 }).runAhead (281474976710756 * stimeUnit - cell.stimeExt), 2, 281474976710756, by decide +kernel⟩
theorem met_TimePulses_6 : ∃ (s : State) (u : State) (n : Fin 4), (s.sys.inReset = false) ∧ ((s.tpo n).active = true ∧ (s.tpo n).waiting = []) ∧ (u = s.runAhead ((s.tpo n).endAt - s.tim.acc)) :=
  ⟨cell.setTpo 2 { active := true }, (cell.setTpo 2 { active := true }).runAhead 0, 2, by decide +kernel⟩
theorem met_TimePulses_7 : ∃ (s : State) (u : State) (n : Fin 4) (r : TpoReg) (v : Word), (s.sys.inReset = false) ∧ ((s.tpo n).active = true ∧ (s.tpo n).waiting = [(r, v)]) ∧ (u = s.runAhead ((s.tpo n).endAt - s.tim.acc)) :=
  ⟨cell.setTpo 2 { active := true, waiting := [(.per, 200)] }, (cell.setTpo 2 { active := true, waiting := [(.per, 200)] }).runAhead 0, 2, .per, 200, by decide +kernel⟩
theorem met_TimePulses_8 : ∃ (s : State) (n : Fin 4), (s.sys.inReset = false) ∧ (s.flag (F.TIM_TPOn_CTRL_EN n) = true ∧ (s.tpo n).active = true) :=
  ⟨(cell.setFlag (F.TIM_TPOn_CTRL_EN 2) true).setTpo 2 { active := true }, 2, by decide +kernel⟩
theorem met_TimePulses_9 : ∃ (s : State) (n : Fin 4), (s.sys.inReset = false) ∧ (s.flag (F.TIM_TPOn_CTRL_EN n) = false ∨ (s.tpo n).active = false) :=
  ⟨cell, 3, by decide +kernel⟩
theorem met_TimePulses_10 : ∃ (s : State) (rising : Bool) (before : Nat) (after : Nat), (s.sys.inReset = false) ∧ (s.flag F.TIM_TPI_CTRL_EN = true ∧ s.flag F.TIM_TPI_CTRL_EDGE = !rising) ∧ (20 ≤ before ∧ 20 ≤ after) ∧ (s.flag F.TIM_TPI_FRAC_RDY = false) :=
  ⟨{ cell.setFlag F.TIM_TPI_CTRL_EN true with tim := { stime := 0x123456789ABCDEF0 } }, true, 20, 20, by decide +kernel⟩
theorem met_TimePulses_11 : ∃ (s : State) (rising : Bool) (before : Nat) (after : Nat), (s.sys.inReset = false) ∧ (s.flag F.TIM_TPI_CTRL_EN = true ∧ s.flag F.TIM_TPI_CTRL_EDGE = !rising) ∧ (20 ≤ before ∧ 20 ≤ after) ∧ (s.flag F.TIM_TPI_FRAC_RDY = true) :=
  ⟨(cell.setFlag F.TIM_TPI_CTRL_EN true).setFlag F.TIM_TPI_FRAC_RDY true, true, 30, 20, by decide +kernel⟩
theorem met_TimePulses_12 : ∃ (before : Nat) (after : Nat), (before < 20 ∨ after < 20) :=
  ⟨19, 20, by decide +kernel⟩
theorem met_MeterSamplesAndCycles_1 : ∃ (s : State) (u : State), (s.sys.inReset = false) ∧ (s.mtr.on = true ∧ s.mtrDc = true ∧ s.mtr.count + 1 < 320) ∧ (u = s.sampleDue) :=
  ⟨mtrDcNode, mtrDcNode.sampleDue, by decide +kernel⟩
theorem met_MeterSamplesAndCycles_2 : ∃ (s : State) (u : State), (s.sys.inReset = false) ∧ (s.mtr.on = true ∧ s.mtrDc = false) ∧ (u = s.sampleDue) ∧ (u.flag F.MTR_STAT_LOCKED = true ∧ u.voltsOk = 0) :=
  ⟨mtrAcNode.setFlag F.MTR_STAT_LOCKED true, (mtrAcNode.setFlag F.MTR_STAT_LOCKED true).sampleDue, by decide +kernel⟩
theorem met_MeterSamplesAndCycles_3 : ∃ (s : State) (u : State) (x : Nat), (s.sys.inReset = false) ∧ (s.mtr.on = true ∧ s.mtrDc = false ∧ s.mtr.count ≠ 0 ∧ s.mtr.tc ≠ 0) ∧ (u = s.sampleDue) ∧ (u.flag F.MTR_STAT_LOCKED = true ∧ u.get F.MTR_STAT_REF_PH < 3 ∧ bit u.voltsOk (u.get F.MTR_STAT_REF_PH) = true) ∧ (s.mtr.crossAt = some x ∧ cycShort ≤ u.tim.acc - x ∧ u.tim.acc - x ≤ cycLong) :=
  ⟨mtrRefNode, mtrRefNode.sampleDue, 0, by decide +kernel⟩
theorem met_MeterSamplesAndCycles_4 : ∃ (s : State) (u : State), (s.sys.inReset = false) ∧ (s.mtr.on = true ∧ s.mtrDc = false ∧ s.flag F.MTR_STAT_LOCKED = false) ∧ (s.mtr.count ≠ 0 ∧ s.mtr.tc ≠ 0) ∧ (u = s.runAhead (1000000000 * stimeUnit / (if s.flag F.MTR_CFG_NOM then 60 else 50) - (s.tim.acc - s.mtr.cycAt))) :=
  ⟨mtrAcNode, mtrAcNode.runAhead (1000000000 * stimeUnit / 50), by decide +kernel⟩
theorem met_MeterSamplesAndCycles_5 : ∃ (s : State) (c : List MtrPqs) (q : List (List MtrPqs)), (s.sys.inReset = false) ∧ (s.mtr.cycles = c :: q) ∧ (AccAgree s) :=
  ⟨mtrUpNode, [⟨0x40F86A0000000000, 0xC0F86A0000000000, 0x4100000000000000⟩, zeroPqs], [], by decide +kernel⟩
theorem met_MeterSamplesAndCycles_6 : ∃ (s : State) (c : List MtrPqs) (q : List (List MtrPqs)) (x : BitVec 64), (s.sys.inReset = false) ∧ (s.mtr.cycles = c :: q) ∧ (AccAgree s ∧ x ≠ 0) :=
  ⟨mtrUpNode, [⟨0x40F86A0000000000, 0xC0F86A0000000000, 0x4100000000000000⟩, zeroPqs], [], 1, by decide +kernel⟩
theorem met_PulsesAndSnapshots_1 : ∃ (s : State) (u : State) (n : Fin 4), (s.sys.inReset = false) ∧ (s.flag (F.MTR_PLSn_CFG_EN n) = true ∧ 0 < (s.pls n).pending ∧ (s.pls n).active = false) ∧ (u = s.runUp (s.pls n).freeAt) :=
  ⟨{ cell.setFlag (F.MTR_PLSn_CFG_EN 3) true with mtr := { pls := [(3, { pending := 1, freeAt := 9 })] } }, State.runUp { cell.setFlag (F.MTR_PLSn_CFG_EN 3) true with mtr := { pls := [(3, { pending := 1, freeAt := 9 })] } } 9, 3, by decide +kernel⟩
theorem met_PulsesAndSnapshots_2 : ∃ (s : State) (u : State) (n : Fin 4), (s.sys.inReset = false) ∧ ((s.pls n).active = true) ∧ (u = s.runUp ((s.pls n).edgeAt + s.plsWidth n)) :=
  ⟨{ cell with mtr := { pls := [(3, { active := true })] } }, State.runUp { cell with mtr := { pls := [(3, { active := true })] } } (cell.plsWidth 3), 3, by decide +kernel⟩
theorem met_PulsesAndSnapshots_3 : ∃ (s : State) (m : Master), (s.sys.inReset = false ∧ s.mastersRun m = true) ∧ (s.mayClear m = true ∨ m = .mtr) :=
  ⟨cell, .ha, by decide +kernel⟩
theorem met_PulsesAndSnapshots_4 : ∃ (s : State) (m : Master), (s.sys.inReset = false ∧ s.mastersRun m = true) ∧ (s.mayClear m = true ∨ m = .mtr) :=
  ⟨cell, .mp, by decide +kernel⟩
theorem met_PulsesAndSnapshots_5 : ∃ (s : State) (m : Master), (s.sys.inReset = false ∧ s.mastersRun m = true) ∧ (s.mayClear m = true ∨ m = .mtr) ∧ (AccAgree s) :=
  ⟨{ cell with mtr := { acc := [(63, { acc := 0x123456789A, copy := 0x123456789A })] } }, .ha, by decide +kernel⟩
theorem met_PulsesAndSnapshots_6 : ∃ (s : State) (m : Master), (s.sys.inReset = false ∧ s.mastersRun m = true) ∧ (s.mayClear m = true ∨ m = .mtr) ∧ (s.mtr.jobs = [] ∧ AccAgree s) :=
  ⟨cell, .ha, by decide +kernel⟩
theorem met_PulsesAndSnapshots_7 : ∃ (s : State) (m : Master), (s.sys.inReset = false ∧ s.mastersRun m = true) ∧ (s.mayClear m = true ∨ m = .mtr) ∧ (s.mtr.jobs ≠ []) :=
  ⟨{ cell with mtr := { jobs := [.record false] } }, .ha, by decide +kernel⟩
theorem met_PulsesAndSnapshots_8 : ∃ (s : State), (s.sys.inReset = false) ∧ (s.mtr.jobs = [.record false]) :=
  ⟨{ cell with mtr := { jobs := [.record false] } }, by decide +kernel⟩
theorem met_PulsesAndSnapshots_9 : ∃ (s : State) (u : State), (s.sys.inReset = false) ∧ (s.mtr.jobs = [.record false]) ∧ (u = s.runUp (s.mtr.jobAt + signTicks)) :=
  ⟨{ cell with mtr := { jobs := [.record false] } }, State.runUp { cell with mtr := { jobs := [.record false] } } signTicks, by decide +kernel⟩
theorem met_PulsesAndSnapshots_10 : ∃ (s : State), (s.sys.inReset = false) ∧ (s.get F.MTR_AUTO_PERIOD ≠ 0 ∧ s.vault.sec.toNat % s.get F.MTR_AUTO_PERIOD = 0 ∧ s.mtr.autoSec ≠ some s.vault.sec.toNat) ∧ (s.mtr.jobs = [] ∧ AccAgree s) :=
  ⟨{ cell.put F.MTR_AUTO_PERIOD 60 with vault := { sec := 120 } }, by decide +kernel⟩
theorem met_PulsesAndSnapshots_11 : ∃ (s : State), (s.sys.inReset = false) ∧ (s.get F.MTR_AUTO_PERIOD ≠ 0 ∧ s.vault.sec.toNat % s.get F.MTR_AUTO_PERIOD = 0 ∧ s.mtr.autoSec ≠ some s.vault.sec.toNat) ∧ (s.mtr.jobs ≠ []) :=
  ⟨{ cell.put F.MTR_AUTO_PERIOD 60 with vault := { sec := 120 }, mtr := { jobs := [.record false] } }, by decide +kernel⟩
theorem met_RolesAndHeartbeats_1 : ∃ (s : State) (u : State), (s.sys.inReset = false ∧ s.raises = []) ∧ (s.isHead = true ∧ s.flag F.SYS_ROLE_SINGLE = false ∧ s.dpx.listening = true ∧ s.dpx.heard = false ∧ s.dpx.twin = false) ∧ (s.dpxState = Dpx.start) ∧ (u = s.runUp (s.img.pbAt + msTicks s.listenMs)) :=
  ⟨{ (node 1 0 6).put F.DPX_STAT_STATE 1 with dpx := { listening := true } }, State.runUp { (node 1 0 6).put F.DPX_STAT_STATE 1 with dpx := { listening := true } } (msTicks 10), by decide +kernel⟩
theorem met_RolesAndHeartbeats_2 : ∃ (s : State), (s.sys.inReset = false) ∧ (s.isHead = true ∧ s.flag F.SYS_ROLE_SINGLE = true ∧ s.dpx.listening = true ∧ s.dpx.heard = false ∧ s.dpx.twin = false) ∧ (s.dpxState = Dpx.solo) :=
  ⟨{ (node 1 0 6).setFlag F.SYS_ROLE_SINGLE true with dpx := { listening := true } }, by decide +kernel⟩
theorem met_RolesAndHeartbeats_3 : ∃ (s : State), (s.sys.inReset = false) ∧ (s.isHead = true ∧ s.dpx.listening = true ∧ s.dpx.heard = true) :=
  ⟨{ (node 1 1 6).put F.DPX_STAT_STATE 3 with dpx := { listening := true, heard := true } }, by decide +kernel⟩
theorem met_RolesAndHeartbeats_4 : ∃ (s : State), (s.sys.inReset = false) ∧ (s.isHead = true ∧ s.dpx.listening = true ∧ s.dpx.heard = false ∧ s.dpx.twin = true) ∧ (s.dpxState = Dpx.start) :=
  ⟨{ (node 1 1 6).put F.DPX_STAT_STATE 1 with dpx := { listening := true, twin := true } }, by decide +kernel⟩
theorem met_RolesAndHeartbeats_5 : ∃ (s : State) (a : Arrival) (cw : List Byte), (s.sys.inReset = false) ∧ (s.isMember = true ∧ s.dpx.hasTier = true) ∧ (s.rng.rx.find? (Arrival.is Ty.hb) = some a ∧ a.cw = cw) ∧ (cwValid Ty.hb cw a.uncorr = true ∧ byteAt cw 1 ≤ 1 ∧ byteAt cw 1 ≠ s.pos) ∧ (byteAt cw 8 = Dpx.primary ∧ tierLater (byteAt cw 9) s.tier = true) :=
  ⟨{ mbr with rng := { rx := [⟨2, 0, hbCw, hbCw, false, 0⟩] } }, ⟨2, 0, hbCw, hbCw, false, 0⟩, hbCw, by decide +kernel⟩
theorem met_RolesAndHeartbeats_6 : ∃ (s : State) (a : Arrival) (cw : List Byte), (s.sys.inReset = false) ∧ (s.isMember = true ∧ s.dpx.hasTier = true) ∧ (s.rng.rx.find? (Arrival.is Ty.hb) = some a ∧ a.cw = cw) ∧ (cwValid Ty.hb cw a.uncorr = true ∧ byteAt cw 1 ≤ 1 ∧ byteAt cw 1 ≠ s.pos) ∧ (tierLater (byteAt cw 9) s.tier = false) :=
  ⟨{ mbr.put F.DPX_MBR_STAT_TIER 9 with rng := { rx := [⟨2, 0, hbCw, hbCw, false, 0⟩] } }, ⟨2, 0, hbCw, hbCw, false, 0⟩, hbCw, by decide +kernel⟩
theorem met_RolesAndHeartbeats_7 : ∃ (s : State) (a : Arrival) (cw : List Byte), (s.sys.inReset = false ∧ s.raises = []) ∧ (s.isHead = true ∧ s.flag F.SYS_ROLE_SINGLE = false ∧ s.dpxState = Dpx.primary ∧ s.dpx.hasTier = true) ∧ (s.rng.rx.find? (Arrival.is Ty.hb) = some a ∧ a.cw = cw) ∧ (cwValid Ty.hb cw a.uncorr = true ∧ byteAt cw 1 ≤ 1 ∧ byteAt cw 1 ≠ s.pos) ∧ (byteAt cw 8 = Dpx.primary ∧ tierLater (byteAt cw 9) s.tier = true) ∧ (s.get F.DPX_SWAP_STAT_STATE ≠ 1) :=
  ⟨{ (node 1 1 8).put F.DPX_STAT_STATE 2 with dpx := { hasTier := true }, rng := { rx := [⟨2, 0, hbCw, hbCw, false, 0⟩] } }, ⟨2, 0, hbCw, hbCw, false, 0⟩, hbCw, by decide +kernel⟩
theorem met_RolesAndHeartbeats_8 : ∃ (s : State) (a : Arrival) (cw : List Byte), (s.sys.inReset = false) ∧ (s.isHead = true ∧ s.flag F.SYS_ROLE_SINGLE = false ∧ s.dpxState = Dpx.start) ∧ (s.rng.rx.find? (Arrival.is Ty.hb) = some a ∧ a.cw = cw) ∧ (cwValid Ty.hb cw a.uncorr = true ∧ byteAt cw 1 ≤ 1 ∧ byteAt cw 1 ≠ s.pos) ∧ (byteAt cw 8 = Dpx.primary) :=
  ⟨{ (node 1 1 6).put F.DPX_STAT_STATE 1 with rng := { rx := [⟨2, 0, hbCw, hbCw, false, 0⟩] } }, ⟨2, 0, hbCw, hbCw, false, 0⟩, hbCw, by decide +kernel⟩
theorem met_GlazeHealthAndSwap_1 : ∃ (s : State), (s.sys.inReset = false) ∧ (s.duplex = true ∧ s.dpxState = Dpx.primary ∧ (s.member s.otherHead).adm = 2 ∧ s.flag (F.LNK_PORTx_STAT_UP 4) = true) ∧ (s.loopsDone = true ∧ s.dpx.glzSent ≠ some s.scn) :=
  ⟨((prim.setMember 1 { adm := 2 }).setLaneState 4 0 6).setFlag F.DPX_CFG_EN true, by decide +kernel⟩
theorem met_GlazeHealthAndSwap_2 : ∃ (s : State) (a : Arrival) (cw : List Byte), (s.sys.inReset = false) ∧ (s.duplex = true ∧ (s.dpxState = Dpx.sync ∨ s.dpxState = Dpx.standby)) ∧ (s.rng.rx.find? (fun a => a.port == 4) = some a ∧ a.cw = cw) ∧ (cwValid tyGlaze cw a.uncorr = true ∧ byteAt cw 1 = s.otherHead ∧ byteAt cw 2 = s.pos) ∧ (byteAt cw 3 = s.scn.toNat % 256) ∧ (s.dpx.glazeScn = s.scn ∧ 1 ≤ s.dpx.glazeChunks ∧ s.dpx.glazeChunks + 1 < s.glazeChunkCount) ∧ (leAt cw 8 2 < s.glazeChunkCount ∧ Bank.at [] s.dpx.glazeRx (leAt cw 8 2) = []) :=
  ⟨{ ((node 1 1 8).put F.DPX_STAT_STATE 4).setFlag F.DPX_CFG_EN true with dpx := { glazeChunks := 3 }, rng := { rx := [⟨4, 0, glzCw, glzCw, false, 0⟩] } }, ⟨4, 0, glzCw, glzCw, false, 0⟩, glzCw, by decide +kernel⟩
theorem met_GlazeHealthAndSwap_3 : ∃ (s : State) (u : State), (s.sys.inReset = false) ∧ (u = s.runToTick s.dpx.healthAt) :=
  ⟨{ (node 1 1 8).put F.DPX_STAT_STATE 4 with dpx := { perCmp := 3, cleanReports := 20 } }, State.runToTick { (node 1 1 8).put F.DPX_STAT_STATE 4 with dpx := { perCmp := 3, cleanReports := 20 } } 0, by decide +kernel⟩
theorem met_GlazeHealthAndSwap_4 : ∃ (s : State), (s.sys.inReset = false) :=
  ⟨cell, by decide +kernel⟩
theorem met_GlazeHealthAndSwap_5 : ∃ (s : State) (m : Master), (s.sys.inReset = false ∧ s.mastersRun m = true) ∧ ((s.mayClear m = true ∨ m = .dpx) ∧ s.dpxState = Dpx.primary) ∧ (scnAtOrAfter (s.rd R.DPX_SWAP_SCN) (s.scn + 64) = true) ∧ (s.swapNamed = false ∧ s.otherNow % 4 = 3 ∧ s.dpx.otherRole = Dpx.standby) :=
  ⟨{ (prim.wrN R.DPX_SWAP_SCN 64) with dpx := { otherFlags := 3, otherRole := 4, otherAt := some 0 } }, .ha, by decide +kernel⟩
theorem met_GlazeHealthAndSwap_6 : ∃ (s : State) (m : Master), (s.sys.inReset = false ∧ s.mastersRun m = true) ∧ ((s.mayClear m = true ∨ m = .dpx) ∧ s.dpxState = Dpx.primary) ∧ (scnAtOrAfter (s.rd R.DPX_SWAP_SCN) (s.scn + 64) = false) ∧ (s.swapNamed = false) :=
  ⟨prim.wrN R.DPX_SWAP_SCN 63, .dpx, by decide +kernel⟩
theorem met_GlazeHealthAndSwap_7 : ∃ (s : State) (m : Master), (s.sys.inReset = false ∧ s.raises = [] ∧ s.mastersRun m = true) ∧ ((s.mayClear m = true ∨ m = .dpx) ∧ s.swapNamed = true) :=
  ⟨prim.put F.DPX_SWAP_STAT_STATE 1, .mp, by decide +kernel⟩
theorem met_GlazeHealthAndSwap_8 : ∃ (s : State), (s.sys.inReset = false) ∧ (s.isHead = true) :=
  ⟨prim, by decide +kernel⟩
theorem met_GlazeHealthAndSwap_9 : ∃ (s : State) (u : State), (s.sys.inReset = false) ∧ (s.duplex = true ∧ s.dpxState = Dpx.primary ∧ s.standbyFit = false ∧ s.dpx.noElig = false) ∧ (u = s.runUp (s.dpx.eligAt + msTicks 1000)) :=
  ⟨prim.setFlag F.DPX_CFG_EN true, (prim.setFlag F.DPX_CFG_EN true).runUp (msTicks 1000), by decide +kernel⟩
theorem met_GlazeHealthAndSwap_10 : ∃ (s : State), (s.standbyFit = true ∨ s.dpx.noElig = true) :=
  ⟨{ prim.setFlag F.DPX_CFG_EN true with dpx := { otherFlags := 1, otherRole := 4, otherAt := some 0 } }, by decide +kernel⟩
theorem met_GlazeHealthAndSwap_11 : ∃ (s : State) (n : Fin 4), (s.sys.inReset = false) ∧ (s.dpxState = Dpx.primary ∧ s.isHead = true ∧ s.get F.DPX_FO_STAT_CAUSE = 2) ∧ (s.supRuns = true) ∧ ((∀ e : Fin 64, s.ledDist e = false)) ∧ (s.sessOpen n = true ∧ (s.sess n).sub.getLsbD 6 = true ∧ (s.sess n).queue.length < 256) :=
  ⟨sessNode.put F.DPX_FO_STAT_CAUSE 2, 3, by decide +kernel⟩
theorem met_SafeInputsAndTests_1 : ∃ (s : State) (u : State) (x : Fin 2), (s.sys.inReset = false) ∧ (s.safEn = true ∧ s.flag F.SAF_TP_CFG_EN = true ∧ (if x = 0 then s.saf.gapA else s.saf.gapB) = false) ∧ (u = s.runUp (if x = 0 then s.saf.dueA else s.saf.dueB)) :=
  ⟨{ safNode.setFlag F.SAF_TP_CFG_EN true with saf := { dueB := 7 } }, { safNode.setFlag F.SAF_TP_CFG_EN true with saf := { dueB := 7 } }.runUp 7, 1, by decide +kernel⟩
theorem met_SafeInputsAndTests_2 : ∃ (s : State) (u : State) (x : Fin 2), (s.sys.inReset = false) ∧ ((if x = 0 then s.saf.gapA else s.saf.gapB) = true) ∧ (u = s.runUp ((if x = 0 then s.saf.atA else s.saf.atB) + decTicks * s.get F.SAF_TP_CFG_TP_GAP)) :=
  ⟨{ safNode.setFlag (F.SAF_SIn_CFG_TP_CHK 7) true with saf := { gapB := true, inp := [(7, { lastB := true })] } }, State.runUp { safNode.setFlag (F.SAF_SIn_CFG_TP_CHK 7) true with saf := { gapB := true, inp := [(7, { lastB := true })] } } (decTicks * 2), 1, by decide +kernel⟩
theorem met_SafeInputsAndTests_3 : ∃ (s : State) (x : Fin 2), (s.sys.inReset = false) ∧ (s.sourceOn x = true) :=
  ⟨safNode, 1, by decide +kernel⟩
theorem met_SafeInputsAndTests_4 : ∃ (s : State) (u : State) (a : BitVec 8) (b : BitVec 8) (n : Fin 8) (ma : Bool) (mb : Bool) (low : Bool), (s.sys.inReset = false) ∧ (s.safEn = true ∧ s.flag F.SAF_STAT_VAUX_UV = false) ∧ (u = s.runUp s.saf.smpAt) ∧ (u.siEn n = true ∧ 0 < u.get (F.SAF_SIn_CFG_FILT n) ∧ (u.safIn n).stage = 0 ∧ (u.safIn n).disc + 1 < 1000 * u.get (F.SAF_SIn_CFG_DISC n)) ∧ (ma = (u.flag (F.SAF_SIn_CFG_TP_CHK n) && (u.saf.gapA || Nat.blt u.sys.up u.saf.maskA))) ∧ (mb = (u.flag (F.SAF_SIn_CFG_TP_CHK n) && (u.saf.gapB || Nat.blt u.sys.up u.saf.maskB))) ∧ ((ma && mb) = false ∧ low = (!ma && !bit a.toNat n || !mb && !bit b.toNat n)) :=
  ⟨safNode, safNode, 0x80, 0x00, 7, false, false, true, by decide +kernel⟩
theorem met_SafeInputsAndTests_5 : ∃ (s : State) (u : State) (a : BitVec 8) (b : BitVec 8) (n : Fin 8), (s.sys.inReset = false) ∧ (s.safEn = true ∧ s.flag F.SAF_STAT_VAUX_UV = false) ∧ (u = s.runUp s.saf.smpAt) ∧ (u.siEn n = true ∧ u.flag (F.SAF_SIn_CFG_TP_CHK n) = false) ∧ (bit a.toNat n ≠ bit b.toNat n ∧ (u.safIn n).disc + 1 = 1000 * u.get (F.SAF_SIn_CFG_DISC n)) :=
  ⟨{ safNode with saf := { inp := [(7, { disc := 999 })] } }, { safNode with saf := { inp := [(7, { disc := 999 })] } }, 0x80, 0x00, 7, by decide +kernel⟩
theorem met_SafeInputsAndTests_6 : ∃ (s : State), (s.sys.inReset = false) ∧ (s.safEn = true ∧ s.flag F.SAF_STAT_VAUX_UV = true) :=
  ⟨safNode.setFlag F.SAF_STAT_VAUX_UV true, by decide +kernel⟩
theorem met_SafeInputsAndTests_7 : ∃ (s : State), (s.sys.inReset = false) ∧ (s.safEn = true ∧ s.flag F.SAF_STAT_VAUX_UV = false) :=
  ⟨safNode.setFlag F.SAF_STAT_SO0_ON true, by decide +kernel⟩
theorem met_SafeInputsAndTests_8 : ∃ (s : State), (s.sys.inReset = false) ∧ (s.flag F.SAF_STAT_VAUX_UV = true) :=
  ⟨safNode.setFlag F.SAF_STAT_VAUX_UV true, by decide +kernel⟩
theorem met_SafeInputsAndTests_9 : ∃ (s : State) (u : State), (s.sys.inReset = false) ∧ (s.safEn = true ∧ s.saf.disagree = false) ∧ (u = s.runUp s.saf.evalAt) :=
  ⟨safNode, safNode, by decide +kernel⟩
theorem met_SafeInputsAndTests_10 : ∃ (s : State) (u : State), (s.sys.inReset = false) ∧ (s.safEn = true ∧ s.saf.disagree = false) ∧ (u = s.runUp s.saf.evalAt) :=
  ⟨{ safNode.setFlag (F.SAF_SIn_CFG_LINH 7) true with saf := { inp := [(7, { dem := true })] } }, { safNode.setFlag (F.SAF_SIn_CFG_LINH 7) true with saf := { inp := [(7, { dem := true })] } }, by decide +kernel⟩
theorem met_SafeOutputsAndStation_1 : ∃ (s : State) (c : Fin 2), (s.sys.inReset = false) ∧ (s.safEn = true ∧ (if c = 0 then s.saf.gapA = true ∧ s.saf.atA = s.sys.up else s.saf.gapB = true ∧ s.saf.atB = s.sys.up)) :=
  ⟨{ safNode.setFlag F.SAF_STAT_SO1_ON true with saf := { so := 12, gapB := true } }, 1, by decide +kernel⟩
theorem met_SafeOutputsAndStation_2 : ∃ (s : State), (s.sys.inReset = false) ∧ (s.safEn = true) :=
  ⟨{ safNode.setFlag F.SAF_STAT_SO1_ON true with saf := { so := 4, dark := 8 } }, by decide +kernel⟩
theorem met_SafeOutputsAndStation_3 : ∃ (s : State) (x : Fin 2) (c : Fin 2) (below5 : Bool) (aboveV : Bool), (s.sys.inReset = false) ∧ (s.safEn = true ∧ s.flag F.SAF_STAT_SOFLT = false) ∧ ((if bit s.saf.so (2 * x.val + c.val) then aboveV else below5) = false) :=
  ⟨safNode, 1, 0, false, true, by decide +kernel⟩
theorem met_SafeOutputsAndStation_4 : ∃ (s : State) (x : Fin 2) (c : Fin 2) (below5 : Bool) (aboveV : Bool), (s.sys.inReset = false) ∧ ((if bit s.saf.so (2 * x.val + c.val) then aboveV else below5) = true) :=
  ⟨safNode, 1, 0, true, true, by decide +kernel⟩
theorem met_SafeOutputsAndStation_5 : ∃ (s : State) (u : State) (x : Fin 2) (at_ : Nat), (s.sys.inReset = false) ∧ ((if x = 0 then s.saf.edm0 else s.saf.edm1) = some at_ ∧ u = s.runUp at_) ∧ (u.safEn = true ∧ u.flag F.SAF_STAT_SOFLT = false) ∧ ((if x = 0 then u.flag F.SAF_SO_CFG_EDM0_EN else u.flag F.SAF_SO_CFG_EDM1_EN) = true) ∧ ((u.safIn (if x = 0 then u.get F.SAF_SO_CFG_EDM0_IN else u.get F.SAF_SO_CFG_EDM1_IN)).dem = !u.flag (soOnFld x)) :=
  ⟨{ safNode.setFlag F.SAF_SO_CFG_EDM1_EN true with saf := { inp := [(0, { dem := true })], edm1 := some 9 } }, State.runUp { safNode.setFlag F.SAF_SO_CFG_EDM1_EN true with saf := { inp := [(0, { dem := true })], edm1 := some 9 } } 9, 1, 9, by decide +kernel⟩
theorem met_SafeOutputsAndStation_6 : ∃ (s : State) (u : State) (x : Fin 2) (at_ : Nat), (s.sys.inReset = false) ∧ ((if x = 0 then s.saf.edm0 else s.saf.edm1) = some at_ ∧ u = s.runUp at_) ∧ ((u.safIn (if x = 0 then u.get F.SAF_SO_CFG_EDM0_IN else u.get F.SAF_SO_CFG_EDM1_IN)).dem = u.flag (soOnFld x)) :=
  ⟨{ safNode.setFlag F.SAF_SO_CFG_EDM1_EN true with saf := { edm1 := some 9 } }, State.runUp { safNode.setFlag F.SAF_SO_CFG_EDM1_EN true with saf := { edm1 := some 9 } } 9, 1, 9, by decide +kernel⟩
theorem met_SafeOutputsAndStation_7 : ∃ (s : State), (s.sys.inReset = false) :=
  ⟨safNode, by decide +kernel⟩
theorem met_SafeOutputsAndStation_8 : ∃ (s : State) (u : State), (s.sys.inReset = false) ∧ (s.safEn = true ∧ s.isHead = true ∧ s.get F.SAF_STAT_HSTATE = 2 ∧ s.inCycleS = false ∧ s.saf.decided = false) ∧ (u = s.runIn (s.ringOfs F.RNG_TIM_SAFE_PB_T F.RNG_TIM_SAFE_T)) ∧ (u.latchMask = 0) :=
  ⟨safHeadNode, safHeadNode.runIn (safHeadNode.ringOfs F.RNG_TIM_SAFE_PB_T F.RNG_TIM_SAFE_T), by decide +kernel⟩
theorem met_SafeOutputsAndStation_9 : ∃ (s : State) (u : State) (k : Fin 16), (s.sys.inReset = false) ∧ (s.safEn = true ∧ s.isHead = true ∧ s.get F.SAF_STAT_HSTATE = 2 ∧ s.inCycleS = false ∧ s.saf.decided = false) ∧ (u = s.runIn (s.ringOfs F.RNG_TIM_SAFE_PB_T F.RNG_TIM_SAFE_T)) ∧ (u.flag (F.SAF_SFk_CFG_EN k) = true ∧ u.flag (F.SAF_SFk_CFG_LATCH k) = true ∧ bit u.inputDemand k = true) :=
  ⟨safHeadNode.setFlag (F.SAF_SFk_CFG_LATCH 3) true, (safHeadNode.setFlag (F.SAF_SFk_CFG_LATCH 3) true).runIn (safHeadNode.ringOfs F.RNG_TIM_SAFE_PB_T F.RNG_TIM_SAFE_T), 3, by decide +kernel⟩
theorem met_SafeOutputsAndStation_10 : ∃ (s : State) (a : Arrival) (cw : List Byte) (it : RawItem), (s.sys.inReset = false ∧ s.raises = []) ∧ (s.rng.rx.find? (Arrival.is Ty.safe) = some a ∧ a.cw = cw) ∧ (s.safEn = true ∧ cwValid Ty.safe cw a.uncorr = true) ∧ ((hdrOf cw).src < 2 ∧ (hdrOf cw).src ≠ s.pos ∧ leAt cw 8 2 = 0xFF80) ∧ (itemsOf cw = [it] ∧ it.idx = 0xFF80 ∧ sealOk it (hdrOf cw).src (s.scn.toNat % 256) = true) ∧ ((s.safHead (hdrOf cw).src).shut = false ∧ (s.safHead (hdrOf cw).src).win = none) :=
  ⟨{ safNode with rng := { rx := [⟨2, 0, safeCw, safeCw, false, 0⟩] } }, ⟨2, 0, safeCw, safeCw, false, 0⟩, safeCw, (itemsOf safeCw).headD ⟨0, 0, 0⟩, by decide +kernel⟩
theorem met_SafeOutputsAndStation_11 : ∃ (s : State) (a : Arrival) (cw : List Byte) (it : RawItem) (r : Ring) (c0 : SafeCopy), (s.sys.inReset = false ∧ s.raises = [] ∧ s.isHead = false) ∧ (s.rng.rx.find? (Arrival.is Ty.safe) = some a ∧ a.cw = cw) ∧ (s.safEn = true ∧ cwValid Ty.safe cw a.uncorr = true) ∧ ((hdrOf cw).src < 2 ∧ (hdrOf cw).src ≠ s.pos ∧ leAt cw 8 2 = 0xFF80) ∧ (itemsOf cw = [it] ∧ it.idx = 0xFF80 ∧ sealOk it (hdrOf cw).src (s.scn.toNat % 256) = true) ∧ ((s.safHead (hdrOf cw).src).shut = false ∧ (s.safHead (hdrOf cw).src).win = some (r, c0) ∧ r ≠ a.ring) ∧ (s.lnow < s.winEnds (hdrOf cw).src) :=
  ⟨{ safNode with rng := { rx := [⟨2, 0, safeCw, safeCw, false, 0⟩] }, saf := { head := [(1, { win := some (.x, ⟨4, none, none⟩), winAt := 2 ^ 60 })] } }, ⟨2, 0, safeCw, safeCw, false, 0⟩, safeCw, (itemsOf safeCw).headD ⟨0, 0, 0⟩, .x, ⟨4, none, none⟩, by decide +kernel⟩
theorem met_SafeOutputsAndStation_12 : ∃ (s : State) (u : State) (h : Fin 2) (r : Ring) (a : SafeCopy), (s.sys.inReset = false ∧ s.raises = []) ∧ ((s.safHead h).win = some (r, a) ∧ u = s.runToTick (s.winEnds h)) ∧ (u.isHead = false) :=
  ⟨{ safNode with saf := { head := [(1, { win := some (.x, { w0 := 0x00000008, w1 := none, w2 := none }) })] } }, State.runToTick { safNode with saf := { head := [(1, { win := some (.x, { w0 := 0x00000008, w1 := none, w2 := none }) })] } } (safNode.get F.SAF_CTRL_DW), 1, .x, { w0 := 0x00000008, w1 := none, w2 := none }, by decide +kernel⟩
theorem met_SafeOutputsAndStation_13 : ∃ (s : State), (s.sys.inReset = false) ∧ (s.safEn = true ∧ s.saf.seen = true ∧ s.flag F.SAF_STAT_STO_LOSS = false) ∧ (s.contributes 0 = false ∧ s.contributes 1 = false) :=
  ⟨{ safNode with saf := { seen := true } }, by decide +kernel⟩
theorem met_RecordsOpenMergeAndClose_1 : ∃ (s : State) (v : State) (r : RaiseIn) (n : Nat), (s.sys.inReset = false) ∧ (s.pairAt r.code.toNat r.inst = none ∧ v = s.mergeEnd) ∧ (v.flt.openRec = none ∧ v.nextRec = some n) ∧ (r.cls ≤ 5) :=
  ⟨mbr, mbr, ⟨0x0501, 1, 0, 2, 3, false⟩, 0, by decide +kernel⟩
theorem met_RecordsOpenMergeAndClose_2 : ∃ (s : State) (r : RaiseIn) (n : Nat), (s.sys.inReset = false) ∧ (s.pairAt r.code.toNat r.inst = none) ∧ (s.flt.openRec = some n ∧ s.sys.up < s.flt.openAt + s.mergeTicks) ∧ (r.cls ≤ 2) :=
  ⟨recOpen, ⟨0x0A02, 2, 0, 2, 3, false⟩, 7, by decide +kernel⟩
theorem met_RecordsOpenMergeAndClose_3 : ∃ (s : State) (r : RaiseIn) (at_ : Nat), (s.sys.inReset = false) ∧ (s.pairAt r.code.toNat r.inst = some (r.code.toNat, r.inst, false, at_)) :=
  ⟨{ recOpen with flt := { recOpen.flt with pairs := [(0x0A01, 3, false, 9)] } }, ⟨0x0A01, 2, 0, 2, 3, false⟩, 9, by decide +kernel⟩
theorem met_RecordsOpenMergeAndClose_4 : ∃ (s : State) (r : RaiseIn) (at_ : Nat), (s.sys.inReset = false) ∧ (s.pairAt r.code.toNat r.inst = some (r.code.toNat, r.inst, false, at_)) :=
  ⟨{ recOpen with flt := { recOpen.flt with pairs := [(0x0A01, 0, false, 9)] } }, ⟨0x0A01, 2, 0, 2, 0, false⟩, 9, by decide +kernel⟩
theorem met_RecordsOpenMergeAndClose_5 : ∃ (s : State) (r : RaiseIn), (s.sys.inReset = false) ∧ (s.pairAt r.code.toNat r.inst = none) ∧ (s.mergeEnd.raiseTarget.isSome = true ∨ 2 ≤ r.cls) :=
  ⟨mbr, ⟨0x0A02, 1, 0, 2, 3, true⟩, by decide +kernel⟩
theorem met_RecordsOpenMergeAndClose_6 : ∃ (s : State) (u : State) (r : RaiseIn) (at_ : Nat), (s.sys.inReset = false) ∧ (s.pairAt r.code.toNat r.inst = some (r.code.toNat, r.inst, true, at_) ∧ u = s.runUp (at_ + pairTicks)) :=
  ⟨recBroken, recBroken.runUp 73, ⟨0x0A02, 2, 0, 2, 3, true⟩, 9, by decide +kernel⟩
theorem met_RecordsOpenMergeAndClose_7 : ∃ (s : State) (u : State) (n : Nat), (s.sys.inReset = false) ∧ (s.flt.closing = [] ∧ s.flt.openRec = some n ∧ u = s.runUp (s.flt.openAt + s.mergeTicks)) ∧ (u.flt.closing = [] ∧ u.flt.openRec = some n ∧ u.flt.openAt + u.mergeTicks ≤ u.sys.up) ∧ (u.get (F.FLT_RECr_W1_CLASS (recIdx n)) < 4 ∧ u.get (F.FLT_RECr_W1_CLASS (recIdx n)) < u.get F.FLT_CFG_REP_CLS) :=
  ⟨recOpen.put F.FLT_CFG_REP_CLS 2, (recOpen.put F.FLT_CFG_REP_CLS 2).runUp (recOpen.put F.FLT_CFG_REP_CLS 2).mergeTicks, 7, by decide +kernel⟩
theorem met_RecordsOpenMergeAndClose_8 : ∃ (s : State), (s.sys.inReset = false) ∧ (s.flt.openRec = none ∧ s.flt.closing = []) :=
  ⟨cell, by decide +kernel⟩
theorem met_RecordsOpenMergeAndClose_9 : ∃ (s : State) (m : Master), (s.sys.inReset = false) ∧ (s.mayClear m = false ∧ s.mastersRun m = true) :=
  ⟨recEnded, .ce, by decide +kernel⟩
theorem met_RecordsOpenMergeAndClose_10 : ∃ (s : State) (m : Master) (n : BitVec 16), (s.sys.inReset = false) ∧ (s.mayClear m = true ∧ s.mastersRun m = true) ∧ (s.recActive (recIdx n.toNat) = false ∨ s.get (F.FLT_RECr_W0_NUM (recIdx n.toNat)) ≠ n.toNat) :=
  ⟨recEnded, .ha, 71, by decide +kernel⟩
theorem met_RecordsOpenMergeAndClose_11 : ∃ (s : State) (m : Master) (n : BitVec 16), (s.sys.inReset = false) ∧ (s.mayClear m = true ∧ s.mastersRun m = true) ∧ (s.clearErr n.toNat = 0) ∧ (s.get (F.FLT_RECr_W1_CLASS (recIdx n.toNat)) ≠ 3) :=
  ⟨recEnded, .mp, 7, by decide +kernel⟩
theorem met_RecordsOpenMergeAndClose_12 : ∃ (s : State) (m : Master) (n : BitVec 16), (s.sys.inReset = false) ∧ (s.mayClear m = true ∧ s.mastersRun m = true) ∧ (s.clearErr n.toNat = 0) :=
  ⟨recEnded, .ha, 7, by decide +kernel⟩
theorem met_RecordsOpenMergeAndClose_13 : ∃ (s : State) (l : FltiLevel), (s.sys.inReset = false) ∧ (s.flag F.FLT_FLTI_EN = true) ∧ (l ≠ .ok ∧ s.get F.FLT_STAT_FLTI ≠ (if l = .fault then 1 else 2)) :=
  ⟨(mbr.setFlag F.FLT_FLTI_EN true).put F.FLT_FLTI_CLS 3, .broken, by decide +kernel⟩
theorem met_RecordsOpenMergeAndClose_14 : ∃ (s : State), (s.sys.inReset = false) ∧ (s.flag F.FLT_FLTI_EN = true) :=
  ⟨fltiOn, by decide +kernel⟩
theorem met_TripsAndBatches_1 : ∃ (s : State) (m : Master), (s.sys.inReset = false) ∧ (s.mayClear m = true ∧ s.mastersRun m = true) ∧ (s.stationErr = 0) :=
  ⟨{ prim.setFlag F.FLT_STN_TRIP true with flt := { quiet := 8 } }, .ha, by decide +kernel⟩
theorem met_TripsAndBatches_2 : ∃ (s : State) (m : Master), (s.sys.inReset = false) ∧ (s.mayClear m = true ∧ s.mastersRun m = true) ∧ (s.stationErr ≠ 0) :=
  ⟨cell, .mp, by decide +kernel⟩
theorem met_TripsAndBatches_3 : ∃ (s : State) (m : Master), (s.sys.inReset = false) ∧ (s.mayClear m = false ∧ s.mastersRun m = true) :=
  ⟨prim, .saf, by decide +kernel⟩
theorem met_TripsAndBatches_4 : ∃ (s : State) (id : Word) (c : Word) (items : List (Word × Word)) (e : Nat), (s.sys.inReset = false) ∧ (s.ledSlot = some e ∧ s.ledFind id false = none) ∧ (id ≠ 0 ∧ 1 ≤ items.length ∧ items.length ≤ 256) ∧ (scnLater c (s.scn + 1) = true) :=
  ⟨cell, 9, 20, [(0x40000000, 1), (0x40000004, 2)], 0, by decide +kernel⟩
theorem met_TripsAndBatches_5 : ∃ (s : State) (id : Word) (c : Word) (e : Fin 16), (s.sys.inReset = false) ∧ (s.ledState e = Led.staging ∧ s.ledDist e = false ∧ s.ledId e = id ∧ s.rd (R.FLT_LEDe_Ww e 1) = c) ∧ ((∀ x : Fin 64, x.val = e.val ∨ s.ledId x ≠ id)) :=
  ⟨{ ledStaged.wrN (R.FLT_LEDe_Ww 2 2) 0x30001 with flt := { items := [(2, [(0x40000000, 1)])] } }, 9, 0, 2, by decide +kernel⟩
theorem met_TripsAndBatches_6 : ∃ (s : State) (id : Word) (c : Word) (items : List (Word × Word)) (e : Nat), (s.sys.inReset = false ∧ s.raises = []) ∧ (s.ledSlot = some e ∧ s.ledFind id false = none) ∧ (id ≠ 0 ∧ 1 ≤ items.length ∧ items.length ≤ 256) ∧ (scnLater c (s.scn + 1) = false) :=
  ⟨cell, 9, 1, [(0x40000000, 1)], 0, by decide +kernel⟩
theorem met_TripsAndBatches_7 : ∃ (s : State) (id : Word) (count : Nat), (s.sys.inReset = false ∧ s.raises = []) ∧ (s.ledSlot = none ∧ s.ledFind id false = none) ∧ (id ≠ 0 ∧ 1 ≤ count ∧ count ≤ 256) :=
  ⟨ledFull, 9, 1, by decide +kernel⟩
theorem met_TripsAndBatches_8 : ∃ (s : State) (u : State) (s0 : State) (s1 : State) (p : Applying) (rest : List Applying) (a : Word) (v : Word), (s.sys.inReset = false) ∧ (s.flt.applying = p :: rest ∧ p.entry < 16 ∧ p.next < 256 ∧ u = s.runUp s.flt.applyAt) ∧ (s0 = State.when { u with flt := { u.flt with applyAt := u.sys.up + 4 } } (u.ledState p.entry == Led.staged) (·.ledTo p.entry Led.committing 0)) ∧ ((Bank.at [] s0.flt.items p.entry)[p.next]? = some (a, v)) ∧ (s0.writeAccess .ha .ra a.toNat 4 v.toNat .clean = (s1, .ok)) :=
  ⟨ledApply, ledApply, ledApply0, (ledApply0.writeAccess .ha .ra 0x20300000 4 5 .clean).1, ⟨3, 1⟩, [], 0x20300000, 5, by decide +kernel⟩
theorem met_TripsAndBatches_9 : ∃ (s : State) (u : State) (s0 : State) (s1 : State) (p : Applying) (rest : List Applying) (a : Word) (v : Word), (s.sys.inReset = false) ∧ (s.flt.applying = p :: rest ∧ p.entry < 16 ∧ p.next < 256 ∧ u = s.runUp s.flt.applyAt) ∧ (s0 = State.when { u with flt := { u.flt with applyAt := u.sys.up + 4 } } (u.ledState p.entry == Led.staged) (·.ledTo p.entry Led.committing 0)) ∧ ((Bank.at [] s0.flt.items p.entry)[p.next]? = some (a, v)) ∧ (s0.writeAccess .ha .ra a.toNat 4 v.toNat .clean = (s1, .viol)) :=
  ⟨ledBad, ledBad, ledBad0, (ledBad0.writeAccess .ha .ra 0x400E0000 4 5 .clean).1, ⟨3, 0⟩, [], 0x400E0000, 5, by decide +kernel⟩
theorem met_TripsAndBatches_10 : ∃ (s : State) (u : State) (s0 : State) (s1 : State) (p : Applying) (rest : List Applying) (a : Word) (v : Word), (s.sys.inReset = false) ∧ (s.flt.applying = p :: rest ∧ p.entry < 16 ∧ p.next < 256 ∧ u = s.runUp s.flt.applyAt) ∧ (s0 = State.when { u with flt := { u.flt with applyAt := u.sys.up + 4 } } (u.ledState p.entry == Led.staged) (·.ledTo p.entry Led.committing 0)) ∧ ((Bank.at [] s0.flt.items p.entry)[p.next]? = some (a, v)) ∧ (s0.writeAccess .ha .ra a.toNat 4 v.toNat .clean = (s1, .err)) :=
  ⟨ledErr, ledErr, ledErr0, (ledErr0.writeAccess .ha .ra 0x20300002 4 5 .clean).1, ⟨3, 0⟩, [], 0x20300002, 5, by decide +kernel⟩
theorem met_TripsAndBatches_11 : ∃ (s : State), (s.sys.inReset = false) ∧ (s.flt.applying = []) :=
  ⟨cell, by decide +kernel⟩
theorem met_TripsAndBatches_12 : ∃ (s : State) (id : Word) (e : Fin 16), (s.sys.inReset = false ∧ s.raises = []) ∧ (s.ledId e = id ∧ s.ledDist e = false ∧ s.ledState e = Led.staged) ∧ ((∀ x : Fin 64, x.val = e.val ∨ s.ledId x ≠ id)) :=
  ⟨ledStaged, 9, 2, by decide +kernel⟩
theorem met_TripsAndBatches_13 : ∃ (s : State) (id : Word), (s.sys.inReset = false ∧ s.raises = []) ∧ ((∀ x : Fin 64, s.ledId x ≠ id ∨ s.ledState x = Led.committed)) :=
  ⟨cell, 9, by decide +kernel⟩
theorem met_HostReadsAndWrites_1 : ∃ (s : State) (n : Fin 4) (d : Datagram) (b : List Byte) (a : Nat) (k : Nat), (Fresh s n d 1 ∧ SupIdle s) ∧ (b = (s.plain d).body) ∧ (rwOk (s.reqOf n d) = true ∧ bit (dgFlags d) 2 = false ∧ dgNode d ≠ s.pos) ∧ (leAt b 0 4 = a ∧ leAt b 4 2 = k) :=
  ⟨opNode, 3, dgram 1 0 6 0x10 0x103 (leBytes 4 0x40000000 ++ leBytes 2 20 ++ [0, 0]), (dgram 1 0 6 0x10 0x103 (leBytes 4 0x40000000 ++ leBytes 2 20 ++ [0, 0])).body, 0x40000000, 20, by decide +kernel⟩
theorem met_HostReadsAndWrites_2 : ∃ (s : State) (u : State) (n : Fin 4) (d : Datagram) (b : List Byte) (a : Nat) (v : Nat), (Fresh s n d 1 ∧ SupIdle s) ∧ (b = (s.plain d).body) ∧ (rwOk (s.reqOf n d) = true ∧ bit (dgFlags d) 2 = false ∧ dgNode d = s.pos ∧ s.running = true) ∧ (leAt b 0 4 = a ∧ leAt b 4 2 = 1) ∧ ((s.taken n d).readAccess .ha .ha a 4 .clean = (u, .ok, v) ∧ u.sessOpen n = true) :=
  ⟨opNode, (opNode.taken 3 (dgram 1 0 6 0 0x103 (leBytes 4 0x40000000 ++ leBytes 2 1 ++ [0, 0]))), 3, dgram 1 0 6 0 0x103 (leBytes 4 0x40000000 ++ leBytes 2 1 ++ [0, 0]), (dgram 1 0 6 0 0x103 (leBytes 4 0x40000000 ++ leBytes 2 1 ++ [0, 0])).body, 0x40000000, sysId, by decide +kernel⟩
theorem met_HostReadsAndWrites_3 : ∃ (s : State) (n : Fin 4) (d : Datagram), (Fresh s n d 1 ∧ SupIdle s) ∧ (rwOk (s.reqOf n d) = false) :=
  ⟨opNode, 3, dgram 1 0 6 0 0x103 [1], by decide +kernel⟩
theorem met_HostReadsAndWrites_4 : ∃ (s : State) (n : Fin 4) (d : Datagram), (Fresh s n d 1 ∧ s.sup.active.isSome = true) :=
  ⟨opBusy, 3, dgram 1 0 6 0 0x103 [1], by decide +kernel⟩
theorem met_HostReadsAndWrites_5 : ∃ (s : State) (n : Fin 4) (d : Datagram), (s.sys.inReset = false) ∧ (s.portUp = true ∧ s.sessOpen n = true ∧ s.sender d = some n.val ∧ dgTyp d = 1 ∧ bit (dgFlags d) 0 = false) ∧ (scnLater (dgSeq d) (s.sess n).lastSeq = false) :=
  ⟨opNode, 3, dgram 1 0 4 0 0x103 [1], by decide +kernel⟩
theorem met_HostReadsAndWrites_6 : ∃ (s : State) (n : Fin 4) (d : Datagram) (b : List Byte) (a : Nat) (k : Nat), (Fresh s n d 2 ∧ SupIdle s) ∧ (b = (s.plain d).body) ∧ (rwOk (s.reqOf n d) = true ∧ dgNode d ≠ s.pos) ∧ (leAt b 0 4 = a ∧ leAt b 4 2 = k) :=
  ⟨opNode, 3, dgram 2 0 6 0x10 0x103 (leBytes 4 0x20300000 ++ leBytes 2 2 ++ [0, 0] ++ leBytes 8 7), (dgram 2 0 6 0x10 0x103 (leBytes 4 0x20300000 ++ leBytes 2 2 ++ [0, 0] ++ leBytes 8 7)).body, 0x20300000, 2, by decide +kernel⟩
theorem met_HostReadsAndWrites_7 : ∃ (s : State) (u : State) (n : Fin 4) (d : Datagram) (b : List Byte) (k : Nat) (e : Bool), (Fresh s n d 2 ∧ SupIdle s) ∧ (b = (s.plain d).body) ∧ (rwOk (s.reqOf n d) = true ∧ dgNode d = s.pos ∧ s.running = true) ∧ ((s.taken n d).countReq.writeWords .ha (bytesWords b 8 (leAt b 4 2)) (leAt b 0 4) = (u, k, e) ∧ u.sessOpen n = true) :=
  ⟨opNode, (((opNode.taken 3 (dgram 2 0 6 0 0x103 (leBytes 4 0x20300000 ++ leBytes 2 1 ++ [0, 0] ++ leBytes 4 7))).wr R.SUP_CSEQ 1).writeWords .ha [7] 0x20300000).1, 3, dgram 2 0 6 0 0x103 (leBytes 4 0x20300000 ++ leBytes 2 1 ++ [0, 0] ++ leBytes 4 7), (dgram 2 0 6 0 0x103 (leBytes 4 0x20300000 ++ leBytes 2 1 ++ [0, 0] ++ leBytes 4 7)).body, 1, false, by decide +kernel⟩
theorem met_HostReadsAndWrites_8 : ∃ (s : State) (n : Fin 4) (d : Datagram), (Fresh s n d 2 ∧ SupIdle s) ∧ (rwOk (s.reqOf n d) = false) :=
  ⟨opNode, 3, dgram 2 0 6 0 0x103 [1], by decide +kernel⟩
theorem met_HostReadsAndWrites_9 : ∃ (s : State) (r : Req) (rest : List Req), (s.sys.inReset = false) ∧ (s.sup.active = none ∧ s.sup.queue = r :: rest) ∧ (r.typ = 1 ∧ rwOk r = true ∧ r.atom = false ∧ r.node ≠ s.pos ∧ s.isPrimary = true) :=
  ⟨opQueue, ⟨3, 1, 6, 0x10, false, leBytes 4 0x40000000 ++ leBytes 2 3 ++ [0, 0]⟩, [], by decide +kernel⟩
theorem met_HostReadsAndWrites_10 : ∃ (s : State), (s.sys.inReset = false) ∧ (s.sup.active.isSome = true ∨ s.sup.queue = []) :=
  ⟨opBusy, by decide +kernel⟩
theorem met_HostBatches_1 : ∃ (s : State) (n : Fin 4) (d : Datagram) (b : List Byte) (p : Nat) (e : Nat) (items : List (Word × Word)), (Fresh s n d 3 ∧ SupIdle s) ∧ (b = (s.plain d).body) ∧ (byteAt b 8 = 1 ∧ byteAt b 9 = 0 ∧ leAt b 0 4 ≠ 0) ∧ (batchTargets (s.reqOf n d) = some [(p, items)] ∧ p ≠ s.pos ∧ s.admittedAll.contains p = true) ∧ (s.ledFind (BitVec.ofNat 32 (leAt b 0 4)) true = none ∧ s.ledSlot = some e) ∧ (scnLater (BitVec.ofNat 32 (leAt b 4 4)) (s.scn + 8) = true) :=
  ⟨opNode, 3, commonDg, (commonDg).body, 0x10, 0, [(0x20300000, 7)], by decide +kernel⟩
theorem met_HostBatches_2 : ∃ (s : State) (n : Fin 4) (d : Datagram) (b : List Byte) (p : Nat) (e : Nat) (items : List (Word × Word)), (Fresh s n d 3 ∧ SupIdle s) ∧ (b = (s.plain d).body) ∧ (byteAt b 8 = 2 ∧ byteAt b 9 = 0 ∧ leAt b 0 4 ≠ 0 ∧ 12 ≤ b.length) ∧ (batchTargets (s.reqOf n d) = some [(p, items)] ∧ p ≠ s.pos ∧ s.admittedAll.contains p = true) ∧ (s.ledFind (BitVec.ofNat 32 (leAt b 0 4)) true = none ∧ s.ledSlot = some e) ∧ (scnLater (BitVec.ofNat 32 (leAt b 4 4)) (s.scn + 8) = true) :=
  ⟨opNode, 3, eachDg, (eachDg).body, 0x10, 0, [(0x20300000, 7)], by decide +kernel⟩
theorem met_HostBatches_3 : ∃ (s : State) (n : Fin 4) (d : Datagram) (b : List Byte) (p : Nat) (items : List (Word × Word)), (Fresh s n d 3 ∧ SupIdle s) ∧ (b = (s.plain d).body) ∧ (byteAt b 8 = 1 ∧ byteAt b 9 = 0 ∧ leAt b 0 4 ≠ 0) ∧ (batchTargets (s.reqOf n d) = some [(p, items)]) ∧ ((s.ledFind (BitVec.ofNat 32 (leAt b 0 4)) true).isSome = true ∨ p ≠ s.pos ∧ s.admittedAll.contains p = false) ∧ (scnLater (BitVec.ofNat 32 (leAt b 4 4)) (s.scn + 8) = true) :=
  ⟨sessNode.put (F.SUP_SESSn_STAT_ROLE 3) 2, 3, commonDg, (commonDg).body, 0x10, [(0x20300000, 7)], by decide +kernel⟩
theorem met_HostBatches_4 : ∃ (s : State) (n : Fin 4) (d : Datagram) (b : List Byte), (Fresh s n d 3 ∧ SupIdle s) ∧ (b = (s.plain d).body) ∧ (byteAt b 8 = 3 ∧ byteAt b 9 = 0 ∧ leAt b 0 4 ≠ 0 ∧ b.length = 12) ∧ (s.ledFind (BitVec.ofNat 32 (leAt b 0 4)) true = none) :=
  ⟨opNode, 3, cancelDg, (cancelDg).body, by decide +kernel⟩
theorem met_HostBatches_5 : ∃ (s : State) (n : Fin 4) (d : Datagram) (b : List Byte) (e : Fin 64) (p : Nat), (s.raises = []) ∧ (b = (s.plain d).body) ∧ (Fresh s n d 3 ∧ SupIdle s) ∧ (byteAt b 8 = 3 ∧ byteAt b 9 = 0 ∧ leAt b 0 4 ≠ 0 ∧ b.length = 12) ∧ (s.ledId e = BitVec.ofNat 32 (leAt b 0 4) ∧ s.ledDist e = true ∧ s.ledState e = Led.staged) ∧ ((∀ x : Fin 64, x = e ∨ s.ledId x ≠ s.ledId e)) ∧ (s.ledTargets e = [p] ∧ p ≠ s.pos) :=
  ⟨opBatch, 3, cancelDg, (cancelDg).body, 5, 0x10, by decide +kernel⟩
theorem met_HostBatches_6 : ∃ (s : State) (a : Active) (e : Nat), (s.sys.inReset = false) ∧ (s.sup.active = some a ∧ a.req.typ = 3 ∧ s.sessOpen a.req.sess = true ∧ s.isPrimary = true) ∧ (s.ledFind (BitVec.ofNat 32 (leAt a.req.body 0 4)) true = some e ∧ s.cycles16 a.scn = true) :=
  ⟨{ opBatch with sup := { opBatch.sup with active := some { req := ⟨3, 3, 6, 0, false, leBytes 4 9⟩, scn := 0xFFFFFFF0 } } }, { req := ⟨3, 3, 6, 0, false, leBytes 4 9⟩, scn := 0xFFFFFFF0 }, 5, by decide +kernel⟩
theorem met_HostBatches_7 : ∃ (s : State), (s.sys.inReset = false) ∧ ((∀ a ∈ s.sup.active, a.req.typ ≠ 3 ∨ s.cycles16 a.scn = false)) :=
  ⟨opBusy, by decide +kernel⟩
theorem met_ReportsAndTime_1 : ∃ (s : State) (u : State) (n : Fin 4) (r : QRep), (s.sys.inReset = false) ∧ (s.sessOpen n = true ∧ s.sup.drop0 = 0 ∧ s.sup.drop1 = 0 ∧ s.sup.drop2 = 0 ∧ (s.sess n).queue ≠ []) ∧ (u = s.toToken n ∧ u.sessOpen n = true ∧ u.hasToken n = true ∧ u.sup.drop0 = 0 ∧ u.sup.drop1 = 0 ∧ u.sup.drop2 = 0) ∧ (repNext (u.sess n).queue = some r ∧ r.kind ≠ Rep.fault) :=
  ⟨repNode, repNode.toToken 3, 3, ⟨7, 3, 1, [3, 1, 0x10, 0], 0, 0⟩, by decide +kernel⟩
theorem met_ReportsAndTime_2 : ∃ (s : State) (u : State) (n : Fin 4) (r : QRep), (s.sys.inReset = false) ∧ (s.sessOpen n = true ∧ s.sup.drop0 = 0 ∧ s.sup.drop1 = 0 ∧ s.sup.drop2 = 0 ∧ (s.sess n).queue ≠ []) ∧ (u = s.toToken n ∧ u.sessOpen n = true ∧ u.hasToken n = true ∧ u.sup.drop0 = 0 ∧ u.sup.drop1 = 0 ∧ u.sup.drop2 = 0) ∧ (repNext (u.sess n).queue = some r ∧ r.kind = Rep.fault ∧ byteAt r.body 2 = u.pos) ∧ (u.get (F.FLT_RECr_W0_NUM (recIdx (leAt r.body 18 2))) = leAt r.body 18 2) :=
  ⟨faultRep, faultRep.toToken 3, 3, ⟨7, 1, 0, [1, 0, 0, 0] ++ List.replicate 20 0, 0, 0⟩, by decide +kernel⟩
theorem met_ReportsAndTime_3 : ∃ (s : State) (n : Fin 4), (s.sys.inReset = false) ∧ (s.sessOpen n = false ∨ s.sup.drop0 = 0 ∧ s.sup.drop1 = 0 ∧ s.sup.drop2 = 0 ∧ (s.sess n).queue = []) :=
  ⟨opNode, 3, by decide +kernel⟩
theorem met_ReportsAndTime_4 : ∃ (s : State) (n : Fin 4) (d : Datagram), (s.sys.inReset = false) ∧ (s.portUp = true ∧ dgTyp d = 4 ∧ bit (dgFlags d) 0 = true ∧ s.sender d = some n.val ∧ d.body = []) :=
  ⟨repNode.setSess 3 { repNode.sess 3 with wait := [⟨9, 3, 1, [], 1, 0⟩] }, 3, dgram 4 1 9 0 0x103 [], by decide +kernel⟩
theorem met_ReportsAndTime_5 : ∃ (s : State) (u : State) (n : Fin 4) (rseq : Word) (r : QRep), (s.sys.inReset = false) ∧ ((s.sess n).wait.find? (fun r => r.rseq == rseq) = some r ∧ r.sends < 9 ∧ r.prio ≤ 1) ∧ (u = (s.runUp (r.sentAt + msTicks 100)).refill n ∧ u.sessOpen n = true ∧ u.hasToken n = true) :=
  ⟨waitRep 1, ((waitRep 1).runUp (msTicks 100)).refill 3, 3, 9, ⟨9, 3, 1, [], 1, 0⟩, by decide +kernel⟩
theorem met_ReportsAndTime_6 : ∃ (s : State) (u : State) (n : Fin 4) (rseq : Word) (r : QRep), (s.sys.inReset = false) ∧ ((s.sess n).wait.find? (fun r => r.rseq == rseq) = some r ∧ 9 ≤ r.sends) ∧ (u = (s.runUp (r.sentAt + msTicks 100)).refill n) :=
  ⟨waitRep 9, ((waitRep 9).runUp (msTicks 100)).refill 3, 3, 9, ⟨9, 3, 1, [], 9, 0⟩, by decide +kernel⟩
theorem met_ReportsAndTime_7 : ∃ (s : State) (n : Fin 4) (d : Datagram) (b : List Byte), (Fresh s n d 5 ∧ SupIdle s) ∧ (b = (s.plain d).body) ∧ (byteAt b 0 = 0 ∧ dgNode d = s.pos) :=
  ⟨opNode, 3, dgram 5 0 6 0 0x103 [0, 0, 0, 0], [0, 0, 0, 0], by decide +kernel⟩
theorem met_ReportsAndTime_8 : ∃ (s : State) (n : Fin 4) (d : Datagram) (b : List Byte), (Fresh s n d 5 ∧ SupIdle s) ∧ (b = (s.plain d).body) ∧ (byteAt b 0 ≠ 0 ∧ byteAt b 0 ≠ 2) :=
  ⟨opNode, 3, dgram 5 0 6 0 0x103 [1, 0, 0, 0], [1, 0, 0, 0], by decide +kernel⟩
theorem met_ReportsAndTime_9 : ∃ (s : State) (n : Fin 4) (d : Datagram) (b : List Byte) (event : Bool), (Fresh s n d 5 ∧ SupIdle s) ∧ (b = (s.plain d).body) ∧ (byteAt b 0 = 2 ∧ dgNode d = s.pos ∧ b.length = 8 + leAt b 4 2) ∧ (s.ptpTx (b.drop 8) = some event) :=
  ⟨opNode, 3, ptpDg, ptpBody, true, ⟨ptp_fresh, (congrArg Datagram.body ptp_plain).symm, by decide +kernel, ptpTx_ok⟩⟩
theorem met_ReportsAndTime_10 : ∃ (s : State) (n : Fin 4) (d : Datagram) (b : List Byte), (Fresh s n d 5 ∧ SupIdle s) ∧ (b = (s.plain d).body) ∧ (byteAt b 0 = 2 ∧ (b.length ≠ 8 + leAt b 4 2 ∨ s.ptpTx (b.drop 8) = none)) :=
  ⟨opNode, 3, dgram 5 0 6 0 0x103 [2, 0, 0, 0, 3, 0, 9, 9, 7, 8], [2, 0, 0, 0, 3, 0, 9, 9, 7, 8], by decide +kernel⟩
theorem met_ReportsAndTime_11 : ∃ (s : State) (frame : List Byte) (event : Bool), (s.sys.inReset = false) ∧ (s.portUp = true ∧ s.ptpRx frame = some event) ∧ ((lastSecond s.sys.up s.sup.ptpAt).length < 128) :=
  ⟨opNode.setSess 3 { sub := 0x10000 }, ptpL2, true, by decide +kernel⟩
theorem met_ReportsAndTime_12 : ∃ (s : State) (frame : List Byte), (s.sys.inReset = false) ∧ (s.portUp = true ∧ (s.ptpRx frame).isSome = true) ∧ (128 ≤ (lastSecond s.sys.up s.sup.ptpAt).length) :=
  ⟨{ opNode with sup := { opNode.sup with ptpAt := List.replicate 128 0 } }, ptpL2, by decide +kernel⟩
theorem met_ReportsAndTime_13 : ∃ (s : State) (frame : List Byte), (s.sys.inReset = false) ∧ (s.portUp = false ∨ s.ptpRx frame = none) :=
  ⟨opNode, [], by decide +kernel⟩
theorem met_HostMailboxes_1 : ∃ (s : State) (u : State) (v : State) (n : Fin 4) (d : Datagram) (b : List Byte) (k : Nat) (e : Bool), (Fresh s n d 6 ∧ SupIdle s) ∧ (b = (s.plain d).body) ∧ (mbxOk (s.reqOf n d) = true ∧ byteAt b 0 = 0 ∧ dgNode d = s.pos ∧ s.running = true) ∧ ((s.taken n d).countReq.writeWords .ha (bytesWords b 4 (byteAt b 2)) (R.MBX_CHn_Di (byteAt b 1) 0) = (u, byteAt b 2, false)) ∧ (u.writeWords .ha [BitVec.ofNat 32 (0x80000000 + byteAt b 2)] (R.MBX_CHn_CTRL (byteAt b 1)) = (v, k, e) ∧ v.sessOpen n = true) :=
  ⟨mbxHost, (((mbxHost.taken 3 sendDg).wr R.SUP_CSEQ 1).writeWords .ha [5] (R.MBX_CHn_Di 4 0)).1, ((((mbxHost.taken 3 sendDg).wr R.SUP_CSEQ 1).writeWords .ha [5] (R.MBX_CHn_Di 4 0)).1.writeWords .ha [0x80000001] (R.MBX_CHn_CTRL 4)).1, 3, sendDg, (sendDg).body, 1, false, by decide +kernel⟩
theorem met_HostMailboxes_2 : ∃ (s : State) (n : Fin 4) (d : Datagram) (b : List Byte), (Fresh s n d 6 ∧ SupIdle s) ∧ (b = (s.plain d).body) ∧ (mbxOk (s.reqOf n d) = true ∧ byteAt b 0 = 0 ∧ dgNode d ≠ s.pos) :=
  ⟨opNode, 3, dgram 6 0 6 0x10 0x103 [0, 15, 1, 0, 5, 0, 0, 0], (dgram 6 0 6 0x10 0x103 [0, 15, 1, 0, 5, 0, 0, 0]).body, by decide +kernel⟩
theorem met_HostMailboxes_3 : ∃ (s : State) (n : Fin 4) (d : Datagram) (b : List Byte), (Fresh s n d 6 ∧ SupIdle s) ∧ (b = (s.plain d).body) ∧ (mbxOk (s.reqOf n d) = false ∧ byteAt b 0 = 0) :=
  ⟨opNode, 3, dgram 6 0 6 0x10 0x103 [0, 16, 1, 0, 5, 0, 0, 0], (dgram 6 0 6 0x10 0x103 [0, 16, 1, 0, 5, 0, 0, 0]).body, by decide +kernel⟩
theorem met_HostMailboxes_4 : ∃ (s : State) (n : Fin 4) (d : Datagram) (b : List Byte), (Fresh s n d 6 ∧ SupIdle s) ∧ (b = (s.plain d).body) ∧ (mbxOk (s.reqOf n d) = true ∧ byteAt b 0 = 1 ∧ dgNode d = s.pos ∧ s.running = true) ∧ (s.mbxFull (byteAt b 1) = false ∧ leAt b 2 2 = 0) :=
  ⟨opNode, 3, dgram 6 0 6 0 0x103 [1, 4, 0, 0], (dgram 6 0 6 0 0x103 [1, 4, 0, 0]).body, by decide +kernel⟩
theorem met_HostMailboxes_5 : ∃ (s : State) (n : Fin 4) (d : Datagram) (b : List Byte), (Fresh s n d 6 ∧ SupIdle s) ∧ (b = (s.plain d).body) ∧ (mbxOk (s.reqOf n d) = true ∧ byteAt b 0 = 1 ∧ dgNode d = s.pos ∧ s.running = true) ∧ (s.mbxFull (byteAt b 1) = false ∧ leAt b 2 2 ≠ 0 ∧ (s.sess n).recv = none) :=
  ⟨opNode, 3, dgram 6 0 6 0 0x103 [1, 4, 100, 0], (dgram 6 0 6 0 0x103 [1, 4, 100, 0]).body, by decide +kernel⟩
theorem met_HostMailboxes_6 : ∃ (s : State) (u : State) (v : State) (n : Fin 4) (d : Datagram) (b : List Byte) (ws : List Word) (e : Bool) (e2 : Bool) (k : Nat), (Fresh s n d 6 ∧ SupIdle s) ∧ (b = (s.plain d).body) ∧ (mbxOk (s.reqOf n d) = true ∧ byteAt b 0 = 1 ∧ dgNode d = s.pos ∧ s.running = true) ∧ (s.mbxFull (byteAt b 1) = true ∧ s.flag (F.MBX_CHn_STAT_STATE (byteAt b 1)) = true) ∧ ((s.taken n d).countReq.readWords .ha (s.get (F.MBX_CHn_STAT_LEN (byteAt b 1))) (R.MBX_CHn_Di (byteAt b 1) 0) = (u, ws, e)) ∧ (u.writeWords .ha [0x40000000] (R.MBX_CHn_CTRL (byteAt b 1)) = (v, k, e2) ∧ v.sessOpen n = true) :=
  ⟨mbxHostFull, (mbxHostFull.taken 3 recvDg).wr R.SUP_CSEQ 1, (((mbxHostFull.taken 3 recvDg).wr R.SUP_CSEQ 1).writeWords .ha [0x40000000] (R.MBX_CHn_CTRL 5)).1, 3, recvDg, (recvDg).body, [77], false, false, 1, by decide +kernel⟩
theorem met_HostMailboxes_7 : ∃ (s : State) (n : Fin 4) (d : Datagram) (b : List Byte), (Fresh s n d 6 ∧ SupIdle s) ∧ (b = (s.plain d).body) ∧ (mbxOk (s.reqOf n d) = true ∧ byteAt b 0 = 1 ∧ dgNode d ≠ s.pos) :=
  ⟨opNode, 3, dgram 6 0 6 0x10 0x103 [1, 4, 0, 0], (dgram 6 0 6 0x10 0x103 [1, 4, 0, 0]).body, by decide +kernel⟩
theorem met_HostMailboxes_8 : ∃ (s : State) (u : State) (n : Fin 4) (r : Req), (s.sys.inReset = false) ∧ ((s.sess n).recv = some r ∧ r.sess = n.val) ∧ (u = s.runUp ((s.sess n).recvAt + msTicks (leAt r.body 2 2)) ∧ u.sessOpen n = true) ∧ (r.node ≠ u.pos ∨ u.mbxFull (byteAt r.body 1) = false) :=
  ⟨recvNode 0, (recvNode 0).runUp (msTicks 100), 3, ⟨3, 6, 6, 0, false, [1, 4, 100, 0]⟩, by decide +kernel⟩
theorem met_HostMailboxes_9 : ∃ (s : State) (n : Fin 4) (r : Req), (s.sys.inReset = false) ∧ ((s.sess n).recv = some r ∧ r.sess = n.val) ∧ (r.node = s.pos ∧ s.mbxFull (byteAt r.body 1) = false) :=
  ⟨recvNode 0, 3, ⟨3, 6, 6, 0, false, [1, 4, 100, 0]⟩, by decide +kernel⟩
theorem met_HostMailboxes_10 : ∃ (s : State) (n : Fin 4) (r : Req), (s.sys.inReset = false) ∧ ((s.sess n).recv = some r ∧ r.sess = n.val) ∧ (r.node ≠ s.pos ∧ s.isPrimary = true ∧ (s.sess n).polled ≠ some s.scn) :=
  ⟨recvNode 0x10, 3, ⟨3, 6, 6, 0x10, false, [1, 4, 100, 0]⟩, by decide +kernel⟩
theorem met_HostMailboxes_11 : ∃ (s : State) (n : Fin 4), (s.sys.inReset = false) ∧ ((s.sess n).recv = none) :=
  ⟨opNode, 0, by decide +kernel⟩
theorem met_HostMailboxes_12 : ∃ (s : State) (u : State) (n : Fin 4) (d : Datagram) (b : List Byte) (ws : List Word) (e : Bool), (Fresh s n d 6 ∧ SupIdle s) ∧ (b = (s.plain d).body) ∧ (mbxOk (s.reqOf n d) = true ∧ byteAt b 0 = 2 ∧ dgNode d = s.pos ∧ s.running = true) ∧ ((s.taken n d).countReq.readWords .ha 1 (R.MBX_CHn_STAT (byteAt b 1)) = (u, ws, e) ∧ u.sessOpen n = true) :=
  ⟨opNode, (opNode.taken 3 statDg).wr R.SUP_CSEQ 1, 3, statDg, (statDg).body, [0], false, by decide +kernel⟩
theorem met_HostMailboxes_13 : ∃ (s : State) (n : Fin 4) (d : Datagram) (b : List Byte), (Fresh s n d 6 ∧ SupIdle s) ∧ (b = (s.plain d).body) ∧ (mbxOk (s.reqOf n d) = true ∧ byteAt b 0 = 2 ∧ dgNode d ≠ s.pos) :=
  ⟨opNode, 3, dgram 6 0 6 0x10 0x103 [2, 4, 0, 0], (dgram 6 0 6 0x10 0x103 [2, 4, 0, 0]).body, by decide +kernel⟩
theorem met_SessionsAndAttestation_1 : ∃ (s : State) (n : Fin 4) (d : Datagram), (s.sys.inReset = false) ∧ (s.portUp = true ∧ dgTyp d = 7 ∧ dgSid d = 0 ∧ dgHeadOk d = true ∧ dgOp d = 1 ∧ bit (dgFlags d) 1 = false) ∧ (d.body.length = 72 ∧ s.keyRole (byteAt d.body 1) ≠ 0 ∧ sm2KeyOk (hostEph d.body).1 (hostEph d.body).2 = true) ∧ (s.flag F.SUP_SESS_CFG_ENC_REQ = false ∨ bit (byteAt d.body 2) 0 = true) ∧ (s.sessOpen n = false ∧ s.sessHalf n = false ∧ (∀ m : Fin 4, m < n → s.sessOpen m = true ∨ s.sessHalf m = true)) ∧ (s.sessUsed < s.get F.SUP_SESS_CFG_MAX) :=
  ⟨{ sessNode with img := { sessNode.img with image := { hostKeys := [(5, 2, keyG)] } } }, 0, dgram 7 0 0 0 0 ([1, 5, 0, 0, 0, 0, 0, 0] ++ beBytes 64 keyG.toNat), by decide +kernel⟩
theorem met_SessionsAndAttestation_2 : ∃ (s : State) (d : Datagram), (s.sys.inReset = false) ∧ (s.portUp = true ∧ dgTyp d = 7 ∧ dgSid d = 0 ∧ dgHeadOk d = true ∧ dgOp d = 1 ∧ bit (dgFlags d) 1 = false) ∧ (d.body.length ≠ 72 ∨ s.keyRole (byteAt d.body 1) = 0 ∨ sm2KeyOk (hostEph d.body).1 (hostEph d.body).2 = false ∨ s.flag F.SUP_SESS_CFG_ENC_REQ = true ∧ bit (byteAt d.body 2) 0 = false) :=
  ⟨sessNode, dgram 7 0 0 0 0 [1, 5, 0, 0], by decide +kernel⟩
theorem met_SessionsAndAttestation_3 : ∃ (s : State) (n : Fin 4) (d : Datagram) (b : List Byte), (s.sys.inReset = false) ∧ (s.portUp = true ∧ dgTyp d = 7 ∧ dgSid d ≠ 0 ∧ s.sender d = some n.val ∧ s.sessHalf n = true ∧ s.sessOpen n = false) ∧ (b = (s.plain d).body ∧ byteAt b 0 = 3 ∧ b.length = 36 ∧ b.drop 4 = (s.sess n).sa) :=
  ⟨halfNode.setSess 3 { halfNode.sess 3 with sa := List.replicate 32 7, enc := true }, 3, dgram 7 0 1 0 0x103 ([3, 0, 0, 0] ++ List.replicate 32 7), [3, 0, 0, 0] ++ List.replicate 32 7, by decide +kernel⟩
theorem met_SessionsAndAttestation_4 : ∃ (s : State) (n : Fin 4) (d : Datagram) (b : List Byte), (s.sys.inReset = false) ∧ (s.portUp = true ∧ dgTyp d = 7 ∧ dgSid d ≠ 0 ∧ s.sender d = some n.val ∧ s.sessHalf n = true ∧ s.sessOpen n = false) ∧ (b = (s.plain d).body ∧ byteAt b 0 = 3 ∧ (b.length ≠ 36 ∨ b.drop 4 ≠ (s.sess n).sa)) :=
  ⟨halfNode, 3, dgram 7 0 1 0 0x103 (3 :: List.replicate 35 0), 3 :: List.replicate 35 0, by decide +kernel⟩
theorem met_SessionsAndAttestation_5 : ∃ (s : State) (n : Fin 4) (d : Datagram), (s.sys.inReset = false) ∧ (s.portUp = true ∧ dgTyp d = 7 ∧ dgSid d ≠ 0 ∧ s.sender d = some n.val ∧ byteAt (s.plain d).body 0 = 5) ∧ (s.sessHalf n = true ∨ scnLater (dgSeq d) (s.sess n).lastSeq = true) :=
  ⟨sessNode, 3, dgram 7 0 6 0 0x103 [5, 0, 0, 0], by decide +kernel⟩
theorem met_SessionsAndAttestation_6 : ∃ (s : State) (u : State) (n : Fin 4), (s.sys.inReset = false) ∧ (s.sessHalf n = true ∧ u = s.runUp ((s.sess n).seen + msTicks 2000)) :=
  ⟨halfNode, halfNode.runUp (msTicks 2000), 3, by decide +kernel⟩
theorem met_SessionsAndAttestation_7 : ∃ (s : State) (u : State) (n : Fin 4), (s.sys.inReset = false) ∧ (s.sessOpen n = true ∧ u = s.runUp ((s.sess n).seen + msTicks (1000 * s.get F.SUP_SESS_CFG_IDLE)) ∧ u.sessOpen n = true) :=
  ⟨sessNode, sessNode.runUp (msTicks (1000 * sessNode.get F.SUP_SESS_CFG_IDLE)), 3, by decide +kernel⟩
theorem met_SessionsAndAttestation_8 : ∃ (s : State) (m : Master), (s.sys.inReset = false ∧ s.mastersRun m = true) :=
  ⟨sessNode, .mp, by decide +kernel⟩
theorem met_SessionsAndAttestation_9 : ∃ (s : State) (n : Fin 4) (d : Datagram) (b : List Byte), (Fresh s n d 8 ∧ SupIdle s) ∧ (b = (s.plain d).body) ∧ (byteAt b 0 = 0 ∧ dgNode d = s.pos ∧ s.pos ≠ 0xFF ∧ b.length = 4) :=
  ⟨opNode, 3, dgram 8 0 6 0 0x103 [0, 0, 0, 0], (dgram 8 0 6 0 0x103 [0, 0, 0, 0]).body, by decide +kernel⟩
theorem met_SessionsAndAttestation_10 : ∃ (s : State) (n : Fin 4) (d : Datagram) (b : List Byte), (Fresh s n d 8 ∧ SupIdle s) ∧ (b = (s.plain d).body) ∧ (byteAt b 0 = 1 ∧ dgNode d = s.pos ∧ s.pos ≠ 0xFF ∧ b.length = 20) :=
  ⟨opNode, 3, dgram 8 0 6 0 0x103 (1 :: List.replicate 19 0), (dgram 8 0 6 0 0x103 (1 :: List.replicate 19 0)).body, by decide +kernel⟩
theorem met_SessionsAndAttestation_11 : ∃ (s : State) (n : Fin 4) (d : Datagram) (b : List Byte), (Fresh s n d 8 ∧ SupIdle s) ∧ (b = (s.plain d).body) ∧ (byteAt b 0 = 1 ∧ dgNode d ≠ s.pos ∧ dgNode d ≠ 0xFF ∧ b.length = 20) :=
  ⟨opNode, 3, dgram 8 0 6 0x10 0x103 (1 :: List.replicate 19 0), (dgram 8 0 6 0x10 0x103 (1 :: List.replicate 19 0)).body, by decide +kernel⟩
theorem met_SessionsAndAttestation_12 : ∃ (s : State) (u : State) (a : Active), (s.sys.inReset = false) ∧ (s.sup.active = some a ∧ a.req.typ = 8 ∧ a.req.node ≠ s.pos ∧ s.cycles16 a.scn = true) ∧ (u = s.runUp (a.at_ + 2 * s.cycleLen + signTicks) ∧ u.sup.active = some a ∧ u.sessOpen a.req.sess = true ∧ s.isPrimary = true ∧ u.isPrimary = true) :=
  ⟨attWait, attWait.runUp (2 * attWait.cycleLen + signTicks), { req := ⟨3, 8, 6, 0x10, false, [0, 0, 0, 0]⟩, scn := 0xFFFFFFF0 }, by decide +kernel⟩
theorem met_SessionsAndAttestation_13 : ∃ (s : State), (s.sys.inReset = false) :=
  ⟨sessNode.wr R.SUP_CNT_TX 7, by decide +kernel⟩
theorem met_SessionsAndAttestation_14 : ∃ (s : State), (s.sys.inReset = false) ∧ (s.portUp = true) :=
  ⟨sessNode, by decide +kernel⟩
theorem met_SessionsAndAttestation_15 : ∃ (s : State), (s.sys.inReset = false) :=
  ⟨sessNode, by decide +kernel⟩
theorem met_SessionsAndAttestation_16 : ∃ (s : State) (v6 : Bool) (target : BitVec 128), (s.sys.inReset = false) ∧ (s.portUp = true ∧ s.ownIp v6 target.toNat = true ∧ s.flag F.SUP_CTRL_ECHO = true) :=
  ⟨((sessNode.setFlag F.SUP_IP4_CFG_EN true).wr R.SUP_IP4 9).setFlag F.SUP_CTRL_ECHO true, false, 9, by decide +kernel⟩
theorem met_SessionsAndAttestation_17 : ∃ (s : State), (s.sys.inReset = false) ∧ (s.supRuns = true ∧ s.sup.linkFault = false) ∧ (s.sessOpen 0 = true ∨ s.sessOpen 1 = true ∨ s.sessOpen 2 = true ∨ s.sessOpen 3 = true) :=
  ⟨sessNode, by decide +kernel⟩
theorem met_SessionsAndAttestation_18 : ∃ (s : State), (s.sys.inReset = false) ∧ (s.sessOpen 0 = false ∧ s.sessOpen 1 = false ∧ s.sessOpen 2 = false ∧ s.sessOpen 3 = false) :=
  ⟨prim, by decide +kernel⟩
theorem met_SessionsAndAttestation_19 : ∃ (s : State), (s.sys.inReset = false) ∧ (s.supRuns = true ∧ s.sup.linkFault = true) :=
  ⟨{ sessNode with sup := { sessNode.sup with linkFault := true } }, by decide +kernel⟩
theorem met_MailboxHandshake_1 : ∃ (s : State) (m : Master) (n : Fin 16), (s.sys.inReset = false ∧ s.mastersRun m = true) ∧ (s.isSender n m = true ∧ s.mbxFull n = false) :=
  ⟨mbxTx, .mp, 4, by decide +kernel⟩
theorem met_MailboxHandshake_2 : ∃ (s : State) (m : Master) (n : Fin 16), (s.sys.inReset = false ∧ s.mastersRun m = true) ∧ (s.isSender n m = true ∧ s.mbxFull n = true) :=
  ⟨mbxTx.setFlag (F.MBX_CHn_STAT_STATE 4) true, .mp, 4, by decide +kernel⟩
theorem met_MailboxHandshake_3 : ∃ (s : State) (m : Master) (n : Fin 16), (s.sys.inReset = false ∧ s.mastersRun m = true) ∧ (s.isSender n m = false) :=
  ⟨mbxTx, .ha, 4, by decide +kernel⟩
theorem met_MailboxHandshake_4 : ∃ (s : State) (m : Master) (n : Fin 16) (len : BitVec 5), (s.sys.inReset = false ∧ s.mastersRun m = true) ∧ (s.isSender n m = true ∧ s.mbxFull n = false ∧ 1 ≤ len.toNat ∧ len.toNat ≤ 16) ∧ (s.get (F.MBX_CHn_BIND_RCV n) = 2) :=
  ⟨mbxTx, .mp, 4, 16, by decide +kernel⟩
theorem met_MailboxHandshake_5 : ∃ (s : State) (m : Master) (n : Fin 16) (len : BitVec 5), (s.sys.inReset = false ∧ s.mastersRun m = true) ∧ (s.isSender n m = true ∧ s.mbxFull n = false ∧ 1 ≤ len.toNat ∧ len.toNat ≤ 16) ∧ (s.get (F.MBX_CHn_BIND_RCV n) = 0) :=
  ⟨mbxTx.put (F.MBX_CHn_BIND_RCV 4) 0, .mp, 4, 1, by decide +kernel⟩
theorem met_MailboxHandshake_6 : ∃ (s : State) (m : Master) (n : Fin 16) (len : BitVec 5), (s.sys.inReset = false ∧ s.mastersRun m = true) ∧ (s.isSender n m = true ∧ (len.toNat = 0 ∨ 16 < len.toNat ∨ s.mbxFull n = true)) :=
  ⟨mbxTx, .mp, 4, 17, by decide +kernel⟩
theorem met_MailboxHandshake_7 : ∃ (s : State) (m : Master) (n : Fin 16) (len : BitVec 5), (s.sys.inReset = false ∧ s.mastersRun m = true) ∧ (s.isSender n m = true ∧ s.mbxFull n = false ∧ 1 ≤ len.toNat ∧ len.toNat ≤ 16) ∧ (s.get (F.MBX_CHn_BIND_RCV n) = 1 ∧ (∀ i : Fin 4, (s.sess i).recv = none)) :=
  ⟨mbxTx.put (F.MBX_CHn_BIND_RCV 4) 1, .mp, 4, 2, by decide +kernel⟩
theorem met_MailboxHandshake_8 : ∃ (s : State) (m : Master) (n : Fin 16), (s.sys.inReset = false ∧ s.mastersRun m = true) ∧ (s.isSender n m = false) :=
  ⟨mbxTx, .ha, 4, by decide +kernel⟩
theorem met_MailboxHandshake_9 : ∃ (s : State) (m : Master) (n : Fin 16), (s.sys.inReset = false ∧ s.mastersRun m = true) ∧ (s.isReceiver n m = true ∧ s.mbxFull n = true) :=
  ⟨(mbxRx.setFlag (F.MBX_CHn_STAT_STATE 5) true).put (F.MBX_CHn_BIND_SND 5) 0, .mp, 5, by decide +kernel⟩
theorem met_MailboxHandshake_10 : ∃ (s : State) (m : Master) (n : Fin 16), (s.sys.inReset = false ∧ s.mastersRun m = true) ∧ (s.isReceiver n m = true ∧ s.mbxFull n = true) ∧ (s.get (F.MBX_CHn_BIND_SND n) = 2) :=
  ⟨mbxRx.setFlag (F.MBX_CHn_STAT_STATE 5) true, .mp, 5, by decide +kernel⟩
theorem met_MailboxHandshake_11 : ∃ (s : State) (m : Master) (n : Fin 16), (s.sys.inReset = false ∧ s.mastersRun m = true) ∧ (s.isReceiver n m = true ∧ s.mbxFull n = false) :=
  ⟨mbxRx, .mp, 5, by decide +kernel⟩
theorem met_MailboxHandshake_12 : ∃ (s : State) (m : Master) (n : Fin 16), (s.sys.inReset = false ∧ s.mastersRun m = true) ∧ (s.isReceiver n m = false) :=
  ⟨mbxRx, .ha, 5, by decide +kernel⟩
theorem met_MailboxHandshake_13 : ∃ (s : State) (src : BitVec 8) (data : List Byte) (n : Nat) (len : Nat), (s.sys.inReset = false) ∧ (byteAt data 1 = n ∧ byteAt data 3 = len ∧ n < 16 ∧ 1 ≤ len ∧ len ≤ 16) ∧ (s.isSender n .ra = true ∧ s.get (F.MBX_CHn_BIND_PEER n) = src.toNat ∧ s.get (F.MBX_CHn_BIND_PCH n) = byteAt data 2 ∧ s.mbxFull n = false) ∧ (s.get (F.MBX_CHn_BIND_RCV n) = 0) :=
  ⟨mbxRx, 0x11, [1, 5, 3, 1, 77, 0, 0, 0], 5, 1, by decide +kernel⟩
theorem met_MailboxHandshake_14 : ∃ (s : State) (src : BitVec 8) (data : List Byte) (n : Nat) (len : Nat), (s.sys.inReset = false) ∧ (byteAt data 1 = n ∧ byteAt data 3 = len ∧ n < 16 ∧ 1 ≤ len ∧ len ≤ 16) ∧ (s.isSender n .ra = true ∧ s.get (F.MBX_CHn_BIND_PEER n) = src.toNat ∧ s.get (F.MBX_CHn_BIND_PCH n) = byteAt data 2 ∧ s.mbxFull n = false) ∧ (s.get (F.MBX_CHn_BIND_RCV n) = 1 ∧ (∀ i : Fin 4, (s.sess i).recv = none)) :=
  ⟨mbxRx.put (F.MBX_CHn_BIND_RCV 5) 1, 0x11, [1, 5, 3, 1, 77, 0, 0, 0], 5, 1, by decide +kernel⟩
theorem met_MailboxHandshake_15 : ∃ (s : State) (data : List Byte), (s.sys.inReset = false) ∧ (byteAt data 1 < 16) ∧ (s.isSender (byteAt data 1) .ra = false ∨ s.mbxFull (byteAt data 1) = true) :=
  ⟨mbxRx, [1, 6, 3, 1, 77, 0, 0, 0], by decide +kernel⟩
theorem met_MailboxHandshake_16 : ∃ (s : State) (src : BitVec 8) (data : List Byte) (n : Nat), (s.sys.inReset = false) ∧ (byteAt data 1 = n ∧ n < 16 ∧ s.isReceiver n .ra = true ∧ s.mbxFull n = true) ∧ (s.get (F.MBX_CHn_BIND_PEER n) = src.toNat ∧ s.get (F.MBX_CHn_BIND_PCH n) = byteAt data 2 ∧ s.get (F.MBX_CHn_BIND_SND n) = 0) :=
  ⟨mbxTx.setFlag (F.MBX_CHn_STAT_STATE 4) true, 0x11, [2, 4, 3, 0], 4, by decide +kernel⟩
theorem met_MailboxHandshake_17 : ∃ (s : State) (src : BitVec 8) (data : List Byte) (n : Nat), (s.sys.inReset = false) ∧ (byteAt data 1 = n ∧ n < 16 ∧ s.isReceiver n .ra = true ∧ s.mbxFull n = true) ∧ (s.get (F.MBX_CHn_BIND_PEER n) = src.toNat ∧ s.get (F.MBX_CHn_BIND_PCH n) = byteAt data 2 ∧ s.get (F.MBX_CHn_BIND_SND n) = 0) :=
  ⟨mbxTx.setFlag (F.MBX_CHn_STAT_STATE 4) true, 0x11, [3, 4, 3, 0], 4, by decide +kernel⟩
theorem met_MailboxHandshake_18 : ∃ (s : State) (src : BitVec 8) (data : List Byte), (s.sys.inReset = false) ∧ (s.mbxFull (byteAt data 1) = false ∨ s.get (F.MBX_CHn_BIND_PEER (byteAt data 1)) ≠ src.toNat) :=
  ⟨mbxTx, 0x11, [3, 4, 3, 0], by decide +kernel⟩
theorem met_MailboxHandshake_19 : ∃ (s : State) (src : BitVec 8) (data : List Byte), (s.sys.inReset = false) ∧ (s.mbxFull (byteAt data 1) = false ∨ s.get (F.MBX_CHn_BIND_PEER (byteAt data 1)) ≠ src.toNat) :=
  ⟨mbxTx, 0x11, [2, 4, 3, 0], by decide +kernel⟩
theorem met_MailboxHandshake_20 : ∃ (s : State) (n : Fin 16) (go : Word), (s.sys.inReset = false) ∧ (Bank.at none s.mbx.goAt n = some go ∧ s.flag (F.MBX_CHn_STAT_STATE n) = true) ∧ (s.get F.MBX_CFG_TMO ≤ (s.scn - go).toNat) :=
  ⟨{ mbxTx.setFlag (F.MBX_CHn_STAT_STATE 4) true with mbx := { goAt := [(4, some 0xFFFF0000)] } }, 4, 0xFFFF0000, by decide +kernel⟩
theorem met_MailboxHandshake_21 : ∃ (s : State) (n : Fin 16), (s.sys.inReset = false) ∧ (Bank.at none s.mbx.goAt n = none ∨ s.flag (F.MBX_CHn_STAT_STATE n) = false) :=
  ⟨mbxTx, 4, by decide +kernel⟩
theorem met_MailboxHandshake_22 : ∃ (s : State), (s.sys.inReset = false) :=
  ⟨mbxTx.wr R.MBX_CNT_STRAY 7, by decide +kernel⟩
theorem met_FullWritesStoreWithoutReading_1 : ∃ (s : State) (m : Master) (a : Word), (s.sys.inReset = false ∧ s.mastersRun m = true) ∧ (inSram a.toNat = true ∧ a.toNat % 8 = 0 ∧ s.mayStore m a.toNat = true) :=
  ⟨cell.eccSet 0x20300008 true, .mp, 0x20300008, by decide +kernel⟩
theorem met_FullWritesStoreWithoutReading_2 : ∃ (s : State) (m : Master) (a : Word), (s.sys.inReset = false ∧ s.mastersRun m = true) ∧ (inSram a.toNat = true ∧ a.toNat % 8 ≠ 0) :=
  ⟨cell.eccSet 0x20300008 true, .mp, 0x20300004, by decide +kernel⟩
theorem met_TrainingCodewordsTakeThePort_1 : ∃ (s : State) (p : Fin 5) (l : Fin 2), (s.sys.inReset = false) ∧ (p.val < 4 ∨ l = 0) ∧ (s.laneState p l = Lane.frame ∧ (s.lane p l).trained = true ∧ s.mayStart p = true) :=
  ⟨(cell.setLaneState 2 1 4).setLane 2 1 { trn := 8, far := some (2, 1, 0) }, 2, 1, by decide +kernel⟩
theorem met_TrainingCodewordsTakeThePort_2 : ∃ (s : State) (p : Fin 5) (l : Fin 2), (s.laneState p l ≠ Lane.frame) :=
  ⟨cell.setLaneState 2 1 6, 2, 1, by decide +kernel⟩
theorem met_StepRunsTheFrontCommand_1 : ∃ (s : State) (c : Instr) (q : List Instr), (s.pending = c :: q) :=
  ⟨{ cell with pending := [.vaultSecond, .batchItemApply] }, .vaultSecond, [.batchItemApply], by decide +kernel⟩
theorem met_StepRunsTheFrontCommand_2 : ∃ (s : State), (s.pending = []) :=
  ⟨cell, by decide +kernel⟩
theorem met_StepRunsTheFrontCommand_3 : ∃ (s : State), (s.pending = [] ∧ s.sys.inReset = false) :=
  ⟨cell, by decide +kernel⟩
theorem met_ResetState_1 : ∃ (s : State), (s = State.reset) :=
  ⟨State.reset, by decide +kernel⟩
theorem met_EveryStepKeepsTheCanonicalForms_1 : ∃ (s : State), (s.Inv) :=
  ⟨{ cell with pending := [.batchItemApply] }, by decide +kernel⟩
theorem met_NothingRunsInReset_1 : ∃ (s : State), (s.sys.inReset = true) :=
  ⟨State.reset, by decide +kernel⟩
theorem met_NothingRunsInReset_2 : ∃ (s : State), (s.sys.inReset = true ∧ s.pending = []) :=
  ⟨State.reset, by decide +kernel⟩

/-! ### WellFormed: a term for each check, refused -/

theorem test_wf_accepts : Instr.wf (.upWave [(0, dnCw)]) = true := by decide +kernel
theorem test_wf_refuses_short_codeword : Instr.wf (.downWave [(0, [1, 2])]) = false := by decide
theorem test_wf_refuses_levels : Instr.wf (.codewordReceived 0 0 (List.replicate 800 2)) = false := by decide +kernel
theorem test_wf_refuses_chip : Instr.wf (.sramInitDone (some { sfdp := some { size := 9, modes := [] }, mem := [] })) = false := by
  decide
theorem test_wf_refuses_access_size : Instr.wf (.sramAccess .mp true 0x20000000 3 0 .clean) = false := by decide
theorem test_wf_refuses_register_size : Instr.wf (.registerWrite .mp 0x40000000 5 0 .clean) = false := by decide
theorem test_wf_refuses_role : Instr.wf (.verifyDone { table := [{ pos := 2, role := 5, stack := 0, cell := 0 }] }) = false := by
  decide
theorem test_wf_refuses_host_key : Instr.wf (.verifyDone { hostKeys := [(8, 1, 0)] }) = false := by decide
theorem test_wf_refuses_class : Instr.wf (.faultRaise ⟨0x0101, 6, 0, 0, 0, true⟩ false) = false := by decide
theorem test_wf_refuses_kind : Instr.wf (.brokenPair ⟨0x0101, 1, 0, 16, 0, true⟩ true) = false := by decide
theorem test_wf_refuses_samples : Instr.wf (.meterSample [1, 2] false) = false := by decide
theorem test_wf_refuses_empty_batch : Instr.wf (.batchStage 1 9 0 []) = false := by decide
theorem test_wf_refuses_long_batch : Instr.wf (.batchStage 1 9 257 []) = false := by decide
theorem test_wf_refuses_ledger_words : Instr.wf (.failoverLedgerRead [(0x10, [[1]])]) = false := by decide
theorem test_wf_refuses_short_header : Instr.wf (.readRequest ⟨[], [1], [], []⟩) = false := by decide
theorem test_wf_refuses_short_message : Instr.wf (.deliverReceived 1 [1]) = false := by decide

/-! ### Numbers of the spec's worked examples -/

/-- The location code of R25's worked example. -/
theorem test_location_code : locCode 1 0 1 17 0x2D 1 3 1 = 0x22896AD0 := by decide

/-- The addresses of the worked example of the address map. -/
theorem test_addresses : R.PWM_LCHn_STAT 3 = 0x400804E4 ∧ R.CE_SLOTn_CFG 212 = 0x4100D4C0 ∧
    R.BAL_STKs_CELLi_STAT 1 17 = 0x40071A28 ∧ R.FLT_RECr_Ww 18 0 = 0x400E0340 := by decide

/-- R37: SCN order is modular. -/
theorem test_scn_order : scnLater 0 0xFFFFFFFF = true ∧ scnLater 5 5 = false ∧ scnLater 0x80000000 0 = false := by decide

/-- R275, the re-spacing example: cell 18 with order 17 of 47. -/
theorem test_phase_target : (node 1 0 8).phaseTarget 1 17 47 = 0x5C9882B9 := by decide +kernel

/-- R379, the metering example: 6 150 890.8 µvarh leave 0.8, and the next cycle books one more and leaves 0.6. -/
theorem test_residue : (accTake {} (Frac.mk' 61508908 10)).acc = 6150890 ∧
    accTake (accTake {} (Frac.mk' 61508908 10)) (Frac.mk' 61508908 10) = { acc := 6150890 + 6150891, copy := 6150890 + 6150891, res := ⟨3, 5⟩ } := by
  decide +kernel

/-- R262, the plausibility example: evaluation 6 enters WARN with PERSIST 4, evaluation 10 enters FAULT. -/
theorem test_plausibility : plmNext 1 4 3 0 true true = (2, 0, 0) ∧ plmNext 2 4 0 3 true true = (3, 0, 0) := by decide

/-- The BUMPLESS example of slot 212: bank A gives 0.8151. -/
def slotNode : State :=
  let n := 212
  let w := fun (k : Nat) (x : Int) (d : Nat) (s : State) => s.wrN (R.CE_SLOTn_BKA_B0 n + 4 * k) (f32.ofFrac (Frac.mk' x d))
  (cell.setFlag (F.CE_SLOTn_CFG_FORM n) true) |> w 0 60 100 |> w 1 (-95) 100 |> w 2 40 100 |> w 3 (-2) 100 |> w 4 (-120) 100
    |> w 5 17 100 |> w 6 3 100
def fr (x : Int) (d : Nat) : Nat := f32.ofFrac (Frac.mk' x d)
theorem test_compensator :
    let v := slotNode.acc 212 0 (fr (-1) 10) [fr 5 100, fr 6 100, fr 7 100, fr 90 100, fr 90 100, fr 90 100]
    f32.blt (fr 81509 100000) v = true ∧ f32.blt v (fr 81511 100000) = true := by decide +kernel

/-- The outcome is a next state that passes the check. -/
def after (o : Host.Outcome State Fault Refusal) (p : State → Bool) : Bool :=
  match o with
  | .next t => p t
  | _ => false

/-- The measurement example of station time at 0x2D: θ 3.2 ns, d 310.275 ns, CHAIN 2.8 ns, TIM_ERR 717. Stamps are in units
of 2^-16 ns. -/
def timeNode : State :=
  let ns := fun (x : Nat) (d : Nat) => BitVec.ofNat 48 (x * 65536 / d)
  let a := ((onRing (cell.put F.DPX_MBR_STAT_OBEY 0)).wrN (R.TIM_PORTp_ASYM 0) 2500)
  { a with tim := { port := [(0, { t1 := some (ns 1000000000 1), t2 := ns 10000003136 10, t4 := some (ns 99998780695 100)
                                   t3m := some (ns 999987500 1), locked := true, root := 0, hops := 3, peer := 0x2C
                                   chain := Frac.mk' (-2) 5 })] } }
theorem test_time_measurement : after (exec (.linkMeasurement 0) timeNode) (fun t =>
    t.rd R.TIM_ERR == 717 && t.num (R.TIM_PORTp_DLY 0) == 79430 && t.servo == Servo.acquire) = true := by decide +kernel

/-- The carrier example: the shadow 930 175 follows 937 500 with PER 2 500 000, so L is 2 492 675. -/
def carrierNode : State :=
  let a := ((cell.wrN (R.PWM_LCHn_CFG 0) 0x80000000).wrN (R.PWM_LCHn_PER 0) 2500000).wrN (R.PWM_LCHn_PER_ACT 0) 2500000
  (a.wrN (R.PWM_LCHn_PH 0) 930175).wrN (R.PWM_LCHn_PH_ACT 0) 937500
theorem test_carrier_length : after (exec (.carrierStart 0) carrierNode) (fun t =>
    t.num (R.PWM_LCHn_LEN 0) == 2492675 && t.num (R.PWM_LCHn_PH_ACT 0) == 930175) = true := by decide +kernel

/-! ### One step each -/

/-- R74: a second of the vault, from the front of the queue. -/
theorem test_step_vault_second : after (step { cell with pending := [.vaultSecond, .batchItemApply] }) (fun t =>
    t.vault.sec == 1 && t.pending == [.batchItemApply]) = true := by decide +kernel

/-- An empty queue: the node's time moves on outside reset only. -/
theorem test_step_idle : after (step cell) (fun t => t.sys.up == cell.sys.up + 1) = true ∧
    after (step State.reset) (fun t => t == State.reset) = true := by decide +kernel

/-- R71 and R568: a rail reset keeps the lockout latch, a power-on reset lifts it. -/
theorem test_lockout_latch :
    after (exec (.railReset .vana) { cell with flt := { lockout := true } }) (fun t => t.flt.lockout) = true ∧
    after (exec .powerOnReset { cell with flt := { lockout := true } }) (fun t => !t.flt.lockout) = true := by decide +kernel

/-- R168: the primary's down wave sends codewords. -/
theorem test_down_wave_sends : after (exec (.downWave []) downNode) (fun t => t.out != []) = true := by decide +kernel

/-- A state that a step keeps sound. -/
theorem test_step_sound : cell.Inv ∧ ∃ t, step cell = .next t ∧ t.Inv := ⟨by decide +kernel, _, rfl, by decide +kernel⟩

/-- R125: bits 00, 01, 11 and 10 take the symbol values 0 to 3, at levels −3 to +3. -/
theorem test_gray : [0, 1, 3, 2].map grayOf = [0, 1, 2, 3] ∧ [0, 1, 2, 3].map levelOf = [-3, -1, 1, 3] := by decide

/-- R126: the receiver recovers what was precoded. -/
theorem test_precode : unprecode 0 (precode 0 [3, 3, 0, 1, 2]) = [3, 3, 0, 1, 2] := by decide

/-- R128, R129: an empty payload has no parity, and its first symbol is the first ten bits of the seed of port A, lane 0. -/
theorem test_line_zero :
    (lineOf 0 0 (List.replicate 190 0)).take 1 = [0x15A] ∧ (lineOf 0 0 (List.replicate 190 0)).drop 152 = List.replicate 8 0 := by
  decide +kernel

/-- R128: four symbol errors are corrected. -/
theorem test_fec_corrects : rsDecode ((List.replicate 160 0).set 3 1 |>.set 70 1023 |>.set 120 5 |>.set 159 512) =
    (List.replicate 160 0, some 4) := by decide +kernel

/-- GB/T 32905, first example: the SM3 digest of "abc". -/
theorem test_sm3 : sm3 [0x61, 0x62, 0x63] = 0x66C7F0F462EEEDD9D1F2D46BDC10E4E24167C4875CF2F7A2297DA02B8F4BA8E0 := by
  decide +kernel

/-- GB/T 32907, first example: SM4 of a block under itself. -/
theorem test_sm4 : beNat (sm4 (beBytes 16 0x0123456789ABCDEFFEDCBA9876543210) (beBytes 16 0x0123456789ABCDEFFEDCBA9876543210)) =
    0x681EDF34D206965E86B3E94F536E4246 := by decide +kernel

/-- GB/T 32918.5: the base point lies on the curve. -/
theorem test_sm2_base : sm2KeyOk Sm2.gx Sm2.gy = true := by decide +kernel

end Sys2Proof.Tests
end

section
/-! Proofs of the statements of 00_scope.md. First, what every command keeps: the canonical forms, the waiting commands,
what has been sent and the free values used, and that no raise waits at its end (O58). -/
namespace Sys2Proof.Machine

/-! ### Every step keeps the canonical forms (O58) -/

/-- What every command keeps, the resets and the vault's events included: `Keeps` without the lockout latch and the vault's
seconds, which a power-on reset and the vault's own events may move. -/
structure KeepsForms (s t : State) : Prop where
  regs : Regs.wf s.regs = true → Regs.wf t.regs = true
  mem : Memory.wf s.mem = true → Memory.wf t.mem = true
  pending : t.pending = s.pending
  out : s.out <+: t.out
  free : s.free ≤ t.free

theorem KeepsForms.refl (s : State) : KeepsForms s s := ⟨id, id, rfl, List.prefix_refl _, Nat.le_refl _⟩

theorem KeepsForms.wr {z s : State} (h : KeepsForms z s) (a : Nat) (v : Word) : KeepsForms z (s.wr a v) :=
  ⟨fun hz => wf_wr s a v (h.regs hz), h.mem, h.pending, h.out, h.free⟩

theorem Keeps.forms {s t : State} (h : Keeps s t) : KeepsForms s t := ⟨h.regs, h.mem, h.pending, h.out, h.free⟩

/-- Any reset keeps the canonical forms, a power-on reset included: the bank is cut to the registers no reset clears. -/
theorem resetNode_keepsForms (s : State) (por pg : Bool) : KeepsForms s (s.resetNode por pg) := by
  unfold State.resetNode
  extract_lets u cause base s1
  have hu : KeepsForms s u := (keeps_updStop (Keeps.refl s)).forms
  have hbase : KeepsForms s base := ⟨fun h => Sparse.wf_filter _ _ (hu.regs h), fun _ => rfl, hu.pending, hu.out, hu.free⟩
  have hs1 : KeepsForms s s1 := hbase.wr _ _
  split
  · exact hs1
  · exact hs1.wr _ _

theorem KeepsForms.set_vault (s : State) (v : VaultSt) : KeepsForms s { s with vault := v } :=
  ⟨id, id, rfl, List.prefix_refl _, Nat.le_refl _⟩

theorem vaultSecond_keepsForms (s : State) : KeepsForms s s.vaultSecond := (KeepsForms.set_vault s _).wr _ _

theorem vaultLost_keepsForms (s : State) : KeepsForms s s.vaultLost := by
  unfold State.vaultLost
  split
  · exact KeepsForms.refl s
  · exact (((KeepsForms.set_vault s _).wr _ _).wr _ _).wr _ _

/-- Every command answers a next state (log entry 9). -/
theorem exec_answers (c : Instr) (s : State) : ∃ t, exec c s = .next t := by
  cases c <;> exact ⟨_, rfl⟩

/-- `Keeps` of every command but the three that move the lockout latch or the vault's seconds. -/
theorem exec_keeps {c : Instr} {s t : State} (h : exec c s = .next t) (h1 : c ≠ .powerOnReset) (h2 : c ≠ .vaultSecond)
    (h3 : c ≠ .vaultStateLost) : Keeps s t := by
  cases c with
  | powerOnReset => exact absurd rfl h1
  | railReset rail => exact execRailReset_keeps rail h
  | pginReset => exact execPginReset_keeps h
  | pinReset => exact execPinReset_keeps h
  | rstCtrlWrite m v => exact execRstCtrlWrite_keeps m v h
  | softReset => exact execSoftReset_keeps h
  | releaseOfReset straps dbgsel => exact execReleaseOfReset_keeps straps dbgsel h
  | vaultSwitchOver toBat => exact execVaultSwitchOver_keeps toBat h
  | vaultSecond => exact absurd rfl h2
  | xtalFail => exact execXtalFail_keeps h
  | tamperPulse returned => exact execTamperPulse_keeps returned h
  | sysVsecLoRead m => exact execSysVsecLoRead_keeps m h
  | lockDeclared => exact execLockDeclared_keeps h
  | lossOfRefin => exact execLossOfRefin_keeps h
  | refinReturn mppm => exact execRefinReturn_keeps mppm h
  | reacquireComplete => exact execReacquireComplete_keeps h
  | lossOfLock => exact execLossOfLock_keeps h
  | holdMaxExpiry => exact execHoldMaxExpiry_keeps h
  | referenceWaitEnd => exact execReferenceWaitEnd_keeps h
  | timebaseLoss => exact execTimebaseLoss_keeps h
  | sramInitDone chip => exact execSramInitDone_keeps chip h
  | fetchDone => exact execFetchDone_keeps h
  | fetchTimeout => exact execFetchTimeout_keeps h
  | verifyDone img => exact execVerifyDone_keeps img h
  | bootLock => exact execBootLock_keeps h
  | imgProvWrite m v => exact execImgProvWrite_keeps m v h
  | trialTimeout => exact execTrialTimeout_keeps h
  | imgErase m => exact execImgErase_keeps m h
  | imgProgram m => exact execImgProgram_keeps m h
  | imgVerify m => exact execImgVerify_keeps m h
  | imgArm m => exact execImgArm_keeps m h
  | imgAbort m => exact execImgAbort_keeps m h
  | imgUpdDone flashErr bufferBad => exact execImgUpdDone_keeps flashErr bufferBad h
  | admissionRequest req => exact execAdmissionRequest_keeps req h
  | admissionTimeRetry pos timeOk => exact execAdmissionTimeRetry_keeps pos timeOk h
  | fullServiceNamed locked unlocked => exact execFullServiceNamed_keeps locked unlocked h
  | stWaitExpiry => exact execStWaitExpiry_keeps h
  | spliceNamed pos locked => exact execSpliceNamed_keeps pos locked h
  | cycleBoundary spliceBad => exact execCycleBoundary_keeps spliceBad h
  | lanePllLock pll => exact execLanePllLock_keeps pll h
  | lanePllLoss pll => exact execLanePllLoss_keeps pll h
  | cdrLock p l => exact execCdrLock_keeps p l h
  | frameLock p l => exact execFrameLock_keeps p l h
  | lossOfFrame p l => exact execLossOfFrame_keeps p l h
  | lossOfSignal p l => exact execLossOfSignal_keeps p l h
  | laneRetry p l => exact execLaneRetry_keeps p l h
  | trainingDone p => exact execTrainingDone_keeps p h
  | trainingFail p err => exact execTrainingFail_keeps p err h
  | trainWaitEnd p => exact execTrainWaitEnd_keeps p h
  | elasticBufferLimit p l => exact execElasticBufferLimit_keeps p l h
  | eyeMonitorUpdate p l height width ser => exact execEyeMonitorUpdate_keeps p l height width ser h
  | chillWrite p on => exact execChillWrite_keeps p on h
  | trainWrite p => exact execTrainWrite_keeps p h
  | lnkCntClr p => exact execLnkCntClr_keeps p h
  | codewordReceived p l rx => exact execCodewordReceived_keeps p l rx h
  | fold p => exact execFold_keeps p h
  | unfoldNamed ring => exact execUnfoldNamed_keeps ring h
  | nbrReceived t2 => exact execNbrReceived_keeps t2 h
  | upWave diverted => exact execUpWave_keeps diverted h
  | upReceived => exact execUpReceived_keeps h
  | uplinkDeadline => exact execUplinkDeadline_keeps h
  | downWave diverted => exact execDownWave_keeps diverted h
  | dnReceived => exact execDnReceived_keeps h
  | ackReceived => exact execAckReceived_keeps h
  | bulkInsert p l bad => exact execBulkInsert_keeps p l bad h
  | bulkReceived => exact execBulkReceived_keeps h
  | bulkResend dst stream => exact execBulkResend_keeps dst stream h
  | creditOnlySend dst stream => exact execCreditOnlySend_keeps dst stream h
  | rraGo m v => exact execRraGo_keeps m v h
  | rraTimeout host => exact execRraTimeout_keeps host h
  | rngCntClr => exact execRngCntClr_keeps h
  | linkMeasurement p => exact execLinkMeasurement_keeps p h
  | sourceLoss => exact execSourceLoss_keeps h
  | holdLimit => exact execHoldLimit_keeps h
  | xchk => exact execXchk_keeps h
  | stimeWrap => exact execStimeWrap_keeps h
  | stimeNsRead m => exact execStimeNsRead_keeps m h
  | timOffsetWrite m v => exact execTimOffsetWrite_keeps m v h
  | hostTimeout => exact execHostTimeout_keeps h
  | tpoEdge n => exact execTpoEdge_keeps n h
  | tpoPulseEnd n => exact execTpoPulseEnd_keeps n h
  | tpoEnable n v => exact execTpoEnable_keeps n v h
  | tpoConfigWrite n reg v => exact execTpoConfigWrite_keeps n reg v h
  | tpiEdge rising before after => exact execTpiEdge_keeps rising before after h
  | tpiFracRead m => exact execTpiFracRead_keeps m h
  | rgTrigger g upset => exact execRgTrigger_keeps g upset h
  | groupCommit g => exact execGroupCommit_keeps g h
  | deadlineMiss g => exact execDeadlineMiss_keeps g h
  | swapGo next => exact execSwapGo_keeps next h
  | swapCancel => exact execSwapCancel_keeps h
  | coeffRamWrite m slot word v ecc => exact execCoeffRamWrite_keeps m slot word v ecc h
  | peekRequest slot => exact execPeekRequest_keeps slot h
  | debugHalt => exact execDebugHalt_keeps h
  | ceCntClr => exact execCeCntClr_keeps h
  | balancerCommit locked => exact execBalancerCommit_keeps locked h
  | bypassRequest next pos => exact execBypassRequest_keeps next pos h
  | rejoinRequest next pos => exact execRejoinRequest_keeps next pos h
  | carrierStart ch => exact execCarrierStart_keeps ch h
  | carrierMidpoint ch => exact execCarrierMidpoint_keeps ch h
  | compareEvent ch e3 => exact execCompareEvent_keeps ch e3 h
  | deadIntervalEnd leg => exact execDeadIntervalEnd_keeps leg h
  | pwmShadowWrite ch reg v => exact execPwmShadowWrite_keeps ch reg v h
  | pwmCtrlWrite ch v => exact execPwmCtrlWrite_keeps ch v h
  | tripInputActive k => exact execTripInputActive_keeps k h
  | tripInputInactive k => exact execTripInputInactive_keeps k h
  | blankingEnd ch => exact execBlankingEnd_keeps ch h
  | groupClear groups => exact execGroupClear_keeps groups h
  | rearm m => exact execRearm_keeps m h
  | pwmCntClr => exact execPwmCntClr_keeps h
  | shortCircuit leg sw => exact execShortCircuit_keeps leg sw h
  | softTurnOffEnd leg sw => exact execSoftTurnOffEnd_keeps leg sw h
  | waitExpiry leg sw => exact execWaitExpiry_keeps leg sw h
  | bootstrapUndervoltage leg => exact execBootstrapUndervoltage_keeps leg h
  | bootstrapCharged leg => exact execBootstrapCharged_keeps leg h
  | chargeTimeout leg => exact execChargeTimeout_keeps leg h
  | vdrvUndervoltage => exact execVdrvUndervoltage_keeps h
  | vnegUndervoltage => exact execVnegUndervoltage_keeps h
  | supplyUvEnd sup => exact execSupplyUvEnd_keeps sup h
  | interlock leg first => exact execInterlock_keeps leg first h
  | deadtimeViolation leg sw => exact execDeadtimeViolation_keeps leg sw h
  | shoot leg => exact execShoot_keeps leg h
  | selfTest leg sw trip mv => exact execSelfTest_keeps leg sw trip mv h
  | injNow => exact execInjNow_keeps h
  | gdDeratingPublish vdrv vneg vbs => exact execGdDeratingPublish_keeps vdrv vneg vbs h
  | gdCntClr => exact execGdCntClr_keeps h
  | adcTrigger m => exact execAdcTrigger_keeps m h
  | holdInstant m => exact execHoldInstant_keeps m h
  | conversionEnd a raw => exact execConversionEnd_keeps a raw h
  | lpWrite v => exact execLpWrite_keeps v h
  | lowPowerSwitchEnd a => exact execLowPowerSwitchEnd_keeps a h
  | chWrite m v => exact execChWrite_keeps m v h
  | housekeepingStart a ch => exact execHousekeepingStart_keeps a ch h
  | referenceCheck a => exact execReferenceCheck_keeps a h
  | resRawRead m slot => exact execResRawRead_keeps m slot h
  | adcCntClr => exact execAdcCntClr_keeps h
  | meterSample codes crossing => exact execMeterSample_keeps codes crossing h
  | norefCycleEnd => exact execNorefCycleEnd_keeps h
  | accumulatorUpdate upset => exact execAccumulatorUpdate_keeps upset h
  | pulseEmit n => exact execPulseEmit_keeps n h
  | plsConfigWrite m n wgt v => exact execPlsConfigWrite_keeps m n wgt v h
  | snapshotTake m => exact execSnapshotTake_keeps m h
  | snapshotSign m => exact execSnapshotSign_keeps m h
  | signatureComplete => exact execSignatureComplete_keeps h
  | signerFailure => exact execSignerFailure_keeps h
  | autoSnapshot => exact execAutoSnapshot_keeps h
  | accLoRead m k upset => exact execAccLoRead_keeps m k upset h
  | listenWindowEnd => exact execListenWindowEnd_keeps h
  | hbReceived => exact execHbReceived_keeps h
  | glazeSend => exact execGlazeSend_keeps h
  | glazeCodewordReceived => exact execGlazeCodewordReceived_keeps h
  | healthReport => exact execHealthReport_keeps h
  | engineSelfCheck ok => exact execEngineSelfCheck_keeps ok h
  | health0Read m => exact execHealth0Read_keeps m h
  | swapRequest m => exact execSwapRequest_keeps m h
  | dpxSwapCancel m => exact execDpxSwapCancel_keeps m h
  | dpxCntClr => exact execDpxCntClr_keeps h
  | failoverLedgerRead got => exact execFailoverLedgerRead_keeps got h
  | noEligibleStandby => exact execNoEligibleStandby_keeps h
  | testGapStart src => exact execTestGapStart_keeps src h
  | testGapEnd src => exact execTestGapEnd_keeps src h
  | testSourceLimit src => exact execTestSourceLimit_keeps src h
  | safeInputSample a b => exact execSafeInputSample_keeps a b h
  | vauxUndervoltage => exact execVauxUndervoltage_keeps h
  | vauxRecover => exact execVauxRecover_keeps h
  | safetyDecision diverted => exact execSafetyDecision_keeps diverted h
  | safeReceived => exact execSafeReceived_keeps h
  | discrepancyWindowClose head => exact execDiscrepancyWindowClose_keeps head h
  | stoLoss => exact execStoLoss_keeps h
  | localEvaluation agree => exact execLocalEvaluation_keeps agree h
  | darkTest ch off => exact execDarkTest_keeps ch off h
  | soReadback so ch below5 aboveV => exact execSoReadback_keeps so ch below5 aboveV h
  | edmCheck so => exact execEdmCheck_keeps so h
  | safCntClr => exact execSafCntClr_keeps h
  | faultRaise r back => exact execFaultRaise_keeps r back h
  | brokenPair r back => exact execBrokenPair_keeps r back h
  | recordClose => exact execRecordClose_keeps h
  | recordClear m n => exact execRecordClear_keeps m n h
  | stationClear m => exact execStationClear_keeps m h
  | fltiChange level => exact execFltiChange_keeps level h
  | recordRead m r => exact execRecordRead_keeps m r h
  | ledgerRead m e => exact execLedgerRead_keeps m e h
  | batchStage id c count items => exact execBatchStage_keeps id c count items h
  | batchItemApply => exact execBatchItemApply_keeps h
  | batchCancel id => exact execBatchCancel_keeps id h
  | sramAccess m write addr size v ecc => exact execSramAccess_keeps m write addr size v ecc h
  | eccWriteBack addr => exact execEccWriteBack_keeps addr h
  | bucketLeak r => exact execBucketLeak_keeps r h
  | scrubGo m => exact execScrubGo_keeps m h
  | scrubAbort m => exact execScrubAbort_keeps m h
  | scrubWord ecc => exact execScrubWord_keeps ecc h
  | repair m v => exact execRepair_keeps m v h
  | memCntClr => exact execMemCntClr_keeps h
  | sensorReading sensor t bad => exact execSensorReading_keeps sensor t bad h
  | logWrite => exact execLogWrite_keeps h
  | logSelWrite v => exact execLogSelWrite_keeps v h
  | logReadDone => exact execLogReadDone_keeps h
  | linkDown => exact execLinkDown_keeps h
  | linkUp => exact execLinkUp_keeps h
  | readRequest d => exact execReadRequest_keeps d h
  | writeRequest d => exact execWriteRequest_keeps d h
  | requestDequeue => exact execRequestDequeue_keeps h
  | batchStageCommon d => exact execBatchStageCommon_keeps d h
  | batchStageEach d => exact execBatchStageEach_keeps d h
  | batchCancelRequest d => exact execBatchCancelRequest_keeps d h
  | batchResponseTimeout => exact execBatchResponseTimeout_keeps h
  | reportAck d => exact execReportAck_keeps d h
  | reportTransmit n => exact execReportTransmit_keeps n h
  | reportRepeat n rseq => exact execReportRepeat_keeps n rseq h
  | timeNow d => exact execTimeNow_keeps d h
  | timeTx d => exact execTimeTx_keeps d h
  | ptpFrameReceived frame => exact execPtpFrameReceived_keeps frame h
  | mbxSend d => exact execMbxSend_keeps d h
  | mbxRecv d => exact execMbxRecv_keeps d h
  | mbxRecvExpiry n expired => exact execMbxRecvExpiry_keeps n expired h
  | mbxStat d => exact execMbxStat_keeps d h
  | sessPhase1 d => exact execSessPhase1_keeps d h
  | sessPhase3 d => exact execSessPhase3_keeps d h
  | sessClose d => exact execSessClose_keeps d h
  | halfOpenTimeout n => exact execHalfOpenTimeout_keeps n h
  | idleTimeout n => exact execIdleTimeout_keeps n h
  | attestIdentity d => exact execAttestIdentity_keeps d h
  | attestRecord d => exact execAttestRecord_keeps d h
  | attestTimeout => exact execAttestTimeout_keeps h
  | supCntClr => exact execSupCntClr_keeps h
  | closeAll m => exact execCloseAll_keeps m h
  | mbxDataWrite m n k v => exact execMbxDataWrite_keeps m n k v h
  | mbxGo m n len => exact execMbxGo_keeps m n len h
  | mbxTake m n => exact execMbxTake_keeps m n h
  | deliverReceived src data => exact execDeliverReceived_keeps src data h
  | takeNoticeReceived src data => exact execTakeNoticeReceived_keeps src data h
  | nackReceived src data => exact execNackReceived_keeps src data h
  | mbxTimeout n => exact execMbxTimeout_keeps n h
  | mbxCntClr => exact execMbxCntClr_keeps h
  | registerWrite m addr size v ecc => exact execRegisterWrite_keeps m addr size v ecc h
  | powerGood => exact execPowerGood_keeps h
  | refinValid => exact execRefinValid_keeps h
  | vaultStateLost => exact absurd rfl h3
  | bothLanePllsOutOfLock => exact execBothLanePllsOutOfLock_keeps h
  | plsPulseEnd n => exact execPlsPulseEnd_keeps n h
  | datagramDropped => exact execDatagramDropped_keeps h
  | arpOrNeighbourSolicitation v6 target => exact execArpOrNeighbourSolicitation_keeps v6 target h
  | icmpEcho v6 target => exact execIcmpEcho_keeps v6 target h
  | registerRead m addr size ecc => exact execRegisterRead_keeps m addr size ecc h
  | debugHaltEnd => exact execDebugHaltEnd_keeps h

/-- Every command keeps the canonical forms, the queue, what has been sent and the count of free values. -/
theorem exec_keepsForms {c : Instr} {s t : State} (h : exec c s = .next t) : KeepsForms s t := by
  by_cases h1 : c = .powerOnReset
  · subst h1; cases h; exact resetNode_keepsForms s true false
  by_cases h2 : c = .vaultSecond
  · subst h2; cases h; exact vaultSecond_keepsForms s
  by_cases h3 : c = .vaultStateLost
  · subst h3; cases h; exact vaultLost_keepsForms s
  exact (exec_keeps h h1 h2 h3).forms

/-- A command whose footprint leaves the waiting raises alone leaves none waiting. -/
theorem calm_of_only {l : List Comp} {s t : State} (h : Only l s t) (hl : Comp.raises ∉ l) : Calm s t.raises :=
  (Calm.refl s).after h hl

/-- Every command ends with no raise waiting when it began with none (R460). -/
theorem exec_calm {c : Instr} {s t : State} (h : exec c s = .next t) : Calm s t.raises := by
  cases c with
  | powerOnReset => exact execPowerOnReset_calm h
  | railReset rail => exact execRailReset_calm rail h
  | pginReset => exact execPginReset_calm h
  | pinReset => exact execPinReset_calm h
  | rstCtrlWrite m v => exact calm_of_only (execRstCtrlWrite_only m v h) (by decide)
  | softReset => exact execSoftReset_calm h
  | releaseOfReset straps dbgsel => exact calm_of_only (execReleaseOfReset_only straps dbgsel h) (by decide)
  | vaultSwitchOver toBat => exact calm_of_only (execVaultSwitchOver_only toBat h) (by decide)
  | vaultSecond => exact calm_of_only (execVaultSecond_only h) (by decide)
  | xtalFail => exact calm_of_only (execXtalFail_only h) (by decide)
  | tamperPulse returned => exact calm_of_only (execTamperPulse_only returned h) (by decide)
  | sysVsecLoRead m => exact calm_of_only (execSysVsecLoRead_only m h) (by decide)
  | lockDeclared => exact calm_of_only (execLockDeclared_only h) (by decide)
  | lossOfRefin => exact calm_of_only (execLossOfRefin_only h) (by decide)
  | refinReturn mppm => exact calm_of_only (execRefinReturn_only mppm h) (by decide)
  | reacquireComplete => exact calm_of_only (execReacquireComplete_only h) (by decide)
  | lossOfLock => exact calm_of_only (execLossOfLock_only h) (by decide)
  | holdMaxExpiry => exact calm_of_only (execHoldMaxExpiry_only h) (by decide)
  | referenceWaitEnd => exact calm_of_only (execReferenceWaitEnd_only h) (by decide)
  | timebaseLoss => exact calm_of_only (execTimebaseLoss_only h) (by decide)
  | sramInitDone chip => exact calm_of_only (execSramInitDone_only chip h) (by decide)
  | fetchDone => exact calm_of_only (execFetchDone_only h) (by decide)
  | fetchTimeout => exact calm_of_only (execFetchTimeout_only h) (by decide)
  | verifyDone img => exact calm_of_only (execVerifyDone_only img h) (by decide)
  | bootLock => exact calm_of_only (execBootLock_only h) (by decide)
  | imgProvWrite m v => exact calm_of_only (execImgProvWrite_only m v h) (by decide)
  | trialTimeout => exact execTrialTimeout_calm h
  | imgErase m => exact calm_of_only (execImgErase_only m h) (by decide)
  | imgProgram m => exact calm_of_only (execImgProgram_only m h) (by decide)
  | imgVerify m => exact calm_of_only (execImgVerify_only m h) (by decide)
  | imgArm m => exact calm_of_only (execImgArm_only m h) (by decide)
  | imgAbort m => exact calm_of_only (execImgAbort_only m h) (by decide)
  | imgUpdDone flashErr bufferBad => exact calm_of_only (execImgUpdDone_only flashErr bufferBad h) (by decide)
  | admissionRequest req => exact execAdmissionRequest_calm req h
  | admissionTimeRetry pos timeOk => exact execAdmissionTimeRetry_calm pos timeOk h
  | fullServiceNamed locked unlocked => exact calm_of_only (execFullServiceNamed_only locked unlocked h) (by decide)
  | stWaitExpiry => exact calm_of_only (execStWaitExpiry_only h) (by decide)
  | spliceNamed pos locked => exact calm_of_only (execSpliceNamed_only pos locked h) (by decide)
  | cycleBoundary spliceBad => exact execCycleBoundary_calm spliceBad h
  | lanePllLock pll => exact calm_of_only (execLanePllLock_only pll h) (by decide)
  | lanePllLoss pll => exact calm_of_only (execLanePllLoss_only pll h) (by decide)
  | cdrLock p l => exact calm_of_only (execCdrLock_only p l h) (by decide)
  | frameLock p l => exact calm_of_only (execFrameLock_only p l h) (by decide)
  | lossOfFrame p l => exact calm_of_only (execLossOfFrame_only p l h) (by decide)
  | lossOfSignal p l => exact calm_of_only (execLossOfSignal_only p l h) (by decide)
  | laneRetry p l => exact calm_of_only (execLaneRetry_only p l h) (by decide)
  | trainingDone p => exact calm_of_only (execTrainingDone_only p h) (by decide)
  | trainingFail p err => exact calm_of_only (execTrainingFail_only p err h) (by decide)
  | trainWaitEnd p => exact calm_of_only (execTrainWaitEnd_only p h) (by decide)
  | elasticBufferLimit p l => exact calm_of_only (execElasticBufferLimit_only p l h) (by decide)
  | eyeMonitorUpdate p l height width ser => exact calm_of_only (execEyeMonitorUpdate_only p l height width ser h) (by decide)
  | chillWrite p on => exact calm_of_only (execChillWrite_only p on h) (by decide)
  | trainWrite p => exact calm_of_only (execTrainWrite_only p h) (by decide)
  | lnkCntClr p => exact calm_of_only (execLnkCntClr_only p h) (by decide)
  | codewordReceived p l rx => exact execCodewordReceived_calm p l rx h
  | fold p => exact execFold_calm p h
  | unfoldNamed ring => exact calm_of_only (execUnfoldNamed_only ring h) (by decide)
  | nbrReceived t2 => exact calm_of_only (execNbrReceived_only t2 h) (by decide)
  | upWave diverted => exact calm_of_only (execUpWave_only diverted h) (by decide)
  | upReceived => exact execUpReceived_calm h
  | uplinkDeadline => exact execUplinkDeadline_calm h
  | downWave diverted => exact calm_of_only (execDownWave_only diverted h) (by decide)
  | dnReceived => exact execDnReceived_calm h
  | ackReceived => exact execAckReceived_calm h
  | bulkInsert p l bad => exact calm_of_only (execBulkInsert_only p l bad h) (by decide)
  | bulkReceived => exact execBulkReceived_calm h
  | bulkResend dst stream => exact calm_of_only (execBulkResend_only dst stream h) (by decide)
  | creditOnlySend dst stream => exact calm_of_only (execCreditOnlySend_only dst stream h) (by decide)
  | rraGo m v => exact execRraGo_calm m v h
  | rraTimeout host => exact calm_of_only (execRraTimeout_only host h) (by decide)
  | rngCntClr => exact calm_of_only (execRngCntClr_only h) (by decide)
  | linkMeasurement p => exact execLinkMeasurement_calm p h
  | sourceLoss => exact calm_of_only (execSourceLoss_only h) (by decide)
  | holdLimit => exact calm_of_only (execHoldLimit_only h) (by decide)
  | xchk => exact calm_of_only (execXchk_only h) (by decide)
  | stimeWrap => exact calm_of_only (execStimeWrap_only h) (by decide)
  | stimeNsRead m => exact calm_of_only (execStimeNsRead_only m h) (by decide)
  | timOffsetWrite m v => exact execTimOffsetWrite_calm m v h
  | hostTimeout => exact calm_of_only (execHostTimeout_only h) (by decide)
  | tpoEdge n => exact calm_of_only (execTpoEdge_only n h) (by decide)
  | tpoPulseEnd n => exact calm_of_only (execTpoPulseEnd_only n h) (by decide)
  | tpoEnable n v => exact calm_of_only (execTpoEnable_only n v h) (by decide)
  | tpoConfigWrite n reg v => exact calm_of_only (execTpoConfigWrite_only n reg v h) (by decide)
  | tpiEdge rising before after => exact calm_of_only (execTpiEdge_only rising before after h) (by decide)
  | tpiFracRead m => exact calm_of_only (execTpiFracRead_only m h) (by decide)
  | rgTrigger g upset => exact execRgTrigger_calm g upset h
  | groupCommit g => exact execGroupCommit_calm g h
  | deadlineMiss g => exact calm_of_only (execDeadlineMiss_only g h) (by decide)
  | swapGo next => exact calm_of_only (execSwapGo_only next h) (by decide)
  | swapCancel => exact calm_of_only (execSwapCancel_only h) (by decide)
  | coeffRamWrite m slot word v ecc => exact execCoeffRamWrite_calm m slot word v ecc h
  | peekRequest slot => exact execPeekRequest_calm slot h
  | debugHalt => exact calm_of_only (execDebugHalt_only h) (by decide)
  | ceCntClr => exact calm_of_only (execCeCntClr_only h) (by decide)
  | balancerCommit locked => exact execBalancerCommit_calm locked h
  | bypassRequest next pos => exact calm_of_only (execBypassRequest_only next pos h) (by decide)
  | rejoinRequest next pos => exact calm_of_only (execRejoinRequest_only next pos h) (by decide)
  | carrierStart ch => exact calm_of_only (execCarrierStart_only ch h) (by decide)
  | carrierMidpoint ch => exact calm_of_only (execCarrierMidpoint_only ch h) (by decide)
  | compareEvent ch e3 => exact calm_of_only (execCompareEvent_only ch e3 h) (by decide)
  | deadIntervalEnd leg => exact calm_of_only (execDeadIntervalEnd_only leg h) (by decide)
  | pwmShadowWrite ch reg v => exact calm_of_only (execPwmShadowWrite_only ch reg v h) (by decide)
  | pwmCtrlWrite ch v => exact calm_of_only (execPwmCtrlWrite_only ch v h) (by decide)
  | tripInputActive k => exact calm_of_only (execTripInputActive_only k h) (by decide)
  | tripInputInactive k => exact calm_of_only (execTripInputInactive_only k h) (by decide)
  | blankingEnd ch => exact calm_of_only (execBlankingEnd_only ch h) (by decide)
  | groupClear groups => exact calm_of_only (execGroupClear_only groups h) (by decide)
  | rearm m => exact calm_of_only (execRearm_only m h) (by decide)
  | pwmCntClr => exact calm_of_only (execPwmCntClr_only h) (by decide)
  | shortCircuit leg sw => exact execShortCircuit_calm leg sw h
  | softTurnOffEnd leg sw => exact execSoftTurnOffEnd_calm leg sw h
  | waitExpiry leg sw => exact execWaitExpiry_calm leg sw h
  | bootstrapUndervoltage leg => exact execBootstrapUndervoltage_calm leg h
  | bootstrapCharged leg => exact calm_of_only (execBootstrapCharged_only leg h) (by decide)
  | chargeTimeout leg => exact execChargeTimeout_calm leg h
  | vdrvUndervoltage => exact execVdrvUndervoltage_calm h
  | vnegUndervoltage => exact execVnegUndervoltage_calm h
  | supplyUvEnd sup => exact calm_of_only (execSupplyUvEnd_only sup h) (by decide)
  | interlock leg first => exact calm_of_only (execInterlock_only leg first h) (by decide)
  | deadtimeViolation leg sw => exact calm_of_only (execDeadtimeViolation_only leg sw h) (by decide)
  | shoot leg => exact calm_of_only (execShoot_only leg h) (by decide)
  | selfTest leg sw trip mv => exact calm_of_only (execSelfTest_only leg sw trip mv h) (by decide)
  | injNow => exact calm_of_only (execInjNow_only h) (by decide)
  | gdDeratingPublish vdrv vneg vbs => exact calm_of_only (execGdDeratingPublish_only vdrv vneg vbs h) (by decide)
  | gdCntClr => exact calm_of_only (execGdCntClr_only h) (by decide)
  | adcTrigger m => exact calm_of_only (execAdcTrigger_only m h) (by decide)
  | holdInstant m => exact calm_of_only (execHoldInstant_only m h) (by decide)
  | conversionEnd a raw => exact calm_of_only (execConversionEnd_only a raw h) (by decide)
  | lpWrite v => exact calm_of_only (execLpWrite_only v h) (by decide)
  | lowPowerSwitchEnd a => exact calm_of_only (execLowPowerSwitchEnd_only a h) (by decide)
  | chWrite m v => exact calm_of_only (execChWrite_only m v h) (by decide)
  | housekeepingStart a ch => exact calm_of_only (execHousekeepingStart_only a ch h) (by decide)
  | referenceCheck a => exact calm_of_only (execReferenceCheck_only a h) (by decide)
  | resRawRead m slot => exact calm_of_only (execResRawRead_only m slot h) (by decide)
  | adcCntClr => exact calm_of_only (execAdcCntClr_only h) (by decide)
  | meterSample codes crossing => exact calm_of_only (execMeterSample_only codes crossing h) (by decide)
  | norefCycleEnd => exact calm_of_only (execNorefCycleEnd_only h) (by decide)
  | accumulatorUpdate upset => exact calm_of_only (execAccumulatorUpdate_only upset h) (by decide)
  | pulseEmit n => exact calm_of_only (execPulseEmit_only n h) (by decide)
  | plsConfigWrite m n wgt v => exact calm_of_only (execPlsConfigWrite_only m n wgt v h) (by decide)
  | snapshotTake m => exact calm_of_only (execSnapshotTake_only m h) (by decide)
  | snapshotSign m => exact calm_of_only (execSnapshotSign_only m h) (by decide)
  | signatureComplete => exact calm_of_only (execSignatureComplete_only h) (by decide)
  | signerFailure => exact calm_of_only (execSignerFailure_only h) (by decide)
  | autoSnapshot => exact calm_of_only (execAutoSnapshot_only h) (by decide)
  | accLoRead m k upset => exact calm_of_only (execAccLoRead_only m k upset h) (by decide)
  | listenWindowEnd => exact calm_of_only (execListenWindowEnd_only h) (by decide)
  | hbReceived => exact execHbReceived_calm h
  | glazeSend => exact calm_of_only (execGlazeSend_only h) (by decide)
  | glazeCodewordReceived => exact calm_of_only (execGlazeCodewordReceived_only h) (by decide)
  | healthReport => exact calm_of_only (execHealthReport_only h) (by decide)
  | engineSelfCheck ok => exact calm_of_only (execEngineSelfCheck_only ok h) (by decide)
  | health0Read m => exact calm_of_only (execHealth0Read_only m h) (by decide)
  | swapRequest m => exact calm_of_only (execSwapRequest_only m h) (by decide)
  | dpxSwapCancel m => exact execDpxSwapCancel_calm m h
  | dpxCntClr => exact calm_of_only (execDpxCntClr_only h) (by decide)
  | failoverLedgerRead got => exact calm_of_only (execFailoverLedgerRead_only got h) (by decide)
  | noEligibleStandby => exact calm_of_only (execNoEligibleStandby_only h) (by decide)
  | testGapStart src => exact calm_of_only (execTestGapStart_only src h) (by decide)
  | testGapEnd src => exact calm_of_only (execTestGapEnd_only src h) (by decide)
  | testSourceLimit src => exact calm_of_only (execTestSourceLimit_only src h) (by decide)
  | safeInputSample a b => exact calm_of_only (execSafeInputSample_only a b h) (by decide)
  | vauxUndervoltage => exact calm_of_only (execVauxUndervoltage_only h) (by decide)
  | vauxRecover => exact calm_of_only (execVauxRecover_only h) (by decide)
  | safetyDecision diverted => exact calm_of_only (execSafetyDecision_only diverted h) (by decide)
  | safeReceived => exact execSafeReceived_calm h
  | discrepancyWindowClose head => exact execDiscrepancyWindowClose_calm head h
  | stoLoss => exact calm_of_only (execStoLoss_only h) (by decide)
  | localEvaluation agree => exact calm_of_only (execLocalEvaluation_only agree h) (by decide)
  | darkTest ch off => exact calm_of_only (execDarkTest_only ch off h) (by decide)
  | soReadback so ch below5 aboveV => exact calm_of_only (execSoReadback_only so ch below5 aboveV h) (by decide)
  | edmCheck so => exact calm_of_only (execEdmCheck_only so h) (by decide)
  | safCntClr => exact calm_of_only (execSafCntClr_only h) (by decide)
  | faultRaise r back => exact calm_of_only (execFaultRaise_only r back h) (by decide)
  | brokenPair r back => exact calm_of_only (execBrokenPair_only r back h) (by decide)
  | recordClose => exact calm_of_only (execRecordClose_only h) (by decide)
  | recordClear m n => exact calm_of_only (execRecordClear_only m n h) (by decide)
  | stationClear m => exact calm_of_only (execStationClear_only m h) (by decide)
  | fltiChange level => exact calm_of_only (execFltiChange_only level h) (by decide)
  | recordRead m r => exact calm_of_only (execRecordRead_only m r h) (by decide)
  | ledgerRead m e => exact calm_of_only (execLedgerRead_only m e h) (by decide)
  | batchStage id c count items => exact execBatchStage_calm id c count items h
  | batchItemApply => exact execBatchItemApply_calm h
  | batchCancel id => exact execBatchCancel_calm id h
  | sramAccess m write addr size v ecc => exact execSramAccess_calm m write addr size v ecc h
  | eccWriteBack addr => exact calm_of_only (execEccWriteBack_only addr h) (by decide)
  | bucketLeak r => exact calm_of_only (execBucketLeak_only r h) (by decide)
  | scrubGo m => exact calm_of_only (execScrubGo_only m h) (by decide)
  | scrubAbort m => exact calm_of_only (execScrubAbort_only m h) (by decide)
  | scrubWord ecc => exact calm_of_only (execScrubWord_only ecc h) (by decide)
  | repair m v => exact calm_of_only (execRepair_only m v h) (by decide)
  | memCntClr => exact calm_of_only (execMemCntClr_only h) (by decide)
  | sensorReading sensor t bad => exact calm_of_only (execSensorReading_only sensor t bad h) (by decide)
  | logWrite => exact calm_of_only (execLogWrite_only h) (by decide)
  | logSelWrite v => exact calm_of_only (execLogSelWrite_only v h) (by decide)
  | logReadDone => exact calm_of_only (execLogReadDone_only h) (by decide)
  | linkDown => exact calm_of_only (execLinkDown_only h) (by decide)
  | linkUp => exact calm_of_only (execLinkUp_only h) (by decide)
  | readRequest d => exact execReadRequest_calm d h
  | writeRequest d => exact execWriteRequest_calm d h
  | requestDequeue => exact execRequestDequeue_calm h
  | batchStageCommon d => exact execBatchStageCommon_calm d h
  | batchStageEach d => exact execBatchStageEach_calm d h
  | batchCancelRequest d => exact execBatchCancelRequest_calm d h
  | batchResponseTimeout => exact calm_of_only (execBatchResponseTimeout_only h) (by decide)
  | reportAck d => exact calm_of_only (execReportAck_only d h) (by decide)
  | reportTransmit n => exact calm_of_only (execReportTransmit_only n h) (by decide)
  | reportRepeat n rseq => exact calm_of_only (execReportRepeat_only n rseq h) (by decide)
  | timeNow d => exact execTimeNow_calm d h
  | timeTx d => exact execTimeTx_calm d h
  | ptpFrameReceived frame => exact calm_of_only (execPtpFrameReceived_only frame h) (by decide)
  | mbxSend d => exact execMbxSend_calm d h
  | mbxRecv d => exact execMbxRecv_calm d h
  | mbxRecvExpiry n expired => exact execMbxRecvExpiry_calm n expired h
  | mbxStat d => exact execMbxStat_calm d h
  | sessPhase1 d => exact calm_of_only (execSessPhase1_only d h) (by decide)
  | sessPhase3 d => exact calm_of_only (execSessPhase3_only d h) (by decide)
  | sessClose d => exact calm_of_only (execSessClose_only d h) (by decide)
  | halfOpenTimeout n => exact calm_of_only (execHalfOpenTimeout_only n h) (by decide)
  | idleTimeout n => exact calm_of_only (execIdleTimeout_only n h) (by decide)
  | attestIdentity d => exact execAttestIdentity_calm d h
  | attestRecord d => exact execAttestRecord_calm d h
  | attestTimeout => exact calm_of_only (execAttestTimeout_only h) (by decide)
  | supCntClr => exact calm_of_only (execSupCntClr_only h) (by decide)
  | closeAll m => exact calm_of_only (execCloseAll_only m h) (by decide)
  | mbxDataWrite m n k v => exact calm_of_only (execMbxDataWrite_only m n k v h) (by decide)
  | mbxGo m n len => exact calm_of_only (execMbxGo_only m n len h) (by decide)
  | mbxTake m n => exact calm_of_only (execMbxTake_only m n h) (by decide)
  | deliverReceived src data => exact calm_of_only (execDeliverReceived_only src data h) (by decide)
  | takeNoticeReceived src data => exact calm_of_only (execTakeNoticeReceived_only src data h) (by decide)
  | nackReceived src data => exact calm_of_only (execNackReceived_only src data h) (by decide)
  | mbxTimeout n => exact calm_of_only (execMbxTimeout_only n h) (by decide)
  | mbxCntClr => exact calm_of_only (execMbxCntClr_only h) (by decide)
  | registerWrite m addr size v ecc => exact execRegisterWrite_calm m addr size v ecc h
  | powerGood => exact calm_of_only (execPowerGood_only h) (by decide)
  | refinValid => exact calm_of_only (execRefinValid_only h) (by decide)
  | vaultStateLost => exact calm_of_only (execVaultStateLost_only h) (by decide)
  | bothLanePllsOutOfLock => exact calm_of_only (execBothLanePllsOutOfLock_only h) (by decide)
  | plsPulseEnd n => exact calm_of_only (execPlsPulseEnd_only n h) (by decide)
  | datagramDropped => exact calm_of_only (execDatagramDropped_only h) (by decide)
  | arpOrNeighbourSolicitation v6 target => exact calm_of_only (execArpOrNeighbourSolicitation_only v6 target h) (by decide)
  | icmpEcho v6 target => exact calm_of_only (execIcmpEcho_only v6 target h) (by decide)
  | registerRead m addr size ecc => exact calm_of_only (execRegisterRead_only m addr size ecc h) (by decide)
  | debugHaltEnd => exact calm_of_only (execDebugHaltEnd_only h) (by decide)

theorem KeepsForms.inv {s t : State} (h : KeepsForms s t) (hc : Calm s t.raises) (hi : s.Inv) : t.Inv := by
  obtain ⟨hregs, hmem, hraises⟩ := hi
  exact ⟨h.regs hregs, h.mem hmem, hc.calm hraises⟩

/-- An idle step keeps all of that too (log entry 1). -/
theorem idle_keepsForms (s : State) : KeepsForms s (idle s) :=
  (Keeps.live (Keeps.refl s) fun _ hb => keeps_tick hb).forms

theorem idle_calm (s : State) : Calm s (idle s).raises :=
  calm_of_only (Only.live (Only.refl _ s) fun _ hb => only_tick hb (List.Subset.refl _)) (by decide)

/-- Settles O58, by the two laws that hold of every command, `exec_keepsForms` and `exec_calm`, and the same of an idle step. -/
theorem everyStepKeepsTheCanonicalForms : Obligations.EveryStepKeepsTheCanonicalForms := by
  unfold Obligations.EveryStepKeepsTheCanonicalForms
  intro s hi
  cases hp : s.pending with
  | nil =>
    have hk := idle_keepsForms s
    refine ⟨idle s, by simp [step, hp], hk.inv (idle_calm s) hi, ?_, hk.out, hk.free⟩
    rw [hk.pending, hp]; rfl
  | cons c q =>
    obtain ⟨t, ht⟩ := exec_answers c { s with pending := q }
    have hk := exec_keepsForms ht
    exact ⟨t, by simpa [step, hp] using ht, hk.inv (exec_calm ht) hi, hk.pending, hk.out, hk.free⟩

end Sys2Proof.Machine
end

section
namespace Sys2Proof.Machine

/-! ### A raise of class 2 or more leaves its cause in the collector (R460 to R463) -/

/-- The collector holds a cause with this code and class which no later raise of the same command takes away: its record is
open, or it has none (R463). -/
def CauseStands (code cls : Nat) (s : State) : Prop :=
  ∃ c ∈ s.flt.causes, c.code = code ∧ c.cls = cls ∧ (c.recNo = none ∨ s.flt.openRec ≠ none)

theorem CauseStands.hasCause {code cls : Nat} {s : State} (h : CauseStands code cls s) : HasCause s code cls = true := by
  obtain ⟨c, hc, hcode, hcls, -⟩ := h
  exact List.any_eq_true.2 ⟨c, hc, by simp [hcode, hcls]⟩

/-- Only the causes and the open record count. -/
theorem CauseStands.congr {code cls : Nat} {s t : State} (h : CauseStands code cls s) (hc : t.flt.causes = s.flt.causes)
    (ho : t.flt.openRec = s.flt.openRec) : CauseStands code cls t := by
  obtain ⟨c, hm, hcode, hcls, hr⟩ := h
  exact ⟨c, hc ▸ hm, hcode, hcls, ho ▸ hr⟩

/-- The collector's hidden state has changed by the end of causes alone (R472). -/
def EndsCauses (f f' : FltSt) : Prop :=
  ∃ g : Cause → Cause, (∀ c, (g c).code = c.code ∧ (g c).cls = c.cls ∧ (g c).recNo = c.recNo) ∧
    f' = { f with causes := f.causes.map g }

theorem EndsCauses.refl (f : FltSt) : EndsCauses f f := ⟨id, fun _ => ⟨rfl, rfl, rfl⟩, by simp⟩

theorem endsCauses_endCause (s : State) (code inst tag : Nat) : EndsCauses s.flt (s.endCause code inst tag).flt := by
  unfold State.endCause
  extract_lets hit hitRec cs f s1 s2
  refine ⟨fun c => if hit c then { c with ended := true } else c, fun c => by dsimp only; split <;> simp, ?_⟩
  have h2 : Only [.regs] s1 s2 := Only.foldl (Only.refl _ _) fun b n hb => only_recRefresh hb n (List.Subset.refl _)
  have h3 : Only [.regs, .pwm, .gd] s1 s2.fltRefresh := only_fltRefresh (h2.subset (by decide)) (List.Subset.refl _)
  exact h3.same .flt (by decide)

theorem flt_selectUp (s : State) : s.selectUp.flt = s.flt :=
  (only_selectUp (Only.refl _ s) (List.Subset.refl _)).same .flt (by decide)

theorem endsCauses_giveUpRoot (s : State) : EndsCauses s.flt s.giveUpRoot.flt := by
  unfold State.giveUpRoot
  extract_lets auto s1 s2
  have h2 : EndsCauses s.flt s2.flt := by
    simp only [s2]; split
    · exact endsCauses_endCause (s1.setFlag F.TIM_STAT_HOST_TO false) _ _ _
    · exact EndsCauses.refl _
  rw [flt_selectUp]
  split <;> exact h2

theorem endsCauses_headOut (s : State) : EndsCauses s.flt s.headOut.flt := by
  unfold State.headOut
  split
  · extract_lets s1 s2 s3
    have h3 : s3.flt = s.flt := by simp only [s3]; split <;> rfl
    split
    · rw [← h3]; exact endsCauses_giveUpRoot s3
    · rw [h3]; exact EndsCauses.refl _
  · exact EndsCauses.refl _

theorem CauseStands.headOut {code cls : Nat} {s : State} (h : CauseStands code cls s) : CauseStands code cls s.headOut := by
  obtain ⟨c, hm, hcode, hcls, hr⟩ := h
  obtain ⟨g, hg, he⟩ := endsCauses_headOut s
  obtain ⟨h1, h2, h3⟩ := hg c
  refine ⟨g c, ?_, h1.trans hcode, h2.trans hcls, ?_⟩
  · rw [he]; exact List.mem_map_of_mem hm
  · rw [he, h3]; exact hr

theorem flt_mergeRecord (s : State) (num : Nat) (r : Raise) (c : Word) :
    (s.mergeRecord num r c).flt = { s.flt with mergeAt := some (num, s.fab) } := by
  unfold State.mergeRecord
  dsimp only
  split <;> split <;> rfl

theorem flt_openRecord (s : State) (num : Nat) (r : Raise) (c : Word) :
    (s.openRecord num r c).flt =
      { s.flt with
        openRec := some num, openAt := s.sys.up
        causes := s.flt.causes.filter fun c => match c.recNo with | some n => recIdx n != recIdx num | none => true } := by
  unfold State.openRecord State.when
  dsimp only
  split <;> rfl

/-- After it has gone to its record, the record that a raise went to is the open one. -/
theorem openRec_raiseRecord (s : State) (r : Raise) (c : Word) :
    (s.raiseRecord s.raiseTarget r c).flt.openRec = s.raiseTarget := by
  unfold State.raiseRecord State.raiseTarget
  cases ho : s.flt.openRec with
  | some n => simp [flt_mergeRecord, ho]
  | none =>
    cases s.nextRec with
    | some n => simp [flt_openRecord]
    | none => exact ho

/-- A raise that opens a record takes away the causes of the record it writes over only: where no record is open, the cause
that stands has none. -/
theorem CauseStands.raiseRecord {code cls : Nat} {s : State} (h : CauseStands code cls s) (r : Raise) (c : Word) :
    CauseStands code cls (s.raiseRecord s.raiseTarget r c) := by
  obtain ⟨d, hm, hcode, hcls, hr⟩ := h
  unfold State.raiseRecord State.raiseTarget
  cases ho : s.flt.openRec with
  | some n => exact ⟨d, by simpa [flt_mergeRecord] using hm, hcode, hcls, .inr (by simp [flt_mergeRecord, ho])⟩
  | none =>
    have hd : d.recNo = none := hr.resolve_right (by simp [ho])
    cases s.nextRec with
    | none => exact ⟨d, hm, hcode, hcls, .inl hd⟩
    | some n => exact ⟨d, by simp [flt_openRecord, hm, hd], hcode, hcls, .inl hd⟩

theorem CauseStands.addHold {code cls : Nat} {s : State} (h : CauseStands code cls s) (x : Hold) :
    CauseStands code cls (s.addHold x) := h.congr rfl rfl

theorem CauseStands.addCause {code cls : Nat} {s : State} (h : CauseStands code cls s) (x : Cause) :
    CauseStands code cls (s.addCause x) := by
  obtain ⟨c, hm, hcode, hcls, hr⟩ := h
  exact ⟨c, List.mem_append_left _ hm, hcode, hcls, hr⟩

/-- The cause a raise adds stands: its record, if it has one, is open. -/
theorem causeStands_addCause {s : State} {x : Cause} (h : s.flt.openRec = x.recNo) :
    CauseStands x.code x.cls (s.addCause x) := by
  refine ⟨x, List.mem_append_right _ (List.mem_singleton.2 rfl), rfl, rfl, ?_⟩
  cases hx : x.recNo with
  | none => exact .inl rfl
  | some n => exact .inr (by show s.flt.openRec ≠ none; simp [h, hx])

/-- The state once a raise has gone to its record and its cause is listed (R460 to R463). -/
def State.raiseListed (s : State) (r : Raise) : State :=
  if s.raiseTarget.isSome || Nat.ble 2 r.cls then
    (s.raiseRecord s.raiseTarget r (s.loc r.scope)).addCause
      ⟨s.raiseTarget, r.code, r.kind, r.inst, r.cls, ownBlock r.code r.cls, r.ended, false, r.tag⟩
  else s.raiseRecord s.raiseTarget r (s.loc r.scope)

/-- What follows once the cause is listed: its hold, the state of its record, a HEAD's way out, a lockout of FC5, the legs.
What each of these keeps, the raise keeps. -/
theorem raise1_of_listed {P : State → Prop} {s : State} {r : Raise} (h : P (s.raiseListed r))
    (hold : ∀ u x, P u → P (u.addHold x)) (refresh : ∀ u n, P u → P (u.recRefresh n)) (out : ∀ u, P u → P u.headOut)
    (lock : r.cls = 5 → ∀ u, P u → P u.lockOut) (stat : ∀ u, P u → P u.fltRefresh) : P (s.raise1 r) := by
  unfold State.raise1
  extract_lets c recd s1 s2 s3 s4 s5 s6
  have h2 : P s2 := h
  have h3 : P s3 := by
    simp only [s3]; split
    · exact hold _ _ h2
    · exact h2
  have h4 : P s4 := by
    show P (match s.raiseTarget with | some n => s3.recRefresh n | none => s3)
    split
    · exact refresh _ _ h3
    · exact h3
  have h5 : P s5 := by
    simp only [s5]; split
    · exact out _ h4
    · exact h4
  have h6 : P s6 := by
    simp only [s6]; split
    · next h => exact lock h _ h5
    · exact h5
  exact stat _ h6

theorem flt_recRefresh (s : State) (n : Nat) : (s.recRefresh n).flt = s.flt :=
  (only_recRefresh (Only.refl _ s) n (List.Subset.refl _)).same .flt (by decide)

theorem flt_fltRefresh (s : State) : s.fltRefresh.flt = s.flt :=
  (only_fltRefresh (Only.refl _ s) (List.Subset.refl _)).same .flt (by decide)

theorem flt_lockOut (s : State) : s.lockOut.flt = { s.flt with lockout := true } :=
  (only_holdOut (Only.refl _ _) (List.Subset.refl _)).same .flt (by decide)

theorem causeStands_raise1_of {code cls : Nat} {s : State} {r : Raise} (h : CauseStands code cls (s.raiseListed r)) :
    CauseStands code cls (s.raise1 r) :=
  raise1_of_listed h (fun _ x hu => hu.addHold x)
    (fun u n hu => hu.congr (by rw [flt_recRefresh u n]) (by rw [flt_recRefresh u n])) (fun _ hu => hu.headOut)
    (fun _ u hu => hu.congr (by rw [flt_lockOut u]) (by rw [flt_lockOut u]))
    (fun u hu => hu.congr (by rw [flt_fltRefresh u]) (by rw [flt_fltRefresh u]))

theorem CauseStands.raise1 {code cls : Nat} {s : State} (h : CauseStands code cls s) (r : Raise) :
    CauseStands code cls (s.raise1 r) := by
  refine causeStands_raise1_of ?_
  unfold State.raiseListed
  split
  · exact (h.raiseRecord r _).addCause _
  · exact h.raiseRecord r _

theorem causeStands_raise1 (s : State) (r : Raise) (hr : 2 ≤ r.cls) : CauseStands r.code r.cls (s.raise1 r) := by
  refine causeStands_raise1_of ?_
  rw [State.raiseListed, if_pos (by simp [Nat.ble_eq, hr])]
  exact causeStands_addCause (openRec_raiseRecord s r _)

theorem causeStands_raise2 (s : State) (r : Raise) (hr : 2 ≤ r.cls) : CauseStands r.code r.cls (s.raise2 r) := by
  have h := causeStands_raise1 s r hr
  unfold State.raise2
  dsimp only
  split
  · exact h.raise1 _
  · exact h

/-- A raise of class 2 or more leaves its cause in the collector, whatever else it sets off. -/
theorem hasCause_raise (s : State) (r : Raise) (hr : 2 ≤ r.cls) : HasCause (s.raise r) r.code r.cls = true := by
  have h := causeStands_raise2 s.mergeEnd r hr
  unfold State.raise
  extract_lets s0 s1 win times f s2 n
  have h2 : CauseStands r.code r.cls s2 := h.congr rfl rfl
  split
  · split
    · exact (h2.raise1 _).hasCause
    · exact h2.hasCause
  · exact h.hasCause

/-- A raise leaves the times of the FC3 records as they were: they are counted once it has been taken (R470). -/
theorem fc3_raise1 (s : State) (r : Raise) : (s.raise1 r).flt.fc3 = s.flt.fc3 := by
  have hrec : (s.raiseRecord s.raiseTarget r (s.loc r.scope)).flt.fc3 = s.flt.fc3 := by
    unfold State.raiseRecord
    split
    · rw [flt_mergeRecord]
    · rw [flt_openRecord]
    · rfl
  refine raise1_of_listed (P := fun u => u.flt.fc3 = s.flt.fc3) ?_ (fun _ _ hu => hu) (fun u n hu => by rwa [flt_recRefresh])
    (fun u hu => ?_) (fun _ u hu => by rwa [flt_lockOut]) (fun u hu => by rwa [flt_fltRefresh])
  · unfold State.raiseListed; split <;> exact hrec
  · obtain ⟨g, -, he⟩ := endsCauses_headOut u
    rwa [he]

theorem fc3_raise2 (s : State) (r : Raise) : (s.raise2 r).flt.fc3 = s.flt.fc3 := by
  unfold State.raise2
  dsimp only
  split
  · rw [fc3_raise1, fc3_raise1]
  · exact fc3_raise1 s r

end Sys2Proof.Machine
end

section
namespace Sys2Proof.Machine

/-! ### Rules of an access on the bus -/

theorem byMaster_runs {s : State} {m : Master} (hrun : s.sys.inReset = false ∧ s.mastersRun m = true) (f : State → State) :
    s.byMaster m f = f s := by
  obtain ⟨hreset, hruns⟩ := hrun
  simp [State.byMaster, State.live, State.when, hreset, hruns]

theorem OnlyRegs.refl (l : List Nat) (s : State) : OnlyRegs l s s := fun _ _ => rfl

theorem OnlyRegs.trans {l : List Nat} {s t u : State} (h : OnlyRegs l s t) (k : OnlyRegs l t u) : OnlyRegs l s u :=
  fun a ha => (k a ha).trans (h a ha)

theorem OnlyRegs.put {l : List Nat} {z s : State} (h : OnlyRegs l z s) {f : Fld} {v : Nat} (hf : f.addr ∈ l) :
    OnlyRegs l z (s.put f v) :=
  h.trans fun _ ha => rd_put_other s f v fun e => ha (e ▸ hf)

/-- An answer changes no register and no byte: it is kept, and shown. -/
@[simp] theorem answer_regs (s : State) (a : Ans) (v : BitVec 64) : (s.answer a v).regs = s.regs := rfl
@[simp] theorem answer_byte (s : State) (a : Ans) (v : BitVec 64) (x : Nat) : (s.answer a v).byte x = s.byte x := rfl
@[simp] theorem answer_resp (s : State) (a : Ans) (v : BitVec 64) : (s.answer a v).sys.resp = some (a == .err, v) := rfl

theorem answer_only (s : State) (a : Ans) (v : BitVec 64) : Only [.sys, .out] s (s.answer a v) :=
  only_answer (Only.refl _ _) a v (List.Subset.refl _)

/-! ### A violation (R531) -/

/-- A violation writes the count and the record of the last violation only. -/
theorem violation_regs (s : State) (m : Master) (write : Bool) (a : Nat) :
    OnlyRegs [R.SYS_VIOL_CNT, R.SYS_VIOL_LAST] s (s.violation m write a) := by
  have hcnt : OnlyRegs [R.SYS_VIOL_CNT, R.SYS_VIOL_LAST] s (s.bumpReg R.SYS_VIOL_CNT) :=
    fun b hb => rd_wr_other s _ fun e => hb (by simp [e])
  exact ((((hcnt.put (by decide)).put (by decide)).put (by decide)).put (by decide)).put (by decide)

theorem violation_count (s : State) (m : Master) (write : Bool) (a : Nat) :
    (s.violation m write a).num R.SYS_VIOL_CNT = satAdd 0xFFFFFFFF (s.num R.SYS_VIOL_CNT) 1 := by
  have hle : satAdd 0xFFFFFFFF (s.num R.SYS_VIOL_CNT) 1 < 2 ^ 32 := by unfold satAdd; split <;> omega
  have hrd : (s.violation m write a).rd R.SYS_VIOL_CNT = BitVec.ofNat 32 (satAdd 0xFFFFFFFF (s.num R.SYS_VIOL_CNT) 1) := by
    unfold State.violation State.setFlag
    simp (disch := decide) only [rd_put_other]
    exact rd_wr_same s _ _
  rw [State.num, hrd, BitVec.toNat_ofNat, Nat.mod_eq_of_lt hle]

theorem violation_write (s : State) (m : Master) (write : Bool) (a : Nat) :
    (s.violation m write a).get F.SYS_VIOL_LAST_W = b2n write := by
  unfold State.violation State.setFlag
  simp (disch := decide) only [get_put_other, get_put_same]
  cases write <;> rfl

theorem violation_master (s : State) (m : Master) (write : Bool) (a : Nat) :
    (s.violation m write a).get F.SYS_VIOL_LAST_MASTER = masterId m := by
  unfold State.violation State.setFlag
  simp (disch := decide) only [get_put_other, get_put_same]
  cases m <;> rfl

theorem violation_only (s : State) (m : Master) (write : Bool) (a : Nat) : Only [.regs] s (s.violation m write a) :=
  only_violation (Only.refl _ _) m write a (List.Subset.refl _)

/-- A violation and its answer: the two registers of R531, the response and what is shown. -/
theorem violation_answer_only (s : State) (m : Master) (write : Bool) (a : Nat) (x : Ans) (v : BitVec 64) :
    Only [.regs, .sys, .out] s ((s.violation m write a).answer x v) :=
  ((violation_only s m write a).subset (by decide)).step (answer_only _ x v) (by decide)

/-! ### Accesses by their cases -/

theorem readAccess_badSize {s : State} {a size : Nat} (h : sizeOk a size = false) (m by_ : Master) (e : Ecc) :
    s.readAccess m by_ a size e = (s, .err, 0) := by simp [State.readAccess, h]

theorem writeAccess_badSize {s : State} {a size : Nat} (h : sizeOk a size = false) (m by_ : Master) (v : Nat) (e : Ecc) :
    s.writeAccess m by_ a size v e = (s, .err) := by simp [State.writeAccess, h]

theorem inCoeff_of_inSram {a : Nat} (h : inSram a = true) : inCoeff a = false := by
  simp only [inSram, inCoeff, Bool.and_eq_true, Nat.ble_eq, Nat.blt_eq, Bool.and_eq_false_iff] at *
  left; rw [Bool.eq_false_iff, ne_eq, Nat.ble_eq]; omega

/-- A load from SRAM by a master with the right to it answers what the decoder says of its word (R485, R486). -/
theorem readAccess_sram {s : State} {m : Master} {a size : Nat} (hs : inSram a = true) (hz : sizeOk a size = true)
    (hr : s.mayRead m a = true) (by_ : Master) (e : Ecc) :
    s.readAccess m by_ a size e =
      if (s.eccRead (eccWord a) e).2 then ((s.eccRead (eccWord a) e).1, .err, 0)
      else ((s.eccRead (eccWord a) e).1, .ok, (s.eccRead (eccWord a) e).1.loadLe a size) := by
  simp [State.readAccess, hz, inCoeff_of_inSram hs, hs, hr]

theorem writeAccess_sram_denied {s : State} {m : Master} {a size : Nat} (hs : inSram a = true) (hz : sizeOk a size = true)
    (hr : s.mayStore m a = false) (by_ : Master) (v : Nat) (e : Ecc) :
    s.writeAccess m by_ a size v e = (s.violation by_ true a, .viol) := by
  simp [State.writeAccess, hz, hs, hr]

/-- A doubleword store writes its word without reading it (R488). -/
theorem writeAccess_sram_full {s : State} {m : Master} {a : Nat} (hs : inSram a = true) (hz : sizeOk a 8 = true)
    (hr : s.mayStore m a = true) (by_ : Master) (v : Nat) (e : Ecc) :
    s.writeAccess m by_ a 8 v e = ((s.eccClear a).storeLe a 8 v, .ok) := by
  simp [State.writeAccess, hz, hs, hr]

/-- A smaller store merges its bytes into the word it reads (R489). -/
theorem writeAccess_sram_part {s : State} {m : Master} {a size : Nat} (hs : inSram a = true) (hz : sizeOk a size = true)
    (hr : s.mayStore m a = true) (h8 : size ≠ 8) (by_ : Master) (v : Nat) (e : Ecc) :
    s.writeAccess m by_ a size v e =
      if (s.eccMerge (eccWord a) e).2 then ((s.eccMerge (eccWord a) e).1, .err)
      else ((s.eccMerge (eccWord a) e).1.storeLe a size v, .ok) := by
  simp [State.writeAccess, hz, hs, hr, h8]

/-! ### What the decoder finds in a word (R485 to R489) -/

theorem eccDecode_clean {s : State} {w : Nat} (h : s.eccErr w = none) : s.eccDecode w .clean = (s, false) := by
  simp [State.eccDecode, State.poisoned, h]

theorem eccRead_clean {s : State} {w : Nat} (h : s.eccErr w = none) : s.eccRead w .clean = (s, false) := by
  simp [State.eccRead, eccDecode_clean h]

theorem eccMerge_clean {s : State} {w : Nat} (h : s.eccErr w = none) : s.eccMerge w .clean = (s.eccClear w, false) := by
  simp [State.eccMerge, eccDecode_clean h]

/-- A word that decodes uncorrectable is poisoned and raises row 2 of R494. -/
theorem eccRead_uncorr (s : State) (w : Nat) :
    s.eccRead w .uncorr =
      (((s.eccSet w true).wrN R.MEM_LAST_UE w).raise { code := 0x0F02, cls := 2, scope := .node }, true) := by
  simp [State.eccRead, State.eccDecode]

@[simp] theorem eccClear_byte (s : State) (w a : Nat) : (s.eccClear w).byte a = s.byte a := rfl
@[simp] theorem eccClear_regs (s : State) (w : Nat) : (s.eccClear w).regs = s.regs := rfl

theorem storeLe_regs (s : State) (a n v : Nat) : (s.storeLe a n v).regs = s.regs :=
  (Only.storeLe (Only.refl [.mem] s) a n v (List.Subset.refl _)).same .regs (by decide)

/-- Byte i of a store is byte i of the value, the least significant first (R12). -/
theorem byte_storeLe (s : State) (a n v i : Nat) (hi : i < n) :
    (s.storeLe a n v).byte (a + i) = BitVec.ofNat 8 (v / 256 ^ i % 256) := by
  induction n generalizing s a v i with
  | zero => omega
  | succ n ih =>
    cases i with
    | zero => simpa using byte_storeLe_first s a n v
    | succ i =>
      have h := ih (s.setByte a (BitVec.ofNat 8 (v % 256))) (a + 1) (v / 256) i (by omega)
      rw [show a + (i + 1) = a + 1 + i by omega, Nat.pow_succ', ← Nat.div_div_eq_div_mul]
      exact h

/-- Byte i of a value cut to its size is byte i of the value. -/
theorem byte_of_cut (v size i : Nat) (hi : i < size) : v % 2 ^ (8 * size) / 256 ^ i % 256 = v / 256 ^ i % 256 := by
  have hsplit : 2 ^ (8 * size) = 256 ^ i * (256 * 256 ^ (size - i - 1)) := by
    rw [Nat.pow_mul, ← Nat.pow_succ', ← Nat.pow_add, show i + (size - i - 1 + 1) = size by omega]
  rw [hsplit, Nat.mod_mul_right_div_self, Nat.mod_mul_right_mod]

end Sys2Proof.Machine
end

section
namespace Sys2Proof.Machine

/-! ### SRAM accesses (O37) -/

theorem exec_sramStore {s : State} {m : Master} {a : Word} (hrun : s.sys.inReset = false ∧ s.mastersRun m = true)
    (ha : inSram a.toNat = true) (size : Fin 9) (v : BitVec 64) (e : Ecc) :
    exec (.sramAccess m true a size v e) s =
      .next (State.answer (s.writeAccess m m a.toNat size.val (v.toNat % 2 ^ (8 * size.val)) e).1
        (s.writeAccess m m a.toNat size.val (v.toNat % 2 ^ (8 * size.val)) e).2 0) := by
  show execSramAccess m true a size v e s = _
  simp [execSramAccess, byMaster_runs hrun, State.when, ha]

theorem exec_sramLoad {s : State} {m : Master} {a : Word} (hrun : s.sys.inReset = false ∧ s.mastersRun m = true)
    (ha : inSram a.toNat = true) (size : Fin 9) (v : BitVec 64) (e : Ecc) :
    exec (.sramAccess m false a size v e) s = .next (s.busRead m a.toNat size.val e) := by
  show execSramAccess m false a size v e s = _
  simp [execSramAccess, byMaster_runs hrun, State.when, ha]

/-- An SRAM access of 1, 2, 4 or 8 bytes at a multiple of its size is a right one (R12). -/
theorem sizeOk_sram_false {a size : Nat} (hs : inSram a = true)
    (h : (size ≠ 1 ∧ size ≠ 2 ∧ size ≠ 4 ∧ size ≠ 8) ∨ a % size ≠ 0) : sizeOk a size = false := by
  rcases h with ⟨h1, h2, h4, h8⟩ | h
  · simp [sizeOk, hs, h1, h2, h4, h8]
  · simp [sizeOk, hs, h]

/-- A store into a clean word by a master with the right to it ends as a store into the word with no error left. -/
theorem writeAccess_sram_clean {s : State} {m : Master} {a size : Nat} (hs : inSram a = true) (hz : sizeOk a size = true)
    (hr : s.mayStore m a = true) (hclean : s.eccErr (eccWord a) = none) (by_ : Master) (v : Nat) :
    ∃ w, s.writeAccess m by_ a size v .clean = ((s.eccClear w).storeLe a size v, .ok) := by
  by_cases h8 : size = 8
  · subst h8; exact ⟨a, writeAccess_sram_full hs hz hr by_ v .clean⟩
  · refine ⟨eccWord a, ?_⟩
    rw [writeAccess_sram_part hs hz hr h8, eccMerge_clean hclean]
    rfl

theorem sramStore_writes (s : State) (m : Master) (a : Word) (size : Fin 9) (v : BitVec 64)
    (hrun : s.sys.inReset = false ∧ s.mastersRun m = true)
    (hacc : inSram a.toNat = true ∧ sizeOk a.toNat size = true ∧ s.mayStore m a.toNat = true)
    (hclean : s.eccErr (eccWord a.toNat) = none) :
    Answers (.sramAccess m true a size v .clean) s fun t =>
      (∀ i : Fin 8, i.val < size.val → t.byte (a.toNat + i.val) = BitVec.ofNat 8 (v.toNat / 256 ^ i.val % 256)) ∧
      (∀ a', (a' < a.toNat ∨ a.toNat + size.val ≤ a') → t.byte a' = s.byte a') ∧
      t.sys.resp = some (false, 0) ∧ t.regs = s.regs ∧ Only [.mem, .sys, .memx, .out] s t := by
  obtain ⟨hs, hz, hr⟩ := hacc
  obtain ⟨w, hw⟩ := writeAccess_sram_clean hs hz hr hclean m (v.toNat % 2 ^ (8 * size.val))
  refine ⟨_, exec_sramStore hrun hs size v .clean, ?_⟩
  rw [hw]
  refine ⟨fun i hi => ?_, fun a' ha' => ?_, by simp, by simp [storeLe_regs], ?_⟩
  · rw [answer_byte, byte_storeLe _ _ _ _ _ hi, byte_of_cut _ _ _ hi]
  · rw [answer_byte, byte_storeLe_other _ _ _ _ _ ha', eccClear_byte]
  · exact only_answer (Only.storeLe (only_eccClear (Only.refl _ _) _ (by decide)) _ _ _ (by decide)) _ _ (by decide)

theorem sramLoad_reads (s : State) (m : Master) (a : Word) (size : Fin 9) (v : BitVec 64)
    (hrun : s.sys.inReset = false ∧ s.mastersRun m = true)
    (hacc : inSram a.toNat = true ∧ sizeOk a.toNat size = true ∧ s.mayRead m a.toNat = true)
    (hclean : s.eccErr (eccWord a.toNat) = none) :
    Answers (.sramAccess m false a size v .clean) s fun t =>
      t.sys.resp = some (false, BitVec.ofNat 64 (s.loadLe a.toNat size.val)) ∧ t.regs = s.regs ∧ Only [.sys, .out] s t := by
  obtain ⟨hs, hz, hr⟩ := hacc
  refine ⟨_, exec_sramLoad hrun hs size v .clean, ?_⟩
  simp only [State.busRead, readAccess_sram hs hz hr, eccRead_clean hclean, Bool.false_eq_true, if_false]
  exact ⟨answer_resp _ _ _, rfl, answer_only _ _ _⟩

theorem sramAccess_badSize (s : State) (m : Master) (wr : Bool) (a : Word) (size : Fin 9) (v : BitVec 64) (e : Ecc)
    (hrun : s.sys.inReset = false ∧ s.mastersRun m = true) (hs : inSram a.toNat = true)
    (hbad : (size.val ≠ 1 ∧ size.val ≠ 2 ∧ size.val ≠ 4 ∧ size.val ≠ 8) ∨ a.toNat % size.val ≠ 0) :
    Answers (.sramAccess m wr a size v e) s fun t =>
      t.sys.resp = some (true, 0) ∧ t.regs = s.regs ∧ Only [.sys, .out] s t := by
  have hz : sizeOk a.toNat size.val = false := sizeOk_sram_false hs hbad
  cases wr with
  | true =>
    refine ⟨_, exec_sramStore hrun hs size v e, ?_⟩
    rw [writeAccess_badSize hz]
    exact ⟨rfl, rfl, answer_only _ _ _⟩
  | false =>
    refine ⟨_, exec_sramLoad hrun hs size v e, ?_⟩
    simp only [State.busRead, readAccess_badSize hz]
    exact ⟨rfl, rfl, answer_only _ _ _⟩

theorem sramStore_denied (s : State) (m : Master) (a : Word) (size : Fin 9) (v : BitVec 64) (e : Ecc)
    (hrun : s.sys.inReset = false ∧ s.mastersRun m = true)
    (hacc : inSram a.toNat = true ∧ sizeOk a.toNat size = true ∧ s.mayStore m a.toNat = false) :
    Answers (.sramAccess m true a size v e) s fun t =>
      t.num R.SYS_VIOL_CNT = satAdd 0xFFFFFFFF (s.num R.SYS_VIOL_CNT) 1 ∧
      t.get F.SYS_VIOL_LAST_W = 1 ∧ t.get F.SYS_VIOL_LAST_MASTER = masterId m ∧
      OnlyRegs [R.SYS_VIOL_CNT, R.SYS_VIOL_LAST] s t ∧ Only [.regs, .sys, .out] s t := by
  obtain ⟨hs, hz, hr⟩ := hacc
  refine ⟨_, exec_sramStore hrun hs size v e, ?_⟩
  rw [writeAccess_sram_denied hs hz hr]
  exact ⟨violation_count _ _ _ _, violation_write _ _ _ _, violation_master _ _ _ _, violation_regs _ _ _ _,
    violation_answer_only _ _ _ _ _ _⟩

theorem sramLoad_uncorr (s : State) (m : Master) (a : Word) (size : Fin 9) (v : BitVec 64)
    (hrun : s.sys.inReset = false ∧ s.mastersRun m = true)
    (hacc : inSram a.toNat = true ∧ sizeOk a.toNat size = true ∧ s.mayRead m a.toNat = true) :
    Answers (.sramAccess m false a size v .uncorr) s fun t =>
      t.sys.resp = some (true, 0) ∧ HasCause t 0x0F02 2 = true ∧ t.mem = s.mem := by
  obtain ⟨hs, hz, hr⟩ := hacc
  refine ⟨_, exec_sramLoad hrun hs size v .uncorr, ?_⟩
  have hmem : (s.eccRead (eccWord a.toNat) .uncorr).1.mem = s.mem :=
    (only_eccRead (Only.refl _ s) (eccWord a.toNat) .uncorr (List.Subset.refl _)).same .mem (by decide)
  rw [eccRead_uncorr] at hmem
  simp only [State.busRead, readAccess_sram hs hz hr, eccRead_uncorr, if_true]
  exact ⟨rfl, hasCause_raise _ _ (by decide), hmem⟩

/-- Settles O37: each clause is one of the cases of an access to SRAM. -/
theorem sramAccess : Obligations.SramAccess := by
  unfold Obligations.SramAccess
  exact ⟨sramStore_writes, sramLoad_reads, sramAccess_badSize, sramStore_denied, sramLoad_uncorr⟩

end Sys2Proof.Machine
end

section
namespace Sys2Proof.Machine

/-! ### A refused write of a clock output is still judged (O36) -/

/-- A node in FULL after its boot lock whose image has written no clock output: CLK_CKO0_CFG reads 0, a divider outside
every range of R87, and no output has been judged yet. -/
def lockedNode : State :=
  State.put { State.reset with sys := { inReset := false, powerGood := true, bootLock := true } } F.IMG_STAT_STAGE Stage.full

/-- The row of CLK_CKO0_CFG: RL bits, and no RW and no W1C bit (R87). -/
def cko0Row : RegRow := ⟨0x40010020, 0x100000000, 1, 0x4, 4, 0x0, 0xC003FFFF, 0x0, 0x0⟩

/-- The management processor writes 1 there: the boot lock refuses it (R11), yet the divider that stays is judged as though
it had been written (R87), so the clock unit notes output 0 as out of range. -/
theorem refusedWrite_judges_divider :
    ∃ t, exec (.registerWrite .mp (BitVec.ofNat 32 (R.CLK_CKOn_CFG 0)) 4 1 .clean) lockedNode = .next t ∧
      t.clk.ckoBad = 1 ∧ lockedNode.clk.ckoBad = 0 := by
  refine ⟨_, rfl, ?_⟩
  decide +kernel

/-- Refutes O36: its last clause does not except the clock outputs. At `lockedNode` the boot lock refuses a write of
CLK_CKO0_CFG, but the clock unit changes, which is no register, no bus answer and nothing sent. -/
theorem not_registerAccess : ¬ Obligations.RegisterAccess := by
  unfold Obligations.RegisterAccess
  rintro ⟨-, -, -, -, -, -, -, -, hlocked⟩
  obtain ⟨u, hu, hbad, hgood⟩ := refusedWrite_judges_divider
  obtain ⟨t, ht, -, -, -, honly⟩ := hlocked lockedNode (BitVec.ofNat 32 (R.CLK_CKOn_CFG 0)) 1 .clean cko0Row
    (by decide +kernel) (by decide +kernel) (by decide +kernel) (by decide +kernel) (by decide +kernel) (by decide +kernel)
  have htu : t = u := by rw [hu] at ht; cases ht; rfl
  have hclk : t.clk = lockedNode.clk := honly.same .clk (by decide)
  rw [htu] at hclk
  rw [hclk, hgood] at hbad
  exact absurd hbad (by decide)

end Sys2Proof.Machine
end

section
namespace Sys2Proof.Machine

/-! ### What binding, a boot stage and a raise short of a lockout leave alone

The registers of the SYS and IMG windows and the lockout's count: role, boot stage, load error and slots read through every
operation below. Each lemma follows the writes of its operation; every one of them is elsewhere. -/

/-- The register is none of the SYS and IMG windows, and is not FLT_LOCK. -/
def bootOff (a : Nat) : Bool := a / 0x10000 != 0x4000 && a / 0x10000 != 0x4002 && a != R.FLT_LOCK

/-- Every register of the SYS and IMG windows, and FLT_LOCK, reads as before. -/
abbrev BootKept (s t : State) : Prop := RegsOff bootOff s t

theorem bootOff_of_le {a : Nat} (h : 0x40030000 ≤ a) (hl : a ≠ 0x400E0014) : bootOff a = true := by
  simp only [bootOff, R.FLT_LOCK, Bool.and_eq_true, bne_iff_ne]; omega

theorem bootOff_rec (r w : Nat) : bootOff (R.FLT_RECr_Ww r w) = true :=
  bootOff_of_le (by unfold R.FLT_RECr_Ww; omega) (by unfold R.FLT_RECr_Ww; omega)

theorem bootOff_leg (n : Nat) : bootOff (R.PWM_LCHn_STAT n) = true :=
  bootOff_of_le (by unfold R.PWM_LCHn_STAT; omega) (by unfold R.PWM_LCHn_STAT; omega)

theorem RegsOff.mono {w w' : Nat → Bool} {s t : State} (h : RegsOff w s t) (hw : ∀ a, w a = true → w' a = true) :
    RegsOff w' s t :=
  ⟨fun a ha => h.same a (by cases hwa : w a with | false => rfl | true => rw [hw a hwa] at ha; cases ha)⟩

theorem RegsOff.get {w : Nat → Bool} {s t : State} (h : RegsOff w s t) {f : Fld} (hf : w f.addr = false) :
    t.get f = s.get f := by
  unfold State.get; rw [h.same _ hf]

/-! Legs, root and upstream -/

theorem kept_gateRefresh {z s : State} (h : BootKept z s) (n : Nat) : BootKept z (s.gateRefresh n) := h.same_regs.same_regs

theorem kept_legRefresh1 {z s : State} (h : BootKept z s) (n : Nat) : BootKept z (s.legRefresh1 n) := by
  have h1 : BootKept z (s.put (F.PWM_LCHn_STAT_LEG_STATE n) (s.legNext n)) := h.put (bootOff_leg n)
  unfold State.legRefresh1
  refine kept_gateRefresh ?_ n
  split
  · exact RegsOff.ite h1.same_regs.same_regs.same_regs h1.same_regs
  · exact RegsOff.ite h1 h1.same_regs

theorem kept_legRefresh {z s : State} (h : BootKept z s) : BootKept z s.legRefresh :=
  h.forUpTo fun n _ _ hb => kept_legRefresh1 hb n

theorem kept_haltCarriers {z s : State} (h : BootKept z s) : BootKept z s.haltCarriers :=
  RegsOff.same_regs (h.forUpTo fun _ _ _ hb => hb.same_regs)

theorem kept_setRoot {z s : State} (h : BootKept z s) (r : Root) : BootKept z (s.setRoot r) :=
  h.same_regs.put (by decide)

theorem kept_loseTimebase {z s : State} (h : BootKept z s) : BootKept z s.loseTimebase :=
  kept_legRefresh ((kept_haltCarriers h).setFlag (by decide))

theorem kept_rootSearch {z s : State} (h : BootKept z s) : BootKept z s.rootSearch :=
  kept_loseTimebase (kept_setRoot h.same_regs .search)

theorem kept_holdOut {z s : State} (h : BootKept z s) : BootKept z s.holdOut := RegsOff.ite (kept_rootSearch h) h

theorem kept_takeUp {z s : State} (h : BootKept z s) (p : Nat) : BootKept z (s.takeUp p) :=
  RegsOff.forUpTo ((((h.put (by decide)).put (by decide)).put (by decide)).put (by decide)) fun _ _ _ hb => hb.same_regs

theorem kept_selectUp {z s : State} (h : BootKept z s) : BootKept z s.selectUp := by
  unfold State.selectUp
  refine RegsOff.ite h (RegsOff.ite ?_ ?_)
  · split
    · exact kept_takeUp h _
    · exact (h.put (by decide)).put (by decide)
  · split
    · exact kept_takeUp h _
    · exact h.wr (by decide)

/-! The fault collector -/

theorem kept_recRefresh {z s : State} (h : BootKept z s) (num : Nat) : BootKept z (s.recRefresh num) := by
  have h1 : BootKept z (s.setFlag (F.FLT_RECr_W1_ENDED (recIdx num))
      ((s.flt.causes.filter fun c => c.recNo == some num).all (·.ended))) := h.setFlag (bootOff_rec _ 1)
  unfold State.recRefresh
  exact RegsOff.ite (h1.setFlag (bootOff_rec _ 1))
    (RegsOff.ite ((h1.setFlag (bootOff_rec _ 1)).setFlag (bootOff_rec _ 1)) h1)

theorem kept_fltStat {z s : State} (h : BootKept z s) : BootKept z s.fltStat := by
  unfold State.fltStat
  exact RegsOff.when ((((((((((h.wrN (by decide)).wrN (by decide)).put (by decide)).put (by decide)).setFlag (by decide)).put
    (by decide)).setFlag (by decide)).setFlag (by decide)).setFlag (by decide)).setFlag (by decide))
    fun _ hb => hb.setFlag (by decide)

theorem kept_fltRefresh {z s : State} (h : BootKept z s) : BootKept z s.fltRefresh := kept_legRefresh (kept_fltStat h)

theorem kept_endCause {z s : State} (h : BootKept z s) (code inst tag : Nat) : BootKept z (s.endCause code inst tag) :=
  kept_fltRefresh (RegsOff.foldl h.same_regs fun _ n hb => kept_recRefresh hb n)

theorem kept_giveUpRoot {z s : State} (h : BootKept z s) : BootKept z s.giveUpRoot := by
  have h1 : BootKept z (s.setFlag F.TIM_STAT_SRC_HOST false) := h.setFlag (by decide)
  have h2 := RegsOff.ite (c := (s.setFlag F.TIM_STAT_SRC_HOST false).flag F.TIM_STAT_HOST_TO = true)
    (kept_endCause (h1.setFlag (f := F.TIM_STAT_HOST_TO) (b := false) (by decide)) 0x0507 0 0) h1
  unfold State.giveUpRoot
  exact kept_selectUp (RegsOff.ite ((h2.same_regs.setFlag (by decide)).put (by decide)) h2.same_regs)

theorem kept_headOut {z s : State} (h : BootKept z s) : BootKept z s.headOut := by
  have h2 : BootKept z (((s.put F.DPX_STAT_STATE Dpx.out).setFlag F.DPX_STAT_PROVEN false).setFlag F.DPX_STAT_ELIG false) :=
    ((h.put (by decide)).setFlag (by decide)).setFlag (by decide)
  have h3 := RegsOff.ite (c := s.swapNamed = true)
    (((h2.put (f := F.DPX_SWAP_STAT_STATE) (v := 3) (by decide)).put (f := F.DPX_SWAP_STAT_ERR) (v := 5) (by decide)).setFlag
      (f := F.DPX_STAT_SWAP_PEND) (b := false) (by decide)) h2
  unfold State.headOut
  exact RegsOff.ite (RegsOff.ite (kept_giveUpRoot h3) h3) h

theorem kept_openRecord {z s : State} (h : BootKept z s) (num : Nat) (r : Raise) (c : Word) :
    BootKept z (s.openRecord num r c) := by
  unfold State.openRecord
  refine RegsOff.when ?_ fun _ hb => hb.emit
  exact ((((((((((h.wrN (bootOff_rec _ _)).wrN (bootOff_rec _ _)).wr (bootOff_rec _ _)).wrN (bootOff_rec _ _)).wrN
    (bootOff_rec _ _)).wr (bootOff_rec _ _)).wrN (bootOff_rec _ _)).wrN (bootOff_rec _ _)).put (by decide))).same_regs

theorem kept_mergeRecord {z s : State} (h : BootKept z s) (num : Nat) (r : Raise) (c : Word) :
    BootKept z (s.mergeRecord num r c) := by
  have h5 : BootKept z (((((s.put (F.FLT_RECr_W1_CLASS (recIdx num)) (Nat.max (s.get (F.FLT_RECr_W1_CLASS (recIdx num))) r.cls)).wr
      (R.FLT_RECr_Ww (recIdx num) 2) (locJoin (s.rd (R.FLT_RECr_Ww (recIdx num) 2)) c)).wr (R.FLT_RECr_Ww (recIdx num) 3)
      (s.rd (R.FLT_RECr_Ww (recIdx num) 3) ||| BitVec.ofNat 32 (1 <<< (r.code / 256)))).bump
      (F.FLT_RECr_W6_COUNT (recIdx num))).put (F.FLT_RECr_W6_LAST (recIdx num)) r.code) :=
    ((((h.put (bootOff_rec _ 1)).wr (bootOff_rec _ _)).wr (bootOff_rec _ _)).bump (bootOff_rec _ 6)).put (bootOff_rec _ 6)
  have h6 := RegsOff.ite (c := r.broken = true)
    (h5.setFlag (f := F.FLT_RECr_W1_BROKEN (recIdx num)) (b := true) (bootOff_rec _ 1)) h5
  unfold State.mergeRecord
  exact RegsOff.same_regs (RegsOff.ite ((h6.setFlag (bootOff_rec _ 1)).setFlag (bootOff_rec _ 1)) h6)

theorem kept_raiseRecord {z s : State} (h : BootKept z s) (recd : Option Nat) (r : Raise) (c : Word) :
    BootKept z (s.raiseRecord recd r c) := by
  unfold State.raiseRecord
  split
  · exact kept_mergeRecord h _ r c
  · exact kept_openRecord h _ r c
  · exact h.bumpReg (by decide)

theorem kept_raiseListed {z s : State} (h : BootKept z s) (r : Raise) : BootKept z (s.raiseListed r) :=
  RegsOff.ite (kept_raiseRecord h _ r _).same_regs (kept_raiseRecord h _ r _)

theorem kept_raise1 {z s : State} (h : BootKept z s) (r : Raise) (hr : r.cls ≠ 5) : BootKept z (s.raise1 r) :=
  raise1_of_listed (kept_raiseListed h r) (fun _ _ hu => hu.same_regs) (fun _ n hu => kept_recRefresh hu n)
    (fun _ hu => kept_headOut hu) (fun h5 => absurd h5 hr) (fun _ hu => kept_fltRefresh hu)

theorem kept_mergeEnd {z s : State} (h : BootKept z s) : BootKept z s.mergeEnd := by
  unfold State.mergeEnd
  split
  · exact h
  · exact RegsOff.ite h (h.same_regs.setFlag (bootOff_rec _ 1))

theorem kept_raise2 {z s : State} (h : BootKept z s) (r : Raise) (hr : r.cls ≠ 5) : BootKept z (s.raise2 r) :=
  RegsOff.ite (kept_raise1 (kept_raise1 h r hr) _ (by decide)) (kept_raise1 h r hr)

/-- A raise short of FC5 that does not complete the count of R470 leaves the registers of `BootKept` alone. -/
theorem kept_raise {z s : State} (h : BootKept z s) (r : Raise) (hr : r.cls ≠ 5) (hfc3 : s.flt.fc3 = [])
    (hn : s.get F.FLT_LOCK_LOCK_N ≠ 1) : BootKept z (s.raise r) := by
  have hm : BootKept s s.mergeEnd := kept_mergeEnd (RegsOff.refl _ s)
  have h2 : BootKept z (s.mergeEnd.raise2 r) := kept_raise2 (h.trans hm) r hr
  have hn' : s.mergeEnd.get F.FLT_LOCK_LOCK_N ≠ 1 := by rwa [hm.get (by decide)]
  have hfc : (s.mergeEnd.raise2 r).flt.fc3 = [] := by
    rw [fc3_raise2]; unfold State.mergeEnd; split
    · exact hfc3
    · split <;> exact hfc3
  unfold State.raise
  dsimp only
  split
  · rw [if_neg]
    · exact h2.same_regs
    · simp only [hfc, List.filter_nil, List.length_singleton, Bool.and_eq_true, bne_iff_ne, Nat.ble_eq]
      omega
  · exact h2

/-! Lanes at boot stage LANES (R135): every lane leaves OFF, so none leaves UP and nothing is raised. -/

/-- A register of the LNK window. -/
def lnkReg (a : Nat) : Bool := a / 0x10000 == 0x4003

/-- Registers of the LNK window, the lanes' hidden state and the marks on the ring are all that may have changed. -/
structure LaneFrame (z s : State) : Prop where
  regs : RegsOff lnkReg z s
  only : Only [.regs, .lnk, .out] z s

theorem LaneFrame.refl (s : State) : LaneFrame s s := ⟨RegsOff.refl _ _, Only.refl _ _⟩

theorem LaneFrame.ite {c : Prop} [Decidable c] {z x y : State} (hx : LaneFrame z x) (hy : LaneFrame z y) :
    LaneFrame z (if c then x else y) := by split <;> assumption

theorem LaneFrame.foldl_mem {β : Type} {z s : State} {f : State → β → State} {l : List β} (h : LaneFrame z s)
    (hf : ∀ b x, x ∈ l → LaneFrame z b → LaneFrame z (f b x)) : LaneFrame z (l.foldl f s) := by
  induction l generalizing s with
  | nil => exact h
  | cons x t ih => exact ih (hf s x (by simp) h) fun b y hy => hf b y (by simp [hy])

theorem LaneFrame.bootKept {s t : State} (h : LaneFrame s t) : BootKept s t :=
  h.regs.mono fun a ha => by
    simp only [lnkReg, beq_iff_eq] at ha
    exact bootOff_of_le (by omega) (by omega)

theorem lnkReg_port {p : Nat} (hp : p < 5) : lnkReg (R.LNK_PORTx_STAT p) = true ∧ lnkReg (R.LNK_PORTx_CTRL p) = true := by
  simp only [lnkReg, R.LNK_PORTx_STAT, R.LNK_PORTx_CTRL, beq_iff_eq]; omega

theorem setLaneState_lnk {z s : State} (h : RegsOff lnkReg z s) {p : Nat} (hp : p < 5) (l v : Nat) :
    RegsOff lnkReg z (s.setLaneState p l v) := by
  have hs : lnkReg (R.LNK_PORTx_STAT p) = true := (lnkReg_port hp).1
  have h1 := RegsOff.ite (c := l = 0) (h.put (f := F.LNK_PORTx_STAT_L0_STATE p) (v := v) hs)
    (RegsOff.ite (c := p = 4) h (h.put (f := F.LNK_PORTx_STAT_L1_STATE p) (v := v) hs))
  unfold State.setLaneState
  exact RegsOff.when (h1.setFlag hs) fun _ hb => hb.emit

theorem laneEnter_frame {z s : State} (h : LaneFrame z s) {p : Nat} (hp : p < 5) (l st : Nat) :
    LaneFrame z (s.laneEnter p l st) :=
  ⟨(setLaneState_lnk h.regs hp l st).same_regs, only_laneEnter h.only p l st (List.Subset.refl _)⟩

theorem LaneFrame.setFlag {z s : State} (h : LaneFrame z s) {f : Fld} {b : Bool} (hf : lnkReg f.addr = true) :
    LaneFrame z (s.setFlag f b) := ⟨h.regs.setFlag hf, only_setFlag h.only f b (by decide)⟩

/-- A lane that does not leave UP: no fault and no new upstream (R147, R198). -/
theorem laneMove_frame {z s : State} (h : LaneFrame z s) {p l : Nat} (hp : p < 5) (hup : s.laneState p l ≠ Lane.up)
    (svc : Bool) (st : Nat) : LaneFrame z (s.laneMove svc p l st) := by
  obtain ⟨hstat, hctrl⟩ := lnkReg_port hp
  have h1 := laneEnter_frame h hp l st
  have h2 := LaneFrame.ite (c := (s.laneState p l == Lane.train && st != Lane.train) = true)
    (h1.setFlag (f := F.LNK_PORTx_CTRL_TRAIN p) (b := false) hctrl) h1
  unfold State.laneMove
  simp only [hup, decide_false, Bool.false_and, Bool.false_eq_true, if_false]
  refine LaneFrame.ite (LaneFrame.ite ?_ ?_) h2
  · exact h2.setFlag hstat
  · exact h2

theorem laneStart_frame {z s : State} (h : LaneFrame z s) {p : Nat} (hp : p < 5) (l : Nat) :
    LaneFrame z (s.laneStart p l) := by
  unfold State.laneStart State.when
  split
  · next hw =>
    refine laneMove_frame h hp ?_ _ _
    simp only [Bool.and_eq_true, beq_iff_eq] at hw
    rw [hw.1]; decide
  · exact h

theorem pllChill_frame {z s : State} (h : LaneFrame z s) (k : Nat) : LaneFrame z (s.pllChill k) := by
  refine ⟨?_, only_pllChill h.only k (by decide)⟩
  have hoff : lnkReg (pllOffFld k).addr = true := by unfold pllOffFld; split <;> rfl
  have hlock : lnkReg (pllLockFld k).addr = true := by unfold pllLockFld; split <;> rfl
  unfold State.pllChill
  exact RegsOff.ite (RegsOff.when ((h.regs.setFlag hoff).setFlag hlock) fun _ hb => hb.same_regs) (h.regs.setFlag hoff)

/-- LANES: only the LNK window, the lanes and the marks they send. -/
theorem lanesBoot_frame {z s : State} (h : LaneFrame z s) : LaneFrame z s.lanesBoot := by
  unfold State.lanesBoot
  refine pllChill_frame (pllChill_frame ?_ 0) 1
  refine LaneFrame.foldl_mem h fun b p hp hb => LaneFrame.foldl_mem hb fun u l _ hu => ?_
  have hp5 : p < 5 := List.mem_range.1 hp
  split
  · exact hu
  · next hoff =>
    have hstate : u.laneState p l = Lane.off := by simpa using hoff
    have hup : u.laneState p l ≠ Lane.up := by rw [hstate]; decide
    split
    · exact laneMove_frame hu hp5 hup _ _
    · exact laneStart_frame (laneMove_frame hu hp5 hup _ _) hp5 l

/-! The blocks at binding -/

/-- Registers that binding and a boot stage may write: `bootOff`, and IMG_STAT. -/
def bindOff (a : Nat) : Bool := bootOff a || a == R.IMG_STAT

theorem BootKept.bindOff {s t : State} (h : BootKept s t) : RegsOff bindOff s t :=
  h.mono fun a ha => by simp [Machine.bindOff, ha]

theorem bootOff_lnkPort (p : Nat) : bootOff (R.LNK_PORTx_FIX p) = true ∧ bootOff (R.LNK_PORTx_EQ_LO p) = true ∧
    bootOff (R.LNK_PORTx_EQ_HI p) = true := by
  refine ⟨bootOff_of_le ?_ ?_, bootOff_of_le ?_ ?_, bootOff_of_le ?_ ?_⟩ <;>
    simp only [R.LNK_PORTx_FIX, R.LNK_PORTx_EQ_LO, R.LNK_PORTx_EQ_HI] <;> omega

theorem kept_wire {z s : State} (h : BootKept z s) : BootKept z s.wire :=
  h.forUpTo fun p _ _ hb => hb.same_regs.wrN (bootOff_lnkPort p).1

theorem kept_laneBand {z s : State} (h : BootKept z s) (n : Nat) : BootKept z (s.laneBand n) := by
  refine RegsOff.forUpTo (h.put (by decide)) fun p _ u hu => ?_
  obtain ⟨-, hlo, hhi⟩ := bootOff_lnkPort p
  split <;> exact (hu.wr hlo).wr hhi

theorem bootOff_stateFld (n : Nat) (sw : Sw) : bootOff (stateFld n sw).addr = true := by
  cases sw <;> exact bootOff_of_le (by simp only [stateFld, F.GD_LEGn_STAT_LS_STATE, F.GD_LEGn_STAT_HS_STATE, R.GD_LEGn_STAT]; omega)
    (by simp only [stateFld, F.GD_LEGn_STAT_LS_STATE, F.GD_LEGn_STAT_HS_STATE, R.GD_LEGn_STAT]; omega)

theorem kept_setGd {z s : State} (h : BootKept z s) (n : Nat) (sw : Sw) (st : Nat) : BootKept z (s.setGd n sw st) :=
  kept_gateRefresh ((h.put (bootOff_stateFld n sw)).same_regs.put (by decide)) n

theorem kept_gdBind {z s : State} (h : BootKept z s) : BootKept z s.gdBind := by
  unfold State.gdBind
  refine RegsOff.ite h (RegsOff.same_regs ?_)
  refine RegsOff.forUpTo (RegsOff.forUpTo h fun n _ u hu => ?_) fun _ _ _ hb => hb.same_regs
  exact RegsOff.when hu fun b hb => (kept_setGd (kept_setGd hb n .low GdState.normal) n .high GdState.charge).same_regs.same_regs.same_regs

theorem kept_setInhibit {z s : State} (h : BootKept z s) (on : Bool) : BootKept z (s.setInhibit on) := by
  have h1 : BootKept z (s.setFlag F.SAF_STAT_INH on) := h.setFlag (by decide)
  unfold State.setInhibit
  refine RegsOff.forUpTo (RegsOff.ite (RegsOff.forUpTo h1 fun n _ u hu => ?_) h1) fun n _ _ hb => kept_gateRefresh hb n
  have hlow := RegsOff.ite (c := u.bypassLeg n = true)
    (hu.same_regs : BootKept z (u.modGate n .low fun g => { g with needEdge := !u.swCmd n .low }))
    (hu.same_regs : BootKept z (u.waitEdge n .low))
  exact RegsOff.ite hlow.same_regs hlow.same_regs

theorem kept_safRefresh {z s : State} (h : BootKept z s) : BootKept z s.safRefresh := by
  have h1 : BootKept z (s.setFlag F.SAF_STAT_LOCAL_DEM s.safLocal) := h.setFlag (by decide)
  have hso : ∀ x, bootOff (soOnFld x).addr = true := fun x => by unfold soOnFld; split <;> rfl
  unfold State.safRefresh
  refine RegsOff.forUpTo (RegsOff.ite h1 (kept_setInhibit h1 _)) fun x _ u hu => ?_
  exact RegsOff.ite hu (hu.setFlag (hso x)).same_regs

theorem kept_safBind {z s : State} (h : BootKept z s) : BootKept z s.safBind := by
  unfold State.safBind
  exact RegsOff.ite (kept_setInhibit (h.wr (by decide)) false)
    (kept_safRefresh ((h.put (by decide)).setFlag (by decide)).same_regs)

theorem kept_refWaitStart {z s : State} (h : BootKept z s) : BootKept z s.refWaitStart := by
  unfold State.refWaitStart
  exact RegsOff.ite h (RegsOff.ite (kept_setRoot h.same_regs .holdover) (RegsOff.ite (h.setFlag (by decide)) h))

theorem regs_headroomInit (s : State) : s.headroomInit.regs = s.regs :=
  (only_headroomInit (Only.refl _ s) (List.Subset.refl _)).same .regs (by decide)

end Sys2Proof.Machine
end

section
namespace Sys2Proof.Machine

/-! ### A verified image binds the node, or leaves it unbound (O22) -/

theorem exec_verifyDone {s : State} (hreset : s.sys.inReset = false) (hstage : s.stage = Stage.verify) {st : StationRead}
    (hverify : s.verify s.bootSlot st.bufferBad = none) : exec (.verifyDone st) s = .next (s.bind st) := by
  show execVerifyDone st s = _
  simp [execVerifyDone, State.live, State.verifyDone, hreset, hstage, hverify]

theorem exec_bootLock {s : State} (hreset : s.sys.inReset = false) : exec .bootLock s = .next s.bootLock := by
  show execBootLock s = _
  simp [execBootLock, State.live, hreset]

/-! Boot stages -/

/-- After the stage has been set nothing of the boot registers moves (R102). -/
theorem toStage_kept (s : State) (n : Nat) : BootKept (s.put F.IMG_STAT_STAGE n) (s.toStage n) :=
  RegsOff.when (kept_fltRefresh (RegsOff.refl _ _)) fun _ hb => kept_holdOut hb

theorem stage_toStage (s : State) (n : Nat) : (s.toStage n).stage = n % 16 := by
  rw [State.stage, (toStage_kept s n).get (by decide), get_put_same _ _ (by decide)]; rfl

/-- A boot field other than the stage reads through a change of stage. -/
theorem get_toStage (s : State) (n : Nat) {f : Fld} (hf : bootOff f.addr = false)
    (hd : f.addr ≠ R.IMG_STAT ∨ 4 ≤ f.lo) : (s.toStage n).get f = s.get f := by
  rw [(toStage_kept s n).get hf, get_put_other _ _ _ (by decide)]
  rcases hd with hd | hd
  · exact .inl hd
  · exact .inr (.inr hd)

theorem flt_toStage (s : State) (n : Nat) : (s.toStage n).flt = s.flt :=
  (only_toStage (Only.refl _ s) n (List.Subset.refl _)).same .flt (by decide)

theorem hasCause_lanesBoot {s : State} {code cls : Nat} (h : HasCause s code cls = true) :
    HasCause s.lanesBoot code cls = true := by
  have e : s.lanesBoot.flt = s.flt := (lanesBoot_frame (LaneFrame.refl s)).only.same .flt (by decide)
  unfold HasCause; rw [e]; exact h

/-- LOADFAIL and UNBOUND (R33, R104): once the stage is set only its raise and the lanes follow, and where the raise
completes no count of R470, they leave the boot registers alone. -/
theorem unbind_kept (s : State) (n : Nat) (hfc3 : s.flt.fc3 = []) (hn : s.get F.FLT_LOCK_LOCK_N ≠ 1) :
    BootKept (s.put F.IMG_STAT_STAGE n) (s.unbind n) := by
  have hn' : (s.toStage n).get F.FLT_LOCK_LOCK_N ≠ 1 := by rwa [get_toStage _ _ (by decide) (.inl (by decide))]
  have hraise := kept_raise (toStage_kept s n) { code := 0x0101, cls := 3, scope := .node, ended := false } (by decide)
    (by rw [flt_toStage]; exact hfc3) hn'
  exact hraise.trans (lanesBoot_frame (LaneFrame.refl _)).bootKept

theorem unbind_cause (s : State) (n : Nat) : HasCause (s.unbind n) 0x0101 3 = true :=
  hasCause_lanesBoot (hasCause_raise (s.toStage n) { code := 0x0101, cls := 3, scope := .node, ended := false } (by decide))

/-! A failed load (R104) -/

/-- What a last failed attempt has written when the node leaves for LOADFAIL: the slot BAD with its result, and the error. -/
def State.failMarked (s : State) (err sect : Nat) : State :=
  ((((({ s with img := { s.img with vendorOk := s.firmwareOk s.bootSlot } }).setSlotSt s.bootSlot .bad).put
    (slotResFld s.bootSlot) err).put F.IMG_STAT_ERR err).put F.IMG_STAT_ERR_SECT sect)

theorem loadFail_last {s : State} (h : s.img.fallback = false ∨ s.img.retried = true) (err sect : Nat) :
    s.loadFail err sect = (s.failMarked err sect).unbind Stage.loadFail := by
  unfold State.loadFail
  exact if_neg (by rcases h with h | h <;> simp [State.setSlotSt, State.slotShow, h])

theorem slotResFld_fits (i : Nat) : (slotResFld i).lo + (slotResFld i).len ≤ 32 ∧ (slotResFld i).len = 4 ∧
    (slotResFld i).addr = R.IMG_SLOT := by
  unfold slotResFld; split <;> decide

theorem get_slotRes_put_other (s : State) (i : Nat) {f : Fld} (hf : f.addr ≠ R.IMG_SLOT) (hfits : f.lo + f.len ≤ 32) (v : Nat) :
    (s.put f v).get (slotResFld i) = s.get (slotResFld i) :=
  get_put_other _ _ _ hfits _ (.inl (by rw [(slotResFld_fits i).2.2]; exact hf.symm))

/-- A last failed attempt writes no register outside IMG_SLOT and IMG_STAT. -/
theorem failMarked_regs (s : State) (err sect : Nat) :
    RegsOff (fun a => a == R.IMG_SLOT || a == R.IMG_STAT) s (s.failMarked err sect) := by
  have hst : (slotStFld s.bootSlot).addr = R.IMG_SLOT := by unfold slotStFld; split <;> rfl
  have h0 : RegsOff (fun a => a == R.IMG_SLOT || a == R.IMG_STAT) s
      (({ s with img := { s.img with vendorOk := s.firmwareOk s.bootSlot } }).setSlotSt s.bootSlot .bad) :=
    (RegsOff.refl _ s).same_regs.same_regs.put (by rw [hst]; decide)
  exact ((h0.put (by rw [(slotResFld_fits _).2.2]; decide)).put (by decide)).put (by decide)

theorem failMarked_fields (s : State) (err sect : Nat) :
    (s.failMarked err sect).get F.IMG_STAT_ERR = err % 16 ∧ (s.failMarked err sect).get F.IMG_STAT_ERR_SECT = sect % 16 ∧
      (s.failMarked err sect).get (slotResFld s.bootSlot) = err % 16 := by
  refine ⟨?_, ?_, ?_⟩
  · unfold State.failMarked
    rw [get_put_other _ _ _ (by decide) _ (by decide), get_put_same _ _ (by decide)]; rfl
  · unfold State.failMarked
    rw [get_put_same _ _ (by decide)]; rfl
  · obtain ⟨hfits, hlen, -⟩ := slotResFld_fits s.bootSlot
    unfold State.failMarked
    rw [get_slotRes_put_other _ _ (by decide) (by decide), get_slotRes_put_other _ _ (by decide) (by decide)]
    exact (get_put_same _ _ hfits _).trans (congrArg (err % 2 ^ ·) hlen)

/-- A last failed attempt leaves the node in LOADFAIL with its error, the slot BAD with the result, the FC3 of R33, and the
role as it was (R104). -/
theorem loadFail_leaves {s : State} (hlast : s.img.fallback = false ∨ s.img.retried = true) (hfc3 : s.flt.fc3 = [])
    (hn : s.get F.FLT_LOCK_LOCK_N ≠ 1) (err sect : Nat) :
    (s.loadFail err sect).stage = Stage.loadFail ∧ (s.loadFail err sect).get F.IMG_STAT_ERR = err % 16 ∧
      (s.loadFail err sect).get F.IMG_STAT_ERR_SECT = sect % 16 ∧
      (s.loadFail err sect).flash = flashMark s.flash s.bootSlot .bad ∧
      (s.loadFail err sect).get (slotResFld s.bootSlot) = err % 16 ∧ HasCause (s.loadFail err sect) 0x0101 3 = true ∧
      (s.loadFail err sect).get F.SYS_ROLE_ROLE = s.get F.SYS_ROLE_ROLE := by
  obtain ⟨herr, hsect, hres⟩ := failMarked_fields s err sect
  have hmark := failMarked_regs s err sect
  have hk := unbind_kept (s.failMarked err sect) Stage.loadFail hfc3 (by rwa [hmark.get (by decide)])
  rw [loadFail_last hlast]
  refine ⟨?_, ?_, ?_, ?_, ?_, unbind_cause _ _, ?_⟩
  · rw [State.stage, hk.get (by decide), get_put_same _ _ (by decide)]; rfl
  · rw [hk.get (by decide), get_put_other _ _ _ (by decide) _ (by decide), herr]
  · rw [hk.get (by decide), get_put_other _ _ _ (by decide) _ (by decide), hsect]
  · exact (only_unbind (Only.refl _ (s.failMarked err sect)) Stage.loadFail (List.Subset.refl _)).same .flash (by decide)
  · rw [hk.get (by rw [(slotResFld_fits _).2.2]; decide), get_slotRes_put_other _ _ (by decide) (by decide), hres]
  · rw [hk.get (by decide), get_put_other _ _ _ (by decide) _ (by decide), hmark.get (by decide)]

/-! The registers of the booted image (R98) -/

/-- A register of the IMG window. -/
def imgReg (a : Nat) : Bool := a / 0x10000 == 0x4002

theorem bootedImage_regs {z s : State} (h : RegsOff imgReg z s) (img : ImageRead) : RegsOff imgReg z (s.bootedImage img) :=
  (((((h.put (by decide)).put (by decide)).wrN (by decide)).wrN (by decide)).wr (by decide)).put
    (by rw [(slotResFld_fits _).2.2]; decide)

theorem bootedImage_slot (s : State) (img : ImageRead) : (s.bootedImage img).get (slotResFld s.bootSlot) = 0 := by
  obtain ⟨hfits, -, -⟩ := slotResFld_fits s.bootSlot
  have hs : State.bootSlot ((((s.put F.IMG_EPOCH_EPOCH img.epoch).put F.IMG_EPOCH_MIN_EPOCH img.minEpoch).wrN R.IMG_CFG_DIG_HI
      (img.cfgDig.toNat >>> 32)).wrN R.IMG_CFG_DIG_LO (img.cfgDig.toNat % 2 ^ 32)) = s.bootSlot := by
    simp (disch := decide) only [State.bootSlot, State.wrN, get_wr_other, get_put_other]
  unfold State.bootedImage
  dsimp only
  rw [hs, get_put_same _ _ hfits, Nat.zero_mod]

theorem bootedImage_fields (s : State) (img : ImageRead) :
    (s.bootedImage img).get F.IMG_EPOCH_EPOCH = img.epoch % 65536 ∧
      (s.bootedImage img).get F.IMG_EPOCH_MIN_EPOCH = img.minEpoch % 65536 ∧ (s.bootedImage img).rd R.IMG_SEQ = img.seq := by
  have hres : ∀ i, (slotResFld i).addr = R.IMG_SLOT := fun i => (slotResFld_fits i).2.2
  unfold State.bootedImage
  dsimp only
  refine ⟨?_, ?_, ?_⟩
  · rw [State.get, rd_put_other _ _ _ (by rw [hres]; decide), ← State.get]
    simp (disch := decide) only [State.wrN, get_wr_other, get_put_other, get_put_same]
    rfl
  · rw [State.get, rd_put_other _ _ _ (by rw [hres]; decide), ← State.get]
    simp (disch := decide) only [State.wrN, get_wr_other, get_put_same]
    rfl
  · rw [rd_put_other _ _ _ (by rw [hres]; decide), rd_wr_same]

/-! The node's entry (R31, R41) -/

theorem any_eq_false_of_find?_none {α : Type} {l : List α} {p : α → Bool} (h : l.find? p = none) : l.any p = false := by
  rw [List.any_eq_false]; exact List.find?_eq_none.1 h

theorem any_eq_true_of_find?_some {α : Type} {l : List α} {p : α → Bool} {x : α} (h : l.find? p = some x) : l.any p = true :=
  List.any_eq_true.2 ⟨x, List.mem_of_find?_eq_some h, List.find?_some h⟩

theorem bindCode_none {img : ImageRead} {pos code : Nat} (h : bindCode img pos = (code, none)) :
    code = (if pos = 0xFF then 2 else if (img.table.any fun e => e.pos.toNat == pos) = true then 3 else 1) := by
  unfold bindCode at h
  split at h
  · next hff => rw [if_pos hff]; exact (congrArg Prod.fst h).symm
  · next hff =>
    rw [if_neg hff]
    split at h
    · next hfind =>
      rw [any_eq_false_of_find?_none hfind]; exact (congrArg Prod.fst h).symm
    · next e hfind =>
      rw [any_eq_true_of_find?_some hfind]
      split at h
      · exact (congrArg Prod.fst h).symm
      · cases h

/-- The reason fits SYS_ROLE.BIND. -/
theorem bindCode_fits {img : ImageRead} {pos code : Nat} (h : bindCode img pos = (code, none)) :
    code < 2 ^ F.SYS_ROLE_BIND.len := by
  rw [bindCode_none h]
  split
  · decide
  · split <;> decide

/-- An entry the node binds to has one of the four roles. -/
theorem bindCode_role {img : ImageRead} {pos : Nat} {e : StationEntry} (h : bindCode img pos = (0, some e)) : e.role < 5 := by
  unfold bindCode at h
  split at h
  · cases h
  · split at h
    · cases h
    · split at h
      · cases h
      · next hgood =>
        cases h
        refine Nat.lt_of_not_le fun hge => hgood ?_
        unfold entryBad
        simp only [Bool.or_eq_true]
        right
        split
        case h_5 => rfl
        all_goals omega

/-- SYS_LOC and the share cells: what binding to an entry writes of the SYS window after SYS_ROLE. -/
def bindReg (a : Nat) : Bool := a / 0x10000 == 0x4000 && a != R.SYS_ROLE

theorem bindReg_share {n : Nat} (h : n < 3) : bindReg (R.SYS_SHAREn_CELL n) = true := by
  simp only [bindReg, R.SYS_SHAREn_CELL, R.SYS_ROLE, Bool.and_eq_true, beq_iff_eq, bne_iff_ne]; omega

/-- The part of `State.bindRole` that writes SYS_ROLE (R41). -/
def State.roleSet (s : State) (e : StationEntry) (single : Bool) : State :=
  ((((s.put F.SYS_ROLE_BIND 0).put F.SYS_ROLE_ROLE e.role).setFlag F.SYS_ROLE_SINGLE (e.role == 1 && single)).put
    F.SYS_ROLE_BYP_LEG (if e.bypass then 4 else 7)).put F.SYS_ROLE_SHARES (if e.role = 3 then e.shares.length else 0)

theorem bindRole_roleSet (s : State) (e : StationEntry) (single : Bool) :
    RegsOff bindReg (s.roleSet e single) (s.bindRole e single) := by
  have hloc : RegsOff bindReg (s.roleSet e single) ((s.roleSet e single).wr R.SYS_LOC
      ((s.roleSet e single).positionCode (s.roleSet e single).pos)) := (RegsOff.refl _ _).wr (by decide)
  unfold State.bindRole
  refine RegsOff.ite (RegsOff.foldl_mem hloc fun b p hp hb => ?_) hloc
  have hn : bindReg (R.SYS_SHAREn_CELL p.1) = true := bindReg_share (List.mem_range.1 (List.of_mem_zip hp).1)
  exact ((hb.put hn).put hn).put hn

theorem bindRole_sys (s : State) (e : StationEntry) (single : Bool) :
    RegsOff (fun a => a / 0x10000 == 0x4000) s (s.bindRole e single) := by
  have hset : RegsOff (fun a => a / 0x10000 == 0x4000) s (s.roleSet e single) :=
    (((((RegsOff.refl _ s).put (by decide)).put (by decide)).setFlag (by decide)).put (by decide)).put (by decide)
  exact hset.trans ((bindRole_roleSet s e single).mono fun a ha => (Bool.and_eq_true_iff.1 ha).1)

theorem roleSet_fields (s : State) (e : StationEntry) (single : Bool) :
    (s.roleSet e single).get F.SYS_ROLE_ROLE = e.role % 8 ∧ (s.roleSet e single).get F.SYS_ROLE_BIND = 0 := by
  unfold State.roleSet State.setFlag
  constructor
  · simp (disch := decide) only [get_put_other, get_put_same]
    rfl
  · simp (disch := decide) only [get_put_other, get_put_same]
    rfl

/-! The image loader (R102) -/

/-- A register the loader may write: one with RW or RL bits, or one of the CLK window, whose outputs are judged (R87). -/
def loadReg (a : Nat) : Bool := a / 0x10000 == 0x4001 || (rowOf a).any fun r => loadMask a r != 0

theorem off_ckoLoaded {z s : State} (h : RegsOff loadReg z s) (a : Nat) : RegsOff loadReg z (s.ckoLoaded a) := by
  refine h.forUpTo fun n hn b hb => RegsOff.when hb fun u hu => ?_
  have hcfg : loadReg (R.CLK_CKOn_CFG n) = true := by
    simp only [loadReg, R.CLK_CKOn_CFG, Bool.or_eq_true, beq_iff_eq]; left; omega
  exact (RegsOff.when hu.same_regs fun _ hv => hv.setFlag hcfg).setFlag (by decide)

theorem loadWord_regs {s t : State} {a : Nat} {w : Word} (h : s.loadWord a w = some t) : RegsOff loadReg s t := by
  unfold State.loadWord at h
  split at h
  · cases h; exact RegsOff.refl _ _
  · next r hrow =>
    dsimp only at h
    split at h
    · cases h
      refine off_ckoLoaded ?_ a
      by_cases hm : loadMask a r = 0
      · refine ⟨fun b _ => ?_⟩
        by_cases hb : b = a
        · subst hb; rw [rd_wr_same, hm, BitVec.and_zero, BitVec.or_zero, BitVec.not_zero, BitVec.and_allOnes]
        · exact rd_wr_other _ _ hb
      · exact (RegsOff.refl _ s).wr (by simp [loadReg, hrow, hm])
    · cases h

theorem loadAll_regs {s t : State} {cfg : List (Nat × Word)} (h : s.loadAll cfg = some t) : RegsOff loadReg s t := by
  induction cfg generalizing s with
  | nil => cases h; exact RegsOff.refl _ _
  | cons p l ih =>
    unfold State.loadAll at h
    split at h
    · next s1 hword => exact (loadWord_regs hword).trans (ih h)
    · cases h

theorem loadImage_regs {s t : State} {cfg : List (Nat × Word)} (h : s.loadImage cfg = some t) : RegsOff loadReg s t := by
  unfold State.loadImage at h
  split at h
  · next u hall =>
    split at h
    · cases h; exact loadAll_regs hall
    · cases h
  · cases h

/-- The loader writes neither the role nor the boot status. -/
theorem loadReg_boot : loadReg R.SYS_ROLE = false ∧ loadReg R.IMG_STAT = false := by decide

/-! The blocks come into service -/

theorem blocksStart_regs (s : State) : RegsOff bindOff s s.blocksStart := by
  unfold State.blocksStart
  extract_lets pwm s1 s2 s3 s4 s5 dig s6 en mtr s7 s8
  have h1 : BootKept s s1 := (RegsOff.refl _ s).same_regs
  have h3 : BootKept s s3 := (kept_legRefresh (kept_gdBind (kept_laneBand (kept_wire h1) _))).put (by decide)
  have h4 : BootKept s s4 := (kept_safBind (kept_refWaitStart h3)).same_regs
  have h5 : BootKept s s5 := RegsOff.ite (h4.put (by decide)) h4
  have h7 : BootKept s s7 := ((h5.wrN (by decide)).wrN (by decide)).same_regs
  have h8 : BootKept s s8 := RegsOff.when h7 fun _ hb => hb.put (by decide)
  have href : BootKept s (s8.when en (·.put F.MTR_STAT_REF_PH 3)) := RegsOff.when h8 fun _ hb => hb.put (by decide)
  have hpb : RegsOff bindOff s ((s8.when en (·.put F.MTR_STAT_REF_PH 3)).setFlag F.IMG_STAT_STN_PB true) :=
    href.bindOff.setFlag (by decide)
  exact hpb.trans ⟨fun a _ => congrArg (fun l => Sparse.get resetWord l a) (regs_headroomInit _)⟩

/-! Binding, case by case (R31, R41, R104) -/

/-- The state in which the node binds: it keeps what it has verified. -/
def State.withImage (s : State) (img : ImageRead) : State := { s with img := { s.img with image := img, vendorOk := true } }

/-- Binding where the node has no entry it can take: the reason of R41 is set, and the node leaves for UNBOUND. -/
def State.reasonSet (s : State) (img : ImageRead) (code : Nat) : State :=
  (((s.withImage img).bootedImage img).wire.laneBand ((s.withImage img).bootedImage img).wire.laneSensorBand).put
    F.SYS_ROLE_BIND code

theorem bind_eqBad {s : State} {st : StationRead} (h : (slotImage s.flash s.bootSlot s.pos st).eq.all eqRowOk = false) :
    s.bind st = s.loadFail 9 (dirIdx (slotHeader s.flash s.bootSlot) 3) := by
  unfold State.bind
  simp [h]

section
variable {s t : State} {st : StationRead} {img : ImageRead} {e : StationEntry} {code : Nat}

theorem bind_noEntry (himg : img = slotImage s.flash s.bootSlot s.pos st) (heq : img.eq.all eqRowOk = true)
    (h : bindCode img s.pos = (code, none)) : s.bind st = (s.reasonSet img code).unbind Stage.unbound := by
  subst himg
  unfold State.bind
  simp only [heq, h, Bool.not_true, Bool.false_eq_true, if_false]
  rfl

theorem bind_loadBad (himg : img = slotImage s.flash s.bootSlot s.pos st) (heq : img.eq.all eqRowOk = true)
    (h : bindCode img s.pos = (0, some e)) (hload : ((s.withImage img).bindRole e img.single).loadImage st.cfg = none) :
    s.bind st = s.loadFail 9 (dirIdx (slotHeader s.flash s.bootSlot) 2) := by
  subst himg
  unfold State.withImage at hload
  unfold State.bind
  simp only [heq, h, hload, Bool.not_true, Bool.false_eq_true, if_false]

theorem bind_loaded (himg : img = slotImage s.flash s.bootSlot s.pos st) (heq : img.eq.all eqRowOk = true)
    (h : bindCode img s.pos = (0, some e)) (hload : ((s.withImage img).bindRole e img.single).loadImage st.cfg = some t) :
    s.bind st = ((t.bootedImage img).blocksStart).toStage Stage.bind := by
  subst himg
  unfold State.withImage at hload
  unfold State.bind
  simp only [heq, h, hload, Bool.not_true, Bool.false_eq_true, if_false]

end

/-! The node that binds (R31, R98) -/

/-- From a loaded configuration to BIND no field of the SYS and IMG windows outside IMG_STAT moves after the booted image. -/
theorem started_get (s : State) {f : Fld} (hoff : bindOff f.addr = false) :
    (s.blocksStart.toStage Stage.bind).get f = s.get f := by
  have hboot : bootOff f.addr = false := (Bool.or_eq_false_iff.1 hoff).1
  have hstat : f.addr ≠ R.IMG_STAT := by simpa using (Bool.or_eq_false_iff.1 hoff).2
  rw [get_toStage _ _ hboot (.inl hstat), (blocksStart_regs s).get hoff]

theorem started_rd (s : State) {a : Nat} (hoff : bindOff a = false) :
    (s.blocksStart.toStage Stage.bind).rd a = s.rd a := by
  have hboot : bootOff a = false := (Bool.or_eq_false_iff.1 hoff).1
  have hstat : a ≠ R.IMG_STAT := by simpa using (Bool.or_eq_false_iff.1 hoff).2
  rw [(toStage_kept s.blocksStart Stage.bind).same _ hboot, rd_put_other _ _ _ hstat, (blocksStart_regs s).same _ hoff]

theorem started_only (t : State) (img : ImageRead) :
    Only [.regs, .clk, .lnk, .tim, .pwm, .gd, .eng, .saf, .mtr] t (((t.bootedImage img).blocksStart).toStage Stage.bind) :=
  only_toStage (only_blocksStart (only_bootedImage (Only.refl _ t) img (by decide)) (by decide)) _ (by decide)

/-- The configuration is written over the entry's role: the role, and the slot booted, stand. -/
theorem loaded_role {s t : State} {e : StationEntry} {single : Bool} {cfg : List (Nat × Word)}
    (h : (s.bindRole e single).loadImage cfg = some t) :
    t.get F.SYS_ROLE_ROLE = e.role % 8 ∧ t.get F.SYS_ROLE_BIND = 0 ∧ t.bootSlot = s.bootSlot := by
  obtain ⟨hrole, hstat⟩ := loadReg_boot
  have hload := loadImage_regs h
  obtain ⟨hr, hb⟩ := roleSet_fields s e single
  refine ⟨?_, ?_, ?_⟩
  · rw [hload.get hrole, (bindRole_roleSet s e single).get (by decide), hr]
  · rw [hload.get hrole, (bindRole_roleSet s e single).get (by decide), hb]
  · rw [State.bootSlot, hload.get hstat, (bindRole_sys s e single).get (by decide), ← State.bootSlot]

theorem loaded_only {s t : State} {e : StationEntry} {single : Bool} {cfg : List (Nat × Word)}
    (h : (s.bindRole e single).loadImage cfg = some t) : Only [.regs, .clk] s t :=
  onlyO_loadImage (only_bindRole (Only.refl _ s) e single (by decide)) cfg (by decide) t h

/-- A node whose entry stands and whose configuration keeps every range waits in BIND in the role of its entry. -/
theorem verifyDone_binds (s : State) (st : StationRead) (img : ImageRead) (e : StationEntry)
    (hreset : s.sys.inReset = false) (hstage : s.stage = Stage.verify) (hverify : s.verify s.bootSlot st.bufferBad = none)
    (himg : img = slotImage s.flash s.bootSlot s.pos st) (heq : img.eq.all eqRowOk = true)
    (hcode : bindCode img s.pos = (0, some e))
    (hload : (((s.withImage img).bindRole e img.single).loadImage st.cfg).isSome = true) :
    Answers (.verifyDone st) s fun t =>
      t.stage = Stage.bind ∧
      t.get F.SYS_ROLE_ROLE = e.role ∧ t.get F.SYS_ROLE_BIND = 0 ∧
      t.get F.IMG_EPOCH_EPOCH = img.epoch % 65536 ∧ t.get F.IMG_EPOCH_MIN_EPOCH = img.minEpoch % 65536 ∧
      t.rd R.IMG_SEQ = img.seq ∧
      t.get (slotResFld s.bootSlot) = 0 ∧
      t.img.image = img ∧ t.img.vendorOk = true ∧
      t.flash = s.flash ∧ t.fuse = s.fuse ∧ t.flt.causes = s.flt.causes := by
  obtain ⟨l, hl⟩ := Option.isSome_iff_exists.1 hload
  obtain ⟨hrole, hbind, hslot⟩ := loaded_role hl
  obtain ⟨hep, hmin, hseq⟩ := bootedImage_fields l img
  have hbooted := bootedImage_regs (RegsOff.refl imgReg l) img
  have hres : (l.bootedImage img).get (slotResFld s.bootSlot) = 0 := by
    have h0 := bootedImage_slot l img
    rwa [hslot] at h0
  have honly := ((loaded_only hl).subset (by decide)).step (started_only l img) (List.Subset.refl _)
  have hkeep : (((l.bootedImage img).blocksStart).toStage Stage.bind).img = (s.withImage img).img := honly.same .img (by decide)
  have hflt : (((l.bootedImage img).blocksStart).toStage Stage.bind).flt = s.flt := honly.same .flt (by decide)
  refine ⟨_, exec_verifyDone hreset hstage hverify, ?_⟩
  rw [bind_loaded himg heq hcode hl]
  refine ⟨stage_toStage _ _, ?_, ?_, ?_, ?_, ?_, ?_, ?_, ?_, honly.same .flash (by decide), honly.same .fuse (by decide), ?_⟩
  · rw [started_get _ (by decide), hbooted.get (by decide), hrole]
    exact Nat.mod_eq_of_lt (Nat.lt_trans (bindCode_role hcode) (by decide))
  · rw [started_get _ (by decide), hbooted.get (by decide), hbind]
  · rw [started_get _ (by decide), hep]
  · rw [started_get _ (by decide), hmin]
  · rw [started_rd _ (by decide), hseq]
  · rw [started_get _ (by rw [(slotResFld_fits _).2.2]; decide), hres]
  · rw [hkeep]; rfl
  · rw [hkeep]; rfl
  · rw [hflt]

/-! The node that does not bind (R33, R41, R104) -/

theorem verifyDone_badConfig (s : State) (st : StationRead) (img : ImageRead) (e : StationEntry)
    (hreset : s.sys.inReset = false) (hstage : s.stage = Stage.verify) (hverify : s.verify s.bootSlot st.bufferBad = none)
    (himg : img = slotImage s.flash s.bootSlot s.pos st) (heq : img.eq.all eqRowOk = true)
    (hcode : bindCode img s.pos = (0, some e))
    (hload : ((s.withImage img).bindRole e img.single).loadImage st.cfg = none)
    (hlast : s.img.fallback = false ∨ s.img.retried = true) (hcount : s.flt.fc3 = [] ∧ s.get F.FLT_LOCK_LOCK_N ≠ 1) :
    Answers (.verifyDone st) s fun t =>
      t.stage = Stage.loadFail ∧ t.get F.IMG_STAT_ERR = 9 ∧
      t.flash = flashMark s.flash s.bootSlot .bad ∧ t.get (slotResFld s.bootSlot) = 9 ∧
      HasCause t 0x0101 3 = true ∧
      t.get F.SYS_ROLE_ROLE = s.get F.SYS_ROLE_ROLE := by
  obtain ⟨hst, herr, -, hflash, hres, hcause, hrole⟩ :=
    loadFail_leaves hlast hcount.1 hcount.2 9 (dirIdx (slotHeader s.flash s.bootSlot) 2)
  refine ⟨_, exec_verifyDone hreset hstage hverify, ?_⟩
  rw [bind_loadBad himg heq hcode hload]
  exact ⟨hst, herr, hflash, hres, hcause, hrole⟩

theorem verifyDone_badRow (s : State) (st : StationRead)
    (hreset : s.sys.inReset = false) (hstage : s.stage = Stage.verify) (hverify : s.verify s.bootSlot st.bufferBad = none)
    (heq : (slotImage s.flash s.bootSlot s.pos st).eq.all eqRowOk = false)
    (hlast : s.img.fallback = false ∨ s.img.retried = true) (hcount : s.flt.fc3 = [] ∧ s.get F.FLT_LOCK_LOCK_N ≠ 1) :
    Answers (.verifyDone st) s fun t =>
      t.stage = Stage.loadFail ∧ t.get F.IMG_STAT_ERR = 9 ∧ t.get F.IMG_STAT_ERR_SECT = dirIdx (slotHeader s.flash s.bootSlot) 3 % 16 ∧
      t.flash = flashMark s.flash s.bootSlot .bad ∧ t.get (slotResFld s.bootSlot) = 9 ∧
      HasCause t 0x0101 3 = true ∧
      t.get F.SYS_ROLE_ROLE = s.get F.SYS_ROLE_ROLE := by
  refine ⟨_, exec_verifyDone hreset hstage hverify, ?_⟩
  rw [bind_eqBad heq]
  exact loadFail_leaves hlast hcount.1 hcount.2 9 _

/-- The reason is set over the booted image and the wiring, which leave the role and the lockout's count alone. -/
theorem reasonSet_get (s : State) (img : ImageRead) (code : Nat) {f : Fld} (hk : bootOff f.addr = false)
    (hi : imgReg f.addr = false) (hd : f.addr ≠ R.SYS_ROLE ∨ f.lo + f.len ≤ F.SYS_ROLE_BIND.lo) :
    (s.reasonSet img code).get f = s.get f := by
  have hwire := kept_laneBand (kept_wire (RegsOff.refl _ ((s.withImage img).bootedImage img)))
    ((s.withImage img).bootedImage img).wire.laneSensorBand
  have himg := bootedImage_regs (RegsOff.refl imgReg (s.withImage img)) img
  unfold State.reasonSet
  rw [get_put_other _ _ _ (by decide) _ (hd.imp_right .inl), hwire.get hk, himg.get hi]
  rfl

theorem reasonSet_only (s : State) (img : ImageRead) (code : Nat) : Only [.regs, .img, .lnk] s (s.reasonSet img code) :=
  only_put (only_laneBand (only_wire (only_bootedImage (Only.set_img (by decide) (Only.refl _ s)) img (by decide)) (by decide)) _
    (by decide)) _ _ (by decide)

theorem verifyDone_unbound (s : State) (st : StationRead) (img : ImageRead) (code : Nat)
    (hreset : s.sys.inReset = false) (hstage : s.stage = Stage.verify) (hverify : s.verify s.bootSlot st.bufferBad = none)
    (himg : img = slotImage s.flash s.bootSlot s.pos st) (heq : img.eq.all eqRowOk = true)
    (hcode : bindCode img s.pos = (code, none)) (hcount : s.flt.fc3 = [] ∧ s.get F.FLT_LOCK_LOCK_N ≠ 1) :
    Answers (.verifyDone st) s fun t =>
      t.stage = Stage.unbound ∧ t.get F.SYS_ROLE_BIND = code ∧
      (code = (if s.pos = 0xFF then 2 else if (img.table.any fun e => e.pos.toNat == s.pos) = true then 3 else 1)) ∧
      t.get F.SYS_ROLE_ROLE = s.get F.SYS_ROLE_ROLE ∧
      HasCause t 0x0101 3 = true ∧
      t.flash = s.flash := by
  have hfit : code < 2 ^ F.SYS_ROLE_BIND.len := bindCode_fits hcode
  have honly := reasonSet_only s img code
  have hflt : (s.reasonSet img code).flt = s.flt := honly.same .flt (by decide)
  have hkept := unbind_kept (s.reasonSet img code) Stage.unbound (by rw [hflt]; exact hcount.1)
    (by rw [reasonSet_get _ _ _ (by decide) (by decide) (.inl (by decide))]; exact hcount.2)
  have hflash : ((s.reasonSet img code).unbind Stage.unbound).flash = (s.reasonSet img code).flash :=
    (only_unbind (Only.refl _ (s.reasonSet img code)) Stage.unbound (List.Subset.refl _)).same .flash (by decide)
  refine ⟨_, exec_verifyDone hreset hstage hverify, ?_⟩
  rw [bind_noEntry himg heq hcode]
  refine ⟨?_, ?_, bindCode_none hcode, ?_, unbind_cause _ _, hflash.trans (honly.same .flash (by decide))⟩
  · rw [State.stage, hkept.get (by decide), get_put_same _ _ (by decide)]; rfl
  · rw [hkept.get (by decide), get_put_other _ _ _ (by decide) _ (by decide), State.reasonSet, get_put_same _ _ (by decide)]
    exact Nat.mod_eq_of_lt hfit
  · rw [hkept.get (by decide), get_put_other _ _ _ (by decide) _ (by decide),
      reasonSet_get _ _ _ (by decide) (by decide) (by decide)]

/-! The boot lock (R11, R94, R102) -/

theorem off_toStage {z s : State} (h : RegsOff faultReg z s) (n : Nat) : RegsOff faultReg z (s.toStage n) :=
  RegsOff.when (off_fltRefresh (h.put (by decide))) fun _ hb => off_holdOut hb

/-- The fetch buffer is zeroed and the boot lock set: the state that goes to stage LANES. -/
def State.locked (s : State) : State := { s.bufferZero with sys := { s.sys with bootLock := true } }

theorem bootLock_locked {s : State} (h : s.stage = Stage.bind) : s.bootLock = (s.locked.toStage Stage.lanes).lanesBoot := by
  unfold State.bootLock
  exact if_neg (by simp [h])

theorem bootLock_starts_lanes (s : State) (hreset : s.sys.inReset = false) (hstage : s.stage = Stage.bind) :
    Answers .bootLock s fun t =>
      t.sys.bootLock = true ∧
      t.stage = Stage.lanes ∧
      t.mem = s.mem.filter (fun e => Nat.blt e.1 fetchBuffer || Nat.ble (fetchBuffer + fetchBufferLen) e.1) ∧
      RegsOff (fun a => faultReg a || a / 0x10000 == 0x4003) s t ∧
      Only [.regs, .mem, .sys, .clk, .lnk, .tim, .pwm, .gd, .flt, .out] s t := by
  have hexec : exec .bootLock s = .next s.bootLock := exec_bootLock hreset
  have hset := only_toStage (Only.refl _ s.locked) Stage.lanes (List.Subset.refl _)
  have hlanes := lanesBoot_frame (LaneFrame.refl (s.locked.toStage Stage.lanes))
  have hregs : RegsOff faultReg s (s.locked.toStage Stage.lanes) := off_toStage (RegsOff.refl _ s).same_regs Stage.lanes
  refine ⟨_, hexec, ?_, ?_, ?_, ?_, execBootLock_only hexec⟩
  · rw [bootLock_locked hstage, hlanes.only.same .sys (by decide), hset.same .sys (by decide)]; rfl
  · rw [bootLock_locked hstage, State.stage, hlanes.bootKept.get (by decide), ← State.stage, stage_toStage]; rfl
  · rw [bootLock_locked hstage, hlanes.only.same .mem (by decide), hset.same .mem (by decide)]; rfl
  · rw [bootLock_locked hstage]
    exact (hregs.mono fun a ha => by simp [ha]).trans (hlanes.regs.mono fun a ha => Bool.or_eq_true_iff.2 (.inr ha))

/-- Settles O22: a verified image binds the node, fails the load or leaves it unbound, and the boot lock starts the lanes. -/
theorem imageBindsTheNode : Obligations.ImageBindsTheNode := by
  unfold Obligations.ImageBindsTheNode
  exact ⟨verifyDone_binds, verifyDone_badConfig, verifyDone_badRow, verifyDone_unbound, bootLock_starts_lanes⟩

end Sys2Proof.Machine
end

section
namespace Sys2Proof.Machine

/-! ### Full service and splice boundaries are named (O26) -/

/-- A node out of reset runs the operation (R71). -/
theorem live_runs {s : State} (h : s.sys.inReset = false) (f : State → State) : s.live f = f s := by
  simp [State.live, h]

/-- An operation that would change nothing changes nothing in reset either. -/
theorem live_idle {s : State} {f : State → State} (h : f s = s) : s.live f = s := by
  unfold State.live; split
  · rfl
  · exact h

theorem when_holds {s : State} {c : Bool} (h : c = true) (f : State → State) : s.when c f = f s := if_pos h

theorem when_ignored {s : State} {c : Bool} (h : c = false) (f : State → State) : s.when c f = s := by
  subst h; rfl

/-! Full service (R107) -/

/-- A HEAD in service and admitted, in station Par-bake, with no boundary S named yet: the HEADs that may name or take S. -/
abbrev State.awaitsS (s : State) : Prop :=
  s.isHead = true ∧ s.inService = true ∧ s.admitted = true ∧ s.flag F.IMG_STAT_STN_PB = true ∧ s.img.fullS = none

/-- S is named 64 cycles ahead (R107). -/
def State.nameS (s : State) (unlocked : List (BitVec 8)) : State :=
  { s with img := { s.img with fullS := some (s.scn + 64), unlocked := unlocked } }

/-- Such a HEAD names S unless it is a primary for which neither condition of R107 holds; that one reports what is missing. -/
theorem fullNamed_of_awaitsS {s : State} (h : s.awaitsS) (locked unlocked : List (BitVec 8)) :
    s.fullNamed locked unlocked =
      if s.isPrimary = true ∧ s.missingPos (locked.map (·.toNat)) ≠ [] ∧ s.minimumOk = false then
        s.emit (.missing (s.missingPos (locked.map (·.toNat))))
      else s.nameS unlocked := by
  obtain ⟨hhead, hserv, hadm, hpb, hnone⟩ := h
  unfold State.fullNamed
  rw [when_holds (by simp [hhead, hserv, hadm, hpb, hnone])]
  simp [State.nameS]

theorem fullServiceNamed_names (s : State) (locked unlocked : List (BitVec 8)) (hreset : s.sys.inReset = false)
    (hwaits : s.awaitsS)
    (hmay : s.isPrimary = false ∨ s.missingPos (locked.map (·.toNat)) = [] ∨ s.minimumOk = true) :
    Answers (.fullServiceNamed locked unlocked) s fun t =>
      t.img = { s.img with fullS := some (s.scn + 64), unlocked := unlocked } ∧ Only [.img] s t := by
  have hnamed : s.fullNamed locked unlocked = s.nameS unlocked := by
    rw [fullNamed_of_awaitsS hwaits, if_neg]
    rintro ⟨hprim, hmiss, hmin⟩
    rcases hmay with h | h | h
    · simp [hprim] at h
    · exact hmiss h
    · simp [hmin] at h
  refine ⟨_, rfl, ?_⟩
  rw [live_runs hreset, hnamed]
  exact ⟨rfl, Only.set_img (by decide) (Only.refl _ s)⟩

theorem fullServiceNamed_reports (s : State) (locked unlocked : List (BitVec 8)) (hreset : s.sys.inReset = false)
    (hwaits : s.awaitsS)
    (hnot : s.isPrimary = true ∧ s.missingPos (locked.map (·.toNat)) ≠ [] ∧ s.minimumOk = false) :
    Answers (.fullServiceNamed locked unlocked) s fun t =>
      t.img = s.img ∧ t.out = s.out ++ [.missing (s.missingPos (locked.map (·.toNat)))] ∧ Only [.out] s t := by
  refine ⟨_, rfl, ?_⟩
  rw [live_runs hreset, fullNamed_of_awaitsS hwaits, if_pos hnot]
  exact ⟨rfl, rfl, Only.emit (Only.refl _ s) _ (List.Subset.refl _)⟩

/-! ST_WAIT (R107) -/

/-- The mark that ST_WAIT has expired. -/
def State.waitOver (s : State) : State := { s with img := { s.img with stWait := true } }

/-- A report that may be due changes what has been sent only. -/
theorem when_emit_only (s : State) (c : Bool) (report : State → Out) :
    Only [.out] s (s.when c fun s => s.emit (report s)) :=
  Only.when (Only.refl _ s) fun _ hb => hb.emit _ (List.Subset.refl _)

/-- ST_WAIT expires at its time: the mark is set, and beside it there is at most a report. -/
theorem stWaitExpiry_answers (s u : State) (hreset : s.sys.inReset = false)
    (hwait : s.running = true ∧ s.img.stWait = false) (hu : u = s.runUp (s.img.pbAt + msTicks s.img.image.stWait)) :
    Answers .stWaitExpiry s fun t => t.img = { s.img with stWait := true } ∧ Only [.img, .out] u t := by
  obtain ⟨hrun, hopen⟩ := hwait
  have himg : u.img = s.img := hu ▸ (only_runUp (Only.refl _ s) _ (List.Subset.refl _)).same .img (by decide)
  have hover : Only [.img, .out] u u.waitOver := Only.set_img (by decide) (Only.refl _ u)
  refine ⟨_, rfl, ?_⟩
  rw [live_runs hreset, State.stWaitExpiry, when_holds (by simp [hrun, hopen]), ← hu]
  refine ⟨?_, hover.step (when_emit_only u.waitOver _ _) (by decide)⟩
  calc _ = u.waitOver.img := (when_emit_only u.waitOver _ _).same .img (by decide)
    _ = { s.img with stWait := true } := by rw [State.waitOver, himg]

/-! Splice (R118) -/

theorem spliceTake_ignored {s : State} (h : s.flag F.IMG_STAT_STN_PB = true ∨ s.img.splice ≠ none) (b : Word) (pos : Nat) :
    s.spliceTake b pos = s := by
  unfold State.spliceTake
  refine when_ignored ?_ _
  rcases h with hpb | hsplice
  · simp [hpb]
  · simp [Option.isNone_eq_false_iff.2 (Option.isSome_iff_ne_none.2 hsplice)]

theorem spliceTake_of_primary {s : State} (hpb : s.flag F.IMG_STAT_STN_PB = false) (hsplice : s.img.splice = none)
    (hprim : s.isPrimary = true) (b : Word) (pos : BitVec 8) :
    s.spliceTake b pos.toNat = { s with img := { s.img with splice := some (b, pos), spliceSw := false } } := by
  unfold State.spliceTake
  rw [when_holds (by simp [hpb, hsplice, hprim])]
  simp

theorem spliceNamed_names (s : State) (pos : BitVec 8) (hreset : s.sys.inReset = false)
    (hopen : s.flag F.IMG_STAT_STN_PB = false ∧ s.img.splice = none)
    (hmay : s.isPrimary = true ∧ (s.member pos.toNat).adm = 2 ∧ (s.member pos.toNat).stage = Stage.pbAdm ∧ pos.toNat ≠ s.pos) :
    Answers (.spliceNamed pos true) s fun t =>
      t.img = { s.img with splice := some (s.scn + 64, pos), spliceSw := false } ∧ Only [.img] s t := by
  obtain ⟨hpb, hsplice⟩ := hopen
  obtain ⟨hprim, hadm, hstage, hother⟩ := hmay
  refine ⟨_, rfl, ?_⟩
  rw [live_runs hreset, State.spliceNamed, when_holds (by simp [hprim, hadm, hstage, hother]),
    spliceTake_of_primary hpb hsplice hprim]
  exact ⟨rfl, Only.set_img (by decide) (Only.refl _ s)⟩

theorem spliceNamed_ignored (s : State) (pos : BitVec 8) (locked : Bool)
    (h : s.flag F.IMG_STAT_STN_PB = true ∨ s.img.splice ≠ none ∨ (s.isPrimary = true ∧
      (locked = false ∨ (s.member pos.toNat).adm ≠ 2 ∨ (s.member pos.toNat).stage ≠ Stage.pbAdm))) :
    Answers (.spliceNamed pos locked) s fun t => t = s := by
  refine ⟨_, rfl, live_idle ?_⟩
  unfold State.spliceNamed
  rw [← or_assoc] at h
  rcases h with hclosed | ⟨hprim, hnot⟩
  · simp only [spliceTake_ignored hclosed, State.when, ite_self]
  · refine when_ignored ?_ _
    rcases hnot with h | h | h <;> simp [hprim, h]

/-- Settles O26: S and the splice boundary are named when R107 and R118 allow, and nothing else changes. -/
theorem fullServiceAndSpliceNamed : Obligations.FullServiceAndSpliceNamed := by
  unfold Obligations.FullServiceAndSpliceNamed
  exact ⟨fullServiceNamed_names, fullServiceNamed_reports, stWaitExpiry_answers, spliceNamed_names, spliceNamed_ignored⟩

end Sys2Proof.Machine
end

section
namespace Sys2Proof.Machine

/-! ### A raise may be lost where a record and its causes disagree (O42)

The collector keeps a record of class 1 or less ACTIVE while one of its causes lasts (R472). A state need not: nothing in
`State` ties the ACTIVE bit of a record to its causes. Where they agree, the end of a cause can only free its record; where
they disagree, it can make the record ACTIVE, and the last free record is gone. -/

/-- An HB of HEAD 0 as PRIMARY (2) with tier 1 (R402), as HEAD 1 receives it on ring Y. -/
def tierOneHb : List Byte := codeword { typ := Ty.hb, src := 0, dst := 0xFF, tag := 0, route := 0 } [2, 1]

def tierOneArrival : Arrival := ⟨2, 0, tierOneHb, tierOneHb, false, 0⟩

/-- HEAD 1 in FULL, PRIMARY with tier 0, for which that HB waits; its host is the source and has timed out (R203). -/
def timedOutPrimary : State :=
  let s : State := { State.reset with
    sys := { inReset := false, powerGood := true }, dpx := { hasTier := true }, rng := { rx := [tierOneArrival] } }
  (((((s.put F.SYS_ROLE_ROLE 1).put F.SYS_ADDR_POS 1).put F.IMG_STAT_STAGE Stage.full).put F.DPX_STAT_STATE
    Dpx.primary).setFlag F.TIM_STAT_SRC_HOST true).setFlag F.TIM_STAT_HOST_TO true

/-- Every record but 63 is ACTIVE. Record 63 is not, though two causes of it last: the host's time-out, and another. -/
def disagreeingPrimary : State :=
  let s := forUpTo 63 (fun r s => s.setFlag (F.FLT_RECr_W1_ACTIVE r) true) timedOutPrimary
  { s with flt := { s.flt with causes :=
    [⟨some 63, 0x0507, 0, 0, 0, false, false, false, 0⟩, ⟨some 63, 0x0201, 0, 0, 1, false, false, false, 0⟩] } }

/-- Before the HB a raise would go to record 63. -/
theorem disagreeingPrimary_target : disagreeingPrimary.mergeEnd.raiseTarget = some 63 := by decide +kernel

/-- The HB demotes the primary, which gives up its host (R204): the time-out ends, record 63 becomes ACTIVE for its other
cause, and the FC1 of the demotion finds no free record and counts as lost (R463). -/
theorem hbReceived_loses_demotion :
    ∃ t, exec .hbReceived disagreeingPrimary = .next t ∧
      t.recActive 63 = true ∧ t.rd R.FLT_LOST = 1 ∧ HasCause t 0x0D03 1 = false := by
  refine ⟨_, rfl, ?_⟩
  decide +kernel

/-- Refutes O42: its clause on a demoted PRIMARY judges by the records before the HB whether the FC1 is recorded, but the end
of the host's time-out moves them first. The state is one in which a record and its causes disagree (R472), which no
hypothesis of the clause excludes. -/
theorem not_rolesAndHeartbeats : ¬ Obligations.RolesAndHeartbeats := by
  unfold Obligations.RolesAndHeartbeats
  rintro ⟨-, -, -, -, -, -, hdemoted, -⟩
  obtain ⟨u, hu, -, -, hnone⟩ := hbReceived_loses_demotion
  obtain ⟨t, ht, -, -, -, -, hraised⟩ := hdemoted disagreeingPrimary tierOneArrival tierOneHb
    (by decide +kernel) (by decide +kernel) (by decide +kernel) (by decide +kernel) (by decide +kernel) (by decide +kernel)
  have htu : t = u := by rw [hu] at ht; cases ht; rfl
  have hcause : HasCause t 0x0D03 1 = true := hraised (by rw [disagreeingPrimary_target]; rfl)
  rw [htu, hnone] at hcause
  cases hcause

end Sys2Proof.Machine
end

section
namespace Sys2Proof.Machine

/-! ### A raise may be lost where the merge window is zero (O38)

R482 gives MERGE_US the range 1 to 255, and nothing in `State` excludes 0. With 0 a record is closed to the next raise of the
same command (R460), which goes to a record of its own. With one record left that is not ACTIVE, the second raise takes the
place of the first (R463), whose cause is gone. -/

/-- A WRAP report of priority 1 (R538). -/
def wrapReport : QRep := ⟨1, Rep.wrap, 1, [], 0, 0⟩

/-- The primary in FULL, its WRAP still standing and MERGE_US = 0. Session 0 has subscribed to WRAP and its queue of 256 is
full (R540). -/
def fullQueuePrimary : State :=
  let s : State := { State.reset with
    sys := { inReset := false, powerGood := true }
    sup := { sess := [(0, { sub := 0x20, queue := List.replicate 256 wrapReport })] } }
  ((((((s.put F.SYS_ROLE_ROLE 1).put F.IMG_STAT_STAGE Stage.full).put F.DPX_STAT_STATE Dpx.primary).setFlag F.SUP_CTRL_EN
    true).setFlag (F.SUP_SESSn_STAT_OPEN 0) true).setFlag F.TIM_STAT_WRAP true).put F.FLT_CFG_MERGE_US 0

/-- Records 0 to 62 are ACTIVE, each of an FC1 whose cause lasts; record 63 is the next and free. -/
def oneRecordFree : State :=
  let s := forUpTo 63 (fun r s => (s.wrN (R.FLT_RECr_Ww r 0) (r <<< 16 ||| 0x0E01)).wrN (R.FLT_RECr_Ww r 1) 0x201)
    (fullQueuePrimary.put F.FLT_NEXT_NEXT 63)
  { s with flt := { s.flt with causes := (List.range 63).map fun r => ⟨some r, 0x0E01, 8, r, 1, false, false, false, 0⟩ } }

/-- Before the wrap a raise would go to record 63. -/
theorem oneRecordFree_target : oneRecordFree.mergeEnd.raiseTarget = some 63 := by decide +kernel

/-- The wrap finds WRAP set, and the FC0 of WRAP_OVR opens record 63 (R188). The report of the wrap then finds the queue full,
and the FC0 of the drop (R540) opens record 127 in the same place. -/
theorem stimeWrap_loses_wrapOvr :
    ∃ t, exec .stimeWrap oneRecordFree = .next t ∧
      t.get (F.FLT_RECr_W0_NUM 63) = 127 ∧ HasCause t 0x1104 0 = true ∧ HasCause t 0x0508 0 = false := by
  refine ⟨_, rfl, ?_⟩
  decide +kernel

/-- Refutes O38: its clause on a wrap judges by the records before it that the collector holds the FC0 of WRAP_OVR, but the report
of the same wrap may raise a second FC0, which with MERGE_US = 0 takes the last record that is not ACTIVE away from it. -/
theorem not_servoMeasuresAndLosses : ¬ Obligations.ServoMeasuresAndLosses := by
  unfold Obligations.ServoMeasuresAndLosses
  rintro ⟨-, -, -, -, -, -, -, hwrap, -⟩
  obtain ⟨u, hu, -, -, hnone⟩ := stimeWrap_loses_wrapOvr
  obtain ⟨t, ht, -, -, -, -, hraised, -⟩ := hwrap oneRecordFree (by decide +kernel) (by decide +kernel)
  have htu : t = u := by rw [hu] at ht; cases ht; rfl
  have hcause : HasCause t 0x0508 0 = true := hraised (by decide +kernel) (by rw [oneRecordFree_target]; rfl)
  rw [htu, hnone] at hcause
  cases hcause

end Sys2Proof.Machine
end


section
namespace Sys2Proof.Machine

/-! ### A raise goes to the record that was free before the command (R460 to R463) -/

/-- A raise leaves its cause in the collector wherever a record can take it, or its class asks for a reaction. -/
theorem raised_raise (s : State) (r : Raise) : Raised s (s.raise r) r.code r.cls := by
  intro hrec
  have h1 : CauseStands r.code r.cls (s.mergeEnd.raise1 r) := by
    refine causeStands_raise1_of ?_
    rw [State.raiseListed, if_pos hrec]
    exact causeStands_addCause (openRec_raiseRecord _ r _)
  have h2 : CauseStands r.code r.cls (s.mergeEnd.raise2 r) := by
    unfold State.raise2
    dsimp only
    split
    · exact h1.raise1 _
    · exact h1
  unfold State.raise
  extract_lets s0 s1 win times f s2 n
  have hcounted : CauseStands r.code r.cls s2 := h2.congr rfl rfl
  split
  · split
    · exact (hcounted.raise1 _).hasCause
    · exact hcounted.hasCause
  · exact h2.hasCause

/-- The collector stands alike in both states: its hidden state, its registers, and the time. -/
structure CollectorAlike (s t : State) : Prop where
  flt : t.flt = s.flt
  up : t.sys.up = s.sys.up
  rd : ∀ a, 0x400E0000 ≤ a → t.rd a = s.rd a

theorem CollectorAlike.get {s t : State} (h : CollectorAlike s t) {f : Fld} (hf : 0x400E0000 ≤ f.addr) : t.get f = s.get f := by
  unfold State.get; rw [h.rd _ hf]

theorem le_recWord (r w : Nat) : 0x400E0000 ≤ R.FLT_RECr_Ww r w := by unfold R.FLT_RECr_Ww; omega

theorem CollectorAlike.setFlag {s t : State} (h : CollectorAlike s t) (f : Fld) (b : Bool) :
    CollectorAlike (s.setFlag f b) (t.setFlag f b) := by
  refine ⟨h.flt, h.up, fun a ha => ?_⟩
  by_cases hf : a = f.addr
  · subst hf
    exact (rd_put_same t f _).trans ((congrArg (f.put · (b2n b)) (h.rd _ ha)).trans (rd_put_same s f _).symm)
  · rw [rd_setFlag_other t f b hf, rd_setFlag_other s f b hf, h.rd a ha]

theorem CollectorAlike.with_flt {s t : State} (h : CollectorAlike s t) (f : FltSt) :
    CollectorAlike { s with flt := f } { t with flt := f } := ⟨rfl, h.up, h.rd⟩

theorem CollectorAlike.mergeEnd {s t : State} (h : CollectorAlike s t) : CollectorAlike s.mergeEnd t.mergeEnd := by
  have hticks : t.mergeTicks = s.mergeTicks := by
    unfold State.mergeTicks; rw [h.get (f := F.FLT_CFG_MERGE_US) (by decide)]
  unfold State.mergeEnd
  rw [h.flt, h.up, hticks]
  split
  · exact h
  · split
    · exact h
    · exact (h.with_flt _).setFlag _ _

theorem CollectorAlike.raiseTarget {s t : State} (h : CollectorAlike s t) : t.raiseTarget = s.raiseTarget := by
  have hact : ∀ r, t.recActive r = s.recActive r := fun r => by
    unfold State.recActive State.flag; rw [h.get (f := F.FLT_RECr_W1_ACTIVE r) (le_recWord r 1)]
  unfold State.raiseTarget State.nextRec
  simp only [h.flt, h.get (f := F.FLT_NEXT_NEXT) (by decide), hact]

/-- What was done before the raise outside the collector does not matter to its record. -/
theorem Raised.of_alike {s t u : State} {code cls : Nat} (h : Raised t u code cls) (ha : CollectorAlike s t) :
    Raised s u code cls := by
  unfold Raised at h ⊢
  rwa [← ha.mergeEnd.raiseTarget]

/-! ### A raise, a report and the running of the clocks leave the time pulses alone -/

/-- The time-pulse outputs stand as they were. -/
abbrev TposKept (s t : State) : Prop := t.tim.tpo = s.tim.tpo

theorem TposKept.of_only {l : List Comp} {s t : State} (h : Only l s t) (hl : Comp.tim ∉ l) : TposKept s t :=
  congrArg TimSt.tpo (h.same .tim hl)

theorem TposKept.tpo {s t : State} (h : TposKept s t) (n : Nat) : t.tpo n = s.tpo n := by
  unfold State.tpo; rw [h]

theorem TposKept.ite {c : Prop} [Decidable c] {z x y : State} (hx : TposKept z x) (hy : TposKept z y) :
    TposKept z (if c then x else y) := by split <;> assumption

theorem TposKept.foldl {β : Type} {z s : State} {f : State → β → State} {l : List β} (h : TposKept z s)
    (hf : ∀ b x, TposKept z b → TposKept z (f b x)) : TposKept z (l.foldl f s) := by
  induction l generalizing s with
  | nil => exact h
  | cons x t ih => exact ih (hf s x h)

theorem tposKept_takeUp (s : State) (p : Nat) : TposKept s (s.takeUp p) :=
  TposKept.foldl rfl fun _ _ hb => hb

theorem tposKept_selectUp (s : State) : TposKept s s.selectUp := by
  unfold State.selectUp
  dsimp only
  split
  · rfl
  · split
    · split
      · exact tposKept_takeUp s _
      · rfl
    · split
      · exact tposKept_takeUp s _
      · rfl

theorem tposKept_endCause (s : State) (code inst tag : Nat) : TposKept s (s.endCause code inst tag) :=
  TposKept.of_only (only_endCause (Only.refl _ s) code inst tag (List.Subset.refl _)) (by decide)

theorem tposKept_giveUpRoot (s : State) : TposKept s s.giveUpRoot := by
  unfold State.giveUpRoot
  extract_lets auto s1 s2
  have h2 : TposKept s s2 := by
    simp only [s2]; split
    · exact tposKept_endCause (s1.setFlag F.TIM_STAT_HOST_TO false) _ _ _
    · rfl
  refine (tposKept_selectUp _).trans ?_
  split <;> exact h2

theorem tposKept_headOut (s : State) : TposKept s s.headOut := by
  unfold State.headOut
  split
  · extract_lets s1 s2 s3
    have h3 : TposKept s s3 := by simp only [s3]; split <;> rfl
    split
    · exact (tposKept_giveUpRoot s3).trans h3
    · exact h3
  · rfl

theorem tposKept_raise1 (s : State) (r : Raise) : TposKept s (s.raise1 r) := by
  refine raise1_of_listed (P := TposKept s) ?_ (fun _ _ hu => hu) (fun u n hu => ?_) (fun u hu => (tposKept_headOut u).trans hu)
    (fun _ u hu => ?_) fun u hu => ?_
  · have hrec : TposKept s (s.raiseRecord s.raiseTarget r (s.loc r.scope)) :=
      TposKept.of_only (only_raiseRecord (Only.refl _ s) _ r _ (List.Subset.refl _)) (by decide)
    unfold State.raiseListed; split <;> exact hrec
  · exact (TposKept.of_only (only_recRefresh (Only.refl _ u) n (List.Subset.refl _)) (by decide)).trans hu
  · exact (TposKept.of_only (only_lockOut (Only.refl _ u) (List.Subset.refl _)) (by decide)).trans hu
  · exact (TposKept.of_only (only_fltRefresh (Only.refl _ u) (List.Subset.refl _)) (by decide)).trans hu

theorem tposKept_raise2 (s : State) (r : Raise) : TposKept s (s.raise2 r) := by
  unfold State.raise2
  dsimp only
  split
  · exact (tposKept_raise1 _ _).trans (tposKept_raise1 s r)
  · exact tposKept_raise1 s r

theorem tposKept_raise (s : State) (r : Raise) : TposKept s (s.raise r) := by
  have h2 : TposKept s (s.mergeEnd.raise2 r) :=
    (tposKept_raise2 _ r).trans (TposKept.of_only (only_mergeEnd (Only.refl _ s) (List.Subset.refl _)) (by decide))
  unfold State.raise
  dsimp only
  split
  · split
    · exact (tposKept_raise1 _ _).trans h2
    · exact h2
  · exact h2

theorem tposKept_repDrop (s : State) (n prio : Nat) : TposKept s (s.repDrop n prio) := by
  unfold State.repDrop
  match prio with
  | 0 | 1 | _ + 2 => exact TposKept.ite rfl (Eq.trans (tposKept_raise _ _) rfl)

theorem tposKept_enqueue (s : State) (n : Nat) (r : QRep) : TposKept s (s.enqueue n r) := by
  unfold State.enqueue
  refine TposKept.ite rfl ?_
  split
  · exact tposKept_repDrop (s.setSess n _) n _
  · exact tposKept_repDrop s n _

theorem tposKept_report (s : State) (kind prio origin : Nat) (payload : List Byte) :
    TposKept s (s.report kind prio origin payload) := by
  unfold State.report
  refine TposKept.ite ?_ rfl
  refine (TposKept.of_only (only_supStat (Only.refl _ _) (List.Subset.refl _)) (by decide)).trans ?_
  exact TposKept.foldl (z := s) rfl fun b n hb => TposKept.ite ((tposKept_enqueue b n _).trans hb) hb

theorem tposKept_wrapped (s : State) : TposKept s s.wrapped := by
  unfold State.wrapped
  extract_lets s1 s2
  have h1 : TposKept s s1 := by
    simp only [s1]; split
    · exact tposKept_raise (s.setFlag F.TIM_STAT_WRAP_OVR true) _
    · rfl
  exact (tposKept_report s2 _ _ _ _).trans h1

theorem tposKept_runTime (s : State) (d : Nat) : TposKept s (s.runTime d) := by
  unfold State.runTime
  exact TposKept.foldl rfl fun b _ hb => (tposKept_wrapped b).trans hb

theorem tposKept_slewRun (s : State) (n : Nat) : TposKept s (s.slewRun n) :=
  TposKept.of_only (only_slewRun (Only.refl _ s) n (List.Subset.refl _)) (by decide)

theorem tposKept_pullRun (s : State) (n : Nat) : TposKept s (s.pullRun n) :=
  TposKept.of_only (only_pullRun (Only.refl _ s) n (List.Subset.refl _)) (by decide)

theorem tposKept_runTicks (s : State) (n : Nat) : TposKept s (s.runTicks n) :=
  (tposKept_runTime _ _).trans ((tposKept_pullRun _ _).trans (tposKept_slewRun _ _))

theorem tposKept_runAhead (s : State) (d : Nat) : TposKept s (s.runAhead d) := tposKept_runTicks s _

end Sys2Proof.Machine
end


section
namespace Sys2Proof.Machine

/-! ### Operations on a time-pulse output (R207 to R210) -/

@[simp] theorem rd_setTpo (s : State) (n : Nat) (x : TpoSt) (a : Nat) : (s.setTpo n x).rd a = s.rd a := rfl

@[simp] theorem flag_setTpo (s : State) (n : Nat) (x : TpoSt) (f : Fld) : (s.setTpo n x).flag f = s.flag f := rfl

@[simp] theorem tpo_setTpo_same (s : State) (n : Nat) (x : TpoSt) : (s.setTpo n x).tpo n = x := Sparse.get_set_same _ _ _

@[simp] theorem tpo_setFlag (s : State) (f : Fld) (b : Bool) (n : Nat) : (s.setFlag f b).tpo n = s.tpo n := rfl

@[simp] theorem tpo_wr (s : State) (a : Nat) (v : Word) (n : Nat) : (s.wr a v).tpo n = s.tpo n := rfl

theorem setTpo_only (s : State) (n : Nat) (x : TpoSt) : Only [.tim] s (s.setTpo n x) :=
  only_setTpo (Only.refl _ s) n x (List.Subset.refl _)

/-- Two bits of one register do not touch each other. -/
theorem flag_setFlag_bit (s : State) (a : Nat) {i j : Nat} (b : Bool) (hi : i < 32) (hij : i ≠ j) :
    (s.setFlag ⟨a, i, 1⟩ b).flag ⟨a, j, 1⟩ = s.flag ⟨a, j, 1⟩ :=
  flag_setFlag_other s _ _ (by show i + 1 ≤ 32; omega) b (.inr (by show j + 1 ≤ i ∨ i + 1 ≤ j; omega))

theorem OnlyRegs.setFlag {l : List Nat} {z s : State} (h : OnlyRegs l z s) {f : Fld} {b : Bool} (hf : f.addr ∈ l) :
    OnlyRegs l z (s.setFlag f b) := h.put hf

theorem tpoAddr_ne_ctrl (n : Nat) (r : TpoReg) : tpoAddr n r ≠ R.TIM_TPOn_CTRL n := by
  cases r <;> simp [tpoAddr, R.TIM_TPOn_CTRL, R.TIM_TPOn_START, R.TIM_TPOn_PER, R.TIM_TPOn_WIDTH]

/-- The states differ in TIM_TPOn_CTRL alone. -/
structure CtrlOnly (n : Nat) (s t : State) : Prop where
  regs : OnlyRegs [R.TIM_TPOn_CTRL n] s t
  only : Only [.regs] s t

theorem CtrlOnly.refl (n : Nat) (s : State) : CtrlOnly n s s := ⟨OnlyRegs.refl _ s, Only.refl _ s⟩

theorem CtrlOnly.setFlag {n : Nat} {z s : State} (h : CtrlOnly n z s) (f : Fld) (b : Bool)
    (hf : f.addr = R.TIM_TPOn_CTRL n) : CtrlOnly n z (s.setFlag f b) :=
  ⟨h.regs.setFlag (by simp [hf]), only_setFlag h.only f b (List.Subset.refl _)⟩

theorem CtrlOnly.tim {n : Nat} {s t : State} (h : CtrlOnly n s t) : t.tim = s.tim := h.only.same .tim (by decide)

theorem CtrlOnly.num {n : Nat} {s t : State} (h : CtrlOnly n s t) (r : TpoReg) :
    t.num (tpoAddr n r) = s.num (tpoAddr n r) := by
  unfold State.num; rw [h.regs _ (by simpa using tpoAddr_ne_ctrl n r)]

theorem CtrlOnly.tpo {n : Nat} {s t : State} (h : CtrlOnly n s t) : t.tpo n = s.tpo n := by unfold State.tpo; rw [h.tim]

theorem CtrlOnly.nsExt {n : Nat} {s t : State} (h : CtrlOnly n s t) : t.nsExt = s.nsExt := by
  unfold State.nsExt State.stimeExt; rw [h.tim]

theorem CtrlOnly.tpoOff {n : Nat} {s t : State} (h : CtrlOnly n s t) : t.tpoOff n = s.tpoOff n := by
  have hclk : R.CLK_CTRL ∉ [R.TIM_TPOn_CTRL n] := by
    simp only [List.mem_singleton, R.CLK_CTRL, R.TIM_TPOn_CTRL]; omega
  unfold State.tpoOff State.flag State.get; rw [show F.CLK_CTRL_REFSEL_EN.addr = R.CLK_CTRL from rfl, h.regs _ hclk]

theorem CtrlOnly.tpoOrigin {n : Nat} {s t : State} (h : CtrlOnly n s t) : t.tpoOrigin n = s.tpoOrigin n := by
  have hstart : t.num (R.TIM_TPOn_START n) = s.num (R.TIM_TPOn_START n) := h.num .start
  unfold State.tpoOrigin State.stimeNs State.stime48; rw [hstart, h.nsExt, h.tim]

/-- The next edge depends on the control register through PERIODIC only. -/
theorem CtrlOnly.tpoNext {n : Nat} {s t : State} (h : CtrlOnly n s t)
    (hp : t.flag (F.TIM_TPOn_CTRL_PERIODIC n) = s.flag (F.TIM_TPOn_CTRL_PERIODIC n)) (o : Nat) :
    t.tpoNext n o = s.tpoNext n o := by
  have hper : t.num (R.TIM_TPOn_PER n) = s.num (R.TIM_TPOn_PER n) := h.num .per
  unfold State.tpoNext; rw [h.nsExt, hp, hper]

/-! What is scheduled (R207 to R209) -/

/-- How far ahead START lies, modulo 2^32 ns (R208). -/
def State.tpoAhead (s : State) (n : Nat) : Nat := (s.num (R.TIM_TPOn_START n) + 2 ^ 32 - s.stimeNs % 2 ^ 32) % 2 ^ 32

theorem tpoOrigin_of_ahead {s : State} {n : Nat} (h : s.tpoAhead n < 2 ^ 31) : s.tpoOrigin n = s.nsExt + s.tpoAhead n :=
  if_pos (by rw [Nat.blt_eq]; exact h)

theorem tpoOrigin_le_of_passed {s : State} {n : Nat} (h : s.tpoAhead n = 0 ∨ 2 ^ 31 ≤ s.tpoAhead n) :
    s.tpoOrigin n ≤ s.nsExt := by
  have hlt : s.tpoAhead n < 2 ^ 32 := Nat.mod_lt _ (by decide)
  by_cases hahead : s.tpoAhead n < 2 ^ 31
  · rw [tpoOrigin_of_ahead hahead]; omega
  · have ho : s.tpoOrigin n = s.nsExt + s.tpoAhead n - 2 ^ 32 := if_neg (by rw [Nat.blt_eq]; exact hahead)
    omega

theorem tpoNext_of_ahead {s : State} {n o : Nat} (h : s.nsExt < o) : s.tpoNext n o = some o :=
  if_pos (by rwa [Nat.blt_eq])

theorem tpoNext_of_passed {s : State} {n o : Nat} (h : o ≤ s.nsExt) :
    s.tpoNext n o = if s.flag (F.TIM_TPOn_CTRL_PERIODIC n) then
      some (o + ((s.nsExt - o) / Nat.max 1 (s.num (R.TIM_TPOn_PER n)) + 1) * Nat.max 1 (s.num (R.TIM_TPOn_PER n)))
    else none :=
  if_neg (by rw [Nat.blt_eq]; omega)

theorem tpoCfgOk_iff (s : State) (n : Nat) :
    s.tpoCfgOk n = true ↔ 10 ≤ s.num (R.TIM_TPOn_WIDTH n) ∧ (s.flag (F.TIM_TPOn_CTRL_PERIODIC n) = true →
      100 ≤ s.num (R.TIM_TPOn_PER n) ∧ s.num (R.TIM_TPOn_WIDTH n) + 10 ≤ s.num (R.TIM_TPOn_PER n)) := by
  cases hp : s.flag (F.TIM_TPOn_CTRL_PERIODIC n) <;> simp [State.tpoCfgOk, hp, Nat.ble_eq]

/-- Where START lies for a plan: taken anew, or as it lay. -/
def State.tpoStart (s : State) (n : Nat) (fresh : Bool) : Nat := if fresh then s.tpoOrigin n else (s.tpo n).origin

/-- The configuration is in range and the next edge scheduled. -/
def State.tpoScheduled (s : State) (n : Nat) (fresh : Bool) : State :=
  (s.setFlag (F.TIM_TPOn_CTRL_CFG_ERR n) false).setTpo n
    { s.tpo n with origin := s.tpoStart n fresh, next := s.tpoNext n (s.tpoStart n fresh) }

/-- The configuration is out of range and nothing scheduled. -/
def State.tpoRefused (s : State) (n : Nat) : State :=
  (s.setFlag (F.TIM_TPOn_CTRL_CFG_ERR n) true).setTpo n { s.tpo n with active := false, next := none }

theorem tpoPlan_in_range {s : State} {n : Nat} (hoff : s.tpoOff n = false) (hcfg : s.tpoCfgOk n = true) (fresh mark : Bool) :
    s.tpoPlan n fresh mark =
      (s.tpoScheduled n fresh).when (mark && (s.tpoNext n (s.tpoStart n fresh)).isNone) (·.tpoMissed n) := by
  have hctrl : CtrlOnly n s (s.setFlag (F.TIM_TPOn_CTRL_CFG_ERR n) false) := (CtrlOnly.refl n s).setFlag _ _ rfl
  have hnext := hctrl.tpoNext (flag_setFlag_bit s _ _ (by decide) (by decide))
  simp only [State.tpoPlan, State.tpoScheduled, State.tpoStart, hoff, hcfg, hctrl.tpoOrigin, hctrl.tpo, hnext,
    Bool.false_eq_true, if_false, if_true, tpo_setTpo_same]

theorem tpoPlan_out_of_range {s : State} {n : Nat} (hoff : s.tpoOff n = false) (hcfg : s.tpoCfgOk n = false)
    (fresh mark : Bool) : s.tpoPlan n fresh mark = s.tpoRefused n := by
  simp [State.tpoPlan, State.tpoRefused, hoff, hcfg]

/-- A plan writes the control register and the output's own state. -/
structure TpoFrame (n : Nat) (s t : State) : Prop where
  regs : OnlyRegs [R.TIM_TPOn_CTRL n] s t
  only : Only [.regs, .tim] s t

theorem TpoFrame.refl (n : Nat) (s : State) : TpoFrame n s s := ⟨OnlyRegs.refl _ s, Only.refl _ s⟩

theorem CtrlOnly.frame {n : Nat} {s t : State} (h : CtrlOnly n s t) : TpoFrame n s t := ⟨h.regs, h.only.subset (by decide)⟩

theorem TpoFrame.setTpo {n : Nat} {z s : State} (h : TpoFrame n z s) (m : Nat) (x : TpoSt) : TpoFrame n z (s.setTpo m x) :=
  ⟨h.regs, only_setTpo h.only m x (by decide)⟩

theorem CtrlOnly.scheduled {n : Nat} {z s : State} (h : CtrlOnly n z s) (fresh : Bool) :
    TpoFrame n z (s.tpoScheduled n fresh) := (h.setFlag _ _ rfl).frame.setTpo _ _

theorem CtrlOnly.refused {n : Nat} {z s : State} (h : CtrlOnly n z s) : TpoFrame n z (s.tpoRefused n) :=
  (h.setFlag _ _ rfl).frame.setTpo _ _

theorem tpoPlan_off {s : State} {n : Nat} (hoff : s.tpoOff n = true) (fresh mark : Bool) : s.tpoPlan n fresh mark = s := by
  simp [State.tpoPlan, hoff]

/-- A plan that does not follow a write of EN: TPO3 as REFSEL, a configuration out of range, or one in range. -/
theorem tpoPlan_unmarked (s : State) (n : Nat) (fresh : Bool) :
    s.tpoPlan n fresh false = s ∨ s.tpoPlan n fresh false = s.tpoRefused n ∨
      s.tpoPlan n fresh false = s.tpoScheduled n fresh := by
  cases hoff : s.tpoOff n with
  | true => exact .inl (tpoPlan_off hoff fresh false)
  | false =>
    cases hcfg : s.tpoCfgOk n with
    | false => exact .inr (.inl (tpoPlan_out_of_range hoff hcfg fresh false))
    | true => exact .inr (.inr (tpoPlan_in_range hoff hcfg fresh false))

theorem tpoPlan_unmarked_frame (s : State) (n : Nat) (fresh : Bool) : TpoFrame n s (s.tpoPlan n fresh false) := by
  rcases tpoPlan_unmarked s n fresh with h | h | h <;> rw [h]
  · exact TpoFrame.refl n s
  · exact (CtrlOnly.refl n s).refused
  · exact (CtrlOnly.refl n s).scheduled fresh

/-- It ends no pulse's wait and begins no pulse. -/
theorem tpoPlan_unmarked_idle {s : State} {n : Nat} (h : (s.tpo n).active = false) (fresh : Bool) :
    ((s.tpoPlan n fresh false).tpo n).active = false ∧
      ((s.tpoPlan n fresh false).tpo n).waiting = (s.tpo n).waiting := by
  rcases tpoPlan_unmarked s n fresh with hp | hp | hp <;> rw [hp]
  · exact ⟨h, rfl⟩
  · simp [State.tpoRefused]
  · simp [State.tpoScheduled, h]

end Sys2Proof.Machine
end


section
namespace Sys2Proof.Machine

/-! ### Time-pulse outputs and input (O39) -/

/-- The bits of TIM_TPOn_CTRL that a write takes: EN, PERIODIC, POL, and MISSED cleared by a 1. -/
def State.tpoBits (s : State) (n : Nat) (v : Word) : State :=
  let s1 := (s.setFlag (F.TIM_TPOn_CTRL_EN n) (v.getLsbD 0)).setFlag (F.TIM_TPOn_CTRL_PERIODIC n) (v.getLsbD 1)
  let s2 := s1.setFlag (F.TIM_TPOn_CTRL_POL n) (v.getLsbD 2)
  if v.getLsbD 8 then s2.setFlag (F.TIM_TPOn_CTRL_MISSED n) false else s2

/-- EN written 1 where it was 0 plans the output afresh. -/
theorem tpoCtrl_enable {s : State} {n : Nat} {v : Word} (hen : s.flag (F.TIM_TPOn_CTRL_EN n) = false)
    (hv : v.getLsbD 0 = true) : s.tpoCtrl n v = (s.tpoBits n v).tpoPlan n true true := by
  simp only [State.tpoCtrl, State.tpoBits, hen, hv, Bool.not_false, Bool.true_or, if_true, when_holds]

theorem tpoBits_ctrlOnly (s : State) (n : Nat) (v : Word) : CtrlOnly n s (s.tpoBits n v) := by
  have h : CtrlOnly n s (((s.setFlag (F.TIM_TPOn_CTRL_EN n) (v.getLsbD 0)).setFlag (F.TIM_TPOn_CTRL_PERIODIC n)
      (v.getLsbD 1)).setFlag (F.TIM_TPOn_CTRL_POL n) (v.getLsbD 2)) :=
    (((CtrlOnly.refl n s).setFlag _ _ rfl).setFlag _ _ rfl).setFlag _ _ rfl
  unfold State.tpoBits
  dsimp only
  split
  · exact h.setFlag _ _ rfl
  · exact h

theorem tpoBits_flags (s : State) (n : Nat) (v : Word) :
    (s.tpoBits n v).flag (F.TIM_TPOn_CTRL_EN n) = v.getLsbD 0 ∧
      (s.tpoBits n v).flag (F.TIM_TPOn_CTRL_PERIODIC n) = v.getLsbD 1 ∧
      (s.tpoBits n v).flag (F.TIM_TPOn_CTRL_POL n) = v.getLsbD 2 := by
  have hsame : ∀ (t : State) (i : Nat) (b : Bool), i < 32 →
      (t.setFlag ⟨R.TIM_TPOn_CTRL n, i, 1⟩ b).flag ⟨R.TIM_TPOn_CTRL n, i, 1⟩ = b :=
    fun t i b hi => flag_setFlag_same t _ (by show i + 1 ≤ 32; omega) rfl b
  unfold State.tpoBits
  dsimp only
  split <;> simp [F.TIM_TPOn_CTRL_EN, F.TIM_TPOn_CTRL_PERIODIC, F.TIM_TPOn_CTRL_POL, F.TIM_TPOn_CTRL_MISSED,
    flag_setFlag_bit, hsame]

/-- A configuration in range for the mode that the write asks for is in range once its bits are taken. -/
theorem tpoBits_cfgOk {s : State} {n : Nat} {v : Word} :
    (s.tpoBits n v).tpoCfgOk n = true ↔ 10 ≤ s.num (R.TIM_TPOn_WIDTH n) ∧ (v.getLsbD 1 = true →
      100 ≤ s.num (R.TIM_TPOn_PER n) ∧ s.num (R.TIM_TPOn_WIDTH n) + 10 ≤ s.num (R.TIM_TPOn_PER n)) := by
  have hctrl := tpoBits_ctrlOnly s n v
  have hper : (s.tpoBits n v).num (R.TIM_TPOn_PER n) = s.num (R.TIM_TPOn_PER n) := hctrl.num .per
  have hwidth : (s.tpoBits n v).num (R.TIM_TPOn_WIDTH n) = s.num (R.TIM_TPOn_WIDTH n) := hctrl.num .width
  obtain ⟨-, hmode, -⟩ := tpoBits_flags s n v
  rw [tpoCfgOk_iff, hper, hwidth, hmode]

theorem tpoStart_fresh (s : State) (n : Nat) : s.tpoStart n true = s.tpoOrigin n := if_pos rfl

/-- The edge that is next once the write's bits are taken. -/
theorem tpoBits_next (s : State) (n : Nat) (v : Word) :
    (s.tpoBits n v).tpoNext n ((s.tpoBits n v).tpoStart n true) =
      if s.nsExt < s.tpoOrigin n then some (s.tpoOrigin n)
      else if v.getLsbD 1 then
        some (s.tpoOrigin n + ((s.nsExt - s.tpoOrigin n) / Nat.max 1 (s.num (R.TIM_TPOn_PER n)) + 1) *
          Nat.max 1 (s.num (R.TIM_TPOn_PER n)))
      else none := by
  have hctrl := tpoBits_ctrlOnly s n v
  have hper : (s.tpoBits n v).num (R.TIM_TPOn_PER n) = s.num (R.TIM_TPOn_PER n) := hctrl.num .per
  obtain ⟨-, hmode, -⟩ := tpoBits_flags s n v
  rw [tpoStart_fresh, hctrl.tpoOrigin]
  split
  · next h => exact tpoNext_of_ahead (by rwa [hctrl.nsExt])
  · next h => rw [tpoNext_of_passed (by rw [hctrl.nsExt]; omega), hctrl.nsExt, hper, hmode]

/-- An output that is not REFSEL, enabled with a configuration in range, on which an edge is next: it is scheduled. -/
theorem tpoCtrl_schedules {s : State} {n : Nat} {v : Word}
    (hopen : s.tpoOff n = false ∧ s.flag (F.TIM_TPOn_CTRL_EN n) = false) (hv : v.getLsbD 0 = true)
    (hcfg : (s.tpoBits n v).tpoCfgOk n = true)
    (hnext : ((s.tpoBits n v).tpoNext n ((s.tpoBits n v).tpoStart n true)).isSome = true) :
    s.tpoCtrl n v = (s.tpoBits n v).tpoScheduled n true := by
  obtain ⟨hoff, hen⟩ := hopen
  rw [tpoCtrl_enable hen hv, tpoPlan_in_range ((tpoBits_ctrlOnly s n v).tpoOff.trans hoff) hcfg, when_ignored]
  simp [Option.isNone_eq_false_iff, hnext]

theorem tpoEnable_schedules_start (s : State) (n : Fin 4) (v : Word) (hreset : s.sys.inReset = false)
    (hopen : s.tpoOff n = false ∧ s.flag (F.TIM_TPOn_CTRL_EN n) = false)
    (hv : v.getLsbD 0 = true ∧ (v.getLsbD 1 = true →
      100 ≤ s.num (R.TIM_TPOn_PER n) ∧ s.num (R.TIM_TPOn_WIDTH n) + 10 ≤ s.num (R.TIM_TPOn_PER n)))
    (hwidth : 10 ≤ s.num (R.TIM_TPOn_WIDTH n)) (hahead : 1 ≤ s.tpoAhead n ∧ s.tpoAhead n < 2 ^ 31) :
    Answers (.tpoEnable n v) s fun t =>
      t.flag (F.TIM_TPOn_CTRL_EN n) = true ∧ t.flag (F.TIM_TPOn_CTRL_PERIODIC n) = v.getLsbD 1 ∧
      t.flag (F.TIM_TPOn_CTRL_POL n) = v.getLsbD 2 ∧ t.flag (F.TIM_TPOn_CTRL_CFG_ERR n) = false ∧
      (t.tpo n).next = some (s.nsExt + s.tpoAhead n) ∧ OnlyRegs [R.TIM_TPOn_CTRL n] s t ∧ Only [.regs, .tim] s t := by
  obtain ⟨hen, hper⟩ := hv
  have hnext := tpoBits_next s n v
  rw [if_pos (by rw [tpoOrigin_of_ahead hahead.2]; omega), tpoOrigin_of_ahead hahead.2] at hnext
  obtain ⟨hregs, honly⟩ := (tpoBits_ctrlOnly s n v).scheduled true
  obtain ⟨hfen, hfper, hfpol⟩ := tpoBits_flags s n v
  have hbit : ∀ i, i ≠ 9 → ((s.tpoBits n v).tpoScheduled n true).flag ⟨R.TIM_TPOn_CTRL n, i, 1⟩ =
      (s.tpoBits n v).flag ⟨R.TIM_TPOn_CTRL n, i, 1⟩ := fun i hi => flag_setFlag_bit _ _ _ (by decide) (Ne.symm hi)
  refine ⟨_, rfl, ?_⟩
  rw [live_runs hreset, tpoCtrl_schedules hopen hen (tpoBits_cfgOk.2 ⟨hwidth, hper⟩) (by rw [hnext]; rfl)]
  refine ⟨(hbit 0 (by decide)).trans (hfen.trans hen), (hbit 1 (by decide)).trans hfper, (hbit 2 (by decide)).trans hfpol,
    flag_setFlag_same _ _ (by show 9 + 1 ≤ 32; omega) rfl _, ?_, hregs, honly⟩
  rw [State.tpoScheduled, tpo_setTpo_same]
  exact hnext

theorem tpoEnable_schedules_train (s : State) (n : Fin 4) (v : Word) (hreset : s.sys.inReset = false)
    (hopen : s.tpoOff n = false ∧ s.flag (F.TIM_TPOn_CTRL_EN n) = false) (hv : v.getLsbD 0 = true ∧ v.getLsbD 1 = true)
    (hcfg : 10 ≤ s.num (R.TIM_TPOn_WIDTH n) ∧ 100 ≤ s.num (R.TIM_TPOn_PER n) ∧
      s.num (R.TIM_TPOn_WIDTH n) + 10 ≤ s.num (R.TIM_TPOn_PER n))
    (hpast : s.tpoOrigin n ≤ s.nsExt) :
    Answers (.tpoEnable n v) s fun t =>
      (t.tpo n).next = some (s.tpoOrigin n +
        ((s.nsExt - s.tpoOrigin n) / s.num (R.TIM_TPOn_PER n) + 1) * s.num (R.TIM_TPOn_PER n)) ∧
      OnlyRegs [R.TIM_TPOn_CTRL n] s t ∧ Only [.regs, .tim] s t := by
  obtain ⟨hwidth, hper⟩ := hcfg
  have hmax : Nat.max 1 (s.num (R.TIM_TPOn_PER n)) = s.num (R.TIM_TPOn_PER n) := Nat.max_eq_right (by omega)
  have hnext := tpoBits_next s n v
  rw [if_neg (by omega), if_pos hv.2, hmax] at hnext
  obtain ⟨hregs, honly⟩ := (tpoBits_ctrlOnly s n v).scheduled true
  refine ⟨_, rfl, ?_⟩
  rw [live_runs hreset, tpoCtrl_schedules hopen hv.1 (tpoBits_cfgOk.2 ⟨hwidth, fun _ => hper⟩) (by rw [hnext]; rfl)]
  refine ⟨?_, hregs, honly⟩
  rw [State.tpoScheduled, tpo_setTpo_same]
  exact hnext

theorem TpoFrame.collectorAlike {n : Fin 4} {z t : State} (h : TpoFrame n z t) : CollectorAlike z t where
  flt := h.only.same .flt (by decide)
  up := congrArg SysSt.up (h.only.same .sys (by decide))
  rd a ha := h.regs a (by simp only [List.mem_singleton, R.TIM_TPOn_CTRL]; omega)

theorem faultReg_tpoCtrl : ∀ n : Fin 4, faultReg (R.TIM_TPOn_CTRL n) = false := by decide

/-- An edge that has passed shows MISSED and raises its FC0, whatever the plan did before (R208). -/
theorem tpoMissed_after {n : Fin 4} {z c : State} (h : TpoFrame n z c) :
    (c.tpoMissed n).flag (F.TIM_TPOn_CTRL_MISSED n) = true ∧ (c.tpoMissed n).tpo n = c.tpo n ∧
      Raised z (c.tpoMissed n) 0x0508 0 ∧ FaultFrame [R.TIM_TPOn_CTRL n] z (c.tpoMissed n) ∧
      Only [.regs, .clk, .tim, .pwm, .gd, .flt, .out] z (c.tpoMissed n) := by
  have hmark : TpoFrame n z (c.setFlag (F.TIM_TPOn_CTRL_MISSED n) true) :=
    ⟨h.regs.setFlag (by simp [F.TIM_TPOn_CTRL_MISSED]), only_setFlag h.only _ _ (by decide)⟩
  have hoff : faultReg (R.TIM_TPOn_CTRL n) = false := faultReg_tpoCtrl n
  have hframe : FaultFrame [R.TIM_TPOn_CTRL n] z (c.setFlag (F.TIM_TPOn_CTRL_MISSED n) true) :=
    ⟨fun a ha => hmark.regs a (by simp only [Bool.or_eq_false_iff] at ha; simpa using ha.2)⟩
  refine ⟨?_, (tposKept_raise _ _).tpo n, (raised_raise _ _).of_alike hmark.collectorAlike, ?_,
    only_raise (hmark.only.subset (by decide)) _ (List.Subset.refl _)⟩
  · have hrd := rd_raise_other (c.setFlag (F.TIM_TPOn_CTRL_MISSED n) true) { code := 0x0508, cls := 0, scope := .node } hoff
    have hset := flag_setFlag_same c (F.TIM_TPOn_CTRL_MISSED n) (by show 8 + 1 ≤ 32; omega) rfl true
    unfold State.flag State.get at hset ⊢
    rw [State.tpoMissed, show (F.TIM_TPOn_CTRL_MISSED n).addr = R.TIM_TPOn_CTRL n from rfl, hrd]
    exact hset
  · exact hframe.trans ((off_raise (RegsOff.refl _ _) _).mono fun a ha => by simp [ha])

theorem tpoEnable_misses (s : State) (n : Fin 4) (v : Word) (hreset : s.sys.inReset = false)
    (hopen : s.tpoOff n = false ∧ s.flag (F.TIM_TPOn_CTRL_EN n) = false) (hv : v.getLsbD 0 = true ∧ v.getLsbD 1 = false)
    (hwidth : 10 ≤ s.num (R.TIM_TPOn_WIDTH n)) (hpast : s.tpoAhead n = 0 ∨ 2 ^ 31 ≤ s.tpoAhead n) :
    Answers (.tpoEnable n v) s fun t =>
      t.flag (F.TIM_TPOn_CTRL_MISSED n) = true ∧ (t.tpo n).next = none ∧ Raised s t 0x0508 0 ∧
      FaultFrame [R.TIM_TPOn_CTRL n] s t ∧ Only [.regs, .clk, .tim, .pwm, .gd, .flt, .out] s t := by
  obtain ⟨hoff, hen⟩ := hopen
  have hctrl := tpoBits_ctrlOnly s n v
  have hnext := tpoBits_next s n v
  rw [if_neg (by have := tpoOrigin_le_of_passed hpast; omega), hv.2, if_neg Bool.false_ne_true] at hnext
  have hframe := hctrl.scheduled true
  refine ⟨_, rfl, ?_⟩
  rw [live_runs hreset, tpoCtrl_enable hen hv.1, tpoPlan_in_range (hctrl.tpoOff.trans hoff)
    (tpoBits_cfgOk.2 ⟨hwidth, fun h => by rw [hv.2] at h; cases h⟩), when_holds (by rw [hnext]; rfl)]
  obtain ⟨hmissed, htpo, hraised, hregs, honly⟩ := tpoMissed_after hframe
  refine ⟨hmissed, ?_, hraised, hregs, honly⟩
  rw [htpo, State.tpoScheduled, tpo_setTpo_same]
  exact hnext

theorem tpoEnable_refuses (s : State) (n : Fin 4) (v : Word) (hreset : s.sys.inReset = false)
    (hopen : s.tpoOff n = false ∧ s.flag (F.TIM_TPOn_CTRL_EN n) = false) (hv : v.getLsbD 0 = true)
    (hwidth : s.num (R.TIM_TPOn_WIDTH n) < 10) :
    Answers (.tpoEnable n v) s fun t =>
      t.flag (F.TIM_TPOn_CTRL_CFG_ERR n) = true ∧ (t.tpo n).next = none ∧ (t.tpo n).active = false ∧
      OnlyRegs [R.TIM_TPOn_CTRL n] s t ∧ Only [.regs, .tim] s t := by
  obtain ⟨hoff, hen⟩ := hopen
  have hctrl := tpoBits_ctrlOnly s n v
  have hcfg : (s.tpoBits n v).tpoCfgOk n = false := by
    rw [Bool.eq_false_iff, ne_eq, tpoBits_cfgOk]; omega
  obtain ⟨hregs, honly⟩ := hctrl.refused
  refine ⟨_, rfl, ?_⟩
  rw [live_runs hreset, tpoCtrl_enable hen hv, tpoPlan_out_of_range (hctrl.tpoOff.trans hoff) hcfg]
  refine ⟨flag_setFlag_same _ _ (by show 9 + 1 ≤ 32; omega) rfl _, ?_, ?_, hregs, honly⟩ <;>
    rw [State.tpoRefused, tpo_setTpo_same]

/-! The edge and the end of a pulse (R207, R209) -/

/-- The output once the pulse of the edge at k ns has begun. -/
def State.tpoRisen (u : State) (n k : Nat) : State :=
  u.setTpo n { u.tpo n with
    active := true
    endAt := u.tim.acc + u.num (R.TIM_TPOn_WIDTH n) * stimeUnit
    next := if u.flag (F.TIM_TPOn_CTRL_PERIODIC n) then some (k + u.num (R.TIM_TPOn_PER n)) else none }

theorem tpoEdge_of_next {s : State} {n k : Nat} (h : (s.tpo n).next = some k) :
    s.tpoEdge n = (s.runAhead (k * stimeUnit - s.stimeExt)).tpoRisen n k := by
  simp [State.tpoEdge, State.tpoRisen, h]

theorem tpoEdge_rises (s u : State) (n : Fin 4) (k : Nat) (hreset : s.sys.inReset = false)
    (hnext : (s.tpo n).next = some k) (hu : u = s.runAhead (k * stimeUnit - s.stimeExt)) :
    Answers (.tpoEdge n) s fun t =>
      (t.tpo n).active = true ∧ (t.tpo n).endAt = u.tim.acc + u.num (R.TIM_TPOn_WIDTH n) * stimeUnit ∧
      ((t.tpo n).next = if u.flag (F.TIM_TPOn_CTRL_PERIODIC n) then some (k + u.num (R.TIM_TPOn_PER n)) else none) ∧
      Only [.tim] u t := by
  refine ⟨_, rfl, ?_⟩
  rw [live_runs hreset, tpoEdge_of_next hnext, ← hu]
  refine ⟨?_, ?_, ?_, setTpo_only u n _⟩ <;> rw [State.tpoRisen, tpo_setTpo_same]

/-- The output once its pulse has ended and nothing has been taken yet. -/
def State.tpoFallen (u : State) (n : Nat) : State := u.setTpo n { u.tpo n with active := false }

theorem tpoPulseEnd_of_active {s : State} {n : Nat} (h : (s.tpo n).active = true) :
    s.tpoPulseEnd n = (((s.runAhead ((s.tpo n).endAt - s.tim.acc)).tpoFallen n).tpoTakeWaiting n).when
      (!(s.tpo n).waiting.isEmpty) (·.tpoPlan n ((s.tpo n).waiting.any fun e => e.1 == .start) false) := by
  simp [State.tpoPulseEnd, State.tpoFallen, h, (tposKept_runAhead s ((s.tpo n).endAt - s.tim.acc)).tpo n]

theorem tpoPulseEnd_ends (s u : State) (n : Fin 4) (hreset : s.sys.inReset = false)
    (hpulse : (s.tpo n).active = true ∧ (s.tpo n).waiting = []) (hu : u = s.runAhead ((s.tpo n).endAt - s.tim.acc)) :
    Answers (.tpoPulseEnd n) s fun t =>
      (t.tpo n).active = false ∧ (t.tpo n).next = (s.tpo n).next ∧ Only [.tim] u t := by
  obtain ⟨hactive, hwait⟩ := hpulse
  have hkept : u.tpo n = s.tpo n := hu ▸ (tposKept_runAhead s _).tpo n
  refine ⟨_, rfl, ?_⟩
  rw [live_runs hreset, tpoPulseEnd_of_active hactive, hwait, List.isEmpty_nil, Bool.not_true, when_ignored rfl, ← hu]
  have htake : (u.tpoFallen n).tpoTakeWaiting n = (u.tpoFallen n).setTpo n { (u.tpoFallen n).tpo n with waiting := [] } := by
    simp [State.tpoTakeWaiting, State.tpoFallen, hkept, hwait]
  rw [htake]
  refine ⟨?_, ?_, (setTpo_only u n _).step (setTpo_only _ n _) (List.Subset.refl _)⟩
  · rw [tpo_setTpo_same, State.tpoFallen, tpo_setTpo_same]
  · rw [tpo_setTpo_same, State.tpoFallen, tpo_setTpo_same, hkept]

/-- The register that waited has its value, and nothing waits. -/
def State.tpoTaken (u : State) (n : Nat) (r : TpoReg) (v : Word) : State :=
  ((u.tpoFallen n).wr (tpoAddr n r) v).setTpo n { u.tpo n with active := false, waiting := [] }

theorem tpoTakeWaiting_one {u : State} {n : Nat} {r : TpoReg} {v : Word} (h : (u.tpo n).waiting = [(r, v)]) :
    (u.tpoFallen n).tpoTakeWaiting n = u.tpoTaken n r v := by
  simp [State.tpoTakeWaiting, State.tpoTaken, State.tpoFallen, h]

theorem tpoPulseEnd_takes (s u : State) (n : Fin 4) (r : TpoReg) (v : Word) (hreset : s.sys.inReset = false)
    (hpulse : (s.tpo n).active = true ∧ (s.tpo n).waiting = [(r, v)])
    (hu : u = s.runAhead ((s.tpo n).endAt - s.tim.acc)) :
    Answers (.tpoPulseEnd n) s fun t =>
      (t.tpo n).active = false ∧ (t.tpo n).waiting = [] ∧ t.rd (tpoAddr n r) = v ∧
      OnlyRegs [R.TIM_TPOn_CTRL n, tpoAddr n r] u t ∧ Only [.regs, .tim] u t := by
  obtain ⟨hactive, hwait⟩ := hpulse
  have hkept : (u.tpo n).waiting = [(r, v)] := by rw [hu, (tposKept_runAhead s _).tpo n, hwait]
  refine ⟨_, rfl, ?_⟩
  rw [live_runs hreset, tpoPulseEnd_of_active hactive, hwait, List.isEmpty_cons, Bool.not_false, when_holds rfl, ← hu,
    tpoTakeWaiting_one hkept]
  have hrd : (u.tpoTaken n r v).rd (tpoAddr n r) = v := rd_wr_same _ _ _
  have htpo : (u.tpoTaken n r v).tpo n = { u.tpo n with active := false, waiting := [] } := tpo_setTpo_same _ _ _
  have htaken : Only [.regs, .tim] u (u.tpoTaken n r v) :=
    only_setTpo (((setTpo_only u n _).subset (by decide)).wr _ _ (by decide)) n _ (by decide)
  obtain ⟨hregs, honly⟩ := tpoPlan_unmarked_frame (u.tpoTaken n r v) n ([(r, v)].any fun e => e.1 == .start)
  obtain ⟨hidle, hnone⟩ := tpoPlan_unmarked_idle (n := n) (by rw [htpo]) ([(r, v)].any fun e => e.1 == .start)
  refine ⟨hidle, by rw [hnone, htpo], ?_, fun a ha => ?_, ?_⟩
  · rw [hregs _ (by simpa using tpoAddr_ne_ctrl n r), hrd]
  · simp only [List.mem_cons, List.not_mem_nil, or_false, not_or] at ha
    rw [hregs a (by simpa using ha.1)]
    exact rd_wr_other (u.tpoFallen n) v ha.2
  · exact htaken.step honly (List.Subset.refl _)

/-! A write of START, PER or WIDTH (R209) -/

theorem tpoConfigWrite_waits (s : State) (n : Fin 4) (r : TpoReg) (v : Word) (hreset : s.sys.inReset = false)
    (hpulse : s.flag (F.TIM_TPOn_CTRL_EN n) = true ∧ (s.tpo n).active = true) :
    Answers (.tpoConfigWrite n r v) s fun t =>
      (t.tpo n).waiting = (s.tpo n).waiting ++ [(r, v)] ∧ t.regs = s.regs ∧ Only [.tim] s t := by
  have hconf : s.tpoConfig n r v = s.setTpo n { s.tpo n with waiting := (s.tpo n).waiting ++ [(r, v)] } := by
    simp [State.tpoConfig, hpulse]
  refine ⟨_, rfl, ?_⟩
  rw [live_runs hreset, hconf]
  exact ⟨by rw [tpo_setTpo_same], rfl, setTpo_only s n _⟩

/-- Outside a pulse the register takes its value, and at most the control register and the plan follow. -/
theorem tpoConfig_frame {s : State} {n : Nat} (h : s.flag (F.TIM_TPOn_CTRL_EN n) = false ∨ (s.tpo n).active = false)
    (r : TpoReg) (v : Word) : TpoFrame n (s.wr (tpoAddr n r) v) (s.tpoConfig n r v) := by
  have hidle : (s.flag (F.TIM_TPOn_CTRL_EN n) && (s.tpo n).active) = false := by
    rcases h with h | h <;> simp [h]
  unfold State.tpoConfig
  rw [hidle, if_neg Bool.false_ne_true]
  dsimp only
  split
  · exact tpoPlan_unmarked_frame _ n _
  · unfold State.when
    split
    · exact ((CtrlOnly.refl n _).setFlag _ _ rfl).frame
    · exact TpoFrame.refl n _

theorem tpoConfigWrite_takes (s : State) (n : Fin 4) (r : TpoReg) (v : Word) (hreset : s.sys.inReset = false)
    (hidle : s.flag (F.TIM_TPOn_CTRL_EN n) = false ∨ (s.tpo n).active = false) :
    Answers (.tpoConfigWrite n r v) s fun t =>
      t.rd (tpoAddr n r) = v ∧ OnlyRegs [R.TIM_TPOn_CTRL n, tpoAddr n r] s t ∧ Only [.regs, .tim] s t := by
  obtain ⟨hregs, honly⟩ := tpoConfig_frame hidle r v
  refine ⟨_, rfl, ?_⟩
  rw [live_runs hreset]
  refine ⟨?_, fun a ha => ?_, ((Only.refl [.regs, .tim] s).wr _ _ (by decide)).step honly (List.Subset.refl _)⟩
  · rw [hregs _ (by simpa using tpoAddr_ne_ctrl n r), rd_wr_same]
  · simp only [List.mem_cons, List.not_mem_nil, or_false, not_or] at ha
    rw [hregs a (by simpa using ha.1), rd_wr_other s v ha.2]

/-! The input (R210) -/

/-- An edge that is selected and no short pulse: it captures, or is lost to a capture that is held. -/
theorem tpiEdge_of_selected {s : State} {rising : Bool} {before after : Nat}
    (hsel : s.flag F.TIM_TPI_CTRL_EN = true ∧ s.flag F.TIM_TPI_CTRL_EDGE = !rising) (hlong : 20 ≤ before ∧ 20 ≤ after) :
    s.tpiEdge rising before after =
      if s.flag F.TIM_TPI_FRAC_RDY then s.setFlag F.TIM_TPI_FRAC_OVR true
      else ((s.wrN R.TIM_TPI_NS s.stimeNs).put F.TIM_TPI_FRAC_FRAC s.stime48).setFlag F.TIM_TPI_FRAC_RDY true := by
  obtain ⟨hen, hedge⟩ := hsel
  have hb : Nat.blt before 20 = false := by rw [Bool.eq_false_iff, ne_eq, Nat.blt_eq]; omega
  have ha : Nat.blt after 20 = false := by rw [Bool.eq_false_iff, ne_eq, Nat.blt_eq]; omega
  refine if_neg ?_
  simp [hen, hedge, hb, ha]

theorem tpiEdge_captures (s : State) (rising : Bool) (before after : Nat) (hreset : s.sys.inReset = false)
    (hsel : s.flag F.TIM_TPI_CTRL_EN = true ∧ s.flag F.TIM_TPI_CTRL_EDGE = !rising) (hlong : 20 ≤ before ∧ 20 ≤ after)
    (hfree : s.flag F.TIM_TPI_FRAC_RDY = false) :
    Answers (.tpiEdge rising before after) s fun t =>
      t.rd R.TIM_TPI_NS = BitVec.ofNat 32 s.stimeNs ∧ t.get F.TIM_TPI_FRAC_FRAC = s.stime48 % 65536 ∧
      t.get F.TIM_TPI_FRAC_RDY = 1 ∧ OnlyRegs [R.TIM_TPI_NS, R.TIM_TPI_FRAC] s t ∧ Only [.regs] s t := by
  refine ⟨_, rfl, ?_⟩
  rw [live_runs hreset, tpiEdge_of_selected hsel hlong, hfree, if_neg Bool.false_ne_true]
  refine ⟨?_, ?_, get_put_same _ F.TIM_TPI_FRAC_RDY (by decide) _, ?_, ?_⟩
  · rw [rd_setFlag_other _ _ _ (by decide), rd_put_other _ _ _ (by decide)]
    exact rd_wr_same _ _ _
  · rw [get_setFlag_other _ _ _ (by decide) _ (by decide)]
    exact get_put_same _ F.TIM_TPI_FRAC_FRAC (by decide) _
  · refine OnlyRegs.setFlag (OnlyRegs.put (fun a ha => ?_) (by decide)) (by decide)
    simp only [List.mem_cons, not_or] at ha
    exact rd_wr_other s _ ha.1
  · exact only_setFlag (only_put ((Only.refl _ s).wr _ _ (by decide)) _ _ (by decide)) _ _ (by decide)

theorem tpiEdge_overruns (s : State) (rising : Bool) (before after : Nat) (hreset : s.sys.inReset = false)
    (hsel : s.flag F.TIM_TPI_CTRL_EN = true ∧ s.flag F.TIM_TPI_CTRL_EDGE = !rising) (hlong : 20 ≤ before ∧ 20 ≤ after)
    (hheld : s.flag F.TIM_TPI_FRAC_RDY = true) :
    Answers (.tpiEdge rising before after) s fun t =>
      t.get F.TIM_TPI_FRAC_OVR = 1 ∧ OnlyRegs [R.TIM_TPI_FRAC] s t ∧ t.rd R.TIM_TPI_NS = s.rd R.TIM_TPI_NS ∧
      Only [.regs] s t := by
  refine ⟨_, rfl, ?_⟩
  rw [live_runs hreset, tpiEdge_of_selected hsel hlong, if_pos hheld]
  exact ⟨get_put_same s F.TIM_TPI_FRAC_OVR (by decide) _, (OnlyRegs.refl _ s).setFlag (by decide),
    rd_setFlag_other s _ _ (by decide), only_setFlag (Only.refl _ s) _ _ (List.Subset.refl _)⟩

theorem tpiEdge_short (s : State) (rising : Bool) (before after : Nat) (hshort : before < 20 ∨ after < 20) :
    Answers (.tpiEdge rising before after) s fun t => t = s := by
  refine ⟨_, rfl, live_idle (if_pos ?_)⟩
  rcases hshort with h | h <;> simp [Nat.blt_eq, h]

/-- Settles O39: outputs by what a plan schedules, ends and takes, the input by its edge. -/
theorem timePulses : Obligations.TimePulses := by
  unfold Obligations.TimePulses
  exact ⟨tpoEnable_schedules_start, tpoEnable_schedules_train, tpoEnable_misses, tpoEnable_refuses, tpoEdge_rises,
    tpoPulseEnd_ends, tpoPulseEnd_takes, tpoConfigWrite_waits, tpoConfigWrite_takes, tpiEdge_captures, tpiEdge_overruns,
    tpiEdge_short⟩

end Sys2Proof.Machine
end
